-- ==== Sys2Proof/Word.lean ====
section
/-! DEFINITION. The word types of the GX240: 64-bit registers, 32-bit registers, bytes, and the
64-byte descriptor of R153. Arithmetic on them is `BitVec`'s own, modulo 2^width (R191). -/

namespace Sys2Proof

/-- A 64-bit register or instruction word (R10, R158). -/
abbrev Word := BitVec 64
/-- A 32-bit register or field (R10). -/
abbrev Half := BitVec 32
/-- One byte of memory. -/
abbrev Byte := BitVec 8
/-- A descriptor register: 64 bytes, word i in bits 64i+63..64i (R153, R200). -/
abbrev Desc := BitVec 512
/-- A cell number, C0 to C255 (R19). -/
abbrev CellId := Fin 256

end Sys2Proof
end

