-- ==== Sys2Proof/Syntax.lean ====
section
/-! DEFINITION. The commands of the GX240: one constructor per row of spec/opcode_table.json, with the
row's operands. A row that is an instruction carries the cell it runs on and the fields of its
encoding (R158 to R160), reserved ones included; a row that is an event carries what the event
concerns and, where the event's outcome comes from outside the model (an ECC outcome, a peer's
frame), that outcome. -/

namespace Sys2Proof

/-- The fields of a short-form word, and of the first word of a long form (R159). -/
structure SForm where
  imm32 : BitVec 32 := 0
  func : BitVec 7 := 0
  rb : BitVec 5 := 0
  ra : BitVec 5 := 0
  rd : BitVec 5 := 0
  deriving DecidableEq, Repr

/-- The fields of a branch word (R159, short form B). -/
structure BForm where
  off32 : BitVec 32 := 0
  cond : BitVec 7 := 0
  rb : BitVec 5 := 0
  ra : BitVec 5 := 0
  bhint : BitVec 5 := 0
  deriving DecidableEq, Repr

/-- The fields of the second word of a long form (R159). -/
structure LForm where
  oc_c : BitVec 12 := 0
  oc_b : BitVec 12 := 0
  oc_a : BitVec 12 := 0
  dsel : BitVec 4 := 0
  q : BitVec 4 := 0
  acc : BitVec 3 := 0
  psem : BitVec 6 := 0
  pen : Bool := false
  ext : BitVec 10 := 0
  deriving DecidableEq, Repr

/-- The outcome of reading one line's frame (R241): nothing, a corrected error, or an uncorrectable
error in the sectors given. -/
structure FrameEcc where
  corrected : Bool := false
  bad : BitVec 4 := 0
  deriving DecidableEq, Repr

/-- The outcome of reading HBM blocks (R251): how many were corrected, and which physical 64-byte
blocks (address / 64) hold an uncorrectable error. -/
structure HbmEcc where
  corrected : Nat := 0
  bad : List Nat := []
  deriving DecidableEq, Repr

/-- The outcome of reading a frame of a slice's window (R241): the frame that holds window offset `off`. -/
structure WinEcc where
  slice : CellId
  off : Nat
  corrected : Bool := false
  bad : Bool := false
  deriving DecidableEq, Repr

/-- An operand together with what the accesses of its command meet, from outside the model. -/
structure Meets (α ε : Type) where
  arg : α
  met : ε
  deriving DecidableEq, Repr

/-- What the hardware finds while a command reads memory, from outside the model: in HBM (R251), in the frames of
lines (physical address / 256) and in the frames of windows (R241). -/
structure MemUpset where
  hbm : HbmEcc := {}
  lines : List (Nat × FrameEcc) := []
  wins : List WinEcc := []
  deriving DecidableEq, Repr

/-- What the hardware finds while a command reads its operands, from outside the model: whether
the residue check of R96 fails, how many OC reads were corrected, which OC slots an uncorrectable
OC error poisons (R120), and what it finds in memory (R241, R251). -/
structure Upset where
  residue : Bool := false
  ocCorrected : Nat := 0
  ocBad : List (BitVec 12) := []
  mem : MemUpset := {}
  deriving DecidableEq, Repr

/-- Who makes a register access (R246, R481): the host through BAR0, a service core, root firmware,
a debugger through JTAG, or the sequencer of the cell itself through CSRW. -/
inductive Origin where
  | host
  | service (core : Fin 4)
  | root
  | debug
  | ownCell
  deriving DecidableEq, Repr

/-- The scopes of BAR (R209). -/
inductive BarScope where
  | band (k : Fin 16)
  | all
  deriving DecidableEq, Repr

/-- The agents of R221 and R263 that read and write memory. -/
inductive Agent where
  | cell (c : CellId)
  | fetch (c : CellId)
  | stream (c : CellId)
  | harvest (band : Fin 16)
  | parade
  | host
  deriving DecidableEq, Repr

/-- The operation of an in-cache reduction (R226). -/
inductive RedOp where
  | add | max
  deriving DecidableEq, Repr

/-- A reduction contribution to one line (R226, R228): operation, class, mask of whole words, the 64
words, whether its data carry poison, the expected count n and the tag t, the source tag, and the agent that sends it
(R221). -/
structure Contrib where
  op : RedOp
  cls : Fin 8
  mask : BitVec 64
  words : BitVec 2048
  poison : Bool := false
  n : Nat := 1
  t : Nat := 0
  src : Nat := 0
  agent : Agent
  deriving DecidableEq, Repr

/-- What a self-test finds (R97): failing array rows and columns, single elements (row, column), and
whether the MV path fails. -/
structure SelftestFinding where
  rows : List (Fin 64) := []
  cols : List (Fin 64) := []
  elems : List (Fin 64 × Fin 64) := []
  mvBad : Bool := false
  deriving DecidableEq, Repr

/-- How a vertical flit's CRC error ends (R236 to R240): after how many replays (1 to 4) it was
delivered, or that the fourth failed and diagnosis found this many failing lanes; whether this error
charges a lane with its eighth error in 2^20 cycles. -/
structure VportFault where
  replays : Nat := 1
  failed : Bool := false
  lanes : Nat := 0
  eighth : Bool := false
  deriving DecidableEq, Repr

/-- The producer of a conveyor item (R309): the cell's own QPUSH, a stream slot of a cell, or a transfer
that was abandoned while its packet was open. -/
inductive Producer where
  | push
  | slot (c : CellId) (n : Fin 6)
  | gone
  deriving DecidableEq, Repr

/-- A received frame's outer part (R376): the sender, what the checks of CRC-32C, UDP checksum and FCS said,
and whether it carried a congestion mark. -/
structure FrameIn where
  src : BitVec 16
  intact : Bool := true
  ver : BitVec 4 := 1
  rsvd : BitVec 4 := 0
  epoch : BitVec 16 := 0
  psn : BitVec 32 := 0
  /-- A type from 5 to 15. -/
  badType : Bool := false
  /-- apsn, where flags.ackv says that it is valid. -/
  apsn : Option (BitVec 32) := none
  slow : Bool := false
  ce : Bool := false
  cid : BitVec 12 := 0
  cseq : BitVec 32 := 0
  phase : BitVec 4 := 0
  rank : BitVec 16 := 0
  offset : BitVec 48 := 0
  deriving DecidableEq, Repr

/-- The payload of a received HELLO (R380), and whether the peer has acknowledged this chip's own. -/
structure HelloIn where
  chip : BitVec 64
  sysId : BitVec 64 := 0
  epoch : BitVec 32 := 0
  version : Nat := 1
  credit : Nat := 0x100000
  acked : Bool := false
  deriving DecidableEq, Repr

/-- The payload of a received ACK (R382): the selective map from apsn on, the acknowledged bytes that arrived
marked, and the credit; with the round-trip time in ns as this chip's smoothing then has it. -/
structure AckIn where
  map : BitVec 256 := 0
  ceBytes : Nat := 0
  credit : Nat := 0x100000
  srtt : Nat := 0
  deriving DecidableEq, Repr

/-- A member's exchange record (R349): its rank, the header's fields, and its fingerprint words. -/
structure ExRecord where
  rank : Nat
  outcome : Nat := 0
  lsState : Nat := 0
  scope : Nat := 0
  layerCnt : Nat := 0
  step : Nat := 0
  commitCnt : Nat := 0
  words : List Nat := []
  deriving DecidableEq, Repr

/-- What the other members send in a round of bisection (R351, R352): their words by rank and layer, the bytes
that the reference sends this chip in a repair, by layer, group and tensor kind, and the fingerprints after it. -/
structure RoundIn where
  words : List (Nat × Nat × List Nat) := []
  repair : List (Nat × Nat × Nat × List Byte) := []
  again : List (Nat × Nat × Nat) := []
  /-- The status with which the Parade engine aborts the exchange. -/
  aborted : Option Nat := none
  deriving DecidableEq, Repr

/-- What a replay finds of one layer in the capture (R364). -/
structure CapLayer where
  nonfinite : Bool := false
  poison : Bool := false
  layer : Nat := 0
  nfRank : Nat := 0xFFFFFFFF
  count : Nat := 0
  sumsq : Nat := 0
  gradFp : Nat := 0
  pendFp : Nat := 0
  gradCrcs : List Nat := []
  pendCrcs : List Nat := []
  deriving DecidableEq, Repr

/-- A host input of a capture (R364, type 3): a write that landed in device memory, or a command submitted to a queue. -/
inductive HostIn where
  | write (pa : Nat) (bytes : List Byte)
  | command (q : Fin 64) (bytes : Desc)
  deriving DecidableEq, Repr

/-- An inbound payload of a capture (R364, type 4): collective, sequence, sending rank, byte offset, data. -/
structure CapPayload where
  cid : Nat
  cseq : Nat
  rank : Nat
  offset : Nat
  data : List Byte
  deriving DecidableEq, Repr

/-- What a replay finds in the capture (R364): whether it is complete, the committed fingerprints of its start
record, the seeds of the cells, the host inputs in arrival order, the inbound payloads, the layers, and how many records
and bytes it holds. The spec does not lay the records out to the bit. -/
structure CapIn where
  complete : Bool := true
  fps : List Nat := []
  seeds : List (Word × Word) := []
  inputs : List HostIn := []
  payloads : List CapPayload := []
  layers : List CapLayer := []
  records : Nat := 0
  bytes : Nat := 0
  deriving DecidableEq, Repr, Inhabited

/-- What the power controller is given for an interval of 2 µs (R448, R458): the readings of the 64 on-die
sensors and of the 20 stacks in 1/16 °C, and the activities a_2 to a_15. -/
structure IntervalIn where
  temps : List Int := []
  hbmTemps : List Int := []
  acts : List Nat := []
  deriving DecidableEq, Repr

/-- How far the CXL link trains (R410, R469): not at all, as PCIe only, or fully. -/
inductive LinkIn where
  | down | pcie | cxl
  deriving DecidableEq, Repr

/-- The contents of the platform record that bring-up uses (R467): the interleave mode, the mode and medium of
the ports (as FL_Pp_CFG), and FL_CTRL as service firmware writes it. -/
structure PlatformIn where
  ilv : Fin 4 := 0
  ports : List (Fin 18 × BitVec 32) := []
  flCtrl : BitVec 32 := 0x81
  deriving DecidableEq, Repr

/-- What one run of the bring-up steps 0x04 to 0x0F meets (R467, R469): whether regulators and floor PLLs come
up, whether the loaded image has the verified digest, the calibration blocks that fail (R468 numbers them), a
stack that fails training twice, how far the CXL link trains, the self-tests of the arrays, the interfaces that
enter FAULT with their reasons, the spare lanes that the test of the vertical interfaces takes (R237, R245) by slice
and interface, the platform record's contents, a step at which service firmware stays, and the
time that the run takes in µs. -/
structure BringIn where
  rails : Bool := true
  pll : Bool := true
  digest : Bool := true
  badCal : List (Fin 9) := []
  badStack : Option (Fin 20) := none
  link : LinkIn := .cxl
  selftests : List (CellId × SelftestFinding) := []
  badIfs : List (Fin 18 × Fin 4 × Fin 6) := []
  lanes : List (CellId × Fin 4 × Nat) := []
  platform : PlatformIn := {}
  stuck : Option (Fin 16) := none
  sub : Fin 20 := 0
  us : Nat := 835000
  deriving DecidableEq, Repr

/-- A lifecycle token (R488): the state it leads to, the chip it is bound to, and its signature. -/
structure TokenIn where
  target : Nat
  chip : BitVec 64
  signature : List Byte
  deriving DecidableEq, Repr

/-- What DBG_UNLOCK carries (R489, R511): a signature over the challenge, or a lifecycle token. -/
inductive UnlockIn where
  | signature (sig : List Byte)
  | token (t : TokenIn)
  deriving DecidableEq, Repr

/-- The transports of SPDM (R490). -/
inductive SpdmPort where
  | doe | i3c
  deriving DecidableEq, Repr

/-- A FINISH request (R490): its transport and the MAC that it carries. -/
structure FinishIn where
  port : SpdmPort
  mac : List Byte
  deriving DecidableEq, Repr

/-- A DOE request (R433): discovery of the protocol at an index, or a CDAT table access. -/
inductive DoeIn where
  | discovery (index : Nat)
  | cdat
  deriving DecidableEq, Repr

/-- What a register write names: a device physical address, an offset of BAR2, the HDM decoder, whose host base is
committed or taken back, or MSI-X Enable and Function Mask of configuration space (R413, R417, R426). -/
inductive Target where
  | reg (pa : Nat)
  | bar2 (off : Nat)
  | hdm (base : Option Nat)
  | msix (enable mask : Bool)
  deriving DecidableEq, Repr

/-- The host's answer to an ATS translation request (R261): the frame of the 4 KiB host page with the
permissions it grants. -/
structure AtsIn where
  frame : Nat
  r : Bool := true
  w : Bool := true
  deriving DecidableEq, Repr

/-- The commands: one constructor for each row of the opcode table, in its order. -/
inductive Instr where
  /-- ALU: scalar register-register arithmetic or logic operation selected by func (R191, R192). -/
  | alu (c : CellId) (f : SForm)
  /-- ALUI: scalar arithmetic or logic operation with a sign-extended immediate (R191, R192). -/
  | alui (c : CellId) (f : SForm)
  /-- MUL: scalar multiply giving the low, signed-high or unsigned-high 64 bits of the product (R191). -/
  | mul (c : CellId) (f : SForm)
  /-- MOVI: loads a sign-extended immediate into a scalar register (R191). -/
  | movi (c : CellId) (f : SForm)
  /-- MOVHI: places an immediate in the upper half of a scalar register and keeps the lower half of ra (R191).
  -/
  | movhi (c : CellId) (f : SForm)
  /-- LD: scalar load from coherent space, with translation, permission and poison checks (R191, R213, R214,
  R224). -/
  | ld (c : CellId) (f : Meets SForm Upset)
  /-- ST: scalar store to coherent space (R191, R273). -/
  | st (c : CellId) (f : Meets SForm Upset)
  /-- LDO: scalar load from an OC byte offset (R119, R120, R191). -/
  | ldo (c : CellId) (f : SForm) (u : Upset)
  /-- STO: scalar store to an OC byte offset (R119, R191). -/
  | sto (c : CellId) (f : SForm) (u : Upset)
  /-- SPF: prefetch hint that warms translations and the Hirrium cache and never faults (R175, R191). -/
  | spf (c : CellId) (f : SForm)
  /-- DLD: loads a descriptor register from an OC slot (R190, R191). -/
  | dld (c : CellId) (f : SForm) (x : LForm) (u : Upset)
  /-- DLDM: loads a descriptor register from 64 bytes of memory (R190, R191, R273). -/
  | dldm (c : CellId) (f : SForm) (x : LForm) (u : Upset)
  /-- DSTO: stores a descriptor register to an OC slot (R191). -/
  | dsto (c : CellId) (f : SForm) (x : LForm) (u : Upset)
  /-- DSETW: writes one word of a descriptor register from a scalar register (R190, R191). -/
  | dsetw (c : CellId) (f : SForm) (x : LForm) (u : Upset)
  /-- DGETW: reads one word of a descriptor register into a scalar register (R191). -/
  | dgetw (c : CellId) (f : SForm) (x : LForm) (u : Upset)
  /-- BR: conditional branch on a comparison of two scalar registers (R191, R193). -/
  | br (c : CellId) (f : BForm)
  /-- BLOOP: decrements a loop counter and branches while it is non-zero, with loop prediction (R169, R170,
  R191). -/
  | bloop (c : CellId) (f : BForm)
  /-- JAL: jump and link to a PC-relative target, pushing the return stack (R191). -/
  | jal (c : CellId) (f : SForm)
  /-- JALR: indirect jump and link, unpredicted or predicted from the return stack (R191). -/
  | jalr (c : CellId) (f : SForm)
  /-- CSRR: reads 8 bytes of the cell's own register region (R154, R191, R194, R246). -/
  | csrr (c : CellId) (f : SForm)
  /-- CSRW: writes one or both halves of an 8-byte unit of the cell's register region (R154, R191, R194). -/
  | csrw (c : CellId) (f : SForm)
  /-- NOP: does nothing (R191). -/
  | nop (c : CellId) (f : SForm)
  /-- BRK: takes a BREAK fault with an immediate code (R191). -/
  | brk (c : CellId) (f : SForm)
  /-- TRET: returns from the fault handler to SQ_EPC and clears in_handler (R177, R191). -/
  | tret (c : CellId) (f : SForm)
  /-- SEMPOST: adds n to a semaphore of this cell as a release (R196, R270, R278, R279). -/
  | sempost (c : CellId) (f : SForm)
  /-- SEMWAIT: waits for a semaphore count of at least n, checking its marks, then subtracts n as an acquire
  (R196, R278, R280, R281). -/
  | semwait (c : CellId) (f : SForm)
  /-- SEMPOSTR: posts n to a semaphore of another cell as a release (R196, R270, R278, R279). -/
  | sempostr (c : CellId) (f : SForm)
  /-- QPUSH: writes one item to a conveyor once it has room, optionally marking end of packet (R196, R308, R309,
  R310). -/
  | qpush (c : CellId) (f : SForm) (x : LForm) (u : Upset)
  /-- QPOP: reads one item from a conveyor into an OC slot and returns its end mark (R196, R308, R310, R312). -/
  | qpop (c : CellId) (f : SForm) (x : LForm) (u : Upset)
  /-- QCNT: returns the number of whole packets waiting in a conveyor (R196, R310). -/
  | qcnt (c : CellId) (f : SForm) (x : LForm) (u : Upset)
  /-- QMARK: sets the conveyor mark at the read position (R196, R310). -/
  | qmark (c : CellId) (f : SForm) (x : LForm) (u : Upset)
  /-- QREWIND: returns the conveyor read position to the mark (R196, R310, R312). -/
  | qrewind (c : CellId) (f : SForm) (x : LForm) (u : Upset)
  /-- QREL: releases conveyor items before the read position (R196, R310). -/
  | qrel (c : CellId) (f : SForm) (x : LForm) (u : Upset)
  /-- SXGO: starts the stream transfer held in a descriptor register (R16, R117, R156, R163). -/
  | sxgo (c : CellId) (f : SForm) (x : LForm) (u : Upset)
  /-- MMA: matrix multiply-accumulate of an activation bank and weight panels into accumulators (R36, R47, R48,
  R50). -/
  | mma (c : CellId) (f : SForm) (x : LForm) (u : Upset)
  /-- MMAT: matrix multiply-accumulate with the weight operand read transposed (R36, R59, R61, R62). -/
  | mmat (c : CellId) (f : SForm) (x : LForm) (u : Upset)
  /-- GFILL: gathers activation rows from a conveyor into a bank and issues a matrix tile with a manifest (R36,
  R59, R61, R77). -/
  | gfill (c : CellId) (f : SForm) (x : LForm) (u : Upset)
  /-- MMV: matrix-vector product on the MV path into an FP32 region of OC (R36, R47, R59, R60). -/
  | mmv (c : CellId) (f : SForm) (x : LForm) (u : Upset)
  /-- MXLD: copies FP32 values from OC into an accumulator span (R80, R91, R110, R111). -/
  | mxld (c : CellId) (f : SForm) (x : LForm) (u : Upset)
  /-- MXST: converts an accumulator tile with optional scaling and writes it to its destination (R53, R54, R55,
  R56). -/
  | mxst (c : CellId) (f : SForm) (x : LForm) (u : Upset)
  /-- VADD: element-wise vector addition (R48, R50, R51, R53). -/
  | vadd (c : CellId) (f : SForm) (x : LForm) (u : Upset)
  /-- VSUB: element-wise vector subtraction (R58, R124, R205). -/
  | vsub (c : CellId) (f : SForm) (x : LForm) (u : Upset)
  /-- VMUL: element-wise vector multiplication (R58, R124, R205). -/
  | vmul (c : CellId) (f : SForm) (x : LForm) (u : Upset)
  /-- VFMA: element-wise fused multiply-add (R58, R122, R124, R203). -/
  | vfma (c : CellId) (f : SForm) (x : LForm) (u : Upset)
  /-- VFMAW: widening fused multiply-add of short operands into an FP32 result (R58, R123, R124, R205). -/
  | vfmaw (c : CellId) (f : SForm) (x : LForm) (u : Upset)
  /-- VMIN: element-wise IEEE minimum (R49, R124, R205). -/
  | vmin (c : CellId) (f : SForm) (x : LForm) (u : Upset)
  /-- VMAX: element-wise IEEE maximum (R49, R124, R205). -/
  | vmax (c : CellId) (f : SForm) (x : LForm) (u : Upset)
  /-- VCMP: element-wise comparison written as a bit mask (R49, R124, R205). -/
  | vcmp (c : CellId) (f : SForm) (x : LForm) (u : Upset)
  /-- VSEL: element-wise selection between two operands by a bit mask (R124, R203, R205). -/
  | vsel (c : CellId) (f : SForm) (x : LForm) (u : Upset)
  /-- VMOV: element-wise copy (R124, R205). -/
  | vmov (c : CellId) (f : SForm) (x : LForm) (u : Upset)
  /-- VABS: element-wise absolute value (R124, R205). -/
  | vabs (c : CellId) (f : SForm) (x : LForm) (u : Upset)
  /-- VNEG: element-wise sign inversion (R124, R205). -/
  | vneg (c : CellId) (f : SForm) (x : LForm) (u : Upset)
  /-- VCVT: element-wise format conversion with a selectable FP8 overflow mode (R48, R50, R51, R52). -/
  | vcvt (c : CellId) (f : SForm) (x : LForm) (u : Upset)
  /-- FEXP2: function unit base-2 exponential (R51, R52, R125, R126). -/
  | fexp2 (c : CellId) (f : SForm) (x : LForm) (u : Upset)
  /-- FLOG2: function unit base-2 logarithm (R125, R127, R129, R130). -/
  | flog2 (c : CellId) (f : SForm) (x : LForm) (u : Upset)
  /-- FRCP: function unit correctly rounded reciprocal (R125, R128, R129, R130). -/
  | frcp (c : CellId) (f : SForm) (x : LForm) (u : Upset)
  /-- FRSQ: function unit correctly rounded reciprocal square root (R125, R128, R129, R130). -/
  | frsq (c : CellId) (f : SForm) (x : LForm) (u : Upset)
  /-- RSUM: per-row FP32 sum in fixed tree order (R131, R132, R144, R147). -/
  | rsum (c : CellId) (f : SForm) (x : LForm) (u : Upset)
  /-- RSUMD: per-row FP64 sum in fixed tree order (R131, R132, R206). -/
  | rsumd (c : CellId) (f : SForm) (x : LForm) (u : Upset)
  /-- RSSQ: per-row FP64 sum of squares, optionally added into an RU_FACC accumulator (R131, R132, R134, R206).
  -/
  | rssq (c : CellId) (f : SForm) (x : LForm) (u : Upset)
  /-- RMAX: per-row maximum (R131, R133, R206). -/
  | rmax (c : CellId) (f : SForm) (x : LForm) (u : Upset)
  /-- RMIN: per-row minimum (R131, R133, R206). -/
  | rmin (c : CellId) (f : SForm) (x : LForm) (u : Upset)
  /-- RAMAX: per-row largest value and its index (R131, R133, R206). -/
  | ramax (c : CellId) (f : SForm) (x : LForm) (u : Upset)
  /-- RFSTORE_SLOT: writes an RU_FACC accumulator to an OC slot (R134, R206). -/
  | rfstoreSlot (c : CellId) (f : SForm) (x : LForm) (u : Upset)
  /-- RFSTORE_REG: reads an RU_FACC accumulator into a scalar register after earlier RU work completes (R134,
  R206). -/
  | rfstoreReg (c : CellId) (f : SForm) (x : LForm) (u : Upset)
  /-- RFCLR: sets an RU_FACC accumulator to +0 (R134, R206). -/
  | rfclr (c : CellId) (f : SForm) (x : LForm) (u : Upset)
  /-- VSMAX: row softmax with masking, producing probabilities and log-sum-exp (R122, R126, R127, R132). -/
  | vsmax (c : CellId) (f : SForm) (x : LForm) (u : Upset)
  /-- VSMON: online softmax over a row segment, updating per-row state records (R126, R135, R136, R139). -/
  | vsmon (c : CellId) (f : SForm) (x : LForm) (u : Upset)
  /-- VSMFIN: finishes online softmax rows, producing a factor and log-sum-exp (R127, R142, R143, R144). -/
  | vsmfin (c : CellId) (f : SForm) (x : LForm) (u : Upset)
  /-- HVSUB_DELIVER: HVSUB type 1 delivers a layer locally to the Harvest units (R16, R32, R164, R208). -/
  | hvsubDeliver (c : CellId) (f : SForm) (x : LForm) (u : Upset)
  /-- HVSUB_QUERY: HVSUB type 2 writes the 64-byte step record to an OC slot (R208, R342, R343). -/
  | hvsubQuery (c : CellId) (f : SForm) (x : LForm) (u : Upset)
  /-- EQNX: arrives at the Equinox barrier and returns the step outcome (R35, R208, R209, R340). -/
  | eqnx (c : CellId) (f : SForm)
  /-- BAR: arrives at the band or all-cell barrier (R208, R209, R270). -/
  | bar (c : CellId) (f : SForm)
  /-- PHASE: marks the start of a workload phase to the power controller (R187, R208). -/
  | phase (c : CellId) (f : SForm)
  /-- PHASE_ANN: announces the next expected workload phase to the power controller (R187, R208). -/
  | phaseAnn (c : CellId) (f : SForm)
  /-- FENCE: waits for every earlier instruction and stream transfer to complete and perform (R208, R303). -/
  | fence (c : CellId) (f : SForm)
  /-- FENCE_E: waits for every earlier instruction except stream transfers in progress (R208). -/
  | fenceE (c : CellId) (f : SForm)
  /-- ISYNC: discards prefetched instructions so new code becomes fetchable (R156, R208). -/
  | isync (c : CellId) (f : SForm)
  /-- YIELD: makes a yield point for a number of cycles (R185, R208). -/
  | yield (c : CellId) (f : SForm)
  /-- YIELD_EXPIRY: the cycle count of a YIELD runs out (R210). -/
  | yieldExpiry (c : CellId)
  /-- FAULT_DELIVERY: the oldest uncommitted faulting instruction is delivered: later work discarded, fault
  registers written, handler entered or cell halted (R16, R67, R68, R75). -/
  | faultDelivery (c : CellId) (imBad : Meets (BitVec 2) MemUpset)
  /-- LOOP_MISPREDICT: A BLOOP resolves against its prediction and every later instruction is discarded (R68,
  R110, R116, R148). -/
  | loopMispredict (c : CellId)
  /-- RUN_AHEAD_ENTRY: the sequencer stalls and enters run-ahead along predicted paths (R148, R174, R195). -/
  | runAheadEntry (c : CellId)
  /-- RUN_AHEAD_LIMIT: run-ahead stops after 512 instructions (R174). -/
  | runAheadLimit (c : CellId)
  /-- SQ_START: A write of SQ_CTRL.start starts a halted sequencer at SQ_PC (R155, R181, R182). -/
  | sqStart (o : Origin) (c : CellId)
  /-- SQ_HALT: A write of SQ_CTRL.halt stops dispatch at the next commit boundary, withdrawing any barrier
  arrival (R181, R182, R209). -/
  | sqHalt (o : Origin) (c : CellId)
  /-- ARRAY_LEND: the band's Harvest unit takes a cell's array at a yield point (R31, R112, R185, R334). -/
  | arrayLend (c : CellId)
  /-- ARRAY_RETURN: A lent array returns to its sequencer when a tensor instruction is ready (R31, R112, R186).
  -/
  | arrayReturn (c : CellId)
  /-- BARRIER_COMPLETE: every cell of a scope has arrived and the open barrier generation completes (R209,
  R271). -/
  | barrierComplete (k : BarScope)
  /-- SEMWAIT_SATISFIED: A waiting semaphore waiter reaches the head with enough count and takes it (R175, R271,
  R280). -/
  | semwaitSatisfied (c : CellId) (k : BitVec 6)
  /-- HELD_POST_DELIVERY: A post held at a sleeping cell's mesh port is delivered after the wake (R282). -/
  | heldPostDelivery (c : CellId)
  /-- SEM_VAL_WRITE: A register write sets a semaphore count, clears marks written with 1 and wakes satisfied
  waiters (R279, R281, R318, R319). -/
  | semValWrite (o : Origin) (c : CellId) (k : BitVec 6) (v : Half)
  /-- RU_FACC_WRITE: A register write to RU_FACC takes effect after RU instructions accumulating into it
  complete (R151). -/
  | ruFaccWrite (o : Origin) (c : CellId) (j : Fin 4) (v : Word)
  /-- MX_SELFTEST: A write to MX_SELFTEST starts a self-test once the array, MV path and store path are idle
  (R97). -/
  | mxSelftest (o : Origin) (c : CellId) (v : Half)
  /-- SELFTEST_DONE: the self-test ends after 100,000 cycles, assigning spares or marking the unit failed (R95,
  R97, R98). -/
  | selftestDone (c : CellId) (d : SelftestFinding)
  /-- GFILL_LIMIT_EXPIRY: the GFILL limit expires and the tile issues with the rows present (R105, R106). -/
  | gfillLimitExpiry (c : CellId)
  /-- SX_ACCEPT: the stream engine accepts a checked descriptor into a free slot (R283, R288). -/
  | sxAccept (c : CellId)
  /-- LINK_EMPTY_TAKE: A linked transfer takes its empty semaphore before the first granule of a chunk (R281,
  R297). -/
  | linkEmptyTake (c : CellId) (n : Fin 6)
  /-- MICRO_TRANSFER_DONE: A micro-transfer finishes its reads and checks and issues or performs its granule
  (R38, R54, R55, R56). -/
  | microTransferDone (c : CellId) (n : Meets (Fin 6) Upset)
  /-- SX_TRANSFER_COMPLETE: every granule, pin and link post is done; the slot frees and the completion post is
  made (R189, R291). -/
  | sxTransferComplete (c : CellId) (n : Fin 6)
  /-- SX_RESUME: A write of SX_Dn_CTRL.resume restarts a failed transfer at its position (R38, R304). -/
  | sxResume (o : Origin) (c : CellId) (n : Fin 6)
  /-- SX_ABANDON: A write of SX_Dn_CTRL.abandon frees a failed slot without completion (R304, R305). -/
  | sxAbandon (o : Origin) (c : CellId) (n : Fin 6)
  /-- SX_SHARE_WRITE: A write to SX_SHARE sets bandwidth shares or is ignored and flags share_err (R299). -/
  | sxShareWrite (o : Origin) (c : CellId) (v : Half)
  /-- SHARE_WINDOW: A 100-cycle injection window ends and shares are reallotted (R298). -/
  | shareWindow (c : CellId)
  /-- CONVEYOR_ITEM_WRITE: A producer's item is written to a conveyor in packet order, posting a notice on a
  marked item (R105, R107, R309, R311). -/
  | conveyorItemWrite (c : CellId) (q : BitVec 4) (p : Producer)
  /-- Q_CFG_WRITE: A write to Q_CFGn configures a conveyor; clearing en discards its contents (R312, R317). -/
  | qCfgWrite (o : Origin) (c : CellId) (q : BitVec 4) (v : Word)
  /-- COHERENT_READ: A cell's coherent read reaches a line's home and is served by the directory state (R37,
  R216, R220, R221). -/
  | coherentRead (c : CellId) (pa n : Nat) (e : FrameEcc)
  /-- COHERENT_WRITE: A cell's coherent write reaches a line's home and is served by the directory state (R37,
  R218, R219, R220). -/
  | coherentWrite (c : CellId) (pa : Nat) (bytes : List Byte) (e : FrameEcc)
  /-- HOME_READ: A home read by a stream, Harvest unit, Parade engine or fetch is served at the home (R216,
  R220, R222, R230). -/
  | homeRead (a : Agent) (pa n : Nat) (cls : Fin 8) (e : FrameEcc)
  /-- HOME_WRITE: A home write is applied at the home after invalidating holders (R220, R222). -/
  | homeWrite (a : Agent) (pa : Nat) (bytes : List Byte) (cls : Fin 8) (e : FrameEcc)
  /-- REDUCTION_CONTRIBUTION: an in-cache reduction contribution arrives at its home line and is accepted, held
  or refused (R222, R226, R227, R228). -/
  | reductionContribution (la : Nat) (k : Contrib)
  /-- REDUCTION_APPLY: the near-slice adder applies an accepted contribution to its line (R218, R226, R227,
  R228). -/
  | reductionApply (la : Nat)
  /-- HOME_EVICTION: the evictor frees a frame by choosing an LRU unpinned line and writing it back (R219, R222,
  R233, R234). -/
  | homeEviction (n : CellId) (j : Fin 2048)
  /-- LINE_FILL: A miss fill returns from memory, checking the tile tag and ECC (R218, R229, R235, R249). -/
  | lineFill (la : Nat) (tck : Bool) (e : HbmEcc)
  /-- WRITEBACK_ACK: memory acknowledges an evicted line's write-back and the miss register refetches it (R235,
  R266). -/
  | writebackAck (la : Nat)
  /-- WIN_CFG_WRITE: A write to HR_WIN_CFG is refused or begins a window resize (R213, R215, R239). -/
  | winCfgWrite (o : Origin) (n : CellId) (v : Half)
  /-- WIN_RESIZE_DONE: the window resize finishes and busy clears (R215). -/
  | winResizeDone (n : CellId)
  /-- HR_UNPIN: A write to HR_UNPIN unpins every line of the named classes (R232). -/
  | hrUnpin (o : Origin) (v : Half)
  /-- VPORT_CRC_ERROR: A vertical flit fails its CRC and is replayed, with lane diagnosis after four failures
  (R236, R237, R238, R240). -/
  | vportCrcError (n : CellId) (j : Fin 4) (v : VportFault)
  /-- LAYER_RETIRE: layers behind a failed interface are retired at the next barrier, timeout or further failure
  (R239). -/
  | layerRetire (n : CellId)
  /-- PAGE_WALK_DONE: A page-table walk ends and the access proceeds, faults or raises a page request (R255,
  R256, R257, R258). -/
  | pageWalkDone (a : Agent) (va : Nat) (write : Bool) (exec : Meets Bool HbmEcc)
  /-- PR_RESOLVE: TR_PRSP status 0 releases every requester waiting on the request (R264, R277, R303). -/
  | prResolve (o : Origin) (req : BitVec 16)
  /-- PR_REFUSE: TR_PRSP status 1 refuses the request and faults its waiters with reason 7 (R264, R303). -/
  | prRefuse (o : Origin) (req : BitVec 16)
  /-- PR_TIMEOUT: an unanswered page request times out and is refused with reason 8 (R264). -/
  | prTimeout (req : BitVec 16)
  /-- TR_INVAL_RANGE: A write to TR_INVAL invalidates translations overlapping a page range (R259, R277). -/
  | trInvalRange (o : Origin) (v : Word)
  /-- TR_INVAL_ALL: A write to TR_INVAL with all set invalidates every translation (R259). -/
  | trInvalAll (o : Origin) (v : Word)
  /-- INVAL_DONE: the invalidation's old-entry accesses are performed and inval_busy clears (R259). -/
  | invalDone
  /-- ATS_INVALIDATE: an ATS invalidation request from the host is honoured and completed (R261). -/
  | atsInvalidate (page n : Nat)
  /-- PRI_RESPONSE: A PCIe page group response arrives and the host translation is retried or fails (R261). -/
  | priResponse (page : Nat) (ok : Bool)
  /-- TAG_APERTURE_READ: A tag aperture read writes back the tile's dirty lines and returns its tag (R247,
  R268). -/
  | tagApertureRead (pa : Meets Nat HbmEcc)
  /-- SCRUB_READ: the patrol scrubber reads a block, correcting or poisoning it (R251, R252). -/
  | scrubRead (blk : Nat) (corrected bad : Bool)
  /-- HBM_REFRESH: A stack is refreshed as JEDEC HBM4 requires (R253). -/
  | hbmRefresh (j : Fin 20)
  /-- UPDATE_GROUP_DONE: A Harvest unit finishes the eager update of one group (R32, R327, R328, R330). -/
  | updateGroupDone (l : Fin 1024) (g : Meets Nat MemUpset)
  /-- STEP_DECISION: with every valid layer delivered, the chip takes the commit, redo or skip decision (R33,
  R325, R326, R332). -/
  | stepDecision
  /-- EQUINOX_BARRIER: all cells have arrived and the decision is carried out, then the barrier opens (R34, R35,
  R320, R326). -/
  | equinoxBarrier
  /-- LEND_STARVED: no array has been lent for HV_LEND_WARN and the unit flags starvation (R334). -/
  | lendStarved (k : Fin 16)
  /-- FINGERPRINT_EXCHANGE: replicas all-gather their exchange records before the flip and find diverged layers
  (R349, R350). -/
  | fingerprintExchange (others : List ExRecord) (aborted : Option Nat)
  /-- BISECTION_ROUND: A round of part CRCs narrows the range of a diverged layer (R351, R352). -/
  | bisectionRound (r : RoundIn)
  /-- RC_RELEASE_COMMIT: RC_RELEASE action 1 releases a halted step as a commit (R352). -/
  | rcReleaseCommit (o : Origin)
  /-- RC_RELEASE_DISCARD: RC_RELEASE action 2 releases a halted step as a skip (R352). -/
  | rcReleaseDiscard (o : Origin)
  /-- DX_SINK_WRITE: A staged record is written to a sink once it fits (R357). -/
  | dxSinkWrite (k : Fin 2)
  /-- APPLY_RECORD: the apply engine takes a difference-stream record and applies, flips or stops (R358, R359).
  -/
  | applyRecord (peer : List Byte)
  /-- SHARD_EXPORT: RX_JOB type 1 writes shard records of committed versions (R360, R361, R362). -/
  | shardExport (start : Option (Origin × Word))
  /-- SHARD_IMPORT: RX_JOB type 2 reads shard records into pending slots and flips when covered (R360, R361,
  R363). -/
  | shardImport (start : Option (Origin × Word))
  /-- CAPTURE: RX_JOB type 3 arms capture of the next step (R360, R364, R365). -/
  | capture (start : Option (Origin × Word))
  /-- REPLAY: RX_JOB type 4 replays a capture on this chip and compares results (R360, R366, R367, R405). -/
  | replay (start : Option (Origin × Word)) (cap : CapIn)
  /-- JOB_END: A replica job ends and writes its result record (R360, R368). -/
  | jobEnd
  /-- AN_RESOLVED: auto-negotiation resolves and the interface trains or faults (R374). -/
  | anResolved (p : Fin 18) (j : Fin 4) (ok : Bool)
  /-- AN_TIMEOUT: auto-negotiation does not resolve within 500 ms and the interface faults (R374). -/
  | anTimeout (p : Fin 18) (j : Fin 4)
  /-- TRAINING_DONE: link training succeeds or fails (R374, R520). -/
  | trainingDone (p : Fin 18) (j : Fin 4) (ok : Bool)
  /-- ALIGN_LOCK: FEC lock and lane alignment bring the interface UP (R374, R520). -/
  | alignLock (p : Fin 18) (j : Fin 4)
  /-- ALIGN_TIMEOUT: alignment is not reached within 10 ms and the interface faults (R374). -/
  | alignTimeout (p : Fin 18) (j : Fin 4)
  /-- ALIGNMENT_LOSS: an UP interface loses alignment and faults (R374). -/
  | alignmentLoss (p : Fin 18) (j : Fin 4)
  /-- FEC_ERROR_RATE: uncorrectable codewords exceed the rate over 1 ms and the interface faults (R374). -/
  | fecErrorRate (p : Fin 18) (j : Fin 4) (corrected bad total : Nat)
  /-- FAULT_RETRY: an interface in FAULT retries after 1 s (R374). -/
  | faultRetry (p : Fin 18) (j : Fin 4)
  /-- HELLO: A HELLO frame is received and the context moves toward UP or is reset (R379, R380, R381, R402). -/
  | hello (h : FrameIn) (hi : HelloIn)
  /-- HELLO_RETRY: A HELLO is resent every 10 µs until the hello completes (R380). -/
  | helloRetry (node : BitVec 16)
  /-- HELLO_TIMEOUT: A hello that does not complete within 100 ms loses the peer (R380). -/
  | helloTimeout (node : BitVec 16)
  /-- DATA: A DATA frame is received, checked and delivered at most once (R373, R375, R376, R377). -/
  | data (h : FrameIn) (payload : List Byte) (poison : BitVec 64)
  /-- ACK: an ACK frame updates the selective map, credit and congestion state (R382, R383, R399). -/
  | ack (h : FrameIn) (a : AckIn)
  /-- READY: A READY frame is received and its digest checked (R390, R392, R402). -/
  | ready (h : FrameIn) (digest : BitVec 32)
  /-- ABORT_FRAME: an ABORT frame aborts an instance on this member (R353, R402). -/
  | abortFrame (h : FrameIn) (status : BitVec 8) (rank : BitVec 16)
  /-- ACK_TIMER: 2 µs after an unacknowledged frame an ACK is sent (R382). -/
  | ackTimer (node : BitVec 16)
  /-- RETRANSMIT_TIMEOUT: the retransmission timer expires and the frame is resent with cwnd reset (R382, R383,
  R402). -/
  | retransmitTimeout (node : BitVec 16)
  /-- PFC_FRAME: A received priority flow control frame pauses transmission on its priority (R383). -/
  | pfcFrame (p : Fin 18) (j : Fin 4) (prio : Fin 8) (quanta : BitVec 16)
  /-- CE_ARM: A CE_ARM write arms a descriptor with its first sequence (R388, R409). -/
  | ceArm (o : Origin) (cid : BitVec 12) (first : BitVec 32)
  /-- CE_DISARM: A CE_ARM write with disarm set disarms a descriptor after its running instance (R388). -/
  | ceDisarm (o : Origin) (cid : BitVec 12)
  /-- INSTANCE_TRIGGER: the engine sees a trigger word reach the next sequence and starts an instance (R16,
  R385, R386, R387). -/
  | instanceTrigger (cid : BitVec 12)
  /-- INSTANCE_COMPLETE: an instance ends and its completion record is written (R32, R322, R323, R324). -/
  | instanceComplete (k : Fin 32)
  /-- CE_ABORT: A host write to CE_ABORT aborts the named instance with SW_ABORT (R402). -/
  | ceAbort (o : Origin) (cid : BitVec 12)
  /-- RECEIVER_DETACH: A lagging broadcast receiver is detached into catch-up (R398). -/
  | receiverDetach (k : Fin 32) (rank : BitVec 16) (timed : Bool)
  /-- SQ_DOORBELL: A write to a submission tail doorbell is accepted or ignored (R419). -/
  | sqDoorbell (q : Fin 64) (v : Half)
  /-- CQ_DOORBELL: A write to a completion head doorbell releases entries or is ignored (R419, R425). -/
  | cqDoorbell (q : Fin 64) (v : Half)
  /-- QUEUE_CFG_WRITE: A write to HI_Qn_CFG enables a queue pair and resets its pointers, or stops fetch (R418).
  -/
  | queueCfgWrite (o : Origin) (q : Fin 64) (v : Half)
  /-- COMMAND_FETCH: the device fetches a command from an enabled queue and starts it (R16, R420, R421). -/
  | commandFetch (entry : Desc)
  /-- NOP_COMMAND: host command NOP does nothing (R422). -/
  | nopCommand (k : Fin 16)
  /-- CELL_START: host command starting masked cells, optionally loading SQ_PC (R182, R422). -/
  | cellStart (k : Fin 16)
  /-- CELL_HALT: host command halting masked cells (R182, R422). -/
  | cellHalt (k : Fin 16)
  /-- CELL_RESET: host command performing a cell reset of masked cells (R42, R70, R81, R96). -/
  | cellReset (k : Fin 16)
  /-- BAND_RESET: host command performing a band reset of masked bands (R42, R209, R223, R336). -/
  | bandReset (k : Fin 16)
  /-- IM_LOAD: host command loading instruction memory of masked halted cells (R156, R157, R422, R423). -/
  | imLoad (k : Fin 16)
  /-- COPY: host command copying bytes as RAW after translating every page (R422, R423). -/
  | copy (k : Meets (Fin 16) MemUpset)
  /-- FILL: host command writing an 8-byte pattern repeatedly (R422, R423). -/
  | fill (k : Fin 16)
  /-- SEM_POST: host command posting a cell semaphore as a release (R282, R422, R423). -/
  | semPost (k : Fin 16)
  /-- COMPLETION_WRITE: A finished command's completion entry is written once the queue has room (R424, R425,
  R426, R431). -/
  | completionWrite (k : Fin 16)
  /-- POST_TRIGGER: the post engine sees the trigger word exceed HI_POST_HEAD and reads the next record (R430).
  -/
  | postTrigger
  /-- MAILBOX_PUBLISH: A publication to a mailbox completes once the mailbox is not READY (R428, R432). -/
  | mailboxPublish (src : Option (Fin 16))
  /-- MAILBOX_ACK: A write to a mailbox ack field consumes the publication or is ignored (R428, R429, R432). -/
  | mailboxAck (m : BitVec 12) (v : Half)
  /-- HDM_READ: A host read through HDM is served from the Hirrium or HBM (R37, R249, R254, R413). -/
  | hdmRead (hpa : Meets Nat MemUpset)
  /-- HDM_WRITE: A host write through HDM is applied, maintaining tile tags (R37, R251, R266, R413). -/
  | hdmWrite (hpa : Meets Nat MemUpset) (data : Desc) (be : BitVec 64) (poison : Bool) (keep : Option Bool)
  /-- BISNP_RESPONSE: the host answers a back-invalidate snoop and the home serves the waiting request (R415).
  -/
  | bisnpResponse (blk : Nat) (dirty : Option (Desc × Bool))
  /-- HOST_SNOOP: A host snoop of a host line held by the device is answered by its home (R416). -/
  | hostSnoop (blk : Nat) (inv : Bool)
  /-- DOE_REQUEST: A DOE discovery or CDAT table access request is answered (R433). -/
  | doeRequest (r : DoeIn)
  /-- FUNCTION_LEVEL_RESET: A PCIe function-level reset resets device-owned execution state (R42, R341, R434,
  R436). -/
  | functionLevelReset
  /-- CXL_RESET: A CXL Reset performs a device reset (R42, R43, R435, R504). -/
  | cxlReset (b : List BringIn)
  /-- CXL_RESET_MEMORY_CLEAR: A CXL Reset with Memory Clear zeroes HBM and tags before the reset completes
  (R435). -/
  | cxlResetMemoryClear (b : List BringIn)
  /-- POWER_INTERVAL: every 2 µs the controller forms E, reads sensors and moves the cap loop (R27, R400, R441,
  R447). -/
  | powerInterval (j : IntervalIn)
  /-- POWER_MEASUREMENT: the 48 V stage reports M every 50 µs, updating suspect state, refit and energy (R449,
  R450, R451, R461). -/
  | powerMeasurement (watts uj : Nat)
  /-- MEASUREMENT_LOST: eight windows without a valid measurement set meas_lost (R450). -/
  | measurementLost
  /-- VOLTAGE_RAMP_DONE: A raised voltage is reached and the frequency steps up (R441). -/
  | voltageRampDone
  /-- DROOP_TRIP: A droop detector trips and stretches its cell's clock (R26, R457). -/
  | droopTrip (c : CellId)
  /-- DROOP_END: the supply recovers and the clock stretch ends (R26, R457). -/
  | droopEnd (c : CellId)
  /-- DOZE_ENTRY: A cell idle for doze_delay cycles enters DOZE (R442, R443). -/
  | dozeEntry (c : CellId)
  /-- DOZE_WAKE: A wake cause returns a dozing cell to AWAKE (R443). -/
  | dozeWake (c : CellId)
  /-- CP_SLEEP: A write of CP_CTRL.sleep puts a halted idle cell ASLEEP or is ignored (R81, R121, R438, R442).
  -/
  | cpSleep (o : Origin) (c : CellId)
  /-- PWR_WAKE: A write to PWR_WAKEk requests the wake of sleeping cells (R443, R444). -/
  | pwrWake (o : Origin) (k : Fin 4) (v : Word)
  /-- WAKE_ADMISSION: A queued cell wake or stack exit is admitted within the rate limits (R440, R444, R446). -/
  | wakeAdmission
  /-- CELL_WAKE_DONE: A cell becomes AWAKE 1.8 µs after admission (R81, R121, R438, R443). -/
  | cellWakeDone (c : CellId)
  /-- PWR_HBM_SR: A write to PWR_HBM_SR puts idle stacks into self-refresh (R446). -/
  | pwrHbmSr (o : Origin) (v : Half)
  /-- HBM_IDLE_SELF_REFRESH: A stack idle for hbm_idle µs enters self-refresh (R446). -/
  | hbmIdleSelfRefresh (j : Fin 20)
  /-- HBM_SR_EXIT_DONE: A stack completes its self-refresh exit 1.2 µs after admission (R446). -/
  | hbmSrExitDone (j : Fin 20)
  /-- PWR_PHT_CLR: A write of PWR_CTRL.pht_clr empties the phase table (R463). -/
  | pwrPhtClr (o : Origin)
  /-- RAIL_CHECK: every second the regulators and sensors are checked and out-of-tolerance ones reported (R479).
  -/
  | railCheck (rails sensors : List (Nat × Int))
  /-- PLL_LOCK_LOSS: A PLL loses lock, which is fatal (R479). -/
  | pllLockLoss
  /-- DROOP_RECALIBRATE: A cell's droop detectors are recalibrated after a 20 °C move during DOZE or ASLEEP
  (R479). -/
  | droopRecalibrate (c : CellId)
  /-- HBM_RETRAIN: periodic HBM PHY retraining stalls one stack briefly (R479). -/
  | hbmRetrain (j : Fin 20)
  /-- STBY_PG_RISE: STBY_PG_IN rises and bring-up starts in the Vigil domain (cold reset) (R42, R43, R438,
  R462). -/
  | stbyPgRise
  /-- STBY_PG_FALL: STBY_PG_IN falls and the device enters OFF (R529). -/
  | stbyPgFall
  /-- MAIN_PG_RISE: MAIN_PG_IN rises and bring-up steps 0x04 to READY run (R97, R410, R438, R440). -/
  | mainPgRise (b : List BringIn)
  /-- MAIN_PG_FALL: main power is lost and the device enters VIGIL (R439, R529). -/
  | mainPgFall
  /-- VIN48_LOW: the device's monitor finds VIN48 below 38 V for 2 µs and stops drawing (R439, R529). -/
  | vin48Low
  /-- DEV_RST_ASSERT: DEV_RST_N held low for 10 µs requests a device reset (R43, R505, R528). -/
  | devRstAssert
  /-- DEV_RST_RELEASE: DEV_RST_N rises and bring-up after the device reset begins (R42, R467, R470, R478). -/
  | devRstRelease (b : List BringIn)
  /-- CXL_PERST_ASSERT: CXL_PERST_N falls, holding the CXL port or requesting a device reset (R505, R528). -/
  | cxlPerstAssert
  /-- CXL_PERST_RELEASE: CXL_PERST_N rises, releasing the port or the device reset (R528). -/
  | cxlPerstRelease (b : List BringIn)
  /-- BRINGUP_STEP_TIMEOUT: service firmware exceeds twice the end of its step (R469). -/
  | bringupStepTimeout (b : List BringIn)
  /-- SERVICE_FW_TIMEOUT: service firmware stops answering for 1 s and root firmware performs a floor reset
  (R306, R403, R504, R508). -/
  | serviceFwTimeout (b : List BringIn)
  /-- RST_CELL: A write to RST_CELLk resets the named cells (R42, R504, R507, R510). -/
  | rstCell (o : Origin) (k : Fin 4) (v : Word)
  /-- RST_BAND: A write to RST_BAND resets the named bands and their Harvest units (R42, R336, R341, R504). -/
  | rstBand (o : Origin) (v : Half)
  /-- FATAL_ERROR: A fatal error stops fetch, halts cells and aborts instances until a device reset (R497). -/
  | fatalError (source cause : Nat)
  /-- ALMANAC_RING_COPY: A record is copied to the HBM ring once the ring has room (R502). -/
  | almanacRingCopy
  /-- ALM_SEV_CLR: A write to ALM_SEV_CLR empties the severe store (R499). -/
  | almSevClr (o : Origin)
  /-- GET_STATUS: I3C command returning the system block status bytes (R483). -/
  | getStatus
  /-- READ_REG: I3C command reading the management register space outside the security block (R483). -/
  | readReg (pa width : Nat)
  /-- SET_CAP: I3C command writing the platform power cap (R447, R481, R483). -/
  | setCap (watts : Nat)
  /-- RESET: I3C command performing a device, memory-clearing device or floor reset (R38, R42, R43, R242). -/
  | reset (kind : Nat) (b : List BringIn)
  /-- FW_STAGE_BEGIN: I3C command opening staging into the inactive slot (R483, R484). -/
  | fwStageBegin (ty len : Nat)
  /-- FW_STAGE_DATA: I3C command buffering image data (R483). -/
  | fwStageData (off : Nat) (bytes : List Byte)
  /-- FW_STAGE_HBM: I3C command making root firmware read the image from HBM (R483). -/
  | fwStageHbm (pa len : Nat)
  /-- FW_STAGE_END: I3C command verifying the staged image and writing it to flash (R477, R483, R484). -/
  | fwStageEnd
  /-- FW_ACTIVATE: I3C command setting the try slot and optionally performing a device reset (R470, R483). -/
  | fwActivate (flag : Bool) (b : List BringIn)
  /-- FW_CONFIRM: I3C command making the running try image active (R483). -/
  | fwConfirm
  /-- FW_COMMIT_SVN: I3C command raising the OTP security-version floor of a type (R483, R486). -/
  | fwCommitSvn (ty : Nat)
  /-- FW_PATCH_SELECT: I3C command moving the OTP root patch index and resetting (R483, R485). -/
  | fwPatchSelect (slot : Nat) (b : List BringIn)
  /-- LC_TRANSITION: I3C command performing a signed lifecycle transition (R483, R488). -/
  | lcTransition (t : TokenIn) (b : List BringIn)
  /-- LC_END_PHASE1: LC_END phase 1 returns a nonce for the END transition (R483, R488). -/
  | lcEndPhase1
  /-- LC_END_PHASE2: LC_END phase 2 with the nonce within 10 s moves the lifecycle to END (R483, R488). -/
  | lcEndPhase2 (nonce : BitVec 128) (b : List BringIn)
  /-- GET_VERSION: SPDM request for supported versions (R490). -/
  | getVersion (t : SpdmPort)
  /-- GET_CAPABILITIES: SPDM request for capabilities (R490). -/
  | getCapabilities (t : SpdmPort)
  /-- NEGOTIATE_ALGORITHMS: SPDM request negotiating algorithms (R490). -/
  | negotiateAlgorithms (t : SpdmPort)
  /-- GET_DIGESTS: SPDM request for certificate chain digests (R490). -/
  | getDigests (t : SpdmPort)
  /-- GET_CERTIFICATE: SPDM request for the certificate chain (R490, R491). -/
  | getCertificate (t : SpdmPort) (slot : Fin 8)
  /-- CHALLENGE: SPDM challenge answered with a signed CHALLENGE_AUTH (R490, R491). -/
  | challenge (t : SpdmPort) (slot : Fin 8) (nonce : BitVec 256)
  /-- GET_MEASUREMENTS: SPDM request for the measurement blocks (R490, R491, R492). -/
  | getMeasurements (t : SpdmPort) (index : Option Nat) (nonce : Option (BitVec 256))
  /-- KEY_EXCHANGE: SPDM key exchange opening a secured session (R490, R491). -/
  | keyExchange (t : SpdmPort) (slot : Fin 8) (pub : List Byte)
  /-- FINISH: SPDM FINISH completing session establishment (R490). -/
  | finish (m : FinishIn)
  /-- HEARTBEAT: SPDM session heartbeat (R490). -/
  | heartbeat (t : SpdmPort)
  /-- END_SESSION: SPDM request ending a session (R490). -/
  | endSession (t : SpdmPort)
  /-- BYPASS: JTAG BYPASS instruction (R511). -/
  | bypass
  /-- IDCODE: JTAG instruction selecting the IDCODE register (R511). -/
  | idcode
  /-- SAMPLE_PRELOAD: JTAG boundary-scan SAMPLE/PRELOAD (R511). -/
  | samplePreload (v : Nat)
  /-- EXTEST: JTAG boundary-scan EXTEST (R511). -/
  | extest
  /-- CLAMP: JTAG CLAMP instruction (R511). -/
  | clamp
  /-- HIGHZ: JTAG HIGHZ instruction (R511). -/
  | highz
  /-- DBG_CHALLENGE: JTAG instruction reading the debug unlock challenge (R489, R511). -/
  | dbgChallenge
  /-- DBG_UNLOCK: JTAG instruction submitting a signature to unlock debug, or a lifecycle token (R488, R489,
  R511). -/
  | dbgUnlock (p : UnlockIn) (b : List BringIn)
  /-- DBG_ACCESS: JTAG debug access reading or writing device physical memory (R246, R511, R512). -/
  | dbgAccess (dr : BitVec 128)
  /-- LTN_SEL: JTAG instruction writing a Lantern output selection (R511, R513, R514). -/
  | ltnSel (j : Fin 10) (v : BitVec 16)
  /-- MANUFACTURING_TEST: JTAG manufacturing test instruction in BLANK (R511). -/
  | manufacturingTest (code : Fin 16)
  /-- REGISTER_WRITE: A write to a register with no row of its own, applied by its access code (R12, R13, R15,
  R41). -/
  | registerWrite (o : Origin) (t : Target) (width : Nat) (v : Word)
  /-- ENGINE_INSTRUCTION_COMPLETE: an engine finishes a queued tensor instruction, which then settles and
  commits in program order, releasing later held writes and its completion post (R68, R90, R166, R167). -/
  | engineInstructionComplete (c : CellId)
  /-- ATS_TRANSLATION_COMPLETION: the host's ATS translation completion for a host-aperture leaf arrives, and
  the access proceeds, faults or raises a Page Request Interface request (R261). -/
  | atsTranslationCompletion (page : Nat) (r : Option AtsIn)
  deriving DecidableEq, Repr

end Sys2Proof
end

