-- ==== Sys2Proof/Decode.lean ====
section
/-! DEFINITION. The command that a word spells by the bits of the opcode table. No row of this block's table gives bits,
so no word spells one. -/

namespace Sys2Proof

/-- The command that the lower `nbits` bits of w spell: none. -/
def decodeTableWord (_nbits _w : Nat) : Option Instr := none

end Sys2Proof
end

