-- ==== Sys2Proof/Machine/Bits.lean ====
section
/-! DEFINITION. Bit-field, sign-extension and byte-order helpers (R7, R8, R17). Numbers read out of
records are plain `Nat`s; only what the spec treats as a word is a bit vector. -/

namespace Sys2Proof.Machine

/-- x[hi:lo] of R17, as a number. -/
def bits (x hi lo : Nat) : Nat := (x >>> lo) % 2 ^ (hi + 1 - lo)

/-- Bit i of x. -/
def bitB (x i : Nat) : Bool := (x >>> i) % 2 == 1

/-- A Bool as the number 0 or 1. -/
def b2n (b : Bool) : Nat := if b then 1 else 0

/-- x with bits [hi:lo] replaced by the low bits of v. -/
def putBits (x hi lo v : Nat) : Nat :=
  x - (bits x hi lo) * 2 ^ lo + (v % 2 ^ (hi + 1 - lo)) * 2 ^ lo

/-- The two's-complement reading of the low w bits of x. -/
def sgn (w x : Nat) : Int :=
  let y := x % 2 ^ w
  if 2 * y < 2 ^ w then (y : Int) else (y : Int) - (2 ^ w : Nat)

/-- The low w bits of an integer, as a number. -/
def wrap (w : Nat) (x : Int) : Nat := (x % ((2 ^ w : Nat) : Int)).toNat

/-- Sign extension of the low w bits of x to 64 bits. -/
def sext64 (w x : Nat) : Word := BitVec.ofInt 64 (sgn w x)

/-- The n bytes of a number, least significant first (little-endian, R8). -/
def leBytes : Nat → Nat → List Byte
  | 0, _ => []
  | n + 1, x => BitVec.ofNat 8 x :: leBytes n (x / 256)

/-- The number that a list of bytes spells, least significant first (R8). -/
def leNat : List Byte → Nat
  | [] => 0
  | b :: bs => b.toNat + 256 * leNat bs

/-- ceil(a / b). -/
def ceilDiv (a b : Nat) : Nat := (a + b - 1) / b

/-- Bytes offset .. offset + n - 1 of a record, as a number (missing bytes read as 0). -/
def fieldAt (bs : List Byte) (off n : Nat) : Nat := leNat ((bs.drop off).take n)

/-- Whether every one of the bytes off .. off + n - 1 of a record is 0. -/
def zeroAt (bs : List Byte) (off n : Nat) : Bool := ((bs.drop off).take n).all (· == 0)

end Sys2Proof.Machine
end

