-- ==== Sys2Proof/Machine/Crc.lean ====
section
/-! DEFINITION. CRC-32C (R265): Castagnoli polynomial, reflected, initial value and final exclusive-or
all ones. -/

namespace Sys2Proof.Machine

/-- One bit step of the reflected CRC register. -/
def crcBit (r : BitVec 32) : BitVec 32 :=
  if r.getLsbD 0 then (r >>> 1) ^^^ 0x82F63B78#32 else r >>> 1

/-- n bit steps. -/
def crcBits : Nat → BitVec 32 → BitVec 32
  | 0, r => r
  | n + 1, r => crcBits n (crcBit r)

/-- The CRC register after more bytes. -/
def crcBytes : List Byte → BitVec 32 → BitVec 32
  | [], r => r
  | b :: bs, r => crcBytes bs (crcBits 8 (r ^^^ b.setWidth 32))

/-- CRC-32C of bytes in address order (R265). -/
def crc32c (bs : List Byte) : Nat := (crcBytes bs 0xFFFFFFFF#32 ^^^ 0xFFFFFFFF#32).toNat

end Sys2Proof.Machine
end

