-- ==== Sys2Proof/Machine/Flags.lean ====
section
/-! DEFINITION. The five numeric event flags of R67 and the record that an operation on one element
returns. How an instruction's flags reach the registers of its cell is in Machine/Almanac.lean. -/

namespace Sys2Proof.Machine

/-- The flags of R67, in the bit order of NUM_STATUS (R72). -/
structure Flags where
  nv : Bool := false
  of : Bool := false
  uf : Bool := false
  dz : Bool := false
  ms : Bool := false
  deriving DecidableEq, Repr

/-- No flag. -/
def Flags.none : Flags := {}

/-- The flags raised by either of two operations. A flag arises at most once per element (R67). -/
def Flags.or (a b : Flags) : Flags :=
  { nv := a.nv || b.nv, of := a.of || b.of, uf := a.uf || b.uf, dz := a.dz || b.dz, ms := a.ms || b.ms }

/-- The flags as a number in the bit order of NUM_STATUS (R72). -/
def Flags.toNat (f : Flags) : Nat :=
  b2n f.nv + 2 * b2n f.of + 4 * b2n f.uf + 8 * b2n f.dz + 16 * b2n f.ms

/-- Flag NV alone. -/
def Flags.onlyNV : Flags := { nv := true }
/-- Flag OF alone. -/
def Flags.onlyOF : Flags := { of := true }
/-- Flag UF alone. -/
def Flags.onlyUF : Flags := { uf := true }
/-- Flag DZ alone. -/
def Flags.onlyDZ : Flags := { dz := true }

/-- How many output elements (rows, for softmax) each flag arose in (R67). -/
structure FlagCounts where
  nv : Nat := 0
  of : Nat := 0
  uf : Nat := 0
  dz : Nat := 0
  ms : Nat := 0
  deriving DecidableEq, Repr

/-- One more element, with flags f. -/
def FlagCounts.add (c : FlagCounts) (f : Flags) : FlagCounts :=
  { nv := c.nv + b2n f.nv, of := c.of + b2n f.of, uf := c.uf + b2n f.uf, dz := c.dz + b2n f.dz,
    ms := c.ms + b2n f.ms }

/-- The sum of two counts. -/
def FlagCounts.sum (a b : FlagCounts) : FlagCounts :=
  { nv := a.nv + b.nv, of := a.of + b.of, uf := a.uf + b.uf, dz := a.dz + b.dz, ms := a.ms + b.ms }

/-- The flags that arose in at least one element. -/
def FlagCounts.flags (c : FlagCounts) : Flags :=
  { nv := c.nv != 0, of := c.of != 0, uf := c.uf != 0, dz := c.dz != 0, ms := c.ms != 0 }

/-- The first NV of an instruction: its position and cause (R69, R74, R146). For MX, MV and MXST the
order is (pass, kchunk, m, n, k); for VX it is (row, element). -/
structure NvLoc where
  cause : Nat
  pass : Nat := 0
  kchunk : Nat := 0
  m : Nat := 0
  n : Nat := 0
  k : Nat := 0
  deriving DecidableEq, Repr

/-- Whether event a comes before event b in the order of R69. -/
def NvLoc.before (a b : NvLoc) : Bool :=
  if a.pass ≠ b.pass then a.pass < b.pass
  else if a.kchunk ≠ b.kchunk then a.kchunk < b.kchunk
  else if a.m ≠ b.m then a.m < b.m
  else if a.n ≠ b.n then a.n < b.n
  else a.k < b.k

/-- The earlier of two optional events. -/
def NvLoc.first : Option NvLoc → Option NvLoc → Option NvLoc
  | none, b => b
  | a, none => a
  | some a, some b => if b.before a then some b else some a

end Sys2Proof.Machine
end

