-- ==== Sys2Proof/Machine/Num.lean ====
section
/-! DEFINITION. Number formats, exact values, rounding and element-wise arithmetic (R44 to R58). A
value is exact (`FV`); every operation forms the exact result and rounds it once. -/

namespace Sys2Proof.Machine

/-- The number formats of R44 that hold values (E8M0 is a scale, see `e8m0`). -/
inductive Fmt where
  | fp32 | bf16 | fp16 | e4m3 | e5m2 | fp64
  deriving DecidableEq, Repr

/-- Exponent bits (R44). -/
def Fmt.ebits : Fmt → Nat
  | .fp32 => 8 | .bf16 => 8 | .fp16 => 5 | .e4m3 => 4 | .e5m2 => 5 | .fp64 => 11

/-- Trailing significand bits m (R44). -/
def Fmt.mbits : Fmt → Nat
  | .fp32 => 23 | .bf16 => 7 | .fp16 => 10 | .e4m3 => 3 | .e5m2 => 2 | .fp64 => 52

/-- Exponent bias (R44). -/
def Fmt.bias : Fmt → Nat
  | .fp32 => 127 | .bf16 => 127 | .fp16 => 15 | .e4m3 => 7 | .e5m2 => 15 | .fp64 => 1023

/-- Width in bits. -/
def Fmt.width (f : Fmt) : Nat := 1 + f.ebits + f.mbits

/-- Element size in bytes. -/
def Fmt.esize (f : Fmt) : Nat := f.width / 8

/-- The long formats flush subnormals; the short formats keep them (R50, R51). -/
def Fmt.long : Fmt → Bool
  | .fp32 => true | .fp64 => true | _ => false

/-- FP8 formats, which have two overflow modes (R54). -/
def Fmt.fp8 : Fmt → Bool
  | .e4m3 => true | .e5m2 => true | _ => false

/-- The largest finite magnitude's encoding (R44). -/
def Fmt.maxFinite : Fmt → Nat
  | .fp32 => 0x7F7FFFFF | .bf16 => 0x7F7F | .fp16 => 0x7BFF | .e4m3 => 0x7E | .e5m2 => 0x7B
  | .fp64 => 0x7FEFFFFFFFFFFFFF

/-- The encoding of +infinity; E4M3 has none, and its NaN stands there (R44, R54). -/
def Fmt.infBits : Fmt → Nat
  | .fp32 => 0x7F800000 | .bf16 => 0x7F80 | .fp16 => 0x7C00 | .e4m3 => 0x7F | .e5m2 => 0x7C
  | .fp64 => 0x7FF0000000000000

/-- The canonical NaN (R44, R48). -/
def Fmt.nan : Fmt → Nat
  | .fp32 => 0x7FC00000 | .bf16 => 0x7FC0 | .fp16 => 0x7E00 | .e4m3 => 0x7F | .e5m2 => 0x7E
  | .fp64 => 0x7FF8000000000000

/-- The exponent of the smallest normal (R44). -/
def Fmt.emin (f : Fmt) : Int := 1 - (f.bias : Int)

/-- The sign bit's weight. -/
def Fmt.signBit (f : Fmt) : Nat := 2 ^ (f.width - 1)

/-- An exact value: NaN, an infinity, or (-1)^neg * m * 2^e, where m = 0 is a zero of that sign. -/
inductive FV where
  | nan
  | inf (neg : Bool)
  | fin (neg : Bool) (m : Nat) (e : Int)
  deriving DecidableEq, Repr

/-- A zero of the given sign. -/
def FV.zero (neg : Bool) : FV := .fin neg 0 0

/-- Whether the value is a zero. -/
def FV.isZero : FV → Bool
  | .fin _ 0 _ => true | _ => false

/-- Whether the value is NaN. -/
def FV.isNan : FV → Bool
  | .nan => true | _ => false

/-- Whether the value is an infinity. -/
def FV.isInf : FV → Bool
  | .inf _ => true | _ => false

/-- The sign (NaN counts as positive). -/
def FV.neg : FV → Bool
  | .nan => false | .inf s => s | .fin s _ _ => s

/-- The exact value that an encoding stands for (R44, R45), before any flush. -/
def decodeExact (f : Fmt) (x : Nat) : FV :=
  let s := bitB x (f.width - 1)
  let e := bits x (f.width - 2) f.mbits
  let t := x % 2 ^ f.mbits
  if f = .e4m3 then
    if e = 15 ∧ t = 7 then .nan
    else if e = 0 then .fin s t (f.emin - f.mbits)
    else .fin s (2 ^ f.mbits + t) ((e : Int) - f.bias - f.mbits)
  else if e = 2 ^ f.ebits - 1 then
    if t = 0 then .inf s else .nan
  else if e = 0 then .fin s t (f.emin - f.mbits)
  else .fin s (2 ^ f.mbits + t) ((e : Int) - f.bias - f.mbits)

/-- An operand as it is read: long formats read a subnormal as a zero of its sign (R51), short
formats read it at its exact value (R50). -/
def readOp (f : Fmt) (x : Nat) : FV :=
  match decodeExact f x with
  | .fin s m e => if f.long && bits x (f.width - 2) f.mbits == 0 then .zero s else .fin s m e
  | v => v

/-- floor(log2 m) for m > 0. -/
def ilog2 (m : Nat) : Nat := Nat.log2 m

/-- floor(m * 2^sh) (sh may be negative). -/
def shiftFloor (m : Nat) (sh : Int) : Nat :=
  if 0 ≤ sh then m * 2 ^ sh.toNat else m / 2 ^ (-sh).toNat

/-- m * 2^sh rounded to the nearest whole number, ties to even, and whether that changed it. -/
def shiftRNE (m : Nat) (sh : Int) : Nat × Bool :=
  if 0 ≤ sh then (m * 2 ^ sh.toNat, false)
  else
    let d := 2 ^ (-sh).toNat
    let q := m / d
    let r := m % d
    if r = 0 then (q, false)
    else if 2 * r < d then (q, true)
    else if 2 * r > d then (q + 1, true)
    else (if q % 2 = 0 then q else q + 1, true)

/-- The tininess test of R51: the magnitude, rounded to the format's precision with an unbounded
exponent, is below the smallest normal. -/
def tiny (f : Fmt) (m : Nat) (e : Int) : Bool :=
  let top : Int := (ilog2 m : Int) + e
  if top ≥ f.emin then false
  else if top < f.emin - 1 then true
  else
    let q := (shiftRNE m (e - (top - f.mbits))).1
    q < 2 ^ (f.mbits + 1)

/-- The overflow mode of a conversion (R54): formats other than FP8 always use `ieee`. -/
inductive OvfMode where
  | sat | ieee
  deriving DecidableEq, Repr

/-- What a finite result beyond the largest finite value becomes (R54). -/
def overflowTo (f : Fmt) (mode : OvfMode) (neg : Bool) : Nat × Flags :=
  let s := if neg then f.signBit else 0
  if f.fp8 && mode == .sat then (s + f.maxFinite, .onlyOF)
  else if f = .e4m3 then (f.nan, { nv := true, of := true })
  else (s + f.infBits, .onlyOF)

/-- The encoding of q * 2^g, where g is the ulp exponent of its binade or the subnormal grid. -/
def packBits (f : Fmt) (q : Nat) (g : Int) : Nat :=
  (g - (f.emin - f.mbits)).toNat * 2 ^ f.mbits + q

/-- Round (-1)^neg * m * 2^e, m > 0, to format f with RNE, then apply R51, R53 and R54. -/
def roundFin (f : Fmt) (mode : OvfMode) (neg : Bool) (m : Nat) (e : Int) : Nat × Flags :=
  let s := if neg then f.signBit else 0
  let ti := tiny f m e
  if f.long && ti then (s, .onlyUF)
  else
    let top : Int := (ilog2 m : Int) + e
    let g : Int := (if top ≥ f.emin then top else f.emin) - f.mbits
    let (q, inexact) := shiftRNE m (e - g)
    let b := packBits f q g
    if b > f.maxFinite then overflowTo f mode neg
    else (s + b, if ti && inexact then .onlyUF else .none)

/-- Round an exact value to format f (RNE), with the conversions of special inputs of R54. A zero
keeps its sign. -/
def roundFV (f : Fmt) (mode : OvfMode) : FV → Nat × Flags
  | .nan => (f.nan, .none)
  | .inf s =>
    let sb := if s then f.signBit else 0
    if f.fp8 && mode == .sat then (sb + f.maxFinite, .none)
    else if f = .e4m3 then (f.nan, .onlyNV)
    else (sb + f.infBits, .none)
  | .fin s 0 _ => (if s then f.signBit else 0, .none)
  | .fin s (m + 1) e => roundFin f mode s (m + 1) e

/-- The rounding of R58 and R59: RNE to f, IEEE-style. -/
def rne (f : Fmt) (v : FV) : Nat × Flags := roundFV f .ieee v

/-! ### Exact arithmetic -/

/-- The signed integer of a finite value at exponent g, where g is at or below the value's own. -/
def toIntAt (s : Bool) (m : Nat) (e g : Int) : Int :=
  let n : Int := ((m * 2 ^ (e - g).toNat : Nat) : Int)
  if s then -n else n

/-- The exact sum of two finite values, with the zero rule of R58. -/
def addFin (s₁ : Bool) (m₁ : Nat) (e₁ : Int) (s₂ : Bool) (m₂ : Nat) (e₂ : Int) : FV :=
  if m₁ = 0 ∧ m₂ = 0 then .zero (s₁ && s₂)
  else if m₁ = 0 then .fin s₂ m₂ e₂
  else if m₂ = 0 then .fin s₁ m₁ e₁
  else
    let g := min e₁ e₂
    let x := toIntAt s₁ m₁ e₁ g + toIntAt s₂ m₂ e₂ g
    if x = 0 then .zero false else .fin (decide (x < 0)) x.natAbs g

/-- The exact sum; `true` says the operation is invalid (infinity minus infinity, R58). -/
def addFV : FV → FV → FV × Bool
  | .nan, _ => (.nan, false)
  | _, .nan => (.nan, false)
  | .inf s, .inf t => if s = t then (.inf s, false) else (.nan, true)
  | .inf s, .fin _ _ _ => (.inf s, false)
  | .fin _ _ _, .inf t => (.inf t, false)
  | .fin s m e, .fin t n h => (addFin s m e t n h, false)

/-- The sign inverted. -/
def negFV : FV → FV
  | .nan => .nan | .inf s => .inf (!s) | .fin s m e => .fin (!s) m e

/-- The exact product; `true` says 0 * infinity (R58). -/
def mulFV : FV → FV → FV × Bool
  | .nan, _ => (.nan, false)
  | _, .nan => (.nan, false)
  | .inf s, .inf t => (.inf (s != t), false)
  | .inf s, .fin t m _ => if m = 0 then (.nan, true) else (.inf (s != t), false)
  | .fin t m _, .inf s => if m = 0 then (.nan, true) else (.inf (s != t), false)
  | .fin s m e, .fin t n h => (.fin (s != t) (m * n) (e + h), false)

/-- a * b + c, exact; `true` says the operation is invalid, even when the addend of a 0 * infinity
product is NaN (R58). -/
def fmaFV (a b c : FV) : FV × Bool :=
  match mulFV a b with
  | (_, true) => (.nan, true)
  | (p, false) => addFV p c

/-- The result of an element-wise operation: its bits, its flags, and whether NV came from an
invalid operation. -/
def roundOp (f : Fmt) (r : FV × Bool) : Nat × Flags :=
  if r.2 then (f.nan, .onlyNV) else rne f r.1

/-- Add in format f (R58). -/
def fAdd (f : Fmt) (a b : Nat) : Nat × Flags := roundOp f (addFV (readOp f a) (readOp f b))

/-- Subtract in format f (R58). -/
def fSub (f : Fmt) (a b : Nat) : Nat × Flags := roundOp f (addFV (readOp f a) (negFV (readOp f b)))

/-- Multiply in format f (R58). -/
def fMul (f : Fmt) (a b : Nat) : Nat × Flags := roundOp f (mulFV (readOp f a) (readOp f b))

/-- Fused multiply-add in format f (R58). -/
def fFma (f : Fmt) (a b c : Nat) : Nat × Flags :=
  roundOp f (fmaFV (readOp f a) (readOp f b) (readOp f c))

/-- Widening fused multiply-add: short operands, FP32 addend and result (R124). -/
def fFmaw (f : Fmt) (a b c : Nat) : Nat × Flags :=
  roundOp .fp32 (fmaFV (readOp f a) (readOp f b) (readOp .fp32 c))

/-- The numeric order of two values neither of which is NaN: -1, 0 or 1; zeros are equal (R49). -/
def cmpFV : FV → FV → Int
  | .inf s, .inf t => if s = t then 0 else if s then -1 else 1
  | .inf s, _ => if s then -1 else 1
  | _, .inf t => if t then 1 else -1
  | .fin s m e, .fin t n h =>
    let g := min e h
    let x := toIntAt s m e g - toIntAt t n h g
    if x < 0 then -1 else if x = 0 then 0 else 1
  | _, _ => 0

/-- a < b in the order of IEEE 754-2019 minimum and maximum, where -0 is less than +0 (R124). -/
def ltTotal (a b : FV) : Bool :=
  let c := cmpFV a b
  if c = 0 then a.isZero && b.isZero && a.neg && !b.neg else c < 0

/-- The encoding of a value that format f holds exactly. -/
def encode (f : Fmt) (v : FV) : Nat := (rne f v).1

/-- IEEE 754-2019 minimum or maximum (R124): any NaN gives the canonical NaN. -/
def fMinMax (f : Fmt) (isMax : Bool) (a b : Nat) : Nat :=
  let x := readOp f a
  let y := readOp f b
  if x.isNan || y.isNan then f.nan
  else if isMax then encode f (if ltTotal x y then y else x)
  else encode f (if ltTotal y x then y else x)

/-- A value read under R51, canonical if NaN (VMOV and VSEL of R124). -/
def fCopy (f : Fmt) (a : Nat) : Nat := encode f (readOp f a)

/-- The magnitude (VABS of R124). -/
def fAbs (f : Fmt) (a : Nat) : Nat :=
  let x := readOp f a
  if x.neg then encode f (negFV x) else encode f x

/-- The value with its sign inverted (VNEG of R124). -/
def fNeg (f : Fmt) (a : Nat) : Nat := encode f (negFV (readOp f a))

/-- VCMP (R124, R205): 0 eq, 1 ne, 2 lt, 3 le, 4 gt, 5 ge, 6 un. -/
def fCmp (f : Fmt) (c : Nat) (a b : Nat) : Bool :=
  let x := readOp f a
  let y := readOp f b
  if x.isNan || y.isNan then c == 1 || c == 6
  else
    let k := cmpFV x y
    match c with
    | 0 => k == 0
    | 1 => k != 0
    | 2 => k < 0
    | 3 => k ≤ 0
    | 4 => k > 0
    | 5 => k ≥ 0
    | _ => false

/-- A conversion of one element (R52 to R54), rounding to nearest. The source of a conversion from
FP32 is read under R51. -/
def fConvert (src dst : Fmt) (mode : OvfMode) (a : Nat) : Nat × Flags :=
  roundFV dst mode (readOp src a)

/-! ### Stochastic rounding (R55 to R57) -/

/-- The mixing function of R56, modulo 2^64. -/
def mix64 (z : Word) : Word :=
  let z := (z ^^^ (z >>> 30)) * 0xBF58476D1CE4E5B9#64
  let z := (z ^^^ (z >>> 27)) * 0x94D049BB133111EB#64
  z ^^^ (z >>> 31)

/-- The 64 bits drawn for one element (R56). -/
def srBits (seed step : Word) (tensorId index : Nat) : Word :=
  let h := mix64 seed
  let h := mix64 (h ^^^ step)
  let h := mix64 (h ^^^ BitVec.ofNat 64 tensorId)
  mix64 (h ^^^ BitVec.ofNat 64 index)

/-- Stochastic rounding of a value to a short format with draw u = draw[63:32] (R57). -/
def roundSR (f : Fmt) (mode : OvfMode) (u : Nat) : FV → Nat × Flags
  | .fin s (m + 1) e =>
    let x := m + 1
    let top : Int := (ilog2 x : Int) + e
    let g : Int := (if top ≥ f.emin then top else f.emin) - f.mbits
    let q := shiftFloor x (e - g)
    -- the top 32 bits of the discarded part
    let f32 := shiftFloor x (e - g + 32) % 2 ^ 32
    let q' := if f32 + u ≥ 2 ^ 32 then q + 1 else q
    let sb := if s then f.signBit else 0
    let b := packBits f q' g
    if b > f.maxFinite then overflowTo f mode s
    else
      let same := decide (cmpFV (.fin false q' g) (.fin false x e) = 0)
      (sb + b, if tiny f x e && !same then .onlyUF else .none)
  | v => roundFV f mode v

/-! ### Scales -/

/-- The value of an E8M0 scale as an exponent; none is NaN (R44, R47). -/
def e8m0 (s : Nat) : Option Int := if s = 0xFF then none else some ((s : Int) - 127)

/-- A value times a power of two. -/
def scaleFV (k : Int) : FV → FV
  | .fin s m e => .fin s m (e + k)
  | v => v

/-- An element under a scale: a NaN scale makes it NaN (R47). -/
def scaledFV (s : Option Int) (v : FV) : FV :=
  match s with
  | none => .nan
  | some k => scaleFV k v

/-- floor(sqrt n), by bits from 2^k down. -/
def isqrtAux (n : Nat) : Nat → Nat → Nat
  | 0, r => if (r + 1) * (r + 1) ≤ n then r + 1 else r
  | k + 1, r => isqrtAux n k (if (r + 2 ^ (k + 1)) * (r + 2 ^ (k + 1)) ≤ n then r + 2 ^ (k + 1) else r)

/-- floor(sqrt n). -/
def isqrt (n : Nat) : Nat := isqrtAux n (ilog2 n / 2) 0

/-- A number whose rounding to at most 60 bits equals that of the quotient a / b, b > 0: its
integer part with enough bits and a sticky bit, and its exponent. -/
def quotient (a b : Nat) : Nat × Int :=
  let k := ilog2 b + 80
  let q := a * 2 ^ k / b
  (2 * q + (if a * 2 ^ k % b = 0 then 0 else 1), -(k : Int) - 1)

/-- 1 / v as an exact-enough value for one rounding (v finite, non-zero). -/
def recipFV (s : Bool) (m : Nat) (e : Int) : FV :=
  let (q, k) := quotient 1 m
  .fin s q (k - e)

/-- 1 / sqrt(m * 2^e) as an exact-enough value for one rounding (m > 0). -/
def rsqrtFV (m : Nat) (e : Int) : FV :=
  let (m, e) := if e % 2 = 0 then (m, e) else (2 * m, e - 1)
  let k := ilog2 m / 2 + 80
  let r := isqrt (2 ^ (2 * k) / m)
  .fin false (2 * r + (if r * r * m = 2 ^ (2 * k) then 0 else 1)) (-(k : Int) - 1 - e / 2)

/-- sqrt(m * 2^e) as an exact-enough value for one rounding (m > 0). -/
def sqrtFV (m : Nat) (e : Int) : FV :=
  let (m, e) := if e % 2 = 0 then (m, e) else (2 * m, e - 1)
  let k : Nat := 80
  let r := isqrt (m * 2 ^ (2 * k))
  .fin false (2 * r + (if r * r = m * 2 ^ (2 * k) then 0 else 1)) (-(k : Int) - 1 + e / 2)

/-- a / b for finite non-zero values, exact enough for one rounding. -/
def divFV (s : Bool) (m : Nat) (e : Int) (t : Bool) (n : Nat) (h : Int) : FV :=
  let (q, k) := quotient m n
  .fin (s != t) q (k + e - h)

end Sys2Proof.Machine
end

