-- ==== Sys2Proof/Config.lean ====
section
/-! DEFINITION. What an implementation fixes, and the free values: constants with no body, so that
nothing can be proved of them beyond what the spec states. A free value is applied to the counter
`State.free`, which every step that draws one advances, or to the place it belongs to. -/

namespace Sys2Proof.Config

/-- How many cycles a wait lasted (a stall counter's increment, R300). Log entry 3. -/
opaque stallCycles : Nat → Nat

/-- A byte whose contents the spec calls undefined (R81, R121, R442, R107): the draw, the place. Log
entry 4. -/
opaque undefByte : Nat → Nat → BitVec 8

/-- An accumulator element whose contents are undefined after ASLEEP (R81). Log entry 4. -/
opaque undefAcc : Nat → Nat → BitVec 32

/-- What a cached line and a scalar or descriptor register hold after a fatal error (R496): the draw, the place. Log entry
225. -/
opaque undefLine : Nat → Nat → BitVec 2048
/-- A scalar register after a fatal error (R496): the draw, the register. Log entry 225. -/
opaque undefReg : Nat → Nat → BitVec 64
/-- A descriptor register after a fatal error (R496): the draw, the register. Log entry 225. -/
opaque undefDesc : Nat → Nat → BitVec 512

/-- What a replay finds in its buffer, where a write of RX_JOB does not say (R364, R367): the draw. Log entry 9. -/
opaque capFound : Nat → CapIn

/-- A byte of host memory that the device has not written: the draw, the host address. Log entry 5. -/
opaque hostByte : Nat → Nat → BitVec 8

/-- Bytes of HBM after a change of interleave mode, undefined by R250: the draw, the address. Log
entry 4. -/
opaque hbmByte : Nat → Nat → BitVec 8

/-- The difference between a tile's tag and its bytes after a change of interleave mode (R250): the
draw, the tile. Log entry 4. -/
opaque tileSyn : Nat → Nat → BitVec 32

/-- Cycles in which a sequencer ran for one instruction (SQ_ACTIVE_CNT, R180). Log entry 3. -/
opaque activeCycles : Nat → Nat

/-- Line buffer misses of one fetch from coherent space (R157). Log entry 3. -/
opaque fetchMisses : Nat → Nat

/-- Which of the frames of its set that have room a line is put into (R217), by the tick of its use: taken modulo their
number. Log entry 187. -/
opaque framePick : Nat → Nat

/-- How many granules behind the one at the position were in flight when a transfer halted (R290, R295,
R301): taken modulo 16. Log entry 7. -/
opaque inFlight : Nat → Nat

/-- Which of the contents that a 64-byte unit had, the present one or one that an earlier granule of the
same transfer overwrote, a later granule reads (R292): the draw, the unit. Log entry 8. -/
opaque overlapPick : Nat → Nat → Nat

/-- Cycles in which a unit worked for a softmax instruction (R149), which the spec does not state. Log
entry 3. -/
opaque busyCycles : Nat → Nat

/-- FEXP2 (false) and FLOG2 (true) of an FP64 operand in a rule program (R333), of which the spec states no result.
Log entry 188. -/
opaque fu64 : Bool → Nat → BitVec 64

/-- The 4 bytes in which RMAX, RMIN and RAMAX of a rule program give an FP64 result (R204, R333), which holds 8. Log
entry 188. -/
opaque max64 : Nat → BitVec 32

/-- Which of the remaining terms of a non-deterministic reduction are combined next (R396): the draw, the
element, and the step. Log entry 14. -/
opaque redPick : Nat → Nat → Nat → Nat

/-- The bytes over which a READY digest is formed (R392), whose order the spec leaves open, from the digested
fields packed into one number. Log entry 15. -/
opaque digestBytes : Nat → List (BitVec 8)

/-- A field of a frame's header that means nothing in a frame of its type, such as the PSN of an ACK or apsn where
flags.ackv is 0 (R376): the draw, the field. Log entry 191. -/
opaque frameField : Nat → Nat → Nat

/-- A byte of the payload of a HELLO, an ACK or an ABORT (R380, R382, R402), whose layout the spec does not give: the
frame's type, its contents packed into one number, the place. Log entry 191. -/
opaque frameByte : Nat → Nat → Nat → BitVec 8

/-- The compute voltage in mV at a frequency in MHz: the module's characterised curve (R441, R448, R454), which the
spec does not give. Log entry 20. -/
opaque voltage : Nat → Nat

/-- The weights fused at test (R448), by term. Log entry 20. -/
opaque fusedWeight : Nat → Nat

/-- The integer that a register shows for a quantity that is no integer (PWR_EST_W, PWR_WTi, epc, ENERGY_UJ, R448 to
R461), whose rounding the spec leaves open. Log entry 21. -/
opaque roundReg : Rat → Nat

/-- A quotient of R450 or R451 whose divisor is 0, which the spec does not give: the draw. Log entry 20. -/
opaque zeroQuotient : Nat → Rat

/-- Whether the host had a line that it held exclusively modified when a floor reset ended the flush (R508): the
draw, the block. Log entry 22. -/
opaque hostDirty : Nat → Nat → Bool

/-- Whether a modified line of host memory was not written back before the flush of a floor reset ended (R508): the draw,
the line. Log entry 22. -/
opaque flushLate : Nat → Nat → Bool

/-- The µs that the compute PLL needs to lock (R440), of which the spec gives the bound 15: taken modulo it, by the draw.
Log entry 221. -/
opaque pllLock : Nat → Nat

/-- The energy in µJ that the module has drawn from VSTBY since ENERGY_UJ last advanced, as the Vigil domain measures it
(R461): the draw. Log entry 223. -/
opaque vstbyEnergy : Nat → Nat

/-- The source and cause codes of a fatal error record that a PLL which lost lock writes (R479, R497, R500). Log
entry 23. -/
opaque pllFatal : Nat × Nat

/-- A nonce of the Vigil random generator (R488, R489), by the draw. Log entry 24. -/
opaque nonce : Nat → Nat

/-- SHA-384 and SHA-256 (R477, R492). Log entry 25. -/
opaque sha384 : List (BitVec 8) → List (BitVec 8)
/-- SHA-256 (R477). Log entry 25. -/
opaque sha256 : List (BitVec 8) → List (BitVec 8)

/-- Whether an ECDSA P-384 signature verifies: public key, message, signature (R477, R488, R489). Log entry 25. -/
opaque ecdsaOk : List (BitVec 8) → List (BitVec 8) → List (BitVec 8) → Bool
/-- Whether an LMS signature verifies: public key, message, signature (R477). Log entry 25. -/
opaque lmsOk : List (BitVec 8) → List (BitVec 8) → List (BitVec 8) → Bool

/-- The hashes of the ECDSA and the LMS key of an OTP key slot (R477). Log entry 26. -/
opaque ecdsaHash : Nat → List (BitVec 8)
/-- The hash of the LMS key of an OTP key slot (R477). Log entry 26. -/
opaque lmsHash : Nat → List (BitVec 8)

/-- The public keys against which lifecycle tokens and debug signatures verify (R488, R489): the manufacturing key,
the return key, the debug key. Log entry 26. -/
opaque mfgKey : List (BitVec 8)
/-- The return key (R488). Log entry 26. -/
opaque returnKey : List (BitVec 8)
/-- The debug key (R489). Log entry 26. -/
opaque debugKey : List (BitVec 8)

/-- The bytes that a lifecycle token's signature covers (R488): the lifecycle it starts from, its target, and the
chip. Log entry 27. -/
opaque tokenBytes : Nat → Nat → Nat → List (BitVec 8)

/-- A signature over a message by the development key (false) or the production key (true) (R487, R491). Log entry 25. -/
opaque identitySign : Bool → List (BitVec 8) → List (BitVec 8)

/-- The responder's ECDHE share of a key exchange, by the draw (R490). Log entry 25. -/
opaque ecdhShare : Nat → List (BitVec 8)
/-- The shared secret of the responder's key of a draw and the requester's share (R490). Log entry 25. -/
opaque ecdhSecret : Nat → List (BitVec 8) → List (BitVec 8)
/-- The MAC that FINISH carries under the key schedule of SPDM 1.3 (R490): the secret. Log entry 25. -/
opaque finishMac : List (BitVec 8) → List (BitVec 8)
/-- The AES-256-GCM keys of the requester's (false) and the responder's (true) direction under the key schedule of SPDM 1.3
(R490). Log entry 25. -/
opaque aeadKey : Bool → List (BitVec 8) → List (BitVec 8)
/-- An LMS signature with leaf q over a message (R493). Log entry 25. -/
opaque lmsSign : Nat → List (BitVec 8) → List (BitVec 8)

/-- The certificate chain that the certificate region of the flash holds (R491), where it agrees with the identity
key: that of development (false) or of production (true). Log entry 27. -/
opaque certChain : Bool → List (BitVec 8) → Option (List (BitVec 8))

/-- The length of the boundary register, and the place of a pin in it (R511): 0 DEV_READY, 1 THERMTRIP_N, 2 to 11 the Lantern
outputs, 12 DEV_RST_N, 13 CXL_PERST_N, 14 VSTBY good, 15 MAIN_PG_IN. Log entry 222. -/
opaque boundaryLen : Nat
/-- The place of a pin in the boundary register (R511). Log entry 222. -/
opaque boundaryPlace : Nat → Nat
/-- What SAMPLE finds in the boundary register beside those pins (R511): the draw. Log entry 222. -/
opaque boundaryRest : Nat → Nat

/-- The bytes that a signed SPDM answer covers (R491): the request's kind, its nonce, and what is answered. Log entry
27. -/
opaque transcript : Nat → Nat → List (BitVec 8) → List (BitVec 8)

/-- A measurement block in the DMTF measurement format (R492): its index and its contents. Log entry 27. -/
opaque measBlock : Nat → List (BitVec 8) → List (BitVec 8)

/-- The contents of measurement block 1 (R492): ROM version and the digest of the ROM. Log entry 26. -/
opaque romBlock : List (BitVec 8)

end Sys2Proof.Config
end

