-- ==== Sys2Proof/Machine/RegMap.lean ====
section
/-! DEFINITION. The register maps of the spec: for every register its place, width, access masks and
reset value, block by block. Cell registers are numbered by their offset in the cell's region (R154),
all others by their physical address (R246). A register whose value other state fixes (a slot, a
conveyor, a semaphore) is `derived`: Machine/Regs.lean computes it. -/

namespace Sys2Proof.Machine

/-- How a register's value is held: in the register map, computed from other state, or nowhere (a
write-only register). -/
inductive RegKind where
  | plain | derived | action
  deriving DecidableEq, Repr

/-- One row of a register map: `count` registers of `width` bits, `stride` bytes apart, from `off`;
the masks say which bits a write sets (RW), clears with 1 (W1C) or sets with 1 (W1S); a bit in none
of them is RO or reserved and ignores writes (R12, R15). -/
structure RegInfo where
  off : Nat
  count : Nat
  stride : Nat
  width : Nat
  kind : RegKind
  rw : Nat
  w1c : Nat
  w1s : Nat
  reset : Nat
  deriving DecidableEq, Repr

/-! ### SQ block (R180) -/

/-- SQ_CTRL (R181), 32 bits, reset 0xe0. -/
abbrev CR.SQ_CTRL : Nat := 0x0
/-- SQ_STATUS (R183), 32 bits. -/
abbrev CR.SQ_STATUS : Nat := 0x4
/-- SQ_PC (R181), 64 bits. -/
abbrev CR.SQ_PC : Nat := 0x8
/-- SQ_IM_BASE (R155), 64 bits. -/
abbrev CR.SQ_IM_BASE : Nat := 0x10
/-- SQ_TRAP_VEC (R181), 64 bits. -/
abbrev CR.SQ_TRAP_VEC : Nat := 0x18
/-- SQ_EPC (R181), 64 bits. -/
abbrev CR.SQ_EPC : Nat := 0x20
/-- SQ_FAULT_CAUSE (R184), 64 bits. -/
abbrev CR.SQ_FAULT_CAUSE : Nat := 0x28
/-- SQ_FAULT_ADDR (R180), 64 bits. -/
abbrev CR.SQ_FAULT_ADDR : Nat := 0x30
/-- SQ_SCRATCH (R180), 64 bits. -/
abbrev CR.SQ_SCRATCH : Nat := 0x38
/-- SQ_YIELD_LIMIT (R186), 32 bits, reset 0x400. -/
abbrev CR.SQ_YIELD_LIMIT : Nat := 0x40
/-- SQ_PHASE (R187), 32 bits. -/
abbrev CR.SQ_PHASE : Nat := 0x44
/-- SQ_RETIRED_CNT (R180), 64 bits. -/
abbrev CR.SQ_RETIRED_CNT : Nat := 0x48
/-- SQ_ACTIVE_CNT (R180), 64 bits. -/
abbrev CR.SQ_ACTIVE_CNT : Nat := 0x50
/-- SQ_BR_MISPRED_CNT (R180), 64 bits. -/
abbrev CR.SQ_BR_MISPRED_CNT : Nat := 0x58
/-- SQ_SPEC_ISSUE_CNT (R180), 64 bits. -/
abbrev CR.SQ_SPEC_ISSUE_CNT : Nat := 0x60
/-- SQ_SPEC_DISCARD_CNT (R180), 64 bits. -/
abbrev CR.SQ_SPEC_DISCARD_CNT : Nat := 0x68
/-- SQ_FLUSH_CNT (R180), 64 bits. -/
abbrev CR.SQ_FLUSH_CNT : Nat := 0x70
/-- SQ_RA_ENTRY_CNT (R180), 64 bits. -/
abbrev CR.SQ_RA_ENTRY_CNT : Nat := 0x78
/-- SQ_RA_INSTR_CNT (R180), 64 bits. -/
abbrev CR.SQ_RA_INSTR_CNT : Nat := 0x80
/-- SQ_RA_PREFETCH_CNT (R180), 64 bits. -/
abbrev CR.SQ_RA_PREFETCH_CNT : Nat := 0x88
/-- SQ_RA_DROP_CNT (R180), 64 bits. -/
abbrev CR.SQ_RA_DROP_CNT : Nat := 0x90
/-- SQ_FAULT_CNT (R180), 64 bits. -/
abbrev CR.SQ_FAULT_CNT : Nat := 0x98
/-- SQ_LEND_CNT (R180), 64 bits. -/
abbrev CR.SQ_LEND_CNT : Nat := 0xa0
/-- SQ_LEND_WAIT_CNT (R180), 64 bits. -/
abbrev CR.SQ_LEND_WAIT_CNT : Nat := 0xa8
/-- SQ_IFETCH_MISS_CNT (R180), 64 bits. -/
abbrev CR.SQ_IFETCH_MISS_CNT : Nat := 0xb0

/-- The SQ block's map, part 0 (R180). -/
def regsSQ0 : List RegInfo := [
  ⟨0x0, 1, 0, 32, .plain, 0xec, 0x0, 0x3, 0xe0⟩,
  ⟨0x4, 1, 0, 32, .derived, 0x0, 0x0, 0x0, 0x0⟩,
  ⟨0x8, 1, 0, 64, .derived, 0x1fffffffffffff8, 0x0, 0x0, 0x0⟩,
  ⟨0x10, 1, 0, 64, .plain, 0xffffffffffff0000, 0x0, 0x0, 0x0⟩,
  ⟨0x18, 1, 0, 64, .plain, 0x1fffffffffffff8, 0x0, 0x0, 0x0⟩,
  ⟨0x20, 1, 0, 64, .plain, 0x1fffffffffffff8, 0x0, 0x0, 0x0⟩,
  ⟨0x28, 1, 0, 64, .plain, 0x0, 0x8000000000000000, 0x0, 0x0⟩,
  ⟨0x30, 1, 0, 64, .plain, 0x0, 0x0, 0x0, 0x0⟩,
  ⟨0x38, 1, 0, 64, .plain, 0xffffffffffffffff, 0x0, 0x0, 0x0⟩,
  ⟨0x40, 1, 0, 32, .plain, 0xffffffff, 0x0, 0x0, 0x400⟩,
  ⟨0x44, 1, 0, 32, .plain, 0x0, 0x0, 0x0, 0x0⟩,
  ⟨0x48, 1, 0, 64, .plain, 0xffffffffffffffff, 0x0, 0x0, 0x0⟩,
  ⟨0x50, 1, 0, 64, .plain, 0xffffffffffffffff, 0x0, 0x0, 0x0⟩,
  ⟨0x58, 1, 0, 64, .plain, 0xffffffffffffffff, 0x0, 0x0, 0x0⟩,
  ⟨0x60, 1, 0, 64, .plain, 0xffffffffffffffff, 0x0, 0x0, 0x0⟩,
  ⟨0x68, 1, 0, 64, .plain, 0xffffffffffffffff, 0x0, 0x0, 0x0⟩,
  ⟨0x70, 1, 0, 64, .plain, 0xffffffffffffffff, 0x0, 0x0, 0x0⟩,
  ⟨0x78, 1, 0, 64, .plain, 0xffffffffffffffff, 0x0, 0x0, 0x0⟩,
  ⟨0x80, 1, 0, 64, .plain, 0xffffffffffffffff, 0x0, 0x0, 0x0⟩,
  ⟨0x88, 1, 0, 64, .plain, 0xffffffffffffffff, 0x0, 0x0, 0x0⟩]

/-- The SQ block's map, part 1 (R180). -/
def regsSQ1 : List RegInfo := [
  ⟨0x90, 1, 0, 64, .plain, 0xffffffffffffffff, 0x0, 0x0, 0x0⟩,
  ⟨0x98, 1, 0, 64, .plain, 0xffffffffffffffff, 0x0, 0x0, 0x0⟩,
  ⟨0xa0, 1, 0, 64, .plain, 0xffffffffffffffff, 0x0, 0x0, 0x0⟩,
  ⟨0xa8, 1, 0, 64, .plain, 0xffffffffffffffff, 0x0, 0x0, 0x0⟩,
  ⟨0xb0, 1, 0, 64, .plain, 0xffffffffffffffff, 0x0, 0x0, 0x0⟩]

/-- The SQ block's map (R180). -/
def regsSQ : List RegInfo := regsSQ0 ++ regsSQ1

/-! ### NUM block (R70) -/

/-- NUM_STATUS (R72), 32 bits. -/
abbrev CR.NUM_STATUS : Nat := 0x1000
/-- NUM_TRAP_EN (R72), 32 bits. -/
abbrev CR.NUM_TRAP_EN : Nat := 0x1004
/-- NUM_LOG_CTRL (R73), 32 bits, reset 0xa00. -/
abbrev CR.NUM_LOG_CTRL : Nat := 0x1008
/-- NUM_SR_SEED (R55), 64 bits. -/
abbrev CR.NUM_SR_SEED : Nat := 0x1010
/-- NUM_SR_STEP (R55), 64 bits. -/
abbrev CR.NUM_SR_STEP : Nat := 0x1018
/-- MX_NUM_LOC (R74), 64 bits. -/
abbrev CR.MX_NUM_LOC : Nat := 0x1020
/-- MX_NUM_LOC_PC (R74), 64 bits. -/
abbrev CR.MX_NUM_LOC_PC : Nat := 0x1028
/-- NUM_EVT_NV_CNT (R70), 64 bits. -/
abbrev CR.NUM_EVT_NV_CNT : Nat := 0x1030
/-- NUM_EVT_OF_CNT (R70), 64 bits. -/
abbrev CR.NUM_EVT_OF_CNT : Nat := 0x1038
/-- NUM_EVT_UF_CNT (R70), 64 bits. -/
abbrev CR.NUM_EVT_UF_CNT : Nat := 0x1040
/-- NUM_EVT_DZ_CNT (R70), 64 bits. -/
abbrev CR.NUM_EVT_DZ_CNT : Nat := 0x1048
/-- NUM_EVT_MS_CNT (R70), 64 bits. -/
abbrev CR.NUM_EVT_MS_CNT : Nat := 0x1050
/-- NUM_LOG_DROP_CNT (R70), 64 bits. -/
abbrev CR.NUM_LOG_DROP_CNT : Nat := 0x1058

/-- The NUM block's map (R70). -/
def regsNUM : List RegInfo := [
  ⟨0x1000, 1, 0, 32, .plain, 0x0, 0x1f, 0x0, 0x0⟩,
  ⟨0x1004, 1, 0, 32, .plain, 0x1f, 0x0, 0x0, 0x0⟩,
  ⟨0x1008, 1, 0, 32, .plain, 0xf1f, 0x0, 0x0, 0xa00⟩,
  ⟨0x1010, 1, 0, 64, .plain, 0xffffffffffffffff, 0x0, 0x0, 0x0⟩,
  ⟨0x1018, 1, 0, 64, .plain, 0xffffffffffffffff, 0x0, 0x0, 0x0⟩,
  ⟨0x1020, 1, 0, 64, .plain, 0x0, 0x8000000000000000, 0x0, 0x0⟩,
  ⟨0x1028, 1, 0, 64, .plain, 0x0, 0x0, 0x0, 0x0⟩,
  ⟨0x1030, 1, 0, 64, .plain, 0xffffffffffffffff, 0x0, 0x0, 0x0⟩,
  ⟨0x1038, 1, 0, 64, .plain, 0xffffffffffffffff, 0x0, 0x0, 0x0⟩,
  ⟨0x1040, 1, 0, 64, .plain, 0xffffffffffffffff, 0x0, 0x0, 0x0⟩,
  ⟨0x1048, 1, 0, 64, .plain, 0xffffffffffffffff, 0x0, 0x0, 0x0⟩,
  ⟨0x1050, 1, 0, 64, .plain, 0xffffffffffffffff, 0x0, 0x0, 0x0⟩,
  ⟨0x1058, 1, 0, 64, .plain, 0xffffffffffffffff, 0x0, 0x0, 0x0⟩]

/-! ### MX block (R113) -/

/-- MX_CTRL (R114), 32 bits. -/
abbrev CR.MX_CTRL : Nat := 0x2000
/-- MX_STATUS (R115), 32 bits. -/
abbrev CR.MX_STATUS : Nat := 0x2004
/-- MX_REPAIR (R98), 32 bits (loaded from fuses: a value of the model's choice). -/
abbrev CR.MX_REPAIR : Nat := 0x2008
/-- MX_SELFTEST (R97), 32 bits. -/
abbrev CR.MX_SELFTEST : Nat := 0x200c
/-- MX_BUSY_CNT (R113), 64 bits. -/
abbrev CR.MX_BUSY_CNT : Nat := 0x2010
/-- MX_MAC_CNT (R113), 64 bits. -/
abbrev CR.MX_MAC_CNT : Nat := 0x2018
/-- MX_GATED_CNT (R113), 64 bits. -/
abbrev CR.MX_GATED_CNT : Nat := 0x2020
/-- MX_SPEC_ISSUE_CNT (R113), 64 bits. -/
abbrev CR.MX_SPEC_ISSUE_CNT : Nat := 0x2028
/-- MX_SPEC_DISCARD_CNT (R113), 64 bits. -/
abbrev CR.MX_SPEC_DISCARD_CNT : Nat := 0x2030
/-- MX_GFILL_TILE_CNT (R113), 64 bits. -/
abbrev CR.MX_GFILL_TILE_CNT : Nat := 0x2038
/-- MX_GFILL_ROW_CNT (R113), 64 bits. -/
abbrev CR.MX_GFILL_ROW_CNT : Nat := 0x2040
/-- MX_GFILL_LIMIT_CNT (R113), 64 bits. -/
abbrev CR.MX_GFILL_LIMIT_CNT : Nat := 0x2048
/-- MX_MV_BUSY_CNT (R113), 64 bits. -/
abbrev CR.MX_MV_BUSY_CNT : Nat := 0x2050
/-- MX_MV_PORT_WAIT_CNT (R113), 64 bits. -/
abbrev CR.MX_MV_PORT_WAIT_CNT : Nat := 0x2058
/-- MX_CHECK_ERR_CNT (R113), 64 bits. -/
abbrev CR.MX_CHECK_ERR_CNT : Nat := 0x2060
/-- MX_SELFTEST_CNT (R113), 64 bits. -/
abbrev CR.MX_SELFTEST_CNT : Nat := 0x2068

/-- The MX block's map (R113). -/
def regsMX : List RegInfo := [
  ⟨0x2000, 1, 0, 32, .plain, 0x1, 0x0, 0x0, 0x0⟩,
  ⟨0x2004, 1, 0, 32, .plain, 0x0, 0x70100, 0x0, 0x0⟩,
  ⟨0x2008, 1, 0, 32, .plain, 0x0, 0x0, 0x0, 0x0⟩,
  ⟨0x200c, 1, 0, 32, .action, 0x0, 0x0, 0x0, 0x0⟩,
  ⟨0x2010, 1, 0, 64, .plain, 0xffffffffffffffff, 0x0, 0x0, 0x0⟩,
  ⟨0x2018, 1, 0, 64, .plain, 0xffffffffffffffff, 0x0, 0x0, 0x0⟩,
  ⟨0x2020, 1, 0, 64, .plain, 0xffffffffffffffff, 0x0, 0x0, 0x0⟩,
  ⟨0x2028, 1, 0, 64, .plain, 0xffffffffffffffff, 0x0, 0x0, 0x0⟩,
  ⟨0x2030, 1, 0, 64, .plain, 0xffffffffffffffff, 0x0, 0x0, 0x0⟩,
  ⟨0x2038, 1, 0, 64, .plain, 0xffffffffffffffff, 0x0, 0x0, 0x0⟩,
  ⟨0x2040, 1, 0, 64, .plain, 0xffffffffffffffff, 0x0, 0x0, 0x0⟩,
  ⟨0x2048, 1, 0, 64, .plain, 0xffffffffffffffff, 0x0, 0x0, 0x0⟩,
  ⟨0x2050, 1, 0, 64, .plain, 0xffffffffffffffff, 0x0, 0x0, 0x0⟩,
  ⟨0x2058, 1, 0, 64, .plain, 0xffffffffffffffff, 0x0, 0x0, 0x0⟩,
  ⟨0x2060, 1, 0, 64, .plain, 0xffffffffffffffff, 0x0, 0x0, 0x0⟩,
  ⟨0x2068, 1, 0, 64, .plain, 0xffffffffffffffff, 0x0, 0x0, 0x0⟩]

/-! ### VX block (R149) -/

/-- VX_STATUS (R150), 32 bits. -/
abbrev CR.VX_STATUS : Nat := 0x3000
/-- VX_NUM_LOC (R146), 64 bits. -/
abbrev CR.VX_NUM_LOC : Nat := 0x3008
/-- VX_NUM_LOC_PC (R146), 64 bits. -/
abbrev CR.VX_NUM_LOC_PC : Nat := 0x3010
/-- RU_FACCn (R134), 64 bits. -/
abbrev CR.RU_FACC (n : Nat) : Nat := 0x3018 + 8 * n
/-- VX_BUSY_CNT (R149), 64 bits. -/
abbrev CR.VX_BUSY_CNT : Nat := 0x3038
/-- FU_BUSY_CNT (R149), 64 bits. -/
abbrev CR.FU_BUSY_CNT : Nat := 0x3040
/-- RU_BUSY_CNT (R149), 64 bits. -/
abbrev CR.RU_BUSY_CNT : Nat := 0x3048
/-- VX_SMAX_ROW_CNT (R149), 64 bits. -/
abbrev CR.VX_SMAX_ROW_CNT : Nat := 0x3050
/-- OC_PORT_WAIT_CNT (R149), 64 bits. -/
abbrev CR.OC_PORT_WAIT_CNT : Nat := 0x3058
/-- OC_ECC_CORR_CNT (R149), 64 bits. -/
abbrev CR.OC_ECC_CORR_CNT : Nat := 0x3060
/-- OC_ECC_UNCORR_CNT (R149), 64 bits. -/
abbrev CR.OC_ECC_UNCORR_CNT : Nat := 0x3068

/-- The VX block's map (R149). -/
def regsVX : List RegInfo := [
  ⟨0x3000, 1, 0, 32, .plain, 0x0, 0x1f0000, 0x0, 0x0⟩,
  ⟨0x3008, 1, 0, 64, .plain, 0x0, 0x8000000000000000, 0x0, 0x0⟩,
  ⟨0x3010, 1, 0, 64, .plain, 0x0, 0x0, 0x0, 0x0⟩,
  ⟨0x3018, 4, 8, 64, .plain, 0xffffffffffffffff, 0x0, 0x0, 0x0⟩,
  ⟨0x3038, 1, 0, 64, .plain, 0xffffffffffffffff, 0x0, 0x0, 0x0⟩,
  ⟨0x3040, 1, 0, 64, .plain, 0xffffffffffffffff, 0x0, 0x0, 0x0⟩,
  ⟨0x3048, 1, 0, 64, .plain, 0xffffffffffffffff, 0x0, 0x0, 0x0⟩,
  ⟨0x3050, 1, 0, 64, .plain, 0xffffffffffffffff, 0x0, 0x0, 0x0⟩,
  ⟨0x3058, 1, 0, 64, .plain, 0xffffffffffffffff, 0x0, 0x0, 0x0⟩,
  ⟨0x3060, 1, 0, 64, .plain, 0xffffffffffffffff, 0x0, 0x0, 0x0⟩,
  ⟨0x3068, 1, 0, 64, .plain, 0xffffffffffffffff, 0x0, 0x0, 0x0⟩]

/-! ### SX block (R314) -/

/-- SX_SHARE (R315), 32 bits, reset 0x141e32. -/
abbrev CR.SX_SHARE : Nat := 0x4000
/-- SX_STATUS (R315), 32 bits. -/
abbrev CR.SX_STATUS : Nat := 0x4004
/-- SEM_POST_DROP_CNT (R282), 64 bits. -/
abbrev CR.SEM_POST_DROP_CNT : Nat := 0x4008
/-- SX_STALL_DATA_CNT (R314), 64 bits. -/
abbrev CR.SX_STALL_DATA_CNT : Nat := 0x4010
/-- SX_STALL_SEM_CNT (R314), 64 bits. -/
abbrev CR.SX_STALL_SEM_CNT : Nat := 0x4018
/-- SX_STALL_QFULL_CNT (R314), 64 bits. -/
abbrev CR.SX_STALL_QFULL_CNT : Nat := 0x4020
/-- SX_STALL_XLAT_CNT (R314), 64 bits. -/
abbrev CR.SX_STALL_XLAT_CNT : Nat := 0x4028
/-- SX_STALL_CREDIT_CNT (R314), 64 bits. -/
abbrev CR.SX_STALL_CREDIT_CNT : Nat := 0x4030
/-- SX_STALL_WAKE_CNT (R314), 64 bits. -/
abbrev CR.SX_STALL_WAKE_CNT : Nat := 0x4038
/-- SX_STALL_PWR_CNT (R314), 64 bits. -/
abbrev CR.SX_STALL_PWR_CNT : Nat := 0x4040
/-- SX_RD_BYTES_CNT (R314), 64 bits. -/
abbrev CR.SX_RD_BYTES_CNT : Nat := 0x4048
/-- SX_WR_BYTES_CNT (R314), 64 bits. -/
abbrev CR.SX_WR_BYTES_CNT : Nat := 0x4050
/-- SX_RM_BYTES_CNT (R314), 64 bits. -/
abbrev CR.SX_RM_BYTES_CNT : Nat := 0x4058
/-- SX_DESC_DONE_CNT (R314), 64 bits. -/
abbrev CR.SX_DESC_DONE_CNT : Nat := 0x4060
/-- SX_UTX_REISSUE_CNT (R314), 64 bits. -/
abbrev CR.SX_UTX_REISSUE_CNT : Nat := 0x4068
/-- SX_HALT_CNT (R314), 64 bits. -/
abbrev CR.SX_HALT_CNT : Nat := 0x4070
/-- SX_PIN_FAIL_CNT (R314), 64 bits. -/
abbrev CR.SX_PIN_FAIL_CNT : Nat := 0x4078
/-- SX_D_STATUSn (R314), 64 bits. -/
abbrev CR.SX_D_STATUS (n : Nat) : Nat := 0x4100 + 64 * n
/-- SX_D_POS0n (R314), 64 bits. -/
abbrev CR.SX_D_POS0 (n : Nat) : Nat := 0x4108 + 64 * n
/-- SX_D_POS1n (R314), 64 bits. -/
abbrev CR.SX_D_POS1 (n : Nat) : Nat := 0x4110 + 64 * n
/-- SX_D_DONEn (R314), 64 bits. -/
abbrev CR.SX_D_DONE (n : Nat) : Nat := 0x4118 + 64 * n
/-- SX_D_FAULT_VAn (R314), 64 bits. -/
abbrev CR.SX_D_FAULT_VA (n : Nat) : Nat := 0x4120 + 64 * n
/-- SX_D_IND_BASEn (R314), 64 bits. -/
abbrev CR.SX_D_IND_BASE (n : Nat) : Nat := 0x4128 + 64 * n
/-- SX_D_IND_LENn (R314), 64 bits. -/
abbrev CR.SX_D_IND_LEN (n : Nat) : Nat := 0x4130 + 64 * n
/-- SX_D_CTRLn (R304), 64 bits. -/
abbrev CR.SX_D_CTRL (n : Nat) : Nat := 0x4138 + 64 * n

/-- The SX block's map, part 0 (R314). -/
def regsSX0 : List RegInfo := [
  ⟨0x4000, 1, 0, 32, .plain, 0xffffff, 0x0, 0x0, 0x141e32⟩,
  ⟨0x4004, 1, 0, 32, .plain, 0x0, 0x70080, 0x0, 0x0⟩,
  ⟨0x4008, 1, 0, 64, .plain, 0xffffffffffffffff, 0x0, 0x0, 0x0⟩,
  ⟨0x4010, 1, 0, 64, .plain, 0xffffffffffffffff, 0x0, 0x0, 0x0⟩,
  ⟨0x4018, 1, 0, 64, .plain, 0xffffffffffffffff, 0x0, 0x0, 0x0⟩,
  ⟨0x4020, 1, 0, 64, .plain, 0xffffffffffffffff, 0x0, 0x0, 0x0⟩,
  ⟨0x4028, 1, 0, 64, .plain, 0xffffffffffffffff, 0x0, 0x0, 0x0⟩,
  ⟨0x4030, 1, 0, 64, .plain, 0xffffffffffffffff, 0x0, 0x0, 0x0⟩,
  ⟨0x4038, 1, 0, 64, .plain, 0xffffffffffffffff, 0x0, 0x0, 0x0⟩,
  ⟨0x4040, 1, 0, 64, .plain, 0xffffffffffffffff, 0x0, 0x0, 0x0⟩,
  ⟨0x4048, 1, 0, 64, .plain, 0xffffffffffffffff, 0x0, 0x0, 0x0⟩,
  ⟨0x4050, 1, 0, 64, .plain, 0xffffffffffffffff, 0x0, 0x0, 0x0⟩,
  ⟨0x4058, 1, 0, 64, .plain, 0xffffffffffffffff, 0x0, 0x0, 0x0⟩,
  ⟨0x4060, 1, 0, 64, .plain, 0xffffffffffffffff, 0x0, 0x0, 0x0⟩,
  ⟨0x4068, 1, 0, 64, .plain, 0xffffffffffffffff, 0x0, 0x0, 0x0⟩,
  ⟨0x4070, 1, 0, 64, .plain, 0xffffffffffffffff, 0x0, 0x0, 0x0⟩,
  ⟨0x4078, 1, 0, 64, .plain, 0xffffffffffffffff, 0x0, 0x0, 0x0⟩,
  ⟨0x4100, 6, 64, 64, .derived, 0x0, 0x0, 0x0, 0x0⟩,
  ⟨0x4108, 6, 64, 64, .derived, 0x0, 0x0, 0x0, 0x0⟩,
  ⟨0x4110, 6, 64, 64, .derived, 0x0, 0x0, 0x0, 0x0⟩]

/-- The SX block's map, part 1 (R314). -/
def regsSX1 : List RegInfo := [
  ⟨0x4118, 6, 64, 64, .derived, 0x0, 0x0, 0x0, 0x0⟩,
  ⟨0x4120, 6, 64, 64, .derived, 0x0, 0x0, 0x0, 0x0⟩,
  ⟨0x4128, 6, 64, 64, .derived, 0x0, 0x0, 0x0, 0x0⟩,
  ⟨0x4130, 6, 64, 64, .derived, 0x0, 0x0, 0x0, 0x0⟩,
  ⟨0x4138, 6, 64, 64, .action, 0x0, 0x0, 0x0, 0x0⟩]

/-- The SX block's map (R314). -/
def regsSX : List RegInfo := regsSX0 ++ regsSX1

/-! ### Q block (R316) -/

/-- Q_CFGn (R317), 64 bits. -/
abbrev CR.Q_CFG (n : Nat) : Nat := 0x5000 + 32 * n
/-- Q_PTRn (R316), 64 bits. -/
abbrev CR.Q_PTR (n : Nat) : Nat := 0x5008 + 32 * n
/-- Q_MARKn (R316), 64 bits. -/
abbrev CR.Q_MARK (n : Nat) : Nat := 0x5010 + 32 * n
/-- Q_STATn (R317), 64 bits, reset 0x10000000. -/
abbrev CR.Q_STAT (n : Nat) : Nat := 0x5018 + 32 * n
/-- Q_PUSH_CNT (R316), 64 bits. -/
abbrev CR.Q_PUSH_CNT : Nat := 0x5200
/-- Q_POP_CNT (R316), 64 bits. -/
abbrev CR.Q_POP_CNT : Nat := 0x5208
/-- Q_REWIND_CNT (R316), 64 bits. -/
abbrev CR.Q_REWIND_CNT : Nat := 0x5210
/-- Q_POISON_CNT (R316), 64 bits. -/
abbrev CR.Q_POISON_CNT : Nat := 0x5218

/-- The Q block's map (R316). -/
def regsQ : List RegInfo := [
  ⟨0x5000, 16, 32, 64, .derived, 0x1fff9f013f00, 0x0, 0x0, 0x0⟩,
  ⟨0x5008, 16, 32, 64, .derived, 0x0, 0x0, 0x0, 0x0⟩,
  ⟨0x5010, 16, 32, 64, .derived, 0x0, 0x0, 0x0, 0x0⟩,
  ⟨0x5018, 16, 32, 64, .derived, 0x0, 0x0, 0x0, 0x10000000⟩,
  ⟨0x5200, 1, 0, 64, .plain, 0xffffffffffffffff, 0x0, 0x0, 0x0⟩,
  ⟨0x5208, 1, 0, 64, .plain, 0xffffffffffffffff, 0x0, 0x0, 0x0⟩,
  ⟨0x5210, 1, 0, 64, .plain, 0xffffffffffffffff, 0x0, 0x0, 0x0⟩,
  ⟨0x5218, 1, 0, 64, .plain, 0xffffffffffffffff, 0x0, 0x0, 0x0⟩]

/-! ### SEM block (R318) -/

/-- SEM_VALn (R319), 32 bits. -/
abbrev CR.SEM_VAL (n : Nat) : Nat := 0x6000 + 4 * n
/-- SEM_POST_CNT (R318), 64 bits. -/
abbrev CR.SEM_POST_CNT : Nat := 0x6100
/-- SEM_WAIT_CNT (R318), 64 bits. -/
abbrev CR.SEM_WAIT_CNT : Nat := 0x6108
/-- SEM_OVF_CNT (R318), 64 bits. -/
abbrev CR.SEM_OVF_CNT : Nat := 0x6110

/-- The SEM block's map (R318). -/
def regsSEM : List RegInfo := [
  ⟨0x6000, 64, 4, 32, .derived, 0xffff, 0x30000, 0x0, 0x0⟩,
  ⟨0x6100, 1, 0, 64, .plain, 0xffffffffffffffff, 0x0, 0x0, 0x0⟩,
  ⟨0x6108, 1, 0, 64, .plain, 0xffffffffffffffff, 0x0, 0x0, 0x0⟩,
  ⟨0x6110, 1, 0, 64, .plain, 0xffffffffffffffff, 0x0, 0x0, 0x0⟩]

/-! ### CP block (R464) -/

/-- CP_CTRL (R465), 32 bits, reset 0x400000. -/
abbrev CR.CP_CTRL : Nat := 0x7000
/-- CP_STATE (R465), 32 bits, reset 0x2. -/
abbrev CR.CP_STATE : Nat := 0x7004
/-- CP_CHAR (R465), 32 bits (loaded from fuses: a value of the model's choice). -/
abbrev CR.CP_CHAR : Nat := 0x7008
/-- CP_WAKE_CNT (R464), 64 bits. -/
abbrev CR.CP_WAKE_CNT : Nat := 0x7010
/-- CP_DROOP_CNT (R464), 64 bits. -/
abbrev CR.CP_DROOP_CNT : Nat := 0x7018
/-- CP_STRETCH_CNT (R464), 64 bits. -/
abbrev CR.CP_STRETCH_CNT : Nat := 0x7020
/-- CP_DOZE_CNT (R464), 64 bits. -/
abbrev CR.CP_DOZE_CNT : Nat := 0x7028

/-- The CP block's map (R464). -/
def regsCP : List RegInfo := [
  ⟨0x7000, 1, 0, 32, .plain, 0xffff0004, 0x0, 0x2, 0x400000⟩,
  ⟨0x7004, 1, 0, 32, .derived, 0x0, 0x0, 0x0, 0x2⟩,
  ⟨0x7008, 1, 0, 32, .plain, 0x0, 0x0, 0x0, 0x0⟩,
  ⟨0x7010, 1, 0, 64, .plain, 0xffffffffffffffff, 0x0, 0x0, 0x0⟩,
  ⟨0x7018, 1, 0, 64, .plain, 0xffffffffffffffff, 0x0, 0x0, 0x0⟩,
  ⟨0x7020, 1, 0, 64, .plain, 0xffffffffffffffff, 0x0, 0x0, 0x0⟩,
  ⟨0x7028, 1, 0, 64, .plain, 0xffffffffffffffff, 0x0, 0x0, 0x0⟩]

/-! ### HRG block (R242) -/

/-- HR_MODE (R243), 32 bits, reset 0x1. -/
abbrev FR.HR_MODE : Nat := 0x30001000000
/-- HR_PIN_CAP (R243), 32 bits, reset 0x12000. -/
abbrev FR.HR_PIN_CAP : Nat := 0x30001000004
/-- HR_RETIRE_TIMEOUT (R242), 32 bits, reset 0x64. -/
abbrev FR.HR_RETIRE_TIMEOUT : Nat := 0x30001000008
/-- HR_UNPIN (R232), 32 bits. -/
abbrev FR.HR_UNPIN : Nat := 0x3000100000c
/-- HR_CLS_QUOTAn (R243), 32 bits, reset 0x12000. -/
abbrev FR.HR_CLS_QUOTA (n : Nat) : Nat := 0x30001000010 + 4 * n
/-- HR_CAP_LINES (R243), 64 bits, reset 0x1800000 (loaded from fuses: a value of the model's choice). -/
abbrev FR.HR_CAP_LINES : Nat := 0x30001000030

/-- The HRG block's map (R242). -/
def regsHRG : List RegInfo := [
  ⟨0x30001000000, 1, 0, 32, .plain, 0xffff0001, 0x0, 0x0, 0x1⟩,
  ⟨0x30001000004, 1, 0, 32, .plain, 0x1ffff, 0x0, 0x0, 0x12000⟩,
  ⟨0x30001000008, 1, 0, 32, .plain, 0xffffffff, 0x0, 0x0, 0x64⟩,
  ⟨0x3000100000c, 1, 0, 32, .action, 0x0, 0x0, 0x0, 0x0⟩,
  ⟨0x30001000010, 8, 4, 32, .plain, 0x1ffff, 0x0, 0x0, 0x12000⟩,
  ⟨0x30001000030, 1, 0, 64, .plain, 0x0, 0x0, 0x0, 0x1800000⟩]

/-! ### HRS block (R244) -/

/-- HR_WIN_CFG (R245), 32 bits. -/
abbrev FR.HR_WIN_CFG (s : Nat) : Nat := 0x30001100000 + 4096 * s
/-- HR_STATUS (R245), 32 bits. -/
abbrev FR.HR_STATUS (s : Nat) : Nat := 0x30001100004 + 4096 * s
/-- HR_VPORT (R245), 32 bits (loaded from fuses: a value of the model's choice). -/
abbrev FR.HR_VPORT (s : Nat) : Nat := 0x30001100008 + 4096 * s
/-- HR_AVAIL_FRAMES (R244), 32 bits, reset 0xc000. -/
abbrev FR.HR_AVAIL_FRAMES (s : Nat) : Nat := 0x3000110000c + 4096 * s
/-- HR_PIN_USEDn (R244), 32 bits. -/
abbrev FR.HR_PIN_USED (s : Nat) (n : Nat) : Nat := 0x30001100010 + 4096 * s + 4 * n
/-- HR_CLS_HIT_CNTn (R244), 64 bits. -/
abbrev FR.HR_CLS_HIT_CNT (s : Nat) (n : Nat) : Nat := 0x30001100040 + 4096 * s + 8 * n
/-- HR_CLS_MISS_CNTn (R244), 64 bits. -/
abbrev FR.HR_CLS_MISS_CNT (s : Nat) (n : Nat) : Nat := 0x30001100080 + 4096 * s + 8 * n
/-- HR_MSHR_FULL_CNT (R244), 64 bits. -/
abbrev FR.HR_MSHR_FULL_CNT (s : Nat) : Nat := 0x300011000c0 + 4096 * s
/-- HR_WAITER_FULL_CNT (R244), 64 bits. -/
abbrev FR.HR_WAITER_FULL_CNT (s : Nat) : Nat := 0x300011000c8 + 4096 * s
/-- HR_RED_APPLY_CNT (R244), 64 bits. -/
abbrev FR.HR_RED_APPLY_CNT (s : Nat) : Nat := 0x300011000d0 + 4096 * s
/-- HR_RED_REJECT_CNT (R244), 64 bits. -/
abbrev FR.HR_RED_REJECT_CNT (s : Nat) : Nat := 0x300011000d8 + 4096 * s
/-- HR_RED_NV_CNT (R244), 64 bits. -/
abbrev FR.HR_RED_NV_CNT (s : Nat) : Nat := 0x300011000e0 + 4096 * s
/-- HR_RED_OF_CNT (R244), 64 bits. -/
abbrev FR.HR_RED_OF_CNT (s : Nat) : Nat := 0x300011000e8 + 4096 * s
/-- HR_RED_UF_CNT (R244), 64 bits. -/
abbrev FR.HR_RED_UF_CNT (s : Nat) : Nat := 0x300011000f0 + 4096 * s
/-- HR_DET_WAIT_CNT (R244), 64 bits. -/
abbrev FR.HR_DET_WAIT_CNT (s : Nat) : Nat := 0x300011000f8 + 4096 * s
/-- HR_EVICT_HOLD_CNT (R244), 64 bits. -/
abbrev FR.HR_EVICT_HOLD_CNT (s : Nat) : Nat := 0x30001100100 + 4096 * s
/-- HR_PIN_FAIL_CNT (R244), 64 bits. -/
abbrev FR.HR_PIN_FAIL_CNT (s : Nat) : Nat := 0x30001100108 + 4096 * s
/-- HR_CMP_LINES (R219), 64 bits. -/
abbrev FR.HR_CMP_LINES (s : Nat) : Nat := 0x30001100110 + 4096 * s
/-- HR_VCRC_ERR_CNT (R244), 64 bits. -/
abbrev FR.HR_VCRC_ERR_CNT (s : Nat) : Nat := 0x30001100118 + 4096 * s
/-- HR_VLANE_SPARE_CNT (R244), 64 bits. -/
abbrev FR.HR_VLANE_SPARE_CNT (s : Nat) : Nat := 0x30001100120 + 4096 * s
/-- HR_BYPASS_CNT (R244), 64 bits. -/
abbrev FR.HR_BYPASS_CNT (s : Nat) : Nat := 0x30001100128 + 4096 * s
/-- HR_ECC_CORR_CNT (R244), 64 bits. -/
abbrev FR.HR_ECC_CORR_CNT (s : Nat) : Nat := 0x30001100130 + 4096 * s
/-- HR_ECC_UNCORR_CNT (R244), 64 bits. -/
abbrev FR.HR_ECC_UNCORR_CNT (s : Nat) : Nat := 0x30001100138 + 4096 * s
/-- HR_LOST_LINE_CNT (R244), 64 bits. -/
abbrev FR.HR_LOST_LINE_CNT (s : Nat) : Nat := 0x30001100140 + 4096 * s

/-- The HRS block's map, part 0 (R244). -/
def regsHRS0 : List RegInfo := [
  ⟨0x30001100000, 1, 0, 32, .plain, 0x1ff, 0x0, 0x0, 0x0⟩,
  ⟨0x30001100004, 1, 0, 32, .plain, 0x0, 0x1006, 0x0, 0x0⟩,
  ⟨0x30001100008, 1, 0, 32, .plain, 0x0, 0x0, 0x0, 0x0⟩,
  ⟨0x3000110000c, 1, 0, 32, .plain, 0x0, 0x0, 0x0, 0xc000⟩,
  ⟨0x30001100010, 8, 4, 32, .derived, 0x0, 0x0, 0x0, 0x0⟩,
  ⟨0x30001100040, 8, 8, 64, .plain, 0xffffffffffffffff, 0x0, 0x0, 0x0⟩,
  ⟨0x30001100080, 8, 8, 64, .plain, 0xffffffffffffffff, 0x0, 0x0, 0x0⟩,
  ⟨0x300011000c0, 1, 0, 64, .plain, 0xffffffffffffffff, 0x0, 0x0, 0x0⟩,
  ⟨0x300011000c8, 1, 0, 64, .plain, 0xffffffffffffffff, 0x0, 0x0, 0x0⟩,
  ⟨0x300011000d0, 1, 0, 64, .plain, 0xffffffffffffffff, 0x0, 0x0, 0x0⟩,
  ⟨0x300011000d8, 1, 0, 64, .plain, 0xffffffffffffffff, 0x0, 0x0, 0x0⟩,
  ⟨0x300011000e0, 1, 0, 64, .plain, 0xffffffffffffffff, 0x0, 0x0, 0x0⟩,
  ⟨0x300011000e8, 1, 0, 64, .plain, 0xffffffffffffffff, 0x0, 0x0, 0x0⟩,
  ⟨0x300011000f0, 1, 0, 64, .plain, 0xffffffffffffffff, 0x0, 0x0, 0x0⟩,
  ⟨0x300011000f8, 1, 0, 64, .plain, 0xffffffffffffffff, 0x0, 0x0, 0x0⟩,
  ⟨0x30001100100, 1, 0, 64, .plain, 0xffffffffffffffff, 0x0, 0x0, 0x0⟩,
  ⟨0x30001100108, 1, 0, 64, .plain, 0xffffffffffffffff, 0x0, 0x0, 0x0⟩,
  ⟨0x30001100110, 1, 0, 64, .derived, 0x0, 0x0, 0x0, 0x0⟩,
  ⟨0x30001100118, 1, 0, 64, .plain, 0xffffffffffffffff, 0x0, 0x0, 0x0⟩,
  ⟨0x30001100120, 1, 0, 64, .plain, 0xffffffffffffffff, 0x0, 0x0, 0x0⟩]

/-- The HRS block's map, part 1 (R244). -/
def regsHRS1 : List RegInfo := [
  ⟨0x30001100128, 1, 0, 64, .plain, 0xffffffffffffffff, 0x0, 0x0, 0x0⟩,
  ⟨0x30001100130, 1, 0, 64, .plain, 0xffffffffffffffff, 0x0, 0x0, 0x0⟩,
  ⟨0x30001100138, 1, 0, 64, .plain, 0xffffffffffffffff, 0x0, 0x0, 0x0⟩,
  ⟨0x30001100140, 1, 0, 64, .plain, 0xffffffffffffffff, 0x0, 0x0, 0x0⟩]

/-- The HRS block's map (R244). -/
def regsHRS : List RegInfo := regsHRS0 ++ regsHRS1

/-! ### MEM block (R276) -/

/-- TR_CTRL (R277), 32 bits. -/
abbrev FR.TR_CTRL : Nat := 0x30001200000
/-- TR_STATUS (R277), 32 bits. -/
abbrev FR.TR_STATUS : Nat := 0x30001200004
/-- TR_ROOT (R276), 64 bits. -/
abbrev FR.TR_ROOT : Nat := 0x30001200008
/-- TR_INVAL (R259), 64 bits. -/
abbrev FR.TR_INVAL : Nat := 0x30001200010
/-- TR_PRQ_BASE (R276), 64 bits. -/
abbrev FR.TR_PRQ_BASE : Nat := 0x30001200018
/-- TR_PRQ_CFG (R276), 32 bits, reset 0x8. -/
abbrev FR.TR_PRQ_CFG : Nat := 0x30001200020
/-- TR_PR_TIMEOUT (R276), 32 bits, reset 0x64. -/
abbrev FR.TR_PR_TIMEOUT : Nat := 0x30001200024
/-- TR_PRQ_TAIL (R276), 32 bits. -/
abbrev FR.TR_PRQ_TAIL : Nat := 0x30001200028
/-- TR_PRQ_HEAD (R276), 32 bits. -/
abbrev FR.TR_PRQ_HEAD : Nat := 0x3000120002c
/-- TR_PRSP (R264), 64 bits. -/
abbrev FR.TR_PRSP : Nat := 0x30001200030
/-- TR_ERR_VA (R276), 64 bits. -/
abbrev FR.TR_ERR_VA : Nat := 0x30001200038
/-- TR_ERR_INFO (R277), 32 bits. -/
abbrev FR.TR_ERR_INFO : Nat := 0x30001200040
/-- HBM_ILV_CFG (R250), 32 bits. -/
abbrev FR.HBM_ILV_CFG : Nat := 0x30001200044
/-- HBM_SCRUB_CFG (R252), 32 bits, reset 0x18. -/
abbrev FR.HBM_SCRUB_CFG : Nat := 0x30001200048
/-- HBM_ERR_PA (R277), 64 bits. -/
abbrev FR.HBM_ERR_PA : Nat := 0x30001200050
/-- TR_WALK_CNT (R276), 64 bits. -/
abbrev FR.TR_WALK_CNT : Nat := 0x30001200058
/-- TR_PR_CNT (R276), 64 bits. -/
abbrev FR.TR_PR_CNT : Nat := 0x30001200060
/-- TR_PR_REFUSE_CNT (R276), 64 bits. -/
abbrev FR.TR_PR_REFUSE_CNT : Nat := 0x30001200068
/-- TR_WALK_ERR_CNT (R276), 64 bits. -/
abbrev FR.TR_WALK_ERR_CNT : Nat := 0x30001200070
/-- TR_INVAL_CNT (R276), 64 bits. -/
abbrev FR.TR_INVAL_CNT : Nat := 0x30001200078
/-- HBM_CORR_CNT (R276), 64 bits. -/
abbrev FR.HBM_CORR_CNT : Nat := 0x30001200080
/-- HBM_UNCORR_CNT (R276), 64 bits. -/
abbrev FR.HBM_UNCORR_CNT : Nat := 0x30001200088
/-- HBM_SCRUB_PASS_CNT (R276), 64 bits. -/
abbrev FR.HBM_SCRUB_PASS_CNT : Nat := 0x30001200090
/-- TILE_CRC_ERR_CNT (R276), 64 bits. -/
abbrev FR.TILE_CRC_ERR_CNT : Nat := 0x30001200098

/-- The MEM block's map, part 0 (R276). -/
def regsMEM0 : List RegInfo := [
  ⟨0x30001200000, 1, 0, 32, .plain, 0x7, 0x0, 0x0, 0x0⟩,
  ⟨0x30001200004, 1, 0, 32, .plain, 0x0, 0x2c, 0x0, 0x0⟩,
  ⟨0x30001200008, 1, 0, 64, .plain, 0xffffffffff000, 0x0, 0x0, 0x0⟩,
  ⟨0x30001200010, 1, 0, 64, .action, 0x0, 0x0, 0x0, 0x0⟩,
  ⟨0x30001200018, 1, 0, 64, .plain, 0xffffffffff000, 0x0, 0x0, 0x0⟩,
  ⟨0x30001200020, 1, 0, 32, .plain, 0x1f, 0x0, 0x0, 0x8⟩,
  ⟨0x30001200024, 1, 0, 32, .plain, 0xffffffff, 0x0, 0x0, 0x64⟩,
  ⟨0x30001200028, 1, 0, 32, .plain, 0x0, 0x0, 0x0, 0x0⟩,
  ⟨0x3000120002c, 1, 0, 32, .plain, 0xffffffff, 0x0, 0x0, 0x0⟩,
  ⟨0x30001200030, 1, 0, 64, .action, 0x0, 0x0, 0x0, 0x0⟩,
  ⟨0x30001200038, 1, 0, 64, .plain, 0x0, 0x0, 0x0, 0x0⟩,
  ⟨0x30001200040, 1, 0, 32, .plain, 0x0, 0x80000000, 0x0, 0x0⟩,
  ⟨0x30001200044, 1, 0, 32, .plain, 0x3, 0x0, 0x0, 0x0⟩,
  ⟨0x30001200048, 1, 0, 32, .plain, 0xff, 0x0, 0x0, 0x18⟩,
  ⟨0x30001200050, 1, 0, 64, .plain, 0x0, 0x8000000000000000, 0x0, 0x0⟩,
  ⟨0x30001200058, 1, 0, 64, .plain, 0xffffffffffffffff, 0x0, 0x0, 0x0⟩,
  ⟨0x30001200060, 1, 0, 64, .plain, 0xffffffffffffffff, 0x0, 0x0, 0x0⟩,
  ⟨0x30001200068, 1, 0, 64, .plain, 0xffffffffffffffff, 0x0, 0x0, 0x0⟩,
  ⟨0x30001200070, 1, 0, 64, .plain, 0xffffffffffffffff, 0x0, 0x0, 0x0⟩,
  ⟨0x30001200078, 1, 0, 64, .plain, 0xffffffffffffffff, 0x0, 0x0, 0x0⟩]

/-- The MEM block's map, part 1 (R276). -/
def regsMEM1 : List RegInfo := [
  ⟨0x30001200080, 1, 0, 64, .plain, 0xffffffffffffffff, 0x0, 0x0, 0x0⟩,
  ⟨0x30001200088, 1, 0, 64, .plain, 0xffffffffffffffff, 0x0, 0x0, 0x0⟩,
  ⟨0x30001200090, 1, 0, 64, .plain, 0xffffffffffffffff, 0x0, 0x0, 0x0⟩,
  ⟨0x30001200098, 1, 0, 64, .plain, 0xffffffffffffffff, 0x0, 0x0, 0x0⟩]

/-- The MEM block's map (R276). -/
def regsMEM : List RegInfo := regsMEM0 ++ regsMEM1

/-! ### SYS block (R494) -/

/-- SYS_ID (R2), 32 bits, reset 0x3d524011. -/
abbrev FR.SYS_ID : Nat := 0x30010000000
/-- SYS_LC (R495), 32 bits, reset 0x2 (loaded from fuses: a value of the model's choice). -/
abbrev FR.SYS_LC : Nat := 0x30010000004
/-- SYS_BOOT_STATUS (R495), 32 bits. -/
abbrev FR.SYS_BOOT_STATUS : Nat := 0x30010000008
/-- SYS_BOOT_ERR (R495), 32 bits. -/
abbrev FR.SYS_BOOT_ERR : Nat := 0x3001000000c
/-- SYS_CAL_STATUS (R495), 32 bits. -/
abbrev FR.SYS_CAL_STATUS : Nat := 0x30010000010
/-- SYS_FW_STATUS (R495), 32 bits. -/
abbrev FR.SYS_FW_STATUS : Nat := 0x30010000014
/-- SYS_SVC_VER (R494), 32 bits. -/
abbrev FR.SYS_SVC_VER : Nat := 0x30010000018
/-- SYS_SVN (R494), 32 bits (loaded from fuses: a value of the model's choice). -/
abbrev FR.SYS_SVN : Nat := 0x3001000001c
/-- SYS_BOOT_TIME (R494), 64 bits. -/
abbrev FR.SYS_BOOT_TIME : Nat := 0x30010000020
/-- SYS_BOOT_CNT (R494), 64 bits. -/
abbrev FR.SYS_BOOT_CNT : Nat := 0x30010000028
/-- SYS_LMS_LEAF (R495), 64 bits (loaded from fuses: a value of the model's choice). -/
abbrev FR.SYS_LMS_LEAF : Nat := 0x30010000030
/-- SYS_FENCE_VIOL_CNT (R481), 64 bits. -/
abbrev FR.SYS_FENCE_VIOL_CNT : Nat := 0x30010000038
/-- SYS_MEAS_ROOTn (R492), 64 bits. -/
abbrev FR.SYS_MEAS_ROOT (n : Nat) : Nat := 0x30010000040 + 8 * n

/-- The SYS block's map (R494). -/
def regsSYS : List RegInfo := [
  ⟨0x30010000000, 1, 0, 32, .plain, 0x0, 0x0, 0x0, 0x3d524011⟩,
  ⟨0x30010000004, 1, 0, 32, .plain, 0x0, 0x0, 0x0, 0x2⟩,
  ⟨0x30010000008, 1, 0, 32, .plain, 0x0, 0x0, 0x0, 0x0⟩,
  ⟨0x3001000000c, 1, 0, 32, .plain, 0x0, 0x80000000, 0x0, 0x0⟩,
  ⟨0x30010000010, 1, 0, 32, .plain, 0x0, 0x0, 0x0, 0x0⟩,
  ⟨0x30010000014, 1, 0, 32, .plain, 0x0, 0x0, 0x0, 0x0⟩,
  ⟨0x30010000018, 1, 0, 32, .plain, 0x0, 0x0, 0x0, 0x0⟩,
  ⟨0x3001000001c, 1, 0, 32, .derived, 0x0, 0x0, 0x0, 0x0⟩,
  ⟨0x30010000020, 1, 0, 64, .plain, 0x0, 0x0, 0x0, 0x0⟩,
  ⟨0x30010000028, 1, 0, 64, .plain, 0x0, 0x0, 0x0, 0x0⟩,
  ⟨0x30010000030, 1, 0, 64, .derived, 0x0, 0x0, 0x0, 0x0⟩,
  ⟨0x30010000038, 1, 0, 64, .plain, 0xffffffffffffffff, 0x0, 0x0, 0x0⟩,
  ⟨0x30010000040, 6, 8, 64, .plain, 0x0, 0x0, 0x0, 0x0⟩]

/-! ### PWR block (R462) -/

/-- PWR_CTRL (R463), 32 bits, reset 0x6408. -/
abbrev FR.PWR_CTRL : Nat := 0x30010060000
/-- PWR_STATUS (R463), 32 bits, reset 0x1. -/
abbrev FR.PWR_STATUS : Nat := 0x30010060004
/-- PWR_CAP_W (R447), 32 bits, reset 0x9c4. -/
abbrev FR.PWR_CAP_W : Nat := 0x30010060008
/-- PWR_HOST_CAP_W (R447), 32 bits, reset 0x9c4. -/
abbrev FR.PWR_HOST_CAP_W : Nat := 0x3001006000c
/-- PWR_ENV_W (R447), 32 bits, reset 0x9c4 (loaded from fuses: a value of the model's choice). -/
abbrev FR.PWR_ENV_W : Nat := 0x30010060010
/-- PWR_LIMIT_W (R447), 32 bits, reset 0x9c4. -/
abbrev FR.PWR_LIMIT_W : Nat := 0x30010060014
/-- PWR_EST_W (R448), 32 bits. -/
abbrev FR.PWR_EST_W : Nat := 0x30010060018
/-- PWR_MEAS_W (R449), 32 bits. -/
abbrev FR.PWR_MEAS_W : Nat := 0x3001006001c
/-- PWR_POINT (R463), 32 bits, reset 0x64. -/
abbrev FR.PWR_POINT : Nat := 0x30010060020
/-- PWR_WAKE_CFG (R463), 32 bits, reset 0x1008. -/
abbrev FR.PWR_WAKE_CFG : Nat := 0x30010060024
/-- PWR_THERM_CFG (R459), 32 bits, reset 0x69. -/
abbrev FR.PWR_THERM_CFG : Nat := 0x30010060028
/-- PWR_THERM (R463), 32 bits. -/
abbrev FR.PWR_THERM : Nat := 0x3001006002c
/-- PWR_PHASE (R452), 32 bits. -/
abbrev FR.PWR_PHASE : Nat := 0x30010060030
/-- PWR_HBM_SR (R446), 32 bits. -/
abbrev FR.PWR_HBM_SR : Nat := 0x30010060034
/-- PWR_HBM_STATE (R446), 32 bits, reset 0xfffff. -/
abbrev FR.PWR_HBM_STATE : Nat := 0x30010060038
/-- ENERGY_UJ (R461), 64 bits. -/
abbrev FR.ENERGY_UJ : Nat := 0x30010060040
/-- PWR_WAKE_DEFER_CNT (R462), 64 bits. -/
abbrev FR.PWR_WAKE_DEFER_CNT : Nat := 0x30010060048
/-- PWR_SUSPECT_CNT (R462), 64 bits. -/
abbrev FR.PWR_SUSPECT_CNT : Nat := 0x30010060050
/-- PWR_CAP_INT_CNT (R462), 64 bits. -/
abbrev FR.PWR_CAP_INT_CNT : Nat := 0x30010060058
/-- PWR_THROT_INT_CNT (R462), 64 bits. -/
abbrev FR.PWR_THROT_INT_CNT : Nat := 0x30010060060
/-- PWR_FLOOR_CUT_CNT (R462), 64 bits. -/
abbrev FR.PWR_FLOOR_CUT_CNT : Nat := 0x30010060068
/-- PWR_HBM_SR_EXIT_CNT (R462), 64 bits. -/
abbrev FR.PWR_HBM_SR_EXIT_CNT : Nat := 0x30010060070
/-- PWR_WAKEn (R443), 64 bits. -/
abbrev FR.PWR_WAKE (n : Nat) : Nat := 0x30010060080 + 8 * n
/-- PWR_TEMPn (R458), 32 bits. -/
abbrev FR.PWR_TEMP (n : Nat) : Nat := 0x30010060100 + 4 * n
/-- PWR_HBM_TEMPn (R458), 32 bits. -/
abbrev FR.PWR_HBM_TEMP (n : Nat) : Nat := 0x30010060200 + 4 * n
/-- PWR_WTn (R448), 32 bits (loaded from fuses: a value of the model's choice). -/
abbrev FR.PWR_WT (n : Nat) : Nat := 0x30010060300 + 4 * n
/-- PWR_PHTn (R463), 64 bits. -/
abbrev FR.PWR_PHT (n : Nat) : Nat := 0x30010061000 + 8 * n

/-- The PWR block's map, part 0 (R462). -/
def regsPWR0 : List RegInfo := [
  ⟨0x30010060000, 1, 0, 32, .plain, 0x7f08, 0x0, 0x2, 0x6408⟩,
  ⟨0x30010060004, 1, 0, 32, .plain, 0x0, 0x28, 0x0, 0x1⟩,
  ⟨0x30010060008, 1, 0, 32, .plain, 0xfff, 0x0, 0x0, 0x9c4⟩,
  ⟨0x3001006000c, 1, 0, 32, .plain, 0xfff, 0x0, 0x0, 0x9c4⟩,
  ⟨0x30010060010, 1, 0, 32, .plain, 0x0, 0x0, 0x0, 0x9c4⟩,
  ⟨0x30010060014, 1, 0, 32, .plain, 0x0, 0x0, 0x0, 0x9c4⟩,
  ⟨0x30010060018, 1, 0, 32, .plain, 0x0, 0x0, 0x0, 0x0⟩,
  ⟨0x3001006001c, 1, 0, 32, .plain, 0x0, 0x0, 0x0, 0x0⟩,
  ⟨0x30010060020, 1, 0, 32, .plain, 0x0, 0x0, 0x0, 0x64⟩,
  ⟨0x30010060024, 1, 0, 32, .plain, 0xfffff03f, 0x0, 0x0, 0x1008⟩,
  ⟨0x30010060028, 1, 0, 32, .plain, 0xff, 0x0, 0x0, 0x69⟩,
  ⟨0x3001006002c, 1, 0, 32, .plain, 0x0, 0x0, 0x0, 0x0⟩,
  ⟨0x30010060030, 1, 0, 32, .plain, 0x0, 0x0, 0x0, 0x0⟩,
  ⟨0x30010060034, 1, 0, 32, .action, 0x0, 0x0, 0x0, 0x0⟩,
  ⟨0x30010060038, 1, 0, 32, .derived, 0x0, 0x0, 0x0, 0xfffff⟩,
  ⟨0x30010060040, 1, 0, 64, .plain, 0x0, 0x0, 0x0, 0x0⟩,
  ⟨0x30010060048, 1, 0, 64, .plain, 0xffffffffffffffff, 0x0, 0x0, 0x0⟩,
  ⟨0x30010060050, 1, 0, 64, .plain, 0xffffffffffffffff, 0x0, 0x0, 0x0⟩,
  ⟨0x30010060058, 1, 0, 64, .plain, 0xffffffffffffffff, 0x0, 0x0, 0x0⟩,
  ⟨0x30010060060, 1, 0, 64, .plain, 0xffffffffffffffff, 0x0, 0x0, 0x0⟩]

/-- The PWR block's map, part 1 (R462). -/
def regsPWR1 : List RegInfo := [
  ⟨0x30010060068, 1, 0, 64, .plain, 0xffffffffffffffff, 0x0, 0x0, 0x0⟩,
  ⟨0x30010060070, 1, 0, 64, .plain, 0xffffffffffffffff, 0x0, 0x0, 0x0⟩,
  ⟨0x30010060080, 4, 8, 64, .action, 0x0, 0x0, 0x0, 0x0⟩,
  ⟨0x30010060100, 64, 4, 32, .plain, 0x0, 0x0, 0x0, 0x0⟩,
  ⟨0x30010060200, 20, 4, 32, .plain, 0x0, 0x0, 0x0, 0x0⟩,
  ⟨0x30010060300, 16, 4, 32, .plain, 0xffffffff, 0x0, 0x0, 0x0⟩,
  ⟨0x30010061000, 256, 8, 64, .plain, 0x0, 0x0, 0x0, 0x0⟩]

/-- The PWR block's map (R462). -/
def regsPWR : List RegInfo := regsPWR0 ++ regsPWR1

/-! ### ALM block (R503) -/

/-- ALM_CTRL (R503), 32 bits, reset 0xa00. -/
abbrev FR.ALM_CTRL : Nat := 0x30010070000
/-- ALM_STATUS (R503), 32 bits. -/
abbrev FR.ALM_STATUS : Nat := 0x30010070004
/-- ALM_RING_BASE (R503), 64 bits. -/
abbrev FR.ALM_RING_BASE : Nat := 0x30010070008
/-- ALM_SEQ (R503), 64 bits. -/
abbrev FR.ALM_SEQ : Nat := 0x30010070010
/-- ALM_RING_HEAD (R503), 32 bits. -/
abbrev FR.ALM_RING_HEAD : Nat := 0x30010070018
/-- ALM_RING_TAIL (R503), 32 bits. -/
abbrev FR.ALM_RING_TAIL : Nat := 0x3001007001c
/-- ALM_SEV_CNT (R503), 32 bits. -/
abbrev FR.ALM_SEV_CNT : Nat := 0x30010070020
/-- ALM_SEV_CLR (R499), 32 bits. -/
abbrev FR.ALM_SEV_CLR : Nat := 0x30010070024
/-- ALM_DROP_CNT (R503), 64 bits. -/
abbrev FR.ALM_DROP_CNT : Nat := 0x30010070028
/-- ALM_LIMIT_CNT (R503), 64 bits. -/
abbrev FR.ALM_LIMIT_CNT : Nat := 0x30010070030
/-- ALM_SEV_DROP_CNT (R503), 64 bits. -/
abbrev FR.ALM_SEV_DROP_CNT : Nat := 0x30010070038
/-- ERR_CLS_CNTn (R499), 64 bits. -/
abbrev FR.ERR_CLS_CNT (n : Nat) : Nat := 0x30010070040 + 8 * n
/-- ALM_SEVn (R503), 64 bits. -/
abbrev FR.ALM_SEV (n : Nat) : Nat := 0x30010071000 + 8 * n
/-- ALM_BUFn (R503), 64 bits. -/
abbrev FR.ALM_BUF (n : Nat) : Nat := 0x30010080000 + 8 * n

/-- The ALM block's map (R503). -/
def regsALM : List RegInfo := [
  ⟨0x30010070000, 1, 0, 32, .plain, 0xff1, 0x0, 0x0, 0xa00⟩,
  ⟨0x30010070004, 1, 0, 32, .plain, 0x0, 0x2, 0x0, 0x0⟩,
  ⟨0x30010070008, 1, 0, 64, .plain, 0xfffffffff0000, 0x0, 0x0, 0x0⟩,
  ⟨0x30010070010, 1, 0, 64, .derived, 0x0, 0x0, 0x0, 0x0⟩,
  ⟨0x30010070018, 1, 0, 32, .plain, 0xffffffff, 0x0, 0x0, 0x0⟩,
  ⟨0x3001007001c, 1, 0, 32, .plain, 0x0, 0x0, 0x0, 0x0⟩,
  ⟨0x30010070020, 1, 0, 32, .derived, 0x0, 0x0, 0x0, 0x0⟩,
  ⟨0x30010070024, 1, 0, 32, .action, 0x0, 0x0, 0x0, 0x0⟩,
  ⟨0x30010070028, 1, 0, 64, .plain, 0xffffffffffffffff, 0x0, 0x0, 0x0⟩,
  ⟨0x30010070030, 1, 0, 64, .plain, 0xffffffffffffffff, 0x0, 0x0, 0x0⟩,
  ⟨0x30010070038, 1, 0, 64, .plain, 0xffffffffffffffff, 0x0, 0x0, 0x0⟩,
  ⟨0x30010070040, 7, 8, 64, .plain, 0xffffffffffffffff, 0x0, 0x0, 0x0⟩,
  ⟨0x30010071000, 512, 8, 64, .derived, 0x0, 0x0, 0x0, 0x0⟩,
  ⟨0x30010080000, 8192, 8, 64, .derived, 0x0, 0x0, 0x0, 0x0⟩]

/-! ### RST block (R510) -/

/-- RST_STATUS (R510), 32 bits. -/
abbrev FR.RST_STATUS : Nat := 0x30010090000
/-- RST_BAND (R510), 32 bits. -/
abbrev FR.RST_BAND : Nat := 0x30010090004
/-- RST_CELLn (R510), 64 bits. -/
abbrev FR.RST_CELL (n : Nat) : Nat := 0x30010090008 + 8 * n
/-- RST_KIND_CNTn (R510), 64 bits. -/
abbrev FR.RST_KIND_CNT (n : Nat) : Nat := 0x30010090040 + 8 * n

/-- The RST block's map (R510). -/
def regsRST : List RegInfo := [
  ⟨0x30010090000, 1, 0, 32, .plain, 0x0, 0x0, 0x0, 0x0⟩,
  ⟨0x30010090004, 1, 0, 32, .action, 0x0, 0x0, 0x0, 0x0⟩,
  ⟨0x30010090008, 4, 8, 64, .action, 0x0, 0x0, 0x0, 0x0⟩,
  ⟨0x30010090048, 5, 8, 64, .plain, 0xffffffffffffffff, 0x0, 0x0, 0x0⟩]

/-! ### HI block (R436) -/

/-- HI_CTRL (R437), 32 bits. -/
abbrev FR.HI_CTRL : Nat := 0x30010010000
/-- HI_STATUS (R437), 32 bits. -/
abbrev FR.HI_STATUS : Nat := 0x30010010004
/-- HI_EVT (R426), 32 bits. -/
abbrev FR.HI_EVT : Nat := 0x30010010008
/-- HI_EVT_EN (R436), 32 bits. -/
abbrev FR.HI_EVT_EN : Nat := 0x3001001000c
/-- HI_POST_BASE (R430), 64 bits. -/
abbrev FR.HI_POST_BASE : Nat := 0x30010010010
/-- HI_POST_TRIG (R430), 64 bits. -/
abbrev FR.HI_POST_TRIG : Nat := 0x30010010018
/-- HI_POST_CFG (R436), 32 bits, reset 0x6. -/
abbrev FR.HI_POST_CFG : Nat := 0x30010010020
/-- HI_POST_HEAD (R430), 64 bits. -/
abbrev FR.HI_POST_HEAD : Nat := 0x30010010028
/-- HI_CELL_HALTn (R436), 64 bits. -/
abbrev FR.HI_CELL_HALT (n : Nat) : Nat := 0x30010010030 + 8 * n
/-- HI_CMD_CNT (R436), 64 bits. -/
abbrev FR.HI_CMD_CNT : Nat := 0x30010010050
/-- HI_CMD_ERR_CNT (R436), 64 bits. -/
abbrev FR.HI_CMD_ERR_CNT : Nat := 0x30010010058
/-- HI_MBX_PUB_CNT (R436), 64 bits. -/
abbrev FR.HI_MBX_PUB_CNT : Nat := 0x30010010060
/-- HI_MBX_WAIT_CNT (R436), 64 bits. -/
abbrev FR.HI_MBX_WAIT_CNT : Nat := 0x30010010068
/-- HI_ACK_STALE_CNT (R436), 64 bits. -/
abbrev FR.HI_ACK_STALE_CNT : Nat := 0x30010010070
/-- HI_CQ_WAIT_CNT (R436), 64 bits. -/
abbrev FR.HI_CQ_WAIT_CNT : Nat := 0x30010010078
/-- HI_BISNP_CNT (R436), 64 bits. -/
abbrev FR.HI_BISNP_CNT : Nat := 0x30010010080
/-- HI_Q_SQ_BASEn (R436), 64 bits. -/
abbrev FR.HI_Q_SQ_BASE (n : Nat) : Nat := 0x30010011000 + 32 * n
/-- HI_Q_CQ_BASEn (R436), 64 bits. -/
abbrev FR.HI_Q_CQ_BASE (n : Nat) : Nat := 0x30010011008 + 32 * n
/-- HI_Q_CFGn (R437), 32 bits, reset 0x404. -/
abbrev FR.HI_Q_CFG (n : Nat) : Nat := 0x30010011010 + 32 * n
/-- HI_Q_STATUSn (R437), 32 bits. -/
abbrev FR.HI_Q_STATUS (n : Nat) : Nat := 0x30010011014 + 32 * n
/-- HI_Q_PTRn (R436), 64 bits. -/
abbrev FR.HI_Q_PTR (n : Nat) : Nat := 0x30010011018 + 32 * n

/-- The HI block's map, part 0 (R436). -/
def regsHI0 : List RegInfo := [
  ⟨0x30010010000, 1, 0, 32, .plain, 0x3, 0x0, 0x0, 0x0⟩,
  ⟨0x30010010004, 1, 0, 32, .plain, 0x0, 0x2, 0x0, 0x0⟩,
  ⟨0x30010010008, 1, 0, 32, .plain, 0x0, 0xffffffff, 0x0, 0x0⟩,
  ⟨0x3001001000c, 1, 0, 32, .plain, 0xff, 0x0, 0x0, 0x0⟩,
  ⟨0x30010010010, 1, 0, 64, .plain, 0x1fffffffffff000, 0x0, 0x0, 0x0⟩,
  ⟨0x30010010018, 1, 0, 64, .plain, 0x1fffffffffffff0, 0x0, 0x0, 0x0⟩,
  ⟨0x30010010020, 1, 0, 32, .plain, 0xf, 0x0, 0x0, 0x6⟩,
  ⟨0x30010010028, 1, 0, 64, .plain, 0x0, 0x0, 0x0, 0x0⟩,
  ⟨0x30010010030, 4, 8, 64, .plain, 0x0, 0xffffffffffffffff, 0x0, 0x0⟩,
  ⟨0x30010010050, 1, 0, 64, .plain, 0xffffffffffffffff, 0x0, 0x0, 0x0⟩,
  ⟨0x30010010058, 1, 0, 64, .plain, 0xffffffffffffffff, 0x0, 0x0, 0x0⟩,
  ⟨0x30010010060, 1, 0, 64, .plain, 0xffffffffffffffff, 0x0, 0x0, 0x0⟩,
  ⟨0x30010010068, 1, 0, 64, .plain, 0xffffffffffffffff, 0x0, 0x0, 0x0⟩,
  ⟨0x30010010070, 1, 0, 64, .plain, 0xffffffffffffffff, 0x0, 0x0, 0x0⟩,
  ⟨0x30010010078, 1, 0, 64, .plain, 0xffffffffffffffff, 0x0, 0x0, 0x0⟩,
  ⟨0x30010010080, 1, 0, 64, .plain, 0xffffffffffffffff, 0x0, 0x0, 0x0⟩,
  ⟨0x30010011000, 64, 32, 64, .plain, 0xffffffffff000, 0x0, 0x0, 0x0⟩,
  ⟨0x30010011008, 64, 32, 64, .plain, 0xffffffffff000, 0x0, 0x0, 0x0⟩,
  ⟨0x30010011010, 64, 32, 32, .plain, 0xf0ff1f1f, 0x0, 0x0, 0x404⟩,
  ⟨0x30010011014, 64, 32, 32, .plain, 0x0, 0x4, 0x0, 0x0⟩]

/-- The HI block's map, part 1 (R436). -/
def regsHI1 : List RegInfo := [
  ⟨0x30010011018, 64, 32, 64, .derived, 0x0, 0x0, 0x0, 0x0⟩]

/-- The HI block's map (R436). -/
def regsHI : List RegInfo := regsHI0 ++ regsHI1

/-! ### HV block (R344) -/

/-- HV_CTRL (R345), 32 bits. -/
abbrev FR.HV_CTRL : Nat := 0x30010020000
/-- HV_STATUS (R345), 32 bits. -/
abbrev FR.HV_STATUS : Nat := 0x30010020004
/-- HV_LAYER_TABLE_BASE (R344), 64 bits. -/
abbrev FR.HV_LAYER_TABLE_BASE : Nat := 0x30010020008
/-- HV_LAYER_CNT (R344), 32 bits. -/
abbrev FR.HV_LAYER_CNT : Nat := 0x30010020010
/-- HV_LS_CFG (R345), 32 bits, reset 0x7d01800. -/
abbrev FR.HV_LS_CFG : Nat := 0x30010020014
/-- HV_LS_STATE (R345), 32 bits, reset 0x10. -/
abbrev FR.HV_LS_STATE : Nat := 0x30010020018
/-- HV_LEND_WARN (R344), 32 bits, reset 0x64. -/
abbrev FR.HV_LEND_WARN : Nat := 0x3001002001c
/-- HV_CLIP_THR (R344), 64 bits, reset 0x7ff0000000000000. -/
abbrev FR.HV_CLIP_THR : Nat := 0x30010020020
/-- HV_NORM_CEIL (R344), 64 bits, reset 0x7ff0000000000000. -/
abbrev FR.HV_NORM_CEIL : Nat := 0x30010020028
/-- HV_STEP (R344), 64 bits. -/
abbrev FR.HV_STEP : Nat := 0x30010020030
/-- HV_COMMIT_CNT (R344), 64 bits. -/
abbrev FR.HV_COMMIT_CNT : Nat := 0x30010020038
/-- HV_LAST_NORM2 (R344), 64 bits. -/
abbrev FR.HV_LAST_NORM2 : Nat := 0x30010020040
/-- HV_LAST_CLIP (R344), 64 bits, reset 0x3ff0000000000000. -/
abbrev FR.HV_LAST_CLIP : Nat := 0x30010020048
/-- HV_SKIP_NF_CNT (R344), 64 bits. -/
abbrev FR.HV_SKIP_NF_CNT : Nat := 0x30010020050
/-- HV_SKIP_CEIL_CNT (R344), 64 bits. -/
abbrev FR.HV_SKIP_CEIL_CNT : Nat := 0x30010020058
/-- HV_REDO_CNT (R344), 64 bits. -/
abbrev FR.HV_REDO_CNT : Nat := 0x30010020060
/-- HV_UPD_FAIL_CNT (R344), 64 bits. -/
abbrev FR.HV_UPD_FAIL_CNT : Nat := 0x30010020068
/-- HV_WC_REPAIR_CNT (R344), 64 bits. -/
abbrev FR.HV_WC_REPAIR_CNT : Nat := 0x30010020070
/-- HV_REFUSE_CNT (R344), 64 bits. -/
abbrev FR.HV_REFUSE_CNT : Nat := 0x30010020078
/-- HV_VERn (R344), 32 bits. -/
abbrev FR.HV_VER (n : Nat) : Nat := 0x30010020080 + 4 * n
/-- HV_U_STATUSn (R345), 32 bits. -/
abbrev FR.HV_U_STATUS (n : Nat) : Nat := 0x30010020100 + 64 * n
/-- HV_U_GROUP_CNTn (R344), 64 bits. -/
abbrev FR.HV_U_GROUP_CNT (n : Nat) : Nat := 0x30010020108 + 64 * n
/-- HV_U_LEND_CNTn (R344), 64 bits. -/
abbrev FR.HV_U_LEND_CNT (n : Nat) : Nat := 0x30010020110 + 64 * n
/-- HV_U_NV_CNTn (R344), 64 bits. -/
abbrev FR.HV_U_NV_CNT (n : Nat) : Nat := 0x30010020118 + 64 * n
/-- HV_U_OF_CNTn (R344), 64 bits. -/
abbrev FR.HV_U_OF_CNT (n : Nat) : Nat := 0x30010020120 + 64 * n
/-- HV_U_UF_CNTn (R344), 64 bits. -/
abbrev FR.HV_U_UF_CNT (n : Nat) : Nat := 0x30010020128 + 64 * n
/-- HV_U_FAULT_VAn (R344), 64 bits. -/
abbrev FR.HV_U_FAULT_VA (n : Nat) : Nat := 0x30010020130 + 64 * n

/-- The HV block's map, part 0 (R344). -/
def regsHV0 : List RegInfo := [
  ⟨0x30010020000, 1, 0, 32, .plain, 0x1d, 0x0, 0x0, 0x0⟩,
  ⟨0x30010020004, 1, 0, 32, .plain, 0x0, 0xf400, 0x0, 0x0⟩,
  ⟨0x30010020008, 1, 0, 64, .plain, 0x1ffffffffffff80, 0x0, 0x0, 0x0⟩,
  ⟨0x30010020010, 1, 0, 32, .plain, 0x7ff, 0x0, 0x0, 0x0⟩,
  ⟨0x30010020014, 1, 0, 32, .plain, 0xffffffff, 0x0, 0x0, 0x7d01800⟩,
  ⟨0x30010020018, 1, 0, 32, .plain, 0xffff00ff, 0x0, 0x0, 0x10⟩,
  ⟨0x3001002001c, 1, 0, 32, .plain, 0xffffffff, 0x0, 0x0, 0x64⟩,
  ⟨0x30010020020, 1, 0, 64, .plain, 0xffffffffffffffff, 0x0, 0x0, 0x7ff0000000000000⟩,
  ⟨0x30010020028, 1, 0, 64, .plain, 0xffffffffffffffff, 0x0, 0x0, 0x7ff0000000000000⟩,
  ⟨0x30010020030, 1, 0, 64, .plain, 0xffffffffffffffff, 0x0, 0x0, 0x0⟩,
  ⟨0x30010020038, 1, 0, 64, .plain, 0xffffffffffffffff, 0x0, 0x0, 0x0⟩,
  ⟨0x30010020040, 1, 0, 64, .plain, 0x0, 0x0, 0x0, 0x0⟩,
  ⟨0x30010020048, 1, 0, 64, .plain, 0x0, 0x0, 0x0, 0x3ff0000000000000⟩,
  ⟨0x30010020050, 1, 0, 64, .plain, 0xffffffffffffffff, 0x0, 0x0, 0x0⟩,
  ⟨0x30010020058, 1, 0, 64, .plain, 0xffffffffffffffff, 0x0, 0x0, 0x0⟩,
  ⟨0x30010020060, 1, 0, 64, .plain, 0xffffffffffffffff, 0x0, 0x0, 0x0⟩,
  ⟨0x30010020068, 1, 0, 64, .plain, 0xffffffffffffffff, 0x0, 0x0, 0x0⟩,
  ⟨0x30010020070, 1, 0, 64, .plain, 0xffffffffffffffff, 0x0, 0x0, 0x0⟩,
  ⟨0x30010020078, 1, 0, 64, .plain, 0xffffffffffffffff, 0x0, 0x0, 0x0⟩,
  ⟨0x30010020080, 32, 4, 32, .plain, 0xffffffff, 0x0, 0x0, 0x0⟩]

/-- The HV block's map, part 1 (R344). -/
def regsHV1 : List RegInfo := [
  ⟨0x30010020100, 16, 64, 32, .plain, 0x0, 0x0, 0x0, 0x0⟩,
  ⟨0x30010020108, 16, 64, 64, .plain, 0xffffffffffffffff, 0x0, 0x0, 0x0⟩,
  ⟨0x30010020110, 16, 64, 64, .plain, 0xffffffffffffffff, 0x0, 0x0, 0x0⟩,
  ⟨0x30010020118, 16, 64, 64, .plain, 0xffffffffffffffff, 0x0, 0x0, 0x0⟩,
  ⟨0x30010020120, 16, 64, 64, .plain, 0xffffffffffffffff, 0x0, 0x0, 0x0⟩,
  ⟨0x30010020128, 16, 64, 64, .plain, 0xffffffffffffffff, 0x0, 0x0, 0x0⟩,
  ⟨0x30010020130, 16, 64, 64, .plain, 0x0, 0x0, 0x0, 0x0⟩]

/-- The HV block's map (R344). -/
def regsHV : List RegInfo := regsHV0 ++ regsHV1

/-! ### RX block (R369) -/

/-- RC_CTRL (R370), 32 bits. -/
abbrev FR.RC_CTRL : Nat := 0x30010030000
/-- RC_STATUS (R370), 32 bits. -/
abbrev FR.RC_STATUS : Nat := 0x30010030004
/-- RC_GCRC_BASE (R369), 64 bits. -/
abbrev FR.RC_GCRC_BASE : Nat := 0x30010030008
/-- RC_FP_BASE (R369), 64 bits. -/
abbrev FR.RC_FP_BASE : Nat := 0x30010030010
/-- RC_DIV_INFO (R370), 64 bits. -/
abbrev FR.RC_DIV_INFO : Nat := 0x30010030018
/-- RC_RELEASE (R352), 32 bits. -/
abbrev FR.RC_RELEASE : Nat := 0x30010030020
/-- RC_DIV_CNT (R369), 64 bits. -/
abbrev FR.RC_DIV_CNT : Nat := 0x30010030028
/-- RC_REPAIR_CNT (R369), 64 bits. -/
abbrev FR.RC_REPAIR_CNT : Nat := 0x30010030030
/-- RC_BISECT_CNT (R369), 64 bits. -/
abbrev FR.RC_BISECT_CNT : Nat := 0x30010030038
/-- DX_CTRL (R370), 32 bits. -/
abbrev FR.DX_CTRL : Nat := 0x30010030040
/-- DX_STATUS (R370), 32 bits. -/
abbrev FR.DX_STATUS : Nat := 0x30010030044
/-- DX_STAGE_BASE (R369), 64 bits. -/
abbrev FR.DX_STAGE_BASE : Nat := 0x30010030048
/-- DX_STAGE_SIZE (R369), 64 bits. -/
abbrev FR.DX_STAGE_SIZE : Nat := 0x30010030050
/-- DX_RING_BASE (R369), 64 bits. -/
abbrev FR.DX_RING_BASE : Nat := 0x30010030058
/-- DX_RING_HEAD (R369), 32 bits. -/
abbrev FR.DX_RING_HEAD : Nat := 0x30010030060
/-- DX_RING_TAIL (R369), 32 bits. -/
abbrev FR.DX_RING_TAIL : Nat := 0x30010030064
/-- DX_APPLY_BASE (R369), 64 bits. -/
abbrev FR.DX_APPLY_BASE : Nat := 0x30010030068
/-- DX_APPLY_HEAD (R369), 32 bits. -/
abbrev FR.DX_APPLY_HEAD : Nat := 0x30010030070
/-- DX_APPLY_TAIL (R369), 32 bits. -/
abbrev FR.DX_APPLY_TAIL : Nat := 0x30010030074
/-- DX_REC_CNT (R369), 64 bits. -/
abbrev FR.DX_REC_CNT : Nat := 0x30010030078
/-- DX_GAP_CNT (R369), 64 bits. -/
abbrev FR.DX_GAP_CNT : Nat := 0x30010030080
/-- DX_APPLY_CNT (R369), 64 bits. -/
abbrev FR.DX_APPLY_CNT : Nat := 0x30010030088
/-- RX_JOB (R360), 64 bits. -/
abbrev FR.RX_JOB : Nat := 0x30010030090
/-- RX_JOB_STATUS (R370), 32 bits. -/
abbrev FR.RX_JOB_STATUS : Nat := 0x30010030098
/-- SH_WAIT_CNT (R369), 64 bits. -/
abbrev FR.SH_WAIT_CNT : Nat := 0x300100300a0

/-- The RX block's map, part 0 (R369). -/
def regsRX0 : List RegInfo := [
  ⟨0x30010030000, 1, 0, 32, .plain, 0xffff0f3f, 0x0, 0x0, 0x0⟩,
  ⟨0x30010030004, 1, 0, 32, .plain, 0x0, 0x3e8, 0x0, 0x0⟩,
  ⟨0x30010030008, 1, 0, 64, .plain, 0x1fffffffffff000, 0x0, 0x0, 0x0⟩,
  ⟨0x30010030010, 1, 0, 64, .plain, 0x1ffffffffffffc0, 0x0, 0x0, 0x0⟩,
  ⟨0x30010030018, 1, 0, 64, .plain, 0x0, 0x8000000000000000, 0x0, 0x0⟩,
  ⟨0x30010030020, 1, 0, 32, .action, 0x0, 0x0, 0x0, 0x0⟩,
  ⟨0x30010030028, 1, 0, 64, .plain, 0xffffffffffffffff, 0x0, 0x0, 0x0⟩,
  ⟨0x30010030030, 1, 0, 64, .plain, 0xffffffffffffffff, 0x0, 0x0, 0x0⟩,
  ⟨0x30010030038, 1, 0, 64, .plain, 0xffffffffffffffff, 0x0, 0x0, 0x0⟩,
  ⟨0x30010030040, 1, 0, 32, .plain, 0xffffff3d, 0x0, 0x0, 0x0⟩,
  ⟨0x30010030044, 1, 0, 32, .plain, 0x0, 0xc, 0x0, 0x0⟩,
  ⟨0x30010030048, 1, 0, 64, .plain, 0x1fffffffffff000, 0x0, 0x0, 0x0⟩,
  ⟨0x30010030050, 1, 0, 64, .plain, 0xfffffffffffff000, 0x0, 0x0, 0x0⟩,
  ⟨0x30010030058, 1, 0, 64, .plain, 0x1fffffffffff000, 0x0, 0x0, 0x0⟩,
  ⟨0x30010030060, 1, 0, 32, .plain, 0xffffffff, 0x0, 0x0, 0x0⟩,
  ⟨0x30010030064, 1, 0, 32, .plain, 0x0, 0x0, 0x0, 0x0⟩,
  ⟨0x30010030068, 1, 0, 64, .plain, 0x1fffffffffff000, 0x0, 0x0, 0x0⟩,
  ⟨0x30010030070, 1, 0, 32, .plain, 0x0, 0x0, 0x0, 0x0⟩,
  ⟨0x30010030074, 1, 0, 32, .plain, 0xffffffff, 0x0, 0x0, 0x0⟩,
  ⟨0x30010030078, 1, 0, 64, .plain, 0xffffffffffffffff, 0x0, 0x0, 0x0⟩]

/-- The RX block's map, part 1 (R369). -/
def regsRX1 : List RegInfo := [
  ⟨0x30010030080, 1, 0, 64, .plain, 0xffffffffffffffff, 0x0, 0x0, 0x0⟩,
  ⟨0x30010030088, 1, 0, 64, .plain, 0xffffffffffffffff, 0x0, 0x0, 0x0⟩,
  ⟨0x30010030090, 1, 0, 64, .action, 0x0, 0x0, 0x0, 0x0⟩,
  ⟨0x30010030098, 1, 0, 32, .plain, 0x0, 0x6, 0x0, 0x0⟩,
  ⟨0x300100300a0, 1, 0, 64, .plain, 0xffffffffffffffff, 0x0, 0x0, 0x0⟩]

/-- The RX block's map (R369). -/
def regsRX : List RegInfo := regsRX0 ++ regsRX1

/-! ### FL block (R406) -/

/-- FL_CTRL (R407), 32 bits, reset 0x80. -/
abbrev FR.FL_CTRL : Nat := 0x30010040000
/-- FL_STATUS (R407), 32 bits. -/
abbrev FR.FL_STATUS : Nat := 0x30010040004
/-- FL_NODE_ID (R406), 32 bits. -/
abbrev FR.FL_NODE_ID : Nat := 0x30010040008
/-- FL_ETYPE (R406), 32 bits, reset 0x88b5. -/
abbrev FR.FL_ETYPE : Nat := 0x3001004000c
/-- FL_CHIP_ID (R406), 64 bits, reset 0x1 (loaded from fuses: a value of the model's choice). -/
abbrev FR.FL_CHIP_ID : Nat := 0x30010040010
/-- FL_SRC_MAC (R406), 64 bits (loaded from fuses: a value of the model's choice). -/
abbrev FR.FL_SRC_MAC : Nat := 0x30010040018
/-- FL_SRC_IP_LO (R406), 64 bits. -/
abbrev FR.FL_SRC_IP_LO : Nat := 0x30010040020
/-- FL_SRC_IP_HI (R406), 64 bits. -/
abbrev FR.FL_SRC_IP_HI : Nat := 0x30010040028
/-- FL_PEER_BASE (R406), 64 bits. -/
abbrev FR.FL_PEER_BASE : Nat := 0x30010040030
/-- FL_CTX_BASE (R406), 64 bits. -/
abbrev FR.FL_CTX_BASE : Nat := 0x30010040038
/-- FL_CC_CFG (R407), 32 bits, reset 0x10101014. -/
abbrev FR.FL_CC_CFG : Nat := 0x30010040040
/-- FL_UDP_CFG (R407), 32 bits, reset 0x6c1d0068. -/
abbrev FR.FL_UDP_CFG : Nat := 0x30010040044
/-- FL_VLAN (R407), 32 bits. -/
abbrev FR.FL_VLAN : Nat := 0x30010040048
/-- FL_BOOT_EPOCH (R406), 32 bits. -/
abbrev FR.FL_BOOT_EPOCH : Nat := 0x3001004004c
/-- FL_TX_PKT_CNT (R406), 64 bits. -/
abbrev FR.FL_TX_PKT_CNT : Nat := 0x30010040050
/-- FL_RX_PKT_CNT (R406), 64 bits. -/
abbrev FR.FL_RX_PKT_CNT : Nat := 0x30010040058
/-- FL_RETX_CNT (R406), 64 bits. -/
abbrev FR.FL_RETX_CNT : Nat := 0x30010040060
/-- FL_TIMEOUT_CNT (R406), 64 bits. -/
abbrev FR.FL_TIMEOUT_CNT : Nat := 0x30010040068
/-- FL_ECN_CNT (R406), 64 bits. -/
abbrev FR.FL_ECN_CNT : Nat := 0x30010040070
/-- FL_CRC_DROP_CNT (R406), 64 bits. -/
abbrev FR.FL_CRC_DROP_CNT : Nat := 0x30010040078
/-- FL_CTX_MISS_CNT (R406), 64 bits. -/
abbrev FR.FL_CTX_MISS_CNT : Nat := 0x30010040080
/-- FL_PEER_LOST_CNT (R406), 64 bits. -/
abbrev FR.FL_PEER_LOST_CNT : Nat := 0x30010040088
/-- FL_P_CFGn (R407), 32 bits. -/
abbrev FR.FL_P_CFG (n : Nat) : Nat := 0x30010041000 + 64 * n
/-- FL_P_STATUSn (R407), 32 bits. -/
abbrev FR.FL_P_STATUS (n : Nat) : Nat := 0x30010041004 + 64 * n
/-- FL_P_FEC_CORR_CNTn (R406), 64 bits. -/
abbrev FR.FL_P_FEC_CORR_CNT (n : Nat) : Nat := 0x30010041008 + 64 * n
/-- FL_P_FEC_UNCORR_CNTn (R406), 64 bits. -/
abbrev FR.FL_P_FEC_UNCORR_CNT (n : Nat) : Nat := 0x30010041010 + 64 * n
/-- FL_P_DOWN_CNTn (R406), 64 bits. -/
abbrev FR.FL_P_DOWN_CNT (n : Nat) : Nat := 0x30010041018 + 64 * n

/-- The FL block's map, part 0 (R406). -/
def regsFL0 : List RegInfo := [
  ⟨0x30010040000, 1, 0, 32, .plain, 0xd1, 0x0, 0x0, 0x80⟩,
  ⟨0x30010040004, 1, 0, 32, .plain, 0x0, 0xa, 0x0, 0x0⟩,
  ⟨0x30010040008, 1, 0, 32, .plain, 0xffff, 0x0, 0x0, 0x0⟩,
  ⟨0x3001004000c, 1, 0, 32, .plain, 0xffff, 0x0, 0x0, 0x88b5⟩,
  ⟨0x30010040010, 1, 0, 64, .plain, 0x0, 0x0, 0x0, 0x1⟩,
  ⟨0x30010040018, 1, 0, 64, .plain, 0xffffffffffff, 0x0, 0x0, 0x0⟩,
  ⟨0x30010040020, 1, 0, 64, .plain, 0xffffffffffffffff, 0x0, 0x0, 0x0⟩,
  ⟨0x30010040028, 1, 0, 64, .plain, 0xffffffffffffffff, 0x0, 0x0, 0x0⟩,
  ⟨0x30010040030, 1, 0, 64, .plain, 0xfffffffe00000, 0x0, 0x0, 0x0⟩,
  ⟨0x30010040038, 1, 0, 64, .plain, 0xfffffff000000, 0x0, 0x0, 0x0⟩,
  ⟨0x30010040040, 1, 0, 32, .plain, 0xffffffff, 0x0, 0x0, 0x10101014⟩,
  ⟨0x30010040044, 1, 0, 32, .plain, 0xffff00fc, 0x0, 0x0, 0x6c1d0068⟩,
  ⟨0x30010040048, 1, 0, 32, .plain, 0x1efff, 0x0, 0x0, 0x0⟩,
  ⟨0x3001004004c, 1, 0, 32, .plain, 0x0, 0x0, 0x0, 0x0⟩,
  ⟨0x30010040050, 1, 0, 64, .plain, 0xffffffffffffffff, 0x0, 0x0, 0x0⟩,
  ⟨0x30010040058, 1, 0, 64, .plain, 0xffffffffffffffff, 0x0, 0x0, 0x0⟩,
  ⟨0x30010040060, 1, 0, 64, .plain, 0xffffffffffffffff, 0x0, 0x0, 0x0⟩,
  ⟨0x30010040068, 1, 0, 64, .plain, 0xffffffffffffffff, 0x0, 0x0, 0x0⟩,
  ⟨0x30010040070, 1, 0, 64, .plain, 0xffffffffffffffff, 0x0, 0x0, 0x0⟩,
  ⟨0x30010040078, 1, 0, 64, .plain, 0xffffffffffffffff, 0x0, 0x0, 0x0⟩]

/-- The FL block's map, part 1 (R406). -/
def regsFL1 : List RegInfo := [
  ⟨0x30010040080, 1, 0, 64, .plain, 0xffffffffffffffff, 0x0, 0x0, 0x0⟩,
  ⟨0x30010040088, 1, 0, 64, .plain, 0xffffffffffffffff, 0x0, 0x0, 0x0⟩,
  ⟨0x30010041000, 18, 64, 32, .plain, 0x37, 0x0, 0x0, 0x0⟩,
  ⟨0x30010041004, 18, 64, 32, .plain, 0x0, 0x0, 0x0, 0x0⟩,
  ⟨0x30010041008, 18, 64, 64, .plain, 0xffffffffffffffff, 0x0, 0x0, 0x0⟩,
  ⟨0x30010041010, 18, 64, 64, .plain, 0xffffffffffffffff, 0x0, 0x0, 0x0⟩,
  ⟨0x30010041018, 18, 64, 64, .plain, 0xffffffffffffffff, 0x0, 0x0, 0x0⟩]

/-- The FL block's map (R406). -/
def regsFL : List RegInfo := regsFL0 ++ regsFL1

/-! ### CE block (R408) -/

/-- CE_CTRL (R409), 32 bits. -/
abbrev FR.CE_CTRL : Nat := 0x30010050000
/-- CE_STATUS (R409), 32 bits. -/
abbrev FR.CE_STATUS : Nat := 0x30010050004
/-- CE_DESC_BASE (R408), 64 bits. -/
abbrev FR.CE_DESC_BASE : Nat := 0x30010050008
/-- CE_GROUP_BASE (R408), 64 bits. -/
abbrev FR.CE_GROUP_BASE : Nat := 0x30010050010
/-- CE_GROUP_CNT (R408), 32 bits. -/
abbrev FR.CE_GROUP_CNT : Nat := 0x30010050018
/-- CE_LAG_CFG (R409), 32 bits, reset 0x320040. -/
abbrev FR.CE_LAG_CFG : Nat := 0x3001005001c
/-- CE_FLOOR_W (R408), 32 bits, reset 0x96. -/
abbrev FR.CE_FLOOR_W : Nat := 0x30010050020
/-- CE_ARM (R388), 64 bits. -/
abbrev FR.CE_ARM : Nat := 0x30010050028
/-- CE_ABORT (R402), 64 bits. -/
abbrev FR.CE_ABORT : Nat := 0x30010050030
/-- CE_NF_OFFSET (R409), 64 bits. -/
abbrev FR.CE_NF_OFFSET : Nat := 0x30010050038
/-- CE_FAULT_VA (R408), 64 bits. -/
abbrev FR.CE_FAULT_VA : Nat := 0x30010050040
/-- CE_DONE_CNT (R408), 64 bits. -/
abbrev FR.CE_DONE_CNT : Nat := 0x30010050048
/-- CE_ABORT_CNT (R408), 64 bits. -/
abbrev FR.CE_ABORT_CNT : Nat := 0x30010050050
/-- CE_DETACH_CNT (R408), 64 bits. -/
abbrev FR.CE_DETACH_CNT : Nat := 0x30010050058
/-- CE_CATCHUP_BYTES_CNT (R408), 64 bits. -/
abbrev FR.CE_CATCHUP_BYTES_CNT : Nat := 0x30010050060
/-- CE_SLOW_CNT (R408), 64 bits. -/
abbrev FR.CE_SLOW_CNT : Nat := 0x30010050068
/-- CE_RED_NV_CNT (R408), 64 bits. -/
abbrev FR.CE_RED_NV_CNT : Nat := 0x30010050070
/-- CE_RED_OF_CNT (R408), 64 bits. -/
abbrev FR.CE_RED_OF_CNT : Nat := 0x30010050078
/-- CE_RED_UF_CNT (R408), 64 bits. -/
abbrev FR.CE_RED_UF_CNT : Nat := 0x30010050080
/-- CE_S_STATUSn (R409), 64 bits. -/
abbrev FR.CE_S_STATUS (n : Nat) : Nat := 0x30010050100 + 16 * n
/-- CE_S_BYTESn (R408), 64 bits. -/
abbrev FR.CE_S_BYTES (n : Nat) : Nat := 0x30010050108 + 16 * n

/-- The CE block's map, part 0 (R408). -/
def regsCE0 : List RegInfo := [
  ⟨0x30010050000, 1, 0, 32, .plain, 0x3, 0x0, 0x0, 0x0⟩,
  ⟨0x30010050004, 1, 0, 32, .plain, 0x0, 0x2e, 0x0, 0x0⟩,
  ⟨0x30010050008, 1, 0, 64, .plain, 0x1ffffffffffff80, 0x0, 0x0, 0x0⟩,
  ⟨0x30010050010, 1, 0, 64, .plain, 0x1ffffffffffffc0, 0x0, 0x0, 0x0⟩,
  ⟨0x30010050018, 1, 0, 32, .plain, 0x1ffff, 0x0, 0x0, 0x0⟩,
  ⟨0x3001005001c, 1, 0, 32, .plain, 0xffffffff, 0x0, 0x0, 0x320040⟩,
  ⟨0x30010050020, 1, 0, 32, .plain, 0xffffffff, 0x0, 0x0, 0x96⟩,
  ⟨0x30010050028, 1, 0, 64, .action, 0x0, 0x0, 0x0, 0x0⟩,
  ⟨0x30010050030, 1, 0, 64, .action, 0x0, 0x0, 0x0, 0x0⟩,
  ⟨0x30010050038, 1, 0, 64, .plain, 0x0, 0x8000000000000000, 0x0, 0x0⟩,
  ⟨0x30010050040, 1, 0, 64, .plain, 0x0, 0x0, 0x0, 0x0⟩,
  ⟨0x30010050048, 1, 0, 64, .plain, 0xffffffffffffffff, 0x0, 0x0, 0x0⟩,
  ⟨0x30010050050, 1, 0, 64, .plain, 0xffffffffffffffff, 0x0, 0x0, 0x0⟩,
  ⟨0x30010050058, 1, 0, 64, .plain, 0xffffffffffffffff, 0x0, 0x0, 0x0⟩,
  ⟨0x30010050060, 1, 0, 64, .plain, 0xffffffffffffffff, 0x0, 0x0, 0x0⟩,
  ⟨0x30010050068, 1, 0, 64, .plain, 0xffffffffffffffff, 0x0, 0x0, 0x0⟩,
  ⟨0x30010050070, 1, 0, 64, .plain, 0xffffffffffffffff, 0x0, 0x0, 0x0⟩,
  ⟨0x30010050078, 1, 0, 64, .plain, 0xffffffffffffffff, 0x0, 0x0, 0x0⟩,
  ⟨0x30010050080, 1, 0, 64, .plain, 0xffffffffffffffff, 0x0, 0x0, 0x0⟩,
  ⟨0x30010050100, 32, 16, 64, .derived, 0x0, 0x0, 0x0, 0x0⟩]

/-- The CE block's map, part 1 (R408). -/
def regsCE1 : List RegInfo := [
  ⟨0x30010050108, 32, 16, 64, .derived, 0x0, 0x0, 0x0, 0x0⟩]

/-- The CE block's map (R408). -/
def regsCE : List RegInfo := regsCE0 ++ regsCE1

/-- Every register of a cell's region, by offset (R154). -/
def cellRegMap : List RegInfo :=
  regsSQ ++ regsNUM ++ regsMX ++ regsVX ++ regsSX ++ regsQ ++ regsSEM ++ regsCP

/-- Every register outside the cell regions and the per-slice blocks, by physical address. -/
def floorRegMap : List RegInfo :=
  regsHRG ++
  regsMEM ++
  regsSYS ++
  regsPWR ++
  regsALM ++
  regsRST ++
  regsHI ++
  regsHV ++
  regsRX ++
  regsFL ++
  regsCE

/-- The row of a map that holds the register at an offset. -/
def findReg : List RegInfo → Nat → Option RegInfo
  | [], _ => none
  | r :: rs, a =>
    if r.off ≤ a ∧ a < r.off + (if r.count ≤ 1 then 1 else r.count * r.stride) ∧
       (r.count ≤ 1 ∨ (a - r.off) % r.stride = 0) then some r
    else findReg rs a

/-- The base of the per-slice Hirrium blocks (R246). -/
def sliceRegBase : Nat := 0x30001100000

/-- The row for the register at a physical address outside the cell regions. -/
def floorReg (pa : Nat) : Option RegInfo :=
  if sliceRegBase ≤ pa ∧ pa < sliceRegBase + 0x100000 then
    findReg regsHRS (sliceRegBase + (pa - sliceRegBase) % 0x1000)
  else findReg floorRegMap pa

/-- The reset value of the cell register at an offset (0 where there is none). -/
def cellResetVal (a : Nat) : Word :=
  match findReg cellRegMap a with
  | some r => BitVec.ofNat 64 r.reset
  | none => 0

/-- The reset value of the register at a physical address (0 where there is none). -/
def floorResetVal (a : Nat) : Word :=
  match floorReg a with
  | some r => BitVec.ofNat 64 r.reset
  | none => 0

end Sys2Proof.Machine
end

