-- ==== Sys2Proof/Machine/Sparse.lean ====
section
/-! DEFINITION. Sparse data by key: a list of (key, value) pairs with keys strictly rising and no
entry equal to the default that an unlisted key reads as, so that equal maps are equal lists. Memory
bytes (`Host.Cell`), registers, cached lines and accumulators are all held this way. -/

namespace Sys2Proof.Machine

/-- A sparse map from numbers to α. -/
abbrev SMap (α : Type) := List (Nat × α)

variable {α : Type}

/-- The value at key k, or what an unlisted key reads as. -/
def SMap.get (d : Nat → α) : SMap α → Nat → α
  | [], k => d k
  | (a, v) :: m, k => if a = k then v else SMap.get d m k

/-- The map without key k. -/
def SMap.erase : SMap α → Nat → SMap α
  | [], _ => []
  | (a, v) :: m, k => if a = k then m else (a, v) :: SMap.erase m k

/-- The map with (k, v) listed, keys kept rising. -/
def SMap.insert : SMap α → Nat → α → SMap α
  | [], k, v => [(k, v)]
  | (a, w) :: m, k, v =>
    if k < a then (k, v) :: (a, w) :: m
    else if a = k then (k, v) :: m
    else (a, w) :: SMap.insert m k v

/-- The map with key k set to v; writing what an unlisted key reads as removes the entry. -/
def SMap.set [DecidableEq α] (d : Nat → α) (m : SMap α) (k : Nat) (v : α) : SMap α :=
  if v = d k then m.erase k else m.insert k v

/-- Every key of a sorted map lies above b. -/
def SMap.above (b : Nat) : SMap α → Bool
  | [] => true
  | (a, _) :: _ => decide (b < a)

/-- The canonical form: keys strictly rising, no entry equal to what an unlisted key reads as. -/
def SMap.wf [DecidableEq α] (d : Nat → α) : SMap α → Bool
  | [] => true
  | (a, v) :: m => SMap.above a m && decide (v ≠ d a) && SMap.wf d m

/-- Consecutive values from key k. -/
def SMap.getRange (d : Nat → α) (m : SMap α) (k : Nat) : Nat → List α
  | 0 => []
  | n + 1 => m.get d k :: SMap.getRange d m (k + 1) n

/-- Consecutive writes from key k. -/
def SMap.setRange [DecidableEq α] (d : Nat → α) (m : SMap α) (k : Nat) : List α → SMap α
  | [] => m
  | v :: vs => SMap.setRange d (m.set d k v) (k + 1) vs

/-- The map without the keys from lo to hi - 1. -/
def SMap.eraseRange (m : SMap α) (lo hi : Nat) : SMap α :=
  m.filter (fun e => e.1 < lo || hi ≤ e.1)

/-- The listed keys from lo to hi - 1. -/
def SMap.keysIn (m : SMap α) (lo hi : Nat) : List Nat :=
  (m.filter (fun e => lo ≤ e.1 && e.1 < hi)).map (·.1)

/-- A byte that reads as 0. -/
def zeroByte : Nat → Byte := fun _ => 0

/-- The bytes of a memory whose unlisted bytes read as 0. -/
abbrev Bytes := List Host.Cell

/-- n bytes from address a. -/
def Bytes.read (m : Bytes) (a n : Nat) : List Byte := SMap.getRange zeroByte m a n

/-- Bytes written from address a. -/
def Bytes.write (m : Bytes) (a : Nat) (bs : List Byte) : Bytes := SMap.setRange zeroByte m a bs

/-- A set of numbers: a sorted list with no repeats. -/
abbrev NSet := List Nat

/-- k added to a set. -/
def NSet.add : NSet → Nat → NSet
  | [], k => [k]
  | a :: m, k => if k < a then k :: a :: m else if a = k then a :: m else a :: NSet.add m k

/-- k taken from a set. -/
def NSet.del : NSet → Nat → NSet
  | [], _ => []
  | a :: m, k => if a = k then m else a :: NSet.del m k

/-- Membership. -/
def NSet.has (m : NSet) (k : Nat) : Bool := m.contains k

/-- Whether some key from lo to hi - 1 is in the set. -/
def NSet.meets (m : NSet) (lo hi : Nat) : Bool := m.any (fun k => lo ≤ k && k < hi)

/-- The set without the keys from lo to hi - 1. -/
def NSet.delRange (m : NSet) (lo hi : Nat) : NSet := m.filter (fun k => k < lo || hi ≤ k)

/-- The set with the keys lo to lo + n - 1 added. -/
def NSet.addRange (m : NSet) (lo : Nat) : Nat → NSet
  | 0 => m
  | n + 1 => NSet.addRange (m.add lo) (lo + 1) n

end Sys2Proof.Machine
end

