-- ==== Sys2Proof/Machine/StateAlm.lean ====
section
/-! DEFINITION. The Almanac (R498 to R502) and the barriers (R209). -/

namespace Sys2Proof.Machine

/-- One Almanac record, by its fields (R498); rec_crc is computed from them. -/
structure AlmRec where
  seq : Nat
  time : Nat
  step : Nat
  code : Nat
  index : Nat
  cls : Nat
  addr : Nat
  info0 : Nat
  info1 : Nat
  deriving DecidableEq, Repr

/-- The Almanac in the Vigil domain. -/
structure AlmState where
  /-- The buffer: entry number (seq mod 1,024) and the record it holds (R499). -/
  buf : SMap AlmRec := []
  /-- The severe store, oldest first; at most 64. -/
  severe : List AlmRec := []
  seq : Nat := 0
  /-- The next sequence number to copy to the ring (R502). -/
  copied : Nat := 0
  /-- The last notice or corrected record written, by its code and index: (code, index, its time) (R499). -/
  used : List (Nat × Nat × Nat) := []
  /-- The last numeric record of each flag: (cell * 8 + flag, its time + 1) (R76). -/
  numUsed : SMap Nat := []
  /-- The last 1 ms window in which a fence violation wrote a record, plus 1 (R481). -/
  fenceUsed : Nat := 0
  deriving DecidableEq, Repr

/-- One barrier scope (R209): completed generations, the cells that have arrived at the open
generation, and those that have arrived at the next one. -/
structure Barrier where
  gen : Nat := 0
  arrived : List CellId := []
  next : List CellId := []
  deriving DecidableEq, Repr

/-- The barriers of every scope: the bands, all cells, and Equinox. -/
structure SyncState where
  bands : Vector Barrier 16 := Vector.replicate 16 {}
  all : Barrier := {}
  equinox : Barrier := {}
  deriving DecidableEq, Repr

end Sys2Proof.Machine
end

