-- ==== Sys2Proof/Machine/StateCell.lean ====
section
/-! DEFINITION. The state of one cell: the architectural state of R153, the sequencer's window of
uncommitted instructions, its predictor and run-ahead state, the stream slots, and the cell's power
state. Registers that are nothing but a value are held in `regs`, by their offset in the cell's
region (R154). -/

namespace Sys2Proof.Machine

/-- The opcodes of R211, one per instruction row of the table; rows that share an opcode and differ in
func or in the descriptor's type share the name here. -/
inductive Op where
  | alu | alui | mul | movi | ld | st | ldo | sto | spf
  | dld | dldm | dsto | dsetw | dgetw
  | br | bloop | jal | jalr | csrr | csrw | nop | brk | tret
  | sempost | semwait | sempostr
  | qpush | qpop | qcnt | qmark | qrewind | qrel
  | sxgo
  | mma | mmat | gfill | mmv | mxld | mxst
  | vadd | vsub | vmul | vfma | vfmaw | vmin | vmax | vcmp | vsel | vmov | vabs | vneg | vcvt
  | fexp2 | flog2 | frcp | frsq
  | rsum | rsumd | rssq | rmax | rmin | ramax | rfstore | rfclr
  | vsmax | vsmon | vsmfin
  | hvsub | eqnx | bar | phase | fence | isync | yield
  deriving DecidableEq, Repr

/-- An instruction in flight: its opcode, first word, second word (zero in a short form) and what the
hardware finds while it reads its operands; `wide` says that format code 3 is FP64, as it is in a rule
program of a Harvest unit alone (R333). -/
structure Ins where
  op : Op
  f : SForm
  x : LForm := {}
  u : Upset := {}
  wide : Bool := false
  deriving DecidableEq, Repr

/-- The units named by SQ_FAULT_CAUSE.engine (R184), in the order of their codes. -/
inductive FaultUnit where
  | sq | mx | mv | vx | sx | q | hv
  deriving DecidableEq, Repr

/-- The numeric events of one instruction (R67, R69): the elements in which each flag arose, and the
first NV. -/
structure NumEvent where
  counts : FlagCounts := {}
  loc : Option NvLoc := none
  deriving DecidableEq, Repr

/-- A fault that an instruction holds until it is delivered (R176): its cause, detail, address and
unit (R179), the trapped flags, and for NUMERIC the events that delivery records (R75). -/
structure FaultInfo where
  cause : Nat
  detail : Nat := 0
  addr : Nat := 0
  unit : FaultUnit := .sq
  flags : Nat := 0
  /-- The error class of R496, by its code. -/
  cls : Nat := 5
  num : NumEvent := {}
  deriving DecidableEq, Repr

/-- How a BLOOP was predicted while its counter was pending (R169), and where the path it was not
predicted to take goes. -/
structure LoopPred where
  taken : Bool
  deriving DecidableEq, Repr

/-- What a waiting GFILL has gathered (R105): tag and elements of each whole packet, the items of the
packet it is in, and whether its limit has expired. -/
structure Gather where
  rows : List (Nat × List Byte) := []
  cur : List Byte := []
  expired : Bool := false
  deriving DecidableEq, Repr

/-- One uncommitted instruction. `spec` marks a tensor instruction issued past an unresolved BLOOP;
`pred` is set while a BLOOP is unresolved; `wrong` holds the true target of a BLOOP found
mispredicted; `granted` says that the wait of a SEMWAIT has been satisfied or a barrier has
completed, with the value it returns; `arrived` is the barrier generation it has arrived at; `req`
is the page request it waits on. -/
structure InFlight where
  pc : Word
  ins : Ins
  fault : Option FaultInfo := none
  spec : Bool := false
  pred : Option LoopPred := none
  wrong : Option Word := none
  granted : Option Word := none
  arrived : Option Nat := none
  req : Option Nat := none
  gather : Gather := {}
  /-- The address predicted to follow; none while fetch waits for this instruction. -/
  next : Option Word := none
  /-- The stall counter that its wait adds to (R300). -/
  waited : Option Nat := none
  /-- It has been looked at as the oldest one, and waits (R183). -/
  stalls : Bool := false
  /-- It was issued before the self-test that is requested, which waits for it (R97). -/
  ahead : Bool := false
  deriving DecidableEq, Repr

/-- SQ_STATUS.state without the running and stalled codes (R183): whether the sequencer runs. -/
inductive SqMode where
  | halted | running | faultHalt | doubleHalt
  deriving DecidableEq, Repr

/-- A waiter in a semaphore's line (R280): the sequencer's SEMWAIT for n, or the link of a slot. -/
inductive Waiter where
  | seq (n : Nat)
  | link (slot : Fin 6)
  deriving DecidableEq, Repr

/-- One semaphore (R278, R319) with its line of waiters, oldest first. -/
structure Sem where
  count : BitVec 16 := 0
  ovf : Bool := false
  failed : Bool := false
  failedUc : Bool := false
  line : List Waiter := []
  deriving DecidableEq, Repr

/-- One conveyor (R308 to R312): its configuration, the item positions modulo 2^32, the positions of
items that carry an end mark or were written or read beyond the window (poisoned), the producer
whose packet is open, and the producers that wait to write, in the order in which they are served. -/
structure Conveyor where
  cfg : Word := 0
  w : BitVec 32 := 0
  rd : BitVec 32 := 0
  f : BitVec 32 := 0
  mark : BitVec 32 := 0
  markValid : Bool := false
  ends : NSet := []
  bad : NSet := []
  openBy : Option Producer := none
  waiting : List Producer := []
  deriving DecidableEq, Repr

/-- The state of a stream slot (R315). -/
inductive SlotSt where
  | running
  | pageWait (req : Nat)
  | semWait
  | failed
  deriving DecidableEq, Repr

/-- One transfer in a stream slot (R284, R287, R289). The position is the row and the element of c0
at which the first granule not performed starts. A row that goes to a conveyor has its first `sent`
bytes there; `out` holds the bytes from there on that have been read and converted, and `read` says
that they include the granule at the position. `old` holds what 64-byte units of its source held before
earlier granules wrote them (R292). `runs` holds the addresses and converted bytes of an implicit
transfer (R307). -/
structure Transfer where
  desc : Desc
  aux : Desc := 0
  implicit : Bool := false
  runs : List (Nat × List Byte) := []
  pen : Bool := false
  psem : BitVec 6 := 0
  st : SlotSt := .running
  row : Nat := 0
  elt : Nat := 0
  done : Nat := 0
  sent : Nat := 0
  out : List (Byte × Bool) := []
  read : Bool := false
  old : List (Nat × List (Byte × Bool)) := []
  reason : Nat := 0
  detail : Nat := 0
  faultVa : Nat := 0
  /-- The access that waits for a page writes (R262). -/
  faultWrite : Bool := false
  indBase : Nat := 0
  indLen : Nat := 0
  chunkHeld : Bool := false
  /-- It was resumed while a floor reset ran, and waits for its end (R509). -/
  held : Bool := false
  /-- The lines that could not be pinned (R296). -/
  pinMiss : NSet := []
  /-- The numeric events of the granule at the position, once it has been converted (R293). -/
  ev : NumEvent := {}
  deriving DecidableEq, Repr

/-- Run-ahead state (R174): the shadow registers (none is invalid), the next address and how many
instructions were executed; `stopped` once fetch has ended. `stack` is the return stack that its path follows,
`wrote` the registers it has written, and `loops` the BLOOPs it has passed, by address (R169). -/
structure RunAhead where
  regs : List (Option Word)
  pc : Word
  count : Nat := 0
  stopped : Bool := false
  stack : List Word := []
  wrote : List (BitVec 5) := []
  loops : List Word := []
  deriving DecidableEq, Repr

/-- CP_STATE.state (R465). -/
inductive CellSt where
  | awake | doze | asleep | waking
  deriving DecidableEq, Repr

/-- A post held at the mesh port of a sleeping cell (R282). -/
structure HeldPost where
  sem : BitVec 6
  n : Nat
  deriving DecidableEq, Repr

/-- What a cell does when it becomes AWAKE (R443, R504): start, or a reset, or nothing. -/
structure WakeGoal where
  start : Bool := false
  reset : Bool := false
  /-- The reset is a band reset. -/
  band : Bool := false
  deriving DecidableEq, Repr

/-- The power state of one cell (R442 to R444, R457). -/
structure CellPower where
  st : CellSt := .asleep
  admitWait : Bool := false
  retained : Bool := false
  goal : WakeGoal := {}
  held : List HeldPost := []
  stretched : Bool := false
  /-- The band sensor's reading at the last droop calibration, in 1/16 °C (R479). -/
  calTemp : Int := 0
  deriving DecidableEq, Repr

/-- The availability of the matrix units and the self-test (R96, R97). -/
structure MxUnit where
  unavailable : Bool := false
  mvUnavailable : Bool := false
  selftest : Bool := false
  /-- The array failed with no spare left: unavailable until the next device reset. -/
  failed : Bool := false
  mvFailed : Bool := false
  deriving DecidableEq, Repr

/-- One cell. -/
structure Cell where
  /-- Registers by offset in the cell's region; an unlisted one holds its reset value. -/
  regs : SMap Word := []
  s : Vector Word 32 := Vector.replicate 32 0
  d : Vector Desc 16 := Vector.replicate 16 0
  /-- Accumulator elements: acc number * 4096 + position. -/
  acc : SMap (BitVec 32) := []
  /-- The mask recorded with each accumulator, all-active when unlisted (R81, R92). -/
  masks : SMap Desc := []
  oc : SMap Byte := []
  ocPoison : NSet := []
  im : SMap Byte := []
  imBad : NSet := []
  /-- How often the contents of OC, IM and the accumulators became undefined (R442); 0: never since
  the last reset, and an unlisted byte reads as 0. -/
  ocEpoch : Nat := 0
  imEpoch : Nat := 0
  accEpoch : Nat := 0
  sems : Vector Sem 64 := Vector.replicate 64 {}
  qs : Vector Conveyor 16 := Vector.replicate 16 {}
  slots : Vector (Option Transfer) 6 := Vector.replicate 6 none
  mode : SqMode := .halted
  inHandler : Bool := false
  lent : Bool := false
  /-- The address of the next instruction to dispatch. -/
  npc : Word := 0
  window : List InFlight := []
  retStack : List Word := []
  /-- The loop table (R169): BLOOP address mod 32 to (address, trip count of the last run). -/
  loops : SMap (Word × Nat) := []
  /-- Iterations so far of the loops that run, by BLOOP address. -/
  trips : SMap Nat := []
  runahead : Option RunAhead := none
  /-- The instruction fetched at `npc` that could not be dispatched when it came (R164, R170, R186); none once one is
  dispatched, one commits, or fetch goes elsewhere. -/
  stuck : Option Ins := none
  /-- A tensor instruction is ready while the array is lent (R186). -/
  wantArray : Bool := false
  /-- The page request that the fetch waits on, the reason with which it was refused, and the word that is fetched
  (R264). -/
  fetchReq : Option Nat := none
  fetchRefused : Option Nat := none
  fetchVa : Nat := 0
  /-- The shares of the injection port in force, as in SX_SHARE (R298, R299). -/
  shareNow : Nat := 0x141E32
  mx : MxUnit := {}
  cp : CellPower := {}
  deriving DecidableEq, Repr

end Sys2Proof.Machine
end

