-- ==== Sys2Proof/Machine/StateDev.lean ====
section
/-! DEFINITION. The state of the device as a whole: supplies and reset inputs (R438, R527 to R530), bring-up
(R466 to R473), firmware images and OTP (R474 to R488), SPDM sessions (R490), JTAG and Lantern (R511 to
R514). -/

namespace Sys2Proof.Machine

/-- The boot control record (R478); slot false is A, true is B. -/
structure BootRec where
  active : Bool := false
  trySlot : Bool := false
  tryPending : Bool := false
  triesLeft : Nat := 0
  seq : Nat := 0
  deriving DecidableEq, Repr

/-- OTP (R474, R477, R485 to R488, R493): lifecycle state, revoke bits, the security-version floors of the root patch,
the service image and the platform record, the bits blown of the patch-slot thermometer and of the LMS block
thermometer, and whether the keys have been erased. The minimum patch security version of R474 is the floor of the
root patch (log entry 29). -/
structure Otp where
  lc : Nat := 2
  revoked : BitVec 4 := 0
  floors : Nat × Nat × Nat := (0, 0, 0)
  patchBits : Nat := 0
  lmsBlocks : Nat := 0
  erased : Bool := false
  deriving DecidableEq, Repr

/-- An open staging (R484): type, length, the bytes buffered so far. -/
structure Staging where
  ty : Nat
  len : Nat
  data : SMap Byte := []
  deriving DecidableEq, Repr

/-- Firmware and its storage. -/
structure FwState where
  otp : Otp := {}
  /-- The external flash; an erased byte reads 0xFF (R475). -/
  flash : SMap Byte := []
  /-- The two copies of the boot control record in the flash; none is one whose CRC-32C is wrong (R475, R478). -/
  copies : Option BootRec × Option BootRec := (some { seq := 1 }, none)
  /-- A staged image, of a type, that is being written to the flash (R484). -/
  writing : Option (Nat × List Byte) := none
  stage : Option Staging := none
  staged : Bool := false
  /-- The root patch that runs, and the service image: its slot, and whether it runs as a try. -/
  patch : Option Bool := none
  running : Option Bool := none
  asTry : Bool := false
  /-- The image was selected in step 0x02, before main power was good (R467). -/
  selected : Bool := false
  /-- The valid platform record in use: its header. -/
  platform : Option (List Byte) := none
  /-- The last reading of the platform record found none that could be used (R471). -/
  noPlatform : Bool := false
  /-- Service SRAM (R476). -/
  sram : Bytes := []
  /-- Measurement blocks and log root of this bring-up, and its LMS signature (R492, R493). -/
  blocks : List (Nat × Nat × List Byte) := []
  root : List Byte := []
  lmsSig : List Byte := []
  /-- The next leaf within the block of LMS leaves in use. -/
  leaf : Nat := 0
  /-- The nonce of LC_END phase 1 with the time at which it was given, in µs (R488). -/
  endNonce : Option (Nat × Nat) := none
  deriving DecidableEq, Repr

/-- An SPDM session on one transport (R490), with the secret that its key exchange has given, and, once it is open, the
AEAD keys of its two directions. -/
inductive Session where
  | none
  | handshake (secret : List Byte)
  | opened (keys : List Byte × List Byte)
  deriving DecidableEq, Repr

/-- The JTAG port and Lantern (R511 to R514). -/
structure JtagState where
  ir : Nat := 0x01
  /-- The nonce of the last challenge, until it is used (R489). -/
  nonce : Option Nat := none
  /-- The last result of DBG_ACCESS: its data, and whether it failed (R512). -/
  dbgData : Word := 0
  dbgFail : Bool := false
  /-- The boundary register as SAMPLE/PRELOAD has loaded it (R511). -/
  preload : Nat := 0
  ltn : Vector (BitVec 16) 10 := Vector.replicate 10 0
  deriving DecidableEq, Repr

/-- The device. -/
structure DevState where
  stbyPg : Bool := false
  mainPg : Bool := false
  /-- Main power has been lost and has not returned (R439). -/
  mainGone : Bool := false
  /-- DEV_RST_N and CXL_PERST_N are low (log entry 28). -/
  rstLow : Bool := false
  perstLow : Bool := false
  /-- The main domain is powered and clocked. -/
  mainOn : Bool := false
  /-- A device reset is held until both reset inputs are high, and whether it clears memory (R435, R505, R528). -/
  held : Bool := false
  clearMem : Bool := false
  /-- The step in which bring-up is, and whether it has finished. -/
  step : Option Nat := none
  ready : Bool := false
  /-- A floor reset between its phases 4 and 5, with what its bring-up will meet (R508). -/
  floorBring : Option (List BringIn) := none
  /-- READY has been reached since MAIN_PG_IN last rose (R528). -/
  readyOnce : Bool := false
  /-- CXL training waits for CXL_PERST_N (R528). -/
  cxlWait : Bool := false
  /-- The stacks have been without power since the last bring-up (R472). -/
  hbmLost : Bool := true
  trip : Bool := false
  fw : FwState := {}
  spdmDoe : Session := .none
  spdmI3c : Session := .none
  jtag : JtagState := {}
  deriving DecidableEq, Repr

end Sys2Proof.Machine
end

