-- ==== Sys2Proof/Machine/StateMem.lean ====
section
/-! DEFINITION. The state of memory: HBM and host bytes, poison and tile tags, the Hirrium cache lines
with their directory, miss registers, the slices, the translation caches and pending page requests.
There is one copy of a line's data, the latest (R221: a stale home copy is never read). -/

namespace Sys2Proof.Machine

/-- Directory states (R221); `i` is a line that is not in its home slice. -/
inductive LState where
  | i | s | e | m | a
  deriving DecidableEq, Repr

/-- The holders of near copies (R221): up to four cells named exactly, or the marked bands. -/
inductive Holders where
  | cells (l : List CellId)
  | bands (v : BitVec 16)
  deriving DecidableEq, Repr

/-- The compression scheme that holds a line (R218). -/
inductive Scheme where
  | raw | zeroSector | highZero | baseDelta
  deriving DecidableEq, Repr

/-- An open epoch of deterministic reduction (R228): n, the operation, the next expected tag, and the
contributions that wait. -/
structure Epoch where
  n : Nat
  op : RedOp
  next : Nat := 0
  waiting : List Contrib := []
  deriving DecidableEq, Repr

/-- A request in a miss register's waiter list (R229). -/
inductive MissReq where
  | coherentRead (c : CellId) (off n : Nat)
  | coherentWrite (c : CellId) (off : Nat) (bytes : List Byte)
  | homeRead (a : Agent) (cls : Fin 8) (off n : Nat)
  | homeWrite (a : Agent) (cls : Fin 8) (off : Nat) (bytes : List Byte)
  | contrib (k : Contrib)
  deriving DecidableEq, Repr

/-- A near copy (R220): the cell whose slice holds it, its frame's way and first slot there (R217), its compression
scheme, and when it was last used. -/
structure Near where
  cell : CellId
  way : Nat
  slot : Nat
  scheme : Scheme
  lru : Nat
  deriving DecidableEq, Repr

/-- One cached line (R217, R221) at its home, with the near copies of it. -/
structure Line where
  st : LState := .i
  holders : Holders := .cells []
  dirty : Bool := false
  writer : Option Agent := none
  cls : Fin 8 := 0
  pinned : Bool := false
  scheme : Scheme := .raw
  data : BitVec 2048 := 0
  /-- The poisoned 64-byte sectors, 0 to 3 (R241). -/
  poison : NSet := []
  /-- Contributions accepted by the adder and not yet applied, oldest first (R227, R233). -/
  held : List Contrib := []
  epoch : Option Epoch := none
  /-- The write-back of a leaving line is not yet acknowledged (R235). -/
  leaving : Bool := false
  /-- When the line was last used. -/
  lru : Nat := 0
  /-- The way and the first slot of its frame at home (R212, R217). -/
  way : Nat := 0
  slot : Nat := 0
  /-- The near copies that cells hold. -/
  near : List Near := []
  /-- HR_MODE.det_cls when the present sequence of reductions in arrival order began, while there is one (R228). -/
  det : Option (BitVec 8) := none
  deriving DecidableEq, Repr

/-- A miss register (R229): its line and the requests that wait, oldest first. -/
structure MissReg where
  line : Nat
  waiters : List MissReq := []
  deriving DecidableEq, Repr

/-- The condition of one vertical interface (R236 to R238). -/
inductive VportSt where
  | ok | bypass | lost
  deriving DecidableEq, Repr

/-- One slice: its window's bytes and poison, an open resize, and its vertical interfaces. -/
structure Slice where
  win : Bytes := []
  /-- After a fatal error (R496): the draw, and the end of the part of the window whose unlisted bytes are undefined. -/
  winEpoch : Nat := 0
  winUndef : Nat := 0
  winPoison : NSet := []
  resize : Option Nat := none
  vports : Vector VportSt 4 := Vector.replicate 4 .ok
  /-- When each failure at V1 to V3 began, in µs, while retirement waits; none once its timeout has been used; and whether
  an Equinox barrier has completed or the neighbour path has failed further since (R239). -/
  failedAt : List (Fin 4 × Option Nat) := []
  retireDue : Bool := false
  /-- The neighbour slice whose port it uses, and whether it serves one (R238). -/
  via : Option CellId := none
  serves : Bool := false
  deriving DecidableEq, Repr

/-- An entry of a translation cache (R259): the first 64 KiB page, the size in such pages, and the
leaf. -/
structure TlbEnt where
  page : Nat
  pages : Nat
  pte : Word
  deriving DecidableEq, Repr

/-- A host translation obtained through ATS (R261): a 4 KiB host page, where it lies, and the
permissions. -/
structure AtsEnt where
  page : Nat
  frame : Nat
  r : Bool
  w : Bool
  deriving DecidableEq, Repr

/-- A pending page request (R263, R264). -/
structure PageReq where
  id : Nat
  page : Nat
  agent : Agent
  write : Bool
  exec : Bool
  startUs : Nat
  /-- The level of the entry that was not present. -/
  level : Nat
  deriving DecidableEq, Repr

/-- An access of an agent other than a cell that waits on a page request (R264), with the instance, the command slot or
16 for the post engine that it is made for. -/
structure PageWait where
  req : Nat
  who : Nat
  agent : Agent
  va : Nat
  write : Bool
  deriving DecidableEq, Repr

/-- What an access waits for: a page request, a walk or the host's translation (R262 to R264), the exit of a stack from
self-refresh (R446), a line, a frame or a window that is changing (R215, R219, R229, R415), or the end of a floor reset
(R509). -/
inductive Wait where
  | page (req : Nat)
  | xlat
  | wake
  | line
  | credit
  deriving DecidableEq, Repr

/-- The state of memory. -/
structure MemState where
  /-- HBM contents by physical address; an unlisted byte reads as 0 (R472), or, after a change of
  interleave mode, as an undefined byte (R250). -/
  hbm : Bytes := []
  /-- Changes of interleave mode since power-on (R250). -/
  hbmEpoch : Nat := 0
  /-- Poisoned 64-byte blocks of HBM, by physical address / 64 (R251). -/
  hbmPoison : NSet := []
  /-- Stored tile tag xor the tag of the tile's bytes, by tile number; 0 while the tag is right. -/
  tagSyn : SMap (BitVec 32) := []
  /-- Host memory as the device has written it, by host address. -/
  host : Bytes := []
  /-- Poisoned 64-byte blocks of host memory, by host address / 64 (R254). -/
  hostPoison : NSet := []
  /-- Cached lines by physical line number. -/
  lines : SMap Line := []
  miss : List (Nat × MissReg) := []
  /-- Requests held back for want of a miss register or of a waiter entry, by line, oldest first (R229). -/
  backed : List (Nat × MissReq) := []
  /-- Records of the device that wait until the host has given back the lines they go to, by physical address (R415). -/
  posted : List (Nat × List (Byte × Bool)) := []
  lruTick : Nat := 0
  tlb : List TlbEnt := []
  /-- The invalidation in progress: the first 64 KiB page and the count, or everything (R259). -/
  inval : Option (Option (Nat × Nat)) := none
  ats : List AtsEnt := []
  /-- Host pages whose ATS translation, or page group response, is awaited (R261). -/
  atsWait : NSet := []
  priWait : NSet := []
  /-- Host pages that a page group response has refused. -/
  priFail : NSet := []
  reqs : List PageReq := []
  nextReq : Nat := 0
  /-- Records written since TR_CTRL.en was last set (R263). -/
  prqSeq : Nat := 0
  ilvLock : Bool := false
  /-- The interleave mode under which HBM was written (R250). -/
  ilvWas : Nat := 0
  /-- Blocks scrubbed in the current pass (R252), the tag blocks of the stacks among them. -/
  scrubbed : NSet := []
  deriving DecidableEq, Repr

end Sys2Proof.Machine
end

