-- ==== Sys2Proof/Machine/StateHv.lean ====
section
/-! DEFINITION. The state of the Harvest units in an open step (R320 to R343) and of the replica checks,
the difference stream and the jobs (R346 to R368), as far as it is in no register. -/

namespace Sys2Proof.Machine

/-- A status word (R323). -/
structure StatusWord where
  nonfinite : Bool := false
  poison : Bool := false
  layer : Nat := 0
  nfRank : Nat := 0xFFFFFFFF
  count : Nat := 0
  /-- The FP64 encoding of the sum of squares. -/
  sumsq : Nat := 0
  deriving DecidableEq, Repr

/-- A layer delivered in the open step: its status word, the layer table entry and the parameter block
as read at the delivery (R322). -/
structure Delivered where
  layer : Nat
  word : StatusWord
  entry : BitVec 1024 := 0
  params : Desc := 0
  /-- The count differs from rows × cols (R325). -/
  mismatch : Bool := false
  /-- This chip's own contribution was non-finite (R325). -/
  nfLocal : Bool := false
  deriving DecidableEq, Repr

/-- The decision of R337, by its rows. -/
inductive Decision where
  | skipNf | skipCeil | redo | commit
  deriving DecidableEq, Repr

/-- The CRCs of a group in the open step (R347): of its pending bytes and of its gradient. -/
structure CrcEnt where
  layer : Nat
  group : Nat
  pend : Nat
  grad : Nat
  deriving DecidableEq, Repr

/-- A type 1 request that has been accepted and is not complete (R342). -/
structure HvSub where
  cell : CellId
  layer : Nat
  pen : Bool
  psem : BitVec 6
  deriving DecidableEq, Repr

/-- The Harvest units in an open step. -/
structure HvState where
  delivered : List Delivered := []
  /-- Failed layers with their reasons (R336), in order of failure. -/
  fails : List (Nat × Nat) := []
  /-- The groups (layer, group) updated in the present pass. -/
  done : List (Nat × Nat) := []
  /-- The groups whose update has begun in this step. -/
  begun : List (Nat × Nat) := []
  decision : Option Decision := none
  /-- The factor of a redo (R338), FP64. -/
  clip : Nat := 0x3FF0000000000000
  /-- The decision has been carried out; the barrier has yet to open (state CLOSING). -/
  carried : Bool := false
  /-- The outcome that HV_STATUS will show, and whether the loss scale stays as it is (R339, R340, R352). -/
  outcome : Nat := 0
  lsHeld : Bool := false
  /-- Reason and layer of a failure that EQNX reports (R340). -/
  failed : Option (Nat × Nat) := none
  subs : List HvSub := []
  /-- The CRCs of the groups written, where they are computed. -/
  crcs : List CrcEnt := []
  /-- What fixes the decision at skip has happened (R329). -/
  fixed : Bool := false
  /-- The accesses of the units that wait on page requests, and what the last access that waited waited for (R300). -/
  waits : List PageWait := []
  why : Option Wait := none
  /-- Working copies that a reset which has ended the step still has to make again: layer, entry, slot of the master,
  group (R341). -/
  remake : List (Nat × BitVec 1024 × Nat × Nat) := []
  /-- The accesses that waited on a request that was refused, until they meet the refusal (R264, R324, R336). -/
  refused : List PageWait := []
  /-- A floor reset owes the layers that are not delivered a delivery with poison (R509). -/
  poisonOwed : Bool := false
  deriving DecidableEq, Repr

/-- How far the exchange of a commit has come (R349 to R353). -/
inductive ExPhase where
  | idle | exchanging | bisecting | halted | passed
  deriving DecidableEq, Repr

/-- A diverged layer under bisection (R351): the range of groups, the reference rank, and the ranks in
step. -/
structure Bisect where
  layer : Nat
  lo : Nat
  n : Nat
  ref : Nat
  ranks : List Nat
  /-- Once the range is one group: its CRC on each in-step member. -/
  crcs : List (Nat × Nat) := []
  deriving DecidableEq, Repr

/-- What a Harvest unit has formed of a group's difference (R354): layer, kind, group, and the XOR of its bytes. -/
structure DxPart where
  layer : Nat
  kind : Nat
  group : Nat
  bytes : List Byte
  deriving DecidableEq, Repr

/-- A record of the difference stream that waits for a sink (R357). -/
structure Staged where
  bytes : List Byte
  sent0 : Bool
  sent1 : Bool
  deriving DecidableEq, Repr

/-- What a capture holds of one layer (R364, type 5), in delivery order: status word, gradient and pending
fingerprints, and the group CRC lists (type 6). -/
structure LayerResult where
  word : StatusWord := {}
  gradFp : Nat := 0
  pendFp : Nat := 0
  gradCrcs : List Nat := []
  pendCrcs : List Nat := []
  deriving DecidableEq, Repr

/-- How a job ends (R368): status, layer, stage, group. -/
structure JobEnd where
  status : Nat
  layer : Nat := 0
  stage : Nat := 0
  group : Nat := 0
  deriving DecidableEq, Repr

/-- A rectangle of an import that has been written (R363): layer, kind, and the rows and columns covered. -/
structure Rect where
  layer : Nat
  kind : Nat
  row0 : Nat
  rowN : Nat
  col0 : Nat
  colN : Nat
  deriving DecidableEq, Repr

/-- A running job (R360). -/
structure Job where
  desc : Desc
  /-- Bytes of the buffer used, and records written or read. -/
  pos : Nat := 0
  records : Nat := 0
  /-- Export: the (layer, kind) pairs still to write, the version bits and the version as of the start
  (R362), whether a commit has occurred since, and the groups it has held. -/
  todo : List (Nat × Nat) := []
  vers : BitVec 1024 := 0
  version : Nat := 0
  flipped : Bool := false
  held : List (Nat × Nat) := []
  /-- Import: what has been written, and the version seen. -/
  seen : List Rect := []
  seenVer : Option Nat := none
  mixed : Bool := false
  /-- Capture: the step is being captured; the buffer has filled. -/
  live : Bool := false
  full : Bool := false
  /-- Replay: the layers of the capture. -/
  layers : List LayerResult := []
  /-- Replay: the inbound payloads of the capture, and the host inputs that are still to be replayed. -/
  payloads : List CapPayload := []
  inputs : List HostIn := []
  /-- Capture: records formed and not yet written, with their addresses. -/
  unwritten : List (Nat × List Byte) := []
  /-- Capture: where the committed fingerprints go, while they are still to be read. -/
  owedFps : Option Nat := none
  /-- The descriptor could not be read, so no result address is known. -/
  blind : Bool := false
  /-- Replay: it has put the ports in loopback, and whether they were in it before. -/
  ports : Bool := false
  loop : Bool := false
  ended : Option JobEnd := none
  deriving DecidableEq, Repr

/-- Replica checks, difference stream and jobs. -/
structure RxState where
  phase : ExPhase := .idle
  work : List Bisect := []
  /-- Groups repaired so far in each layer of this commit. -/
  repaired : List (Nat × Nat) := []
  staged : List Staged := []
  /-- The differences of the open step, and whether some could not be staged (R354, R357). -/
  formed : List DxPart := []
  dxLost : Bool := false
  /-- A write of RX_JOB whose descriptor is still being read: the address, and the capture for a replay (R360). -/
  starting : Option (Nat × Option CapIn) := none
  /-- The apply engine (R358): groups covered, as (layer, kind, group). -/
  covered : List (Nat × Nat × Nat) := []
  job : Option Job := none
  /-- The action of a valid RC_RELEASE: commit or discard. -/
  release : Option Bool := none
  deriving DecidableEq, Repr

end Sys2Proof.Machine
end

