-- ==== Sys2Proof/Machine/StateFl.lean ====
section
/-! DEFINITION. The state of the Flagen transport (R378 to R383) and of the Parade engine (R385 to R402), as
far as it is in no register. -/

namespace Sys2Proof.Machine

/-- A frame that this chip sends (R376): type (0 HELLO, 1 DATA, 2 ACK, 3 READY, 4 ABORT), instance, phase, own rank,
place and length of its payload, and the payload with the poison of its 64-byte units. -/
structure FrameOut where
  ty : Nat
  cid : Nat
  cseq : Nat
  phase : Nat := 0
  rank : Nat := 0
  offset : Nat := 0
  len : Nat := 0
  last : Bool := false
  payload : List (Byte × Bool) := []
  /-- What the payload of a HELLO, ACK, READY or ABORT says, packed into one number. -/
  told : Nat := 0
  deriving DecidableEq, Repr

/-- A frame sent and not acknowledged, with its PSN; `resent` says that the map has already had it resent, `due` that it
is to be sent again and waits for its interface (R378, R383). -/
structure Sent where
  psn : Nat
  frame : FrameOut
  resent : Bool := false
  due : Bool := false
  deriving DecidableEq, Repr

/-- A frame in loopback on its way to this chip's receive path (R405), with its PSN, its cumulative acknowledgement and
its slow mark. -/
structure Looped where
  psn : Nat
  frame : FrameOut
  apsn : Option Nat
  slow : Bool
  deriving DecidableEq, Repr

/-- The state of a transport context (R380 to R382): no traffic yet, the hello, UP or LOST. -/
inductive CtxSt where
  | idle | hello | up | lost
  deriving DecidableEq, Repr

/-- One transport context (R379). PSNs are numbers modulo 2^32; `rxMap` holds the accepted PSNs beyond the
cumulative point, as distances from it. -/
structure Ctx where
  st : CtxSt := .idle
  chip : Nat := 0
  epoch : Nat := 0
  heard : Bool := false
  acked : Bool := false
  txNext : Nat := 0
  rxCum : Nat := 0
  rxMap : NSet := []
  /-- Frames accepted since the last acknowledgement, and their bytes that arrived marked. -/
  owed : Nat := 0
  owedCe : Nat := 0
  queue : List FrameOut := []
  unacked : List Sent := []
  cwnd : Rat := 0
  alpha : Rat := 0
  srtt : Nat := 0
  credit : Nat := 0
  /-- Consecutive timeouts. -/
  timeouts : Nat := 0
  roundEnd : Nat := 0
  roundBytes : Nat := 0
  roundCe : Nat := 0
  deriving DecidableEq, Repr

/-- The transport. -/
structure FlState where
  /-- Contexts by node number. -/
  ctx : SMap Ctx := []
  /-- The nodes whose contexts the floor caches, most recently used first; at most 4,096. -/
  cached : List Nat := []
  /-- Nodes whose traffic waits because every cached context has packets in flight. -/
  full : NSet := []
  /-- Nodes on whose number two chip identities were seen, with the route entry as it was then (R381). -/
  clash : List (Nat × Nat) := []
  /-- Interfaces paused by flow control, with the time in µs at which the pause ends. -/
  paused : SMap Nat := []
  /-- Frames in loopback that have not reached this chip's receive path (R405), oldest first. -/
  loop : List Looped := []
  /-- The frames that have left the ports (R375, R376): interface and bytes, newest first. -/
  wire : List (Nat × List Byte) := []
  deriving DecidableEq, Repr

/-- An armed descriptor (R388): its next sequence, and a disarm that waits for the running instance. -/
structure Armed where
  cid : Nat
  next : Nat
  disarm : Bool := false
  deriving DecidableEq, Repr

/-- A READY held for an instance that has not been triggered (R392). -/
structure HeldReady where
  cid : Nat
  cseq : Nat
  rank : Nat
  digest : Nat
  slow : Bool
  deriving DecidableEq, Repr

/-- Payload that has arrived: the sender's rank, the phase, the place in the message, and the bytes with the
poison of their 64-byte units. -/
structure Piece where
  rank : Nat
  phase : Nat
  offset : Nat
  bytes : List (Byte × Bool)
  deriving DecidableEq, Repr

/-- A running instance in a slot (R389 to R402). `ready` lists the READYs that it holds, `fed` the ranks to
which its DATA has been handed to the transport, `ended` its status and abort rank once it has ended. -/
structure Inst where
  cid : Nat
  cseq : Nat
  begun : Bool := false
  /-- The descriptor has been read. -/
  got : Bool := false
  desc : BitVec 1024 := 0
  n : Nat := 0
  me : Nat := 0
  nodes : List Nat := []
  own : List (Byte × Bool) := []
  ready : List (Nat × Nat) := []
  fed : NSet := []
  data : List Piece := []
  detached : NSet := []
  abortSeen : NSet := []
  slow : NSet := []
  bytes : Nat := 0
  /-- The steps of its message to each rank that have been handed to the transport (R395). -/
  sent : SMap Nat := []
  /-- The engine was slowed while it ran, which CE_SLOW_CNT has counted (R400). -/
  slowed : Bool := false
  ended : Option (Nat × Nat) := none
  /-- The deterministic order is forced on it, as in a replay (R367). -/
  forced : Bool := false
  /-- The draw of the free orders in which a non-deterministic reduction combines (R396). -/
  draw : Nat := 0
  /-- The status word it ends with, and whether this chip's own contribution was non-finite. -/
  word : StatusWord := {}
  nf : Bool := false
  deriving DecidableEq, Repr

/-- The Parade engine. -/
structure CeState where
  armed : List Armed := []
  slots : Vector (Option Inst) 32 := Vector.replicate 32 none
  /-- The triggered instances that wait for a slot, in trigger order: descriptor and sequence (R389). -/
  waitQ : List (Nat × Nat) := []
  held : List HeldReady := []
  /-- The device's own exchange that waits for a slot (R349, R389). -/
  mine : Option Inst := none
  /-- Layers to be delivered to the Harvest units: the layer, nf_local, and the status word. -/
  deliver : List (Nat × Bool × StatusWord) := []
  /-- The accesses of the engine that wait on page requests, and those that waited on one that was refused. -/
  waits : List PageWait := []
  refused : List PageWait := []
  deriving DecidableEq, Repr

end Sys2Proof.Machine
end

