-- ==== Sys2Proof/Machine/StateHost.lean ====
section
/-! DEFINITION. The state of the host interface (R410 to R437): queues, commands in execution, mailboxes, the
post engine, MSI-X, and what the host holds of the device's memory; and the answer to the last request that
came from outside. -/

namespace Sys2Proof.Machine

/-- The pointers of a queue pair (R418, R419). -/
structure QueueSt where
  sqHead : Nat := 0
  sqTail : Nat := 0
  cqHead : Nat := 0
  cqTail : Nat := 0
  phase : Bool := true
  deriving DecidableEq, Repr

/-- A fetched command in one of the 16 execution slots (R420): its queue, its place in fetch order, its bytes,
the submission head after its fetch, its outcome (status, detail, result) once it has executed, and whether
its mailbox has been published. -/
structure HostCmd where
  q : Fin 64
  order : Nat
  bytes : Desc
  sqHead : Nat
  outcome : Option (Nat × Nat × Nat) := none
  published : Bool := false
  deriving DecidableEq, Repr

/-- The states of a mailbox (R427, R428). -/
inductive BoxSt where
  | empty | ready | consumed
  deriving DecidableEq, Repr

/-- A mailbox (R427). -/
structure Mailbox where
  st : BoxSt := .empty
  seq : BitVec 32 := 0
  ptr : BitVec 52 := 0
  len : BitVec 32 := 0
  tag : BitVec 32 := 0
  user : Word := 0
  ack : BitVec 32 := 0
  deriving DecidableEq, Repr

/-- A publication that has begun: the mailbox and its contents (R430, R431). -/
structure Publication where
  mbx : Nat
  ptr : Nat
  len : Nat
  tag : Nat
  user : Nat
  deriving DecidableEq, Repr

/-- What the device's CXL link does (R410): down, up as PCIe only, or up with CXL.cache and CXL.mem. -/
inductive Link where
  | down | pcie | cxl
  deriving DecidableEq, Repr

/-- A protocol of the DOE mailbox (R433). -/
inductive DoeProto where
  | discovery | cmaSpdm | securedCma | cxlTable
  deriving DecidableEq, Repr

/-- A measurement block (R492): its index, its DMTF type, and its contents. -/
structure MeasBlock where
  index : Nat
  ty : Nat
  value : List Byte
  deriving DecidableEq, Repr

/-- The answer to an SPDM request (R490 to R492), by its contents. -/
inductive SpdmReply where
  | version (supported : List Nat)
  | capabilities (mutualAuth psk : Bool)
  | algorithms (sig hash dhe aead : Nat)
  | digests (slots : List Nat) (chain : List Byte)
  | certificate (chain : List Byte)
  | challengeAuth (signature : List Byte)
  | measurements (blocks : List MeasBlock) (signature : Option (List Byte))
  | keyExchange (share signature : List Byte)
  | finish
  | heartbeat
  | ended
  | error
  deriving DecidableEq, Repr

/-- What the last request from outside returned to its sender. -/
inductive Reply where
  | none
  /-- Data of a read with their poison. -/
  | data (bytes : List (Byte × Bool))
  /-- An answer of the I3C endpoint (R483): its status and the bytes behind it. -/
  | i3c (status : Nat) (bytes : List Byte)
  /-- A DOE discovery answer: the protocol at the index, if there is one. -/
  | protocol (p : Option DoeProto)
  /-- The CDAT (R433): base and length of the DSMAS range, read latency in ns, bandwidth in GB/s. -/
  | cdat (base len latency bandwidth : Nat)
  | spdm (r : SpdmReply)
  /-- What the JTAG data register shifts out: its width and value (R511). -/
  | jtag (width value : Nat)
  deriving DecidableEq, Repr

/-- The host interface. -/
structure HostState where
  qs : Vector QueueSt 64 := Vector.replicate 64 {}
  cmds : Vector (Option HostCmd) 16 := Vector.replicate 16 none
  /-- The queue served last, and the commands fetched so far. -/
  served : Nat := 63
  fetched : Nat := 0
  boxes : SMap Mailbox := []
  /-- The post record that waits for its mailbox. -/
  post : Option Publication := none
  /-- MSI-X table doublewords that are not at their reset values, and pending vectors (R426). -/
  table : SMap (BitVec 32) := []
  pend : NSet := []
  /-- MSI-X Enable and Function Mask (R426). -/
  msixOn : Bool := false
  msixMask : Bool := false
  /-- Completion entries that wait to be written, by physical address, with the vector of the message that follows (R426). -/
  owed : List (Nat × Option Nat) := []
  /-- MSI-X messages sent so far, by vector (R426). -/
  sent : SMap Nat := []
  /-- AER messages sent (R496). -/
  aer : Nat := 0
  /-- Lines of 64 bytes that the host holds through HDM, oldest grant first, with whether exclusively
  (R415). -/
  held : List (Nat × Bool) := []
  /-- Lines whose back-invalidate the host has not answered; true stands for BISnpInv. -/
  snooped : List (Nat × Bool) := []
  /-- The host physical base of the committed HDM decoder (R413). -/
  hdm : Option Nat := none
  link : Link := .down
  /-- The accesses of commands and of the post engine that wait on page requests, and those that waited on one that was
  refused, with the reason. -/
  waits : List PageWait := []
  refused : List (PageWait × Nat) := []
  reply : Reply := .none
  deriving DecidableEq, Repr

end Sys2Proof.Machine
end

