-- ==== Sys2Proof/Machine/StatePwr.lean ====
section
/-! DEFINITION. The state of power management that is in no register: wake requests and self-refresh
(R444, R446), the compute point and the cap loop (R441, R455), and what the controller has measured (R449 to
R453). -/

namespace Sys2Proof.Machine

/-- The state of the power controller. Frequencies are in MHz. -/
structure PwrState where
  /-- Cells whose wake waits for admission, in arrival order (R444). -/
  cellQ : List CellId := []
  /-- Stacks whose self-refresh exit waits for admission. -/
  hbmQ : List (Fin 20) := []
  /-- The compute PLL (R440): stopped, or the µs that it still needs to lock. -/
  pll : Option Nat := none
  /-- Wakes and exits that began less than 1 µs ago (log entry 87). -/
  cellN : Nat := 0
  hbmN : Nat := 0
  /-- Stacks in self-refresh (PWR_HBM_STATE), and those whose exit is admitted (R446). -/
  sr : BitVec 20 := 0xFFFFF
  srExit : List (Fin 20) := []
  /-- Stacks whose self-refresh a write of PWR_HBM_SR has requested and that were not idle. -/
  srWant : List (Fin 20) := []
  /-- The compute frequency in force, the highest frequency that the voltage in force supports, and the one
  that a raise under way will support (R441). -/
  f : Nat := 100
  vFor : Nat := 0
  ramp : Option Nat := none
  /-- The frequency that R455 chose last. -/
  want : Nat := 100
  /-- The cap loop: f_cap, f_therm, level, halvings of the stream engines, floor clock (R455, R459). -/
  fCap : Nat := 2500
  fTherm : Nat := 2500
  level : Nat := 0
  halvings : Nat := 0
  floorClk : Nat := 2000
  /-- Intervals since f_therm last rose. -/
  thermWait : Nat := 0
  throt : Bool := false
  /-- Stacks whose refresh rate is doubled, and those whose command rate is halved (R253, R459). -/
  hot : NSet := []
  halved : NSet := []
  /-- The weights in force (R448, R451). -/
  weights : List Rat := []
  /-- The latest estimate, its fixed part, and the controlled quantity (R448, R450). -/
  est : Rat := 0
  fixed : Rat := 0
  ctl : Rat := 0
  /-- The present window of 50 µs: estimates, their sum, and the sum of a1 (R449). -/
  winN : Nat := 0
  winSum : Rat := 0
  winA1 : Rat := 0
  /-- The energy of the window in µJ by the controlled quantity (R461). -/
  winP : Rat := 0
  /-- The latest measurement with its mean estimate. -/
  meas : Option (Nat × Rat) := none
  agree : Nat := 0
  disagree : Nat := 0
  missed : Nat := 0
  /-- The weights have been refitted (R451). -/
  refitted : Bool := false
  /-- The present die phase: since when, in µs, the intervals it has had, and the sum of their energies per
  cycle (R453). -/
  phSince : Nat := 0
  phN : Nat := 0
  phSum : Rat := 0
  /-- The phase table, with energies in 1/16 nJ before the rounding of the register. -/
  pht : SMap (Nat × Rat × Nat) := []
  /-- Sensors excluded by the cross-check (R479). -/
  excluded : NSet := []
  deriving DecidableEq, Repr

end Sys2Proof.Machine
end

