-- ==== Sys2Proof/Machine/State.lean ====
section
/-! DEFINITION. The whole state of the GX240 with its queue of waiting commands, the state right after a cold
reset, and the names of the ways in which a step can end without a next state. -/

namespace Sys2Proof.Machine

/-- The faults of a step. There are none: every fault of the GX240 is delivered as a next state (R176), and
every value that the spec leaves open is a free value. -/
inductive Fault where
  deriving DecidableEq, Repr

/-- The refusals of a step. -/
inductive Refusal where
  /-- Raised by an arm of exec whose command has no meaning yet; safe. -/
  | notModelled (mnemonic : String)
  /-- Raised by MANUFACTURING_TEST where the lifecycle enables it: R511 gives the instructions 0x20 to 0x2F no
  effect. Safe: the machine stops where the hardware does something that the spec does not describe. -/
  | manufacturingTest (code : Fin 16)
  deriving DecidableEq, Repr

/-- The state of the GX240. -/
structure State where
  cells : Vector Cell 256 := Vector.replicate 256 {}
  slices : Vector Slice 256 := Vector.replicate 256 {}
  mem : MemState := {}
  /-- Floor and management registers by physical address; an unlisted one holds its reset value (R246). -/
  fregs : SMap Word := []
  sync : SyncState := {}
  alm : AlmState := {}
  pw : PwrState := {}
  hv : HvState := {}
  rx : RxState := {}
  fl : FlState := {}
  ce : CeState := {}
  hs : HostState := {}
  dev : DevState := {}
  /-- µs since the last cold reset (R498). -/
  timeUs : Nat := 0
  /-- The model's own: how many free values have been drawn (log entry 2). -/
  free : Nat := 0
  /-- The commands that wait, first in first out. -/
  pending : List Instr := []
  deriving DecidableEq, Repr

/-- The machine right after a cold reset: every register at its reset value, every cell ASLEEP, every stack
in self-refresh, no memory written, no supply good, and no command waiting (R42, R438, R506). -/
def State.reset : State := {}

/-- What a command answers. -/
abbrev Out := Host.Outcome State Fault Refusal

end Sys2Proof.Machine
end

