-- ==== Sys2Proof/Machine/Ops.lean ====
section
/-! DEFINITION. The named operations over the state: cells, slices, registers, counters and free
values. Every read or write of a register goes through them. -/

namespace Sys2Proof.Machine

/-- Cell c. -/
def State.cell (s : State) (c : CellId) : Cell := s.cells[c]

/-- The state with cell c replaced. -/
def State.setCell (s : State) (c : CellId) (x : Cell) : State := { s with cells := s.cells.set c x }

/-- The state with cell c changed by f. -/
def State.modCell (s : State) (c : CellId) (f : Cell → Cell) : State := s.setCell c (f (s.cell c))

/-- Slice n. -/
def State.slice (s : State) (n : CellId) : Slice := s.slices[n]

/-- The state with slice n replaced. -/
def State.setSlice (s : State) (n : CellId) (x : Slice) : State :=
  { s with slices := s.slices.set n x }

/-- The state with slice n changed by f. -/
def State.modSlice (s : State) (n : CellId) (f : Slice → Slice) : State :=
  s.setSlice n (f (s.slice n))

/-- A floor or management register, by physical address (R246). -/
def State.freg (s : State) (a : Nat) : Nat := (s.fregs.get floorResetVal a).toNat

/-- The state with a floor or management register set. -/
def State.setFreg (s : State) (a v : Nat) : State :=
  { s with fregs := s.fregs.set floorResetVal a (BitVec.ofNat 64 v) }

/-- n events added to a 64-bit counter; counters wrap at 2^64 (R71). -/
def State.count (s : State) (a : Nat) (n : Nat := 1) : State := s.setFreg a (s.freg a + n)

/-- A floor register with the bits of m set. -/
def State.orFreg (s : State) (a m : Nat) : State := s.setFreg a (s.freg a ||| m)

/-- A floor register with the bits of m cleared. -/
def State.clrFreg (s : State) (a m : Nat) : State := s.setFreg a (s.freg a - (s.freg a &&& m))

/-- A floor register with bits [hi:lo] set to v. -/
def State.putFreg (s : State) (a hi lo v : Nat) : State := s.setFreg a (putBits (s.freg a) hi lo v)

/-- A cell register, by its offset in the cell's region (R154). -/
def Cell.reg (x : Cell) (o : Nat) : Nat := (x.regs.get cellResetVal o).toNat

/-- A cell with a register set. -/
def Cell.setReg (x : Cell) (o v : Nat) : Cell :=
  { x with regs := x.regs.set cellResetVal o (BitVec.ofNat 64 v) }

/-- n events added to a cell's counter (R71). -/
def Cell.count (x : Cell) (o : Nat) (n : Nat := 1) : Cell := x.setReg o (x.reg o + n)

/-- A cell register with the bits of m set. -/
def Cell.orReg (x : Cell) (o m : Nat) : Cell := x.setReg o (x.reg o ||| m)

/-- A cell register with the bits of m cleared. -/
def Cell.clrReg (x : Cell) (o m : Nat) : Cell := x.setReg o (x.reg o - (x.reg o &&& m))

/-- Scalar register n; s0 reads as zero (R153). -/
def Cell.rdS (x : Cell) (n : BitVec 5) : Word := if n = 0 then 0 else x.s[n.toNat]

/-- Scalar register n written; a write to s0 is discarded (R153). -/
def Cell.wrS (x : Cell) (n : BitVec 5) (v : Word) : Cell :=
  if n = 0 then x else { x with s := x.s.set n.toNat v }

/-- Descriptor register n. -/
def Cell.rdD (x : Cell) (n : BitVec 4) : Desc := x.d[n.toNat]

/-- Descriptor register n written. -/
def Cell.wrD (x : Cell) (n : BitVec 4) (v : Desc) : Cell := { x with d := x.d.set n.toNat v }

/-- The state with n events added to counter o of cell c. -/
def State.countC (s : State) (c : CellId) (o : Nat) (n : Nat := 1) : State :=
  s.modCell c (fun x => x.count o n)

/-- The state after a draw from the free values. -/
def State.draw (s : State) : State := { s with free := s.free + 1 }

/-- A wait of unknown length counted in counter o of cell c (R300, log entry 3). -/
def State.stall (s : State) (c : CellId) (o : Nat) : State :=
  (s.countC c o (Config.stallCycles s.free)).draw

/-- A wait of unknown length counted in a floor counter (log entry 3). -/
def State.stallF (s : State) (a : Nat) : State := (s.count a (Config.stallCycles s.free)).draw

/-- A byte of OC; its default is 0, or undefined after ASLEEP (R121, R442, log entry 4). -/
def Cell.ocDef (x : Cell) (k : Nat) : Byte :=
  if x.ocEpoch = 0 then 0 else Config.undefByte x.ocEpoch k

/-- A byte of IM when nothing is listed for it (R153, R442). -/
def Cell.imDef (x : Cell) (k : Nat) : Byte :=
  if x.imEpoch = 0 then 0 else Config.undefByte x.imEpoch (k + 0x40000)

/-- An accumulator element when nothing is listed for it (R81, R442). -/
def Cell.accDef (x : Cell) (k : Nat) : BitVec 32 :=
  if x.accEpoch = 0 then 0 else Config.undefAcc x.accEpoch k

/-- n bytes of OC from byte offset a (R120). -/
def Cell.ocRead (x : Cell) (a n : Nat) : List Byte := SMap.getRange x.ocDef x.oc a n

/-- Whether a 64-byte slot that [a, a + n) touches is poisoned (R120). -/
def Cell.ocBad (x : Cell) (a n : Nat) : Bool :=
  n != 0 && x.ocPoison.meets (a / 64) ((a + n - 1) / 64 + 1)

/-- The 64-byte units of [a, a + n) that lie wholly inside it: the first, and one past the last. -/
def wholeUnits (a n : Nat) : Nat × Nat := ((a + 63) / 64, (a + n) / 64)

/-- Bytes written to OC from byte offset a. A write of a whole slot clears its poison (R120). -/
def Cell.ocWrite (x : Cell) (a : Nat) (bs : List Byte) : Cell :=
  let u := wholeUnits a bs.length
  { x with oc := SMap.setRange x.ocDef x.oc a bs, ocPoison := x.ocPoison.delRange u.1 u.2 }

/-- The slots numbered in [lo, hi) poisoned. -/
def Cell.ocPoisonSlots (x : Cell) (lo n : Nat) : Cell :=
  { x with ocPoison := x.ocPoison.addRange lo n }

/-- Slot k of OC as a descriptor-sized value. -/
def Cell.ocSlot (x : Cell) (k : Nat) : Desc := BitVec.ofNat 512 (leNat (x.ocRead (64 * k) 64))

/-- n bytes of IM from offset a (R155). -/
def Cell.imRead (x : Cell) (a n : Nat) : List Byte := SMap.getRange x.imDef x.im a n

/-- Bytes written to IM; a write of a whole 8-byte word clears its uncorrectable error (R157). -/
def Cell.imWrite (x : Cell) (a : Nat) (bs : List Byte) : Cell :=
  { x with im := SMap.setRange x.imDef x.im a bs,
           imBad := x.imBad.delRange ((a + 7) / 8) ((a + bs.length) / 8) }

/-- Element p of accumulator acc (R80). -/
def Cell.accGet (x : Cell) (acc p : Nat) : BitVec 32 := x.acc.get x.accDef (acc * 4096 + p)

/-- Consecutive elements of an accumulator span written, from flat element p of accumulator acc. -/
def Cell.accWrite (x : Cell) (acc p : Nat) (vs : List (BitVec 32)) : Cell :=
  { x with acc := SMap.setRange x.accDef x.acc (acc * 4096 + p) vs }

/-- The band of a cell: bands are 16 consecutive cells (R19). -/
def bandOf (c : CellId) : Fin 16 := ⟨c.val / 16, by omega⟩

/-- A cell number from a number. -/
def cellNo (n : Nat) : CellId := ⟨n % 256, by omega⟩

/-- Every cell. -/
def allCells : List CellId := List.finRange 256

/-- The cells of band k. -/
def bandCells (k : Fin 16) : List CellId := (List.range 16).map (fun i => cellNo (16 * k.val + i))

/-- Whether the device is held in the fatal condition (R497, RST_STATUS.fatal). -/
def State.fatal (s : State) : Bool := bitB (s.freg FR.RST_STATUS) 3

/-- Whether the cell executes instructions: its sequencer runs and its power state is AWAKE. -/
def Cell.running (x : Cell) : Bool := x.mode == .running && x.cp.st == .awake

end Sys2Proof.Machine
end

