-- ==== Sys2Proof/Machine/Almanac.lean ====
section
/-! DEFINITION. Records of the Almanac (R498 to R500), host events (R426), and the numeric flags,
counters and locators of a cell (R67 to R76). -/

namespace Sys2Proof.Machine

/-- Whether CXL.cache and CXL.mem work, and with them the BARs (R410). -/
def State.cxlUp (s : State) : Bool := s.hs.link == .cxl

/-- A doubleword of the MSI-X table at its reset value: each vector is masked (log entry 17). -/
def msixDef (k : Nat) : BitVec 32 := if k % 4 = 3 then 1 else 0

/-- Whether a vector is masked, by its own mask or by the Function Mask (R426). -/
def State.msixMasked (s : State) (v : Nat) : Bool :=
  s.hs.msixMask || (s.hs.table.get msixDef (4 * v + 3)).getLsbD 0

/-- One MSI-X message on a vector (R426): a masked vector is pending instead, and while MSI-X is not enabled there is neither
(log entry 226). -/
def State.sendMsi (s : State) (v : Nat) : State :=
  if !s.hs.msixOn then s
  else if s.msixMasked v then { s with hs := { s.hs with pend := s.hs.pend.add v } }
  else { s with hs := { s.hs with sent := s.hs.sent.set (fun _ => 0) v (s.hs.sent.get (fun _ => 0) v + 1) } }

/-- Host event `bit`: its bit of HI_EVT is set, and the vector fires when the bit goes from 0 to 1
while it is enabled (R426). -/
def State.hostEvent (s : State) (bit : Nat) : State :=
  let s' := s.orFreg FR.HI_EVT (2 ^ bit)
  if !bitB (s.freg FR.HI_EVT) bit && bitB (s.freg FR.HI_EVT_EN) bit then s'.sendMsi (248 + bit) else s'

/-- The severe store takes a record of class 2, 3 or 4, up to 64 records (R499). -/
def State.storeSevere (s : State) (r : AlmRec) : State :=
  if 2 ≤ r.cls && r.cls ≤ 4 then
    if s.alm.severe.length < 64 then { s with alm := { s.alm with severe := s.alm.severe ++ [r] } }
    else s.count FR.ALM_SEV_DROP_CNT
  else s

/-- A record written into the buffer at entry seq mod 1,024. A record it replaces that the ring has
not yet taken counts as dropped (R502). -/
def State.storeRec (s : State) (r : AlmRec) : State :=
  let k := r.seq % 1024
  let lost := match s.alm.buf.find? (·.1 == k) with
    | some (_, o) => decide (s.alm.copied ≤ o.seq)
    | none => false
  let s := { s with alm := { s.alm with buf := s.alm.buf.insert k r } }
  if lost then (s.count FR.ALM_DROP_CNT).orFreg FR.ALM_STATUS 2 else s

/-- Whether two times, in µs, lie in one of the aligned intervals of 2^e µs (R76, R499). -/
def sameWindow (e t u : Nat) : Bool := t / 2 ^ e == u / 2 ^ e

/-- One event of the device (R499): its class counter, its record and the severe store, and host event
3 for classes 3 and 4, and the AER message of class 4 while the link is up (R496). Notice and corrected records are limited to one for each pair of code and index
in each window; a limited record takes its sequence number all the same. -/
def State.logEvent (s : State) (code index cls addr info0 info1 : Nat) : State :=
  let seq := s.alm.seq
  let r : AlmRec :=
    { seq := seq, time := s.timeUs, step := s.freg FR.HV_STEP % 2 ^ 32, code, index := index % 65536,
      cls, addr, info0, info1 }
  let s := s.count (FR.ERR_CLS_CNT cls)
  let s := { s with alm := { s.alm with seq := seq + 1 } }
  let e := bits (s.freg FR.ALM_CTRL) 11 8
  if cls ≤ 1 && s.alm.used.any (fun u => u.1 == code && u.2.1 == index && sameWindow e u.2.2 s.timeUs) then
    s.count FR.ALM_LIMIT_CNT
  else
    let used := (code, index, s.timeUs) :: s.alm.used.filter (fun e => !(e.1 == code && e.2.1 == index))
    let s := if cls ≤ 1 then { s with alm := { s.alm with used := used } } else s
    let s := (s.storeRec r).storeSevere r
    let up := match s.hs.link with
      | .down => false
      | _ => true
    let s := if cls == 4 && up then { s with hs := { s.hs with aer := s.hs.aer + 1 } } else s
    if (cls == 3 || cls == 4) && s.dev.mainOn then s.hostEvent 3 else s

/-- The register that holds the sticky flags of a unit, with flag NV at bit 16 (R115, R150, R315). -/
def unitStatus : FaultUnit → Option Nat
  | .mx | .mv => some CR.MX_STATUS
  | .vx => some CR.VX_STATUS
  | .sx => some CR.SX_STATUS
  | _ => none

/-- MX_NUM_LOC with an event (R74). Its n has 8 bits, and MMV has up to 4,096 columns: n is recorded modulo 256 (log
entry 176). -/
def mxNumLoc (l : NvLoc) : Nat :=
  2 ^ 63 + l.cause * 2 ^ 32 + l.pass % 8 * 2 ^ 27 + l.kchunk % 2 ^ 11 * 2 ^ 16 + l.n % 256 * 256
    + l.m % 256

/-- VX_NUM_LOC with an event: m is the row and n the element (R146). -/
def vxNumLoc (l : NvLoc) : Nat :=
  2 ^ 63 + l.cause * 2 ^ 32 + l.m % 256 * 2 ^ 22 + l.n % 2 ^ 22

/-- The first NV since the locator of the unit was cleared is recorded with its address (R69, R146). -/
def Cell.locate (x : Cell) (u : FaultUnit) (l : Option NvLoc) (pc : Nat) : Cell :=
  match u, l with
  | .mx, some l | .mv, some l =>
    if bitB (x.reg CR.MX_NUM_LOC) 63 then x
    else (x.setReg CR.MX_NUM_LOC (mxNumLoc l)).setReg CR.MX_NUM_LOC_PC pc
  | .vx, some l =>
    if bitB (x.reg CR.VX_NUM_LOC) 63 then x
    else (x.setReg CR.VX_NUM_LOC (vxNumLoc l)).setReg CR.VX_NUM_LOC_PC pc
  | _, _ => x

/-- The flags, counts and locator entry of one instruction, or of one granule of a transfer (R67). -/
def Cell.noteFlags (x : Cell) (u : FaultUnit) (e : NumEvent) (pc : Nat) : Cell :=
  let f := e.counts.flags.toNat
  let x := x.orReg CR.NUM_STATUS f
  let x := match unitStatus u with
    | some o => x.orReg o (f * 65536)
    | none => x
  let x := x.count CR.NUM_EVT_NV_CNT e.counts.nv
  let x := x.count CR.NUM_EVT_OF_CNT e.counts.of
  let x := x.count CR.NUM_EVT_UF_CNT e.counts.uf
  let x := x.count CR.NUM_EVT_DZ_CNT e.counts.dz
  let x := x.count CR.NUM_EVT_MS_CNT e.counts.ms
  x.locate u e.loc pc

/-- The Almanac's part of an event of flag `bit` (R76): one record per flag, cell and window, and
NUM_LOG_DROP_CNT for each further event of the window, which its class counter counts too (R499). The window is that of the present rate_exp, and is used where
the last record's time lies in it. The record gives the event's own position in the layout of the locator, whether or
not the locator recorded an earlier one (log entry 178). -/
def State.logFlag (s : State) (c : CellId) (u : FaultUnit) (loc : Option NvLoc) (pc bit : Nat) :
    State :=
  let ctl := (s.cell c).reg CR.NUM_LOG_CTRL
  if !bitB ctl bit then s
  else
    let k := c.val * 8 + bit
    let last := s.alm.numUsed.get (fun _ => 0) k
    if last ≠ 0 ∧ sameWindow (bits ctl 11 8) (last - 1) s.timeUs then
      (s.countC c CR.NUM_LOG_DROP_CNT).count (FR.ERR_CLS_CNT 5)
    else
      let s := { s with alm := { s.alm with numUsed := s.alm.numUsed.set (fun _ => 0) k (s.timeUs + 1) } }
      let i0 := if bit ≠ 0 then 0 else
        match u, loc with
        | .vx, some l => vxNumLoc l
        | .mx, some l | .mv, some l => mxNumLoc l
        | _, _ => 0
      s.logEvent 0x0101 c.val 5 pc i0 (2 ^ bit)

/-- The numeric events of one instruction of cell c at address pc, or of one granule of a transfer,
which has no address (R67, R69, R76). -/
def State.noteNum (s : State) (c : CellId) (u : FaultUnit) (e : NumEvent) (pc : Nat) : State :=
  let f := e.counts.flags.toNat
  if f = 0 then s
  else
    let s := s.modCell c (fun x => x.noteFlags u e pc)
    (List.range 5).foldl (fun s b => if bitB f b then s.logFlag c u e.loc pc b else s) s

/-- The flags of an event that the cell traps (R75). -/
def Cell.trapped (x : Cell) (e : NumEvent) : Nat :=
  e.counts.flags.toNat &&& x.reg CR.NUM_TRAP_EN

end Sys2Proof.Machine
end

