-- ==== Sys2Proof/Machine/Wake.lean ====
section
/-! DEFINITION. Wake requests of cells and of HBM stacks, and their admission (R443 to R446). -/

namespace Sys2Proof.Machine

/-- The limit of PWR_WAKE_CFG on cell wakes in 1 µs (R444). -/
def State.cellMax (s : State) : Nat := bits (s.freg FR.PWR_WAKE_CFG) 5 0
/-- The limit of PWR_WAKE_CFG on HBM exits in 1 µs (R444). -/
def State.hbmMax (s : State) : Nat := bits (s.freg FR.PWR_WAKE_CFG) 15 12

/-- Every cell is ASLEEP and every stack in self-refresh: READY, once bring-up has finished (R438). -/
def State.allQuiet (s : State) : Bool :=
  s.pw.sr == 0xFFFFF && s.pw.srExit.isEmpty && allCells.all (fun c => (s.cell c).cp.st == .asleep)

/-- A floor reset is between its phases 1 and 5 (R508, RST_STATUS.floor_busy). -/
def State.floorBusy (s : State) : Bool := s.dev.floorBring.isSome

/-- The compute PLL as a wake request meets it (R440): stopped, or the µs it still needs to lock. In READY it is stopped
until a wake is requested. -/
def State.pllAt (s : State) : Option Nat := if s.allQuiet && s.pw.cellQ.isEmpty then none else s.pw.pll

/-- The compute PLL stops when the device re-enters READY (R440). -/
def State.stopPll (s : State) : State := { s with pw := { s.pw with pll := s.pllAt } }

/-- The PLL starts where it is stopped: it locks within 15 µs (R440, log entry 221). -/
def State.startPll (s : State) : State :=
  match s.pllAt with
  | none => State.draw { s with pw := { s.pw with pll := some (1 + Config.pllLock s.free % 15) } }
  | some _ => s

/-- Cell c begins its wake (R443). -/
def State.beginWake (s : State) (c : CellId) : State :=
  s.modCell c (fun x => { x with cp := { x.cp with st := .waking, admitWait := false } })

/-- A cell in DOZE becomes AWAKE (R443); CP_DOZE_CNT counts its cycles there (log entry 3). -/
def State.endDoze (s : State) (c : CellId) : State :=
  match (s.cell c).cp.st with
  | .doze => State.draw (s.modCell c (fun x =>
      { (x.count CR.CP_DOZE_CNT (Config.stallCycles s.free)) with cp := { x.cp with st := .awake } }))
  | _ => s

/-- A wake of cell c requested (R440, R443, R444): admitted at once if the compute PLL runs, the limit allows and none
waits, otherwise queued and counted once. A cell that is waking or waiting already joins that wake. -/
def State.requestWake (s : State) (c : CellId) : State :=
  let x := s.cell c
  match x.cp.st with
  | .asleep =>
    if x.cp.admitWait then s
    else if s.pllAt == some 0 && s.pw.cellQ.isEmpty && s.pw.cellN < s.cellMax then
      { s.beginWake c with pw := { s.pw with cellN := s.pw.cellN + 1 } }
    else
      let s := s.startPll.setCell c { x with cp := { x.cp with admitWait := true } }
      State.count { s with pw := { s.pw with cellQ := s.pw.cellQ ++ [c] } } FR.PWR_WAKE_DEFER_CNT
  | _ => s

/-- Whether stack i is in self-refresh (R446). -/
def State.stackSr (s : State) (i : Nat) : Bool := s.pw.sr.getLsbD i

/-- A stack number from a number. -/
def stackNo (n : Nat) : Fin 20 := ⟨n % 20, by omega⟩

/-- A self-refresh exit of stack i requested by an access (R444, R446). -/
def State.requestExit (s : State) (i : Nat) : State :=
  let k := stackNo i
  if !s.stackSr i || s.pw.srExit.contains k || s.pw.hbmQ.contains k then s
  else if s.pw.hbmQ.isEmpty && s.pw.hbmN < s.hbmMax then
    { s with pw := { s.pw with hbmN := s.pw.hbmN + 1, srExit := s.pw.srExit ++ [k] } }
  else State.count { s with pw := { s.pw with hbmQ := s.pw.hbmQ ++ [k] } } FR.PWR_WAKE_DEFER_CNT

end Sys2Proof.Machine
end

