-- ==== Sys2Proof/Machine/Phys.lean ====
section
/-! DEFINITION. Physical memory: the address map (R246, R247), HBM placement (R249), bytes with their
poison (R251, R254), tile tags (R265 to R267), slice windows (R213 to R215), and the home slice and set
of a line (R216). -/

namespace Sys2Proof.Machine

/-- A byte as an access delivers it: its value, and whether its 64-byte unit is poisoned (R254). -/
abbrev PByte := Byte × Bool

/-- The bytes alone. -/
def plain (bs : List PByte) : List Byte := bs.map (·.1)

/-- Clean bytes. -/
def clean (bs : List Byte) : List PByte := bs.map (fun b => (b, false))

/-- Whether any unit of the data is poisoned. -/
def anyBad (bs : List PByte) : Bool := bs.any (·.2)

/-- Bytes from address a with the poison of their units. -/
def withPoison (m : NSet) : Nat → List Byte → List PByte
  | _, [] => []
  | a, b :: bs => (b, m.has (a / 64)) :: withPoison m (a + 1) bs

/-- The poisoned units after data is written from address a: a unit takes the poison of what is
written into it, a unit written whole loses its own (R241, R251, R254). -/
def poisonAfter (m : NSet) (a : Nat) (bs : List PByte) : NSet :=
  (List.range ((a + bs.length + 63) / 64 - a / 64)).foldl (fun m i =>
    let u := a / 64 + i
    let lo := max a (64 * u)
    let hi := min (a + bs.length) (64 * u + 64)
    if anyBad ((bs.drop (lo - a)).take (hi - lo)) then m.add u
    else if hi - lo = 64 then m.del u
    else m) m

/-! ### The address map -/

/-- HBM_TOP (R246). -/
def hbmTop : Nat := 0x013FB0000000
/-- TAG_BASE, and one past the tag aperture (R246). -/
def tagBase : Nat := 0x018000000000
/-- One past the tag aperture. -/
def tagTop : Nat := 0x01804FEC0000
/-- SLICE_WIN_BASE (R246). -/
def sliceWinBase : Nat := 0x020000000000
/-- The first address of the host aperture. -/
def hostBase : Nat := 0x8000000000000

/-- What lies at a physical address (R246). -/
inductive Region where
  | hbm
  | tags
  | window (n : CellId) (off : Nat)
  | host (ha : Nat)
  | other
  deriving DecidableEq, Repr

/-- The region of a physical address: memory, the tag aperture, a slice window, host memory, or
registers and reserved ranges. -/
def region (pa : Nat) : Region :=
  if pa < hbmTop then .hbm
  else if tagBase ≤ pa ∧ pa < tagTop then .tags
  else if sliceWinBase ≤ pa ∧ pa < sliceWinBase + 0x200000000 then
    .window (cellNo ((pa - sliceWinBase) / 0x2000000)) ((pa - sliceWinBase) % 0x2000000)
  else if hostBase ≤ pa ∧ pa < 2 * hostBase then .host (pa - hostBase)
  else .other

/-- hbm_place of R249: the stack of an address below HBM_TOP, in the mode given. -/
def hbmStack (mode pa : Nat) : Nat :=
  let fold q := (bits q 7 0 ^^^ bits q 15 8) ^^^ bits q 23 16
  let size := 0xFFC000000
  if mode = 0 then
    let g := pa / 4096
    (g % 20 + fold (g / 20) % 20) % 20
  else if mode = 1 then
    let j := pa / (4 * size)
    let g := (pa - j * 4 * size) / 4096
    4 * j + (g % 4 + fold (g / 4) % 4) % 4
  else pa / size

/-- The local address of the same placement (R249). -/
def hbmLocal (mode pa : Nat) : Nat :=
  let size := 0xFFC000000
  if mode = 0 then pa / 4096 / 20 * 4096 + pa % 4096
  else if mode = 1 then pa % (4 * size) / 4096 / 4 * 4096 + pa % 4096
  else pa % size

/-- The stack of an address in the current mode. -/
def State.stackOf (s : State) (pa : Nat) : Nat := hbmStack (bits (s.freg FR.HBM_ILV_CFG) 1 0) pa

/-! ### Tag blocks (R247, R251, R252)

The tags of a stack fill 0xFFC00 blocks of 64 bytes, each with the tags of 16 tiles that follow one another in the
stack. The tag blocks of stack i are numbered from hbmTop / 64 + i × 0xFFC00 on, behind the blocks of memory. -/

/-- The tag blocks of one stack. -/
def tagBlocks : Nat := 0xFFC00

/-- The blocks of addressable memory and of tags (R252). -/
def hbmBlocks : Nat := hbmTop / 64 + 20 * tagBlocks

/-- The block that holds the tag of tile t, in the mode given. -/
def tagBlock (mode t : Nat) : Nat :=
  hbmTop / 64 + hbmStack mode (4096 * t) * tagBlocks + hbmLocal mode (4096 * t) / 4096 / 16

/-- The granules of which one lies at granule q of stack i: R249 spreads them over the stacks of a group. -/
def placeCandidates (mode i q : Nat) : List Nat :=
  if mode = 0 then (List.range 20).map (fun r => 20 * q + r)
  else if mode = 1 then (List.range 4).map (fun r => i / 4 * (4 * 0xFFC000) + 4 * q + r)
  else [i * 0xFFC000 + q]

/-- The first tile of a tag block. -/
def firstTile (mode blk : Nat) : Nat :=
  let k := blk - hbmTop / 64
  let i := k / tagBlocks
  ((placeCandidates mode i (k % tagBlocks * 16)).find? (fun g => hbmStack mode (4096 * g) == i)).getD 0

/-- The physical address under which a block is reported (R251): its own, or for a tag block that of the tag of its
first tile in the tag aperture (log entry 192). -/
def State.blockPa (s : State) (blk : Nat) : Nat :=
  if blk < hbmTop / 64 then blk * 64
  else (tagBase + 4 * firstTile (bits (s.freg FR.HBM_ILV_CFG) 1 0) blk) / 64 * 64

/-- The stack that holds a block. -/
def State.blockStack (s : State) (blk : Nat) : Nat :=
  if blk < hbmTop / 64 then s.stackOf (blk * 64) else (blk - hbmTop / 64) / tagBlocks

/-- The tile whose tag lies at an address of the tag aperture (R247), aligned to 4 bytes. -/
def apertureTile (pa : Nat) : Option Nat :=
  if tagBase ≤ pa && pa < tagTop && pa % 4 == 0 then some ((pa - tagBase) / 4) else none

/-- The home slice of a physical address (R216). -/
def homeSlice (pa : Nat) : CellId :=
  let g := pa / 4096
  cellNo (bits g 7 0 ^^^ bits g 15 8 ^^^ bits g 23 16 ^^^ bits g 31 24 ^^^ bits g 39 32)

/-- The home set of a physical address (R216). -/
def homeSet (pa : Nat) : Nat :=
  let g := pa / 4096
  (bits g 14 8 ^^^ bits g 28 22) * 16 + bits pa 11 8

/-! ### HBM and host bytes -/

/-- A byte of HBM when nothing is listed for it (R472, R250). -/
def MemState.hbmDef (m : MemState) (a : Nat) : Byte :=
  if m.hbmEpoch = 0 then 0 else Config.hbmByte m.hbmEpoch a

/-- The difference of a tile's tag when nothing is listed for it (R265, R250). -/
def MemState.synDef (m : MemState) (t : Nat) : BitVec 32 :=
  if m.hbmEpoch = 0 then 0 else Config.tileSyn m.hbmEpoch t

/-- n bytes of HBM, with the poison of their blocks (R251). -/
def State.hbmRead (s : State) (pa n : Nat) : List PByte :=
  withPoison s.mem.hbmPoison pa (SMap.getRange s.mem.hbmDef s.mem.hbm pa n)

/-- The tiles wholly covered by [a, a + n) have right tags again (R266). -/
def MemState.retag (m : MemState) (a n : Nat) : MemState :=
  let lo := (a + 4095) / 4096
  let hi := (a + n) / 4096
  { m with tagSyn := (List.range (hi - lo)).foldl (fun t i => t.set m.synDef (lo + i) 0) m.tagSyn }

/-- Bytes written to HBM: block poison and tile tags follow (R251, R254, R266). -/
def State.hbmWrite (s : State) (pa : Nat) (bs : List PByte) : State :=
  let m := s.mem.retag pa bs.length
  { s with mem := { m with hbm := SMap.setRange m.hbmDef m.hbm pa (plain bs),
                           hbmPoison := poisonAfter m.hbmPoison pa bs } }

/-- n bytes of host memory: what the device last wrote there, or the host's own bytes (log entry 5), with the poison
that the device has written (R254). -/
def State.hostRead (s : State) (ha n : Nat) : List PByte :=
  withPoison s.mem.hostPoison ha (SMap.getRange (Config.hostByte s.free) s.mem.host ha n)

/-- Bytes the device writes to host memory, their poison with them (R254). Every byte written is listed, whatever its
value. -/
def State.hostWrite (s : State) (ha : Nat) (bs : List PByte) : State :=
  { s with mem := { s.mem with
      host := (List.range bs.length).foldl
        (fun m i => SMap.insert m (ha + i) ((plain bs).getD i 0)) s.mem.host
      hostPoison := poisonAfter s.mem.hostPoison ha bs } }

/-- n bytes of memory below the cache, HBM or host (R246); zero bytes elsewhere are never asked for. -/
def State.rawRead (s : State) (pa n : Nat) : List PByte :=
  match region pa with
  | .hbm => s.hbmRead pa n
  | .host ha => s.hostRead ha n
  | _ => clean (List.replicate n 0)

/-- Bytes written below the cache. A read of host bytes draws from the free values. -/
def State.rawWrite (s : State) (pa : Nat) (bs : List PByte) : State :=
  match region pa with
  | .hbm => s.hbmWrite pa bs
  | .host ha => s.hostWrite ha bs
  | _ => s

/-- The stored tag of a tile (R265, R266), maintained whatever page maps the tile (log entry 213). -/
def State.tileTag (s : State) (t : Nat) : Nat :=
  crc32c (plain (s.hbmRead (4096 * t) 4096)) ^^^ (s.mem.tagSyn.get s.mem.synDef t).toNat

/-- Whether a tile fails its check (R267): by linearity, whether its tag differs. -/
def State.tileBad (s : State) (t : Nat) : Bool := s.mem.tagSyn.get s.mem.synDef t != 0

/-- Whether the block that holds a tile's tag is poisoned (R251, R254). -/
def State.tagPoisoned (s : State) (t : Nat) : Bool :=
  s.mem.hbmPoison.has (tagBlock (bits (s.freg FR.HBM_ILV_CFG) 1 0) t)

/-- Whether a check leaves the lines of a tile poisoned (R254, R267): it fails, or its tag is poisoned (log entry
193). -/
def State.tileSpoiled (s : State) (t : Nat) : Bool := s.tileBad t || s.tagPoisoned t

/-- One check of a tile (R267): a failure is counted and recorded. -/
def State.checkTile (s : State) (t : Nat) : State :=
  if s.tileBad t then
    let s' := s.count FR.TILE_CRC_ERR_CNT
    s'.logEvent 0x0302 (s.stackOf (4096 * t)) 2 (4096 * t) (s.tileTag t)
      (crc32c (plain (s.hbmRead (4096 * t) 4096)))
  else s

/-- An uncorrectable error in a 64-byte block of HBM (R251): the block is poisoned, counted and
recorded, and the first is kept in HBM_ERR_PA. -/
def State.hbmUncorrectable (s : State) (blk : Nat) : State :=
  let s := { s with mem := { s.mem with hbmPoison := s.mem.hbmPoison.add blk } }
  let s := s.count FR.HBM_UNCORR_CNT
  let s := if bitB (s.freg FR.HBM_ERR_PA) 63 then s
    else s.setFreg FR.HBM_ERR_PA (2 ^ 63 + s.blockPa blk)
  s.logEvent 0x0301 (s.blockStack blk) 2 (s.blockPa blk) 0 0

/-- The outcome of reading HBM blocks (R251). -/
def State.hbmEcc (s : State) (e : HbmEcc) : State :=
  (e.bad.filter (· < hbmBlocks)).foldl (fun s b => s.hbmUncorrectable b) (s.count FR.HBM_CORR_CNT e.corrected)

/-! ### Slice windows (R213 to R215) -/

/-- The page request that a wait is for. -/
def Wait.req : Wait → Option Nat
  | .page q => some q
  | _ => none

/-- What an access past the floor waits for: a stack's exit from self-refresh (R446), or the end of a floor reset (R509). -/
def State.floorWait (s : State) : Wait := if s.floorBusy then .credit else .wake

/-- The counter of R300 and R509 that a wait of a cell's agent adds to: late data are those of a read (log entry 194). -/
def Wait.counter (write : Bool) : Wait → Option Nat
  | .page _ | .xlat => some CR.SX_STALL_XLAT_CNT
  | .wake => some CR.SX_STALL_WAKE_CNT
  | .credit => some CR.SX_STALL_CREDIT_CNT
  | .line => if write then none else some CR.SX_STALL_DATA_CNT

/-- The result of an access to memory: performed, to be waited for, or beyond the configured window
(R214). -/
inductive MRes (α : Type) where
  | ok (v : α)
  | wait (s : State) (why : Wait)
  | range

/-- The configured size of the window of slice n in bytes. -/
def State.winSize (s : State) (n : CellId) : Nat :=
  bits (s.freg (FR.HR_WIN_CFG n)) 8 0 * 0x10000

/-- Whether an access to [off, off + len) of a window may proceed (R214, R215): inside both sizes while
a resize is open, it does; inside only one, it waits. -/
def State.winCheck (s : State) (n : CellId) (off len : Nat) : MRes Unit :=
  let cur := s.winSize n
  match (s.slice n).resize with
  | none => if off + len ≤ cur then .ok () else .range
  | some units =>
    let lo := min cur (units * 0x10000)
    let hi := max cur (units * 0x10000)
    if off + len ≤ lo then .ok () else if off + len ≤ hi then .wait s .line else .range

/-- The accesses of a slice that cross to a layer on the neighbour path are counted (R238). -/
def State.countBypass (s : State) (n : CellId) (layer : Nat) : State :=
  if bitB (s.freg (FR.HR_STATUS n)) (4 + layer) then s.count (FR.HR_BYPASS_CNT n) else s

/-- The layer that holds a window offset (R212, R213). -/
def winLayer (off : Nat) : Nat := off / 0x100000 / 6

/-- A byte of a window when nothing is listed for it: zero, or undefined after a fatal error (R215, R496). -/
def Slice.winDef (x : Slice) (k : Nat) : Byte := if k < x.winUndef then Config.undefByte x.winEpoch k else 0

/-- len bytes of a window from offset off, alone. -/
def Slice.winBytes (x : Slice) (off len : Nat) : List Byte := SMap.getRange x.winDef x.win off len

/-- len bytes of a window from offset off. -/
def State.winRead (s : State) (n : CellId) (off len : Nat) : List PByte :=
  withPoison (s.slice n).winPoison off ((s.slice n).winBytes off len)

/-- Bytes written to a window; a whole unit loses its poison (R241). -/
def State.winWrite (s : State) (n : CellId) (off : Nat) (bs : List PByte) : State :=
  s.modSlice n (fun x =>
    { x with win := SMap.setRange x.winDef x.win off (plain bs), winPoison := poisonAfter x.winPoison off bs })

/-- The outcome of reading the frame that holds window offset `off` (R241): an uncorrectable error poisons every unit of
the frame. -/
def State.winEcc (s : State) (e : WinEcc) : State :=
  let n := e.slice
  let s := s.count (FR.HR_ECC_CORR_CNT n) (b2n e.corrected)
  if !e.bad then s
  else
    let f := e.off / 512 * 512
    let s := s.modSlice n (fun x => { x with winPoison := x.winPoison.addRange (f / 64) 8 })
    (s.count (FR.HR_ECC_UNCORR_CNT n)).logEvent 0x0204 n.val 2 f 0 0

end Sys2Proof.Machine
end

