-- ==== Sys2Proof/Machine/Semaphore.lean ====
section
/-! DEFINITION. Semaphores: posts, lines of waiters and condition marks (R278 to R282), and the failure
of a stream transfer, which sets marks (R301 to R303). -/

namespace Sys2Proof.Machine

/-- Semaphore k of a cell. -/
def Cell.sem (x : Cell) (k : BitVec 6) : Sem := x.sems[k.toNat]

/-- Semaphore k replaced. -/
def Cell.setSem (x : Cell) (k : BitVec 6) (v : Sem) : Cell := { x with sems := x.sems.set k.toNat v }

/-- Slot n of the stream engine. -/
def Cell.slot (x : Cell) (n : Fin 6) : Option Transfer := x.slots[n]

/-- Slot n replaced. -/
def Cell.setSlot (x : Cell) (n : Fin 6) (t : Option Transfer) : Cell :=
  { x with slots := x.slots.set n t }

/-- The first free slot of the stream engine. -/
def Cell.freeSlot (x : Cell) : Option (Fin 6) := (List.finRange 6).find? (fun n => (x.slot n).isNone)

/-! ### Fields of the stream descriptor (R284) and of the auxiliary record (R287) -/

/-- Field [hi:lo] of the descriptor of a transfer. -/
def Transfer.f (t : Transfer) (hi lo : Nat) : Nat := bits t.desc.toNat hi lo
/-- Whether the auxiliary record is read. -/
def Transfer.auxEn (t : Transfer) : Bool := bitB t.desc.toNat 484
/-- Field [hi:lo] of the auxiliary record, 0 where none is read. -/
def Transfer.a (t : Transfer) (hi lo : Nat) : Nat := if t.auxEn then bits t.aux.toNat hi lo else 0
/-- Whether each completed chunk posts to full_sem. -/
def Transfer.fullEn (t : Transfer) : Bool := t.a 328 328 == 1
/-- Whether each chunk takes its empty semaphore. -/
def Transfer.emptyEn (t : Transfer) : Bool := t.a 343 343 == 1
/-- The semaphore full_sem and the cell that owns it. -/
def Transfer.fullSem (t : Transfer) : BitVec 6 := BitVec.ofNat 6 (t.a 334 329)
/-- The cell full_cell. -/
def Transfer.fullCell (t : Transfer) : CellId := cellNo (t.a 342 335)
/-- The semaphore empty_sem. -/
def Transfer.emptySem (t : Transfer) : BitVec 6 := BitVec.ofNat 6 (t.a 349 344)

/-- SX_Dn_STATUS.state (R315). -/
def SlotSt.code : SlotSt → Nat
  | .running => 1 | .pageWait _ => 2 | .semWait => 3 | .failed => 4

/-- SX_Dn_STATUS (R315). -/
def slotStatus : Option Transfer → Nat
  | none => 0
  | some t => t.st.code + b2n t.chunkHeld * 256 + b2n t.implicit * 512 + t.reason % 16 * 2 ^ 20
      + t.detail % 256 * 2 ^ 24 + min t.pinMiss.length 65535 * 2 ^ 32

/-! ### Posts (R278 to R282) -/

/-- A post of n to semaphore k, as it reaches the semaphore (R279). -/
def State.addPost (s : State) (c : CellId) (k : BitVec 6) (n : Nat) : State :=
  let x := (s.cell c).count CR.SEM_POST_CNT
  let m := x.sem k
  let v := m.count.toNat + n
  if v ≤ 65535 then s.setCell c (x.setSem k { m with count := BitVec.ofNat 16 v })
  else
    let x := (x.setSem k { m with count := 65535, ovf := true }).count CR.SEM_OVF_CNT
    (s.setCell c x).logEvent 0x0104 c.val 5 0 k.toNat 0

/-- The classes of error of the halt reasons (R302). -/
def haltClass (reason : Nat) : Nat := if reason = 3 ∨ reason = 4 then 3 else 5

/-- The fault of a SEMWAIT on a marked semaphore, where a mark is set (R281, R313). -/
def Sem.markFault (m : Sem) (k : BitVec 6) : Option FaultInfo :=
  if m.failed then
    some { cause := 0x61, detail := k.toNat, unit := .sx, cls := if m.failedUc then 3 else 5 }
  else if m.ovf then some { cause := 0x62, detail := k.toNat, unit := .q, cls := 5 }
  else none

/-- The oldest uncommitted instruction holds fault f. -/
def Cell.faultHead (x : Cell) (f : FaultInfo) : Cell :=
  match x.window with
  | [] => x
  | e :: w => { x with window := { e with fault := some f } :: w }

/-- The size of an element of a stream format (R286); RAW elements are bytes. -/
def streamSize (fmt : Nat) : Nat := if fmt = 0 then 4 else if fmt = 1 ∨ fmt = 2 then 2 else 1

/-- A transfer whose granule at the position is aborted (R301): what the granule had put behind the bytes
already in a conveyor is dropped. -/
def Transfer.abort (t : Transfer) : Transfer :=
  if t.read then { t with read := false, ev := {}, out := t.out.take (t.elt * streamSize (t.f 127 124) - t.sent) } else t

/-- A transfer halts at its position for good (R301, R303): it enters state 4 with its reason. A halt with
reason 1 that becomes reason 2 has been counted. -/
def Cell.haltSlot (x : Cell) (n : Fin 6) (t : Transfer) (reason detail va : Nat) : Cell :=
  let x := x.setSlot n (some { t.abort with st := .failed, reason, detail, faultVa := va })
  match t.st with
  | .pageWait _ => if reason = 2 then x else x.count CR.SX_HALT_CNT
  | _ => x.count CR.SX_HALT_CNT

/-- The info1 word of record 0x0105 (R501). -/
def failInfo (t : Transfer) (n : Fin 6) : Nat :=
  n.val + (if t.pen then 2 ^ 7 + t.psem.toNat * 2 ^ 8 else 0)
    + (if t.fullEn then 2 ^ 15 + t.fullSem.toNat * 2 ^ 16 + t.fullCell.val * 2 ^ 24 else 0)

/-- Each link of the list halts with reason 9 (R281); the argument runs one failure. -/
def haltLinks (fail : Fin 6 → Transfer → State → State) (c : CellId) :
    List Waiter → State → State
  | [], s => s
  | .seq _ :: w, s => haltLinks fail c w s
  | .link n :: w, s =>
    haltLinks fail c w (match (s.cell c).slot n with
      | some t => fail n t s
      | none => s)

/-- Whether a SEMWAIT waits in a line. -/
def waitsSeq (l : List Waiter) : Bool :=
  l.any (fun w => match w with | .seq _ => true | .link _ => false)

/-- The line of a semaphore dissolves as a mark is met: a SEMWAIT in it faults (R281). -/
def Cell.meetMark (x : Cell) (k : BitVec 6) : Cell :=
  let m := x.sem k
  match m.markFault k with
  | none => x
  | some f =>
    let x' := x.setSem k { m with line := [] }
    if waitsSeq m.line then x'.faultHead f else x'

/-- The failed mark of a semaphore is set, and failed_uc with it where uc says so (R303). -/
def Cell.markFailed (x : Cell) (k : BitVec 6) (uc : Bool) : Cell :=
  let m := x.sem k
  (x.setSem k { m with failed := true, failedUc := m.failedUc || uc }).meetMark k

/-- A transfer fails (R303): state 4, the marks of its completion semaphore and of full_sem, and
record 0x0105. Whoever waits on a marked semaphore meets the mark at once (R281): a SEMWAIT faults, a
link halts with reason 9, which marks its own semaphores in turn. The first argument bounds that
chain; each transfer fails at most once, so 1,536 failures are all there can be. -/
def failTransfer : Nat → CellId → Fin 6 → Transfer → Nat → Nat → Nat → State → State
  | 0, _, _, _, _, _, _, s => s
  | fuel + 1, c, n, t, reason, detail, va, s =>
    let uc := decide (haltClass reason = 3)
    let fc := t.fullCell
    let s := s.modCell c (fun x => x.haltSlot n t reason detail va)
    let l1 := if t.pen then ((s.cell c).sem t.psem).line else []
    let s := if t.pen then s.modCell c (fun x => x.markFailed t.psem uc) else s
    let l2 := if t.fullEn then ((s.cell fc).sem t.fullSem).line else []
    let s := if t.fullEn then s.modCell fc (fun x => x.markFailed t.fullSem uc) else s
    let s := s.logEvent 0x0105 c.val (haltClass reason) va (slotStatus ((s.cell c).slot n))
      (failInfo t n)
    let go (c : CellId) (k : BitVec 6) : Fin 6 → Transfer → State → State :=
      fun n t s => failTransfer fuel c n { t with chunkHeld := false } 9 k.toNat 0 s
    haltLinks (go fc t.fullSem) fc l2 (haltLinks (go c t.psem) c l1 s)

/-- The transfer in slot n of cell c fails (R303). -/
def State.failSlot (s : State) (c : CellId) (n : Fin 6) (reason detail va : Nat) : State :=
  match (s.cell c).slot n with
  | some t => failTransfer 1537 c n t reason detail va s
  | none => s

/-- The waiters of a semaphore whose ovf mark has just been set meet it (R281). -/
def State.meetOvf (s : State) (c : CellId) (k : BitVec 6) : State :=
  let l := ((s.cell c).sem k).line
  haltLinks (fun n t s => failTransfer 1537 c n { t with chunkHeld := false } 9 k.toNat 0 s) c l
    (s.modCell c (fun x => x.meetMark k))

/-- A cell is held in reset while it is woken for one (R507). -/
def Cell.inReset (x : Cell) : Bool := x.cp.goal.reset

/-- A post of n to semaphore k of cell c from anywhere (R278, R282). At a cell held in reset it is discarded. At a
cell that is asleep it waits at the mesh port and asks for the wake; otherwise it ends DOZE (R443) and is added, and
waiters meet the ovf mark if it saturates. -/
def State.post (s : State) (c : CellId) (k : BitVec 6) (n : Nat) : State :=
  let x := s.cell c
  if x.inReset then s
  else match x.cp.st with
  | .asleep | .waking =>
    (s.setCell c { x with cp := { x.cp with held := x.cp.held ++ [⟨k, n⟩] } }).requestWake c
  | .awake | .doze =>
    let s := (s.endDoze c).addPost c k n
    if ((s.cell c).sem k).ovf then s.meetOvf c k else s

/-- A post by cell `src` (R282): the wait for a sleeping target counts against it as a wake stall, and one that a
cell held in reset discards in SEM_POST_DROP_CNT. -/
def State.postFrom (s : State) (src c : CellId) (k : BitVec 6) (n : Nat) : State :=
  if (s.cell c).inReset then s.countC src CR.SEM_POST_DROP_CNT
  else
  let asleep := match (s.cell c).cp.st with
    | .asleep | .waking => true
    | .awake | .doze => false
  let s := s.post c k n
  if asleep then s.stall src CR.SX_STALL_WAKE_CNT else s

/-- A completion post of an instruction (R189). -/
def State.completionPost (s : State) (c : CellId) (pen : Bool) (k : BitVec 6) : State :=
  if pen then s.post c k 1 else s

/-! ### Waits (R280) -/

/-- The first waiter of a line takes its count if the count is enough: a SEMWAIT is granted, a link
holds its chunk (R280, R297). -/
def Cell.serveSem (x : Cell) (k : BitVec 6) : Option Cell :=
  let m := x.sem k
  match m.line with
  | [] => none
  | .seq n :: w =>
    if n ≤ m.count.toNat then
      let x := x.setSem k { m with count := m.count - BitVec.ofNat 16 n, line := w }
      let x := x.count CR.SEM_WAIT_CNT
      match x.window with
      | [] => some x
      | e :: r => some { x with window := { e with granted := some 0 } :: r }
    else none
  | .link i :: w =>
    if 1 ≤ m.count.toNat then
      let x := x.setSem k { m with count := m.count - 1, line := w }
      let x := x.count CR.SEM_WAIT_CNT
      match x.slot i with
      | some t => some (x.setSlot i (some { t with st := .running, chunkHeld := true }))
      | none => some x
    else none

/-- Waiters are served in line order until one is not satisfied (R280, R319). -/
def Cell.serveAll : Nat → Cell → BitVec 6 → Cell
  | 0, x, _ => x
  | fuel + 1, x, k =>
    match x.serveSem k with
    | some x' => Cell.serveAll fuel x' k
    | none => x

/-- A register write to SEM_VALn (R319): the count is set, the marks written with 1 are cleared, and
waiters whose counts are then met are woken in line order. -/
def Cell.writeSem (x : Cell) (k : BitVec 6) (v : Nat) : Cell :=
  let m := x.sem k
  let clr := bitB v 17
  let x := x.setSem k
    { m with count := BitVec.ofNat 16 v, ovf := m.ovf && !bitB v 16, failed := m.failed && !clr,
             failedUc := m.failedUc && !clr }
  Cell.serveAll (m.line.length) x k

/-- SEM_VALn as it reads (R319). -/
def Sem.view (m : Sem) : Nat :=
  m.count.toNat + b2n m.ovf * 2 ^ 16 + b2n m.failed * 2 ^ 17 + b2n m.failedUc * 2 ^ 18

end Sys2Proof.Machine
end

