-- ==== Sys2Proof/Machine/Conveyor.lean ====
section
/-! DEFINITION. Conveyors: positions, items, packets, marks and configuration (R308 to R312, R317). -/

namespace Sys2Proof.Machine

/-- Conveyor k of a cell. -/
def Cell.conv (x : Cell) (k : BitVec 4) : Conveyor := x.qs[k.toNat]

/-- Conveyor k replaced. -/
def Cell.setConv (x : Cell) (k : BitVec 4) (v : Conveyor) : Cell := { x with qs := x.qs.set k.toNat v }

/-- Q_CFGn.en. -/
def Conveyor.en (v : Conveyor) : Bool := v.cfg.getLsbD 31
/-- The capacity in items (R317). -/
def Conveyor.cap (v : Conveyor) : Nat := 64 * (bits v.cfg.toNat 27 24 + 1)
/-- Whether the conveyor lies in the window (R317). -/
def Conveyor.inWin (v : Conveyor) : Bool := v.cfg.getLsbD 28
/-- Where item i is stored, as an offset in OC or in the window (R308). -/
def Conveyor.addr (v : Conveyor) (i : BitVec 32) : Nat :=
  bits v.cfg.toNat 44 32 * 4096 + i.toNat % v.cap * 64
/-- Whether W - F equals the capacity (R308). -/
def Conveyor.full (v : Conveyor) : Bool := v.cap ≤ (v.w - v.f).toNat
/-- Whether Rd = W (R308). -/
def Conveyor.empty (v : Conveyor) : Bool := v.rd == v.w
/-- Whether a position lies from Rd to W - 1. -/
def Conveyor.unread (v : Conveyor) (p : Nat) : Bool :=
  decide ((BitVec.ofNat 32 p - v.rd).toNat < (v.w - v.rd).toNat)
/-- The whole packets waiting: the marked items between Rd and W (R310). -/
def Conveyor.pkts (v : Conveyor) : Nat := (v.ends.filter v.unread).length
/-- The conveyor with only the positions from F to W - 1 still noted. -/
def Conveyor.prune (v : Conveyor) : Conveyor :=
  let live p := decide ((BitVec.ofNat 32 p - v.f).toNat < (v.w - v.f).toNat)
  { v with ends := v.ends.filter live, bad := v.bad.filter live }

/-- F moved to Rd; a mark before the new F moves to it (R310). -/
def Conveyor.release (v : Conveyor) : Conveyor :=
  let mark := if decide ((v.mark - v.f).toNat < (v.rd - v.f).toNat) then v.rd else v.mark
  { v with f := v.rd, mark := if v.markValid then mark else v.mark }.prune

/-- Whether a producer still has something to write into conveyor k of cell c: the cell's oldest instruction is a QPUSH
to it, or the slot runs a transfer to it and has read bytes for it. -/
def State.produces (s : State) (c : CellId) (k : BitVec 4) : Producer → Bool
  | .push => ((s.cell c).window.head?).any (fun e => e.ins.op == .qpush && e.ins.x.q == k && e.fault.isNone)
  | .slot j n => ((s.cell j).slot n).any (fun t => t.st == .running && t.read && !t.implicit && t.f 123 121 == 3 &&
      cellNo (t.f 71 64) == c && BitVec.ofNat 4 (t.f 75 72) == k)
  | .gone => false

/-- The producers that wait to write into conveyor k of cell c, in the order in which they are served (R309). -/
def State.convLine (s : State) (c : CellId) (k : BitVec 4) : List Producer :=
  ((s.cell c).conv k).waiting.filter (s.produces c k)

/-- Whether item i of conveyor k lies in a part of the window that a resize is changing, so that an access to it waits
(R215). -/
def State.convStuck (s : State) (c : CellId) (k : BitVec 4) (i : BitVec 32) : Bool :=
  let v := (s.cell c).conv k
  v.inWin && match s.winCheck c (v.addr i) 64 with
    | .wait _ _ => true
    | _ => false

/-- Whether a producer may write an item now (R309): the conveyor is enabled and has room, and the producer's own packet
is open, or none is and it is the first of those that wait. -/
def State.convAccepts (s : State) (c : CellId) (k : BitVec 4) (p : Producer) : Bool :=
  let v := (s.cell c).conv k
  v.en && !v.full && !s.convStuck c k v.w && match v.openBy with
    | some o => o == p
    | none =>
      match s.convLine c k with
      | [] => true
      | q :: _ => q == p

/-- A producer that may not write waits behind those that wait already (R309). One whose packet is open waits for room
alone. -/
def State.convJoin (s : State) (c : CellId) (k : BitVec 4) (p : Producer) : State :=
  let v := (s.cell c).conv k
  let l := s.convLine c k
  if v.openBy = some p || l.contains p then s
  else s.modCell c (fun x => x.setConv k { v with waiting := l ++ [p] })

/-- What the read of an item of conveyor k of cell c leaves: one beyond the configured window is poisoned (R317), and one in
the window may take the neighbour path (R238). -/
def State.spoilItem (s : State) (c : CellId) (k : BitVec 4) (i : BitVec 32) : State :=
  let v := (s.cell c).conv k
  if v.inWin && !decide (v.addr i + 64 ≤ s.winSize c) then
    s.modCell c (fun x => x.setConv k { v with bad := v.bad.add i.toNat })
  else if v.inWin then s.countBypass c (winLayer (v.addr i))
  else s

/-- The item at Rd with the poison of its unit, and whether it carries an end mark. An item written or
read beyond the configured window is poisoned (R317). -/
def State.convItem (s : State) (c : CellId) (k : BitVec 4) (i : BitVec 32) : List PByte × Bool :=
  let x := s.cell c
  let v := x.conv k
  let a := v.addr i
  let bad := v.bad.has i.toNat
  let d := if v.inWin then
      (if a + 64 ≤ s.winSize c then s.winRead c a 64 else (clean (List.replicate 64 0)).map (fun b => (b.1, true)))
    else withPoison x.ocPoison a (x.ocRead a 64)
  (d.map (fun b => (b.1, b.2 || bad)), v.ends.has i.toNat)

/-- One item written at W by a producer that may (R309): W advances, the packet stays open or closes,
Q_PUSH_CNT counts, and a marked item posts its notice (R311). An item ends DOZE (R443). -/
def State.convPush (s : State) (c : CellId) (k : BitVec 4) (p : Producer) (d : List PByte) (eop : Bool) :
    State :=
  let s := s.endDoze c
  let x := s.cell c
  let v := x.conv k
  let a := v.addr v.w
  let i := v.w.toNat
  let out := v.inWin && !decide (a + 64 ≤ s.winSize c)
  let v' := { v with
    w := v.w + 1, openBy := if eop then none else some p, waiting := v.waiting.filter (· != p)
    ends := if eop then v.ends.add i else v.ends.del i
    bad := if out then v.bad.add i else v.bad.del i }
  let x := (x.setConv k v').count CR.Q_PUSH_CNT
  let x := if v.inWin then x else
    { (x.ocWrite a (plain d)) with ocPoison := poisonAfter x.ocPoison a d }
  let s := s.setCell c x
  let s := if v.inWin && !out then (s.countBypass c (winLayer a)).winWrite c a d else s
  if eop && v.cfg.getLsbD 16 then s.post c (BitVec.ofNat 6 (bits v.cfg.toNat 13 8)) 1 else s

/-- Q_CFGn with a value written by its masks (R317): a value that would place the conveyor beyond its
storage leaves the register as it is; fields other than en take effect only while en is 0, and
clearing en discards the contents (R312). -/
def Conveyor.writeCfg (v : Conveyor) (w : Nat) : Conveyor :=
  let w := w &&& 0x1FFF9F013F00
  let stop := bits w 44 32 + bits w 27 24 + 1
  if v.en then (if bitB w 31 then v else { cfg := BitVec.ofNat 64 (putBits v.cfg.toNat 31 31 0) })
  else if (!bitB w 28 && decide (64 < stop)) || (bitB w 28 && decide (5376 < stop)) then v
  else { v with cfg := BitVec.ofNat 64 w }

/-- Q_STATn (R317). -/
def Conveyor.stat (v : Conveyor) : Nat :=
  v.pkts % 2048 + b2n v.empty * 2 ^ 28 + b2n v.full * 2 ^ 29 + b2n v.openBy.isSome * 2 ^ 30
    + b2n v.markValid * 2 ^ 31

end Sys2Proof.Machine
end

