-- ==== Sys2Proof/Machine/Directory.lean ====
section
/-! DEFINITION. The coherent cache: lines and their frames (R217 to R219), the directory (R220 to R223),
traffic classes and pinning (R230 to R233), in-cache reductions (R226 to R228) and evictions (R233 to
R235). -/

namespace Sys2Proof.Machine

/-- The home entry of line la (physical address / 256); `i` when it is not in its home (R221). -/
def State.line (s : State) (la : Nat) : Line := s.mem.lines.get (fun _ => {}) la

/-- The home entry of a line set; an entry equal to that of an absent line is not listed. -/
def State.setLine (s : State) (la : Nat) (l : Line) : State :=
  { s with mem := { s.mem with lines := s.mem.lines.set (fun _ => {}) la l } }

/-- The home entry of a line changed. -/
def State.modLine (s : State) (la : Nat) (f : Line → Line) : State := s.setLine la (f (s.line la))

/-- n bytes of a line from offset off, with the poison of their sectors. -/
def Line.read (l : Line) (off n : Nat) : List PByte :=
  withPoison l.poison off (leBytes n (l.data.toNat >>> (8 * off)))

/-- Bytes written into a line from offset off; a whole sector loses its poison (R241). -/
def Line.put (l : Line) (off : Nat) (bs : List PByte) : Line :=
  if bs = [] then l
  else
    { l with
      data := BitVec.ofNat 2048
        (putBits l.data.toNat (8 * (off + bs.length) - 1) (8 * off) (leNat (plain bs)))
      poison := poisonAfter l.poison off bs }

/-! ### Compression (R218, R219) -/

/-- The n-th field of w bits of a line. -/
def lineField (x w i : Nat) : Nat := (x >>> (w * i)) % 2 ^ w

/-- The smallest and largest exponent field of the non-zero 16-bit words of a line, and how many such
words there are. -/
def bfSpan (x : Nat) : Nat → Nat × Nat × Nat
  | 0 => (256, 0, 0)
  | i + 1 =>
    let r := bfSpan x i
    let h := lineField x 16 i
    if h = 0 then r else (min r.1 (bits h 14 7), max r.2.1 (bits h 14 7), r.2.2 + 1)

/-- The first scheme of R218 that data qualify for. -/
def schemeOf (x : Nat) : Scheme :=
  if 2 ≤ ((List.range 4).filter (fun i => lineField x 512 i == 0)).length then .zeroSector
  else if (List.range 64).all (fun i => lineField x 32 i / 65536 == 0) then .highZero
  else
    let r := bfSpan x 128
    if r.2.2 ≤ 80 ∧ r.2.1 ≤ r.1 + 7 then .baseDelta else .raw

/-- The scheme a line is stored in (R218, R219): pinned lines, lines in A and lines of a class that is
not compressed stay whole. -/
def State.schemeFor (s : State) (l : Line) : Scheme :=
  let m := s.freg FR.HR_MODE
  if !bitB m 0 || bitB m (16 + l.cls.val) || l.pinned || l.st == .a then .raw
  else schemeOf l.data.toNat

/-- The 128-byte slots that a scheme takes (R217). -/
def Scheme.slots : Scheme → Nat
  | .raw => 2
  | _ => 1

/-- Whether a request for line la is held back, or a record of the device waits to be written there (R222, R229). -/
def State.queued (s : State) (la : Nat) : Bool :=
  s.mem.backed.any (fun b => b.1 == la) || s.mem.posted.any (fun p => p.1 / 256 ≤ la && la ≤ (p.1 + p.2.length - 1) / 256)

/-- Line la used by a read (R233): its entry as l, now the most recently used. -/
def State.used (s : State) (la : Nat) (l : Line) : State :=
  let tick := s.mem.lruTick + 1
  State.setLine { s with mem := { s.mem with lruTick := tick } } la { l with lru := tick }

/-! ### Host copies (R220, R415) -/

/-- The 64-byte blocks of line la that the host holds and that an access must call back (R415): for a write
every one, for a read those held exclusively. -/
def State.hostBlocks (s : State) (la : Nat) (write : Bool) : List Nat :=
  (s.hs.held.filter (fun h => h.1 / 4 == la && (write || h.2))).map (·.1)

/-- The back-invalidates that an access to line la needs are sent, each once (R415); true stands for
BISnpInv. -/
def State.recall (s : State) (la : Nat) (write : Bool) : State :=
  (s.hostBlocks la write).foldl (fun s b =>
    if s.hs.snooped.any (fun n => n.1 == b) then s
    else State.count { s with hs := { s.hs with snooped := s.hs.snooped ++ [(b, write)] } } FR.HI_BISNP_CNT) s

/-- The back-invalidates for several lines. -/
def State.recallAll (s : State) (ps : List (Nat × Nat × Nat)) (write : Bool) : State :=
  ps.foldl (fun s q => s.recall q.1 write) s

/-- Whether line la must first be brought in. -/
def State.absent (s : State) (la : Nat) : Bool := (s.line la).st == .i

/-! ### Holders (R220, R221) -/

/-- Whether cell c has a near copy of a line. -/
def Line.holds (l : Line) (c : CellId) : Bool := l.near.any (fun k => k.cell == c)

/-- Whether the entry has no holder. -/
def Line.noHolder (l : Line) : Bool :=
  match l.holders with
  | .cells h => h.isEmpty
  | .bands v => v == 0

/-- A line whose every holder is invalidated (R222). -/
def Line.alone (l : Line) : Line := { l with holders := .cells [], near := [] }

/-- Holders with a fifth one turned into bands (R221). -/
def Holders.add (h : Holders) (c : CellId) : Holders :=
  match h with
  | .cells l =>
    if l.contains c then h
    else if l.length < 4 then .cells (c :: l)
    else .bands ((c :: l).foldl (fun v k => v ||| BitVec.ofNat 16 (2 ^ (bandOf k).val)) 0)
  | .bands v => .bands (v ||| BitVec.ofNat 16 (2 ^ (bandOf c).val))

/-- A line whose near copy in the slice of cell c has gone (R222): the home is told. A modified one has written its data
to the home. Band bits stay, since they stand for other cells too. -/
def Line.lose (l : Line) (c : CellId) : Line :=
  let near := l.near.filter (fun k => k.cell != c)
  match l.st with
  | .m | .e => { l with st := .s, holders := .cells [], near }
  | _ =>
    match l.holders with
    | .cells h => { l with holders := .cells (h.filter (· != c)), near }
    | .bands _ => { l with near }

/-! ### Frames (R212, R217, R219, R233) -/

/-- How many layers of slice n are retired (R239). -/
def State.retiredLayers (s : State) (n : CellId) : Nat :=
  let r := s.freg (FR.HR_STATUS n)
  b2n (bitB r 8) + b2n (bitB r 9) + b2n (bitB r 10) + b2n (bitB r 11)

/-- The frames of a set that a window of `units` fills (R213): ways from way 0 on, the last for its lowest sets. -/
def winFrames (units σ : Nat) : Nat := units * 128 / 2048 + b2n (σ < units * 128 % 2048)

/-- The frames of set σ of slice n that hold neither retired ways nor window data. -/
def State.setFrames (s : State) (n : CellId) (σ : Nat) : Nat :=
  24 - 6 * s.retiredLayers n - winFrames (bits (s.freg (FR.HR_WIN_CFG n)) 8 0) σ

/-- The ways of set σ of slice n whose frames hold lines: those above the window and below the retired ways (R212, R213,
R239). -/
def State.cacheWays (s : State) (n : CellId) (σ : Nat) : List Nat :=
  let lo := winFrames (bits (s.freg (FR.HR_WIN_CFG n)) 8 0) σ
  (List.range (s.setFrames n σ)).map (fun i => lo + i)

/-- Whether a line has a frame at its home: it is there, and its data have not gone to a write-back buffer (R235). -/
def Line.resident (l : Line) : Bool := l.st != .i && !l.leaving

/-- The 128-byte slots a line takes at its home (R217). -/
def Line.slots (l : Line) : Nat := l.scheme.slots

/-- What a slice holds in a set: a line at its home, or a near copy of it, with its frame and slots, whether the evictor
may choose it, and whether the adder holds contributions for it (R217, R233, R234). -/
structure Resident where
  la : Nat
  near : Bool
  way : Nat
  slot : Nat
  len : Nat
  lru : Nat
  pinned : Bool
  held : Bool
  deriving DecidableEq, Repr

/-- What a line puts into set σ of slice n. -/
def Line.residents (l : Line) (la : Nat) (n : CellId) : List Resident :=
  (if l.resident && homeSlice (la * 256) == n then
    [⟨la, false, l.way, l.slot, l.slots, l.lru, l.pinned, !l.held.isEmpty⟩] else []) ++
  (l.near.filter (fun k => k.cell == n)).map (fun k =>
    ⟨la, true, k.way, k.slot, k.scheme.slots, k.lru, false, false⟩)

/-- What slice n holds in set σ. -/
def State.residents (s : State) (n : CellId) (σ : Nat) : List Resident :=
  s.mem.lines.flatMap (fun e => if homeSet (e.1 * 256) == σ then e.2.residents e.1 n else [])

/-- The first of the free places of `len` slots in way w beside what is there (R217): two adjacent slots, or one. -/
def fitSlot (rs : List Resident) (w len : Nat) : Option Nat :=
  let used i := rs.any (fun r => r.way == w && r.slot ≤ i && i < r.slot + r.len)
  (if len = 2 then [0, 2, 1] else [0, 1, 2, 3]).find? (fun i => !used i && (len = 1 || !used (i + 1)))

/-- A place for `len` slots among the ways of a set: the one it has while it is large enough, another in the same frame,
or a free choice among the frames with room (R217, R219, log entry 187). The place it has is way, slot, slots. -/
def findPlace (tick : Nat) (own : Option (Nat × Nat × Nat)) (ways : List Nat) (rs : List Resident) (len : Nat) :
    Option (Nat × Nat) :=
  let other :=
    let ok := ways.filterMap (fun w => (fitSlot rs w len).map (fun i => (w, i)))
    if ok.isEmpty then none else some (ok.getD (Config.framePick tick % ok.length) (0, 0))
  match own with
  | none => other
  | some (w, i, k) =>
    if len ≤ k then some (w, i)
    else match fitSlot rs w len with
      | some i => some (w, i)
      | none => other

/-- The least recently used of what the evictor may choose: neither pinned nor reduction-held (R233). -/
def lruOf : List Resident → Option Resident
  | [] => none
  | e :: es =>
    if e.pinned || e.held then lruOf es
    else match lruOf es with
      | none => some e
      | some b => if e.lru ≤ b.lru then some e else some b

/-- What stays of a line that has gone from its home: the next tag and the waiting contributions of an open epoch, in its
miss register (R235), and its pin (R232). -/
def Line.gone (l : Line) : Line := { epoch := l.epoch, pinned := l.pinned, cls := if l.pinned then l.cls else 0 }

/-- A line gone from its home with every near copy, written back if dirty (R222). -/
def State.dropLine (s : State) (la : Nat) : State :=
  let l := s.line la
  let s := if l.dirty then s.rawWrite (la * 256) (l.read 0 256) else s
  s.setLine la l.gone

/-- A line evicted from its home (R222, R235): near copies and host copies are invalidated. It is leaving until memory has
acknowledged its write-back and the host has given back what it holds; a clean line that the host does not hold is
gone at once. -/
def State.evictHome (s : State) (la : Nat) : State :=
  let s := s.recall la true
  let l := s.line la
  if l.dirty || s.hostBlocks la true != [] then
    s.setLine la { l.alone with st := if l.st == .a then .a else .s, leaving := true }
  else s.dropLine la

/-- Whether slice n can take an uncompressed copy of line la in its set, with all that does not stay out of the way. -/
def State.roomBeside (s : State) (stays : Resident → Bool) (n : CellId) (la : Nat) : Bool :=
  let σ := homeSet (la * 256)
  let rs := (s.residents n σ).filter (fun r => r.la != la && stays r)
  (s.cacheWays n σ).any (fun w => (fitSlot rs w 2).isSome)

/-- Whether a resident is a modified near copy, which writes its data to its home when it leaves (R222). -/
def State.nearM (s : State) (r : Resident) : Bool := r.near && (s.line r.la).st == .m

/-- Whether the home of line la can take it uncompressed with no modified near copy there leaving. -/
def State.homeRoom (s : State) (la : Nat) : Bool :=
  s.roomBeside (fun r => r.pinned || r.held || s.nearM r) (homeSlice (la * 256)) la

/-- Whether the evictor may not choose a resident now (R219, R233): it is pinned or reduction-held, or a modified near copy
whose home has no frame for its data. -/
def State.stays (s : State) (r : Resident) : Bool := r.pinned || r.held || (s.nearM r && !s.homeRoom r.la)

/-- Room for `len` slots of a line in set σ of slice n: the least recently used lines and near copies leave until some
frame has it (R219, R233). A modified near copy that leaves writes its data to its home, where they are stored anew.
The first argument bounds the evictions; the lines of the list, which are being stored, stay, and the first of them is the
one that room is made for. No place is found where nothing more may leave. -/
def State.roomFor : Nat → CellId → Nat → List Nat → Option (Nat × Nat × Nat) → Nat → State → State × Option (Nat × Nat)
  | 0, _, _, _, _, _, s => (s, none)
  | fuel + 1, n, σ, las, own, len, s =>
    let rs := s.residents n σ
    match findPlace s.mem.lruTick own (s.cacheWays n σ) (rs.filter (fun r => some r.la != las.head?)) len with
    | some p => (s, some p)
    | none =>
      match lruOf (rs.filter (fun r => !las.contains r.la && !s.stays r)) with
      | none => (s, none)
      | some v =>
        if v.near then
          let l := s.line v.la
          let l' := l.lose n
          if l.st == .m then
            let sc := s.schemeFor l'
            let r := State.roomFor fuel (homeSlice (v.la * 256)) σ (v.la :: las) (some (l.way, l.slot, l.slots)) sc.slots s
            let p := r.2.getD (l.way, l.slot)
            State.roomFor fuel n σ las own len (r.1.setLine v.la { l' with scheme := sc, way := p.1, slot := p.2 })
          else State.roomFor fuel n σ las own len (s.setLine v.la l')
        else State.roomFor fuel n σ las own len (s.evictHome v.la)

/-- A line written into its frame, after a fill, a write or the application of a reduction (R218): in the first scheme
that it qualifies for, moved where it has grown (R219). -/
def State.place (s : State) (la : Nat) (l : Line) : State :=
  let sc := s.schemeFor l
  let o := s.line la
  let own := if o.resident then some (o.way, o.slot, o.slots) else none
  let r := State.roomFor 512 (homeSlice (la * 256)) (homeSet (la * 256)) [la] own sc.slots s
  let p := r.2.getD (o.way, o.slot)
  r.1.used la { l with scheme := sc, way := p.1, slot := p.2 }

/-- An access that slice n serves from way w counts in HR_BYPASS_CNT where its layer is on the neighbour path (R212,
R238). -/
def State.viaPath (s : State) (n : CellId) (w : Nat) : State :=
  if bits (s.freg (FR.HR_STATUS n)) 7 4 = 0 then s else s.countBypass n (w / 6)

/-- The path of an access that the home of a line serves. -/
def State.homePath (s : State) (la : Nat) : State := s.viaPath (homeSlice (la * 256)) (s.line la).way

/-- A near copy of line la written into a frame of cell c's own slice (R220), in class CLS0 (R230). -/
def State.placeNear (s : State) (c : CellId) (la : Nat) : State :=
  let l := s.line la
  let sc := s.schemeFor { l with cls := 0, pinned := false }
  let own := (l.near.find? (fun k => k.cell == c)).map (fun k => (k.way, k.slot, k.scheme.slots))
  let r := State.roomFor 512 c (homeSet (la * 256)) [la] own sc.slots s
  let p := r.2.getD (0, 0)
  let tick := r.1.mem.lruTick + 1
  State.viaPath (State.modLine { r.1 with mem := { r.1.mem with lruTick := tick } } la (fun l =>
    { l with near := l.near.filter (fun k => k.cell != c) ++ [⟨c, p.1, p.2, sc, tick⟩] })) c p.1

/-- The near copy of cell c used by a read (R233). -/
def State.usedNear (s : State) (c : CellId) (la : Nat) : State :=
  let tick := s.mem.lruTick + 1
  State.modLine { s with mem := { s.mem with lruTick := tick } } la (fun l =>
    { l with near := l.near.map (fun k => if k.cell = c then { k with lru := tick } else k) })

/-- A line that one cell holds modified is recalled: its data are written into its home frame (R222). -/
def State.bringHome (s : State) (la : Nat) : State :=
  let l := s.line la
  if l.st == .m then s.place la { l with st := .s } else s

/-- Whether slice n can take an uncompressed copy of line la in its set, with all that the evictor may choose out of the
way; otherwise the copy waits (R219, R233). -/
def State.hasRoom (s : State) (n : CellId) (la : Nat) : Bool := s.roomBeside s.stays n la

/-- Whether an access to line la waits for a frame: at its home, or for a near copy of cell c. -/
def State.frameWait (s : State) (la : Nat) (c : Option CellId) : Bool :=
  !s.hasRoom (homeSlice (la * 256)) la || c.any (fun c => !s.hasRoom c la)

/-- The pieces of [a, a + n) by 256-byte line: line, offset, length. -/
def linePieces : Nat → Nat → Nat → List (Nat × Nat × Nat)
  | 0, _, _ => []
  | fuel + 1, a, n =>
    if n = 0 then []
    else
      let m := min n (256 - a % 256)
      (a / 256, a % 256, m) :: linePieces fuel (a + m) (n - m)

/-- The lines of [a, a + n). -/
def linesOf (a n : Nat) : List (Nat × Nat × Nat) := linePieces (n / 256 + 2) a n

/-! ### Reductions (R226 to R228) -/

/-- The adder's result in one word (R226): the sum or the maximum in FP32. -/
def redWord (op : RedOp) (old new : Nat) : Nat × Flags :=
  match op with
  | .add => fAdd .fp32 old new
  | .max => (fMinMax .fp32 true old new, .none)

/-- The adder over the words of a line: words 0 to n - 1 of the data and the contribution. -/
def redWords (op : RedOp) (mask old new : Nat) : Nat → Nat × FlagCounts
  | 0 => (0, {})
  | i + 1 =>
    let r := redWords op mask old new i
    let o := lineField old 32 i
    if bitB mask i then
      let w := redWord op o (lineField new 32 i)
      (r.1 + w.1 * 2 ^ (32 * i), r.2.add w.2)
    else (r.1 + o * 2 ^ (32 * i), r.2)

/-- A contribution applied to its line (R226): its sender is the last writer (R221); counters, red_flag, poison. -/
def State.applyContrib (s : State) (la : Nat) (k : Contrib) : State :=
  let n := homeSlice (la * 256)
  let l := s.line la
  let r := redWords k.op k.mask.toNat l.data.toNat k.words.toNat 64
  let bad := k.poison || l.poison != []
  let s := s.place la
    { l with data := BitVec.ofNat 2048 r.1, dirty := true, writer := some k.agent,
             poison := if bad then [0, 1, 2, 3] else [] }
  let s := s.count (FR.HR_RED_APPLY_CNT n)
  let s := s.count (FR.HR_RED_NV_CNT n) r.2.nv
  let s := s.count (FR.HR_RED_OF_CNT n) r.2.of
  let s := s.count (FR.HR_RED_UF_CNT n) r.2.uf
  if r.2.flags.toNat = 0 then s else s.orFreg (FR.HR_STATUS n) 2

/-- The contributions that the adder holds applied, oldest first (R227). -/
def State.applyHeld : Nat → Nat → State → State
  | 0, _, s => s
  | fuel + 1, la, s =>
    match (s.line la).held with
    | [] => s
    | k :: ks => State.applyHeld fuel la ((s.modLine la (fun l => { l with held := ks })).applyContrib la k)

/-- A line drained of its accepted contributions leaves A (R222, R227); epochs are checked before. -/
def State.drain (s : State) (la : Nat) : State :=
  let s := State.applyHeld ((s.line la).held.length) la s
  if (s.line la).st == .a then s.modLine la (fun l => { l.alone with st := .s, det := none }) else s

/-! ### Fills (R222, R229, R267) -/

/-- An empty line of class cls that comes into its home in S with no holder: a pinned one keeps its class (R232). -/
def Line.fresh (o : Line) (cls : Fin 8) : Line :=
  { st := .s, cls := if o.pinned then o.cls else cls, pinned := o.pinned, epoch := o.epoch }

/-- A line brought into its home in S with no holder, from what memory holds. -/
def State.fillOne (s : State) (la : Nat) (cls : Fin 8) (bad : Bool) : State :=
  if (s.line la).st != .i then s
  else
    let bs := s.rawRead (la * 256) 256
    let l : Line := ((s.line la).fresh cls).put 0
      (bs.map (fun b => (b.1, b.2 || bad)))
    s.place la l

/-- The fill of a miss (R267): the line, or in a checked page the 16 lines of its tile after the check
of the tile. The other lines of the tile come in where their sets have room for them. -/
def State.fill (s : State) (la : Nat) (cls : Fin 8) (tck : Bool) : State :=
  if tck then
    let t := la / 16
    let bad := s.tileSpoiled t
    (List.range 16).foldl (fun s i =>
      let k := 16 * t + i
      if k = la || (!s.frameWait k none && !(s.line k).leaving) then s.fillOne k cls bad else s) (s.checkTile t)
  else
    match region (la * 256) with
    | .host _ => (s.fillOne la cls false).draw
    | _ => s.fillOne la cls false

/-- Bytes written to memory for the host, records of the device and data that the host gives back, as a write at the home
of each line (R222, R415): into the cached line, whose last writer is then the host (log entry 215), else below the
cache. -/
def State.putNow (s : State) (pa : Nat) (bs : List PByte) : State :=
  ((linesOf pa bs.length).foldl (fun (r : State × Nat) q =>
    let d := (bs.drop r.2).take q.2.2
    (if r.1.absent q.1 then r.1.rawWrite (q.1 * 256 + q.2.1) d
      else if (r.1.line q.1).leaving then r.1.modLine q.1 (fun l => { (l.put q.2.1 d) with dirty := true, writer := some .host })
      else
        let s := r.1.drain q.1
        (s.place q.1 { ((s.line q.1).put q.2.1 d).alone with st := .s, dirty := true, writer := some .host }).homePath q.1, r.2 + q.2.2)) (s, 0)).1

/-- The stack in self-refresh that an access below the cache at pa would need (R446). -/
def State.rawAsleep (s : State) (pa : Nat) : Option Nat :=
  if pa < hbmTop && s.stackSr (s.stackOf pa) then some (s.stackOf pa) else none

/-- The exit of the stack that a write below the cache at line la needs requested (R446). -/
def State.wakeFor (s : State) (la : Nat) : State :=
  match s.rawAsleep (la * 256) with
  | some i => s.requestExit i
  | none => s

/-- Whether an access to line la waits: it is leaving or being fetched (R229, R235), an epoch is open
(R228), an earlier request or record waits for it (R222), or the host holds a copy that must be called back (R220, R415). -/
def State.lineBusy (s : State) (la : Nat) (write : Bool) : Bool :=
  let l := s.line la
  l.leaving || l.epoch.isSome || s.mem.miss.any (fun m => m.2.line == la) || s.queued la ||
    s.hostBlocks la write != []

/-- Whether a record of [pa, pa + n) waits: for what any access to its lines waits for (R222, R415), for a frame (R219), or for
a stack (R446). -/
def State.mustPost (s : State) (pa n : Nat) : Bool :=
  (linesOf pa n).any (fun q => s.lineBusy q.1 true ||
    (if s.absent q.1 then (s.rawAsleep (q.1 * 256)).isSome else s.frameWait q.1 none))

/-- A record that the device writes (R415): at once, or when all that it waits for has come. -/
def State.putLatest (s : State) (pa : Nat) (bs : List PByte) : State :=
  if s.mustPost pa bs.length then
    let s := (linesOf pa bs.length).foldl (fun s q => if s.absent q.1 then s.wakeFor q.1 else s)
      (s.recallAll (linesOf pa bs.length) true)
    { s with mem := { s.mem with posted := s.mem.posted ++ [(pa, bs)] } }
  else s.putNow pa bs

/-- The message that a completion entry at pa owes is sent, once the entry is written (R426). -/
def State.payMsi (s : State) (pa : Nat) : State :=
  match s.hs.owed.find? (fun e => e.1 == pa) with
  | none => s
  | some e =>
    let s : State := { s with hs := { s.hs with owed := s.hs.owed.erase e } }
    match e.2 with
    | some v => s.sendMsi v
    | none => s

/-- The records that waited are written, in their order, as far as the host has given back their lines. -/
def State.flushPosted (s : State) : State :=
  s.mem.posted.foldl (fun s p =>
    if s.mustPost p.1 p.2.length then s.putLatest p.1 p.2 else (s.putNow p.1 p.2).payMsi p.1)
    { s with mem := { s.mem with posted := [] } }

/-! ### Class counters (R230) -/

/-- A hit or a miss of class cls counted in slice n. -/
def State.countHit (s : State) (n : CellId) (cls : Fin 8) (hit : Bool) : State :=
  s.count (if hit then FR.HR_CLS_HIT_CNT n cls else FR.HR_CLS_MISS_CNT n cls)

/-- A request that reaches the home: counted, and the line brought in on a miss, drained or recalled. -/
def State.homeArrive (s : State) (la : Nat) (cls : Fin 8) (tck : Bool) (whole : Bool) : State :=
  let s := s.countHit (homeSlice (la * 256)) cls (!s.absent la)
  let s :=
    if s.absent la then
      if whole then s.place la ((s.line la).fresh cls) else s.fill la cls tck
    else (s.drain la).bringHome la
  s.homePath la

/-! ### The accesses of R222 -/

/-- A coherent read by cell c of bytes of one line: near-copy hits are served in the cell's own slice, lines homed there
in place, all else at the home, which leaves a near copy (R220). -/
def State.cohRead (s : State) (c : CellId) (la off n : Nat) (tck : Bool) : State × List PByte :=
  if homeSlice (la * 256) = c then
    let s := s.homeArrive la 0 tck false
    let l := s.line la
    (s.used la { l with st := if l.st == .e then .s else l.st }, l.read off n)
  else match (s.line la).near.find? (fun k => k.cell == c) with
    | some k => (((s.countHit c 0 true).viaPath c k.way).usedNear c la, (s.line la).read off n)
    | none =>
      let o := s.line la
      let alone := o.st == .i || o.st == .a || (o.st == .s && o.noHolder)
      let s := s.homeArrive la 0 tck false
      let l := s.line la
      let st := if alone && s.hostBlocks la true == [] then LState.e else .s
      ((s.used la { l with st := st, holders := l.holders.add c }).placeNear c la, l.read off n)

/-- A coherent write by cell c of bytes of one line. -/
def State.cohWrite (s : State) (c : CellId) (la off : Nat) (bs : List PByte) (tck : Bool) : State :=
  if homeSlice (la * 256) = c then
    let s := s.homeArrive la 0 tck false
    s.place la { ((s.line la).put off bs).alone with st := .s, dirty := true, writer := some (.cell c) }
  else
    let o := s.line la
    let s :=
      match o.near.find? (fun k => k.cell == c && (o.st == .e || o.st == .m)) with
      | some k => (s.countHit c 0 true).viaPath c k.way
      | none =>
        let s := s.homeArrive la 0 tck false
        s.used la (s.line la)
    let l := s.line la
    (s.setLine la { (l.put off bs) with
      st := .m, holders := .cells [c], near := l.near.filter (fun k => k.cell == c), dirty := true
      writer := some (.cell c) }).placeNear c la

/-- A home read of bytes of one line. -/
def State.homeRead (s : State) (la off n : Nat) (cls : Fin 8) (tck : Bool) : State × List PByte :=
  let s := s.homeArrive la cls tck false
  let l := s.line la
  (s.used la l, l.read off n)

/-- A home write of bytes of one line. -/
def State.homeWrite (s : State) (a : Agent) (la off : Nat) (bs : List PByte) (cls : Fin 8) (tck : Bool) :
    State :=
  let s := s.homeArrive la cls tck (off = 0 && bs.length = 256)
  s.place la { ((s.line la).put off bs).alone with st := .s, dirty := true, writer := some a }

/-! ### Miss registers (R228, R229) -/

/-- The miss registers of slice n in use: those of lines that are asked for, and those of open epochs. -/
def State.regsUsed (s : State) (n : CellId) : Nat :=
  (s.mem.miss.filter (fun m => m.1 == n.val)).length +
    (s.mem.lines.filter (fun e => e.2.epoch.isSome && homeSlice (e.1 * 256) == n &&
      !s.mem.miss.any (fun m => m.2.line == e.1))).length

/-- The entries of the waiter list of line la in use: requests, and contributions that came early. -/
def State.waitersOn (s : State) (la : Nat) : Nat :=
  ((s.mem.miss.filter (fun m => m.2.line == la)).map (fun m => m.2.waiters.length)).sum +
    ((s.line la).epoch.map (fun e => e.waiting.length)).getD 0

/-- The lines of the staging store of slice n in use (R228). -/
def State.staged (s : State) (n : CellId) : Nat :=
  ((s.mem.lines.filter (fun e => homeSlice (e.1 * 256) == n)).map (fun e =>
    (e.2.epoch.map (fun p => p.waiting.length)).getD 0)).sum

/-- The outcome of a contribution at its home (R226, R228): accepted, to be waited for, or refused with
a reason. -/
inductive RedRes where
  | accepted (s : State)
  | wait (s : State) (why : Wait)
  | refused (s : State) (reason : Nat)

/-- The slice that refuses a contribution to line la: the home, or the slice of the window it names (log entry 195). -/
def redSlice (la : Nat) : CellId :=
  match region (la * 256) with
  | .window n _ => n
  | _ => homeSlice (la * 256)

/-- A refused contribution changes nothing but HR_RED_REJECT_CNT (R228). -/
def State.rejectRed (s : State) (la reason : Nat) : RedRes :=
  .refused (s.count (FR.HR_RED_REJECT_CNT (redSlice la))) reason

/-- The contribution with the next tag applied, and every waiting one that follows it; the epoch closes
with tag n - 1 (R228). One that is held back for want of a waiter entry or of staging needs neither when its turn has
come. -/
def State.runEpoch : Nat → Nat → State → State
  | 0, _, s => s
  | fuel + 1, la, s =>
    match (s.line la).epoch with
    | none => s
    | some e =>
      let due (k : Contrib) : Bool := k.t == e.next && k.n == e.n && k.op == e.op
      let back : Option (Nat × MissReq) := s.mem.backed.find? (fun b => b.1 == la && match b.2 with
        | .contrib k => due k
        | _ => false)
      let out : Option (Contrib × State) := match e.waiting.find? due, back with
        | some k, _ => some (k, s)
        | none, some (b, .contrib k) => some (k, { s with mem := { s.mem with backed := s.mem.backed.erase (b, .contrib k) } })
        | none, _ => none
      match out with
      | none => s
      | some (k, s) =>
        let e' := { e with next := e.next + 1, waiting := e.waiting.filter (fun j => j.t != e.next) }
        let s := s.modLine la (fun l => { l with epoch := if e'.next = e.n then none else some e' })
        State.runEpoch fuel la (s.applyContrib la k)

/-- What a contribution to line la would have to wait for: a host copy, a line that is leaving or asked for, a frame, or a
stack (R222, R229, R233, R235, R446). A request for the line of an open epoch waits behind its contributions (R228). -/
def State.redWait (s : State) (la : Nat) : Option (State × Wait) :=
  let l := s.line la
  if l.leaving || s.hostBlocks la true != [] ||
      (l.epoch.isNone && s.mem.miss.any (fun m => m.2.line == la)) || s.frameWait la none then
    some (s.recall la true, .line)
  else if s.absent la then (s.rawAsleep (la * 256)).map (fun i => (s.requestExit i, s.floorWait))
  else none

/-- The line of a contribution at its home in A, counted, brought in on a miss, and stored uncompressed (R219, R222). -/
def State.redArrive (s : State) (la : Nat) (cls : Fin 8) (tck : Bool) : State :=
  let hit := !s.absent la
  let s := s.countHit (homeSlice (la * 256)) cls hit
  let s := if hit then s.bringHome la else s.fill la cls tck
  let l := s.line la
  let s := if l.st == .a then s else s.place la { l.alone with st := .a }
  s.homePath la

/-- A contribution of an open epoch of deterministic mode (R228): refused, held back for want of a waiter entry or of
staging, or accepted, and applied when its turn has come. That with the next expected tag needs neither. -/
def State.contribEpoch (s : State) (la : Nat) (k : Contrib) (e : Epoch) (tck : Bool) : RedRes :=
  let n := homeSlice (la * 256)
  if k.t < e.next || e.waiting.any (fun j => j.t == k.t) then s.rejectRed la 2
  else if e.n ≤ k.t then s.rejectRed la 3
  else if k.n ≠ e.n ∨ k.op ≠ e.op then s.rejectRed la 4
  else if k.t ≠ e.next && 32 ≤ s.waitersOn la then .wait (s.stallF (FR.HR_WAITER_FULL_CNT n)) .line
  else if k.t ≠ e.next && 512 ≤ s.staged n then .wait s .line
  else
    let s := s.redArrive la k.cls tck
    let s := s.modLine la (fun l => { l with epoch := some { e with waiting := e.waiting ++ [k] } })
    .accepted (State.runEpoch (e.waiting.length + 1 + s.mem.backed.length) la s)

/-- A contribution is served at the home of a line in a cacheable page (R222, R226 to R228). In arrival order it joins the
adder's list; in deterministic mode it opens or meets the line's epoch. A sequence in arrival order that has begun keeps
the modes of its beginning. -/
def State.contribNow (s : State) (la : Nat) (k : Contrib) (tck : Bool) : RedRes :=
  let n := homeSlice (la * 256)
  match s.redWait la with
  | some (s, why) => .wait s why
  | none =>
    let l := s.line la
    match l.epoch with
    | some e => s.contribEpoch la k e tck
    | none =>
      let mode := l.det.getD (BitVec.ofNat 8 (bits (s.freg FR.HR_MODE) 31 24))
      if mode.getLsbD k.cls.val then
        if k.n ≤ k.t then s.rejectRed la 3
        else if 96 ≤ s.regsUsed n then .wait (s.stallF (FR.HR_MSHR_FULL_CNT n)) .line
        else (s.drain la).contribEpoch la k { n := k.n, op := k.op } tck
      else
        let s := s.redArrive la k.cls tck
        .accepted (s.modLine la (fun l => { l with held := l.held ++ [k], det := some mode }))

/-- A contribution reaches the home of a line: it waits behind earlier requests for the line that are held back, but for
that with the next expected tag of an open epoch (R222, R227, R228). -/
def State.contribute (s : State) (la : Nat) (k : Contrib) (tck : Bool) : RedRes :=
  if s.queued la && !((s.line la).epoch.any (fun e => k.t == e.next)) then .wait s .line else s.contribNow la k tck

/-! ### Pinning (R230 to R232) -/

/-- The pinned lines of class c homed in slice n (HR_PIN_USEDc, R244). -/
def State.pinnedOf (s : State) (n : CellId) (c : Fin 8) : Nat :=
  (s.mem.lines.filter (fun e => homeSlice (e.1 * 256) == n && e.2.pinned && e.2.cls == c)).length

/-- All pinned lines homed in slice n. -/
def State.pinnedAll (s : State) (n : CellId) : Nat :=
  (s.mem.lines.filter (fun e => homeSlice (e.1 * 256) == n && e.2.pinned)).length

/-- The pinned lines of set σ of slice n that are in their frames. -/
def State.pinnedSet (s : State) (n : CellId) (σ : Nat) : List Resident := (s.residents n σ).filter (fun r => r.pinned)

/-- How many lines of set σ of slice n are pinned, those that are not there now included (R232). -/
def State.pinnedIn (s : State) (n : CellId) (σ : Nat) : Nat :=
  (s.mem.lines.filter (fun e => homeSlice (e.1 * 256) == n && homeSet (e.1 * 256) == σ && e.2.pinned)).length

/-- The frames of set σ of slice n that hold pinned lines when lines are held in `ways` alone (R215, R231, R239): a pinned
line keeps its frame where that is one of them, and otherwise moves to the other half of a frame with a pinned line, or,
where there is none, to a frame that it shares with the next one that moves (log entry 216). A pinned line that is not
there takes a place as one that moves does. -/
def State.pinFrames (s : State) (n : CellId) (σ : Nat) (ways : List Nat) : Nat :=
  let pins := s.pinnedSet n σ
  let stay := pins.filter (fun r => ways.contains r.way)
  let used := ways.filter (fun w => stay.any (fun r => r.way == w))
  used.length + ceilDiv (s.pinnedIn n σ - stay.length - (used.filter (fun w => (fitSlot stay w 2).isSome)).length) 2

/-- The window of slice n in units, the larger of its two sizes while it is being resized (R215). -/
def State.winUnits (s : State) (n : CellId) : Nat :=
  max (bits (s.freg (FR.HR_WIN_CFG n)) 8 0) ((s.slice n).resize.getD 0)

/-- The ways of set σ that hold lines beside a window of `units` with `gone` layers retired. -/
def waysBeside (units gone σ : Nat) : List Nat :=
  (List.range (24 - 6 * gone - winFrames units σ)).map (fun i => winFrames units σ + i)

/-- Whether set σ of slice n keeps 3 frames that hold neither window data nor pinned lines, with a window of `units` and
`gone` layers retired (R215, R231, R239). -/
def State.setReserve (s : State) (n : CellId) (σ units gone : Nat) : Bool :=
  s.pinFrames n σ (waysBeside units gone σ) + 3 ≤ (waysBeside units gone σ).length

/-- Whether one more line of slice n may be pinned in class c (R231). -/
def State.pinFits (s : State) (n : CellId) (c : Fin 8) : Bool :=
  s.pinnedOf n c + 1 ≤ s.freg (FR.HR_CLS_QUOTA c) && s.winUnits n * 256 + s.pinnedAll n + 1 ≤ s.freg FR.HR_PIN_CAP

/-- Line la pinned in class c if the limits allow, uncompressed (R219); the Bool says that it failed, counted (R231). A line
that is not there is brought in first; one that is leaving is not pinned. -/
def State.pinLine (s : State) (la : Nat) (c : Fin 8) (tck : Bool) : State × Bool :=
  let n := homeSlice (la * 256)
  let σ := homeSet (la * 256)
  let s := if s.absent la && !s.frameWait la none then s.fill la c tck else s
  let l := s.line la
  let t := s.place la { l with pinned := true, cls := c }
  if l.pinned then (s, false)
  else if l.resident && !s.frameWait la none && s.pinFits n c && t.setReserve n σ (t.winUnits n) (t.retiredLayers n) then (t, false)
  else (s.count (FR.HR_PIN_FAIL_CNT n), true)

/-- The residents of a frame that lie in the slots from i on that a pinned line moves into: unpinned ones leave (R215, R219,
R239), after what the adder holds for them has been applied. -/
def State.clearSlots (s : State) (n : CellId) (σ w i : Nat) : State :=
  ((s.residents n σ).filter (fun r => r.way == w && r.slot < i + 2 && i < r.slot + r.len)).foldl (fun s r =>
    if r.near then (s.bringHome r.la).modLine r.la (fun l => l.lose n)
    else (State.applyHeld ((s.line r.la).held.length) r.la s).evictHome r.la) s

/-- A pinned line of set σ of slice n moved to another frame of its set (R215, R239): beside another pinned line where one
has room (log entry 216). -/
def State.movePin (s : State) (n : CellId) (σ : Nat) (r : Resident) : State :=
  let ways := s.cacheWays n σ
  let pins := (s.pinnedSet n σ).filter (fun k => k.la != r.la && ways.contains k.way)
  let first := ways.filter (fun w => pins.any (fun k => k.way == w))
  match (first ++ ways).findSome? (fun w => (fitSlot pins w 2).map (fun i => (w, i))) with
  | some p => (s.clearSlots n σ p.1 p.2).modLine r.la (fun l => { l with way := p.1, slot := p.2 })
  | none => s

/-- Line la unpinned (R232): it stays as it is stored. -/
def State.unpinLine (s : State) (la : Nat) : State :=
  let l := s.line la
  if l.pinned then s.setLine la { l with pinned := false } else s

/-- The compressed lines and near copies that slice n holds (HR_CMP_LINES, R219). -/
def State.cmpLines (s : State) (n : CellId) : Nat :=
  (s.mem.lines.map (fun e =>
    b2n (e.2.resident && homeSlice (e.1 * 256) == n && e.2.scheme != .raw) +
      (e.2.near.filter (fun k => k.cell == n && k.scheme != .raw)).length)).sum

end Sys2Proof.Machine
end

