-- ==== Sys2Proof/Machine/Translate.lean ====
section
/-! DEFINITION. Device virtual space: page tables and walks (R255 to R258), the translation caches
(R259), host pages (R261), faults and page requests (R262 to R264). -/

namespace Sys2Proof.Machine

/-- How a walk ends (R256 to R258), or what it waits for: a stack, or a line whose entry the host may have changed
(R415). -/
inductive WalkRes where
  | leaf (pte level : Nat)
  | absent (pr : Bool) (level : Nat)
  | err (reason level : Nat)
  | asleep (stack : Nat)
  | held (la : Nat)
  deriving DecidableEq, Repr

/-- The size of a page whose leaf is at a level (R256). -/
def pageSize (level : Nat) : Nat :=
  if level = 0 then 0x10000 else if level = 1 then 0x200000 else 0x40000000

/-- The index of a virtual address at a level (R256). -/
def walkIndex (va level : Nat) : Nat :=
  match level with
  | 4 => bits va 56 48
  | 3 => bits va 47 39
  | 2 => bits va 38 30
  | 1 => bits va 29 21
  | _ => bits va 20 16

/-- Bits [51:8] of an entry as an address. -/
def pteAddr (e : Nat) : Nat := bits e 51 8 * 256

/-- Whether [a, a + n) lies in addressable HBM. -/
def inHbm (a n : Nat) : Bool := a + n ≤ hbmTop

/-- The check of a leaf (R258): reason 3 for reserved bits, 4 for its level, 5 for alignment, 6 for a
bad frame; none when the leaf is good. -/
def leafError (ats : Bool) (e level : Nat) : Option Nat :=
  let a := pteAddr e
  let size := pageSize level
  let c := bitB e 60
  let tck := bitB e 59
  if bits e 58 52 != 0 || bits e 7 3 != 0 || bitB e 2 then some 3
  else if 3 ≤ level then some 4
  else if a % size != 0 then some 5
  else if bitB e 62 && !bitB e 61 then some 6
  else if inHbm a size then none
  else match region a with
    | .window _ _ => if c || tck then some 6 else if a + size ≤ sliceWinBase + 0x200000000 then none else some 6
    | .host _ => if tck || !ats then some 6 else if a + size ≤ 2 * hostBase then none else some 6
    | _ => some 6

/-- The size of the table of a level, which is also its alignment (R256). -/
def tableSize (level : Nat) : Nat := if level = 0 then 256 else 4096

/-- The check of a table pointer found at a level (R258). -/
def pointerError (e level : Nat) : Option Nat :=
  let a := pteAddr e
  if bits e 63 59 != 0 || bits e 58 52 != 0 || bits e 7 3 != 0 || bitB e 2 then some 3
  else if level = 0 then some 4
  else if a % tableSize (level - 1) != 0 then some 5
  else if inHbm a (tableSize (level - 1)) then none
  else some 6

/-- The walk from the table at `tab` of a level down (R256 to R258), reading raw HBM (R259). A table in a
stack that is in self-refresh waits for the stack (R446), and one that the host holds exclusively for the host (R415). -/
def State.walkFrom (s : State) (va : Nat) : Nat → Nat → WalkRes
  | level, tab =>
    let ea := tab + 8 * walkIndex va level
    let d := s.hbmRead ea 8
    let e := leNat (plain d)
    if s.stackSr (s.stackOf ea) then .asleep (s.stackOf ea)
    else if (s.hostBlocks (ea / 256) false).contains (ea / 64) then .held (ea / 256)
    else if anyBad d then .err 11 level
    else
      match e % 4 with
      | 0 => .absent (bitB e 2) level
      | 1 =>
        match pointerError e level with
        | some r => .err r level
        | none =>
          match level with
          | 0 => .err 4 0
          | l + 1 => State.walkFrom s va l (pteAddr e)
      | 3 =>
        match leafError (bitB (s.freg FR.TR_CTRL) 1) e level with
        | some r => .err r level
        | none => .leaf e level
      | _ => .err 3 level

/-- A whole walk from TR_ROOT. A root outside addressable HBM is a walk error (R258). -/
def State.walk (s : State) (va : Nat) : WalkRes :=
  let root := s.freg FR.TR_ROOT
  if inHbm root 4096 then s.walkFrom va 4 root else .err 6 4

/-- The agent code of a request record (R263); host commands and the post engine have 5 (log entry 211). -/
def agentCode : Agent → Nat
  | .cell _ => 0 | .fetch _ => 1 | .stream _ => 2 | .harvest _ => 3 | .parade => 4 | .host => 5

/-- The requester of a request record (R263). -/
def agentRequester : Agent → Nat
  | .cell c => c.val | .fetch c => c.val | .stream c => c.val | .harvest b => b.val
  | .parade => 0 | .host => 0

/-- The cell whose own window an agent's own-window addresses name (R255). -/
def agentOwn : Agent → Option CellId
  | .cell c => some c
  | .stream c => some c
  | _ => none

/-- One access to be translated. -/
structure Access where
  agent : Agent
  va : Nat
  write : Bool := false
  exec : Bool := false
  deriving DecidableEq, Repr

/-- Where an access goes. -/
structure Phys where
  pa : Nat
  cacheable : Bool
  tck : Bool
  deriving DecidableEq, Repr

/-- The result of a translation: a physical address, the own window at an offset (R255), a fault with
its reason, or a wait. -/
inductive Xlat where
  | phys (p : Phys)
  | own (n : CellId) (off : Nat)
  | fault (reason : Nat)
  | wait (why : Wait)
  deriving DecidableEq, Repr

/-- A translation fault recorded (R262): TR_ERR_INFO and TR_ERR_VA if free, and TR_WALK_ERR_CNT. TR_ERR_VA keeps the
address modulo 2^57 (log entry 212). -/
def State.xlatFault (s : State) (a : Access) (reason level : Nat) : State :=
  let s := s.count FR.TR_WALK_ERR_CNT
  let s := if 3 ≤ reason && reason ≤ 6 then s.orFreg FR.TR_STATUS 8 else s
  if bitB (s.freg FR.TR_ERR_INFO) 31 then s
  else
    let s := s.setFreg FR.TR_ERR_INFO (2 ^ 31 + reason * 2 ^ 24 + level * 2 ^ 21 + agentCode a.agent * 2 ^ 17
      + agentRequester a.agent * 2 ^ 9 + b2n a.exec * 4 + b2n a.write * 2)
    s.setFreg FR.TR_ERR_VA (a.va % 2 ^ 57)

/-- Records in the request ring (R263, R276). -/
def State.prqSize (s : State) : Nat := 2 ^ s.freg FR.TR_PRQ_CFG

/-- Whether no further request record can be written (R263). -/
def State.prqFull (s : State) : Bool :=
  256 ≤ s.mem.reqs.length ||
    (s.freg FR.TR_PRQ_TAIL + 1) % s.prqSize == s.freg FR.TR_PRQ_HEAD % s.prqSize

/-- The 32 bytes of a request record (R263). -/
def reqRecord (seq id : Nat) (a : Access) : List Byte :=
  leBytes 8 (a.va % 2 ^ 57) ++ leBytes 4 (b2n a.write * 2 + b2n a.exec * 4 + agentCode a.agent * 16
    + agentRequester a.agent * 256 + id * 65536) ++ leBytes 4 0 ++ leBytes 8 seq ++ leBytes 8 0

/-- A page request for an access whose entry of `level` is not present (R263). It joins a pending request for its page;
otherwise a record is written if there is room, and the access waits in any case. -/
def State.pageRequest (s : State) (a : Access) (level : Nat) : State × Option Nat :=
  let page := a.va / 0x10000
  match s.mem.reqs.find? (fun r => r.page == page) with
  | some r => (s, some r.id)
  | none =>
    if s.prqFull then (s, none)
    else
      let id := s.mem.nextReq % 65536
      let tail := s.freg FR.TR_PRQ_TAIL % s.prqSize
      let seq := s.mem.prqSeq + 1
      let s := s.putLatest (s.freg FR.TR_PRQ_BASE + 32 * tail) (clean (reqRecord seq id a))
      let r : PageReq := ⟨id, page, a.agent, a.write, a.exec, s.timeUs, level⟩
      let s := { s with mem := { s.mem with
          nextReq := s.mem.nextReq + 1, prqSeq := seq, reqs := s.mem.reqs ++ [r] } }
      let s := s.setFreg FR.TR_PRQ_TAIL ((tail + 1) % s.prqSize)
      let s := (s.count FR.TR_PR_CNT).hostEvent 1
      (s, some id)

/-- The entry of the translation caches for a page (R259): while it is there, accesses use it. -/
def State.tlbFind (s : State) (va : Nat) : Option TlbEnt :=
  let p := va / 0x10000
  s.mem.tlb.find? (fun e => e.page ≤ p && p < e.page + e.pages)

/-- Whether a leaf allows an access (R257). -/
def leafAllows (pte : Nat) (a : Access) : Bool :=
  if a.exec then bitB pte 63 else if a.write then bitB pte 62 else bitB pte 61

/-- The physical address of an access through a leaf whose page has `size` bytes. -/
def leafPhys (pte size va : Nat) : Phys :=
  { pa := pteAddr pte + va % size, cacheable := bitB pte 60, tck := bitB pte 59 }

/-- The second translation of a host page (R261): what the cache of host translations allows, or a wait
for the host's answer, which a floor reset holds up (R509); a page the host refused is not mapped, with reason 9. -/
def State.atsCheck (s : State) (a : Access) (p : Phys) (ha level : Nat) : State × Xlat :=
  let page := ha / 4096
  match s.mem.ats.find? (fun e => e.page == page) with
  | some e =>
    if (a.write && e.w) || (!a.write && e.r) then
      (s, .phys { p with pa := hostBase + e.frame * 4096 + ha % 4096 })
    else if s.mem.priFail.has page then
      ({ s with mem := { s.mem with priFail := s.mem.priFail.del page } }.xlatFault a 9 level, .fault 9)
    else
      ({ s with mem := { s.mem with priWait := s.mem.priWait.add page } }, .wait .xlat)
  | none =>
    if s.mem.priFail.has page then
      ({ s with mem := { s.mem with priFail := s.mem.priFail.del page } }.xlatFault a 9 level, .fault 9)
    else if s.mem.priWait.has page then (s, .wait .xlat)
    else ({ s with mem := { s.mem with atsWait := s.mem.atsWait.add page } }, .wait (if s.floorBusy then .credit else .xlat))

/-- The access through a good leaf (R262). -/
def State.leafAccess (s : State) (a : Access) (pte size level : Nat) : State × Xlat :=
  if !leafAllows pte a then (s.xlatFault a 2 level, .fault 2)
  else
    let p := leafPhys pte size a.va
    match region p.pa with
    | .host ha => if bitB (s.freg FR.TR_CTRL) 1 then s.atsCheck a p ha level else (s.xlatFault a 6 level, .fault 6)
    | _ => (s, .phys p)

/-- An access translated (R255, R259, R260, R262). -/
def State.translate (s : State) (a : Access) : State × Xlat :=
  if 2 ^ 57 ≤ a.va then (s.xlatFault a 10 0, .fault 10)
  else if 0x200000000 ≤ a.va ∧ a.va < 0x300000000 then
    match agentOwn a.agent with
    | some c =>
      if a.va < 0x201800000 then (s, .own c (a.va - 0x200000000)) else (s.xlatFault a 1 0, .fault 1)
    | none => (s.xlatFault a 1 0, .fault 1)
  else if !bitB (s.freg FR.TR_CTRL) 0 then (s.xlatFault a 1 0, .fault 1)
  else match s.tlbFind a.va with
    | some e => s.leafAccess a e.pte.toNat (e.pages * 0x10000)
        (if e.pages = 1 then 0 else if e.pages = 32 then 1 else 2)
    | none =>
      let s := s.count FR.TR_WALK_CNT
      match s.walk a.va with
      | .leaf pte level => s.leafAccess a pte (pageSize level) level
      | .err r level => (s.xlatFault a r level, .fault r)
      | .asleep i => (s.requestExit i, .wait s.floorWait)
      | .held la => (s.recall la false, .wait .xlat)
      | .absent pr level =>
        if pr && bitB (s.freg FR.TR_CTRL) 2 then
          let r := s.pageRequest a level
          (r.1, .wait ((r.2.map Wait.page).getD .xlat))
        else (s.xlatFault a 1 level, .fault 1)

/-- The first 64 KiB page and the pages of a leaf at a level (R256). -/
def tlbOf (va : Nat) (pte level : Nat) : TlbEnt :=
  let n := pageSize level / 0x10000
  { page := va / 0x10000 / n * n, pages := n, pte := BitVec.ofNat 64 pte }

/-! ### Prefetch hints (R175, R191) -/

/-- The line that a prefetch hint names brought into its home from memory, where it is absent and nothing holds it up:
it neither recalls host copies nor wakes a stack, and it pins nothing. -/
def State.warmLine (s : State) (pa : Nat) (tck : Bool) : State :=
  let la := pa / 256
  if s.absent la && !s.lineBusy la false && !s.frameWait la none && !(pa < hbmTop && s.stackSr (s.stackOf pa)) then s.fill la 0 tck else s

/-- A prefetch hint for a virtual address (R175): the translation enters the caches, where a walk finds a leaf, and a
cacheable line that may be read is brought into the Hirrium cache. It never faults, requests no page, and is dropped
where it would have to wait. -/
def State.warm (s : State) (va : Nat) : State :=
  if 2 ^ 57 ≤ va || (0x200000000 ≤ va && va < 0x300000000) || !bitB (s.freg FR.TR_CTRL) 0 then s
  else
    let r : State × Option TlbEnt := match s.tlbFind va with
      | some e => (s, some e)
      | none =>
        match s.walk va with
        | .leaf pte level =>
          let e := tlbOf va pte level
          (State.count { s with mem := { s.mem with tlb := s.mem.tlb ++ [e] } } FR.TR_WALK_CNT, some e)
        | _ => (s.count FR.TR_WALK_CNT, none)
    match r.2 with
    | none => r.1
    | some e =>
      let p := leafPhys e.pte.toNat (e.pages * 0x10000) va
      if !bitB e.pte.toNat 61 || !p.cacheable then r.1
      else match region p.pa with
        | .hbm => r.1.warmLine p.pa p.tck
        | .host ha =>
          match r.1.mem.ats.find? (fun e => e.page == ha / 4096) with
          | some e => if e.r then r.1.warmLine (hostBase + e.frame * 4096 + ha % 4096) false else r.1
          | none => r.1
        | _ => r.1

/-! ### Accesses to memory through a translation -/

/-- Whether an agent makes coherent accesses (R220): a cell's loads and stores do. -/
def agentCoh : Agent → Option CellId
  | .cell c => some c
  | _ => none

/-- Whether a miss of line la finds every miss register of its home in use (R229). -/
def State.regWait (s : State) (la : Nat) : Bool := s.absent la && 96 ≤ s.regsUsed (homeSlice (la * 256))

/-- What an access must wait for: lines (R229, R235, R228, R415), frames (R219, R233), a miss register (R229), or a stack
(R446), with what its wait asks for. -/
def State.linesWait (s : State) (ps : List (Nat × Nat × Nat)) (write : Bool) (c : Option CellId) : Option (State × Wait) :=
  if ps.any (fun q => s.lineBusy q.1 write) then
    some (ps.foldl (fun s q =>
      if (s.line q.1).epoch.isSome then s.stallF (FR.HR_DET_WAIT_CNT (homeSlice (q.1 * 256))) else s) (s.recallAll ps write), .line)
  else
    match ps.find? (fun q => s.regWait q.1) with
    | some q => some (s.stallF (FR.HR_MSHR_FULL_CNT (homeSlice (q.1 * 256))), .line)
    | none =>
      if ps.any (fun q => s.frameWait q.1 (c.filter (fun c => homeSlice (q.1 * 256) != c))) then some (s, .line)
      else (ps.findSome? (fun q => if s.absent q.1 then s.rawAsleep (q.1 * 256) else none)).map (fun i =>
        (s.requestExit i, s.floorWait))

/-- What an access past the layers to [pa, pa + n) of HBM must wait for: the host, where it holds blocks of it (R415), or
the stack (R446). -/
def State.rawWait (s : State) (pa n : Nat) (write : Bool) : Option (State × Wait) :=
  let ps := linesOf pa n
  if ps.any (fun q => (s.hostBlocks q.1 write).any (fun b => pa < 64 * b + 64 && 64 * b < pa + n)) then
    some (s.recallAll ps write, .line)
  else (s.rawAsleep pa).map (fun i => (s.requestExit i, s.floorWait))

/-- n bytes read at a translated address: through the cache, from a slice window, or from memory past
the layers, where a checked tile is checked on each access (R216, R246, R267). -/
def State.physRead (s : State) (ag : Agent) (p : Phys) (n : Nat) (cls : Fin 8) :
    MRes (State × List PByte) :=
  if p.cacheable then
    let ps := linesOf p.pa n
    match s.linesWait ps false (agentCoh ag) with
    | some (s, why) => .wait s why
    | none => .ok (ps.foldl (fun r q =>
      let r' := match agentCoh ag with
        | some c => r.1.cohRead c q.1 q.2.1 q.2.2 p.tck
        | none => r.1.homeRead q.1 q.2.1 q.2.2 cls p.tck
      (r'.1, r.2 ++ r'.2)) (s, []))
  else match region p.pa with
    | .window w off =>
      match s.winCheck w off n with
      | .ok () => .ok (s.countBypass w (winLayer off), s.winRead w off n)
      | .wait s why => .wait s why
      | .range => .range
    | .hbm =>
      match s.rawWait p.pa n false with
      | some (s, why) => .wait s why
      | none =>
        let d := s.hbmRead p.pa n
        if p.tck then
          let lo := p.pa / 4096
          let ts := (List.range ((p.pa + n + 4095) / 4096 - lo)).map (lo + ·)
          let d' := if ts.any s.tileSpoiled then d.map (fun b => (b.1, true)) else d
          .ok (ts.foldl (fun s t => s.checkTile t) s, d')
        else .ok (s, d)
    | .host ha => .ok (s.draw, s.hostRead ha n)
    | _ => .ok (s, clean (List.replicate n 0))

/-- Bytes written at a translated address. -/
def State.physWrite (s : State) (ag : Agent) (p : Phys) (bs : List PByte) (cls : Fin 8) : MRes State :=
  if p.cacheable then
    let ps := linesOf p.pa bs.length
    match s.linesWait ps true (agentCoh ag) with
    | some (s, why) => .wait s why
    | none => .ok (ps.foldl (fun r q =>
      let d := (bs.drop r.2).take q.2.2
      let s' := match agentCoh ag with
        | some c => r.1.cohWrite c q.1 q.2.1 d p.tck
        | none => r.1.homeWrite ag q.1 q.2.1 d cls p.tck
      (s', r.2 + q.2.2)) (s, 0)).1
  else match region p.pa with
    | .window w off =>
      match s.winCheck w off bs.length with
      | .ok () => .ok ((s.countBypass w (winLayer off)).winWrite w off bs)
      | .wait s why => .wait s why
      | .range => .range
    | .hbm =>
      match s.rawWait p.pa bs.length true with
      | some (s, why) => .wait s why
      | none => .ok (s.hbmWrite p.pa bs)
    | .host ha => .ok (s.hostWrite ha bs)
    | _ => .ok s

/-- The result of a whole access by virtual address: performed, to be waited for, a translation fault, or beyond the configured window (R214, R262). Every case carries the
state it leaves. -/
inductive AccRes (α : Type) where
  | ok (s : State) (v : α)
  | wait (s : State) (why : Wait)
  | fault (s : State) (reason : Nat)
  | range (s : State)

/-- n bytes read at a virtual address; the bytes lie in one page. -/
def State.vread (s : State) (a : Access) (n : Nat) (cls : Fin 8 := 0) : AccRes (List PByte) :=
  let t := s.translate a
  match t.2 with
  | .fault r => .fault t.1 r
  | .wait q => .wait t.1 q
  | .own c off =>
    match t.1.winCheck c off n with
    | .ok () => .ok (t.1.countBypass c (winLayer off)) (t.1.winRead c off n)
    | .wait s why => .wait s why
    | .range => .range t.1
  | .phys p =>
    match t.1.physRead a.agent p n cls with
    | .ok (s, d) => .ok s d
    | .wait s why => .wait s why
    | .range => .range t.1

/-- Bytes written at a virtual address; the bytes lie in one page. -/
def State.vwrite (s : State) (a : Access) (bs : List PByte) (cls : Fin 8 := 0) : AccRes Unit :=
  let t := s.translate { a with write := true }
  match t.2 with
  | .fault r => .fault t.1 r
  | .wait q => .wait t.1 q
  | .own c off =>
    match t.1.winCheck c off bs.length with
    | .ok () => .ok ((t.1.countBypass c (winLayer off)).winWrite c off bs) ()
    | .wait s why => .wait s why
    | .range => .range t.1
  | .phys p =>
    match t.1.physWrite a.agent p bs cls with
    | .ok s => .ok s ()
    | .wait s why => .wait s why
    | .range => .range t.1

/-- Reads of n bytes from a virtual address on, cut at 4 KiB boundaries, each translated by itself; the first
argument bounds the pieces. -/
def State.spanReadAux (ag : Agent) (cls : Fin 8) : Nat → Nat → Nat → List PByte → State → AccRes (List PByte)
  | 0, _, _, acc, s => .ok s acc
  | fuel + 1, va, n, acc, s =>
    if n = 0 then .ok s acc
    else
      let m := min n (4096 - va % 4096)
      match s.vread { agent := ag, va } m cls with
      | .ok s d => State.spanReadAux ag cls fuel (va + m) (n - m) (acc ++ d) s
      | .wait s q => .wait s q
      | .fault s r => .fault s r
      | .range s => .range s

/-- n bytes read by an agent from a virtual address, over any number of pages. -/
def State.spanRead (s : State) (ag : Agent) (va n : Nat) (cls : Fin 8 := 0) : AccRes (List PByte) :=
  State.spanReadAux ag cls (n / 4096 + 2) va n [] s

/-- Writes of bytes from a virtual address on, cut as reads are. -/
def State.spanWriteAux (ag : Agent) (cls : Fin 8) : Nat → Nat → List PByte → State → AccRes Unit
  | 0, _, _, s => .ok s ()
  | fuel + 1, va, bs, s =>
    if bs.isEmpty then .ok s ()
    else
      let m := min bs.length (4096 - va % 4096)
      match s.vwrite { agent := ag, va, write := true } (bs.take m) cls with
      | .ok s () => State.spanWriteAux ag cls fuel (va + m) (bs.drop m) s
      | .wait s q => .wait s q
      | .fault s r => .fault s r
      | .range s => .range s

/-- Bytes written by an agent at a virtual address, over any number of pages. -/
def State.spanWrite (s : State) (ag : Agent) (va : Nat) (bs : List PByte) (cls : Fin 8 := 0) :
    AccRes Unit :=
  State.spanWriteAux ag cls (bs.length / 4096 + 2) va bs s

/-- An access made for `who` that waits on a page request joins a list of those that do. -/
def joinWait (l : List PageWait) (who : Nat) (a : Access) (why : Wait) : List PageWait :=
  match why.req with
  | none => l
  | some q =>
    let w : PageWait := ⟨q, who, a.agent, a.va, a.write⟩
    if l.contains w then l else l ++ [w]

/-- Whether an access that waited is this one, made for `who`. -/
def PageWait.is (w : PageWait) (who : Nat) (a : Access) : Bool :=
  w.who == who && w.agent == a.agent && w.va == a.va && w.write == a.write

/-- The next access of a sequence, where the one before succeeded. -/
def AccRes.bind {α β : Type} (r : AccRes α) (k : State → α → AccRes β) : AccRes β :=
  match r with
  | .ok s v => k s v
  | .wait s q => .wait s q
  | .fault s w => .fault s w
  | .range s => .range s

/-- The state an access leaves, however it ends. -/
def AccRes.state {α : Type} : AccRes α → State
  | .ok s _ => s
  | .wait s _ => s
  | .fault s _ => s
  | .range s => s

/-! ### What a command finds in memory (R241, R251) -/

/-- The outcome of reading a line's frame in slice n, at its home or that of a near copy (R241): an uncorrectable error
poisons every unit of the line. -/
def State.frameEccAt (s : State) (n : CellId) (la : Nat) (e : FrameEcc) : State :=
  let s := s.count (FR.HR_ECC_CORR_CNT n) (b2n e.corrected)
  if e.bad = 0 || s.absent la then s
  else
    let s := s.modLine la (fun l => { l with poison := [0, 1, 2, 3] })
    (s.count (FR.HR_ECC_UNCORR_CNT n)).logEvent 0x0204 n.val 2 (la * 256) 0 0

/-- The outcome of reading a line's frame at its home (R241). -/
def State.frameEcc (s : State) (la : Nat) (e : FrameEcc) : State := s.frameEccAt (homeSlice (la * 256)) la e

/-- What a command finds in memory as it reads (R241, R251). -/
def State.memUpset (s : State) (e : MemUpset) : State :=
  if e = {} then s
  else
    let s := s.hbmEcc e.hbm
    let s := e.lines.foldl (fun s l => s.frameEcc l.1 l.2) s
    e.wins.foldl State.winEcc s

end Sys2Proof.Machine
end

