-- ==== Sys2Proof/Machine/SeqCore.lean ====
section
/-! DEFINITION. The sequencer's window of uncommitted instructions: queues (R164), commit (R168),
discarding (R172), fault delivery (R176 to R178), start and halt (R182). -/

namespace Sys2Proof.Machine

/-- The engine queues (R164). -/
inductive Queue where
  | mx | st | mv | vx | ru | sx | hv
  deriving DecidableEq, Repr

/-- The entries of a queue (R164). -/
def Queue.entries : Queue → Nat
  | .mx => 16 | .st => 8 | .mv => 8 | .vx => 16 | .ru => 8 | .sx => 8 | .hv => 4

/-- The queue of a tensor instruction; none for an instruction of the sequencer pipeline (R161,
R164). -/
def Op.queue : Op → Option Queue
  | .mma | .mmat | .gfill | .mxld => some .mx
  | .mxst => some .st
  | .mmv => some .mv
  | .vadd | .vsub | .vmul | .vfma | .vfmaw | .vmin | .vmax | .vcmp | .vsel | .vmov | .vabs | .vneg
  | .vcvt | .fexp2 | .flog2 | .frcp | .frsq | .vsmax | .vsmon | .vsmfin => some .vx
  | .rsum | .rsumd | .rssq | .rmax | .rmin | .ramax | .rfstore | .rfclr => some .ru
  | .sxgo => some .sx
  | .hvsub => some .hv
  | _ => none

/-- Whether an instruction is a tensor instruction (R161). -/
def Op.tensor (o : Op) : Bool := o.queue.isSome

/-- Whether an instruction has the long form (R211). -/
def Op.long : Op → Bool
  | .dld | .dldm | .dsto | .dsetw | .dgetw | .qpush | .qpop | .qcnt | .qmark | .qrewind | .qrel => true
  | o => o.tensor

/-- The length of an instruction in bytes (R158). -/
def Op.len (o : Op) : Nat := if o.long then 16 else 8

/-- The class SER (R165). -/
def Op.ser : Op → Bool
  | .csrw | .tret | .eqnx | .bar | .fence | .isync => true
  | _ => false

/-- Only these issue speculatively (R170). -/
def Op.speculates : Op → Bool
  | .mma | .mmat | .mmv | .mxld => true
  | _ => false

/-- Branches whose path is predicted. -/
def Op.branch : Op → Bool
  | .br | .jalr => true
  | _ => false

/-- How the evaluation of the oldest uncommitted instruction ends: done, with the address to continue
at where it is not the next one, and whether its completion post is made now; a wait, with the stall
counter it adds to; or a fault it holds. -/
inductive Eval where
  | done (s : State) (jump : Option Word := none) (post : Bool := true)
  | wait (s : State) (counter : Option Nat := none)
  | fault (s : State) (f : FaultInfo)

/-- Whether some Harvest submit of cell c is not complete (R165, R208). -/
def State.hvBusy (s : State) (c : CellId) : Bool := s.hv.subs.any (fun b => b.cell == c)

/-- ILLEGAL_INSTR (R179). -/
def Eval.illegal (s : State) : Eval := .fault s { cause := 1 }

/-- The address after an instruction, in the 57-bit space. -/
def nextPc (pc : Word) (o : Op) : Word := BitVec.ofNat 64 ((pc.toNat + o.len) % 2 ^ 57)

/-- An address as the program counter holds it: 57 bits (R153). -/
def pc57 (a : Word) : Word := BitVec.ofNat 64 (a.toNat % 2 ^ 57)

/-- The oldest uncommitted instruction. -/
def Cell.head (x : Cell) : Option InFlight := x.window.head?

/-- SQ_PC as it reads (R180): the oldest uncommitted instruction, or the next to dispatch. -/
def Cell.pc (x : Cell) : Word :=
  match x.window with
  | [] => x.npc
  | e :: _ => e.pc

/-- The speculative tensor instructions among entries. -/
def specCount (w : List InFlight) : Nat := (w.filter (fun e => e.spec)).length

/-- The entries after the oldest uncommitted instruction are discarded and fetch continues at pc
(R172). The counter differs for a misprediction and for a fault (R176). -/
def Cell.discardAfterHead (x : Cell) (pc : Word) : Cell :=
  match x.window with
  | [] => { x with npc := pc, stuck := none }
  | e :: _ => { x with window := [e], npc := pc, runahead := none, stuck := none }

/-- Discarded speculative instructions counted (R172, R110). -/
def Cell.countDiscard (x : Cell) (w : List InFlight) : Cell :=
  if specCount w = 0 then x
  else (x.count CR.SQ_SPEC_DISCARD_CNT (specCount w)).count CR.MX_SPEC_DISCARD_CNT (specCount w)

/-- Whether an address lies in the window of instruction memory (R155). -/
def Cell.inIm (x : Cell) (pc : Nat) : Bool :=
  let b := x.reg CR.SQ_IM_BASE
  b ≤ pc && pc < b + 0x10000

/-- The second word's address of an instruction at pc, in the 57-bit space (R158). -/
def secondWord (pc : Nat) : Nat := (pc + 8) % 2 ^ 57

/-- Whether every word of an instruction at pc comes from IM (R155, R157): none of coherent space, whose line buffers may
miss. -/
def Cell.fetchedFromIm (x : Cell) (pc : Nat) (o : Op) : Bool := x.inIm pc && (!o.long || x.inIm (secondWord pc))

/-- Whether the word at an address lies in IM and is marked with an uncorrectable error (R155, R157). -/
def Cell.imBadAt (x : Cell) (pc : Nat) : Bool :=
  x.inIm pc && x.imBad.has ((pc - x.reg CR.SQ_IM_BASE) / 8)

/-- FETCH_POISON at the address of the word that meets it (R179, log entry 189). -/
def fetchPoison (pc : Nat) : FaultInfo := { cause := 0x03, addr := pc, cls := 3 }

/-- The fault that an instruction holds from its fetch at pc on, where a word of it lies in IM and keeps an
uncorrectable error (R157): it is delivered when the instruction would commit. -/
def Cell.fetchMark (x : Cell) (pc : Nat) (o : Op) : Option FaultInfo :=
  if x.imBadAt pc then some (fetchPoison pc)
  else if o.long && x.imBadAt (secondWord pc) then some (fetchPoison (secondWord pc)) else none

/-- The entries that are no longer speculative once everything before the oldest unresolved BLOOP is resolved
(R170). -/
def settleSpec : List InFlight → List InFlight
  | [] => []
  | e :: w => if e.pred.isSome then e :: w else { e with spec := false } :: settleSpec w

/-- The unresolved BLOOPs with speculative work behind them (R183). -/
def specBranches : List InFlight → Nat
  | [] => 0
  | e :: w => (if e.pred.isSome && w.any (fun k => k.spec) then 1 else 0) + specBranches w

/-- What the commit of the oldest instruction counts (R180, R157, R300): one instruction, the cycles it
ran, line buffer misses of its fetch, and its wait. -/
def State.countCommit (s : State) (c : CellId) (e : InFlight) : State :=
  let s := s.countC c CR.SQ_RETIRED_CNT
  let s := (s.countC c CR.SQ_ACTIVE_CNT (Config.activeCycles s.free)).draw
  let s := if (s.cell c).fetchedFromIm e.pc.toNat e.ins.op then s
    else (s.countC c CR.SQ_IFETCH_MISS_CNT (Config.fetchMisses s.free)).draw
  match e.waited with
  | some o => s.stall c o
  | none => s

/-- The oldest instruction e commits (R168) with the state its evaluation left: it leaves the window,
its completion post is made, and where it does not continue as predicted the later instructions are
discarded (R169, R172). What was speculative behind it alone is so no more (R170). Where others are still in flight, a
stall of dispatch and run-ahead outlast the commit unless it clears the stall (State.recheck, R174, R183). -/
def State.commitHead (s : State) (c : CellId) (e : InFlight) (jump : Option Word) (post : Bool) :
    State :=
  let actual := jump.getD (nextPc e.pc e.ins.op)
  let s := s.countCommit c e
  let s := s.modCell c (fun x =>
    let rest := settleSpec (x.window.drop 1)
    let y := { x with runahead := none, stuck := none }
    match e.next with
    | none => { y with window := [], npc := actual }
    | some p =>
      if p = actual then { (if rest.isEmpty then y else x) with window := rest }
      else
        let y := (y.count CR.SQ_BR_MISPRED_CNT).countDiscard rest
        { y with window := [], npc := actual })
  if post && e.ins.op.long then s.completionPost c e.ins.x.pen e.ins.x.psem else s

/-- A change to the oldest uncommitted instruction. -/
def Cell.modHead (x : Cell) (f : InFlight → InFlight) : Cell :=
  match x.window with
  | [] => x
  | e :: w => { x with window := f e :: w }

/-! ### Barriers (R209) -/

/-- The scope of a barrier instruction of cell c, as a view and an update of the barriers. -/
inductive Scope where
  | band (k : Fin 16)
  | all
  | equinox
  deriving DecidableEq, Repr

/-- The barrier of a scope. -/
def State.barrier (s : State) : Scope → Barrier
  | .band k => s.sync.bands[k]
  | .all => s.sync.all
  | .equinox => s.sync.equinox

/-- The barrier of a scope replaced. -/
def State.setBarrier (s : State) (k : Scope) (b : Barrier) : State :=
  match k with
  | .band i => { s with sync := { s.sync with bands := s.sync.bands.set i b } }
  | .all => { s with sync := { s.sync with all := b } }
  | .equinox => { s with sync := { s.sync with equinox := b } }

/-- The scope that an instruction of cell c waits at, where it is a barrier (R208). -/
def Ins.scope (i : Ins) (c : CellId) : Option Scope :=
  match i.op with
  | .bar => if i.f.func = 0 then some (.band (bandOf c)) else some .all
  | .eqnx => some .equinox
  | _ => none

/-- Cell c arrives at the open barrier of a scope, or, having been counted there already, at the next
one (R209); the generation it arrives at. -/
def Barrier.arrive (b : Barrier) (c : CellId) : Barrier × Nat :=
  if b.arrived.contains c then
    ({ b with next := if b.next.contains c then b.next else b.next ++ [c] }, b.gen + 1)
  else ({ b with arrived := b.arrived ++ [c] }, b.gen)

/-- Cell c withdraws its arrival at generation g, if that has not completed (R182, R209). -/
def Barrier.withdraw (b : Barrier) (c : CellId) (g : Nat) : Barrier :=
  if g = b.gen then { b with arrived := b.arrived.filter (· != c) }
  else { b with next := b.next.filter (· != c) }

/-- The arrival of the oldest instruction withdrawn (R182). -/
def State.withdrawHead (s : State) (c : CellId) : State :=
  match (s.cell c).head with
  | none => s
  | some e =>
    match e.arrived, e.ins.scope c with
    | some g, some k => s.setBarrier k ((s.barrier k).withdraw c g)
    | _, _ => s

/-! ### Halt, start and fault delivery -/

/-- A SEMWAIT that waits leaves its semaphore's line. -/
def Cell.leaveLine (x : Cell) : Cell :=
  match x.window with
  | [] => x
  | e :: _ =>
    if e.ins.op = .semwait then
      let k := BitVec.ofNat 6 e.ins.f.func.toNat
      let m := x.sem k
      x.setSem k { m with line := m.line.filter (fun w => match w with | .seq _ => false | .link _ => true) }
    else x

/-- An oldest instruction whose wait is already satisfied, or whose barrier has completed, commits, also in a cell that
dozes (R182, R209): a halt comes after it. -/
def State.finishGranted (s : State) (c : CellId) : State :=
  match (s.cell c).head with
  | none => s
  | some e =>
    match e.granted, e.fault with
    | some v, none =>
      let s := if e.ins.op = .eqnx then s.modCell c (fun x => x.wrS e.ins.f.rd v) else s
      s.commitHead c e none true
    | _, _ => s

/-- The sequencer halts at a commit boundary (R182): an instruction whose wait is over commits first, uncommitted work
is dropped, speculative work counted, a waiting barrier's arrival withdrawn, and SQ_PC points at the first instruction
not executed. The rows that a GFILL has gathered are dropped with it (log entry 210). -/
def State.haltNow (s : State) (c : CellId) : State :=
  let s := (s.finishGranted c).withdrawHead c
  s.modCell c (fun x =>
    let x := x.leaveLine
    let x := x.countDiscard x.window
    let pc := x.pc
    let x := x.clrReg CR.SQ_CTRL 2
    { x with mode := .halted, npc := pc, window := [], runahead := none, stuck := none, wantArray := false })

/-- A halt request (R182), which ends DOZE (R443). A sequencer that is halted already, on a fault or not, stays as it
is. -/
def State.haltCell (s : State) (c : CellId) : State :=
  match (s.cell c).mode with
  | .running => (s.endDoze c).haltNow c
  | _ => s

/-- A start (R181, R182): ignored while running; it clears the halted condition, SQ_FAULT_CAUSE.valid
and in_handler. A cell that is asleep is woken first and starts then (R443). None starts while the device is in
the fatal condition (R497). -/
def State.startCell (s : State) (c : CellId) : State :=
  let s := s.endDoze c
  let x := s.cell c
  if s.fatal then s else match x.mode with
  | .running => s
  | _ =>
    match x.cp.st with
    | .asleep | .waking =>
      (s.setCell c { (x.orReg CR.SQ_CTRL 1) with
        cp := { x.cp with goal := { x.cp.goal with start := true } } }).requestWake c
    | _ =>
      let x := (x.clrReg CR.SQ_FAULT_CAUSE (2 ^ 63)).clrReg CR.SQ_CTRL 1
      s.setCell c { x with mode := .running, inHandler := false }

/-- The code of a unit in SQ_FAULT_CAUSE.engine (R184). -/
def FaultUnit.code : FaultUnit → Nat
  | .sq => 0 | .mx => 1 | .mv => 2 | .vx => 3 | .sx => 4 | .q => 5 | .hv => 6

/-- SQ_FAULT_CAUSE for a fault (R184). -/
def FaultInfo.word (f : FaultInfo) (double : Bool) : Nat :=
  2 ^ 63 + b2n double * 2 ^ 62 + f.flags % 32 * 2 ^ 40 + f.unit.code * 2 ^ 32
    + f.detail % 2 ^ 24 * 256 + f.cause % 256

/-- The host is told that a cell halted on a fault (R176, R426). -/
def State.notifyHalt (s : State) (c : CellId) : State :=
  (s.orFreg (FR.HI_CELL_HALT (c.val / 64)) (2 ^ (c.val % 64))).hostEvent 0

/-- TAKING A FAULT (R176, R178): the one operation by which a cell takes the fault f of the instruction
at pc. Later instructions are discarded and counted. Outside a handler, the cause, the address and SQ_EPC
are written, and the sequencer continues at SQ_TRAP_VEC or halts with state 3; inside one, the fault is
double, keeps SQ_EPC and halts the sequencer with state 4 at the instruction. MX_SPEC_DISCARD_CNT counts none of those
discarded (log entry 207). -/
def State.takeFault (s : State) (c : CellId) (pc : Word) (f : FaultInfo) : State :=
  let s := s.noteNum c f.unit f.num pc.toNat
  let x := s.cell c
  let x := x.count CR.SQ_FLUSH_CNT (x.window.length - 1)
  let x := { x.leaveLine with window := [], runahead := none, stuck := none }
  let double := x.inHandler
  let x := x.setReg CR.SQ_FAULT_CAUSE (f.word double)
  let x := (x.setReg CR.SQ_FAULT_ADDR f.addr).count CR.SQ_FAULT_CNT
  if double then
    let s := s.setCell c { x with mode := .doubleHalt, npc := pc }
    let s := s.logEvent 0x0103 c.val f.cls f.addr (f.word true) (x.reg CR.SQ_EPC)
    s.notifyHalt c
  else
    let x := x.setReg CR.SQ_EPC pc.toNat
    let vec := x.reg CR.SQ_TRAP_VEC
    let handled := bits (x.reg CR.SQ_CTRL) 3 2 = 0 && vec ≠ 0
    let x := if handled then { x with inHandler := true, npc := BitVec.ofNat 64 vec }
      else { x with mode := .faultHalt, npc := pc }
    let s := (s.setCell c x).logEvent 0x0102 c.val f.cls f.addr (f.word false) pc.toNat
    if handled then s else s.notifyHalt c

/-- The result of an instruction of unit u that raised the events ev: the numeric exception of R75 if one
of its flags is trapped, which leaves s as it is, else what k makes of the state with the events noted. -/
def numeric (s : State) (c : CellId) (e : InFlight) (u : FaultUnit) (ev : NumEvent)
    (k : State → Eval) : Eval :=
  let t := (s.cell c).trapped ev
  if t ≠ 0 then .fault s { cause := 0x10, unit := u, flags := t, num := ev }
  else k (s.noteNum c u ev e.pc.toNat)

/-- What the oldest instruction of cell c finds in memory as it reads (R241, R251). It is met once: an instruction that
waits and is looked at again meets it no more. -/
def State.readUpset (s : State) (c : CellId) (u : Upset) : State :=
  if u.mem = {} then s
  else (s.memUpset u.mem).modCell c (fun x => x.modHead (fun e =>
    { e with ins := { e.ins with u := { e.ins.u with mem := {} } } }))

/-- The errors met while OC is read (R120): corrected ones are counted, the slots of uncorrectable ones poisoned. -/
def Cell.ocErrors (x : Cell) (u : Upset) : Cell :=
  let x := x.count CR.OC_ECC_CORR_CNT u.ocCorrected
  let x := x.count CR.OC_ECC_UNCORR_CNT u.ocBad.length
  { x with ocPoison := u.ocBad.foldl (fun (m : NSet) (k : BitVec 12) => m.add k.toNat) x.ocPoison }

/-- The effects of errors met while an instruction reads OC. They are met once. -/
def State.ocUpset (s : State) (c : CellId) (u : Upset) : State :=
  s.modCell c (fun x =>
    (x.ocErrors u).modHead (fun e => { e with ins := { e.ins with u := { e.ins.u with ocCorrected := 0, ocBad := [] } } }))

/-- The same for an instruction that may read operands in memory as well. -/
def State.operandUpset (s : State) (c : CellId) (u : Upset) : State := (s.readUpset c u).ocUpset c u

/-- The effects of errors met while an engine of cell c reads without an instruction (R120, R241, R251). -/
def State.engineUpset (s : State) (c : CellId) (u : Upset) : State :=
  if u = {} then s else (s.memUpset u.mem).modCell c (fun x => x.ocErrors u)

end Sys2Proof.Machine
end

