-- ==== Sys2Proof/Machine/CellRegs.lean ====
section
/-! DEFINITION. The register region of a cell (R154): what its registers read as, and what a write to
one does (R12, R181 to R186, R194, R299, R304, R312, R319, R465). -/

namespace Sys2Proof.Machine

/-- The accumulators a matrix instruction's span covers (R85, R198). -/
def spanOf (i : Ins) : Nat :=
  let w := i.f.imm32.toNat
  let m := if i.op = .gfill then 64 else 16 * 2 ^ bits w 13 11
  max 1 (m * (16 * 2 ^ bits w 16 14) / 4096)

/-- Whether some uncommitted instruction is in queue k. -/
def Cell.queued (x : Cell) (k : Queue) : Bool := x.window.any (fun e => e.ins.op.queue == some k)

/-- How many uncommitted instructions are in queue k. -/
def Cell.queueLen (x : Cell) (k : Queue) : Nat :=
  (x.window.filter (fun e => e.ins.op.queue == some k)).length

/-- Whether a matrix instruction waits behind the self-test that is requested (R97): it was issued after the request. -/
def Cell.awaitsTest (x : Cell) (e : InFlight) : Bool := x.mx.selftest && !e.ahead

/-- The physical accumulators that the spans of queued array instructions take, oldest first (R91): the oldest has its
own, and each later one takes free ones beside the 8 that the architectural accumulators map, or waits with all behind
it. -/
def takePhys : List Nat → Nat → Nat
  | [], n => n
  | k :: ks, n => if n = 0 || n + k ≤ 4 then takePhys ks (n + k) else n

/-- The spans of the uncommitted instructions that write accumulators, oldest first. -/
def Cell.accSpans (x : Cell) : List Nat :=
  (x.window.filter (fun e => e.ins.op.queue == some .mx)).map (fun e => spanOf e.ins)

/-- The same without those that wait behind a self-test or a loan. -/
def Cell.heldSpans (x : Cell) : List Nat :=
  if x.lent then []
  else (x.window.filter (fun e => e.ins.op.queue == some .mx && !x.awaitsTest e)).map (fun e => spanOf e.ins)

/-- The self-test of a cell is requested (R97): it waits for the matrix instructions that have been issued. -/
def Cell.requestTest (x : Cell) : Cell :=
  if x.mx.selftest then x
  else { x with
    mx := { x.mx with selftest := true }
    window := x.window.map (fun e => { e with ahead := match e.ins.op.queue with
      | some .mx | some .st | some .mv => true
      | _ => false }) }

/-- Whether the oldest instruction is a GFILL that gathers (R105, R115): it holds no fault, and neither a self-test, a
loan nor a failed array holds it back. -/
def Cell.gathering (x : Cell) : Bool :=
  match x.head with
  | none => false
  | some e => e.ins.op == .gfill && e.fault.isNone && x.mode == .running && !x.awaitsTest e && !x.lent &&
      !x.mx.unavailable

/-- MX_STATUS (R115): the sticky bits, and what the window and the unit say. An instruction waiting in its queue
behind a self-test or a loan has taken no physical accumulator (log entry 55). The array, the store path and the MV path
are active while an instruction that uses them is uncommitted, also where that one only waits, and what a Harvest unit
does with a lent array shows in none of the fields (log entry 205). -/
def Cell.mxStatus (x : Cell) : Nat :=
  x.reg CR.MX_STATUS + b2n (x.queued .mx || x.queued .st) + 2 * b2n (x.queued .mv)
    + 4 * b2n x.gathering + 8 * b2n x.mx.selftest
    + 16 * min 12 (takePhys x.heldSpans 0) + 512 * b2n x.mx.unavailable
    + 1024 * b2n x.mx.mvUnavailable

/-- The softmax instructions (R144): each occupies VX and RU together, and works with exponentials, logarithms or
reciprocals of FU. -/
def Op.softmax : Op → Bool
  | .vsmax | .vsmon | .vsmfin => true
  | _ => false

/-- VX_STATUS (R150). A unit is active while an instruction that uses it is uncommitted, also where that one only waits
(log entry 185); a softmax instruction uses VX, FU and RU (R137, R144). -/
def Cell.vxStatus (x : Cell) : Nat :=
  let fu : Op → Bool := fun o => match o with
    | .fexp2 | .flog2 | .frcp | .frsq => true
    | _ => false
  x.reg CR.VX_STATUS + b2n (x.window.any (fun e => e.ins.op.queue == some .vx && !fu e.ins.op))
    + 2 * b2n (x.window.any (fun e => fu e.ins.op || e.ins.op.softmax))
    + 4 * b2n (x.queued .ru || x.window.any (fun e => e.ins.op.softmax))

/-- SX_STATUS (R315). -/
def Cell.sxStatus (x : Cell) : Nat :=
  x.reg CR.SX_STATUS + ((List.finRange 6).map (fun n =>
    match x.slot n with
    | none => 0
    | some t => 2 ^ n.val + (if t.st = .failed then 2 ^ (8 + n.val) else 0))).sum

/-- Whether the sequencer is stalled (R183): the instruction that it fetched could not be dispatched, or the oldest one
is of its own pipeline and waits. -/
def Cell.stalled (x : Cell) : Bool :=
  x.stuck.isSome || match x.head with
    | none => false
    | some e => e.stalls && !e.ins.op.tensor && e.fault.isNone

/-- SQ_STATUS (R183). -/
def Cell.sqStatus (x : Cell) : Nat :=
  let st := match x.mode with
    | .halted => 0
    | .running => if x.stalled then 2 else 1
    | .faultHalt => 3
    | .doubleHalt => 4
  st + 8 * b2n x.inHandler + 16 * b2n x.runahead.isSome + 32 * b2n x.lent
    + 64 * min 2 (specBranches x.window) + 256 * min 16 (specCount x.window)

/-- CP_STATE (R465). -/
def Cell.cpState (x : Cell) : Nat :=
  (match x.cp.st with | .awake => 0 | .doze => 1 | .asleep => 2 | .waking => 3)
    + 8 * b2n x.cp.retained + 16 * b2n x.cp.admitWait

/-- The coordinates of the position of a transfer (R289): of the row numbered `row`, from dimension 1
upward, with the extents of the descriptor. -/
def rowCoord (d : Nat) (row : Nat) : Nat → Nat
  | 0 => 0
  | 1 => row % (bits d 159 144 + 1)
  | 2 => row / (bits d 159 144 + 1) % (bits d 175 160 + 1)
  | 3 => row / ((bits d 159 144 + 1) * (bits d 175 160 + 1)) % (bits d 191 176 + 1)
  | 4 => row / ((bits d 159 144 + 1) * (bits d 175 160 + 1) * (bits d 191 176 + 1)) % (bits d 207 192 + 1)
  | _ => row / ((bits d 159 144 + 1) * (bits d 175 160 + 1) * (bits d 191 176 + 1) * (bits d 207 192 + 1))
      % (bits d 223 208 + 1)

/-- A register of slot n of the stream engine (R314), by its offset in the slot's block. The position of an implicit
transfer is its run of bytes as c1 and the byte in it as c0 (log entry 64). -/
def slotReg (t : Option Transfer) (off : Nat) : Nat :=
  match t with
  | none => 0
  | some t =>
    let co := rowCoord t.desc.toNat t.row
    if off = 0 then slotStatus (some t)
    else if t.implicit && (off = 8 || off = 0x10) then
      (if off = 8 then t.elt % 65536 + t.row % 65536 * 2 ^ 16 else 0)
    else if off = 8 then t.elt % 65536 + co 1 * 2 ^ 16 + co 2 * 2 ^ 32 + co 3 * 2 ^ 48
    else if off = 0x10 then co 4 + co 5 * 2 ^ 16
    else if off = 0x18 then t.done
    else if off = 0x20 then t.faultVa % 2 ^ 57
    else if off = 0x28 then t.indBase
    else if off = 0x30 then t.indLen
    else 0

/-- The register at an exact offset of the cell's region, as it reads (R154). -/
def Cell.view (x : Cell) (o : Nat) : Nat :=
  if o = CR.SQ_STATUS then x.sqStatus
  else if o = CR.SQ_PC then x.pc.toNat
  else if o = CR.MX_STATUS then x.mxStatus
  else if o = CR.VX_STATUS then x.vxStatus
  else if o = CR.SX_STATUS then x.sxStatus
  else if o = CR.CP_STATE then x.cpState
  else if CR.SX_D_STATUS 0 ≤ o ∧ o < CR.SX_D_STATUS 0 + 0x180 then
    slotReg (x.slot ⟨(o - CR.SX_D_STATUS 0) / 0x40 % 6, by omega⟩) ((o - CR.SX_D_STATUS 0) % 0x40)
  else if CR.Q_CFG 0 ≤ o ∧ o < CR.Q_CFG 0 + 0x200 then
    let v := x.conv (BitVec.ofNat 4 ((o - CR.Q_CFG 0) / 0x20))
    let r := (o - CR.Q_CFG 0) % 0x20
    if r = 0 then v.cfg.toNat
    else if r = 8 then v.w.toNat * 2 ^ 32 + v.rd.toNat
    else if r = 0x10 then v.f.toNat * 2 ^ 32 + (if v.markValid then v.mark.toNat else 0)
    else v.stat
  else if CR.SEM_VAL 0 ≤ o ∧ o < CR.SEM_VAL 0 + 0x100 then
    (x.sem (BitVec.ofNat 6 ((o - CR.SEM_VAL 0) / 4))).view
  else match findReg cellRegMap o with
    | some r => if r.kind = .action then 0 else x.reg o
    | none => 0

/-- The width of the register at an exact offset; 0 where there is none. -/
def cellWidth (o : Nat) : Nat :=
  match findReg cellRegMap o with
  | some r => r.width
  | none => 0

/-- The 8-byte unit at an offset (R194): one 64-bit register or two 32-bit registers. -/
def Cell.unit (x : Cell) (o : Nat) : Word :=
  if cellWidth o = 64 then BitVec.ofNat 64 (x.view o)
  else BitVec.ofNat 64 (x.view o % 2 ^ 32 + (if cellWidth (o + 4) = 32 then x.view (o + 4) else 0) * 2 ^ 32)

/-- A value written to a plain register by its masks (R12, R15), where only the bits of em are written. -/
def maskWrite (r : RegInfo) (old v em : Nat) : Nat :=
  let rw := r.rw &&& em
  let x := (old - (old &&& rw)) + (v &&& rw)
  let x := x - (x &&& (v &&& (r.w1c &&& em)))
  x ||| (v &&& (r.w1s &&& em))

/-- A cell goes to ASLEEP (R442): without retention OC and IM become undefined and the scalar and
descriptor registers read zero; the accumulators become undefined in either case. The recorded masks stay as they are, and
with IM undefined no word of it keeps its uncorrectable error (log entry 206). -/
def Cell.fallAsleep (x : Cell) (draw : Nat) : Cell :=
  let keep := bitB (x.reg CR.CP_CTRL) 2
  let x := { x with acc := [], accEpoch := draw + 1 }
  let x := { x with cp := { x.cp with st := .asleep, retained := keep } }
  if keep then x
  else { x with
    oc := [], ocEpoch := draw + 1, ocPoison := [], im := [], imEpoch := draw + 1, imBad := []
    s := Vector.replicate 32 0, d := Vector.replicate 16 0 }

/-- Whether every engine of a cell is idle: no uncommitted instruction, no transfer, no lent array and
no self-test. -/
def Cell.idle (x : Cell) : Bool :=
  x.window.isEmpty && (List.finRange 6).all (fun n => (x.slot n).isNone) && !x.lent && !x.mx.selftest

/-- A write of 1 to CP_CTRL.sleep (R443): ignored unless the sequencer is halted and every engine
idle. -/
def State.sleepCell (s : State) (c : CellId) : State :=
  let x := s.cell c
  let up := match x.cp.st with
    | .awake | .doze => true
    | .asleep | .waking => false
  if x.mode ≠ .running && x.idle && up then
    let s := s.endDoze c
    (s.setCell c ((s.cell c).fallAsleep s.free)).draw.stopPll
  else s

/-- A packet that slot n of cell c has open in a conveyor stays open without a producer (R309). -/
def State.orphan (s : State) (c : CellId) (n : Fin 6) (t : Transfer) : State :=
  if t.f 123 121 = 3 && !t.implicit then
    s.modCell (cellNo (t.f 71 64)) (fun x =>
      let k := BitVec.ofNat 4 (t.f 75 72)
      let v := x.conv k
      if v.openBy = some (.slot c n) then x.setConv k { v with openBy := some .gone } else x)
  else s

/-- A failed slot restarted in place, or freed, by SX_Dn_CTRL (R304). One that is resumed during a floor reset waits for its
end (R509). -/
def State.slotCtrl (s : State) (c : CellId) (n : Fin 6) (v : Nat) : State :=
  let x := s.cell c
  match x.slot n with
  | none => s
  | some t =>
    if t.st ≠ .failed || (bitB v 0 && bitB v 1) then s
    else if bitB v 0 then
      s.setCell c (x.setSlot n (some { t with
        st := .running, reason := 0, detail := 0, faultVa := 0, indBase := 0, indLen := 0, held := s.floorBusy }))
    else if bitB v 1 then (s.setCell c (x.setSlot n none)).orphan c n t
    else s

/-- A write to the register at an exact offset of cell c, of the bits of em (R12, R154, R194). A reserved
offset ignores it. A write of SQ_CTRL from outside with halt and start both 1 halts a running cell and then starts it
(log entry 186). -/
def State.writeCell (s : State) (o : Origin) (c : CellId) (off v em : Nat) : State :=
  let x := s.cell c
  match findReg cellRegMap off with
  | none => s
  | some r =>
    let new := maskWrite r (x.view off) v em
    let set (new : Nat) := s.setCell c (x.setReg off new)
    if off = CR.SQ_CTRL then
      let old := x.reg off
      let mode := if 2 ≤ bits v 3 2 then bits old 3 2 else bits v 3 2
      let s := s.setCell c (x.setReg off ((v &&& 0xE0) + 4 * mode + (old &&& 3)))
      let s := if bitB v 1 then
          (match o with
            | .ownCell => s.modCell c (fun x => x.orReg off 2)
            | _ => s.haltCell c)
        else s
      if bitB v 0 then s.startCell c else s
    else if off = CR.SQ_PC then
      if x.mode = .running then s else s.setCell c { x with npc := BitVec.ofNat 64 new }
    else if off = CR.SQ_YIELD_LIMIT then
      if 64 ≤ new ∧ new ≤ 4096 then set new else s
    else if off = CR.SQ_FAULT_CAUSE then
      if bitB (v &&& em) 63 then set 0 else s
    else if off = CR.MX_SELFTEST then
      if bitB v 0 then s.setCell c x.requestTest else s
    else if off = CR.SX_SHARE then
      if bits v 7 0 + bits v 15 8 + bits v 23 16 = 100 then set new
      else s.setCell c (x.orReg CR.SX_STATUS 0x80)
    else if CR.SX_D_STATUS 0 ≤ off ∧ off < CR.SX_D_STATUS 0 + 0x180 then
      if (off - CR.SX_D_STATUS 0) % 0x40 = 0x38 then
        s.slotCtrl c ⟨(off - CR.SX_D_STATUS 0) / 0x40 % 6, by omega⟩ (v &&& em)
      else s
    else if CR.Q_CFG 0 ≤ off ∧ off < CR.Q_CFG 0 + 0x200 then
      let k := BitVec.ofNat 4 ((off - CR.Q_CFG 0) / 0x20)
      if (off - CR.Q_CFG 0) % 0x20 = 0 then s.setCell c (x.setConv k ((x.conv k).writeCfg new)) else s
    else if CR.SEM_VAL 0 ≤ off ∧ off < CR.SEM_VAL 0 + 0x100 then
      s.setCell c (x.writeSem (BitVec.ofNat 6 ((off - CR.SEM_VAL 0) / 4)) v)
    else if CR.CP_CTRL ≤ off then
      match o with
      | .ownCell => s
      | _ =>
        if off = CR.CP_CTRL then
          let s := s.setCell c (x.setReg off (new - (new &&& 2)))
          if bitB v 1 then s.sleepCell c else s
        else set new
    else match r.kind with
      | .plain => s.setCell c (x.setReg off (maskWrite r (x.reg off) v em))
      | .derived | .action => s

/-- A write to the 8-byte unit at an offset by CSRW (R194): the enabled halves, each by the access code
of its register. -/
def State.writeUnit (s : State) (o : Origin) (c : CellId) (off v : Nat) (lo hi : Bool) : State :=
  if cellWidth off = 64 then
    s.writeCell o c off v ((if lo then 0xFFFFFFFF else 0) + (if hi then 0xFFFFFFFF00000000 else 0))
  else
    let s := if lo && cellWidth off = 32 then s.writeCell o c off (v % 2 ^ 32) 0xFFFFFFFF else s
    if hi && cellWidth (off + 4) = 32 then s.writeCell o c (off + 4) (v / 2 ^ 32) 0xFFFFFFFF else s

end Sys2Proof.Machine
end

