-- ==== Sys2Proof/Machine/Dot.lean ====
section
/-! DEFINITION. Dot products: the accumulation order of R59, the screening of R61, split precision
(R63, R64) and the position of the first NV of an element (R69). -/

namespace Sys2Proof.Machine

/-- An exact product as R61 classes it: NaN with its cause, an infinity, or a finite value. -/
inductive Prod where
  | bad (cause : Nat)
  | inf (neg : Bool)
  | fin (neg : Bool) (m : Nat) (e : Int)
  deriving DecidableEq, Repr

/-- Whether m * 2^e is 2^128 or more. -/
def big128 (m : Nat) (e : Int) : Bool := m != 0 && (ilog2 m : Int) + e ≥ 128

/-- The product of two operand elements, and whether it raises OF (R61): a NaN operand is cause 1,
0 * infinity cause 2; a finite product of 2^128 or more is an infinity of its sign. With `lim` false,
a product of finite operands counts as finite (the screening of split mode, R64). -/
def product (lim : Bool) (a b : FV) : Prod × Bool :=
  if a.isNan || b.isNan then (.bad 1, false)
  else
    match mulFV a b with
    | (_, true) => (.bad 2, false)
    | (.nan, _) => (.bad 1, false)
    | (.inf s, _) => (.inf s, false)
    | (.fin s m e, _) => if lim && big128 m e then (.inf s, true) else (.fin s m e, false)

/-- The result of one output element. -/
structure DotResult where
  /-- The FP32 result. -/
  acc : Nat
  flags : Flags
  /-- Cause, pass and k of the first NV, k counted within the pass. -/
  nv : Option (Nat × Nat × Nat)
  deriving DecidableEq, Repr

/-- The first NaN operand or 0 * infinity in increasing k: its cause and k (R61 step 1). -/
def firstBad : List Prod → Nat → Option (Nat × Nat)
  | [], _ => none
  | .bad c :: _, k => some (c, k)
  | _ :: ps, k => firstBad ps (k + 1)

/-- R61 step 3: given the sign of an infinite term seen so far, the k of the first infinite product
of the other sign. -/
def firstClash : List Prod → Nat → Option Bool → Option Nat
  | [], _, _ => none
  | .inf s :: ps, k, none => firstClash ps (k + 1) (some s)
  | .inf s :: ps, k, some t => if s = t then firstClash ps (k + 1) (some t) else some k
  | _ :: ps, k, t => firstClash ps (k + 1) t

/-- The sign of the first infinite product. -/
def firstInf : List Prod → Option Bool
  | [] => none
  | .inf s :: _ => some s
  | _ :: ps => firstInf ps

/-- Steps 1 to 4 of R61: the result and the NV event (cause, k), or none when step 5 applies. -/
def screen (ps : List Prod) (acc : FV) : Option (FV × Option (Nat × Nat)) :=
  match firstBad ps 0 with
  | some e => some (.nan, some e)
  | none =>
    if acc.isNan then some (.nan, none)
    else
      let t := match acc with
        | .inf s => some s
        | _ => none
      match firstClash ps 0 t with
      | some k => some (.nan, some (3, k))
      | none =>
        match t with
        | some s => some (.inf s, none)
        | none => (firstInf ps).map fun s => (.inf s, none)

/-- floor(log2 |p|) of the largest product, none when every product is zero. -/
def largestExp : List Prod → Option Int
  | [] => none
  | .fin _ m e :: ps =>
    if m = 0 then largestExp ps
    else
      let x := (ilog2 m : Int) + e
      match largestExp ps with
      | none => some x
      | some y => some (max x y)
  | _ :: ps => largestExp ps

/-- Whether every product is a negative zero. -/
def allNegZero (ps : List Prod) : Bool :=
  ps.all fun p => match p with
    | .fin s m _ => s && m == 0
    | _ => false

/-- The sum of the products truncated toward zero at units of 2^g (R59). -/
def truncSum (g : Int) : List Prod → Int
  | [] => 0
  | .fin s m e :: ps =>
    let q : Int := (shiftFloor m (e - g) : Nat)
    (if s then -q else q) + truncSum g ps
  | _ :: ps => truncSum g ps

/-- The exact chunk sum of R59 with its 48-bit window. -/
def chunkSum (ps : List Prod) : FV :=
  match largestExp ps with
  | none => .zero (allNegZero ps)
  | some x =>
    let g := x - 47
    let s := truncSum g ps
    if s = 0 then .zero false else .fin (decide (s < 0)) s.natAbs g

/-- One chunk of R59: its sum rounded to FP32, then added to the accumulator with FP32 rounding. -/
def chunkStep (ps : List Prod) (acc : Nat) : Nat × Flags :=
  let (c, f₁) := rne .fp32 (chunkSum ps)
  let (a, f₂) := fAdd .fp32 acc c
  (a, f₁.or f₂)

/-- The chunks of R59 in increasing k (fuel is the number of chunks). `k` is the first k of the next
chunk; the NV event is the first k of the chunk whose addition forms the NaN. -/
def chunkLoop : Nat → List Prod → Nat → Nat → Flags → Option Nat → Nat × Flags × Option Nat
  | 0, _, _, acc, fl, nv => (acc, fl, nv)
  | n + 1, ps, k, acc, fl, nv =>
    let (a, f) := chunkStep (ps.take 32) acc
    let nv := if f.nv && nv.isNone then some k else nv
    chunkLoop n (ps.drop 32) (k + 32) a (fl.or f) nv

/-- The products of an element and whether any raises OF. -/
def products (lim : Bool) : List FV → List FV → List Prod × Bool
  | a :: as, b :: bs =>
    let (p, o) := product lim a b
    let (ps, o') := products lim as bs
    (p :: ps, o || o')
  | _, _ => ([], false)

/-- One output element over exact operand elements `as`, `bs` with incoming FP32 accumulator `acc`
(R59, R61). -/
def dotElem (as bs : List FV) (acc : Nat) (pass : Nat) : DotResult :=
  let (ps, o) := products true as bs
  let fo : Flags := { of := o }
  match screen ps (readOp .fp32 acc) with
  | some (v, ev) =>
    { acc := (rne .fp32 v).1, flags := fo.or { nv := ev.isSome },
      nv := ev.map fun (c, k) => (c, pass, k) }
  | none =>
    let (a, f, nv) := chunkLoop ((ps.length + 31) / 32) ps 0 acc fo none
    { acc := a, flags := f, nv := nv.map fun k => (3, pass, k) }

/-- A finite FP32 value rounded to BF16, or the largest finite BF16 of its sign where that rounding
would overflow (R63). The rounding itself raises no flag (log entry 177). -/
def bf16Part (v : FV) : FV :=
  let (b, f) := rne .bf16 v
  if f.of then decodeExact .bf16 ((if v.neg then 0x8000 else 0) + 0x7F7F) else decodeExact .bf16 b

/-- hi, mid and lo of R63. With them the split is exact from 2^-110 on, and loses up to 2^-134 below (R65). -/
def splitParts (x : FV) : FV × FV × FV :=
  let hi := bf16Part x
  let r := (addFV x (negFV hi)).1
  let mid := bf16Part r
  let lo := bf16Part (addFV r (negFV mid)).1
  (hi, mid, lo)

/-- Which part of an operand a partial pass uses. -/
inductive Part where
  | hi | mid | lo
  deriving DecidableEq, Repr

/-- A part of a split operand. -/
def Part.of (p : Part) (t : FV × FV × FV) : FV :=
  match p with
  | .hi => t.1
  | .mid => t.2.1
  | .lo => t.2.2

/-- The passes of R64 in order: 2-way (`ways` = 2) or 3-way. -/
def splitPasses (ways : Nat) : List (Part × Part) :=
  if ways = 2 then [(.mid, .hi), (.hi, .mid), (.hi, .hi)]
  else [(.lo, .hi), (.hi, .lo), (.mid, .mid), (.mid, .hi), (.hi, .mid), (.hi, .hi)]

/-- The passes one after another into the same accumulator (R64). An event that forms in a pass
records the pass's number. -/
def splitLoop (ta tb : List (FV × FV × FV)) : List (Part × Part) → Nat → DotResult → DotResult
  | [], _, r => r
  | (pa, pb) :: rest, n, r =>
    let d := dotElem (ta.map pa.of) (tb.map pb.of) r.acc n
    splitLoop ta tb rest (n + 1)
      { acc := d.acc, flags := r.flags.or d.flags, nv := if r.nv.isSome then r.nv else d.nv }

/-- One output element in split mode over FP32 operand elements (R64), computed bit for bit, so that its distance
from the exact dot product keeps the bounds of R65. -/
def dotSplit (ways : Nat) (as bs : List FV) (acc : Nat) : DotResult :=
  let (ps, _) := products false as bs
  match screen ps (readOp .fp32 acc) with
  | some (v, ev) =>
    { acc := (rne .fp32 v).1, flags := { nv := ev.isSome }, nv := ev.map fun (c, k) => (c, 0, k) }
  | none =>
    splitLoop (as.map splitParts) (bs.map splitParts) (splitPasses ways) 1
      { acc := acc, flags := .none, nv := none }

end Sys2Proof.Machine
end

