-- ==== Sys2Proof/Machine/Operands.lean ====
section
/-! DEFINITION. Operand forms of instructions: reserved fields (R16, R188, R189), memory operands and
OC operands of scalar instructions (R191). -/

namespace Sys2Proof.Machine

/-- The fields of a short-form word or of a first word that an instruction reads. -/
structure Reads where
  imm : Bool := false
  func : Bool := false
  rd : Bool := false
  ra : Bool := false
  rb : Bool := false

/-- Whether every field of the first word that is not read is zero (R16, R188). -/
def sOnly (f : SForm) (r : Reads) : Bool :=
  (r.imm || f.imm32 == 0) && (r.func || f.func == 0) && (r.rd || f.rd == 0) && (r.ra || f.ra == 0) &&
    (r.rb || f.rb == 0)

/-- The fields of a second word that an instruction reads, besides psem and pen. -/
structure ReadsL where
  a : Bool := false
  b : Bool := false
  c : Bool := false
  dsel : Bool := false
  q : Bool := false
  acc : Bool := false
  ext : Bool := false

/-- Whether every field of the second word that is not read is zero, and psem with pen = 0 (R188,
R189). -/
def lOnly (x : LForm) (r : ReadsL) : Bool :=
  (r.a || x.oc_a == 0) && (r.b || x.oc_b == 0) && (r.c || x.oc_c == 0) && (r.dsel || x.dsel == 0) &&
    (r.q || x.q == 0) && (r.acc || x.acc == 0) && (r.ext || x.ext == 0) && (x.pen || x.psem == 0)

/-- The address of a memory operand [ra + imm] (R191). -/
def memAddr (x : Cell) (f : SForm) : Nat := (x.rdS f.ra + f.imm32.signExtend 64).toNat

/-- The value loaded from bytes: zero-extended, or sign-extended (R191). -/
def loadValue (bs : List Byte) (signed : Bool) : Word :=
  if signed then sext64 (8 * bs.length) (leNat bs) else BitVec.ofNat 64 (leNat bs)

/-- The fault of a scalar access whose translation failed (R179, R262). A read of a page without r is
reported as not mapped (log entry 12). -/
def accessFault (write : Bool) (reason va : Nat) : FaultInfo :=
  if reason = 11 then { cause := 0x06, addr := va, cls := 3 }
  else if reason = 2 && write then { cause := 0x05, detail := 1, addr := va }
  else if reason = 7 ∨ reason = 8 then { cause := 0x05, detail := 2, addr := va }
  else { cause := 0x05, addr := va }

/-- DATA_POISON of a scalar access (R179). -/
def dataPoison (va : Nat) : FaultInfo := { cause := 0x06, addr := va, cls := 3 }

/-- The state in which the oldest instruction of cell c waits for memory (R300): its wait for another cause, if it has
had one, is counted, and this one when it ends. -/
def State.waitOn (s : State) (c : CellId) (why : Wait) (write : Bool) : State :=
  let k := why.counter write
  let s := match (s.cell c).head.bind (·.waited) with
    | some j => if k.isSome && k != some j then s.stall c j else s
    | none => s
  s.modCell c (fun x => x.modHead (fun e => { e with req := why.req, waited := k.or e.waited }))

/-- A scalar read of n bytes of coherent space (R191, R262, R220): misalignment, translation, window and
poison are checked, in this order, and then the value is used. -/
def scalarRead (s : State) (c : CellId) (va n : Nat) (k : State → List Byte → Eval) : Eval :=
  if va % n ≠ 0 then .fault s { cause := 0x04, detail := n, addr := va }
  else match s.vread { agent := .cell c, va := va } n with
    | .ok s d => if anyBad d then .fault s (dataPoison va) else k s (plain d)
    | .wait s why => .wait (s.waitOn c why false)
    | .fault s r => .fault s (accessFault false r va)
    | .range s => .fault s { cause := 0x05, addr := va }

/-- A scalar write of bytes to coherent space (R191). -/
def scalarWrite (s : State) (c : CellId) (va : Nat) (bs : List Byte) : Eval :=
  if va % bs.length ≠ 0 then .fault s { cause := 0x04, detail := bs.length, addr := va }
  else match s.vwrite { agent := .cell c, va := va } (clean bs) with
    | .ok s _ => .done s
    | .wait s why => .wait (s.waitOn c why true)
    | .fault s r => .fault s (accessFault true r va)
    | .range s => .fault s { cause := 0x05, addr := va }

/-- A load-like instruction's wait beyond its minimum latency is of unknown length (R300, log entry 3). -/
def State.loadStall (s : State) (c : CellId) : State := s.stall c CR.SX_STALL_DATA_CNT

/-- One of the 57-bit branch targets: ra + imm, or the instruction's address plus an offset. -/
def relTarget (pc : Word) (off : BitVec 32) : Word := pc57 (pc + off.signExtend 64)

end Sys2Proof.Machine
end

