-- ==== Sys2Proof/Machine/Matrix.lean ====
section
/-! DEFINITION. The matrix engine and the matrix-vector path (R77 to R112, R198 to R202). -/

namespace Sys2Proof.Machine

/-! ### Descriptors and shapes -/

/-- A matrix operand descriptor (R200). -/
structure MDesc where
  base : Nat
  stride : Nat
  sstride : Nat
  sbase : Nat
  fmt : Nat
  scale : Nat
  space : Nat
  layout : Nat
  row0 : Nat
  col0 : Nat
  cols : Nat
  rsvd : Bool
  deriving DecidableEq, Repr

/-- The fields of a descriptor register (R200). -/
def mdesc (d : Desc) : MDesc :=
  let x := d.toNat
  { base := bits x 56 0, stride := bits x 95 64, sstride := bits x 127 96, sbase := bits x 184 128
    fmt := bits x 195 192, scale := bits x 197 196, space := bits x 199 198, layout := bits x 201 200
    row0 := bits x 287 256, col0 := bits x 319 288, cols := bits x 351 320
    rsvd := bits x 63 57 != 0 || bits x 191 185 != 0 || bits x 255 202 != 0 || bits x 511 352 != 0 }

/-- The format codes of R200 and R102. -/
def fmtOf : Nat → Option Fmt
  | 0 => some .fp32 | 1 => some .bf16 | 2 => some .fp16 | 3 => some .e4m3 | 4 => some .e5m2 | _ => none

/-- A tile's shape (R85, R198). -/
structure Shape where
  m : Nat
  n : Nat
  k : Nat
  zs : Bool
  split : Nat
  maskEn : Bool
  deriving DecidableEq, Repr

/-- The shape word of MMA, MMAT and GFILL (R198); none for an illegal one (R85), given the base
accumulator. -/
def shapeOf (w : Nat) (gfill : Bool) (acc : Nat) : Option Shape :=
  let mc := bits w 13 11
  let nc := bits w 16 14
  let m := if gfill then 64 else 16 * 2 ^ mc
  let n := 16 * 2 ^ nc
  if 2 ^ 21 ≤ w || 5 ≤ mc || 5 ≤ nc || bits w 18 17 = 3 then none
  else if gfill && (mc ≠ 0 || bitB w 20 || bits w 18 17 ≠ 0) then none
  else if 32768 < m * n || acc % (max 1 (m * n / 4096)) ≠ 0 then none
  else some { m, n, k := 32 * (bits w 10 0 + 1), zs := bitB w 19, split := bits w 18 17, maskEn := bitB w 20 }

/-- The accumulators of a shape (R80). -/
def Shape.span (h : Shape) : Nat := max 1 (h.m * h.n / 4096)

/-- Rows or columns 0 to n - 1 that a mask leaves active, from bit `lo` of its slot (R92). -/
def activeOf (mask : Nat) (lo n : Nat) : List Nat := (List.range n).filter (fun i => bitB mask (lo + i))

/-! ### Operands in OC and in the window -/

/-- MX_OPERAND for an operand (R111, R179): the address of a window operand, and for instructions
outside the array the OC slot. -/
def mxOperand (u : FaultUnit) (slot addr : Nat) : FaultInfo :=
  { cause := 0x40, detail := slot, addr := addr, unit := u }

/-- The window address that a fault reports for an operand: 0 unless it is in space 1. -/
def MDesc.at (d : MDesc) : Nat := if d.space = 1 then d.base else 0

/-- The slot that a fault of an instruction outside the array reports for an OC operand. -/
def MDesc.slot (d : MDesc) : Nat := if d.space = 0 then d.base / 64 else 0

/-- A part of an operand: its space, address and length. -/
abbrev OpRange := Nat × Nat × Nat

/-- Whether part of an operand lies inside its space for cell c: OC, or the configured own window (R111, R214). -/
def State.inSpace (s : State) (c : CellId) (r : OpRange) : Bool :=
  if r.1 = 0 then r.2.1 + r.2.2 ≤ 0x40000
  else 0x200000000 ≤ r.2.1 && match s.winCheck c (r.2.1 - 0x200000000) r.2.2 with
    | .ok () => true
    | _ => false

/-- Whether some part of an operand waits for a resize of the own window (R215). -/
def State.opsWait (s : State) (c : CellId) (rs : List OpRange) : Bool :=
  rs.any (fun r => r.1 != 0 && 0x200000000 ≤ r.2.1 && match s.winCheck c (r.2.1 - 0x200000000) r.2.2 with
    | .wait _ _ => true
    | _ => false)

/-- The 512-byte rows of window operands that take the neighbour path (R83, R238, log entry 202). -/
def State.countRows (s : State) (c : CellId) (rs : List OpRange) : State :=
  if bits (s.freg (FR.HR_STATUS c)) 7 4 = 0 then s
  else rs.foldl (fun s r =>
    if r.1 = 0 then s
    else
      let lo := (r.2.1 - 0x200000000) / 512
      (List.range ((r.2.1 - 0x200000000 + r.2.2 + 511) / 512 - lo)).foldl (fun s i =>
        s.countBypass c (winLayer (512 * (lo + i)))) s) s

/-- How often the array reads each weight row of a tile of mm rows (R87): once, or in sequential order once for each
block of 64 rows. -/
def Cell.weightReads (x : Cell) (mm : Nat) : Nat := if bitB (x.reg CR.MX_CTRL) 0 then max 1 (mm / 64) else 1

/-- n bytes of OC or of the own window at an operand address. -/
def State.opBytes (s : State) (c : CellId) (space a n : Nat) : List Byte :=
  if space = 0 then (s.cell c).ocRead a n else (s.slice c).winBytes (a - 0x200000000) n

/-- Whether the 64-byte unit at an operand address is poisoned. -/
def State.opBad (s : State) (c : CellId) (space a : Nat) : Bool :=
  if space = 0 then (s.cell c).ocPoison.has (a / 64)
  else (s.slice c).winPoison.has ((a - 0x200000000) / 64)

/-- An element of esize bytes at an operand address. -/
def State.opElem (s : State) (c : CellId) (space a es : Nat) : Nat := leNat (s.opBytes c space a es)

/-- The use of an operand in the table of R201. -/
inductive MUse where
  | act | actPlain | vec | weight | weightT
  deriving DecidableEq, Repr

/-- Whether a descriptor's fields suit its use (R201): reserved values, values outside the table and
non-zero fields that the use does not read are refused. The weights of MMAT may have a tile scale in every format (log
entry 179). -/
def MDesc.suits (d : MDesc) (use : MUse) (split : Bool) : Bool :=
  let scaled := d.scale != 0
  let fmtOk := if split then d.fmt == 0 else decide (1 ≤ d.fmt ∧ d.fmt ≤ 4)
  let mx := decide (d.fmt = 3 ∨ d.fmt = 4)
  let common := !d.rsvd && fmtOk && d.row0 == 0 && d.cols == 0 && (scaled || d.sbase == 0)
  let isAct := d.layout == 0 && d.stride == 0 && d.sstride == 0 && d.col0 == 0
  let isWt := d.space == 1 && d.layout == 1
  common && match use with
    | .act => isAct && d.space ≤ 1 && (d.scale == 0 || (mx && d.scale ≤ 2))
    | .actPlain => isAct && d.space ≤ 1 && d.scale == 0
    | .vec => isAct && d.space == 0 && (d.scale == 0 || (mx && d.scale ≤ 2))
    | .weight => isWt && (d.scale == 0 || (mx && d.scale ≤ 2)) && (scaled || d.sstride == 0)
    | .weightT => isWt && (d.scale == 0 || d.scale == 2) && d.sstride == 0

/-- The offset of element (m, k) of a bank of mm rows (R82). -/
def bankOff (mm kk es m k : Nat) : Nat := m / 64 * (kk * 64 * es) + (k * min mm 64 + m % 64) * es

/-- The offset of element (k, n) of a set of panels with stride p and column offset col0 (R83). -/
def panelOff (p col0 es k n : Nat) : Nat := n / 64 * p + (k * 64 + col0 + n % 64) * es

/-- The offset of the scale of row m and chunk c of an activation operand (R84). -/
def actScaleOff (mm kk m c : Nat) : Nat := m / 64 * (kk / 32 * 64) + c * min mm 64 + m % 64

/-- The offset of the scale of chunk c and column n of a weight operand (R84). -/
def wtScaleOff (sp n c : Nat) : Nat := n / 64 * sp + c * 64 + n % 64

/-- An operand laid out: where element (line, k) lies, and its scale for a chunk, by operand line (a row
of the activations, a column of the weights). -/
structure Lines where
  space : Nat
  fmt : Fmt
  elem : Nat → Nat → Nat
  scaleAt : Nat → Nat → Option Nat

/-- The activations of a tile (R82, R84). -/
def actLines (d : MDesc) (f : Fmt) (mm kk : Nat) : Lines where
  space := d.space
  fmt := f
  elem m k := d.base + bankOff mm kk f.esize m k
  scaleAt m c := if d.scale = 0 then none
    else if d.scale = 1 then some (d.sbase + actScaleOff mm kk m c) else some d.sbase

/-- The weights of a tile (R83, R84). -/
def wtLines (d : MDesc) (f : Fmt) : Lines where
  space := d.space
  fmt := f
  elem n k := d.base + panelOff d.stride d.col0 f.esize k n
  scaleAt n c := if d.scale = 0 then none
    else if d.scale = 1 then some (d.sbase + wtScaleOff d.sstride n c) else some d.sbase

/-- The weights of MMAT, read transposed: line i, dot index j (R99). -/
def wtLinesT (d : MDesc) (f : Fmt) : Lines where
  space := d.space
  fmt := f
  elem i j := d.base + j / 64 * d.stride + (i * 64 + d.col0 + j % 64) * f.esize
  scaleAt _ _ := if d.scale = 0 then none else some d.sbase

/-- The values of one line of an operand (R59, R84). -/
def Lines.values (l : Lines) (s : State) (c : CellId) (i kk : Nat) : List FV :=
  (List.range kk).map (fun k =>
    let v := readOp l.fmt (s.opElem c l.space (l.elem i k) l.fmt.esize)
    match l.scaleAt i (k / 32) with
    | none => v
    | some a => scaledFV (e8m0 (s.opElem c l.space a 1)) v)

/-- The first poisoned unit that feeding a line meets: (chunk, unit address). -/
def Lines.poison (l : Lines) (s : State) (c : CellId) (i kk : Nat) : Option (Nat × Nat) :=
  (List.range kk).findSome? (fun k =>
    let a := l.elem i k / 64 * 64
    match l.scaleAt i (k / 32) with
    | some b =>
      if s.opBad c l.space b then some (k / 32, if l.space = 1 then min a (b / 64 * 64) else a)
      else if s.opBad c l.space a then some (k / 32, a) else none
    | none => if s.opBad c l.space a then some (k / 32, a) else none)

/-- The earlier of two meetings with poison. -/
def firstMeet : Option (Nat × Nat) → Option (Nat × Nat) → Option (Nat × Nat)
  | none, b => b
  | a, none => a
  | some a, some b => if b.1 < a.1 ∨ (b.1 = a.1 ∧ b.2 < a.2) then some b else some a

/-- The first poison that any line of a list meets; the address counts only in the window (R179). -/
def Lines.poisonIn (l : Lines) (s : State) (c : CellId) (is : List Nat) (kk : Nat) : Option (Nat × Nat) :=
  (is.foldl (fun r i => firstMeet r (l.poison s c i kk)) none).map
    (fun p => (p.1, if l.space = 1 then p.2 else 0))

/-- What an activation operand covers: its elements, and its scales (R82, R84). -/
def actRanges (d : MDesc) (f : Fmt) (mm kk : Nat) : List OpRange :=
  (d.space, d.base, mm * kk * f.esize) ::
    (if d.scale = 0 then [] else [(d.space, d.sbase, if d.scale = 1 then mm * (kk / 32) else 1)])

/-- Whether the activations lie inside their space, aligned (R82, R84, R111). -/
def actFits (s : State) (c : CellId) (d : MDesc) (f : Fmt) (mm kk : Nat) : Bool :=
  d.base % 64 = 0 && (actRanges d f mm kk).all (s.inSpace c)

/-- What a weight operand with nn columns and kk rows covers: its panels, and their scales (R83, R84). -/
def wtRanges (d : MDesc) (f : Fmt) (kk nn : Nat) : List OpRange :=
  let nb := ceilDiv nn 64
  (1, d.base, (nb - 1) * d.stride + kk * 64 * f.esize) ::
    (if d.scale = 0 then []
      else [(1, d.sbase, if d.scale = 1 then (nb - 1) * d.sstride + (kk / 32 - 1) * 64 + min nn 64 else 1)])

/-- Whether weights with nn columns and kk rows lie inside the window, aligned, with a legal column
offset (R83, R84, R111). -/
def wtFits (s : State) (c : CellId) (d : MDesc) (f : Fmt) (kk nn : Nat) : Bool :=
  d.base % 512 = 0 && d.stride % 512 = 0 && (if nn < 64 then d.col0 + nn ≤ 64 else d.col0 = 0) &&
    (d.scale != 1 || d.sstride % 64 = 0) && (wtRanges d f kk nn).all (s.inSpace c)

/-! ### The arithmetic of a tile -/

/-- The element (m, n) of a tile (R59, R64): its result and flags. -/
def tileElem (split : Nat) (as bs : List FV) (inc : Nat) : DotResult :=
  if split = 0 then dotElem as bs inc 0 else dotSplit (split + 1) as bs inc

/-- The events of one element added to those of the instruction (R67, R69). -/
def NumEvent.addDot (e : NumEvent) (r : DotResult) (m n : Nat) : NumEvent :=
  { counts := e.counts.add r.flags
    loc := NvLoc.first e.loc (r.nv.map (fun p =>
      { cause := p.1, pass := p.2.1, kchunk := p.2.2 / 32, m, n, k := p.2.2 })) }

/-- The results of the active elements of a tile, row by row: (flat index, bits), with the events. -/
def tileCompute (h : Shape) (rs cs : List Nat) (rows cols : Nat → List FV) (inc : Nat → Nat) :
    List (Nat × Nat) × NumEvent :=
  rs.foldl (fun acc m =>
    let as := rows m
    cs.foldl (fun acc n =>
      let f := m * h.n + n
      let r := tileElem h.split as (cols n) (if h.zs then 0 else inc f)
      (acc.1 ++ [(f, r.acc)], acc.2.addDot r m n)) acc) ([], {})

/-- The passes of a tile (R86): the row feeders and columns of each. -/
def passes (h : Shape) : List (List Nat × List Nat) :=
  let nb := ceilDiv h.n 64
  let blk b := (List.range 64).filterMap (fun j => if 64 * b + j < h.n then some (64 * b + j) else none)
  if 64 ≤ h.m then
    (List.range nb).flatMap (fun b => (List.range (h.m / 64)).map (fun r =>
      ((List.range 64).map (64 * r + ·), blk b)))
  else
    let g := let g := min (64 / h.m) nb; if h.split = 0 then g else min g 2
    (List.range (ceilDiv nb g)).map (fun p =>
      let bs := (List.range g).filterMap (fun i => if p * g + i < nb then some (p * g + i) else none)
      (bs.flatMap (fun _ => List.range h.m), bs.flatMap blk))

/-- The counters of a committed array instruction (R86, R93, R94, R113): busy cycles, products, gated
feeder-cycles. A pass with every row or every column masked is skipped. -/
def tileCounts (h : Shape) (rs cs : List Nat) : Nat × Nat × Nat :=
  let run := (passes h).filter (fun p => p.1.any rs.contains && p.2.any cs.contains)
  let sf := if h.split = 0 then 1 else if h.split = 1 then 3 else 6
  let cyc := 32 * (h.k / 32) * sf
  (run.length * cyc, rs.length * cs.length * h.k * sf,
    (run.map (fun p => (p.1.filter (fun i => !rs.contains i)).length +
      (p.2.filter (fun j => !cs.contains j)).length)).sum * cyc)

/-- A failed residue check (R96): the array, or the MV path, is out of service. -/
def State.checkError (s : State) (c : CellId) (mv : Bool) : State :=
  s.modCell c (fun x =>
    let x := (x.orReg CR.MX_STATUS 0x100).count CR.MX_CHECK_ERR_CNT
    if mv then { x with mx := { x.mx with mvUnavailable := true } }
    else { (x.setReg CR.MX_REPAIR (putBits (x.reg CR.MX_REPAIR) 31 30 2)) with
      mx := { x.mx with unavailable := true } })

/-- A mask that leaves everything active. -/
def allActive : Desc := BitVec.allOnes 512

/-- The mask recorded with an accumulator (R92). -/
def Cell.maskOf (x : Cell) (acc : Nat) : Desc := x.masks.get (fun _ => allActive) acc

/-- A mask recorded with n accumulators from acc. -/
def Cell.recordMask (x : Cell) (acc n : Nat) (m : Desc) : Cell :=
  { x with masks := SMap.setRange (fun _ => allActive) x.masks acc (List.replicate n m) }

/-- Elements of an accumulator span written, by flat index. -/
def Cell.accScatter (x : Cell) (acc : Nat) (vs : List (Nat × Nat)) : Cell :=
  { x with acc := vs.foldl (fun m v => m.set x.accDef (acc * 4096 + v.1) (BitVec.ofNat 32 v.2)) x.acc }

/-- The tile of an array instruction on operands laid out (R77 to R94): the residue check, poison, the
results and their events, then the writes. `pre` makes the other writes of the instruction. -/
def runTile (s : State) (c : CellId) (e : InFlight) (h : Shape) (mask : Desc)
    (rows : Nat → List FV) (poisonA : List Nat → Option (Nat × Nat)) (w : Lines)
    (pre : State → State) : Eval :=
  let acc := e.ins.x.acc.toNat
  let rs := activeOf mask.toNat 0 h.m
  let cs := activeOf mask.toNat 256 h.n
  let some? := !rs.isEmpty && !cs.isEmpty
  if e.ins.u.residue && some? then
    .fault (s.checkError c false) { cause := 0x42, unit := .mx, cls := 3 }
  else
    match (if some? then firstMeet (poisonA rs) (w.poisonIn s c cs h.k) else none) with
    | some p => .fault s { cause := 0x41, detail := p.1, addr := p.2, unit := .mx, cls := 3 }
    | none =>
      let x := s.cell c
      let r := tileCompute h rs cs rows (fun n => w.values s c n h.k) (fun f => (x.accGet acc f).toNat)
      let n := tileCounts h rs cs
      numeric s c e .mx r.2 (fun s => .done ((pre s).modCell c (fun x =>
        let x := (x.accScatter acc r.1).recordMask acc h.span mask
        ((x.count CR.MX_BUSY_CNT n.1).count CR.MX_MAC_CNT n.2.1).count CR.MX_GATED_CNT n.2.2)))

/-- MX_UNAVAILABLE (R111). -/
def mxUnavailable (u : FaultUnit) : FaultInfo := { cause := 0x43, unit := u, cls := 3 }

/-- MMA (transposed = false) and MMAT (transposed = true) (R77 to R94, R99, R100, R202). -/
def arrayTile (transposed : Bool) (c : CellId) (e : InFlight) (s : State) : Eval :=
  let f := e.ins.f
  let x := e.ins.x
  let w := f.imm32.toNat
  if !sOnly f { imm := true } ||
      !lOnly x { dsel := true, acc := true, ext := true, c := bitB w 20 } || 16 ≤ x.ext.toNat then
    .illegal s
  else match shapeOf w false x.acc.toNat with
    | none => .illegal s
    | some h =>
      let y := s.cell c
      if y.awaitsTest e || y.lent then .wait s
      else if y.mx.unavailable then .fault s (mxUnavailable .mx)
      else
        let s := s.operandUpset c e.ins.u
        let y := s.cell c
        let da := mdesc (y.rdD x.dsel)
        let dw := mdesc (y.rdD (BitVec.ofNat 4 x.ext.toNat))
        let split := h.split != 0
        match fmtOf da.fmt, fmtOf dw.fmt with
        | some fa, some fw =>
          let suitA := da.suits (if transposed then .actPlain else .act) split
          let suitW := dw.suits (if transposed then .weightT else .weight) split
          let ops := actRanges da fa h.m h.k ++ (if transposed then wtRanges dw fw h.n h.k else wtRanges dw fw h.k h.n)
          let okA := suitA && actFits s c da fa h.m h.k
          let okW := suitW && (if transposed then wtFits s c dw fw h.n h.k else wtFits s c dw fw h.k h.n)
          if suitA && suitW && s.opsWait c ops then .wait s (some CR.SX_STALL_DATA_CNT)
          else if !okA then .fault s (mxOperand .mx 0 da.at)
          else if !okW then .fault s (mxOperand .mx 0 dw.at)
          else if h.maskEn && y.ocBad (64 * x.oc_c.toNat) 64 then
            .fault s { cause := 0x41, unit := .mx, cls := 3 }
          else
            let mask := if h.maskEn then y.ocSlot x.oc_c.toNat else allActive
            let la := actLines da fa h.m h.k
            let reads := actRanges da fa h.m h.k ++
              (List.replicate (y.weightReads h.m) (if transposed then wtRanges dw fw h.n h.k else wtRanges dw fw h.k h.n)).flatten
            runTile s c e h mask (fun m => la.values s c m h.k) (fun rs => la.poisonIn s c rs h.k)
              (if transposed then wtLinesT dw fw else wtLines dw fw) (fun s => s.countRows c reads)
        | none, _ => .fault s (mxOperand .mx 0 da.at)
        | _, none => .fault s (mxOperand .mx 0 dw.at)

/-- MMA (R202). -/
def evalMma (c : CellId) (e : InFlight) (s : State) : Eval := arrayTile false c e s

/-- MMAT (R99, R100, R202). -/
def evalMmat (c : CellId) (e : InFlight) (s : State) : Eval := arrayTile true c e s

/-! ### GFILL (R105 to R107) -/

/-- How a gathering step ends: the tile may issue, more items are awaited, or a fault, with the rows so
far. -/
inductive GatherRes where
  | ready (s : State) (g : Gather)
  | more (s : State) (g : Gather)
  | fault (s : State) (g : Gather) (f : FaultInfo)

/-- Items taken from conveyor q until 64 rows are there or it runs dry (R105, R107, R310, R312). A packet
has plen items; each item is released as it is gathered. -/
def gatherItems : Nat → State → CellId → BitVec 4 → Nat → Gather → GatherRes
  | 0, s, _, _, _, g => .more s g
  | fuel + 1, s, c, q, plen, g =>
    if 64 ≤ g.rows.length then .ready s g
    else
      let x := s.cell c
      let v := x.conv q
      if !v.en then .fault s g { cause := 0x63, detail := q.toNat, unit := .q }
      else if v.empty || s.convStuck c q v.rd then .more s g
      else
        let s := s.spoilItem c q v.rd
        let x := s.cell c
        let v := x.conv q
        let it := s.convItem c q v.rd
        if anyBad it.1 then
          .fault (s.countC c CR.Q_POISON_CNT) g { cause := 0x65, detail := q.toNat, unit := .q, cls := 3 }
        else
          let v := Conveyor.release { v with rd := v.rd + 1 }
          let s := s.setCell c ((x.setConv q v).count CR.Q_POP_CNT)
          let cur := g.cur ++ plain it.1
          let n := cur.length / 64
          if it.2 ≠ decide (n = plen) then .fault s { g with cur := cur } (mxOperand .mx 0 0)
          else if it.2 then
            gatherItems fuel s c q plen
              { g with rows := g.rows ++ [(leNat (cur.take 8), cur.drop 64)], cur := [] }
          else gatherItems fuel s c q plen { g with cur := cur }

/-- Bytes written into OC or the own window. -/
def State.storeRun (s : State) (c : CellId) (space : Nat) (w : Nat × List Byte) : State :=
  if space = 0 then s.modCell c (fun x => x.ocWrite w.1 w.2)
  else s.winWrite c (w.1 - 0x200000000) (clean w.2)

/-- Poisoned 64-byte units without those that writes cover whole. -/
def dropWhole (m : NSet) (ws : List (Nat × List Byte)) : NSet :=
  m.filter (fun u => !(List.range 64).all (fun i =>
    ws.any (fun w => decide (w.1 ≤ 64 * u + i) && decide (64 * u + i < w.1 + w.2.length))))

/-- The writes of an instruction into OC or the own window: a unit that they cover whole loses its poison (R120, R241), in
whatever pieces they come. -/
def State.storeRuns (s : State) (c : CellId) (space : Nat) (ws : List (Nat × List Byte)) : State :=
  let s := ws.foldl (fun s w => s.storeRun c space w) s
  if space = 0 then s.modCell c (fun x => { x with ocPoison := dropWhole x.ocPoison ws })
  else
    let ws := ws.map (fun w => (w.1 - 0x200000000, w.2))
    s.modSlice c (fun x => { x with winPoison := dropWhole x.winPoison ws })

/-- The bank bytes of the rows from row j on, for the elements of their packets (R82, R105). -/
def bankWrites (d : MDesc) (es kk : Nat) : Nat → List (List Byte) → List (Nat × List Byte)
  | _, [] => []
  | j, row :: rows =>
    (List.range kk).map (fun k => (d.base + bankOff 64 kk es j k, (row.drop (k * es)).take es)) ++
      bankWrites d es kk (j + 1) rows

/-- Undefined contents for n bytes (R107, log entry 4). -/
def undefBytes (draw n : Nat) : List Byte := (List.range n).map (Config.undefByte draw)

/-- The bank rows of a GFILL that faults on a packet of the wrong length (R107): the packets before it,
and undefined contents in its own row. -/
def State.bankFault (s : State) (c : CellId) (d : MDesc) (es kk : Nat) (g : Gather) : State :=
  (s.storeRuns c d.space (bankWrites d es kk 0 (g.rows.map (·.2) ++ [undefBytes s.free (kk * es)]))).draw

/-- The manifest of a GFILL (R106): eight slots of row tags, all ones where no row was filled. -/
def manifest (g : Gather) : List Byte :=
  (List.range 64).flatMap (fun j => leBytes 8 ((g.rows[j]?.map (·.1)).getD (2 ^ 64 - 1)))

/-- The tile of a GFILL once it issues (R105, R106). -/
def gfillTile (s : State) (c : CellId) (e : InFlight) (h : Shape) (da dw : MDesc) (fa fw : Fmt)
    (g : Gather) : Eval :=
  let rows := g.rows.map (·.2)
  let n := rows.length
  let es := fa.esize
  let mask : Desc := BitVec.ofNat 512 (2 ^ n - 1 + (2 ^ 512 - 2 ^ 256))
  let value (m : Nat) : List FV :=
    let row := rows[m]?.getD []
    (List.range h.k).map (fun k => readOp fa (fieldAt row (k * es) es))
  let pre (s : State) : State :=
    let s := (s.countRows c (actRanges da fa n h.k ++ wtRanges dw fw h.k h.n)).storeRuns c da.space
      (bankWrites da es h.k 0 rows)
    s.modCell c (fun x =>
      let x := x.ocWrite (64 * e.ins.x.oc_b.toNat) (manifest g)
      let x := (x.count CR.MX_GFILL_TILE_CNT).count CR.MX_GFILL_ROW_CNT n
      if n < 64 then x.count CR.MX_GFILL_LIMIT_CNT else x)
  runTile s c e h mask value (fun _ => none) (wtLines dw fw) pre

/-- GFILL (R105 to R107, R202). Its first evaluation checks the operands; each later one gathers on. A self-test that is
requested while it gathers waits for it (R97, log entry 180). -/
def evalGfill (c : CellId) (e : InFlight) (s : State) : Eval :=
  let f := e.ins.f
  let x := e.ins.x
  if !sOnly f { imm := true, ra := true } ||
      !lOnly x { q := true, dsel := true, acc := true, ext := true, b := true } || 16 ≤ x.ext.toNat then
    .illegal s
  else match shapeOf f.imm32.toNat true x.acc.toNat with
    | none => .illegal s
    | some h =>
      let y := s.cell c
      if y.awaitsTest e || y.lent then .wait s
      else if y.mx.unavailable then .fault s (mxUnavailable .mx)
      else
        let s := s.operandUpset c e.ins.u
        let y := s.cell c
        let da := mdesc (y.rdD x.dsel)
        let dw := mdesc (y.rdD (BitVec.ofNat 4 x.ext.toNat))
        match fmtOf da.fmt, fmtOf dw.fmt with
        | some fa, some fw =>
          if da.suits .actPlain false && dw.suits .weight false &&
              s.opsWait c (actRanges da fa 64 h.k ++ wtRanges dw fw h.k h.n) then
            .wait s (some CR.SX_STALL_DATA_CNT)
          else if !(da.suits .actPlain false && actFits s c da fa 64 h.k) then .fault s (mxOperand .mx 0 da.at)
          else if !(dw.suits .weight false && wtFits s c dw fw h.k h.n) then
            .fault s (mxOperand .mx 0 dw.at)
          else if x.oc_b.toNat % 8 ≠ 0 then .fault s (mxOperand .mx 0 0)
          else
            let plen := 1 + ceilDiv (h.k * fa.esize) 64
            match gatherItems (64 * plen + 1) s c x.q plen e.gather with
            | .fault s g flt =>
              if flt.cause = 0x40 then .fault (s.bankFault c da fa.esize h.k g) flt else .fault s flt
            | .ready s g => gfillTile s c e h da dw fa fw g
            | .more s g =>
              if g.expired && !g.rows.isEmpty then gfillTile s c e h da dw fa fw g
              else .wait (s.modCell c (fun y => y.modHead (fun e => { e with gather := g })))
                (some CR.SX_STALL_DATA_CNT)
        | none, _ => .fault s (mxOperand .mx 0 da.at)
        | _, none => .fault s (mxOperand .mx 0 dw.at)

/-! ### MMV (R108, R109) -/

/-- MMV (R108, R109, R199, R202). -/
def evalMmv (c : CellId) (e : InFlight) (s : State) : Eval :=
  let f := e.ins.f
  let x := e.ins.x
  let w := f.imm32.toNat
  if !sOnly f { imm := true } || !lOnly x { dsel := true, ext := true, b := true } ||
      16 ≤ x.ext.toNat || 2 ^ 20 ≤ w || bits w 18 17 ≠ 0 then .illegal s
  else
    let n := 64 * (bits w 16 11 + 1)
    let k := 32 * (bits w 10 0 + 1)
    let zs := bitB w 19
    let y := s.cell c
    if y.awaitsTest e then .wait s
    else if y.mx.mvUnavailable then .fault s (mxUnavailable .mv)
    else
      let s := s.operandUpset c e.ins.u
      let y := s.cell c
      let dx := mdesc (y.rdD x.dsel)
      let dw := mdesc (y.rdD (BitVec.ofNat 4 x.ext.toNat))
      let ya := 64 * x.oc_b.toNat
      match fmtOf dx.fmt, fmtOf dw.fmt with
      | some fx, some fw =>
        if x.oc_b.toNat % 4 ≠ 0 || 0x40000 < ya + 4 * n then .fault s (mxOperand .mv x.oc_b.toNat 0)
        else if dx.suits .vec false && dw.suits .weight false && s.opsWait c (wtRanges dw fw k n) then
          .wait s (some CR.SX_STALL_DATA_CNT)
        else if !(dx.suits .vec false && actFits s c dx fx 1 k) then
          .fault s (mxOperand .mv dx.slot dx.at)
        else if !(dw.suits .weight false && wtFits s c dw fw k n) then
          .fault s (mxOperand .mv dw.slot dw.at)
        else if !zs && y.ocBad ya (4 * n) then
          .fault s { cause := 0x41, detail := x.oc_b.toNat, unit := .mv, cls := 3 }
        else if e.ins.u.residue then
          .fault (s.checkError c true) { cause := 0x42, unit := .mv, cls := 3 }
        else
          let lx := actLines dx fx 1 k
          let lw := wtLines dw fw
          let px := lx.poison s c 0 k
          let pw := lw.poisonIn s c (List.range n) k
          match px, pw with
          | none, none =>
            let xs := lx.values s c 0 k
            let r := (List.range n).foldl (fun (r : List Byte × NumEvent) j =>
              let inc := if zs then 0 else leNat (y.ocRead (ya + 4 * j) 4)
              let d := dotElem xs (lw.values s c j k) inc 0
              (r.1 ++ leBytes 4 d.acc, r.2.addDot d 0 j)) ([], {})
            let busy := n / 64 * (k / 4) / (if fw.esize = 1 then 2 else 1)
            numeric s c e .mv r.2 (fun s => .done
              (((s.countRows c (wtRanges dw fw k n)).modCell c (fun x => (x.ocWrite ya r.1).count CR.MX_MV_BUSY_CNT busy)).stall c
                CR.MX_MV_PORT_WAIT_CNT))
          | some a, some b =>
            if b.1 < a.1 then .fault s { cause := 0x41, addr := b.2, unit := .mv, cls := 3 }
            else .fault s { cause := 0x41, detail := a.2 / 64, unit := .mv, cls := 3 }
          | some a, none => .fault s { cause := 0x41, detail := a.2 / 64, unit := .mv, cls := 3 }
          | none, some b => .fault s { cause := 0x41, addr := b.2, unit := .mv, cls := 3 }
      | none, _ => .fault s (mxOperand .mv dx.slot dx.at)
      | _, none => .fault s (mxOperand .mv dw.slot dw.at)

/-! ### MXLD and MXST -/

/-- The shape of MXLD and MXST, which use only mcode and ncode (R198). -/
def shapeMn (w acc : Nat) : Option Shape :=
  if bits w 10 0 ≠ 0 || 2 ^ 17 ≤ w then none else shapeOf w false acc

/-- MXLD (R202). -/
def evalMxld (c : CellId) (e : InFlight) (s : State) : Eval :=
  let f := e.ins.f
  let x := e.ins.x
  if !sOnly f { imm := true } || !lOnly x { acc := true, a := true } then .illegal s
  else match shapeMn f.imm32.toNat x.acc.toNat with
    | none => .illegal s
    | some h =>
      let y := s.cell c
      if y.awaitsTest e || y.lent then .wait s
      else
        let s := s.ocUpset c e.ins.u
        let y := s.cell c
        let a := 64 * x.oc_a.toNat
        let n := h.m * h.n
        if x.oc_a.toNat % 4 ≠ 0 || 0x40000 < a + 4 * n then .fault s (mxOperand .mx x.oc_a.toNat 0)
        else if y.ocBad a (4 * n) then
          .fault s { cause := 0x41, detail := x.oc_a.toNat, unit := .mx, cls := 3 }
        else
          let bs := y.ocRead a (4 * n)
          let vs := (List.range n).map (fun i => BitVec.ofNat 32 (fieldAt bs (4 * i) 4))
          .done (s.setCell c ((y.accWrite x.acc.toNat 0 vs).recordMask x.acc.toNat h.span allActive))

/-- A store control word (R102). -/
structure StoreCtl where
  tensor : Nat
  exp : Int
  mode : Nat
  sr : Bool
  ovf : OvfMode
  fmt : Fmt
  deriving DecidableEq, Repr

/-- The control word of MXST; none where a field is reserved (R102, R103). -/
def storeCtl (w : Nat) : Option StoreCtl :=
  match fmtOf (bits w 19 16) with
  | none => none
  | some f =>
    let mode := bits w 23 22
    if bits w 15 0 ≠ 0 || mode = 3 || bits w 31 24 = 128 || (bitB w 21 && f = .fp32) ||
        (bitB w 20 && !f.fp8) || (mode = 2 && (f = .fp32 || f = .bf16)) then none
    else some { tensor := bits w 63 32, exp := sgn 8 (bits w 31 24), mode, sr := bitB w 21,
                ovf := if !f.fp8 || bitB w 20 then .ieee else .sat, fmt := f }

/-- Whether the destination descriptor of MXST suits its control word (R201). -/
def MDesc.suitsStore (d : MDesc) (k : StoreCtl) (n : Nat) : Bool :=
  let es := k.fmt.esize
  !d.rsvd && fmtOf d.fmt == some k.fmt && d.space ≤ 2 && d.layout ≤ 2 && d.scale == 0 && d.sstride == 0 &&
    (d.layout != 0 || d.stride == 0) && (k.mode != 0 || d.sbase == 0) &&
    (k.sr || (d.row0 == 0 && d.col0 == 0 && d.cols == 0)) &&
    (match d.layout with
      | 0 => d.base % 64 == 0
      | 1 => d.base % 512 == 0 && d.stride % 512 == 0
      | _ => d.base % es == 0 && d.stride % es == 0 && n * es ≤ d.stride)

/-- The bytes from the base on that the destination operand of a store of an M × N tile covers, masked positions
included (R82, R83, R111, R201). -/
def MDesc.storeSpan (d : MDesc) (es mm nn : Nat) : Nat :=
  match d.layout with
  | 0 => mm * nn * es
  | 1 => (ceilDiv nn 64 - 1) * d.stride + ((mm - 1) * 64 + min nn 64) * es
  | _ => (mm - 1) * d.stride + nn * es

/-- Whether a stream descriptor can hold a stride (R284): a signed 24-bit number times a power of two up to 2^15. -/
def strideFits (n : Nat) : Bool := (List.range 16).any (fun k => n % 2 ^ k == 0 && n / 2 ^ k < 2 ^ 23)

/-- Whether the handoff of a store to device virtual space is well formed (R288, R307): the stride that its rows or panels
use can stand in a descriptor (log entry 196). -/
def MDesc.handoffOk (d : MDesc) (h : Shape) : Bool :=
  match d.layout with
  | 0 => true
  | 1 => h.n ≤ 64 || strideFits d.stride
  | _ => h.m ≤ 1 || strideFits d.stride

/-- The fault of a store whose destination, or the byte of whose decode scale, lies outside OC or the local slice
window (R111, R179). A destination in device virtual space has no such limit; SX_MALFORMED comes from its handoff (R307, R313). -/
def State.storeFault (s : State) (c : CellId) (d : MDesc) (k : StoreCtl) (h : Shape) : Option FaultInfo :=
  if d.space = 2 then (if d.handoffOk h then none else some { cause := 0x60, unit := .sx })
  else if !s.inSpace c (d.space, d.base, d.storeSpan k.fmt.esize h.m h.n) then some (mxOperand .mx d.slot d.at)
  else if k.mode ≠ 0 && !s.inSpace c (d.space, d.sbase, 1) then
    some (if d.space = 0 then mxOperand .mx (d.sbase / 64) 0 else mxOperand .mx 0 d.sbase)
  else none

/-- What a store covers in OC or the own window. -/
def MDesc.storeRanges (d : MDesc) (k : StoreCtl) (h : Shape) : List OpRange :=
  if d.space = 2 then []
  else (d.space, d.base, d.storeSpan k.fmt.esize h.m h.n) :: (if k.mode = 0 then [] else [(d.space, d.sbase, 1)])

/-- The constant t of automatic scaling (R103). -/
def autoT : Fmt → Int
  | .e4m3 => 7
  | _ => 14

/-- floor(log2) of a finite non-zero value. -/
def FV.log2 : FV → Int
  | .fin _ m e => (ilog2 m : Int) + e
  | _ => 0

/-- The scale exponent of a store over its active values (R103). -/
def storeExp (k : StoreCtl) (vs : List FV) : Int :=
  if k.mode = 0 then 0
  else if k.mode = 1 then k.exp
  else if vs.any (fun v => v.isNan || v.isInf) then 0
  else match (vs.filter (fun v => !v.isZero)).map FV.log2 with
    | [] => 0
    | t :: ts => max (-127) (min 127 (autoT k.fmt - ts.foldl max t))

/-- The offset of element (m, n) of an M × N tile in a store's destination (R82, R83, R201). -/
def MDesc.storeOff (d : MDesc) (es mm nn m n : Nat) : Nat :=
  match d.layout with
  | 0 => bankOff mm nn es m n
  | 1 => panelOff d.stride 0 es m n
  | _ => m * d.stride + n * es

/-- One element of a store: address, bytes, flags (R101, R104). -/
def storeElem (x : Cell) (k : StoreCtl) (d : MDesc) (exp : Int) (h : Shape) (m n : Nat) (v : FV) :
    (Nat × List Byte) × Flags :=
  let v' := scaleFV exp v
  let r := if k.sr then
      let idx := ((d.row0 + m) * d.cols + d.col0 + n) % 2 ^ 64
      let u := srBits (BitVec.ofNat 64 (x.reg CR.NUM_SR_SEED)) (BitVec.ofNat 64 (x.reg CR.NUM_SR_STEP))
        k.tensor idx
      roundSR k.fmt k.ovf (u.toNat / 2 ^ 32) v'
    else roundFV k.fmt k.ovf v'
  ((d.base + d.storeOff k.fmt.esize h.m h.n m n, leBytes k.fmt.esize r.1), r.2)

/-- Writes that follow one another joined into runs. -/
def joinRuns : List (Nat × List Byte) → List (Nat × List Byte)
  | [] => []
  | (a, b) :: ws =>
    match joinRuns ws with
    | [] => [(a, b)]
    | (a', b') :: rs => if a + b.length = a' then (a, b ++ b') :: rs else (a, b) :: (a', b') :: rs

/-- The writes of a store, in the order of the elements in the destination, with the decode scale of a
scaled store (R101 to R104). -/
def storeWrites (x : Cell) (k : StoreCtl) (d : MDesc) (h : Shape) (acc : Nat) :
    List (Nat × List Byte) × NumEvent :=
  let mask := (x.maskOf acc).toNat
  let cs := activeOf mask 256 h.n
  let es := (activeOf mask 0 h.m).flatMap (fun m => cs.map (fun n =>
    (m, n, readOp .fp32 (x.accGet acc (m * h.n + n)).toNat)))
  let exp := storeExp k (es.map (·.2.2))
  let r := es.foldl (fun (r : List (Nat × List Byte) × NumEvent) e =>
    let w := storeElem x k d exp h e.1 e.2.1 e.2.2
    let loc := if w.2.nv then some { cause := 4, m := e.1, n := e.2.1 } else none
    (r.1 ++ [w.1], { counts := r.2.counts.add w.2, loc := NvLoc.first r.2.loc loc })) ([], {})
  (joinRuns r.1 ++ (if k.mode = 0 then [] else [(d.sbase, [BitVec.ofNat 8 (wrap 8 (127 - exp))])]), r.2)

/-- MXST (R101 to R104, R202). A store to device virtual space is handed to the stream engine as an
implicit transfer (R307), and makes its completion post when that transfer completes. -/
def evalMxst (c : CellId) (e : InFlight) (s : State) : Eval :=
  let f := e.ins.f
  let x := e.ins.x
  if !sOnly f { imm := true, ra := true } || !lOnly x { acc := true, dsel := true } then .illegal s
  else match shapeMn f.imm32.toNat x.acc.toNat with
    | none => .illegal s
    | some h =>
      let y := s.cell c
      let d := mdesc (y.rdD x.dsel)
      if y.awaitsTest e || y.lent then .wait s
      else match storeCtl (y.rdS f.ra).toNat with
        | none => .fault s (mxOperand .mx d.slot d.at)
        | some k =>
          if !d.suitsStore k h.n then .fault s (mxOperand .mx d.slot d.at)
          else if s.opsWait c (d.storeRanges k h) then .wait s
          else
            let r := storeWrites y k d h x.acc.toNat
            match s.storeFault c d k h with
            | some flt => .fault s flt
            | none =>
              if d.space = 2 then
                match y.freeSlot with
                | none => .wait s (some CR.SX_STALL_QFULL_CNT)
                | some n => numeric s c e .mx r.2 (fun s => .done (s.modCell c (fun y =>
                    y.setSlot n (some { desc := 0, implicit := true, runs := r.1, pen := x.pen,
                                        psem := x.psem }))) none false)
              else numeric s c e .mx r.2 (fun s =>
                  .done ((s.countRows c (d.storeRanges k h)).storeRuns c d.space r.1))

end Sys2Proof.Machine
end

