-- ==== Sys2Proof/Machine/Scalar.lean ====
section
/-! DEFINITION. The control and scalar group (R191 to R195): what each instruction does when it is the
oldest uncommitted one. -/

namespace Sys2Proof.Machine

/-- The functions of ALU and ALUI (R192); none for a reserved func. -/
def aluFn (func : BitVec 7) (a b : Word) : Option Word :=
  let sh := b.toNat % 64
  match func.toNat with
  | 0x00 => some (a + b)
  | 0x01 => some (a - b)
  | 0x02 => some (a &&& b)
  | 0x03 => some (a ||| b)
  | 0x04 => some (a ^^^ b)
  | 0x05 => some (a <<< sh)
  | 0x06 => some (a >>> sh)
  | 0x07 => some (a.sshiftRight sh)
  | 0x08 => some (if a.slt b then 1 else 0)
  | 0x09 => some (if a.ult b then 1 else 0)
  | 0x0A => some (if a.slt b then a else b)
  | 0x0B => some (if a.slt b then b else a)
  | 0x0C => some (if a.ult b then a else b)
  | 0x0D => some (if a.ult b then b else a)
  | _ => none

/-- The oldest instruction writes rd and is done. -/
def doneRd (s : State) (c : CellId) (rd : BitVec 5) (v : Word) : Eval :=
  .done (s.modCell c (fun x => x.wrS rd v))

/-- ALU (R191, R192). -/
def evalAlu (c : CellId) (e : InFlight) (s : State) : Eval :=
  let f := e.ins.f
  let x := s.cell c
  if !sOnly f { func := true, rd := true, ra := true, rb := true } then .illegal s
  else match aluFn f.func (x.rdS f.ra) (x.rdS f.rb) with
    | some v => doneRd s c f.rd v
    | none => .illegal s

/-- ALUI (R191, R192). -/
def evalAlui (c : CellId) (e : InFlight) (s : State) : Eval :=
  let f := e.ins.f
  if !sOnly f { imm := true, func := true, rd := true, ra := true } then .illegal s
  else match aluFn f.func ((s.cell c).rdS f.ra) (f.imm32.signExtend 64) with
    | some v => doneRd s c f.rd v
    | none => .illegal s

/-- MUL, MULH and MULHU (R191). -/
def evalMul (c : CellId) (e : InFlight) (s : State) : Eval :=
  let f := e.ins.f
  let a := (s.cell c).rdS f.ra
  let b := (s.cell c).rdS f.rb
  if !sOnly f { func := true, rd := true, ra := true, rb := true } then .illegal s
  else match f.func.toNat with
    | 0 => doneRd s c f.rd (a * b)
    | 1 => doneRd s c f.rd (BitVec.ofInt 64 (a.toInt * b.toInt / 2 ^ 64))
    | 2 => doneRd s c f.rd (BitVec.ofNat 64 (a.toNat * b.toNat / 2 ^ 64))
    | _ => .illegal s

/-- MOVI (func 0) and MOVHI (func 1), which share an opcode (R191). -/
def evalMovi (c : CellId) (e : InFlight) (s : State) : Eval :=
  let f := e.ins.f
  match f.func.toNat with
  | 0 =>
    if !sOnly f { imm := true, func := true, rd := true } then .illegal s
    else doneRd s c f.rd (f.imm32.signExtend 64)
  | 1 =>
    if !sOnly f { imm := true, func := true, rd := true, ra := true } then .illegal s
    else
      let a := (s.cell c).rdS f.ra
      doneRd s c f.rd (BitVec.ofNat 64 (f.imm32.toNat * 2 ^ 32 + a.toNat % 2 ^ 32))
  | _ => .illegal s

/-- The access size of func[1:0] in bytes (R191). -/
def accessSize (func : BitVec 7) : Nat := 2 ^ (func.toNat % 4)

/-- Whether the func of a load is not reserved: func[2] sign-extends and is reserved with size 8. -/
def loadFuncOk (func : BitVec 7) : Bool := func.toNat < 7

/-- LD (R191). -/
def evalLd (c : CellId) (e : InFlight) (s : State) : Eval :=
  let f := e.ins.f
  if !sOnly f { imm := true, func := true, rd := true, ra := true } || !loadFuncOk f.func then
    .illegal s
  else scalarRead (s.readUpset c e.ins.u) c (memAddr (s.cell c) f) (accessSize f.func) (fun s bs =>
    doneRd (s.loadStall c) c f.rd (loadValue bs (f.func.getLsbD 2)))

/-- ST (R191). -/
def evalSt (c : CellId) (e : InFlight) (s : State) : Eval :=
  let f := e.ins.f
  let x := s.cell c
  if !sOnly f { imm := true, func := true, ra := true, rb := true } || 4 ≤ f.func.toNat then
    .illegal s
  else scalarWrite (s.readUpset c e.ins.u) c (memAddr x f) (leBytes (accessSize f.func) (x.rdS f.rb).toNat)

/-- LDO: as LD, from OC (R191). -/
def evalLdo (c : CellId) (e : InFlight) (s : State) : Eval :=
  let f := e.ins.f
  if !sOnly f { imm := true, func := true, rd := true, ra := true } || !loadFuncOk f.func then
    .illegal s
  else
    let s := s.ocUpset c e.ins.u
    let x := s.cell c
    let a := memAddr x f
    let n := accessSize f.func
    if a % n ≠ 0 then .fault s { cause := 0x04, detail := n, addr := a }
    else if 0x40000 ≤ a then .fault s { cause := 0x05, addr := a }
    else if x.ocBad a n then .fault s (dataPoison a)
    else doneRd s c f.rd (loadValue (x.ocRead a n) (f.func.getLsbD 2))

/-- STO: as ST, to OC (R191). -/
def evalSto (c : CellId) (e : InFlight) (s : State) : Eval :=
  let f := e.ins.f
  if !sOnly f { imm := true, func := true, ra := true, rb := true } || 4 ≤ f.func.toNat then
    .illegal s
  else
    let s := s.ocUpset c e.ins.u
    let x := s.cell c
    let a := memAddr x f
    let n := accessSize f.func
    if a % n ≠ 0 then .fault s { cause := 0x04, detail := n, addr := a }
    else if 0x40000 ≤ a then .fault s { cause := 0x05, addr := a }
    else .done (s.setCell c (x.ocWrite a (leBytes n (x.rdS f.rb).toNat)))

/-- SPF: a prefetch hint for [ra + imm], which warms translations and the Hirrium cache (R175, R191). -/
def evalSpf (c : CellId) (e : InFlight) (s : State) : Eval :=
  if !sOnly e.ins.f { imm := true, ra := true } then .illegal s else .done (s.warm (memAddr (s.cell c) e.ins.f))

/-- DLD: d[dsel] from an OC slot (R191). -/
def evalDld (c : CellId) (e : InFlight) (s : State) : Eval :=
  let x := e.ins.x
  if !sOnly e.ins.f {} || !lOnly x { a := true, dsel := true } then .illegal s
  else
    let s := s.ocUpset c e.ins.u
    let y := s.cell c
    if y.ocBad (64 * x.oc_a.toNat) 64 then .fault s (dataPoison (64 * x.oc_a.toNat))
    else .done (s.setCell c (y.wrD x.dsel (y.ocSlot x.oc_a.toNat)))

/-- DLDM: d[dsel] from 64 bytes of coherent space (R191). -/
def evalDldm (c : CellId) (e : InFlight) (s : State) : Eval :=
  let f := e.ins.f
  if !sOnly f { imm := true, ra := true } || !lOnly e.ins.x { dsel := true } then .illegal s
  else scalarRead (s.readUpset c e.ins.u) c (memAddr (s.cell c) f) 64 (fun s bs =>
    .done ((s.loadStall c).modCell c (fun x => x.wrD e.ins.x.dsel (BitVec.ofNat 512 (leNat bs)))))

/-- DSTO: an OC slot from d[dsel] (R191). -/
def evalDsto (c : CellId) (e : InFlight) (s : State) : Eval :=
  let x := e.ins.x
  if !sOnly e.ins.f {} || !lOnly x { a := true, dsel := true } then .illegal s
  else .done (s.modCell c (fun y => y.ocWrite (64 * x.oc_a.toNat) (leBytes 64 (y.rdD x.dsel).toNat)))

/-- DSETW: word ext[2:0] of d[dsel] from ra (R191). -/
def evalDsetw (c : CellId) (e : InFlight) (s : State) : Eval :=
  let x := e.ins.x
  if !sOnly e.ins.f { ra := true } || !lOnly x { dsel := true, ext := true } ||
      8 ≤ x.ext.toNat then .illegal s
  else .done (s.modCell c (fun y =>
    let w := x.ext.toNat
    y.wrD x.dsel (BitVec.ofNat 512
      (putBits (y.rdD x.dsel).toNat (64 * w + 63) (64 * w) (y.rdS e.ins.f.ra).toNat))))

/-- DGETW: rd from word ext[2:0] of d[dsel] (R191). -/
def evalDgetw (c : CellId) (e : InFlight) (s : State) : Eval :=
  let x := e.ins.x
  if !sOnly e.ins.f { rd := true } || !lOnly x { dsel := true, ext := true } ||
      8 ≤ x.ext.toNat then .illegal s
  else
    let w := x.ext.toNat
    doneRd s c e.ins.f.rd
      (BitVec.ofNat 64 (bits ((s.cell c).rdD x.dsel).toNat (64 * w + 63) (64 * w)))

/-- The condition of BR (R193); none for a reserved cond. -/
def brTaken (cond : Nat) (a b : Word) : Option Bool :=
  match cond with
  | 0 => some true
  | 1 => some (a == b)
  | 2 => some (a != b)
  | 3 => some (a.slt b)
  | 4 => some (!a.slt b)
  | 5 => some (a.ult b)
  | 6 => some (!a.ult b)
  | _ => none

/-- BR (R191, R193, R160). In the fields of a short word, cond is func, bhint is rd and off32 is imm32
(R159). -/
def evalBr (c : CellId) (e : InFlight) (s : State) : Eval :=
  let f := e.ins.f
  let x := s.cell c
  if f.imm32.toNat % 8 ≠ 0 || 2 < f.rd.toNat then .illegal s
  else if f.func = 0 && (f.ra ≠ 0 || f.rb ≠ 0 || f.rd ≠ 0) then .illegal s
  else match brTaken f.func.toNat (x.rdS f.ra) (x.rdS f.rb) with
    | none => .illegal s
    | some true => .done s (some (relTarget e.pc f.imm32))
    | some false => .done s

/-- The value BLOOP leaves in ra, and whether it branches (R169, R191): ra = s0 reads 0, wraps and
branches. -/
def bloopNext (x : Cell) (f : SForm) : Word × Bool := (x.rdS f.ra - 1, x.rdS f.ra - 1 != 0)

/-- Whether the fields of a BLOOP are legal: cond, rb and bhint must be 0 (R188, R191). -/
def bloopOk (f : SForm) : Bool :=
  f.func == 0 && f.rb == 0 && f.rd == 0 && f.imm32.toNat % 8 == 0

/-- BLOOP (R169, R191). -/
def evalBloop (c : CellId) (e : InFlight) (s : State) : Eval :=
  let f := e.ins.f
  if !bloopOk f then .illegal s
  else
    let r := bloopNext (s.cell c) f
    let s := s.modCell c (fun x => x.wrS f.ra r.1)
    .done s (if r.2 then some (relTarget e.pc f.imm32) else none)

/-- JAL (R191). -/
def evalJal (c : CellId) (e : InFlight) (s : State) : Eval :=
  let f := e.ins.f
  if !sOnly f { imm := true, rd := true } || f.imm32.toNat % 8 ≠ 0 then .illegal s
  else .done (s.modCell c (fun x => x.wrS f.rd (nextPc e.pc .jal))) (some (relTarget e.pc f.imm32))

/-- JALR (R191): the target is read before rd is written. -/
def evalJalr (c : CellId) (e : InFlight) (s : State) : Eval :=
  let f := e.ins.f
  if !sOnly f { imm := true, func := true, rd := true, ra := true } || 1 < f.func.toNat then
    .illegal s
  else
    let t := memAddr (s.cell c) f
    if t % 8 ≠ 0 then .fault s { cause := 0x04, detail := 8, addr := t }
    else .done (s.modCell c (fun x => x.wrS f.rd (nextPc e.pc .jalr))) (some (pc57 (BitVec.ofNat 64 t)))

/-- Whether the offset of CSRR and CSRW is legal (R194). -/
def csrOk (f : SForm) : Bool := f.imm32.toNat % 8 == 0 && f.imm32.toNat < 0x8000

/-- CSRR (R191, R194). -/
def evalCsrr (c : CellId) (e : InFlight) (s : State) : Eval :=
  let f := e.ins.f
  if !sOnly f { imm := true, rd := true } || !csrOk f then .illegal s
  else doneRd s c f.rd ((s.cell c).unit f.imm32.toNat)

/-- CSRW (R191, R194). -/
def evalCsrw (c : CellId) (e : InFlight) (s : State) : Eval :=
  let f := e.ins.f
  if !sOnly f { imm := true, func := true, ra := true } || !csrOk f || f.func = 0 ||
      4 ≤ f.func.toNat then .illegal s
  else .done (s.writeUnit .ownCell c f.imm32.toNat ((s.cell c).rdS f.ra).toNat (f.func.getLsbD 0)
    (f.func.getLsbD 1))

/-- NOP (R191). -/
def evalNop (_c : CellId) (e : InFlight) (s : State) : Eval :=
  if !sOnly e.ins.f {} then .illegal s else .done s

/-- BRK: takes BREAK with its code (R179, R191). -/
def evalBrk (_c : CellId) (e : InFlight) (s : State) : Eval :=
  let f := e.ins.f
  if !sOnly f { imm := true } || 2 ^ 24 ≤ f.imm32.toNat then .illegal s
  else .fault s { cause := 0x08, detail := f.imm32.toNat, cls := 6 }

/-- TRET: the return from a fault handler (R177, R191). -/
def evalTret (c : CellId) (e : InFlight) (s : State) : Eval :=
  let x := s.cell c
  if !sOnly e.ins.f {} || !x.inHandler then .illegal s
  else .done (s.setCell c { x with inHandler := false }) (some (BitVec.ofNat 64 (x.reg CR.SQ_EPC)))

end Sys2Proof.Machine
end

