-- ==== Sys2Proof/Machine/Stream.lean ====
section
/-! DEFINITION. The stream engine: descriptor checks (R288), granules (R289), the work of one
micro-transfer (R290 to R296), links (R297), completion (R291), halts (R301 to R303). -/

namespace Sys2Proof.Machine

/-! ### Descriptors -/

/-- The extent of dimension i (R284). -/
def extent (d i : Nat) : Nat := bits d (143 + 16 * i) (128 + 16 * i) + 1

/-- The stride of dimension i, 1 to 5, of a side in bytes (R284, R289). -/
def strideOf (d : Nat) (dst : Bool) (i : Nat) : Int :=
  let b := (if dst then 344 else 224) + 24 * (i - 1)
  let sh := if dst then bits d 471 468 else bits d 467 464
  sgn 24 (bits d (b + 23) b) * (2 ^ sh : Nat)

/-- The address field of a side. -/
def sideAddr (d : Nat) (dst : Bool) : Nat := if dst then bits d 120 64 else bits d 56 0
/-- The space of a side. -/
def sideSpace (d : Nat) (dst : Bool) : Nat := if dst then bits d 123 121 else bits d 59 57
/-- The format of a side. -/
def sideFmt (d : Nat) (dst : Bool) : Nat := if dst then bits d 127 124 else bits d 63 60

/-- How many rows a transfer has (R289). -/
def rowCount (d : Nat) : Nat := ((List.range 5).map (fun i => extent d (i + 1))).prod

/-- The byte address, on a side with an address, of element elt of a row (R289). -/
def eltAddr (d : Nat) (dst : Bool) (row elt : Nat) : Int :=
  (sideAddr d dst : Int) + ((elt * streamSize (sideFmt d dst) : Nat) : Int) +
    ((List.range 5).map (fun i => (rowCoord d row (i + 1) : Int) * strideOf d dst (i + 1))).sum

/-- The lowest byte a side touches and one past the highest, over the extreme coordinates (R288). -/
def sideBounds (d : Nat) (dst : Bool) : Int × Int :=
  let step i := ((extent d (i + 1) - 1 : Nat) : Int) * strideOf d dst (i + 1)
  let a : Int := sideAddr d dst
  (a + ((List.range 5).map (fun i => min (step i) 0)).sum,
    a + ((List.range 5).map (fun i => max (step i) 0)).sum +
      ((extent d 0 * streamSize (sideFmt d dst) : Nat) : Int))

/-- The checks of R288 that concern one side. -/
def sideOk (self : Nat) (d : Nat) (dst : Bool) : Bool :=
  let a := sideAddr d dst
  let sp := sideSpace d dst
  let es := streamSize (sideFmt d dst)
  let strides := (List.range 5).map (fun i => strideOf d dst (i + 1))
  let b := sideBounds d dst
  let packets := sp = 3 || (dst && sp = 4)
  (if dst then sp ≤ 4 || sp = 6 else sp ≤ 3 || sp = 5) &&
    (sideFmt d dst ≤ 4 || sideFmt d dst = 7) &&
    strides.all (fun s => s % (es : Int) = 0) &&
    (match sp with
      | 0 => a % es = 0 && 0 ≤ b.1 && b.2 ≤ 0x40000
      | 1 => a % es = 0 && 0x200000000 ≤ b.1 && b.2 ≤ 0x201800000
      | 2 => a % es = 0
      | 3 => a < 0x1000 && (dst || a % 256 = self)
      | 4 => a % es = 0 && a % 8 = 0 && 0 ≤ b.1 && b.2 ≤ 0x10000
      | _ => a = 0) &&
    (!packets || (extent d 0 * es % 64 = 0 && strides.all (· = 0)))

/-- Whether SX accepts a descriptor of cell `self` with its auxiliary record (R288). -/
def streamOk (self : Nat) (d aux : Nat) : Bool :=
  let auxEn := bitB d 484
  let nd := bits d 474 472
  let sf := sideFmt d false
  let df := sideFmt d true
  let op := bits d 479 478
  let sr := bitB d 482
  bits d 511 497 = 0 && bits d 481 480 ≠ 3 && op ≠ 3 && nd ≤ 5 &&
    (!auxEn || bits aux 511 464 = 0) &&
    (List.range 5).all (fun i => i < nd ||
      (extent d (i + 1) = 1 && strideOf d false (i + 1) = 0 && strideOf d true (i + 1) = 0)) &&
    (decide (sf = 7) == decide (df = 7)) &&
    (!sr || (auxEn && sf = 0 && 1 ≤ df && df ≤ 4)) &&
    (!bitB d 483 || df = 3 || df = 4) &&
    (op = 0 || (sideSpace d true = 2 && df = 0 && sf ≠ 7)) &&
    sideOk self d false && sideOk self d true && (sideSpace d true ≠ 4 || df = 7) &&
    (!(auxEn && (bitB aux 366 || bitB aux 343 || bitB aux 328)) ||
      (List.range 6).all (fun i => bits aux (383 + 16 * i) (368 + 16 * i) < extent d i))

/-- The row and element at which an accepted transfer starts (R287, R305). -/
def startPos (d aux : Nat) : Nat × Nat :=
  if bitB d 484 && bitB aux 366 then
    let r i := bits aux (383 + 16 * i) (368 + 16 * i)
    (r 1 + extent d 1 * (r 2 + extent d 2 * (r 3 + extent d 3 * (r 4 + extent d 4 * r 5))), r 0)
  else (0, 0)

/-- n undefined bytes (log entry 4). -/
def openBytes (draw n : Nat) : List PByte := clean ((List.range n).map (Config.undefByte draw))

/-- The transfer that SX starts for an accepted descriptor (R283, R305). A transfer that starts inside an
item of a conveyor writes undefined bytes before its start. -/
def acceptTransfer (draw : Nat) (desc aux : Desc) (pen : Bool) (psem : BitVec 6) : Transfer :=
  let d := desc.toNat
  let p := startPos d aux.toNat
  let off := p.2 * streamSize (sideFmt d true)
  { desc, aux, pen, psem, row := p.1, elt := p.2
    chunkHeld := bitB d 484 && bitB aux.toNat 366 && bitB aux.toNat 367
    sent := off / 64 * 64, out := openBytes draw (off % 64) }

/-- SX_MALFORMED (R288, R313). -/
def sxMalformed : FaultInfo := { cause := 0x60, unit := .sx }

/-- SXGO (R197, R283, R288): it settles when SX accepts the descriptor. -/
def evalSxgo (c : CellId) (e : InFlight) (s : State) : Eval :=
  let x := e.ins.x
  if !sOnly e.ins.f {} || !lOnly x { dsel := true } then .illegal s
  else
    let s := s.ocUpset c e.ins.u
    let y := s.cell c
    let d := y.rdD x.dsel
    let auxEn := bitB d.toNat 484
    let k := bits d.toNat 496 485
    let aux : Desc := if auxEn then y.ocSlot k else 0
    if (auxEn && y.ocPoison.has k) || !streamOk c.val d.toNat aux.toNat then .fault s sxMalformed
    else match y.freeSlot with
      | none => .wait s (some CR.SX_STALL_QFULL_CNT)
      | some n => .done ((s.setCell c
          (y.setSlot n (some (acceptTransfer s.free d aux x.pen x.psem)))).draw) none false

/-! ### Granules (R289) -/

/-- A granule: elements, byte addresses of both sides, and whether it ends its row. -/
structure Granule where
  n : Nat
  sa : Nat
  da : Nat
  last : Bool
  deriving DecidableEq, Repr

/-- The elements that a side lets a granule have. -/
def sideRun (space addr es : Nat) : Nat :=
  if space = 3 then 4096 / es else (4096 - addr % 4096) / es

/-- An address of a side as its space counts it; negative ones wrap and translate to no page. -/
def sideAt (d : Nat) (dst : Bool) (row elt : Nat) : Nat :=
  if sideSpace d dst = 3 then sideAddr d dst else wrap 64 (eltAddr d dst row elt)

/-- The granule that starts at a row and element (R289). -/
def granuleAt (d row elt : Nat) : Granule :=
  let sa := sideAt d false row elt
  let da := sideAt d true row elt
  let n := min (extent d 0 - elt)
    (min (sideRun (sideSpace d false) sa (streamSize (sideFmt d false)))
      (sideRun (sideSpace d true) da (streamSize (sideFmt d true))))
  { n, sa, da, last := elt + n = extent d 0 }

/-- The position after the granule at a position. -/
def afterGranule (d row elt : Nat) : Nat × Nat :=
  let g := granuleAt d row elt
  if g.last then (row + 1, 0) else (row, elt + g.n)

/-- How many granules, up to the bound, a transfer has from a position on in the rows below `stop`. -/
def granulesLeft (d stop : Nat) : Nat → Nat → Nat → Nat
  | 0, _, _ => 0
  | fuel + 1, row, elt =>
    if stop ≤ row then 0
    else
      let p := afterGranule d row elt
      1 + granulesLeft d stop fuel p.1 p.2

/-- The result of a part of a micro-transfer: done, a halt with its reason, detail and address, a wait with the
stall counter that it adds to, or a wait for a page (R302). -/
inductive SxRes (α : Type) where
  | ok (s : State) (v : α)
  | stop (s : State) (reason detail va : Nat)
  | wait (s : State) (counter : Option Nat)
  | page (s : State) (req : Nat) (va : Nat) (write : Bool)

/-- The wait of a stream's access on its source side (0) or its destination side (1), as its part of a micro-transfer
(R300, R303). -/
def Wait.sx {α : Type} (why : Wait) (s : State) (dst : Nat) (va : Nat) : SxRes α :=
  match why with
  | .page q => .page s q va (dst == 1)
  | w => .wait s (w.counter (dst == 1))

/-- A virtual access by a stream as its part of a micro-transfer (R262, R302). -/
def AccRes.sx {α : Type} (r : AccRes α) (dst : Nat) (va : Nat) : SxRes α :=
  match r with
  | .ok s v => .ok s v
  | .wait s why => why.sx s dst va
  | .fault s 11 => .stop s 3 0 va
  | .fault s r => .stop s 2 r va
  | .range s => .stop s 5 dst va

/-- The next part of a micro-transfer, where the one before is done. -/
def SxRes.bind {α β : Type} (r : SxRes α) (k : State → α → SxRes β) : SxRes β :=
  match r with
  | .ok s v => k s v
  | .stop s reason detail va => .stop s reason detail va
  | .wait s counter => .wait s counter
  | .page s req va write => .page s req va write

/-- The value of a part that is done. -/
def SxRes.map {α β : Type} (r : SxRes α) (f : α → β) : SxRes β := r.bind (fun s v => .ok s (f v))

/-- The traffic class of a transfer. -/
def Transfer.cls (t : Transfer) : Fin 8 := ⟨t.f 477 475 % 8, by omega⟩

/-- The items from Rd on that hold bytes [b, b + n) of a row, none where the conveyor is short (R310) or a resize
of the window holds them up (R215). -/
def State.convBytes (s : State) (c : CellId) (k : BitVec 4) (b n : Nat) : Option (List PByte) :=
  let v := (s.cell c).conv k
  let m := (b + n + 63) / 64 - b / 64
  if (v.w - v.rd).toNat < m || (List.range m).any (fun i => s.convStuck c k (v.rd + BitVec.ofNat 32 i)) then none
  else
    let d := (List.range m).flatMap (fun i => (s.convItem c k (v.rd + BitVec.ofNat 32 i)).1)
    some ((d.drop (b % 64)).take n)

/-- The next m items of conveyor k: those that lie beyond the window are poisoned (R317). -/
def State.spoilItems (s : State) (c : CellId) (k : BitVec 4) (m : Nat) : State :=
  (List.range m).foldl (fun s i => s.spoilItem c k (((s.cell c).conv k).rd + BitVec.ofNat 32 i)) s

/-- How many of the next m items of conveyor k are poisoned. -/
def State.badItems (s : State) (c : CellId) (k : BitVec 4) (m : Nat) : Nat :=
  ((List.range m).filter (fun i => anyBad (s.convItem c k (((s.cell c).conv k).rd + BitVec.ofNat 32 i)).1)).length

/-- The source bytes of a granule (R285, R290). -/
def State.sxRead (s : State) (c : CellId) (t : Transfer) (g : Granule) : SxRes (List PByte) :=
  let n := g.n * streamSize (t.f 63 60)
  match t.f 59 57 with
  | 0 => .ok s (withPoison (s.cell c).ocPoison g.sa ((s.cell c).ocRead g.sa n))
  | 3 =>
    let k := BitVec.ofNat 4 (g.sa / 256)
    if !((s.cell c).conv k).en then .stop s 6 0 0
    else
      let b := t.elt * streamSize (t.f 63 60)
      match s.convBytes c k b n with
      | some d => .ok (s.spoilItems c k ((b + n + 63) / 64 - b / 64)) d
      | none => .wait s (some CR.SX_STALL_DATA_CNT)
  | 5 => .ok s (clean (List.replicate n 0))
  | _ => (s.vread { agent := .stream c, va := g.sa } n t.cls).sx 0 g.sa

/-- The own window as a physical address, which a reduction refuses. -/
def ownPhys (c : CellId) (off : Nat) : Phys :=
  { pa := sliceWinBase + c.val * 0x2000000 + off, cacheable := false, tck := false }

/-- The physical place of a virtual address of spaces 1 and 2, if it has one: two addresses of one place are aliases
(R213, R255). -/
def State.streamPhys (s : State) (c : CellId) (a : Nat) (write : Bool) : Option Phys :=
  match (s.translate { agent := .stream c, va := a, write }).2 with
  | .phys p => some p
  | .own k off => some (ownPhys k off)
  | _ => none

/-- The key under which the earlier contents of the 64-byte unit at an address of a side are kept (R292): by its place in
OC, or in physical memory. -/
def State.unitKey (s : State) (c : CellId) (space a : Nat) (write : Bool) : Option Nat :=
  if space = 0 then some (a / 64)
  else if space ≤ 2 then (s.streamPhys c a write).map (fun p => 2 ^ 64 + p.pa / 64)
  else none

/-- The parts of [a, a + n) in 64-byte units: address, and how many bytes. -/
def unitParts (a n : Nat) : List (Nat × Nat) :=
  (List.range ((a + n + 63) / 64 - a / 64)).map (fun i =>
    let lo := max a (64 * (a / 64 + i))
    (lo, min (a + n) (64 * (a / 64 + i) + 64) - lo))

/-- The bytes of a source with, for each 64-byte unit that an earlier granule overwrote, the contents that
the device chose (R292). -/
def State.pickOld (s : State) (c : CellId) (t : Transfer) (a : Nat) (bs : List PByte) : List PByte :=
  (unitParts a bs.length).flatMap (fun q =>
    let now := (bs.drop (q.1 - a)).take q.2
    match s.unitKey c (t.f 59 57) q.1 false with
    | none => now
    | some k =>
      let vs := (t.old.filter (fun o => o.1 == k)).map (·.2)
      let p := Config.overlapPick s.free k % (vs.length + 1)
      if p = 0 then now else ((vs.getD (p - 1) []).drop (q.1 % 64)).take q.2)

/-- Whether later granules of a transfer can read what the one at the position writes (R292): both sides in OC with
meeting bounds, or both in memory, where two addresses may name one place. -/
def Transfer.overlaps (t : Transfer) : Bool :=
  let d := t.desc.toNat
  let s := sideBounds d false
  let u := sideBounds d true
  let mem (k : Nat) : Bool := k == 1 || k == 2
  decide ((afterGranule d t.row t.elt).1 < rowCount d) &&
    ((t.f 59 57 == 0 && t.f 123 121 == 0 && decide (s.1 < u.2) && decide (u.1 < s.2)) ||
      (mem (t.f 59 57) && mem (t.f 123 121)))

/-- The unit at an address of the destination as it reads now. -/
def State.unitNow (s : State) (c : CellId) (t : Transfer) (a : Nat) : Option (List PByte) :=
  let b := a / 64 * 64
  if t.f 123 121 = 0 then some (withPoison (s.cell c).ocPoison b ((s.cell c).ocRead b 64))
  else match s.streamPhys c b true with
    | none => none
    | some p =>
      match s.physRead (.stream c) p 64 t.cls with
      | .ok r => some r.2
      | _ => none

/-- A transfer with the units that its granule is about to write, as they are before. -/
def State.saveOld (s : State) (c : CellId) (t : Transfer) (a n : Nat) : Transfer :=
  if t.overlaps then
    { t with old := t.old ++ (unitParts a n).filterMap (fun q =>
        match s.unitKey c (t.f 123 121) q.1 true, s.unitNow c t q.1 with
        | some k, some d => some (k, d)
        | _, _ => none) }
  else t

/-! ### Conversion (R293, R294) -/

/-- The stream formats with a conversion (R286). -/
def sxFmt : Nat → Option Fmt
  | 0 => some .fp32 | 1 => some .bf16 | 2 => some .fp16 | 3 => some .e4m3 | 4 => some .e5m2 | _ => none

/-- The logical index of element elt of a row (R293). -/
def logicalIdx (d aux row elt : Nat) : Nat :=
  let ls i := sgn 40 (bits aux (96 + 40 * i + 39) (96 + 40 * i))
  wrap 64 ((bits aux 95 32 : Int) + (elt : Int) +
    ((List.range 5).map (fun i => (rowCoord d row (i + 1) : Int) * ls i)).sum)

/-- One converted element (R52 to R57, R293). -/
def sxElem (x : Cell) (t : Transfer) (sf df : Fmt) (idx v : Nat) : Nat × Flags :=
  let mode := if !df.fp8 || t.f 483 483 = 1 then OvfMode.ieee else .sat
  if t.f 482 482 = 1 then
    let u := srBits (BitVec.ofNat 64 (x.reg CR.NUM_SR_SEED)) (BitVec.ofNat 64 (x.reg CR.NUM_SR_STEP))
      (t.a 31 0) idx
    roundSR df mode (u.toNat / 2 ^ 32) (readOp sf v)
  else fConvert sf df mode v

/-- The destination bytes of a granule with its numeric events: copied bit for bit with their poison, or
converted (R293). -/
def sxConvert (x : Cell) (t : Transfer) (g : Granule) (bs : List PByte) : List PByte × NumEvent :=
  match sxFmt (t.f 63 60), sxFmt (t.f 127 124) with
  | some sf, some df =>
    if sf = df then (bs, {})
    else
      let es := sf.esize
      (List.range g.n).foldl (fun (r : List PByte × NumEvent) j =>
        let idx := logicalIdx t.desc.toNat t.aux.toNat t.row (t.elt + j)
        let w := sxElem x t sf df idx (fieldAt (plain bs) (j * es) es)
        (r.1 ++ clean (leBytes df.esize w.1), { r.2 with counts := r.2.counts.add w.2 })) ([], {})
  | _, _ => (bs, {})

/-- Whether a poisoned source stops a granule: a conversion or a reduction (R302). -/
def Transfer.computes (t : Transfer) : Bool := t.f 63 60 != t.f 127 124 || t.f 479 478 != 0

/-! ### Writing -/

/-- Bytes with their poison written to OC (R120, R254). -/
def Cell.ocPut (x : Cell) (a : Nat) (bs : List PByte) : Cell :=
  { (x.ocWrite a (plain bs)) with ocPoison := poisonAfter x.ocPoison a bs }

/-- Bytes with their poison written to IM: a poisoned byte leaves its 8-byte word in error (R157, R254). -/
def Cell.imPut (x : Cell) (a : Nat) (bs : List PByte) : Cell :=
  let x := x.imWrite a (plain bs)
  { x with imBad := (List.range bs.length).foldl (fun (m : NSet) i =>
      if (bs.getD i (0, false)).2 then m.add ((a + i) / 8) else m) x.imBad }

/-- The contribution of a granule's bytes to one line (R295). -/
def Transfer.contrib (t : Transfer) (c : CellId) (n : Fin 6) (off : Nat) (bs : List PByte) : Contrib :=
  { op := if t.f 479 478 = 1 then .add else .max
    cls := t.cls
    mask := BitVec.ofNat 64 ((2 ^ (bs.length / 4) - 1) * 2 ^ (off / 4))
    words := BitVec.ofNat 2048 (leNat (plain bs) * 2 ^ (8 * off))
    n := t.a 311 296 + 1, t := t.a 327 312, src := c.val * 8 + n.val, agent := .stream c }

/-- One line's contribution delivered. A window or an uncacheable page refuses with reason 1 (R226). -/
def State.deliver (s : State) (t : Transfer) (c : CellId) (n : Fin 6) (p : Phys)
    (q : Nat × Nat × Nat) (bs : List PByte) : RedRes :=
  if p.cacheable then s.contribute q.1 (t.contrib c n q.2.1 bs) p.tck else s.rejectRed q.1 1

/-- How the contributions of a granule end: all are delivered, with the first reason of those refused, or one of them
must wait, and the granule with it. -/
inductive SentLines where
  | done (s : State) (why : Option Nat)
  | wait (s : State) (why : Wait)

/-- The contributions of a granule to a list of lines, each applied or refused on its own (R295). Where one must wait,
none is made, in the state s0 before them. -/
def State.deliverLines (s0 : State) (t : Transfer) (c : CellId) (n : Fin 6) (p : Phys) :
    List (Nat × Nat × Nat) → List PByte → Option Nat → State → SentLines
  | [], _, r, s => .done s r
  | q :: qs, bs, r, s =>
    match s.deliver t c n p q (bs.take q.2.2) with
    | .accepted s => State.deliverLines s0 t c n p qs (bs.drop q.2.2) r s
    | .refused s w => State.deliverLines s0 t c n p qs (bs.drop q.2.2) (r.or (some w)) s
    | .wait _ why =>
      match s0.deliver t c n p q (bs.take q.2.2) with
      | .wait s why => .wait s why
      | _ => .wait s0 why

/-- A granule's contributions, one for each line. -/
def State.deliverAll (s : State) (t : Transfer) (c : CellId) (n : Fin 6) (p : Phys) (bs : List PByte) : SentLines :=
  State.deliverLines s t c n p (linesOf p.pa bs.length) bs none s

/-- The destination address of a reduction translated (R295). -/
def State.redTarget (s : State) (c : CellId) (va : Nat) : SxRes Phys :=
  let r := s.translate { agent := .stream c, va, write := true }
  match r.2 with
  | .phys p => .ok r.1 p
  | .own k off => .ok r.1 (ownPhys k off)
  | .fault 11 => .stop r.1 3 0 va
  | .fault w => .stop r.1 2 w va
  | .wait why => why.sx r.1 1 va

/-- One past the rows whose granules may be issued (R297): where a link takes an empty semaphore, those of the chunk at a
row; else all. -/
def Transfer.rowStop (t : Transfer) (row : Nat) : Nat :=
  let k := t.a 365 350 + 1
  if t.emptyEn then min (rowCount t.desc.toNat) ((row / k + 1) * k) else rowCount t.desc.toNat

/-- The contributions of the granules behind a refused one that were in flight with it (R290, R295); each
that reads, converts and translates delivers its own, in rows below `stop`. How many were is free (log entry 7). Returns the
end of the last such granule's lines. -/
def State.deliverBehind (c : CellId) (n : Fin 6) (stop : Nat) : Nat → Transfer → State → Nat × Nat → State × Nat × Nat
  | 0, _, s, r => (s, r)
  | k + 1, t, s, r =>
    if stop ≤ t.row then (s, r)
    else
      let g := granuleAt t.desc.toNat t.row t.elt
      let p := afterGranule t.desc.toNat t.row t.elt
      match s.sxRead c t g, s.redTarget c g.da with
      | .ok _ bs, .ok _ ph =>
        let w := sxConvert (s.cell c) t g bs
        if anyBad bs || (s.cell c).trapped w.2 ≠ 0 then (s, r)
        else match s.deliverAll t c n ph w.1 with
          | .wait _ _ => (s, r)
          | .done s' _ =>
            let lo := g.da / 256 * 256
            let hi := (g.da + w.1.length + 255) / 256 * 256
            State.deliverBehind c n stop k { t with row := p.1, elt := p.2 } s' (min r.1 lo, max r.2 hi)
      | _, _ => (s, r)

/-- The first unit of granules left to be written into conveyor k of cell t, written as items while there
is room (R309): the transfer with what is still to be written. -/
def State.pushItems (c : CellId) (n : Fin 6) (tc : CellId) (k : BitVec 4) (last : Bool) :
    Nat → State → Transfer → State × Transfer
  | 0, s, t => (s, t)
  | fuel + 1, s, t =>
    if t.out.length < 64 || !s.convAccepts tc k (.slot c n) then (s, t)
    else
      let s := s.convPush tc k (.slot c n) (t.out.take 64) (last && t.out.length = 64)
      State.pushItems c n tc k last fuel s { t with out := t.out.drop 64, sent := t.sent + 64 }

/-- What the write of a granule comes to. -/
def State.sxWrite (s : State) (c : CellId) (n : Fin 6) (t : Transfer) (g : Granule) (bs : List PByte) :
    SxRes Transfer :=
  match t.f 123 121 with
  | 0 => .ok (s.modCell c (fun x => x.ocPut g.da bs)) (s.saveOld c t g.da bs.length)
  | 4 => .ok (s.modCell c (fun x => x.imPut g.da bs)) t
  | 6 => .ok s t
  | _ =>
    if t.f 479 478 = 0 then
      ((s.vwrite { agent := .stream c, va := g.da, write := true } bs t.cls).sx 1 g.da).map (fun _ =>
        s.saveOld c t g.da bs.length)
    else (s.redTarget c g.da).bind (fun s p =>
      match s.deliverAll t c n p bs with
      | .wait s why => why.sx s 1 g.da
      | .done s' none => .ok s' (s.saveOld c t g.da bs.length)
      | .done s (some why) =>
        let lo := g.da / 256 * 256
        let hi := (g.da + bs.length + 255) / 256 * 256
        let q := afterGranule t.desc.toNat t.row t.elt
        let r := State.deliverBehind c n (t.rowStop t.row) (Config.inFlight s.free % 16) { t with row := q.1, elt := q.2 } s
          (lo, hi)
        .stop (r.1.modCell c (fun x =>
          x.setSlot n (some { t with indBase := r.2.1, indLen := r.2.2 - r.2.1 }))) 7 why g.da)

/-! ### Shares, pins and progress -/

/-- The counter of the share that carries a granule (R298). -/
def State.shareCnt (s : State) (c : CellId) (t : Transfer) (g : Granule) : Nat :=
  match t.f 123 121 with
  | 3 => if g.da % 256 = c.val then CR.SX_RD_BYTES_CNT else CR.SX_RM_BYTES_CNT
  | 2 =>
    match (s.translate { agent := .stream c, va := g.da, write := true }).2 with
    | .phys p =>
      match region p.pa with
      | .window w _ => if w = c then CR.SX_WR_BYTES_CNT else CR.SX_RM_BYTES_CNT
      | _ => CR.SX_WR_BYTES_CNT
    | _ => CR.SX_WR_BYTES_CNT
  | _ => CR.SX_RD_BYTES_CNT

/-- The lines of a side of a granule that a pin concerns (R296), and whether their tiles are checked: those of a
cacheable space-2 page. -/
def State.pinLines (s : State) (c : CellId) (space va n : Nat) (write : Bool) : List (Nat × Bool) :=
  if space ≠ 2 then []
  else match s.streamPhys c va write with
    | some p => if p.cacheable then (linesOf p.pa n).map (fun q => (q.1, p.tck)) else []
    | none => []

/-- One line pinned or unpinned for a transfer (R296); a line that could not be pinned counts once for it. -/
def State.pinOne (s : State) (c : CellId) (t : Transfer) (la : Nat) (tck : Bool) : State × Transfer :=
  if t.f 481 480 = 2 then (s.unpinLine la, t)
  else if t.pinMiss.has la then (s, t)
  else
    let r := s.pinLine la t.cls tck
    if r.2 then (r.1.countC c CR.SX_PIN_FAIL_CNT, { t with pinMiss := t.pinMiss.add la }) else (r.1, t)

/-- The pins of a side of a granule (R296). -/
def State.pinSide (s : State) (c : CellId) (t : Transfer) (g : Granule) (dst : Bool) : State × Transfer :=
  if t.f 481 480 = 0 then (s, t)
  else
    let ls := if dst then s.pinLines c (t.f 123 121) g.da (g.n * streamSize (t.f 127 124)) true
      else s.pinLines c (t.f 59 57) g.sa (g.n * streamSize (t.f 63 60)) false
    ls.foldl (fun r l => r.1.pinOne c r.2 l.1 l.2) (s, t)

/-- The items of a conveyor source that a granule has used up are released (R310). -/
def State.releaseItems (s : State) (c : CellId) (t : Transfer) (g : Granule) : State :=
  if t.f 59 57 ≠ 3 then s
  else
    let es := streamSize (t.f 63 60)
    let m := (t.elt + g.n) * es / 64 - t.elt * es / 64
    let k := BitVec.ofNat 4 (g.sa / 256)
    s.modCell c (fun x =>
      let v := x.conv k
      ((x.setConv k (Conveyor.release { v with rd := v.rd + BitVec.ofNat 32 m })).count CR.Q_POP_CNT m).count
        CR.Q_POISON_CNT (s.badItems c k m))

/-- Whether a row ends a chunk (R297). -/
def Transfer.chunkEnd (t : Transfer) (row : Nat) : Bool :=
  (row + 1) % (t.a 365 350 + 1) = 0 || row + 1 = rowCount t.desc.toNat

/-- A granule has been performed: its numeric events, pins, bytes, the position, and at the end of a chunk its link post
(R289, R293, R296 to R298). The lines that a granule for a conveyor reads have been pinned as it read them. -/
def State.granuleDone (s : State) (c : CellId) (n : Fin 6) (t : Transfer) (g : Granule) : State :=
  let s := s.noteNum c .sx t.ev 0
  let s := s.countC c (s.shareCnt c t g) (g.n * streamSize (t.f 127 124))
  let s := s.releaseItems c t g
  let p := if t.f 123 121 = 3 then (s, t) else s.pinSide c t g false
  let p := p.1.pinSide c p.2 g true
  let s := p.1
  let t := p.2
  let q := afterGranule t.desc.toNat t.row t.elt
  let fin := g.last && t.chunkEnd t.row
  let t' := { t with
    row := q.1, elt := q.2, done := t.done + 1, read := false, ev := {}
    sent := if g.last then 0 else t.sent, out := if g.last then [] else t.out
    chunkHeld := t.chunkHeld && !fin }
  let s := s.modCell c (fun x => x.setSlot n (some t'))
  if fin && t.fullEn then s.postFrom c t.fullCell t.fullSem 1 else s

/-- The micro-transfers of an implicit transfer that are left (R289, R307): their addresses and lengths, at most 4 KiB
inside one 4 KiB range. The first argument bounds them. -/
def runPieces : Nat → List (Nat × List Byte) → List (Nat × Nat)
  | 0, _ => []
  | _, [] => []
  | fuel + 1, (va, bs) :: rest =>
    let m := min bs.length (4096 - va % 4096)
    (va, m) :: runPieces fuel (if bs.length ≤ m then rest else (va + m, bs.drop m) :: rest)

/-- How many of the next 16 granules a transfer may issue (R290, R297). -/
def Transfer.left (t : Transfer) : Nat :=
  if t.implicit then (runPieces 16 t.runs).length
  else if t.emptyEn && !t.chunkHeld then 0
  else granulesLeft t.desc.toNat (t.rowStop t.row) 16 t.row t.elt

/-- Micro-transfers aborted with the one at the position (R301): itself, and those in flight behind it. -/
def State.countAborts (s : State) (c : CellId) (t : Transfer) : State :=
  (s.countC c CR.SX_UTX_REISSUE_CNT (min t.left (1 + Config.inFlight s.free % 16))).draw

/-- A transfer halts (R301 to R303). -/
def State.sxHalt (s : State) (c : CellId) (n : Fin 6) (reason detail va : Nat) : State :=
  match (s.cell c).slot n with
  | none => s
  | some t => (s.countAborts c t).failSlot c n reason detail va

/-- A transfer halts with reason 1 and waits for a page request (R302, R303). -/
def State.sxPage (s : State) (c : CellId) (n : Fin 6) (req va : Nat) (write : Bool) : State :=
  match (s.cell c).slot n with
  | none => s
  | some t =>
    let s := (s.countAborts c t).countC c CR.SX_HALT_CNT
    (s.modCell c (fun x => x.setSlot n (some { t.abort with
      st := .pageWait req, reason := 1, faultVa := va, faultWrite := write }))).stall c CR.SX_STALL_XLAT_CNT

/-- The end of a part of a micro-transfer that did not succeed. -/
def SxRes.settle {α : Type} (r : SxRes α) (c : CellId) (n : Fin 6) (k : State → α → State) : State :=
  match r with
  | .ok s v => k s v
  | .stop s reason detail va => s.sxHalt c n reason detail va
  | .wait s (some counter) => s.stall c counter
  | .wait s none => s
  | .page s req va write => s.sxPage c n req va write

/-! ### Conveyor destinations (R309) -/

/-- The bytes at the position's granule and after, put behind what a row has in a conveyor. Items written
before a halt are not written again. -/
def Transfer.queue (t : Transfer) (bs : List PByte) : Transfer :=
  let at' := t.elt * streamSize (t.f 127 124)
  { t with read := true, out := t.out ++ bs.drop (t.sent - at') }

/-- The items of a granule written as far as there is room; the granule is performed when no whole item
is left. A disabled conveyor discards what arrives and halts the transfer (R312). -/
def State.sxConvey (s : State) (c : CellId) (n : Fin 6) (t : Transfer) (g : Granule) : State :=
  let tc := cellNo g.da
  let k := BitVec.ofNat 4 (g.da / 256)
  if (s.cell tc).inReset then (s.modCell c (fun x => x.setSlot n (some t))).sxHalt c n 6 1 0
  else match (s.cell tc).cp.st with
  | .asleep | .waking =>
    ((s.modCell c (fun x => x.setSlot n (some t))).requestWake tc).stall c CR.SX_STALL_WAKE_CNT
  | _ =>
    if !((s.cell tc).conv k).en then (s.modCell c (fun x => x.setSlot n (some t))).sxHalt c n 6 1 0
    else
      let r := State.pushItems c n tc k g.last 65 s t
      if r.2.out.length < 64 then r.1.granuleDone c n r.2 g
      else ((r.1.modCell c (fun x => x.setSlot n (some r.2))).convJoin tc k (.slot c n)).stall c
        (if tc = c then CR.SX_STALL_QFULL_CNT else CR.SX_STALL_CREDIT_CNT)

/-! ### One micro-transfer -/

/-- The poisoned items that a granule which halts has read (R316). -/
def State.countPoison (s : State) (c : CellId) (t : Transfer) (g : Granule) : State :=
  if t.f 59 57 ≠ 3 then s
  else
    let es := streamSize (t.f 63 60)
    s.countC c CR.Q_POISON_CNT
      (s.badItems c (BitVec.ofNat 4 (g.sa / 256)) (((t.elt + g.n) * es + 63) / 64 - t.elt * es / 64))

/-- The granule at the position of an SXGO transfer (R290): it is read, checked, converted and written, or
the transfer waits or halts. -/
def State.sxGranule (s : State) (c : CellId) (n : Fin 6) (t : Transfer) : State :=
  let g := granuleAt t.desc.toNat t.row t.elt
  if t.read then s.sxConvey c n t g
  else (s.sxRead c t g).settle c n (fun s bs =>
    let bs := if t.old = [] then bs else s.pickOld c t g.sa bs
    let s := if t.old = [] then s else s.draw
    if anyBad bs && t.computes then (s.countPoison c t g).sxHalt c n 3 0 (if t.f 59 57 = 1 ∨ t.f 59 57 = 2 then g.sa else 0)
    else
      let w := sxConvert (s.cell c) t g bs
      let t := { t with ev := w.2 }
      let trap := (s.cell c).trapped w.2
      if trap ≠ 0 then (s.noteNum c .sx w.2 0).sxHalt c n 8 trap 0
      else if t.f 123 121 = 3 then
        let p := s.pinSide c t g false
        p.1.sxConvey c n (p.2.queue w.1) g
      else (s.sxWrite c n t g w.1).settle c n (fun s t => s.granuleDone c n t g))

/-- The next piece of an implicit transfer: at most 4 KiB inside one 4 KiB range (R289, R307). -/
def State.implicitGranule (s : State) (c : CellId) (n : Fin 6) (t : Transfer) : State :=
  match t.runs with
  | [] => s
  | (va, bs) :: rest =>
    let m := min bs.length (4096 - va % 4096)
    ((s.vwrite { agent := .stream c, va, write := true } (clean (bs.take m)) 0).sx 1 va).settle c n (fun s _ =>
        let ended := bs.length ≤ m
        let t' := { t with
          runs := if ended then rest else (va + m, bs.drop m) :: rest, done := t.done + 1
          row := if ended then t.row + 1 else t.row, elt := if ended then 0 else t.elt + m }
        (s.countC c CR.SX_WR_BYTES_CNT m).modCell c (fun x => x.setSlot n (some t')))

/-- Whether every granule of a transfer has been performed. -/
def Transfer.finished (t : Transfer) : Bool :=
  if t.implicit then t.runs.isEmpty else rowCount t.desc.toNat ≤ t.row

/-- Whether a transfer must take its empty semaphore before its next granule (R297). -/
def Transfer.needsEmpty (t : Transfer) : Bool := !t.implicit && t.emptyEn && !t.chunkHeld && !t.finished

/-- Whether slot n has a micro-transfer to perform. -/
def State.transfers (s : State) (c : CellId) (n : Fin 6) : Bool :=
  ((s.cell c).slot n).any (fun t => t.st == .running && !t.finished && !t.needsEmpty)

/-- The next micro-transfer of slot n (R290); one resumed during a floor reset waits for its end (R509). -/
def State.microTransfer (s : State) (c : CellId) (n : Fin 6) : State :=
  match (s.cell c).slot n with
  | none => s
  | some t =>
    if t.st ≠ .running || t.finished || t.needsEmpty then s
    else if t.held && s.floorBusy then s.stall c CR.SX_STALL_CREDIT_CNT
    else if t.implicit then s.implicitGranule c n t
    else s.sxGranule c n t

/-- A link takes the empty semaphore of its next chunk, or joins the semaphore's line (R280, R281, R297). -/
def State.takeEmpty (s : State) (c : CellId) (n : Fin 6) : State :=
  match (s.cell c).slot n with
  | none => s
  | some t =>
    if !t.needsEmpty then s
    else
      let k := t.emptySem
      let m := (s.cell c).sem k
      match t.st with
      | .running =>
        if m.failed || m.ovf then s.failSlot c n 9 k.toNat 0
        else
          let s := s.modCell c (fun x => (x.setSem k { m with line := m.line ++ [.link n] }).setSlot n
            (some { t with st := .semWait }))
          if m.line = [] && 1 ≤ m.count.toNat then s.modCell c (fun x => (x.serveSem k).getD x)
          else s.stall c CR.SX_STALL_SEM_CNT
      | .semWait =>
        if m.line.head? = some (.link n) then s.modCell c (fun x => (x.serveSem k).getD x) else s
      | _ => s

/-- A finished transfer completes (R291): its slot is freed and its completion post made. -/
def State.sxComplete (s : State) (c : CellId) (n : Fin 6) : State :=
  match (s.cell c).slot n with
  | none => s
  | some t =>
    if t.st = .running && t.finished then
      let s := s.modCell c (fun x => (x.setSlot n none).count CR.SX_DESC_DONE_CNT)
      s.completionPost c t.pen t.psem
    else s

/-- A page request is answered for the slots that wait on it (R264, R303): they resume, or fail with the
reason given. -/
def State.sxAnswer (s : State) (c : CellId) (req : Nat) (refused : Option Nat) : State :=
  (List.finRange 6).foldl (fun s n =>
    match (s.cell c).slot n with
    | none => s
    | some t =>
      if t.st = .pageWait req then
        match refused with
        | none => s.modCell c (fun x => x.setSlot n (some { t with st := .running, reason := 0, faultVa := 0 }))
        | some r => s.failSlot c n 2 r t.faultVa
      else s) s

end Sys2Proof.Machine
end

