-- ==== Sys2Proof/Machine/Fu.lean ====
section
/-! DEFINITION. The function unit: exp2, log2, reciprocal and reciprocal square root, bit for bit
(R125 to R129). Fixed-point values are whole numbers in units of 2^-40 or 2^-60. -/

namespace Sys2Proof.Machine

/-- Entries 0 to 15 of `fuT`. -/
def fuT0 : List Nat :=
  [1099511627776, 1111484524408, 1123587797336, 1135822866265,
   1148191166360, 1160694148413, 1173333279013, 1186110040722,
   1199025932245, 1212082468604, 1225281181323, 1238623618600,
   1252111345494, 1265745944103, 1279529013757, 1293462171200]

/-- Entries 16 to 31 of `fuT`. -/
def fuT1 : List Nat :=
  [1307547050779, 1321785304641, 1336178602922, 1350728633945,
   1365437104419, 1380305739634, 1395336283672, 1410530499603,
   1425890169698, 1441417095634, 1457113098708, 1472980020050,
   1489019720837, 1505234082514, 1521625007013, 1538194416978]

/-- Entries 32 to 47 of `fuT`. -/
def fuT2 : List Nat :=
  [1554944255987, 1571876488785, 1588993101509, 1606296101926,
   1623787519664, 1641469406452, 1659343836364, 1677412906057,
   1695678735018, 1714143465815, 1732809264348, 1751678320100,
   1770752846399, 1790035080670, 1809527284706, 1829231744927]

/-- Entries 48 to 63 of `fuT`. -/
def fuT3 : List Nat :=
  [1849150772653, 1869286704369, 1889641902005, 1910218753212,
   1931019671637, 1952047097213, 1973303496441, 1994791362680,
   2016513216442, 2038471605683, 2060669106105, 2083108321459,
   2105791883849, 2128722454037, 2151902721764, 2175335406057]

/-- T[j] of R125 in units of 2^-40: floor(2^(j/64) * 2^40). -/
def fuT : List Nat := fuT0 ++ fuT1 ++ fuT2 ++ fuT3

/-- Entries 0 to 15 of `fuL`. -/
def fuL0 : List Nat :=
  [0, 25788332652688624, 51182934887956864, 76195648901981685,
   100837790533043887, 125120179995421946, 149053170417343251, 172646674331297590,
   195910188333569605, 218852816035327753, 241483289447362331, 263809988930192192,
   285840961833663804, 307583939907034224, 329046355589032371, 350235357260097409]

/-- Entries 16 to 31 of `fuL`. -/
def fuL1 : List Nat :=
  [371157823534266374, 391820376666973751, 412229395140988125, 432391025476598273,
   452311193353947007, 471995614065797486, 491449802352389498, 510679081690039794,
   529688593024784646, 548483303021651415, 567068011866748673, 585447360609717055,
   603625838132249728, 621607787726223126, 639397413315499751, 656998785367315614]

/-- Entries 32 to 47 of `fuL`. -/
def fuL2 : List Nat :=
  [674415846471531969, 691652416649078697, 708712198374324408, 725598781358756083,
   742315647067019974, 758866173045641138, 775253637003063081, 791481220714155264,
   807552013727703848, 823469016888189744, 839235145711041830, 854853233579238563,
   870326034804439735, 885656227538225132, 900846416557538246, 915899135916506951]

/-- Entries 48 to 63 of `fuL`. -/
def fuL3 : List Nat :=
  [930816851490774789, 945601963396893608, 960256808305479419, 974783661665003328,
   989184739828924005, 1003462202060895260, 1017618152501644094, 1031654642022636820,
   1045573670004285568, 1059377186049096551, 1073067091619137390, 1086645241611007319,
   1100113445863050908, 1113473470599182646, 1126727039823966200, 1139875836655492867]

/-- L[j] of R125 in units of 2^-60: floor(-log2(R[j]) * 2^60). -/
def fuL : List Nat := fuL0 ++ fuL1 ++ fuL2 ++ fuL3

/-- R[j] of R125 in units of 2^-40. -/
def fuR (j : Nat) : Nat := 2 ^ 40 * 64 / (64 + j)

/-- c_1, c_2, c_3 of R125 in units of 2^-40. -/
def fuC1 : Nat := 762123384785
/-- c_2 of R125. -/
def fuC2 : Nat := 264131837701
/-- c_3 of R125. -/
def fuC3 : Nat := 61027412866

/-- k_6 of R125 in units of 2^-60; `down` rounds toward minus infinity. -/
def fuK6 : Int := -277219022871756719
/-- k_5, k_4, k_3, k_2, k_1 of R125 in units of 2^-60, in the order in which R127 uses them. -/
def fuK : List Int :=
  [332662827446108062, -415828534307635078, 554438045743513437, -831657068615270156,
   1663314137230540311]

/-- floor(v * 2^32) of a finite value. -/
def fixed32 (s : Bool) (m : Nat) (e : Int) : Int :=
  let k : Int := e + 32
  if 0 ≤ k then toIntAt s m k 0
  else
    let d : Nat := 2 ^ (-k).toNat
    toIntAt s m 0 0 / (d : Int)

/-- exp2 of a finite value (R126). -/
def exp2Fin (s : Bool) (m : Nat) (e : Int) : Nat × Flags :=
  if cmpFV (.fin s m e) (.fin false 128 0) ≥ 0 then (Fmt.infBits .fp32, .onlyOF)
  else if cmpFV (.fin s m e) (.fin true 126 0) < 0 then (0, .onlyUF)
  else
    let x := fixed32 s m e
    let n := x / (2 ^ 32 : Nat)
    let f := (x % (2 ^ 32 : Nat)).toNat
    let j := f / 2 ^ 26
    let r := f % 2 ^ 26
    let q := fuC3 * r / 2 ^ 32
    let q := (fuC2 + q) * r / 2 ^ 32
    let q := (fuC1 + q) * r / 2 ^ 32
    let y := fuT.getD j 0 * (2 ^ 40 + q) / 2 ^ 40
    rne .fp32 (.fin false y (n - 40))

/-- fu_exp2 of R126 and R129 on an FP32 encoding. -/
def fuExp2 (a : Nat) : Nat × Flags :=
  match readOp .fp32 a with
  | .nan => (Fmt.nan .fp32, .none)
  | .inf s => (if s then 0 else Fmt.infBits .fp32, .none)
  | .fin _ 0 _ => (0x3F800000, .none)
  | .fin s (m + 1) e => exp2Fin s (m + 1) e

/-- The polynomial of R127: u * q with u in units of 2^-63, every `down` to 2^-60. -/
def log2Poly (u : Int) : Int :=
  let q := fuK.foldl (fun q k => k + u * q / (2 ^ 63 : Nat)) fuK6
  u * q / (2 ^ 63 : Nat)

/-- log2 of a positive normal FP32 value m * 2^e with 2^23 ≤ m < 2^24 (R127). -/
def log2Fin (m : Nat) (e : Int) : Nat × Flags :=
  let ex : Int := e + 23
  let j := (m - 2 ^ 23) / 2 ^ 17
  let u : Int := ((m * fuR j : Nat) : Int) - ((2 ^ 63 : Nat) : Int)
  let y := ex * (2 ^ 60 : Nat) + (fuL.getD j 0 : Int) + log2Poly u
  if y = 0 then (0, .none) else rne .fp32 (.fin (decide (y < 0)) y.natAbs (-60))

/-- fu_log2 of R127 and R129 on an FP32 encoding. -/
def fuLog2 (a : Nat) : Nat × Flags :=
  match readOp .fp32 a with
  | .nan => (Fmt.nan .fp32, .none)
  | .inf false => (Fmt.infBits .fp32, .none)
  | .inf true => (Fmt.nan .fp32, .onlyNV)
  | .fin _ 0 _ => (Fmt.signBit .fp32 + Fmt.infBits .fp32, .onlyDZ)
  | .fin true (_ + 1) _ => (Fmt.nan .fp32, .onlyNV)
  | .fin false (m + 1) e => log2Fin (m + 1) e

/-- fu_recip of R128 and R129 on an FP32 encoding. -/
def fuRecip (a : Nat) : Nat × Flags :=
  match readOp .fp32 a with
  | .nan => (Fmt.nan .fp32, .none)
  | .inf s => (if s then Fmt.signBit .fp32 else 0, .none)
  | .fin s 0 _ => ((if s then Fmt.signBit .fp32 else 0) + Fmt.infBits .fp32, .onlyDZ)
  | .fin s (m + 1) e => rne .fp32 (recipFV s (m + 1) e)

/-- fu_rsqrt of R128 and R129 on an FP32 encoding. -/
def fuRsqrt (a : Nat) : Nat × Flags :=
  match readOp .fp32 a with
  | .nan => (Fmt.nan .fp32, .none)
  | .inf false => (0, .none)
  | .inf true => (Fmt.nan .fp32, .onlyNV)
  | .fin s 0 _ => ((if s then Fmt.signBit .fp32 else 0) + Fmt.infBits .fp32, .onlyDZ)
  | .fin true (_ + 1) _ => (Fmt.nan .fp32, .onlyNV)
  | .fin false (m + 1) e => rne .fp32 (rsqrtFV (m + 1) e)

/-- A value with the flags raised so far. -/
abbrev WithFlags := Nat × Flags

/-- rsqrt64 (R331) with the special inputs of R129. -/
def rsqrt64 (a : Nat) : WithFlags :=
  match readOp .fp64 a with
  | .nan => (Fmt.nan .fp64, .none)
  | .inf false => (0, .none)
  | .inf true => (Fmt.nan .fp64, .onlyNV)
  | .fin s 0 _ => ((if s then Fmt.signBit .fp64 else 0) + Fmt.infBits .fp64, .onlyDZ)
  | .fin true (_ + 1) _ => (Fmt.nan .fp64, .onlyNV)
  | .fin false (m + 1) e => rne .fp64 (rsqrtFV (m + 1) e)

/-- The reciprocal in FP64, correctly rounded, with the special inputs of R129 (R333, R335). -/
def recip64 (a : Nat) : WithFlags :=
  match readOp .fp64 a with
  | .nan => (Fmt.nan .fp64, .none)
  | .inf s => (if s then Fmt.signBit .fp64 else 0, .none)
  | .fin s 0 _ => ((if s then Fmt.signBit .fp64 else 0) + Fmt.infBits .fp64, .onlyDZ)
  | .fin s (m + 1) e => rne .fp64 (recipFV s (m + 1) e)

/-- exp2 in FP64 with the special inputs of R129; of other inputs the spec states no FP64 result (log entry 188). -/
def exp64 (a : Nat) : WithFlags :=
  match readOp .fp64 a with
  | .nan => (Fmt.nan .fp64, .none)
  | .inf s => (if s then 0 else Fmt.infBits .fp64, .none)
  | .fin _ 0 _ => (0x3FF0000000000000, .none)
  | .fin _ (_ + 1) _ => ((Config.fu64 false a).toNat, .none)

/-- log2 in FP64 with the special inputs of R129; of other inputs the spec states no FP64 result (log entry 188). -/
def log64 (a : Nat) : WithFlags :=
  match readOp .fp64 a with
  | .nan => (Fmt.nan .fp64, .none)
  | .inf false => (Fmt.infBits .fp64, .none)
  | .inf true => (Fmt.nan .fp64, .onlyNV)
  | .fin _ 0 _ => (Fmt.signBit .fp64 + Fmt.infBits .fp64, .onlyDZ)
  | .fin true (_ + 1) _ => (Fmt.nan .fp64, .onlyNV)
  | .fin false (_ + 1) _ => ((Config.fu64 true a).toNat, .none)

/-- The four functions of the function unit. -/
inductive FuFn where
  | exp2 | log2 | recip | rsqrt
  deriving DecidableEq, Repr

/-- A function on an FP32 encoding. -/
def FuFn.apply : FuFn → Nat → Nat × Flags
  | .exp2 => fuExp2 | .log2 => fuLog2 | .recip => fuRecip | .rsqrt => fuRsqrt

/-- A function unit element: the input is converted to FP32 (R52), the function applied, and a short
destination receives the FP32 result rounded once more (R125). FP64 occurs in rule programs only: the
reciprocal and the reciprocal square root are correctly rounded there (R333), and of the other two the spec
states the special inputs alone (R129). -/
def fuElem (fn : FuFn) (f : Fmt) (a : Nat) : Nat × Flags :=
  if f = .fp32 then fn.apply a
  else if f = .fp64 then (match fn with
    | .recip => recip64 a
    | .rsqrt => rsqrt64 a
    | .exp2 => exp64 a
    | .log2 => log64 a)
  else
    let (x, f₁) := fConvert f .fp32 .ieee a
    let (y, f₂) := fn.apply x
    let (z, f₃) := fConvert .fp32 f .ieee y
    (z, (f₁.or f₂).or f₃)

end Sys2Proof.Machine
end

