-- ==== Sys2Proof/Machine/Vec.lean ====
section
/-! DEFINITION. Reductions in tree order (R131 to R134) and row softmax (R136 to R142), as functions
of the element values; operands, regions and registers are in Machine/Vector.lean. -/

namespace Sys2Proof.Machine

/-- The outcome of a tree sum: the value, its flags, and the lowest index covered by the right
operand of a failing addition (R132, R146). -/
structure TreeResult where
  val : Nat
  flags : Flags
  nvAt : Option Nat
  deriving DecidableEq, Repr

/-- The smaller of two optional indices. -/
def optMin : Option Nat → Option Nat → Option Nat
  | none, b => b
  | a, none => a
  | some a, some b => some (min a b)

/-- One level of the tree: neighbours added in pairs; each value carries its lowest index. -/
def treeLevel (f : Fmt) : List (Nat × Nat) → List (Nat × Nat) × Flags × Option Nat
  | (a, i) :: (b, j) :: rest =>
    let (v, fl) := fAdd f a b
    let (out, fl', nv) := treeLevel f rest
    ((v, i) :: out, fl.or fl', optMin (if fl.nv then some j else none) nv)
  | l => (l, .none, none)

/-- The levels that are left (R132). -/
def treeBlock (f : Fmt) : Nat → List (Nat × Nat) → Flags → Option Nat → TreeResult
  | 0, l, fl, nv => { val := (l.headD (0, 0)).1, flags := fl, nvAt := nv }
  | n + 1, l, fl, nv =>
    let (l', fl', nv') := treeLevel f l
    treeBlock f n l' (fl.or fl') (optMin nv nv')

/-- The 64 values of a block with their indices, the missing ones -0 (R132). -/
def treePad (f : Fmt) (base : Nat) : Nat → List FV → List (FV × Nat)
  | 0, _ => []
  | n + 1, [] => (readOp f f.signBit, base) :: treePad f (base + 1) n []
  | n + 1, v :: vs => (v, base) :: treePad f (base + 1) n vs

/-- The first level of the tree, which adds the exact values of the elements in pairs and rounds each sum to format f. -/
def treeFirst (f : Fmt) : List (FV × Nat) → List (Nat × Nat) × Flags × Option Nat
  | (a, i) :: (b, j) :: rest =>
    let (v, fl) := roundOp f (addFV a b)
    let (out, fl', nv) := treeFirst f rest
    ((v, i) :: out, fl.or fl', optMin (if fl.nv then some j else none) nv)
  | _ => ([], .none, none)

/-- A block of 64 values summed (R132). -/
def treeSixty (f : Fmt) (base : Nat) (vs : List FV) : TreeResult :=
  let (l, fl, nv) := treeFirst f (treePad f base 64 vs)
  treeBlock f 5 l fl nv

/-- The blocks after the first, added in increasing order (R132); fuel is the number of blocks. -/
def treeBlocks (f : Fmt) : Nat → Nat → List FV → TreeResult → TreeResult
  | 0, _, _, r => r
  | n + 1, base, vs, r =>
    let b := treeSixty f base vs
    let (v, fl) := fAdd f r.val b.val
    treeBlocks f n (base + 64) (vs.drop 64)
      { val := v, flags := (r.flags.or b.flags).or fl,
        nvAt := optMin (optMin r.nvAt b.nvAt) (if fl.nv then some base else none) }

/-- tree_sum of R132 over exact values, every addition rounded to format f. -/
def treeSumFV (f : Fmt) (vs : List FV) : TreeResult :=
  treeBlocks f ((vs.length + 63) / 64 - 1) 64 (vs.drop 64) (treeSixty f 0 vs)

/-- tree_sum of R132 over encodings of format f. -/
def treeSum (f : Fmt) (vs : List Nat) : TreeResult := treeSumFV f (vs.map (readOp f))

/-- The reductions of R131. -/
inductive RedFn where
  | sum | sumd | ssq | max | min | amax
  deriving DecidableEq, Repr

/-- Bytes written per row (R204). -/
def RedFn.size : RedFn → Nat
  | .sum => 4 | .max => 4 | .min => 4 | .sumd => 8 | .ssq => 8 | .amax => 8

/-- An input converted to FP32 (R131, R52). -/
def toF32 (f : Fmt) (x : Nat) : Nat × Flags :=
  if f = .fp32 then (fCopy .fp32 x, .none) else fConvert f .fp32 .ieee x

/-- The elements of a row as FP32, with the flags of their conversion. -/
def rowF32 (f : Fmt) : List Nat → List Nat × Flags
  | [] => ([], .none)
  | x :: xs =>
    let (v, a) := toF32 f x
    let (vs, b) := rowF32 f xs
    (v :: vs, a.or b)

/-- The square of an FP32 value in FP64, formed exactly (R131). -/
def squareF64 (x : Nat) : Nat :=
  let v := readOp .fp32 x
  (rne .fp64 (mulFV v v).1).1

/-- The rank of R133: NaN > +inf > positive > +0 > -0 > negative > -inf. -/
def outranks (a b : FV) : Bool :=
  if b.isNan then false
  else if a.isNan then true
  else ltTotal b a

/-- The value that RMAX, RMIN or RAMAX writes for a row's result v in its input format, zero-extended to 4 bytes
(R133, R204). An FP64 value of a rule program (R333) has no place there: the 4 bytes are a free value (log entry
188). -/
def narrowVal (f : Fmt) (v : Nat) : Nat := if f = .fp64 then (Config.max64 v).toNat else v

/-- The position of the highest-ranked element, the lowest among equals (R133). -/
def argMax (f : Fmt) : List Nat → Nat → Nat → FV → Nat
  | [], _, best, _ => best
  | x :: xs, j, best, v =>
    let y := readOp f x
    if outranks y v then argMax f xs (j + 1) j y else argMax f xs (j + 1) best v

/-- One row of a reduction (R131 to R133): the value to write, flags, and the NV element. `base` is
the index base of RAMAX. FP64 elements of a rule program (R333) and their squares enter the tree exactly. -/
def reduceRow (fn : RedFn) (f : Fmt) (base : Nat) (row : List Nat) : TreeResult :=
  match fn with
  | .sum =>
    if f = .fp64 then treeSumFV .fp32 (row.map (readOp .fp64)) else
    let (xs, fl) := rowF32 f row
    let r := treeSum .fp32 xs
    { r with flags := fl.or r.flags }
  | .sumd =>
    if f = .fp64 then treeSum .fp64 (row.map (fCopy .fp64)) else
    let (xs, fl) := rowF32 f row
    let r := treeSum .fp64 (xs.map fun x => (fConvert .fp32 .fp64 .ieee x).1)
    { r with flags := fl.or r.flags }
  | .ssq =>
    if f = .fp64 then treeSumFV .fp64 (row.map (fun x => (mulFV (readOp .fp64 x) (readOp .fp64 x)).1)) else
    let (xs, fl) := rowF32 f row
    let r := treeSum .fp64 (xs.map squareF64)
    { r with flags := fl.or r.flags }
  | .max =>
    match row with
    | [] => { val := 0, flags := .none, nvAt := none }
    | x :: xs => { val := narrowVal f (xs.foldl (fMinMax f true) (fCopy f x)), flags := .none, nvAt := none }
  | .min =>
    match row with
    | [] => { val := 0, flags := .none, nvAt := none }
    | x :: xs => { val := narrowVal f (xs.foldl (fMinMax f false) (fCopy f x)), flags := .none, nvAt := none }
  | .amax =>
    let j := argMax f (row.drop 1) 1 0 (readOp f (row.headD 0))
    { val := narrowVal f (fCopy f (row.getD j 0)) + 2 ^ 32 * ((base + j) % 2 ^ 32), flags := .none, nvAt := none }

/-! ### Softmax -/

/-- One scaled logit t[j] = RNE_FP32(c * x[j]) (R137): its encoding, and whether the product
overflows. Masked elements are none. -/
def scaleLogit (c : Nat) (f : Fmt) (x : Nat) : Nat × Bool :=
  let r := roundOp .fp32 (mulFV (readOp .fp32 c) (readOp f x))
  (r.1, r.2.of)

/-- The scaled logits of a row; `act` says which elements are active. -/
def scaleRow (c : Nat) (f : Fmt) : List Nat → List Bool → List (Option Nat) × Bool
  | x :: xs, a :: as =>
    let (ts, o) := scaleRow c f xs as
    if a then
      let (t, o') := scaleLogit c f x
      (some t :: ts, o || o')
    else (none :: ts, o)
  | _, _ => ([], false)

/-- The first index at which a predicate holds. -/
def firstIdx {α : Type} (p : α → Bool) : List α → Nat → Option Nat
  | [], _ => none
  | x :: xs, j => if p x then some j else firstIdx p xs (j + 1)

/-- Whether an active scaled logit is NaN. A NaN x gives a NaN t, so this is R138 step 1. -/
def logitNan (t : Option Nat) : Bool :=
  match t with
  | some b => (readOp .fp32 b).isNan
  | none => false

/-- Whether an active scaled logit has the given FP32 encoding. -/
def logitIs (b : Nat) (t : Option Nat) : Bool := t == some b

/-- FP32 +infinity and -infinity. -/
def posInf32 : Nat := 0x7F800000
/-- FP32 -infinity. -/
def negInf32 : Nat := 0xFF800000
/-- FP32 one. -/
def one32 : Nat := 0x3F800000

/-- The maximum of the active scaled logits, none when no element is active. -/
def logitMax : List (Option Nat) → Option Nat
  | [] => none
  | none :: ts => logitMax ts
  | some t :: ts =>
    match logitMax ts with
    | none => some t
    | some u => some (fMinMax .fp32 true t u)

/-- RNE_out(1 / n), n ≥ 1 (R138). -/
def invCount (f : Fmt) (n : Nat) : Nat := (rne f (recipFV false n 0)).1

/-- e[j] of R137 and R141: exp2 of t - m for active elements, -0 otherwise. -/
def expTerm (m : Nat) : Option Nat → Nat
  | none => 0x80000000
  | some t => (fuExp2 (fSub .fp32 t m).1).1

/-- The outputs of one softmax row. -/
structure SmRow where
  out : List Nat
  lse : Nat
  flags : Flags
  /-- The smallest element at which a NaN was met. -/
  nvAt : Option Nat
  deriving DecidableEq, Repr

/-- One row of VSMAX (R137 to R139). -/
def vsmaxRow (c : Nat) (fin fout : Fmt) (xs : List Nat) (act : List Bool) : SmRow :=
  let (ts, o) := scaleRow c fin xs act
  let fl : Flags := { of := o }
  match firstIdx logitNan ts 0 with
  | some j =>
    { out := ts.map fun _ => fout.nan, lse := Fmt.nan .fp32, flags := fl.or .onlyNV, nvAt := some j }
  | none =>
    let n := (ts.filter (logitIs posInf32)).length
    if n ≠ 0 then
      { out := ts.map fun t => if logitIs posInf32 t then invCount fout n else 0, lse := posInf32,
        flags := fl, nvAt := none }
    else
      match logitMax ts with
      | none => { out := ts.map fun _ => 0, lse := negInf32, flags := fl.or { ms := true }, nvAt := none }
      | some m =>
        if m = negInf32 then
          { out := ts.map fun _ => 0, lse := negInf32, flags := fl.or { ms := true }, nvAt := none }
        else
          let e := ts.map (expTerm m)
          let s := (treeSum .fp32 e).val
          let r := readOp .fp32 (fuRecip s).1
          { out := ts.map fun t =>
              match t with
              | none => 0
              | some _ => (rne fout (mulFV (readOp .fp32 (expTerm m t)) r).1).1,
            lse := (fAdd .fp32 m (fuLog2 s).1).1, flags := fl, nvAt := none }

/-- A state record of R140: m, s, ninf and nan. -/
structure SmState where
  m : Nat
  s : Nat
  ninf : Nat
  nan : Bool
  deriving DecidableEq, Repr

/-- A record read from its 128 bits; none when a reserved field is non-zero (R141, R147). -/
def SmState.ofNat (x : Nat) : Option SmState :=
  if bits x 127 88 ≠ 0 then none
  else some { m := bits x 31 0, s := bits x 63 32, ninf := bits x 86 64, nan := bitB x 87 }

/-- The 128 bits of a record (R140). -/
def SmState.toNat (r : SmState) : Nat :=
  r.m + 2 ^ 32 * r.s + 2 ^ 64 * r.ninf + 2 ^ 87 * b2n r.nan

/-- The largest count of infinite logits (R141). -/
def ninfMax : Nat := 4194304

/-- The outputs of one VSMON segment. -/
structure SmonRow where
  p : List Nat
  alpha : Nat
  st : SmState
  flags : Flags
  nvAt : Option Nat
  deriving DecidableEq, Repr

/-- One row segment of VSMON (R141); none when ninf would exceed its largest count, which the NaN branch does not test (log
entry 209). -/
def vsmonRow (c : Nat) (fin fout : Fmt) (xs : List Nat) (act : List Bool) (st : SmState) :
    Option SmonRow :=
  let (ts, o) := scaleRow c fin xs act
  let fl : Flags := { of := o }
  let bad := firstIdx logitNan ts 0
  if st.nan || bad.isSome then
    some { p := ts.map fun _ => fout.nan, alpha := Fmt.nan .fp32, st := { st with nan := true },
           flags := fl.or { nv := bad.isSome }, nvAt := bad }
  else
    let n := (ts.filter (logitIs posInf32)).length
    if st.ninf + n > 0 then
      if st.ninf + n > ninfMax then none
      else
        some { p := ts.map fun t => if logitIs posInf32 t then invCount fout 1 else 0,
               alpha := if st.ninf = 0 then 0 else one32,
               st := { st with ninf := st.ninf + n }, flags := fl, nvAt := none }
    else
      let m := match logitMax ts with
        | none => fCopy .fp32 st.m
        | some t => fMinMax .fp32 true st.m t
      if m = negInf32 then
        some { p := ts.map fun _ => 0, alpha := one32, st := st, flags := fl, nvAt := none }
      else
        let alpha := (fuExp2 (fSub .fp32 st.m m).1).1
        let e := ts.map (expTerm m)
        let s := (fAdd .fp32 (fMul .fp32 st.s alpha).1 (treeSum .fp32 e).val).1
        some { p := ts.map fun t =>
                 match t with
                 | none => 0
                 | some _ => (fConvert .fp32 fout .ieee (expTerm m t)).1,
               alpha := alpha, st := { st with s := s, m := m }, flags := fl, nvAt := none }

/-- One row of VSMFIN (R142): the factor r, lse, and the flags. -/
def vsmfinRow (st : SmState) : Nat × Nat × Flags :=
  if st.nan then (Fmt.nan .fp32, Fmt.nan .fp32, .none)
  else if st.ninf > 0 then (invCount .fp32 st.ninf, posInf32, .none)
  else if st.m = negInf32 then (0, negInf32, { ms := true })
  else ((fuRecip st.s).1, (fAdd .fp32 st.m (fuLog2 st.s).1).1, .none)

end Sys2Proof.Machine
end

