-- ==== Sys2Proof/Machine/Rules.lean ====
section
/-! DEFINITION. The arithmetic of the Harvest units: masters with their compensation (R330), the element
phases of the built-in rules (R331) and the matrix phases (R335), as functions of encodings. -/

namespace Sys2Proof.Machine

/-! ### FP64 operations (R330, R331) -/

/-- An FP32 encoding as FP64, read under R51: exact. -/
def to64 (x : Nat) : Nat := (fConvert .fp32 .fp64 .ieee x).1

/-- An FP64 result rounded to FP32. -/
def narrow32 (x : WithFlags) : WithFlags :=
  let r := fConvert .fp64 .fp32 .ieee x.1
  (r.1, x.2.or r.2)

/-- FMA64 (R331), on a result with flags. -/
def fma64 (a b : Nat) (c : WithFlags) : WithFlags :=
  let r := fFma .fp64 a b c.1
  (r.1, c.2.or r.2)

/-- RNE64 of a product. -/
def mul64 (a b : WithFlags) : WithFlags :=
  let r := fMul .fp64 a.1 b.1
  (r.1, (a.2.or b.2).or r.2)

/-- The negation of an FP64 value. -/
def neg64 (a : Nat) : Nat := fNeg .fp64 a

/-- FP64 one. -/
def one64 : Nat := 0x3FF0000000000000

/-- 1 - β (R331). -/
def oneMinus (b : Nat) : Nat := (fSub .fp64 one64 b).1

/-- sqrt64 (R331). -/
def sqrt64 (a : Nat) : WithFlags :=
  match readOp .fp64 a with
  | .nan => (Fmt.nan .fp64, .onlyNV)
  | .inf false => (Fmt.infBits .fp64, .none)
  | .inf true => (Fmt.nan .fp64, .onlyNV)
  | .fin s 0 _ => (if s then Fmt.signBit .fp64 else 0, .none)
  | .fin true (_ + 1) _ => (Fmt.nan .fp64, .onlyNV)
  | .fin false (m + 1) e => rne .fp64 (sqrtFV (m + 1) e)

/-- RNE64 of a quotient of finite values (R338); a zero divisor gives an infinity, a zero dividend zero. -/
def div64 (a b : Nat) : WithFlags :=
  match readOp .fp64 a, readOp .fp64 b with
  | .nan, _ => (Fmt.nan .fp64, .none)
  | _, .nan => (Fmt.nan .fp64, .none)
  | .inf _, .inf _ => (Fmt.nan .fp64, .onlyNV)
  | .inf s, .fin t _ _ => (Fmt.infBits .fp64 + (if s != t then Fmt.signBit .fp64 else 0), .none)
  | .fin s _ _, .inf t => (if s != t then Fmt.signBit .fp64 else 0, .none)
  | .fin s m e, .fin t n h =>
    let sb := if s != t then Fmt.signBit .fp64 else 0
    if n = 0 then (if m = 0 then (Fmt.nan .fp64, .onlyNV) else (sb + Fmt.infBits .fp64, .onlyDZ))
    else if m = 0 then (sb, .none)
    else rne .fp64 (divFV s m e t n h)

/-- a > b for FP64 encodings; false where one is NaN. -/
def above64 (a b : Nat) : Bool := fCmp .fp64 4 a b

/-! ### Masters (R330) -/

/-- The exponent of ulp(v) for a finite non-zero FP32 value. -/
def ulpExp : FV → Int
  | .fin _ m e => (ilog2 m : Int) + e - 23
  | _ => 0

/-- w = master + comp * ulp(master) * 2^-16, exact (R330). -/
def masterValue (compEn : Bool) (mst comp : Nat) : FV :=
  let v := readOp .fp32 mst
  if !compEn || v.isZero || v.isInf || v.isNan then v
  else
    let c := sgn 16 comp
    (addFV v (.fin (decide (c < 0)) c.natAbs (ulpExp v - 16))).1

/-- A value rounded to an integer, half to even. -/
def rheInt : FV → Int
  | .fin s m e =>
    let q : Int := ((shiftRNE m e).1 : Nat)
    if s then -q else q
  | _ => 0

/-- The pending master and compensation of a new value x (R330). -/
def splitMaster (compEn : Bool) (x : WithFlags) : Nat × Nat × Flags :=
  let r := narrow32 x
  let v := readOp .fp32 r.1
  if !compEn || v.isZero || v.isInf || v.isNan then (r.1, 0, r.2)
  else
    let d := (addFV (readOp .fp64 x.1) (negFV v)).1
    let c := max (-32767) (min 32767 (rheInt (scaleFV (16 - ulpExp v) d)))
    (r.1, wrap 16 c, r.2)

/-- The working copy of a master (R330). -/
def workingCopy (mst : Nat) : Nat := (fConvert .fp32 .bf16 .ieee mst).1

/-! ### Element phases (R328, R331) -/

/-- One element as a group reads it. -/
structure ElemIn where
  g : Nat
  mst : Nat
  comp : Nat
  s0 : Nat
  s1 : Nat

/-- One element as a group writes it. -/
structure ElemOut where
  mst : Nat
  comp : Nat
  s0 : Nat
  s1 : Nat
  wc : Nat
  flags : Flags

/-- g~ = RNE_FP32(g * k) (R328). -/
def prepGrad (f : Fmt) (k g : Nat) : WithFlags := roundOp .fp32 (mulFV (readOp f g) (readOp .fp64 k))

/-- m' of rules 1 and 3 (R331). -/
def momentum (mu m : Nat) (g : WithFlags) : WithFlags := narrow32 (fma64 mu (to64 m) (to64 g.1, g.2))

/-- x = FMA64(-lr, FMA64(λ, w, d), w) (R331). -/
def descend (lr lam w : Nat) (d : WithFlags) : WithFlags :=
  let u := fma64 lam w d
  let r := fFma .fp64 (neg64 lr) u.1 w
  (r.1, u.2.or r.2)

/-- d of rule 2 with the new states (R331): m', v' and d. -/
def adaptive (p : Nat → Nat) (m v : Nat) (g : WithFlags) : WithFlags × WithFlags × WithFlags :=
  let g64 : WithFlags := (to64 g.1, g.2)
  let m' := narrow32 (fma64 (p 1) (to64 m) (mul64 (oneMinus (p 1), .none) g64))
  let v' := narrow32 (fma64 (p 2) (to64 v) (mul64 (oneMinus (p 2), .none) (mul64 g64 g64)))
  let q := fma64 (to64 v'.1) (p 4) (p 5, v'.2)
  let r := rsqrt64 q.1
  (m', v', mul64 (mul64 (to64 m'.1, m'.2) (p 3, .none)) (r.1, q.2.or r.2))

/-- The element phase of the built-in rules (R331). `mat` is the element of O or of D that the matrix phase
of rule 3 or 4 gives, in FP32. -/
def ruleElem (rule : Nat) (compEn : Bool) (gf : Fmt) (p : Nat → Nat) (k : Nat) (mat : Nat) (i : ElemIn) :
    ElemOut :=
  let w := encode .fp64 (masterValue compEn i.mst i.comp)
  let g := prepGrad gf k i.g
  let r : WithFlags × Nat × Nat × Flags :=
    match rule with
    | 1 =>
      let m := momentum (p 1) i.s0 g
      (descend (p 0) (p 2) w (to64 m.1, m.2), m.1, i.s1, .none)
    | 2 =>
      let a := adaptive p i.s0 i.s1 g
      (descend (p 0) (p 6) w a.2.2, a.1.1, a.2.1.1, a.1.2.or a.2.1.2)
    | 3 =>
      let m := momentum (p 1) i.s0 g
      (descend (p 0) (p 2) w (mul64 (p 3, .none) (to64 mat, m.2)), m.1, i.s1, .none)
    | _ => (descend (p 0) (p 2) w (to64 mat, g.2), i.s0, i.s1, .none)
  let o := splitMaster compEn r.1
  let wc := fConvert .fp32 .bf16 .ieee o.1
  { mst := o.1, comp := o.2.1, s0 := r.2.1, s1 := r.2.2.1, wc := wc.1
    flags := (r.2.2.2.or o.2.2).or wc.2 }

/-! ### Matrix phases (R334, R335) -/

/-- A matrix as a list of rows of encodings. -/
abbrev Mat := List (List Nat)

/-- The flags of the elements of a matrix step: the band whose tile an element lies in (R334), and its
flags. -/
abbrev MatFlags := List (Nat × Flags)

/-- A step of a matrix phase: an m × n result computed element by element. -/
def matStep (m n : Nat) (f : Nat → Nat → WithFlags) : Mat × MatFlags :=
  let rows := (List.range m).map (fun i => (List.range n).map (fun j => f i j))
  (rows.map (fun r => r.map (·.1)),
    ((List.range m).zip rows).flatMap (fun ir => ((List.range n).zip ir.2).filterMap (fun jw =>
      if jw.2.2 = Flags.none then none else some ((ir.1 / 256 + jw.1 / 256) % 16, jw.2.2))))

/-- Element (i, j). -/
def Mat.at (a : Mat) (i j : Nat) : Nat := (a.getD i []).getD j 0

/-- The transpose of an m × n matrix. -/
def Mat.transpose (a : Mat) (m n : Nat) : Mat :=
  (List.range n).map (fun j => (List.range m).map (fun i => a.at i j))

/-- A list padded with +0 to a multiple of 32 (R335). -/
def pad32 (l : List Nat) : List Nat := l ++ List.replicate ((32 - l.length % 32) % 32) 0

/-- Elements as exact operands of a format. -/
def asOps (f : Fmt) (l : List Nat) : List FV := (pad32 l).map (readOp f)

/-- The BF16 product of A (m × k) and the transpose of B (n × k), accumulated in FP32 (R59, R335). -/
def mulBf (a bt : Mat) (m n : Nat) : Mat × MatFlags :=
  let as := a.map (asOps .bf16)
  let bs := bt.map (asOps .bf16)
  matStep m n (fun i j =>
    let r := dotElem (as.getD i []) (bs.getD j []) 0 0
    (r.acc, r.flags))

/-- The 3-way split product of FP32 matrices, A (m × k) and the transpose of B (n × k) (R63 to R65,
R335). -/
def mulSplit (a bt : Mat) (m n : Nat) : Mat × MatFlags :=
  let as := a.map (asOps .fp32)
  let bs := bt.map (asOps .fp32)
  matStep m n (fun i j =>
    let r := dotSplit 3 (as.getD i []) (bs.getD j []) 0
    (r.acc, r.flags))

/-- Every element of an m × n matrix rounded to BF16. -/
def roundBf (a : Mat) (m n : Nat) : Mat × MatFlags :=
  matStep m n (fun i j => fConvert .fp32 .bf16 .ieee (a.at i j))

/-- FMA32(a, x, y) with FP64 a, BF16 x and FP32 y, rounded once to FP32 (R335). -/
def fma32 (a x y : Nat) : WithFlags := roundOp .fp32 (fmaFV (readOp .fp64 a) (readOp .bf16 x) (readOp .fp32 y))

/-- One Newton-Schulz iteration on an m × n matrix X in BF16 (R335). -/
def nsIter (a b c : Nat) (m n : Nat) (x : Mat) : Mat × MatFlags :=
  let p1 := mulBf x x m m
  let r1 := roundBf p1.1 m m
  let p2 := mulBf r1.1 (r1.1.transpose m m) m m
  let r2 := roundBf p2.1 m m
  let r3 := matStep m m (fun i j =>
    let t := roundOp .fp32 (mulFV (readOp .fp64 b) (readOp .bf16 (r1.1.at i j)))
    let u := fma32 c (r2.1.at i j) t.1
    let v := fConvert .fp32 .bf16 .ieee u.1
    (v.1, (t.2.or u.2).or v.2))
  let p4 := mulBf r3.1 (x.transpose m n) m n
  let r5 := matStep m n (fun i j =>
    let u := fma32 a (x.at i j) (p4.1.at i j)
    let v := fConvert .fp32 .bf16 .ieee u.1
    (v.1, u.2.or v.2))
  (r5.1, p1.2 ++ r1.2 ++ p2.2 ++ r2.2 ++ r3.2 ++ p4.2 ++ r5.2)

/-- Iterations in sequence. -/
def nsLoop (a b c m n : Nat) : Nat → Mat → MatFlags → Mat × MatFlags
  | 0, x, fl => (x, fl)
  | k + 1, x, fl =>
    let r := nsIter a b c m n x
    nsLoop a b c m n k r.1 (fl ++ r.2)

/-- The FP64 sum of squares of FP32 values over groups of 1,024 in increasing order, each by the tree of
R132 (R335). -/
def sumSquares : Nat → List Nat → WithFlags → WithFlags
  | 0, _, acc => acc
  | n + 1, l, acc =>
    let t := treeSum .fp64 ((l.take 1024).map squareF64)
    let a := fAdd .fp64 acc.1 t.val
    sumSquares n (l.drop 1024) (a.1, (acc.2.or t.flags).or a.2)

/-- The sum of squares over the groups of a layer: the first group's sum, then the others added. -/
def groupSquares (l : List Nat) : WithFlags :=
  let t := treeSum .fp64 ((l.take 1024).map squareF64)
  sumSquares ((l.length + 1023) / 1024 - 1) (l.drop 1024) (t.val, t.flags)

/-- NS of rule 3 (R335): O, rows × cols, in FP32, from m' in FP32. The last step reads X, which is in BF16, as
FP32: a BF16 subnormal becomes a signed zero and raises UF there (R52, R328). -/
def newtonSchulz (rows cols steps : Nat) (p : Nat → Nat) (m' : Mat) : Mat × MatFlags :=
  let flip := decide (cols < rows)
  let y := if flip then m'.transpose rows cols else m'
  let r := if flip then cols else rows
  let c := if flip then rows else cols
  let s := groupSquares m'.flatten
  let q := roundOp .fp64 (fmaFV (readOp .fp64 (p 7)) (readOp .fp64 (p 7)) (readOp .fp64 s.1))
  let k := rsqrt64 q.1
  let x := matStep r c (fun i j => roundOp .bf16 (mulFV (readOp .fp32 (y.at i j)) (readOp .fp64 k.1)))
  let n := nsLoop (p 4) (p 5) (p 6) r c (if steps = 0 then 5 else steps) x.1 x.2
  let o := matStep r c (fun i j => fConvert .bf16 .fp32 .ieee (n.1.at i j))
  (if flip then Mat.transpose o.1 r c else o.1, n.2 ++ o.2)

/-- The FP32 square matrix product of root4. -/
def mulSq (n : Nat) (a b : Mat) : Mat × MatFlags := mulSplit a (b.transpose n n) n n

/-- The coupled Newton iteration of root4, k times (R335). -/
def root4Loop (n : Nat) : Nat → Mat → Mat → MatFlags → Mat × MatFlags
  | 0, x, _, fl => (x, fl)
  | k + 1, x, m, fl =>
    let t := matStep n n (fun i j => narrow32
      (fma64 0xBFD0000000000000 (to64 (m.at i j)) (if i = j then 0x3FF4000000000000 else 0, .none)))
    let x' := mulSq n x t.1
    let t2 := mulSq n t.1 t.1
    let t4 := mulSq n t2.1 t2.1
    let m' := mulSq n t4.1 m
    root4Loop n k x'.1 m'.1 (fl ++ t.2 ++ x'.2 ++ t2.2 ++ t4.2 ++ m'.2)

/-- root4 (R335). -/
def root4 (n eps : Nat) (s : Mat) : Mat × MatFlags :=
  let a := matStep n n (fun i j =>
    roundOp .fp32 (addFV (readOp .fp32 (s.at i j)) (if i = j then readOp .fp64 eps else .zero false)))
  let c := sqrt64 (treeSum .fp64 (a.1.flatten.map squareF64)).val
  let ic := recip64 c.1
  let x0 := narrow32 (rsqrt64 (sqrt64 c.1).1)
  let x := (List.range n).map (fun i => (List.range n).map (fun j => if i = j then x0.1 else 0))
  let m := matStep n n (fun i j => roundOp .fp32 (mulFV (readOp .fp32 (a.1.at i j)) (readOp .fp64 ic.1)))
  root4Loop n 10 x m.1 (a.2 ++ m.2)

/-- SL' or SR' of rule 4 from the committed factor and the product (R335). -/
def factorStep (n beta : Nat) (s p : Mat) : Mat × MatFlags :=
  matStep n n (fun i j => narrow32
    (fma64 beta (to64 (s.at i j)) (mul64 (oneMinus beta, .none) (to64 (p.at i j), .none))))

/-- The matrix phase of rule 4 (R335): SL', SR', QL', QR' and D. -/
structure Kron where
  sl : Mat
  sr : Mat
  ql : Mat
  qr : Mat
  d : Mat
  flags : MatFlags

/-- Rule 4 on a prepared gradient, rows × cols (R335). -/
def kron (rows cols : Nat) (beta eps : Nat) (refresh : Bool) (g sl sr ql qr : Mat) : Kron :=
  let gt := g.transpose rows cols
  let p := mulSplit g g rows rows
  let q := mulSplit gt gt cols cols
  let sl' := factorStep rows beta sl p.1
  let sr' := factorStep cols beta sr q.1
  let ql' := if refresh then root4 rows eps sl'.1 else (ql, [])
  let qr' := if refresh then root4 cols eps sr'.1 else (qr, [])
  let t := mulSplit ql'.1 gt rows cols
  let d := mulSplit t.1 (qr'.1.transpose cols cols) rows cols
  { sl := sl'.1, sr := sr'.1, ql := ql'.1, qr := qr'.1, d := d.1
    flags := p.2 ++ q.2 ++ sl'.2 ++ sr'.2 ++ ql'.2 ++ qr'.2 ++ t.2 ++ d.2 }

end Sys2Proof.Machine
end

