-- ==== Sys2Proof/Machine/Layer.lean ====
section
/-! DEFINITION. Layer table entries and what a Harvest unit reads and writes (R320 to R323, R327, R336):
accesses of the units, the fields of an entry, the valid layers of a step, and failures of layers. -/

namespace Sys2Proof.Machine

/-! ### Accesses of the Harvest units (R322, R336) -/

/-- The result of an access of a Harvest unit: performed, to be waited for, or failed with a reason of R336
at an address. -/
inductive HRes (α : Type) where
  | ok (s : State) (v : α)
  | wait (s : State)
  | fail (s : State) (reason va : Nat)

/-- The next access of a sequence. -/
def HRes.bind {α β : Type} (r : HRes α) (k : State → α → HRes β) : HRes β :=
  match r with
  | .ok s v => k s v
  | .wait s => .wait s
  | .fail s w va => .fail s w va

/-- The reason of R336 for a translation reason (R258, R262). -/
def hvReason (r : Nat) : Nat := if r = 11 then 2 else 1

/-- One access's outcome as a Harvest unit takes it. -/
def AccRes.hv {α : Type} (r : AccRes α) (a : Access) : HRes α :=
  match r with
  | .ok s v => .ok s v
  | .wait s why => .wait { s with hv := { s.hv with waits := joinWait s.hv.waits 0 a why, why := some why } }
  | .fault s w => .fail s (hvReason w) a.va
  | .range s => .fail s 1 a.va

/-- An access that waited on a request that was refused fails once (R264, R336). -/
def State.hvAccess {α : Type} (s : State) (a : Access) (k : State → AccRes α) : HRes α :=
  match s.hv.refused.find? (fun w => w.is 0 a) with
  | some w => .fail { s with hv := { s.hv with refused := s.hv.refused.erase w } } 1 a.va
  | none => (k s).hv a

/-- Reads from a virtual address on by the unit of a band, cut at 4 KiB boundaries; the first argument bounds
the pieces. -/
def State.hvReadAux (k : Fin 16) (cls : Fin 8) : Nat → Nat → Nat → List PByte → State → HRes (List PByte)
  | 0, _, _, acc, s => .ok s acc
  | fuel + 1, va, n, acc, s =>
    if n = 0 then .ok s acc
    else
      let m := min n (4096 - va % 4096)
      (s.hvAccess { agent := .harvest k, va } (fun s => s.vread { agent := .harvest k, va } m cls)).bind (fun s d =>
        State.hvReadAux k cls fuel (va + m) (n - m) (acc ++ d) s)

/-- n bytes from a virtual address, with their poison. -/
def State.hvReadP (s : State) (k : Fin 16) (cls : Fin 8) (va n : Nat) : HRes (List PByte) :=
  State.hvReadAux k cls (n / 4096 + 2) va n [] s

/-- n bytes from a virtual address, which fails with reason 2 where they are poisoned (R336). -/
def State.hvRead (s : State) (k : Fin 16) (cls : Fin 8) (va n : Nat) : HRes (List Byte) :=
  (s.hvReadP k cls va n).bind (fun s d =>
    match d.findIdx? (fun b => b.2) with
    | some i => .fail s 2 (va + i)
    | none => .ok s (plain d))

/-- Writes from a virtual address on by the unit of a band. -/
def State.hvWriteAux (k : Fin 16) (cls : Fin 8) : Nat → Nat → List Byte → State → HRes Unit
  | 0, _, _, s => .ok s ()
  | fuel + 1, va, bs, s =>
    if bs.isEmpty then .ok s ()
    else
      let m := min bs.length (4096 - va % 4096)
      (s.hvAccess { agent := .harvest k, va, write := true } (fun s =>
        s.vwrite { agent := .harvest k, va, write := true } (clean (bs.take m)) cls)).bind (fun s _ => State.hvWriteAux k cls fuel (va + m) (bs.drop m) s)

/-- Bytes written at a virtual address. -/
def State.hvWrite (s : State) (k : Fin 16) (cls : Fin 8) (va : Nat) (bs : List Byte) : HRes Unit :=
  State.hvWriteAux k cls (bs.length / 4096 + 2) va bs s

/-! ### Layer table entries (R321, R322) -/

/-- A layer table entry. -/
abbrev Entry := BitVec 1024

/-- Field [hi:lo] of an entry. -/
def Entry.f (e : Entry) (hi lo : Nat) : Nat := bits e.toNat hi lo
/-- Rows. -/
def Entry.rows (e : Entry) : Nat := Entry.f e 95 64
/-- Columns. -/
def Entry.cols (e : Entry) : Nat := Entry.f e 127 96
/-- Elements. -/
def Entry.elems (e : Entry) : Nat := Entry.rows e * Entry.cols e
/-- Update groups (R327). -/
def Entry.groups (e : Entry) : Nat := ceilDiv (Entry.elems e) 1024
/-- Elements of group j. -/
def Entry.groupLen (e : Entry) (j : Nat) : Nat := min 1024 (Entry.elems e - 1024 * j)
/-- valid. -/
def Entry.valid (e : Entry) : Bool := bitB e.toNat 63
/-- The rule. -/
def Entry.rule (e : Entry) : Nat := Entry.f e 55 48
/-- The traffic class of every access to the layer. -/
def Entry.cls (e : Entry) : Fin 8 := ⟨Entry.f e 47 45 % 8, by omega⟩
/-- comp_en. -/
def Entry.compEn (e : Entry) : Bool := bitB e.toNat 44
/-- The gradient's format. -/
def Entry.gradFmt (e : Entry) : Fmt := if Entry.f e 43 40 = 0 then .fp32 else .bf16
/-- The address of the master in slot v. -/
def Entry.mst (e : Entry) (v : Nat) : Nat := Entry.f e (255 + 64 * v) (192 + 64 * v)
/-- The address of the compensation in slot v. -/
def Entry.comp (e : Entry) (v : Nat) : Nat := Entry.f e (383 + 64 * v) (320 + 64 * v)
/-- The address of state tensor i in slot v. -/
def Entry.st (e : Entry) (i v : Nat) : Nat := Entry.f e (511 + 128 * i + 64 * v) (448 + 128 * i + 64 * v)
/-- The address of the working copy. -/
def Entry.wc (e : Entry) : Nat := Entry.f e 767 704
/-- The address of the reduced gradient. -/
def Entry.grad (e : Entry) : Nat := Entry.f e 831 768
/-- The address of the parameter block. -/
def Entry.params (e : Entry) : Nat := Entry.f e 895 832
/-- ext. -/
def Entry.ext (e : Entry) : Nat := Entry.f e 959 896

/-- Whether the entry's rule uses state tensor i in slot v (R321): a program uses any address that is not zero. -/
def Entry.usesSt (e : Entry) (i v : Nat) : Bool :=
  match Entry.rule e with
  | 1 | 3 => i == 0
  | 2 => i ≤ 1
  | 0xF0 => Entry.st e i v != 0
  | _ => false

/-- Whether an address field is good (R321, R322): zero where it is not used; where it is, not zero, in the
57-bit space, and aligned. -/
def addrOk (used : Bool) (a align : Nat) : Bool :=
  if used then a != 0 && a < 2 ^ 57 && a % align == 0 else a == 0

/-- Whether the rule is a program, which may use every address field (R321). -/
def Entry.isProgram (e : Entry) : Bool := Entry.rule e == 0xF0

/-- The checks of an entry's fields that are no addresses (R322). -/
def Entry.fieldsOk (e : Entry) : Bool :=
  let sizeOk n := 1 ≤ n && n ≤ 2 ^ 31
  Entry.f e 1023 960 == 0 && Entry.f e 191 160 == 0 && Entry.f e 62 56 == 0 && Entry.f e 19 0 == 0 &&
    [1, 2, 3, 4, 0xF0].contains (Entry.rule e) && Entry.f e 43 40 ≤ 1 && sizeOk (Entry.rows e) && sizeOk (Entry.cols e)

/-- Whether the fields that say where the gradient lies are good. -/
def Entry.gradOk (e : Entry) : Bool :=
  let sizeOk n := 1 ≤ n && n ≤ 2 ^ 31
  Entry.f e 43 40 ≤ 1 && sizeOk (Entry.rows e) && sizeOk (Entry.cols e) &&
    addrOk true (Entry.grad e) (Entry.gradFmt e).esize

/-- Whether an entry is well formed (R322). -/
def Entry.ok (e : Entry) : Bool :=
  Entry.fieldsOk e && Entry.gradOk e &&
    [0, 1].all (fun v =>
      addrOk true (Entry.mst e v) 4096 && addrOk (Entry.compEn e || (Entry.isProgram e && Entry.comp e v != 0)) (Entry.comp e v) 2 &&
        addrOk (Entry.usesSt e 0 v) (Entry.st e 0 v) 4 && addrOk (Entry.usesSt e 1 v) (Entry.st e 1 v) 4) &&
    addrOk true (Entry.wc e) 2 && addrOk true (Entry.params e) 8 &&
    addrOk ([3, 4, 0xF0].contains (Entry.rule e)) (Entry.ext e) (if Entry.rule e = 3 then 4 else 8)

/-- The address of layer l's entry (R321). -/
def State.entryVa (s : State) (l : Nat) : Nat := s.freg FR.HV_LAYER_TABLE_BASE + 128 * l

/-- Layer l's entry read (R322). -/
def State.readEntry (s : State) (l : Nat) : HRes Entry :=
  (s.hvRead 0 0 (s.entryVa l) 128).bind (fun s bs => .ok s (BitVec.ofNat 1024 (leNat bs)))

/-- HV_LAYER_CNT. -/
def State.layerCnt (s : State) : Nat := s.freg FR.HV_LAYER_CNT

/-- The committed slot of layer l (R320). -/
def State.verBit (s : State) (l : Nat) : Nat := b2n (bitB (s.freg (FR.HV_VER (l / 32))) (l % 32))

/-- The delivery of layer l in the open step. -/
def State.deliveryOf (s : State) (l : Nat) : Option Delivered := s.hv.delivered.find? (fun d => d.layer == l)

/-- Whether layer l has failed in the open step (R336). -/
def State.layerFailed (s : State) (l : Nat) : Bool := s.hv.fails.any (fun f => f.1 == l)

/-! ### The state of the units (R326, R345) -/

/-- HV_STATUS.state (R326). -/
def State.hvState (s : State) : Nat :=
  if s.hv.carried then 4
  else match s.hv.decision with
    | some .redo => 3
    | some _ => 2
    | none => if s.hv.delivered.isEmpty then 0 else 1

/-- The exponent of the loss scale (R339). -/
def State.lossExp (s : State) : Int := sgn 8 (s.freg FR.HV_LS_STATE)

/-- N_l^2 of R337. -/
def normSq (e : Int) (w : StatusWord) : Nat := (rne .fp64 (scaleFV (-2 * e) (readOp .fp64 w.sumsq))).1

/-- The delivered layers in increasing layer order. -/
def State.inLayerOrder (s : State) : List Delivered :=
  (List.range 1024).filterMap (fun l => s.deliveryOf l)

/-- N^2 over the layers delivered so far (R329, R337). -/
def State.normSum (s : State) : Nat :=
  s.inLayerOrder.foldl (fun a d => (fAdd .fp64 a (normSq s.lossExp d.word)).1) 0

/-- The square of a threshold register (R337). -/
def State.thrSq (s : State) (a : Nat) : Nat := (fMul .fp64 (s.freg a) (s.freg a)).1

/-- Whether a delivered layer makes the step non-finite (R337, row 1). -/
def Delivered.bad (d : Delivered) : Bool := d.word.nonfinite || d.word.poison || d.mismatch

/-- Whether what has been delivered so far fixes the decision at skip (R329). -/
def State.skipDue (s : State) : Bool :=
  s.hv.delivered.any Delivered.bad || above64 s.normSum (s.thrSq FR.HV_NORM_CEIL)

/-- The decision fixed at skip from the moment that calls for it, until it is taken (R329). -/
def State.fixSkip (s : State) : State :=
  if s.hv.decision.isNone && s.skipDue then { s with hv := { s.hv with fixed := true } } else s

/-- The groups of layer l updated in the present pass. -/
def State.groupsDone (s : State) (l : Nat) : Nat := (s.hv.done.filter (fun g => g.1 == l)).length

/-- Whether every group of a delivered layer is updated in the present pass, or its update is abandoned
(R329, R336, R342). -/
def State.layerSettled (s : State) (d : Delivered) : Bool :=
  s.layerFailed d.layer || s.hv.fixed || decide (Entry.groups d.entry ≤ s.groupsDone d.layer)

/-- Type 1 requests complete when their layer's update has finished or is abandoned (R342). -/
def State.hvComplete (s : State) : State :=
  let fin (b : HvSub) : Bool :=
    match s.deliveryOf b.layer with
    | some d => s.layerSettled d
    | none => true
  let s' := { s with hv := { s.hv with subs := s.hv.subs.filter (fun b => !fin b) } }
  (s.hv.subs.filter fin).foldl (fun s b => s.completionPost b.cell b.pen b.psem) s'

/-- Layer l fails on this chip (R336): once in a step, with the address kept by unit k. -/
def State.failLayer (s : State) (l reason va : Nat) (k : Fin 16) : State :=
  if s.layerFailed l then s
  else
    let s := { s with hv := { s.hv with fails := s.hv.fails ++ [(l, reason)] } }
    let s := (s.orFreg FR.HV_STATUS 0x8000).setFreg (FR.HV_U_FAULT_VA k.val) (va % 2 ^ 57)
    (s.logEvent 0x0404 l (if reason = 2 ∨ reason = 5 then 3 else 5) va reason 0).hvComplete

/-- The units that have a lent array. -/
def State.bandLent (s : State) (k : Fin 16) : Bool := (bandCells k).any (fun c => (s.cell c).lent)

/-- Whether some product of a layer's matrix phase has an output tile for the band of unit k (R334, R335): tile (i, j) goes
to band (i + j) mod 16. -/
def Entry.tileFor (e : Entry) (k : Fin 16) : Bool :=
  let m := ceilDiv (Entry.rows e) 256
  let n := ceilDiv (Entry.cols e) 256
  match Entry.rule e with
  | 3 => k.val + 1 < m + n
  | 4 => k.val + 1 < 2 * max m n
  | _ => false

/-- Whether unit k has matrix work: a delivered layer of a matrix rule still has groups to update. -/
def State.matrixWork (s : State) (k : Fin 16) : Bool :=
  s.hv.delivered.any (fun d =>
    Entry.tileFor d.entry k && !s.layerSettled d && Entry.ok d.entry && !s.hv.carried)

/-- The unit that updates group j of a layer (R327): that of the band of the first master element's home slice. Where the
address does not translate now, unit 0 sees to it (log entry 133). -/
def State.groupHome (s : State) (e : Entry) (j : Nat) : Fin 16 :=
  match (s.translate { agent := .harvest 0, va := Entry.mst e 0 + 4096 * j }).2 with
  | .phys p => bandOf (homeSlice p.pa)
  | .own c _ => bandOf c
  | _ => 0

/-- Whether unit k has a group of a delivered layer still to update. -/
def State.unitBusy (s : State) (k : Fin 16) : Bool :=
  !s.hv.carried && s.hv.delivered.any (fun d => !s.layerSettled d &&
    (List.range (Entry.groups d.entry)).any (fun j => !s.hv.done.contains (d.layer, j) && s.groupHome d.entry j == k))

/-- HV_Uk_STATUS (R345): the starved bit is held, the rest computed. -/
def State.unitStatus (s : State) (k : Fin 16) : Nat :=
  let busy := s.unitBusy k
  b2n busy + 2 * b2n (busy && s.hv.decision == some .redo) + 4 * b2n (s.bandLent k)
    + (s.freg (FR.HV_U_STATUS k.val) &&& 8)

/-- HV_STATUS (R345): the sticky bits and the outcome are held, the rest computed. -/
def State.hvStatus (s : State) : Nat :=
  s.freg FR.HV_STATUS + s.hvState +
    2048 * b2n ((List.finRange 16).any (fun k => bitB (s.freg (FR.HV_U_STATUS k.val)) 3))

/-- Whether a layer counts as valid (R322): its entry says so, or cannot be read, which fails the layer. -/
def State.layerValid (s : State) (l : Nat) : HRes Bool :=
  if (s.deliveryOf l).isSome || s.layerFailed l then .ok s true
  else match s.readEntry l with
    | .ok s e => .ok s (Entry.valid e)
    | .wait s => .wait s
    | .fail s reason va => .ok (s.failLayer l reason va 0) true

/-- The valid layers from layer l on, of n. -/
def State.validFrom (l : Nat) : Nat → State → HRes (List Nat)
  | 0, s => .ok s []
  | n + 1, s => (s.layerValid l).bind (fun s v =>
      (State.validFrom (l + 1) n s).bind (fun s r => .ok s (if v then l :: r else r)))

/-- The valid layers of the step (R322). -/
def State.validLayers (s : State) : HRes (List Nat) := State.validFrom 0 s.layerCnt s

end Sys2Proof.Machine
end

