-- ==== Sys2Proof/Machine/Submit.lean ====
section
/-! DEFINITION. Deliveries of layers to the Harvest units and the requests of cells (R322 to R325, R342,
R343). -/

namespace Sys2Proof.Machine

/-- A NaN or an infinity. -/
def nonFinite (f : Fmt) (x : Nat) : Bool := (readOp f x).isNan || (readOp f x).isInf

/-- Consecutive elements of a number of bytes. -/
def elemsOf (es : Nat) : Nat → List Byte → List Nat
  | 0, _ => []
  | n + 1, bs => leNat (bs.take es) :: elemsOf es n (bs.drop es)

/-- The sums of squares of segments of 65,536 FP32 elements (R397). -/
def segmentSums : Nat → List Nat → List Nat
  | 0, _ => []
  | n + 1, l =>
    if l = [] then [] else (treeSum .fp64 ((l.take 65536).map squareF64)).val :: segmentSums n (l.drop 65536)

/-- sumsq of a status word from FP32 elements (R397). -/
def sumSqOf (l : List Nat) : Nat := (treeSum .fp64 (segmentSums (l.length / 65536 + 1) l)).val

/-- The status word of a locally delivered layer (R323, R324). -/
def localWord (l : Nat) (f : Fmt) (vs : List Nat) (poison : Bool) : StatusWord :=
  let nf := vs.any (nonFinite f)
  { nonfinite := nf, poison, layer := l, nfRank := if nf || poison then 0 else 0xFFFFFFFF
    count := vs.length, sumsq := sumSqOf (vs.map (fun v => (toF32 f v).1)) }

/-- The status word of a layer whose gradient cannot be translated (R324). -/
def untranslatable (l : Nat) : StatusWord := { poison := true, layer := l, nfRank := 0 }

/-- How a delivery ends. -/
inductive DelRes where
  | wait (s : State)
  | refused (s : State)
  | accepted (s : State)

/-- A refused delivery (R324). -/
def State.refuseDelivery (s : State) (l : Nat) : State :=
  ((s.orFreg FR.HV_STATUS 0x4000).count FR.HV_REFUSE_CNT).logEvent 0x0402 l 5 0 0 0

/-- Whether deliveries wait: the apply engine holds a partly applied version, or an import runs (R358,
R363), a reset still makes working copies again (R341), or a floor reset still owes the layers that are not delivered their
poison (R509). -/
def State.deliveriesWait (s : State) : Bool :=
  !s.rx.covered.isEmpty || !s.hv.remake.isEmpty || s.hv.poisonOwed || match s.rx.job with
    | some j => decide (j.desc.toNat % 256 = 2)
    | none => false

/-- The entry of a delivered layer with its parameter block (R322): the reason and address at which a read
failed. -/
def State.readLayer (s : State) (l : Nat) : HRes (Entry × Desc) :=
  (s.readEntry l).bind (fun s e =>
    if Entry.ok e then
      (s.hvRead 0 (Entry.cls e) (Entry.params e) 64).bind (fun s p => .ok s (e, BitVec.ofNat 512 (leNat p)))
    else .ok s (e, 0))

/-- Layer l accepted with its status word (R322, R324, R325): a count that differs from that of a known entry is
noted, and a layer whose entry is malformed, or for which something could not be read, fails. -/
def State.acceptLayer (s : State) (w : StatusWord) (nfLocal : Bool) (l : Nat) (entry : Option Entry) (p : Desc)
    (bad : Option (Nat × Nat)) : State :=
  let e : Entry := entry.getD 0
  let mismatch := entry.isSome && w.count != Entry.elems e
  let s := if mismatch then s.orFreg FR.HV_STATUS 0x2000 else s
  let d : Delivered := { layer := l, word := w, entry := e, params := p, mismatch, nfLocal }
  let s := State.fixSkip { s with hv := { s.hv with delivered := s.hv.delivered ++ [d] } }
  let s :=
    if entry.isSome && !Entry.ok e then (s.orFreg FR.HV_STATUS 0x1000).failLayer l 3 (s.entryVa l) 0
    else match bad with
      | some (reason, va) => s.failLayer l reason va 0
      | none => s
  s.hvComplete

/-- A delivery of layer l (R322, R324). `word` gives the status word, given the entry where it could be
read; it may have to wait, and may report that the gradient fails the layer. A layer that failed when it was counted stays
valid, whatever its entry reads as now. -/
def State.deliverLayer (s : State) (l : Nat) (nfLocal : Bool)
    (word : State → Option Entry → HRes (StatusWord × Option (Nat × Nat))) : DelRes :=
  if s.deliveriesWait then .wait s
  else if s.layerCnt ≤ l || (s.deliveryOf l).isSome || s.hv.carried then .refused (s.refuseDelivery l)
  else
    let go (s : State) (e : Option Entry) (p : Desc) (bad : Option (Nat × Nat)) : DelRes :=
      match word s e with
      | .ok s w => .accepted (s.acceptLayer w.1 nfLocal l e p (bad.or w.2))
      | .wait s => .wait s
      | .fail s reason va => .accepted (s.acceptLayer (untranslatable l) nfLocal l e p (bad.or (some (reason, va))))
    match s.readEntry l with
    | .wait s => .wait s
    | .fail s reason va => go s none 0 (some (reason, va))
    | .ok s e =>
      if !Entry.valid e && !s.layerFailed l then .refused (s.refuseDelivery l)
      else match s.readLayer l with
        | .wait s => .wait s
        | .fail s reason va => go s (some e) 0 (some (reason, va))
        | .ok s r => go s (some r.1) r.2 none

/-- The status word of a local delivery, formed from the gradient (R324). -/
def localStatus (l : Nat) (s : State) (e : Option Entry) : HRes (StatusWord × Option (Nat × Nat)) :=
  match e with
  | none => .ok s (untranslatable l, none)
  | some e =>
    if !Entry.gradOk e then .ok s (untranslatable l, none)
    else
      let f := Entry.gradFmt e
      match s.hvReadP 0 (Entry.cls e) (Entry.grad e) (Entry.elems e * f.esize) with
      | .wait s => .wait s
      | .fail s reason va => .ok s (untranslatable l, some (reason, va))
      | .ok s d => .ok s (localWord l f (elemsOf f.esize (Entry.elems e) (plain d)) (anyBad d), none)

/-- The oldest instruction of a cell waits on what the units wait for (R300): an access of theirs, or what holds up every
delivery. -/
def State.hvHold (s : State) : Eval :=
  .wait s (if s.deliveriesWait then none else s.hv.why.bind (Wait.counter true))

/-- The step record of a query (R342). -/
def State.stepRecord (s : State) : List Byte :=
  leBytes 8 (s.freg FR.HV_STEP) ++ leBytes 8 (s.freg FR.HV_COMMIT_CNT)
    ++ leBytes 4 (rne .fp32 (.fin false 1 s.lossExp)).1 ++ leBytes 4 s.hvStatus ++ leBytes 40 0

/-- HVSUB (R324, R342, R343): type 1 delivers a layer locally and completes when the layer's update has ended, and one for a
layer at or beyond HV_LAYER_CNT is refused and faults as malformed (log entry 217); type
2 writes the step record to an OC slot. -/
def evalHvsub (c : CellId) (e : InFlight) (s : State) : Eval :=
  let x := e.ins.x
  if !sOnly e.ins.f {} || !lOnly x { dsel := true } then .illegal s
  else
    let d := ((s.cell c).rdD x.dsel).toNat
    let kind := bits d 7 0
    let layer := bits d 21 12
    let slot := bits d 33 22
    let flt (cause detail : Nat) : Eval := .fault s { cause, detail, unit := .hv }
    if !bitB (s.freg FR.HV_CTRL) 0 then flt 0x71 0
    else if d / 2 ^ 34 ≠ 0 || bits d 11 8 ≠ 0 then flt 0x70 0
    else if kind = 1 then
      if slot ≠ 0 then flt 0x70 0
      else if s.layerCnt ≤ layer then .fault (s.refuseDelivery layer) { cause := 0x70, unit := .hv }
      else match s.deliverLayer layer false (localStatus layer) with
        | .wait s => s.hvHold
        | .refused s => .fault s { cause := 0x72, detail := layer, unit := .hv }
        | .accepted s =>
          let b : HvSub := { cell := c, layer, pen := x.pen, psem := x.psem }
          .done (State.hvComplete { s with hv := { s.hv with subs := s.hv.subs ++ [b] } }) none false
    else if kind = 2 then
      if layer ≠ 0 then flt 0x70 0
      else .done (s.modCell c (fun y => y.ocWrite (64 * slot) s.stepRecord))
    else flt 0x70 0

end Sys2Proof.Machine
end

