-- ==== Sys2Proof/Machine/System.lean ====
section
/-! DEFINITION. Semaphore, conveyor and system instructions (R196, R208, R209, R278 to R282, R308 to R312):
what each does when it is the oldest uncommitted one. -/

namespace Sys2Proof.Machine

/-! ### Semaphores (R196, R278 to R282) -/

/-- The semaphore and count of a semaphore instruction; none where a field is reserved (R196). -/
def semFields (f : SForm) : Option (BitVec 6 × Nat) :=
  let n := f.imm32.toNat
  if 64 ≤ f.func.toNat || n = 0 || 2 ^ 16 ≤ n then none else some (BitVec.ofNat 6 f.func.toNat, n)

/-- SEMPOST (R196). -/
def evalSempost (c : CellId) (e : InFlight) (s : State) : Eval :=
  let f := e.ins.f
  match semFields f with
  | some (k, n) => if sOnly f { imm := true, func := true } then .done (s.post c k n) else .illegal s
  | none => .illegal s

/-- SEMPOSTR (R196). -/
def evalSempostr (c : CellId) (e : InFlight) (s : State) : Eval :=
  let f := e.ins.f
  match semFields f with
  | some (k, n) =>
    if sOnly f { imm := true, func := true, ra := true } then
      .done (s.postFrom c (cellNo ((s.cell c).rdS f.ra).toNat) k n)
    else .illegal s
  | none => .illegal s

/-- SEMWAIT (R196, R280, R281): the marks are checked before the count; it joins the line where it is not
satisfied at once. -/
def evalSemwait (c : CellId) (e : InFlight) (s : State) : Eval :=
  let f := e.ins.f
  match semFields f with
  | none => .illegal s
  | some (k, n) =>
    if !sOnly f { imm := true, func := true } then .illegal s
    else if e.granted.isSome then .done s
    else
      let x := s.cell c
      let m := x.sem k
      if waitsSeq m.line then .wait s (some CR.SX_STALL_SEM_CNT)
      else match m.markFault k with
        | some flt => .fault s flt
        | none =>
          if m.line = [] && n ≤ m.count.toNat then
            .done (s.setCell c ((x.setSem k { m with count := m.count - BitVec.ofNat 16 n }).count
              CR.SEM_WAIT_CNT))
          else .wait (s.setCell c (x.setSem k { m with line := m.line ++ [.seq n] }))
            (some CR.SX_STALL_SEM_CNT)

/-! ### Conveyors (R196, R310, R312) -/

/-- Q_DISABLED, Q_NO_MARK and Q_POISON (R313). -/
def convFault (cause : Nat) (q : BitVec 4) : FaultInfo :=
  { cause, detail := q.toNat, unit := .q, cls := if cause = 0x65 then 3 else 5 }

/-- QPUSH (R196, R310): a poisoned slot makes a poisoned item (R254). -/
def evalQpush (c : CellId) (e : InFlight) (s : State) : Eval :=
  let x := e.ins.x
  if !sOnly e.ins.f {} || !lOnly x { a := true, q := true, ext := true } || 2 ≤ x.ext.toNat then
    .illegal s
  else
    let s := s.ocUpset c e.ins.u
    let y := s.cell c
    let v := y.conv x.q
    if !v.en then .fault s (convFault 0x63 x.q)
    else if s.convAccepts c x.q .push then
      let a := 64 * x.oc_a.toNat
      .done (s.convPush c x.q .push (withPoison y.ocPoison a (y.ocRead a 64)) (x.ext = 1))
    else .wait (s.convJoin c x.q .push) (some CR.SX_STALL_QFULL_CNT)

/-- QPOP (R196, R310, R312). -/
def evalQpop (c : CellId) (e : InFlight) (s : State) : Eval :=
  let f := e.ins.f
  let x := e.ins.x
  if !sOnly f { rd := true } || !lOnly x { a := true, q := true } then .illegal s
  else
    let y := s.cell c
    let v := y.conv x.q
    if !v.en then .fault s (convFault 0x63 x.q)
    else if v.empty || s.convStuck c x.q v.rd then .wait s (some CR.SX_STALL_DATA_CNT)
    else
      let s := (s.operandUpset c e.ins.u).spoilItem c x.q v.rd
      let v := (s.cell c).conv x.q
      let it := s.convItem c x.q v.rd
      if anyBad it.1 then .fault (s.countC c CR.Q_POISON_CNT) (convFault 0x65 x.q)
      else .done (s.modCell c (fun y =>
        let y := (y.setConv x.q { v with rd := v.rd + 1 }).count CR.Q_POP_CNT
        (y.ocWrite (64 * x.oc_a.toNat) (plain it.1)).wrS f.rd (if it.2 then 1 else 0)))

/-- A conveyor instruction without an item: k acts on the conveyor where it is enabled. -/
def convOp (c : CellId) (e : InFlight) (s : State) (rd : Bool) (k : Conveyor → Eval) : Eval :=
  let x := e.ins.x
  if !sOnly e.ins.f { rd := rd } || !lOnly x { q := true } then .illegal s
  else
    let v := (s.cell c).conv x.q
    if v.en then k v else .fault s (convFault 0x63 x.q)

/-- QCNT (R310). -/
def evalQcnt (c : CellId) (e : InFlight) (s : State) : Eval :=
  convOp c e s true (fun v => .done (s.modCell c (fun y => y.wrS e.ins.f.rd (BitVec.ofNat 64 v.pkts))))

/-- QMARK (R310). -/
def evalQmark (c : CellId) (e : InFlight) (s : State) : Eval :=
  convOp c e s false (fun v => .done (s.modCell c (fun y =>
    y.setConv e.ins.x.q { v with mark := v.rd, markValid := true })))

/-- QREWIND (R310, R312). -/
def evalQrewind (c : CellId) (e : InFlight) (s : State) : Eval :=
  convOp c e s false (fun v =>
    if v.markValid then
      .done (s.modCell c (fun y => (y.setConv e.ins.x.q { v with rd := v.mark }).count CR.Q_REWIND_CNT))
    else .fault s (convFault 0x64 e.ins.x.q))

/-- QREL (R310). -/
def evalQrel (c : CellId) (e : InFlight) (s : State) : Eval :=
  convOp c e s false (fun v => .done (s.modCell c (fun y => y.setConv e.ins.x.q v.release)))

/-! ### System instructions (R187, R208 to R210) -/

/-- A barrier instruction: it arrives once every earlier instruction has completed, and waits until the
barrier has completed (R209). -/
def evalArrive (c : CellId) (e : InFlight) (s : State) (k : Scope) : Eval :=
  if e.arrived.isSome then .wait s (some CR.SX_STALL_SEM_CNT)
  else
    let b := (s.barrier k).arrive c
    .wait ((s.setBarrier k b.1).modCell c (fun x => x.modHead (fun e => { e with arrived := some b.2 })))
      (some CR.SX_STALL_SEM_CNT)

/-- BAR (R208, R209). -/
def evalBar (c : CellId) (e : InFlight) (s : State) : Eval :=
  let f := e.ins.f
  if !sOnly f { func := true } || 2 ≤ f.func.toNat then .illegal s
  else if e.granted.isSome then .done s
  else evalArrive c e s (if f.func = 0 then .band (bandOf c) else .all)

/-- A Harvest cause (R343). -/
def hvFault (cause detail cls : Nat) : FaultInfo := { cause, detail, unit := .hv, cls }

/-- EQNX (R208, R340, R343): rd receives the outcome that the opening of the barrier has granted. -/
def evalEqnx (c : CellId) (e : InFlight) (s : State) : Eval :=
  let f := e.ins.f
  if !sOnly f { rd := true } then .illegal s
  else match e.granted with
    | some v => .done (s.modCell c (fun x => x.wrS f.rd v))
    | none =>
      if e.arrived.isNone && !bitB (s.freg FR.HV_CTRL) 0 then .fault s (hvFault 0x71 0 5)
      else evalArrive c e s .equinox

/-- PHASE (func 0) and PHASE.ANN (func 1) (R187, R208). -/
def evalPhase (c : CellId) (e : InFlight) (s : State) : Eval :=
  let f := e.ins.f
  if !sOnly f { imm := true, func := true } || 2 ≤ f.func.toNat || 2 ^ 16 ≤ f.imm32.toNat then .illegal s
  else
    let lo := if f.func = 0 then 0 else 16
    .done (s.modCell c (fun x => x.setReg CR.SQ_PHASE (putBits (x.reg CR.SQ_PHASE) (lo + 15) lo f.imm32.toNat)))

/-- The lowest failed slot of a cell with its transfer. -/
def Cell.firstFailed (x : Cell) : Option (Fin 6 × Transfer) :=
  (List.finRange 6).findSome? (fun n =>
    match x.slot n with
    | some t => if t.st = .failed then some (n, t) else none
    | none => none)

/-- Whether some slot of a cell is in use. -/
def Cell.streaming (x : Cell) : Bool := (List.finRange 6).any (fun n => (x.slot n).isSome)

/-- FENCE (func 0) and FENCE.E (func 1) (R208, R303, R304, R313). -/
def evalFence (c : CellId) (e : InFlight) (s : State) : Eval :=
  let f := e.ins.f
  let x := s.cell c
  if !sOnly f { func := true } || 2 ≤ f.func.toNat then .illegal s
  else if f.func = 0 then
    match x.firstFailed with
    | some (n, t) =>
      .fault s { cause := 0x61, detail := 0x100 + n.val, unit := .sx, cls := haltClass t.reason }
    | none => if x.streaming then .wait s else .done s
  else .done s

/-- ISYNC: prefetched instructions are discarded (R156). The model prefetches none. -/
def evalIsync (_c : CellId) (e : InFlight) (s : State) : Eval :=
  if !sOnly e.ins.f {} then .illegal s else .done s

/-- YIELD: a yield point until its cycles have run out (R185, R208, R210). -/
def evalYield (_c : CellId) (e : InFlight) (s : State) : Eval :=
  let n := e.ins.f.imm32.toNat
  if !sOnly e.ins.f { imm := true } || n = 0 || 2 ^ 16 ≤ n then .illegal s
  else if e.granted.isSome then .done s
  else .wait s

end Sys2Proof.Machine
end

