-- ==== Sys2Proof/Machine/Vector.lean ====
section
/-! DEFINITION. The vector engine, the function unit, the reduction unit and softmax: operands, regions
and instructions (R122 to R150, R203 to R207). The arithmetic is in Num, Fu and Vec. -/

namespace Sys2Proof.Machine

/-! ### Operands -/

/-- VX_OPERAND (R147), with the OC slot that breaks a rule. -/
def vxOperand (slot : Nat) : FaultInfo := { cause := 0x50, detail := slot, unit := .vx }

/-- VX_POISON (R120, R147). -/
def vxPoison (slot : Nat) : FaultInfo := { cause := 0x51, detail := slot, unit := .vx, cls := 3 }

/-- A region of OC that an instruction reads or writes: first byte, bytes, elements and element size
(R122). -/
structure OcRegion where
  off : Nat
  bytes : Nat
  elems : Nat
  esize : Nat
  deriving DecidableEq, Repr

/-- Whether two regions share a byte. -/
def OcRegion.meets (a b : OcRegion) : Bool := a.off < b.off + b.bytes && b.off < a.off + a.bytes

/-- The first slot of a destination that overlaps a source without matching it exactly (R122). The bytes between the rows of
a region belong to it (log entry 208). -/
def badOverlap (dests srcs : List OcRegion) : Option Nat :=
  (dests.find? (fun d => srcs.any (fun s => d.meets s && d != s))).map (·.off / 64)

/-- The format codes of vector instructions (R203); code 3 is FP64 in a rule program (R333). -/
def vfmt (wide : Bool) (n : Nat) : Option Fmt :=
  match n with
  | 0 => some .fp32 | 1 => some .bf16 | 2 => some .fp16 | 3 => if wide then some .fp64 else none | _ => none

/-- The elements of a row in OC. -/
def Cell.ocElems (x : Cell) (off n es : Nat) : List Nat :=
  (List.range n).map (fun j => leNat (x.ocRead (off + j * es) es))

/-- The bytes from one row to the next of a row source or of a per-element destination (R204). -/
def rowStride (n es : Nat) : Nat := 256 * ceilDiv (n * es) 256

/-- The bytes that R rows of n elements span. -/
def rowsSpan (rows n es : Nat) : Nat := (rows - 1) * rowStride n es + n * es

/-- A source as read: the rows of elements, and its region where it lies in OC. -/
structure VSrc where
  rows : List (List Nat)
  reg : List OcRegion

/-- R rows of n elements of an OC vector (R122, R204). -/
def Cell.ocSource (x : Cell) (slot : Nat) (f : Fmt) (rows n : Nat) : Except FaultInfo VSrc :=
  let off := 64 * slot
  let es := f.esize
  let span := rowsSpan rows n es
  if slot % 4 ≠ 0 || 0x40000 < off + span then .error (vxOperand slot)
  else if (List.range rows).any (fun r => x.ocBad (off + r * rowStride n es) (n * es)) then
    .error (vxPoison slot)
  else .ok { rows := (List.range rows).map (fun r => x.ocElems (off + r * rowStride n es) n es),
             reg := [⟨off, span, n, es⟩] }

/-- R rows of n flat elements of an accumulator span (R122, R203, R204). -/
def Cell.accSource (x : Cell) (acc rows n : Nat) : Except FaultInfo VSrc :=
  if 8 < acc + ceilDiv (rows * n) 4096 then .error (vxOperand 0)
  else .ok { rows := (List.range rows).map (fun r =>
               (List.range n).map (fun j => (x.accGet acc (r * n + j)).toNat)),
             reg := [] }

/-- A source by its kind (R122, R203): an OC vector, an accumulator span, or a scalar broadcast, of which the low
bits of the format's width are read: 32 or 16 bits as R122 says, and the low 8 bits for an E4M3 or E5M2 source of
VCVT, where the spec is silent (log entry 181). -/
def Cell.vsource (x : Cell) (kind slot : Nat) (acc : BitVec 3) (reg : BitVec 5) (f : Fmt)
    (rows n : Nat) : Except FaultInfo VSrc :=
  match kind with
  | 0 => x.ocSource slot f rows n
  | 1 => x.accSource acc.toNat rows n
  | _ =>
    let v := (x.rdS reg).toNat % 2 ^ f.width
    .ok { rows := List.replicate rows (List.replicate n v), reg := [] }

/-- The n bits of a bit mask from a slot (R124, R136). -/
def Cell.bitMask (x : Cell) (slot n : Nat) : Except FaultInfo (List Bool × OcRegion) :=
  let nb := ceilDiv n 8
  if 0x40000 < 64 * slot + nb then .error (vxOperand slot)
  else if x.ocBad (64 * slot) nb then .error (vxPoison slot)
  else
    let m := leNat (x.ocRead (64 * slot) nb)
    .ok ((List.range n).map (bitB m), ⟨64 * slot, nb, n, 0⟩)

/-- A destination region from a slot (R122). -/
def ocDest (slot bytes elems es : Nat) : Except FaultInfo OcRegion :=
  if slot % 4 ≠ 0 || 0x40000 < 64 * slot + bytes then .error (vxOperand slot)
  else .ok ⟨64 * slot, bytes, elems, es⟩

/-- A byte that two writes of one instruction both write receives an undefined value: no rule orders them (R137,
R141, log entry 6). A byte that one write alone makes keeps what it wrote, also where it lies between the rows of
another destination. -/
def State.clashBytes (s : State) (c : CellId) : List (Nat × List Byte) → State
  | [] => s
  | d :: ds =>
    State.clashBytes (ds.foldl (fun s e =>
      let lo := max d.1 e.1
      let hi := min (d.1 + d.2.length) (e.1 + e.2.length)
      if lo < hi then (s.modCell c (fun x => x.ocWrite lo (undefBytesOc s.free (hi - lo)))).draw else s) s) c ds
where
  /-- n undefined bytes. -/
  undefBytesOc (draw n : Nat) : List Byte := (List.range n).map (Config.undefByte draw)

/-- What a vector instruction leaves when it completes: its writes to OC, its destination regions, its
numeric events, and the counters it adds to. -/
structure VDone where
  writes : List (Nat × List Byte)
  dests : List OcRegion
  ev : NumEvent := {}
  counts : List (Nat × Nat) := []
  /-- Counters whose increments the spec leaves open (log entry 3). -/
  openCnt : List Nat := []
  facc : Option (Nat × Nat) := none

/-- The completion of a vector instruction: the checks of R122 on its regions are done, its events are
trapped or noted (R75, R145), and its results land. In a rule program a destination beyond the scratch of
64 KiB is an error (R333). -/
def finishVx (s : State) (c : CellId) (e : InFlight) (srcs : List OcRegion) (d : VDone) : Eval :=
  match (if e.ins.wide then (d.dests.find? (fun r => 0x10000 < r.off + r.bytes)).map (·.off / 64)
      else none).or (badOverlap d.dests srcs) with
  | some slot => .fault s (vxOperand slot)
  | none => numeric s c e .vx d.ev (fun s =>
    let s := s.modCell c (fun x =>
      let x := d.writes.foldl (fun x w => x.ocWrite w.1 w.2) x
      let x := d.counts.foldl (fun x k => x.count k.1 k.2) x
      match d.facc with
      | some (i, v) => x.setReg (CR.RU_FACC i) v
      | none => x)
    let s := s.clashBytes c d.writes
    .done (d.openCnt.foldl (fun s o => (s.countC c o (Config.busyCycles s.free)).draw)
      (s.stall c CR.OC_PORT_WAIT_CNT)))

/-- The result of an operation that may fault before it writes anything (R147). -/
def orFault (s : State) (r : Except FaultInfo α) (k : α → Eval) : Eval :=
  match r with
  | .error f => .fault s f
  | .ok v => k v

/-! ### Element-wise and function instructions (R123 to R130, R205) -/

/-- What an element-wise instruction needs: which operands it reads and their formats, the format and
function of its result, the flags' cause, and its cycles and counter. -/
structure Elementwise where
  useB : Bool := false
  useC : Bool := false
  fa : Fmt
  fb : Fmt
  fc : Fmt
  fd : Fmt
  fn : Nat → Nat → Nat → Nat × Flags
  cause : Nat := 2
  rate : Nat
  counter : Nat := CR.VX_BUSY_CNT

/-- Whether the encoding of an operand is legal: kind 0 with a slot, or, where it is allowed, kind 1 or 2
without one; an operand not used has kind 0 and slot 0 (R203). -/
def kindOk (used : Bool) (kind : Nat) (slot : BitVec 12) (allow1 : Bool) : Bool :=
  if !used then kind = 0 && slot = 0
  else if kind = 0 then true
  else slot = 0 && (kind = 2 || (kind = 1 && allow1))

/-- Whether the fields common to element-wise instructions are legal (R188, R203). -/
def ewOk (f : SForm) (x : LForm) (func useB useC maskC : Bool) (fa : Fmt) : Bool :=
  let ext := x.ext.toNat
  let ka := bits ext 1 0
  let kb := bits ext 3 2
  let kc := bits ext 5 4
  sOnly f { imm := true, func := func, ra := ka = 2, rb := kb = 2, rd := kc = 2 } &&
    lOnly x { a := true, b := true, c := true, acc := ka = 1, ext := true } &&
    bits ext 7 6 = 0 && bits f.imm32.toNat 31 28 = 0 &&
    kindOk true ka x.oc_a (fa = .fp32) && kindOk useB kb x.oc_b false &&
    (if maskC then kc = 0 else kindOk useC kc x.oc_c false)

/-- The elements a, b, c of each index, an unused operand as 0. -/
def zipOps (a b c : List Nat) (n : Nat) : List (Nat × Nat × Nat) :=
  (List.range n).map (fun j => (a.getD j 0, b.getD j 0, c.getD j 0))

/-- The results and events of an element-wise instruction (R67, R145). -/
def ewCompute (w : Elementwise) : List (Nat × Nat × Nat) → Nat → List Nat × NumEvent
  | [], _ => ([], {})
  | (a, b, c) :: rest, j =>
    let r := w.fn a b c
    let t := ewCompute w rest (j + 1)
    (r.1 :: t.1,
      { counts := t.2.counts.add r.2,
        loc := NvLoc.first (if r.2.nv then some { cause := w.cause, n := j } else none) t.2.loc })

/-- An element-wise or function instruction on its operands (R123, R205). Where several faults are met, the first in
the order a, b, c, destination is reported, and an overlap last (log entry 184). -/
def runEw (s : State) (c : CellId) (e : InFlight) (w : Elementwise) : Eval :=
  let f := e.ins.f
  let x := e.ins.x
  let s := s.ocUpset c e.ins.u
  let y := s.cell c
  let n := bits f.imm32.toNat 27 12 + 1
  let dst := bits f.imm32.toNat 11 0
  let ext := x.ext.toNat
  let none' : VSrc := { rows := [], reg := [] }
  orFault s (do
    let a ← y.vsource (bits ext 1 0) x.oc_a.toNat x.acc f.ra w.fa 1 n
    let b ← if w.useB then y.vsource (bits ext 3 2) x.oc_b.toNat 0 f.rb w.fb 1 n else .ok none'
    let k ← if w.useC then y.vsource (bits ext 5 4) x.oc_c.toNat 0 f.rd w.fc 1 n else .ok none'
    let d ← ocDest dst (n * w.fd.esize) n w.fd.esize
    .ok (a, b, k, d)) (fun v =>
    let a := v.1
    let b := v.2.1
    let k := v.2.2.1
    let d := v.2.2.2
    let r := ewCompute w (zipOps (a.rows.headD []) (b.rows.headD []) (k.rows.headD []) n) 0
    finishVx s c e (a.reg ++ b.reg ++ k.reg)
      { writes := [(d.off, r.1.flatMap (leBytes w.fd.esize))], dests := [d], ev := r.2
        counts := [(w.counter, ceilDiv n w.rate)] })

/-- The rate of R123. -/
def vxRate (f : Fmt) : Nat := if f = .fp32 then 64 else 128

/-- An element-wise instruction in one format with func 0. -/
def evalEw (useB useC : Bool) (fn : Fmt → Nat → Nat → Nat → Nat × Flags) (c : CellId) (e : InFlight)
    (s : State) : Eval :=
  match vfmt e.ins.wide (bits e.ins.x.ext.toNat 9 8) with
  | none => .illegal s
  | some f =>
    if !ewOk e.ins.f e.ins.x false useB useC false f then .illegal s
    else runEw s c e { useB, useC, fa := f, fb := f, fc := f, fd := f, fn := fn f, rate := vxRate f }

/-- VADD (R124, R205). -/
def evalVadd : CellId → InFlight → State → Eval := evalEw true false (fun f a b _ => fAdd f a b)
/-- VSUB (R124, R205). -/
def evalVsub : CellId → InFlight → State → Eval := evalEw true false (fun f a b _ => fSub f a b)
/-- VMUL (R124, R205). -/
def evalVmul : CellId → InFlight → State → Eval := evalEw true false (fun f a b _ => fMul f a b)
/-- VFMA (R124, R205). -/
def evalVfma : CellId → InFlight → State → Eval := evalEw true true (fun f a b c => fFma f a b c)
/-- VMIN (R124, R205). -/
def evalVmin : CellId → InFlight → State → Eval :=
  evalEw true false (fun f a b _ => (fMinMax f false a b, .none))
/-- VMAX (R124, R205). -/
def evalVmax : CellId → InFlight → State → Eval :=
  evalEw true false (fun f a b _ => (fMinMax f true a b, .none))
/-- VMOV (R124, R205). -/
def evalVmov : CellId → InFlight → State → Eval := evalEw false false (fun f a _ _ => (fCopy f a, .none))
/-- VABS (R124, R205). -/
def evalVabs : CellId → InFlight → State → Eval := evalEw false false (fun f a _ _ => (fAbs f a, .none))
/-- VNEG (R124, R205). -/
def evalVneg : CellId → InFlight → State → Eval := evalEw false false (fun f a _ _ => (fNeg f a, .none))

/-- VFMAW: short a and b, FP32 c and result (R123, R124, R205). -/
def evalVfmaw (c : CellId) (e : InFlight) (s : State) : Eval :=
  match vfmt e.ins.wide (bits e.ins.x.ext.toNat 9 8) with
  | none => .illegal s
  | some f =>
    if f = .fp32 || f = .fp64 || !ewOk e.ins.f e.ins.x false true true false f then .illegal s
    else runEw s c e { useB := true, useC := true, fa := f, fb := f, fc := .fp32, fd := .fp32
                       fn := fFmaw f, rate := 64 }

/-- VCMP: a bit mask with bit j for element j (R124, R205). Bits beyond L are not written (R123). -/
def evalVcmp (c : CellId) (e : InFlight) (s : State) : Eval :=
  let f := e.ins.f
  let x := e.ins.x
  match vfmt e.ins.wide (bits x.ext.toNat 9 8) with
  | none => .illegal s
  | some fm =>
    if !ewOk f x true true false false fm || 7 ≤ f.func.toNat then .illegal s
    else
      let s := s.ocUpset c e.ins.u
      let y := s.cell c
      let n := bits f.imm32.toNat 27 12 + 1
      let nb := ceilDiv n 8
      let ext := x.ext.toNat
      orFault s (do
        let a ← y.vsource (bits ext 1 0) x.oc_a.toNat x.acc f.ra fm 1 n
        let b ← y.vsource (bits ext 3 2) x.oc_b.toNat 0 f.rb fm 1 n
        let d ← ocDest (bits f.imm32.toNat 11 0) nb n 0
        .ok (a, b, d)) (fun v =>
        let d := v.2.2
        let old := leNat (y.ocRead d.off nb)
        let m := (List.range n).foldl (fun m j =>
          let t := fCmp fm f.func.toNat ((v.1.rows.headD []).getD j 0) ((v.2.1.rows.headD []).getD j 0)
          m + b2n t * 2 ^ j) (old / 2 ^ n * 2 ^ n)
        finishVx s c e (v.1.reg ++ v.2.1.reg)
          { writes := [(d.off, leBytes nb m)], dests := [d]
            counts := [(CR.VX_BUSY_CNT, ceilDiv n (vxRate fm))] })

/-- VSEL: mask bit j selects a[j] or b[j] (R124, R205). -/
def evalVsel (c : CellId) (e : InFlight) (s : State) : Eval :=
  let f := e.ins.f
  let x := e.ins.x
  match vfmt e.ins.wide (bits x.ext.toNat 9 8) with
  | none => .illegal s
  | some fm =>
    if !ewOk f x false true true true fm then .illegal s
    else
      let s := s.ocUpset c e.ins.u
      let y := s.cell c
      let n := bits f.imm32.toNat 27 12 + 1
      let ext := x.ext.toNat
      orFault s (do
        let a ← y.vsource (bits ext 1 0) x.oc_a.toNat x.acc f.ra fm 1 n
        let b ← y.vsource (bits ext 3 2) x.oc_b.toNat 0 f.rb fm 1 n
        let m ← if x.oc_c.toNat % 4 ≠ 0 then .error (vxOperand x.oc_c.toNat) else y.bitMask x.oc_c.toNat n
        let d ← ocDest (bits f.imm32.toNat 11 0) (n * fm.esize) n fm.esize
        .ok (a, b, m, d)) (fun v =>
        let d := v.2.2.2
        let r := (List.range n).map (fun j =>
          fCopy fm (if v.2.2.1.1.getD j false then (v.1.rows.headD []).getD j 0
            else (v.2.1.rows.headD []).getD j 0))
        finishVx s c e (v.1.reg ++ v.2.1.reg ++ [v.2.2.1.2])
          { writes := [(d.off, r.flatMap (leBytes fm.esize))], dests := [d]
            counts := [(CR.VX_BUSY_CNT, ceilDiv n (vxRate fm))] })

/-- VCVT (R52 to R54, R124, R205). -/
def evalVcvt (c : CellId) (e : InFlight) (s : State) : Eval :=
  let f := e.ins.f
  let x := e.ins.x
  let func := f.func.toNat
  let decFmt : Nat → Option Fmt := fun n =>
    match n with
    | 0 => some .fp32 | 1 => some .bf16 | 2 => some .fp16 | 3 => some .e4m3 | 4 => some .e5m2
    | 5 => if e.ins.wide then some .fp64 else none | _ => none
  match decFmt (bits func 6 4), decFmt (bits func 2 0) with
  | some fa, some fd =>
    if !ewOk f x true false false false fa || bits x.ext.toNat 9 8 ≠ 0 || fa = fd ||
        (bitB func 3 && !fd.fp8) then .illegal s
    else
      let mode := if !fd.fp8 || bitB func 3 then OvfMode.ieee else .sat
      runEw s c e { fa, fb := fa, fc := fa, fd, fn := fun a _ _ => fConvert fa fd mode a, cause := 4
                    rate := if fa = .fp32 || fd = .fp32 then 64 else 128 }
  | _, _ => .illegal s

/-- A function instruction (R125, R205). -/
def evalFu (fn : FuFn) (c : CellId) (e : InFlight) (s : State) : Eval :=
  match vfmt e.ins.wide (bits e.ins.x.ext.toNat 9 8) with
  | none => .illegal s
  | some f =>
    if !ewOk e.ins.f e.ins.x false false false false f then .illegal s
    else runEw s c e { fa := f, fb := f, fc := f, fd := f, fn := fun a _ _ => fuElem fn f a, cause := 3
                       rate := 32, counter := CR.FU_BUSY_CNT }

/-- FEXP2 (R126, R205). -/
def evalFexp2 : CellId → InFlight → State → Eval := evalFu .exp2
/-- FLOG2 (R127, R205). -/
def evalFlog2 : CellId → InFlight → State → Eval := evalFu .log2
/-- FRCP (R128, R205). -/
def evalFrcp : CellId → InFlight → State → Eval := evalFu .recip
/-- FRSQ (R128, R205). -/
def evalFrsq : CellId → InFlight → State → Eval := evalFu .rsqrt

/-! ### Reductions (R131 to R134, R206) -/

/-- The rows of a reduction, one by one: result bytes, events, and the accumulator with each row's result
added where acc_en says so (R134). -/
def redRows (fn : RedFn) (f : Fmt) (base n : Nat) (accEn : Bool) :
    List (List Nat) → Nat → Nat → List Byte × NumEvent × Nat
  | [], _, facc => ([], {}, facc)
  | row :: rows, r, facc =>
    let t := reduceRow fn f base row
    let a := if accEn then fAdd .fp64 facc t.val else (facc, .none)
    let fl := t.flags.or a.2
    let at' := match t.nvAt with
      | some j => some j
      | none => if a.2.nv then some n else none
    let rest := redRows fn f base n accEn rows (r + 1) a.1
    (leBytes fn.size t.val ++ rest.1,
      { counts := rest.2.1.counts.add fl
        loc := NvLoc.first (if fl.nv then some { cause := 2, m := r, n := at'.getD 0 } else none)
          rest.2.1.loc },
      rest.2.2)

/-- A reduction (R131 to R134, R206). -/
def evalRed (fn : RedFn) (c : CellId) (e : InFlight) (s : State) : Eval :=
  let f := e.ins.f
  let x := e.ins.x
  let imm := f.imm32.toNat
  let ext := x.ext.toNat
  let kind := bits ext 1 0
  match vfmt e.ins.wide (bits ext 9 8) with
  | none => .illegal s
  | some fm =>
    if !sOnly f { imm := true, rb := fn = .amax } ||
        !lOnly x { a := true, c := true, acc := kind = 1, ext := true } ||
        bits ext 7 2 ≠ 0 || 2 ≤ kind || !kindOk true kind x.oc_a (fm = .fp32) || bits imm 31 27 ≠ 0 ||
        (bitB imm 26 && fn ≠ .ssq) || (bits imm 25 24 ≠ 0 && fn ≠ .ssq) then .illegal s
    else
      let s := s.ocUpset c e.ins.u
      let y := s.cell c
      let n := bits imm 15 0 + 1
      let rows := bits imm 23 16 + 1
      let i := bits imm 25 24
      orFault s (do
        let a ← y.vsource kind x.oc_a.toNat x.acc 0 fm rows n
        let d ← ocDest x.oc_c.toNat (rows * fn.size) rows fn.size
        .ok (a, d)) (fun v =>
        let r := redRows fn fm ((y.rdS f.rb).toNat % 2 ^ 32) n (bitB imm 26) v.1.rows 0 (y.reg (CR.RU_FACC i))
        finishVx s c e v.1.reg
          { writes := [(v.2.off, r.1)], dests := [v.2], ev := r.2.1
            counts := [(CR.RU_BUSY_CNT, rows * ceilDiv n (vxRate fm))]
            facc := if bitB imm 26 then some (i, r.2.2) else none })

/-- RSUM (R131, R206). -/
def evalRsum : CellId → InFlight → State → Eval := evalRed .sum
/-- RSUMD (R131, R206). -/
def evalRsumd : CellId → InFlight → State → Eval := evalRed .sumd
/-- RSSQ (R131, R134, R206). -/
def evalRssq : CellId → InFlight → State → Eval := evalRed .ssq
/-- RMAX (R133, R206). -/
def evalRmax : CellId → InFlight → State → Eval := evalRed .max
/-- RMIN (R133, R206). -/
def evalRmin : CellId → InFlight → State → Eval := evalRed .min
/-- RAMAX (R133, R206). -/
def evalRamax : CellId → InFlight → State → Eval := evalRed .amax

/-- Whether imm32 holds only the facc field (R206). -/
def faccOnly (imm : Nat) : Bool := imm / 2 ^ 26 = 0 && imm % 2 ^ 24 = 0

/-- RFSTORE (R134, R206): func 0 to a slot, func 1 to a register. Func 0 takes any slot (log entry 182), and its write
may wait for an OC port (R149). -/
def evalRfstore (c : CellId) (e : InFlight) (s : State) : Eval :=
  let f := e.ins.f
  let x := e.ins.x
  let imm := f.imm32.toNat
  let v := (s.cell c).reg (CR.RU_FACC (bits imm 25 24))
  if !faccOnly imm then .illegal s
  else match f.func.toNat with
    | 0 =>
      if !sOnly f { imm := true } || !lOnly x { c := true } then .illegal s
      else .done ((s.modCell c (fun y => y.ocWrite (64 * x.oc_c.toNat) (leBytes 8 v))).stall c CR.OC_PORT_WAIT_CNT)
    | 1 =>
      if !sOnly f { imm := true, func := true, rd := true } || !lOnly x {} then .illegal s
      else .done (s.modCell c (fun y => y.wrS f.rd (BitVec.ofNat 64 v)))
    | _ => .illegal s

/-- RFCLR (R134, R206). -/
def evalRfclr (c : CellId) (e : InFlight) (s : State) : Eval :=
  let imm := e.ins.f.imm32.toNat
  if !sOnly e.ins.f { imm := true } || !lOnly e.ins.x {} || !faccOnly imm then .illegal s
  else .done (s.modCell c (fun y => y.setReg (CR.RU_FACC (bits imm 25 24)) 0))

/-! ### Softmax (R135 to R143, R207) -/

/-- The control word of VSMAX and VSMON (R135). -/
structure SmCtl where
  qpos : Nat
  k0 : Nat
  bitMask : Bool
  causal : Bool
  fout : Fmt
  fin : Fmt

/-- The control word read (R135, R136, R207): none where a value is reserved, a limit is exceeded, or a mask
base is given without a bit mask. -/
def smCtl (w kind rows n mask : Nat) (vsmax : Bool) : Option SmCtl :=
  match vfmt false (bits w 17 16), vfmt false (bits w 15 14) with
  | some fout, some fin =>
    let k := { qpos := bits w 63 42, k0 := bits w 41 20, bitMask := bitB w 18, causal := bitB w 19, fout, fin }
    if bits w 13 0 ≠ 0 || (kind ≠ 0 && fin ≠ .fp32) || (!k.bitMask && mask ≠ 0) ||
        2 ^ 22 < k.k0 + n || 2 ^ 22 ≤ k.qpos + rows - 1 || (vsmax && 16384 < n) then none
    else some k
  | _, _ => none

/-- The active elements of row r (R136), with the region of its mask. The mask base may be any slot (log entry
183). -/
def Cell.smActive (x : Cell) (k : SmCtl) (mask n r : Nat) : Except FaultInfo (List Bool × List OcRegion) :=
  let causal j := !(k.causal && k.qpos + r < k.k0 + j)
  if k.bitMask then do
    let m ← x.bitMask (mask + r * ceilDiv n 512) n
    .ok ((List.range n).map (fun j => m.1.getD j false && causal j), [m.2])
  else .ok ((List.range n).map causal, [])

/-- One value per row of a list of rows, or the first fault. -/
def rowsM (f : Nat → α → Except FaultInfo β) : Nat → List α → Except FaultInfo (List β)
  | _, [] => .ok []
  | r, a :: as => do
    let b ← f r a
    let bs ← rowsM f (r + 1) as
    .ok (b :: bs)

/-- The events of softmax rows, from row r on: flags and the first NaN, at position k0 + j (R139, R146). -/
def smEvents (k0 : Nat) : Nat → List (Flags × Option Nat) → NumEvent
  | _, [] => {}
  | r, (fl, nv) :: rest =>
    let t := smEvents k0 (r + 1) rest
    { counts := t.counts.add fl
      loc := NvLoc.first (nv.map (fun j => { cause := 1, m := r, n := k0 + j })) t.loc }

/-- The writes of one row's elements each at its row of a destination (R204). -/
def rowWrites (off stride es : Nat) : Nat → List (List Nat) → List (Nat × List Byte)
  | _, [] => []
  | r, row :: rows => (off + r * stride, row.flatMap (leBytes es)) :: rowWrites off stride es (r + 1) rows

/-- Whether the encoding of VSMAX or VSMON is legal (R207). -/
def smOk (f : SForm) (x : LForm) : Bool :=
  let kind := bits x.ext.toNat 9 8
  sOnly f { imm := true, ra := true, rb := true } &&
    lOnly x { a := true, b := true, c := true, acc := kind = 1, ext := true } &&
    bits f.imm32.toNat 31 28 = 0 && kind < 2 && kindOk true kind x.oc_a true

/-- The records of n rows from a slot; a record with a non-zero reserved field is an operand error. -/
def Cell.smRecords (x : Cell) (slot rows : Nat) : Except FaultInfo (List SmState) :=
  if x.ocBad (64 * slot) (16 * rows) then .error (vxPoison slot)
  else rowsM (fun _ r =>
    match SmState.ofNat (leNat (x.ocRead (64 * slot + 16 * r) 16)) with
    | some st => .ok st
    | none => .error (vxOperand slot)) 0 (List.range rows)

/-- The operands common to VSMAX and VSMON. -/
structure SmOps where
  k : SmCtl
  src : VSrc
  act : List (List Bool × List OcRegion)
  out : OcRegion

/-- The operands of VSMAX and VSMON read (R135, R136, R204, R207). -/
def Cell.smOperands (y : Cell) (f : SForm) (x : LForm) (vsmax : Bool) : Except FaultInfo SmOps :=
  let imm := f.imm32.toNat
  let kind := bits x.ext.toNat 9 8
  let rows := bits x.ext.toNat 7 0 + 1
  let n := bits imm 27 12 + 1
  match smCtl (y.rdS f.ra).toNat kind rows n x.oc_b.toNat vsmax with
  | none => .error (vxOperand x.oc_b.toNat)
  | some k => do
    let src ← y.vsource kind x.oc_a.toNat x.acc 0 k.fin rows n
    let act ← rowsM (fun r _ => y.smActive k x.oc_b.toNat n r) 0 (List.range rows)
    let out ← ocDest (bits imm 11 0) (rowsSpan rows n k.fout.esize) n k.fout.esize
    .ok { k, src, act, out }

/-- The counters of softmax: the cycles in which each unit works are not stated (log entry 3). -/
def smOpen : List Nat := [CR.VX_BUSY_CNT, CR.FU_BUSY_CNT, CR.RU_BUSY_CNT]

/-- VSMAX (R136 to R139, R207). -/
def evalVsmax (c : CellId) (e : InFlight) (s : State) : Eval :=
  let f := e.ins.f
  let x := e.ins.x
  if !smOk f x then .illegal s
  else
    let s := s.ocUpset c e.ins.u
    let y := s.cell c
    let rows := bits x.ext.toNat 7 0 + 1
    let n := bits f.imm32.toNat 27 12 + 1
    let sc := (y.rdS f.rb).toNat % 2 ^ 32
    orFault s (do
      let o ← y.smOperands f x true
      let l ← ocDest x.oc_c.toNat (4 * rows) rows 4
      .ok (o, l)) (fun v =>
      let o := v.1
      let rs := (o.src.rows.zip (o.act.map (·.1))).map (fun p => vsmaxRow sc o.k.fin o.k.fout p.1 p.2)
      finishVx s c e (o.src.reg ++ o.act.flatMap (·.2))
        { writes := rowWrites o.out.off (rowStride n o.k.fout.esize) o.k.fout.esize 0 (rs.map (·.out)) ++
            [(v.2.off, rs.flatMap (fun r => leBytes 4 r.lse))]
          dests := [o.out, v.2]
          ev := smEvents o.k.k0 0 (rs.map (fun r => (r.flags, r.nvAt)))
          counts := [(CR.VX_SMAX_ROW_CNT, rows)], openCnt := smOpen })

/-- VSMON (R140, R141, R207). -/
def evalVsmon (c : CellId) (e : InFlight) (s : State) : Eval :=
  let f := e.ins.f
  let x := e.ins.x
  if !smOk f x then .illegal s
  else
    let s := s.ocUpset c e.ins.u
    let y := s.cell c
    let rows := bits x.ext.toNat 7 0 + 1
    let n := bits f.imm32.toNat 27 12 + 1
    let sc := (y.rdS f.rb).toNat % 2 ^ 32
    orFault s (do
      let o ← y.smOperands f x false
      let st ← ocDest x.oc_c.toNat (16 * rows) rows 16
      let al ← ocDest (x.oc_c.toNat + 4 * ceilDiv rows 16) (4 * rows) rows 4
      let recs ← y.smRecords x.oc_c.toNat rows
      let rs ← rowsM (fun _ (p : List Nat × List Bool × SmState) =>
        match vsmonRow sc o.k.fin o.k.fout p.1 p.2.1 p.2.2 with
        | some r => .ok r
        | none => .error (vxOperand x.oc_c.toNat)) 0 (o.src.rows.zip ((o.act.map (·.1)).zip recs))
      .ok (o, st, al, rs)) (fun v =>
      let o := v.1
      let rs := v.2.2.2
      finishVx s c e (o.src.reg ++ o.act.flatMap (·.2) ++ [v.2.1])
        { writes := rowWrites o.out.off (rowStride n o.k.fout.esize) o.k.fout.esize 0 (rs.map (·.p)) ++
            [(v.2.1.off, rs.flatMap (fun r => leBytes 16 r.st.toNat)),
             (v.2.2.1.off, rs.flatMap (fun r => leBytes 4 r.alpha))]
          dests := [o.out, v.2.1, v.2.2.1]
          ev := smEvents o.k.k0 0 (rs.map (fun r => (r.flags, r.nvAt)))
          counts := [(CR.VX_SMAX_ROW_CNT, rows)], openCnt := smOpen })

/-- VSMFIN (R142, R207). -/
def evalVsmfin (c : CellId) (e : InFlight) (s : State) : Eval :=
  let f := e.ins.f
  let x := e.ins.x
  if !sOnly f { imm := true } || !lOnly x { a := true, c := true, ext := true } ||
      2 ^ 12 ≤ f.imm32.toNat || bits x.ext.toNat 9 8 ≠ 0 then .illegal s
  else
    let s := s.ocUpset c e.ins.u
    let y := s.cell c
    let rows := bits x.ext.toNat 7 0 + 1
    orFault s (do
      let st ← ocDest x.oc_a.toNat (16 * rows) rows 16
      let recs ← y.smRecords x.oc_a.toNat rows
      let r ← ocDest f.imm32.toNat (4 * rows) rows 4
      let l ← ocDest x.oc_c.toNat (4 * rows) rows 4
      .ok (st, recs, r, l)) (fun v =>
      let rs := v.2.1.map vsmfinRow
      finishVx s c e [v.1]
        { writes := [(v.2.2.1.off, rs.flatMap (fun r => leBytes 4 r.1)),
                     (v.2.2.2.off, rs.flatMap (fun r => leBytes 4 r.2.1))]
          dests := [v.2.2.1, v.2.2.2]
          ev := smEvents 0 0 (rs.map (fun r => (r.2.2, none))), openCnt := smOpen })

end Sys2Proof.Machine
end

