-- ==== Sys2Proof/Machine/Words.lean ====
section
/-! DEFINITION. Instruction words (R158 to R161, R211): the opcode and the fields of one or two 64-bit
words. Rows of the opcode table that share an opcode differ in func, which the meaning reads. -/

namespace Sys2Proof.Machine

/-- The control and scalar opcodes 0x00 to 0x3F (R211). -/
def scalarOps : List (Nat × Op) :=
  [(0x01, .alu), (0x02, .alui), (0x03, .mul), (0x04, .movi), (0x08, .ld), (0x09, .st), (0x0A, .ldo),
   (0x0B, .sto), (0x0C, .spf), (0x10, .dld), (0x11, .dldm), (0x12, .dsto), (0x13, .dsetw),
   (0x14, .dgetw), (0x20, .br), (0x21, .bloop), (0x22, .jal), (0x23, .jalr), (0x28, .csrr),
   (0x29, .csrw), (0x30, .nop), (0x31, .brk), (0x32, .tret)]

/-- The semaphore, conveyor, stream and matrix opcodes 0x40 to 0x7F (R211). -/
def engineOps : List (Nat × Op) :=
  [(0x40, .sempost), (0x41, .semwait), (0x42, .sempostr), (0x44, .qpush), (0x45, .qpop), (0x46, .qcnt),
   (0x47, .qmark), (0x48, .qrewind), (0x49, .qrel), (0x50, .sxgo), (0x60, .mma), (0x61, .mmat),
   (0x62, .gfill), (0x63, .mmv), (0x64, .mxld), (0x65, .mxst)]

/-- The vector, function, reduction, softmax, training and system opcodes 0x80 to 0xCF (R211). -/
def vectorOps : List (Nat × Op) :=
  [(0x80, .vadd), (0x81, .vsub), (0x82, .vmul), (0x83, .vfma), (0x84, .vfmaw), (0x85, .vmin),
   (0x86, .vmax), (0x87, .vcmp), (0x88, .vsel), (0x89, .vmov), (0x8A, .vabs), (0x8B, .vneg),
   (0x8C, .vcvt), (0x90, .fexp2), (0x91, .flog2), (0x92, .frcp), (0x93, .frsq), (0xA0, .rsum),
   (0xA1, .rsumd), (0xA2, .rssq), (0xA3, .rmax), (0xA4, .rmin), (0xA5, .ramax), (0xA6, .rfstore),
   (0xA7, .rfclr), (0xB0, .vsmax), (0xB1, .vsmon), (0xB2, .vsmfin), (0xC0, .hvsub), (0xC1, .eqnx),
   (0xC2, .bar), (0xC3, .phase), (0xC5, .fence), (0xC6, .isync), (0xC7, .yield)]

/-- The opcode of bits [9:2]; none is reserved (R161). -/
def opOf (n : Nat) : Option Op := (scalarOps ++ engineOps ++ vectorOps).lookup n

/-- The fields of a first word (R159). -/
def sFields (w : Nat) : SForm where
  imm32 := BitVec.ofNat 32 (w / 2 ^ 32)
  func := BitVec.ofNat 7 (w / 2 ^ 25)
  rb := BitVec.ofNat 5 (w / 2 ^ 20)
  ra := BitVec.ofNat 5 (w / 2 ^ 15)
  rd := BitVec.ofNat 5 (w / 2 ^ 10)

/-- The fields of a second word (R159). -/
def lFields (w : Nat) : LForm where
  oc_c := BitVec.ofNat 12 (w / 2 ^ 52)
  oc_b := BitVec.ofNat 12 (w / 2 ^ 40)
  oc_a := BitVec.ofNat 12 (w / 2 ^ 28)
  dsel := BitVec.ofNat 4 (w / 2 ^ 24)
  q := BitVec.ofNat 4 (w / 2 ^ 20)
  acc := BitVec.ofNat 3 (w / 2 ^ 17)
  psem := BitVec.ofNat 6 (w / 2 ^ 11)
  pen := bitB w 10
  ext := BitVec.ofNat 10 w

/-- What a first word is (R158): illegal, a short instruction, or the first half of a long one. -/
inductive FirstWord where
  | illegal
  | short (i : Ins)
  | long (o : Op)
  deriving DecidableEq, Repr

/-- A first word read by its size and opcode (R158, R211). -/
def firstWord (w : Nat) : FirstWord :=
  match opOf (bits w 9 2) with
  | none => .illegal
  | some o =>
    if w % 4 = 1 then (if o.long then .illegal else .short { op := o, f := sFields w })
    else if w % 4 = 3 then (if o.long then .long o else .illegal)
    else .illegal

/-- One instruction from its two words; the second is not read for a short form. -/
def decodeWords (w1 w2 : Nat) : Option Ins :=
  match firstWord w1 with
  | .illegal => none
  | .short i => some i
  | .long o => some { op := o, f := sFields w1, x := lFields w2 }

end Sys2Proof.Machine
end

