-- ==== Sys2Proof/Machine/Sequencer.lean ====
section
/-! DEFINITION. Dispatch, prediction, speculation, run-ahead and commit (R161 to R176): how an instruction
enters the sequencer's window, and how the oldest one is carried out. -/

namespace Sys2Proof.Machine

/-- What the oldest uncommitted instruction does, by its opcode (R191 to R210). -/
def evalOp (c : CellId) (e : InFlight) (s : State) : Eval :=
  match e.ins.op with
  | .alu => evalAlu c e s
  | .alui => evalAlui c e s
  | .mul => evalMul c e s
  | .movi => evalMovi c e s
  | .ld => evalLd c e s
  | .st => evalSt c e s
  | .ldo => evalLdo c e s
  | .sto => evalSto c e s
  | .spf => evalSpf c e s
  | .dld => evalDld c e s
  | .dldm => evalDldm c e s
  | .dsto => evalDsto c e s
  | .dsetw => evalDsetw c e s
  | .dgetw => evalDgetw c e s
  | .br => evalBr c e s
  | .bloop => evalBloop c e s
  | .jal => evalJal c e s
  | .jalr => evalJalr c e s
  | .csrr => evalCsrr c e s
  | .csrw => evalCsrw c e s
  | .nop => evalNop c e s
  | .brk => evalBrk c e s
  | .tret => evalTret c e s
  | .sempost => evalSempost c e s
  | .semwait => evalSemwait c e s
  | .sempostr => evalSempostr c e s
  | .qpush => evalQpush c e s
  | .qpop => evalQpop c e s
  | .qcnt => evalQcnt c e s
  | .qmark => evalQmark c e s
  | .qrewind => evalQrewind c e s
  | .qrel => evalQrel c e s
  | .sxgo => evalSxgo c e s
  | .mma => evalMma c e s
  | .mmat => evalMmat c e s
  | .gfill => evalGfill c e s
  | .mmv => evalMmv c e s
  | .mxld => evalMxld c e s
  | .mxst => evalMxst c e s
  | .vadd => evalVadd c e s
  | .vsub => evalVsub c e s
  | .vmul => evalVmul c e s
  | .vfma => evalVfma c e s
  | .vfmaw => evalVfmaw c e s
  | .vmin => evalVmin c e s
  | .vmax => evalVmax c e s
  | .vcmp => evalVcmp c e s
  | .vsel => evalVsel c e s
  | .vmov => evalVmov c e s
  | .vabs => evalVabs c e s
  | .vneg => evalVneg c e s
  | .vcvt => evalVcvt c e s
  | .fexp2 => evalFexp2 c e s
  | .flog2 => evalFlog2 c e s
  | .frcp => evalFrcp c e s
  | .frsq => evalFrsq c e s
  | .rsum => evalRsum c e s
  | .rsumd => evalRsumd c e s
  | .rssq => evalRssq c e s
  | .rmax => evalRmax c e s
  | .rmin => evalRmin c e s
  | .ramax => evalRamax c e s
  | .rfstore => evalRfstore c e s
  | .rfclr => evalRfclr c e s
  | .vsmax => evalVsmax c e s
  | .vsmon => evalVsmon c e s
  | .vsmfin => evalVsmfin c e s
  | .hvsub => evalHvsub c e s
  | .eqnx => evalEqnx c e s
  | .bar => evalBar c e s
  | .phase => evalPhase c e s
  | .fence => evalFence c e s
  | .isync => evalIsync c e s
  | .yield => evalYield c e s

/-- The same, where an instruction of class SER first waits for every Harvest submit of its cell (R165). -/
def evalIns (c : CellId) (e : InFlight) (s : State) : Eval :=
  if e.ins.op.ser && s.hvBusy c then .wait s else evalOp c e s

/-! ### Prediction (R169) -/

/-- Whether an instruction writes scalar register r. -/
def Ins.writes (i : Ins) (r : BitVec 5) : Bool :=
  r != 0 &&
  match i.op with
  | .alu | .alui | .mul | .movi | .ld | .ldo | .dgetw | .jal | .jalr | .csrr | .qpop | .qcnt | .eqnx =>
    i.f.rd == r
  | .rfstore => i.f.rd == r
  | .bloop => i.f.ra == r
  | _ => false

/-- The entry of the loop table for a BLOOP (R169). -/
def loopIdx (pc : Word) : Nat := pc.toNat / 8 % 32

/-- How often a loop's BLOOP has run, with its uncommitted ones, when the next one is dispatched. -/
def Cell.loopRuns (x : Cell) (pc : Word) : Nat :=
  x.trips.get (fun _ => 0) pc.toNat + (x.window.filter (fun e => e.ins.op == .bloop && e.pc == pc)).length

/-- The prediction of a BLOOP whose counter is pending (R169): taken until the trip count of the last
completed run is reached. -/
def Cell.loopPredict (x : Cell) (pc : Word) : Bool :=
  match x.loops.find? (fun l => l.1 == loopIdx pc) with
  | some (_, a, n) => if a = pc then decide (x.loopRuns pc + 1 < n) else true
  | none => true

/-- The trip count kept for a BLOOP that has committed (R169). -/
def Cell.loopDone (x : Cell) (pc : Word) (taken : Bool) : Cell :=
  let n := x.trips.get (fun _ => 0) pc.toNat + 1
  if taken then { x with trips := x.trips.set (fun _ => 0) pc.toNat n }
  else { x with trips := x.trips.set (fun _ => 0) pc.toNat 0, loops := x.loops.insert (loopIdx pc) (pc, n) }

/-- Where the sequencer fetches after an instruction at pc, if it can tell (R169, R191, R193): the address, and
the return stack after it. A BR with cond AL is predicted taken. A direction read from a bhint, or statically, is a prediction. -/
def Cell.predict (x : Cell) (pc : Word) (i : Ins) (pending : Bool) : Option Word × List Word :=
  let next := nextPc pc i.op
  let target := relTarget pc i.f.imm32
  match i.op with
  | .br =>
    let taken := if i.f.func = 0 || i.f.rd = 1 then true else if i.f.rd = 2 then false else i.f.imm32.getLsbD 31
    (some (if taken then target else next), x.retStack)
  | .bloop =>
    let taken := if pending then x.loopPredict pc else (bloopNext x i.f).2
    (some (if taken then target else next), x.retStack)
  | .jal => (some target, if i.f.rd = 0 then x.retStack else (next :: x.retStack).take 8)
  | .jalr => if i.f.func = 1 then (x.retStack.head?, x.retStack.drop 1) else (none, x.retStack)
  | .tret => (none, x.retStack)
  | o => (if o.ser then none else some next, x.retStack)

/-! ### The oldest instruction -/

/-- A prediction of a BLOOP that its resolution did not bear out: the address it goes to in truth
(R172). -/
def Cell.mispredicted (x : Cell) (e : InFlight) : Option Word :=
  match e.pred with
  | none => none
  | some p =>
    let r := bloopNext x e.ins.f
    if p.taken = r.2 then none
    else some (if r.2 then relTarget e.pc e.ins.f.imm32 else nextPc e.pc .bloop)

/-- The unresolved BLOOPs. -/
def Cell.unresolved (x : Cell) : Nat := (x.window.filter (fun e => e.pred.isSome)).length

/-- Whether a BLOOP's counter is pending (R169): an uncommitted earlier instruction writes it. -/
def Cell.counterPending (x : Cell) (i : Ins) : Bool :=
  i.op == .bloop && bloopOk i.f && x.window.any (fun e => e.ins.writes i.f.ra)

/-- Whether a speculative array instruction finds too few free physical accumulators for its span (R91, R170). -/
def Cell.physHeld (x : Cell) (i : Ins) : Bool :=
  x.unresolved != 0 && i.op.queue == some .mx && decide (4 < x.accSpans.sum + spanOf i)

/-- Whether a limit on speculation holds an instruction back (R170). -/
def Cell.specHeld (x : Cell) (i : Ins) : Bool :=
  if x.counterPending i && 2 ≤ x.unresolved then true
  else if !i.op.tensor then false
  else if x.window.any (fun e => e.ins.op.branch) then true
  else if x.unresolved = 0 then false
  else
    !i.op.speculates || !bitB (x.reg CR.SQ_CTRL) 6 || x.inHandler || 16 ≤ specCount x.window ||
      (i.op == .mmv && 2 ≤ ((x.window.filter (fun e => e.spec && e.ins.op == .mmv)).length)) ||
      x.physHeld i

/-- Whether the queue of a tensor instruction is full (R164). -/
def Cell.queueFull (x : Cell) (i : Ins) : Bool :=
  match i.op.queue with
  | none => false
  | some k => k.entries ≤ x.queueLen k

/-! ### Stalls of the sequencer (R174, R183) -/

/-- The instructions of the sequencer that stall it while they wait (R165, R174): a SEMWAIT, a conveyor read, a scalar
load, a YIELD. -/
def Op.stalling : Op → Bool
  | .semwait | .qpop | .ld | .dldm | .yield => true
  | _ => false

/-- Whether the oldest instruction stalls the sequencer. -/
def Cell.stallsAtHead (x : Cell) : Bool :=
  match x.head with
  | none => false
  | some e => e.fault.isNone && e.wrong.isNone && e.ins.op.stalling && (e.waited.isSome || e.stalls)

/-- Whether one of the instructions of the sequencer in a list stalls it, while tensor instructions before it are still in
their queues: each is tried, in a state that is then dropped, on what those before it leave. -/
def State.stallsIn : List InFlight → CellId → State → Bool
  | [], _, _ => false
  | e :: w, c, s =>
    if e.fault.isSome || e.pred.isSome || e.wrong.isSome then false
    else if e.ins.op.tensor then State.stallsIn w c s
    else match evalIns c e (s.modCell c (fun x => { x with window := [e] })) with
      | .done s _ _ => State.stallsIn w c s
      | .wait _ _ => e.ins.op.stalling
      | .fault _ _ => false

/-- Whether an instruction of the sequencer stalls it behind a tensor instruction that is not yet complete. -/
def State.stallsBehind (s : State) (c : CellId) : Bool :=
  match (s.cell c).window with
  | [] => false
  | e :: w => e.ins.op.tensor && State.stallsIn w c s

/-- Whether the sequencer is in a stall that run-ahead can use (R174): an instruction waits for a semaphore, a
conveyor item or a load, or the one that it fetched found its queue full. -/
def State.raStalled (s : State) (c : CellId) : Bool :=
  let x := s.cell c
  let yields := match x.head with
    | none => false
    | some e => e.ins.op == .yield
  (x.stallsAtHead && !yields) || s.stallsBehind c || (!x.window.isEmpty && x.stuck.any x.queueFull)

/-- After a commit with others still in flight: run-ahead and a stall of dispatch go on only while what they wait for does
(R174, R175, R183). -/
def State.recheck (s : State) (c : CellId) : State :=
  let x := s.cell c
  if x.window.isEmpty || (x.stuck.isNone && x.runahead.isNone) then s
  else
    let s := s.modCell c (fun x => { x with
      stuck := x.stuck.filter (fun i =>
        x.queueFull i || x.specHeld i || (i.op.tensor && x.lent) || x.stallsAtHead || s.stallsBehind c) })
    if s.raStalled c then s else s.modCell c (fun x => { x with runahead := none })

/-- The oldest uncommitted instruction carried out as far as it goes: it commits, waits, or holds its
fault. A halt that a CSRW has requested follows the commit (R182). The Bool says that it committed. -/
def State.stepHead (s : State) (c : CellId) : State × Bool :=
  match (s.cell c).head with
  | none => (s, false)
  | some e =>
    if !(s.cell c).running || e.fault.isSome || e.wrong.isSome then (s, false)
    else match (s.cell c).mispredicted e with
      | some w => (s.modCell c (fun x => x.modHead (fun e => { e with wrong := some w })), false)
      | none =>
        match evalIns c e s with
        | .done s jump post =>
          let s := s.commitHead c (((s.cell c).head).getD e) jump post
          let s := if e.ins.op = .bloop then s.modCell c (fun x => x.loopDone e.pc jump.isSome) else s
          (if bitB ((s.cell c).reg CR.SQ_CTRL) 1 then s.haltNow c else s.recheck c, true)
        | .wait s k =>
          (s.modCell c (fun x => x.modHead (fun e => { e with waited := k.or e.waited, stalls := true })), false)
        | .fault s f => (s.modCell c (fun x => x.faultHead f), false)

/-- Whether the sequencer carries out its oldest instruction by itself: a tensor instruction behind others
completes by ENGINE_INSTRUCTION_COMPLETE, but a GFILL that gathers goes on. -/
def Cell.pumps (x : Cell) : Bool :=
  match x.head with
  | none => false
  | some e => !e.ins.op.tensor || e.ins.op == .gfill

/-- The oldest instructions carried out while they commit (R168); the first argument bounds them. -/
def State.pumpN : Nat → CellId → State → State
  | 0, _, s => s
  | n + 1, c, s =>
    if (s.cell c).pumps then
      let r := s.stepHead c
      if r.2 then State.pumpN n c r.1 else r.1
    else s

/-- Cell c goes on after something it may have waited for. -/
def State.pump (s : State) (c : CellId) : State := State.pumpN ((s.cell c).window.length) c s

/-- Several cells go on. -/
def State.pumpAll (s : State) (cs : List CellId) : State := cs.foldl (fun s c => s.pump c) s

/-- The oldest instruction is carried out, tensor or not, and those after it while they commit. -/
def State.drive (s : State) (c : CellId) : State :=
  let r := s.stepHead c
  if r.2 then r.1.pump c else r.1

/-! ### Dispatch (R163 to R165, R170, R186) -/

/-- Whether fetch has nothing to dispatch: an uncommitted instruction of class SER, or one whose successor
is not known (R165, R191). -/
def Cell.fetchHeld (x : Cell) : Bool :=
  match x.window.getLast? with
  | none => false
  | some e => e.next.isNone || e.ins.op.ser

/-- The stall counter of the wait in its queue that an instruction dispatched now may have: for an instruction of RU
behind a softmax instruction (R144), and for one that writes accumulators while others hold more than leave enough free
(R91). Both waits are queue-full stalls. -/
def Cell.queueWait (x : Cell) (i : Ins) : Option Nat :=
  if (i.op.queue == some .ru && x.window.any (fun e => e.ins.op.softmax)) ||
      (i.op.queue == some .mx && !x.accSpans.isEmpty && decide (4 < x.accSpans.sum + spanOf i))
  then some CR.SX_STALL_QFULL_CNT else none

/-- The window entry of an instruction dispatched now. -/
def Cell.entry (x : Cell) (i : Ins) : InFlight :=
  let pending := x.counterPending i
  { pc := x.npc, ins := i
    fault := x.fetchMark x.npc.toNat i.op
    waited := x.queueWait i
    spec := i.op.tensor && x.unresolved != 0
    pred := if pending then some { taken := x.loopPredict x.npc } else none
    next := (x.predict x.npc i pending).1 }

/-- An instruction dispatched (R163, R168): it joins the window, and where it is the oldest it is carried
out at once. -/
def State.dispatch (s : State) (c : CellId) (i : Ins) : State :=
  let x := s.cell c
  let e := x.entry i
  let stack := (x.predict x.npc i (x.counterPending i)).2
  let x' := if e.spec then (x.count CR.SQ_SPEC_ISSUE_CNT).count CR.MX_SPEC_ISSUE_CNT else x
  let s := s.setCell c { x' with
    window := x.window ++ [e], npc := e.next.getD x.npc, retStack := stack, stuck := none }
  if x.window.isEmpty then s.drive c else s

/-! ### Run-ahead (R174, R175) -/

/-- A shadow register; none is invalid. -/
def RunAhead.rd (r : RunAhead) (n : BitVec 5) : Option Word := if n = 0 then some 0 else r.regs.getD n.toNat none

/-- A shadow register written. -/
def RunAhead.wr (r : RunAhead) (n : BitVec 5) (v : Option Word) : RunAhead :=
  if n = 0 then r else { r with regs := r.regs.set n.toNat v, wrote := n :: r.wrote }

/-- Every register that an instruction writes made invalid. -/
def RunAhead.spoil (r : RunAhead) (i : Ins) : RunAhead :=
  (List.range 32).foldl (fun r n => if i.writes (BitVec.ofNat 5 n) then r.wr (BitVec.ofNat 5 n) none else r) r

/-- What run-ahead makes of an instruction. -/
inductive RaDone where
  | executed (r : RunAhead)
  | skipped (r : RunAhead)
  | ended (r : RunAhead)

/-- The result of scalar arithmetic on the shadow registers (R174). -/
def RunAhead.scalar (r : RunAhead) (i : Ins) : Option (Option Word) :=
  let f := i.f
  let imm := f.imm32.signExtend 64
  match i.op with
  | .alu => some ((r.rd f.ra).bind (fun a => (r.rd f.rb).bind (fun b => aluFn f.func a b)))
  | .alui => some ((r.rd f.ra).bind (fun a => aluFn f.func a imm))
  | .mul => some ((r.rd f.ra).bind (fun a => (r.rd f.rb).bind (fun b =>
      match f.func.toNat with
      | 0 => some (a * b)
      | 1 => some (BitVec.ofInt 64 (a.toInt * b.toInt / 2 ^ 64))
      | 2 => some (BitVec.ofNat 64 (a.toNat * b.toNat / 2 ^ 64))
      | _ => none)))
  | .movi =>
    some (if f.func = 0 then some imm
      else (r.rd f.ra).map (fun a => BitVec.ofNat 64 (f.imm32.toNat * 2 ^ 32 + a.toNat % 2 ^ 32)))
  | _ => none

/-- The prediction of a BLOOP in run-ahead (R169, R174): exact where no uncommitted earlier instruction, of the window
or of run-ahead, writes its counter, else by the loop table. -/
def RunAhead.loopTaken (x : Cell) (r : RunAhead) (f : SForm) : Bool :=
  if r.wrote.contains f.ra || x.window.any (fun e => e.ins.writes f.ra) then
    match x.loops.find? (fun l => l.1 == loopIdx r.pc) with
    | some (_, a, n) =>
      if a = r.pc then decide (x.loopRuns r.pc + (r.loops.filter (fun p => p == r.pc)).length + 1 < n) else true
    | none => true
  else (bloopNext x f).2

/-- One instruction in run-ahead (R174), at the address of the run-ahead fetch; `x` supplies the loop table. A JALR that
returns follows the return stack, and one whose target is not predicted ends the fetch (R169). -/
def RunAhead.take (x : Cell) (r : RunAhead) (i : Ins) : RaDone :=
  let f := i.f
  let seq := nextPc r.pc i.op
  match r.scalar i with
  | some v => .executed { (r.wr f.rd v) with pc := seq }
  | none =>
    match i.op with
    | .nop => .executed { r with pc := seq }
    | .br => .executed { r with pc := ((x.predict r.pc i false).1).getD seq }
    | .bloop =>
      let taken := r.loopTaken x f
      .executed { (r.wr f.ra ((r.rd f.ra).map (· - 1))) with
        pc := if taken then relTarget r.pc f.imm32 else seq, loops := r.pc :: r.loops }
    | .jal => .executed { (r.wr f.rd (some seq)) with
        pc := relTarget r.pc f.imm32, stack := if f.rd = 0 then r.stack else (seq :: r.stack).take 8 }
    | .jalr =>
      match r.stack with
      | a :: st => if f.func = 1 then .executed { (r.wr f.rd (some seq)) with pc := a, stack := st } else .ended r
      | [] => .ended r
    | .fence | .isync | .tret | .bar | .eqnx => .ended r
    | .spf => .executed { r with pc := seq }
    | _ => .skipped { (r.spoil i) with pc := seq }

/-- One instruction fetched in run-ahead: its counters, and what a prefetch hint whose address is valid warms (R175).
Execution ends at 512 instructions. -/
def State.raStep (s : State) (c : CellId) (r : RunAhead) (i : Ins) : State :=
  if r.stopped || 512 ≤ r.count then s
  else
    let x := s.cell c
    let r := { r with count := r.count + 1 }
    match r.take x i with
    | .ended _ => s.setCell c { x with runahead := some { r with stopped := true } }
    | .skipped r' => s.setCell c { x with runahead := some r' }
    | .executed r' =>
      let go (x : Cell) : State := s.setCell c { x with runahead := some r' }
      if i.op ≠ .spf then go (x.count CR.SQ_RA_INSTR_CNT)
      else match r.rd i.f.ra with
        | some a =>
          (go ((x.count CR.SQ_RA_INSTR_CNT).count CR.SQ_RA_PREFETCH_CNT)).warm
            (a + i.f.imm32.signExtend 64).toNat
        | none => go (x.count CR.SQ_RA_DROP_CNT)

/-- The shadow registers at the entry of run-ahead: the registers, with what the uncommitted instructions
make of them. -/
def Cell.shadow (x : Cell) : RunAhead :=
  let r : RunAhead := { regs := x.s.toList.map some, pc := x.npc }
  let r := x.window.foldl (fun (r : RunAhead) e =>
    match ({ r with pc := e.pc } : RunAhead).take x e.ins with
    | .executed r' | .skipped r' | .ended r' => r') r
  { regs := r.regs, pc := x.npc, stack := x.retStack }


/-- The sequencer enters run-ahead (R174, R175). -/
def State.enterRunAhead (s : State) (c : CellId) : State :=
  let x := s.cell c
  if x.running && x.runahead.isNone && s.raStalled c && bitB (x.reg CR.SQ_CTRL) 5 && !x.inHandler && !x.fetchHeld
  then s.setCell c { (x.count CR.SQ_RA_ENTRY_CNT) with runahead := some x.shadow }
  else s

/-- Run-ahead stops after 512 instructions (R174). -/
def State.limitRunAhead (s : State) (c : CellId) : State :=
  match (s.cell c).runahead with
  | some r =>
    if 512 ≤ r.count then s.modCell c (fun x => { x with runahead := some { r with stopped := true } }) else s
  | none => s

/-! ### Issue -/

/-- Instruction i, fetched at the next address, is held back from dispatch. -/
def State.holdBack (s : State) (c : CellId) (i : Ins) : State := s.modCell c (fun x => { x with stuck := some i })

/-- An instruction that the sequencer of cell c fetches at its next address: taken in run-ahead, held back,
or dispatched. An instruction held back is not dispatched: its stall is counted, and it comes again. Nothing is dispatched
behind an instruction of the sequencer that stalls (R163, R174), and an array instruction that waits for physical
accumulators waits for its queue (R91). -/
def State.issue (s : State) (c : CellId) (i : Ins) : State :=
  let x := s.cell c
  if !x.running then s
  else match x.runahead with
    | some r => s.raStep c r i
    | none =>
      if x.fetchHeld then s
      else if x.stallsAtHead || s.stallsBehind c then s.holdBack c i
      else if x.specHeld i then
        (if i.op.speculates && x.physHeld i then (s.holdBack c i).stall c CR.SX_STALL_QFULL_CNT else s.holdBack c i)
      else if i.op.tensor && x.lent then
        ((s.setCell c { x with wantArray := true }).holdBack c i).stall c CR.SQ_LEND_WAIT_CNT
      else if x.queueFull i then (s.holdBack c i).stall c CR.SX_STALL_QFULL_CNT
      else s.dispatch c i

/-! ### Events of the sequencer -/

/-- How the fetch of one word ends: with the word, with a fault, or in a wait for its page or its line. -/
inductive FetchRes where
  | ok (s : State) (w : Nat)
  | fault (s : State) (f : FaultInfo)
  | wait (s : State)

/-- One word fetched from its own source (R155, R157, R179): from IM in its window, where `err` says that the read
meets a new uncorrectable error, from coherent space elsewhere. A wait for translation is counted (R179, R264). -/
def State.fetchWord (s : State) (c : CellId) (pc : Nat) (err : Bool) : FetchRes :=
  let x := s.cell c
  let refused : FaultInfo := { cause := 0x02, addr := pc }
  if x.inIm pc then
    let off := pc - x.reg CR.SQ_IM_BASE
    let x := if err then { x with imBad := x.imBad.add (off / 8) } else x
    let s := s.setCell c x
    if x.imBadAt pc then .fault s (fetchPoison pc) else .ok s (leNat (x.imRead off 8))
  else if x.fetchRefused.isSome && x.fetchVa == pc then
    .fault (s.setCell c { x with fetchRefused := none }) refused
  else match s.vread { agent := .fetch c, va := pc, exec := true } 8 with
    | .ok s d => if anyBad d then .fault s (fetchPoison pc) else .ok s (leNat (plain d))
    | .wait s why =>
      let s := s.modCell c (fun x => { x with fetchReq := why.req, fetchVa := pc })
      .wait (match why.counter true with
        | some k => s.stall c k
        | none => s)
    | .fault s r => .fault s (if r = 11 then fetchPoison pc else refused)
    | .range s => .fault s refused

/-- A fault that fetch at the next address meets, where no instruction is in flight (R155, R157, R158, R179): both
words of a long instruction are fetched. Bit k of `errs` says that word k meets a new uncorrectable error in IM. -/
def State.fetchFault (s : State) (c : CellId) (errs : BitVec 2) : State × Option FaultInfo :=
  let pc := (s.cell c).npc.toNat
  match s.fetchWord c pc (errs.getLsbD 0) with
  | .fault s f => (s, some f)
  | .wait s => (s, none)
  | .ok s w =>
    match firstWord w with
    | .illegal => (s, some { cause := 0x01 })
    | .short _ => (s, none)
    | .long _ =>
      match s.fetchWord c (secondWord pc) (errs.getLsbD 1) with
      | .fault s f => (s, some f)
      | .ok s _ | .wait s => (s, none)

/-- The fault of the oldest uncommitted instruction is delivered (R176), or that of a fetch. -/
def State.deliverFault (s : State) (c : CellId) (imBad : BitVec 2) : State :=
  let x := s.cell c
  if !x.running then s
  else match x.head with
    | some e =>
      match e.fault with
      | some f => s.takeFault c e.pc f
      | none => s
    | none =>
      let r := s.fetchFault c imBad
      match r.2 with
      | some f => r.1.takeFault c x.npc f
      | none => r.1

/-- A BLOOP found mispredicted (R172): what follows it is discarded and counted, and it commits. -/
def State.loopMispredict (s : State) (c : CellId) : State :=
  match (s.cell c).head with
  | none => s
  | some e =>
    match e.wrong with
    | none => s
    | some w =>
      let s := s.modCell c (fun x =>
        let x := (x.countDiscard (x.window.drop 1)).count CR.SQ_BR_MISPRED_CNT
        let r := bloopNext x e.ins.f
        let x := (x.discardAfterHead w).wrS e.ins.f.ra r.1
        (x.loopDone e.pc r.2).modHead (fun e => { e with wrong := none, pred := none, next := some w }))
      s.commitHead c { e with next := some w } (some w) false

/-- A yield point (R185): what the sequencer waits in, or that it is halted. -/
def Cell.yieldPoint (x : Cell) : Bool :=
  match x.mode with
  | .running =>
    match x.head with
    | none => false
    | some e =>
      match e.ins.op with
      | .semwait | .qpop => e.waited.isSome && e.fault.isNone && e.granted.isNone
      | .yield => e.fault.isNone && e.granted.isNone
      | .bar | .eqnx => e.arrived.isSome && e.granted.isNone
      | _ => false
  | _ => true

/-- Whether a cell's array can be lent (R31, R185): at a yield point, with nothing in its MX and ST queues. -/
def Cell.lendable (x : Cell) : Bool :=
  x.yieldPoint && bitB (x.reg CR.SQ_CTRL) 7 && !x.queued .mx && !x.queued .st && !x.mx.selftest && !x.lent &&
    !x.mx.unavailable && (x.cp.st == .awake || x.cp.st == .doze)

/-- The array of a cell is lent (R185), which ends DOZE (R443). -/
def State.lendArray (s : State) (c : CellId) : State :=
  if (s.cell c).lendable then (s.endDoze c).modCell c (fun x => { (x.count CR.SQ_LEND_CNT) with lent := true }) else s

/-- A lent array returns (R186). -/
def State.returnArray (s : State) (c : CellId) : State :=
  let x := s.cell c
  if x.lent && x.wantArray then s.setCell c { x with lent := false, wantArray := false } else s

/-- The oldest instruction of a cell that waits in a barrier's completed generation goes on with value v. -/
def Cell.grantArrived (x : Cell) (g : Nat) (v : Word) : Cell :=
  x.modHead (fun e => if e.arrived = some g then { e with granted := some v } else e)

/-- The open barrier of a scope completes if every cell of the scope has arrived (R209); the cells that
waited go on with value v, out of DOZE (R443), and those that had reached the next one are counted there. -/
def State.openBarrier (s : State) (k : Scope) (cells : List CellId) (v : Word) : State :=
  let b := s.barrier k
  if cells.all (fun c => b.arrived.contains c) then
    let s := s.setBarrier k { gen := b.gen + 1, arrived := b.next, next := [] }
    let s := cells.foldl (fun s c =>
      match (s.cell c).head with
      | some e => if e.ins.scope c = some k then (s.endDoze c).modCell c (fun x => x.grantArrived b.gen v) else s
      | none => s) s
    s.pumpAll cells
  else s

/-- A YIELD's cycles have run out (R208, R210): it ends, and with it the DOZE of its cell (R443). -/
def State.yieldExpiry (s : State) (c : CellId) : State :=
  match (s.cell c).head with
  | some e =>
    if e.ins.op = .yield && e.fault.isNone && (s.cell c).mode == .running then
      ((s.endDoze c).modCell c (fun x => x.modHead (fun e => { e with granted := some 0 }))).pump c
    else s
  | none => s

end Sys2Proof.Machine
end

