-- ==== Sys2Proof/Machine/CellEvents.lean ====
section
/-! DEFINITION. The events of a cell that are no instruction: of its sequencer, its semaphores and conveyors,
its stream engine and its array (R97, R105, R169 to R186, R209, R210, R280 to R312). Each leaves the state as it
is where its condition does not hold (log entry 18). -/

namespace Sys2Proof.Machine

/-- YIELD_EXPIRY (R210). -/
def execYieldExpiry (c : CellId) (s : State) : Out := .next (s.yieldExpiry c)

/-- FAULT_DELIVERY (R176 to R179): bit k of `imBad` says that word k of the instruction at the fetch address has an
uncorrectable error in IM, beside what a fetch finds in memory. -/
def execFaultDelivery (c : CellId) (imBad : Meets (BitVec 2) MemUpset) (s : State) : Out :=
  .next ((s.memUpset imBad.met).deliverFault c imBad.arg)

/-- LOOP_MISPREDICT (R169, R172). -/
def execLoopMispredict (c : CellId) (s : State) : Out := .next (s.loopMispredict c)

/-- RUN_AHEAD_ENTRY (R174, R175). -/
def execRunAheadEntry (c : CellId) (s : State) : Out := .next (s.enterRunAhead c)

/-- RUN_AHEAD_LIMIT (R174). -/
def execRunAheadLimit (c : CellId) (s : State) : Out := .next (s.limitRunAhead c)

/-- ARRAY_LEND (R31, R185, R334): the unit of the band counts the loan and is no longer starved. -/
def execArrayLend (c : CellId) (s : State) : Out :=
  if (s.cell c).lendable then
    let k := (bandOf c).val
    .next (((s.lendArray c).count (FR.HV_U_LEND_CNT k)).clrFreg (FR.HV_U_STATUS k) 8)
  else .next s

/-- ARRAY_RETURN (R31, R186). -/
def execArrayReturn (c : CellId) (s : State) : Out := .next (s.returnArray c)

/-- BARRIER_COMPLETE (R209). -/
def execBarrierComplete (k : BarScope) (s : State) : Out :=
  match k with
  | .band b => .next (s.openBarrier (.band b) (bandCells b) 0)
  | .all => .next (s.openBarrier .all allCells 0)

/-- SEMWAIT_SATISFIED (R280): the first waiter of a semaphore takes its count, if the count is enough. -/
def execSemwaitSatisfied (c : CellId) (k : BitVec 6) (s : State) : Out :=
  match (s.cell c).serveSem k with
  | some x => .next ((s.setCell c x).pump c)
  | none => .next s

/-- HELD_POST_DELIVERY (R282): the oldest post held at the mesh port of a cell that is awake. -/
def execHeldPostDelivery (c : CellId) (s : State) : Out :=
  let x := s.cell c
  match x.cp.st, x.cp.held with
  | .awake, p :: ps => .next ((s.setCell c { x with cp := { x.cp with held := ps } }).post c p.sem p.n)
  | _, _ => .next s

/-- The lowest-numbered free spare among two, by their enable bits in MX_REPAIR (R98). -/
def freeSpare (r e0 e1 : Nat) : Option Nat :=
  if !bitB r e0 then some e0 else if !bitB r e1 then some e1 else none

/-- A failing position replaced by a spare whose enable bit is e, the position lying below it (R98). -/
def useSpare (r e pos : Nat) : Nat := putBits (putBits r e e 1) (e - 1) (e - 6) pos

/-- A failing row replaced by a spare row: MX_REPAIR, and whether no spare was left (R97). -/
def repairRow (q : Nat × Bool) (pos : Nat) : Nat × Bool :=
  match freeSpare q.1 8 15 with
  | some e => (useSpare q.1 e pos, q.2)
  | none => (q.1, true)

/-- A failing column replaced by a spare column. -/
def repairCol (q : Nat × Bool) (pos : Nat) : Nat × Bool :=
  match freeSpare q.1 22 29 with
  | some e => (useSpare q.1 e pos, q.2)
  | none => (q.1, true)

/-- A single failing element repaired with a spare row where one is free, else with a spare column. -/
def repairElem (q : Nat × Bool) (row col : Nat) : Nat × Bool :=
  if (freeSpare q.1 8 15).isSome then repairRow q row else repairCol q col

/-- MX_REPAIR after what a self-test has found, with the skews of R95, and whether spares ran out (R97, R98). -/
def repaired (old : Nat) (d : SelftestFinding) : Nat × Bool :=
  let q := d.rows.foldl (fun q r => repairRow q r.val) (old, false)
  let q := d.cols.foldl (fun q r => repairCol q r.val) q
  let q := d.elems.foldl (fun q e => repairElem q e.1.val e.2.val) q
  let rows := bitB q.1 8 || bitB q.1 15
  let cols := bitB q.1 22 || bitB q.1 29
  let r := putBits (putBits q.1 0 0 (b2n rows)) 1 1 (b2n cols)
  (putBits r 31 30 (if q.2 then 3 else if rows || cols then 1 else 0), q.2)

/-- The end of a self-test of a cell's matrix units (R97, R98). An array found without a spare left, or an MV
path found bad, stays unavailable until a device reset. -/
def Cell.endSelftest (x : Cell) (d : SelftestFinding) : Cell :=
  let r := repaired (x.reg CR.MX_REPAIR) d
  let failed := x.mx.failed || r.2
  let mvFailed := x.mx.mvFailed || d.mvBad
  let x := (x.setReg CR.MX_REPAIR (if failed then putBits r.1 31 30 3 else r.1)).count CR.MX_SELFTEST_CNT
  { x with mx := { unavailable := failed, mvUnavailable := mvFailed, selftest := false, failed, mvFailed } }

/-- SELFTEST_DONE (R97, R98): the matrix instructions issued before it have been carried out; those queued since go on. -/
def execSelftestDone (c : CellId) (d : SelftestFinding) (s : State) : Out :=
  let x := s.cell c
  if x.mx.selftest && !x.lent && x.window.all (fun e => !e.ahead) then .next ((s.setCell c (x.endSelftest d)).pump c) else .next s

/-- GFILL_LIMIT_EXPIRY (R105): the limit of a GFILL that has gathered at least one row runs out. -/
def execGfillLimitExpiry (c : CellId) (s : State) : Out :=
  match (s.cell c).head with
  | some e =>
    if e.ins.op = .gfill && e.fault.isNone && e.gather.rows != [] &&
        bits ((s.cell c).rdS e.ins.f.ra).toNat 15 0 != 0 then
      .next ((s.modCell c (fun x => x.modHead (fun e =>
        { e with gather := { e.gather with expired := true } }))).drive c)
    else .next s
  | none => .next s

/-- SX_ACCEPT (R283, R288): the stream engine takes the oldest instruction, an SXGO. -/
def execSxAccept (c : CellId) (s : State) : Out :=
  match (s.cell c).head with
  | some e => if e.ins.op = .sxgo then .next (s.drive c) else .next s
  | none => .next s

/-- LINK_EMPTY_TAKE (R297). -/
def execLinkEmptyTake (c : CellId) (n : Fin 6) (s : State) : Out := .next (s.takeEmpty c n)

/-- MICRO_TRANSFER_DONE (R289 to R303), with what its reads of OC and of memory find (R120, R241, R251). -/
def execMicroTransferDone (c : CellId) (n : Meets (Fin 6) Upset) (s : State) : Out :=
  .next ((if s.transfers c n.arg then s.engineUpset c n.met else s).microTransfer c n.arg)

/-- SX_TRANSFER_COMPLETE (R291): a FENCE that waits for the slots goes on. -/
def execSxTransferComplete (c : CellId) (n : Fin 6) (s : State) : Out := .next ((s.sxComplete c n).pump c)

/-- SHARE_WINDOW (R298, R299): the shares written last apply to the window that begins. -/
def execShareWindow (c : CellId) (s : State) : Out :=
  .next (s.modCell c (fun x => { x with shareNow := x.reg CR.SX_SHARE }))

/-- CONVEYOR_ITEM_WRITE (R309, R311): a producer that waited for room, or for another producer's packet to
close, writes what it can into conveyor q of cell c. -/
def execConveyorItemWrite (c : CellId) (q : BitVec 4) (p : Producer) (s : State) : Out :=
  match p with
  | .push =>
    match (s.cell c).head with
    | some e => if e.ins.op = .qpush && e.ins.x.q = q then .next (s.pump c) else .next s
    | none => .next s
  | .slot k n =>
    match (s.cell k).slot n with
    | some t =>
      if t.read && !t.implicit && t.st = .running && t.f 123 121 = 3 && cellNo (t.f 71 64) = c &&
          BitVec.ofNat 4 (t.f 75 72) = q then .next (s.microTransfer k n)
      else .next s
    | none => .next s
  | .gone => .next s

/-- ENGINE_INSTRUCTION_COMPLETE (R166 to R168, R189): an engine carries out the oldest instruction of the cell,
which settles and commits, with those behind it that can. -/
def execEngineInstructionComplete (c : CellId) (s : State) : Out :=
  match (s.cell c).head with
  | some e => if e.ins.op.tensor && e.ins.op != .sxgo then .next (s.drive c) else .next s
  | none => .next s

end Sys2Proof.Machine
end

