-- ==== Sys2Proof/Machine/Flagen.lean ====
section
/-! DEFINITION. The Flagen ports and the reliable transport (R371 to R383, R405): interface states, routes,
contexts, the hello, acknowledgement, retransmission and congestion control. -/

namespace Sys2Proof.Machine

/-! ### Interfaces (R371 to R374) -/

/-- FL_CTRL.en, while no floor reset is under way (R506, R508). -/
def State.flEn (s : State) : Bool := bitB (s.freg FR.FL_CTRL) 0 && !s.floorBusy
/-- FL_CTRL.loopback (R405). -/
def State.flLoop (s : State) : Bool := bitB (s.freg FR.FL_CTRL) 4
/-- The largest DATA payload (R377). -/
def State.flPayload (s : State) : Nat := 1024 * 2 ^ bits (s.freg FR.FL_CTRL) 7 6

/-- The mode of port p. -/
def State.portMode (s : State) (p : Nat) : Nat := bits (s.freg (FR.FL_P_CFG p)) 2 0
/-- Whether port p is on the C2M medium, which skips auto-negotiation (R374). -/
def State.portC2M (s : State) (p : Nat) : Bool := bits (s.freg (FR.FL_P_CFG p)) 5 4 == 2

/-- The interfaces of a port in a mode (R371). -/
def modeIfs (m : Nat) : Nat := ([0, 1, 2, 4, 1, 2, 4, 0] : List Nat).getD m 0
/-- The rate of one interface in Gb/s (R371). -/
def modeRate (m : Nat) : Nat := ([1, 800, 400, 200, 400, 200, 100, 1] : List Nat).getD m 1

/-- The state of interface i of port p (R374). -/
def State.ifState (s : State) (p i : Nat) : Nat := bits (s.freg (FR.FL_P_STATUS p)) (8 * i + 3) (8 * i)

/-- Interface i of port p in a state with a fault reason (R407). -/
def State.setIf (s : State) (p i st reason : Nat) : State :=
  s.putFreg (FR.FL_P_STATUS p) (8 * i + 7) (8 * i) (st + 16 * reason)

/-- Interface i of port p starts its bring-up. -/
def State.startIf (s : State) (p i : Nat) : State := s.setIf p i (if s.portC2M p then 3 else 1) 0

/-- Interface i of port p enters FAULT (R374). -/
def State.faultIf (s : State) (p i reason : Nat) : State := (s.setIf p i 5 reason).count (FR.FL_P_DOWN_CNT p)

/-- Interface i of port p is enabled (R374). -/
def State.ifOn (s : State) (p i : Nat) : Bool := s.flEn && decide (i < modeIfs (s.portMode p))

/-- Interfaces of port p follow its mode and FL_CTRL.en; `again` restarts those that run already. -/
def State.refreshPort (s : State) (p : Nat) (again : Bool) : State :=
  (List.range 4).foldl (fun s i =>
    if !s.ifOn p i then s.setIf p i 0 0
    else if again || s.ifState p i = 0 then s.startIf p i
    else s) s

/-- Interface number k is UP. -/
def State.ifUp (s : State) (k : Nat) : Bool := s.ifState (k / 4) (k % 4) == 4

/-- Some interface is UP (FL_STATUS.up). -/
def State.anyIfUp (s : State) : Bool := (List.range 72).any s.ifUp

/-- The interface is paused by flow control (R383). -/
def State.ifPaused (s : State) (k : Nat) : Bool := s.timeUs < s.fl.paused.get (fun _ => 0) k

/-! ### Routes (R378) -/

/-- n bytes of one line as memory last held them, in the cache or below it. -/
def State.latest (s : State) (pa n : Nat) : List Byte :=
  let la := pa / 256
  plain (if s.absent la then s.rawRead pa n else (s.line la).read (pa % 256) n)

/-- The route entry of a node. -/
def State.route (s : State) (node : Nat) : Nat := leNat (s.latest (s.freg FR.FL_PEER_BASE + 32 * node) 32)

/-- Whether the entry selects UDP/IPv6. -/
def State.routeUdp (s : State) (node : Nat) : Bool := bitB (s.route node) 1

/-- The line that holds the route entry of a node. -/
def State.routeLine (s : State) (node : Nat) : Nat := (s.freg FR.FL_PEER_BASE + 32 * node) / 256

/-- Whether a node's route entry can be read at once: the host holds no block of it modified (R37, R415), and its stack is
not in self-refresh (R446). -/
def State.routeThere (s : State) (node : Nat) : Bool :=
  let la := s.routeLine node
  s.hostBlocks la false == [] && (!s.absent la || (s.rawAsleep (la * 256)).isNone)

/-- What keeps the route entry of a node from being read asked for: the host's copy, or the stack. -/
def State.askRoute (s : State) (node : Nat) : State :=
  let la := s.routeLine node
  if s.routeThere node || bitB (s.freg FR.FL_CTRL) 4 then s
  else
    let s := s.recall la false
    if s.absent la then s.wakeFor la else s

/-- The interfaces that reach a node now: none where its entry is not valid or has reserved bits set, and none before it can
be read. -/
def State.linkSet (s : State) (node : Nat) : List Nat :=
  let e := s.route node
  if s.routeThere node && bitB e 0 && bits e 7 2 = 0 then (List.range 72).filter (fun k => bitB e (8 + k) && s.ifUp k) else []

/-! ### Contexts (R379) -/

/-- The context of a node. -/
def State.ctxOf (s : State) (node : Nat) : Ctx := s.fl.ctx.get (fun _ => {}) node

/-- The context of a node set. -/
def State.setCtx (s : State) (node : Nat) (x : Ctx) : State :=
  { s with fl := { s.fl with ctx := s.fl.ctx.set (fun _ => {}) node x } }

/-- Packets are unacknowledged in some direction. -/
def Ctx.inFlight (x : Ctx) : Bool := !x.unacked.isEmpty || x.owed != 0

/-- The least recently used cached context that may leave the cache. -/
def State.ctxVictim (s : State) : Option Nat :=
  s.fl.cached.reverse.find? (fun k => !(s.ctxOf k).inFlight)

/-- The context of a node brought into the cache of 4,096 (R379): none where every cached context has packets in
flight, and FL_STATUS.ctx_full shows that the traffic waits. -/
def State.touchCtx (s : State) (node : Nat) : State × Bool :=
  if s.fl.cached.contains node then
    ({ s with fl := { s.fl with cached := node :: s.fl.cached.filter (· != node), full := s.fl.full.del node } },
      true)
  else if s.fl.cached.length < 4096 then
    (State.count { s with fl := { s.fl with cached := node :: s.fl.cached, full := s.fl.full.del node } }
      FR.FL_CTX_MISS_CNT, true)
  else match s.ctxVictim with
    | some v =>
      (State.count { s with fl := { s.fl with
          cached := node :: s.fl.cached.filter (· != v), full := s.fl.full.del node } } FR.FL_CTX_MISS_CNT, true)
    | none => ({ s with fl := { s.fl with full := s.fl.full.add node } }, false)

/-- A node whose traffic waits for the cache no more (R379). -/
def State.unfull (s : State) (node : Nat) : State := { s with fl := { s.fl with full := s.fl.full.del node } }

/-- a - b modulo 2^32. -/
def psnDiff (a b : Nat) : Nat := (a + 2 ^ 32 - b % 2 ^ 32) % 2 ^ 32

/-- The ceiling of the window (R383). -/
def State.winCeil (s : State) (x : Ctx) : Rat :=
  (min x.credit (bits (s.freg FR.FL_CC_CFG) 23 16 * 65536) : Nat)

/-- A window held between 4 KiB and its ceiling. -/
def State.clampWin (s : State) (x : Ctx) (w : Rat) : Rat := min (s.winCeil x) (max 4096 w)

/-- Payload bytes in flight. -/
def Ctx.flight (x : Ctx) : Nat := (x.unacked.map (fun u => u.frame.len)).sum

/-- The retransmission timer in ns (R382): it doubles after each timeout that follows another. -/
def State.rto (s : State) (x : Ctx) : Nat :=
  max (4 * x.srtt) (bits (s.freg FR.FL_CC_CFG) 7 0 * 1000) * 2 ^ (x.timeouts - 1)

/-! ### Frames as they leave (R375, R376) -/

/-- n bytes of a number, most significant first: the byte order of the standard headers (R8, R375). -/
def beBytes (n x : Nat) : List Byte := (leBytes n x).reverse

/-- Whether frame f goes out marked as sent by a slowed member (R400): one of a running instance. -/
def State.slowMark (s : State) (f : FrameOut) : Bool :=
  bitB (s.freg FR.CE_STATUS) 4 && f.ty != 0 && f.ty != 2 && f.cid != 4095

/-- The Flagen header (R376) of frame f to a node with PSN psn; `apsn` is the cumulative acknowledgement where the frame
carries one. Fields that the frame's type does not use are free (log entry 191). -/
def State.flHeader (s : State) (node psn : Nat) (f : FrameOut) (apsn : Option Nat) : Nat :=
  let use (on : Bool) (v i w : Nat) : Nat := (if on then v else Config.frameField s.free i) % 2 ^ w
  let data := f.ty == 1
  let inst := data || f.ty == 3 || f.ty == 4
  1 + f.ty * 2 ^ 4 + b2n (anyBad f.payload) * 2 ^ 12 + b2n f.last * 2 ^ 13 + b2n apsn.isSome * 2 ^ 14
    + b2n (s.slowMark f) * 2 ^ 15 + s.freg FR.FL_NODE_ID % 2 ^ 16 * 2 ^ 16 + node % 2 ^ 16 * 2 ^ 32
    + f.payload.length % 2 ^ 16 * 2 ^ 48 + use inst psn 0 32 * 2 ^ 64 + use apsn.isSome (apsn.getD 0) 1 32 * 2 ^ 96
    + s.freg FR.FL_BOOT_EPOCH % 2 ^ 16 * 2 ^ 128 + (if data then f.phase % 16 else Config.frameField s.free 2 % 3) * 2 ^ 144
    + use inst f.cid 3 12 * 2 ^ 148 + use inst f.cseq 4 32 * 2 ^ 160 + use inst f.rank 5 16 * 2 ^ 192
    + use data f.offset 6 48 * 2 ^ 208

/-- The poison map of a payload (R376): bit i marks 64-byte unit i. -/
def poisonMap (bs : List PByte) : Nat :=
  ((List.range 64).map (fun i => b2n (anyBad ((bs.drop (64 * i)).take 64)) * 2 ^ i)).sum

/-- Header, payload, poison map where a unit is poisoned, and CRC-32C over them (R376). -/
def State.flFrame (s : State) (node psn : Nat) (f : FrameOut) (apsn : Option Nat) : List Byte :=
  let b := leBytes 32 (s.flHeader node psn f apsn) ++ plain f.payload ++
    (if anyBad f.payload then leBytes 8 (poisonMap f.payload) else [])
  b ++ leBytes 4 (crc32c b)

/-- The sum of the 16-bit words of bytes in network order, an odd last byte filled up with zero. -/
def sum16 : List Byte → Nat
  | [] => 0
  | [a] => 256 * a.toNat
  | a :: b :: l => 256 * a.toNat + b.toNat + sum16 l

/-- A sum folded to 16 bits with end-around carry. -/
def fold16 (x : Nat) : Nat := if x = 0 then 0 else (x - 1) % 65535 + 1

/-- The UDP checksum over IPv6 (R375), of the source, the destination, and the datagram with its checksum field zero. -/
def udpChecksum (src dst dgram : List Byte) : Nat :=
  let c := 65535 - fold16 (sum16 (src ++ dst ++ beBytes 4 dgram.length ++ beBytes 4 17 ++ dgram))
  if c = 0 then 65535 else c

/-- The flow label (R375): the low 20 bits of the CRC-32C of the source and the destination node numbers. -/
def State.flowLabel (s : State) (node : Nat) : Nat :=
  crc32c (leBytes 2 (s.freg FR.FL_NODE_ID) ++ leBytes 2 node) % 2 ^ 20

/-- The IPv6 header and the UDP datagram around a Flagen frame (R375); DATA is sent as ECT(0) (R383). -/
def State.udpPacket (s : State) (node psn ty : Nat) (fr : List Byte) : List Byte :=
  let cfg := s.freg FR.FL_UDP_CFG
  let src := beBytes 8 (s.freg FR.FL_SRC_IP_HI) ++ beBytes 8 (s.freg FR.FL_SRC_IP_LO)
  let dst := beBytes 16 (bits (s.route node) 255 128)
  let n := 8 + fr.length
  let dgram (c : Nat) : List Byte := beBytes 2 (0xC000 + psn % 16) ++ beBytes 2 (bits cfg 31 16) ++ beBytes 2 n ++ beBytes 2 c ++ fr
  beBytes 4 (6 * 2 ^ 28 + (bits cfg 7 2 * 4 + (if ty = 1 then 2 else 0)) * 2 ^ 20 + s.flowLabel node) ++ beBytes 2 n
    ++ [17, 64] ++ src ++ dst ++ dgram (udpChecksum src dst (dgram 0))

/-- The IEEE 802.1Q tag that FL_VLAN sets (R375). -/
def State.vlanTag (s : State) : List Byte :=
  let v := s.freg FR.FL_VLAN
  if bitB v 16 then beBytes 2 0x8100 ++ beBytes 2 (bits v 15 13 * 2 ^ 13 + bits v 11 0) else []

/-- The Ethernet frame around a Flagen frame (R375), up to the check sequence that the interface's standard puts behind it. -/
def State.etherFrame (s : State) (node psn ty : Nat) (fr : List Byte) : List Byte :=
  let macs := beBytes 6 (bits (s.route node) 127 80) ++ beBytes 6 (s.freg FR.FL_SRC_MAC)
  if s.routeUdp node then macs ++ s.vlanTag ++ beBytes 2 0x86DD ++ s.udpPacket node psn ty fr
  else macs ++ s.vlanTag ++ beBytes 2 (s.freg FR.FL_ETYPE) ++ fr

/-- Frame f leaves for a node on interface k, or in loopback waits for this chip's own receive path (R375, R405). -/
def State.emit (s : State) (k node psn : Nat) (f : FrameOut) (apsn : Option Nat) : State :=
  let s := s.count FR.FL_TX_PKT_CNT
  if s.flLoop then { s with fl := { s.fl with loop := s.fl.loop ++ [{ psn, frame := f, apsn, slow := s.slowMark f }] } }
  else State.draw { s with fl := { s.fl with
    wire := (k, s.etherFrame node psn f.ty (s.flFrame node psn f apsn)) :: s.fl.wire } }

/-- A payload of n bytes whose layout the spec does not give (log entry 191), from its contents packed into one number. -/
def openPayload (ty n x : Nat) : List PByte := clean ((List.range n).map (Config.frameByte ty x))

/-- A frame of a type with such a payload of n bytes, which says x. -/
def openFrame (ty n x : Nat) : FrameOut :=
  { ty, cid := 0, cseq := 0, len := n, last := true, payload := openPayload ty n x, told := x }

/-- The interface by which a frame that takes no PSN leaves for a node now. -/
def State.clearLink (s : State) (node : Nat) : Option Nat :=
  if s.flLoop then some 0 else (s.linkSet node).find? (fun k => !s.ifPaused k)

/-- A frame that takes no PSN (HELLO, ACK) leaves for a node, where a link is free. Its source port is free (log entry
191). -/
def State.emitPlain (s : State) (node : Nat) (f : FrameOut) (apsn : Option Nat) : State :=
  if !s.flEn then s
  else match s.clearLink node with
    | some k => s.emit k node (Config.frameField s.free 0) f apsn
    | none => s

/-! ### Sending (R382, R383) -/

/-- The interface by which the frame with PSN psn leaves for a node (R382): none while no interface reaches it (R378) or
that one is paused (R383). -/
def State.psnLink (s : State) (node psn : Nat) : Option Nat :=
  if s.flLoop then some 0
  else
    let ls := s.linkSet node
    (ls[psn % max ls.length 1]?).filter (fun k => !s.ifPaused k)

/-- Whether the next frame of a context may go out: room in the window, which never exceeds its ceiling (R383), and room in
the 256-packet map (R382). -/
def State.maySend (s : State) (x : Ctx) (f : FrameOut) : Bool :=
  let room := match x.unacked with
    | [] => true
    | u :: _ => psnDiff x.txNext u.psn < 256
  room && decide (((x.flight + f.len : Nat) : Rat) ≤ min x.cwnd (s.winCeil x))

/-- A frame sent again (R382) by an interface. -/
def State.resend (s : State) (k node : Nat) (u : Sent) : State :=
  let s := (s.emit k node u.psn u.frame none).count FR.FL_RETX_CNT
  if u.frame.phase = 2 then s.count FR.CE_CATCHUP_BYTES_CNT u.frame.len else s

/-- The frames of a list that are due again and whose interfaces are free leave; the list says which are still due. -/
def State.resendList (node : Nat) : List Sent → State → State × List Sent
  | [], s => (s, [])
  | u :: us, s =>
    match (if u.due && s.flEn then s.psnLink node u.psn else none) with
    | some k =>
      let r := State.resendList node us (s.resend k node u)
      (r.1, { u with due := false } :: r.2)
    | none =>
      let r := State.resendList node us s
      (r.1, u :: r.2)

/-- The frames of a context that are to be sent again go out as far as they may (R382). -/
def State.resendDue (s : State) (node : Nat) : State :=
  let x := s.ctxOf node
  if x.unacked.any (·.due) then
    let r := State.resendList node x.unacked s
    r.1.setCtx node { x with unacked := r.2 }
  else s

/-- Frames of a context go out as far as they may; the first argument bounds them. -/
def State.pumpCtx (node : Nat) : Nat → State → State
  | 0, s => s
  | fuel + 1, s =>
    let x := s.ctxOf node
    match x.st, x.queue, s.psnLink node x.txNext with
    | .up, f :: rest, some k =>
      if s.flEn && s.maySend x f then
        let t := s.touchCtx node
        if !t.2 then t.1
        else
          let s := t.1.emit k node x.txNext f none
          let s := if f.phase = 2 then s.count FR.CE_CATCHUP_BYTES_CNT f.len else s
          State.pumpCtx node fuel (s.setCtx node
            { x with queue := rest, txNext := (x.txNext + 1) % 2 ^ 32
                     unacked := x.unacked ++ [{ psn := x.txNext, frame := f }] })
      else s
    | _, _, _ => s

/-- Whether frames of a context wait to leave, for the first time or again. -/
def Ctx.waiting (x : Ctx) : Bool := !x.queue.isEmpty || x.unacked.any (·.due)

/-- Whatever waits for a node goes out: what is to be sent again first. -/
def State.flushNode (s : State) (node : Nat) : State :=
  let s := (if (s.ctxOf node).waiting then s.askRoute node else s).resendDue node
  State.pumpCtx node (s.ctxOf node).queue.length s

/-- Frames that wait for a link or for an end of a pause go out: the nodes with a context, in order. -/
def State.flushAll (s : State) : State :=
  s.fl.ctx.foldl (fun (s : State) (e : Nat × Ctx) => if e.2.waiting then s.flushNode e.1 else s) s

/-- The contents of a HELLO of this chip to a node, packed (R380): identity, SYS_ID, boot epoch, node number, version,
payload size, and a receive credit of 1 MiB. -/
def State.helloFields (s : State) : Nat :=
  s.freg FR.FL_CHIP_ID % 2 ^ 64 + s.freg FR.SYS_ID % 2 ^ 32 * 2 ^ 64 + s.freg FR.FL_BOOT_EPOCH % 2 ^ 32 * 2 ^ 96
    + s.freg FR.FL_NODE_ID % 2 ^ 16 * 2 ^ 128 + 1 * 2 ^ 144 + s.flPayload * 2 ^ 160 + 0x100000 * 2 ^ 192

/-- A HELLO frame goes out, where the cache has room for the context (R379) and a link reaches the node (R380). -/
def State.sendHello (s : State) (node : Nat) : State :=
  let t := (s.askRoute node).touchCtx node
  if t.2 then t.1.emitPlain node (openFrame 0 32 t.1.helloFields) none else t.1

/-- Contexts that waited for the cache are tried again (R379): a hello, or the frames of a context that is UP. -/
def State.pumpFull (s : State) : State :=
  s.fl.full.foldl (fun s k =>
    let x := s.ctxOf k
    if x.st = .hello then s.sendHello k else if x.queue.isEmpty then s.unfull k else s.flushNode k) s

/-- A context becomes UP: a new congestion state (R383). -/
def State.ctxUp (s : State) (node : Nat) : State :=
  let x := s.ctxOf node
  let x := { x with st := .up, alpha := 0, roundEnd := x.txNext, roundBytes := 0, roundCe := 0, timeouts := 0 }
  (s.setCtx node { x with
    cwnd := s.clampWin x ((bits (s.freg FR.FL_CC_CFG) 15 8 * 4096 : Nat) : Rat) }).flushNode node

/-- A hello starts with a context that keeps only what waits in `queue` (R380, R381). -/
def State.startHello (s : State) (node : Nat) (queue : List FrameOut) : State :=
  ((s.setCtx node { st := .hello, queue := queue }).unfull node).sendHello node

/-- Whether a replay runs, which discards what the engine sends (R367, R405). -/
def State.replaying (s : State) : Bool :=
  match s.rx.job with
  | some j => decide (j.desc.toNat % 256 = 4) && j.ended.isNone
  | none => false

/-- A frame handed to the transport for a node; the first traffic to a peer starts a hello (R380, R382). -/
def State.sendFrame (s : State) (node : Nat) (f : FrameOut) : State :=
  let x := s.ctxOf node
  if s.replaying then s
  else match x.st with
  | .idle | .lost => s.startHello node [f]
  | .hello => s.setCtx node { x with queue := x.queue ++ [f] }
  | .up => (s.setCtx node { x with queue := x.queue ++ [f] }).flushNode node

/-- Frames handed to the transport in order. -/
def State.sendFrames (s : State) (node : Nat) (fs : List FrameOut) : State :=
  fs.foldl (fun s f => s.sendFrame node f) s

/-! ### Receiving (R376, R381, R382) -/

/-- A frame that is dropped as damaged or malformed (R376). -/
def State.dropFrame (s : State) : State := s.count FR.FL_CRC_DROP_CNT

/-- The map after its first entry was received: how far the cumulative point moves, and the map from there. -/
def advanceMap : Nat → NSet → Nat × NSet
  | 0, m => (1, m)
  | fuel + 1, m =>
    let m' : NSet := List.map (fun k => k - 1) m
    if NSet.has m' 0 then
      let r := advanceMap fuel (NSet.del m' 0)
      (r.1 + 1, r.2)
    else (1, m')

/-- A PSN accepted by a context, or none for a duplicate or one beyond the map (R382). -/
def Ctx.accept (x : Ctx) (psn : Nat) : Option Ctx :=
  let d := psnDiff psn x.rxCum
  if 256 ≤ d || x.rxMap.has d then none
  else if d = 0 then
    let r := advanceMap 256 x.rxMap
    some { x with rxCum := (x.rxCum + r.1) % 2 ^ 32, rxMap := r.2 }
  else some { x with rxMap := x.rxMap.add d }

/-- The selective map of a context from its cumulative point on, as a number (R382). -/
def Ctx.mapBits (x : Ctx) : Nat := ((x.rxMap.filter (· < 256)).map (fun k => 2 ^ k)).sum

/-- An ACK frame of a context (R382): the map, the acknowledged bytes that arrived marked, and the credit. -/
def Ctx.ackFrame (x : Ctx) : FrameOut := openFrame 2 40 (x.mapBits + x.owedCe * 2 ^ 256 + 0x100000 * 2 ^ 320)

/-- An ACK goes out (R382), where a link is free. -/
def State.sendAck (s : State) (node : Nat) : State :=
  if !s.flEn || (s.clearLink node).isNone then s
  else
    let x := s.ctxOf node
    State.pumpFull ((s.setCtx node { x with owed := 0, owedCe := 0 }).emitPlain node x.ackFrame (some x.rxCum))

/-- The end of a congestion round (R383). -/
def State.endRound (s : State) (node : Nat) (x : Ctx) : Ctx :=
  let f : Rat :=
    if s.routeUdp node then (if x.roundBytes = 0 then 0 else (x.roundCe : Rat) / (x.roundBytes : Rat))
    else if bits (s.freg FR.FL_CC_CFG) 31 24 * 1000 < x.srtt then 1 else 0
  let alpha := x.alpha + (f - x.alpha) / 16
  let w := if 0 < f then x.cwnd * (1 - alpha / 2) else x.cwnd + (s.flPayload : Rat)
  { x with alpha, cwnd := s.clampWin x w, roundEnd := x.txNext, roundBytes := 0, roundCe := 0 }

/-- Whether a sent frame is acknowledged by the cumulative point `a` and the selective map from it on. -/
def ackedBy (a : Nat) (map : BitVec 256) (u : Sent) : Bool :=
  let d := psnDiff u.psn a
  decide (2 ^ 31 ≤ d) || (decide (d < 256) && map.getLsbD d)

/-- How many later frames the map shows as received beyond one that it shows missing. -/
def laterSeen (a : Nat) (map : BitVec 256) (u : Sent) : Nat :=
  ((List.range 256).filter (fun i => psnDiff u.psn a < i && map.getLsbD i)).length

/-- An acknowledgement taken by a context in UP: frames leave, frames the map shows missing behind three later
ones are resent, and a round may end (R382, R383). -/
def State.takeAck (s : State) (node a : Nat) (map : BitVec 256) (ce : Nat) : State :=
  let x := s.ctxOf node
  let gone := x.unacked.filter (ackedBy a map)
  let left := x.unacked.filter (fun u => !ackedBy a map u)
  let left := left.map (fun u =>
    if !u.resent && 3 ≤ laterSeen a map u then { u with resent := true, due := true } else u)
  let passed := decide (0 < psnDiff a x.roundEnd) && decide (psnDiff a x.roundEnd < 2 ^ 31)
  let x : Ctx := { x with
    unacked := left, roundBytes := x.roundBytes + (gone.map (fun u => u.frame.len)).sum, roundCe := x.roundCe + ce
    timeouts := if gone.isEmpty then x.timeouts else 0 }
  let x : Ctx := { x with cwnd := s.clampWin x x.cwnd }
  let s := s.setCtx node (if passed then s.endRound node x else x)
  (s.flushNode node).pumpFull

/-- What a received DATA, READY, ABORT or ACK frame does at the transport: dropped, the peer's reset noticed, or
taken. -/
inductive RxRes where
  | dropped (s : State)
  | peerReset (s : State)
  | taken (s : State)

/-- Whether the outer part of a frame is well formed (R376). -/
def frameOk (h : FrameIn) : Bool := h.intact && !h.badType && h.ver == 1 && h.rsvd == 0 && h.phase.toNat ≤ 2

/-- A frame of UDP/IPv6 that arrives marked is counted (R383). -/
def State.countCe (s : State) (h : FrameIn) : State :=
  if h.ce && s.routeUdp h.src.toNat then s.count FR.FL_ECN_CNT else s

/-- Whether frames of a node are dropped because two identities were seen on its number (R381): until software has cleared
FL_STATUS.node_conflict and the entry no longer reads as it did (log entry 156). -/
def State.clashed (s : State) (node : Nat) : Bool :=
  match s.fl.clash.find? (fun e => e.1 == node) with
  | some e => bitB (s.freg FR.FL_STATUS) 3 || s.route node == e.2
  | none => false

/-- Whether a node's number has shown two identities. -/
def State.hasClash (s : State) (node : Nat) : Bool := s.fl.clash.any (fun e => e.1 == node)

/-- A node whose number shows two identities from now on, or no more (R381). -/
def State.setClash (s : State) (node : Nat) (old : Option Nat) : State :=
  let rest := s.fl.clash.filter (fun e => e.1 != node)
  { s with fl := { s.fl with clash := match old with
    | some r => (node, r) :: rest
    | none => rest } }

/-- A frame other than HELLO arrives (R376, R381, R382). With `seq` it takes a PSN of the context. -/
def State.arrive (s : State) (h : FrameIn) (seq : Bool) (len : Nat) : RxRes :=
  let node := h.src.toNat
  if !s.flEn then .dropped s
  else if !frameOk h then .dropped s.dropFrame
  else
    let s := s.countCe h
    let x := s.ctxOf node
    if x.st ≠ .up || s.clashed node then .dropped s
    else if x.epoch % 65536 ≠ h.epoch.toNat then .peerReset s
    else
      let t := s.touchCtx node
      if !t.2 then .dropped s
      else
        let s := t.1
        let s := match h.apsn with
          | some a => s.takeAck node a.toNat 0 0
          | none => s
        if !seq then .taken (s.count FR.FL_RX_PKT_CNT)
        else match (s.ctxOf node).accept h.psn.toNat with
          | none => .dropped s
          | some x =>
            let x := { x with owed := x.owed + 1, owedCe := x.owedCe + (if h.ce then len else 0) }
            let s := (s.setCtx node x).count FR.FL_RX_PKT_CNT
            .taken (if 8 ≤ x.owed then s.sendAck node else s)

/-- What a HELLO does: nothing more, or it shows that the peer has been reset (R381). -/
inductive HelloRes where
  | done (s : State)
  | peerReset (s : State)

/-- What a context learns from a peer's HELLO. -/
def Ctx.hear (x : Ctx) (hi : HelloIn) : Ctx :=
  { x with chip := hi.chip.toNat, epoch := hi.epoch.toNat, heard := true, credit := hi.credit,
           acked := x.acked || hi.acked }

/-- The hello completes when the peer's HELLO has come and this chip's own is acknowledged (R380). -/
def State.helloDone (s : State) (node : Nat) : State :=
  let x := s.ctxOf node
  if x.st = .hello && x.heard && x.acked then s.ctxUp node else s

/-- A HELLO arrives (R380, R381). -/
def State.hello (s : State) (h : FrameIn) (hi : HelloIn) : HelloRes :=
  let node := h.src.toNat
  if !s.flEn then .done s
  else if !frameOk h || hi.version ≠ 1 then .done s.dropFrame
  else
    let s := s.countCe h
    let t := s.touchCtx node
    if s.clashed node || !t.2 then .done s
    else
      let x := s.ctxOf node
      let ack (s : State) : State := s.emitPlain node (s.ctxOf node).ackFrame (some (s.ctxOf node).rxCum)
      let join (s : State) : State := ((s.setCtx node ((s.ctxOf node).hear hi)).helloDone node |> ack)
      let got := t.1.count FR.FL_RX_PKT_CNT
      if s.hasClash node then .done (join ((got.setClash node none).startHello node x.queue))
      else match x.st with
      | .idle | .lost => .done (join (got.startHello node []))
      | .hello =>
        if x.heard && x.chip ≠ hi.chip.toNat then
          .done ((got.orFreg FR.FL_STATUS 8).setClash node (some (s.route node)))
        else .done (join got)
      | .up =>
        if x.chip ≠ hi.chip.toNat || x.epoch % 65536 ≠ hi.epoch.toNat % 65536 then .peerReset (join (got.startHello node []))
        else .done (ack got)

/-- A context is lost (R382); the instances that involve the peer are the Parade engine's concern. -/
def State.loseCtx (s : State) (node : Nat) : State :=
  let s := (s.setCtx node { st := .lost }).unfull node
  (((s.count FR.FL_PEER_LOST_CNT).orFreg FR.FL_STATUS 2).logEvent 0x0601 node 3 0 0 0)

/-- A retransmission timer expires (R382, R383): none where nothing waits, or what
waited for a route goes out only now (R378); else whether the peer is lost. -/
def State.retransmit (s : State) (node : Nat) : State × Bool :=
  let idle := (s.ctxOf node).unacked.isEmpty
  let s := s.flushNode node
  let x := s.ctxOf node
  if x.st ≠ .up || (x.unacked.isEmpty && x.queue.isEmpty) || (idle && !x.unacked.isEmpty) then (s, false)
  else
    let s := s.count FR.FL_TIMEOUT_CNT
    let x := { x with timeouts := x.timeouts + 1, cwnd := s.clampWin x 4096 }
    let s := s.setCtx node x
    if 8 ≤ x.timeouts then (s, true)
    else match x.unacked with
      | u :: us => ((s.setCtx node { x with unacked := { u with due := true } :: us }).resendDue node, false)
      | [] => (s, false)

/-- FL_STATUS (R407): the sticky bits are held, the rest computed. -/
def State.flStatus (s : State) : Nat :=
  (s.freg FR.FL_STATUS &&& 10) + b2n s.anyIfUp + 4 * b2n (!s.fl.full.isEmpty)

end Sys2Proof.Machine
end

