-- ==== Sys2Proof/Machine/Parade.lean ====
section
/-! DEFINITION. The Parade engine (R385 to R405): arming, instances, READY, reductions, completion, aborts and
detachment. What a member receives is taken as the messages of the other ranks: a contribution in a reducing operation, a
block or the message otherwise (log entry 16). -/

namespace Sys2Proof.Machine

/-! ### Accesses of the engine (R394) -/

/-- One access of the engine for collective `who`; one that waited on a request that was refused fails once (R264, R394). -/
def State.ceAccess {α : Type} (s : State) (who : Nat) (a : Access) (k : State → AccRes α) : HRes α :=
  match s.ce.refused.find? (fun w => w.is who a) with
  | some w => .fail { s with ce := { s.ce with refused := s.ce.refused.erase w } } 1 a.va
  | none => match k s with
    | .ok s v => .ok s v
    | .wait s why => .wait { s with ce := { s.ce with waits := joinWait s.ce.waits who a why } }
    | .fault s w => .fail s w a.va
    | .range s => .fail s 1 a.va

/-- Reads of the engine for a collective, cut at 4 KiB boundaries; the first argument bounds the pieces. -/
def State.ceReadAux (who : Nat) (cls : Fin 8) : Nat → Nat → Nat → List PByte → State → HRes (List PByte)
  | 0, _, _, acc, s => .ok s acc
  | fuel + 1, va, n, acc, s =>
    if n = 0 then .ok s acc
    else
      let m := min n (4096 - va % 4096)
      (s.ceAccess who { agent := .parade, va } (fun s => s.vread { agent := .parade, va } m cls)).bind (fun s d =>
        State.ceReadAux who cls fuel (va + m) (n - m) (acc ++ d) s)

/-- n bytes read by the engine, with their poison. -/
def State.ceReadP (s : State) (who : Nat) (cls : Fin 8) (va n : Nat) : HRes (List PByte) :=
  State.ceReadAux who cls (n / 4096 + 2) va n [] s

/-- n bytes of a table read by the engine; poisoned ones cannot be used. -/
def State.ceRead (s : State) (who : Nat) (cls : Fin 8) (va n : Nat) : HRes (List Byte) :=
  (s.ceReadP who cls va n).bind (fun s d => if anyBad d then .fail s 11 va else .ok s (plain d))

/-- Writes of the engine, cut as reads are. -/
def State.ceWriteAux (who : Nat) (cls : Fin 8) : Nat → Nat → List PByte → State → HRes Unit
  | 0, _, _, s => .ok s ()
  | fuel + 1, va, bs, s =>
    if bs.isEmpty then .ok s ()
    else
      let m := min bs.length (4096 - va % 4096)
      (s.ceAccess who { agent := .parade, va, write := true } (fun s =>
        s.vwrite { agent := .parade, va, write := true } (bs.take m) cls)).bind (fun s _ =>
        State.ceWriteAux who cls fuel (va + m) (bs.drop m) s)

/-- Bytes written by the engine. -/
def State.ceWrite (s : State) (who : Nat) (cls : Fin 8) (va : Nat) (bs : List PByte) : HRes Unit :=
  State.ceWriteAux who cls (bs.length / 4096 + 2) va bs s

/-- Where a write of the engine at an address would go: none for what is no memory of the device or the host (R394). -/
def State.ceReach (s : State) (who va : Nat) : HRes (Option Phys) :=
  let a : Access := { agent := .parade, va, write := true }
  s.ceAccess who a (fun s => match s.translate a with
    | (s, .phys p) => .ok s (some p)
    | (s, .own _ _) => .ok s none
    | (s, .wait why) => .wait s why
    | (s, .fault r) => .fault s r)

/-- Bytes written as far as they can be at once: where an aborted instance was about to write (R402). -/
def State.ceSpoil (cls : Fin 8) : Nat → Nat → List PByte → State → State
  | 0, _, _, s => s
  | fuel + 1, va, bs, s =>
    if bs.isEmpty then s
    else
      let m := min bs.length (4096 - va % 4096)
      let s := match s.vwrite { agent := .parade, va, write := true } (bs.take m) cls with
        | .ok s () => s
        | _ => s
      State.ceSpoil cls fuel (va + m) (bs.drop m) s

/-! ### Descriptors and groups (R385 to R387) -/

/-- A field of the descriptor of an instance. -/
def Inst.f (i : Inst) (hi lo : Nat) : Nat := bits i.desc.toNat hi lo
/-- op. -/
def Inst.op (i : Inst) : Nat := i.f 7 0
/-- count. -/
def Inst.count (i : Inst) : Nat := i.f 111 64
/-- root. -/
def Inst.root (i : Inst) : Nat := i.f 431 416
/-- det. -/
def Inst.det (i : Inst) : Bool := i.forced || i.f 16 16 == 1
/-- harvest. -/
def Inst.harvest (i : Inst) : Bool := i.f 17 17 == 1
/-- layer. -/
def Inst.layer (i : Inst) : Nat := i.f 57 48
/-- The traffic class of the instance's accesses. -/
def Inst.cls (i : Inst) : Fin 8 := ⟨i.f 30 28 % 8, by omega⟩
/-- The source format; RAW operands are bytes. -/
def Inst.srcFmt (i : Inst) : Fmt := if i.f 23 20 = 0 then .fp32 else .bf16
/-- The destination format. -/
def Inst.dstFmt (i : Inst) : Fmt := if i.f 27 24 = 0 then .fp32 else .bf16
/-- A reducing operation. -/
def Inst.reduces (i : Inst) : Bool := i.op == 1 || i.op == 2

/-- The algorithm that runs (R386). -/
def Inst.algo (i : Inst) : Nat :=
  let a := i.f 15 12
  if a ≠ 0 then a else if 4 ≤ i.op then 4 else if 64 < i.n then 3 else 1

/-- The algorithms of each operation (R386). -/
def opAlgos (op : Nat) : List Nat :=
  ([[], [1, 2, 3], [1, 3], [1, 3], [2, 4], [4], [4], [4]] : List (List Nat)).getD op []

/-- The checks of a descriptor by itself (R385, R386, R394). -/
def Inst.fieldsOk (i : Inst) : Bool :=
  i.desc.toNat / 2 ^ 432 == 0 && i.f 415 384 == 0 && i.f 127 112 == 0 && i.f 63 58 == 0 && i.f 31 31 == 0
    && i.f 19 19 == 0 && i.f 383 377 == 0 && i.f 319 313 == 0 && i.f 255 249 == 0 && i.f 191 185 == 0
    && i.f 325 320 == 0 && i.f 258 256 == 0
    && 1 ≤ i.op && i.op ≤ 7 && i.f 11 8 ≤ 1 && i.f 15 12 ≤ 4
    && [0, 1, 7].contains (i.f 23 20) && [0, 1, 7].contains (i.f 27 24)

/-- The checks of the operands against the operation and the group (R386). -/
def Inst.operandsOk (i : Inst) : Bool :=
  (opAlgos i.op).contains i.algo
    && (if i.reduces then i.f 23 20 ≤ 1 && i.f 27 24 ≤ 1 else i.f 23 20 == 7 && i.f 27 24 == 7 && i.count % 4 == 0)
    && (i.op != 2 || i.count % i.n == 0)
    && (!i.harvest || (i.op == 1 && i.f 11 8 == 0))
    && (i.f 18 18 == 0 || (i.reduces && i.f 27 24 == 0))
    && (!([4, 6, 7] : List Nat).contains i.op || i.root < i.n)

/-- The checks of a group entry (R387). -/
def groupOk (e : Nat) : Bool :=
  bitB e 63 && e / 2 ^ 128 == 0 && bits e 62 49 == 0 && bits e 31 16 == 0 && 1 ≤ bits e 48 32
    && bits e 48 32 ≤ 65536 && bits e 15 0 < bits e 48 32 && bits e 127 121 == 0 && !bitB e 64

/-- The bytes of this member's source operand (R386). -/
def Inst.ownLen (i : Inst) : Nat :=
  match i.op with
  | 1 | 2 => i.count * i.srcFmt.esize
  | 3 | 6 => i.count
  | 4 => if i.me = i.root then i.count else 0
  | 5 => i.n * i.count
  | _ => 0

/-- The bytes of one member's message to this chip. -/
def Inst.msgLen (i : Inst) : Nat := if i.reduces then i.count * i.srcFmt.esize else i.count

/-- The place of rank r in the tree of a broadcast or of another operation (R395). -/
def Inst.treeAt (i : Inst) (r : Nat) : Nat := if i.op = 4 then (r + i.n - i.root) % i.n else r

/-- Whether rank r is a neighbour of this member in the algorithm (R395), or takes part in its deterministic
reduction (R396). -/
def Inst.isPeer (i : Inst) (r : Nat) : Bool :=
  let m := i.me
  let n := i.n
  let b := m / 64 * 64
  let bn := min n (b + 64) - b
  let col := (n - m % 64 + 63) / 64
  r != m && r < n &&
    ((i.det && i.reduces && (r / 64 == m / 64 || r % 64 == m % 64)) ||
      match i.algo with
      | 1 => r == (m + 1) % n || r == (m + n - 1) % n
      | 2 =>
        let u := i.treeAt m
        let v := i.treeAt r
        (v != 0 && (v - 1) / 2 == u) || (u != 0 && (u - 1) / 2 == v)
      | 3 =>
        r == b + (m - b + 1) % bn || r == b + (m - b + bn - 1) % bn ||
          r == m % 64 + 64 * ((m / 64 + 1) % col) || r == m % 64 + 64 * ((m / 64 + col - 1) % col)
      | _ =>
        match i.op with
        | 5 => true
        | 4 => m == i.root || r == i.root
        | _ => r == i.root)

/-- The ranks with which this member exchanges data, and hence READY frames (R392). -/
def Inst.peers (i : Inst) : List Nat := (List.range i.n).filter i.isPeer

/-- Whether this member sends data to rank r in a broadcast, an all-to-all or a send. -/
def Inst.feeds (i : Inst) (r : Nat) : Bool :=
  match i.op with
  | 7 => false
  | 4 => if i.algo = 4 then i.me == i.root else decide (i.treeAt r ≠ 0) && (i.treeAt r - 1) / 2 == i.treeAt i.me
  | _ => true

/-- The ranks whose messages this member needs. -/
def Inst.needs (i : Inst) : List Nat :=
  match i.op with
  | 6 => []
  | 4 => if i.me = i.root then [] else [i.root]
  | 7 => [i.root]
  | _ => (List.range i.n).filter (· != i.me)

/-- The digested fields packed into one number (R392). -/
def Inst.digestFields (i : Inst) : Nat :=
  i.desc.toNat % 2 ^ 28 - i.f 18 18 * 2 ^ 18 + i.layer * 2 ^ 28 + i.count * 2 ^ 38 + i.root * 2 ^ 86 + i.n * 2 ^ 102

/-- The digest of a READY frame (R392). -/
def Inst.digest (i : Inst) : Nat := crc32c (Config.digestBytes i.digestFields)

/-! ### What has arrived -/

/-- Whether a piece belongs to the message of rank r: in a broadcast any sender's copy will do. A reducing operation
takes contributions in phase 0, any other its data in phase 1 or in catch-up (R376, R382). -/
def Inst.pieceOf (i : Inst) (r : Nat) (p : Piece) : Bool :=
  (i.op == 4 || p.rank == r) && (if i.reduces then p.phase == 0 else p.phase != 0)

/-- The byte at a place of a rank's message, if it has arrived. -/
def findByte (k : Nat) : List Piece → Option PByte
  | [] => none
  | p :: ps => if p.offset ≤ k && k < p.offset + p.bytes.length then p.bytes[k - p.offset]? else findByte k ps

/-- The whole message of rank r, if all of it has arrived. -/
def Inst.message (i : Inst) (r : Nat) : Option (List PByte) :=
  let ps := i.data.filter (i.pieceOf r)
  (List.range i.msgLen).mapM (fun k => findByte k ps)

/-- The contribution, block or message of rank r, this member's own included. -/
def Inst.part (i : Inst) (r : Nat) : List PByte :=
  if r = i.me then
    (if i.op = 5 then (i.own.drop (r * i.count)).take i.count else if i.op = 3 then i.own.take i.count else i.own)
  else (i.message r).getD []

/-- The message of an instance to rank r in a broadcast, an all-to-all or a send (R386): in an all-to-all its block, in a
tree what has reached this member, else this member's operand. -/
def Inst.messageTo (i : Inst) (r : Nat) : List PByte :=
  if i.op = 5 then (i.own.drop (r * i.count)).take i.count
  else if i.op = 4 && i.me != i.root then (i.message i.root).getD []
  else i.own

/-! ### Slots -/

/-- The instance in slot k. -/
def State.inst (s : State) (k : Fin 32) : Option Inst := s.ce.slots[k]

/-- Slot k set. -/
def State.setInst (s : State) (k : Fin 32) (i : Option Inst) : State :=
  { s with ce := { s.ce with slots := s.ce.slots.set k i } }

/-- The slots. -/
def allSlots : List (Fin 32) := List.finRange 32

/-- The slot that runs an instance of a descriptor. -/
def State.slotOf (s : State) (cid : Nat) : Option (Fin 32) :=
  allSlots.find? (fun k => match s.inst k with | some i => i.cid == cid | none => false)

/-- The armed descriptor of an index. -/
def State.armedOf (s : State) (cid : Nat) : Option Armed := s.ce.armed.find? (fun a => a.cid == cid)

/-- An exchange of the device's own, which no descriptor describes (R349, R385). -/
def Inst.isOwn (i : Inst) : Bool := 4080 ≤ i.cid

/-- CE_Sn_STATUS.state (R409). -/
def Inst.code (i : Inst) : Nat :=
  match i.ended with
  | some (st, _) => if st = 0 then (if i.detached.isEmpty then 2 else 3) else 4
  | none =>
    if !i.begun || i.peers.any (fun r => !(i.ready.any (fun e => e.1 == r))) then 1
    else if i.detached.isEmpty then 2 else 3

/-- The frames of an instance in a context that are not acknowledged. -/
def State.pendingFrames (s : State) (i : Inst) (r : Nat) : List FrameOut :=
  let x := s.ctxOf (i.nodes.getD r 0)
  (x.unacked.map (·.frame) ++ x.queue).filter (fun f => f.ty == 1 && f.cid == i.cid && f.cseq == i.cseq % 2 ^ 32)

/-- The frames that still wait to be sent. -/
def State.queuedBytes (s : State) (i : Inst) : Nat :=
  (i.fed.map (fun r => (((s.ctxOf (i.nodes.getD r 0)).queue.filter (fun f =>
    f.ty == 1 && f.cid == i.cid && f.cseq == i.cseq % 2 ^ 32)).map (·.len)).sum)).sum

/-- CE_Sn_STATUS (R409). -/
def State.slotWord (s : State) (k : Fin 32) : Nat :=
  match s.inst k with
  | none => 0
  | some i => i.code + i.cid * 2 ^ 20 + i.cseq % 2 ^ 32 * 2 ^ 32

/-- CE_Sn_BYTES (R408). -/
def State.slotBytes (s : State) (k : Fin 32) : Nat :=
  match s.inst k with
  | none => 0
  | some i => i.bytes - s.queuedBytes i

/-- CE_STATUS (R409). -/
def State.ceStatus (s : State) : Nat :=
  s.freg FR.CE_STATUS + b2n (allSlots.any (fun k => (s.inst k).isSome))

/-! ### Ends (R393, R400 to R402) -/

/-- The slowed members that this one records (R401): in operations 1 to 3 itself among them. -/
def Inst.slowAll (i : Inst) : NSet := if i.slowed && 1 ≤ i.op && i.op ≤ 3 then i.slow.add i.me else i.slow

/-- The lowest member of a set, or 0xFFFF_FFFF. -/
def lowest (m : NSet) : Nat := m.headD 0xFFFFFFFF

/-- The 256 bits of a status word (R323). -/
def StatusWord.toNat (w : StatusWord) : Nat :=
  b2n w.nonfinite + 2 * b2n w.poison + w.layer % 1024 * 2 ^ 64 + w.nfRank % 2 ^ 32 * 2 ^ 96
    + w.count % 2 ^ 64 * 2 ^ 128 + w.sumsq * 2 ^ 192

/-- The completion record (R393). -/
def Inst.record (i : Inst) (word : Nat) (status rank : Nat) : Nat :=
  let src := i.op = 4 ∧ i.me = i.root
  let own := i.data.any (fun p => p.phase == 2)
  i.cseq + status * 2 ^ 64 + (if src then i.detached.length else b2n own) * 2 ^ 96
    + (if src then lowest i.detached else if own then i.me else 0xFFFFFFFF) * 2 ^ 128
    + i.slowAll.length * 2 ^ 160 + lowest i.slowAll * 2 ^ 192 + rank % 2 ^ 32 * 2 ^ 224 + word * 2 ^ 256

/-- Deliveries to the Harvest units that the engine owes (R324, R393, R402): each waits while deliveries wait,
and is refused while HV_CTRL.en is 0. The first argument bounds them. -/
def State.ceDeliver : Nat → State → State
  | 0, s => s
  | fuel + 1, s =>
    match s.ce.deliver with
    | [] => s
    | (l, nf, w) :: rest =>
      let next (s : State) : State := State.ceDeliver fuel { s with ce := { s.ce with deliver := rest } }
      if !bitB (s.freg FR.HV_CTRL) 0 then next (s.refuseDelivery l)
      else match s.deliverLayer l nf (fun s _ => .ok s (w, none)) with
        | .wait s => s
        | .refused s => next s
        | .accepted s => next s

/-- The deliveries that wait, tried again. -/
def State.pumpDeliver (s : State) : State := State.ceDeliver s.ce.deliver.length s

/-- The bookkeeping of an instance that has ended, once its record is written. -/
def State.closeInst (s : State) (k : Fin 32) (i : Inst) (status rank : Nat) (word : StatusWord) (nf : Bool) : State :=
  let who := if i.slowAll.isEmpty && i.slowed then [i.me] else i.slowAll
  let s := if who.isEmpty then s else s.logEvent 0x0603 (lowest who) 0 0 i.cid i.cseq
  let s :=
    if status = 0 then s.count FR.CE_DONE_CNT
    else if status = 4 then s
    else ((s.count FR.CE_ABORT_CNT).orFreg FR.CE_STATUS 2).logEvent 0x0604 rank 3 0 status i.cseq
  let s := if bitB (s.freg FR.CE_CTRL) 1 then s.hostEvent 2 else s
  let s := s.setInst k none
  let s := { s with ce := { s.ce with armed := s.ce.armed.filter (fun a => !(a.cid == i.cid && a.disarm)) } }
  if i.harvest && status ≠ 4 then
    State.pumpDeliver { s with ce := { s.ce with deliver := s.ce.deliver ++ [(i.layer, nf, word)] } }
  else s

/-- The word an aborted layer is delivered with (R402). -/
def abortWord (l : Nat) : StatusWord := { poison := true, layer := l }

/-- DATA of an instance that waits to be sent is dropped (R402). -/
def State.dropData (s : State) (i : Inst) : State :=
  i.fed.foldl (fun s r =>
    let node := i.nodes.getD r 0
    let x := s.ctxOf node
    s.setCtx node { x with queue := x.queue.filter (fun f =>
      !(f.ty == 1 && f.cid == i.cid && f.cseq == i.cseq % 2 ^ 32)) }) s

/-- ABORT frames with the status and the rank that caused it, to every other member that has not sent one (R402); none
before the members have been read. -/
def State.sendAborts (s : State) (i : Inst) (status rank : Nat) : State :=
  (List.range i.n).foldl (fun s r =>
    if r = i.me || i.nodes.isEmpty || i.abortSeen.has r then s
    else s.sendFrame (i.nodes.getD r 0)
      { openFrame 4 8 (status % 256 + rank % 2 ^ 32 * 256) with
        cid := i.cid, cseq := i.cseq % 2 ^ 32, rank := i.me }) s

/-- The bytes that an instance writes to dst (R386). -/
def Inst.dstLen (i : Inst) : Nat :=
  match i.op with
  | 1 => i.count * i.dstFmt.esize
  | 2 => i.count / i.n * i.dstFmt.esize
  | 3 | 5 => i.n * i.count
  | 4 | 7 => i.count
  | _ => 0

/-- The destination bytes of an instance that aborts, which R402 calls indeterminate: free values, where they can be
written at all (log entry 198). -/
def State.spoilDst (s : State) (i : Inst) : State :=
  if i.begun && !i.isOwn then
    State.ceSpoil i.cls (i.dstLen / 4096 + 2) (i.f 255 192)
      (clean ((List.range i.dstLen).map (Config.undefByte s.free))) s.draw
  else s

/-- What an engine access that cannot be translated leaves in the registers (R394). -/
def State.noteFault (s : State) (va : Nat) : State := (s.setFreg FR.CE_FAULT_VA (va % 2 ^ 57)).orFreg FR.CE_STATUS 4

/-- The completion record written, bytes 8 to 63 first, and the instance closed (R393); where its page is awaited
the slot waits. A record that cannot be written is left out, and makes an instance that was done one that has aborted with
LOCAL_FAULT (R394, log entry 218). -/
def State.endInst (s : State) (k : Fin 32) (i : Inst) (status rank : Nat) (word : StatusWord) (nf : Bool) : State :=
  let i := { i with ended := some (status, rank), word, nf }
  let comp := i.f 383 320
  let rec64 := leBytes 64 (i.record (if i.reduces && status = 0 then word.toNat else 0) status rank)
  if comp % 64 ≠ 0 || 2 ^ 57 ≤ comp || !i.got then s.closeInst k i status rank word nf
  else
    match (s.ceWrite i.cid i.cls (comp + 8) (clean (rec64.drop 8))).bind (fun s _ =>
        s.ceWrite i.cid i.cls comp (clean (rec64.take 8))) with
    | .ok s () => s.closeInst k i status rank word nf
    | .wait s => s.setInst k (some i)
    | .fail s _ va =>
      if status = 4 then s.closeInst k i status rank word nf
      else if status ≠ 0 then (s.noteFault va).closeInst k i status rank word nf
      else
        let s := ((((s.noteFault va).dropData i).sendAborts i 3 i.me).spoilDst i)
        s.closeInst k i 3 i.me (abortWord i.layer) false

/-! ### The device's own exchange (R349, R353) -/

/-- RC_CTRL.policy. -/
def State.rcPolicy (s : State) : Nat := bits (s.freg FR.RC_CTRL) 3 2

/-- The exchange ends without a check (R353): under halt as if a divergence had been found. -/
def State.endExchange (s : State) (halt : Bool) : State :=
  if halt then State.hostEvent { s with rx := { s.rx with phase := .halted, work := [] } } 4
  else { s with rx := { s.rx with phase := .passed, work := [] } }

/-- The Parade engine aborts the exchange (R353). -/
def State.abortExchange (s : State) (status : Nat) : State :=
  if s.rx.phase = .exchanging ∨ s.rx.phase = .bisecting then
    ((s.orFreg FR.RC_STATUS 0x200).logEvent 0x0503 0 0 0 status 0).endExchange (s.rcPolicy == 2)
  else s

/-- The instance in slot k aborts (R402). -/
def State.abortInst (s : State) (k : Fin 32) (status rank : Nat) : State :=
  match s.inst k with
  | none => s
  | some i =>
    if i.ended.isSome then s
    else
      let i := { i with ended := some (status, rank), bytes := i.bytes - s.queuedBytes i }
      let s := (((s.setInst k (some i)).dropData i).sendAborts i status rank).spoilDst i
      let s := s.endInst k i status rank (abortWord i.layer) false
      if i.isOwn then s.abortExchange status else s

/-- An engine access that cannot be translated aborts the instance with LOCAL_FAULT (R394). -/
def State.localFault (s : State) (k : Fin 32) (va : Nat) : State :=
  let rank := match s.inst k with
    | some i => if i.n = 0 then 0xFFFFFFFF else i.me
    | none => 0
  (s.noteFault va).abortInst k 3 rank

/-- Every instance that involves a node aborts (R381, R382). -/
def State.abortPeer (s : State) (node status : Nat) : State :=
  allSlots.foldl (fun s k =>
    match s.inst k with
    | some i =>
      match i.nodes.findIdx? (· == node) with
      | some r => if r = i.me then s else s.abortInst k status r
      | none => s
    | none => s) s

/-- The notice phase of a floor reset (R403): every running instance aborts with MEMBER_RESET. -/
def State.noticeAll (s : State) : State :=
  allSlots.foldl (fun s k =>
    match s.inst k with
    | some i => s.abortInst k 1 i.me
    | none => s) s

/-! ### The result (R386, R396, R397) -/

/-- Two terms of a list taken and combined until one is left (R396), in an order that nothing fixes. -/
def combineFree (e d : Nat) : Nat → List Nat → Flags → Nat × Flags
  | 0, l, f => (l.headD 0, f)
  | fuel + 1, l, f =>
    match l with
    | [] => (0, f)
    | [v] => (v, f)
    | l =>
      let i := Config.redPick d e (2 * fuel) % l.length
      let l' := l.eraseIdx i
      let j := Config.redPick d e (2 * fuel + 1) % l'.length
      let r := fAdd .fp32 (l.getD i 0) (l'.getD j 0)
      combineFree e d fuel (l'.eraseIdx j ++ [r.1]) (f.or r.2)

/-- One element reduced over the contributions in rank order (R396): the FP32 result and the flags. -/
def Inst.combine (i : Inst) (draw e : Nat) (vs : List Nat) : Nat × Flags :=
  if i.f 11 8 = 1 then ((vs.drop 1).foldl (fMinMax .fp32 true) (vs.headD 0), .none)
  else if i.det then
    let r := treeSum .fp32 vs
    (r.val, r.flags)
  else combineFree e draw vs.length vs .none

/-- One element of the result. -/
structure RedElem where
  val : Nat
  out : Nat
  flags : Flags
  bad : Bool
  deriving DecidableEq, Repr

/-- Element e of a contribution. -/
def Inst.elem (i : Inst) (p : List PByte) (e : Nat) : List PByte :=
  (p.drop (e * i.srcFmt.esize)).take i.srcFmt.esize

/-- Element e reduced, converted to the destination's format, with its poison (R396). -/
def Inst.reduceElem (i : Inst) (draw : Nat) (parts : List (List PByte)) (e : Nat) : RedElem :=
  let xs := parts.map (fun p => i.elem p e)
  let cs := xs.map (fun x => toF32 i.srcFmt (leNat (plain x)))
  let f0 := cs.foldl (fun (f : Flags) c => f.or c.2) .none
  let r := i.combine draw e (cs.map (·.1))
  let o : Nat × Flags := if i.dstFmt = .fp32 then (r.1, .none) else fConvert .fp32 .bf16 .ieee r.1
  { val := r.1, out := o.1, flags := (f0.or r.2).or o.2, bad := xs.any anyBad }

/-- Whether element e of a contribution is non-finite, and whether it is poisoned. -/
def Inst.elemState (i : Inst) (p : List PByte) (e : Nat) : Bool × Bool :=
  (nonFinite i.srcFmt (leNat (plain (i.elem p e))), anyBad (i.elem p e))

/-- The status word folded with the data (R397). -/
def Inst.fold (i : Inst) (parts : List (List PByte)) (rs : List RedElem) : StatusWord :=
  let es := List.range i.count
  let own := parts.map (fun p => es.map (i.elemState p))
  let flagged := own.map (fun l => l.any (fun b => b.1 || b.2))
  { nonfinite := own.any (fun l => l.any (·.1)) || rs.any (fun r => nonFinite .fp32 r.val)
    poison := own.any (fun l => l.any (·.2)) || rs.any (·.bad)
    layer := i.layer
    nfRank := (flagged.findIdx? id).getD 0xFFFFFFFF
    count := rs.length
    sumsq := sumSqOf (rs.map (·.val)) }

/-- The lowest element of this member's own contribution that is non-finite or poisoned (R397). -/
def Inst.nfOffset (i : Inst) : Option Nat :=
  (List.range i.count).find? (fun e => (i.elemState i.own e).1 || (i.elemState i.own e).2)

/-- The bytes of result elements, each poisoned where an input was. -/
def Inst.resultBytes (i : Inst) (rs : List RedElem) : List PByte :=
  rs.flatMap (fun r => (leBytes i.dstFmt.esize r.out).map (fun b => (b, r.bad)))

/-- The elements that this member receives (R386). -/
def Inst.shard (i : Inst) (rs : List RedElem) : List RedElem :=
  if i.op = 2 then (rs.drop (i.me * (i.count / i.n))).take (i.count / i.n) else rs

/-- What this member writes to dst (R386), with the reduced elements. -/
def Inst.result (i : Inst) (draw : Nat) : List RedElem × List PByte :=
  let all := List.range i.n
  match i.op with
  | 1 | 2 =>
    let parts := all.map i.part
    let rs := (List.range i.count).map (i.reduceElem draw parts)
    (rs, i.resultBytes (i.shard rs))
  | 3 | 5 => ([], all.flatMap i.part)
  | 4 | 7 => ([], i.part i.root)
  | _ => ([], [])

/-! ### What a member sends (R386, R395, R396) -/

/-- The elements of the shard that rank q reduces (R386, R396; in the tree everything is rank 0's). -/
def Inst.shardOf (i : Inst) (q : Nat) : List Nat :=
  let lo (q : Nat) : Nat := if i.algo = 2 then (if q = 0 then 0 else i.count) else ceilDiv (q * i.count) i.n
  List.range' (lo q) (lo (q + 1) - lo q)

/-- A ring of an algorithm (R395): its members in order, the owners of the shards that each of them gathers, and the ranks
whose contributions each of them holds when the ring starts. -/
structure Level where
  line : List Nat
  item : Nat → List Nat
  group : Nat → List Nat

/-- The place of a member in a ring. -/
def Level.pos (l : Level) (m : Nat) : Nat := l.line.findIdx (· == m)
/-- The member to which a member of a ring sends. -/
def Level.next (l : Level) (m : Nat) : Nat := l.line.getD ((l.pos m + 1) % max l.line.length 1) m

/-- The ranks of the block of 64 that holds rank m (R387). -/
def Inst.block (i : Inst) (m : Nat) : List Nat := List.range' (m / 64 * 64) (min 64 (i.n - m / 64 * 64))

/-- The ring within this member's block (R395, R396). -/
def Inst.blockRing (i : Inst) : Level :=
  let b := i.block i.me
  { line := b, item := fun p => (List.range i.n).filter (fun q => q % 64 % b.length == p), group := fun p => [b.getD p 0] }

/-- The ring across the members with this one's index in every block. -/
def Inst.columnRing (i : Inst) : Level :=
  let c := (List.range i.n).filter (fun r => r % 64 == i.me % 64)
  { line := c, item := fun p => [c.getD p 0], group := fun p => i.block (c.getD p 0) }

/-- The rings of the algorithm that runs, in the order of the reduce phase (R395). -/
def Inst.rings (i : Inst) : List Level :=
  if i.algo = 3 then [i.blockRing, i.columnRing]
  else if i.algo = 1 then [{ line := List.range i.n, item := fun p => [p], group := fun p => [p] }]
  else []

/-- A step of what a member sends to a peer: its phase, the ranks whose data it needs, and its bytes. -/
structure SendStep where
  phase : Nat
  needs : List Nat
  data : List PByte

/-- The shards of some owners reduced over the contributions of some ranks, as FP32 (log entry 16). -/
def Inst.partSum (i : Inst) (owners ranks : List Nat) : List PByte :=
  let parts := ranks.map i.part
  owners.flatMap (fun q => (i.shardOf q).flatMap (fun e =>
    let r := i.reduceElem i.draw parts e
    (leBytes 4 r.val).map (fun b => (b, r.bad))))

/-- The result of the shards of some owners, as dst takes it (R396), or in an all-gather their blocks. -/
def Inst.gathered (i : Inst) (owners : List Nat) : List PByte :=
  if i.op = 3 then owners.flatMap i.part
  else
    let parts := (List.range i.n).map i.part
    owners.flatMap (fun q => i.resultBytes ((i.shardOf q).map (i.reduceElem i.draw parts)))

/-- A step of the reduce phase: the sums of some owners' shards over some ranks. -/
def Inst.reduceStep (i : Inst) (owners ranks : List Nat) : SendStep :=
  { phase := 0, needs := ranks.filter (· != i.me), data := i.partSum owners ranks }

/-- A step of the gather phase: the result of some owners' shards. -/
def Inst.gatherStep (i : Inst) (owners : List Nat) : SendStep :=
  { phase := 1, needs := (if i.op = 3 then owners else List.range i.n).filter (· != i.me), data := i.gathered owners }

/-- The steps around a ring in the reduce phase (R395): at step t the shard that the member p - 1 - t gathers, with the
contributions that have come so far. -/
def Inst.reduceRing (i : Inst) (l : Level) : List SendStep :=
  let n := l.line.length
  let p := l.pos i.me
  (List.range (n - 1)).map (fun t =>
    i.reduceStep (l.item ((p + 2 * n - 1 - t) % n)) ((List.range (t + 1)).flatMap (fun k => l.group ((p + n - k) % n))))

/-- The steps around a ring in the gather phase (R395). -/
def Inst.gatherRing (i : Inst) (l : Level) : List SendStep :=
  let n := l.line.length
  let p := l.pos i.me
  (List.range (n - 1)).map (fun t => i.gatherStep (l.item ((p + n - t) % n)))

/-- The steps to rank r of a deterministic reduction (R396): within the block the contribution unreduced to each shard
owner, and the block's sums to the owners of its index in the other blocks. -/
def Inst.detSteps (i : Inst) (r : Nat) : List SendStep :=
  let b := i.blockRing
  if r / 64 = i.me / 64 then [i.reduceStep (b.item (b.pos r)) [i.me]]
  else if r % 64 = i.me % 64 then [i.reduceStep [r] b.line] else []

/-- Whether a rank lies in the subtree of another (R395); the first argument bounds the way up. -/
def Inst.under (i : Inst) (m : Nat) : Nat → Nat → Bool
  | 0, r => r == m
  | fuel + 1, r => r == m || (r != 0 && i.under m fuel ((r - 1) / 2))

/-- What a member sends to rank r in the course of an instance, step by step (R395, R396, log entry 16): in a ring to the
next member, in a tree to the parent and then to the children, in the direct algorithm its message. -/
def Inst.plan (i : Inst) (r : Nat) : List SendStep :=
  if i.op = 7 || (i.op = 4 && !i.feeds r) then []
  else if 4 ≤ i.op then
    [{ phase := if i.detached.has r then 2 else 1, needs := if i.op = 4 && i.me != i.root then [i.root] else []
       data := i.messageTo r }]
  else
    let up := i.me ≠ 0 ∧ (i.me - 1) / 2 = r
    let down := r ≠ 0 ∧ (r - 1) / 2 = i.me
    let red :=
      if i.op = 3 then []
      else if i.det then i.detSteps r
      else if i.algo = 2 then (if up then [i.reduceStep [0] ((List.range i.n).filter (i.under i.me 17))] else [])
      else i.rings.flatMap (fun l => if l.next i.me = r then i.reduceRing l else [])
    let gat :=
      if i.op = 2 then []
      else if i.algo = 2 then (if down then [i.gatherStep [0]] else [])
      else i.rings.reverse.flatMap (fun l => if l.next i.me = r then i.gatherRing l else [])
    red ++ gat

/-- How many steps of a plan, from step k on, can go out now: those whose data have come. -/
def Inst.dueSteps (i : Inst) (pl : List SendStep) (k : Nat) : Nat :=
  ((pl.drop k).takeWhile (fun st => st.needs.all (fun q => (i.message q).isSome))).length

/-- The frames of a message cut to the payload size from an offset on (R377); the first argument bounds them. -/
def cutFrames (i : Inst) (phase pay : Nat) : Nat → Nat → List PByte → List FrameOut
  | 0, _, _ => []
  | fuel + 1, off, bs =>
    if bs.isEmpty then []
    else
      let m := min pay bs.length
      { ty := 1, cid := i.cid, cseq := i.cseq % 2 ^ 32, phase, rank := i.me, offset := off, len := m
        last := decide (bs.length ≤ pay), payload := bs.take m } :: cutFrames i phase pay fuel (off + m) (bs.drop m)

/-- The frames of a whole message. -/
def messageFrames (i : Inst) (phase pay : Nat) (bs : List PByte) : List FrameOut :=
  cutFrames i phase pay (bs.length / pay + 1) 0 bs

/-- The frames of step k of a plan: they lie behind those of the earlier steps of the phase, and the last frame of the
phase's last step is marked (R376). -/
def Inst.stepFrames (i : Inst) (pay : Nat) (pl : List SendStep) (k : Nat) : List FrameOut :=
  match pl[k]? with
  | none => []
  | some st =>
    let off := (((pl.take k).filter (fun a => a.phase == st.phase)).map (fun a => a.data.length)).sum
    let fin := !(pl.drop (k + 1)).any (fun a => a.phase == st.phase)
    (cutFrames i st.phase pay (st.data.length / pay + 1) off st.data).map (fun f => { f with last := f.last && fin })

/-! ### Starting (R389 to R392) -/

/-- How the start of an instance ends. -/
inductive SetupRes where
  | wait (s : State) (i : Inst)
  | fault (s : State) (i : Inst) (va : Nat)
  | malformed (s : State) (i : Inst)
  | ok (s : State) (i : Inst)

/-- Whether the pages of n bytes from an address on are all cacheable; the second argument bounds the pages. -/
def State.accPages (who : Nat) : Nat → Nat → Nat → State → HRes Bool
  | 0, _, _, s => .ok s true
  | fuel + 1, va, n, s =>
    if n = 0 then .ok s true
    else
      let m := min n (0x10000 - va % 0x10000)
      (s.ceReach who va).bind (fun s p =>
        match p with
        | some p => if p.cacheable then State.accPages who fuel (va + m) (n - m) s else .ok s false
        | none => .ok s false)

/-- An acc_dst destination is aligned to its elements and lies in cacheable pages (R386). -/
def State.accOk (s : State) (i : Inst) : HRes Bool :=
  if i.f 18 18 = 0 then .ok s true
  else if i.f 255 192 % 4 ≠ 0 then .ok s false
  else State.accPages i.cid (i.dstLen / 0x10000 + 2) (i.f 255 192) i.dstLen s

/-- An instance with its descriptor read. -/
def Inst.withDesc (i : Inst) (bs : List Byte) : Inst := { i with desc := BitVec.ofNat 1024 (leNat bs), got := true }

/-- An instance with the group entry e: the group's size and this member's rank (R387). -/
def Inst.withGroup (i : Inst) (e : Nat) : Inst := { i with n := bits e 48 32, me := bits e 15 0 }

/-- An instance with the node numbers of its members (R387). -/
def Inst.withNodes (i : Inst) (bs : List Byte) : Inst := { i with nodes := elemsOf 2 i.n bs }

/-- An instance that has read its own contribution. -/
def Inst.started (i : Inst) (d : List PByte) : Inst := { i with own := d, begun := true }

/-- The descriptor, the group entry, the members and the source read at the start of an instance (R391, R394). -/
def State.setup (s : State) (i : Inst) : SetupRes :=
  match s.ceRead i.cid 0 (s.freg FR.CE_DESC_BASE + 128 * i.cid) 128 with
  | .wait s => .wait s i
  | .fail s _ va => .fault s i va
  | .ok s bs =>
    let i := i.withDesc bs
    let g := i.f 47 32
    if !i.fieldsOk || s.freg FR.CE_GROUP_CNT ≤ g then .malformed s i
    else match s.ceRead i.cid i.cls (s.freg FR.CE_GROUP_BASE + 64 * g) 64 with
      | .wait s => .wait s i
      | .fail s _ va => .fault s i va
      | .ok s bs =>
        let e := leNat bs
        if !groupOk e then .malformed s i
        else
          let i := i.withGroup e
          match s.ceRead i.cid i.cls (bits e 127 64) (2 * i.n) with
          | .wait s => .wait s i
          | .fail s _ va => .fault s i va
          | .ok s bs =>
            let i := i.withNodes bs
            if i.nodes.getD i.me 0 ≠ s.freg FR.FL_NODE_ID || !i.operandsOk then .malformed s i
            else match s.accOk i with
              | .wait s => .wait s i
              | .fail s _ va => .fault s i va
              | .ok s good =>
                if !good then .malformed s i
                else match s.ceReadP i.cid i.cls (i.f 191 128) i.ownLen with
                  | .wait s => .wait s i
                  | .fail s _ va => .fault s i va
                  | .ok s d => .ok s (i.started d)

/-- The steps of an instance to rank r that can go out now handed to the transport. -/
def State.feedRank (s : State) (k : Fin 32) (r : Nat) : State :=
  match s.inst k with
  | none => s
  | some i =>
    let pl := i.plan r
    let a := i.sent.get (fun _ => 0) r
    let n := i.dueSteps pl a
    if n = 0 then s
    else
      let fs := (List.range n).flatMap (fun j => i.stepFrames s.flPayload pl (a + j))
      (s.setInst k (some { i with
        fed := i.fed.add r, sent := i.sent.set (fun _ => 0) r (a + n), bytes := i.bytes + (fs.map (·.len)).sum })).sendFrames
        (i.nodes.getD r 0) fs

/-- DATA handed to the transport for every peer whose READY is held (R390, R392), as far as the steps of the algorithm can
go out (R395). -/
def State.feedInst (s : State) (k : Fin 32) : State :=
  match s.inst k with
  | none => s
  | some i =>
    if i.begun && i.ended.isNone then
      (i.peers.filter (fun r => i.ready.any (fun e => e.1 == r))).foldl (fun s r => s.feedRank k r) s
    else s

/-- The READYs that an instance holds checked against its own digest (R392): a difference aborts it. -/
def State.checkReady (s : State) (k : Fin 32) : State :=
  match s.inst k with
  | none => s
  | some i =>
    if !i.begun || i.ended.isSome then s
    else match i.ready.find? (fun e => e.2 != i.digest) with
      | some e => (s.orFreg FR.CE_STATUS 8).abortInst k 5 e.1
      | none => s.feedInst k

/-- An instance of a replay (R367): what it would receive comes from the capture, by collective, sequence, rank and offset,
nobody's READY is waited for, and reductions take the deterministic order. -/
def State.fromCapture (s : State) (i : Inst) : Inst :=
  match s.rx.job with
  | some j =>
    if s.replaying then
      let mine := j.payloads.filter (fun p => p.cid == i.cid && p.cseq == i.cseq % 2 ^ 32)
      { i with
        forced := true, ready := i.peers.map (fun r => (r, i.digest))
        data := mine.map (fun p =>
          { rank := p.rank, phase := if i.reduces then 0 else 1, offset := p.offset, bytes := clean p.data }) }
    else i
  | none => i

/-- An instance whose group is known runs while the engine is slowed: CE_SLOW_CNT counts it once (R400). -/
def State.slowInst (s : State) (k : Fin 32) : State :=
  match s.inst k with
  | some i =>
    if i.n ≠ 0 && i.ended.isNone && !i.slowed then (s.setInst k (some { i with slowed := true })).count FR.CE_SLOW_CNT
    else s
  | none => s

/-- READY sent to every peer of the instance in slot k (R392), and those that have come checked. -/
def State.readyInst (s : State) (k : Fin 32) : State :=
  match s.inst k with
  | none => s
  | some i =>
    let s := if bitB (s.freg FR.CE_STATUS) 4 then s.slowInst k else s
    let s := i.peers.foldl (fun s r => s.sendFrame (i.nodes.getD r 0)
      { ty := 3, cid := i.cid, cseq := i.cseq % 2 ^ 32, rank := i.me, len := 4, last := true
        payload := clean (leBytes 4 i.digest), told := i.digest }) s
    s.checkReady k

/-- The start of the instance in slot k goes on (R391, R392, R394). -/
def State.beginInst (s : State) (k : Fin 32) : State :=
  match s.inst k with
  | none => s
  | some i =>
    if i.begun || i.ended.isSome then s
    else match s.setup i with
      | .wait s i => s.setInst k (some i)
      | .fault s i va => (s.setInst k (some i)).localFault k va
      | .malformed s i => s.endInst k i 4 0xFFFFFFFF {} false
      | .ok s i =>
        (s.draw.setInst k (some (s.fromCapture { i with draw := s.free }))).readyInst k

/-- A READY held for an instance as the instance takes it. -/
def HeldReady.pair (h : HeldReady) : Nat × Nat := (h.rank, h.digest)

/-- Instance cseq of descriptor cid as it takes a slot: with the READYs that are held for it (R392). -/
def State.newInst (s : State) (cid cseq : Nat) : Inst :=
  let mine := s.ce.held.filter (fun h => h.cid == cid && h.cseq == cseq % 2 ^ 32)
  { cid, cseq, ready := mine.map HeldReady.pair
    slow := (mine.filter (·.slow)).foldl (fun (m : NSet) h => m.add h.rank) [] }

/-- The READYs held for an instance leave the engine. -/
def State.dropHeld (s : State) (cid cseq : Nat) : State :=
  { s with ce := { s.ce with held := s.ce.held.filter (fun h => !(h.cid == cid && h.cseq == cseq % 2 ^ 32)) } }

/-- Instance cseq of descriptor cid takes a slot (R389, R390). -/
def State.takeSlot (s : State) (k : Fin 32) (cid cseq : Nat) : State :=
  ((s.dropHeld cid cseq).setInst k (some (s.newInst cid cseq))).beginInst k

/-- A free slot. -/
def State.freeInst (s : State) : Option (Fin 32) := allSlots.find? (fun k => (s.inst k).isNone)

/-- Instances that wait take free slots in trigger order (R389); the first argument bounds them. -/
def State.startWaiting : Nat → State → State
  | 0, s => s
  | fuel + 1, s =>
    match s.ce.waitQ, s.freeInst with
    | (cid, q) :: rest, some k =>
      if s.fatal then s
      else
        let s := { s with ce := { s.ce with waitQ := rest } }
        State.startWaiting fuel
          (if (s.armedOf cid).isSome && (s.slotOf cid).isNone then s.takeSlot k cid q else s)
    | _, _ => s

/-- The device's own exchange takes a free slot first (R389), with the READYs that are held for it, and its READYs go out
(R349, R392). -/
def State.startOwn (s : State) : State :=
  match s.ce.mine, s.freeInst with
  | some i, some k =>
    if s.fatal then s
    else
      let h := s.newInst i.cid i.cseq
      let s := State.dropHeld { s with ce := { s.ce with mine := none } } i.cid i.cseq
      (s.setInst k (some { i with ready := h.ready, slow := h.slow })).readyInst k
  | _, _ => s

/-- What a freed slot lets start. -/
def State.pumpSlots (s : State) : State :=
  let s := s.startOwn
  State.startWaiting s.ce.waitQ.length s

/-- The engine looks at the trigger word of a descriptor (R389): an instance starts, or waits for a slot. A start
that had to wait goes on. -/
def State.trigger (s : State) (cid : Nat) : State :=
  match s.slotOf cid with
  | some k => (s.beginInst k).pumpSlots
  | none =>
    match s.armedOf cid with
    | none => s
    | some a =>
      if !bitB (s.freg FR.CE_CTRL) 0 || s.ce.waitQ.any (·.1 == cid) || a.disarm then s.pumpSlots
      else
        match (s.ceRead cid 0 (s.freg FR.CE_DESC_BASE + 128 * cid) 40).bind (fun s d =>
            s.ceRead cid ⟨fieldAt d 0 4 / 2 ^ 28 % 8, by omega⟩ (fieldAt d 32 8 % 2 ^ 57 / 8 * 8) 8) with
        | .wait s => s
        | .fail s _ _ => s
        | .ok s w =>
          if leNat w < a.next || 2 ^ 64 ≤ a.next + 1 then s
          else State.pumpSlots { s with ce := { s.ce with
            armed := s.ce.armed.map (fun b => if b.cid = cid then { b with next := a.next + 1 } else b)
            waitQ := s.ce.waitQ ++ [(cid, a.next)] } }

/-! ### Completion (R386, R393, R399) -/

/-- The contribution of an acc_dst result to one line (R386): words of the bytes from offset `off`. -/
def accContrib (i : Inst) (off : Nat) (bs : List PByte) : Contrib :=
  { op := .add, cls := i.cls
    mask := BitVec.ofNat 64 ((2 ^ (bs.length / 4) - 1) * 2 ^ (off / 4))
    words := BitVec.ofNat 2048 (leNat (plain bs) * 2 ^ (8 * off)), poison := anyBad bs, agent := .parade }

/-- A result added into dst line by line (R226, R386); the first argument bounds the lines. A refused contribution
is an access that cannot be made. -/
def State.accWrite (i : Inst) : Nat → Nat → List PByte → State → HRes Unit
  | 0, _, _, s => .ok s ()
  | fuel + 1, va, bs, s =>
    if bs.isEmpty then .ok s ()
    else
      (s.ceReach i.cid va).bind (fun s p =>
        match p with
        | none => .fail s 1 va
        | some p =>
          let off := p.pa % 256
          let m := min bs.length (256 - off)
          let r := if p.cacheable then s.contribute (p.pa / 256) (accContrib i off (bs.take m)) p.tck
            else s.rejectRed (p.pa / 256) 1
          match r with
          | .accepted s => State.accWrite i fuel (va + m) (bs.drop m) s
          | .wait s _ => .wait s
          | .refused s _ => .fail s 1 va)

/-- Every line of an acc_dst result translated before any is added to. -/
def State.accReach (who : Nat) : Nat → Nat → Nat → State → HRes Unit
  | 0, _, _, s => .ok s ()
  | fuel + 1, va, n, s =>
    if n = 0 then .ok s ()
    else
      let m := min n (256 - va % 256)
      (s.ceReach who va).bind (fun s _ => State.accReach who fuel (va + m) (n - m) s)

/-- The result written (R386, R396). Where one contribution has to wait, none is made yet, so that none is made
twice. -/
def State.writeResult (s : State) (i : Inst) (bs : List PByte) : HRes Unit :=
  let va := i.f 255 192
  if i.f 18 18 = 1 then
    (State.accReach i.cid (bs.length / 4 + 1) va bs.length s).bind (fun s _ =>
      match State.accWrite i (bs.length / 4 + 1) va bs s with
      | .wait _ => .wait s
      | r => r)
  else s.ceWrite i.cid i.cls va bs

/-- The root of a broadcast and a sender wait until every byte is acknowledged (R399). -/
def State.allAcked (s : State) (i : Inst) : Bool :=
  if (i.op = 4 && i.me = i.root) || i.op = 6 then
    i.peers.all (fun r => !i.feeds r || (i.fed.has r && (s.pendingFrames i r).isEmpty))
  else true

/-- Whether an instance has all that it needs to end. -/
def State.instReady (s : State) (i : Inst) : Bool :=
  i.begun && i.ended.isNone && i.peers.all (fun r => i.ready.any (fun e => e.1 == r)) &&
    i.needs.all (fun r => (i.message r).isSome) && s.allAcked i

/-- The rank that reduces element e (R396): that of its shard, and in the tree rank 0 (log entry 197). -/
def Inst.ownerOf (i : Inst) (e : Nat) : Nat := if i.algo = 2 then 0 else e * i.n / i.count

/-- The flag counts of the elements that this member reduces (R396). -/
def State.countRed (s : State) (i : Inst) (rs : List RedElem) : State :=
  let mine := (List.range rs.length).filter (fun e => i.ownerOf e == i.me)
  let c := (mine.filterMap (fun e => rs[e]?)).foldl (fun (c : FlagCounts) r => c.add r.flags) {}
  ((s.count FR.CE_RED_NV_CNT c.nv).count FR.CE_RED_OF_CNT c.of).count FR.CE_RED_UF_CNT c.uf

/-- The instance in slot k ends if it can (R393, R396, R397). -/
def State.completeInst (s : State) (k : Fin 32) : State :=
  match s.inst k with
  | none => s
  | some i =>
    if i.isOwn then s.pumpSlots
    else match i.ended with
    | some (status, rank) =>
      (s.endInst k i status rank i.word i.nf).pumpSlots
    | none =>
      if !i.begun then (s.beginInst k).pumpSlots
      else if !s.instReady i then s
      else
        let r := i.result i.draw
        let bs := r.2
        match s.writeResult i bs with
        | .wait s => s
        | .fail s _ va => (s.localFault k va).pumpSlots
        | .ok s () =>
          let word := if i.reduces then i.fold ((List.range i.n).map i.part) r.1 else {}
          let s := if i.reduces then s.countRed i r.1 else s
          let nf := if i.reduces then i.nfOffset else none
          let s := match nf with
            | none => s
            | some e =>
              let s := if bitB (s.freg FR.CE_NF_OFFSET) 63 then s
                else s.setFreg FR.CE_NF_OFFSET (2 ^ 63 + i.cid * 2 ^ 48 + e)
              if i.harvest then s.orFreg FR.HV_STATUS 0x400 else s
          (s.endInst k i 0 0xFFFFFFFF word nf.isSome).pumpSlots

/-! ### Writes of CE_ARM and CE_ABORT, detachment (R388, R398, R402) -/

/-- A descriptor armed (R388). -/
def State.armDesc (s : State) (cid first : Nat) : State :=
  if 4080 ≤ cid then s
  else if (s.armedOf cid).isNone && 256 ≤ s.ce.armed.length then s.orFreg FR.CE_STATUS 32
  else
    { s with ce := { s.ce with
        armed := s.ce.armed.filter (fun a => a.cid != cid) ++ [{ cid, next := first }] } }

/-- A descriptor disarmed, once its running instance has finished (R388). -/
def State.disarmDesc (s : State) (cid : Nat) : State :=
  if (s.slotOf cid).isSome then
    { s with ce := { s.ce with
        armed := s.ce.armed.map (fun a => if a.cid = cid then { a with disarm := true } else a) } }
  else
    { s with ce := { s.ce with
        armed := s.ce.armed.filter (fun a => a.cid != cid), waitQ := s.ce.waitQ.filter (·.1 != cid) } }

/-- A write of a cid to CE_ABORT (R402). -/
def State.swAbort (s : State) (cid : Nat) : State :=
  match s.slotOf cid with
  | none => s
  | some k =>
    match s.inst k with
    | none => s
    | some i => (s.abortInst k 6 (if i.n = 0 then 0xFFFFFFFF else i.me)).pumpSlots

/-- The bytes of the message that receiver r has acknowledged without a gap (R398). -/
def State.ackedOffset (s : State) (i : Inst) (r : Nat) : Nat :=
  if i.fed.has r then ((s.pendingFrames i r).map (·.offset)).foldl min i.count else 0

/-- A lagging receiver of a direct broadcast detached into catch-up (R398). `timed` says that its acknowledged
offset has not advanced for CE_LAG_CFG.time while another attached receiver's has. -/
def State.detach (s : State) (k : Fin 32) (r : Nat) (timed : Bool) : State :=
  match s.inst k with
  | none => s
  | some i =>
    let attached := (List.range i.n).filter (fun q => q != i.me && !i.detached.has q)
    let mine := s.ackedOffset i r
    let best := ((attached.filter (· != r)).map (s.ackedOffset i)).foldl max 0
    let lag := mine + bits (s.freg FR.CE_LAG_CFG) 15 0 * 65536 < best
    if i.op = 4 && i.algo = 4 && i.me = i.root && i.ended.isNone && attached.contains r && mine < i.count
        && (lag || (timed && 1 < attached.length)) then
      let node := i.nodes.getD r 0
      let x := s.ctxOf node
      let catchUp (f : FrameOut) : FrameOut :=
        if f.ty = 1 ∧ f.cid = i.cid ∧ f.cseq = i.cseq % 2 ^ 32 then { f with phase := 2 } else f
      let sent := x.unacked.map (fun u => { u with frame := catchUp u.frame })
      let s := (s.setCtx node { x with queue := x.queue.map catchUp, unacked := sent }).setInst k (some { i with detached := i.detached.add r })
      (s.count FR.CE_DETACH_CNT).logEvent 0x0602 r 0 0 i.cid i.cseq
    else s

/-! ### Frames of instances (R382, R390, R392, R402) -/

/-- The slot whose running instance a frame names (R390). -/
def State.instFor (s : State) (h : FrameIn) : Option (Fin 32) :=
  allSlots.find? (fun k => match s.inst k with
    | some i => i.cid == h.cid.toNat && i.cseq % 2 ^ 32 == h.cseq.toNat && i.ended.isNone
    | none => false)

/-- A frame's slow mark noted (R401). -/
def Inst.noteSlow (i : Inst) (h : FrameIn) : Inst :=
  if h.slow then { i with slow := i.slow.add h.rank.toNat } else i

/-- The bytes of a payload with the poison of its 64-byte units (R376). -/
def payloadBytes (bs : List Byte) (map : BitVec 64) : List PByte :=
  (List.range bs.length).map (fun k => (bs.getD k 0, map.getLsbD (k / 64)))

/-- DATA delivered to its instance, or dropped (R382, R390). -/
def State.takeData (s : State) (h : FrameIn) (bs : List PByte) : State :=
  match s.instFor h with
  | none => s.dropFrame
  | some k =>
    match s.inst k with
    | none => s
    | some i =>
      let p : Piece := { rank := h.rank.toNat, phase := h.phase.toNat, offset := h.offset.toNat, bytes := bs }
      (s.setInst k (some ({ i with data := i.data ++ [p], bytes := i.bytes + bs.length }.noteSlow h))).feedInst k

/-- How far a sequence lies ahead of the running or next instance of its descriptor, by the nearest value with its
low 32 bits (R390): 0 names that instance, values from 2^31 on lie behind it. -/
def State.ahead (s : State) (cid cseq : Nat) : Nat :=
  match s.slotOf cid with
  | some k =>
    match s.inst k with
    | some i => psnDiff cseq i.cseq
    | none => 0
  | none =>
    match s.ce.waitQ.find? (·.1 == cid), s.ce.mine, s.armedOf cid with
    | some w, _, _ => psnDiff cseq w.2
    | none, some i, some a => psnDiff cseq (if i.cid = cid then i.cseq else a.next)
    | none, some i, none => if i.cid = cid then psnDiff cseq i.cseq else 0
    | none, none, some a => psnDiff cseq a.next
    | none, none, none => 0

/-- READY taken by its instance, held for a later one, or dropped (R390, R392). -/
def State.takeReady (s : State) (h : FrameIn) (digest : Nat) : State :=
  let cid := h.cid.toNat
  match s.instFor h with
  | some k =>
    match s.inst k with
    | none => s
    | some i =>
      let i := i.noteSlow h
      let rs := i.ready.filter (fun e => e.1 != h.rank.toNat) ++ [(h.rank.toNat, digest)]
      (s.setInst k (some { i with ready := rs })).checkReady k
  | none =>
    let d := s.ahead cid h.cseq.toNat
    let live := (s.slotOf cid).isSome
    if 2 ^ 31 ≤ d || (live && d = 0) then s.dropFrame
    else
      let r : HeldReady := { cid, cseq := h.cseq.toNat, rank := h.rank.toNat, digest, slow := h.slow }
      let keep := s.ce.held.filter (fun e => !(e.cid == r.cid && e.cseq == r.cseq && e.rank == r.rank))
      { s with ce := { s.ce with held := keep ++ [r] } }

/-- ABORT taken by its instance (R402). -/
def State.takeAbort (s : State) (h : FrameIn) (status rank : Nat) : State :=
  match s.instFor h with
  | none => s.dropFrame
  | some k =>
    match s.inst k with
    | none => s
    | some i =>
      let i := i.noteSlow h
      let s := s.setInst k (some { i with abortSeen := i.abortSeen.add h.rank.toNat })
      s.abortInst k status rank

/-- A peer has been reset (R381): a new hello, and its instances abort with MEMBER_RESET. -/
def State.resetPeer (s : State) (node : Nat) : State := ((s.startHello node []).abortPeer node 1).pumpSlots

/-- A peer is lost (R382): its instances abort with PEER_LOST. -/
def State.losePeer (s : State) (node : Nat) : State := ((s.loseCtx node).abortPeer node 2).pumpSlots

end Sys2Proof.Machine
end

