-- ==== Sys2Proof/Machine/RuleProg.lean ====
section
/-! DEFINITION. Rule programs (R333): a program of rule 0xF0 runs on a datapath and a scratch of the Harvest
unit, which the model builds as a cell of its own, with the meanings of the cell's instructions. -/

namespace Sys2Proof.Machine

/-- What an instruction of a rule program does on the scratch cell; none for an opcode that a rule program
may not use, or kind 1 (R333). -/
def progEval (c : CellId) (e : InFlight) (s : State) : Option Eval :=
  let kind1 := bits e.ins.x.ext.toNat 1 0 = 1
  let far := 0x10000 ≤ memAddr (s.cell c) e.ins.f
  match e.ins.op with
  | .alu => some (evalAlu c e s)
  | .alui => some (evalAlui c e s)
  | .mul => some (evalMul c e s)
  | .movi => some (evalMovi c e s)
  | .ldo => if far then none else some (evalLdo c e s)
  | .sto => if far then none else some (evalSto c e s)
  | .br => some (evalBr c e s)
  | .bloop => some (evalBloop c e s)
  | .jal => some (evalJal c e s)
  | .tret => some (evalTret c e s)
  | .vadd => if kind1 then none else some (evalVadd c e s)
  | .vsub => if kind1 then none else some (evalVsub c e s)
  | .vmul => if kind1 then none else some (evalVmul c e s)
  | .vfma => if kind1 then none else some (evalVfma c e s)
  | .vfmaw => if kind1 then none else some (evalVfmaw c e s)
  | .vmin => if kind1 then none else some (evalVmin c e s)
  | .vmax => if kind1 then none else some (evalVmax c e s)
  | .vcmp => if kind1 then none else some (evalVcmp c e s)
  | .vsel => if kind1 then none else some (evalVsel c e s)
  | .vmov => if kind1 then none else some (evalVmov c e s)
  | .vabs => if kind1 then none else some (evalVabs c e s)
  | .vneg => if kind1 then none else some (evalVneg c e s)
  | .vcvt => if kind1 then none else some (evalVcvt c e s)
  | .fexp2 => if kind1 then none else some (evalFexp2 c e s)
  | .flog2 => if kind1 then none else some (evalFlog2 c e s)
  | .frcp => if kind1 then none else some (evalFrcp c e s)
  | .frsq => if kind1 then none else some (evalFrsq c e s)
  | .rsum => if kind1 then none else some (evalRsum c e s)
  | .rsumd => if kind1 then none else some (evalRsumd c e s)
  | .rssq => if kind1 then none else some (evalRssq c e s)
  | .rmax => if kind1 then none else some (evalRmax c e s)
  | .rmin => if kind1 then none else some (evalRmin c e s)
  | .ramax => if kind1 then none else some (evalRamax c e s)
  | .rfstore => if e.ins.f.func = 0 && 1024 ≤ e.ins.x.oc_c.toNat then none else some (evalRfstore c e s)
  | .rfclr => some (evalRfclr c e s)
  | .ld | .st | .spf | .dld | .dldm | .dsto | .dsetw | .dgetw | .jalr | .csrr | .csrw | .nop | .brk
  | .sempost | .semwait | .sempostr | .qpush | .qpop | .qcnt | .qmark | .qrewind | .qrel | .sxgo
  | .mma | .mmat | .gfill | .mmv | .mxld | .mxst | .vsmax | .vsmon | .vsmfin
  | .hvsub | .eqnx | .bar | .phase | .fence | .isync | .yield => none

/-- One instruction of a rule program on scratch cell x, at x.npc (R333): the cell after it, and whether the
program has ended. Neither word of an instruction lies beyond the 16 KiB of the program. -/
def progStep (s : State) (k : Fin 16) (cls : Fin 8) (ext : Nat) (x : Cell) : HRes (Cell × Bool) :=
  let pc := x.npc.toNat
  let err := HRes.fail s 4 pc
  if pc < ext || ext + 0x4000 ≤ pc then err
  else (s.hvRead k cls pc 8).bind (fun s w1 =>
    let err := HRes.fail s 4 pc
    let run (s : State) (i : Ins) : HRes (Cell × Bool) :=
      let e : InFlight := { pc := x.npc, ins := { i with wide := true } }
      let t := s.setCell 0 { x with window := [e] }
      match progEval 0 e t with
      | none => err
      | some (.done t jump _) =>
        .ok s ({ (t.cell 0) with npc := jump.getD (nextPc e.pc i.op), window := [] }, i.op == .tret)
      | some _ => err
    match firstWord (leNat w1) with
    | .illegal => err
    | .short i => run s i
    | .long o => if ext + 0x4000 ≤ pc + 8 then err else (s.hvRead k cls (pc + 8) 8).bind (fun s w2 =>
        run s { op := o, f := sFields (leNat w1), x := lFields (leNat w2) }))

/-- A rule program run to its TRET (R333): the scratch cell it leaves. The first argument is how many
instructions it may still run. -/
def progRun (k : Fin 16) (cls : Fin 8) (ext : Nat) : Nat → Cell → State → HRes Cell
  | 0, x, s => .fail s 4 x.npc.toNat
  | n + 1, x, s =>
    (progStep s k cls ext x).bind (fun s r => if r.2 then .ok s r.1 else progRun k cls ext n r.1 s)

/-- The scratch cell at the start of a group (R333): `draw` names its undefined bytes, those of slots 576 to
1,023 and of elements that the group does not have; what lies beyond slot 1,023 cannot be read. -/
def progCell (draw ext : Nat) (g w st0 st1 : List Nat) (sregs : List (Nat × Nat)) : Cell :=
  let put (x : Cell) (slot es : Nat) (vs : List Nat) : Cell := x.ocWrite (64 * slot) (vs.flatMap (leBytes es))
  let x : Cell := { ocEpoch := draw + 1, inHandler := true, npc := BitVec.ofNat 64 ext }
  let x := put (put (put (put x 0 4 g) 64 8 w) 192 4 st0) 256 4 st1
  let x := sregs.foldl (fun (x : Cell) r => x.wrS (BitVec.ofNat 5 r.1) (BitVec.ofNat 64 r.2)) x
  { x with ocPoison := (List.range 3072).map (· + 1024) }

/-- n elements of es bytes that a program has left from a slot on. -/
def progOut (x : Cell) (slot es n : Nat) : List Nat :=
  (List.range n).map (fun i => leNat (x.ocRead (64 * slot + es * i) es))

end Sys2Proof.Machine
end

