-- ==== Sys2Proof/Machine/Update.lean ====
section
/-! DEFINITION. The eager update of one group (R327 to R335) with its CRCs (R346, R347). -/

namespace Sys2Proof.Machine

/-! ### Tensors and group strings (R346) -/

/-- The address of tensor kind 0 to 3 (R355) in a slot. -/
def Entry.tensor (e : Entry) (kind v : Nat) : Nat :=
  match kind with
  | 0 => Entry.mst e v
  | 1 => Entry.comp e v
  | 2 => Entry.st e 0 v
  | _ => Entry.st e 1 v

/-- The size of an element of a tensor kind. -/
def kindSize (kind : Nat) : Nat := if kind = 1 then 2 else 4

/-- Whether a layer has state tensor i: a program's has it where one of its slots does. -/
def Entry.hasSt (e : Entry) (i : Nat) : Bool := Entry.usesSt e i 0 || Entry.usesSt e i 1

/-- The tensor kinds that a layer has, up to a scope (R346, R370). -/
def Entry.kinds (e : Entry) (scope : Nat) : List Nat :=
  [0] ++ (if 1 ≤ scope && Entry.compEn e then [1] else []) ++
    (if 2 ≤ scope && Entry.hasSt e 0 then [2] else []) ++ (if 2 ≤ scope && Entry.hasSt e 1 then [3] else [])

/-- Whether slot v of a tensor kind has an address; where a program's layer gives it none, it reads as zeros and is not
written (log entry 199). -/
def Entry.slotUsed (e : Entry) (kind v : Nat) : Bool :=
  match kind with
  | 2 => Entry.usesSt e 0 v
  | 3 => Entry.usesSt e 1 v
  | _ => true

/-- RC_CTRL.scope. -/
def State.rcScope (s : State) : Nat := bits (s.freg FR.RC_CTRL) 5 4

/-- RC_CTRL.en. -/
def State.rcEn (s : State) : Bool := bitB (s.freg FR.RC_CTRL) 0

/-- The address of group j of a tensor kind in a slot. -/
def Entry.groupVa (e : Entry) (kind v j : Nat) : Nat := Entry.tensor e kind v + 1024 * j * kindSize kind

/-- n bytes from group j of a tensor kind on, in a slot. -/
def State.readTensor (s : State) (k : Fin 16) (e : Entry) (kind v j n : Nat) : HRes (List Byte) :=
  if Entry.slotUsed e kind v then s.hvRead k (Entry.cls e) (Entry.groupVa e kind v j) n else .ok s (List.replicate n 0)

/-- Bytes written from group j of a tensor kind on, in a slot. -/
def State.writeTensor (s : State) (k : Fin 16) (e : Entry) (kind v j : Nat) (bs : List Byte) : HRes Unit :=
  if Entry.slotUsed e kind v then s.hvWrite k (Entry.cls e) (Entry.groupVa e kind v j) bs else .ok s ()

/-- The bytes of group j of each kind of a list, in a slot. -/
def State.readKinds (s : State) (k : Fin 16) (e : Entry) (v j : Nat) : List Nat → HRes (List (Nat × List Byte))
  | [] => .ok s []
  | kind :: rest =>
    (s.readTensor k e kind v j (Entry.groupLen e j * kindSize kind)).bind (fun s b =>
      (State.readKinds s k e v j rest).bind (fun s r => .ok s ((kind, b) :: r)))

/-- The register of a CRC-32C moved on by n zero bytes. -/
def crcShift (n : Nat) (r : BitVec 32) : BitVec 32 := crcBits (8 * n) r

/-- The combination identity of R347: the CRC-32C of two strings together, from theirs and the second's
length. -/
def crcJoin (a b len : Nat) : Nat := (crcShift len (BitVec.ofNat 32 a)).toNat ^^^ b

/-- Bytes of a group string (R346). -/
def Entry.stringLen (e : Entry) (scope j : Nat) : Nat :=
  ((Entry.kinds e scope).map (fun kind => Entry.groupLen e j * kindSize kind)).sum

/-- The CRC-32C of the strings of groups lo, lo + 1, ... from their stored CRCs (R347, R351). -/
def joinCrcs (e : Entry) (scope : Nat) : Nat → List Nat → Nat → Nat
  | _, [], acc => acc
  | j, c :: cs, acc => joinCrcs e scope (j + 1) cs (crcJoin acc c (Entry.stringLen e scope j))

/-- How many groups the layers before layer l have (R347), of n still to count. An entry that cannot be read counts as
none (log entry 139). -/
def State.groupsBefore (l : Nat) : Nat → Nat → State → HRes Nat
  | 0, acc, s => .ok s acc
  | n + 1, acc, s =>
    match s.deliveryOf l with
    | some d => State.groupsBefore (l + 1) n (acc + Entry.groups d.entry) s
    | none =>
      match s.readEntry l with
      | .ok s e => State.groupsBefore (l + 1) n (acc + Entry.groups e) s
      | .wait s => .wait s
      | .fail s _ _ => State.groupsBefore (l + 1) n acc s

/-- Where the word of group j of layer l lies in the group CRC lists; `grad` names the second list. -/
def State.gcrcVa (s : State) (l j : Nat) (grad : Bool) : HRes Nat :=
  (State.groupsBefore 0 l 0 s).bind (fun s g =>
    if grad then (State.groupsBefore 0 s.layerCnt 0 s).bind (fun s t =>
      .ok s (s.freg FR.RC_GCRC_BASE + 4 * (t + g + j)))
    else .ok s (s.freg FR.RC_GCRC_BASE + 4 * (g + j)))

/-- The stored CRCs of groups j to j + n - 1 of a layer. -/
def State.readGcrcs (s : State) (l j n : Nat) (grad : Bool) : HRes (List Nat) :=
  (s.gcrcVa l j grad).bind (fun s va =>
    (s.hvRead 0 0 va (4 * n)).bind (fun s bs => .ok s (elemsOf 4 n bs)))

/-- The CRC of a group written to a list (R347). -/
def State.writeGcrc (s : State) (l j : Nat) (grad : Bool) (bs : List Byte) : HRes Unit :=
  (s.gcrcVa l j grad).bind (fun s va => s.hvWrite 0 0 va (leBytes 4 (crc32c bs)))

/-! ### Inputs of a group (R328) -/

/-- Elements read as numbers. -/
def State.hvElems (s : State) (k : Fin 16) (cls : Fin 8) (va es n : Nat) : HRes (List Nat) :=
  (s.hvRead k cls va (n * es)).bind (fun s bs => .ok s (elemsOf es n bs))

/-- Elements read where a tensor is used, zeros elsewhere. -/
def State.hvElemsIf (s : State) (used : Bool) (k : Fin 16) (cls : Fin 8) (va es n : Nat) : HRes (List Nat) :=
  if used then s.hvElems k cls va es n else .ok s (List.replicate n 0)

/-- The unit of a group (R327): that of the band of the first master element's home slice. -/
def State.groupUnit (s : State) (e : Entry) (j : Nat) : HRes (Fin 16) :=
  let a : Access := { agent := .harvest 0, va := Entry.mst e 0 + 4096 * j }
  s.hvAccess a (fun s =>
    let r := s.translate a
    match r.2 with
    | .phys p => .ok r.1 (bandOf (homeSlice p.pa))
    | .own c _ => .ok r.1 (bandOf c)
    | .fault w => .fault r.1 w
    | .wait q => .wait r.1 q)

/-- The clip factor of a group in the pass at hand (R328, R338). -/
def State.clipFactor (s : State) (d : Delivered) : Nat :=
  match s.hv.decision with
  | some .redo => s.hv.clip
  | _ =>
    if bits (s.freg FR.HV_CTRL) 3 2 ≠ 1 then one64
    else
      let clip := Entry.f d.entry 159 128
      let v := readOp .fp32 clip
      let n2 := normSq s.lossExp d.word
      if v.isZero || v.isInf then one64
      else
        let c := to64 clip
        if above64 n2 (fMul .fp64 c c).1 then (div64 c (sqrt64 n2).1).1 else one64

/-- k of R328. -/
def State.gradScale (s : State) (d : Delivered) : Nat :=
  (rne .fp64 (scaleFV (-s.lossExp) (readOp .fp64 (s.clipFactor d)))).1

/-- Parameter i of a parameter block (R321). -/
def paramOf (p : Desc) (i : Nat) : Nat := bits p.toNat (64 * i + 63) (64 * i)

/-- t of R331. -/
def State.stepT (s : State) : Nat := s.freg FR.HV_COMMIT_CNT + 1

/-! ### Matrix phases (R335) -/

/-- A list as a matrix of rows of n elements. -/
def asMat (n : Nat) : Nat → List Nat → Mat
  | 0, _ => []
  | m + 1, l => l.take n :: asMat n m (l.drop n)

/-- The result of a matrix phase: its elements in row-major order, the flags of each band, and the factor
matrices to write, with their addresses. -/
structure MatOut where
  elems : List Nat := []
  flags : MatFlags := []
  writes : List (Nat × List Nat) := []

/-- The matrix phase of rule 3. -/
def State.orthoPhase (s : State) (k : Fin 16) (d : Delivered) (v : Nat) : HRes MatOut :=
  let e := d.entry
  let n := Entry.elems e
  let p := paramOf d.params
  (s.hvElems k (Entry.cls e) (Entry.grad e) (Entry.gradFmt e).esize n).bind (fun s g =>
    (s.hvElems k (Entry.cls e) (Entry.st e 0 v) 4 n).bind (fun s m =>
      let kf := s.gradScale d
      let m' := (List.range n).map (fun i =>
        (momentum (p 1) (m.getD i 0) (prepGrad (Entry.gradFmt e) kf (g.getD i 0))).1)
      let r := newtonSchulz (Entry.rows e) (Entry.cols e) (Entry.f e 39 36) p
        (asMat (Entry.cols e) (Entry.rows e) m')
      .ok s { elems := r.1.flatten, flags := r.2 }))

/-- The matrix phase of rule 4: the factor record holds SL, SR, QL and QR, two slots each. -/
def State.kronPhase (s : State) (k : Fin 16) (d : Delivered) (v : Nat) : HRes MatOut :=
  let e := d.entry
  let rows := Entry.rows e
  let cols := Entry.cols e
  let cls := Entry.cls e
  let every := if Entry.f e 35 20 = 0 then 100 else Entry.f e 35 20
  (s.hvElems k cls (Entry.ext e) 8 8).bind (fun s rec =>
    let addr i w := rec.getD (2 * i + w) 0
    (s.hvElems k cls (Entry.grad e) (Entry.gradFmt e).esize (rows * cols)).bind (fun s g =>
    (s.hvElems k cls (addr 0 v) 4 (rows * rows)).bind (fun s sl =>
    (s.hvElems k cls (addr 1 v) 4 (cols * cols)).bind (fun s sr =>
    (s.hvElems k cls (addr 2 v) 4 (rows * rows)).bind (fun s ql =>
    (s.hvElems k cls (addr 3 v) 4 (cols * cols)).bind (fun s qr =>
      let kf := s.gradScale d
      let g' := g.map (fun x => (prepGrad (Entry.gradFmt e) kf x).1)
      let p := paramOf d.params
      let r := kron rows cols (p 1) (p 3) (s.stepT % every = 0) (asMat cols rows g') (asMat rows rows sl)
        (asMat cols cols sr) (asMat rows rows ql) (asMat cols cols qr)
      .ok s { elems := r.d.flatten, flags := r.flags
              writes := [(addr 0 (1 - v), r.sl.flatten), (addr 1 (1 - v), r.sr.flatten),
                (addr 2 (1 - v), r.ql.flatten), (addr 3 (1 - v), r.qr.flatten)] }))))))

/-- The matrix phase of a layer's rule, where it has one. -/
def State.matPhase (s : State) (k : Fin 16) (d : Delivered) (v : Nat) : HRes MatOut :=
  match Entry.rule d.entry with
  | 3 => s.orthoPhase k d v
  | 4 => s.kronPhase k d v
  | _ => .ok s {}

/-! ### One group -/

/-- What a group's update writes, with its flag counts. -/
structure GroupOut where
  mst : List Nat
  comp : List Nat
  s0 : List Nat
  s1 : List Nat
  wc : List Nat
  counts : FlagCounts := {}

/-- The elements of a group under a built-in rule (R328 to R331). -/
def builtinGroup (e : Entry) (p : Desc) (kf : Nat) (g mst comp s0 s1 mat : List Nat) : GroupOut :=
  let outs := (List.range g.length).map (fun i =>
    ruleElem (Entry.rule e) (Entry.compEn e) (Entry.gradFmt e) (paramOf p) kf (mat.getD i 0)
      { g := g.getD i 0, mst := mst.getD i 0, comp := comp.getD i 0, s0 := s0.getD i 0, s1 := s1.getD i 0 })
  { mst := outs.map (·.mst), comp := outs.map (·.comp), s0 := outs.map (·.s0), s1 := outs.map (·.s1)
    wc := outs.map (·.wc), counts := outs.foldl (fun c o => c.add o.flags) {} }

/-- The elements of a group under a rule program (R333). -/
def State.programGroup (s : State) (k : Fin 16) (d : Delivered) (j kf : Nat) (g mst comp s0 s1 : List Nat) :
    HRes GroupOut :=
  let e := d.entry
  let n := g.length
  let gp := g.map (prepGrad (Entry.gradFmt e) kf)
  let w := (mst.zip comp).map (fun mc => encode .fp64 (masterValue (Entry.compEn e) mc.1 mc.2))
  let sregs := [(1, j), (2, n), (3, d.layer), (4, s.stepT), (5, s.freg FR.HV_STEP)] ++
    (List.range 8).map (fun i => (8 + i, paramOf d.params i))
  let st i vs := if Entry.hasSt e i then vs else []
  let x := progCell s.free (Entry.ext e) (gp.map (·.1)) w (st 0 s0) (st 1 s1) sregs
  (progRun k (Entry.cls e) (Entry.ext e) (2 ^ 20) x s.draw).bind (fun s y =>
    let xs := progOut y 320 8 n
    let os := xs.map (fun v => splitMaster (Entry.compEn e) (v, .none))
    let wcs := os.map (fun o => fConvert .fp32 .bf16 .ieee o.1)
    let fl := ((gp.map (·.2)).zip (os.zip wcs)).foldl (fun (c : FlagCounts) q =>
      c.add ((q.1.or q.2.1.2.2).or q.2.2.2)) {}
    let own : FlagCounts :=
      { nv := y.reg CR.NUM_EVT_NV_CNT, of := y.reg CR.NUM_EVT_OF_CNT, uf := y.reg CR.NUM_EVT_UF_CNT }
    .ok s { mst := os.map (·.1), comp := os.map (·.2.1), s0 := progOut y 448 4 n, s1 := progOut y 512 4 n
            wc := wcs.map (·.1), counts := fl.sum own })

/-- The flags of a unit counted (R328). -/
def State.countUnit (s : State) (k : Nat) (c : FlagCounts) : State :=
  ((s.count (FR.HV_U_NV_CNT k) c.nv).count (FR.HV_U_OF_CNT k) c.of).count (FR.HV_U_UF_CNT k) c.uf

/-- The factor matrices of a layer written with its first group (R335). -/
def State.writeMats (k : Fin 16) (cls : Fin 8) : List (Nat × List Nat) → State → HRes Unit
  | [], s => .ok s ()
  | w :: ws, s => (s.hvWrite k cls w.1 (w.2.flatMap (leBytes 4))).bind (fun s _ => State.writeMats k cls ws s)

/-- The bytes of a tensor kind of a group as written. -/
def GroupOut.bytes (o : GroupOut) (kind : Nat) : List Byte :=
  match kind with
  | 0 => o.mst.flatMap (leBytes 4)
  | 1 => o.comp.flatMap (leBytes 2)
  | 2 => o.s0.flatMap (leBytes 4)
  | _ => o.s1.flatMap (leBytes 4)

/-- The bytes of a tensor kind of a group as its slot then holds them. -/
def GroupOut.stored (o : GroupOut) (e : Entry) (v kind : Nat) : List Byte :=
  if Entry.slotUsed e kind v then o.bytes kind else List.replicate (o.bytes kind).length 0

/-- The tensor kinds of a list written to group j in a slot. -/
def State.writeKinds (k : Fin 16) (e : Entry) (v j : Nat) (o : GroupOut) : List Nat → State → HRes Unit
  | [], s => .ok s ()
  | kind :: rest, s =>
    (s.writeTensor k e kind v j (o.bytes kind)).bind (fun s _ => State.writeKinds k e v j o rest s)

/-- The tensors of a group written to a slot, and its working copy (R328). -/
def State.writeGroup (s : State) (k : Fin 16) (e : Entry) (v j : Nat) (o : GroupOut) : HRes Unit :=
  (State.writeKinds k e v j o (Entry.kinds e 2) s).bind (fun s _ =>
    s.hvWrite k (Entry.cls e) (Entry.wc e + 2048 * j) (o.wc.flatMap (leBytes 2)))

/-! ### The difference of a group (R354, R356) -/

/-- The first words of a list that satisfy p, and the rest, at most n of them. -/
def takeRun (p : Nat → Bool) : Nat → List Nat → Nat
  | 0, _ => 0
  | _ + 1, [] => 0
  | n + 1, w :: ws => if p w then takeRun p n ws + 1 else 0

/-- The tokens of a payload (R356): zero words skipped, then the words up to the next zero. -/
def tokens : Nat → List Nat → List Nat
  | 0, _ => []
  | _ + 1, [] => []
  | n + 1, ws =>
    let z := takeRun (· == 0) 65535 ws
    let rest := ws.drop z
    let m := takeRun (· != 0) 65535 rest
    (z * 65536 + m) :: (rest.take m ++ tokens n (rest.drop m))

/-- The 32-bit words of bytes padded with zero to a multiple of 4 (R356). -/
def words32 (bs : List Byte) : List Nat :=
  elemsOf 4 (ceilDiv bs.length 4) (bs ++ List.replicate ((4 - bs.length % 4) % 4) 0)

/-- The XOR of two byte strings. -/
def xorBytes (a b : List Byte) : List Byte := List.zipWith (· ^^^ ·) a b

/-- The bytes of the tokens of a difference. -/
def tokenBytes (bs : List Byte) : List Byte :=
  let ws := words32 bs
  (tokens (ws.length + 1) ws).flatMap (leBytes 4)

/-- The bytes that wait in the staging region. -/
def State.stagedBytes (s : State) : Nat := (s.rx.staged.map (fun r => r.bytes.length)).sum

/-- The differences of a group, as kinds with the committed and the pending bytes, formed and compressed into the staging
region (R354), in place of what the group had there. The region's layout is open, so the bytes written there are free (log
entry 200). Where they do not fit, or cannot be written, the step's staging is dropped (R357). -/
def State.formDx (s : State) (k : Fin 16) (l j : Nat) (ts : List (Nat × List Byte × List Byte)) : HRes Unit :=
  if !bitB (s.freg FR.DX_CTRL) 0 || !s.rcEn || s.rx.dxLost then .ok s ()
  else
    let keep := s.rx.formed.filter (fun p => !(p.layer == l && p.group == j))
    let new := ts.map (fun t => ({ layer := l, kind := t.1, group := j, bytes := xorBytes t.2.1 t.2.2 } : DxPart))
    let len (ps : List DxPart) : Nat := (ps.map (fun p => (tokenBytes p.bytes).length)).sum
    let at' := s.stagedBytes + len keep
    let lost (s : State) : HRes Unit := .ok { s with rx := { s.rx with formed := [], dxLost := true } } ()
    if s.freg FR.DX_STAGE_SIZE < at' + len new then lost s
    else match s.draw.hvWrite k 0 (s.freg FR.DX_STAGE_BASE + at') ((List.range (len new)).map (Config.undefByte s.free)) with
      | .ok s () => .ok { s with rx := { s.rx with formed := keep ++ new } } ()
      | .wait s => .wait s
      | .fail s _ _ => lost s

/-- The CRCs of a group kept beside the lists in memory: that of its pending bytes, and that of its gradient where it is
new (R347). -/
def State.keepCrc (s : State) (l j pend : Nat) (grad : Option Nat) : State :=
  let old := s.hv.crcs.find? (fun e => e.layer == l && e.group == j)
  let e : CrcEnt := { layer := l, group := j, pend, grad := grad.getD ((old.map (·.grad)).getD 0) }
  { s with hv := { s.hv with crcs := s.hv.crcs.filter (fun e => !(e.layer == l && e.group == j)) ++ [e] } }

/-- The inputs of group j read from the committed slot v, and its update written to the other (R328). -/
def State.runGroup (s : State) (k : Fin 16) (d : Delivered) (j : Nat) : HRes Unit :=
  let e := d.entry
  let v := s.verBit d.layer
  let cls := Entry.cls e
  let n := Entry.groupLen e j
  let es := (Entry.gradFmt e).esize
  (s.hvRead k cls (Entry.grad e + 1024 * j * es) (n * es)).bind (fun s gb =>
  (s.hvElems k cls (Entry.groupVa e 0 v j) 4 n).bind (fun s mst =>
  (s.hvElemsIf (Entry.compEn e) k cls (Entry.groupVa e 1 v j) 2 n).bind (fun s comp =>
  (s.hvElemsIf (Entry.usesSt e 0 v) k cls (Entry.groupVa e 2 v j) 4 n).bind (fun s s0 =>
  (s.hvElemsIf (Entry.usesSt e 1 v) k cls (Entry.groupVa e 3 v j) 4 n).bind (fun s s1 =>
  (s.matPhase k d v).bind (fun s m =>
    let g := elemsOf es n gb
    let kf := s.gradScale d
    (if Entry.rule e = 0xF0 then s.programGroup k d j kf g mst comp s0 s1
      else .ok s (builtinGroup e d.params kf g mst comp s0 s1 ((m.elems.drop (1024 * j)).take n))).bind (fun s o =>
    (s.writeGroup k e (1 - v) j o).bind (fun s _ =>
    (if j = 0 then State.writeMats k cls m.writes s else .ok s ()).bind (fun s _ =>
      (if s.rcEn then
        let ks := Entry.kinds e s.rcScope
        let old : GroupOut := { mst, comp, s0, s1, wc := [] }
        let new := ks.flatMap (o.stored e (1 - v))
        (s.writeGcrc d.layer j false new).bind (fun s _ =>
          (s.writeGcrc d.layer j true gb).bind (fun s _ =>
            (s.keepCrc d.layer j (crc32c new) (some (crc32c gb))).formDx k d.layer j
              (ks.map (fun kind => (kind, old.bytes kind, o.stored e (1 - v) kind)))))
      else .ok s ()).bind (fun s _ =>
        let s := s.countUnit k.val o.counts
        .ok (if j = 0 then m.flags.foldl (fun s f => s.countUnit f.1 (FlagCounts.add {} f.2)) s else s) ()))))))))))

/-- Whether an export holds the update groups of layer l (R362). -/
def State.exportHolds (s : State) (l : Nat) : Bool :=
  match s.rx.job with
  | some j => j.flipped && j.ended.isNone && j.todo.any (fun t => t.1 == l)
  | none => false

/-- A group that an export holds is counted once (R362). -/
def State.holdGroup (s : State) (l g : Nat) : State :=
  match s.rx.job with
  | some j =>
    if j.held.contains (l, g) then s
    else State.count { s with rx := { s.rx with job := some { j with held := (l, g) :: j.held } } } FR.SH_WAIT_CNT
  | none => s

/-- The update of group g of layer l (R327 to R329): it starts where the layer is delivered and has not
failed, the group is not done in this pass, no event has fixed the decision at skip, and a matrix rule has an
array. `e` is what the unit finds in memory (R241, R251). -/
def State.updateGroup (s : State) (l g : Nat) (e : MemUpset := {}) : State :=
  match s.deliveryOf l with
  | none => s
  | some d =>
    if s.layerSettled d || s.hv.carried || Entry.groups d.entry ≤ g || s.hv.done.contains (l, g) then s
    else if s.exportHolds l then s.holdGroup l g
    else match s.groupUnit d.entry g with
      | .wait s => s
      | .fail s reason va => s.failLayer l reason va 0
      | .ok s k =>
        if [3, 4].contains (Entry.rule d.entry) && !s.bandLent k then s
        else
          let s := { s with hv := { s.hv with
              begun := if s.hv.begun.contains (l, g) then s.hv.begun else s.hv.begun ++ [(l, g)] } }
          match (s.memUpset e).runGroup k d g with
          | .wait s => s
          | .fail s reason va => s.failLayer l reason va k
          | .ok s () =>
            let s := { s with hv := { s.hv with done := s.hv.done ++ [(l, g)] } }
            (s.count (FR.HV_U_GROUP_CNT k.val)).hvComplete

end Sys2Proof.Machine
end

