-- ==== Sys2Proof/Machine/Commit.lean ====
section
/-! DEFINITION. The decision (R337, R338), the loss scale (R339), the Equinox barrier and the flip (R340),
the fingerprint table (R348), the release of difference records (R354 to R357) and the capture of a step
(R364, R365). -/

namespace Sys2Proof.Machine

/-! ### Capture (R364, R365) -/

/-- The running job, where it is of a type and has not ended. -/
def State.jobOf (s : State) (ty : Nat) : Option Job :=
  match s.rx.job with
  | some j => if j.desc.toNat % 256 = ty && j.ended.isNone then some j else none
  | none => none

/-- The running job replaced. -/
def State.setJob (s : State) (j : Job) : State := { s with rx := { s.rx with job := some j } }

/-- The buffer and its size of a job (R360). -/
def Job.buf (j : Job) : Nat := bits j.desc.toNat 191 128
/-- The buffer's size. -/
def Job.size (j : Job) : Nat := bits j.desc.toNat 255 192

/-- The running job ended by an access that fails (R368). -/
def State.jobFault (s : State) : State :=
  match s.rx.job with
  | some j => s.setJob { j with ended := some { status := 8 } }
  | none => s

/-- Formed capture records written, oldest first, as far as their pages can be reached now (R365): what cannot stays for
later, since a capture never slows the step. -/
def State.writeOut : List (Nat × List Byte) → State → State
  | [], s => s
  | w :: ws, s =>
    match s.hvWrite 0 0 w.1 w.2 with
    | .ok s () =>
      State.writeOut ws (match s.rx.job with
        | some j => s.setJob { j with unwritten := ws }
        | none => s)
    | .wait s => s
    | .fail s _ _ => s.jobFault

/-- The committed fingerprints read for a start record that lacks them. -/
def State.oweFps (s : State) : State :=
  match s.rx.job with
  | none => s
  | some j =>
    match j.owedFps with
    | none => s
    | some va =>
      match s.hvRead 0 0 (s.freg FR.RC_FP_BASE) (4 * s.layerCnt) with
      | .ok s b => s.setJob { j with owedFps := none, unwritten := j.unwritten ++ [(va, b)] }
      | .wait s => s
      | .fail s _ _ => s.jobFault

/-- What a job still has to write, written as far as it can be. -/
def State.flushJob (s : State) : State :=
  let s := s.oweFps
  match s.rx.job with
  | some j => if j.ended.any (fun e => e.status == 8) then s else State.writeOut j.unwritten s
  | none => s

/-- A capture record formed behind the others and written (R364): the header's type-specific bits and the padding, which
the spec does not lay out, are free (log entry 9). -/
def State.captureRec (s : State) (j : Job) (ty : Nat) (payload : List Byte) : State :=
  let pad := (32 - payload.length % 32) % 32
  let open' (k : Nat) : List Byte := (List.range k).map (Config.undefByte s.free)
  let bytes := leBytes 1 ty ++ open' 3 ++ leBytes 4 payload.length ++ open' 24 ++ payload ++ open' pad
  State.flushJob (s.draw.setJob { j with
    pos := j.pos + bytes.length, records := j.records + 1, unwritten := j.unwritten ++ [(j.buf + j.pos, bytes)] })

/-- The bytes of an end record with its padding, which a capture keeps room for (R365). -/
def endRecordLen : Nat := 64

/-- A capture record, while a step is captured (R364, R365). Where it does not fit before the end record, capture stops. -/
def State.capture (s : State) (ty : Nat) (payload : List Byte) : State :=
  match s.jobOf 3 with
  | none => s
  | some j =>
    if !j.live || j.full then s
    else if j.size < j.pos + 32 + ceilDiv payload.length 32 * 32 + endRecordLen then s.setJob { j with full := true }
    else s.captureRec j ty payload

/-- The 32 bytes of a status word (R323). -/
def StatusWord.bytes (w : StatusWord) : List Byte :=
  leBytes 8 (b2n w.nonfinite + 2 * b2n w.poison) ++ leBytes 4 w.layer ++ leBytes 4 w.nfRank
    ++ leBytes 8 w.count ++ leBytes 8 w.sumsq

/-! ### The decision (R337, R338) -/

/-- The decision taken on the delivered layers, first row that applies (R337); one that R329 has fixed stays so. -/
def State.decisionNow (s : State) : Decision :=
  let n2 := s.normSum
  if s.hv.delivered.any Delivered.bad then .skipNf
  else if s.hv.fixed || above64 n2 (s.thrSq FR.HV_NORM_CEIL) then .skipCeil
  else if bits (s.freg FR.HV_CTRL) 3 2 = 2 && above64 n2 (s.thrSq FR.HV_CLIP_THR) then .redo
  else .commit

/-- The counter of a decision (R337). -/
def Decision.counter : Decision → Option Nat
  | .skipNf => some FR.HV_SKIP_NF_CNT
  | .skipCeil => some FR.HV_SKIP_CEIL_CNT
  | .redo => some FR.HV_REDO_CNT
  | .commit => none

/-- The decision and what it sets (R325, R337, R338). -/
def State.takeDecision (s : State) : State :=
  let n2 := s.normSum
  let d := s.decisionNow
  let s := match s.hv.delivered.find? (·.nfLocal) with
    | some l => s.logEvent 0x0401 l.layer 5 0 (s.freg FR.CE_NF_OFFSET) 0
    | none => s
  let f := (div64 (s.freg FR.HV_CLIP_THR) (sqrt64 n2).1).1
  let s := s.setFreg FR.HV_LAST_NORM2 n2
  let s := s.setFreg FR.HV_LAST_CLIP (if d = .redo then f else one64)
  let s := match d.counter with
    | some o => s.count o
    | none => s
  State.hvComplete { s with hv := { s.hv with
    decision := some d, clip := f, fixed := d == .skipNf || d == .skipCeil, done := if d = .redo then [] else s.hv.done } }

/-- The decision is taken once every valid layer is delivered (R337). -/
def State.stepDecision (s : State) : State :=
  if s.hvState ≠ 1 then s
  else match s.validLayers with
    | .ok s ls => if ls.all (fun l => (s.deliveryOf l).isSome) then s.takeDecision else s
    | .wait s => s
    | .fail s _ _ => s

/-! ### The loss scale (R339) -/

/-- HV_LS_STATE after an outcome: 0 or 1 commits, 2 skips, 3 leaves it. -/
def State.nextLs (s : State) (outcome : Nat) : Nat :=
  let ls := s.freg FR.HV_LS_STATE
  let cfg := s.freg FR.HV_LS_CFG
  let e := s.lossExp
  let n := bits ls 31 16
  let pack (n : Nat) (e : Int) : Nat := n % 65536 * 65536 + wrap 8 e
  if outcome ≤ 1 then
    if n + 1 = bits cfg 31 16 then pack 0 (min (e + 1) (sgn 8 (bits cfg 15 8))) else pack (n + 1) e
  else if outcome = 2 then pack 0 (max (e - 1) (sgn 8 (bits cfg 7 0)))
  else ls

/-! ### Working copies (R339, R340) -/

/-- The working copy of group j of a layer made from the master in a slot (R330); with `check` only where it
differs, which is counted and recorded (R340). -/
def State.remakeWc (s : State) (l : Nat) (e : Entry) (v j : Nat) (check : Bool) : HRes Unit :=
  (s.groupUnit e j).bind (fun s k =>
    (s.hvElems k (Entry.cls e) (Entry.groupVa e 0 v j) 4 (Entry.groupLen e j)).bind (fun s m =>
      let bs := m.flatMap (fun x => leBytes 2 (workingCopy x))
      let va := Entry.wc e + 2048 * j
      if check then
        (s.hvReadP k (Entry.cls e) va bs.length).bind (fun s old =>
          if plain old = bs && !anyBad old then .ok s ()
          else (s.hvWrite k (Entry.cls e) va bs).bind (fun s _ =>
            .ok ((s.count FR.HV_WC_REPAIR_CNT).logEvent 0x0405 l 1 0 j 0) ()))
      else s.hvWrite k (Entry.cls e) va bs))

/-- Several groups; one that cannot be reached is left as it is. -/
def State.remakeAll (slot : State → Nat → Nat) (check : Bool) : List (Nat × Nat) → State → HRes Unit
  | [], s => .ok s ()
  | (l, j) :: rest, s =>
    match s.deliveryOf l with
    | none => State.remakeAll slot check rest s
    | some d =>
      match s.remakeWc l d.entry (slot s l) j check with
      | .ok s () => State.remakeAll slot check rest s
      | .wait s => .wait s
      | .fail s _ _ => State.remakeAll slot check rest s

/-- The working copies that an ended step has left to be made again (R341): each is made, waits on, or is left as it is
where it cannot be reached. -/
def State.redoWc (s : State) : State :=
  s.hv.remake.foldl (fun s g =>
    match s.remakeWc g.1 g.2.1 g.2.2.1 g.2.2.2 false with
    | .ok s () => s
    | .wait s => { s with hv := { s.hv with remake := s.hv.remake ++ [g] } }
    | .fail s _ _ => s) { s with hv := { s.hv with remake := [] } }

/-- Every group of the delivered layers that have not failed. -/
def State.allGroups (s : State) : List (Nat × Nat) :=
  s.inLayerOrder.flatMap (fun d =>
    if s.layerFailed d.layer then [] else (List.range (Entry.groups d.entry)).map (fun j => (d.layer, j)))

/-! ### Fingerprints (R346 to R348) -/

/-- A layer's fingerprint from the CRCs of its groups (R347). -/
def crcsFp (d : Delivered) (scope : Nat) (grad : Bool) (cs : List Nat) : Nat :=
  if grad then
    ((List.range cs.length).zip cs).foldl (fun a jc =>
      crcJoin a jc.2 (Entry.groupLen d.entry jc.1 * (Entry.gradFmt d.entry).esize)) 0
  else joinCrcs d.entry scope 0 cs 0

/-- The fingerprint of a delivered layer from its stored group CRCs (R347). -/
def State.layerFp (s : State) (d : Delivered) (grad : Bool) : HRes Nat :=
  (s.readGcrcs d.layer 0 (Entry.groups d.entry) grad).bind (fun s cs => .ok s (crcsFp d s.rcScope grad cs))

/-- The fingerprints of layers l, l + 1, ..., n of them: 0 where a layer is not valid or its CRCs cannot be
read. -/
def State.fpsFrom (l : Nat) : Nat → State → HRes (List Nat)
  | 0, s => .ok s []
  | n + 1, s =>
    let go (s : State) (v : Nat) : HRes (List Nat) :=
      (State.fpsFrom (l + 1) n s).bind (fun s r => .ok s (v :: r))
    match s.deliveryOf l with
    | none => go s 0
    | some d =>
      match s.layerFp d false with
      | .ok s v => go s v
      | .wait s => .wait s
      | .fail s _ _ => go s 0

/-- The fingerprints of the pending version, one for each layer table entry. -/
def State.pendingFps (s : State) : HRes (List Nat) := State.fpsFrom 0 s.layerCnt s

/-- The committed fingerprint table written (R348). It waits for its pages; a part of it that cannot be reached is left
out. -/
def State.writeFps (s : State) (fps : List Nat) : HRes Unit :=
  match s.hvWrite 0 0 (s.freg FR.RC_FP_BASE) (fps.flatMap (leBytes 4)) with
  | .fail s _ _ => .ok s ()
  | r => r

/-! ### The difference stream (R354 to R357) -/

/-- The fields of a record's header (R355). -/
structure DxHead where
  ty : Nat
  kind : Nat := 0
  layer : Nat := 0
  version : Nat
  step : Nat
  cnt : Nat := 0
  first : Nat := 0
  deriving DecidableEq, Repr

/-- The 64-byte header with a given rec_crc (R355). -/
def DxHead.bytes (h : DxHead) (crc len : Nat) : List Byte :=
  leBytes 4 crc ++ leBytes 1 h.ty ++ leBytes 1 h.kind ++ leBytes 2 h.layer ++ leBytes 8 h.version
    ++ leBytes 8 h.step ++ leBytes 4 len ++ leBytes 4 h.cnt ++ leBytes 8 h.first ++ leBytes 24 0

/-- A whole record (R355). -/
def dxRecord (h : DxHead) (payload : List Byte) : List Byte :=
  let crc := crc32c (h.bytes 0 payload.length ++ payload)
  h.bytes crc payload.length ++ payload ++ List.replicate ((64 - payload.length % 64) % 64) 0

/-- One type 1 record (R354): n groups of a tensor kind from group j on, from what has been formed of them; none where a
part of it is missing. -/
def State.dxRun (s : State) (d : Delivered) (kind j n : Nat) (h : DxHead) : Option (List Byte) :=
  ((List.range n).mapM (fun i =>
    s.rx.formed.find? (fun p => p.layer == d.layer && p.kind == kind && p.group == j + i))).map (fun ps =>
      dxRecord { h with ty := 1, kind, layer := d.layer, cnt := n, first := j } (tokenBytes (ps.flatMap (·.bytes))))

/-- Every run of a step in the order of R354. -/
def State.dxPlan (s : State) : List (Delivered × Nat × Nat × Nat) :=
  s.inLayerOrder.flatMap (fun d =>
    (Entry.kinds d.entry s.rcScope).flatMap (fun kind =>
      (List.range (ceilDiv (Entry.groups d.entry) 64)).map (fun i =>
        (d, kind, 64 * i, min 64 (Entry.groups d.entry - 64 * i)))))

/-- Records leave the staging region once every enabled sink has accepted them (R357). -/
def State.dropStaged (s : State) : State :=
  let c := s.freg FR.DX_CTRL
  { s with rx := { s.rx with
      staged := s.rx.staged.filter (fun (r : Staged) => (bitB c 2 && !r.sent0) || (bitB c 3 && !r.sent1)) } }

/-- Records released to the sinks (R357). -/
def State.stageRecords (s : State) (rs : List (List Byte)) : State :=
  let recs := rs.map (fun b => ({ bytes := b, sent0 := false, sent1 := false } : Staged))
  State.count (State.dropStaged { s with rx := { s.rx with staged := s.rx.staged ++ recs } }) FR.DX_REC_CNT rs.length

/-- The differences of the open step dropped (R354). -/
def State.dropFormed (s : State) : State := { s with rx := { s.rx with formed := [], dxLost := false } }

/-- The records of a step that commits (R354): where some of its differences could not be staged, or its records do not
fit in the staging region, a gap in their place (R357). The fingerprints are those of the version that commits. -/
def State.releaseDx (s : State) (fps : List Nat) (ls : Nat) : State :=
  let c := s.freg FR.DX_CTRL
  if !bitB c 0 || !s.rcEn then s.dropFormed
  else
    let h : DxHead := { ty := 0, version := s.freg FR.HV_COMMIT_CNT + 1, step := s.freg FR.HV_STEP }
    let gap : State :=
      (((s.dropFormed.orFreg FR.DX_STATUS 4).count FR.DX_GAP_CNT).stageRecords [dxRecord { h with ty := 2 } []])
    match s.dxPlan.mapM (fun p => s.dxRun p.1 p.2.1 p.2.2.1 p.2.2.2 h) with
    | none => gap
    | some rs =>
      let all := rs ++ [dxRecord { h with ty := 3 } (leBytes 4 ls ++ fps.flatMap (leBytes 4))]
      if s.rx.dxLost || s.freg FR.DX_STAGE_SIZE < s.stagedBytes + (all.map List.length).sum then gap
      else s.dropFormed.stageRecords all

/-! ### Carrying out a decision (R340) -/

/-- The version bit of a layer inverted. -/
def State.flipBit (s : State) (l : Nat) : State :=
  s.setFreg (FR.HV_VER (l / 32)) (s.freg (FR.HV_VER (l / 32)) ^^^ 2 ^ (l % 32))

/-- The layers that an import, an apply or a commit flips. -/
def State.flipLayers (s : State) (ls : List Nat) : State := ls.foldl State.flipBit s

/-- The CRCs of a layer's groups in increasing order, as kept in the open step: of its gradient or of its pending bytes. -/
def State.crcList (s : State) (d : Delivered) (grad : Bool) : List Nat :=
  (List.range (Entry.groups d.entry)).filterMap (fun j =>
    (s.hv.crcs.find? (fun e => e.layer == d.layer && e.group == j)).map (fun e => if grad then e.grad else e.pend))

/-- The fingerprint of a layer from the CRCs kept in the open step. -/
def State.keptFp (s : State) (d : Delivered) (grad : Bool) : Nat := crcsFp d s.rcScope grad (s.crcList d grad)

/-- The layer results and CRC lists of a captured step (R364), in delivery order. -/
def State.captureResults (s : State) : State :=
  let ds := s.hv.delivered
  let s := ds.foldl (fun (s : State) d =>
    s.capture 5 (d.word.bytes ++ leBytes 4 (s.keptFp d true) ++ leBytes 4 (s.keptFp d false))) s
  ds.foldl (fun (s : State) d => s.capture 6 ((s.crcList d true ++ s.crcList d false).flatMap (leBytes 4))) s

/-- The decision has been carried out with an outcome (R340). -/
def State.endCarry (s : State) (outcome : Nat) (held : Bool) (failed : Option (Nat × Nat)) : State :=
  let s := s.dropFormed.captureResults
  let s := if failed.isSome then s.count FR.HV_UPD_FAIL_CNT else s
  State.hvComplete { s with
    hv := { s.hv with carried := true, outcome, lsHeld := held, failed, waits := [], refused := [] }
    rx := { s.rx with phase := .idle, work := [], repaired := [], release := none } }

/-- A skip, or what is carried out as one (R340, R352): the working copies of begun groups are made again from
the committed masters. -/
def State.carrySkip (s : State) (outcome : Nat) (held : Bool) (failed : Option (Nat × Nat)) : State :=
  match State.remakeAll State.verBit false s.hv.begun s with
  | .ok s () => s.endCarry outcome held failed
  | .wait s => s
  | .fail s _ _ => s

/-- A running job notes that a commit has occurred since it began (R362). -/
def State.noteCommit (s : State) : State :=
  match s.rx.job with
  | some j => if j.ended.isNone then s.setJob { j with flipped := true } else s
  | none => s

/-- The flip (R340, R348, R354). -/
def State.carryCommit (s : State) (outcome : Nat) : State :=
  let go (s : State) (fps : List Nat) : State :=
    let s := (s.releaseDx fps (s.nextLs outcome)).captureResults
    let s := s.flipLayers (s.hv.delivered.map (·.layer))
    let s := (s.count FR.HV_COMMIT_CNT).noteCommit
    State.hvComplete { s with
      hv := { s.hv with carried := true, outcome, lsHeld := false, failed := none, waits := [], refused := [] }
      rx := { s.rx with phase := .idle, work := [], repaired := [], release := none } }
  if s.rcEn then
    match s.pendingFps.bind (fun s fps => (s.writeFps fps).bind (fun s _ => .ok s fps)) with
    | .ok s fps => go s fps
    | .wait s => s
    | .fail s _ _ => s
  else go s []

/-- A layer of a replay against the capture's result of the same layer (R367): the stage that differs and the first
differing group. A layer that the capture lacks differs in its status word. -/
def State.layerDiff (s : State) (d : Delivered) (r : Option LayerResult) : Option (Nat × Nat) :=
  let firstDiff (a b : List Nat) : Nat := ((List.range a.length).find? (fun i => a.getD i 0 != b.getD i 0)).getD 0
  match r with
  | none => some (1, 0)
  | some r =>
    if r.word ≠ d.word then some (1, 0)
    else if s.keptFp d true ≠ r.gradFp then some (2, firstDiff r.gradCrcs (s.crcList d true))
    else if s.keptFp d false ≠ r.pendFp then some (3, firstDiff r.pendCrcs (s.crcList d false))
    else none

/-- The comparison of a replay (R367): the first layer in delivery order that differs from the capture, its stage and its
first differing group; then a layer of the capture that the replay has not delivered (log entry 220). -/
def State.replayDiff (s : State) (rs : List LayerResult) (ds : List Delivered) : Option (Nat × Nat × Nat) :=
  match ds.findSome? (fun d => (s.layerDiff d (rs.find? (fun r => r.word.layer == d.layer))).map (fun e => (d.layer, e))) with
  | some (l, st, g) => some (l, st, g)
  | none => (rs.find? (fun r => !ds.any (fun d => d.layer == r.word.layer))).map (fun r => (r.word.layer, 1, 0))

/-- A replayed step (R367): compared, then carried out as a skip with the loss scale inactive. -/
def State.carryReplay (s : State) (j : Job) : State :=
  let e : JobEnd := match s.replayDiff j.layers s.hv.delivered with
    | some (l, st, g) => { status := 7, layer := l, stage := st, group := g }
    | none => { status := 0 }
  (s.setJob { j with ended := some e }).carrySkip 2 true none

/-! ### The exchange begins (R349) -/

/-- A group's size, this chip's rank in it and its members' node numbers, where the group may be used (R387) and names
this chip's node at its rank (R394). -/
def State.exGroup (s : State) : HRes (Option (Nat × Nat × List Nat)) :=
  let g := bits (s.freg FR.RC_CTRL) 31 16
  if s.freg FR.CE_GROUP_CNT ≤ g then .ok s none
  else (s.ceRead 0x10000 0 (s.freg FR.CE_GROUP_BASE + 64 * g) 64).bind (fun s bs =>
    let e := leNat bs
    if !groupOk e then .ok s none
    else
      let n := bits e 48 32
      (s.ceRead 0x10000 0 (bits e 127 64) (2 * n)).bind (fun s bs =>
        let nodes := elemsOf 2 n bs
        .ok s (if nodes.getD (bits e 15 0) 0 = s.freg FR.FL_NODE_ID then some (n, bits e 15 0, nodes) else none)))

/-- This chip's exchange record (R349). -/
def State.ownRecord (s : State) (rank : Nat) (fps : List Nat) : ExRecord :=
  let failed := !s.hv.fails.isEmpty
  let o := if failed then 3 else if s.hv.decision = some .redo then 1 else 0
  { rank, outcome := o, lsState := s.nextLs o, scope := s.rcScope, layerCnt := s.layerCnt
    step := s.freg FR.HV_STEP, commitCnt := s.freg FR.HV_COMMIT_CNT
    words := if failed then fps.map (fun _ => 0) else fps }

/-- The bytes of an exchange record: the 32-byte header, then one fingerprint word per layer table entry (R349). -/
def exBytes (r : ExRecord) : List Byte :=
  leBytes 32 (r.commitCnt % 2 ^ 64 + r.step % 2 ^ 64 * 2 ^ 64 + r.layerCnt % 2 ^ 16 * 2 ^ 160 + r.outcome % 2 ^ 8 * 2 ^ 176
    + r.scope % 4 * 2 ^ 184 + r.lsState % 2 ^ 32 * 2 ^ 192) ++ r.words.flatMap (leBytes 4)

/-- What stands for a descriptor of the device's own exchange (R349, log entry 164): an all-gather of n bytes of RAW data
over group g, in deterministic mode. -/
def exDesc (g n : Nat) : BitVec 1024 :=
  BitVec.ofNat 1024 (3 + 2 ^ 16 + 7 * 2 ^ 20 + 7 * 2 ^ 24 + g % 2 ^ 16 * 2 ^ 32 + n % 2 ^ 48 * 2 ^ 64)

/-- The exchange begins (R349): an instance of the device's own takes a slot and all-gathers this chip's record with the
other members, READY first (R392, log entry 164). A group that cannot be used aborts it (log entry 145). -/
def State.startExchange (s : State) : State :=
  let go (s : State) : State := { s with rx := { s.rx with phase := .exchanging } }
  match s.exGroup with
  | .wait s => s
  | .fail s _ _ => (go s).abortExchange 3
  | .ok s none => (go s).abortExchange 4
  | .ok s (some (n, me, nodes)) =>
    match s.pendingFps with
    | .wait s => s
    | .fail s _ _ => (go s).abortExchange 3
    | .ok s fps =>
      let own := exBytes (s.ownRecord me fps)
      let i : Inst := { cid := 4080, cseq := s.freg FR.HV_STEP, begun := true, n, me, nodes, own := clean own
                        desc := exDesc (bits (s.freg FR.RC_CTRL) 31 16) own.length }
      State.pumpSlots { go s with ce := { s.ce with mine := some i } }

/-- The decision carried out as far as it goes now (R340, R349, R352, R353). A step that commits and
exchanges fingerprints waits for the exchange first. -/
def State.carryOut (s : State) : State :=
  match s.hv.decision with
  | none => s
  | some d =>
    if s.hv.carried then s
    else
      let settled := s.hv.delivered.all s.layerSettled
      match s.jobOf 4 with
      | some j => if settled then s.carryReplay j else s
      | none =>
        if d = .skipNf ∨ d = .skipCeil then s.carrySkip 2 false none
        else if !settled then s
        else
          let outcome := if d = .redo then 1 else 0
          let fin (s : State) : State :=
            match s.hv.fails with
            | [] => s.carryCommit outcome
            | (l, reason) :: _ => s.carrySkip 3 true (some (reason, l))
          match s.rx.phase, s.rx.release with
          | .passed, _ => fin s
          | .halted, some true => fin s
          | .halted, some false => s.carrySkip 2 true none
          | .halted, none => s
          | .exchanging, _ => s
          | .bisecting, _ => s
          | .idle, _ =>
            let checked : HRes Unit :=
              if bitB (s.freg FR.HV_CTRL) 4 && s.hv.fails.isEmpty then
                State.remakeAll (fun s l => 1 - s.verBit l) true s.allGroups s
              else .ok s ()
            match checked with
            | .wait s => s
            | .fail s _ _ => s
            | .ok s () =>
              if bitB (s.freg FR.RC_CTRL) 1 then s.startExchange else fin s

/-! ### The barrier opens (R340) -/

/-- Whether every cell has arrived at the open Equinox barrier. -/
def State.allArrived (s : State) : Bool := allCells.all (fun c => s.sync.equinox.arrived.contains c)

/-- The completion of an Equinox barrier is a moment at which slices retire layers (R239). -/
def State.retireMoment (s : State) : State :=
  { s with slices := s.slices.map (fun x => { x with retireDue := x.retireDue || !x.failedAt.isEmpty }) }

/-- The Equinox barrier opens (R209, R340): every EQNX that waited is granted a value or holds a fault. -/
def State.openEquinox (s : State) (v : Word) (flt : Option FaultInfo) : State :=
  let s := s.retireMoment
  match flt with
  | none => s.openBarrier .equinox allCells v
  | some f =>
    let g := s.sync.equinox.gen
    let s := allCells.foldl (fun s c =>
      match (s.cell c).head with
      | some e => if e.ins.op = .eqnx && e.arrived = some g then s.modCell c (fun x => x.faultHead f) else s
      | none => s) s
    s.openBarrier .equinox allCells 0

/-- The start of a captured step, or its end (R364): the records that the opening of the barrier writes. -/
def State.captureEdge (s : State) (outcome : Nat) : State :=
  match s.jobOf 3 with
  | none => s
  | some j =>
    if j.live then
      let s := if j.size < j.pos + endRecordLen then s
        else s.captureRec j 7 (leBytes 4 outcome ++ leBytes 8 (j.records + 1) ++ leBytes 4 (b2n (!j.full)))
      match s.jobOf 3 with
      | some j => s.setJob { j with ended := some { status := if j.full then 3 else 0 } }
      | none => s
    else
      let head := leBytes 8 (bits j.desc.toNat 383 320) ++ leBytes 8 (s.freg FR.HV_STEP)
        ++ leBytes 8 (s.freg FR.HV_COMMIT_CNT) ++ leBytes 4 (s.freg FR.HV_LS_STATE) ++ leBytes 4 (s.freg FR.HV_CTRL)
        ++ leBytes 8 (s.freg FR.HV_CLIP_THR) ++ leBytes 8 (s.freg FR.HV_NORM_CEIL) ++ leBytes 4 (s.freg FR.HR_MODE)
      let s := (s.setJob { j with live := true }).capture 1 (head ++ leBytes (4 * s.layerCnt) 0)
      let s := match s.jobOf 3 with
        | some k => if k.full then s else State.flushJob (s.setJob { k with owedFps := some (j.buf + j.pos + 32 + head.length) })
        | none => s
      s.capture 2 (allCells.flatMap (fun c =>
        leBytes 8 ((s.cell c).reg CR.NUM_SR_SEED) ++ leBytes 8 ((s.cell c).reg CR.NUM_SR_STEP)))

/-- The step ends (R339, R340): loss scale, HV_STEP, outcome, IDLE, and the barrier opens. -/
def State.closeStep (s : State) : State :=
  let o := s.hv.outcome
  let flt : Option FaultInfo := s.hv.failed.map (fun f =>
    { cause := 0x74, detail := f.1 * 2 ^ 20 + f.2 % 1024, unit := .hv, cls := if f.1 = 2 ∨ f.1 = 5 then 3 else 5 })
  let s := if s.hv.lsHeld then s else s.setFreg FR.HV_LS_STATE (s.nextLs o)
  let s := (s.count FR.HV_STEP).putFreg FR.HV_STATUS 9 8 o
  let s := State.captureEdge { s with hv := {} } o
  s.openEquinox (BitVec.ofNat 64 o) flt

/-- EQUINOX_BARRIER (R340): the decision is carried out as far as it goes, and the barrier opens once every
cell has arrived; with no delivery in the step every EQNX faults. -/
def State.equinoxBarrier (s : State) : State :=
  let cs := s.hv.subs.map (·.cell)
  if s.hv.delivered.isEmpty then
    if s.allArrived then
      (s.captureEdge (bits (s.freg FR.HV_STATUS) 9 8)).openEquinox 0 (some { cause := 0x73, unit := .hv })
    else s
  else
    let s := s.carryOut
    (if s.hv.carried && s.allArrived then s.closeStep else s).pumpAll cs

/-- LEND_STARVED (R334). -/
def State.lendStarved (s : State) (k : Fin 16) : State :=
  if s.matrixWork k && !s.bandLent k && !bitB (s.freg (FR.HV_U_STATUS k.val)) 3 then
    (s.orFreg (FR.HV_U_STATUS k.val) 8).logEvent 0x0403 k.val 0 0 0 0
  else s

end Sys2Proof.Machine
end

