-- ==== Sys2Proof/Machine/Replica.lean ====
section
/-! DEFINITION. The exchange of fingerprints, bisection, repair and release (R349 to R353), the sinks of the
difference stream and the apply engine (R357, R358), and the jobs (R360 to R368). -/

namespace Sys2Proof.Machine

/-! ### The exchange (R349, R350, R353) -/

/-- RC_STATUS (R370). -/
def State.rcStatus (s : State) : Nat :=
  let halted := s.rx.phase == .halted && s.rx.release.isNone
  s.freg FR.RC_STATUS + 16 * b2n halted +
    match s.rx.phase with
    | .idle => 0
    | .exchanging => 1
    | .bisecting =>
      if s.rcPolicy = 1 && (s.rx.work.take 16).all (fun w => w.n ≤ 1) then 3 else 2
    | .halted => if halted then 4 else 0
    | .passed => 0

/-- The instance of the device's own exchange (R349, R389), with its slot. -/
def State.ownExchange (s : State) : Option (Fin 32 × Inst) :=
  (s.slotOf 4080).bind (fun k => (s.inst k).map (fun i => (k, i)))

/-- The exchange ends (R349 to R352), and its slot becomes free. -/
def State.passExchange (s : State) (halt : Bool) : State :=
  let s := match s.ownExchange with
    | some (k, i) => s.closeInst k i 0 0xFFFFFFFF {} false
    | none => s
  (s.endExchange halt).pumpSlots

/-- The Parade engine reports that the exchange has been aborted (R353, R402). -/
def State.exchangeAborted (s : State) (status : Nat) : State :=
  match s.ownExchange with
  | some (k, i) => (s.abortInst k status i.me).pumpSlots
  | none => (State.abortExchange { s with ce := { s.ce with mine := none } } status)

/-- Words or bytes of the exchange sent on to some of its members (R351, R352, log entry 164), behind what its all-gather
of the records has sent. -/
def State.sendOwn (s : State) (ranks : List Nat) (bs : List Byte) : State :=
  match s.ownExchange with
  | none => s
  | some (k, i) =>
    let rs := ranks.filter (· != i.me)
    let off := (i.n - 1) * i.count + (i.own.length - i.count)
    let i := { i with
      own := i.own ++ clean bs, bytes := i.bytes + rs.length * bs.length
      fed := rs.foldl (fun (m : NSet) r => m.add r) i.fed }
    let fs := cutFrames i 1 s.flPayload (bs.length / s.flPayload + 1) off (clean bs)
    rs.foldl (fun s r => s.sendFrames (i.nodes.getD r 0) fs) (s.setInst k (some i))

/-- This chip's words of a round all-gathered with the members in step, where it is one of them (R351). -/
def State.gatherOwn (s : State) (me : Nat) (w : Bisect) (bs : List Byte) : State :=
  if w.ranks.contains me then s.sendOwn w.ranks bs else s

/-- The record inserted by rank. -/
def insertRank (r : ExRecord) : List ExRecord → List ExRecord
  | [] => [r]
  | a :: l => if r.rank ≤ a.rank then r :: a :: l else a :: insertRank r l

/-- A record whose member took part in the commit (R350). -/
def ranGood (r : ExRecord) : Bool := r.outcome ≤ 1

/-- Whether a member is in step with the lowest-ranked one that committed (R350). -/
def inStep (rs : List ExRecord) (r : ExRecord) : Bool :=
  match rs.find? ranGood with
  | none => false
  | some a =>
    ranGood r && r.lsState == a.lsState && r.scope == a.scope && r.layerCnt == a.layerCnt && r.step == a.step
      && r.commitCnt == a.commitCnt

/-- The fingerprint of a layer in a record. -/
def wordOf (l : Nat) (r : ExRecord) : Nat := r.words.getD l 0

/-- How many records hold a value for a layer. -/
def votes (l : Nat) (rs : List ExRecord) (v : Nat) : Nat := (rs.filter (fun r => wordOf l r == v)).length

/-- The reference replica of a layer: the lowest rank whose value most in-step members hold (R350). -/
def refMember (l : Nat) (rs : List ExRecord) : Option ExRecord :=
  rs.foldl (fun b r =>
    match b with
    | none => some r
    | some b => if votes l rs (wordOf l b) < votes l rs (wordOf l r) then some r else some b) none

/-- The diverged layers with their reference ranks (R350). -/
def divergedLayers (rs : List ExRecord) (n : Nat) : List (Nat × Nat) :=
  (List.range n).filterMap (fun l =>
    match refMember l rs with
    | some a => if rs.any (fun r => wordOf l r != wordOf l a) then some (l, a.rank) else none
    | none => none)

/-- The update groups of a layer. -/
def State.layerGroups (s : State) (l : Nat) : Nat :=
  match s.deliveryOf l with
  | some d => Entry.groups d.entry
  | none => 1

/-- FINGERPRINT_EXCHANGE (R349, R350, R353): the other members' records, or an abort of the exchange. -/
def State.exchange (s : State) (others : List ExRecord) (aborted : Option Nat) : State :=
  if s.rx.phase ≠ .exchanging then s
  else match aborted, s.ownExchange with
    | some st, _ => s.exchangeAborted st
    | none, none => s
    | none, some (_, i) =>
      match s.pendingFps with
      | .wait s => s
      | .fail s _ _ => s.exchangeAborted 3
      | .ok s fps =>
        let rs := (s.ownRecord i.me fps :: others.filter (fun r => r.rank != i.me)).foldl (fun l r => insertRank r l) []
        let good := rs.filter (inStep rs)
        let out := rs.filter (fun r => !inStep rs r)
        let s := if out.isEmpty then s else s.orFreg FR.RC_STATUS 0x100
        let s := out.foldl (fun s r => s.logEvent 0x0501 r.rank 5 0 r.outcome 0) s
        match divergedLayers good s.layerCnt with
        | [] => s.passExchange false
        | ls =>
          let work := ls.map (fun e => { layer := e.1, lo := 0, n := s.layerGroups e.1, ref := e.2, ranks := good.map (·.rank)
                                         crcs := good.map (fun r => (r.rank, wordOf e.1 r)) : Bisect })
          { s with rx := { s.rx with phase := .bisecting, work, repaired := [] } }

/-! ### Bisection and repair (R351, R352) -/

/-- The size of a part of a range (R351). -/
def partSize (n : Nat) : Nat := ceilDiv n 64

/-- The CRC-32Cs of the parts of a range from the stored CRCs of its groups; empty parts are left out. -/
def partCrcs (e : Entry) (scope size : Nat) : Nat → Nat → List Nat → List Nat
  | 0, _, _ => []
  | fuel + 1, j, cs =>
    if cs.isEmpty then []
    else joinCrcs e scope j (cs.take size) 0 :: partCrcs e scope size fuel (j + size) (cs.drop size)

/-- This chip's words for a layer under bisection: part CRCs, or at one group the CRC of each tensor in scope (R351). What
it cannot read it sends as no words (log entry 146). -/
def State.ownWords (s : State) (w : Bisect) : HRes (List Nat) :=
  let quiet (r : HRes (List Nat)) : HRes (List Nat) :=
    match r with
    | .fail s _ _ => .ok s []
    | r => r
  match s.deliveryOf w.layer with
  | none => .ok s []
  | some d =>
    if 1 < w.n then
      quiet ((s.readGcrcs w.layer w.lo w.n false).bind (fun s cs =>
        .ok s (partCrcs d.entry s.rcScope (partSize w.n) 64 w.lo cs)))
    else
      quiet ((s.readKinds 0 d.entry (1 - s.verBit w.layer) w.lo (Entry.kinds d.entry s.rcScope)).bind (fun s l =>
        .ok s (l.map (fun t => crc32c t.2))))

/-- The words of every in-step member for a layer, by rank, once this chip's own are there. -/
def roundWords (me : Nat) (own : List Nat) (w : Bisect) (r : RoundIn) : List (Nat × List Nat) :=
  w.ranks.map (fun k =>
    if k = me then (k, own)
    else (k, ((r.words.find? (fun t => t.1 == k && t.2.1 == w.layer)).map (fun t => t.2.2)).getD []))

/-- The words of the reference replica. -/
def refWords (w : Bisect) (ws : List (Nat × List Nat)) : List Nat :=
  ((ws.find? (fun t => t.1 == w.ref)).map (·.2)).getD []

/-- The next range of a layer: the lowest part in which some member differs from the reference (R351). A part of one group
gives that group's CRC on each member. -/
def nextRange (w : Bisect) (ws : List (Nat × List Nat)) : Option Bisect :=
  let a := refWords w ws
  let p := partSize w.n
  match (List.range (ceilDiv w.n p)).find? (fun i => ws.any (fun t => t.2.getD i 0 != a.getD i 0)) with
  | some i => some { w with lo := w.lo + i * p, n := min p (w.n - i * p), crcs := ws.map (fun t => (t.1, t.2.getD i 0)) }
  | none => none

/-- A round over a layer whose range is more than one group. -/
def State.narrow (s : State) (me : Nat) (w : Bisect) (r : RoundIn) : HRes (Option Bisect) :=
  (s.ownWords w).bind (fun s own =>
    .ok (s.gatherOwn me w (own.flatMap (leBytes 4))) (nextRange w (roundWords me own w r)))

/-- This chip's words of a round for some layers read, so that the round can be held (R351). -/
def State.wordsRead : List Bisect → State → HRes Unit
  | [], s => .ok s ()
  | w :: ws, s => (if 1 < w.n then s.ownWords w else .ok s []).bind (fun s _ => State.wordsRead ws s)

/-- A round over the layers at hand: those whose words can be read go on, the others wait for the next round. -/
def State.narrowAll (me : Nat) (r : RoundIn) : List Bisect → State → State × List Bisect
  | [], s => (s, [])
  | w :: ws, s =>
    let one : State × List Bisect :=
      if w.n ≤ 1 then (s, [w])
      else match s.narrow me w r with
        | .ok s (some b) => (s, [b])
        | .ok s none => (s, [])
        | .wait s => (s, [w])
        | .fail s _ _ => (s, [w])
    let rest := State.narrowAll me r ws one.1
    (rest.1, one.2 ++ rest.2)

/-- A located group noted (R351): a record for every divergent rank. -/
def State.noteDivergence (s : State) (w : Bisect) (kinds : Nat) (ranks : List Nat) : State :=
  let info := 2 ^ 63 + kinds * 2 ^ 58 + w.layer % 1024 * 2 ^ 48 + w.lo % 2 ^ 48
  let s := (s.orFreg FR.RC_STATUS 0x20).count FR.RC_DIV_CNT
  let s := if bitB (s.freg FR.RC_DIV_INFO) 63 then s else s.setFreg FR.RC_DIV_INFO info
  ranks.foldl (fun s k => s.logEvent 0x0502 w.layer 2 0 info k) s

/-- The repaired group finished (R352, R354): its working copy, its CRC and its difference. -/
def State.refreshGroup (s : State) (d : Delivered) (g : Nat) : HRes Unit :=
  let e := d.entry
  let v := s.verBit d.layer
  let ks := Entry.kinds e s.rcScope
  (s.remakeWc d.layer e (1 - v) g false).bind (fun s _ =>
    (s.readKinds 0 e v g ks).bind (fun s old =>
      (s.readKinds 0 e (1 - v) g ks).bind (fun s new =>
        (s.writeGcrc d.layer g false (new.flatMap (·.2))).bind (fun s _ =>
          (s.keepCrc d.layer g (crc32c (new.flatMap (·.2))) none).formDx 0 d.layer g
            ((old.zip new).map (fun t => (t.1.1, t.1.2, t.2.2)))))))

/-- A repair received by this chip (R352): the bytes of each tensor, then each group's working copy, CRC and difference.
The result holds the groups repaired. -/
def State.takeRepair (d : Delivered) : List (Nat × Nat × List Byte) → List Nat → State → HRes (List Nat)
  | (g, kind, bs) :: rest, gs, s =>
    (s.writeTensor 0 d.entry kind (1 - s.verBit d.layer) g bs).bind (fun s _ =>
      State.takeRepair d rest (if gs.contains g then gs else gs ++ [g]) s)
  | [], gs, s => gs.foldl (fun (r : HRes (List Nat)) g => r.bind (fun s gs => (s.refreshGroup d g).bind (fun s _ => .ok s gs))) (.ok s gs)

/-- The bytes that the reference sends in a repair (R352): of every tensor in scope of the groups given. -/
def State.repairBytes (d : Delivered) : List Nat → List Byte → State → HRes (List Byte)
  | [], acc, s => .ok s acc
  | g :: gs, acc, s =>
    (s.readKinds 0 d.entry (1 - s.verBit d.layer) g (Entry.kinds d.entry s.rcScope)).bind (fun s l =>
      State.repairBytes d gs (acc ++ l.flatMap (·.2)) s)

/-- How many groups of a layer a commit repairs before the whole layer is copied (R370). -/
def State.repairMax (s : State) : Nat :=
  let n := bits (s.freg FR.RC_CTRL) 11 8
  if n = 0 then 8 else n

/-- Groups of a layer repaired so far. -/
def State.repairedOf (s : State) (l : Nat) : Nat := ((s.rx.repaired.find? (fun e => e.1 == l)).map (·.2)).getD 0

/-- The layer is exchanged again after a repair (R352): dropped where every member now agrees, else bisected again, with
the reference that R350 then gives. -/
def exchangeAgain (me own groups : Nat) (w : Bisect) (r : RoundIn) : Option Bisect :=
  let fp (k : Nat) : Nat :=
    if k = me then own else ((r.again.find? (fun t => t.1 == k && t.2.1 == w.layer)).map (fun t => t.2.2)).getD own
  let rs : List ExRecord := w.ranks.map (fun k => { rank := k, words := [fp k] })
  match refMember 0 rs with
  | none => none
  | some a =>
    if rs.all (fun r => wordOf 0 r == wordOf 0 a) then none
    else some { w with lo := 0, n := groups, ref := a.rank, crcs := rs.map (fun r => (r.rank, wordOf 0 r)) }

/-- What policy 1 does about a located group (R352): a divergent chip takes the reference's bytes, the reference sends
them, and the layer's fingerprint is formed again. The result is the groups that this chip has repaired and its
fingerprint. -/
def State.repairGroup (s : State) (me : Nat) (d : Delivered) (w : Bisect) (bad : List Nat) (whole : Bool) (r : RoundIn) :
    HRes (List Nat × Nat) :=
  let mine := (r.repair.filter (fun t => t.1 == w.layer && (whole || t.2.1 == w.lo))).map (·.2)
  let gs := if whole then List.range (Entry.groups d.entry) else [w.lo]
  (if bad.contains me then State.takeRepair d mine [] s else .ok s []).bind (fun s done =>
    (if me = w.ref then (State.repairBytes d gs [] s).bind (fun s bs => .ok (s.sendOwn bad bs) ()) else .ok s ()).bind
      (fun s _ => (s.layerFp d false).bind (fun s fp =>
        .ok (s.gatherOwn me w (leBytes 4 fp)) (done, fp))))

/-- A divergence located (R351) and, under policy 1, a repair (R352) counted. -/
def State.noteRepair (s : State) (w : Bisect) (whole mine : Bool) (groups : Nat) : State :=
  let n := s.repairedOf w.layer + 1
  let s := { s with rx := { s.rx with repaired := (w.layer, n) :: s.rx.repaired.filter (fun e => e.1 != w.layer) } }
  let s := if whole then s.orFreg FR.RC_STATUS 0x80 else s
  if mine then (s.count FR.RC_REPAIR_CNT groups).orFreg FR.RC_STATUS 0x40 else s

/-- One layer whose range is one group (R351, R352): located, and under policy 1 repaired. The result is the layer's
further work. Nothing is counted before everything that has to be read or written has been. -/
def State.locate (s : State) (me : Nat) (w : Bisect) (r : RoundIn) : HRes (Option Bisect) :=
  match s.deliveryOf w.layer with
  | none => .ok s none
  | some d =>
    (s.ownWords w).bind (fun s own =>
      let s := s.gatherOwn me w (own.flatMap (leBytes 4))
      let ws := roundWords me own w r
      let a := refWords w ws
      let crc (k : Nat) : Nat := ((w.crcs.find? (fun c => c.1 == k)).map (·.2)).getD 0
      let bad := w.ranks.filter (fun k => crc k != crc w.ref)
      let ks := Entry.kinds d.entry s.rcScope
      let mask := ((List.range ks.length).map (fun i =>
        if ws.any (fun t => t.2.getD i 0 != a.getD i 0) then 2 ^ ks.getD i 0 else 0)).sum
      if s.rcPolicy ≠ 1 then .ok (s.noteDivergence w mask bad) none
      else
        let whole := decide (s.repairMax ≤ s.repairedOf w.layer)
        (s.repairGroup me d w bad whole r).bind (fun s x =>
          .ok ((s.noteDivergence w mask bad).noteRepair w whole (bad.contains me) x.1.length)
            (exchangeAgain me x.2 (s.layerGroups w.layer) w r)))

/-- The final all-gather over the layers at hand (R351). A layer that has to wait takes part in the next one; one whose
repair cannot be made is left as it is (log entry 143). -/
def State.locateAll (me : Nat) (r : RoundIn) : List Bisect → List Bisect → State → State × List Bisect
  | [], acc, s => (s, acc)
  | w :: ws, acc, s =>
    match s.locate me w r with
    | .ok s (some b) => State.locateAll me r ws (acc ++ [b]) s
    | .ok s none => State.locateAll me r ws acc s
    | .wait s => (s, acc ++ w :: ws)
    | .fail s _ _ => State.locateAll me r ws acc s

/-- BISECTION_ROUND (R351, R352, R353): a round over the first 16 diverged layers, or once their ranges are one
group each, the final all-gather with what the policy has done then. -/
def State.bisect (s : State) (r : RoundIn) : State :=
  if s.rx.phase ≠ .bisecting then s
  else match r.aborted, s.ownExchange with
    | some st, _ => s.exchangeAborted st
    | none, none => s
    | none, some (_, i) =>
      let now := s.rx.work.take 16
      let later := s.rx.work.drop 16
      let go (t : State × List Bisect) : State :=
        let work := t.2 ++ later
        let s := { t.1 with rx := { t.1.rx with work } }
        if work.isEmpty then s.passExchange (s.rcPolicy == 2) else s
      if now.any (fun w => 1 < w.n) then
        match State.wordsRead now s with
        | .wait s => s
        | .ok s () => go (State.narrowAll i.me r now (s.count FR.RC_BISECT_CNT))
        | .fail s _ _ => s
      else go (State.locateAll i.me r now [] s)

/-- A write of v to RC_RELEASE (R352). -/
def State.release (s : State) (v : Nat) : State :=
  let a := bits v 1 0
  if s.rx.phase = .halted && s.rx.release.isNone && (a = 1 || a = 2) then
    { s with rx := { s.rx with release := some (a == 1) } }
  else s.orFreg FR.RC_STATUS 8

/-! ### Sinks and the apply engine (R357, R358) -/

/-- The bytes of a ring of the encoded size. -/
def ringBytes (enc : Nat) : Nat := 2 ^ (enc + 16)

/-- Bytes written into a ring at an offset, around its end. -/
def State.ringWrite (s : State) (base size off : Nat) (bs : List Byte) : HRes Unit :=
  let n := size - off
  (s.hvWrite 0 0 (base + off) (bs.take n)).bind (fun s _ => s.hvWrite 0 0 base (bs.drop n))

/-- Bytes read from a ring at an offset, around its end. -/
def State.ringRead (s : State) (base size off n : Nat) : HRes (List Byte) :=
  let a := min n (size - off)
  (s.hvRead 0 0 (base + off) a).bind (fun s x => (s.hvRead 0 0 base (n - a)).bind (fun s y => .ok s (x ++ y)))

/-- The first staged record that a sink has not accepted marked as accepted. -/
def markSent (sink : Fin 2) : List Staged → List Staged
  | [] => []
  | r :: rs =>
    if (if sink = 0 then r.sent0 else r.sent1) then r :: markSent sink rs
    else (if sink = 0 then { r with sent0 := true } else { r with sent1 := true }) :: rs

/-- DX_SINK_WRITE (R357): the oldest staged record that a sink lacks goes to it if it fits. -/
def State.sinkWrite (s : State) (sink : Fin 2) : State :=
  let c := s.freg FR.DX_CTRL
  let accept (s : State) : State := State.dropStaged { s with rx := { s.rx with staged := markSent sink s.rx.staged } }
  if !bitB c (2 + sink.val) then s
  else match s.rx.staged.find? (fun (r : Staged) => if sink = 0 then !r.sent0 else !r.sent1) with
  | none => s
  | some r =>
    if sink = 0 then
      let size := ringBytes (bits c 15 12)
      let tail := s.freg FR.DX_RING_TAIL % size
      let head := s.freg FR.DX_RING_HEAD % size
      if size ≤ (tail + size - head) % size + r.bytes.length then s
      else match s.ringWrite (s.freg FR.DX_RING_BASE) size tail r.bytes with
        | .ok s () => accept (s.setFreg FR.DX_RING_TAIL ((tail + r.bytes.length) % size))
        | .wait s => s
        | .fail s _ _ => s
    else
      let node := bits c 31 16
      let i : Inst := { cid := 4095, cseq := s.freg FR.DX_REC_CNT }
      accept (s.sendFrames node (messageFrames i 1 s.flPayload (clean r.bytes)))

/-- A token stream decoded over n words (R356): the words, or none where the tokens do not cover them exactly. -/
def untoken : Nat → Nat → List Nat → Option (List Nat)
  | 0, n, ws => if n = 0 && ws.isEmpty then some [] else none
  | fuel + 1, n, ws =>
    match ws with
    | [] => if n = 0 then some [] else none
    | t :: rest =>
      let z := t / 65536
      let m := t % 65536
      if n < z + m || rest.length < m then none
      else (untoken fuel (n - z - m) (rest.drop m)).map (fun r => List.replicate z 0 ++ rest.take m ++ r)

/-- A field [hi:lo] of a record's header (R355). -/
def dxF (r : List Byte) (hi lo : Nat) : Nat := bits (leNat (r.take 64)) hi lo

/-- rec_crc of a record holds (R355). -/
def dxCrcOk (r : List Byte) : Bool :=
  let len := dxF r 223 192
  dxF r 31 0 == crc32c (List.replicate 4 0 ++ (r.drop 4).take 60 ++ (r.drop 64).take len)

/-- The valid layers with their entries (R322), where every entry can be read. -/
def State.entriesFrom (l : Nat) : Nat → State → HRes (List (Nat × Entry))
  | 0, s => .ok s []
  | n + 1, s => (s.readEntry l).bind (fun s e =>
      (State.entriesFrom (l + 1) n s).bind (fun s r => .ok s (if Entry.valid e then (l, e) :: r else r)))

/-- A type 1 record applied (R358): none where a check fails. -/
def State.applyDiff (s : State) (r : List Byte) : HRes Bool :=
  let l := dxF r 63 48
  let kind := dxF r 47 40
  let g0 := dxF r 319 256
  let n := dxF r 255 224
  if s.layerCnt ≤ l || kind > 3 then .ok s false
  else (s.readEntry l).bind (fun s e =>
    if !Entry.valid e || !(Entry.kinds e 2).contains kind || n = 0 || 64 < n || Entry.groups e < g0 + n then .ok s false
    else
      let v := s.verBit l
      let len := ((List.range n).map (fun i => Entry.groupLen e (g0 + i))).sum * kindSize kind
      match untoken (dxF r 223 192 / 4 + 1) (ceilDiv len 4) (elemsOf 4 (dxF r 223 192 / 4) (r.drop 64)) with
      | none => .ok s false
      | some ws =>
        (s.readTensor 0 e kind v g0 len).bind (fun s a =>
          (s.writeTensor 0 e kind (1 - v) g0 (xorBytes a ((ws.flatMap (leBytes 4)).take len))).bind (fun s _ =>
            .ok { s with rx := { s.rx with
              covered := s.rx.covered ++ (List.range n).map (fun i => (l, kind, g0 + i)) } } true)))

/-- The group CRCs of a layer formed from the bytes of a slot (R346). -/
def State.crcsOf (e : Entry) (v : Nat) : List Nat → State → HRes (List Nat)
  | [], s => .ok s []
  | j :: js, s =>
    (s.readKinds 0 e v j (Entry.kinds e s.rcScope)).bind (fun s l =>
      (State.crcsOf e v js s).bind (fun s r => .ok s (crc32c (l.flatMap (·.2)) :: r)))

/-- The fingerprints of the pending slots, one for each layer table entry (R346, R358). -/
def State.slotFps (s : State) (es : List (Nat × Entry)) : List Nat → HRes (List Nat)
  | [] => .ok s []
  | l :: ls =>
    match es.find? (fun e => e.1 == l) with
    | none => (s.slotFps es ls).bind (fun s r => .ok s (0 :: r))
    | some e =>
      (State.crcsOf e.2 (1 - s.verBit l) (List.range (Entry.groups e.2)) s).bind (fun s cs =>
        (s.slotFps es ls).bind (fun s r => .ok s (joinCrcs e.2 s.rcScope 0 cs 0 :: r)))

/-- Groups of tensors copied from the committed to the pending slot: (entry, layer, kind, group). -/
def State.copyGroups : List (Nat × Entry × Nat × Nat) → State → HRes Unit
  | [], s => .ok s ()
  | (l, e, kind, j) :: rest, s =>
    let n := Entry.groupLen e j * kindSize kind
    (s.readTensor 0 e kind (s.verBit l) j n).bind (fun s b =>
      (s.writeTensor 0 e kind (1 - s.verBit l) j b).bind (fun s _ => State.copyGroups rest s))

/-- Working copies made from the pending masters: (layer, entry, group). -/
def State.remakePending : List (Nat × Entry × Nat) → State → HRes Unit
  | [], s => .ok s ()
  | (l, e, j) :: rest, s =>
    (s.remakeWc l e (1 - s.verBit l) j false).bind (fun s _ => State.remakePending rest s)

/-- The groups of kinds of layers. -/
def groupsOf (es : List (Nat × Entry)) (kinds : Entry → List Nat) : List (Nat × Entry × Nat × Nat) :=
  es.flatMap (fun e => (kinds e.2).flatMap (fun k => (List.range (Entry.groups e.2)).map (fun j => (e.1, e.2, k, j))))

/-- The kinds of a layer outside a list. -/
def otherKinds (ks : List Nat) (e : Entry) : List Nat := (Entry.kinds e 2).filter (fun k => !ks.contains k)

/-- A type 3 record applied (R358): false where a check fails. -/
def State.applyEnd (s : State) (r : List Byte) : HRes Bool :=
  (State.entriesFrom 0 s.layerCnt s).bind (fun s es =>
    let need := (groupsOf es (fun e => Entry.kinds e s.rcScope)).map (fun t => (t.1, t.2.2.1, t.2.2.2))
    if !need.all s.rx.covered.contains || dxF r 223 192 ≠ 4 + 4 * s.layerCnt then .ok s false
    else (s.slotFps es (List.range s.layerCnt)).bind (fun s fps =>
      if fps ≠ elemsOf 4 s.layerCnt (r.drop 68) then .ok s false
      else (State.copyGroups (groupsOf es (fun e => otherKinds (Entry.kinds e s.rcScope) e)) s).bind (fun s _ =>
        (State.remakePending (es.flatMap (fun e => (List.range (Entry.groups e.2)).map (fun j => (e.1, e.2, j)))) s).bind
          (fun s _ => (if s.rcEn then s.writeFps fps else .ok s ()).bind (fun s _ =>
            let s := s.flipLayers (es.map (·.1))
            let s := s.setFreg FR.HV_LS_STATE (leNat ((r.drop 64).take 4))
            let s := (((s.count FR.HV_STEP).count FR.HV_COMMIT_CNT).count FR.DX_APPLY_CNT).noteCommit
            .ok { s with rx := { s.rx with covered := [] } } true)))))

/-- The apply engine stops (R358): the pending writes of the version are dropped. -/
def State.stopApply (s : State) (r : List Byte) : State :=
  (State.orFreg { s with rx := { s.rx with covered := [] } } FR.DX_STATUS 8).logEvent 0x0504 (dxF r 63 48) 5 0
    (dxF r 127 64) 0

/-- A record taken by the apply engine (R358). -/
def State.applyRecord (s : State) (r : List Byte) : HRes Unit :=
  let drop (s : State) : HRes Unit := .ok (s.stopApply r) ()
  let run (k : HRes Bool) : HRes Unit :=
    match k with
    | .ok s true => .ok s ()
    | .ok s false => drop s
    | .wait s => .wait s
    | .fail s _ _ => drop s
  if !dxCrcOk r || dxF r 127 64 ≠ s.freg FR.HV_COMMIT_CNT + 1 then drop s
  else match dxF r 39 32 with
    | 1 => run (s.applyDiff r)
    | 3 => run (s.applyEnd r)
    | _ => drop s

/-- The record at the head of the apply ring, where the host has advanced its tail over all of it (R358). -/
def State.applyNext (s : State) : HRes (Option (List Byte)) :=
  let size := ringBytes (bits (s.freg FR.DX_CTRL) 11 8)
  let head := s.freg FR.DX_APPLY_HEAD % size
  let avail := (s.freg FR.DX_APPLY_TAIL % size + size - head) % size
  if avail < 64 then .ok s none
  else (s.ringRead (s.freg FR.DX_APPLY_BASE) size head 64).bind (fun s h =>
    let n := 64 + ceilDiv (dxF h 223 192) 64 * 64
    if avail < n then .ok s none
    else (s.ringRead (s.freg FR.DX_APPLY_BASE) size head n).bind (fun s r => .ok s (some r)))

/-- APPLY_RECORD (R358): the next record of the apply ring, or one that has come over Flagen. -/
def State.apply (s : State) (fromPeer : List Byte) : State :=
  let c := s.freg FR.DX_CTRL
  if !bitB c 4 || bitB (s.freg FR.DX_STATUS) 3 || s.hvState ≠ 0 then s
  else if bitB c 5 then
    match s.applyRecord fromPeer with
    | .ok s () => s.pumpDeliver
    | .wait s => s
    | .fail s _ _ => s
  else match s.applyNext with
    | .ok s (some r) =>
      match s.applyRecord r with
      | .ok s () =>
        (s.setFreg FR.DX_APPLY_HEAD ((s.freg FR.DX_APPLY_HEAD + r.length)
          % ringBytes (bits c 11 8))).pumpDeliver
      | .wait s => s
      | .fail s _ _ => s
    | .ok s none => s
    | .wait s => s
    | .fail s _ _ => (s.stopApply []).pumpDeliver

/-- DX_STATUS (R370). -/
def State.dxStatus (s : State) : Nat :=
  s.freg FR.DX_STATUS + b2n (!s.rx.covered.isEmpty) + 2 * b2n (!s.rx.staged.isEmpty)

/-! ### Jobs (R360 to R368) -/

/-- A field of a job descriptor (R360). -/
def Job.f (j : Job) (hi lo : Nat) : Nat := bits j.desc.toNat hi lo
/-- The job's type. -/
def Job.ty (j : Job) : Nat := j.f 7 0
/-- The selected layers. -/
def Job.layerList (j : Job) : List Nat := (List.range (j.f 79 64)).map (fun i => j.f 95 80 + i)
/-- The selected kinds. -/
def Job.kindList (j : Job) : List Nat := (List.range 4).filter (fun k => bitB (j.f 11 8) k)

/-- A job ended with a status. -/
def Job.finish (j : Job) (status : Nat) (layer : Nat := 0) : Job := { j with ended := some { status, layer } }

/-- The checks of a job descriptor (R360). -/
def State.jobOk (s : State) (j : Job) : Bool :=
  1 ≤ j.ty && j.ty ≤ 4 && j.f 63 12 == 0 && j.f 191 185 == 0 && j.f 319 313 == 0 && j.f 139 128 == 0
    && j.f 203 192 == 0 && (2 < j.ty || j.f 95 80 + j.f 79 64 ≤ s.layerCnt) && (j.ty != 3 || s.rcEn)

/-- What is still to be exported: the kinds that each selected layer has (R362). -/
def State.exportPlan (s : State) (j : Job) : HRes (List (Nat × Nat)) :=
  (State.entriesFrom 0 s.layerCnt s).bind (fun s es =>
    .ok s (j.layerList.flatMap (fun l =>
      match es.find? (fun e => e.1 == l) with
      | some e => ((Entry.kinds e.2 2).filter j.kindList.contains).map (fun k => (l, k))
      | none => [])))

/-- The version bits of the layers. -/
def State.verBits (s : State) : BitVec 1024 :=
  BitVec.ofNat 1024 ((List.range 32).map (fun k => s.freg (FR.HV_VER k) % 2 ^ 32 * 2 ^ (32 * k))).sum

/-- A layer of a capture as the comparison uses it. -/
def capResult (l : CapLayer) : LayerResult :=
  { word := { nonfinite := l.nonfinite, poison := l.poison, layer := l.layer, nfRank := l.nfRank, count := l.count
              sumsq := l.sumsq }
    gradFp := l.gradFp, pendFp := l.pendFp, gradCrcs := l.gradCrcs, pendCrcs := l.pendCrcs }

/-- The seeds of a capture loaded into the cells (R367). -/
def State.loadSeeds (s : State) (seeds : List (Word × Word)) : State :=
  allCells.foldl (fun s c =>
    match seeds[c.val]? with
    | some p => s.modCell c (fun x => (x.setReg CR.NUM_SR_SEED p.1.toNat).setReg CR.NUM_SR_STEP p.2.toNat)
    | none => s) s

/-- The start of a replay (R367): the capture's seeds, payloads and host inputs are taken over, and its records and bytes
count as consumed (R368). The job reads the buffer; what it finds there is `cap` (log entry 9). -/
def State.startReplay (s : State) (j : Job) (cap : CapIn) : HRes Unit :=
  let go (s : State) (fps : Option (List Nat)) : State :=
    if !cap.complete || fps ≠ some cap.fps then s.setJob (j.finish 6)
    else
      let j := { j with
        layers := cap.layers.map capResult, payloads := cap.payloads, inputs := cap.inputs, loop := s.flLoop, ports := true
        pos := cap.bytes, records := cap.records }
      ((s.setJob j).loadSeeds cap.seeds).orFreg FR.FL_CTRL 16
  match s.hvRead 0 0 j.buf (min j.size cap.bytes) with
  | .wait s => .wait s
  | .fail s _ _ => .ok (s.setJob (j.finish 8)) ()
  | .ok s _ =>
    match s.hvRead 0 0 (s.freg FR.RC_FP_BASE) (4 * s.layerCnt) with
    | .ok s b => .ok (go s (some (elemsOf 4 s.layerCnt b))) ()
    | .wait s => .wait s
    | .fail s _ _ => .ok (go s none) ()

/-- The start of the job whose descriptor lies at an address (R360); it waits for what it has to read. What a
replay finds in its buffer is free where the write does not say it (log entry 9). -/
def State.beginJob (s : State) (v : Nat) (cap : Option CapIn) : HRes Unit :=
  (s.hvRead 0 0 (bits v 56 6 * 64) 64).bind (fun s bs =>
    let j : Job := { desc := BitVec.ofNat 512 (leNat bs), vers := s.verBits, version := s.freg FR.HV_COMMIT_CNT }
    let s := s.putFreg FR.RX_JOB_STATUS 15 8 j.ty
    if !s.jobOk j then .ok (s.setJob (j.finish 1)) ()
    else match j.ty with
      | 1 =>
        match s.exportPlan j with
        | .ok s todo => .ok (s.setJob { j with todo }) ()
        | .wait s => .wait s
        | .fail s _ _ => .ok (s.setJob (j.finish 8)) ()
      | 2 => .ok (s.setJob (if s.hvState = 0 then j else j.finish 2)) ()
      | 3 => .ok (s.setJob j) ()
      | _ =>
        match cap with
        | some c => s.startReplay j c
        | none => s.draw.startReplay j (Config.capFound s.free))

/-- A job started, or its start kept for later where it has to wait. A descriptor that cannot be read ends the job with
status 8, and no result record, whose address it would give (log entry 150). -/
def State.tryJob (s : State) (v : Nat) (cap : Option CapIn) : State :=
  match s.beginJob v cap with
  | .ok s () => { s with rx := { s.rx with starting := none } }
  | .wait s => { s with rx := { s.rx with starting := some (v, cap) } }
  | .fail s _ _ =>
    let j : Job := { desc := 0, blind := true }
    (State.setJob { s with rx := { s.rx with starting := none } } (j.finish 8)).putFreg FR.RX_JOB_STATUS 15 8 0

/-- A write of an address to RX_JOB (R360): ignored while a job runs, else the job starts. -/
def State.startJob (s : State) (v : Nat) (cap : Option CapIn) : State :=
  if s.rx.job.isSome || s.rx.starting.isSome then s.orFreg FR.RX_JOB_STATUS 4 else s.tryJob v cap

/-- The jobs go on where something they waited for may be there. -/
def State.resumeJob (s : State) : State :=
  let s := match s.rx.starting with
    | some (v, cap) => s.tryJob v cap
    | none => s
  s.flushJob

/-- A shard record (R361). -/
def shardRecord (j : Job) (ver tid kind rows cols : Nat) (data : List Byte) : List Byte :=
  let pad := (4096 - data.length % 4096) % 4096
  let d := data ++ List.replicate pad 0
  let nt := d.length / 4096
  let crcs := (List.range nt).flatMap (fun i => leBytes 4 (crc32c ((d.drop (4096 * i)).take 4096)))
  let head (c : Nat) : List Byte :=
    leBytes 8 ver ++ leBytes 4 tid ++ leBytes 1 kind ++ leBytes 3 0 ++ leBytes 4 (j.f 479 448) ++ leBytes 4 (j.f 511 480)
      ++ leBytes 4 (j.f 415 384) ++ leBytes 4 (j.f 447 416) ++ leBytes 4 rows ++ leBytes 4 cols ++ leBytes 4 nt
      ++ leBytes 4 c ++ leBytes 16 0
  head (crc32c (head 0 ++ crcs)) ++ crcs ++ List.replicate ((64 - crcs.length % 64) % 64) 0 ++ d

/-- The next record of an export (R362). -/
def State.exportNext (s : State) (j : Job) : State :=
  match j.todo with
  | [] => s.setJob (j.finish 0)
  | (l, kind) :: rest =>
    match s.readEntry l with
    | .wait s => s
    | .fail s _ _ => s.setJob (j.finish 8 l)
    | .ok s e =>
      let v := b2n (j.vers.getLsbD l)
      match s.readTensor 0 e kind v 0 (Entry.elems e * kindSize kind) with
      | .wait s => s
      | .fail s _ _ => s.setJob (j.finish 8 l)
      | .ok s d =>
        let r := shardRecord j j.version (j.f 127 96 + (l - j.f 95 80)) kind (Entry.rows e) (Entry.cols e) d
        if j.size < j.pos + r.length then s.setJob (j.finish 3 l)
        else match s.hvWrite 0 0 (j.buf + j.pos) r with
          | .wait s => s
          | .fail s _ _ => s.setJob (j.finish 8 l)
          | .ok s () =>
            s.setJob { j with pos := j.pos + r.length, records := j.records + 1, todo := rest }

/-- A field of a shard record's header (R361). -/
def shF (h : List Byte) (hi lo : Nat) : Nat := bits (leNat h) hi lo

/-- The bytes of a shard record after its header: the CRC list and the data. -/
def shardSizes (h : List Byte) : Nat × Nat := (ceilDiv (4 * shF h 351 320) 64 * 64, 4096 * shF h 351 320)

/-- Whether rec_crc and every tile CRC of a shard record hold (R363). -/
def shardOk (h list data : List Byte) : Bool :=
  let n := shF h 351 320
  shF h 383 352 == crc32c (h.take 44 ++ List.replicate 4 0 ++ h.drop 48 ++ list.take (4 * n)) &&
    (List.range n).all (fun i => fieldAt list (4 * i) 4 == crc32c ((data.drop (4096 * i)).take 4096))

/-- The rows of the intersection of a record with this chip's rectangle written to the pending slot (R363). -/
def State.importRows (e : Entry) (va es : Nat) (h data : List Byte) (oc c0 c1 orow : Nat) : List Nat → State → HRes Unit
  | [], s => .ok s ()
  | r :: rs, s =>
    let src := ((r - shF h 223 192) * shF h 319 288 + (c0 - shF h 255 224)) * es
    let dst := va + ((r - orow) * Entry.cols e + (c0 - oc)) * es
    (s.hvWrite 0 (Entry.cls e) dst ((data.drop src).take ((c1 - c0) * es))).bind (fun s _ =>
      State.importRows e va es h data oc c0 c1 orow rs s)

/-- Whether rectangles written for a kind of a layer cover it (R363). -/
def coveredBy (rs : List Rect) (l kind : Nat) (e : Entry) : Bool :=
  let mine := rs.filter (fun r => r.layer == l && r.kind == kind)
  (List.range (Entry.rows e)).all (fun i => (List.range (Entry.cols e)).all (fun k =>
    mine.any (fun r => r.row0 ≤ i && i < r.rowN && r.col0 ≤ k && k < r.colN)))

/-- The end of an import (R363). -/
def State.importEnd (s : State) (j : Job) : State :=
  match State.entriesFrom 0 s.layerCnt s with
  | .wait s => s
  | .fail s _ _ => s.setJob (j.finish 8)
  | .ok s es =>
    let sel := es.filter (fun e => j.layerList.contains e.1)
    let ks (e : Entry) : List Nat := (Entry.kinds e 2).filter j.kindList.contains
    match sel.find? (fun e => !(ks e.2).all (fun k => coveredBy j.seen e.1 k e.2)) with
    | some e => s.setJob (j.finish 5 e.1)
    | none =>
      if j.mixed then s.setJob (j.finish 5 (j.f 95 80))
      else
        match (State.copyGroups (groupsOf sel (fun e => otherKinds j.kindList e)) s).bind (fun s _ =>
            State.remakePending (sel.flatMap (fun e => (List.range (Entry.groups e.2)).map (fun g => (e.1, e.2, g)))) s)
          with
        | .wait s => s
        | .fail s _ _ => s.setJob (j.finish 8)
        | .ok s () => (s.flipLayers (sel.map (·.1))).setJob (j.finish 0)

/-- The next record of an import (R363). The records end with the buffer, or at a header of zero bytes. -/
def State.importNext (s : State) (j : Job) : State :=
  if j.size < j.pos + 64 then s.importEnd j
  else match s.hvRead 0 0 (j.buf + j.pos) 64 with
    | .wait s => s
    | .fail s _ _ => s.setJob (j.finish 8)
    | .ok s h =>
      let z := shardSizes h
      let n := 64 + z.1 + z.2
      let l := j.f 95 80 + (shF h 95 64 - j.f 127 96)
      let kind := shF h 103 96
      let mine := j.f 127 96 ≤ shF h 95 64 && j.layerList.contains l && j.kindList.contains kind
        && shF h 159 128 == j.f 479 448 && shF h 191 160 == j.f 511 480
      if zeroAt h 0 64 then s.importEnd j
      else if j.size < j.pos + n then s.setJob (j.finish 4 l)
      else if !mine then s.setJob { j with pos := j.pos + n, records := j.records + 1 }
      else match (s.hvRead 0 0 (j.buf + j.pos + 64) (z.1 + z.2)).bind (fun s b =>
          (s.readEntry l).bind (fun s e => .ok s (b, e))) with
        | .wait s => s
        | .fail s _ _ => s.setJob (j.finish 8 l)
        | .ok s (b, e) =>
          if !shardOk h (b.take z.1) (b.drop z.1) then s.setJob (j.finish 4 l)
          else
            let orow := j.f 415 384
            let oc := j.f 447 416
            let r0 := max orow (shF h 223 192)
            let r1 := min (orow + Entry.rows e) (shF h 223 192 + shF h 287 256)
            let c0 := max oc (shF h 255 224)
            let c1 := min (oc + Entry.cols e) (shF h 255 224 + shF h 319 288)
            let rows := if c0 < c1 then (List.range (r1 - r0)).map (r0 + ·) else []
            let has := (Entry.kinds e 2).contains kind && Entry.slotUsed e kind (1 - s.verBit l)
            let va := Entry.tensor e kind (1 - s.verBit l)
            match (if has then State.importRows e va (kindSize kind) h (b.drop z.1) oc c0 c1 orow rows s else .ok s ()) with
            | .wait s => s
            | .fail s _ _ => s.setJob (j.finish 8 l)
            | .ok s () =>
              let ver := shF h 63 0
              s.setJob { j with
                pos := j.pos + n, records := j.records + 1
                seen := j.seen ++ [{ layer := l, kind, row0 := r0 - orow, rowN := r1 - orow, col0 := c0 - oc, colN := c1 - oc }]
                seenVer := some (j.seenVer.getD ver), mixed := j.mixed || (j.seenVer.isSome && j.seenVer != some ver) }

/-- The running job's next piece of work, for the types that work record by record. -/
def State.jobStep (s : State) (ty : Nat) : State :=
  let s := s.resumeJob
  match s.jobOf ty with
  | none => s
  | some j => if ty = 1 then s.exportNext j else if ty = 2 then s.importNext j else s

/-- The result record (R368). -/
def jobRecord (j : Job) (e : JobEnd) : List Byte :=
  leBytes 8 (e.status + j.ty * 256) ++ leBytes 8 j.records ++ leBytes 8 j.pos
    ++ leBytes 8 (e.layer % 1024 + e.stage * 1024) ++ leBytes 8 e.group ++ leBytes 24 0

/-- JOB_END (R360, R367, R368): a job that has ended writes its result record, and a replay gives the ports back. A
record that cannot be written is left out. -/
def State.endJob (s : State) : State :=
  let s := s.resumeJob
  match s.rx.job with
  | none => s
  | some j =>
    match j.ended with
    | none => s
    | some e =>
      if e.status ≠ 8 && (!j.unwritten.isEmpty || j.owedFps.isSome) then s
      else
      let fin (s : State) : State :=
        let s := if j.ports && !j.loop then s.clrFreg FR.FL_CTRL 16 else s
        let s := { s with rx := { s.rx with job := none } }
        ((s.orFreg FR.RX_JOB_STATUS 2).hostEvent 5).pumpDeliver
      match (if j.blind then .ok s () else s.hvWrite 0 0 (j.f 319 256) (jobRecord j e)) with
      | .ok s () => fin s
      | .wait s => s
      | .fail s _ _ => fin s

/-- RX_JOB_STATUS (R370). -/
def State.jobStatus (s : State) : Nat := s.freg FR.RX_JOB_STATUS + b2n (s.rx.job.isSome || s.rx.starting.isSome)

end Sys2Proof.Machine
end

