-- ==== Sys2Proof/Machine/Link.lean ====
section
/-! DEFINITION. The events of the Flagen links and of their transport (R371 to R384, R405). A frame or event that
finds nothing to act on leaves the state as it is (log entry 18). -/

namespace Sys2Proof.Machine

/-- An event of interface i of port p in a state: nothing where the interface is off or in another state (R374). -/
def State.onIf (s : State) (p i st : Nat) (f : State → State) : State :=
  if s.dev.mainOn && s.ifOn p i && s.ifState p i = st then f s else s

/-- AN_RESOLVED (R374): resolution to the configured mode, or to another. -/
def execAnResolved (p : Fin 18) (i : Fin 4) (ok : Bool) (s : State) : Out :=
  .next (s.onIf p i 1 (fun s => if ok then s.setIf p i 2 0 else s.faultIf p i 1))

/-- AN_TIMEOUT (R374). -/
def execAnTimeout (p : Fin 18) (i : Fin 4) (s : State) : Out := .next (s.onIf p i 1 (fun s => s.faultIf p i 1))

/-- TRAINING_DONE (R374). -/
def execTrainingDone (p : Fin 18) (i : Fin 4) (ok : Bool) (s : State) : Out :=
  .next (s.onIf p i 2 (fun s => if ok then s.setIf p i 3 0 else s.faultIf p i 2))

/-- ALIGN_LOCK (R374): the interface is UP, and what waited for a link goes out. -/
def execAlignLock (p : Fin 18) (i : Fin 4) (s : State) : Out :=
  .next (s.onIf p i 3 (fun s => (s.setIf p i 4 0).flushAll))

/-- ALIGN_TIMEOUT (R374). -/
def execAlignTimeout (p : Fin 18) (i : Fin 4) (s : State) : Out := .next (s.onIf p i 3 (fun s => s.faultIf p i 3))

/-- ALIGNMENT_LOSS (R374). -/
def execAlignmentLoss (p : Fin 18) (i : Fin 4) (s : State) : Out := .next (s.onIf p i 4 (fun s => s.faultIf p i 4))

/-- FEC_ERROR_RATE (R374, R406): the codewords of 1 ms, with those corrected and those uncorrectable. -/
def execFecErrorRate (p : Fin 18) (i : Fin 4) (corrected bad total : Nat) (s : State) : Out :=
  .next (s.onIf p i 4 (fun s =>
    let s := (s.count (FR.FL_P_FEC_CORR_CNT p) corrected).count (FR.FL_P_FEC_UNCORR_CNT p) bad
    if total < bad * 10000 then s.faultIf p i 5 else s))

/-- FAULT_RETRY (R374). -/
def execFaultRetry (p : Fin 18) (i : Fin 4) (s : State) : Out := .next (s.onIf p i 5 (fun s => s.startIf p i))

/-- HELLO (R380, R381). -/
def execHello (h : FrameIn) (hi : HelloIn) (s : State) : Out :=
  if !s.dev.mainOn then .next s
  else match s.hello h hi with
    | .done s => .next s
    | .peerReset s => .next ((s.abortPeer h.src.toNat 1).pumpSlots)

/-- HELLO_RETRY (R380). -/
def execHelloRetry (node : BitVec 16) (s : State) : Out :=
  .next (if s.dev.mainOn && (s.ctxOf node.toNat).st = .hello then s.sendHello node.toNat else s)

/-- HELLO_TIMEOUT (R380, R382). -/
def execHelloTimeout (node : BitVec 16) (s : State) : Out :=
  .next (if (s.ctxOf node.toNat).st = .hello then s.losePeer node.toNat else s)

/-- ACK_TIMER (R382). -/
def execAckTimer (node : BitVec 16) (s : State) : Out :=
  .next (if (s.ctxOf node.toNat).owed = 0 then s else s.sendAck node.toNat)

/-- RETRANSMIT_TIMEOUT (R382). -/
def execRetransmitTimeout (node : BitVec 16) (s : State) : Out :=
  let r := s.retransmit node.toNat
  .next (if r.2 then r.1.losePeer node.toNat else r.1)

/-- What a frame that the transport has looked at goes on to do: `f` where it is taken, and a new hello where it
shows that the peer has been reset (R381). -/
def RxRes.deliver (r : RxRes) (node : Nat) (f : State → State) : State :=
  match r with
  | .dropped s => s
  | .peerReset s => s.resetPeer node
  | .taken s => f s

/-- A frame arrives while the main domain runs. -/
def State.frame (s : State) (h : FrameIn) (seq : Bool) (len : Nat) (f : State → State) : State :=
  if s.dev.mainOn then (s.arrive h seq len).deliver h.src.toNat f else s

/-- DATA (R364, R376, R382, R390): the payload with its poison map. A payload is at most 4,096 bytes. -/
def execData (h : FrameIn) (payload : List Byte) (poison : BitVec 64) (s : State) : Out :=
  if 4096 < payload.length then .next s
  else
    .next (s.frame h true payload.length (fun s =>
      let place := leBytes 4 h.cid.toNat ++ leBytes 4 h.cseq.toNat ++ leBytes 4 h.rank.toNat ++ leBytes 8 h.offset.toNat
      let s := if (s.instFor h).isSome then s.capture 4 (place ++ payload) else s
      s.takeData h (payloadBytes payload poison)))

/-- What an ACK says, taken by its context (R382, R383). -/
def State.ackIn (s : State) (h : FrameIn) (a : AckIn) : State :=
  let node := h.src.toNat
  let x := s.ctxOf node
  let s := s.setCtx node { x with srtt := a.srtt, credit := a.credit }
  match h.apsn with
  | some p => s.takeAck node p.toNat a.map a.ceBytes
  | none => s

/-- An ACK that answers this chip's HELLO (R380). -/
def State.ackHello (s : State) (node : Nat) : State :=
  (s.setCtx node { s.ctxOf node with acked := true }).helloDone node

/-- ACK (R380, R382, R383). -/
def execAck (h : FrameIn) (a : AckIn) (s : State) : Out :=
  let node := h.src.toNat
  if (s.ctxOf node).st = .hello then
    .next (if s.dev.mainOn && s.flEn then (if frameOk h then (s.count FR.FL_RX_PKT_CNT).ackHello node else s.dropFrame) else s)
  else .next (s.frame { h with apsn := none } false 0 (fun s => s.ackIn h a))

/-- READY (R390, R392). -/
def execReady (h : FrameIn) (digest : BitVec 32) (s : State) : Out :=
  .next (s.frame h true 0 (fun s => s.takeReady h digest.toNat))

/-- ABORT (R402). -/
def execAbortFrame (h : FrameIn) (status : BitVec 8) (rank : BitVec 16) (s : State) : Out :=
  .next (s.frame h true 0 (fun s => (s.takeAbort h status.toNat rank.toNat).pumpSlots))

/-! ### Loopback (R405) -/

/-- A looped frame as the receive path sees it: it comes from this chip itself. -/
def State.loopIn (s : State) (l : Looped) : FrameIn :=
  let f := l.frame
  { src := BitVec.ofNat 16 (s.freg FR.FL_NODE_ID), epoch := BitVec.ofNat 16 (s.freg FR.FL_BOOT_EPOCH)
    psn := BitVec.ofNat 32 l.psn, apsn := l.apsn.map (BitVec.ofNat 32), slow := l.slow, cid := BitVec.ofNat 12 f.cid
    cseq := BitVec.ofNat 32 f.cseq, phase := BitVec.ofNat 4 f.phase, rank := BitVec.ofNat 16 f.rank
    offset := BitVec.ofNat 48 f.offset }

/-- A looped frame received (R405). -/
def State.loopFrame (s : State) (l : Looped) : Out :=
  let h := s.loopIn l
  let f := l.frame
  match f.ty with
  | 0 => execHello h { chip := BitVec.ofNat 64 f.told, epoch := BitVec.ofNat 32 (f.told / 2 ^ 96) } s
  | 1 => execData h (plain f.payload) (BitVec.ofNat 64 (poisonMap f.payload)) s
  | 2 => execAck h { map := BitVec.ofNat 256 f.told, ceBytes := bits f.told 319 256, credit := f.told / 2 ^ 320 } s
  | 3 => execReady h (BitVec.ofNat 32 f.told) s
  | _ => execAbortFrame h (BitVec.ofNat 8 f.told) (BitVec.ofNat 16 (f.told / 256)) s

/-- The looped frames received, oldest first; the first argument bounds them (log entry 157). -/
def State.pumpLoop : Nat → State → State
  | 0, s => s
  | fuel + 1, s =>
    match s.fl.loop with
    | [] => s
    | l :: rest =>
      match State.loopFrame { s with fl := { s.fl with loop := rest } } l with
      | .next s => State.pumpLoop fuel s
      | _ => s

/-- What time alone lets the transport do: looped frames arrive, and frames leave that waited for the end of a pause. -/
def State.flTime (s : State) : State := if s.dev.mainOn then (State.pumpLoop 1024 s).flushAll else s

/-- PFC_FRAME (R383): a pause of `quanta` times 512 bit times at the interface's rate on the priority that this
device transmits on; 0 ends it. -/
def execPfcFrame (p : Fin 18) (i : Fin 4) (prio : Fin 8) (quanta : BitVec 16) (s : State) : Out :=
  .next (s.onIf p i 4 (fun s =>
    if prio.val = bits (s.freg FR.FL_VLAN) 15 13 then
      let until' := s.timeUs + ceilDiv (quanta.toNat * 512) (modeRate (s.portMode p) * 1000)
      let s := { s with fl := { s.fl with
        paused := s.fl.paused.set (fun _ => 0) (4 * p.val + i.val) (if quanta = 0 then 0 else until') } }
      if quanta = 0 then s.flushAll else s
    else s))

end Sys2Proof.Machine
end

