-- ==== Sys2Proof/Machine/Collective.lean ====
section
/-! DEFINITION. The events of the Parade engine (R385 to R402), of the Harvest units (R320 to R345) and of the replica
engines (R346 to R368). Each leaves the state as it is where its condition does not hold (log entry 18). -/

namespace Sys2Proof.Machine

/-- INSTANCE_TRIGGER (R389, R390): the engine looks at the trigger word of a descriptor. -/
def execInstanceTrigger (cid : BitVec 12) (s : State) : Out :=
  .next (if s.dev.mainOn && !s.fatal then s.trigger cid.toNat else s)

/-- INSTANCE_COMPLETE (R324, R393): the instance in slot k ends if it can, and the deliveries the engine owes are tried again. -/
def execInstanceComplete (k : Fin 32) (s : State) : Out := .next (s.completeInst k).pumpDeliver

/-- RECEIVER_DETACH (R398). -/
def execReceiverDetach (k : Fin 32) (rank : BitVec 16) (timed : Bool) (s : State) : Out :=
  .next (s.detach k rank.toNat timed)

/-- UPDATE_GROUP_DONE (R251, R327, R330): the update of group g of layer l. -/
def execUpdateGroupDone (l : Fin 1024) (g : Meets Nat MemUpset) (s : State) : Out :=
  .next (s.updateGroup l.val g.arg g.met)

/-- STEP_DECISION (R337, R338). -/
def execStepDecision (s : State) : Out := .next s.stepDecision

/-- EQUINOX_BARRIER (R339, R340). -/
def execEquinoxBarrier (s : State) : Out := .next s.equinoxBarrier

/-- LEND_STARVED (R334). -/
def execLendStarved (k : Fin 16) (s : State) : Out := .next (s.lendStarved k)

/-- FINGERPRINT_EXCHANGE (R349, R350, R353): the records of the other replicas, or the status with which the Parade
engine aborted the exchange. -/
def execFingerprintExchange (others : List ExRecord) (aborted : Option Nat) (s : State) : Out :=
  .next (s.exchange others aborted)

/-- BISECTION_ROUND (R351, R352). -/
def execBisectionRound (r : RoundIn) (s : State) : Out := .next (s.bisect r)

/-- DX_SINK_WRITE (R357). -/
def execDxSinkWrite (k : Fin 2) (s : State) : Out := .next (s.sinkWrite k)

/-- APPLY_RECORD (R358, R359): the record comes from the buffer or, over the link, from the peer. -/
def execApplyRecord (peer : List Byte) (s : State) : Out := .next (s.apply peer)

/-- JOB_END (R360, R368). -/
def execJobEnd (s : State) : Out := .next s.endJob

end Sys2Proof.Machine
end

