-- ==== Sys2Proof/Machine/Memory.lean ====
section
/-! DEFINITION. Events of the memory system as commands: directory transactions with their miss registers
(R220 to R235), windows and pins (R213 to R215, R231, R232), failures of the layers (R236 to R241), translation
and page requests (R259 to R264), tags and scrubbing (R251, R252, R268). -/

namespace Sys2Proof.Machine

/-! ### Miss registers (R229, R235) -/

/-- Whether a physical address is in memory that the layers cache (R216). -/
def cacheablePa (pa : Nat) : Bool :=
  match region pa with
  | .hbm | .host _ => true
  | _ => false

/-- Whether [pa, pa + n) is part of one line of cacheable memory. -/
def linePart (pa n : Nat) : Bool := cacheablePa pa && 0 < n && pa % 256 + n ≤ 256

/-- A request joins the miss register of its line, or gets one (R229); none where the list or the registers are full, or
where an earlier request for the line is held back. -/
def State.tryJoin (s : State) (la : Nat) (r : MissReq) : Option State :=
  let n := homeSlice (la * 256)
  if s.mem.backed.any (fun b => b.1 == la) || 32 ≤ s.waitersOn la then none
  else if s.mem.miss.any (fun m => m.2.line == la) then
    some { s with mem := { s.mem with miss := s.mem.miss.map (fun k =>
      if k.2.line = la then (k.1, { k.2 with waiters := k.2.waiters ++ [r] }) else k) } }
  else if (s.line la).epoch.isSome || s.regsUsed n < 96 then
    some { s with mem := { s.mem with miss := s.mem.miss ++ [(n.val, { line := la, waiters := [r] })] } }
  else none

/-- A request for line la that cannot be served at once (R229): it waits in a miss register, or, where there is none for it
or its list is full, it is held back, and its wait is counted. -/
def State.joinMiss (s : State) (la : Nat) (r : MissReq) : State :=
  match s.tryJoin la r with
  | some s => s
  | none =>
    let n := homeSlice (la * 256)
    let full := s.mem.miss.any (fun m => m.2.line == la) || (s.line la).epoch.isSome
    State.stallF { s with mem := { s.mem with backed := s.mem.backed ++ [(la, r)] } }
      (if full then FR.HR_WAITER_FULL_CNT n else FR.HR_MSHR_FULL_CNT n)

/-- Requests that were held back go on, in their order, as far as there is room for them (R229). -/
def State.letIn (s : State) : State :=
  s.mem.backed.foldl (fun s b =>
    match s.tryJoin b.1 b.2 with
    | some s => s
    | none => { s with mem := { s.mem with backed := s.mem.backed ++ [b] } }) { s with mem := { s.mem with backed := [] } }

/-- The wait of a request for an open epoch is counted (R228). -/
def State.epochWait (s : State) (la : Nat) : State :=
  if (s.line la).epoch.isSome then s.stallF (FR.HR_DET_WAIT_CNT (homeSlice (la * 256))) else s

/-- Data returned to whoever asked. -/
def State.answer (s : State) (r : Reply) : State := { s with hs := { s.hs with reply := r } }

/-- A request served at its home in place (R222), with the data of a read; none for a contribution that has to wait. -/
def State.serveReq (s : State) (la : Nat) (tck : Bool) : MissReq → Option State
  | .coherentRead c off n =>
    let r := s.cohRead c la off n tck
    some (r.1.answer (.data r.2))
  | .coherentWrite c off bs => some (s.cohWrite c la off (clean bs) tck)
  | .homeRead _ cls off n =>
    let r := s.homeRead la off n cls tck
    some (r.1.answer (.data r.2))
  | .homeWrite a cls off bs => some (s.homeWrite a la off (clean bs) cls tck)
  | .contrib k =>
    match s.contribNow la k tck with
    | .accepted s => some s
    | .wait _ _ => none
    | .refused s _ => some s

/-- The cell in whose slice a request leaves a near copy. -/
def MissReq.near (la : Nat) : MissReq → Option CellId
  | .coherentRead c _ _ | .coherentWrite c _ _ => if homeSlice (la * 256) = c then none else some c
  | _ => none

/-- Whether a waiter of a miss register may be served now. -/
def State.reqReady (s : State) (la : Nat) (r : MissReq) : Bool :=
  let quiet := !(s.line la).leaving && !s.frameWait la (r.near la)
  match r with
  | .contrib k =>
    quiet && s.hostBlocks la true == [] &&
      match (s.line la).epoch with
      | some e => k.t == e.next || s.staged (homeSlice (la * 256)) < 512
      | none => true
  | .coherentRead _ _ _ | .homeRead _ _ _ _ => quiet && (s.line la).epoch.isNone && s.hostBlocks la false == []
  | .coherentWrite _ _ _ | .homeWrite _ _ _ _ => quiet && (s.line la).epoch.isNone && s.hostBlocks la true == []

/-- The waiters of a line's miss register served in list order, as far as they may be. Where an epoch is open, requests
wait for its close and the contributions behind them go on (R228). -/
def State.serveList (la : Nat) (tck : Bool) : List MissReq → State → State × List MissReq
  | [], s => (s, [])
  | r :: rs, s =>
    match (if s.reqReady la r then s.serveReq la tck r else none) with
    | some s => State.serveList la tck rs s
    | none =>
      let due : MissReq → Bool
        | .contrib _ => true
        | _ => false
      if (s.line la).epoch.isSome then
        let k := (rs.filter due).foldl (fun (p : State × List MissReq) q =>
          match (if p.1.reqReady la q then p.1.serveReq la tck q else none) with
          | some s => (s, p.2)
          | none => (p.1, p.2 ++ [q])) (s, [])
        (k.1, r :: (rs.filter (fun q => !due q) ++ k.2))
      else (s, r :: rs)

/-- The miss register of a line served (R229): it is freed when nobody waits. -/
def State.serveMiss (s : State) (la : Nat) (tck : Bool) : State :=
  match s.mem.miss.find? (fun m => m.2.line == la) with
  | none => s
  | some m =>
    let out (s : State) : State := { s with mem := { s.mem with miss := s.mem.miss.filter (fun k => k.2.line != la) } }
    let r := State.serveList la tck m.2.waiters (out s)
    if r.2 = [] then r.1.letIn
    else State.letIn { r.1 with mem := { r.1.mem with miss := r.1.mem.miss ++ [(m.1, { line := la, waiters := r.2 })] } }

/-- Accesses that waited for a line, a window, a stack or a translation come again: records of the device, those of a reset
that makes working copies again (R341), and those of the cells. -/
def State.goOn (s : State) : State :=
  ((if s.mem.posted.isEmpty then s else s.flushPosted).redoWc).pumpAll allCells

/-- Whether the main domain runs, so that memory can be accessed (R438). -/
def State.mainOn (s : State) : Bool := s.dev.mainOn

/-- The slice whose frame serves a request (R220): that of the requester where it has a near copy that will do, else the
home. -/
def State.servedAt (s : State) (la : Nat) : MissReq → CellId
  | .coherentRead c _ _ => if (s.line la).holds c then c else homeSlice (la * 256)
  | .coherentWrite c _ _ =>
    let l := s.line la
    if l.holds c && (l.st == .e || l.st == .m) then c else homeSlice (la * 256)
  | _ => homeSlice (la * 256)

/-- A transaction of R222 at the home of a line: served at once, or kept in a miss register while the line is
absent, leaving, being fetched, in an open epoch, or held by the host. -/
def State.transact (s : State) (la : Nat) (write : Bool) (e : FrameEcc) (r : MissReq) (now : State → State) : State :=
  if s.absent la || s.lineBusy la write || s.frameWait la (r.near la) then
    ((s.recall la write).epochWait la).joinMiss la r
  else now (s.frameEccAt (s.servedAt la r) la e)

/-- COHERENT_READ (R220 to R224): n bytes at pa for cell c; a near copy is read in the cell's own slice. -/
def execCoherentRead (c : CellId) (pa n : Nat) (e : FrameEcc) (s : State) : Out :=
  if !s.mainOn || !linePart pa n then .next s
  else
    .next (s.transact (pa / 256) false e (.coherentRead c (pa % 256) n) (fun s =>
      let r := s.cohRead c (pa / 256) (pa % 256) n false
      r.1.answer (.data r.2)))

/-- COHERENT_WRITE (R220 to R222): bytes written at pa by cell c. -/
def execCoherentWrite (c : CellId) (pa : Nat) (bytes : List Byte) (e : FrameEcc) (s : State) : Out :=
  if !s.mainOn || !linePart pa bytes.length then .next s
  else
    .next (s.transact (pa / 256) true e (.coherentWrite c (pa % 256) bytes) (fun s =>
      s.cohWrite c (pa / 256) (pa % 256) (clean bytes) false))

/-- HOME_READ (R220, R222, R230): n bytes at pa for an agent that holds no copy. -/
def execHomeRead (a : Agent) (pa n : Nat) (cls : Fin 8) (e : FrameEcc) (s : State) : Out :=
  if !s.mainOn || !linePart pa n then .next s
  else
    .next (s.transact (pa / 256) false e (.homeRead a cls (pa % 256) n) (fun s =>
      let r := s.homeRead (pa / 256) (pa % 256) n cls false
      r.1.answer (.data r.2)))

/-- HOME_WRITE (R220, R222): bytes written at pa; a whole line is allocated without a fetch. -/
def execHomeWrite (a : Agent) (pa : Nat) (bytes : List Byte) (cls : Fin 8) (e : FrameEcc) (s : State) : Out :=
  if !s.mainOn || !linePart pa bytes.length then .next s
  else
    let la := pa / 256
    let now (s : State) : State := s.homeWrite a la (pa % 256) (clean bytes) cls false
    if bytes.length = 256 && s.absent la && !s.lineBusy la true && !s.frameWait la none then .next (now s)
    else .next (s.transact la true e (.homeWrite a cls (pa % 256) bytes) now)

/-- REDUCTION_CONTRIBUTION (R226 to R228): a contribution reaches the home of its line, and is accepted, waits
in the line's miss register, or is refused; one to a slice window or to memory that the layers do not cache is refused
with reason 1. -/
def execReductionContribution (la : Nat) (k : Contrib) (s : State) : Out :=
  if !s.mainOn then .next s
  else match (if cacheablePa (la * 256) then s.contribute la k false else s.rejectRed la 1) with
    | .accepted s => .next s.letIn.goOn
    | .refused s _ => .next s
    | .wait s _ => .next (s.joinMiss la (.contrib k))

/-- REDUCTION_APPLY (R226): the adder applies the oldest contribution that it holds for a line. -/
def execReductionApply (la : Nat) (s : State) : Out :=
  match (s.line la).held with
  | [] => .next s
  | k :: ks => .next ((s.modLine la (fun l => { l with held := ks })).applyContrib la k)

/-- The least recently used of what a set holds that is not pinned, reduction-held lines included (R234). -/
def lruHeld : List Resident → Option Resident
  | [] => none
  | e :: es =>
    if e.pinned then lruHeld es
    else match lruHeld es with
      | none => some e
      | some b => if e.lru ≤ b.lru then some e else some b

/-- HOME_EVICTION (R220, R222, R233 to R235): the evictor takes the least recently used line or near copy of a set. It
waits for a reduction-held line; a near copy that was modified writes its data to its home, and waits until that has a
frame for them; a line whose write-back or
whose host copies are not yet answered for is leaving. -/
def execHomeEviction (n : CellId) (i : Fin 2048) (s : State) : Out :=
  match lruHeld (s.residents n i.val) with
  | none => .next s
  | some v =>
    if v.held then .next (s.stallF (FR.HR_EVICT_HOLD_CNT n))
    else if v.near then
      if s.stays v then .next s else .next ((s.bringHome v.la).modLine v.la (fun l => l.lose n))
    else .next (s.evictHome v.la)

/-- LINE_FILL (R228, R229, R235, R251, R267): a line that a miss register asks for arrives, and its waiters are served. A
line that left while its epoch was open takes the contributions that wait. -/
def execLineFill (la : Nat) (tck : Bool) (e : HbmEcc) (s : State) : Out :=
  let s := s.letIn
  let back := s.absent la && (s.line la).epoch.isSome
  if (s.line la).leaving || !(back || s.mem.miss.any (fun m => m.2.line == la)) || s.frameWait la none then .next s
  else match (if s.absent la then s.rawAsleep (la * 256) else none) with
    | some i => .next (s.requestExit i)
    | none =>
      let s := if s.absent la then s.hbmEcc e else s
      let s := if back then
          let s := s.fill la 0 tck
          let s := s.place la { s.line la with st := .a }
          State.runEpoch (((s.line la).epoch.map (fun e => e.waiting.length)).getD 0) la s
        else s
      .next (s.serveMiss la tck).goOn

/-- A line that is leaving has left, once memory has its data and the host has given back what it held (R222, R235). A
write-back to a stack in self-refresh waits for the stack (R446). -/
def State.lineLeft (s : State) (la : Nat) : State :=
  if !(s.line la).leaving then s
  else if s.hostBlocks la true != [] then s.recall la true
  else match (if (s.line la).dirty then s.rawAsleep (la * 256) else none) with
    | some i => s.requestExit i
    | none => (s.dropLine la).goOn

/-- WRITEBACK_ACK (R235): the line has left; the miss register refetches it if requests wait. -/
def execWritebackAck (la : Nat) (s : State) : Out := .next (s.lineLeft la)

/-! ### Windows and pins (R213 to R215, R231, R232) -/

/-- Whether every set of slice n keeps 3 frames that hold no window data, and with `pins` no pinned lines either, with a
window of `units` and `gone` layers retired (R215, R239). -/
def State.reserveOk (s : State) (n : CellId) (units gone : Nat) (pins : Bool) : Bool :=
  (List.range 2048).all (fun i => if pins then s.setReserve n i units gone else winFrames units i + 6 * gone + 3 ≤ 24)

/-- A write to HR_WIN_CFG (R215). -/
def State.winCfgWrite (s : State) (n : CellId) (v : Nat) : State :=
  let units := bits v 8 0
  if (s.slice n).resize.isSome then s
  else if 336 < units || s.freg FR.HR_PIN_CAP < units * 256 + s.pinnedAll n ||
      !s.reserveOk n units (s.retiredLayers n) true then s.orFreg (FR.HR_STATUS n) 4
  else s.modSlice n (fun x => { x with resize := some units })

/-- A line or near copy of slice n whose frame no longer holds lines (R215, R239): a pinned line moves to another frame of
its set, any other one leaves, after what the adder holds for it has been applied. -/
def State.fitResident (n : CellId) (s : State) (r : Resident) : State :=
  let σ := homeSet (r.la * 256)
  if (s.cacheWays n σ).contains r.way then s
  else if r.near then (s.bringHome r.la).modLine r.la (fun l => l.lose n)
  else if r.pinned then s.movePin n σ r
  else (State.applyHeld ((s.line r.la).held.length) r.la s).evictHome r.la

/-- Whether a modified near copy in a frame beside a window of `units` with `gone` layers retired waits for its home to have
a frame for its data (R219). -/
def State.fitWaits (s : State) (n : CellId) (units gone : Nat) : Bool :=
  (s.mem.lines.flatMap (fun e => e.2.residents e.1 n)).any (fun r =>
    s.nearM r && !s.homeRoom r.la && !(waysBeside units gone (homeSet (r.la * 256))).contains r.way)

/-- Every frame of slice n that no longer holds lines emptied (R215, R239). -/
def State.fitSlice (s : State) (n : CellId) : State :=
  (s.mem.lines.flatMap (fun e => e.2.residents e.1 n)).foldl (State.fitResident n) s

/-- WIN_RESIZE_DONE (R215): frames that the window takes read as zero, contents of those it gives up are
discarded. It waits until what lies in the frames taken can leave. -/
def execWinResizeDone (n : CellId) (s : State) : Out :=
  match (s.slice n).resize with
  | none => .next s
  | some units =>
    if s.fitWaits n units (s.retiredLayers n) then .next s else
    let cur := s.winSize n
    let new := units * 0x10000
    let lo := min cur new
    let hi := max cur new
    let s := s.modSlice n (fun x => { x with
      resize := none, win := SMap.eraseRange x.win lo hi, winUndef := min x.winUndef lo
      winPoison := x.winPoison.delRange (lo / 64) (hi / 64) })
    .next ((s.putFreg (FR.HR_WIN_CFG n) 8 0 units).fitSlice n).goOn

/-- A write to HR_UNPIN (R232). -/
def State.unpinClasses (s : State) (v : Nat) : State :=
  (s.mem.lines.filter (fun e => e.2.pinned && bitB v e.2.cls.val)).foldl (fun s e => s.unpinLine e.1) s

/-! ### Vertical ports (R236 to R240) -/

/-- The last writer of a line as record 0x0203 gives it (R500). -/
def writerCode : Option Agent → Nat
  | some (.cell c) | some (.fetch c) | some (.stream c) => c.val
  | some (.harvest k) => 0x100 + k.val
  | some .parade => 0x200
  | some .host => 0x300
  | none => 0

/-- Memory below line la written as poisoned (R240, R254). -/
def State.poisonBelow (s : State) (la : Nat) : State :=
  match region (la * 256) with
  | .hbm => { s with mem := { s.mem with hbmPoison := s.mem.hbmPoison.addRange (la * 4) 4 } }
  | .host ha => { s with mem := { s.mem with hostPoison := s.mem.hostPoison.addRange (ha / 64) 4 } }
  | _ => s

/-- A line or near copy lost with a layer of slice n (R240): where it had the only current data it is poisoned at its home
and in memory; otherwise it is dropped. The writer is returned for a dirty line. -/
def State.loseCopy (s : State) (n : CellId) (r : Resident) : State × Option Nat :=
  let l := s.line r.la
  let gone := if r.near then l.st == .m else l.dirty && l.st != .m
  if gone then
    let s := s.setLine r.la { l.alone with poison := [0, 1, 2, 3], st := .s, held := [], det := none }
    ((s.poisonBelow r.la).count (FR.HR_LOST_LINE_CNT n), some (writerCode l.writer))
  else if r.near then (s.setLine r.la (l.lose n), none)
  else if l.st == .m then (s, none)
  else (s.setLine r.la l.gone, none)

/-- Lines lost one after the other, with a report for each distinct writer (R240). -/
def State.loseCopies (n : CellId) : List Resident → List Nat → State → State
  | [], _, s => s
  | r :: rs, seen, s =>
    let q := s.loseCopy n r
    match q.2 with
    | none => State.loseCopies n rs seen q.1
    | some w =>
      if seen.contains w then State.loseCopies n rs seen q.1
      else State.loseCopies n rs (w :: seen) (q.1.logEvent 0x0203 n.val 3 (r.la * 256) w 0)

/-- Layers MLi to ML3 of slice n lost: both their paths have failed (R240). -/
def State.loseLayers (s : State) (n : CellId) (i : Nat) : State :=
  let s := State.loseCopies n
    ((s.mem.lines.flatMap (fun e => e.2.residents e.1 n)).filter (fun r => i ≤ r.way / 6)) [] s
  let lo := i * 0x600000
  let hi := s.winSize n
  let s := if lo < hi then
      (s.modSlice n (fun x => { x with winPoison := x.winPoison.addRange (lo / 64) ((hi - lo) / 64) })).logEvent
        0x0203 n.val 3 lo n.val 0
    else s
  s.orFreg (FR.HR_STATUS n) 0x1000

/-- The horizontal neighbours of a slice in the order of R238. -/
def neighbours (n : CellId) : List CellId :=
  let x := n.val % 16
  if x = 15 then [cellNo (n.val - 1)] else if x = 0 then [cellNo (n.val + 1)] else [cellNo (n.val + 1), cellNo (n.val - 1)]

/-- Whether a slice can serve a neighbour (R238). -/
def Slice.canServe (x : Slice) : Bool := !x.serves && x.via.isNone && x.vports.toList.all (· == .ok)

/-- The lowest interface of a slice that has failed. -/
def Slice.failedFrom (x : Slice) : Nat := ((List.range 4).find? (fun i => x.vports.toList.getD i .ok != .ok)).getD 4

/-- HR_STATUS.bypass of the layers from ML(i) on (R238, R245). -/
def bypassBits (i : Nat) : Nat := ((List.range 4).map (fun k => if i ≤ k then 16 * 2 ^ k else 0)).sum

/-- Slice n takes the path through a neighbour to its layers from ML(i) on; where none can serve they are lost (R238,
R240). -/
def State.takePath (s : State) (n : CellId) (i : Nat) : State :=
  match (neighbours n).find? (fun m => (s.slice m).canServe) with
  | some m =>
    let s := s.modSlice m (fun y => { y with serves := true })
    (s.modSlice n (fun y => { y with via := some m })).orFreg (FR.HR_STATUS n) (bypassBits i)
  | none =>
    (s.modSlice n (fun y => { y with
      via := none, vports := y.vports.map (fun v => if v == .bypass then .lost else v) })).loseLayers n i

/-- Interface Vi of slice n needs a spare and has none (R238). A slice that it serves looks for another neighbour for the
layers that it reaches by that path, which has failed further (R239). -/
def State.failPort (s : State) (n : CellId) (i : Fin 4) : State :=
  let s := s.modSlice n (fun y => { y with
    vports := y.vports.set i.val .bypass
    failedAt := if i.val = 0 then y.failedAt else y.failedAt ++ [(i, some s.timeUs)] })
  let s := match (List.finRange 256).find? (fun m => (s.slice m).via = some n) with
    | some m =>
      let s := s.modSlice n (fun y => { y with serves := false })
      let s := s.modSlice m (fun y => { y with via := none, retireDue := !y.failedAt.isEmpty })
      s.takePath m (s.slice m).failedFrom
    | none => s
  match (s.slice n).via with
  | some _ => s.orFreg (FR.HR_STATUS n) (bypassBits i.val)
  | none => s.takePath n i.val

/-- k lanes of interface Vi swapped for spares (R237). -/
def State.spareLanes (s : State) (n : CellId) (i : Fin 4) : Nat → State
  | 0 => s
  | k + 1 =>
    let a := FR.HR_VPORT n
    let s := s.putFreg a (8 * i.val + 6) (8 * i.val) (bits (s.freg a) (8 * i.val + 6) (8 * i.val) + 1)
    let s := (s.count (FR.HR_VLANE_SPARE_CNT n)).logEvent 0x0201 n.val 1 0 (s.freg a) 0
    State.spareLanes s n i k

/-- VPORT_CRC_ERROR (R236 to R238, R240): each error of a flit counts, the first and those of its replays. -/
def execVportCrcError (n : CellId) (i : Fin 4) (v : VportFault) (s : State) : Out :=
  let s := s.count (FR.HR_VCRC_ERR_CNT n) (if v.failed then 5 else max 1 (min 4 v.replays))
  let need := (if v.failed then v.lanes else 0) + b2n v.eighth
  let free := 64 - bits (s.freg (FR.HR_VPORT n)) (8 * i.val + 6) (8 * i.val)
  let s := s.spareLanes n i (min need free)
  .next (if free < need then s.failPort n i else s)

/-- Pinned lines that no longer fit lose their pins (R239). -/
def State.dropPins (s : State) (n : CellId) : State :=
  (s.mem.lines.filter (fun e => e.2.pinned && homeSlice (e.1 * 256) == n)).foldl (fun s e =>
    if s.setReserve n (homeSet (e.1 * 256)) (s.winUnits n) (s.retiredLayers n) then s
    else (s.unpinLine e.1).count (FR.HR_PIN_FAIL_CNT n)) s

/-- Whether a moment has come at which slice n retires layers (R239): an Equinox barrier has completed or the neighbour path
has failed further since the failure, or HR_RETIRE_TIMEOUT ms have passed. -/
def State.retireNow (s : State) (n : CellId) : Bool :=
  (s.slice n).retireDue || (s.slice n).failedAt.any (fun f =>
    f.2.any (fun t => t + 1000 * s.freg FR.HR_RETIRE_TIMEOUT ≤ s.timeUs))

/-- LAYER_RETIRE (R239): the layers behind the failed interface of slice n are retired, where a moment for it has come. A
retirement that the window blocks waits for the next moment, and one that meets data which cannot leave yet waits for them. -/
def execLayerRetire (n : CellId) (s : State) : Out :=
  match (s.slice n).failedAt.map (fun f => f.1.val) with
  | [] => .next s
  | f :: fs =>
    let i := fs.foldl min f
    let old := s.freg (FR.HR_STATUS n)
    let new := (List.range 4).filter (fun k => i ≤ k && !bitB old (8 + k))
    let units := bits (s.freg (FR.HR_WIN_CFG n)) 8 0
    if !s.retireNow n || s.fitWaits n units (s.retiredLayers n + new.length) then .next s
    else if !s.reserveOk n units (s.retiredLayers n + new.length) false then
      .next ((s.modSlice n (fun x => { x with
        retireDue := false, failedAt := x.failedAt.map (fun f =>
          (f.1, f.2.filter (fun t => decide (s.timeUs < t + 1000 * s.freg FR.HR_RETIRE_TIMEOUT)))) })).orFreg
        (FR.HR_STATUS n) 8)
    else
      let s := (s.orFreg (FR.HR_STATUS n) ((new.map (fun k => 2 ^ (8 + k))).sum)).clrFreg (FR.HR_STATUS n) 8
      let s := s.setFreg (FR.HR_AVAIL_FRAMES n) (s.freg (FR.HR_AVAIL_FRAMES n) - 12288 * new.length)
      let s := s.setFreg FR.HR_CAP_LINES (s.freg FR.HR_CAP_LINES - 24576 * new.length)
      let s := (s.modSlice n (fun x => { x with failedAt := [], retireDue := false })).dropPins n
      .next ((s.fitSlice n).logEvent 0x0202 n.val 1 0 (s.freg (FR.HR_STATUS n)) (s.freg (FR.HR_AVAIL_FRAMES n)))

/-! ### Translation (R255 to R264) -/

/-- PAGE_WALK_DONE (R255 to R263): a walk for an access of an agent ends. A good leaf enters the translation
caches; whoever waits comes again. -/
def execPageWalkDone (a : Agent) (va : Nat) (write : Bool) (exec : Meets Bool HbmEcc) (s : State) : Out :=
  let s := if exec.met = {} then s else s.hbmEcc exec.met
  let s' := (s.translate { agent := a, va, write, exec := exec.arg }).1
  if 2 ^ 57 ≤ va || (0x200000000 ≤ va && va < 0x300000000) || !bitB (s.freg FR.TR_CTRL) 0 then .next s'
  else match s.tlbFind va, s.walk va with
    | none, .leaf pte level =>
    .next (State.goOn { s' with mem := { s'.mem with tlb := s'.mem.tlb ++ [tlbOf va pte level] } })
    | _, _ => .next s'

/-- The cells that hold an instruction waiting on page request `req`. -/
def State.headsOn (s : State) (req : Nat) : List CellId :=
  allCells.filter (fun c =>
    match (s.cell c).head with
    | some e => e.req == some req && e.fault.isNone
    | none => false)

/-- Whether an instruction of the sequencer writes memory. -/
def Op.stores : Op → Bool
  | .st | .sto | .dsto => true
  | _ => false

/-- The oldest instruction of cell c, which waits for a page, faults as its request is refused (R262). -/
def State.refuseHead (s : State) (reason level : Nat) (c : CellId) : State :=
  match (s.cell c).head with
  | none => s
  | some e =>
    let va := memAddr (s.cell c) e.ins.f
    let s := s.xlatFault { agent := .cell c, va, write := e.ins.op.stores } reason level
    s.modCell c (fun x => x.faultHead (accessFault e.ins.op.stores reason va))

/-- The slots of cell c that wait on page request `req`. -/
def Cell.slotsOn (x : Cell) (req : Nat) : List (Fin 6 × Transfer) :=
  (List.finRange 6).filterMap (fun n =>
    match x.slot n with
    | some t => if t.st = .pageWait req then some (n, t) else none
    | none => none)

/-- The slots of every cell that wait on a request go on, or fail with the reason it was refused (R264, R303). -/
def State.answerSlots (s : State) (req level : Nat) (reason : Option Nat) : State :=
  allCells.foldl (fun s c =>
    let ts := (s.cell c).slotsOn req
    if ts = [] then s
    else
      let s := match reason with
        | some r => ts.foldl (fun (s : State) (t : Fin 6 × Transfer) =>
            s.xlatFault { agent := .stream c, va := t.2.faultVa, write := t.2.faultWrite } r level) s
        | none => s
      s.sxAnswer c req reason) s

/-- Fetches that wait on a request go on, or meet the refusal at their next fetch (R262). -/
def State.answerFetches (s : State) (req level : Nat) (reason : Option Nat) : State :=
  allCells.foldl (fun s c =>
    let x := s.cell c
    if x.fetchReq = some req then
      let s := match reason with
        | some r => s.xlatFault { agent := .fetch c, va := x.fetchVa, exec := true } r level
        | none => s
      s.setCell c { x with fetchReq := none, fetchRefused := reason }
    else s) s

/-- Harvest units, the Parade engine and host commands that wait on a request (R264): each access that waited is a fault
of its own where the request is refused (R262). -/
def State.answerUnits (s : State) (req level : Nat) (reason : Option Nat) : State :=
  let on (l : List PageWait) := l.filter (fun w => w.req == req)
  let off (l : List PageWait) := l.filter (fun w => w.req != req)
  let hp := on s.hv.waits
  let cp := on s.ce.waits
  let op := on s.hs.waits
  let s := { s with
    hv := { s.hv with waits := off s.hv.waits }
    ce := { s.ce with waits := off s.ce.waits }
    hs := { s.hs with waits := off s.hs.waits } }
  match reason with
  | none => s
  | some r =>
    let s := { s with
      hv := { s.hv with refused := s.hv.refused ++ hp }
      ce := { s.ce with refused := s.ce.refused ++ cp }
      hs := { s.hs with refused := s.hs.refused ++ op.map (fun w => (w, r)) } }
    (hp ++ cp ++ op).foldl (fun s w => s.xlatFault { agent := w.agent, va := w.va, write := w.write } r level) s

/-- A page request ends (R264): resolved where `reason` is none. A response that names no pending request is
ignored. -/
def State.endRequest (s : State) (req : Nat) (reason : Option Nat) : State :=
  match s.mem.reqs.find? (fun r => r.id == req) with
  | none => s
  | some q =>
    let heads := s.headsOn req
    let s := { s with mem := { s.mem with reqs := s.mem.reqs.filter (fun r => r.id != req) } }
    let s := match reason with
      | some r => heads.foldl (fun (s : State) c => s.refuseHead r q.level c) (s.count FR.TR_PR_REFUSE_CNT)
      | none => s
    let s := ((s.answerSlots req q.level reason).answerFetches req q.level reason).answerUnits req q.level reason
    match reason with
    | none => s.pumpAll heads
    | some _ => s

/-- A write to TR_PRSP (R264, R277). -/
def State.prspWrite (s : State) (v : Nat) : State :=
  match bits v 17 16 with
  | 0 => s.endRequest (bits v 15 0) none
  | 1 => s.endRequest (bits v 15 0) (some 7)
  | _ => s

/-- Every pending request refused with reason 7 (R434, R506). -/
def State.refuseAll (s : State) : State :=
  (s.mem.reqs.map (fun r => r.id)).foldl (fun s i => s.endRequest i (some 7)) s

/-- PR_TIMEOUT (R264): a request has been left unanswered; a limit of 0 is none. -/
def execPrTimeout (req : BitVec 16) (s : State) : Out :=
  if s.freg FR.TR_PR_TIMEOUT = 0 || !s.mem.reqs.any (fun r => r.id == req.toNat) then .next s
  else .next (((s.endRequest req.toNat (some 8)).orFreg FR.TR_STATUS 4).goOn)

/-- A write to TR_INVAL (R259, R277). -/
def State.invalWrite (s : State) (v : Nat) : State :=
  match s.mem.inval with
  | some _ => s.orFreg FR.TR_STATUS 32
  | none =>
    let r := if bitB v 63 then none else some (bits v 56 16, bits v 15 0 + 1)
    { s with mem := { s.mem with inval := some r } }

/-- INVAL_DONE (R259): no access uses the old entries from now on. -/
def execInvalDone (s : State) : Out :=
  match s.mem.inval with
  | none => .next s
  | some r =>
    let m := match r with
      | none => { s.mem with tlb := [], ats := [], inval := none }
      | some (lo, n) => { s.mem with
          tlb := s.mem.tlb.filter (fun e => !(decide (e.page < lo + n) && decide (lo < e.page + e.pages))), inval := none }
    .next (State.count { s with mem := m } FR.TR_INVAL_CNT)

/-- TR_STATUS (R277): the sticky bits are held, the rest computed. -/
def State.trStatus (s : State) : Nat :=
  (s.freg FR.TR_STATUS &&& 44) + b2n s.mem.inval.isSome + 2 * b2n (!s.mem.reqs.isEmpty) + 16 * b2n s.prqFull

/-- ATS_TRANSLATION_COMPLETION (R261): the host's answer for a page; a refusal or an absent page turns into a
page request to the host. -/
def execAtsTranslationCompletion (page : Nat) (r : Option AtsIn) (s : State) : Out :=
  if !s.mem.atsWait.has page || !s.cxlUp then .next s
  else
    let s := { s with mem := { s.mem with atsWait := s.mem.atsWait.del page } }
    match r with
    | some t =>
      let e : AtsEnt := ⟨page, t.frame, t.r, t.w⟩
      .next (State.goOn { s with mem := { s.mem with ats := (e :: s.mem.ats).take 4096 } })
    | none => .next { s with mem := { s.mem with priWait := s.mem.priWait.add page } }

/-- ATS_INVALIDATE (R261): host pages page to page + n - 1. Accesses of the model are performed at once, so the
invalidation completes at once. -/
def execAtsInvalidate (page n : Nat) (s : State) : Out :=
  .next { s with mem := { s.mem with ats := s.mem.ats.filter (fun e => e.page < page || page + n ≤ e.page) } }

/-- PRI_RESPONSE (R261): on success the translation is tried again; on failure the access that waited is not
mapped, with reason 9. -/
def execPriResponse (page : Nat) (ok : Bool) (s : State) : Out :=
  if !s.mem.priWait.has page || !s.cxlUp then .next s
  else
    let m := { s.mem with
      priWait := s.mem.priWait.del page, ats := s.mem.ats.filter (fun (e : AtsEnt) => e.page != page) }
    if ok then .next { s with mem := { m with atsWait := m.atsWait.add page } }
    else .next (State.goOn { s with mem := { m with priFail := m.priFail.add page } })

/-! ### Tags, scrubbing, refresh (R251 to R253, R268) -/

/-- A line drained and written back, a modified near copy recalled (R268). -/
def State.cleanLine (s : State) (la : Nat) : State :=
  if s.absent la then s
  else
    let s := (s.drain la).bringHome la
    let l := s.line la
    let s := if l.dirty then s.rawWrite (la * 256) (l.read 0 256) else s
    s.setLine la { l with dirty := false }

/-- The tag of a tile through the tag aperture (R247, R268); none where a line makes the read wait. -/
def State.readTag (s : State) (tile : Nat) : Option (State × Nat) :=
  let ls := (List.range 16).map (16 * tile + ·)
  if ls.any (fun la => s.lineBusy la false || s.frameWait la none) then none
  else
    let s := ls.foldl State.cleanLine s
    some (s, s.tileTag tile)

/-- A read of the tag aperture at pa (R247, R268): the tag's 4 bytes, poisoned where its block is (R251), or none while a
line of the tile, or its stack in self-refresh (R446), makes it wait. Outside the aperture nothing is read. -/
def State.apertureRead (s : State) (pa : Nat) : State × Option (List PByte) :=
  match apertureTile pa with
  | none => (s, none)
  | some tile =>
    match s.rawAsleep (4096 * tile) with
    | some i => (s.requestExit i, none)
    | none => match s.readTag tile with
    | some (s, t) => (s, some ((leBytes 4 t).map (fun b => (b, s.tagPoisoned tile))))
    | none => ((List.range 16).foldl (fun s i => s.recall (16 * tile + i) false) s, none)

/-- TAG_APERTURE_READ (R247, R251, R268). -/
def execTagApertureRead (pa : Meets Nat HbmEcc) (s : State) : Out :=
  if !s.mainOn || (apertureTile pa.arg).isNone then .next s
  else
    let r := (if pa.met = {} then s else s.hbmEcc pa.met).apertureRead pa.arg
    .next (match r.2 with
      | some d => r.1.answer (.data d)
      | none => r.1)

/-- SCRUB_READ (R251, R252): the scrubber reads one block of memory or of tags; a pass ends when every block has been
read. -/
def execScrubRead (blk : Nat) (corrected bad : Bool) (s : State) : Out :=
  if !s.mainOn || s.freg FR.HBM_SCRUB_CFG = 0 || hbmBlocks ≤ blk then .next s
  else
    let s := s.count FR.HBM_CORR_CNT (b2n corrected)
    let s := if bad then s.hbmUncorrectable blk else s
    let done := s.mem.scrubbed.add blk
    if done.length = hbmBlocks then
      .next (State.count { s with mem := { s.mem with scrubbed := [] } } FR.HBM_SCRUB_PASS_CNT)
    else .next { s with mem := { s.mem with scrubbed := done } }

/-- HBM_REFRESH (R253): it changes timing only. -/
def execHbmRefresh (_i : Fin 20) (s : State) : Out := .next s

end Sys2Proof.Machine
end

