-- ==== Sys2Proof/Machine/ResetCell.lean ====
section
/-! DEFINITION. Cell and band resets (R42, R223, R341, R504 to R507). -/

namespace Sys2Proof.Machine

/-- The cell after its reset (R96, R153, R506): awake and halted, with the CP block, the repair state and what the
self-tests have found kept, and IM where CP_CTRL.retain is 1. -/
def Cell.afterReset (x : Cell) : Cell :=
  let keep := bitB (x.reg CR.CP_CTRL) 2
  let fresh : Cell := {
    regs := x.regs.filter (fun e => decide (CR.CP_CTRL ≤ e.1) || e.1 == CR.MX_REPAIR)
    mx := { x.mx with selftest := false }
    cp := { x.cp with st := .awake, goal := {}, held := [], admitWait := false }
    im := if keep then x.im else []
    imBad := if keep then x.imBad else []
    imEpoch := if keep then x.imEpoch else 0 }
  fresh.orReg CR.MX_STATUS (x.reg CR.MX_STATUS &&& 256)

/-- Cell c counts as arrived at the open barrier of a scope, and at no later generation (R209, R507). -/
def Barrier.resetArrival (b : Barrier) (c : CellId) : Barrier :=
  { b with arrived := if b.arrived.contains c then b.arrived else b.arrived ++ [c], next := b.next.filter (· != c) }

/-- Cell c counts as arrived at the open barrier of each of its scopes. -/
def State.arriveReset (s : State) (c : CellId) : State :=
  [Scope.band (bandOf c), .all, .equinox].foldl (fun s k => s.setBarrier k ((s.barrier k).resetArrival c)) s

/-- Steps 2 to 5 of R507: the array returns, the transfers are abandoned, the cell counts as arrived, and its state
is reset. -/
def State.resetNow (s : State) (c : CellId) : State :=
  let s := s.endDoze c
  let s := (List.finRange 6).foldl (fun s n =>
    match (s.cell c).slot n with
    | some t => s.orphan c n t
    | none => s) s
  let s := s.arriveReset c
  let s := { s with hv := { s.hv with subs := s.hv.subs.filter (fun b => b.cell != c) } }
  s.setCell c (s.cell c).afterReset

/-- A cell reset (R507): a cell that is asleep is woken first, and held in reset until then. -/
def State.resetCell (s : State) (c : CellId) : State :=
  let x := s.cell c
  match x.cp.st with
  | .asleep | .waking => (s.setCell c { x with cp := { x.cp with goal := { reset := true, band := x.cp.goal.band }, held := [] } }).requestWake c
  | .awake | .doze => s.resetNow c

/-- A reset of a kind is counted and recorded (R504). -/
def State.noteReset (s : State) (kind mask : Nat) : State :=
  ((s.putFreg FR.RST_STATUS 10 8 kind).count (FR.RST_KIND_CNT kind)).logEvent 0x0A01 kind 0 0 (mask % 2 ^ 64) 0

/-- The cells of a mask of 256 bits. -/
def maskCells (mask : Nat) : List CellId := allCells.filter (fun c => bitB mask c.val)

/-- Cells reset together. -/
def State.resetCells (s : State) (cs : List CellId) : State := cs.foldl State.resetCell s

/-- A cell reset of the cells of a mask, counted and recorded with `note` (R504). An empty mask is no reset, and cells that
are in a reset already join it (R505): a request that names no other is none. -/
def State.cellReset (s : State) (mask note : Nat) : State :=
  match (maskCells mask).filter (fun c => !(s.cell c).inReset) with
  | [] => s
  | cs => (s.resetCells cs).noteReset 1 note

/-- A band reset in an open step fails the step (R341): the first delivered layer that has not failed takes
reason 5. -/
def State.bandFails (s : State) (k : Fin 16) : State :=
  if s.hv.carried then s
  else match s.hv.delivered.find? (fun d => !s.layerFailed d.layer) with
    | some d => s.failLayer d.layer 5 0 k
    | none => s

/-- The cells of band k that are woken for a reset are in a band reset. -/
def State.bandWaits (s : State) (k : Fin 16) : State :=
  (bandCells k).foldl (fun (s : State) c => s.modCell c (fun x =>
    if x.inReset then { x with cp := { x.cp with goal := { x.cp.goal with band := true } } } else x)) s

/-- Band k is in a band reset: a cell of it waits for its wake. -/
def State.inBandReset (s : State) (k : Fin 16) : Bool :=
  (bandCells k).any (fun c => (s.cell c).inReset && (s.cell c).cp.goal.band)

/-- A band reset of the bands of a mask (R507): their cells and their Harvest units. A request for a band that is in its reset
already joins it (R505). -/
def State.bandReset (s : State) (mask : Nat) : State :=
  match (List.finRange 16).filter (fun k => bitB mask k.val && !s.inBandReset k) with
  | [] => s
  | ks => (ks.foldl (fun (s : State) k => ((s.resetCells (bandCells k)).bandFails k).bandWaits k) s).noteReset 2 mask

/-- RST_STATUS (R510): kinds and the fatal condition are held, the rest computed. -/
def State.rstStatus (s : State) : Nat :=
  s.freg FR.RST_STATUS + b2n s.floorBusy + 2 * b2n (allCells.any (fun c => (s.cell c).inReset && !(s.cell c).cp.goal.band))
    + 4 * b2n (allCells.any (fun c => (s.cell c).inReset && (s.cell c).cp.goal.band))

end Sys2Proof.Machine
end

