-- ==== Sys2Proof/Machine/HostCmd.lean ====
section
/-! DEFINITION. The command queues of the host (R418 to R425), their commands (R422, R423) and completions, result
mailboxes and the post engine (R427 to R432). A row that finds nothing to act on leaves the state as it is (log
entry 18). -/

namespace Sys2Proof.Machine

/-! ### Queues (R418, R419) -/

/-- HI_Qn_CFG. -/
def State.qCfg (s : State) (q : Fin 64) : Nat := s.freg (FR.HI_Q_CFG q.val)
/-- Entries of the submission queue. -/
def State.sqSize (s : State) (q : Fin 64) : Nat := 2 ^ bits (s.qCfg q) 4 0
/-- Entries of the completion queue. -/
def State.cqSize (s : State) (q : Fin 64) : Nat := 2 ^ bits (s.qCfg q) 12 8
/-- HI_Qn_CFG.en. -/
def State.qEn (s : State) (q : Fin 64) : Bool := bitB (s.qCfg q) 31

/-- The pointers of queue q. -/
def State.qp (s : State) (q : Fin 64) : QueueSt := s.hs.qs[q]

/-- The pointers of queue q set. -/
def State.setQp (s : State) (q : Fin 64) (x : QueueSt) : State := { s with hs := { s.hs with qs := s.hs.qs.set q x } }

/-- A write to HI_Qn_CFG (R418, R437): while en is 1 only en changes; setting it resets the pointers; a value out of
range leaves its field. -/
def State.queueCfg (s : State) (q : Fin 64) (v : Nat) : State :=
  let a := FR.HI_Q_CFG q.val
  let old := s.freg a
  if bitB old 31 then s.putFreg a 31 31 (b2n (bitB v 31))
  else
    let keep (hi lo : Nat) (ok : Bool) : Nat := if ok then bits v hi lo else bits old hi lo
    let w := bits v 31 28 * 2 ^ 28 + keep 23 16 (bits v 23 16 ≤ 247) * 2 ^ 16
      + keep 12 8 (4 ≤ bits v 12 8 && bits v 12 8 ≤ 16) * 2 ^ 8 + keep 4 0 (4 ≤ bits v 4 0 && bits v 4 0 ≤ 16)
    let s := s.setFreg a w
    if bitB v 31 then s.setQp q { s.qp q with sqHead := 0, sqTail := 0, cqTail := 0, cqHead := 0, phase := true } else s

/-- An ignored doorbell (R419). -/
def State.dbErr (s : State) (q : Fin 64) : State := s.orFreg (FR.HI_Q_STATUS q.val) 4

/-- SQ doorbell of queue q (R419), enabled or not. -/
def State.sqDoorbell (s : State) (q : Fin 64) (v : Nat) : State :=
  let n := s.sqSize q
  let x := s.qp q
  let used := (x.sqTail + n - x.sqHead) % n
  if n ≤ v || n ≤ used + (v + n - x.sqTail) % n then s.dbErr q
  else s.setQp q { x with sqTail := v }

/-- CQ doorbell of queue q (R419), enabled or not. -/
def State.cqDoorbell (s : State) (q : Fin 64) (v : Nat) : State :=
  let n := s.cqSize q
  let x := s.qp q
  if n ≤ v || (x.cqTail + n - x.cqHead) % n < (v + n - x.cqHead) % n then s.dbErr q
  else s.setQp q { x with cqHead := v }

/-- SQ_DOORBELL (R410, R417, R419). -/
def execSqDoorbell (q : Fin 64) (v : Half) (s : State) : Out :=
  .next (if s.dev.mainOn && s.cxlUp then s.sqDoorbell q v.toNat else s)

/-- CQ_DOORBELL (R410, R417, R419). -/
def execCqDoorbell (q : Fin 64) (v : Half) (s : State) : Out :=
  .next (if s.dev.mainOn && s.cxlUp then s.cqDoorbell q v.toNat else s)

/-! ### Commands (R420 to R422) -/

/-- Field [hi:lo] of a command. -/
def HostCmd.f (c : HostCmd) (hi lo : Nat) : Nat := bits c.bytes.toNat hi lo
/-- The opcode. -/
def HostCmd.op (c : HostCmd) : Nat := c.f 7 0
/-- The fence bit. -/
def HostCmd.fence (c : HostCmd) : Bool := c.f 8 8 == 1
/-- The cell mask. -/
def HostCmd.mask (c : HostCmd) : Nat := c.f 319 64
/-- The cells of the mask. -/
def HostCmd.cells (c : HostCmd) : List CellId := maskCells c.mask

/-- The bits of bytes 8 to 63 that an opcode uses, as the bounds of its fields (R422); none for a reserved
opcode. -/
def cmdFields (op : Nat) : Option (List (Nat × Nat)) :=
  if op = 0 then some []
  else if op = 1 then some [(319, 64), (376, 320), (384, 384)]
  else if op = 2 ∨ op = 3 then some [(319, 64)]
  else if op = 4 then some [(79, 64)]
  else if op = 5 then some [(319, 64), (376, 320), (431, 384)]
  else if op = 6 then some [(120, 64), (184, 128), (226, 192)]
  else if op = 7 then some [(120, 64), (223, 128)]
  else if op = 8 then some [(77, 64), (95, 80)]
  else none

/-- The ranges of R422. -/
def HostCmd.inRange (c : HostCmd) : Bool :=
  let op := c.op
  if op = 1 then c.f 322 320 == 0
  else if op = 5 then
    let n := c.f 415 384
    8 ≤ n && n ≤ 65536 && n % 8 == 0 && c.f 418 416 == 0 && c.f 431 416 + n ≤ 65536
  else if op = 6 then 1 ≤ c.f 223 192 && c.f 223 192 ≤ 2 ^ 30
  else if op = 7 then c.f 194 192 == 0 && c.f 223 192 ≤ 2 ^ 30
  else if op = 8 then 1 ≤ c.f 95 80
  else true

/-- A well-formed command (R16, R421): known opcode, reserved bits zero, values in range. -/
def HostCmd.ok (c : HostCmd) : Bool :=
  match cmdFields c.op with
  | none => false
  | some fs =>
    let m := fs.foldl (fun m f => m ||| ((2 ^ (f.1 - f.2 + 1) - 1) * 2 ^ f.2)) 0xFFFFFFF03FF
    c.bytes.toNat &&& (2 ^ 512 - 1 - m) == 0 && c.inRange

/-- Command slot k. -/
def State.cmd (s : State) (k : Fin 16) : Option HostCmd := s.hs.cmds[k]

/-- Command slot k set. -/
def State.setCmd (s : State) (k : Fin 16) (c : Option HostCmd) : State :=
  { s with hs := { s.hs with cmds := s.hs.cmds.set k c } }

/-- The commands in slots. -/
def State.allCmds (s : State) : List HostCmd := s.hs.cmds.toList.filterMap id

/-- The address of an entry of a queue: whether it lies in HBM, and where. -/
def State.sqEntry (s : State) (q : Fin 64) : Bool × Nat :=
  (bitB (s.qCfg q) 30, s.freg (FR.HI_Q_SQ_BASE q.val) + 64 * (s.qp q).sqHead)

/-- The next command of queue q: host memory holds the given entry, HBM is read. -/
def State.nextEntry (s : State) (q : Fin 64) (entry : Desc) : Desc :=
  let a := s.sqEntry q
  if a.1 then BitVec.ofNat 512 (leNat (s.latest a.2 64)) else entry

/-- Whether the host holds the next entry of queue q exclusively, so that it must give it back first (R415). -/
def State.entryHeld (s : State) (q : Fin 64) : Bool :=
  let a := s.sqEntry q
  a.1 && s.hostBlocks (a.2 / 256) false != []

/-- Whether the next command of queue q may start (R418, R420): a fence waits for every earlier command of its
queue, and a queue in host memory is reached over CXL.cache alone (R410). -/
def State.mayFetch (s : State) (entry : Desc) (q : Fin 64) : Bool :=
  s.qEn q && ((s.sqEntry q).1 || s.cxlUp) && (s.qp q).sqHead != (s.qp q).sqTail &&
    (s.entryHeld q || !(bitB (s.nextEntry q entry).toNat 8 && s.allCmds.any (fun c => c.q == q)))

/-- The queues in round-robin order after the one served last. -/
def State.queueOrder (s : State) : List (Fin 64) := (List.range 64).map (fun i => ⟨(s.hs.served + 1 + i) % 64, by omega⟩)

/-- A command of queue q takes a slot (R420); a malformed one has its outcome at once (R421). -/
def State.takeCmd (s : State) (k : Fin 16) (q : Fin 64) (bytes : Desc) : State :=
  let c : HostCmd := { q, order := s.hs.fetched, bytes, sqHead := (s.qp q).sqHead }
  let s := s.setCmd k (some (if c.ok then c else { c with outcome := some (1, 0, 0) }))
  { s with hs := { s.hs with fetched := s.hs.fetched + 1 } }

/-- The next command of queue q leaves the queue for a slot (R420), and a capture records it with its queue (R364). -/
def State.fetchCmd (s : State) (k : Fin 16) (q : Fin 64) (bytes : Desc) : State :=
  let x := s.qp q
  let s := (s.setQp q { x with sqHead := (x.sqHead + 1) % s.sqSize q }).takeCmd k q bytes
  State.capture { s with hs := { s.hs with served := q.val } } 3 (leBytes 8 q.val ++ leBytes 64 bytes.toNat)

/-- A replay's next host input (R367): a write lands in memory, and a command takes an execution slot once every earlier
write has landed and a slot is free. -/
def State.replayInput (s : State) : State :=
  match s.jobOf 4 with
  | none => s
  | some j =>
    match j.inputs with
    | [] => s
    | i :: rest =>
      let s' := s.setJob { j with inputs := rest }
      match i with
      | .write pa bytes => s'.putLatest pa (clean bytes)
      | .command q bytes =>
        match (List.finRange 16).find? (fun k => (s.cmd k).isNone) with
        | some k => if s.mem.posted.isEmpty then s'.takeCmd k q bytes else s
        | none => s

/-- COMMAND_FETCH (R420, R421): the next queue in turn has its next command fetched; `entry` is what host memory
holds at its place. -/
def execCommandFetch (entry : Desc) (s : State) : Out :=
  if !s.dev.mainOn || s.fatal || !bitB (s.freg FR.HI_CTRL) 0 then .next s
  else match (List.finRange 16).find? (fun k => (s.cmd k).isNone), s.queueOrder.find? (s.mayFetch entry) with
    | some k, some q =>
      let a := s.sqEntry q
      if s.entryHeld q then .next (s.recall (a.2 / 256) false)
      else match (if a.1 && s.absent (a.2 / 256) then s.rawAsleep a.2 else none) with
      | some i => .next (s.requestExit i)
      | none => .next (s.fetchCmd k q (s.nextEntry q entry))
    | _, _ => .next s

/-! ### The commands' effects (R422, R423) -/

/-- The command in slot k has an outcome: status, detail and result. -/
def State.finishCmd (s : State) (k : Fin 16) (status detail result : Nat) : State :=
  match s.cmd k with
  | some c => s.setCmd k (some { c with outcome := some (status, detail, result) })
  | none => s

/-- Slot k acted on by f where it holds a command of opcode op that has not executed. -/
def State.onCmd (s : State) (k : Fin 16) (op : Nat) (f : HostCmd → State → State) : State :=
  match s.cmd k with
  | some c => if s.dev.mainOn && c.op = op && c.outcome.isNone then f c s else s
  | none => s

/-- The cells of a list that are asleep or waking. -/
def State.sleepers (s : State) (cs : List CellId) : List CellId :=
  cs.filter (fun c => match (s.cell c).cp.st with
    | .asleep | .waking => true
    | .awake | .doze => false)

/-- A command to cells: those asleep are woken first (R423, R443). -/
def State.awakeFirst (s : State) (cs : List CellId) (f : State → State) : State :=
  match s.sleepers cs with
  | [] => f s
  | zs => zs.foldl State.requestWake s

/-- NOP (R422). -/
def execNopCommand (k : Fin 16) (s : State) : Out := .next (s.onCmd k 0 (fun _ s => s.finishCmd k 0 0 0))

/-- CELL_START (R422): each masked cell that does not run takes the pc, where load_pc says so, and starts, or is
woken to start. -/
def execCellStart (k : Fin 16) (s : State) : Out :=
  .next (s.onCmd k 1 (fun cmd s =>
    let ran := cmd.cells.filter (fun c => (s.cell c).mode = .running)
    let s := cmd.cells.foldl (fun s c =>
      if (s.cell c).mode = .running then s
      else
        let s := if cmd.f 384 384 = 1 then s.modCell c (fun x => { x with npc := BitVec.ofNat 64 (cmd.f 376 320) }) else s
        s.startCell c) s
    s.finishCmd k 0 0 ran.length))

/-- CELL_HALT (R422). -/
def execCellHalt (k : Fin 16) (s : State) : Out :=
  .next (s.onCmd k 2 (fun cmd s =>
    s.awakeFirst cmd.cells (fun s => (cmd.cells.foldl State.haltCell s).finishCmd k 0 0 0)))

/-- CELL_RESET (R422, R504, R507). -/
def execCellReset (k : Fin 16) (s : State) : Out :=
  .next (s.onCmd k 3 (fun cmd s => (s.cellReset cmd.mask cmd.mask).finishCmd k 0 0 0))

/-- BAND_RESET (R422, R504, R507). -/
def execBandReset (k : Fin 16) (s : State) : Out :=
  .next (s.onCmd k 4 (fun cmd s => (s.bandReset (cmd.f 79 64)).finishCmd k 0 0 0))

/-- Whether [va, va + n) can be reached: every page translated and no line, window or stack to wait for; the first
argument bounds the pieces. -/
def State.reach (write : Bool) : Nat → Nat → Nat → State → AccRes Unit
  | 0, _, _, s => .ok s ()
  | fuel + 1, va, n, s =>
    if n = 0 then .ok s ()
    else
      let m := min n (4096 - va % 4096)
      let t := s.translate { agent := .host, va, write }
      match t.2 with
      | .fault r => .fault t.1 r
      | .wait q => .wait t.1 q
      | .own _ _ => .fault t.1 1
      | .phys p =>
        let held : Option (State × Wait) :=
          if p.cacheable then t.1.linesWait (linesOf p.pa m) write none
          else match region p.pa with
            | .hbm => t.1.rawWait p.pa m write
            | _ => none
        match held with
        | some (s, why) => .wait s why
        | none =>
          match (if p.cacheable then .ok () else match region p.pa with
            | .window w off => t.1.winCheck w off m
            | _ => .ok () : MRes Unit) with
          | .ok () => State.reach write fuel (va + m) (n - m) t.1
          | .wait s why => .wait s why
          | .range => .range t.1

/-- Whether an access to [va, va + n) for `who` waited on a request that was refused, with the reason (R264). -/
def State.hostRefused (s : State) (who va n : Nat) : Option (PageWait × Nat) :=
  s.hs.refused.find? (fun r => r.1.who == who && va / 0x10000 ≤ r.1.va / 0x10000 && r.1.va / 0x10000 ≤ (va + n - 1) / 0x10000)

/-- The command's ranges translated before its first write (R423); then f. A refusal or a walk error completes it
with FAULT and the reason. -/
def State.translated (s : State) (k : Fin 16) (rs : List (Nat × Nat × Bool)) (f : State → State) : State :=
  match rs.findSome? (fun r => if r.2.1 = 0 then none else s.hostRefused k.val r.1 r.2.1) with
  | some p =>
    State.finishCmd { s with hs := { s.hs with refused := s.hs.refused.filter (fun r => r.1.who != k.val) } } k 2 p.2 0
  | none =>
    let go : AccRes Unit := rs.foldl (fun (r : AccRes Unit) q =>
      r.bind (fun s _ => State.reach q.2.2 (q.2.1 / 4096 + 2) q.1 q.2.1 s)) (.ok s ())
    match go with
    | .ok _ () => f s
    | .wait s (.page q) =>
      let va := ((s.mem.reqs.find? (fun r => r.id == q)).map (·.page)).getD 0 * 65536
      let r := (rs.find? (fun r => r.1 / 65536 * 65536 ≤ va && va < r.1 + r.2.1)).getD (va, 0, false)
      { s with hs := { s.hs with
          waits := joinWait s.hs.waits k.val { agent := .host, va := max va r.1, write := r.2.2 } (.page q) } }
    | .wait s _ => s
    | .fault s r => s.finishCmd k 2 r 0
    | .range s => s.finishCmd k 2 0 0

/-- IM_LOAD (R422, R423), which ends DOZE (R443). -/
def execImLoad (k : Fin 16) (s : State) : Out :=
  .next (s.onCmd k 5 (fun cmd s =>
    let va := cmd.f 376 320
    let n := cmd.f 415 384
    s.translated k [(va, n, false)] (fun s => s.awakeFirst cmd.cells (fun s =>
      match s.spanRead .host va n with
      | .ok s d =>
        if anyBad d then s.finishCmd k 4 0 0
        else if cmd.cells.any (fun c => (s.cell c).mode = .running) then s.finishCmd k 3 0 0
        else
          (cmd.cells.foldl (fun (s : State) c => (s.endDoze c).modCell c (fun x => x.imWrite (cmd.f 431 416) (plain d))) s).finishCmd
            k 0 0 0
      | .wait s _ => s
      | .fault s r => s.finishCmd k 2 r 0
      | .range s => s.finishCmd k 2 0 0))))

/-- A write of bytes by a command whose pages are translated, and its outcome. -/
def State.cmdWrite (s : State) (k : Fin 16) (va : Nat) (d : List PByte) (cls : Fin 8) : State :=
  match s.spanWrite .host va d cls with
  | .ok s () => s.finishCmd k 0 0 0
  | .wait s _ => s
  | .fault s r => s.finishCmd k 2 r 0
  | .range s => s.finishCmd k 2 0 0

/-- COPY (R251, R254, R422, R423): poison passes with the data. -/
def execCopy (k : Meets (Fin 16) MemUpset) (s : State) : Out :=
  .next (s.onCmd k.arg 6 (fun cmd s =>
    let src := cmd.f 120 64
    let dst := cmd.f 184 128
    let n := cmd.f 223 192
    let cls : Fin 8 := ⟨cmd.f 226 224 % 8, by omega⟩
    s.translated k.arg [(src, n, false), (dst, n, true)] (fun s =>
      match (s.memUpset k.met).spanRead .host src n cls with
      | .ok s d => s.cmdWrite k.arg dst d cls
      | .wait s _ => s
      | .fault s r => s.finishCmd k.arg 2 r 0
      | .range s => s.finishCmd k.arg 2 0 0)))

/-- FILL (R422, R423). -/
def execFill (k : Fin 16) (s : State) : Out :=
  .next (s.onCmd k 7 (fun cmd s =>
    let dst := cmd.f 120 64
    let n := cmd.f 223 192
    s.translated k [(dst, n, true)] (fun s =>
      s.cmdWrite k dst (clean ((List.replicate (n / 8) (leBytes 8 (cmd.f 191 128))).flatten)) 0)))

/-- SEM_POST (R282, R422, R423): a cell held in reset discards it; one that is asleep is woken first. -/
def execSemPost (k : Fin 16) (s : State) : Out :=
  .next (s.onCmd k 8 (fun cmd s =>
    let c := cellNo (cmd.f 71 64)
    if (s.cell c).inReset then s.finishCmd k 5 0 0
    else s.awakeFirst [c] (fun s => (s.post c (BitVec.ofNat 6 (cmd.f 77 72)) (cmd.f 95 80)).finishCmd k 0 0 0)))

/-! ### Mailboxes (R427 to R429) -/

/-- Mailbox m. -/
def State.box (s : State) (m : Nat) : Mailbox := s.hs.boxes.get (fun _ => {}) m

/-- Mailbox m set. -/
def State.setBox (s : State) (m : Nat) (b : Mailbox) : State :=
  { s with hs := { s.hs with boxes := s.hs.boxes.set (fun _ => {}) m b } }

/-- A publication to a mailbox begins (R428). -/
def Mailbox.begin' (b : Mailbox) : Mailbox := if b.st = .consumed then { b with st := .empty } else b

/-- A publication to a mailbox that is not READY (R428). -/
def State.publish (s : State) (p : Publication) : State :=
  let b := s.box p.mbx
  ((s.setBox p.mbx { b with
      st := .ready, seq := b.seq + 1, ptr := BitVec.ofNat 52 p.ptr, len := BitVec.ofNat 32 p.len
      tag := BitVec.ofNat 32 p.tag, user := BitVec.ofNat 64 p.user }).count FR.HI_MBX_PUB_CNT).hostEvent 6

/-- A write of a mailbox's ack field (R429). -/
def State.ackBox (s : State) (m : Nat) (v : BitVec 32) : State :=
  let b := s.box m
  if b.st = .ready && b.seq = v then s.setBox m { b with st := .consumed, ack := v }
  else s.count FR.HI_ACK_STALE_CNT

/-- MAILBOX_ACK (R429). -/
def execMailboxAck (m : BitVec 12) (v : Half) (s : State) : Out :=
  .next (if s.dev.mainOn && s.cxlUp then s.ackBox m.toNat v else s)

/-! ### Completions (R424, R425, R431) -/

/-- Whether queue q has room for a completion (R425). -/
def State.cqRoom (s : State) (q : Fin 64) : Bool := ((s.qp q).cqTail + 1) % s.cqSize q != (s.qp q).cqHead

/-- Bytes 0 to 7 of a completion, as a mailbox shows them (R424, R431). -/
def HostCmd.head (c : HostCmd) (result : Nat) : Nat := result % 2 ^ 32 + c.sqHead % 65536 * 2 ^ 32 + c.q.val * 2 ^ 48

/-- A completion entry (R424). -/
def HostCmd.entry (c : HostCmd) (phase : Bool) (status detail result : Nat) : Nat :=
  c.head result + c.f 31 16 * 2 ^ 64 + b2n phase * 2 ^ 80 + status * 2 ^ 81 + detail % 2 ^ 32 * 2 ^ 96

/-- Whether the command publishes a mailbox that it has not published yet (R431): a malformed one executes
nothing. -/
def HostCmd.owesMailbox (c : HostCmd) : Bool :=
  c.f 9 9 == 1 && !c.published && match c.outcome with
    | some o => o.1 != 1
    | none => false

/-- Whether what the command has begun has come about: started cells are awake, reset cells have been reset (R423,
R504). -/
def State.cmdSettled (s : State) (c : HostCmd) : Bool :=
  if c.op = 1 then (s.sleepers c.cells).all (fun n => !(s.cell n).cp.goal.start)
  else if c.op = 3 then c.cells.all (fun n => !(s.cell n).inReset)
  else if c.op = 4 then allCells.all (fun n => !(bitB (c.f 79 64) (bandOf n).val && (s.cell n).inReset))
  else true

/-- The completion of the command in slot k written, or posted where its line is busy, and the slot freed (R424). The message
follows the entry (R426). -/
def State.complete (s : State) (k : Fin 16) (c : HostCmd) (status detail result : Nat) : State :=
  let q := c.q
  let x := s.qp q
  let cfg := s.qCfg q
  let bs := leBytes 16 (c.entry x.phase status detail result)
  let a := s.freg (FR.HI_Q_CQ_BASE q.val) + 16 * x.cqTail
  let waits := bitB cfg 29 && s.mustPost a 16
  let v := if bitB cfg 28 then some (bits cfg 23 16) else none
  let s := if bitB cfg 29 then s.putLatest a (clean bs) else s.hostWrite a (clean bs)
  let t := (x.cqTail + 1) % s.cqSize q
  let s := (s.setQp q { x with cqTail := t, phase := if t = 0 then !x.phase else x.phase }).setCmd k none
  let s := s.count FR.HI_CMD_CNT
  let s := if status = 0 then s else s.count FR.HI_CMD_ERR_CNT
  if waits then { s with hs := { s.hs with owed := s.hs.owed ++ [(a, v)] } }
  else match v with
    | some v => s.sendMsi v
    | none => s

/-- COMPLETION_WRITE (R410, R424, R425): it waits for its mailbox and for room, and where its queue is in host memory for
CXL.cache. -/
def execCompletionWrite (k : Fin 16) (s : State) : Out :=
  match s.cmd k with
  | none => .next s
  | some c =>
    match c.outcome with
    | none => .next s
    | some (status, detail, result) =>
      if c.owesMailbox || (status != 1 && !s.cmdSettled c) then .next s
      else if !s.cqRoom c.q then .next (s.stallF FR.HI_CQ_WAIT_CNT)
      else if !bitB (s.qCfg c.q) 29 && !s.cxlUp then .next s
      else
        let a := s.freg (FR.HI_Q_CQ_BASE c.q.val) + 16 * (s.qp c.q).cqTail
        match (if bitB (s.qCfg c.q) 29 && s.absent (a / 256) then s.rawAsleep a else none) with
        | some i => .next (s.requestExit i)
        | none => .next (s.complete k c status detail result)

/-! ### The post engine (R430 to R432) -/

/-- HI_CTRL.post_en. -/
def State.postEn (s : State) : Bool := bitB (s.freg FR.HI_CTRL) 1

/-- The post head moved on and written behind the trigger word (R430); a write that cannot be made is left out. -/
def State.postAdvance (s : State) : State :=
  let h := s.freg FR.HI_POST_HEAD + 1
  let s := s.setFreg FR.HI_POST_HEAD h
  match s.spanWrite .host (s.freg FR.HI_POST_TRIG + 8) (clean (leBytes 8 h)) with
  | .ok s () => s
  | _ => s

/-- A post record that is not published (R430). -/
def State.postError (s : State) (va reason : Nat) : State :=
  let h := s.freg FR.HI_POST_HEAD
  let s := ((s.orFreg FR.HI_STATUS 2).hostEvent 7).logEvent 0x0901 h 5 va reason 0
  s.postAdvance

/-- Whether the write behind the trigger word can be made now, or never; a wait keeps what it has requested. -/
def State.postReady (s : State) (f : State → State) : State :=
  match State.reach true 2 (s.freg FR.HI_POST_TRIG + 8) 8 s with
  | .wait s _ => s
  | _ => f s

/-- The record at the head of the ring taken (R430). -/
def State.takePost (s : State) (r : Nat) : State :=
  let va := bits r 184 128
  let len := bits r 127 96
  if bits r 191 185 ≠ 0 || bits r 63 12 ≠ 0 || len = 0 || 65536 < len || 65536 < va % 65536 + len then
    s.postReady (fun s => s.postError va 0)
  else
    match s.hostRefused 16 va 1 with
    | some p =>
      State.postReady { s with hs := { s.hs with refused := s.hs.refused.erase p } }
        (fun s => s.postError va p.2)
    | none =>
      let t := s.translate { agent := .host, va }
      match t.2 with
      | .fault w => t.1.postReady (fun s => s.postError va w)
      | .wait why => { t.1 with hs := { t.1.hs with waits := joinWait t.1.hs.waits 16 { agent := .host, va } why } }
      | .own _ _ => t.1.postReady (fun s => s.postError va 1)
      | .phys p =>
        let m := bits r 11 0
        let s := t.1.setBox m (t.1.box m).begin'
        { s with hs := { s.hs with
            post := some { mbx := m, ptr := p.pa, len, tag := bits r 95 64, user := bits r 255 192 } } }

/-- POST_TRIGGER (R430): the engine looks at the trigger word; where it exceeds the head, the record at the head is
read. A ring that cannot be read posts nothing. -/
def execPostTrigger (s : State) : Out :=
  if !s.dev.mainOn || !s.postEn || s.hs.post.isSome then .next s
  else match s.spanRead .host (s.freg FR.HI_POST_TRIG) 8 with
    | .ok s w =>
      let h := s.freg FR.HI_POST_HEAD
      if leNat (plain w) ≤ h || anyBad w then .next s
      else match s.spanRead .host (s.freg FR.HI_POST_BASE + 32 * (h % 2 ^ s.freg FR.HI_POST_CFG)) 32 with
        | .ok s r => .next (if anyBad r then s.postReady (fun s => s.postError 0 11) else s.takePost (leNat (plain r)))
        | .wait s _ => .next s
        | .fault s _ => .next s
        | .range s => .next s
    | .wait s _ => .next s
    | .fault s _ => .next s
    | .range s => .next s

/-- MAILBOX_PUBLISH (R428, R431, R432): the waiting post record, or the mailbox of the command in slot k. It waits
while the mailbox is READY. -/
def execMailboxPublish (src : Option (Fin 16)) (s : State) : Out :=
  match src with
  | none =>
    match s.hs.post with
    | none => .next s
    | some p =>
      if (s.box p.mbx).st = .ready then .next (s.stallF FR.HI_MBX_WAIT_CNT)
      else .next (s.postReady (fun s => (State.publish { s with hs := { s.hs with post := none } } p).postAdvance))
  | some k =>
    match s.cmd k with
    | none => .next s
    | some c =>
      match c.outcome with
      | none => .next s
      | some o =>
        if !c.owesMailbox || !s.cmdSettled c then .next s
        else
          let m := c.f 43 32
          if (s.box m).st = .ready then .next (s.stallF FR.HI_MBX_WAIT_CNT)
          else
            .next ((s.publish { mbx := m, ptr := 0, len := 0, tag := c.f 31 16, user := c.head o.2.2 }).setCmd k
              (some { c with published := true }))

/-! ### Registers that read what the interface does (R437) -/

/-- HI_STATUS (R437). -/
def State.hiStatus (s : State) : Nat :=
  let waits := match s.hs.post with
    | some p => (s.box p.mbx).st == .ready
    | none => false
  (s.freg FR.HI_STATUS &&& 2) + b2n (!s.allCmds.isEmpty)
    + 4 * b2n (waits || s.allCmds.any (fun c => c.owesMailbox && (s.box (c.f 43 32)).st == .ready))

/-- HI_Qn_STATUS (R437). -/
def State.qStatus (s : State) (q : Fin 64) : Nat :=
  let cs := s.allCmds.filter (fun c => c.q == q)
  (s.freg (FR.HI_Q_STATUS q.val) &&& 4) + b2n (!cs.isEmpty)
    + 2 * b2n (!s.cqRoom q && cs.any (fun c => c.outcome.isSome && !c.owesMailbox))

/-- HI_Qn_PTR (R436). -/
def State.qPtr (s : State) (q : Fin 64) : Nat := (s.qp q).sqHead + (s.qp q).cqTail * 2 ^ 32

/-- The 64 bytes of a mailbox as the host reads them (R427). -/
def Mailbox.word (b : Mailbox) : Nat :=
  (match b.st with | .empty => 0 | .ready => 1 | .consumed => 2) + b.seq.toNat * 2 ^ 32 + b.ptr.toNat * 2 ^ 64
    + b.len.toNat * 2 ^ 128 + b.tag.toNat * 2 ^ 160 + b.user.toNat * 2 ^ 192 + b.ack.toNat * 2 ^ 448

end Sys2Proof.Machine
end

