-- ==== Sys2Proof/Machine/HostMem.lean ====
section
/-! DEFINITION. What the host does with the device's memory over CXL (R413 to R416): reads and writes through the HDM
decoder, answers to back-invalidates, and snoops of host memory; and the DOE mailbox (R433). -/

namespace Sys2Proof.Machine

/-- The device address of a host access through the committed decoder, on a link with CXL.mem (R410, R413). -/
def State.hdmAddr (s : State) (hpa : Nat) : Option Nat :=
  match s.hs.link, s.hs.hdm with
  | .cxl, some b => if s.dev.mainOn && b ≤ hpa && hpa < b + hbmTop then some (hpa - b) else none
  | _, _ => none

/-- The host holds block blk from now on (R415). -/
def State.grant (s : State) (blk : Nat) (excl : Bool) : State :=
  { s with hs := { s.hs with held := s.hs.held.filter (fun h => h.1 != blk) ++ [(blk, excl)] } }

/-- The entries of the host snoop filter (R415). -/
def snoopFilter : Nat := 4194304

/-- A back-invalidate for a block, once; true stands for BISnpInv (R415). -/
def State.callBack (s : State) (blk : Nat) (inv : Bool) : State :=
  if s.hs.snooped.any (fun n => n.1 == blk) then s
  else State.count { s with hs := { s.hs with snooped := s.hs.snooped ++ [(blk, inv)] } } FR.HI_BISNP_CNT

/-- Whether block blk can be granted to the host now; otherwise the least recently granted line is called back. -/
def State.grantRoom (s : State) (blk : Nat) (f : State → State) : State :=
  if s.hs.held.any (fun h => h.1 == blk) || s.hs.held.length < snoopFilter then f s
  else match s.hs.held with
    | h :: _ => s.callBack h.1 true
    | [] => f s

/-- Whether a host access to line la has to wait: the line is leaving, being fetched, in an open epoch, or without room for
it to grow, or an earlier request or a record of the device waits there. -/
def State.hostWaits (s : State) (la : Nat) : Bool :=
  (s.line la).leaving || (s.line la).epoch.isSome || s.mem.miss.any (fun m => m.2.line == la) ||
    (!s.absent la && s.frameWait la none) || s.queued la

/-- The host reads a block (R222, R414, R415): as a coherent read of the cached line, whose data a modified near copy first
gives back, or from HBM, unchecked. Without another holder the host's copy is exclusive. -/
def State.hostLoad (s : State) (da : Nat) : State :=
  let la := da / 256
  let blk := da / 64
  if s.absent la then
    let d := s.hbmRead (blk * 64) 64
    (s.grant blk true).answer (.data d)
  else
    let fresh := (s.line la).st == .a || ((s.line la).st == .s && (s.line la).noHolder)
    let s := s.homeArrive la 0 false false
    let l := s.line la
    let s := s.used la { l with st := .s }
    (s.grant blk fresh).answer (.data (l.read (blk % 4 * 64) 64))

/-- HDM_READ (R251, R413 to R415): 64 bytes at a host physical address. -/
def execHdmRead (hpa : Meets Nat MemUpset) (s : State) : Out :=
  match s.hdmAddr hpa.arg with
  | none => .next s
  | some da =>
    if s.hostWaits (da / 256) then .next (s.epochWait (da / 256))
    else match (if s.absent (da / 256) then s.rawAsleep da else none) with
      | some i => .next (s.requestExit i)
      | none => .next (s.grantRoom (da / 64) (fun s => (s.memUpset hpa.met).hostLoad da))

/-- The runs of enabled bytes of a write: each enabled byte with its place. -/
def enabled (data : Desc) (be : BitVec 64) (poison : Bool) : List (Nat × PByte) :=
  (List.range 64).filterMap (fun i =>
    if be.getLsbD i then some (i, (BitVec.ofNat 8 (data.toNat / 2 ^ (8 * i)), poison)) else none)

/-- Enabled bytes of a block of HBM written: a whole block at once, others one by one. -/
def State.storeBlock (s : State) (blk : Nat) (bs : List (Nat × PByte)) : State :=
  if bs.length = 64 then s.hbmWrite (blk * 64) (bs.map (·.2))
  else bs.foldl (fun s b => s.hbmWrite (blk * 64 + b.1) [b.2]) s

/-- The host writes bytes of a block (R222, R251, R414, R415). What it keeps of the line is `keep`: nothing, a shared
copy, or an exclusive one. -/
def State.hostStore (s : State) (da : Nat) (data : Desc) (be : BitVec 64) (poison : Bool) (keep : Option Bool) :
    State :=
  let la := da / 256
  let blk := da / 64
  let s :=
    if s.absent la then s.storeBlock blk (enabled data be poison)
    else
      let s := s.homeArrive la 0 false false
      let put (l : Line) (b : Nat × PByte) : Line := l.put (blk % 4 * 64 + b.1) [b.2]
      let bs := enabled data be poison
      let l := if bs.length = 64 then (s.line la).put (blk % 4 * 64) (bs.map (·.2)) else bs.foldl put (s.line la)
      s.place la { l.alone with st := .s, dirty := true, writer := some .host }
  match keep with
  | none => State.flushPosted { s with hs := { s.hs with held := s.hs.held.filter (fun h => h.1 != blk) } }
  | some excl => s.grant blk excl

/-- A host write to a block of device memory as a capture records it (R364, type 3): the address, the bytes that were
written and their data (log entry 219). -/
def State.captureWrite (s : State) (blk : Nat) (data : Desc) (be : BitVec 64) : State :=
  s.capture 3 (leBytes 8 (blk * 64) ++ leBytes 8 be.toNat ++
    (List.range 64).map (fun i => if be.getLsbD i then BitVec.ofNat 8 (data.toNat / 2 ^ (8 * i)) else 0))

/-- HDM_WRITE (R251, R413 to R415): bytes of one 64-byte block. -/
def execHdmWrite (hpa : Meets Nat MemUpset) (data : Desc) (be : BitVec 64) (poison : Bool)
    (keep : Option Bool) (s : State) : Out :=
  match s.hdmAddr hpa.arg with
  | none => .next s
  | some da =>
    if s.hostWaits (da / 256) then .next (s.epochWait (da / 256))
    else match (if s.absent (da / 256) then s.rawAsleep da else none) with
      | some i => .next (s.requestExit i)
      | none =>
        let go (s : State) : State :=
          ((s.memUpset hpa.met).hostStore da data be poison keep).captureWrite (da / 64) data be
        .next (match keep with
          | none => go s
          | some _ => s.grantRoom (da / 64) go)

/-- BISNP_RESPONSE (R415): the host gives block blk back, or keeps it shared where it was asked for data alone, with
its data and their poison if it had changed them. Data that find no frame (R219), or a stack in self-refresh (R446), wait,
and the response with them. Accesses that waited come again. -/
def execBisnpResponse (blk : Nat) (dirty : Option (Desc × Bool)) (s : State) : Out :=
  match s.hs.snooped.find? (fun n => n.1 == blk) with
  | none => .next s
  | some n =>
    let la := blk / 4
    if dirty.isSome && (s.line la).resident && s.frameWait la none then .next s
    else match (if dirty.isSome && s.absent la then s.rawAsleep (la * 256) else none) with
    | some i => .next (s.requestExit i)
    | none =>
    let held := if n.2 then s.hs.held.filter (fun h => h.1 != blk)
      else s.hs.held.map (fun h => if h.1 = blk then (h.1, false) else h)
    let s := { s with hs := { s.hs with held, snooped := s.hs.snooped.filter (fun m => m.1 != blk) } }
    let s := match dirty with
      | some d => (s.putNow (blk * 64) ((leBytes 64 d.1.toNat).map (fun b => (b, d.2)))).captureWrite blk d.1 (BitVec.ofNat 64 (2 ^ 64 - 1))
      | none => s
    .next (s.lineLeft (blk / 4)).flushPosted.goOn

/-- HOST_SNOOP (R416): the host asks for a 64-byte line of its own memory, or takes it back: the home answers, and
writes a modified line back before it gives it up. -/
def execHostSnoop (blk : Nat) (inv : Bool) (s : State) : Out :=
  let la := (hostBase + blk * 64) / 256
  if !s.dev.mainOn || !s.cxlUp || s.absent la || s.hostWaits la then .next s
  else
    let s := (s.drain la).bringHome la
    let l := s.line la
    let s := (s.answer (.data (l.read (blk % 4 * 64) 64))).homePath la
    if inv then .next (s.dropLine la)
    else
      let s := if l.dirty then s.rawWrite (la * 256) (l.read 0 256) else s
      .next (s.setLine la { l with dirty := false, st := if l.st == .m then .s else l.st })

/-- What the device presents in configuration space (R411): PCI vendor, device, revision, class code, subsystem vendor,
subsystem, and the vendor of the CXL DVSEC. -/
structure HostIds where
  vendor : Nat := 0x1F9B
  device : Nat := 0x0240
  revision : Nat := 0x11
  classCode : Nat := 0x120000
  subVendor : Nat := 0x1F9B
  subsystem : Nat := 0x0001
  dvsecVendor : Nat := 0x1E98
  deriving DecidableEq, Repr

/-- The identifiers of the GX240 (R411). -/
def hostIds : HostIds := {}

/-- A doubleword of the PCI header that holds identifiers (R411), at its standard offset; none elsewhere. -/
def HostIds.header (i : HostIds) (off : Nat) : Option Nat :=
  if off = 0x00 then some (i.vendor + i.device * 2 ^ 16)
  else if off = 0x08 then some (i.revision + i.classCode * 2 ^ 8)
  else if off = 0x2C then some (i.subVendor + i.subsystem * 2 ^ 16)
  else none

/-- The largest DOE data object in bytes (R433). -/
def doeLargest : Nat := 0x40000

/-- The protocols of the DOE mailbox in the order of discovery (R433). -/
def doeProtocols : List DoeProto := [.discovery, .cmaSpdm, .securedCma, .cxlTable]

/-- DOE_REQUEST (R433): discovery of a protocol, or the CDAT with its latency in ns and bandwidth in GB/s. -/
def execDoeRequest (r : DoeIn) (s : State) : Out :=
  match s.hs.link with
  | .down => .next s
  | _ =>
    match r with
    | .discovery i => .next (s.answer (.protocol doeProtocols[i]?))
    | .cdat => .next (s.answer (.cdat 0 hbmTop 350 32800))

end Sys2Proof.Machine
end

