-- ==== Sys2Proof/Machine/ResetDev.lean ====
section
/-! DEFINITION. What a loss of main power, a device reset, a function-level reset and a floor reset do to the state
(R42, R341, R403, R434, R439, R506, R508, R509), and the handling of fatal errors (R497). -/

namespace Sys2Proof.Machine

/-- Whether a register lies in the Vigil domain (R381, R462, R494, R503, R510); FL_CHIP_ID, which END leaves readable, comes
from its fuses (R488). -/
def vigilReg (a : Nat) : Bool :=
  (0x30010000000 ≤ a && a < 0x30010010000) || (0x30010060000 ≤ a && a < 0x300100A0000) || a == FR.FL_BOOT_EPOCH ||
    a == FR.FL_CHIP_ID

/-- What is left of the host interface when its block is reset: what has been sent to the host. -/
def HostState.sentOnly (h : HostState) : HostState := { sent := h.sent, aer := h.aer, reply := h.reply }

/-- The power controller with no main domain to control. -/
def PwrState.mainOff (p : PwrState) : PwrState :=
  { p with cellQ := [], hbmQ := [], cellN := 0, hbmN := 0, sr := 0xFFFFF, srExit := [], srWant := [], f := 100, vFor := 0,
           ramp := none, want := 100, pll := none }

/-- Every state of the main domain but memory goes (R439, R506), and PWR_POINT shows that nothing is supplied (R441). -/
def State.clearMain (s : State) : State :=
  State.setFreg { s with
    cells := Vector.replicate 256 {}, slices := Vector.replicate 256 {}, fregs := s.fregs.filter (fun e => vigilReg e.1)
    sync := {}, hv := {}, rx := {}, fl := { wire := s.fl.wire }, ce := {}, hs := s.hs.sentOnly, pw := s.pw.mainOff
    dev := { s.dev with mainOn := false, ready := false, step := none, cxlWait := false, spdmDoe := .none,
                         floorBring := none } } FR.PWR_POINT 100

/-- The main domain loses its power, HBM contents included (R439). -/
def State.mainLost (s : State) : State :=
  let s := s.clearMain
  { s with mem := { host := s.mem.host, hostPoison := s.mem.hostPoison }, dev := { s.dev with hbmLost := true } }

/-- The state that a device reset leaves before bring-up (R42, R462, R489, R503, R506, R514): Vigil-domain state
except the power block, ALM_CTRL and the fatal condition, and HBM contents, are kept. -/
def State.deviceClear (s : State) : State :=
  let uj := s.freg FR.ENERGY_UJ
  let lost := s.freg FR.PWR_STATUS &&& 32
  let epoch := s.freg FR.FL_BOOT_EPOCH
  let s := s.clearMain
  let m := s.mem
  let s := { s with
    mem := { host := m.host, hostPoison := m.hostPoison, hbm := m.hbm, hbmEpoch := m.hbmEpoch, hbmPoison := m.hbmPoison, tagSyn := m.tagSyn,
             ilvWas := m.ilvWas }
    pw := { excluded := s.pw.excluded }
    fregs := s.fregs.filter (fun e => !(0x30010060000 ≤ e.1 && e.1 < 0x30010070000) && e.1 != FR.ALM_CTRL)
    dev := { s.dev with
      trip := false, spdmI3c := .none, jtag := { s.dev.jtag with ltn := Vector.replicate 10 0, nonce := none } } }
  let s := (s.setFreg FR.ENERGY_UJ uj).orFreg FR.PWR_STATUS lost
  ((s.clrFreg FR.RST_STATUS 8).clrFreg FR.SYS_LC 128).setFreg FR.FL_BOOT_EPOCH ((epoch + 1) % 2 ^ 32)

/-! ### Fatal errors (R497) -/

/-- The data of one cell and its slice become undefined, from draw `d` on. -/
def State.spoilCell (d : Nat) (s : State) (c : CellId) : State :=
  let e := d + 2 * c.val + 1
  let s := s.modCell c (fun x => { x with
    s := Vector.ofFn (fun i => Config.undefReg e i.val), d := Vector.ofFn (fun i => Config.undefDesc e i.val)
    oc := [], ocPoison := [], ocEpoch := e, im := [], imBad := [], imEpoch := e, acc := [], accEpoch := e })
  s.modSlice c (fun x => { x with win := [], winPoison := [], winEpoch := e + 1, winUndef := 0x2000000 })

/-- Every piece of data in the main domain becomes undefined (R496, log entry 225): the memories and the scalar and
descriptor registers of the cells, slice windows, cached lines, and HBM with its tags and poison. -/
def State.spoilData (s : State) : State :=
  let d := s.free
  let s := allCells.foldl (State.spoilCell d) s
  let m := s.mem
  { s with
    free := d + 513
    mem := { m with
      hbm := [], hbmPoison := [], tagSyn := [], hbmEpoch := d + 1
      lines := m.lines.map (fun e =>
        if e.2.st == .i then e else (e.1, { e.2 with data := Config.undefLine d e.1, poison := [] })) } }

/-- A fatal error: fetch stops, cells halt, instances abort with LOCAL_FAULT, those that wait to start are dropped, data
are undefined from then on (R496), and the record and the AER message are written. RST_STATUS.fatal holds the device so
until a device reset. -/
def State.fatalError (s : State) (source cause : Nat) : State :=
  let s := s.orFreg FR.RST_STATUS 8
  let s := allCells.foldl State.haltCell s
  let s : State := { s with ce := { s.ce with waitQ := [], mine := none } }
  let s := allSlots.foldl (fun s k =>
    match s.inst k with
    | some i => s.abortInst k 3 (if i.n = 0 then 0xFFFFFFFF else i.me)
    | none => s) s
  s.spoilData.logEvent 0x0A02 source 4 0 cause 0

/-! ### Function-level reset (R434) -/

/-- The registers of the host interface block at their reset values (R436). -/
def State.clearHi (s : State) : State :=
  { s with fregs := s.fregs.filter (fun e => !(0x30010010000 ≤ e.1 && e.1 < 0x30010020000)) }

/-- The open step discarded (R341): the working copies of the groups whose update began are to be made again, from the
committed masters. -/
def State.dropStep (s : State) : State :=
  let owed := s.hv.begun.filterMap (fun g => (s.deliveryOf g.1).map (fun d => (g.1, d.entry, s.verBit g.1, g.2)))
  { s with hv := { remake := s.hv.remake ++ owed } }

/-- A replica job dropped without a result record (R434). -/
def State.dropJob (s : State) : State :=
  match s.rx.job with
  | none => { s with rx := { s.rx with starting := none } }
  | some j =>
    let s := if j.ports && !j.loop then s.clrFreg FR.FL_CTRL 16 else s
    { s with rx := { s.rx with job := none, starting := none } }

/-- Every descriptor disarmed. -/
def State.disarmAll (s : State) : State := { s with ce := { s.ce with armed := [], waitQ := [], held := [], deliver := [], mine := none } }

/-- The completion entries that wait for the host to give back their lines dropped (R434): none is written any more. -/
def State.dropEntries (s : State) : State :=
  { s with mem := { s.mem with posted := s.mem.posted.filter (fun w => !s.hs.owed.any (fun e => e.1 == w.1)) } }

/-- A function-level reset (R434): the host interface block is reset last, so that HI_EVT is clear. -/
def State.functionReset (s : State) : State :=
  let h := s.hs
  let s := State.dropEntries s
  let s : State := { s with hs := { h.sentOnly with hdm := h.hdm, link := h.link, held := h.held, snooped := h.snooped } }
  let s := s.noticeAll.disarmAll
  let s := s.dropStep
  let s := State.dropJob { s with rx := { s.rx with phase := .idle, work := [], repaired := [], release := none,
                                                     formed := [], dxLost := false } }
  let s := (s.resetCells allCells).refuseAll
  let s := { s with mem := { s.mem with tlb := [], ats := [], atsWait := [], priWait := [], priFail := [] } }
  s.redoWc.clearHi.noteReset 4 0

/-! ### Floor reset (R508, R509) -/

/-- One line that the host holds, at the end of the flush (R508, phase 1): whether the host held it modified is not
the device's to know (log entry 22); if so, its block is poisoned in its home and recorded. -/
def State.loseHostBlock (s : State) (h : Nat × Bool) : State :=
  let s := if s.hs.snooped.any (fun n => n.1 == h.1) then s else s.count FR.HI_BISNP_CNT
  if h.2 && Config.hostDirty s.free h.1 then
    let s := s.draw
    let s := s.putNow (h.1 * 64) (((s.latest (h.1 * 64) 64)).map (fun b => (b, true)))
    s.logEvent 0x0203 (homeSlice (h.1 * 64)).val 3 (h.1 * 64) 0x300 0
  else s.draw

/-- The lines of host memory that the device holds. -/
def State.hostLines (s : State) : List Nat :=
  (s.mem.lines.filter (fun e => match region (e.1 * 256) with
    | .host _ => true
    | _ => false)).map (·.1)

/-- A modified line of host memory in the flush: written back, or dropped with record 0x0203 where the phase ended before
(log entry 22). One that was leaving has left; any other stays, clean. -/
def State.flushLine (s : State) (la : Nat) : State :=
  let s := (s.drain la).bringHome la
  let l := s.line la
  let s' := s.draw
  if l.dirty && Config.flushLate s.free la then
    (s'.setLine la l.gone).logEvent 0x0203 (homeSlice (la * 256)).val 3 (la * 256) (writerCode l.writer) 0
  else if l.leaving then s'.dropLine la
  else if l.dirty then (s'.rawWrite (la * 256) (l.read 0 256)).setLine la { l with dirty := false }
  else s'

/-- Phase 1: the lines that the host holds come back, and modified lines of host memory are written back. What waited for
the host alone goes on. -/
def State.flushHost (s : State) : State :=
  match s.hs.link with
  | .cxl =>
    let s := s.hs.held.foldl State.loseHostBlock s
    let s := s.hostLines.foldl State.flushLine s
    let s := State.flushPosted { s with hs := { s.hs with held := [], snooped := [] } }
    (s.mem.lines.filter (fun e => e.2.leaving && !e.2.dirty)).foldl (fun s e => s.dropLine e.1) s
  | _ => s

/-- Phase 3: what the controllers have accepted is written, each write being one step of the model, and every stack enters
self-refresh. A write-back that the memory has not acknowledged is still held in its buffer (R509). -/
def State.drainFloor (s : State) : State :=
  State.stopPll { s with pw := { s.pw with sr := 0xFFFFF, srExit := [], hbmQ := [], srWant := [] } }

/-- The writes of a transfer's granules that had been issued but not acknowledged, from the position on (R306): each
may or may not have landed (log entry 7). Memory alone shows it. The argument bounds the granules. -/
def State.landSome (c : CellId) (n : Fin 6) : Nat → State → State → State
  | 0, _, s => s
  | fuel + 1, t, s =>
    -- t is a copy of the machine that performs the granules one after the other
    let t := { t with mem := s.mem, free := s.free }
    let t' := t.microTransfer c n
    let landed := Config.inFlight (t'.free + 1) % 2 = 1
    State.landSome c n fuel t' { s with mem := if landed then t'.mem else s.mem, free := t'.free + 2 }

/-- Whether the write of a stream at an address could be issued (R290): it translates, and lies in the configured window. -/
def State.writable (s : State) (c : CellId) (va n : Nat) : Bool :=
  let r := s.translate { agent := .stream c, va, write := true }
  match r.2 with
  | .phys p =>
    match region p.pa with
    | .window w off => (match r.1.winCheck w off n with
      | .ok () => true
      | _ => false)
    | _ => true
  | _ => false

/-- The destination addresses and lengths of up to `fuel` granules of an SXGO transfer from its position on, as far as their
writes could be issued (R290, R297): up to the first that does not translate, read, convert or write. -/
def State.destGranules (s : State) (c : CellId) (stop : Nat) : Nat → Transfer → List (Nat × Nat)
  | 0, _ => []
  | fuel + 1, t =>
    if stop ≤ t.row then []
    else
      let g := granuleAt t.desc.toNat t.row t.elt
      let q := afterGranule t.desc.toNat t.row t.elt
      let n := g.n * streamSize (t.f 127 124)
      match s.sxRead c t g with
      | .ok _ bs =>
        if (anyBad bs && t.computes) || (s.cell c).trapped (sxConvert (s.cell c) t g bs).2 ≠ 0 || !s.writable c g.da n then []
        else (g.da, n) :: State.destGranules s c stop fuel { t with row := q.1, elt := q.2 }
      | _ => []

/-- The writes of the next k granules of a transfer that go to general space and reduce nothing, as far as they could be
issued. -/
def State.writes (s : State) (c : CellId) (t : Transfer) (k : Nat) : List (Nat × Nat) :=
  if t.implicit then (runPieces k t.runs).takeWhile (fun w => s.writable c w.1 w.2)
  else if t.f 123 121 = 2 && t.f 479 478 = 0 then s.destGranules c (t.rowStop t.row) k t
  else []

/-- Whether a write of a stream at an address goes past the Hirrium: to uncacheable HBM or to host memory (R306). -/
def State.beyond (s : State) (c : CellId) (va : Nat) : Bool :=
  match (s.translate { agent := .stream c, va, write := true }).2 with
  | .phys p => !p.cacheable && match region p.pa with
    | .hbm => true
    | .host _ => true
    | _ => false
  | _ => false

/-- The smallest range that holds some writes: its base and length, 0 where there are none. -/
def coverRange : List (Nat × Nat) → Nat × Nat
  | [] => (0, 0)
  | w :: ws =>
    let r := coverRange ws
    if r.2 = 0 then w
    else
      let lo := min w.1 r.1
      (lo, max (w.1 + w.2) (r.1 + r.2) - lo)

/-- A transfer with k micro-transfers across the floor halts with reason 4 (R306): those are aborted, some of the writes
that it had issued may have landed, and the range of those past the Hirrium is captured (log entry 7). -/
def State.haltCrossing (s : State) (c : CellId) (n : Fin 6) (t : Transfer) (k : Nat) : State :=
  let j := Config.inFlight s.free % (k + 1)
  let s := s.draw
  let r := coverRange ((s.writes c t j).filter (fun w => s.beyond c w.1))
  let s := if r.2 = 0 then s else State.landSome c n j s s
  let s := (s.countC c CR.SX_UTX_REISSUE_CNT k).failSlot c n 4 0 0
  s.modCell c (fun x => match x.slot n with
    | some u => x.setSlot n (some { u with indBase := r.1, indLen := r.2 })
    | none => x)

/-- Whether a transfer uses general space on either side: an implicit one writes to it. -/
def Transfer.general (t : Transfer) : Bool := t.implicit || t.f 59 57 = 2 || t.f 123 121 = 2

/-- The transfers of a cell that a floor reset halts (R306): every one that waits for a page, and of those that run through
general space the ones that have a micro-transfer crossing the floor, which timing decides (log entry 7). At most `room`
micro-transfers of the cell are in flight, and at most 16 of one transfer (R290). -/
def State.haltSlots (c : CellId) : List (Fin 6) → Nat → State → State
  | [], _, s => s
  | n :: ns, room, s =>
    match (s.cell c).slot n with
    | none => State.haltSlots c ns room s
    | some t =>
      match t.st with
      | .pageWait _ => State.haltSlots c ns room (s.failSlot c n 4 0 0)
      | .running =>
        if t.general then
          let k := min (min t.left room) (Config.inFlight s.free % 17)
          State.haltSlots c ns (room - k) (if k = 0 then s.draw else s.draw.haltCrossing c n t k)
        else State.haltSlots c ns room s
      | _ => State.haltSlots c ns room s

/-- The transfers of every cell that a floor reset halts (R306). -/
def State.haltFloor (s : State) : State := allCells.foldl (fun s c => State.haltSlots c (List.finRange 6) 32 s) s

/-- The layers of an open step that are not delivered are delivered with poison and count 0 (R509), once the floor works
again and the layer table can be read. What is already under way to the Harvest units is not delivered twice. -/
def State.payPoison (s : State) : State :=
  if !s.hv.poisonOwed || s.floorBusy then s
  else if s.hvState ≠ 1 then { s with hv := { s.hv with poisonOwed := false } }
  else match s.validLayers with
    | .ok s ls =>
      let rest := ls.filter (fun l => (s.deliveryOf l).isNone && !s.ce.deliver.any (fun d => d.1 == l))
      State.pumpDeliver { s with
        hv := { s.hv with poisonOwed := false }
        ce := { s.ce with deliver := s.ce.deliver ++ rest.map (fun l => (l, false, abortWord l)) } }
    | .wait s => s
    | .fail s _ _ => { s with hv := { s.hv with poisonOwed := false } }

/-- Phases 1 to 4 of a floor reset (R508). An open step owes its remaining layers a delivery with poison. -/
def State.floorClear (s : State) : State :=
  let s := s.flushHost
  let s := s.noticeAll
  let s := { s with ce := { s.ce with armed := [], waitQ := [], held := [], mine := none } }
  let s := s.drainFloor.haltFloor
  let h := s.hs
  let s := State.clearHi { s with hs := { h.sentOnly with hdm := h.hdm } }
  let s := s.refuseAll
  let s := { s with
    hv := { s.hv with poisonOwed := s.hv.poisonOwed || s.hvState == 1 }
    mem := { s.mem with tlb := [], ats := [], atsWait := [], priWait := [], priFail := [] }, fl := { wire := s.fl.wire } }
  let s := s.setFreg FR.TR_STATUS 0
  let s := s.setFreg FR.FL_BOOT_EPOCH ((s.freg FR.FL_BOOT_EPOCH + 1) % 2 ^ 32)
  (List.range 18).foldl (fun s p => s.setFreg (FR.FL_P_STATUS p) 0) s

end Sys2Proof.Machine
end

