-- ==== Sys2Proof/Machine/Power.lean ====
section
/-! DEFINITION. Power, clocks and sleep: the power controller's interval, its estimate, measurement, phases and cap
loop (R447 to R461), cell and stack states (R438 to R446), droop (R457), and calibration in service (R479). -/

namespace Sys2Proof.Machine

/-! ### Sensors (R458 to R460) -/

/-- The reading of on-die sensor i, in 1/16 °C. -/
def State.tempOf (s : State) (i : Nat) : Int := sgn 16 (s.freg (FR.PWR_TEMP i))

/-- The reading of stack i, in 1/16 °C. -/
def State.hbmTempOf (s : State) (i : Nat) : Int := sgn 16 (s.freg (FR.PWR_HBM_TEMP i))

/-- The on-die sensors that the cross-check has not excluded (R479). -/
def State.sensors (s : State) : List Nat := (List.range 64).filter (fun i => !NSet.has s.pw.excluded i)

/-- Readings written to a row of registers; a register with no new reading keeps its own. -/
def State.putTemps (s : State) (reg : Nat → Nat) (n : Nat) (l : List Int) : State :=
  (List.range n).foldl (fun (s : State) i =>
    match l[i]? with
    | some t => s.setFreg (reg i) (wrap 16 t)
    | none => s) s

/-- The hottest of some sensors, the first of equals. -/
def State.hottest (s : State) : List Nat → Option Nat
  | [] => none
  | i :: l =>
    match State.hottest s l with
    | some j => if s.tempOf i < s.tempOf j then some j else some i
    | none => some i

/-- PWR_THERM (R463). -/
def State.putTherm (s : State) : State :=
  match s.hottest s.sensors with
  | some i => s.setFreg FR.PWR_THERM (i * 2 ^ 16 + wrap 16 (s.tempOf i))
  | none => s

/-- What trips (R459): an on-die sensor at 115 °C, by its index, or a stack at 105 °C, by 64 plus its number, with
the reading. -/
def State.tripCause (s : State) : Option (Nat × Int) :=
  match s.sensors.find? (fun i => decide (115 * 16 ≤ s.tempOf i)) with
  | some i => some (i, s.tempOf i)
  | none =>
    match (List.range 20).find? (fun i => decide (105 * 16 ≤ s.hbmTempOf i)) with
    | some i => some (64 + i, s.hbmTempOf i)
    | none => none

/-- A thermal trip (R460): latched, the main domain off, and a record of the fatal class. -/
def State.tripNow (s : State) (cause : Nat × Int) : State :=
  let s := (State.mainLost { s with dev := { s.dev with trip := true } }).orFreg FR.PWR_STATUS 64
  s.logEvent 0x0704 cause.1 4 0 (wrap 64 cause.2) 0

/-- The sensors read (R458), and what follows from them in every state of the device (R459, R460). -/
def State.readSensors (s : State) (i : IntervalIn) : State :=
  let s := ((s.putTemps FR.PWR_TEMP 64 i.temps).putTemps FR.PWR_HBM_TEMP 20 i.hbmTemps).putTherm
  if s.dev.trip then s
  else match s.tripCause with
    | some c => s.tripNow c
    | none => s

/-- a_1: the mean compute-die temperature above 25 °C in 1/16 °C, over the sensors in use; 0 below it (R448). -/
def State.meanRise (s : State) : Rat :=
  let l := s.sensors.filter (fun i => decide (i < 32))
  let sum := l.foldl (fun (a : Int) i => a + s.tempOf i) 0
  max 0 ((sum : Rat) / (l.length : Rat) - 400)

/-! ### Estimate (R447, R448, R450) -/

/-- L (R447). -/
def State.capOf (s : State) : Nat :=
  min (min (s.freg FR.PWR_CAP_W) (s.freg FR.PWR_HOST_CAP_W)) (s.freg FR.PWR_ENV_W)

/-- (V / V_max)² at a frequency (R448, R454). -/
def vRatio (f : Nat) : Rat :=
  let v : Rat := (Config.voltage f : Rat) / (Config.voltage 2500 : Rat)
  v * v

/-- A ctlQuotient of the controller (log entry 20 where the divisor is 0). -/
def ctlQuotient (a b : Rat) (draw : Nat) : Rat := if b = 0 then Config.zeroQuotient draw else a / b

/-- A quantity as its register shows it (log entry 21 where it is no integer). -/
def shown (x : Rat) : Nat := if x.den = 1 then x.num.toNat else Config.roundReg x

/-- Terms i of the estimate summed, before the factor for losses (R448). -/
def State.terms (s : State) (acts : List Nat) (l : List Nat) : Rat :=
  l.foldl (fun (a : Rat) i =>
    a + s.pw.weights.getD i 0 * ((acts.getD (i - 2) 0 : Nat) : Rat) * 5 / 10000000000) 0

/-- E and P_fix of an interval (R448, R453). -/
def State.estimate (s : State) (acts : List Nat) : Rat × Rat :=
  let base := (s.pw.weights.getD 0 0 + s.pw.weights.getD 1 0 * s.meanRise) / 1000
  let fixed := base + s.terms acts (List.range' 10 6)
  (106 / 100 * (fixed + vRatio s.pw.vFor * s.terms acts (List.range' 2 8)), 106 / 100 * fixed)

/-- P (R450). -/
def State.controlled (s : State) (e : Rat) : Rat :=
  let st := s.freg FR.PWR_STATUS
  if bitB st 4 then 5 / 4 * e
  else if bitB st 2 then
    match s.pw.meas with
    | some m => 11 / 10 * (m.1 : Rat) * ctlQuotient e m.2 s.free
    | none => e
  else e

/-- ENERGY_UJ advances (R461): by the 48 V energy of a window of 50 µs, and by what VSTBY has given (log entry 223). -/
def State.advanceEnergy (s : State) (uj : Nat) : State :=
  (s.count FR.ENERGY_UJ (uj + Config.vstbyEnergy s.free)).draw

/-- The end of a window of 25 intervals that brought no measurement (R449, R450, R461). -/
def State.closeWindow (s : State) : State :=
  let p := s.pw
  let s := s.advanceEnergy (if bitB (s.freg FR.PWR_STATUS) 4 then shown p.winP else 0)
  { s with pw := { p with winN := 0, winSum := 0, winA1 := 0, winP := 0, missed := p.missed + 1 } }

/-! ### Phases (R452 to R454) -/

/-- The ids that AWAKE and DOZE cells hold, the current or the announced (R187, R452). -/
def State.phaseIds (s : State) (announced : Bool) : List Nat :=
  (allCells.filter (fun c => (s.cell c).cp.st == .awake || (s.cell c).cp.st == .doze)).map (fun c =>
    let r := (s.cell c).reg CR.SQ_PHASE
    if announced then bits r 31 16 else bits r 15 0)

/-- The id that most hold; a tie goes to the lowest, and none held is 0 (R452). -/
def mostHeld (l : List Nat) : Nat :=
  l.foldl (fun b i =>
    if l.count b < l.count i || (l.count b == l.count i && i < b) then i else b) (l.headD 0)

/-- The valid entry of a phase id (R453). -/
def PwrState.entry (p : PwrState) (id : Nat) : Option (Nat × Rat × Nat) :=
  match p.pht.find? (fun e => e.1 == id % 256) with
  | some e => if e.2.1 = id then some e.2 else none
  | none => none

/-- A phase's mean energy per cycle x, in 1/16 nJ, taken into its entry (R453). -/
def PwrState.learn (p : PwrState) (id : Nat) (x : Rat) : PwrState :=
  let e : Nat × Rat × Nat := match p.entry id with
    | some e => (id, e.2.1 + (x - e.2.1) / 8, min 65535 (e.2.2 + 1))
    | none => (id, x, 1)
  { p with pht := SMap.insert p.pht (id % 256) e }

/-- PWR_PHTj (R463). -/
def State.phtView (s : State) (j : Nat) : Nat :=
  match s.pw.pht.find? (fun e => e.1 == j) with
  | some e => 2 ^ 63 + e.2.1 % 65536 * 2 ^ 32 + min 65535 (shown e.2.2.1) * 2 ^ 16 + e.2.2.2
  | none => 0

/-- The die phases evaluated (R452, R453): a phase that has ended after 4 µs is learnt, and the interval's energy
per cycle is added to the present one, in 1/16 nJ. -/
def State.evalPhase (s : State) : State :=
  let old := bits (s.freg FR.PWR_PHASE) 15 0
  let new := mostHeld (s.phaseIds false)
  let p := s.pw
  let p := if new = old then p else
    let p := if old ≠ 0 && decide (p.phSince + 4 ≤ s.timeUs) && p.phN != 0 then
        p.learn old (p.phSum / (p.phN : Rat))
      else p
    { p with phSince := s.timeUs, phN := 0, phSum := 0 }
  let p := { p with phN := p.phN + 1, phSum := p.phSum + 16000 * (p.ctl - p.fixed) / (p.f : Rat) }
  State.setFreg { s with pw := p } FR.PWR_PHASE (mostHeld (s.phaseIds true) * 65536 + new)

/-- PWR_CTRL.fmax in MHz. -/
def State.fmax (s : State) : Nat := 25 * bits (s.freg FR.PWR_CTRL) 14 8

/-- The target of a phase id under limit L (R454): the highest frequency that satisfies it, and the lowest there is
where none does (log entry 20). -/
def State.phaseTarget (s : State) (id : Nat) : Nat :=
  if !bitB (s.freg FR.PWR_CTRL) 3 || id = 0 then s.fmax
  else match s.pw.entry id with
    | none => s.fmax
    | some e => (List.range 100).foldl (fun (best : Nat) k =>
        let f : Nat := 25 * (k + 1)
        if s.pw.fixed + e.2.1 * (f : Rat) / 16000 * vRatio f ≤ ((s.freg FR.PWR_LIMIT_W : Nat) : Rat) then f
        else best) 25

/-- The frequency for which an announcement raises the voltage (R454); 0 where it does not. -/
def State.announcedTarget (s : State) : Nat :=
  let r := s.freg FR.PWR_PHASE
  let id := bits r 31 16
  if !bitB (s.freg FR.PWR_CTRL) 3 || id = 0 || (s.pw.entry id).isNone then 0
  else if s.phaseTarget (bits r 15 0) < s.phaseTarget id then min s.fmax (s.phaseTarget id) else 0

/-! ### The cap loop (R455) and temperature (R459) -/

/-- One step down at the present level, or the next level entered. -/
def PwrState.stepDown (p : PwrState) : PwrState :=
  match p.level with
  | 0 => if 25 < p.fCap then { p with fCap := max 25 (p.fCap - 100) } else { p with level := 1 }
  | 1 => if p.halvings < 4 then { p with halvings := p.halvings + 1 } else { p with level := 2 }
  | _ => { p with floorClk := max 500 (p.floorClk - 250) }

/-- One step up at the present level, or back to the level before. -/
def PwrState.stepUp (p : PwrState) : PwrState :=
  match p.level with
  | 0 => { p with fCap := min 2500 (p.fCap + 25) }
  | 1 => if 0 < p.halvings then { p with halvings := p.halvings - 1 } else { p with level := 0 }
  | _ => if p.floorClk < 2000 then { p with floorClk := min 2000 (p.floorClk + 250) } else { p with level := 1 }

/-- The cap loop's action of an interval (R455). -/
def PwrState.capStep (p : PwrState) (limit : Rat) : PwrState :=
  if limit < p.ctl then p.stepDown
  else if p.ctl ≤ 95 / 100 * limit then p.stepUp
  else p

/-- The response to the hottest on-die sensor (R459), which lasts from the threshold until 3 °C below it. -/
def PwrState.thermStep (p : PwrState) (hot : Int) (throt : Int) : PwrState :=
  if throt ≤ hot || (p.throt && throt - 48 ≤ hot) then
    { p with throt := true, fTherm := max 25 (p.fTherm - 100), thermWait := 0 }
  else if p.fTherm < 2500 then
    if 49 ≤ p.thermWait then { p with throt := false, fTherm := min 2500 (p.fTherm + 25), thermWait := 0 }
    else { p with throt := false, thermWait := p.thermWait + 1 }
  else { p with throt := false, thermWait := 0 }

/-- The responses to the temperatures of the stacks (R253, R459). -/
def State.stackTherm (s : State) : State :=
  let is := List.range 20
  let p := s.pw
  { s with pw := { p with
    hot := is.filter (fun i => decide (85 * 16 < s.hbmTempOf i))
    halved := is.filter (fun i => decide (95 * 16 ≤ s.hbmTempOf i) ||
      (NSet.has p.halved i && decide (92 * 16 ≤ s.hbmTempOf i))) } }

/-- Every running instance is slowed (R400): each counts once. -/
def State.slowInstances (s : State) : State := allSlots.foldl (fun (s : State) k => s.slowInst k) s

/-- What the level shows (R455, R463). -/
def State.showLevel (s : State) : State :=
  let p := s.pw
  let st := s.freg FR.PWR_STATUS
  let st := putBits st 11 7 (b2n (!p.halved.isEmpty) + 2 * b2n p.throt + 4 * b2n (p.level == 2) + 8 * p.level)
  let s := s.setFreg FR.PWR_STATUS st
  let s := if p.throt then s.count FR.PWR_THROT_INT_CNT else s
  let s := if p.level = 2 then s.count FR.PWR_FLOOR_CUT_CNT else s
  if !s.dev.mainOn then s
  else
  let s := if p.level = 2 then State.slowInstances (s.orFreg FR.CE_STATUS 16) else s.clrFreg FR.CE_STATUS 16
  if p.halvings = 0 then s
  else allCells.foldl (fun s c =>
    if (List.finRange 6).any (fun n => match (s.cell c).slot n with
        | some t => t.st == .running
        | none => false) then s.stall c CR.SX_STALL_PWR_CNT else s) s

/-! ### The compute point (R441) -/

/-- PWR_POINT shows what is in force. -/
def State.showPoint (s : State) : State :=
  s.setFreg FR.PWR_POINT (Config.voltage s.pw.vFor % 65536 * 65536 + s.pw.f)

/-- A compute point chosen: a lower frequency at once and the voltage behind it, a higher one once the voltage is
there. `ahead` is the frequency for which the voltage is raised beforehand. -/
def State.choosePoint (s : State) (want ahead : Nat) : State :=
  let p := s.pw
  let v := max want ahead
  let p := if p.vFor < v then { p with ramp := some v } else { p with ramp := none, vFor := v }
  State.showPoint { s with pw := { p with want := want, f := if want ≤ p.vFor then want else min p.f want } }

/-- PWR_STATUS.dev_state (R438). -/
def State.devState (s : State) : Nat :=
  if !s.dev.ready || !s.dev.mainOn || s.dev.trip then 1 else if s.allQuiet then 2 else 3

/-- The frequency of an interval (R440, R455): REFCLK while the compute PLL has not locked. Nothing is clocked in VIGIL. -/
def State.setFrequency (s : State) : State :=
  let fp := s.phaseTarget (bits (s.freg FR.PWR_PHASE) 15 0)
  let s := if s.pw.fCap < fp then s.count FR.PWR_CAP_INT_CNT else s
  if !s.dev.ready || !s.dev.mainOn then s
  else if s.pllAt != some 0 then s.choosePoint 100 0
  else s.choosePoint (min (min fp s.pw.fCap) (min s.pw.fTherm s.fmax)) s.announcedTarget

/-- An interval of the controller, which runs in the Vigil domain (R447). -/
def State.controlStep (s : State) (acts : List Nat) : State :=
  let s := s.setFreg FR.PWR_LIMIT_W s.capOf
  let s := if 25 ≤ s.pw.winN then s.closeWindow else s
  let e := s.estimate acts
  let ctl := s.controlled e.1
  let p := s.pw
  let s : State := { s with
    pw := { p with est := e.1, fixed := e.2, ctl := ctl, winN := p.winN + 1, winSum := p.winSum + e.1,
                   winA1 := p.winA1 + s.meanRise, winP := p.winP + 2 * ctl }
    free := s.free + 1 }
  let s := s.setFreg FR.PWR_EST_W (shown e.1 % 65536)
  let s := s.evalPhase
  let hot : Int := match s.hottest s.sensors with
    | some i => s.tempOf i
    | none => 0
  let limit : Rat := ((s.freg FR.PWR_LIMIT_W : Nat) : Rat)
  let s : State := { s with
    pw := (s.pw.capStep limit).thermStep hot (16 * bits (s.freg FR.PWR_THERM_CFG) 7 0) }
  s.stackTherm.showLevel.setFrequency

/-! ### Measurement (R449 to R451, R461) -/

/-- Weight i after a refit (R451). -/
def refit (i : Nat) (w q : Rat) : Rat :=
  let d : Rat := (Config.fusedWeight i : Rat)
  max (d / 4) (min (4 * d) (w * (1 + q)))

/-- The refit of a measurement M with mean estimate Ē and mean a_1 (R451). The first since a reset is shown (log entry
224). -/
def State.refitAll (s : State) (m e a1 : Rat) : State :=
  let w := s.pw.weights
  let ed := e - 106 / 100 * (w.getD 0 0 + w.getD 1 0 * a1) / 1000
  let q := ctlQuotient (m - e) (8 * ed) s.free
  let w' := (List.range 16).map (fun i => if i < 2 then w.getD i 0 else refit i (w.getD i 0) q)
  let s : State := { s with pw := { s.pw with weights := w' }, free := s.free + 1 }
  let s := (List.range' 2 14).foldl (fun (s : State) i =>
    s.setFreg (FR.PWR_WT i) (shown (w'.getD i 0) % 2 ^ 32)) s
  if s.pw.refitted then s
  else State.orFreg { s with pw := { s.pw with refitted := true } } FR.PWR_STATUS 8

/-- Agreement counted, and ESTIMATE_SUSPECT entered or left (R449). -/
def State.judge (s : State) (watts : Nat) (e : Rat) : State :=
  let m : Rat := (watts : Rat)
  let d := if e ≤ m then m - e else e - m
  let p := s.pw
  if d ≤ 12 / 100 * ((s.freg FR.PWR_LIMIT_W : Nat) : Rat) then
    let s : State := { s with pw := { p with agree := p.agree + 1, disagree := 0 } }
    if 64 ≤ p.agree + 1 then s.clrFreg FR.PWR_STATUS 4 else s
  else
    let s : State := { s with pw := { p with agree := 0, disagree := p.disagree + 1 } }
    if 8 ≤ p.disagree + 1 && !bitB (s.freg FR.PWR_STATUS) 2 then
      ((s.orFreg FR.PWR_STATUS 4).count FR.PWR_SUSPECT_CNT).logEvent 0x0702 0 0 0 (shown e) watts
    else s

/-- POWER_MEASUREMENT (R449, R451, R461): the 48 V stage reports `watts`, and `uj` µJ drawn since its last report. -/
def execPowerMeasurement (watts uj : Nat) (s : State) : Out :=
  if !s.dev.stbyPg then .next s
  else
    let p := s.pw
    let n : Rat := (p.winN : Rat)
    let e := if p.winN = 0 then p.est else p.winSum / n
    let a1 := if p.winN = 0 then s.meanRise else p.winA1 / n
    let suspect := bitB (s.freg FR.PWR_STATUS) 2
    let s := ((s.setFreg FR.PWR_MEAS_W (watts % 65536)).advanceEnergy uj).clrFreg FR.PWR_STATUS 16
    let s : State := { s with pw := { p with
      winN := 0, winSum := 0, winA1 := 0, winP := 0, missed := 0, meas := some (watts, e) } }
    let s := if suspect then s.refitAll watts e a1 else s
    .next (s.judge watts e)

/-- MEASUREMENT_LOST (R450): 8 windows in a row have brought nothing valid. -/
def execMeasurementLost (s : State) : Out :=
  if 8 ≤ s.pw.missed && !bitB (s.freg FR.PWR_STATUS) 4 then
    .next ((s.orFreg FR.PWR_STATUS 16).logEvent 0x0703 0 0 0 0 0)
  else .next s

/-- VOLTAGE_RAMP_DONE (R441): the raised voltage is reached, and the frequency chosen steps up. -/
def execVoltageRampDone (s : State) : Out :=
  match s.pw.ramp with
  | none => .next s
  | some v =>
    let p := s.pw
    .next (State.showPoint { s with pw := { p with
      vFor := v, ramp := none, f := if p.want ≤ v then p.want else p.f } })

/-! ### Droop (R457) -/

/-- DROOP_TRIP (R457): the cell's clock is stretched. -/
def execDroopTrip (c : CellId) (s : State) : Out :=
  let x := s.cell c
  if !s.dev.mainOn || x.cp.stretched then .next s
  else .next (s.setCell c { (x.count CR.CP_DROOP_CNT) with cp := { x.cp with stretched := true } })

/-- DROOP_END (R457): the stretch, of at least 16 cycles, ends (log entry 3). -/
def execDroopEnd (c : CellId) (s : State) : Out :=
  let x := s.cell c
  if !x.cp.stretched then .next s
  else
    let x := x.count CR.CP_STRETCH_CNT (16 + Config.stallCycles s.free)
    .next (s.setCell c { x with cp := { x.cp with stretched := false } }).draw

/-! ### Cell states (R442 to R445) -/

/-- A cell may enter DOZE (R443): its sequencer is halted or waits at a yield point, every queue is empty, and every
engine idle. -/
def Cell.dozeReady (x : Cell) : Bool :=
  x.cp.st == .awake && bits (x.reg CR.CP_CTRL) 31 16 != 0 && x.yieldPoint &&
    x.window.all (fun e => !e.ins.op.tensor) && (List.finRange 6).all (fun n => (x.slot n).isNone) &&
    !x.mx.selftest && !x.lent

/-- DOZE_ENTRY (R443). -/
def execDozeEntry (c : CellId) (s : State) : Out :=
  if (s.cell c).dozeReady then
    .next (s.modCell c (fun x => { x with cp := { x.cp with st := .doze } }))
  else .next s

/-- DOZE_WAKE (R443): the cell's sequencer has an instruction that is ready to dispatch. Every other cause wakes the cell
where it arises (log entry 43). -/
def execDozeWake (c : CellId) (s : State) : Out :=
  let x := s.cell c
  if x.cp.st == .doze && x.mode == .running && !x.yieldPoint then .next ((s.endDoze c).pump c) else .next s

/-- What a cell that has just become AWAKE does (R282, R443, R507): its reset if one waits, otherwise the posts held
for it arrive, and a start that woke it begins execution. -/
def State.awoken (s : State) (c : CellId) : State :=
  let x := s.cell c
  let s := s.setCell c { (x.count CR.CP_WAKE_CNT) with
    cp := { x.cp with st := .awake, admitWait := false, held := [], goal := {} } }
  if x.cp.goal.reset then s.resetNow c
  else
    let s := x.cp.held.foldl (fun (s : State) h => s.post c h.sem h.n) s
    if x.cp.goal.start then s.startCell c else s

/-- CELL_WAKE_DONE (R443). -/
def execCellWakeDone (c : CellId) (s : State) : Out :=
  match (s.cell c).cp.st with
  | .waking => .next (s.awoken c).goOn
  | .awake | .doze | .asleep => .next s

/-- PWR_WAKEk (R443, R444): the cells of the mask are woken in ascending order. -/
def State.wakeMask (s : State) (k v : Nat) : State :=
  (List.range 64).foldl (fun (s : State) n => if bitB v n then s.requestWake (cellNo (64 * k + n)) else s) s

/-- A µs of the compute PLL's lock passes (R440). -/
def State.tickPll (s : State) : Option Nat := s.pllAt.map (· - 1)

/-- WAKE_ADMISSION (R440, R444): 1 µs has passed since the last wake began (log entry 87), and requests are admitted in the
order of their arrival up to each limit, those of cells once the compute PLL has locked. -/
def execWakeAdmission (s : State) : Out :=
  let p := { s.pw with pll := s.tickPll }
  let cs := if p.pll == some 0 then p.cellQ.take s.cellMax else []
  let hs := p.hbmQ.take s.hbmMax
  let s : State := { s with pw := { p with
    cellQ := p.cellQ.drop cs.length, hbmQ := p.hbmQ.drop hs.length, cellN := cs.length, hbmN := hs.length
    srExit := p.srExit ++ hs } }
  .next (cs.foldl State.beginWake s)

/-! ### Self-refresh (R446) -/

/-- A stack's controller is idle: no line of its addresses is being fetched or written back. -/
def State.stackIdle (s : State) (i : Nat) : Bool :=
  s.mem.miss.all (fun m => s.stackOf (m.2.line * 256) != i) &&
    s.mem.lines.all (fun l => !l.2.leaving || s.stackOf (l.1 * 256) != i)

/-- Stack i enters self-refresh. -/
def State.enterSr (s : State) (i : Nat) : State :=
  State.stopPll { s with
    pw := { s.pw with sr := s.pw.sr ||| BitVec.ofNat 20 (2 ^ i), srWant := s.pw.srWant.filter (·.val != i) } }

/-- PWR_HBM_SR (R446): each stack named enters self-refresh when it is idle. -/
def State.requestSr (s : State) (v : Nat) : State :=
  (List.range 20).foldl (fun (s : State) i =>
    if !bitB v i || s.stackSr i then s
    else if s.stackIdle i && !s.pw.srExit.contains (stackNo i) then s.enterSr i
    else if s.pw.srWant.contains (stackNo i) then s
    else { s with pw := { s.pw with srWant := s.pw.srWant ++ [stackNo i] } }) s

/-- HBM_IDLE_SELF_REFRESH (R446): the stack has been idle for hbm_idle µs, or it has become idle after a request. -/
def execHbmIdleSelfRefresh (i : Fin 20) (s : State) : Out :=
  let asked := s.pw.srWant.contains i || bits (s.freg FR.PWR_WAKE_CFG) 31 16 != 0
  if s.dev.mainOn && asked && !s.stackSr i.val && s.stackIdle i.val then .next (s.enterSr i.val) else .next s

/-- HBM_SR_EXIT_DONE (R446): the stack leaves self-refresh, and the accesses that wait for it go on. Through a floor reset
the stacks stay in self-refresh (R508). -/
def execHbmSrExitDone (i : Fin 20) (s : State) : Out :=
  if s.pw.srExit.contains i && !s.floorBusy then
    let p := s.pw
    let s : State := { s with pw := { p with
      sr := p.sr &&& ~~~(BitVec.ofNat 20 (2 ^ i.val)), srExit := p.srExit.filter (· != i) } }
    .next (s.count FR.PWR_HBM_SR_EXIT_CNT).goOn
  else .next s

/-! ### Calibration in service (R479) -/

/-- RAIL_CHECK (R479): the rails outside their tolerance and the sensors that differ from their neighbours, each with
its deviation; such a sensor is excluded. -/
def execRailCheck (rails sensors : List (Nat × Int)) (s : State) : Out :=
  if !s.dev.mainOn then .next s
  else
    let note (s : State) (r : Nat × Int) : State := s.logEvent 0x0803 r.1 1 0 (wrap 64 r.2) 0
    let s := rails.foldl note s
    .next (sensors.foldl (fun (s : State) r =>
      note { s with pw := { s.pw with excluded := s.pw.excluded.add r.1 } } r) s)

/-- PLL_LOCK_LOSS (R479, R497). -/
def execPllLockLoss (s : State) : Out :=
  if s.dev.mainOn then .next (s.fatalError Config.pllFatal.1 Config.pllFatal.2) else .next s

/-- The sensor of a cell's band that is nearer to the cell (R458). -/
def bandSensor (c : CellId) : Nat := 2 * (c.val / 16) + c.val % 16 / 8

/-- DROOP_RECALIBRATE (R479): during DOZE or ASLEEP, once the band sensor has moved 20 °C. -/
def execDroopRecalibrate (c : CellId) (s : State) : Out :=
  let x := s.cell c
  let t := s.tempOf (bandSensor c)
  let resting := match x.cp.st with
    | .doze | .asleep => true
    | .awake | .waking => false
  if s.dev.mainOn && resting && decide (320 ≤ (t - x.cp.calTemp).natAbs) then
    .next (s.setCell c { x with cp := { x.cp with calTemp := t } })
  else .next s

/-- HBM_RETRAIN (R479): a stall of one stack, which changes timing alone. -/
def execHbmRetrain (_ : Fin 20) (s : State) : Out := .next s

/-! ### Output pins (R530) -/

/-- A level that an output pin takes (R511): the device's own, a bit of the preloaded boundary register under EXTEST and
CLAMP, and none, which is high-impedance, under HIGHZ. Pins are numbered as in log entry 222. -/
def State.driven (s : State) (pin : Nat) (own : Option Bool) : Option Bool :=
  if s.dev.jtag.ir = 0x00 || s.dev.jtag.ir = 0x04 then some (bitB s.dev.jtag.preload (Config.boundaryPlace pin))
  else if s.dev.jtag.ir = 0x05 then none
  else own

/-- DEV_READY as the device forms it: READY or RUN, and no floor reset. -/
def State.isReady (s : State) : Bool := s.devState != 1 && !s.floorBusy

/-- THERMTRIP_N as the device forms it: none in OFF, where it is high-impedance. -/
def State.tripLevel (s : State) : Option Bool := if s.dev.stbyPg then some (!s.dev.trip) else none

/-- DEV_READY. -/
def State.devReady (s : State) : Option Bool := s.driven 0 (some s.isReady)

/-- THERMTRIP_N. -/
def State.thermtripN (s : State) : Option Bool := s.driven 1 s.tripLevel

end Sys2Proof.Machine
end

