-- ==== Sys2Proof/Machine/Firmware.lean ====
section
/-! DEFINITION. Firmware images and their verification (R474 to R478, R484 to R486), measurements and the log
signature (R492, R493), and the views of the system block (R494, R495). -/

namespace Sys2Proof.Machine

/-! ### Images (R475 to R477) -/

/-- A byte of flash when nothing is listed for it: erased (R475). -/
def ffByte : Nat → Byte := fun _ => 0xFF

/-- n bytes of the flash. -/
def FwState.flashRead (w : FwState) (a n : Nat) : List Byte := SMap.getRange ffByte w.flash a n

/-- Bytes written to the flash. -/
def FwState.flashWrite (w : FwState) (a : Nat) (bs : List Byte) : FwState :=
  { w with flash := SMap.setRange ffByte w.flash a bs }

/-- The header of an image (R476). -/
abbrev Header := List Byte

/-- svn. -/
def Header.svn (h : Header) : Nat := fieldAt h 8 4
/-- build. -/
def Header.build (h : Header) : Nat := fieldAt h 12 4
/-- body_len. -/
def Header.bodyLen (h : Header) : Nat := fieldAt h 16 4
/-- load. -/
def Header.load (h : Header) : Nat := fieldAt h 20 4
/-- The 256 bytes that the signatures cover, header bits [2047:0]. -/
def Header.signed (h : Header) : List Byte := h.take 256

/-- The greatest body of a type (R476). -/
def maxBody (ty : Nat) : Nat := if ty = 1 then 65536 else if ty = 2 then 4194304 else 61440

/-- Whether a header has the layout of an image of type ty: its constants, its zero bits, and a body that fits where it
goes (R476). -/
def Header.formed (h : Header) (ty : Nat) : Bool :=
  h.length == 4096 && fieldAt h 0 4 == 0x47524C45 && fieldAt h 4 2 == 1 && fieldAt h 6 1 == ty &&
    zeroAt h 28 4 && zeroAt h 232 24 && zeroAt h 3020 1076 && decide (Header.bodyLen h ≤ maxBody ty) &&
    (if ty = 2 then decide (Header.load h + Header.bodyLen h ≤ 4194304) && decide (fieldAt h 24 4 < 4194304)
     else zeroAt h 20 8)

/-- The key slots accepted in a lifecycle state (R487). -/
def keyAllowed (lc k : Nat) : Bool :=
  match lc with
  | 0 => k == 3
  | 1 | 3 => decide (k ≤ 3)
  | 2 => decide (k ≤ 2)
  | _ => false

/-- The floor of a type (R486). -/
def Otp.floor (o : Otp) (ty : Nat) : Nat :=
  if ty = 1 then o.floors.1 else if ty = 2 then o.floors.2.1 else o.floors.2.2

/-- Every check of R477 but that of svn. -/
def Otp.genuine (o : Otp) (ty : Nat) (h : Header) (body : List Byte) : Bool :=
  let k := fieldAt h 7 1
  let ecdsa := (h.drop 80).take 96
  let lms := (h.drop 176).take 56
  Header.formed h ty && decide (body.length = Header.bodyLen h) && decide (k < 4) && keyAllowed o.lc k &&
    !o.revoked.getLsbD k &&
    decide (Config.sha384 ecdsa = Config.ecdsaHash k) && decide (Config.sha256 lms = Config.lmsHash k) &&
    decide (Config.sha384 body = (h.drop 32).take 48) &&
    Config.ecdsaOk ecdsa (Header.signed h) ((h.drop 256).take 96) &&
    Config.lmsOk lms (Header.signed h) ((h.drop 352).take 2668)

/-- Whether an image verifies (R477). -/
def Otp.verifies (o : Otp) (ty : Nat) (h : Header) (body : List Byte) : Bool :=
  o.genuine ty h body && decide (o.floor ty ≤ Header.svn h)

/-- The header and body of the image at a flash offset; a length that no image has is not followed. -/
def FwState.image (w : FwState) (a : Nat) : Header × List Byte :=
  let h := w.flashRead a 4096
  (h, if Header.bodyLen h ≤ 4194304 then w.flashRead (a + 4096) (Header.bodyLen h) else [])

/-- The flash offset of a patch slot, of the platform record, and of a service slot (R475). -/
def patchOff (b : Bool) : Nat := 0x20000 * b2n b
/-- The flash offset of the platform record (R475). -/
def platformOff : Nat := 0x50000
/-- The flash offset of a service slot (R475). -/
def slotOff (b : Bool) : Nat := 0x1000000 + 0x800000 * b2n b

/-- Whether the image of type ty at a flash offset verifies. A malformed header is not followed to a body. -/
def FwState.good (w : FwState) (ty a : Nat) : Bool :=
  Header.formed (w.flashRead a 4096) ty && w.otp.verifies ty (w.image a).1 (w.image a).2

/-! ### The boot control record (R478) -/

/-- Whether the second copy is the record in use: the only valid one, or the one with the higher sequence number. -/
def FwState.secondCopy (w : FwState) : Bool :=
  match w.copies with
  | (some a, some b) => decide (a.seq < b.seq)
  | (none, some _) => true
  | _ => false

/-- The record in use; where neither copy is valid, its fields read as zero (log entry 228). -/
def FwState.record (w : FwState) : BootRec := ((if w.secondCopy then w.copies.2 else w.copies.1)).getD {}

/-- An update of the record, written to the other copy. -/
def FwState.writeRecord (w : FwState) (r : BootRec) : FwState :=
  let r := { r with seq := w.record.seq + 1 }
  if w.secondCopy then { w with copies := (some r, w.copies.2) } else { w with copies := (w.copies.1, some r) }

/-- The state with firmware changed. -/
def State.modFw (s : State) (f : FwState → FwState) : State := { s with dev := { s.dev with fw := f s.dev.fw } }

/-- A slot given up is recorded (R478, R500). -/
def State.slotFallback (s : State) (b : Bool) : State := s.logEvent 0x0802 (b2n b) 0 0 0 0

/-- Whether a service slot verifies, where the digest of its loaded body has not been found wrong. -/
def State.slotGood (s : State) (bad : List Bool) (b : Bool) : Bool := !bad.contains b && s.dev.fw.good 2 (slotOff b)

/-- The part of the selection that concerns the try slot (R478): the state after it, and whether the try slot boots. -/
def State.tryImage (s : State) (bad : List Bool) : State × Bool :=
  let r := s.dev.fw.record
  if r.tryPending && 0 < r.triesLeft then
    let s := s.modFw (fun w => w.writeRecord { r with triesLeft := r.triesLeft - 1 })
    if s.slotGood bad r.trySlot then (s, true)
    else
      let r := s.dev.fw.record
      ((s.modFw (fun w => w.writeRecord { r with tryPending := false })).slotFallback r.trySlot, false)
  else if r.tryPending then
    ((s.modFw (fun w => w.writeRecord { r with tryPending := false })).slotFallback r.trySlot, false)
  else (s, false)

/-- The selection of the service image (R478). The slot and whether it boots as a try; none where no slot verifies. -/
def State.selectImage (s : State) (bad : List Bool) : State × Option (Bool × Bool) :=
  let q := s.tryImage bad
  let s := q.1
  let r := s.dev.fw.record
  if q.2 then (s, some (r.trySlot, true))
  else if s.slotGood bad r.active then (s, some (r.active, false))
  else if s.slotGood bad (!r.active) then (s.slotFallback r.active, some (!r.active, false))
  else (s, none)

/-- The selection made, as firmware state. -/
def State.chooseImage (s : State) (bad : List Bool) : State :=
  let q := s.selectImage bad
  q.1.modFw (fun w => { w with running := q.2.map (·.1), asTry := (q.2.map (·.2)).getD false })

/-! ### Staged images on their way to the flash (R484) -/

/-- The service slot that does not run (R484). -/
def FwState.idleSlot (w : FwState) : Bool := !(w.running.getD w.record.active)

/-- The patch slot that OTP names (R485). -/
def Otp.patchSlot (o : Otp) : Bool := o.patchBits % 2 == 1

/-- The flash offset to which an image of a type is staged (R484). -/
def FwState.stageOff (w : FwState) (ty : Nat) : Nat :=
  if ty = 1 then patchOff (!w.otp.patchSlot) else if ty = 2 then slotOff w.idleSlot else platformOff

/-- The flash write of a verified image that has begun comes to its end. -/
def State.endStage (s : State) : State :=
  match s.dev.fw.writing with
  | none => s
  | some (ty, img) =>
    s.modFw (fun w => { (w.flashWrite (w.stageOff ty) img) with writing := none, staged := w.staged || ty == 2 })

/-- A flash write that is interrupted leaves its slot invalid (R484): what it holds reads as erased (log entry 227). -/
def FwState.breakOff (w : FwState) : FwState :=
  match w.writing with
  | none => w
  | some (ty, img) =>
    let a := w.stageOff ty
    { w with writing := none, flash := SMap.eraseRange w.flash a (a + img.length) }

/-! ### The platform record and the root patch (R471, R474, R485) -/

/-- The platform record verified (R471): bring-up goes on without it, with record 0x0806, where it cannot be used. -/
def State.readPlatform (s : State) : State :=
  let w := s.dev.fw
  let i := w.image platformOff
  if w.good 3 platformOff then s.modFw (fun w => { w with platform := some i.1, noPlatform := false })
  else
    let why := if fieldAt i.1 0 4 ≠ 0x47524C45 then 0 else if w.otp.genuine 3 i.1 i.2 then 2 else 1
    (s.modFw (fun w => { w with platform := none, noPlatform := true })).logEvent 0x0806 0 0 0 why 0

/-- Step 0x01 (R474, R485): the root patch runs, or is not required; false where it is required and not valid. -/
def State.loadPatch (s : State) : State × Bool :=
  let w := s.dev.fw
  let b := w.otp.patchSlot
  if w.good 1 (patchOff b) then (s.modFw (fun w => { w with patch := some b }), true)
  else
    let s := s.modFw (fun w => { w with patch := none })
    if w.otp.floors.1 = 0 then (s.logEvent 0x0807 (b2n b) 0 0 0 0, true) else (s, false)

/-! ### Measurements (R492, R493) -/

/-- The header of the root patch that runs. -/
def FwState.patchHeader (w : FwState) : Option Header := w.patch.map (fun b => w.flashRead (patchOff b) 4096)

/-- The header of the service image that runs. -/
def FwState.serviceHeader (w : FwState) : Option Header := w.running.map (fun b => w.flashRead (slotOff b) 4096)

/-- The contents of block 5: the lifecycle state and debug_unlocked. -/
def State.modeBlock (s : State) : List Byte :=
  Config.measBlock 5 [BitVec.ofNat 8 s.dev.fw.otp.lc, BitVec.ofNat 8 (bits (s.freg FR.SYS_LC) 7 7)]

/-- The measurement blocks 1 to 6 with their DMTF types, as a bring-up forms them (R492). -/
def State.formBlocks (s : State) : List (Nat × Nat × List Byte) :=
  let w := s.dev.fw
  let o := w.otp
  let patch := match w.patchHeader with
    | some h => Config.sha384 (Header.signed h) ++ leBytes 4 (Header.svn h)
    | none => leBytes 52 0
  let service := match w.serviceHeader with
    | some h => Config.sha384 (Header.signed h) ++ leBytes 4 (Header.svn h) ++ leBytes 1 (b2n (w.running == some true))
    | none => leBytes 53 0
  let platform := match w.platform with
    | some h => Config.sha384 (Header.signed h)
    | none => leBytes 48 0
  [(1, 0, Config.romBlock), (2, 1, Config.measBlock 2 patch), (3, 1, Config.measBlock 3 service),
   (4, 2, Config.measBlock 4 (leBytes 1 o.floors.1 ++ leBytes 1 o.floors.2.1 ++ leBytes 1 o.floors.2.2 ++
     leBytes 1 o.revoked.toNat)),
   (5, 5, s.modeBlock), (6, 3, Config.measBlock 6 platform)]

/-- The root of the measurement log (R492). -/
def logRoot (bs : List (Nat × Nat × List Byte)) : List Byte :=
  bs.foldl (fun (r : List Byte) b => Config.sha384 (r ++ Config.sha384 b.2.2)) (leBytes 48 0)

/-- No LMS leaf remains (R493). -/
def FwState.exhausted (w : FwState) : Bool := w.otp.lmsBlocks == 1024 && 1024 ≤ w.leaf

/-- The leaf of the next signature (R493). -/
def FwState.nextLeaf (w : FwState) : Nat := (w.otp.lmsBlocks - 1) * 1024 + w.leaf

/-- The next block of leaves burnt (R493). -/
def FwState.burnBlock (w : FwState) : FwState :=
  if w.otp.lmsBlocks < 1024 then { w with otp := { w.otp with lmsBlocks := w.otp.lmsBlocks + 1 }, leaf := 0 }
  else { w with leaf := 1024 }

/-- One signature made (R493): the leaf is used up, and with the last of a block the next block is burnt. -/
def FwState.signLog (w : FwState) (chip cnt : Nat) : FwState :=
  if w.exhausted then { w with lmsSig := [] }
  else
    let sig := Config.lmsSign w.nextLeaf (w.root ++ leBytes 4 w.nextLeaf ++ leBytes 8 chip ++ leBytes 8 cnt)
    let w := { w with lmsSig := sig, leaf := w.leaf + 1 }
    if w.leaf = 1024 then w.burnBlock else w

/-- The measurements of a bring-up (R492, R493). -/
def State.measure (s : State) : State :=
  let bs := s.formBlocks
  let root := logRoot bs
  let s := s.modFw (fun w =>
    ({ w with blocks := bs, root := root }).signLog (s.freg FR.FL_CHIP_ID) (s.freg FR.SYS_BOOT_CNT))
  (List.range 6).foldl (fun (s : State) i => s.setFreg (FR.SYS_MEAS_ROOT i) (fieldAt root (8 * i) 8)) s

/-! ### Views (R494, R495) -/

/-- SYS_LC. -/
def State.sysLc (s : State) : Nat := s.dev.fw.otp.lc + 128 * bits (s.freg FR.SYS_LC) 7 7

/-- SYS_FW_STATUS: before an image has been selected, only what the records and the patch say. -/
def State.fwStatus (s : State) : Nat :=
  let w := s.dev.fw
  let r := w.record
  let running := w.running.getD false
  if !s.dev.stbyPg then 0
  else b2n w.patch.isSome + 2 * b2n (w.patch == some true) + 4 * b2n w.noPlatform
    + 128 * b2n r.active + 256 * b2n running + 512 * b2n (w.running == some r.active)
    + 1024 * b2n w.staged + 2048 * b2n r.tryPending + 4096 * r.triesLeft

/-- SYS_SVN. -/
def State.sysSvn (s : State) : Nat :=
  let o := s.dev.fw.otp
  o.floors.1 * 65536 + o.floors.2.1 * 256 + o.floors.2.2

/-- SYS_LMS_LEAF. -/
def State.lmsLeaf (s : State) : Nat :=
  let w := s.dev.fw
  2 ^ 63 * b2n w.exhausted + (1024 - w.otp.lmsBlocks) * 2 ^ 32 + w.nextLeaf % 2 ^ 20

end Sys2Proof.Machine
end

