-- ==== Sys2Proof/Machine/Bringup.lean ====
section
/-! DEFINITION. Bring-up (R466 to R473) and the resets that lead to it: cold, device and floor resets, supplies and
reset inputs (R435, R438, R439, R504 to R509, R527 to R530). -/

namespace Sys2Proof.Machine

/-- SYS_BOOT_STATUS names a step and its substep (R468). -/
def State.atStep (s : State) (step sub : Nat) : State := s.setFreg FR.SYS_BOOT_STATUS (step + 256 * sub)

/-- A bring-up that fails fatally (R469): SYS_BOOT_ERR keeps the first failure, the record of the fatal class, which gives
SYS_BOOT_ERR (R500), is written, and the main domain goes off. -/
def State.bootFatal (s : State) (step sub code : Nat) : State :=
  let err := 2 ^ 31 + step * 65536 + sub * 256 + code
  let s := if bitB (s.freg FR.SYS_BOOT_ERR) 31 then s else s.setFreg FR.SYS_BOOT_ERR err
  let s := s.logEvent 0x0801 0 4 0 (s.freg FR.SYS_BOOT_ERR) 0
  s.mainLost.atStep 0xFF 0

/-! ### The steps -/

/-- HBM contents and tags become undefined by a change of interleave mode (R250, log entry 4). -/
def State.setIlv (s : State) (mode : Nat) : State :=
  let m := s.mem
  let s := s.putFreg FR.HBM_ILV_CFG 1 0 mode
  if mode = m.ilvWas then s
  else { s with
    mem := { m with ilvWas := mode, hbm := [], hbmPoison := [], tagSyn := [], hbmEpoch := s.free + 1 }
    free := s.free + 1 }

/-- Step 0x08 (R472): every byte of HBM zero, every tag right, no poison. -/
def State.clearHbm (s : State) : State :=
  { s with
    mem := { s.mem with hbm := [], hbmPoison := [], tagSyn := [], hbmEpoch := 0 }
    dev := { s.dev with hbmLost := false, clearMem := false } }

/-- Root firmware loads the weights characterised for the module (R448). -/
def State.loadWeights (s : State) : State :=
  let w := (List.range 16).map Config.fusedWeight
  let s : State := { s with pw := { s.pw with weights := w.map (fun (n : Nat) => (n : Rat)) } }
  (List.range 16).foldl (fun (s : State) i => s.setFreg (FR.PWR_WT i) (Config.fusedWeight i % 2 ^ 32)) s

/-- The selected image in service SRAM (R476), and what the system block says of it. -/
def State.loadService (s : State) : State :=
  let w := s.dev.fw
  match w.running with
  | none => s
  | some b =>
    let i := w.image (slotOff b)
    let s := s.modFw (fun w => { w with
      sram := Bytes.write [] (Header.load i.1) i.2, staged := w.staged && w.running != some (!w.record.active) })
    s.setFreg FR.SYS_SVC_VER (Header.build i.1)

/-- Step 0x05, and step 0x02 with it unless it has run already (R467, R470): the image is selected and loaded. A
digest that differs condemns its slot, and the procedure of R478 goes on with the next. The answer says whether a try
image failed here, and none that no slot is left. -/
def State.loadStep : Nat → List Bool → List BringIn → State → State × Option Bool
  | 0, _, _, s => (s, none)
  | fuel + 1, bad, bs, s =>
    let s := if s.dev.fw.selected then s.modFw (fun w => { w with selected := false }) else s.chooseImage bad
    match s.dev.fw.running with
    | none => (s, none)
    | some b =>
      if (bs.headD {}).digest then (s.loadService, some false)
      else if s.dev.fw.asTry then (s, some true)
      else State.loadStep fuel (b :: bad) bs.tail s

/-- The states of calibration blocks in SYS_CAL_STATUS (R495): block n of R468 passes or fails. -/
def State.calibrated (s : State) (bad : List (Fin 9)) (blocks : List Nat) : State :=
  blocks.foldl (fun (s : State) n =>
    s.putFreg FR.SYS_CAL_STATUS (2 * n - 1) (2 * n - 2) (if bad.any (fun k => k.val == n) then 3 else 2)) s

/-- Calibration block n runs (R495). -/
def State.calibrating (s : State) (n : Nat) : State := s.putFreg FR.SYS_CAL_STATUS (2 * n - 1) (2 * n - 2) 1

/-- The self-tests of the matrix arrays, and the droop calibration, in step 0x06 (R97, R479). -/
def State.calibrateCells (s : State) (l : List (CellId × SelftestFinding)) : State :=
  allCells.foldl (fun (s : State) c =>
    let f : SelftestFinding := ((l.find? (fun e => e.1 == c)).map (·.2)).getD {}
    let t := s.tempOf (bandSensor c)
    s.modCell c (fun x =>
      let x := x.endSelftest f
      { x with cp := { x.cp with calTemp := t } })) s

/-- How far a link trains. -/
def LinkIn.link : LinkIn → Link
  | .down => .down
  | .pcie => .pcie
  | .cxl => .cxl

/-- Step 0x09 (R467, R528). -/
def State.trainCxl (s : State) (l : LinkIn) : State :=
  if s.dev.perstLow && !s.dev.readyOnce then { s with dev := { s.dev with cxlWait := true } }
  else { s with hs := { s.hs with link := Sys2Proof.Machine.LinkIn.link l } }

/-- The ports as the platform record gives them, or in mode 0 (R467, R471). -/
def State.platformPorts (s : State) (p : PlatformIn) : State :=
  if s.dev.fw.platform.isNone then s
  else
    let s := p.ports.foldl (fun (s : State) e => s.setFreg (FR.FL_P_CFG e.1.val) e.2.toNat) s
    s.setFreg FR.FL_CTRL p.flCtrl.toNat

/-- Step 0x0A (R374, R467): every enabled interface is UP, or has entered FAULT. -/
def State.trainFlagen (s : State) (bad : List (Fin 18 × Fin 4 × Fin 6)) : State :=
  (List.range 18).foldl (fun (s : State) p =>
    (List.range 4).foldl (fun (s : State) i =>
      if !s.ifOn p i then s.setIf p i 0 0
      else match bad.find? (fun e => e.1.val == p && e.2.1.val == i) with
        | some e => s.faultIf p i e.2.2.val
        | none => s.setIf p i 4 0) s) s

/-- READY (R438, R468). -/
def State.becomeReady (s : State) (us : Nat) : State :=
  let s : State := { s with
    dev := { s.dev with step := none, ready := true, readyOnce := true }, timeUs := s.timeUs + us
    pw := { s.pw with sr := 0xFFFFF } }
  let s := ((s.atStep 0x0F 0).setFreg FR.SYS_BOOT_TIME us).count FR.SYS_BOOT_CNT
  s.choosePoint 100 0

/-- What the steps 0x04 to 0x0F come to (R467, R469): READY, a failure with its step, substep and code, or a step at
which service firmware stays. -/
inductive BootRes where
  | ready (s : State)
  | failed (s : State) (step sub code : Nat)
  | stuck (s : State) (step : Nat)

/-- Service firmware stays at step n. -/
def State.stuckAt (s : State) (n : Nat) : BootRes := .stuck { s with dev := { s.dev with step := some n } } n

/-- Whether service firmware stays at step n of a bring-up (R469). -/
def staysAt (b : BringIn) (n : Nat) : Bool := b.stuck.any (fun m => m.val == n)

/-- Step 0x07 (R467, R469): every stack is trained, or one fails. -/
def State.hbmStep (s : State) (b : BringIn) (k : State → BootRes) : BootRes :=
  let s := s.atStep 7 0
  if staysAt b 7 then ((s.calibrating 6).atStep 7 b.sub.val).stuckAt 7
  else match b.badStack with
    | some i => .failed ((s.calibrated [6] [6]).atStep 7 i.val) 7 i.val 0x07
    | none => k (s.calibrated b.badCal [6])

/-- Step 0x09 (R467): the link trains. -/
def State.cxlStep (s : State) (b : BringIn) (k : State → BootRes) : BootRes :=
  let s := s.atStep 9 0
  if staysAt b 9 then s.stuckAt 9 else k (s.trainCxl b.link)

/-- Step 0x08, which runs beside step 0x0A and shows in SYS_BOOT_STATUS.hbm_clear (R467, R472, R495). -/
def State.clearStep (s : State) (b : BringIn) (k : State → BootRes) : BootRes :=
  if !s.dev.hbmLost && !s.dev.clearMem then k s
  else if staysAt b 8 then ((s.atStep 0x0A 0).orFreg FR.SYS_BOOT_STATUS 0x10000).stuckAt 8
  else k s.clearHbm

/-- Step 0x0A (R467): the enabled interfaces train; `up` is the state in which they do. -/
def State.flagenStep (s : State) (b : BringIn) (up : State → State) (k : State → BootRes) : BootRes :=
  let s := s.atStep 0x0A 0
  if staysAt b 0x0A then (s.calibrating 7).stuckAt 0x0A
  else k (((up s).trainFlagen b.badIfs).calibrated b.badCal [7])

/-- Steps 0x07, 0x09, 0x08 and 0x0A, and READY. -/
def State.lateSteps (s : State) (b : BringIn) : BootRes :=
  s.hbmStep b fun s =>
    let mode := if s.dev.fw.platform.isSome && b.platform.ilv.val < 3 then b.platform.ilv.val else 0
    (s.setIlv mode).cxlStep b fun s => s.clearStep b fun s =>
      s.flagenStep b (fun s => s.platformPorts b.platform) fun s => .ready (s.becomeReady b.us)

/-- The lane test of the vertical interfaces (R237): a device reset derives again how many spares each uses; one that needs
more than it has fails. No swap of a test counts as one in service. -/
def State.laneTest (s : State) (l : List (CellId × Fin 4 × Nat)) : State :=
  l.foldl (fun s e =>
    let s := s.putFreg (FR.HR_VPORT e.1) (8 * e.2.1.val + 6) (8 * e.2.1.val) (min 64 e.2.2)
    if 64 < e.2.2 then s.failPort e.1 e.2.1 else s) s

/-- The first calibration block whose failure is fatal: the regulators, the compute PLL, the sensors (R469). -/
def fatalCal (bad : List (Fin 9)) : Option Nat := [1, 2, 5].find? (fun n => bad.any (fun k => k.val == n))

/-- The given blocks of step 0x06 (R467, R468, R469, R495): each passes, fails, or keeps service firmware. -/
def State.calibrateStep (s : State) (b : BringIn) (blocks : List Nat) (k : State → BootRes) : BootRes :=
  let ended := if staysAt b 6 then blocks.filter (fun n => n < b.sub.val) else blocks
  let s := (s.atStep 6 0).calibrated b.badCal ended
  match fatalCal (b.badCal.filter (fun n => ended.contains n.val)) with
  | some n => .failed (s.atStep 6 n) 6 n 0x06
  | none => if staysAt b 6 then ((s.calibrating b.sub.val).atStep 6 b.sub.val).stuckAt 6 else k s

/-- Step 0x06 and the steps behind it. -/
def State.midSteps (s : State) (b : BringIn) : BootRes :=
  s.calibrateStep b [1, 2, 3, 4, 5, 8] fun s => ((s.calibrateCells b.selftests).laneTest b.lanes).lateSteps b

/-- Steps 0x04 and 0x05 (R467, R469, R470): the rails and the floor PLLs, then the image; `weigh` is what root firmware does
between them. -/
def State.loadSteps (s : State) (bs : List BringIn) (weigh : State → State) (k : State → BootRes) : BootRes :=
  let b := bs.headD {}
  let s := s.atStep 4 0
  if !b.rails then .failed s 4 0 0x03
  else if !b.pll then .failed s 4 0 0x04
  else
    let q := State.loadStep 4 [] bs ((weigh s).atStep 5 0)
    match q.2 with
    | none => .failed q.1 5 0 0x02
    | some true => .failed q.1 5 0 0x05
    | some false => k q.1

/-- Steps 0x04 to 0x0F after a device reset or a rise of main power. -/
def State.bootSteps (s : State) (bs : List BringIn) : BootRes :=
  let s : State := { s with dev := { s.dev with mainOn := true, step := none, held := false } }
  let selected := s.dev.fw.selected
  s.loadSteps bs State.loadWeights fun s => (if selected then s else s.readPlatform).measure.midSteps (bs.headD {})

/-! ### Device resets (R435, R469, R470, R505) -/

/-- The reset inputs that hold a device reset (R528). -/
def DevState.inputsHold (d : DevState) : Bool := d.rstLow || (d.perstLow && d.readyOnce)

/-- A sensor reads above 100 °C (R460). -/
def State.hotSensor (s : State) : Bool :=
  (List.range 64).any (fun i => decide (1600 < s.tempOf i)) || (List.range 20).any (fun i => decide (1600 < s.hbmTempOf i))

/-- A device reset up to bring-up (R434, R460, R504, R506): ignored while the part is hot. A flash write that is under way
comes to its end first. -/
def State.beginReset (s : State) (clear : Bool) : Option State :=
  if !s.dev.stbyPg || s.hotSensor then none
  else
    let s := (s.endStage.noteReset 5 0).deviceClear
    let s := s.modFw (fun w => { w with running := none, selected := false, sram := [], endNonce := none, stage := none })
    some { s with dev := { s.dev with held := true, clearMem := s.dev.clearMem || clear } }

/-- Bring-up from step 0x04, with the device reset that a failing try image leads to (R469, R478). The argument bounds
the number of runs. -/
def State.runBoot : Nat → List BringIn → State → State
  | 0, _, s => s
  | fuel + 1, bs, s =>
    match s.bootSteps bs with
    | .ready s => s
    | .stuck s _ => s
    | .failed s step sub code =>
      if 5 ≤ step && step ≤ 10 && s.dev.fw.asTry && code != 2 then
        match s.beginReset false with
        | some s => State.runBoot fuel bs.tail s
        | none => s
      else s.bootFatal step sub code

/-- Bring-up once no input holds the reset, which is held until then (R528): the stop of END (R487), the wait for main
power, or the steps. -/
def State.startBoot (s : State) (bs : List BringIn) : State :=
  if s.dev.inputsHold then { s with dev := { s.dev with held := true } }
  else
    let s : State := { s with dev := { s.dev with held := false } }
    if s.dev.fw.otp.lc = 4 then s.bootFatal 1 0 0x0C
    else if s.dev.mainPg then State.runBoot 5 bs s
    else State.atStep { s with dev := { s.dev with step := some 3 } } 3 0

/-- A device reset (R504, R506): `bs` says what its bring-up meets. One that the reset inputs hold already is joined
(R505). -/
def State.deviceReset (s : State) (bs : List BringIn) (clear : Bool) : State :=
  if s.dev.held then { s with dev := { s.dev with clearMem := s.dev.clearMem || clear } }
  else match s.beginReset clear with
    | some s => s.startBoot bs
    | none => s

/-- CXL_RESET (R435): requested over the link. -/
def execCxlReset (bs : List BringIn) (s : State) : Out :=
  match s.hs.link with
  | .down => .next s
  | _ => .next (s.deviceReset bs false)

/-- CXL_RESET_MEMORY_CLEAR (R435, R472). -/
def execCxlResetMemoryClear (bs : List BringIn) (s : State) : Out :=
  match s.hs.link with
  | .down => .next s
  | _ => .next (s.deviceReset bs true)

/-- FUNCTION_LEVEL_RESET (R434). -/
def execFunctionLevelReset (s : State) : Out :=
  match s.hs.link with
  | .down => .next s
  | _ => .next s.functionReset

/-! ### Floor reset (R508, R509) -/

/-- A floor reset begins (R508): its phases 1 to 4, from which RST_STATUS.floor_busy stands; phase 5 follows at the next
interval of the Vigil oscillator (log entry 19). One that is under way already is joined (R505). -/
def State.floorReset (s : State) (bs : List BringIn) : State :=
  if !s.dev.ready || !s.dev.mainOn || s.floorBusy then s
  else
    let s := (s.noteReset 3 0).floorClear
    { s with dev := { s.dev with floorBring := some bs } }

/-- Phase 5 (R508): the steps 0x04 to 0x0A of a floor reset, with step 0x06 for the PLLs alone and no step 0x08. The slot that
runs is loaded again, the interleave mode stays, and what waited for the floor goes on. -/
def State.floorSteps (s : State) (bs : List BringIn) : BootRes :=
  let b := bs.headD {}
  let up (s : State) : State := { s with dev := { s.dev with floorBring := none } }
  (s.modFw (fun w => { w with selected := true })).loadSteps bs id fun s =>
    s.calibrateStep b [2] fun s => s.hbmStep b fun s => s.cxlStep b fun s => s.flagenStep b up fun s =>
      .ready (State.atStep { s.flushAll with timeUs := s.timeUs + b.us } 0x0F 0).goOn

/-- A floor reset goes on with its bring-up, unless service firmware stays at a step of it. A failure is handled as in any
bring-up (R469, R478). -/
def State.floorBringup (s : State) : State :=
  match s.dev.floorBring, s.dev.step with
  | some bs, none =>
    match s.floorSteps bs with
    | .ready s => s
    | .stuck s _ => s
    | .failed s step sub code =>
      if 5 ≤ step && step ≤ 10 && s.dev.fw.asTry && code != 2 then s.deviceReset bs.tail false
      else s.bootFatal step sub code
  | _, _ => s

/-- POWER_INTERVAL (R447 to R461): 2 µs pass on the Vigil oscillator: the controller's interval, the end of a flash write, a
floor reset's bring-up, and the deliveries that an open step is owed after it (R509). -/
def execPowerInterval (i : IntervalIn) (s : State) : Out :=
  if !s.dev.stbyPg then .next s
  else
    let s := State.readSensors { s with timeUs := s.timeUs + 2 } i
    let s := (s.controlStep (if s.dev.mainOn then i.acts else [])).flTime
    .next s.endStage.floorBringup.payPoison

/-- SERVICE_FW_TIMEOUT (R504). -/
def execServiceFwTimeout (bs : List BringIn) (s : State) : Out := .next (s.floorReset bs)

/-- BRINGUP_STEP_TIMEOUT (R469): the step at which service firmware stays fails. -/
def execBringupStepTimeout (bs : List BringIn) (s : State) : Out :=
  match s.dev.step with
  | some n =>
    if 6 ≤ n && n ≤ 10 && s.dev.mainOn then
      if s.dev.fw.asTry then .next (s.deviceReset bs false)
      else .next (s.bootFatal n (bits (s.freg FR.SYS_BOOT_STATUS) 15 8) 0x0B)
    else .next s
  | none => .next s

/-! ### Supplies and reset inputs (R438, R439, R527 to R529) -/

/-- What is left when the standby supply is lost: fuses, OTP and flash, the levels of the reset inputs, what has left the
device, and the queue of commands (R42, R438). -/
def State.off (s : State) : State :=
  let w := s.dev.fw
  { State.reset with
    mem := { host := s.mem.host, hostPoison := s.mem.hostPoison }, fl := { wire := s.fl.wire }, hs := s.hs.sentOnly
    free := s.free, pending := s.pending
    dev := { rstLow := s.dev.rstLow, perstLow := s.dev.perstLow
             fw := { otp := w.otp, flash := w.breakOff.flash, copies := w.copies } } }

/-- Steps 0x00 to 0x03 (R467, R474, R478, R487, R493). -/
def State.vigilSteps (s : State) : State :=
  let s := (s.modFw FwState.burnBlock).atStep 1 0
  let p := s.loadPatch
  let s := p.1
  if s.dev.fw.otp.lc = 4 then s.bootFatal 1 0 0x0C
  else if !p.2 then s.bootFatal 1 0 0x01
  else
    let s := ((s.atStep 2 0).readPlatform).chooseImage []
    if s.dev.fw.running.isNone then s.bootFatal 2 0 0x02
    else
      let s := s.modFw (fun w => { w with selected := true })
      State.atStep { s with dev := { s.dev with step := some 3 } } 3 0

/-- STBY_PG_RISE: a cold reset (R42, R466, R504, R527). -/
def execStbyPgRise (s : State) : Out :=
  if s.dev.stbyPg then .next s
  else
    let s := s.off
    let s : State := { s with dev := { s.dev with stbyPg := true } }
    .next (s.logEvent 0x0A01 0 0 0 0 0).vigilSteps

/-- STBY_PG_FALL: the device is OFF (R438, R529). -/
def execStbyPgFall (s : State) : Out := if s.dev.stbyPg then .next s.off else .next s

/-- Whether a rise of main power leads to bring-up: where bring-up waits for it in step 0x03 or main power had been
lost, and not in END, not while a trip is latched, and not where the root patch that OTP requires did not run (R438,
R439, R467, R469, R487). -/
def State.mayBoot (s : State) : Bool :=
  s.dev.fw.otp.lc != 4 && !s.dev.trip && (s.dev.fw.otp.floors.1 == 0 || s.dev.fw.patch.isSome) &&
    (s.dev.step == some 3 || s.dev.mainGone)

/-- MAIN_PG_RISE (R439, R527): after a loss of main power the boot epoch rises by 1. -/
def execMainPgRise (bs : List BringIn) (s : State) : Out :=
  if !s.dev.stbyPg || s.dev.mainPg then .next s
  else
    let again := s.dev.mainGone
    let boot := s.mayBoot && !s.dev.held
    let s : State := { s with dev := { s.dev with mainPg := true, readyOnce := false, mainGone := false } }
    let s := if again then s.setFreg FR.FL_BOOT_EPOCH ((s.freg FR.FL_BOOT_EPOCH + 1) % 2 ^ 32) else s
    if boot then .next (s.startBoot bs) else .next s

/-- Main power is lost (R439). -/
def State.losePower (s : State) : State :=
  if !s.dev.stbyPg || !s.dev.mainPg then s
  else
    let s := (State.mainLost { s with dev := { s.dev with mainPg := false, mainGone := true } }).orFreg FR.PWR_STATUS 32
    s.logEvent 0x0701 0 4 0 0 0

/-- MAIN_PG_FALL (R439, R529). -/
def execMainPgFall (s : State) : Out := .next s.losePower

/-- VIN48_LOW (R529): as a fall of MAIN_PG_IN, whichever comes first. -/
def execVin48Low (s : State) : Out := .next s.losePower

/-- DEV_RST_ASSERT (R505, R528): a level low for 10 µs. A reset that is held already is joined. -/
def execDevRstAssert (s : State) : Out :=
  if s.dev.rstLow then .next s
  else
    let held := s.dev.held
    let s : State := { s with dev := { s.dev with rstLow := true } }
    if held then .next s else .next (s.deviceReset [] false)

/-- DEV_RST_RELEASE (R528): bring-up starts once both inputs are high. -/
def execDevRstRelease (bs : List BringIn) (s : State) : Out :=
  if !s.dev.rstLow then .next s
  else
    let s : State := { s with dev := { s.dev with rstLow := false } }
    if s.dev.held then .next (s.startBoot bs) else .next s

/-- CXL_PERST_ASSERT (R528): after READY it requests a device reset; before, it holds only the port in reset, and a link that
is up goes down until the level rises. -/
def execCxlPerstAssert (s : State) : Out :=
  if s.dev.perstLow then .next s
  else
    let reset := s.dev.readyOnce
    let s : State := { s with dev := { s.dev with perstLow := true } }
    if reset then .next (s.deviceReset [] false)
    else match s.hs.link with
      | .down => .next s
      | _ => .next { s with hs := { s.hs with link := .down }, dev := { s.dev with cxlWait := true } }

/-- CXL_PERST_RELEASE (R528): the port trains if step 0x09 was deferred, or the device reset is released. -/
def execCxlPerstRelease (bs : List BringIn) (s : State) : Out :=
  if !s.dev.perstLow then .next s
  else
    let s : State := { s with dev := { s.dev with perstLow := false } }
    let s := if s.dev.cxlWait then
        { s with dev := { s.dev with cxlWait := false }
                 hs := { s.hs with link := Sys2Proof.Machine.LinkIn.link (bs.headD {}).link } }
      else s
    if s.dev.held then .next (s.startBoot bs) else .next s

/-! ### Cell and band resets by register, fatal errors, and the Almanac's ring -/

/-- FATAL_ERROR (R497). -/
def execFatalError (source cause : Nat) (s : State) : Out :=
  if s.dev.mainOn then .next (s.fatalError (source % 65536) (cause % 2 ^ 64)) else .next s

/-- The 64 bytes of a record (R498), with its CRC. -/
def AlmRec.bytes (r : AlmRec) : List Byte :=
  let w (crc : Nat) : Nat :=
    1 + r.cls % 8 * 2 ^ 16 + r.index % 65536 * 2 ^ 32 + r.code % 65536 * 2 ^ 48 + r.step % 2 ^ 32 * 2 ^ 64 + crc * 2 ^ 96
      + r.seq % 2 ^ 64 * 2 ^ 192 + r.time % 2 ^ 64 * 2 ^ 256 + r.addr % 2 ^ 64 * 2 ^ 320 + r.info0 % 2 ^ 64 * 2 ^ 384
      + r.info1 % 2 ^ 64 * 2 ^ 448
  leBytes 64 (w (crc32c (leBytes 64 (w 0))))

/-- Entries of the Almanac ring (R502). -/
def State.ringSize (s : State) : Nat := 2 ^ (bits (s.freg FR.ALM_CTRL) 7 4 + 10)

/-- The ring has no room (R502, log entry 30). -/
def State.ringFull (s : State) : Bool :=
  (s.freg FR.ALM_RING_TAIL + 1) % s.ringSize == s.freg FR.ALM_RING_HEAD % s.ringSize

/-- ALMANAC_RING_COPY (R502): the next record in sequence order goes to the ring in HBM, and the tail moves. Sequence
numbers whose records were not written, or are no longer held, are passed over. -/
def execAlmanacRingCopy (s : State) : Out :=
  if !s.dev.mainOn || !bitB (s.freg FR.ALM_CTRL) 0 || s.ringFull then .next s
  else match s.alm.buf.foldl (fun (b : Option AlmRec) e =>
      if e.2.seq < s.alm.copied then b
      else match b with
        | some r => if e.2.seq < r.seq then some e.2 else b
        | none => some e.2) none with
    | none => .next s
    | some r =>
      let a := s.freg FR.ALM_RING_BASE + 64 * (s.freg FR.ALM_RING_TAIL % s.ringSize)
      match s.rawAsleep a with
      | some i => .next (s.requestExit i)
      | none =>
        let s := s.putLatest a (clean r.bytes)
        let s : State := { s with alm := { s.alm with copied := r.seq + 1 } }
        .next (s.setFreg FR.ALM_RING_TAIL ((s.freg FR.ALM_RING_TAIL + 1) % s.ringSize))

end Sys2Proof.Machine
end

