-- ==== Sys2Proof/Machine/Regs.lean ====
section
/-! DEFINITION. The registers as the ports see them: reads (R11, R12, R154, R246), the management fence (R41, R481),
and writes with what each of them does besides setting a value (R12 to R15). -/

namespace Sys2Proof.Machine

/-! ### Reads -/

/-- The low or high part of a number that a register shows, 64 bits at offset 8 k. -/
def dword (x k : Nat) : Nat := bits x (64 * k + 63) (64 * k)

/-- ALM_STATUS (R503). -/
def State.almStatus (s : State) : Nat :=
  (s.freg FR.ALM_STATUS &&& 2) + b2n (bitB (s.freg FR.ALM_CTRL) 0 && s.ringFull) + 4 * b2n (s.alm.severe.length == 64)

/-- ALM_SEVi and ALM_BUFj by their doublewords (R503); an entry that holds no record reads zero. -/
def State.almWindow (s : State) (pa : Nat) : Nat :=
  if pa < FR.ALM_BUF 0 then
    let o := pa - FR.ALM_SEV 0
    match s.alm.severe[o / 64]? with
    | some r => fieldAt r.bytes (o % 64) 8
    | none => 0
  else
    let o := pa - FR.ALM_BUF 0
    match s.alm.buf.find? (fun e => e.1 == o / 64) with
    | some e => fieldAt e.2.bytes (o % 64) 8
    | none => 0

/-- The Hirrium blocks: what is computed, and for the rest what is held (R244, R245). -/
def State.hirView (s : State) (pa : Nat) : Nat :=
  let n := cellNo ((pa - sliceRegBase) / 0x1000)
  let o := (pa - sliceRegBase) % 0x1000
  if o = 0 then s.freg pa + 2 ^ 31 * b2n (s.slice n).resize.isSome
  else if 0x10 ≤ o ∧ o < 0x30 then s.pinnedOf n ⟨(o - 0x10) / 4 % 8, by omega⟩
  else if o = 0x110 then s.cmpLines n
  else s.freg pa

/-- The management blocks of the Vigil domain (R462, R494, R503, R510). -/
def State.vigilView (s : State) (pa : Nat) : Nat :=
  if pa = FR.SYS_LC then s.sysLc
  else if pa = FR.SYS_FW_STATUS then s.fwStatus
  else if pa = FR.SYS_SVN then s.sysSvn
  else if pa = FR.SYS_LMS_LEAF then s.lmsLeaf
  else if pa = FR.PWR_STATUS then putBits (s.freg pa) 1 0 s.devState
  else if pa = FR.PWR_HBM_STATE then s.pw.sr.toNat
  else if FR.PWR_PHT 0 ≤ pa ∧ pa < FR.PWR_PHT 256 then s.phtView ((pa - FR.PWR_PHT 0) / 8)
  else if pa = FR.ALM_STATUS then s.almStatus
  else if pa = FR.ALM_SEQ then s.alm.seq
  else if pa = FR.ALM_SEV_CNT then s.alm.severe.length
  else if FR.ALM_SEV 0 ≤ pa ∧ pa < FR.RST_STATUS then s.almWindow pa
  else if pa = FR.RST_STATUS then s.rstStatus
  else s.freg pa

/-- The other floor blocks (R276, R344, R369, R406, R408, R436). -/
def State.floorBlockView (s : State) (pa : Nat) : Nat :=
  if pa = FR.TR_STATUS then s.trStatus
  else if pa = FR.HBM_ILV_CFG then s.freg pa + 2 ^ 31 * b2n s.mem.ilvLock
  else if pa = FR.HI_STATUS then s.hiStatus
  else if FR.HI_Q_SQ_BASE 0 ≤ pa ∧ pa < FR.HI_Q_SQ_BASE 64 then
    let q : Fin 64 := ⟨(pa - FR.HI_Q_SQ_BASE 0) / 32 % 64, by omega⟩
    if pa = FR.HI_Q_STATUS q.val then s.qStatus q
    else if pa = FR.HI_Q_PTR q.val then s.qPtr q
    else s.freg pa
  else if pa = FR.HV_STATUS then s.hvStatus
  else if FR.HV_U_STATUS 0 ≤ pa ∧ pa < FR.HV_U_STATUS 16 ∧ (pa - FR.HV_U_STATUS 0) % 64 = 0 then
    s.unitStatus ⟨(pa - FR.HV_U_STATUS 0) / 64 % 16, by omega⟩
  else if pa = FR.RC_STATUS then s.rcStatus
  else if pa = FR.DX_STATUS then s.dxStatus
  else if pa = FR.RX_JOB_STATUS then s.jobStatus
  else if pa = FR.FL_STATUS then s.flStatus
  else if pa = FR.CE_STATUS then s.ceStatus
  else if FR.CE_S_STATUS 0 ≤ pa ∧ pa < FR.CE_S_STATUS 32 then
    let k : Fin 32 := ⟨(pa - FR.CE_S_STATUS 0) / 16 % 32, by omega⟩
    if pa % 16 = 0 then s.slotWord k else s.slotBytes k
  else s.freg pa

/-- A floor or management register as it reads; a write-only one reads 0 (R12). -/
def State.floorView (s : State) (pa : Nat) : Nat :=
  match floorReg pa with
  | none => 0
  | some r =>
    if r.kind = .action then 0
    else if sliceRegBase ≤ pa ∧ pa < sliceRegBase + 0x100000 then s.hirView pa
    else if vigilReg pa then s.vigilView pa
    else s.floorBlockView pa

/-- The base of the cell regions (R246). -/
def cellRegBase : Nat := 0x30000000000

/-- Whether an address lies in the cell regions. -/
def inCells (pa : Nat) : Bool := cellRegBase ≤ pa && pa < cellRegBase + 0x1000000

/-- The width of the register at an exact address; 0 where there is none. -/
def regWidth (pa : Nat) : Nat :=
  if inCells pa then cellWidth ((pa - cellRegBase) % 0x10000)
  else match floorReg pa with
    | some r => r.width
    | none => 0

/-- The register at an exact address. -/
def State.regView (s : State) (pa : Nat) : Nat :=
  if inCells pa then (s.cell (cellNo ((pa - cellRegBase) / 0x10000))).view ((pa - cellRegBase) % 0x10000)
  else s.floorView pa

/-- A read of 4 or 8 bytes (R11, R417): reserved offsets, other widths and unaligned accesses read zero. -/
def State.readReg (s : State) (pa width : Nat) : Nat :=
  if pa % width ≠ 0 then 0
  else if width = 8 then
    if regWidth pa = 64 then s.regView pa
    else (if regWidth pa = 32 then s.regView pa else 0) + (if regWidth (pa + 4) = 32 then s.regView (pa + 4) else 0) * 2 ^ 32
  else if width = 4 then
    if regWidth pa = 32 then s.regView pa
    else if regWidth pa = 64 then s.regView pa % 2 ^ 32
    else if pa % 8 = 4 && regWidth (pa - 4) = 64 then s.regView (pa - 4) / 2 ^ 32
    else 0
  else 0

/-! ### The fence (R246, R481) -/

/-- The security block. -/
def inSecurity (pa : Nat) : Bool := 0x3001F000000 ≤ pa && pa ≤ 0x3001FFFFFFF

/-- Whether an address lies in the register regions. -/
def inRegs (pa : Nat) : Bool :=
  inCells pa || (0x30001000000 ≤ pa && pa < 0x30001001000) || (0x30001100000 ≤ pa && pa < 0x30001200000) ||
    (0x30001200000 ≤ pa && pa < 0x30001210000) || (0x30010000000 ≤ pa && pa < 0x30020000000)

/-- DEVELOP or RETURNED (R487). -/
def State.debugState (s : State) : Bool := s.dev.fw.otp.lc == 1 || s.dev.fw.otp.lc == 3

/-- BLANK (R487). -/
def State.blank (s : State) : Bool := s.dev.fw.otp.lc == 0

/-- Debug has been unlocked (R489). -/
def State.unlocked (s : State) : Bool := bitB (s.freg FR.SYS_LC) 7

/-- A debugger may act: in BLANK, and in DEVELOP and RETURNED after an unlock (R482, R487, R489, R511). -/
def State.mayDebug (s : State) : Bool := s.blank || (s.debugState && s.unlocked)

/-- Whether the register at an address can be reached at all: its domain has power, and the port of the access works: the
BARs on a CXL link, the service cores while their firmware runs, a debugger where it may act (R246, R410, R438, R468, R482,
R489, R508). -/
def State.reachReg (s : State) (o : Origin) (pa : Nat) : Bool :=
  s.dev.stbyPg && (vigilReg pa || s.dev.mainOn) &&
    match o with
    | .host => s.cxlUp
    | .service _ => s.dev.mainOn && !s.floorBusy
    | .root => true
    | .debug => s.mayDebug
    | .ownCell => inCells pa && s.dev.mainOn

/-- What the fence keeps the service cores from writing. -/
def fencedService (pa : Nat) : Bool :=
  inSecurity pa || (0x30010000000 ≤ pa && pa < 0x30010010000) || pa == FR.PWR_CAP_W || pa == FR.PWR_ENV_W ||
    (FR.HV_VER 0 ≤ pa && pa < FR.HV_VER 32) || pa == FR.HV_LS_STATE || pa == FR.HV_STEP || pa == FR.HV_COMMIT_CNT ||
    (inCells pa && (pa - cellRegBase) % 0x10000 == CR.SQ_PC)

/-- What the host may not write through BAR0. -/
def fencedHost (pa : Nat) : Bool :=
  inSecurity pa || (0x30010000000 ≤ pa && pa < 0x30010010000 && pa != FR.SYS_FENCE_VIOL_CNT) || pa == FR.PWR_CAP_W ||
    pa == FR.PWR_ENV_W

/-- The system block (R481). -/
def inSystem (pa : Nat) : Bool := 0x30010000000 ≤ pa && pa < 0x30010010000

/-- A blocked access of a service core is counted, and the first of each window of 1 ms recorded (R481). Its class counter
counts every one (R499). -/
def State.violation (s : State) (core pa : Nat) : State :=
  let s := s.count FR.SYS_FENCE_VIOL_CNT
  let w := s.timeUs / 1000 + 1
  if s.alm.fenceUsed = w then s.count (FR.ERR_CLS_CNT 5)
  else State.logEvent { s with alm := { s.alm with fenceUsed := w } } 0x0804 core 5 pa 0 0

/-! ### Writes -/

/-- A field that keeps its old value unless the new one is allowed. -/
def keepField (old new hi lo : Nat) (ok : Nat → Bool) : Nat :=
  if ok (bits new hi lo) then new else putBits new hi lo (bits old hi lo)

/-- Every port follows FL_CTRL.en and its mode. -/
def State.refreshPorts (s : State) : State := (List.range 18).foldl (fun (s : State) p => s.refreshPort p false) s

/-- A value allowed in a register of which the spec gives a range, and otherwise the value it keeps (R243, R276, R277,
R326, R344, R345, R370, R407, R409, R437, R459, R463, R503). -/
def State.ranged (s : State) (pa old new : Nat) : Nat :=
  let within (lo hi : Nat) : Nat := if lo ≤ new ∧ new ≤ hi then new else old
  if pa = FR.HR_PIN_CAP then within 0 86016
  else if FR.HR_CLS_QUOTA 0 ≤ pa ∧ pa < FR.HR_CLS_QUOTA 8 then within 0 86016
  else if pa = FR.HR_RETIRE_TIMEOUT then within 1 10000
  else if pa = FR.TR_ROOT then (if bitB (s.freg FR.TR_CTRL) 0 then old else new)
  else if pa = FR.TR_PRQ_CFG then within 6 16
  else if pa = FR.TR_PR_TIMEOUT then within 0 60000
  else if pa = FR.HI_CTRL then (if s.dev.ready then new else putBits new 0 0 (bits old 0 0))
  else if pa = FR.HI_POST_CFG then within 4 12
  else if pa = FR.HV_CTRL then
    if s.hvState = 0 then keepField old new 3 2 (· != 3)
    else keepField old (keepField old new 4 4 (fun _ => false)) 3 2 (fun _ => false)
  else if pa = FR.HV_LAYER_CNT then (if s.hvState = 0 then within 0 1024 else old)
  else if pa = FR.HV_LAYER_TABLE_BASE ∨ pa = FR.HV_LS_STATE ∨ (FR.HV_VER 0 ≤ pa ∧ pa < FR.HV_VER 32) then
    if s.hvState = 0 then new else old
  else if pa = FR.HV_LS_CFG then keepField old new 31 16 (· != 0)
  else if pa = FR.HV_LEND_WARN then within 1 65535
  else if pa = FR.RC_CTRL then
    if s.hvState = 0 then keepField old (keepField old new 5 4 (· != 3)) 3 2 (· != 3) else old
  else if pa = FR.DX_CTRL then (if s.hvState = 0 then new else old)
  else if pa = FR.FL_CTRL then
    keepField old new 7 6 (fun v => v != 3 && !bitB old 0)
  else if pa = FR.FL_NODE_ID ∨ pa = FR.FL_PEER_BASE ∨ pa = FR.FL_CTX_BASE then (if bitB (s.freg FR.FL_CTRL) 0 then old else new)
  else if pa = FR.FL_CC_CFG then
    keepField old (keepField old (keepField old new 23 16 (fun v => 1 ≤ v && v ≤ 16)) 15 8 (· != 0)) 7 0 (· != 0)
  else if FR.FL_P_CFG 0 ≤ pa ∧ pa < FR.FL_P_CFG 18 ∧ (pa - FR.FL_P_CFG 0) % 64 = 0 then
    keepField old (keepField old new 5 4 (· != 3)) 2 0 (· != 7)
  else if pa = FR.CE_DESC_BASE ∨ pa = FR.CE_GROUP_BASE then (if s.ce.armed.isEmpty then new else old)
  else if pa = FR.CE_GROUP_CNT then (if s.ce.armed.isEmpty then within 0 65536 else old)
  else if pa = FR.CE_LAG_CFG then keepField old (keepField old new 31 16 (· != 0)) 15 0 (· != 0)
  else if pa = FR.CE_FLOOR_W then within 0 340
  else if pa = FR.PWR_CTRL then keepField old new 14 8 (fun v => 1 ≤ v && v ≤ 100) - (new &&& 2)
  else if pa = FR.PWR_CAP_W ∨ pa = FR.PWR_HOST_CAP_W then within 800 2500
  else if pa = FR.PWR_WAKE_CFG then
    keepField old (keepField old new 15 12 (· == 1)) 5 0 (fun v => 1 ≤ v && v ≤ 8)
  else if pa = FR.PWR_THERM_CFG then within 85 105
  else if pa = FR.ALM_CTRL then keepField old new 7 4 (fun v => decide (v ≤ 10))
  else if pa = FR.ALM_RING_BASE then (if bitB (s.freg FR.ALM_CTRL) 0 then old else new)
  else new

/-- What a write of a plain register does besides setting it. Where the request ring may have room again, those that wait for
it come again (R263). -/
def State.afterWrite (s : State) (pa old new : Nat) : State :=
  if pa = FR.TR_CTRL then
    if bitB new 0 && !bitB old 0 then { s with mem := { s.mem with prqSeq := 0, ilvLock := true } } else s
  else if pa = FR.TR_PRQ_HEAD ∨ pa = FR.TR_PRQ_CFG then s.goOn
  else if pa = FR.HV_NORM_CEIL then s.fixSkip.hvComplete
  else if pa = FR.DX_CTRL then s.dropStaged
  else if pa = FR.FL_CTRL then (if (old ^^^ new) % 2 = 1 then s.refreshPorts else s)
  else if FR.FL_P_CFG 0 ≤ pa ∧ pa < FR.FL_P_CFG 18 ∧ (pa - FR.FL_P_CFG 0) % 64 = 0 then
    if old = new then s else s.refreshPort ((pa - FR.FL_P_CFG 0) / 64) true
  else if FR.PWR_WT 0 ≤ pa ∧ pa < FR.PWR_WT 16 then
    { s with pw := { s.pw with weights := s.pw.weights.set ((pa - FR.PWR_WT 0) / 4) (new : Rat) } }
  else s

/-- What a write to a write-only register does (R12), by the bits that are written. -/
def State.action (s : State) (pa v : Nat) (cap : Option CapIn) : State :=
  if pa = FR.HR_UNPIN then s.unpinClasses (v % 256)
  else if pa = FR.TR_INVAL then s.invalWrite v
  else if pa = FR.TR_PRSP then s.prspWrite v
  else if pa = FR.PWR_HBM_SR then s.requestSr v
  else if FR.PWR_WAKE 0 ≤ pa ∧ pa < FR.PWR_WAKE 4 then s.wakeMask ((pa - FR.PWR_WAKE 0) / 8) v
  else if pa = FR.ALM_SEV_CLR then (if bitB v 0 then { s with alm := { s.alm with severe := [] } } else s)
  else if pa = FR.RST_BAND then s.bandReset (v % 65536)
  else if FR.RST_CELL 0 ≤ pa ∧ pa < FR.RST_CELL 4 then s.cellReset (v * 2 ^ (64 * ((pa - FR.RST_CELL 0) / 8))) v
  else if pa = FR.RC_RELEASE then s.release v
  else if pa = FR.RX_JOB then s.startJob v cap
  else if pa = FR.CE_ARM then
    if bitB v 31 then s.disarmDesc (bits v 11 0) else s.armDesc (bits v 11 0) (bits v 63 32)
  else if pa = FR.CE_ABORT then s.swAbort (bits v 11 0)
  else s

/-- A write of the bits em of v to the floor or management register at an exact address. -/
def State.writeFloor (s : State) (pa v em : Nat) (cap : Option CapIn) : State :=
  match floorReg pa with
  | none => s
  | some r =>
    match r.kind with
    | .action => (s.action pa (v &&& em) cap).goOn
    | .derived => s
    | .plain =>
      let old := s.freg pa
      if sliceRegBase ≤ pa ∧ pa < sliceRegBase + 0x100000 ∧ (pa - sliceRegBase) % 0x1000 = 0 then
        s.winCfgWrite (cellNo ((pa - sliceRegBase) / 0x1000)) (maskWrite r old v em)
      else if FR.HI_Q_SQ_BASE 0 ≤ pa ∧ pa < FR.HI_Q_SQ_BASE 64 ∧ (pa - FR.HI_Q_SQ_BASE 0) % 32 = 16 then
        s.queueCfg ⟨(pa - FR.HI_Q_SQ_BASE 0) / 32 % 64, by omega⟩ (maskWrite r old v em)
      else if pa = FR.HBM_ILV_CFG then
        let m := bits (maskWrite r old v em) 1 0
        if s.mem.ilvLock || m = 3 then s else s.setIlv m
      else
        let new := s.ranged pa old (maskWrite r old v em)
        let s := (s.setFreg pa new).afterWrite pa old new
        if pa = FR.PWR_CTRL && bitB (v &&& em) 1 then { s with pw := { s.pw with pht := [] } } else s

/-- Whether a write of the bits em of v to a register sets SQ_CTRL.start. -/
def setsStart (pa v em : Nat) : Bool :=
  inCells pa && (pa - cellRegBase) % 0x10000 == CR.SQ_CTRL && bitB (v &&& em) 0

/-- A write to the register at an exact address, as far as the fence lets it through. A service core's write of SQ_CTRL
leaves start alone. -/
def State.writeAt (s : State) (o : Origin) (pa v em : Nat) (cap : Option CapIn) : State :=
  match o with
  | .service _ =>
    if fencedService pa then s
    else if inCells pa then
      (s.writeCell o (cellNo ((pa - cellRegBase) / 0x10000)) ((pa - cellRegBase) % 0x10000)
        (if setsStart pa v em then v - 1 else v) em).goOn
    else s.writeFloor pa v em cap
  | .host | .debug =>
    if fencedHost pa then s
    else if inCells pa then
      (s.writeCell o (cellNo ((pa - cellRegBase) / 0x10000)) ((pa - cellRegBase) % 0x10000) v em).goOn
    else s.writeFloor pa v em cap
  | .root | .ownCell =>
    if inCells pa then
      (s.writeCell o (cellNo ((pa - cellRegBase) / 0x10000)) ((pa - cellRegBase) % 0x10000) v em).goOn
    else s.writeFloor pa v em cap

/-- The lower 32 bits of a 64-bit unit. -/
def lowHalf : Nat := 0xFFFFFFFF

/-- What a write of 4 or 8 bytes reaches (R10, R11, R417): one register, the half of one, or two; each with its address, the
value, and the bits written. An unaligned or otherwise sized write, and one to a reserved offset, reaches none. -/
def parts (pa width v : Nat) : List (Nat × Nat × Nat) :=
  if width = 8 && pa % 8 = 0 then
    if regWidth pa = 64 then [(pa, v, lowHalf * 2 ^ 32 + lowHalf)]
    else (if regWidth pa = 32 then [(pa, v % 2 ^ 32, lowHalf)] else []) ++
      (if regWidth (pa + 4) = 32 then [(pa + 4, v / 2 ^ 32 % 2 ^ 32, lowHalf)] else [])
  else if width = 4 && pa % 4 = 0 then
    if regWidth pa = 32 || regWidth pa = 64 then [(pa, v % 2 ^ 32, lowHalf)]
    else if pa % 8 = 4 && regWidth (pa - 4) = 64 then [(pa - 4, v % 2 ^ 32 * 2 ^ 32, lowHalf * 2 ^ 32)]
    else []
  else []

/-- Whether the fence blocks a write of a service core, or a part of it (R481): by its address in the security and the system
block, registers or not, and elsewhere by the registers it reaches. -/
def blocked (pa width v : Nat) : Bool :=
  inSecurity pa || inSystem pa || (parts pa width v).any (fun p => fencedService p.1 || setsStart p.1 p.2.1 p.2.2)

/-- A write to the register regions (R246), part by part. One that the fence blocks is one violation (R481). -/
def State.writeReg (s : State) (o : Origin) (pa width v : Nat) (cap : Option CapIn := none) : State :=
  if !s.reachReg o pa || !inRegs pa then s
  else
    let s := match o with
      | .service k => if blocked pa width v then s.violation k.val pa else s
      | _ => s
    (parts pa width v).foldl (fun s p => s.writeAt o p.1 p.2.1 p.2.2 cap) s

/-- A read of the register regions through a port (R246, R417, R481): zero where the port does not reach. The fence blocks
the reads of service cores in the security block. -/
def State.readBy (s : State) (o : Origin) (pa width : Nat) : State × Nat :=
  if !s.reachReg o pa || !inRegs pa then (s, 0)
  else match o with
    | .service k => if inSecurity pa then (s.violation k.val pa, 0) else (s, s.readReg pa width)
    | .host | .debug => (s, if inSecurity pa then 0 else s.readReg pa width)
    | .root | .ownCell => (s, s.readReg pa width)

/-- The physical address of a register of cell c. -/
def cellPa (c : CellId) (off : Nat) : Nat := cellRegBase + 0x10000 * c.val + off

/-! ### BAR2 and the HDM decoder (R413, R417, R426) -/

/-- A doubleword of the MSI-X table written: a vector that is unmasked sends the message that it owes. -/
def State.msixWrite (s : State) (k v : Nat) : State :=
  let s : State := { s with hs := { s.hs with table := s.hs.table.set msixDef k (BitVec.ofNat 32 v) } }
  let vec := k / 4
  if s.hs.msixOn && !s.msixMasked vec && NSet.has s.hs.pend vec then
    State.sendMsi { s with hs := { s.hs with pend := s.hs.pend.del vec } } vec
  else s

/-- A doubleword of BAR2 written. -/
def State.bar2Word (s : State) (off v : Nat) : State :=
  if off < 0x200 then
    let q : Fin 64 := ⟨off / 8 % 64, by omega⟩
    if off % 8 = 0 then s.sqDoorbell q v else s.cqDoorbell q v
  else if 0x10000 ≤ off ∧ off < 0x50000 then
    if off % 64 = 56 then s.ackBox ((off - 0x10000) / 64) (BitVec.ofNat 32 v) else s
  else if 0x80000 ≤ off ∧ off < 0x81000 then s.msixWrite ((off - 0x80000) / 4) v
  else s

/-- The messages that pending vectors owe are sent where nothing masks them any more (R426). -/
def State.sendPending (s : State) : State :=
  s.hs.pend.foldl (fun (s : State) v =>
    if !s.hs.msixOn || s.msixMasked v then s
    else State.sendMsi { s with hs := { s.hs with pend := s.hs.pend.del v } } v) s

/-- A doubleword of BAR2 as it reads (R417, R426, R427): mailboxes, the MSI-X table and its pending bits; doorbells and
reserved offsets read zero. -/
def State.bar2View (s : State) (off : Nat) : Nat :=
  if 0x10000 ≤ off ∧ off < 0x50000 then
    bits (s.box ((off - 0x10000) / 64)).word (8 * (off % 64) + 31) (8 * (off % 64))
  else if 0x80000 ≤ off ∧ off < 0x81000 then (s.hs.table.get msixDef ((off - 0x80000) / 4)).toNat
  else if 0x81000 ≤ off ∧ off < 0x81020 then
    (List.range 32).foldl (fun w i => w + b2n (NSet.has s.hs.pend (8 * (off - 0x81000) + i)) * 2 ^ i) 0
  else 0

/-- A read of BAR2 (R410, R417). -/
def State.readBar2 (s : State) (off width : Nat) : Nat :=
  if !s.dev.mainOn || !s.cxlUp then 0
  else if width = 4 && off % 4 = 0 then s.bar2View off
  else if width = 8 && off % 8 = 0 then s.bar2View off + s.bar2View (off + 4) * 2 ^ 32
  else 0

/-- A write to BAR2, by its doublewords (R417). -/
def State.writeBar2 (s : State) (off width v : Nat) : State :=
  if !s.dev.mainOn then s
  else if width = 4 && off % 4 = 0 then s.bar2Word off (v % 2 ^ 32)
  else if width = 8 && off % 8 = 0 then (s.bar2Word off (v % 2 ^ 32)).bar2Word (off + 4) (v / 2 ^ 32 % 2 ^ 32)
  else s

/-- REGISTER_WRITE (R12, R410, R413, R417, R426). -/
def execRegisterWrite (o : Origin) (t : Target) (width : Nat) (v : Word) (s : State) : Out :=
  match t with
  | .reg pa => .next (s.writeReg o pa width v.toNat)
  | .bar2 off =>
    match o, s.hs.link with
    | .host, .cxl => .next (s.writeBar2 off width v.toNat)
    | _, _ => .next s
  | .msix enable mask =>
    match o, s.hs.link with
    | .host, .pcie | .host, .cxl =>
      if s.dev.mainOn then .next (State.sendPending { s with hs := { s.hs with msixOn := enable, msixMask := mask } })
      else .next s
    | _, _ => .next s
  | .hdm base =>
    match o, s.hs.link with
    | .host, .cxl =>
      match base with
      | none => .next { s with hs := { s.hs with hdm := none } }
      | some b => if b % 0x10000000 = 0 then .next { s with hs := { s.hs with hdm := some b } } else .next s
    | _, _ => .next s

/-! ### The rows that are one register's write -/

/-- SQ_START (R181, R182). -/
def execSqStart (o : Origin) (c : CellId) (s : State) : Out :=
  .next (s.writeReg o (cellPa c CR.SQ_CTRL) 4 (((s.cell c).reg CR.SQ_CTRL &&& 0xEC) + 1))

/-- SQ_HALT (R181, R182). -/
def execSqHalt (o : Origin) (c : CellId) (s : State) : Out :=
  .next (s.writeReg o (cellPa c CR.SQ_CTRL) 4 (((s.cell c).reg CR.SQ_CTRL &&& 0xEC) + 2))

/-- SEM_VAL_WRITE (R281, R319). -/
def execSemValWrite (o : Origin) (c : CellId) (k : BitVec 6) (v : Half) (s : State) : Out :=
  .next (s.writeReg o (cellPa c (CR.SEM_VAL k.toNat)) 4 v.toNat)

/-- RU_FACC_WRITE (R151): between two RU instructions, each of which is one step. -/
def execRuFaccWrite (o : Origin) (c : CellId) (i : Fin 4) (v : Word) (s : State) : Out :=
  .next (s.writeReg o (cellPa c (CR.RU_FACC i.val)) 8 v.toNat)

/-- MX_SELFTEST (R97). -/
def execMxSelftest (o : Origin) (c : CellId) (v : Half) (s : State) : Out :=
  .next (s.writeReg o (cellPa c CR.MX_SELFTEST) 4 v.toNat)

/-- SX_RESUME (R304). -/
def execSxResume (o : Origin) (c : CellId) (n : Fin 6) (s : State) : Out :=
  .next (s.writeReg o (cellPa c (CR.SX_D_CTRL n.val)) 8 1)

/-- SX_ABANDON (R304). -/
def execSxAbandon (o : Origin) (c : CellId) (n : Fin 6) (s : State) : Out :=
  .next (s.writeReg o (cellPa c (CR.SX_D_CTRL n.val)) 8 2)

/-- SX_SHARE_WRITE (R299). -/
def execSxShareWrite (o : Origin) (c : CellId) (v : Half) (s : State) : Out :=
  .next (s.writeReg o (cellPa c CR.SX_SHARE) 4 v.toNat)

/-- Q_CFG_WRITE (R312, R317). -/
def execQCfgWrite (o : Origin) (c : CellId) (q : BitVec 4) (v : Word) (s : State) : Out :=
  .next (s.writeReg o (cellPa c (CR.Q_CFG q.toNat)) 8 v.toNat)

/-- WIN_CFG_WRITE (R215). -/
def execWinCfgWrite (o : Origin) (n : CellId) (v : Half) (s : State) : Out :=
  .next (s.writeReg o (FR.HR_WIN_CFG n.val) 4 v.toNat)

/-- HR_UNPIN (R232). -/
def execHrUnpin (o : Origin) (v : Half) (s : State) : Out := .next (s.writeReg o FR.HR_UNPIN 4 v.toNat)

/-- PR_RESOLVE (R264): TR_PRSP with status 0. -/
def execPrResolve (o : Origin) (req : BitVec 16) (s : State) : Out := .next (s.writeReg o FR.TR_PRSP 8 req.toNat)

/-- PR_REFUSE (R264): TR_PRSP with status 1. -/
def execPrRefuse (o : Origin) (req : BitVec 16) (s : State) : Out :=
  .next (s.writeReg o FR.TR_PRSP 8 (2 ^ 16 + req.toNat))

/-- TR_INVAL_RANGE (R259): TR_INVAL without all. -/
def execTrInvalRange (o : Origin) (v : Word) (s : State) : Out :=
  .next (s.writeReg o FR.TR_INVAL 8 (v.toNat % 2 ^ 63))

/-- TR_INVAL_ALL (R259): TR_INVAL with all. -/
def execTrInvalAll (o : Origin) (v : Word) (s : State) : Out :=
  .next (s.writeReg o FR.TR_INVAL 8 (2 ^ 63 + v.toNat % 2 ^ 63))

/-- RC_RELEASE_COMMIT (R352). -/
def execRcReleaseCommit (o : Origin) (s : State) : Out := .next (s.writeReg o FR.RC_RELEASE 4 1)

/-- RC_RELEASE_DISCARD (R352). -/
def execRcReleaseDiscard (o : Origin) (s : State) : Out := .next (s.writeReg o FR.RC_RELEASE 4 2)

/-- SHARD_EXPORT (R360 to R362): the write of RX_JOB, or the job's next record. -/
def execShardExport (start : Option (Origin × Word)) (s : State) : Out :=
  match start with
  | some q => .next (s.writeReg q.1 FR.RX_JOB 8 q.2.toNat)
  | none => .next (s.jobStep 1)

/-- SHARD_IMPORT (R360, R361, R363): the write of RX_JOB, or the job's next record. -/
def execShardImport (start : Option (Origin × Word)) (s : State) : Out :=
  match start with
  | some q => .next (s.writeReg q.1 FR.RX_JOB 8 q.2.toNat)
  | none => .next (s.jobStep 2)

/-- CAPTURE (R360, R364, R365): the write of RX_JOB. What an armed capture gathers comes with the step it records; what
of it waited goes on. -/
def execCapture (start : Option (Origin × Word)) (s : State) : Out :=
  match start with
  | some q => .next (s.writeReg q.1 FR.RX_JOB 8 q.2.toNat)
  | none => .next s.resumeJob

/-- REPLAY (R360, R366, R367): the write of RX_JOB, with what the capture holds (log entry 9), or the replay's next host
input. -/
def execReplay (start : Option (Origin × Word)) (cap : CapIn) (s : State) : Out :=
  match start with
  | some q => .next (s.writeReg q.1 FR.RX_JOB 8 q.2.toNat cap)
  | none => .next s.resumeJob.replayInput

/-- CE_ARM (R388). -/
def execCeArm (o : Origin) (cid : BitVec 12) (first : BitVec 32) (s : State) : Out :=
  .next (s.writeReg o FR.CE_ARM 8 (cid.toNat + first.toNat * 2 ^ 32))

/-- CE_DISARM (R388). -/
def execCeDisarm (o : Origin) (cid : BitVec 12) (s : State) : Out :=
  .next (s.writeReg o FR.CE_ARM 8 (cid.toNat + 2 ^ 31))

/-- CE_ABORT (R402). -/
def execCeAbort (o : Origin) (cid : BitVec 12) (s : State) : Out := .next (s.writeReg o FR.CE_ABORT 8 cid.toNat)

/-- QUEUE_CFG_WRITE (R418). -/
def execQueueCfgWrite (o : Origin) (q : Fin 64) (v : Half) (s : State) : Out :=
  .next (s.writeReg o (FR.HI_Q_CFG q.val) 4 v.toNat)

/-- CP_SLEEP (R443): CP_CTRL.sleep written with 1. -/
def execCpSleep (o : Origin) (c : CellId) (s : State) : Out :=
  .next (s.writeReg o (cellPa c CR.CP_CTRL) 4 (((s.cell c).reg CR.CP_CTRL &&& 0xFFFF0004) + 2))

/-- PWR_WAKE (R443, R444). -/
def execPwrWake (o : Origin) (k : Fin 4) (v : Word) (s : State) : Out :=
  .next (s.writeReg o (FR.PWR_WAKE k.val) 8 v.toNat)

/-- PWR_HBM_SR (R446). -/
def execPwrHbmSr (o : Origin) (v : Half) (s : State) : Out := .next (s.writeReg o FR.PWR_HBM_SR 4 v.toNat)

/-- PWR_PHT_CLR (R463): PWR_CTRL.pht_clr written with 1. -/
def execPwrPhtClr (o : Origin) (s : State) : Out :=
  .next (s.writeReg o FR.PWR_CTRL 4 ((s.freg FR.PWR_CTRL &&& 0x7F08) + 2))

/-- RST_CELL (R507, R510). -/
def execRstCell (o : Origin) (k : Fin 4) (v : Word) (s : State) : Out :=
  .next (s.writeReg o (FR.RST_CELL k.val) 8 v.toNat)

/-- RST_BAND (R507, R510). -/
def execRstBand (o : Origin) (v : Half) (s : State) : Out := .next (s.writeReg o FR.RST_BAND 4 v.toNat)

/-- ALM_SEV_CLR (R499). -/
def execAlmSevClr (o : Origin) (s : State) : Out := .next (s.writeReg o FR.ALM_SEV_CLR 4 1)

end Sys2Proof.Machine
end

