-- ==== Sys2Proof/Machine/I3c.lean ====
section
/-! DEFINITION. The management commands of the I3C endpoint (R482 to R488). Every answer is a status byte with what
comes behind it: 0 success, 1 refused, 2 busy, 3 bad argument, 4 verification failed. -/

namespace Sys2Proof.Machine

/-- An answer of the endpoint (R483). -/
def State.i3c (s : State) (status : Nat) (bytes : List Byte := []) : State := s.answer (.i3c status bytes)

/-- The endpoint answers whenever the Vigil domain runs, and in END only what reads (R483, R487). -/
def State.i3cUp (s : State) : Bool := s.dev.stbyPg && s.dev.fw.otp.lc != 4

/-- A command that is answered only outside END. -/
def State.i3cCmd (s : State) (f : State → State) : Out := if s.i3cUp then .next (f s) else .next s

/-- GET_STATUS (R483): the bytes 0x00 to 0x6F of the system block. -/
def execGetStatus (s : State) : Out :=
  if !s.dev.stbyPg then .next s
  else .next (s.i3c 0 ((List.range 28).flatMap (fun i => leBytes 4 (s.readReg (0x30010000000 + 4 * i) 4))))

/-- READ_REG (R483). -/
def execReadReg (pa width : Nat) (s : State) : Out :=
  if !s.dev.stbyPg then .next s
  else if (width ≠ 4 && width ≠ 8) || pa % width ≠ 0 || pa < 0x30010000000 || 0x30020000000 ≤ pa then .next (s.i3c 3)
  else if inSecurity pa || !s.reachReg .root pa then .next (s.i3c 1)
  else
    let r := s.readBy .root pa width
    .next (r.1.i3c 0 (leBytes width r.2))

/-- SET_CAP (R447, R483). -/
def execSetCap (watts : Nat) (s : State) : Out :=
  s.i3cCmd fun s =>
    if 800 ≤ watts ∧ watts ≤ 2500 then (s.writeReg .root FR.PWR_CAP_W 4 watts).i3c 0 else s.i3c 3

/-- RESET (R483, R504): the answer goes out first. -/
def execReset (kind : Nat) (bs : List BringIn) (s : State) : Out :=
  s.i3cCmd fun s =>
    if kind = 0 then (s.i3c 0).deviceReset bs false
    else if kind = 1 then (s.i3c 0).deviceReset bs true
    else if kind = 2 then (s.i3c 0).floorReset bs
    else s.i3c 3

/-! ### Staged update (R484) -/

/-- A firmware command, which finds root firmware busy while an image is being written to the flash (log entry 227). -/
def State.fwCmd (s : State) (f : State → State) : Out :=
  s.i3cCmd fun s => if s.dev.fw.writing.isSome then s.i3c 2 else f s

/-- FW_STAGE_BEGIN (R483, R484). -/
def execFwStageBegin (ty len : Nat) (s : State) : Out :=
  s.fwCmd fun s =>
    if s.dev.fw.stage.isSome then s.i3c 1
    else if ty < 1 || 3 < ty || len < 4096 || 4096 + maxBody ty < len then s.i3c 3
    else (s.modFw (fun w => { w with stage := some { ty, len } })).i3c 0

/-- Bytes buffered in an open staging, where they fit. -/
def State.stageBytes (s : State) (off : Nat) (bs : List Byte) : State :=
  match s.dev.fw.stage with
  | none => s.i3c 1
  | some g =>
    if g.len < off + bs.length then s.i3c 3
    else (s.modFw (fun w => { w with stage := some { g with data := SMap.setRange ffByte g.data off bs } })).i3c 0

/-- FW_STAGE_DATA (R483). -/
def execFwStageData (off : Nat) (bytes : List Byte) (s : State) : Out :=
  s.fwCmd fun s => if 1024 < bytes.length then s.i3c 3 else s.stageBytes off bytes

/-- The bytes of a range of HBM as memory last held them. -/
def State.latestRange (s : State) (pa len : Nat) : List Byte :=
  (linesOf pa len).flatMap (fun q => s.latest (q.1 * 256 + q.2.1) q.2.2)

/-- FW_STAGE_HBM (R483): busy while a stack that holds the image is in self-refresh, or the host holds a part of it
modified (R37, R415); the read asks for the one's exit and the other's copy. -/
def execFwStageHbm (pa len : Nat) (s : State) : Out :=
  s.fwCmd fun s =>
    if !s.dev.mainOn then s.i3c 1
    else if hbmTop < pa + len then s.i3c 3
    else if (linesOf pa len).any (fun q => s.hostBlocks q.1 false != []) then (s.recallAll (linesOf pa len) false).i3c 2
    else match (linesOf pa len).findSome? (fun q => if s.absent q.1 then s.rawAsleep (q.1 * 256) else none) with
      | some i => (s.requestExit i).i3c 2
      | none => s.stageBytes 0 (s.latestRange pa len)

/-- FW_STAGE_END (R477, R483, R484): the staging is closed either way, and a verified image goes to the flash from now on. -/
def execFwStageEnd (s : State) : Out :=
  s.fwCmd fun s =>
    match s.dev.fw.stage with
    | none => s.i3c 1
    | some g =>
      let img := SMap.getRange ffByte g.data 0 g.len
      let s := s.modFw (fun w => { w with stage := none })
      if s.dev.fw.otp.verifies g.ty (img.take 4096) (img.drop 4096) then
        (s.modFw (fun w => { w with writing := some (g.ty, img) })).i3c 0
      else s.i3c 4

/-- FW_ACTIVATE (R478, R483). -/
def execFwActivate (flag : Bool) (bs : List BringIn) (s : State) : Out :=
  s.fwCmd fun s =>
    let s := (s.modFw (fun w => w.writeRecord { w.record with
      trySlot := w.idleSlot, tryPending := true, triesLeft := 3 })).i3c 0
    if flag then s.deviceReset bs false else s

/-- FW_CONFIRM (R483): refused where no try image runs. -/
def execFwConfirm (s : State) : Out :=
  s.fwCmd fun s =>
    match s.dev.fw.running with
    | some b =>
      if s.dev.fw.asTry then
        (s.modFw (fun w => { (w.writeRecord { w.record with active := b, tryPending := false, triesLeft := 0 }) with
          asTry := false })).i3c 0
      else s.i3c 1
    | none => s.i3c 1

/-- The svn of the running image of a type (R486). -/
def FwState.runningSvn (w : FwState) (ty : Nat) : Option Nat :=
  if ty = 1 then w.patchHeader.map Header.svn
  else if ty = 2 then w.serviceHeader.map Header.svn
  else w.platform.map Header.svn

/-- The floor of a type raised (R486). -/
def Otp.raise (o : Otp) (ty v : Nat) : Otp :=
  let f := o.floors
  { o with floors :=
      if ty = 1 then (max f.1 v, f.2) else if ty = 2 then (f.1, max f.2.1 v, f.2.2) else (f.1, f.2.1, max f.2.2 v) }

/-- FW_COMMIT_SVN (R483, R486): refused where no image of the type runs, or its svn exceeds the 64 bits of the
thermometer. -/
def execFwCommitSvn (ty : Nat) (s : State) : Out :=
  s.fwCmd fun s =>
    if ty < 1 || 3 < ty then s.i3c 3
    else match s.dev.fw.runningSvn ty with
      | some v => if v ≤ 64 then (s.modFw (fun w => { w with otp := w.otp.raise ty v })).i3c 0 else s.i3c 1
      | none => s.i3c 1

/-- FW_PATCH_SELECT (R483, R485): the index moves, and the reset loads the patch. -/
def execFwPatchSelect (slot : Nat) (bs : List BringIn) (s : State) : Out :=
  s.fwCmd fun s =>
    let w := s.dev.fw
    if 1 < slot then s.i3c 3
    else if w.otp.patchSlot == (slot == 1) || 32 ≤ w.otp.patchBits then s.i3c 1
    else if !w.good 1 (patchOff (slot == 1)) then s.i3c 4
    else
      let s := (s.modFw (fun w => { w with otp := { w.otp with patchBits := w.otp.patchBits + 1 } })).i3c 0
      s.loadPatch.1.deviceReset bs false

/-! ### Lifecycle (R488) -/

/-- The key against which a token for a transition verifies, and whether the port is JTAG, I3C or either. -/
def tokenKey (lc target : Nat) (jtag : Bool) : Option (List Byte) :=
  match lc, target with
  | 0, 1 => if jtag then some Config.mfgKey else none
  | 1, 2 => some Config.mfgKey
  | 2, 3 => if jtag then none else some Config.returnKey
  | _, _ => none

/-- Whether a token is for this chip and a transition from the present state on this port (R488). -/
def State.tokenFits (s : State) (t : TokenIn) (jtag : Bool) : Bool :=
  t.chip.toNat == s.freg FR.FL_CHIP_ID && (tokenKey s.dev.fw.otp.lc t.target jtag).isSome

/-- Whether a token's signature verifies. -/
def State.tokenOk (s : State) (t : TokenIn) (jtag : Bool) : Bool :=
  let lc := s.dev.fw.otp.lc
  match tokenKey lc t.target jtag with
  | some k => Config.ecdsaOk k (Config.tokenBytes lc t.target (s.freg FR.FL_CHIP_ID)) t.signature
  | none => false

/-- The lifecycle moves, by a device reset; before PRODUCTION becomes RETURNED, one with Memory Clear. -/
def State.moveLc (s : State) (target : Nat) (bs : List BringIn) : State :=
  let first := s.dev.fw.otp.lc == 2 && target == 3
  let s := if first then s.deviceReset bs true else s
  let s := s.modFw (fun w => { w with otp := { w.otp with lc := target } })
  s.deviceReset (if first then bs.tail else bs) false

/-- LC_TRANSITION (R483, R488). -/
def execLcTransition (t : TokenIn) (bs : List BringIn) (s : State) : Out :=
  s.i3cCmd fun s =>
    if !s.tokenFits t false then s.i3c 3
    else if !s.tokenOk t false then s.i3c 4
    else (s.i3c 0).moveLc t.target bs

/-- LC_END, phase 1 (R488): a nonce of 16 bytes. -/
def execLcEndPhase1 (s : State) : Out :=
  s.i3cCmd fun s =>
    let n := Config.nonce s.free % 2 ^ 128
    ((s.modFw (fun w => { w with endNonce := some (n, s.timeUs) })).i3c 0 (leBytes 16 n)).draw

/-- LC_END, phase 2 (R488): with that nonce within 10 s; keys and seed are erased. -/
def execLcEndPhase2 (nonce : BitVec 128) (bs : List BringIn) (s : State) : Out :=
  s.i3cCmd fun s =>
    match s.dev.fw.endNonce with
    | some n =>
      if n.1 = nonce.toNat && s.timeUs ≤ n.2 + 10000000 then
        let s := (s.modFw (fun w => { w with otp := { w.otp with lc := 4, erased := true } })).i3c 0
        s.deviceReset bs false
      else s.i3c 1
    | none => s.i3c 1

end Sys2Proof.Machine
end

