-- ==== Sys2Proof/Machine/Spdm.lean ====
section
/-! DEFINITION. SPDM (R490 to R493). Root firmware answers on the CXL DOE mailbox and over MCTP on I3C. What an answer
says is modelled, not the bytes of its message. -/

namespace Sys2Proof.Machine

/-- A request of root firmware's responder: answered where its transport works, and in END by none (R433, R483,
R487). -/
def State.spdmDo (s : State) (t : SpdmPort) (f : State → State × SpdmReply) : Out :=
  let up := match t with
    | .doe => s.dev.mainOn && s.hs.link != .down
    | .i3c => true
  if s.i3cUp && up then .next ((f s).1.answer (.spdm (f s).2)) else .next s

/-- A request that changes nothing but the answer. -/
def State.spdm (s : State) (t : SpdmPort) (f : State → SpdmReply) : Out := s.spdmDo t (fun s => (s, f s))

/-- The session of a transport. -/
def State.session (s : State) : SpdmPort → Session
  | .doe => s.dev.spdmDoe
  | .i3c => s.dev.spdmI3c

/-- The session of a transport replaced. -/
def State.setSession (s : State) (t : SpdmPort) (x : Session) : State :=
  match t with
  | .doe => { s with dev := { s.dev with spdmDoe := x } }
  | .i3c => { s with dev := { s.dev with spdmI3c := x } }

/-- Whether the identity key is the production key: in PRODUCTION and in RETURNED; in DEVELOP it is the development key
(R487). -/
def State.productionKey (s : State) : Bool := s.dev.fw.otp.lc != 1

/-- The certificate chain of slot 0, where it agrees with the identity key (R491); BLANK has no identity key. -/
def State.chain (s : State) : Option (List Byte) :=
  if s.dev.fw.otp.lc = 0 || s.dev.fw.otp.erased then none
  else Config.certChain s.productionKey (s.dev.fw.flashRead 0x60000 0x10000)

/-- An answer signed by the identity key (R491). -/
def State.signed (s : State) (kind nonce : Nat) (body : List Byte) : List Byte :=
  Config.identitySign s.productionKey (Config.transcript kind nonce body)

/-- GET_VERSION (R490): versions 1.2 and 1.3. -/
def execGetVersion (t : SpdmPort) (s : State) : Out := s.spdm t (fun _ => .version [0x12, 0x13])

/-- GET_CAPABILITIES (R490): no mutual authentication, no pre-shared keys. -/
def execGetCapabilities (t : SpdmPort) (s : State) : Out := s.spdm t (fun _ => .capabilities false false)

/-- NEGOTIATE_ALGORITHMS (R490): ECDSA P-384, SHA-384, ECDHE secp384r1 and AES-256-GCM, by their sizes. -/
def execNegotiateAlgorithms (t : SpdmPort) (s : State) : Out := s.spdm t (fun _ => .algorithms 384 384 384 256)

/-- GET_DIGESTS (R490, R491). -/
def execGetDigests (t : SpdmPort) (s : State) : Out :=
  s.spdm t (fun s => match s.chain with
    | some c => .digests [0] (Config.sha384 c)
    | none => .digests [] [])

/-- GET_CERTIFICATE (R491): slots but 0 are empty. -/
def execGetCertificate (t : SpdmPort) (slot : Fin 8) (s : State) : Out :=
  s.spdm t (fun s => match s.chain with
    | some c => if slot = 0 then .certificate c else .error
    | none => .error)

/-- CHALLENGE (R491). -/
def execChallenge (t : SpdmPort) (slot : Fin 8) (nonce : BitVec 256) (s : State) : Out :=
  s.spdm t (fun s => match s.chain with
    | some c => if slot = 0 then .challengeAuth (s.signed 1 nonce.toNat c) else .error
    | none => .error)

/-- The measurement blocks as they are answered (R489, R492, R493): block 5 shows an unlock at once, and block 16
carries the signature of the log, or none once the leaves are exhausted. -/
def State.measurements (s : State) : List MeasBlock :=
  let w := s.dev.fw
  w.blocks.map (fun b => ⟨b.1, b.2.1, if b.1 = 5 then s.modeBlock else b.2.2⟩) ++ [⟨16, 4, w.lmsSig⟩]

/-- GET_MEASUREMENTS (R491, R492): all blocks, or one; signed where the request carries a nonce. -/
def execGetMeasurements (t : SpdmPort) (index : Option Nat) (nonce : Option (BitVec 256)) (s : State) : Out :=
  s.spdm t (fun s =>
    let bs := match index with
      | none => s.measurements
      | some i => s.measurements.filter (fun b => b.index == i)
    if bs.isEmpty then .error
    else match nonce with
      | none => .measurements bs none
      | some n =>
        if s.dev.fw.otp.lc = 0 then .error
        else .measurements bs (some (s.signed 2 n.toNat (bs.flatMap (·.value)))))

/-- KEY_EXCHANGE (R490, R491): a session's handshake begins with the responder's fresh share, signed with the requester's;
a data object of the DOE mailbox has its bound (R433). -/
def execKeyExchange (t : SpdmPort) (slot : Fin 8) (pub : List Byte) (s : State) : Out :=
  s.spdmDo t (fun s =>
    if s.chain.isSome && slot = 0 && (t == .i3c || decide (pub.length ≤ doeLargest)) then
      let share := Config.ecdhShare s.free
      (State.draw (s.setSession t (.handshake (Config.ecdhSecret s.free pub))),
        .keyExchange share (s.signed 3 0 (pub ++ share)))
    else (s, .error))

/-- FINISH (R490): the requester's MAC is verified, and the session opens with the keys of its two directions. Another MAC
ends the handshake (log entry 229). -/
def execFinish (m : FinishIn) (s : State) : Out :=
  s.spdmDo m.port (fun s => match s.session m.port with
    | .handshake secret =>
      if m.mac = Config.finishMac secret then
        (s.setSession m.port (.opened (Config.aeadKey false secret, Config.aeadKey true secret)), .finish)
      else (s.setSession m.port .none, .error)
    | _ => (s, .error))

/-- HEARTBEAT (R490). -/
def execHeartbeat (t : SpdmPort) (s : State) : Out :=
  s.spdm t (fun s => match s.session t with
    | .opened _ => .heartbeat
    | _ => .error)

/-- END_SESSION (R490). -/
def execEndSession (t : SpdmPort) (s : State) : Out :=
  s.spdmDo t (fun s => match s.session t with
    | .opened _ => (s.setSession t .none, .ended)
    | _ => (s, .error))

end Sys2Proof.Machine
end

