-- ==== Sys2Proof/Machine/Debug.lean ====
section
/-! DEFINITION. The JTAG port and Lantern (R489, R511 to R514). An instruction that the lifecycle does not enable
selects BYPASS. -/

namespace Sys2Proof.Machine

/-- The JTAG state changed. -/
def State.modJtag (s : State) (f : JtagState → JtagState) : State :=
  { s with dev := { s.dev with jtag := f s.dev.jtag } }

/-- An instruction of the JTAG port (R511): the port works whenever the Vigil domain has power (R525). -/
def State.jtagOp (s : State) (code : Nat) (ok : Bool) (f : State → Out) : Out :=
  if !s.dev.stbyPg then .next s
  else if ok then f (s.modJtag (fun j => { j with ir := code }))
  else .next ((s.modJtag (fun j => { j with ir := 0x3F })).answer (.jtag 1 0))

/-- DBG_CHALLENGE and DBG_UNLOCK are enabled. -/
def State.mayUnlock (s : State) : Bool := s.blank || s.debugState

/-- BYPASS (R511). -/
def execBypass (s : State) : Out := s.jtagOp 0x3F true (fun s => .next (s.answer (.jtag 1 0)))

/-- IDCODE (R511). -/
def execIdcode (s : State) : Out := s.jtagOp 0x01 true (fun s => .next (s.answer (.jtag 32 0x10240B4F)))

/-- A signal number of Lantern that R513 reserves. -/
def ltnReserved (n : Nat) : Bool :=
  (0x010 ≤ n && n < 0x100) || (0x700 ≤ n && n < 0x7A0 && 6 ≤ n % 8) || (0x7A0 ≤ n && n < 0x800) ||
    (0x890 ≤ n && n < 0x900) || (0x904 ≤ n && n < 0xA00)

/-- The signal that Lantern's output i follows, and the power of two that divides it where it is a clock (R513, R514); none
where the output is driven low. -/
def State.lantern (s : State) (i : Fin 10) : Option (Nat × Nat) :=
  let r := (s.dev.jtag.ltn[i]).toNat
  if s.mayDebug && bitB r 15 && !ltnReserved (bits r 11 0) then some (bits r 11 0, bits r 14 12) else none

/-- The levels that the boundary register captures, by pin (log entry 222): none where the level is a Lantern signal, which
timing decides, or high impedance. -/
def State.pinLevels (s : State) : List (Option Bool) :=
  [s.devReady, s.thermtripN] ++
    (List.finRange 10).map (fun i => s.driven (2 + i.val) (if (s.lantern i).isSome then none else some false)) ++
    [some (!s.dev.rstLow), some (!s.dev.perstLow), some s.dev.stbyPg, some s.dev.mainPg]

/-- The boundary register as it is captured (R511). -/
def State.boundary (s : State) : Nat :=
  (List.range 16).foldl (fun v k =>
    match s.pinLevels.getD k none with
    | some b => putBits v (Config.boundaryPlace k) (Config.boundaryPlace k) (b2n b)
    | none => v) (Config.boundaryRest s.free % 2 ^ Config.boundaryLen)

/-- The boundary register captured and shifted out. -/
def State.capturePins (s : State) : State := (s.answer (.jtag Config.boundaryLen s.boundary)).draw

/-- SAMPLE/PRELOAD (R511): the pins are captured, and the values for the outputs are loaded. -/
def execSamplePreload (v : Nat) (s : State) : Out :=
  s.jtagOp 0x02 true (fun s => .next (s.capturePins.modJtag (fun j => { j with preload := v })))

/-- EXTEST (R511): the boundary register drives the outputs and captures the pins. -/
def execExtest (s : State) : Out := s.jtagOp 0x00 true (fun s => .next s.capturePins)

/-- CLAMP (R511): the boundary register drives the outputs, and the bypass register is selected. -/
def execClamp (s : State) : Out := s.jtagOp 0x04 true (fun s => .next (s.answer (.jtag 1 0)))

/-- HIGHZ (R511): the outputs are high-impedance, and the bypass register is selected. -/
def execHighz (s : State) : Out := s.jtagOp 0x05 true (fun s => .next (s.answer (.jtag 1 0)))

/-- DBG_CHALLENGE (R489, R511): FL_CHIP_ID with a fresh nonce of 32 bytes. -/
def execDbgChallenge (s : State) : Out :=
  s.jtagOp 0x10 s.mayUnlock (fun s =>
    let n := Config.nonce s.free % 2 ^ 256
    let s := (s.modJtag (fun j => { j with nonce := some n })).answer (.jtag 320 (s.freg FR.FL_CHIP_ID + n * 2 ^ 64))
    .next s.draw)

/-- A signature over the challenge (R489): the nonce is used up, and debug opens in DEVELOP and RETURNED. -/
def State.unlock (s : State) (sig : List Byte) : State :=
  match s.dev.jtag.nonce with
  | none => s
  | some n =>
    let s := s.modJtag (fun j => { j with nonce := none })
    if s.debugState && Config.ecdsaOk Config.debugKey (leBytes 8 (s.freg FR.FL_CHIP_ID) ++ leBytes 32 n) sig then
      if s.unlocked then s else (s.orFreg FR.SYS_LC 128).logEvent 0x0805 0 6 0 0 0
    else s

/-- DBG_UNLOCK (R488, R489, R511). -/
def execDbgUnlock (p : UnlockIn) (bs : List BringIn) (s : State) : Out :=
  s.jtagOp 0x11 s.mayUnlock (fun s =>
    match p with
    | .signature sig => .next (s.unlock sig)
    | .token t => .next (if s.tokenFits t true && s.tokenOk t true then s.moveLc t.target bs else s))

/-- The result of a debug access, for the next scan (R512). -/
def State.dbgDone (s : State) (data : Nat) (ok : Bool) : State :=
  s.modJtag (fun j => { j with dbgData := if ok then BitVec.ofNat 64 data else 0, dbgFail := !ok })

/-- A debug access to HBM, as memory last held it: it fails while the stack sleeps or the line is busy, and asks for
what it lacks. -/
def State.dbgHbm (s : State) (pa n v : Nat) (write : Bool) : State :=
  let la := pa / 256
  if s.lineBusy la write then (s.recall la write).dbgDone 0 false
  else match (if s.absent la then s.rawAsleep pa else none) with
    | some i => (s.requestExit i).dbgDone 0 false
    | none =>
      if write then (s.putLatest pa (clean (leBytes n v))).dbgDone 0 true
      else
        let d := if s.absent la then s.rawRead pa n else (s.line la).read (pa % 256) n
        let s := if s.absent la then s else s.homePath la
        s.dbgDone (leNat (plain d)) (d.all (fun b => !b.2))

/-- A debug access to a slice window. -/
def State.dbgWin (s : State) (c : CellId) (off n v : Nat) (write : Bool) : State :=
  match s.winCheck c off n with
  | .ok () =>
    let s := s.countBypass c (winLayer off)
    if write then (s.winWrite c off (clean (leBytes n v))).dbgDone 0 true
    else
      let d := s.winRead c off n
      s.dbgDone (leNat (plain d)) (d.all (fun b => !b.2))
  | .wait _ _ | .range => s.dbgDone 0 false

/-- A debug access to n bytes of the tag aperture (R247, R268): a read gives the tags there, a write is ignored. -/
def State.dbgTags (s : State) (pa n : Nat) (write : Bool) : State :=
  if write then s.dbgDone 0 true
  else
    let r := (List.range (n / 4)).foldl (fun (r : State × Option (List PByte)) i =>
      match r.2 with
      | none => r
      | some d =>
        let q := r.1.apertureRead (pa + 4 * i)
        (q.1, q.2.map (fun e => d ++ e))) (s, some [])
    match r.2 with
    | some d => r.1.dbgDone (leNat (plain d)) (!anyBad d)
    | none => r.1.dbgDone 0 false

/-- An access of n bytes at an address, with the host's authority (R512). -/
def State.dbgAccess (s : State) (pa n v : Nat) (write : Bool) : State :=
  if pa % n ≠ 0 || inSecurity pa then s.dbgDone 0 false
  else if inRegs pa then
    if !s.reachReg .debug pa || (write && (parts pa n v).any (fun p => fencedHost p.1)) then s.dbgDone 0 false
    else if write then (s.writeReg .debug pa n v).dbgDone 0 true
    else
      let r := s.readBy .debug pa n
      r.1.dbgDone r.2 true
  else if !s.dev.mainOn then s.dbgDone 0 false
  else match region pa with
    | .hbm => s.dbgHbm pa n v write
    | .window c off => s.dbgWin c off n v write
    | .tags => s.dbgTags pa n write
    | .host _ | .other => s.dbgDone 0 false

/-- DBG_ACCESS (R511, R512): the scan shifts out the last result, and starts the access that it shifts in. Its reserved bits
[60:52] are ignored (log entry 214). -/
def execDbgAccess (dr : BitVec 128) (s : State) : Out :=
  s.jtagOp 0x12 s.mayDebug (fun s =>
    let d := dr.toNat
    let j := s.dev.jtag
    let s := s.answer (.jtag 128 (j.dbgData.toNat * 2 ^ 64 + b2n j.dbgFail * 2 ^ 60))
    let pa := bits d 51 0
    let v := bits d 127 64
    match bits d 63 61 with
    | 0 => .next (s.dbgAccess pa 4 0 false)
    | 1 => .next (s.dbgAccess pa 8 0 false)
    | 2 => .next (s.dbgAccess pa 4 (v % 2 ^ 32) true)
    | 3 => .next (s.dbgAccess pa 8 v true)
    | _ => .next (s.dbgDone 0 false))

/-- LTN_SEL (R511, R513, R514). -/
def execLtnSel (i : Fin 10) (v : BitVec 16) (s : State) : Out :=
  s.jtagOp 0x13 s.mayDebug (fun s => .next (s.modJtag (fun j => { j with ltn := j.ltn.set i v })))

/-- MANUFACTURING_TEST (R511): enabled in BLANK alone, where the spec gives it no effect. -/
def execManufacturingTest (code : Fin 16) (s : State) : Out :=
  s.jtagOp (0x20 + code.val) s.blank (fun _ => .refused (.manufacturingTest code))

end Sys2Proof.Machine
end

