-- ==== Sys2Proof/Machine/InstrMatrix.lean ====
section
/-! DEFINITION. The meanings of the matrix instructions (R80 to R111, R198 to R202): each hands its instruction to the
sequencer of its cell, which dispatches it, and carries it out when it is the oldest (R163 to R168). -/

namespace Sys2Proof.Machine

/-- MMA (R36, R47, R48, R50). Carried out by `evalMma`. -/
def execMma (c : CellId) (f : SForm) (x : LForm) (u : Upset) (s : State) : Out :=
  .next (s.issue c { op := .mma, f, x, u })

/-- MMAT (R36, R59, R61, R62). Carried out by `evalMmat`. -/
def execMmat (c : CellId) (f : SForm) (x : LForm) (u : Upset) (s : State) : Out :=
  .next (s.issue c { op := .mmat, f, x, u })

/-- GFILL (R36, R59, R61, R77). Carried out by `evalGfill`. -/
def execGfill (c : CellId) (f : SForm) (x : LForm) (u : Upset) (s : State) : Out :=
  .next (s.issue c { op := .gfill, f, x, u })

/-- MMV (R36, R47, R59, R60). Carried out by `evalMmv`. -/
def execMmv (c : CellId) (f : SForm) (x : LForm) (u : Upset) (s : State) : Out :=
  .next (s.issue c { op := .mmv, f, x, u })

/-- MXLD (R80, R91, R110, R111). Carried out by `evalMxld`. -/
def execMxld (c : CellId) (f : SForm) (x : LForm) (u : Upset) (s : State) : Out :=
  .next (s.issue c { op := .mxld, f, x, u })

/-- MXST (R53, R54, R55, R56). Carried out by `evalMxst`. -/
def execMxst (c : CellId) (f : SForm) (x : LForm) (u : Upset) (s : State) : Out :=
  .next (s.issue c { op := .mxst, f, x, u })

end Sys2Proof.Machine
end

