-- ==== Sys2Proof/Machine/InstrScalar.lean ====
section
/-! DEFINITION. The meanings of the scalar, memory and control instructions (R190 to R195): each hands its instruction to the
sequencer of its cell, which dispatches it, and carries it out when it is the oldest (R163 to R168). -/

namespace Sys2Proof.Machine

/-- ALU (R191, R192). Carried out by `evalAlu`. -/
def execAlu (c : CellId) (f : SForm) (s : State) : Out := .next (s.issue c { op := .alu, f })

/-- ALUI (R191, R192). Carried out by `evalAlui`. -/
def execAlui (c : CellId) (f : SForm) (s : State) : Out := .next (s.issue c { op := .alui, f })

/-- MUL (R191). Carried out by `evalMul`. -/
def execMul (c : CellId) (f : SForm) (s : State) : Out := .next (s.issue c { op := .mul, f })

/-- MOVI (R191). Carried out by `evalMovi`. -/
def execMovi (c : CellId) (f : SForm) (s : State) : Out := .next (s.issue c { op := .movi, f })

/-- MOVHI (R191). Carried out by `evalMovi`. -/
def execMovhi (c : CellId) (f : SForm) (s : State) : Out := .next (s.issue c { op := .movi, f })

/-- LD (R191, R213, R214, R224). Carried out by `evalLd`. -/
def execLd (c : CellId) (f : Meets SForm Upset) (s : State) : Out := .next (s.issue c { op := .ld, f := f.arg, u := f.met })

/-- ST (R191, R273). Carried out by `evalSt`. -/
def execSt (c : CellId) (f : Meets SForm Upset) (s : State) : Out := .next (s.issue c { op := .st, f := f.arg, u := f.met })

/-- LDO (R119, R120, R191). Carried out by `evalLdo`. -/
def execLdo (c : CellId) (f : SForm) (u : Upset) (s : State) : Out := .next (s.issue c { op := .ldo, f, u })

/-- STO (R119, R191). Carried out by `evalSto`. -/
def execSto (c : CellId) (f : SForm) (u : Upset) (s : State) : Out := .next (s.issue c { op := .sto, f, u })

/-- SPF (R175, R191). Carried out by `evalSpf`. -/
def execSpf (c : CellId) (f : SForm) (s : State) : Out := .next (s.issue c { op := .spf, f })

/-- DLD (R190, R191). Carried out by `evalDld`. -/
def execDld (c : CellId) (f : SForm) (x : LForm) (u : Upset) (s : State) : Out :=
  .next (s.issue c { op := .dld, f, x, u })

/-- DLDM (R190, R191, R273). Carried out by `evalDldm`. -/
def execDldm (c : CellId) (f : SForm) (x : LForm) (u : Upset) (s : State) : Out :=
  .next (s.issue c { op := .dldm, f, x, u })

/-- DSTO (R191). Carried out by `evalDsto`. -/
def execDsto (c : CellId) (f : SForm) (x : LForm) (u : Upset) (s : State) : Out :=
  .next (s.issue c { op := .dsto, f, x, u })

/-- DSETW (R190, R191). Carried out by `evalDsetw`. -/
def execDsetw (c : CellId) (f : SForm) (x : LForm) (u : Upset) (s : State) : Out :=
  .next (s.issue c { op := .dsetw, f, x, u })

/-- DGETW (R191). Carried out by `evalDgetw`. -/
def execDgetw (c : CellId) (f : SForm) (x : LForm) (u : Upset) (s : State) : Out :=
  .next (s.issue c { op := .dgetw, f, x, u })

/-- BR (R191, R193). Carried out by `evalBr`. -/
def execBr (c : CellId) (f : BForm) (s : State) : Out :=
  .next (s.issue c { op := .br, f := { imm32 := f.off32, func := f.cond, rb := f.rb, ra := f.ra, rd := f.bhint } })

/-- BLOOP (R169, R170, R191). Carried out by `evalBloop`. -/
def execBloop (c : CellId) (f : BForm) (s : State) : Out :=
  .next (s.issue c { op := .bloop, f := { imm32 := f.off32, func := f.cond, rb := f.rb, ra := f.ra, rd := f.bhint } })

/-- JAL (R191). Carried out by `evalJal`. -/
def execJal (c : CellId) (f : SForm) (s : State) : Out := .next (s.issue c { op := .jal, f })

/-- JALR (R191). Carried out by `evalJalr`. -/
def execJalr (c : CellId) (f : SForm) (s : State) : Out := .next (s.issue c { op := .jalr, f })

/-- CSRR (R154, R191, R194, R246). Carried out by `evalCsrr`. -/
def execCsrr (c : CellId) (f : SForm) (s : State) : Out := .next (s.issue c { op := .csrr, f })

/-- CSRW (R154, R191, R194). Carried out by `evalCsrw`. -/
def execCsrw (c : CellId) (f : SForm) (s : State) : Out := .next (s.issue c { op := .csrw, f })

/-- NOP (R191). Carried out by `evalNop`. -/
def execNop (c : CellId) (f : SForm) (s : State) : Out := .next (s.issue c { op := .nop, f })

/-- BRK (R191). Carried out by `evalBrk`. -/
def execBrk (c : CellId) (f : SForm) (s : State) : Out := .next (s.issue c { op := .brk, f })

/-- TRET (R177, R191). Carried out by `evalTret`. -/
def execTret (c : CellId) (f : SForm) (s : State) : Out := .next (s.issue c { op := .tret, f })

end Sys2Proof.Machine
end

