-- ==== Sys2Proof/Machine/InstrStream.lean ====
section
/-! DEFINITION. The meanings of the semaphore, conveyor and stream instructions (R196, R197, R278 to R312): each hands its instruction to the
sequencer of its cell, which dispatches it, and carries it out when it is the oldest (R163 to R168). -/

namespace Sys2Proof.Machine

/-- SEMPOST (R196, R270, R278, R279). Carried out by `evalSempost`. -/
def execSempost (c : CellId) (f : SForm) (s : State) : Out := .next (s.issue c { op := .sempost, f })

/-- SEMWAIT (R196, R278, R280, R281). Carried out by `evalSemwait`. -/
def execSemwait (c : CellId) (f : SForm) (s : State) : Out := .next (s.issue c { op := .semwait, f })

/-- SEMPOSTR (R196, R270, R278, R279). Carried out by `evalSempostr`. -/
def execSempostr (c : CellId) (f : SForm) (s : State) : Out := .next (s.issue c { op := .sempostr, f })

/-- QPUSH (R196, R308, R309, R310). Carried out by `evalQpush`. -/
def execQpush (c : CellId) (f : SForm) (x : LForm) (u : Upset) (s : State) : Out :=
  .next (s.issue c { op := .qpush, f, x, u })

/-- QPOP (R196, R308, R310, R312). Carried out by `evalQpop`. -/
def execQpop (c : CellId) (f : SForm) (x : LForm) (u : Upset) (s : State) : Out :=
  .next (s.issue c { op := .qpop, f, x, u })

/-- QCNT (R196, R310). Carried out by `evalQcnt`. -/
def execQcnt (c : CellId) (f : SForm) (x : LForm) (u : Upset) (s : State) : Out :=
  .next (s.issue c { op := .qcnt, f, x, u })

/-- QMARK (R196, R310). Carried out by `evalQmark`. -/
def execQmark (c : CellId) (f : SForm) (x : LForm) (u : Upset) (s : State) : Out :=
  .next (s.issue c { op := .qmark, f, x, u })

/-- QREWIND (R196, R310, R312). Carried out by `evalQrewind`. -/
def execQrewind (c : CellId) (f : SForm) (x : LForm) (u : Upset) (s : State) : Out :=
  .next (s.issue c { op := .qrewind, f, x, u })

/-- QREL (R196, R310). Carried out by `evalQrel`. -/
def execQrel (c : CellId) (f : SForm) (x : LForm) (u : Upset) (s : State) : Out :=
  .next (s.issue c { op := .qrel, f, x, u })

/-- SXGO (R16, R117, R156, R163). Carried out by `evalSxgo`. -/
def execSxgo (c : CellId) (f : SForm) (x : LForm) (u : Upset) (s : State) : Out :=
  .next (s.issue c { op := .sxgo, f, x, u })

end Sys2Proof.Machine
end

