-- ==== Sys2Proof/Machine/InstrSystem.lean ====
section
/-! DEFINITION. The meanings of the training and system instructions (R187, R208 to R210, R342): each hands its instruction to the
sequencer of its cell, which dispatches it, and carries it out when it is the oldest (R163 to R168). -/

namespace Sys2Proof.Machine

/-- HVSUB_DELIVER (R16, R32, R164, R208). Carried out by `evalHvsub`. -/
def execHvsubDeliver (c : CellId) (f : SForm) (x : LForm) (u : Upset) (s : State) : Out :=
  .next (s.issue c { op := .hvsub, f, x, u })

/-- HVSUB_QUERY (R208, R342, R343). Carried out by `evalHvsub`. -/
def execHvsubQuery (c : CellId) (f : SForm) (x : LForm) (u : Upset) (s : State) : Out :=
  .next (s.issue c { op := .hvsub, f, x, u })

/-- EQNX (R35, R208, R209, R340). Carried out by `evalEqnx`. -/
def execEqnx (c : CellId) (f : SForm) (s : State) : Out := .next (s.issue c { op := .eqnx, f })

/-- BAR (R208, R209, R270). Carried out by `evalBar`. -/
def execBar (c : CellId) (f : SForm) (s : State) : Out := .next (s.issue c { op := .bar, f })

/-- PHASE (R187, R208). Carried out by `evalPhase`. -/
def execPhase (c : CellId) (f : SForm) (s : State) : Out := .next (s.issue c { op := .phase, f })

/-- PHASE_ANN (R187, R208). Carried out by `evalPhase`. -/
def execPhaseAnn (c : CellId) (f : SForm) (s : State) : Out := .next (s.issue c { op := .phase, f })

/-- FENCE (R208, R303). Carried out by `evalFence`. -/
def execFence (c : CellId) (f : SForm) (s : State) : Out := .next (s.issue c { op := .fence, f })

/-- FENCE_E (R208). Carried out by `evalFence`. -/
def execFenceE (c : CellId) (f : SForm) (s : State) : Out := .next (s.issue c { op := .fence, f })

/-- ISYNC (R156, R208). Carried out by `evalIsync`. -/
def execIsync (c : CellId) (f : SForm) (s : State) : Out := .next (s.issue c { op := .isync, f })

/-- YIELD (R185, R208). Carried out by `evalYield`. -/
def execYield (c : CellId) (f : SForm) (s : State) : Out := .next (s.issue c { op := .yield, f })

end Sys2Proof.Machine
end

