-- ==== Sys2Proof/Machine/InstrVector.lean ====
section
/-! DEFINITION. The meanings of the vector, function, reduction and softmax instructions (R122 to R149, R203 to R207): each hands its instruction to the
sequencer of its cell, which dispatches it, and carries it out when it is the oldest (R163 to R168). -/

namespace Sys2Proof.Machine

/-- VADD (R48, R50, R51, R53). Carried out by `evalVadd`. -/
def execVadd (c : CellId) (f : SForm) (x : LForm) (u : Upset) (s : State) : Out :=
  .next (s.issue c { op := .vadd, f, x, u })

/-- VSUB (R58, R124, R205). Carried out by `evalVsub`. -/
def execVsub (c : CellId) (f : SForm) (x : LForm) (u : Upset) (s : State) : Out :=
  .next (s.issue c { op := .vsub, f, x, u })

/-- VMUL (R58, R124, R205). Carried out by `evalVmul`. -/
def execVmul (c : CellId) (f : SForm) (x : LForm) (u : Upset) (s : State) : Out :=
  .next (s.issue c { op := .vmul, f, x, u })

/-- VFMA (R58, R122, R124, R203). Carried out by `evalVfma`. -/
def execVfma (c : CellId) (f : SForm) (x : LForm) (u : Upset) (s : State) : Out :=
  .next (s.issue c { op := .vfma, f, x, u })

/-- VFMAW (R58, R123, R124, R205). Carried out by `evalVfmaw`. -/
def execVfmaw (c : CellId) (f : SForm) (x : LForm) (u : Upset) (s : State) : Out :=
  .next (s.issue c { op := .vfmaw, f, x, u })

/-- VMIN (R49, R124, R205). Carried out by `evalVmin`. -/
def execVmin (c : CellId) (f : SForm) (x : LForm) (u : Upset) (s : State) : Out :=
  .next (s.issue c { op := .vmin, f, x, u })

/-- VMAX (R49, R124, R205). Carried out by `evalVmax`. -/
def execVmax (c : CellId) (f : SForm) (x : LForm) (u : Upset) (s : State) : Out :=
  .next (s.issue c { op := .vmax, f, x, u })

/-- VCMP (R49, R124, R205). Carried out by `evalVcmp`. -/
def execVcmp (c : CellId) (f : SForm) (x : LForm) (u : Upset) (s : State) : Out :=
  .next (s.issue c { op := .vcmp, f, x, u })

/-- VSEL (R124, R203, R205). Carried out by `evalVsel`. -/
def execVsel (c : CellId) (f : SForm) (x : LForm) (u : Upset) (s : State) : Out :=
  .next (s.issue c { op := .vsel, f, x, u })

/-- VMOV (R124, R205). Carried out by `evalVmov`. -/
def execVmov (c : CellId) (f : SForm) (x : LForm) (u : Upset) (s : State) : Out :=
  .next (s.issue c { op := .vmov, f, x, u })

/-- VABS (R124, R205). Carried out by `evalVabs`. -/
def execVabs (c : CellId) (f : SForm) (x : LForm) (u : Upset) (s : State) : Out :=
  .next (s.issue c { op := .vabs, f, x, u })

/-- VNEG (R124, R205). Carried out by `evalVneg`. -/
def execVneg (c : CellId) (f : SForm) (x : LForm) (u : Upset) (s : State) : Out :=
  .next (s.issue c { op := .vneg, f, x, u })

/-- VCVT (R48, R50, R51, R52). Carried out by `evalVcvt`. -/
def execVcvt (c : CellId) (f : SForm) (x : LForm) (u : Upset) (s : State) : Out :=
  .next (s.issue c { op := .vcvt, f, x, u })

/-- FEXP2 (R51, R52, R125, R126). Carried out by `evalFexp2`. -/
def execFexp2 (c : CellId) (f : SForm) (x : LForm) (u : Upset) (s : State) : Out :=
  .next (s.issue c { op := .fexp2, f, x, u })

/-- FLOG2 (R125, R127, R129, R130). Carried out by `evalFlog2`. -/
def execFlog2 (c : CellId) (f : SForm) (x : LForm) (u : Upset) (s : State) : Out :=
  .next (s.issue c { op := .flog2, f, x, u })

/-- FRCP (R125, R128, R129, R130). Carried out by `evalFrcp`. -/
def execFrcp (c : CellId) (f : SForm) (x : LForm) (u : Upset) (s : State) : Out :=
  .next (s.issue c { op := .frcp, f, x, u })

/-- FRSQ (R125, R128, R129, R130). Carried out by `evalFrsq`. -/
def execFrsq (c : CellId) (f : SForm) (x : LForm) (u : Upset) (s : State) : Out :=
  .next (s.issue c { op := .frsq, f, x, u })

/-- RSUM (R131, R132, R144, R147). Carried out by `evalRsum`. -/
def execRsum (c : CellId) (f : SForm) (x : LForm) (u : Upset) (s : State) : Out :=
  .next (s.issue c { op := .rsum, f, x, u })

/-- RSUMD (R131, R132, R206). Carried out by `evalRsumd`. -/
def execRsumd (c : CellId) (f : SForm) (x : LForm) (u : Upset) (s : State) : Out :=
  .next (s.issue c { op := .rsumd, f, x, u })

/-- RSSQ (R131, R132, R134, R206). Carried out by `evalRssq`. -/
def execRssq (c : CellId) (f : SForm) (x : LForm) (u : Upset) (s : State) : Out :=
  .next (s.issue c { op := .rssq, f, x, u })

/-- RMAX (R131, R133, R206). Carried out by `evalRmax`. -/
def execRmax (c : CellId) (f : SForm) (x : LForm) (u : Upset) (s : State) : Out :=
  .next (s.issue c { op := .rmax, f, x, u })

/-- RMIN (R131, R133, R206). Carried out by `evalRmin`. -/
def execRmin (c : CellId) (f : SForm) (x : LForm) (u : Upset) (s : State) : Out :=
  .next (s.issue c { op := .rmin, f, x, u })

/-- RAMAX (R131, R133, R206). Carried out by `evalRamax`. -/
def execRamax (c : CellId) (f : SForm) (x : LForm) (u : Upset) (s : State) : Out :=
  .next (s.issue c { op := .ramax, f, x, u })

/-- RFSTORE_SLOT (R134, R206). Carried out by `evalRfstore`. -/
def execRfstoreSlot (c : CellId) (f : SForm) (x : LForm) (u : Upset) (s : State) : Out :=
  .next (s.issue c { op := .rfstore, f, x, u })

/-- RFSTORE_REG (R134, R206). Carried out by `evalRfstore`. -/
def execRfstoreReg (c : CellId) (f : SForm) (x : LForm) (u : Upset) (s : State) : Out :=
  .next (s.issue c { op := .rfstore, f, x, u })

/-- RFCLR (R134, R206). Carried out by `evalRfclr`. -/
def execRfclr (c : CellId) (f : SForm) (x : LForm) (u : Upset) (s : State) : Out :=
  .next (s.issue c { op := .rfclr, f, x, u })

/-- VSMAX (R122, R126, R127, R132). Carried out by `evalVsmax`. -/
def execVsmax (c : CellId) (f : SForm) (x : LForm) (u : Upset) (s : State) : Out :=
  .next (s.issue c { op := .vsmax, f, x, u })

/-- VSMON (R126, R135, R136, R139). Carried out by `evalVsmon`. -/
def execVsmon (c : CellId) (f : SForm) (x : LForm) (u : Upset) (s : State) : Out :=
  .next (s.issue c { op := .vsmon, f, x, u })

/-- VSMFIN (R127, R142, R143, R144). Carried out by `evalVsmfin`. -/
def execVsmfin (c : CellId) (f : SForm) (x : LForm) (u : Upset) (s : State) : Out :=
  .next (s.issue c { op := .vsmfin, f, x, u })

end Sys2Proof.Machine
end

