-- ==== Sys2Proof/Machine/Dispatch.lean ====
section
/-! DEFINITION. One arm for each constructor of Instr, in the order of the opcode table. -/

namespace Sys2Proof.Machine

/-- What a command does (the queue of commands left as it is). -/
def exec (i : Instr) (s : State) : Host.Outcome State Fault Refusal :=
  match i with
  | .alu c f => Sys2Proof.Machine.execAlu c f s
  | .alui c f => Sys2Proof.Machine.execAlui c f s
  | .mul c f => Sys2Proof.Machine.execMul c f s
  | .movi c f => Sys2Proof.Machine.execMovi c f s
  | .movhi c f => Sys2Proof.Machine.execMovhi c f s
  | .ld c f => Sys2Proof.Machine.execLd c f s
  | .st c f => Sys2Proof.Machine.execSt c f s
  | .ldo c f u => Sys2Proof.Machine.execLdo c f u s
  | .sto c f u => Sys2Proof.Machine.execSto c f u s
  | .spf c f => Sys2Proof.Machine.execSpf c f s
  | .dld c f x u => Sys2Proof.Machine.execDld c f x u s
  | .dldm c f x u => Sys2Proof.Machine.execDldm c f x u s
  | .dsto c f x u => Sys2Proof.Machine.execDsto c f x u s
  | .dsetw c f x u => Sys2Proof.Machine.execDsetw c f x u s
  | .dgetw c f x u => Sys2Proof.Machine.execDgetw c f x u s
  | .br c f => Sys2Proof.Machine.execBr c f s
  | .bloop c f => Sys2Proof.Machine.execBloop c f s
  | .jal c f => Sys2Proof.Machine.execJal c f s
  | .jalr c f => Sys2Proof.Machine.execJalr c f s
  | .csrr c f => Sys2Proof.Machine.execCsrr c f s
  | .csrw c f => Sys2Proof.Machine.execCsrw c f s
  | .nop c f => Sys2Proof.Machine.execNop c f s
  | .brk c f => Sys2Proof.Machine.execBrk c f s
  | .tret c f => Sys2Proof.Machine.execTret c f s
  | .sempost c f => Sys2Proof.Machine.execSempost c f s
  | .semwait c f => Sys2Proof.Machine.execSemwait c f s
  | .sempostr c f => Sys2Proof.Machine.execSempostr c f s
  | .qpush c f x u => Sys2Proof.Machine.execQpush c f x u s
  | .qpop c f x u => Sys2Proof.Machine.execQpop c f x u s
  | .qcnt c f x u => Sys2Proof.Machine.execQcnt c f x u s
  | .qmark c f x u => Sys2Proof.Machine.execQmark c f x u s
  | .qrewind c f x u => Sys2Proof.Machine.execQrewind c f x u s
  | .qrel c f x u => Sys2Proof.Machine.execQrel c f x u s
  | .sxgo c f x u => Sys2Proof.Machine.execSxgo c f x u s
  | .mma c f x u => Sys2Proof.Machine.execMma c f x u s
  | .mmat c f x u => Sys2Proof.Machine.execMmat c f x u s
  | .gfill c f x u => Sys2Proof.Machine.execGfill c f x u s
  | .mmv c f x u => Sys2Proof.Machine.execMmv c f x u s
  | .mxld c f x u => Sys2Proof.Machine.execMxld c f x u s
  | .mxst c f x u => Sys2Proof.Machine.execMxst c f x u s
  | .vadd c f x u => Sys2Proof.Machine.execVadd c f x u s
  | .vsub c f x u => Sys2Proof.Machine.execVsub c f x u s
  | .vmul c f x u => Sys2Proof.Machine.execVmul c f x u s
  | .vfma c f x u => Sys2Proof.Machine.execVfma c f x u s
  | .vfmaw c f x u => Sys2Proof.Machine.execVfmaw c f x u s
  | .vmin c f x u => Sys2Proof.Machine.execVmin c f x u s
  | .vmax c f x u => Sys2Proof.Machine.execVmax c f x u s
  | .vcmp c f x u => Sys2Proof.Machine.execVcmp c f x u s
  | .vsel c f x u => Sys2Proof.Machine.execVsel c f x u s
  | .vmov c f x u => Sys2Proof.Machine.execVmov c f x u s
  | .vabs c f x u => Sys2Proof.Machine.execVabs c f x u s
  | .vneg c f x u => Sys2Proof.Machine.execVneg c f x u s
  | .vcvt c f x u => Sys2Proof.Machine.execVcvt c f x u s
  | .fexp2 c f x u => Sys2Proof.Machine.execFexp2 c f x u s
  | .flog2 c f x u => Sys2Proof.Machine.execFlog2 c f x u s
  | .frcp c f x u => Sys2Proof.Machine.execFrcp c f x u s
  | .frsq c f x u => Sys2Proof.Machine.execFrsq c f x u s
  | .rsum c f x u => Sys2Proof.Machine.execRsum c f x u s
  | .rsumd c f x u => Sys2Proof.Machine.execRsumd c f x u s
  | .rssq c f x u => Sys2Proof.Machine.execRssq c f x u s
  | .rmax c f x u => Sys2Proof.Machine.execRmax c f x u s
  | .rmin c f x u => Sys2Proof.Machine.execRmin c f x u s
  | .ramax c f x u => Sys2Proof.Machine.execRamax c f x u s
  | .rfstoreSlot c f x u => Sys2Proof.Machine.execRfstoreSlot c f x u s
  | .rfstoreReg c f x u => Sys2Proof.Machine.execRfstoreReg c f x u s
  | .rfclr c f x u => Sys2Proof.Machine.execRfclr c f x u s
  | .vsmax c f x u => Sys2Proof.Machine.execVsmax c f x u s
  | .vsmon c f x u => Sys2Proof.Machine.execVsmon c f x u s
  | .vsmfin c f x u => Sys2Proof.Machine.execVsmfin c f x u s
  | .hvsubDeliver c f x u => Sys2Proof.Machine.execHvsubDeliver c f x u s
  | .hvsubQuery c f x u => Sys2Proof.Machine.execHvsubQuery c f x u s
  | .eqnx c f => Sys2Proof.Machine.execEqnx c f s
  | .bar c f => Sys2Proof.Machine.execBar c f s
  | .phase c f => Sys2Proof.Machine.execPhase c f s
  | .phaseAnn c f => Sys2Proof.Machine.execPhaseAnn c f s
  | .fence c f => Sys2Proof.Machine.execFence c f s
  | .fenceE c f => Sys2Proof.Machine.execFenceE c f s
  | .isync c f => Sys2Proof.Machine.execIsync c f s
  | .yield c f => Sys2Proof.Machine.execYield c f s
  | .yieldExpiry c => Sys2Proof.Machine.execYieldExpiry c s
  | .faultDelivery c imBad => Sys2Proof.Machine.execFaultDelivery c imBad s
  | .loopMispredict c => Sys2Proof.Machine.execLoopMispredict c s
  | .runAheadEntry c => Sys2Proof.Machine.execRunAheadEntry c s
  | .runAheadLimit c => Sys2Proof.Machine.execRunAheadLimit c s
  | .sqStart o c => Sys2Proof.Machine.execSqStart o c s
  | .sqHalt o c => Sys2Proof.Machine.execSqHalt o c s
  | .arrayLend c => Sys2Proof.Machine.execArrayLend c s
  | .arrayReturn c => Sys2Proof.Machine.execArrayReturn c s
  | .barrierComplete k => Sys2Proof.Machine.execBarrierComplete k s
  | .semwaitSatisfied c k => Sys2Proof.Machine.execSemwaitSatisfied c k s
  | .heldPostDelivery c => Sys2Proof.Machine.execHeldPostDelivery c s
  | .semValWrite o c k v => Sys2Proof.Machine.execSemValWrite o c k v s
  | .ruFaccWrite o c j v => Sys2Proof.Machine.execRuFaccWrite o c j v s
  | .mxSelftest o c v => Sys2Proof.Machine.execMxSelftest o c v s
  | .selftestDone c d => Sys2Proof.Machine.execSelftestDone c d s
  | .gfillLimitExpiry c => Sys2Proof.Machine.execGfillLimitExpiry c s
  | .sxAccept c => Sys2Proof.Machine.execSxAccept c s
  | .linkEmptyTake c n => Sys2Proof.Machine.execLinkEmptyTake c n s
  | .microTransferDone c n => Sys2Proof.Machine.execMicroTransferDone c n s
  | .sxTransferComplete c n => Sys2Proof.Machine.execSxTransferComplete c n s
  | .sxResume o c n => Sys2Proof.Machine.execSxResume o c n s
  | .sxAbandon o c n => Sys2Proof.Machine.execSxAbandon o c n s
  | .sxShareWrite o c v => Sys2Proof.Machine.execSxShareWrite o c v s
  | .shareWindow c => Sys2Proof.Machine.execShareWindow c s
  | .conveyorItemWrite c q p => Sys2Proof.Machine.execConveyorItemWrite c q p s
  | .qCfgWrite o c q v => Sys2Proof.Machine.execQCfgWrite o c q v s
  | .coherentRead c pa n e => Sys2Proof.Machine.execCoherentRead c pa n e s
  | .coherentWrite c pa bytes e => Sys2Proof.Machine.execCoherentWrite c pa bytes e s
  | .homeRead a pa n cls e => Sys2Proof.Machine.execHomeRead a pa n cls e s
  | .homeWrite a pa bytes cls e => Sys2Proof.Machine.execHomeWrite a pa bytes cls e s
  | .reductionContribution la k => Sys2Proof.Machine.execReductionContribution la k s
  | .reductionApply la => Sys2Proof.Machine.execReductionApply la s
  | .homeEviction n j => Sys2Proof.Machine.execHomeEviction n j s
  | .lineFill la tck e => Sys2Proof.Machine.execLineFill la tck e s
  | .writebackAck la => Sys2Proof.Machine.execWritebackAck la s
  | .winCfgWrite o n v => Sys2Proof.Machine.execWinCfgWrite o n v s
  | .winResizeDone n => Sys2Proof.Machine.execWinResizeDone n s
  | .hrUnpin o v => Sys2Proof.Machine.execHrUnpin o v s
  | .vportCrcError n j v => Sys2Proof.Machine.execVportCrcError n j v s
  | .layerRetire n => Sys2Proof.Machine.execLayerRetire n s
  | .pageWalkDone a va write exec => Sys2Proof.Machine.execPageWalkDone a va write exec s
  | .prResolve o req => Sys2Proof.Machine.execPrResolve o req s
  | .prRefuse o req => Sys2Proof.Machine.execPrRefuse o req s
  | .prTimeout req => Sys2Proof.Machine.execPrTimeout req s
  | .trInvalRange o v => Sys2Proof.Machine.execTrInvalRange o v s
  | .trInvalAll o v => Sys2Proof.Machine.execTrInvalAll o v s
  | .invalDone => Sys2Proof.Machine.execInvalDone s
  | .atsInvalidate page n => Sys2Proof.Machine.execAtsInvalidate page n s
  | .priResponse page ok => Sys2Proof.Machine.execPriResponse page ok s
  | .tagApertureRead pa => Sys2Proof.Machine.execTagApertureRead pa s
  | .scrubRead blk corrected bad => Sys2Proof.Machine.execScrubRead blk corrected bad s
  | .hbmRefresh j => Sys2Proof.Machine.execHbmRefresh j s
  | .updateGroupDone l g => Sys2Proof.Machine.execUpdateGroupDone l g s
  | .stepDecision => Sys2Proof.Machine.execStepDecision s
  | .equinoxBarrier => Sys2Proof.Machine.execEquinoxBarrier s
  | .lendStarved k => Sys2Proof.Machine.execLendStarved k s
  | .fingerprintExchange others aborted => Sys2Proof.Machine.execFingerprintExchange others aborted s
  | .bisectionRound r => Sys2Proof.Machine.execBisectionRound r s
  | .rcReleaseCommit o => Sys2Proof.Machine.execRcReleaseCommit o s
  | .rcReleaseDiscard o => Sys2Proof.Machine.execRcReleaseDiscard o s
  | .dxSinkWrite k => Sys2Proof.Machine.execDxSinkWrite k s
  | .applyRecord peer => Sys2Proof.Machine.execApplyRecord peer s
  | .shardExport start => Sys2Proof.Machine.execShardExport start s
  | .shardImport start => Sys2Proof.Machine.execShardImport start s
  | .capture start => Sys2Proof.Machine.execCapture start s
  | .replay start cap => Sys2Proof.Machine.execReplay start cap s
  | .jobEnd => Sys2Proof.Machine.execJobEnd s
  | .anResolved p j ok => Sys2Proof.Machine.execAnResolved p j ok s
  | .anTimeout p j => Sys2Proof.Machine.execAnTimeout p j s
  | .trainingDone p j ok => Sys2Proof.Machine.execTrainingDone p j ok s
  | .alignLock p j => Sys2Proof.Machine.execAlignLock p j s
  | .alignTimeout p j => Sys2Proof.Machine.execAlignTimeout p j s
  | .alignmentLoss p j => Sys2Proof.Machine.execAlignmentLoss p j s
  | .fecErrorRate p j corrected bad total => Sys2Proof.Machine.execFecErrorRate p j corrected bad total s
  | .faultRetry p j => Sys2Proof.Machine.execFaultRetry p j s
  | .hello h hi => Sys2Proof.Machine.execHello h hi s
  | .helloRetry node => Sys2Proof.Machine.execHelloRetry node s
  | .helloTimeout node => Sys2Proof.Machine.execHelloTimeout node s
  | .data h payload poison => Sys2Proof.Machine.execData h payload poison s
  | .ack h a => Sys2Proof.Machine.execAck h a s
  | .ready h digest => Sys2Proof.Machine.execReady h digest s
  | .abortFrame h status rank => Sys2Proof.Machine.execAbortFrame h status rank s
  | .ackTimer node => Sys2Proof.Machine.execAckTimer node s
  | .retransmitTimeout node => Sys2Proof.Machine.execRetransmitTimeout node s
  | .pfcFrame p j prio quanta => Sys2Proof.Machine.execPfcFrame p j prio quanta s
  | .ceArm o cid first => Sys2Proof.Machine.execCeArm o cid first s
  | .ceDisarm o cid => Sys2Proof.Machine.execCeDisarm o cid s
  | .instanceTrigger cid => Sys2Proof.Machine.execInstanceTrigger cid s
  | .instanceComplete k => Sys2Proof.Machine.execInstanceComplete k s
  | .ceAbort o cid => Sys2Proof.Machine.execCeAbort o cid s
  | .receiverDetach k rank timed => Sys2Proof.Machine.execReceiverDetach k rank timed s
  | .sqDoorbell q v => Sys2Proof.Machine.execSqDoorbell q v s
  | .cqDoorbell q v => Sys2Proof.Machine.execCqDoorbell q v s
  | .queueCfgWrite o q v => Sys2Proof.Machine.execQueueCfgWrite o q v s
  | .commandFetch entry => Sys2Proof.Machine.execCommandFetch entry s
  | .nopCommand k => Sys2Proof.Machine.execNopCommand k s
  | .cellStart k => Sys2Proof.Machine.execCellStart k s
  | .cellHalt k => Sys2Proof.Machine.execCellHalt k s
  | .cellReset k => Sys2Proof.Machine.execCellReset k s
  | .bandReset k => Sys2Proof.Machine.execBandReset k s
  | .imLoad k => Sys2Proof.Machine.execImLoad k s
  | .copy k => Sys2Proof.Machine.execCopy k s
  | .fill k => Sys2Proof.Machine.execFill k s
  | .semPost k => Sys2Proof.Machine.execSemPost k s
  | .completionWrite k => Sys2Proof.Machine.execCompletionWrite k s
  | .postTrigger => Sys2Proof.Machine.execPostTrigger s
  | .mailboxPublish src => Sys2Proof.Machine.execMailboxPublish src s
  | .mailboxAck m v => Sys2Proof.Machine.execMailboxAck m v s
  | .hdmRead hpa => Sys2Proof.Machine.execHdmRead hpa s
  | .hdmWrite hpa data be poison keep => Sys2Proof.Machine.execHdmWrite hpa data be poison keep s
  | .bisnpResponse blk dirty => Sys2Proof.Machine.execBisnpResponse blk dirty s
  | .hostSnoop blk inv => Sys2Proof.Machine.execHostSnoop blk inv s
  | .doeRequest r => Sys2Proof.Machine.execDoeRequest r s
  | .functionLevelReset => Sys2Proof.Machine.execFunctionLevelReset s
  | .cxlReset b => Sys2Proof.Machine.execCxlReset b s
  | .cxlResetMemoryClear b => Sys2Proof.Machine.execCxlResetMemoryClear b s
  | .powerInterval j => Sys2Proof.Machine.execPowerInterval j s
  | .powerMeasurement watts uj => Sys2Proof.Machine.execPowerMeasurement watts uj s
  | .measurementLost => Sys2Proof.Machine.execMeasurementLost s
  | .voltageRampDone => Sys2Proof.Machine.execVoltageRampDone s
  | .droopTrip c => Sys2Proof.Machine.execDroopTrip c s
  | .droopEnd c => Sys2Proof.Machine.execDroopEnd c s
  | .dozeEntry c => Sys2Proof.Machine.execDozeEntry c s
  | .dozeWake c => Sys2Proof.Machine.execDozeWake c s
  | .cpSleep o c => Sys2Proof.Machine.execCpSleep o c s
  | .pwrWake o k v => Sys2Proof.Machine.execPwrWake o k v s
  | .wakeAdmission => Sys2Proof.Machine.execWakeAdmission s
  | .cellWakeDone c => Sys2Proof.Machine.execCellWakeDone c s
  | .pwrHbmSr o v => Sys2Proof.Machine.execPwrHbmSr o v s
  | .hbmIdleSelfRefresh j => Sys2Proof.Machine.execHbmIdleSelfRefresh j s
  | .hbmSrExitDone j => Sys2Proof.Machine.execHbmSrExitDone j s
  | .pwrPhtClr o => Sys2Proof.Machine.execPwrPhtClr o s
  | .railCheck rails sensors => Sys2Proof.Machine.execRailCheck rails sensors s
  | .pllLockLoss => Sys2Proof.Machine.execPllLockLoss s
  | .droopRecalibrate c => Sys2Proof.Machine.execDroopRecalibrate c s
  | .hbmRetrain j => Sys2Proof.Machine.execHbmRetrain j s
  | .stbyPgRise => Sys2Proof.Machine.execStbyPgRise s
  | .stbyPgFall => Sys2Proof.Machine.execStbyPgFall s
  | .mainPgRise b => Sys2Proof.Machine.execMainPgRise b s
  | .mainPgFall => Sys2Proof.Machine.execMainPgFall s
  | .vin48Low => Sys2Proof.Machine.execVin48Low s
  | .devRstAssert => Sys2Proof.Machine.execDevRstAssert s
  | .devRstRelease b => Sys2Proof.Machine.execDevRstRelease b s
  | .cxlPerstAssert => Sys2Proof.Machine.execCxlPerstAssert s
  | .cxlPerstRelease b => Sys2Proof.Machine.execCxlPerstRelease b s
  | .bringupStepTimeout b => Sys2Proof.Machine.execBringupStepTimeout b s
  | .serviceFwTimeout b => Sys2Proof.Machine.execServiceFwTimeout b s
  | .rstCell o k v => Sys2Proof.Machine.execRstCell o k v s
  | .rstBand o v => Sys2Proof.Machine.execRstBand o v s
  | .fatalError source cause => Sys2Proof.Machine.execFatalError source cause s
  | .almanacRingCopy => Sys2Proof.Machine.execAlmanacRingCopy s
  | .almSevClr o => Sys2Proof.Machine.execAlmSevClr o s
  | .getStatus => Sys2Proof.Machine.execGetStatus s
  | .readReg pa width => Sys2Proof.Machine.execReadReg pa width s
  | .setCap watts => Sys2Proof.Machine.execSetCap watts s
  | .reset kind b => Sys2Proof.Machine.execReset kind b s
  | .fwStageBegin ty len => Sys2Proof.Machine.execFwStageBegin ty len s
  | .fwStageData off bytes => Sys2Proof.Machine.execFwStageData off bytes s
  | .fwStageHbm pa len => Sys2Proof.Machine.execFwStageHbm pa len s
  | .fwStageEnd => Sys2Proof.Machine.execFwStageEnd s
  | .fwActivate flag b => Sys2Proof.Machine.execFwActivate flag b s
  | .fwConfirm => Sys2Proof.Machine.execFwConfirm s
  | .fwCommitSvn ty => Sys2Proof.Machine.execFwCommitSvn ty s
  | .fwPatchSelect slot b => Sys2Proof.Machine.execFwPatchSelect slot b s
  | .lcTransition t b => Sys2Proof.Machine.execLcTransition t b s
  | .lcEndPhase1 => Sys2Proof.Machine.execLcEndPhase1 s
  | .lcEndPhase2 nonce b => Sys2Proof.Machine.execLcEndPhase2 nonce b s
  | .getVersion t => Sys2Proof.Machine.execGetVersion t s
  | .getCapabilities t => Sys2Proof.Machine.execGetCapabilities t s
  | .negotiateAlgorithms t => Sys2Proof.Machine.execNegotiateAlgorithms t s
  | .getDigests t => Sys2Proof.Machine.execGetDigests t s
  | .getCertificate t slot => Sys2Proof.Machine.execGetCertificate t slot s
  | .challenge t slot nonce => Sys2Proof.Machine.execChallenge t slot nonce s
  | .getMeasurements t index nonce => Sys2Proof.Machine.execGetMeasurements t index nonce s
  | .keyExchange t slot pub => Sys2Proof.Machine.execKeyExchange t slot pub s
  | .finish m => Sys2Proof.Machine.execFinish m s
  | .heartbeat t => Sys2Proof.Machine.execHeartbeat t s
  | .endSession t => Sys2Proof.Machine.execEndSession t s
  | .bypass => Sys2Proof.Machine.execBypass s
  | .idcode => Sys2Proof.Machine.execIdcode s
  | .samplePreload v => Sys2Proof.Machine.execSamplePreload v s
  | .extest => Sys2Proof.Machine.execExtest s
  | .clamp => Sys2Proof.Machine.execClamp s
  | .highz => Sys2Proof.Machine.execHighz s
  | .dbgChallenge => Sys2Proof.Machine.execDbgChallenge s
  | .dbgUnlock p b => Sys2Proof.Machine.execDbgUnlock p b s
  | .dbgAccess dr => Sys2Proof.Machine.execDbgAccess dr s
  | .ltnSel j v => Sys2Proof.Machine.execLtnSel j v s
  | .manufacturingTest code => Sys2Proof.Machine.execManufacturingTest code s
  | .registerWrite o t width v => Sys2Proof.Machine.execRegisterWrite o t width v s
  | .engineInstructionComplete c => Sys2Proof.Machine.execEngineInstructionComplete c s
  | .atsTranslationCompletion page r => Sys2Proof.Machine.execAtsTranslationCompletion page r s

end Sys2Proof.Machine
end

