-- ==== Sys2Proof/Safety.lean ====
section
/-! DEFINITION. The terms in which claims are stated: the canonical form of memory, a cell that can carry out an
instruction at once, what the commit of an instruction leaves of a state, and which parts of the state a command may
change. -/

namespace Sys2Proof.Machine

/-- The keys of a list of pairs rise strictly. -/
def rising {α : Type} : SMap α → Bool
  | [] => true
  | (a, _) :: m => SMap.above a m && rising m

/-- The canonical form of memory: HBM bytes and tile tags are listed with rising keys and only where they differ from
what an unlisted one reads as, the host bytes that the device has written with rising keys, and the lines that the
Hirrium layers hold with rising keys and only where there is one. -/
def Memory.wf (m : MemState) : Bool :=
  SMap.wf m.hbmDef m.hbm && SMap.wf m.synDef m.tagSyn && rising m.host && SMap.wf (fun _ => ({} : Line)) m.lines

/-- Cell c carries out the next instruction of its program at once: its sequencer runs, nothing is in flight, it is
not in run-ahead, its array is not lent, no halt has been requested, no Harvest submit of it is open, and the word that
it fetches next is not one of IM that keeps an uncorrectable error (R157, R163, R165, R174, R182, R186). Its registers are listed in their canonical form, as they are in every state that a run reaches. -/
structure Ready (c : CellId) (s : State) : Prop where
  runs : (s.cell c).running = true
  idle : (s.cell c).window = []
  normal : (s.cell c).runahead = none
  owned : (s.cell c).lent = false
  noHalt : bitB ((s.cell c).reg CR.SQ_CTRL) 1 = false
  noSubmit : s.hvBusy c = false
  canon : SMap.wf cellResetVal (s.cell c).regs = true
  sound : (s.cell c).imBadAt (s.cell c).npc.toNat = false

/-- The same for an instruction of the long form, whose second word is fetched as well (R158). -/
structure ReadyLong (c : CellId) (s : State) : Prop extends Ready c s where
  sound2 : (s.cell c).imBadAt (secondWord (s.cell c).npc.toNat) = false

/-- The registers that the commit of an instruction counts in (R157, R180, R300). -/
def commitCounters : List Nat := [CR.SQ_RETIRED_CNT, CR.SQ_ACTIVE_CNT, CR.SQ_IFETCH_MISS_CNT]

/-- State t is state s with cell c as the cell x and continuing at pc, but for the counters ks, of which
SQ_RETIRED_CNT counts one instruction, and for the draws that give the lengths of waits: every other part of the
machine is as it was. -/
def Retires (ks : List Nat) (c : CellId) (s : State) (x : Cell) (pc : Word) (t : State) : Prop :=
  t.cell c = { x with regs := (t.cell c).regs, npc := pc, window := [], runahead := none, stuck := none } ∧
  (∀ o, o ∉ ks → (t.cell c).reg o = x.reg o) ∧
  (t.cell c).reg CR.SQ_RETIRED_CNT = (x.reg CR.SQ_RETIRED_CNT + 1) % 2 ^ 64 ∧
  (∀ d, d ≠ c → t.cell d = s.cell d) ∧
  t = { s with cells := t.cells, free := t.free }

/-- The same for an instruction with a completion post (R189): the post of 1 to psem follows where pen is 1. -/
def RetiresPosting (ks : List Nat) (c : CellId) (s : State) (x : Cell) (pc : Word) (f : LForm) (t : State) : Prop :=
  ∃ u, Retires ks c s x pc u ∧ t = u.completionPost c f.pen f.psem

/-- The counters that a wait of the oldest instruction may count in (R186, R300). -/
def stallCounters : List Nat :=
  [CR.SX_STALL_DATA_CNT, CR.SX_STALL_SEM_CNT, CR.SX_STALL_XLAT_CNT, CR.SX_STALL_QFULL_CNT]

/-- Cell c has one instruction in flight, e, and can carry it out: its sequencer runs, the instruction holds no fault
and no unresolved prediction, fetch goes on where it is predicted to lead, no halt has been requested, and no Harvest
submit of the cell is open. -/
structure Holds (c : CellId) (s : State) (e : InFlight) : Prop where
  runs : (s.cell c).running = true
  only : (s.cell c).window = [e]
  sound : e.fault = none
  resolved : e.pred = none ∧ e.wrong = none
  follows : ∀ p, e.next = some p → (s.cell c).npc = p
  waited : ∀ o, e.waited = some o → o ∈ stallCounters
  noHalt : bitB ((s.cell c).reg CR.SQ_CTRL) 1 = false
  noSubmit : s.hvBusy c = false
  canon : SMap.wf cellResetVal (s.cell c).regs = true

/-- The counters of the commit of e: those of every commit, and where it has waited the counter of its wait. -/
def countersOf (e : InFlight) : List Nat := e.waited.toList ++ commitCounters

/-- No cell has an instruction in flight, no working copy is left to be made again and no record to be written, so that nothing
goes on after what the command does. -/
structure Still (s : State) : Prop where
  empty : ∀ c, (s.cell c).window = []
  done : s.hv.remake = []
  settled : s.mem.posted = []

/-- A write from o reaches the register at pa: the port and the domain of the register work, and no fence is in the
way (R246, R438, R481). -/
def Reaches (o : Origin) (s : State) (pa : Nat) : Prop :=
  s.reachReg o pa = true ∧
  match o with
  | .service _ => fencedService pa = false
  | .host | .debug => fencedHost pa = false
  | .root | .ownCell => True

/-- Cell x with instruction i as the only one in flight. -/
def Cell.holding (x : Cell) (i : Ins) : Cell :=
  { x with window := [x.entry i], npc := (x.entry i).next.getD x.npc, retStack := (x.predict x.npc i false).2
           stuck := none }

/-- The state in which cell c carries out instruction i, which it has just dispatched. -/
def State.carrying (s : State) (c : CellId) (i : Ins) : State := s.setCell c ((s.cell c).holding i)

/-- Cell c once its instruction has met the OC errors u (R120): corrected ones are counted, and slots with an
uncorrectable one are poisoned. -/
def State.upsetCell (s : State) (c : CellId) (u : Upset) : Cell := (s.ocUpset c u).cell c

/-- The registers of a cell in which numeric events are noted (R67 to R76). -/
def numericRegs : List Nat :=
  [CR.NUM_STATUS, CR.MX_STATUS, CR.VX_STATUS, CR.NUM_EVT_NV_CNT, CR.NUM_EVT_OF_CNT, CR.NUM_EVT_UF_CNT,
   CR.NUM_EVT_DZ_CNT, CR.NUM_EVT_MS_CNT, CR.NUM_LOG_DROP_CNT, CR.MX_NUM_LOC, CR.MX_NUM_LOC_PC, CR.VX_NUM_LOC,
   CR.VX_NUM_LOC_PC]

/-- The end of a tensor instruction that raised the numeric flags fl (R67, R145, R168, R189): state t is state s with
cell c as the cell x and continuing at pc, but for its counters ks, those of the commit and the numeric registers,
where NUM_STATUS has taken the flags, for the records of the Almanac that the flags may cause (R76), and for draws;
then its completion post is made. -/
def TensorDone (ks : List Nat) (fl : Nat) (c : CellId) (s : State) (x : Cell) (pc : Word) (f : LForm) (t : State) :
    Prop :=
  ∃ u : State, t = u.completionPost c f.pen f.psem ∧
    u.cell c = { x with regs := (u.cell c).regs, npc := pc, window := [], runahead := none, stuck := none } ∧
    (∀ o, o ∉ ks ++ numericRegs ++ commitCounters → (u.cell c).reg o = x.reg o) ∧
    (u.cell c).reg CR.NUM_STATUS = x.reg CR.NUM_STATUS ||| fl ∧
    (∀ d, d ≠ c → u.cell d = s.cell d) ∧
    u = { s with cells := u.cells, fregs := u.fregs, alm := u.alm, hs := u.hs, free := u.free }

/-- What an element-wise instruction i of cell c does, by the operands and the function of w (R67, R123, R205): element
j of the result is the function of the elements j of its operands, and the flags are those that any element raises. It
holds where no operand is malformed or poisoned, the destination meets no source, and no flag raised is trapped. -/
def Elementwise.Holds (w : Elementwise) (op : Op) (i : Instr) (c : CellId) (s : State) (f : SForm) (x : LForm)
    (u : Upset) : Prop :=
  let y := s.upsetCell c u
  let n := f.imm32.toNat / 2 ^ 12 % 2 ^ 16 + 1
  let slot := f.imm32.toNat % 2 ^ 12
  let kind (k : Nat) : Nat := x.ext.toNat / 4 ^ k % 4
  ∀ a b k d, y.vsource (kind 0) x.oc_a.toNat x.acc f.ra w.fa 1 n = .ok a →
    (if w.useB then y.vsource (kind 1) x.oc_b.toNat 0 f.rb w.fb 1 n = .ok b else b = ⟨[], []⟩) →
    (if w.useC then y.vsource (kind 2) x.oc_c.toNat 0 f.rd w.fc 1 n = .ok k else k = ⟨[], []⟩) →
    ocDest slot (n * w.fd.esize) n w.fd.esize = .ok d → badOverlap [d] (a.reg ++ b.reg ++ k.reg) = none →
    let r (j : Nat) : Nat × Flags :=
      w.fn ((a.rows.headD []).getD j 0) ((b.rows.headD []).getD j 0) ((k.rows.headD []).getD j 0)
    let fl := ((List.range n).foldl (fun (g : Flags) j => g.or (r j).2) Flags.none).toNat
    fl &&& y.reg CR.NUM_TRAP_EN = 0 →
    ∃ t z, exec i s = .next t ∧
      TensorDone [w.counter, CR.OC_PORT_WAIT_CNT] fl c s z (nextPc (s.cell c).npc op) x t ∧
      z = { y with oc := z.oc, ocPoison := z.ocPoison } ∧
      z.oc = (y.ocWrite (64 * slot) ((List.range n).flatMap (fun j => leBytes w.fd.esize (r j).1))).oc

/-- The element-wise instructions in one format (R124): what each makes of its elements, and which operands it reads. -/
def ewTable : List (Op × (CellId → SForm → LForm → Upset → Instr) × Bool × Bool × (Fmt → Nat → Nat → Nat → Nat × Flags)) :=
  [(.vadd, .vadd, true, false, fun f a b _ => fAdd f a b),
   (.vsub, .vsub, true, false, fun f a b _ => fSub f a b),
   (.vmul, .vmul, true, false, fun f a b _ => fMul f a b),
   (.vfma, .vfma, true, true, fun f a b c => fFma f a b c),
   (.vmin, .vmin, true, false, fun f a b _ => (fMinMax f false a b, .none)),
   (.vmax, .vmax, true, false, fun f a b _ => (fMinMax f true a b, .none)),
   (.vmov, .vmov, false, false, fun f a _ _ => (fCopy f a, .none)),
   (.vabs, .vabs, false, false, fun f a _ _ => (fAbs f a, .none)),
   (.vneg, .vneg, false, false, fun f a _ _ => (fNeg f a, .none))]

/-- The reductions (R131): what each makes of a row, and the bytes of its result. -/
def redTable : List (Op × (CellId → SForm → LForm → Upset → Instr) × RedFn × Nat) :=
  [(.rsum, .rsum, .sum, 4), (.rsumd, .rsumd, .sumd, 8), (.rssq, .rssq, .ssq, 8), (.rmax, .rmax, .max, 4),
   (.rmin, .rmin, .min, 4), (.ramax, .ramax, .amax, 8)]

/-- The functions of ALU and ALUI as the table of R192 lists them: func, and the result for a and b. -/
def aluTable : List (BitVec 7 × (Word → Word → Word)) :=
  [(0x00, fun a b => a + b), (0x01, fun a b => a - b), (0x02, fun a b => a &&& b), (0x03, fun a b => a ||| b),
   (0x04, fun a b => a ^^^ b), (0x05, fun a b => a <<< (b.extractLsb' 0 6).toNat),
   (0x06, fun a b => a >>> (b.extractLsb' 0 6).toNat), (0x07, fun a b => a.sshiftRight (b.extractLsb' 0 6).toNat),
   (0x08, fun a b => if a.toInt < b.toInt then 1 else 0), (0x09, fun a b => if a.toNat < b.toNat then 1 else 0),
   (0x0A, fun a b => if a.toInt < b.toInt then a else b), (0x0B, fun a b => if a.toInt < b.toInt then b else a),
   (0x0C, fun a b => if a.toNat < b.toNat then a else b), (0x0D, fun a b => if a.toNat < b.toNat then b else a)]

/-- The canonical form of a state: its registers are listed with rising keys and only where they differ from their reset
values, so that equal states are equal data; its memory is in its canonical form; and so are the list of paused
interfaces (R377), the mailboxes (R427) and the flash (R475). -/
def State.wf (s : State) : Bool :=
  SMap.wf floorResetVal s.fregs && s.cells.all (fun x => SMap.wf cellResetVal x.regs) && Memory.wf s.mem &&
    (SMap.wf (fun _ => 0) s.fl.paused && SMap.wf (fun _ => ({} : Mailbox)) s.hs.boxes &&
      SMap.wf ffByte s.dev.fw.flash)

/-- Nothing that OTP o holds is taken back in OTP p (R485 to R488): the lifecycle state goes on or is END, floors and thermometers
rise, a revoked key slot stays revoked, and erased keys stay erased. -/
def Otp.keeps (o p : Otp) : Prop :=
  (p.lc = 4 ∨ o.lc ≤ p.lc) ∧ (∀ k, o.revoked.getLsbD k = true → p.revoked.getLsbD k = true) ∧ (∀ ty, o.floor ty ≤ p.floor ty) ∧
    o.patchBits ≤ p.patchBits ∧ o.lmsBlocks ≤ p.lmsBlocks ∧ (o.erased = true → p.erased = true)

end Sys2Proof.Machine
end

