-- ==== Sys2Proof/Certificates/Slice0/Obligations.lean ====
section
/-! DEFINITION. The statements for the provers. -/

open Sys2Proof Sys2Proof.Machine

/-- A step takes the command at the front of the queue and runs it on the state with the queue's rest; on an empty queue
the block idles (the model's choice, log entry 1). -/
def Obligations.StepRunsTheFrontCommand : Prop :=
  ∀ (s : State) (c : Instr) (rest : List Instr),
    (s.pending = c :: rest → step s = exec c { s with pending := rest }) ∧ (s.pending = [] → step s = .next s)

/-- R42, R181, R186, R243, R276, R298, R408, R438, R463: right after a cold reset no supply is good and nothing is
READY, every cell is ASLEEP and halted, with no fault, no slot in use and no conveyor enabled, every stack is in
self-refresh, the link is down, and the registers read the reset values that their tables give. -/
def Obligations.ResetState : Prop :=
  let s := State.reset
  (∀ c, (s.cell c).cp.st = .asleep ∧ (s.cell c).mode = .halted ∧ (s.cell c).inHandler = false ∧
    (s.cell c).window = [] ∧ (∀ n, (s.cell c).slot n = none) ∧ (∀ q, ((s.cell c).conv q).en = false) ∧
    (∀ k, (s.cell c).sem k = {}) ∧
    (∀ p ∈ [(CR.SQ_CTRL, 0xE0), (CR.SQ_YIELD_LIMIT, 1024), (CR.SX_SHARE, 0x141E32), (CR.SQ_FAULT_CAUSE, 0),
      (CR.NUM_STATUS, 0), (CR.MX_STATUS, 0)], (s.cell c).reg p.1 = p.2)) ∧
  (∀ k < 20, s.stackSr k = true) ∧ s.dev.stbyPg = false ∧ s.dev.mainPg = false ∧ s.dev.ready = false ∧ s.hs.link = .down ∧
  s.hv = {} ∧ s.ce = {} ∧ s.rx = {} ∧ s.pending = [] ∧
  (∀ p ∈ [(FR.HR_MODE, 1), (FR.HR_PIN_CAP, 73728), (FR.TR_PRQ_CFG, 8), (FR.TR_PR_TIMEOUT, 100), (FR.HBM_SCRUB_CFG, 24),
    (FR.PWR_CAP_W, 2500), (FR.PWR_HOST_CAP_W, 2500), (FR.PWR_THERM_CFG, 105), (FR.HV_LS_STATE, 16),
    (FR.HV_CLIP_THR, 0x7FF0000000000000), (FR.HV_LEND_WARN, 100), (FR.FL_ETYPE, 0x88B5), (FR.CE_FLOOR_W, 150),
    (FR.RST_STATUS, 0), (FR.TR_STATUS, 0), (FR.HI_POST_CFG, 6)], s.freg p.1 = p.2)

/-- The state after reset is in its canonical form: every register map lists its registers in order and only where they
differ from their reset values, and memory lists nothing that reads as an unlisted address does. -/
def Obligations.ResetIsCanonical : Prop :=
  State.reset.wf = true ∧ State.reset.mem.hbm = [] ∧ (∀ a, State.reset.freg a = (floorResetVal a).toNat) ∧
    ∀ c a, (State.reset.cell c).reg a = (cellResetVal a).toNat

/-- Every step keeps the canonical form of registers and memory, from every state that has it. -/
def Obligations.StepKeepsCanonicalForm : Prop :=
  ∀ s t : State, s.wf = true → step s = .next t → t.wf = true

/-- R485 to R488: no step takes back what OTP holds: the lifecycle state never goes back, the minimum security versions
and the patch-slot thermometer never fall, a revoked key slot stays revoked, and erased keys stay erased. -/
def Obligations.OtpIsOnlyBlown : Prop :=
  ∀ s t : State, s.wf = true → step s = .next t → Otp.keeps s.dev.fw.otp t.dev.fw.otp

/-- The commands that wait leave the queue first in, first out: a step takes the one at the front and changes nothing of
the others. -/
def Obligations.CommandsWaitInOrder : Prop :=
  ∀ s t : State, s.wf = true → step s = .next t → t.pending = s.pending.tail

/-- R191, R192: on a ready cell, each legal form of ALU, ALUI, MUL, MOVI and MOVHI retires with its result in rd (a
write to s0 is discarded, R153), and changes nothing else. A func of ALU or ALUI that the table does not list is an
illegal instruction. -/
def Obligations.ScalarArithmeticResults : Prop :=
  ∀ (c : CellId) (s : State) (f : SForm), Ready c s →
    let x := s.cell c
    let a := x.rdS f.ra
    let b := x.rdS f.rb
    let imm := f.imm32.signExtend 64
    let sets (o : Op) (j : Instr) (v : Word) : Prop :=
      ∃ t, exec j s = .next t ∧ Retires commitCounters c s (x.wrS f.rd v) (nextPc x.npc o) t
    (∀ e ∈ aluTable, f.func = e.1 →
      (f.imm32 = 0 → sets .alu (.alu c f) (e.2 a b)) ∧ (f.rb = 0 → sets .alui (.alui c f) (e.2 a imm))) ∧
    ((∀ e ∈ aluTable, f.func ≠ e.1) → ∀ i ∈ [Instr.alu c f, Instr.alui c f],
      ∃ t h q, exec i s = .next t ∧ (t.cell c).window = [h] ∧ h.pc = x.npc ∧ h.fault = some q ∧ q.cause = 0x01 ∧
        (t.cell c).s = x.s ∧ ∀ d, d ≠ c → t.cell d = s.cell d) ∧
    (f.imm32 = 0 →
      (f.func = 0 → sets .mul (.mul c f) (a * b)) ∧
      (f.func = 1 → sets .mul (.mul c f) (BitVec.ofInt 64 (a.toInt * b.toInt / 2 ^ 64))) ∧
      (f.func = 2 → sets .mul (.mul c f) (BitVec.ofNat 64 (a.toNat * b.toNat / 2 ^ 64)))) ∧
    (f.func = 0 → f.ra = 0 → f.rb = 0 → sets .movi (.movi c f) imm) ∧
    (f.func = 1 → f.rb = 0 → sets .movi (.movhi c f) (f.imm32 ++ a.extractLsb' 0 32))

/-- R120, R191: LDO loads 1, 2, 4 or 8 bytes of OC, zero- or sign-extended, and STO stores the low bytes of rb there and
nowhere else; the address, ra plus the sign-extended immediate, is a multiple of the size and lies inside OC, and no
slot that a load reads is poisoned. -/
def Obligations.OcLoadsAndStores : Prop :=
  ∀ (c : CellId) (s : State) (f : SForm) (u : Upset), Ready c s →
    let x := s.upsetCell c u
    let a := (x.rdS f.ra + f.imm32.signExtend 64).toNat
    let n := 2 ^ (f.func.toNat % 4)
    a % n = 0 → a < 0x40000 →
    (f.rb = 0 → f.func.toNat < 7 → x.ocBad a n = false →
      ∃ t, exec (.ldo c f u) s = .next t ∧
        Retires commitCounters c s (x.wrS f.rd (if f.func.getLsbD 2 then BitVec.ofInt 64 (sgn (8 * n) (leNat (x.ocRead a n)))
          else BitVec.ofNat 64 (leNat (x.ocRead a n)))) (nextPc (s.cell c).npc .ldo) t) ∧
    (f.rd = 0 → f.func.toNat < 4 →
      ∃ t, exec (.sto c f u) s = .next t ∧
        Retires commitCounters c s (x.ocWrite a (leBytes n (x.rdS f.rb).toNat)) (nextPc (s.cell c).npc .sto) t ∧
        ∀ b, b < a ∨ a + n ≤ b → (t.cell c).ocRead b 1 = (s.cell c).ocRead b 1)

/-- R191, R220, R241, R251, R262: an aligned load of coherent space, LD or DLDM, whose bytes the translated access
returns without poison writes them to rd, extended, or to d[dsel]; a store, ST, retires with the state that its access
leaves. What the hardware finds in memory as it reads is met first; what memory itself does is in the state s1 that the
access leaves. -/
def Obligations.CoherentLoadsAndStores : Prop :=
  ∀ (c : CellId) (s s1 : State) (f : SForm) (x : LForm) (u : Upset) (d : List PByte), Ready c s →
    let a := ((s.cell c).rdS f.ra + f.imm32.signExtend 64).toNat
    let n := 2 ^ (f.func.toNat % 4)
    let pc := (s.cell c).npc
    (f.rb = 0 → f.func.toNat < 7 → a % n = 0 →
      ((s.carrying c { op := .ld, f, u }).readUpset c u).vread { agent := .cell c, va := a } n = .ok s1 d → anyBad d = false →
      ∃ t, exec (.ld c ⟨f, u⟩) s = .next t ∧
        Retires (CR.SX_STALL_DATA_CNT :: commitCounters) c s1
          ((s1.cell c).wrS f.rd (loadValue (plain d) (f.func.getLsbD 2))) (nextPc pc .ld) t) ∧
    (f.rd = 0 → f.func.toNat < 4 → a % n = 0 →
      ((s.carrying c { op := .st, f, u }).readUpset c u).vwrite { agent := .cell c, va := a }
        (clean (leBytes n ((s.cell c).rdS f.rb).toNat)) = .ok s1 () →
      ∃ t, exec (.st c ⟨f, u⟩) s = .next t ∧ Retires commitCounters c s1 (s1.cell c) (nextPc pc .st) t) ∧
    (ReadyLong c s → f.rb = 0 → f.rd = 0 → f.func = 0 → lOnly x { dsel := true } = true → a % 64 = 0 →
      ((s.carrying c { op := .dldm, f, x, u }).readUpset c u).vread { agent := .cell c, va := a } 64 = .ok s1 d → anyBad d = false →
      ∃ t, exec (.dldm c f x u) s = .next t ∧
        RetiresPosting (CR.SX_STALL_DATA_CNT :: commitCounters) c s1
          ((s1.cell c).wrD x.dsel (BitVec.ofNat 512 (leNat (plain d)))) (nextPc pc .dldm) x t)

/-- R120, R190, R191: DLD takes a slot of OC that is not poisoned into d[dsel], DSTO stores d[dsel] there, DSETW and
DGETW move word ext[2:0] of d[dsel] from and to a scalar register; each retires and makes its completion post. -/
def Obligations.DescriptorMoves : Prop :=
  ∀ (c : CellId) (s : State) (f : SForm) (x : LForm) (u : Upset), ReadyLong c s →
    let y := s.upsetCell c u
    let z := s.cell c
    let w := x.ext.toNat
    (sOnly f {} = true → lOnly x { a := true, dsel := true } = true → y.ocBad (64 * x.oc_a.toNat) 64 = false →
      ∃ t, exec (.dld c f x u) s = .next t ∧
        RetiresPosting commitCounters c s (y.wrD x.dsel (y.ocSlot x.oc_a.toNat)) (nextPc z.npc .dld) x t) ∧
    (sOnly f {} = true → lOnly x { a := true, dsel := true } = true →
      ∃ t, exec (.dsto c f x u) s = .next t ∧
        RetiresPosting commitCounters c s (z.ocWrite (64 * x.oc_a.toNat) (leBytes 64 (z.rdD x.dsel).toNat))
          (nextPc z.npc .dsto) x t) ∧
    (sOnly f { ra := true } = true → lOnly x { dsel := true, ext := true } = true → w < 8 →
      ∃ t v, exec (.dsetw c f x u) s = .next t ∧
        RetiresPosting commitCounters c s (z.wrD x.dsel v) (nextPc z.npc .dsetw) x t ∧
        ∀ j, j < 8 → v.extractLsb' (64 * j) 64 = if j = w then z.rdS f.ra else (z.rdD x.dsel).extractLsb' (64 * j) 64) ∧
    (sOnly f { rd := true } = true → lOnly x { dsel := true, ext := true } = true → w < 8 →
      ∃ t, exec (.dgetw c f x u) s = .next t ∧
        RetiresPosting commitCounters c s (z.wrS f.rd ((z.rdD x.dsel).extractLsb' (64 * w) 64)) (nextPc z.npc .dgetw) x t)

/-- R156, R175, R187, R191, R208, R303, R304: NOP and ISYNC change nothing but the counters of their commit, and SPF no other
cell: it may warm a translation or a line of memory, as State.warm says, and is dropped where it would wait. PHASE and
PHASE.ANN set their half of SQ_PHASE; FENCE goes on once no stream slot is in use, and FENCE.E at once. -/
def Obligations.HintsPhasesAndFences : Prop :=
  ∀ (c : CellId) (s : State) (f : SForm), Ready c s →
    let x := s.cell c
    (sOnly f {} = true → ∃ t, exec (.nop c f) s = .next t ∧ Retires commitCounters c s x (nextPc x.npc .nop) t) ∧
    (sOnly f { imm := true, ra := true } = true →
      ∃ t, exec (.spf c f) s = .next t ∧ (∀ d, d ≠ c → t.cell d = s.cell d) ∧
        Retires commitCounters c
          ((s.carrying c { op := .spf, f }).warm (x.rdS f.ra + f.imm32.signExtend 64).toNat) x (nextPc x.npc .spf) t) ∧
    (sOnly f {} = true → ∃ t, exec (.isync c f) s = .next t ∧ Retires commitCounters c s x (nextPc x.npc .isync) t) ∧
    (sOnly f { imm := true } = true → f.imm32.toNat < 2 ^ 16 →
      ∃ t, exec (.phase c f) s = .next t ∧
        Retires commitCounters c s (x.setReg CR.SQ_PHASE (putBits (x.reg CR.SQ_PHASE) 15 0 f.imm32.toNat))
          (nextPc x.npc .phase) t) ∧
    (sOnly f { imm := true, func := true } = true → f.func = 1 → f.imm32.toNat < 2 ^ 16 →
      ∃ t, exec (.phaseAnn c f) s = .next t ∧
        Retires commitCounters c s (x.setReg CR.SQ_PHASE (putBits (x.reg CR.SQ_PHASE) 31 16 f.imm32.toNat))
          (nextPc x.npc .phase) t) ∧
    (sOnly f {} = true → (∀ n, x.slot n = none) →
      ∃ t, exec (.fence c f) s = .next t ∧ Retires commitCounters c s x (nextPc x.npc .fence) t) ∧
    (sOnly f { func := true } = true → f.func = 1 →
      ∃ t, exec (.fenceE c f) s = .next t ∧ Retires commitCounters c s x (nextPc x.npc .fence) t)

/-- R169, R191, R193: where the branches lead. BR goes to PC + off32 where its condition holds and to the next
instruction otherwise; AL always goes, as predicted, and a cond that is not listed, or operands of AL, are illegal.
BLOOP decrements ra and branches while the result is not zero; JAL and JALR write the address of the next instruction to
rd, JALR after it has read its target, and push the return stack where rd is not s0. -/
def Obligations.BranchTargets : Prop :=
  ∀ (c : CellId) (s : State) (f : BForm) (g : SForm), Ready c s →
    let x := s.cell c
    let a := x.rdS f.ra
    let b := x.rdS f.rb
    let goes (k : BitVec 32) (taken : Bool) : Word :=
      if taken then pc57 (x.npc + k.signExtend 64) else nextPc x.npc .br
    let ks := CR.SQ_BR_MISPRED_CNT :: commitCounters
    (∀ e ∈ [((0 : BitVec 7), true), (1, a == b), (2, a != b), (3, decide (a.toInt < b.toInt)),
        (4, decide (b.toInt ≤ a.toInt)), (5, decide (a.toNat < b.toNat)), (6, decide (b.toNat ≤ a.toNat))],
      f.cond = e.1 → f.off32.toNat % 8 = 0 → f.bhint.toNat ≤ 2 →
      (e.1 = 0 → f.ra = 0 ∧ f.rb = 0 ∧ f.bhint = 0) →
      ∃ t, exec (.br c f) s = .next t ∧ Retires ks c s x (goes f.off32 e.2) t ∧
        (e.1 = 0 → (t.cell c).reg CR.SQ_BR_MISPRED_CNT = x.reg CR.SQ_BR_MISPRED_CNT)) ∧
    (6 < f.cond.toNat ∨ (f.cond = 0 ∧ (f.ra ≠ 0 ∨ f.rb ≠ 0 ∨ f.bhint ≠ 0)) →
      ∃ t h q, exec (.br c f) s = .next t ∧ (t.cell c).window = [h] ∧ h.pc = x.npc ∧ h.fault = some q ∧ q.cause = 0x01 ∧
        (t.cell c).s = x.s ∧ ∀ d, d ≠ c → t.cell d = s.cell d) ∧
    (f.cond = 0 → f.rb = 0 → f.bhint = 0 → f.off32.toNat % 8 = 0 →
      ∃ t l r, exec (.bloop c f) s = .next t ∧
        Retires ks c s { x.wrS f.ra (a - 1) with loops := l, trips := r } (goes f.off32 (a - 1 != 0)) t) ∧
    (sOnly g { imm := true, rd := true } = true → g.imm32.toNat % 8 = 0 →
      ∃ t, exec (.jal c g) s = .next t ∧
        Retires ks c s { x.wrS g.rd (nextPc x.npc .jal) with
          retStack := if g.rd = 0 then x.retStack else (nextPc x.npc .jal :: x.retStack).take 8 } (goes g.imm32 true) t) ∧
    (sOnly g { imm := true, func := true, rd := true, ra := true } = true → g.func.toNat ≤ 1 →
      (x.rdS g.ra + g.imm32.signExtend 64).toNat % 8 = 0 →
      ∃ t, exec (.jalr c g) s = .next t ∧
        Retires ks c s { x.wrS g.rd (nextPc x.npc .jalr) with
          retStack := if g.func = 1 then x.retStack.drop 1 else x.retStack }
          (pc57 (x.rdS g.ra + g.imm32.signExtend 64)) t)

/-- R12, R191, R194: CSRR reads the 8-byte unit at an offset of its own cell's region, and CSRW writes the enabled halves of
it: func[0] the low and func[1] the high one. Each bit of a plain register follows its access code: RW takes the value,
W1C is cleared and W1S set by a 1, and RO stays. A halt that CSRW requests takes effect at its commit (R182). -/
def Obligations.CsrAccess : Prop :=
  ∀ (c : CellId) (s : State) (f : SForm), Ready c s →
    let x := s.cell c
    let a := x.rdS f.ra
    let off := f.imm32.toNat
    (sOnly f { imm := true, rd := true } = true → off % 8 = 0 → off < 0x8000 →
      ∃ t, exec (.csrr c f) s = .next t ∧
        Retires commitCounters c s (x.wrS f.rd ((x.holding { op := .csrr, f }).unit off)) (nextPc x.npc .csrr) t) ∧
    (sOnly f { imm := true, func := true, ra := true } = true → 1 ≤ f.func.toNat → f.func.toNat ≤ 3 →
      (∀ o ∈ [CR.NUM_SR_SEED, CR.NUM_SR_STEP], off = o →
        ∃ t v, exec (.csrw c f) s = .next t ∧
          Retires commitCounters c s (x.setReg o v) (nextPc x.npc .csrw) t ∧ v < 2 ^ 64 ∧
          v % 2 ^ 32 = (if f.func.getLsbD 0 then a.toNat else x.reg o) % 2 ^ 32 ∧
          v / 2 ^ 32 = (if f.func.getLsbD 1 then a.toNat else x.reg o) / 2 ^ 32) ∧
      (let plain (o w : Nat) (r : RegInfo) : Prop :=
         findReg cellRegMap o = some r ∧ r.kind = .plain ∧ r.width = w ∧ o < CR.CP_CTRL ∧
           o ∉ [CR.SQ_CTRL, CR.SQ_YIELD_LIMIT, CR.SQ_FAULT_CAUSE, CR.SX_SHARE]
       let takes (r : RegInfo) (old d : Nat) (lo hi : Bool) (v : Nat) : Prop :=
         v < 2 ^ 64 ∧ ∀ k < 64, bitB v k =
           if (if k < 32 then lo else hi) = false then bitB old k
           else if bitB r.rw k then bitB d k
           else if bitB r.w1c k then bitB old k && !bitB d k
           else if bitB r.w1s k then bitB old k || bitB d k
           else bitB old k
       let lo := f.func.getLsbD 0
       let hi := f.func.getLsbD 1
       off % 8 = 0 →
       (∀ r, plain off 64 r → ∃ t v, exec (.csrw c f) s = .next t ∧
         Retires commitCounters c s (x.setReg off v) (nextPc x.npc .csrw) t ∧ takes r (x.reg off) a.toNat lo hi v) ∧
       (∀ r q, cellWidth off ≠ 64 → (lo = true → plain off 32 r) → (hi = true → plain (off + 4) 32 q) →
         ∃ t v w, exec (.csrw c f) s = .next t ∧ takes r (x.reg off) (a.toNat % 2 ^ 32) true false v ∧
           takes q (x.reg (off + 4)) (a.toNat / 2 ^ 32) true false w ∧
           let y := if lo then x.setReg off v else x
           Retires commitCounters c s (if hi then y.setReg (off + 4) w else y) (nextPc x.npc .csrw) t)) ∧
      (off = CR.SQ_CTRL → f.func.getLsbD 0 = true → a.getLsbD 1 = true → a.getLsbD 0 = false →
        ∃ t, exec (.csrw c f) s = .next t ∧ (∀ d, d ≠ c → t.cell d = s.cell d) ∧
          t.cell c = { x with
            regs := (t.cell c).regs, mode := .halted, npc := nextPc x.npc .csrw, window := [], runahead := none
            stuck := none, wantArray := false }))

/-- R176 to R179, R184, R191: A fault that the oldest instruction of a running cell holds is delivered. The instruction
and those behind it are dropped, each counted in SQ_FLUSH_CNT, and SQ_FAULT_CAUSE, SQ_FAULT_ADDR and SQ_FAULT_CNT are
written. Outside a handler SQ_EPC takes its address, and the sequencer continues at SQ_TRAP_VEC, or halts with state 3
where the trap mode or a zero vector says so; inside one it halts with state 4, and SQ_EPC stays. The Almanac records
the cause, the PC and the cell, and the host hears of a halt. Registers, descriptors, OC, IM and the accumulators stay,
and so does every other cell. BRK, once a ready cell has dispatched it, holds BREAK with its code, which FAULT_DELIVERY
then takes; TRET, in a handler, leaves it and continues at SQ_EPC. -/
def Obligations.FaultsBreaksAndReturns : Prop :=
  (∀ (c : CellId) (s0 : State) (b : BitVec 2) (m : MemUpset) (e : InFlight) (w : List InFlight) (f : FaultInfo),
     let s := s0.memUpset m
     let x := s.cell c
     let code : FaultUnit → Nat := fun u => match u with
       | .sq => 0 | .mx => 1 | .mv => 2 | .vx => 3 | .sx => 4 | .q => 5 | .hv => 6
     x.running = true → x.window = e :: w → e.fault = some f → SMap.wf cellResetVal x.regs = true →
     SMap.wf floorResetVal s.fregs = true →
     ∃ t, exec (.faultDelivery c ⟨b, m⟩) s0 = .next t ∧ (∀ d, d ≠ c → t.cell d = s.cell d) ∧
       t = { s with cells := t.cells, fregs := t.fregs, alm := t.alm, hs := t.hs } ∧
       let y := t.cell c
       y = { x with regs := y.regs, sems := y.sems, mode := y.mode, inHandler := y.inHandler, npc := y.npc,
                    window := [], runahead := none, stuck := none } ∧
       y.reg CR.SQ_FAULT_CAUSE = 2 ^ 63 + (if x.inHandler then 2 ^ 62 else 0) + f.flags % 2 ^ 5 * 2 ^ 40
         + code f.unit * 2 ^ 32 + f.detail % 2 ^ 24 * 2 ^ 8 + f.cause % 2 ^ 8 ∧
       y.reg CR.SQ_FAULT_ADDR = f.addr % 2 ^ 64 ∧
       y.reg CR.SQ_FAULT_CNT = (x.reg CR.SQ_FAULT_CNT + 1) % 2 ^ 64 ∧
       y.reg CR.SQ_FLUSH_CNT = (x.reg CR.SQ_FLUSH_CNT + w.length) % 2 ^ 64 ∧
       (f.num = {} → t.alm.seq = s.alm.seq + 1 ∧ (2 ≤ f.cls → ∃ r : AlmRec, (s.alm.seq % 1024, r) ∈ t.alm.buf ∧
         r.seq = s.alm.seq ∧ r.code = (if x.inHandler then 0x0103 else 0x0102) ∧ r.index = c.val ∧
         r.info0 = y.reg CR.SQ_FAULT_CAUSE ∧ (x.inHandler = false → r.info1 = e.pc.toNat))) ∧
       (y.mode ≠ .running → bitB (t.freg (FR.HI_CELL_HALT (c.val / 64))) (c.val % 64) = true ∧
         bitB (t.freg FR.HI_EVT) 0 = true) ∧
       (f.num = {} → ∀ o, o ∉ [CR.SQ_FLUSH_CNT, CR.SQ_FAULT_CAUSE, CR.SQ_FAULT_ADDR, CR.SQ_FAULT_CNT, CR.SQ_EPC] →
         y.reg o = x.reg o) ∧
       (x.inHandler = true → y.mode = .doubleHalt ∧ y.inHandler = true ∧ y.npc = e.pc ∧ y.reg CR.SQ_EPC = x.reg CR.SQ_EPC) ∧
       (x.inHandler = false → y.reg CR.SQ_EPC = e.pc.toNat ∧
         if bits (x.reg CR.SQ_CTRL) 3 2 = 0 ∧ x.reg CR.SQ_TRAP_VEC ≠ 0 then
           y.mode = .running ∧ y.inHandler = true ∧ y.npc.toNat = x.reg CR.SQ_TRAP_VEC
         else y.mode = .faultHalt ∧ y.inHandler = false ∧ y.npc = e.pc)) ∧
  (∀ (c : CellId) (s : State) (f : SForm), Ready c s →
     let x := s.cell c
     (sOnly f { imm := true } = true → f.imm32.toNat < 2 ^ 24 →
       ∃ t u, exec (.brk c f) s = .next t ∧ exec (.faultDelivery c ⟨0, {}⟩) t = .next u ∧
         let y := u.cell c
         y.reg CR.SQ_FAULT_CAUSE = 2 ^ 63 + (if x.inHandler then 2 ^ 62 else 0) + f.imm32.toNat * 2 ^ 8 + 0x08 ∧
         (x.inHandler = false → y.reg CR.SQ_EPC = x.npc.toNat) ∧
         y = { x with regs := y.regs, mode := y.mode, inHandler := y.inHandler, npc := y.npc, stuck := none } ∧
         ∀ d, d ≠ c → u.cell d = s.cell d) ∧
     (sOnly f {} = true → x.inHandler = true →
       ∃ t, exec (.tret c f) s = .next t ∧
         Retires commitCounters c s { x with inHandler := false } (BitVec.ofNat 64 (x.reg CR.SQ_EPC)) t))

/-- R196, R279 to R282, R319: SEMPOST adds its count to a semaphore of its own cell and SEMPOSTR to one of cell ra[7:0]; a
sum beyond 65,535 leaves 65,535 and the ovf mark; a post ends the DOZE of its cell (R443), and one to a cell that is
ASLEEP waits at its mesh port, and HELD_POST_DELIVERY makes the oldest such post once the cell is awake. A SEMWAIT that
finds no line and no mark and enough count takes its count and goes on; one that finds too little joins the end of the
line; SEMWAIT_SATISFIED lets the first in line take its count once there is enough; a marked semaphore faults a SEMWAIT
with SX_FAILED before SEM_OVERFLOW. A write to SEM_VALn sets the count and clears the marks written with 1. -/
def Obligations.SemaphoresPostAndWait : Prop :=
  (∀ (c d : CellId) (s : State) (f : SForm) (k : BitVec 6) (n : Nat),
     let adds (x : Cell) : Cell :=
       (x.count CR.SEM_POST_CNT).setSem k { x.sem k with count := BitVec.ofNat 16 ((x.sem k).count.toNat + n) }
     let fits (x : Cell) : Prop :=
       x.cp.goal.reset = false ∧ (x.sem k).ovf = false ∧ (x.sem k).count.toNat + n ≤ 65535
     (Ready c s → f.func.toNat = k.toNat → f.imm32.toNat = n → 1 ≤ n → n ≤ 65535 →
       (sOnly f { imm := true, func := true } = true →
         ((s.cell c).cp.st = .awake → fits (s.cell c) → ∃ t, exec (.sempost c f) s = .next t ∧
           Retires commitCounters c s (adds (s.cell c)) (nextPc (s.cell c).npc .sempost) t) ∧
         ((s.cell c).cp.st = .awake → (s.cell c).cp.goal.reset = false → ((s.cell c).sem k).line = [] →
           65535 < ((s.cell c).sem k).count.toNat + n →
           ∃ t, exec (.sempost c f) s = .next t ∧ ((t.cell c).sem k).count = 65535 ∧ ((t.cell c).sem k).ovf = true ∧
             (t.cell c).npc = nextPc (s.cell c).npc .sempost ∧ (∀ d, d ≠ c → t.cell d = s.cell d))) ∧
       (sOnly f { imm := true, func := true, ra := true } = true → d.val = ((s.cell c).rdS f.ra).toNat % 256 → d ≠ c →
         (fits (s.cell d) → (s.cell d).cp.st = .awake → ∃ t, exec (.sempostr c f) s = .next t ∧
           Retires commitCounters c (s.setCell d (adds (s.cell d))) (s.cell c) (nextPc (s.cell c).npc .sempostr) t) ∧
         (fits (s.cell d) → (s.cell d).cp.st = .doze → ∃ t, exec (.sempostr c f) s = .next t ∧
           (t.cell c).npc = nextPc (s.cell c).npc .sempostr ∧ (∀ j, j ≠ c → j ≠ d → t.cell j = s.cell j) ∧
           t.cell d = { adds (s.cell d) with regs := (t.cell d).regs, cp := { (s.cell d).cp with st := .awake } }) ∧
         ((s.cell d).cp.goal.reset = false → (s.cell d).cp.st = .asleep →
           ∃ t, exec (.sempostr c f) s = .next t ∧ (t.cell d).sems = (s.cell d).sems ∧
             (t.cell d).cp.held = (s.cell d).cp.held ++ [⟨k, n⟩]))) ∧
     (∀ p l, (s.cell d).cp.st = .awake → (s.cell d).cp.held = p :: l → p.sem = k → p.n = n → fits (s.cell d) →
       ∃ t, exec (.heldPostDelivery d) s = .next t ∧
         t = s.setCell d (adds { s.cell d with cp := { (s.cell d).cp with held := l } }))) ∧
  (∀ (c : CellId) (s : State) (f : SForm) (k : BitVec 6) (n : Nat),
     let x := s.cell c
     let m := x.sem k
     (Ready c s → f.func.toNat = k.toNat → f.imm32.toNat = n → 1 ≤ n → n ≤ 65535 →
       sOnly f { imm := true, func := true } = true →
       (m.line = [] → m.failed = false → m.ovf = false → n ≤ m.count.toNat →
         ∃ t, exec (.semwait c f) s = .next t ∧
           Retires commitCounters c s
             ((x.setSem k { m with count := m.count - BitVec.ofNat 16 n }).count CR.SEM_WAIT_CNT)
             (nextPc x.npc .semwait) t) ∧
       (m.line = [] → m.failed = false → m.ovf = false → m.count.toNat < n →
         ∃ t e, exec (.semwait c f) s = .next t ∧ t = s.setCell c (t.cell c) ∧ (t.cell c).window = [e] ∧
           e.pc = x.npc ∧ e.fault = none ∧ (t.cell c).sem k = { m with line := [.seq n] }) ∧
       (m.line = [] → m.failed = true ∨ m.ovf = true →
         ∃ t e q, exec (.semwait c f) s = .next t ∧ (t.cell c).window = [e] ∧ e.fault = some q ∧
           q.cause = (if m.failed then 0x61 else 0x62) ∧ q.detail = k.toNat ∧ (t.cell c).sem k = m)) ∧
     (∀ e l, Holds c s e → e.ins.op = .semwait → semFields e.ins.f = some (k, n) →
       sOnly e.ins.f { imm := true, func := true } = true → e.next = some (nextPc e.pc .semwait) →
       m.line = .seq n :: l → n ≤ m.count.toNat →
       ∃ t, exec (.semwaitSatisfied c k) s = .next t ∧
         Retires (countersOf e) c s
           ((x.setSem k { m with count := m.count - BitVec.ofNat 16 n, line := l }).count CR.SEM_WAIT_CNT)
           (nextPc e.pc .semwait) t) ∧
     (∀ (o : Origin) (v : Half), Still s → Reaches o s (0x30000000000 + 0x10000 * c.val + CR.SEM_VAL k.toNat) →
       m.line = [] →
       ∃ t, exec (.semValWrite o c k v) s = .next t ∧
         t = s.setCell c (x.setSem k { m with
           count := v.extractLsb' 0 16, ovf := m.ovf && !v.getLsbD 16, failed := m.failed && !v.getLsbD 17
           failedUc := m.failedUc && !v.getLsbD 17 })))

/-- R196, R308 to R312, R317: the conveyor instructions on an enabled conveyor. QPUSH, where the conveyor accepts it,
stores the item at W with the poison of its slot, moves W on, opens or closes the packet, and posts the notice of a marked
item where notice_en is set; QPOP takes the item at Rd into a slot, and says in rd whether it carries a mark; both in OC
and in the window; QCNT counts the marked items between Rd and W; QMARK notes
Rd; QREWIND returns to it; QREL frees what lies before Rd. The events of conveyors. A
QPUSH that waited for room writes its item once there is some; a write of Q_CFGn sets the register while the conveyor is
disabled and its storage fits, and one that clears en discards the contents. -/
def Obligations.ConveyorsMoveItems : Prop :=
  (∀ (c : CellId) (s : State) (f : SForm) (x : LForm) (u : Upset), ReadyLong c s →
     let z := s.cell c
     let y := s.upsetCell c u
     let q := x.q
     let v := z.conv q
     v.en = true →
     (sOnly f {} = true → lOnly x { a := true, q := true, ext := true } = true → x.ext.toNat < 2 →
       (s.carrying c { op := .qpush, f, x, u }).convAccepts c q .push = true → z.cp.st = .awake →
       let notice := x.ext = 1 ∧ v.cfg.getLsbD 16 = true
       let k := BitVec.ofNat 6 (bits v.cfg.toNat 13 8)
       let d := withPoison y.ocPoison (64 * x.oc_a.toNat) (y.ocRead (64 * x.oc_a.toNat) 64)
       let z1 := y.count CR.Q_PUSH_CNT
       (notice → z.cp.goal.reset = false ∧ (z.sem k).ovf = false ∧ (z.sem k).count.toNat < 65535) →
       (v.inWin = true → v.addr v.w + 64 ≤ s.winSize c) →
       ∃ t p, exec (.qpush c f x u) s = .next t ∧
         RetiresPosting commitCounters c
           (if v.inWin then (s.countBypass c (winLayer (v.addr v.w))).winWrite c (v.addr v.w) d else s) p
           (nextPc z.npc .qpush) x t ∧
         p = { (if notice then z1.count CR.SEM_POST_CNT else z1) with
               qs := p.qs, oc := p.oc, ocPoison := p.ocPoison, sems := p.sems } ∧
         (∀ j, p.sem j = if notice ∧ j = k then { z.sem k with count := (z.sem k).count + 1 } else z.sem j) ∧
         p.oc = (if v.inWin then y.oc else (y.ocWrite (v.addr v.w) (plain d)).oc) ∧
         p.ocPoison = (if v.inWin then y.ocPoison else poisonAfter y.ocPoison (v.addr v.w) d) ∧
         (∀ j, j ≠ q → p.conv j = z.conv j) ∧ (p.conv q).w = v.w + 1 ∧ (p.conv q).rd = v.rd ∧ (p.conv q).f = v.f ∧
         (p.conv q).openBy = (if x.ext = 1 then none else some .push) ∧
         (p.conv q).ends = (if x.ext = 1 then v.ends.add v.w.toNat else v.ends.del v.w.toNat)) ∧
     (let r := (s.carrying c { op := .qpop, f, x, u }).operandUpset c u
      let y := r.cell c
      sOnly f { rd := true } = true → lOnly x { a := true, q := true } = true → v.empty = false → v.inWin = false →
       v.bad.has v.rd.toNat = false → anyBad (withPoison y.ocPoison (v.addr v.rd) (y.ocRead (v.addr v.rd) 64)) = false →
       ∃ t, exec (.qpop c f x u) s = .next t ∧
         RetiresPosting commitCounters c r
           ((((y.setConv q { v with rd := v.rd + 1 }).count CR.Q_POP_CNT).ocWrite (64 * x.oc_a.toNat)
             (y.ocRead (v.addr v.rd) 64)).wrS f.rd (if v.ends.has v.rd.toNat then 1 else 0))
           (nextPc z.npc .qpop) x t) ∧
     (let r := ((s.carrying c { op := .qpop, f, x, u }).operandUpset c u).countBypass c (winLayer (v.addr v.rd))
      let y := r.cell c
      let d := r.winRead c (v.addr v.rd) 64
      sOnly f { rd := true } = true → lOnly x { a := true, q := true } = true → v.empty = false → v.inWin = true →
       s.convStuck c q v.rd = false → v.bad.has v.rd.toNat = false → v.addr v.rd + 64 ≤ s.winSize c → anyBad d = false →
       ∃ t, exec (.qpop c f x u) s = .next t ∧
         RetiresPosting commitCounters c r
           ((((y.setConv q { v with rd := v.rd + 1 }).count CR.Q_POP_CNT).ocWrite (64 * x.oc_a.toNat)
             (plain d)).wrS f.rd (if v.ends.has v.rd.toNat then 1 else 0))
           (nextPc z.npc .qpop) x t) ∧
     (sOnly f { rd := true } = true → lOnly x { q := true } = true →
       ∃ t, exec (.qcnt c f x u) s = .next t ∧
         RetiresPosting commitCounters c s
           (z.wrS f.rd (BitVec.ofNat 64 (v.ends.filter (fun p =>
             decide ((BitVec.ofNat 32 p - v.rd).toNat < (v.w - v.rd).toNat))).length))
           (nextPc z.npc .qcnt) x t) ∧
     (sOnly f {} = true → lOnly x { q := true } = true →
       (∃ t, exec (.qmark c f x u) s = .next t ∧
         RetiresPosting commitCounters c s (z.setConv q { v with mark := v.rd, markValid := true })
           (nextPc z.npc .qmark) x t) ∧
       (v.markValid = true → ∃ t, exec (.qrewind c f x u) s = .next t ∧
         RetiresPosting commitCounters c s ((z.setConv q { v with rd := v.mark }).count CR.Q_REWIND_CNT)
           (nextPc z.npc .qrewind) x t) ∧
       (∃ t p, exec (.qrel c f x u) s = .next t ∧
         RetiresPosting commitCounters c s (z.setConv q p) (nextPc z.npc .qrel) x t ∧
         p.f = v.rd ∧ p.rd = v.rd ∧ p.w = v.w ∧ p.cfg = v.cfg ∧ p.markValid = v.markValid ∧
         p.mark = (if v.markValid ∧ (v.mark - v.f).toNat < (v.rd - v.f).toNat then v.rd else v.mark)))) ∧
  (∀ (c : CellId) (s : State) (q : BitVec 4),
     let z := s.cell c
     let v := z.conv q
     (∀ e, Holds c s e → e.ins.op = .qpush → e.ins.x.q = q → e.ins.u = {} → e.ins.x.pen = false →
       sOnly e.ins.f {} = true → lOnly e.ins.x { a := true, q := true, ext := true } = true → e.ins.x.ext = 0 →
       e.next = some (nextPc e.pc .qpush) →
       s.convAccepts c q .push = true → v.inWin = false →
       ∃ t, exec (.conveyorItemWrite c q .push) s = .next t ∧ (∀ d, d ≠ c → t.cell d = s.cell d) ∧
         (t.cell c).window = [] ∧ (t.cell c).npc = nextPc e.pc .qpush ∧ ((t.cell c).conv q).w = v.w + 1 ∧
         (t.cell c).oc = (z.ocWrite (v.addr v.w) (z.ocRead (64 * e.ins.x.oc_a.toNat) 64)).oc) ∧
     (∀ (o : Origin) (w : Word), Still s → Reaches o s (0x30000000000 + 0x10000 * c.val + CR.Q_CFG q.toNat) →
       ∃ t p, exec (.qCfgWrite o c q w) s = .next t ∧ t = s.setCell c (z.setConv q p) ∧
         (v.en = true → w.getLsbD 31 = true → p = v) ∧
         (v.en = true → w.getLsbD 31 = false → p = { cfg := v.cfg &&& ~~~(1#64 <<< 31) }) ∧
         (v.en = false → w.getLsbD 28 = false → (w.extractLsb' 32 13).toNat + (w.extractLsb' 24 4).toNat + 1 ≤ 64 →
           p = { v with cfg := w &&& 0x1FFF9F013F00 }) ∧
         (v.en = false → w.getLsbD 28 = false → 64 < (w.extractLsb' 32 13).toNat + (w.extractLsb' 24 4).toNat + 1 →
           p = v)))

/-- R197, R283, R288, R291: SXGO of a legal descriptor without an auxiliary record takes the lowest free slot, from
where the transfer starts, and settles without its completion post; with every slot in use it waits in the queue until
SX_ACCEPT finds one free. SX_TRANSFER_COMPLETE frees the slot of a finished transfer, counts it and makes the post. -/
def Obligations.TransfersStartAndEnd : Prop :=
  ∀ (c : CellId) (s : State) (n : Fin 6),
    let starts (f : SForm) (x : LForm) (y : Cell) : Prop :=
      sOnly f {} = true ∧ lOnly x { dsel := true } = true ∧ (y.rdD x.dsel).getLsbD 484 = false ∧
        streamOk c.val (y.rdD x.dsel).toNat 0 = true
    let accepted (x : LForm) (y : Cell) : Cell :=
      y.setSlot n (some { desc := y.rdD x.dsel, pen := x.pen, psem := x.psem })
    (∀ (f : SForm) (x : LForm) (u : Upset), ReadyLong c s → starts f x (s.upsetCell c u) →
      ((s.cell c).slot n = none → (∀ m, m < n → (s.cell c).slot m ≠ none) →
        ∃ t, exec (.sxgo c f x u) s = .next t ∧
          Retires commitCounters c s (accepted x (s.upsetCell c u)) (nextPc (s.cell c).npc .sxgo) t) ∧
      ((∀ m, (s.cell c).slot m ≠ none) →
        ∃ t e, exec (.sxgo c f x u) s = .next t ∧ (t.cell c).window = [e] ∧ e.fault = none ∧ e.ins.op = .sxgo ∧
          e.pc = (s.cell c).npc ∧ (t.cell c).slots = (s.cell c).slots ∧ ∀ d, d ≠ c → t.cell d = s.cell d)) ∧
    (∀ e, Holds c s e → e.ins.op = .sxgo → e.ins.u = {} → starts e.ins.f e.ins.x (s.cell c) →
      e.next = some (nextPc e.pc .sxgo) → (s.cell c).slot n = none → (∀ m, m < n → (s.cell c).slot m ≠ none) →
      ∃ t, exec (.sxAccept c) s = .next t ∧ (∀ d, d ≠ c → t.cell d = s.cell d) ∧
        t.cell c = { accepted e.ins.x (s.cell c) with
          regs := (t.cell c).regs, npc := nextPc e.pc .sxgo, window := [], runahead := none, stuck := none }) ∧
    (∀ r, (s.cell c).window = [] → (s.cell c).slot n = some r → r.st = .running → r.finished = true → r.pen = false →
      ∃ t, exec (.sxTransferComplete c n) s = .next t ∧
        t = s.setCell c (((s.cell c).setSlot n none).count CR.SX_DESC_DONE_CNT)) ∧
    (∀ r, (s.cell c).window = [] → (s.cell c).slot n = some r → r.st = .running → r.finished = true → r.pen = true →
      (s.cell c).cp.goal.reset = false → (s.cell c).cp.st = .awake → ((s.cell c).sem r.psem).ovf = false →
      ((s.cell c).sem r.psem).count.toNat < 65535 →
      SMap.wf cellResetVal (s.cell c).regs = true →
      ∃ t, exec (.sxTransferComplete c n) s = .next t ∧ (t.cell c).slot n = none ∧
        (t.cell c).reg CR.SX_DESC_DONE_CNT = ((s.cell c).reg CR.SX_DESC_DONE_CNT + 1) % 2 ^ 64 ∧
        ((t.cell c).sem r.psem).count = ((s.cell c).sem r.psem).count + 1)

/-- R285, R289, R290, R293, R297 to R299, R304: one micro-transfer that copies a granule from OC to OC moves its bytes and
takes the position on past it, but for one resumed during a floor reset, which then still lasts (R509). A link takes its
empty semaphore, or joins its line. Software's writes to a failed slot resume its transfer at its position or abandon it;
shares are set where they sum to 100 and else refused with SX_STATUS.share_err; the shares set apply from the next window.
-/
def Obligations.MicroTransfersAndSlots : Prop :=
  (∀ (c : CellId) (s0 : State) (n : Fin 6) (r : Transfer) (u : Upset),
     let s := s0.engineUpset c u
     let x := s.cell c
     let g := granuleAt r.desc.toNat r.row r.elt
     let k := r.emptySem
     let m := x.sem k
     (s0.cell c).slot n = some r →
     (r.st = .running → r.finished = false → r.needsEmpty = false → r.implicit = false → r.read = false → r.old = [] →
       r.held = false ∨ s.floorBusy = false →
       r.f 59 57 = 0 → r.f 123 121 = 0 → r.f 63 60 = r.f 127 124 → r.f 479 478 = 0 → r.f 481 480 = 0 →
       r.fullEn = false →
       ∃ t q, exec (.microTransferDone c ⟨n, u⟩) s0 = .next t ∧ t = s.setCell c (t.cell c) ∧
         (t.cell c).slot n = some q ∧ q.st = .running ∧ q.desc = r.desc ∧ q.done = r.done + 1 ∧
         (q.row, q.elt) = (if g.last then (r.row + 1, 0) else (r.row, r.elt + g.n)) ∧
         (t.cell c).oc = (x.ocWrite g.da (x.ocRead g.sa (g.n * streamSize (r.f 63 60)))).oc ∧
         (∀ j, j ≠ n → (t.cell c).slot j = x.slot j) ∧
         t.cell c = { x with regs := (t.cell c).regs, slots := (t.cell c).slots, oc := (t.cell c).oc,
                             ocPoison := (t.cell c).ocPoison }) ∧
     (r.st = .running → r.needsEmpty = true → m.failed = false → m.ovf = false → m.line = [] →
       ∃ t, exec (.linkEmptyTake c n) s = .next t ∧ (∀ d, d ≠ c → t.cell d = s.cell d) ∧
         (1 ≤ m.count.toNat → (t.cell c).sem k = { m with count := m.count - 1 } ∧
           (t.cell c).slot n = some { r with st := .running, chunkHeld := true }) ∧
         (m.count = 0 → (t.cell c).sem k = { m with line := [.link n] } ∧
           (t.cell c).slot n = some { r with st := .semWait }))) ∧
  (∀ (c : CellId) (s : State) (n : Fin 6) (o : Origin) (v : Half),
     let x := s.cell c
     let at' (off : Nat) : Prop := Still s ∧ Reaches o s (0x30000000000 + 0x10000 * c.val + off)
     (∀ r, x.slot n = some r → r.st = .failed → at' (CR.SX_D_CTRL n.val) →
       (∃ t, exec (.sxResume o c n) s = .next t ∧ t = s.setCell c (x.setSlot n (some { r with
         st := .running, reason := 0, detail := 0, faultVa := 0, indBase := 0, indLen := 0, held := s.floorBusy }))) ∧
       (r.f 123 121 ≠ 3 ∨ r.implicit = true →
         ∃ t, exec (.sxAbandon o c n) s = .next t ∧ t = s.setCell c (x.setSlot n none))) ∧
     (at' CR.SX_SHARE →
       (v.toNat % 2 ^ 8 + v.toNat / 2 ^ 8 % 2 ^ 8 + v.toNat / 2 ^ 16 % 2 ^ 8 = 100 →
         ∃ t w, exec (.sxShareWrite o c v) s = .next t ∧ t = s.setCell c (x.setReg CR.SX_SHARE w) ∧
           w % 2 ^ 24 = v.toNat % 2 ^ 24) ∧
       (v.toNat % 2 ^ 8 + v.toNat / 2 ^ 8 % 2 ^ 8 + v.toNat / 2 ^ 16 % 2 ^ 8 ≠ 100 →
         ∃ t, exec (.sxShareWrite o c v) s = .next t ∧ t = s.setCell c (x.setReg CR.SX_STATUS (x.reg CR.SX_STATUS ||| 0x80)))) ∧
     (∃ t, exec (.shareWindow c) s = .next t ∧ t = s.setCell c { x with shareNow := x.reg CR.SX_SHARE }))

/-- R59, R64, R77 to R94, R99, R105 to R107, R200 to R202: MMA, and MMAT with its weights transposed. Each active
element of the tile becomes the dot product of a row of activations and a column of weights, added to the accumulator
unless zs is set; a masked element stays; the accumulators record the mask. GFILL, where its conveyor holds 64 whole
packets, fills the 64 rows of its tile with them and multiplies, and writes the manifest of their tags. -/
def Obligations.MatrixTilesAndGathers : Prop :=
  (∀ (tr : Bool) (c : CellId) (s : State) (f : SForm) (x : LForm) (u : Upset) (h : Shape) (fa fw : Fmt), ReadyLong c s →
     let r := (s.carrying c { op := if tr then .mmat else .mma, f, x, u }).operandUpset c u
     let y := r.cell c
     let w := f.imm32.toNat
     let da := mdesc (y.rdD x.dsel)
     let dw := mdesc (y.rdD (BitVec.ofNat 4 x.ext.toNat))
     let mask : Desc := if h.maskEn then y.ocSlot x.oc_c.toNat else BitVec.allOnes 512
     let acc := x.acc.toNat
     let la := actLines da fa h.m h.k
     let lw := if tr then wtLinesT dw fw else wtLines dw fw
     let rows := (List.range h.m).filter (fun m => mask.getLsbD m)
     let cols := (List.range h.n).filter (fun n => mask.getLsbD (256 + n))
     let elem (m n : Nat) : DotResult :=
       tileElem h.split (la.values r c m h.k) (lw.values r c n h.k)
         (if h.zs then 0 else (y.accGet acc (m * h.n + n)).toNat)
     let fl := (rows.foldl (fun (g : Flags) m => cols.foldl (fun (g : Flags) n => g.or (elem m n).flags) g) Flags.none).toNat
     sOnly f { imm := true } = true → lOnly x { dsel := true, acc := true, ext := true, c := w.testBit 20 } = true →
     x.ext.toNat < 16 → shapeOf w false acc = some h → y.mx.selftest = false → y.mx.unavailable = false →
     u.residue = false → fmtOf da.fmt = some fa → fmtOf dw.fmt = some fw →
     da.suits (if tr then .actPlain else .act) (h.split != 0) = true → actFits r c da fa h.m h.k = true →
     dw.suits (if tr then .weightT else .weight) (h.split != 0) = true →
     (if tr then wtFits r c dw fw h.n h.k else wtFits r c dw fw h.k h.n) = true →
     (h.maskEn = true → y.ocBad (64 * x.oc_c.toNat) 64 = false) →
     la.poisonIn r c rows h.k = none → lw.poisonIn r c cols h.k = none → fl &&& y.reg CR.NUM_TRAP_EN = 0 →
     ∃ t z, exec (if tr then .mmat c f x u else .mma c f x u) s = .next t ∧
       TensorDone [CR.MX_BUSY_CNT, CR.MX_MAC_CNT, CR.MX_GATED_CNT] fl c r z
         (nextPc (s.cell c).npc (if tr then .mmat else .mma)) x t ∧
       z = { y with acc := z.acc, masks := z.masks } ∧
       (∀ m n, m < h.m → n < h.n → z.accGet acc (m * h.n + n) =
         if m ∈ rows ∧ n ∈ cols then BitVec.ofNat 32 (elem m n).acc else y.accGet acc (m * h.n + n)) ∧
       (∀ a p, a < 8 → p < 4096 → (a < acc ∨ acc + h.span ≤ a) → z.accGet a p = y.accGet a p) ∧
       ∀ a, z.maskOf a = if acc ≤ a ∧ a < acc + h.span then mask else y.maskOf a) ∧
  (∀ (c : CellId) (s s1 : State) (f : SForm) (x : LForm) (h : Shape) (fa fw : Fmt) (g : Gather), ReadyLong c s →
     let y := s.cell c
     let i : Ins := { op := .gfill, f, x }
     let da := mdesc (y.rdD x.dsel)
     let dw := mdesc (y.rdD (BitVec.ofNat 4 x.ext.toNat))
     let acc := x.acc.toNat
     sOnly f { imm := true, ra := true } = true →
     lOnly x { q := true, dsel := true, acc := true, ext := true, b := true } = true → x.ext.toNat < 16 →
     shapeOf f.imm32.toNat true acc = some h → y.mx.selftest = false → y.mx.unavailable = false →
     fmtOf da.fmt = some fa → fmtOf dw.fmt = some fw → da.space = 0 → h.zs = true →
     da.suits .actPlain false = true → actFits s c da fa 64 h.k = true →
     dw.suits .weight false = true → wtFits s c dw fw h.k h.n = true → x.oc_b.toNat % 8 = 0 →
     gatherItems (64 * (1 + (h.k * fa.esize + 63) / 64) + 1) ((s.carrying c i).operandUpset c {}) c x.q
       (1 + (h.k * fa.esize + 63) / 64) {} = .ready s1 g → g.rows.length = 64 → y.reg CR.NUM_TRAP_EN = 0 →
     (wtLines dw fw).poisonIn s c (List.range h.n) h.k = none → x.pen = false →
     ∃ t, exec (.gfill c f x {}) s = .next t ∧ (t.cell c).window = [] ∧ (t.cell c).npc = nextPc y.npc .gfill ∧
       (∀ d, d ≠ c → t.cell d = s1.cell d) ∧
       (∀ j, j < 64 → (t.cell c).ocRead (64 * x.oc_b.toNat + 8 * j) 8 = leBytes 8 (g.rows.getD j (0, [])).1) ∧
       (∀ m n, m < 64 → n < h.n → (t.cell c).accGet acc (m * h.n + n) = BitVec.ofNat 32
         (tileElem 0 ((List.range h.k).map (fun k => readOp fa (fieldAt (g.rows.getD m (0, [])).2 (k * fa.esize) fa.esize)))
           ((wtLines dw fw).values s c n h.k) 0).acc) ∧
       ((t.cell c).conv x.q) = ((s1.cell c).conv x.q))

/-- R59, R80, R92, R101, R108, R198, R202: MMV adds the products of a vector and a panel of weights to a row in OC; MXLD
loads accumulators from OC and marks all of them active; MXST with its destination in OC writes the active elements,
rounded as its control word says. -/
def Obligations.MatrixVectorAndTileMoves : Prop :=
  ∀ (c : CellId) (s : State) (f : SForm) (x : LForm) (u : Upset), ReadyLong c s →
    let z := s.cell c
    let w := f.imm32.toNat
    let acc := x.acc.toNat
    (∀ fx fw : Fmt,
      let r := (s.carrying c { op := .mmv, f, x, u }).operandUpset c u
      let y := r.cell c
      let n := 64 * (w / 2 ^ 11 % 2 ^ 6 + 1)
      let k := 32 * (w % 2 ^ 11 + 1)
      let dx := mdesc (y.rdD x.dsel)
      let dw := mdesc (y.rdD (BitVec.ofNat 4 x.ext.toNat))
      let ya := 64 * x.oc_b.toNat
      let elem (j : Nat) : DotResult := dotElem ((actLines dx fx 1 k).values r c 0 k) ((wtLines dw fw).values r c j k)
        (if w.testBit 19 then 0 else leNat (y.ocRead (ya + 4 * j) 4)) 0
      let fl := ((List.range n).foldl (fun (g : Flags) j => g.or (elem j).flags) Flags.none).toNat
      sOnly f { imm := true } = true → lOnly x { dsel := true, ext := true, b := true } = true → x.ext.toNat < 16 →
      w < 2 ^ 20 → w / 2 ^ 17 % 4 = 0 → y.mx.selftest = false → y.mx.mvUnavailable = false → u.residue = false →
      fmtOf dx.fmt = some fx → fmtOf dw.fmt = some fw → x.oc_b.toNat % 4 = 0 → ya + 4 * n ≤ 0x40000 →
      dx.suits .vec false = true → actFits r c dx fx 1 k = true → dw.suits .weight false = true →
      wtFits r c dw fw k n = true → (w.testBit 19 = false → y.ocBad ya (4 * n) = false) →
      (actLines dx fx 1 k).poison r c 0 k = none → (wtLines dw fw).poisonIn r c (List.range n) k = none →
      fl &&& y.reg CR.NUM_TRAP_EN = 0 →
      ∃ t p, exec (.mmv c f x u) s = .next t ∧
        TensorDone [CR.MX_MV_BUSY_CNT, CR.MX_MV_PORT_WAIT_CNT] fl c r p (nextPc z.npc .mmv) x t ∧
        p = { y with oc := p.oc, ocPoison := p.ocPoison } ∧
        p.oc = (y.ocWrite ya ((List.range n).flatMap (fun j => leBytes 4 (elem j).acc))).oc) ∧
    (∀ h : Shape,
      let y := s.upsetCell c u
      sOnly f { imm := true } = true → lOnly x { acc := true, a := true } = true → shapeMn w acc = some h →
      y.mx.selftest = false → x.oc_a.toNat % 4 = 0 → 64 * x.oc_a.toNat + 4 * (h.m * h.n) ≤ 0x40000 →
      y.ocBad (64 * x.oc_a.toNat) (4 * (h.m * h.n)) = false →
      ∃ t p, exec (.mxld c f x u) s = .next t ∧ RetiresPosting commitCounters c s p (nextPc z.npc .mxld) x t ∧
        p = { y with acc := p.acc, masks := p.masks } ∧
        (∀ j, j < h.m * h.n →
          p.accGet acc j = BitVec.ofNat 32 (leNat (y.ocRead (64 * x.oc_a.toNat + 4 * j) 4))) ∧
        (∀ a j, a < 8 → j < 4096 → (a < acc ∨ acc + h.span ≤ a) → p.accGet a j = y.accGet a j) ∧
        ∀ a, p.maskOf a = if acc ≤ a ∧ a < acc + h.span then BitVec.allOnes 512 else y.maskOf a) ∧
    (∀ (h : Shape) (k : StoreCtl),
      let d := mdesc (z.rdD x.dsel)
      let out := storeWrites z k d h acc
      sOnly f { imm := true, ra := true } = true → lOnly x { acc := true, dsel := true } = true →
      shapeMn w acc = some h → z.mx.selftest = false → storeCtl (z.rdS f.ra).toNat = some k →
      d.suitsStore k h.n = true → d.space = 0 → d.base + d.storeSpan k.fmt.esize h.m h.n ≤ 0x40000 →
      (k.mode ≠ 0 → d.sbase < 0x40000) →
      out.2.counts.flags.toNat &&& z.reg CR.NUM_TRAP_EN = 0 →
      ∃ t p, exec (.mxst c f x u) s = .next t ∧
        TensorDone [] out.2.counts.flags.toNat c s p (nextPc z.npc .mxst) x t ∧
        p = { z with oc := p.oc, ocPoison := p.ocPoison } ∧
        p.oc = (out.1.foldl (fun q a => q.ocWrite a.1 a.2) z).oc)

/-- R123, R124, R205: VADD, VSUB, VMUL, VFMA, VMIN, VMAX, VMOV, VABS and VNEG in FP32, BF16 and FP16. -/
def Obligations.ElementwiseArithmetic : Prop :=
  ∀ e ∈ ewTable, ∀ (c : CellId) (s : State) (f : SForm) (x : LForm) (u : Upset) (fm : Fmt), ReadyLong c s →
    vfmt false (x.ext.toNat / 2 ^ 8 % 4) = some fm → ewOk f x false e.2.2.1 e.2.2.2.1 false fm = true →
    Elementwise.Holds
      { useB := e.2.2.1, useC := e.2.2.2.1, fa := fm, fb := fm, fc := fm, fd := fm, fn := e.2.2.2.2 fm
        rate := if fm = .fp32 then 64 else 128 } e.1 (e.2.1 c f x u) c s f x u

/-- R52, R123 to R130, R205: VFMAW multiplies short elements and adds in FP32; VCVT converts between two formats,
saturating or not in a conversion to FP8; FEXP2, FLOG2, FRCP and FRSQ are the functions of the function unit. -/
def Obligations.WideAndFunctionInstructions : Prop :=
  ∀ (c : CellId) (s : State) (f : SForm) (x : LForm) (u : Upset) (fm fd : Fmt), ReadyLong c s →
    (vfmt false (x.ext.toNat / 2 ^ 8 % 4) = some fm →
      (fm ≠ .fp32 → ewOk f x false true true false fm = true →
        Elementwise.Holds { useB := true, useC := true, fa := fm, fb := fm, fc := .fp32, fd := .fp32, fn := fFmaw fm
                            rate := 64 } .vfmaw (.vfmaw c f x u) c s f x u) ∧
      (ewOk f x false false false false fm = true →
        ∀ e ∈ [((.fexp2, .exp2, .fexp2) : Op × FuFn × (CellId → SForm → LForm → Upset → Instr)), (.flog2, .log2, .flog2),
            (.frcp, .recip, .frcp), (.frsq, .rsqrt, .frsq)],
          Elementwise.Holds { fa := fm, fb := fm, fc := fm, fd := fm, fn := fun a _ _ => fuElem e.2.1 fm a, cause := 3
                              rate := 32, counter := CR.FU_BUSY_CNT } e.1 (e.2.2 c f x u) c s f x u)) ∧
    (∀ k l : Nat, [(0, Fmt.fp32), (1, .bf16), (2, .fp16), (3, .e4m3), (4, .e5m2)].lookup k = some fm →
      [(0, Fmt.fp32), (1, .bf16), (2, .fp16), (3, .e4m3), (4, .e5m2)].lookup l = some fd →
      f.func.toNat / 16 = k → f.func.toNat % 8 = l → fm ≠ fd → x.ext.toNat / 2 ^ 8 = 0 →
      f.func.getLsbD 3 = true → (fd = .e4m3 ∨ fd = .e5m2) → ewOk f x true false false false fm = true →
      Elementwise.Holds { fa := fm, fb := fm, fc := fm, fd, fn := fun a _ _ => fConvert fm fd .ieee a, cause := 4
                          rate := if fm = .fp32 ∨ fd = .fp32 then 64 else 128 } .vcvt (.vcvt c f x u) c s f x u) ∧
    (∀ k l : Nat, [(0, Fmt.fp32), (1, .bf16), (2, .fp16), (3, .e4m3), (4, .e5m2)].lookup k = some fm →
      [(0, Fmt.fp32), (1, .bf16), (2, .fp16), (3, .e4m3), (4, .e5m2)].lookup l = some fd →
      f.func.toNat / 16 = k → f.func.toNat % 8 = l → fm ≠ fd → x.ext.toNat / 2 ^ 8 = 0 →
      f.func.getLsbD 3 = false → ewOk f x true false false false fm = true →
      Elementwise.Holds { fa := fm, fb := fm, fc := fm, fd
                          fn := fun a _ _ => fConvert fm fd (if fd = .e4m3 ∨ fd = .e5m2 then .sat else .ieee) a
                          cause := 4, rate := if fm = .fp32 ∨ fd = .fp32 then 64 else 128 }
        .vcvt (.vcvt c f x u) c s f x u)

/-- R124, R205: VCMP writes a bit mask, of which bits beyond the length stay, and VSEL selects by one. -/
def Obligations.MasksAndSelection : Prop :=
  ∀ (c : CellId) (s : State) (f : SForm) (x : LForm) (u : Upset) (fm : Fmt) (a b : VSrc), ReadyLong c s →
    let y := s.upsetCell c u
    let n := f.imm32.toNat / 2 ^ 12 % 2 ^ 16 + 1
    let nb := (n + 7) / 8
    let slot := f.imm32.toNat % 2 ^ 12
    let ea (j : Nat) : Nat := (a.rows.headD []).getD j 0
    let eb (j : Nat) : Nat := (b.rows.headD []).getD j 0
    vfmt false (x.ext.toNat / 2 ^ 8 % 4) = some fm →
    y.vsource (x.ext.toNat % 4) x.oc_a.toNat x.acc f.ra fm 1 n = .ok a →
    y.vsource (x.ext.toNat / 4 % 4) x.oc_b.toNat 0 f.rb fm 1 n = .ok b →
    (ewOk f x true true false false fm = true → f.func.toNat < 7 → slot % 4 = 0 → 64 * slot + nb ≤ 0x40000 →
      badOverlap [⟨64 * slot, nb, n, 0⟩] (a.reg ++ b.reg) = none →
      ∃ t z m, exec (.vcmp c f x u) s = .next t ∧
        TensorDone [CR.VX_BUSY_CNT, CR.OC_PORT_WAIT_CNT] 0 c s z (nextPc (s.cell c).npc .vcmp) x t ∧
        z = { y with oc := z.oc, ocPoison := z.ocPoison } ∧ z.oc = (y.ocWrite (64 * slot) (leBytes nb m)).oc ∧
        ∀ j, j < 8 * nb → bitB m j =
          if j < n then fCmp fm f.func.toNat (ea j) (eb j) else bitB (leNat (y.ocRead (64 * slot) nb)) j) ∧
    (ewOk f x false true true true fm = true → x.oc_c.toNat % 4 = 0 → 64 * x.oc_c.toNat + nb ≤ 0x40000 →
      y.ocBad (64 * x.oc_c.toNat) nb = false → slot % 4 = 0 → 64 * slot + n * fm.esize ≤ 0x40000 →
      badOverlap [⟨64 * slot, n * fm.esize, n, fm.esize⟩] (a.reg ++ b.reg ++ [⟨64 * x.oc_c.toNat, nb, n, 0⟩]) = none →
      ∃ t z, exec (.vsel c f x u) s = .next t ∧
        TensorDone [CR.VX_BUSY_CNT, CR.OC_PORT_WAIT_CNT] 0 c s z (nextPc (s.cell c).npc .vsel) x t ∧
        z = { y with oc := z.oc, ocPoison := z.ocPoison } ∧
        z.oc = (y.ocWrite (64 * slot) ((List.range n).flatMap (fun j => leBytes fm.esize (fCopy fm
          (if bitB (leNat (y.ocRead (64 * x.oc_c.toNat) nb)) j then ea j else eb j))))).oc)

/-- R131 to R134, R206: the reductions, each of rows of an OC vector or an accumulator span, with one result for each
row; RSSQ with acc_en adds its results to an accumulator RU_FACC. RFSTORE copies one to a slot or to a register, RFCLR
clears it. -/
def Obligations.RowReductions : Prop :=
  ∀ (c : CellId) (s : State) (f : SForm) (x : LForm) (u : Upset), ReadyLong c s →
    let z := s.cell c
    let y := s.upsetCell c u
    let imm := f.imm32.toNat
    let n := imm % 2 ^ 16 + 1
    let rows := imm / 2 ^ 16 % 2 ^ 8 + 1
    let i := imm / 2 ^ 24 % 4
    (∀ e ∈ redTable, ∀ (fm : Fmt) (a : VSrc),
      let row (r : Nat) : TreeResult := reduceRow e.2.2.1 fm ((y.rdS f.rb).toNat % 2 ^ 32) (a.rows.getD r [])
      let fl := ((List.range rows).foldl (fun (g : Flags) r => g.or (row r).flags) Flags.none).toNat
      vfmt false (x.ext.toNat / 2 ^ 8 % 4) = some fm → x.ext.toNat / 4 % 2 ^ 6 = 0 → x.ext.toNat % 4 < 2 →
      sOnly f { imm := true, rb := e.2.2.1 = .amax } = true →
      lOnly x { a := true, c := true, acc := x.ext.toNat % 4 = 1, ext := true } = true →
      (x.ext.toNat % 4 = 1 → fm = .fp32 ∧ x.oc_a = 0) → imm < 2 ^ 24 →
      y.vsource (x.ext.toNat % 4) x.oc_a.toNat x.acc 0 fm rows n = .ok a →
      x.oc_c.toNat % 4 = 0 → 64 * x.oc_c.toNat + rows * e.2.2.2 ≤ 0x40000 →
      badOverlap [⟨64 * x.oc_c.toNat, rows * e.2.2.2, rows, e.2.2.2⟩] a.reg = none →
      fl &&& y.reg CR.NUM_TRAP_EN = 0 →
      ∃ t w, exec (e.2.1 c f x u) s = .next t ∧
        TensorDone [CR.RU_BUSY_CNT, CR.OC_PORT_WAIT_CNT] fl c s w (nextPc z.npc e.1) x t ∧
        w = { y with oc := w.oc, ocPoison := w.ocPoison } ∧
        w.oc = (y.ocWrite (64 * x.oc_c.toNat)
          ((List.range rows).flatMap (fun r => leBytes e.2.2.2 (row r).val))).oc) ∧
    (∀ (fm : Fmt) (a : VSrc), vfmt false (x.ext.toNat / 2 ^ 8 % 4) = some fm → x.ext.toNat / 4 % 2 ^ 6 = 0 →
      x.ext.toNat % 4 = 0 → sOnly f { imm := true } = true →
      lOnly x { a := true, c := true, acc := false, ext := true } = true → rows = 1 → imm / 2 ^ 26 = 1 →
      y.vsource 0 x.oc_a.toNat x.acc 0 fm 1 n = .ok a → x.oc_c.toNat % 4 = 0 →
      badOverlap [⟨64 * x.oc_c.toNat, 8, 1, 8⟩] a.reg = none → y.reg CR.NUM_TRAP_EN = 0 →
      ∃ t w, exec (.rssq c f x u) s = .next t ∧
        TensorDone [CR.RU_BUSY_CNT, CR.OC_PORT_WAIT_CNT]
          (((reduceRow .ssq fm 0 (a.rows.headD [])).flags.or
            (fAdd .fp64 (y.reg (CR.RU_FACC i)) (reduceRow .ssq fm 0 (a.rows.headD [])).val).2).toNat)
          c s w (nextPc z.npc .rssq) x t ∧
        w = { y with regs := w.regs, oc := w.oc, ocPoison := w.ocPoison } ∧
        w.oc = (y.ocWrite (64 * x.oc_c.toNat) (leBytes 8 (reduceRow .ssq fm 0 (a.rows.headD [])).val)).oc ∧
        (∀ o, o ≠ CR.RU_FACC i → w.reg o = y.reg o) ∧
        w.reg (CR.RU_FACC i) = (fAdd .fp64 (y.reg (CR.RU_FACC i)) (reduceRow .ssq fm 0 (a.rows.headD [])).val).1 % 2 ^ 64) ∧
    (imm = i * 2 ^ 24 →
      (sOnly f { imm := true } = true → lOnly x { c := true } = true →
        ∃ t, exec (.rfstoreSlot c f x u) s = .next t ∧
          RetiresPosting (CR.OC_PORT_WAIT_CNT :: commitCounters) c s (z.ocWrite (64 * x.oc_c.toNat) (leBytes 8 (z.reg (CR.RU_FACC i))))
            (nextPc z.npc .rfstore) x t) ∧
      (sOnly f { imm := true, func := true, rd := true } = true → f.func = 1 → lOnly x {} = true →
        ∃ t, exec (.rfstoreReg c f x u) s = .next t ∧
          RetiresPosting commitCounters c s (z.wrS f.rd (BitVec.ofNat 64 (z.reg (CR.RU_FACC i))))
            (nextPc z.npc .rfstore) x t) ∧
      (sOnly f { imm := true } = true → lOnly x {} = true →
        ∃ t, exec (.rfclr c f x u) s = .next t ∧
          RetiresPosting commitCounters c s (z.setReg (CR.RU_FACC i) 0) (nextPc z.npc .rfclr) x t))

/-- R135 to R142, R204, R207: VSMAX writes the probabilities of each row and its log-sum-exp; VSMON those of a segment,
its state record and alpha; VSMFIN the factor and the log-sum-exp of each record. -/
def Obligations.RowSoftmax : Prop :=
  ∀ (c : CellId) (s : State) (f : SForm) (x : LForm) (u : Upset), ReadyLong c s →
    let y := s.upsetCell c u
    let rows := x.ext.toNat % 2 ^ 8 + 1
    let n := f.imm32.toNat / 2 ^ 12 % 2 ^ 16 + 1
    let sc := (y.rdS f.rb).toNat % 2 ^ 32
    let pc (o : Op) : Word := nextPc (s.cell c).npc o
    let busy := [CR.VX_BUSY_CNT, CR.FU_BUSY_CNT, CR.RU_BUSY_CNT, CR.VX_SMAX_ROW_CNT, CR.OC_PORT_WAIT_CNT]
    let puts (ws : List (Nat × List Byte)) : SMap Byte := (ws.foldl (fun z w => z.ocWrite w.1 w.2) y).oc
    let elems (o : SmOps) (l : List (List Nat)) : List (Nat × List Byte) :=
      (l.zipIdx).map (fun p =>
        (o.out.off + p.2 * rowStride n o.k.fout.esize, p.1.flatMap (leBytes o.k.fout.esize)))
    (∀ (o : SmOps) (l : OcRegion),
      let r : List SmRow := (o.src.rows.zip (o.act.map (·.1))).map (fun p => vsmaxRow sc o.k.fin o.k.fout p.1 p.2)
      let fl := (r.foldl (fun (g : Flags) q => g.or q.flags) Flags.none).toNat
      smOk f x = true → y.smOperands f x true = .ok o → ocDest x.oc_c.toNat (4 * rows) rows 4 = .ok l →
      badOverlap [o.out, l] (o.src.reg ++ o.act.flatMap (·.2)) = none → o.out.meets l = false →
      fl &&& y.reg CR.NUM_TRAP_EN = 0 →
      ∃ t z, exec (.vsmax c f x u) s = .next t ∧ TensorDone busy fl c s z (pc .vsmax) x t ∧
        z = { y with oc := z.oc, ocPoison := z.ocPoison } ∧
        z.oc = puts (elems o (r.map (·.out)) ++ [(l.off, r.flatMap (fun q => leBytes 4 q.lse))])) ∧
    (∀ (o : SmOps) (st al : OcRegion) (recs : List SmState) (r : List SmonRow),
      let fl := (r.foldl (fun (g : Flags) q => g.or q.flags) Flags.none).toNat
      smOk f x = true → y.smOperands f x false = .ok o → ocDest x.oc_c.toNat (16 * rows) rows 16 = .ok st →
      ocDest (x.oc_c.toNat + 4 * ((rows + 15) / 16)) (4 * rows) rows 4 = .ok al →
      y.smRecords x.oc_c.toNat rows = .ok recs →
      (o.src.rows.zip ((o.act.map (·.1)).zip recs)).map (fun p => vsmonRow sc o.k.fin o.k.fout p.1 p.2.1 p.2.2) =
        r.map some →
      badOverlap [o.out, st, al] (o.src.reg ++ o.act.flatMap (·.2) ++ [st]) = none →
      o.out.meets st = false → o.out.meets al = false → st.meets al = false → fl &&& y.reg CR.NUM_TRAP_EN = 0 →
      ∃ t z, exec (.vsmon c f x u) s = .next t ∧ TensorDone busy fl c s z (pc .vsmon) x t ∧
        z = { y with oc := z.oc, ocPoison := z.ocPoison } ∧
        z.oc = puts (elems o (r.map (·.p)) ++ [(st.off, r.flatMap (fun q => leBytes 16 q.st.toNat)),
          (al.off, r.flatMap (fun q => leBytes 4 q.alpha))])) ∧
    (∀ (recs : List SmState) (a q l : OcRegion),
      let vsmfinRow (w : SmState) : Nat × Nat × Flags :=
        if w.nan then (Fmt.nan .fp32, Fmt.nan .fp32, .none)
        else if 0 < w.ninf then (invCount .fp32 w.ninf, Fmt.infBits .fp32, .none)
        else if w.m = 0xFF800000 then (0, 0xFF800000, { ms := true })
        else ((fuRecip w.s).1, (fAdd .fp32 w.m (fuLog2 w.s).1).1, .none)
      let fl := ((recs.map vsmfinRow).foldl (fun (g : Flags) w => g.or w.2.2) Flags.none).toNat
      sOnly f { imm := true } = true → lOnly x { a := true, c := true, ext := true } = true → f.imm32.toNat < 2 ^ 12 →
      x.ext.toNat < 2 ^ 8 → ocDest x.oc_a.toNat (16 * rows) rows 16 = .ok a →
      y.smRecords x.oc_a.toNat rows = .ok recs → ocDest f.imm32.toNat (4 * rows) rows 4 = .ok q →
      ocDest x.oc_c.toNat (4 * rows) rows 4 = .ok l → badOverlap [q, l] [a] = none → q.meets l = false →
      fl &&& y.reg CR.NUM_TRAP_EN = 0 →
      ∃ t z, exec (.vsmfin c f x u) s = .next t ∧ TensorDone busy fl c s z (pc .vsmfin) x t ∧
        z = { y with oc := z.oc, ocPoison := z.ocPoison } ∧
        z.oc = puts [(q.off, recs.flatMap (fun w => leBytes 4 (vsmfinRow w).1)),
          (l.off, recs.flatMap (fun w => leBytes 4 (vsmfinRow w).2.1))])

/-- R208, R209, R340, R343: BAR arrives at the barrier of its band or of all cells and EQNX, while HV_CTRL.en is 1, at
the Equinox barrier; each waits there. BARRIER_COMPLETE opens a barrier at which every cell of the scope has arrived:
its generation ends, and each cell that waits there goes on. -/
def Obligations.Barriers : Prop :=
  ∀ (c : CellId) (s : State) (f : SForm),
    let k := bandOf c
    let joins (b : Barrier) : Barrier := { b with arrived := b.arrived ++ [c] }
    let waits (i : Instr) (g : Nat) : Prop := ∃ t e, exec i s = .next t ∧ (t.cell c).window = [e] ∧ e.pc = (s.cell c).npc ∧
      e.fault = none ∧ e.arrived = some g ∧ (∀ d, d ≠ c → t.cell d = s.cell d) ∧
      t = { s with cells := t.cells, sync := t.sync } ∧
      (i = .bar c f → f.func = 0 → t.sync = { s.sync with bands := s.sync.bands.set k (joins s.sync.bands[k]) }) ∧
      (i = .bar c f → f.func = 1 → t.sync = { s.sync with all := joins s.sync.all }) ∧
      (i = .eqnx c f → t.sync = { s.sync with equinox := joins s.sync.equinox })
    (Ready c s → sOnly f { func := true } = true →
      (f.func = 0 → c ∉ s.sync.bands[k].arrived → waits (.bar c f) s.sync.bands[k].gen) ∧
      (f.func = 1 → c ∉ s.sync.all.arrived → waits (.bar c f) s.sync.all.gen)) ∧
    (Ready c s → sOnly f { rd := true } = true → bitB (s.freg FR.HV_CTRL) 0 = true → c ∉ s.sync.equinox.arrived →
      waits (.eqnx c f) s.sync.equinox.gen) ∧
    (∀ b : Fin 16, (∀ d ∈ bandCells b, d ∈ s.sync.bands[b].arrived) →
      (∀ d ∈ bandCells b, ∃ e, Holds d s e ∧ e.ins.op = .bar ∧ e.ins.f = {} ∧ e.ins.x = {} ∧ e.next = none ∧
        e.arrived = some s.sync.bands[b].gen) →
      ∃ t, exec (.barrierComplete (.band b)) s = .next t ∧
        t.sync.bands[b] = { gen := s.sync.bands[b].gen + 1, arrived := s.sync.bands[b].next, next := [] } ∧
        (∀ d ∈ bandCells b, (t.cell d).window = [] ∧
          ∀ e, (s.cell d).window = [e] → (t.cell d).npc = nextPc e.pc .bar) ∧
        ∀ d, d ∉ bandCells b → t.cell d = s.cell d)

/-- R172, R174, R185, R186, R208, R210: YIELD waits until its cycles run out. A mispredicted BLOOP decrements its
counter and goes where it leads in truth. Run-ahead begins in a stall of the oldest instruction and ends after 512
instructions. An array is lent at a yield point, and comes back once an instruction wants it. The end of a YIELD and a loan
end the DOZE of the cell (R443). -/
def Obligations.YieldsLoopsAndLoans : Prop :=
  ∀ (c : CellId) (s : State) (f : SForm),
    let x := s.cell c
    (Ready c s → sOnly f { imm := true } = true → 1 ≤ f.imm32.toNat → f.imm32.toNat < 2 ^ 16 →
      ∃ t e, exec (.yield c f) s = .next t ∧ t = s.setCell c (t.cell c) ∧ (t.cell c).window = [e] ∧ e.pc = x.npc ∧
        e.fault = none ∧ t.cell c = { x with window := [e], npc := nextPc x.npc .yield, stuck := none }) ∧
    (∀ e, e.ins.op = .yield → sOnly e.ins.f { imm := true } = true → 1 ≤ e.ins.f.imm32.toNat →
      e.ins.f.imm32.toNat < 2 ^ 16 → e.next = some (nextPc e.pc .yield) →
      (Holds c s e → ∃ t, exec (.yieldExpiry c) s = .next t ∧ Retires (countersOf e) c s x (nextPc e.pc .yield) t) ∧
      (let woken : Cell := { x with cp := { x.cp with st := .awake } }
       x.cp.st = .doze → Holds c (s.setCell c woken) e → ∃ t, exec (.yieldExpiry c) s = .next t ∧
        Retires (CR.CP_DOZE_CNT :: countersOf e) c s woken (nextPc e.pc .yield) t)) ∧
    (∀ e w p, x.window = e :: w → e.wrong = some p → e.ins.op = .bloop → e.waited = none →
      ∃ t, exec (.loopMispredict c) s = .next t ∧ (∀ d, d ≠ c → t.cell d = s.cell d) ∧
        (t.cell c).window = [] ∧ (t.cell c).npc = p ∧ (t.cell c).runahead = none ∧
        (t.cell c).s = (x.wrS e.ins.f.ra (x.rdS e.ins.f.ra - 1)).s ∧
        t.cell c = { x with regs := (t.cell c).regs, s := (t.cell c).s, npc := p, window := [], runahead := none, stuck := none
                            loops := (t.cell c).loops, trips := (t.cell c).trips }) ∧
    (∀ e, x.running = true → x.window = [e] → e.fault = none → e.wrong = none → e.ins.op = .semwait →
      e.waited.isSome = true → e.next.isSome = true → x.runahead = none → bitB (x.reg CR.SQ_CTRL) 5 = true →
      x.inHandler = false →
      ∃ t r, exec (.runAheadEntry c) s = .next t ∧
        t = s.setCell c { x.count CR.SQ_RA_ENTRY_CNT with runahead := some r } ∧ r.pc = x.npc ∧ r.count = 0 ∧
        r.regs = x.s.toList.map some) ∧
    (∀ r, x.runahead = some r → 512 ≤ r.count →
      ∃ t, exec (.runAheadLimit c) s = .next t ∧ t = s.setCell c { x with runahead := some { r with stopped := true } }) ∧
    (x.lendable = true →
      ∃ t, exec (.arrayLend c) s = .next t ∧ t = { s with cells := t.cells, fregs := t.fregs, free := t.free } ∧
        (x.cp.st = .awake → t.cell c = { x.count CR.SQ_LEND_CNT with lent := true }) ∧
        (x.cp.st = .doze → t.cell c = { x with
          regs := (t.cell c).regs, lent := true, cp := { x.cp with st := .awake } }) ∧
        (∀ d, d ≠ c → t.cell d = s.cell d) ∧
        (∀ a, a ≠ FR.HV_U_LEND_CNT (c.val / 16) → a ≠ FR.HV_U_STATUS (c.val / 16) → t.freg a = s.freg a)) ∧
    (x.lent = true → x.wantArray = true →
      ∃ t, exec (.arrayReturn c) s = .next t ∧ t = s.setCell c { x with lent := false, wantArray := false })

/-- R97, R105, R151, R167, R181, R182: software starts a halted sequencer, which leaves its handler and clears
SQ_FAULT_CAUSE.valid, and halts a running one; it writes a reduction accumulator and asks for a self-test, whose end
makes a good array available. An engine carries out the instruction at the head of its cell; a GFILL whose limit has run
out issues with the rows it has. -/
def Obligations.CellControl : Prop :=
  ∀ (c : CellId) (s : State) (o : Origin),
    let x := s.cell c
    let at' (off : Nat) : Prop := Still s ∧ Reaches o s (0x30000000000 + 0x10000 * c.val + off)
    (at' CR.SQ_CTRL → (∀ k, o ≠ .service k) → x.mode ≠ .running → x.cp.st = .awake → s.fatal = false →
      ∃ t, exec (.sqStart o c) s = .next t ∧ t = s.setCell c (t.cell c) ∧
        t.cell c = { x with regs := (t.cell c).regs, mode := .running, inHandler := false } ∧
        (∀ p, p ≠ CR.SQ_CTRL → p ≠ CR.SQ_FAULT_CAUSE → (t.cell c).reg p = x.reg p) ∧
        (SMap.wf cellResetVal x.regs = true →
          (t.cell c).reg CR.SQ_FAULT_CAUSE = x.reg CR.SQ_FAULT_CAUSE % 2 ^ 63)) ∧
    (at' CR.SQ_CTRL → o ≠ .ownCell → x.mode = .running → x.cp.st ≠ .doze →
      ∃ t, exec (.sqHalt o c) s = .next t ∧ t = s.setCell c (t.cell c) ∧
        t.cell c = { x with regs := (t.cell c).regs, mode := .halted, runahead := none, stuck := none, wantArray := false } ∧
        (∀ p, p ≠ CR.SQ_CTRL → (t.cell c).reg p = x.reg p)) ∧
    (at' CR.SQ_CTRL → o ≠ .ownCell → x.mode = .running → x.cp.st = .doze →
      ∃ t, exec (.sqHalt o c) s = .next t ∧ t = { s.setCell c (t.cell c) with free := s.free + 1 } ∧
        t.cell c = { x with
          regs := (t.cell c).regs, mode := .halted, runahead := none, stuck := none, wantArray := false
          cp := { x.cp with st := .awake } }) ∧
    (∀ (i : Fin 4) (v : Word), at' (CR.RU_FACC i.val) →
      ∃ t, exec (.ruFaccWrite o c i v) s = .next t ∧ t = s.setCell c (x.setReg (CR.RU_FACC i.val) v.toNat)) ∧
    (∀ v : Half, at' CR.MX_SELFTEST → v.getLsbD 0 = true →
      ∃ t, exec (.mxSelftest o c v) s = .next t ∧ t = s.setCell c { x with mx := { x.mx with selftest := true } }) ∧
    (x.window = [] → x.mx.selftest = true → x.lent = false → x.mx.failed = false → x.mx.mvFailed = false →
      ∃ t, exec (.selftestDone c {}) s = .next t ∧ t = s.setCell c (t.cell c) ∧
        t.cell c = { x with regs := (t.cell c).regs, mx := {} }) ∧
    (∀ e, Holds c s e → e.ins.op = .rfclr → e.ins.f = {} → e.ins.x = {} → e.next = some (nextPc e.pc .rfclr) →
      ∃ t, exec (.engineInstructionComplete c) s = .next t ∧
        Retires (countersOf e) c s (x.setReg (CR.RU_FACC 0) 0) (nextPc e.pc .rfclr) t) ∧
    (∀ e e' y, Holds c s e → e.ins.op = .gfill → e.ins.x.pen = false → e.gather.rows ≠ [] →
      (x.rdS e.ins.f.ra).toNat % 2 ^ 16 ≠ 0 → e.next = some (nextPc e.pc .gfill) →
      e' = { e with gather := { e.gather with expired := true } } →
      evalGfill c e' (s.setCell c { x with window := [e'] }) = .done (s.setCell c { y with window := [e'] }) →
      y.npc = x.npc → y.reg CR.SQ_CTRL = x.reg CR.SQ_CTRL → SMap.wf cellResetVal y.regs = true →
      ∃ t, exec (.gfillLimitExpiry c) s = .next t ∧ Retires (countersOf e) c s y (nextPc e.pc .gfill) t)

/-- R219 to R222, R230: A read of part of a line that is present and that nobody keeps the access from returns the line's
bytes and leaves them, a modified near copy having first brought them home. A coherent read by another cell than the home's
is served by the cell's own near copy where it has one; otherwise it leaves one, alone where nobody else holds the line, and
adds the cell to the holders. -/
def Obligations.LineReads : Prop :=
  ∀ (s : State) (pa n : Nat) (cls : Fin 8) (a : Agent) (c : CellId),
    let la := pa / 256
    let l := s.line la
    let far : Prop := homeSlice (la * 256) ≠ c
    let served (i : Instr) (m : Line) : Prop :=
      ∃ t, exec i s = .next t ∧ (∀ lb, lb ≠ la → t.line lb = s.line lb) ∧ t.line la = m ∧
        t = { s with mem := { s.mem with lines := t.mem.lines, lruTick := s.mem.lruTick + 1 }
                     fregs := t.fregs, hs := { s.hs with reply := .data (l.read (pa % 256) n) } }
    let moves (i : Instr) (m : Line → Prop) : Prop :=
      ∃ t, exec i s = .next t ∧ (∀ lb, homeSet (lb * 256) ≠ homeSet (la * 256) → t.line lb = s.line lb) ∧
        m (t.line la) ∧
        t = { s with mem := t.mem, fregs := t.fregs, free := t.free
                     hs := { s.hs with snooped := t.hs.snooped, reply := .data (l.read (pa % 256) n) } }
    s.dev.mainOn = true → linePart pa n = true → l.st ≠ .i → l.st ≠ .a → s.lineBusy la false = false → l.held = [] →
    s.frameWait la none = false →
    (l.st ≠ .m →
      served (.homeRead a pa n cls {}) { l with lru := s.mem.lruTick + 1 } ∧
      (¬ far → served (.coherentRead c pa n {}) { l with st := .s, lru := s.mem.lruTick + 1 })) ∧
    (l.st = .m → ∀ i, i = .homeRead a pa n cls {} ∨ ¬ far ∧ i = .coherentRead c pa n {} →
      moves i (fun m => ∃ g w k u, m = { l with st := .s, scheme := g, way := w, slot := k, lru := u })) ∧
    (far → s.frameWait la (some c) = false →
      (l.holds c = true → served (.coherentRead c pa n {})
        { l with near := l.near.map (fun k => if k.cell = c then { k with lru := s.mem.lruTick + 1 } else k) }) ∧
      (l.holds c = false → moves (.coherentRead c pa n {}) (fun m => ∃ k g w p u, k.cell = c ∧ m = { l with
        st := if l.st = .s ∧ l.noHolder = true ∧ s.hostBlocks la true = [] then .e else .s
        holders := l.holders.add c, near := l.near ++ [k], scheme := g, way := w, slot := p, lru := u })))

/-- R219, R222: A write of part of a line that is present puts its bytes into the line, which is then dirty and names
its writer: without holders after a home write or a write by the home's own cell, held by the writing cell alone, with its
near copy, after a coherent write from elsewhere. A read that follows returns the bytes written, in whichever scheme the
line is held. -/
def Obligations.LineWrites : Prop :=
  ∀ (s : State) (pa : Nat) (bytes : List Byte) (cls : Fin 8) (a : Agent) (c : CellId),
    let la := pa / 256
    let l := s.line la
    let bs := clean bytes
    let served (i : Instr) (st : LState) (h : List CellId) (w : Agent) : Prop :=
      ∃ t g y p k near, exec i s = .next t ∧
        t.line la = { l.put (pa % 256) bs with
          st, holders := .cells h, near, dirty := true, writer := some w, scheme := g, way := y, slot := p, lru := k } ∧
        near.map (fun (n : Near) => n.cell) = h ∧
        (∀ lb, homeSet (lb * 256) ≠ homeSet (la * 256) → t.line lb = s.line lb) ∧
        t = { s with mem := t.mem, fregs := t.fregs, hs := { s.hs with snooped := t.hs.snooped } } ∧
        (l.poison = [] → t.frameWait la none = false → ∀ r, ∃ u, exec (.homeRead r pa bytes.length cls {}) t = .next u ∧
          u.hs.reply = .data bs)
    s.dev.mainOn = true → linePart pa bytes.length = true → l.st ≠ .i → l.st ≠ .a → s.lineBusy la true = false →
    l.held = [] → s.frameWait la none = false →
    served (.homeWrite a pa bytes cls {}) .s [] a ∧
    (homeSlice (la * 256) = c → served (.coherentWrite c pa bytes {}) .s [] (.cell c)) ∧
    (homeSlice (la * 256) ≠ c → s.frameWait la (some c) = false → served (.coherentWrite c pa bytes {}) .m [c] (.cell c))

/-- R219, R222, R226, R228: in arrival order a contribution to a line that is present is held for it, and the line is then
in A, uncompressed and without holders. In deterministic mode one whose tag is not below n is refused with no change but
HR_RED_REJECT_CNT, and so is any contribution to a slice window or to memory that the layers do not cache. The adder
applies the oldest held one: word by word to the words of its mask, in FP32, and the line names the contributor as its last
writer. -/
def Obligations.InCacheReductions : Prop :=
  ∀ (s : State) (la : Nat) (k : Contrib),
    let l := s.line la
    let n := homeSlice (la * 256)
    let mode := l.det.getD (BitVec.ofNat 8 (bits (s.freg FR.HR_MODE) 31 24))
    (s.dev.mainOn = true → cacheablePa (la * 256) = true → Still s → s.mem.backed = [] → l.st ≠ .i → l.leaving = false →
      l.epoch = none → s.hostBlocks la true = [] → s.mem.miss.any (fun m => m.2.line == la) = false →
      s.frameWait la none = false →
      (mode.getLsbD k.cls.val = false → l.st ≠ .a →
        ∃ t w p u, exec (.reductionContribution la k) s = .next t ∧
          t.line la = { l with st := .a, holders := .cells [], near := [], held := l.held ++ [k], det := some mode
                               scheme := .raw, way := w, slot := p, lru := u } ∧
          (∀ lb, homeSet (lb * 256) ≠ homeSet (la * 256) → t.line lb = s.line lb) ∧
          t = { s with mem := t.mem, fregs := t.fregs, hs := { s.hs with snooped := t.hs.snooped } }) ∧
      (mode.getLsbD k.cls.val = false → l.st = .a →
        ∃ t, exec (.reductionContribution la k) s = .next t ∧
          t.line la = { l with held := l.held ++ [k], det := some mode } ∧
          (∀ lb, lb ≠ la → t.line lb = s.line lb) ∧
          t = { s with mem := { s.mem with lines := t.mem.lines }, fregs := t.fregs }) ∧
      (mode.getLsbD k.cls.val = true → k.n ≤ k.t →
        exec (.reductionContribution la k) s = .next (s.count (FR.HR_RED_REJECT_CNT n)))) ∧
    (s.dev.mainOn = true → cacheablePa (la * 256) = false →
      exec (.reductionContribution la k) s = .next (s.count (FR.HR_RED_REJECT_CNT (redSlice la)))) ∧
    (∀ ks, l.held = k :: ks → l.st ≠ .i → SMap.wf floorResetVal s.fregs = true →
      ∃ t, exec (.reductionApply la) s = .next t ∧
        (t.line la).held = ks ∧ (t.line la).dirty = true ∧ (t.line la).writer = some k.agent ∧ (t.line la).st = l.st ∧
        (t.line la).data = BitVec.ofNat 2048 (redWords k.op k.mask.toNat l.data.toNat k.words.toNat 64).1 ∧
        ((t.line la).poison = [] ↔ l.poison = [] ∧ k.poison = false) ∧
        t.freg (FR.HR_RED_APPLY_CNT n) = (s.freg (FR.HR_RED_APPLY_CNT n) + 1) % 2 ^ 64 ∧
        t = { s with mem := t.mem, fregs := t.fregs, hs := { s.hs with snooped := t.hs.snooped } })

/-- R214, R215, R222, R229, R232 to R235: the evictor takes the least recently used of what a set holds: nothing, where it
may take nothing; it waits, counted, for a line that holds contributions; a near copy that leaves gives its data to its
home, which forgets it as a holder, and stays where the home has no frame for them; a clean line that the host does not
hold is gone at once, any other one is leaving until the host has given back what it holds and memory has acknowledged its
write-back, and then memory holds its bytes; a write-back to a stack in self-refresh asks for its exit; a pin outlasts the
line. A line that a home read waits for arrives with the bytes of memory, of which the read gets its own. A window that
fits its slice's reserve is being resized until the resize is done, and then has its new size, the frames that it has
taken reading as zero; one that does not fit is refused with HR_STATUS bit 2. HR_UNPIN takes the pins of the classes
written from their lines and changes nothing else. -/
def Obligations.EvictionsFillsAndPins : Prop :=
  (∀ (s : State) (la : Nat) (n : CellId) (i : Fin 2048), SMap.wf (fun _ => ({} : Line)) s.mem.lines = true →
     let l := s.line la
     (lruHeld (s.residents n i.val) = none → exec (.homeEviction n i) s = .next s) ∧
     (∀ v, lruHeld (s.residents n i.val) = some v →
       let m := s.line v.la
       let asked := s.hostBlocks v.la true
       (v.held = true → ∃ t, exec (.homeEviction n i) s = .next t ∧
         t = { s with fregs := t.fregs, free := s.free + 1 } ∧
         ∀ r, r ≠ FR.HR_EVICT_HOLD_CNT n → t.freg r = s.freg r) ∧
       (v.held = false → v.near = true → s.stays v = true → exec (.homeEviction n i) s = .next s) ∧
       (v.held = false → v.near = true → s.stays v = false → ∃ t, exec (.homeEviction n i) s = .next t ∧
         (t.line v.la).holds n = false ∧ (t.line v.la).data = m.data ∧
         (t.line v.la).st = (if m.st = .m ∨ m.st = .e then .s else m.st) ∧
         (∀ h, m.holders = .cells h → m.st = .s → (t.line v.la).holders = .cells (h.filter (fun d => d != n))) ∧
         (∀ lb, homeSet (lb * 256) ≠ homeSet (v.la * 256) → t.line lb = s.line lb) ∧
         t = { s with mem := t.mem, fregs := t.fregs, hs := { s.hs with snooped := t.hs.snooped } }) ∧
       (v.held = false → v.near = false → m.dirty = true ∨ asked ≠ [] → ∃ t, exec (.homeEviction n i) s = .next t ∧
         t.line v.la = { m with st := if m.st = .a then .a else .s, holders := .cells [], near := [], leaving := true } ∧
         (∀ lb, lb ≠ v.la → t.line lb = s.line lb) ∧ (∀ b ∈ asked, ∃ w, (b, w) ∈ t.hs.snooped) ∧
         t = { s with mem := { s.mem with lines := t.mem.lines }, fregs := t.fregs
                      hs := { s.hs with snooped := t.hs.snooped } }) ∧
       (v.held = false → v.near = false → m.dirty = false → asked = [] → ∃ t, exec (.homeEviction n i) s = .next t ∧
         t.line v.la = { epoch := m.epoch } ∧ (∀ lb, lb ≠ v.la → t.line lb = s.line lb) ∧
         t = { s with mem := { s.mem with lines := t.mem.lines } })) ∧
     (l.leaving = false → exec (.writebackAck la) s = .next s) ∧
     (l.leaving = true → s.hostBlocks la true ≠ [] → exec (.writebackAck la) s = .next (s.recall la true)) ∧
     (∀ k, l.leaving = true → s.hostBlocks la true = [] → l.dirty = true → s.rawAsleep (la * 256) = some k →
       exec (.writebackAck la) s = .next (s.requestExit k)) ∧
     (l.leaving = true → s.hostBlocks la true = [] → l.dirty = true → s.rawAsleep (la * 256) = none → Still s →
       Memory.wf s.mem = true → la * 256 + 256 ≤ hbmTop →
       ∃ t, exec (.writebackAck la) s = .next t ∧
         t.line la = { epoch := l.epoch, pinned := l.pinned, cls := if l.pinned then l.cls else 0 } ∧
         (∀ lb, lb ≠ la → t.line lb = s.line lb) ∧
         plain (t.hbmRead (la * 256) 256) = plain (l.read 0 256) ∧
         (∀ b k, b + k ≤ la * 256 ∨ la * 256 + 256 ≤ b → plain (t.hbmRead b k) = plain (s.hbmRead b k)) ∧
         t = { s with mem := t.mem }) ∧
     (∀ a cls off k m, s.mem.miss = [(m, { line := la, waiters := [.homeRead a cls off k] })] → s.mem.backed = [] →
       l = {} → Still s → la * 256 + 256 ≤ hbmTop → off + k ≤ 256 → s.rawAsleep (la * 256) = none →
       s.hostBlocks la false = [] → s.frameWait la none = false →
       ∃ t d, exec (.lineFill la false {}) s = .next t ∧
         plain d = plain (s.hbmRead (la * 256 + off) k) ∧ t.mem.miss = [] ∧
         (t.line la).st = .s ∧ (t.line la).cls = cls ∧ (t.line la).noHolder = true ∧ (t.line la).dirty = false ∧
         plain ((t.line la).read 0 256) = plain (s.hbmRead (la * 256) 256) ∧
         (∀ lb, homeSet (lb * 256) ≠ homeSet (la * 256) → t.line lb = s.line lb) ∧
         t = { s with mem := t.mem, fregs := t.fregs
                      hs := { s.hs with snooped := t.hs.snooped, reply := .data d } })) ∧
  (∀ (s : State) (n : CellId) (o : Origin) (v : Half),
     let units := v.toNat % 512
     let fits := units ≤ 336 ∧ units * 256 + s.pinnedAll n ≤ s.freg FR.HR_PIN_CAP ∧
       s.reserveOk n units (s.retiredLayers n) true = true
     (Reaches o s (FR.HR_WIN_CFG n.val) → (s.slice n).resize ≠ none → exec (.winCfgWrite o n v) s = .next s) ∧
     (Reaches o s (FR.HR_WIN_CFG n.val) → (s.slice n).resize = none →
       (fits → ∃ t, exec (.winCfgWrite o n v) s = .next t ∧
         t = s.setSlice n { s.slice n with resize := some units }) ∧
       (¬ fits → ∃ t, exec (.winCfgWrite o n v) s = .next t ∧ t = s.orFreg (FR.HR_STATUS n) 4)) ∧
     (∀ k, (s.slice n).resize = some k → k ≤ 336 → Still s → SMap.wf floorResetVal s.fregs = true →
       s.mem.lines.flatMap (fun e => e.2.residents e.1 n) = [] →
       ∃ t, exec (.winResizeDone n) s = .next t ∧ (t.slice n).resize = none ∧
         t.winSize n = k * 0x10000 ∧ (∀ m, m ≠ n → t.slice m = s.slice m) ∧
         (∀ off, off < s.winSize n → off < k * 0x10000 → plain (t.winRead n off 1) = plain (s.winRead n off 1)) ∧
         (∀ off, s.winSize n ≤ off → off < k * 0x10000 → plain (t.winRead n off 1) = [0]) ∧
         (∀ r, r ≠ FR.HR_WIN_CFG n → t.freg r = s.freg r) ∧
         t = { s with slices := t.slices, fregs := t.fregs }) ∧
     (Reaches o s FR.HR_UNPIN → Still s → SMap.wf (fun _ => ({} : Line)) s.mem.lines = true →
       ∃ t, exec (.hrUnpin o v) s = .next t ∧
         (∀ la, t.line la = { s.line la with pinned := (s.line la).pinned && !bitB v.toNat (s.line la).cls.val }) ∧
         t = { s with mem := { s.mem with lines := t.mem.lines } }))

/-- R236 to R239: each error of a vertical interface counts with those of its replays; where a lane has to be replaced and
spares are left, a spare takes its place and the layers stay in use. A layer whose interface has failed is retired at the
moments of R239, not before, while every set keeps its reserve: it counts in HR_STATUS, and its frames and lines no longer
in what is available; where no reserve would be left, HR_STATUS bit 3 says that it waits for the next moment, and it waits
too while data in its frames cannot leave. -/
def Obligations.VerticalInterfaces : Prop :=
  ∀ (s : State) (n : CellId) (i : Fin 4) (w : VportFault) (at' : Option Nat),
    let lane := bits (s.freg (FR.HR_VPORT n)) (8 * i.val + 6) (8 * i.val)
    let units := bits (s.freg (FR.HR_WIN_CFG n)) 8 0
    let new := (List.range 4).filter (fun k => i.val ≤ k && !bitB (s.freg (FR.HR_STATUS n)) (8 + k))
    (w.failed = false → w.eighth = false →
      ∃ t, exec (.vportCrcError n i w) s = .next t ∧ t = s.count (FR.HR_VCRC_ERR_CNT n) (max 1 (min 4 w.replays))) ∧
    (w.failed = true → w.lanes + b2n w.eighth + lane ≤ 64 → SMap.wf floorResetVal s.fregs = true →
      ∃ t, exec (.vportCrcError n i w) s = .next t ∧ t.slices = s.slices ∧
        t.freg (FR.HR_VCRC_ERR_CNT n) = (s.freg (FR.HR_VCRC_ERR_CNT n) + 5) % 2 ^ 64 ∧
        bits (t.freg (FR.HR_VPORT n)) (8 * i.val + 6) (8 * i.val) = lane + w.lanes + b2n w.eighth ∧
        t.mem = s.mem ∧ t.cells = s.cells) ∧
    ((s.slice n).failedAt = [(i, at')] →
      (s.retireNow n = false → exec (.layerRetire n) s = .next s) ∧
      (s.retireNow n = true → s.fitWaits n units (s.retiredLayers n + new.length) = true →
        exec (.layerRetire n) s = .next s) ∧
      (s.retireNow n = true → s.fitWaits n units (s.retiredLayers n + new.length) = false →
        s.reserveOk n units (s.retiredLayers n + new.length) false = false →
        ∃ t, exec (.layerRetire n) s = .next t ∧ t = (s.setSlice n { s.slice n with
          retireDue := false
          failedAt := [(i, at'.filter (fun u => decide (s.timeUs < u + 1000 * s.freg FR.HR_RETIRE_TIMEOUT)))] }).orFreg
            (FR.HR_STATUS n) 8) ∧
      (s.retireNow n = true → s.reserveOk n units (s.retiredLayers n + new.length) false = true →
        SMap.wf floorResetVal s.fregs = true →
        (∀ e ∈ s.mem.lines, homeSlice (e.1 * 256) ≠ n ∧ e.2.holds n = false) → 24576 * new.length ≤ s.freg FR.HR_CAP_LINES →
        12288 * new.length ≤ s.freg (FR.HR_AVAIL_FRAMES n) →
        ∃ t, exec (.layerRetire n) s = .next t ∧
          (∀ k : Fin 4, bitB (t.freg (FR.HR_STATUS n)) (8 + k.val) =
            (bitB (s.freg (FR.HR_STATUS n)) (8 + k.val) || decide (i ≤ k))) ∧
          t.freg (FR.HR_AVAIL_FRAMES n) + 12288 * new.length = s.freg (FR.HR_AVAIL_FRAMES n) ∧
          t.freg FR.HR_CAP_LINES + 24576 * new.length = s.freg FR.HR_CAP_LINES ∧
          (t.slice n).failedAt = [] ∧ t.mem = s.mem ∧ t.cells = s.cells))

/-- R255 to R259, R262, R263: A walk that ends at a good leaf puts it into the translation caches, and accesses of its
page use it from then on. One that ends at an absent page without a request is counted and recorded with reason 1 where
TR_ERR_INFO is free; with pr set and requests enabled, the access's request takes its place in the ring and in the list
of pending ones. A walk whose table lies in a stack that sleeps requests its exit, and one whose entry the host holds
exclusively calls the host's copy back. -/
def Obligations.TranslationWalks : Prop :=
  ∀ (s : State) (a : Agent) (va : Nat) (write exec : Bool),
    let i : Instr := .pageWalkDone a va write ⟨exec, {}⟩
    let x : Access := { agent := a, va, write, exec }
    va < 2 ^ 57 → (va < 0x200000000 ∨ 0x300000000 ≤ va) → bitB (s.freg FR.TR_CTRL) 0 = true → s.tlbFind va = none →
    SMap.wf floorResetVal s.fregs = true → Still s →
    (∀ pte level, s.walk va = .leaf pte level → pte < 2 ^ 64 → leafAllows pte x = true →
      (∀ ha, region (leafPhys pte (pageSize level) va).pa ≠ .host ha) →
      ∃ t, Machine.exec i s = .next t ∧
        t = { s.count FR.TR_WALK_CNT with mem := { s.mem with tlb := s.mem.tlb ++ [tlbOf va pte level] } } ∧
        t.tlbFind va = some (tlbOf va pte level) ∧ (tlbOf va pte level).pte.toNat = pte) ∧
    (∀ level, s.walk va = .absent false level →
      ∃ t, Machine.exec i s = .next t ∧ t = { s with fregs := t.fregs } ∧
        t.freg FR.TR_WALK_CNT = (s.freg FR.TR_WALK_CNT + 1) % 2 ^ 64 ∧
        t.freg FR.TR_WALK_ERR_CNT = (s.freg FR.TR_WALK_ERR_CNT + 1) % 2 ^ 64 ∧
        (bitB (s.freg FR.TR_ERR_INFO) 31 = false → t.freg FR.TR_ERR_VA = va ∧
          t.freg FR.TR_ERR_INFO = 2 ^ 31 + 2 ^ 24 + level * 2 ^ 21 + agentCode a * 2 ^ 17 + agentRequester a * 2 ^ 9
            + b2n exec * 4 + b2n write * 2)) ∧
    (∀ level, s.walk va = .absent true level → bitB (s.freg FR.TR_CTRL) 2 = true →
      s.mem.reqs.find? (fun q => q.page == va / 0x10000) = none → s.prqFull = false →
      ∃ t, Machine.exec i s = .next t ∧
        t.mem.reqs = s.mem.reqs ++ [⟨s.mem.nextReq % 65536, va / 0x10000, a, write, exec, s.timeUs, level⟩] ∧
        t.mem.prqSeq = s.mem.prqSeq + 1 ∧
        t.freg FR.TR_PRQ_TAIL = (s.freg FR.TR_PRQ_TAIL % s.prqSize + 1) % s.prqSize ∧
        t.freg FR.TR_PR_CNT = (s.freg FR.TR_PR_CNT + 1) % 2 ^ 64 ∧ t.cells = s.cells ∧ t.mem.tlb = s.mem.tlb) ∧
    (∀ j, s.walk va = .asleep j → Machine.exec i s = .next ((s.count FR.TR_WALK_CNT).requestExit j)) ∧
    (∀ la, s.walk va = .held la → Machine.exec i s = .next ((s.count FR.TR_WALK_CNT).recall la false))

/-- R264, R277: A pending request that software resolves is pending no more, and the transfers that waited for it run
again; one that it refuses, or that is left unanswered, is counted in TR_PR_REFUSE_CNT, the latter also noted in
TR_STATUS. -/
def Obligations.PageRequestAnswers : Prop :=
  ∀ (s : State) (o : Origin) (req : BitVec 16),
    let k := req.toNat
    let gone := s.mem.reqs.filter (fun r => r.id != k)
    let rest (l : List PageWait) := l.filter (fun w => w.req != k)
    Still s → s.mem.reqs.any (fun r => r.id == k) = true → (∀ c, (s.cell c).fetchReq ≠ some k) →
    SMap.wf floorResetVal s.fregs = true →
    (Reaches o s FR.TR_PRSP →
      ∃ t, exec (.prResolve o req) s = .next t ∧
        t = { s with mem := { s.mem with reqs := gone }, cells := t.cells, hv := { s.hv with waits := rest s.hv.waits }
                     ce := { s.ce with waits := rest s.ce.waits }, hs := { s.hs with waits := rest s.hs.waits } } ∧
        ∀ c n, (t.cell c).slot n = ((s.cell c).slot n).map (fun r =>
          if r.st = .pageWait k then { r with st := .running, reason := 0, faultVa := 0 } else r)) ∧
    ((∀ c n r, (s.cell c).slot n = some r → r.st ≠ .pageWait k) →
      (Reaches o s FR.TR_PRSP → ∃ t, exec (.prRefuse o req) s = .next t ∧ t.mem = { s.mem with reqs := gone } ∧
        t.freg FR.TR_PR_REFUSE_CNT = (s.freg FR.TR_PR_REFUSE_CNT + 1) % 2 ^ 64 ∧ t.cells = s.cells ∧
        t.hv.waits = rest s.hv.waits ∧ t.ce.waits = rest s.ce.waits ∧ t.hs.waits = rest s.hs.waits) ∧
      (s.freg FR.TR_PR_TIMEOUT ≠ 0 → ∃ t, exec (.prTimeout req) s = .next t ∧ t.mem = { s.mem with reqs := gone } ∧
        t.freg FR.TR_PR_REFUSE_CNT = (s.freg FR.TR_PR_REFUSE_CNT + 1) % 2 ^ 64 ∧ t.cells = s.cells ∧
        bitB (t.freg FR.TR_STATUS) 2 = true))

/-- R259, R261, R277: A write to TR_INVAL begins an invalidation of the pages that it names or of everything; one that
comes while another is under way only sets TR_STATUS bit 5. Once it is done no access uses an entry of such a page. The
host's answer for a page that is awaited enters the cache of host translations; without one a page request goes to the
host, whose success has the page asked for again and whose refusal is kept for the access that waited; neither comes without
CXL (R410). An invalidation takes the host pages that it names. -/
def Obligations.InvalidationsAndHostTranslations : Prop :=
  (∀ (s : State) (o : Origin) (v : Word),
     let lo := v.toNat / 2 ^ 16 % 2 ^ 41
     let n := v.toNat % 2 ^ 16 + 1
     let overlap (e : TlbEnt) : Bool := decide (e.page < lo + n ∧ lo < e.page + e.pages)
     (Reaches o s FR.TR_INVAL → Still s →
       (s.mem.inval = none →
         (∃ t, exec (.trInvalRange o v) s = .next t ∧ t = { s with mem := { s.mem with inval := some (some (lo, n)) } }) ∧
         (∃ t, exec (.trInvalAll o v) s = .next t ∧ t = { s with mem := { s.mem with inval := some none } })) ∧
       (s.mem.inval ≠ none → ∀ i ∈ [Instr.trInvalRange o v, Instr.trInvalAll o v],
         ∃ t, exec i s = .next t ∧ t = s.orFreg FR.TR_STATUS 32)) ∧
     (s.mem.inval = some (some (lo, n)) →
       ∃ t, exec .invalDone s = .next t ∧
         t = { s.count FR.TR_INVAL_CNT with
               mem := { s.mem with tlb := s.mem.tlb.filter (fun e => !overlap e), inval := none } } ∧
         ∀ va e, t.tlbFind va = some e → overlap e = false) ∧
     (s.mem.inval = some none →
       ∃ t, exec .invalDone s = .next t ∧ (∀ va, t.tlbFind va = none) ∧
         t = { s.count FR.TR_INVAL_CNT with mem := { s.mem with tlb := [], ats := [], inval := none } })) ∧
  (∀ (s : State) (page n : Nat) (r : AtsIn),
     Still s →
     (s.cxlUp = false → ∀ i ∈ [Instr.atsTranslationCompletion page (some r), .atsTranslationCompletion page none,
       .priResponse page true, .priResponse page false], exec i s = .next s) ∧
     (s.cxlUp = true → s.mem.atsWait.has page = true →
       (∃ t, exec (.atsTranslationCompletion page (some r)) s = .next t ∧
         t = { s with mem := { s.mem with atsWait := s.mem.atsWait.del page
                                          ats := (⟨page, r.frame, r.r, r.w⟩ :: s.mem.ats).take 4096 } } ∧
         t.mem.ats.find? (fun e => e.page == page) = some ⟨page, r.frame, r.r, r.w⟩) ∧
       (∃ t, exec (.atsTranslationCompletion page none) s = .next t ∧
         t = { s with mem := { s.mem with atsWait := s.mem.atsWait.del page, priWait := s.mem.priWait.add page } } ∧
         NSet.has t.mem.priWait page = true)) ∧
     (∃ t, exec (.atsInvalidate page n) s = .next t ∧
       t = { s with mem := { s.mem with ats := t.mem.ats } } ∧
       ∀ e, e ∈ t.mem.ats ↔ e ∈ s.mem.ats ∧ ¬ (page ≤ e.page ∧ e.page < page + n)) ∧
     (s.cxlUp = true → s.mem.priWait.has page = true →
       let old := s.mem.ats.filter (fun (e : AtsEnt) => e.page != page)
       (∃ t, exec (.priResponse page true) s = .next t ∧
         t = { s with mem := { s.mem with priWait := s.mem.priWait.del page, ats := old
                                          atsWait := s.mem.atsWait.add page } } ∧
         NSet.has t.mem.atsWait page = true) ∧
       (∃ t, exec (.priResponse page false) s = .next t ∧
         t = { s with mem := { s.mem with priWait := s.mem.priWait.del page, ats := old
                                          priFail := s.mem.priFail.add page } } ∧
         NSet.has t.mem.priFail page = true)))

/-- R247, R251 to R253, R265, R268: A read of the tag aperture at the address of a tile whose lines no cache holds returns
the CRC-32C of the tile's bytes while the stored tag is right, poisoned where its block is; one from a stack in
self-refresh asks for its exit. The scrubber counts what it corrects, poisons and records a block of memory or of tags
with an uncorrectable error, and counts a pass once it has read every block; refresh changes nothing. -/
def Obligations.TagsAndScrubbing : Prop :=
  ∀ (s : State) (pa tile blk : Nat) (corrected : Bool) (j : Fin 20),
    (∀ k, s.dev.mainOn = true → apertureTile pa = some tile → s.rawAsleep (4096 * tile) = some k →
      exec (.tagApertureRead ⟨pa, {}⟩) s = .next (s.requestExit k)) ∧
    (s.dev.mainOn = true → apertureTile pa = some tile → s.rawAsleep (4096 * tile) = none →
      (∀ i < 16, (s.line (16 * tile + i)).st = .i ∧ s.lineBusy (16 * tile + i) false = false ∧
        s.frameWait (16 * tile + i) none = false) →
      ∃ t b, exec (.tagApertureRead ⟨pa, {}⟩) s = .next t ∧
        t = s.answer (.data ((leBytes 4 b).map (fun x => (x, s.tagPoisoned tile)))) ∧ b < 2 ^ 32 ∧
        (s.tileBad tile = false → b = crc32c (plain (s.hbmRead (4096 * tile) 4096))) ∧
        (s.tileBad tile = true → b ≠ crc32c (plain (s.hbmRead (4096 * tile) 4096)))) ∧
    (s.dev.mainOn = true → s.freg FR.HBM_SCRUB_CFG ≠ 0 → blk < hbmBlocks →
      SMap.wf floorResetVal s.fregs = true → (s.mem.scrubbed.add blk).length ≠ hbmBlocks →
      (∃ t, exec (.scrubRead blk corrected false) s = .next t ∧
        t = { s.count FR.HBM_CORR_CNT (b2n corrected) with mem := { s.mem with scrubbed := s.mem.scrubbed.add blk } }) ∧
      (∃ t, exec (.scrubRead blk corrected true) s = .next t ∧
        t.mem = { s.mem with hbmPoison := s.mem.hbmPoison.add blk, scrubbed := s.mem.scrubbed.add blk } ∧
        t.freg FR.HBM_UNCORR_CNT = (s.freg FR.HBM_UNCORR_CNT + 1) % 2 ^ 64 ∧
        (bitB (s.freg FR.HBM_ERR_PA) 63 = false → t.freg FR.HBM_ERR_PA = 2 ^ 63 + if blk < hbmTop / 64 then blk * 64 else s.blockPa blk) ∧
        t.cells = s.cells)) ∧
    (s.dev.mainOn = true → s.freg FR.HBM_SCRUB_CFG ≠ 0 → blk < hbmBlocks →
      (s.mem.scrubbed.add blk).length = hbmBlocks →
      ∃ t, exec (.scrubRead blk false false) s = .next t ∧ t.mem = { s.mem with scrubbed := [] } ∧
        (SMap.wf floorResetVal s.fregs = true →
          t.freg FR.HBM_SCRUB_PASS_CNT = (s.freg FR.HBM_SCRUB_PASS_CNT + 1) % 2 ^ 64)) ∧
    (∃ t, exec (.hbmRefresh j) s = .next t ∧ t = s)

/-- R164, R324, R325, R327 to R329, R334, R337, R342, R343: HVSUB of type 2 writes the step record to its slot: HV_STEP,
HV_COMMIT_CNT, the loss scale as FP32 and HV_STATUS. Of type 1 it delivers its layer: once the delivery is accepted the
request stays open, and its completion post waits, until the layer's update has ended. With HV_CTRL.en = 0 both fault
with HV_DISABLED. An update group that may start, and whose inputs the unit reads and whose results it writes, is done
in this pass and counted for its unit; where the unit fails, its layer fails with the reason, noted in HV_STATUS. With
every valid layer delivered the decision is the first row of the table that applies, or the skip that an event has fixed; it
is counted, and HV_LAST_NORM2 shows the squared norm. A starved matrix rule is noted for its unit. -/
def Obligations.HarvestStep : Prop :=
  (∀ (c : CellId) (s s1 : State) (f : SForm) (x : LForm) (u : Upset) (w : Delivered), ReadyLong c s →
     let z := s.cell c
     let i : Ins := { op := .hvsub, f, x, u }
     let d := (z.rdD x.dsel).toNat
     sOnly f {} = true → lOnly x { dsel := true } = true →
     (bitB (s.freg FR.HV_CTRL) 0 = true → d / 2 ^ 34 = 0 → d % 2 ^ 22 = 2 →
       ∃ t, exec (.hvsubQuery c f x u) s = .next t ∧
         RetiresPosting commitCounters c s (z.ocWrite (64 * (d / 2 ^ 22 % 2 ^ 12))
           (leBytes 8 (s.freg FR.HV_STEP) ++ leBytes 8 (s.freg FR.HV_COMMIT_CNT) ++
             leBytes 4 (rne .fp32 (.fin false 1 (sgn 8 (s.freg FR.HV_LS_STATE)))).1 ++ leBytes 4 s.hvStatus ++
             leBytes 40 0)) (nextPc z.npc .hvsub) x t) ∧
     (bitB (s.freg FR.HV_CTRL) 0 = true → d / 2 ^ 22 = 0 → d % 2 ^ 12 = 1 → d / 2 ^ 12 < s.freg FR.HV_LAYER_CNT →
       (s.carrying c i).deliverLayer (d / 2 ^ 12) false (localStatus (d / 2 ^ 12)) = .accepted s1 →
       s1.cell c = z.holding i → s1.hv.subs = [] → s1.deliveryOf (d / 2 ^ 12) = some w → s1.layerSettled w = false →
       ∃ t, exec (.hvsubDeliver c f x u) s = .next t ∧
         Retires commitCounters c
           { s1 with hv := { s1.hv with subs := [{ cell := c, layer := d / 2 ^ 12, pen := x.pen, psem := x.psem }] } }
           z (nextPc z.npc .hvsub) t) ∧
     (bitB (s.freg FR.HV_CTRL) 0 = false → ∀ j ∈ [Instr.hvsubDeliver c f x u, Instr.hvsubQuery c f x u],
       ∃ t e q, exec j s = .next t ∧ (t.cell c).window = [e] ∧ e.fault = some q ∧ q.cause = 0x71 ∧ q.unit = .hv ∧
         ∀ k, k ≠ c → t.cell k = s.cell k)) ∧
  (∀ (s s1 s2 : State) (l : Fin 1024) (g : Nat) (m : MemUpset) (d : Delivered) (k : Fin 16),
     let b : State := { s1 with hv := { s1.hv with
       begun := if s1.hv.begun.contains (l.val, g) then s1.hv.begun else s1.hv.begun ++ [(l.val, g)] } }
     (s.deliveryOf l.val = some d → s.layerSettled d = false → s.hv.carried = false → g < Entry.groups d.entry →
       s.hv.done.contains (l.val, g) = false → s.exportHolds l.val = false →
       (Entry.rule d.entry = 1 ∨ Entry.rule d.entry = 2 ∨ s1.bandLent k = true) →
       s.groupUnit d.entry g = .ok s1 k →
       ((b.memUpset m).runGroup k d g = .ok s2 () → s2.hv.subs = [] →
         ∃ t, exec (.updateGroupDone l ⟨g, m⟩) s = .next t ∧
           t = State.count { s2 with hv := { s2.hv with done := s2.hv.done ++ [(l.val, g)] } } (FR.HV_U_GROUP_CNT k.val)) ∧
       (∀ reason va, (b.memUpset m).runGroup k d g = .fail s2 reason va → s2.hv.subs = [] →
         s2.layerFailed l.val = false → SMap.wf floorResetVal s2.fregs = true →
         ∃ t, exec (.updateGroupDone l ⟨g, m⟩) s = .next t ∧ t.hv.fails = s2.hv.fails ++ [(l.val, reason)] ∧
           bitB (t.freg FR.HV_STATUS) 15 = true ∧ t.freg (FR.HV_U_FAULT_VA k.val) = va % 2 ^ 57 ∧
           t.hv.done = s2.hv.done ∧ t.cells = s2.cells ∧ t.mem = s2.mem)) ∧
     (∀ ls u, s.hv.delivered ≠ [] → s.hv.decision = none → s.hv.carried = false → s.validLayers = .ok u ls → u.hv = s.hv →
       ls.all (fun l => (s.deliveryOf l).isSome) = true → s.hv.subs = [] → s.hv.delivered.any (·.nfLocal) = false →
       SMap.wf floorResetVal u.fregs = true →
       let n2 := u.normSum
       let above (a : Nat) : Bool := above64 n2 (u.thrSq a)
       let bad := s.hv.delivered.any (fun d => d.word.nonfinite || d.word.poison || d.mismatch)
       let q : Decision := if bad then .skipNf else if s.hv.fixed || above FR.HV_NORM_CEIL then .skipCeil
         else if bits (u.freg FR.HV_CTRL) 3 2 = 2 ∧ above FR.HV_CLIP_THR = true then .redo else .commit
       ∃ t, exec .stepDecision s = .next t ∧ t.hv.decision = some q ∧ t.freg FR.HV_LAST_NORM2 = n2 % 2 ^ 64 ∧
         (∀ p ∈ [(Decision.skipNf, FR.HV_SKIP_NF_CNT), (.skipCeil, FR.HV_SKIP_CEIL_CNT), (.redo, FR.HV_REDO_CNT)],
           t.freg p.2 = if q = p.1 then (u.freg p.2 + 1) % 2 ^ 64 else u.freg p.2) ∧
         t.hv.done = (if q = .redo then [] else s.hv.done) ∧
         t = { u with hv := t.hv, fregs := t.fregs }) ∧
     (s.matrixWork k = true → s.bandLent k = false → bitB (s.freg (FR.HV_U_STATUS k.val)) 3 = false →
       SMap.wf floorResetVal s.fregs = true →
       ∃ t, exec (.lendStarved k) s = .next t ∧ bitB (t.freg (FR.HV_U_STATUS k.val)) 3 = true ∧ t.cells = s.cells ∧
         t.hv = s.hv ∧ t.mem = s.mem))

/-- R209, R239, R320, R337, R339, R340: A step that is skipped is carried out without a version changing. One that commits,
with every delivered layer settled and none failed, inverts the version bit of each delivered layer and of no other, and
adds 1 to HV_COMMIT_CNT. The barrier then opens once every cell has arrived: HV_STEP counts, HV_STATUS shows the
outcome, the units are idle, every EQNX writes the outcome to its rd, and it is a moment for the retirement of layers
(R239). With nothing delivered every EQNX holds a fault. -/
def Obligations.EquinoxBarriers : Prop :=
  ∀ (s : State) (q : Decision),
    let layers := s.hv.delivered.map (·.layer)
    let at' (d : CellId) (e : InFlight) : Prop := Holds d s e ∧ e.ins.op = .eqnx ∧ sOnly e.ins.f { rd := true } = true ∧
      e.ins.x = {} ∧ e.next = none ∧ e.arrived = some s.sync.equinox.gen
    s.rx = {} → s.hv.subs = [] →
    (s.hv.decision = some q → s.hv.delivered ≠ [] → s.hv.carried = false → s.allArrived = false →
      ((q = .skipNf ∨ q = .skipCeil) → s.hv.begun = [] →
        ∃ t, exec .equinoxBarrier s = .next t ∧ t.hv.carried = true ∧ t.hv.outcome = 2 ∧ t.hv.failed = none ∧
          t = { s with hv := t.hv }) ∧
      ((q = .commit ∨ q = .redo) → s.hv.delivered.all s.layerSettled = true → s.hv.fails = [] →
        bitB (s.freg FR.HV_CTRL) 4 = false → s.freg FR.RC_CTRL = 0 → layers.Nodup → (∀ l ∈ layers, l < 1024) →
        SMap.wf floorResetVal s.fregs = true →
        ∃ t, exec .equinoxBarrier s = .next t ∧ t.hv.carried = true ∧
          t.hv.outcome = (if q = .redo then 1 else 0) ∧ t.hv.failed = none ∧
          (∀ l < 1024, t.verBit l = if l ∈ layers then 1 - s.verBit l else s.verBit l) ∧
          t.freg FR.HV_COMMIT_CNT = (s.freg FR.HV_COMMIT_CNT + 1) % 2 ^ 64 ∧
          t = { s with hv := t.hv, fregs := t.fregs })) ∧
    (s.hv.decision = some q → s.hv.delivered ≠ [] → s.hv.carried = true → s.hv.failed = none → s.hv.outcome < 4 →
      s.allArrived = true → (∀ d, ∃ e, at' d e) → SMap.wf floorResetVal s.fregs = true →
      ∃ t, exec .equinoxBarrier s = .next t ∧ t.hv = {} ∧
        t.freg FR.HV_STEP = (s.freg FR.HV_STEP + 1) % 2 ^ 64 ∧ bits (t.freg FR.HV_STATUS) 9 8 = s.hv.outcome ∧
        (s.hv.lsHeld = true → t.freg FR.HV_LS_STATE = s.freg FR.HV_LS_STATE) ∧
        t.sync.equinox = { gen := s.sync.equinox.gen + 1, arrived := s.sync.equinox.next, next := [] } ∧
        (∀ n, (t.slice n).retireDue = ((s.slice n).retireDue || !(s.slice n).failedAt.isEmpty)) ∧
        (∀ d e, (s.cell d).window = [e] → (t.cell d).window = [] ∧ (t.cell d).npc = nextPc e.pc .eqnx ∧
          (t.cell d).s = ((s.cell d).wrS e.ins.f.rd (BitVec.ofNat 64 s.hv.outcome)).s)) ∧
    (s.hv.delivered = [] → s.allArrived = true → (∀ d, ∃ e, at' d e) →
      ∃ t, exec .equinoxBarrier s = .next t ∧ t.sync.equinox.gen = s.sync.equinox.gen + 1 ∧ t.hv = s.hv ∧
        ∀ d, ∃ e p, (t.cell d).window = [e] ∧ e.fault = some p ∧ p.cause = 0x73)

/-- R349 to R353: the exchange of a commit passes where every in-step member holds the same fingerprints, and starts a
bisection of the layers where they do not. An exchange that the Parade engine aborts is noted in RC_STATUS, and passes
but under the halt policy. A halted step takes the action written to RC_RELEASE; where none is halted, or a release has
been given, the write only sets RC_STATUS bit 3. A round narrows each of the first 16 diverged layers to the lowest part
in which a member differs from the reference, and counts. Once the ranges are one group each, a group that differs is
located and noted in RC_DIV_CNT and, while it is free, RC_DIV_INFO; under the policies that repair nothing the layer's
work is then done, and with the last layer's the step is halted or passes. The instance of the exchange is free once it has
ended, and each round sends this chip's own words to the other members where it is one of those in step. -/
def Obligations.ReplicaChecks : Prop :=
  (∀ (s v : State) (others : List ExRecord) (k : Fin 32) (i : Inst) (st : Nat) (fps : List Nat) (o : Origin),
     let rs := (v.ownRecord i.me fps :: others.filter (fun r => r.rank != i.me)).foldl (fun l r => insertRank r l) []
     let policy := bits (s.freg FR.RC_CTRL) 3 2
     let quiet : Prop := i.slow = [] ∧ i.harvest = false ∧ s.ce.mine = none ∧ s.ce.waitQ = []
     (s.rx.phase = .exchanging → s.ownExchange = some (k, i) →
       (s.pendingFps = .ok v fps → v.ce = s.ce → rs.all (inStep rs) = true →
         (divergedLayers rs v.layerCnt = [] → quiet → ∃ t, exec (.fingerprintExchange others none) s = .next t ∧
           t.rx = { v.rx with phase := .passed, work := [] } ∧ t.inst k = none ∧ (∀ j, j ≠ k → t.inst j = s.inst j) ∧
           t.cells = v.cells ∧ t.mem = v.mem ∧ t.hv = v.hv) ∧
         (divergedLayers rs v.layerCnt ≠ [] → ∃ t, exec (.fingerprintExchange others none) s = .next t ∧
           t = { v with rx := t.rx } ∧ t.rx.phase = .bisecting ∧ t.rx.repaired = [] ∧
           t.rx.work.map (fun w => (w.layer, w.ref)) = divergedLayers rs v.layerCnt ∧
           ∀ w ∈ t.rx.work, w.lo = 0 ∧ w.n = v.layerGroups w.layer ∧ w.ranks = rs.map (·.rank) ∧
             w.crcs = rs.map (fun r => (r.rank, wordOf w.layer r)))) ∧
       (SMap.wf floorResetVal s.fregs = true → quiet → i.ended = none → i.got = false →
         ∃ t, exec (.fingerprintExchange others (some st)) s = .next t ∧
         t.rx = { s.rx with phase := if policy = 2 then .halted else .passed, work := [] } ∧ t.inst k = none ∧
         bitB (t.freg FR.RC_STATUS) 9 = true ∧ t.cells = s.cells ∧ t.mem = s.mem ∧ t.hv = s.hv)) ∧
     (s.rx.phase ≠ .exchanging → ∃ t, exec (.fingerprintExchange others (some st)) s = .next t ∧ t = s) ∧
     (Reaches o s FR.RC_RELEASE → Still s →
       (s.rx.phase = .halted → s.rx.release = none →
         (∃ t, exec (.rcReleaseCommit o) s = .next t ∧ t = { s with rx := { s.rx with release := some true } }) ∧
         (∃ t, exec (.rcReleaseDiscard o) s = .next t ∧ t = { s with rx := { s.rx with release := some false } })) ∧
       ((s.rx.phase ≠ .halted ∨ s.rx.release ≠ none) → ∀ i ∈ [Instr.rcReleaseCommit o, Instr.rcReleaseDiscard o],
         ∃ t, exec i s = .next t ∧ t = s.orFreg FR.RC_STATUS 8))) ∧
  (∀ (s u : State) (r : RoundIn) (k : Fin 32) (i : Inst) (own : List Nat) (w : Bisect) (d : Delivered),
     let policy := bits (u.freg FR.RC_CTRL) 3 2
     let ws := roundWords i.me own w r
     let crc (k : Nat) : Nat := ((w.crcs.find? (fun c => c.1 == k)).map (·.2)).getD 0
     s.rx.phase = .bisecting → r.aborted = none → s.ownExchange = some (k, i) → s.rx.work = [w] →
     u.rx = s.rx → u.ce = s.ce →
     (∀ z a, 1 < w.n → s.ownWords w = .ok z a → (z.count FR.RC_BISECT_CNT).ownWords w = .ok u own →
       ∀ v, nextRange w ws = some v →
       (∃ t, exec (.bisectionRound r) s = .next t ∧
         t = { (if i.me ∈ w.ranks then u.sendOwn w.ranks (own.flatMap (leBytes 4)) else u) with
               rx := { s.rx with work := [v] } }) ∧
       v.layer = w.layer ∧ v.ref = w.ref ∧ w.lo ≤ v.lo ∧ v.lo + v.n ≤ w.lo + w.n ∧ v.n ≤ partSize w.n ∧ 0 < v.n) ∧
     (w.n ≤ 1 → s.ownWords w = .ok u own → s.deliveryOf w.layer = some d → policy ≠ 1 →
       (∃ k ∈ w.ranks, crc k ≠ crc w.ref) → i.slow = [] → i.harvest = false → s.ce.mine = none → s.ce.waitQ = [] →
       SMap.wf floorResetVal u.fregs = true →
       ∃ t, exec (.bisectionRound r) s = .next t ∧ t.inst k = none ∧
         t.rx = { s.rx with phase := if policy = 2 then .halted else .passed, work := [] } ∧
         t.freg FR.RC_DIV_CNT = (u.freg FR.RC_DIV_CNT + 1) % 2 ^ 64 ∧ bitB (t.freg FR.RC_STATUS) 5 = true ∧
         (bitB (u.freg FR.RC_DIV_INFO) 63 = false → bitB (t.freg FR.RC_DIV_INFO) 63 = true ∧
           bits (t.freg FR.RC_DIV_INFO) 57 48 = w.layer % 1024 ∧ bits (t.freg FR.RC_DIV_INFO) 47 0 = w.lo % 2 ^ 48) ∧
         (bitB (u.freg FR.RC_DIV_INFO) 63 = true → t.freg FR.RC_DIV_INFO = u.freg FR.RC_DIV_INFO) ∧
         t.cells = u.cells ∧ t.mem = u.mem ∧ t.hv = u.hv))

/-- R357, R358, R360 to R368: the oldest record that an enabled sink 0 lacks goes to the ring in memory where it fits,
whose tail moves on past it, and that of sink 1 to its peer; a record that every enabled sink has leaves the staging
region. The apply engine takes a record that follows the committed version and whose CRC holds; one that does not stops it
with DX_STATUS bit 3, nothing of it written. A write to RX_JOB with no job running reads the descriptor and starts the job
that it describes, or ends it at once with status 1 where it is malformed; while a job runs the write only sets
RX_JOB_STATUS bit 2. An export writes the next record of its plan behind the others; an import whose records end and leave
nothing uncovered flips its layers. A job that has ended writes its result record, and RX_JOB is free again. -/
def Obligations.DifferencesAndJobs : Prop :=
  (∀ (s u : State) (r : Staged) (rs : List Staged) (peer : List Byte),
     let c := s.freg FR.DX_CTRL
     let size := 2 ^ (bits c 15 12 + 16)
     let tail := s.freg FR.DX_RING_TAIL % size
     let used := (tail + size - s.freg FR.DX_RING_HEAD % size) % size
     let due (c : Nat) (r : Staged) : Bool := (bitB c 2 && !r.sent0) || (bitB c 3 && !r.sent1)
     (∀ n : Fin 2, bitB c (2 + n.val) = false → exec (.dxSinkWrite n) s = .next s) ∧
     (bitB c 2 = true → s.rx.staged = r :: rs → r.sent0 = false →
       (used + r.bytes.length < size → s.ringWrite (s.freg FR.DX_RING_BASE) size tail r.bytes = .ok u () → u.rx = s.rx →
         SMap.wf floorResetVal u.fregs = true →
         ∃ t, exec (.dxSinkWrite 0) s = .next t ∧ t.freg FR.DX_RING_TAIL = (tail + r.bytes.length) % size ∧
           t = { u.setFreg FR.DX_RING_TAIL ((tail + r.bytes.length) % size) with
                 rx := { s.rx with
                   staged := ({ r with sent0 := true } :: rs).filter (due (u.freg FR.DX_CTRL)) } }) ∧
       (size ≤ used + r.bytes.length → ∃ t, exec (.dxSinkWrite 0) s = .next t ∧ t = s)) ∧
     (bitB c 3 = true → s.rx.staged = r :: rs → r.sent1 = false →
       ∃ t, exec (.dxSinkWrite 1) s = .next t ∧
         t.rx = { s.rx with staged := ({ r with sent1 := true } :: rs).filter (due c) } ∧
         t = { s with rx := t.rx, fl := t.fl, fregs := t.fregs, free := t.free }) ∧
     (bitB c 4 = true → bitB c 5 = true → bitB (s.freg FR.DX_STATUS) 3 = false → s.hvState = 0 → s.ce.deliver = [] →
       SMap.wf floorResetVal s.fregs = true →
       ((dxCrcOk peer = false ∨ dxF peer 127 64 ≠ s.freg FR.HV_COMMIT_CNT + 1) →
         ∃ t, exec (.applyRecord peer) s = .next t ∧ bitB (t.freg FR.DX_STATUS) 3 = true ∧ t.rx.covered = [] ∧
           t.mem = s.mem ∧ t.cells = s.cells ∧ ∀ l, t.verBit l = s.verBit l) ∧
       (dxCrcOk peer = true → dxF peer 127 64 = s.freg FR.HV_COMMIT_CNT + 1 → dxF peer 39 32 = 1 →
         s.applyDiff peer = .ok u true → u.ce.deliver = [] →
         ∃ t, exec (.applyRecord peer) s = .next t ∧ t = u))) ∧
  (∀ (s u : State) (o : Origin) (v : Word) (bs : List Byte) (cap : CapIn) (j : Job) (q : JobEnd),
     let all : List (Nat × Instr) := [(1, .shardExport (some (o, v))), (2, .shardImport (some (o, v))),
       (3, .capture (some (o, v))), (4, .replay (some (o, v)) cap)]
     let done (z : State) : State := { z with rx := { z.rx with starting := none } }
     (Reaches o s FR.RX_JOB → Still s →
       ((s.rx.job ≠ none ∨ s.rx.starting ≠ none) → ∀ p ∈ all, ∃ t, exec p.2 s = .next t ∧ t = s.orFreg FR.RX_JOB_STATUS 4) ∧
       (s.rx.job = none → s.rx.starting = none → s.hvRead 0 0 (v.toNat / 64 % 2 ^ 51 * 64) 64 = .ok u bs → Still u →
         let n : Job := { desc := BitVec.ofNat 512 (leNat bs), vers := u.verBits, version := u.freg FR.HV_COMMIT_CNT }
         let w := u.putFreg FR.RX_JOB_STATUS 15 8 n.ty
         let starts (p : Nat × Instr) (m : Job) : Prop := ∃ t, exec p.2 s = .next t ∧ t = done (w.setJob m)
         (w.jobOk n = false → ∀ p ∈ all, starts p { n with ended := some { status := 1 } }) ∧
         (w.jobOk n = true →
           (∀ todo y, n.ty = 1 → w.exportPlan n = .ok y todo → Still y → ∀ p ∈ all, p.1 = 1 →
             ∃ t, exec p.2 s = .next t ∧ t = done (y.setJob { n with todo })) ∧
           (n.ty = 2 → ∀ p ∈ all, p.1 = 2 →
             starts p (if u.hvState = 0 then n else { n with ended := some { status := 2 } })) ∧
           (n.ty = 3 → ∀ p ∈ all, p.1 = 3 → starts p n) ∧
           (∀ y z d b, n.ty = 4 → w.hvRead 0 0 n.buf (min n.size cap.bytes) = .ok y d →
             y.hvRead 0 0 (y.freg FR.RC_FP_BASE) (4 * y.layerCnt) = .ok z b → Still z →
             let fits : Prop := cap.complete = true ∧ elemsOf 4 z.layerCnt b = cap.fps
             (¬ fits → ∃ t, exec (.replay (some (o, v)) cap) s = .next t ∧
               t = done (z.setJob { n with ended := some { status := 6 } })) ∧
             (fits → SMap.wf floorResetVal z.fregs = true → (∀ c, SMap.wf cellResetVal (z.cell c).regs = true) →
               ∃ t, exec (.replay (some (o, v)) cap) s = .next t ∧ bitB (t.freg FR.FL_CTRL) 4 = true ∧
                 t.rx.job = some { n with
                   layers := cap.layers.map capResult, payloads := cap.payloads, inputs := cap.inputs, loop := z.flLoop
                   ports := true, pos := cap.bytes, records := cap.records } ∧
                 t = { z with cells := t.cells, fregs := t.fregs, rx := t.rx } ∧
                 ∀ (c : CellId) e, cap.seeds[c.val]? = some e → (t.cell c).reg CR.NUM_SR_SEED = e.1.toNat ∧
                   (t.cell c).reg CR.NUM_SR_STEP = e.2.toNat))))) ∧
     (∀ l kind rest e d w (x y : State), s.rx.job = some j → j.desc.toNat % 256 = 1 → j.ended = none →
       s.rx.starting = none → j.owedFps = none → j.unwritten = [] →
       j.todo = (l, kind) :: rest → s.readEntry l = .ok x e →
       x.readTensor 0 e kind (b2n (j.vers.getLsbD l)) 0 (Entry.elems e * kindSize kind) = .ok y d →
       w = shardRecord j j.version (j.f 127 96 + (l - j.f 95 80)) kind (Entry.rows e) (Entry.cols e) d →
       (j.pos + w.length ≤ j.size → y.hvWrite 0 0 (j.buf + j.pos) w = .ok u () →
         ∃ t, exec (.shardExport none) s = .next t ∧
           t = u.setJob { j with pos := j.pos + w.length, records := j.records + 1, todo := rest }) ∧
       (j.size < j.pos + w.length → ∃ t, exec (.shardExport none) s = .next t ∧
         t = y.setJob { j with ended := some { status := 3, layer := l } })) ∧
     (∀ es (x : State), s.rx.job = some j → j.desc.toNat % 256 = 2 → j.ended = none →
       s.rx.starting = none → j.owedFps = none → j.unwritten = [] → j.size < j.pos + 64 → j.mixed = false →
       State.entriesFrom 0 s.layerCnt s = .ok x es →
       let sel := es.filter (fun e => j.layerList.contains e.1)
       (∀ e ∈ sel, ∀ k ∈ Entry.kinds e.2 2, k ∈ j.kindList → coveredBy j.seen e.1 k e.2 = true) →
       (State.copyGroups (groupsOf sel (fun e => otherKinds j.kindList e)) x).bind (fun s _ => State.remakePending
         (sel.flatMap (fun e => (List.range (Entry.groups e.2)).map (fun g => (e.1, e.2, g)))) s) = .ok u () →
       (sel.map (·.1)).Nodup → (∀ e ∈ sel, e.1 < 1024) → SMap.wf floorResetVal u.fregs = true →
       ∃ t, exec (.shardImport none) s = .next t ∧
         t = { u with fregs := t.fregs, rx := { u.rx with job := some { j with ended := some { status := 0 } } } } ∧
         ∀ l < 1024, t.verBit l = if l ∈ sel.map (·.1) then 1 - u.verBit l else u.verBit l) ∧
     (s.rx.job = some j → j.ended = some q → j.desc.toNat % 256 ≠ 4 → j.blind = false →
       s.rx.starting = none → j.owedFps = none → j.unwritten = [] →
       s.hvWrite 0 0 (j.f 319 256) (jobRecord j q) = .ok u () → u.ce.deliver = [] →
       SMap.wf floorResetVal u.fregs = true →
       ∃ t, exec .jobEnd s = .next t ∧ t.rx = { u.rx with job := none } ∧ bitB (t.freg FR.RX_JOB_STATUS) 1 = true ∧
         t.cells = u.cells ∧ t.mem = u.mem))

/-- R374, R380 to R383, R406, R407: the events of an interface's bring-up take it from one state to the next or into
FAULT with the reason of the event, which counts in FL_P_DOWN_CNT; no other interface changes. A pause on the priority
that this device transmits on holds the interface for its quanta, and one of 0 ends it. The first HELLO of a peer starts
a hello here; with the peer's HELLO heard and this chip's own acknowledged the context is UP. A hello is sent again
while no answer comes, and after its timeout the peer is lost, as it is after eight consecutive timeouts of
retransmission; those before resend the oldest frame, by the interface of its PSN, with the smallest window, or leave it due
while no interface reaches the peer. Each HELLO that is taken is answered, and each frame that leaves is one frame on the wire. -/
def Obligations.LinksComeUpAndPeersMeet : Prop :=
  (∀ (s : State) (p : Fin 18) (j : Fin 4) (corrected bad total : Nat) (prio : Fin 8) (quanta : BitVec 16),
     let reg := FR.FL_P_STATUS p.val
     let goes (i : Instr) (st reason : Nat) : Prop := ∃ t, exec i s = .next t ∧ t = { s with fregs := t.fregs } ∧
       t.ifState p.val j.val = st ∧ bits (t.freg reg) (8 * j.val + 7) (8 * j.val + 4) = reason ∧
       (∀ k, k < 4 → k ≠ j.val → bits (t.freg reg) (8 * k + 7) (8 * k) = bits (s.freg reg) (8 * k + 7) (8 * k)) ∧
       t.freg (FR.FL_P_DOWN_CNT p.val) =
         if st = 5 then (s.freg (FR.FL_P_DOWN_CNT p.val) + 1) % 2 ^ 64 else s.freg (FR.FL_P_DOWN_CNT p.val)
     s.dev.mainOn = true → s.ifOn p.val j.val = true → SMap.wf floorResetVal s.fregs = true →
     (s.ifState p.val j.val = 1 → goes (.anResolved p j true) 2 0 ∧ goes (.anResolved p j false) 5 1 ∧
       goes (.anTimeout p j) 5 1) ∧
     (s.ifState p.val j.val = 2 → goes (.trainingDone p j true) 3 0 ∧ goes (.trainingDone p j false) 5 2) ∧
     (s.ifState p.val j.val = 3 → ((∀ e ∈ s.fl.ctx, e.2.waiting = false) → goes (.alignLock p j) 4 0) ∧
       goes (.alignTimeout p j) 5 3) ∧
     (s.ifState p.val j.val = 4 → goes (.alignmentLoss p j) 5 4 ∧
       (total < bad * 10000 → goes (.fecErrorRate p j corrected bad total) 5 5) ∧
       (bad * 10000 ≤ total → ∃ t, exec (.fecErrorRate p j corrected bad total) s = .next t ∧
         t = (s.count (FR.FL_P_FEC_CORR_CNT p.val) corrected).count (FR.FL_P_FEC_UNCORR_CNT p.val) bad)) ∧
     (s.ifState p.val j.val = 5 → goes (.faultRetry p j) (if s.portC2M p.val then 3 else 1) 0) ∧
     (s.ifState p.val j.val = 4 →
       let set (v : Nat) : State := { s with fl := { s.fl with paused := s.fl.paused.set (fun _ => 0) (4 * p.val + j.val) v } }
       (prio.val ≠ bits (s.freg FR.FL_VLAN) 15 13 → ∃ t, exec (.pfcFrame p j prio quanta) s = .next t ∧ t = s) ∧
       (prio.val = bits (s.freg FR.FL_VLAN) 15 13 →
         (quanta ≠ 0 → ∃ t v, exec (.pfcFrame p j prio quanta) s = .next t ∧ t = set v ∧ s.timeUs < v ∧
           t.ifPaused (4 * p.val + j.val) = true) ∧
         (quanta = 0 → (∀ e ∈ s.fl.ctx, e.2.waiting = false) → SMap.wf (fun _ => 0) s.fl.paused = true →
           ∃ t, exec (.pfcFrame p j prio quanta) s = .next t ∧ t = set 0 ∧ t.ifPaused (4 * p.val + j.val) = false)))) ∧
  (∀ (s : State) (h : FrameIn) (hi : HelloIn) (a : AckIn) (node : BitVec 16),
     let n := node.toNat
     let x := s.ctxOf n
     let lost (i : Instr) : Prop := ∃ t, exec i s = .next t ∧ t.ctxOf n = { st := .lost } ∧
       t.freg FR.FL_PEER_LOST_CNT = (s.freg FR.FL_PEER_LOST_CNT + 1) % 2 ^ 64 ∧ bitB (t.freg FR.FL_STATUS) 1 = true ∧
       (∀ m, m ≠ n → t.ctxOf m = s.ctxOf m) ∧ t.cells = s.cells ∧ t.mem = s.mem
     let none' : Prop := (∀ k, s.inst k = none) ∧ s.ce.waitQ = [] ∧ s.ce.mine = none
     let sends (t : State) (j : Nat) : Prop :=
       ∃ fs : List (List Byte), fs.length = j ∧ ∀ q, s.clearLink n = some q → t.fl.wire = fs.map (fun b => (q, b)) ++ s.fl.wire
     let transport (t : State) : Prop :=
       t = { s with fl := { s.fl with ctx := t.fl.ctx, wire := t.fl.wire, cached := t.fl.cached, full := t.fl.full }
                    fregs := t.fregs, free := t.free }
     s.dev.mainOn = true → s.flEn = true → s.flLoop = false → SMap.wf floorResetVal s.fregs = true →
     (h.src = node → frameOk h = true → hi.version = 1 → (s.touchCtx n).2 = true → s.hasClash n = false →
       s.routeThere n = true →
       (x.st = .idle → hi.acked = false →
         ∃ t, exec (.hello h hi) s = .next t ∧
           t.ctxOf n = { st := .hello, chip := hi.chip.toNat, epoch := hi.epoch.toNat, heard := true, credit := hi.credit } ∧
           t.freg FR.FL_RX_PKT_CNT = (s.freg FR.FL_RX_PKT_CNT + 1) % 2 ^ 64 ∧ sends t 2 ∧ transport t) ∧
       (x.st = .hello → x.heard = false → x.acked = true → x.waiting = false →
         ∃ t, exec (.hello h hi) s = .next t ∧ (t.ctxOf n).st = .up ∧ (t.ctxOf n).chip = hi.chip.toNat ∧
           (t.ctxOf n).epoch = hi.epoch.toNat ∧ (t.ctxOf n).txNext = x.txNext ∧ (t.ctxOf n).alpha = 0 ∧
           (∀ m, m ≠ n → t.ctxOf m = s.ctxOf m) ∧ sends t 1 ∧ transport t) ∧
       (x.st = .up → x.chip = hi.chip.toNat → x.epoch % 65536 = hi.epoch.toNat % 65536 →
         ∃ t, exec (.hello h hi) s = .next t ∧ t.fl.ctx = s.fl.ctx ∧
           t.freg FR.FL_RX_PKT_CNT = (s.freg FR.FL_RX_PKT_CNT + 1) % 2 ^ 64 ∧ sends t 1 ∧ transport t)) ∧
     (h.src = node → frameOk h = true → x.st = .hello → x.heard = true → x.waiting = false →
       ∃ t, exec (.ack h a) s = .next t ∧ (t.ctxOf n).st = .up ∧ (∀ m, m ≠ n → t.ctxOf m = s.ctxOf m) ∧
         t.freg FR.FL_RX_PKT_CNT = (s.freg FR.FL_RX_PKT_CNT + 1) % 2 ^ 64 ∧
         t = { s with fl := { s.fl with ctx := t.fl.ctx }, fregs := t.fregs }) ∧
     (∀ q, x.st = .hello → (s.touchCtx n).2 = true → s.routeThere n = true → s.clearLink n = some q →
       ∃ t b, exec (.helloRetry node) s = .next t ∧ t.fl.wire = (q, b) :: s.fl.wire ∧ t.fl.ctx = s.fl.ctx ∧
         t.freg FR.FL_TX_PKT_CNT = (s.freg FR.FL_TX_PKT_CNT + 1) % 2 ^ 64 ∧ transport t) ∧
     (x.st = .hello → none' → lost (.helloTimeout node)) ∧
     (x.st = .up → x.unacked ≠ [] → x.timeouts = 7 → none' → lost (.retransmitTimeout node)) ∧
     (∀ u l, x.st = .up → x.unacked = u :: l → x.waiting = false → x.timeouts < 7 → s.psnLink n u.psn = none →
       ∃ t, exec (.retransmitTimeout node) s = .next t ∧ t.fl.wire = s.fl.wire ∧
         t.ctxOf n = { x with
           timeouts := x.timeouts + 1, cwnd := s.clampWin x 4096, unacked := { u with due := true } :: l } ∧
         t.freg FR.FL_TIMEOUT_CNT = (s.freg FR.FL_TIMEOUT_CNT + 1) % 2 ^ 64 ∧
         t.freg FR.FL_RETX_CNT = s.freg FR.FL_RETX_CNT ∧ t.mem.lines = s.mem.lines ∧ t.cells = s.cells) ∧
     (∀ u l q, x.st = .up → x.unacked = u :: l → x.waiting = false → x.timeouts < 7 → s.psnLink n u.psn = some q →
       ∃ t b, exec (.retransmitTimeout node) s = .next t ∧ t.fl.wire = (q, b) :: s.fl.wire ∧
         t.ctxOf n = { x with timeouts := x.timeouts + 1, cwnd := s.clampWin x 4096 } ∧
         (∀ c ∈ [FR.FL_TIMEOUT_CNT, FR.FL_RETX_CNT, FR.FL_TX_PKT_CNT], t.freg c = (s.freg c + 1) % 2 ^ 64) ∧
         transport t))

/-- R376, R382, R390, R392, R402: A frame from a peer whose context is UP, with the PSN that is expected, is accepted: the
context expects the next PSN and owes an acknowledgement for it, and what it carries reaches the instance that it names:
DATA its payload, where it lets no step of the algorithm go out (R395), READY its digest, ABORT its end. DATA that names
no instance is dropped and counted. An ACK takes the frames that it acknowledges from the context; the acknowledgement
that is owed goes out with the timer, once a link is free. -/
def Obligations.TransportFrames : Prop :=
  ∀ (s : State) (h : FrameIn) (payload : List Byte) (poison : BitVec 64) (a : AckIn) (digest : BitVec 32)
    (st : BitVec 8) (rank : BitVec 16) (k : Fin 32) (i : Inst),
    let n := h.src.toNat
    let x := s.ctxOf n
    let got : Ctx := { x with rxCum := (x.rxCum + 1) % 2 ^ 32, owed := x.owed + 1 }
    let fr : FrameIn := { h with apsn := none }
    s.dev.mainOn = true → s.flEn = true → frameOk h = true → x.st = .up → x.epoch % 65536 = h.epoch.toNat →
    s.fl.cached.contains n = true → s.hasClash n = false → h.ce = false → h.slow = false → x.rxCum = h.psn.toNat → x.rxMap = [] → x.owed < 7 →
    s.rx.job = none → SMap.wf floorResetVal s.fregs = true →
    (payload.length ≤ 4096 →
      (s.instFor h = none → ∃ t, exec (.data fr payload poison) s = .next t ∧ t.ctxOf n = got ∧ t.ce = s.ce ∧
        t.freg FR.FL_CRC_DROP_CNT = (s.freg FR.FL_CRC_DROP_CNT + 1) % 2 ^ 64 ∧ t.mem = s.mem ∧ t.cells = s.cells) ∧
      (let j : Inst := { i with
         data := i.data ++ [⟨h.rank.toNat, h.phase.toNat, h.offset.toNat, payloadBytes payload poison⟩]
         bytes := i.bytes + payload.length }
       s.instFor h = some k → s.inst k = some i →
       i.begun = false ∨ (∀ r ∈ j.peers, j.dueSteps (j.plan r) (j.sent.get (fun _ => 0) r) = 0) →
        ∃ t, exec (.data fr payload poison) s = .next t ∧ t.ctxOf n = got ∧ t.inst k = some j ∧
          (∀ m, m ≠ k → t.inst m = s.inst m) ∧ t.mem = s.mem ∧ t.cells = s.cells)) ∧
    (s.instFor h = some k → s.inst k = some i → i.begun = false →
      ∃ t, exec (.ready fr digest) s = .next t ∧ t.ctxOf n = got ∧
        t.inst k = some { i with ready := i.ready.filter (fun e => e.1 != h.rank.toNat) ++ [(h.rank.toNat, digest.toNat)] } ∧
        (∀ m, m ≠ k → t.inst m = s.inst m) ∧ t.mem = s.mem ∧ t.cells = s.cells) ∧
    (s.instFor h = some k → s.inst k = some i → i.got = false → i.desc = 0 → i.n = 0 → i.fed = [] → s.ce.waitQ = [] →
      s.ce.mine = none → st ≠ 0 → st ≠ 4 →
      ∃ t, exec (.abortFrame fr st rank) s = .next t ∧ t.ctxOf n = got ∧ t.inst k = none ∧
        t.freg FR.CE_ABORT_CNT = (s.freg FR.CE_ABORT_CNT + 1) % 2 ^ 64 ∧ bitB (t.freg FR.CE_STATUS) 1 = true ∧
        (∀ m, m ≠ k → t.inst m = s.inst m) ∧ t.mem = s.mem ∧ t.cells = s.cells) ∧
    (∀ p, h.apsn = some p → x.queue = [] → s.fl.full = [] → s.routeThere n = true →
      ∃ t, exec (.ack h a) s = .next t ∧
        (t.ctxOf n).unacked.map (·.psn) = (x.unacked.filter (fun u => !ackedBy p.toNat a.map u)).map (·.psn) ∧
        (t.ctxOf n).srtt = a.srtt ∧ (t.ctxOf n).credit = a.credit ∧ (t.ctxOf n).rxCum = x.rxCum ∧
        (t.ctxOf n).owed = x.owed ∧ (∀ m, m ≠ n → t.ctxOf m = s.ctxOf m) ∧
        t = { s with fl := { s.fl with ctx := t.fl.ctx, cached := t.fl.cached, loop := t.fl.loop, wire := t.fl.wire }
                     fregs := t.fregs, free := t.free }) ∧
    (x.owed ≠ 0 → s.clearLink n = none → exec (.ackTimer h.src) s = .next s) ∧
    (x.owed ≠ 0 → s.clearLink n ≠ none → s.fl.full = [] → ∃ t, exec (.ackTimer h.src) s = .next t ∧ t.ctxOf n = { x with owed := 0, owedCe := 0 } ∧
      t.freg FR.FL_TX_PKT_CNT = (s.freg FR.FL_TX_PKT_CNT + 1) % 2 ^ 64 ∧
      t.fl.loop.length + t.fl.wire.length = s.fl.loop.length + s.fl.wire.length + 1 ∧
      t = { s with fl := { s.fl with ctx := t.fl.ctx, loop := t.fl.loop, wire := t.fl.wire }
                   fregs := t.fregs, free := t.free })

/-- R386, R388 to R391, R393, R398, R399, R402: arming puts a descriptor with its first sequence into the list, which
holds 256; one that is disarmed leaves it, once its instance has ended where one runs. A trigger word that has reached
the next sequence starts an instance in a free slot; with none free it waits under that sequence; either way the next
trigger is for the one after it. A write to CE_ABORT ends the descriptor's
instance. An instance that has all it needs, and whose result and completion record are written, leaves its slot and
counts in CE_DONE_CNT. The root of a direct broadcast detaches an attached receiver whose acknowledged offset lags
another's by more than CE_LAG_CFG allows; it counts in CE_DETACH_CNT. -/
def Obligations.ParadeInstances : Prop :=
  (∀ (s u : State) (o : Origin) (cid : BitVec 12) (first : BitVec 32) (k : Fin 32) (i : Inst) (a : Armed) (v : List Byte),
     let n := cid.toNat
     let ce := s.ce
     let others := ce.armed.filter (fun a => a.cid != n)
     n < 4080 →
     (Reaches o s FR.CE_ARM → Still s →
       ((s.armedOf n).isSome = true ∨ ce.armed.length < 256 → ∃ t, exec (.ceArm o cid first) s = .next t ∧
         t = { s with ce := { ce with armed := others ++ [{ cid := n, next := first.toNat }] } }) ∧
       (s.armedOf n = none → 256 ≤ ce.armed.length → ∃ t, exec (.ceArm o cid first) s = .next t ∧
         t = s.orFreg FR.CE_STATUS 32) ∧
       (s.slotOf n = none → ∃ t, exec (.ceDisarm o cid) s = .next t ∧
         t = { s with ce := { ce with armed := others, waitQ := ce.waitQ.filter (·.1 != n) } }) ∧
       (s.slotOf n = some k → ∃ t, exec (.ceDisarm o cid) s = .next t ∧
         t = { s with ce := { ce with armed := ce.armed.map (fun a => if a.cid = n then { a with disarm := true } else a) } })) ∧
     (Reaches o s FR.CE_ABORT → Still s → s.slotOf n = some k → s.inst k = some i → i.ended = none → i.got = false →
       i.desc = 0 → i.n = 0 → i.fed = [] → ce.waitQ = [] → ce.mine = none → SMap.wf floorResetVal s.fregs = true →
       ∃ t, exec (.ceAbort o cid) s = .next t ∧ t.inst k = none ∧ (∀ m, m ≠ k → t.inst m = s.inst m) ∧
         t.freg FR.CE_ABORT_CNT = (s.freg FR.CE_ABORT_CNT + 1) % 2 ^ 64 ∧ bitB (t.freg FR.CE_STATUS) 1 = true ∧
         t.mem = s.mem ∧ t.cells = s.cells) ∧
     (s.dev.mainOn = true → s.fatal = false → s.slotOf n = none → s.armedOf n = some a → a.disarm = false →
       bitB (s.freg FR.CE_CTRL) 0 = true → ce.waitQ = [] →
       ce.mine = none → (s.ceRead n 0 (s.freg FR.CE_DESC_BASE + 128 * n) 40).bind (fun s d =>
         s.ceRead n ⟨fieldAt d 0 4 / 2 ^ 28 % 8, by omega⟩ (fieldAt d 32 8 % 2 ^ 57 / 8 * 8) 8) = .ok u v →
       u.ce = s.ce → u.fatal = false → a.next + 1 < 2 ^ 64 →
       let armed := u.ce.armed.map (fun b => if b.cid = n then { b with next := a.next + 1 } else b)
       (leNat v < a.next → ∃ t, exec (.instanceTrigger cid) s = .next t ∧ t = u) ∧
       (a.next ≤ leNat v → u.freeInst = none → ∃ t, exec (.instanceTrigger cid) s = .next t ∧
         t = { u with ce := { u.ce with armed, waitQ := [(n, a.next)] } }) ∧
       (a.next ≤ leNat v → u.freeInst = some k → ce.held = [] →
         let m : State := State.setInst { u with ce := { u.ce with armed } } k (some { cid := n, cseq := a.next })
         ∀ w i, m.setup { cid := n, cseq := a.next } = .ok w i → i.peers = [] → i.ready = [] → i.ended = none →
           bitB (w.freg FR.CE_STATUS) 4 = false → w.ce = m.ce → i.fed = [] → w.rx.job = none →
           ∃ t, exec (.instanceTrigger cid) s = .next t ∧ t.inst k = some { i with draw := w.free } ∧
             t = { w with ce := t.ce, free := t.free } ∧
             t.armedOf n = some { a with next := a.next + 1 } ∧ ∀ j, j ≠ k → t.inst j = s.inst j))) ∧
  (∀ (s u w : State) (k : Fin 32) (i : Inst) (rank : BitVec 16) (timed : Bool),
     let comp := i.f 383 320
     let bs := leBytes 64 (i.record 0 0 0xFFFFFFFF)
     (s.inst k = some i → s.instReady i = true → i.reduces = false → i.harvest = false → i.got = true → i.isOwn = false →
       comp % 64 = 0 → comp < 2 ^ 57 → s.writeResult i (i.result i.draw).2 = .ok u () →
       (u.ceWrite i.cid i.cls (comp + 8) (clean (bs.drop 8))).bind (fun s _ =>
         s.ceWrite i.cid i.cls comp (clean (bs.take 8))) = .ok w () →
       w.ce.waitQ = [] → w.ce.mine = none → w.ce.deliver = [] → SMap.wf floorResetVal w.fregs = true →
       ∃ t, exec (.instanceComplete k) s = .next t ∧ t.inst k = none ∧ (∀ m, m ≠ k → t.inst m = w.inst m) ∧
         t.freg FR.CE_DONE_CNT = (w.freg FR.CE_DONE_CNT + 1) % 2 ^ 64 ∧ t.mem = w.mem ∧ t.cells = w.cells) ∧
     (s.inst k = some i → i.op = 4 → i.algo = 4 → i.me = i.root → i.ended = none → rank.toNat < i.n → rank.toNat ≠ i.me →
       i.detached.has rank.toNat = false → s.ackedOffset i rank.toNat < i.count →
       (∃ q, q < i.n ∧ q ≠ i.me ∧ q ≠ rank.toNat ∧ i.detached.has q = false ∧
         s.ackedOffset i rank.toNat + bits (s.freg FR.CE_LAG_CFG) 15 0 * 65536 < s.ackedOffset i q) →
       SMap.wf floorResetVal s.fregs = true →
       ∃ t, exec (.receiverDetach k rank timed) s = .next t ∧
         t.inst k = some { i with detached := i.detached.add rank.toNat } ∧ (∀ m, m ≠ k → t.inst m = s.inst m) ∧
         t.freg FR.CE_DETACH_CNT = (s.freg FR.CE_DETACH_CNT + 1) % 2 ^ 64 ∧ t.mem = s.mem ∧ t.cells = s.cells))

/-- R410, R418 to R421, R424: With CXL up a doorbell moves its queue's tail or head on where the value is in range and does
not pass the other pointer, and else only sets its error bit; a write to HI_Qn_CFG with en 0 takes its fields, and
setting en clears the pointers. The next command in turn takes the first free slot, a malformed one with its outcome;
the completion of one that has executed is written to its completion queue, and its slot is free again. -/
def Obligations.HostQueues : Prop :=
  ∀ (s : State) (q : Fin 64) (v : Half) (o : Origin) (entry : Desc) (k : Fin 16) (c : HostCmd) (st d r : Nat),
    let x := s.qp q
    let reg := FR.HI_Q_CFG q.val
    let n := v.toNat
    (s.dev.mainOn = true → s.cxlUp = true →
      (n < s.sqSize q → (x.sqTail + s.sqSize q - x.sqHead) % s.sqSize q + (n + s.sqSize q - x.sqTail) % s.sqSize q < s.sqSize q →
        ∃ t, exec (.sqDoorbell q v) s = .next t ∧ t = s.setQp q { x with sqTail := n }) ∧
      (n < s.cqSize q → (n + s.cqSize q - x.cqHead) % s.cqSize q ≤ (x.cqTail + s.cqSize q - x.cqHead) % s.cqSize q →
        ∃ t, exec (.cqDoorbell q v) s = .next t ∧ t = s.setQp q { x with cqHead := n }) ∧
      (s.sqSize q ≤ n ∨
          s.sqSize q ≤ (x.sqTail + s.sqSize q - x.sqHead) % s.sqSize q + (n + s.sqSize q - x.sqTail) % s.sqSize q →
        ∃ t, exec (.sqDoorbell q v) s = .next t ∧ t = s.orFreg (FR.HI_Q_STATUS q.val) 4) ∧
      (s.cqSize q ≤ n ∨
          (x.cqTail + s.cqSize q - x.cqHead) % s.cqSize q < (n + s.cqSize q - x.cqHead) % s.cqSize q →
        ∃ t, exec (.cqDoorbell q v) s = .next t ∧ t = s.orFreg (FR.HI_Q_STATUS q.val) 4)) ∧
    (Reaches o s reg → SMap.wf floorResetVal s.fregs = true →
      (bitB (s.freg reg) 31 = false → 4 ≤ bits n 4 0 → bits n 4 0 ≤ 16 → 4 ≤ bits n 12 8 → bits n 12 8 ≤ 16 →
        bits n 23 16 ≤ 247 →
        ∃ t, exec (.queueCfgWrite o q v) s = .next t ∧
          (∀ f ∈ [(4, 0), (12, 8), (23, 16), (31, 28)], bits (t.freg reg) f.1 f.2 = bits n f.1 f.2) ∧
          (∀ a, a ≠ reg → t.freg a = s.freg a) ∧ t.qp q = (if bitB n 31 then {} else x) ∧
          t = { s with fregs := t.fregs, hs := { s.hs with qs := t.hs.qs } }) ∧
      (bitB (s.freg reg) 31 = true →
        ∃ t, exec (.queueCfgWrite o q v) s = .next t ∧ bits (t.freg reg) 30 0 = bits (s.freg reg) 30 0 ∧
          bitB (t.freg reg) 31 = bitB n 31 ∧ (∀ a, a ≠ reg → t.freg a = s.freg a) ∧ t = { s with fregs := t.fregs })) ∧
    (s.dev.mainOn = true → s.fatal = false → bitB (s.freg FR.HI_CTRL) 0 = true → s.rx.job = none →
      (List.finRange 16).find? (fun k => (s.cmd k).isNone) = some k → s.queueOrder.find? (s.mayFetch entry) = some q →
      s.entryHeld q = false →
      (bitB (s.qCfg q) 30 = true → s.absent ((s.sqEntry q).2 / 256) = true → s.rawAsleep (s.sqEntry q).2 = none) →
      ∃ t m, exec (.commandFetch entry) s = .next t ∧ t.cmd k = some m ∧ m.q = q ∧
        m.bytes = (if bitB (s.qCfg q) 30 then BitVec.ofNat 512 (leNat (s.latest (s.sqEntry q).2 64)) else entry) ∧
        m.sqHead = (x.sqHead + 1) % s.sqSize q ∧ m.outcome = (if m.ok then none else some (1, 0, 0)) ∧
        t.qp q = { x with sqHead := (x.sqHead + 1) % s.sqSize q } ∧ t.hs.served = q.val ∧
        (∀ j, j ≠ k → t.cmd j = s.cmd j) ∧ t = { s with hs := t.hs }) ∧
    (s.cmd k = some c → c.q = q → c.outcome = some (st, d, r) → c.owesMailbox = false →
      (st = 1 ∨ s.cmdSettled c = true) → s.cqRoom q = true → s.cxlUp = true → bitB (s.qCfg q) 29 = false → bitB (s.qCfg q) 28 = false →
      SMap.wf floorResetVal s.fregs = true →
      let tail := (x.cqTail + 1) % s.cqSize q
      ∃ t, exec (.completionWrite k) s = .next t ∧ t.cmd k = none ∧
        plain (t.hostRead (s.freg (FR.HI_Q_CQ_BASE q.val) + 16 * x.cqTail) 16) = leBytes 16 (c.entry x.phase st d r) ∧
        t.qp q = { x with cqTail := tail, phase := if tail = 0 then !x.phase else x.phase } ∧
        t.freg FR.HI_CMD_CNT = (s.freg FR.HI_CMD_CNT + 1) % 2 ^ 64 ∧
        t.freg FR.HI_CMD_ERR_CNT = (s.freg FR.HI_CMD_ERR_CNT + b2n (st != 0)) % 2 ^ 64 ∧
        (∀ j, j ≠ k → t.cmd j = s.cmd j) ∧
        t = { s with mem := { s.mem with host := t.mem.host, hostPoison := t.mem.hostPoison }, hs := t.hs, fregs := t.fregs })

/-- R254, R422, R423, R504, R507: NOP executes with no effect. CELL_START starts the masked cells that are halted, at
the pc that it loads; CELL_HALT halts those that run; CELL_RESET and BAND_RESET bring the awake cells of their masks to
their reset state and count the reset. SEM_POST adds its count to a semaphore. Each then has the outcome 0. Once their
ranges are translated, IM_LOAD puts the bytes of memory into the instruction memories of the halted cells of its mask,
COPY writes the bytes that it reads with their poison, and FILL its word over and over. Each then has the outcome 0. -/
def Obligations.HostCommands : Prop :=
  (∀ (s : State) (k : Fin 16) (c : HostCmd),
     let done (t : State) : Prop := t.cmd k = some { c with outcome := some (0, 0, 0) } ∧
       ∀ j, j ≠ k → t.cmd j = s.cmd j
     let up (n : CellId) : Prop := (s.cell n).cp.st = .awake ∧ (s.cell n).cp.goal.reset = false ∧ (s.cell n).window = []
     let fresh (t : State) (n : CellId) : Prop := (t.cell n).mode = .halted ∧ (t.cell n).window = [] ∧
       (t.cell n).npc = 0 ∧ (t.cell n).s = Vector.replicate 32 0 ∧ (t.cell n).oc = [] ∧ (t.cell n).acc = [] ∧
       (∀ m, (t.cell n).slot m = none) ∧
       (t.cell n).im = (if bitB ((s.cell n).reg CR.CP_CTRL) 2 then (s.cell n).im else []) ∧
       (∀ r, r < CR.CP_CTRL → r ≠ CR.MX_REPAIR → r ≠ CR.MX_STATUS → (t.cell n).reg r = (cellResetVal r).toNat) ∧
       (∀ r, CR.CP_CTRL ≤ r → (t.cell n).reg r = (s.cell n).reg r)
     let bands : List (Fin 16) := (List.finRange 16).filter (fun b => bitB (c.f 79 64) b.val)
     s.cmd k = some c → s.dev.mainOn = true → c.outcome = none → SMap.wf floorResetVal s.fregs = true →
     (c.op = 0 → ∃ t, exec (.nopCommand k) s = .next t ∧ done t ∧ t = { s with hs := { s.hs with cmds := t.hs.cmds } }) ∧
     (c.op = 1 → s.fatal = false → (∀ n ∈ c.cells, up n ∧ (s.cell n).mode ≠ .running) →
       ∃ t, exec (.cellStart k) s = .next t ∧ done t ∧
         t = { s with cells := t.cells, hs := { s.hs with cmds := t.hs.cmds } } ∧
         ∀ n, (n ∈ c.cells → (t.cell n).running = true ∧
           (t.cell n).npc = (if c.f 384 384 = 1 then BitVec.ofNat 64 (c.f 376 320) else (s.cell n).npc)) ∧
           (n ∉ c.cells → t.cell n = s.cell n)) ∧
     (c.op = 2 → (∀ n ∈ c.cells, up n) →
       ∃ t, exec (.cellHalt k) s = .next t ∧ done t ∧
         t = { s with cells := t.cells, hs := { s.hs with cmds := t.hs.cmds } } ∧
         ∀ n, (n ∈ c.cells → (t.cell n).mode ≠ .running ∧ (t.cell n).npc = (s.cell n).npc ∧ (t.cell n).s = (s.cell n).s) ∧
           (n ∉ c.cells → t.cell n = s.cell n)) ∧
     (c.op = 3 → c.cells ≠ [] → (∀ n ∈ c.cells, up n ∧ ∀ m, (s.cell n).slot m = none) →
       ∃ t, exec (.cellReset k) s = .next t ∧ done t ∧ (∀ n ∈ c.cells, fresh t n) ∧
         (∀ n, n ∉ c.cells → t.cell n = s.cell n) ∧ (∀ n ∈ c.cells, n ∈ t.sync.all.arrived) ∧
         t.freg (FR.RST_KIND_CNT 1) = (s.freg (FR.RST_KIND_CNT 1) + 1) % 2 ^ 64 ∧ t.mem = s.mem) ∧
     (c.op = 4 → bands ≠ [] → (∀ n, bandOf n ∈ bands → up n ∧ ∀ m, (s.cell n).slot m = none) → s.hv.delivered = [] →
       ∃ t, exec (.bandReset k) s = .next t ∧ done t ∧ (∀ n, bandOf n ∈ bands → fresh t n) ∧
         (∀ n, bandOf n ∉ bands → t.cell n = s.cell n) ∧
         t.freg (FR.RST_KIND_CNT 2) = (s.freg (FR.RST_KIND_CNT 2) + 1) % 2 ^ 64 ∧ t.mem = s.mem) ∧
     (c.op = 8 →
       let n := cellNo (c.f 71 64)
       let x := s.cell n
       let p := BitVec.ofNat 6 (c.f 77 72)
       x.cp.st = .awake → x.cp.goal.reset = false → (x.sem p).ovf = false → (x.sem p).count.toNat + c.f 95 80 ≤ 65535 →
       ∃ t, exec (.semPost k) s = .next t ∧ done t ∧
         t = { s with cells := t.cells, hs := { s.hs with cmds := t.hs.cmds } } ∧
         t.cell n = (x.count CR.SEM_POST_CNT).setSem p
           { x.sem p with count := BitVec.ofNat 16 ((x.sem p).count.toNat + c.f 95 80) } ∧
         ∀ m, m ≠ n → t.cell m = s.cell m)) ∧
  (∀ (s u w z : State) (k : Fin 16) (c : HostCmd) (d : List PByte) (m : MemUpset),
     let cls : Fin 8 := ⟨c.f 226 224 % 8, by omega⟩
     let reach (write : Bool) (va n : Nat) (s : State) : AccRes Unit := State.reach write (n / 4096 + 2) va n s
     let done (t : State) : Prop := t.cmd k = some { c with outcome := some (0, 0, 0) } ∧
       ∀ j, j ≠ k → t.cmd j = s.cmd j
     s.cmd k = some c → s.dev.mainOn = true → c.outcome = none → s.hs.refused = [] →
     (c.op = 5 → reach false (c.f 376 320) (c.f 415 384) s = .ok z () →
       (∀ n ∈ c.cells, (s.cell n).cp.st = .awake ∧ (s.cell n).mode ≠ .running) →
       s.spanRead .host (c.f 376 320) (c.f 415 384) = .ok u d → anyBad d = false → u.cells = s.cells → u.hs = s.hs →
       ∃ t, exec (.imLoad k) s = .next t ∧ done t ∧ t = { u with cells := t.cells, hs := { u.hs with cmds := t.hs.cmds } } ∧
         ∀ n, t.cell n = if n ∈ c.cells then (s.cell n).imWrite (c.f 431 416) (plain d) else s.cell n) ∧
     (c.op = 6 → (reach false (c.f 120 64) (c.f 223 192) s).bind (fun s _ => reach true (c.f 184 128) (c.f 223 192) s) = .ok z () →
       (s.memUpset m).spanRead .host (c.f 120 64) (c.f 223 192) cls = .ok u d → u.spanWrite .host (c.f 184 128) d cls = .ok w () →
       w.hs.cmds = s.hs.cmds →
       ∃ t, exec (.copy ⟨k, m⟩) s = .next t ∧ done t ∧ t = { w with hs := { w.hs with cmds := t.hs.cmds } }) ∧
     (c.op = 7 → reach true (c.f 120 64) (c.f 223 192) s = .ok z () →
       s.spanWrite .host (c.f 120 64)
         (clean ((List.replicate (c.f 223 192 / 8) (leBytes 8 (c.f 191 128))).flatten)) = .ok w () → w.hs.cmds = s.hs.cmds →
       ∃ t, exec (.fill k) s = .next t ∧ done t ∧ t = { w with hs := { w.hs with cmds := t.hs.cmds } }))

/-- R428 to R432: A waiting record is published to its mailbox, which is then READY with the record's contents and the
next sequence number; while the mailbox is READY it waits, counted. The trigger word's new record becomes the waiting
one. A command that asks for a mailbox publishes it with its completion's head. An acknowledgement with the mailbox's
sequence number takes it; any other counts as stale. -/
def Obligations.Mailboxes : Prop :=
  ∀ (s u v z : State) (m : BitVec 12) (a : Half) (p : Publication) (k : Fin 16) (c : HostCmd) (w r : List PByte) (q : Phys),
    let b := s.box m.toNat
    let full (x : Mailbox) (ptr len tag user : Nat) : Mailbox := { x with
      st := .ready, seq := x.seq + 1, ptr := BitVec.ofNat 52 ptr, len := BitVec.ofNat 32 len
      tag := BitVec.ofNat 32 tag, user := BitVec.ofNat 64 user }
    SMap.wf (fun _ => ({} : Mailbox)) s.hs.boxes = true → SMap.wf floorResetVal s.fregs = true →
    (s.dev.mainOn = true → s.cxlUp = true →
      (b.st = .ready → b.seq = a → ∃ t, exec (.mailboxAck m a) s = .next t ∧
        t = s.setBox m.toNat { b with st := .consumed, ack := a } ∧ t.box m.toNat = { b with st := .consumed, ack := a }) ∧
      ((b.st ≠ .ready ∨ b.seq ≠ a) → ∃ t, exec (.mailboxAck m a) s = .next t ∧ t = s.count FR.HI_ACK_STALE_CNT)) ∧
    (s.hs.post = some p → (s.box p.mbx).st ≠ .ready →
      State.reach true 2 (s.freg FR.HI_POST_TRIG + 8) 8 s = .ok u () →
      let h := s.freg FR.HI_POST_HEAD + 1
      let x := (State.publish { s with hs := { s.hs with post := none } } p).setFreg FR.HI_POST_HEAD h
      x.spanWrite .host (s.freg FR.HI_POST_TRIG + 8) (clean (leBytes 8 h)) = .ok z () → z.hs = x.hs →
      (∀ a ∈ [FR.HI_POST_HEAD, FR.HI_MBX_PUB_CNT], z.freg a = x.freg a) →
      ∃ t, exec (.mailboxPublish none) s = .next t ∧ t = z ∧
        t.box p.mbx = full (s.box p.mbx) p.ptr p.len p.tag p.user ∧ t.hs.post = none ∧
        t.freg FR.HI_POST_HEAD = h % 2 ^ 64 ∧
        t.freg FR.HI_MBX_PUB_CNT = (s.freg FR.HI_MBX_PUB_CNT + 1) % 2 ^ 64) ∧
    (s.hs.post = some p → (s.box p.mbx).st = .ready → ∃ t, exec (.mailboxPublish none) s = .next t ∧
      t = { s with fregs := t.fregs, free := s.free + 1 } ∧ ∀ a, a ≠ FR.HI_MBX_WAIT_CNT → t.freg a = s.freg a) ∧
    (∀ st d res, s.cmd k = some c → c.outcome = some (st, d, res) → c.owesMailbox = true → s.cmdSettled c = true →
      (s.box (c.f 43 32)).st ≠ .ready →
      ∃ t, exec (.mailboxPublish (some k)) s = .next t ∧
        t.box (c.f 43 32) = full (s.box (c.f 43 32)) 0 0 (c.f 31 16) (c.head res) ∧
        t.cmd k = some { c with published := true } ∧ (∀ j, j ≠ k → t.cmd j = s.cmd j) ∧ t.mem = s.mem ∧ t.cells = s.cells) ∧
    (s.dev.mainOn = true → s.postEn = true → s.hs.post = none →
      s.spanRead .host (s.freg FR.HI_POST_TRIG) 8 = .ok u w → anyBad w = false → u.hs = s.hs →
      (leNat (plain w) ≤ u.freg FR.HI_POST_HEAD → ∃ t, exec .postTrigger s = .next t ∧ t = u) ∧
      (u.freg FR.HI_POST_HEAD < leNat (plain w) → s.hs.refused = [] →
        u.spanRead .host (u.freg FR.HI_POST_BASE + 32 * (u.freg FR.HI_POST_HEAD % 2 ^ u.freg FR.HI_POST_CFG)) 32 = .ok v r →
        anyBad r = false → v.hs = s.hs →
        let e := leNat (plain r)
        let va := bits e 184 128
        bits e 191 185 = 0 → bits e 63 12 = 0 → 1 ≤ bits e 127 96 → bits e 127 96 ≤ 65536 →
        va % 65536 + bits e 127 96 ≤ 65536 → v.translate { agent := .host, va } = (z, .phys q) → z.hs = s.hs →
        ∃ t, exec .postTrigger s = .next t ∧ t = { z with hs := t.hs } ∧ t.hs.post = some
          { mbx := bits e 11 0, ptr := q.pa, len := bits e 127 96, tag := bits e 95 64, user := bits e 255 192 } ∧
          (t.box (bits e 11 0)).st = (if (s.box (bits e 11 0)).st = .ready then .ready else .empty)))

/-- R410, R413 to R416, R433: through the committed decoder of a CXL link the host reads 64 bytes of a line that is
cached, or else of HBM, and holds the block from then on; it writes the enabled bytes and no others. Its answer to a
back-invalidate gives the block up, with its data where it had changed them. It reads its own memory from the line that
the device holds, and takes the line back; a line that a cell holds modified is first brought home. The DOE mailbox answers
discovery and the CDAT. -/
def Obligations.HostAccesses : Prop :=
  ∀ (s : State) (hpa da : Nat) (data : Desc) (be : BitVec 64) (blk : Nat) (r : DoeIn) (e : MemUpset),
    let y := s.memUpset e
    let la := da / 256
    let l := y.line la
    let b := da / 64
    let room : Prop := s.hs.held.any (fun h => h.1 == b) = true ∨ s.hs.held.length < 4194304
    let held (x : Bool) := y.hs.held.filter (fun h => h.1 != b) ++ [(b, x)]
    (s.hdmAddr hpa = some da → s.hostWaits la = false → room →
      (l = {} → s.rawAsleep da = none → ∃ t, exec (.hdmRead ⟨hpa, e⟩) s = .next t ∧
        t = { y with hs := { y.hs with held := held true, reply := .data (y.hbmRead (b * 64) 64) } }) ∧
      (s.absent la = false → l.st ≠ .i → l.st ≠ .a → l.held = [] → SMap.wf (fun _ => ({} : Line)) y.mem.lines = true →
        ∃ t, exec (.hdmRead ⟨hpa, e⟩) s = .next t ∧ t.hs.reply = .data (l.read (b % 4 * 64) 64) ∧ (t.line la).st = .s ∧
        (t.line la).data = l.data ∧ (t.line la).holders = l.holders ∧
        (l.st ≠ .m →
          t.hs = { y.hs with held := held (l.st == .s && l.noHolder), reply := .data (l.read (b % 4 * 64) 64) } ∧
          t.line la = { l with st := .s, lru := y.mem.lruTick + 1 } ∧ (∀ x, x ≠ la → t.line x = y.line x) ∧
          t = { y with mem := { y.mem with lines := t.mem.lines, lruTick := y.mem.lruTick + 1 }
                       hs := t.hs, fregs := t.fregs }))) ∧
    (s.hdmAddr hpa = some da → s.hostWaits la = false → y.rx.job = none → l = {} → s.rawAsleep da = none →
      y.mem.posted = [] → Memory.wf y.mem = true →
      ∃ t, exec (.hdmWrite ⟨hpa, e⟩ data be false none) s = .next t ∧ t = { y with mem := t.mem, hs := { y.hs with
          held := y.hs.held.filter (fun h => h.1 != b) } } ∧
        (∀ i < 64, plain (t.hbmRead (b * 64 + i) 1) = if be.getLsbD i then [BitVec.ofNat 8 (data.toNat / 2 ^ (8 * i))]
          else plain (y.hbmRead (b * 64 + i) 1)) ∧
        (∀ x, x < b * 64 ∨ b * 64 + 64 ≤ x → plain (t.hbmRead x 1) = plain (y.hbmRead x 1)) ∧
        t.mem.lines = y.mem.lines) ∧
    (∀ inv rest, s.hs.snooped = (blk, inv) :: rest → rest.any (fun m => m.1 == blk) = false → Still s →
      (s.line (blk / 4)).leaving = false → s.mem.posted = [] →
      let back := if inv then s.hs.held.filter (fun h => h.1 != blk)
        else s.hs.held.map (fun h => if h.1 = blk then (h.1, false) else h)
      (∃ t, exec (.bisnpResponse blk none) s = .next t ∧ t = { s with hs := { s.hs with held := back, snooped := rest } }) ∧
      (s.absent (blk / 4) = true → blk * 64 + 64 ≤ hbmTop → Memory.wf s.mem = true → s.rawAsleep (blk / 4 * 256) = none →
        s.rx.job = none →
        ∃ t, exec (.bisnpResponse blk (some (data, false))) s = .next t ∧
          plain (t.hbmRead (blk * 64) 64) = leBytes 64 data.toNat ∧
          t = { s with mem := t.mem, hs := { s.hs with held := back, snooped := rest } })) ∧
    (let ha := (hostBase + blk * 64) / 256
      let h := s.line ha
      s.dev.mainOn = true → s.cxlUp = true → h.st ≠ .i → h.st ≠ .a → h.held = [] → s.hostWaits ha = false →
      SMap.wf (fun _ => ({} : Line)) s.mem.lines = true →
      ∀ inv, ∃ t, exec (.hostSnoop blk inv) s = .next t ∧ t.hs.reply = .data (h.read (blk % 4 * 64) 64) ∧
        (inv = true → t.line ha = h.gone) ∧
        (inv = false → (t.line ha).st = (if h.st = .m then .s else h.st) ∧ (t.line ha).dirty = false ∧
          (t.line ha).data = h.data) ∧
        (h.st ≠ .m → h.dirty = false →
          t = { s with mem := { s.mem with lines := t.mem.lines }, fregs := t.fregs
                       hs := { s.hs with reply := .data (h.read (blk % 4 * 64) 64) } } ∧
          (inv = false → t.line ha = h) ∧ ∀ x, x ≠ ha → t.line x = s.line x)) ∧
    (s.hs.link ≠ .down →
      (∀ i, r = .discovery i → ∃ t, exec (.doeRequest r) s = .next t ∧
        t = s.answer (.protocol ([DoeProto.discovery, .cmaSpdm, .securedCma, .cxlTable][i]?))) ∧
      (r = .cdat → ∃ t, exec (.doeRequest r) s = .next t ∧ t = s.answer (.cdat 0 0x13FB0000000 350 32800)))

/-- R42, R434, R435, R460, R504 to R506, R528: A device reset, from the link, the I3C port or a reset input, brings every
cell, slice and engine and every register outside the Vigil domain to its reset value, keeps the contents of HBM, the
OTP, the flash and the Almanac's numbering, raises FL_BOOT_EPOCH and the count of its kind, and leads to bring-up unless an
input holds it. One that comes while a reset is held joins it, and while a sensor reads above 100 °C there is none. -/
def Obligations.DeviceResets : Prop :=
  ∀ (s : State) (bs : List BringIn),
    let starts (s0 : State) (i : Instr) (clear : Bool) (bs : List BringIn) : Prop :=
      ∃ t u : State, exec i s = .next t ∧ t = u.startBoot bs ∧
        u.cells = Vector.replicate 256 {} ∧ u.slices = Vector.replicate 256 {} ∧ u.hv = {} ∧ u.rx = {} ∧
        u.fl = { wire := s.fl.wire } ∧ u.ce = {} ∧ u.sync = {} ∧ u.hs.link = .down ∧ u.hs.qs = Vector.replicate 64 {} ∧ u.mem.lines = [] ∧
        u.mem.hbm = s.mem.hbm ∧ u.mem.hbmPoison = s.mem.hbmPoison ∧ u.mem.tagSyn = s.mem.tagSyn ∧ u.mem.tlb = [] ∧
        (∀ a, vigilReg a = false → u.freg a = (floorResetVal a).toNat) ∧
        u.freg (FR.RST_KIND_CNT 5) = (s.freg (FR.RST_KIND_CNT 5) + 1) % 2 ^ 64 ∧
        u.freg FR.FL_BOOT_EPOCH = (s.freg FR.FL_BOOT_EPOCH + 1) % 2 ^ 32 ∧
        bitB (u.freg FR.RST_STATUS) 3 = false ∧ u.alm.seq = s.alm.seq + 1 ∧ u.timeUs = s.timeUs ∧
        u.dev.mainOn = false ∧ u.dev.ready = false ∧ u.dev.held = true ∧ u.dev.clearMem = (s.dev.clearMem || clear) ∧
        u.dev.fw.otp = s.dev.fw.otp ∧ u.dev.fw.flash = s.dev.fw.flash ∧ u.dev.rstLow = s0.dev.rstLow ∧
        u.dev.perstLow = s0.dev.perstLow
    let low : State := { s with dev := { s.dev with rstLow := true } }
    let perst : State := { s with dev := { s.dev with perstLow := true } }
    (s.dev.held = true → s.hs.link ≠ .down →
      (∃ t : State, exec (.cxlReset bs) s = .next t ∧ t = s) ∧
      ∃ t : State, exec (.cxlResetMemoryClear bs) s = .next t ∧ t = { s with dev := { s.dev with clearMem := true } }) ∧
    (s.hotSensor = true → s.dev.held = false → ∃ t : State, exec (.cxlReset bs) s = .next t ∧ t = s) ∧
    (s.dev.stbyPg = true → s.hotSensor = false → s.dev.held = false → s.dev.fw.writing = none →
    SMap.wf floorResetVal s.fregs = true →
    (s.hs.link ≠ .down → starts s (.cxlReset bs) false bs ∧ starts s (.cxlResetMemoryClear bs) true bs) ∧
    (s.dev.fw.otp.lc ≠ 4 → starts s (.reset 0 bs) false bs ∧ starts s (.reset 1 bs) true bs) ∧
    (s.dev.rstLow = false → starts low (.devRstAssert) false []) ∧
    (s.dev.perstLow = false → s.dev.readyOnce = true → starts perst (.cxlPerstAssert) false []) ∧
    (∀ n, s.dev.step = some n → 6 ≤ n → n ≤ 10 → s.dev.mainOn = true → s.dev.fw.asTry = true →
      starts s (.bringupStepTimeout bs) false bs))

/-- R434, R504, R505, R507 to R510: A function-level reset resets every cell, the host interface and the caches of
translations, and keeps HBM and the link. RST_CELL and RST_BAND reset the cells that they name. A floor reset resets the
host interface, the transport and the caches of translations, leaves the cells running, and raises FL_BOOT_EPOCH;
RST_STATUS.floor_busy stands and DEV_READY is low until its bring-up, which the next interval of the Vigil oscillator begins,
is through, and a further one joins it. Each counts its kind. -/
def Obligations.PartialResets : Prop :=
  ∀ (s : State) (o : Origin) (k : Fin 4) (v : Word) (h : Half) (bs : List BringIn) (i : IntervalIn) (w : State),
    let fresh (c : CellId) : Cell := (s.cell c).afterReset
    let one (n : Nat) (t : State) : Prop := t.freg (FR.RST_KIND_CNT n) = (s.freg (FR.RST_KIND_CNT n) + 1) % 2 ^ 64 ∧
      t.alm.seq = s.alm.seq + 1
    let quiet : Prop := (∀ k, s.inst k = none) ∧ s.mem.reqs = [] ∧ (∀ c n, (s.cell c).slot n = none) ∧ s.mem.posted = []
    let hi (a : Nat) : Prop := 0x30010010000 ≤ a ∧ a < 0x30010020000
    let named (c : CellId) : Bool := c.val / 64 == k.val && v.getLsbD (c.val % 64)
    let banded (c : CellId) : Bool := h.getLsbD (c.val / 16)
    SMap.wf floorResetVal s.fregs = true → quiet →
    (s.hs.link ≠ .down → s.hv.begun = [] → s.hv.remake = [] → s.rx.job = none → (∀ c, (s.cell c).cp.st = .awake) →
      ∃ t : State, exec .functionLevelReset s = .next t ∧ (∀ c, t.cell c = fresh c) ∧ t.hs.link = s.hs.link ∧
        t.hs.hdm = s.hs.hdm ∧ t.hs.held = s.hs.held ∧ t.hs.qs = Vector.replicate 64 {} ∧
        t.hs.cmds = Vector.replicate 16 none ∧ t.hs.boxes = [] ∧ t.hv = {} ∧ t.ce.armed = [] ∧
        t.mem = { s.mem with tlb := [], ats := [], atsWait := [], priWait := [], priFail := [] } ∧
        (∀ a, hi a → t.freg a = (floorResetVal a).toNat) ∧ one 4 t) ∧
    (Reaches o s (FR.RST_CELL k.val) → Still s → (∀ c, named c = true → (s.cell c).cp.st = .awake ∧ (s.cell c).cp.goal.reset = false) →
      (∃ c, named c = true) →
      ∃ t : State, exec (.rstCell o k v) s = .next t ∧ (∀ c, t.cell c = if named c then fresh c else s.cell c) ∧
        t.mem = s.mem ∧ one 1 t) ∧
    (Reaches o s FR.RST_BAND → Still s → (∀ c, banded c = true → (s.cell c).cp.st = .awake ∧ (s.cell c).cp.goal.reset = false) →
      (∃ c, banded c = true) → s.hv.delivered = [] →
      ∃ t : State, exec (.rstBand o h) s = .next t ∧ (∀ c, t.cell c = if banded c then fresh c else s.cell c) ∧
        t.mem = s.mem ∧ one 2 t) ∧
    (s.dev.ready = true → s.dev.mainOn = true → s.dev.stbyPg = true → s.dev.fw.otp.lc ≠ 4 → s.dev.floorBring = none →
      s.hs.held = [] → s.hostLines = [] → (∀ e ∈ s.mem.lines, e.2.leaving = false) →
      ∀ i ∈ [Instr.serviceFwTimeout bs, Instr.reset 2 bs],
        ∃ t : State, exec i s = .next t ∧ t.dev = { s.dev with floorBring := some bs } ∧ t.floorBusy = true ∧
          t.isReady = false ∧ t.cells = s.cells ∧ t.hs.link = .down ∧ t.hs.hdm = s.hs.hdm ∧
          t.hs.qs = Vector.replicate 64 {} ∧ t.hs.cmds = Vector.replicate 16 none ∧ t.hs.boxes = [] ∧
          (∀ a, hi a → t.freg a = (floorResetVal a).toNat) ∧ t.fl = { wire := s.fl.wire } ∧
          (∀ p < 18, t.freg (FR.FL_P_STATUS p) = 0) ∧
          t.mem = { s.mem with tlb := [], ats := [], atsWait := [], priWait := [], priFail := [] } ∧
          t.ce.armed = [] ∧ t.freg FR.FL_BOOT_EPOCH = (s.freg FR.FL_BOOT_EPOCH + 1) % 2 ^ 32 ∧ t.freg FR.TR_STATUS = 0 ∧
          t.hv = { s.hv with poisonOwed := s.hv.poisonOwed || s.hvState == 1 } ∧ t.pw.sr = 0xFFFFF ∧ one 3 t) ∧
    (s.dev.floorBring ≠ none → ∃ t : State, exec (.serviceFwTimeout bs) s = .next t ∧ t = s) ∧
    (let u := (State.controlStep (State.readSensors { s with timeUs := s.timeUs + 2 } i) i.acts).flTime.endStage
     s.dev.stbyPg = true → s.dev.mainOn = true → State.tripCause (State.readSensors { s with timeUs := s.timeUs + 2 } i) = none →
      u.dev.floorBring = some bs → u.dev.step = none → u.floorSteps bs = .ready w →
      ∃ t : State, exec (.powerInterval i) s = .next t ∧ t = w.payPoison ∧ (w.hv.poisonOwed = false → t = w))

/-- R438, R439, R466 to R469, R474, R478, R505, R527 to R529: standby power begins a cold start, and with it gone the
device is off; main power, or the release of the last reset input, begins bring-up, whose success ends in READY and
whose failure turns the main domain off with SYS_BOOT_ERR saying where. With main power gone HBM is lost, and the device
records it. CXL_PERST_N low before READY holds the port alone, and its release lets the port train. -/
def Obligations.SuppliesAndBringUp : Prop :=
  ∀ (s : State) (bs : List BringIn) (w : State) (st sub code n : Nat),
    let good (i : Instr) (u : State) : Prop :=
      (u.bootSteps bs = .ready w → ∃ t : State, exec i s = .next t ∧ t = w ∧ w.dev.ready = true ∧ w.dev.mainOn = true ∧
        w.dev.step = none ∧ w.dev.held = false ∧ w.pw.sr = 0xFFFFF ∧ w.pw.want = 100) ∧
      (u.bootSteps bs = .failed w st sub code → (w.dev.fw.asTry = false ∨ st < 5 ∨ code = 2) → st < 2 ^ 8 → sub < 2 ^ 8 → code < 2 ^ 8 →
        bitB (w.freg FR.SYS_BOOT_ERR) 31 = false → SMap.wf floorResetVal w.fregs = true →
        ∃ t : State, exec i s = .next t ∧ t.dev.mainOn = false ∧ t.mem.hbm = [] ∧
          t.freg FR.SYS_BOOT_ERR = 2 ^ 31 + st * 65536 + sub * 256 + code ∧ t.freg FR.SYS_BOOT_STATUS = 0xFF)
    let lost (i : Instr) : Prop := s.dev.stbyPg = true → s.dev.mainPg = true → SMap.wf floorResetVal s.fregs = true →
      ∃ t : State, exec i s = .next t ∧ t.dev.mainPg = false ∧ t.dev.mainOn = false ∧ t.dev.mainGone = true ∧ t.dev.ready = false ∧
        t.dev.hbmLost = true ∧ t.mem = { host := s.mem.host, hostPoison := s.mem.hostPoison } ∧ t.cells = Vector.replicate 256 {} ∧ t.hs.link = .down ∧
        bitB (t.freg FR.PWR_STATUS) 5 = true ∧ t.alm.seq = s.alm.seq + 1 ∧ t.dev.fw.otp = s.dev.fw.otp
    let up (s : State) : State := { s with dev := { s.dev with held := false } }
    lost .mainPgFall ∧ lost .vin48Low ∧
    (s.dev.stbyPg = true → ∃ t : State, exec .stbyPgFall s = .next t ∧ t = s.off ∧ t.dev.stbyPg = false ∧ t.dev.fw.otp = s.dev.fw.otp ∧
      t.dev.fw.flash = s.dev.fw.breakOff.flash ∧ (s.dev.fw.writing = none → t.dev.fw.flash = s.dev.fw.flash) ∧ t.fregs = [] ∧ t.cells = Vector.replicate 256 {} ∧ t.timeUs = 0) ∧
    (s.dev.stbyPg = false → s.dev.fw.otp.lc ≠ 4 → s.dev.fw.otp.floors.1 = 0 →
      ∃ t : State, exec .stbyPgRise s = .next t ∧ t.dev.stbyPg = true ∧ t.dev.mainOn = false ∧ t.cells = Vector.replicate 256 {} ∧
        t.fl = { wire := s.fl.wire } ∧ t.dev.fw.otp.lc = s.dev.fw.otp.lc ∧ (t.dev.fw.running ≠ none → t.dev.step = some 3)) ∧
    (s.dev.stbyPg = true → s.dev.mainPg = false → s.mayBoot = true → s.dev.held = false → s.dev.rstLow = false →
      s.dev.perstLow = false → s.dev.mainGone = false →
      good (.mainPgRise bs) (up { s with dev := { s.dev with mainPg := true, readyOnce := false, mainGone := false } })) ∧
    (s.dev.rstLow = true → s.dev.perstLow = false → s.dev.held = true → s.dev.fw.otp.lc ≠ 4 → s.dev.mainPg = true →
      good (.devRstRelease bs) (up { s with dev := { s.dev with rstLow := false } })) ∧
    (s.dev.perstLow = true → s.dev.rstLow = false → s.dev.held = true → s.dev.cxlWait = false → s.dev.fw.otp.lc ≠ 4 →
      s.dev.mainPg = true → good (.cxlPerstRelease bs) (up { s with dev := { s.dev with perstLow := false } })) ∧
    (s.dev.perstLow = false → s.dev.readyOnce = false →
      ∃ t : State, exec .cxlPerstAssert s = .next t ∧ t.hs.link = .down ∧
        t = { s with dev := { s.dev with perstLow := true, cxlWait := s.dev.cxlWait || s.hs.link != .down }
                     hs := { s.hs with link := .down } }) ∧
    (s.dev.perstLow = true → s.dev.held = false → s.dev.cxlWait = true →
      ∃ t : State, exec (.cxlPerstRelease bs) s = .next t ∧
        t = { s with dev := { s.dev with perstLow := false, cxlWait := false }
                     hs := { s.hs with link := Sys2Proof.Machine.LinkIn.link (bs.headD {}).link } }) ∧
    (s.dev.step = some n → 6 ≤ n → n ≤ 10 → s.dev.mainOn = true → s.dev.fw.asTry = false →
      bitB (s.freg FR.SYS_BOOT_ERR) 31 = false → SMap.wf floorResetVal s.fregs = true →
      ∃ t : State, exec (.bringupStepTimeout bs) s = .next t ∧ t.dev.mainOn = false ∧
        t.freg FR.SYS_BOOT_ERR = 2 ^ 31 + n * 65536 + bits (s.freg FR.SYS_BOOT_STATUS) 15 8 * 256 + 0x0B ∧ t.freg FR.SYS_BOOT_STATUS = 0xFF)

/-- R440, R447 to R452, R455, R458 to R461: an interval of the power controller, in every state of the device. The sensors
are read; a reading of 115 °C on the die, or 105 °C of a stack, trips, and the main domain loses its power. Otherwise the
limit, the estimate and the controlled quantity are formed, the cap loop takes one step of its table, the hottest sensor
may throttle, and once the device is ready the frequency is the least of the four that R455 names, or REFCLK while the
compute PLL has not locked. A measurement is shown, its energy counted with what VSTBY has given, which is a free value,
and compared with the mean estimate of its window: the eighth in a row that does not agree puts the controller into
ESTIMATE_SUSPECT, the sixty-fourth that agrees takes it out, and one that comes in that state refits the weights of the
terms 2 to 15, the first time shown in PWR_STATUS. With 8 windows missed the estimate is used alone, which is recorded. -/
def Obligations.PowerControl : Prop :=
  (∀ (s : State) (i : IntervalIn),
     let read : State := State.putTherm ((State.putTemps { s with timeUs := s.timeUs + 2 } FR.PWR_TEMP 64 i.temps).putTemps
       FR.PWR_HBM_TEMP 20 i.hbmTemps)
     let r := if 25 ≤ s.pw.winN then read.closeWindow else read
     let e := (r.estimate (if s.dev.mainOn then i.acts else [])).1
     let p := r.controlled e
     let limit := min (min (s.freg FR.PWR_CAP_W) (s.freg FR.PWR_HOST_CAP_W)) (s.freg FR.PWR_ENV_W)
     let l := s.pw.level
     let f := s.pw.fCap
     let h := s.pw.halvings
     let k := s.pw.floorClk
     let step : Nat × Nat × Nat × Nat :=
       if (limit : Rat) < p then
         if l = 0 then (if 25 < f then (0, max 25 (f - 100), h, k) else (1, f, h, k))
         else if l = 1 then (if h < 4 then (1, f, h + 1, k) else (2, f, h, k))
         else (l, f, h, max 500 (k - 250))
       else if p ≤ 95 / 100 * (limit : Rat) then
         if l = 0 then (0, min 2500 (f + 25), h, k)
         else if l = 1 then (if 0 < h then (1, f, h - 1, k) else (0, f, h, k))
         else (if k < 2000 then (l, f, h, min 2000 (k + 250)) else (1, f, h, k))
       else (l, f, h, k)
     s.dev.stbyPg = true → SMap.wf floorResetVal s.fregs = true →
     ((s.dev.trip = true ∨ r.tripCause = none) → l ≤ 2 → s.fl.loop = [] → (∀ e ∈ s.fl.ctx, e.2.waiting = false) →
       s.dev.floorBring = none → s.dev.fw.writing = none → s.hv.poisonOwed = false → (∀ a ∈ [FR.PWR_CAP_W, FR.PWR_HOST_CAP_W, FR.PWR_ENV_W], s.freg a < 2 ^ 32) →
       ∃ t : State, exec (.powerInterval i) s = .next t ∧ t.timeUs = s.timeUs + 2 ∧ t.freg FR.PWR_LIMIT_W = limit ∧
         t.pw.est = e ∧ t.pw.ctl = p ∧ (t.pw.level, t.pw.fCap, t.pw.halvings, t.pw.floorClk) = step ∧
         bits (t.freg FR.PWR_STATUS) 11 10 = t.pw.level ∧
         t.freg FR.PWR_PHASE = mostHeld (s.phaseIds true) * 65536 + mostHeld (s.phaseIds false) ∧
         (∀ j, r.hottest r.sensors = some j → 16 * (bits (s.freg FR.PWR_THERM_CFG) 7 0 : Int) ≤ r.tempOf j →
           t.pw.fTherm = max 25 (s.pw.fTherm - 100) ∧ bitB (t.freg FR.PWR_STATUS) 8 = true) ∧
         t.pw.want = (if !s.dev.ready || !s.dev.mainOn then s.pw.want
           else if s.pllAt ≠ some 0 then 100
           else min (min (t.phaseTarget (bits (t.freg FR.PWR_PHASE) 15 0)) t.pw.fCap) (min t.pw.fTherm t.fmax)) ∧
         (∀ c, t.cell c = { s.cell c with regs := (t.cell c).regs }) ∧
         (∀ c o, o ≠ CR.SX_STALL_PWR_CNT → (t.cell c).reg o = (s.cell c).reg o) ∧
         t = { s with cells := t.cells, fregs := t.fregs, pw := t.pw, ce := t.ce, free := t.free, timeUs := t.timeUs }) ∧
     (s.dev.trip = false → ((∃ j x, j < 64 ∧ i.temps[j]? = some x ∧ 1840 ≤ x ∧ x < 2 ^ 15 ∧ NSet.has s.pw.excluded j = false) ∨
       (∃ j x, j < 20 ∧ i.hbmTemps[j]? = some x ∧ 1680 ≤ x ∧ x < 2 ^ 15)) →
       ∃ t : State, exec (.powerInterval i) s = .next t ∧ t.dev.trip = true ∧ t.dev.mainOn = false ∧ t.dev.ready = false ∧
         t.mem.hbm = [] ∧ t.cells = Vector.replicate 256 {} ∧ bitB (t.freg FR.PWR_STATUS) 6 = true ∧ t.isReady = false ∧
         (s.dev.jtag.ir ≠ 0 → s.dev.jtag.ir ≠ 4 → s.dev.jtag.ir ≠ 5 → t.devReady = some false ∧ t.thermtripN = some false) ∧
         t.alm.seq = s.alm.seq + 1)) ∧
  (∀ (s : State) (watts uj : Nat),
     let e : Rat := s.pw.winSum / (s.pw.winN : Rat)
     let a1 : Rat := s.pw.winA1 / (s.pw.winN : Rat)
     let st := s.freg FR.PWR_STATUS
     let suspect := bitB st 2
     let d : Rat := if e ≤ (watts : Rat) then (watts : Rat) - e else e - (watts : Rat)
     let agrees : Prop := d ≤ 12 / 100 * ((s.freg FR.PWR_LIMIT_W : Nat) : Rat)
     let w (j : Nat) : Rat := s.pw.weights.getD j 0
     let ed : Rat := e - 106 / 100 * (w 0 + w 1 * a1) / 1000
     SMap.wf floorResetVal s.fregs = true →
     (s.dev.stbyPg = true → 0 < s.pw.winN → watts < 2 ^ 16 →
       ∃ t : State, exec (.powerMeasurement watts uj) s = .next t ∧ t.freg FR.PWR_MEAS_W = watts ∧
         t.freg FR.ENERGY_UJ = (s.freg FR.ENERGY_UJ + (uj + Config.vstbyEnergy s.free)) % 2 ^ 64 ∧ bitB (t.freg FR.PWR_STATUS) 4 = false ∧
         t.pw.winN = 0 ∧ t.pw.missed = 0 ∧ t.pw.meas = some (watts, e) ∧
         (agrees → t.pw.agree = s.pw.agree + 1 ∧ t.pw.disagree = 0 ∧ t.alm.seq = s.alm.seq ∧
           (64 ≤ s.pw.agree + 1 → bitB (t.freg FR.PWR_STATUS) 2 = false) ∧
           (s.pw.agree + 1 < 64 → bitB (t.freg FR.PWR_STATUS) 2 = suspect)) ∧
         (¬ agrees → t.pw.agree = 0 ∧ t.pw.disagree = s.pw.disagree + 1 ∧
           bitB (t.freg FR.PWR_STATUS) 2 = (suspect || decide (8 ≤ s.pw.disagree + 1)) ∧
           (suspect = false → 8 ≤ s.pw.disagree + 1 → t.alm.seq = s.alm.seq + 1 ∧
             t.freg FR.PWR_SUSPECT_CNT = (s.freg FR.PWR_SUSPECT_CNT + 1) % 2 ^ 64)) ∧
         (suspect = false → t.pw.weights = s.pw.weights) ∧
         (suspect = true → t.pw.refitted = true ∧
           bitB (t.freg FR.PWR_STATUS) 3 = (bitB st 3 || !s.pw.refitted)) ∧
         (suspect = true → ed ≠ 0 →
           ∀ j < 16, t.pw.weights.getD j 0 = if j < 2 then w j
             else max ((Config.fusedWeight j : Rat) / 4) (min (4 * (Config.fusedWeight j : Rat))
               (w j * (1 + ((watts : Rat) - e) / (8 * ed))))) ∧
         t = { s with fregs := t.fregs, pw := t.pw, alm := t.alm, free := t.free }) ∧
     (8 ≤ s.pw.missed → bitB st 4 = false →
       ∃ t : State, exec .measurementLost s = .next t ∧ bitB (t.freg FR.PWR_STATUS) 4 = true ∧ t.alm.seq = s.alm.seq + 1 ∧
         t = { s with fregs := t.fregs, alm := t.alm }))

/-- R441, R446, R457, R463, R479: A raised voltage that is reached lets the frequency step up; a droop trip stretches
the clock of its cell until it ends, which counts 16 cycles and a free value more; a sensor that the cross-check finds is excluded,
and what it finds is recorded; a resting cell whose sensor has moved 20 °C is calibrated; a retraining of HBM is timing
alone; pht_clr empties the phase table. PWR_HBM_SR puts the idle stacks that it names into self-refresh at once, and the
others once they are idle; a stack may enter it after hbm_idle µs too. A stack whose exit is done is in self-refresh no
more, which is counted. -/
def Obligations.ClocksDroopAndSelfRefresh : Prop :=
  (∀ (s : State) (c : CellId) (o : Origin),
     let x := s.cell c
     SMap.wf floorResetVal s.fregs = true →
     (∀ v, s.pw.ramp = some v →
       ∃ t : State, exec .voltageRampDone s = .next t ∧
         t = { s with pw := { s.pw with vFor := v, ramp := none, f := if s.pw.want ≤ v then s.pw.want else s.pw.f }
                      fregs := t.fregs } ∧
         t.freg FR.PWR_POINT = (Config.voltage v % 65536 * 65536 + t.pw.f) % 2 ^ 64) ∧
     (s.dev.mainOn = true → x.cp.stretched = false →
       ∃ t : State, exec (.droopTrip c) s = .next t ∧
         t = s.setCell c { x.count CR.CP_DROOP_CNT with cp := { x.cp with stretched := true } }) ∧
     (x.cp.stretched = true →
       ∃ t : State, exec (.droopEnd c) s = .next t ∧
         t = (s.setCell c { x.count CR.CP_STRETCH_CNT (16 + Config.stallCycles s.free) with cp := { x.cp with stretched := false } }).draw) ∧
     (∀ rails sensors, s.dev.mainOn = true →
       ∃ t : State, exec (.railCheck rails sensors) s = .next t ∧
         t.alm.seq = s.alm.seq + rails.length + sensors.length ∧
         (∀ k, NSet.has t.pw.excluded k = (NSet.has s.pw.excluded k || sensors.any (fun q => q.1 == k))) ∧
         t = { s with pw := { s.pw with excluded := t.pw.excluded }, fregs := t.fregs, alm := t.alm }) ∧
     (s.dev.mainOn = true → (x.cp.st = .doze ∨ x.cp.st = .asleep) →
       320 ≤ (s.tempOf (2 * (c.val / 16) + c.val % 16 / 8) - x.cp.calTemp).natAbs →
       ∃ t : State, exec (.droopRecalibrate c) s = .next t ∧
         t = s.setCell c { x with cp := { x.cp with calTemp := s.tempOf (2 * (c.val / 16) + c.val % 16 / 8) } }) ∧
     (∀ k : Fin 20, ∃ t : State, exec (.hbmRetrain k) s = .next t ∧ t = s) ∧
     (Reaches o s FR.PWR_CTRL →
       ∃ t : State, exec (.pwrPhtClr o) s = .next t ∧ t = { s with pw := { s.pw with pht := [] }, fregs := t.fregs } ∧
         (∀ a, a ≠ FR.PWR_CTRL → t.freg a = s.freg a) ∧
         bits (t.freg FR.PWR_CTRL) 14 8 = bits (s.freg FR.PWR_CTRL) 14 8 ∧
         bitB (t.freg FR.PWR_CTRL) 3 = bitB (s.freg FR.PWR_CTRL) 3)) ∧
  (∀ (s : State) (o : Origin) (v : Half) (i : Fin 20),
     (Still s → Reaches o s FR.PWR_HBM_SR → (∀ k < 20, v.getLsbD k = true → s.pw.srExit.contains (stackNo k) = false) →
       ∃ t : State, exec (.pwrHbmSr o v) s = .next t ∧
         (∀ k < 20, t.stackSr k = (s.stackSr k || (v.getLsbD k && s.stackIdle k))) ∧
         (∀ k < 20, v.getLsbD k = true → s.stackSr k = false → s.stackIdle k = false → stackNo k ∈ t.pw.srWant) ∧
         (t.pw.pll = s.pw.pll ∨ t.pw.pll = none) ∧
         t = { s with pw := { s.pw with sr := t.pw.sr, srWant := t.pw.srWant, pll := t.pw.pll } }) ∧
     (s.dev.mainOn = true → s.stackSr i.val = false → s.stackIdle i.val = true →
       (i ∈ s.pw.srWant ∨ bits (s.freg FR.PWR_WAKE_CFG) 31 16 ≠ 0) →
       ∃ t : State, exec (.hbmIdleSelfRefresh i) s = .next t ∧ (∀ k < 20, t.stackSr k = (s.stackSr k || k == i.val)) ∧
         (t.pw.pll = s.pw.pll ∨ t.pw.pll = none) ∧
         t = { s with pw := { s.pw with sr := t.pw.sr, srWant := s.pw.srWant.filter (fun k => k != i), pll := t.pw.pll } }) ∧
     (i ∈ s.pw.srExit → s.dev.floorBring = none → Still s → SMap.wf floorResetVal s.fregs = true →
       ∃ t : State, exec (.hbmSrExitDone i) s = .next t ∧ (∀ k < 20, t.stackSr k = (s.stackSr k && k != i.val)) ∧
         t.freg FR.PWR_HBM_SR_EXIT_CNT = (s.freg FR.PWR_HBM_SR_EXIT_CNT + 1) % 2 ^ 64 ∧
         t = { s with pw := { s.pw with sr := t.pw.sr, srExit := s.pw.srExit.filter (fun k => k != i) }, fregs := t.fregs }))

/-- R440, R442 to R444: A quiet cell enters DOZE and leaves it once its sequencer can go on; CP_CTRL.sleep puts a halted
and idle cell to sleep, where without retention its scalar and descriptor registers read zero; PWR_WAKE admits as many of
the cells it names as the limit leaves and queues the others in ascending order, each counted once; while the compute PLL
is stopped it starts the PLL, which locks within 15 µs, and queues them all; an admission interval takes from the queue in
order once the PLL has locked; a cell whose wake is done is AWAKE and halted, or starts if a start woke it. -/
def Obligations.CellPowerStates : Prop :=
  ∀ (s : State) (c : CellId) (o : Origin),
    let x := s.cell c
    (x.dozeReady = true →
      ∃ t : State, exec (.dozeEntry c) s = .next t ∧ t = s.setCell c { x with cp := { x.cp with st := .doze } }) ∧
    ((x.cp.st ≠ .doze ∨ x.yieldPoint = true) → ∃ t : State, exec (.dozeWake c) s = .next t ∧ t = s) ∧
    (x.cp.st = .doze → x.mode = .running → x.yieldPoint = false →
      ∃ t : State, exec (.dozeWake c) s = .next t ∧ t = (s.endDoze c).pump c) ∧
    (x.cp.st = .doze → x.mode = .running → x.window = [] →
      ∃ t : State, exec (.dozeWake c) s = .next t ∧ (t.cell c).cp.st = .awake ∧
        t = { s.setCell c { x with cp := { x.cp with st := .awake }, regs := (t.cell c).regs } with free := t.free } ∧
        ∀ p, p ≠ CR.CP_DOZE_CNT → (t.cell c).reg p = x.reg p) ∧
    (Still s → Reaches o s (0x30000000000 + 0x10000 * c.val + CR.CP_CTRL) → o ≠ .ownCell → x.mode ≠ .running →
      x.idle = true → x.cp.st = .awake → SMap.wf cellResetVal x.regs = true →
      ∃ t : State, exec (.cpSleep o c) s = .next t ∧ (t.cell c).cp.st = .asleep ∧ (t.cell c).acc = [] ∧
        (bitB (x.reg CR.CP_CTRL) 2 = true → (t.cell c).cp.retained = true ∧ (t.cell c).oc = x.oc ∧ (t.cell c).im = x.im ∧
          (t.cell c).s = x.s ∧ (t.cell c).d = x.d) ∧
        (bitB (x.reg CR.CP_CTRL) 2 = false → (t.cell c).cp.retained = false ∧ (∀ r, (t.cell c).rdS r = 0) ∧
          ∀ r, (t.cell c).rdD r = 0) ∧
        (∀ p, p ≠ CR.CP_CTRL → (t.cell c).reg p = x.reg p) ∧ (t.cell c).sems = x.sems ∧ (t.cell c).qs = x.qs ∧
        (∀ d, d ≠ c → t.cell d = s.cell d) ∧ (t.pw.pll = s.pw.pll ∨ t.pw.pll = none) ∧
        t = { s with cells := t.cells, free := t.free, pw := { s.pw with pll := t.pw.pll } }) ∧
    (∀ (k : Fin 4) (v : Word),
      let named := ((List.range 64).filter (fun n => v.getLsbD n)).map (fun n => cellNo (64 * k.val + n))
      let room := bits (s.freg FR.PWR_WAKE_CFG) 5 0 - s.pw.cellN
      Still s → Reaches o s (FR.PWR_WAKE k.val) → s.pw.cellQ = [] →
      (∀ d ∈ named, (s.cell d).cp.st = .asleep ∧ (s.cell d).cp.admitWait = false) →
      SMap.wf floorResetVal s.fregs = true →
      (s.pllAt = some 0 → ∃ t : State, exec (.pwrWake o k v) s = .next t ∧
        t.pw = { s.pw with cellN := s.pw.cellN + min room named.length, cellQ := named.drop room } ∧
        t.freg FR.PWR_WAKE_DEFER_CNT = (s.freg FR.PWR_WAKE_DEFER_CNT + (named.length - room)) % 2 ^ 64 ∧
        (∀ d, t.cell d = { s.cell d with cp := { (s.cell d).cp with
          st := if d ∈ named.take room then .waking else (s.cell d).cp.st
          admitWait := if d ∈ named.drop room then true else (s.cell d).cp.admitWait } }) ∧
        t = { s with cells := t.cells, pw := t.pw, fregs := t.fregs }) ∧
      (s.pllAt ≠ some 0 → named ≠ [] → ∃ (t : State) (us : Nat), exec (.pwrWake o k v) s = .next t ∧
        (s.pllAt = none → 1 ≤ us ∧ us ≤ 15) ∧ (∀ n, s.pllAt = some n → us = n) ∧
        t.pw = { s.pw with cellQ := named, pll := some us } ∧
        t.freg FR.PWR_WAKE_DEFER_CNT = (s.freg FR.PWR_WAKE_DEFER_CNT + named.length) % 2 ^ 64 ∧
        (∀ d, t.cell d = { s.cell d with cp := { (s.cell d).cp with
          admitWait := if d ∈ named then true else (s.cell d).cp.admitWait } }) ∧
        t = { s with cells := t.cells, pw := t.pw, fregs := t.fregs, free := t.free })) ∧
    (let n := bits (s.freg FR.PWR_WAKE_CFG) 5 0
     let m := bits (s.freg FR.PWR_WAKE_CFG) 15 12
     let pll := s.pllAt.map (fun us => us - 1)
     let taken := if pll = some 0 then s.pw.cellQ.take n else []
     ∃ t : State, exec .wakeAdmission s = .next t ∧
       t.pw = { s.pw with
         cellQ := s.pw.cellQ.drop taken.length, hbmQ := s.pw.hbmQ.drop m, cellN := taken.length, pll := pll
         hbmN := min m s.pw.hbmQ.length, srExit := s.pw.srExit ++ s.pw.hbmQ.take m } ∧
       (∀ d, t.cell d = if d ∈ taken then
         { s.cell d with cp := { (s.cell d).cp with st := .waking, admitWait := false } } else s.cell d) ∧
       t = { s with cells := t.cells, pw := t.pw }) ∧
    (x.cp.st = .waking → x.cp.held = [] → x.cp.goal.reset = false → Still s → SMap.wf cellResetVal x.regs = true →
      ∃ t : State, exec (.cellWakeDone c) s = .next t ∧ (t.cell c).cp.st = .awake ∧ (∀ d, d ≠ c → t.cell d = s.cell d) ∧
        (t.cell c).reg CR.CP_WAKE_CNT = (x.reg CR.CP_WAKE_CNT + 1) % 2 ^ 64 ∧
        (x.cp.goal.start = false → (t.cell c).mode = x.mode) ∧
        (x.cp.goal.start = true → s.fatal = false → (t.cell c).mode = .running ∧ (t.cell c).npc = x.npc) ∧
        (t.cell c).oc = x.oc ∧ (t.cell c).s = x.s ∧ t = { s with cells := t.cells })

/-- R182, R402, R479, R496 to R499, R502: A fatal error, or a lost PLL lock, halts every cell, aborts every Parade
instance with LOCAL_FAULT and drops those that wait to start, sets RST_STATUS.fatal and writes its record of class 4 into
the buffer and the severe store; data in the main domain are undefined from then on, and the rest of it is as it was. The AER
message goes out while the link is up. ALM_SEV_CLR empties the severe store. While ALM_CTRL.ring_en is 1 and the
ring has room, the oldest record not yet copied goes to the ring at ALM_RING_TAIL, as 64 bytes whose CRC-32C with its
own field zero is at byte 12, and the tail moves on by one record. -/
def Obligations.FatalErrorsAndTheAlmanacRing : Prop :=
  (∀ (s : State) (source cause : Nat) (o : Origin),
     (s.dev.mainOn = true → SMap.wf floorResetVal s.fregs = true →
       ∀ q ∈ [(Instr.fatalError source cause, source % 65536, cause % 2 ^ 64),
           (Instr.pllLockLoss, Config.pllFatal.1, Config.pllFatal.2)],
         ∃ t : State, exec q.1 s = .next t ∧ (∀ c, (t.cell c).mode ≠ .running) ∧
           t.fatal = true ∧
           ((∀ k, s.inst k = none) → (∀ c e, (s.cell c).head = some e → e.granted = none ∨ e.ins.op.long = false) →
             (∀ c, (s.cell c).mode ≠ .running → t.cell c = { s.cell c with
               s := (t.cell c).s, d := (t.cell c).d, oc := (t.cell c).oc, ocPoison := (t.cell c).ocPoison
               ocEpoch := (t.cell c).ocEpoch, im := (t.cell c).im, imBad := (t.cell c).imBad
               imEpoch := (t.cell c).imEpoch, acc := (t.cell c).acc, accEpoch := (t.cell c).accEpoch }) ∧
             t.alm.seq = s.alm.seq + 1 ∧
             (s.alm.severe.length < 64 → ∃ r : AlmRec, t.alm.severe = s.alm.severe ++ [r] ∧
               (s.alm.seq % 1024, r) ∈ t.alm.buf ∧ r.seq = s.alm.seq ∧ r.code = 0x0A02 ∧
               r.cls = 4 ∧ r.index = q.2.1 % 65536 ∧ r.info0 = q.2.2 ∧ r.time = s.timeUs) ∧
             (s.hs.link = .cxl → t.hs.aer = s.hs.aer + 1) ∧
             t.ce = { s.ce with waitQ := [], mine := none } ∧
             t.mem = { s.mem with hbm := [], hbmPoison := [], tagSyn := [], hbmEpoch := t.mem.hbmEpoch
                                  lines := t.mem.lines } ∧
             ∀ la, t.line la = { s.line la with data := (t.line la).data, poison := (t.line la).poison }) ∧
           (∀ k i, (∀ j, j ≠ k → s.inst j = none) → s.inst k = some i → i.ended = none → 0 < i.n → i.harvest = false →
             t.inst k = none ∨ ∃ i', t.inst k = some i' ∧ i'.ended = some (3, i.me))) ∧
     (Reaches o s FR.ALM_SEV_CLR → Still s →
       ∃ t : State, exec (.almSevClr o) s = .next t ∧ t = { s with alm := { s.alm with severe := [] } })) ∧
  (∀ (s : State) (r : AlmRec) (k : Nat),
     let size := 2 ^ (bits (s.freg FR.ALM_CTRL) 7 4 + 10)
     let tail := s.freg FR.ALM_RING_TAIL % size
     let a := s.freg FR.ALM_RING_BASE + 64 * tail
     s.dev.mainOn = true → bitB (s.freg FR.ALM_CTRL) 0 = true →
     (s.freg FR.ALM_RING_TAIL + 1) % size ≠ s.freg FR.ALM_RING_HEAD % size →
     (k, r) ∈ s.alm.buf → s.alm.copied ≤ r.seq → (∀ e ∈ s.alm.buf, s.alm.copied ≤ e.2.seq → r.seq ≤ e.2.seq) →
     (∀ e ∈ s.alm.buf, e.2.seq = r.seq → e.2 = r) → a % 64 = 0 → a + 64 ≤ hbmTop →
     Memory.wf s.mem = true →
     s.stackSr (s.stackOf a) = false → s.absent (a / 256) = true → s.mustPost a 64 = false →
     SMap.wf floorResetVal s.fregs = true →
       ∃ t : State, exec .almanacRingCopy s = .next t ∧ t.latest a 64 = AlmRec.bytes r ∧ t.alm.copied = r.seq + 1 ∧
         t.freg FR.ALM_RING_TAIL = (s.freg FR.ALM_RING_TAIL + 1) % size ∧
         (∀ b, (b < a ∨ a + 64 ≤ b) → SMap.get t.mem.hbmDef t.mem.hbm b = SMap.get s.mem.hbmDef s.mem.hbm b) ∧
         (AlmRec.bytes r).length = 64 ∧
         leNat (((AlmRec.bytes r).drop 12).take 4) =
           crc32c ((AlmRec.bytes r).take 12 ++ leBytes 4 0 ++ (AlmRec.bytes r).drop 16) ∧
         t = { s with alm := { s.alm with copied := r.seq + 1 }, fregs := t.fregs, mem := t.mem })

/-- R10 to R12, R15, R413, R417, R447, R483, R487: what a write does to a register. A plain floor or management register
takes the bits that its masks let through, as far as its range allows; a cap outside 800 to 2,500 W leaves its register
as it is; a write that is unaligned, or to a reserved offset, changes nothing, unless the fence counts it: a service core's
write to the system block is dropped and counted. The host commits the base of the HDM
decoder, which is a multiple of 256 MiB, only while the port runs CXL.mem. The endpoint's commands that read or set:
GET_STATUS and READ_REG answer also in END, and return what the registers read; the security block and a register
without power are refused, and a bad address or width is a bad argument. SET_CAP writes PWR_CAP_W within its range. -/
def Obligations.RegistersAndManagementQueries : Prop :=
  (∀ (s : State) (o : Origin) (pa : Nat) (v : Word) (r : RegInfo),
     let write (width : Nat) : Instr := .registerWrite o (.reg pa) width v
     (Reaches o s pa → inRegs pa = true → inCells pa = false → floorReg pa = some r → r.kind = .plain → r.width = 32 →
       pa % 4 = 0 → ¬ (0x30001100000 ≤ pa ∧ pa < 0x30001200000 ∧ pa % 0x1000 = 0) →
       ¬ (FR.HI_Q_SQ_BASE 0 ≤ pa ∧ pa < FR.HI_Q_SQ_BASE 64 ∧ (pa - FR.HI_Q_SQ_BASE 0) % 32 = 16) → pa ≠ FR.HBM_ILV_CFG →
       (∀ n, s.ranged pa (s.freg pa) n = n) → (∀ (u : State) (m n : Nat), u.afterWrite pa m n = u) →
       pa ≠ FR.PWR_CTRL → SMap.wf floorResetVal s.fregs = true →
       ∃ t : State, exec (write 4) s = .next t ∧ (∀ a, a ≠ pa → t.freg a = s.freg a) ∧ t = { s with fregs := t.fregs } ∧
         (∀ b < 32, bitB r.w1c b = false → bitB r.w1s b = false →
           bitB (t.freg pa) b = if bitB r.rw b then v.getLsbD b else bitB (s.freg pa) b) ∧
         (∀ b < 32, bitB r.w1c b = true → bitB r.rw b = false → bitB r.w1s b = false →
           bitB (t.freg pa) b = (bitB (s.freg pa) b && !v.getLsbD b))) ∧
     ((o = .host ∨ o = .root ∨ o = .debug) → Reaches o s FR.PWR_HOST_CAP_W →
       s.freg FR.PWR_HOST_CAP_W < 2 ^ 12 → SMap.wf floorResetVal s.fregs = true →
       ∃ t : State, exec (.registerWrite o (.reg FR.PWR_HOST_CAP_W) 4 v) s = .next t ∧ t = { s with fregs := t.fregs } ∧
         t.freg FR.PWR_HOST_CAP_W =
           (let w := v.toNat % 2 ^ 12; if 800 ≤ w ∧ w ≤ 2500 then w else s.freg FR.PWR_HOST_CAP_W) ∧
         ∀ a, a ≠ FR.PWR_HOST_CAP_W → t.freg a = s.freg a) ∧
     (∀ width, pa % 4 ≠ 0 → (∀ k, o = .service k → inSecurity pa = false ∧ inSystem pa = false) →
       ∃ t : State, exec (write width) s = .next t ∧ t = s) ∧
     (∀ k width, o = .service k → s.reachReg o pa = true → inSystem pa = true →
       SMap.wf floorResetVal s.fregs = true →
       ∃ t : State, exec (write width) s = .next t ∧
         t.freg FR.SYS_FENCE_VIOL_CNT = (s.freg FR.SYS_FENCE_VIOL_CNT + 1) % 2 ^ 64 ∧ t = s.violation k.val pa) ∧
     (inCells pa = false → inSecurity pa = false → (∀ k, o = .service k → inSystem pa = false) → pa % 8 = 0 → regWidth pa = 0 → regWidth (pa + 4) = 0 →
       ∃ t : State, exec (write 8) s = .next t ∧ t = s) ∧
     (∀ b, s.hs.link = .cxl → b % 0x10000000 = 0 →
       ∃ t : State, exec (.registerWrite .host (.hdm (some b)) 8 v) s = .next t ∧
         t = { s with hs := { s.hs with hdm := some b } }) ∧
     (∀ b, s.hs.link ≠ .cxl →
       ∃ t : State, exec (.registerWrite .host (.hdm b) 8 v) s = .next t ∧ t = s)) ∧
  (∀ (s : State) (pa width watts : Nat),
     let answers (u : State) (status : Nat) (bytes : List Byte) : State :=
       { u with hs := { u.hs with reply := .i3c status bytes } }
     s.dev.stbyPg = true →
     (∃ t : State, exec .getStatus s = .next t ∧
       t = answers s 0 ((List.range 28).flatMap (fun k => leBytes 4 (s.readReg (0x30010000000 + 4 * k) 4)))) ∧
     ((width = 4 ∨ width = 8) → pa % width = 0 → 0x30010000000 ≤ pa → pa < 0x30020000000 →
       ∃ t : State, exec (.readReg pa width) s = .next t ∧
         t = if inSecurity pa || !(vigilReg pa || s.dev.mainOn) then answers s 1 []
           else answers s 0 (leBytes width (s.readReg pa width))) ∧
     (((width ≠ 4 ∧ width ≠ 8) ∨ pa % width ≠ 0 ∨ pa < 0x30010000000 ∨ 0x30020000000 ≤ pa) →
       ∃ t : State, exec (.readReg pa width) s = .next t ∧ t = answers s 3 []) ∧
     (s.dev.fw.otp.lc ≠ 4 → s.freg FR.PWR_CAP_W < 2 ^ 12 → SMap.wf floorResetVal s.fregs = true →
       ∃ t : State, exec (.setCap watts) s = .next t ∧
         (800 ≤ watts → watts ≤ 2500 → t.freg FR.PWR_CAP_W = watts ∧ t.hs.reply = .i3c 0 [] ∧
           (∀ a, a ≠ FR.PWR_CAP_W → t.freg a = s.freg a) ∧ t = answers { s with fregs := t.fregs } 0 []) ∧
         ((watts < 800 ∨ 2500 < watts) → t = answers s 3 [])))

/-- R477, R478, R483 to R486: one staging is open at a time; data is buffered where it fits, or read from HBM unless a
stack sleeps there or the host holds a part of it modified; FW_STAGE_END verifies the whole image, closes the staging, and only
then writes it to the place that does not run: the write ends with an interval of the Vigil oscillator, and until then the
commands find root firmware busy. FW_ACTIVATE asks for three tries of the slot that does not run, FW_CONFIRM makes the running try
image the active one, FW_COMMIT_SVN raises the floor of a type to the version of the image that runs and never lowers
it, and FW_PATCH_SELECT blows the next bit of the patch-slot thermometer and resets. -/
def Obligations.FirmwareUpdates : Prop :=
  (∀ (s : State) (ty len off : Nat) (bytes : List Byte) (g : Staging),
     let w := s.dev.fw
     let answers (f : FwState) (status : Nat) : State :=
       { s with dev := { s.dev with fw := f }, hs := { s.hs with reply := .i3c status [] } }
     let img := (List.range g.len).map (fun k => SMap.get ffByte g.data k)
     s.dev.stbyPg = true → w.otp.lc ≠ 4 →
     (w.writing ≠ none → ∀ i ∈ [Instr.fwStageBegin ty len, .fwStageData off bytes, .fwStageHbm off len, .fwStageEnd,
       .fwActivate false [], .fwConfirm, .fwCommitSvn ty, .fwPatchSelect ty []], ∃ t : State, exec i s = .next t ∧ t = answers w 2) ∧
     (∀ (kind : Nat) (x : List Byte) (i : IntervalIn), w.writing = some (kind, x) →
       (s.dev.mainOn = true → s.fl.loop = [] ∧ ∀ e ∈ s.fl.ctx, e.2.waiting = false) → s.dev.floorBring = none →
       s.hv.poisonOwed = false → SMap.wf ffByte w.flash = true →
       let at' := if kind = 1 then (if w.otp.patchBits % 2 = 1 then 0 else 0x20000)
         else if kind = 2 then (if (w.running.getD w.record.active) = true then 0x1000000 else 0x1800000) else 0x50000
       ∃ t : State, exec (.powerInterval i) s = .next t ∧
         t.dev.fw = { w with writing := none, staged := w.staged || kind == 2, flash := t.dev.fw.flash } ∧
         ∀ a, SMap.get ffByte t.dev.fw.flash a = if at' ≤ a ∧ a < at' + x.length then x.getD (a - at') 0
           else SMap.get ffByte w.flash a) ∧
     (w.writing = none →
     (w.stage ≠ none → ∃ t : State, exec (.fwStageBegin ty len) s = .next t ∧ t = answers w 1) ∧
     (w.stage = none → 1 ≤ ty → ty ≤ 3 → 4096 ≤ len → len ≤ 4096 + maxBody ty →
       ∃ t : State, exec (.fwStageBegin ty len) s = .next t ∧ t = answers { w with stage := some { ty, len } } 0) ∧
     (w.stage = some g → bytes.length ≤ 1024 → off + bytes.length ≤ g.len →
       ∃ (t : State) (d : SMap Byte), exec (.fwStageData off bytes) s = .next t ∧
         t = answers { w with stage := some { g with data := d } } 0 ∧
         (SMap.wf ffByte g.data = true →
           ∀ k, SMap.get ffByte d k = if off ≤ k ∧ k < off + bytes.length then bytes.getD (k - off) 0
             else SMap.get ffByte g.data k)) ∧
     (w.stage = some g → bytes.length ≤ 1024 → g.len < off + bytes.length →
       ∃ t : State, exec (.fwStageData off bytes) s = .next t ∧ t = answers w 3) ∧
     (∀ pa, w.stage = some g → s.dev.mainOn = true → pa + len ≤ hbmTop →
       (∀ q ∈ linesOf pa len, s.hostBlocks q.1 false = [] ∧ (s.absent q.1 = true → s.rawAsleep (q.1 * 256) = none)) → (s.latestRange pa len).length ≤ g.len →
       ∃ t : State, exec (.fwStageHbm pa len) s = .next t ∧
         t = answers { w with stage := some { g with data := SMap.setRange ffByte g.data 0 (s.latestRange pa len) } } 0) ∧
     (w.stage = some g → w.otp.verifies g.ty (img.take 4096) (img.drop 4096) = true →
       ∃ t : State, exec .fwStageEnd s = .next t ∧ t = answers { w with stage := none, writing := some (g.ty, img) } 0) ∧
     (w.stage = some g → w.otp.verifies g.ty (img.take 4096) (img.drop 4096) = false →
       ∃ t : State, exec .fwStageEnd s = .next t ∧ t = answers { w with stage := none } 4))) ∧
  (∀ (s : State) (ty : Nat) (bs : List BringIn),
     let w := s.dev.fw
     let told (status : Nat) : State := { s with hs := { s.hs with reply := .i3c status [] } }
     s.dev.stbyPg = true → w.otp.lc ≠ 4 → w.writing = none →
     (∃ (t : State) (f : FwState), exec (.fwActivate false bs) s = .next t ∧
       t = { told 0 with dev := { s.dev with fw := f } } ∧ f = { w with copies := f.copies } ∧
       f.record = { w.record with trySlot := !(w.running.getD w.record.active), tryPending := true, triesLeft := 3
                                  seq := w.record.seq + 1 }) ∧
     (∃ t u : State, exec (.fwActivate true bs) s = .next t ∧ t = u.deviceReset bs false ∧
       exec (.fwActivate false bs) s = .next u) ∧
     (∀ b, w.running = some b → w.asTry = true →
       ∃ (t : State) (f : FwState), exec .fwConfirm s = .next t ∧ t = { told 0 with dev := { s.dev with fw := f } } ∧
         f = { w with copies := f.copies, asTry := false } ∧
         f.record = { w.record with active := b, tryPending := false, triesLeft := 0, seq := w.record.seq + 1 }) ∧
     (w.asTry = false → ∃ t : State, exec .fwConfirm s = .next t ∧ t = told 1) ∧
     (∀ v, 1 ≤ ty → ty ≤ 3 → w.runningSvn ty = some v →
       ∃ t : State, exec (.fwCommitSvn ty) s = .next t ∧ (64 < v → t = told 1) ∧
         (v ≤ 64 → t.dev.fw = { w with otp := { w.otp with floors := t.dev.fw.otp.floors } } ∧
           (∀ k, 1 ≤ k → k ≤ 3 → t.dev.fw.otp.floor k = if k = ty then max (w.otp.floor k) v else w.otp.floor k) ∧
           t = { told 0 with dev := { s.dev with fw := t.dev.fw } })) ∧
     (∀ b : Bool, (b == (w.otp.patchBits % 2 == 1) ∨ 32 ≤ w.otp.patchBits) →
       ∃ t : State, exec (.fwPatchSelect (b2n b) bs) s = .next t ∧ t = told 1) ∧
     (∀ b : Bool, b ≠ (w.otp.patchBits % 2 == 1) → w.otp.patchBits < 32 →
       (w.good 1 (0x20000 * b2n b) = false → ∃ t : State, exec (.fwPatchSelect (b2n b) bs) s = .next t ∧ t = told 4) ∧
       (w.good 1 (0x20000 * b2n b) = true →
         ∃ (t u : State), exec (.fwPatchSelect (b2n b) bs) s = .next t ∧ t = u.deviceReset bs false ∧
           u.dev.fw = { w with otp := { w.otp with patchBits := w.otp.patchBits + 1 }, patch := some b } ∧
           u.hs.reply = .i3c 0 [] ∧ u.mem = s.mem ∧ u.cells = s.cells)))

/-- R487, R488: A token for another chip, or for a transition that does not start here, is refused; one whose signature
verifies moves the lifecycle on through a device reset. LC_END gives a nonce, and within 10 s that nonce takes the
device to END, with its keys erased and FL_CHIP_ID readable still. -/
def Obligations.LifecycleTransitions : Prop :=
  ∀ (s : State) (k : TokenIn) (bs : List BringIn) (n : Nat) (at' : Nat) (v : BitVec 128),
    let w := s.dev.fw
    let told (u : State) (status : Nat) : State := { u with hs := { u.hs with reply := .i3c status [] } }
    let key : Option (List Byte) := if w.otp.lc = 1 ∧ k.target = 2 then some Config.mfgKey
      else if w.otp.lc = 2 ∧ k.target = 3 then some Config.returnKey else none
    let ok (q : List Byte) : Bool :=
      Config.ecdsaOk q (Config.tokenBytes w.otp.lc k.target (s.freg FR.FL_CHIP_ID)) k.signature
    s.dev.stbyPg = true → w.otp.lc ≠ 4 →
    ((k.chip.toNat ≠ s.freg FR.FL_CHIP_ID ∨ key = none) →
      ∃ t : State, exec (.lcTransition k bs) s = .next t ∧ t = told s 3) ∧
    (∀ q, k.chip.toNat = s.freg FR.FL_CHIP_ID → key = some q → ok q = false →
      ∃ t : State, exec (.lcTransition k bs) s = .next t ∧ t = told s 4) ∧
    (∀ q, k.chip.toNat = s.freg FR.FL_CHIP_ID → key = some q → ok q = true →
      ∃ (t u : State), exec (.lcTransition k bs) s = .next t ∧
        t = (u.modFw (fun f => { f with otp := { f.otp with lc := k.target } })).deviceReset
          (if k.target = 3 then bs.tail else bs) false ∧
        u = if k.target = 3 then (told s 0).deviceReset bs true else told s 0) ∧
    (∃ (t : State) (m : Nat), exec .lcEndPhase1 s = .next t ∧ m < 2 ^ 128 ∧
      t = { s with dev := { s.dev with fw := { w with endNonce := some (m, s.timeUs) } }, free := t.free
                   hs := { s.hs with reply := .i3c 0 (leBytes 16 m) } }) ∧
    ((w.endNonce = none ∨ (w.endNonce = some (n, at') ∧ (n ≠ v.toNat ∨ at' + 10000000 < s.timeUs))) →
      ∃ t : State, exec (.lcEndPhase2 v bs) s = .next t ∧ t = told s 1) ∧
    (w.endNonce = some (v.toNat, at') → s.timeUs ≤ at' + 10000000 → s.hotSensor = false → s.dev.held = false →
      s.dev.rstLow = false → s.dev.perstLow = false → bitB (s.freg FR.SYS_BOOT_ERR) 31 = false →
      SMap.wf floorResetVal s.fregs = true →
      ∃ t : State, exec (.lcEndPhase2 v bs) s = .next t ∧ t.dev.fw.otp = { w.otp with lc := 4, erased := true } ∧
        t.dev.mainOn = false ∧ t.dev.ready = false ∧
        t.freg FR.FL_CHIP_ID = s.freg FR.FL_CHIP_ID ∧ t.freg FR.SYS_BOOT_ERR = 2 ^ 31 + 0x1000C)

/-- R433, R483, R487, R490 to R493: the SPDM responder answers on the DOE mailbox, while the link is up, and on I3C,
except in END; slot 0 holds the chain that agrees with the identity key, other slots are empty, and a nonce has the
measurements signed, with the development key in DEVELOP and the production key from PRODUCTION on. None of these requests
changes anything but the answer. KEY_EXCHANGE begins the handshake of its transport's session with a fresh share, signed with
the requester's; FINISH opens the session where its MAC is that of the handshake, and ends the handshake where it is not (log
entry 229); HEARTBEAT keeps it, and END_SESSION ends it; the session of the other transport is left alone. Out of place each is
answered with an error. -/
def Obligations.AttestationAndSessions : Prop :=
  (∀ (s : State) (p : SpdmPort) (slot : Fin 8) (nonce : BitVec 256) (index : Option Nat),
     let told (r : SpdmReply) (i : Instr) : Prop :=
       ∃ t : State, exec i s = .next t ∧ t = { s with hs := { s.hs with reply := .spdm r } }
     let lc := s.dev.fw.otp.lc
     let blocks := s.measurements.filter (fun b => index.all (fun k => b.index == k))
     s.dev.stbyPg = true → lc ≠ 4 → (p = .doe → s.dev.mainOn = true ∧ s.hs.link ≠ .down) →
     told (.version [0x12, 0x13]) (.getVersion p) ∧ told (.capabilities false false) (.getCapabilities p) ∧
     told (.algorithms 384 384 384 256) (.negotiateAlgorithms p) ∧
     (∀ ch, s.chain = some ch → told (.digests [0] (Config.sha384 ch)) (.getDigests p) ∧
       told (if slot = 0 then .certificate ch else .error) (.getCertificate p slot) ∧
       told (if slot = 0 then .challengeAuth (Config.identitySign (lc != 1) (Config.transcript 1 nonce.toNat ch)) else .error)
         (.challenge p slot nonce)) ∧
     (s.chain = none → told (.digests [] []) (.getDigests p) ∧ told .error (.getCertificate p slot) ∧
       told .error (.challenge p slot nonce)) ∧
     (blocks ≠ [] → told (.measurements blocks none) (.getMeasurements p index none) ∧
       (lc ≠ 0 → told (.measurements blocks (some (Config.identitySign (lc != 1)
         (Config.transcript 2 nonce.toNat (blocks.flatMap (·.value)))))) (.getMeasurements p index (some nonce)))) ∧
     (blocks = [] → told .error (.getMeasurements p index none))) ∧
  (∀ (s : State) (p : SpdmPort) (slot : Fin 8) (pub mac : List Byte),
     let told (u : State) (r : SpdmReply) : State := { u with hs := { u.hs with reply := .spdm r } }
     let goes (x : Session) (r : SpdmReply) (i : Instr) (draws : Nat) : Prop := ∃ t : State, exec i s = .next t ∧
       t = match p with
         | .doe => told { s with dev := { s.dev with spdmDoe := x }, free := s.free + draws } r
         | .i3c => told { s with dev := { s.dev with spdmI3c := x }, free := s.free + draws } r
     let share := Config.ecdhShare s.free
     let now := match p with
       | .doe => s.dev.spdmDoe
       | .i3c => s.dev.spdmI3c
     s.dev.stbyPg = true → s.dev.fw.otp.lc ≠ 4 → (p = .doe → s.dev.mainOn = true ∧ s.hs.link ≠ .down) →
     (s.chain ≠ none → slot = 0 → (p = .i3c ∨ pub.length ≤ 0x40000) →
       goes (.handshake (Config.ecdhSecret s.free pub)) (.keyExchange share
         (Config.identitySign (s.dev.fw.otp.lc != 1) (Config.transcript 3 0 (pub ++ share)))) (.keyExchange p slot pub) 1) ∧
     ((s.chain = none ∨ slot ≠ 0 ∨ (p = .doe ∧ 0x40000 < pub.length)) → goes now .error (.keyExchange p slot pub) 0) ∧
     (∀ k, now = .handshake k →
       (mac = Config.finishMac k →
         goes (.opened (Config.aeadKey false k, Config.aeadKey true k)) .finish (.finish ⟨p, mac⟩) 0) ∧
       (mac ≠ Config.finishMac k → goes .none .error (.finish ⟨p, mac⟩) 0)) ∧
     ((∀ k, now ≠ .handshake k) → goes now .error (.finish ⟨p, mac⟩) 0) ∧
     (∀ k, now = .opened k → goes now .heartbeat (.heartbeat p) 0 ∧ goes .none .ended (.endSession p) 0) ∧
     ((∀ k, now ≠ .opened k) → goes now .error (.heartbeat p) 0 ∧ goes now .error (.endSession p) 0))

/-- R488, R489, R511 to R514: BYPASS, IDCODE and the boundary-scan instructions are enabled in every lifecycle state. The
data register that each selects shifts out its value: SAMPLE/PRELOAD and EXTEST capture the pins, and SAMPLE/PRELOAD loads
the values that EXTEST and CLAMP drive on the outputs, which HIGHZ leaves undriven. An instruction that the lifecycle does
not enable selects BYPASS. A challenge can be answered once, in DEVELOP and RETURNED with a signature that opens debug,
which the Almanac records, or with a token. Debug access shifts out the last result and has the authority of the host: it
reads registers, and neither the security block nor an unaligned address, and a write that the host may not make fails.
LTN_SEL sets a select register, by which an output follows a signal or is low. -/
def Obligations.BoundaryScanAndDebug : Prop :=
  (∀ (s : State) (v : Nat), s.dev.stbyPg = true →
     let sel (code : Nat) : State := { s with dev := { s.dev with jtag := { s.dev.jtag with ir := code } } }
     let shows (u : State) (width value : Nat) : State := { u with hs := { u.hs with reply := .jtag width value } }
     (∃ t : State, exec .bypass s = .next t ∧ t = shows (sel 0x3F) 1 0) ∧
     (∃ t : State, exec .idcode s = .next t ∧ t = shows (sel 0x01) 32 0x10240B4F) ∧
     let drives (t : State) (f : Nat → Option Bool) : Prop := t.devReady = f 0 ∧ t.thermtripN = f 1
     let cell (k : Nat) : Option Bool := some (bitB s.dev.jtag.preload (Config.boundaryPlace k))
     (∃ t : State, exec (.samplePreload v) s = .next t ∧
       t = { shows (sel 0x02) Config.boundaryLen (sel 0x02).boundary with
             dev := { s.dev with jtag := { s.dev.jtag with ir := 0x02, preload := v } }, free := s.free + 1 }) ∧
     (∃ t : State, exec .extest s = .next t ∧ drives t cell ∧
       t = { shows (sel 0x00) Config.boundaryLen (sel 0x00).boundary with free := s.free + 1 }) ∧
     (∃ t : State, exec .clamp s = .next t ∧ drives t cell ∧ t = shows (sel 0x04) 1 0) ∧
     (∃ t : State, exec .highz s = .next t ∧ drives t (fun _ => none) ∧ t = shows (sel 0x05) 1 0)) ∧
  (∀ (s : State) (bs : List BringIn) (sig : List Byte) (n : Nat) (dr : BitVec 128) (k : Fin 10) (v : BitVec 16)
     (code : Fin 16) (tok : TokenIn),
     let lc := s.dev.fw.otp.lc
     let j := s.dev.jtag
     let jtag (u : State) (f : JtagState) : State := { u with dev := { u.dev with jtag := f } }
     let shows (u : State) (width value : Nat) : State := { u with hs := { u.hs with reply := .jtag width value } }
     let off (i : Instr) : Prop := ∃ t : State, exec i s = .next t ∧ t = shows (jtag s { j with ir := 0x3F }) 1 0
     let free := lc = 0 ∨ ((lc = 1 ∨ lc = 3) ∧ bitB (s.freg FR.SYS_LC) 7 = true)
     let message := leBytes 8 (s.freg FR.FL_CHIP_ID) ++ leBytes 32 n
     s.dev.stbyPg = true →
     ((lc = 2 ∨ lc = 4) → ∀ i ∈ [Instr.dbgChallenge, .dbgUnlock (.signature sig) bs, .dbgUnlock (.token tok) bs,
       .dbgAccess dr, .ltnSel k v, .manufacturingTest code], off i) ∧
     (lc ≠ 0 → off (.manufacturingTest code)) ∧
     (lc = 0 → exec (.manufacturingTest code) s = .refused (.manufacturingTest code)) ∧
     (¬ free → off (.dbgAccess dr) ∧ off (.ltnSel k v)) ∧
     ((lc = 0 ∨ lc = 1 ∨ lc = 3) →
       (∃ (t : State) (m : Nat), exec .dbgChallenge s = .next t ∧ m < 2 ^ 256 ∧
         t = { shows (jtag s { j with ir := 0x10, nonce := some m }) 320 (s.freg FR.FL_CHIP_ID + m * 2 ^ 64) with
               free := t.free }) ∧
       (j.nonce = none → ∃ t : State, exec (.dbgUnlock (.signature sig) bs) s = .next t ∧ t = jtag s { j with ir := 0x11 }) ∧
       (j.nonce = some n → (lc = 0 ∨ Config.ecdsaOk Config.debugKey message sig = false) →
         ∃ t : State, exec (.dbgUnlock (.signature sig) bs) s = .next t ∧ t = jtag s { j with ir := 0x11, nonce := none }) ∧
       (j.nonce = some n → lc ≠ 0 → Config.ecdsaOk Config.debugKey message sig = true →
         bitB (s.freg FR.SYS_LC) 7 = false → SMap.wf floorResetVal s.fregs = true →
         ∃ t : State, exec (.dbgUnlock (.signature sig) bs) s = .next t ∧ bitB (t.freg FR.SYS_LC) 7 = true ∧
           t.alm.seq = s.alm.seq + 1 ∧ t.dev.jtag = { j with ir := 0x11, nonce := none } ∧ t.cells = s.cells ∧ t.mem = s.mem) ∧
       (s.tokenFits tok true = false → ∃ t : State, exec (.dbgUnlock (.token tok) bs) s = .next t ∧ t = jtag s { j with ir := 0x11 })) ∧
     (free →
       let pa := dr.toNat % 2 ^ 52
       let w := if (dr.extractLsb' 61 3).toNat = 0 then 4 else 8
       let old := shows (jtag s { j with ir := 0x12 }) 128 (j.dbgData.toNat * 2 ^ 64 + b2n j.dbgFail * 2 ^ 60)
       ((dr.extractLsb' 61 3).toNat < 2 → pa % w = 0 → inRegs pa = true → inSecurity pa = false →
         (vigilReg pa || s.dev.mainOn) = true →
         ∃ t : State, exec (.dbgAccess dr) s = .next t ∧
           t = jtag old { j with ir := 0x12, dbgData := BitVec.ofNat 64 (old.readReg pa w), dbgFail := false }) ∧
       ((3 < (dr.extractLsb' 61 3).toNat ∨ ((dr.extractLsb' 61 3).toNat < 2 ∧ (pa % w ≠ 0 ∨ inSecurity pa = true))) →
         ∃ t : State, exec (.dbgAccess dr) s = .next t ∧
           t = jtag old { j with ir := 0x12, dbgData := 0, dbgFail := true }) ∧
       (pa = FR.PWR_CAP_W → (dr.extractLsb' 61 3).toNat = 2 → ∃ t : State, exec (.dbgAccess dr) s = .next t ∧
         t = jtag old { j with ir := 0x12, dbgData := 0, dbgFail := true }) ∧
       ∃ t : State, exec (.ltnSel k v) s = .next t ∧
         t.lantern k = (if v.getLsbD 15 && !ltnReserved (v.toNat % 4096) then some (v.toNat % 4096, v.toNat / 4096 % 8)
           else none) ∧
         t = jtag s { j with ir := 0x13, ltn := j.ltn.set k v }))
end

