-- ==== Sys2Proof/Laws/Sparse.lean ====
section
/-! SUPPORT. The laws of sparse maps: what is read after a write, and that every operation keeps the canonical
form. -/

namespace Sys2Proof.Laws

open Sys2Proof.Machine

variable {α : Type}

@[simp] theorem smap_get_nil (d : Nat → α) (k : Nat) : SMap.get d [] k = d k := rfl

theorem smap_get_cons (d : Nat → α) (a : Nat) (v : α) (m : SMap α) (k : Nat) :
    SMap.get d ((a, v) :: m) k = if a = k then v else SMap.get d m k := rfl

/-- A key below every key of the map reads as the default. -/
theorem smap_get_above [DecidableEq α] (d : Nat → α) :
    ∀ (m : SMap α) (b k : Nat), SMap.wf d m = true → SMap.above b m = true → k ≤ b → m.get d k = d k := by
  intro m
  induction m with
  | nil => intros; rfl
  | cons e m ih =>
    obtain ⟨a, v⟩ := e
    intro b k hw ha hk
    simp only [SMap.wf, Bool.and_eq_true] at hw
    simp only [SMap.above, decide_eq_true_eq] at ha
    rw [smap_get_cons, if_neg (by omega)]
    exact ih a k hw.2 hw.1.1 (by omega)

/-- The inserted value is read at its key. -/
@[simp] theorem smap_get_insert_self (d : Nat → α) (m : SMap α) (k : Nat) (v : α) :
    SMap.get d (SMap.insert m k v) k = v := by
  induction m with
  | nil => simp [SMap.insert, SMap.get]
  | cons e m ih =>
    obtain ⟨a, w⟩ := e
    simp only [SMap.insert]
    split
    · simp [SMap.get]
    · split
      · simp [SMap.get]
      · simp [SMap.get, *]

/-- An insertion leaves every other key as it was. -/
theorem smap_get_insert_other (d : Nat → α) (m : SMap α) {k j : Nat} (v : α) (h : j ≠ k) :
    SMap.get d (SMap.insert m k v) j = SMap.get d m j := by
  induction m with
  | nil => simp [SMap.insert, SMap.get, Ne.symm h]
  | cons e m ih =>
    obtain ⟨a, w⟩ := e
    simp only [SMap.insert]
    split
    · simp [SMap.get, Ne.symm h]
    · split
      · subst_vars; simp [SMap.get, Ne.symm h]
      · simp [SMap.get, ih]

/-- An erasure leaves every other key as it was. -/
theorem smap_get_erase_other (d : Nat → α) (m : SMap α) {k j : Nat} (h : j ≠ k) :
    SMap.get d (SMap.erase m k) j = SMap.get d m j := by
  induction m with
  | nil => rfl
  | cons e m ih =>
    obtain ⟨a, w⟩ := e
    simp only [SMap.erase]
    split
    · subst_vars; simp [SMap.get, Ne.symm h]
    · simp [SMap.get, ih]

/-- An erased key of a canonical map reads as the default. -/
theorem smap_get_erase_self [DecidableEq α] (d : Nat → α) (m : SMap α) (k : Nat) (hw : SMap.wf d m = true) :
    SMap.get d (SMap.erase m k) k = d k := by
  induction m with
  | nil => rfl
  | cons e m ih =>
    obtain ⟨a, w⟩ := e
    simp only [SMap.wf, Bool.and_eq_true] at hw
    simp only [SMap.erase]
    split
    · subst_vars; exact smap_get_above d m _ _ hw.2 hw.1.1 (le_refl _)
    · simp [SMap.get, *]

/-- The value set is read at its key. -/
theorem smap_get_set_self [DecidableEq α] (d : Nat → α) (m : SMap α) (k : Nat) (v : α)
    (hw : SMap.wf d m = true) : SMap.get d (SMap.set d m k v) k = v := by
  unfold SMap.set
  split
  · rw [smap_get_erase_self d m k hw]; exact Eq.symm ‹_›
  · simp

/-- A write leaves every other key as it was. -/
theorem smap_get_set_other [DecidableEq α] (d : Nat → α) (m : SMap α) {k j : Nat} (v : α) (h : j ≠ k) :
    SMap.get d (SMap.set d m k v) j = SMap.get d m j := by
  unfold SMap.set
  split
  · exact smap_get_erase_other d m h
  · exact smap_get_insert_other d m v h

theorem smap_above_mono {m : SMap α} {a b : Nat} (h : a ≤ b) (hb : SMap.above b m = true) :
    SMap.above a m = true := by
  cases m with
  | nil => rfl
  | cons e m => obtain ⟨x, y⟩ := e; simp only [SMap.above, decide_eq_true_eq] at *; omega

theorem smap_above_erase [DecidableEq α] (d : Nat → α) :
    ∀ (m : SMap α) (b k : Nat), SMap.wf d m = true → SMap.above b m = true →
      SMap.above b (SMap.erase m k) = true := by
  intro m
  cases m with
  | nil => intros; rfl
  | cons e m =>
    obtain ⟨a, v⟩ := e
    intro b k hw ha
    simp only [SMap.wf, Bool.and_eq_true] at hw
    simp only [SMap.erase]
    split
    · simp only [SMap.above, decide_eq_true_eq] at ha
      exact smap_above_mono (by omega) hw.1.1
    · exact ha

theorem smap_above_insert (m : SMap α) (b k : Nat) (v : α) (h : b < k) (ha : SMap.above b m = true) :
    SMap.above b (SMap.insert m k v) = true := by
  cases m with
  | nil => simpa [SMap.insert, SMap.above] using h
  | cons e m =>
    obtain ⟨a, w⟩ := e
    simp only [SMap.insert]
    split
    · simpa [SMap.above] using h
    · split <;> simp_all [SMap.above]

/-- An erasure keeps the canonical form. -/
theorem smap_wf_erase [DecidableEq α] (d : Nat → α) (m : SMap α) (k : Nat) (hw : SMap.wf d m = true) :
    SMap.wf d (SMap.erase m k) = true := by
  induction m with
  | nil => rfl
  | cons e m ih =>
    obtain ⟨a, w⟩ := e
    simp only [SMap.wf, Bool.and_eq_true] at hw
    simp only [SMap.erase]
    split
    · exact hw.2
    · simp only [SMap.wf, Bool.and_eq_true]
      exact ⟨⟨smap_above_erase d m a k hw.2 hw.1.1, hw.1.2⟩, ih hw.2⟩

/-- An insertion of a value that is not the default keeps the canonical form. -/
theorem smap_wf_insert [DecidableEq α] (d : Nat → α) (m : SMap α) (k : Nat) (v : α) (hv : v ≠ d k)
    (hw : SMap.wf d m = true) : SMap.wf d (SMap.insert m k v) = true := by
  induction m with
  | nil => simpa [SMap.insert, SMap.wf, SMap.above] using hv
  | cons e m ih =>
    obtain ⟨a, w⟩ := e
    simp only [SMap.insert]
    split
    · simp only [SMap.wf, Bool.and_eq_true, SMap.above] at hw ⊢
      simp_all
    · simp only [SMap.wf, Bool.and_eq_true] at hw
      split
      · subst_vars; simp only [SMap.wf, Bool.and_eq_true]; exact ⟨⟨hw.1.1, by simpa using hv⟩, hw.2⟩
      · simp only [SMap.wf, Bool.and_eq_true]
        exact ⟨⟨smap_above_insert m a k v (by omega) hw.1.1, hw.1.2⟩, ih hw.2⟩

/-- A write keeps the canonical form. -/
theorem smap_wf_set [DecidableEq α] (d : Nat → α) (m : SMap α) (k : Nat) (v : α) (hw : SMap.wf d m = true) :
    SMap.wf d (SMap.set d m k v) = true := by
  unfold SMap.set
  split
  · exact smap_wf_erase d m k hw
  · exact smap_wf_insert d m k v ‹_› hw

/-- Consecutive writes keep the canonical form. -/
theorem smap_wf_setRange [DecidableEq α] (d : Nat → α) :
    ∀ (vs : List α) (m : SMap α) (k : Nat), SMap.wf d m = true → SMap.wf d (SMap.setRange d m k vs) = true := by
  intro vs
  induction vs with
  | nil => intro m k hw; exact hw
  | cons v vs ih => intro m k hw; exact ih _ _ (smap_wf_set d m k v hw)

/-- Consecutive writes leave every key outside them as it was. -/
theorem smap_get_setRange_other [DecidableEq α] (d : Nat → α) :
    ∀ (vs : List α) (m : SMap α) (k j : Nat), j < k ∨ k + vs.length ≤ j →
      SMap.get d (SMap.setRange d m k vs) j = SMap.get d m j := by
  intro vs
  induction vs with
  | nil => intros; rfl
  | cons v vs ih =>
    intro m k j h
    simp only [List.length_cons] at h
    rw [SMap.setRange, ih _ _ _ (by omega), smap_get_set_other d m v (by omega)]

/-- Consecutive writes are read back. -/
theorem smap_getRange_setRange [DecidableEq α] (d : Nat → α) :
    ∀ (vs : List α) (m : SMap α) (k : Nat), SMap.wf d m = true →
      SMap.getRange d (SMap.setRange d m k vs) k vs.length = vs := by
  intro vs
  induction vs with
  | nil => intros; rfl
  | cons v vs ih =>
    intro m k hw
    have hw' := smap_wf_set d m k v hw
    rw [SMap.setRange, List.length_cons, SMap.getRange, ih _ _ hw',
      smap_get_setRange_other d vs _ _ _ (by omega), smap_get_set_self d m k v hw]

/-- Equal canonical maps are equal lists. -/
theorem smap_wf_ext [DecidableEq α] (d : Nat → α) :
    ∀ (m n : SMap α), SMap.wf d m = true → SMap.wf d n = true → (∀ k, m.get d k = n.get d k) → m = n := by
  intro m
  induction m with
  | nil =>
    intro n _ hn h
    cases n with
    | nil => rfl
    | cons e n =>
      obtain ⟨a, v⟩ := e
      simp only [SMap.wf, Bool.and_eq_true, decide_eq_true_eq] at hn
      exact absurd (by simpa [SMap.get] using (h a).symm) hn.1.2
  | cons e m ih =>
    obtain ⟨a, v⟩ := e
    intro n hm hn h
    simp only [SMap.wf, Bool.and_eq_true, decide_eq_true_eq] at hm
    cases n with
    | nil => exact absurd (by simpa [SMap.get] using h a) hm.1.2
    | cons e n =>
      obtain ⟨b, w⟩ := e
      simp only [SMap.wf, Bool.and_eq_true, decide_eq_true_eq] at hn
      have hab : a = b := by
        rcases Nat.lt_trichotomy a b with hlt | heq | hgt
        · have := h a
          rw [smap_get_cons, if_pos rfl, smap_get_cons, if_neg (by omega),
            smap_get_above d n b a hn.2 hn.1.1 (by omega)] at this
          exact absurd this hm.1.2
        · exact heq
        · have := h b
          rw [smap_get_cons, if_neg (by omega), smap_get_above d m a b hm.2 hm.1.1 (by omega), smap_get_cons,
            if_pos rfl] at this
          exact absurd this.symm hn.1.2
      subst hab
      have hv : v = w := by simpa [smap_get_cons] using h a
      subst hv
      congr 1
      refine ih n hm.2 hn.2 (fun k => ?_)
      by_cases hk : a = k
      · subst hk
        rw [smap_get_above d m a a hm.2 hm.1.1 (le_refl _), smap_get_above d n a a hn.2 hn.1.1 (le_refl _)]
      · have := h k
        rwa [smap_get_cons, if_neg hk, smap_get_cons, if_neg hk] at this

end Sys2Proof.Laws
end

