-- ==== Sys2Proof/Laws/State.lean ====
section
/-! SUPPORT. What each update of the state leaves as it is, one lemma for each update and field, and what is read
after it: no proof needs to unfold an update. -/

namespace Sys2Proof.Laws

open Sys2Proof.Machine

/-! ### `State.setCell` -/

@[simp] theorem setCell_slices (s : State) (c : CellId) (x : Cell) :
    (s.setCell c x).slices = s.slices := rfl
@[simp] theorem setCell_mem (s : State) (c : CellId) (x : Cell) :
    (s.setCell c x).mem = s.mem := rfl
@[simp] theorem setCell_fregs (s : State) (c : CellId) (x : Cell) :
    (s.setCell c x).fregs = s.fregs := rfl
@[simp] theorem setCell_sync (s : State) (c : CellId) (x : Cell) :
    (s.setCell c x).sync = s.sync := rfl
@[simp] theorem setCell_alm (s : State) (c : CellId) (x : Cell) :
    (s.setCell c x).alm = s.alm := rfl
@[simp] theorem setCell_pw (s : State) (c : CellId) (x : Cell) :
    (s.setCell c x).pw = s.pw := rfl
@[simp] theorem setCell_hv (s : State) (c : CellId) (x : Cell) :
    (s.setCell c x).hv = s.hv := rfl
@[simp] theorem setCell_rx (s : State) (c : CellId) (x : Cell) :
    (s.setCell c x).rx = s.rx := rfl
@[simp] theorem setCell_fl (s : State) (c : CellId) (x : Cell) :
    (s.setCell c x).fl = s.fl := rfl
@[simp] theorem setCell_ce (s : State) (c : CellId) (x : Cell) :
    (s.setCell c x).ce = s.ce := rfl
@[simp] theorem setCell_hs (s : State) (c : CellId) (x : Cell) :
    (s.setCell c x).hs = s.hs := rfl
@[simp] theorem setCell_dev (s : State) (c : CellId) (x : Cell) :
    (s.setCell c x).dev = s.dev := rfl
@[simp] theorem setCell_timeUs (s : State) (c : CellId) (x : Cell) :
    (s.setCell c x).timeUs = s.timeUs := rfl
@[simp] theorem setCell_free (s : State) (c : CellId) (x : Cell) :
    (s.setCell c x).free = s.free := rfl
@[simp] theorem setCell_pending (s : State) (c : CellId) (x : Cell) :
    (s.setCell c x).pending = s.pending := rfl
/-! ### `State.modCell` -/

@[simp] theorem modCell_slices (s : State) (c : CellId) (f : Cell → Cell) :
    (s.modCell c f).slices = s.slices := rfl
@[simp] theorem modCell_mem (s : State) (c : CellId) (f : Cell → Cell) :
    (s.modCell c f).mem = s.mem := rfl
@[simp] theorem modCell_fregs (s : State) (c : CellId) (f : Cell → Cell) :
    (s.modCell c f).fregs = s.fregs := rfl
@[simp] theorem modCell_sync (s : State) (c : CellId) (f : Cell → Cell) :
    (s.modCell c f).sync = s.sync := rfl
@[simp] theorem modCell_alm (s : State) (c : CellId) (f : Cell → Cell) :
    (s.modCell c f).alm = s.alm := rfl
@[simp] theorem modCell_pw (s : State) (c : CellId) (f : Cell → Cell) :
    (s.modCell c f).pw = s.pw := rfl
@[simp] theorem modCell_hv (s : State) (c : CellId) (f : Cell → Cell) :
    (s.modCell c f).hv = s.hv := rfl
@[simp] theorem modCell_rx (s : State) (c : CellId) (f : Cell → Cell) :
    (s.modCell c f).rx = s.rx := rfl
@[simp] theorem modCell_fl (s : State) (c : CellId) (f : Cell → Cell) :
    (s.modCell c f).fl = s.fl := rfl
@[simp] theorem modCell_ce (s : State) (c : CellId) (f : Cell → Cell) :
    (s.modCell c f).ce = s.ce := rfl
@[simp] theorem modCell_hs (s : State) (c : CellId) (f : Cell → Cell) :
    (s.modCell c f).hs = s.hs := rfl
@[simp] theorem modCell_dev (s : State) (c : CellId) (f : Cell → Cell) :
    (s.modCell c f).dev = s.dev := rfl
@[simp] theorem modCell_timeUs (s : State) (c : CellId) (f : Cell → Cell) :
    (s.modCell c f).timeUs = s.timeUs := rfl
@[simp] theorem modCell_free (s : State) (c : CellId) (f : Cell → Cell) :
    (s.modCell c f).free = s.free := rfl
@[simp] theorem modCell_pending (s : State) (c : CellId) (f : Cell → Cell) :
    (s.modCell c f).pending = s.pending := rfl
/-! ### `State.countC` -/

@[simp] theorem countC_slices (s : State) (c : CellId) (o n : Nat) :
    (s.countC c o n).slices = s.slices := rfl
@[simp] theorem countC_mem (s : State) (c : CellId) (o n : Nat) :
    (s.countC c o n).mem = s.mem := rfl
@[simp] theorem countC_fregs (s : State) (c : CellId) (o n : Nat) :
    (s.countC c o n).fregs = s.fregs := rfl
@[simp] theorem countC_sync (s : State) (c : CellId) (o n : Nat) :
    (s.countC c o n).sync = s.sync := rfl
@[simp] theorem countC_alm (s : State) (c : CellId) (o n : Nat) :
    (s.countC c o n).alm = s.alm := rfl
@[simp] theorem countC_pw (s : State) (c : CellId) (o n : Nat) :
    (s.countC c o n).pw = s.pw := rfl
@[simp] theorem countC_hv (s : State) (c : CellId) (o n : Nat) :
    (s.countC c o n).hv = s.hv := rfl
@[simp] theorem countC_rx (s : State) (c : CellId) (o n : Nat) :
    (s.countC c o n).rx = s.rx := rfl
@[simp] theorem countC_fl (s : State) (c : CellId) (o n : Nat) :
    (s.countC c o n).fl = s.fl := rfl
@[simp] theorem countC_ce (s : State) (c : CellId) (o n : Nat) :
    (s.countC c o n).ce = s.ce := rfl
@[simp] theorem countC_hs (s : State) (c : CellId) (o n : Nat) :
    (s.countC c o n).hs = s.hs := rfl
@[simp] theorem countC_dev (s : State) (c : CellId) (o n : Nat) :
    (s.countC c o n).dev = s.dev := rfl
@[simp] theorem countC_timeUs (s : State) (c : CellId) (o n : Nat) :
    (s.countC c o n).timeUs = s.timeUs := rfl
@[simp] theorem countC_free (s : State) (c : CellId) (o n : Nat) :
    (s.countC c o n).free = s.free := rfl
@[simp] theorem countC_pending (s : State) (c : CellId) (o n : Nat) :
    (s.countC c o n).pending = s.pending := rfl
/-! ### `State.setSlice` -/

@[simp] theorem setSlice_cells (s : State) (c : CellId) (x : Slice) :
    (s.setSlice c x).cells = s.cells := rfl
@[simp] theorem setSlice_mem (s : State) (c : CellId) (x : Slice) :
    (s.setSlice c x).mem = s.mem := rfl
@[simp] theorem setSlice_fregs (s : State) (c : CellId) (x : Slice) :
    (s.setSlice c x).fregs = s.fregs := rfl
@[simp] theorem setSlice_sync (s : State) (c : CellId) (x : Slice) :
    (s.setSlice c x).sync = s.sync := rfl
@[simp] theorem setSlice_alm (s : State) (c : CellId) (x : Slice) :
    (s.setSlice c x).alm = s.alm := rfl
@[simp] theorem setSlice_pw (s : State) (c : CellId) (x : Slice) :
    (s.setSlice c x).pw = s.pw := rfl
@[simp] theorem setSlice_hv (s : State) (c : CellId) (x : Slice) :
    (s.setSlice c x).hv = s.hv := rfl
@[simp] theorem setSlice_rx (s : State) (c : CellId) (x : Slice) :
    (s.setSlice c x).rx = s.rx := rfl
@[simp] theorem setSlice_fl (s : State) (c : CellId) (x : Slice) :
    (s.setSlice c x).fl = s.fl := rfl
@[simp] theorem setSlice_ce (s : State) (c : CellId) (x : Slice) :
    (s.setSlice c x).ce = s.ce := rfl
@[simp] theorem setSlice_hs (s : State) (c : CellId) (x : Slice) :
    (s.setSlice c x).hs = s.hs := rfl
@[simp] theorem setSlice_dev (s : State) (c : CellId) (x : Slice) :
    (s.setSlice c x).dev = s.dev := rfl
@[simp] theorem setSlice_timeUs (s : State) (c : CellId) (x : Slice) :
    (s.setSlice c x).timeUs = s.timeUs := rfl
@[simp] theorem setSlice_free (s : State) (c : CellId) (x : Slice) :
    (s.setSlice c x).free = s.free := rfl
@[simp] theorem setSlice_pending (s : State) (c : CellId) (x : Slice) :
    (s.setSlice c x).pending = s.pending := rfl
/-! ### `State.modSlice` -/

@[simp] theorem modSlice_cells (s : State) (c : CellId) (f : Slice → Slice) :
    (s.modSlice c f).cells = s.cells := rfl
@[simp] theorem modSlice_mem (s : State) (c : CellId) (f : Slice → Slice) :
    (s.modSlice c f).mem = s.mem := rfl
@[simp] theorem modSlice_fregs (s : State) (c : CellId) (f : Slice → Slice) :
    (s.modSlice c f).fregs = s.fregs := rfl
@[simp] theorem modSlice_sync (s : State) (c : CellId) (f : Slice → Slice) :
    (s.modSlice c f).sync = s.sync := rfl
@[simp] theorem modSlice_alm (s : State) (c : CellId) (f : Slice → Slice) :
    (s.modSlice c f).alm = s.alm := rfl
@[simp] theorem modSlice_pw (s : State) (c : CellId) (f : Slice → Slice) :
    (s.modSlice c f).pw = s.pw := rfl
@[simp] theorem modSlice_hv (s : State) (c : CellId) (f : Slice → Slice) :
    (s.modSlice c f).hv = s.hv := rfl
@[simp] theorem modSlice_rx (s : State) (c : CellId) (f : Slice → Slice) :
    (s.modSlice c f).rx = s.rx := rfl
@[simp] theorem modSlice_fl (s : State) (c : CellId) (f : Slice → Slice) :
    (s.modSlice c f).fl = s.fl := rfl
@[simp] theorem modSlice_ce (s : State) (c : CellId) (f : Slice → Slice) :
    (s.modSlice c f).ce = s.ce := rfl
@[simp] theorem modSlice_hs (s : State) (c : CellId) (f : Slice → Slice) :
    (s.modSlice c f).hs = s.hs := rfl
@[simp] theorem modSlice_dev (s : State) (c : CellId) (f : Slice → Slice) :
    (s.modSlice c f).dev = s.dev := rfl
@[simp] theorem modSlice_timeUs (s : State) (c : CellId) (f : Slice → Slice) :
    (s.modSlice c f).timeUs = s.timeUs := rfl
@[simp] theorem modSlice_free (s : State) (c : CellId) (f : Slice → Slice) :
    (s.modSlice c f).free = s.free := rfl
@[simp] theorem modSlice_pending (s : State) (c : CellId) (f : Slice → Slice) :
    (s.modSlice c f).pending = s.pending := rfl
/-! ### `State.setFreg` -/

@[simp] theorem setFreg_cells (s : State) (a v : Nat) :
    (s.setFreg a v).cells = s.cells := rfl
@[simp] theorem setFreg_slices (s : State) (a v : Nat) :
    (s.setFreg a v).slices = s.slices := rfl
@[simp] theorem setFreg_mem (s : State) (a v : Nat) :
    (s.setFreg a v).mem = s.mem := rfl
@[simp] theorem setFreg_sync (s : State) (a v : Nat) :
    (s.setFreg a v).sync = s.sync := rfl
@[simp] theorem setFreg_alm (s : State) (a v : Nat) :
    (s.setFreg a v).alm = s.alm := rfl
@[simp] theorem setFreg_pw (s : State) (a v : Nat) :
    (s.setFreg a v).pw = s.pw := rfl
@[simp] theorem setFreg_hv (s : State) (a v : Nat) :
    (s.setFreg a v).hv = s.hv := rfl
@[simp] theorem setFreg_rx (s : State) (a v : Nat) :
    (s.setFreg a v).rx = s.rx := rfl
@[simp] theorem setFreg_fl (s : State) (a v : Nat) :
    (s.setFreg a v).fl = s.fl := rfl
@[simp] theorem setFreg_ce (s : State) (a v : Nat) :
    (s.setFreg a v).ce = s.ce := rfl
@[simp] theorem setFreg_hs (s : State) (a v : Nat) :
    (s.setFreg a v).hs = s.hs := rfl
@[simp] theorem setFreg_dev (s : State) (a v : Nat) :
    (s.setFreg a v).dev = s.dev := rfl
@[simp] theorem setFreg_timeUs (s : State) (a v : Nat) :
    (s.setFreg a v).timeUs = s.timeUs := rfl
@[simp] theorem setFreg_free (s : State) (a v : Nat) :
    (s.setFreg a v).free = s.free := rfl
@[simp] theorem setFreg_pending (s : State) (a v : Nat) :
    (s.setFreg a v).pending = s.pending := rfl
/-! ### `State.count` -/

@[simp] theorem count_cells (s : State) (a n : Nat) :
    (s.count a n).cells = s.cells := rfl
@[simp] theorem count_slices (s : State) (a n : Nat) :
    (s.count a n).slices = s.slices := rfl
@[simp] theorem count_mem (s : State) (a n : Nat) :
    (s.count a n).mem = s.mem := rfl
@[simp] theorem count_sync (s : State) (a n : Nat) :
    (s.count a n).sync = s.sync := rfl
@[simp] theorem count_alm (s : State) (a n : Nat) :
    (s.count a n).alm = s.alm := rfl
@[simp] theorem count_pw (s : State) (a n : Nat) :
    (s.count a n).pw = s.pw := rfl
@[simp] theorem count_hv (s : State) (a n : Nat) :
    (s.count a n).hv = s.hv := rfl
@[simp] theorem count_rx (s : State) (a n : Nat) :
    (s.count a n).rx = s.rx := rfl
@[simp] theorem count_fl (s : State) (a n : Nat) :
    (s.count a n).fl = s.fl := rfl
@[simp] theorem count_ce (s : State) (a n : Nat) :
    (s.count a n).ce = s.ce := rfl
@[simp] theorem count_hs (s : State) (a n : Nat) :
    (s.count a n).hs = s.hs := rfl
@[simp] theorem count_dev (s : State) (a n : Nat) :
    (s.count a n).dev = s.dev := rfl
@[simp] theorem count_timeUs (s : State) (a n : Nat) :
    (s.count a n).timeUs = s.timeUs := rfl
@[simp] theorem count_free (s : State) (a n : Nat) :
    (s.count a n).free = s.free := rfl
@[simp] theorem count_pending (s : State) (a n : Nat) :
    (s.count a n).pending = s.pending := rfl
/-! ### `State.orFreg` -/

@[simp] theorem orFreg_cells (s : State) (a m : Nat) :
    (s.orFreg a m).cells = s.cells := rfl
@[simp] theorem orFreg_slices (s : State) (a m : Nat) :
    (s.orFreg a m).slices = s.slices := rfl
@[simp] theorem orFreg_mem (s : State) (a m : Nat) :
    (s.orFreg a m).mem = s.mem := rfl
@[simp] theorem orFreg_sync (s : State) (a m : Nat) :
    (s.orFreg a m).sync = s.sync := rfl
@[simp] theorem orFreg_alm (s : State) (a m : Nat) :
    (s.orFreg a m).alm = s.alm := rfl
@[simp] theorem orFreg_pw (s : State) (a m : Nat) :
    (s.orFreg a m).pw = s.pw := rfl
@[simp] theorem orFreg_hv (s : State) (a m : Nat) :
    (s.orFreg a m).hv = s.hv := rfl
@[simp] theorem orFreg_rx (s : State) (a m : Nat) :
    (s.orFreg a m).rx = s.rx := rfl
@[simp] theorem orFreg_fl (s : State) (a m : Nat) :
    (s.orFreg a m).fl = s.fl := rfl
@[simp] theorem orFreg_ce (s : State) (a m : Nat) :
    (s.orFreg a m).ce = s.ce := rfl
@[simp] theorem orFreg_hs (s : State) (a m : Nat) :
    (s.orFreg a m).hs = s.hs := rfl
@[simp] theorem orFreg_dev (s : State) (a m : Nat) :
    (s.orFreg a m).dev = s.dev := rfl
@[simp] theorem orFreg_timeUs (s : State) (a m : Nat) :
    (s.orFreg a m).timeUs = s.timeUs := rfl
@[simp] theorem orFreg_free (s : State) (a m : Nat) :
    (s.orFreg a m).free = s.free := rfl
@[simp] theorem orFreg_pending (s : State) (a m : Nat) :
    (s.orFreg a m).pending = s.pending := rfl
/-! ### `State.clrFreg` -/

@[simp] theorem clrFreg_cells (s : State) (a m : Nat) :
    (s.clrFreg a m).cells = s.cells := rfl
@[simp] theorem clrFreg_slices (s : State) (a m : Nat) :
    (s.clrFreg a m).slices = s.slices := rfl
@[simp] theorem clrFreg_mem (s : State) (a m : Nat) :
    (s.clrFreg a m).mem = s.mem := rfl
@[simp] theorem clrFreg_sync (s : State) (a m : Nat) :
    (s.clrFreg a m).sync = s.sync := rfl
@[simp] theorem clrFreg_alm (s : State) (a m : Nat) :
    (s.clrFreg a m).alm = s.alm := rfl
@[simp] theorem clrFreg_pw (s : State) (a m : Nat) :
    (s.clrFreg a m).pw = s.pw := rfl
@[simp] theorem clrFreg_hv (s : State) (a m : Nat) :
    (s.clrFreg a m).hv = s.hv := rfl
@[simp] theorem clrFreg_rx (s : State) (a m : Nat) :
    (s.clrFreg a m).rx = s.rx := rfl
@[simp] theorem clrFreg_fl (s : State) (a m : Nat) :
    (s.clrFreg a m).fl = s.fl := rfl
@[simp] theorem clrFreg_ce (s : State) (a m : Nat) :
    (s.clrFreg a m).ce = s.ce := rfl
@[simp] theorem clrFreg_hs (s : State) (a m : Nat) :
    (s.clrFreg a m).hs = s.hs := rfl
@[simp] theorem clrFreg_dev (s : State) (a m : Nat) :
    (s.clrFreg a m).dev = s.dev := rfl
@[simp] theorem clrFreg_timeUs (s : State) (a m : Nat) :
    (s.clrFreg a m).timeUs = s.timeUs := rfl
@[simp] theorem clrFreg_free (s : State) (a m : Nat) :
    (s.clrFreg a m).free = s.free := rfl
@[simp] theorem clrFreg_pending (s : State) (a m : Nat) :
    (s.clrFreg a m).pending = s.pending := rfl
/-! ### `State.putFreg` -/

@[simp] theorem putFreg_cells (s : State) (a hi lo v : Nat) :
    (s.putFreg a hi lo v).cells = s.cells := rfl
@[simp] theorem putFreg_slices (s : State) (a hi lo v : Nat) :
    (s.putFreg a hi lo v).slices = s.slices := rfl
@[simp] theorem putFreg_mem (s : State) (a hi lo v : Nat) :
    (s.putFreg a hi lo v).mem = s.mem := rfl
@[simp] theorem putFreg_sync (s : State) (a hi lo v : Nat) :
    (s.putFreg a hi lo v).sync = s.sync := rfl
@[simp] theorem putFreg_alm (s : State) (a hi lo v : Nat) :
    (s.putFreg a hi lo v).alm = s.alm := rfl
@[simp] theorem putFreg_pw (s : State) (a hi lo v : Nat) :
    (s.putFreg a hi lo v).pw = s.pw := rfl
@[simp] theorem putFreg_hv (s : State) (a hi lo v : Nat) :
    (s.putFreg a hi lo v).hv = s.hv := rfl
@[simp] theorem putFreg_rx (s : State) (a hi lo v : Nat) :
    (s.putFreg a hi lo v).rx = s.rx := rfl
@[simp] theorem putFreg_fl (s : State) (a hi lo v : Nat) :
    (s.putFreg a hi lo v).fl = s.fl := rfl
@[simp] theorem putFreg_ce (s : State) (a hi lo v : Nat) :
    (s.putFreg a hi lo v).ce = s.ce := rfl
@[simp] theorem putFreg_hs (s : State) (a hi lo v : Nat) :
    (s.putFreg a hi lo v).hs = s.hs := rfl
@[simp] theorem putFreg_dev (s : State) (a hi lo v : Nat) :
    (s.putFreg a hi lo v).dev = s.dev := rfl
@[simp] theorem putFreg_timeUs (s : State) (a hi lo v : Nat) :
    (s.putFreg a hi lo v).timeUs = s.timeUs := rfl
@[simp] theorem putFreg_free (s : State) (a hi lo v : Nat) :
    (s.putFreg a hi lo v).free = s.free := rfl
@[simp] theorem putFreg_pending (s : State) (a hi lo v : Nat) :
    (s.putFreg a hi lo v).pending = s.pending := rfl
/-! ### `State.draw` -/

@[simp] theorem draw_cells (s : State) :
    (s.draw).cells = s.cells := rfl
@[simp] theorem draw_slices (s : State) :
    (s.draw).slices = s.slices := rfl
@[simp] theorem draw_mem (s : State) :
    (s.draw).mem = s.mem := rfl
@[simp] theorem draw_fregs (s : State) :
    (s.draw).fregs = s.fregs := rfl
@[simp] theorem draw_sync (s : State) :
    (s.draw).sync = s.sync := rfl
@[simp] theorem draw_alm (s : State) :
    (s.draw).alm = s.alm := rfl
@[simp] theorem draw_pw (s : State) :
    (s.draw).pw = s.pw := rfl
@[simp] theorem draw_hv (s : State) :
    (s.draw).hv = s.hv := rfl
@[simp] theorem draw_rx (s : State) :
    (s.draw).rx = s.rx := rfl
@[simp] theorem draw_fl (s : State) :
    (s.draw).fl = s.fl := rfl
@[simp] theorem draw_ce (s : State) :
    (s.draw).ce = s.ce := rfl
@[simp] theorem draw_hs (s : State) :
    (s.draw).hs = s.hs := rfl
@[simp] theorem draw_dev (s : State) :
    (s.draw).dev = s.dev := rfl
@[simp] theorem draw_timeUs (s : State) :
    (s.draw).timeUs = s.timeUs := rfl
@[simp] theorem draw_pending (s : State) :
    (s.draw).pending = s.pending := rfl
/-! ### `State.stall` -/

@[simp] theorem stall_slices (s : State) (c : CellId) (o : Nat) :
    (s.stall c o).slices = s.slices := rfl
@[simp] theorem stall_mem (s : State) (c : CellId) (o : Nat) :
    (s.stall c o).mem = s.mem := rfl
@[simp] theorem stall_fregs (s : State) (c : CellId) (o : Nat) :
    (s.stall c o).fregs = s.fregs := rfl
@[simp] theorem stall_sync (s : State) (c : CellId) (o : Nat) :
    (s.stall c o).sync = s.sync := rfl
@[simp] theorem stall_alm (s : State) (c : CellId) (o : Nat) :
    (s.stall c o).alm = s.alm := rfl
@[simp] theorem stall_pw (s : State) (c : CellId) (o : Nat) :
    (s.stall c o).pw = s.pw := rfl
@[simp] theorem stall_hv (s : State) (c : CellId) (o : Nat) :
    (s.stall c o).hv = s.hv := rfl
@[simp] theorem stall_rx (s : State) (c : CellId) (o : Nat) :
    (s.stall c o).rx = s.rx := rfl
@[simp] theorem stall_fl (s : State) (c : CellId) (o : Nat) :
    (s.stall c o).fl = s.fl := rfl
@[simp] theorem stall_ce (s : State) (c : CellId) (o : Nat) :
    (s.stall c o).ce = s.ce := rfl
@[simp] theorem stall_hs (s : State) (c : CellId) (o : Nat) :
    (s.stall c o).hs = s.hs := rfl
@[simp] theorem stall_dev (s : State) (c : CellId) (o : Nat) :
    (s.stall c o).dev = s.dev := rfl
@[simp] theorem stall_timeUs (s : State) (c : CellId) (o : Nat) :
    (s.stall c o).timeUs = s.timeUs := rfl
@[simp] theorem stall_pending (s : State) (c : CellId) (o : Nat) :
    (s.stall c o).pending = s.pending := rfl
/-! ### `State.stallF` -/

@[simp] theorem stallF_cells (s : State) (a : Nat) :
    (s.stallF a).cells = s.cells := rfl
@[simp] theorem stallF_slices (s : State) (a : Nat) :
    (s.stallF a).slices = s.slices := rfl
@[simp] theorem stallF_mem (s : State) (a : Nat) :
    (s.stallF a).mem = s.mem := rfl
@[simp] theorem stallF_sync (s : State) (a : Nat) :
    (s.stallF a).sync = s.sync := rfl
@[simp] theorem stallF_alm (s : State) (a : Nat) :
    (s.stallF a).alm = s.alm := rfl
@[simp] theorem stallF_pw (s : State) (a : Nat) :
    (s.stallF a).pw = s.pw := rfl
@[simp] theorem stallF_hv (s : State) (a : Nat) :
    (s.stallF a).hv = s.hv := rfl
@[simp] theorem stallF_rx (s : State) (a : Nat) :
    (s.stallF a).rx = s.rx := rfl
@[simp] theorem stallF_fl (s : State) (a : Nat) :
    (s.stallF a).fl = s.fl := rfl
@[simp] theorem stallF_ce (s : State) (a : Nat) :
    (s.stallF a).ce = s.ce := rfl
@[simp] theorem stallF_hs (s : State) (a : Nat) :
    (s.stallF a).hs = s.hs := rfl
@[simp] theorem stallF_dev (s : State) (a : Nat) :
    (s.stallF a).dev = s.dev := rfl
@[simp] theorem stallF_timeUs (s : State) (a : Nat) :
    (s.stallF a).timeUs = s.timeUs := rfl
@[simp] theorem stallF_pending (s : State) (a : Nat) :
    (s.stallF a).pending = s.pending := rfl
/-! ### `State.hbmWrite` -/

@[simp] theorem hbmWrite_cells (s : State) (pa : Nat) (bs : List PByte) :
    (s.hbmWrite pa bs).cells = s.cells := rfl
@[simp] theorem hbmWrite_slices (s : State) (pa : Nat) (bs : List PByte) :
    (s.hbmWrite pa bs).slices = s.slices := rfl
@[simp] theorem hbmWrite_fregs (s : State) (pa : Nat) (bs : List PByte) :
    (s.hbmWrite pa bs).fregs = s.fregs := rfl
@[simp] theorem hbmWrite_sync (s : State) (pa : Nat) (bs : List PByte) :
    (s.hbmWrite pa bs).sync = s.sync := rfl
@[simp] theorem hbmWrite_alm (s : State) (pa : Nat) (bs : List PByte) :
    (s.hbmWrite pa bs).alm = s.alm := rfl
@[simp] theorem hbmWrite_pw (s : State) (pa : Nat) (bs : List PByte) :
    (s.hbmWrite pa bs).pw = s.pw := rfl
@[simp] theorem hbmWrite_hv (s : State) (pa : Nat) (bs : List PByte) :
    (s.hbmWrite pa bs).hv = s.hv := rfl
@[simp] theorem hbmWrite_rx (s : State) (pa : Nat) (bs : List PByte) :
    (s.hbmWrite pa bs).rx = s.rx := rfl
@[simp] theorem hbmWrite_fl (s : State) (pa : Nat) (bs : List PByte) :
    (s.hbmWrite pa bs).fl = s.fl := rfl
@[simp] theorem hbmWrite_ce (s : State) (pa : Nat) (bs : List PByte) :
    (s.hbmWrite pa bs).ce = s.ce := rfl
@[simp] theorem hbmWrite_hs (s : State) (pa : Nat) (bs : List PByte) :
    (s.hbmWrite pa bs).hs = s.hs := rfl
@[simp] theorem hbmWrite_dev (s : State) (pa : Nat) (bs : List PByte) :
    (s.hbmWrite pa bs).dev = s.dev := rfl
@[simp] theorem hbmWrite_timeUs (s : State) (pa : Nat) (bs : List PByte) :
    (s.hbmWrite pa bs).timeUs = s.timeUs := rfl
@[simp] theorem hbmWrite_free (s : State) (pa : Nat) (bs : List PByte) :
    (s.hbmWrite pa bs).free = s.free := rfl
@[simp] theorem hbmWrite_pending (s : State) (pa : Nat) (bs : List PByte) :
    (s.hbmWrite pa bs).pending = s.pending := rfl
/-! ### `State.hostWrite` -/

@[simp] theorem hostWrite_cells (s : State) (ha : Nat) (bs : List PByte) :
    (s.hostWrite ha bs).cells = s.cells := rfl
@[simp] theorem hostWrite_slices (s : State) (ha : Nat) (bs : List PByte) :
    (s.hostWrite ha bs).slices = s.slices := rfl
@[simp] theorem hostWrite_fregs (s : State) (ha : Nat) (bs : List PByte) :
    (s.hostWrite ha bs).fregs = s.fregs := rfl
@[simp] theorem hostWrite_sync (s : State) (ha : Nat) (bs : List PByte) :
    (s.hostWrite ha bs).sync = s.sync := rfl
@[simp] theorem hostWrite_alm (s : State) (ha : Nat) (bs : List PByte) :
    (s.hostWrite ha bs).alm = s.alm := rfl
@[simp] theorem hostWrite_pw (s : State) (ha : Nat) (bs : List PByte) :
    (s.hostWrite ha bs).pw = s.pw := rfl
@[simp] theorem hostWrite_hv (s : State) (ha : Nat) (bs : List PByte) :
    (s.hostWrite ha bs).hv = s.hv := rfl
@[simp] theorem hostWrite_rx (s : State) (ha : Nat) (bs : List PByte) :
    (s.hostWrite ha bs).rx = s.rx := rfl
@[simp] theorem hostWrite_fl (s : State) (ha : Nat) (bs : List PByte) :
    (s.hostWrite ha bs).fl = s.fl := rfl
@[simp] theorem hostWrite_ce (s : State) (ha : Nat) (bs : List PByte) :
    (s.hostWrite ha bs).ce = s.ce := rfl
@[simp] theorem hostWrite_hs (s : State) (ha : Nat) (bs : List PByte) :
    (s.hostWrite ha bs).hs = s.hs := rfl
@[simp] theorem hostWrite_dev (s : State) (ha : Nat) (bs : List PByte) :
    (s.hostWrite ha bs).dev = s.dev := rfl
@[simp] theorem hostWrite_timeUs (s : State) (ha : Nat) (bs : List PByte) :
    (s.hostWrite ha bs).timeUs = s.timeUs := rfl
@[simp] theorem hostWrite_free (s : State) (ha : Nat) (bs : List PByte) :
    (s.hostWrite ha bs).free = s.free := rfl
@[simp] theorem hostWrite_pending (s : State) (ha : Nat) (bs : List PByte) :
    (s.hostWrite ha bs).pending = s.pending := rfl
/-! ### `State.answer` -/

@[simp] theorem answer_cells (s : State) (r : Reply) :
    (s.answer r).cells = s.cells := rfl
@[simp] theorem answer_slices (s : State) (r : Reply) :
    (s.answer r).slices = s.slices := rfl
@[simp] theorem answer_mem (s : State) (r : Reply) :
    (s.answer r).mem = s.mem := rfl
@[simp] theorem answer_fregs (s : State) (r : Reply) :
    (s.answer r).fregs = s.fregs := rfl
@[simp] theorem answer_sync (s : State) (r : Reply) :
    (s.answer r).sync = s.sync := rfl
@[simp] theorem answer_alm (s : State) (r : Reply) :
    (s.answer r).alm = s.alm := rfl
@[simp] theorem answer_pw (s : State) (r : Reply) :
    (s.answer r).pw = s.pw := rfl
@[simp] theorem answer_hv (s : State) (r : Reply) :
    (s.answer r).hv = s.hv := rfl
@[simp] theorem answer_rx (s : State) (r : Reply) :
    (s.answer r).rx = s.rx := rfl
@[simp] theorem answer_fl (s : State) (r : Reply) :
    (s.answer r).fl = s.fl := rfl
@[simp] theorem answer_ce (s : State) (r : Reply) :
    (s.answer r).ce = s.ce := rfl
@[simp] theorem answer_dev (s : State) (r : Reply) :
    (s.answer r).dev = s.dev := rfl
@[simp] theorem answer_timeUs (s : State) (r : Reply) :
    (s.answer r).timeUs = s.timeUs := rfl
@[simp] theorem answer_free (s : State) (r : Reply) :
    (s.answer r).free = s.free := rfl
@[simp] theorem answer_pending (s : State) (r : Reply) :
    (s.answer r).pending = s.pending := rfl
/-! ### `State.setInst` -/

@[simp] theorem setInst_cells (s : State) (k : Fin 32) (i : Option Inst) :
    (s.setInst k i).cells = s.cells := rfl
@[simp] theorem setInst_slices (s : State) (k : Fin 32) (i : Option Inst) :
    (s.setInst k i).slices = s.slices := rfl
@[simp] theorem setInst_mem (s : State) (k : Fin 32) (i : Option Inst) :
    (s.setInst k i).mem = s.mem := rfl
@[simp] theorem setInst_fregs (s : State) (k : Fin 32) (i : Option Inst) :
    (s.setInst k i).fregs = s.fregs := rfl
@[simp] theorem setInst_sync (s : State) (k : Fin 32) (i : Option Inst) :
    (s.setInst k i).sync = s.sync := rfl
@[simp] theorem setInst_alm (s : State) (k : Fin 32) (i : Option Inst) :
    (s.setInst k i).alm = s.alm := rfl
@[simp] theorem setInst_pw (s : State) (k : Fin 32) (i : Option Inst) :
    (s.setInst k i).pw = s.pw := rfl
@[simp] theorem setInst_hv (s : State) (k : Fin 32) (i : Option Inst) :
    (s.setInst k i).hv = s.hv := rfl
@[simp] theorem setInst_rx (s : State) (k : Fin 32) (i : Option Inst) :
    (s.setInst k i).rx = s.rx := rfl
@[simp] theorem setInst_fl (s : State) (k : Fin 32) (i : Option Inst) :
    (s.setInst k i).fl = s.fl := rfl
@[simp] theorem setInst_hs (s : State) (k : Fin 32) (i : Option Inst) :
    (s.setInst k i).hs = s.hs := rfl
@[simp] theorem setInst_dev (s : State) (k : Fin 32) (i : Option Inst) :
    (s.setInst k i).dev = s.dev := rfl
@[simp] theorem setInst_timeUs (s : State) (k : Fin 32) (i : Option Inst) :
    (s.setInst k i).timeUs = s.timeUs := rfl
@[simp] theorem setInst_free (s : State) (k : Fin 32) (i : Option Inst) :
    (s.setInst k i).free = s.free := rfl
@[simp] theorem setInst_pending (s : State) (k : Fin 32) (i : Option Inst) :
    (s.setInst k i).pending = s.pending := rfl
/-! ### What is read after an update -/

@[simp] theorem cell_setCell_self (s : State) (c : CellId) (x : Cell) : (s.setCell c x).cell c = x := by
  simp [State.setCell, State.cell]

theorem cell_setCell_other (s : State) {c d : CellId} (x : Cell) (h : d ≠ c) :
    (s.setCell c x).cell d = s.cell d := by
  simp [State.setCell, State.cell, Fin.val_ne_of_ne (Ne.symm h)]

/-- Which cell is read after a cell is set. -/
theorem cell_setCell (s : State) (c d : CellId) (x : Cell) :
    (s.setCell c x).cell d = if d = c then x else s.cell d := by
  split
  · subst_vars; simp
  · exact cell_setCell_other s x ‹_›

@[simp] theorem setCell_setCell (s : State) (c : CellId) (x y : Cell) :
    (s.setCell c x).setCell c y = s.setCell c y := by
  simp [State.setCell]

@[simp] theorem setCell_cell (s : State) (c : CellId) : s.setCell c (s.cell c) = s := by
  simp [State.setCell, State.cell]

@[simp] theorem cell_modCell_self (s : State) (c : CellId) (f : Cell → Cell) :
    (s.modCell c f).cell c = f (s.cell c) := by simp [State.modCell]

theorem cell_modCell_other (s : State) {c d : CellId} (f : Cell → Cell) (h : d ≠ c) :
    (s.modCell c f).cell d = s.cell d := cell_setCell_other s _ h

@[simp] theorem cell_setFreg (s : State) (a v : Nat) (c : CellId) : (s.setFreg a v).cell c = s.cell c := rfl
@[simp] theorem cell_count (s : State) (a n : Nat) (c : CellId) : (s.count a n).cell c = s.cell c := rfl
@[simp] theorem cell_orFreg (s : State) (a m : Nat) (c : CellId) : (s.orFreg a m).cell c = s.cell c := rfl
@[simp] theorem cell_clrFreg (s : State) (a m : Nat) (c : CellId) : (s.clrFreg a m).cell c = s.cell c := rfl
@[simp] theorem cell_draw (s : State) (c : CellId) : s.draw.cell c = s.cell c := rfl
@[simp] theorem cell_setSlice (s : State) (n : CellId) (x : Slice) (c : CellId) :
    (s.setSlice n x).cell c = s.cell c := rfl
@[simp] theorem cell_hbmWrite (s : State) (pa : Nat) (bs : List PByte) (c : CellId) :
    (s.hbmWrite pa bs).cell c = s.cell c := rfl
@[simp] theorem freg_setCell (s : State) (c : CellId) (x : Cell) (a : Nat) : (s.setCell c x).freg a = s.freg a := rfl
@[simp] theorem freg_modCell (s : State) (c : CellId) (f : Cell → Cell) (a : Nat) :
    (s.modCell c f).freg a = s.freg a := rfl
@[simp] theorem freg_draw (s : State) (a : Nat) : s.draw.freg a = s.freg a := rfl

@[simp] theorem slice_setSlice_self (s : State) (n : CellId) (x : Slice) : (s.setSlice n x).slice n = x := by
  simp [State.setSlice, State.slice]

theorem slice_setSlice_other (s : State) {n m : CellId} (x : Slice) (h : m ≠ n) :
    (s.setSlice n x).slice m = s.slice m := by
  simp [State.setSlice, State.slice, Fin.val_ne_of_ne (Ne.symm h)]

@[simp] theorem draw_setCell (s : State) (c : CellId) (x : Cell) : (s.setCell c x).draw = s.draw.setCell c x := rfl

/-! ### Registers -/

/-- A floor register reads as it was set (R246). -/
theorem freg_setFreg_self (s : State) (a v : Nat) (hw : SMap.wf floorResetVal s.fregs = true) :
    (s.setFreg a v).freg a = v % 2 ^ 64 := by
  simp [State.freg, State.setFreg, smap_get_set_self _ _ _ _ hw]

/-- A write leaves every other floor register. -/
theorem freg_setFreg_other (s : State) {a b : Nat} (v : Nat) (h : b ≠ a) : (s.setFreg a v).freg b = s.freg b := by
  simp [State.freg, State.setFreg, smap_get_set_other _ _ _ h]

/-- A cell register reads as it was set (R154). -/
theorem reg_setReg_self (x : Cell) (o v : Nat) (hw : SMap.wf cellResetVal x.regs = true) :
    (x.setReg o v).reg o = v % 2 ^ 64 := by
  simp [Cell.reg, Cell.setReg, smap_get_set_self _ _ _ _ hw]

/-- A write leaves every other register of the cell. -/
theorem reg_setReg_other (x : Cell) {o p : Nat} (v : Nat) (h : p ≠ o) : (x.setReg o v).reg p = x.reg p := by
  simp [Cell.reg, Cell.setReg, smap_get_set_other _ _ _ h]

/-- Counting leaves every other register of the cell. -/
theorem reg_count_other (x : Cell) {o p : Nat} (n : Nat) (h : p ≠ o) : (x.count o n).reg p = x.reg p :=
  reg_setReg_other x _ h

/-- s0 reads as zero (R153). -/
@[simp] theorem rdS_zero (x : Cell) : x.rdS 0 = 0 := rfl

/-- A write to s0 is discarded (R153). -/
@[simp] theorem wrS_zero (x : Cell) (v : Word) : x.wrS 0 v = x := rfl

/-- A scalar register other than s0 reads as it was written (R153). -/
theorem rdS_wrS_self (x : Cell) {n : BitVec 5} (v : Word) (h : n ≠ 0) : (x.wrS n v).rdS n = v := by
  unfold Cell.rdS Cell.wrS; rw [if_neg h, if_neg h]; simp

/-- A write leaves every other scalar register. -/
theorem rdS_wrS_other (x : Cell) {n m : BitVec 5} (v : Word) (h : m ≠ n) : (x.wrS n v).rdS m = x.rdS m := by
  unfold Cell.rdS Cell.wrS
  split
  · rfl
  · split
    · rfl
    · have : n.toNat ≠ m.toNat := fun e => h (BitVec.eq_of_toNat_eq e).symm
      simp [this]

/-- A descriptor register reads as it was written (R153). -/
@[simp] theorem rdD_wrD_self (x : Cell) (n : BitVec 4) (v : Desc) : (x.wrD n v).rdD n = v := by
  simp [Cell.rdD, Cell.wrD]

/-- A write leaves every other descriptor register. -/
theorem rdD_wrD_other (x : Cell) {n m : BitVec 4} (v : Desc) (h : m ≠ n) : (x.wrD n v).rdD m = x.rdD m := by
  have : n.toNat ≠ m.toNat := fun e => h (BitVec.eq_of_toNat_eq e).symm
  simp [Cell.rdD, Cell.wrD, this]

/-! ### Fields of a cell -/

@[simp] theorem setReg_s (x : Cell) (o v : Nat) : (x.setReg o v).s = x.s := rfl
@[simp] theorem setReg_d (x : Cell) (o v : Nat) : (x.setReg o v).d = x.d := rfl
@[simp] theorem setReg_acc (x : Cell) (o v : Nat) : (x.setReg o v).acc = x.acc := rfl
@[simp] theorem setReg_masks (x : Cell) (o v : Nat) : (x.setReg o v).masks = x.masks := rfl
@[simp] theorem setReg_oc (x : Cell) (o v : Nat) : (x.setReg o v).oc = x.oc := rfl
@[simp] theorem setReg_ocPoison (x : Cell) (o v : Nat) : (x.setReg o v).ocPoison = x.ocPoison := rfl
@[simp] theorem setReg_im (x : Cell) (o v : Nat) : (x.setReg o v).im = x.im := rfl
@[simp] theorem setReg_imBad (x : Cell) (o v : Nat) : (x.setReg o v).imBad = x.imBad := rfl
@[simp] theorem setReg_ocEpoch (x : Cell) (o v : Nat) : (x.setReg o v).ocEpoch = x.ocEpoch := rfl
@[simp] theorem setReg_imEpoch (x : Cell) (o v : Nat) : (x.setReg o v).imEpoch = x.imEpoch := rfl
@[simp] theorem setReg_accEpoch (x : Cell) (o v : Nat) : (x.setReg o v).accEpoch = x.accEpoch := rfl
@[simp] theorem setReg_sems (x : Cell) (o v : Nat) : (x.setReg o v).sems = x.sems := rfl
@[simp] theorem setReg_qs (x : Cell) (o v : Nat) : (x.setReg o v).qs = x.qs := rfl
@[simp] theorem setReg_slots (x : Cell) (o v : Nat) : (x.setReg o v).slots = x.slots := rfl
@[simp] theorem setReg_mode (x : Cell) (o v : Nat) : (x.setReg o v).mode = x.mode := rfl
@[simp] theorem setReg_inHandler (x : Cell) (o v : Nat) : (x.setReg o v).inHandler = x.inHandler := rfl
@[simp] theorem setReg_lent (x : Cell) (o v : Nat) : (x.setReg o v).lent = x.lent := rfl
@[simp] theorem setReg_npc (x : Cell) (o v : Nat) : (x.setReg o v).npc = x.npc := rfl
@[simp] theorem setReg_window (x : Cell) (o v : Nat) : (x.setReg o v).window = x.window := rfl
@[simp] theorem setReg_retStack (x : Cell) (o v : Nat) : (x.setReg o v).retStack = x.retStack := rfl
@[simp] theorem setReg_loops (x : Cell) (o v : Nat) : (x.setReg o v).loops = x.loops := rfl
@[simp] theorem setReg_trips (x : Cell) (o v : Nat) : (x.setReg o v).trips = x.trips := rfl
@[simp] theorem setReg_runahead (x : Cell) (o v : Nat) : (x.setReg o v).runahead = x.runahead := rfl
@[simp] theorem setReg_stuck (x : Cell) (o v : Nat) : (x.setReg o v).stuck = x.stuck := rfl
@[simp] theorem setReg_wantArray (x : Cell) (o v : Nat) : (x.setReg o v).wantArray = x.wantArray := rfl
@[simp] theorem setReg_fetchReq (x : Cell) (o v : Nat) : (x.setReg o v).fetchReq = x.fetchReq := rfl
@[simp] theorem setReg_fetchRefused (x : Cell) (o v : Nat) : (x.setReg o v).fetchRefused = x.fetchRefused := rfl
@[simp] theorem setReg_fetchVa (x : Cell) (o v : Nat) : (x.setReg o v).fetchVa = x.fetchVa := rfl
@[simp] theorem setReg_shareNow (x : Cell) (o v : Nat) : (x.setReg o v).shareNow = x.shareNow := rfl
@[simp] theorem setReg_mx (x : Cell) (o v : Nat) : (x.setReg o v).mx = x.mx := rfl
@[simp] theorem setReg_cp (x : Cell) (o v : Nat) : (x.setReg o v).cp = x.cp := rfl
@[simp] theorem cellCount_s (x : Cell) (o n : Nat) : (x.count o n).s = x.s := rfl
@[simp] theorem cellCount_d (x : Cell) (o n : Nat) : (x.count o n).d = x.d := rfl
@[simp] theorem cellCount_acc (x : Cell) (o n : Nat) : (x.count o n).acc = x.acc := rfl
@[simp] theorem cellCount_masks (x : Cell) (o n : Nat) : (x.count o n).masks = x.masks := rfl
@[simp] theorem cellCount_oc (x : Cell) (o n : Nat) : (x.count o n).oc = x.oc := rfl
@[simp] theorem cellCount_ocPoison (x : Cell) (o n : Nat) : (x.count o n).ocPoison = x.ocPoison := rfl
@[simp] theorem cellCount_im (x : Cell) (o n : Nat) : (x.count o n).im = x.im := rfl
@[simp] theorem cellCount_imBad (x : Cell) (o n : Nat) : (x.count o n).imBad = x.imBad := rfl
@[simp] theorem cellCount_ocEpoch (x : Cell) (o n : Nat) : (x.count o n).ocEpoch = x.ocEpoch := rfl
@[simp] theorem cellCount_imEpoch (x : Cell) (o n : Nat) : (x.count o n).imEpoch = x.imEpoch := rfl
@[simp] theorem cellCount_accEpoch (x : Cell) (o n : Nat) : (x.count o n).accEpoch = x.accEpoch := rfl
@[simp] theorem cellCount_sems (x : Cell) (o n : Nat) : (x.count o n).sems = x.sems := rfl
@[simp] theorem cellCount_qs (x : Cell) (o n : Nat) : (x.count o n).qs = x.qs := rfl
@[simp] theorem cellCount_slots (x : Cell) (o n : Nat) : (x.count o n).slots = x.slots := rfl
@[simp] theorem cellCount_mode (x : Cell) (o n : Nat) : (x.count o n).mode = x.mode := rfl
@[simp] theorem cellCount_inHandler (x : Cell) (o n : Nat) : (x.count o n).inHandler = x.inHandler := rfl
@[simp] theorem cellCount_lent (x : Cell) (o n : Nat) : (x.count o n).lent = x.lent := rfl
@[simp] theorem cellCount_npc (x : Cell) (o n : Nat) : (x.count o n).npc = x.npc := rfl
@[simp] theorem cellCount_window (x : Cell) (o n : Nat) : (x.count o n).window = x.window := rfl
@[simp] theorem cellCount_retStack (x : Cell) (o n : Nat) : (x.count o n).retStack = x.retStack := rfl
@[simp] theorem cellCount_loops (x : Cell) (o n : Nat) : (x.count o n).loops = x.loops := rfl
@[simp] theorem cellCount_trips (x : Cell) (o n : Nat) : (x.count o n).trips = x.trips := rfl
@[simp] theorem cellCount_runahead (x : Cell) (o n : Nat) : (x.count o n).runahead = x.runahead := rfl
@[simp] theorem cellCount_stuck (x : Cell) (o n : Nat) : (x.count o n).stuck = x.stuck := rfl
@[simp] theorem cellCount_wantArray (x : Cell) (o n : Nat) : (x.count o n).wantArray = x.wantArray := rfl
@[simp] theorem cellCount_fetchReq (x : Cell) (o n : Nat) : (x.count o n).fetchReq = x.fetchReq := rfl
@[simp] theorem cellCount_fetchRefused (x : Cell) (o n : Nat) : (x.count o n).fetchRefused = x.fetchRefused := rfl
@[simp] theorem cellCount_fetchVa (x : Cell) (o n : Nat) : (x.count o n).fetchVa = x.fetchVa := rfl
@[simp] theorem cellCount_shareNow (x : Cell) (o n : Nat) : (x.count o n).shareNow = x.shareNow := rfl
@[simp] theorem cellCount_mx (x : Cell) (o n : Nat) : (x.count o n).mx = x.mx := rfl
@[simp] theorem cellCount_cp (x : Cell) (o n : Nat) : (x.count o n).cp = x.cp := rfl
@[simp] theorem orReg_s (x : Cell) (o m : Nat) : (x.orReg o m).s = x.s := rfl
@[simp] theorem orReg_d (x : Cell) (o m : Nat) : (x.orReg o m).d = x.d := rfl
@[simp] theorem orReg_acc (x : Cell) (o m : Nat) : (x.orReg o m).acc = x.acc := rfl
@[simp] theorem orReg_masks (x : Cell) (o m : Nat) : (x.orReg o m).masks = x.masks := rfl
@[simp] theorem orReg_oc (x : Cell) (o m : Nat) : (x.orReg o m).oc = x.oc := rfl
@[simp] theorem orReg_ocPoison (x : Cell) (o m : Nat) : (x.orReg o m).ocPoison = x.ocPoison := rfl
@[simp] theorem orReg_im (x : Cell) (o m : Nat) : (x.orReg o m).im = x.im := rfl
@[simp] theorem orReg_imBad (x : Cell) (o m : Nat) : (x.orReg o m).imBad = x.imBad := rfl
@[simp] theorem orReg_ocEpoch (x : Cell) (o m : Nat) : (x.orReg o m).ocEpoch = x.ocEpoch := rfl
@[simp] theorem orReg_imEpoch (x : Cell) (o m : Nat) : (x.orReg o m).imEpoch = x.imEpoch := rfl
@[simp] theorem orReg_accEpoch (x : Cell) (o m : Nat) : (x.orReg o m).accEpoch = x.accEpoch := rfl
@[simp] theorem orReg_sems (x : Cell) (o m : Nat) : (x.orReg o m).sems = x.sems := rfl
@[simp] theorem orReg_qs (x : Cell) (o m : Nat) : (x.orReg o m).qs = x.qs := rfl
@[simp] theorem orReg_slots (x : Cell) (o m : Nat) : (x.orReg o m).slots = x.slots := rfl
@[simp] theorem orReg_mode (x : Cell) (o m : Nat) : (x.orReg o m).mode = x.mode := rfl
@[simp] theorem orReg_inHandler (x : Cell) (o m : Nat) : (x.orReg o m).inHandler = x.inHandler := rfl
@[simp] theorem orReg_lent (x : Cell) (o m : Nat) : (x.orReg o m).lent = x.lent := rfl
@[simp] theorem orReg_npc (x : Cell) (o m : Nat) : (x.orReg o m).npc = x.npc := rfl
@[simp] theorem orReg_window (x : Cell) (o m : Nat) : (x.orReg o m).window = x.window := rfl
@[simp] theorem orReg_retStack (x : Cell) (o m : Nat) : (x.orReg o m).retStack = x.retStack := rfl
@[simp] theorem orReg_loops (x : Cell) (o m : Nat) : (x.orReg o m).loops = x.loops := rfl
@[simp] theorem orReg_trips (x : Cell) (o m : Nat) : (x.orReg o m).trips = x.trips := rfl
@[simp] theorem orReg_runahead (x : Cell) (o m : Nat) : (x.orReg o m).runahead = x.runahead := rfl
@[simp] theorem orReg_stuck (x : Cell) (o m : Nat) : (x.orReg o m).stuck = x.stuck := rfl
@[simp] theorem orReg_wantArray (x : Cell) (o m : Nat) : (x.orReg o m).wantArray = x.wantArray := rfl
@[simp] theorem orReg_fetchReq (x : Cell) (o m : Nat) : (x.orReg o m).fetchReq = x.fetchReq := rfl
@[simp] theorem orReg_fetchRefused (x : Cell) (o m : Nat) : (x.orReg o m).fetchRefused = x.fetchRefused := rfl
@[simp] theorem orReg_fetchVa (x : Cell) (o m : Nat) : (x.orReg o m).fetchVa = x.fetchVa := rfl
@[simp] theorem orReg_shareNow (x : Cell) (o m : Nat) : (x.orReg o m).shareNow = x.shareNow := rfl
@[simp] theorem orReg_mx (x : Cell) (o m : Nat) : (x.orReg o m).mx = x.mx := rfl
@[simp] theorem orReg_cp (x : Cell) (o m : Nat) : (x.orReg o m).cp = x.cp := rfl
@[simp] theorem clrReg_s (x : Cell) (o m : Nat) : (x.clrReg o m).s = x.s := rfl
@[simp] theorem clrReg_d (x : Cell) (o m : Nat) : (x.clrReg o m).d = x.d := rfl
@[simp] theorem clrReg_acc (x : Cell) (o m : Nat) : (x.clrReg o m).acc = x.acc := rfl
@[simp] theorem clrReg_masks (x : Cell) (o m : Nat) : (x.clrReg o m).masks = x.masks := rfl
@[simp] theorem clrReg_oc (x : Cell) (o m : Nat) : (x.clrReg o m).oc = x.oc := rfl
@[simp] theorem clrReg_ocPoison (x : Cell) (o m : Nat) : (x.clrReg o m).ocPoison = x.ocPoison := rfl
@[simp] theorem clrReg_im (x : Cell) (o m : Nat) : (x.clrReg o m).im = x.im := rfl
@[simp] theorem clrReg_imBad (x : Cell) (o m : Nat) : (x.clrReg o m).imBad = x.imBad := rfl
@[simp] theorem clrReg_ocEpoch (x : Cell) (o m : Nat) : (x.clrReg o m).ocEpoch = x.ocEpoch := rfl
@[simp] theorem clrReg_imEpoch (x : Cell) (o m : Nat) : (x.clrReg o m).imEpoch = x.imEpoch := rfl
@[simp] theorem clrReg_accEpoch (x : Cell) (o m : Nat) : (x.clrReg o m).accEpoch = x.accEpoch := rfl
@[simp] theorem clrReg_sems (x : Cell) (o m : Nat) : (x.clrReg o m).sems = x.sems := rfl
@[simp] theorem clrReg_qs (x : Cell) (o m : Nat) : (x.clrReg o m).qs = x.qs := rfl
@[simp] theorem clrReg_slots (x : Cell) (o m : Nat) : (x.clrReg o m).slots = x.slots := rfl
@[simp] theorem clrReg_mode (x : Cell) (o m : Nat) : (x.clrReg o m).mode = x.mode := rfl
@[simp] theorem clrReg_inHandler (x : Cell) (o m : Nat) : (x.clrReg o m).inHandler = x.inHandler := rfl
@[simp] theorem clrReg_lent (x : Cell) (o m : Nat) : (x.clrReg o m).lent = x.lent := rfl
@[simp] theorem clrReg_npc (x : Cell) (o m : Nat) : (x.clrReg o m).npc = x.npc := rfl
@[simp] theorem clrReg_window (x : Cell) (o m : Nat) : (x.clrReg o m).window = x.window := rfl
@[simp] theorem clrReg_retStack (x : Cell) (o m : Nat) : (x.clrReg o m).retStack = x.retStack := rfl
@[simp] theorem clrReg_loops (x : Cell) (o m : Nat) : (x.clrReg o m).loops = x.loops := rfl
@[simp] theorem clrReg_trips (x : Cell) (o m : Nat) : (x.clrReg o m).trips = x.trips := rfl
@[simp] theorem clrReg_runahead (x : Cell) (o m : Nat) : (x.clrReg o m).runahead = x.runahead := rfl
@[simp] theorem clrReg_stuck (x : Cell) (o m : Nat) : (x.clrReg o m).stuck = x.stuck := rfl
@[simp] theorem clrReg_wantArray (x : Cell) (o m : Nat) : (x.clrReg o m).wantArray = x.wantArray := rfl
@[simp] theorem clrReg_fetchReq (x : Cell) (o m : Nat) : (x.clrReg o m).fetchReq = x.fetchReq := rfl
@[simp] theorem clrReg_fetchRefused (x : Cell) (o m : Nat) : (x.clrReg o m).fetchRefused = x.fetchRefused := rfl
@[simp] theorem clrReg_fetchVa (x : Cell) (o m : Nat) : (x.clrReg o m).fetchVa = x.fetchVa := rfl
@[simp] theorem clrReg_shareNow (x : Cell) (o m : Nat) : (x.clrReg o m).shareNow = x.shareNow := rfl
@[simp] theorem clrReg_mx (x : Cell) (o m : Nat) : (x.clrReg o m).mx = x.mx := rfl
@[simp] theorem clrReg_cp (x : Cell) (o m : Nat) : (x.clrReg o m).cp = x.cp := rfl
@[simp] theorem wrD_regs (x : Cell) (n : BitVec 4) (v : Desc) : (x.wrD n v).regs = x.regs := rfl
@[simp] theorem wrD_s (x : Cell) (n : BitVec 4) (v : Desc) : (x.wrD n v).s = x.s := rfl
@[simp] theorem wrD_acc (x : Cell) (n : BitVec 4) (v : Desc) : (x.wrD n v).acc = x.acc := rfl
@[simp] theorem wrD_masks (x : Cell) (n : BitVec 4) (v : Desc) : (x.wrD n v).masks = x.masks := rfl
@[simp] theorem wrD_oc (x : Cell) (n : BitVec 4) (v : Desc) : (x.wrD n v).oc = x.oc := rfl
@[simp] theorem wrD_ocPoison (x : Cell) (n : BitVec 4) (v : Desc) : (x.wrD n v).ocPoison = x.ocPoison := rfl
@[simp] theorem wrD_im (x : Cell) (n : BitVec 4) (v : Desc) : (x.wrD n v).im = x.im := rfl
@[simp] theorem wrD_imBad (x : Cell) (n : BitVec 4) (v : Desc) : (x.wrD n v).imBad = x.imBad := rfl
@[simp] theorem wrD_ocEpoch (x : Cell) (n : BitVec 4) (v : Desc) : (x.wrD n v).ocEpoch = x.ocEpoch := rfl
@[simp] theorem wrD_imEpoch (x : Cell) (n : BitVec 4) (v : Desc) : (x.wrD n v).imEpoch = x.imEpoch := rfl
@[simp] theorem wrD_accEpoch (x : Cell) (n : BitVec 4) (v : Desc) : (x.wrD n v).accEpoch = x.accEpoch := rfl
@[simp] theorem wrD_sems (x : Cell) (n : BitVec 4) (v : Desc) : (x.wrD n v).sems = x.sems := rfl
@[simp] theorem wrD_qs (x : Cell) (n : BitVec 4) (v : Desc) : (x.wrD n v).qs = x.qs := rfl
@[simp] theorem wrD_slots (x : Cell) (n : BitVec 4) (v : Desc) : (x.wrD n v).slots = x.slots := rfl
@[simp] theorem wrD_mode (x : Cell) (n : BitVec 4) (v : Desc) : (x.wrD n v).mode = x.mode := rfl
@[simp] theorem wrD_inHandler (x : Cell) (n : BitVec 4) (v : Desc) : (x.wrD n v).inHandler = x.inHandler := rfl
@[simp] theorem wrD_lent (x : Cell) (n : BitVec 4) (v : Desc) : (x.wrD n v).lent = x.lent := rfl
@[simp] theorem wrD_npc (x : Cell) (n : BitVec 4) (v : Desc) : (x.wrD n v).npc = x.npc := rfl
@[simp] theorem wrD_window (x : Cell) (n : BitVec 4) (v : Desc) : (x.wrD n v).window = x.window := rfl
@[simp] theorem wrD_retStack (x : Cell) (n : BitVec 4) (v : Desc) : (x.wrD n v).retStack = x.retStack := rfl
@[simp] theorem wrD_loops (x : Cell) (n : BitVec 4) (v : Desc) : (x.wrD n v).loops = x.loops := rfl
@[simp] theorem wrD_trips (x : Cell) (n : BitVec 4) (v : Desc) : (x.wrD n v).trips = x.trips := rfl
@[simp] theorem wrD_runahead (x : Cell) (n : BitVec 4) (v : Desc) : (x.wrD n v).runahead = x.runahead := rfl
@[simp] theorem wrD_stuck (x : Cell) (n : BitVec 4) (v : Desc) : (x.wrD n v).stuck = x.stuck := rfl
@[simp] theorem wrD_wantArray (x : Cell) (n : BitVec 4) (v : Desc) : (x.wrD n v).wantArray = x.wantArray := rfl
@[simp] theorem wrD_fetchReq (x : Cell) (n : BitVec 4) (v : Desc) : (x.wrD n v).fetchReq = x.fetchReq := rfl
@[simp] theorem wrD_fetchRefused (x : Cell) (n : BitVec 4) (v : Desc) : (x.wrD n v).fetchRefused = x.fetchRefused := rfl
@[simp] theorem wrD_fetchVa (x : Cell) (n : BitVec 4) (v : Desc) : (x.wrD n v).fetchVa = x.fetchVa := rfl
@[simp] theorem wrD_shareNow (x : Cell) (n : BitVec 4) (v : Desc) : (x.wrD n v).shareNow = x.shareNow := rfl
@[simp] theorem wrD_mx (x : Cell) (n : BitVec 4) (v : Desc) : (x.wrD n v).mx = x.mx := rfl
@[simp] theorem wrD_cp (x : Cell) (n : BitVec 4) (v : Desc) : (x.wrD n v).cp = x.cp := rfl
@[simp] theorem ocWrite_regs (x : Cell) (a : Nat) (bs : List Byte) : (x.ocWrite a bs).regs = x.regs := rfl
@[simp] theorem ocWrite_s (x : Cell) (a : Nat) (bs : List Byte) : (x.ocWrite a bs).s = x.s := rfl
@[simp] theorem ocWrite_d (x : Cell) (a : Nat) (bs : List Byte) : (x.ocWrite a bs).d = x.d := rfl
@[simp] theorem ocWrite_acc (x : Cell) (a : Nat) (bs : List Byte) : (x.ocWrite a bs).acc = x.acc := rfl
@[simp] theorem ocWrite_masks (x : Cell) (a : Nat) (bs : List Byte) : (x.ocWrite a bs).masks = x.masks := rfl
@[simp] theorem ocWrite_im (x : Cell) (a : Nat) (bs : List Byte) : (x.ocWrite a bs).im = x.im := rfl
@[simp] theorem ocWrite_imBad (x : Cell) (a : Nat) (bs : List Byte) : (x.ocWrite a bs).imBad = x.imBad := rfl
@[simp] theorem ocWrite_ocEpoch (x : Cell) (a : Nat) (bs : List Byte) : (x.ocWrite a bs).ocEpoch = x.ocEpoch := rfl
@[simp] theorem ocWrite_imEpoch (x : Cell) (a : Nat) (bs : List Byte) : (x.ocWrite a bs).imEpoch = x.imEpoch := rfl
@[simp] theorem ocWrite_accEpoch (x : Cell) (a : Nat) (bs : List Byte) : (x.ocWrite a bs).accEpoch = x.accEpoch := rfl
@[simp] theorem ocWrite_sems (x : Cell) (a : Nat) (bs : List Byte) : (x.ocWrite a bs).sems = x.sems := rfl
@[simp] theorem ocWrite_qs (x : Cell) (a : Nat) (bs : List Byte) : (x.ocWrite a bs).qs = x.qs := rfl
@[simp] theorem ocWrite_slots (x : Cell) (a : Nat) (bs : List Byte) : (x.ocWrite a bs).slots = x.slots := rfl
@[simp] theorem ocWrite_mode (x : Cell) (a : Nat) (bs : List Byte) : (x.ocWrite a bs).mode = x.mode := rfl
@[simp] theorem ocWrite_inHandler (x : Cell) (a : Nat) (bs : List Byte) : (x.ocWrite a bs).inHandler = x.inHandler := rfl
@[simp] theorem ocWrite_lent (x : Cell) (a : Nat) (bs : List Byte) : (x.ocWrite a bs).lent = x.lent := rfl
@[simp] theorem ocWrite_npc (x : Cell) (a : Nat) (bs : List Byte) : (x.ocWrite a bs).npc = x.npc := rfl
@[simp] theorem ocWrite_window (x : Cell) (a : Nat) (bs : List Byte) : (x.ocWrite a bs).window = x.window := rfl
@[simp] theorem ocWrite_retStack (x : Cell) (a : Nat) (bs : List Byte) : (x.ocWrite a bs).retStack = x.retStack := rfl
@[simp] theorem ocWrite_loops (x : Cell) (a : Nat) (bs : List Byte) : (x.ocWrite a bs).loops = x.loops := rfl
@[simp] theorem ocWrite_trips (x : Cell) (a : Nat) (bs : List Byte) : (x.ocWrite a bs).trips = x.trips := rfl
@[simp] theorem ocWrite_runahead (x : Cell) (a : Nat) (bs : List Byte) : (x.ocWrite a bs).runahead = x.runahead := rfl
@[simp] theorem ocWrite_stuck (x : Cell) (a : Nat) (bs : List Byte) : (x.ocWrite a bs).stuck = x.stuck := rfl
@[simp] theorem ocWrite_wantArray (x : Cell) (a : Nat) (bs : List Byte) : (x.ocWrite a bs).wantArray = x.wantArray := rfl
@[simp] theorem ocWrite_fetchReq (x : Cell) (a : Nat) (bs : List Byte) : (x.ocWrite a bs).fetchReq = x.fetchReq := rfl
@[simp] theorem ocWrite_fetchRefused (x : Cell) (a : Nat) (bs : List Byte) : (x.ocWrite a bs).fetchRefused = x.fetchRefused := rfl
@[simp] theorem ocWrite_fetchVa (x : Cell) (a : Nat) (bs : List Byte) : (x.ocWrite a bs).fetchVa = x.fetchVa := rfl
@[simp] theorem ocWrite_shareNow (x : Cell) (a : Nat) (bs : List Byte) : (x.ocWrite a bs).shareNow = x.shareNow := rfl
@[simp] theorem ocWrite_mx (x : Cell) (a : Nat) (bs : List Byte) : (x.ocWrite a bs).mx = x.mx := rfl
@[simp] theorem ocWrite_cp (x : Cell) (a : Nat) (bs : List Byte) : (x.ocWrite a bs).cp = x.cp := rfl
@[simp] theorem imWrite_regs (x : Cell) (a : Nat) (bs : List Byte) : (x.imWrite a bs).regs = x.regs := rfl
@[simp] theorem imWrite_s (x : Cell) (a : Nat) (bs : List Byte) : (x.imWrite a bs).s = x.s := rfl
@[simp] theorem imWrite_d (x : Cell) (a : Nat) (bs : List Byte) : (x.imWrite a bs).d = x.d := rfl
@[simp] theorem imWrite_acc (x : Cell) (a : Nat) (bs : List Byte) : (x.imWrite a bs).acc = x.acc := rfl
@[simp] theorem imWrite_masks (x : Cell) (a : Nat) (bs : List Byte) : (x.imWrite a bs).masks = x.masks := rfl
@[simp] theorem imWrite_oc (x : Cell) (a : Nat) (bs : List Byte) : (x.imWrite a bs).oc = x.oc := rfl
@[simp] theorem imWrite_ocPoison (x : Cell) (a : Nat) (bs : List Byte) : (x.imWrite a bs).ocPoison = x.ocPoison := rfl
@[simp] theorem imWrite_ocEpoch (x : Cell) (a : Nat) (bs : List Byte) : (x.imWrite a bs).ocEpoch = x.ocEpoch := rfl
@[simp] theorem imWrite_imEpoch (x : Cell) (a : Nat) (bs : List Byte) : (x.imWrite a bs).imEpoch = x.imEpoch := rfl
@[simp] theorem imWrite_accEpoch (x : Cell) (a : Nat) (bs : List Byte) : (x.imWrite a bs).accEpoch = x.accEpoch := rfl
@[simp] theorem imWrite_sems (x : Cell) (a : Nat) (bs : List Byte) : (x.imWrite a bs).sems = x.sems := rfl
@[simp] theorem imWrite_qs (x : Cell) (a : Nat) (bs : List Byte) : (x.imWrite a bs).qs = x.qs := rfl
@[simp] theorem imWrite_slots (x : Cell) (a : Nat) (bs : List Byte) : (x.imWrite a bs).slots = x.slots := rfl
@[simp] theorem imWrite_mode (x : Cell) (a : Nat) (bs : List Byte) : (x.imWrite a bs).mode = x.mode := rfl
@[simp] theorem imWrite_inHandler (x : Cell) (a : Nat) (bs : List Byte) : (x.imWrite a bs).inHandler = x.inHandler := rfl
@[simp] theorem imWrite_lent (x : Cell) (a : Nat) (bs : List Byte) : (x.imWrite a bs).lent = x.lent := rfl
@[simp] theorem imWrite_npc (x : Cell) (a : Nat) (bs : List Byte) : (x.imWrite a bs).npc = x.npc := rfl
@[simp] theorem imWrite_window (x : Cell) (a : Nat) (bs : List Byte) : (x.imWrite a bs).window = x.window := rfl
@[simp] theorem imWrite_retStack (x : Cell) (a : Nat) (bs : List Byte) : (x.imWrite a bs).retStack = x.retStack := rfl
@[simp] theorem imWrite_loops (x : Cell) (a : Nat) (bs : List Byte) : (x.imWrite a bs).loops = x.loops := rfl
@[simp] theorem imWrite_trips (x : Cell) (a : Nat) (bs : List Byte) : (x.imWrite a bs).trips = x.trips := rfl
@[simp] theorem imWrite_runahead (x : Cell) (a : Nat) (bs : List Byte) : (x.imWrite a bs).runahead = x.runahead := rfl
@[simp] theorem imWrite_stuck (x : Cell) (a : Nat) (bs : List Byte) : (x.imWrite a bs).stuck = x.stuck := rfl
@[simp] theorem imWrite_wantArray (x : Cell) (a : Nat) (bs : List Byte) : (x.imWrite a bs).wantArray = x.wantArray := rfl
@[simp] theorem imWrite_fetchReq (x : Cell) (a : Nat) (bs : List Byte) : (x.imWrite a bs).fetchReq = x.fetchReq := rfl
@[simp] theorem imWrite_fetchRefused (x : Cell) (a : Nat) (bs : List Byte) : (x.imWrite a bs).fetchRefused = x.fetchRefused := rfl
@[simp] theorem imWrite_fetchVa (x : Cell) (a : Nat) (bs : List Byte) : (x.imWrite a bs).fetchVa = x.fetchVa := rfl
@[simp] theorem imWrite_shareNow (x : Cell) (a : Nat) (bs : List Byte) : (x.imWrite a bs).shareNow = x.shareNow := rfl
@[simp] theorem imWrite_mx (x : Cell) (a : Nat) (bs : List Byte) : (x.imWrite a bs).mx = x.mx := rfl
@[simp] theorem imWrite_cp (x : Cell) (a : Nat) (bs : List Byte) : (x.imWrite a bs).cp = x.cp := rfl
@[simp] theorem accWrite_regs (x : Cell) (acc p : Nat) (vs : List (BitVec 32)) : (x.accWrite acc p vs).regs = x.regs := rfl
@[simp] theorem accWrite_s (x : Cell) (acc p : Nat) (vs : List (BitVec 32)) : (x.accWrite acc p vs).s = x.s := rfl
@[simp] theorem accWrite_d (x : Cell) (acc p : Nat) (vs : List (BitVec 32)) : (x.accWrite acc p vs).d = x.d := rfl
@[simp] theorem accWrite_masks (x : Cell) (acc p : Nat) (vs : List (BitVec 32)) : (x.accWrite acc p vs).masks = x.masks := rfl
@[simp] theorem accWrite_oc (x : Cell) (acc p : Nat) (vs : List (BitVec 32)) : (x.accWrite acc p vs).oc = x.oc := rfl
@[simp] theorem accWrite_ocPoison (x : Cell) (acc p : Nat) (vs : List (BitVec 32)) : (x.accWrite acc p vs).ocPoison = x.ocPoison := rfl
@[simp] theorem accWrite_im (x : Cell) (acc p : Nat) (vs : List (BitVec 32)) : (x.accWrite acc p vs).im = x.im := rfl
@[simp] theorem accWrite_imBad (x : Cell) (acc p : Nat) (vs : List (BitVec 32)) : (x.accWrite acc p vs).imBad = x.imBad := rfl
@[simp] theorem accWrite_ocEpoch (x : Cell) (acc p : Nat) (vs : List (BitVec 32)) : (x.accWrite acc p vs).ocEpoch = x.ocEpoch := rfl
@[simp] theorem accWrite_imEpoch (x : Cell) (acc p : Nat) (vs : List (BitVec 32)) : (x.accWrite acc p vs).imEpoch = x.imEpoch := rfl
@[simp] theorem accWrite_accEpoch (x : Cell) (acc p : Nat) (vs : List (BitVec 32)) : (x.accWrite acc p vs).accEpoch = x.accEpoch := rfl
@[simp] theorem accWrite_sems (x : Cell) (acc p : Nat) (vs : List (BitVec 32)) : (x.accWrite acc p vs).sems = x.sems := rfl
@[simp] theorem accWrite_qs (x : Cell) (acc p : Nat) (vs : List (BitVec 32)) : (x.accWrite acc p vs).qs = x.qs := rfl
@[simp] theorem accWrite_slots (x : Cell) (acc p : Nat) (vs : List (BitVec 32)) : (x.accWrite acc p vs).slots = x.slots := rfl
@[simp] theorem accWrite_mode (x : Cell) (acc p : Nat) (vs : List (BitVec 32)) : (x.accWrite acc p vs).mode = x.mode := rfl
@[simp] theorem accWrite_inHandler (x : Cell) (acc p : Nat) (vs : List (BitVec 32)) : (x.accWrite acc p vs).inHandler = x.inHandler := rfl
@[simp] theorem accWrite_lent (x : Cell) (acc p : Nat) (vs : List (BitVec 32)) : (x.accWrite acc p vs).lent = x.lent := rfl
@[simp] theorem accWrite_npc (x : Cell) (acc p : Nat) (vs : List (BitVec 32)) : (x.accWrite acc p vs).npc = x.npc := rfl
@[simp] theorem accWrite_window (x : Cell) (acc p : Nat) (vs : List (BitVec 32)) : (x.accWrite acc p vs).window = x.window := rfl
@[simp] theorem accWrite_retStack (x : Cell) (acc p : Nat) (vs : List (BitVec 32)) : (x.accWrite acc p vs).retStack = x.retStack := rfl
@[simp] theorem accWrite_loops (x : Cell) (acc p : Nat) (vs : List (BitVec 32)) : (x.accWrite acc p vs).loops = x.loops := rfl
@[simp] theorem accWrite_trips (x : Cell) (acc p : Nat) (vs : List (BitVec 32)) : (x.accWrite acc p vs).trips = x.trips := rfl
@[simp] theorem accWrite_runahead (x : Cell) (acc p : Nat) (vs : List (BitVec 32)) : (x.accWrite acc p vs).runahead = x.runahead := rfl
@[simp] theorem accWrite_stuck (x : Cell) (acc p : Nat) (vs : List (BitVec 32)) : (x.accWrite acc p vs).stuck = x.stuck := rfl
@[simp] theorem accWrite_wantArray (x : Cell) (acc p : Nat) (vs : List (BitVec 32)) : (x.accWrite acc p vs).wantArray = x.wantArray := rfl
@[simp] theorem accWrite_fetchReq (x : Cell) (acc p : Nat) (vs : List (BitVec 32)) : (x.accWrite acc p vs).fetchReq = x.fetchReq := rfl
@[simp] theorem accWrite_fetchRefused (x : Cell) (acc p : Nat) (vs : List (BitVec 32)) : (x.accWrite acc p vs).fetchRefused = x.fetchRefused := rfl
@[simp] theorem accWrite_fetchVa (x : Cell) (acc p : Nat) (vs : List (BitVec 32)) : (x.accWrite acc p vs).fetchVa = x.fetchVa := rfl
@[simp] theorem accWrite_shareNow (x : Cell) (acc p : Nat) (vs : List (BitVec 32)) : (x.accWrite acc p vs).shareNow = x.shareNow := rfl
@[simp] theorem accWrite_mx (x : Cell) (acc p : Nat) (vs : List (BitVec 32)) : (x.accWrite acc p vs).mx = x.mx := rfl
@[simp] theorem accWrite_cp (x : Cell) (acc p : Nat) (vs : List (BitVec 32)) : (x.accWrite acc p vs).cp = x.cp := rfl
@[simp] theorem wrS_regs (x : Cell) (n : BitVec 5) (v : Word) : (x.wrS n v).regs = x.regs := by
  unfold Cell.wrS; split <;> rfl
@[simp] theorem wrS_d (x : Cell) (n : BitVec 5) (v : Word) : (x.wrS n v).d = x.d := by
  unfold Cell.wrS; split <;> rfl
@[simp] theorem wrS_acc (x : Cell) (n : BitVec 5) (v : Word) : (x.wrS n v).acc = x.acc := by
  unfold Cell.wrS; split <;> rfl
@[simp] theorem wrS_masks (x : Cell) (n : BitVec 5) (v : Word) : (x.wrS n v).masks = x.masks := by
  unfold Cell.wrS; split <;> rfl
@[simp] theorem wrS_oc (x : Cell) (n : BitVec 5) (v : Word) : (x.wrS n v).oc = x.oc := by
  unfold Cell.wrS; split <;> rfl
@[simp] theorem wrS_ocPoison (x : Cell) (n : BitVec 5) (v : Word) : (x.wrS n v).ocPoison = x.ocPoison := by
  unfold Cell.wrS; split <;> rfl
@[simp] theorem wrS_im (x : Cell) (n : BitVec 5) (v : Word) : (x.wrS n v).im = x.im := by
  unfold Cell.wrS; split <;> rfl
@[simp] theorem wrS_imBad (x : Cell) (n : BitVec 5) (v : Word) : (x.wrS n v).imBad = x.imBad := by
  unfold Cell.wrS; split <;> rfl
@[simp] theorem wrS_ocEpoch (x : Cell) (n : BitVec 5) (v : Word) : (x.wrS n v).ocEpoch = x.ocEpoch := by
  unfold Cell.wrS; split <;> rfl
@[simp] theorem wrS_imEpoch (x : Cell) (n : BitVec 5) (v : Word) : (x.wrS n v).imEpoch = x.imEpoch := by
  unfold Cell.wrS; split <;> rfl
@[simp] theorem wrS_accEpoch (x : Cell) (n : BitVec 5) (v : Word) : (x.wrS n v).accEpoch = x.accEpoch := by
  unfold Cell.wrS; split <;> rfl
@[simp] theorem wrS_sems (x : Cell) (n : BitVec 5) (v : Word) : (x.wrS n v).sems = x.sems := by
  unfold Cell.wrS; split <;> rfl
@[simp] theorem wrS_qs (x : Cell) (n : BitVec 5) (v : Word) : (x.wrS n v).qs = x.qs := by
  unfold Cell.wrS; split <;> rfl
@[simp] theorem wrS_slots (x : Cell) (n : BitVec 5) (v : Word) : (x.wrS n v).slots = x.slots := by
  unfold Cell.wrS; split <;> rfl
@[simp] theorem wrS_mode (x : Cell) (n : BitVec 5) (v : Word) : (x.wrS n v).mode = x.mode := by
  unfold Cell.wrS; split <;> rfl
@[simp] theorem wrS_inHandler (x : Cell) (n : BitVec 5) (v : Word) : (x.wrS n v).inHandler = x.inHandler := by
  unfold Cell.wrS; split <;> rfl
@[simp] theorem wrS_lent (x : Cell) (n : BitVec 5) (v : Word) : (x.wrS n v).lent = x.lent := by
  unfold Cell.wrS; split <;> rfl
@[simp] theorem wrS_npc (x : Cell) (n : BitVec 5) (v : Word) : (x.wrS n v).npc = x.npc := by
  unfold Cell.wrS; split <;> rfl
@[simp] theorem wrS_window (x : Cell) (n : BitVec 5) (v : Word) : (x.wrS n v).window = x.window := by
  unfold Cell.wrS; split <;> rfl
@[simp] theorem wrS_retStack (x : Cell) (n : BitVec 5) (v : Word) : (x.wrS n v).retStack = x.retStack := by
  unfold Cell.wrS; split <;> rfl
@[simp] theorem wrS_loops (x : Cell) (n : BitVec 5) (v : Word) : (x.wrS n v).loops = x.loops := by
  unfold Cell.wrS; split <;> rfl
@[simp] theorem wrS_trips (x : Cell) (n : BitVec 5) (v : Word) : (x.wrS n v).trips = x.trips := by
  unfold Cell.wrS; split <;> rfl
@[simp] theorem wrS_runahead (x : Cell) (n : BitVec 5) (v : Word) : (x.wrS n v).runahead = x.runahead := by
  unfold Cell.wrS; split <;> rfl
@[simp] theorem wrS_stuck (x : Cell) (n : BitVec 5) (v : Word) : (x.wrS n v).stuck = x.stuck := by
  unfold Cell.wrS; split <;> rfl
@[simp] theorem wrS_wantArray (x : Cell) (n : BitVec 5) (v : Word) : (x.wrS n v).wantArray = x.wantArray := by
  unfold Cell.wrS; split <;> rfl
@[simp] theorem wrS_fetchReq (x : Cell) (n : BitVec 5) (v : Word) : (x.wrS n v).fetchReq = x.fetchReq := by
  unfold Cell.wrS; split <;> rfl
@[simp] theorem wrS_fetchRefused (x : Cell) (n : BitVec 5) (v : Word) : (x.wrS n v).fetchRefused = x.fetchRefused := by
  unfold Cell.wrS; split <;> rfl
@[simp] theorem wrS_fetchVa (x : Cell) (n : BitVec 5) (v : Word) : (x.wrS n v).fetchVa = x.fetchVa := by
  unfold Cell.wrS; split <;> rfl
@[simp] theorem wrS_shareNow (x : Cell) (n : BitVec 5) (v : Word) : (x.wrS n v).shareNow = x.shareNow := by
  unfold Cell.wrS; split <;> rfl
@[simp] theorem wrS_mx (x : Cell) (n : BitVec 5) (v : Word) : (x.wrS n v).mx = x.mx := by
  unfold Cell.wrS; split <;> rfl
@[simp] theorem wrS_cp (x : Cell) (n : BitVec 5) (v : Word) : (x.wrS n v).cp = x.cp := by
  unfold Cell.wrS; split <;> rfl

end Sys2Proof.Laws
end

