-- ==== Sys2Proof/Laws/Good.lean ====
section
/-! SUPPORT. What every step keeps, as one predicate on states with a rule for each way in which a state is built: the
canonical form, the queue of waiting commands, and that nothing OTP holds is taken back. -/

namespace Sys2Proof.Laws

open Sys2Proof.Machine

/-- A state in canonical form, whose queue is p, and whose OTP has lost nothing that o holds. -/
structure Good (o : Otp) (p : List Instr) (s : State) : Prop where
  wf : s.wf = true
  otp : Otp.keeps o s.dev.fw.otp
  queue : s.pending = p

/-- Registers of a cell in canonical form. -/
def RGood (m : SMap Word) : Prop := SMap.wf cellResetVal m = true
/-- Floor and management registers in canonical form. -/
def FGood (m : SMap Word) : Prop := SMap.wf floorResetVal m = true
/-- A cell whose registers are in canonical form. -/
def CGood (x : Cell) : Prop := RGood x.regs
/-- Memory in canonical form. -/
def MGood (m : MemState) : Prop := Memory.wf m = true

/-- The list of paused interfaces (R377), the mailboxes (R427) and the flash (R475) in canonical form. -/
def BGood (paused : SMap Nat) (boxes : SMap Mailbox) (flash : Bytes) : Prop :=
  SMap.wf (fun _ => 0) paused = true ∧ SMap.wf (fun _ => ({} : Mailbox)) boxes = true ∧ SMap.wf ffByte flash = true

variable {o : Otp} {p : List Instr} {s t : State} {α β : Type}

theorem wf_iff (s : State) : s.wf = true ↔
    FGood s.fregs ∧ (∀ c : CellId, CGood (s.cell c)) ∧ MGood s.mem ∧ BGood s.fl.paused s.hs.boxes s.dev.fw.flash := by
  unfold State.wf FGood CGood RGood MGood BGood
  rw [Bool.and_eq_true, Bool.and_eq_true, Bool.and_eq_true, Bool.and_eq_true, Bool.and_eq_true, and_assoc, and_assoc,
    and_assoc]
  constructor
  · rintro ⟨h1, h2, h3⟩
    exact ⟨h1, fun c => Vector.all_eq_true.mp h2 c.val c.isLt, h3⟩
  · rintro ⟨h1, h2, h3⟩
    exact ⟨h1, Vector.all_eq_true.mpr (fun i hi => h2 ⟨i, hi⟩), h3⟩

theorem Good.floor (h : Good o p s) : FGood s.fregs := ((wf_iff s).mp h.wf).1
theorem Good.cell (h : Good o p s) (c : CellId) : CGood (s.cell c) := ((wf_iff s).mp h.wf).2.1 c
theorem Good.mem (h : Good o p s) : MGood s.mem := ((wf_iff s).mp h.wf).2.2.1
theorem Good.lists (h : Good o p s) : BGood s.fl.paused s.hs.boxes s.dev.fw.flash := ((wf_iff s).mp h.wf).2.2.2

theorem good_intro (h1 : FGood s.fregs) (h2 : ∀ c, CGood (s.cell c)) (h3 : MGood s.mem)
    (h6 : BGood s.fl.paused s.hs.boxes s.dev.fw.flash) (h4 : Otp.keeps o s.dev.fw.otp) (h5 : s.pending = p) : Good o p s :=
  ⟨(wf_iff s).mpr ⟨h1, h2, h3, h6⟩, h4, h5⟩

/-- A state that differs only in fields of which `Good` says nothing. -/
theorem good_same (h : Good o p s) (h1 : t.fregs = s.fregs) (h2 : t.cells = s.cells) (h3 : MGood t.mem = MGood s.mem)
    (h6 : t.fl.paused = s.fl.paused) (h7 : t.hs.boxes = s.hs.boxes) (h8 : t.dev.fw.flash = s.dev.fw.flash)
    (h4 : t.dev.fw.otp = s.dev.fw.otp) (h5 : t.pending = s.pending) : Good o p t := by
  refine good_intro (h1 ▸ h.floor) ?_ (h3 ▸ h.mem) (by rw [h6, h7, h8]; exact h.lists) (h4 ▸ h.otp) (h5 ▸ h.queue)
  intro c
  have := h.cell c
  unfold State.cell at this ⊢
  rw [h2]; exact this

/-- The canonical form of memory, by the fields that it is about. -/
def MGoodF (hbm : Bytes) (epoch : Nat) (tag : SMap (BitVec 32)) (host : Bytes) (lines : SMap Line) : Prop :=
  MGood { hbm := hbm, hbmEpoch := epoch, tagSyn := tag, host := host, lines := lines }

theorem mgoodF_iff (m : MemState) : MGood m ↔ MGoodF m.hbm m.hbmEpoch m.tagSyn m.host m.lines := Iff.rfl

/-- What `Good` says, by the fields of which it says something. -/
structure GoodF (o : Otp) (p pending : List Instr) (fregs : SMap Word) (cells : Vector Cell 256) (mem : MemState)
    (paused : SMap Nat) (boxes : SMap Mailbox) (flash : Bytes) (otp : Otp) : Prop where
  floor : FGood fregs
  cell : ∀ c : CellId, CGood cells[c]
  mem : MGoodF mem.hbm mem.hbmEpoch mem.tagSyn mem.host mem.lines
  lists : BGood paused boxes flash
  otp : Otp.keeps o otp
  queue : pending = p

theorem good_mk {cells : Vector Cell 256} {slices : Vector Slice 256} {mem : MemState} {fregs : SMap Word}
    {sync : SyncState} {alm : AlmState} {pw : PwrState} {hv : HvState} {rx : RxState} {fl : FlState} {ce : CeState}
    {hs : HostState} {dev : DevState} {timeUs free : Nat} {pending : List Instr} :
    Good o p (State.mk cells slices mem fregs sync alm pw hv rx fl ce hs dev timeUs free pending) ↔
      GoodF o p pending fregs cells mem fl.paused hs.boxes dev.fw.flash dev.fw.otp :=
  ⟨fun h => ⟨h.floor, h.cell, h.mem, h.lists, h.otp, h.queue⟩,
    fun h => good_intro h.floor h.cell h.mem h.lists h.otp h.queue⟩

/-! ### The named operations -/

theorem good_setCell (hs : Good o p s) (c : CellId) {x : Cell} (hx : CGood x) : Good o p (s.setCell c x) := by
  refine good_intro hs.floor ?_ hs.mem hs.lists hs.otp hs.queue
  intro d
  by_cases hd : d = c
  · subst hd; rw [cell_setCell_self]; exact hx
  · rw [cell_setCell_other _ _ hd]; exact hs.cell d

theorem good_modCell (hs : Good o p s) (c : CellId) {f : Cell → Cell} (hf : ∀ x, CGood x → CGood (f x)) :
    Good o p (s.modCell c f) := good_setCell hs c (hf _ (hs.cell c))

theorem cgood_cell (hs : Good o p s) (c : CellId) : CGood (s.cell c) := hs.cell c

theorem good_setFreg (hs : Good o p s) (a v : Nat) : Good o p (s.setFreg a v) :=
  good_intro (smap_wf_set _ _ _ _ hs.floor) hs.cell hs.mem hs.lists hs.otp hs.queue

theorem rgood_set {m : SMap Word} (h : RGood m) (k : Nat) (v : Word) : RGood (m.set cellResetVal k v) :=
  smap_wf_set _ _ _ _ h

theorem rgood_regs {x : Cell} (h : CGood x) : RGood x.regs := h

theorem rgood_nil : RGood [] := rfl

theorem smap_above_filter [DecidableEq α] (d : Nat → α) (f : Nat × α → Bool) (b : Nat) :
    ∀ m : SMap α, SMap.above b m = true → SMap.wf d m = true → SMap.above b (m.filter f) = true
  | [], _, _ => rfl
  | (a, v) :: m, h, hw => by
    simp only [SMap.wf, Bool.and_eq_true, decide_eq_true_eq] at hw
    rw [List.filter_cons]
    split
    · exact h
    · exact smap_above_filter d f b m
        (smap_above_mono (Nat.le_of_lt (by simpa [SMap.above] using h)) hw.1.1) hw.2

theorem smap_wf_filter [DecidableEq α] (d : Nat → α) (f : Nat × α → Bool) :
    ∀ m : SMap α, SMap.wf d m = true → SMap.wf d (m.filter f) = true
  | [], _ => rfl
  | (a, v) :: m, h => by
    simp only [SMap.wf, Bool.and_eq_true, decide_eq_true_eq] at h
    rw [List.filter_cons]
    split
    · simp only [SMap.wf, Bool.and_eq_true, decide_eq_true_eq]
      exact ⟨⟨smap_above_filter d f a m h.1.1 h.2, h.1.2⟩, smap_wf_filter d f m h.2⟩
    · exact smap_wf_filter d f m h.2

theorem rgood_filter {m : SMap Word} (h : RGood m) (f : Nat × Word → Bool) : RGood (m.filter f) :=
  smap_wf_filter _ f m h

theorem fgood_filter {m : SMap Word} (h : FGood m) (f : Nat × Word → Bool) : FGood (m.filter f) :=
  smap_wf_filter _ f m h

theorem fgood_fregs (hs : Good o p s) : FGood s.fregs := hs.floor

theorem cgood_mk {regs : SMap Word} {a1 a2 a3 a4 a5 a6 a7 a8 a9 a10 a11 a12 a13 a14 a15 a16 a17 a18 a19
    a20 a21 a22 a23 a24 a25 a26 a27 a28 a29 a30 a31 : _} :
    CGood (Cell.mk regs a1 a2 a3 a4 a5 a6 a7 a8 a9 a10 a11 a12 a13 a14 a15 a16 a17 a18 a19 a20 a21 a22 a23 a24 a25 a26 a27
      a28 a29 a30 a31) ↔ RGood regs := Iff.rfl

/-! ### Folds -/

theorem good_foldl {f : State → α → State} (l : List α) (hs : Good o p s) (hf : ∀ s a, Good o p s → Good o p (f s a)) :
    Good o p (l.foldl f s) := by
  induction l generalizing s with
  | nil => exact hs
  | cons a l ih => exact ih (hf s a hs)

theorem good_foldl_fst {f : State × β → α → State × β} {b : State × β} (l : List α) (hs : Good o p b.1)
    (hf : ∀ s b a, Good o p s → Good o p (f (s, b) a).1) : Good o p (l.foldl f b).1 := by
  induction l generalizing b with
  | nil => exact hs
  | cons a l ih => exact ih (hf b.1 b.2 a hs)

theorem cgood_foldl {f : Cell → α → Cell} {x : Cell} (l : List α) (hx : CGood x) (hf : ∀ x a, CGood x → CGood (f x a)) :
    CGood (l.foldl f x) := by
  induction l generalizing x with
  | nil => exact hx
  | cons a l ih => exact ih (hf x a hx)

/-! ### Answers that hold a state -/

/-- Every answer of an instruction's evaluation holds a good state. -/
def EGood (o : Otp) (p : List Instr) : Eval → Prop
  | .done s _ _ => Good o p s
  | .wait s _ => Good o p s
  | .fault s _ => Good o p s

theorem egood_done (h : Good o p s) (j : Option Word) (b : Bool) : EGood o p (.done s j b) := h
theorem egood_wait (h : Good o p s) (k : Option Nat) : EGood o p (.wait s k) := h
theorem egood_fault (h : Good o p s) (f : FaultInfo) : EGood o p (.fault s f) := h
theorem good_of_done {e : Eval} {j : Option Word} {b : Bool} (q : e = .done s j b) (h : EGood o p e) : Good o p s := by
  subst q; exact h
theorem good_of_ewait {e : Eval} {k : Option Nat} (q : e = .wait s k) (h : EGood o p e) : Good o p s := by
  subst q; exact h
theorem good_of_efault {e : Eval} {f : FaultInfo} (q : e = .fault s f) (h : EGood o p e) : Good o p s := by
  subst q; exact h

/-- The same of an access of a Harvest unit. -/
def HGood (o : Otp) (p : List Instr) : HRes α → Prop
  | .ok s _ => Good o p s
  | .wait s => Good o p s
  | .fail s _ _ => Good o p s

theorem hgood_ok (h : Good o p s) (v : α) : HGood o p (.ok s v) := h
theorem hgood_wait (h : Good o p s) : HGood o p (.wait s : HRes α) := h
theorem hgood_fail (h : Good o p s) (r va : Nat) : HGood o p (.fail s r va : HRes α) := h
theorem good_of_ok {e : HRes α} {v : α} (q : e = .ok s v) (h : HGood o p e) : Good o p s := by subst q; exact h
theorem good_of_wait {e : HRes α} (q : e = .wait s) (h : HGood o p e) : Good o p s := by subst q; exact h
theorem good_of_fail {e : HRes α} {r va : Nat} (q : e = .fail s r va) (h : HGood o p e) : Good o p s := by
  subst q; exact h

/-- The same of a virtual access. -/
def AGood (o : Otp) (p : List Instr) : AccRes α → Prop
  | .ok s _ => Good o p s
  | .wait s _ => Good o p s
  | .fault s _ => Good o p s
  | .range s => Good o p s

theorem agood_ok (h : Good o p s) (v : α) : AGood o p (.ok s v) := h
theorem agood_wait (h : Good o p s) (r : Wait) : AGood o p (.wait s r : AccRes α) := h
theorem agood_fault (h : Good o p s) (r : Nat) : AGood o p (.fault s r : AccRes α) := h
theorem agood_range (h : Good o p s) : AGood o p (.range s : AccRes α) := h
theorem good_of_aok {e : AccRes α} {v : α} (q : e = .ok s v) (h : AGood o p e) : Good o p s := by subst q; exact h
theorem good_of_await {e : AccRes α} {r : Wait} (q : e = .wait s r) (h : AGood o p e) : Good o p s := by
  subst q; exact h
theorem good_of_afault {e : AccRes α} {r : Nat} (q : e = .fault s r) (h : AGood o p e) : Good o p s := by
  subst q; exact h
theorem good_of_arange {e : AccRes α} (q : e = .range s) (h : AGood o p e) : Good o p s := by subst q; exact h

/-- The same of an access by a stream. -/
def SGood (o : Otp) (p : List Instr) : SxRes α → Prop
  | .ok s _ => Good o p s
  | .stop s _ _ _ => Good o p s
  | .wait s _ => Good o p s
  | .page s _ _ _ => Good o p s

theorem sgood_ok (h : Good o p s) (v : α) : SGood o p (.ok s v) := h
theorem sgood_stop (h : Good o p s) (a b c : Nat) : SGood o p (.stop s a b c : SxRes α) := h
theorem sgood_wait (h : Good o p s) (k : Option Nat) : SGood o p (.wait s k : SxRes α) := h
theorem sgood_page (h : Good o p s) (a b : Nat) (w : Bool) : SGood o p (.page s a b w : SxRes α) := h
theorem good_of_sok {e : SxRes α} {v : α} (q : e = .ok s v) (h : SGood o p e) : Good o p s := by subst q; exact h
theorem good_of_sstop {e : SxRes α} {a b c : Nat} (q : e = .stop s a b c) (h : SGood o p e) : Good o p s := by
  subst q; exact h
theorem good_of_swait {e : SxRes α} {k : Option Nat} (q : e = .wait s k) (h : SGood o p e) : Good o p s := by subst q; exact h
theorem good_of_spage {e : SxRes α} {a b : Nat} {w : Bool} (q : e = .page s a b w) (h : SGood o p e) : Good o p s := by
  subst q; exact h

/-- The same of an optional state, of one with more beside it, and of an outcome. -/
def OGood (o : Otp) (p : List Instr) (r : Option State) : Prop := ∀ s, r = some s → Good o p s
/-- The same of an optional state with more beside it. -/
def OPGood (o : Otp) (p : List Instr) (r : Option (State × α)) : Prop := ∀ q, r = some q → Good o p q.1
/-- The same of an outcome. -/
def OutGood (o : Otp) (p : List Instr) (r : Out) : Prop := ∀ s, r = .next s → Good o p s
/-- The same of an access to memory. -/
def MRGood (o : Otp) (p : List Instr) (f : α → Prop) : MRes α → Prop
  | .ok v => f v
  | .wait s _ => Good o p s
  | .range => True

/-- The same of an optional cell. -/
def COGood (r : Option Cell) : Prop := ∀ x, r = some x → CGood x
theorem cogood_some {x : Cell} (h : CGood x) : COGood (some x) := by intro t ht; cases ht; exact h
theorem cogood_none : COGood none := by intro t ht; cases ht
theorem cgood_of_some {r : Option Cell} {x : Cell} (q : r = some x) (h : COGood r) : CGood x := h x q
/-- The same of an optional evaluation. -/
def EOGood (o : Otp) (p : List Instr) (r : Option Eval) : Prop := ∀ x, r = some x → EGood o p x
theorem eogood_some {x : Eval} (h : EGood o p x) : EOGood o p (some x) := by intro t ht; cases ht; exact h
theorem eogood_none : EOGood o p none := by intro t ht; cases ht
theorem egood_of_some {r : Option Eval} {x : Eval} (q : r = some x) (h : EOGood o p r) : EGood o p x := h x q

theorem ogood_some (h : Good o p s) : OGood o p (some s) := by intro t ht; cases ht; exact h
theorem ogood_none : OGood o p none := by intro t ht; cases ht
theorem opgood_some {q : State × α} (h : Good o p q.1) : OPGood o p (some q) := by intro t ht; cases ht; exact h
theorem opgood_none : OPGood o p (none : Option (State × α)) := by intro t ht; cases ht
theorem outgood_next (h : Good o p s) : OutGood o p (.next s) := by intro t ht; cases ht; exact h
theorem outgood_refused (r : Refusal) : OutGood o p (.refused r) := by intro t ht; cases ht
theorem good_of_some {r : Option State} (q : r = some s) (h : OGood o p r) : Good o p s := h s q
theorem good_of_psome {r : Option (State × α)} {v : α} (q : r = some (s, v)) (h : OPGood o p r) : Good o p s := h _ q
theorem good_of_psome' {r : Option (State × α)} {v : State × α} (q : r = some v) (h : OPGood o p r) : Good o p v.1 :=
  h _ q
theorem good_of_pair {r : State × α} {v : α} (q : r = (s, v)) (h : Good o p r.1) : Good o p s := by subst q; exact h
theorem mgood_ok {f : α → Prop} {v : α} (h : f v) : MRGood o p f (.ok v) := h
theorem mgood_wait {f : α → Prop} (h : Good o p s) (w : Wait) : MRGood o p f (.wait s w) := h
theorem mgood_range {f : α → Prop} : MRGood o p f .range := trivial
theorem good_of_mwait {f : α → Prop} {r : MRes α} {w : Wait} (q : r = .wait s w) (h : MRGood o p f r) : Good o p s := by
  subst q; exact h
theorem good_of_mwait1 {r : MRes α} {w : Wait} (q : r = .wait s w) (h : MRGood o p (fun _ => True) r) : Good o p s := good_of_mwait q h
theorem good_of_mwait2 {r : MRes State} {w : Wait} (q : r = .wait s w) (h : MRGood o p (Good o p) r) : Good o p s := good_of_mwait q h
theorem good_of_mwait3 {r : MRes (State × α)} {w : Wait} (q : r = .wait s w) (h : MRGood o p (fun q => Good o p q.1) r) :
    Good o p s := good_of_mwait q h
theorem good_of_mok2 {r : MRes State} (q : r = .ok s) (h : MRGood o p (Good o p) r) : Good o p s := by subst q; exact h
theorem good_of_mok3 {r : MRes (State × α)} {v : State × α} (q : r = .ok v) (h : MRGood o p (fun q => Good o p q.1) r) :
    Good o p v.1 := by subst q; exact h
theorem good_of_mok4 {r : MRes (State × α)} {v : α} (q : r = .ok (s, v)) (h : MRGood o p (fun q => Good o p q.1) r) :
    Good o p s := by subst q; exact h
theorem of_mok {f : α → Prop} {v : α} {r : MRes α} (q : r = .ok v) (h : MRGood o p f r) : f v := by subst q; exact h

/-- Every answer of type BootRes holds a good state. -/
def BootGood (o : Otp) (p : List Instr) : BootRes → Prop
  | .ready s => Good o p s
  | .failed s _ _ _ => Good o p s
  | .stuck s _ => Good o p s

theorem bootgood_ready (h : Good o p s) : BootGood o p (.ready s) := h
theorem good_of_ready {r : BootRes}  (q : r = .ready s) (h : BootGood o p r) : Good o p s := by
  subst q; exact h
theorem bootgood_failed (h : Good o p s) {a} {b} {c} : BootGood o p (.failed s a b c) := h
theorem good_of_failed {r : BootRes} {a} {b} {c} (q : r = .failed s a b c) (h : BootGood o p r) : Good o p s := by
  subst q; exact h
theorem bootgood_stuck (h : Good o p s) {a} : BootGood o p (.stuck s a) := h
theorem good_of_stuck {r : BootRes} {a} (q : r = .stuck s a) (h : BootGood o p r) : Good o p s := by
  subst q; exact h

/-- Every answer of type RedRes holds a good state. -/
def RedGood (o : Otp) (p : List Instr) : RedRes → Prop
  | .accepted s => Good o p s
  | .wait s _ => Good o p s
  | .refused s _ => Good o p s

theorem redgood_accepted (h : Good o p s) : RedGood o p (.accepted s) := h
theorem good_of_raccepted {r : RedRes}  (q : r = .accepted s) (h : RedGood o p r) : Good o p s := by
  subst q; exact h
theorem redgood_wait (h : Good o p s) (w : Wait) : RedGood o p (.wait s w) := h
theorem good_of_rwait {r : RedRes} {w : Wait} (q : r = .wait s w) (h : RedGood o p r) : Good o p s := by
  subst q; exact h
theorem redgood_refused (h : Good o p s) {a} : RedGood o p (.refused s a) := h
theorem good_of_rrefused {r : RedRes} {a} (q : r = .refused s a) (h : RedGood o p r) : Good o p s := by
  subst q; exact h

/-- Every answer of type RxRes holds a good state. -/
def RxGood (o : Otp) (p : List Instr) : RxRes → Prop
  | .dropped s => Good o p s
  | .peerReset s => Good o p s
  | .taken s => Good o p s

theorem rxgood_dropped (h : Good o p s) : RxGood o p (.dropped s) := h
theorem good_of_dropped {r : RxRes}  (q : r = .dropped s) (h : RxGood o p r) : Good o p s := by
  subst q; exact h
theorem rxgood_peerReset (h : Good o p s) : RxGood o p (.peerReset s) := h
theorem good_of_xpeer {r : RxRes}  (q : r = .peerReset s) (h : RxGood o p r) : Good o p s := by
  subst q; exact h
theorem rxgood_taken (h : Good o p s) : RxGood o p (.taken s) := h
theorem good_of_taken {r : RxRes}  (q : r = .taken s) (h : RxGood o p r) : Good o p s := by
  subst q; exact h

/-- Every answer of type HelloRes holds a good state. -/
def HelloGood (o : Otp) (p : List Instr) : HelloRes → Prop
  | .done s => Good o p s
  | .peerReset s => Good o p s

theorem hellogood_done (h : Good o p s) : HelloGood o p (.done s) := h
theorem good_of_hdone {r : HelloRes}  (q : r = .done s) (h : HelloGood o p r) : Good o p s := by
  subst q; exact h
theorem hellogood_peerReset (h : Good o p s) : HelloGood o p (.peerReset s) := h
theorem good_of_hpeer {r : HelloRes}  (q : r = .peerReset s) (h : HelloGood o p r) : Good o p s := by
  subst q; exact h

/-- Every answer of type DelRes holds a good state. -/
def DelGood (o : Otp) (p : List Instr) : DelRes → Prop
  | .wait s => Good o p s
  | .refused s => Good o p s
  | .accepted s => Good o p s

theorem delgood_wait (h : Good o p s) : DelGood o p (.wait s) := h
theorem good_of_dwait {r : DelRes}  (q : r = .wait s) (h : DelGood o p r) : Good o p s := by
  subst q; exact h
theorem delgood_refused (h : Good o p s) : DelGood o p (.refused s) := h
theorem good_of_drefused {r : DelRes}  (q : r = .refused s) (h : DelGood o p r) : Good o p s := by
  subst q; exact h
theorem delgood_accepted (h : Good o p s) : DelGood o p (.accepted s) := h
theorem good_of_daccepted {r : DelRes}  (q : r = .accepted s) (h : DelGood o p r) : Good o p s := by
  subst q; exact h

/-- Every answer of type SetupRes holds a good state. -/
def SetupGood (o : Otp) (p : List Instr) : SetupRes → Prop
  | .wait s _ => Good o p s
  | .fault s _ _ => Good o p s
  | .malformed s _ => Good o p s
  | .ok s _ => Good o p s

theorem setupgood_wait (h : Good o p s) {a} : SetupGood o p (.wait s a) := h
theorem good_of_setwait {r : SetupRes} {a} (q : r = .wait s a) (h : SetupGood o p r) : Good o p s := by
  subst q; exact h
theorem setupgood_fault (h : Good o p s) {a} {b} : SetupGood o p (.fault s a b) := h
theorem good_of_setfault {r : SetupRes} {a} {b} (q : r = .fault s a b) (h : SetupGood o p r) : Good o p s := by
  subst q; exact h
theorem setupgood_malformed (h : Good o p s) {a} : SetupGood o p (.malformed s a) := h
theorem good_of_setbad {r : SetupRes} {a} (q : r = .malformed s a) (h : SetupGood o p r) : Good o p s := by
  subst q; exact h
theorem setupgood_ok (h : Good o p s) {a} : SetupGood o p (.ok s a) := h
theorem good_of_setok {r : SetupRes} {a} (q : r = .ok s a) (h : SetupGood o p r) : Good o p s := by
  subst q; exact h

/-- Every answer of type GatherRes holds a good state. -/
def GatherGood (o : Otp) (p : List Instr) : GatherRes → Prop
  | .ready s _ => Good o p s
  | .more s _ => Good o p s
  | .fault s _ _ => Good o p s

theorem gathergood_ready (h : Good o p s) {a} : GatherGood o p (.ready s a) := h
theorem good_of_gready {r : GatherRes} {a} (q : r = .ready s a) (h : GatherGood o p r) : Good o p s := by
  subst q; exact h
theorem gathergood_more (h : Good o p s) {a} : GatherGood o p (.more s a) := h
theorem good_of_gmore {r : GatherRes} {a} (q : r = .more s a) (h : GatherGood o p r) : Good o p s := by
  subst q; exact h
theorem gathergood_fault (h : Good o p s) {a} {b} : GatherGood o p (.fault s a b) := h
theorem good_of_gfault {r : GatherRes} {a} {b} (q : r = .fault s a b) (h : GatherGood o p r) : Good o p s := by
  subst q; exact h

/-- A fold that keeps any property of what it gathers. -/
theorem foldl_keeps {f : β → α → β} {P : β → Prop} (l : List α) {b : β} (hb : P b) (hf : ∀ b a, P b → P (f b a)) :
    P (l.foldl f b) := by
  induction l generalizing b with
  | nil => exact hb
  | cons a l ih => exact ih (hf b a hb)

theorem cgood_getD {r : Option Cell} {x : Cell} (h : COGood r) (hx : CGood x) : CGood (r.getD x) := by
  cases r with
  | none => exact hx
  | some y => exact h y rfl

/-! ### Choices -/

theorem good_ite {c : Prop} [Decidable c] {x y : State} (h1 : c → Good o p x) (h2 : ¬ c → Good o p y) :
    Good o p (if c then x else y) := by
  split
  · exact h1 ‹_›
  · exact h2 ‹_›
theorem cgood_ite {c : Prop} [Decidable c] {x y : Cell} (h1 : c → CGood x) (h2 : ¬ c → CGood y) :
    CGood (if c then x else y) := by
  split
  · exact h1 ‹_›
  · exact h2 ‹_›
theorem egood_ite {c : Prop} [Decidable c] {x y : Eval} (h1 : c → EGood o p x) (h2 : ¬ c → EGood o p y) :
    EGood o p (if c then x else y) := by
  split
  · exact h1 ‹_›
  · exact h2 ‹_›
theorem hgood_ite {c : Prop} [Decidable c] {x y : HRes α} (h1 : c → HGood o p x) (h2 : ¬ c → HGood o p y) :
    HGood o p (if c then x else y) := by
  split
  · exact h1 ‹_›
  · exact h2 ‹_›
theorem agood_ite {c : Prop} [Decidable c] {x y : AccRes α} (h1 : c → AGood o p x) (h2 : ¬ c → AGood o p y) :
    AGood o p (if c then x else y) := by
  split
  · exact h1 ‹_›
  · exact h2 ‹_›
theorem sgood_ite {c : Prop} [Decidable c] {x y : SxRes α} (h1 : c → SGood o p x) (h2 : ¬ c → SGood o p y) :
    SGood o p (if c then x else y) := by
  split
  · exact h1 ‹_›
  · exact h2 ‹_›
theorem ogood_ite {c : Prop} [Decidable c] {x y : Option State} (h1 : c → OGood o p x) (h2 : ¬ c → OGood o p y) :
    OGood o p (if c then x else y) := by
  split
  · exact h1 ‹_›
  · exact h2 ‹_›
theorem opgood_ite {c : Prop} [Decidable c] {x y : Option (State × α)} (h1 : c → OPGood o p x) (h2 : ¬ c → OPGood o p y) :
    OPGood o p (if c then x else y) := by
  split
  · exact h1 ‹_›
  · exact h2 ‹_›
theorem outgood_ite {c : Prop} [Decidable c] {x y : Out} (h1 : c → OutGood o p x) (h2 : ¬ c → OutGood o p y) :
    OutGood o p (if c then x else y) := by
  split
  · exact h1 ‹_›
  · exact h2 ‹_›
theorem cogood_ite {c : Prop} [Decidable c] {x y : Option Cell} (h1 : c → COGood x) (h2 : ¬ c → COGood y) :
    COGood (if c then x else y) := by
  split
  · exact h1 ‹_›
  · exact h2 ‹_›
theorem bootgood_ite {c : Prop} [Decidable c] {x y : BootRes} (h1 : c → BootGood o p x) (h2 : ¬ c → BootGood o p y) :
    BootGood o p (if c then x else y) := by
  split
  · exact h1 ‹_›
  · exact h2 ‹_›
theorem redgood_ite {c : Prop} [Decidable c] {x y : RedRes} (h1 : c → RedGood o p x) (h2 : ¬ c → RedGood o p y) :
    RedGood o p (if c then x else y) := by
  split
  · exact h1 ‹_›
  · exact h2 ‹_›
theorem rxgood_ite {c : Prop} [Decidable c] {x y : RxRes} (h1 : c → RxGood o p x) (h2 : ¬ c → RxGood o p y) :
    RxGood o p (if c then x else y) := by
  split
  · exact h1 ‹_›
  · exact h2 ‹_›
theorem hellogood_ite {c : Prop} [Decidable c] {x y : HelloRes} (h1 : c → HelloGood o p x) (h2 : ¬ c → HelloGood o p y) :
    HelloGood o p (if c then x else y) := by
  split
  · exact h1 ‹_›
  · exact h2 ‹_›
theorem delgood_ite {c : Prop} [Decidable c] {x y : DelRes} (h1 : c → DelGood o p x) (h2 : ¬ c → DelGood o p y) :
    DelGood o p (if c then x else y) := by
  split
  · exact h1 ‹_›
  · exact h2 ‹_›
theorem setupgood_ite {c : Prop} [Decidable c] {x y : SetupRes} (h1 : c → SetupGood o p x) (h2 : ¬ c → SetupGood o p y) :
    SetupGood o p (if c then x else y) := by
  split
  · exact h1 ‹_›
  · exact h2 ‹_›
theorem gathergood_ite {c : Prop} [Decidable c] {x y : GatherRes} (h1 : c → GatherGood o p x) (h2 : ¬ c → GatherGood o p y) :
    GatherGood o p (if c then x else y) := by
  split
  · exact h1 ‹_›
  · exact h2 ‹_›
theorem good_ite_fst {c : Prop} [Decidable c] {x y : State × α} (h1 : c → Good o p x.1) (h2 : ¬ c → Good o p y.1) :
    Good o p (if c then x else y).1 := by
  split
  · exact h1 ‹_›
  · exact h2 ‹_›
theorem mgood_ite {f : α → Prop} {c : Prop} [Decidable c] {x y : MRes α} (h1 : c → MRGood o p f x)
    (h2 : ¬ c → MRGood o p f y) : MRGood o p f (if c then x else y) := by
  split
  · exact h1 ‹_›
  · exact h2 ‹_›

end Sys2Proof.Laws
end

