-- ==== Sys2Proof/Laws/Issue.lean ====
section
/-! SUPPORT. What it takes for an instruction to be carried out at once: one lemma for its issue to a cell that is
ready, and one for its commit. -/

namespace Sys2Proof.Laws

open Sys2Proof.Machine

/-! ### Counting -/

/-- Counting keeps the registers of a cell canonical. -/
theorem wf_setReg (x : Cell) (o v : Nat) (hw : SMap.wf cellResetVal x.regs = true) :
    SMap.wf cellResetVal (x.setReg o v).regs = true := smap_wf_set _ _ _ _ hw

theorem wf_count (x : Cell) (o n : Nat) (hw : SMap.wf cellResetVal x.regs = true) :
    SMap.wf cellResetVal (x.count o n).regs = true := smap_wf_set _ _ _ _ hw

theorem reg_count_self (x : Cell) (o n : Nat) (hw : SMap.wf cellResetVal x.regs = true) :
    (x.count o n).reg o = (x.reg o + n) % 2 ^ 64 := reg_setReg_self x _ _ hw

/-- State t is state s with some counters ks of cell c, and the number of draws, changed. -/
def Counts (ks : List Nat) (c : CellId) (s t : State) : Prop :=
  t.cell c = { s.cell c with regs := (t.cell c).regs } ∧
  (∀ o, o ∉ ks → (t.cell c).reg o = (s.cell c).reg o) ∧
  (SMap.wf cellResetVal (s.cell c).regs = true → SMap.wf cellResetVal (t.cell c).regs = true) ∧
  (∀ d, d ≠ c → t.cell d = s.cell d) ∧
  t = { s with cells := t.cells, free := t.free }

theorem Counts.refl (ks : List Nat) (c : CellId) (s : State) : Counts ks c s s :=
  ⟨rfl, fun _ _ => rfl, id, fun _ _ => rfl, rfl⟩

theorem Counts.trans {ks : List Nat} {c : CellId} {s t u : State} (h : Counts ks c s t) (g : Counts ks c t u) :
    Counts ks c s u := by
  obtain ⟨h1, h2, h3, h4, h5⟩ := h
  obtain ⟨g1, g2, g3, g4, g5⟩ := g
  refine ⟨?_, fun o ho => (g2 o ho).trans (h2 o ho), fun w => g3 (h3 w), fun d hd => (g4 d hd).trans (h4 d hd), ?_⟩
  · rw [g1]; simp only; rw [h1]
  · rw [g5]; simp only; rw [h5]

theorem Counts.mono {ks ls : List Nat} {c : CellId} {s t : State} (h : Counts ks c s t) (hl : ∀ o ∈ ks, o ∈ ls) :
    Counts ls c s t := ⟨h.1, fun o ho => h.2.1 o (fun hk => ho (hl o hk)), h.2.2⟩

theorem counts_countC (s : State) (c : CellId) (o n : Nat) {ks : List Nat} (h : o ∈ ks) :
    Counts ks c s (s.countC c o n) := by
  refine ⟨?_, ?_, ?_, ?_, rfl⟩
  · rw [State.countC, cell_modCell_self]; rfl
  · intro p hp
    rw [State.countC, cell_modCell_self]
    exact reg_count_other _ _ (fun e => hp (e ▸ h))
  · intro w; rw [State.countC, cell_modCell_self]; exact wf_count _ _ _ w
  · intro d hd; exact cell_modCell_other _ _ hd

theorem counts_draw (s : State) (c : CellId) (ks : List Nat) : Counts ks c s s.draw :=
  ⟨rfl, fun _ _ => rfl, id, fun _ _ => rfl, rfl⟩

theorem counts_stall (s : State) (c : CellId) (o : Nat) {ks : List Nat} (h : o ∈ ks) : Counts ks c s (s.stall c o) :=
  (counts_countC s c o _ h).trans (counts_draw _ c ks)

/-! ### The commit of the only instruction in flight -/

theorem countersOf_none {e : InFlight} (h : e.waited = none) : countersOf e = commitCounters := by
  simp [countersOf, h]

theorem countersOf_retired {e : InFlight} (h : ∀ o, e.waited = some o → o ∈ stallCounters) :
    e.waited ≠ some CR.SQ_RETIRED_CNT := fun k => absurd (h _ k) (by decide)

/-- The counting of a commit. -/
theorem countCommit_spec (s : State) (c : CellId) (e : InFlight) (hwait : e.waited ≠ some CR.SQ_RETIRED_CNT) :
    Counts (countersOf e) c s (s.countCommit c e) ∧
    (SMap.wf cellResetVal (s.cell c).regs = true →
      ((s.countCommit c e).cell c).reg CR.SQ_RETIRED_CNT = ((s.cell c).reg CR.SQ_RETIRED_CNT + 1) % 2 ^ 64) := by
  have sub : ∀ o ∈ commitCounters, o ∈ countersOf e := fun o h => List.mem_append_right _ h
  have m1 : CR.SQ_RETIRED_CNT ∈ countersOf e := sub _ (by decide)
  have m2 : CR.SQ_ACTIVE_CNT ∈ countersOf e := sub _ (by decide)
  have m3 : CR.SQ_IFETCH_MISS_CNT ∈ countersOf e := sub _ (by decide)
  have n2 : CR.SQ_RETIRED_CNT ∉ [CR.SQ_ACTIVE_CNT, CR.SQ_IFETCH_MISS_CNT] := by decide
  have m4 : CR.SQ_ACTIVE_CNT ∈ [CR.SQ_ACTIVE_CNT, CR.SQ_IFETCH_MISS_CNT] := by simp
  have m5 : CR.SQ_IFETCH_MISS_CNT ∈ [CR.SQ_ACTIVE_CNT, CR.SQ_IFETCH_MISS_CNT] := by simp
  have r1 : SMap.wf cellResetVal (s.cell c).regs = true → ((s.countC c CR.SQ_RETIRED_CNT).cell c).reg
      CR.SQ_RETIRED_CNT = ((s.cell c).reg CR.SQ_RETIRED_CNT + 1) % 2 ^ 64 := fun w => by
    rw [State.countC, cell_modCell_self]; exact reg_count_self _ _ _ w
  have core : ∀ (ks : List Nat) (s1 : State), CR.SQ_ACTIVE_CNT ∈ ks → CR.SQ_IFETCH_MISS_CNT ∈ ks →
      Counts ks c s1 (let s := (s1.countC c CR.SQ_ACTIVE_CNT (Config.activeCycles s1.free)).draw
        if (s.cell c).fetchedFromIm e.pc.toNat e.ins.op then s
        else (s.countC c CR.SQ_IFETCH_MISS_CNT (Config.fetchMisses s.free)).draw) := by
    intro ks s1 h1 h2
    dsimp only
    split
    · exact (counts_countC s1 c _ _ h1).trans (counts_draw _ c _)
    · exact (((counts_countC s1 c _ _ h1).trans (counts_draw _ c _)).trans (counts_countC _ c _ _ h2)).trans
        (counts_draw _ c _)
  unfold State.countCommit
  have k1 := counts_countC s c CR.SQ_RETIRED_CNT 1 m1
  have k2 := core (countersOf e) (s.countC c CR.SQ_RETIRED_CNT) m2 m3
  have k3 := core _ (s.countC c CR.SQ_RETIRED_CNT) m4 m5
  dsimp only at k2 k3 ⊢
  generalize hg : (if (((s.countC c CR.SQ_RETIRED_CNT).countC c CR.SQ_ACTIVE_CNT
      (Config.activeCycles (s.countC c CR.SQ_RETIRED_CNT).free)).draw.cell c).fetchedFromIm e.pc.toNat e.ins.op = true then _ else _) = g at *
  cases hw : e.waited with
  | none => exact ⟨k1.trans k2, fun w => (k3.2.1 _ n2).trans (r1 w)⟩
  | some o =>
    have mo : o ∈ countersOf e := by simp [countersOf, hw]
    refine ⟨(k1.trans k2).trans (counts_stall _ c o mo), fun w => ?_⟩
    refine ((counts_stall g c o (ks := [o]) (by simp)).2.1 _ ?_).trans ((k3.2.1 _ n2).trans (r1 w))
    intro h
    exact hwait (by rw [hw, List.mem_singleton.mp h])

/-- The counters that the commit of an instruction may count in: a branch that went elsewhere than predicted counts
there. -/
def commitOf (e : InFlight) (jump : Option Word) : List Nat :=
  if e.next = none ∨ e.next = some (jump.getD (nextPc e.pc e.ins.op)) then countersOf e
  else CR.SQ_BR_MISPRED_CNT :: countersOf e

/-- The only instruction in flight commits, and the cell continues where it leads. -/
theorem commitHead_spec (s : State) (c : CellId) (e : InFlight) (jump : Option Word)
    (hw : SMap.wf cellResetVal (s.cell c).regs = true) (hwait : e.waited ≠ some CR.SQ_RETIRED_CNT) (hwin : ∃ f, (s.cell c).window = [f])
    (hnpc : ∀ p, e.next = some p → (s.cell c).npc = p) :
    ∃ u, Retires (commitOf e jump) c s (s.cell c) (jump.getD (nextPc e.pc e.ins.op)) u ∧
      SMap.wf cellResetVal (u.cell c).regs = true ∧
      ∀ post, s.commitHead c e jump post =
        if post && e.ins.op.long then u.completionPost c e.ins.x.pen e.ins.x.psem else u := by
  obtain ⟨⟨k1, k2, k3, k4, k5⟩, hr⟩ := countCommit_spec s c e hwait
  obtain ⟨f, hwin⟩ := hwin
  specialize hr hw; specialize k3 hw
  have n3 : CR.SQ_RETIRED_CNT ≠ CR.SQ_BR_MISPRED_CNT := by decide
  simp only [State.commitHead]
  generalize hs' : s.countCommit c e = s' at *
  have hwin' : (s'.cell c).window = [f] := by rw [k1]; exact hwin
  have hnpc' : ∀ p, e.next = some p → (s'.cell c).npc = p := by rw [k1]; exact hnpc
  have fin : ∀ (F : Cell → Cell) (ks : List Nat) (pc : Word),
      (F (s'.cell c) = { s'.cell c with regs := (F (s'.cell c)).regs, npc := pc, window := [], runahead := none, stuck := none }) →
      (∀ o, o ∉ ks → (F (s'.cell c)).reg o = (s.cell c).reg o) →
      ((F (s'.cell c)).reg CR.SQ_RETIRED_CNT = (s'.cell c).reg CR.SQ_RETIRED_CNT) →
      Retires ks c s (s.cell c) pc (s'.modCell c F) := by
    intro F ks pc h1 h2 h3
    refine ⟨?_, ?_, ?_, ?_, ?_⟩
    · rw [cell_modCell_self]
      generalize (F (s'.cell c)).regs = R at *
      rw [h1]
      generalize (s'.cell c).regs = R' at *
      rw [k1]
    · rw [cell_modCell_self]; exact h2
    · rw [cell_modCell_self, h3]; exact hr
    · intro d hd; rw [cell_modCell_other _ _ hd]; exact k4 d hd
    · generalize hg : s'.modCell c F = g
      have : g = { s' with cells := g.cells, free := g.free } := by subst hg; rfl
      rw [this, k5]
  cases hn : e.next with
  | none =>
    refine ⟨_, ?_, ?_, fun post => rfl⟩
    · refine fin _ _ _ rfl ?_ rfl
      intro o ho
      refine k2 o ?_
      simpa [commitOf, hn] using ho
    · rw [cell_modCell_self]; exact k3
  | some p =>
    have hp := hnpc' p hn
    by_cases hq : p = jump.getD (nextPc e.pc e.ins.op)
    · refine ⟨_, ?_, ?_, fun post => rfl⟩
      · refine fin _ _ _ ?_ ?_ ?_
        · simp only [hq, if_true, hwin', List.drop_one, List.tail_cons, settleSpec, List.isEmpty_nil, if_true]
          rw [← hq, ← hp]
        · intro o ho
          simp only [hq, if_true, hwin', List.drop_one, List.tail_cons, settleSpec, List.isEmpty_nil]
          refine k2 o ?_
          simpa [commitOf, hn, hq] using ho
        · simp only [hq, if_true, hwin', List.drop_one, List.tail_cons, settleSpec, List.isEmpty_nil]; rfl
      · rw [cell_modCell_self]
        simp only [hq, if_true, hwin', List.drop_one, List.tail_cons, settleSpec, List.isEmpty_nil]; exact k3
    · refine ⟨_, ?_, ?_, fun post => rfl⟩
      · refine fin _ _ _ ?_ ?_ ?_
        · simp only [hq, if_false, hwin', List.drop_one, List.tail_cons, settleSpec, Cell.countDiscard, specCount,
            List.filter_nil, List.length_nil, if_true]
          rfl
        · intro o ho
          have ho : o ≠ CR.SQ_BR_MISPRED_CNT ∧ o ∉ countersOf e := by
            simpa [commitOf, hn, hq] using ho
          simp only [hq, if_false, hwin', List.drop_one, List.tail_cons, settleSpec, Cell.countDiscard, specCount,
            List.filter_nil, List.length_nil, if_true]
          exact (reg_count_other { s'.cell c with runahead := none, stuck := none } 1 ho.1).trans (k2 o ho.2)
        · simp only [hq, if_false, hwin', List.drop_one, List.tail_cons, settleSpec, Cell.countDiscard, specCount,
            List.filter_nil, List.length_nil, if_true]
          exact reg_count_other { s'.cell c with runahead := none, stuck := none } 1 n3
      · rw [cell_modCell_self]
        simp only [hq, if_false, hwin', List.drop_one, List.tail_cons, settleSpec, Cell.countDiscard, specCount,
            List.filter_nil, List.length_nil, if_true]
        exact wf_count { s'.cell c with runahead := none, stuck := none } _ 1 k3

/-! ### A post at a cell with nothing in flight -/

/-- Between s and t, no instruction of cell c has come into flight, and SQ_CTRL is as it was. -/
def Quiet (c : CellId) (s t : State) : Prop :=
  ((s.cell c).window = [] → (t.cell c).window = []) ∧ (t.cell c).reg CR.SQ_CTRL = (s.cell c).reg CR.SQ_CTRL

theorem Quiet.refl (c : CellId) (s : State) : Quiet c s s := ⟨id, rfl⟩

theorem Quiet.trans {c : CellId} {s t u : State} (h : Quiet c s t) (g : Quiet c t u) : Quiet c s u :=
  ⟨fun w => g.1 (h.1 w), g.2.trans h.2⟩

theorem quiet_of_cells {s t : State} (c : CellId) (h : t.cells = s.cells) : Quiet c s t := by
  unfold Quiet State.cell; rw [h]; exact ⟨id, rfl⟩

theorem quiet_setCell (c d : CellId) (s : State) (x : Cell) (hw : (s.cell d).window = [] → x.window = [])
    (hr : x.reg CR.SQ_CTRL = (s.cell d).reg CR.SQ_CTRL) : Quiet c s (s.setCell d x) := by
  by_cases h : c = d
  · subst h; exact ⟨by simpa using hw, by simpa using hr⟩
  · unfold Quiet; rw [cell_setCell_other s x h]; exact ⟨id, rfl⟩

@[simp] theorem sendMsi_cells (s : State) (v : Nat) : (s.sendMsi v).cells = s.cells := by
  unfold State.sendMsi
  repeat' split
  all_goals rfl

@[simp] theorem hostEvent_cells (s : State) (b : Nat) : (s.hostEvent b).cells = s.cells := by
  unfold State.hostEvent; dsimp only; split <;> simp

@[simp] theorem storeSevere_cells (s : State) (r : AlmRec) : (s.storeSevere r).cells = s.cells := by
  unfold State.storeSevere; split
  · split <;> rfl
  · rfl

@[simp] theorem storeRec_cells (s : State) (r : AlmRec) : (s.storeRec r).cells = s.cells := by
  unfold State.storeRec; simp only [apply_ite State.cells, orFreg_cells, count_cells, ite_self]

@[simp] theorem logEvent_cells (s : State) (a b d e f g : Nat) : (s.logEvent a b d e f g).cells = s.cells := by
  unfold State.logEvent
  simp only [apply_ite State.cells, count_cells, hostEvent_cells, storeSevere_cells, storeRec_cells, ite_self]

theorem window_faultHead (x : Cell) (f : FaultInfo) (h : x.window = []) : (x.faultHead f).window = [] := by
  simp [Cell.faultHead, h]

theorem reg_faultHead (x : Cell) (f : FaultInfo) (o : Nat) : (x.faultHead f).reg o = x.reg o := by
  unfold Cell.faultHead; split <;> rfl

theorem window_meetMark (x : Cell) (k : BitVec 6) (h : x.window = []) : (x.meetMark k).window = [] := by
  unfold Cell.meetMark
  dsimp only
  split
  · exact h
  · split
    · exact window_faultHead _ _ h
    · exact h

theorem reg_meetMark (x : Cell) (k : BitVec 6) (o : Nat) : (x.meetMark k).reg o = x.reg o := by
  unfold Cell.meetMark
  dsimp only
  split
  · rfl
  · split
    · rw [reg_faultHead]; rfl
    · rfl

theorem quiet_meetMark (c d : CellId) (s : State) (k : BitVec 6) : Quiet c s (s.modCell d (fun x => x.meetMark k)) :=
  quiet_setCell c d s _ (window_meetMark _ k) (reg_meetMark _ k _)

theorem quiet_markFailed (c d : CellId) (s : State) (k : BitVec 6) (uc : Bool) :
    Quiet c s (s.modCell d (fun x => x.markFailed k uc)) :=
  quiet_setCell c d s _ (fun h => window_meetMark _ k h) (reg_meetMark _ k _)

theorem quiet_haltSlot (c d : CellId) (s : State) (n : Fin 6) (t : Transfer) (r de va : Nat) :
    Quiet c s (s.modCell d (fun x => x.haltSlot n t r de va)) := by
  have h : ((s.cell d).haltSlot n t r de va).window = (s.cell d).window ∧
      ((s.cell d).haltSlot n t r de va).reg CR.SQ_CTRL = (s.cell d).reg CR.SQ_CTRL := by
    unfold Cell.haltSlot
    dsimp only
    split
    · split
      · exact ⟨rfl, rfl⟩
      · exact ⟨rfl, reg_count_other _ _ (by decide)⟩
    · exact ⟨rfl, reg_count_other _ _ (by decide)⟩
  exact quiet_setCell c d s _ (fun w => h.1.trans w) h.2

theorem quiet_haltLinks (c d : CellId) (fail : Fin 6 → Transfer → State → State)
    (hf : ∀ n t s, Quiet c s (fail n t s)) : ∀ (l : List Waiter) (s : State), Quiet c s (haltLinks fail d l s) := by
  intro l
  induction l with
  | nil => intro s; exact Quiet.refl c s
  | cons w l ih =>
    intro s
    cases w with
    | seq n => exact ih s
    | link n =>
      simp only [haltLinks]
      split
      · exact (hf _ _ _).trans (ih _)
      · exact ih s

theorem quiet_failTransfer (c : CellId) : ∀ (fuel : Nat) (d : CellId) (n : Fin 6) (t : Transfer) (r de va : Nat)
    (s : State), Quiet c s (failTransfer fuel d n t r de va s) := by
  intro fuel
  induction fuel with
  | zero => intros; exact Quiet.refl c _
  | succ fuel ih =>
    intro d n t r de va s
    simp only [failTransfer]
    refine Quiet.trans ?_ (quiet_haltLinks c _ _ (fun n t s => ih _ _ _ _ _ _ s) _ _)
    refine Quiet.trans ?_ (quiet_haltLinks c _ _ (fun n t s => ih _ _ _ _ _ _ s) _ _)
    refine Quiet.trans ?_ (quiet_of_cells c (logEvent_cells _ _ _ _ _ _ _))
    refine Quiet.trans (quiet_haltSlot c d s n t r de va) ?_
    have m1 : ∀ (b : Bool) (d : CellId) (k : BitVec 6) (uc : Bool) (s : State),
        Quiet c s (if b then s.modCell d (fun x => x.markFailed k uc) else s) := by
      intro b d k uc s
      cases b
      · exact Quiet.refl c _
      · exact quiet_markFailed c _ _ _ _
    exact (m1 _ _ _ _ _).trans (m1 _ _ _ _ _)

theorem quiet_addPost (c d : CellId) (s : State) (k : BitVec 6) (n : Nat) : Quiet c s (s.addPost d k n) := by
  unfold State.addPost
  dsimp only
  split
  · exact quiet_setCell c d s _ (fun h => h) (reg_count_other _ _ (by decide))
  · refine Quiet.trans (quiet_setCell c d s _ ?_ ?_) (quiet_of_cells c (logEvent_cells _ _ _ _ _ _ _))
    · exact fun h => h
    · refine (reg_count_other _ _ (by decide)).trans ?_
      exact reg_count_other (s.cell d) 1 (by decide)

@[simp] theorem startPll_cells (s : State) : s.startPll.cells = s.cells := by
  unfold State.startPll; split <;> rfl

/-- The end of DOZE brings no instruction into flight anywhere. -/
theorem quiet_endDoze (c d : CellId) (s : State) : Quiet c s (s.endDoze d) := by
  unfold State.endDoze
  split
  · exact quiet_setCell c d s { ((s.cell d).count CR.CP_DOZE_CNT (Config.stallCycles s.free)) with
      cp := { (s.cell d).cp with st := .awake } } (fun h => h) (reg_count_other _ _ (by decide))
  · exact Quiet.refl c _

theorem quiet_requestWake (c d : CellId) (s : State) : Quiet c s (s.requestWake d) := by
  unfold State.requestWake
  dsimp only
  split
  · split
    · exact Quiet.refl c _
    · split
      · exact (quiet_setCell c d s { s.cell d with cp := { (s.cell d).cp with st := .waking, admitWait := false } }
          (fun h => h) rfl).trans (quiet_of_cells c rfl)
      · have hc : s.startPll.cell d = s.cell d := by unfold State.cell; rw [startPll_cells]
        refine (quiet_of_cells c (startPll_cells s)).trans ((quiet_setCell c d s.startPll
          { s.cell d with cp := { (s.cell d).cp with admitWait := true } } ?_ ?_).trans (quiet_of_cells c rfl))
        · rw [hc]; exact fun h => h
        · rw [hc]; rfl
  · exact Quiet.refl c _

/-- A post brings no instruction into flight anywhere. -/
theorem quiet_post (c d : CellId) (s : State) (k : BitVec 6) (n : Nat) : Quiet c s (s.post d k n) := by
  unfold State.post
  dsimp only
  split
  · exact Quiet.refl c _
  · split
    iterate 2
      · refine Quiet.trans (quiet_setCell c d s _ ?_ ?_) (quiet_requestWake c d _)
        · exact fun h => h
        · rfl
    all_goals
      refine ((quiet_endDoze c d s).trans (quiet_addPost c d _ k n)).trans ?_
      split
      · unfold State.meetOvf
        exact (quiet_meetMark c d _ k).trans
          (quiet_haltLinks c _ _ (fun n t s => quiet_failTransfer c _ _ _ _ _ _ _ s) _ _)
      · exact Quiet.refl c _

theorem quiet_completionPost (c d : CellId) (s : State) (pen : Bool) (k : BitVec 6) :
    Quiet c s (s.completionPost d pen k) := by
  unfold State.completionPost
  split
  · exact quiet_post c d s k 1
  · exact Quiet.refl c _

/-! ### Issue -/

theorem counterPending_idle {x : Cell} (h : x.window = []) (i : Ins) : x.counterPending i = false := by
  simp [Cell.counterPending, h]

/-- A ready cell dispatches an instruction and carries it out. -/
theorem issue_ready {c : CellId} {s : State} (h : Ready c s) (i : Ins) :
    s.issue c i = (s.carrying c i).drive c := by
  have hun : (s.cell c).unresolved = 0 := by simp [Cell.unresolved, h.idle]
  have hcp := counterPending_idle h.idle i
  have hsp : (s.cell c).specHeld i = false := by
    unfold Cell.specHeld
    simp [hcp, hun, h.idle]
  have hfh : (s.cell c).fetchHeld = false := by simp [Cell.fetchHeld, h.idle]
  have hqf : (s.cell c).queueFull i = false := by
    unfold Cell.queueFull Cell.queueLen
    split
    · rfl
    · rename_i k _; cases k <;> simp [h.idle, Queue.entries]
  have hsd : ((s.cell c).entry i).spec = false := by simp [Cell.entry, hun]
  have hst : (s.cell c).stallsAtHead = false := by simp [Cell.stallsAtHead, Cell.head, h.idle]
  have hsb : s.stallsBehind c = false := by simp [State.stallsBehind, h.idle]
  unfold State.issue
  simp only [h.runs, h.normal, h.owned, hfh, hst, hsb, hsp, hqf, Bool.not_true, Bool.or_self, Bool.and_false,
    Bool.false_eq_true, if_false]
  unfold State.dispatch
  simp only [hsd, Bool.false_eq_true, if_false, h.idle, List.nil_append, List.isEmpty_nil, if_true, hcp]
  rfl

/-- With nothing in flight, no stall is looked at again. -/
theorem recheck_empty {c : CellId} {s : State} (h : (s.cell c).window = []) : s.recheck c = s := by
  simp [State.recheck, h]

/-- What evaluating the only instruction in flight must have left for its commit: the instruction, but for upsets
that it has met, where fetch goes on, and no request to halt. -/
structure Leaves (c : CellId) (s : State) (e : InFlight) (s1 : State) (e1 : InFlight) : Prop where
  window : (s1.cell c).window = [e1]
  pc : e1.pc = e.pc
  op : e1.ins.op = e.ins.op
  x : e1.ins.x = e.ins.x
  next : e1.next = e.next
  waited : ∀ o, e1.waited = some o → o ∈ stallCounters
  npc : (s1.cell c).npc = (s.cell c).npc
  ctrl : (s1.cell c).reg CR.SQ_CTRL = (s.cell c).reg CR.SQ_CTRL
  canon : SMap.wf cellResetVal (s1.cell c).regs = true

/-- The oldest instruction of a cell that holds one, carried out to the end. -/
theorem stepHead_done {c : CellId} {s s1 : State} {e e1 : InFlight} {jump : Option Word} {post : Bool}
    (h : Holds c s e) (hb : e.ins.op ≠ .bloop) (hev : evalOp c e s = .done s1 jump post) (hl : Leaves c s e s1 e1) :
    ∃ u, Retires (commitOf e1 jump) c s1 (s1.cell c) (jump.getD (nextPc e.pc e.ins.op)) u ∧
      s.stepHead c = (if post && e.ins.op.long then u.completionPost c e.ins.x.pen e.ins.x.psem else u, true) ∧
      ((s.stepHead c).1.cell c).window = [] := by
  obtain ⟨u, hu, hwf, hc⟩ := commitHead_spec s1 c e1 jump hl.canon (countersOf_retired hl.waited) ⟨e1, hl.window⟩ (by
    intro p hp
    rw [hl.npc]
    exact h.follows p (hl.next ▸ hp))
  have hq1 : Quiet c u (if post && e.ins.op.long then u.completionPost c e.ins.x.pen e.ins.x.psem else u) := by
    split
    · exact quiet_completionPost _ _ _ _ _
    · exact Quiet.refl _ _
  have hwin : (u.cell c).window = [] := by rw [hu.1]
  have hctl : (u.cell c).reg CR.SQ_CTRL = (s.cell c).reg CR.SQ_CTRL := by
    refine (hu.2.1 _ ?_).trans hl.ctrl
    have h1 : CR.SQ_CTRL ∉ countersOf e1 := by
      intro k
      rcases List.mem_append.mp k with k | k
      · cases hw : e1.waited with
        | none => simp [hw] at k
        | some o =>
          rw [hw, Option.mem_toList] at k
          have := hl.waited o hw
          cases k
          exact absurd this (by decide)
      · exact absurd k (by decide)
    unfold commitOf
    split
    · exact h1
    · intro k
      rcases List.mem_cons.mp k with k | k
      · exact absurd k (by decide)
      · exact h1 k
  have hins : evalIns c e s = .done s1 jump post := by
    unfold evalIns
    rw [h.noSubmit, Bool.and_false]
    simpa using hev
  have hstep : s.stepHead c = (if post && e.ins.op.long then u.completionPost c e.ins.x.pen e.ins.x.psem else u, true) := by
    unfold State.stepHead
    have hhead : (s.cell c).head = some e := by unfold Cell.head; rw [h.only]; rfl
    have hm : (s.cell c).mispredicted e = none := by unfold Cell.mispredicted; rw [h.resolved.1]
    have hhd : (s1.cell c).head = some e1 := by unfold Cell.head; rw [hl.window]; rfl
    have hop : (e.ins.op = Op.bloop) = False := eq_false hb
    have hh := h.noHalt
    rw [hhead]
    simp only [h.runs, h.sound, h.resolved.2, hm, hins, hhd, Bool.not_true, Option.isSome_none, Bool.or_self,
      Bool.false_eq_true, if_false, Option.getD_some, hc, hl.op, hl.x, hop]
    rw [hq1.2, hctl, hh, recheck_empty (hq1.1 hwin)]
    simp
  refine ⟨u, by rw [← hl.pc, ← hl.op]; exact hu, hstep, ?_⟩
  rw [hstep]
  exact hq1.1 hwin

/-- The same as the sequencer does it: nothing follows. -/
theorem drive_done {c : CellId} {s s1 : State} {e e1 : InFlight} {jump : Option Word} {post : Bool}
    (h : Holds c s e) (hb : e.ins.op ≠ .bloop) (hev : evalOp c e s = .done s1 jump post) (hl : Leaves c s e s1 e1) :
    ∃ u, Retires (commitOf e1 jump) c s1 (s1.cell c) (jump.getD (nextPc e.pc e.ins.op)) u ∧
      s.drive c = if post && e.ins.op.long then u.completionPost c e.ins.x.pen e.ins.x.psem else u := by
  obtain ⟨u, hu, hs, hw⟩ := stepHead_done h hb hev hl
  refine ⟨u, hu, ?_⟩
  unfold State.drive State.pump
  rw [hs] at hw ⊢
  simp only [if_true]
  rw [hw]
  rfl

/-- And as it goes on by itself where the instruction is one of its own pipeline. -/
theorem pump_done {c : CellId} {s s1 : State} {e e1 : InFlight} {jump : Option Word} {post : Bool}
    (h : Holds c s e) (hb : e.ins.op ≠ .bloop) (ht : e.ins.op.tensor = false ∨ e.ins.op = .gfill)
    (hev : evalOp c e s = .done s1 jump post) (hl : Leaves c s e s1 e1) :
    ∃ u, Retires (commitOf e1 jump) c s1 (s1.cell c) (jump.getD (nextPc e.pc e.ins.op)) u ∧
      s.pump c = if post && e.ins.op.long then u.completionPost c e.ins.x.pen e.ins.x.psem else u := by
  obtain ⟨u, hu, hs, hw⟩ := stepHead_done h hb hev hl
  refine ⟨u, hu, ?_⟩
  have hp : (s.cell c).pumps = true := by
    unfold Cell.pumps Cell.head
    rw [h.only]
    rcases ht with ht | ht <;> simp [ht]
  unfold State.pump
  rw [h.only]
  show State.pumpN 1 c s = _
  rw [State.pumpN, if_pos hp, hs]
  rfl

/-- An instruction that waits stays, and its wait is noted. -/
theorem stepHead_wait {c : CellId} {s s1 : State} {e : InFlight} {k : Option Nat} (h : Holds c s e)
    (hev : evalOp c e s = .wait s1 k) :
    s.stepHead c = (s1.modCell c (fun x => x.modHead (fun e => { e with waited := k.or e.waited, stalls := true })), false) := by
  unfold State.stepHead
  have hhead : (s.cell c).head = some e := by unfold Cell.head; rw [h.only]; rfl
  have hm : (s.cell c).mispredicted e = none := by unfold Cell.mispredicted; rw [h.resolved.1]
  have hins : evalIns c e s = .wait s1 k := by
    unfold evalIns
    rw [h.noSubmit, Bool.and_false]
    simpa using hev
  rw [hhead]
  simp only [h.runs, h.sound, h.resolved.2, hm, hins, Bool.not_true, Option.isSome_none, Bool.or_self,
    Bool.false_eq_true, if_false]

/-- An instruction that faults stays and holds its fault. -/
theorem stepHead_fault {c : CellId} {s s1 : State} {e : InFlight} {f : FaultInfo} (h : Holds c s e)
    (hev : evalOp c e s = .fault s1 f) :
    s.stepHead c = (s1.modCell c (fun x => x.faultHead f), false) := by
  unfold State.stepHead
  have hhead : (s.cell c).head = some e := by unfold Cell.head; rw [h.only]; rfl
  have hm : (s.cell c).mispredicted e = none := by unfold Cell.mispredicted; rw [h.resolved.1]
  have hins : evalIns c e s = .fault s1 f := by
    unfold evalIns
    rw [h.noSubmit, Bool.and_false]
    simpa using hev
  rw [hhead]
  simp only [h.runs, h.sound, h.resolved.2, hm, hins, Bool.not_true, Option.isSome_none, Bool.or_self,
    Bool.false_eq_true, if_false]

/-- No word of an instruction o that cell c fetches next keeps an uncorrectable error of IM. -/
def Fetched (s : State) (c : CellId) (o : Op) : Prop := (s.cell c).fetchMark (s.cell c).npc.toNat o = none

/-- Of a short instruction, a ready cell has fetched all. -/
theorem fetched_short {c : CellId} {s : State} (h : Ready c s) {o : Op} (ho : o.long = false) : Fetched s c o := by
  simp [Fetched, Cell.fetchMark, h.sound, ho]

/-- Of a long one, a cell that is ready for it. -/
theorem fetched_long {c : CellId} {s : State} (h : ReadyLong c s) (o : Op) : Fetched s c o := by
  simp [Fetched, Cell.fetchMark, h.sound, h.sound2]

theorem queueWait_idle {x : Cell} (h : x.window = []) (i : Ins) : x.queueWait i = none := by
  simp [Cell.queueWait, Cell.accSpans, h]

@[simp] theorem cell_carrying (s : State) (c : CellId) (i : Ins) : (s.carrying c i).cell c = (s.cell c).holding i :=
  cell_setCell_self _ _ _

theorem carrying_holds {c : CellId} {s : State} (h : Ready c s) (i : Ins) (hf : Fetched s c i.op) :
    Holds c (s.carrying c i) ((s.cell c).entry i) := by
  have hcell : (s.carrying c i).cell c = (s.cell c).holding i := cell_setCell_self _ _ _
  refine ⟨?_, ?_, hf, ⟨?_, rfl⟩, ?_, ?_, ?_, h.noSubmit, ?_⟩
  · rw [hcell]; exact h.runs
  · rw [hcell]; rfl
  · simp [Cell.entry, counterPending_idle h.idle i]
  · intro p hp; rw [hcell]; simp only [Cell.holding, hp]; rfl
  · intro o ho; simp [Cell.entry, queueWait_idle h.idle] at ho
  · rw [hcell]; exact h.noHalt
  · rw [hcell]; exact h.canon

/-- An instruction that a ready cell carries out to the end: it commits with the state that its evaluation left, and
its completion post follows. -/
theorem issue_done {c : CellId} {s s1 : State} {i : Ins} {e : InFlight} {jump : Option Word} {post : Bool}
    (h : Ready c s) (hf : Fetched s c i.op) (hb : i.op ≠ .bloop)
    (hev : evalOp c ((s.cell c).entry i) (s.carrying c i) = .done s1 jump post)
    (hl : Leaves c (s.carrying c i) ((s.cell c).entry i) s1 e) :
    ∃ u, Retires (commitOf e jump) c s1 (s1.cell c) (jump.getD (nextPc (s.cell c).npc i.op)) u ∧
      s.issue c i = if post && i.op.long then u.completionPost c i.x.pen i.x.psem else u := by
  rw [issue_ready h]
  exact drive_done (carrying_holds h i hf) hb hev hl

/-- An instruction that waits as soon as a ready cell has dispatched it. -/
theorem issue_wait {c : CellId} {s s1 : State} {i : Ins} {k : Option Nat} (h : Ready c s)
    (hf : Fetched s c i.op)
    (hev : evalOp c ((s.cell c).entry i) (s.carrying c i) = .wait s1 k) :
    s.issue c i = s1.modCell c (fun x => x.modHead (fun e => { e with waited := k.or e.waited, stalls := true })) := by
  rw [issue_ready h]
  unfold State.drive
  rw [stepHead_wait (carrying_holds h i hf) hev]
  rfl

/-- An instruction that faults as soon as a ready cell has dispatched it. -/
theorem issue_fault {c : CellId} {s s1 : State} {i : Ins} {f : FaultInfo} (h : Ready c s)
    (hf : Fetched s c i.op)
    (hev : evalOp c ((s.cell c).entry i) (s.carrying c i) = .fault s1 f) :
    s.issue c i = s1.modCell c (fun x => x.faultHead f) := by
  rw [issue_ready h]
  unfold State.drive
  rw [stepHead_fault (carrying_holds h i hf) hev]
  rfl

/-- The commit of a cell that differs from what it was told from in no more than the window and where it goes on. -/
theorem retires_over {ks : List Nat} {c : CellId} {s s1 u : State} {z : Cell} {pc : Word}
    (h : Retires ks c s1 (s1.cell c) pc u)
    (hz : s1.cell c = { z with window := (s1.cell c).window, npc := (s1.cell c).npc, runahead := (s1.cell c).runahead, stuck := (s1.cell c).stuck })
    (ho : ∀ d, d ≠ c → s1.cell d = s.cell d) (hs : s1 = { s with cells := s1.cells, free := s1.free }) :
    Retires ks c s z pc u := by
  obtain ⟨h1, h2, h3, h4, h5⟩ := h
  have hr : ∀ o, (s1.cell c).reg o = z.reg o := by intro o; rw [hz]; rfl
  refine ⟨?_, fun o k => (h2 o k).trans (hr o), by rw [h3, hr], fun d hd => (h4 d hd).trans (ho d hd), ?_⟩
  · generalize (u.cell c).regs = R at *
    rw [h1, hz]
  · rw [h5]; simp only; rw [hs]

/-- An instruction that only the next one follows. -/
def Op.plain (o : Op) : Prop := o ≠ .bloop ∧ o ≠ .br ∧ o ≠ .jal ∧ o ≠ .jalr ∧ o ≠ .tret

/-- A plain instruction is predicted to go on at the next address, or fetch waits for it. -/
theorem entry_next (x : Cell) (i : Ins) (h : Op.plain i.op) :
    (x.entry i).next = none ∨ (x.entry i).next = some (nextPc x.npc i.op) := by
  obtain ⟨h1, h2, h3, h4, h5⟩ := h
  unfold Cell.entry Cell.predict
  revert h1 h2 h3 h4 h5
  cases i.op <;> simp [Op.ser]

/-- Only jumps change the return stack. -/
theorem predict_stack (x : Cell) (pc : Word) (i : Ins) (p : Bool) (h1 : i.op ≠ .jal) (h2 : i.op ≠ .jalr) :
    (x.predict pc i p).2 = x.retStack := by
  unfold Cell.predict
  revert h1 h2
  cases i.op <;> simp

@[simp] theorem carrying_setCell (s : State) (c : CellId) (i : Ins) (x : Cell) :
    (s.carrying c i).setCell c x = s.setCell c x := setCell_setCell _ _ _ _
@[simp] theorem rdS_holding (x : Cell) (i : Ins) (n : BitVec 5) : (x.holding i).rdS n = x.rdS n := rfl
@[simp] theorem rdD_holding (x : Cell) (i : Ins) (n : BitVec 4) : (x.holding i).rdD n = x.rdD n := rfl
@[simp] theorem reg_holding (x : Cell) (i : Ins) (o : Nat) : (x.holding i).reg o = x.reg o := rfl
@[simp] theorem freg_carrying (s : State) (c : CellId) (i : Ins) (a : Nat) : (s.carrying c i).freg a = s.freg a := rfl

theorem holding_plain (x : Cell) (i : Ins) (h : Op.plain i.op) :
    x.holding i = { x with window := [x.entry i], npc := (x.holding i).npc, stuck := none } := by
  have := predict_stack x x.npc i false h.2.2.1 h.2.2.2.1
  simp only [Cell.holding, this]

theorem entry_waited {c : CellId} {s : State} (h : Ready c s) (i : Ins) : ((s.cell c).entry i).waited = none :=
  queueWait_idle h.idle i

/-- A plain instruction whose evaluation changes no more than its cell and the draws, and in the cell nothing that
governs the sequencer, retires with that change, and its completion post follows. -/
theorem issue_plain {c : CellId} {s s1 : State} {i : Ins} {e : InFlight} {z : Cell} {post : Bool} (h : Ready c s)
    (hf : Fetched s c i.op)
    (hop : Op.plain i.op)
    (hev : evalOp c ((s.cell c).entry i) (s.carrying c i) = .done s1 none post)
    (hs : s1 = { s with cells := s1.cells, free := s1.free }) (ho : ∀ d, d ≠ c → s1.cell d = s.cell d)
    (hz : s1.cell c = { z with window := [e], npc := ((s.cell c).holding i).npc, stuck := none })
    (hpc : e.pc = (s.cell c).npc) (hop' : e.ins.op = i.op) (hx : e.ins.x = i.x)
    (hn : e.next = ((s.cell c).entry i).next) (hwt : e.waited = none)
    (hc : z.reg CR.SQ_CTRL = (s.cell c).reg CR.SQ_CTRL) (hw : SMap.wf cellResetVal z.regs = true) :
    ∃ u, Retires commitCounters c s z (nextPc (s.cell c).npc i.op) u ∧
      s.issue c i = if post && i.op.long then u.completionPost c i.x.pen i.x.psem else u := by
  obtain ⟨u, hu, hi⟩ := issue_done (e := e) (jump := none) (post := post) h hf hop.1 hev
    ⟨by rw [hz], hpc, hop', hx, hn, (fun o k => by rw [hwt] at k; cases k),
      by rw [hz, cell_carrying], by rw [hz, cell_carrying]; exact hc, by rw [hz]; exact hw⟩
  refine ⟨u, ?_, hi⟩
  have hk : commitOf e none = commitCounters := (if_pos (by
    rw [hn, hpc, hop']; exact entry_next _ _ hop)).trans (countersOf_none hwt)
  rw [hk] at hu
  refine retires_over hu ?_ ho hs
  rw [hz]

/-- The same where the evaluation applies F to the cell. -/
theorem issue_cell {c : CellId} {s : State} {i : Ins} {F : Cell → Cell} {post : Bool} (h : Ready c s)
    (hf : Fetched s c i.op)
    (hop : Op.plain i.op)
    (hev : evalOp c ((s.cell c).entry i) (s.carrying c i) =
      .done (s.setCell c (F ((s.cell c).holding i))) none post)
    (hF : F { s.cell c with window := [(s.cell c).entry i], npc := ((s.cell c).holding i).npc, stuck := none } =
      { F (s.cell c) with window := [(s.cell c).entry i], npc := ((s.cell c).holding i).npc, stuck := none })
    (hc : (F (s.cell c)).reg CR.SQ_CTRL = (s.cell c).reg CR.SQ_CTRL)
    (hw : SMap.wf cellResetVal (F (s.cell c)).regs = true) :
    ∃ u, Retires commitCounters c s (F (s.cell c)) (nextPc (s.cell c).npc i.op) u ∧
      s.issue c i = if post && i.op.long then u.completionPost c i.x.pen i.x.psem else u := by
  refine issue_plain (e := (s.cell c).entry i) h hf hop hev rfl (fun d hd => cell_setCell_other _ _ hd) ?_ rfl rfl rfl rfl
    (entry_waited h i) hc hw
  rw [cell_setCell_self, ← hF, ← holding_plain _ _ hop]

/-- The entry of an instruction that has met its OC errors. -/
def metEntry (x : Cell) (i : Ins) : InFlight :=
  { x.entry i with ins := { i with u := { i.u with ocCorrected := 0, ocBad := [] } } }

/-- The carried-out instruction meets its OC errors. -/
theorem ocUpset_carrying {c : CellId} {s : State} (h : Ready c s) (i : Ins) (hop : Op.plain i.op) :
    (s.carrying c i).ocUpset c i.u = s.setCell c { s.upsetCell c i.u with
      window := [metEntry (s.cell c) i], npc := ((s.cell c).holding i).npc, stuck := none } := by
  unfold State.ocUpset State.upsetCell
  unfold State.ocUpset
  rw [State.modCell, cell_carrying, carrying_setCell, cell_modCell_self]
  congr 1
  rw [holding_plain _ _ hop]
  have hw := h.idle
  simp only [Cell.modHead, Cell.ocErrors, cellCount_window, hw]
  rfl

/-- The same where the evaluation meets OC errors and then applies F to the cell. -/
theorem issue_upset {c : CellId} {s : State} {i : Ins} {F : Cell → Cell} {post : Bool} (h : Ready c s)
    (hf : Fetched s c i.op)
    (hop : Op.plain i.op)
    (hev : evalOp c ((s.cell c).entry i) (s.carrying c i) = .done (s.setCell c (F { s.upsetCell c i.u with
      window := [metEntry (s.cell c) i], npc := ((s.cell c).holding i).npc, stuck := none })) none post)
    (hF : F { s.upsetCell c i.u with
        window := [metEntry (s.cell c) i], npc := ((s.cell c).holding i).npc, stuck := none } =
      { F (s.upsetCell c i.u) with window := [metEntry (s.cell c) i], npc := ((s.cell c).holding i).npc, stuck := none })
    (hc : (F (s.upsetCell c i.u)).reg CR.SQ_CTRL = (s.upsetCell c i.u).reg CR.SQ_CTRL)
    (hw : SMap.wf cellResetVal (s.upsetCell c i.u).regs = true →
      SMap.wf cellResetVal (F (s.upsetCell c i.u)).regs = true) :
    ∃ u, Retires commitCounters c s (F (s.upsetCell c i.u)) (nextPc (s.cell c).npc i.op) u ∧
      s.issue c i = if post && i.op.long then u.completionPost c i.x.pen i.x.psem else u := by
  have hreg : (s.upsetCell c i.u).reg CR.SQ_CTRL = (s.cell c).reg CR.SQ_CTRL := by
    unfold State.upsetCell State.ocUpset
    rw [cell_modCell_self]
    simp only [Cell.modHead, Cell.ocErrors, cellCount_window, h.idle]
    exact (reg_count_other _ _ (by decide)).trans (reg_count_other _ _ (by decide))
  have hwf : SMap.wf cellResetVal (s.upsetCell c i.u).regs = true := by
    unfold State.upsetCell State.ocUpset
    rw [cell_modCell_self]
    simp only [Cell.modHead, Cell.ocErrors, cellCount_window, h.idle]
    exact wf_count _ _ _ (wf_count _ _ _ h.canon)
  refine issue_plain (e := metEntry (s.cell c) i) h hf hop hev rfl (fun d hd => cell_setCell_other _ _ hd) ?_ rfl rfl
    rfl rfl (entry_waited h i) (hc.trans hreg) (hw hwf)
  rw [cell_setCell_self, hF]

/-- An instruction that writes rd and no more. -/
theorem issue_rd {c : CellId} {s : State} {i : Ins} {rd : BitVec 5} {v : Word} (h : Ready c s)
    (hf : Fetched s c i.op) (hop : Op.plain i.op)
    (hev : evalOp c ((s.cell c).entry i) (s.carrying c i) = doneRd (s.carrying c i) c rd v) :
    ∃ u, Retires commitCounters c s ((s.cell c).wrS rd v) (nextPc (s.cell c).npc i.op) u ∧
      s.issue c i = if i.op.long then u.completionPost c i.x.pen i.x.psem else u := by
  have := issue_cell (F := fun x => x.wrS rd v) (post := true) h hf hop ?_ ?_ ?_ ?_
  · simpa using this
  · rw [hev, doneRd, State.modCell, cell_carrying, carrying_setCell]
  · simp only [Cell.wrS]; split <;> rfl
  · simp [Cell.reg]
  · simpa using h.canon

/-! ### Going on -/

/-- Where no instruction waits in any window and neither a working copy nor a record is owed, nobody goes on. -/
theorem goOn_still {s : State} (h : Still s) : s.goOn = s := by
  have h1 : s.redoWc = s := by simp only [State.redoWc, h.done, List.foldl_nil]; rw [← h.done]
  have h2 (l : List CellId) : s.pumpAll l = s := by
    induction l with
    | nil => rfl
    | cons c l ih =>
      have hc : s.pump c = s := by simp only [State.pump, h.empty c, List.length_nil, State.pumpN]
      simp only [State.pumpAll, List.foldl_cons, hc]
      exact ih
  rw [State.goOn, h.settled, List.isEmpty_nil, if_pos rfl, h1, h2]

end Sys2Proof.Laws
end

