-- ==== Sys2Proof/Laws/Lines.lean ====
section
/-! SUPPORT. What the operations over cached lines leave as it is: an entry read after it is set, the calling back of host
copies, and one lemma that says all that making room in a set, storing a line, or leaving a near copy can do. -/

namespace Sys2Proof.Laws

open Sys2Proof.Machine

/-! ### Entries -/

@[simp] theorem setLine_cells (s : State) (la : Nat) (l : Line) : (s.setLine la l).cells = s.cells := rfl
@[simp] theorem setLine_fregs (s : State) (la : Nat) (l : Line) : (s.setLine la l).fregs = s.fregs := rfl
@[simp] theorem setLine_hs (s : State) (la : Nat) (l : Line) : (s.setLine la l).hs = s.hs := rfl
@[simp] theorem setLine_slices (s : State) (la : Nat) (l : Line) : (s.setLine la l).slices = s.slices := rfl

/-- An entry that is set reads so, where it is none of an absent line or the entries are canonical. -/
theorem line_setLine_self (s : State) (la : Nat) (l : Line)
    (h : l ≠ {} ∨ SMap.wf (fun _ => ({} : Line)) s.mem.lines = true) : (s.setLine la l).line la = l := by
  rcases h with h | h
  · simp only [State.line, State.setLine, SMap.set]
    rw [if_neg (by simpa using h), smap_get_insert_self]
  · exact smap_get_set_self _ _ _ _ h

@[simp] theorem line_setLine_other (s : State) {la lb : Nat} (l : Line) (h : lb ≠ la) :
    (s.setLine la l).line lb = s.line lb := smap_get_set_other _ _ _ h

@[simp] theorem line_lruTick (s : State) (k la : Nat) :
    State.line { s with mem := { s.mem with lruTick := k } } la = s.line la := rfl

@[simp] theorem line_count (s : State) (a n la : Nat) : (s.count a n).line la = s.line la := rfl

/-! ### What making room can do -/

/-- State t is s with lines of set σ changed, none of `las` among them, and host copies called back. -/
structure Evicts (σ : Nat) (las : List Nat) (s t : State) : Prop where
  kept : ∀ la, la ∈ las ∨ homeSet (la * 256) ≠ σ → t.line la = s.line la
  frame : t = { s with
    mem := { s.mem with lines := t.mem.lines }, fregs := t.fregs, hs := { s.hs with snooped := t.hs.snooped } }

theorem Evicts.refl (σ : Nat) (las : List Nat) (s : State) : Evicts σ las s s := ⟨fun _ _ => rfl, rfl⟩

theorem Evicts.trans {σ : Nat} {las : List Nat} {s t u : State} (h : Evicts σ las s t) (g : Evicts σ las t u) :
    Evicts σ las s u := by
  refine ⟨fun la p => (g.kept la p).trans (h.kept la p), ?_⟩
  rw [g.frame, h.frame]

/-- Fewer lines are known to be kept. -/
theorem Evicts.mono {σ : Nat} {las lbs : List Nat} {s t : State} (h : Evicts σ las s t) (p : ∀ la ∈ lbs, la ∈ las) :
    Evicts σ lbs s t := ⟨fun la q => h.kept la (q.imp_left (p la)), h.frame⟩

/-- One line of the set changed. -/
theorem evicts_setLine {σ la : Nat} {las : List Nat} (s : State) (l : Line) (h : la ∉ las) (hs : homeSet (la * 256) = σ) :
    Evicts σ las s (s.setLine la l) := by
  refine ⟨fun lb p => line_setLine_other s l ?_, rfl⟩
  rintro rfl
  exact p.elim h (fun q => q hs)

theorem evicts_recallOne {σ : Nat} {las : List Nat} {w : Bool} (s : State) (b : Nat) :
    Evicts σ las s (if s.hs.snooped.any (fun n => n.1 == b) then s
      else State.count { s with hs := { s.hs with snooped := s.hs.snooped ++ [(b, w)] } } FR.HI_BISNP_CNT) := by
  split
  · exact Evicts.refl σ las s
  · exact ⟨fun _ _ => rfl, rfl⟩

/-- Calling host copies back changes no line. -/
theorem evicts_recall {σ : Nat} {las : List Nat} (s : State) (la : Nat) (w : Bool) : Evicts σ las s (s.recall la w) := by
  unfold State.recall
  generalize s.hostBlocks la w = bs
  induction bs generalizing s with
  | nil => exact Evicts.refl σ las s
  | cons b bs ih => exact (evicts_recallOne s b).trans (ih _)

/-- A line evicted from its home: its data go to memory later. -/
theorem evicts_evictHome {σ la : Nat} {las : List Nat} (s : State) (h : la ∉ las) (hs : homeSet (la * 256) = σ) :
    Evicts σ las s (s.evictHome la) := by
  refine (evicts_recall s la true).trans ?_
  simp only [State.evictHome]
  split
  · exact evicts_setLine _ _ h hs
  · rename_i hd
    have : ((s.recall la true).line la).dirty = false := by
      simp only [Bool.or_eq_true, not_or, Bool.not_eq_true] at hd
      exact hd.1
    simp only [State.dropLine, this]
    exact evicts_setLine _ _ h hs

/-- What a set holds lies in it. -/
theorem homeSet_residents {s : State} {n : CellId} {σ : Nat} {r : Resident} (h : r ∈ s.residents n σ) :
    homeSet (r.la * 256) = σ := by
  simp only [State.residents, List.mem_flatMap] at h
  obtain ⟨e, -, he⟩ := h
  split at he
  · rename_i hs
    have : r.la = e.1 := by
      simp only [Line.residents, List.mem_append, List.mem_map] at he
      rcases he with he | ⟨k, -, rfl⟩
      · split at he
        · rw [List.mem_singleton] at he; rw [he]
        · cases he
      · rfl
    rw [this]
    exact beq_iff_eq.mp hs
  · cases he

/-- The evictor chooses among what is there. -/
theorem lruOf_mem : ∀ {rs : List Resident} {v : Resident}, lruOf rs = some v → v ∈ rs
  | [], _, h => by cases h
  | e :: es, v, h => by
    simp only [lruOf] at h
    split at h
    · exact List.mem_cons_of_mem _ (lruOf_mem h)
    · split at h
      · cases h; exact List.mem_cons_self
      · rename_i b hb
        split at h
        · cases h; exact List.mem_cons_self
        · cases h; exact List.mem_cons_of_mem _ (lruOf_mem hb)

/-- Making room in a set evicts from that set, and keeps the lines that it is told to keep (R219, R233). -/
theorem evicts_roomFor : ∀ (fuel : Nat) (n : CellId) (σ : Nat) (las : List Nat) (own : Option (Nat × Nat × Nat))
    (len : Nat) (s : State), Evicts σ las s (State.roomFor fuel n σ las own len s).1
  | 0, _, σ, las, _, _, s => Evicts.refl σ las s
  | fuel + 1, n, σ, las, own, len, s => by
    simp only [State.roomFor]
    split
    · exact Evicts.refl σ las s
    · split
      · exact Evicts.refl σ las s
      · rename_i v hv
        obtain ⟨hm, hn⟩ := List.mem_filter.mp (lruOf_mem hv)
        have hσ := homeSet_residents hm
        have hl : v.la ∉ las := by
          have := hn
          simp only [Bool.and_eq_true, Bool.not_eq_true', List.contains_eq_mem, decide_eq_false_iff_not] at this
          exact this.1
        split
        · split
          · refine (((evicts_roomFor fuel _ σ (v.la :: las) _ _ s).mono (fun _ h => List.mem_cons_of_mem _ h)).trans
              (evicts_setLine _ _ hl hσ)).trans (evicts_roomFor fuel n σ las own len _)
          · exact (evicts_setLine _ _ hl hσ).trans (evicts_roomFor fuel n σ las own len _)
        · exact (evicts_evictHome s hl hσ).trans (evicts_roomFor fuel n σ las own len _)

/-! ### What storing a line can do -/

/-- State t is s with line la stored as m somewhere in its set, and what had to leave for it gone. -/
structure Stores (la : Nat) (m : Line → Prop) (s t : State) : Prop where
  line : m (t.line la)
  kept : ∀ lb, homeSet (lb * 256) ≠ homeSet (la * 256) → t.line lb = s.line lb
  frame : t = { s with
    mem := { s.mem with lines := t.mem.lines, lruTick := s.mem.lruTick + 1 }
    fregs := t.fregs, hs := { s.hs with snooped := t.hs.snooped } }

/-- Less is said of the line. -/
theorem Stores.mono {la : Nat} {m k : Line → Prop} {s t : State} (h : Stores la m s t) (g : ∀ l, m l → k l) :
    Stores la k s t := ⟨g _ h.line, h.kept, h.frame⟩

/-- A line set once its set has room for it, as the most recently used. -/
theorem Evicts.stores {la : Nat} {s t : State} (h : Evicts (homeSet (la * 256)) [la] s t) (l : Line) (hl : l ≠ {}) :
    Stores la (· = l) s (State.setLine { t with mem := { t.mem with lruTick := t.mem.lruTick + 1 } } la l) := by
  refine ⟨line_setLine_self _ _ _ (.inl hl), fun lb hb => ?_, ?_⟩
  · exact (line_setLine_other _ _ (by rintro rfl; exact hb rfl)).trans (h.kept lb (.inr hb))
  · rw [h.frame]; rfl

/-- A line that is there is stored with its bytes and state as given, in some scheme, frame and slot (R218, R219). -/
theorem stores_place (s : State) (la : Nat) (l : Line) (h : l.st ≠ .i) :
    Stores la (fun m => ∃ g w k u, m = { l with scheme := g, way := w, slot := k, lru := u }) s (s.place la l) := by
  simp only [State.place, State.used]
  refine ((evicts_roomFor 512 _ _ [la] _ _ s).stores _ (fun e => h ?_)).mono (fun _ e => ?_)
  · exact congrArg Line.st e
  · exact ⟨_, _, _, _, e⟩

/-- The path of an access changes a counter alone (R238). -/
theorem Stores.viaPath {la : Nat} {m : Line → Prop} {s t : State} (h : Stores la m s t) (n : CellId) (w : Nat) :
    Stores la m s (t.viaPath n w) := by
  have : ∃ f, t.viaPath n w = { t with fregs := f } := by
    simp only [State.viaPath, State.countBypass]
    repeat' split
    all_goals exact ⟨_, rfl⟩
  obtain ⟨f, hf⟩ := this
  rw [hf]
  exact ⟨h.line, h.kept, by rw [h.frame]⟩

/-- A near copy left in the slice of a cell changes the line's list of near copies alone (R220). -/
theorem stores_placeNear (s : State) (c : CellId) (la : Nat) (h : (s.line la).st ≠ .i) :
    Stores la (fun m => ∃ k : Near, k.cell = c ∧
      m = { s.line la with near := (s.line la).near.filter (fun k => k.cell != c) ++ [k] }) s (s.placeNear c la) := by
  simp only [State.placeNear, State.modLine]
  have hl := (evicts_roomFor 512 c (homeSet (la * 256)) [la]
    (((s.line la).near.find? (fun k => k.cell == c)).map (fun k => (k.way, k.slot, k.scheme.slots)))
    (s.schemeFor { s.line la with cls := 0, pinned := false }).slots s).kept la (.inl List.mem_cons_self)
  refine Stores.viaPath (((evicts_roomFor 512 c _ [la] _ _ s).stores _ (fun e => h ?_)).mono (fun _ e => ?_)) _ _
  · exact (congrArg Line.st hl).symm.trans (congrArg Line.st e)
  · rw [e, line_lruTick, hl]
    exact ⟨_, rfl, rfl⟩

end Sys2Proof.Laws
end

