-- ==== Sys2Proof/Laws/Power.lean ====
section
/-! SUPPORT. What an interval of the power controller leaves as it is. -/

namespace Sys2Proof.Laws

open Sys2Proof.Machine

/-- State t is state s but for what an interval of the power controller writes: cells, floor registers, the controller
itself, the Parade engine and the draws. -/
def Controlled (s t : State) : Prop :=
  ∃ cells fregs pw ce free, t = { s with cells, fregs, pw, ce, free }

theorem Controlled.refl (s : State) : Controlled s s := ⟨_, _, _, _, _, rfl⟩

theorem Controlled.trans {s t u : State} (h : Controlled s t) (h' : Controlled t u) : Controlled s u := by
  obtain ⟨_, _, _, _, _, rfl⟩ := h
  obtain ⟨_, _, _, _, _, rfl⟩ := h'
  exact ⟨_, _, _, _, _, rfl⟩

theorem Controlled.dev {s t : State} (h : Controlled s t) : t.dev = s.dev := by
  obtain ⟨_, _, _, _, _, rfl⟩ := h; rfl
theorem Controlled.fl {s t : State} (h : Controlled s t) : t.fl = s.fl := by
  obtain ⟨_, _, _, _, _, rfl⟩ := h; rfl

variable {s t : State}

theorem Controlled.setFreg (h : Controlled s t) (a v : Nat) : Controlled s (t.setFreg a v) := h.trans ⟨_, _, _, _, _, rfl⟩
theorem Controlled.count (h : Controlled s t) (a n : Nat) : Controlled s (t.count a n) := h.trans ⟨_, _, _, _, _, rfl⟩
theorem Controlled.orFreg (h : Controlled s t) (a m : Nat) : Controlled s (t.orFreg a m) := h.trans ⟨_, _, _, _, _, rfl⟩
theorem Controlled.clrFreg (h : Controlled s t) (a m : Nat) : Controlled s (t.clrFreg a m) := h.trans ⟨_, _, _, _, _, rfl⟩
theorem Controlled.stall (h : Controlled s t) (c : CellId) (o : Nat) : Controlled s (t.stall c o) := h.trans ⟨_, _, _, _, _, rfl⟩
theorem Controlled.withPw (h : Controlled s t) (p : PwrState) (n : Nat) : Controlled s { t with pw := p, free := n } :=
  h.trans ⟨_, _, _, _, _, rfl⟩

theorem Controlled.ite {c : Prop} [Decidable c] {u : State} (ht : Controlled s t) (hu : Controlled s u) :
    Controlled s (if c then t else u) := by
  split <;> assumption

theorem Controlled.foldl {α : Type} {f : State → α → State} (l : List α) (h : Controlled s t)
    (hf : ∀ t a, Controlled s t → Controlled s (f t a)) : Controlled s (l.foldl f t) := by
  induction l generalizing t with
  | nil => exact h
  | cons a l ih => exact ih (hf t a h)

theorem Controlled.slowInst (h : Controlled s t) (k : Fin 32) : Controlled s (t.slowInst k) := by
  refine h.trans ?_
  unfold State.slowInst
  split
  · exact .ite ⟨_, _, _, _, _, rfl⟩ (.refl t)
  · exact .refl t

theorem Controlled.showPoint (h : Controlled s t) : Controlled s t.showPoint := h.setFreg _ _
theorem Controlled.choosePoint (h : Controlled s t) (a b : Nat) : Controlled s (t.choosePoint a b) :=
  (h.withPw _ _).showPoint
theorem Controlled.stackTherm (h : Controlled s t) : Controlled s t.stackTherm := h.withPw _ _
theorem Controlled.evalPhase (h : Controlled s t) : Controlled s t.evalPhase := (h.withPw _ _).setFreg _ _
theorem Controlled.closeWindow (h : Controlled s t) : Controlled s t.closeWindow :=
  (((h.count _ _).withPw _ _).withPw _ _ : Controlled s _)

theorem Controlled.showLevel (h : Controlled s t) : Controlled s t.showLevel := by
  unfold State.showLevel
  extract_lets p st st' s1 s2 s3
  have h2 : Controlled s s2 := .ite (.count (h.setFreg _ _) _ _) (h.setFreg _ _)
  have h3 : Controlled s s3 := .ite (h2.count _ _) h2
  have h4 : Controlled s (if p.level = 2 then State.slowInstances (s3.orFreg FR.CE_STATUS 16) else s3.clrFreg FR.CE_STATUS 16) :=
    .ite (.foldl _ (h3.orFreg _ _) fun _ k h => h.slowInst k) (h3.clrFreg _ _)
  exact .ite h3 (.ite h4 (.foldl _ h4 fun _ c h => .ite (h.stall c _) h))

theorem Controlled.setFrequency (h : Controlled s t) : Controlled s t.setFrequency := by
  unfold State.setFrequency
  have h1 (x : Nat) : Controlled s (if t.pw.fCap < x then t.count FR.PWR_CAP_INT_CNT else t) := .ite (h.count _ _) h
  exact .ite (h1 _) (.ite (.choosePoint (h1 _) _ _) (.choosePoint (h1 _) _ _))

/-- R447: an interval changes nothing outside the controller's reach. -/
theorem controlStep_controlled (s : State) (acts : List Nat) : Controlled s (s.controlStep acts) := by
  unfold State.controlStep
  refine .setFrequency (.showLevel (.stackTherm (.withPw (.evalPhase (.setFreg (.withPw ?_ _ _) _ _)) _ _)))
  exact .ite (.closeWindow (.setFreg (.refl s) _ _)) (.setFreg (.refl s) _ _)

end Sys2Proof.Laws
end

