-- ==== Sys2Proof/WellFormed.lean ====
section
/-! DEFINITION. Which commands a row of the opcode table spells: where two rows share an opcode and differ in a field,
the field; where an operand is a list or a number that stands for a field of fixed size, its size. -/

namespace Sys2Proof

/-- The agents that send reduction contributions (R226). -/
def Agent.reduces : Agent → Bool
  | .stream _ | .harvest _ | .parade => true
  | .cell _ | .fetch _ | .host => false

/-- A contribution names some word, at least one contribution is expected, and its sender is one that sends them (R226,
R228). -/
def contribOk (k : Contrib) : Bool := k.mask != 0 && decide (1 ≤ k.n) && k.agent.reduces

/-- A flit is replayed one to four times (R236). -/
def vportOk (v : VportFault) : Bool := decide (1 ≤ v.replays) && decide (v.replays ≤ 4)

/-- The HBM blocks that a read finds bad lie in addressable HBM (R246). -/
def eccOk (e : HbmEcc) : Bool := e.bad.all (fun b => decide (b < 0x13FB0000000 / 64))

/-- The same of what an instruction finds in memory as it reads. -/
def upsetOk (u : Upset) : Bool := eccOk u.mem.hbm

/-- An interval has at most one reading for each sensor and stack, and one count for each activity (R448, R458). -/
def intervalOk (i : IntervalIn) : Bool :=
  decide (i.temps.length ≤ 64) && decide (i.hbmTemps.length ≤ 20) && decide (i.acts.length ≤ 14)

/-- Calibration blocks are numbered from 1, and only steps 6 and 7 have substeps (R468, R495); only service firmware stays
at a step (R469, R480). -/
def bringOk (b : BringIn) : Bool :=
  b.badCal.all (fun n => n != 0) && b.stuck.all (fun n => decide (6 ≤ n.val) && decide (n.val ≤ 10)) &&
    (match b.stuck with
    | some 6 => decide (1 ≤ b.sub.val) && decide (b.sub.val ≤ 8)
    | some 7 => true
    | _ => b.sub == 0)

/-- An ECDSA P-384 signature has 96 bytes (R476). -/
def unlockOk : UnlockIn → Bool
  | .signature sig => sig.length == 96
  | .token t => t.signature.length == 96

/-- An address lies in the 52-bit physical space or in BAR2 (R246, R417). -/
def targetOk : Target → Bool
  | .reg pa => decide (pa < 2 ^ 52)
  | .bar2 off => decide (off < 0x100000)
  | .hdm base => base.all (fun b => decide (b < 2 ^ 64))
  | .msix _ _ => true

/-- Whether a command is well formed. -/
def wellFormed (i : Instr) : Bool :=
  match i with
  | .alu _ _ => true
  | .alui _ _ => true
  | .mul _ _ => true
  | .movi _ f => f.func != 1
  | .movhi _ f => f.func == 1
  | .ld _ f => upsetOk f.met
  | .st _ f => upsetOk f.met
  | .ldo _ _ _ => true
  | .sto _ _ _ => true
  | .spf _ _ => true
  | .dld _ _ _ _ => true
  | .dldm _ _ _ u => upsetOk u
  | .dsto _ _ _ _ => true
  | .dsetw _ _ _ _ => true
  | .dgetw _ _ _ _ => true
  | .br _ _ => true
  | .bloop _ _ => true
  | .jal _ _ => true
  | .jalr _ _ => true
  | .csrr _ _ => true
  | .csrw _ _ => true
  | .nop _ _ => true
  | .brk _ _ => true
  | .tret _ _ => true
  | .sempost _ _ => true
  | .semwait _ _ => true
  | .sempostr _ _ => true
  | .qpush _ _ _ _ => true
  | .qpop _ _ _ u => upsetOk u
  | .qcnt _ _ _ _ => true
  | .qmark _ _ _ _ => true
  | .qrewind _ _ _ _ => true
  | .qrel _ _ _ _ => true
  | .sxgo _ _ _ _ => true
  | .mma _ _ _ u => upsetOk u
  | .mmat _ _ _ u => upsetOk u
  | .gfill _ _ _ u => upsetOk u
  | .mmv _ _ _ u => upsetOk u
  | .mxld _ _ _ _ => true
  | .mxst _ _ _ _ => true
  | .vadd _ _ _ _ => true
  | .vsub _ _ _ _ => true
  | .vmul _ _ _ _ => true
  | .vfma _ _ _ _ => true
  | .vfmaw _ _ _ _ => true
  | .vmin _ _ _ _ => true
  | .vmax _ _ _ _ => true
  | .vcmp _ _ _ _ => true
  | .vsel _ _ _ _ => true
  | .vmov _ _ _ _ => true
  | .vabs _ _ _ _ => true
  | .vneg _ _ _ _ => true
  | .vcvt _ _ _ _ => true
  | .fexp2 _ _ _ _ => true
  | .flog2 _ _ _ _ => true
  | .frcp _ _ _ _ => true
  | .frsq _ _ _ _ => true
  | .rsum _ _ _ _ => true
  | .rsumd _ _ _ _ => true
  | .rssq _ _ _ _ => true
  | .rmax _ _ _ _ => true
  | .rmin _ _ _ _ => true
  | .ramax _ _ _ _ => true
  | .rfstoreSlot _ f _ _ => f.func != 1
  | .rfstoreReg _ f _ _ => f.func == 1
  | .rfclr _ _ _ _ => true
  | .vsmax _ _ _ _ => true
  | .vsmon _ _ _ _ => true
  | .vsmfin _ _ _ _ => true
  | .hvsubDeliver _ _ _ _ => true
  | .hvsubQuery _ _ _ _ => true
  | .eqnx _ _ => true
  | .bar _ _ => true
  | .phase _ f => f.func != 1
  | .phaseAnn _ f => f.func == 1
  | .fence _ f => f.func != 1
  | .fenceE _ f => f.func == 1
  | .isync _ _ => true
  | .yield _ _ => true
  | .yieldExpiry _ => true
  | .faultDelivery _ b => eccOk b.met.hbm
  | .loopMispredict _ => true
  | .runAheadEntry _ => true
  | .runAheadLimit _ => true
  | .sqStart _ _ => true
  | .sqHalt _ _ => true
  | .arrayLend _ => true
  | .arrayReturn _ => true
  | .barrierComplete _ => true
  | .semwaitSatisfied _ _ => true
  | .heldPostDelivery _ => true
  | .semValWrite _ _ _ _ => true
  | .ruFaccWrite _ _ _ _ => true
  | .mxSelftest _ _ _ => true
  | .selftestDone _ _ => true
  | .gfillLimitExpiry _ => true
  | .sxAccept _ => true
  | .linkEmptyTake _ _ => true
  | .microTransferDone _ n => upsetOk n.met
  | .sxTransferComplete _ _ => true
  | .sxResume _ _ _ => true
  | .sxAbandon _ _ _ => true
  | .sxShareWrite _ _ _ => true
  | .shareWindow _ => true
  | .conveyorItemWrite _ _ _ => true
  | .qCfgWrite _ _ _ _ => true
  | .coherentRead _ _ _ _ => true
  | .coherentWrite _ _ _ _ => true
  | .homeRead _ _ _ _ _ => true
  | .homeWrite _ _ _ _ _ => true
  | .reductionContribution _ k => contribOk k
  | .reductionApply _ => true
  | .homeEviction _ _ => true
  | .lineFill _ _ e => eccOk e
  | .writebackAck _ => true
  | .winCfgWrite _ _ _ => true
  | .winResizeDone _ => true
  | .hrUnpin _ _ => true
  | .vportCrcError _ _ v => vportOk v
  | .layerRetire _ => true
  | .pageWalkDone _ _ _ x => eccOk x.met
  | .prResolve _ _ => true
  | .prRefuse _ _ => true
  | .prTimeout _ => true
  | .trInvalRange _ _ => true
  | .trInvalAll _ _ => true
  | .invalDone => true
  | .atsInvalidate _ _ => true
  | .priResponse _ _ => true
  | .tagApertureRead pa => eccOk pa.met
  | .scrubRead _ _ _ => true
  | .hbmRefresh _ => true
  | .updateGroupDone _ g => eccOk g.met.hbm
  | .stepDecision => true
  | .equinoxBarrier => true
  | .lendStarved _ => true
  | .fingerprintExchange _ _ => true
  | .bisectionRound _ => true
  | .rcReleaseCommit _ => true
  | .rcReleaseDiscard _ => true
  | .dxSinkWrite _ => true
  | .applyRecord _ => true
  | .shardExport _ => true
  | .shardImport _ => true
  | .capture _ => true
  | .replay _ _ => true
  | .jobEnd => true
  | .anResolved _ _ _ => true
  | .anTimeout _ _ => true
  | .trainingDone _ _ _ => true
  | .alignLock _ _ => true
  | .alignTimeout _ _ => true
  | .alignmentLoss _ _ => true
  | .fecErrorRate _ _ corrected bad total => decide (corrected + bad ≤ total)
  | .faultRetry _ _ => true
  | .hello _ _ => true
  | .helloRetry _ => true
  | .helloTimeout _ => true
  | .data _ payload _ => decide (payload.length ≤ 4096)
  | .ack _ _ => true
  | .ready _ _ => true
  | .abortFrame _ _ _ => true
  | .ackTimer _ => true
  | .retransmitTimeout _ => true
  | .pfcFrame _ _ _ _ => true
  | .ceArm _ _ _ => true
  | .ceDisarm _ _ => true
  | .instanceTrigger _ => true
  | .instanceComplete _ => true
  | .ceAbort _ _ => true
  | .receiverDetach _ _ _ => true
  | .sqDoorbell _ _ => true
  | .cqDoorbell _ _ => true
  | .queueCfgWrite _ _ _ => true
  | .commandFetch _ => true
  | .nopCommand _ => true
  | .cellStart _ => true
  | .cellHalt _ => true
  | .cellReset _ => true
  | .bandReset _ => true
  | .imLoad _ => true
  | .copy k => eccOk k.met.hbm
  | .fill _ => true
  | .semPost _ => true
  | .completionWrite _ => true
  | .postTrigger => true
  | .mailboxPublish _ => true
  | .mailboxAck _ _ => true
  | .hdmRead hpa => hpa.arg % 64 == 0 && eccOk hpa.met.hbm
  | .hdmWrite hpa _ _ _ _ => hpa.arg % 64 == 0 && eccOk hpa.met.hbm
  | .bisnpResponse _ _ => true
  | .hostSnoop _ _ => true
  | .doeRequest _ => true
  | .functionLevelReset => true
  | .cxlReset b => b.all bringOk
  | .cxlResetMemoryClear b => b.all bringOk
  | .powerInterval i => intervalOk i
  | .powerMeasurement _ _ => true
  | .measurementLost => true
  | .voltageRampDone => true
  | .droopTrip _ => true
  | .droopEnd _ => true
  | .dozeEntry _ => true
  | .dozeWake _ => true
  | .cpSleep _ _ => true
  | .pwrWake _ _ _ => true
  | .wakeAdmission => true
  | .cellWakeDone _ => true
  | .pwrHbmSr _ _ => true
  | .hbmIdleSelfRefresh _ => true
  | .hbmSrExitDone _ => true
  | .pwrPhtClr _ => true
  | .railCheck _ sensors => sensors.all (fun e => decide (e.1 < 64))
  | .pllLockLoss => true
  | .droopRecalibrate _ => true
  | .hbmRetrain _ => true
  | .stbyPgRise => true
  | .stbyPgFall => true
  | .mainPgRise b => b.all bringOk
  | .mainPgFall => true
  | .vin48Low => true
  | .devRstAssert => true
  | .devRstRelease b => b.all bringOk
  | .cxlPerstAssert => true
  | .cxlPerstRelease b => b.all bringOk
  | .bringupStepTimeout b => b.all bringOk
  | .serviceFwTimeout b => b.all bringOk
  | .rstCell _ _ _ => true
  | .rstBand _ _ => true
  | .fatalError _ _ => true
  | .almanacRingCopy => true
  | .almSevClr _ => true
  | .getStatus => true
  | .readReg _ _ => true
  | .setCap _ => true
  | .reset _ b => b.all bringOk
  | .fwStageBegin _ _ => true
  | .fwStageData _ _ => true
  | .fwStageHbm _ _ => true
  | .fwStageEnd => true
  | .fwActivate _ b => b.all bringOk
  | .fwConfirm => true
  | .fwCommitSvn _ => true
  | .fwPatchSelect _ b => b.all bringOk
  | .lcTransition t b => t.signature.length == 96 && b.all bringOk
  | .lcEndPhase1 => true
  | .lcEndPhase2 _ b => b.all bringOk
  | .getVersion _ => true
  | .getCapabilities _ => true
  | .negotiateAlgorithms _ => true
  | .getDigests _ => true
  | .getCertificate _ _ => true
  | .challenge _ _ _ => true
  | .getMeasurements _ _ _ => true
  | .keyExchange _ _ pub => pub.length == 96
  | .finish m => m.mac.length == 48
  | .heartbeat _ => true
  | .endSession _ => true
  | .bypass => true
  | .idcode => true
  | .samplePreload _ => true
  | .extest => true
  | .clamp => true
  | .highz => true
  | .dbgChallenge => true
  | .dbgUnlock p b => unlockOk p && b.all bringOk
  | .dbgAccess _ => true
  | .ltnSel _ _ => true
  | .manufacturingTest _ => true
  | .registerWrite _ t _ _ => targetOk t
  | .engineInstructionComplete _ => true
  | .atsTranslationCompletion _ _ => true

end Sys2Proof
end

