-- ==== Sys2Proof/Tests/Slice0.lean ====
section
/-! SUPPORT. The tests of the model: ill-formed terms that the checks of WellFormed refuse, worked examples whose results come from the spec or from hand calculation by its rules, and for every statement with hypotheses a state and operands that meet them together. -/

open Sys2Proof Sys2Proof.Machine

namespace Sys2Proof.Tests

-- Each theorem is checked before the next begins: kernel evaluations side by side would need more memory.
set_option Elab.async false

/-! ### Well-formed commands: one ill-formed term for each check -/

/-- A contribution, an interval and a bring-up input that are in order. -/
def okContrib : Contrib := { op := .add, cls := 0, mask := 1, words := 0, agent := .parade }
/-- A token with a signature of 96 bytes. -/
def okToken : TokenIn := ⟨2, 1, List.replicate 96 0⟩

/-- Rows that share an opcode are told apart by func. -/
theorem test_wf_func : ([Instr.movi 0 { func := 1 }, .movhi 0 {}, .rfstoreSlot 0 { func := 1 } {} {}, .rfstoreReg 0 {} {} {},
    .phase 0 { func := 1 }, .phaseAnn 0 {}, .fence 0 { func := 1 }, .fenceE 0 {}].map wellFormed).all (!·) = true := by
  decide

theorem test_wf_func_ok : ([Instr.movi 0 {}, .movhi 0 { func := 1 }, .rfstoreSlot 0 {} {} {}, .rfstoreReg 0 { func := 1 } {} {},
    .phase 0 {}, .phaseAnn 0 { func := 1 }, .fence 0 {}, .fenceE 0 { func := 1 }].map wellFormed).all id = true := by decide

/-- Contributions, frame errors, fills, frames of errors, payloads and host blocks. -/
theorem test_wf_memory : ([Instr.reductionContribution 0 { okContrib with mask := 0 },
    .reductionContribution 0 { okContrib with n := 0 }, .reductionContribution 0 { okContrib with agent := .host }, .lineFill 0 false { bad := [0x13FB0000000 / 64] },
    .vportCrcError 0 0 { replays := 0 }, .vportCrcError 0 0 { replays := 5 }, .fecErrorRate 0 0 1 1 1,
    .data { src := 1 } (List.replicate 4097 0) 0, .hdmRead ⟨32, {}⟩, .hdmWrite ⟨63, {}⟩ 0 0 false none].map wellFormed).all (!·) =
      true := by decide +kernel

/-- The HBM blocks that a command finds bad as it reads lie in addressable HBM. -/
theorem test_wf_upset : (let e : HbmEcc := { bad := [0x13FB0000000 / 64] }
    let m : MemUpset := { hbm := e }
    let u : Upset := { mem := m }
    [Instr.ld 0 ⟨{}, u⟩, .st 0 ⟨{}, u⟩, .dldm 0 {} {} u, .qpop 0 {} {} u, .mma 0 {} {} u, .mmat 0 {} {} u, .gfill 0 {} {} u,
     .mmv 0 {} {} u, .faultDelivery 0 ⟨0, m⟩, .microTransferDone 0 ⟨0, u⟩, .pageWalkDone .host 0 false ⟨false, e⟩, .tagApertureRead ⟨0, e⟩,
     .updateGroupDone 0 ⟨0, m⟩, .copy ⟨0, m⟩, .hdmRead ⟨0, m⟩, .hdmWrite ⟨0, m⟩ 0 0 false none].map wellFormed).all (!·) = true := by
  decide +kernel

/-- At most one reading for each sensor and stack, one count for each activity, and a sensor that exists. -/
theorem test_wf_power : ([Instr.powerInterval { temps := List.replicate 65 0 }, .powerInterval { hbmTemps := List.replicate 21 0 },
    .powerInterval { acts := List.replicate 15 0 }, .railCheck [] [(64, 0)]].map wellFormed).all (!·) = true := by decide

/-- Bring-up inputs: calibration block 0 is none, service firmware stays at no step outside 6 to 10, and only steps 6 and 7
have substeps. -/
theorem test_wf_bringup : ([({ badCal := [0] } : BringIn), { stuck := some 5 }, { stuck := some 11 }, { stuck := some 6 },
    { stuck := some 8, sub := 1 }].all
    (fun b => ([Instr.cxlReset [b], .cxlResetMemoryClear [b], .mainPgRise [b], .devRstRelease [b], .cxlPerstRelease [b],
      .bringupStepTimeout [b], .serviceFwTimeout [b], .reset 0 [b], .fwActivate true [b], .fwPatchSelect 0 [b],
      .lcTransition okToken [b], .lcEndPhase2 0 [b], .dbgUnlock (.token okToken) [b]].map wellFormed).all (!·))) = true := by
  decide

/-- Signatures, public keys, MACs, and the targets of a register write. -/
theorem test_wf_sizes : ([Instr.lcTransition { okToken with signature := [0] } [], .keyExchange .doe 0 (List.replicate 95 0),
    .finish ⟨.i3c, List.replicate 47 0⟩,
    .dbgUnlock (.signature [0]) [], .dbgUnlock (.token { okToken with signature := [] }) [],
    .registerWrite .host (.reg (2 ^ 52)) 4 0, .registerWrite .host (.bar2 0x100000) 4 0,
    .registerWrite .host (.hdm (some (2 ^ 64))) 8 0].map wellFormed).all (!·) = true := by decide

/-! ### The worked examples of the spec -/

/-- "conversions from FP32" (R52 to R54). -/
theorem test_convert_examples :
    fConvert .fp32 .bf16 .ieee 0x3F808000 = (0x3F80, .none) ∧ fConvert .fp32 .bf16 .ieee 0x3F818000 = (0x3F82, .none) ∧
    fConvert .fp32 .e4m3 .sat 0x43E60000 = (0x7E, .none) ∧ fConvert .fp32 .e4m3 .ieee 0x43E60000 = (0x7E, .none) ∧
    fConvert .fp32 .e4m3 .sat 0x43FA0000 = (0x7E, .onlyOF) ∧
    fConvert .fp32 .e4m3 .ieee 0x43FA0000 = (0x7F, { of := true, nv := true }) ∧
    fConvert .fp32 .e5m2 .sat 0x43FA0000 = (0x60, .none) ∧ fConvert .fp32 .e5m2 .ieee 0x43FA0000 = (0x60, .none) := by
  decide +kernel

/-- "one stochastic rounding" (R57). -/
theorem test_stochastic_rounding_example :
    roundSR .bf16 .ieee 0x5A3107E2 (readOp .fp32 0x3F80C000) = (0x3F81, .none) ∧
    roundSR .bf16 .ieee 0x2F009B14 (readOp .fp32 0x3F80C000) = (0x3F80, .none) := by decide +kernel

/-- "a product below the window" (R59): the product at k = 2 is truncated, and the tie goes to the even value. -/
theorem test_dot_window_example :
    dotElem (([0x3F80, 0x3980, 0x33C0] ++ List.replicate 29 0).map (readOp .bf16))
      (([0x3F80, 0x3980, 0x3380] ++ List.replicate 29 0x3F80).map (readOp .bf16)) 0 0 = ⟨0x3F800000, .none, none⟩ := by
  decide +kernel

/-- "overflow and NaN in one element" (R61, R69): NV of cause 1 at k = 1, and OF. -/
theorem test_dot_nan_example :
    dotElem (([0x7F00, 0x7FC1] ++ List.replicate 30 0x3F80).map (readOp .bf16))
      (([0x4000, 0x3F80] ++ List.replicate 30 0x3F80).map (readOp .bf16)) 0 0 =
      ⟨0x7FC00000, { nv := true, of := true }, some (1, 0, 1)⟩ := by decide +kernel

/-- "splitting one third" (R63, R65). -/
theorem test_split_third_example :
    splitParts (readOp .fp32 0x3EAAAAAB) =
      (decodeExact .bf16 0x3EAB, decodeExact .bf16 0xBA2B, decodeExact .bf16 0x35AC) := by decide +kernel

/-- "an E5M2 gradient tile with automatic scale" (R101, R102): control word, scale exponent and elements. -/
theorem test_gradient_tile_example :
    (storeCtl 0x840000).map (fun k => storeExp k ([0x4541C000, 0xBF400000, 0x3C23D70A, 0x35800000].map (readOp .fp32))) =
      some 3 ∧
    [0x4541C000, 0xBF400000, 0x3C23D70A, 0x35800000].map
      (fun x => roundFV .e5m2 .sat (scaleFV 3 (readOp .fp32 x))) =
      [(0x76, .none), (0xC6, .none), (0x2D, .none), (0x00, .onlyUF)] := by decide +kernel

/-- "a causal row with a masked NaN" (R136 to R139). -/
theorem test_softmax_causal_example :
    vsmaxRow 0x3F800000 .bf16 .fp32 [0x0000, 0xBF80, 0xBF80, 0x7FC1] [true, true, true, false] =
      ⟨[0x3F000000, 0x3E800000, 0x3E800000, 0], 0x3F800000, .none, none⟩ := by decide +kernel

/-- "special rows" (R138, R139). -/
theorem test_softmax_special_examples :
    vsmaxRow 0x3F800000 .bf16 .bf16 [0, 0, 0, 0] [false, false, false, false] =
      ⟨[0, 0, 0, 0], 0xFF800000, { ms := true }, none⟩ ∧
    vsmaxRow 0x3F800000 .bf16 .bf16 [0xFF80, 0xFF80, 0xFF80, 0xFF80] [true, true, true, true] =
      ⟨[0, 0, 0, 0], 0xFF800000, { ms := true }, none⟩ ∧
    vsmaxRow 0x3F800000 .bf16 .bf16 [0x4040, 0x7F80, 0xC000, 0x7F80] [true, true, true, true] =
      ⟨[0, 0x3F00, 0, 0x3F00], 0x7F800000, .none, none⟩ ∧
    vsmaxRow 0x3F800000 .bf16 .bf16 [0x3F80, 0x7FC0, 0x7F80, 0x0000] [true, true, true, true] =
      ⟨[0x7FC0, 0x7FC0, 0x7FC0, 0x7FC0], 0x7FC00000, .onlyNV, some 1⟩ ∧
    vsmaxRow 0x3F800000 .bf16 .bf16 [0x7F80, 0x7F80, 0x7F80, 0x0000] [true, true, true, true] =
      ⟨[0x3EAB, 0x3EAB, 0x3EAB, 0], 0x7F800000, .none, none⟩ := by decide +kernel

/-- "online softmax over two segments" (R140 to R142). -/
theorem test_online_softmax_example :
    vsmonRow 0x3F800000 .bf16 .bf16 [0x3F80, 0x0000] [true, true] ⟨0xFF800000, 0, 0, false⟩ =
      some ⟨[0x3F80, 0x3F00], 0, ⟨0x3F800000, 0x3FC00000, 0, false⟩, .none, none⟩ ∧
    vsmonRow 0x3F800000 .bf16 .bf16 [0x4000, 0x0000] [true, true] ⟨0x3F800000, 0x3FC00000, 0, false⟩ =
      some ⟨[0x3F80, 0x3E80], 0x3F000000, ⟨0x40000000, 0x40000000, 0, false⟩, .none, none⟩ ∧
    vsmfinRow ⟨0x40000000, 0x40000000, 0, false⟩ = (0x3F000000, 0x40400000, .none) := by decide +kernel

/-- "home of one address" (R216). -/
theorem test_home_example :
    homeSlice 0x3A5C71E80 = 23 ∧ homeSet 0x3A5C71E80 = 0x5CE ∧ homeSlice 0x3A5C72E80 = 20 := by decide +kernel

/-- "one address, three placements" (R216, R249). -/
theorem test_placement_example :
    hbmStack 0 0x1234745678 = 16 ∧ hbmLocal 0 0x1234745678 = 0xE905D678 ∧ homeSlice 0x1234745678 = 32 ∧
    homeSet 0x1234745678 = 0x436 := by decide +kernel

/-- "one Tamarind element" (R330, R331): the prepared gradient, the momentum, and the master with its compensation. -/
theorem test_tamarind_example :
    prepGrad .fp32 0x3EE0000000000000 0x47800000 = (0x3F000000, .none) ∧
    momentum 0x3FEC000000000000 0x3E800000 (0x3F000000, .none) = (0x3F380000, .none) ∧
    splitMaster true (0x3FEFFFFE8C000000, .none) = (0x3F7FFFF4, 0x6000, .none) ∧ workingCopy 0x3F7FFFF4 = 0x3F80 := by
  decide +kernel

/-- "a fold over four members" (R132, R396): the tree rounds the tie twice. -/
theorem test_fold_example :
    (treeSum .fp32 [0x3F800000, 0x33800000, 0x33800000, 0]).val = 0x3F800000 ∧
    (treeSum .fp32 [0x40400000, 0xBF800000, 0x3F000000, 0x3F000000]).val = 0x40400000 := by decide +kernel

/-- "one Tamarind projection tile" (R80, R200): the words of its MMA and the shape that its imm32 spells. -/
theorem test_projection_tile_example :
    (decodeWords 0x0009111F00000183 0).map (fun i => (i.op, i.f.imm32)) = some (.mma, 0x0009111F) ∧
    (shapeOf 0x0009111F false 4).map (fun h => (h.m, h.n, h.k, h.zs, h.span)) = some (64, 256, 9216, true, 4) := by
  decide +kernel
/-! ### States for the tests and the witnesses -/

/-- A cell that is AWAKE and whose sequencer runs. -/
def onCell : Cell := { mode := .running, cp := { st := .awake } }
/-- Cell 0 runs; all else as after reset. -/
def runState : State := State.reset.setCell 0 onCell
/-- Every supply good, the main domain on, bring-up done, every stack out of self-refresh, and the link up. -/
def upState : State :=
  { State.reset with
    dev := { stbyPg := true, mainPg := true, mainOn := true, ready := true, readyOnce := true, hbmLost := false }
    pw := { sr := 0 }, hs := { link := .cxl } }
/-- The same with cell 0 running. -/
def upRun : State := upState.setCell 0 onCell
/-- The state with some cell, and with some floor register. -/
def State.withCell (s : State) (x : Cell) : State := s.setCell 0 x

theorem ready_of {s : State} (h : ((s.cell 0).running && (s.cell 0).window.isEmpty && (s.cell 0).runahead.isNone &&
    !(s.cell 0).lent && !bitB ((s.cell 0).reg CR.SQ_CTRL) 1 && !s.hvBusy 0 && SMap.wf cellResetVal (s.cell 0).regs &&
    !(s.cell 0).imBadAt (s.cell 0).npc.toNat) = true) :
    Ready 0 s := by
  simp only [Bool.and_eq_true, Bool.not_eq_true', List.isEmpty_iff, Option.isNone_iff_eq_none] at h
  obtain ⟨⟨⟨⟨⟨⟨⟨h1, h2⟩, h3⟩, h4⟩, h5⟩, h6⟩, h7⟩, h8⟩ := h
  exact ⟨h1, h2, h3, h4, h5, h6, h7, h8⟩

theorem readyLong_of {s : State} (h : Ready 0 s) (h2 : (s.cell 0).imBadAt (secondWord (s.cell 0).npc.toNat) = false) :
    ReadyLong 0 s := ⟨h, h2⟩

theorem holds_of {s : State} {e : InFlight} (h : ((s.cell 0).running && decide ((s.cell 0).window = [e]) && e.fault.isNone &&
    e.pred.isNone && e.wrong.isNone && e.next.all (fun p => (s.cell 0).npc == p) &&
    e.waited.all (fun o => stallCounters.contains o) &&
    !bitB ((s.cell 0).reg CR.SQ_CTRL) 1 && !s.hvBusy 0 && SMap.wf cellResetVal (s.cell 0).regs) = true) :
    Holds 0 s e := by
  simp only [Bool.and_eq_true, Bool.not_eq_true', decide_eq_true_eq, Option.isNone_iff_eq_none, Option.all_eq_true,
    beq_iff_eq, List.contains_iff_mem] at h
  obtain ⟨⟨⟨⟨⟨⟨⟨⟨⟨h1, h2⟩, h3⟩, h4⟩, h5⟩, h6⟩, h7⟩, h8⟩, h9⟩, h10⟩ := h
  exact ⟨h1, h2, h3, ⟨h4, h5⟩, h6, h7, h8, h9, h10⟩

theorem reaches_host {s : State} {pa : Nat} (h : (s.reachReg .host pa && !fencedHost pa) = true) : Reaches .host s pa := by
  simp only [Bool.and_eq_true, Bool.not_eq_true'] at h
  exact h

theorem reaches_root {s : State} {pa : Nat} (h : s.reachReg .root pa = true) : Reaches .root s pa := ⟨h, trivial⟩

/-- Whether an access by virtual address is performed. -/
def AccRes.isOk {α : Type} : AccRes α → Bool
  | .ok _ _ => true
  | _ => false

theorem AccRes.ok_of {α : Type} {r : AccRes α} (h : AccRes.isOk r = true) : ∃ s v, r = .ok s v := by
  cases r with
  | ok s v => exact ⟨s, v, rfl⟩
  | _ => cases h

/-- Whether a read by virtual address gives bytes without poison. -/
def AccRes.isClean : AccRes (List PByte) → Bool
  | .ok _ d => !anyBad d
  | _ => false

theorem AccRes.clean_of {r : AccRes (List PByte)} (h : AccRes.isClean r = true) : ∃ s d, r = .ok s d ∧ anyBad d = false := by
  cases r with
  | ok s v => exact ⟨s, v, rfl, by simpa [AccRes.isClean] using h⟩
  | _ => cases h

/-- A state whose cells are as after reset, and one with cell 0 replaced: every cell by its number. -/
theorem cell_default {s : State} (h : s.cells = Vector.replicate 256 {}) (c : CellId) : s.cell c = {} := by
  simp [State.cell, h]
theorem cell_other {s : State} {x : Cell} (h : s.cells = Vector.replicate 256 {}) (c : CellId) :
    (s.setCell 0 x).cell c = if c = 0 then x else {} := by
  by_cases hc : c = 0
  · subst hc
    simp [State.cell, State.setCell]
  · simp only [if_neg hc]
    rw [← cell_default h c]
    simp only [State.cell, State.setCell]
    exact Vector.getElem_set_ne _ _ (fun e => hc (Fin.ext e.symm))

theorem still_default {s : State} (h : s.cells = Vector.replicate 256 {}) (hr : s.hv.remake = [])
    (hp : s.mem.posted = [] := by rfl) : Still s := ⟨fun c => by rw [cell_default h c], hr, hp⟩
theorem still_other {s : State} {x : Cell} (h : s.cells = Vector.replicate 256 {}) (hr : s.hv.remake = [])
    (hx : x.window = []) (hp : s.mem.posted = [] := by rfl) : Still (s.setCell 0 x) :=
  ⟨fun c => by rw [cell_other h c]; split <;> [exact hx; rfl], hr, hp⟩
theorem still_freg {s : State} {a v : Nat} (h : Still s) : Still (s.setFreg a v) := ⟨h.empty, h.done, h.settled⟩
theorem witness_StepRunsTheFrontCommand : ({ State.reset with pending := [.invalDone] } : State).pending = .invalDone :: [] ∧
    State.reset.pending = [] := ⟨rfl, rfl⟩

/-- A step from a canonical state answers a next state: the premises of StepKeepsCanonicalForm, OtpIsOnlyBlown and
CommandsWaitInOrder. -/
theorem witness_steps : ({ runState with pending := [.bypass] } : State).wf = true ∧
    ∃ t, step { runState with pending := [.bypass] } = .next t := ⟨by decide +kernel, _, rfl⟩

theorem ready_runState : Ready 0 runState := ready_of (by decide +kernel)
theorem ready_upRun : Ready 0 upRun := ready_of (by decide +kernel)
theorem readyLong_runState : ReadyLong 0 runState := readyLong_of ready_runState (by decide +kernel)
theorem readyLong_upRun : ReadyLong 0 upRun := readyLong_of ready_upRun (by decide +kernel)

/-- A listed func, the last one that is not, and the operands of MUL, MOVI and MOVHI. -/
theorem witness_ScalarArithmeticResults : Ready 0 runState ∧
    aluTable.any (fun e => ({ func := 0x0D, rd := 0, ra := 1 } : SForm).func == e.1) = true ∧
    aluTable.all (fun e => ({ func := 0x0E } : SForm).func != e.1) = true ∧
    ({ func := 2, ra := 31, rb := 1, rd := 31 } : SForm).imm32 = 0 ∧
    ({ func := 1, ra := 3, imm32 := 0x80000000 } : SForm).rb = 0 :=
  ⟨ready_runState, by decide, by decide, rfl, rfl⟩

/-- The last eight bytes of OC. -/
theorem witness_OcLoadsAndStores : Ready 0 runState ∧
    (let f : SForm := { func := 3, imm32 := 0x3FFF8 }
     let x := runState.upsetCell 0 { ocCorrected := 1 }
     let a := (x.rdS f.ra + f.imm32.signExtend 64).toNat
     a % 2 ^ (f.func.toNat % 4) = 0 ∧ a < 0x40000 ∧ f.rb = 0 ∧ f.rd = 0 ∧ f.func.toNat < 4 ∧
       x.ocBad a (2 ^ (f.func.toNat % 4)) = false) := ⟨ready_runState, by decide +kernel⟩

/-- The window of slice 0, of 64 KiB. -/
def winState : State := (upState.setFreg (FR.HR_WIN_CFG 0) 1).setCell 0 { onCell with s := Vector.replicate 32 0x20000FFC0 }

/-- A corrected error in the frame that holds the last 64 bytes of that window. -/
def winUpset : Upset := { mem := { wins := [{ slice := 0, off := 0xFFC0, corrected := true }] } }

theorem witness_CoherentLoadsAndStores : ReadyLong 0 winState ∧
    (∃ s1 d, ((winState.carrying 0 { op := .ld, f := { func := 7 - 1, ra := 1 }, u := winUpset }).readUpset 0 winUpset).vread
      { agent := .cell 0, va := 0x20000FFC0 } 4 = .ok s1 d ∧ anyBad d = false) ∧
    (∃ s1, ((winState.carrying 0 { op := .st, f := { func := 3, ra := 1 }, u := winUpset }).readUpset 0 winUpset).vwrite
      { agent := .cell 0, va := 0x20000FFC0 } (clean (leBytes 8 5)) = .ok s1 ()) ∧
    (∃ s1 d, ((winState.carrying 0 { op := .dldm, f := { ra := 1 }, x := { dsel := 15 }, u := winUpset }).readUpset 0 winUpset).vread
      { agent := .cell 0, va := 0x20000FFC0 } 64 = .ok s1 d ∧ anyBad d = false) := by
  refine ⟨readyLong_of (ready_of (by decide +kernel)) (by decide +kernel), ?_, ?_, ?_⟩
  · exact AccRes.clean_of (by decide +kernel)
  · obtain ⟨s, v, h⟩ := AccRes.ok_of (r := ((winState.carrying 0 { op := .st, f := { func := 3, ra := 1 }, u := winUpset }).readUpset
      0 winUpset).vwrite { agent := .cell 0, va := 0x20000FFC0 } (clean (leBytes 8 5))) (by decide +kernel)
    exact ⟨s, h⟩
  · exact AccRes.clean_of (by decide +kernel)
theorem witness_DescriptorMoves : ReadyLong 0 runState ∧
    (let x : LForm := { oc_a := 4095, dsel := 15, pen := true, psem := 63 }
     sOnly {} {} = true ∧ lOnly x { a := true, dsel := true } = true ∧
       (runState.upsetCell 0 {}).ocBad (64 * x.oc_a.toNat) 64 = false) ∧
    (let x : LForm := { dsel := 15, ext := 7 }
     sOnly { ra := 1 } { ra := true } = true ∧ sOnly { rd := 31 } { rd := true } = true ∧
       lOnly x { dsel := true, ext := true } = true ∧ x.ext.toNat < 8) := ⟨readyLong_runState, by decide +kernel, by decide⟩

theorem witness_HintsPhasesAndFences : Ready 0 runState ∧ sOnly {} {} = true ∧
    sOnly { imm32 := 0xFFFFFFFF, ra := 31 } { imm := true, ra := true } = true ∧
    (sOnly { imm32 := 0xFFFF } { imm := true } = true ∧ ({ imm32 := 0xFFFF } : SForm).imm32.toNat < 2 ^ 16) ∧
    (sOnly { imm32 := 0xFFFF, func := 1 } { imm := true, func := true } = true) ∧
    sOnly { func := 1 } { func := true } = true ∧ ∀ n, (runState.cell 0).slot n = none :=
  ⟨ready_runState, by decide, by decide, by decide, by decide, by decide, by decide +kernel⟩

theorem witness_BranchTargets : Ready 0 runState ∧
    (let f : BForm := { cond := 6, off32 := 0xFFFFFFF8, bhint := 2, ra := 1, rb := 2 }
     f.off32.toNat % 8 = 0 ∧ f.bhint.toNat ≤ 2 ∧ f.cond = 6) ∧
    (let f : BForm := { off32 := 0x7FFFFFF8 }
     f.off32.toNat % 8 = 0 ∧ f.cond = 0 ∧ f.ra = 0 ∧ f.rb = 0 ∧ f.bhint = 0) ∧
    6 < ({ cond := 7 } : BForm).cond.toNat ∧
    sOnly { imm32 := 8, rd := 1 } { imm := true, rd := true } = true ∧
    (let g : SForm := { func := 1, ra := 1, imm32 := 16 }
     sOnly g { imm := true, func := true, rd := true, ra := true } = true ∧ g.func.toNat ≤ 1 ∧
       ((runState.cell 0).rdS g.ra + g.imm32.signExtend 64).toNat % 8 = 0) :=
  ⟨ready_runState, by decide, by decide, by decide, by decide, by decide +kernel⟩

theorem witness_CsrAccess : Ready 0 { runState with cells := runState.cells.set 0 { onCell with s := Vector.replicate 32 2 } } ∧
    (sOnly { imm32 := 0x7FF8, rd := 1 } { imm := true, rd := true } = true) ∧
    (let f : SForm := { imm32 := BitVec.ofNat 32 CR.NUM_SR_STEP, func := 3, ra := 1 }
     sOnly f { imm := true, func := true, ra := true } = true ∧ 1 ≤ f.func.toNat ∧ f.func.toNat ≤ 3 ∧
       f.imm32.toNat = CR.NUM_SR_STEP) ∧
    (let f : SForm := { imm32 := BitVec.ofNat 32 CR.SQ_CTRL, func := 1, ra := 1 }
     f.imm32.toNat = CR.SQ_CTRL ∧ f.func.getLsbD 0 = true ∧
       (({ onCell with s := Vector.replicate 32 2 } : Cell).rdS f.ra).getLsbD 1 = true ∧
       (({ onCell with s := Vector.replicate 32 2 } : Cell).rdS f.ra).getLsbD 0 = false) ∧
    ((findReg cellRegMap CR.SQ_TRAP_VEC).any (fun r => decide (r.kind = .plain) && r.width == 64) = true ∧
      cellWidth CR.NUM_STATUS ≠ 64 ∧ CR.NUM_STATUS % 8 = 0 ∧ [CR.NUM_STATUS, CR.NUM_STATUS + 4].all (fun o =>
        (findReg cellRegMap o).any (fun r => decide (r.kind = .plain) && r.width == 32)) = true) :=
  ⟨ready_of (by decide +kernel), by decide, by decide +kernel, by decide +kernel, by decide +kernel⟩

/-- A cell whose oldest instruction holds a fault, with one behind it: outside a handler, and inside one. -/
def faultCell : Cell :=
  { onCell with window := [{ pc := 8, ins := { op := .brk, f := { imm32 := 5 } }, fault := some { cause := 8, detail := 5 } },
      { pc := 16, ins := { op := .nop, f := {} } }] }
theorem witness_FaultsBreaksAndReturns :
    (∀ x ∈ [faultCell, { faultCell with inHandler := true }],
      let s := (runState.setCell 0 x).memUpset { hbm := { corrected := 1 } }
      ∃ e w f, (s.cell 0).running = true ∧ (s.cell 0).window = e :: w ∧ e.fault = some f ∧
      SMap.wf cellResetVal (s.cell 0).regs = true ∧ SMap.wf floorResetVal s.fregs = true) ∧
    (Ready 0 runState ∧ sOnly { imm32 := 0xFFFFFF } { imm := true } = true ∧
      ({ imm32 := 0xFFFFFF } : SForm).imm32.toNat < 2 ^ 24) ∧
    (Ready 0 (runState.setCell 0 { onCell with inHandler := true }) ∧ sOnly {} {} = true) := by
  refine ⟨?_, ⟨ready_runState, by decide, by decide⟩, ready_of (by decide +kernel), by decide⟩
  intro x hx
  simp only [List.mem_cons, List.not_mem_nil, or_false] at hx
  rcases hx with rfl | rfl <;> exact ⟨_, _, _, by decide +kernel, rfl, rfl, by decide +kernel, by decide +kernel⟩

/-- A state with cell 0 as x, on a device that is up. -/
def cellUp (x : Cell) : State := upState.setCell 0 x
/-- A running cell whose oldest and only instruction is i, at address 0. -/
def holdCell (x : Cell) (i : Ins) (next : Option Word) (waited : Option Nat) : Cell :=
  { x with window := [{ pc := 0, ins := i, next, waited }], npc := next.getD 0 }

/-- A post of the most that a semaphore holds: it fits, overflows, finds its cell ASLEEP, and is held there. -/
theorem witness_SemaphoresPostAndWait_posts :
    let f : SForm := { func := 63, imm32 := 65535, ra := 1 }
    let x : Cell := { onCell with s := Vector.replicate 32 1 }
    let s := runState.setCell 0 x
    let full := runState.setCell 0 { x with sems := Vector.replicate 64 { count := 1 } }
    let awake := s.setCell 1 onCell
    let held := runState.setCell 1 { onCell with cp := { st := .awake, held := [⟨63, 65535⟩] } }
    (Ready 0 s ∧ Ready 0 full ∧ Ready 0 awake) ∧
    (f.func.toNat = (63 : BitVec 6).toNat ∧ f.imm32.toNat = 65535 ∧ sOnly { f with ra := 0 } { imm := true, func := true } = true ∧
      sOnly f { imm := true, func := true, ra := true } = true) ∧
    (x.cp.goal.reset = false ∧ (x.sem 63).ovf = false ∧ (x.sem 63).count.toNat + 65535 ≤ 65535) ∧
    (((full.cell 0).sem 63).line = [] ∧ 65535 < ((full.cell 0).sem 63).count.toNat + 65535) ∧
    ((1 : CellId).val = (x.rdS f.ra).toNat % 256 ∧ (s.cell 1).cp.st = .asleep ∧ (s.cell 1).cp.goal.reset = false ∧
      (awake.cell 1).cp.st = .awake ∧ (awake.cell 1).cp.goal.reset = false ∧ ((awake.cell 1).sem 63).ovf = false ∧
      ((awake.cell 1).sem 63).count.toNat + 65535 ≤ 65535 ∧ ((s.setCell 1 { onCell with cp := { st := .doze } }).cell 1).cp.st = .doze) ∧
    ((held.cell 1).cp.st = .awake ∧ (held.cell 1).cp.held = [⟨63, 65535⟩] ∧ (held.cell 1).cp.goal.reset = false ∧
      ((held.cell 1).sem 63).ovf = false) :=
  ⟨⟨ready_of (by decide +kernel), ready_of (by decide +kernel), ready_of (by decide +kernel)⟩, by decide +kernel,
    by decide +kernel, by decide +kernel, by decide +kernel, by decide +kernel⟩

/-- A wait for the most there can be, with enough count and with one too few, on a marked semaphore, and in line; and a
write of SEM_VAL. -/
theorem witness_SemaphoresPostAndWait_waits :
    let f : SForm := { func := 63, imm32 := 65535 }
    let st (m : Sem) : State := runState.setCell 0 { onCell with sems := Vector.replicate 64 m }
    let e : InFlight := { pc := 0, ins := { op := .semwait, f }, next := some (nextPc 0 .semwait) }
    let h := runState.setCell 0 { holdCell onCell e.ins e.next none with
      sems := Vector.replicate 64 { count := 65535, line := [.seq 65535] } }
    (Ready 0 (st { count := 65535 }) ∧ Ready 0 (st { count := 65534 }) ∧ Ready 0 (st { failed := true, ovf := true }) ∧
      sOnly f { imm := true, func := true } = true) ∧
    (65535 ≤ (((st { count := 65535 }).cell 0).sem 63).count.toNat ∧
      (((st { count := 65534 }).cell 0).sem 63).count.toNat < 65535 ∧
      (((st { failed := true, ovf := true }).cell 0).sem 63).failed = true) ∧
    (Holds 0 h e ∧ semFields e.ins.f = some (63, 65535) ∧ ((h.cell 0).sem 63).line = [.seq 65535] ∧
      65535 ≤ ((h.cell 0).sem 63).count.toNat) ∧
    (Still (cellUp onCell) ∧ Reaches .root (cellUp onCell) (0x30000000000 + CR.SEM_VAL 63)) :=
  ⟨⟨ready_of (by decide +kernel), ready_of (by decide +kernel), ready_of (by decide +kernel), by decide⟩, by decide +kernel,
    ⟨holds_of (by decide +kernel), by decide, by decide +kernel⟩, still_other rfl rfl rfl, reaches_root (by decide +kernel)⟩

/-- Conveyor 15, enabled, with items in OC, one of them with an end mark and one marked by QMARK. -/
def qCell : Cell :=
  { onCell with qs := Vector.replicate 16 { cfg := 0x780000100, w := 2, ends := [0], markValid := true } }
/-- The same in the window of slice 0, where an end mark posts to semaphore 63, which then holds the most. -/
def qWin : State := (upState.setFreg (FR.HR_WIN_CFG 0) 1).setCell 0 { onCell with
  qs := Vector.replicate 16 { cfg := 0x790013F00, w := 2, ends := [0] }, sems := Vector.replicate 64 { count := 65534 } }

theorem witness_ConveyorsMoveItems_instructions : ReadyLong 0 (cellUp qCell) ∧
    (let v := qCell.conv 15
     v.en = true ∧ v.inWin = false ∧
       ((cellUp qCell).carrying 0 { op := .qpush, f := {}, x := { q := 15, oc_a := 4095, ext := 1 } }).convAccepts 0 15 .push = true ∧ v.empty = false ∧ v.bad.has v.rd.toNat = false ∧
       v.markValid = true ∧ v.cfg.getLsbD 16 = false ∧
       (let y := (((cellUp qCell).carrying 0 { op := .qpop, f := { rd := 31 }, x := { q := 15, oc_a := 4095 } }).operandUpset 0 {}).cell 0
        anyBad (withPoison y.ocPoison (v.addr v.rd) (y.ocRead (v.addr v.rd) 64)) = false)) ∧
    (let x : LForm := { q := 15, oc_a := 4095, ext := 1 }
     lOnly x { a := true, q := true, ext := true } = true ∧ x.ext.toNat < 2 ∧ qCell.cp.st = .awake) ∧
    (ReadyLong 0 qWin ∧
     (let v := (qWin.cell 0).conv 15
      v.en = true ∧ v.inWin = true ∧ v.cfg.getLsbD 16 = true ∧ bits v.cfg.toNat 13 8 = 63 ∧ v.addr v.w + 64 ≤ qWin.winSize 0 ∧
       (qWin.carrying 0 { op := .qpush, f := {}, x := { q := 15, oc_a := 4095, ext := 1 } }).convAccepts 0 15 .push = true ∧
       (qWin.cell 0).cp.goal.reset = false ∧ ((qWin.cell 0).sem 63).ovf = false ∧ ((qWin.cell 0).sem 63).count.toNat < 65535 ∧
       v.empty = false ∧ qWin.convStuck 0 15 v.rd = false ∧ v.bad.has v.rd.toNat = false ∧
       (let r := ((qWin.carrying 0 { op := .qpop, f := { rd := 31 }, x := { q := 15, oc_a := 4095 } }).operandUpset 0 {}).countBypass 0
          (winLayer (v.addr v.rd))
        anyBad (r.winRead 0 (v.addr v.rd) 64) = false))) ∧
    lOnly { q := 15, oc_a := 4095 } { a := true, q := true } = true ∧ lOnly { q := 15 } { q := true } = true ∧
    sOnly {} {} = true ∧ sOnly { rd := 31 } { rd := true } = true :=
  ⟨readyLong_of (ready_of (by decide +kernel)) (by decide +kernel), by decide +kernel, by decide +kernel,
    ⟨readyLong_of (ready_of (by decide +kernel)) (by decide +kernel), by decide +kernel⟩, by decide, by decide,
    by decide, by decide⟩

theorem witness_ConveyorsMoveItems_events :
    let e : InFlight := { pc := 0, ins := { op := .qpush, f := {}, x := { q := 15, oc_a := 4095 } }, next := some (nextPc 0 .qpush) }
    let s := cellUp (holdCell qCell e.ins e.next none)
    let q := cellUp { onCell with qs := Vector.replicate 16 {} }
    (Holds 0 s e ∧ sOnly e.ins.f {} = true ∧ lOnly e.ins.x { a := true, q := true, ext := true } = true ∧
      s.convAccepts 0 15 .push = true ∧ ((s.cell 0).conv 15).inWin = false ∧
      (s.cell 0).ocBad (64 * e.ins.x.oc_a.toNat) 64 = false) ∧
    (Still q ∧ Reaches .root q (0x30000000000 + CR.Q_CFG 15) ∧ Still (cellUp qCell) ∧
      Reaches .root (cellUp qCell) (0x30000000000 + CR.Q_CFG 15)) ∧
    (let w : Word := 0x80000000 ||| (62#64 <<< 32) ||| (1#64 <<< 24)
     (w.extractLsb' 32 13).toNat + (w.extractLsb' 24 4).toNat + 1 = 64 ∧ w.getLsbD 28 = false ∧ ((q.cell 0).conv 15).en = false) ∧
    (let w : Word := 0x80000000 ||| (63#64 <<< 32) ||| (1#64 <<< 24)
     64 < (w.extractLsb' 32 13).toNat + (w.extractLsb' 24 4).toNat + 1 ∧ w.getLsbD 28 = false) :=
  ⟨⟨holds_of (by decide +kernel), by decide, by decide, by decide +kernel⟩,
    ⟨still_other rfl rfl rfl, reaches_root (by decide +kernel), still_other rfl rfl rfl,
      reaches_root (by decide +kernel)⟩, by decide +kernel, by decide⟩

/-- A transfer of one element from slot 0 of OC to slot 1. -/
def oneDesc : Desc := 64#512 <<< 64
/-- The same with an auxiliary record by which every chunk takes semaphore 63 first. -/
def linkMove : Transfer := { desc := oneDesc ||| (1#512 <<< 484), aux := (1#512 <<< 343) ||| (63#512 <<< 344) }

/-- The highest slot free and every lower one in use; every slot in use; a queued SXGO; and a transfer that is finished,
without a post and with one to semaphore 63, which then holds the most. -/
theorem witness_TransfersStartAndEnd :
    let t : Transfer := { desc := oneDesc }
    let full : Cell := { onCell with d := Vector.replicate 16 oneDesc, slots := Vector.replicate 6 (some t) }
    let x := full.setSlot 5 none
    let e : InFlight := { pc := 0, ins := { op := .sxgo, f := {}, x := { dsel := 15 } }, next := some (nextPc 0 .sxgo) }
    let h := runState.setCell 0 (holdCell x e.ins e.next none)
    let z : State := runState.setCell 0 { x with
      slots := Vector.replicate 6 (some { t with row := 1, pen := true, psem := 63 }), sems := Vector.replicate 64 { count := 65534 } }
    (ReadyLong 0 (runState.setCell 0 x) ∧ ReadyLong 0 (runState.setCell 0 full) ∧ Holds 0 h e) ∧
    (sOnly {} {} = true ∧ lOnly ({ dsel := 15, pen := true, psem := 63 } : LForm) { dsel := true } = true ∧
      (x.rdD 15).getLsbD 484 = false ∧ streamOk 0 (x.rdD 15).toNat 0 = true) ∧
    (x.slot 5 = none ∧ (∀ m, m < (5 : Fin 6) → x.slot m ≠ none) ∧ ∀ m, full.slot m ≠ none) ∧
    ((z.cell 0).window = [] ∧ (∃ r, (z.cell 0).slot 5 = some r ∧ r.st = .running ∧ r.finished = true ∧ r.pen = true ∧
      ((z.cell 0).sem r.psem).ovf = false ∧ ((z.cell 0).sem r.psem).count.toNat < 65535) ∧
      (z.cell 0).cp.goal.reset = false ∧ (z.cell 0).cp.st = .awake ∧ SMap.wf cellResetVal (z.cell 0).regs = true) :=
  ⟨⟨readyLong_of (ready_of (by decide +kernel)) (by decide +kernel), readyLong_of (ready_of (by decide +kernel)) (by decide +kernel),
    holds_of (by decide +kernel)⟩, by decide +kernel, by decide +kernel, by decide +kernel, ⟨_, rfl, by decide +kernel⟩, by decide +kernel⟩

/-- A granule to move; a link whose semaphore has one count, and one whose has none. -/
theorem witness_MicroTransfersAndSlots_work :
    let t : Transfer := { desc := oneDesc }
    (t.st = .running ∧ t.finished = false ∧ t.needsEmpty = false ∧ t.implicit = false ∧ t.read = false ∧ t.old = [] ∧
      t.f 59 57 = 0 ∧ t.f 123 121 = 0 ∧ t.f 63 60 = t.f 127 124 ∧ t.f 479 478 = 0 ∧ t.f 481 480 = 0 ∧ t.fullEn = false ∧ t.held = false) ∧
    ((((runState.setCell 0 { onCell with slots := Vector.replicate 6 (some t) }).engineUpset 0 { ocCorrected := 1 }).cell 0).slot 5 = some t) ∧
    (linkMove.st = .running ∧ linkMove.needsEmpty = true ∧ linkMove.emptySem = 63) ∧
    (({ onCell with slots := Vector.replicate 6 (some linkMove) } : Cell).slot 5 = some linkMove) ∧
    ({} : Sem).failed = false ∧ ({} : Sem).ovf = false ∧ ({} : Sem).line = [] :=
  ⟨by decide +kernel, by decide +kernel, by decide +kernel, by decide +kernel, rfl, rfl, rfl⟩

/-- A failed slot, and shares that sum to 100 and to 101. -/
theorem witness_MicroTransfersAndSlots_software :
    let t : Transfer := { desc := oneDesc, st := .failed, reason := 1 }
    let s := cellUp { onCell with slots := Vector.replicate 6 (some t) }
    ((s.cell 0).slot 5 = some t ∧ t.f 123 121 ≠ 3) ∧
    (Still s ∧ Reaches .root s (0x30000000000 + CR.SX_D_CTRL 5) ∧ Reaches .root s (0x30000000000 + CR.SX_SHARE)) ∧
    (let v : Half := 0x141E32; v.toNat % 2 ^ 8 + v.toNat / 2 ^ 8 % 2 ^ 8 + v.toNat / 2 ^ 16 % 2 ^ 8 = 100) ∧
    (let v : Half := 0x141E33; v.toNat % 2 ^ 8 + v.toNat / 2 ^ 8 % 2 ^ 8 + v.toNat / 2 ^ 16 % 2 ^ 8 ≠ 100) :=
  ⟨by decide +kernel, ⟨still_other rfl rfl rfl, reaches_root (by decide +kernel), reaches_root (by decide +kernel)⟩,
    by decide, by decide⟩

/-- Activations or stored elements of BF16 from slot 0 of OC, and weights of BF16 at the start of the slice window. -/
def actDesc : Desc := 1#512 <<< 192
def wtDesc : Desc := 0x200000000#512 ||| (1#512 <<< 192) ||| (1#512 <<< 198) ||| (1#512 <<< 200)
/-- A running cell with those two descriptors in d15 and d14, and a slice window of 64 KiB. -/
def matCell : Cell := { onCell with d := (Vector.replicate 16 actDesc).set 14 wtDesc, s := Vector.replicate 32 0x10000 }
def matState : State := (upState.setFreg (FR.HR_WIN_CFG 0) 1).setCell 0 matCell

theorem ready_matState : ReadyLong 0 matState := readyLong_of (ready_of (by decide +kernel)) (by decide +kernel)
theorem matState_traps (fl : Nat) : fl &&& (matState.upsetCell 0 {}).reg CR.NUM_TRAP_EN = 0 := by
  rw [show (matState.upsetCell 0 {}).reg CR.NUM_TRAP_EN = 0 from by decide +kernel]
  exact Nat.and_zero fl

/-- The smallest tile, with and without a mask, its weights plain and transposed. -/
theorem witness_MatrixTilesAndGathers_tiles : ∀ tr masked : Bool,
    let f : SForm := { imm32 := if masked then 0x100000 else 0 }
    let x : LForm := { dsel := 15, acc := 7, ext := 14, oc_c := if masked then 4095 else 0 }
    let r := (matState.carrying 0 { op := if tr then .mmat else .mma, f, x, u := winUpset }).operandUpset 0 winUpset
    let y := r.cell 0
    let h : Shape := ⟨16, 16, 32, false, 0, masked⟩
    let da := mdesc (y.rdD x.dsel)
    let dw := mdesc (y.rdD (BitVec.ofNat 4 x.ext.toNat))
    let mask : Desc := if h.maskEn then y.ocSlot x.oc_c.toNat else BitVec.allOnes 512
    let la := actLines da .bf16 h.m h.k
    let lw := if tr then wtLinesT dw .bf16 else wtLines dw .bf16
    let rows := (List.range h.m).filter (fun m => mask.getLsbD m)
    let cols := (List.range h.n).filter (fun n => mask.getLsbD (256 + n))
    sOnly f { imm := true } = true ∧ lOnly x { dsel := true, acc := true, ext := true, c := f.imm32.toNat.testBit 20 } = true ∧
    x.ext.toNat < 16 ∧ shapeOf f.imm32.toNat false x.acc.toNat = some h ∧ y.mx.selftest = false ∧ y.mx.unavailable = false ∧
    fmtOf da.fmt = some .bf16 ∧ fmtOf dw.fmt = some .bf16 ∧ da.suits (if tr then .actPlain else .act) (h.split != 0) = true ∧
    actFits r 0 da .bf16 h.m h.k = true ∧ dw.suits (if tr then .weightT else .weight) (h.split != 0) = true ∧
    (if tr then wtFits r 0 dw .bf16 h.n h.k else wtFits r 0 dw .bf16 h.k h.n) = true ∧ y.ocBad (64 * x.oc_c.toNat) 64 = false ∧
    la.poisonIn r 0 rows h.k = none ∧ lw.poisonIn r 0 cols h.k = none := by decide +kernel

/-- Whether a gathering step has its rows. -/
def GatherRes.full : GatherRes → Bool
  | .ready _ g => g.rows.length == 64
  | _ => false

theorem GatherRes.full_of {r : GatherRes} (h : GatherRes.full r = true) : ∃ s g, r = .ready s g ∧ g.rows.length = 64 := by
  cases r with
  | ready s g => exact ⟨s, g, rfl, by simpa [GatherRes.full] using h⟩
  | _ => cases h

/-- A conveyor of 128 items in OC that holds 64 packets of two, for rows of 32 elements. -/
def fillState : State := matState.setCell 0 { matCell with qs := Vector.replicate 16 { cfg := 0x781000000, w := 128, ends := (List.range 64).map (fun k => 2 * k + 1) } }

theorem witness_MatrixTilesAndGathers_gather :
    let y := fillState.cell 0
    let f : SForm := { imm32 := 0x80000, ra := 31 }
    let x : LForm := { dsel := 15, acc := 7, ext := 14, q := 15, oc_b := 4088 }
    let h : Shape := ⟨64, 16, 32, true, 0, false⟩
    let da := mdesc (y.rdD x.dsel)
    let dw := mdesc (y.rdD (BitVec.ofNat 4 x.ext.toNat))
    ReadyLong 0 fillState ∧ (sOnly f { imm := true, ra := true } = true ∧
      lOnly x { q := true, dsel := true, acc := true, ext := true, b := true } = true ∧ x.ext.toNat < 16 ∧
      shapeOf f.imm32.toNat true x.acc.toNat = some h ∧ y.mx.selftest = false ∧ y.mx.unavailable = false ∧
      fmtOf da.fmt = some .bf16 ∧ fmtOf dw.fmt = some .bf16 ∧ da.space = 0 ∧ h.zs = true ∧ da.suits .actPlain false = true ∧
      actFits fillState 0 da .bf16 64 h.k = true ∧ dw.suits .weight false = true ∧
      wtFits fillState 0 dw .bf16 h.k h.n = true ∧ x.oc_b.toNat % 8 = 0) ∧
    (∃ s1 g, gatherItems (64 * (1 + (h.k * 2 + 63) / 64) + 1) ((fillState.carrying 0 { op := .gfill, f, x }).operandUpset 0 {}) 0 x.q
      (1 + (h.k * 2 + 63) / 64) {} = .ready s1 g ∧ g.rows.length = 64) ∧
    y.reg CR.NUM_TRAP_EN = 0 ∧ (wtLines dw .bf16).poisonIn fillState 0 (List.range h.n) h.k = none :=
  ⟨readyLong_of (ready_of (by decide +kernel)) (by decide +kernel), by decide +kernel, GatherRes.full_of (by decide +kernel), by decide +kernel, by decide +kernel⟩

/-- The smallest vector and panel with its result at the end of OC, a tile loaded from there, and a tile stored. -/
theorem witness_MatrixVectorAndTileMoves :
    let r := (matState.carrying 0 { op := .mmv, f := {}, x := { dsel := 15, ext := 14, oc_b := 4092 } }).operandUpset 0 {}
    let y := r.cell 0
    let dx := mdesc (y.rdD 15)
    let dw := mdesc (y.rdD 14)
    ReadyLong 0 matState ∧
    (let x : LForm := { dsel := 15, ext := 14, oc_b := 4092 }
     sOnly {} { imm := true } = true ∧ lOnly x { dsel := true, ext := true, b := true } = true ∧ x.ext.toNat < 16 ∧
      y.mx.selftest = false ∧ y.mx.mvUnavailable = false ∧ fmtOf dx.fmt = some .bf16 ∧ fmtOf dw.fmt = some .bf16 ∧
      x.oc_b.toNat % 4 = 0 ∧ 64 * x.oc_b.toNat + 4 * 64 = 0x40000 ∧ dx.suits .vec false = true ∧
      actFits r 0 dx .bf16 1 32 = true ∧ dw.suits .weight false = true ∧ wtFits r 0 dw .bf16 32 64 = true ∧
      y.ocBad (64 * x.oc_b.toNat) (4 * 64) = false ∧ (actLines dx .bf16 1 32).poison r 0 0 32 = none ∧
      (wtLines dw .bf16).poisonIn r 0 (List.range 64) 32 = none) ∧
    (let x : LForm := { acc := 7, oc_a := 4080 }
     lOnly x { acc := true, a := true } = true ∧ shapeMn 0 x.acc.toNat = some ⟨16, 16, 32, false, 0, false⟩ ∧
      x.oc_a.toNat % 4 = 0 ∧ 64 * x.oc_a.toNat + 4 * 256 = 0x40000 ∧ y.ocBad (64 * x.oc_a.toNat) (4 * 256) = false) ∧
    (let k : StoreCtl := { tensor := 0, exp := 0, mode := 0, sr := false, ovf := .ieee, fmt := .bf16 }
     let h : Shape := ⟨16, 16, 32, false, 0, false⟩
     sOnly { ra := 31 } { imm := true, ra := true } = true ∧ lOnly { acc := 7, dsel := 15 } { acc := true, dsel := true } = true ∧
      shapeMn 0 7 = some h ∧ storeCtl ((matState.cell 0).rdS 31).toNat = some k ∧ dx.suitsStore k h.n = true ∧ dx.space = 0 ∧
      dx.base + dx.storeSpan k.fmt.esize h.m h.n ≤ 0x40000 ∧
      (∀ q ∈ (storeWrites (matState.cell 0) k dx h 7).1, q.1 + q.2.length ≤ 0x40000)) :=
  ⟨ready_matState, by decide +kernel, by decide +kernel, by decide +kernel⟩

/-! ### Vectors -/

theorem runState_traps (fl : Nat) : fl &&& (runState.upsetCell 0 {}).reg CR.NUM_TRAP_EN = 0 := by
  rw [show (runState.upsetCell 0 {}).reg CR.NUM_TRAP_EN = 0 from by decide +kernel]
  exact Nat.and_zero fl

/-- The regions of an operand that can be read. -/
def regions : Except FaultInfo VSrc → Option (List OcRegion)
  | .ok v => some v.reg
  | .error _ => none

/-- Whether sources can be read and a destination can be written that meets none of them. -/
def vecOk (y : Cell) (w : Elementwise) (f : SForm) (x : LForm) : Bool :=
  let n := f.imm32.toNat / 2 ^ 12 % 2 ^ 16 + 1
  let kind (k : Nat) : Nat := x.ext.toNat / 4 ^ k % 4
  match regions (y.vsource (kind 0) x.oc_a.toNat x.acc f.ra w.fa 1 n),
    (if w.useB then regions (y.vsource (kind 1) x.oc_b.toNat 0 f.rb w.fb 1 n) else some []),
    (if w.useC then regions (y.vsource (kind 2) x.oc_c.toNat 0 f.rd w.fc 1 n) else some []),
    ocDest (f.imm32.toNat % 2 ^ 12) (n * w.fd.esize) n w.fd.esize with
  | some a, some b, some c, .ok d => badOverlap [d] (a ++ b ++ c) == none
  | _, _, _, _ => false

theorem regions_some {r : Except FaultInfo VSrc} {l : List OcRegion} (h : regions r = some l) : ∃ v, r = .ok v ∧ v.reg = l := by
  cases r with
  | ok v => exact ⟨v, rfl, by simpa [regions] using h⟩
  | error e => cases h

/-- What `Elementwise.Holds` asks of the operands can be met. -/
theorem vecOk_of {y : Cell} {w : Elementwise} {f : SForm} {x : LForm} (h : vecOk y w f x = true) :
    let n := f.imm32.toNat / 2 ^ 12 % 2 ^ 16 + 1
    let kind (k : Nat) : Nat := x.ext.toNat / 4 ^ k % 4
    ∃ a b k d, y.vsource (kind 0) x.oc_a.toNat x.acc f.ra w.fa 1 n = .ok a ∧
      (if w.useB then y.vsource (kind 1) x.oc_b.toNat 0 f.rb w.fb 1 n = .ok b else b = ⟨[], []⟩) ∧
      (if w.useC then y.vsource (kind 2) x.oc_c.toNat 0 f.rd w.fc 1 n = .ok k else k = ⟨[], []⟩) ∧
      ocDest (f.imm32.toNat % 2 ^ 12) (n * w.fd.esize) n w.fd.esize = .ok d ∧
      badOverlap [d] (a.reg ++ b.reg ++ k.reg) = none := by
  intro n kind
  unfold vecOk at h
  simp only at h
  split at h
  · rename_i la lb lk d ha hb hk hd
    obtain ⟨a, ha1, rfl⟩ := regions_some ha
    refine ⟨a, ?_⟩
    have hB : ∃ b : VSrc, (if w.useB then y.vsource (kind 1) x.oc_b.toNat 0 f.rb w.fb 1 n = .ok b else b = ⟨[], []⟩) ∧ b.reg = lb := by
      split at hb
      · rename_i hu
        obtain ⟨b, hb1, hb2⟩ := regions_some hb
        exact ⟨b, by rw [if_pos hu]; exact hb1, hb2⟩
      · rename_i hu
        exact ⟨⟨[], []⟩, by rw [if_neg hu], by cases hb; rfl⟩
    have hK : ∃ b : VSrc, (if w.useC then y.vsource (kind 2) x.oc_c.toNat 0 f.rd w.fc 1 n = .ok b else b = ⟨[], []⟩) ∧ b.reg = lk := by
      split at hk
      · rename_i hu
        obtain ⟨b, hb1, hb2⟩ := regions_some hk
        exact ⟨b, by rw [if_pos hu]; exact hb1, hb2⟩
      · rename_i hu
        exact ⟨⟨[], []⟩, by rw [if_neg hu], by cases hk; rfl⟩
    obtain ⟨b, hb1, rfl⟩ := hB
    obtain ⟨k, hk1, rfl⟩ := hK
    exact ⟨b, k, d, ha1, hb1, hk1, hd, by simpa using h⟩
  · cases h

/-- One element of each format into the last slot of OC that a vector may start at. -/
theorem witness_ElementwiseArithmetic : ReadyLong 0 runState ∧
    ∀ e ∈ ewTable, ∀ p ∈ [((0 : BitVec 10), Fmt.fp32), (0x100, .bf16), (0x200, .fp16)],
      let f : SForm := { imm32 := 4092 }
      let x : LForm := { ext := p.1, oc_b := if e.2.2.1 then 4 else 0, oc_c := if e.2.2.2.1 then 8 else 0 }
      vfmt false (x.ext.toNat / 2 ^ 8 % 4) = some p.2 ∧ ewOk f x false e.2.2.1 e.2.2.2.1 false p.2 = true ∧
        vecOk (runState.upsetCell 0 {}) { useB := e.2.2.1, useC := e.2.2.2.1, fa := p.2, fb := p.2, fc := p.2, fd := p.2, fn := e.2.2.2.2 p.2, rate := 64 } f x = true := ⟨readyLong_runState, by decide +kernel⟩

theorem witness_WideAndFunctionInstructions :
    (∀ p ∈ [((0x100 : BitVec 10), Fmt.bf16), (0x200, .fp16)],
      let f : SForm := { imm32 := 4092 }
      let x : LForm := { ext := p.1, oc_b := 4, oc_c := 8 }
      vfmt false (x.ext.toNat / 2 ^ 8 % 4) = some p.2 ∧ ewOk f x false true true false p.2 = true ∧
        vecOk (runState.upsetCell 0 {}) { useB := true, useC := true, fa := p.2, fb := p.2, fc := .fp32, fd := .fp32, fn := fFmaw p.2, rate := 64 } f x = true) ∧
    (let f : SForm := { imm32 := 4092 }
     vfmt false 0 = some .fp32 ∧ ewOk f {} false false false false .fp32 = true ∧
      vecOk (runState.upsetCell 0 {}) { fa := .fp32, fb := .fp32, fc := .fp32, fd := .fp32, fn := (fun a _ _ => (a, .none)), rate := 32 } f {} = true) ∧
    (∀ p ∈ [((11 : BitVec 7), Fmt.fp32, Fmt.e4m3), (28, .bf16, .e5m2), (1, .fp32, .bf16), (66, .e5m2, .fp16), (4, .fp32, .e5m2)],
      let f : SForm := { imm32 := 4092, func := p.1 }
      [(0, Fmt.fp32), (1, .bf16), (2, .fp16), (3, .e4m3), (4, .e5m2)].lookup (f.func.toNat / 16) = some p.2.1 ∧
        [(0, Fmt.fp32), (1, .bf16), (2, .fp16), (3, .e4m3), (4, .e5m2)].lookup (f.func.toNat % 8) = some p.2.2 ∧
        ewOk f {} true false false false p.2.1 = true ∧
        vecOk (runState.upsetCell 0 {}) { fa := p.2.1, fb := p.2.1, fc := p.2.1, fd := p.2.2, fn := (fun a _ _ => (a, .none)), rate := 64 } f {} = true) :=
  ⟨by decide +kernel, by decide +kernel, by decide +kernel⟩

/-- A comparison of one element with the last func, and a selection, each into the last slot that it may write. -/
theorem witness_MasksAndSelection :
    let y := runState.upsetCell 0 {}
    let x : LForm := { oc_b := 4 }
    let z : LForm := { oc_b := 4, oc_c := 8 }
    ∃ a b, y.vsource 0 0 0 0 .fp32 1 1 = .ok a ∧ y.vsource 0 4 0 0 .fp32 1 1 = .ok b ∧
      (ewOk { imm32 := 4092, func := 6 } x true true false false .fp32 = true ∧ 64 * 4092 + 1 ≤ 0x40000 ∧
        badOverlap [⟨64 * 4092, 1, 1, 0⟩] (a.reg ++ b.reg) = none) ∧
      (ewOk { imm32 := 4092 } z false true true true .fp32 = true ∧ y.ocBad (64 * 8) 1 = false ∧
        badOverlap [⟨64 * 4092, 4, 1, 4⟩] (a.reg ++ b.reg ++ [⟨64 * 8, 1, 1, 0⟩]) = none) :=
  ⟨_, _, rfl, rfl, by decide +kernel, by decide +kernel⟩

/-- Every reduction of one row of one element into the last slot of OC, RSSQ with accumulator 3, and the instructions of
that accumulator. -/
theorem witness_RowReductions :
    let y := runState.upsetCell 0 {}
    ∃ a, y.vsource 0 0 0 0 .fp32 1 1 = .ok a ∧
      (∀ e ∈ redTable, sOnly ({} : SForm) { imm := true, rb := e.2.2.1 = .amax } = true ∧
        lOnly { oc_c := 4092 } { a := true, c := true, acc := false, ext := true } = true ∧ 64 * 4092 + e.2.2.2 ≤ 0x40000 ∧
        badOverlap [⟨64 * 4092, e.2.2.2, 1, e.2.2.2⟩] a.reg = none) ∧
      (sOnly ({ imm32 := 7 <<< 24 } : SForm) { imm := true } = true ∧ badOverlap [⟨64 * 4092, 8, 1, 8⟩] a.reg = none ∧
        (7 <<< 24 : Nat) / 2 ^ 16 % 2 ^ 8 + 1 = 1 ∧ (7 <<< 24 : Nat) / 2 ^ 26 = 1 ∧ y.reg CR.NUM_TRAP_EN = 0) ∧
      (sOnly ({ imm32 := 3 <<< 24 } : SForm) { imm := true } = true ∧ lOnly { oc_c := 4095 } { c := true } = true ∧
        sOnly ({ imm32 := 3 <<< 24, func := 1, rd := 31 } : SForm) { imm := true, func := true, rd := true } = true ∧
        lOnly {} {} = true) :=
  ⟨_, rfl, by decide +kernel, by decide +kernel, by decide +kernel⟩

theorem exceptOk {ε α : Type} {r : Except ε α} (h : r.toBool = true) : ∃ v, r = .ok v := by
  cases r with
  | ok v => exact ⟨v, rfl⟩
  | error e => cases h

/-- A softmax of one row of one element, and its segment, state record and factor, by the record of a row not begun. -/
def smCell : Cell :=
  { onCell with s := Vector.replicate 32 0x3F80000000000000 }.ocWrite 0x800 (leBytes 16 0xFF800000)
def smState : State := runState.setCell 0 smCell

theorem witness_RowSoftmax :
    let y := smState.upsetCell 0 {}
    let f : SForm := { imm32 := 4092, rb := 1 }
    let x : LForm := { oc_c := 32 }
    ReadyLong 0 smState ∧ smOk f x = true ∧
    (∃ o l, y.smOperands f x true = .ok o ∧ ocDest x.oc_c.toNat 4 1 4 = .ok l ∧
      badOverlap [o.out, l] (o.src.reg ++ o.act.flatMap (·.2)) = none ∧ o.out.meets l = false) ∧
    (∃ o st al recs, y.smOperands f x false = .ok o ∧ ocDest x.oc_c.toNat 16 1 16 = .ok st ∧
      ocDest (x.oc_c.toNat + 4) 4 1 4 = .ok al ∧ y.smRecords x.oc_c.toNat 1 = .ok recs ∧
      ((o.src.rows.zip ((o.act.map (·.1)).zip recs)).map (fun p =>
        (vsmonRow 0 o.k.fin o.k.fout p.1 p.2.1 p.2.2).isSome)) = [true] ∧
      badOverlap [o.out, st, al] (o.src.reg ++ o.act.flatMap (·.2) ++ [st]) = none ∧ o.out.meets st = false ∧
      o.out.meets al = false ∧ st.meets al = false) ∧
    (∃ recs a q l, lOnly ({ oc_a := 32, oc_c := 4092 } : LForm) { a := true, c := true, ext := true } = true ∧
      sOnly { imm32 := 4088 } { imm := true } = true ∧ y.smRecords 32 1 = .ok recs ∧ ocDest 32 16 1 16 = .ok a ∧
      ocDest 4088 4 1 4 = .ok q ∧ ocDest 4092 4 1 4 = .ok l ∧ badOverlap [q, l] [a] = none ∧ q.meets l = false) := by
  refine ⟨readyLong_of (ready_of (by decide +kernel)) (by decide +kernel), by decide +kernel, ⟨_, _, rfl, rfl, by decide +kernel, by decide +kernel⟩,
    ⟨_, _, _, _, rfl, rfl, rfl, rfl, by decide +kernel, by decide +kernel, by decide +kernel, by decide +kernel, by decide +kernel⟩,
    ⟨_, _, _, _, by decide, by decide, rfl, rfl, rfl, rfl, by decide +kernel, by decide +kernel⟩⟩

/-! ### Barriers, the sequencer, and the cache -/

/-- Every cell of band 0 waits at its barrier. -/
def barEntry : InFlight := { pc := 8, ins := { op := .bar, f := {} }, arrived := some 0 }
def barState : State :=
  { State.reset with
    cells := Vector.ofFn (fun i : Fin 256 => if i.val < 16 then { onCell with window := [barEntry] } else {})
    sync := { bands := Vector.replicate 16 { arrived := (List.finRange 256).filter (fun i => i.val < 16) } } }

theorem holds_at {s : State} {d : CellId} {e : InFlight} (h : ((s.cell d).running && decide ((s.cell d).window = [e]) && e.fault.isNone &&
    e.pred.isNone && e.wrong.isNone && e.next.isNone && e.waited.isNone && !bitB ((s.cell d).reg CR.SQ_CTRL) 1 &&
    !s.hvBusy d && SMap.wf cellResetVal (s.cell d).regs) = true) : Holds d s e := by
  simp only [Bool.and_eq_true, Bool.not_eq_true', decide_eq_true_eq, Option.isNone_iff_eq_none] at h
  obtain ⟨⟨⟨⟨⟨⟨⟨⟨⟨h1, h2⟩, h3⟩, h4⟩, h5⟩, h6⟩, h7⟩, h8⟩, h9⟩, h10⟩ := h
  exact ⟨h1, h2, h3, ⟨h4, h5⟩, fun p hp => by simp [h6] at hp, fun o ho => by simp [h7] at ho, h8, h9, h10⟩

theorem witness_Barriers :
    (Ready 0 runState ∧ sOnly {} { func := true } = true ∧ sOnly { func := 1 } { func := true } = true ∧
      (0 : CellId) ∉ runState.sync.bands[bandOf 0].arrived ∧ (0 : CellId) ∉ runState.sync.all.arrived) ∧
    (let s := runState.setFreg FR.HV_CTRL 1
     Ready 0 s ∧ sOnly { rd := 31 } { rd := true } = true ∧ bitB (s.freg FR.HV_CTRL) 0 = true ∧ (0 : CellId) ∉ s.sync.equinox.arrived) ∧
    ((∀ d ∈ bandCells 0, d ∈ barState.sync.bands[(0 : Fin 16)].arrived) ∧
      ∀ d ∈ bandCells 0, Holds d barState barEntry ∧ barEntry.ins.op = .bar ∧ barEntry.ins.f = {} ∧ barEntry.ins.x = {} ∧
        barEntry.next = none ∧ barEntry.arrived = some barState.sync.bands[(0 : Fin 16)].gen) := by
  refine ⟨⟨ready_runState, by decide, by decide, by decide +kernel, by decide +kernel⟩,
    ⟨ready_of (by decide +kernel), by decide, by decide +kernel, by decide +kernel⟩, by decide +kernel, fun d hd => ?_⟩
  refine ⟨holds_at ?_, rfl, rfl, rfl, rfl, rfl⟩
  have h : ∀ d ∈ bandCells 0, ((barState.cell d).running && decide ((barState.cell d).window = [barEntry]) && barEntry.fault.isNone &&
    barEntry.pred.isNone && barEntry.wrong.isNone && barEntry.next.isNone && barEntry.waited.isNone &&
    !bitB ((barState.cell d).reg CR.SQ_CTRL) 1 && !barState.hvBusy d && SMap.wf cellResetVal (barState.cell d).regs) = true := by
    decide +kernel
  exact h d hd

theorem witness_YieldsLoopsAndLoans :
    let y : InFlight := { pc := 8, ins := { op := .yield, f := { imm32 := 0xFFFF } }, next := some (nextPc 8 .yield) }
    let l : InFlight := { pc := 8, ins := { op := .bloop, f := { ra := 31 } }, wrong := some 16 }
    let w : InFlight := { pc := 8, ins := { op := .semwait, f := { imm32 := 1 } }, next := some 16, waited := some CR.SX_STALL_SEM_CNT }
    let x := onCell.setReg CR.SQ_CTRL 0xE0
    (Ready 0 runState ∧ sOnly y.ins.f { imm := true } = true ∧ 1 ≤ y.ins.f.imm32.toNat ∧ y.ins.f.imm32.toNat < 2 ^ 16) ∧
    Holds 0 (runState.setCell 0 { onCell with window := [y], npc := nextPc 8 .yield }) y ∧
    (l.wrong = some 16 ∧ l.ins.op = .bloop ∧ l.waited = none) ∧
    (({ x with window := [w] } : Cell).running = true ∧ w.fault = none ∧ w.wrong = none ∧ w.waited.isSome = true ∧
      w.next.isSome = true ∧ bitB (x.reg CR.SQ_CTRL) 5 = true ∧ x.inHandler = false ∧ x.runahead = none) ∧
    (∀ st ∈ [CellSt.awake, .doze], ({ x with window := [y], cp := { st } } : Cell).lendable = true) ∧
    (let s := runState.setCell 0 { onCell with window := [y], npc := nextPc 8 .yield, cp := { st := .doze } }
     (s.cell 0).cp.st = .doze ∧ Holds 0 (s.setCell 0 { s.cell 0 with cp := { (s.cell 0).cp with st := .awake } }) y) ∧
    (({ x with lent := true, wantArray := true } : Cell).lent = true) :=
  ⟨⟨ready_runState, by decide, by decide, by decide⟩, holds_of (by decide +kernel), by decide, by decide +kernel,
    by decide +kernel, ⟨by decide +kernel, holds_of (by decide +kernel)⟩, rfl⟩

theorem witness_CellControl :
    let halted := cellUp { onCell with mode := .doubleHalt, inHandler := true }
    let clr : InFlight := { pc := 0, ins := { op := .rfclr, f := {} }, next := some (nextPc 0 .rfclr) }
    (Still halted ∧ Reaches .root halted (0x30000000000 + CR.SQ_CTRL) ∧ (halted.cell 0).mode ≠ .running ∧
      (halted.cell 0).cp.st = .awake ∧ halted.fatal = false ∧ SMap.wf cellResetVal (halted.cell 0).regs = true) ∧
    (Still upRun ∧ Reaches .root upRun (0x30000000000 + CR.SQ_CTRL) ∧ (upRun.cell 0).mode = .running ∧
      Reaches .root upRun (0x30000000000 + CR.RU_FACC 3) ∧ Reaches .root upRun (0x30000000000 + CR.MX_SELFTEST)) ∧
    (let s := cellUp { onCell with cp := { st := .doze } }
     Still s ∧ Reaches .root s (0x30000000000 + CR.SQ_CTRL) ∧ (s.cell 0).cp.st = .doze) ∧
    (let x : Cell := { onCell with mx := { selftest := true } }
     x.window = [] ∧ x.mx.selftest = true ∧ x.lent = false ∧ x.mx.failed = false ∧ x.mx.mvFailed = false) ∧
    (Holds 0 (runState.setCell 0 (holdCell onCell clr.ins clr.next none)) clr ∧ clr.ins.op = .rfclr ∧ clr.ins.x = {}) :=
  ⟨⟨still_other rfl rfl rfl, reaches_root (by decide +kernel), by decide +kernel⟩,
    ⟨still_other rfl rfl rfl, reaches_root (by decide +kernel), by decide +kernel, reaches_root (by decide +kernel),
      reaches_root (by decide +kernel)⟩, ⟨still_other rfl rfl rfl, reaches_root (by decide +kernel), by decide +kernel⟩,
    by decide, holds_of (by decide +kernel), rfl, rfl⟩

/-- Line 0 present with its home in slice 0, held exclusively by cell 1. -/
def lineState (l : Line) : State := (upState.setLine 0 l).setCell 0 onCell

/-- The near copy of cell 1. -/
def nearOne : Near := { cell := 1, way := 0, slot := 0, scheme := .raw, lru := 0 }

theorem witness_LineReads : ∀ st ∈ [LState.s, .e, .m],
    let s := lineState { st, holders := .cells [1], near := [nearOne] }
    (s.dev.mainOn = true ∧ linePart 192 64 = true ∧ (s.line 0).st = st ∧ s.lineBusy 0 false = false ∧ (s.line 0).held = [] ∧
      s.frameWait 0 none = false ∧ s.frameWait 0 (some 1) = false ∧ s.frameWait 0 (some 255) = false) ∧
    (homeSlice 0 = 0 ∧ (s.line 0).holds 1 = true ∧ (s.line 0).holds 255 = false) := by decide +kernel

theorem witness_LineWrites :
    let s := lineState { st := .m, holders := .cells [1], near := [nearOne], poison := [] }
    s.dev.mainOn = true ∧ linePart 248 8 = true ∧ (s.line 0).st ≠ .i ∧ (s.line 0).st ≠ .a ∧ s.lineBusy 0 true = false ∧
      (s.line 0).held = [] ∧ (s.line 0).poison = [] ∧ homeSlice 0 = 0 ∧ s.frameWait 0 none = false ∧
      s.frameWait 0 (some 1) = false := by decide +kernel

/-- A contribution of class 7 to a line that is present, in arrival order, in A already, and in deterministic mode by the
register and by the sequence that has begun; one held; and an address that the layers do not cache. -/
theorem witness_InCacheReductions :
    (∀ l, Still (lineState l) ∧ Still ((lineState l).setFreg FR.HR_MODE 0x80000001)) ∧
    (∀ p ∈ [(lineState { st := .s }, false), (lineState { st := .a, held := [okContrib, okContrib] }, false),
        ((lineState { st := .s }).setFreg FR.HR_MODE 0x80000001, true), (lineState { st := .a, det := some 0x80 }, true)],
      p.1.dev.mainOn = true ∧ cacheablePa 0 = true ∧ p.1.mem.backed = [] ∧ (p.1.line 0).st ≠ .i ∧ (p.1.line 0).leaving = false ∧
        (p.1.line 0).epoch = none ∧ p.1.hostBlocks 0 true = [] ∧ p.1.mem.miss.any (fun m => m.2.line == 0) = false ∧
        p.1.frameWait 0 none = false ∧
        ((p.1.line 0).det.getD (BitVec.ofNat 8 (bits (p.1.freg FR.HR_MODE) 31 24))).getLsbD 7 = p.2) ∧
    (let a := lineState { st := .a, held := [okContrib, okContrib] }
     (a.line 0).held = [okContrib, okContrib] ∧ SMap.wf floorResetVal a.fregs = true) ∧
    cacheablePa ((0x20000000000 : Nat) / 256 * 256) = false :=
  ⟨fun _ => ⟨still_other rfl rfl rfl, still_freg (still_other rfl rfl rfl)⟩, by decide +kernel, by decide +kernel,
    by decide +kernel⟩

/-! ### Memory -/

/-- HBM with the tables of one leaf: the last page of 1 GiB of the address space, at physical address 0. -/
def pagedState : State :=
  { upState with mem := { hbm := [(0xFF8, 0x01), (0xFF9, 0x10), (0x1FF8, 0x01), (0x1FF9, 0x20), (0x2FF8, 0x03), (0x2FFF, 0xF0)] } }.setFreg
    FR.TR_CTRL 5

theorem witness_EvictionsFillsAndPins_lines :
    lruHeld (upState.residents 255 2047) = none ∧
    (∀ p ∈ [(({ st := .a, held := [okContrib] } : Line), (0 : CellId), true, false), ({ st := .m, dirty := true }, 0, false, false),
        ({ st := .m, holders := .cells [1], near := [nearOne], dirty := true }, 1, false, true), ({ st := .s }, 0, false, false)],
      let s := lineState p.1
      (lruHeld (s.residents p.2.1 (homeSet 0))).any (fun v => v.la == 0 && v.held == p.2.2.1 && v.near == p.2.2.2) = true ∧
        (s.residents p.2.1 (homeSet 0)).any s.stays = p.2.2.1 ∧
        homeSet 0 < 2048 ∧ s.line 0 = p.1 ∧ SMap.wf (fun _ => ({} : Line)) s.mem.lines = true ∧ s.hostBlocks 0 true = []) ∧
    (let s := (lineState { st := .m, holders := .cells [1], near := [nearOne] }).setFreg (FR.HR_STATUS 0) 0xF00
     (lruHeld (s.residents 1 (homeSet 0))).any (fun v => !v.held && v.near && s.stays v) = true) ∧
    (let s := lineState { st := .s }
     State.hostBlocks { s with hs := { s.hs with held := [(3, false)] } } 0 true = [3]) ∧
    (let s := upState.setLine 0 { st := .m, dirty := true, leaving := true }
     (s.line 0).leaving = true ∧ (s.line 0).dirty = true ∧ s.hostBlocks 0 true = [] ∧ Still s ∧ Memory.wf s.mem = true ∧
       s.rawAsleep 0 = none ∧ (State.rawAsleep { s with pw := { sr := 1 } } 0).isSome = true) ∧
    (let la := hbmTop / 256 - 1
     let s := { upState with mem := { miss := [(0, { line := la, waiters := [.homeRead .parade 7 192 64] })] } }
     s.line la = {} ∧ s.mem.backed = [] ∧ Still s ∧ la * 256 + 256 = hbmTop ∧ s.rawAsleep (la * 256) = none ∧
       s.hostBlocks la false = [] ∧ s.frameWait la none = false) :=
  ⟨by decide +kernel, by decide +kernel, by decide +kernel, by decide +kernel,
    ⟨by decide +kernel, by decide +kernel, by decide +kernel, still_default rfl rfl, by decide +kernel⟩,
    by decide +kernel, rfl, still_default rfl rfl, by decide +kernel, by decide +kernel, by decide +kernel, by decide +kernel⟩

/-- A window of one unit fits; one of 337 does not; a resize to the largest is done; and HR_UNPIN is reached. -/
theorem witness_EvictionsFillsAndPins_windows :
    (Reaches .root upState (FR.HR_WIN_CFG 255) ∧ Reaches .root upState FR.HR_UNPIN) ∧
    ((upState.slice 255).resize = none ∧ 1 * 256 + upState.pinnedAll 255 ≤ upState.freg FR.HR_PIN_CAP ∧
      upState.reserveOk 255 1 (upState.retiredLayers 255) true = true ∧ ¬ ((337 : Half).toNat % 512 ≤ 336)) ∧
    (let s := upState.setSlice 255 { resize := some 336 }
     (s.slice 255).resize = some 336 ∧ Still s ∧ SMap.wf floorResetVal s.fregs = true ∧
       s.mem.lines.flatMap (fun e => e.2.residents e.1 255) = []) :=
  ⟨⟨reaches_root (by decide +kernel), reaches_root (by decide +kernel)⟩, by decide +kernel, by decide +kernel,
    still_default rfl rfl, by decide +kernel, by decide +kernel⟩

theorem witness_VerticalInterfaces :
    (let w : VportFault := { failed := true, lanes := 63, eighth := true }
     w.failed = true ∧ w.lanes + b2n w.eighth + bits (upState.freg (FR.HR_VPORT 255)) (8 * 3 + 6) (8 * 3) = 64 ∧
       SMap.wf floorResetVal upState.fregs = true) ∧
    ((upState.setSlice 255 { failedAt := [(3, none)] }).retireNow 255 = false) ∧
    (let s := upState.setSlice 255 { failedAt := [(3, none)], retireDue := true }
     let new := (List.range 4).filter (fun k => (3 : Nat) ≤ k && !bitB (s.freg (FR.HR_STATUS 255)) (8 + k))
     (s.slice 255).failedAt = [(3, none)] ∧ s.retireNow 255 = true ∧ s.reserveOk 255 0 (s.retiredLayers 255 + new.length) false = true ∧
       (∀ e ∈ s.mem.lines, homeSlice (e.1 * 256) ≠ 255 ∧ e.2.holds 255 = false) ∧ 24576 * new.length ≤ s.freg FR.HR_CAP_LINES ∧
       12288 * new.length ≤ s.freg (FR.HR_AVAIL_FRAMES 255)) ∧
    (let s := ((lineState { st := .m, holders := .cells [255], near := [{ cell := 255, way := 23, slot := 0, scheme := .raw, lru := 0 }] }).setSlice
       255 { failedAt := [(3, none)], retireDue := true }).setFreg (FR.HR_STATUS 0) 0xF00
     s.retireNow 255 = true ∧ s.fitWaits 255 0 (s.retiredLayers 255 + 1) = true) ∧
    (let s := (upState.setSlice 255 { failedAt := [(0, some 5)], retireDue := true }).setFreg (FR.HR_WIN_CFG 255) 288
     s.retireNow 255 = true ∧ s.fitWaits 255 288 (s.retiredLayers 255 + 4) = false ∧ s.reserveOk 255 (bits (s.freg (FR.HR_WIN_CFG 255)) 8 0) (s.retiredLayers 255 + 4) false = false) :=
  ⟨by decide +kernel, by decide +kernel, by decide +kernel, by decide +kernel, by decide +kernel⟩

/-- The last address of the address space, by a leaf, by an absent entry, and by one that asks for a request. -/
theorem witness_TranslationWalks :
    let va := 2 ^ 57 - 1
    let none' := upState.setFreg FR.TR_CTRL 5
    let ask := { none' with mem := { hbm := [(0xFF8, 4)] } }
    (∀ s ∈ [pagedState, none', ask], bitB (s.freg FR.TR_CTRL) 0 = true ∧ s.tlbFind va = none ∧
      SMap.wf floorResetVal s.fregs = true) ∧ (Still pagedState ∧ Still none' ∧ Still ask) ∧
    (let pte := 0xF000000000000003
     pagedState.walk va = .leaf pte 2 ∧ leafAllows pte { agent := .host, va, write := true } = true ∧
       region (leafPhys pte (pageSize 2) va).pa = .hbm) ∧
    none'.walk va = .absent false 4 ∧
    (let s := { pagedState with hs := { pagedState.hs with held := [(0xFF8 / 64, true)] } }
     let z := { pagedState with pw := { sr := 0xFFFFF } }
     s.walk va = .held (0xFF8 / 256) ∧ (match z.walk va with | .asleep _ => true | _ => false) = true ∧ Still s ∧ Still z) ∧
    (ask.walk va = .absent true 4 ∧ bitB (ask.freg FR.TR_CTRL) 2 = true ∧ ask.mem.reqs = [] ∧ ask.prqFull = false) :=
  ⟨by decide +kernel, ⟨still_default rfl rfl, still_default rfl rfl, still_default rfl rfl⟩, by decide +kernel, by decide +kernel,
    ⟨by decide +kernel, by decide +kernel, still_default rfl rfl, still_default rfl rfl⟩, by decide +kernel⟩

/-- The last request number, pending, with a transfer that waits for it, and without one. -/
def askState : State := { upState with mem := { reqs := [⟨65535, 0, .host, false, false, 0, 4⟩] } }
def askSlots : State := askState.setCell 0 { slots := Vector.replicate 6 (some { desc := oneDesc, st := .pageWait 65535 }) }
theorem askState_ok : askState.mem.reqs.any (fun r => r.id == 65535) = true ∧ SMap.wf floorResetVal askState.fregs = true ∧
    askState.freg FR.TR_PR_TIMEOUT ≠ 0 ∧ (∀ c, (askState.cell c).fetchReq ≠ some 65535) ∧
    ∀ c n, (askState.cell c).slot n = none :=
  ⟨by decide +kernel, by decide +kernel, by decide +kernel, fun c => by rw [cell_default rfl c]; decide,
    fun c => by rw [cell_default rfl c]; decide +kernel⟩
theorem askSlots_ok : askSlots.mem.reqs.any (fun r => r.id == 65535) = true ∧ SMap.wf floorResetVal askSlots.fregs = true ∧
    (∀ c, (askSlots.cell c).fetchReq ≠ some 65535) ∧ ((askSlots.cell 0).slot 5).map (·.st) = some (.pageWait 65535) := by
  refine ⟨by decide +kernel, by decide +kernel, fun c => ?_, by decide +kernel⟩
  show ((askState.setCell 0 _).cell c).fetchReq ≠ _
  rw [cell_other rfl c]
  split <;> decide
theorem witness_PageRequestAnswers : (Still askState ∧ Reaches .root askState FR.TR_PRSP) ∧
    (Still askSlots ∧ Reaches .root askSlots FR.TR_PRSP) :=
  ⟨⟨still_default rfl rfl, reaches_root (by decide +kernel)⟩, still_other rfl rfl rfl,
    reaches_root (by decide +kernel)⟩

theorem witness_InvalidationsAndHostTranslations :
    (Reaches .root upState FR.TR_INVAL ∧ Still upState ∧ upState.mem.inval = none) ∧
    (let s := { upState with mem := { inval := some (some (2 ^ 41 - 1, 65536)), tlb := [{ page := 2 ^ 41 - 1, pages := 1, pte := 0 }] } }
     s.mem.inval ≠ none ∧ ((BitVec.allOnes 64).toNat / 2 ^ 16 % 2 ^ 41 = 2 ^ 41 - 1 ∧ (BitVec.allOnes 64).toNat % 2 ^ 16 + 1 = 65536)) ∧
    (let s := { upState with mem := { atsWait := [0], priWait := [0] } }
     s.cxlUp = true ∧ s.mem.atsWait.has 0 = true ∧ s.mem.priWait.has 0 = true) ∧
    Still State.reset ∧ State.reset.cxlUp = false :=
  ⟨⟨reaches_root (by decide +kernel), still_default rfl rfl, rfl⟩, by decide +kernel, by decide +kernel, still_default rfl rfl, rfl⟩

theorem witness_TagsAndScrubbing :
    (let tile := hbmTop / 4096 - 1
     let bad := { upState with mem := { tagSyn := [(tile, 1)] } }
     upState.dev.mainOn = true ∧ apertureTile (tagBase + 4 * tile) = some tile ∧ upState.rawAsleep (4096 * tile) = none ∧
       (State.rawAsleep { upState with pw := { sr := 0xFFFFF } } (4096 * tile)).isSome = true ∧
       (∀ i < 16, (upState.line (16 * tile + i)).st = .i ∧ upState.lineBusy (16 * tile + i) false = false ∧
         upState.frameWait (16 * tile + i) none = false) ∧ upState.tileBad tile = false ∧ bad.tileBad tile = true) ∧
    (let blk := hbmBlocks - 1
     upState.freg FR.HBM_SCRUB_CFG ≠ 0 ∧ blk < hbmBlocks ∧ SMap.wf floorResetVal upState.fregs = true ∧
       (upState.mem.scrubbed.add blk).length ≠ hbmBlocks ∧ bitB (upState.freg FR.HBM_ERR_PA) 63 = false) ∧
    (let s := { upState with mem := { scrubbed := List.range hbmBlocks } }
     s.mem.scrubbed.length = hbmBlocks) :=
  ⟨by decide +kernel, by decide +kernel, by simp⟩

/-! ### Harvest -/

/-- A layer of one element under rule 1: its tensors in pages of their own from 0x1000 on. -/
def oneEntry : Entry :=
  BitVec.ofNat 1024 (2 ^ 63 + 1 * 2 ^ 48 + 1 * 2 ^ 64 + 1 * 2 ^ 96 + 0x1000 * 2 ^ 192 + 0x2000 * 2 ^ 256 + 0x3000 * 2 ^ 448
    + 0x4000 * 2 ^ 512 + 0x5000 * 2 ^ 704 + 0x6000 * 2 ^ 768 + 0x7000 * 2 ^ 832)
/-- A step over that layer: addresses are translated to themselves, and the layer table lies at 0. -/
def hvBase : State :=
  ((({ upState with mem := { hbm := SMap.setRange (fun _ => 0) [] 0 (leBytes 128 oneEntry.toNat)
                             tlb := [{ page := 0, pages := 0x4000, pte := 0xF000000000000003 }] } }.setFreg FR.HV_CTRL 1).setFreg
    FR.HV_LAYER_CNT 1).setFreg FR.TR_CTRL 1)
def hvSub : Cell := { onCell with d := Vector.replicate 16 1 }

def DelRes.st : DelRes → Option State
  | .accepted s => some s
  | _ => none
def HRes.st {α : Type} : HRes α → Option (State × α)
  | .ok s v => some (s, v)
  | _ => none

theorem DelRes.of_st {r : DelRes} {p : State → Bool} (h : (DelRes.st r).any p = true) : ∃ s, r = .accepted s ∧ p s = true := by
  cases r with
  | accepted s => exact ⟨s, rfl, by simpa [DelRes.st] using h⟩
  | _ => simp [DelRes.st] at h
theorem HRes.of_st {α : Type} {r : HRes α} {p : State → α → Bool} (h : (HRes.st r).any (fun q => p q.1 q.2) = true) :
    ∃ s v, r = .ok s v ∧ p s v = true := by
  cases r with
  | ok s v => exact ⟨s, v, rfl, by simpa [HRes.st] using h⟩
  | _ => simp [HRes.st] at h
def HRes.why {α : Type} : HRes α → Option (State × Nat × Nat)
  | .fail s r va => some (s, r, va)
  | _ => none
theorem HRes.of_why {α : Type} {r : HRes α} {p : State → Nat → Nat → Bool} (h : (HRes.why r).any (fun q => p q.1 q.2.1 q.2.2) = true) :
    ∃ s w va, r = .fail s w va ∧ p s w va = true := by
  cases r with
  | fail s w va => exact ⟨s, w, va, rfl, by simpa [HRes.why] using h⟩
  | _ => simp [HRes.why] at h

/-- A query for the last slot, a delivery of the layer, and requests while the units are disabled. -/
theorem witness_HarvestStep_requests :
    let s := hvBase.setCell 0 hvSub
    let q := hvBase.setCell 0 { onCell with d := Vector.replicate 16 (2#512 ||| (4095#512 <<< 22)) }
    let i : Ins := { op := .hvsub, f := {}, x := { dsel := 15 } }
    (ReadyLong 0 s ∧ ReadyLong 0 q ∧ ReadyLong 0 runState ∧ sOnly {} {} = true ∧ lOnly i.x { dsel := true } = true) ∧
    (let d := ((q.cell 0).rdD 15).toNat
     bitB (q.freg FR.HV_CTRL) 0 = true ∧ d / 2 ^ 34 = 0 ∧ d % 2 ^ 22 = 2) ∧
    (let d := ((s.cell 0).rdD 15).toNat
     bitB (s.freg FR.HV_CTRL) 0 = true ∧ d / 2 ^ 22 = 0 ∧ d % 2 ^ 12 = 1 ∧ d / 2 ^ 12 < s.freg FR.HV_LAYER_CNT) ∧
    (∃ s1, (s.carrying 0 i).deliverLayer 0 false (localStatus 0) = .accepted s1 ∧
      (decide (s1.cell 0 = (s.cell 0).holding i) && s1.hv.subs.isEmpty &&
        (s1.deliveryOf 0).any (fun w => !s1.layerSettled w)) = true) ∧
    bitB (runState.freg FR.HV_CTRL) 0 = false :=
  ⟨⟨readyLong_of (ready_of (by decide +kernel)) (by decide +kernel), readyLong_of (ready_of (by decide +kernel)) (by decide +kernel),
      readyLong_runState, by decide, by decide⟩,
    by decide +kernel, by decide +kernel, DelRes.of_st (by decide +kernel), by decide +kernel⟩

/-- The layer as delivered, and with a gradient that no page maps; and a layer under rule 4. -/
def oneLayer : Delivered := { layer := 0, word := { count := 1 }, entry := oneEntry }
def farLayer : Delivered := { oneLayer with entry := oneEntry ||| (1#1024 <<< 808) }
def hvOpen (d : Delivered) : State := { hvBase with hv := { delivered := [d] } }

theorem witness_HarvestStep_updates : ∀ d ∈ [oneLayer, farLayer],
    let s := hvOpen d
    s.deliveryOf 0 = some d ∧ s.layerSettled d = false ∧ s.hv.carried = false ∧ 0 < Entry.groups d.entry ∧
      s.hv.done.contains (0, 0) = false ∧ s.exportHolds 0 = false ∧ Entry.rule d.entry = 1 ∧
      ((HRes.st (s.groupUnit d.entry 0)).any (fun r =>
        let b : State := { r.1 with hv := { r.1.hv with begun := [(0, 0)] } }.memUpset { hbm := { corrected := 1 } }
        if d.entry = oneEntry then
          (HRes.st (b.runGroup r.2 d 0)).any (fun t => t.1.hv.subs.isEmpty)
        else (HRes.why (b.runGroup r.2 d 0)).any (fun t => t.1.hv.subs.isEmpty &&
          !t.1.layerFailed 0 && SMap.wf floorResetVal t.1.fregs)) = true) := by decide +kernel

/-- A step that may be decided, and a matrix rule without an array. -/
theorem witness_HarvestStep_decision :
    (let s := hvOpen oneLayer
     s.hv.delivered ≠ [] ∧ s.hv.decision = none ∧ s.hv.carried = false ∧ s.validLayers = .ok s [0] ∧
       [0].all (fun l => (s.deliveryOf l).isSome) = true ∧ s.hv.subs = [] ∧ s.hv.delivered.any (·.nfLocal) = false ∧
       SMap.wf floorResetVal s.fregs = true) ∧
    (let e := BitVec.ofNat 1024 (2 ^ 63 + 4 * 2 ^ 48 + 1 * 2 ^ 64 + 1 * 2 ^ 96 + 0x1000 * 2 ^ 192 + 0x2000 * 2 ^ 256 + 0x5000 * 2 ^ 704
       + 0x6000 * 2 ^ 768 + 0x7000 * 2 ^ 832 + 0x8000 * 2 ^ 896)
     let s := hvOpen { oneLayer with entry := e }
     s.matrixWork 0 = true ∧ s.bandLent 0 = false ∧ bitB (s.freg (FR.HV_U_STATUS 0)) 3 = false) :=
  ⟨⟨by decide, rfl, rfl, rfl, by decide +kernel, rfl, rfl, by decide +kernel⟩, by decide +kernel⟩

/-- Every cell waits at the Equinox barrier, at which the step's outcome is the last, 3. -/
def eqEntry : InFlight := { pc := 8, ins := { op := .eqnx, f := { rd := 31 } }, arrived := some 0 }
def eqState (hv : HvState) : State :=
  { hvBase with cells := Vector.replicate 256 { onCell with window := [eqEntry] }, hv, sync := { equinox := { arrived := List.finRange 256 } } }

theorem eqCell (hv : HvState) (d : CellId) : (eqState hv).cell d = { onCell with window := [eqEntry] } := by
  simp [State.cell, eqState]
theorem eqHolds (hv : HvState) (h : hv.subs = []) (d : CellId) : Holds d (eqState hv) eqEntry := by
  refine holds_at ?_
  rw [eqCell]
  have h2 : (eqState hv).hvBusy d = false := by simp [State.hvBusy, eqState, h]
  rw [h2]
  decide +kernel

theorem witness_EquinoxBarriers :
    (∀ q ∈ [Decision.skipNf, .skipCeil, .commit, .redo],
      let s := { hvOpen oneLayer with hv := { delivered := [oneLayer], decision := some q, done := [(0, 0)] } }
      s.rx = {} ∧ s.hv.subs = [] ∧ s.hv.delivered ≠ [] ∧ s.hv.carried = false ∧ s.allArrived = false ∧ s.hv.begun = [] ∧
        s.hv.delivered.all s.layerSettled = true ∧ s.hv.fails = [] ∧ bitB (s.freg FR.HV_CTRL) 4 = false ∧
        s.freg FR.RC_CTRL = 0 ∧ (s.hv.delivered.map (·.layer)).Nodup ∧ SMap.wf floorResetVal s.fregs = true) ∧
    (let s := eqState { delivered := [oneLayer], decision := some .commit, carried := true, outcome := 3, lsHeld := true }
     s.allArrived = true ∧ s.hv.failed = none ∧ s.hv.outcome < 4 ∧ SMap.wf floorResetVal s.fregs = true ∧
       ∀ d, Holds d s eqEntry) ∧
    (let s := eqState {}
     s.allArrived = true ∧ s.hv.delivered = [] ∧ ∀ d, Holds d s eqEntry) ∧
    (eqEntry.ins.op = .eqnx ∧ sOnly eqEntry.ins.f { rd := true } = true ∧ eqEntry.ins.x = {} ∧ eqEntry.next = none ∧
      eqEntry.arrived = some 0) :=
  ⟨by decide +kernel, ⟨by decide +kernel, rfl, by decide, by decide +kernel, eqHolds _ rfl⟩,
    ⟨by decide +kernel, rfl, eqHolds _ rfl⟩, by decide⟩

/-! ### Replica checks, the difference stream and jobs -/

/-- Group 0 of two members, of which this chip is the first, is the replicas' group. -/
def rcBase : State :=
  (({ hvBase with mem := { hvBase.mem with hbm := SMap.setRange (fun _ => 0) hvBase.mem.hbm 0x8000 (leBytes 16 (2 ^ 63 + 2 * 2 ^ 32)) } }.setFreg
    FR.CE_GROUP_BASE 0x8000).setFreg FR.CE_GROUP_CNT 1).setFreg FR.RC_CTRL 1
/-- The instance of the device's own exchange, in the last slot; this chip has rank 0 of two. -/
def ownInst : Inst := { cid := 4080, cseq := 0, n := 2, me := 0, nodes := [1, 2] }
def ownCe : CeState := { slots := (Vector.replicate 32 none).set 31 (some ownInst) }
def exState (p : ExPhase) (q : Option Bool) : State := { rcBase with rx := { phase := p, release := q }, ce := ownCe }

/-- An exchange in which the other member holds the same fingerprints, and one in which it does not; and the phases
in which a release is taken and not. -/
theorem witness_ReplicaChecks_exchange :
    (let s := exState .exchanging none
     SMap.wf floorResetVal s.fregs = true ∧ s.ownExchange = some (31, ownInst) ∧ ownInst.slow = [] ∧ ownInst.harvest = false ∧
       s.ce.mine = none ∧ s.ce.waitQ = [] ∧ ownInst.ended = none ∧ ownInst.got = false ∧ ∀ fp ∈ [0, 5],
       (HRes.st s.pendingFps).any (fun b =>
         let others := [b.1.ownRecord 1 [fp]]
         let rs := (b.1.ownRecord 0 b.2 :: others.filter (fun r => r.rank != 0)).foldl (fun l r => insertRank r l) []
         decide (b.1.ce = s.ce) && rs.all (inStep rs) && ((divergedLayers rs b.1.layerCnt).isEmpty == (fp == 0))) = true) ∧
    (∀ q : Option Bool, Reaches .host (exState .halted q) FR.RC_RELEASE ∧ Still (exState .halted q)) ∧
    (Reaches .host (exState .passed none) FR.RC_RELEASE ∧ Still (exState .passed none)) :=
  ⟨by decide +kernel, fun q => ⟨reaches_host rfl, still_default rfl rfl⟩, reaches_host rfl, still_default rfl rfl⟩

/-- A round over a range of two groups, and one over a located group that differs. -/
def bisState (w : Bisect) (d : List Delivered) : State :=
  { rcBase with rx := { phase := .bisecting, work := [w] }, hv := { delivered := d }, ce := ownCe }
theorem witness_ReplicaChecks_rounds :
    (let w : Bisect := { layer := 0, lo := 0, n := 2, ref := 1, ranks := [0, 1] }
     let s := bisState w [oneLayer]
     s.ownExchange = some (31, ownInst) ∧ (HRes.st ((s.ownWords w).bind (fun z _ => (z.count FR.RC_BISECT_CNT).ownWords w))).any (fun a =>
       decide (a.1.rx = s.rx) && decide (a.1.ce = s.ce) && !a.2.isEmpty &&
       (nextRange w (roundWords 0 a.2 w { words := [(1, 0, [7, 0])] })).isSome) = true) ∧
    (let w : Bisect := { layer := 0, lo := 0, n := 1, ref := 1, ranks := [0, 1], crcs := [(0, 7), (1, 8)] }
     let s := bisState w [oneLayer]
     (∃ k ∈ w.ranks, ((w.crcs.find? (fun c => c.1 == k)).map (·.2)).getD 0 ≠ ((w.crcs.find? (fun c => c.1 == w.ref)).map (·.2)).getD 0) ∧
     s.ownExchange = some (31, ownInst) ∧ (HRes.st (s.ownWords w)).any (fun a =>
       decide (a.1.rx = s.rx) && decide (a.1.ce = s.ce) && SMap.wf floorResetVal a.1.fregs &&
       (s.deliveryOf 0).isSome && bits (a.1.freg FR.RC_CTRL) 3 2 != 1 && !bitB (a.1.freg FR.RC_DIV_INFO) 63) = true) := by
  decide +kernel

/-- A record of the difference stream for group 0 of layer 0's master, in which one word is unchanged (R355, R356). -/
def dxRec : List Byte :=
  let h := leBytes 1 1 ++ leBytes 1 0 ++ leBytes 2 0 ++ leBytes 8 1 ++ leBytes 8 0 ++ leBytes 4 4 ++ leBytes 4 1 ++ leBytes 32 0
  let p := leBytes 4 0x10000
  leBytes 4 (crc32c (leBytes 4 0 ++ h ++ p)) ++ h ++ p
def stagedOne (sent : Bool) : Staged := { bytes := List.replicate 64 0, sent0 := sent, sent1 := false }
def dxState (head : Nat) (l : List Staged) : State :=
  { ((rcBase.setFreg FR.DX_RING_BASE 0x100000).setFreg FR.DX_RING_HEAD head).setFreg FR.DX_CTRL 0x3C with rx := { staged := l } }

/-- A ring with room and one without, a record that only the second sink lacks, and records from the peer that are
taken and not. -/
theorem witness_DifferencesAndJobs_stream :
    (let s := dxState 0 [stagedOne false]
     (HRes.st (s.ringWrite (s.freg FR.DX_RING_BASE) 65536 0 (stagedOne false).bytes)).any (fun a =>
       decide (a.1.rx = s.rx) && SMap.wf floorResetVal a.1.fregs) = true) ∧
    (let s := dxState 64 [stagedOne false]
     s.freg FR.DX_RING_TAIL = 0 ∧ s.freg FR.DX_RING_HEAD = 64 ∧ (stagedOne false).bytes.length = 64) ∧
    (let s := dxState 0 [stagedOne true]
     bitB (s.freg FR.DX_CTRL) 3 = true ∧ s.rx.staged = [stagedOne true] ∧ (stagedOne true).sent1 = false) ∧
    (let s := dxState 0 []
     (bitB (s.freg FR.DX_CTRL) 4 = true ∧ bitB (s.freg FR.DX_CTRL) 5 = true ∧ bitB (s.freg FR.DX_STATUS) 3 = false ∧
       s.hvState = 0 ∧ s.ce.deliver = [] ∧ SMap.wf floorResetVal s.fregs = true) ∧
     dxCrcOk (0 :: dxRec) = false ∧
     (dxCrcOk dxRec = true ∧ dxF dxRec 127 64 = s.freg FR.HV_COMMIT_CNT + 1 ∧ dxF dxRec 39 32 = 1 ∧
       (HRes.st (s.applyDiff dxRec)).any (fun a => a.2 && a.1.ce.deliver.isEmpty) = true)) := by decide +kernel

/-- A job descriptor of type ty for layer 0's master, with its buffer at 0x20000 and its result record at 0x30000. -/
def jobDesc (ty size : Nat) : Desc :=
  BitVec.ofNat 512 (ty + 0x100 + 2 ^ 64 + 0x20000 * 2 ^ 128 + size * 2 ^ 192 + 0x30000 * 2 ^ 256)
/-- The descriptors of the four types lie at 0x9000; none lies at 0xA000. -/
def jobState (rx : RxState) : State :=
  { rcBase.setFreg FR.RC_FP_BASE 0xB000 with
    rx, mem := { rcBase.mem with hbm := [1, 2, 3, 4].foldl (fun m ty =>
      SMap.setRange (fun _ => 0) m (0x9000 + 64 * ty) (leBytes 64 (jobDesc ty 0x4000).toNat)) rcBase.mem.hbm } }
def allStill (s : State) : Bool := s.cells.toList.all (fun x => x.window.isEmpty) && s.hv.remake.isEmpty

/-- A write to RX_JOB that starts each type of job, one whose descriptor is malformed, and one while a job runs. -/
theorem witness_DifferencesAndJobs_starts :
    (∀ j, Reaches .host (jobState { job := j }) FR.RX_JOB ∧ Still (jobState { job := j })) ∧
    (let s := jobState {}
     ∀ ty ∈ [0, 1, 2, 3, 4], (HRes.st (s.hvRead 0 0 (0x9000 + 64 * ty) 64)).any (fun a =>
       let n : Job := { desc := BitVec.ofNat 512 (leNat a.2), vers := a.1.verBits, version := a.1.freg FR.HV_COMMIT_CNT }
       let w := a.1.putFreg FR.RX_JOB_STATUS 15 8 n.ty
       allStill a.1 && n.ty == ty && w.jobOk n == (ty != 0) && SMap.wf floorResetVal w.fregs && s.hvState == 0 &&
       a.1.hvState == 0 &&
       (ty != 1 || (HRes.st (w.exportPlan n)).any (fun b => b.2 == [(0, 0)] && allStill b.1)) &&
       (ty != 4 || (HRes.st (w.hvRead 0 0 n.buf (min n.size 64))).any (fun b =>
         (HRes.st (b.1.hvRead 0 0 (b.1.freg FR.RC_FP_BASE) (4 * b.1.layerCnt))).any (fun e => allStill e.1 &&
           elemsOf 4 e.1.layerCnt e.2 == [0] && SMap.wf floorResetVal e.1.fregs &&
           e.1.cells.toList.all (fun x => SMap.wf cellResetVal x.regs))))) = true) :=
  ⟨fun j => ⟨reaches_host rfl, still_default rfl rfl⟩, by decide +kernel⟩

/-- A record of an export that fits and one that does not, of a layer whose tensor has no elements and of one with one;
an import that has covered its layer; a job that has ended. -/
theorem witness_DifferencesAndJobs_exports :
    ∀ l ∈ [(5, 0x4000), (0, 0)], let j : Job := { desc := jobDesc 1 l.2, todo := [(l.1, 0)] }
     let s := jobState { job := some j }
     (HRes.st (s.readEntry l.1)).any (fun a =>
       (HRes.st (a.1.readTensor 0 a.2 0 (b2n (j.vers.getLsbD l.1)) 0 (Entry.elems a.2 * kindSize 0))).any (fun b =>
         let w := shardRecord j j.version (j.f 127 96 + (l.1 - j.f 95 80)) 0 (Entry.rows a.2) (Entry.cols a.2) b.2
         if l.2 = 0 then decide (j.size < j.pos + w.length)
         else decide (j.pos + w.length ≤ j.size) && (HRes.st (b.1.hvWrite 0 0 (j.buf + j.pos) w)).isSome)) = true := by
  decide +kernel
theorem witness_DifferencesAndJobs_ends :
    (let j : Job := { desc := jobDesc 2 0, seen := [{ layer := 0, kind := 0, row0 := 0, rowN := 1, col0 := 0, colN := 1 }] }
     let s := jobState { job := some j }
     j.size < j.pos + 64 ∧ (HRes.st (State.entriesFrom 0 s.layerCnt s)).any (fun a =>
       let sel := a.2.filter (fun e => j.layerList.contains e.1)
       sel.map (·.1) == [0] &&
       sel.all (fun e => (Entry.kinds e.2 2).all (fun k => !j.kindList.contains k || coveredBy j.seen e.1 k e.2)) &&
       (HRes.st ((State.copyGroups (groupsOf sel (fun e => otherKinds j.kindList e)) a.1).bind (fun s _ =>
         State.remakePending (sel.flatMap (fun e => (List.range (Entry.groups e.2)).map (fun g => (e.1, e.2, g)))) s))).any
         (fun b => SMap.wf floorResetVal b.1.fregs)) = true) ∧
    (let j : Job := { desc := jobDesc 1 0, ended := some { status := 0 } }
     (HRes.st ((jobState { job := some j }).hvWrite 0 0 (j.f 319 256) (jobRecord j { status := 0 }))).any (fun a =>
       a.1.ce.deliver.isEmpty && SMap.wf floorResetVal a.1.fregs) = true) := by decide +kernel

/-! ### Flagen and Parade -/

/-- Interface 0 of port 0 is enabled and in state st. -/
def ifState1 (st : Nat) : State :=
  { ((State.reset.setFreg FR.FL_CTRL 1).setFreg (FR.FL_P_CFG 0) 1).setFreg (FR.FL_P_STATUS 0) st with dev := upState.dev, pw := upState.pw }

theorem witness_LinksComeUpAndPeersMeet_links :
    (∀ st ∈ [1, 2, 3, 4, 5], let s := ifState1 st
     s.dev.mainOn = true ∧ s.ifOn 0 0 = true ∧ SMap.wf floorResetVal s.fregs = true ∧ s.ifState 0 0 = st ∧
       s.fl.ctx = [] ∧ bits (s.freg FR.FL_VLAN) 15 13 < 8 ∧ SMap.wf (fun _ => 0) s.fl.paused = true) := by decide +kernel

/-- Node 7 is reached over interface 0, which is UP, and its context is x. -/
def peerState (x : Ctx) : State :=
  { ((ifState1 4).setFreg FR.FL_PEER_BASE 0x10000) with
    mem := { upState.mem with hbm := SMap.setRange (fun _ => 0) [] (0x10000 + 32 * 7) (leBytes 2 0x101) }
    fl := { ctx := [(7, x)], cached := [7] } }
def oneSent : Sent := { psn := 0, frame := { ty := 1, cid := 5, cseq := 0, len := 64 } }
def peerFrame : FrameIn := { src := 7, epoch := 3, cid := 5 }

/-- The states of a context in which each of the clauses applies. -/
theorem witness_LinksComeUpAndPeersMeet_peers :
    frameOk peerFrame = true ∧
    (∀ x ∈ [({ st := .hello } : Ctx), { st := .hello, acked := true }, { st := .hello, heard := true }, { st := .up, chip := 9, epoch := 3 },
        { st := .up, unacked := [oneSent], timeouts := 7 }, { st := .up, unacked := [oneSent], timeouts := 6 }],
      let s := peerState x
      s.dev.mainOn = true ∧ s.flEn = true ∧ s.flLoop = false ∧ SMap.wf floorResetVal s.fregs = true ∧
        s.linkSet 7 = [0] ∧ s.clearLink 7 = some 0 ∧ s.psnLink 7 0 = some 0 ∧ s.ctxOf 7 = x ∧ x.waiting = false ∧
        (s.touchCtx 7).2 = true ∧ s.hasClash 7 = false ∧ s.routeThere 7 = true ∧ s.ce.waitQ = [] ∧ s.ce.mine = none) ∧
    (let s := (peerState { st := .up, unacked := [oneSent], timeouts := 6 }).setFreg (FR.FL_P_STATUS 0) 3
     s.dev.mainOn = true ∧ s.flEn = true ∧ s.flLoop = false ∧ SMap.wf floorResetVal s.fregs = true ∧ s.psnLink 7 oneSent.psn = none) ∧
    (∀ x k, (peerState x).inst k = none) ∧
    (let s := { peerState {} with fl := {} }
     (s.ctxOf 7).st = .idle ∧ s.dev.mainOn = true ∧ s.flEn = true ∧ s.flLoop = false ∧ SMap.wf floorResetVal s.fregs = true ∧
       (s.touchCtx 7).2 = true ∧ s.hasClash 7 = false ∧ s.routeThere 7 = true) :=
  ⟨by decide, by decide +kernel, by decide +kernel, fun x k => by simp [State.inst, peerState, ifState1, State.reset, State.setFreg], by decide +kernel⟩

/-- A frame for an instance that runs, for one that has read nothing yet, and for none; an acknowledgement owed. -/
def rxCtx : Ctx := { st := .up, chip := 9, epoch := 3, rxCum := 0, owed := 1, unacked := [oneSent] }
def rxState (i : Option Inst) : State :=
  { peerState rxCtx with ce := { slots := (Vector.replicate 32 none).set 0 i } }
/-- An all-gather between ranks 0, this chip, and 1, to which its data has gone. -/
def gatherInst : Inst :=
  { cid := 5, cseq := 0, begun := true, got := true, desc := 3, n := 2, me := 0, nodes := [0, 7], fed := NSet.add [] 1, sent := [(1, 64)] }
theorem witness_TransportFrames :
    (∀ i ∈ [none, some gatherInst, some { cid := 5, cseq := 0 }], let s := rxState i
     s.dev.mainOn = true ∧ s.flEn = true ∧ frameOk peerFrame = true ∧ (s.ctxOf 7).st = .up ∧
       (s.ctxOf 7).epoch % 65536 = peerFrame.epoch.toNat ∧ s.fl.cached.contains 7 = true ∧ (s.ctxOf 7).rxCum = peerFrame.psn.toNat ∧
       (s.ctxOf 7).rxMap = [] ∧ (s.ctxOf 7).owed < 7 ∧ (s.ctxOf 7).owed ≠ 0 ∧ (s.ctxOf 7).queue = [] ∧ s.rx.job = none ∧ s.hasClash 7 = false ∧ s.routeThere 7 = true ∧ s.ce.waitQ = [] ∧
       s.ce.mine = none ∧ s.fl.full = [] ∧ s.clearLink 7 = some 0 ∧ State.clearLink { s with fl := { s.fl with paused := [(0, 9)] } } 7 = none ∧
       SMap.wf floorResetVal s.fregs = true ∧ s.instFor peerFrame = i.map (fun _ => 0) ∧ s.inst 0 = i) ∧
    (let j : Inst := { gatherInst with data := [⟨1, 0, 0, payloadBytes (leBytes 8 1) 0⟩] }
     j.peers = [1] ∧ j.dueSteps (j.plan 1) (j.sent.get (fun _ => 0) 1) = 0) :=
  ⟨by decide +kernel, by decide +kernel, by decide +kernel⟩

/-- A group of this chip alone, which is node 0; descriptor 5 is a gather of 64 bytes from 0x10000 to 0x11000 triggered
by the word at 0x12000 and completed at 0x13000. -/
def ceBase (trig : Nat) (ce : CeState) : State :=
  ((({ upState with
      ce, mem := { hbm := SMap.setRange (fun _ => 0) (SMap.setRange (fun _ => 0) (SMap.setRange (fun _ => 0) []
                      (0xE000 + 128 * 5) (leBytes 64 (3 + 7 * 2 ^ 20 + 7 * 2 ^ 24 + 64 * 2 ^ 64 + 0x10000 * 2 ^ 128 + 0x11000 * 2 ^ 192
                        + 0x12000 * 2 ^ 256 + 0x13000 * 2 ^ 320)))
                      0x8000 (leBytes 16 (2 ^ 63 + 2 ^ 32 + 0xC000 * 2 ^ 64))) 0x12000 (leBytes 8 trig)
                   tlb := [{ page := 0, pages := 0x4000, pte := 0xF000000000000003 }] } }.setFreg FR.TR_CTRL 1).setFreg
    FR.CE_GROUP_BASE 0x8000).setFreg FR.CE_GROUP_CNT 1).setFreg FR.CE_DESC_BASE 0xE000 |>.setFreg FR.CE_CTRL 1
def armedOne : Armed := { cid := 5, next := 1 }
def fullSlots : Vector (Option Inst) 32 := Vector.replicate 32 (some { cid := 9, cseq := 0 })

/-- A trigger word that has not reached the next sequence, and one that has, with a slot free and with none. -/
theorem witness_ParadeInstances_trigger :
    ∀ trig ∈ [0, 1], ∀ slots ∈ [Vector.replicate 32 none, fullSlots],
      let s := ceBase trig { armed := [armedOne], slots }
      s.dev.mainOn = true ∧ s.fatal = false ∧ s.slotOf 5 = none ∧ s.armedOf 5 = some armedOne ∧ bitB (s.freg FR.CE_CTRL) 0 = true ∧
      s.ce.waitQ = [] ∧ s.ce.mine = none ∧ s.ce.held = [] ∧
      (HRes.st ((s.ceRead 5 0 (s.freg FR.CE_DESC_BASE + 128 * 5) 40).bind (fun s d =>
         s.ceRead 5 ⟨fieldAt d 0 4 / 2 ^ 28 % 8, by omega⟩ (fieldAt d 32 8 % 2 ^ 57 / 8 * 8) 8))).any (fun a =>
        decide (a.1.ce = s.ce) && !a.1.fatal && leNat a.2 == trig && (a.1.freeInst.isSome == decide (slots ≠ fullSlots)) &&
        (decide (slots = fullSlots) ||
          let m : State := State.setInst { a.1 with ce := { a.1.ce with
            armed := a.1.ce.armed.map (fun b => if b.cid = 5 then { b with next := 2 } else b) } } 0 (some { cid := 5, cseq := 1 })
          match m.setup { cid := 5, cseq := 1 } with
          | .ok w i => i.peers.isEmpty && i.ready.isEmpty && i.ended.isNone && !bitB (w.freg FR.CE_STATUS) 4 &&
              decide (w.ce = m.ce) && i.fed.isEmpty && w.rx.job.isNone
          | _ => false)) = true := by decide +kernel


/-- The list with room, and full; a descriptor whose instance runs; one that has read nothing is aborted. -/
theorem witness_ParadeInstances_arm :
    (∀ t ce, Reaches .host (ceBase t ce) FR.CE_ARM ∧ Reaches .host (ceBase t ce) FR.CE_ABORT ∧ Still (ceBase t ce)) ∧
    (({} : CeState).armed.length < 256 ∧ (ceBase 0 {}).slotOf 5 = none) ∧
    (let s := ceBase 0 { armed := (List.range 256).map (fun k => { cid := 100 + k, next := 0 }) }
     s.armedOf 5 = none ∧ 256 ≤ s.ce.armed.length) ∧
    (let i : Inst := { cid := 5, cseq := 0 }
     let s := ceBase 0 { slots := (Vector.replicate 32 none).set 0 (some i) }
     s.slotOf 5 = some 0 ∧ s.inst 0 = some i ∧ i.ended = none ∧ i.got = false ∧ i.desc = 0 ∧ i.n = 0 ∧ i.fed = [] ∧ s.ce.waitQ = [] ∧ s.ce.mine = none ∧ SMap.wf floorResetVal s.fregs = true) :=
  ⟨fun t ce => ⟨reaches_host rfl, reaches_host rfl, still_default rfl rfl⟩, by decide +kernel, by decide +kernel, by decide +kernel⟩

/-- The gather of a group of one that has begun; and the root of a direct broadcast to three ranks, of which rank 1 has
acknowledged nothing of 8 MiB and rank 2 all. -/
def aloneInst : Inst :=
  { cid := 5, cseq := 1, begun := true, got := true, n := 1, me := 0, nodes := [0], own := List.replicate 64 (0, false)
    desc := BitVec.ofNat 1024 (3 + 7 * 2 ^ 20 + 7 * 2 ^ 24 + 64 * 2 ^ 64 + 0x10000 * 2 ^ 128 + 0x11000 * 2 ^ 192 + 0x12000 * 2 ^ 256
      + 0x13000 * 2 ^ 320) }
def rootInst : Inst :=
  { cid := 5, cseq := 0, begun := true, got := true, n := 3, me := 0, nodes := [0, 7, 8], fed := [1, 2]
    desc := BitVec.ofNat 1024 (4 + 4 * 2 ^ 12 + 0x800000 * 2 ^ 64) }
theorem witness_ParadeInstances_complete :
    let i := aloneInst
    let s := ceBase 0 { slots := (Vector.replicate 32 none).set 0 (some i) }
    let comp := i.f 383 320
    let bs := leBytes 64 (i.record 0 0 0xFFFFFFFF)
    s.inst 0 = some i ∧ s.instReady i = true ∧ i.isOwn = false ∧ i.reduces = false ∧ i.harvest = false ∧ i.got = true ∧ comp % 64 = 0 ∧ comp < 2 ^ 57 ∧
    (HRes.st (s.writeResult i (i.result i.draw).2)).any (fun a =>
      (HRes.st ((a.1.ceWrite i.cid i.cls (comp + 8) (clean (bs.drop 8))).bind (fun s _ => s.ceWrite i.cid i.cls comp (clean (bs.take 8))))).any
        (fun b => b.1.ce.waitQ.isEmpty && b.1.ce.mine.isNone && b.1.ce.deliver.isEmpty && SMap.wf floorResetVal b.1.fregs)) = true := by decide +kernel
theorem witness_ParadeInstances_detach :
    let i := rootInst
    let late : FrameOut := { ty := 1, cid := 5, cseq := 0, rank := 0, offset := 0, len := 1024 }
    let s := { ceBase 0 { slots := (Vector.replicate 32 none).set 0 (some i) } with
      fl := { ctx := [(7, { st := .up, unacked := [{ psn := 0, frame := late }] }), (8, { st := .up })], cached := [7, 8] } }
    s.inst 0 = some i ∧ i.op = 4 ∧ i.algo = 4 ∧ i.me = i.root ∧ i.detached.has 1 = false ∧ i.ended = none ∧ i.n = 3 ∧ i.me = 0 ∧ i.detached.has 2 = false ∧
      s.ackedOffset i 1 < i.count ∧ s.ackedOffset i 1 + bits (s.freg FR.CE_LAG_CFG) 15 0 * 65536 < s.ackedOffset i 2 ∧
      SMap.wf floorResetVal s.fregs = true := by decide +kernel

/-! ### The host interface -/

/-- Queue 0 with 16 entries each way, enabled or not. -/
def qState (en : Nat) (hs : HostState) : State :=
  { (State.reset.setFreg (FR.HI_Q_CFG 0) (4 + 4 * 256 + en * 2 ^ 31)).setFreg FR.HI_CTRL 1 with dev := upState.dev, hs, pw := upState.pw }
/-- A command of an operation, with fields beyond the header. -/
def cmdOf (op fields : Nat) (outcome : Option (Nat × Nat × Nat) := none) : HostCmd :=
  { q := 0, order := 0, bytes := BitVec.ofNat 512 (op + fields), sqHead := 1, outcome }
def cmdsOf (c : HostCmd) : HostState := { link := .cxl, cmds := (Vector.replicate 16 none).set 0 (some c) }

/-- The state and the value of an access that is performed. -/
def AccRes.st {α : Type} : AccRes α → Option (State × α)
  | .ok s v => some (s, v)
  | _ => none

theorem witness_HostQueues :
    (let s := qState 1 { link := .cxl }
     s.dev.mainOn = true ∧ s.cxlUp = true ∧ s.qEn 0 = true ∧ s.sqSize 0 = 16 ∧ s.cqSize 0 = 16 ∧ s.qp 0 = {} ∧
       SMap.wf floorResetVal s.fregs = true ∧ bitB (s.freg (FR.HI_Q_CFG 0)) 31 = true) ∧
    (Reaches .host (qState 0 { link := .cxl }) (FR.HI_Q_CFG 0) ∧ Reaches .host (qState 1 { link := .cxl }) (FR.HI_Q_CFG 0)) ∧
    (let s := qState 0 {}
     SMap.wf floorResetVal s.fregs = true ∧ bitB (s.freg (FR.HI_Q_CFG 0)) 31 = false) ∧
    (∀ hbm ∈ [0, 1], let q : State := qState 1 { link := .cxl, qs := (Vector.replicate 64 {}).set 0 { sqTail := 1 } }
     let s := q.setFreg (FR.HI_Q_CFG 0) (4 + 4 * 256 + hbm * 2 ^ 30 + 2 ^ 31)
     s.dev.mainOn = true ∧ s.fatal = false ∧ bitB (s.freg FR.HI_CTRL) 0 = true ∧ s.rx.job = none ∧
       (List.finRange 16).find? (fun k => (s.cmd k).isNone) = some 0 ∧ s.queueOrder.find? (s.mayFetch 0) = some 0 ∧
       s.entryHeld 0 = false ∧ s.absent ((s.sqEntry 0).2 / 256) = true ∧ s.rawAsleep (s.sqEntry 0).2 = none ∧ b2n (bitB (s.qCfg 0) 30) = hbm) ∧
    (∀ st ∈ [0, 1], let c := cmdOf 0 0 (some (st, 0, 0))
     let s := qState 1 (cmdsOf c)
     s.cmd 0 = some c ∧ c.owesMailbox = false ∧ (st = 1 ∨ s.cmdSettled c = true) ∧ s.cqRoom 0 = true ∧ s.cxlUp = true ∧
       bitB (s.qCfg 0) 29 = false ∧ bitB (s.qCfg 0) 28 = false ∧ SMap.wf floorResetVal s.fregs = true) :=
  ⟨by decide +kernel, ⟨reaches_host (by decide +kernel), reaches_host (by decide +kernel)⟩, by decide +kernel, by decide +kernel, by decide +kernel⟩

/-- Cell 0 awake and halted, or running, for the commands of R422; the mask of every operation is of cell 0 or of
band 0. -/
def hcState (c : HostCmd) (x : Cell) : State :=
  { (qState 1 (cmdsOf c)).setFreg FR.TR_CTRL 1 with
    cells := Vector.replicate 256 x
    mem := { tlb := [{ page := 0, pages := 0x4000, pte := 0xF000000000000003 }] } }
def cell0Mask : Nat := 2 ^ 64
def restCell : Cell := { cp := { st := .awake } }

theorem witness_HostCommands_cells :
    (∀ op ∈ [0, 1, 2, 3, 4], let c := cmdOf op cell0Mask
     let s := hcState c restCell
     s.cmd 0 = some c ∧ s.dev.mainOn = true ∧ c.outcome = none ∧ SMap.wf floorResetVal s.fregs = true ∧ c.op = op ∧ s.fatal = false ∧
       (op ∈ [1, 2, 3] → c.cells = [0]) ∧ s.hv.delivered = [] ∧
       (op = 4 → (List.finRange 16).filter (fun b => bitB (c.f 79 64) b.val) = [0])) ∧
    (∀ c n, (hcState c restCell).cell n = restCell) ∧
    (restCell.cp.st = .awake ∧ restCell.window = [] ∧ restCell.mode ≠ .running ∧ (∀ m, restCell.slot m = none)) ∧
    (let c := cmdOf 8 (3 * 2 ^ 80)
     let s := hcState c restCell
     s.cmd 0 = some c ∧ s.dev.mainOn = true ∧ SMap.wf floorResetVal s.fregs = true ∧ c.op = 8 ∧ cellNo (c.f 71 64) = 0 ∧
       restCell.cp.goal.reset = false ∧ (restCell.sem 0).ovf = false ∧ (restCell.sem 0).count.toNat + c.f 95 80 ≤ 65535) :=
  ⟨by decide +kernel, fun c n => by simp [State.cell, hcState], by decide +kernel, by decide +kernel⟩

theorem witness_HostCommands_memory :
    (let c := cmdOf 5 (2 ^ 64 + 0x1000 * 2 ^ 320 + 16 * 2 ^ 384)
     let s := hcState c restCell
     s.cmd 0 = some c ∧ s.dev.mainOn = true ∧ c.outcome = none ∧ s.hs.refused = [] ∧ c.op = 5 ∧ c.cells = [0] ∧
       AccRes.isOk (State.reach false 2 (c.f 376 320) (c.f 415 384) s) = true ∧
       (AccRes.st (s.spanRead .host (c.f 376 320) (c.f 415 384))).any (fun a =>
         !anyBad a.2 && decide (a.1.hs = s.hs) && decide (a.1.cells.toList = s.cells.toList)) = true) ∧
    (let c := cmdOf 6 (0x1000 * 2 ^ 64 + 0x2000 * 2 ^ 128 + 16 * 2 ^ 192)
     let s := hcState c restCell
     s.cmd 0 = some c ∧ s.hs.refused = [] ∧ c.op = 6 ∧
       AccRes.isOk ((State.reach false 2 (c.f 120 64) (c.f 223 192) s).bind (fun s _ => State.reach true 2 (c.f 184 128) (c.f 223 192) s))
         = true ∧
       (AccRes.st ((s.memUpset { hbm := { corrected := 1 } }).spanRead .host (c.f 120 64) (c.f 223 192))).any (fun a =>
         (AccRes.st (a.1.spanWrite .host (c.f 184 128) a.2)).any (fun b => decide (b.1.hs.cmds.toList = s.hs.cmds.toList))) = true) ∧
    (let c := cmdOf 7 (0x1000 * 2 ^ 64 + 5 * 2 ^ 128 + 16 * 2 ^ 192)
     let s := hcState c restCell
     s.cmd 0 = some c ∧ s.hs.refused = [] ∧ c.op = 7 ∧ AccRes.isOk (State.reach true 2 (c.f 120 64) (c.f 223 192) s) = true ∧
       (AccRes.st (s.spanWrite .host (c.f 120 64)
         (clean ((List.replicate (c.f 223 192 / 8) (leBytes 8 (c.f 191 128))).flatten)))).any (fun b => decide (b.1.hs.cmds.toList = s.hs.cmds.toList)) = true) := by
  decide +kernel

/-- A record that waits for a mailbox that is free, and for one that is READY; a command that asks for one. -/
def boxState (st : BoxSt) : State := qState 0 { link := .cxl, boxes := [(7, { st, seq := 4 })] }
def postBase (hs : HostState) (mem : MemState) : State :=
  { (((qState 0 hs).setFreg FR.TR_CTRL 1).setFreg FR.HI_POST_TRIG 0x1000).setFreg FR.HI_POST_BASE 0x2000 with
    mem := { mem with tlb := [{ page := 0, pages := 0x4000, pte := 0xF000000000000003 }] } }
theorem witness_Mailboxes_acks :
    ∀ st ∈ [BoxSt.ready, .consumed], let s := boxState st
    SMap.wf (fun _ => ({} : Mailbox)) s.hs.boxes = true ∧ SMap.wf floorResetVal s.fregs = true ∧ s.dev.mainOn = true ∧ s.cxlUp = true ∧
      (s.box 7).st = st ∧ (s.box 7).seq = 4 := by decide +kernel
theorem witness_Mailboxes_records :
    let p : Publication := { mbx := 7, ptr := 0, len := 64, tag := 1, user := 2 }
    (let s := postBase { post := some p } {}
     (s.box 7).st = .empty ∧ SMap.wf (fun _ => ({} : Mailbox)) s.hs.boxes = true ∧ SMap.wf floorResetVal s.fregs = true ∧
       AccRes.isOk (State.reach true 2 (s.freg FR.HI_POST_TRIG + 8) 8 s) = true ∧
       (let h := s.freg FR.HI_POST_HEAD + 1
        let x := (State.publish { s with hs := { s.hs with post := none } } p).setFreg FR.HI_POST_HEAD h
        (AccRes.st (x.spanWrite .host (s.freg FR.HI_POST_TRIG + 8) (clean (leBytes 8 h)))).any (fun a =>
          decide (a.1.hs = x.hs) && [FR.HI_POST_HEAD, FR.HI_MBX_PUB_CNT].all (fun r => a.1.freg r == x.freg r)) = true)) ∧
    (let s := postBase { post := some p, boxes := [(7, { st := .ready })] } {}
     (s.box 7).st = .ready ∧ SMap.wf (fun _ => ({} : Mailbox)) s.hs.boxes = true ∧ SMap.wf floorResetVal s.fregs = true) ∧
    (let c := cmdOf 0 (0x200 + 7 * 2 ^ 32) (some (0, 0, 0))
     let s := postBase (cmdsOf c) {}
     s.cmd 0 = some c ∧ c.owesMailbox = true ∧ s.cmdSettled c = true ∧ (s.box (c.f 43 32)).st = .empty) := by decide +kernel

/-- A trigger word that shows no new record, and one that shows one. -/
theorem witness_Mailboxes_triggers :
    ∀ n ∈ [0, 1],
      let ring : Bytes := SMap.setRange (fun _ => 0) [] 0x2000 (leBytes 32 (7 + 64 * 2 ^ 96 + 0x3000 * 2 ^ 128))
      let s := (postBase {} { hbm := SMap.setRange (fun _ => 0) ring 0x1000 (leBytes 8 n) }).setFreg FR.HI_CTRL 3
      s.dev.mainOn = true ∧ s.postEn = true ∧ s.hs.post = none ∧ s.hs.refused = [] ∧
      (AccRes.st (s.spanRead .host (s.freg FR.HI_POST_TRIG) 8)).any (fun a =>
        !anyBad a.2 && decide (a.1.hs = s.hs) && decide (a.1.freg FR.HI_POST_HEAD < leNat (plain a.2)) == (n == 1) &&
        (AccRes.st (a.1.spanRead .host (a.1.freg FR.HI_POST_BASE
            + 32 * (a.1.freg FR.HI_POST_HEAD % 2 ^ a.1.freg FR.HI_POST_CFG)) 32)).any (fun b =>
          let e := leNat (plain b.2)
          let va := bits e 184 128
          !anyBad b.2 && decide (b.1.hs = s.hs) && bits e 191 185 == 0 && bits e 63 12 == 0 && bits e 127 96 == 64 &&
          va == 0x3000 && (match b.1.translate { agent := .host, va } with
            | (z, .phys _) => decide (z.hs = s.hs)
            | _ => false))) = true := by decide +kernel

/-- The committed decoder of a CXL link: block 0 is in memory, or cached; the host has been asked to give block 0 back;
and the line of the host's block 0 is held. -/
def hdmState (lines : SMap Line) : State := qState 0 { link := .cxl, hdm := some 0 } |> fun s => { s with mem := { lines } }
theorem witness_HostAccesses :
    (∀ l ∈ [({} : Line), { st := .s }, { st := .e, holders := .cells [1], near := [nearOne] },
        { st := .m, holders := .cells [1], near := [nearOne], dirty := true }], let s := hdmState (SMap.set (fun _ => {}) [] 0 l)
     let y := s.memUpset { hbm := { corrected := 1 } }
     s.hdmAddr 0 = some 0 ∧ s.hostWaits 0 = false ∧ s.hs.held.length < 4194304 ∧ y.line 0 = l ∧ l.held = [] ∧
       s.absent 0 = decide (l = {}) ∧ s.rawAsleep 0 = none ∧ y.rx.job = none ∧ y.mem.posted = [] ∧ Memory.wf y.mem = true) ∧
    (let s : State := { upState with hs := { link := .cxl, held := [(0, true)], snooped := [(0, false)] } }
     Still s ∧ (s.line 0).leaving = false ∧ s.mem.posted = [] ∧ s.absent 0 = true ∧ s.rawAsleep 0 = none ∧ s.rx.job = none ∧ (0 : Nat) * 64 + 64 ≤ hbmTop ∧ Memory.wf s.mem = true) ∧
    (let la := hostBase / 256
     ∀ l ∈ [({ st := .m, dirty := true } : Line), { st := .s }], let s := hdmState [(la, l)]
     s.dev.mainOn = true ∧ s.cxlUp = true ∧ s.line la = l ∧ l.held = [] ∧ s.hostWaits la = false ∧
       SMap.wf (fun _ => ({} : Line)) s.mem.lines = true) :=
  ⟨by decide +kernel, ⟨still_default rfl rfl, by decide +kernel⟩, by decide +kernel⟩

/-! ### Resets, supplies and power -/

/-- Every cell awake and halted on a device that runs, of lifecycle PRODUCTION. -/
def awakeState (d : DevState) : State := { upState with dev := d, cells := Vector.replicate 256 restCell }
theorem awake_cell (d : DevState) (c : CellId) : (awakeState d).cell c = restCell := by simp [State.cell, awakeState]
theorem awake_still (d : DevState) : Still (awakeState d) := ⟨fun c => by rw [awake_cell]; rfl, rfl, rfl⟩

/-- The states from which each of the device resets goes out. -/
theorem witness_DeviceResets :
    (let s := awakeState upState.dev
     s.dev.stbyPg = true ∧ s.hotSensor = false ∧ s.dev.held = false ∧ s.dev.fw.writing = none ∧ SMap.wf floorResetVal s.fregs = true ∧ s.hs.link ≠ .down ∧ s.dev.fw.otp.lc ≠ 4 ∧
       s.dev.rstLow = false ∧ s.dev.perstLow = false ∧ s.dev.readyOnce = true) ∧
    (let s := awakeState { upState.dev with step := some 8, ready := false, fw := { asTry := true } }
     s.dev.stbyPg = true ∧ s.hotSensor = false ∧ s.dev.held = false ∧ s.dev.fw.writing = none ∧ SMap.wf floorResetVal s.fregs = true ∧ s.dev.step = some 8 ∧ s.dev.mainOn = true ∧
       s.dev.fw.asTry = true) ∧
    (let s := awakeState { upState.dev with held := true }
     s.dev.held = true ∧ s.hs.link ≠ .down) ∧
    (let s := (awakeState upState.dev).setFreg (FR.PWR_TEMP 0) 1601
     s.hotSensor = true ∧ s.dev.held = false) := by decide +kernel

theorem flTime_idle {s : State} (h : s.fl.loop = []) (h' : s.fl.ctx = []) : s.flTime = s := by
  simp [State.flTime, State.pumpLoop, State.flushAll, h, h']
theorem endStage_idle {s : State} (h : s.dev.fw.writing = none) : s.endStage = s := by simp [State.endStage, h]
theorem floorSteps_ready (s : State) {d : DevState} (h : d.fw.running.isSome = true) :
    ∃ w, State.floorSteps { s with dev := d } [] = .ready w := by
  obtain ⟨b, hb⟩ := Option.isSome_iff_exists.mp h
  simp [State.floorSteps, State.loadSteps, State.loadStep, State.calibrateStep, State.hbmStep, State.cxlStep,
    State.flagenStep, staysAt, fatalCal, State.modFw, State.atStep, hb]

/-- A floor reset whose bring-up the next interval begins. -/
theorem witness_PartialResets_bringup :
    let s := awakeState { upState.dev with floorBring := some [], fw := { running := some false } }
    let i : IntervalIn := { temps := List.replicate 64 400, hbmTemps := List.replicate 20 400 }
    let r := State.readSensors { s with timeUs := s.timeUs + 2 } i
    let u := (r.controlStep i.acts).flTime.endStage
    (SMap.wf floorResetVal s.fregs = true ∧ (∀ k, s.inst k = none) ∧ s.mem.reqs = [] ∧ (∀ c n, (s.cell c).slot n = none) ∧ s.mem.posted = []) ∧
    s.dev.stbyPg = true ∧ s.dev.mainOn = true ∧ r.tripCause = none ∧ u.dev.floorBring = some [] ∧ u.dev.step = none ∧
      ∃ w, u.floorSteps [] = .ready w := by
  intro s i r u
  have hr : r.fl.loop = [] ∧ r.fl.ctx = [] ∧ r.dev = s.dev := by decide +kernel
  have hc := Laws.controlStep_controlled r i.acts
  have hu : u = { r.controlStep i.acts with dev := s.dev } := by
    have ht := flTime_idle (s := r.controlStep i.acts) (by rw [hc.fl]; exact hr.1) (by rw [hc.fl]; exact hr.2.1)
    have hd : (r.controlStep i.acts).dev = s.dev := hc.dev.trans hr.2.2
    rw [show u = _ from congrArg State.endStage ht, endStage_idle (by rw [hd]; rfl), ← hd]
  refine ⟨⟨by decide +kernel, fun k => by simp [State.inst, s, awakeState, upState, State.reset], by decide,
    fun c n => by rw [awake_cell]; simp [Cell.slot, restCell], rfl⟩, rfl, rfl, by decide +kernel, by rw [hu]; rfl, by rw [hu]; rfl, ?_⟩
  rw [hu]
  exact floorSteps_ready _ rfl

/-- How bring-up ends. -/
def BootRes.isReady : BootRes → Bool
  | .ready _ => true
  | _ => false
def BootRes.fails : BootRes → Option (State × Nat × Nat × Nat)
  | .failed s a b c => some (s, a, b, c)
  | _ => none
theorem witness_PartialResets :
    let s := awakeState upState.dev
    (SMap.wf floorResetVal s.fregs = true ∧ (∀ k, s.inst k = none) ∧ s.mem.reqs = [] ∧ (∀ c n, (s.cell c).slot n = none) ∧ s.mem.posted = []) ∧
    (s.hs.link ≠ .down ∧ s.hv.begun = [] ∧ s.hv.remake = [] ∧ s.rx.job = none ∧ (∀ c, (s.cell c).cp.st = .awake)) ∧
    (Reaches .host s (FR.RST_CELL 0) ∧ Reaches .host s FR.RST_BAND ∧ Still s ∧ s.hv.delivered = []) ∧
    (restCell.cp.goal.reset = false ∧ (0 : CellId).val / 64 = 0 ∧ (1 : Word).getLsbD ((0 : CellId).val % 64) = true ∧ (1 : Half).getLsbD ((0 : CellId).val / 16) = true) ∧
    (s.dev.ready = true ∧ s.dev.mainOn = true ∧ s.dev.stbyPg = true ∧ s.dev.fw.otp.lc ≠ 4 ∧ s.dev.floorBring = none ∧ s.hs.held = [] ∧
      s.hostLines = [] ∧ (∀ e ∈ s.mem.lines, e.2.leaving = false)) :=
  ⟨⟨by decide +kernel, fun k => by simp [State.inst, awakeState, upState, State.reset], by decide,
      fun c n => by rw [awake_cell]; simp [Cell.slot, restCell], rfl⟩,
    ⟨by decide, by decide, by decide, by decide, fun c => by rw [awake_cell]; rfl⟩,
    ⟨reaches_host (by decide +kernel), reaches_host (by decide +kernel), awake_still _, by decide⟩, by decide, by decide +kernel⟩

/-- A device before main power is good, with image A selected; one that a reset input holds, and one whose CXL link
waits for CXL_PERST_N. -/
def bootDev : DevState :=
  { stbyPg := true, step := some 3, fw := { running := some false, selected := true } }
theorem witness_SuppliesAndBringUp_supplies :
    (let s := State.reset
     s.dev.stbyPg = false ∧ s.dev.fw.otp.lc ≠ 4 ∧ s.dev.fw.otp.floors.1 = 0) ∧
    (let s := upState
     s.dev.stbyPg = true ∧ s.dev.mainPg = true ∧ s.dev.fw.writing = none ∧ SMap.wf floorResetVal s.fregs = true) ∧
    (let s := State.reset
     s.dev.perstLow = false ∧ s.dev.readyOnce = false) ∧
    (let s := awakeState { upState.dev with step := some 8, ready := false }
     s.dev.step = some 8 ∧ s.dev.mainOn = true ∧ s.dev.fw.asTry = false ∧ bitB (s.freg FR.SYS_BOOT_ERR) 31 = false ∧
       SMap.wf floorResetVal s.fregs = true) ∧
    (let s := awakeState { upState.dev with perstLow := true, cxlWait := true }
     s.dev.perstLow = true ∧ s.dev.held = false ∧ s.dev.cxlWait = true) := by decide +kernel
theorem witness_SuppliesAndBringUp_bringup :
    (let s := awakeState bootDev
     s.dev.stbyPg = true ∧ s.dev.mainPg = false ∧ s.mayBoot = true ∧ s.dev.held = false ∧ s.dev.rstLow = false ∧
       s.dev.perstLow = false ∧ s.dev.mainGone = false) ∧
    (∀ b ∈ [(true, false), (false, true)],
      let s := awakeState { bootDev with mainPg := true, held := true, rstLow := b.1, perstLow := b.2 }
      s.dev.cxlWait = false ∧ s.dev.fw.otp.lc ≠ 4 ∧ s.dev.mainPg = true) ∧
    (let u := awakeState { bootDev with mainPg := true }
     BootRes.isReady (u.bootSteps []) = true ∧
     (BootRes.fails (u.bootSteps [{ rails := false }])).any (fun f =>
       f.2 == (4, 0, 3) && !bitB (f.1.freg FR.SYS_BOOT_ERR) 31 && SMap.wf floorResetVal f.1.fregs && !f.1.dev.fw.asTry) = true) := by
  decide +kernel

/-- An interval of a controller whose sensors read 25 °C, one with a sensor at 120 °C and one with a stack at 110 °C. -/
theorem witness_PowerControl_intervals :
    (let s := awakeState upState.dev
     let i : IntervalIn := { temps := List.replicate 64 400, hbmTemps := List.replicate 20 400 }
     let r : State := State.putTherm ((State.putTemps { s with timeUs := s.timeUs + 2 } FR.PWR_TEMP 64 i.temps).putTemps
       FR.PWR_HBM_TEMP 20 i.hbmTemps)
     s.dev.stbyPg = true ∧ s.dev.ready = true ∧ s.dev.mainOn = true ∧ s.dev.trip = false ∧ s.dev.floorBring = none ∧
       s.dev.fw.writing = none ∧ s.hv.poisonOwed = false ∧ SMap.wf floorResetVal s.fregs = true ∧ r.hottest r.sensors = some 0 ∧
       r.tripCause = none ∧ s.pw.level ≤ 2 ∧ s.fl.loop = [] ∧ (∀ e ∈ s.fl.ctx, e.2.waiting = false) ∧ (∀ a ∈ [FR.PWR_CAP_W, FR.PWR_HOST_CAP_W, FR.PWR_ENV_W], s.freg a < 2 ^ 32)) ∧
    (let i : IntervalIn := { temps := [400, 1920] }
     i.temps[1]? = some 1920 ∧ NSet.has (awakeState upState.dev).pw.excluded 1 = false) ∧
    (let i : IntervalIn := { hbmTemps := [1760] }
     i.hbmTemps[0]? = some 1760) := by decide +kernel

/-- A window of one estimate that agrees with its measurement and one that does not, in ESTIMATE_SUSPECT and not; and
eight windows without a measurement. -/
def windowState (suspect : Bool) (missed : Nat) : State :=
  { (awakeState upState.dev).setFreg FR.PWR_STATUS (4 * b2n suspect) with pw := { winN := 1, winSum := 1, missed } }
theorem witness_PowerControl_measurements :
    (∀ q ∈ [true, false], let s := windowState q 0
     let st := s.freg FR.PWR_STATUS
     SMap.wf floorResetVal s.fregs = true ∧ s.dev.stbyPg = true ∧ 0 < s.pw.winN ∧
       bitB st 2 = q ∧ s.pw.winSum / (s.pw.winN : Rat) = 1 ∧
       (0 : Rat) ≤ 12 / 100 * ((s.freg FR.PWR_LIMIT_W : Nat) : Rat) ∧
       ¬ ((60000 : Rat) - 1 ≤ 12 / 100 * ((s.freg FR.PWR_LIMIT_W : Nat) : Rat)) ∧
       s.pw.winSum / (s.pw.winN : Rat) - 106 / 100 * (s.pw.weights.getD 0 0 + s.pw.weights.getD 1 0 * (s.pw.winA1 / (s.pw.winN : Rat))) / 1000 ≠ 0) ∧
    (let s := windowState false 8
     8 ≤ s.pw.missed ∧ bitB (s.freg FR.PWR_STATUS) 4 = false) := by decide +kernel

/-! ### Clocks, cell power, fatal errors and the Almanac's ring -/

/-- A cell whose clock is stretched, and a resting one whose sensor has moved; every cell alike. -/
def eachCell (s : State) (x : Cell) : State := { s with cells := Vector.replicate 256 x }
theorem each_cell (s : State) (x : Cell) (c : CellId) : (eachCell s x).cell c = x := by simp [State.cell, eachCell]
theorem each_still {s : State} {x : Cell} (h : x.window = []) (hr : s.hv.remake = []) (hp : s.mem.posted = [] := by rfl) :
    Still (eachCell s x) := ⟨fun c => by rw [each_cell]; exact h, hr, hp⟩

theorem witness_ClocksDroopAndSelfRefresh_clocks :
    (∀ x : Bool, let s := eachCell { upState with pw := { upState.pw with ramp := some 1000 } } { cp := { stretched := x } }
     SMap.wf floorResetVal s.fregs = true ∧ s.pw.ramp = some 1000 ∧ s.dev.mainOn = true ∧ (s.cell 0).cp.stretched = x) ∧
    (let s := eachCell (upState.setFreg (FR.PWR_TEMP 0) 400) { cp := { st := .asleep } }
     SMap.wf floorResetVal s.fregs = true ∧ s.dev.mainOn = true ∧ (s.cell 0).cp.st = .asleep ∧
       320 ≤ (s.tempOf (2 * ((0 : CellId).val / 16) + (0 : CellId).val % 16 / 8) - (s.cell 0).cp.calTemp).natAbs) ∧
    Reaches .host upState FR.PWR_CTRL :=
  ⟨by decide +kernel, by decide +kernel, reaches_host (by decide +kernel)⟩

/-- Stack 0 is idle; it waits for its exit; and the idle time of PWR_WAKE_CFG is set. -/
theorem witness_ClocksDroopAndSelfRefresh_refresh :
    (let s := upState.setFreg FR.PWR_WAKE_CFG 0x10000
     Still s ∧ Reaches .host s FR.PWR_HBM_SR ∧ s.pw.srExit = [] ∧ s.dev.mainOn = true ∧ s.stackSr 0 = false ∧ s.stackIdle 0 = true ∧
       bits (s.freg FR.PWR_WAKE_CFG) 31 16 ≠ 0) ∧
    (let s := { upState with pw := { upState.pw with srExit := [0] } }
     (0 : Fin 20) ∈ s.pw.srExit ∧ s.dev.floorBring = none ∧ Still s ∧ SMap.wf floorResetVal s.fregs = true) :=
  ⟨⟨still_default rfl rfl, reaches_host (by decide +kernel), by decide +kernel⟩, ⟨by decide, rfl, still_default rfl rfl, by decide +kernel⟩⟩

/-- A quiet cell, one in DOZE, a halted one with and without retention, a sleeping one, and one that wakes. -/
theorem witness_CellPowerStates :
    Cell.dozeReady { onCell with window := [{ pc := 0, ins := { op := .semwait, f := {} }, waited := some CR.SX_STALL_SEM_CNT }] } = true ∧
    (let s := eachCell upState { onCell with cp := { st := .doze } }
     (s.cell 0).cp.st = .doze ∧ (s.cell 0).mode = .running ∧ (s.cell 0).yieldPoint = false ∧ (s.cell 0).window = []) ∧
    ({ onCell with window := [{ pc := 0, ins := { op := .yield, f := {} } }], cp := { st := .doze } } : Cell).yieldPoint = true ∧
    (∀ r ∈ [0, 4], let s := eachCell upState (restCell.setReg CR.CP_CTRL r)
     Still s ∧ Reaches .host s (0x30000000000 + CR.CP_CTRL) ∧ (s.cell 0).mode ≠ .running ∧ (s.cell 0).idle = true ∧
       (s.cell 0).cp.st = .awake ∧ SMap.wf cellResetVal (s.cell 0).regs = true ∧ bitB ((s.cell 0).reg CR.CP_CTRL) 2 = (r == 4)) ∧
    (let s := upState
     Still s ∧ Reaches .host s (FR.PWR_WAKE 0) ∧ s.pw.cellQ = [] ∧ (∀ d, (s.cell d).cp.st = .asleep ∧ (s.cell d).cp.admitWait = false) ∧
       SMap.wf floorResetVal s.fregs = true ∧ s.pllAt = none) ∧
    (let s := State.setCell { upState with pw := { upState.pw with pll := some 0 } } 1 onCell
     Still s ∧ Reaches .host s (FR.PWR_WAKE 0) ∧ s.pw.cellQ = [] ∧ (s.cell 0).cp.st = .asleep ∧ (s.cell 0).cp.admitWait = false ∧
       ((List.range 64).filter (fun n => (1#64).getLsbD n)).map (fun n => cellNo (64 * (0 : Fin 4).val + n)) = [0] ∧
       SMap.wf floorResetVal s.fregs = true ∧ s.pllAt = some 0) ∧
    (∀ b : Bool, let s := eachCell upState { cp := { st := .waking, goal := { start := b } } }
     (s.cell 0).cp.st = .waking ∧ (s.cell 0).cp.held = [] ∧ (s.cell 0).cp.goal.reset = false ∧ (s.cell 0).cp.goal.start = b ∧ Still s ∧
       SMap.wf cellResetVal (s.cell 0).regs = true ∧ s.fatal = false) := by
  refine ⟨by decide +kernel, by decide +kernel, by decide +kernel, ?_, ⟨still_default rfl rfl, reaches_host (by decide +kernel), rfl, fun d => ?_, by decide +kernel⟩,
    ⟨⟨fun c => ?_, rfl, rfl⟩, reaches_host (by decide +kernel), by decide +kernel⟩, ?_⟩
  · intro r hr
    fin_cases hr <;> exact ⟨each_still (by decide +kernel) rfl, reaches_host (by decide +kernel), by decide +kernel⟩
  · rw [cell_default rfl]; exact ⟨rfl, rfl⟩
  · by_cases h : c = 1
    · subst h; rfl
    · rw [show (State.setCell _ 1 onCell).cell c = _ from Vector.getElem_set_ne _ _ (fun e => h (Fin.ext e.symm))]
      · simp [upState, State.reset]
      · exact (1 : CellId).isLt
  · intro b
    cases b <;> exact ⟨by decide, by decide, by decide, by decide, each_still rfl rfl, by decide +kernel⟩

/-- A fatal error with no instance and with one; the severe store; and a record that waits for a ring at 0x10000. -/
theorem witness_FatalErrorsAndTheAlmanacRing :
    (let s := upRun
     s.dev.mainOn = true ∧ SMap.wf floorResetVal s.fregs = true ∧ (∀ k, s.inst k = none) ∧
       (∀ c e, (s.cell c).head = some e → e.granted = none ∨ e.ins.op.long = false) ∧ s.alm.severe.length < 64 ∧ s.hs.link = .cxl ∧
       Reaches .host upState FR.ALM_SEV_CLR ∧ Still upState) ∧
    (let i : Inst := { cid := 5, cseq := 0, n := 2 }
     let s := { upRun with ce := { slots := (Vector.replicate 32 none).set 0 (some i) } }
     s.dev.mainOn = true ∧ SMap.wf floorResetVal s.fregs = true ∧ (∀ j, j ≠ 0 → s.inst j = none) ∧ s.inst 0 = some i ∧ i.ended = none ∧
       0 < i.n ∧ i.harvest = false) ∧
    (let r : AlmRec := { seq := 0, time := 0, step := 0, code := 0x0801, index := 0, cls := 0, addr := 0, info0 := 0, info1 := 0 }
     let s := { (upState.setFreg FR.ALM_CTRL 1).setFreg FR.ALM_RING_BASE 0x10000 with alm := { buf := [(0, r)], seq := 1 } }
     let size := 2 ^ (bits (s.freg FR.ALM_CTRL) 7 4 + 10)
     let tail := s.freg FR.ALM_RING_TAIL % size
     let a := s.freg FR.ALM_RING_BASE + 64 * tail
     s.dev.mainOn = true ∧ bitB (s.freg FR.ALM_CTRL) 0 = true ∧
     (s.freg FR.ALM_RING_TAIL + 1) % size ≠ s.freg FR.ALM_RING_HEAD % size ∧ (0, r) ∈ s.alm.buf ∧ s.alm.copied ≤ r.seq ∧
     (∀ e ∈ s.alm.buf, s.alm.copied ≤ e.2.seq → r.seq ≤ e.2.seq) ∧ (∀ e ∈ s.alm.buf, e.2.seq = r.seq → e.2 = r) ∧ a % 64 = 0 ∧
     a + 64 ≤ hbmTop ∧ Memory.wf s.mem = true ∧ s.stackSr (s.stackOf a) = false ∧ s.absent (a / 256) = true ∧ s.mustPost a 64 = false ∧
     SMap.wf floorResetVal s.fregs = true) := by
  refine ⟨⟨by decide, by decide +kernel, fun k => by simp [State.inst, upRun, upState, State.reset, State.setCell],
    fun c e h => absurd h (by simp [Cell.head, show (upRun.cell c).window = [] from (still_other rfl rfl rfl : Still upRun).empty c]),
    by decide, by decide,
    reaches_host (by decide +kernel), still_default rfl rfl⟩, ⟨by decide, by decide +kernel, fun j h => ?_, by decide +kernel⟩, by decide +kernel⟩
  have h' : ¬ (0 = j.val) := fun e => h (Fin.ext e.symm)
  simp [State.inst, h']

/-! ### Registers, firmware, attestation and debug -/

/-- HI_EVT_EN is a register that software writes, RC_STATUS one whose bits a 1 clears; the host and the endpoint reach
PWR_HOST_CAP_W; 0x300100FFFF8 is a reserved offset. -/
theorem witness_RegistersAndManagementQueries_writes :
    (∀ pa ∈ [FR.HI_EVT_EN, FR.RC_STATUS],
      Reaches .host upState pa ∧ inRegs pa = true ∧ inCells pa = false ∧ (∃ r, floorReg pa = some r ∧ r.kind = .plain ∧ r.width = 32) ∧
        pa % 4 = 0 ∧ ¬ (0x30001100000 ≤ pa ∧ pa < 0x30001200000 ∧ pa % 0x1000 = 0) ∧
        ¬ (FR.HI_Q_SQ_BASE 0 ≤ pa ∧ pa < FR.HI_Q_SQ_BASE 64 ∧ (pa - FR.HI_Q_SQ_BASE 0) % 32 = 16) ∧ pa ≠ FR.HBM_ILV_CFG ∧
        pa ≠ FR.PWR_CTRL ∧ (∀ n, upState.ranged pa (upState.freg pa) n = n) ∧ ∀ (u : State) (m n : Nat), u.afterWrite pa m n = u) ∧
    (Reaches .host upState FR.PWR_HOST_CAP_W ∧ upState.freg FR.PWR_HOST_CAP_W < 2 ^ 12 ∧ SMap.wf floorResetVal upState.fregs = true) ∧
    (let pa := 0x300100FFFF8
     inCells pa = false ∧ inSecurity pa = false ∧ pa % 8 = 0 ∧ regWidth pa = 0 ∧ regWidth (pa + 4) = 0) ∧
    (upState.reachReg (.service 0) FR.SYS_LC = true ∧ inSystem FR.SYS_LC = true) ∧
    upState.hs.link = .cxl ∧ State.reset.hs.link ≠ .cxl := by
  refine ⟨fun pa h => ?_, ⟨reaches_host (by decide +kernel), by decide +kernel⟩, by decide +kernel, by decide +kernel, by decide, by decide⟩
  simp only [List.mem_cons, List.not_mem_nil, or_false] at h
  rcases h with rfl | rfl
  · exact ⟨reaches_host (by decide +kernel), by decide, by decide, ⟨_, rfl, rfl, rfl⟩, by decide, by decide, by decide, by decide, by decide,
      fun n => by simp [State.ranged, FR.HR_CLS_QUOTA, FR.HV_VER, FR.FL_P_CFG, FR.HI_EVT_EN], fun u m n => by simp [State.afterWrite, FR.FL_P_CFG, FR.PWR_WT, FR.HI_EVT_EN]⟩
  · exact ⟨reaches_host (by decide +kernel), by decide, by decide, ⟨_, rfl, rfl, rfl⟩, by decide, by decide, by decide, by decide, by decide,
      fun n => by simp [State.ranged, FR.HR_CLS_QUOTA, FR.HV_VER, FR.FL_P_CFG, FR.RC_STATUS], fun u m n => by simp [State.afterWrite, FR.FL_P_CFG, FR.PWR_WT, FR.RC_STATUS]⟩

theorem witness_RegistersAndManagementQueries_endpoint :
    upState.dev.stbyPg = true ∧ upState.dev.fw.otp.lc ≠ 4 ∧ upState.freg FR.PWR_CAP_W < 2 ^ 12 ∧ SMap.wf floorResetVal upState.fregs = true ∧
      (FR.PWR_CAP_W % 4 = 0 ∧ 0x30010000000 ≤ FR.PWR_CAP_W ∧ FR.PWR_CAP_W < 0x30020000000) := by decide +kernel

/-- A device in a lifecycle state, with firmware f otherwise. -/
def lcState (lc : Nat) (f : FwState) (j : JtagState := {}) : State :=
  { upState with dev := { upState.dev with fw := { f with otp := { f.otp with lc } }, jtag := j } }
/-- A platform record's header with a security version. -/
def svnHeader (v : Nat) : List Byte := List.replicate 8 0 ++ leBytes 4 v ++ List.replicate 8 0

/-- No staging and an open one. Whether its image verifies is the uninterpreted `Otp.verifies`: either answer meets one
clause. -/
theorem witness_FirmwareUpdates_staging :
    (let s := lcState 2 {}
     s.dev.stbyPg = true ∧ s.dev.fw.otp.lc ≠ 4 ∧ s.dev.fw.writing = none ∧ s.dev.fw.stage = none ∧ 4096 + 64 ≤ 4096 + maxBody 2) ∧
    (let g : Staging := { ty := 2, len := 4096 }
     let s := lcState 2 { stage := some g }
     s.dev.stbyPg = true ∧ s.dev.fw.otp.lc ≠ 4 ∧ s.dev.fw.writing = none ∧ s.dev.fw.stage = some g ∧ (List.replicate 64 (0 : Byte)).length ≤ 1024 ∧
       0 + (List.replicate 64 (0 : Byte)).length ≤ g.len ∧ g.len < 4096 + (List.replicate 64 (0 : Byte)).length ∧
       SMap.wf ffByte g.data = true ∧ SMap.wf ffByte s.dev.fw.flash = true ∧ s.dev.mainOn = true ∧ 0x1000 + 8 ≤ hbmTop ∧
       (∀ q ∈ linesOf 0x1000 8, s.hostBlocks q.1 false = [] ∧ s.rawAsleep (q.1 * 256) = none) ∧ (s.latestRange 0x1000 8).length ≤ g.len) ∧
    (let s := lcState 2 { writing := some (2, [1, 2, 3]) }
     s.dev.stbyPg = true ∧ s.dev.fw.otp.lc ≠ 4 ∧ s.dev.fw.writing = some (2, [1, 2, 3]) ∧ s.dev.mainOn = true ∧ s.fl.loop = [] ∧
       s.fl.ctx = [] ∧ s.dev.floorBring = none ∧ s.hv.poisonOwed = false ∧ SMap.wf ffByte s.dev.fw.flash = true) := by decide +kernel

/-- An image that runs as a try and one that does not; a version that the floor can take and one that it cannot; and
patch slots that may be selected and not. -/
theorem witness_FirmwareUpdates_images :
    (∀ b : Bool, let s := lcState 2 { running := some true, asTry := b }
     s.dev.stbyPg = true ∧ s.dev.fw.otp.lc ≠ 4 ∧ s.dev.fw.writing = none ∧ s.dev.fw.running = some true ∧ s.dev.fw.asTry = b) ∧
    (∀ v ∈ [3, 100], (lcState 2 { platform := some (svnHeader v) }).dev.fw.runningSvn 3 = some v) ∧
    (let w := (lcState 2 {}).dev.fw
     (false == (w.otp.patchBits % 2 == 1)) = true ∧ true ≠ (w.otp.patchBits % 2 == 1) ∧ w.otp.patchBits < 32) ∧
    (let w := (lcState 2 { otp := { patchBits := 32 } }).dev.fw
     32 ≤ w.otp.patchBits) ∧
    (lcState 2 {}).dev.fw.good 1 (0x20000 * b2n true) = false := by decide +kernel

/-- Tokens for this chip and for another, for a transition that starts here and one that does not, and nonces in time,
too late and of another value. Whether a signature verifies is the uninterpreted `Config.ecdsaOk`. -/
theorem witness_LifecycleTransitions :
    (let s := lcState 1 {}
     let k : TokenIn := { target := 2, chip := BitVec.ofNat 64 (s.freg FR.FL_CHIP_ID), signature := [] }
     s.dev.stbyPg = true ∧ s.dev.fw.otp.lc ≠ 4 ∧ k.chip.toNat = s.freg FR.FL_CHIP_ID ∧ (s.dev.fw.otp.lc = 1 ∧ k.target = 2) ∧
       (k.chip + 1).toNat ≠ s.freg FR.FL_CHIP_ID) ∧
    (let s := lcState 2 {}
     ¬ (s.dev.fw.otp.lc = 1 ∧ 0 = 2) ∧ ¬ (s.dev.fw.otp.lc = 2 ∧ 0 = 3) ∧ s.dev.fw.endNonce = none) ∧
    (let s := { lcState 2 { endNonce := some (5, 0) } with timeUs := 10000000 }
     s.dev.fw.endNonce = some ((5 : BitVec 128).toNat, 0) ∧ s.timeUs ≤ 0 + 10000000 ∧ s.hotSensor = false ∧ s.dev.held = false ∧ s.dev.rstLow = false ∧
       s.dev.perstLow = false ∧ bitB (s.freg FR.SYS_BOOT_ERR) 31 = false ∧ SMap.wf floorResetVal s.fregs = true) ∧
    (let s := { lcState 2 { endNonce := some (5, 0) } with timeUs := 10000001 }
     s.dev.fw.endNonce = some (5, 0) ∧ 5 ≠ (6 : BitVec 128).toNat ∧ 0 + 10000000 < s.timeUs) := by decide +kernel

/-- Both transports, with a chain that cannot be there, and one that flash may hold (whether it does is the
uninterpreted `Config.certChain`); a session in each state; a requester's share that is short and one that is too long; and
the MAC of a handshake and another. -/
theorem witness_AttestationAndSessions :
    (∀ lc ∈ [0, 2], let s := lcState lc {}
     s.dev.stbyPg = true ∧ s.dev.fw.otp.lc ≠ 4 ∧ s.dev.mainOn = true ∧ s.hs.link ≠ .down) ∧
    ((lcState 0 {}).chain = none ∧ (lcState 2 {}).chain = Config.certChain true ((lcState 2 {}).dev.fw.flashRead 0x60000 0x10000)) ∧
    (let s := lcState 2 {}
     s.measurements.filter (fun b => (none : Option Nat).all (fun k => b.index == k)) ≠ [] ∧
       s.measurements.filter (fun b => (some 99).all (fun k => b.index == k)) = []) ∧
    (∀ x : Session, let s := { lcState 2 {} with dev := { (lcState 2 {}).dev with spdmDoe := x, spdmI3c := x } }
     s.dev.stbyPg = true ∧ s.dev.fw.otp.lc ≠ 4 ∧ s.dev.mainOn = true ∧ s.hs.link ≠ .down ∧ s.dev.spdmDoe = x ∧ s.dev.spdmI3c = x) ∧
    (([] : List Byte).length ≤ 0x40000 ∧ 0x40000 < (List.replicate 0x40001 (0 : Byte)).length) ∧
    (∀ k, ∃ mac : List Byte, mac ≠ Config.finishMac k) := by
  refine ⟨by decide +kernel, ⟨by decide, rfl⟩, ⟨by simp [State.measurements], rfl⟩,
    fun x => ⟨rfl, show (2 : Nat) ≠ 4 by decide, rfl, show Link.cxl ≠ .down by decide, rfl, rfl⟩,
    ⟨by decide, by rw [List.length_replicate]; decide⟩, fun k => ⟨0 :: Config.finishMac k, by simp⟩⟩

/-- Debug in each lifecycle state, open and closed in RETURNED, with a challenge given and not; and accesses that are
performed and refused. -/
theorem witness_BoundaryScanAndDebug :
    (∀ lc ∈ [0, 1, 2, 3, 4], (lcState lc {}).dev.stbyPg = true ∧ (lcState lc {}).dev.fw.otp.lc = lc) ∧
    (let s := lcState 3 {} { nonce := some 5 }
     s.dev.jtag.nonce = some 5 ∧ bitB (s.freg FR.SYS_LC) 7 = false ∧ SMap.wf floorResetVal s.fregs = true ∧
       ¬ (s.dev.fw.otp.lc = 0 ∨ ((s.dev.fw.otp.lc = 1 ∨ s.dev.fw.otp.lc = 3) ∧ bitB (s.freg FR.SYS_LC) 7 = true)) ∧
       s.tokenFits { target := 0, chip := 0, signature := [] } true = false) ∧
    (let s := (lcState 3 {}).setFreg FR.SYS_LC 0x80
     bitB (s.freg FR.SYS_LC) 7 = true ∧ s.dev.jtag.nonce = none) ∧
    (let dr : BitVec 128 := BitVec.ofNat 128 FR.PWR_CAP_W
     let pa := dr.toNat % 2 ^ 52
     (dr.extractLsb' 61 3).toNat = 0 ∧ pa % 4 = 0 ∧ inRegs pa = true ∧ inSecurity pa = false ∧
       (vigilReg pa || (lcState 0 {}).dev.mainOn) = true) ∧
    (let dr : BitVec 128 := BitVec.ofNat 128 FR.PWR_CAP_W ||| (2#128 <<< 61)
     dr.toNat % 2 ^ 52 = FR.PWR_CAP_W ∧ (dr.extractLsb' 61 3).toNat = 2) ∧
    ((4#128 <<< 61).extractLsb' 61 3).toNat = 4 := by decide +kernel

end Sys2Proof.Tests
end

section
/-! What an instruction of the vector engine leaves when it completes: numeric events, results in OC, and the commit. -/

namespace Sys2Proof.Proofs

open Sys2Proof.Machine Sys2Proof.Laws

/-! ### Registers of a cell -/

/-- Cell y is cell x with some registers ks changed. -/
structure Regs (ks : List Nat) (x y : Cell) : Prop where
  cell : y = { x with regs := y.regs }
  reg : ∀ o, o ∉ ks → y.reg o = x.reg o
  canon : SMap.wf cellResetVal x.regs = true → SMap.wf cellResetVal y.regs = true

theorem Regs.refl (ks : List Nat) (x : Cell) : Regs ks x x := ⟨rfl, fun _ _ => rfl, id⟩

theorem Regs.trans {ks : List Nat} {x y z : Cell} (h : Regs ks x y) (g : Regs ks y z) : Regs ks x z := by
  refine ⟨?_, fun o ho => (g.reg o ho).trans (h.reg o ho), fun w => g.canon (h.canon w)⟩
  rw [g.cell]; simp only; rw [h.cell]

theorem Regs.mono {ks ls : List Nat} {x y : Cell} (h : Regs ks x y) (hl : ks ⊆ ls) : Regs ls x y :=
  ⟨h.cell, fun o ho => h.reg o (fun k => ho (hl k)), h.canon⟩

theorem Regs.setReg {ks : List Nat} {x y : Cell} (h : Regs ks x y) {o : Nat} (v : Nat) (ho : o ∈ ks) :
    Regs ks x (y.setReg o v) :=
  h.trans ⟨rfl, fun _ hp => reg_setReg_other y v (fun e => hp (e ▸ ho)), wf_setReg y o v⟩

theorem Regs.count {ks : List Nat} {x y : Cell} (h : Regs ks x y) {o : Nat} (n : Nat) (ho : o ∈ ks) :
    Regs ks x (y.count o n) := h.setReg _ ho

theorem Regs.orReg {ks : List Nat} {x y : Cell} (h : Regs ks x y) {o : Nat} (m : Nat) (ho : o ∈ ks) :
    Regs ks x (y.orReg o m) := h.setReg _ ho

theorem Regs.foldCount {ks : List Nat} {x y : Cell} (h : Regs ks x y) (l : List (Nat × Nat))
    (hl : ∀ k ∈ l, k.1 ∈ ks) : Regs ks x (l.foldl (fun x k => x.count k.1 k.2) y) := by
  induction l generalizing y with
  | nil => exact h
  | cons k l ih => exact ih (h.count k.2 (hl k List.mem_cons_self)) (fun j hj => hl j (List.mem_cons_of_mem _ hj))

theorem Regs.ite {ks : List Nat} {x y z : Cell} {p : Prop} [Decidable p] (h : Regs ks x y) (g : Regs ks x z) :
    Regs ks x (if p then y else z) := by
  split <;> assumption

/-! ### Records of the Almanac -/

/-- State t is state s with what an event may leave in the Almanac and at the host (R499). -/
def Logs (s t : State) : Prop := t = { s with fregs := t.fregs, alm := t.alm, hs := t.hs }

theorem Logs.refl (s : State) : Logs s s := rfl

theorem Logs.trans {s t u : State} (h : Logs s t) (g : Logs t u) : Logs s u := by
  unfold Logs at h g ⊢
  rw [g]; simp only; rw [h]

theorem Logs.ite {s t u : State} {p : Prop} [Decidable p] (h : Logs s t) (g : Logs s u) :
    Logs s (if p then t else u) := by
  split <;> assumption

theorem Logs.count {s t : State} (h : Logs s t) (a n : Nat) : Logs s (t.count a n) := h.trans rfl
theorem Logs.orFreg {s t : State} (h : Logs s t) (a m : Nat) : Logs s (t.orFreg a m) := h.trans rfl
theorem Logs.withAlm {s t : State} (h : Logs s t) (a : AlmState) : Logs s { t with alm := a } := h.trans rfl
theorem Logs.withHs {s t : State} (h : Logs s t) (a : HostState) : Logs s { t with hs := a } := h.trans rfl

theorem logs_sendMsi (s : State) (v : Nat) : Logs s (s.sendMsi v) := by
  unfold State.sendMsi
  exact .ite (.refl s) (.ite ((Logs.refl s).withHs _) ((Logs.refl s).withHs _))

theorem Logs.hostEvent {s t : State} (h : Logs s t) (b : Nat) : Logs s (t.hostEvent b) := by
  unfold State.hostEvent
  exact .ite ((h.orFreg _ _).trans (logs_sendMsi _ _)) (h.orFreg _ _)

theorem Logs.storeSevere {s t : State} (h : Logs s t) (r : AlmRec) : Logs s (t.storeSevere r) := by
  unfold State.storeSevere
  exact .ite (.ite (h.withAlm _) (h.count _ _)) h

theorem Logs.storeRec {s t : State} (h : Logs s t) (r : AlmRec) : Logs s (t.storeRec r) := by
  unfold State.storeRec
  exact .ite (((h.withAlm _).count _ _).orFreg _ _) (h.withAlm _)

/-- An event changes nothing but the Almanac, floor registers and the host's messages. -/
theorem logs_logEvent (s : State) (code index cls addr info0 info1 : Nat) :
    Logs s (s.logEvent code index cls addr info0 info1) := by
  unfold State.logEvent
  extract_lets seq r s1 a1 s2 e used a2 s3 s4 up h4 s5
  have h2 : Logs s s2 := ((Logs.refl s).count _ _).withAlm _
  have h3 : Logs s s3 := .ite (h2.withAlm _) h2
  have hs4 : Logs s s4 := (h3.storeRec r).storeSevere r
  have h5 : Logs s s5 := .ite (hs4.withHs _) hs4
  exact .ite (h2.count _ _) (.ite (h5.hostEvent 3) h5)

/-! ### Numeric events -/

/-- State t is state s but for registers ks of cell c, what events leave in the Almanac and at the host, and draws. -/
structure Notes (ks : List Nat) (c : CellId) (s t : State) : Prop where
  regs : Regs ks (s.cell c) (t.cell c)
  others : ∀ d, d ≠ c → t.cell d = s.cell d
  frame : t = { s with cells := t.cells, fregs := t.fregs, alm := t.alm, hs := t.hs, free := t.free }

theorem Notes.refl (ks : List Nat) (c : CellId) (s : State) : Notes ks c s s := ⟨.refl _ _, fun _ _ => rfl, rfl⟩

theorem Notes.trans {ks : List Nat} {c : CellId} {s t u : State} (h : Notes ks c s t) (g : Notes ks c t u) :
    Notes ks c s u := by
  refine ⟨h.regs.trans g.regs, fun d hd => (g.others d hd).trans (h.others d hd), ?_⟩
  rw [g.frame]; simp only; rw [h.frame]

theorem Notes.mono {ks ls : List Nat} {c : CellId} {s t : State} (h : Notes ks c s t) (hl : ks ⊆ ls) :
    Notes ls c s t := ⟨h.regs.mono hl, h.others, h.frame⟩

theorem Notes.foldl {ks : List Nat} {c : CellId} {α : Type} {f : State → α → State} {s t : State} (l : List α)
    (h : Notes ks c s t) (hf : ∀ t, ∀ a ∈ l, Notes ks c t (f t a)) : Notes ks c s (l.foldl f t) := by
  induction l generalizing t with
  | nil => exact h
  | cons a l ih =>
    exact ih (h.trans (hf t a List.mem_cons_self)) (fun t b hb => hf t b (List.mem_cons_of_mem _ hb))

theorem notes_of_counts {ks : List Nat} {c : CellId} {s t : State} (h : Counts ks c s t) : Notes ks c s t := by
  obtain ⟨hcell, hreg, hcanon, hothers, hframe⟩ := h
  exact ⟨⟨hcell, hreg, hcanon⟩, hothers, by rw [hframe]⟩

theorem notes_of_logs {ks : List Nat} {c : CellId} {s t : State} (h : Logs s t) : Notes ks c s t := by
  have hc (d : CellId) : t.cell d = s.cell d := by rw [h]; rfl
  exact ⟨hc c ▸ .refl _ _, fun d _ => hc d, by rw [h]⟩

theorem notes_modCell {ks : List Nat} {c : CellId} {s : State} {F : Cell → Cell}
    (h : Regs ks (s.cell c) (F (s.cell c))) : Notes ks c s (s.modCell c F) :=
  ⟨by rw [cell_modCell_self]; exact h, fun _ hd => cell_modCell_other s F hd, rfl⟩

/-- The locator of a unit takes the first NV (R69, R146). -/
theorem Regs.locate {x y : Cell} (h : Regs numericRegs.tail x y) (u : FaultUnit) (l : Option NvLoc) (pc : Nat) :
    Regs numericRegs.tail x (y.locate u l pc) := by
  unfold Cell.locate
  split
  · exact .ite h ((h.setReg _ (by decide)).setReg _ (by decide))
  · exact .ite h ((h.setReg _ (by decide)).setReg _ (by decide))
  · exact .ite h ((h.setReg _ (by decide)).setReg _ (by decide))
  · exact h

/-- Besides NUM_STATUS, an instruction's flags and counts change numeric registers alone (R67 to R76). -/
theorem regs_noteFlags (x : Cell) {u : FaultUnit} (e : NumEvent) (pc : Nat) (hu : u ≠ .sx) :
    Regs numericRegs.tail (x.orReg CR.NUM_STATUS e.counts.flags.toNat) (x.noteFlags u e pc) := by
  unfold Cell.noteFlags
  extract_lets f x1 x2 x3 x4 x5 x6 x7
  have h2 : Regs numericRegs.tail x1 x2 := by
    cases u with
    | mx | mv | vx => exact (Regs.refl _ x1).orReg _ (by decide)
    | sx => exact absurd rfl hu
    | sq | q | hv => exact .refl _ x1
  have h7 : Regs numericRegs.tail x1 x7 :=
    ((((h2.count _ (by decide)).count _ (by decide)).count _ (by decide)).count _ (by decide)).count _ (by decide)
  exact h7.locate u e.loc pc

/-- The Almanac's part of a flag (R76). -/
theorem notes_logFlag (s : State) (c : CellId) (u : FaultUnit) (l : Option NvLoc) (pc b : Nat) :
    Notes numericRegs.tail c s (s.logFlag c u l pc b) := by
  unfold State.logFlag
  extract_lets ctl k last s1 i0
  split
  · exact .refl _ c s
  · split
    · exact (notes_of_counts (counts_countC s c _ 1 (by decide))).trans (notes_of_logs ((Logs.refl _).count _ _))
    · exact (notes_of_logs ((Logs.refl s).withAlm _)).trans (notes_of_logs (logs_logEvent _ _ _ _ _ _ _))

theorem flags_lt (f : Flags) : f.toNat < 32 := by
  obtain ⟨nv, of, uf, dz, ms⟩ := f
  revert nv of uf dz ms
  decide

theorem reg_lt (x : Cell) (o : Nat) : x.reg o < 2 ^ 64 := (x.regs.get cellResetVal o).isLt

theorem reg_orReg_self (x : Cell) {o m : Nat} (hm : m < 2 ^ 64) (hw : SMap.wf cellResetVal x.regs = true) :
    (x.orReg o m).reg o = x.reg o ||| m :=
  (reg_setReg_self x o _ hw).trans (Nat.mod_eq_of_lt (Nat.or_lt_two_pow (reg_lt x o) hm))

/-- What the numeric events of an instruction change (R67 to R76): NUM_STATUS takes their flags. -/
theorem noteNum_spec (s : State) (c : CellId) {u : FaultUnit} (e : NumEvent) (pc : Nat) (hu : u ≠ .sx) :
    Notes numericRegs c s (s.noteNum c u e pc) ∧
    (SMap.wf cellResetVal (s.cell c).regs = true →
      ((s.noteNum c u e pc).cell c).reg CR.NUM_STATUS = (s.cell c).reg CR.NUM_STATUS ||| e.counts.flags.toNat) := by
  unfold State.noteNum
  extract_lets f s1
  split
  · rename_i hf
    exact ⟨.refl _ c s, fun _ => by rw [show e.counts.flags.toNat = 0 from hf, Nat.or_zero]⟩
  · have h1 : Regs numericRegs.tail ((s.cell c).orReg CR.NUM_STATUS f) (s1.cell c) := by
      rw [cell_modCell_self]; exact regs_noteFlags _ e pc hu
    have h2 : Notes numericRegs.tail c s1
        ((List.range 5).foldl (fun s b => if bitB f b then s.logFlag c u e.loc pc b else s) s1) := by
      refine .foldl _ (.refl _ c s1) (fun t b _ => ?_)
      split
      · exact notes_logFlag t c u e.loc pc b
      · exact .refl _ c t
    have tail : numericRegs.tail ⊆ numericRegs := List.tail_subset _
    refine ⟨Notes.trans ?_ (h2.mono tail), fun w => ?_⟩
    · exact notes_modCell (((Regs.refl _ _).orReg _ (by decide)).trans ((regs_noteFlags _ e pc hu).mono tail))
    · rw [h2.regs.reg _ (by decide), h1.reg _ (by decide)]
      exact reg_orReg_self _ (lt_trans (flags_lt _) (by decide)) w

/-- Where no flag is trapped, an instruction's events are noted and its results follow (R75). -/
theorem numeric_untrapped {s : State} {c : CellId} {ev : NumEvent} (e : InFlight) (u : FaultUnit) (k : State → Eval)
    (h : ev.counts.flags.toNat &&& (s.cell c).reg CR.NUM_TRAP_EN = 0) :
    numeric s c e u ev k = k (s.noteNum c u ev e.pc.toNat) := by
  unfold numeric Cell.trapped
  simp [h]

/-! ### Results in OC -/

/-- The writes ws made to OC one after another. -/
def ocPuts (ws : List (Nat × List Byte)) (x : Cell) : Cell := ws.foldl (fun x w => x.ocWrite w.1 w.2) x

/-- Writes to OC change OC and its poison alone. -/
theorem ocPuts_frame (ws : List (Nat × List Byte)) (x : Cell) :
    ocPuts ws x = { x with oc := (ocPuts ws x).oc, ocPoison := (ocPuts ws x).ocPoison } := by
  induction ws generalizing x with
  | nil => rfl
  | cons w ws ih => exact ih (x.ocWrite w.1 w.2)

/-- Writes to OC do not look at registers. -/
theorem ocPuts_withRegs (ws : List (Nat × List Byte)) (x : Cell) (R : SMap Word) :
    ocPuts ws { x with regs := R } = { ocPuts ws x with regs := R } := by
  induction ws generalizing x with
  | nil => rfl
  | cons w ws ih => exact ih (x.ocWrite w.1 w.2)

theorem ocPuts_regs (ws : List (Nat × List Byte)) (x : Cell) : (ocPuts ws x).regs = x.regs := by rw [ocPuts_frame]

theorem ocPuts_reg (ws : List (Nat × List Byte)) (x : Cell) (o : Nat) : (ocPuts ws x).reg o = x.reg o := by
  unfold Cell.reg; rw [ocPuts_regs]

theorem Regs.ocPuts {ks : List Nat} {x y : Cell} (h : Regs ks x y) (ws : List (Nat × List Byte)) :
    Regs ks (ocPuts ws x) (ocPuts ws y) := by
  obtain ⟨hcell, hreg, hcanon⟩ := h
  refine ⟨?_, fun o ho => ?_, fun w => ?_⟩
  · rw [ocPuts_regs]
    exact (congrArg _ hcell).trans (ocPuts_withRegs ws x y.regs)
  · rw [ocPuts_reg, ocPuts_reg]; exact hreg o ho
  · rw [ocPuts_regs] at w ⊢; exact hcanon w

theorem Notes.ocPuts {ks : List Nat} {c : CellId} {s t : State} (h : Notes ks c s t) (ws : List (Nat × List Byte)) :
    Notes ks c (s.modCell c (ocPuts ws)) (t.modCell c (ocPuts ws)) := by
  refine ⟨?_, fun d hd => ?_, ?_⟩
  · rw [cell_modCell_self, cell_modCell_self]; exact h.regs.ocPuts ws
  · rw [cell_modCell_other _ _ hd, cell_modCell_other _ _ hd]; exact h.others d hd
  · generalize hg : t.modCell c (Proofs.ocPuts ws) = g
    have e : g = { t with cells := g.cells } := by subst hg; rfl
    rw [e, h.frame]; rfl

theorem modCell_modCell (s : State) (c : CellId) (F G : Cell → Cell) :
    (s.modCell c F).modCell c G = s.modCell c (fun x => G (F x)) := by
  simp [State.modCell]

/-- Two writes share no byte. -/
def Apart (d e : Nat × List Byte) : Prop := d.1 + d.2.length ≤ e.1 ∨ e.1 + e.2.length ≤ d.1

/-- Where no byte is written twice, none becomes undefined. -/
theorem clashBytes_apart {ds : List (Nat × List Byte)} (h : ds.Pairwise Apart) (s : State) (c : CellId) :
    s.clashBytes c ds = s := by
  induction h with
  | nil => rfl
  | @cons d ds hd _ ih =>
    have still : ∀ l : List (Nat × List Byte), (∀ e ∈ l, Apart d e) → l.foldl (fun s e =>
        let lo := max d.1 e.1
        let hi := min (d.1 + d.2.length) (e.1 + e.2.length)
        if lo < hi then (s.modCell c (fun x => x.ocWrite lo (State.clashBytes.undefBytesOc s.free (hi - lo)))).draw
        else s) s = s := by
      intro l hl
      induction l with
      | nil => rfl
      | cons e l ihl =>
        have ha : ¬ max d.1 e.1 < min (d.1 + d.2.length) (e.1 + e.2.length) := by
          rcases hl e List.mem_cons_self with h | h <;> omega
        rw [List.foldl_cons]
        simp only [if_neg ha]
        exact ihl (fun k hk => hl k (List.mem_cons_of_mem _ hk))
    rw [State.clashBytes, still ds hd]
    exact ih

/-! ### Completion -/

/-- The registers that the completion of a vector instruction may change. -/
def doneRegs (d : VDone) : List Nat := (d.counts.map (·.1) ++ d.openCnt ++ [CR.OC_PORT_WAIT_CNT]) ++ numericRegs

/-- A vector instruction whose regions keep R122, whose flags are not trapped and whose writes share no byte: its results
are in OC and its flags in NUM_STATUS. -/
theorem finishVx_done {s : State} {c : CellId} {e : InFlight} {srcs : List OcRegion} {d : VDone}
    (hwide : e.ins.wide = false) (hover : badOverlap d.dests srcs = none)
    (htrap : d.ev.counts.flags.toNat &&& (s.cell c).reg CR.NUM_TRAP_EN = 0) (hapart : d.writes.Pairwise Apart)
    (hfacc : d.facc = none) (hst : CR.NUM_STATUS ∉ d.counts.map (·.1) ++ d.openCnt) :
    ∃ t, finishVx s c e srcs d = .done t ∧ Notes (doneRegs d) c (s.modCell c (ocPuts d.writes)) t ∧
      (SMap.wf cellResetVal (s.cell c).regs = true →
        (t.cell c).reg CR.NUM_STATUS = (s.cell c).reg CR.NUM_STATUS ||| d.ev.counts.flags.toNat) := by
  obtain ⟨hnote, hstatus⟩ := noteNum_spec s c (u := .vx) d.ev e.pc.toNat (by decide)
  unfold finishVx
  rw [hover, hwide, hfacc]
  simp only [Bool.false_eq_true, if_false, Option.none_or, numeric_untrapped e .vx _ htrap, clashBytes_apart hapart]
  refine ⟨_, rfl, ?_⟩
  generalize s.noteNum c .vx d.ev e.pc.toNat = s1 at hnote hstatus ⊢
  have hsplit : (s1.modCell c fun x => d.counts.foldl (fun x k => x.count k.1 k.2)
      (d.writes.foldl (fun x w => x.ocWrite w.1 w.2) x)) =
      (s1.modCell c (ocPuts d.writes)).modCell c (fun x => d.counts.foldl (fun x k => x.count k.1 k.2) x) :=
    (modCell_modCell s1 c (ocPuts d.writes) (fun x => d.counts.foldl (fun x k => x.count k.1 k.2) x)).symm
  rw [hsplit]
  have hcount : Notes (d.counts.map (·.1) ++ d.openCnt ++ [CR.OC_PORT_WAIT_CNT]) c (s1.modCell c (ocPuts d.writes))
      (d.openCnt.foldl (fun s o => (s.countC c o (Config.busyCycles s.free)).draw)
        (((s1.modCell c (ocPuts d.writes)).modCell c (fun x => d.counts.foldl (fun x k => x.count k.1 k.2) x)).stall c
          CR.OC_PORT_WAIT_CNT)) := by
    refine .foldl _ ?_ (fun t o ho => ?_)
    · refine (notes_modCell ((Regs.refl _ _).foldCount _ (fun k hk => ?_))).trans
        (notes_of_counts (counts_stall _ c _ (by simp)))
      simp only [List.mem_append, List.mem_map]
      exact .inl (.inl ⟨k, hk, rfl⟩)
    · exact notes_of_counts ((counts_countC t c o _ (by simp [ho])).trans (counts_draw _ c _))
  refine ⟨((hnote.ocPuts d.writes).mono (List.subset_append_right _ _)).trans (hcount.mono (List.subset_append_left _ _)),
    fun w => ?_⟩
  rw [hcount.regs.reg, cell_modCell_self, ocPuts_reg, hstatus w]
  rw [List.mem_append, not_or]
  exact ⟨hst, by decide⟩

/-! ### Commit -/

/-- Cell z as it is while cell c of s carries out instruction i, which has met its OC errors. -/
def atWork (s : State) (c : CellId) (i : Ins) (z : Cell) : Cell :=
  { z with window := [metEntry (s.cell c) i], npc := ((s.cell c).holding i).npc, stuck := none }

/-- Writes to OC do not look at what the cell carries out. -/
theorem ocPuts_atWork (s : State) (c : CellId) (i : Ins) (ws : List (Nat × List Byte)) (x : Cell) :
    ocPuts ws (atWork s c i x) = atWork s c i (ocPuts ws x) := by
  induction ws generalizing x with
  | nil => rfl
  | cons w ws ih => exact ih (x.ocWrite w.1 w.2)

/-- A cell with nothing in flight that meets OC errors. -/
theorem upsetCell_idle {s : State} {c : CellId} (h : (s.cell c).window = []) (u : Upset) :
    s.upsetCell c u = (s.cell c).ocErrors u := by
  unfold State.upsetCell State.ocUpset
  rw [cell_modCell_self, Cell.modHead]
  have hw : ((s.cell c).ocErrors u).window = [] := h
  rw [hw]

/-- OC errors change OC's own error counters. -/
theorem reg_ocErrors (x : Cell) (u : Upset) {o : Nat} (ho : o ∉ [CR.OC_ECC_CORR_CNT, CR.OC_ECC_UNCORR_CNT]) :
    (x.ocErrors u).reg o = x.reg o := by
  simp only [List.mem_cons, List.not_mem_nil, or_false, not_or] at ho
  exact (reg_count_other _ _ ho.2).trans (reg_count_other x _ ho.1)

theorem wf_ocErrors (x : Cell) (u : Upset) (h : SMap.wf cellResetVal x.regs = true) :
    SMap.wf cellResetVal (x.ocErrors u).regs = true := wf_count _ _ _ (wf_count x _ _ h)

/-- A tensor instruction whose evaluation leaves cell z but for its counters ks and the numeric registers, and its flags
in NUM_STATUS, commits so, and its completion post follows (R168, R189). -/
theorem issue_tensor {ks : List Nat} {fl : Nat} {c : CellId} {s s1 : State} {i : Ins} {z : Cell} (h : ReadyLong c s)
    (hop : Op.plain i.op) (hlong : i.op.long = true)
    (hev : evalOp c ((s.cell c).entry i) (s.carrying c i) = .done s1)
    (hnote : Notes (ks ++ numericRegs) c (s.setCell c (atWork s c i z)) s1)
    (hstatus : (s1.cell c).reg CR.NUM_STATUS = z.reg CR.NUM_STATUS ||| fl)
    (hctrl : z.reg CR.SQ_CTRL = (s.cell c).reg CR.SQ_CTRL) (hks : CR.SQ_CTRL ∉ ks)
    (hcanon : SMap.wf cellResetVal z.regs = true) :
    TensorDone ks fl c s z (nextPc (s.cell c).npc i.op) i.x (s.issue c i) := by
  obtain ⟨⟨hcell, hreg, hwf⟩, hothers, hframe⟩ := hnote
  rw [cell_setCell_self] at hcell hreg hwf
  have hz (o : Nat) : (atWork s c i z).reg o = z.reg o := rfl
  have hnum : CR.SQ_CTRL ∉ numericRegs := by decide
  obtain ⟨u, ⟨hu, hureg, -, huothers, huframe⟩, hi⟩ := issue_done (e := metEntry (s.cell c) i) (jump := none) h.toReady
    (fetched_long h i.op) hop.1 hev
    { window := by rw [hcell]; rfl, pc := rfl, op := rfl, x := rfl, next := rfl
      waited := fun o k => by rw [show (metEntry (s.cell c) i).waited = none from entry_waited h.toReady i] at k; cases k
      npc := by rw [hcell, cell_carrying]; rfl
      ctrl := by rw [hreg _ (by simp [hks, hnum]), hz, cell_carrying]; exact hctrl
      canon := hwf hcanon }
  have hcommit : commitOf (metEntry (s.cell c) i) none = commitCounters :=
    (if_pos (entry_next _ _ hop)).trans (countersOf_none (entry_waited h.toReady i))
  rw [hcommit] at hureg
  refine ⟨u, by simpa [hlong] using hi, ?_, fun o ho => ?_, ?_, fun d hd => ?_, ?_⟩
  · generalize (u.cell c).regs = R at hu ⊢
    rw [hu, hcell]; rfl
  · rw [List.mem_append, not_or] at ho
    exact (hureg o ho.2).trans (hreg o ho.1)
  · exact (hureg _ (by decide)).trans hstatus
  · exact (huothers d hd).trans ((hothers d hd).trans (cell_setCell_other _ _ hd))
  · rw [huframe]; simp only; rw [hframe]; rfl

/-- The same for one of the vector engine, as its completion is evaluated. -/
theorem issue_finishVx {c : CellId} {s : State} {i : Ins} {srcs : List OcRegion} {d : VDone} (h : ReadyLong c s)
    (hop : Op.plain i.op) (hlong : i.op.long = true)
    (hev : evalOp c ((s.cell c).entry i) (s.carrying c i) =
      finishVx (s.setCell c (atWork s c i (s.upsetCell c i.u))) c ((s.cell c).entry i) srcs d)
    (hwide : i.wide = false) (hover : badOverlap d.dests srcs = none)
    (htrap : d.ev.counts.flags.toNat &&& (s.upsetCell c i.u).reg CR.NUM_TRAP_EN = 0)
    (hapart : d.writes.Pairwise Apart) (hfacc : d.facc = none)
    (hst : CR.NUM_STATUS ∉ d.counts.map (·.1) ++ d.openCnt) (hctl : CR.SQ_CTRL ∉ d.counts.map (·.1) ++ d.openCnt) :
    TensorDone (d.counts.map (·.1) ++ d.openCnt ++ [CR.OC_PORT_WAIT_CNT]) d.ev.counts.flags.toNat c s
      (ocPuts d.writes (s.upsetCell c i.u)) (nextPc (s.cell c).npc i.op) i.x (s.issue c i) := by
  have hidle := upsetCell_idle h.idle i.u
  have hcanon : SMap.wf cellResetVal (s.upsetCell c i.u).regs = true := by rw [hidle]; exact wf_ocErrors _ _ h.canon
  obtain ⟨t, hdone, hnote, hstatus⟩ := finishVx_done (s := s.setCell c (atWork s c i (s.upsetCell c i.u))) (c := c)
    (e := (s.cell c).entry i) hwide hover (by rw [cell_setCell_self]; exact htrap) hapart hfacc hst
  rw [cell_setCell_self] at hstatus
  refine issue_tensor h hop hlong (hev.trans hdone) ?_ ?_ ?_ ?_ ?_
  · have : (s.setCell c (atWork s c i (s.upsetCell c i.u))).modCell c (ocPuts d.writes) =
        s.setCell c (atWork s c i (ocPuts d.writes (s.upsetCell c i.u))) := by
      rw [State.modCell, cell_setCell_self, setCell_setCell, ocPuts_atWork]
    rw [← this]; exact hnote
  · rw [hstatus hcanon, ocPuts_reg]; rfl
  · rw [ocPuts_reg, hidle]; exact reg_ocErrors _ _ (by decide)
  · rw [List.mem_append, not_or]; exact ⟨hctl, by decide⟩
  · rw [ocPuts_regs]; exact hcanon

end Sys2Proof.Proofs
end

section
/-! Softmax: the rows that VSMAX and VSMON read and write, their events, and the statement about VSMAX, VSMON and
VSMFIN. -/

namespace Sys2Proof.Proofs

open Sys2Proof.Machine Sys2Proof.Laws

/-! ### Events -/

theorem flags_or_assoc (f g h : Flags) : (f.or g).or h = f.or (g.or h) := by
  simp only [Flags.or, Bool.or_assoc]

theorem flags_or_comm (f g : Flags) : f.or g = g.or f := by
  simp only [Flags.or, Bool.or_comm]

theorem flags_none_or (f : Flags) : Flags.none.or f = f := rfl

theorem flags_add (n : FlagCounts) (f : Flags) : (n.add f).flags = n.flags.or f := by
  have h (k : Nat) (b : Bool) : (k + b2n b != 0) = (k != 0 || b) := by cases b <;> simp [b2n]
  simp only [FlagCounts.flags, FlagCounts.add, Flags.or, h]

/-- The flags of softmax rows are those that any row raises (R67). -/
theorem foldl_flags_smEvents {α : Type} (fl : α → Flags) (nv : α → Option Nat) (k0 r : Nat) (l : List α) (g : Flags) :
    l.foldl (fun g q => g.or (fl q)) g = g.or (smEvents k0 r (l.map (fun q => (fl q, nv q)))).counts.flags := by
  induction l generalizing g r with
  | nil =>
    obtain ⟨a, b, c, d, e⟩ := g
    simp [smEvents, FlagCounts.flags, Flags.or]
  | cons q l ih =>
    rw [List.foldl_cons, ih (r + 1)]
    simp only [List.map_cons, smEvents, flags_add]
    rw [flags_or_assoc, flags_or_comm (fl q)]

theorem flags_smEvents {α : Type} (fl : α → Flags) (nv : α → Option Nat) (k0 : Nat) (l : List α) :
    (smEvents k0 0 (l.map (fun q => (fl q, nv q)))).counts.flags = l.foldl (fun g q => g.or (fl q)) Flags.none :=
  ((foldl_flags_smEvents fl nv k0 0 l Flags.none).trans (flags_none_or _)).symm

/-! ### Rows in OC -/

@[simp] theorem length_leBytes (n v : Nat) : (leBytes n v).length = n := by
  induction n generalizing v with
  | zero => rfl
  | succ n ih => simp [leBytes, ih]

/-- Elements of one size are as long as their number makes them. -/
theorem length_flatMap_leBytes {α : Type} (n : Nat) (g : α → Nat) (l : List α) :
    (l.flatMap (fun a => leBytes n (g a))).length = l.length * n := by
  induction l with
  | nil => simp
  | cons a l ih => simp [ih, Nat.succ_mul, Nat.add_comm]

/-- The rows of a destination, each at its place (R204). -/
theorem rowWrites_eq (off stride es r : Nat) (rows : List (List Nat)) :
    rowWrites off stride es r rows =
      (rows.zipIdx r).map (fun p => (off + p.2 * stride, p.1.flatMap (leBytes es))) := by
  induction rows generalizing r with
  | nil => rfl
  | cons row rows ih => simp [rowWrites, ih]

/-- A write of one row, by its number. -/
theorem mem_rowWrites {off stride es r : Nat} {rows : List (List Nat)} {w : Nat × List Byte}
    (h : w ∈ rowWrites off stride es r rows) :
    ∃ k row, row ∈ rows ∧ k < rows.length ∧ w.1 = off + (r + k) * stride ∧ w.2.length = row.length * es := by
  induction rows generalizing r with
  | nil => cases h
  | cons row rows ih =>
    rcases List.mem_cons.mp h with rfl | h
    · exact ⟨0, row, List.mem_cons_self, Nat.succ_pos _, rfl, length_flatMap_leBytes es id row⟩
    · obtain ⟨k, row', hm, hk, hw, hl⟩ := ih h
      refine ⟨k + 1, row', List.mem_cons_of_mem _ hm, Nat.succ_lt_succ hk, ?_, hl⟩
      rw [hw]; congr 2; omega

/-- Rows no longer than the distance from one to the next share no byte. -/
theorem pairwise_rowWrites {off stride es : Nat} (r : Nat) {rows : List (List Nat)}
    (h : ∀ row ∈ rows, row.length * es ≤ stride) : (rowWrites off stride es r rows).Pairwise Apart := by
  induction rows generalizing r with
  | nil => exact .nil
  | cons row rows ih =>
    refine .cons (fun w hw => .inl ?_) (ih (r + 1) (fun q hq => h q (List.mem_cons_of_mem _ hq)))
    obtain ⟨k, -, -, -, hpos, -⟩ := mem_rowWrites hw
    have hrow := h row List.mem_cons_self
    have hlen : (row.flatMap (leBytes es)).length = row.length * es := length_flatMap_leBytes es id row
    have hstep : (r + 1) * stride ≤ (r + 1 + k) * stride := Nat.mul_le_mul_right _ (by omega)
    rw [Nat.succ_mul] at hstep
    show off + r * stride + (row.flatMap (leBytes es)).length ≤ w.1
    omega

/-- Write w lies in region r. -/
def Fits (w : Nat × List Byte) (r : OcRegion) : Prop := r.off ≤ w.1 ∧ w.1 + w.2.length ≤ r.off + r.bytes

/-- Writes in regions that do not meet share no byte. -/
theorem apart_of_fits {v w : Nat × List Byte} {a b : OcRegion} (hv : Fits v a) (hw : Fits w b)
    (h : a.meets b = false) : Apart v w := by
  simp only [OcRegion.meets, Bool.and_eq_false_iff, decide_eq_false_iff_not] at h
  obtain ⟨_, _⟩ := hv
  obtain ⟨_, _⟩ := hw
  unfold Apart
  omega

/-- A list of records of one size fits where there is room for as many. -/
theorem fits_records {α : Type} {r : OcRegion} {n rows : Nat} (g : α → Nat) {l : List α} (hl : l.length ≤ rows)
    (hr : r.bytes = n * rows) : Fits (r.off, l.flatMap (fun a => leBytes n (g a))) r := by
  refine ⟨le_rfl, ?_⟩
  rw [length_flatMap_leBytes, hr, Nat.mul_comm n]
  exact Nat.add_le_add_left (Nat.mul_le_mul_right _ hl) _

theorem rowStride_ge (n es : Nat) : n * es ≤ rowStride n es := by
  unfold rowStride ceilDiv
  omega

/-- The rows of a per-element destination fit in the bytes that it spans (R204). -/
theorem fits_rowWrites {r : OcRegion} {n es R : Nat} {rows : List (List Nat)} (hR : rows.length ≤ R)
    (hn : ∀ row ∈ rows, row.length ≤ n) (hr : r.bytes = rowsSpan R n es) :
    ∀ w ∈ rowWrites r.off (rowStride n es) es 0 rows, Fits w r := by
  intro w hw
  obtain ⟨k, row, hm, hk, hpos, hlen⟩ := mem_rowWrites hw
  have hrow : row.length * es ≤ n * es := Nat.mul_le_mul_right _ (hn row hm)
  have hlast : k * rowStride n es ≤ (R - 1) * rowStride n es := Nat.mul_le_mul_right _ (by omega)
  rw [Nat.zero_add] at hpos
  unfold rowsSpan at hr
  exact ⟨by omega, by omega⟩

/-- Rows and the records of them, each in a region of its own, share no byte. -/
theorem pairwise_rows_records {out : OcRegion} {n es R : Nat} {rows : List (List Nat)} {ws : List (Nat × List Byte)}
    (hR : rows.length ≤ R) (hn : ∀ row ∈ rows, row.length ≤ n) (hout : out.bytes = rowsSpan R n es)
    (hws : ws.Pairwise Apart) (hfit : ∀ w ∈ ws, ∃ r, Fits w r ∧ out.meets r = false) :
    (rowWrites out.off (rowStride n es) es 0 rows ++ ws).Pairwise Apart := by
  refine List.pairwise_append.mpr ⟨?_, hws, fun v hv w hw => ?_⟩
  · exact pairwise_rowWrites 0 (fun row h => (Nat.mul_le_mul_right _ (hn row h)).trans (rowStride_ge n es))
  · obtain ⟨r, hr, hm⟩ := hfit w hw
    exact apart_of_fits (fits_rowWrites hR hn hout v hv) hr hm

/-! ### Operands -/

theorem ocDest_ok {slot bytes elems es : Nat} {r : OcRegion} (h : ocDest slot bytes elems es = .ok r) :
    r = ⟨64 * slot, bytes, elems, es⟩ := by
  unfold ocDest at h
  split at h
  · cases h
  · cases h; rfl

/-- A computation that does not fault has no part that does. -/
theorem except_bind_ok {α β : Type} {a : Except FaultInfo α} {g : α → Except FaultInfo β} {b : β}
    (h : (a >>= g) = .ok b) : ∃ v, a = .ok v ∧ g v = .ok b := by
  cases a with
  | error e => cases h
  | ok v => exact ⟨v, rfl, h⟩

/-- A list of values, one per row, has as many as there are rows. -/
theorem length_rowsM {α β : Type} {f : Nat → α → Except FaultInfo β} {k : Nat} {l : List α} {r : List β}
    (h : rowsM f k l = .ok r) : r.length = l.length := by
  induction l generalizing k r with
  | nil => cases h; rfl
  | cons a l ih =>
    obtain ⟨b, -, h⟩ := except_bind_ok h
    obtain ⟨bs, hbs, h⟩ := except_bind_ok h
    cases h
    rw [List.length_cons, List.length_cons, ih hbs]

/-- A list of values none of which is missing. -/
theorem rowsM_of_map {α β : Type} {f : Nat → α → Except FaultInfo β} {g : α → Option β} {l : List α} {r : List β}
    (hf : ∀ k a b, g a = some b → f k a = .ok b) (h : l.map g = r.map some) (k : Nat) : rowsM f k l = .ok r := by
  induction l generalizing r k with
  | nil =>
    cases r with
    | nil => rfl
    | cons b r => cases h
  | cons a l ih =>
    cases r with
    | nil => cases h
    | cons b r =>
      rw [List.map_cons, List.map_cons, List.cons.injEq] at h
      unfold rowsM
      rw [hf k a b h.1, ih h.2]
      rfl

theorem length_smRecords {x : Cell} {slot rows : Nat} {recs : List SmState} (h : x.smRecords slot rows = .ok recs) :
    recs.length = rows := by
  unfold Cell.smRecords at h
  split at h
  · cases h
  · rw [length_rowsM h, List.length_range]

/-- A source as read has as many rows and elements as it is read for. -/
theorem vsource_shape {x : Cell} {kind slot : Nat} {acc : BitVec 3} {reg : BitVec 5} {f : Fmt} {rows n : Nat}
    {v : VSrc} (h : x.vsource kind slot acc reg f rows n = .ok v) :
    v.rows.length = rows ∧ ∀ row ∈ v.rows, row.length = n := by
  unfold Cell.vsource at h
  split at h
  · unfold Cell.ocSource at h
    dsimp only at h
    split at h
    · cases h
    · split at h
      · cases h
      · cases h; simp [Cell.ocElems]
  · unfold Cell.accSource at h
    split at h
    · cases h
    · cases h; simp
  · cases h; simp +contextual [List.mem_replicate]

/-- The operands of VSMAX and VSMON as read: rows of n elements, and a destination that spans as many. -/
theorem smOperands_shape {y : Cell} {f : SForm} {x : LForm} {m : Bool} {o : SmOps} (h : y.smOperands f x m = .ok o) :
    o.src.rows.length = bits x.ext.toNat 7 0 + 1 ∧
    (∀ row ∈ o.src.rows, row.length = bits f.imm32.toNat 27 12 + 1) ∧
    o.out.bytes = rowsSpan (bits x.ext.toNat 7 0 + 1) (bits f.imm32.toNat 27 12 + 1) o.k.fout.esize := by
  unfold Cell.smOperands at h
  dsimp only at h
  split at h
  · cases h
  · rename_i k _
    obtain ⟨src, hsrc, h⟩ := except_bind_ok h
    obtain ⟨act, -, h⟩ := except_bind_ok h
    obtain ⟨out, hout, h⟩ := except_bind_ok h
    cases h
    obtain ⟨hrows, helems⟩ := vsource_shape hsrc
    exact ⟨hrows, helems, by rw [ocDest_ok hout]⟩

/-- The operands do not depend on what the cell carries out. -/
theorem smOperands_atWork (s : State) (c : CellId) (i : Ins) (y : Cell) (f : SForm) (x : LForm) (m : Bool) :
    (atWork s c i y).smOperands f x m = y.smOperands f x m := rfl

theorem smRecords_atWork (s : State) (c : CellId) (i : Ins) (y : Cell) (slot rows : Nat) :
    (atWork s c i y).smRecords slot rows = y.smRecords slot rows := rfl

theorem rdS_atWork (s : State) (c : CellId) (i : Ins) (y : Cell) (n : BitVec 5) :
    (atWork s c i y).rdS n = y.rdS n := rfl

/-! ### Lengths of the results -/

theorem length_scaleRow_le (c : Nat) (f : Fmt) (xs : List Nat) (act : List Bool) :
    (scaleRow c f xs act).1.length ≤ xs.length := by
  induction xs generalizing act with
  | nil => simp [scaleRow]
  | cons x xs ih =>
    cases act with
    | nil => simp [scaleRow]
    | cons a act =>
      have hrest := ih act
      unfold scaleRow
      generalize scaleRow c f xs act = rest at hrest ⊢
      obtain ⟨ts, o⟩ := rest
      cases a <;> simpa using hrest

/-- A row of VSMAX has no more elements than its source. -/
theorem length_vsmaxRow_le (c : Nat) (fin fout : Fmt) (xs : List Nat) (act : List Bool) :
    (vsmaxRow c fin fout xs act).out.length ≤ xs.length := by
  have hts := length_scaleRow_le c fin xs act
  unfold vsmaxRow
  generalize scaleRow c fin xs act = row at hts ⊢
  obtain ⟨ts, o⟩ := row
  dsimp only at hts ⊢
  split
  · simpa using hts
  · split
    · simpa using hts
    · split
      · simpa using hts
      · split <;> simpa using hts

/-- A segment of VSMON has no more elements than its source. -/
theorem length_vsmonRow_le {c : Nat} {fin fout : Fmt} {xs : List Nat} {act : List Bool} {st : SmState} {r : SmonRow}
    (h : vsmonRow c fin fout xs act st = some r) : r.p.length ≤ xs.length := by
  have hts := length_scaleRow_le c fin xs act
  unfold vsmonRow at h
  generalize scaleRow c fin xs act = row at hts h
  obtain ⟨ts, o⟩ := row
  dsimp -zeta only at hts h
  extract_lets fl bad n m alpha e sum at h
  split at h
  · cases h; simpa using hts
  · split at h
    · split at h
      · cases h
      · cases h; simpa using hts
    · split at h <;> (cases h; simpa using hts)

/-! ### VSMAX, VSMON and VSMFIN -/

theorem bits_7_0 (x : Nat) : bits x 7 0 = x % 2 ^ 8 := rfl

theorem bits_27_12 (x : Nat) : bits x 27 12 = x / 2 ^ 12 % 2 ^ 16 := by
  unfold bits; rw [Nat.shiftRight_eq_div_pow]

theorem bits_9_8_of_lt {x : Nat} (h : x < 2 ^ 8) : bits x 9 8 = 0 := by
  unfold bits; rw [Nat.shiftRight_eq_div_pow, Nat.div_eq_of_lt h, Nat.zero_mod]

/-- The counters that a softmax instruction may count in (R143, R149). -/
def softmaxCounters : List Nat :=
  [CR.VX_BUSY_CNT, CR.FU_BUSY_CNT, CR.RU_BUSY_CNT, CR.VX_SMAX_ROW_CNT, CR.OC_PORT_WAIT_CNT]

theorem tensorDone_mono {ks ls : List Nat} {fl : Nat} {c : CellId} {s t : State} {x : Cell} {pc : Word} {f : LForm}
    (h : TensorDone ks fl c s x pc f t) (hl : ks ⊆ ls) : TensorDone ls fl c s x pc f t := by
  obtain ⟨u, ht, hcell, hreg, hrest⟩ := h
  refine ⟨u, ht, hcell, fun o ho => hreg o (fun hk => ho ?_), hrest⟩
  simp only [List.mem_append] at hk ⊢
  exact hk.imp_left (Or.imp_left (fun hk => hl hk))

theorem plain_of_softmax {o : Op} (h : o.softmax = true) : Op.plain o := by
  unfold Op.plain
  revert h
  cases o <;> simp [Op.softmax]

theorem long_of_softmax {o : Op} (h : o.softmax = true) : o.long = true := by
  revert h
  cases o <;> simp [Op.softmax, Op.long, Op.tensor, Op.queue]

theorem entry_ins (x : Cell) (i : Ins) : (x.entry i).ins = i := rfl

/-- A softmax instruction whose evaluation comes to the completion d leaves the writes of d in OC (R122, R137 to R142). -/
theorem issue_softmax {c : CellId} {s : State} {i : Ins} {srcs : List OcRegion} {d : VDone} {fl : Nat}
    (h : ReadyLong c s) (hi : i.op.softmax = true) (hwide : i.wide = false)
    (hev : evalOp c ((s.cell c).entry i) (s.carrying c i) =
      finishVx (s.setCell c (atWork s c i (s.upsetCell c i.u))) c ((s.cell c).entry i) srcs d)
    (hcounts : d.counts.map (·.1) ⊆ [CR.VX_SMAX_ROW_CNT]) (hopen : d.openCnt = smOpen) (hfacc : d.facc = none)
    (hover : badOverlap d.dests srcs = none) (hapart : d.writes.Pairwise Apart)
    (hfl : d.ev.counts.flags.toNat = fl) (htrap : fl &&& (s.upsetCell c i.u).reg CR.NUM_TRAP_EN = 0) :
    TensorDone softmaxCounters fl c s (ocPuts d.writes (s.upsetCell c i.u)) (nextPc (s.cell c).npc i.op) i.x
      (s.issue c i) := by
  have hsub : d.counts.map (·.1) ++ d.openCnt ⊆ [CR.VX_SMAX_ROW_CNT] ++ smOpen := by
    rw [hopen]; exact List.append_subset.mpr ⟨fun _ k => List.mem_append_left _ (hcounts k), List.subset_append_right _ _⟩
  subst hfl
  refine tensorDone_mono (issue_finishVx h (plain_of_softmax hi) (long_of_softmax hi) hev hwide hover htrap hapart hfacc
    (fun k => absurd (hsub k) (by decide)) (fun k => absurd (hsub k) (by decide))) ?_
  refine List.append_subset.mpr ⟨fun o k => ?_, by decide⟩
  exact (show [CR.VX_SMAX_ROW_CNT] ++ smOpen ⊆ softmaxCounters by decide) (hsub k)

/-- What VSMAX and VSMON leave: each row at its place, and then the records `recs` of all rows. -/
def rowsDone (rows n : Nat) (o : SmOps) (out : List (List Nat)) (recs : List (Nat × List Byte)) (dests : List OcRegion)
    (evs : List (Flags × Option Nat)) : VDone :=
  { writes := rowWrites o.out.off (rowStride n o.k.fout.esize) o.k.fout.esize 0 out ++ recs
    dests := o.out :: dests, ev := smEvents o.k.k0 0 evs, counts := [(CR.VX_SMAX_ROW_CNT, rows)], openCnt := smOpen }

section
variable {c : CellId} {s : State} {f : SForm} {x : LForm} {u : Upset}

/-- VSMAX with legal operands comes to its rows (R136 to R139). -/
theorem evalVsmax_rows {o : SmOps} {l : OcRegion} (h : ReadyLong c s) (hok : smOk f x = true)
    (hops : (s.upsetCell c u).smOperands f x true = .ok o)
    (hl : ocDest x.oc_c.toNat (4 * (x.ext.toNat % 2 ^ 8 + 1)) (x.ext.toNat % 2 ^ 8 + 1) 4 = .ok l) :
    let i : Ins := { op := .vsmax, f, x, u }
    let r := (o.src.rows.zip (o.act.map (·.1))).map (fun p =>
      vsmaxRow (((s.upsetCell c u).rdS f.rb).toNat % 2 ^ 32) o.k.fin o.k.fout p.1 p.2)
    evalOp c ((s.cell c).entry i) (s.carrying c i) =
      finishVx (s.setCell c (atWork s c i (s.upsetCell c u))) c ((s.cell c).entry i) (o.src.reg ++ o.act.flatMap (·.2))
        (rowsDone (x.ext.toNat % 2 ^ 8 + 1) (f.imm32.toNat / 2 ^ 12 % 2 ^ 16 + 1) o (r.map (·.out))
          [(l.off, r.flatMap (fun q => leBytes 4 q.lse))] [l] (r.map (fun q => (q.flags, q.nvAt)))) := by
  intro i r
  have hup : (s.carrying c i).ocUpset c u = s.setCell c (atWork s c i (s.upsetCell c u)) :=
    ocUpset_carrying h.toReady i (plain_of_softmax rfl)
  show evalVsmax c ((s.cell c).entry i) (s.carrying c i) = _
  unfold evalVsmax
  simp only [entry_ins, i, hok, Bool.not_true, Bool.false_eq_true, if_false, hup]
  simp only [cell_setCell_self, smOperands_atWork, rdS_atWork, hops, bits_7_0, bits_27_12, hl]
  rfl

/-- VSMON with legal operands, and no count of infinite logits too large, comes to its segments (R140, R141). -/
theorem evalVsmon_rows {o : SmOps} {st al : OcRegion} {recs : List SmState} {r : List SmonRow} (h : ReadyLong c s)
    (hok : smOk f x = true) (hops : (s.upsetCell c u).smOperands f x false = .ok o)
    (hst : ocDest x.oc_c.toNat (16 * (x.ext.toNat % 2 ^ 8 + 1)) (x.ext.toNat % 2 ^ 8 + 1) 16 = .ok st)
    (hal : ocDest (x.oc_c.toNat + 4 * ((x.ext.toNat % 2 ^ 8 + 1 + 15) / 16)) (4 * (x.ext.toNat % 2 ^ 8 + 1))
      (x.ext.toNat % 2 ^ 8 + 1) 4 = .ok al)
    (hrecs : (s.upsetCell c u).smRecords x.oc_c.toNat (x.ext.toNat % 2 ^ 8 + 1) = .ok recs)
    (hr : (o.src.rows.zip ((o.act.map (·.1)).zip recs)).map (fun p =>
      vsmonRow (((s.upsetCell c u).rdS f.rb).toNat % 2 ^ 32) o.k.fin o.k.fout p.1 p.2.1 p.2.2) = r.map some) :
    let i : Ins := { op := .vsmon, f, x, u }
    evalOp c ((s.cell c).entry i) (s.carrying c i) =
      finishVx (s.setCell c (atWork s c i (s.upsetCell c u))) c ((s.cell c).entry i)
        (o.src.reg ++ o.act.flatMap (·.2) ++ [st])
        (rowsDone (x.ext.toNat % 2 ^ 8 + 1) (f.imm32.toNat / 2 ^ 12 % 2 ^ 16 + 1) o (r.map (·.p))
          [(st.off, r.flatMap (fun q => leBytes 16 q.st.toNat)), (al.off, r.flatMap (fun q => leBytes 4 q.alpha))]
          [st, al] (r.map (fun q => (q.flags, q.nvAt)))) := by
  intro i
  have hup : (s.carrying c i).ocUpset c u = s.setCell c (atWork s c i (s.upsetCell c u)) :=
    ocUpset_carrying h.toReady i (plain_of_softmax rfl)
  show evalVsmon c ((s.cell c).entry i) (s.carrying c i) = _
  unfold evalVsmon
  simp only [entry_ins, i, hok, Bool.not_true, Bool.false_eq_true, if_false, hup]
  simp only [cell_setCell_self, smOperands_atWork, smRecords_atWork, rdS_atWork, hops, bits_7_0, bits_27_12, hst,
    show ceilDiv (x.ext.toNat % 2 ^ 8 + 1) 16 = (x.ext.toNat % 2 ^ 8 + 1 + 15) / 16 from rfl, hal, hrecs]
  -- the operands are read; what is left is the rows
  show orFault _ (rowsM _ _ _ >>= _) _ = _
  rw [rowsM_of_map ?rows hr]
  case rows => intro k p q hq; simp only [hq]
  rfl

/-- What VSMFIN leaves: the factor and the log-sum-exp of each record. -/
def finDone (q l : OcRegion) (recs : List SmState) : VDone :=
  { writes := [(q.off, recs.flatMap (fun w => leBytes 4 (vsmfinRow w).1)),
      (l.off, recs.flatMap (fun w => leBytes 4 (vsmfinRow w).2.1))]
    dests := [q, l], ev := smEvents 0 0 (recs.map (fun w => ((vsmfinRow w).2.2, none))), openCnt := smOpen }

/-- VSMFIN with legal operands comes to the rows of its records (R142). -/
theorem evalVsmfin_rows {recs : List SmState} {a q l : OcRegion} (h : ReadyLong c s)
    (hs : sOnly f { imm := true } = true) (hx : lOnly x { a := true, c := true, ext := true } = true)
    (himm : f.imm32.toNat < 2 ^ 12) (hext : x.ext.toNat < 2 ^ 8)
    (ha : ocDest x.oc_a.toNat (16 * (x.ext.toNat % 2 ^ 8 + 1)) (x.ext.toNat % 2 ^ 8 + 1) 16 = .ok a)
    (hrecs : (s.upsetCell c u).smRecords x.oc_a.toNat (x.ext.toNat % 2 ^ 8 + 1) = .ok recs)
    (hq : ocDest f.imm32.toNat (4 * (x.ext.toNat % 2 ^ 8 + 1)) (x.ext.toNat % 2 ^ 8 + 1) 4 = .ok q)
    (hl : ocDest x.oc_c.toNat (4 * (x.ext.toNat % 2 ^ 8 + 1)) (x.ext.toNat % 2 ^ 8 + 1) 4 = .ok l) :
    let i : Ins := { op := .vsmfin, f, x, u }
    evalOp c ((s.cell c).entry i) (s.carrying c i) =
      finishVx (s.setCell c (atWork s c i (s.upsetCell c u))) c ((s.cell c).entry i) [a] (finDone q l recs) := by
  intro i
  have hup : (s.carrying c i).ocUpset c u = s.setCell c (atWork s c i (s.upsetCell c u)) :=
    ocUpset_carrying h.toReady i (plain_of_softmax rfl)
  have himm' : ¬ 2 ^ 12 ≤ f.imm32.toNat := Nat.not_le.mpr himm
  show evalVsmfin c ((s.cell c).entry i) (s.carrying c i) = _
  unfold evalVsmfin
  simp only [entry_ins, i, hs, hx, himm', bits_9_8_of_lt hext, hup, Bool.not_true,
    Bool.or_self, decide_false, ne_eq, not_true_eq_false, Bool.false_eq_true, if_false]
  simp only [cell_setCell_self, smRecords_atWork, bits_7_0, ha, hrecs, hq, hl]
  simp only [finDone, List.map_map, List.flatMap_map]
  rfl

end

/-- The writes of VSMAX share no byte. -/
theorem pairwise_vsmax {y : Cell} {f : SForm} {x : LForm} {o : SmOps} {l : OcRegion} (sc : Nat)
    (hops : y.smOperands f x true = .ok o) (hl : l.bytes = 4 * (x.ext.toNat % 2 ^ 8 + 1))
    (hmeet : o.out.meets l = false) :
    let r := (o.src.rows.zip (o.act.map (·.1))).map (fun p => vsmaxRow sc o.k.fin o.k.fout p.1 p.2)
    (rowWrites o.out.off (rowStride (f.imm32.toNat / 2 ^ 12 % 2 ^ 16 + 1) o.k.fout.esize) o.k.fout.esize 0
      (r.map (·.out)) ++ [(l.off, r.flatMap (fun q => leBytes 4 q.lse))]).Pairwise Apart := by
  intro r
  obtain ⟨hrows, helems, hout⟩ := smOperands_shape hops
  rw [bits_7_0] at hrows hout
  rw [bits_27_12] at helems hout
  have hlen : r.length ≤ x.ext.toNat % 2 ^ 8 + 1 := by
    simp only [r, List.length_map, List.length_zip, hrows]; exact min_le_left _ _
  refine pairwise_rows_records (by simpa using hlen) (fun row hrow => ?_) hout (List.pairwise_singleton _ _)
    (fun w hw => ⟨l, ?_, hmeet⟩)
  · obtain ⟨q, hq, rfl⟩ := List.mem_map.mp hrow
    obtain ⟨p, hp, rfl⟩ := List.mem_map.mp hq
    exact (length_vsmaxRow_le _ _ _ _ _).trans (helems _ (List.of_mem_zip hp).1).le
  · rw [List.mem_singleton.mp hw]
    exact fits_records SmRow.lse hlen hl

/-- The writes of VSMON share no byte. -/
theorem pairwise_vsmon {y : Cell} {f : SForm} {x : LForm} {o : SmOps} {st al : OcRegion} {recs : List SmState}
    {r : List SmonRow} {sc : Nat} (hops : y.smOperands f x false = .ok o)
    (hr : (o.src.rows.zip ((o.act.map (·.1)).zip recs)).map (fun p =>
      vsmonRow sc o.k.fin o.k.fout p.1 p.2.1 p.2.2) = r.map some)
    (hst : st.bytes = 16 * (x.ext.toNat % 2 ^ 8 + 1)) (hal : al.bytes = 4 * (x.ext.toNat % 2 ^ 8 + 1))
    (hmst : o.out.meets st = false) (hmal : o.out.meets al = false) (hmeet : st.meets al = false) :
    (rowWrites o.out.off (rowStride (f.imm32.toNat / 2 ^ 12 % 2 ^ 16 + 1) o.k.fout.esize) o.k.fout.esize 0
      (r.map (·.p)) ++ [(st.off, r.flatMap (fun q => leBytes 16 q.st.toNat)),
        (al.off, r.flatMap (fun q => leBytes 4 q.alpha))]).Pairwise Apart := by
  obtain ⟨hrows, helems, hout⟩ := smOperands_shape hops
  rw [bits_7_0] at hrows hout
  rw [bits_27_12] at helems hout
  have hlen : r.length ≤ x.ext.toNat % 2 ^ 8 + 1 := by
    rw [← List.length_map (f := some), ← hr, List.length_map, List.length_zip, hrows]; exact min_le_left _ _
  have fst : Fits (st.off, r.flatMap (fun q => leBytes 16 q.st.toNat)) st := fits_records (fun q => q.st.toNat) hlen hst
  have fal : Fits (al.off, r.flatMap (fun q => leBytes 4 q.alpha)) al := fits_records SmonRow.alpha hlen hal
  refine pairwise_rows_records (by simpa using hlen) (fun row hrow => ?_) hout ?_ (fun w hw => ?_)
  · obtain ⟨q, hq, rfl⟩ := List.mem_map.mp hrow
    have hq' : some q ∈ r.map some := List.mem_map_of_mem hq
    rw [← hr] at hq'
    obtain ⟨p, hp, hpq⟩ := List.mem_map.mp hq'
    exact (length_vsmonRow_le hpq).trans (helems _ (List.of_mem_zip hp).1).le
  · exact List.pairwise_pair.mpr (apart_of_fits fst fal hmeet)
  · rcases List.mem_pair.mp hw with rfl | rfl
    · exact ⟨st, fst, hmst⟩
    · exact ⟨al, fal, hmal⟩

/-- The writes of VSMFIN share no byte. -/
theorem pairwise_vsmfin {q l : OcRegion} {recs : List SmState} {rows : Nat} (hrecs : recs.length = rows)
    (hq : q.bytes = 4 * rows) (hl : l.bytes = 4 * rows) (hmeet : q.meets l = false) :
    (finDone q l recs).writes.Pairwise Apart :=
  List.pairwise_pair.mpr (apart_of_fits (fits_records (fun w => (vsmfinRow w).1) hrecs.le hq)
    (fits_records (fun w => (vsmfinRow w).2.1) hrecs.le hl) hmeet)

/-- Settles O25: the three instructions are evaluated at once (`evalVsmax_rows`, `evalVsmon_rows`, `evalVsmfin_rows`), and
since their destinations do not meet, no byte that they write becomes undefined. -/
theorem rowSoftmax : Obligations.RowSoftmax := by
  unfold Obligations.RowSoftmax
  intro c s f x u h y rows n sc pc busy puts elems
  refine ⟨?vsmax, ?vsmon, ?vsmfin⟩
  case vsmax =>
    intro o l r fl hok hops hl hover hmeet htrap
    refine ⟨_, _, rfl, issue_softmax h rfl rfl (evalVsmax_rows h hok hops hl) (List.Subset.refl _) rfl rfl hover ?_ ?_ htrap,
      ocPuts_frame _ _, ?_⟩
    · exact pairwise_vsmax sc hops (by rw [ocDest_ok hl]) hmeet
    · exact congrArg Flags.toNat (flags_smEvents SmRow.flags SmRow.nvAt o.k.k0 r)
    · unfold rowsDone; rw [rowWrites_eq]; rfl
  case vsmon =>
    intro o st al recs r fl hok hops hst hal hrecs hr hover hmst hmal hmeet htrap
    refine ⟨_, _, rfl, issue_softmax h rfl rfl (evalVsmon_rows h hok hops hst hal hrecs hr) (List.Subset.refl _) rfl rfl
      hover ?_ ?_ htrap, ocPuts_frame _ _, ?_⟩
    · exact pairwise_vsmon hops hr (by rw [ocDest_ok hst]) (by rw [ocDest_ok hal]) hmst hmal hmeet
    · exact congrArg Flags.toNat (flags_smEvents SmonRow.flags SmonRow.nvAt o.k.k0 r)
    · unfold rowsDone; rw [rowWrites_eq]; rfl
  case vsmfin =>
    intro recs a q l row fl hs hx himm hext ha hrecs hq hl hover hmeet htrap
    refine ⟨_, _, rfl, issue_softmax h rfl rfl (evalVsmfin_rows h hs hx himm hext ha hrecs hq hl) (List.nil_subset _) rfl rfl
      hover ?_ ?_ htrap, ocPuts_frame _ _, rfl⟩
    · exact pairwise_vsmfin (length_smRecords hrecs) (by rw [ocDest_ok hq]) (by rw [ocDest_ok hl]) hmeet
    · have hrow : row = vsmfinRow := rfl
      show _ = ((recs.map row).foldl (fun g w => g.or w.2.2) Flags.none).toNat
      rw [hrow, List.foldl_map]
      exact congrArg Flags.toNat (flags_smEvents (fun w => (vsmfinRow w).2.2) (fun _ => none) 0 recs)

end Sys2Proof.Proofs
end

section
/-! What an event leaves of the floor registers and in the Almanac, whichever unit of a cell raised it. -/

namespace Sys2Proof.Proofs

open Sys2Proof.Machine Sys2Proof.Laws

/-! ### Floor registers -/

/-- From s to t no free value is drawn, and the floor registers stay in their canonical form. -/
structure KeepsFloor (s t : State) : Prop where
  free : t.free = s.free
  canon : FGood s.fregs → FGood t.fregs

theorem KeepsFloor.refl (s : State) : KeepsFloor s s := ⟨rfl, id⟩

theorem KeepsFloor.trans {s t u : State} (h : KeepsFloor s t) (g : KeepsFloor t u) : KeepsFloor s u :=
  ⟨g.free.trans h.free, g.canon ∘ h.canon⟩

theorem KeepsFloor.ite {s t u : State} {p : Prop} [Decidable p] (h : KeepsFloor s t) (g : KeepsFloor s u) :
    KeepsFloor s (if p then t else u) := by
  split <;> assumption

theorem KeepsFloor.foldl {α : Type} {g : State → α → State} (l : List α) {s t : State} (h : KeepsFloor s t)
    (hg : ∀ t a, KeepsFloor t (g t a)) : KeepsFloor s (l.foldl g t) := by
  induction l generalizing t with
  | nil => exact h
  | cons a l ih => exact ih (h.trans (hg t a))

theorem keepsFloor_setFreg (s : State) (a v : Nat) : KeepsFloor s (s.setFreg a v) :=
  ⟨rfl, smap_wf_set _ _ _ _⟩

theorem keepsFloor_count (s : State) (a n : Nat) : KeepsFloor s (s.count a n) := keepsFloor_setFreg s _ _

theorem keepsFloor_orFreg (s : State) (a m : Nat) : KeepsFloor s (s.orFreg a m) := keepsFloor_setFreg s _ _

/-- What touches neither floor registers nor draws. -/
theorem keepsFloor_of_eq {s t : State} (hfree : t.free = s.free) (hfregs : t.fregs = s.fregs) : KeepsFloor s t :=
  ⟨hfree, hfregs ▸ id⟩

theorem sendMsi_fregs (s : State) (v : Nat) : (s.sendMsi v).fregs = s.fregs := by
  unfold State.sendMsi
  simp only [apply_ite State.fregs, ite_self]

theorem keepsFloor_sendMsi (s : State) (v : Nat) : KeepsFloor s (s.sendMsi v) :=
  keepsFloor_of_eq (by rw [logs_sendMsi s v]) (sendMsi_fregs s v)

theorem keepsFloor_hostEvent (s : State) (b : Nat) : KeepsFloor s (s.hostEvent b) := by
  have h := keepsFloor_orFreg s FR.HI_EVT (2 ^ b)
  unfold State.hostEvent
  exact .ite (h.trans (keepsFloor_sendMsi _ _)) h

theorem keepsFloor_storeSevere (s : State) (r : AlmRec) : KeepsFloor s (s.storeSevere r) := by
  unfold State.storeSevere
  exact .ite (.ite (keepsFloor_of_eq rfl rfl) (keepsFloor_count _ _ _)) (.refl s)

theorem keepsFloor_storeRec (s : State) (r : AlmRec) : KeepsFloor s (s.storeRec r) := by
  unfold State.storeRec
  extract_lets k lost a s1
  have h1 : KeepsFloor s s1 := keepsFloor_of_eq rfl rfl
  exact .ite ((h1.trans (keepsFloor_count _ _ _)).trans (keepsFloor_orFreg _ _ _)) h1

theorem keepsFloor_logEvent (s : State) (code index cls addr info0 info1 : Nat) :
    KeepsFloor s (s.logEvent code index cls addr info0 info1) := by
  unfold State.logEvent
  extract_lets seq r s1 a1 s2 e used a2 s3 s4 up host s5
  have h2 : KeepsFloor s s2 := (keepsFloor_count s _ 1).trans (keepsFloor_of_eq rfl rfl)
  have h3 : KeepsFloor s s3 := .ite (h2.trans (keepsFloor_of_eq rfl rfl)) h2
  have hs4 : KeepsFloor s s4 := (h3.trans (keepsFloor_storeRec _ r)).trans (keepsFloor_storeSevere _ r)
  have h5 : KeepsFloor s s5 := .ite (hs4.trans (keepsFloor_of_eq rfl rfl)) hs4
  exact .ite (h2.trans (keepsFloor_count _ _ _)) (.ite (h5.trans (keepsFloor_hostEvent _ 3)) h5)

theorem keepsFloor_logFlag (s : State) (c : CellId) (u : FaultUnit) (l : Option NvLoc) (pc b : Nat) :
    KeepsFloor s (s.logFlag c u l pc b) := by
  unfold State.logFlag
  extract_lets ctl k last a s1 i0
  have hcount : KeepsFloor s (s.countC c CR.NUM_LOG_DROP_CNT) := keepsFloor_of_eq rfl rfl
  have halm : KeepsFloor s s1 := keepsFloor_of_eq rfl rfl
  exact .ite (.refl s) (.ite (hcount.trans (keepsFloor_count _ _ _)) (halm.trans (keepsFloor_logEvent _ _ _ _ _ _ _)))

theorem keepsFloor_noteNum (s : State) (c : CellId) (u : FaultUnit) (e : NumEvent) (pc : Nat) :
    KeepsFloor s (s.noteNum c u e pc) := by
  unfold State.noteNum
  extract_lets f s1
  have h1 : KeepsFloor s s1 := keepsFloor_of_eq rfl rfl
  exact .ite (.refl s) (.foldl _ h1 fun t b => .ite (keepsFloor_logFlag t c u e.loc pc b) (.refl t))

/-- A canonical floor register takes the bits set in it. -/
theorem freg_orFreg_self {s : State} (a : Nat) {m : Nat} (hm : m < 2 ^ 64) (hw : FGood s.fregs) :
    (s.orFreg a m).freg a = s.freg a ||| m :=
  (freg_setFreg_self s a _ hw).trans (Nat.mod_eq_of_lt (Nat.or_lt_two_pow (BitVec.isLt _) hm))

theorem bitB_eq_testBit (x i : Nat) : bitB x i = x.testBit i := by
  rw [bitB, Nat.testBit_eq_decide_div_mod_eq, Nat.shiftRight_eq_div_pow]; rfl

/-- A bit that is set in a canonical floor register reads as 1. -/
theorem bitB_orFreg_self {s : State} (a : Nat) {k : Nat} (hk : k < 64) (hw : FGood s.fregs) :
    bitB ((s.orFreg a (2 ^ k)).freg a) k = true := by
  rw [freg_orFreg_self a (Nat.pow_lt_pow_right (by decide) hk) hw, bitB_eq_testBit, Nat.testBit_or,
    Nat.testBit_two_pow_self, Bool.or_true]

/-- A host event changes HI_EVT alone among the floor registers (R426). -/
theorem freg_hostEvent (s : State) (b a : Nat) : (s.hostEvent b).freg a = (s.orFreg FR.HI_EVT (2 ^ b)).freg a := by
  unfold State.hostEvent State.freg
  simp only [apply_ite State.fregs, sendMsi_fregs, ite_self]

/-! ### Records of the Almanac -/

@[simp] theorem sendMsi_alm (s : State) (v : Nat) : (s.sendMsi v).alm = s.alm := by
  unfold State.sendMsi
  simp only [apply_ite State.alm, ite_self]

@[simp] theorem hostEvent_alm (s : State) (b : Nat) : (s.hostEvent b).alm = s.alm := by
  unfold State.hostEvent
  simp only [apply_ite State.alm, sendMsi_alm, orFreg_alm, ite_self]

theorem storeSevere_seq (s : State) (r : AlmRec) : (s.storeSevere r).alm.seq = s.alm.seq := by
  unfold State.storeSevere
  split
  · split <;> rfl
  · rfl

theorem storeSevere_buf (s : State) (r : AlmRec) : (s.storeSevere r).alm.buf = s.alm.buf := by
  unfold State.storeSevere
  split
  · split <;> rfl
  · rfl

theorem storeRec_alm (s : State) (r : AlmRec) :
    (s.storeRec r).alm = { s.alm with buf := s.alm.buf.insert (r.seq % 1024) r } := by
  unfold State.storeRec
  simp only [apply_ite State.alm, orFreg_alm, count_alm, ite_self]

theorem mem_insert_self {α : Type} (m : SMap α) (k : Nat) (v : α) : (k, v) ∈ m.insert k v := by
  induction m with
  | nil => exact List.mem_singleton.mpr rfl
  | cons e m ih =>
    obtain ⟨a, w⟩ := e
    simp only [SMap.insert]
    split
    · exact List.mem_cons_self
    · split
      · exact List.mem_cons_self
      · exact List.mem_cons_of_mem _ ih

/-- Every event takes the next sequence number, a limited one too (R499). -/
theorem logEvent_seq (s : State) (code index cls addr info0 info1 : Nat) :
    (s.logEvent code index cls addr info0 info1).alm.seq = s.alm.seq + 1 := by
  unfold State.logEvent
  extract_lets seq r s1 a1 s2 e used a2 s3 s4 up host s5
  have h3 : s3.alm.seq = s.alm.seq + 1 := by unfold s3; split <;> rfl
  have h4 : s4.alm.seq = s.alm.seq + 1 := by unfold s4; rw [storeSevere_seq, storeRec_alm, ← h3]
  have h5 : s5.alm.seq = s.alm.seq + 1 := by rw [← h4]; unfold s5; split <;> rfl
  split
  · rfl
  · split
    · rw [hostEvent_alm, h5]
    · exact h5

/-- An event of class 2 or above is not limited: its record is in the buffer (R499). -/
theorem logEvent_record (s : State) (code index addr info0 info1 : Nat) {cls : Nat} (h : 2 ≤ cls) :
    ∃ r : AlmRec, (s.alm.seq % 1024, r) ∈ (s.logEvent code index cls addr info0 info1).alm.buf ∧
      r.seq = s.alm.seq ∧ r.code = code ∧ r.index = index % 65536 ∧ r.info0 = info0 ∧ r.info1 = info1 := by
  have hcls : ¬ cls ≤ 1 := by omega
  unfold State.logEvent
  extract_lets seq r s1 a1 s2 e used a2 s3 s4 up host s5
  have hmem : (s.alm.seq % 1024, r) ∈ s5.alm.buf := by
    have h5 : s5.alm = s4.alm := by unfold s5; split <;> rfl
    rw [h5, storeSevere_buf, storeRec_alm]
    exact mem_insert_self _ _ r
  refine ⟨r, ?_, rfl, rfl, rfl, rfl, rfl⟩
  rw [decide_eq_false hcls, Bool.false_and, if_neg Bool.false_ne_true]
  split
  · rwa [hostEvent_alm]
  · exact hmem

/-! ### Numeric events of any unit -/

/-- A unit's flags and counts change numeric registers alone, and the stream engine's SX_STATUS too (R67, R315). -/
theorem regs_noteFlags_any (x : Cell) (u : FaultUnit) (e : NumEvent) (pc : Nat) :
    Regs (CR.SX_STATUS :: numericRegs) x (x.noteFlags u e pc) := by
  have horReg : Regs (CR.SX_STATUS :: numericRegs) x (x.orReg CR.NUM_STATUS e.counts.flags.toNat) :=
    (Regs.refl _ x).orReg _ (by decide)
  by_cases hu : u = .sx
  · subst hu
    exact (((((horReg.orReg _ (by decide)).count _ (by decide)).count _ (by decide)).count _ (by decide)).count _
      (by decide)).count _ (by decide)
  · exact horReg.trans ((regs_noteFlags x e pc hu).mono (by decide))

theorem notes_noteNum (s : State) (c : CellId) (u : FaultUnit) (e : NumEvent) (pc : Nat) :
    Notes (CR.SX_STATUS :: numericRegs) c s (s.noteNum c u e pc) := by
  unfold State.noteNum
  extract_lets f s1
  split
  · exact .refl _ c s
  · refine .foldl _ (notes_modCell (regs_noteFlags_any _ u e pc)) (fun t b _ => ?_)
    split
    · exact (notes_logFlag t c u e.loc pc b).mono (by decide)
    · exact .refl _ c t

/-- An instruction that raised no flag notes nothing. -/
theorem noteNum_none (s : State) (c : CellId) (u : FaultUnit) (pc : Nat) : s.noteNum c u {} pc = s := rfl

end Sys2Proof.Proofs
end

section
/-! The delivery of a fault (R176 to R178), BRK and TRET. -/

namespace Sys2Proof.Proofs

open Sys2Proof.Machine Sys2Proof.Laws

/-! ### The cell that has taken a fault -/

/-- Cell x with its uncommitted instructions dropped and counted (R176). -/
def dropWork (x : Cell) : Cell :=
  { (x.count CR.SQ_FLUSH_CNT (x.window.length - 1)).leaveLine with window := [], runahead := none, stuck := none }

/-- The fault f recorded in the registers of R184. -/
def recordFault (x : Cell) (f : FaultInfo) : Cell :=
  (((dropWork x).setReg CR.SQ_FAULT_CAUSE (f.word x.inHandler)).setReg CR.SQ_FAULT_ADDR f.addr).count CR.SQ_FAULT_CNT

/-- Whether a cell continues at its handler when it takes a fault outside one (R176). -/
def handles (x : Cell) : Bool := bits (x.reg CR.SQ_CTRL) 3 2 = 0 && x.reg CR.SQ_TRAP_VEC ≠ 0

theorem handles_iff (x : Cell) : handles x = true ↔ bits (x.reg CR.SQ_CTRL) 3 2 = 0 ∧ x.reg CR.SQ_TRAP_VEC ≠ 0 := by
  simp [handles]

/-- Cell x once it has taken the fault f of the instruction at pc (R176, R178). -/
def afterFault (x : Cell) (pc : Word) (f : FaultInfo) : Cell :=
  let y := recordFault x f
  if x.inHandler then { y with mode := .doubleHalt, npc := pc }
  else
    let z := y.setReg CR.SQ_EPC pc.toNat
    if handles x then { z with inHandler := true, npc := BitVec.ofNat 64 (x.reg CR.SQ_TRAP_VEC) }
    else { z with mode := .faultHalt, npc := pc }

/-- Leaving a line changes the semaphores alone. -/
theorem leaveLine_frame (x : Cell) : x.leaveLine = { x with sems := x.leaveLine.sems } := by
  unfold Cell.leaveLine
  split
  · rfl
  · split <;> rfl

/-- Leaving a line does not look at registers. -/
theorem leaveLine_withRegs (x : Cell) (R : SMap Word) :
    { x with regs := R }.leaveLine = { x.leaveLine with regs := R } := by
  unfold Cell.leaveLine
  dsimp only
  split
  · rfl
  · split <;> rfl

/-- SQ_FAULT_CAUSE by its fields (R184). -/
theorem word_fields (f : FaultInfo) (double : Bool) : f.word double =
    2 ^ 63 + (if double then 2 ^ 62 else 0) + f.flags % 2 ^ 5 * 2 ^ 40 + f.unit.code * 2 ^ 32
      + f.detail % 2 ^ 24 * 2 ^ 8 + f.cause % 2 ^ 8 := by
  unfold FaultInfo.word b2n
  cases double <;> rfl

theorem word_lt (f : FaultInfo) (double : Bool) : f.word double < 2 ^ 64 := by
  have hunit : f.unit.code ≤ 6 := by cases f.unit <;> decide
  have hdouble : b2n double ≤ 1 := by cases double <;> decide
  unfold FaultInfo.word
  omega

section
variable (x : Cell) (f : FaultInfo)

theorem dropWork_frame : dropWork x =
    { x with regs := (x.count CR.SQ_FLUSH_CNT (x.window.length - 1)).regs, sems := x.leaveLine.sems
             window := [], runahead := none, stuck := none } := by
  have h := leaveLine_withRegs x (x.count CR.SQ_FLUSH_CNT (x.window.length - 1)).regs
  rw [leaveLine_frame x] at h
  exact congrArg (fun y : Cell => { y with window := [], runahead := none, stuck := none }) h

theorem dropWork_reg (o : Nat) : (dropWork x).reg o = (x.count CR.SQ_FLUSH_CNT (x.window.length - 1)).reg o := by
  rw [dropWork_frame]; rfl

/-- What recording a fault writes. -/
theorem regs_recordFault :
    Regs [CR.SQ_FAULT_CAUSE, CR.SQ_FAULT_ADDR, CR.SQ_FAULT_CNT] (dropWork x) (recordFault x f) :=
  (((Regs.refl _ _).setReg _ (by decide)).setReg _ (by decide)).count _ (by decide)

/-- The cell but for its registers once the fault is recorded. -/
theorem recordFault_frame : recordFault x f =
    { x with regs := (recordFault x f).regs, sems := x.leaveLine.sems
             window := [], runahead := none, stuck := none } := by
  have h := (regs_recordFault x f).cell
  generalize (recordFault x f).regs = R at h ⊢
  rw [h, dropWork_frame]

theorem recordFault_mode : (recordFault x f).mode = x.mode := by rw [recordFault_frame]

theorem recordFault_inHandler : (recordFault x f).inHandler = x.inHandler := by rw [recordFault_frame]

theorem recordFault_other {o : Nat}
    (ho : o ∉ [CR.SQ_FLUSH_CNT, CR.SQ_FAULT_CAUSE, CR.SQ_FAULT_ADDR, CR.SQ_FAULT_CNT]) :
    (recordFault x f).reg o = x.reg o := by
  rw [List.mem_cons, not_or] at ho
  rw [(regs_recordFault x f).reg o ho.2, dropWork_reg, reg_count_other _ _ ho.1]

variable {x} (hw : SMap.wf cellResetVal x.regs = true)
include hw

theorem wf_dropWork : SMap.wf cellResetVal (dropWork x).regs = true := by
  rw [dropWork_frame]; exact wf_count _ _ _ hw

theorem recordFault_flush :
    (recordFault x f).reg CR.SQ_FLUSH_CNT = (x.reg CR.SQ_FLUSH_CNT + (x.window.length - 1)) % 2 ^ 64 := by
  rw [(regs_recordFault x f).reg _ (by decide), dropWork_reg, reg_count_self _ _ _ hw]

theorem recordFault_cause : (recordFault x f).reg CR.SQ_FAULT_CAUSE = f.word x.inHandler := by
  unfold recordFault
  rw [reg_count_other _ _ (by decide), reg_setReg_other _ _ (by decide), reg_setReg_self _ _ _ (wf_dropWork hw),
    Nat.mod_eq_of_lt (word_lt f _)]

theorem recordFault_addr : (recordFault x f).reg CR.SQ_FAULT_ADDR = f.addr % 2 ^ 64 := by
  unfold recordFault
  rw [reg_count_other _ _ (by decide), reg_setReg_self _ _ _ (wf_setReg _ _ _ (wf_dropWork hw))]

theorem recordFault_cnt : (recordFault x f).reg CR.SQ_FAULT_CNT = (x.reg CR.SQ_FAULT_CNT + 1) % 2 ^ 64 := by
  unfold recordFault
  rw [reg_count_self _ _ _ (wf_setReg _ _ _ (wf_setReg _ _ _ (wf_dropWork hw))), reg_setReg_other _ _ (by decide),
    reg_setReg_other _ _ (by decide), dropWork_reg, reg_count_other _ _ (by decide)]

end

section
variable (x : Cell) (pc : Word) (f : FaultInfo)

/-- Outside a handler SQ_EPC is written as well (R176, R178). -/
theorem afterFault_regs : (afterFault x pc f).regs =
    (if x.inHandler then recordFault x f else (recordFault x f).setReg CR.SQ_EPC pc.toNat).regs := by
  unfold afterFault
  split
  · rfl
  · split <;> rfl

theorem afterFault_reg (o : Nat) : (afterFault x pc f).reg o =
    (if x.inHandler then recordFault x f else (recordFault x f).setReg CR.SQ_EPC pc.toNat).reg o := by
  unfold Cell.reg
  rw [afterFault_regs]

/-- Besides SQ_EPC, the registers are those that the record of the fault leaves. -/
theorem afterFault_reg_of_ne {o : Nat} (ho : o ≠ CR.SQ_EPC) :
    (afterFault x pc f).reg o = (recordFault x f).reg o := by
  rw [afterFault_reg]
  split
  · rfl
  · exact reg_setReg_other _ _ ho

theorem afterFault_reg_other {o : Nat}
    (ho : o ∉ [CR.SQ_FLUSH_CNT, CR.SQ_FAULT_CAUSE, CR.SQ_FAULT_ADDR, CR.SQ_FAULT_CNT, CR.SQ_EPC]) :
    (afterFault x pc f).reg o = x.reg o := by
  have hepc : o ≠ CR.SQ_EPC := fun h => ho (by simp [h])
  rw [afterFault_reg_of_ne _ _ _ hepc, recordFault_other x f (fun h => ho (List.mem_append_left [CR.SQ_EPC] h))]

theorem afterFault_frame : afterFault x pc f =
    { x with regs := (afterFault x pc f).regs, sems := x.leaveLine.sems, mode := (afterFault x pc f).mode
             inHandler := (afterFault x pc f).inHandler, npc := (afterFault x pc f).npc
             window := [], runahead := none, stuck := none } := by
  have h := recordFault_frame x f
  unfold afterFault
  generalize recordFault x f = y at h ⊢
  generalize y.regs = R at h
  subst h
  split
  · rfl
  · split <;> rfl

variable {x}

/-- Inside a handler the fault is double (R178). -/
theorem afterFault_double (h : x.inHandler = true) :
    (afterFault x pc f).mode = .doubleHalt ∧ (afterFault x pc f).inHandler = true ∧ (afterFault x pc f).npc = pc ∧
      (afterFault x pc f).reg CR.SQ_EPC = x.reg CR.SQ_EPC := by
  have hepc : (afterFault x pc f).reg CR.SQ_EPC = x.reg CR.SQ_EPC := by
    rw [afterFault_reg, if_pos h, recordFault_other x f (by decide)]
  refine ⟨?_, ?_, ?_, hepc⟩ <;> simp [afterFault, h, recordFault_inHandler]

/-- Outside one SQ_EPC takes the address of the instruction (R176). -/
theorem afterFault_epc (h : x.inHandler = false) (hw : SMap.wf cellResetVal x.regs = true) :
    (afterFault x pc f).reg CR.SQ_EPC = pc.toNat := by
  rw [afterFault_reg, h, if_neg Bool.false_ne_true,
    reg_setReg_self _ _ _ ((regs_recordFault x f).canon (wf_dropWork hw)), Nat.mod_eq_of_lt pc.isLt]

/-- A handler takes over where the trap mode and the vector say so (R176). -/
theorem afterFault_handled (h : x.inHandler = false) (hh : handles x = true) :
    (afterFault x pc f).mode = x.mode ∧ (afterFault x pc f).inHandler = true ∧
      (afterFault x pc f).npc.toNat = x.reg CR.SQ_TRAP_VEC := by
  have hvec : (BitVec.ofNat 64 (x.reg CR.SQ_TRAP_VEC)).toNat = x.reg CR.SQ_TRAP_VEC :=
    Nat.mod_eq_of_lt (reg_lt x CR.SQ_TRAP_VEC)
  refine ⟨?_, ?_, ?_⟩ <;>
    simp only [afterFault, h, hh, Bool.false_eq_true, if_false, if_true, setReg_mode, recordFault_mode, hvec]

/-- Otherwise the sequencer halts at the instruction (R176). -/
theorem afterFault_halted (h : x.inHandler = false) (hh : handles x = false) :
    (afterFault x pc f).mode = .faultHalt ∧ (afterFault x pc f).inHandler = false ∧ (afterFault x pc f).npc = pc := by
  refine ⟨?_, ?_, ?_⟩ <;> simp [afterFault, h, hh, recordFault_inHandler]

end

/-! ### Taking a fault -/

/-- What taking a fault comes to (R176, R178): the numeric events of the instruction are noted, the cell has taken the
fault, the Almanac has its record, and the host hears of a halt. -/
theorem takeFault_eq (s : State) (c : CellId) (pc : Word) (f : FaultInfo) :
    let s1 := s.noteNum c f.unit f.num pc.toNat
    let x := s1.cell c
    ∃ info1, (x.inHandler = false → info1 = pc.toNat) ∧
      let t := (s1.setCell c (afterFault x pc f)).logEvent (if x.inHandler then 0x0103 else 0x0102) c.val f.cls f.addr
        (f.word x.inHandler) info1
      s.takeFault c pc f = if x.inHandler = false ∧ handles x = true then t else t.notifyHalt c := by
  intro s1 x
  have hdrop : (dropWork x).inHandler = x.inHandler := by rw [dropWork_frame]
  have hvec : ((recordFault x f).setReg CR.SQ_EPC pc.toNat).reg CR.SQ_TRAP_VEC = x.reg CR.SQ_TRAP_VEC :=
    (reg_setReg_other _ _ (by decide)).trans (recordFault_other x f (by decide))
  have hctrl : ((recordFault x f).setReg CR.SQ_EPC pc.toNat).reg CR.SQ_CTRL = x.reg CR.SQ_CTRL :=
    (reg_setReg_other _ _ (by decide)).trans (recordFault_other x f (by decide))
  unfold State.takeFault
  extract_lets counted line dropped double caused y s2 t2 z vec handled z' t3
  have hdouble : double = x.inHandler := hdrop
  have hy : y = recordFault x f := by unfold y caused; rw [hdouble]; rfl
  have hhandled : handled = handles x := by unfold handled vec z; rw [hy, hvec, hctrl]; rfl
  unfold afterFault
  rw [hdouble, hhandled]
  cases h : x.inHandler with
  | true =>
    refine ⟨y.reg CR.SQ_EPC, nofun, ?_⟩
    simp [t2, s2, hy]
  | false =>
    refine ⟨pc.toNat, fun _ => rfl, ?_⟩
    simp [t3, z', z, vec, hy, hvec, hhandled]

theorem logs_notifyHalt (s : State) (c : CellId) : Logs s (s.notifyHalt c) :=
  ((Logs.refl s).orFreg _ _).hostEvent 0

theorem notifyHalt_alm (s : State) (c : CellId) : (s.notifyHalt c).alm = s.alm := by
  unfold State.notifyHalt
  rw [hostEvent_alm, orFreg_alm]

/-- The host sees which cell has halted, and host event 0 (R426, R436). -/
theorem freg_notifyHalt {s : State} (c : CellId) (hw : FGood s.fregs) :
    bitB ((s.notifyHalt c).freg (FR.HI_CELL_HALT (c.val / 64))) (c.val % 64) = true ∧
      bitB ((s.notifyHalt c).freg FR.HI_EVT) 0 = true := by
  have hne : FR.HI_CELL_HALT (c.val / 64) ≠ FR.HI_EVT := by unfold FR.HI_CELL_HALT FR.HI_EVT; omega
  unfold State.notifyHalt
  rw [freg_hostEvent, freg_hostEvent]
  refine ⟨?_, bitB_orFreg_self _ (by decide) ((keepsFloor_orFreg s _ _).canon hw)⟩
  rw [State.orFreg, freg_setFreg_other _ _ hne]
  exact bitB_orFreg_self _ (Nat.mod_lt _ (by decide)) hw

section
variable (s : State) (c : CellId) (pc : Word) (f : FaultInfo)

theorem logs_takeFault :
    let s1 := s.noteNum c f.unit f.num pc.toNat
    Logs (s1.setCell c (afterFault (s1.cell c) pc f)) (s.takeFault c pc f) := by
  intro s1
  obtain ⟨info1, -, h⟩ := takeFault_eq s c pc f
  rw [h]
  exact .ite (logs_logEvent _ _ _ _ _ _ _) ((logs_logEvent _ _ _ _ _ _ _).trans (logs_notifyHalt _ c))

theorem Logs.cell {s t : State} (h : Logs s t) (d : CellId) : t.cell d = s.cell d := by rw [h]; rfl

theorem takeFault_cell : (s.takeFault c pc f).cell c =
    afterFault ((s.noteNum c f.unit f.num pc.toNat).cell c) pc f :=
  ((logs_takeFault s c pc f).cell c).trans (cell_setCell_self _ _ _)

/-- Taking a fault leaves every other cell. -/
theorem takeFault_others {d : CellId} (hd : d ≠ c) : (s.takeFault c pc f).cell d = s.cell d :=
  ((logs_takeFault s c pc f).cell d).trans
    ((cell_setCell_other _ _ hd).trans ((notes_noteNum s c f.unit f.num pc.toNat).others d hd))

theorem takeFault_frame : s.takeFault c pc f =
    { s with cells := (s.takeFault c pc f).cells, fregs := (s.takeFault c pc f).fregs
             alm := (s.takeFault c pc f).alm, hs := (s.takeFault c pc f).hs } := by
  have hlogs := logs_takeFault s c pc f
  have hnote := (notes_noteNum s c f.unit f.num pc.toNat).frame
  rw [(keepsFloor_noteNum s c f.unit f.num pc.toNat).free] at hnote
  generalize s.takeFault c pc f = t at hlogs ⊢
  generalize s.noteNum c f.unit f.num pc.toNat = s1 at hlogs hnote
  have hcells : t = { s1 with cells := t.cells, fregs := t.fregs, alm := t.alm, hs := t.hs } := by rw [hlogs]; rfl
  rw [hcells, hnote]

/-- The Almanac's record of a fault (R176, R499). -/
theorem takeFault_record :
    let s1 := s.noteNum c f.unit f.num pc.toNat
    let x := s1.cell c
    let alm := (s.takeFault c pc f).alm
    alm.seq = s1.alm.seq + 1 ∧ (2 ≤ f.cls → ∃ r : AlmRec, (s1.alm.seq % 1024, r) ∈ alm.buf ∧ r.seq = s1.alm.seq ∧
      r.code = (if x.inHandler then 0x0103 else 0x0102) ∧ r.index = c.val ∧ r.info0 = f.word x.inHandler ∧
      (x.inHandler = false → r.info1 = pc.toNat)) := by
  intro s1 x
  obtain ⟨info1, hinfo, h⟩ := takeFault_eq s c pc f
  rw [h]
  simp only [apply_ite State.alm, notifyHalt_alm, ite_self]
  refine ⟨logEvent_seq _ _ _ _ _ _ _, fun hcls => ?_⟩
  obtain ⟨r, hmem, hseq, hcode, hindex, hinfo0, hinfo1⟩ := logEvent_record (s1.setCell c (afterFault x pc f))
    (if x.inHandler then 0x0103 else 0x0102) c.val f.addr (f.word x.inHandler) info1 hcls
  exact ⟨r, hmem, hseq, hcode, hindex.trans (Nat.mod_eq_of_lt (by omega)), hinfo0, fun hx => hinfo1.trans (hinfo hx)⟩

/-- The host hears of a fault that no handler takes over. -/
theorem takeFault_halt (hw : FGood s.fregs)
    (hh : let x := (s.noteNum c f.unit f.num pc.toNat).cell c; ¬ (x.inHandler = false ∧ handles x = true)) :
    bitB ((s.takeFault c pc f).freg (FR.HI_CELL_HALT (c.val / 64))) (c.val % 64) = true ∧
      bitB ((s.takeFault c pc f).freg FR.HI_EVT) 0 = true := by
  obtain ⟨info1, -, h⟩ := takeFault_eq s c pc f
  rw [h, if_neg hh]
  exact freg_notifyHalt c ((keepsFloor_logEvent _ _ _ _ _ _ _).canon ((keepsFloor_noteNum _ _ _ _ _).canon hw))

end

/-! ### The numeric events of the faulting instruction -/

section
variable {ks : List Nat} {x y : Cell}

theorem Regs.mode_eq (h : Regs ks x y) : y.mode = x.mode := by rw [h.cell]

theorem Regs.inHandler_eq (h : Regs ks x y) : y.inHandler = x.inHandler := by rw [h.cell]

theorem Regs.window_eq (h : Regs ks x y) : y.window = x.window := by rw [h.cell]

/-- Numeric events do not change where a fault leads. -/
theorem Regs.handles_eq (h : Regs (CR.SX_STATUS :: numericRegs) x y) : handles y = handles x := by
  unfold handles
  rw [h.reg CR.SQ_CTRL (by decide), h.reg CR.SQ_TRAP_VEC (by decide)]

/-- A cell that has taken a fault, beside what it was before its numeric events were noted. -/
theorem Regs.afterFault_frame (h : Regs ks x y) (pc : Word) (f : FaultInfo) : afterFault y pc f =
    { x with regs := (afterFault y pc f).regs, sems := (afterFault y pc f).sems, mode := (afterFault y pc f).mode
             inHandler := (afterFault y pc f).inHandler, npc := (afterFault y pc f).npc
             window := [], runahead := none, stuck := none } := by
  have hf := Proofs.afterFault_frame y pc f
  generalize afterFault y pc f = z at hf ⊢
  rw [hf]
  simp only
  rw [h.cell]

end

/-! ### Delivery -/

/-- The fault that the oldest instruction of a running cell holds is taken (R176). -/
theorem deliverFault_head {s : State} {c : CellId} {e : InFlight} {w : List InFlight} {f : FaultInfo} (b : BitVec 2)
    (hrun : (s.cell c).running = true) (hwin : (s.cell c).window = e :: w) (hf : e.fault = some f) :
    s.deliverFault c b = s.takeFault c e.pc f := by
  unfold State.deliverFault Cell.head
  simp [hrun, hwin, hf]

theorem running_iff {x : Cell} : x.running = true ↔ x.mode = .running ∧ x.cp.st = .awake := by
  simp [Cell.running]

/-! ### BRK and TRET -/

section
variable {c : CellId} {s : State} {f : SForm}

/-- BREAK with the code of a BRK (R179). -/
def breakFault (f : SForm) : FaultInfo := { cause := 0x08, detail := f.imm32.toNat, cls := 6 }

/-- Cell x with a BRK as its only instruction in flight, which holds BREAK. -/
def breakCell (x : Cell) (f : SForm) : Cell :=
  let i : Ins := { op := .brk, f }
  { x with window := [{ x.entry i with fault := some (breakFault f) }], npc := (x.holding i).npc, stuck := none }

/-- A BRK that a ready cell has dispatched holds BREAK with its code (R179, R191). -/
theorem issue_brk (h : Ready c s) (hs : sOnly f { imm := true } = true) (hf : f.imm32.toNat < 2 ^ 24) :
    s.issue c { op := .brk, f } = s.setCell c (breakCell (s.cell c) f) := by
  let i : Ins := { op := .brk, f }
  have hev : evalOp c ((s.cell c).entry i) (s.carrying c i) = .fault (s.carrying c i) (breakFault f) := by
    show evalBrk c _ _ = _
    unfold evalBrk
    simp only [entry_ins, i, hs, Nat.not_le.mpr hf, Bool.not_true, Bool.or_self, decide_false,
      Bool.false_eq_true, if_false]
    rfl
  rw [issue_fault h (fetched_short h rfl) hev, State.modCell, carrying_setCell, cell_carrying]
  rfl

/-- A BRK waits in no line. -/
theorem leaveLine_breakCell (x : Cell) (f : SForm) : (breakCell x f).leaveLine = breakCell x f := rfl

/-- BREAK is delivered at the address of the BRK. -/
theorem deliverFault_breakCell (hrun : (s.cell c).running = true) (f : SForm) (b : BitVec 2) :
    (s.setCell c (breakCell (s.cell c) f)).deliverFault c b =
      (s.setCell c (breakCell (s.cell c) f)).takeFault c (s.cell c).npc (breakFault f) :=
  deliverFault_head (e := { (s.cell c).entry { op := .brk, f } with fault := some (breakFault f) }) (w := []) b
    (by rw [cell_setCell_self]; exact hrun) (by rw [cell_setCell_self]; rfl) rfl

/-- BREAK raised no numeric flag. -/
theorem takeFault_breakCell (s : State) (c : CellId) (x : Cell) (f : SForm) (pc : Word) :
    ((s.setCell c (breakCell x f)).takeFault c pc (breakFault f)).cell c =
      afterFault (breakCell x f) pc (breakFault f) := by
  rw [takeFault_cell, breakFault, noteNum_none, cell_setCell_self]

/-- The cell whose BREAK has been delivered has nothing in flight again. -/
theorem afterFault_breakCell {x : Cell} (hidle : x.window = []) (hnormal : x.runahead = none) (f : SForm) (pc : Word)
    (q : FaultInfo) : afterFault (breakCell x f) pc q =
      { x with regs := (afterFault (breakCell x f) pc q).regs, mode := (afterFault (breakCell x f) pc q).mode
               inHandler := (afterFault (breakCell x f) pc q).inHandler, npc := (afterFault (breakCell x f) pc q).npc
               stuck := none } := by
  have h := afterFault_frame (breakCell x f) pc q
  rw [leaveLine_breakCell] at h
  generalize afterFault (breakCell x f) pc q = y at h ⊢
  rw [h]
  simp only [breakCell]
  rw [hidle, hnormal]

theorem word_breakFault (hf : f.imm32.toNat < 2 ^ 24) (double : Bool) : (breakFault f).word double =
    2 ^ 63 + (if double then 2 ^ 62 else 0) + f.imm32.toNat * 2 ^ 8 + 0x08 := by
  have hdetail : (breakFault f).detail % 2 ^ 24 = f.imm32.toNat := Nat.mod_eq_of_lt hf
  rw [word_fields, hdetail]
  simp only [breakFault, FaultUnit.code]
  omega

/-- TRET leaves the handler for SQ_EPC (R177). -/
theorem issue_tret (h : Ready c s) (hs : sOnly f {} = true) (hin : (s.cell c).inHandler = true) :
    Retires commitCounters c s { s.cell c with inHandler := false } (BitVec.ofNat 64 ((s.cell c).reg CR.SQ_EPC))
      (s.issue c { op := .tret, f }) := by
  let i : Ins := { op := .tret, f }
  have hcell : (s.carrying c i).cell c = (s.cell c).holding i := cell_carrying s c i
  have hev : evalOp c ((s.cell c).entry i) (s.carrying c i) =
      .done ((s.carrying c i).setCell c { (s.cell c).holding i with inHandler := false })
        (some (BitVec.ofNat 64 ((s.cell c).reg CR.SQ_EPC))) := by
    show evalTret _ _ _ = _
    unfold evalTret
    have hin' : ((s.cell c).holding i).inHandler = true := hin
    simp only [entry_ins, hcell, i, hs, hin', reg_holding, Bool.not_true, Bool.or_self, Bool.false_eq_true, if_false]
  have hop : i.op ≠ .bloop := show Op.tret ≠ .bloop by decide
  obtain ⟨u, hu, hi⟩ := issue_done (e := (s.cell c).entry i) h (fetched_short h rfl) hop hev
    { window := by rw [cell_setCell_self]; rfl, pc := rfl, op := rfl, x := rfl, next := rfl
      waited := fun o k => by rw [entry_waited h i] at k; cases k
      npc := by rw [cell_setCell_self, hcell]
      ctrl := by rw [cell_setCell_self, hcell]; rfl
      canon := by rw [cell_setCell_self]; exact h.canon }
  have hcommit : commitOf ((s.cell c).entry i) (some (BitVec.ofNat 64 ((s.cell c).reg CR.SQ_EPC))) = commitCounters :=
    (if_pos (.inl rfl)).trans (countersOf_none (entry_waited h i))
  rw [hcommit] at hu
  have hu' : s.issue c i = u := hi
  rw [hu']
  refine retires_over hu ?_ ?_ rfl
  · rw [cell_setCell_self]; rfl
  · intro d hd
    rw [cell_setCell_other _ _ hd]; exact cell_setCell_other _ _ hd

end

/-- Settles O14: a delivered fault is taken (`takeFault_eq`), which leaves the cell as `afterFault` says, and BRK and
TRET are carried out at once. -/
theorem faultsBreaksAndReturns : Obligations.FaultsBreaksAndReturns := by
  unfold Obligations.FaultsBreaksAndReturns
  refine ⟨?fault, fun c s f h => ⟨?brk, ?tret⟩⟩
  case fault =>
    intro c s0 b m e w f s x code hrun hwin hf hregs hfregs
    have hnote := (notes_noteNum s c f.unit f.num e.pc.toNat).regs
    have hrecord := takeFault_record s c e.pc f
    have hhalt := takeFault_halt s c e.pc f hfregs
    have hnone (h : f.num = {}) : s.noteNum c f.unit f.num e.pc.toNat = s := by rw [h]; exact noteNum_none _ _ _ _
    refine ⟨s.takeFault c e.pc f, congrArg _ (deliverFault_head b hrun hwin hf),
      fun d hd => takeFault_others s c e.pc f hd, takeFault_frame s c e.pc f, ?_⟩
    rw [takeFault_cell]
    generalize s.noteNum c f.unit f.num e.pc.toNat = s1 at hnote hrecord hhalt hnone ⊢
    have hw := hnote.canon hregs
    have hcause : (afterFault (s1.cell c) e.pc f).reg CR.SQ_FAULT_CAUSE = f.word x.inHandler := by
      rw [afterFault_reg_of_ne _ _ _ (by decide), recordFault_cause f hw, hnote.inHandler_eq]
    refine ⟨hnote.afterFault_frame e.pc f, ?cause, ?addr, ?cnt, ?flush, ?record, ?halt, ?others, ?double, ?single⟩
    case cause => rw [hcause, word_fields]; cases f.unit <;> rfl
    case addr => rw [afterFault_reg_of_ne _ _ _ (by decide), recordFault_addr f hw]
    case cnt => rw [afterFault_reg_of_ne _ _ _ (by decide), recordFault_cnt f hw, hnote.reg _ (by decide)]
    case flush =>
      have hdropped : (s1.cell c).window.length - 1 = w.length := by rw [hnote.window_eq, hwin]; rfl
      rw [afterFault_reg_of_ne _ _ _ (by decide), recordFault_flush f hw, hnote.reg _ (by decide), hdropped]
    case record =>
      intro hnum
      rw [hcause]
      rw [hnone hnum] at hrecord
      exact hrecord
    case halt =>
      refine fun hstop => hhalt (fun ⟨hout, hh⟩ => hstop ?_)
      exact (afterFault_handled e.pc f hout hh).1.trans (hnote.mode_eq.trans (running_iff.mp hrun).1)
    case others => exact fun hnum o ho => (afterFault_reg_other _ e.pc f ho).trans (by rw [hnone hnum])
    case double =>
      intro hin
      obtain ⟨hmode, hstay, hnpc, hepc⟩ := afterFault_double e.pc f (hnote.inHandler_eq.trans hin)
      exact ⟨hmode, hstay, hnpc, hepc.trans (hnote.reg _ (by decide))⟩
    case single =>
      intro hin
      have hout := hnote.inHandler_eq.trans hin
      refine ⟨afterFault_epc e.pc f hout hw, ?_⟩
      have hhandles : handles (s1.cell c) = true ↔ bits (x.reg CR.SQ_CTRL) 3 2 = 0 ∧ x.reg CR.SQ_TRAP_VEC ≠ 0 := by
        rw [hnote.handles_eq, handles_iff]
      split
      · obtain ⟨hmode, hinside, hnpc⟩ := afterFault_handled e.pc f hout (hhandles.mpr ‹_›)
        exact ⟨hmode.trans (hnote.mode_eq.trans (running_iff.mp hrun).1), hinside, hnpc.trans (hnote.reg _ (by decide))⟩
      · exact afterFault_halted e.pc f hout (eq_false_of_ne_true (mt hhandles.mp ‹_›))
  case brk =>
    intro hs hf
    refine ⟨_, _, congrArg Host.Outcome.next (issue_brk h hs hf),
      congrArg Host.Outcome.next (deliverFault_breakCell h.runs f 0), ?_⟩
    rw [takeFault_breakCell]
    refine ⟨?cause, fun hin => afterFault_epc _ _ hin h.canon, ?frame, fun d hd => ?_⟩
    case cause =>
      rw [afterFault_reg_of_ne _ _ _ (by decide), recordFault_cause (x := breakCell (s.cell c) f) _ h.canon]
      exact word_breakFault hf _
    case frame => exact afterFault_breakCell h.idle h.normal f _ _
    · exact (takeFault_others _ c _ _ hd).trans (cell_setCell_other _ _ hd)
  case tret => exact fun hs hin => ⟨_, rfl, issue_tret h hs hin⟩

end Sys2Proof.Proofs
end

section
/-! Scalar arithmetic: the table of ALU and ALUI, a short instruction that writes one register, and an illegal one. -/

namespace Sys2Proof.Proofs

open Sys2Proof.Machine Sys2Proof.Laws

/-! ### The functions of ALU and ALUI (R192) -/

/-- A func that the table lists has the result that it gives. -/
theorem aluFn_of_mem {e : BitVec 7 × (Word → Word → Word)} (h : e ∈ aluTable) (a b : Word) :
    aluFn e.1 a b = some (e.2 a b) := by
  simp only [aluTable, List.mem_cons, List.not_mem_nil, or_false] at h
  rcases h with rfl | rfl | rfl | rfl | rfl | rfl | rfl | rfl | rfl | rfl | rfl | rfl | rfl | rfl <;>
    simp [aluFn, BitVec.slt, BitVec.ult]

/-- The table lists the first 14 values of func. -/
theorem func_mem_aluTable : ∀ func : BitVec 7, func.toNat < 14 → func ∈ aluTable.map (·.1) := by decide

/-- A func that the table does not list is reserved. -/
theorem aluFn_of_not_mem {func : BitVec 7} (h : ∀ e ∈ aluTable, func ≠ e.1) (a b : Word) : aluFn func a b = none := by
  have hge : ¬ func.toNat < 14 := fun hlt => by
    obtain ⟨e, he, hfunc⟩ := List.mem_map.mp (func_mem_aluTable func hlt)
    exact h e he hfunc.symm
  unfold aluFn
  split
  case h_15 => rfl
  all_goals omega

/-! ### Short instructions -/

section
variable {c : CellId} {s : State} {i : Ins}

/-- A short instruction that writes rd and no more retires with rd written. -/
theorem issue_short_rd {rd : BitVec 5} {v : Word} (h : Ready c s) (hlong : i.op.long = false) (hop : Op.plain i.op)
    (hev : evalOp c ((s.cell c).entry i) (s.carrying c i) = doneRd (s.carrying c i) c rd v) :
    Retires commitCounters c s ((s.cell c).wrS rd v) (nextPc (s.cell c).npc i.op) (s.issue c i) := by
  obtain ⟨u, hu, hi⟩ := issue_rd h (fetched_short h hlong) hop hev
  rw [hi, hlong]
  exact hu

/-- A short instruction that is illegal stays, holds ILLEGAL_INSTR, and has written no register (R179). -/
theorem issue_short_illegal (h : Ready c s) (hlong : i.op.long = false)
    (hev : evalOp c ((s.cell c).entry i) (s.carrying c i) = .illegal (s.carrying c i)) :
    let t := s.issue c i
    ∃ e q, (t.cell c).window = [e] ∧ e.pc = (s.cell c).npc ∧ e.fault = some q ∧ q.cause = 0x01 ∧
      (t.cell c).s = (s.cell c).s ∧ ∀ d, d ≠ c → t.cell d = s.cell d := by
  intro t
  have ht : t = s.setCell c (((s.cell c).holding i).faultHead { cause := 1 }) := by
    rw [← carrying_setCell s c i, ← cell_carrying s c i]
    exact issue_fault h (fetched_short h hlong) hev
  rw [ht, cell_setCell_self]
  exact ⟨{ (s.cell c).entry i with fault := some { cause := 1 } }, { cause := 1 }, rfl, rfl, rfl, rfl, rfl,
    fun d hd => cell_setCell_other _ _ hd⟩

end

/-! ### The instructions -/

/-- The instructions of scalar arithmetic (R191); MOVHI is a func of MOVI. -/
def arithmetic : List Op := [.alu, .alui, .mul, .movi]

theorem short_of_arithmetic {o : Op} (h : o ∈ arithmetic) : o.long = false := by revert o; decide

theorem plain_of_arithmetic {o : Op} (h : o ∈ arithmetic) : Op.plain o := by revert o; unfold Op.plain; decide

theorem sOnly_alu {f : SForm} (h : f.imm32 = 0) :
    sOnly f { func := true, rd := true, ra := true, rb := true } = true := by
  simp [sOnly, h]

theorem sOnly_alui {f : SForm} (h : f.rb = 0) :
    sOnly f { imm := true, func := true, rd := true, ra := true } = true := by
  simp [sOnly, h]

theorem sOnly_movi {f : SForm} (ha : f.ra = 0) (hb : f.rb = 0) :
    sOnly f { imm := true, func := true, rd := true } = true := by
  simp [sOnly, ha, hb]

/-- MOVHI replaces the high half of a register (R191). -/
theorem movhi_value (k : BitVec 32) (a : Word) :
    BitVec.ofNat 64 (k.toNat * 2 ^ 32 + a.toNat % 2 ^ 32) = k ++ a.extractLsb' 0 32 := by
  apply BitVec.eq_of_toNat_eq
  have hlow : a.toNat % 2 ^ 32 < 2 ^ 32 := Nat.mod_lt _ (by decide)
  rw [BitVec.toNat_append, BitVec.extractLsb'_toNat, Nat.shiftRight_zero, ← Nat.shiftLeft_add_eq_or_of_lt hlow,
    Nat.shiftLeft_eq, BitVec.toNat_ofNat, Nat.mod_eq_of_lt]
  have := k.isLt
  omega

section
variable (c : CellId) (s : State) (f : SForm)

theorem eval_alu {v : Word} (hs : f.imm32 = 0)
    (hv : aluFn f.func ((s.cell c).rdS f.ra) ((s.cell c).rdS f.rb) = some v) :
    evalOp c ((s.cell c).entry { op := .alu, f }) (s.carrying c { op := .alu, f }) =
      doneRd (s.carrying c { op := .alu, f }) c f.rd v := by
  show evalAlu c _ _ = _
  simp only [evalAlu, entry_ins, cell_carrying, rdS_holding, sOnly_alu hs, hv, Bool.not_true, Bool.false_eq_true,
    if_false]

theorem eval_alui {v : Word} (hs : f.rb = 0)
    (hv : aluFn f.func ((s.cell c).rdS f.ra) (f.imm32.signExtend 64) = some v) :
    evalOp c ((s.cell c).entry { op := .alui, f }) (s.carrying c { op := .alui, f }) =
      doneRd (s.carrying c { op := .alui, f }) c f.rd v := by
  show evalAlui c _ _ = _
  simp only [evalAlui, entry_ins, cell_carrying, rdS_holding, sOnly_alui hs, hv, Bool.not_true, Bool.false_eq_true,
    if_false]

/-- A func that the table does not list makes ALU illegal, whatever its other fields are. -/
theorem eval_alu_reserved (hf : ∀ e ∈ aluTable, f.func ≠ e.1) (e : InFlight) (he : e.ins.f = f) (z : State) :
    evalAlu c e z = .illegal z := by
  simp only [evalAlu, he, aluFn_of_not_mem hf, ite_self]

theorem eval_alui_reserved (hf : ∀ e ∈ aluTable, f.func ≠ e.1) (e : InFlight) (he : e.ins.f = f) (z : State) :
    evalAlui c e z = .illegal z := by
  simp only [evalAlui, he, aluFn_of_not_mem hf, ite_self]

theorem eval_mul {v : Word} (hs : f.imm32 = 0) (hv : let a := (s.cell c).rdS f.ra
      let b := (s.cell c).rdS f.rb
      (f.func = 0 ∧ v = a * b) ∨ (f.func = 1 ∧ v = BitVec.ofInt 64 (a.toInt * b.toInt / 2 ^ 64)) ∨
        (f.func = 2 ∧ v = BitVec.ofNat 64 (a.toNat * b.toNat / 2 ^ 64))) :
    evalOp c ((s.cell c).entry { op := .mul, f }) (s.carrying c { op := .mul, f }) =
      doneRd (s.carrying c { op := .mul, f }) c f.rd v := by
  show evalMul c _ _ = _
  simp only [evalMul, entry_ins, cell_carrying, rdS_holding, sOnly_alu hs, Bool.not_true, Bool.false_eq_true, if_false]
  rcases hv with ⟨hf, rfl⟩ | ⟨hf, rfl⟩ | ⟨hf, rfl⟩ <;> rw [hf] <;> rfl

theorem eval_movi (hf : f.func = 0) (ha : f.ra = 0) (hb : f.rb = 0) :
    evalOp c ((s.cell c).entry { op := .movi, f }) (s.carrying c { op := .movi, f }) =
      doneRd (s.carrying c { op := .movi, f }) c f.rd (f.imm32.signExtend 64) := by
  show evalMovi c _ _ = _
  have hfunc : f.func.toNat = 0 := by rw [hf]; rfl
  simp only [evalMovi, entry_ins, hfunc, sOnly_movi ha hb, Bool.not_true, Bool.false_eq_true, if_false]

theorem eval_movhi (hf : f.func = 1) (hb : f.rb = 0) :
    evalOp c ((s.cell c).entry { op := .movi, f }) (s.carrying c { op := .movi, f }) =
      doneRd (s.carrying c { op := .movi, f }) c f.rd (f.imm32 ++ ((s.cell c).rdS f.ra).extractLsb' 0 32) := by
  show evalMovi c _ _ = _
  have hfunc : f.func.toNat = 1 := by rw [hf]; rfl
  simp only [evalMovi, entry_ins, cell_carrying, rdS_holding, hfunc, sOnly_alui hb, movhi_value, Bool.not_true,
    Bool.false_eq_true, if_false]

end

/-- Settles O7: each legal form is evaluated to a write of rd (`eval_alu`, `eval_alui`, `eval_mul`, `eval_movi`,
`eval_movhi`), with which it retires (`issue_short_rd`), and a func that the table does not list is illegal
(`aluFn_of_not_mem`). -/
theorem scalarArithmeticResults : Obligations.ScalarArithmeticResults := by
  unfold Obligations.ScalarArithmeticResults
  intro c s f h x a b imm sets
  have rd {o : Op} {j : Instr} {v : Word} (ho : o ∈ arithmetic) (hj : exec j s = .next (s.issue c { op := o, f }))
      (hev : evalOp c (x.entry { op := o, f }) (s.carrying c { op := o, f }) =
        doneRd (s.carrying c { op := o, f }) c f.rd v) : sets o j v :=
    ⟨_, hj, issue_short_rd h (short_of_arithmetic ho) (plain_of_arithmetic ho) hev⟩
  refine ⟨fun e he hf => ⟨fun hs => ?alu, fun hs => ?alui⟩, fun hf i hi => ?illegal, fun hs => ?mul, ?movi, ?movhi⟩
  case alu => exact rd (by decide) rfl (eval_alu c s f hs (hf ▸ aluFn_of_mem he a b))
  case alui => exact rd (by decide) rfl (eval_alui c s f hs (hf ▸ aluFn_of_mem he a imm))
  case illegal =>
    simp only [List.mem_cons, List.not_mem_nil, or_false] at hi
    rcases hi with rfl | rfl
    · obtain ⟨e, q, ht⟩ := issue_short_illegal (i := { op := .alu, f }) h rfl (eval_alu_reserved c f hf _ rfl _)
      exact ⟨_, e, q, rfl, ht⟩
    · obtain ⟨e, q, ht⟩ := issue_short_illegal (i := { op := .alui, f }) h rfl (eval_alui_reserved c f hf _ rfl _)
      exact ⟨_, e, q, rfl, ht⟩
  case mul =>
    have mul {v : Word} (hv) : sets .mul (.mul c f) v := rd (by decide) rfl (eval_mul c s f hs hv)
    exact ⟨fun hf => mul (.inl ⟨hf, rfl⟩), fun hf => mul (.inr (.inl ⟨hf, rfl⟩)), fun hf => mul (.inr (.inr ⟨hf, rfl⟩))⟩
  case movi => exact fun hf ha hb => rd (by decide) rfl (eval_movi c s f hf ha hb)
  case movhi => exact fun hf hb => rd (by decide) rfl (eval_movhi c s f hf hb)

end Sys2Proof.Proofs
end

section
/-! Branches: where BR, BLOOP, JAL and JALR lead, and how their commit compares that with the prediction. -/

namespace Sys2Proof.Proofs

open Sys2Proof.Machine Sys2Proof.Laws

/-! ### Commit -/

theorem retires_mono {ks ls : List Nat} {c : CellId} {s t : State} {x : Cell} {pc : Word} (h : Retires ks c s x pc t)
    (hl : ks ⊆ ls) : Retires ls c s x pc t := by
  obtain ⟨hcell, hreg, hrest⟩ := h
  exact ⟨hcell, fun o ho => hreg o (fun k => ho (hl k)), hrest⟩

/-- The commit of an instruction that goes where it was predicted to counts no misprediction. -/
theorem commitOf_predicted {e : InFlight} {jump : Option Word}
    (h : e.next = some (jump.getD (nextPc e.pc e.ins.op))) : commitOf e jump = countersOf e := if_pos (.inr h)

theorem commitOf_subset (e : InFlight) (jump : Option Word) :
    commitOf e jump ⊆ CR.SQ_BR_MISPRED_CNT :: countersOf e := by
  unfold commitOf
  split
  · exact List.subset_cons_self _ _
  · exact List.Subset.refl _

/-- A commit does not count in SQ_CTRL. -/
theorem ctrl_not_mem_commitOf {e : InFlight} (h : ∀ o, e.waited = some o → o ∈ stallCounters) (jump : Option Word) :
    CR.SQ_CTRL ∉ commitOf e jump := by
  have hstall : CR.SQ_CTRL ∉ e.waited.toList := fun k =>
    absurd (h _ (Option.mem_toList.mp k)) (by decide)
  refine fun k => ?_
  rcases List.mem_cons.mp (commitOf_subset e jump k) with k | k
  · exact absurd k (by decide)
  · rcases List.mem_append.mp k with k | k
    · exact hstall k
    · exact absurd k (by decide)

/-- A cell that carries out an instruction, with rd written, beside the cell that is to retire. -/
theorem wrS_holding (x : Cell) (i : Ins) (rd : BitVec 5) (v : Word) : (x.holding i).wrS rd v =
    { x.wrS rd v with
      window := [x.entry i], npc := (x.holding i).npc, retStack := (x.holding i).retStack, stuck := none } := by
  unfold Cell.wrS
  split <;> rfl

section
variable {c : CellId} {s : State} {i : Ins} {rd : BitVec 5} {v : Word} {jump : Option Word}

/-- What a ready cell leaves for the commit of an instruction that writes rd and no more. -/
theorem leaves_wrS (h : Ready c s) (i : Ins) (rd : BitVec 5) (v : Word) :
    Leaves c (s.carrying c i) ((s.cell c).entry i) ((s.carrying c i).modCell c (fun x => x.wrS rd v))
      ((s.cell c).entry i) where
  window := by rw [cell_modCell_self, cell_carrying, wrS_window]; rfl
  pc := rfl
  op := rfl
  x := rfl
  next := rfl
  waited o k := by rw [entry_waited h i] at k; cases k
  npc := by rw [cell_modCell_self, wrS_npc]
  ctrl := by rw [cell_modCell_self, Cell.reg, wrS_regs]; rfl
  canon := by rw [cell_modCell_self, cell_carrying, wrS_regs]; exact h.canon

/-- The commit of such an instruction, seen from the state in which it was dispatched. -/
theorem retires_wrS {ks : List Nat} {pc : Word} {u : State}
    (hu : let s1 := (s.carrying c i).modCell c (fun x => x.wrS rd v)
      Retires ks c s1 (s1.cell c) pc u) :
    Retires ks c s { (s.cell c).wrS rd v with retStack := ((s.cell c).holding i).retStack } pc u := by
  refine retires_over hu ?_ (fun d hd => ?_) rfl
  · rw [cell_modCell_self, cell_carrying, wrS_holding]
  · rw [cell_modCell_other _ _ hd]; exact cell_setCell_other _ _ hd

/-- A short instruction that writes rd, if anything, and may lead elsewhere retires so; its prediction has changed the
return stack (R169). -/
theorem issue_jump (h : Ready c s) (hlong : i.op.long = false) (hloop : i.op ≠ .bloop)
    (hev : evalOp c ((s.cell c).entry i) (s.carrying c i) =
      .done ((s.carrying c i).modCell c (fun x => x.wrS rd v)) jump) :
    Retires (commitOf ((s.cell c).entry i) jump) c s
      { (s.cell c).wrS rd v with retStack := ((s.cell c).holding i).retStack }
      (jump.getD (nextPc (s.cell c).npc i.op)) (s.issue c i) := by
  obtain ⟨u, hu, hi⟩ := issue_done h (fetched_short h hlong) hloop hev (leaves_wrS h i rd v)
  rw [hi, hlong]
  exact retires_wrS hu

/-- Where a branch that a ready cell has dispatched may count. -/
theorem commitOf_entry_subset (h : Ready c s) (i : Ins) (jump : Option Word) :
    commitOf ((s.cell c).entry i) jump ⊆ CR.SQ_BR_MISPRED_CNT :: commitCounters := by
  rw [← countersOf_none (entry_waited h i)]
  exact commitOf_subset _ _

end

/-! ### BR (R193) -/

/-- The conditions of BR as the table of R193 lists them: cond, and whether it holds for a and b. -/
def condTable (a b : Word) : List (BitVec 7 × Bool) :=
  [(0, true), (1, a == b), (2, a != b), (3, decide (a.toInt < b.toInt)), (4, decide (b.toInt ≤ a.toInt)),
   (5, decide (a.toNat < b.toNat)), (6, decide (b.toNat ≤ a.toNat))]

/-- A cond that the table lists has the meaning that it gives. -/
theorem brTaken_of_mem {a b : Word} {e : BitVec 7 × Bool} (h : e ∈ condTable a b) :
    brTaken e.1.toNat a b = some e.2 := by
  simp only [condTable, List.mem_cons, List.not_mem_nil, or_false] at h
  rcases h with rfl | rfl | rfl | rfl | rfl | rfl | rfl <;> simp [brTaken, BitVec.slt, BitVec.ult, ← decide_not]

/-- A cond beyond the table is reserved. -/
theorem brTaken_reserved {k : Nat} (h : 6 < k) (a b : Word) : brTaken k a b = none := by
  unfold brTaken
  split
  case h_8 => rfl
  all_goals omega

/-- The instruction that the word of a BR holds (R159). -/
def brIns (f : BForm) : Ins :=
  { op := .br, f := { imm32 := f.off32, func := f.cond, rb := f.rb, ra := f.ra, rd := f.bhint } }

/-- The instruction that the word of a BLOOP holds. -/
def bloopIns (f : BForm) : Ins := { brIns f with op := .bloop }

/-- Where the branch at pc jumps, if it is taken. -/
def branchJump (pc : Word) (f : BForm) (taken : Bool) : Option Word :=
  if taken then some (relTarget pc f.off32) else none

theorem branchJump_getD (pc next : Word) (f : BForm) (taken : Bool) :
    (branchJump pc f taken).getD next = if taken then relTarget pc f.off32 else next := by
  cases taken <;> rfl

/-- AL with operands, or with a hint. -/
def alOperands (f : BForm) : Prop := f.cond = 0 ∧ (f.ra ≠ 0 ∨ f.rb ≠ 0 ∨ f.bhint ≠ 0)

theorem alOperands_iff (f : BForm) :
    (decide (f.cond = 0) && (decide (f.ra ≠ 0) || decide (f.rb ≠ 0) || decide (f.bhint ≠ 0))) = true ↔
      alOperands f := by
  simp [alOperands, or_assoc]

/-- A legal BR goes to its target where its condition holds. -/
theorem eval_br (c : CellId) (e : InFlight) (z : State) (f : BForm) (he : e.ins = brIns f) {taken : Bool}
    (hoff : f.off32.toNat % 8 = 0) (hhint : f.bhint.toNat ≤ 2) (hal : ¬ alOperands f)
    (ht : brTaken f.cond.toNat ((z.cell c).rdS f.ra) ((z.cell c).rdS f.rb) = some taken) :
    evalBr c e z = .done z (branchJump e.pc f taken) := by
  have hlegal : ¬ (decide (f.off32.toNat % 8 ≠ 0) || decide (2 < f.bhint.toNat)) = true := by
    simp [hoff, Nat.not_lt.mpr hhint]
  simp only [evalBr, he, brIns, ht]
  rw [if_neg hlegal, if_neg (mt (alOperands_iff f).mp hal)]
  cases taken <;> rfl

/-- A BR whose cond is reserved, and an AL with operands or a hint, are illegal (R188, R193). -/
theorem eval_br_illegal (c : CellId) (e : InFlight) (z : State) (f : BForm) (he : e.ins = brIns f)
    (h : 6 < f.cond.toNat ∨ alOperands f) : evalBr c e z = .illegal z := by
  simp only [evalBr, he, brIns]
  rcases h with h | h
  · simp only [brTaken_reserved h, ite_self]
  · rw [if_pos ((alOperands_iff f).mpr h), ite_self]

/-- AL goes as it is predicted. -/
theorem commitOf_al {c : CellId} {s : State} (h : Ready c s) (f : BForm) (h0 : f.cond = 0) :
    commitOf ((s.cell c).entry (brIns f)) (branchJump (s.cell c).npc f true) = commitCounters := by
  refine (commitOf_predicted ?_).trans (countersOf_none (entry_waited h _))
  simp [Cell.entry, Cell.predict, brIns, branchJump, h0]

/-- A legal BR retires where it leads. -/
theorem issue_br {c : CellId} {s : State} (h : Ready c s) (f : BForm) {taken : Bool} (hoff : f.off32.toNat % 8 = 0)
    (hhint : f.bhint.toNat ≤ 2) (hal : ¬ alOperands f)
    (ht : brTaken f.cond.toNat ((s.cell c).rdS f.ra) ((s.cell c).rdS f.rb) = some taken) :
    Retires (commitOf ((s.cell c).entry (brIns f)) (branchJump (s.cell c).npc f taken)) c s (s.cell c)
      (if taken then relTarget (s.cell c).npc f.off32 else nextPc (s.cell c).npc .br) (s.issue c (brIns f)) := by
  rw [← branchJump_getD]
  refine issue_jump (rd := 0) (v := 0) h rfl (show Op.br ≠ .bloop by decide) ?_
  have hsame : (s.carrying c (brIns f)).modCell c (fun x => x.wrS 0 0) = s.carrying c (brIns f) := setCell_cell _ _
  rw [hsame]
  exact eval_br c _ _ f rfl hoff hhint hal (by rw [cell_carrying, rdS_holding, rdS_holding]; exact ht)

/-! ### JAL and JALR -/

theorem eval_jal (c : CellId) (s : State) (g : SForm) (hs : sOnly g { imm := true, rd := true } = true)
    (hoff : g.imm32.toNat % 8 = 0) :
    let i : Ins := { op := .jal, f := g }
    evalOp c ((s.cell c).entry i) (s.carrying c i) =
      .done ((s.carrying c i).modCell c (fun x => x.wrS g.rd (nextPc (s.cell c).npc .jal)))
        (some (relTarget (s.cell c).npc g.imm32)) := by
  show evalJal c _ _ = _
  unfold evalJal
  simp only [entry_ins, hs, hoff, Bool.not_true, ne_eq, not_true_eq_false, decide_false, Bool.or_self,
    Bool.false_eq_true, if_false]
  rfl

/-- JALR reads its target before it writes rd (R191). -/
theorem eval_jalr (c : CellId) (s : State) (g : SForm)
    (hs : sOnly g { imm := true, func := true, rd := true, ra := true } = true) (hfunc : g.func.toNat ≤ 1)
    (hoff : ((s.cell c).rdS g.ra + g.imm32.signExtend 64).toNat % 8 = 0) :
    let i : Ins := { op := .jalr, f := g }
    evalOp c ((s.cell c).entry i) (s.carrying c i) =
      .done ((s.carrying c i).modCell c (fun x => x.wrS g.rd (nextPc (s.cell c).npc .jalr)))
        (some (pc57 ((s.cell c).rdS g.ra + g.imm32.signExtend 64))) := by
  show evalJalr c _ _ = _
  unfold evalJalr
  simp only [entry_ins, cell_carrying, memAddr, rdS_holding, hs, hoff, Nat.not_lt.mpr hfunc, Bool.not_true, ne_eq,
    not_true_eq_false, decide_false, Bool.or_self, Bool.false_eq_true, if_false, BitVec.ofNat_toNat,
    BitVec.setWidth_eq]
  rfl

/-- A JALR that returns takes its prediction from the return stack (R169, log entry 36). -/
theorem retStack_jalr (x : Cell) (g : SForm) : (x.holding { op := .jalr, f := g }).retStack =
    if g.func = 1 then x.retStack.drop 1 else x.retStack := by
  simp only [Cell.holding, Cell.predict]
  split <;> rfl

/-! ### BLOOP (R169) -/

theorem loopDone_frame (x : Cell) (pc : Word) (taken : Bool) : x.loopDone pc taken =
    { x with loops := (x.loopDone pc taken).loops, trips := (x.loopDone pc taken).trips } := by
  unfold Cell.loopDone
  cases taken <;> rfl

theorem reg_loopDone (x : Cell) (pc : Word) (taken : Bool) (o : Nat) : (x.loopDone pc taken).reg o = x.reg o := by
  rw [loopDone_frame]; rfl

/-- The loop table kept at a commit is the cell's own. -/
theorem retires_loopDone {ks : List Nat} {c : CellId} {s u : State} {x : Cell} {pc at' : Word} {taken : Bool}
    (h : Retires ks c s x pc u) :
    ∃ l r, Retires ks c s { x with loops := l, trips := r } pc (u.modCell c (fun x => x.loopDone at' taken)) := by
  obtain ⟨hcell, hreg, hcount, hothers, hframe⟩ := h
  have hz := loopDone_frame (u.cell c) at' taken
  refine ⟨((u.cell c).loopDone at' taken).loops, ((u.cell c).loopDone at' taken).trips, ?_, ?_, ?_, fun d hd => ?_, ?_⟩
  · rw [cell_modCell_self]
    generalize (u.cell c).loopDone at' taken = z at hz ⊢
    rw [hz, hcell]
  · intro o ho; rw [cell_modCell_self, reg_loopDone]; exact hreg o ho
  · rw [cell_modCell_self, reg_loopDone]; exact hcount
  · rw [cell_modCell_other _ _ hd]; exact hothers d hd
  · rw [State.modCell, State.setCell, hframe]

/-- A BLOOP whose counter is not pending, carried out as the oldest instruction: it commits, its run is kept, and
nothing follows. -/
theorem drive_bloop {c : CellId} {s s1 : State} {e e1 : InFlight} {jump : Option Word} (h : Holds c s e)
    (hop : e.ins.op = .bloop) (hev : evalOp c e s = .done s1 jump) (hl : Leaves c s e s1 e1) :
    ∃ u, Retires (commitOf e1 jump) c s1 (s1.cell c) (jump.getD (nextPc e.pc e.ins.op)) u ∧
      s.drive c = u.modCell c (fun x => x.loopDone e.pc jump.isSome) := by
  obtain ⟨u, hu, -, hc⟩ := commitHead_spec s1 c e1 jump hl.canon (countersOf_retired hl.waited) ⟨e1, hl.window⟩
    (fun p hp => hl.npc.trans (h.follows p (hl.next ▸ hp)))
  refine ⟨u, by rw [← hl.pc, ← hl.op]; exact hu, ?_⟩
  obtain ⟨hcell, hreg, -⟩ := hu
  have hlong : e1.ins.op.long = false := by rw [hl.op, hop]; rfl
  have hcommit : s1.commitHead c e1 jump true = u := by rw [hc, hlong]; rfl
  generalize ht : u.modCell c (fun x => x.loopDone e.pc jump.isSome) = t
  have hkept : t.cell c = (u.cell c).loopDone e.pc jump.isSome := by rw [← ht, cell_modCell_self]
  have hidle : (t.cell c).window = [] := by rw [hkept, loopDone_frame, hcell]
  have hctrl : bitB ((t.cell c).reg CR.SQ_CTRL) 1 = false := by
    rw [hkept, reg_loopDone, hreg _ (ctrl_not_mem_commitOf hl.waited jump), hl.ctrl]; exact h.noHalt
  have hhead : (s.cell c).head = some e := by rw [Cell.head, h.only]; rfl
  have hhead1 : (s1.cell c).head = some e1 := by rw [Cell.head, hl.window]; rfl
  have hpred : (s.cell c).mispredicted e = none := by rw [Cell.mispredicted, h.resolved.1]
  have hins : evalIns c e s = .done s1 jump := by rw [evalIns, h.noSubmit, Bool.and_false]; exact hev
  have hstep : s.stepHead c = (t, true) := by
    unfold State.stepHead
    simp only [hhead, h.runs, h.sound, h.resolved.2, hpred, hins, hhead1, Option.getD_some, hcommit, hop, ht, hctrl,
      recheck_empty hidle, Bool.not_true, Option.isSome_none, Bool.or_self, Bool.false_eq_true, if_false, if_true]
  rw [State.drive, hstep]
  show t.pump c = t
  rw [State.pump, hidle]
  rfl

/-- A legal BLOOP decrements its counter, and branches while the result is not zero. -/
theorem eval_bloop (c : CellId) (s : State) (f : BForm) (hok : bloopOk (bloopIns f).f = true) :
    let v := (s.cell c).rdS f.ra - 1
    evalOp c ((s.cell c).entry (bloopIns f)) (s.carrying c (bloopIns f)) =
      .done ((s.carrying c (bloopIns f)).modCell c (fun x => x.wrS f.ra v))
        (branchJump (s.cell c).npc f (v != 0)) := by
  show evalBloop c _ _ = _
  simp only [evalBloop, entry_ins, hok, bloopNext, cell_carrying, rdS_holding, Bool.not_true, Bool.false_eq_true,
    if_false]
  rfl

/-- A BLOOP whose counter is known is predicted to go where it goes. -/
theorem commitOf_bloop {c : CellId} {s : State} (h : Ready c s) (f : BForm) :
    commitOf ((s.cell c).entry (bloopIns f)) (branchJump (s.cell c).npc f ((s.cell c).rdS f.ra - 1 != 0)) =
      commitCounters := by
  refine (commitOf_predicted ?_).trans (countersOf_none (entry_waited h _))
  rw [branchJump_getD]
  simp only [Cell.entry, Cell.predict, counterPending_idle h.idle, bloopIns, brIns, bloopNext, Bool.false_eq_true,
    if_false]

/-- A legal BLOOP of a ready cell retires with its counter decremented, and its run is kept in the loop table. -/
theorem issue_bloop {c : CellId} {s : State} (h : Ready c s) (f : BForm) (hok : bloopOk (bloopIns f).f = true) :
    let v := (s.cell c).rdS f.ra - 1
    ∃ l r, Retires commitCounters c s { (s.cell c).wrS f.ra v with loops := l, trips := r }
      (if v != 0 then relTarget (s.cell c).npc f.off32 else nextPc (s.cell c).npc .bloop)
      (s.issue c (bloopIns f)) := by
  intro v
  obtain ⟨u, hu, hdrive⟩ := drive_bloop (carrying_holds h (bloopIns f) (fetched_short h rfl)) rfl
    (eval_bloop c s f hok) (leaves_wrS h (bloopIns f) f.ra v)
  rw [issue_ready h, hdrive, ← branchJump_getD]
  have hu := retires_wrS hu
  have hstack : ((s.cell c).holding (bloopIns f)).retStack = ((s.cell c).wrS f.ra v).retStack :=
    (wrS_retStack (s.cell c) f.ra v).symm
  rw [commitOf_bloop h f, hstack] at hu
  exact retires_loopDone hu

/-- Settles O12: each branch is evaluated to a jump (`eval_br`, `eval_jal`, `eval_jalr`, `eval_bloop`), with which it
retires (`issue_br`, `issue_jump`, `issue_bloop`); an illegal BR stays (`eval_br_illegal`). -/
theorem branchTargets : Obligations.BranchTargets := by
  unfold Obligations.BranchTargets
  intro c s f g h x a b goes ks
  refine ⟨fun e he hcond hoff hhint hbare => ?br, fun hill => ?illegal, fun hcond hb hhint hoff => ?bloop,
    fun hs hoff => ?jal, fun hs hfunc hoff => ?jalr⟩
  case br =>
    have hal : ¬ alOperands f := fun ⟨h0, hops⟩ => by
      obtain ⟨ha, hb, hd⟩ := hbare (hcond ▸ h0)
      simp [ha, hb, hd] at hops
    have ht : brTaken f.cond.toNat a b = some e.2 := hcond ▸ brTaken_of_mem he
    have hu := issue_br h f hoff hhint hal ht
    refine ⟨_, rfl, retires_mono hu (commitOf_entry_subset h _ _), fun h0 => ?_⟩
    have htaken : e.2 = true := by
      rw [hcond, h0] at ht
      exact (Option.some.inj ht).symm
    rw [htaken, commitOf_al h f (hcond.trans h0)] at hu
    obtain ⟨-, hreg, -⟩ := hu
    exact hreg _ (by decide)
  case illegal =>
    obtain ⟨q, r, ht⟩ := issue_short_illegal (i := brIns f) h rfl (eval_br_illegal c _ _ f rfl hill)
    exact ⟨_, q, r, rfl, ht⟩
  case bloop =>
    have hok : bloopOk (bloopIns f).f = true := by simp [bloopOk, bloopIns, brIns, hcond, hb, hhint, hoff]
    obtain ⟨l, r, hu⟩ := issue_bloop h f hok
    exact ⟨_, l, r, rfl, retires_mono hu (List.subset_cons_self _ _)⟩
  case jal =>
    exact ⟨_, rfl, retires_mono (issue_jump h rfl (show Op.jal ≠ .bloop by decide) (eval_jal c s g hs hoff))
      (commitOf_entry_subset h _ _)⟩
  case jalr =>
    rw [← retStack_jalr]
    exact ⟨_, rfl, retires_mono (issue_jump h rfl (show Op.jalr ≠ .bloop by decide) (eval_jalr c s g hs hfunc hoff))
      (commitOf_entry_subset h _ _)⟩

end Sys2Proof.Proofs
end

section
/-! What the sequencer does by itself: the end of a YIELD, a mispredicted loop, run-ahead, and the loan of its array. -/

namespace Sys2Proof.Proofs

open Sys2Proof.Machine Sys2Proof.Laws

/-! ### DOZE (R443) -/

/-- Cell x out of DOZE. -/
def woken (x : Cell) : Cell := { x with cp := { x.cp with st := .awake } }

/-- Only a cell in DOZE leaves it. -/
theorem endDoze_awake {s : State} {c : CellId} (h : (s.cell c).cp.st = .awake) : s.endDoze c = s := by
  rw [State.endDoze, h]

/-- The end of DOZE counts the cycles that it took. -/
theorem endDoze_doze {s : State} {c : CellId} (h : (s.cell c).cp.st = .doze) :
    s.endDoze c = (s.setCell c (woken (s.cell c))).stall c CR.CP_DOZE_CNT := by
  rw [State.endDoze, h, State.stall, State.countC, State.modCell, State.modCell, cell_setCell_self, setCell_setCell]
  rfl

theorem endDoze_frame (s : State) (c : CellId) :
    s.endDoze c = { s with cells := (s.endDoze c).cells, free := (s.endDoze c).free } := by
  unfold State.endDoze
  split <;> rfl

theorem endDoze_other (s : State) {c d : CellId} (h : d ≠ c) : (s.endDoze c).cell d = s.cell d := by
  unfold State.endDoze
  split
  · rw [cell_draw]; exact cell_modCell_other s _ h
  · rfl

/-! ### YIELD (R208, R210) -/

/-- A YIELD whose cycles number 1 to 65,535 (R208). -/
structure YieldOk (f : SForm) : Prop where
  only : sOnly f { imm := true } = true
  pos : 1 ≤ f.imm32.toNat
  lt : f.imm32.toNat < 2 ^ 16

/-- A legal YIELD waits until its cycles have run out. -/
theorem evalYield_eq {e : InFlight} (h : YieldOk e.ins.f) (c : CellId) (s : State) :
    evalYield c e s = if e.granted.isSome then .done s else .wait s := by
  have hpos : e.ins.f.imm32.toNat ≠ 0 := Nat.ne_of_gt h.pos
  simp only [evalYield, h.only, hpos, Nat.not_le.mpr h.lt, Bool.not_true, decide_false, Bool.or_self,
    Bool.false_eq_true, if_false]

/-- Instruction e as it waits. -/
def stalled (e : InFlight) : InFlight := { e with stalls := true }

/-- A ready cell dispatches a YIELD and waits in it. -/
theorem issue_yield {c : CellId} {s : State} {f : SForm} (h : Ready c s) (hf : YieldOk f) :
    let i : Ins := { op := .yield, f }
    s.issue c i = s.setCell c { s.cell c with
      window := [stalled ((s.cell c).entry i)], npc := nextPc (s.cell c).npc .yield, stuck := none } := by
  intro i
  have hev : evalOp c ((s.cell c).entry i) (s.carrying c i) = .wait (s.carrying c i) := evalYield_eq hf c _
  rw [issue_wait h (fetched_short h rfl) hev, State.modCell, carrying_setCell, cell_carrying]
  rfl

/-- YIELD e once its cycles have run out. -/
def expired (e : InFlight) : InFlight := { e with granted := some 0 }

section
variable {c : CellId} {s : State} {e : InFlight}

theorem modHead_expired (h : Holds c s e) :
    s.modCell c (fun x => x.modHead expired) = s.setCell c { s.cell c with window := [expired e] } := by
  rw [State.modCell, Cell.modHead, h.only]

/-- The cell can still carry it out. -/
theorem holds_expired (h : Holds c s e) :
    Holds c (s.setCell c { s.cell c with window := [expired e] }) (expired e) where
  runs := by rw [cell_setCell_self]; exact h.runs
  only := by rw [cell_setCell_self]
  sound := h.sound
  resolved := h.resolved
  follows := by rw [cell_setCell_self]; exact h.follows
  waited := h.waited
  noHalt := by rw [cell_setCell_self]; exact h.noHalt
  noSubmit := h.noSubmit
  canon := by rw [cell_setCell_self]; exact h.canon

/-- A YIELD whose cycles have run out goes on and retires. -/
theorem pump_expired (h : Holds c s e) (hop : e.ins.op = .yield) (hf : YieldOk e.ins.f)
    (hnext : e.next = some (nextPc e.pc .yield)) :
    Retires (countersOf e) c s (s.cell c) (nextPc e.pc .yield) ((s.modCell c (fun x => x.modHead expired)).pump c) := by
  rw [modHead_expired h]
  have hh := holds_expired h
  have hev (z : State) : evalOp c (expired e) z = .done z := by
    have hop' : (expired e).ins.op = .yield := hop
    rw [evalOp, hop']
    exact evalYield_eq (e := expired e) hf c z
  have hloop : (expired e).ins.op ≠ .bloop := by rw [expired, hop]; decide
  have htensor : (expired e).ins.op.tensor = false := by rw [expired, hop]; rfl
  have hlong : (expired e).ins.op.long = false := by rw [expired, hop]; rfl
  obtain ⟨u, hu, hp⟩ := pump_done hh hloop (.inl htensor) (hev _)
    { window := hh.only, pc := rfl, op := rfl, x := rfl, next := rfl, waited := hh.waited, npc := rfl, ctrl := rfl
      canon := hh.canon }
  have hlead : nextPc e.pc e.ins.op = nextPc e.pc .yield := by rw [hop]
  have hcommit : commitOf (expired e) none = countersOf e := commitOf_predicted (hnext.trans (congrArg some hlead.symm))
  have hu' : Retires (countersOf e) c _ _ (nextPc e.pc .yield) u := hcommit ▸ hlead ▸ hu
  rw [hp, hlong, Bool.and_false, if_neg Bool.false_ne_true]
  exact retires_over hu' (by rw [cell_setCell_self]) (fun d hd => cell_setCell_other _ _ hd) rfl

end

/-- What counting left is part of a commit that follows. -/
theorem retires_of_counts {ks ls : List Nat} {c : CellId} {s s1 u : State} {pc : Word} (h : Counts ls c s s1)
    (hret : CR.SQ_RETIRED_CNT ∉ ls) (hu : Retires ks c s1 (s1.cell c) pc u) :
    Retires (ls ++ ks) c s (s.cell c) pc u := by
  obtain ⟨hcell, hreg, -, hothers, hframe⟩ := h
  obtain ⟨ucell, ureg, uret, uothers, uframe⟩ := hu
  refine ⟨?_, fun o ho => ?_, by rw [uret, hreg _ hret], fun d hd => (uothers d hd).trans (hothers d hd), ?_⟩
  · generalize (u.cell c).regs = R at ucell ⊢
    rw [ucell, hcell]
  · rw [List.mem_append, not_or] at ho
    exact (ureg o ho.2).trans (hreg o ho.1)
  · rw [uframe, hframe]

/-- Counting keeps a cell that can carry out its instruction so. -/
theorem holds_of_counts {c : CellId} {s s1 : State} {e : InFlight} {ls : List Nat} (h : Holds c s e)
    (hs : Counts ls c s s1) (hctrl : CR.SQ_CTRL ∉ ls) : Holds c s1 e := by
  obtain ⟨hcell, hreg, hwf, -, hframe⟩ := hs
  refine ⟨?_, ?_, h.sound, h.resolved, ?_, h.waited, ?_, ?_, hwf h.canon⟩
  · rw [hcell]; exact h.runs
  · rw [hcell]; exact h.only
  · rw [hcell]; exact h.follows
  · rw [hreg _ hctrl]; exact h.noHalt
  · rw [hframe]; exact h.noSubmit

/-- The cycles run out of a YIELD that is the oldest instruction. -/
theorem yieldExpiry_eq {c : CellId} {s : State} {e : InFlight} {w : List InFlight} (hwin : (s.cell c).window = e :: w)
    (hop : e.ins.op = .yield) (hsound : e.fault = none) (hmode : (s.cell c).mode = .running) :
    s.yieldExpiry c = ((s.endDoze c).modCell c (fun x => x.modHead expired)).pump c := by
  have hhead : (s.cell c).head = some e := by rw [Cell.head, hwin]; rfl
  simp only [State.yieldExpiry, hhead, hop, hsound, hmode, Option.isNone_none, beq_self_eq_true, decide_true,
    Bool.and_self, if_true]
  rfl

/-- In a cell that is awake it retires. -/
theorem yieldExpiry_awake {c : CellId} {s : State} {e : InFlight} (h : Holds c s e) (hop : e.ins.op = .yield)
    (hf : YieldOk e.ins.f) (hnext : e.next = some (nextPc e.pc .yield)) :
    Retires (countersOf e) c s (s.cell c) (nextPc e.pc .yield) (s.yieldExpiry c) := by
  obtain ⟨hmode, hawake⟩ := running_iff.mp h.runs
  rw [yieldExpiry_eq h.only hop h.sound hmode, endDoze_awake hawake]
  exact pump_expired h hop hf hnext

/-- In one that dozes it retires too, and the cell is awake. -/
theorem yieldExpiry_doze {c : CellId} {s : State} {e : InFlight} (hdoze : (s.cell c).cp.st = .doze)
    (h : Holds c (s.setCell c (woken (s.cell c))) e) (hop : e.ins.op = .yield)
    (hf : YieldOk e.ins.f) (hnext : e.next = some (nextPc e.pc .yield)) :
    Retires (CR.CP_DOZE_CNT :: countersOf e) c s (woken (s.cell c)) (nextPc e.pc .yield) (s.yieldExpiry c) := by
  have hcell := cell_setCell_self s c (woken (s.cell c))
  have hwin := h.only
  have hmode := (running_iff.mp h.runs).1
  rw [hcell] at hwin hmode
  have hcounts := counts_stall (s.setCell c (woken (s.cell c))) c CR.CP_DOZE_CNT (ks := [CR.CP_DOZE_CNT]) (by decide)
  rw [yieldExpiry_eq hwin hop h.sound hmode, endDoze_doze hdoze]
  have hu := retires_of_counts hcounts (by decide)
    (pump_expired (holds_of_counts h hcounts (by decide)) hop hf hnext)
  exact retires_over hu (by rw [hcell]) (fun d hd => cell_setCell_other _ _ hd) rfl

/-! ### A mispredicted BLOOP (R172) -/

/-- The commit of an instruction behind which nothing is in flight, where it leads as predicted. -/
theorem commitHead_expected {s : State} {c : CellId} {e f : InFlight} {p : Word} (hnext : e.next = some p)
    (hwin : (s.cell c).window = [f]) (hwait : e.waited ≠ some CR.SQ_RETIRED_CNT) :
    let t := s.commitHead c e (some p) false
    t.cell c = { s.cell c with regs := (t.cell c).regs, window := [], runahead := none, stuck := none } ∧
      ∀ d, d ≠ c → t.cell d = s.cell d := by
  intro t
  obtain ⟨hcell, -, -, hothers, -⟩ := (countCommit_spec s c e hwait).1
  have hwin' : ((s.countCommit c e).cell c).window = [f] := by rw [hcell]; exact hwin
  have ht : t = (s.countCommit c e).modCell c (fun x =>
      let rest := settleSpec (x.window.drop 1)
      { (if rest.isEmpty then { x with runahead := none, stuck := none } else x) with window := rest }) := by
    simp only [t, State.commitHead, hnext, Option.getD_some, if_true, Bool.false_and, Bool.false_eq_true, if_false]
  rw [ht]
  refine ⟨?_, fun d hd => (cell_modCell_other _ _ hd).trans (hothers d hd)⟩
  rw [cell_modCell_self]
  simp only [hwin', List.drop_one, List.tail_cons, settleSpec, List.isEmpty_nil, if_true]
  generalize ((s.countCommit c e).cell c).regs = R at hcell
  rw [hcell]

/-- Cell x once the BLOOP e, its oldest instruction, has been found to lead to p: what follows it is discarded, its
counter is decremented, and its run is kept (R169, R172). -/
def resolveLoop (e : InFlight) (p : Word) (x : Cell) : Cell :=
  let x := (x.countDiscard (x.window.drop 1)).count CR.SQ_BR_MISPRED_CNT
  let r := bloopNext x e.ins.f
  let x := (x.discardAfterHead p).wrS e.ins.f.ra r.1
  (x.loopDone e.pc r.2).modHead (fun e => { e with wrong := none, pred := none, next := some p })

theorem countDiscard_frame (x : Cell) (w : List InFlight) :
    x.countDiscard w = { x with regs := (x.countDiscard w).regs } := by
  unfold Cell.countDiscard
  split <;> rfl

theorem wrS_frame (x : Cell) (n : BitVec 5) (v : Word) : x.wrS n v = { x with s := (x.wrS n v).s } := by
  unfold Cell.wrS
  split <;> rfl

/-- A write of a scalar register looks at the scalar registers alone. -/
theorem wrS_s_congr {x y : Cell} (h : y.s = x.s) (n : BitVec 5) (v : Word) : (y.wrS n v).s = (x.wrS n v).s := by
  unfold Cell.wrS
  simp only [apply_ite Cell.s, h]

/-- Cell x with the registers R, where e is the only instruction in flight and fetch goes on at p. -/
def discarded (x : Cell) (R : SMap Word) (e : InFlight) (p : Word) : Cell :=
  { x with regs := R, window := [e], npc := p, runahead := none, stuck := none }

theorem discardAfterHead_eq {x : Cell} {e : InFlight} {w : List InFlight} (hwin : x.window = e :: w) (p : Word) :
    ∃ R, ((x.countDiscard (x.window.drop 1)).count CR.SQ_BR_MISPRED_CNT).discardAfterHead p = discarded x R e p := by
  rw [Cell.count, Cell.setReg, countDiscard_frame]
  simp only [Cell.discardAfterHead, hwin]
  exact ⟨_, rfl⟩

/-- What the end of a run of the BLOOP leaves of a cell y that has the scalar registers of x. -/
theorem looped_frame {x y : Cell} {e : InFlight} (hs : y.s = x.s) (hwin : y.window = [e]) (n : BitVec 5) (v pc : Word)
    (taken : Bool) (g : InFlight → InFlight) : ∃ l r, ((y.wrS n v).loopDone pc taken).modHead g =
      { y with s := (x.wrS n v).s, window := [g e], loops := l, trips := r } := by
  have hloop := loopDone_frame (y.wrS n v) pc taken
  rw [wrS_frame y, wrS_s_congr hs] at hloop
  rw [wrS_frame y, wrS_s_congr hs, hloop]
  simp only [Cell.modHead, hwin]
  exact ⟨_, _, rfl⟩

theorem resolveLoop_frame {x : Cell} {e : InFlight} {w : List InFlight} (hwin : x.window = e :: w) (p : Word) :
    ∃ R l r, resolveLoop e p x = { x with
      regs := R, s := (x.wrS e.ins.f.ra (x.rdS e.ins.f.ra - 1)).s, npc := p
      window := [{ e with wrong := none, pred := none, next := some p }], runahead := none, stuck := none
      loops := l, trips := r } := by
  obtain ⟨R, hdiscard⟩ := discardAfterHead_eq hwin p
  have hread : bloopNext ((x.countDiscard (x.window.drop 1)).count CR.SQ_BR_MISPRED_CNT) e.ins.f =
      bloopNext x e.ins.f := by
    rw [Cell.count, Cell.setReg, countDiscard_frame]; rfl
  rw [resolveLoop, hread, hdiscard]
  exact ⟨R, looped_frame (x := x) (y := discarded x R e p) (e := e) rfl rfl _ _ _ _ _⟩

/-- A BLOOP found mispredicted is resolved and commits. -/
theorem loopMispredict_eq {s : State} {c : CellId} {e : InFlight} {w : List InFlight} {p : Word}
    (hwin : (s.cell c).window = e :: w) (hwrong : e.wrong = some p) :
    s.loopMispredict c = (s.modCell c (resolveLoop e p)).commitHead c { e with next := some p } (some p) false := by
  have hhead : (s.cell c).head = some e := by rw [Cell.head, hwin]; rfl
  simp only [State.loopMispredict, hhead, hwrong]
  rfl

/-- It leaves the cell with nothing in flight, its counter decremented, and fetch where the loop leads. -/
theorem loopMispredict_spec {s : State} {c : CellId} {e : InFlight} {w : List InFlight} {p : Word}
    (hwin : (s.cell c).window = e :: w) (hwrong : e.wrong = some p) (hwait : e.waited = none) :
    let x := s.cell c
    let t := s.loopMispredict c
    (∃ R l r, t.cell c = { x with
      regs := R, s := (x.wrS e.ins.f.ra (x.rdS e.ins.f.ra - 1)).s, npc := p
      window := [], runahead := none, stuck := none
      loops := l, trips := r }) ∧ ∀ d, d ≠ c → t.cell d = s.cell d := by
  intro x t
  obtain ⟨R, l, r, hy⟩ := resolveLoop_frame hwin p
  have hcell : (s.modCell c (resolveLoop e p)).cell c = resolveLoop e p x := cell_modCell_self _ _ _
  obtain ⟨ht, hothers⟩ := commitHead_expected (s := s.modCell c (resolveLoop e p)) (c := c)
    (e := { e with next := some p }) rfl (by rw [hcell, hy]) (show e.waited ≠ _ by rw [hwait]; exact nofun)
  rw [← loopMispredict_eq hwin hwrong] at ht hothers
  rw [hcell, hy] at ht
  exact ⟨⟨_, l, r, ht⟩, fun d hd => (hothers d hd).trans (cell_modCell_other _ _ hd)⟩

/-! ### Run-ahead (R174) -/

/-- An instruction that writes no register spoils none. -/
theorem spoil_of_not_writes {i : Ins} (h : ∀ r, i.writes r = false) (r : RunAhead) : r.spoil i = r := by
  unfold RunAhead.spoil
  simp only [h, Bool.false_eq_true, if_false]
  exact List.foldl_fixed _

/-- The shadow registers behind a SEMWAIT are the registers. -/
theorem shadow_semwait {x : Cell} {e : InFlight} (hwin : x.window = [e]) (hop : e.ins.op = .semwait) :
    x.shadow.regs = x.s.toList.map some := by
  have hw (r : BitVec 5) : e.ins.writes r = false := by simp [Ins.writes, hop]
  have hscalar (r : RunAhead) : r.scalar e.ins = none := by simp [RunAhead.scalar, hop]
  simp only [Cell.shadow, hwin, List.foldl_cons, List.foldl_nil, RunAhead.take, hscalar, hop, spoil_of_not_writes hw]

/-- Run-ahead begins behind a SEMWAIT that waits. -/
theorem enterRunAhead_semwait {s : State} {c : CellId} {e : InFlight} (hruns : (s.cell c).running = true)
    (hwin : (s.cell c).window = [e]) (hsound : e.fault = none) (hwrong : e.wrong = none) (hop : e.ins.op = .semwait)
    (hwait : e.waited.isSome = true) (hnext : e.next.isSome = true) (hnormal : (s.cell c).runahead = none)
    (hon : bitB ((s.cell c).reg CR.SQ_CTRL) 5 = true) (hout : (s.cell c).inHandler = false) :
    s.enterRunAhead c =
      s.setCell c { (s.cell c).count CR.SQ_RA_ENTRY_CNT with runahead := some (s.cell c).shadow } := by
  have hhead : (s.cell c).head = some e := by rw [Cell.head, hwin]; rfl
  have hstall : s.raStalled c = true := by
    simp [State.raStalled, Cell.stallsAtHead, hhead, hsound, hwrong, hop, hwait, Op.stalling]
  have hfetch : (s.cell c).fetchHeld = false := by
    simp [Cell.fetchHeld, hwin, hop, Op.ser, Option.isNone_eq_false_iff, hnext]
  rw [State.enterRunAhead]
  simp only [hruns, hnormal, hstall, hon, hout, hfetch, Option.isNone_none, Bool.not_false, Bool.and_self, if_true]

/-! ### The loan of the array (R185, R186) -/

/-- What the loan of an array counts for the unit of its band, which is no longer starved (R334). -/
def unitLends (k : Nat) (s : State) : State := (s.count (FR.HV_U_LEND_CNT k)).clrFreg (FR.HV_U_STATUS k) 8

theorem unitLends_cell (k : Nat) (s : State) (c : CellId) : (unitLends k s).cell c = s.cell c := rfl

/-- Cell x once its array is lent. -/
def lends (x : Cell) : Cell := { x.count CR.SQ_LEND_CNT with lent := true }

/-- An array that can be lent is lent. -/
theorem execArrayLend_lendable {s : State} {c : CellId} (h : (s.cell c).lendable = true) : execArrayLend c s =
    .next (unitLends (c.val / 16) ((s.endDoze c).modCell c lends)) := by
  simp only [execArrayLend, State.lendArray, h, if_true]
  rfl

theorem unitLends_freg (k : Nat) (s : State) {a : Nat} (h1 : a ≠ FR.HV_U_LEND_CNT k) (h2 : a ≠ FR.HV_U_STATUS k) :
    (unitLends k s).freg a = s.freg a :=
  (freg_setFreg_other _ _ h2).trans (freg_setFreg_other s _ h1)

theorem freg_endDoze (s : State) (c : CellId) (a : Nat) : (s.endDoze c).freg a = s.freg a := by
  rw [endDoze_frame]; rfl

/-- Settles O27: a YIELD waits (`issue_yield`) and ends (`yieldExpiry_awake`, `yieldExpiry_doze`), a mispredicted BLOOP
commits where it leads (`loopMispredict_spec`), run-ahead begins (`enterRunAhead_semwait`) and stops, and the array is
lent (`execArrayLend_lendable`) and comes back. -/
theorem yieldsLoopsAndLoans : Obligations.YieldsLoopsAndLoans := by
  unfold Obligations.YieldsLoopsAndLoans
  intro c s f x
  refine ⟨fun h hs h1 h2 => ?yield, fun e hop hs h1 h2 hnext => ⟨fun h => ?expiry, fun hdoze h => ?expiryDoze⟩,
    fun e w p hwin hwrong hop hwait => ?loop,
    fun e hruns hwin hsound hwrong hop hwait hnext hnormal hon hout => ?entry, fun r hr hcount => ?limit,
    fun hlend => ?lend, fun hlent hwant => ?back⟩
  case yield =>
    refine ⟨s.issue c { op := .yield, f }, stalled (x.entry { op := .yield, f }), rfl, ?_⟩
    rw [issue_yield h ⟨hs, h1, h2⟩, cell_setCell_self]
    exact ⟨rfl, rfl, rfl, fetched_short h rfl, rfl⟩
  case expiry => exact ⟨_, rfl, yieldExpiry_awake h hop ⟨hs, h1, h2⟩ hnext⟩
  case expiryDoze => exact ⟨_, rfl, yieldExpiry_doze hdoze h hop ⟨hs, h1, h2⟩ hnext⟩
  case loop =>
    obtain ⟨⟨R, l, r, ht⟩, hothers⟩ := loopMispredict_spec hwin hwrong hwait
    refine ⟨s.loopMispredict c, rfl, hothers, ?_⟩
    rw [ht]
    exact ⟨rfl, rfl, rfl, rfl, rfl⟩
  case entry =>
    exact ⟨_, x.shadow, rfl, enterRunAhead_semwait hruns hwin hsound hwrong hop hwait hnext hnormal hon hout, rfl, rfl,
      shadow_semwait hwin hop⟩
  case limit =>
    refine ⟨s.limitRunAhead c, rfl, ?_⟩
    rw [State.limitRunAhead, hr]
    exact if_pos hcount
  case lend =>
    refine ⟨_, execArrayLend_lendable hlend, ?frame, fun h => ?awake, fun h => ?doze, fun d hd => ?others,
      fun a h1 h2 => ?freg⟩
    case frame =>
      have hframe := endDoze_frame s c
      generalize s.endDoze c = u at hframe ⊢
      rw [hframe]; rfl
    case awake => rw [unitLends_cell, cell_modCell_self, endDoze_awake h]; rfl
    case doze =>
      rw [unitLends_cell, cell_modCell_self, endDoze_doze h, State.stall, cell_draw, State.countC, cell_modCell_self,
        cell_setCell_self]
      rfl
    case others => exact (cell_modCell_other _ lends hd).trans (endDoze_other s hd)
    case freg => exact (unitLends_freg _ _ h1 h2).trans (freg_endDoze s c a)
  case back =>
    refine ⟨s.returnArray c, rfl, ?_⟩
    rw [State.returnArray]
    exact if_pos (by rw [Bool.and_eq_true]; exact ⟨hlent, hwant⟩)

end Sys2Proof.Proofs
end

section
/-! Stream transfers: how SXGO starts one, in a free slot or after it has waited for one, and how a finished one leaves
its slot. -/

namespace Sys2Proof.Proofs

open Sys2Proof.Machine Sys2Proof.Laws

/-! ### Slots and semaphores -/

@[simp] theorem slot_setSlot_self (x : Cell) (n : Fin 6) (t : Option Transfer) : (x.setSlot n t).slot n = t := by
  simp [Cell.slot, Cell.setSlot]

@[simp] theorem sem_setSem_self (x : Cell) (k : BitVec 6) (m : Sem) : (x.setSem k m).sem k = m := by
  simp [Cell.sem, Cell.setSem]

@[simp] theorem slot_setSem (x : Cell) (k : BitVec 6) (m : Sem) (n : Fin 6) : (x.setSem k m).slot n = x.slot n := rfl
@[simp] theorem slot_count (x : Cell) (o v : Nat) (n : Fin 6) : (x.count o v).slot n = x.slot n := rfl

/-- The free slot that a transfer takes is the lowest one. -/
theorem freeSlot_lowest {x : Cell} {n : Fin 6} (hn : x.slot n = none) (hlow : ∀ m, m < n → x.slot m ≠ none) :
    x.freeSlot = some n := by
  refine List.find?_eq_some_iff_getElem.mpr ⟨by rw [hn]; rfl, n, by simp, by simp, fun j hj => ?_⟩
  have hm : x.slot ⟨j, by omega⟩ ≠ none := hlow _ hj
  simpa [Option.isSome_iff_ne_none] using hm

theorem freeSlot_full {x : Cell} (h : ∀ n, x.slot n ≠ none) : x.freeSlot = none :=
  List.find?_eq_none.mpr fun n _ => by simpa using h n

/-! ### Errors of OC -/

/-- Instruction e once it has met its OC errors. -/
def metOc (e : InFlight) : InFlight :=
  { e with ins := { e.ins with u := { e.ins.u with ocCorrected := 0, ocBad := [] } } }

theorem upsetCell_head {s : State} {c : CellId} {e : InFlight} (h : (s.cell c).window = [e]) (u : Upset) :
    s.upsetCell c u = { (s.cell c).ocErrors u with window := [metOc e] } := by
  unfold State.upsetCell State.ocUpset
  rw [cell_modCell_self, Cell.modHead]
  have hw : ((s.cell c).ocErrors u).window = [e] := h
  rw [hw]
  rfl

/-- Without an error only the counters of errors are written, with what they held. -/
theorem ocErrors_none (x : Cell) : x.ocErrors {} = { x with regs := (x.ocErrors {}).regs } := rfl

/-! ### SXGO (R197, R288) -/

/-- An SXGO of cell c on descriptor d that SX accepts, and that names no auxiliary record. -/
structure StreamLegal (c : CellId) (f : SForm) (x : LForm) (d : Desc) : Prop where
  short : sOnly f {} = true
  long : lOnly x { dsel := true } = true
  noAux : d.getLsbD 484 = false
  accepted : streamOk c.val d.toNat 0 = true

/-- The transfer of such an SXGO as it begins. -/
def freshTransfer (x : LForm) (d : Desc) : Transfer := { desc := d, pen := x.pen, psem := x.psem }

/-- Without an auxiliary record a transfer starts at its first element (R287, R305). -/
theorem acceptTransfer_freshTransfer (draw : Nat) (x : LForm) {d : Desc} (h : bitB d.toNat 484 = false) :
    acceptTransfer draw d 0 x.pen x.psem = freshTransfer x d := by
  simp only [acceptTransfer, startPos, h, Bool.false_and, Bool.false_eq_true, if_false, Nat.zero_mul, Nat.zero_div,
    Nat.zero_mod]
  rfl

/-- What SX does with such an SXGO, which has met its OC errors: it starts the transfer where a slot is free (R283). -/
def offerTransfer (c : CellId) (x : LForm) (s : State) : Eval :=
  let y := s.cell c
  match y.freeSlot with
  | none => .wait s (some CR.SX_STALL_QFULL_CNT)
  | some n => .done (s.setCell c (y.setSlot n (some (freshTransfer x (y.rdD x.dsel))))).draw none false

theorem offerTransfer_full {c : CellId} {s : State} (x : LForm) (h : (s.cell c).freeSlot = none) :
    offerTransfer c x s = .wait s (some CR.SX_STALL_QFULL_CNT) := by
  simp only [offerTransfer, h]

theorem offerTransfer_free {c : CellId} {s : State} {n : Fin 6} (x : LForm) (h : (s.cell c).freeSlot = some n) :
    offerTransfer c x s =
      .done (s.setCell c ((s.cell c).setSlot n (some (freshTransfer x ((s.cell c).rdD x.dsel))))).draw none false := by
  simp only [offerTransfer, h]

/-- A legal SXGO passes every check of R288. -/
theorem evalSxgo_legal {c : CellId} {e : InFlight} {s : State}
    (h : StreamLegal c e.ins.f e.ins.x ((s.upsetCell c e.ins.u).rdD e.ins.x.dsel)) :
    evalSxgo c e s = offerTransfer c e.ins.x (s.ocUpset c e.ins.u) := by
  have hcell : (s.ocUpset c e.ins.u).cell c = s.upsetCell c e.ins.u := rfl
  have haux : bitB ((s.upsetCell c e.ins.u).rdD e.ins.x.dsel).toNat 484 = false :=
    (bitB_eq_testBit _ _).trans h.noAux
  have hok : streamOk c.val ((s.upsetCell c e.ins.u).rdD e.ins.x.dsel).toNat (0 : Desc).toNat = true :=
    (congrArg _ BitVec.toNat_zero).trans h.accepted
  simp only [evalSxgo, hcell, h.short, h.long, haux, hok, Bool.not_true, Bool.or_self, Bool.false_and,
    Bool.false_eq_true, if_false, acceptTransfer_freshTransfer _ _ haux]
  rfl

/-! ### A ready cell that dispatches SXGO -/

section
variable {c : CellId} {s : State} {f : SForm} {x : LForm} {u : Upset}

/-- SXGO as it is dispatched. -/
def sxgoIns (f : SForm) (x : LForm) (u : Upset) : Ins := { op := .sxgo, f, x, u }

theorem plain_sxgo : Op.plain Op.sxgo := by unfold Op.plain; decide

/-- Its evaluation, told from the cell before it was dispatched. -/
theorem evalSxgo_carrying (h : Ready c s) (hlegal : StreamLegal c f x ((s.upsetCell c u).rdD x.dsel)) :
    evalOp c ((s.cell c).entry (sxgoIns f x u)) (s.carrying c (sxgoIns f x u)) =
      offerTransfer c x (s.setCell c (atWork s c (sxgoIns f x u) (s.upsetCell c u))) := by
  have hup : (s.carrying c (sxgoIns f x u)).ocUpset c u =
      s.setCell c (atWork s c (sxgoIns f x u) (s.upsetCell c u)) := ocUpset_carrying h (sxgoIns f x u) plain_sxgo
  rw [← hup]
  refine evalSxgo_legal (e := (s.cell c).entry (sxgoIns f x u)) ?_
  show StreamLegal c f x (Cell.rdD (((s.carrying c (sxgoIns f x u)).ocUpset c u).cell c) x.dsel)
  rw [hup, cell_setCell_self]
  exact hlegal

/-- Errors of OC take no slot and free none. -/
theorem slot_upsetCell (h : (s.cell c).window = []) (n : Fin 6) : (s.upsetCell c u).slot n = (s.cell c).slot n := by
  rw [upsetCell_idle h]; rfl

/-- With a slot free it starts its transfer there and retires. -/
theorem issue_sxgo_starts {n : Fin 6} (h : ReadyLong c s)
    (hlegal : StreamLegal c f x ((s.upsetCell c u).rdD x.dsel))
    (hn : (s.cell c).slot n = none) (hlow : ∀ m, m < n → (s.cell c).slot m ≠ none) :
    let y := s.upsetCell c u
    Retires commitCounters c s (y.setSlot n (some (freshTransfer x (y.rdD x.dsel)))) (nextPc (s.cell c).npc .sxgo)
      (s.issue c (sxgoIns f x u)) := by
  intro y
  have hfree : y.freeSlot = some n := freeSlot_lowest (by rw [slot_upsetCell h.idle]; exact hn)
    (fun m hm => by rw [slot_upsetCell h.idle]; exact hlow m hm)
  have hev := evalSxgo_carrying h.toReady hlegal
  rw [offerTransfer_free (n := n) x (by rw [cell_setCell_self]; exact hfree), cell_setCell_self, setCell_setCell] at hev
  have hidle : y = (s.cell c).ocErrors u := upsetCell_idle h.idle u
  have hctrl : y.reg CR.SQ_CTRL = (s.cell c).reg CR.SQ_CTRL := by rw [hidle]; exact reg_ocErrors _ _ (by decide)
  have hcanon : SMap.wf cellResetVal y.regs = true := by rw [hidle]; exact wf_ocErrors _ _ h.canon
  obtain ⟨t, ht, hi⟩ := issue_plain (e := metEntry (s.cell c) (sxgoIns f x u))
    (z := y.setSlot n (some (freshTransfer x (y.rdD x.dsel)))) h.toReady (fetched_long h _) plain_sxgo hev rfl
    (fun d hd => cell_setCell_other s _ hd) (cell_setCell_self s c _) rfl rfl rfl rfl
    (entry_waited h.toReady _) hctrl hcanon
  rw [hi]
  exact ht

/-- With every slot in use it stays in flight and waits. -/
theorem issue_sxgo_waits (h : ReadyLong c s) (hlegal : StreamLegal c f x ((s.upsetCell c u).rdD x.dsel))
    (hfull : ∀ m, (s.cell c).slot m ≠ none) :
    let i := sxgoIns f x u
    s.issue c i = s.setCell c { s.upsetCell c u with
      window := [{ metEntry (s.cell c) i with waited := some CR.SX_STALL_QFULL_CNT, stalls := true }]
      npc := ((s.cell c).holding i).npc, stuck := none } := by
  intro i
  have hfree : (s.upsetCell c u).freeSlot = none := freeSlot_full fun m => by
    rw [slot_upsetCell h.idle]; exact hfull m
  have hev := evalSxgo_carrying h.toReady hlegal
  rw [offerTransfer_full x (by rw [cell_setCell_self]; exact hfree)] at hev
  rw [issue_wait h.toReady (fetched_long h _) hev, State.modCell, cell_setCell_self, setCell_setCell]
  rfl

end

/-! ### An SXGO that waits in its queue -/

section
variable {c : CellId} {s : State} {e : InFlight} {n : Fin 6}

/-- SX accepts the SXGO that waits as soon as a slot is free (R283). -/
theorem drive_sxgo (h : Holds c s e) (hop : e.ins.op = .sxgo) (hnext : e.next = some (nextPc e.pc .sxgo))
    (hlegal : StreamLegal c e.ins.f e.ins.x ((s.cell c).rdD e.ins.x.dsel))
    (hn : (s.cell c).slot n = none) (hlow : ∀ m, m < n → (s.cell c).slot m ≠ none) :
    let y := s.upsetCell c e.ins.u
    Retires (countersOf e) c s (y.setSlot n (some (freshTransfer e.ins.x (y.rdD e.ins.x.dsel)))) (nextPc e.pc .sxgo)
      (s.drive c) := by
  intro y
  have hy : y = { (s.cell c).ocErrors e.ins.u with window := [metOc e] } := upsetCell_head h.only _
  have hslot (m : Fin 6) : y.slot m = (s.cell c).slot m := by rw [hy]; rfl
  have hfree : y.freeSlot = some n := freeSlot_lowest ((hslot n).trans hn)
    (fun m hm => by rw [hslot]; exact hlow m hm)
  have hev : evalOp c e s = .done ((s.ocUpset c e.ins.u).setCell c
      (y.setSlot n (some (freshTransfer e.ins.x (y.rdD e.ins.x.dsel))))).draw none false := by
    rw [evalOp, hop]
    exact (evalSxgo_legal (show StreamLegal c e.ins.f e.ins.x (y.rdD e.ins.x.dsel) by rw [hy]; exact hlegal)).trans
      (offerTransfer_free _ hfree)
  obtain ⟨t, ht, hdrive⟩ := drive_done (e1 := metOc e) h (by rw [hop]; decide) hev
    { window := by rw [cell_draw, cell_setCell_self, hy]; rfl, pc := rfl, op := rfl, x := rfl, next := rfl
      waited := h.waited
      npc := by rw [cell_draw, cell_setCell_self, hy]; rfl
      ctrl := by rw [cell_draw, cell_setCell_self, hy]; exact reg_ocErrors _ _ (by decide)
      canon := by rw [cell_draw, cell_setCell_self, hy]; exact wf_ocErrors _ _ h.canon }
  have hlead : nextPc e.pc e.ins.op = nextPc e.pc .sxgo := by rw [hop]
  have hcommit : commitOf (metOc e) none = countersOf e :=
    commitOf_predicted (e := metOc e) (hnext.trans (congrArg some hlead.symm))
  rw [hcommit, Option.getD_none, hlead] at ht
  rw [hdrive]
  exact retires_over ht (by rw [cell_draw, cell_setCell_self])
    (fun d hd => (cell_setCell_other _ _ hd).trans (cell_modCell_other _ _ hd)) rfl

end

/-! ### The end of a transfer (R291) -/

section
variable {c : CellId} {s : State} {n : Fin 6} {r : Transfer}

/-- Nobody goes on in a cell with nothing in flight. -/
theorem pump_idle (h : (s.cell c).window = []) : s.pump c = s := by
  rw [State.pump, h]; rfl

/-- Cell x once the transfer in slot n has ended. -/
def releaseSlot (x : Cell) (n : Fin 6) : Cell := (x.setSlot n none).count CR.SX_DESC_DONE_CNT

@[simp] theorem releaseSlot_sem (x : Cell) (n : Fin 6) (k : BitVec 6) : (releaseSlot x n).sem k = x.sem k := rfl
@[simp] theorem releaseSlot_cp (x : Cell) (n : Fin 6) : (releaseSlot x n).cp = x.cp := rfl
@[simp] theorem releaseSlot_slot (x : Cell) (n : Fin 6) : (releaseSlot x n).slot n = none := slot_setSlot_self x n none

theorem releaseSlot_done (x : Cell) (n : Fin 6) (hw : SMap.wf cellResetVal x.regs = true) :
    (releaseSlot x n).reg CR.SX_DESC_DONE_CNT = (x.reg CR.SX_DESC_DONE_CNT + 1) % 2 ^ 64 :=
  reg_count_self (x.setSlot n none) _ 1 hw

/-- A finished transfer leaves its slot and is counted, and its post is made. -/
theorem sxComplete_finished (hslot : (s.cell c).slot n = some r) (hst : r.st = .running) (hfin : r.finished = true) :
    s.sxComplete c n = (s.setCell c (releaseSlot (s.cell c) n)).completionPost c r.pen r.psem := by
  simp only [State.sxComplete, hslot, hst, hfin, decide_true, Bool.and_self, if_true]
  rfl

/-- Without an instruction in flight nothing more follows. -/
theorem transferComplete_finished (hidle : (s.cell c).window = []) (hslot : (s.cell c).slot n = some r)
    (hst : r.st = .running) (hfin : r.finished = true) :
    execSxTransferComplete c n s =
      .next ((s.setCell c (releaseSlot (s.cell c) n)).completionPost c r.pen r.psem) := by
  have hwin : (((s.setCell c (releaseSlot (s.cell c) n)).completionPost c r.pen r.psem).cell c).window = [] :=
    (quiet_completionPost c c _ r.pen r.psem).1 (by rw [cell_setCell_self]; exact hidle)
  rw [execSxTransferComplete, sxComplete_finished hslot hst hfin, pump_idle hwin]

/-- Cell x once a post of v has been added to a semaphore that has room for it. -/
def posted (x : Cell) (k : BitVec 6) (v : Nat) : Cell :=
  (x.count CR.SEM_POST_CNT).setSem k { x.sem k with count := BitVec.ofNat 16 ((x.sem k).count.toNat + v) }

/-- A post counts, and changes no other register. -/
theorem posted_reg (x : Cell) (k : BitVec 6) (v : Nat) {o : Nat} (h : o ≠ CR.SEM_POST_CNT) :
    (posted x k v).reg o = x.reg o := reg_count_other x 1 h

theorem addPost_fits {k : BitVec 6} {v : Nat} (hroom : ((s.cell c).sem k).count.toNat + v ≤ 65535) :
    s.addPost c k v = s.setCell c (posted (s.cell c) k v) := by
  have hfits : (((s.cell c).count CR.SEM_POST_CNT).sem k).count.toNat + v ≤ 65535 := hroom
  rw [State.addPost, if_pos hfits]
  rfl

/-- A post to a cell that is awake, at a semaphore without an ovf mark that has room for it (R279). -/
theorem post_fits {k : BitVec 6} {v : Nat} (hreset : (s.cell c).cp.goal.reset = false)
    (hawake : (s.cell c).cp.st = .awake) (hovf : ((s.cell c).sem k).ovf = false)
    (hroom : ((s.cell c).sem k).count.toNat + v ≤ 65535) :
    s.post c k v = s.setCell c (posted (s.cell c) k v) := by
  have hin : (s.cell c).inReset = false := hreset
  rw [State.post, hawake]
  simp only [hin, Bool.false_eq_true, if_false, endDoze_awake hawake, addPost_fits hroom, cell_setCell_self, posted,
    sem_setSem_self, hovf]

end

/-- Settles O17: SXGO is evaluated once (`evalSxgo_legal`), starts its transfer in the lowest free slot
(`issue_sxgo_starts`, `drive_sxgo`) or waits for one (`issue_sxgo_waits`); a finished transfer leaves its slot
(`transferComplete_finished`), and its post fits (`post_fits`). -/
theorem transfersStartAndEnd : Obligations.TransfersStartAndEnd := by
  unfold Obligations.TransfersStartAndEnd
  intro c s n
  refine ⟨fun f x u h ⟨hs, hl, haux, hok⟩ => ⟨fun hn hlow => ?starts, fun hfull => ?waits⟩,
    fun e h hop hu ⟨hs, hl, haux, hok⟩ hnext hn hlow => ?accepts, fun r hidle hslot hst hfin hpen => ?silent,
    fun r hidle hslot hst hfin hpen hreset hawake hovf hroom hcanon => ?posts⟩
  case starts => exact ⟨_, rfl, issue_sxgo_starts h ⟨hs, hl, haux, hok⟩ hn hlow⟩
  case waits =>
    refine ⟨s.issue c (sxgoIns f x u),
      { metEntry (s.cell c) (sxgoIns f x u) with waited := some CR.SX_STALL_QFULL_CNT, stalls := true }, rfl, ?_⟩
    rw [issue_sxgo_waits h ⟨hs, hl, haux, hok⟩ hfull, cell_setCell_self]
    refine ⟨rfl, fetched_long h _, rfl, rfl, ?_, fun d hd => cell_setCell_other _ _ hd⟩
    rw [upsetCell_idle h.idle]
    rfl
  case accepts =>
    obtain ⟨hcell, -, -, hothers, -⟩ := drive_sxgo h hop hnext ⟨hs, hl, haux, hok⟩ hn hlow
    refine ⟨s.drive c, ?_, hothers, ?_⟩
    · have hhead : (s.cell c).head = some e := by rw [Cell.head, h.only]; rfl
      show execSxAccept c s = .next (s.drive c)
      simp only [execSxAccept, hhead, hop, if_true]
    · rw [upsetCell_head h.only, hu, ocErrors_none] at hcell
      exact hcell
  case silent =>
    refine ⟨_, transferComplete_finished hidle hslot hst hfin, ?_⟩
    rw [hpen]
    rfl
  case posts =>
    refine ⟨_, transferComplete_finished hidle hslot hst hfin, ?_⟩
    rw [hpen, State.completionPost, if_pos rfl, post_fits (by simpa using hreset) (by simpa using hawake)
      (by simpa using hovf) (by simpa using hroom), cell_setCell_self, cell_setCell_self]
    exact ⟨by simp [posted], (posted_reg _ _ _ (by decide)).trans (releaseSlot_done _ _ hcanon),
      by simp [posted, BitVec.ofNat_add]⟩

end Sys2Proof.Proofs
end

section
/-! Writes to the registers of the floor die through a port, and the fields of what they leave. -/

namespace Sys2Proof.Proofs

open Sys2Proof.Machine Sys2Proof.Laws

/-! ### Bits under a mask -/

theorem add_eq_or_of_and_eq_zero {x y : Nat} (h : x &&& y = 0) : x + y = x ||| y := by
  obtain ⟨w, hw⟩ : ∃ w, x + y < 2 ^ w := ⟨x + y, Nat.lt_two_pow_self⟩
  have hx : x < 2 ^ w := by omega
  have hy : y < 2 ^ w := by omega
  have hxy : BitVec.ofNat w x &&& BitVec.ofNat w y = 0#w := by rw [← BitVec.ofNat_and, h]
  have hsum := congrArg BitVec.toNat (BitVec.add_eq_or_of_and_eq_zero _ _ hxy)
  rwa [BitVec.toNat_add, BitVec.toNat_or, BitVec.toNat_ofNat, BitVec.toNat_ofNat, Nat.mod_eq_of_lt hx,
    Nat.mod_eq_of_lt hy, Nat.mod_eq_of_lt hw] at hsum

/-- The bits of a mask taken from a number. -/
theorem sub_and_eq_ldiff (x m : Nat) : x - (x &&& m) = Nat.ldiff x m := by
  have hdisj : Nat.ldiff x m &&& (x &&& m) = 0 := by
    refine Nat.eq_of_testBit_eq fun i => ?_
    simp only [Nat.testBit_and, Nat.testBit_ldiff, Nat.zero_testBit]
    cases m.testBit i <;> simp
  have hjoin : Nat.ldiff x m ||| (x &&& m) = x := by
    refine Nat.eq_of_testBit_eq fun i => ?_
    simp only [Nat.testBit_or, Nat.testBit_and, Nat.testBit_ldiff]
    cases m.testBit i <;> simp
  have hsum := add_eq_or_of_and_eq_zero hdisj
  omega

/-- The bits of a mask replaced by those of v. -/
theorem testBit_sub_and_add (x v m i : Nat) :
    (x - (x &&& m) + (v &&& m)).testBit i = if m.testBit i then v.testBit i else x.testBit i := by
  have hdisj : Nat.ldiff x m &&& (v &&& m) = 0 := by
    refine Nat.eq_of_testBit_eq fun i => ?_
    simp only [Nat.testBit_and, Nat.testBit_ldiff, Nat.zero_testBit]
    cases m.testBit i <;> simp
  rw [sub_and_eq_ldiff, add_eq_or_of_and_eq_zero hdisj, Nat.testBit_or, Nat.testBit_ldiff, Nat.testBit_and]
  cases m.testBit i <;> simp

/-- A write to a register without W1C and W1S bits sets the RW bits that it reaches, and keeps the others (R12). -/
theorem testBit_maskWrite {r : RegInfo} (hc : r.w1c = 0) (hs : r.w1s = 0) (old v em i : Nat) :
    (maskWrite r old v em).testBit i = if (r.rw &&& em).testBit i then v.testBit i else old.testBit i := by
  have hval : maskWrite r old v em = old - (old &&& (r.rw &&& em)) + (v &&& (r.rw &&& em)) := by
    simp [maskWrite, hc, hs]
  rw [hval, testBit_sub_and_add]

theorem testBit_bits (x hi lo i : Nat) : (bits x hi lo).testBit i = (decide (i < hi + 1 - lo) && x.testBit (lo + i)) := by
  rw [bits, Nat.testBit_mod_two_pow, Nat.testBit_shiftRight]

/-- A field that a write reaches wholly takes its new value. -/
theorem bits_maskWrite {r : RegInfo} {em hi lo : Nat} (hc : r.w1c = 0) (hs : r.w1s = 0) (old v : Nat)
    (hreach : ∀ i < hi + 1 - lo, (r.rw &&& em).testBit (lo + i) = true) :
    bits (maskWrite r old v em) hi lo = bits v hi lo := by
  refine Nat.eq_of_testBit_eq fun i => ?_
  rw [testBit_bits, testBit_bits, testBit_maskWrite hc hs]
  by_cases hi : i < hi + 1 - lo
  · rw [if_pos (hreach i hi)]
  · simp [hi]

/-! ### Registers of the floor die through a port -/

section
variable {s : State} {o : Origin} {pa : Nat}

/-- Where no fence is in the way a write to an exact address reaches the floor register there. -/
theorem writeAt_floor (h : Reaches o s pa) (hcells : inCells pa = false) (v em : Nat) (cap : Option CapIn) :
    s.writeAt o pa v em cap = s.writeFloor pa v em cap := by
  obtain ⟨-, hfence⟩ := h
  cases o <;> simp_all [State.writeAt]

/-- A write of 4 bytes to a register of 32 bits on the floor die (R246, R417): the fence that lets it pass counts no
violation (R481). -/
theorem writeReg_word (h : Reaches o s pa) (hregs : inRegs pa = true) (hcells : inCells pa = false)
    (hwidth : regWidth pa = 32) (halign : pa % 4 = 0) (v : Nat) (cap : Option CapIn) :
    s.writeReg o pa 4 v cap = s.writeFloor pa (v % 2 ^ 32) lowHalf cap := by
  have hparts : parts pa 4 v = [(pa, v % 2 ^ 32, lowHalf)] := by simp [parts, hwidth, halign]
  have hblocked : fencedService pa = false → blocked pa 4 v = false := by
    intro hf
    have hstart : setsStart pa (v % 2 ^ 32) lowHalf = false := by simp [setsStart, hcells]
    simp only [blocked, hparts, List.any_cons, List.any_nil, hf, hstart, Bool.or_false, Bool.or_eq_false_iff]
    simp only [fencedService, Bool.or_eq_false_iff] at hf
    exact ⟨hf.1.1.1.1.1.1.1.1, hf.1.1.1.1.1.1.1.2⟩
  have hwrite := writeAt_floor h hcells
  obtain ⟨hreach, hfence⟩ := h
  cases o with
  | service k => simp [State.writeReg, hreach, hregs, hparts, hblocked hfence, hwrite]
  | host | root | debug | ownCell => simp [State.writeReg, hreach, hregs, hparts, hwrite]

end

/-! ### Counters of the floor die -/

theorem freg_lt (s : State) (a : Nat) : s.freg a < 2 ^ 64 := BitVec.isLt _

theorem freg_count_self {s : State} (a n : Nat) (hw : FGood s.fregs) :
    (s.count a n).freg a = (s.freg a + n) % 2 ^ 64 := freg_setFreg_self s a _ hw

theorem freg_count_other (s : State) {a b : Nat} (n : Nat) (h : b ≠ a) : (s.count a n).freg b = s.freg b :=
  freg_setFreg_other s _ h

theorem freg_orFreg_other (s : State) {a b : Nat} (m : Nat) (h : b ≠ a) : (s.orFreg a m).freg b = s.freg b :=
  freg_setFreg_other s _ h

end Sys2Proof.Proofs
end

section
/-! The host interface: what is read after its queue pointers, command slots, mailboxes and host memory are written, and
what a publication leaves. -/

namespace Sys2Proof.Proofs

open Sys2Proof.Machine Sys2Proof.Laws

/-! ### Queue pointers and command slots -/

@[simp] theorem qp_setQp_self (s : State) (q : Fin 64) (x : QueueSt) : (s.setQp q x).qp q = x := by
  simp [State.setQp, State.qp]

@[simp] theorem qp_setFreg (s : State) (a v : Nat) (q : Fin 64) : (s.setFreg a v).qp q = s.qp q := rfl

@[simp] theorem freg_setQp (s : State) (q : Fin 64) (x : QueueSt) (a : Nat) : (s.setQp q x).freg a = s.freg a := rfl

@[simp] theorem setCmd_mem (s : State) (k : Fin 16) (c : Option HostCmd) : (s.setCmd k c).mem = s.mem := rfl

@[simp] theorem setCmd_cells (s : State) (k : Fin 16) (c : Option HostCmd) : (s.setCmd k c).cells = s.cells := rfl

@[simp] theorem cmd_setCmd_self (s : State) (k : Fin 16) (c : Option HostCmd) : (s.setCmd k c).cmd k = c := by
  simp [State.setCmd, State.cmd]

theorem cmd_setCmd_other (s : State) {j k : Fin 16} (c : Option HostCmd) (h : j ≠ k) :
    (s.setCmd k c).cmd j = s.cmd j := by
  simp [State.setCmd, State.cmd, Fin.val_ne_of_ne (Ne.symm h)]

/-! ### Host memory -/

theorem getRange_eq_map {α : Type} (d : Nat → α) (m : SMap α) (a n : Nat) :
    SMap.getRange d m a n = (List.range n).map (fun i => SMap.get d m (a + i)) := by
  induction n generalizing a with
  | zero => rfl
  | succ n ih =>
    rw [SMap.getRange, ih, List.range_succ_eq_map, List.map_cons, List.map_map]
    congr 2
    funext i
    simp [Nat.add_assoc, Nat.add_comm 1]

/-- Values listed one by one from key a are read back at their keys. -/
theorem get_foldl_insert {α : Type} (d : Nat → α) (m : SMap α) (a : Nat) (f : Nat → α) {i n : Nat} (h : i < n) :
    SMap.get d ((List.range n).foldl (fun m i => SMap.insert m (a + i) (f i)) m) (a + i) = f i := by
  induction n with
  | zero => omega
  | succ n ih =>
    rw [List.range_succ, List.foldl_append]
    by_cases hin : i = n
    · subst hin
      exact smap_get_insert_self _ _ _ _
    · exact (smap_get_insert_other _ _ _ (by omega)).trans (ih (by omega))

theorem plain_withPoison (m : NSet) (a : Nat) (bs : List Byte) : plain (withPoison m a bs) = bs := by
  induction bs generalizing a with
  | nil => rfl
  | cons b bs ih => exact congrArg (b :: ·) (ih (a + 1))

theorem plain_clean (bs : List Byte) : plain (clean bs) = bs := by simp [plain, clean, Function.comp_def]

@[simp] theorem length_clean (bs : List Byte) : (clean bs).length = bs.length := List.length_map ..

/-- The device reads in host memory what it has written there (R254). -/
theorem hostRead_hostWrite_self (s : State) (ha : Nat) (bs : List PByte) :
    plain ((s.hostWrite ha bs).hostRead ha bs.length) = plain bs := by
  rw [State.hostRead, plain_withPoison, getRange_eq_map]
  refine List.ext_getElem (by simp [plain]) fun i hi _ => ?_
  have hlt : i < bs.length := by simpa using hi
  rw [List.getElem_map, List.getElem_range, State.hostWrite, get_foldl_insert _ _ _ _ hlt]
  simp [plain, hlt]

/-! Counters, and what the device writes to host memory, are apart from the queues and the slots. -/

@[simp] theorem hostRead_count (s : State) (a m ha n : Nat) : (s.count a m).hostRead ha n = s.hostRead ha n := rfl
@[simp] theorem cqSize_hostWrite (s : State) (ha : Nat) (bs : List PByte) (q : Fin 64) :
    (s.hostWrite ha bs).cqSize q = s.cqSize q := rfl
@[simp] theorem cmd_count (s : State) (a n : Nat) (k : Fin 16) : (s.count a n).cmd k = s.cmd k := rfl
@[simp] theorem qp_count (s : State) (a n : Nat) (q : Fin 64) : (s.count a n).qp q = s.qp q := rfl

/-! ### Mailboxes -/

theorem box_setBox_self {s : State} (m : Nat) (b : Mailbox) (hw : SMap.wf (fun _ => ({} : Mailbox)) s.hs.boxes = true) :
    (s.setBox m b).box m = b := smap_get_set_self _ _ _ _ hw

/-- The host's messages change nothing of the interface but the vectors that are pending and sent (R426). -/
theorem sendMsi_hs (s : State) (v : Nat) :
    (s.sendMsi v).hs = { s.hs with pend := (s.sendMsi v).hs.pend, sent := (s.sendMsi v).hs.sent } := by
  unfold State.sendMsi
  split
  · rfl
  · split <;> rfl

theorem hostEvent_hs (s : State) (b : Nat) :
    (s.hostEvent b).hs = { s.hs with pend := (s.hostEvent b).hs.pend, sent := (s.hostEvent b).hs.sent } := by
  unfold State.hostEvent
  split
  · exact sendMsi_hs _ _
  · rfl

/-- Mailbox b once p has been published to it (R428). -/
def published (b : Mailbox) (p : Publication) : Mailbox :=
  { b with
    st := .ready, seq := b.seq + 1, ptr := BitVec.ofNat 52 p.ptr, len := BitVec.ofNat 32 p.len
    tag := BitVec.ofNat 32 p.tag, user := BitVec.ofNat 64 p.user }

section
variable (s : State) (p : Publication)

theorem publish_hs : (s.publish p).hs = { s.hs with
    boxes := s.hs.boxes.set (fun _ => {}) p.mbx (published (s.box p.mbx) p)
    pend := (s.publish p).hs.pend, sent := (s.publish p).hs.sent } := hostEvent_hs _ 6

theorem box_publish_self (hw : SMap.wf (fun _ => ({} : Mailbox)) s.hs.boxes = true) :
    (s.publish p).box p.mbx = published (s.box p.mbx) p := by
  rw [State.box, publish_hs]
  exact smap_get_set_self _ s.hs.boxes p.mbx (published (s.box p.mbx) p) hw

@[simp] theorem cmd_publish (j : Fin 16) : (s.publish p).cmd j = s.cmd j := by
  rw [State.cmd, publish_hs]; rfl

@[simp] theorem publish_post : (s.publish p).hs.post = s.hs.post := by rw [publish_hs]

/-- A publication changes nothing outside the host interface but the Almanac and floor registers. -/
theorem logs_publish : Logs s (s.publish p) := (((Logs.refl s).withHs _).count _ _).hostEvent 6

@[simp] theorem publish_mem : (s.publish p).mem = s.mem := by rw [logs_publish s p]

@[simp] theorem publish_cells : (s.publish p).cells = s.cells := by rw [logs_publish s p]

theorem publish_canon (hw : FGood s.fregs) : FGood (s.publish p).fregs :=
  ((keepsFloor_count (s.setBox p.mbx _) _ 1).trans (keepsFloor_hostEvent _ 6)).canon hw

/-- A publication counts itself and raises its host event, and changes no other floor register. -/
theorem freg_publish_other {a : Nat} (hcnt : a ≠ FR.HI_MBX_PUB_CNT) (hevt : a ≠ FR.HI_EVT) :
    (s.publish p).freg a = s.freg a :=
  (freg_hostEvent _ 6 a).trans ((freg_orFreg_other _ _ hevt).trans (freg_count_other (s.setBox p.mbx _) 1 hcnt))

theorem freg_publish_count (hw : FGood s.fregs) :
    (s.publish p).freg FR.HI_MBX_PUB_CNT = (s.freg FR.HI_MBX_PUB_CNT + 1) % 2 ^ 64 :=
  (freg_hostEvent _ 6 _).trans ((freg_orFreg_other _ _ (by decide)).trans (freg_count_self (s := s.setBox p.mbx _) _ 1 hw))

end

end Sys2Proof.Proofs
end

section
/-! Queue pairs of the host: doorbells, configuration, command fetch and completion. -/

namespace Sys2Proof.Proofs

open Sys2Proof.Machine Sys2Proof.Laws

/-! ### Doorbells (R419) -/

section
variable {s : State} {q : Fin 64} {v : Nat}

/-- The entries of the submission queue that are taken once its tail is moved on to v. -/
def sqUsed (s : State) (q : Fin 64) (v : Nat) : Nat :=
  ((s.qp q).sqTail + s.sqSize q - (s.qp q).sqHead) % s.sqSize q + (v + s.sqSize q - (s.qp q).sqTail) % s.sqSize q

theorem sqDoorbell_moves (hv : v < s.sqSize q) (hroom : sqUsed s q v < s.sqSize q) :
    s.sqDoorbell q v = s.setQp q { s.qp q with sqTail := v } := by
  have hok : ¬ (s.sqSize q ≤ v ∨ s.sqSize q ≤ sqUsed s q v) := by omega
  exact if_neg (by simpa [sqUsed] using hok)

theorem sqDoorbell_refused (h : s.sqSize q ≤ v ∨ s.sqSize q ≤ sqUsed s q v) :
    s.sqDoorbell q v = s.orFreg (FR.HI_Q_STATUS q.val) 4 :=
  if_pos (by simpa [sqUsed] using h)

/-- The entries from the head of the completion queue to v. -/
def cqAhead (s : State) (q : Fin 64) (v : Nat) : Nat := (v + s.cqSize q - (s.qp q).cqHead) % s.cqSize q

theorem cqDoorbell_moves (hv : v < s.cqSize q) (hpass : cqAhead s q v ≤ cqAhead s q (s.qp q).cqTail) :
    s.cqDoorbell q v = s.setQp q { s.qp q with cqHead := v } := by
  have hok : ¬ (s.cqSize q ≤ v ∨ cqAhead s q (s.qp q).cqTail < cqAhead s q v) := by omega
  exact if_neg (by simpa [cqAhead] using hok)

theorem cqDoorbell_refused (h : s.cqSize q ≤ v ∨ cqAhead s q (s.qp q).cqTail < cqAhead s q v) :
    s.cqDoorbell q v = s.orFreg (FR.HI_Q_STATUS q.val) 4 :=
  if_pos (by simpa [cqAhead] using h)

/-- With CXL up a doorbell acts. -/
theorem exec_sqDoorbell (hon : s.dev.mainOn = true) (hup : s.cxlUp = true) (v : Half) :
    exec (.sqDoorbell q v) s = .next (s.sqDoorbell q v.toNat) := by
  show execSqDoorbell q v s = _
  rw [execSqDoorbell, hon, hup]; rfl

theorem exec_cqDoorbell (hon : s.dev.mainOn = true) (hup : s.cxlUp = true) (v : Half) :
    exec (.cqDoorbell q v) s = .next (s.cqDoorbell q v.toNat) := by
  show execCqDoorbell q v s = _
  rw [execCqDoorbell, hon, hup]; rfl

end

/-! ### Configuration (R418, R437) -/

/-- The row of HI_Qn_CFG in the register map (R437). -/
def queueCfgRow : RegInfo := ⟨FR.HI_Q_CFG 0, 64, 32, 32, .plain, 0xF0FF1F1F, 0, 0, 0x404⟩

theorem floorReg_queueCfg : ∀ q : Fin 64, floorReg (FR.HI_Q_CFG q.val) = some queueCfgRow := by decide +kernel

theorem inCells_queueCfg (q : Fin 64) : inCells (FR.HI_Q_CFG q.val) = false := by
  have hhigh : ¬ FR.HI_Q_CFG q.val < cellRegBase + 0x1000000 := by unfold FR.HI_Q_CFG cellRegBase; omega
  rw [inCells, decide_eq_false hhigh, Bool.and_false]

theorem inRegs_queueCfg (q : Fin 64) : inRegs (FR.HI_Q_CFG q.val) = true := by
  have hlow : 0x30010000000 ≤ FR.HI_Q_CFG q.val := by unfold FR.HI_Q_CFG; omega
  have hhigh : FR.HI_Q_CFG q.val < 0x30020000000 := by unfold FR.HI_Q_CFG; omega
  simp only [inRegs, decide_eq_true hlow, decide_eq_true hhigh, Bool.and_self, Bool.or_true]

theorem regWidth_queueCfg (q : Fin 64) : regWidth (FR.HI_Q_CFG q.val) = 32 := by
  rw [regWidth, inCells_queueCfg, floorReg_queueCfg]; rfl

/-- What a write of v leaves in the fields of HI_Qn_CFG, as far as it reaches them (R12). -/
def queueCfgValue (old v : Nat) : Nat := maskWrite queueCfgRow old v lowHalf

section
variable {s : State} {o : Origin} {q : Fin 64}

/-- A write to HI_Qn_CFG that reaches it configures queue q. -/
theorem exec_queueCfgWrite (h : Reaches o s (FR.HI_Q_CFG q.val)) (v : Half) :
    exec (.queueCfgWrite o q v) s = .next (s.queueCfg q (queueCfgValue (s.freg (FR.HI_Q_CFG q.val)) v.toNat)) := by
  have halign : FR.HI_Q_CFG q.val % 4 = 0 := by unfold FR.HI_Q_CFG; omega
  have hword : v.toNat % 2 ^ 32 = v.toNat := Nat.mod_eq_of_lt v.isLt
  have hslice : ¬ (sliceRegBase ≤ FR.HI_Q_CFG q.val ∧ FR.HI_Q_CFG q.val < sliceRegBase + 0x100000 ∧
      (FR.HI_Q_CFG q.val - sliceRegBase) % 0x1000 = 0) := by unfold FR.HI_Q_CFG sliceRegBase; omega
  have hblock : FR.HI_Q_SQ_BASE 0 ≤ FR.HI_Q_CFG q.val ∧ FR.HI_Q_CFG q.val < FR.HI_Q_SQ_BASE 64 ∧
      (FR.HI_Q_CFG q.val - FR.HI_Q_SQ_BASE 0) % 32 = 16 := by unfold FR.HI_Q_CFG FR.HI_Q_SQ_BASE; omega
  have hq : (⟨(FR.HI_Q_CFG q.val - FR.HI_Q_SQ_BASE 0) / 32 % 64, Nat.mod_lt _ (by decide)⟩ : Fin 64) = q := by
    apply Fin.ext; unfold FR.HI_Q_CFG FR.HI_Q_SQ_BASE; dsimp only; omega
  show Host.Outcome.next (s.writeReg o (FR.HI_Q_CFG q.val) 4 v.toNat) = _
  rw [writeReg_word h (inRegs_queueCfg q) (inCells_queueCfg q) (regWidth_queueCfg q) halign, hword, State.writeFloor,
    floorReg_queueCfg]
  simp only [queueCfgRow, if_neg hslice, if_pos hblock, hq]
  rfl

end

/-- A field of HI_Qn_CFG takes the value that is written. -/
theorem bits_queueCfgValue (old v : Nat) :
    ∀ f ∈ [(4, 0), (12, 8), (23, 16), (31, 28)], bits (queueCfgValue old v) f.1 f.2 = bits v f.1 f.2 := by
  have hreach : ∀ f ∈ [(4, 0), (12, 8), (23, 16), (31, 28)],
      ∀ i < f.1 + 1 - f.2, (queueCfgRow.rw &&& lowHalf).testBit (f.2 + i) = true := by decide
  exact fun f hf => bits_maskWrite rfl rfl old v (hreach f hf)

theorem bitB_queueCfgValue (old v : Nat) : bitB (queueCfgValue old v) 31 = bitB v 31 := by
  rw [bitB_eq_testBit, bitB_eq_testBit, queueCfgValue, testBit_maskWrite rfl rfl]
  rfl

/-- The fields of v in their places in HI_Qn_CFG. -/
def queueCfgWord (v : Nat) : Nat :=
  bits v 31 28 * 2 ^ 28 + bits v 23 16 * 2 ^ 16 + bits v 12 8 * 2 ^ 8 + bits v 4 0

theorem bits_queueCfgWord (v : Nat) :
    ∀ f ∈ [(4, 0), (12, 8), (23, 16), (31, 28)], bits (queueCfgWord v % 2 ^ 64) f.1 f.2 = bits v f.1 f.2 := by
  have hsq : bits v 4 0 < 2 ^ 5 := Nat.mod_lt _ (by decide)
  have hcq : bits v 12 8 < 2 ^ 5 := Nat.mod_lt _ (by decide)
  have hvec : bits v 23 16 < 2 ^ 8 := Nat.mod_lt _ (by decide)
  have hctl : bits v 31 28 < 2 ^ 4 := Nat.mod_lt _ (by decide)
  simp only [List.forall_mem_cons, List.not_mem_nil, false_imp_iff, implies_true, and_true, queueCfgWord]
  generalize bits v 4 0 = sq at *
  generalize bits v 12 8 = cq at *
  generalize bits v 23 16 = vec at *
  generalize bits v 31 28 = ctl at *
  simp only [bits, Nat.shiftRight_eq_div_pow, Nat.reduceAdd, Nat.reduceSub, Nat.reducePow] at *
  refine ⟨?_, ?_, ?_, ?_⟩ <;> omega

section
variable {s : State} {q : Fin 64} {v : Nat}

/-- While en is 0 a write whose values are in range sets every field, and the pointers are cleared where it sets en. -/
theorem queueCfg_disabled (hen : bitB (s.freg (FR.HI_Q_CFG q.val)) 31 = false)
    (hsq : 4 ≤ bits v 4 0 ∧ bits v 4 0 ≤ 16) (hcq : 4 ≤ bits v 12 8 ∧ bits v 12 8 ≤ 16) (hvec : bits v 23 16 ≤ 247) :
    s.queueCfg q v =
      if bitB v 31 then (s.setFreg (FR.HI_Q_CFG q.val) (queueCfgWord v)).setQp q {}
      else s.setFreg (FR.HI_Q_CFG q.val) (queueCfgWord v) := by
  simp only [State.queueCfg, hen, Bool.false_eq_true, if_false, hsq, hcq, hvec, decide_true, Bool.and_self, if_true]
  rfl

/-! Stated of any register, so that the kernel does not look up its row while it compares the two states. -/

theorem setFreg_qs_frame (s : State) (a w : Nat) :
    s.setFreg a w = { s with fregs := (s.setFreg a w).fregs, hs := { s.hs with qs := (s.setFreg a w).hs.qs } } := rfl

theorem setFreg_setQp_frame (s : State) (a w : Nat) (q : Fin 64) (x : QueueSt) :
    (s.setFreg a w).setQp q x = { s with
      fregs := ((s.setFreg a w).setQp q x).fregs, hs := { s.hs with qs := ((s.setFreg a w).setQp q x).hs.qs } } := rfl

/-- What such a write of fields with the values of n leaves. -/
theorem queueCfg_disabled_leaves {n : Nat} (hcanon : FGood s.fregs)
    (hen : bitB (s.freg (FR.HI_Q_CFG q.val)) 31 = false)
    (hfields : ∀ f ∈ [(4, 0), (12, 8), (23, 16), (31, 28)], bits v f.1 f.2 = bits n f.1 f.2)
    (hset : bitB v 31 = bitB n 31) (hsq : 4 ≤ bits n 4 0 ∧ bits n 4 0 ≤ 16) (hcq : 4 ≤ bits n 12 8 ∧ bits n 12 8 ≤ 16)
    (hvec : bits n 23 16 ≤ 247) :
    let t := s.queueCfg q v
    (∀ f ∈ [(4, 0), (12, 8), (23, 16), (31, 28)], bits (t.freg (FR.HI_Q_CFG q.val)) f.1 f.2 = bits n f.1 f.2) ∧
      (∀ a, a ≠ FR.HI_Q_CFG q.val → t.freg a = s.freg a) ∧ t.qp q = (if bitB n 31 then {} else s.qp q) ∧
      t = { s with fregs := t.fregs, hs := { s.hs with qs := t.hs.qs } } := by
  rw [← hfields (4, 0) (by decide)] at hsq
  rw [← hfields (12, 8) (by decide)] at hcq
  rw [← hfields (23, 16) (by decide)] at hvec
  rw [queueCfg_disabled hen hsq hcq hvec, hset]
  have hself := freg_setFreg_self s (FR.HI_Q_CFG q.val) (queueCfgWord v) hcanon
  have hword : ∀ f ∈ [(4, 0), (12, 8), (23, 16), (31, 28)],
      bits ((s.setFreg (FR.HI_Q_CFG q.val) (queueCfgWord v)).freg (FR.HI_Q_CFG q.val)) f.1 f.2 = bits n f.1 f.2 :=
    fun f hf => by rw [hself, bits_queueCfgWord v f hf, hfields f hf]
  by_cases h : bitB n 31 = true
  · rw [if_pos h, if_pos h]
    exact ⟨fun f hf => (congrArg (bits · f.1 f.2) (freg_setQp _ q {} _)).trans (hword f hf),
      fun a ha => (freg_setQp _ q {} a).trans (freg_setFreg_other s _ ha), qp_setQp_self _ q {}, setFreg_setQp_frame s _ _ q {}⟩
  · rw [if_neg h, if_neg h]
    exact ⟨hword, fun a ha => freg_setFreg_other s _ ha, qp_setFreg s _ _ q, setFreg_qs_frame s _ _⟩

/-- While en is 1 a write changes en alone. -/
theorem queueCfg_enabled (hen : bitB (s.freg (FR.HI_Q_CFG q.val)) 31 = true) :
    s.queueCfg q v = s.putFreg (FR.HI_Q_CFG q.val) 31 31 (b2n (bitB v 31)) := if_pos hen

end

/-- Bit 31 of a register set to b, the bits below it kept. -/
theorem putBits_31 {x : Nat} (h : x < 2 ^ 64) (b : Bool) :
    bits (putBits x 31 31 (b2n b) % 2 ^ 64) 30 0 = bits x 30 0 ∧ bitB (putBits x 31 31 (b2n b) % 2 ^ 64) 31 = b := by
  have hb : b2n b < 2 := by cases b <;> decide
  have hval : putBits x 31 31 (b2n b) % 2 ^ 64 = x / 2 ^ 32 * 2 ^ 32 + b2n b * 2 ^ 31 + x % 2 ^ 31 := by
    simp only [putBits, bits, Nat.shiftRight_eq_div_pow, Nat.reduceAdd, Nat.reduceSub, Nat.reducePow] at *
    omega
  rw [hval]
  constructor
  · simp only [bits, Nat.shiftRight_eq_div_pow, Nat.reduceAdd, Nat.reduceSub, Nat.reducePow]
    omega
  · have hbit : (x / 2 ^ 32 * 2 ^ 32 + b2n b * 2 ^ 31 + x % 2 ^ 31) / 2 ^ 31 % 2 = b2n b := by omega
    rw [bitB, Nat.shiftRight_eq_div_pow, hbit]
    cases b <;> rfl

/-! ### Fetch (R420, R421) -/

/-- The command that is fetched from queue q. -/
def fetchedCmd (s : State) (q : Fin 64) (bytes : Desc) : HostCmd :=
  let c : HostCmd := { q, order := s.hs.fetched, bytes, sqHead := ((s.qp q).sqHead + 1) % s.sqSize q }
  if c.ok then c else { c with outcome := some (1, 0, 0) }

section
variable {s : State} {k : Fin 16} {q : Fin 64}

theorem fetchedCmd_fields (s : State) (q : Fin 64) (bytes : Desc) :
    (fetchedCmd s q bytes).q = q ∧ (fetchedCmd s q bytes).bytes = bytes ∧
      (fetchedCmd s q bytes).sqHead = ((s.qp q).sqHead + 1) % s.sqSize q ∧
      (fetchedCmd s q bytes).outcome = if (fetchedCmd s q bytes).ok then none else some (1, 0, 0) := by
  unfold fetchedCmd
  extract_lets c
  have hok : HostCmd.ok { c with outcome := some (1, 0, 0) } = c.ok := rfl
  by_cases h : c.ok = true
  · simp [h, c]
  · simp [h, hok, c]

/-- Without a job there is no capture. -/
theorem capture_idle {u : State} (hjob : u.rx.job = none) (ty : Nat) (payload : List Byte) :
    u.capture ty payload = u := by
  simp only [State.capture, State.jobOf, hjob]

/-- Without a job that records it, the fetch moves the queue's head on and fills the slot. -/
theorem fetchCmd_unrecorded (hjob : s.rx.job = none) (bytes : Desc) :
    s.fetchCmd k q bytes =
      let t := (s.setQp q { s.qp q with sqHead := ((s.qp q).sqHead + 1) % s.sqSize q }).setCmd k
        (some (fetchedCmd s q bytes))
      { t with hs := { t.hs with fetched := s.hs.fetched + 1, served := q.val } } := by
  rw [State.fetchCmd, capture_idle]
  case hjob => exact hjob
  simp only [State.takeCmd, fetchedCmd, qp_setQp_self]
  rfl

/-- The first free slot takes the next command of the first queue in turn that may start one. -/
theorem exec_commandFetch {entry : Desc} (hon : s.dev.mainOn = true) (hfatal : s.fatal = false)
    (hen : bitB (s.freg FR.HI_CTRL) 0 = true)
    (hslot : (List.finRange 16).find? (fun k => (s.cmd k).isNone) = some k)
    (hturn : s.queueOrder.find? (s.mayFetch entry) = some q) (hheld : s.entryHeld q = false)
    (hawake : bitB (s.qCfg q) 30 = true → s.absent ((s.sqEntry q).2 / 256) = true → s.rawAsleep (s.sqEntry q).2 = none) :
    exec (.commandFetch entry) s = .next (s.fetchCmd k q (s.nextEntry q entry)) := by
  have hreach : (if (s.sqEntry q).1 && s.absent ((s.sqEntry q).2 / 256) then s.rawAsleep (s.sqEntry q).2 else none) = none := by
    split
    case isTrue h =>
      obtain ⟨hhbm, habsent⟩ := Bool.and_eq_true_iff.mp h
      exact hawake hhbm habsent
    case isFalse => rfl
  show execCommandFetch entry s = _
  rw [execCommandFetch, hon, hfatal, hen]
  simp only [Bool.not_true, Bool.or_self, Bool.false_eq_true, if_false, hslot, hturn, hheld, hreach]

end

/-! ### Completion (R424, R425) -/

section
variable {s : State} {k : Fin 16} {c : HostCmd} {st d r : Nat}

/-- The completion queue's entry that the next completion takes. -/
def cqPlace (s : State) (q : Fin 64) : Nat := s.freg (FR.HI_Q_CQ_BASE q.val) + 16 * (s.qp q).cqTail

/-- The pointers of queue q once a completion has been written; the phase turns where the tail wraps. -/
def cqMoved (s : State) (q : Fin 64) : QueueSt :=
  let t := ((s.qp q).cqTail + 1) % s.cqSize q
  { s.qp q with cqTail := t, phase := if t = 0 then !(s.qp q).phase else (s.qp q).phase }

/-- State t is state s but for host memory, the host interface and registers. -/
def Completes (s t : State) : Prop := t = { s with
  mem := { s.mem with host := t.mem.host, hostPoison := t.mem.hostPoison }, hs := t.hs, fregs := t.fregs }

theorem Completes.count {s t : State} (h : Completes s t) (a n : Nat) : Completes s (t.count a n) := by
  unfold Completes at h ⊢
  calc t.count a n = { t with fregs := (t.count a n).fregs } := rfl
    _ = _ := by rw [h]; rfl

/-- The state in which the entry of the command in slot k, of queue q, has been written to host memory and its slot is
free. -/
def entryWritten (s : State) (k : Fin 16) (q : Fin 64) (entry : List PByte) : State :=
  ((s.hostWrite (cqPlace s q) entry).setQp q (cqMoved s q)).setCmd k none

theorem hostRead_entryWritten (s : State) (k : Fin 16) (q : Fin 64) (entry : List PByte) :
    plain ((entryWritten s k q entry).hostRead (cqPlace s q) entry.length) = plain entry :=
  hostRead_hostWrite_self s (cqPlace s q) entry

theorem qp_entryWritten (s : State) (k : Fin 16) (q : Fin 64) (entry : List PByte) :
    (entryWritten s k q entry).qp q = cqMoved s q := qp_setQp_self _ q _

theorem cmd_entryWritten_self (s : State) (k : Fin 16) (q : Fin 64) (entry : List PByte) :
    (entryWritten s k q entry).cmd k = none := cmd_setCmd_self _ k none

theorem cmd_entryWritten_other (s : State) {j k : Fin 16} (q : Fin 64) (entry : List PByte) (h : j ≠ k) :
    (entryWritten s k q entry).cmd j = s.cmd j := cmd_setCmd_other _ none h

theorem entryWritten_frame (s : State) (k : Fin 16) (q : Fin 64) (entry : List PByte) :
    Completes s (entryWritten s k q entry) := rfl

/-- A completion in a queue in host memory that sends no message is written and counted. -/
theorem complete_host (hhost : bitB (s.qCfg c.q) 29 = false) (hmsi : bitB (s.qCfg c.q) 28 = false) :
    s.complete k c st d r =
      let t := (entryWritten s k c.q (clean (leBytes 16 (c.entry (s.qp c.q).phase st d r)))).count FR.HI_CMD_CNT
      if st = 0 then t else t.count FR.HI_CMD_ERR_CNT := by
  simp only [State.complete, hhost, hmsi, Bool.false_and, Bool.false_eq_true, if_false, cqSize_hostWrite, entryWritten,
    cqPlace, cqMoved]

/-- What such a completion leaves: the entry in host memory, the queue moved on, the slot free, and the command counted. -/
theorem complete_leaves (hhost : bitB (s.qCfg c.q) 29 = false) (hmsi : bitB (s.qCfg c.q) 28 = false)
    (hcanon : FGood s.fregs) :
    let t := s.complete k c st d r
    t.cmd k = none ∧ plain (t.hostRead (cqPlace s c.q) 16) = leBytes 16 (c.entry (s.qp c.q).phase st d r) ∧
      t.qp c.q = cqMoved s c.q ∧ t.freg FR.HI_CMD_CNT = (s.freg FR.HI_CMD_CNT + 1) % 2 ^ 64 ∧
      t.freg FR.HI_CMD_ERR_CNT = (s.freg FR.HI_CMD_ERR_CNT + b2n (st != 0)) % 2 ^ 64 ∧
      (∀ j, j ≠ k → t.cmd j = s.cmd j) ∧ Completes s t := by
  have hread := hostRead_entryWritten s k c.q (clean (leBytes 16 (c.entry (s.qp c.q).phase st d r)))
  rw [plain_clean, length_clean, length_leBytes] at hread
  rw [complete_host hhost hmsi]
  generalize leBytes 16 (c.entry (s.qp c.q).phase st d r) = bs at hread ⊢
  have hcmds := freg_count_self (s := entryWritten s k c.q (clean bs)) FR.HI_CMD_CNT 1 hcanon
  have herrs := freg_count_other (entryWritten s k c.q (clean bs)) (a := FR.HI_CMD_CNT) (b := FR.HI_CMD_ERR_CNT) 1 (by decide)
  have hcanon' := (keepsFloor_count (entryWritten s k c.q (clean bs)) FR.HI_CMD_CNT 1).canon hcanon
  have hothers : ∀ j, j ≠ k → (entryWritten s k c.q (clean bs)).cmd j = s.cmd j :=
    fun j hj => cmd_entryWritten_other s c.q (clean bs) hj
  have hslot := cmd_entryWritten_self s k c.q (clean bs)
  have hqueue := qp_entryWritten s k c.q (clean bs)
  have hframe := entryWritten_frame s k c.q (clean bs)
  by_cases hst : st = 0
  · rw [if_pos hst]
    simp only [cmd_count, qp_count, hostRead_count]
    refine ⟨hslot, hread, hqueue, hcmds, ?_, hothers, hframe.count _ _⟩
    rw [herrs, hst]
    exact (Nat.mod_eq_of_lt (freg_lt s _)).symm
  · rw [if_neg hst]
    simp only [cmd_count, qp_count, hostRead_count]
    refine ⟨hslot, hread, hqueue, (freg_count_other _ 1 (by decide)).trans hcmds, ?_, hothers, (hframe.count _ _).count _ _⟩
    rw [freg_count_self _ 1 hcanon', herrs, bne_iff_ne.mpr hst]
    rfl

/-- A command that has executed, and whose queue has room, is completed. -/
theorem exec_completionWrite (hcmd : s.cmd k = some c) (hout : c.outcome = some (st, d, r)) (hbox : c.owesMailbox = false)
    (hdone : st = 1 ∨ s.cmdSettled c = true) (hroom : s.cqRoom c.q = true) (hup : s.cxlUp = true)
    (hhost : bitB (s.qCfg c.q) 29 = false) :
    exec (.completionWrite k) s = .next (s.complete k c st d r) := by
  have hsettled : (st != 1 && !s.cmdSettled c) = false := by
    rcases hdone with h | h <;> simp [h]
  show execCompletionWrite k s = _
  simp only [execCompletionWrite, hcmd, hout, hbox, hsettled, hroom, hup, hhost, Bool.or_self, Bool.not_true,
    Bool.not_false, Bool.and_false, Bool.false_and, Bool.false_eq_true, if_false]

end

/-- Settles O45: a doorbell moves its queue on or sets its error bit (`sqDoorbell_moves`, `sqDoorbell_refused` and those
of the completion queue); a write that reaches HI_Qn_CFG configures the queue (`exec_queueCfgWrite`,
`queueCfg_disabled`, `queueCfg_enabled`); the fetch fills the free slot (`exec_commandFetch`, `fetchCmd_unrecorded`);
and the completion is written to host memory, from which it is read back (`complete_host`,
`hostRead_hostWrite_self`). -/
theorem hostQueues : Obligations.HostQueues := by
  unfold Obligations.HostQueues
  intro s q v o entry k c st d r x reg n
  refine ⟨fun hon hup => ⟨fun hv hroom => ?sq, fun hv hpass => ?cq, fun h => ?sqErr, fun h => ?cqErr⟩,
    fun hreach hcanon => ⟨fun hen hsq hsq' hcq hcq' hvec => ?configured, fun hen => ?enabled⟩,
    fun hon hfatal hctrl hjob hslot hturn hheld hawake => ?fetch,
    fun hcmd hcq hout hbox hdone hroom hup hhost hmsi hcanon => ?completion⟩
  case sq => exact ⟨_, exec_sqDoorbell hon hup v, sqDoorbell_moves hv hroom⟩
  case cq => exact ⟨_, exec_cqDoorbell hon hup v, cqDoorbell_moves hv hpass⟩
  case sqErr => exact ⟨_, exec_sqDoorbell hon hup v, sqDoorbell_refused h⟩
  case cqErr => exact ⟨_, exec_cqDoorbell hon hup v, cqDoorbell_refused h⟩
  case configured =>
    exact ⟨_, exec_queueCfgWrite hreach v, queueCfg_disabled_leaves hcanon hen (bits_queueCfgValue _ n)
      (bitB_queueCfgValue _ n) ⟨hsq, hsq'⟩ ⟨hcq, hcq'⟩ hvec⟩
  case enabled =>
    refine ⟨_, exec_queueCfgWrite hreach v, ?_⟩
    rw [queueCfg_enabled hen, bitB_queueCfgValue]
    obtain ⟨hlow, hbit⟩ := putBits_31 (freg_lt s reg) (bitB n 31)
    have hself : (s.putFreg reg 31 31 (b2n (bitB n 31))).freg reg = putBits (s.freg reg) 31 31 (b2n (bitB n 31)) % 2 ^ 64 :=
      freg_setFreg_self s reg _ hcanon
    exact ⟨by rw [hself]; exact hlow, by rw [hself]; exact hbit, fun a ha => freg_setFreg_other s _ ha, rfl⟩
  case fetch =>
    refine ⟨_, fetchedCmd s q (s.nextEntry q entry), exec_commandFetch hon hfatal hctrl hslot hturn hheld hawake, ?_⟩
    obtain ⟨hq, hbytes, hhead, hout⟩ := fetchedCmd_fields s q (s.nextEntry q entry)
    rw [fetchCmd_unrecorded hjob]
    exact ⟨cmd_setCmd_self _ k _, hq, hbytes, hhead, hout, qp_setQp_self s q _, rfl, fun j hj => cmd_setCmd_other _ _ hj, rfl⟩
  case completion =>
    subst hcq
    exact ⟨_, exec_completionWrite hcmd hout hbox hdone hroom hup hhost, complete_leaves hhost hmsi hcanon⟩

end Sys2Proof.Proofs
end

section
/-! Mailboxes of the host: acknowledgements, publications, and the post engine's trigger. -/

namespace Sys2Proof.Proofs

open Sys2Proof.Machine Sys2Proof.Laws

/-! ### Acknowledgements (R429) -/

section
variable {s : State} {m : Nat} {a : BitVec 32}

theorem ackBox_taken (hready : (s.box m).st = .ready) (hseq : (s.box m).seq = a) :
    s.ackBox m a = s.setBox m { s.box m with st := .consumed, ack := a } :=
  if_pos (by simp [hready, hseq])

theorem ackBox_stale (h : (s.box m).st ≠ .ready ∨ (s.box m).seq ≠ a) : s.ackBox m a = s.count FR.HI_ACK_STALE_CNT :=
  if_neg (by simpa [imp_iff_not_or] using h)

theorem exec_mailboxAck (hon : s.dev.mainOn = true) (hup : s.cxlUp = true) (m : BitVec 12) (a : Half) :
    exec (.mailboxAck m a) s = .next (s.ackBox m.toNat a) := by
  show execMailboxAck m a s = _
  rw [execMailboxAck, hon, hup]; rfl

end

/-! ### Publications (R428, R430 to R432) -/

section
variable {s : State} {p : Publication}

/-- While the word behind the trigger can be written the post engine goes on at once. -/
theorem postReady_reached {u : State} (h : State.reach true 2 (s.freg FR.HI_POST_TRIG + 8) 8 s = .ok u ())
    (f : State → State) : s.postReady f = f s := by
  rw [State.postReady, h]

/-- The state in which p has been published and the post head is the next. -/
def postPublished (s : State) (p : Publication) : State :=
  (State.publish { s with hs := { s.hs with post := none } } p).setFreg FR.HI_POST_HEAD (s.freg FR.HI_POST_HEAD + 1)

/-- The post head moves on to the next record, and is written behind the trigger word. -/
theorem postAdvance_publish {z : State}
    (h : (postPublished s p).spanWrite .host (s.freg FR.HI_POST_TRIG + 8)
      (clean (leBytes 8 (s.freg FR.HI_POST_HEAD + 1))) = .ok z ()) :
    (State.publish { s with hs := { s.hs with post := none } } p).postAdvance = z := by
  have hhead : (State.publish { s with hs := { s.hs with post := none } } p).freg FR.HI_POST_HEAD = s.freg FR.HI_POST_HEAD :=
    freg_publish_other _ p (by decide) (by decide)
  have htrig : (postPublished s p).freg FR.HI_POST_TRIG = s.freg FR.HI_POST_TRIG :=
    (freg_setFreg_other _ _ (by decide)).trans (freg_publish_other _ p (by decide) (by decide))
  rw [← htrig] at h
  rw [State.postAdvance, hhead]
  unfold postPublished at h
  simp only [h]

/-- A waiting record is published to a mailbox that is not READY. -/
theorem exec_publishPost {u z : State} (hpost : s.hs.post = some p) (hfree : (s.box p.mbx).st ≠ .ready)
    (hreach : State.reach true 2 (s.freg FR.HI_POST_TRIG + 8) 8 s = .ok u ())
    (hwrite : (postPublished s p).spanWrite .host (s.freg FR.HI_POST_TRIG + 8)
      (clean (leBytes 8 (s.freg FR.HI_POST_HEAD + 1))) = .ok z ()) :
    exec (.mailboxPublish none) s = .next z := by
  show execMailboxPublish none s = _
  simp only [execMailboxPublish, hpost, if_neg hfree, postReady_reached hreach, postAdvance_publish hwrite]

/-- While its mailbox is READY it waits (R432). -/
theorem exec_publishPost_waits (hpost : s.hs.post = some p) (hready : (s.box p.mbx).st = .ready) :
    exec (.mailboxPublish none) s = .next (s.stallF FR.HI_MBX_WAIT_CNT) := by
  show execMailboxPublish none s = _
  simp only [execMailboxPublish, hpost, if_pos hready]

/-- What the completion of a command publishes (R431). -/
def cmdPublication (c : HostCmd) (result : Nat) : Publication :=
  { mbx := c.f 43 32, ptr := 0, len := 0, tag := c.f 31 16, user := c.head result }

/-- A command that asks for a mailbox publishes it. -/
theorem exec_publishCmd {k : Fin 16} {c : HostCmd} {st d r : Nat} (hcmd : s.cmd k = some c)
    (hout : c.outcome = some (st, d, r)) (howes : c.owesMailbox = true) (hdone : s.cmdSettled c = true)
    (hfree : (s.box (c.f 43 32)).st ≠ .ready) :
    exec (.mailboxPublish (some k)) s =
      .next ((s.publish (cmdPublication c r)).setCmd k (some { c with published := true })) := by
  show execMailboxPublish (some k) s = _
  simp only [execMailboxPublish, hcmd, hout, howes, hdone, Bool.not_true, Bool.or_self, Bool.false_eq_true, if_false,
    if_neg hfree]
  rfl

end

/-! ### The trigger word (R430) -/

section
variable {s u v : State} {w r : List PByte}

/-- A trigger word that does not exceed the head shows no record. -/
theorem exec_postTrigger_idle (hon : s.dev.mainOn = true) (hen : s.postEn = true) (hpost : s.hs.post = none)
    (hword : s.spanRead .host (s.freg FR.HI_POST_TRIG) 8 = .ok u w) (hle : leNat (plain w) ≤ u.freg FR.HI_POST_HEAD) :
    exec .postTrigger s = .next u := by
  show execPostTrigger s = _
  simp only [execPostTrigger, hon, hen, hpost, hword, hle, Option.isSome_none, Bool.not_true, Bool.or_self, Bool.false_eq_true,
    if_false, decide_true, Bool.true_or, if_true]

/-- One that exceeds it has the record at the head taken. -/
theorem exec_postTrigger_takes (hon : s.dev.mainOn = true) (hen : s.postEn = true) (hpost : s.hs.post = none)
    (hword : s.spanRead .host (s.freg FR.HI_POST_TRIG) 8 = .ok u w) (hgood : anyBad w = false)
    (hlt : u.freg FR.HI_POST_HEAD < leNat (plain w))
    (hrec : u.spanRead .host (u.freg FR.HI_POST_BASE + 32 * (u.freg FR.HI_POST_HEAD % 2 ^ u.freg FR.HI_POST_CFG)) 32 = .ok v r)
    (hrecGood : anyBad r = false) :
    exec .postTrigger s = .next (v.takePost (leNat (plain r))) := by
  show execPostTrigger s = _
  simp only [execPostTrigger, hon, hen, hpost, hword, hgood, hrec, hrecGood, Nat.not_le.mpr hlt, Option.isSome_none,
    Bool.not_true, Bool.or_self, Bool.false_eq_true, if_false, decide_false]

/-- The record with the bits e, once its address is translated to q. -/
def postRecord (e : Nat) (q : Phys) : Publication :=
  { mbx := bits e 11 0, ptr := q.pa, len := bits e 127 96, tag := bits e 95 64, user := bits e 255 192 }

/-- A well-formed record whose address is translated begins its publication. -/
theorem takePost_waits {z : State} {e : Nat} {q : Phys} (hrefused : v.hs.refused = []) (htop : bits e 191 185 = 0)
    (hmid : bits e 63 12 = 0) (hlen : 1 ≤ bits e 127 96) (hmax : bits e 127 96 ≤ 65536)
    (hpage : bits e 184 128 % 65536 + bits e 127 96 ≤ 65536)
    (hphys : v.translate { agent := .host, va := bits e 184 128 } = (z, .phys q)) :
    v.takePost e =
      let t := z.setBox (bits e 11 0) (z.box (bits e 11 0)).begin'
      { t with hs := { t.hs with post := some (postRecord e q) } } := by
  have hlen0 : bits e 127 96 ≠ 0 := by omega
  have hnone : v.hostRefused 16 (bits e 184 128) 1 = none := by rw [State.hostRefused, hrefused]; rfl
  simp only [State.takePost, htop, hmid, hlen0, hnone, hphys, Nat.not_lt.mpr hmax, Nat.not_lt.mpr hpage, ne_eq,
    not_true_eq_false, decide_false, Bool.or_self, Bool.false_eq_true, if_false]
  rfl

/-- Only a mailbox that is READY is not EMPTY once a publication to it begins (R428). -/
theorem begin'_st (b : Mailbox) : b.begin'.st = if b.st = .ready then .ready else .empty := by
  unfold Mailbox.begin'
  cases h : b.st <;> simp [h]

end

/-- Settles O47: an acknowledgement takes a READY mailbox or is stale (`ackBox_taken`, `ackBox_stale`); a record and a
command's completion are published (`exec_publishPost`, `exec_publishCmd`, `box_publish_self`) or wait
(`exec_publishPost_waits`); the trigger word shows a record or none (`exec_postTrigger_takes`, `takePost_waits`,
`exec_postTrigger_idle`). -/
theorem mailboxes : Obligations.Mailboxes := by
  unfold Obligations.Mailboxes
  intro s u v z m a p k c w r q b full hboxes hcanon
  refine ⟨fun hon hup => ⟨fun hready hseq => ?taken, fun h => ?stale⟩,
    fun hpost hfree hreach => ?published, fun hpost hready => ?waits,
    fun st d res hcmd hout howes hdone hfree => ?command,
    fun hon hen hpost hword hgood hhs => ⟨fun hle => ?idle, fun hlt hrefused hrec hrecGood hvhs =>
      ?triggered⟩⟩
  case taken => exact ⟨_, exec_mailboxAck hon hup m a, ackBox_taken hready hseq, by
    rw [ackBox_taken hready hseq]; exact box_setBox_self _ _ hboxes⟩
  case stale => exact ⟨_, exec_mailboxAck hon hup m a, ackBox_stale h⟩
  case published =>
    intro h x hwrite hhs hregs
    have hcanon' := publish_canon { s with hs := { s.hs with post := none } } p hcanon
    refine ⟨z, exec_publishPost hpost hfree hreach hwrite, rfl, ?_, ?_, ?_, ?_⟩
    · rw [State.box, hhs]
      exact box_publish_self { s with hs := { s.hs with post := none } } p hboxes
    · rw [hhs]
      exact publish_post { s with hs := { s.hs with post := none } } p
    · rw [hregs _ List.mem_cons_self]
      exact freg_setFreg_self _ _ _ hcanon'
    · rw [hregs _ (List.mem_cons_of_mem _ List.mem_cons_self)]
      exact (freg_setFreg_other _ _ (by decide)).trans (freg_publish_count { s with hs := { s.hs with post := none } } p hcanon)
  case waits =>
    exact ⟨_, exec_publishPost_waits hpost hready, rfl, fun a ha => freg_count_other s _ ha⟩
  case command =>
    refine ⟨_, exec_publishCmd hcmd hout howes hdone hfree, ?_, cmd_setCmd_self _ k _, fun j hj => ?_, ?_, ?_⟩
    · exact box_publish_self s (cmdPublication c res) hboxes
    · rw [cmd_setCmd_other _ _ hj, cmd_publish]
    · rw [setCmd_mem, publish_mem]
    · rw [setCmd_cells, publish_cells]
  case idle => exact ⟨u, exec_postTrigger_idle hon hen hpost hword hle, rfl⟩
  case triggered =>
    intro e va htop hmid hlen hmax hpage hphys hzhs
    refine ⟨_, exec_postTrigger_takes hon hen hpost hword hgood hlt hrec hrecGood, ?_⟩
    rw [takePost_waits (by rw [hvhs]; exact hrefused) htop hmid hlen hmax hpage hphys]
    refine ⟨rfl, rfl, ?_⟩
    have hbox : z.box = s.box := by unfold State.box; rw [hzhs]
    rw [← hbox, ← begin'_st]
    exact congrArg Mailbox.st (box_setBox_self _ _ (by rw [hzhs]; exact hboxes))

end Sys2Proof.Proofs
end

section
/-! Floor registers that a step of the device leaves as they are, their bits, and the registers that an event reaches. -/

namespace Sys2Proof.Proofs

open Sys2Proof.Machine Sys2Proof.Laws

/-! ### Floor registers that stay -/

/-- From s to t no floor register outside ks changes, and they stay in their canonical form. -/
structure FloorRegs (ks : List Nat) (s t : State) : Prop where
  freg : ∀ a, a ∉ ks → t.freg a = s.freg a
  canon : FGood s.fregs → FGood t.fregs

section
variable {ks ls : List Nat} {s t u : State}

theorem floorRegs_of_eq (h : t.fregs = s.fregs) : FloorRegs ks s t :=
  ⟨fun a _ => by rw [State.freg, h, State.freg], fun hw => by rwa [h]⟩

theorem FloorRegs.refl (ks : List Nat) (s : State) : FloorRegs ks s s := floorRegs_of_eq rfl

theorem FloorRegs.trans (h : FloorRegs ks s t) (g : FloorRegs ks t u) : FloorRegs ks s u :=
  ⟨fun a ha => (g.freg a ha).trans (h.freg a ha), g.canon ∘ h.canon⟩

theorem FloorRegs.mono (h : FloorRegs ks s t) (hl : ks ⊆ ls) : FloorRegs ls s t :=
  ⟨fun a ha => h.freg a (fun hk => ha (hl hk)), h.canon⟩

theorem FloorRegs.setFreg (h : FloorRegs ks s t) {a : Nat} (v : Nat) (ha : a ∈ ks) : FloorRegs ks s (t.setFreg a v) :=
  h.trans ⟨fun _ hb => freg_setFreg_other t v (fun e => hb (e ▸ ha)), smap_wf_set _ _ _ _⟩

theorem FloorRegs.count (h : FloorRegs ks s t) {a : Nat} (n : Nat) (ha : a ∈ ks) : FloorRegs ks s (t.count a n) :=
  h.setFreg _ ha

theorem FloorRegs.orFreg (h : FloorRegs ks s t) {a : Nat} (m : Nat) (ha : a ∈ ks) : FloorRegs ks s (t.orFreg a m) :=
  h.setFreg _ ha

theorem FloorRegs.clrFreg (h : FloorRegs ks s t) {a : Nat} (m : Nat) (ha : a ∈ ks) : FloorRegs ks s (t.clrFreg a m) :=
  h.setFreg _ ha

theorem FloorRegs.withPw (h : FloorRegs ks s t) (p : PwrState) (n : Nat) : FloorRegs ks s { t with pw := p, free := n } :=
  h.trans (floorRegs_of_eq rfl)

theorem FloorRegs.advanceEnergy (h : FloorRegs ks s t) (uj : Nat) (ha : FR.ENERGY_UJ ∈ ks) :
    FloorRegs ks s (t.advanceEnergy uj) :=
  (h.count _ ha).trans (floorRegs_of_eq rfl)

theorem FloorRegs.ite {p : Prop} [Decidable p] (h : FloorRegs ks s t) (g : FloorRegs ks s u) :
    FloorRegs ks s (if p then t else u) := by
  split <;> assumption

theorem FloorRegs.foldl {α : Type} {f : State → α → State} (l : List α) (h : FloorRegs ks s t)
    (hf : ∀ t, ∀ a ∈ l, FloorRegs ks t (f t a)) : FloorRegs ks s (l.foldl f t) := by
  induction l generalizing t with
  | nil => exact h
  | cons a l ih =>
    exact ih (h.trans (hf t a List.mem_cons_self)) (fun t b hb => hf t b (List.mem_cons_of_mem a hb))

/-! ### Single bits -/

/-- Bit k set in a canonical floor register: the other bits stay. -/
theorem bitB_orFreg (a i : Nat) {k : Nat} (hk : k < 64) (hw : FGood s.fregs) :
    bitB ((s.orFreg a (2 ^ k)).freg a) i = (bitB (s.freg a) i || decide (k = i)) := by
  rw [freg_orFreg_self a (Nat.pow_lt_pow_right (by decide) hk) hw, bitB_eq_testBit, bitB_eq_testBit, Nat.testBit_or,
    Nat.testBit_two_pow]

/-- Bit k cleared in a canonical floor register: the other bits stay. -/
theorem bitB_clrFreg (a k i : Nat) (hw : FGood s.fregs) :
    bitB ((s.clrFreg a (2 ^ k)).freg a) i = (bitB (s.freg a) i && !decide (k = i)) := by
  have hval : (s.clrFreg a (2 ^ k)).freg a = s.freg a - (s.freg a &&& 2 ^ k) :=
    (freg_setFreg_self s a _ hw).trans (Nat.mod_eq_of_lt (Nat.lt_of_le_of_lt (Nat.sub_le _ _) (freg_lt s a)))
  rw [hval, sub_and_eq_ldiff, bitB_eq_testBit, bitB_eq_testBit, Nat.testBit_ldiff, Nat.testBit_two_pow]

end

/-! ### Events (R499) -/

/-- The floor registers that an event of a class may change. -/
def eventRegs (cls : Nat) : List Nat :=
  [FR.ERR_CLS_CNT cls, FR.ALM_LIMIT_CNT, FR.ALM_DROP_CNT, FR.ALM_STATUS, FR.ALM_SEV_DROP_CNT, FR.HI_EVT]

theorem floorRegs_hostEvent {ks : List Nat} (s : State) (b : Nat) (h : FR.HI_EVT ∈ ks) : FloorRegs ks s (s.hostEvent b) :=
  ⟨fun a ha => (freg_hostEvent s b a).trans (freg_orFreg_other s _ (fun e => ha (e ▸ h))), (keepsFloor_hostEvent s b).canon⟩

theorem floorRegs_storeRec {ks : List Nat} (s : State) (r : AlmRec) (hd : FR.ALM_DROP_CNT ∈ ks) (hs : FR.ALM_STATUS ∈ ks) :
    FloorRegs ks s (s.storeRec r) := by
  unfold State.storeRec
  extract_lets k lost a s1
  have h1 : FloorRegs ks s s1 := floorRegs_of_eq rfl
  exact .ite ((h1.count _ hd).orFreg _ hs) h1

theorem floorRegs_storeSevere {ks : List Nat} (s : State) (r : AlmRec) (h : FR.ALM_SEV_DROP_CNT ∈ ks) :
    FloorRegs ks s (s.storeSevere r) := by
  unfold State.storeSevere
  exact .ite (.ite (floorRegs_of_eq rfl) ((FloorRegs.refl ks s).count _ h)) (.refl ks s)

theorem floorRegs_logEvent (s : State) (code index cls addr info0 info1 : Nat) :
    FloorRegs (eventRegs cls) s (s.logEvent code index cls addr info0 info1) := by
  unfold State.logEvent
  extract_lets seq r s1 a1 s2 e used a2 s3 s4 up host s5
  have h2 : FloorRegs (eventRegs cls) s s2 :=
    ((FloorRegs.refl _ s).count 1 (by simp [eventRegs])).trans (floorRegs_of_eq rfl)
  have h3 : FloorRegs (eventRegs cls) s s3 := .ite (h2.trans (floorRegs_of_eq rfl)) h2
  have hs4 : FloorRegs (eventRegs cls) s s4 := (h3.trans (floorRegs_storeRec _ r (by simp [eventRegs])
    (by simp [eventRegs]))).trans (floorRegs_storeSevere _ r (by simp [eventRegs]))
  have h5 : FloorRegs (eventRegs cls) s s5 := .ite (hs4.trans (floorRegs_of_eq rfl)) hs4
  exact .ite (h2.count _ (by simp [eventRegs])) (.ite (h5.trans (floorRegs_hostEvent _ 3 (by simp [eventRegs]))) h5)

theorem storeSevere_hs (s : State) (r : AlmRec) : (s.storeSevere r).hs = s.hs := by
  unfold State.storeSevere
  split
  · split <;> rfl
  · rfl

theorem storeRec_hs (s : State) (r : AlmRec) : (s.storeRec r).hs = s.hs := by
  unfold State.storeRec
  simp only [apply_ite State.hs, orFreg_hs, count_hs, ite_self]

/-- An event below class 3 does not reach the host (R496, R499). -/
theorem logEvent_hs (s : State) (code index addr info0 info1 : Nat) {cls : Nat} (h : cls < 3) :
    (s.logEvent code index cls addr info0 info1).hs = s.hs := by
  have h3 : (cls == 3) = false := by simp; omega
  have h4 : (cls == 4) = false := by simp; omega
  unfold State.logEvent
  simp only [h3, h4, Bool.false_and, Bool.or_self, Bool.false_eq_true, if_false, apply_ite State.hs, storeSevere_hs,
    storeRec_hs, count_hs, ite_self]

/-- An event below class 3 changes the Almanac and floor registers alone. -/
theorem logEvent_frame (s : State) (code index addr info0 info1 : Nat) {cls : Nat} (h : cls < 3) :
    let t := s.logEvent code index cls addr info0 info1
    t = { s with fregs := t.fregs, alm := t.alm } := by
  intro t
  have hlogs : Logs s t := logs_logEvent s code index cls addr info0 info1
  have hhs : t.hs = s.hs := logEvent_hs s code index addr info0 info1 h
  rw [Logs, hhs] at hlogs
  exact hlogs

end Sys2Proof.Proofs
end

section
/-! The sensors of the power controller, and what its values depend on. -/

namespace Sys2Proof.Proofs

open Sys2Proof.Machine Sys2Proof.Laws

/-! ### Sensors (R458, R459) -/

/-- The registers that a reading of the sensors writes. -/
def sensorRegs : List Nat :=
  FR.PWR_THERM :: (List.range 64).map FR.PWR_TEMP ++ (List.range 20).map FR.PWR_HBM_TEMP

theorem temp_mem_sensorRegs {i : Nat} (h : i < 64) : FR.PWR_TEMP i ∈ sensorRegs := by
  simp only [sensorRegs, List.mem_append, List.mem_cons, List.mem_map, List.mem_range]
  exact .inl (.inr ⟨i, h, rfl⟩)

theorem hbmTemp_mem_sensorRegs {i : Nat} (h : i < 20) : FR.PWR_HBM_TEMP i ∈ sensorRegs := by
  simp only [sensorRegs, List.mem_append, List.mem_map, List.mem_range]
  exact .inr ⟨i, h, rfl⟩

theorem temp_injective : Function.Injective FR.PWR_TEMP := fun i j h => by simp only [FR.PWR_TEMP] at h; omega

theorem hbmTemp_injective : Function.Injective FR.PWR_HBM_TEMP := fun i j h => by simp only [FR.PWR_HBM_TEMP] at h; omega

/-- The readings of the sensors, as a state of the controller shows them. -/
def sensed (s : State) (i : IntervalIn) : State :=
  ((s.putTemps FR.PWR_TEMP 64 i.temps).putTemps FR.PWR_HBM_TEMP 20 i.hbmTemps).putTherm

section
variable {s t : State}

theorem putTemps_succ (s : State) (reg : Nat → Nat) (n : Nat) (l : List Int) :
    s.putTemps reg (n + 1) l = (l[n]?).elim (s.putTemps reg n l) (fun x => (s.putTemps reg n l).setFreg (reg n) (wrap 16 x)) := by
  simp only [State.putTemps, List.range_succ, List.foldl_append, List.foldl_cons, List.foldl_nil]
  cases l[n]? <;> rfl

theorem floorRegs_putTemps {ks : List Nat} (s : State) (reg : Nat → Nat) (n : Nat) (l : List Int)
    (hreg : ∀ i < n, reg i ∈ ks) : FloorRegs ks s (s.putTemps reg n l) := by
  induction n with
  | zero => exact .refl ks s
  | succ n ih =>
    have h := ih fun i hi => hreg i (by omega)
    rw [putTemps_succ]
    cases l[n]? with
    | none => exact h
    | some x => exact h.setFreg _ (hreg n (by omega))

/-- A new reading stands in its register. -/
theorem freg_putTemps {reg : Nat → Nat} (hinj : Function.Injective reg) (hw : FGood s.fregs) {j n : Nat} (hj : j < n)
    {l : List Int} {x : Int} (hx : l[j]? = some x) : (s.putTemps reg n l).freg (reg j) = wrap 16 x := by
  induction n with
  | zero => omega
  | succ n ih =>
    rw [putTemps_succ]
    by_cases hjn : j = n
    · subst hjn
      have hcanon := (floorRegs_putTemps (ks := (List.range j).map reg) s reg j l fun i hi =>
        List.mem_map_of_mem (List.mem_range.mpr hi)).canon hw
      have hlt : wrap 16 x < 2 ^ 64 := by simp only [wrap]; omega
      rw [hx, Option.elim_some, freg_setFreg_self _ _ _ hcanon, Nat.mod_eq_of_lt hlt]
    · have h := ih (by omega)
      cases l[n]? with
      | none => exact h
      | some y =>
        rw [Option.elim_some, freg_setFreg_other _ _ (fun e => hjn (hinj e))]
        exact h

theorem putTemps_frame (s : State) (reg : Nat → Nat) (n : Nat) (l : List Int) :
    ∃ R, s.putTemps reg n l = { s with fregs := R } := by
  induction n with
  | zero => exact ⟨_, rfl⟩
  | succ n ih =>
    rw [putTemps_succ]
    obtain ⟨R, h⟩ := ih
    cases l[n]? with
    | none => exact ⟨R, h⟩
    | some x => exact ⟨_, by rw [Option.elim_some, h]; rfl⟩

theorem putTherm_frame (s : State) : ∃ R, s.putTherm = { s with fregs := R } := by
  unfold State.putTherm
  split <;> exact ⟨_, rfl⟩

theorem floorRegs_putTherm {ks : List Nat} (s : State) (h : FR.PWR_THERM ∈ ks) : FloorRegs ks s s.putTherm := by
  unfold State.putTherm
  split
  · exact (FloorRegs.refl ks s).setFreg _ h
  · exact .refl ks s

theorem sensed_frame (s : State) (i : IntervalIn) : sensed s i = { s with fregs := (sensed s i).fregs } := by
  obtain ⟨R, h⟩ := putTemps_frame s FR.PWR_TEMP 64 i.temps
  obtain ⟨R', h'⟩ := putTemps_frame { s with fregs := R } FR.PWR_HBM_TEMP 20 i.hbmTemps
  obtain ⟨R'', h''⟩ := putTherm_frame { s with fregs := R' }
  rw [sensed, h, h', h'']

theorem floorRegs_sensed (s : State) (i : IntervalIn) : FloorRegs sensorRegs s (sensed s i) :=
  ((floorRegs_putTemps s FR.PWR_TEMP 64 _ fun _ => temp_mem_sensorRegs).trans
    (floorRegs_putTemps _ FR.PWR_HBM_TEMP 20 _ fun _ => hbmTemp_mem_sensorRegs)).trans
    (floorRegs_putTherm _ (by simp [sensorRegs]))

/-- A register whose address lies outside the rows of sensors is no sensor's. -/
theorem not_mem_sensorRegs {a : Nat} (hrow : a < FR.PWR_TEMP 0 ∨ FR.PWR_WT 0 ≤ a) (htherm : a ≠ FR.PWR_THERM) :
    a ∉ sensorRegs := by
  simp only [sensorRegs, List.mem_append, List.mem_cons, List.mem_map, List.mem_range, not_or, not_exists, not_and]
  simp only [FR.PWR_TEMP, FR.PWR_WT] at hrow
  exact ⟨⟨htherm, fun i _ => by simp only [FR.PWR_TEMP]; omega⟩, fun i _ => by simp only [FR.PWR_HBM_TEMP]; omega⟩

theorem sgn_wrap {x : Int} (h0 : 0 ≤ x) (h : x < 2 ^ 15) : sgn 16 (wrap 16 x) = x := by
  have hw : wrap 16 x = x.toNat := by simp only [wrap]; omega
  rw [hw]
  simp only [sgn]
  split <;> omega

/-- A reading of an on-die sensor is shown. -/
theorem tempOf_sensed (i : IntervalIn) (hw : FGood s.fregs) {j : Nat} (hj : j < 64) {x : Int} (hx : i.temps[j]? = some x)
    (h0 : 0 ≤ x) (hlt : x < 2 ^ 15) : (sensed s i).tempOf j = x := by
  have htemp : FR.PWR_TEMP j ∉ FR.PWR_THERM :: (List.range 20).map FR.PWR_HBM_TEMP := by
    simp only [List.mem_cons, List.mem_map, List.mem_range, not_or, not_exists, not_and]
    simp only [FR.PWR_TEMP, FR.PWR_THERM, FR.PWR_HBM_TEMP]
    exact ⟨by omega, fun k _ => by omega⟩
  have hrest : FloorRegs (FR.PWR_THERM :: (List.range 20).map FR.PWR_HBM_TEMP) (s.putTemps FR.PWR_TEMP 64 i.temps) (sensed s i) :=
    (floorRegs_putTemps _ FR.PWR_HBM_TEMP 20 _ fun k hk =>
      List.mem_cons_of_mem _ (List.mem_map_of_mem (List.mem_range.mpr hk))).trans (floorRegs_putTherm _ List.mem_cons_self)
  rw [State.tempOf, hrest.freg _ htemp, freg_putTemps temp_injective hw hj hx, sgn_wrap h0 hlt]

/-- A reading of a stack is shown. -/
theorem hbmTempOf_sensed (i : IntervalIn) (hw : FGood s.fregs) {j : Nat} (hj : j < 20) {x : Int}
    (hx : i.hbmTemps[j]? = some x) (h0 : 0 ≤ x) (hlt : x < 2 ^ 15) : (sensed s i).hbmTempOf j = x := by
  have hcanon := (floorRegs_putTemps s FR.PWR_TEMP 64 i.temps fun _ => temp_mem_sensorRegs).canon hw
  have htherm : FR.PWR_HBM_TEMP j ∉ [FR.PWR_THERM] := by
    simp only [List.mem_singleton, FR.PWR_HBM_TEMP, FR.PWR_THERM]
    omega
  rw [State.hbmTempOf, sensed, (floorRegs_putTherm _ List.mem_cons_self).freg _ htherm,
    freg_putTemps hbmTemp_injective hcanon hj hx, sgn_wrap h0 hlt]

theorem tripCause_none : s.tripCause = none ↔
    (∀ j ∈ s.sensors, s.tempOf j < 115 * 16) ∧ ∀ j < 20, s.hbmTempOf j < 105 * 16 := by
  unfold State.tripCause
  split
  case h_1 j hj =>
    have hhot : 115 * 16 ≤ s.tempOf j := by simpa using List.find?_some hj
    have hmem := List.mem_of_find?_eq_some hj
    exact ⟨fun h => by simp at h, fun h => absurd (h.1 j hmem) (by omega)⟩
  case h_2 hdie =>
    have hcool : ∀ j ∈ s.sensors, s.tempOf j < 115 * 16 := by simpa using hdie
    split
    case h_1 j hj =>
      have hhot : 105 * 16 ≤ s.hbmTempOf j := by simpa using List.find?_some hj
      have hmem := List.mem_range.mp (List.mem_of_find?_eq_some hj)
      exact ⟨fun h => by simp at h, fun h => absurd (h.2 j hmem) (by omega)⟩
    case h_2 hstacks =>
      exact ⟨fun _ => ⟨hcool, by simpa using hstacks⟩, fun _ => rfl⟩

theorem readSensors_eq (s : State) (i : IntervalIn) : s.readSensors i = if s.dev.trip then sensed s i
    else (sensed s i).tripCause.elim (sensed s i) (sensed s i).tripNow := by
  have hdev : s.dev.trip = (sensed s i).dev.trip := by rw [sensed_frame]
  rw [hdev]
  unfold State.readSensors sensed
  generalize State.putTherm _ = u
  dsimp only
  cases u.tripCause <;> rfl

/-- Sensors that have tripped before, or that do not trip now, change nothing beyond their registers. -/
theorem readSensors_cool {i : IntervalIn} (h : s.dev.trip = true ∨ (sensed s i).tripCause = none) :
    s.readSensors i = sensed s i := by
  rw [readSensors_eq]
  split
  · rfl
  · rw [h.resolve_left (by assumption), Option.elim_none]

/-- A reading that trips (R459). -/
theorem readSensors_trips {i : IntervalIn} (hnot : s.dev.trip = false) {c : Nat × Int}
    (hc : (sensed s i).tripCause = some c) : s.readSensors i = (sensed s i).tripNow c := by
  rw [readSensors_eq, hnot, if_neg Bool.false_ne_true, hc, Option.elim_some]

end

/-! ### What the controller's values depend on -/

section
variable {s t : State}

theorem sensors_congr (h : t.pw.excluded = s.pw.excluded) : t.sensors = s.sensors := by rw [State.sensors, State.sensors, h]

theorem hottest_congr (h : ∀ i, t.tempOf i = s.tempOf i) (l : List Nat) : t.hottest l = s.hottest l := by
  induction l with
  | nil => rfl
  | cons i l ih => simp only [State.hottest, ih, h]

theorem tripCause_congr (hp : t.pw.excluded = s.pw.excluded) (hd : ∀ i, t.tempOf i = s.tempOf i)
    (hs : ∀ i, t.hbmTempOf i = s.hbmTempOf i) : t.tripCause = s.tripCause := by
  simp only [State.tripCause, sensors_congr hp, hd, hs]

theorem estimate_congr (hp : t.pw = s.pw) (h : ∀ i, t.tempOf i = s.tempOf i) (acts : List Nat) :
    t.estimate acts = s.estimate acts := by
  simp only [State.estimate, State.terms, State.meanRise, sensors_congr (congrArg PwrState.excluded hp), hp, h]

theorem controlled_congr (hp : t.pw = s.pw) (hs : t.freg FR.PWR_STATUS = s.freg FR.PWR_STATUS) (hf : t.free = s.free)
    (e : Rat) : t.controlled e = s.controlled e := by
  simp only [State.controlled, hp, hs, hf]

theorem phaseIds_congr (h : ∀ c, t.cell c = s.cell c) (announced : Bool) : t.phaseIds announced = s.phaseIds announced := by
  simp only [State.phaseIds, h]

theorem pllAt_congr (hp : t.pw.pll = s.pw.pll) (hq : t.pw.cellQ = s.pw.cellQ) (hsr : t.pw.sr = s.pw.sr)
    (hx : t.pw.srExit = s.pw.srExit) (hc : ∀ c, (t.cell c).cp.st = (s.cell c).cp.st) : t.pllAt = s.pllAt := by
  have hquiet : t.allQuiet = s.allQuiet := by simp only [State.allQuiet, hsr, hx, hc]
  simp only [State.pllAt, hquiet, hp, hq]

end

end Sys2Proof.Proofs
end

section
/-! An interval of the power controller in its stages: what each forms, and what it leaves. -/

namespace Sys2Proof.Proofs

open Sys2Proof.Machine Sys2Proof.Laws

/-! ### The limit, the estimate and the controlled quantity (R447 to R450) -/

/-- The state with the window of measurements closed where its 25 intervals are over. -/
def windowed (s : State) : State := if 25 ≤ s.pw.winN then s.closeWindow else s

/-- The limit, the estimate and the controlled quantity of an interval, formed and shown. -/
def formed (s : State) (acts : List Nat) : State :=
  let s := windowed (s.setFreg FR.PWR_LIMIT_W s.capOf)
  let e := s.estimate acts
  let ctl := s.controlled e.1
  let p := s.pw
  State.setFreg { s with
    pw := { p with est := e.1, fixed := e.2, ctl := ctl, winN := p.winN + 1, winSum := p.winSum + e.1,
                   winA1 := p.winA1 + s.meanRise, winP := p.winP + 2 * ctl }
    free := s.free + 1 } FR.PWR_EST_W (shown e.1 % 65536)

/-- The reading of the hottest on-die sensor. -/
def hotReading (s : State) : Int :=
  match s.hottest s.sensors with
  | some i => s.tempOf i
  | none => 0

/-- The cap loop's step and the response to the hottest sensor taken. -/
def steered (s : State) : State :=
  let limit : Rat := ((s.freg FR.PWR_LIMIT_W : Nat) : Rat)
  { s with pw := (s.pw.capStep limit).thermStep (hotReading s) (16 * bits (s.freg FR.PWR_THERM_CFG) 7 0) }

section
variable {s : State} {acts : List Nat}

theorem floorRegs_windowed {ks : List Nat} (s : State) (h : FR.ENERGY_UJ ∈ ks) : FloorRegs ks s (windowed s) := by
  unfold windowed State.closeWindow
  exact .ite (((FloorRegs.refl ks s).advanceEnergy _ h).withPw _ _) (.refl ks s)

/-- The end of a window sets the window back and counts it. -/
theorem windowed_pw (s : State) : (windowed s).pw = if 25 ≤ s.pw.winN then
    { s.pw with winN := 0, winSum := 0, winA1 := 0, winP := 0, missed := s.pw.missed + 1 } else s.pw := by
  rw [windowed, apply_ite State.pw]
  rfl

theorem windowed_free (s : State) : (windowed s).free = if 25 ≤ s.pw.winN then s.free + 1 else s.free := by
  rw [windowed, apply_ite State.free]
  rfl

theorem floorRegs_formed (s : State) (acts : List Nat) :
    FloorRegs [FR.PWR_LIMIT_W, FR.ENERGY_UJ, FR.PWR_EST_W] s (formed s acts) := by
  have h := ((FloorRegs.refl [FR.PWR_LIMIT_W, FR.ENERGY_UJ, FR.PWR_EST_W] s).setFreg (a := FR.PWR_LIMIT_W) s.capOf
    (by decide)).trans (floorRegs_windowed _ (by decide))
  exact (h.withPw _ _).setFreg (a := FR.PWR_EST_W) _ (by decide)

theorem capOf_lt (s : State) : s.capOf < 2 ^ 64 :=
  Nat.lt_of_le_of_lt ((Nat.min_le_left _ _).trans (Nat.min_le_left _ _)) (freg_lt s _)

/-- PWR_LIMIT_W shows the limit (R447). -/
theorem formed_limit (hw : FGood s.fregs) : (formed s acts).freg FR.PWR_LIMIT_W = s.capOf := by
  have hset := (freg_setFreg_self s FR.PWR_LIMIT_W s.capOf hw).trans (Nat.mod_eq_of_lt (capOf_lt s))
  have hrest : FloorRegs [FR.ENERGY_UJ, FR.PWR_EST_W] (s.setFreg FR.PWR_LIMIT_W s.capOf) (formed s acts) :=
    ((floorRegs_windowed _ List.mem_cons_self).withPw _ _).setFreg (a := FR.PWR_EST_W) _ (by decide)
  rw [hrest.freg _ (by decide), hset]

/-- Showing the limit changes nothing that the estimate and the controlled quantity depend on. -/
theorem windowed_limit (s : State) (v : Nat) :
    let r := windowed (s.setFreg FR.PWR_LIMIT_W v)
    r.pw = (windowed s).pw ∧ r.free = (windowed s).free ∧
      ∀ a, a ≠ FR.PWR_LIMIT_W → a ≠ FR.ENERGY_UJ → r.freg a = (windowed s).freg a := by
  refine ⟨by rw [windowed_pw, windowed_pw]; rfl, by rw [windowed_free, windowed_free]; rfl, fun a hl he => ?_⟩
  have hnot : a ∉ [FR.ENERGY_UJ] := by simpa using he
  rw [(floorRegs_windowed _ List.mem_cons_self).freg a hnot, (floorRegs_windowed _ List.mem_cons_self).freg a hnot,
    freg_setFreg_other s _ hl]

theorem temp_not_shown (i : Nat) : FR.PWR_TEMP i ≠ FR.PWR_LIMIT_W ∧ FR.PWR_TEMP i ≠ FR.ENERGY_UJ := by
  simp only [FR.PWR_TEMP, FR.PWR_LIMIT_W, FR.ENERGY_UJ]
  omega

theorem estimate_windowed_limit (s : State) (v : Nat) (acts : List Nat) :
    (windowed (s.setFreg FR.PWR_LIMIT_W v)).estimate acts = (windowed s).estimate acts := by
  obtain ⟨hpw, -, hfreg⟩ := windowed_limit s v
  refine estimate_congr hpw (fun i => ?_) acts
  rw [State.tempOf, hfreg _ (temp_not_shown i).1 (temp_not_shown i).2, State.tempOf]

/-- The estimate (R448). -/
theorem formed_est (s : State) (acts : List Nat) : (formed s acts).pw.est = ((windowed s).estimate acts).1 :=
  congrArg Prod.fst (estimate_windowed_limit s s.capOf acts)

/-- The controlled quantity (R450). -/
theorem formed_ctl (s : State) (acts : List Nat) :
    (formed s acts).pw.ctl = (windowed s).controlled ((windowed s).estimate acts).1 := by
  obtain ⟨hpw, hfree, hfreg⟩ := windowed_limit s s.capOf
  rw [← estimate_windowed_limit s s.capOf acts]
  exact controlled_congr hpw (hfreg _ (by decide) (by decide)) hfree _

/-- Of the controller's settings none changes while the quantities are formed. -/
theorem formed_pw (s : State) (acts : List Nat) : ∃ est fixed ctl winN winSum winA1 winP missed, (formed s acts).pw =
    { s.pw with est, fixed, ctl, winN, winSum, winA1, winP, missed } := by
  have h : ∃ winN winSum winA1 winP missed, (windowed (s.setFreg FR.PWR_LIMIT_W s.capOf)).pw =
      { s.pw with winN, winSum, winA1, winP, missed } := by
    rw [windowed_pw]
    split <;> exact ⟨_, _, _, _, _, rfl⟩
  obtain ⟨_, _, _, _, _, h⟩ := h
  exact ⟨_, _, _, _, _, _, _, _, by rw [formed, State.setFreg]; dsimp only; rw [h]⟩

theorem formed_cells (s : State) (acts : List Nat) : (formed s acts).cells = s.cells := by
  have h : (windowed (s.setFreg FR.PWR_LIMIT_W s.capOf)).cells = s.cells := by
    rw [windowed, apply_ite State.cells]
    exact ite_self _
  exact h

/-! ### Phases (R452, R453) -/

theorem floorRegs_evalPhase {ks : List Nat} (s : State) (h : FR.PWR_PHASE ∈ ks) : FloorRegs ks s s.evalPhase :=
  ((FloorRegs.refl ks s).withPw _ _).setFreg _ h

/-- Phases touch what is learnt of them alone. -/
theorem evalPhase_pw (s : State) : ∃ phSince phN phSum pht, s.evalPhase.pw = { s.pw with phSince, phN, phSum, pht } := by
  unfold State.evalPhase PwrState.learn State.setFreg
  dsimp only
  split
  · exact ⟨_, _, _, _, rfl⟩
  · split <;> exact ⟨_, _, _, _, rfl⟩

theorem mostHeld_lt {l : List Nat} {n : Nat} (hn : 0 < n) (h : ∀ i ∈ l, i < n) : mostHeld l < n := by
  have hfold : ∀ l' : List Nat, (∀ i ∈ l', i < n) → ∀ b, b < n →
      l'.foldl (fun b i => if l.count b < l.count i || (l.count b == l.count i && i < b) then i else b) b < n := by
    intro l'
    induction l' with
    | nil => exact fun _ b hb => hb
    | cons i l' ih =>
      intro hl b hb
      refine ih (fun j hj => hl j (List.mem_cons_of_mem i hj)) _ ?_
      dsimp only
      split
      · exact hl i List.mem_cons_self
      · exact hb
  refine hfold l h _ ?_
  cases l with
  | nil => exact hn
  | cons i l => exact h i List.mem_cons_self

theorem phaseIds_lt (s : State) (announced : Bool) : ∀ i ∈ s.phaseIds announced, i < 2 ^ 16 := by
  intro i hi
  obtain ⟨c, -, rfl⟩ := List.mem_map.mp hi
  cases announced <;> exact Nat.mod_lt _ (by decide)

/-- PWR_PHASE shows the ids that most cells have announced and hold (R452). -/
theorem evalPhase_phase (hw : FGood s.fregs) :
    s.evalPhase.freg FR.PWR_PHASE = mostHeld (s.phaseIds true) * 65536 + mostHeld (s.phaseIds false) := by
  have hnow := mostHeld_lt (by decide) (phaseIds_lt s false)
  have hnext := mostHeld_lt (by decide) (phaseIds_lt s true)
  refine (freg_setFreg_self { s with pw := _ } _ _ hw).trans (Nat.mod_eq_of_lt ?_)
  omega

/-! ### The cap loop (R455) and temperature (R459) -/

/-- The table of R455: one step of f_cap, the halvings and the floor clock at each level. -/
def capTable (limit p : Rat) (l f h k : Nat) : Nat × Nat × Nat × Nat :=
  if limit < p then
    if l = 0 then (if 25 < f then (0, max 25 (f - 100), h, k) else (1, f, h, k))
    else if l = 1 then (if h < 4 then (1, f, h + 1, k) else (2, f, h, k))
    else (l, f, h, max 500 (k - 250))
  else if p ≤ 95 / 100 * limit then
    if l = 0 then (0, min 2500 (f + 25), h, k)
    else if l = 1 then (if 0 < h then (1, f, h - 1, k) else (0, f, h, k))
    else (if k < 2000 then (l, f, h, min 2000 (k + 250)) else (1, f, h, k))
  else (l, f, h, k)

/-- What the cap loop sets. -/
def capSettings (p : PwrState) : Nat × Nat × Nat × Nat := (p.level, p.fCap, p.halvings, p.floorClk)

theorem capSettings_stepDown (p : PwrState) : capSettings p.stepDown =
    if p.level = 0 then (if 25 < p.fCap then (0, max 25 (p.fCap - 100), p.halvings, p.floorClk)
      else (1, p.fCap, p.halvings, p.floorClk))
    else if p.level = 1 then (if p.halvings < 4 then (1, p.fCap, p.halvings + 1, p.floorClk)
      else (2, p.fCap, p.halvings, p.floorClk))
    else (p.level, p.fCap, p.halvings, max 500 (p.floorClk - 250)) := by
  unfold PwrState.stepDown
  split
  case h_1 h => split <;> simp [capSettings, *]
  case h_2 h => split <;> simp [capSettings, *]
  case h_3 h0 h1 => rw [if_neg h0, if_neg h1]; rfl

theorem capSettings_stepUp (p : PwrState) : capSettings p.stepUp =
    if p.level = 0 then (0, min 2500 (p.fCap + 25), p.halvings, p.floorClk)
    else if p.level = 1 then (if 0 < p.halvings then (1, p.fCap, p.halvings - 1, p.floorClk)
      else (0, p.fCap, p.halvings, p.floorClk))
    else (if p.floorClk < 2000 then (p.level, p.fCap, p.halvings, min 2000 (p.floorClk + 250))
      else (1, p.fCap, p.halvings, p.floorClk)) := by
  unfold PwrState.stepUp
  split
  case h_1 h => simp [capSettings, h]
  case h_2 h => split <;> simp [capSettings, *]
  case h_3 h0 h1 => rw [if_neg h0, if_neg h1]; split <;> rfl

/-- The cap loop takes one step of its table. -/
theorem capSettings_capStep (p : PwrState) (limit : Rat) :
    capSettings (p.capStep limit) = capTable limit p.ctl p.level p.fCap p.halvings p.floorClk := by
  rw [PwrState.capStep, apply_ite capSettings, apply_ite capSettings, capSettings_stepDown, capSettings_stepUp]
  rfl

theorem capStep_pw (p : PwrState) (limit : Rat) : ∃ level fCap halvings floorClk,
    p.capStep limit = { p with level, fCap, halvings, floorClk } := by
  unfold PwrState.capStep PwrState.stepDown PwrState.stepUp
  repeat' split
  all_goals exact ⟨_, _, _, _, rfl⟩

theorem thermStep_pw (p : PwrState) (hot throt : Int) : ∃ b fTherm thermWait,
    p.thermStep hot throt = { p with throt := b, fTherm, thermWait } := by
  unfold PwrState.thermStep
  repeat' split
  all_goals exact ⟨_, _, _, rfl⟩

/-- From its threshold on the hottest sensor throttles (R459). -/
theorem thermStep_hot (p : PwrState) {hot throt : Int} (h : throt ≤ hot) :
    p.thermStep hot throt = { p with throt := true, fTherm := max 25 (p.fTherm - 100), thermWait := 0 } := by
  rw [PwrState.thermStep, if_pos (by simp [h])]

/-- A level of the table is 0, 1 or 2. -/
theorem capTable_level {l : Nat} (hl : l ≤ 2) (limit p : Rat) (f h k : Nat) : (capTable limit p l f h k).1 ≤ 2 := by
  unfold capTable
  repeat' split
  all_goals (dsimp only; omega)

end

end Sys2Proof.Proofs
end

section
/-! What an interval of the power controller shows of the level, and the frequency that it chooses. -/

namespace Sys2Proof.Proofs

open Sys2Proof.Machine Sys2Proof.Laws

/-! ### The level shown (R455, R463) -/

/-- The floor registers that the level's effects reach beside PWR_STATUS. -/
def levelRegs : List Nat := [FR.PWR_THROT_INT_CNT, FR.PWR_FLOOR_CUT_CNT, FR.CE_STATUS, FR.CE_SLOW_CNT]

/-- From s to t the level has had some of its effects: counters, the Parade engine, and stalls of stream engines. -/
structure Shown (s t : State) : Prop where
  floor : FloorRegs levelRegs s t
  pw : t.pw = s.pw
  cells : ∀ c, Regs [CR.SX_STALL_PWR_CNT] (s.cell c) (t.cell c)

section
variable {s t u : State}

theorem Shown.refl (s : State) : Shown s s := ⟨.refl _ s, rfl, fun _ => .refl _ _⟩

theorem Shown.trans (h : Shown s t) (g : Shown t u) : Shown s u :=
  ⟨h.floor.trans g.floor, g.pw.trans h.pw, fun c => (h.cells c).trans (g.cells c)⟩

theorem Shown.setFreg (h : Shown s t) {a : Nat} (v : Nat) (ha : a ∈ levelRegs) : Shown s (t.setFreg a v) :=
  ⟨h.floor.setFreg v ha, h.pw, h.cells⟩

theorem Shown.ite {p : Prop} [Decidable p] (h : Shown s t) (g : Shown s u) : Shown s (if p then t else u) := by
  split <;> assumption

theorem Shown.foldl {α : Type} {f : State → α → State} (l : List α) (h : Shown s t)
    (hf : ∀ t a, Shown s t → Shown s (f t a)) : Shown s (l.foldl f t) :=
  foldl_keeps l h hf

theorem Shown.slowInst (h : Shown s t) (k : Fin 32) : Shown s (t.slowInst k) := by
  unfold State.slowInst
  split
  · exact .ite ((h.trans ⟨floorRegs_of_eq rfl, rfl, fun _ => .refl _ _⟩ : Shown s (t.setInst k _)).setFreg _ (by decide)) h
  · exact h

theorem Shown.stall (h : Shown s t) (c : CellId) : Shown s (t.stall c CR.SX_STALL_PWR_CNT) := by
  refine h.trans ⟨floorRegs_of_eq rfl, rfl, fun d => ?_⟩
  rw [State.stall, cell_draw, State.countC]
  by_cases hd : d = c
  · subst hd
    rw [cell_modCell_self]
    exact (Regs.refl _ _).count _ (by decide)
  · rw [cell_modCell_other _ _ hd]
    exact .refl _ _

/-- PWR_STATUS as the level has it shown. -/
def levelStatus (s : State) : Nat :=
  putBits (s.freg FR.PWR_STATUS) 11 7
    (b2n (!s.pw.halved.isEmpty) + 2 * b2n s.pw.throt + 4 * b2n (s.pw.level == 2) + 8 * s.pw.level)

/-- The level is shown in PWR_STATUS, and has its effects. -/
theorem shown_showLevel (s : State) : Shown (s.setFreg FR.PWR_STATUS (levelStatus s)) s.showLevel := by
  unfold State.showLevel
  extract_lets p st st' s1 s2 s3
  have h2 : Shown s1 s2 := .ite ((Shown.refl s1).setFreg _ (by decide)) (.refl s1)
  have h3 : Shown s1 s3 := .ite (h2.setFreg _ (by decide)) h2
  have h4 : Shown s1 (if p.level = 2 then State.slowInstances (s3.orFreg FR.CE_STATUS 16) else s3.clrFreg FR.CE_STATUS 16) :=
    .ite (.foldl _ (h3.setFreg _ (by decide)) fun _ k h => h.slowInst k) (h3.setFreg _ (by decide))
  exact .ite h3 (.ite h4 (.foldl _ h4 fun _ c h => .ite (h.stall c) h))

/-- While the main domain is off no cell is stalled. -/
theorem showLevel_cells_off (h : s.dev.mainOn = false) : s.showLevel.cells = s.cells := by
  unfold State.showLevel
  extract_lets p st st' s1 s2 s3
  have h3 : s3.cells = s.cells := by simp only [s3, s2, s1, apply_ite State.cells, count_cells, setFreg_cells, ite_self]
  have hoff : s3.dev.mainOn = false := by
    simp only [s3, s2, s1, apply_ite State.dev, count_dev, setFreg_dev, ite_self, h]
  rw [hoff]
  exact h3

theorem showLevel_status (hw : FGood s.fregs) : s.showLevel.freg FR.PWR_STATUS = levelStatus s % 2 ^ 64 :=
  ((shown_showLevel s).floor.freg _ (by decide)).trans (freg_setFreg_self s _ _ hw)

theorem floorRegs_showLevel (s : State) : FloorRegs (FR.PWR_STATUS :: levelRegs) s s.showLevel :=
  ((FloorRegs.refl _ s).setFreg _ (by decide)).trans ((shown_showLevel s).floor.mono (List.subset_cons_self _ _))

/-- The field [11:7] replaced, the bits around it kept. -/
theorem putBits_11_7 (x v : Nat) : putBits x 11 7 v = x / 2 ^ 12 * 2 ^ 12 + v % 2 ^ 5 * 2 ^ 7 + x % 2 ^ 7 := by
  simp only [putBits, bits, Nat.shiftRight_eq_div_pow, Nat.reduceAdd, Nat.reduceSub, Nat.reducePow]
  omega

/-- The bits of PWR_STATUS below the level's field stay. -/
theorem levelStatus_low (s : State) {i : Nat} (hi : i < 7) :
    bitB (levelStatus s % 2 ^ 64) i = bitB (s.freg FR.PWR_STATUS) i := by
  have hlow (y : Nat) : bitB y i = bitB (y % 2 ^ 7) i := by
    rw [bitB_eq_testBit, bitB_eq_testBit, Nat.testBit_mod_two_pow, decide_eq_true hi, Bool.true_and]
  have hmod : levelStatus s % 2 ^ 64 % 2 ^ 7 = s.freg FR.PWR_STATUS % 2 ^ 7 := by
    rw [levelStatus, putBits_11_7]
    omega
  rw [hlow, hmod, ← hlow]

/-- The level and the throttling in PWR_STATUS (R463). -/
theorem levelStatus_fields (s : State) (hl : s.pw.level ≤ 2) :
    bits (levelStatus s % 2 ^ 64) 11 10 = s.pw.level ∧ bitB (levelStatus s % 2 ^ 64) 8 = s.pw.throt := by
  have hlt := freg_lt s FR.PWR_STATUS
  have hbit (b : Bool) : b2n b < 2 := by cases b <;> decide
  have hhalved := hbit (!s.pw.halved.isEmpty)
  have hthrot := hbit s.pw.throt
  have hfloor := hbit (s.pw.level == 2)
  have hval : levelStatus s % 2 ^ 64 = s.freg FR.PWR_STATUS / 2 ^ 12 * 2 ^ 12 + (b2n (!s.pw.halved.isEmpty)
      + 2 * b2n s.pw.throt + 4 * b2n (s.pw.level == 2) + 8 * s.pw.level) * 2 ^ 7 + s.freg FR.PWR_STATUS % 2 ^ 7 := by
    rw [levelStatus, putBits_11_7]
    omega
  rw [hval]
  constructor
  · simp only [bits, Nat.shiftRight_eq_div_pow, Nat.reduceAdd, Nat.reduceSub, Nat.reducePow]
    omega
  · have h8 : (s.freg FR.PWR_STATUS / 2 ^ 12 * 2 ^ 12 + (b2n (!s.pw.halved.isEmpty) + 2 * b2n s.pw.throt
        + 4 * b2n (s.pw.level == 2) + 8 * s.pw.level) * 2 ^ 7 + s.freg FR.PWR_STATUS % 2 ^ 7) / 2 ^ 8 % 2 = b2n s.pw.throt := by
      omega
    rw [bitB, Nat.shiftRight_eq_div_pow, h8]
    cases s.pw.throt <;> rfl

/-! ### The frequency (R440, R454, R455) -/

/-- The floor registers that the choice of a frequency reaches. -/
def pointRegs : List Nat := [FR.PWR_CAP_INT_CNT, FR.PWR_POINT]

theorem floorRegs_choosePoint (s : State) (want ahead : Nat) : FloorRegs pointRegs s (s.choosePoint want ahead) :=
  ((FloorRegs.refl pointRegs s).withPw _ _).setFreg _ (by decide)

theorem floorRegs_setFrequency (s : State) : FloorRegs pointRegs s s.setFrequency := by
  unfold State.setFrequency
  extract_lets fp s1
  have h1 : FloorRegs pointRegs s s1 := .ite ((FloorRegs.refl _ s).count _ (by decide)) (.refl _ s)
  exact .ite h1 (.ite (h1.trans (floorRegs_choosePoint _ _ _)) (h1.trans (floorRegs_choosePoint _ _ _)))

theorem setFrequency_cells (s : State) : s.setFrequency.cells = s.cells := by
  unfold State.setFrequency
  extract_lets fp s1
  have h1 : s1.cells = s.cells := by simp only [s1, apply_ite State.cells, count_cells, ite_self]
  have hchoose (want ahead : Nat) : (s1.choosePoint want ahead).cells = s.cells := h1
  simp only [apply_ite State.cells, hchoose, h1, ite_self]

theorem choosePoint_pw (s : State) (want ahead : Nat) : ∃ f vFor ramp,
    (s.choosePoint want ahead).pw = { s.pw with want, f, vFor, ramp } := by
  unfold State.choosePoint State.showPoint State.setFreg
  dsimp only
  split <;> exact ⟨_, _, _, rfl⟩

theorem phaseTarget_congr {f vFor want : Nat} {ramp : Option Nat} (hp : t.pw = { s.pw with want, f, vFor, ramp })
    (hc : t.freg FR.PWR_CTRL = s.freg FR.PWR_CTRL) (hl : t.freg FR.PWR_LIMIT_W = s.freg FR.PWR_LIMIT_W) (id : Nat) :
    t.phaseTarget id = s.phaseTarget id := by
  simp only [State.phaseTarget, State.fmax, hc, hl, hp, PwrState.entry]

/-- The frequency that the state asks for: none in VIGIL, REFCLK while the compute PLL has not locked, and otherwise the
least of the four that R455 names. -/
def chosen (s : State) : Nat :=
  if !s.dev.ready || !s.dev.mainOn then s.pw.want
  else if s.pllAt ≠ some 0 then 100
  else min (min (s.phaseTarget (bits (s.freg FR.PWR_PHASE) 15 0)) s.pw.fCap) (min s.pw.fTherm s.fmax)

/-- The choice of a frequency changes the compute point alone. -/
theorem setFrequency_pw (s : State) : ∃ f vFor ramp,
    s.setFrequency.pw = { s.pw with want := chosen s, f, vFor, ramp } := by
  unfold State.setFrequency chosen
  extract_lets fp s1
  have h1 : s1.pw = s.pw := by simp only [s1, apply_ite State.pw, count_pw, ite_self]
  have hdev : s1.dev = s.dev := by simp only [s1, apply_ite State.dev, count_dev, ite_self]
  have hcells : s1.cells = s.cells := by simp only [s1, apply_ite State.cells, count_cells, ite_self]
  have hpll : s1.pllAt = s.pllAt :=
    pllAt_congr (by rw [h1]) (by rw [h1]) (by rw [h1]) (by rw [h1]) fun c => by rw [State.cell, hcells, State.cell]
  have hctrl : s1.freg FR.PWR_CTRL = s.freg FR.PWR_CTRL :=
    (FloorRegs.ite ((FloorRegs.refl _ s).count 1 List.mem_cons_self) (.refl [FR.PWR_CAP_INT_CNT] s)).freg _ (by decide)
  have hmax : s1.fmax = s.fmax := by rw [State.fmax, hctrl, State.fmax]
  rw [hdev, hpll]
  split
  case isTrue => exact ⟨_, _, _, h1⟩
  case isFalse =>
    by_cases hlock : s.pllAt = some 0
    · rw [if_neg (by simp [hlock]), if_neg (by simp [hlock]), h1, hmax]
      obtain ⟨f, vFor, ramp, hp⟩ := choosePoint_pw s1 (min (min fp s.pw.fCap) (min s.pw.fTherm s.fmax)) s1.announcedTarget
      exact ⟨f, vFor, ramp, by rw [hp, h1]⟩
    · rw [if_pos (by simp [hlock]), if_pos hlock]
      obtain ⟨f, vFor, ramp, hp⟩ := choosePoint_pw s1 100 0
      exact ⟨f, vFor, ramp, by rw [hp, h1]⟩

end

end Sys2Proof.Proofs
end

section
/-! The stages of an interval of the power controller put together, up to the level that it shows. -/

namespace Sys2Proof.Proofs

open Sys2Proof.Machine Sys2Proof.Laws

/-! ### The loops and the responses to temperature (R455, R459) -/

/-- The state in which the loops have taken their steps and the stacks their responses. -/
def looped (u : State) : State := (steered u).stackTherm

section
variable (u : State)

/-- The limit that the cap loop compares with. -/
def shownLimit : Rat := ((u.freg FR.PWR_LIMIT_W : Nat) : Rat)

/-- The reading from which the hottest sensor throttles. -/
def throttleAt : Int := 16 * bits (u.freg FR.PWR_THERM_CFG) 7 0

theorem looped_pw : ∃ hot halved, (looped u).pw =
    { (u.pw.capStep (shownLimit u)).thermStep (hotReading u) (throttleAt u) with hot, halved } := ⟨_, _, rfl⟩

/-- The loops and the responses change their own settings alone. -/
theorem looped_settings : ∃ level fCap halvings floorClk throt fTherm thermWait hot halved, (looped u).pw =
    { u.pw with level, fCap, halvings, floorClk, throt, fTherm, thermWait, hot, halved } := by
  obtain ⟨hot, halved, hpw⟩ := looped_pw u
  obtain ⟨throt, fTherm, thermWait, htherm⟩ :=
    thermStep_pw (u.pw.capStep (shownLimit u)) (hotReading u) (throttleAt u)
  obtain ⟨level, fCap, halvings, floorClk, hcap⟩ := capStep_pw u.pw (shownLimit u)
  exact ⟨level, fCap, halvings, floorClk, throt, fTherm, thermWait, hot, halved, by rw [hpw, htherm, hcap]⟩

theorem looped_cap : capSettings (looped u).pw =
    capTable (shownLimit u) u.pw.ctl u.pw.level u.pw.fCap u.pw.halvings u.pw.floorClk := by
  obtain ⟨hot, halved, hpw⟩ := looped_pw u
  obtain ⟨throt, fTherm, thermWait, htherm⟩ :=
    thermStep_pw (u.pw.capStep (shownLimit u)) (hotReading u) (throttleAt u)
  rw [hpw, htherm, ← capSettings_capStep]
  rfl

theorem looped_hot (h : throttleAt u ≤ hotReading u) :
    (looped u).pw.fTherm = max 25 (u.pw.fTherm - 100) ∧ (looped u).pw.throt = true := by
  obtain ⟨hot, halved, hpw⟩ := looped_pw u
  obtain ⟨level, fCap, halvings, floorClk, hcap⟩ := capStep_pw u.pw (shownLimit u)
  rw [hpw, thermStep_hot _ h, hcap]
  exact ⟨rfl, rfl⟩

theorem floorRegs_looped (ks : List Nat) : FloorRegs ks u (looped u) := floorRegs_of_eq rfl

theorem freg_looped (a : Nat) : (looped u).freg a = u.freg a := rfl

theorem looped_cells : (looped u).cells = u.cells := rfl

theorem looped_dev : (looped u).dev = u.dev := rfl

end

/-! ### The interval up to the loops -/

/-- The state of an interval before the loops take their steps. -/
def evaluated (s : State) (acts : List Nat) : State := (formed s acts).evalPhase

theorem controlStep_stages (s : State) (acts : List Nat) :
    s.controlStep acts = (looped (evaluated s acts)).showLevel.setFrequency := rfl

section
variable {s : State} {acts : List Nat}

theorem floorRegs_evaluated (s : State) (acts : List Nat) :
    FloorRegs [FR.PWR_LIMIT_W, FR.ENERGY_UJ, FR.PWR_EST_W, FR.PWR_PHASE] s (evaluated s acts) :=
  ((floorRegs_formed s acts).mono (by decide)).trans (floorRegs_evalPhase _ (by decide))

theorem evaluated_cells (s : State) (acts : List Nat) : (evaluated s acts).cells = s.cells := formed_cells s acts

theorem evaluated_dev (s : State) (acts : List Nat) : (evaluated s acts).dev = s.dev := by
  have h : (windowed (s.setFreg FR.PWR_LIMIT_W s.capOf)).dev = s.dev := by
    rw [windowed, apply_ite State.dev]
    exact ite_self _
  exact h

theorem evaluated_limit (hw : FGood s.fregs) : (evaluated s acts).freg FR.PWR_LIMIT_W = s.capOf :=
  ((floorRegs_evalPhase (ks := [FR.PWR_PHASE]) (formed s acts) (by decide)).freg _ (by decide)).trans (formed_limit hw)

theorem evaluated_phase (hw : FGood s.fregs) : (evaluated s acts).freg FR.PWR_PHASE =
    mostHeld (s.phaseIds true) * 65536 + mostHeld (s.phaseIds false) := by
  have hids := phaseIds_congr (s := s) (t := formed s acts) fun c => by rw [State.cell, formed_cells, State.cell]
  rw [evaluated, evalPhase_phase ((floorRegs_formed s acts).canon hw), hids, hids]

/-- The estimate and the controlled quantity are formed, and no setting changes. -/
theorem evaluated_pw (s : State) (acts : List Nat) : ∃ fixed winN winSum winA1 winP missed phSince phN phSum pht,
    (evaluated s acts).pw = { s.pw with
      est := ((windowed s).estimate acts).1, ctl := (windowed s).controlled ((windowed s).estimate acts).1
      fixed, winN, winSum, winA1, winP, missed, phSince, phN, phSum, pht } := by
  obtain ⟨phSince, phN, phSum, pht, hphase⟩ := evalPhase_pw (formed s acts)
  obtain ⟨est, fixed, ctl, winN, winSum, winA1, winP, missed, hformed⟩ := formed_pw s acts
  have hest := formed_est s acts
  have hctl := formed_ctl s acts
  rw [hformed] at hest hctl
  subst hest hctl
  exact ⟨_, _, _, _, _, _, _, _, _, _, by rw [evaluated, hphase, hformed]⟩

theorem tempOf_evaluated (s : State) (acts : List Nat) (i : Nat) : (evaluated s acts).tempOf i = s.tempOf i := by
  have hi : FR.PWR_TEMP i ∉ [FR.PWR_LIMIT_W, FR.ENERGY_UJ, FR.PWR_EST_W, FR.PWR_PHASE] := by
    simp only [List.mem_cons, List.not_mem_nil, or_false, FR.PWR_TEMP, FR.PWR_LIMIT_W, FR.ENERGY_UJ, FR.PWR_EST_W, FR.PWR_PHASE]
    omega
  rw [State.tempOf, (floorRegs_evaluated s acts).freg _ hi, State.tempOf]

theorem hotReading_evaluated {j : Nat} (hj : s.hottest s.sensors = some j) :
    hotReading (evaluated s acts) = s.tempOf j := by
  obtain ⟨_, _, _, _, _, _, _, _, _, _, hpw⟩ := evaluated_pw s acts
  have hhottest : (evaluated s acts).hottest (evaluated s acts).sensors = some j := by
    rw [hottest_congr (tempOf_evaluated s acts), sensors_congr (s := s) (by rw [hpw]), hj]
  rw [hotReading, hhottest]
  exact tempOf_evaluated s acts j

/-! ### The interval up to the level shown -/

/-- The state of an interval that shows the level, before a frequency is chosen. -/
def levelled (s : State) (acts : List Nat) : State := (looped (evaluated s acts)).showLevel

theorem levelled_pw (s : State) (acts : List Nat) : (levelled s acts).pw = (looped (evaluated s acts)).pw :=
  (shown_showLevel _).pw

theorem regs_levelled (s : State) (acts : List Nat) (c : CellId) :
    Regs [CR.SX_STALL_PWR_CNT] (s.cell c) ((levelled s acts).cell c) := by
  have h : (looped (evaluated s acts)).cell c = s.cell c := by rw [State.cell, State.cell, looped_cells, evaluated_cells]
  have hshown := (shown_showLevel (looped (evaluated s acts))).cells c
  rwa [cell_setFreg, h] at hshown

theorem levelled_cells_off (acts : List Nat) (h : s.dev.mainOn = false) : (levelled s acts).cells = s.cells := by
  rw [levelled, showLevel_cells_off (by rw [looped_dev, evaluated_dev, h]), looped_cells, evaluated_cells]

theorem freg_levelled (s : State) (acts : List Nat) {a : Nat} (ha : a ∉ FR.PWR_STATUS :: levelRegs) :
    (levelled s acts).freg a = (evaluated s acts).freg a :=
  ((floorRegs_showLevel (looped (evaluated s acts))).freg a ha).trans (freg_looped _ a)

theorem levelled_est (s : State) (acts : List Nat) : (levelled s acts).pw.est = ((windowed s).estimate acts).1 := by
  obtain ⟨_, _, _, _, _, _, _, _, _, h⟩ := looped_settings (evaluated s acts)
  obtain ⟨_, _, _, _, _, _, _, _, _, _, h'⟩ := evaluated_pw s acts
  rw [levelled_pw, h, h']

theorem levelled_ctl (s : State) (acts : List Nat) :
    (levelled s acts).pw.ctl = (windowed s).controlled ((windowed s).estimate acts).1 := by
  obtain ⟨_, _, _, _, _, _, _, _, _, h⟩ := looped_settings (evaluated s acts)
  obtain ⟨_, _, _, _, _, _, _, _, _, _, h'⟩ := evaluated_pw s acts
  rw [levelled_pw, h, h']

theorem levelled_want (s : State) (acts : List Nat) : (levelled s acts).pw.want = s.pw.want := by
  obtain ⟨_, _, _, _, _, _, _, _, _, h⟩ := looped_settings (evaluated s acts)
  obtain ⟨_, _, _, _, _, _, _, _, _, _, h'⟩ := evaluated_pw s acts
  rw [levelled_pw, h, h']

theorem levelled_pllAt (s : State) (acts : List Nat) : (levelled s acts).pllAt = s.pllAt := by
  obtain ⟨_, _, _, _, _, _, _, _, _, h⟩ := looped_settings (evaluated s acts)
  obtain ⟨_, _, _, _, _, _, _, _, _, _, h'⟩ := evaluated_pw s acts
  have hpw := (levelled_pw s acts).trans h
  rw [h'] at hpw
  exact pllAt_congr (by rw [hpw]) (by rw [hpw]) (by rw [hpw]) (by rw [hpw]) fun c => by rw [(regs_levelled s acts c).cell]

/-- The cap loop takes one step of its table, under the limit and by the controlled quantity of this interval (R455). -/
theorem levelled_cap (acts : List Nat) (hw : FGood s.fregs) : capSettings (levelled s acts).pw = capTable (s.capOf : Rat)
    ((windowed s).controlled ((windowed s).estimate acts).1) s.pw.level s.pw.fCap s.pw.halvings s.pw.floorClk := by
  obtain ⟨_, _, _, _, _, _, _, _, _, _, hpw⟩ := evaluated_pw s acts
  rw [levelled_pw, looped_cap, shownLimit, evaluated_limit hw, hpw]

theorem capSettings_level (p : PwrState) : (capSettings p).1 = p.level := rfl

theorem levelled_level (acts : List Nat) (hw : FGood s.fregs) (hl : s.pw.level ≤ 2) : (levelled s acts).pw.level ≤ 2 := by
  rw [← capSettings_level, levelled_cap acts hw]
  exact capTable_level hl _ _ _ _ _

/-- A hottest sensor at its threshold or above throttles (R459). -/
theorem levelled_hot (acts : List Nat) {j : Nat} (hj : s.hottest s.sensors = some j) (hhot : throttleAt s ≤ s.tempOf j) :
    (levelled s acts).pw.fTherm = max 25 (s.pw.fTherm - 100) ∧ (levelled s acts).pw.throt = true := by
  obtain ⟨_, _, _, _, _, _, _, _, _, _, hpw⟩ := evaluated_pw s acts
  have hat : throttleAt (evaluated s acts) = throttleAt s := by
    rw [throttleAt, (floorRegs_evaluated s acts).freg _ (by decide), throttleAt]
  obtain ⟨hfTherm, hthrot⟩ := looped_hot (evaluated s acts) (by rw [hat, hotReading_evaluated hj]; exact hhot)
  exact ⟨by rw [levelled_pw, hfTherm, hpw], by rw [levelled_pw, hthrot]⟩

/-- PWR_STATUS shows the level and the throttling, its low bits kept (R463). -/
theorem levelled_status (acts : List Nat) (hw : FGood s.fregs) :
    let st := (levelled s acts).freg FR.PWR_STATUS
    (∀ i < 7, bitB st i = bitB (s.freg FR.PWR_STATUS) i) ∧
      ((levelled s acts).pw.level ≤ 2 →
        bits st 11 10 = (levelled s acts).pw.level ∧ bitB st 8 = (levelled s acts).pw.throt) := by
  intro st
  have hcanon : FGood (looped (evaluated s acts)).fregs :=
    (floorRegs_looped (evaluated s acts) []).canon ((floorRegs_evaluated s acts).canon hw)
  have hst : st = levelStatus (looped (evaluated s acts)) % 2 ^ 64 := showLevel_status hcanon
  have hbefore : (looped (evaluated s acts)).freg FR.PWR_STATUS = s.freg FR.PWR_STATUS := by
    rw [freg_looped, (floorRegs_evaluated s acts).freg _ (by decide)]
  rw [hst, levelled_pw]
  exact ⟨fun i hi => by rw [levelStatus_low _ hi, hbefore], levelStatus_fields _⟩

end

end Sys2Proof.Proofs
end

section
/-! An interval of the power controller in every state of the device: a quiet one, and one in which a sensor trips. -/

namespace Sys2Proof.Proofs

open Sys2Proof.Machine Sys2Proof.Laws

/-! ### What follows the controller's step in an interval -/

section
variable {u : State}

theorem flTime_off (h : u.dev.mainOn = false) : u.flTime = u := by rw [State.flTime, h, if_neg Bool.false_ne_true]

/-- With no looped frame and no frame that waits, time alone does nothing for the transport. -/
theorem flTime_still (hloop : u.fl.loop = []) (hctx : ∀ e ∈ u.fl.ctx, e.2.waiting = false) : u.flTime = u := by
  have hpump : State.pumpLoop 1024 u = u := by rw [State.pumpLoop, hloop]
  have hflush : u.flushAll = u := by
    rw [State.flushAll, List.foldl_ext _ (fun v _ => v) u fun v e he => by rw [hctx e he, if_neg Bool.false_ne_true]]
    exact List.foldl_fixed _
  rw [State.flTime, hpump, hflush, ite_self]

/-- The end of a flash write changes the firmware's state alone. -/
theorem endStage_frame (u : State) : ∃ w, u.endStage = { u with dev := { u.dev with fw := w } } := by
  unfold State.endStage State.modFw
  split
  · exact ⟨_, rfl⟩
  · exact ⟨_, rfl⟩

theorem endStage_none (h : u.dev.fw.writing = none) : u.endStage = u := by rw [State.endStage, h]

theorem floorBringup_none (h : u.dev.floorBring = none) : u.floorBringup = u := by rw [State.floorBringup, h]

theorem payPoison_none (h : u.hv.poisonOwed = false) : u.payPoison = u := by
  rw [State.payPoison, h, Bool.not_false, Bool.true_or, if_pos rfl]

theorem controlled_hv {v : State} (h : Controlled v u) : u.hv = v.hv := by
  obtain ⟨_, _, _, _, _, rfl⟩ := h
  rfl

/-- Where nothing waits for the end of an interval it ends with the controller's step. -/
theorem interval_ends {v : State} (hctl : Controlled v u) (hloop : v.fl.loop = [])
    (hctx : ∀ e ∈ v.fl.ctx, e.2.waiting = false) (hbring : v.dev.floorBring = none) (hwriting : v.dev.fw.writing = none)
    (hpoison : v.hv.poisonOwed = false) : u.flTime.endStage.floorBringup.payPoison = u := by
  have hhv := controlled_hv hctl
  rw [← hctl.fl] at hloop hctx
  rw [← hctl.dev] at hbring hwriting
  rw [← hhv] at hpoison
  rw [flTime_still hloop hctx, endStage_none hwriting, floorBringup_none hbring, payPoison_none hpoison]

/-- With the main domain off an interval ends with the controller's step and the end of a flash write. -/
theorem interval_ends_off {v : State} (hctl : Controlled v u) (hoff : v.dev.mainOn = false) (hbring : v.dev.floorBring = none)
    (hpoison : v.hv.poisonOwed = false) : u.flTime.endStage.floorBringup.payPoison = u.endStage := by
  have hhv := controlled_hv hctl
  obtain ⟨w, hw⟩ := endStage_frame u
  rw [flTime_off (by rw [hctl.dev, hoff]), floorBringup_none (by rw [hw]; dsimp only; rw [hctl.dev, hbring]),
    payPoison_none (by rw [hw]; dsimp only; rw [hhv, hpoison])]

end

/-- The state when an interval begins. -/
def later (s : State) : State := { s with timeUs := s.timeUs + 2 }

section
variable {s : State} {i : IntervalIn}

theorem exec_powerInterval (hon : s.dev.stbyPg = true) (i : IntervalIn) : exec (.powerInterval i) s =
    let u := (later s).readSensors i
    .next (u.controlStep (if u.dev.mainOn then i.acts else [])).flTime.endStage.floorBringup.payPoison := by
  show execPowerInterval i s = _
  rw [execPowerInterval, hon, Bool.not_true, if_neg Bool.false_ne_true]
  rfl

/-! ### An interval in which nothing trips -/

theorem sensed_later (s : State) (i : IntervalIn) :
    ∃ R, sensed (later s) i = { s with timeUs := s.timeUs + 2, fregs := R } := ⟨_, sensed_frame (later s) i⟩

theorem exec_powerInterval_cool (hon : s.dev.stbyPg = true)
    (hcool : s.dev.trip = true ∨ (sensed (later s) i).tripCause = none) (hloop : s.fl.loop = [])
    (hctx : ∀ e ∈ s.fl.ctx, e.2.waiting = false) (hbring : s.dev.floorBring = none) (hwriting : s.dev.fw.writing = none)
    (hpoison : s.hv.poisonOwed = false) : exec (.powerInterval i) s =
      .next ((sensed (later s) i).controlStep (if s.dev.mainOn then i.acts else [])) := by
  rw [exec_powerInterval hon, readSensors_cool (s := later s) hcool]
  obtain ⟨R, hR⟩ := sensed_later s i
  have hfl : (sensed (later s) i).fl = s.fl := by rw [hR]
  have hdev : (sensed (later s) i).dev = s.dev := by rw [hR]
  have hhv : (sensed (later s) i).hv = s.hv := by rw [hR]
  dsimp only
  rw [hdev, interval_ends (controlStep_controlled _ _) (by rw [hfl, hloop]) (by rwa [hfl]) (by rw [hdev, hbring])
    (by rw [hdev, hwriting]) (by rw [hhv, hpoison])]

end

/-! ### The choice of the frequency, by what it leaves -/

theorem chosen_setFrequency {s t : State} (ht : t = s.setFrequency) : chosen s =
    if !s.dev.ready || !s.dev.mainOn then s.pw.want
    else if s.pllAt ≠ some 0 then 100
    else min (min (t.phaseTarget (bits (t.freg FR.PWR_PHASE) 15 0)) t.pw.fCap) (min t.pw.fTherm t.fmax) := by
  obtain ⟨f, vFor, ramp, hpw⟩ := setFrequency_pw s
  rw [← ht] at hpw
  have hfreg : ∀ a, a ∉ pointRegs → t.freg a = s.freg a := by
    rw [ht]
    exact (floorRegs_setFrequency s).freg
  have hctrl := hfreg FR.PWR_CTRL (by decide)
  have htarget (id : Nat) := phaseTarget_congr hpw hctrl (hfreg FR.PWR_LIMIT_W (by decide)) id
  have hmax : t.fmax = s.fmax := by rw [State.fmax, hctrl, State.fmax]
  rw [hfreg FR.PWR_PHASE (by decide), htarget, hmax, hpw]
  rfl

/-! ### An interval that trips (R459, R460) -/

/-- The state that a trip leaves of state v, but for its record. -/
def tripped (v : State) : State := State.mainLost { v with dev := { v.dev with trip := true } }

section
variable {v : State} {cause : Nat × Int}

theorem tripNow_frame (v : State) (cause : Nat × Int) : ∃ R A H,
    v.tripNow cause = { tripped v with fregs := R, alm := A, hs := H } :=
  ⟨_, _, _, logs_logEvent ((tripped v).orFreg FR.PWR_STATUS 64) 0x0704 cause.1 4 0 (wrap 64 cause.2) 0⟩

theorem tripNow_seq (v : State) (cause : Nat × Int) : (v.tripNow cause).alm.seq = v.alm.seq + 1 := logEvent_seq _ _ _ _ _ _ _

theorem tripped_canon (hw : FGood v.fregs) : FGood (tripped v).fregs := by
  unfold tripped State.mainLost State.clearMain State.setFreg
  dsimp only
  exact smap_wf_set _ _ _ _ (fgood_filter hw _)

theorem tripNow_canon (hw : FGood v.fregs) : FGood (v.tripNow cause).fregs :=
  (keepsFloor_logEvent _ _ _ _ _ _ _).canon (smap_wf_set _ _ _ _ (tripped_canon hw))

/-- A trip is shown in PWR_STATUS (R460). -/
theorem tripNow_status (hw : FGood v.fregs) : bitB ((v.tripNow cause).freg FR.PWR_STATUS) 6 = true := by
  have h : (v.tripNow cause).freg FR.PWR_STATUS = ((tripped v).orFreg FR.PWR_STATUS (2 ^ 6)).freg FR.PWR_STATUS :=
    (floorRegs_logEvent _ _ _ _ _ _ _).freg _ (by decide)
  rw [h, bitB_orFreg_self _ (by decide) (tripped_canon hw)]

end

section
variable {s : State} {i : IntervalIn} {cause : Nat × Int}

theorem exec_powerInterval_trips (hon : s.dev.stbyPg = true) (hnot : s.dev.trip = false)
    (hcause : (sensed (later s) i).tripCause = some cause) : exec (.powerInterval i) s =
      .next (((sensed (later s) i).tripNow cause).controlStep []).endStage := by
  rw [exec_powerInterval hon, readSensors_trips (s := later s) hnot hcause]
  obtain ⟨R, A, H, htrip⟩ := tripNow_frame (sensed (later s) i) cause
  have hoff : ((sensed (later s) i).tripNow cause).dev.mainOn = false := by rw [htrip]; rfl
  have hbring : ((sensed (later s) i).tripNow cause).dev.floorBring = none := by rw [htrip]; rfl
  have hpoison : ((sensed (later s) i).tripNow cause).hv.poisonOwed = false := by rw [htrip]; rfl
  dsimp only
  rw [hoff, if_neg Bool.false_ne_true, interval_ends_off (controlStep_controlled _ _) hoff hbring hpoison]

end

end Sys2Proof.Proofs
end

section
/-! What an interval of the power controller leaves, field by field. -/

namespace Sys2Proof.Proofs

open Sys2Proof.Machine Sys2Proof.Laws

section
variable {s : State} {acts : List Nat}

/-! ### The controller's step -/

theorem controlStep_levelled (s : State) (acts : List Nat) : s.controlStep acts = (levelled s acts).setFrequency :=
  controlStep_stages s acts

theorem freg_controlStep (s : State) (acts : List Nat) {a : Nat} (ha : a ∉ pointRegs) :
    (s.controlStep acts).freg a = (levelled s acts).freg a := by
  rw [controlStep_levelled, (floorRegs_setFrequency _).freg a ha]

theorem controlStep_pw (s : State) (acts : List Nat) : ∃ f vFor ramp, (s.controlStep acts).pw =
    { (levelled s acts).pw with want := chosen (levelled s acts), f, vFor, ramp } := by
  rw [controlStep_levelled]
  exact setFrequency_pw _

theorem controlStep_cells (s : State) (acts : List Nat) : (s.controlStep acts).cells = (levelled s acts).cells := by
  rw [controlStep_levelled, setFrequency_cells]

/-- PWR_LIMIT_W shows the limit (R447). -/
theorem controlStep_limit (acts : List Nat) (hw : FGood s.fregs) : (s.controlStep acts).freg FR.PWR_LIMIT_W = s.capOf := by
  rw [freg_controlStep s acts (by decide), freg_levelled s acts (by decide), evaluated_limit hw]

theorem controlStep_phase (acts : List Nat) (hw : FGood s.fregs) : (s.controlStep acts).freg FR.PWR_PHASE =
    mostHeld (s.phaseIds true) * 65536 + mostHeld (s.phaseIds false) := by
  rw [freg_controlStep s acts (by decide), freg_levelled s acts (by decide), evaluated_phase hw]

/-- The estimate and the controlled quantity (R448, R450). -/
theorem controlStep_quantities (s : State) (acts : List Nat) :
    (s.controlStep acts).pw.est = ((windowed s).estimate acts).1 ∧
      (s.controlStep acts).pw.ctl = (windowed s).controlled ((windowed s).estimate acts).1 := by
  obtain ⟨_, _, _, hpw⟩ := controlStep_pw s acts
  rw [hpw]
  dsimp only
  exact ⟨levelled_est s acts, levelled_ctl s acts⟩

theorem capSettings_point (p : PwrState) (want f vFor : Nat) (ramp : Option Nat) :
    capSettings { p with want, f, vFor, ramp } = capSettings p := rfl

/-- The cap loop's step (R455). -/
theorem controlStep_cap (acts : List Nat) (hw : FGood s.fregs) : capSettings (s.controlStep acts).pw = capTable (s.capOf : Rat)
    ((windowed s).controlled ((windowed s).estimate acts).1) s.pw.level s.pw.fCap s.pw.halvings s.pw.floorClk := by
  obtain ⟨_, _, _, hpw⟩ := controlStep_pw s acts
  rw [hpw, capSettings_point, levelled_cap acts hw]

/-- The level in PWR_STATUS (R463). -/
theorem controlStep_level (acts : List Nat) (hw : FGood s.fregs) (hl : s.pw.level ≤ 2) :
    bits ((s.controlStep acts).freg FR.PWR_STATUS) 11 10 = (s.controlStep acts).pw.level := by
  obtain ⟨_, _, _, hpw⟩ := controlStep_pw s acts
  rw [freg_controlStep s acts (by decide), hpw]
  dsimp only
  exact ((levelled_status acts hw).2 (levelled_level acts hw hl)).1

/-- The bits of PWR_STATUS below the level's field stay. -/
theorem controlStep_status_low (acts : List Nat) (hw : FGood s.fregs) {i : Nat} (hi : i < 7) :
    bitB ((s.controlStep acts).freg FR.PWR_STATUS) i = bitB (s.freg FR.PWR_STATUS) i := by
  rw [freg_controlStep s acts (by decide)]
  exact (levelled_status acts hw).1 i hi

/-- The response to a hottest sensor at its threshold (R459). -/
theorem controlStep_hot (acts : List Nat) (hw : FGood s.fregs) (hl : s.pw.level ≤ 2) {j : Nat}
    (hj : s.hottest s.sensors = some j) (hhot : throttleAt s ≤ s.tempOf j) :
    (s.controlStep acts).pw.fTherm = max 25 (s.pw.fTherm - 100) ∧
      bitB ((s.controlStep acts).freg FR.PWR_STATUS) 8 = true := by
  obtain ⟨_, _, _, hpw⟩ := controlStep_pw s acts
  obtain ⟨hfTherm, hthrot⟩ := levelled_hot acts hj hhot
  obtain ⟨-, hfields⟩ := levelled_status acts hw
  rw [freg_controlStep s acts (by decide), hpw, (hfields (levelled_level acts hw hl)).2]
  dsimp only
  exact ⟨hfTherm, hthrot⟩

theorem levelled_dev (s : State) (acts : List Nat) : (levelled s acts).dev = s.dev :=
  (Controlled.showLevel (Controlled.refl (looped (evaluated s acts)))).dev.trans (evaluated_dev s acts)

/-- The frequency (R440, R455). -/
theorem controlStep_want (s : State) (acts : List Nat) : let t := s.controlStep acts
    t.pw.want = if !s.dev.ready || !s.dev.mainOn then s.pw.want
      else if s.pllAt ≠ some 0 then 100
      else min (min (t.phaseTarget (bits (t.freg FR.PWR_PHASE) 15 0)) t.pw.fCap) (min t.pw.fTherm t.fmax) := by
  intro t
  have hchosen := chosen_setFrequency (controlStep_levelled s acts)
  rw [levelled_dev, levelled_want, levelled_pllAt] at hchosen
  obtain ⟨_, _, _, hpw⟩ := controlStep_pw s acts
  have hwant := congrArg PwrState.want hpw
  dsimp only at hwant
  rw [← hchosen, ← hwant]

theorem regs_controlStep (s : State) (acts : List Nat) (c : CellId) :
    Regs [CR.SX_STALL_PWR_CNT] (s.cell c) ((s.controlStep acts).cell c) := by
  rw [State.cell, State.cell, controlStep_cells]
  exact regs_levelled s acts c

end

/-! ### An interval in which nothing trips -/

section
variable {s : State} {i : IntervalIn}

theorem sensed_canon (i : IntervalIn) (hw : FGood s.fregs) : FGood (sensed (later s) i).fregs :=
  (floorRegs_sensed (later s) i).canon hw

theorem freg_sensed (s : State) (i : IntervalIn) {a : Nat} (ha : a ∉ sensorRegs) : (sensed (later s) i).freg a = s.freg a :=
  (floorRegs_sensed (later s) i).freg a ha

theorem sensed_pw (s : State) (i : IntervalIn) : (sensed (later s) i).pw = s.pw := by
  obtain ⟨R, hR⟩ := sensed_later s i
  rw [hR]

theorem sensed_dev (s : State) (i : IntervalIn) : (sensed (later s) i).dev = s.dev := by
  obtain ⟨R, hR⟩ := sensed_later s i
  rw [hR]

theorem sensed_alm (s : State) (i : IntervalIn) : (sensed (later s) i).alm = s.alm := by
  obtain ⟨R, hR⟩ := sensed_later s i
  rw [hR]

theorem sensed_cell (s : State) (i : IntervalIn) (c : CellId) : (sensed (later s) i).cell c = s.cell c := by
  obtain ⟨R, hR⟩ := sensed_later s i
  rw [hR]
  rfl

theorem sensed_pllAt (s : State) (i : IntervalIn) : (sensed (later s) i).pllAt = s.pllAt := by
  obtain ⟨R, hR⟩ := sensed_later s i
  rw [hR]
  rfl

/-- Reading the sensors leaves the limit's sources. -/
theorem capOf_sensed (s : State) (i : IntervalIn) : (sensed (later s) i).capOf =
    min (min (s.freg FR.PWR_CAP_W) (s.freg FR.PWR_HOST_CAP_W)) (s.freg FR.PWR_ENV_W) := by
  rw [State.capOf, freg_sensed s i (not_mem_sensorRegs (by decide) (by decide)),
    freg_sensed s i (not_mem_sensorRegs (by decide) (by decide)), freg_sensed s i (not_mem_sensorRegs (by decide) (by decide))]

theorem throttleAt_sensed (s : State) (i : IntervalIn) :
    throttleAt (sensed (later s) i) = 16 * (bits (s.freg FR.PWR_THERM_CFG) 7 0 : Int) := by
  rw [throttleAt, freg_sensed s i (not_mem_sensorRegs (by decide) (by decide))]

theorem interval_regs (s : State) (i : IntervalIn) (acts : List Nat) (c : CellId) :
    Regs [CR.SX_STALL_PWR_CNT] (s.cell c) (((sensed (later s) i).controlStep acts).cell c) :=
  sensed_cell s i c ▸ regs_controlStep (sensed (later s) i) acts c

theorem interval_phaseIds (s : State) (i : IntervalIn) (announced : Bool) :
    (sensed (later s) i).phaseIds announced = s.phaseIds announced := phaseIds_congr (sensed_cell s i) announced

/-- An interval in which nothing trips changes nothing outside the controller's reach (R447). -/
theorem interval_frame (s : State) (i : IntervalIn) (acts : List Nat) : let t := (sensed (later s) i).controlStep acts
    t.timeUs = s.timeUs + 2 ∧
      t = { s with cells := t.cells, fregs := t.fregs, pw := t.pw, ce := t.ce, free := t.free, timeUs := t.timeUs } := by
  intro t
  obtain ⟨R, hR⟩ := sensed_later s i
  obtain ⟨cells, fregs, pw, ce, free, hctl⟩ := controlStep_controlled (sensed (later s) i) acts
  have ht : t = _ := hctl
  rw [ht, hR]
  exact ⟨rfl, rfl⟩

theorem windowed_sensors (s : State) : (windowed s).sensors = s.sensors := by
  refine sensors_congr ?_
  rw [windowed_pw]
  split <;> rfl

theorem tempOf_windowed (s : State) (j : Nat) : (windowed s).tempOf j = s.tempOf j := by
  have hj : FR.PWR_TEMP j ∉ [FR.ENERGY_UJ] := by
    simpa only [List.mem_singleton] using (temp_not_shown j).2
  rw [State.tempOf, (floorRegs_windowed s List.mem_cons_self).freg _ hj, State.tempOf]

theorem hbmTempOf_windowed (s : State) (j : Nat) : (windowed s).hbmTempOf j = s.hbmTempOf j := by
  have hj : FR.PWR_HBM_TEMP j ∉ [FR.ENERGY_UJ] := by
    simp only [List.mem_singleton, FR.PWR_HBM_TEMP, FR.ENERGY_UJ]
    omega
  rw [State.hbmTempOf, (floorRegs_windowed s List.mem_cons_self).freg _ hj, State.hbmTempOf]

theorem hottest_windowed (s : State) : (windowed s).hottest (windowed s).sensors = s.hottest s.sensors := by
  rw [windowed_sensors, hottest_congr (tempOf_windowed s)]

theorem tripCause_windowed (s : State) : (windowed s).tripCause = s.tripCause := by
  refine tripCause_congr ?_ (tempOf_windowed s) (hbmTempOf_windowed s)
  rw [windowed_pw]
  split <;> rfl

/-! ### An interval that trips -/

/-- A reading of 115 °C on a die sensor in use, or of 105 °C of a stack (R459). -/
def TripReading (s : State) (i : IntervalIn) : Prop :=
  (∃ j x, j < 64 ∧ i.temps[j]? = some x ∧ 1840 ≤ x ∧ x < 2 ^ 15 ∧ NSet.has s.pw.excluded j = false) ∨
    ∃ j x, j < 20 ∧ i.hbmTemps[j]? = some x ∧ 1680 ≤ x ∧ x < 2 ^ 15

/-- Such a reading trips. -/
theorem tripCause_of_reading (hw : FGood s.fregs) (h : TripReading s i) : ∃ c, (sensed (later s) i).tripCause = some c := by
  refine Option.ne_none_iff_exists'.mp fun hnone => ?_
  obtain ⟨hdie, hstacks⟩ := tripCause_none.mp hnone
  rcases h with ⟨j, x, hj, hx, hhot, hlt, hin⟩ | ⟨j, x, hj, hx, hhot, hlt⟩
  · have hmem : j ∈ (sensed (later s) i).sensors := by
      obtain ⟨R, hR⟩ := sensed_later s i
      rw [hR]
      simp [State.sensors, hj, hin]
    have hcool := hdie j hmem
    rw [tempOf_sensed (s := later s) i hw hj hx (by omega) hlt] at hcool
    omega
  · have hcool := hstacks j hj
    rw [hbmTempOf_sensed (s := later s) i hw hj hx (by omega) hlt] at hcool
    omega

/-- What a trip leaves of the state, at the end of its interval. -/
theorem tripped_interval (v : State) (cause : Nat × Int) : ∃ R P C F A H w,
    ((v.tripNow cause).controlStep []).endStage = { tripped v with
      fregs := R, pw := P, ce := C, free := F, alm := A, hs := H, dev := { (tripped v).dev with fw := w } } := by
  obtain ⟨R, A, H, htrip⟩ := tripNow_frame v cause
  have hoff : (v.tripNow cause).dev.mainOn = false := by rw [htrip]; rfl
  obtain ⟨cells, R', P, C, F, hctl⟩ := controlStep_controlled (v.tripNow cause) []
  have hcells : cells = (tripped v).cells := by
    have h := (controlStep_cells _ _).trans (levelled_cells_off [] hoff)
    rw [hctl, htrip] at h
    exact h
  obtain ⟨w, hw⟩ := endStage_frame ((v.tripNow cause).controlStep [])
  exact ⟨R', P, C, F, A, H, w, by rw [hw, hctl, htrip, hcells]⟩

theorem tripped_dev (s : State) (i : IntervalIn) (cause : Nat × Int) :
    let t := (((sensed (later s) i).tripNow cause).controlStep []).endStage
    t.dev.stbyPg = s.dev.stbyPg ∧ t.dev.trip = true ∧ t.dev.ready = false ∧ t.dev.jtag = s.dev.jtag := by
  intro t
  obtain ⟨R, P, C, F, A, H, w, h⟩ := tripped_interval (sensed (later s) i) cause
  have ht : t = _ := h
  rw [ht, ← sensed_dev s i]
  exact ⟨rfl, rfl, rfl, rfl⟩

theorem tripped_seq (v : State) (cause : Nat × Int) :
    ((v.tripNow cause).controlStep []).endStage.alm.seq = v.alm.seq + 1 := by
  obtain ⟨w, hw⟩ := endStage_frame ((v.tripNow cause).controlStep [])
  obtain ⟨_, _, _, _, _, hctl⟩ := controlStep_controlled (v.tripNow cause) []
  rw [hw, hctl]
  exact tripNow_seq v cause

theorem tripped_status {v : State} (cause : Nat × Int) (hw : FGood v.fregs) :
    bitB (((v.tripNow cause).controlStep []).endStage.freg FR.PWR_STATUS) 6 = true := by
  obtain ⟨w, hend⟩ := endStage_frame ((v.tripNow cause).controlStep [])
  have h : ((v.tripNow cause).controlStep []).endStage.freg FR.PWR_STATUS =
      ((v.tripNow cause).controlStep []).freg FR.PWR_STATUS := by rw [State.freg, hend, State.freg]
  rw [h, controlStep_status_low [] (tripNow_canon hw) (by decide), tripNow_status hw]

end

end Sys2Proof.Proofs
end

section
/-! A measurement of the 48 V stage: how it is counted, how it refits the weights, and how it is judged. -/

namespace Sys2Proof.Proofs

open Sys2Proof.Machine Sys2Proof.Laws

/-! ### What a measurement may change -/

/-- From s to t only floor registers, the controller, the Almanac and the draws have changed. -/
def Measures (s t : State) : Prop := t = { s with fregs := t.fregs, pw := t.pw, alm := t.alm, free := t.free }

section
variable {s t u : State}

theorem Measures.refl (s : State) : Measures s s := rfl

theorem Measures.trans (h : Measures s t) (g : Measures t u) : Measures s u := by
  unfold Measures at h g ⊢
  rw [g]; simp only; rw [h]

theorem Measures.setFreg (h : Measures s t) (a v : Nat) : Measures s (t.setFreg a v) := h.trans rfl

theorem Measures.withPw (h : Measures s t) (p : PwrState) (n : Nat) : Measures s { t with pw := p, free := n } := h.trans rfl

theorem Measures.ite {p : Prop} [Decidable p] (h : Measures s t) (g : Measures s u) : Measures s (if p then t else u) := by
  split <;> assumption

theorem measures_notice (s : State) (code index addr info0 info1 : Nat) :
    Measures s (s.logEvent code index 0 addr info0 info1) := by
  have hframe := logEvent_frame s code index addr info0 info1 (cls := 0) (by decide)
  unfold Measures
  rw [hframe]

end

/-! ### A measurement counted (R449, R461) -/

section
variable {s : State} {watts uj : Nat}

/-- The state that has shown a measurement and counted its energy. -/
def counted (s : State) (watts uj : Nat) : State := (s.setFreg FR.PWR_MEAS_W (watts % 65536)).advanceEnergy uj

/-- The state that has closed the measurement's window, with its mean estimate e. -/
def measured (s : State) (watts uj : Nat) (e : Rat) : State :=
  { (counted s watts uj).clrFreg FR.PWR_STATUS 16 with
    pw := { s.pw with winN := 0, winSum := 0, winA1 := 0, winP := 0, missed := 0, meas := some (watts, e) } }

/-- The state in which a measurement that comes in ESTIMATE_SUSPECT has refitted the weights. -/
def refitted (s : State) (watts uj : Nat) (e a1 : Rat) : State :=
  if bitB (s.freg FR.PWR_STATUS) 2 then (measured s watts uj e).refitAll watts e a1 else measured s watts uj e

/-- The state after a measurement, with the mean estimate e and the mean rise a1 of its window. -/
def afterMeasurement (s : State) (watts uj : Nat) (e a1 : Rat) : State := (refitted s watts uj e a1).judge watts e

theorem exec_powerMeasurement (hon : s.dev.stbyPg = true) (hwin : 0 < s.pw.winN) (watts uj : Nat) :
    exec (.powerMeasurement watts uj) s = .next
      (afterMeasurement s watts uj (s.pw.winSum / (s.pw.winN : Rat)) (s.pw.winA1 / (s.pw.winN : Rat))) := by
  show execPowerMeasurement watts uj s = _
  have hwin' : s.pw.winN ≠ 0 := by omega
  simp only [execPowerMeasurement, hon, hwin', Bool.not_true, Bool.false_eq_true, if_false]
  rfl

theorem measures_counted (s : State) (watts uj : Nat) : Measures s (counted s watts uj) :=
  (((Measures.refl s).setFreg _ _).setFreg _ _).withPw _ _

theorem measures_measured (s : State) (watts uj : Nat) (e : Rat) : Measures s (measured s watts uj e) :=
  ((measures_counted s watts uj).setFreg _ _).withPw _ _

theorem measured_alm (s : State) (watts uj : Nat) (e : Rat) : (measured s watts uj e).alm = s.alm := by
  simp only [measured, counted, State.advanceEnergy, State.draw, clrFreg_alm, count_alm, setFreg_alm]

theorem freg_measured (s : State) (watts uj : Nat) (e : Rat) (a : Nat) :
    (measured s watts uj e).freg a = ((counted s watts uj).clrFreg FR.PWR_STATUS 16).freg a := rfl

theorem floorRegs_counted (s : State) (watts uj : Nat) : FloorRegs [FR.PWR_MEAS_W, FR.ENERGY_UJ] s (counted s watts uj) :=
  ((FloorRegs.refl _ s).setFreg _ (by decide)).advanceEnergy uj (by decide)

theorem floorRegs_measured (s : State) (watts uj : Nat) (e : Rat) :
    FloorRegs [FR.PWR_STATUS, FR.PWR_MEAS_W, FR.ENERGY_UJ] s (measured s watts uj e) :=
  (((floorRegs_counted s watts uj).mono (List.subset_cons_self _ _)).clrFreg _ (by decide)).withPw _ _

theorem measured_watts (e : Rat) (hw : FGood s.fregs) (hlt : watts < 2 ^ 16) :
    (measured s watts uj e).freg FR.PWR_MEAS_W = watts := by
  have henergy : FloorRegs [FR.ENERGY_UJ] (s.setFreg FR.PWR_MEAS_W (watts % 65536)) (counted s watts uj) :=
    (FloorRegs.refl _ _).advanceEnergy uj List.mem_cons_self
  rw [freg_measured, State.clrFreg, freg_setFreg_other _ _ (by decide), henergy.freg _ (by decide), freg_setFreg_self _ _ _ hw]
  omega

/-- ENERGY_UJ takes the measurement's energy and what VSTBY has given (R461). -/
theorem measured_energy (e : Rat) (hw : FGood s.fregs) : (measured s watts uj e).freg FR.ENERGY_UJ =
    (s.freg FR.ENERGY_UJ + (uj + Config.vstbyEnergy s.free)) % 2 ^ 64 := by
  have hshown : FGood (s.setFreg FR.PWR_MEAS_W (watts % 65536)).fregs := smap_wf_set _ _ _ _ hw
  rw [freg_measured, State.clrFreg, freg_setFreg_other _ _ (by decide), counted, State.advanceEnergy, freg_draw,
    freg_count_self _ _ hshown, freg_setFreg_other _ _ (by decide)]
  rfl

/-- Bit 4 of PWR_STATUS is cleared (R450). -/
theorem measured_status (e : Rat) (hw : FGood s.fregs) (i : Nat) : bitB ((measured s watts uj e).freg FR.PWR_STATUS) i =
    (bitB (s.freg FR.PWR_STATUS) i && !decide (4 = i)) := by
  have hbefore := floorRegs_counted s watts uj
  rw [freg_measured, ← hbefore.freg FR.PWR_STATUS (by decide)]
  exact bitB_clrFreg FR.PWR_STATUS 4 i (hbefore.canon hw)

end

/-! ### The refit (R451) -/

section
variable {u : State} {m e a1 : Rat}

/-- The estimate without its fixed part of the terms 0 and 1. -/
def variablePart (u : State) (e a1 : Rat) : Rat :=
  e - 106 / 100 * (u.pw.weights.getD 0 0 + u.pw.weights.getD 1 0 * a1) / 1000

/-- The weights after a refit. -/
def newWeights (u : State) (m e a1 : Rat) : List Rat :=
  (List.range 16).map fun i => if i < 2 then u.pw.weights.getD i 0
    else refit i (u.pw.weights.getD i 0) (ctlQuotient (m - e) (8 * variablePart u e a1) u.free)

/-- The new weights shown in their registers. -/
def weightsShown (u : State) (m e a1 : Rat) : State :=
  (List.range' 2 14).foldl (fun (s : State) i =>
    s.setFreg (FR.PWR_WT i) (shown ((newWeights u m e a1).getD i 0) % 2 ^ 32))
    { u with pw := { u.pw with weights := newWeights u m e a1 }, free := u.free + 1 }

/-- A refit noted: the first since a reset is shown. -/
def refitNoted (v : State) : State :=
  if v.pw.refitted then v else State.orFreg { v with pw := { v.pw with refitted := true } } FR.PWR_STATUS 8

theorem refitAll_eq (u : State) (m e a1 : Rat) : u.refitAll m e a1 = refitNoted (weightsShown u m e a1) := rfl

theorem refitNoted_pw (v : State) : (refitNoted v).pw = { v.pw with refitted := true } := by
  rw [refitNoted]
  split
  case isTrue hrefit => rw [← hrefit]
  case isFalse => rfl

theorem refitNoted_alm (v : State) : (refitNoted v).alm = v.alm := by
  rw [refitNoted]
  split <;> rfl

theorem measures_refitNoted (v : State) : Measures v (refitNoted v) := .ite rfl rfl

theorem floorRegs_refitNoted {ks : List Nat} (v : State) (h : FR.PWR_STATUS ∈ ks) : FloorRegs ks v (refitNoted v) :=
  .ite (.refl ks v) (((FloorRegs.refl ks v).withPw _ _).orFreg _ h)

theorem refitNoted_status {v : State} (hw : FGood v.fregs) (i : Nat) : bitB ((refitNoted v).freg FR.PWR_STATUS) i =
    (bitB (v.freg FR.PWR_STATUS) i || (decide (3 = i) && !v.pw.refitted)) := by
  rw [refitNoted]
  split
  case isTrue hrefit => rw [hrefit, Bool.not_true, Bool.and_false, Bool.or_false]
  case isFalse hrefit =>
    rw [Bool.not_eq_true] at hrefit
    rw [hrefit, Bool.not_false, Bool.and_true]
    exact bitB_orFreg (s := { v with pw := { v.pw with refitted := true } }) FR.PWR_STATUS i (k := 3) (by decide) hw

theorem weightsShown_frame (u : State) (m e a1 : Rat) : ∃ R, weightsShown u m e a1 =
    { u with pw := { u.pw with weights := newWeights u m e a1 }, free := u.free + 1, fregs := R } :=
  foldl_keeps (P := fun t => ∃ R, t =
      { u with pw := { u.pw with weights := newWeights u m e a1 }, free := u.free + 1, fregs := R })
    _ ⟨_, rfl⟩ fun _ _ ⟨_, h⟩ => ⟨_, by rw [h]; rfl⟩

/-- The registers of the weights that a refit changes. -/
def weightRegs : List Nat := (List.range' 2 14).map FR.PWR_WT

theorem floorRegs_weightsShown (u : State) (m e a1 : Rat) : FloorRegs weightRegs u (weightsShown u m e a1) :=
  FloorRegs.foldl _ (floorRegs_of_eq rfl) fun t _ hi => (FloorRegs.refl _ t).setFreg _ (List.mem_map_of_mem hi)

theorem refitAll_pw (u : State) (m e a1 : Rat) :
    (u.refitAll m e a1).pw = { u.pw with weights := newWeights u m e a1, refitted := true } := by
  obtain ⟨R, h⟩ := weightsShown_frame u m e a1
  rw [refitAll_eq, refitNoted_pw, h]

theorem refitAll_alm (u : State) (m e a1 : Rat) : (u.refitAll m e a1).alm = u.alm := by
  obtain ⟨R, h⟩ := weightsShown_frame u m e a1
  rw [refitAll_eq, refitNoted_alm, h]

theorem measures_refitAll (u : State) (m e a1 : Rat) : Measures u (u.refitAll m e a1) := by
  obtain ⟨R, h⟩ := weightsShown_frame u m e a1
  have hshown : Measures u (weightsShown u m e a1) := by rw [h]; rfl
  exact hshown.trans (measures_refitNoted _)

theorem floorRegs_refitAll (u : State) (m e a1 : Rat) : FloorRegs (FR.PWR_STATUS :: weightRegs) u (u.refitAll m e a1) :=
  ((floorRegs_weightsShown u m e a1).mono (List.subset_cons_self FR.PWR_STATUS _)).trans
    (floorRegs_refitNoted _ List.mem_cons_self)

/-- The first refit is shown in bit 3 of PWR_STATUS. -/
theorem refitAll_status (m e a1 : Rat) (hw : FGood u.fregs) (i : Nat) :
    bitB ((u.refitAll m e a1).freg FR.PWR_STATUS) i =
      (bitB (u.freg FR.PWR_STATUS) i || (decide (3 = i) && !u.pw.refitted)) := by
  have hshown := floorRegs_weightsShown u m e a1
  have hrefit : (weightsShown u m e a1).pw.refitted = u.pw.refitted := by
    obtain ⟨R, h⟩ := weightsShown_frame u m e a1
    rw [h]
  rw [refitAll_eq, refitNoted_status (hshown.canon hw), hshown.freg _ (by decide), hrefit]

/-- Weight j after a refit: the weights 0 and 1 stay, the others are scaled within their bounds (R451). -/
theorem newWeights_getD (hv : variablePart u e a1 ≠ 0) {j : Nat} (hj : j < 16) :
    (newWeights u m e a1).getD j 0 = if j < 2 then u.pw.weights.getD j 0
      else max ((Config.fusedWeight j : Rat) / 4) (min (4 * (Config.fusedWeight j : Rat))
        (u.pw.weights.getD j 0 * (1 + (m - e) / (8 * variablePart u e a1)))) := by
  have hquot : ctlQuotient (m - e) (8 * variablePart u e a1) u.free = (m - e) / (8 * variablePart u e a1) :=
    if_neg (mul_ne_zero (by decide) hv)
  rw [newWeights, hquot, List.getD_eq_getElem _ _ (by simpa using hj), List.getElem_map, List.getElem_range]
  rfl

end

/-! ### The judgement (R449) -/

section
variable {u : State} {watts : Nat} {e : Rat}

/-- A measurement agrees with the mean estimate of its window within 12 % of the limit. -/
def Agrees (u : State) (watts : Nat) (e : Rat) : Prop :=
  (if e ≤ (watts : Rat) then (watts : Rat) - e else e - (watts : Rat)) ≤ 12 / 100 * ((u.freg FR.PWR_LIMIT_W : Nat) : Rat)

/-- The state that has counted one more agreement. -/
def withAgreement (u : State) : State := { u with pw := { u.pw with agree := u.pw.agree + 1, disagree := 0 } }

/-- The state that has counted one more disagreement. -/
def withDisagreement (u : State) : State := { u with pw := { u.pw with agree := 0, disagree := u.pw.disagree + 1 } }

/-- ESTIMATE_SUSPECT entered, with its record. -/
def suspected (u : State) (watts : Nat) (e : Rat) : State :=
  (((withDisagreement u).orFreg FR.PWR_STATUS 4).count FR.PWR_SUSPECT_CNT).logEvent 0x0702 0 0 0 (shown e) watts

theorem judge_agrees (h : Agrees u watts e) : u.judge watts e =
    if 64 ≤ u.pw.agree + 1 then (withAgreement u).clrFreg FR.PWR_STATUS 4 else withAgreement u := by
  rw [State.judge]
  exact if_pos h

theorem judge_differs (h : ¬ Agrees u watts e) : u.judge watts e =
    if 8 ≤ u.pw.disagree + 1 && !bitB (u.freg FR.PWR_STATUS) 2 then suspected u watts e else withDisagreement u := by
  rw [State.judge]
  exact if_neg h

/-- The floor registers that a judgement may change. -/
def judgeRegs : List Nat := FR.PWR_STATUS :: FR.PWR_SUSPECT_CNT :: eventRegs 0

theorem suspected_pw (u : State) (watts : Nat) (e : Rat) : (suspected u watts e).pw = (withDisagreement u).pw := by
  rw [suspected, logEvent_frame _ _ _ _ _ _ (by decide)]
  rfl

theorem floorRegs_entry (u : State) :
    FloorRegs judgeRegs u (((withDisagreement u).orFreg FR.PWR_STATUS 4).count FR.PWR_SUSPECT_CNT) :=
  ((floorRegs_of_eq rfl : FloorRegs _ u (withDisagreement u)).orFreg _ (by decide)).count _ (by decide)

theorem floorRegs_suspected (u : State) (watts : Nat) (e : Rat) : FloorRegs judgeRegs u (suspected u watts e) :=
  (floorRegs_entry u).trans ((floorRegs_logEvent _ _ _ _ _ _ _).mono (by decide))

theorem suspected_status (hw : FGood u.fregs) (i : Nat) : bitB ((suspected u watts e).freg FR.PWR_STATUS) i =
    (bitB (u.freg FR.PWR_STATUS) i || decide (2 = i)) := by
  have h := bitB_orFreg (s := withDisagreement u) FR.PWR_STATUS i (k := 2) (by decide) hw
  rw [suspected, (floorRegs_logEvent _ _ _ _ _ _ _).freg _ (by decide), freg_count_other _ _ (by decide)]
  exact h

theorem suspected_count (hw : FGood u.fregs) :
    (suspected u watts e).freg FR.PWR_SUSPECT_CNT = (u.freg FR.PWR_SUSPECT_CNT + 1) % 2 ^ 64 := by
  have hcanon : FGood ((withDisagreement u).orFreg FR.PWR_STATUS 4).fregs := smap_wf_set _ _ _ _ hw
  rw [suspected, (floorRegs_logEvent _ _ _ _ _ _ _).freg _ (by decide), freg_count_self _ _ hcanon,
    freg_orFreg_other _ _ (by decide)]
  rfl

theorem floorRegs_judge (u : State) (watts : Nat) (e : Rat) : FloorRegs judgeRegs u (u.judge watts e) := by
  by_cases h : Agrees u watts e
  · have hagree : FloorRegs judgeRegs u (withAgreement u) := floorRegs_of_eq rfl
    rw [judge_agrees h]
    exact .ite (hagree.clrFreg _ (by decide)) hagree
  · rw [judge_differs h]
    exact .ite (floorRegs_suspected u watts e) (floorRegs_of_eq rfl)

theorem measures_judge (u : State) (watts : Nat) (e : Rat) : Measures u (u.judge watts e) := by
  by_cases h : Agrees u watts e
  · rw [judge_agrees h]
    exact .ite rfl rfl
  · have hentry : Measures u (((withDisagreement u).orFreg FR.PWR_STATUS 4).count FR.PWR_SUSPECT_CNT) := rfl
    rw [judge_differs h]
    exact .ite (hentry.trans (measures_notice _ _ _ _ _ _)) rfl

/-- A judgement changes ESTIMATE_SUSPECT alone of PWR_STATUS. -/
theorem judge_status_other (hw : FGood u.fregs) {i : Nat} (hi : i ≠ 2) :
    bitB ((u.judge watts e).freg FR.PWR_STATUS) i = bitB (u.freg FR.PWR_STATUS) i := by
  have hne : decide (2 = i) = false := decide_eq_false hi.symm
  by_cases h : Agrees u watts e
  · rw [judge_agrees h]
    split
    · have hclr := bitB_clrFreg (s := withAgreement u) FR.PWR_STATUS 2 i hw
      rw [hne, Bool.not_false, Bool.and_true] at hclr
      exact hclr
    · rfl
  · rw [judge_differs h]
    split
    · rw [suspected_status hw, hne, Bool.or_false]
    · rfl

/-- Agreement: counted, and the sixty-fourth in a row ends ESTIMATE_SUSPECT. -/
theorem judge_agrees_leaves (hw : FGood u.fregs) (h : Agrees u watts e) : let t := u.judge watts e
    t.pw = { u.pw with agree := u.pw.agree + 1, disagree := 0 } ∧ t.alm = u.alm ∧
      bitB (t.freg FR.PWR_STATUS) 2 = (bitB (u.freg FR.PWR_STATUS) 2 && !decide (64 ≤ u.pw.agree + 1)) := by
  intro t
  have hclr := bitB_clrFreg (s := withAgreement u) FR.PWR_STATUS 2 2 hw
  have ht : t = if 64 ≤ u.pw.agree + 1 then (withAgreement u).clrFreg FR.PWR_STATUS 4 else withAgreement u := judge_agrees h
  rw [ht]
  split
  case isTrue hmany =>
    rw [decide_eq_true hmany]
    exact ⟨rfl, rfl, hclr⟩
  case isFalse hfew =>
    rw [decide_eq_false hfew, Bool.not_false, Bool.and_true]
    exact ⟨rfl, rfl, rfl⟩

/-- Disagreement: counted, and the eighth in a row begins ESTIMATE_SUSPECT. -/
theorem judge_differs_leaves (hw : FGood u.fregs) (h : ¬ Agrees u watts e) : let t := u.judge watts e
    t.pw = { u.pw with agree := 0, disagree := u.pw.disagree + 1 } ∧
      bitB (t.freg FR.PWR_STATUS) 2 = (bitB (u.freg FR.PWR_STATUS) 2 || decide (8 ≤ u.pw.disagree + 1)) ∧
      (bitB (u.freg FR.PWR_STATUS) 2 = false → 8 ≤ u.pw.disagree + 1 → t.alm.seq = u.alm.seq + 1 ∧
        t.freg FR.PWR_SUSPECT_CNT = (u.freg FR.PWR_SUSPECT_CNT + 1) % 2 ^ 64) := by
  intro t
  have ht : t = if 8 ≤ u.pw.disagree + 1 && !bitB (u.freg FR.PWR_STATUS) 2 then suspected u watts e
    else withDisagreement u := judge_differs h
  rw [ht]
  split
  case isTrue henter =>
    obtain ⟨hmany, -⟩ := (Bool.and_eq_true _ _).mp henter
    rw [hmany, suspected_status hw, suspected_count hw, suspected_pw]
    exact ⟨rfl, rfl, fun _ _ => ⟨logEvent_seq _ _ _ _ _ _ _, rfl⟩⟩
  case isFalse hstay =>
    refine ⟨rfl, ?_, fun hnot hmany => absurd ?_ hstay⟩
    · change bitB (u.freg FR.PWR_STATUS) 2 = _
      cases hs : bitB (u.freg FR.PWR_STATUS) 2 with
      | true => rfl
      | false =>
        have hfew : ¬ 8 ≤ u.pw.disagree + 1 := fun hmany => hstay (by rw [hs, decide_eq_true hmany]; rfl)
        rw [decide_eq_false hfew, Bool.or_false]
    · rw [hnot, decide_eq_true hmany]
      rfl

end

end Sys2Proof.Proofs
end

section
/-! An interval of the power controller and a measurement, as the obligation states them (R440, R447 to R452, R455,
R458 to R461). -/

namespace Sys2Proof.Proofs

open Sys2Proof.Machine Sys2Proof.Laws

/-! ### The state that a judgement meets -/

section
variable {s : State} {watts uj : Nat} {e a1 : Rat}

theorem refitted_suspect (h : bitB (s.freg FR.PWR_STATUS) 2 = true) :
    refitted s watts uj e a1 = (measured s watts uj e).refitAll watts e a1 := if_pos h

theorem refitted_trusted (h : bitB (s.freg FR.PWR_STATUS) 2 = false) : refitted s watts uj e a1 = measured s watts uj e :=
  if_neg (by simp [h])

/-- A refit changes the weights' registers and PWR_STATUS alone. -/
theorem floorRegs_refitted (s : State) (watts uj : Nat) (e a1 : Rat) :
    FloorRegs (FR.PWR_STATUS :: weightRegs) (measured s watts uj e) (refitted s watts uj e a1) :=
  .ite (floorRegs_refitAll _ _ _ _) (.refl _ _)

theorem measures_refitted (s : State) (watts uj : Nat) (e a1 : Rat) : Measures s (refitted s watts uj e a1) :=
  .ite ((measures_measured s watts uj e).trans (measures_refitAll _ _ _ _)) (measures_measured s watts uj e)

theorem refitted_alm (s : State) (watts uj : Nat) (e a1 : Rat) : (refitted s watts uj e a1).alm = s.alm := by
  rw [refitted]
  split
  · rw [refitAll_alm, measured_alm]
  · exact measured_alm s watts uj e

theorem refitted_pw (s : State) (watts uj : Nat) (e a1 : Rat) : ∃ weights b, (refitted s watts uj e a1).pw =
    { s.pw with
      winN := 0, winSum := 0, winA1 := 0, winP := 0, missed := 0, meas := some (watts, e), weights, refitted := b } := by
  rw [refitted]
  split
  · exact ⟨_, _, refitAll_pw _ _ _ _⟩
  · exact ⟨_, _, rfl⟩

theorem refitted_status (e a1 : Rat) (hw : FGood s.fregs) (i : Nat) :
    bitB ((refitted s watts uj e a1).freg FR.PWR_STATUS) i = ((bitB (s.freg FR.PWR_STATUS) i && !decide (4 = i)) ||
      (bitB (s.freg FR.PWR_STATUS) 2 && (decide (3 = i) && !s.pw.refitted))) := by
  have hcanon := (floorRegs_measured s watts uj e).canon hw
  cases hs : bitB (s.freg FR.PWR_STATUS) 2 with
  | true =>
    rw [refitted_suspect hs, refitAll_status _ _ _ hcanon, measured_status e hw, Bool.true_and]
    rfl
  | false => rw [refitted_trusted hs, measured_status e hw, Bool.false_and, Bool.or_false]

/-- The limit by which a measurement is judged is the state's own. -/
theorem agrees_refitted : Agrees (refitted s watts uj e a1) watts e ↔ Agrees s watts e := by
  rw [Agrees, Agrees, (floorRegs_refitted s watts uj e a1).freg _ (by decide),
    (floorRegs_measured s watts uj e).freg _ (by decide)]

/-! ### The state after a measurement -/

theorem afterMeasurement_frame (s : State) (watts uj : Nat) (e a1 : Rat) : Measures s (afterMeasurement s watts uj e a1) :=
  (measures_refitted s watts uj e a1).trans (measures_judge _ _ _)

theorem refitted_canon (e a1 : Rat) (hw : FGood s.fregs) : FGood (refitted s watts uj e a1).fregs :=
  (floorRegs_refitted s watts uj e a1).canon ((floorRegs_measured s watts uj e).canon hw)

theorem afterMeasurement_watts (e a1 : Rat) (hw : FGood s.fregs) (hlt : watts < 2 ^ 16) :
    (afterMeasurement s watts uj e a1).freg FR.PWR_MEAS_W = watts := by
  rw [afterMeasurement, (floorRegs_judge _ _ _).freg _ (by decide), (floorRegs_refitted s watts uj e a1).freg _ (by decide),
    measured_watts e hw hlt]

theorem afterMeasurement_energy (e a1 : Rat) (hw : FGood s.fregs) : (afterMeasurement s watts uj e a1).freg FR.ENERGY_UJ =
    (s.freg FR.ENERGY_UJ + (uj + Config.vstbyEnergy s.free)) % 2 ^ 64 := by
  rw [afterMeasurement, (floorRegs_judge _ _ _).freg _ (by decide), (floorRegs_refitted s watts uj e a1).freg _ (by decide),
    measured_energy e hw]

theorem afterMeasurement_status (e a1 : Rat) (hw : FGood s.fregs) {i : Nat} (hi : i ≠ 2) :
    bitB ((afterMeasurement s watts uj e a1).freg FR.PWR_STATUS) i = ((bitB (s.freg FR.PWR_STATUS) i && !decide (4 = i)) ||
      (bitB (s.freg FR.PWR_STATUS) 2 && (decide (3 = i) && !s.pw.refitted))) := by
  rw [afterMeasurement, judge_status_other (refitted_canon e a1 hw) hi, refitted_status e a1 hw]

/-- A measurement ends the time in which the estimate is used alone (R450). -/
theorem afterMeasurement_measures (e a1 : Rat) (hw : FGood s.fregs) :
    bitB ((afterMeasurement s watts uj e a1).freg FR.PWR_STATUS) 4 = false := by
  rw [afterMeasurement_status e a1 hw (by decide)]
  simp

/-- The first refit is shown (R451). -/
theorem afterMeasurement_first_refit (e a1 : Rat) (hw : FGood s.fregs) (h : bitB (s.freg FR.PWR_STATUS) 2 = true) :
    bitB ((afterMeasurement s watts uj e a1).freg FR.PWR_STATUS) 3 =
      (bitB (s.freg FR.PWR_STATUS) 3 || !s.pw.refitted) := by
  rw [afterMeasurement_status e a1 hw (by decide), h]
  simp

/-- ESTIMATE_SUSPECT as a judgement meets it. -/
theorem refitted_bit_2 (e a1 : Rat) (hw : FGood s.fregs) :
    bitB ((refitted s watts uj e a1).freg FR.PWR_STATUS) 2 = bitB (s.freg FR.PWR_STATUS) 2 := by
  rw [refitted_status e a1 hw]
  simp

/-- A judgement leaves the controller's settings but its counts of agreement. -/
theorem judge_pw (u : State) (watts : Nat) (e : Rat) (hw : FGood u.fregs) : ∃ agree disagree,
    (u.judge watts e).pw = { u.pw with agree, disagree } := by
  by_cases h : Agrees u watts e
  · exact ⟨_, _, (judge_agrees_leaves hw h).1⟩
  · exact ⟨_, _, (judge_differs_leaves hw h).1⟩

/-- The window is closed, and the measurement kept with its mean estimate. -/
theorem afterMeasurement_window (e a1 : Rat) (hw : FGood s.fregs) : (afterMeasurement s watts uj e a1).pw.winN = 0 ∧
    (afterMeasurement s watts uj e a1).pw.missed = 0 ∧ (afterMeasurement s watts uj e a1).pw.meas = some (watts, e) := by
  obtain ⟨_, _, hjudge⟩ := judge_pw (refitted s watts uj e a1) watts e (refitted_canon e a1 hw)
  obtain ⟨_, _, hpw⟩ := refitted_pw s watts uj e a1
  rw [afterMeasurement, hjudge, hpw]
  exact ⟨rfl, rfl, rfl⟩

/-- Out of ESTIMATE_SUSPECT the weights stay. -/
theorem afterMeasurement_trusted (e a1 : Rat) (hw : FGood s.fregs) (h : bitB (s.freg FR.PWR_STATUS) 2 = false) :
    (afterMeasurement s watts uj e a1).pw.weights = s.pw.weights := by
  obtain ⟨_, _, hjudge⟩ := judge_pw (refitted s watts uj e a1) watts e (refitted_canon e a1 hw)
  rw [afterMeasurement, hjudge, refitted_trusted h]
  rfl

/-- In ESTIMATE_SUSPECT they are refitted (R451). -/
theorem afterMeasurement_suspect (e a1 : Rat) (hw : FGood s.fregs) (h : bitB (s.freg FR.PWR_STATUS) 2 = true) :
    (afterMeasurement s watts uj e a1).pw.refitted = true ∧
      (afterMeasurement s watts uj e a1).pw.weights = newWeights (measured s watts uj e) watts e a1 := by
  obtain ⟨_, _, hjudge⟩ := judge_pw (refitted s watts uj e a1) watts e (refitted_canon e a1 hw)
  rw [afterMeasurement, hjudge, refitted_suspect h, refitAll_pw]
  exact ⟨rfl, rfl⟩

theorem afterMeasurement_agrees (e a1 : Rat) (hw : FGood s.fregs) (h : Agrees s watts e) :
    let t := afterMeasurement s watts uj e a1
    t.pw.agree = s.pw.agree + 1 ∧ t.pw.disagree = 0 ∧ t.alm.seq = s.alm.seq ∧
      (64 ≤ s.pw.agree + 1 → bitB (t.freg FR.PWR_STATUS) 2 = false) ∧
      (s.pw.agree + 1 < 64 → bitB (t.freg FR.PWR_STATUS) 2 = bitB (s.freg FR.PWR_STATUS) 2) := by
  intro t
  obtain ⟨hjudge, halm, hbit⟩ := judge_agrees_leaves (refitted_canon e a1 hw) (agrees_refitted (uj := uj) (a1 := a1).mpr h)
  obtain ⟨_, _, hpw⟩ := refitted_pw s watts uj e a1
  rw [hpw] at hjudge hbit
  rw [refitted_bit_2 e a1 hw] at hbit
  refine ⟨congrArg PwrState.agree hjudge, congrArg PwrState.disagree hjudge,
    congrArg AlmState.seq (halm.trans (refitted_alm s watts uj e a1)), fun hmany => hbit.trans ?_, fun hfew => hbit.trans ?_⟩
  · rw [decide_eq_true hmany, Bool.not_true, Bool.and_false]
  · rw [decide_eq_false (Nat.not_le.mpr hfew), Bool.not_false, Bool.and_true]

theorem afterMeasurement_differs (e a1 : Rat) (hw : FGood s.fregs) (h : ¬ Agrees s watts e) :
    let t := afterMeasurement s watts uj e a1
    t.pw.agree = 0 ∧ t.pw.disagree = s.pw.disagree + 1 ∧
      bitB (t.freg FR.PWR_STATUS) 2 = (bitB (s.freg FR.PWR_STATUS) 2 || decide (8 ≤ s.pw.disagree + 1)) ∧
      (bitB (s.freg FR.PWR_STATUS) 2 = false → 8 ≤ s.pw.disagree + 1 → t.alm.seq = s.alm.seq + 1 ∧
        t.freg FR.PWR_SUSPECT_CNT = (s.freg FR.PWR_SUSPECT_CNT + 1) % 2 ^ 64) := by
  intro t
  obtain ⟨hjudge, hbit, hentry⟩ :=
    judge_differs_leaves (refitted_canon e a1 hw) (mt (agrees_refitted (uj := uj) (a1 := a1)).mp h)
  obtain ⟨_, _, hpw⟩ := refitted_pw s watts uj e a1
  have hcount : (refitted s watts uj e a1).freg FR.PWR_SUSPECT_CNT = s.freg FR.PWR_SUSPECT_CNT := by
    rw [(floorRegs_refitted s watts uj e a1).freg _ (by decide), (floorRegs_measured s watts uj e).freg _ (by decide)]
  rw [hpw] at hjudge hbit hentry
  rw [refitted_bit_2 e a1 hw] at hbit hentry
  rw [refitted_alm, hcount] at hentry
  exact ⟨congrArg PwrState.agree hjudge, congrArg PwrState.disagree hjudge, hbit, hentry⟩

end

/-! ### Windows without a measurement (R450) -/

theorem exec_measurementLost {s : State} (hmissed : 8 ≤ s.pw.missed) (hbit : bitB (s.freg FR.PWR_STATUS) 4 = false) :
    exec .measurementLost s = .next ((s.orFreg FR.PWR_STATUS 16).logEvent 0x0703 0 0 0 0 0) := by
  show execMeasurementLost s = _
  rw [execMeasurementLost, hbit, decide_eq_true hmissed]
  rfl

theorem measurementLost_status {s : State} (hw : FGood s.fregs) :
    bitB (((s.orFreg FR.PWR_STATUS 16).logEvent 0x0703 0 0 0 0 0).freg FR.PWR_STATUS) 4 = true := by
  rw [(floorRegs_logEvent _ _ _ _ _ _ _).freg _ (by decide)]
  exact bitB_orFreg_self (k := 4) FR.PWR_STATUS (by decide) hw

/-! ### The pins after a trip (R460, R530) -/

section
variable {t : State}

/-- A trip that is latched shows at THERMTRIP_N. -/
theorem tripLevel_tripped (hon : t.dev.stbyPg = true) (h : t.dev.trip = true) : t.tripLevel = some false := by
  rw [State.tripLevel, hon, if_pos rfl, h, Bool.not_true]

theorem isReady_tripped (h : t.dev.ready = false) : t.isReady = false := by
  simp [State.isReady, State.devState, h]

/-- While JTAG drives no pin it shows the device's own level. -/
theorem driven_own (h0 : t.dev.jtag.ir ≠ 0) (h4 : t.dev.jtag.ir ≠ 4) (h5 : t.dev.jtag.ir ≠ 5) (pin : Nat)
    (own : Option Bool) : t.driven pin own = own := by
  rw [State.driven, if_neg (by simp [h0, h4]), if_neg h5]

/-- After a trip DEV_READY and THERMTRIP_N are low. -/
theorem tripped_pins {s : State} (i : IntervalIn) (cause : Nat × Int) (hon : s.dev.stbyPg = true) (h0 : s.dev.jtag.ir ≠ 0)
    (h4 : s.dev.jtag.ir ≠ 4) (h5 : s.dev.jtag.ir ≠ 5) :
    let t := (((sensed (later s) i).tripNow cause).controlStep []).endStage
    t.devReady = some false ∧ t.thermtripN = some false := by
  intro t
  obtain ⟨hstby, htrip, hready, hjtag⟩ := tripped_dev s i cause
  rw [← hjtag] at h0 h4 h5
  rw [State.devReady, State.thermtripN, driven_own h0 h4 h5, driven_own h0 h4 h5, isReady_tripped hready,
    tripLevel_tripped (hstby.trans hon) htrip]
  exact ⟨rfl, rfl⟩

end

/-- Settles O52: an interval that does not trip ends with the controller's step (`exec_powerInterval_cool`,
`controlStep_quantities`, `controlStep_cap`, `controlStep_want`), one that trips leaves the main domain off
(`tripCause_of_reading`, `tripped_interval`); a measurement is counted, refits and is judged (`afterMeasurement_agrees`,
`afterMeasurement_differs`, `newWeights_getD`). -/
theorem powerControl : Obligations.PowerControl := by
  unfold Obligations.PowerControl
  refine ⟨?interval, ?measurement⟩
  case interval =>
    intro s i read r e p limit l f h k step hon hw
    have hr : r = windowed (sensed (later s) i) := by
      rw [windowed, sensed_pw]
      rfl
    have he : e = ((windowed (sensed (later s) i)).estimate (if s.dev.mainOn then i.acts else [])).1 := by rw [← hr]
    have hp : p = (windowed (sensed (later s) i)).controlled
        ((windowed (sensed (later s) i)).estimate (if s.dev.mainOn then i.acts else [])).1 := by rw [← he, ← hr]
    have hstep : step = capTable (limit : Rat) p l f h k := rfl
    clear_value step p e r
    subst hr he hp hstep
    refine ⟨fun hcool hl hloop hctx hbring hwriting hpoison _ => ?cool, fun hnot hreading => ?trips⟩
    case cool =>
      rw [tripCause_windowed] at hcool
      have hwv := sensed_canon i hw
      have hlv : (sensed (later s) i).pw.level ≤ 2 := by rw [sensed_pw]; exact hl
      obtain ⟨htime, hframe⟩ := interval_frame s i (if s.dev.mainOn then i.acts else [])
      obtain ⟨hest, hctl⟩ := controlStep_quantities (sensed (later s) i) (if s.dev.mainOn then i.acts else [])
      refine ⟨_, exec_powerInterval_cool hon hcool hloop hctx hbring hwriting hpoison, htime,
        (controlStep_limit _ hwv).trans (capOf_sensed s i), hest, hctl, ?step, controlStep_level _ hwv hlv, ?phase, ?hot, ?want,
        fun c => (interval_regs s i _ c).cell, fun c o ho => (interval_regs s i _ c).reg o (by simpa using ho), hframe⟩
      case step =>
        have hcap := controlStep_cap (if s.dev.mainOn then i.acts else []) hwv
        rw [capOf_sensed, sensed_pw] at hcap
        exact hcap
      case phase => rw [controlStep_phase _ hwv, interval_phaseIds, interval_phaseIds]
      case hot =>
        intro j hj hhot
        rw [hottest_windowed] at hj
        rw [tempOf_windowed, ← throttleAt_sensed s i] at hhot
        rw [← sensed_pw s i]
        exact controlStep_hot _ hwv hlv hj hhot
      case want =>
        have hwant := controlStep_want (sensed (later s) i) (if s.dev.mainOn then i.acts else [])
        rw [sensed_dev, sensed_pw, sensed_pllAt] at hwant
        exact hwant
    case trips =>
      obtain ⟨cause, hcause⟩ := tripCause_of_reading hw hreading
      obtain ⟨R, P, C, F, A, H, fw, ht⟩ := tripped_interval (sensed (later s) i) cause
      obtain ⟨-, -, hready, -⟩ := tripped_dev s i cause
      exact ⟨_, exec_powerInterval_trips hon hnot hcause, by rw [ht]; rfl, by rw [ht]; rfl, hready, by rw [ht]; rfl,
        by rw [ht]; rfl, tripped_status cause (sensed_canon i hw), isReady_tripped hready, tripped_pins i cause hon,
        by rw [tripped_seq, sensed_alm]⟩
  case measurement =>
    intro s watts uj e a1 st suspect d agrees w ed hw
    refine ⟨fun hon hwin hlt => ?shown, fun hmissed hbit => ?lost⟩
    case shown =>
      obtain ⟨hwinN, hmissed, hmeas⟩ := afterMeasurement_window (watts := watts) (uj := uj) e a1 hw
      refine ⟨_, exec_powerMeasurement hon hwin watts uj, afterMeasurement_watts e a1 hw hlt, afterMeasurement_energy e a1 hw,
        afterMeasurement_measures e a1 hw, hwinN, hmissed, hmeas, afterMeasurement_agrees e a1 hw,
        afterMeasurement_differs e a1 hw, afterMeasurement_trusted e a1 hw, fun hsuspect => ?refit, fun hsuspect hed j hj => ?weights,
        afterMeasurement_frame s watts uj e a1⟩
      case refit => exact ⟨(afterMeasurement_suspect e a1 hw hsuspect).1, afterMeasurement_first_refit e a1 hw hsuspect⟩
      case weights =>
        obtain ⟨-, hweights⟩ := afterMeasurement_suspect (watts := watts) (uj := uj) e a1 hw hsuspect
        rw [hweights]
        exact newWeights_getD (u := measured s watts uj e) hed hj
    case lost =>
      exact ⟨_, exec_measurementLost hmissed hbit, measurementLost_status hw, logEvent_seq _ _ _ _ _ _ _,
        logEvent_frame _ _ _ _ _ _ (by decide)⟩

end Sys2Proof.Proofs
end

section
/-! What every step keeps: the rules for the operations that write registers, memory, the lists of R377, R427 and
R475, or OTP. -/

namespace Sys2Proof.Proofs

open Sys2Proof Sys2Proof.Machine Sys2Proof.Laws

variable {o : Otp} {p : List Instr} {s t : State}

/-- The parts of a state that `Good` speaks of. -/
def core (s : State) : (SMap Word × Vector Cell 256 × List Instr) × (Bytes × Nat × SMap (BitVec 32) × Bytes × SMap Line) ×
    SMap Nat × SMap Mailbox × Bytes × Otp :=
  ((s.fregs, s.cells, s.pending), (s.mem.hbm, s.mem.hbmEpoch, s.mem.tagSyn, s.mem.host, s.mem.lines), s.fl.paused,
    s.hs.boxes, s.dev.fw.flash, s.dev.fw.otp)

/-- A state that differs only in parts that `Good` does not speak of. -/
theorem good_of_core (h : Good o p s) (e : core t = core s := by rfl) : Good o p t := by
  simp only [core, Prod.mk.injEq] at e
  obtain ⟨⟨hfregs, hcells, hpending⟩, ⟨hhbm, hepoch, htags, hhost, hlines⟩, hpaused, hboxes, hflash, hotp⟩ := e
  have hmem : MGood t.mem = MGood s.mem := by
    rw [mgoodF_iff t.mem |>.eq, mgoodF_iff s.mem |>.eq, hhbm, hepoch, htags, hhost, hlines]
  exact good_same h hfregs hcells hmem hpaused hboxes hflash hotp hpending

/-- A cell with the registers of another. -/
theorem cgood_with {x y : Cell} (h : CGood x) (e : y.regs = x.regs := by rfl) : CGood y := by
  unfold CGood; rw [e]; exact h

/-- A cell whose registers are those given. -/
theorem cgood_of {m : SMap Word} {y : Cell} (h : RGood m) (e : y.regs = m := by rfl) : CGood y := by
  unfold CGood; rw [e]; exact h

/-! ### Memory -/

theorem mgood_iff (m : MemState) : MGood m ↔ SMap.wf m.hbmDef m.hbm = true ∧ SMap.wf m.synDef m.tagSyn = true ∧
    rising m.host = true ∧ SMap.wf (fun _ => ({} : Line)) m.lines = true := by
  simp only [MGood, Memory.wf, Bool.and_eq_true, and_assoc]

theorem good_withMem (h : Good o p s) {m : MemState} (hm : MGood m) : Good o p { s with mem := m } :=
  good_intro h.floor h.cell hm h.lists h.otp h.queue

theorem good_setLine (h : Good o p s) {la : Nat} {l : Line} : Good o p (s.setLine la l) := by
  obtain ⟨hhbm, htags, hhost, hlines⟩ := (mgood_iff _).mp h.mem
  exact good_withMem h ((mgood_iff _).mpr ⟨hhbm, htags, hhost, smap_wf_set _ _ _ _ hlines⟩)

theorem wf_retag {m : MemState} {a n : Nat} (h : SMap.wf m.synDef m.tagSyn = true) :
    SMap.wf m.synDef (m.retag a n).tagSyn = true :=
  foldl_keeps (P := fun t => SMap.wf m.synDef t = true) _ h (fun _ _ ht => smap_wf_set _ _ _ _ ht)

theorem good_hbmWrite (h : Good o p s) {pa : Nat} {bs : List PByte} : Good o p (s.hbmWrite pa bs) := by
  obtain ⟨hhbm, htags, hhost, hlines⟩ := (mgood_iff _).mp h.mem
  exact good_withMem h ((mgood_iff _).mpr ⟨smap_wf_setRange _ _ _ _ hhbm, wf_retag htags, hhost, hlines⟩)

theorem rising_insert {α : Type} (m : SMap α) (k : Nat) (v : α) (h : rising m = true) :
    rising (m.insert k v) = true := by
  induction m with
  | nil => rfl
  | cons e m ih =>
    obtain ⟨a, w⟩ := e
    simp only [rising, Bool.and_eq_true] at h
    simp only [SMap.insert]
    split
    · simp_all [rising, SMap.above]
    · split
      · subst_vars; simp_all [rising]
      · simp only [rising, Bool.and_eq_true]
        exact ⟨smap_above_insert m a k v (by omega) h.1, ih h.2⟩

theorem good_hostWrite (h : Good o p s) {ha : Nat} {bs : List PByte} : Good o p (s.hostWrite ha bs) := by
  obtain ⟨hhbm, htags, hhost, hlines⟩ := (mgood_iff _).mp h.mem
  refine good_withMem h ((mgood_iff _).mpr ⟨hhbm, htags, ?_, hlines⟩)
  exact foldl_keeps (P := fun m => rising m = true) _ hhost (fun _ _ hm => rising_insert _ _ _ hm)

/-- Memory with no bytes of HBM and no tags listed. -/
theorem mgood_cleared {m : MemState} (h : MGood m) (e : Nat) :
    MGoodF [] e [] m.host m.lines := by
  obtain ⟨-, -, hhost, hlines⟩ := (mgood_iff _).mp h
  exact (mgood_iff _).mpr ⟨rfl, rfl, hhost, hlines⟩

/-- Memory with no lines listed. -/
theorem mgood_noLines {m : MemState} (h : MGood m) : MGoodF m.hbm m.hbmEpoch m.tagSyn m.host [] := by
  obtain ⟨hhbm, htags, hhost, -⟩ := (mgood_iff _).mp h
  exact (mgood_iff _).mpr ⟨hhbm, htags, hhost, rfl⟩

/-- Every answer of a fetch holds a good state. -/
def FetchGood (o : Otp) (p : List Instr) : FetchRes → Prop
  | .ok s _ => Good o p s
  | .fault s _ => Good o p s
  | .wait s => Good o p s

theorem fetchgood_ok (h : Good o p s) (w : Nat) : FetchGood o p (.ok s w) := h
theorem fetchgood_fault (h : Good o p s) (f : FaultInfo) : FetchGood o p (.fault s f) := h
theorem fetchgood_wait (h : Good o p s) : FetchGood o p (.wait s) := h
theorem good_of_fetched {r : FetchRes} {w : Nat} (q : r = .ok s w) (h : FetchGood o p r) : Good o p s := by
  subst q; exact h
theorem good_of_ffault {r : FetchRes} {f : FaultInfo} (q : r = .fault s f) (h : FetchGood o p r) : Good o p s := by
  subst q; exact h
theorem good_of_fwait {r : FetchRes} (q : r = .wait s) (h : FetchGood o p r) : Good o p s := by subst q; exact h
theorem fetchgood_ite {c : Prop} [Decidable c] {x y : FetchRes} (h1 : c → FetchGood o p x) (h2 : ¬ c → FetchGood o p y) :
    FetchGood o p (if c then x else y) := by
  split
  · exact h1 ‹_›
  · exact h2 ‹_›

/-- Every answer of a granule's contributions holds a good state. -/
def SentGood (o : Otp) (p : List Instr) : SentLines → Prop
  | .done s _ => Good o p s
  | .wait s _ => Good o p s

theorem sentgood_done (h : Good o p s) (w : Option Nat) : SentGood o p (.done s w) := h
theorem sentgood_wait (h : Good o p s) (w : Wait) : SentGood o p (.wait s w) := h
theorem good_of_sent {r : SentLines} {w : Option Nat} (q : r = .done s w) (h : SentGood o p r) : Good o p s := by
  subst q; exact h
theorem good_of_unsent {r : SentLines} {w : Wait} (q : r = .wait s w) (h : SentGood o p r) : Good o p s := by
  subst q; exact h

theorem agood_foldl {α β : Type} {f : AccRes α → β → AccRes α} {r : AccRes α} (l : List β) (h : AGood o p r)
    (hf : ∀ r b, AGood o p r → AGood o p (f r b)) : AGood o p (l.foldl f r) := foldl_keeps l h hf

theorem hgood_foldl {α β : Type} {f : HRes α → β → HRes α} {r : HRes α} (l : List β) (h : HGood o p r)
    (hf : ∀ r b, HGood o p r → HGood o p (f r b)) : HGood o p (l.foldl f r) := foldl_keeps l h hf

theorem egood_orFault {α : Type} (h : Good o p s) {r : Except FaultInfo α} {k : α → Eval} (hk : ∀ a, EGood o p (k a)) :
    EGood o p (orFault s r k) := by
  cases r with
  | error f => exact egood_fault h f
  | ok v => exact hk v

theorem sgood_sx {α : Type} (h : Good o p s) {why : Wait} {dst va : Nat} : SGood o p (why.sx s dst va : SxRes α) := by
  cases why <;> exact h

theorem opgood_map {α β : Type} {r : Option α} {f : α → State × β} (h : ∀ a, Good o p (f a).1) :
    OPGood o p (r.map f) := by
  intro q hq
  obtain ⟨a, -, rfl⟩ := Option.map_eq_some_iff.mp hq
  exact h a

/-! ### Firmware, OTP and the other lists -/

/-- The flash in canonical form, and an OTP that has lost nothing that o holds. -/
def WGood (o : Otp) (w : FwState) : Prop := SMap.wf ffByte w.flash = true ∧ Otp.keeps o w.otp

theorem good_fw (h : Good o p s) : WGood o s.dev.fw := ⟨h.lists.2.2, h.otp⟩

theorem good_modFw (h : Good o p s) {f : FwState → FwState} (hf : ∀ w, WGood o w → WGood o (f w)) :
    Good o p (s.modFw f) := by
  obtain ⟨hflash, hotp⟩ := hf _ (good_fw h)
  obtain ⟨hpaused, hboxes, -⟩ := h.lists
  exact good_intro h.floor h.cell h.mem ⟨hpaused, hboxes, hflash⟩ hotp h.queue

theorem good_setBox (h : Good o p s) {m : Nat} {b : Mailbox} : Good o p (s.setBox m b) := by
  obtain ⟨hpaused, hboxes, hflash⟩ := h.lists
  exact good_intro h.floor h.cell h.mem ⟨hpaused, smap_wf_set _ _ _ _ hboxes, hflash⟩ h.otp h.queue

/-- Firmware with the flash and the OTP of another. -/
theorem wgood_with {w v : FwState} (h : WGood o w) (e : (v.flash, v.otp) = (w.flash, w.otp) := by rfl) : WGood o v := by
  obtain ⟨hflash, hotp⟩ := Prod.mk.inj e
  unfold WGood; rw [hflash, hotp]; exact h

theorem wgood_ite {c : Prop} [Decidable c] {x y : FwState} (h1 : c → WGood o x) (h2 : ¬ c → WGood o y) :
    WGood o (if c then x else y) := by
  split
  · exact h1 ‹_›
  · exact h2 ‹_›

theorem wgood_flashWrite {w : FwState} (h : WGood o w) {a : Nat} {bs : List Byte} : WGood o (w.flashWrite a bs) :=
  ⟨smap_wf_setRange _ _ _ _ h.1, h.2⟩

theorem wgood_breakOff {w : FwState} (h : WGood o w) : WGood o w.breakOff := by
  unfold FwState.breakOff
  split
  · exact h
  · exact ⟨smap_wf_filter _ _ _ h.1, h.2⟩

theorem keeps_refl (o : Otp) : Otp.keeps o o := ⟨.inr le_rfl, fun _ h => h, fun _ => le_rfl, le_rfl, le_rfl, id⟩

theorem wgood_burnBlock {w : FwState} (h : WGood o w) : WGood o w.burnBlock := by
  obtain ⟨hflash, hlc, hrevoked, hfloor, hpatch, hlms, herased⟩ := h
  unfold FwState.burnBlock
  split
  · exact ⟨hflash, hlc, hrevoked, hfloor, hpatch, Nat.le_succ_of_le hlms, herased⟩
  · exact ⟨hflash, hlc, hrevoked, hfloor, hpatch, hlms, herased⟩

theorem floor_raise (f : Otp) (k v ty : Nat) : f.floor ty ≤ (f.raise k v).floor ty := by
  unfold Otp.raise Otp.floor
  dsimp only
  split_ifs <;> simp

theorem keeps_raise {f : Otp} (h : Otp.keeps o f) (ty v : Nat) : Otp.keeps o (f.raise ty v) := by
  obtain ⟨hlc, hrevoked, hfloor, hpatch, hlms, herased⟩ := h
  exact ⟨hlc, hrevoked, fun k => (hfloor k).trans (floor_raise f ty v k), hpatch, hlms, herased⟩

theorem good_setHv (h : Good o p s) (v : HvState) : Good o p { s with hv := v } := good_of_core h

/-- A map of the values that takes no value to the one of an unlisted address. -/
theorem smap_wf_map {α : Type} [DecidableEq α] (d : Nat → α) {f : Nat × α → Nat × α} (hkey : ∀ e, (f e).1 = e.1)
    (hval : ∀ e, e.2 ≠ d e.1 → (f e).2 ≠ d e.1) {m : SMap α} (h : SMap.wf d m = true) :
    SMap.wf d (m.map f) = true := by
  induction m with
  | nil => rfl
  | cons e m ih =>
    obtain ⟨a, v⟩ := e
    simp only [SMap.wf, Bool.and_eq_true, decide_eq_true_eq] at h
    obtain ⟨⟨habove, hv⟩, hm⟩ := h
    have hk : (f (a, v)).1 = a := hkey (a, v)
    simp only [List.map_cons, SMap.wf, Bool.and_eq_true, decide_eq_true_eq, hk]
    refine ⟨⟨?_, hval _ hv⟩, ih hm⟩
    cases m with
    | nil => rfl
    | cons b m => simpa [SMap.above, hkey b] using habove

/-- A lifecycle state is left only for a later one. -/
theorem keeps_lc {f : Otp} (h : Otp.keeps o f) {target : Nat} (hlc : target = 4 ∨ o.lc ≤ target) :
    Otp.keeps o { f with lc := target } := by
  obtain ⟨-, hrevoked, hfloor, hpatch, hlms, herased⟩ := h
  exact ⟨hlc, hrevoked, hfloor, hpatch, hlms, herased⟩

/-- The transitions that a token can ask for lead to the next lifecycle state, none from END. -/
theorem tokenKey_rises {lc target : Nat} {jtag : Bool} (h : (tokenKey lc target jtag).isSome = true) :
    lc ≠ 4 ∧ lc ≤ target := by
  unfold tokenKey at h
  split at h
  · decide
  · decide
  · decide
  · exact absurd h (by simp)

theorem lc_of_tokenFits (h : Good o p s) {t : TokenIn} {jtag : Bool} (hfits : s.tokenFits t jtag = true) :
    t.target = 4 ∨ o.lc ≤ t.target := by
  simp only [State.tokenFits, Bool.and_eq_true] at hfits
  obtain ⟨hend, hrise⟩ := tokenKey_rises hfits.2
  have hlc := h.otp.1
  omega

theorem wgood_otp {w : FwState} (h : WGood o w) {f : Otp} (hf : Otp.keeps o f) : WGood o { w with otp := f } := ⟨h.1, hf⟩

theorem good_noBoxes (h : Good o p s) {v : HostState} (hv : v.boxes = []) : Good o p { s with hs := v } := by
  obtain ⟨hpaused, -, hflash⟩ := h.lists
  exact good_intro h.floor h.cell h.mem ⟨hpaused, hv ▸ rfl, hflash⟩ h.otp h.queue

/-- The cells of a device after its reset. -/
theorem cgood_resetCells (c : CellId) : CGood (Vector.replicate 256 ({} : Cell))[c] := by
  simp only [Fin.getElem_fin, Vector.getElem_replicate]
  rfl

/-- Memory with nothing but what the host's memory holds. -/
theorem mgood_hostOnly {m : MemState} (h : MGood m) {poison : NSet} :
    MGood { host := m.host, hostPoison := poison } := by
  obtain ⟨-, -, hhost, -⟩ := (mgood_iff _).mp h
  exact (mgood_iff _).mpr ⟨rfl, rfl, hhost, rfl⟩

end Sys2Proof.Proofs
end

section
/-! What every step keeps, function by function in the order of the model: from a good state, each operation leads to
good states only. The three obligations about every step (O4 to O6) follow at the end. -/

namespace Sys2Proof.Proofs

open Sys2Proof Sys2Proof.Machine Sys2Proof.Laws

set_option Elab.async false

variable {o : Otp} {p : List Instr}

/-! ### Machine/Ops.lean -/

theorem good_setSlice {s : State} (h : Good o p s) {n : CellId} {x : Slice} : Good o p (s.setSlice n x) :=
  good_of_core h

theorem good_modSlice {s : State} (h : Good o p s) {n : CellId} {f : Slice → Slice} : Good o p (s.modSlice n f)
    :=
  good_setSlice h

theorem good_count {s : State} (h : Good o p s) {a : Nat} {n : Nat} : Good o p (s.count a n) :=
  good_setFreg h _ _

theorem good_orFreg {s : State} (h : Good o p s) {a : Nat} {m : Nat} : Good o p (s.orFreg a m) :=
  good_setFreg h _ _

theorem good_clrFreg {s : State} (h : Good o p s) {a : Nat} {m : Nat} : Good o p (s.clrFreg a m) :=
  good_setFreg h _ _

theorem good_putFreg {s : State} (h : Good o p s) {a : Nat} {hi lo v : Nat} : Good o p (s.putFreg a hi lo v) :=
  good_setFreg h _ _

theorem cgood_setReg {x : Cell} (hx : CGood x) {o1 : Nat} {v : Nat} : CGood (x.setReg o1 v) :=
  cgood_of (rgood_set (rgood_regs hx) _ _)

theorem cgood_count {x : Cell} (hx : CGood x) {o1 : Nat} {n : Nat} : CGood (x.count o1 n) :=
  cgood_setReg hx

theorem cgood_orReg {x : Cell} (hx : CGood x) {o1 : Nat} {m : Nat} : CGood (x.orReg o1 m) :=
  cgood_setReg hx

theorem cgood_clrReg {x : Cell} (hx : CGood x) {o1 : Nat} {m : Nat} : CGood (x.clrReg o1 m) :=
  cgood_setReg hx

theorem cgood_wrS {x : Cell} (hx : CGood x) {n : BitVec 5} {v : Word} : CGood (x.wrS n v) :=
  cgood_ite (fun _ => hx) (fun _ => cgood_with hx)

theorem cgood_wrD {x : Cell} (hx : CGood x) {n : BitVec 4} {v : Desc} : CGood (x.wrD n v) :=
  cgood_with hx

theorem good_countC {s : State} (h : Good o p s) {c : CellId} {o1 n : Nat} : Good o p (s.countC c o1 n) :=
  good_modCell h _ (fun _ h1 => cgood_count h1)

theorem good_draw {s : State} (h : Good o p s) : Good o p s.draw :=
  good_of_core h

theorem good_stall {s : State} (h : Good o p s) {c : CellId} {o1 : Nat} : Good o p (s.stall c o1) :=
  good_draw (good_countC h)

theorem good_stallF {s : State} (h : Good o p s) {a : Nat} : Good o p (s.stallF a) :=
  good_draw (good_count h)

theorem cgood_ocWrite {x : Cell} (hx : CGood x) {a : Nat} {bs : List Byte} : CGood (x.ocWrite a bs) :=
  cgood_with hx

theorem cgood_imWrite {x : Cell} (hx : CGood x) {a : Nat} {bs : List Byte} : CGood (x.imWrite a bs) :=
  cgood_with hx

theorem cgood_accWrite {x : Cell} (hx : CGood x) {acc : Nat} {p1 : Nat} {vs : List (BitVec 32)} : CGood
    (x.accWrite acc p1 vs) :=
  cgood_with hx

/-! ### Machine/Almanac.lean -/

theorem good_sendMsi {s : State} (h : Good o p s) {v : Nat} : Good o p (s.sendMsi v) :=
  good_ite (fun _ => h) (fun _ => good_ite (fun _ => good_of_core h) (fun _ => good_of_core h))

theorem good_hostEvent {s : State} (h : Good o p s) {bit : Nat} : Good o p (s.hostEvent bit) :=
  good_ite (fun _ => good_sendMsi (good_orFreg h)) (fun _ => (good_orFreg h))

theorem good_storeSevere {s : State} (h : Good o p s) {r : AlmRec} : Good o p (s.storeSevere r) :=
  good_ite (fun _ => good_ite (fun _ => good_of_core h) (fun _ => good_count h)) (fun _ => h)

theorem good_storeRec {s : State} (h : Good o p s) {r : AlmRec} : Good o p (s.storeRec r) :=
  good_ite (fun _ => good_orFreg (good_count (good_of_core h))) (fun _ => (good_of_core h))

theorem good_logEvent {s : State} (h : Good o p s) {code : Nat} {index cls addr info0 info1 : Nat} : Good o p
    (s.logEvent code index cls addr info0 info1) := by
  unfold State.logEvent
  extract_lets +onlyGivenNames _ _ s1 _ s3 _
  have hs1 : Good o p s1 := good_count h
  have hs3 : Good o p s3 := good_of_core hs1
  refine good_ite (fun _ => good_count hs3) (fun _ => ?_)
  extract_lets +onlyGivenNames _ _ s5 s6 _ _ s8
  have hs5 : Good o p s5 := good_ite (fun _ => good_of_core hs3) (fun _ => hs3)
  have hs6 : Good o p s6 := good_storeSevere (good_storeRec hs5)
  have hs8 : Good o p s8 := good_ite (fun _ => good_of_core hs6) (fun _ => hs6)
  exact good_ite (fun _ => good_hostEvent hs8) (fun _ => hs8)

theorem cgood_locate {x : Cell} (hx : CGood x) {u : FaultUnit} {l : Option NvLoc} {pc : Nat} : CGood (x.locate u
    l pc) := by
  unfold Cell.locate
  split
  · exact cgood_ite (fun _ => hx) (fun _ => cgood_setReg (cgood_setReg hx))
  · exact cgood_ite (fun _ => hx) (fun _ => cgood_setReg (cgood_setReg hx))
  · exact cgood_ite (fun _ => hx) (fun _ => cgood_setReg (cgood_setReg hx))
  · exact hx

theorem cgood_noteFlags {x : Cell} (hx : CGood x) {u : FaultUnit} {e : NumEvent} {pc : Nat} : CGood (x.noteFlags
    u e pc) := by
  unfold Cell.noteFlags
  dsimp only
  refine cgood_locate ?_
  refine cgood_count ?_
  refine cgood_count ?_
  refine cgood_count ?_
  refine cgood_count ?_
  refine cgood_count ?_
  split
  · exact cgood_orReg (cgood_orReg hx)
  · exact (cgood_orReg hx)

theorem good_logFlag {s : State} (h : Good o p s) {c : CellId} {u : FaultUnit} {loc : Option NvLoc} {pc bit :
    Nat} : Good o p (s.logFlag c u loc pc bit) :=
  good_ite (fun _ => h) (fun _ => good_ite (fun _ => good_count (good_countC h)) (fun _ => good_logEvent
    (good_of_core h)))

theorem good_noteNum {s : State} (h : Good o p s) {c : CellId} {u : FaultUnit} {e : NumEvent} {pc : Nat} : Good
    o p (s.noteNum c u e pc) :=
  good_ite (fun _ => h) (fun _ => good_foldl _ (good_modCell h _ (fun _ h2 => cgood_noteFlags h2)) (fun _ _ h2 =>
    good_ite (fun _ => good_logFlag h2) (fun _ => h2)))

/-! ### Machine/Wake.lean -/

theorem good_stopPll {s : State} (h : Good o p s) : Good o p s.stopPll :=
  good_of_core h

theorem good_startPll {s : State} (h : Good o p s) : Good o p s.startPll := by
  unfold State.startPll
  split
  · exact good_draw (good_of_core h)
  · exact h

theorem good_beginWake {s : State} (h : Good o p s) {c : CellId} : Good o p (s.beginWake c) :=
  good_modCell h _ (fun _ h1 => cgood_with h1)

theorem good_endDoze {s : State} (h : Good o p s) {c : CellId} : Good o p (s.endDoze c) := by
  unfold State.endDoze
  split
  · exact good_draw (good_modCell h _ (fun _ h1 => cgood_with (cgood_count h1)))
  · exact h

theorem good_requestWake {s : State} (h : Good o p s) {c : CellId} : Good o p (s.requestWake c) := by
  unfold State.requestWake
  extract_lets +onlyGivenNames x
  have hx : CGood x := cgood_cell h _
  split
  · refine good_ite (fun _ => h) (fun _ => ?_)
    refine good_ite (fun _ => ?_) (fun _ => ?_)
    · extract_lets +onlyGivenNames x2
      have hx2 : Good o p x2 := good_beginWake h
      exact good_of_core hx2
    · extract_lets +onlyGivenNames _ s2
      have hs2 : Good o p s2 := good_setCell (good_startPll h) _ (cgood_with hx)
      exact good_count (good_of_core hs2)
  · exact h

theorem good_requestExit {s : State} (h : Good o p s) {i : Nat} : Good o p (s.requestExit i) :=
  good_ite (fun _ => h) (fun _ => good_ite (fun _ => good_of_core h) (fun _ => good_count (good_of_core h)))

/-! ### Machine/Phys.lean -/

theorem good_rawWrite {s : State} (h : Good o p s) {pa : Nat} {bs : List PByte} : Good o p (s.rawWrite pa bs) := by
  unfold State.rawWrite
  split
  · exact good_hbmWrite h
  · exact good_hostWrite h
  · exact h

theorem good_checkTile {s : State} (h : Good o p s) {t : Nat} : Good o p (s.checkTile t) :=
  good_ite (fun _ => good_logEvent (good_count h)) (fun _ => h)

theorem good_hbmUncorrectable {s : State} (h : Good o p s) {blk : Nat} : Good o p (s.hbmUncorrectable blk) := by
  unfold State.hbmUncorrectable
  exact good_logEvent (good_ite (fun _ => (good_count (good_of_core h))) (fun _ => good_setFreg (good_count
    (good_of_core h)) _ _))

theorem good_hbmEcc {s : State} (h : Good o p s) {e : HbmEcc} : Good o p (s.hbmEcc e) :=
  good_foldl _ (good_count h) (fun _ _ h1 => good_hbmUncorrectable h1)

theorem mgood_winCheck {s : State} (h : Good o p s) {n : CellId} {off len : Nat} : MRGood o p (fun _ => True)
    (s.winCheck n off len) := by
  unfold State.winCheck
  split
  · exact mgood_ite (fun _ => mgood_ok trivial) (fun _ => mgood_range)
  · exact mgood_ite (fun _ => mgood_ok trivial) (fun _ => mgood_ite (fun _ => mgood_wait h _) (fun _ =>
      mgood_range))

theorem good_countBypass {s : State} (h : Good o p s) {n : CellId} {layer : Nat} : Good o p (s.countBypass n
    layer) :=
  good_ite (fun _ => good_count h) (fun _ => h)

theorem good_winWrite {s : State} (h : Good o p s) {n : CellId} {off : Nat} {bs : List PByte} : Good o p
    (s.winWrite n off bs) :=
  good_modSlice h

theorem good_winEcc {s : State} (h : Good o p s) {e : WinEcc} : Good o p (s.winEcc e) :=
  good_ite (fun _ => (good_count h)) (fun _ => good_logEvent (good_count (good_modSlice (good_count h))))

/-! ### Machine/Semaphore.lean -/

theorem cgood_setSem {x : Cell} (hx : CGood x) {k : BitVec 6} {v : Sem} : CGood (x.setSem k v) :=
  cgood_with hx

theorem cgood_setSlot {x : Cell} (hx : CGood x) {n : Fin 6} {t : Option Transfer} : CGood (x.setSlot n t) :=
  cgood_with hx

theorem good_addPost {s : State} (h : Good o p s) {c : CellId} {k : BitVec 6} {n : Nat} : Good o p (s.addPost c
    k n) :=
  good_ite (fun _ => good_setCell h _ (cgood_setSem (cgood_count (cgood_cell h _)))) (fun _ => good_logEvent
    (good_setCell h _ (cgood_count (cgood_setSem (cgood_count (cgood_cell h _))))))

theorem cgood_faultHead {x : Cell} (hx : CGood x) {f : FaultInfo} : CGood (x.faultHead f) := by
  unfold Cell.faultHead
  split
  · exact hx
  · exact cgood_with hx

theorem cgood_haltSlot {x : Cell} (hx : CGood x) {n : Fin 6} {t : Transfer} {reason detail va : Nat} : CGood
    (x.haltSlot n t reason detail va) := by
  unfold Cell.haltSlot
  split
  · exact cgood_ite (fun _ => (cgood_setSlot hx)) (fun _ => cgood_count (cgood_setSlot hx))
  · exact cgood_count (cgood_setSlot hx)

theorem good_haltLinks {fail : Fin 6 → Transfer → State → State}
    (hfail : ∀ (n : Fin 6) (t : Transfer) (s : State), Good o p s → Good o p (fail n t s)) {c : CellId}
    {l : List Waiter} {s : State} (h : Good o p s) : Good o p (haltLinks fail c l s) := by
  induction l generalizing s with
  | nil => exact h
  | cons w l ih =>
    cases w with
    | seq i => exact ih h
    | link n =>
      refine ih ?_
      split
      · exact hfail _ _ _ h
      · exact h

theorem cgood_meetMark {x : Cell} (hx : CGood x) {k : BitVec 6} : CGood (x.meetMark k) := by
  unfold Cell.meetMark
  extract_lets +onlyGivenNames _
  split
  · exact hx
  · extract_lets +onlyGivenNames x'
    have hx' : CGood x' := cgood_setSem hx
    exact cgood_ite (fun _ => cgood_faultHead hx') (fun _ => hx')

theorem cgood_markFailed {x : Cell} (hx : CGood x) {k : BitVec 6} {uc : Bool} : CGood (x.markFailed k uc) :=
  cgood_meetMark (cgood_setSem hx)

theorem good_failTransfer {n : Nat} {c : CellId} {a : Fin 6} {a1 : Transfer} {n1 n2 n3 : Nat} {s : State} (h :
    Good o p s) : Good o p (failTransfer n c a a1 n1 n2 n3 s) := by
  induction n generalizing c a a1 n1 n2 n3 s with
  | zero =>
    unfold failTransfer
    exact h
  | succ n ih =>
    unfold failTransfer
    extract_lets +onlyGivenNames _ _ s1 _ s2 _ s3 s4 go
    have hs1 : Good o p s1 := good_modCell h _ (fun _ h1 => cgood_haltSlot h1)
    have hs2 : Good o p s2 := good_ite (fun _ => good_modCell hs1 _ (fun _ h2 => cgood_markFailed h2)) (fun _ =>
      hs1)
    have hs3 : Good o p s3 := good_ite (fun _ => good_modCell hs2 _ (fun _ h2 => cgood_markFailed h2)) (fun _ =>
      hs2)
    have hs4 : Good o p s4 := good_logEvent hs3
    have hgo : ∀ (c : CellId) (k : BitVec 6) (a : Fin 6) (a_1 : Transfer) (a_2 : State), Good o p a_2 → Good o p (go
      c k a a_1 a_2) := fun _ _ _ _ _ h1 => ih h1
    exact good_haltLinks (fun _ _ _ h1 => hgo _ _ _ _ _ h1) (good_haltLinks (fun _ _ _ h1 => hgo _ _ _ _ _ h1) hs4)

theorem good_failSlot {s : State} (h : Good o p s) {c : CellId} {n : Fin 6} {reason detail va : Nat} : Good o p
    (s.failSlot c n reason detail va) := by
  unfold State.failSlot
  split
  · exact good_failTransfer h
  · exact h

theorem good_meetOvf {s : State} (h : Good o p s) {c : CellId} {k : BitVec 6} : Good o p (s.meetOvf c k) :=
  good_haltLinks (fun _ _ _ h1 => good_failTransfer h1) (good_modCell h _ (fun _ h1 => cgood_meetMark h1))

theorem good_post {s : State} (h : Good o p s) {c : CellId} {k : BitVec 6} {n : Nat} : Good o p (s.post c k n)
    := by
  unfold State.post
  refine good_ite (fun _ => h) (fun _ => ?_)
  split
  · exact good_requestWake (good_setCell h _ (cgood_with (cgood_cell h _)))
  · exact good_requestWake (good_setCell h _ (cgood_with (cgood_cell h _)))
  · exact good_ite (fun _ => good_meetOvf (good_addPost (good_endDoze h))) (fun _ => (good_addPost (good_endDoze
      h)))
  · exact good_ite (fun _ => good_meetOvf (good_addPost (good_endDoze h))) (fun _ => (good_addPost (good_endDoze
      h)))

theorem good_postFrom {s : State} (h : Good o p s) {src : CellId} {c : CellId} {k : BitVec 6} {n : Nat} : Good o
    p (s.postFrom src c k n) :=
  good_ite (fun _ => good_countC h) (fun _ => good_ite (fun _ => good_stall (good_post h)) (fun _ => (good_post h)))

theorem good_completionPost {s : State} (h : Good o p s) {c : CellId} {pen : Bool} {k : BitVec 6} : Good o p
    (s.completionPost c pen k) :=
  good_ite (fun _ => good_post h) (fun _ => h)

theorem cogood_serveSem {x : Cell} (hx : CGood x) {k : BitVec 6} : COGood (x.serveSem k) := by
  unfold Cell.serveSem
  extract_lets +onlyGivenNames _
  split
  · exact cogood_none
  · refine cogood_ite (fun _ => ?_) (fun _ => cogood_none)
    extract_lets +onlyGivenNames x2 x3
    have hx2 : CGood x2 := cgood_setSem hx
    have hx3 : CGood x3 := cgood_count hx2
    split
    · exact cogood_some hx3
    · exact cogood_some (cgood_with hx3)
  · refine cogood_ite (fun _ => ?_) (fun _ => cogood_none)
    extract_lets +onlyGivenNames x2 x3
    have hx2 : CGood x2 := cgood_setSem hx
    have hx3 : CGood x3 := cgood_count hx2
    split
    · exact cogood_some (cgood_setSlot hx3)
    · exact cogood_some hx3

theorem cgood_serveAll {n : Nat} {a : Cell} (ha : CGood a) {a1 : BitVec 6} : CGood (Cell.serveAll n a a1) := by
  induction n generalizing a a1 with
  | zero =>
    unfold Cell.serveAll
    exact ha
  | succ n ih =>
    unfold Cell.serveAll
    split
    · next q => exact ih (cgood_of_some q (cogood_serveSem ha))
    · exact ha

theorem cgood_writeSem {x : Cell} (hx : CGood x) {k : BitVec 6} {v : Nat} : CGood (x.writeSem k v) :=
  cgood_serveAll (cgood_setSem hx)

/-! ### Machine/Conveyor.lean -/

theorem cgood_setConv {x : Cell} (hx : CGood x) {k : BitVec 4} {v : Conveyor} : CGood (x.setConv k v) :=
  cgood_with hx

theorem good_convJoin {s : State} (h : Good o p s) {c : CellId} {k : BitVec 4} {p1 : Producer} : Good o p
    (s.convJoin c k p1) :=
  good_ite (fun _ => h) (fun _ => good_modCell h _ (fun _ h2 => cgood_setConv h2))

theorem good_spoilItem {s : State} (h : Good o p s) {c : CellId} {k : BitVec 4} {i : BitVec 32} : Good o p
    (s.spoilItem c k i) :=
  good_ite (fun _ => good_modCell h _ (fun _ h2 => cgood_setConv h2)) (fun _ => good_ite (fun _ => good_countBypass
    h) (fun _ => h))

theorem good_convPush {s : State} (h : Good o p s) {c : CellId} {k : BitVec 4} {p1 : Producer} {d : List PByte}
    {eop : Bool} : Good o p (s.convPush c k p1 d eop) := by
  unfold State.convPush
  extract_lets +onlyGivenNames s1 x _ _ _ _ _ x1 x2 x3 s2 s3
  have hs1 : Good o p s1 := good_endDoze h
  have hx : CGood x := cgood_cell hs1 _
  have hx1 : CGood x1 := cgood_count (cgood_setConv hx)
  have hx2 : CGood x2 := cgood_ocWrite hx1
  have hx3 : CGood x3 := cgood_ite (fun _ => hx1) (fun _ => cgood_with hx2)
  have hs2 : Good o p s2 := good_setCell hs1 _ hx3
  have hs3 : Good o p s3 := good_ite (fun _ => good_winWrite (good_countBypass hs2)) (fun _ => hs2)
  exact good_ite (fun _ => good_post hs3) (fun _ => hs3)

/-! ### Machine/Directory.lean -/

theorem good_modLine {s : State} (h : Good o p s) {la : Nat} {f : Line → Line} : Good o p (s.modLine la f) :=
  good_setLine h

theorem good_used {s : State} (h : Good o p s) {la : Nat} {l : Line} : Good o p (s.used la l) :=
  good_setLine (good_of_core h)

theorem good_recall {s : State} (h : Good o p s) {la : Nat} {write : Bool} : Good o p (s.recall la write) :=
  good_foldl _ h (fun _ _ h1 => good_ite (fun _ => h1) (fun _ => good_count (good_of_core h1)))

theorem good_recallAll {s : State} (h : Good o p s) {ps : List (Nat × Nat × Nat)} {write : Bool} : Good o p
    (s.recallAll ps write) :=
  good_foldl _ h (fun _ _ h1 => good_recall h1)

theorem good_dropLine {s : State} (h : Good o p s) {la : Nat} : Good o p (s.dropLine la) :=
  good_setLine (good_ite (fun _ => good_rawWrite h) (fun _ => h))

theorem good_evictHome {s : State} (h : Good o p s) {la : Nat} : Good o p (s.evictHome la) :=
  good_ite (fun _ => good_setLine (good_recall h)) (fun _ => good_dropLine (good_recall h))

theorem good_roomFor {n : Nat} {c : CellId} {n1 : Nat} {l : List Nat} {a : Option (Nat × Nat × Nat)} {n2 : Nat}
    {s : State} (h : Good o p s) : Good o p (State.roomFor n c n1 l a n2 s).1 := by
  induction n generalizing c n1 l a n2 s with
  | zero =>
    unfold State.roomFor
    exact h
  | succ n ih =>
    unfold State.roomFor
    dsimp only
    split
    · exact h
    · split
      · exact h
      · exact good_ite_fst (fun _ => good_ite_fst (fun _ => ih (good_setLine (ih h))) (fun _ => ih (good_setLine
          h))) (fun _ => ih (good_evictHome h))

theorem good_place {s : State} (h : Good o p s) {la : Nat} {l : Line} : Good o p (s.place la l) :=
  good_used (good_roomFor h)

theorem good_viaPath {s : State} (h : Good o p s) {n : CellId} {w : Nat} : Good o p (s.viaPath n w) :=
  good_ite (fun _ => h) (fun _ => good_countBypass h)

theorem good_homePath {s : State} (h : Good o p s) {la : Nat} : Good o p (s.homePath la) :=
  good_viaPath h

theorem good_placeNear {s : State} (h : Good o p s) {c : CellId} {la : Nat} : Good o p (s.placeNear c la) :=
  good_viaPath (good_modLine (good_of_core (good_roomFor h)))

theorem good_usedNear {s : State} (h : Good o p s) {c : CellId} {la : Nat} : Good o p (s.usedNear c la) := by
  unfold State.usedNear
  exact good_modLine (good_of_core h)

theorem good_bringHome {s : State} (h : Good o p s) {la : Nat} : Good o p (s.bringHome la) :=
  good_ite (fun _ => good_place h) (fun _ => h)

theorem good_applyContrib {s : State} (h : Good o p s) {la : Nat} {k : Contrib} : Good o p (s.applyContrib la k)
    :=
  good_ite (fun _ => (good_count (good_count (good_count (good_count (good_place h)))))) (fun _ => good_orFreg
    (good_count (good_count (good_count (good_count (good_place h))))))

theorem good_applyHeld {n n1 : Nat} {s : State} (h : Good o p s) : Good o p (State.applyHeld n n1 s) := by
  induction n generalizing n1 s with
  | zero =>
    unfold State.applyHeld
    exact h
  | succ n ih =>
    unfold State.applyHeld
    split
    · exact h
    · exact ih (good_applyContrib (good_modLine h))

theorem good_drain {s : State} (h : Good o p s) {la : Nat} : Good o p (s.drain la) :=
  good_ite (fun _ => good_modLine (good_applyHeld h)) (fun _ => (good_applyHeld h))

theorem good_fillOne {s : State} (h : Good o p s) {la : Nat} {cls : Fin 8} {bad : Bool} : Good o p (s.fillOne la
    cls bad) :=
  good_ite (fun _ => h) (fun _ => good_place h)

theorem good_fill {s : State} (h : Good o p s) {la : Nat} {cls : Fin 8} {tck : Bool} : Good o p (s.fill la cls
    tck) := by
  unfold State.fill
  refine good_ite (fun _ => good_foldl _ (good_checkTile h) (fun _ _ h2 => good_ite (fun _ => good_fillOne h2) (fun
    _ => h2))) (fun _ => ?_)
  split
  · exact good_draw (good_fillOne h)
  · exact good_fillOne h

theorem good_putNow {s : State} (h : Good o p s) {pa : Nat} {bs : List PByte} : Good o p (s.putNow pa bs) :=
  good_foldl_fst _ h (fun _ _ _ h1 => good_ite (fun _ => good_rawWrite h1) (fun _ => good_ite (fun _ => good_modLine
    h1) (fun _ => good_homePath (good_place (good_drain h1)))))

theorem good_wakeFor {s : State} (h : Good o p s) {la : Nat} : Good o p (s.wakeFor la) := by
  unfold State.wakeFor
  split
  · exact good_requestExit h
  · exact h

theorem good_putLatest {s : State} (h : Good o p s) {pa : Nat} {bs : List PByte} : Good o p (s.putLatest pa bs)
    :=
  good_ite (fun _ => good_of_core (good_foldl _ (good_recallAll h) (fun _ _ h2 => good_ite (fun _ => good_wakeFor
    h2) (fun _ => h2)))) (fun _ => good_putNow h)

theorem good_payMsi {s : State} (h : Good o p s) {pa : Nat} : Good o p (s.payMsi pa) := by
  unfold State.payMsi
  split
  · exact h
  · split
    · exact good_sendMsi (good_of_core h)
    · exact (good_of_core h)

theorem good_flushPosted {s : State} (h : Good o p s) : Good o p s.flushPosted :=
  good_foldl _ (good_of_core h) (fun _ _ h1 => good_ite (fun _ => good_putLatest h1) (fun _ => good_payMsi
    (good_putNow h1)))

theorem good_countHit {s : State} (h : Good o p s) {n : CellId} {cls : Fin 8} {hit : Bool} : Good o p
    (s.countHit n cls hit) :=
  good_count h

theorem good_homeArrive {s : State} (h : Good o p s) {la : Nat} {cls : Fin 8} {tck whole : Bool} : Good o p
    (s.homeArrive la cls tck whole) :=
  good_homePath (good_ite (fun _ => good_ite (fun _ => good_place (good_countHit h)) (fun _ => good_fill
    (good_countHit h))) (fun _ => good_bringHome (good_drain (good_countHit h))))

theorem good_cohRead {s : State} (h : Good o p s) {c : CellId} {la off n : Nat} {tck : Bool} : Good o p
    (s.cohRead c la off n tck).1 := by
  unfold State.cohRead
  refine good_ite_fst (fun _ => good_used (good_homeArrive h)) (fun _ => ?_)
  split
  · exact good_usedNear (good_viaPath (good_countHit h))
  · exact good_placeNear (good_used (good_homeArrive h))

theorem good_cohWrite {s : State} (h : Good o p s) {c : CellId} {la off : Nat} {bs : List PByte} {tck : Bool} :
    Good o p (s.cohWrite c la off bs tck) := by
  unfold State.cohWrite
  refine good_ite (fun _ => good_place (good_homeArrive h)) (fun _ => ?_)
  dsimp only
  refine good_placeNear ?_
  refine good_setLine ?_
  split
  · exact good_viaPath (good_countHit h)
  · exact good_used (good_homeArrive h)

theorem good_homeRead {s : State} (h : Good o p s) {la : Nat} {off n : Nat} {cls : Fin 8} {tck : Bool} : Good o
    p (s.homeRead la off n cls tck).1 :=
  good_used (good_homeArrive h)

theorem good_homeWrite {s : State} (h : Good o p s) {a : Agent} {la off : Nat} {bs : List PByte} {cls : Fin 8}
    {tck : Bool} : Good o p (s.homeWrite a la off bs cls tck) :=
  good_place (good_homeArrive h)

theorem redgood_rejectRed {s : State} (h : Good o p s) {la : Nat} {reason : Nat} : RedGood o p (s.rejectRed la
    reason) :=
  redgood_refused (good_count h)

theorem good_runEpoch {fuel la : Nat} {s : State} (h : Good o p s) : Good o p (State.runEpoch fuel la s) := by
  induction fuel generalizing s with
  | zero => exact h
  | succ fuel ih =>
    unfold State.runEpoch
    split
    · exact h
    · extract_lets due back mem out
      have hout : ∀ r, out = some r → Good o p r.2 := by
        unfold out
        intro r hr
        split at hr <;> cases hr
        · exact h
        · exact good_of_core h
      clear_value out
      split
      · exact h
      · next k t => exact ih (good_applyContrib (good_modLine (hout (k, t) rfl)))

theorem opgood_redWait {s : State} (h : Good o p s) {la : Nat} : OPGood o p (s.redWait la) :=
  opgood_ite (fun _ => opgood_some (good_recall h)) (fun _ => opgood_ite (fun _ => opgood_map (fun _ =>
    good_requestExit h)) (fun _ => opgood_none))

theorem good_redArrive {s : State} (h : Good o p s) {la : Nat} {cls : Fin 8} {tck : Bool} : Good o p
    (s.redArrive la cls tck) :=
  good_homePath (good_ite (fun _ => (good_ite (fun _ => good_bringHome (good_countHit h)) (fun _ => good_fill
    (good_countHit h)))) (fun _ => good_place (good_ite (fun _ => good_bringHome (good_countHit h)) (fun _ =>
    good_fill (good_countHit h)))))

theorem redgood_contribEpoch {s : State} (h : Good o p s) {la : Nat} {k : Contrib} {e : Epoch} {tck : Bool} :
    RedGood o p (s.contribEpoch la k e tck) := by
  unfold State.contribEpoch
  extract_lets +onlyGivenNames _
  refine redgood_ite (fun _ => redgood_rejectRed h) (fun _ => ?_)
  refine redgood_ite (fun _ => redgood_rejectRed h) (fun _ => ?_)
  refine redgood_ite (fun _ => redgood_rejectRed h) (fun _ => ?_)
  refine redgood_ite (fun _ => redgood_wait (good_stallF h) _) (fun _ => ?_)
  refine redgood_ite (fun _ => redgood_wait h _) (fun _ => ?_)
  extract_lets +onlyGivenNames s1 s2
  have hs1 : Good o p s1 := good_redArrive h
  have hs2 : Good o p s2 := good_modLine hs1
  exact redgood_accepted (good_runEpoch hs2)

theorem redgood_contribNow {s : State} (h : Good o p s) {la : Nat} {k : Contrib} {tck : Bool} : RedGood o p
    (s.contribNow la k tck) := by
  unfold State.contribNow
  extract_lets +onlyGivenNames _
  split
  · next q => exact redgood_wait (good_of_psome q (opgood_redWait h)) _
  · extract_lets +onlyGivenNames _
    split
    · exact redgood_contribEpoch h
    · extract_lets +onlyGivenNames _
      refine redgood_ite (fun _ => redgood_ite (fun _ => redgood_rejectRed h) (fun _ => redgood_ite (fun _ =>
        redgood_wait (good_stallF h) _) (fun _ => redgood_contribEpoch (good_drain h)))) (fun _ => ?_)
      extract_lets +onlyGivenNames s1
      have hs1 : Good o p s1 := good_redArrive h
      exact redgood_accepted (good_modLine hs1)

theorem redgood_contribute {s : State} (h : Good o p s) {la : Nat} {k : Contrib} {tck : Bool} : RedGood o p
    (s.contribute la k tck) :=
  redgood_ite (fun _ => redgood_wait h _) (fun _ => redgood_contribNow h)

theorem good_pinLine {s : State} (h : Good o p s) {la : Nat} {c : Fin 8} {tck : Bool} : Good o p (s.pinLine la c
    tck).1 :=
  good_ite_fst (fun _ => (good_ite (fun _ => good_fill h) (fun _ => h))) (fun _ => good_ite_fst (fun _ =>
    (good_place (good_ite (fun _ => good_fill h) (fun _ => h)))) (fun _ => good_count (good_ite (fun _ => good_fill
    h) (fun _ => h))))

theorem good_clearSlots {s : State} (h : Good o p s) {n : CellId} {σ w i : Nat} : Good o p (s.clearSlots n σ w
    i) :=
  good_foldl _ h (fun _ _ h1 => good_ite (fun _ => good_modLine (good_bringHome h1)) (fun _ => good_evictHome
    (good_applyHeld h1)))

theorem good_movePin {s : State} (h : Good o p s) {n : CellId} {σ : Nat} {r : Resident} : Good o p (s.movePin n
    σ r) := by
  unfold State.movePin
  extract_lets +onlyGivenNames _ _ _
  split
  · exact good_modLine (good_clearSlots h)
  · exact h

theorem good_unpinLine {s : State} (h : Good o p s) {la : Nat} : Good o p (s.unpinLine la) :=
  good_ite (fun _ => good_setLine h) (fun _ => h)

/-! ### Machine/Translate.lean -/

theorem good_xlatFault {s : State} (h : Good o p s) {a : Access} {reason level : Nat} : Good o p (s.xlatFault a
    reason level) :=
  good_ite (fun _ => (good_ite (fun _ => good_orFreg (good_count h)) (fun _ => (good_count h)))) (fun _ =>
    good_setFreg (good_setFreg (good_ite (fun _ => good_orFreg (good_count h)) (fun _ => (good_count h))) _ _) _ _)

theorem good_pageRequest {s : State} (h : Good o p s) {a : Access} {level : Nat} : Good o p (s.pageRequest a
    level).1 := by
  unfold State.pageRequest
  extract_lets +onlyGivenNames _
  split
  · exact h
  · refine good_ite_fst (fun _ => h) (fun _ => ?_)
    extract_lets +onlyGivenNames _ _ _ s1 _ _ s3 s4 s5
    have hs1 : Good o p s1 := good_putLatest h
    have hs3 : Good o p s3 := good_of_core hs1
    have hs4 : Good o p s4 := good_setFreg hs3 _ _
    have hs5 : Good o p s5 := good_hostEvent (good_count hs4)
    exact hs5

theorem good_atsCheck {s : State} (h : Good o p s) {a : Access} {p1 : Phys} {ha level : Nat} : Good o p
    (s.atsCheck a p1 ha level).1 := by
  unfold State.atsCheck
  extract_lets +onlyGivenNames _
  split
  · exact good_ite_fst (fun _ => h) (fun _ => good_ite_fst (fun _ => good_xlatFault (good_of_core h)) (fun _ =>
      good_of_core h))
  · exact good_ite_fst (fun _ => good_xlatFault (good_of_core h)) (fun _ => good_ite_fst (fun _ => h) (fun _ =>
      good_of_core h))

theorem good_leafAccess {s : State} (h : Good o p s) {a : Access} {pte size level : Nat} : Good o p
    (s.leafAccess a pte size level).1 := by
  unfold State.leafAccess
  refine good_ite_fst (fun _ => good_xlatFault h) (fun _ => ?_)
  extract_lets +onlyGivenNames _
  split
  · exact good_ite_fst (fun _ => good_atsCheck h) (fun _ => good_xlatFault h)
  · exact h

theorem good_translate {s : State} (h : Good o p s) {a : Access} : Good o p (s.translate a).1 := by
  unfold State.translate
  refine good_ite_fst (fun _ => good_xlatFault h) (fun _ => ?_)
  refine good_ite_fst (fun _ => ?_) (fun _ => ?_)
  · split
    · exact good_ite_fst (fun _ => h) (fun _ => good_xlatFault h)
    · exact good_xlatFault h
  · refine good_ite_fst (fun _ => good_xlatFault h) (fun _ => ?_)
    split
    · exact good_leafAccess h
    · extract_lets +onlyGivenNames s1
      have hs1 : Good o p s1 := good_count h
      split
      · exact good_leafAccess hs1
      · exact good_xlatFault hs1
      · exact good_requestExit hs1
      · exact good_recall hs1
      · refine good_ite_fst (fun _ => ?_) (fun _ => good_xlatFault hs1)
        extract_lets +onlyGivenNames r
        have hr : Good o p r.1 := good_pageRequest hs1
        exact hr

theorem good_warmLine {s : State} (h : Good o p s) {pa : Nat} {tck : Bool} : Good o p (s.warmLine pa tck) :=
  good_ite (fun _ => good_fill h) (fun _ => h)

theorem good_warm {s : State} (h : Good o p s) {va : Nat} : Good o p (s.warm va) := by
  unfold State.warm
  refine good_ite (fun _ => h) (fun _ => ?_)
  dsimp only
  split
  · split
    · exact h
    · split
      · exact good_count (good_of_core h)
      · exact good_count h
  · refine good_ite (fun _ => ?_) (fun _ => ?_)
    · split
      · exact h
      · split
        · exact good_count (good_of_core h)
        · exact good_count h
    · split
      · refine good_warmLine ?_
        split
        · exact h
        · split
          · exact good_count (good_of_core h)
          · exact good_count h
      · split
        · refine good_ite (fun _ => ?_) (fun _ => ?_)
          · refine good_warmLine ?_
            split
            · exact h
            · split
              · exact good_count (good_of_core h)
              · exact good_count h
          · split
            · exact h
            · split
              · exact good_count (good_of_core h)
              · exact good_count h
        · split
          · exact h
          · split
            · exact good_count (good_of_core h)
            · exact good_count h
      · split
        · exact h
        · split
          · exact good_count (good_of_core h)
          · exact good_count h

theorem opgood_linesWait {s : State} (h : Good o p s) {ps : List (Nat × Nat × Nat)} {write : Bool} {c : Option
    CellId} : OPGood o p (s.linesWait ps write c) := by
  unfold State.linesWait
  refine opgood_ite (fun _ => opgood_some (good_foldl _ (good_recallAll h) (fun _ _ h2 => good_ite (fun _ =>
    good_stallF h2) (fun _ => h2)))) (fun _ => ?_)
  split
  · exact opgood_some (good_stallF h)
  · exact opgood_ite (fun _ => opgood_some h) (fun _ => opgood_map (fun _ => good_requestExit h))

theorem opgood_rawWait {s : State} (h : Good o p s) {pa : Nat} {n : Nat} {write : Bool} : OPGood o p (s.rawWait
    pa n write) :=
  opgood_ite (fun _ => opgood_some (good_recallAll h)) (fun _ => opgood_map (fun _ => good_requestExit h))

theorem mgood_physRead {s : State} (h : Good o p s) {ag : Agent} {p1 : Phys} {n : Nat} {cls : Fin 8} : MRGood o
    p (fun q => Good o p q.1) (s.physRead ag p1 n cls) := by
  unfold State.physRead
  refine mgood_ite (fun _ => ?_) (fun _ => ?_)
  · extract_lets +onlyGivenNames _
    split
    · next q => exact mgood_wait (good_of_psome q (opgood_linesWait h)) _
    · refine mgood_ok ?_
      refine good_foldl_fst _ h (fun _ _ _ h2 => ?_)
      extract_lets +onlyGivenNames r'
      have hr' : Good o p r'.1 := by
        unfold r'
        dsimp -zeta only
        split
        · exact good_cohRead h2
        · exact good_homeRead h2
      exact hr'
  · split
    · split
      · exact mgood_ok (good_countBypass h)
      · next q1 => exact mgood_wait (good_of_mwait1 q1 (mgood_winCheck h)) _
      · exact mgood_range
    · split
      · next q1 => exact mgood_wait (good_of_psome q1 (opgood_rawWait h)) _
      · extract_lets +onlyGivenNames _
        refine mgood_ite (fun _ => ?_) (fun _ => mgood_ok h)
        extract_lets +onlyGivenNames _ _ _
        exact mgood_ok (good_foldl _ h (fun _ _ h3 => good_checkTile h3))
    · exact mgood_ok (good_draw h)
    · exact mgood_ok h

theorem mgood_physWrite {s : State} (h : Good o p s) {ag : Agent} {p1 : Phys} {bs : List PByte} {cls : Fin 8} :
    MRGood o p (Good o p) (s.physWrite ag p1 bs cls) := by
  unfold State.physWrite
  refine mgood_ite (fun _ => ?_) (fun _ => ?_)
  · extract_lets +onlyGivenNames _
    split
    · next q => exact mgood_wait (good_of_psome q (opgood_linesWait h)) _
    · refine mgood_ok ?_
      refine good_foldl_fst _ h (fun _ _ _ h2 => ?_)
      extract_lets +onlyGivenNames _ s'
      have hs' : Good o p s' := by
        unfold s'
        split
        · exact good_cohWrite h2
        · exact good_homeWrite h2
      exact hs'
  · split
    · split
      · exact mgood_ok (good_winWrite (good_countBypass h))
      · next q1 => exact mgood_wait (good_of_mwait1 q1 (mgood_winCheck h)) _
      · exact mgood_range
    · split
      · next q1 => exact mgood_wait (good_of_psome q1 (opgood_rawWait h)) _
      · exact mgood_ok (good_hbmWrite h)
    · exact mgood_ok (good_hostWrite h)
    · exact mgood_ok h

theorem agood_vread {s : State} (h : Good o p s) {a : Access} {n : Nat} {cls : optParam (Fin 8) 0} : AGood o p
    (s.vread a n cls) := by
  unfold State.vread
  extract_lets +onlyGivenNames t
  have ht : Good o p t.1 := good_translate h
  split
  · exact agood_fault ht _
  · exact agood_wait ht _
  · split
    · exact agood_ok (good_countBypass ht) _
    · next q1 => exact agood_wait (good_of_mwait1 q1 (mgood_winCheck ht)) _
    · exact agood_range ht
  · split
    · next q1 => exact agood_ok (good_of_mok4 q1 (mgood_physRead ht)) _
    · next q1 => exact agood_wait (good_of_mwait3 q1 (mgood_physRead ht)) _
    · exact agood_range ht

theorem agood_vwrite {s : State} (h : Good o p s) {a : Access} {bs : List PByte} {cls : optParam (Fin 8) 0} :
    AGood o p (s.vwrite a bs cls) := by
  unfold State.vwrite
  extract_lets +onlyGivenNames t
  have ht : Good o p t.1 := good_translate h
  split
  · exact agood_fault ht _
  · exact agood_wait ht _
  · split
    · exact agood_ok (good_winWrite (good_countBypass ht)) _
    · next q1 => exact agood_wait (good_of_mwait1 q1 (mgood_winCheck ht)) _
    · exact agood_range ht
  · split
    · next q1 => exact agood_ok (good_of_mok2 q1 (mgood_physWrite ht)) _
    · next q1 => exact agood_wait (good_of_mwait2 q1 (mgood_physWrite ht)) _
    · exact agood_range ht

theorem agood_spanReadAux {ag : Agent} {cls : Fin 8} {n n1 n2 : Nat} {l : List PByte} {s : State} (h : Good o p
    s) : AGood o p (State.spanReadAux ag cls n n1 n2 l s) := by
  induction n generalizing ag cls n1 n2 l s with
  | zero =>
    unfold State.spanReadAux
    exact agood_ok h _
  | succ n ih =>
    unfold State.spanReadAux
    dsimp only
    refine agood_ite (fun _ => agood_ok h _) (fun _ => ?_)
    split
    · next q => exact ih (good_of_aok q (agood_vread h))
    · next q1 => exact agood_wait (good_of_await q1 (agood_vread h)) _
    · next q => exact agood_fault (good_of_afault q (agood_vread h)) _
    · next q => exact agood_range (good_of_arange q (agood_vread h))

theorem agood_spanRead {s : State} (h : Good o p s) {ag : Agent} {va n : Nat} {cls : optParam (Fin 8) 0} : AGood
    o p (s.spanRead ag va n cls) :=
  agood_spanReadAux h

theorem agood_spanWriteAux {ag : Agent} {cls : Fin 8} {n n1 : Nat} {l : List PByte} {s : State} (h : Good o p s)
    : AGood o p (State.spanWriteAux ag cls n n1 l s) := by
  induction n generalizing ag cls n1 l s with
  | zero =>
    unfold State.spanWriteAux
    exact agood_ok h _
  | succ n ih =>
    unfold State.spanWriteAux
    dsimp only
    refine agood_ite (fun _ => agood_ok h _) (fun _ => ?_)
    split
    · next q => exact ih (good_of_aok q (agood_vwrite h))
    · next q1 => exact agood_wait (good_of_await q1 (agood_vwrite h)) _
    · next q => exact agood_fault (good_of_afault q (agood_vwrite h)) _
    · next q => exact agood_range (good_of_arange q (agood_vwrite h))

theorem agood_spanWrite {s : State} (h : Good o p s) {ag : Agent} {va : Nat} {bs : List PByte} {cls : optParam
    (Fin 8) 0} : AGood o p (s.spanWrite ag va bs cls) :=
  agood_spanWriteAux h

theorem agood_bind {α β : Type} {r : AccRes α} (hr : AGood o p r) {k : State → α → AccRes β} (hk : ∀ (a :
    State), Good o p a → ∀ (a_1 : α), AGood o p (k a a_1)) : AGood o p (r.bind k) := by
  unfold AccRes.bind
  split
  · exact hk _ hr _
  · exact agood_wait hr _
  · exact agood_fault hr _
  · exact agood_range hr

theorem good_frameEccAt {s : State} (h : Good o p s) {n : CellId} {la : Nat} {e : FrameEcc} : Good o p
    (s.frameEccAt n la e) :=
  good_ite (fun _ => (good_count h)) (fun _ => good_logEvent (good_count (good_modLine (good_count h))))

theorem good_frameEcc {s : State} (h : Good o p s) {la : Nat} {e : FrameEcc} : Good o p (s.frameEcc la e) :=
  good_frameEccAt h

theorem good_memUpset {s : State} (h : Good o p s) {e : MemUpset} : Good o p (s.memUpset e) :=
  good_ite (fun _ => h) (fun _ => good_foldl _ (good_foldl _ (good_hbmEcc h) (fun _ _ h2 => good_frameEcc h2)) (fun
    _ _ h2 => good_winEcc h2))

/-! ### Machine/SeqCore.lean -/

theorem egood_illegal {s : State} (h : Good o p s) : EGood o p (Eval.illegal s) :=
  egood_fault h _

theorem cgood_discardAfterHead {x : Cell} (hx : CGood x) {pc : Word} : CGood (x.discardAfterHead pc) := by
  unfold Cell.discardAfterHead
  split <;> exact cgood_with hx

theorem cgood_countDiscard {x : Cell} (hx : CGood x) {w : List InFlight} : CGood (x.countDiscard w) :=
  cgood_ite (fun _ => hx) (fun _ => cgood_count (cgood_count hx))

theorem good_countCommit {s : State} (h : Good o p s) {c : CellId} {e : InFlight} : Good o p (s.countCommit c e)
    := by
  unfold State.countCommit
  split
  · exact good_stall (good_ite (fun _ => (good_draw (good_countC (good_countC h)))) (fun _ => good_draw (good_countC
      (good_draw (good_countC (good_countC h))))))
  · exact (good_ite (fun _ => (good_draw (good_countC (good_countC h)))) (fun _ => good_draw (good_countC (good_draw
      (good_countC (good_countC h))))))

theorem good_commitHead {s : State} (h : Good o p s) {c : CellId} {e : InFlight} {jump : Option Word} {post :
    Bool} : Good o p (s.commitHead c e jump post) := by
  unfold State.commitHead
  extract_lets +onlyGivenNames _ s1 s2
  have hs1 : Good o p s1 := good_countCommit h
  have hs2 : Good o p s2 := by
    unfold s2
    refine good_modCell hs1 _ (fun _ h1 => ?_)
    extract_lets +onlyGivenNames _ y
    have hy : CGood y := cgood_with h1
    split
    · exact cgood_with hy
    · refine cgood_ite (fun _ => ?_) (fun _ => ?_)
      · extract_lets +onlyGivenNames x2
        have hx2 : CGood x2 := cgood_ite (fun _ => hy) (fun _ => h1)
        exact cgood_with hx2
      · extract_lets +onlyGivenNames y1
        have hy1 : CGood y1 := cgood_countDiscard (cgood_count hy)
        exact cgood_with hy1
  exact good_ite (fun _ => good_completionPost hs2) (fun _ => hs2)

theorem cgood_modHead {x : Cell} (hx : CGood x) {f : InFlight → InFlight} : CGood (x.modHead f) := by
  unfold Cell.modHead
  split
  · exact hx
  · exact cgood_with hx

theorem good_setBarrier {s : State} (h : Good o p s) {k : Scope} {b : Barrier} : Good o p (s.setBarrier k b) := by
  unfold State.setBarrier
  split <;> exact good_of_core h

theorem good_withdrawHead {s : State} (h : Good o p s) {c : CellId} : Good o p (s.withdrawHead c) := by
  unfold State.withdrawHead
  split
  · exact h
  · split
    · exact good_setBarrier h
    · exact h

theorem cgood_leaveLine {x : Cell} (hx : CGood x) : CGood x.leaveLine := by
  unfold Cell.leaveLine
  split
  · exact hx
  · exact cgood_ite (fun _ => cgood_setSem hx) (fun _ => hx)

theorem good_finishGranted {s : State} (h : Good o p s) {c : CellId} : Good o p (s.finishGranted c) := by
  unfold State.finishGranted
  split
  · exact h
  · split
    · exact good_commitHead (good_ite (fun _ => good_modCell h _ (fun _ h2 => cgood_wrS h2)) (fun _ => h))
    · exact h

theorem good_haltNow {s : State} (h : Good o p s) {c : CellId} : Good o p (s.haltNow c) := by
  unfold State.haltNow
  exact good_modCell (good_withdrawHead (good_finishGranted h)) _ (fun _ h1 => cgood_with (cgood_clrReg
    (cgood_countDiscard (cgood_leaveLine h1))))

theorem good_haltCell {s : State} (h : Good o p s) {c : CellId} : Good o p (s.haltCell c) := by
  unfold State.haltCell
  split
  · exact good_haltNow (good_endDoze h)
  · exact h

theorem good_startCell {s : State} (h : Good o p s) {c : CellId} : Good o p (s.startCell c) := by
  unfold State.startCell
  refine good_ite (fun _ => (good_endDoze h)) (fun _ => ?_)
  split
  · exact (good_endDoze h)
  · split
    · exact good_requestWake (good_setCell (good_endDoze h) _ (cgood_with (cgood_orReg (cgood_cell (good_endDoze h)
        _))))
    · exact good_requestWake (good_setCell (good_endDoze h) _ (cgood_with (cgood_orReg (cgood_cell (good_endDoze h)
        _))))
    · exact good_setCell (good_endDoze h) _ (cgood_with (cgood_clrReg (cgood_clrReg (cgood_cell (good_endDoze h)
        _))))

theorem good_notifyHalt {s : State} (h : Good o p s) {c : CellId} : Good o p (s.notifyHalt c) :=
  good_hostEvent (good_orFreg h)

theorem good_takeFault {s : State} (h : Good o p s) {c : CellId} {pc : Word} {f : FaultInfo} : Good o p
    (s.takeFault c pc f) := by
  unfold State.takeFault
  extract_lets +onlyGivenNames s1 x x1 x2 x3 _ x4 x5
  have hs1 : Good o p s1 := good_noteNum h
  have hx : CGood x := cgood_cell hs1 _
  have hx1 : CGood x1 := cgood_count hx
  have hx2 : CGood x2 := cgood_leaveLine hx1
  have hx3 : CGood x3 := cgood_with hx2
  have hx4 : CGood x4 := cgood_setReg hx3
  have hx5 : CGood x5 := cgood_count (cgood_setReg hx4)
  refine good_ite (fun _ => ?_) (fun _ => ?_)
  · extract_lets +onlyGivenNames s2 s3
    have hs2 : Good o p s2 := good_setCell hs1 _ (cgood_with hx5)
    have hs3 : Good o p s3 := good_logEvent hs2
    exact good_notifyHalt hs3
  · extract_lets +onlyGivenNames x6 _ _ x7 s2
    have hx6 : CGood x6 := cgood_setReg hx5
    have hx7 : CGood x7 := cgood_ite (fun _ => cgood_with hx6) (fun _ => cgood_with hx6)
    have hs2 : Good o p s2 := good_logEvent (good_setCell hs1 _ hx7)
    exact good_ite (fun _ => hs2) (fun _ => good_notifyHalt hs2)

theorem egood_numeric {s : State} (h : Good o p s) {c : CellId} {e : InFlight} {u : FaultUnit} {ev : NumEvent}
    {k : State → Eval} (hk : ∀ (a : State), Good o p a → EGood o p (k a)) : EGood o p (numeric s c e u ev k) :=
  egood_ite (fun _ => egood_fault h _) (fun _ => hk _ (good_noteNum h))

theorem good_readUpset {s : State} (h : Good o p s) {c : CellId} {u : Upset} : Good o p (s.readUpset c u) :=
  good_ite (fun _ => h) (fun _ => good_modCell (good_memUpset h) _ (fun _ h2 => cgood_modHead h2))

theorem cgood_ocErrors {x : Cell} (hx : CGood x) {u : Upset} : CGood (x.ocErrors u) :=
  cgood_with (cgood_count (cgood_count hx))

theorem good_ocUpset {s : State} (h : Good o p s) {c : CellId} {u : Upset} : Good o p (s.ocUpset c u) :=
  good_modCell h _ (fun _ h1 => cgood_modHead (cgood_ocErrors h1))

theorem good_operandUpset {s : State} (h : Good o p s) {c : CellId} {u : Upset} : Good o p (s.operandUpset c u)
    :=
  good_ocUpset (good_readUpset h)

theorem good_engineUpset {s : State} (h : Good o p s) {c : CellId} {u : Upset} : Good o p (s.engineUpset c u) :=
  good_ite (fun _ => h) (fun _ => good_modCell (good_memUpset h) _ (fun _ h2 => cgood_ocErrors h2))

/-! ### Machine/CellRegs.lean -/

theorem cgood_requestTest {x : Cell} (hx : CGood x) : CGood x.requestTest :=
  cgood_ite (fun _ => hx) (fun _ => cgood_with hx)

theorem cgood_fallAsleep {x : Cell} (hx : CGood x) {draw : Nat} : CGood (x.fallAsleep draw) :=
  cgood_ite (fun _ => (cgood_with (cgood_with hx))) (fun _ => cgood_with (cgood_with (cgood_with hx)))

theorem good_sleepCell {s : State} (h : Good o p s) {c : CellId} : Good o p (s.sleepCell c) :=
  good_ite (fun _ => good_stopPll (good_draw (good_setCell (good_endDoze h) _ (cgood_fallAsleep (cgood_cell
    (good_endDoze h) _))))) (fun _ => h)

theorem good_orphan {s : State} (h : Good o p s) {c : CellId} {n : Fin 6} {t : Transfer} : Good o p (s.orphan c
    n t) :=
  good_ite (fun _ => good_modCell h _ (fun _ h2 => cgood_ite (fun _ => cgood_setConv h2) (fun _ => h2))) (fun _ =>
    h)

theorem good_slotCtrl {s : State} (h : Good o p s) {c : CellId} {n : Fin 6} {v : Nat} : Good o p (s.slotCtrl c n
    v) := by
  unfold State.slotCtrl
  extract_lets +onlyGivenNames x
  have hx : CGood x := cgood_cell h _
  split
  · exact h
  · exact good_ite (fun _ => h) (fun _ => good_ite (fun _ => good_setCell h _ (cgood_setSlot hx)) (fun _ => good_ite
      (fun _ => good_orphan (good_setCell h _ (cgood_setSlot hx))) (fun _ => h)))

theorem good_writeCell {s : State} (h : Good o p s) {o1 : Origin} {c : CellId} {off v em : Nat} : Good o p
    (s.writeCell o1 c off v em) := by
  unfold State.writeCell
  extract_lets +onlyGivenNames x
  have hx : CGood x := cgood_cell h _
  split
  · exact h
  · extract_lets +onlyGivenNames new set
    have hset : ∀ (new : Nat), Good o p (set new) := fun _ => good_setCell h _ (cgood_setReg hx)
    refine good_ite (fun _ => ?_) (fun _ => ?_)
    · extract_lets +onlyGivenNames _ _ s1 s2
      have hs1 : Good o p s1 := good_setCell h _ (cgood_setReg hx)
      have hs2 : Good o p s2 := by
        unfold s2
        refine good_ite (fun _ => ?_) (fun _ => hs1)
        split
        · exact good_modCell hs1 _ (fun _ h3 => cgood_orReg h3)
        · exact good_haltCell hs1
      exact good_ite (fun _ => good_startCell hs2) (fun _ => hs2)
    · refine good_ite (fun _ => good_ite (fun _ => h) (fun _ => good_setCell h _ (cgood_with hx))) (fun _ => ?_)
      refine good_ite (fun _ => good_ite (fun _ => hset _) (fun _ => h)) (fun _ => ?_)
      refine good_ite (fun _ => good_ite (fun _ => hset _) (fun _ => h)) (fun _ => ?_)
      refine good_ite (fun _ => good_ite (fun _ => good_setCell h _ (cgood_requestTest hx)) (fun _ => h)) (fun _ =>
        ?_)
      refine good_ite (fun _ => good_ite (fun _ => hset _) (fun _ => good_setCell h _ (cgood_orReg hx))) (fun _ =>
        ?_)
      refine good_ite (fun _ => good_ite (fun _ => good_slotCtrl h) (fun _ => h)) (fun _ => ?_)
      refine good_ite (fun _ => ?_) (fun _ => ?_)
      · extract_lets +onlyGivenNames _
        exact good_ite (fun _ => good_setCell h _ (cgood_setConv hx)) (fun _ => h)
      · refine good_ite (fun _ => good_setCell h _ (cgood_writeSem hx)) (fun _ => ?_)
        refine good_ite (fun _ => ?_) (fun _ => ?_)
        · split
          · exact h
          · refine good_ite (fun _ => ?_) (fun _ => hset _)
            extract_lets +onlyGivenNames s1
            have hs1 : Good o p s1 := good_setCell h _ (cgood_setReg hx)
            exact good_ite (fun _ => good_sleepCell hs1) (fun _ => hs1)
        · split
          · exact good_setCell h _ (cgood_setReg hx)
          · exact h
          · exact h

theorem good_writeUnit {s : State} (h : Good o p s) {o1 : Origin} {c : CellId} {off v : Nat} {lo hi : Bool} :
    Good o p (s.writeUnit o1 c off v lo hi) :=
  good_ite (fun _ => good_writeCell h) (fun _ => good_ite (fun _ => good_writeCell (good_ite (fun _ =>
    good_writeCell h) (fun _ => h))) (fun _ => (good_ite (fun _ => good_writeCell h) (fun _ => h))))

/-! ### Machine/Operands.lean -/

theorem good_waitOn {s : State} (h : Good o p s) {c : CellId} {why : Wait} {write : Bool} : Good o p (s.waitOn c
    why write) := by
  unfold State.waitOn
  dsimp only
  refine good_modCell ?_ _ (fun _ h1 => cgood_modHead h1)
  split
  · exact good_ite (fun _ => good_stall h) (fun _ => h)
  · exact h

theorem egood_scalarRead {s : State} (h : Good o p s) {c : CellId} {va n : Nat} {k : State → List Byte → Eval}
    (hk : ∀ (a : State), Good o p a → ∀ (a_1 : List Byte), EGood o p (k a a_1)) : EGood o p (scalarRead s c va n
    k) := by
  unfold scalarRead
  refine egood_ite (fun _ => egood_fault h _) (fun _ => ?_)
  split
  · next q =>
      exact egood_ite (fun _ => egood_fault (good_of_aok q (agood_vread h)) _) (fun _ => hk _ (good_of_aok q
        (agood_vread h)) _)
  · next q1 => exact egood_wait (good_waitOn (good_of_await q1 (agood_vread h))) _
  · next q => exact egood_fault (good_of_afault q (agood_vread h)) _
  · next q => exact egood_fault (good_of_arange q (agood_vread h)) _

theorem egood_scalarWrite {s : State} (h : Good o p s) {c : CellId} {va : Nat} {bs : List Byte} : EGood o p
    (scalarWrite s c va bs) := by
  unfold scalarWrite
  refine egood_ite (fun _ => egood_fault h _) (fun _ => ?_)
  split
  · next q => exact egood_done (good_of_aok q (agood_vwrite h)) _ _
  · next q => exact egood_wait (good_waitOn (good_of_await q (agood_vwrite h))) _
  · next q => exact egood_fault (good_of_afault q (agood_vwrite h)) _
  · next q => exact egood_fault (good_of_arange q (agood_vwrite h)) _

theorem good_loadStall {s : State} (h : Good o p s) {c : CellId} : Good o p (s.loadStall c) :=
  good_stall h

/-! ### Machine/Matrix.lean -/

theorem good_countRows {s : State} (h : Good o p s) {c : CellId} {rs : List OpRange} : Good o p (s.countRows c
    rs) :=
  good_ite (fun _ => h) (fun _ => good_foldl _ h (fun _ _ h2 => good_ite (fun _ => h2) (fun _ => good_foldl _ h2
    (fun _ _ h4 => good_countBypass h4))))

theorem good_checkError {s : State} (h : Good o p s) {c : CellId} {mv : Bool} : Good o p (s.checkError c mv) := by
  unfold State.checkError
  refine good_modCell h _ (fun _ h1 => ?_)
  extract_lets +onlyGivenNames x1
  have hx1 : CGood x1 := cgood_count (cgood_orReg h1)
  clear_value x1
  refine cgood_ite (fun _ => cgood_with hx1) (fun _ => ?_)
  extract_lets +onlyGivenNames x2
  have hx2 : CGood x2 := cgood_setReg hx1
  clear_value x2
  exact cgood_with hx2

theorem cgood_recordMask {x : Cell} (hx : CGood x) {acc : Nat} {n : Nat} {m : Desc} : CGood (x.recordMask acc n
    m) :=
  cgood_with hx

theorem cgood_accScatter {x : Cell} (hx : CGood x) {acc : Nat} {vs : List (Nat × Nat)} : CGood (x.accScatter acc
    vs) :=
  cgood_with hx

theorem egood_runTile {s : State} (hs : Good o p s) {c : CellId} {e : InFlight} {h : Shape} {mask : Desc} {rows
    : Nat → List FV} {poisonA : List Nat → Option (Nat × Nat)} {w : Lines} {pre : State → State} (hpre : ∀ (a :
    State), Good o p a → Good o p (pre a)) : EGood o p (runTile s c e h mask rows poisonA w pre) := by
  unfold runTile
  refine egood_ite (fun _ => egood_fault (good_checkError hs) _) (fun _ => ?_)
  split
  · exact egood_fault hs _
  · exact egood_numeric hs (fun _ h2 => egood_done (good_modCell (hpre _ h2) _ (fun _ h3 => cgood_count (cgood_count
      (cgood_count (cgood_recordMask (cgood_accScatter h3)))))) _ _)

theorem egood_arrayTile {transposed : Bool} {c : CellId} {e : InFlight} {s : State} (h : Good o p s) : EGood o p
    (arrayTile transposed c e s) := by
  unfold arrayTile
  extract_lets +onlyGivenNames _ _ _
  refine egood_ite (fun _ => egood_illegal h) (fun _ => ?_)
  split
  · exact egood_illegal h
  · extract_lets +onlyGivenNames _
    refine egood_ite (fun _ => egood_wait h _) (fun _ => ?_)
    refine egood_ite (fun _ => egood_fault h _) (fun _ => ?_)
    extract_lets +onlyGivenNames s1 _ _ _ split
    have hs1 : Good o p s1 := good_operandUpset h
    split
    · extract_lets +onlyGivenNames _ _ _ _ _
      refine egood_ite (fun _ => egood_wait hs1 _) (fun _ => ?_)
      refine egood_ite (fun _ => egood_fault hs1 _) (fun _ => ?_)
      refine egood_ite (fun _ => egood_fault hs1 _) (fun _ => ?_)
      refine egood_ite (fun _ => egood_fault hs1 _) (fun _ => ?_)
      extract_lets +onlyGivenNames _ _ _
      exact egood_runTile hs1 (fun _ h9 => good_countRows h9)
    · exact egood_fault hs1 _
    · exact egood_fault hs1 _

theorem egood_evalMma {c : CellId} {e : InFlight} {s : State} (h : Good o p s) : EGood o p (evalMma c e s) :=
  egood_arrayTile h

theorem egood_evalMmat {c : CellId} {e : InFlight} {s : State} (h : Good o p s) : EGood o p (evalMmat c e s) :=
  egood_arrayTile h

theorem gathergood_gatherItems {n : Nat} {s : State} (h : Good o p s) {c : CellId} {a : BitVec 4} {n1 : Nat} {a1
    : Gather} : GatherGood o p (gatherItems n s c a n1 a1) := by
  induction n generalizing s c a n1 a1 with
  | zero =>
    unfold gatherItems
    exact gathergood_more h
  | succ n ih =>
    unfold gatherItems
    exact gathergood_ite (fun _ => gathergood_ready h) (fun _ => gathergood_ite (fun _ => gathergood_fault h) (fun _
      => gathergood_ite (fun _ => gathergood_more h) (fun _ => gathergood_ite (fun _ => gathergood_fault
      (good_countC (good_spoilItem h))) (fun _ => gathergood_ite (fun _ => gathergood_fault (good_setCell
      (good_spoilItem h) _ (cgood_count (cgood_setConv (cgood_cell (good_spoilItem h) _))))) (fun _ =>
      gathergood_ite (fun _ => ih (good_setCell (good_spoilItem h) _ (cgood_count (cgood_setConv (cgood_cell
      (good_spoilItem h) _))))) (fun _ => ih (good_setCell (good_spoilItem h) _ (cgood_count (cgood_setConv
      (cgood_cell (good_spoilItem h) _))))))))))

theorem good_storeRun {s : State} (h : Good o p s) {c : CellId} {space : Nat} {w : Nat × List Byte} : Good o p
    (s.storeRun c space w) :=
  good_ite (fun _ => good_modCell h _ (fun _ h2 => cgood_ocWrite h2)) (fun _ => good_winWrite h)

theorem good_storeRuns {s : State} (h : Good o p s) {c : CellId} {space : Nat} {ws : List (Nat × List Byte)} :
    Good o p (s.storeRuns c space ws) :=
  good_ite (fun _ => good_modCell (good_foldl _ h (fun _ _ h1 => good_storeRun h1)) _ (fun _ h2 => cgood_with h2))
    (fun _ => good_modSlice (good_foldl _ h (fun _ _ h1 => good_storeRun h1)))

theorem good_bankFault {s : State} (h : Good o p s) {c : CellId} {d : MDesc} {es kk : Nat} {g : Gather} : Good o
    p (s.bankFault c d es kk g) :=
  good_draw (good_storeRuns h)

theorem egood_gfillTile {s : State} (hs : Good o p s) {c : CellId} {e : InFlight} {h : Shape} {da dw : MDesc}
    {fa fw : Fmt} {g : Gather} : EGood o p (gfillTile s c e h da dw fa fw g) := by
  unfold gfillTile
  extract_lets +onlyGivenNames _ _ _ _ _ pre
  have hpre : ∀ (s : State), Good o p s → Good o p (pre s) := by
    unfold pre
    intro _ h1
    extract_lets +onlyGivenNames s2
    have hs2 : Good o p s2 := good_storeRuns (good_countRows h1)
    refine good_modCell hs2 _ (fun _ h2 => ?_)
    extract_lets +onlyGivenNames x1 x2
    have hx1 : CGood x1 := cgood_ocWrite h2
    have hx2 : CGood x2 := cgood_count (cgood_count hx1)
    exact cgood_ite (fun _ => cgood_count hx2) (fun _ => hx2)
  exact egood_runTile hs (fun _ h1 => hpre _ h1)

theorem egood_evalGfill {c : CellId} {e : InFlight} {s : State} (h : Good o p s) : EGood o p (evalGfill c e s)
    := by
  unfold evalGfill
  extract_lets +onlyGivenNames _ _
  refine egood_ite (fun _ => egood_illegal h) (fun _ => ?_)
  split
  · exact egood_illegal h
  · extract_lets +onlyGivenNames _
    refine egood_ite (fun _ => egood_wait h _) (fun _ => ?_)
    refine egood_ite (fun _ => egood_fault h _) (fun _ => ?_)
    extract_lets +onlyGivenNames s1 _ _ _
    have hs1 : Good o p s1 := good_operandUpset h
    split
    · refine egood_ite (fun _ => egood_wait hs1 _) (fun _ => ?_)
      refine egood_ite (fun _ => egood_fault hs1 _) (fun _ => ?_)
      refine egood_ite (fun _ => egood_fault hs1 _) (fun _ => ?_)
      refine egood_ite (fun _ => egood_fault hs1 _) (fun _ => ?_)
      extract_lets +onlyGivenNames _
      split
      · next q3 =>
          exact egood_ite (fun _ => egood_fault (good_bankFault (good_of_gfault q3 (gathergood_gatherItems hs1))) _)
            (fun _ => egood_fault (good_of_gfault q3 (gathergood_gatherItems hs1)) _)
      · next q3 => exact egood_gfillTile (good_of_gready q3 (gathergood_gatherItems hs1))
      · next q3 =>
          exact egood_ite (fun _ => egood_gfillTile (good_of_gmore q3 (gathergood_gatherItems hs1))) (fun _ =>
            egood_wait (good_modCell (good_of_gmore q3 (gathergood_gatherItems hs1)) _ (fun _ h10 => cgood_modHead
            h10)) _)
    · exact egood_fault hs1 _
    · exact egood_fault hs1 _

theorem egood_evalMmv {c : CellId} {e : InFlight} {s : State} (h : Good o p s) : EGood o p (evalMmv c e s) := by
  unfold evalMmv
  extract_lets +onlyGivenNames f x w
  clear_value f x w
  refine egood_ite (fun _ => egood_illegal h) (fun _ => ?_)
  extract_lets +onlyGivenNames n k zs y
  clear_value n k zs y
  refine egood_ite (fun _ => egood_wait h _) (fun _ => ?_)
  refine egood_ite (fun _ => egood_fault h _) (fun _ => ?_)
  extract_lets +onlyGivenNames s1 y1 dx dw ya
  have hs1 : Good o p s1 := good_operandUpset h
  clear_value s1 y1 dx dw ya
  split
  · refine egood_ite (fun _ => egood_fault hs1 _) (fun _ => ?_)
    refine egood_ite (fun _ => egood_wait hs1 _) (fun _ => ?_)
    refine egood_ite (fun _ => egood_fault hs1 _) (fun _ => ?_)
    refine egood_ite (fun _ => egood_fault hs1 _) (fun _ => ?_)
    refine egood_ite (fun _ => egood_fault hs1 _) (fun _ => ?_)
    refine egood_ite (fun _ => egood_fault (good_checkError hs1) _) (fun _ => ?_)
    extract_lets +onlyGivenNames lx lw px pw
    clear_value lx lw px pw
    split
    · extract_lets +onlyGivenNames xs r busy
      clear_value xs r busy
      exact egood_numeric hs1 (fun _ h10 => egood_done (good_stall (good_modCell (good_countRows h10) _ (fun _ h11
        => cgood_count (cgood_ocWrite h11)))) _ _)
    · exact egood_ite (fun _ => egood_fault hs1 _) (fun _ => egood_fault hs1 _)
    · exact egood_fault hs1 _
    · exact egood_fault hs1 _
  · exact egood_fault hs1 _
  · exact egood_fault hs1 _

theorem egood_evalMxld {c : CellId} {e : InFlight} {s : State} (h : Good o p s) : EGood o p (evalMxld c e s) := by
  unfold evalMxld
  extract_lets +onlyGivenNames _ _
  refine egood_ite (fun _ => egood_illegal h) (fun _ => ?_)
  split
  · exact egood_illegal h
  · extract_lets +onlyGivenNames _
    refine egood_ite (fun _ => egood_wait h _) (fun _ => ?_)
    extract_lets +onlyGivenNames s1 y1 _ _
    have hs1 : Good o p s1 := good_ocUpset h
    have hy1 : CGood y1 := cgood_cell hs1 _
    refine egood_ite (fun _ => egood_fault hs1 _) (fun _ => ?_)
    refine egood_ite (fun _ => egood_fault hs1 _) (fun _ => ?_)
    extract_lets +onlyGivenNames _ _
    exact egood_done (good_setCell hs1 _ (cgood_recordMask (cgood_accWrite hy1))) _ _

theorem egood_evalMxst {c : CellId} {e : InFlight} {s : State} (h : Good o p s) : EGood o p (evalMxst c e s) := by
  unfold evalMxst
  refine egood_ite (fun _ => egood_illegal h) (fun _ => ?_)
  split
  · exact egood_illegal h
  · refine egood_ite (fun _ => egood_wait h _) (fun _ => ?_)
    split
    · exact egood_fault h _
    · refine egood_ite (fun _ => egood_fault h _) (fun _ => ?_)
      refine egood_ite (fun _ => egood_wait h _) (fun _ => ?_)
      split
      · exact egood_fault h _
      · refine egood_ite (fun _ => ?_) (fun _ => egood_numeric h (fun _ h7 => egood_done (good_storeRuns
          (good_countRows h7)) _ _))
        split
        · exact egood_wait h _
        · exact egood_numeric h (fun _ h7 => egood_done (good_modCell h7 _ (fun _ h8 => cgood_setSlot h8)) _ _)

/-! ### Machine/Scalar.lean -/

theorem egood_doneRd {s : State} (h : Good o p s) {c : CellId} {rd : BitVec 5} {v : Word} : EGood o p (doneRd s
    c rd v) :=
  egood_done (good_modCell h _ (fun _ h1 => cgood_wrS h1)) _ _

theorem egood_evalAlu {c : CellId} {e : InFlight} {s : State} (h : Good o p s) : EGood o p (evalAlu c e s) := by
  unfold evalAlu
  refine egood_ite (fun _ => egood_illegal h) (fun _ => ?_)
  split
  · exact egood_doneRd h
  · exact egood_illegal h

theorem egood_evalAlui {c : CellId} {e : InFlight} {s : State} (h : Good o p s) : EGood o p (evalAlui c e s) := by
  unfold evalAlui
  refine egood_ite (fun _ => egood_illegal h) (fun _ => ?_)
  split
  · exact egood_doneRd h
  · exact egood_illegal h

theorem egood_evalMul {c : CellId} {e : InFlight} {s : State} (h : Good o p s) : EGood o p (evalMul c e s) := by
  unfold evalMul
  refine egood_ite (fun _ => egood_illegal h) (fun _ => ?_)
  split
  · exact egood_doneRd h
  · exact egood_doneRd h
  · exact egood_doneRd h
  · exact egood_illegal h

theorem egood_evalMovi {c : CellId} {e : InFlight} {s : State} (h : Good o p s) : EGood o p (evalMovi c e s) := by
  unfold evalMovi
  extract_lets +onlyGivenNames _
  split
  · exact egood_ite (fun _ => egood_illegal h) (fun _ => egood_doneRd h)
  · refine egood_ite (fun _ => egood_illegal h) (fun _ => ?_)
    extract_lets +onlyGivenNames _
    exact egood_doneRd h
  · exact egood_illegal h

theorem egood_evalLd {c : CellId} {e : InFlight} {s : State} (h : Good o p s) : EGood o p (evalLd c e s) :=
  egood_ite (fun _ => egood_illegal h) (fun _ => egood_scalarRead (good_readUpset h) (fun _ h2 _ => egood_doneRd
    (good_loadStall h2)))

theorem egood_evalSt {c : CellId} {e : InFlight} {s : State} (h : Good o p s) : EGood o p (evalSt c e s) :=
  egood_ite (fun _ => egood_illegal h) (fun _ => egood_scalarWrite (good_readUpset h))

theorem egood_evalLdo {c : CellId} {e : InFlight} {s : State} (h : Good o p s) : EGood o p (evalLdo c e s) :=
  egood_ite (fun _ => egood_illegal h) (fun _ => egood_ite (fun _ => egood_fault (good_ocUpset h) _) (fun _ =>
    egood_ite (fun _ => egood_fault (good_ocUpset h) _) (fun _ => egood_ite (fun _ => egood_fault (good_ocUpset h)
    _) (fun _ => egood_doneRd (good_ocUpset h)))))

theorem egood_evalSto {c : CellId} {e : InFlight} {s : State} (h : Good o p s) : EGood o p (evalSto c e s) :=
  egood_ite (fun _ => egood_illegal h) (fun _ => egood_ite (fun _ => egood_fault (good_ocUpset h) _) (fun _ =>
    egood_ite (fun _ => egood_fault (good_ocUpset h) _) (fun _ => egood_done (good_setCell (good_ocUpset h) _
    (cgood_ocWrite (cgood_cell (good_ocUpset h) _))) _ _)))

theorem egood_evalSpf {c : CellId} {e : InFlight} {s : State} (h : Good o p s) : EGood o p (evalSpf c e s) :=
  egood_ite (fun _ => egood_illegal h) (fun _ => egood_done (good_warm h) _ _)

theorem egood_evalDld {c : CellId} {e : InFlight} {s : State} (h : Good o p s) : EGood o p (evalDld c e s) :=
  egood_ite (fun _ => egood_illegal h) (fun _ => egood_ite (fun _ => egood_fault (good_ocUpset h) _) (fun _ =>
    egood_done (good_setCell (good_ocUpset h) _ (cgood_wrD (cgood_cell (good_ocUpset h) _))) _ _))

theorem egood_evalDldm {c : CellId} {e : InFlight} {s : State} (h : Good o p s) : EGood o p (evalDldm c e s) :=
  egood_ite (fun _ => egood_illegal h) (fun _ => egood_scalarRead (good_readUpset h) (fun _ h2 _ => egood_done
    (good_modCell (good_loadStall h2) _ (fun _ h3 => cgood_wrD h3)) _ _))

theorem egood_evalDsto {c : CellId} {e : InFlight} {s : State} (h : Good o p s) : EGood o p (evalDsto c e s) :=
  egood_ite (fun _ => egood_illegal h) (fun _ => egood_done (good_modCell h _ (fun _ h2 => cgood_ocWrite h2)) _ _)

theorem egood_evalDsetw {c : CellId} {e : InFlight} {s : State} (h : Good o p s) : EGood o p (evalDsetw c e s)
    :=
  egood_ite (fun _ => egood_illegal h) (fun _ => egood_done (good_modCell h _ (fun _ h2 => cgood_wrD h2)) _ _)

theorem egood_evalDgetw {c : CellId} {e : InFlight} {s : State} (h : Good o p s) : EGood o p (evalDgetw c e s)
    :=
  egood_ite (fun _ => egood_illegal h) (fun _ => egood_doneRd h)

theorem egood_evalBr {c : CellId} {e : InFlight} {s : State} (h : Good o p s) : EGood o p (evalBr c e s) := by
  unfold evalBr
  refine egood_ite (fun _ => egood_illegal h) (fun _ => ?_)
  refine egood_ite (fun _ => egood_illegal h) (fun _ => ?_)
  split
  · exact egood_illegal h
  · exact egood_done h _ _
  · exact egood_done h _ _

theorem egood_evalBloop {c : CellId} {e : InFlight} {s : State} (h : Good o p s) : EGood o p (evalBloop c e s)
    :=
  egood_ite (fun _ => egood_illegal h) (fun _ => egood_done (good_modCell h _ (fun _ h2 => cgood_wrS h2)) _ _)

theorem egood_evalJal {c : CellId} {e : InFlight} {s : State} (h : Good o p s) : EGood o p (evalJal c e s) :=
  egood_ite (fun _ => egood_illegal h) (fun _ => egood_done (good_modCell h _ (fun _ h2 => cgood_wrS h2)) _ _)

theorem egood_evalJalr {c : CellId} {e : InFlight} {s : State} (h : Good o p s) : EGood o p (evalJalr c e s) :=
  egood_ite (fun _ => egood_illegal h) (fun _ => egood_ite (fun _ => egood_fault h _) (fun _ => egood_done
    (good_modCell h _ (fun _ h3 => cgood_wrS h3)) _ _))

theorem egood_evalCsrr {c : CellId} {e : InFlight} {s : State} (h : Good o p s) : EGood o p (evalCsrr c e s) :=
  egood_ite (fun _ => egood_illegal h) (fun _ => egood_doneRd h)

theorem egood_evalCsrw {c : CellId} {e : InFlight} {s : State} (h : Good o p s) : EGood o p (evalCsrw c e s) :=
  egood_ite (fun _ => egood_illegal h) (fun _ => egood_done (good_writeUnit h) _ _)

theorem egood_evalNop {c : CellId} {e : InFlight} {s : State} (h : Good o p s) : EGood o p (evalNop c e s) :=
  egood_ite (fun _ => egood_illegal h) (fun _ => egood_done h _ _)

theorem egood_evalBrk {c : CellId} {e : InFlight} {s : State} (h : Good o p s) : EGood o p (evalBrk c e s) :=
  egood_ite (fun _ => egood_illegal h) (fun _ => egood_fault h _)

theorem egood_evalTret {c : CellId} {e : InFlight} {s : State} (h : Good o p s) : EGood o p (evalTret c e s) :=
  egood_ite (fun _ => egood_illegal h) (fun _ => egood_done (good_setCell h _ (cgood_with (cgood_cell h _))) _ _)

/-! ### Machine/Stream.lean -/

theorem egood_evalSxgo {c : CellId} {e : InFlight} {s : State} (h : Good o p s) : EGood o p (evalSxgo c e s) := by
  unfold evalSxgo
  refine egood_ite (fun _ => egood_illegal h) (fun _ => ?_)
  refine egood_ite (fun _ => egood_fault (good_ocUpset h) _) (fun _ => ?_)
  split
  · exact egood_wait (good_ocUpset h) _
  · exact egood_done (good_draw (good_setCell (good_ocUpset h) _ (cgood_setSlot (cgood_cell (good_ocUpset h) _)))) _
      _

theorem sgood_sx_accres {α : Type} {r : AccRes α} (hr : AGood o p r) {dst : Nat} {va : Nat} : SGood o p (r.sx
    dst va) := by
  unfold AccRes.sx
  split
  · exact sgood_ok hr _
  · exact sgood_sx hr
  · exact sgood_stop hr _ _ _
  · exact sgood_stop hr _ _ _
  · exact sgood_stop hr _ _ _

theorem sgood_bind {α β : Type} {r : SxRes α} (hr : SGood o p r) {k : State → α → SxRes β} (hk : ∀ (a : State),
    Good o p a → ∀ (a_1 : α), SGood o p (k a a_1)) : SGood o p (r.bind k) := by
  unfold SxRes.bind
  split
  · exact hk _ hr _
  · exact sgood_stop hr _ _ _
  · exact sgood_wait hr _
  · exact sgood_page hr _ _ _

theorem sgood_map {α β : Type} {r : SxRes α} (hr : SGood o p r) {f : α → β} : SGood o p (r.map f) :=
  sgood_bind hr (fun _ h _ => sgood_ok h _)

theorem good_spoilItems {s : State} (h : Good o p s) {c : CellId} {k : BitVec 4} {m : Nat} : Good o p
    (s.spoilItems c k m) :=
  good_foldl _ h (fun _ _ h1 => good_spoilItem h1)

theorem sgood_sxRead {s : State} (h : Good o p s) {c : CellId} {t : Transfer} {g : Granule} : SGood o p
    (s.sxRead c t g) := by
  unfold State.sxRead
  extract_lets +onlyGivenNames _
  split
  · exact sgood_ok h _
  · extract_lets +onlyGivenNames _
    refine sgood_ite (fun _ => sgood_stop h _ _ _) (fun _ => ?_)
    extract_lets +onlyGivenNames _
    split
    · exact sgood_ok (good_spoilItems h) _
    · exact sgood_wait h _
  · exact sgood_ok h _
  · exact sgood_sx_accres (agood_vread h)

theorem cgood_ocPut {x : Cell} (hx : CGood x) {a : Nat} {bs : List PByte} : CGood (x.ocPut a bs) := by
  unfold Cell.ocPut
  extract_lets +onlyGivenNames x1
  have hx1 : CGood x1 := cgood_ocWrite hx
  exact cgood_with hx1

theorem cgood_imPut {x : Cell} (hx : CGood x) {a : Nat} {bs : List PByte} : CGood (x.imPut a bs) := by
  unfold Cell.imPut
  extract_lets +onlyGivenNames x1
  have hx1 : CGood x1 := cgood_imWrite hx
  exact cgood_with hx1

theorem redgood_deliver {s : State} (h : Good o p s) {t : Transfer} {c : CellId} {n : Fin 6} {p1 : Phys} {q :
    Nat × Nat × Nat} {bs : List PByte} : RedGood o p (s.deliver t c n p1 q bs) :=
  redgood_ite (fun _ => redgood_contribute h) (fun _ => redgood_rejectRed h)

theorem sentgood_deliverLines {s0 : State} (hs0 : Good o p s0) {t : Transfer} {c : CellId} {n : Fin 6} {p1 :
    Phys} {l : List (Nat × Nat × Nat)} {l1 : List PByte} {a : Option Nat} {s : State} (h : Good o p s) : SentGood
    o p (s0.deliverLines t c n p1 l l1 a s) := by
  induction l generalizing s0 t c n p1 l1 a s with
  | nil =>
    unfold State.deliverLines
    exact sentgood_done h _
  | cons a l ih =>
    unfold State.deliverLines
    split
    · next q => exact ih hs0 (good_of_raccepted q (redgood_deliver h))
    · next q => exact ih hs0 (good_of_rrefused q (redgood_deliver h))
    · split
      · next q1 => exact sentgood_wait (good_of_rwait q1 (redgood_deliver hs0)) _
      · exact sentgood_wait hs0 _

theorem sentgood_deliverAll {s : State} (h : Good o p s) {t : Transfer} {c : CellId} {n : Fin 6} {p1 : Phys} {bs
    : List PByte} : SentGood o p (s.deliverAll t c n p1 bs) :=
  sentgood_deliverLines h h

theorem sgood_redTarget {s : State} (h : Good o p s) {c : CellId} {va : Nat} : SGood o p (s.redTarget c va) := by
  unfold State.redTarget
  extract_lets +onlyGivenNames r
  have hr : Good o p r.1 := good_translate h
  split
  · exact sgood_ok hr _
  · exact sgood_ok hr _
  · exact sgood_stop hr _ _ _
  · exact sgood_stop hr _ _ _
  · exact sgood_sx hr

theorem good_deliverBehind {c : CellId} {n : Fin 6} {stop n1 : Nat} {a : Transfer} {s : State} (h : Good o p s)
    {a1 : Nat × Nat} : Good o p (State.deliverBehind c n stop n1 a s a1).1 := by
  induction n1 generalizing c n stop a s a1 with
  | zero =>
    unfold State.deliverBehind
    exact h
  | succ n1 ih =>
    unfold State.deliverBehind
    dsimp only
    refine good_ite_fst (fun _ => h) (fun _ => ?_)
    split
    · refine good_ite_fst (fun _ => h) (fun _ => ?_)
      split
      · exact h
      · next q2 => exact ih (good_of_sent q2 (sentgood_deliverAll h))
    · exact h

theorem good_pushItems {c : CellId} {n : Fin 6} {tc : CellId} {k : BitVec 4} {last : Bool} {n1 : Nat} {s :
    State} (h : Good o p s) {a : Transfer} : Good o p (State.pushItems c n tc k last n1 s a).1 := by
  induction n1 generalizing c n tc k last s a with
  | zero =>
    unfold State.pushItems
    exact h
  | succ n1 ih =>
    unfold State.pushItems
    exact good_ite_fst (fun _ => h) (fun _ => ih (good_convPush h))

theorem sgood_sxWrite {s : State} (h : Good o p s) {c : CellId} {n : Fin 6} {t : Transfer} {g : Granule} {bs :
    List PByte} : SGood o p (s.sxWrite c n t g bs) := by
  unfold State.sxWrite
  split
  · exact sgood_ok (good_modCell h _ (fun _ h1 => cgood_ocPut h1)) _
  · exact sgood_ok (good_modCell h _ (fun _ h1 => cgood_imPut h1)) _
  · exact sgood_ok h _
  · refine sgood_ite (fun _ => sgood_map (sgood_sx_accres (agood_vwrite h))) (fun _ => ?_)
    refine sgood_bind (sgood_redTarget h) (fun _ h2 _ => ?_)
    split
    · next q3 => exact sgood_sx (good_of_unsent q3 (sentgood_deliverAll h2))
    · next q3 => exact sgood_ok (good_of_sent q3 (sentgood_deliverAll h2)) _
    · next q3 =>
        exact sgood_stop (good_modCell (good_deliverBehind (good_of_sent q3 (sentgood_deliverAll h2))) _ (fun _ h3
          => cgood_setSlot h3)) _ _ _

theorem good_pinOne {s : State} (h : Good o p s) {c : CellId} {t : Transfer} {la : Nat} {tck : Bool} : Good o p
    (s.pinOne c t la tck).1 :=
  good_ite_fst (fun _ => good_unpinLine h) (fun _ => good_ite_fst (fun _ => h) (fun _ => good_ite_fst (fun _ =>
    good_countC (good_pinLine h)) (fun _ => (good_pinLine h))))

theorem good_pinSide {s : State} (h : Good o p s) {c : CellId} {t : Transfer} {g : Granule} {dst : Bool} : Good
    o p (s.pinSide c t g dst).1 :=
  good_ite_fst (fun _ => h) (fun _ => good_foldl_fst _ h (fun _ _ _ h2 => good_pinOne h2))

theorem good_releaseItems {s : State} (h : Good o p s) {c : CellId} {t : Transfer} {g : Granule} : Good o p
    (s.releaseItems c t g) :=
  good_ite (fun _ => h) (fun _ => good_modCell h _ (fun _ h2 => cgood_count (cgood_count (cgood_setConv h2))))

theorem good_granuleDone {s : State} (h : Good o p s) {c : CellId} {n : Fin 6} {t : Transfer} {g : Granule} :
    Good o p (s.granuleDone c n t g) := by
  unfold State.granuleDone
  extract_lets +onlyGivenNames s1 s2 s3 p1 p2 s4 _ _ _ _ s5
  have hs1 : Good o p s1 := good_noteNum h
  have hs2 : Good o p s2 := good_countC hs1
  have hs3 : Good o p s3 := good_releaseItems hs2
  have hp1 : Good o p p1.1 := good_ite_fst (fun _ => hs3) (fun _ => good_pinSide hs3)
  have hp2 : Good o p p2.1 := good_pinSide hp1
  have hs4 : Good o p s4 := hp2
  have hs5 : Good o p s5 := good_modCell hs4 _ (fun _ h1 => cgood_setSlot h1)
  exact good_ite (fun _ => good_postFrom hs5) (fun _ => hs5)

theorem good_countAborts {s : State} (h : Good o p s) {c : CellId} {t : Transfer} : Good o p (s.countAborts c t)
    :=
  good_draw (good_countC h)

theorem good_sxHalt {s : State} (h : Good o p s) {c : CellId} {n : Fin 6} {reason detail va : Nat} : Good o p
    (s.sxHalt c n reason detail va) := by
  unfold State.sxHalt
  split
  · exact h
  · exact good_failSlot (good_countAborts h)

theorem good_sxPage {s : State} (h : Good o p s) {c : CellId} {n : Fin 6} {req va : Nat} {write : Bool} : Good o
    p (s.sxPage c n req va write) := by
  unfold State.sxPage
  split
  · exact h
  · exact good_stall (good_modCell (good_countC (good_countAborts h)) _ (fun _ h1 => cgood_setSlot h1))

theorem good_settle {α : Type} {r : SxRes α} (hr : SGood o p r) {c : CellId} {n : Fin 6} {k : State → α → State}
    (hk : ∀ (a : State), Good o p a → ∀ (a_1 : α), Good o p (k a a_1)) : Good o p (r.settle c n k) := by
  unfold SxRes.settle
  split
  · exact hk _ hr _
  · exact good_sxHalt hr
  · exact good_stall hr
  · exact hr
  · exact good_sxPage hr

theorem good_sxConvey {s : State} (h : Good o p s) {c : CellId} {n : Fin 6} {t : Transfer} {g : Granule} : Good
    o p (s.sxConvey c n t g) := by
  unfold State.sxConvey
  extract_lets +onlyGivenNames _ _
  refine good_ite (fun _ => good_sxHalt (good_modCell h _ (fun _ h2 => cgood_setSlot h2))) (fun _ => ?_)
  split
  · exact good_stall (good_requestWake (good_modCell h _ (fun _ h2 => cgood_setSlot h2)))
  · exact good_stall (good_requestWake (good_modCell h _ (fun _ h2 => cgood_setSlot h2)))
  · refine good_ite (fun _ => good_sxHalt (good_modCell h _ (fun _ h3 => cgood_setSlot h3))) (fun _ => ?_)
    extract_lets +onlyGivenNames r
    have hr : Good o p r.1 := good_pushItems h
    exact good_ite (fun _ => good_granuleDone hr) (fun _ => good_stall (good_convJoin (good_modCell hr _ (fun _ h4
      => cgood_setSlot h4))))

theorem good_countPoison {s : State} (h : Good o p s) {c : CellId} {t : Transfer} {g : Granule} : Good o p
    (s.countPoison c t g) :=
  good_ite (fun _ => h) (fun _ => good_countC h)

theorem good_sxGranule {s : State} (h : Good o p s) {c : CellId} {n : Fin 6} {t : Transfer} :
    Good o p (s.sxGranule c n t) := by
  unfold State.sxGranule
  generalize granuleAt t.desc.toNat t.row t.elt = g
  refine good_ite (fun _ => good_sxConvey h) (fun _ => good_settle (sgood_sxRead h) (fun s1 h1 bs => ?_))
  have h2 : Good o p (if t.old = [] then s1 else s1.draw) := good_ite (fun _ => h1) (fun _ => good_draw h1)
  generalize (if t.old = [] then s1 else s1.draw) = s2 at h2 ⊢
  generalize (if t.old = [] then bs else s1.pickOld c t g.sa bs) = bs1
  refine good_ite (fun _ => good_sxHalt (good_countPoison h2)) (fun _ => ?_)
  generalize sxConvert (s2.cell c) t g bs1 = w
  refine good_ite (fun _ => good_sxHalt (good_noteNum h2)) (fun _ => good_ite (fun _ => ?_) (fun _ => ?_))
  · exact good_sxConvey (good_pinSide h2)
  · exact good_settle (sgood_sxWrite h2) (fun _ h3 _ => good_granuleDone h3)

theorem good_implicitGranule {s : State} (h : Good o p s) {c : CellId} {n : Fin 6} {t : Transfer} : Good o p
    (s.implicitGranule c n t) := by
  unfold State.implicitGranule
  split
  · exact h
  · exact good_settle (sgood_sx_accres (agood_vwrite h)) (fun _ h1 _ => good_modCell (good_countC h1) _ (fun _ h2 =>
      cgood_setSlot h2))

theorem good_microTransfer {s : State} (h : Good o p s) {c : CellId} {n : Fin 6} : Good o p (s.microTransfer c
    n) := by
  unfold State.microTransfer
  split
  · exact h
  · exact good_ite (fun _ => h) (fun _ => good_ite (fun _ => good_stall h) (fun _ => good_ite (fun _ =>
      good_implicitGranule h) (fun _ => good_sxGranule h)))

theorem good_takeEmpty {s : State} (h : Good o p s) {c : CellId} {n : Fin 6} : Good o p (s.takeEmpty c n) := by
  unfold State.takeEmpty
  split
  · exact h
  · refine good_ite (fun _ => h) (fun _ => ?_)
    extract_lets +onlyGivenNames _ _
    split
    · refine good_ite (fun _ => good_failSlot h) (fun _ => ?_)
      extract_lets +onlyGivenNames s1
      have hs1 : Good o p s1 := good_modCell h _ (fun _ h3 => cgood_setSlot (cgood_setSem h3))
      exact good_ite (fun _ => good_modCell hs1 _ (fun _ h4 => cgood_getD (cogood_serveSem h4) h4)) (fun _ =>
        good_stall hs1)
    · exact good_ite (fun _ => good_modCell h _ (fun _ h3 => cgood_getD (cogood_serveSem h3) h3)) (fun _ => h)
    · exact h

theorem good_sxComplete {s : State} (h : Good o p s) {c : CellId} {n : Fin 6} : Good o p (s.sxComplete c n) := by
  unfold State.sxComplete
  split
  · exact h
  · exact good_ite (fun _ => good_completionPost (good_modCell h _ (fun _ h2 => cgood_count (cgood_setSlot h2))))
      (fun _ => h)

theorem good_sxAnswer {s : State} (h : Good o p s) {c : CellId} {req : Nat} {refused : Option Nat} : Good o p
    (s.sxAnswer c req refused) := by
  unfold State.sxAnswer
  refine good_foldl _ h (fun _ _ h1 => ?_)
  split
  · exact h1
  · refine good_ite (fun _ => ?_) (fun _ => h1)
    split
    · exact good_modCell h1 _ (fun _ h3 => cgood_setSlot h3)
    · exact good_failSlot h1

/-! ### Machine/Layer.lean -/

theorem hgood_bind {α β : Type} {r : HRes α} (hr : HGood o p r) {k : State → α → HRes β} (hk : ∀ (a : State),
    Good o p a → ∀ (a_1 : α), HGood o p (k a a_1)) : HGood o p (r.bind k) := by
  unfold HRes.bind
  split
  · exact hk _ hr _
  · exact hgood_wait hr
  · exact hgood_fail hr _ _

theorem hgood_hv {α : Type} {r : AccRes α} (hr : AGood o p r) {a : Access} : HGood o p (r.hv a) := by
  unfold AccRes.hv
  split
  · exact hgood_ok hr _
  · exact hgood_wait (good_of_core hr)
  · exact hgood_fail hr _ _
  · exact hgood_fail hr _ _

theorem hgood_hvAccess {α : Type} {s : State} (h : Good o p s) {a : Access} {k : State → AccRes α} (hk : ∀ (a :
    State), Good o p a → AGood o p (k a)) : HGood o p (s.hvAccess a k) := by
  unfold State.hvAccess
  split
  · exact hgood_fail (good_of_core h) _ _
  · exact hgood_hv (hk _ h)

theorem hgood_hvReadAux {k : Fin 16} {cls : Fin 8} {n n1 n2 : Nat} {l : List PByte} {s : State} (h : Good o p s)
    : HGood o p (State.hvReadAux k cls n n1 n2 l s) := by
  induction n generalizing k cls n1 n2 l s with
  | zero =>
    unfold State.hvReadAux
    exact hgood_ok h _
  | succ n ih =>
    unfold State.hvReadAux
    exact hgood_ite (fun _ => hgood_ok h _) (fun _ => hgood_bind (hgood_hvAccess h (fun _ h2 => agood_vread h2))
      (fun _ h2 _ => ih h2))

theorem hgood_hvReadP {s : State} (h : Good o p s) {k : Fin 16} {cls : Fin 8} {va n : Nat} : HGood o p
    (s.hvReadP k cls va n) :=
  hgood_hvReadAux h

theorem hgood_hvRead {s : State} (h : Good o p s) {k : Fin 16} {cls : Fin 8} {va n : Nat} : HGood o p (s.hvRead
    k cls va n) := by
  unfold State.hvRead
  refine hgood_bind (hgood_hvReadP h) (fun _ h1 _ => ?_)
  split
  · exact hgood_fail h1 _ _
  · exact hgood_ok h1 _

theorem hgood_hvWriteAux {k : Fin 16} {cls : Fin 8} {n n1 : Nat} {l : List Byte} {s : State} (h : Good o p s) :
    HGood o p (State.hvWriteAux k cls n n1 l s) := by
  induction n generalizing k cls n1 l s with
  | zero =>
    unfold State.hvWriteAux
    exact hgood_ok h _
  | succ n ih =>
    unfold State.hvWriteAux
    exact hgood_ite (fun _ => hgood_ok h _) (fun _ => hgood_bind (hgood_hvAccess h (fun _ h2 => agood_vwrite h2))
      (fun _ h2 _ => ih h2))

theorem hgood_hvWrite {s : State} (h : Good o p s) {k : Fin 16} {cls : Fin 8} {va : Nat} {bs : List Byte} :
    HGood o p (s.hvWrite k cls va bs) :=
  hgood_hvWriteAux h

theorem hgood_readEntry {s : State} (h : Good o p s) {l : Nat} : HGood o p (s.readEntry l) :=
  hgood_bind (hgood_hvRead h) (fun _ h1 _ => hgood_ok h1 _)

theorem good_fixSkip {s : State} (h : Good o p s) : Good o p s.fixSkip :=
  good_ite (fun _ => good_of_core h) (fun _ => h)

theorem good_hvComplete {s : State} (h : Good o p s) : Good o p s.hvComplete :=
  good_foldl _ (good_of_core h) (fun _ _ h1 => good_completionPost h1)

theorem good_failLayer {s : State} (h : Good o p s) {l : Nat} {reason va : Nat} {k : Fin 16} : Good o p
    (s.failLayer l reason va k) :=
  good_ite (fun _ => h) (fun _ => good_hvComplete (good_logEvent (good_setFreg (good_orFreg (good_of_core h)) _ _)))

theorem hgood_layerValid {s : State} (h : Good o p s) {l : Nat} : HGood o p (s.layerValid l) := by
  unfold State.layerValid
  refine hgood_ite (fun _ => hgood_ok h _) (fun _ => ?_)
  split
  · next q => exact hgood_ok (good_of_ok q (hgood_readEntry h)) _
  · next q => exact hgood_wait (good_of_wait q (hgood_readEntry h))
  · next q => exact hgood_ok (good_failLayer (good_of_fail q (hgood_readEntry h))) _

theorem hgood_validFrom {l n : Nat} {s : State} (h : Good o p s) : HGood o p (State.validFrom l n s) := by
  induction n generalizing l s with
  | zero =>
    unfold State.validFrom
    exact hgood_ok h _
  | succ n ih =>
    unfold State.validFrom
    exact hgood_bind (hgood_layerValid h) (fun _ h1 _ => hgood_bind (ih h1) (fun _ h2 _ => hgood_ok h2 _))

theorem hgood_validLayers {s : State} (h : Good o p s) : HGood o p s.validLayers :=
  hgood_validFrom h

/-! ### Machine/Submit.lean -/

theorem good_refuseDelivery {s : State} (h : Good o p s) {l : Nat} : Good o p (s.refuseDelivery l) :=
  good_logEvent (good_count (good_orFreg h))

theorem hgood_readLayer {s : State} (h : Good o p s) {l : Nat} : HGood o p (s.readLayer l) :=
  hgood_bind (hgood_readEntry h) (fun _ h1 _ => hgood_ite (fun _ => hgood_bind (hgood_hvRead h1) (fun _ h3 _ =>
    hgood_ok h3 _)) (fun _ => hgood_ok h1 _))

theorem good_acceptLayer {s : State} (h : Good o p s) {w : StatusWord} {nfLocal : Bool} {l : Nat} {entry :
    Option Entry} {p1 : Desc} {bad : Option (Nat × Nat)} : Good o p (s.acceptLayer w nfLocal l entry p1 bad) := by
  unfold State.acceptLayer
  dsimp only
  refine good_hvComplete ?_
  refine good_ite (fun _ => good_failLayer (good_orFreg (good_fixSkip (good_of_core (good_ite (fun _ => good_orFreg
    h) (fun _ => h)))))) (fun _ => ?_)
  split
  · exact good_failLayer (good_fixSkip (good_of_core (good_ite (fun _ => good_orFreg h) (fun _ => h))))
  · exact (good_fixSkip (good_of_core (good_ite (fun _ => good_orFreg h) (fun _ => h))))

theorem delgood_deliverLayer {s : State} (h : Good o p s) {l : Nat} {nfLocal : Bool} {word : State → Option
    Entry → HRes (StatusWord × Option (Nat × Nat))} (hword : ∀ (a : State), Good o p a → ∀ (a_1 : Option Entry),
    HGood o p (word a a_1)) : DelGood o p (s.deliverLayer l nfLocal word) := by
  unfold State.deliverLayer
  refine delgood_ite (fun _ => delgood_wait h) (fun _ => ?_)
  refine delgood_ite (fun _ => delgood_refused (good_refuseDelivery h)) (fun _ => ?_)
  extract_lets +onlyGivenNames go
  have hgo : ∀ (s : State), Good o p s → ∀ (e : Option Entry) (p_1 : Desc) (bad : Option (Nat × Nat)), DelGood o p
    (go s e p_1 bad) := by
    unfold go
    intro _ h3 _ _ _
    split
    · next q => exact delgood_accepted (good_acceptLayer (good_of_ok q (hword _ h3 _)))
    · next q => exact delgood_wait (good_of_wait q (hword _ h3 _))
    · next q => exact delgood_accepted (good_acceptLayer (good_of_fail q (hword _ h3 _)))
  split
  · next q => exact delgood_wait (good_of_wait q (hgood_readEntry h))
  · next q => exact hgo _ (good_of_fail q (hgood_readEntry h)) _ _ _
  · next q =>
      refine delgood_ite (fun _ => delgood_refused (good_refuseDelivery (good_of_ok q (hgood_readEntry h)))) (fun _
        => ?_)
      split
      · next q1 =>
          exact delgood_wait (good_of_wait q1 (hgood_readLayer (good_of_ok q (hgood_readEntry h))))
      · next q1 =>
          exact hgo _ (good_of_fail q1 (hgood_readLayer (good_of_ok q (hgood_readEntry h)))) _ _ _
      · next q1 =>
          exact hgo _ (good_of_ok q1 (hgood_readLayer (good_of_ok q (hgood_readEntry h)))) _ _ _

theorem hgood_localStatus {l : Nat} {s : State} (h : Good o p s) {e : Option Entry} : HGood o p (localStatus l s
    e) := by
  unfold localStatus
  split
  · exact hgood_ok h _
  · refine hgood_ite (fun _ => hgood_ok h _) (fun _ => ?_)
    extract_lets +onlyGivenNames _
    split
    · next q => exact hgood_wait (good_of_wait q (hgood_hvReadP h))
    · next q => exact hgood_ok (good_of_fail q (hgood_hvReadP h)) _
    · next q => exact hgood_ok (good_of_ok q (hgood_hvReadP h)) _

theorem egood_hvHold {s : State} (h : Good o p s) : EGood o p s.hvHold :=
  egood_wait h _

theorem egood_evalHvsub {c : CellId} {e : InFlight} {s : State} (h : Good o p s) : EGood o p (evalHvsub c e s)
    := by
  unfold evalHvsub
  extract_lets +onlyGivenNames _
  refine egood_ite (fun _ => egood_illegal h) (fun _ => ?_)
  extract_lets +onlyGivenNames _ _ _ _ flt
  have hflt : ∀ (cause detail : Nat), EGood o p (flt cause detail) := fun _ _ => egood_fault h _
  refine egood_ite (fun _ => hflt _ _) (fun _ => ?_)
  refine egood_ite (fun _ => hflt _ _) (fun _ => ?_)
  refine egood_ite (fun _ => ?_) (fun _ => egood_ite (fun _ => egood_ite (fun _ => hflt _ _) (fun _ => egood_done
    (good_modCell h _ (fun _ h7 => cgood_ocWrite h7)) _ _)) (fun _ => hflt _ _))
  refine egood_ite (fun _ => hflt _ _) (fun _ => ?_)
  refine egood_ite (fun _ => egood_fault (good_refuseDelivery h) _) (fun _ => ?_)
  split
  · next q =>
      exact egood_hvHold (good_of_dwait q (delgood_deliverLayer h (fun _ h7 _ => hgood_localStatus h7)))
  · next q =>
      exact egood_fault (good_of_drefused q (delgood_deliverLayer h (fun _ h7 _ => hgood_localStatus h7))) _
  · next q =>
      extract_lets +onlyGivenNames _
      exact egood_done (good_hvComplete (good_of_core (good_of_daccepted q (delgood_deliverLayer h (fun _ h7 _ =>
        hgood_localStatus h7))))) _ _

/-! ### Machine/System.lean -/

theorem egood_evalSempost {c : CellId} {e : InFlight} {s : State} (h : Good o p s) : EGood o p (evalSempost c e
    s) := by
  unfold evalSempost
  extract_lets +onlyGivenNames _
  split
  · exact egood_ite (fun _ => egood_done (good_post h) _ _) (fun _ => egood_illegal h)
  · exact egood_illegal h

theorem egood_evalSempostr {c : CellId} {e : InFlight} {s : State} (h : Good o p s) : EGood o p (evalSempostr c
    e s) := by
  unfold evalSempostr
  extract_lets +onlyGivenNames _
  split
  · exact egood_ite (fun _ => egood_done (good_postFrom h) _ _) (fun _ => egood_illegal h)
  · exact egood_illegal h

theorem egood_evalSemwait {c : CellId} {e : InFlight} {s : State} (h : Good o p s) : EGood o p (evalSemwait c e
    s) := by
  unfold evalSemwait
  extract_lets +onlyGivenNames _
  split
  · exact egood_illegal h
  · refine egood_ite (fun _ => egood_illegal h) (fun _ => ?_)
    refine egood_ite (fun _ => egood_done h _ _) (fun _ => ?_)
    extract_lets +onlyGivenNames x1 _
    have hx1 : CGood x1 := cgood_cell h _
    refine egood_ite (fun _ => egood_wait h _) (fun _ => ?_)
    split
    · exact egood_fault h _
    · exact egood_ite (fun _ => egood_done (good_setCell h _ (cgood_count (cgood_setSem hx1))) _ _) (fun _ =>
        egood_wait (good_setCell h _ (cgood_setSem hx1)) _)

theorem egood_evalQpush {c : CellId} {e : InFlight} {s : State} (h : Good o p s) : EGood o p (evalQpush c e s)
    :=
  egood_ite (fun _ => egood_illegal h) (fun _ => egood_ite (fun _ => egood_fault (good_ocUpset h) _) (fun _ =>
    egood_ite (fun _ => egood_done (good_convPush (good_ocUpset h)) _ _) (fun _ => egood_wait (good_convJoin
    (good_ocUpset h)) _)))

theorem egood_evalQpop {c : CellId} {e : InFlight} {s : State} (h : Good o p s) : EGood o p (evalQpop c e s) := by
  unfold evalQpop
  extract_lets +onlyGivenNames _ _
  refine egood_ite (fun _ => egood_illegal h) (fun _ => ?_)
  extract_lets +onlyGivenNames _ _
  refine egood_ite (fun _ => egood_fault h _) (fun _ => ?_)
  refine egood_ite (fun _ => egood_wait h _) (fun _ => ?_)
  extract_lets +onlyGivenNames s1 _ _
  have hs1 : Good o p s1 := good_spoilItem (good_operandUpset h)
  refine egood_ite (fun _ => egood_fault (good_countC hs1) _) (fun _ => ?_)
  refine egood_done ?_ _ _
  refine good_modCell hs1 _ (fun _ h5 => ?_)
  extract_lets +onlyGivenNames y1
  have hy1 : CGood y1 := cgood_count (cgood_setConv h5)
  exact cgood_wrS (cgood_ocWrite hy1)

theorem egood_convOp {c : CellId} {e : InFlight} {s : State} (h : Good o p s) {rd : Bool} {k : Conveyor → Eval}
    (hk : ∀ (a : Conveyor), EGood o p (k a)) : EGood o p (convOp c e s rd k) :=
  egood_ite (fun _ => egood_illegal h) (fun _ => egood_ite (fun _ => hk _) (fun _ => egood_fault h _))

theorem egood_evalQcnt {c : CellId} {e : InFlight} {s : State} (h : Good o p s) : EGood o p (evalQcnt c e s) :=
  egood_convOp h (fun _ => egood_done (good_modCell h _ (fun _ h1 => cgood_wrS h1)) _ _)

theorem egood_evalQmark {c : CellId} {e : InFlight} {s : State} (h : Good o p s) : EGood o p (evalQmark c e s)
    :=
  egood_convOp h (fun _ => egood_done (good_modCell h _ (fun _ h1 => cgood_setConv h1)) _ _)

theorem egood_evalQrewind {c : CellId} {e : InFlight} {s : State} (h : Good o p s) : EGood o p (evalQrewind c e
    s) :=
  egood_convOp h (fun _ => egood_ite (fun _ => egood_done (good_modCell h _ (fun _ h2 => cgood_count (cgood_setConv
    h2))) _ _) (fun _ => egood_fault h _))

theorem egood_evalQrel {c : CellId} {e : InFlight} {s : State} (h : Good o p s) : EGood o p (evalQrel c e s) :=
  egood_convOp h (fun _ => egood_done (good_modCell h _ (fun _ h1 => cgood_setConv h1)) _ _)

theorem egood_evalArrive {c : CellId} {e : InFlight} {s : State} (h : Good o p s) {k : Scope} : EGood o p
    (evalArrive c e s k) :=
  egood_ite (fun _ => egood_wait h _) (fun _ => egood_wait (good_modCell (good_setBarrier h) _ (fun _ h2 =>
    cgood_modHead h2)) _)

theorem egood_evalBar {c : CellId} {e : InFlight} {s : State} (h : Good o p s) : EGood o p (evalBar c e s) :=
  egood_ite (fun _ => egood_illegal h) (fun _ => egood_ite (fun _ => egood_done h _ _) (fun _ => egood_evalArrive
    h))

theorem egood_evalEqnx {c : CellId} {e : InFlight} {s : State} (h : Good o p s) : EGood o p (evalEqnx c e s) := by
  unfold evalEqnx
  refine egood_ite (fun _ => egood_illegal h) (fun _ => ?_)
  split
  · exact egood_done (good_modCell h _ (fun _ h2 => cgood_wrS h2)) _ _
  · exact egood_ite (fun _ => egood_fault h _) (fun _ => egood_evalArrive h)

theorem egood_evalPhase {c : CellId} {e : InFlight} {s : State} (h : Good o p s) : EGood o p (evalPhase c e s)
    :=
  egood_ite (fun _ => egood_illegal h) (fun _ => egood_done (good_modCell h _ (fun _ h2 => cgood_setReg h2)) _ _)

theorem egood_evalFence {c : CellId} {e : InFlight} {s : State} (h : Good o p s) : EGood o p (evalFence c e s)
    := by
  unfold evalFence
  refine egood_ite (fun _ => egood_illegal h) (fun _ => ?_)
  refine egood_ite (fun _ => ?_) (fun _ => egood_done h _ _)
  split
  · exact egood_fault h _
  · exact egood_ite (fun _ => egood_wait h _) (fun _ => egood_done h _ _)

theorem egood_evalIsync {c : CellId} {e : InFlight} {s : State} (h : Good o p s) : EGood o p (evalIsync c e s)
    :=
  egood_ite (fun _ => egood_illegal h) (fun _ => egood_done h _ _)

theorem egood_evalYield {c : CellId} {e : InFlight} {s : State} (h : Good o p s) : EGood o p (evalYield c e s)
    :=
  egood_ite (fun _ => egood_illegal h) (fun _ => egood_ite (fun _ => egood_done h _ _) (fun _ => egood_wait h _))

/-! ### Machine/Vector.lean -/

theorem good_clashBytes {s : State} (h : Good o p s) {c : CellId} {l : List (Nat × List Byte)} : Good o p
    (s.clashBytes c l) := by
  induction l generalizing s c with
  | nil =>
    unfold State.clashBytes
    exact h
  | cons a l ih =>
    unfold State.clashBytes
    exact ih (good_foldl _ h (fun _ _ h1 => good_ite (fun _ => good_draw (good_modCell h1 _ (fun _ h3 =>
      cgood_ocWrite h3))) (fun _ => h1)))

theorem egood_finishVx {s : State} (h : Good o p s) {c : CellId} {e : InFlight} {srcs : List OcRegion} {d :
    VDone} : EGood o p (finishVx s c e srcs d) := by
  unfold finishVx
  split
  · exact egood_fault h _
  · refine egood_numeric h (fun _ h1 => ?_)
    dsimp only
    refine egood_done ?_ _ _
    refine good_foldl _ ?_ (fun _ _ h2 => good_draw (good_countC h2))
    refine good_stall ?_
    refine good_clashBytes ?_
    refine good_modCell h1 _ (fun _ h2 => ?_)
    split
    · exact cgood_setReg (cgood_foldl _ (cgood_foldl _ h2 (fun _ _ h3 => cgood_ocWrite h3)) (fun _ _ h3 =>
        cgood_count h3))
    · exact (cgood_foldl _ (cgood_foldl _ h2 (fun _ _ h3 => cgood_ocWrite h3)) (fun _ _ h3 => cgood_count h3))

theorem egood_runEw {s : State} (h : Good o p s) {c : CellId} {e : InFlight} {w : Elementwise} : EGood o p
    (runEw s c e w) :=
  egood_orFault (good_ocUpset h) (fun _ => egood_finishVx (good_ocUpset h))

theorem egood_evalEw {useB useC : Bool} {fn : Fmt → Nat → Nat → Nat → Nat × Flags} {c : CellId} {e : InFlight}
    {s : State} (h : Good o p s) : EGood o p (evalEw useB useC fn c e s) := by
  unfold evalEw
  split
  · exact egood_illegal h
  · exact egood_ite (fun _ => egood_illegal h) (fun _ => egood_runEw h)

theorem egood_evalVadd {c : CellId} {a : InFlight} {s : State} (h : Good o p s) : EGood o p (evalVadd c a s) :=
  egood_evalEw h

theorem egood_evalVsub {c : CellId} {a : InFlight} {s : State} (h : Good o p s) : EGood o p (evalVsub c a s) :=
  egood_evalEw h

theorem egood_evalVmul {c : CellId} {a : InFlight} {s : State} (h : Good o p s) : EGood o p (evalVmul c a s) :=
  egood_evalEw h

theorem egood_evalVfma {c : CellId} {a : InFlight} {s : State} (h : Good o p s) : EGood o p (evalVfma c a s) :=
  egood_evalEw h

theorem egood_evalVmin {c : CellId} {a : InFlight} {s : State} (h : Good o p s) : EGood o p (evalVmin c a s) :=
  egood_evalEw h

theorem egood_evalVmax {c : CellId} {a : InFlight} {s : State} (h : Good o p s) : EGood o p (evalVmax c a s) :=
  egood_evalEw h

theorem egood_evalVmov {c : CellId} {a : InFlight} {s : State} (h : Good o p s) : EGood o p (evalVmov c a s) :=
  egood_evalEw h

theorem egood_evalVabs {c : CellId} {a : InFlight} {s : State} (h : Good o p s) : EGood o p (evalVabs c a s) :=
  egood_evalEw h

theorem egood_evalVneg {c : CellId} {a : InFlight} {s : State} (h : Good o p s) : EGood o p (evalVneg c a s) :=
  egood_evalEw h

theorem egood_evalVfmaw {c : CellId} {e : InFlight} {s : State} (h : Good o p s) : EGood o p (evalVfmaw c e s)
    := by
  unfold evalVfmaw
  split
  · exact egood_illegal h
  · exact egood_ite (fun _ => egood_illegal h) (fun _ => egood_runEw h)

theorem egood_evalVcmp {c : CellId} {e : InFlight} {s : State} (h : Good o p s) : EGood o p (evalVcmp c e s) := by
  unfold evalVcmp
  extract_lets +onlyGivenNames _ _
  split
  · exact egood_illegal h
  · refine egood_ite (fun _ => egood_illegal h) (fun _ => ?_)
    extract_lets +onlyGivenNames s1 _ _ _ _
    have hs1 : Good o p s1 := good_ocUpset h
    refine egood_orFault hs1 (fun _ => ?_)
    extract_lets +onlyGivenNames _ _ _
    exact egood_finishVx hs1

theorem egood_evalVsel {c : CellId} {e : InFlight} {s : State} (h : Good o p s) : EGood o p (evalVsel c e s) := by
  unfold evalVsel
  extract_lets +onlyGivenNames _ _
  split
  · exact egood_illegal h
  · refine egood_ite (fun _ => egood_illegal h) (fun _ => ?_)
    extract_lets +onlyGivenNames s1 _ _ _
    have hs1 : Good o p s1 := good_ocUpset h
    refine egood_orFault hs1 (fun _ => ?_)
    extract_lets +onlyGivenNames _ _
    exact egood_finishVx hs1

theorem egood_evalVcvt {c : CellId} {e : InFlight} {s : State} (h : Good o p s) : EGood o p (evalVcvt c e s) := by
  unfold evalVcvt
  extract_lets +onlyGivenNames _ _ _ _
  split
  · refine egood_ite (fun _ => egood_illegal h) (fun _ => ?_)
    extract_lets +onlyGivenNames _
    exact egood_runEw h
  · exact egood_illegal h

theorem egood_evalFu {fn : FuFn} {c : CellId} {e : InFlight} {s : State} (h : Good o p s) : EGood o p (evalFu fn
    c e s) := by
  unfold evalFu
  split
  · exact egood_illegal h
  · exact egood_ite (fun _ => egood_illegal h) (fun _ => egood_runEw h)

theorem egood_evalFexp2 {c : CellId} {a : InFlight} {s : State} (h : Good o p s) : EGood o p (evalFexp2 c a s)
    :=
  egood_evalFu h

theorem egood_evalFlog2 {c : CellId} {a : InFlight} {s : State} (h : Good o p s) : EGood o p (evalFlog2 c a s)
    :=
  egood_evalFu h

theorem egood_evalFrcp {c : CellId} {a : InFlight} {s : State} (h : Good o p s) : EGood o p (evalFrcp c a s) :=
  egood_evalFu h

theorem egood_evalFrsq {c : CellId} {a : InFlight} {s : State} (h : Good o p s) : EGood o p (evalFrsq c a s) :=
  egood_evalFu h

theorem egood_evalRed {fn : RedFn} {c : CellId} {e : InFlight} {s : State} (h : Good o p s) : EGood o p (evalRed
    fn c e s) := by
  unfold evalRed
  extract_lets +onlyGivenNames _ _ _ _ _
  split
  · exact egood_illegal h
  · refine egood_ite (fun _ => egood_illegal h) (fun _ => ?_)
    extract_lets +onlyGivenNames s1 _ _ _ _
    have hs1 : Good o p s1 := good_ocUpset h
    refine egood_orFault hs1 (fun _ => ?_)
    extract_lets +onlyGivenNames _
    exact egood_finishVx hs1

theorem egood_evalRsum {c : CellId} {a : InFlight} {s : State} (h : Good o p s) : EGood o p (evalRsum c a s) :=
  egood_evalRed h

theorem egood_evalRsumd {c : CellId} {a : InFlight} {s : State} (h : Good o p s) : EGood o p (evalRsumd c a s)
    :=
  egood_evalRed h

theorem egood_evalRssq {c : CellId} {a : InFlight} {s : State} (h : Good o p s) : EGood o p (evalRssq c a s) :=
  egood_evalRed h

theorem egood_evalRmax {c : CellId} {a : InFlight} {s : State} (h : Good o p s) : EGood o p (evalRmax c a s) :=
  egood_evalRed h

theorem egood_evalRmin {c : CellId} {a : InFlight} {s : State} (h : Good o p s) : EGood o p (evalRmin c a s) :=
  egood_evalRed h

theorem egood_evalRamax {c : CellId} {a : InFlight} {s : State} (h : Good o p s) : EGood o p (evalRamax c a s)
    :=
  egood_evalRed h

theorem egood_evalRfstore {c : CellId} {e : InFlight} {s : State} (h : Good o p s) : EGood o p (evalRfstore c e
    s) := by
  unfold evalRfstore
  refine egood_ite (fun _ => egood_illegal h) (fun _ => ?_)
  split
  · exact egood_ite (fun _ => egood_illegal h) (fun _ => egood_done (good_stall (good_modCell h _ (fun _ h3 =>
      cgood_ocWrite h3))) _ _)
  · exact egood_ite (fun _ => egood_illegal h) (fun _ => egood_done (good_modCell h _ (fun _ h3 => cgood_wrS h3)) _
      _)
  · exact egood_illegal h

theorem egood_evalRfclr {c : CellId} {e : InFlight} {s : State} (h : Good o p s) : EGood o p (evalRfclr c e s)
    :=
  egood_ite (fun _ => egood_illegal h) (fun _ => egood_done (good_modCell h _ (fun _ h2 => cgood_setReg h2)) _ _)

theorem egood_evalVsmax {c : CellId} {e : InFlight} {s : State} (h : Good o p s) : EGood o p (evalVsmax c e s)
    :=
  egood_ite (fun _ => egood_illegal h) (fun _ => egood_orFault (good_ocUpset h) (fun _ => egood_finishVx
    (good_ocUpset h)))

theorem egood_evalVsmon {c : CellId} {e : InFlight} {s : State} (h : Good o p s) : EGood o p (evalVsmon c e s)
    :=
  egood_ite (fun _ => egood_illegal h) (fun _ => egood_orFault (good_ocUpset h) (fun _ => egood_finishVx
    (good_ocUpset h)))

theorem egood_evalVsmfin {c : CellId} {e : InFlight} {s : State} (h : Good o p s) : EGood o p (evalVsmfin c e s)
    :=
  egood_ite (fun _ => egood_illegal h) (fun _ => egood_orFault (good_ocUpset h) (fun _ => egood_finishVx
    (good_ocUpset h)))

/-! ### Machine/Sequencer.lean -/

theorem egood_evalOp {c : CellId} {e : InFlight} {s : State} (h : Good o p s) : EGood o p (evalOp c e s) := by
  unfold evalOp
  split
  · exact egood_evalAlu h
  · exact egood_evalAlui h
  · exact egood_evalMul h
  · exact egood_evalMovi h
  · exact egood_evalLd h
  · exact egood_evalSt h
  · exact egood_evalLdo h
  · exact egood_evalSto h
  · exact egood_evalSpf h
  · exact egood_evalDld h
  · exact egood_evalDldm h
  · exact egood_evalDsto h
  · exact egood_evalDsetw h
  · exact egood_evalDgetw h
  · exact egood_evalBr h
  · exact egood_evalBloop h
  · exact egood_evalJal h
  · exact egood_evalJalr h
  · exact egood_evalCsrr h
  · exact egood_evalCsrw h
  · exact egood_evalNop h
  · exact egood_evalBrk h
  · exact egood_evalTret h
  · exact egood_evalSempost h
  · exact egood_evalSemwait h
  · exact egood_evalSempostr h
  · exact egood_evalQpush h
  · exact egood_evalQpop h
  · exact egood_evalQcnt h
  · exact egood_evalQmark h
  · exact egood_evalQrewind h
  · exact egood_evalQrel h
  · exact egood_evalSxgo h
  · exact egood_evalMma h
  · exact egood_evalMmat h
  · exact egood_evalGfill h
  · exact egood_evalMmv h
  · exact egood_evalMxld h
  · exact egood_evalMxst h
  · exact egood_evalVadd h
  · exact egood_evalVsub h
  · exact egood_evalVmul h
  · exact egood_evalVfma h
  · exact egood_evalVfmaw h
  · exact egood_evalVmin h
  · exact egood_evalVmax h
  · exact egood_evalVcmp h
  · exact egood_evalVsel h
  · exact egood_evalVmov h
  · exact egood_evalVabs h
  · exact egood_evalVneg h
  · exact egood_evalVcvt h
  · exact egood_evalFexp2 h
  · exact egood_evalFlog2 h
  · exact egood_evalFrcp h
  · exact egood_evalFrsq h
  · exact egood_evalRsum h
  · exact egood_evalRsumd h
  · exact egood_evalRssq h
  · exact egood_evalRmax h
  · exact egood_evalRmin h
  · exact egood_evalRamax h
  · exact egood_evalRfstore h
  · exact egood_evalRfclr h
  · exact egood_evalVsmax h
  · exact egood_evalVsmon h
  · exact egood_evalVsmfin h
  · exact egood_evalHvsub h
  · exact egood_evalEqnx h
  · exact egood_evalBar h
  · exact egood_evalPhase h
  · exact egood_evalFence h
  · exact egood_evalIsync h
  · exact egood_evalYield h

theorem egood_evalIns {c : CellId} {e : InFlight} {s : State} (h : Good o p s) : EGood o p (evalIns c e s) :=
  egood_ite (fun _ => egood_wait h _) (fun _ => egood_evalOp h)

theorem cgood_loopDone {x : Cell} (hx : CGood x) {pc : Word} {taken : Bool} : CGood (x.loopDone pc taken) :=
  cgood_ite (fun _ => cgood_with hx) (fun _ => cgood_with hx)

theorem good_recheck {s : State} (h : Good o p s) {c : CellId} : Good o p (s.recheck c) :=
  good_ite (fun _ => h) (fun _ => good_ite (fun _ => (good_modCell h _ (fun _ h2 => cgood_with h2))) (fun _ =>
    good_modCell (good_modCell h _ (fun _ h2 => cgood_with h2)) _ (fun _ h3 => cgood_with h3)))

theorem good_stepHead {s : State} (h : Good o p s) {c : CellId} : Good o p (s.stepHead c).1 := by
  unfold State.stepHead
  split
  · exact h
  · refine good_ite_fst (fun _ => h) (fun _ => ?_)
    split
    · exact good_modCell h _ (fun _ h2 => cgood_modHead h2)
    · split
      · next q2 =>
          extract_lets +onlyGivenNames s2 s3
          have hs2 : Good o p s2 := good_commitHead (good_of_done q2 (egood_evalIns h))
          have hs3 : Good o p s3 := good_ite (fun _ => good_modCell hs2 _ (fun _ h3 => cgood_loopDone h3)) (fun _ =>
            hs2)
          exact good_ite (fun _ => good_haltNow hs3) (fun _ => good_recheck hs3)
      · next q2 =>
          exact good_modCell (good_of_ewait q2 (egood_evalIns h)) _ (fun _ h2 => cgood_modHead h2)
      · next q2 =>
          exact good_modCell (good_of_efault q2 (egood_evalIns h)) _ (fun _ h2 => cgood_faultHead h2)

theorem good_pumpN {n : Nat} {c : CellId} {s : State} (h : Good o p s) : Good o p (State.pumpN n c s) := by
  induction n generalizing c s with
  | zero =>
    unfold State.pumpN
    exact h
  | succ n ih =>
    unfold State.pumpN
    exact good_ite (fun _ => good_ite (fun _ => ih (good_stepHead h)) (fun _ => (good_stepHead h))) (fun _ => h)

theorem good_pump {s : State} (h : Good o p s) {c : CellId} : Good o p (s.pump c) :=
  good_pumpN h

theorem good_pumpAll {s : State} (h : Good o p s) {cs : List CellId} : Good o p (s.pumpAll cs) :=
  good_foldl _ h (fun _ _ h1 => good_pump h1)

theorem good_drive {s : State} (h : Good o p s) {c : CellId} : Good o p (s.drive c) :=
  good_ite (fun _ => good_pump (good_stepHead h)) (fun _ => (good_stepHead h))

theorem good_dispatch {s : State} (h : Good o p s) {c : CellId} {i : Ins} : Good o p (s.dispatch c i) :=
  good_ite (fun _ => good_drive (good_setCell h _ (cgood_with (cgood_ite (fun _ => cgood_count (cgood_count
    (cgood_cell h _))) (fun _ => (cgood_cell h _)))))) (fun _ => (good_setCell h _ (cgood_with (cgood_ite (fun _ =>
    cgood_count (cgood_count (cgood_cell h _))) (fun _ => (cgood_cell h _))))))

theorem good_raStep {s : State} (h : Good o p s) {c : CellId} {r : RunAhead} {i : Ins} : Good o p (s.raStep c r
    i) := by
  unfold State.raStep
  refine good_ite (fun _ => h) (fun _ => ?_)
  extract_lets +onlyGivenNames x _
  have hx : CGood x := cgood_cell h _
  split
  · exact good_setCell h _ (cgood_with hx)
  · exact good_setCell h _ (cgood_with hx)
  · extract_lets +onlyGivenNames go
    have hgo : ∀ (x : Cell), CGood x → Good o p (go x) := fun _ h2 => good_setCell h _ (cgood_with h2)
    refine good_ite (fun _ => hgo _ (cgood_count hx)) (fun _ => ?_)
    split
    · exact good_warm (hgo _ (cgood_count (cgood_count hx)))
    · exact hgo _ (cgood_count hx)

theorem good_enterRunAhead {s : State} (h : Good o p s) {c : CellId} : Good o p (s.enterRunAhead c) :=
  good_ite (fun _ => good_setCell h _ (cgood_with (cgood_count (cgood_cell h _)))) (fun _ => h)

theorem good_limitRunAhead {s : State} (h : Good o p s) {c : CellId} : Good o p (s.limitRunAhead c) := by
  unfold State.limitRunAhead
  split
  · exact good_ite (fun _ => good_modCell h _ (fun _ h2 => cgood_with h2)) (fun _ => h)
  · exact h

theorem good_holdBack {s : State} (h : Good o p s) {c : CellId} {i : Ins} : Good o p (s.holdBack c i) :=
  good_modCell h _ (fun _ h1 => cgood_with h1)

theorem good_issue {s : State} (h : Good o p s) {c : CellId} {i : Ins} : Good o p (s.issue c i) := by
  unfold State.issue
  extract_lets +onlyGivenNames x
  have hx : CGood x := cgood_cell h _
  refine good_ite (fun _ => h) (fun _ => ?_)
  split
  · exact good_raStep h
  · exact good_ite (fun _ => h) (fun _ => good_ite (fun _ => good_holdBack h) (fun _ => good_ite (fun _ => good_ite
      (fun _ => good_stall (good_holdBack h)) (fun _ => good_holdBack h)) (fun _ => good_ite (fun _ => good_stall
      (good_holdBack (good_setCell h _ (cgood_with hx)))) (fun _ => good_ite (fun _ => good_stall (good_holdBack h))
      (fun _ => good_dispatch h)))))

theorem fetchgood_fetchWord {s : State} (h : Good o p s) {c : CellId} {pc : Nat} {err : Bool} : FetchGood o p
    (s.fetchWord c pc err) := by
  unfold State.fetchWord
  extract_lets +onlyGivenNames x _
  have hx : CGood x := cgood_cell h _
  refine fetchgood_ite (fun _ => ?_) (fun _ => ?_)
  · extract_lets +onlyGivenNames _ x1 s1
    have hx1 : CGood x1 := cgood_ite (fun _ => cgood_with hx) (fun _ => hx)
    have hs1 : Good o p s1 := good_setCell h _ hx1
    exact fetchgood_ite (fun _ => fetchgood_fault hs1 _) (fun _ => fetchgood_ok hs1 _)
  · refine fetchgood_ite (fun _ => fetchgood_fault (good_setCell h _ (cgood_with hx)) _) (fun _ => ?_)
    split
    · next q =>
        exact fetchgood_ite (fun _ => fetchgood_fault (good_of_aok q (agood_vread h)) _) (fun _ => fetchgood_ok
          (good_of_aok q (agood_vread h)) _)
    · next q1 =>
        extract_lets +onlyGivenNames s2
        have hs2 : Good o p s2 := good_modCell (good_of_await q1 (agood_vread h)) _ (fun _ h3 => cgood_with h3)
        refine fetchgood_wait ?_
        split
        · exact good_stall hs2
        · exact hs2
    · next q => exact fetchgood_fault (good_of_afault q (agood_vread h)) _
    · next q => exact fetchgood_fault (good_of_arange q (agood_vread h)) _

theorem good_fetchFault {s : State} (h : Good o p s) {c : CellId} {errs : BitVec 2} : Good o p (s.fetchFault c
    errs).1 := by
  unfold State.fetchFault
  extract_lets +onlyGivenNames _
  split
  · next q => exact good_of_ffault q (fetchgood_fetchWord h)
  · next q => exact good_of_fwait q (fetchgood_fetchWord h)
  · next q =>
      split
      · exact good_of_fetched q (fetchgood_fetchWord h)
      · exact good_of_fetched q (fetchgood_fetchWord h)
      · split
        · next q2 =>
            exact good_of_ffault q2 (fetchgood_fetchWord (good_of_fetched q (fetchgood_fetchWord h)))
        · next q2 =>
            exact good_of_fetched q2 (fetchgood_fetchWord (good_of_fetched q (fetchgood_fetchWord h)))
        · next q2 =>
            exact good_of_fwait q2 (fetchgood_fetchWord (good_of_fetched q (fetchgood_fetchWord h)))

theorem good_deliverFault {s : State} (h : Good o p s) {c : CellId} {imBad : BitVec 2} : Good o p
    (s.deliverFault c imBad) := by
  unfold State.deliverFault
  extract_lets +onlyGivenNames _
  refine good_ite (fun _ => h) (fun _ => ?_)
  split
  · split
    · exact good_takeFault h
    · exact h
  · extract_lets +onlyGivenNames r
    have hr : Good o p r.1 := good_fetchFault h
    split
    · exact good_takeFault hr
    · exact hr

theorem good_loopMispredict {s : State} (h : Good o p s) {c : CellId} : Good o p (s.loopMispredict c) := by
  unfold State.loopMispredict
  split
  · exact h
  · split
    · exact h
    · exact good_commitHead (good_modCell h _ (fun _ h1 => cgood_modHead (cgood_loopDone (cgood_wrS
        (cgood_discardAfterHead (cgood_count (cgood_countDiscard h1)))))))

theorem good_lendArray {s : State} (h : Good o p s) {c : CellId} : Good o p (s.lendArray c) :=
  good_ite (fun _ => good_modCell (good_endDoze h) _ (fun _ h2 => cgood_with (cgood_count h2))) (fun _ => h)

theorem good_returnArray {s : State} (h : Good o p s) {c : CellId} : Good o p (s.returnArray c) :=
  good_ite (fun _ => good_setCell h _ (cgood_with (cgood_cell h _))) (fun _ => h)

theorem cgood_grantArrived {x : Cell} (hx : CGood x) {g : Nat} {v : Word} : CGood (x.grantArrived g v) :=
  cgood_modHead hx

theorem good_openBarrier {s : State} (h : Good o p s) {k : Scope} {cells : List CellId} {v : Word} : Good o p
    (s.openBarrier k cells v) := by
  unfold State.openBarrier
  refine good_ite (fun _ => ?_) (fun _ => h)
  dsimp only
  refine good_pumpAll ?_
  refine good_foldl _ (good_setBarrier h) (fun _ _ h2 => ?_)
  split
  · exact good_ite (fun _ => good_modCell (good_endDoze h2) _ (fun _ h4 => cgood_grantArrived h4)) (fun _ => h2)
  · exact h2

theorem good_yieldExpiry {s : State} (h : Good o p s) {c : CellId} : Good o p (s.yieldExpiry c) := by
  unfold State.yieldExpiry
  split
  · exact good_ite (fun _ => good_pump (good_modCell (good_endDoze h) _ (fun _ h2 => cgood_modHead h2))) (fun _ =>
      h)
  · exact h

/-! ### Machine/CellEvents.lean -/

theorem outgood_execYieldExpiry {c : CellId} {s : State} (h : Good o p s) : OutGood o p (execYieldExpiry c s) :=
  outgood_next (good_yieldExpiry h)

theorem outgood_execFaultDelivery {c : CellId} {imBad : Meets (BitVec 2) MemUpset} {s : State} (h : Good o p s)
    : OutGood o p (execFaultDelivery c imBad s) :=
  outgood_next (good_deliverFault (good_memUpset h))

theorem outgood_execLoopMispredict {c : CellId} {s : State} (h : Good o p s) : OutGood o p (execLoopMispredict c
    s) :=
  outgood_next (good_loopMispredict h)

theorem outgood_execRunAheadEntry {c : CellId} {s : State} (h : Good o p s) : OutGood o p (execRunAheadEntry c
    s) :=
  outgood_next (good_enterRunAhead h)

theorem outgood_execRunAheadLimit {c : CellId} {s : State} (h : Good o p s) : OutGood o p (execRunAheadLimit c
    s) :=
  outgood_next (good_limitRunAhead h)

theorem outgood_execArrayLend {c : CellId} {s : State} (h : Good o p s) : OutGood o p (execArrayLend c s) :=
  outgood_ite (fun _ => outgood_next (good_clrFreg (good_count (good_lendArray h)))) (fun _ => outgood_next h)

theorem outgood_execArrayReturn {c : CellId} {s : State} (h : Good o p s) : OutGood o p (execArrayReturn c s) :=
  outgood_next (good_returnArray h)

theorem outgood_execBarrierComplete {k : BarScope} {s : State} (h : Good o p s) : OutGood o p
    (execBarrierComplete k s) := by
  unfold execBarrierComplete
  split <;> exact outgood_next (good_openBarrier h)

theorem outgood_execSemwaitSatisfied {c : CellId} {k : BitVec 6} {s : State} (h : Good o p s) : OutGood o p
    (execSemwaitSatisfied c k s) := by
  unfold execSemwaitSatisfied
  split
  · next q =>
      exact outgood_next (good_pump (good_setCell h _ (cgood_of_some q (cogood_serveSem (cgood_cell h _)))))
  · exact outgood_next h

theorem outgood_execHeldPostDelivery {c : CellId} {s : State} (h : Good o p s) : OutGood o p
    (execHeldPostDelivery c s) := by
  unfold execHeldPostDelivery
  extract_lets +onlyGivenNames x
  have hx : CGood x := cgood_cell h _
  split
  · exact outgood_next (good_post (good_setCell h _ (cgood_with hx)))
  · exact outgood_next h

theorem cgood_endSelftest {x : Cell} (hx : CGood x) {d : SelftestFinding} : CGood (x.endSelftest d) :=
  cgood_with (cgood_count (cgood_setReg hx))

theorem outgood_execSelftestDone {c : CellId} {d : SelftestFinding} {s : State} (h : Good o p s) : OutGood o p
    (execSelftestDone c d s) :=
  outgood_ite (fun _ => outgood_next (good_pump (good_setCell h _ (cgood_endSelftest (cgood_cell h _))))) (fun _ =>
    outgood_next h)

theorem outgood_execGfillLimitExpiry {c : CellId} {s : State} (h : Good o p s) : OutGood o p
    (execGfillLimitExpiry c s) := by
  unfold execGfillLimitExpiry
  split
  · exact outgood_ite (fun _ => outgood_next (good_drive (good_modCell h _ (fun _ h2 => cgood_modHead h2)))) (fun _
      => outgood_next h)
  · exact outgood_next h

theorem outgood_execSxAccept {c : CellId} {s : State} (h : Good o p s) : OutGood o p (execSxAccept c s) := by
  unfold execSxAccept
  split
  · exact outgood_ite (fun _ => outgood_next (good_drive h)) (fun _ => outgood_next h)
  · exact outgood_next h

theorem outgood_execLinkEmptyTake {c : CellId} {n : Fin 6} {s : State} (h : Good o p s) : OutGood o p
    (execLinkEmptyTake c n s) :=
  outgood_next (good_takeEmpty h)

theorem outgood_execMicroTransferDone {c : CellId} {n : Meets (Fin 6) Upset} {s : State} (h : Good o p s) :
    OutGood o p (execMicroTransferDone c n s) :=
  outgood_next (good_microTransfer (good_ite (fun _ => good_engineUpset h) (fun _ => h)))

theorem outgood_execSxTransferComplete {c : CellId} {n : Fin 6} {s : State} (h : Good o p s) : OutGood o p
    (execSxTransferComplete c n s) :=
  outgood_next (good_pump (good_sxComplete h))

theorem outgood_execShareWindow {c : CellId} {s : State} (h : Good o p s) : OutGood o p (execShareWindow c s) :=
  outgood_next (good_modCell h _ (fun _ h1 => cgood_with h1))

theorem outgood_execConveyorItemWrite {c : CellId} {q : BitVec 4} {p1 : Producer} {s : State} (h : Good o p s) :
    OutGood o p (execConveyorItemWrite c q p1 s) := by
  unfold execConveyorItemWrite
  split
  · split
    · exact outgood_ite (fun _ => outgood_next (good_pump h)) (fun _ => outgood_next h)
    · exact outgood_next h
  · split
    · exact outgood_ite (fun _ => outgood_next (good_microTransfer h)) (fun _ => outgood_next h)
    · exact outgood_next h
  · exact outgood_next h

theorem outgood_execEngineInstructionComplete {c : CellId} {s : State} (h : Good o p s) : OutGood o p
    (execEngineInstructionComplete c s) := by
  unfold execEngineInstructionComplete
  split
  · exact outgood_ite (fun _ => outgood_next (good_drive h)) (fun _ => outgood_next h)
  · exact outgood_next h

/-! ### Machine/Flagen.lean -/

theorem good_setIf {s : State} (h : Good o p s) {p1 : Nat} {i st reason : Nat} : Good o p (s.setIf p1 i st
    reason) :=
  good_putFreg h

theorem good_startIf {s : State} (h : Good o p s) {p1 : Nat} {i : Nat} : Good o p (s.startIf p1 i) :=
  good_setIf h

theorem good_faultIf {s : State} (h : Good o p s) {p1 : Nat} {i reason : Nat} : Good o p (s.faultIf p1 i reason)
    :=
  good_count (good_setIf h)

theorem good_refreshPort {s : State} (h : Good o p s) {p1 : Nat} {again : Bool} : Good o p (s.refreshPort p1
    again) :=
  good_foldl _ h (fun _ _ h1 => good_ite (fun _ => good_setIf h1) (fun _ => good_ite (fun _ => good_startIf h1) (fun
    _ => h1)))

theorem good_askRoute {s : State} (h : Good o p s) {node : Nat} : Good o p (s.askRoute node) :=
  good_ite (fun _ => h) (fun _ => good_ite (fun _ => good_wakeFor (good_recall h)) (fun _ => (good_recall h)))

theorem good_setCtx {s : State} (h : Good o p s) {node : Nat} {x : Ctx} : Good o p (s.setCtx node x) :=
  good_of_core h

theorem good_touchCtx {s : State} (h : Good o p s) {node : Nat} : Good o p (s.touchCtx node).1 := by
  unfold State.touchCtx
  refine good_ite_fst (fun _ => good_of_core h) (fun _ => ?_)
  refine good_ite_fst (fun _ => good_count (good_of_core h)) (fun _ => ?_)
  split
  · exact good_count (good_of_core h)
  · exact good_of_core h

theorem good_unfull {s : State} (h : Good o p s) {node : Nat} : Good o p (s.unfull node) :=
  good_of_core h

theorem good_emit {s : State} (h : Good o p s) {k : Nat} {node psn : Nat} {f : FrameOut} {apsn : Option Nat} :
    Good o p (s.emit k node psn f apsn) :=
  good_ite (fun _ => good_of_core (good_count h)) (fun _ => good_draw (good_of_core (good_count h)))

theorem good_emitPlain {s : State} (h : Good o p s) {node : Nat} {f : FrameOut} {apsn : Option Nat} : Good o p
    (s.emitPlain node f apsn) := by
  unfold State.emitPlain
  refine good_ite (fun _ => h) (fun _ => ?_)
  split
  · exact good_emit h
  · exact h

theorem good_resend {s : State} (h : Good o p s) {k : Nat} {node : Nat} {u : Sent} : Good o p (s.resend k node
    u) :=
  good_ite (fun _ => good_count (good_count (good_emit h))) (fun _ => (good_count (good_emit h)))

theorem good_resendList {node : Nat} {l : List Sent} {s : State} (h : Good o p s) : Good o p (State.resendList
    node l s).1 := by
  induction l generalizing node s with
  | nil =>
    unfold State.resendList
    exact h
  | cons a l ih =>
    unfold State.resendList
    dsimp only
    split
    · exact (ih (good_resend h))
    · exact (ih h)

theorem good_resendDue {s : State} (h : Good o p s) {node : Nat} : Good o p (s.resendDue node) :=
  good_ite (fun _ => good_setCtx (good_resendList h)) (fun _ => h)

theorem good_pumpCtx {node n : Nat} {s : State} (h : Good o p s) : Good o p (State.pumpCtx node n s) := by
  induction n generalizing node s with
  | zero =>
    unfold State.pumpCtx
    exact h
  | succ n ih =>
    unfold State.pumpCtx
    dsimp only
    split
    · exact good_ite (fun _ => good_ite (fun _ => (good_touchCtx h)) (fun _ => ih (good_setCtx (good_ite (fun _ =>
        good_count (good_emit (good_touchCtx h))) (fun _ => (good_emit (good_touchCtx h))))))) (fun _ => h)
    · exact h

theorem good_flushNode {s : State} (h : Good o p s) {node : Nat} : Good o p (s.flushNode node) :=
  good_pumpCtx (good_resendDue (good_ite (fun _ => good_askRoute h) (fun _ => h)))

theorem good_flushAll {s : State} (h : Good o p s) : Good o p s.flushAll :=
  good_foldl _ h (fun _ _ h1 => good_ite (fun _ => good_flushNode h1) (fun _ => h1))

theorem good_sendHello {s : State} (h : Good o p s) {node : Nat} : Good o p (s.sendHello node) :=
  good_ite (fun _ => good_emitPlain (good_touchCtx (good_askRoute h))) (fun _ => (good_touchCtx (good_askRoute h)))

theorem good_pumpFull {s : State} (h : Good o p s) : Good o p s.pumpFull :=
  good_foldl _ h (fun _ _ h1 => good_ite (fun _ => good_sendHello h1) (fun _ => good_ite (fun _ => good_unfull h1)
    (fun _ => good_flushNode h1)))

theorem good_ctxUp {s : State} (h : Good o p s) {node : Nat} : Good o p (s.ctxUp node) := by
  unfold State.ctxUp
  exact good_flushNode (good_setCtx h)

theorem good_startHello {s : State} (h : Good o p s) {node : Nat} {queue : List FrameOut} : Good o p
    (s.startHello node queue) :=
  good_sendHello (good_unfull (good_setCtx h))

theorem good_sendFrame {s : State} (h : Good o p s) {node : Nat} {f : FrameOut} : Good o p (s.sendFrame node f)
    := by
  unfold State.sendFrame
  refine good_ite (fun _ => h) (fun _ => ?_)
  split
  · exact good_startHello h
  · exact good_startHello h
  · exact good_setCtx h
  · exact good_flushNode (good_setCtx h)

theorem good_sendFrames {s : State} (h : Good o p s) {node : Nat} {fs : List FrameOut} : Good o p (s.sendFrames
    node fs) :=
  good_foldl _ h (fun _ _ h1 => good_sendFrame h1)

theorem good_dropFrame {s : State} (h : Good o p s) : Good o p s.dropFrame :=
  good_count h

theorem good_sendAck {s : State} (h : Good o p s) {node : Nat} : Good o p (s.sendAck node) :=
  good_ite (fun _ => h) (fun _ => good_pumpFull (good_emitPlain (good_setCtx h)))

theorem good_takeAck {s : State} (h : Good o p s) {node : Nat} {a : Nat} {map : BitVec 256} {ce : Nat} : Good o
    p (s.takeAck node a map ce) :=
  good_pumpFull (good_flushNode (good_setCtx h))

theorem good_countCe {s : State} (hs : Good o p s) {h : FrameIn} : Good o p (s.countCe h) :=
  good_ite (fun _ => good_count hs) (fun _ => hs)

theorem good_setClash {s : State} (h : Good o p s) {node : Nat} {old : Option Nat} : Good o p (s.setClash node
    old) :=
  good_of_core h

theorem rxgood_arrive {s : State} (hs : Good o p s) {h : FrameIn} {seq : Bool} {len : Nat} : RxGood o p
    (s.arrive h seq len) := by
  unfold State.arrive
  extract_lets +onlyGivenNames _
  refine rxgood_ite (fun _ => rxgood_dropped hs) (fun _ => ?_)
  refine rxgood_ite (fun _ => rxgood_dropped (good_dropFrame hs)) (fun _ => ?_)
  extract_lets +onlyGivenNames s1 _
  have hs1 : Good o p s1 := good_countCe hs
  refine rxgood_ite (fun _ => rxgood_dropped hs1) (fun _ => ?_)
  refine rxgood_ite (fun _ => rxgood_peerReset hs1) (fun _ => ?_)
  extract_lets +onlyGivenNames t
  have ht : Good o p t.1 := good_touchCtx hs1
  refine rxgood_ite (fun _ => rxgood_dropped hs1) (fun _ => ?_)
  extract_lets +onlyGivenNames s2 s3
  have hs2 : Good o p s2 := ht
  have hs3 : Good o p s3 := by
    unfold s3
    split
    · exact good_takeAck hs2
    · exact hs2
  refine rxgood_ite (fun _ => rxgood_taken (good_count hs3)) (fun _ => ?_)
  split
  · exact rxgood_dropped hs3
  · extract_lets +onlyGivenNames _ s4
    have hs4 : Good o p s4 := good_count (good_setCtx hs3)
    exact rxgood_taken (good_ite (fun _ => good_sendAck hs4) (fun _ => hs4))

theorem good_helloDone {s : State} (h : Good o p s) {node : Nat} : Good o p (s.helloDone node) :=
  good_ite (fun _ => good_ctxUp h) (fun _ => h)

theorem hellogood_hello {s : State} (hs : Good o p s) {h : FrameIn} {hi : HelloIn} : HelloGood o p (s.hello h
    hi) := by
  unfold State.hello
  extract_lets +onlyGivenNames _
  refine hellogood_ite (fun _ => hellogood_done hs) (fun _ => ?_)
  refine hellogood_ite (fun _ => hellogood_done (good_dropFrame hs)) (fun _ => ?_)
  extract_lets +onlyGivenNames s1 t
  have hs1 : Good o p s1 := good_countCe hs
  have ht : Good o p t.1 := good_touchCtx hs1
  refine hellogood_ite (fun _ => hellogood_done hs1) (fun _ => ?_)
  extract_lets +onlyGivenNames _ ack join got
  have hack : ∀ (s : State), Good o p s → Good o p (ack s) := fun _ h4 => good_emitPlain h4
  have hjoin : ∀ (s : State), Good o p s → Good o p (join s) := fun _ h4 => hack _ (good_helloDone (good_setCtx h4))
  have hgot : Good o p got := good_count ht
  refine hellogood_ite (fun _ => hellogood_done (hjoin _ (good_startHello (good_setClash hgot)))) (fun _ => ?_)
  split
  · exact hellogood_done (hjoin _ (good_startHello hgot))
  · exact hellogood_done (hjoin _ (good_startHello hgot))
  · exact hellogood_ite (fun _ => hellogood_done (good_setClash (good_orFreg hgot))) (fun _ => hellogood_done (hjoin
      _ hgot))
  · exact hellogood_ite (fun _ => hellogood_peerReset (hjoin _ (good_startHello hgot))) (fun _ => hellogood_done
      (hack _ hgot))

theorem good_loseCtx {s : State} (h : Good o p s) {node : Nat} : Good o p (s.loseCtx node) := by
  unfold State.loseCtx
  exact good_logEvent (good_orFreg (good_count (good_unfull (good_setCtx h))))

theorem good_retransmit {s : State} (h : Good o p s) {node : Nat} : Good o p (s.retransmit node).1 := by
  unfold State.retransmit
  extract_lets +onlyGivenNames idle s1 x
  have hs1 : Good o p s1 := good_flushNode h
  clear_value idle s1 x
  refine good_ite_fst (fun _ => hs1) (fun _ => ?_)
  extract_lets +onlyGivenNames s2 x1 s3
  have hs2 : Good o p s2 := good_count hs1
  have hs3 : Good o p s3 := good_setCtx hs2
  clear_value s2 x1 s3
  refine good_ite_fst (fun _ => hs3) (fun _ => ?_)
  split
  · exact good_resendDue (good_setCtx hs3)
  · exact hs3

/-! ### Machine/Parade.lean -/

theorem hgood_ceAccess {α : Type} {s : State} (h : Good o p s) {who : Nat} {a : Access} {k : State → AccRes α}
    (hk : ∀ (a : State), Good o p a → AGood o p (k a)) : HGood o p (s.ceAccess who a k) := by
  unfold State.ceAccess
  split
  · exact hgood_fail (good_of_core h) _ _
  · split
    · next q1 => exact hgood_ok (good_of_aok q1 (hk _ h)) _
    · next q2 => exact hgood_wait (good_of_core (good_of_await q2 (hk _ h)))
    · next q1 => exact hgood_fail (good_of_afault q1 (hk _ h)) _ _
    · next q1 => exact hgood_fail (good_of_arange q1 (hk _ h)) _ _

theorem hgood_ceReadAux {who : Nat} {cls : Fin 8} {n n1 n2 : Nat} {l : List PByte} {s : State} (h : Good o p s)
    : HGood o p (State.ceReadAux who cls n n1 n2 l s) := by
  induction n generalizing who cls n1 n2 l s with
  | zero =>
    unfold State.ceReadAux
    exact hgood_ok h _
  | succ n ih =>
    unfold State.ceReadAux
    exact hgood_ite (fun _ => hgood_ok h _) (fun _ => hgood_bind (hgood_ceAccess h (fun _ h2 => agood_vread h2))
      (fun _ h2 _ => ih h2))

theorem hgood_ceReadP {s : State} (h : Good o p s) {who : Nat} {cls : Fin 8} {va n : Nat} : HGood o p (s.ceReadP
    who cls va n) :=
  hgood_ceReadAux h

theorem hgood_ceRead {s : State} (h : Good o p s) {who : Nat} {cls : Fin 8} {va n : Nat} : HGood o p (s.ceRead
    who cls va n) :=
  hgood_bind (hgood_ceReadP h) (fun _ h1 _ => hgood_ite (fun _ => hgood_fail h1 _ _) (fun _ => hgood_ok h1 _))

theorem hgood_ceWriteAux {who : Nat} {cls : Fin 8} {n n1 : Nat} {l : List PByte} {s : State} (h : Good o p s) :
    HGood o p (State.ceWriteAux who cls n n1 l s) := by
  induction n generalizing who cls n1 l s with
  | zero =>
    unfold State.ceWriteAux
    exact hgood_ok h _
  | succ n ih =>
    unfold State.ceWriteAux
    exact hgood_ite (fun _ => hgood_ok h _) (fun _ => hgood_bind (hgood_ceAccess h (fun _ h2 => agood_vwrite h2))
      (fun _ h2 _ => ih h2))

theorem hgood_ceWrite {s : State} (h : Good o p s) {who : Nat} {cls : Fin 8} {va : Nat} {bs : List PByte} :
    HGood o p (s.ceWrite who cls va bs) :=
  hgood_ceWriteAux h

theorem hgood_ceReach {s : State} (h : Good o p s) {who : Nat} {va : Nat} : HGood o p (s.ceReach who va) := by
  unfold State.ceReach
  refine hgood_ceAccess h (fun _ h1 => ?_)
  split
  · next q => exact agood_ok (good_of_pair q (good_translate h1)) _
  · next q => exact agood_ok (good_of_pair q (good_translate h1)) _
  · next q => exact agood_wait (good_of_pair q (good_translate h1)) _
  · next q => exact agood_fault (good_of_pair q (good_translate h1)) _

theorem good_ceSpoil {cls : Fin 8} {n n1 : Nat} {l : List PByte} {s : State} (h : Good o p s) : Good o p
    (State.ceSpoil cls n n1 l s) := by
  induction n generalizing cls n1 l s with
  | zero =>
    unfold State.ceSpoil
    exact h
  | succ n ih =>
    unfold State.ceSpoil
    refine good_ite (fun _ => h) (fun _ => ?_)
    dsimp only
    refine ih ?_
    split
    · next q => exact good_of_aok q (agood_vwrite h)
    · exact h

theorem good_setInst {s : State} (h : Good o p s) {k : Fin 32} {i : Option Inst} : Good o p (s.setInst k i) :=
  good_of_core h

theorem good_ceDeliver {n : Nat} {s : State} (h : Good o p s) : Good o p (State.ceDeliver n s) := by
  induction n generalizing s with
  | zero =>
    unfold State.ceDeliver
    exact h
  | succ n ih =>
    unfold State.ceDeliver
    split
    · exact h
    · extract_lets +onlyGivenNames next
      have hnext : ∀ (s : State), Good o p s → Good o p (next s) := fun _ h1 => ih (good_of_core h1)
      refine good_ite (fun _ => hnext _ (good_refuseDelivery h)) (fun _ => ?_)
      split
      · next q1 => exact good_of_dwait q1 (delgood_deliverLayer h (fun _ h2 _ => hgood_ok h2 _))
      · next q1 =>
          exact hnext _ (good_of_drefused q1 (delgood_deliverLayer h (fun _ h2 _ => hgood_ok h2 _)))
      · next q1 =>
          exact hnext _ (good_of_daccepted q1 (delgood_deliverLayer h (fun _ h2 _ => hgood_ok h2 _)))

theorem good_pumpDeliver {s : State} (h : Good o p s) : Good o p s.pumpDeliver :=
  good_ceDeliver h

theorem good_closeInst {s : State} (h : Good o p s) {k : Fin 32} {i : Inst} {status rank : Nat} {word :
    StatusWord} {nf : Bool} : Good o p (s.closeInst k i status rank word nf) := by
  unfold State.closeInst
  extract_lets +onlyGivenNames _ s1 s2 s3 s4 _ s6
  have hs1 : Good o p s1 := good_ite (fun _ => h) (fun _ => good_logEvent h)
  have hs2 : Good o p s2 := good_ite (fun _ => good_count hs1) (fun _ => good_ite (fun _ => hs1) (fun _ =>
    good_logEvent (good_orFreg (good_count hs1))))
  have hs3 : Good o p s3 := good_ite (fun _ => good_hostEvent hs2) (fun _ => hs2)
  have hs4 : Good o p s4 := good_setInst hs3
  have hs6 : Good o p s6 := good_of_core hs4
  exact good_ite (fun _ => good_pumpDeliver (good_of_core hs6)) (fun _ => hs6)

theorem good_dropData {s : State} (h : Good o p s) {i : Inst} : Good o p (s.dropData i) :=
  good_foldl _ h (fun _ _ h1 => good_setCtx h1)

theorem good_sendAborts {s : State} (h : Good o p s) {i : Inst} {status rank : Nat} : Good o p (s.sendAborts i
    status rank) :=
  good_foldl _ h (fun _ _ h1 => good_ite (fun _ => h1) (fun _ => good_sendFrame h1))

theorem good_spoilDst {s : State} (h : Good o p s) {i : Inst} : Good o p (s.spoilDst i) :=
  good_ite (fun _ => good_ceSpoil (good_draw h)) (fun _ => h)

theorem good_noteFault {s : State} (h : Good o p s) {va : Nat} : Good o p (s.noteFault va) :=
  good_orFreg (good_setFreg h _ _)

theorem good_endInst {s : State} (h : Good o p s) {k : Fin 32} {i : Inst} {status rank : Nat} {word :
    StatusWord} {nf : Bool} : Good o p (s.endInst k i status rank word nf) := by
  unfold State.endInst
  extract_lets +onlyGivenNames _ _ _
  refine good_ite (fun _ => good_closeInst h) (fun _ => ?_)
  split
  · next q =>
      exact good_closeInst (good_of_ok q (hgood_bind (hgood_ceWrite h) (fun _ h2 _ => hgood_ceWrite h2)))
  · next q =>
      exact good_setInst (good_of_wait q (hgood_bind (hgood_ceWrite h) (fun _ h2 _ => hgood_ceWrite h2)))
  · next q =>
      refine good_ite (fun _ => good_closeInst (good_of_fail q (hgood_bind (hgood_ceWrite h) (fun _ h3 _ =>
        hgood_ceWrite h3)))) (fun _ => ?_)
      refine good_ite (fun _ => good_closeInst (good_noteFault (good_of_fail q (hgood_bind (hgood_ceWrite h) (fun _
        h4 _ => hgood_ceWrite h4))))) (fun _ => ?_)
      extract_lets +onlyGivenNames s2
      have hs2 : Good o p s2 := good_spoilDst (good_sendAborts (good_dropData (good_noteFault (good_of_fail q
        (hgood_bind (hgood_ceWrite h) (fun _ h4 _ => hgood_ceWrite h4))))))
      exact good_closeInst hs2

theorem good_endExchange {s : State} (h : Good o p s) {halt : Bool} : Good o p (s.endExchange halt) :=
  good_ite (fun _ => good_hostEvent (good_of_core h)) (fun _ => good_of_core h)

theorem good_abortExchange {s : State} (h : Good o p s) {status : Nat} : Good o p (s.abortExchange status) :=
  good_ite (fun _ => good_endExchange (good_logEvent (good_orFreg h))) (fun _ => h)

theorem good_abortInst {s : State} (h : Good o p s) {k : Fin 32} {status rank : Nat} : Good o p (s.abortInst k
    status rank) := by
  unfold State.abortInst
  split
  · exact h
  · exact good_ite (fun _ => h) (fun _ => good_ite (fun _ => good_abortExchange (good_endInst (good_spoilDst
      (good_sendAborts (good_dropData (good_setInst h)))))) (fun _ => (good_endInst (good_spoilDst (good_sendAborts
      (good_dropData (good_setInst h)))))))

theorem good_localFault {s : State} (h : Good o p s) {k : Fin 32} {va : Nat} : Good o p (s.localFault k va) :=
  good_abortInst (good_noteFault h)

theorem good_abortPeer {s : State} (h : Good o p s) {node : Nat} {status : Nat} : Good o p (s.abortPeer node
    status) := by
  unfold State.abortPeer
  refine good_foldl _ h (fun _ _ h1 => ?_)
  split
  · split
    · exact good_ite (fun _ => h1) (fun _ => good_abortInst h1)
    · exact h1
  · exact h1

theorem good_noticeAll {s : State} (h : Good o p s) : Good o p s.noticeAll := by
  unfold State.noticeAll
  refine good_foldl _ h (fun _ _ h1 => ?_)
  split
  · exact good_abortInst h1
  · exact h1

theorem hgood_accPages {who n n1 n2 : Nat} {s : State} (h : Good o p s) : HGood o p (State.accPages who n n1 n2
    s) := by
  induction n generalizing who n1 n2 s with
  | zero =>
    unfold State.accPages
    exact hgood_ok h _
  | succ n ih =>
    unfold State.accPages
    dsimp only
    refine hgood_ite (fun _ => hgood_ok h _) (fun _ => ?_)
    refine hgood_bind (hgood_ceReach h) (fun _ h2 _ => ?_)
    split
    · exact hgood_ite (fun _ => ih h2) (fun _ => hgood_ok h2 _)
    · exact hgood_ok h2 _

theorem hgood_accOk {s : State} (h : Good o p s) {i : Inst} : HGood o p (s.accOk i) :=
  hgood_ite (fun _ => hgood_ok h _) (fun _ => hgood_ite (fun _ => hgood_ok h _) (fun _ => hgood_accPages h))

theorem setupgood_setup {s : State} (h : Good o p s) {i : Inst} : SetupGood o p (s.setup i) := by
  unfold State.setup
  split
  · next q => exact setupgood_wait (good_of_wait q (hgood_ceRead h))
  · next q => exact setupgood_fault (good_of_fail q (hgood_ceRead h))
  · next q =>
      extract_lets +onlyGivenNames _ _
      refine setupgood_ite (fun _ => setupgood_malformed (good_of_ok q (hgood_ceRead h))) (fun _ => ?_)
      split
      · next q1 =>
          exact setupgood_wait (good_of_wait q1 (hgood_ceRead (good_of_ok q (hgood_ceRead h))))
      · next q1 =>
          exact setupgood_fault (good_of_fail q1 (hgood_ceRead (good_of_ok q (hgood_ceRead h))))
      · next q1 =>
          extract_lets +onlyGivenNames _
          refine setupgood_ite (fun _ => setupgood_malformed (good_of_ok q1 (hgood_ceRead (good_of_ok q
            (hgood_ceRead h))))) (fun _ => ?_)
          extract_lets +onlyGivenNames _
          split
          · next q2 =>
              exact setupgood_wait (good_of_wait q2 (hgood_ceRead (good_of_ok q1 (hgood_ceRead (good_of_ok q
                (hgood_ceRead h))))))
          · next q2 =>
              exact setupgood_fault (good_of_fail q2 (hgood_ceRead (good_of_ok q1 (hgood_ceRead (good_of_ok q
                (hgood_ceRead h))))))
          · next q2 =>
              extract_lets +onlyGivenNames _
              refine setupgood_ite (fun _ => setupgood_malformed (good_of_ok q2 (hgood_ceRead (good_of_ok q1
                (hgood_ceRead (good_of_ok q (hgood_ceRead h))))))) (fun _ => ?_)
              split
              · next q3 =>
                  exact setupgood_wait (good_of_wait q3 (hgood_accOk (good_of_ok q2 (hgood_ceRead (good_of_ok q1
                    (hgood_ceRead (good_of_ok q (hgood_ceRead h))))))))
              · next q3 =>
                  exact setupgood_fault (good_of_fail q3 (hgood_accOk (good_of_ok q2 (hgood_ceRead (good_of_ok q1
                    (hgood_ceRead (good_of_ok q (hgood_ceRead h))))))))
              · next q3 =>
                  refine setupgood_ite (fun _ => setupgood_malformed (good_of_ok q3 (hgood_accOk (good_of_ok q2
                    (hgood_ceRead (good_of_ok q1 (hgood_ceRead (good_of_ok q (hgood_ceRead h))))))))) (fun _ => ?_)
                  split
                  · next q4 =>
                      exact setupgood_wait (good_of_wait q4 (hgood_ceReadP (good_of_ok q3 (hgood_accOk (good_of_ok
                        q2 (hgood_ceRead (good_of_ok q1 (hgood_ceRead (good_of_ok q (hgood_ceRead h))))))))))
                  · next q4 =>
                      exact setupgood_fault (good_of_fail q4 (hgood_ceReadP (good_of_ok q3 (hgood_accOk (good_of_ok
                        q2 (hgood_ceRead (good_of_ok q1 (hgood_ceRead (good_of_ok q (hgood_ceRead h))))))))))
                  · next q4 =>
                      exact setupgood_ok (good_of_ok q4 (hgood_ceReadP (good_of_ok q3 (hgood_accOk (good_of_ok q2
                        (hgood_ceRead (good_of_ok q1 (hgood_ceRead (good_of_ok q (hgood_ceRead h))))))))))

theorem good_feedRank {s : State} (h : Good o p s) {k : Fin 32} {r : Nat} : Good o p (s.feedRank k r) := by
  unfold State.feedRank
  split
  · exact h
  · exact good_ite (fun _ => h) (fun _ => good_sendFrames (good_setInst h))

theorem good_feedInst {s : State} (h : Good o p s) {k : Fin 32} : Good o p (s.feedInst k) := by
  unfold State.feedInst
  split
  · exact h
  · exact good_ite (fun _ => good_foldl _ h (fun _ _ h2 => good_feedRank h2)) (fun _ => h)

theorem good_checkReady {s : State} (h : Good o p s) {k : Fin 32} : Good o p (s.checkReady k) := by
  unfold State.checkReady
  split
  · exact h
  · refine good_ite (fun _ => h) (fun _ => ?_)
    split
    · exact good_abortInst (good_orFreg h)
    · exact good_feedInst h

theorem good_slowInst {s : State} (h : Good o p s) {k : Fin 32} : Good o p (s.slowInst k) := by
  unfold State.slowInst
  split
  · exact good_ite (fun _ => good_count (good_setInst h)) (fun _ => h)
  · exact h

theorem good_readyInst {s : State} (h : Good o p s) {k : Fin 32} : Good o p (s.readyInst k) := by
  unfold State.readyInst
  split
  · exact h
  · exact good_checkReady (good_foldl _ (good_ite (fun _ => good_slowInst h) (fun _ => h)) (fun _ _ h1 =>
      good_sendFrame h1))

theorem good_beginInst {s : State} (h : Good o p s) {k : Fin 32} : Good o p (s.beginInst k) := by
  unfold State.beginInst
  split
  · exact h
  · refine good_ite (fun _ => h) (fun _ => ?_)
    split
    · next q1 => exact good_setInst (good_of_setwait q1 (setupgood_setup h))
    · next q1 => exact good_localFault (good_setInst (good_of_setfault q1 (setupgood_setup h)))
    · next q1 => exact good_endInst (good_of_setbad q1 (setupgood_setup h))
    · next q1 =>
        exact good_readyInst (good_setInst (good_draw (good_of_setok q1 (setupgood_setup h))))

theorem good_dropHeld {s : State} (h : Good o p s) {cid : Nat} {cseq : Nat} : Good o p (s.dropHeld cid cseq) :=
  good_of_core h

theorem good_takeSlot {s : State} (h : Good o p s) {k : Fin 32} {cid cseq : Nat} : Good o p (s.takeSlot k cid
    cseq) :=
  good_beginInst (good_setInst (good_dropHeld h))

theorem good_startWaiting {n : Nat} {s : State} (h : Good o p s) : Good o p (State.startWaiting n s) := by
  induction n generalizing s with
  | zero =>
    unfold State.startWaiting
    exact h
  | succ n ih =>
    unfold State.startWaiting
    dsimp only
    split
    · exact good_ite (fun _ => h) (fun _ => ih (good_ite (fun _ => good_takeSlot (good_of_core h)) (fun _ =>
        (good_of_core h))))
    · exact h

theorem good_startOwn {s : State} (h : Good o p s) : Good o p s.startOwn := by
  unfold State.startOwn
  split
  · exact good_ite (fun _ => h) (fun _ => good_readyInst (good_setInst (good_dropHeld (good_of_core h))))
  · exact h

theorem good_pumpSlots {s : State} (h : Good o p s) : Good o p s.pumpSlots :=
  good_startWaiting (good_startOwn h)

theorem good_trigger {s : State} (h : Good o p s) {cid : Nat} : Good o p (s.trigger cid) := by
  unfold State.trigger
  split
  · exact good_pumpSlots (good_beginInst h)
  · split
    · exact h
    · refine good_ite (fun _ => good_pumpSlots h) (fun _ => ?_)
      split
      · next q2 =>
          exact good_of_wait q2 (hgood_bind (hgood_ceRead h) (fun _ h2 _ => hgood_ceRead h2))
      · next q2 =>
          exact good_of_fail q2 (hgood_bind (hgood_ceRead h) (fun _ h2 _ => hgood_ceRead h2))
      · next q2 =>
          exact good_ite (fun _ => good_of_ok q2 (hgood_bind (hgood_ceRead h) (fun _ h3 _ => hgood_ceRead h3))) (fun
            _ => good_pumpSlots (good_of_core (good_of_ok q2 (hgood_bind (hgood_ceRead h) (fun _ h3 _ =>
            hgood_ceRead h3)))))

theorem hgood_accWrite {i : Inst} {fuel va : Nat} {bs : List PByte} {s : State} (h : Good o p s) :
    HGood o p (State.accWrite i fuel va bs s) := by
  induction fuel generalizing va bs s with
  | zero => exact hgood_ok h _
  | succ fuel ih =>
    unfold State.accWrite
    refine hgood_ite (fun _ => hgood_ok h _) (fun _ => hgood_bind (hgood_ceReach h) (fun t ht a => ?_))
    cases a with
    | none => exact hgood_fail ht _ _
    | some q =>
      dsimp -zeta only
      extract_lets off m r
      have hr : RedGood o p r := redgood_ite (fun _ => redgood_contribute ht) (fun _ => redgood_rejectRed ht)
      clear_value r
      cases r with
      | accepted t => exact ih hr
      | wait t w => exact hgood_wait hr
      | refused t w => exact hgood_fail hr _ _

theorem hgood_accReach {who n n1 n2 : Nat} {s : State} (h : Good o p s) : HGood o p (State.accReach who n n1 n2
    s) := by
  induction n generalizing who n1 n2 s with
  | zero =>
    unfold State.accReach
    exact hgood_ok h _
  | succ n ih =>
    unfold State.accReach
    exact hgood_ite (fun _ => hgood_ok h _) (fun _ => hgood_bind (hgood_ceReach h) (fun _ h2 _ => ih h2))

theorem hgood_writeResult {s : State} (h : Good o p s) {i : Inst} {bs : List PByte} : HGood o p (s.writeResult i
    bs) := by
  unfold State.writeResult
  refine hgood_ite (fun _ => ?_) (fun _ => hgood_ceWrite h)
  refine hgood_bind (hgood_accReach h) (fun _ h2 _ => ?_)
  split
  · exact hgood_wait h2
  · exact hgood_accWrite h2

theorem good_countRed {s : State} (h : Good o p s) {i : Inst} {rs : List RedElem} : Good o p (s.countRed i rs)
    :=
  good_count (good_count (good_count h))

theorem good_noteNfOffset {s : State} (h : Good o p s) {i : Inst} {nf : Option Nat} : Good o p (match nf with
    | none => s
    | some e =>
      let s := if bitB (s.freg FR.CE_NF_OFFSET) 63 then s
        else s.setFreg FR.CE_NF_OFFSET (2 ^ 63 + i.cid * 2 ^ 48 + e)
      if i.harvest then s.orFreg FR.HV_STATUS 0x400 else s) := by
  cases nf with
  | none => exact h
  | some e =>
    have hoff := good_ite (c := bitB (s.freg FR.CE_NF_OFFSET) 63 = true) (fun _ => h)
      (fun _ => good_setFreg h FR.CE_NF_OFFSET (2 ^ 63 + i.cid * 2 ^ 48 + e))
    exact good_ite (fun _ => good_orFreg hoff) (fun _ => hoff)

theorem good_completeInst {s : State} (h : Good o p s) {k : Fin 32} : Good o p (s.completeInst k) := by
  unfold State.completeInst
  split
  · exact h
  refine good_ite (fun _ => good_pumpSlots h) (fun _ => ?_)
  split
  · exact good_pumpSlots (good_endInst h)
  refine good_ite (fun _ => good_pumpSlots (good_beginInst h)) (fun _ => good_ite (fun _ => h) (fun _ => ?_))
  extract_lets +onlyGivenNames r bs
  have hw : HGood o p (s.writeResult ‹Inst› bs) := hgood_writeResult h
  clear_value r bs
  split
  · next q => exact good_of_wait q hw
  · next q => exact good_pumpSlots (good_localFault (good_of_fail q hw))
  · next t q =>
    have ht : Good o p t := good_of_ok q hw
    exact good_pumpSlots (good_endInst (good_noteNfOffset (good_ite (fun _ => good_countRed ht) (fun _ => ht))))

theorem good_armDesc {s : State} (h : Good o p s) {cid : Nat} {first : Nat} : Good o p (s.armDesc cid first) :=
  good_ite (fun _ => h) (fun _ => good_ite (fun _ => good_orFreg h) (fun _ => good_of_core h))

theorem good_disarmDesc {s : State} (h : Good o p s) {cid : Nat} : Good o p (s.disarmDesc cid) :=
  good_ite (fun _ => good_of_core h) (fun _ => good_of_core h)

theorem good_swAbort {s : State} (h : Good o p s) {cid : Nat} : Good o p (s.swAbort cid) := by
  unfold State.swAbort
  split
  · exact h
  · split
    · exact h
    · exact good_pumpSlots (good_abortInst h)

theorem good_detach {s : State} (h : Good o p s) {k : Fin 32} {r : Nat} {timed : Bool} : Good o p (s.detach k r
    timed) := by
  unfold State.detach
  split
  · exact h
  · exact good_ite (fun _ => good_logEvent (good_count (good_setInst (good_setCtx h)))) (fun _ => h)

theorem good_takeData {s : State} (hs : Good o p s) {h : FrameIn} {bs : List PByte} : Good o p (s.takeData h bs)
    := by
  unfold State.takeData
  split
  · exact good_dropFrame hs
  · split
    · exact hs
    · exact good_feedInst (good_setInst hs)

theorem good_takeReady {s : State} (hs : Good o p s) {h : FrameIn} {digest : Nat} : Good o p (s.takeReady h
    digest) := by
  unfold State.takeReady
  split
  · split
    · exact hs
    · exact good_checkReady (good_setInst hs)
  · exact good_ite (fun _ => good_dropFrame hs) (fun _ => good_of_core hs)

theorem good_takeAbort {s : State} (hs : Good o p s) {h : FrameIn} {status rank : Nat} : Good o p (s.takeAbort h
    status rank) := by
  unfold State.takeAbort
  split
  · exact good_dropFrame hs
  · split
    · exact hs
    · exact good_abortInst (good_setInst hs)

theorem good_resetPeer {s : State} (h : Good o p s) {node : Nat} : Good o p (s.resetPeer node) :=
  good_pumpSlots (good_abortPeer (good_startHello h))

theorem good_losePeer {s : State} (h : Good o p s) {node : Nat} : Good o p (s.losePeer node) :=
  good_pumpSlots (good_abortPeer (good_loseCtx h))

/-! ### Machine/RuleProg.lean -/

theorem hgood_progStep {s : State} (h : Good o p s) {k : Fin 16} {cls : Fin 8} {ext : Nat} {x : Cell} :
    HGood o p (progStep s k cls ext x) := by
  unfold progStep
  extract_lets +onlyGivenNames _ err
  have herr : HGood o p err := hgood_fail h _ _
  refine hgood_ite (fun _ => herr) (fun _ => hgood_bind (hgood_hvRead h) (fun _ h2 _ => ?_))
  extract_lets +onlyGivenNames err1 run
  have herr1 : HGood o p err1 := hgood_fail h2 _ _
  have hrun : ∀ (s : State), Good o p s → ∀ (i : Ins), HGood o p (run s i) := by
    unfold run
    intro _ h3 _
    extract_lets +onlyGivenNames _ _
    split
    · exact herr1
    · exact hgood_ok h3 _
    · exact herr1
  split
  · exact herr1
  · exact hrun _ h2 _
  · exact hgood_ite (fun _ => herr1) (fun _ => hgood_bind (hgood_hvRead h2) (fun _ h4 _ => hrun _ h4 _))

theorem hgood_progRun {k : Fin 16} {cls : Fin 8} {ext n : Nat} {x : Cell} {s : State} (h : Good o p s) :
    HGood o p (progRun k cls ext n x s) := by
  induction n generalizing x s with
  | zero => exact hgood_fail h _ _
  | succ n ih =>
    unfold progRun
    exact hgood_bind (hgood_progStep h) (fun _ h1 _ => hgood_ite (fun _ => hgood_ok h1 _) (fun _ => ih h1))

/-! ### Machine/Update.lean -/

theorem hgood_readTensor {s : State} (h : Good o p s) {k : Fin 16} {e : Entry} {kind v j n : Nat} : HGood o p
    (s.readTensor k e kind v j n) :=
  hgood_ite (fun _ => hgood_hvRead h) (fun _ => hgood_ok h _)

theorem hgood_writeTensor {s : State} (h : Good o p s) {k : Fin 16} {e : Entry} {kind v j : Nat} {bs : List
    Byte} : HGood o p (s.writeTensor k e kind v j bs) :=
  hgood_ite (fun _ => hgood_hvWrite h) (fun _ => hgood_ok h _)

theorem hgood_readKinds {s : State} (h : Good o p s) {k : Fin 16} {e : Entry} {v j : Nat} {l : List Nat} : HGood
    o p (s.readKinds k e v j l) := by
  induction l generalizing s k e v j with
  | nil =>
    unfold State.readKinds
    exact hgood_ok h _
  | cons a l ih =>
    unfold State.readKinds
    exact hgood_bind (hgood_readTensor h) (fun _ h1 _ => hgood_bind (ih h1) (fun _ h2 _ => hgood_ok h2 _))

theorem hgood_groupsBefore {l n n1 : Nat} {s : State} (h : Good o p s) : HGood o p (State.groupsBefore l n n1 s)
    := by
  induction n generalizing l n1 s with
  | zero =>
    unfold State.groupsBefore
    exact hgood_ok h _
  | succ n ih =>
    unfold State.groupsBefore
    split
    · exact ih h
    · split
      · next q1 => exact ih (good_of_ok q1 (hgood_readEntry h))
      · next q1 => exact hgood_wait (good_of_wait q1 (hgood_readEntry h))
      · next q1 => exact ih (good_of_fail q1 (hgood_readEntry h))

theorem hgood_gcrcVa {s : State} (h : Good o p s) {l : Nat} {j : Nat} {grad : Bool} : HGood o p (s.gcrcVa l j
    grad) :=
  hgood_bind (hgood_groupsBefore h) (fun _ h1 _ => hgood_ite (fun _ => hgood_bind (hgood_groupsBefore h1) (fun _ h3
    _ => hgood_ok h3 _)) (fun _ => hgood_ok h1 _))

theorem hgood_readGcrcs {s : State} (h : Good o p s) {l : Nat} {j n : Nat} {grad : Bool} : HGood o p
    (s.readGcrcs l j n grad) :=
  hgood_bind (hgood_gcrcVa h) (fun _ h1 _ => hgood_bind (hgood_hvRead h1) (fun _ h2 _ => hgood_ok h2 _))

theorem hgood_writeGcrc {s : State} (h : Good o p s) {l : Nat} {j : Nat} {grad : Bool} {bs : List Byte} : HGood
    o p (s.writeGcrc l j grad bs) :=
  hgood_bind (hgood_gcrcVa h) (fun _ h1 _ => hgood_hvWrite h1)

theorem hgood_hvElems {s : State} (h : Good o p s) {k : Fin 16} {cls : Fin 8} {va es n : Nat} : HGood o p
    (s.hvElems k cls va es n) :=
  hgood_bind (hgood_hvRead h) (fun _ h1 _ => hgood_ok h1 _)

theorem hgood_hvElemsIf {s : State} (h : Good o p s) {used : Bool} {k : Fin 16} {cls : Fin 8} {va es n : Nat} :
    HGood o p (s.hvElemsIf used k cls va es n) :=
  hgood_ite (fun _ => hgood_hvElems h) (fun _ => hgood_ok h _)

theorem hgood_groupUnit {s : State} (h : Good o p s) {e : Entry} {j : Nat} : HGood o p (s.groupUnit e j) := by
  unfold State.groupUnit
  extract_lets +onlyGivenNames _
  refine hgood_hvAccess h (fun _ h1 => ?_)
  extract_lets +onlyGivenNames r
  have hr : Good o p r.1 := good_translate h1
  split
  · exact agood_ok hr _
  · exact agood_ok hr _
  · exact agood_fault hr _
  · exact agood_wait hr _

theorem hgood_orthoPhase {s : State} (h : Good o p s) {k : Fin 16} {d : Delivered} {v : Nat} : HGood o p
    (s.orthoPhase k d v) :=
  hgood_bind (hgood_hvElems h) (fun _ h1 _ => hgood_bind (hgood_hvElems h1) (fun _ h2 _ => hgood_ok h2 _))

theorem hgood_kronPhase {s : State} (h : Good o p s) {k : Fin 16} {d : Delivered} {v : Nat} : HGood o p
    (s.kronPhase k d v) :=
  hgood_bind (hgood_hvElems h) (fun _ h1 _ => hgood_bind (hgood_hvElems h1) (fun _ h2 _ => hgood_bind (hgood_hvElems
    h2) (fun _ h3 _ => hgood_bind (hgood_hvElems h3) (fun _ h4 _ => hgood_bind (hgood_hvElems h4) (fun _ h5 _ =>
    hgood_bind (hgood_hvElems h5) (fun _ h6 _ => hgood_ok h6 _))))))

theorem hgood_matPhase {s : State} (h : Good o p s) {k : Fin 16} {d : Delivered} {v : Nat} : HGood o p
    (s.matPhase k d v) := by
  unfold State.matPhase
  split
  · exact hgood_orthoPhase h
  · exact hgood_kronPhase h
  · exact hgood_ok h _

theorem hgood_programGroup {s : State} (h : Good o p s) {k : Fin 16} {d : Delivered} {j kf : Nat} {g mst comp s0
    s1 : List Nat} : HGood o p (s.programGroup k d j kf g mst comp s0 s1) :=
  hgood_bind (hgood_progRun (good_draw h)) (fun _ h1 _ => hgood_ok h1 _)

theorem good_countUnit {s : State} (h : Good o p s) {k : Nat} {c : FlagCounts} : Good o p (s.countUnit k c) :=
  good_count (good_count (good_count h))

theorem hgood_writeMats {k : Fin 16} {cls : Fin 8} {l : List (Nat × List Nat)} {s : State} (h : Good o p s) :
    HGood o p (State.writeMats k cls l s) := by
  induction l generalizing k cls s with
  | nil =>
    unfold State.writeMats
    exact hgood_ok h _
  | cons a l ih =>
    unfold State.writeMats
    exact hgood_bind (hgood_hvWrite h) (fun _ h1 _ => ih h1)

theorem hgood_writeKinds {k : Fin 16} {e : Entry} {v j : Nat} {o1 : GroupOut} {l : List Nat} {s : State} (h :
    Good o p s) : HGood o p (State.writeKinds k e v j o1 l s) := by
  induction l generalizing k e v j o1 s with
  | nil =>
    unfold State.writeKinds
    exact hgood_ok h _
  | cons a l ih =>
    unfold State.writeKinds
    exact hgood_bind (hgood_writeTensor h) (fun _ h1 _ => ih h1)

theorem hgood_writeGroup {s : State} (h : Good o p s) {k : Fin 16} {e : Entry} {v j : Nat} {o1 : GroupOut} :
    HGood o p (s.writeGroup k e v j o1) :=
  hgood_bind (hgood_writeKinds h) (fun _ h1 _ => hgood_hvWrite h1)

theorem hgood_formDx {s : State} (h : Good o p s) {k : Fin 16} {l j : Nat} {ts : List (Nat × List Byte × List
    Byte)} : HGood o p (s.formDx k l j ts) := by
  unfold State.formDx
  refine hgood_ite (fun _ => hgood_ok h _) (fun _ => ?_)
  extract_lets +onlyGivenNames _ _ _ _ lost
  have hlost : ∀ (s : State), Good o p s → HGood o p (lost s) := fun _ h2 => hgood_ok (good_of_core h2) _
  refine hgood_ite (fun _ => hlost _ h) (fun _ => ?_)
  split
  · next q => exact hgood_ok (good_of_core (good_of_ok q (hgood_hvWrite (good_draw h)))) _
  · next q => exact hgood_wait (good_of_wait q (hgood_hvWrite (good_draw h)))
  · next q => exact hlost _ (good_of_fail q (hgood_hvWrite (good_draw h)))

theorem good_keepCrc {s : State} (h : Good o p s) {l : Nat} {j pend : Nat} {grad : Option Nat} : Good o p
    (s.keepCrc l j pend grad) :=
  good_of_core h

theorem hgood_runGroup {s : State} (h : Good o p s) {k : Fin 16} {d : Delivered} {j : Nat} : HGood o p
    (s.runGroup k d j) := by
  unfold State.runGroup
  extract_lets +onlyGivenNames _ _ _ _ _
  refine hgood_bind (hgood_hvRead h) (fun _ h1 _ => ?_)
  refine hgood_bind (hgood_hvElems h1) (fun _ h2 _ => ?_)
  refine hgood_bind (hgood_hvElemsIf h2) (fun _ h3 _ => ?_)
  refine hgood_bind (hgood_hvElemsIf h3) (fun _ h4 _ => ?_)
  refine hgood_bind (hgood_hvElemsIf h4) (fun _ h5 _ => ?_)
  refine hgood_bind (hgood_matPhase h5) (fun _ h6 _ => ?_)
  extract_lets +onlyGivenNames _ _
  refine hgood_bind (hgood_ite (fun _ => hgood_programGroup h6) (fun _ => hgood_ok h6 _)) (fun _ h7 _ => ?_)
  refine hgood_bind (hgood_writeGroup h7) (fun _ h8 _ => ?_)
  refine hgood_bind (hgood_ite (fun _ => hgood_writeMats h8) (fun _ => hgood_ok h8 _)) (fun _ h9 _ => ?_)
  refine hgood_bind ?_ (fun _ h10 _ => ?_)
  · refine hgood_ite (fun _ => ?_) (fun _ => hgood_ok h9 _)
    extract_lets +onlyGivenNames _ _ _
    exact hgood_bind (hgood_writeGcrc h9) (fun _ h11 _ => hgood_bind (hgood_writeGcrc h11) (fun _ h12 _ =>
      hgood_formDx (good_keepCrc h12)))
  · extract_lets +onlyGivenNames s1
    have hs1 : Good o p s1 := good_countUnit h10
    exact hgood_ok (good_ite (fun _ => good_foldl _ hs1 (fun _ _ h12 => good_countUnit h12)) (fun _ => hs1)) _

theorem good_holdGroup {s : State} (h : Good o p s) {l : Nat} {g : Nat} : Good o p (s.holdGroup l g) := by
  unfold State.holdGroup
  split
  · exact good_ite (fun _ => h) (fun _ => good_count (good_of_core h))
  · exact h

theorem good_updateGroup {s : State} (h : Good o p s) {l : Nat} {g : Nat} {e : optParam MemUpset { }} : Good o p
    (s.updateGroup l g e) := by
  unfold State.updateGroup
  split
  · exact h
  · refine good_ite (fun _ => h) (fun _ => ?_)
    refine good_ite (fun _ => good_holdGroup h) (fun _ => ?_)
    split
    · next q1 => exact good_of_wait q1 (hgood_groupUnit h)
    · next q1 => exact good_failLayer (good_of_fail q1 (hgood_groupUnit h))
    · next q1 =>
        refine good_ite (fun _ => good_of_ok q1 (hgood_groupUnit h)) (fun _ => ?_)
        extract_lets +onlyGivenNames _ s3
        have hs3 : Good o p s3 := good_of_core (good_of_ok q1 (hgood_groupUnit h))
        split
        · next q2 => exact good_of_wait q2 (hgood_runGroup (good_memUpset hs3))
        · next q2 => exact good_failLayer (good_of_fail q2 (hgood_runGroup (good_memUpset hs3)))
        · next q2 =>
            extract_lets +onlyGivenNames _ s6
            have hs6 : Good o p s6 := good_of_core (good_of_ok q2 (hgood_runGroup (good_memUpset hs3)))
            exact good_hvComplete (good_count hs6)

/-! ### Machine/Commit.lean -/

theorem good_setJob {s : State} (h : Good o p s) {j : Job} : Good o p (s.setJob j) :=
  good_of_core h

theorem good_jobFault {s : State} (h : Good o p s) : Good o p s.jobFault := by
  unfold State.jobFault
  split
  · exact good_setJob h
  · exact h

theorem good_writeOut {l : List (Nat × List Byte)} {s : State} (h : Good o p s) : Good o p (State.writeOut l s)
    := by
  induction l generalizing s with
  | nil =>
    unfold State.writeOut
    exact h
  | cons a l ih =>
    unfold State.writeOut
    split
    · next q =>
        refine ih ?_
        split
        · exact good_setJob (good_of_ok q (hgood_hvWrite h))
        · exact good_of_ok q (hgood_hvWrite h)
    · next q => exact good_of_wait q (hgood_hvWrite h)
    · next q => exact good_jobFault (good_of_fail q (hgood_hvWrite h))

theorem good_oweFps {s : State} (h : Good o p s) : Good o p s.oweFps := by
  unfold State.oweFps
  split
  · exact h
  · split
    · exact h
    · split
      · next q2 => exact good_setJob (good_of_ok q2 (hgood_hvRead h))
      · next q2 => exact good_of_wait q2 (hgood_hvRead h)
      · next q2 => exact good_jobFault (good_of_fail q2 (hgood_hvRead h))

theorem good_flushJob {s : State} (h : Good o p s) : Good o p s.flushJob := by
  unfold State.flushJob
  extract_lets +onlyGivenNames s1
  have hs1 : Good o p s1 := good_oweFps h
  split
  · exact good_ite (fun _ => hs1) (fun _ => good_writeOut hs1)
  · exact hs1

theorem good_captureRec {s : State} (h : Good o p s) {j : Job} {ty : Nat} {payload : List Byte} : Good o p
    (s.captureRec j ty payload) :=
  good_flushJob (good_setJob (good_draw h))

theorem good_capture {s : State} (h : Good o p s) {ty : Nat} {payload : List Byte} : Good o p (s.capture ty
    payload) := by
  unfold State.capture
  split
  · exact h
  · exact good_ite (fun _ => h) (fun _ => good_ite (fun _ => good_setJob h) (fun _ => good_captureRec h))

theorem good_takeDecision {s : State} (h : Good o p s) : Good o p s.takeDecision := by
  unfold State.takeDecision
  extract_lets +onlyGivenNames _ _ s1 _ s2 s3 s4
  have hs1 : Good o p s1 := by
    unfold s1
    split
    · exact good_logEvent h
    · exact h
  have hs2 : Good o p s2 := good_setFreg hs1 _ _
  have hs3 : Good o p s3 := good_setFreg hs2 _ _
  have hs4 : Good o p s4 := by
    unfold s4
    split
    · exact good_count hs3
    · exact hs3
  exact good_hvComplete (good_of_core hs4)

theorem good_stepDecision {s : State} (h : Good o p s) : Good o p s.stepDecision := by
  unfold State.stepDecision
  refine good_ite (fun _ => h) (fun _ => ?_)
  split
  · next q =>
      exact good_ite (fun _ => good_takeDecision (good_of_ok q (hgood_validLayers h))) (fun _ => good_of_ok q
        (hgood_validLayers h))
  · next q => exact good_of_wait q (hgood_validLayers h)
  · next q => exact good_of_fail q (hgood_validLayers h)

theorem hgood_remakeWc {s : State} (h : Good o p s) {l : Nat} {e : Entry} {v j : Nat} {check : Bool} : HGood o p
    (s.remakeWc l e v j check) := by
  unfold State.remakeWc
  refine hgood_bind (hgood_groupUnit h) (fun _ h1 _ => ?_)
  refine hgood_bind (hgood_hvElems h1) (fun _ h2 _ => ?_)
  extract_lets +onlyGivenNames _ _
  exact hgood_ite (fun _ => hgood_bind (hgood_hvReadP h2) (fun _ h4 _ => hgood_ite (fun _ => hgood_ok h4 _) (fun _
    => hgood_bind (hgood_hvWrite h4) (fun _ h6 _ => hgood_ok (good_logEvent (good_count h6)) _)))) (fun _ =>
    hgood_hvWrite h2)

theorem hgood_remakeAll {slot : State → Nat → Nat} {check : Bool} {l : List (Nat × Nat)} {s : State} (h : Good o
    p s) : HGood o p (State.remakeAll slot check l s) := by
  induction l generalizing slot check s with
  | nil =>
    unfold State.remakeAll
    exact hgood_ok h _
  | cons a l ih =>
    unfold State.remakeAll
    split
    · exact ih h
    · split
      · next q1 => exact ih (good_of_ok q1 (hgood_remakeWc h))
      · next q1 => exact hgood_wait (good_of_wait q1 (hgood_remakeWc h))
      · next q1 => exact ih (good_of_fail q1 (hgood_remakeWc h))

theorem good_redoWc {s : State} (h : Good o p s) : Good o p s.redoWc := by
  unfold State.redoWc
  refine good_foldl _ (good_of_core h) (fun _ _ h1 => ?_)
  split
  · next q => exact good_of_ok q (hgood_remakeWc h1)
  · next q => exact good_of_core (good_of_wait q (hgood_remakeWc h1))
  · next q => exact good_of_fail q (hgood_remakeWc h1)

theorem hgood_layerFp {s : State} (h : Good o p s) {d : Delivered} {grad : Bool} : HGood o p (s.layerFp d grad)
    :=
  hgood_bind (hgood_readGcrcs h) (fun _ h1 _ => hgood_ok h1 _)

theorem hgood_fpsFrom {l n : Nat} {s : State} (h : Good o p s) : HGood o p (State.fpsFrom l n s) := by
  induction n generalizing l s with
  | zero =>
    unfold State.fpsFrom
    exact hgood_ok h _
  | succ n ih =>
    unfold State.fpsFrom
    extract_lets +onlyGivenNames go
    have hgo : ∀ (s : State), Good o p s → ∀ (v : Nat), HGood o p (go s v) := fun _ h1 _ => hgood_bind (ih h1) (fun
      _ h2 _ => hgood_ok h2 _)
    split
    · exact hgo _ h _
    · split
      · next q1 => exact hgo _ (good_of_ok q1 (hgood_layerFp h)) _
      · next q1 => exact hgood_wait (good_of_wait q1 (hgood_layerFp h))
      · next q1 => exact hgo _ (good_of_fail q1 (hgood_layerFp h)) _

theorem hgood_pendingFps {s : State} (h : Good o p s) : HGood o p s.pendingFps :=
  hgood_fpsFrom h

theorem hgood_writeFps {s : State} (h : Good o p s) {fps : List Nat} : HGood o p (s.writeFps fps) := by
  unfold State.writeFps
  split
  · next q => exact hgood_ok (good_of_fail q (hgood_hvWrite h)) _
  · exact hgood_hvWrite h

theorem good_dropStaged {s : State} (h : Good o p s) : Good o p s.dropStaged :=
  good_of_core h

theorem good_stageRecords {s : State} (h : Good o p s) {rs : List (List Byte)} : Good o p (s.stageRecords rs) :=
  good_count (good_dropStaged (good_of_core h))

theorem good_dropFormed {s : State} (h : Good o p s) : Good o p s.dropFormed :=
  good_of_core h

theorem good_releaseDx {s : State} (h : Good o p s) {fps : List Nat} {ls : Nat} : Good o p (s.releaseDx fps ls)
    := by
  unfold State.releaseDx
  extract_lets +onlyGivenNames _
  refine good_ite (fun _ => good_dropFormed h) (fun _ => ?_)
  extract_lets +onlyGivenNames _ gap
  have hgap : Good o p gap := good_stageRecords (good_count (good_orFreg (good_dropFormed h)))
  split
  · exact hgap
  · extract_lets +onlyGivenNames _
    exact good_ite (fun _ => hgap) (fun _ => good_stageRecords (good_dropFormed h))

theorem good_flipBit {s : State} (h : Good o p s) {l : Nat} : Good o p (s.flipBit l) :=
  good_setFreg h _ _

theorem good_flipLayers {s : State} (h : Good o p s) {ls : List Nat} : Good o p (s.flipLayers ls) :=
  good_foldl _ h (fun _ _ h1 => good_flipBit h1)

theorem good_captureResults {s : State} (h : Good o p s) : Good o p s.captureResults :=
  good_foldl _ (good_foldl _ h (fun _ _ h1 => good_capture h1)) (fun _ _ h1 => good_capture h1)

theorem good_endCarry {s : State} (h : Good o p s) {outcome : Nat} {held : Bool} {failed : Option (Nat × Nat)} :
    Good o p (s.endCarry outcome held failed) :=
  good_hvComplete (good_of_core (good_ite (fun _ => good_count (good_captureResults (good_dropFormed h))) (fun _ =>
    (good_captureResults (good_dropFormed h)))))

theorem good_carrySkip {s : State} (h : Good o p s) {outcome : Nat} {held : Bool} {failed : Option (Nat × Nat)}
    : Good o p (s.carrySkip outcome held failed) := by
  unfold State.carrySkip
  split
  · next q => exact good_endCarry (good_of_ok q (hgood_remakeAll h))
  · next q => exact good_of_wait q (hgood_remakeAll h)
  · next q => exact good_of_fail q (hgood_remakeAll h)

theorem good_noteCommit {s : State} (h : Good o p s) : Good o p s.noteCommit := by
  unfold State.noteCommit
  split
  · exact good_ite (fun _ => good_setJob h) (fun _ => h)
  · exact h

theorem good_carryCommit {s : State} (h : Good o p s) {outcome : Nat} : Good o p (s.carryCommit outcome) := by
  unfold State.carryCommit
  extract_lets +onlyGivenNames go
  have hgo : ∀ (s : State), Good o p s → ∀ (fps : List Nat), Good o p (go s fps) := by
    unfold go
    intro _ h1 _
    extract_lets +onlyGivenNames s2 s3 s4
    have hs2 : Good o p s2 := good_captureResults (good_releaseDx h1)
    have hs3 : Good o p s3 := good_flipLayers hs2
    have hs4 : Good o p s4 := good_noteCommit (good_count hs3)
    exact good_hvComplete (good_of_core hs4)
  refine good_ite (fun _ => ?_) (fun _ => hgo _ h _)
  split
  · next q =>
      exact hgo _ (good_of_ok q (hgood_bind (hgood_pendingFps h) (fun _ h2 _ => hgood_bind (hgood_writeFps h2) (fun
        _ h3 _ => hgood_ok h3 _)))) _
  · next q =>
      exact good_of_wait q (hgood_bind (hgood_pendingFps h) (fun _ h2 _ => hgood_bind (hgood_writeFps h2) (fun _ h3
        _ => hgood_ok h3 _)))
  · next q =>
      exact good_of_fail q (hgood_bind (hgood_pendingFps h) (fun _ h2 _ => hgood_bind (hgood_writeFps h2) (fun _ h3
        _ => hgood_ok h3 _)))

theorem good_carryReplay {s : State} (h : Good o p s) {j : Job} : Good o p (s.carryReplay j) :=
  good_carrySkip (good_setJob h)

theorem hgood_exGroup {s : State} (h : Good o p s) : HGood o p s.exGroup :=
  hgood_ite (fun _ => hgood_ok h _) (fun _ => hgood_bind (hgood_ceRead h) (fun _ h2 _ => hgood_ite (fun _ =>
    hgood_ok h2 _) (fun _ => hgood_bind (hgood_ceRead h2) (fun _ h4 _ => hgood_ok h4 _))))

theorem good_startExchange {s : State} (h : Good o p s) : Good o p s.startExchange := by
  unfold State.startExchange
  extract_lets +onlyGivenNames go
  have hgo : ∀ (s : State), Good o p s → Good o p (go s) := fun _ h1 => good_of_core h1
  split
  · next q => exact good_of_wait q (hgood_exGroup h)
  · next q => exact good_abortExchange (hgo _ (good_of_fail q (hgood_exGroup h)))
  · next q => exact good_abortExchange (hgo _ (good_of_ok q (hgood_exGroup h)))
  · next q =>
      split
      · next q1 => exact good_of_wait q1 (hgood_pendingFps (good_of_ok q (hgood_exGroup h)))
      · next q1 =>
          exact good_abortExchange (hgo _ (good_of_fail q1 (hgood_pendingFps (good_of_ok q (hgood_exGroup h)))))
      · next q1 =>
          extract_lets +onlyGivenNames _ _
          refine good_pumpSlots ?_
          extract_lets +onlyGivenNames x2
          have hx2 : Good o p x2 := hgo _ (good_of_ok q1 (hgood_pendingFps (good_of_ok q (hgood_exGroup h))))
          exact good_of_core hx2

theorem good_carryOut {s : State} (h : Good o p s) : Good o p s.carryOut := by
  unfold State.carryOut
  split
  · exact h
  refine good_ite (fun _ => h) (fun _ => ?_)
  extract_lets +onlyGivenNames settled
  split
  · exact good_ite (fun _ => good_carryReplay h) (fun _ => h)
  refine good_ite (fun _ => good_carrySkip h) (fun _ => good_ite (fun _ => h) (fun _ => ?_))
  extract_lets +onlyGivenNames outcome fin checked
  have hfin : ∀ s, Good o p s → Good o p (fin s) := by
    intro s h
    unfold fin
    split
    · exact good_carryCommit h
    · exact good_carrySkip h
  have hchecked : HGood o p checked := by
    unfold checked
    split
    · generalize s.allGroups = l
      exact hgood_remakeAll h
    · exact hgood_ok h _
  clear_value fin checked
  split
  · exact hfin _ h
  · exact hfin _ h
  · exact good_carrySkip h
  · exact h
  · exact h
  · exact h
  · cases checked with
    | wait s => exact hchecked
    | fail s r va => exact hchecked
    | ok s u => exact good_ite (fun _ => good_startExchange hchecked) (fun _ => hfin _ hchecked)

theorem good_retireMoment {s : State} (h : Good o p s) : Good o p s.retireMoment :=
  good_of_core h

theorem good_openEquinox {s : State} (h : Good o p s) {v : Word} {flt : Option FaultInfo} : Good o p
    (s.openEquinox v flt) := by
  unfold State.openEquinox
  split
  · exact good_openBarrier (good_retireMoment h)
  · dsimp only
    refine good_openBarrier ?_
    refine good_foldl _ (good_retireMoment h) (fun _ _ h1 => ?_)
    split
    · exact good_ite (fun _ => good_modCell h1 _ (fun _ h3 => cgood_faultHead h3)) (fun _ => h1)
    · exact h1

theorem good_captureEdge {s : State} (h : Good o p s) {outcome : Nat} : Good o p (s.captureEdge outcome) := by
  unfold State.captureEdge
  split
  · exact h
  · refine good_ite (fun _ => ?_) (fun _ => ?_)
    · extract_lets +onlyGivenNames s1
      have hs1 : Good o p s1 := good_ite (fun _ => h) (fun _ => good_captureRec h)
      split
      · exact good_setJob hs1
      · exact hs1
    · extract_lets +onlyGivenNames _ s1 s2
      have hs1 : Good o p s1 := good_capture (good_setJob h)
      have hs2 : Good o p s2 := by
        unfold s2
        split
        · exact good_ite (fun _ => hs1) (fun _ => good_flushJob (good_setJob hs1))
        · exact hs1
      exact good_capture hs2

theorem good_closeStep {s : State} (h : Good o p s) : Good o p s.closeStep := by
  unfold State.closeStep
  extract_lets +onlyGivenNames _ _ s1 s2 s3
  have hs1 : Good o p s1 := good_ite (fun _ => h) (fun _ => good_setFreg h _ _)
  have hs2 : Good o p s2 := good_putFreg (good_count hs1)
  have hs3 : Good o p s3 := good_captureEdge (good_of_core hs2)
  exact good_openEquinox hs3

theorem good_equinoxBarrier {s : State} (h : Good o p s) : Good o p s.equinoxBarrier :=
  good_ite (fun _ => good_ite (fun _ => good_openEquinox (good_captureEdge h)) (fun _ => h)) (fun _ => good_pumpAll
    (good_ite (fun _ => good_closeStep (good_carryOut h)) (fun _ => (good_carryOut h))))

theorem good_lendStarved {s : State} (h : Good o p s) {k : Fin 16} : Good o p (s.lendStarved k) :=
  good_ite (fun _ => good_logEvent (good_orFreg h)) (fun _ => h)

/-! ### Machine/Replica.lean -/

theorem good_passExchange {s : State} (h : Good o p s) {halt : Bool} : Good o p (s.passExchange halt) := by
  unfold State.passExchange
  dsimp only
  refine good_pumpSlots ?_
  refine good_endExchange ?_
  split
  · exact good_closeInst h
  · exact h

theorem good_exchangeAborted {s : State} (h : Good o p s) {status : Nat} : Good o p (s.exchangeAborted status)
    := by
  unfold State.exchangeAborted
  split
  · exact good_pumpSlots (good_abortInst h)
  · exact good_abortExchange (good_of_core h)

theorem good_sendOwn {s : State} (h : Good o p s) {ranks : List Nat} {bs : List Byte} : Good o p (s.sendOwn
    ranks bs) := by
  unfold State.sendOwn
  split
  · exact h
  · exact good_foldl _ (good_setInst h) (fun _ _ h1 => good_sendFrames h1)

theorem good_gatherOwn {s : State} (h : Good o p s) {me : Nat} {w : Bisect} {bs : List Byte} : Good o p
    (s.gatherOwn me w bs) :=
  good_ite (fun _ => good_sendOwn h) (fun _ => h)

theorem good_exchange {s : State} (h : Good o p s) {others : List ExRecord} {aborted : Option Nat} : Good o p
    (s.exchange others aborted) := by
  unfold State.exchange
  refine good_ite (fun _ => h) (fun _ => ?_)
  split
  · exact good_exchangeAborted h
  · exact h
  · split
    · next q1 => exact good_of_wait q1 (hgood_pendingFps h)
    · next q1 => exact good_exchangeAborted (good_of_fail q1 (hgood_pendingFps h))
    · next q1 =>
        extract_lets +onlyGivenNames _ _ _ s2 s3
        have hs2 : Good o p s2 := good_ite (fun _ => good_of_ok q1 (hgood_pendingFps h)) (fun _ => good_orFreg
          (good_of_ok q1 (hgood_pendingFps h)))
        have hs3 : Good o p s3 := good_foldl _ hs2 (fun _ _ h2 => good_logEvent h2)
        split
        · exact good_passExchange hs3
        · extract_lets +onlyGivenNames _
          exact good_of_core hs3

theorem hgood_ownWords {s : State} (h : Good o p s) {w : Bisect} : HGood o p (s.ownWords w) := by
  unfold State.ownWords
  extract_lets +onlyGivenNames quiet
  have hquiet : ∀ (r : HRes (List Nat)), HGood o p r → HGood o p (quiet r) := by
    unfold quiet
    intro _ h1
    split
    · exact hgood_ok h1 _
    · exact h1
  split
  · exact hgood_ok h _
  · exact hgood_ite (fun _ => hquiet _ (hgood_bind (hgood_readGcrcs h) (fun _ h2 _ => hgood_ok h2 _))) (fun _ =>
      hquiet _ (hgood_bind (hgood_readKinds h) (fun _ h2 _ => hgood_ok h2 _)))

theorem hgood_narrow {s : State} (h : Good o p s) {me : Nat} {w : Bisect} {r : RoundIn} : HGood o p (s.narrow me
    w r) :=
  hgood_bind (hgood_ownWords h) (fun _ h1 _ => hgood_ok (good_gatherOwn h1) _)

theorem hgood_wordsRead {l : List Bisect} {s : State} (h : Good o p s) : HGood o p (State.wordsRead l s) := by
  induction l generalizing s with
  | nil =>
    unfold State.wordsRead
    exact hgood_ok h _
  | cons a l ih =>
    unfold State.wordsRead
    exact hgood_bind (hgood_ite (fun _ => hgood_ownWords h) (fun _ => hgood_ok h _)) (fun _ h1 _ => ih h1)

theorem good_narrowAll {me : Nat} {r : RoundIn} {l : List Bisect} {s : State} (h : Good o p s) : Good o p
    (State.narrowAll me r l s).1 := by
  induction l generalizing me r s with
  | nil =>
    unfold State.narrowAll
    exact h
  | cons a l ih =>
    unfold State.narrowAll
    dsimp only
    refine ih ?_
    refine good_ite_fst (fun _ => h) (fun _ => ?_)
    split
    · next q => exact good_of_ok q (hgood_narrow h)
    · next q => exact good_of_ok q (hgood_narrow h)
    · next q => exact good_of_wait q (hgood_narrow h)
    · next q => exact good_of_fail q (hgood_narrow h)

theorem good_noteDivergence {s : State} (h : Good o p s) {w : Bisect} {kinds : Nat} {ranks : List Nat} : Good o
    p (s.noteDivergence w kinds ranks) :=
  good_foldl _ (good_ite (fun _ => (good_count (good_orFreg h))) (fun _ => good_setFreg (good_count (good_orFreg h))
    _ _)) (fun _ _ h1 => good_logEvent h1)

theorem hgood_refreshGroup {s : State} (h : Good o p s) {d : Delivered} {g : Nat} : HGood o p (s.refreshGroup d
    g) :=
  hgood_bind (hgood_remakeWc h) (fun _ h1 _ => hgood_bind (hgood_readKinds h1) (fun _ h2 _ => hgood_bind
    (hgood_readKinds h2) (fun _ h3 _ => hgood_bind (hgood_writeGcrc h3) (fun _ h4 _ => hgood_formDx (good_keepCrc
    h4)))))

theorem hgood_takeRepair {d : Delivered} {l : List (Nat × Nat × List Byte)} {l1 : List Nat} {s : State} (h :
    Good o p s) : HGood o p (State.takeRepair d l l1 s) := by
  induction l generalizing d l1 s with
  | nil =>
    unfold State.takeRepair
    exact hgood_foldl _ (hgood_ok h _) (fun _ _ h1 => hgood_bind h1 (fun _ h2 _ => hgood_bind (hgood_refreshGroup
      h2) (fun _ h3 _ => hgood_ok h3 _)))
  | cons a l ih =>
    unfold State.takeRepair
    exact hgood_bind (hgood_writeTensor h) (fun _ h1 _ => ih h1)

theorem hgood_repairBytes {d : Delivered} {l : List Nat} {l1 : List Byte} {s : State} (h : Good o p s) : HGood o
    p (State.repairBytes d l l1 s) := by
  induction l generalizing d l1 s with
  | nil =>
    unfold State.repairBytes
    exact hgood_ok h _
  | cons a l ih =>
    unfold State.repairBytes
    exact hgood_bind (hgood_readKinds h) (fun _ h1 _ => ih h1)

theorem hgood_repairGroup {s : State} (h : Good o p s) {me : Nat} {d : Delivered} {w : Bisect} {bad : List Nat}
    {whole : Bool} {r : RoundIn} : HGood o p (s.repairGroup me d w bad whole r) := by
  unfold State.repairGroup
  extract_lets +onlyGivenNames _ _
  exact hgood_bind (hgood_ite (fun _ => hgood_takeRepair h) (fun _ => hgood_ok h _)) (fun _ h1 _ => hgood_bind
    (hgood_ite (fun _ => hgood_bind (hgood_repairBytes h1) (fun _ h3 _ => hgood_ok (good_sendOwn h3) _)) (fun _ =>
    hgood_ok h1 _)) (fun _ h2 _ => hgood_bind (hgood_layerFp h2) (fun _ h3 _ => hgood_ok (good_gatherOwn h3) _)))

theorem good_noteRepair {s : State} (h : Good o p s) {w : Bisect} {whole mine : Bool} {groups : Nat} : Good o p
    (s.noteRepair w whole mine groups) :=
  good_ite (fun _ => good_orFreg (good_count (good_ite (fun _ => good_orFreg (good_of_core h)) (fun _ =>
    (good_of_core h))))) (fun _ => (good_ite (fun _ => good_orFreg (good_of_core h)) (fun _ => (good_of_core h))))

theorem hgood_locate {s : State} (h : Good o p s) {me : Nat} {w : Bisect} {r : RoundIn} : HGood o p (s.locate me
    w r) := by
  unfold State.locate
  split
  · exact hgood_ok h _
  · exact hgood_bind (hgood_ownWords h) (fun _ h1 _ => hgood_ite (fun _ => hgood_ok (good_noteDivergence
      (good_gatherOwn h1)) _) (fun _ => hgood_bind (hgood_repairGroup (good_gatherOwn h1)) (fun _ h3 _ => hgood_ok
      (good_noteRepair (good_noteDivergence h3)) _)))

theorem good_locateAll {me : Nat} {r : RoundIn} {l l1 : List Bisect} {s : State} (h : Good o p s) : Good o p
    (State.locateAll me r l l1 s).1 := by
  induction l generalizing me r l1 s with
  | nil =>
    unfold State.locateAll
    exact h
  | cons a l ih =>
    unfold State.locateAll
    split
    · next q => exact ih (good_of_ok q (hgood_locate h))
    · next q => exact ih (good_of_ok q (hgood_locate h))
    · next q => exact good_of_wait q (hgood_locate h)
    · next q => exact ih (good_of_fail q (hgood_locate h))

theorem good_bisect {s : State} (h : Good o p s) {r : RoundIn} : Good o p (s.bisect r) := by
  unfold State.bisect
  refine good_ite (fun _ => h) (fun _ => ?_)
  split
  · exact good_exchangeAborted h
  · exact h
  · extract_lets +onlyGivenNames _ _ go
    have hgo : ∀ (t : State × List Bisect), Good o p t.1 → Good o p (go t) := by
      unfold go
      intro _ h2
      extract_lets +onlyGivenNames _ s1 _ s3
      have hs1 : Good o p s1 := h2
      have hs3 : Good o p s3 := good_of_core hs1
      exact good_ite (fun _ => good_passExchange hs3) (fun _ => hs3)
    refine good_ite (fun _ => ?_) (fun _ => hgo _ (good_locateAll h))
    split
    · next q2 => exact good_of_wait q2 (hgood_wordsRead h)
    · next q2 => exact hgo _ (good_narrowAll (good_count (good_of_ok q2 (hgood_wordsRead h))))
    · next q2 => exact good_of_fail q2 (hgood_wordsRead h)

theorem good_release {s : State} (h : Good o p s) {v : Nat} : Good o p (s.release v) :=
  good_ite (fun _ => good_of_core h) (fun _ => good_orFreg h)

theorem hgood_ringWrite {s : State} (h : Good o p s) {base : Nat} {size off : Nat} {bs : List Byte} : HGood o p
    (s.ringWrite base size off bs) :=
  hgood_bind (hgood_hvWrite h) (fun _ h1 _ => hgood_hvWrite h1)

theorem hgood_ringRead {s : State} (h : Good o p s) {base : Nat} {size off n : Nat} : HGood o p (s.ringRead base
    size off n) :=
  hgood_bind (hgood_hvRead h) (fun _ h1 _ => hgood_bind (hgood_hvRead h1) (fun _ h2 _ => hgood_ok h2 _))

theorem good_sinkWrite {s : State} (h : Good o p s) {sink : Fin 2} : Good o p (s.sinkWrite sink) := by
  unfold State.sinkWrite
  extract_lets +onlyGivenNames _ accept
  have haccept : ∀ (s : State), Good o p s → Good o p (accept s) := fun _ h1 => good_dropStaged (good_of_core h1)
  refine good_ite (fun _ => h) (fun _ => ?_)
  split
  · exact h
  · refine good_ite (fun _ => ?_) (fun _ => ?_)
    · extract_lets +onlyGivenNames _ _ _
      refine good_ite (fun _ => h) (fun _ => ?_)
      split
      · next q1 => exact haccept _ (good_setFreg (good_of_ok q1 (hgood_ringWrite h)) _ _)
      · next q1 => exact good_of_wait q1 (hgood_ringWrite h)
      · next q1 => exact good_of_fail q1 (hgood_ringWrite h)
    · extract_lets +onlyGivenNames _ _
      exact haccept _ (good_sendFrames h)

theorem hgood_entriesFrom {l n : Nat} {s : State} (h : Good o p s) : HGood o p (State.entriesFrom l n s) := by
  induction n generalizing l s with
  | zero =>
    unfold State.entriesFrom
    exact hgood_ok h _
  | succ n ih =>
    unfold State.entriesFrom
    exact hgood_bind (hgood_readEntry h) (fun _ h1 _ => hgood_bind (ih h1) (fun _ h2 _ => hgood_ok h2 _))

theorem hgood_applyDiff {s : State} (h : Good o p s) {r : List Byte} : HGood o p (s.applyDiff r) := by
  unfold State.applyDiff
  extract_lets +onlyGivenNames _ _ _ _
  refine hgood_ite (fun _ => hgood_ok h _) (fun _ => ?_)
  refine hgood_bind (hgood_readEntry h) (fun _ h2 _ => ?_)
  refine hgood_ite (fun _ => hgood_ok h2 _) (fun _ => ?_)
  extract_lets +onlyGivenNames _ _
  split
  · exact hgood_ok h2 _
  · exact hgood_bind (hgood_readTensor h2) (fun _ h4 _ => hgood_bind (hgood_writeTensor h4) (fun _ h5 _ => hgood_ok
      (good_of_core h5) _))

theorem hgood_crcsOf {e : Entry} {v : Nat} {l : List Nat} {s : State} (h : Good o p s) : HGood o p (State.crcsOf
    e v l s) := by
  induction l generalizing e v s with
  | nil =>
    unfold State.crcsOf
    exact hgood_ok h _
  | cons a l ih =>
    unfold State.crcsOf
    exact hgood_bind (hgood_readKinds h) (fun _ h1 _ => hgood_bind (ih h1) (fun _ h2 _ => hgood_ok h2 _))

theorem hgood_slotFps {s : State} (h : Good o p s) {es : List (Nat × Entry)} {l : List Nat} : HGood o p
    (s.slotFps es l) := by
  induction l generalizing s es with
  | nil =>
    unfold State.slotFps
    exact hgood_ok h _
  | cons a l ih =>
    unfold State.slotFps
    split
    · exact hgood_bind (ih h) (fun _ h1 _ => hgood_ok h1 _)
    · exact hgood_bind (hgood_crcsOf h) (fun _ h1 _ => hgood_bind (ih h1) (fun _ h2 _ => hgood_ok h2 _))

theorem hgood_copyGroups {l : List (Nat × Entry × Nat × Nat)} {s : State} (h : Good o p s) : HGood o p
    (State.copyGroups l s) := by
  induction l generalizing s with
  | nil =>
    unfold State.copyGroups
    exact hgood_ok h _
  | cons a l ih =>
    unfold State.copyGroups
    exact hgood_bind (hgood_readTensor h) (fun _ h1 _ => hgood_bind (hgood_writeTensor h1) (fun _ h2 _ => ih h2))

theorem hgood_remakePending {l : List (Nat × Entry × Nat)} {s : State} (h : Good o p s) : HGood o p
    (State.remakePending l s) := by
  induction l generalizing s with
  | nil =>
    unfold State.remakePending
    exact hgood_ok h _
  | cons a l ih =>
    unfold State.remakePending
    exact hgood_bind (hgood_remakeWc h) (fun _ h1 _ => ih h1)

theorem hgood_applyEnd {s : State} (h : Good o p s) {r : List Byte} : HGood o p (s.applyEnd r) := by
  unfold State.applyEnd
  refine hgood_bind (hgood_entriesFrom h) (fun _ h1 _ => ?_)
  extract_lets +onlyGivenNames _
  refine hgood_ite (fun _ => hgood_ok h1 _) (fun _ => ?_)
  refine hgood_bind (hgood_slotFps h1) (fun _ h3 _ => ?_)
  refine hgood_ite (fun _ => hgood_ok h3 _) (fun _ => ?_)
  refine hgood_bind (hgood_copyGroups h3) (fun _ h5 _ => ?_)
  refine hgood_bind (hgood_remakePending h5) (fun _ h6 _ => ?_)
  refine hgood_bind (hgood_ite (fun _ => hgood_writeFps h6) (fun _ => hgood_ok h6 _)) (fun _ h7 _ => ?_)
  extract_lets +onlyGivenNames s1 s2 s3
  have hs1 : Good o p s1 := good_flipLayers h7
  have hs2 : Good o p s2 := good_setFreg hs1 _ _
  have hs3 : Good o p s3 := good_noteCommit (good_count (good_count (good_count hs2)))
  exact hgood_ok (good_of_core hs3) _

theorem good_stopApply {s : State} (h : Good o p s) {r : List Byte} : Good o p (s.stopApply r) :=
  good_logEvent (good_orFreg (good_of_core h))

theorem hgood_applyRecord {s : State} (h : Good o p s) {r : List Byte} : HGood o p (s.applyRecord r) := by
  unfold State.applyRecord
  extract_lets +onlyGivenNames drop run
  have hdrop : ∀ (s : State), Good o p s → HGood o p (drop s) := fun _ h1 => hgood_ok (good_stopApply h1) _
  have hrun : ∀ (k : HRes Bool), HGood o p k → HGood o p (run k) := by
    unfold run
    intro _ h1
    split
    · exact hgood_ok h1 _
    · exact hdrop _ h1
    · exact hgood_wait h1
    · exact hdrop _ h1
  refine hgood_ite (fun _ => hdrop _ h) (fun _ => ?_)
  split
  · exact hrun _ (hgood_applyDiff h)
  · exact hrun _ (hgood_applyEnd h)
  · exact hdrop _ h

theorem hgood_applyNext {s : State} (h : Good o p s) : HGood o p s.applyNext :=
  hgood_ite (fun _ => hgood_ok h _) (fun _ => hgood_bind (hgood_ringRead h) (fun _ h2 _ => hgood_ite (fun _ =>
    hgood_ok h2 _) (fun _ => hgood_bind (hgood_ringRead h2) (fun _ h4 _ => hgood_ok h4 _))))

theorem good_apply {s : State} (h : Good o p s) {fromPeer : List Byte} : Good o p (s.apply fromPeer) := by
  unfold State.apply
  refine good_ite (fun _ => h) (fun _ => ?_)
  refine good_ite (fun _ => ?_) (fun _ => ?_)
  · split
    · next q => exact good_pumpDeliver (good_of_ok q (hgood_applyRecord h))
    · next q => exact good_of_wait q (hgood_applyRecord h)
    · next q => exact good_of_fail q (hgood_applyRecord h)
  · split
    · next q =>
        split
        · next q1 =>
            exact good_pumpDeliver (good_setFreg (good_of_ok q1 (hgood_applyRecord (good_of_ok q (hgood_applyNext
              h)))) _ _)
        · next q1 => exact good_of_wait q1 (hgood_applyRecord (good_of_ok q (hgood_applyNext h)))
        · next q1 => exact good_of_fail q1 (hgood_applyRecord (good_of_ok q (hgood_applyNext h)))
    · next q => exact good_of_ok q (hgood_applyNext h)
    · next q => exact good_of_wait q (hgood_applyNext h)
    · next q => exact good_pumpDeliver (good_stopApply (good_of_fail q (hgood_applyNext h)))

theorem hgood_exportPlan {s : State} (h : Good o p s) {j : Job} : HGood o p (s.exportPlan j) :=
  hgood_bind (hgood_entriesFrom h) (fun _ h1 _ => hgood_ok h1 _)

theorem good_loadSeeds {s : State} (h : Good o p s) {seeds : List (Word × Word)} : Good o p (s.loadSeeds seeds)
    := by
  unfold State.loadSeeds
  refine good_foldl _ h (fun _ _ h1 => ?_)
  split
  · exact good_modCell h1 _ (fun _ h2 => cgood_setReg (cgood_setReg h2))
  · exact h1

theorem hgood_startReplay {s : State} (h : Good o p s) {j : Job} {cap : CapIn} : HGood o p (s.startReplay j cap)
    := by
  unfold State.startReplay
  extract_lets +onlyGivenNames go
  have hgo : ∀ (s : State), Good o p s → ∀ (fps : Option (List Nat)), Good o p (go s fps) := by
    unfold go
    intro _ h1 _
    refine good_ite (fun _ => good_setJob h1) (fun _ => ?_)
    extract_lets +onlyGivenNames _
    exact good_orFreg (good_loadSeeds (good_setJob h1))
  split
  · next q => exact hgood_wait (good_of_wait q (hgood_hvRead h))
  · next q => exact hgood_ok (good_setJob (good_of_fail q (hgood_hvRead h))) _
  · next q =>
      split
      · next q1 =>
          exact hgood_ok (hgo _ (good_of_ok q1 (hgood_hvRead (good_of_ok q (hgood_hvRead h)))) _) _
      · next q1 =>
          exact hgood_wait (good_of_wait q1 (hgood_hvRead (good_of_ok q (hgood_hvRead h))))
      · next q1 =>
          exact hgood_ok (hgo _ (good_of_fail q1 (hgood_hvRead (good_of_ok q (hgood_hvRead h)))) _) _

theorem hgood_beginJob {s : State} (h : Good o p s) {v : Nat} {cap : Option CapIn} : HGood o p (s.beginJob v
    cap) := by
  unfold State.beginJob
  refine hgood_bind (hgood_hvRead h) (fun _ h1 _ => ?_)
  refine hgood_ite (fun _ => hgood_ok (good_setJob (good_putFreg h1)) _) (fun _ => ?_)
  split
  · split
    · next q1 => exact hgood_ok (good_setJob (good_of_ok q1 (hgood_exportPlan (good_putFreg h1)))) _
    · next q1 => exact hgood_wait (good_of_wait q1 (hgood_exportPlan (good_putFreg h1)))
    · next q1 => exact hgood_ok (good_setJob (good_of_fail q1 (hgood_exportPlan (good_putFreg h1)))) _
  · exact hgood_ok (good_setJob (good_putFreg h1)) _
  · exact hgood_ok (good_setJob (good_putFreg h1)) _
  · split
    · exact hgood_startReplay (good_putFreg h1)
    · exact hgood_startReplay (good_draw (good_putFreg h1))

theorem good_tryJob {s : State} (h : Good o p s) {v : Nat} {cap : Option CapIn} : Good o p (s.tryJob v cap) := by
  unfold State.tryJob
  split
  · next q => exact good_of_core (good_of_ok q (hgood_beginJob h))
  · next q => exact good_of_core (good_of_wait q (hgood_beginJob h))
  · next q =>
      exact good_putFreg (good_setJob (good_of_core (good_of_fail q (hgood_beginJob h))))

theorem good_startJob {s : State} (h : Good o p s) {v : Nat} {cap : Option CapIn} : Good o p (s.startJob v cap)
    :=
  good_ite (fun _ => good_orFreg h) (fun _ => good_tryJob h)

theorem good_resumeJob {s : State} (h : Good o p s) : Good o p s.resumeJob := by
  unfold State.resumeJob
  dsimp only
  refine good_flushJob ?_
  split
  · exact good_tryJob h
  · exact h

theorem good_exportNext {s : State} (h : Good o p s) {j : Job} : Good o p (s.exportNext j) := by
  unfold State.exportNext
  split
  · exact good_setJob h
  · split
    · next q1 => exact good_of_wait q1 (hgood_readEntry h)
    · next q1 => exact good_setJob (good_of_fail q1 (hgood_readEntry h))
    · next q1 =>
        extract_lets +onlyGivenNames _
        split
        · next q2 => exact good_of_wait q2 (hgood_readTensor (good_of_ok q1 (hgood_readEntry h)))
        · next q2 =>
            exact good_setJob (good_of_fail q2 (hgood_readTensor (good_of_ok q1 (hgood_readEntry h))))
        · next q2 =>
            extract_lets +onlyGivenNames _
            refine good_ite (fun _ => good_setJob (good_of_ok q2 (hgood_readTensor (good_of_ok q1 (hgood_readEntry
              h))))) (fun _ => ?_)
            split
            · next q3 =>
                exact good_of_wait q3 (hgood_hvWrite (good_of_ok q2 (hgood_readTensor (good_of_ok q1
                  (hgood_readEntry h)))))
            · next q3 =>
                exact good_setJob (good_of_fail q3 (hgood_hvWrite (good_of_ok q2 (hgood_readTensor (good_of_ok q1
                  (hgood_readEntry h))))))
            · next q3 =>
                exact good_setJob (good_of_ok q3 (hgood_hvWrite (good_of_ok q2 (hgood_readTensor (good_of_ok q1
                  (hgood_readEntry h))))))

theorem hgood_importRows {e : Entry} {va es : Nat} {h data : List Byte} {oc c0 c1 orow : Nat} {l : List Nat} {s
    : State} (hs : Good o p s) : HGood o p (State.importRows e va es h data oc c0 c1 orow l s) := by
  induction l generalizing e va es h data oc c0 c1 orow s with
  | nil =>
    unfold State.importRows
    exact hgood_ok hs _
  | cons a l ih =>
    unfold State.importRows
    exact hgood_bind (hgood_hvWrite hs) (fun _ h1 _ => ih h1)

theorem good_importEnd {s : State} (h : Good o p s) {j : Job} : Good o p (s.importEnd j) := by
  unfold State.importEnd
  split
  · next q => exact good_of_wait q (hgood_entriesFrom h)
  · next q => exact good_setJob (good_of_fail q (hgood_entriesFrom h))
  · next q =>
      extract_lets +onlyGivenNames _ _
      split
      · exact good_setJob (good_of_ok q (hgood_entriesFrom h))
      · refine good_ite (fun _ => good_setJob (good_of_ok q (hgood_entriesFrom h))) (fun _ => ?_)
        split
        · next q2 =>
            exact good_of_wait q2 (hgood_bind (hgood_copyGroups (good_of_ok q (hgood_entriesFrom h))) (fun _ h2 _ =>
              hgood_remakePending h2))
        · next q2 =>
            exact good_setJob (good_of_fail q2 (hgood_bind (hgood_copyGroups (good_of_ok q (hgood_entriesFrom h)))
              (fun _ h2 _ => hgood_remakePending h2)))
        · next q2 =>
            exact good_setJob (good_flipLayers (good_of_ok q2 (hgood_bind (hgood_copyGroups (good_of_ok q
              (hgood_entriesFrom h))) (fun _ h2 _ => hgood_remakePending h2))))

theorem good_importNext {s : State} (h : Good o p s) {j : Job} : Good o p (s.importNext j) := by
  unfold State.importNext
  refine good_ite (fun _ => good_importEnd h) (fun _ => ?_)
  split
  · next q => exact good_of_wait q (hgood_hvRead h)
  · next q => exact good_setJob (good_of_fail q (hgood_hvRead h))
  · next q =>
      extract_lets +onlyGivenNames _ _ _ _ _
      refine good_ite (fun _ => good_importEnd (good_of_ok q (hgood_hvRead h))) (fun _ => ?_)
      refine good_ite (fun _ => good_setJob (good_of_ok q (hgood_hvRead h))) (fun _ => ?_)
      refine good_ite (fun _ => good_setJob (good_of_ok q (hgood_hvRead h))) (fun _ => ?_)
      split
      · next q1 =>
          exact good_of_wait q1 (hgood_bind (hgood_hvRead (good_of_ok q (hgood_hvRead h))) (fun _ h5 _ => hgood_bind
            (hgood_readEntry h5) (fun _ h6 _ => hgood_ok h6 _)))
      · next q1 =>
          exact good_setJob (good_of_fail q1 (hgood_bind (hgood_hvRead (good_of_ok q (hgood_hvRead h))) (fun _ h5 _
            => hgood_bind (hgood_readEntry h5) (fun _ h6 _ => hgood_ok h6 _))))
      · next q1 =>
          refine good_ite (fun _ => good_setJob (good_of_ok q1 (hgood_bind (hgood_hvRead (good_of_ok q (hgood_hvRead
            h))) (fun _ h6 _ => hgood_bind (hgood_readEntry h6) (fun _ h7 _ => hgood_ok h7 _))))) (fun _ => ?_)
          extract_lets +onlyGivenNames _ _ _ _ _ _ _ _ _
          split
          · next q2 =>
              exact good_of_wait q2 (hgood_ite (fun _ => hgood_importRows (good_of_ok q1 (hgood_bind (hgood_hvRead
                (good_of_ok q (hgood_hvRead h))) (fun _ h7 _ => hgood_bind (hgood_readEntry h7) (fun _ h8 _ =>
                hgood_ok h8 _))))) (fun _ => hgood_ok (good_of_ok q1 (hgood_bind (hgood_hvRead (good_of_ok q
                (hgood_hvRead h))) (fun _ h7 _ => hgood_bind (hgood_readEntry h7) (fun _ h8 _ => hgood_ok h8 _))))
                _))
          · next q2 =>
              exact good_setJob (good_of_fail q2 (hgood_ite (fun _ => hgood_importRows (good_of_ok q1 (hgood_bind
                (hgood_hvRead (good_of_ok q (hgood_hvRead h))) (fun _ h7 _ => hgood_bind (hgood_readEntry h7) (fun _
                h8 _ => hgood_ok h8 _))))) (fun _ => hgood_ok (good_of_ok q1 (hgood_bind (hgood_hvRead (good_of_ok q
                (hgood_hvRead h))) (fun _ h7 _ => hgood_bind (hgood_readEntry h7) (fun _ h8 _ => hgood_ok h8 _))))
                _)))
          · next q2 =>
              extract_lets +onlyGivenNames _
              exact good_setJob (good_of_ok q2 (hgood_ite (fun _ => hgood_importRows (good_of_ok q1 (hgood_bind
                (hgood_hvRead (good_of_ok q (hgood_hvRead h))) (fun _ h7 _ => hgood_bind (hgood_readEntry h7) (fun _
                h8 _ => hgood_ok h8 _))))) (fun _ => hgood_ok (good_of_ok q1 (hgood_bind (hgood_hvRead (good_of_ok q
                (hgood_hvRead h))) (fun _ h7 _ => hgood_bind (hgood_readEntry h7) (fun _ h8 _ => hgood_ok h8 _))))
                _)))

theorem good_jobStep {s : State} (h : Good o p s) {ty : Nat} : Good o p (s.jobStep ty) := by
  unfold State.jobStep
  extract_lets +onlyGivenNames s1
  have hs1 : Good o p s1 := good_resumeJob h
  split
  · exact hs1
  · exact good_ite (fun _ => good_exportNext hs1) (fun _ => good_ite (fun _ => good_importNext hs1) (fun _ => hs1))

theorem good_endJob {s : State} (h : Good o p s) : Good o p s.endJob := by
  unfold State.endJob
  extract_lets +onlyGivenNames s1
  have hs1 : Good o p s1 := good_resumeJob h
  split
  · exact hs1
  · split
    · exact hs1
    · refine good_ite (fun _ => hs1) (fun _ => ?_)
      extract_lets +onlyGivenNames fin
      have hfin : ∀ (s : State), Good o p s → Good o p (fin s) := by
        unfold fin
        intro _ h2
        extract_lets +onlyGivenNames s3 _ s5
        have hs3 : Good o p s3 := good_ite (fun _ => good_clrFreg h2) (fun _ => h2)
        have hs5 : Good o p s5 := good_of_core hs3
        exact good_pumpDeliver (good_hostEvent (good_orFreg hs5))
      split
      · next q2 =>
          exact hfin _ (good_of_ok q2 (hgood_ite (fun _ => hgood_ok hs1 _) (fun _ => hgood_hvWrite hs1)))
      · next q2 =>
          exact good_of_wait q2 (hgood_ite (fun _ => hgood_ok hs1 _) (fun _ => hgood_hvWrite hs1))
      · next q2 =>
          exact hfin _ (good_of_fail q2 (hgood_ite (fun _ => hgood_ok hs1 _) (fun _ => hgood_hvWrite hs1)))

/-! ### Machine/Link.lean -/

theorem good_onIf {s : State} (h : Good o p s) {p1 : Nat} {i st : Nat} {f : State → State} (hf : ∀ (a : State),
    Good o p a → Good o p (f a)) : Good o p (s.onIf p1 i st f) :=
  good_ite (fun _ => hf _ h) (fun _ => h)

theorem outgood_execAnResolved {p1 : Fin 18} {i : Fin 4} {ok : Bool} {s : State} (h : Good o p s) : OutGood o p
    (execAnResolved p1 i ok s) :=
  outgood_next (good_onIf h (fun _ h1 => good_ite (fun _ => good_setIf h1) (fun _ => good_faultIf h1)))

theorem outgood_execAnTimeout {p1 : Fin 18} {i : Fin 4} {s : State} (h : Good o p s) : OutGood o p
    (execAnTimeout p1 i s) :=
  outgood_next (good_onIf h (fun _ h1 => good_faultIf h1))

theorem outgood_execTrainingDone {p1 : Fin 18} {i : Fin 4} {ok : Bool} {s : State} (h : Good o p s) : OutGood o
    p (execTrainingDone p1 i ok s) :=
  outgood_next (good_onIf h (fun _ h1 => good_ite (fun _ => good_setIf h1) (fun _ => good_faultIf h1)))

theorem outgood_execAlignLock {p1 : Fin 18} {i : Fin 4} {s : State} (h : Good o p s) : OutGood o p
    (execAlignLock p1 i s) :=
  outgood_next (good_onIf h (fun _ h1 => good_flushAll (good_setIf h1)))

theorem outgood_execAlignTimeout {p1 : Fin 18} {i : Fin 4} {s : State} (h : Good o p s) : OutGood o p
    (execAlignTimeout p1 i s) :=
  outgood_next (good_onIf h (fun _ h1 => good_faultIf h1))

theorem outgood_execAlignmentLoss {p1 : Fin 18} {i : Fin 4} {s : State} (h : Good o p s) : OutGood o p
    (execAlignmentLoss p1 i s) :=
  outgood_next (good_onIf h (fun _ h1 => good_faultIf h1))

theorem outgood_execFecErrorRate {p1 : Fin 18} {i : Fin 4} {corrected bad total : Nat} {s : State} (h : Good o p
    s) : OutGood o p (execFecErrorRate p1 i corrected bad total s) :=
  outgood_next (good_onIf h (fun _ h1 => good_ite (fun _ => good_faultIf (good_count (good_count h1))) (fun _ =>
    (good_count (good_count h1)))))

theorem outgood_execFaultRetry {p1 : Fin 18} {i : Fin 4} {s : State} (h : Good o p s) : OutGood o p
    (execFaultRetry p1 i s) :=
  outgood_next (good_onIf h (fun _ h1 => good_startIf h1))

theorem outgood_execHello {h : FrameIn} {hi : HelloIn} {s : State} (hs : Good o p s) : OutGood o p (execHello h
    hi s) := by
  unfold execHello
  refine outgood_ite (fun _ => outgood_next hs) (fun _ => ?_)
  split
  · next q => exact outgood_next (good_of_hdone q (hellogood_hello hs))
  · next q =>
      exact outgood_next (good_pumpSlots (good_abortPeer (good_of_hpeer q (hellogood_hello hs))))

theorem outgood_execHelloRetry {node : BitVec 16} {s : State} (h : Good o p s) : OutGood o p (execHelloRetry
    node s) :=
  outgood_next (good_ite (fun _ => good_sendHello h) (fun _ => h))

theorem outgood_execHelloTimeout {node : BitVec 16} {s : State} (h : Good o p s) : OutGood o p (execHelloTimeout
    node s) :=
  outgood_next (good_ite (fun _ => good_losePeer h) (fun _ => h))

theorem outgood_execAckTimer {node : BitVec 16} {s : State} (h : Good o p s) : OutGood o p (execAckTimer node s)
    :=
  outgood_next (good_ite (fun _ => h) (fun _ => good_sendAck h))

theorem outgood_execRetransmitTimeout {node : BitVec 16} {s : State} (h : Good o p s) : OutGood o p
    (execRetransmitTimeout node s) :=
  outgood_next (good_ite (fun _ => good_losePeer (good_retransmit h)) (fun _ => (good_retransmit h)))

theorem good_deliver {r : RxRes} (hr : RxGood o p r) {node : Nat} {f : State → State} (hf : ∀ (a : State), Good
    o p a → Good o p (f a)) : Good o p (r.deliver node f) := by
  unfold RxRes.deliver
  split
  · exact hr
  · exact good_resetPeer hr
  · exact hf _ hr

theorem good_frame {s : State} (hs : Good o p s) {h : FrameIn} {seq : Bool} {len : Nat} {f : State → State} (hf
    : ∀ (a : State), Good o p a → Good o p (f a)) : Good o p (s.frame h seq len f) :=
  good_ite (fun _ => good_deliver (rxgood_arrive hs) (fun _ h2 => hf _ h2)) (fun _ => hs)

theorem outgood_execData {h : FrameIn} {payload : List Byte} {poison : BitVec 64} {s : State} (hs : Good o p s)
    : OutGood o p (execData h payload poison s) :=
  outgood_ite (fun _ => outgood_next hs) (fun _ => outgood_next (good_frame hs (fun _ h2 => good_takeData (good_ite
    (fun _ => good_capture h2) (fun _ => h2)))))

theorem good_ackIn {s : State} (hs : Good o p s) {h : FrameIn} {a : AckIn} : Good o p (s.ackIn h a) := by
  unfold State.ackIn
  split
  · exact good_takeAck (good_setCtx hs)
  · exact (good_setCtx hs)

theorem good_ackHello {s : State} (h : Good o p s) {node : Nat} : Good o p (s.ackHello node) :=
  good_helloDone (good_setCtx h)

theorem outgood_execAck {h : FrameIn} {a : AckIn} {s : State} (hs : Good o p s) : OutGood o p (execAck h a s) :=
  outgood_ite (fun _ => outgood_next (good_ite (fun _ => good_ite (fun _ => good_ackHello (good_count hs)) (fun _ =>
    good_dropFrame hs)) (fun _ => hs))) (fun _ => outgood_next (good_frame hs (fun _ h2 => good_ackIn h2)))

theorem outgood_execReady {h : FrameIn} {digest : BitVec 32} {s : State} (hs : Good o p s) : OutGood o p
    (execReady h digest s) :=
  outgood_next (good_frame hs (fun _ h1 => good_takeReady h1))

theorem outgood_execAbortFrame {h : FrameIn} {status : BitVec 8} {rank : BitVec 16} {s : State} (hs : Good o p
    s) : OutGood o p (execAbortFrame h status rank s) :=
  outgood_next (good_frame hs (fun _ h1 => good_pumpSlots (good_takeAbort h1)))

theorem outgood_loopFrame {s : State} (h : Good o p s) {l : Looped} : OutGood o p (s.loopFrame l) := by
  unfold State.loopFrame
  extract_lets +onlyGivenNames _ _
  split
  · exact outgood_execHello h
  · exact outgood_execData h
  · exact outgood_execAck h
  · exact outgood_execReady h
  · exact outgood_execAbortFrame h

theorem good_pumpLoop {fuel : Nat} {s : State} (h : Good o p s) : Good o p (State.pumpLoop fuel s) := by
  induction fuel generalizing s with
  | zero => exact h
  | succ fuel ih =>
    unfold State.pumpLoop
    split
    · exact h
    · split
      · next q => exact ih (outgood_loopFrame (good_of_core h) _ q)
      · exact good_of_core h

theorem good_flTime {s : State} (h : Good o p s) : Good o p s.flTime :=
  good_ite (fun _ => good_flushAll (good_pumpLoop h)) (fun _ => h)

theorem outgood_execPfcFrame {n : Fin 18} {i : Fin 4} {prio : Fin 8} {quanta : BitVec 16} {s : State}
    (h : Good o p s) : OutGood o p (execPfcFrame n i prio quanta s) := by
  refine outgood_next (good_onIf h (fun t ht => good_ite (fun _ => ?_) (fun _ => ht)))
  obtain ⟨hpaused, hboxes, hflash⟩ := ht.lists
  have hset := fun k v => good_intro (s := { t with fl := { t.fl with paused := t.fl.paused.set (fun _ => 0) k v } })
    ht.floor ht.cell ht.mem ⟨smap_wf_set _ _ k v hpaused, hboxes, hflash⟩ ht.otp ht.queue
  exact good_ite (fun _ => good_flushAll (hset _ _)) (fun _ => hset _ _)

/-! ### Machine/Collective.lean -/

theorem outgood_execInstanceTrigger {cid : BitVec 12} {s : State} (h : Good o p s) : OutGood o p
    (execInstanceTrigger cid s) :=
  outgood_next (good_ite (fun _ => good_trigger h) (fun _ => h))

theorem outgood_execInstanceComplete {k : Fin 32} {s : State} (h : Good o p s) : OutGood o p
    (execInstanceComplete k s) :=
  outgood_next (good_pumpDeliver (good_completeInst h))

theorem outgood_execReceiverDetach {k : Fin 32} {rank : BitVec 16} {timed : Bool} {s : State} (h : Good o p s) :
    OutGood o p (execReceiverDetach k rank timed s) :=
  outgood_next (good_detach h)

theorem outgood_execUpdateGroupDone {l : Fin 1024} {g : Meets Nat MemUpset} {s : State} (h : Good o p s) :
    OutGood o p (execUpdateGroupDone l g s) :=
  outgood_next (good_updateGroup h)

theorem outgood_execStepDecision {s : State} (h : Good o p s) : OutGood o p (execStepDecision s) :=
  outgood_next (good_stepDecision h)

theorem outgood_execEquinoxBarrier {s : State} (h : Good o p s) : OutGood o p (execEquinoxBarrier s) :=
  outgood_next (good_equinoxBarrier h)

theorem outgood_execLendStarved {k : Fin 16} {s : State} (h : Good o p s) : OutGood o p (execLendStarved k s) :=
  outgood_next (good_lendStarved h)

theorem outgood_execFingerprintExchange {others : List ExRecord} {aborted : Option Nat} {s : State} (h : Good o
    p s) : OutGood o p (execFingerprintExchange others aborted s) :=
  outgood_next (good_exchange h)

theorem outgood_execBisectionRound {r : RoundIn} {s : State} (h : Good o p s) : OutGood o p (execBisectionRound
    r s) :=
  outgood_next (good_bisect h)

theorem outgood_execDxSinkWrite {k : Fin 2} {s : State} (h : Good o p s) : OutGood o p (execDxSinkWrite k s) :=
  outgood_next (good_sinkWrite h)

theorem outgood_execApplyRecord {peer : List Byte} {s : State} (h : Good o p s) : OutGood o p (execApplyRecord
    peer s) :=
  outgood_next (good_apply h)

theorem outgood_execJobEnd {s : State} (h : Good o p s) : OutGood o p (execJobEnd s) :=
  outgood_next (good_endJob h)

/-! ### Machine/Memory.lean -/

theorem ogood_tryJoin {s : State} (h : Good o p s) {la : Nat} {r : MissReq} : OGood o p (s.tryJoin la r) :=
  ogood_ite (fun _ => ogood_none) (fun _ => ogood_ite (fun _ => ogood_some (good_of_core h)) (fun _ => ogood_ite
    (fun _ => ogood_some (good_of_core h)) (fun _ => ogood_none)))

theorem good_joinMiss {s : State} (h : Good o p s) {la : Nat} {r : MissReq} : Good o p (s.joinMiss la r) := by
  unfold State.joinMiss
  split
  · next q => exact good_of_some q (ogood_tryJoin h)
  · exact good_stallF (good_of_core h)

theorem good_letIn {s : State} (h : Good o p s) : Good o p s.letIn := by
  unfold State.letIn
  refine good_foldl _ (good_of_core h) (fun _ _ h1 => ?_)
  split
  · next q => exact good_of_some q (ogood_tryJoin h1)
  · exact good_of_core h1

theorem good_epochWait {s : State} (h : Good o p s) {la : Nat} : Good o p (s.epochWait la) :=
  good_ite (fun _ => good_stallF h) (fun _ => h)

theorem good_answer {s : State} (h : Good o p s) {r : Reply} : Good o p (s.answer r) :=
  good_of_core h

theorem ogood_serveReq {s : State} (h : Good o p s) {la : Nat} {tck : Bool} {a : MissReq} : OGood o p
    (s.serveReq la tck a) := by
  unfold State.serveReq
  split
  · exact ogood_some (good_answer (good_cohRead h))
  · exact ogood_some (good_cohWrite h)
  · exact ogood_some (good_answer (good_homeRead h))
  · exact ogood_some (good_homeWrite h)
  · split
    · next q => exact ogood_some (good_of_raccepted q (redgood_contribNow h))
    · exact ogood_none
    · next q => exact ogood_some (good_of_rrefused q (redgood_contribNow h))

theorem good_serveList {la : Nat} {tck : Bool} {l : List MissReq} {s : State} (h : Good o p s) : Good o p
    (State.serveList la tck l s).1 := by
  induction l generalizing la tck s with
  | nil =>
    unfold State.serveList
    exact h
  | cons a l ih =>
    unfold State.serveList
    dsimp only
    split
    · next q =>
        exact ih (good_of_some q (ogood_ite (fun _ => ogood_serveReq h) (fun _ => ogood_none)))
    · refine good_ite_fst (fun _ => ?_) (fun _ => h)
      dsimp only
      refine good_foldl_fst _ h (fun _ _ _ h2 => ?_)
      split
      · next q1 =>
          exact good_of_some q1 (ogood_ite (fun _ => ogood_serveReq h2) (fun _ => ogood_none))
      · exact h2

theorem good_serveMiss {s : State} (h : Good o p s) {la : Nat} {tck : Bool} : Good o p (s.serveMiss la tck) := by
  unfold State.serveMiss
  split
  · exact h
  · extract_lets out r
    have hr : Good o p r.1 := good_serveList (s := out s) (good_of_core h)
    clear_value r
    exact good_ite (fun _ => good_letIn hr) (fun _ => good_letIn (good_of_core hr))

theorem good_goOn {s : State} (h : Good o p s) : Good o p s.goOn :=
  good_pumpAll (good_redoWc (good_ite (fun _ => h) (fun _ => good_flushPosted h)))

theorem good_transact {s : State} (h : Good o p s) {la : Nat} {write : Bool} {e : FrameEcc} {r : MissReq} {now :
    State → State} (hnow : ∀ (a : State), Good o p a → Good o p (now a)) : Good o p (s.transact la write e r now)
    :=
  good_ite (fun _ => good_joinMiss (good_epochWait (good_recall h))) (fun _ => hnow _ (good_frameEccAt h))

theorem outgood_execCoherentRead {c : CellId} {pa n : Nat} {e : FrameEcc} {s : State} (h : Good o p s) : OutGood
    o p (execCoherentRead c pa n e s) :=
  outgood_ite (fun _ => outgood_next h) (fun _ => outgood_next (good_transact h (fun _ h2 => good_answer
    (good_cohRead h2))))

theorem outgood_execCoherentWrite {c : CellId} {pa : Nat} {bytes : List Byte} {e : FrameEcc} {s : State} (h :
    Good o p s) : OutGood o p (execCoherentWrite c pa bytes e s) :=
  outgood_ite (fun _ => outgood_next h) (fun _ => outgood_next (good_transact h (fun _ h2 => good_cohWrite h2)))

theorem outgood_execHomeRead {a : Agent} {pa n : Nat} {cls : Fin 8} {e : FrameEcc} {s : State} (h : Good o p s)
    : OutGood o p (execHomeRead a pa n cls e s) :=
  outgood_ite (fun _ => outgood_next h) (fun _ => outgood_next (good_transact h (fun _ h2 => good_answer
    (good_homeRead h2))))

theorem outgood_execHomeWrite {a : Agent} {pa : Nat} {bytes : List Byte} {cls : Fin 8} {e : FrameEcc} {s :
    State} (h : Good o p s) : OutGood o p (execHomeWrite a pa bytes cls e s) := by
  unfold execHomeWrite
  refine outgood_ite (fun _ => outgood_next h) (fun _ => ?_)
  extract_lets +onlyGivenNames _ now
  have hnow : ∀ (s : State), Good o p s → Good o p (now s) := fun _ h2 => good_homeWrite h2
  exact outgood_ite (fun _ => outgood_next (hnow _ h)) (fun _ => outgood_next (good_transact h (fun _ h3 => hnow _
    h3)))

theorem outgood_execReductionContribution {la : Nat} {k : Contrib} {s : State} (h : Good o p s) : OutGood o p
    (execReductionContribution la k s) := by
  unfold execReductionContribution
  refine outgood_ite (fun _ => outgood_next h) (fun _ => ?_)
  split
  · next q =>
      exact outgood_next (good_goOn (good_letIn (good_of_raccepted q (redgood_ite (fun _ => redgood_contribute h)
        (fun _ => redgood_rejectRed h)))))
  · next q =>
      exact outgood_next (good_of_rrefused q (redgood_ite (fun _ => redgood_contribute h) (fun _ =>
        redgood_rejectRed h)))
  · next q =>
      exact outgood_next (good_joinMiss (good_of_rwait q (redgood_ite (fun _ => redgood_contribute h) (fun _ =>
        redgood_rejectRed h))))

theorem outgood_execReductionApply {la : Nat} {s : State} (h : Good o p s) : OutGood o p (execReductionApply la
    s) := by
  unfold execReductionApply
  split
  · exact outgood_next h
  · exact outgood_next (good_applyContrib (good_modLine h))

theorem outgood_execHomeEviction {n : CellId} {i : Fin 2048} {s : State} (h : Good o p s) : OutGood o p
    (execHomeEviction n i s) := by
  unfold execHomeEviction
  split
  · exact outgood_next h
  · exact outgood_ite (fun _ => outgood_next (good_stallF h)) (fun _ => outgood_ite (fun _ => outgood_ite (fun _ =>
      outgood_next h) (fun _ => outgood_next (good_modLine (good_bringHome h)))) (fun _ => outgood_next
      (good_evictHome h)))

theorem outgood_execLineFill {la : Nat} {tck : Bool} {e : HbmEcc} {s : State} (h : Good o p s) : OutGood o p
    (execLineFill la tck e s) := by
  unfold execLineFill
  extract_lets +onlyGivenNames s1 _
  have hs1 : Good o p s1 := good_letIn h
  refine outgood_ite (fun _ => outgood_next hs1) (fun _ => ?_)
  split
  · exact outgood_next (good_requestExit hs1)
  · extract_lets +onlyGivenNames s2 s3 _ s5 s6
    have hs2 : Good o p s2 := good_ite (fun _ => good_hbmEcc hs1) (fun _ => hs1)
    have hs3 : Good o p s3 := good_fill hs2
    have hs5 : Good o p s5 := good_place hs3
    have hs6 : Good o p s6 := good_ite (fun _ => good_runEpoch hs5) (fun _ => hs2)
    exact outgood_next (good_goOn (good_serveMiss hs6))

theorem good_lineLeft {s : State} (h : Good o p s) {la : Nat} : Good o p (s.lineLeft la) := by
  unfold State.lineLeft
  refine good_ite (fun _ => h) (fun _ => ?_)
  refine good_ite (fun _ => good_recall h) (fun _ => ?_)
  split
  · exact good_requestExit h
  · exact good_goOn (good_dropLine h)

theorem outgood_execWritebackAck {la : Nat} {s : State} (h : Good o p s) : OutGood o p (execWritebackAck la s)
    :=
  outgood_next (good_lineLeft h)

theorem good_winCfgWrite {s : State} (h : Good o p s) {n : CellId} {v : Nat} : Good o p (s.winCfgWrite n v) :=
  good_ite (fun _ => h) (fun _ => good_ite (fun _ => good_orFreg h) (fun _ => good_modSlice h))

theorem good_fitResident {n : CellId} {s : State} (h : Good o p s) {r : Resident} : Good o p (State.fitResident
    n s r) :=
  good_ite (fun _ => h) (fun _ => good_ite (fun _ => good_modLine (good_bringHome h)) (fun _ => good_ite (fun _ =>
    good_movePin h) (fun _ => good_evictHome (good_applyHeld h))))

theorem good_fitSlice {s : State} (h : Good o p s) {n : CellId} : Good o p (s.fitSlice n) :=
  good_foldl _ h (fun _ _ h1 => good_fitResident h1)

theorem outgood_execWinResizeDone {n : CellId} {s : State} (h : Good o p s) : OutGood o p (execWinResizeDone n
    s) := by
  unfold execWinResizeDone
  split
  · exact outgood_next h
  · exact outgood_ite (fun _ => outgood_next h) (fun _ => outgood_next (good_goOn (good_fitSlice (good_putFreg
      (good_modSlice h)))))

theorem good_unpinClasses {s : State} (h : Good o p s) {v : Nat} : Good o p (s.unpinClasses v) :=
  good_foldl _ h (fun _ _ h1 => good_unpinLine h1)

theorem good_poisonBelow {s : State} (h : Good o p s) {la : Nat} : Good o p (s.poisonBelow la) := by
  unfold State.poisonBelow
  split
  · exact good_of_core h
  · exact good_of_core h
  · exact h

theorem good_loseCopy {s : State} (h : Good o p s) {n : CellId} {r : Resident} : Good o p (s.loseCopy n r).1 :=
  good_ite_fst (fun _ => good_count (good_poisonBelow (good_setLine h))) (fun _ => good_ite_fst (fun _ =>
    good_setLine h) (fun _ => good_ite_fst (fun _ => h) (fun _ => good_setLine h)))

theorem good_loseCopies {n : CellId} {l : List Resident} {l1 : List Nat} {s : State} (h : Good o p s) : Good o p
    (State.loseCopies n l l1 s) := by
  induction l generalizing n l1 s with
  | nil =>
    unfold State.loseCopies
    exact h
  | cons a l ih =>
    unfold State.loseCopies
    dsimp only
    split
    · exact ih (good_loseCopy h)
    · exact good_ite (fun _ => ih (good_loseCopy h)) (fun _ => ih (good_logEvent (good_loseCopy h)))

theorem good_loseLayers {s : State} (h : Good o p s) {n : CellId} {i : Nat} : Good o p (s.loseLayers n i) :=
  good_orFreg (good_ite (fun _ => good_logEvent (good_modSlice (good_loseCopies h))) (fun _ => (good_loseCopies h)))

theorem good_takePath {s : State} (h : Good o p s) {n : CellId} {i : Nat} : Good o p (s.takePath n i) := by
  unfold State.takePath
  split
  · exact good_orFreg (good_modSlice (good_modSlice h))
  · exact good_loseLayers (good_modSlice h)

theorem good_failPort {s : State} (h : Good o p s) {n : CellId} {i : Fin 4} : Good o p (s.failPort n i) := by
  unfold State.failPort
  dsimp only
  split
  · refine good_orFreg ?_
    split
    · exact good_takePath (good_modSlice (good_modSlice (good_modSlice h)))
    · exact (good_modSlice h)
  · refine good_takePath ?_
    split
    · exact good_takePath (good_modSlice (good_modSlice (good_modSlice h)))
    · exact (good_modSlice h)

theorem good_spareLanes {s : State} (h : Good o p s) {n : CellId} {i : Fin 4} {n1 : Nat} : Good o p
    (s.spareLanes n i n1) := by
  induction n1 generalizing s n i with
  | zero =>
    unfold State.spareLanes
    exact h
  | succ n1 ih =>
    unfold State.spareLanes
    exact ih (good_logEvent (good_count (good_putFreg h)))

theorem outgood_execVportCrcError {n : CellId} {i : Fin 4} {v : VportFault} {s : State} (h : Good o p s) :
    OutGood o p (execVportCrcError n i v s) :=
  outgood_next (good_ite (fun _ => good_failPort (good_spareLanes (good_count h))) (fun _ => (good_spareLanes
    (good_count h))))

theorem good_dropPins {s : State} (h : Good o p s) {n : CellId} : Good o p (s.dropPins n) :=
  good_foldl _ h (fun _ _ h1 => good_ite (fun _ => h1) (fun _ => good_count (good_unpinLine h1)))

theorem outgood_execLayerRetire {n : CellId} {s : State} (h : Good o p s) : OutGood o p (execLayerRetire n s) := by
  unfold execLayerRetire
  split
  · exact outgood_next h
  · extract_lets +onlyGivenNames _ _ _ _
    refine outgood_ite (fun _ => outgood_next h) (fun _ => ?_)
    refine outgood_ite (fun _ => outgood_next (good_orFreg (good_modSlice h))) (fun _ => ?_)
    extract_lets +onlyGivenNames s1 s2 s3 s4
    have hs1 : Good o p s1 := good_clrFreg (good_orFreg h)
    have hs2 : Good o p s2 := good_setFreg hs1 _ _
    have hs3 : Good o p s3 := good_setFreg hs2 _ _
    have hs4 : Good o p s4 := good_dropPins (good_modSlice hs3)
    exact outgood_next (good_logEvent (good_fitSlice hs4))

theorem outgood_execPageWalkDone {a : Agent} {va : Nat} {write : Bool} {exec : Meets Bool HbmEcc} {s : State} (h
    : Good o p s) : OutGood o p (execPageWalkDone a va write exec s) := by
  unfold execPageWalkDone
  refine outgood_ite (fun _ => outgood_next (good_translate (good_ite (fun _ => h) (fun _ => good_hbmEcc h)))) (fun
    _ => ?_)
  split
  · exact outgood_next (good_goOn (good_of_core (good_translate (good_ite (fun _ => h) (fun _ => good_hbmEcc h)))))
  · exact outgood_next (good_translate (good_ite (fun _ => h) (fun _ => good_hbmEcc h)))

theorem good_refuseHead {s : State} (h : Good o p s) {reason : Nat} {level : Nat} {c : CellId} : Good o p
    (s.refuseHead reason level c) := by
  unfold State.refuseHead
  split
  · exact h
  · exact good_modCell (good_xlatFault h) _ (fun _ h1 => cgood_faultHead h1)

theorem good_answerSlots {s : State} (h : Good o p s) {req : Nat} {level : Nat} {reason : Option Nat} : Good o p
    (s.answerSlots req level reason) := by
  unfold State.answerSlots
  refine good_foldl _ h (fun _ _ h1 => ?_)
  refine good_ite (fun _ => h1) (fun _ => ?_)
  dsimp only
  refine good_sxAnswer ?_
  split
  · exact good_foldl _ h1 (fun _ _ h3 => good_xlatFault h3)
  · exact h1

theorem good_answerFetches {s : State} (h : Good o p s) {req : Nat} {level : Nat} {reason : Option Nat} : Good o
    p (s.answerFetches req level reason) := by
  unfold State.answerFetches
  refine good_foldl _ h (fun _ _ h1 => ?_)
  refine good_ite (fun _ => ?_) (fun _ => h1)
  dsimp only
  refine good_setCell ?_ _ (cgood_with (cgood_cell h1 _))
  split
  · exact good_xlatFault h1
  · exact h1

theorem good_answerUnits {s : State} (h : Good o p s) {req : Nat} {level : Nat} {reason : Option Nat} : Good o p
    (s.answerUnits req level reason) := by
  unfold State.answerUnits
  split
  · exact (good_of_core h)
  · exact good_foldl _ (good_of_core (good_of_core h)) (fun _ _ h1 => good_xlatFault h1)

theorem good_endRequest {s : State} (h : Good o p s) {req : Nat} {reason : Option Nat} : Good o p (s.endRequest
    req reason) := by
  unfold State.endRequest
  split
  · exact h
  · dsimp only
    split
    · exact good_pumpAll (good_answerUnits (good_answerFetches (good_answerSlots (good_of_core h))))
    · exact good_answerUnits (good_answerFetches (good_answerSlots (good_foldl _ (good_count (good_of_core h)) (fun
        _ _ h1 => good_refuseHead h1))))

theorem good_prspWrite {s : State} (h : Good o p s) {v : Nat} : Good o p (s.prspWrite v) := by
  unfold State.prspWrite
  split
  · exact good_endRequest h
  · exact good_endRequest h
  · exact h

theorem good_refuseAll {s : State} (h : Good o p s) : Good o p s.refuseAll :=
  good_foldl _ h (fun _ _ h1 => good_endRequest h1)

theorem outgood_execPrTimeout {req : BitVec 16} {s : State} (h : Good o p s) : OutGood o p (execPrTimeout req s)
    :=
  outgood_ite (fun _ => outgood_next h) (fun _ => outgood_next (good_goOn (good_orFreg (good_endRequest h))))

theorem good_invalWrite {s : State} (h : Good o p s) {v : Nat} : Good o p (s.invalWrite v) := by
  unfold State.invalWrite
  split
  · exact good_orFreg h
  · exact good_of_core h

theorem outgood_execInvalDone {s : State} (h : Good o p s) : OutGood o p (execInvalDone s) := by
  unfold execInvalDone
  split
  · exact outgood_next h
  · next r _ =>
    cases r with
    | none => exact outgood_next (good_count (good_of_core h))
    | some q => exact outgood_next (good_count (good_of_core h))

theorem outgood_execAtsTranslationCompletion {page : Nat} {r : Option AtsIn} {s : State} (h : Good o p s) :
    OutGood o p (execAtsTranslationCompletion page r s) := by
  unfold execAtsTranslationCompletion
  refine outgood_ite (fun _ => outgood_next h) (fun _ => ?_)
  split
  · exact outgood_next (good_goOn (good_of_core (good_of_core h)))
  · exact outgood_next (good_of_core (good_of_core h))

theorem outgood_execAtsInvalidate {page n : Nat} {s : State} (h : Good o p s) : OutGood o p (execAtsInvalidate
    page n s) :=
  outgood_next (good_of_core h)

theorem outgood_execPriResponse {page : Nat} {ok : Bool} {s : State} (h : Good o p s) : OutGood o p
    (execPriResponse page ok s) :=
  outgood_ite (fun _ => outgood_next h) (fun _ => outgood_ite (fun _ => outgood_next (good_of_core h)) (fun _ =>
    outgood_next (good_goOn (good_of_core h))))

theorem good_cleanLine {s : State} (h : Good o p s) {la : Nat} : Good o p (s.cleanLine la) :=
  good_ite (fun _ => h) (fun _ => good_setLine (good_ite (fun _ => good_rawWrite (good_bringHome (good_drain h)))
    (fun _ => (good_bringHome (good_drain h)))))

theorem opgood_readTag {s : State} (h : Good o p s) {tile : Nat} : OPGood o p (s.readTag tile) := by
  unfold State.readTag
  extract_lets +onlyGivenNames ls
  clear_value ls
  refine opgood_ite (fun _ => opgood_none) (fun _ => ?_)
  extract_lets +onlyGivenNames s1
  have hs1 : Good o p s1 := good_foldl _ h (fun _ _ h2 => good_cleanLine h2)
  clear_value s1
  exact opgood_some hs1

theorem good_apertureRead {s : State} (h : Good o p s) {pa : Nat} : Good o p (s.apertureRead pa).1 := by
  unfold State.apertureRead
  cases apertureTile pa with
  | none => exact h
  | some tile =>
    dsimp only
    split
    · exact good_requestExit h
    · cases q : s.readTag tile with
      | none => 
        dsimp only
        exact good_foldl _ h (fun _ _ h1 => good_recall h1)
      | some r => 
        dsimp only
        exact opgood_readTag h r q

theorem outgood_execTagApertureRead {pa : Meets Nat HbmEcc} {s : State} (h : Good o p s) : OutGood o p
    (execTagApertureRead pa s) := by
  unfold execTagApertureRead
  refine outgood_ite (fun _ => outgood_next h) (fun _ => ?_)
  refine outgood_next ?_
  split
  · exact good_answer (good_apertureRead (good_ite (fun _ => h) (fun _ => good_hbmEcc h)))
  · exact (good_apertureRead (good_ite (fun _ => h) (fun _ => good_hbmEcc h)))

theorem outgood_execScrubRead {blk : Nat} {corrected bad : Bool} {s : State} (h : Good o p s) : OutGood o p
    (execScrubRead blk corrected bad s) := by
  unfold execScrubRead
  refine outgood_ite (fun _ => outgood_next h) (fun _ => ?_)
  extract_lets +onlyGivenNames s1 s2 _
  have hs1 : Good o p s1 := good_count h
  have hs2 : Good o p s2 := good_ite (fun _ => good_hbmUncorrectable hs1) (fun _ => hs1)
  exact outgood_ite (fun _ => outgood_next (good_count (good_of_core hs2))) (fun _ => outgood_next (good_of_core
    hs2))

theorem outgood_execHbmRefresh {a : Fin 20} {s : State} (h : Good o p s) : OutGood o p (execHbmRefresh a s) :=
  outgood_next h

/-! ### Machine/ResetCell.lean -/

theorem cgood_afterReset {x : Cell} (hx : CGood x) : CGood x.afterReset :=
  cgood_orReg (cgood_of (rgood_filter (rgood_regs hx) _))

theorem good_arriveReset {s : State} (h : Good o p s) {c : CellId} : Good o p (s.arriveReset c) :=
  good_foldl _ h (fun _ _ h1 => good_setBarrier h1)

theorem good_resetNow {s : State} (h : Good o p s) {c : CellId} : Good o p (s.resetNow c) := by
  have horphans : Good o p ((List.finRange 6).foldl (fun s n =>
      match (s.cell c).slot n with
      | some t => s.orphan c n t
      | none => s) (s.endDoze c)) := by
    refine good_foldl _ (good_endDoze h) (fun _ _ h1 => ?_)
    split
    · exact good_orphan h1
    · exact h1
  have hsubs := good_setHv (good_arriveReset horphans (c := c))
  exact good_setCell (hsubs _) c (cgood_afterReset (cgood_cell (hsubs _) c))

theorem good_resetCell {s : State} (h : Good o p s) {c : CellId} : Good o p (s.resetCell c) := by
  unfold State.resetCell
  extract_lets +onlyGivenNames x
  have hx : CGood x := cgood_cell h _
  split
  · exact good_requestWake (good_setCell h _ (cgood_with hx))
  · exact good_requestWake (good_setCell h _ (cgood_with hx))
  · exact good_resetNow h
  · exact good_resetNow h

theorem good_noteReset {s : State} (h : Good o p s) {kind : Nat} {mask : Nat} : Good o p (s.noteReset kind mask)
    :=
  good_logEvent (good_count (good_putFreg h))

theorem good_resetCells {s : State} (h : Good o p s) {cs : List CellId} : Good o p (s.resetCells cs) :=
  good_foldl _ h (fun _ _ h1 => good_resetCell h1)

theorem good_cellReset {s : State} (h : Good o p s) {mask : Nat} {note : Nat} : Good o p (s.cellReset mask note)
    := by
  unfold State.cellReset
  split
  · exact h
  · exact good_noteReset (good_resetCells h)

theorem good_bandFails {s : State} (h : Good o p s) {k : Fin 16} : Good o p (s.bandFails k) := by
  unfold State.bandFails
  refine good_ite (fun _ => h) (fun _ => ?_)
  split
  · exact good_failLayer h
  · exact h

theorem good_bandWaits {s : State} (h : Good o p s) {k : Fin 16} : Good o p (s.bandWaits k) :=
  good_foldl _ h (fun _ _ h1 => good_modCell h1 _ (fun _ h2 => cgood_ite (fun _ => cgood_with h2) (fun _ => h2)))

theorem good_bandReset {s : State} (h : Good o p s) {mask : Nat} : Good o p (s.bandReset mask) := by
  unfold State.bandReset
  split
  · exact h
  · exact good_noteReset (good_foldl _ h (fun _ _ h1 => good_bandWaits (good_bandFails (good_resetCells h1))))

/-! ### Machine/HostCmd.lean -/

theorem good_setQp {s : State} (h : Good o p s) {q : Fin 64} {x : QueueSt} : Good o p (s.setQp q x) :=
  good_of_core h

theorem good_queueCfg {s : State} (h : Good o p s) {q : Fin 64} {v : Nat} : Good o p (s.queueCfg q v) :=
  good_ite (fun _ => good_putFreg h) (fun _ => good_ite (fun _ => good_setQp (good_setFreg h _ _)) (fun _ =>
    (good_setFreg h _ _)))

theorem good_dbErr {s : State} (h : Good o p s) {q : Fin 64} : Good o p (s.dbErr q) :=
  good_orFreg h

theorem good_sqDoorbell {s : State} (h : Good o p s) {q : Fin 64} {v : Nat} : Good o p (s.sqDoorbell q v) :=
  good_ite (fun _ => good_dbErr h) (fun _ => good_setQp h)

theorem good_cqDoorbell {s : State} (h : Good o p s) {q : Fin 64} {v : Nat} : Good o p (s.cqDoorbell q v) :=
  good_ite (fun _ => good_dbErr h) (fun _ => good_setQp h)

theorem outgood_execSqDoorbell {q : Fin 64} {v : Half} {s : State} (h : Good o p s) : OutGood o p
    (execSqDoorbell q v s) :=
  outgood_next (good_ite (fun _ => good_sqDoorbell h) (fun _ => h))

theorem outgood_execCqDoorbell {q : Fin 64} {v : Half} {s : State} (h : Good o p s) : OutGood o p
    (execCqDoorbell q v s) :=
  outgood_next (good_ite (fun _ => good_cqDoorbell h) (fun _ => h))

theorem good_setCmd {s : State} (h : Good o p s) {k : Fin 16} {c : Option HostCmd} : Good o p (s.setCmd k c) :=
  good_of_core h

theorem good_takeCmd {s : State} (h : Good o p s) {k : Fin 16} {q : Fin 64} {bytes : Desc} : Good o p (s.takeCmd
    k q bytes) := by
  unfold State.takeCmd
  extract_lets +onlyGivenNames _ s1
  have hs1 : Good o p s1 := good_setCmd h
  exact good_of_core hs1

theorem good_fetchCmd {s : State} (h : Good o p s) {k : Fin 16} {q : Fin 64} {bytes : Desc} : Good o p
    (s.fetchCmd k q bytes) := by
  unfold State.fetchCmd
  extract_lets +onlyGivenNames _ s1
  have hs1 : Good o p s1 := good_takeCmd (good_setQp h)
  exact good_capture (good_of_core hs1)

theorem good_replayInput {s : State} (h : Good o p s) : Good o p s.replayInput := by
  unfold State.replayInput
  split
  · exact h
  · split
    · exact h
    · split
      · exact good_putLatest (good_setJob h)
      · split
        · exact good_ite (fun _ => good_takeCmd (good_setJob h)) (fun _ => h)
        · exact h

theorem outgood_execCommandFetch {entry : Desc} {s : State} (h : Good o p s) : OutGood o p (execCommandFetch
    entry s) := by
  unfold execCommandFetch
  refine outgood_ite (fun _ => outgood_next h) (fun _ => ?_)
  split
  · refine outgood_ite (fun _ => outgood_next (good_recall h)) (fun _ => ?_)
    split
    · exact outgood_next (good_requestExit h)
    · exact outgood_next (good_fetchCmd h)
  · exact outgood_next h

theorem good_finishCmd {s : State} (h : Good o p s) {k : Fin 16} {status detail result : Nat} : Good o p
    (s.finishCmd k status detail result) := by
  unfold State.finishCmd
  split
  · exact good_setCmd h
  · exact h

theorem good_onCmd {s : State} (h : Good o p s) {k : Fin 16} {op : Nat} {f : HostCmd → State → State} (hf : ∀ (a
    : HostCmd) (a_1 : State), Good o p a_1 → Good o p (f a a_1)) : Good o p (s.onCmd k op f) := by
  unfold State.onCmd
  split
  · exact good_ite (fun _ => hf _ _ h) (fun _ => h)
  · exact h

theorem good_awakeFirst {s : State} (h : Good o p s) {cs : List CellId} {f : State → State} (hf : ∀ (a : State),
    Good o p a → Good o p (f a)) : Good o p (s.awakeFirst cs f) := by
  unfold State.awakeFirst
  split
  · exact hf _ h
  · exact good_foldl _ h (fun _ _ h1 => good_requestWake h1)

theorem outgood_execNopCommand {k : Fin 16} {s : State} (h : Good o p s) : OutGood o p (execNopCommand k s) :=
  outgood_next (good_onCmd h (fun _ _ h1 => good_finishCmd h1))

theorem outgood_execCellStart {k : Fin 16} {s : State} (h : Good o p s) : OutGood o p (execCellStart k s) :=
  outgood_next (good_onCmd h (fun _ _ h1 => good_finishCmd (good_foldl _ h1 (fun _ _ h2 => good_ite (fun _ => h2)
    (fun _ => good_startCell (good_ite (fun _ => good_modCell h2 _ (fun _ h5 => cgood_with h5)) (fun _ => h2)))))))

theorem outgood_execCellHalt {k : Fin 16} {s : State} (h : Good o p s) : OutGood o p (execCellHalt k s) :=
  outgood_next (good_onCmd h (fun _ _ h1 => good_awakeFirst h1 (fun _ h2 => good_finishCmd (good_foldl _ h2 (fun _ _
    h3 => good_haltCell h3)))))

theorem outgood_execCellReset {k : Fin 16} {s : State} (h : Good o p s) : OutGood o p (execCellReset k s) :=
  outgood_next (good_onCmd h (fun _ _ h1 => good_finishCmd (good_cellReset h1)))

theorem outgood_execBandReset {k : Fin 16} {s : State} (h : Good o p s) : OutGood o p (execBandReset k s) :=
  outgood_next (good_onCmd h (fun _ _ h1 => good_finishCmd (good_bandReset h1)))

theorem agood_reach {write : Bool} {fuel va n : Nat} {s : State} (h : Good o p s) :
    AGood o p (State.reach write fuel va n s) := by
  induction fuel generalizing va n s with
  | zero => exact agood_ok h _
  | succ fuel ih =>
    unfold State.reach
    refine agood_ite (fun _ => agood_ok h _) (fun _ => ?_)
    extract_lets +onlyGivenNames m t
    have ht : Good o p t.1 := good_translate h
    clear_value t
    split
    · exact agood_fault ht _
    · exact agood_wait ht _
    · exact agood_fault ht _
    · next a _ =>
      extract_lets +onlyGivenNames held
      have hheld : OPGood o p held := by
        refine opgood_ite (fun _ => opgood_linesWait ht) (fun _ => ?_)
        split
        · exact opgood_rawWait ht
        · exact opgood_none
      clear_value held
      cases held with
      | some r => exact agood_wait (hheld _ rfl) _
      | none =>
        dsimp only
        generalize hwin : (if a.cacheable then .ok () else match region a.pa with
          | .window w off => t.1.winCheck w off m
          | _ => .ok () : MRes Unit) = win
        have hw : MRGood o p (fun _ => True) win := by
          subst hwin
          refine mgood_ite (fun _ => trivial) (fun _ => ?_)
          split
          · exact mgood_winCheck ht
          · trivial
        cases win with
        | ok u => exact ih ht
        | wait s w => exact agood_wait hw _
        | range => exact agood_range ht

theorem good_translated {s : State} (h : Good o p s) {k : Fin 16} {rs : List (Nat × Nat × Bool)} {f : State →
    State} (hf : ∀ (a : State), Good o p a → Good o p (f a)) : Good o p (s.translated k rs f) := by
  unfold State.translated
  split
  · exact good_finishCmd (good_of_core h)
  · extract_lets +onlyGivenNames go
    have hgo : AGood o p go := agood_foldl _ (agood_ok h _) (fun _ _ h1 => agood_bind h1 (fun _ h2 _ => agood_reach
      h2))
    clear_value go
    split
    · exact hf _ h
    · extract_lets +onlyGivenNames va r
      clear_value va r
      exact good_of_core hgo
    · exact hgo
    · exact good_finishCmd hgo
    · exact good_finishCmd hgo

theorem outgood_execImLoad {k : Fin 16} {s : State} (h : Good o p s) : OutGood o p (execImLoad k s) := by
  unfold execImLoad
  refine outgood_next ?_
  refine good_onCmd h (fun _ _ h1 => ?_)
  extract_lets +onlyGivenNames _ _
  refine good_translated h1 (fun _ h2 => ?_)
  refine good_awakeFirst h2 (fun _ h3 => ?_)
  split
  · next q =>
      exact good_ite (fun _ => good_finishCmd (good_of_aok q (agood_spanRead h3))) (fun _ => good_ite (fun _ =>
        good_finishCmd (good_of_aok q (agood_spanRead h3))) (fun _ => good_finishCmd (good_foldl _ (good_of_aok q
        (agood_spanRead h3)) (fun _ _ h6 => good_modCell (good_endDoze h6) _ (fun _ h7 => cgood_imWrite h7)))))
  · next q1 => exact good_of_await q1 (agood_spanRead h3)
  · next q => exact good_finishCmd (good_of_afault q (agood_spanRead h3))
  · next q => exact good_finishCmd (good_of_arange q (agood_spanRead h3))

theorem good_cmdWrite {s : State} (h : Good o p s) {k : Fin 16} {va : Nat} {d : List PByte} {cls : Fin 8} : Good
    o p (s.cmdWrite k va d cls) := by
  unfold State.cmdWrite
  split
  · next q => exact good_finishCmd (good_of_aok q (agood_spanWrite h))
  · next q1 => exact good_of_await q1 (agood_spanWrite h)
  · next q => exact good_finishCmd (good_of_afault q (agood_spanWrite h))
  · next q => exact good_finishCmd (good_of_arange q (agood_spanWrite h))

theorem outgood_execCopy {k : Meets (Fin 16) MemUpset} {s : State} (h : Good o p s) : OutGood o p (execCopy k s)
    := by
  unfold execCopy
  refine outgood_next ?_
  refine good_onCmd h (fun _ _ h1 => ?_)
  refine good_translated h1 (fun _ h2 => ?_)
  split
  · next q => exact good_cmdWrite (good_of_aok q (agood_spanRead (good_memUpset h2)))
  · next q1 => exact good_of_await q1 (agood_spanRead (good_memUpset h2))
  · next q => exact good_finishCmd (good_of_afault q (agood_spanRead (good_memUpset h2)))
  · next q => exact good_finishCmd (good_of_arange q (agood_spanRead (good_memUpset h2)))

theorem outgood_execFill {k : Fin 16} {s : State} (h : Good o p s) : OutGood o p (execFill k s) :=
  outgood_next (good_onCmd h (fun _ _ h1 => good_translated h1 (fun _ h2 => good_cmdWrite h2)))

theorem outgood_execSemPost {k : Fin 16} {s : State} (h : Good o p s) : OutGood o p (execSemPost k s) :=
  outgood_next (good_onCmd h (fun _ _ h1 => good_ite (fun _ => good_finishCmd h1) (fun _ => good_awakeFirst h1 (fun
    _ h3 => good_finishCmd (good_post h3)))))

theorem good_publish {s : State} (h : Good o p s) {p1 : Publication} : Good o p (s.publish p1) :=
  good_hostEvent (good_count (good_setBox h))

theorem good_ackBox {s : State} (h : Good o p s) {m : Nat} {v : BitVec 32} : Good o p (s.ackBox m v) :=
  good_ite (fun _ => good_setBox h) (fun _ => good_count h)

theorem outgood_execMailboxAck {m : BitVec 12} {v : Half} {s : State} (h : Good o p s) : OutGood o p
    (execMailboxAck m v s) :=
  outgood_next (good_ite (fun _ => good_ackBox h) (fun _ => h))

theorem good_complete {s : State} (h : Good o p s) {k : Fin 16} {c : HostCmd} {status detail result : Nat} :
    Good o p (s.complete k c status detail result) := by
  unfold State.complete
  extract_lets +onlyGivenNames q x cfg bs a waits v s1 t s2 s3 s4
  have hs1 : Good o p s1 := good_ite (fun _ => good_putLatest h) (fun _ => good_hostWrite h)
  have hs2 : Good o p s2 := good_setCmd (good_setQp hs1)
  have hs3 : Good o p s3 := good_count hs2
  have hs4 : Good o p s4 := good_ite (fun _ => hs3) (fun _ => good_count hs3)
  clear_value q x cfg bs a waits v s1 t s2 s3 s4
  refine good_ite (fun _ => good_of_core hs4) (fun _ => ?_)
  split
  · exact good_sendMsi hs4
  · exact hs4

theorem outgood_execCompletionWrite {k : Fin 16} {s : State} (h : Good o p s) : OutGood o p (execCompletionWrite
    k s) := by
  unfold execCompletionWrite
  split
  · exact outgood_next h
  · split
    · exact outgood_next h
    · refine outgood_ite (fun _ => outgood_next h) (fun _ => ?_)
      refine outgood_ite (fun _ => outgood_next (good_stallF h)) (fun _ => ?_)
      refine outgood_ite (fun _ => outgood_next h) (fun _ => ?_)
      extract_lets +onlyGivenNames _
      split
      · exact outgood_next (good_requestExit h)
      · exact outgood_next (good_complete h)

theorem good_postAdvance {s : State} (h : Good o p s) : Good o p s.postAdvance := by
  unfold State.postAdvance
  extract_lets +onlyGivenNames _ s1
  have hs1 : Good o p s1 := good_setFreg h _ _
  split
  · next q => exact good_of_aok q (agood_spanWrite hs1)
  · exact hs1

theorem good_postError {s : State} (h : Good o p s) {va : Nat} {reason : Nat} : Good o p (s.postError va reason)
    := by
  unfold State.postError
  exact good_postAdvance (good_logEvent (good_hostEvent (good_orFreg h)))

theorem good_postReady {s : State} (h : Good o p s) {f : State → State} (hf : ∀ (a : State), Good o p a → Good o
    p (f a)) : Good o p (s.postReady f) := by
  unfold State.postReady
  split
  · next q => exact good_of_await q (agood_reach h)
  · exact hf _ h

theorem good_takePost {s : State} (h : Good o p s) {r : Nat} : Good o p (s.takePost r) := by
  unfold State.takePost
  extract_lets +onlyGivenNames va len
  refine good_ite (fun _ => good_postReady h (fun _ h1 => good_postError h1)) (fun _ => ?_)
  split
  · exact good_postReady (good_of_core h) (fun _ h1 => good_postError h1)
  · extract_lets +onlyGivenNames t
    have ht : Good o p t.1 := good_translate h
    clear_value t
    split
    · exact good_postReady ht (fun _ h1 => good_postError h1)
    · exact good_of_core ht
    · exact good_postReady ht (fun _ h1 => good_postError h1)
    · exact good_of_core (good_setBox ht)

theorem outgood_execPostTrigger {s : State} (h : Good o p s) : OutGood o p (execPostTrigger s) := by
  unfold execPostTrigger
  refine outgood_ite (fun _ => outgood_next h) (fun _ => ?_)
  split
  · next q =>
      extract_lets +onlyGivenNames _
      refine outgood_ite (fun _ => outgood_next (good_of_aok q (agood_spanRead h))) (fun _ => ?_)
      split
      · next q1 =>
          exact outgood_next (good_ite (fun _ => good_postReady (good_of_aok q1 (agood_spanRead (good_of_aok q
            (agood_spanRead h)))) (fun _ h5 => good_postError h5)) (fun _ => good_takePost (good_of_aok q1
            (agood_spanRead (good_of_aok q (agood_spanRead h))))))
      · next q2 =>
          exact outgood_next (good_of_await q2 (agood_spanRead (good_of_aok q (agood_spanRead h))))
      · next q1 =>
          exact outgood_next (good_of_afault q1 (agood_spanRead (good_of_aok q (agood_spanRead h))))
      · next q1 =>
          exact outgood_next (good_of_arange q1 (agood_spanRead (good_of_aok q (agood_spanRead h))))
  · next q1 => exact outgood_next (good_of_await q1 (agood_spanRead h))
  · next q => exact outgood_next (good_of_afault q (agood_spanRead h))
  · next q => exact outgood_next (good_of_arange q (agood_spanRead h))

theorem outgood_execMailboxPublish {src : Option (Fin 16)} {s : State} (h : Good o p s) : OutGood o p
    (execMailboxPublish src s) := by
  unfold execMailboxPublish
  split
  · split
    · exact outgood_next h
    · exact outgood_ite (fun _ => outgood_next (good_stallF h)) (fun _ => outgood_next (good_postReady h (fun _ h2
        => good_postAdvance (good_publish (good_of_core h2)))))
  · split
    · exact outgood_next h
    · split
      · exact outgood_next h
      · exact outgood_ite (fun _ => outgood_next h) (fun _ => outgood_ite (fun _ => outgood_next (good_stallF h))
          (fun _ => outgood_next (good_setCmd (good_publish h))))

/-! ### Machine/HostMem.lean -/

theorem good_grant {s : State} (h : Good o p s) {blk : Nat} {excl : Bool} : Good o p (s.grant blk excl) :=
  good_of_core h

theorem good_callBack {s : State} (h : Good o p s) {blk : Nat} {inv : Bool} : Good o p (s.callBack blk inv) :=
  good_ite (fun _ => h) (fun _ => good_count (good_of_core h))

theorem good_grantRoom {s : State} (h : Good o p s) {blk : Nat} {f : State → State} (hf : ∀ (a : State), Good o
    p a → Good o p (f a)) : Good o p (s.grantRoom blk f) := by
  unfold State.grantRoom
  refine good_ite (fun _ => hf _ h) (fun _ => ?_)
  split
  · exact good_callBack h
  · exact hf _ h

theorem good_hostLoad {s : State} (h : Good o p s) {da : Nat} : Good o p (s.hostLoad da) :=
  good_ite (fun _ => good_answer (good_grant h)) (fun _ => good_answer (good_grant (good_used (good_homeArrive h))))

theorem outgood_execHdmRead {hpa : Meets Nat MemUpset} {s : State} (h : Good o p s) : OutGood o p (execHdmRead
    hpa s) := by
  unfold execHdmRead
  split
  · exact outgood_next h
  · refine outgood_ite (fun _ => outgood_next (good_epochWait h)) (fun _ => ?_)
    split
    · exact outgood_next (good_requestExit h)
    · exact outgood_next (good_grantRoom h (fun _ h2 => good_hostLoad (good_memUpset h2)))

theorem good_storeBlock {s : State} (h : Good o p s) {blk : Nat} {bs : List (Nat × PByte)} : Good o p
    (s.storeBlock blk bs) :=
  good_ite (fun _ => good_hbmWrite h) (fun _ => good_foldl _ h (fun _ _ h2 => good_hbmWrite h2))

theorem good_hostStore {s : State} (h : Good o p s) {da : Nat} {data : Desc} {be : BitVec 64} {poison : Bool}
    {keep : Option Bool} : Good o p (s.hostStore da data be poison keep) := by
  unfold State.hostStore
  split
  · exact good_flushPosted (good_of_core (good_ite (fun _ => good_storeBlock h) (fun _ => good_place
      (good_homeArrive h))))
  · exact good_grant (good_ite (fun _ => good_storeBlock h) (fun _ => good_place (good_homeArrive h)))

theorem good_captureWrite {s : State} (h : Good o p s) {blk : Nat} {data : Desc} {be : BitVec 64} : Good o p
    (s.captureWrite blk data be) :=
  good_capture h

theorem outgood_execHdmWrite {hpa : Meets Nat MemUpset} {data : Desc} {be : BitVec 64} {poison : Bool} {keep :
    Option Bool} {s : State} (h : Good o p s) : OutGood o p (execHdmWrite hpa data be poison keep s) := by
  unfold execHdmWrite
  split
  · exact outgood_next h
  · refine outgood_ite (fun _ => outgood_next (good_epochWait h)) (fun _ => ?_)
    split
    · exact outgood_next (good_requestExit h)
    · extract_lets +onlyGivenNames go
      have hgo : ∀ (s : State), Good o p s → Good o p (go s) := fun _ h2 => good_captureWrite (good_hostStore
        (good_memUpset h2))
      refine outgood_next ?_
      split
      · exact hgo _ h
      · exact good_grantRoom h (fun _ h2 => hgo _ h2)

theorem outgood_execBisnpResponse {blk : Nat} {dirty : Option (Desc × Bool)} {s : State} (h : Good o p s) :
    OutGood o p (execBisnpResponse blk dirty s) := by
  unfold execBisnpResponse
  split
  · exact outgood_next h
  · refine outgood_ite (fun _ => outgood_next h) (fun _ => ?_)
    split
    · exact outgood_next (good_requestExit h)
    · dsimp only
      refine outgood_next ?_
      refine good_goOn ?_
      refine good_flushPosted ?_
      refine good_lineLeft ?_
      split
      · exact good_captureWrite (good_putNow (good_of_core h))
      · exact (good_of_core h)

theorem outgood_execHostSnoop {blk : Nat} {inv : Bool} {s : State} (h : Good o p s) : OutGood o p (execHostSnoop
    blk inv s) := by
  unfold execHostSnoop
  extract_lets +onlyGivenNames _
  refine outgood_ite (fun _ => outgood_next h) (fun _ => ?_)
  extract_lets +onlyGivenNames s1 _ s2
  have hs1 : Good o p s1 := good_bringHome (good_drain h)
  have hs2 : Good o p s2 := good_homePath (good_answer hs1)
  refine outgood_ite (fun _ => outgood_next (good_dropLine hs2)) (fun _ => ?_)
  extract_lets +onlyGivenNames s3
  have hs3 : Good o p s3 := good_ite (fun _ => good_rawWrite hs2) (fun _ => hs2)
  exact outgood_next (good_setLine hs3)

theorem outgood_execDoeRequest {r : DoeIn} {s : State} (h : Good o p s) : OutGood o p (execDoeRequest r s) := by
  unfold execDoeRequest
  split
  · exact outgood_next h
  · split <;> exact outgood_next (good_answer h)

/-! ### Machine/ResetDev.lean -/

theorem good_clearMain {s : State} (h : Good o p s) : Good o p s.clearMain := by
  refine good_setFreg (good_mk.mpr ?_) _ _
  exact ⟨fgood_filter h.floor _, cgood_resetCells, h.mem, ⟨rfl, rfl, h.lists.2.2⟩, h.otp, h.queue⟩

theorem good_mainLost {s : State} (h : Good o p s) : Good o p s.mainLost := by
  have hmain := good_clearMain h
  exact good_of_core (good_withMem hmain (mgood_hostOnly hmain.mem))

theorem good_deviceClear {s : State} (h : Good o p s) : Good o p s.deviceClear := by
  unfold State.deviceClear
  extract_lets +onlyGivenNames uj lost epoch s1 m src src2 s2 s3
  have h1 : Good o p s1 := good_clearMain h
  clear_value s1
  have h2 : Good o p s2 := good_intro (fgood_filter h1.floor _) h1.cell (mgood_noLines h1.mem) h1.lists h1.otp h1.queue
  have h3 : Good o p s3 := good_orFreg (good_setFreg h2 _ _)
  exact good_setFreg (good_clrFreg (good_clrFreg h3)) _ _

theorem good_spoilCell {d : Nat} {s : State} (h : Good o p s) {c : CellId} : Good o p (State.spoilCell d s c) := by
  unfold State.spoilCell
  exact good_modSlice (good_modCell h _ (fun _ h1 => cgood_with h1))

theorem good_spoilData {s : State} (h : Good o p s) : Good o p s.spoilData := by
  unfold State.spoilData
  extract_lets +onlyGivenNames d s1 m
  have h1 : Good o p s1 := good_foldl _ h (fun _ _ h2 => good_spoilCell h2)
  clear_value s1
  obtain ⟨-, -, hhost, hlines⟩ := (mgood_iff _).mp h1.mem
  refine good_of_core (good_withMem h1 ((mgood_iff { m with hbm := [], tagSyn := [], hbmEpoch := d + 1, lines := _ }).mpr
    ⟨rfl, rfl, hhost, smap_wf_map _ (fun e => ?_) (fun e he => ?_) hlines⟩))
  · split <;> rfl
  · split
    · exact he
    · next hi => exact fun hdef => hi (by simpa using congrArg Line.st hdef)

theorem good_fatalError {s : State} (h : Good o p s) {source cause : Nat} : Good o p (s.fatalError source cause) := by
  unfold State.fatalError
  extract_lets +onlyGivenNames s1 s2 src s3 s4
  have h1 : Good o p s1 := good_orFreg h
  have h2 : Good o p s2 := good_foldl _ h1 (fun _ _ h2 => good_haltCell h2)
  clear_value s2
  have h3 : Good o p s3 := good_of_core h2
  have h4 : Good o p s4 := by
    refine good_foldl _ h3 (fun _ _ h4 => ?_)
    split
    · exact good_abortInst h4
    · exact h4
  exact good_logEvent (good_spoilData h4)

theorem good_clearHi {s : State} (h : Good o p s) : Good o p s.clearHi :=
  good_intro (fgood_filter h.floor _) h.cell h.mem h.lists h.otp h.queue

theorem good_dropStep {s : State} (h : Good o p s) : Good o p s.dropStep :=
  good_of_core h

theorem good_dropJob {s : State} (h : Good o p s) : Good o p s.dropJob := by
  unfold State.dropJob
  split
  · exact good_of_core h
  · exact good_of_core (good_ite (fun _ => good_clrFreg h) (fun _ => h))

theorem good_disarmAll {s : State} (h : Good o p s) : Good o p s.disarmAll :=
  good_of_core h

theorem good_dropEntries {s : State} (h : Good o p s) : Good o p s.dropEntries :=
  good_of_core h

theorem good_functionReset {s : State} (h : Good o p s) : Good o p s.functionReset := by
  unfold State.functionReset
  extract_lets +onlyGivenNames hs s1 src s2 s3 s4 src2 s5 s6 src3 s7
  have h1 : Good o p s1 := good_dropEntries h
  have h2 : Good o p s2 := good_noBoxes h1 rfl
  have h3 : Good o p s3 := good_disarmAll (good_noticeAll h2)
  have h4 : Good o p s4 := good_dropStep h3
  clear_value s4
  have h5 : Good o p s5 := good_dropJob (good_of_core h4)
  have h6 : Good o p s6 := good_refuseAll (good_resetCells h5)
  clear_value s6
  have h7 : Good o p s7 := good_of_core h6
  exact good_noteReset (good_clearHi (good_redoWc h7))

theorem good_loseHostBlock {s : State} (hs : Good o p s) {h : Nat × Bool} : Good o p (s.loseHostBlock h) :=
  good_ite (fun _ => good_logEvent (good_putNow (good_draw (good_ite (fun _ => hs) (fun _ => good_count hs))))) (fun
    _ => good_draw (good_ite (fun _ => hs) (fun _ => good_count hs)))

theorem good_flushLine {s : State} (h : Good o p s) {la : Nat} : Good o p (s.flushLine la) := by
  unfold State.flushLine
  extract_lets +onlyGivenNames s1 _ s'
  have hs1 : Good o p s1 := good_bringHome (good_drain h)
  have hs' : Good o p s' := good_draw hs1
  exact good_ite (fun _ => good_logEvent (good_setLine hs')) (fun _ => good_ite (fun _ => good_dropLine hs') (fun _
    => good_ite (fun _ => good_setLine (good_rawWrite hs')) (fun _ => hs')))

theorem good_flushHost {s : State} (h : Good o p s) : Good o p s.flushHost := by
  unfold State.flushHost
  split
  · exact good_foldl _ (good_flushPosted (good_of_core (good_foldl _ (good_foldl _ h (fun _ _ h1 =>
      good_loseHostBlock h1)) (fun _ _ h1 => good_flushLine h1)))) (fun _ _ h1 => good_dropLine h1)
  · exact h

theorem good_drainFloor {s : State} (h : Good o p s) : Good o p s.drainFloor :=
  good_stopPll (good_of_core h)

theorem good_landSome {c : CellId} {n : Fin 6} {fuel : Nat} {t s : State} (ht : Good o p t) (hs : Good o p s) :
    Good o p (State.landSome c n fuel t s) := by
  induction fuel generalizing t s with
  | zero => exact hs
  | succ fuel ih =>
    unfold State.landSome
    extract_lets +onlyGivenNames t1 t2 landed
    have ht1 : Good o p t1 := good_of_core (good_withMem ht hs.mem)
    have ht2 : Good o p t2 := good_microTransfer ht1
    clear_value t2
    have hmem : MGood (if landed then t2.mem else s.mem) := by
      split
      · exact ht2.mem
      · exact hs.mem
    exact ih ht2 (good_of_core (good_withMem hs hmem))

theorem good_haltCrossing {s : State} (h : Good o p s) {c : CellId} {n : Fin 6} {t : Transfer} {k : Nat} : Good
    o p (s.haltCrossing c n t k) := by
  unfold State.haltCrossing
  refine good_modCell (good_failSlot (good_countC (good_ite (fun _ => (good_draw h)) (fun _ => good_landSome
    (good_draw h) (good_draw h))))) _ (fun _ h1 => ?_)
  split
  · exact cgood_setSlot h1
  · exact h1

theorem good_haltSlots {c : CellId} {l : List (Fin 6)} {n : Nat} {s : State} (h : Good o p s) : Good o p
    (State.haltSlots c l n s) := by
  induction l generalizing c n s with
  | nil =>
    unfold State.haltSlots
    exact h
  | cons a l ih =>
    unfold State.haltSlots
    dsimp only
    split
    · exact ih h
    · split
      · exact ih (good_failSlot h)
      · exact good_ite (fun _ => ih (good_ite (fun _ => good_draw h) (fun _ => good_haltCrossing (good_draw h))))
          (fun _ => ih h)
      · exact ih h

theorem good_haltFloor {s : State} (h : Good o p s) : Good o p s.haltFloor :=
  good_foldl _ h (fun _ _ h1 => good_haltSlots h1)

theorem good_payPoison {s : State} (h : Good o p s) : Good o p s.payPoison := by
  unfold State.payPoison
  refine good_ite (fun _ => h) (fun _ => ?_)
  refine good_ite (fun _ => good_of_core h) (fun _ => ?_)
  split
  · next q => exact good_pumpDeliver (good_of_core (good_of_ok q (hgood_validLayers h)))
  · next q => exact good_of_wait q (hgood_validLayers h)
  · next q => exact good_of_core (good_of_fail q (hgood_validLayers h))

theorem good_floorClear {s : State} (h : Good o p s) : Good o p s.floorClear := by
  unfold State.floorClear
  extract_lets +onlyGivenNames s1 s2 src s3 s4 hs src2 s5 s6 src3 src4 s7 s8 s9
  have h2 : Good o p s2 := good_noticeAll (good_flushHost h)
  clear_value s2
  have h3 : Good o p s3 := good_of_core h2
  have h4 : Good o p s4 := good_haltFloor (good_drainFloor h3)
  clear_value s4
  have h5 : Good o p s5 := good_clearHi (good_noBoxes h4 rfl)
  have h6 : Good o p s6 := good_refuseAll h5
  clear_value s6
  have h7 : Good o p s7 := good_intro h6.floor h6.cell h6.mem ⟨rfl, h6.lists.2⟩ h6.otp h6.queue
  have h9 : Good o p s9 := good_setFreg (good_setFreg h7 _ _) _ _
  exact good_foldl _ h9 (fun _ _ h10 => good_setFreg h10 _ _)

/-! ### Machine/Power.lean -/

theorem good_putTemps {s : State} (h : Good o p s) {reg : Nat → Nat} {n : Nat} {l : List ℤ} : Good o p
    (s.putTemps reg n l) := by
  unfold State.putTemps
  refine good_foldl _ h (fun _ _ h1 => ?_)
  split
  · exact good_setFreg h1 _ _
  · exact h1

theorem good_putTherm {s : State} (h : Good o p s) : Good o p s.putTherm := by
  unfold State.putTherm
  split
  · exact good_setFreg h _ _
  · exact h

theorem good_tripNow {s : State} (h : Good o p s) {cause : Nat × ℤ} : Good o p (s.tripNow cause) := by
  unfold State.tripNow
  exact good_logEvent (good_orFreg (good_mainLost (good_of_core h)))

theorem good_readSensors {s : State} (h : Good o p s) {i : IntervalIn} : Good o p (s.readSensors i) := by
  unfold State.readSensors
  refine good_ite (fun _ => (good_putTherm (good_putTemps (good_putTemps h)))) (fun _ => ?_)
  split
  · exact good_tripNow (good_putTherm (good_putTemps (good_putTemps h)))
  · exact (good_putTherm (good_putTemps (good_putTemps h)))

theorem good_advanceEnergy {s : State} (h : Good o p s) {uj : Nat} : Good o p (s.advanceEnergy uj) :=
  good_draw (good_count h)

theorem good_closeWindow {s : State} (h : Good o p s) : Good o p s.closeWindow :=
  good_of_core (good_advanceEnergy h)

theorem good_evalPhase {s : State} (h : Good o p s) : Good o p s.evalPhase :=
  good_setFreg (good_of_core h) _ _

theorem good_stackTherm {s : State} (h : Good o p s) : Good o p s.stackTherm :=
  good_of_core h

theorem good_slowInstances {s : State} (h : Good o p s) : Good o p s.slowInstances :=
  good_foldl _ h (fun _ _ h1 => good_slowInst h1)

theorem good_showLevel {s : State} (h : Good o p s) : Good o p s.showLevel := by
  unfold State.showLevel
  extract_lets +onlyGivenNames _ _ _ s1 s2 s3
  have hs1 : Good o p s1 := good_setFreg h _ _
  have hs2 : Good o p s2 := good_ite (fun _ => good_count hs1) (fun _ => hs1)
  have hs3 : Good o p s3 := good_ite (fun _ => good_count hs2) (fun _ => hs2)
  refine good_ite (fun _ => hs3) (fun _ => ?_)
  extract_lets +onlyGivenNames s4
  have hs4 : Good o p s4 := good_ite (fun _ => good_slowInstances (good_orFreg hs3)) (fun _ => good_clrFreg hs3)
  exact good_ite (fun _ => hs4) (fun _ => good_foldl _ hs4 (fun _ _ h3 => good_ite (fun _ => good_stall h3) (fun _
    => h3)))

theorem good_showPoint {s : State} (h : Good o p s) : Good o p s.showPoint :=
  good_setFreg h _ _

theorem good_choosePoint {s : State} (h : Good o p s) {want : Nat} {ahead : Nat} : Good o p (s.choosePoint want
    ahead) :=
  good_showPoint (good_of_core h)

theorem good_setFrequency {s : State} (h : Good o p s) : Good o p s.setFrequency :=
  good_ite (fun _ => (good_ite (fun _ => good_count h) (fun _ => h))) (fun _ => good_ite (fun _ => good_choosePoint
    (good_ite (fun _ => good_count h) (fun _ => h))) (fun _ => good_choosePoint (good_ite (fun _ => good_count h)
    (fun _ => h))))

theorem good_controlStep {s : State} (h : Good o p s) {acts : List Nat} : Good o p (s.controlStep acts) := by
  unfold State.controlStep
  extract_lets +onlyGivenNames s1 s2 _ _ _ s3 s4 s5 _ _ s6
  have hs1 : Good o p s1 := good_setFreg h _ _
  have hs2 : Good o p s2 := good_ite (fun _ => good_closeWindow hs1) (fun _ => hs1)
  have hs3 : Good o p s3 := good_of_core hs2
  have hs4 : Good o p s4 := good_setFreg hs3 _ _
  have hs5 : Good o p s5 := good_evalPhase hs4
  have hs6 : Good o p s6 := good_of_core hs5
  exact good_setFrequency (good_showLevel (good_stackTherm hs6))

theorem good_refitAll {s : State} (h : Good o p s) {m : ℚ} {e a1 : ℚ} : Good o p (s.refitAll m e a1) := by
  unfold State.refitAll
  extract_lets +onlyGivenNames w ed q w' s1 s2 s3
  have hs2 : Good o p s2 := good_of_core h
  have hs3 : Good o p s3 := good_foldl _ hs2 (fun _ _ h1 => good_setFreg h1 _ _)
  clear_value w ed q w' s1 s2 s3
  exact good_ite (fun _ => hs3) (fun _ => good_orFreg (good_of_core hs3))

theorem good_judge {s : State} (h : Good o p s) {watts : Nat} {e : ℚ} : Good o p (s.judge watts e) :=
  good_ite (fun _ => good_ite (fun _ => good_clrFreg (good_of_core h)) (fun _ => (good_of_core h))) (fun _ =>
    good_ite (fun _ => good_logEvent (good_count (good_orFreg (good_of_core h)))) (fun _ => (good_of_core h)))

theorem outgood_execPowerMeasurement {watts uj : Nat} {s : State} (h : Good o p s) : OutGood o p
    (execPowerMeasurement watts uj s) := by
  unfold execPowerMeasurement
  refine outgood_ite (fun _ => outgood_next h) (fun _ => ?_)
  extract_lets +onlyGivenNames _ _ _ _ _ s1 s2 s3
  have hs1 : Good o p s1 := good_clrFreg (good_advanceEnergy (good_setFreg h _ _))
  have hs2 : Good o p s2 := good_of_core hs1
  have hs3 : Good o p s3 := good_ite (fun _ => good_refitAll hs2) (fun _ => hs2)
  exact outgood_next (good_judge hs3)

theorem outgood_execMeasurementLost {s : State} (h : Good o p s) : OutGood o p (execMeasurementLost s) :=
  outgood_ite (fun _ => outgood_next (good_logEvent (good_orFreg h))) (fun _ => outgood_next h)

theorem outgood_execVoltageRampDone {s : State} (h : Good o p s) : OutGood o p (execVoltageRampDone s) := by
  unfold execVoltageRampDone
  split
  · exact outgood_next h
  · exact outgood_next (good_showPoint (good_of_core h))

theorem outgood_execDroopTrip {c : CellId} {s : State} (h : Good o p s) : OutGood o p (execDroopTrip c s) :=
  outgood_ite (fun _ => outgood_next h) (fun _ => outgood_next (good_setCell h _ (cgood_with (cgood_count
    (cgood_cell h _)))))

theorem outgood_execDroopEnd {c : CellId} {s : State} (h : Good o p s) : OutGood o p (execDroopEnd c s) :=
  outgood_ite (fun _ => outgood_next h) (fun _ => outgood_next (good_draw (good_setCell h _ (cgood_with (cgood_count
    (cgood_cell h _))))))

theorem outgood_execDozeEntry {c : CellId} {s : State} (h : Good o p s) : OutGood o p (execDozeEntry c s) :=
  outgood_ite (fun _ => outgood_next (good_modCell h _ (fun _ h2 => cgood_with h2))) (fun _ => outgood_next h)

theorem outgood_execDozeWake {c : CellId} {s : State} (h : Good o p s) : OutGood o p (execDozeWake c s) :=
  outgood_ite (fun _ => outgood_next (good_pump (good_endDoze h))) (fun _ => outgood_next h)

theorem good_awoken {s : State} (h : Good o p s) {c : CellId} : Good o p (s.awoken c) := by
  unfold State.awoken
  extract_lets +onlyGivenNames x s1 _ s3
  have hx : CGood x := cgood_cell h _
  have hs1 : CGood s1 := cgood_count hx
  have hs3 : Good o p s3 := good_setCell h _ (cgood_with hs1)
  refine good_ite (fun _ => good_resetNow hs3) (fun _ => ?_)
  extract_lets +onlyGivenNames s4
  have hs4 : Good o p s4 := good_foldl _ hs3 (fun _ _ h2 => good_post h2)
  exact good_ite (fun _ => good_startCell hs4) (fun _ => hs4)

theorem outgood_execCellWakeDone {c : CellId} {s : State} (h : Good o p s) : OutGood o p (execCellWakeDone c s)
    := by
  unfold execCellWakeDone
  split
  · exact outgood_next (good_goOn (good_awoken h))
  · exact outgood_next h
  · exact outgood_next h
  · exact outgood_next h

theorem good_wakeMask {s : State} (h : Good o p s) {k : Nat} {v : Nat} : Good o p (s.wakeMask k v) :=
  good_foldl _ h (fun _ _ h1 => good_ite (fun _ => good_requestWake h1) (fun _ => h1))

theorem outgood_execWakeAdmission {s : State} (h : Good o p s) : OutGood o p (execWakeAdmission s) :=
  outgood_next (good_foldl _ (good_of_core h) (fun _ _ h1 => good_beginWake h1))

theorem good_enterSr {s : State} (h : Good o p s) {i : Nat} : Good o p (s.enterSr i) :=
  good_stopPll (good_of_core h)

theorem good_requestSr {s : State} (h : Good o p s) {v : Nat} : Good o p (s.requestSr v) :=
  good_foldl _ h (fun _ _ h1 => good_ite (fun _ => h1) (fun _ => good_ite (fun _ => good_enterSr h1) (fun _ =>
    good_ite (fun _ => h1) (fun _ => good_of_core h1))))

theorem outgood_execHbmIdleSelfRefresh {i : Fin 20} {s : State} (h : Good o p s) : OutGood o p
    (execHbmIdleSelfRefresh i s) :=
  outgood_ite (fun _ => outgood_next (good_enterSr h)) (fun _ => outgood_next h)

theorem outgood_execHbmSrExitDone {i : Fin 20} {s : State} (h : Good o p s) : OutGood o p (execHbmSrExitDone i
    s) :=
  outgood_ite (fun _ => outgood_next (good_goOn (good_count (good_of_core h)))) (fun _ => outgood_next h)

theorem outgood_execRailCheck {rails sensors : List (Nat × ℤ)} {s : State} (h : Good o p s) : OutGood o p
    (execRailCheck rails sensors s) := by
  unfold execRailCheck
  refine outgood_ite (fun _ => outgood_next h) (fun _ => ?_)
  extract_lets +onlyGivenNames note s1
  have hnote : ∀ (s : State), Good o p s → ∀ (r : Nat × ℤ), Good o p (note s r) := fun _ h2 _ => good_logEvent h2
  have hs1 : Good o p s1 := good_foldl _ h (fun _ _ h2 => hnote _ h2 _)
  exact outgood_next (good_foldl _ hs1 (fun _ _ h2 => hnote _ (good_of_core h2) _))

theorem outgood_execPllLockLoss {s : State} (h : Good o p s) : OutGood o p (execPllLockLoss s) :=
  outgood_ite (fun _ => outgood_next (good_fatalError h)) (fun _ => outgood_next h)

theorem outgood_execDroopRecalibrate {c : CellId} {s : State} (h : Good o p s) : OutGood o p
    (execDroopRecalibrate c s) :=
  outgood_ite (fun _ => outgood_next (good_setCell h _ (cgood_with (cgood_cell h _)))) (fun _ => outgood_next h)

theorem outgood_execHbmRetrain {a : Fin 20} {s : State} (h : Good o p s) : OutGood o p (execHbmRetrain a s) :=
  outgood_next h

/-! ### Machine/Firmware.lean -/

theorem wgood_writeRecord {w : FwState} (hw : WGood o w) {r : BootRec} : WGood o (w.writeRecord r) :=
  wgood_ite (fun _ => wgood_with hw) (fun _ => wgood_with hw)

theorem good_slotFallback {s : State} (h : Good o p s) {b : Bool} : Good o p (s.slotFallback b) :=
  good_logEvent h

theorem good_tryImage {s : State} (h : Good o p s) {bad : List Bool} : Good o p (s.tryImage bad).1 := by
  unfold State.tryImage
  extract_lets +onlyGivenNames _
  refine good_ite_fst (fun _ => ?_) (fun _ => good_ite_fst (fun _ => good_slotFallback (good_modFw h (fun _ h3 =>
    wgood_writeRecord h3))) (fun _ => h))
  extract_lets +onlyGivenNames s1
  have hs1 : Good o p s1 := good_modFw h (fun _ h2 => wgood_writeRecord h2)
  refine good_ite_fst (fun _ => hs1) (fun _ => ?_)
  extract_lets +onlyGivenNames _
  exact good_slotFallback (good_modFw hs1 (fun _ h3 => wgood_writeRecord h3))

theorem good_selectImage {s : State} (h : Good o p s) {bad : List Bool} : Good o p (s.selectImage bad).1 :=
  good_ite_fst (fun _ => (good_tryImage h)) (fun _ => good_ite_fst (fun _ => (good_tryImage h)) (fun _ =>
    good_ite_fst (fun _ => good_slotFallback (good_tryImage h)) (fun _ => (good_tryImage h))))

theorem good_chooseImage {s : State} (h : Good o p s) {bad : List Bool} : Good o p (s.chooseImage bad) := by
  unfold State.chooseImage
  exact good_modFw (good_selectImage h) (fun _ h1 => wgood_with h1)

theorem good_endStage {s : State} (h : Good o p s) : Good o p s.endStage := by
  unfold State.endStage
  split
  · exact h
  · exact good_modFw h (fun _ h1 => wgood_with (wgood_flashWrite h1))

theorem good_readPlatform {s : State} (h : Good o p s) : Good o p s.readPlatform := by
  unfold State.readPlatform
  exact good_ite (fun _ => good_modFw h (fun _ h2 => wgood_with h2)) (fun _ => good_logEvent (good_modFw h (fun _ h2
    => wgood_with h2)))

theorem good_loadPatch {s : State} (h : Good o p s) : Good o p s.loadPatch.1 := by
  have hpatch := fun b => good_modFw h (f := fun w => { w with patch := b }) (fun _ h1 => wgood_with h1)
  unfold State.loadPatch
  generalize s.dev.fw.good 1 (patchOff s.dev.fw.otp.patchSlot) = g
  exact good_ite_fst (fun _ => hpatch _) (fun _ => good_ite_fst (fun _ => good_logEvent (hpatch _)) (fun _ => hpatch _))

theorem wgood_signLog {w : FwState} (hw : WGood o w) {chip : Nat} {cnt : Nat} : WGood o (w.signLog chip cnt) :=
  wgood_ite (fun _ => wgood_with hw) (fun _ => wgood_ite (fun _ => wgood_burnBlock (wgood_with hw)) (fun _ =>
    wgood_with hw))

theorem good_measure {s : State} (h : Good o p s) : Good o p s.measure :=
  good_foldl _ (good_modFw h (fun _ h1 => wgood_signLog (wgood_with h1))) (fun _ _ h1 => good_setFreg h1 _ _)

/-! ### Machine/Bringup.lean -/

theorem good_atStep {s : State} (h : Good o p s) {step : Nat} {sub : Nat} : Good o p (s.atStep step sub) :=
  good_setFreg h _ _

theorem good_bootFatal {s : State} (h : Good o p s) {step : Nat} {sub code : Nat} : Good o p (s.bootFatal step
    sub code) :=
  good_atStep (good_mainLost (good_logEvent (good_ite (fun _ => h) (fun _ => good_setFreg h _ _))))

theorem good_setIlv {s : State} (h : Good o p s) {mode : Nat} : Good o p (s.setIlv mode) := by
  refine good_ite (fun _ => good_putFreg h) (fun _ => ?_)
  exact good_of_core (good_withMem (good_putFreg h) (mgood_cleared h.mem _))

theorem good_clearHbm {s : State} (h : Good o p s) : Good o p s.clearHbm :=
  good_of_core (good_withMem h (mgood_cleared h.mem 0))

theorem good_loadWeights {s : State} (h : Good o p s) : Good o p s.loadWeights :=
  good_foldl _ (good_of_core h) (fun _ _ h1 => good_setFreg h1 _ _)

theorem good_loadService {s : State} (h : Good o p s) : Good o p s.loadService := by
  unfold State.loadService
  extract_lets +onlyGivenNames _
  split
  · exact h
  · extract_lets +onlyGivenNames _ s1
    have hs1 : Good o p s1 := good_modFw h (fun _ h1 => wgood_with h1)
    exact good_setFreg hs1 _ _

theorem good_loadStep {n : Nat} {l : List Bool} {l1 : List BringIn} {s : State} (h : Good o p s) : Good o p
    (State.loadStep n l l1 s).1 := by
  induction n generalizing l l1 s with
  | zero =>
    unfold State.loadStep
    exact h
  | succ n ih =>
    unfold State.loadStep
    dsimp only
    split
    · exact (good_ite (fun _ => good_modFw h (fun _ h2 => wgood_with h2)) (fun _ => good_chooseImage h))
    · exact good_ite_fst (fun _ => good_loadService (good_ite (fun _ => good_modFw h (fun _ h2 => wgood_with h2))
        (fun _ => good_chooseImage h))) (fun _ => good_ite_fst (fun _ => (good_ite (fun _ => good_modFw h (fun _ h2
        => wgood_with h2)) (fun _ => good_chooseImage h))) (fun _ => ih (good_ite (fun _ => good_modFw h (fun _ h2
        => wgood_with h2)) (fun _ => good_chooseImage h))))

theorem good_calibrated {s : State} (h : Good o p s) {bad : List (Fin 9)} {blocks : List Nat} : Good o p
    (s.calibrated bad blocks) :=
  good_foldl _ h (fun _ _ h1 => good_putFreg h1)

theorem good_calibrating {s : State} (h : Good o p s) {n : Nat} : Good o p (s.calibrating n) :=
  good_putFreg h

theorem good_calibrateCells {s : State} (h : Good o p s) {l : List (CellId × SelftestFinding)} : Good o p
    (s.calibrateCells l) :=
  good_foldl _ h (fun _ _ h1 => good_modCell h1 _ (fun _ h2 => cgood_with (cgood_endSelftest h2)))

theorem good_trainCxl {s : State} (h : Good o p s) {l : LinkIn} : Good o p (s.trainCxl l) :=
  good_ite (fun _ => good_of_core h) (fun _ => good_of_core h)

theorem good_platformPorts {s : State} (h : Good o p s) {p1 : PlatformIn} : Good o p (s.platformPorts p1) :=
  good_ite (fun _ => h) (fun _ => good_setFreg (good_foldl _ h (fun _ _ h2 => good_setFreg h2 _ _)) _ _)

theorem good_trainFlagen {s : State} (h : Good o p s) {bad : List (Fin 18 × Fin 4 × Fin 6)} : Good o p
    (s.trainFlagen bad) := by
  unfold State.trainFlagen
  refine good_foldl _ h (fun _ _ h1 => ?_)
  refine good_foldl _ h1 (fun _ _ h2 => ?_)
  refine good_ite (fun _ => good_setIf h2) (fun _ => ?_)
  split
  · exact good_faultIf h2
  · exact good_setIf h2

theorem good_becomeReady {s : State} (h : Good o p s) {us : Nat} : Good o p (s.becomeReady us) :=
  good_choosePoint (good_count (good_setFreg (good_atStep (good_of_core h)) _ _))

theorem bootgood_stuckAt {s : State} (h : Good o p s) {n : Nat} : BootGood o p (s.stuckAt n) :=
  bootgood_stuck (good_of_core h)

theorem bootgood_hbmStep {s : State} (h : Good o p s) {b : BringIn} {k : State → BootRes} (hk : ∀ (a : State),
    Good o p a → BootGood o p (k a)) : BootGood o p (s.hbmStep b k) := by
  unfold State.hbmStep
  refine bootgood_ite (fun _ => bootgood_stuckAt (good_atStep (good_calibrating (good_atStep h)))) (fun _ => ?_)
  split
  · exact bootgood_failed (good_atStep (good_calibrated (good_atStep h)))
  · exact hk _ (good_calibrated (good_atStep h))

theorem bootgood_cxlStep {s : State} (h : Good o p s) {b : BringIn} {k : State → BootRes} (hk : ∀ (a : State),
    Good o p a → BootGood o p (k a)) : BootGood o p (s.cxlStep b k) :=
  bootgood_ite (fun _ => bootgood_stuckAt (good_atStep h)) (fun _ => hk _ (good_trainCxl (good_atStep h)))

theorem bootgood_clearStep {s : State} (h : Good o p s) {b : BringIn} {k : State → BootRes} (hk : ∀ (a : State),
    Good o p a → BootGood o p (k a)) : BootGood o p (s.clearStep b k) :=
  bootgood_ite (fun _ => hk _ h) (fun _ => bootgood_ite (fun _ => bootgood_stuckAt (good_orFreg (good_atStep h)))
    (fun _ => hk _ (good_clearHbm h)))

theorem bootgood_flagenStep {s : State} (h : Good o p s) {b : BringIn} {up : State → State} (hup : ∀ (a :
    State), Good o p a → Good o p (up a)) {k : State → BootRes} (hk : ∀ (a : State), Good o p a → BootGood o p (k
    a)) : BootGood o p (s.flagenStep b up k) :=
  bootgood_ite (fun _ => bootgood_stuckAt (good_calibrating (good_atStep h))) (fun _ => hk _ (good_calibrated
    (good_trainFlagen (hup _ (good_atStep h)))))

theorem bootgood_lateSteps {s : State} (h : Good o p s) {b : BringIn} : BootGood o p (s.lateSteps b) :=
  bootgood_hbmStep h (fun _ h1 => bootgood_cxlStep (good_setIlv h1) (fun _ h2 => bootgood_clearStep h2 (fun _ h3 =>
    bootgood_flagenStep h3 (fun _ h4 => good_platformPorts h4) (fun _ h4 => bootgood_ready (good_becomeReady h4)))))

theorem good_laneTest {s : State} (h : Good o p s) {l : List (CellId × Fin 4 × Nat)} : Good o p (s.laneTest l)
    :=
  good_foldl _ h (fun _ _ h1 => good_ite (fun _ => good_failPort (good_putFreg h1)) (fun _ => (good_putFreg h1)))

theorem bootgood_calibrateStep {s : State} (h : Good o p s) {b : BringIn} {blocks : List Nat} {k : State →
    BootRes} (hk : ∀ (a : State), Good o p a → BootGood o p (k a)) : BootGood o p (s.calibrateStep b blocks k) := by
  unfold State.calibrateStep
  extract_lets +onlyGivenNames _ s1
  have hs1 : Good o p s1 := good_calibrated (good_atStep h)
  split
  · exact bootgood_failed (good_atStep hs1)
  · exact bootgood_ite (fun _ => bootgood_stuckAt (good_atStep (good_calibrating hs1))) (fun _ => hk _ hs1)

theorem bootgood_midSteps {s : State} (h : Good o p s) {b : BringIn} : BootGood o p (s.midSteps b) :=
  bootgood_calibrateStep h (fun _ h1 => bootgood_lateSteps (good_laneTest (good_calibrateCells h1)))

theorem bootgood_loadSteps {s : State} (h : Good o p s) {bs : List BringIn} {weigh : State → State} (hweigh : ∀
    (a : State), Good o p a → Good o p (weigh a)) {k : State → BootRes} (hk : ∀ (a : State), Good o p a → BootGood
    o p (k a)) : BootGood o p (s.loadSteps bs weigh k) := by
  unfold State.loadSteps
  extract_lets +onlyGivenNames _ s1
  have hs1 : Good o p s1 := good_atStep h
  refine bootgood_ite (fun _ => bootgood_failed hs1) (fun _ => ?_)
  refine bootgood_ite (fun _ => bootgood_failed hs1) (fun _ => ?_)
  extract_lets +onlyGivenNames q
  have hq : Good o p q.1 := good_loadStep (good_atStep (hweigh _ hs1))
  split
  · exact bootgood_failed hq
  · exact bootgood_failed hq
  · exact hk _ hq

theorem bootgood_bootSteps {s : State} (h : Good o p s) {bs : List BringIn} : BootGood o p (s.bootSteps bs) :=
  bootgood_loadSteps (good_of_core h) (fun _ h1 => good_loadWeights h1) (fun _ h1 => bootgood_midSteps (good_measure
    (good_ite (fun _ => h1) (fun _ => good_readPlatform h1))))

theorem ogood_beginReset {s : State} (h : Good o p s) {clear : Bool} : OGood o p (s.beginReset clear) := by
  unfold State.beginReset
  refine ogood_ite (fun _ => ogood_none) (fun _ => ?_)
  extract_lets +onlyGivenNames s1 s2
  have hs1 : Good o p s1 := good_deviceClear (good_noteReset (good_endStage h))
  have hs2 : Good o p s2 := good_modFw hs1 (fun _ h2 => wgood_with h2)
  exact ogood_some (good_of_core hs2)

theorem good_runBoot {n : Nat} {l : List BringIn} {s : State} (h : Good o p s) : Good o p (State.runBoot n l s)
    := by
  induction n generalizing l s with
  | zero =>
    unfold State.runBoot
    exact h
  | succ n ih =>
    unfold State.runBoot
    split
    · next q => exact good_of_ready q (bootgood_bootSteps h)
    · next q => exact good_of_stuck q (bootgood_bootSteps h)
    · next q =>
        refine good_ite (fun _ => ?_) (fun _ => good_bootFatal (good_of_failed q (bootgood_bootSteps h)))
        split
        · next q1 =>
            exact ih (good_of_some q1 (ogood_beginReset (good_of_failed q (bootgood_bootSteps h))))
        · exact good_of_failed q (bootgood_bootSteps h)

theorem good_startBoot {s : State} (h : Good o p s) {bs : List BringIn} : Good o p (s.startBoot bs) :=
  good_ite (fun _ => good_of_core h) (fun _ => good_ite (fun _ => good_bootFatal (good_of_core h)) (fun _ =>
    good_ite (fun _ => good_runBoot (good_of_core h)) (fun _ => good_atStep (good_of_core (good_of_core h)))))

theorem good_deviceReset {s : State} (h : Good o p s) {bs : List BringIn} {clear : Bool} : Good o p
    (s.deviceReset bs clear) := by
  unfold State.deviceReset
  refine good_ite (fun _ => good_of_core h) (fun _ => ?_)
  split
  · next q => exact good_startBoot (good_of_some q (ogood_beginReset h))
  · exact h

theorem outgood_execCxlReset {bs : List BringIn} {s : State} (h : Good o p s) : OutGood o p (execCxlReset bs s)
    := by
  unfold execCxlReset
  split
  · exact outgood_next h
  · exact outgood_next (good_deviceReset h)

theorem outgood_execCxlResetMemoryClear {bs : List BringIn} {s : State} (h : Good o p s) : OutGood o p
    (execCxlResetMemoryClear bs s) := by
  unfold execCxlResetMemoryClear
  split
  · exact outgood_next h
  · exact outgood_next (good_deviceReset h)

theorem outgood_execFunctionLevelReset {s : State} (h : Good o p s) : OutGood o p (execFunctionLevelReset s) := by
  unfold execFunctionLevelReset
  split
  · exact outgood_next h
  · exact outgood_next (good_functionReset h)

theorem good_floorReset {s : State} (h : Good o p s) {bs : List BringIn} : Good o p (s.floorReset bs) := by
  unfold State.floorReset
  refine good_ite (fun _ => h) (fun _ => ?_)
  extract_lets +onlyGivenNames s1
  have hs1 : Good o p s1 := good_floorClear (good_noteReset h)
  clear_value s1
  exact good_of_core hs1

theorem bootgood_floorSteps {s : State} (h : Good o p s) {bs : List BringIn} : BootGood o p (s.floorSteps bs) := by
  have hsel : Good o p (s.modFw (fun w => { w with selected := true })) := good_modFw h (fun _ h1 => wgood_with h1)
  refine bootgood_loadSteps hsel (fun _ h1 => h1) (fun _ h1 => bootgood_calibrateStep h1 (fun _ h2 =>
    bootgood_hbmStep h2 (fun _ h3 => bootgood_cxlStep h3 (fun _ h4 =>
      bootgood_flagenStep h4 (fun _ h5 => good_of_core h5) (fun _ h5 => ?_)))))
  exact bootgood_ready (good_goOn (good_atStep (good_of_core (good_flushAll h5))))

theorem good_floorBringup {s : State} (h : Good o p s) : Good o p s.floorBringup := by
  unfold State.floorBringup
  split
  · split
    · next q2 => exact good_of_ready q2 (bootgood_floorSteps h)
    · next q2 => exact good_of_stuck q2 (bootgood_floorSteps h)
    · next q2 =>
        exact good_ite (fun _ => good_deviceReset (good_of_failed q2 (bootgood_floorSteps h))) (fun _ =>
          good_bootFatal (good_of_failed q2 (bootgood_floorSteps h)))
  · exact h

theorem outgood_execPowerInterval {i : IntervalIn} {s : State} (h : Good o p s) : OutGood o p (execPowerInterval
    i s) :=
  outgood_ite (fun _ => outgood_next h) (fun _ => outgood_next (good_payPoison (good_floorBringup (good_endStage
    (good_flTime (good_controlStep (good_readSensors (good_of_core h))))))))

theorem outgood_execServiceFwTimeout {bs : List BringIn} {s : State} (h : Good o p s) : OutGood o p
    (execServiceFwTimeout bs s) :=
  outgood_next (good_floorReset h)

theorem outgood_execBringupStepTimeout {bs : List BringIn} {s : State} (h : Good o p s) : OutGood o p
    (execBringupStepTimeout bs s) := by
  unfold execBringupStepTimeout
  split
  · exact outgood_ite (fun _ => outgood_ite (fun _ => outgood_next (good_deviceReset h)) (fun _ => outgood_next
      (good_bootFatal h))) (fun _ => outgood_next h)
  · exact outgood_next h

theorem good_off {s : State} (h : Good o p s) : Good o p s.off := by
  have hw : WGood o s.dev.fw.breakOff := wgood_breakOff (good_fw h)
  have hreset : FGood [] := rfl
  exact good_intro hreset cgood_resetCells (mgood_hostOnly h.mem) ⟨rfl, rfl, hw.1⟩ h.otp h.queue

theorem good_vigilSteps {s : State} (h : Good o p s) : Good o p s.vigilSteps := by
  unfold State.vigilSteps
  extract_lets +onlyGivenNames s1 p1 s2
  have hs1 : Good o p s1 := good_atStep (good_modFw h (fun _ h1 => wgood_burnBlock h1))
  have hp1 : Good o p p1.1 := good_loadPatch hs1
  have hs2 : Good o p s2 := hp1
  clear_value s1 p1 s2
  refine good_ite (fun _ => good_bootFatal hs2) (fun _ => ?_)
  refine good_ite (fun _ => good_bootFatal hs2) (fun _ => ?_)
  extract_lets +onlyGivenNames s3
  have hs3 : Good o p s3 := good_chooseImage (good_readPlatform (good_atStep hs2))
  clear_value s3
  refine good_ite (fun _ => good_bootFatal hs3) (fun _ => ?_)
  extract_lets +onlyGivenNames s4
  have hs4 : Good o p s4 := good_modFw hs3 (fun _ h4 => wgood_with h4)
  clear_value s4
  exact good_atStep (good_of_core hs4)

theorem outgood_execStbyPgRise {s : State} (h : Good o p s) : OutGood o p (execStbyPgRise s) :=
  outgood_ite (fun _ => outgood_next h) (fun _ => outgood_next (good_vigilSteps (good_logEvent (good_of_core
    (good_off h)))))

theorem outgood_execStbyPgFall {s : State} (h : Good o p s) : OutGood o p (execStbyPgFall s) :=
  outgood_ite (fun _ => outgood_next (good_off h)) (fun _ => outgood_next h)

theorem outgood_execMainPgRise {bs : List BringIn} {s : State} (h : Good o p s) : OutGood o p (execMainPgRise bs
    s) :=
  outgood_ite (fun _ => outgood_next h) (fun _ => outgood_ite (fun _ => outgood_next (good_startBoot (good_ite (fun
    _ => good_setFreg (good_of_core h) _ _) (fun _ => (good_of_core h))))) (fun _ => outgood_next (good_ite (fun _
    => good_setFreg (good_of_core h) _ _) (fun _ => (good_of_core h)))))

theorem good_losePower {s : State} (h : Good o p s) : Good o p s.losePower :=
  good_ite (fun _ => h) (fun _ => good_logEvent (good_orFreg (good_mainLost (good_of_core h))))

theorem outgood_execMainPgFall {s : State} (h : Good o p s) : OutGood o p (execMainPgFall s) :=
  outgood_next (good_losePower h)

theorem outgood_execVin48Low {s : State} (h : Good o p s) : OutGood o p (execVin48Low s) :=
  outgood_next (good_losePower h)

theorem outgood_execDevRstAssert {s : State} (h : Good o p s) : OutGood o p (execDevRstAssert s) :=
  outgood_ite (fun _ => outgood_next h) (fun _ => outgood_ite (fun _ => outgood_next (good_of_core h)) (fun _ =>
    outgood_next (good_deviceReset (good_of_core h))))

theorem outgood_execDevRstRelease {bs : List BringIn} {s : State} (h : Good o p s) : OutGood o p
    (execDevRstRelease bs s) :=
  outgood_ite (fun _ => outgood_next h) (fun _ => outgood_ite (fun _ => outgood_next (good_startBoot (good_of_core
    h))) (fun _ => outgood_next (good_of_core h)))

theorem outgood_execCxlPerstAssert {s : State} (h : Good o p s) : OutGood o p (execCxlPerstAssert s) := by
  unfold execCxlPerstAssert
  refine outgood_ite (fun _ => outgood_next h) (fun _ => ?_)
  refine outgood_ite (fun _ => outgood_next (good_deviceReset (good_of_core h))) (fun _ => ?_)
  split
  · exact outgood_next (good_of_core h)
  · exact outgood_next (good_of_core (good_of_core h))

theorem outgood_execCxlPerstRelease {bs : List BringIn} {s : State} (h : Good o p s) : OutGood o p
    (execCxlPerstRelease bs s) :=
  outgood_ite (fun _ => outgood_next h) (fun _ => outgood_ite (fun _ => outgood_next (good_startBoot (good_ite (fun
    _ => good_of_core (good_of_core h)) (fun _ => (good_of_core h))))) (fun _ => outgood_next (good_ite (fun _ =>
    good_of_core (good_of_core h)) (fun _ => (good_of_core h)))))

theorem outgood_execFatalError {source cause : Nat} {s : State} (h : Good o p s) : OutGood o p (execFatalError
    source cause s) :=
  outgood_ite (fun _ => outgood_next (good_fatalError h)) (fun _ => outgood_next h)

theorem outgood_execAlmanacRingCopy {s : State} (h : Good o p s) : OutGood o p (execAlmanacRingCopy s) := by
  unfold execAlmanacRingCopy
  refine outgood_ite (fun _ => outgood_next h) (fun _ => ?_)
  split
  · exact outgood_next h
  · extract_lets +onlyGivenNames _
    split
    · exact outgood_next (good_requestExit h)
    · extract_lets +onlyGivenNames s1 _ s3
      have hs1 : Good o p s1 := good_putLatest h
      have hs3 : Good o p s3 := good_of_core hs1
      exact outgood_next (good_setFreg hs3 _ _)

/-! ### Machine/Regs.lean -/

theorem good_violation {s : State} (h : Good o p s) {core : Nat} {pa : Nat} : Good o p (s.violation core pa) :=
  good_ite (fun _ => good_count (good_count h)) (fun _ => good_logEvent (good_of_core (good_count h)))

theorem good_refreshPorts {s : State} (h : Good o p s) : Good o p s.refreshPorts :=
  good_foldl _ h (fun _ _ h1 => good_refreshPort h1)

theorem good_afterWrite {s : State} (h : Good o p s) {pa : Nat} {old new : Nat} : Good o p (s.afterWrite pa old
    new) :=
  good_ite (fun _ => good_ite (fun _ => good_of_core h) (fun _ => h)) (fun _ => good_ite (fun _ => good_goOn h) (fun
    _ => good_ite (fun _ => good_hvComplete (good_fixSkip h)) (fun _ => good_ite (fun _ => good_dropStaged h) (fun _
    => good_ite (fun _ => good_ite (fun _ => good_refreshPorts h) (fun _ => h)) (fun _ => good_ite (fun _ =>
    good_ite (fun _ => h) (fun _ => good_refreshPort h)) (fun _ => good_ite (fun _ => good_of_core h) (fun _ =>
    h)))))))

theorem good_action {s : State} (h : Good o p s) {pa : Nat} {v : Nat} {cap : Option CapIn} : Good o p (s.action
    pa v cap) :=
  good_ite (fun _ => good_unpinClasses h) (fun _ => good_ite (fun _ => good_invalWrite h) (fun _ => good_ite (fun _
    => good_prspWrite h) (fun _ => good_ite (fun _ => good_requestSr h) (fun _ => good_ite (fun _ => good_wakeMask
    h) (fun _ => good_ite (fun _ => good_ite (fun _ => good_of_core h) (fun _ => h)) (fun _ => good_ite (fun _ =>
    good_bandReset h) (fun _ => good_ite (fun _ => good_cellReset h) (fun _ => good_ite (fun _ => good_release h)
    (fun _ => good_ite (fun _ => good_startJob h) (fun _ => good_ite (fun _ => good_ite (fun _ => good_disarmDesc h)
    (fun _ => good_armDesc h)) (fun _ => good_ite (fun _ => good_swAbort h) (fun _ => h))))))))))))

theorem good_writeFloor {s : State} (h : Good o p s) {pa : Nat} {v em : Nat} {cap : Option CapIn} : Good o p
    (s.writeFloor pa v em cap) := by
  unfold State.writeFloor
  split
  · exact h
  · split
    · exact good_goOn (good_action h)
    · exact h
    · extract_lets +onlyGivenNames _
      refine good_ite (fun _ => good_winCfgWrite h) (fun _ => ?_)
      refine good_ite (fun _ => good_queueCfg h) (fun _ => ?_)
      refine good_ite (fun _ => ?_) (fun _ => ?_)
      · extract_lets +onlyGivenNames _
        exact good_ite (fun _ => h) (fun _ => good_setIlv h)
      · extract_lets +onlyGivenNames _ s1
        have hs1 : Good o p s1 := good_afterWrite (good_setFreg h _ _)
        exact good_ite (fun _ => good_of_core hs1) (fun _ => hs1)

theorem good_writeAt {s : State} (h : Good o p s) {o1 : Origin} {pa v em : Nat} {cap : Option CapIn} : Good o p
    (s.writeAt o1 pa v em cap) := by
  unfold State.writeAt
  split
  · exact good_ite (fun _ => h) (fun _ => good_ite (fun _ => good_goOn (good_writeCell h)) (fun _ => good_writeFloor
      h))
  · exact good_ite (fun _ => h) (fun _ => good_ite (fun _ => good_goOn (good_writeCell h)) (fun _ => good_writeFloor
      h))
  · exact good_ite (fun _ => h) (fun _ => good_ite (fun _ => good_goOn (good_writeCell h)) (fun _ => good_writeFloor
      h))
  · exact good_ite (fun _ => good_goOn (good_writeCell h)) (fun _ => good_writeFloor h)
  · exact good_ite (fun _ => good_goOn (good_writeCell h)) (fun _ => good_writeFloor h)

theorem good_writeReg {s : State} (h : Good o p s) {o1 : Origin} {pa width v : Nat} {cap : optParam (Option
    CapIn) none} : Good o p (s.writeReg o1 pa width v cap) := by
  unfold State.writeReg
  refine good_ite (fun _ => h) (fun _ => ?_)
  dsimp only
  refine good_foldl _ ?_ (fun _ _ h2 => good_writeAt h2)
  split
  · exact good_ite (fun _ => good_violation h) (fun _ => h)
  · exact h

theorem good_readBy {s : State} (h : Good o p s) {o1 : Origin} {pa width : Nat} : Good o p (s.readBy o1 pa
    width).1 := by
  unfold State.readBy
  refine good_ite_fst (fun _ => h) (fun _ => ?_)
  split
  · exact good_ite_fst (fun _ => good_violation h) (fun _ => h)
  · exact h
  · exact h
  · exact h
  · exact h

theorem good_msixWrite {s : State} (h : Good o p s) {k : Nat} {v : Nat} : Good o p (s.msixWrite k v) :=
  good_ite (fun _ => good_sendMsi (good_of_core (good_of_core h))) (fun _ => (good_of_core h))

theorem good_bar2Word {s : State} (h : Good o p s) {off : Nat} {v : Nat} : Good o p (s.bar2Word off v) :=
  good_ite (fun _ => good_ite (fun _ => good_sqDoorbell h) (fun _ => good_cqDoorbell h)) (fun _ => good_ite (fun _
    => good_ite (fun _ => good_ackBox h) (fun _ => h)) (fun _ => good_ite (fun _ => good_msixWrite h) (fun _ => h)))

theorem good_sendPending {s : State} (h : Good o p s) : Good o p s.sendPending :=
  good_foldl _ h (fun _ _ h1 => good_ite (fun _ => h1) (fun _ => good_sendMsi (good_of_core h1)))

theorem good_writeBar2 {s : State} (h : Good o p s) {off : Nat} {width v : Nat} : Good o p (s.writeBar2 off
    width v) :=
  good_ite (fun _ => h) (fun _ => good_ite (fun _ => good_bar2Word h) (fun _ => good_ite (fun _ => good_bar2Word
    (good_bar2Word h)) (fun _ => h)))

theorem outgood_execRegisterWrite {o1 : Origin} {t : Target} {width : Nat} {v : Word} {s : State} (h : Good o p
    s) : OutGood o p (execRegisterWrite o1 t width v s) := by
  unfold execRegisterWrite
  split
  · exact outgood_next (good_writeReg h)
  · split
    · exact outgood_next (good_writeBar2 h)
    · exact outgood_next h
  · split
    · exact outgood_ite (fun _ => outgood_next (good_sendPending (good_of_core h))) (fun _ => outgood_next h)
    · exact outgood_ite (fun _ => outgood_next (good_sendPending (good_of_core h))) (fun _ => outgood_next h)
    · exact outgood_next h
  · split
    · split
      · exact outgood_next (good_of_core h)
      · exact outgood_ite (fun _ => outgood_next (good_of_core h)) (fun _ => outgood_next h)
    · exact outgood_next h

theorem outgood_execSqStart {o1 : Origin} {c : CellId} {s : State} (h : Good o p s) : OutGood o p (execSqStart
    o1 c s) :=
  outgood_next (good_writeReg h)

theorem outgood_execSqHalt {o1 : Origin} {c : CellId} {s : State} (h : Good o p s) : OutGood o p (execSqHalt o1
    c s) :=
  outgood_next (good_writeReg h)

theorem outgood_execSemValWrite {o1 : Origin} {c : CellId} {k : BitVec 6} {v : Half} {s : State} (h : Good o p
    s) : OutGood o p (execSemValWrite o1 c k v s) :=
  outgood_next (good_writeReg h)

theorem outgood_execRuFaccWrite {o1 : Origin} {c : CellId} {i : Fin 4} {v : Word} {s : State} (h : Good o p s) :
    OutGood o p (execRuFaccWrite o1 c i v s) :=
  outgood_next (good_writeReg h)

theorem outgood_execMxSelftest {o1 : Origin} {c : CellId} {v : Half} {s : State} (h : Good o p s) : OutGood o p
    (execMxSelftest o1 c v s) :=
  outgood_next (good_writeReg h)

theorem outgood_execSxResume {o1 : Origin} {c : CellId} {n : Fin 6} {s : State} (h : Good o p s) : OutGood o p
    (execSxResume o1 c n s) :=
  outgood_next (good_writeReg h)

theorem outgood_execSxAbandon {o1 : Origin} {c : CellId} {n : Fin 6} {s : State} (h : Good o p s) : OutGood o p
    (execSxAbandon o1 c n s) :=
  outgood_next (good_writeReg h)

theorem outgood_execSxShareWrite {o1 : Origin} {c : CellId} {v : Half} {s : State} (h : Good o p s) : OutGood o
    p (execSxShareWrite o1 c v s) :=
  outgood_next (good_writeReg h)

theorem outgood_execQCfgWrite {o1 : Origin} {c : CellId} {q : BitVec 4} {v : Word} {s : State} (h : Good o p s)
    : OutGood o p (execQCfgWrite o1 c q v s) :=
  outgood_next (good_writeReg h)

theorem outgood_execWinCfgWrite {o1 : Origin} {n : CellId} {v : Half} {s : State} (h : Good o p s) : OutGood o p
    (execWinCfgWrite o1 n v s) :=
  outgood_next (good_writeReg h)

theorem outgood_execHrUnpin {o1 : Origin} {v : Half} {s : State} (h : Good o p s) : OutGood o p (execHrUnpin o1
    v s) :=
  outgood_next (good_writeReg h)

theorem outgood_execPrResolve {o1 : Origin} {req : BitVec 16} {s : State} (h : Good o p s) : OutGood o p
    (execPrResolve o1 req s) :=
  outgood_next (good_writeReg h)

theorem outgood_execPrRefuse {o1 : Origin} {req : BitVec 16} {s : State} (h : Good o p s) : OutGood o p
    (execPrRefuse o1 req s) :=
  outgood_next (good_writeReg h)

theorem outgood_execTrInvalRange {o1 : Origin} {v : Word} {s : State} (h : Good o p s) : OutGood o p
    (execTrInvalRange o1 v s) :=
  outgood_next (good_writeReg h)

theorem outgood_execTrInvalAll {o1 : Origin} {v : Word} {s : State} (h : Good o p s) : OutGood o p
    (execTrInvalAll o1 v s) :=
  outgood_next (good_writeReg h)

theorem outgood_execRcReleaseCommit {o1 : Origin} {s : State} (h : Good o p s) : OutGood o p
    (execRcReleaseCommit o1 s) :=
  outgood_next (good_writeReg h)

theorem outgood_execRcReleaseDiscard {o1 : Origin} {s : State} (h : Good o p s) : OutGood o p
    (execRcReleaseDiscard o1 s) :=
  outgood_next (good_writeReg h)

theorem outgood_execShardExport {start : Option (Origin × Word)} {s : State} (h : Good o p s) : OutGood o p
    (execShardExport start s) := by
  unfold execShardExport
  split
  · exact outgood_next (good_writeReg h)
  · exact outgood_next (good_jobStep h)

theorem outgood_execShardImport {start : Option (Origin × Word)} {s : State} (h : Good o p s) : OutGood o p
    (execShardImport start s) := by
  unfold execShardImport
  split
  · exact outgood_next (good_writeReg h)
  · exact outgood_next (good_jobStep h)

theorem outgood_execCapture {start : Option (Origin × Word)} {s : State} (h : Good o p s) : OutGood o p
    (execCapture start s) := by
  unfold execCapture
  split
  · exact outgood_next (good_writeReg h)
  · exact outgood_next (good_resumeJob h)

theorem outgood_execReplay {start : Option (Origin × Word)} {cap : CapIn} {s : State} (h : Good o p s) : OutGood
    o p (execReplay start cap s) := by
  unfold execReplay
  split
  · exact outgood_next (good_writeReg h)
  · exact outgood_next (good_replayInput (good_resumeJob h))

theorem outgood_execCeArm {o1 : Origin} {cid : BitVec 12} {first : BitVec 32} {s : State} (h : Good o p s) :
    OutGood o p (execCeArm o1 cid first s) :=
  outgood_next (good_writeReg h)

theorem outgood_execCeDisarm {o1 : Origin} {cid : BitVec 12} {s : State} (h : Good o p s) : OutGood o p
    (execCeDisarm o1 cid s) :=
  outgood_next (good_writeReg h)

theorem outgood_execCeAbort {o1 : Origin} {cid : BitVec 12} {s : State} (h : Good o p s) : OutGood o p
    (execCeAbort o1 cid s) :=
  outgood_next (good_writeReg h)

theorem outgood_execQueueCfgWrite {o1 : Origin} {q : Fin 64} {v : Half} {s : State} (h : Good o p s) : OutGood o
    p (execQueueCfgWrite o1 q v s) :=
  outgood_next (good_writeReg h)

theorem outgood_execCpSleep {o1 : Origin} {c : CellId} {s : State} (h : Good o p s) : OutGood o p (execCpSleep
    o1 c s) :=
  outgood_next (good_writeReg h)

theorem outgood_execPwrWake {o1 : Origin} {k : Fin 4} {v : Word} {s : State} (h : Good o p s) : OutGood o p
    (execPwrWake o1 k v s) :=
  outgood_next (good_writeReg h)

theorem outgood_execPwrHbmSr {o1 : Origin} {v : Half} {s : State} (h : Good o p s) : OutGood o p (execPwrHbmSr
    o1 v s) :=
  outgood_next (good_writeReg h)

theorem outgood_execPwrPhtClr {o1 : Origin} {s : State} (h : Good o p s) : OutGood o p (execPwrPhtClr o1 s) :=
  outgood_next (good_writeReg h)

theorem outgood_execRstCell {o1 : Origin} {k : Fin 4} {v : Word} {s : State} (h : Good o p s) : OutGood o p
    (execRstCell o1 k v s) :=
  outgood_next (good_writeReg h)

theorem outgood_execRstBand {o1 : Origin} {v : Half} {s : State} (h : Good o p s) : OutGood o p (execRstBand o1
    v s) :=
  outgood_next (good_writeReg h)

theorem outgood_execAlmSevClr {o1 : Origin} {s : State} (h : Good o p s) : OutGood o p (execAlmSevClr o1 s) :=
  outgood_next (good_writeReg h)

/-! ### Machine/I3c.lean -/

theorem good_i3c {s : State} (h : Good o p s) {status : Nat} {bytes : List Byte} : Good o p (s.i3c
    status bytes) :=
  good_answer h

theorem outgood_i3cCmd {s : State} (h : Good o p s) {f : State → State} (hf : ∀ (a : State), Good o p a → Good o
    p (f a)) : OutGood o p (s.i3cCmd f) :=
  outgood_ite (fun _ => outgood_next (hf _ h)) (fun _ => outgood_next h)

theorem outgood_execGetStatus {s : State} (h : Good o p s) : OutGood o p (execGetStatus s) :=
  outgood_ite (fun _ => outgood_next h) (fun _ => outgood_next (good_i3c h))

theorem outgood_execReadReg {pa width : Nat} {s : State} (h : Good o p s) : OutGood o p (execReadReg pa width s)
    :=
  outgood_ite (fun _ => outgood_next h) (fun _ => outgood_ite (fun _ => outgood_next (good_i3c h)) (fun _ =>
    outgood_ite (fun _ => outgood_next (good_i3c h)) (fun _ => outgood_next (good_i3c (good_readBy h)))))

theorem outgood_execSetCap {watts : Nat} {s : State} (h : Good o p s) : OutGood o p (execSetCap watts s) :=
  outgood_i3cCmd h (fun _ h1 => good_ite (fun _ => good_i3c (good_writeReg h1)) (fun _ => good_i3c h1))

theorem outgood_execReset {kind : Nat} {bs : List BringIn} {s : State} (h : Good o p s) : OutGood o p (execReset
    kind bs s) :=
  outgood_i3cCmd h (fun _ h1 => good_ite (fun _ => good_deviceReset (good_i3c h1)) (fun _ => good_ite (fun _ =>
    good_deviceReset (good_i3c h1)) (fun _ => good_ite (fun _ => good_floorReset (good_i3c h1)) (fun _ => good_i3c
    h1))))

theorem outgood_fwCmd {s : State} (h : Good o p s) {f : State → State} (hf : ∀ (a : State), Good o p a → Good o
    p (f a)) : OutGood o p (s.fwCmd f) :=
  outgood_i3cCmd h (fun _ h1 => good_ite (fun _ => good_i3c h1) (fun _ => hf _ h1))

theorem outgood_execFwStageBegin {ty len : Nat} {s : State} (h : Good o p s) : OutGood o p (execFwStageBegin ty
    len s) :=
  outgood_fwCmd h (fun _ h1 => good_ite (fun _ => good_i3c h1) (fun _ => good_ite (fun _ => good_i3c h1) (fun _ =>
    good_i3c (good_modFw h1 (fun _ h4 => wgood_with h4)))))

theorem good_stageBytes {s : State} (h : Good o p s) {off : Nat} {bs : List Byte} : Good o p (s.stageBytes off
    bs) := by
  unfold State.stageBytes
  split
  · exact good_i3c h
  · exact good_ite (fun _ => good_i3c h) (fun _ => good_i3c (good_modFw h (fun _ h2 => wgood_with h2)))

theorem outgood_execFwStageData {off : Nat} {bytes : List Byte} {s : State} (h : Good o p s) : OutGood o p
    (execFwStageData off bytes s) :=
  outgood_fwCmd h (fun _ h1 => good_ite (fun _ => good_i3c h1) (fun _ => good_stageBytes h1))

theorem outgood_execFwStageHbm {pa len : Nat} {s : State} (h : Good o p s) : OutGood o p (execFwStageHbm pa len
    s) := by
  unfold execFwStageHbm
  refine outgood_fwCmd h (fun _ h1 => ?_)
  refine good_ite (fun _ => good_i3c h1) (fun _ => ?_)
  refine good_ite (fun _ => good_i3c h1) (fun _ => ?_)
  refine good_ite (fun _ => good_i3c (good_recallAll h1)) (fun _ => ?_)
  split
  · exact good_i3c (good_requestExit h1)
  · exact good_stageBytes h1

theorem outgood_execFwStageEnd {s : State} (h : Good o p s) : OutGood o p (execFwStageEnd s) := by
  unfold execFwStageEnd
  refine outgood_fwCmd h (fun _ h1 => ?_)
  split
  · exact good_i3c h1
  · exact good_ite (fun _ => good_i3c (good_modFw (good_modFw h1 (fun _ h2 => wgood_with h2)) (fun _ h3 =>
      wgood_with h3))) (fun _ => good_i3c (good_modFw h1 (fun _ h2 => wgood_with h2)))

theorem outgood_execFwActivate {flag : Bool} {bs : List BringIn} {s : State} (h : Good o p s) : OutGood o p
    (execFwActivate flag bs s) :=
  outgood_fwCmd h (fun _ h1 => good_ite (fun _ => good_deviceReset (good_i3c (good_modFw h1 (fun _ h2 =>
    wgood_writeRecord h2)))) (fun _ => (good_i3c (good_modFw h1 (fun _ h2 => wgood_writeRecord h2)))))

theorem outgood_execFwConfirm {s : State} (h : Good o p s) : OutGood o p (execFwConfirm s) := by
  unfold execFwConfirm
  refine outgood_fwCmd h (fun _ h1 => ?_)
  split
  · exact good_ite (fun _ => good_i3c (good_modFw h1 (fun _ h3 => wgood_with (wgood_writeRecord h3)))) (fun _ =>
      good_i3c h1)
  · exact good_i3c h1

theorem outgood_execFwCommitSvn {ty : Nat} {s : State} (h : Good o p s) : OutGood o p (execFwCommitSvn ty s) := by
  refine outgood_fwCmd h (fun t ht => good_ite (fun _ => good_i3c ht) (fun _ => ?_))
  split
  · refine good_ite (fun _ => good_i3c (good_modFw ht (fun w hw => ?_))) (fun _ => good_i3c ht)
    exact wgood_otp hw (keeps_raise hw.2 _ _)
  · exact good_i3c ht

theorem outgood_execFwPatchSelect {slot : Nat} {bs : List BringIn} {s : State} (h : Good o p s) :
    OutGood o p (execFwPatchSelect slot bs s) := by
  refine outgood_fwCmd h (fun t ht => good_ite (fun _ => good_i3c ht) (fun _ => good_ite (fun _ => good_i3c ht)
    (fun _ => good_ite (fun _ => good_i3c ht) (fun _ => ?_))))
  refine good_deviceReset (good_loadPatch (good_i3c (good_modFw ht (fun w hw => ?_))))
  obtain ⟨hflash, hlc, hrevoked, hfloor, hpatch, hlms, herased⟩ := hw
  exact ⟨hflash, hlc, hrevoked, hfloor, Nat.le_succ_of_le hpatch, hlms, herased⟩

theorem good_moveLc {s : State} (h : Good o p s) {target : Nat} {bs : List BringIn}
    (hlc : target = 4 ∨ o.lc ≤ target) : Good o p (s.moveLc target bs) := by
  refine good_deviceReset (good_modFw ?_ (fun w hw => wgood_otp hw (keeps_lc hw.2 hlc)))
  exact good_ite (fun _ => good_deviceReset h) (fun _ => h)

theorem outgood_execLcTransition {t : TokenIn} {bs : List BringIn} {s : State} (h : Good o p s) :
    OutGood o p (execLcTransition t bs s) := by
  refine outgood_i3cCmd h (fun u hu => good_ite (fun _ => good_i3c hu) (fun hfits => good_ite (fun _ => good_i3c hu)
    (fun _ => good_moveLc (good_i3c hu) (lc_of_tokenFits hu (jtag := false) ?_))))
  simpa using hfits

theorem outgood_execLcEndPhase1 {s : State} (h : Good o p s) : OutGood o p (execLcEndPhase1 s) :=
  outgood_i3cCmd h (fun _ h1 => good_draw (good_i3c (good_modFw h1 (fun _ h2 => wgood_with h2))))

theorem outgood_execLcEndPhase2 {nonce : BitVec 128} {bs : List BringIn} {s : State} (h : Good o p s) :
    OutGood o p (execLcEndPhase2 nonce bs s) := by
  refine outgood_i3cCmd h (fun t ht => ?_)
  split
  · refine good_ite (fun _ => good_deviceReset (good_i3c (good_modFw ht (fun w hw => ?_)))) (fun _ => good_i3c ht)
    obtain ⟨hflash, -, hrevoked, hfloor, hpatch, hlms, -⟩ := hw
    exact ⟨hflash, .inl rfl, hrevoked, hfloor, hpatch, hlms, fun _ => rfl⟩
  · exact good_i3c ht

/-! ### Machine/Spdm.lean -/

theorem outgood_spdmDo {s : State} (h : Good o p s) {t : SpdmPort} {f : State → State × SpdmReply} (hf : ∀ (a :
    State), Good o p a → Good o p (f a).1) : OutGood o p (s.spdmDo t f) :=
  outgood_ite (fun _ => outgood_next (good_answer (hf _ h))) (fun _ => outgood_next h)

theorem outgood_spdm {s : State} (h : Good o p s) {t : SpdmPort} {f : State → SpdmReply} : OutGood o p (s.spdm t
    f) :=
  outgood_spdmDo h (fun _ h1 => h1)

theorem good_setSession {s : State} (h : Good o p s) {t : SpdmPort} {x : Session} : Good o p (s.setSession t x)
    := by
  unfold State.setSession
  split <;> exact good_of_core h

theorem outgood_execGetVersion {t : SpdmPort} {s : State} (h : Good o p s) : OutGood o p (execGetVersion t s) :=
  outgood_spdm h

theorem outgood_execGetCapabilities {t : SpdmPort} {s : State} (h : Good o p s) : OutGood o p
    (execGetCapabilities t s) :=
  outgood_spdm h

theorem outgood_execNegotiateAlgorithms {t : SpdmPort} {s : State} (h : Good o p s) : OutGood o p
    (execNegotiateAlgorithms t s) :=
  outgood_spdm h

theorem outgood_execGetDigests {t : SpdmPort} {s : State} (h : Good o p s) : OutGood o p (execGetDigests t s) :=
  outgood_spdm h

theorem outgood_execGetCertificate {t : SpdmPort} {slot : Fin 8} {s : State} (h : Good o p s) : OutGood o p
    (execGetCertificate t slot s) :=
  outgood_spdm h

theorem outgood_execChallenge {t : SpdmPort} {slot : Fin 8} {nonce : BitVec 256} {s : State} (h : Good o p s) :
    OutGood o p (execChallenge t slot nonce s) :=
  outgood_spdm h

theorem outgood_execGetMeasurements {t : SpdmPort} {index : Option Nat} {nonce : Option (BitVec 256)} {s :
    State} (h : Good o p s) : OutGood o p (execGetMeasurements t index nonce s) :=
  outgood_spdm h

theorem outgood_execKeyExchange {t : SpdmPort} {slot : Fin 8} {pub : List Byte} {s : State} (h : Good o p s) :
    OutGood o p (execKeyExchange t slot pub s) :=
  outgood_spdmDo h (fun _ h1 => good_ite_fst (fun _ => good_draw (good_setSession h1)) (fun _ => h1))

theorem outgood_execFinish {m : FinishIn} {s : State} (h : Good o p s) : OutGood o p (execFinish m s) := by
  unfold execFinish
  refine outgood_spdmDo h (fun _ h1 => ?_)
  split
  · exact good_ite_fst (fun _ => good_setSession h1) (fun _ => good_setSession h1)
  · exact h1

theorem outgood_execHeartbeat {t : SpdmPort} {s : State} (h : Good o p s) : OutGood o p (execHeartbeat t s) :=
  outgood_spdm h

theorem outgood_execEndSession {t : SpdmPort} {s : State} (h : Good o p s) : OutGood o p (execEndSession t s) := by
  unfold execEndSession
  refine outgood_spdmDo h (fun _ h1 => ?_)
  split
  · exact good_setSession h1
  · exact h1

/-! ### Machine/Debug.lean -/

theorem good_modJtag {s : State} (h : Good o p s) {f : JtagState → JtagState} : Good o p (s.modJtag f) :=
  good_of_core h

theorem outgood_jtagOp {s : State} (h : Good o p s) {code : Nat} {ok : Bool} {f : State → Out} (hf : ∀ (a :
    State), Good o p a → OutGood o p (f a)) : OutGood o p (s.jtagOp code ok f) :=
  outgood_ite (fun _ => outgood_next h) (fun _ => outgood_ite (fun _ => hf _ (good_modJtag h)) (fun _ =>
    outgood_next (good_answer (good_modJtag h))))

theorem outgood_execBypass {s : State} (h : Good o p s) : OutGood o p (execBypass s) :=
  outgood_jtagOp h (fun _ h1 => outgood_next (good_answer h1))

theorem outgood_execIdcode {s : State} (h : Good o p s) : OutGood o p (execIdcode s) :=
  outgood_jtagOp h (fun _ h1 => outgood_next (good_answer h1))

theorem good_capturePins {s : State} (h : Good o p s) : Good o p s.capturePins :=
  good_draw (good_answer h)

theorem outgood_execSamplePreload {v : Nat} {s : State} (h : Good o p s) : OutGood o p (execSamplePreload v s)
    :=
  outgood_jtagOp h (fun _ h1 => outgood_next (good_modJtag (good_capturePins h1)))

theorem outgood_execExtest {s : State} (h : Good o p s) : OutGood o p (execExtest s) :=
  outgood_jtagOp h (fun _ h1 => outgood_next (good_capturePins h1))

theorem outgood_execClamp {s : State} (h : Good o p s) : OutGood o p (execClamp s) :=
  outgood_jtagOp h (fun _ h1 => outgood_next (good_answer h1))

theorem outgood_execHighz {s : State} (h : Good o p s) : OutGood o p (execHighz s) :=
  outgood_jtagOp h (fun _ h1 => outgood_next (good_answer h1))

theorem outgood_execDbgChallenge {s : State} (h : Good o p s) : OutGood o p (execDbgChallenge s) :=
  outgood_jtagOp h (fun _ h1 => outgood_next (good_draw (good_answer (good_modJtag h1))))

theorem good_unlock {s : State} (h : Good o p s) {sig : List Byte} : Good o p (s.unlock sig) := by
  unfold State.unlock
  split
  · exact h
  · exact good_ite (fun _ => good_ite (fun _ => (good_modJtag h)) (fun _ => good_logEvent (good_orFreg (good_modJtag
      h)))) (fun _ => (good_modJtag h))

theorem outgood_execDbgUnlock {u : UnlockIn} {bs : List BringIn} {s : State} (h : Good o p s) :
    OutGood o p (execDbgUnlock u bs s) := by
  refine outgood_jtagOp h (fun t ht => ?_)
  split
  · exact outgood_next (good_unlock ht)
  · refine outgood_next (good_ite (fun hok => good_moveLc ht (lc_of_tokenFits ht (jtag := true) ?_)) (fun _ => ht))
    exact (Bool.and_eq_true_iff.mp hok).1

theorem good_dbgDone {s : State} (h : Good o p s) {data : Nat} {ok : Bool} : Good o p (s.dbgDone data ok) :=
  good_modJtag h

theorem good_dbgHbm {s : State} (h : Good o p s) {pa : Nat} {n v : Nat} {write : Bool} : Good o p (s.dbgHbm pa n
    v write) := by
  unfold State.dbgHbm
  refine good_ite (fun _ => good_dbgDone (good_recall h)) (fun _ => ?_)
  split
  · exact good_dbgDone (good_requestExit h)
  · exact good_ite (fun _ => good_dbgDone (good_putLatest h)) (fun _ => good_dbgDone (good_ite (fun _ => h) (fun _
      => good_homePath h)))

theorem good_dbgWin {s : State} (h : Good o p s) {c : CellId} {off n v : Nat} {write : Bool} : Good o p
    (s.dbgWin c off n v write) := by
  unfold State.dbgWin
  split
  · exact good_ite (fun _ => good_dbgDone (good_winWrite (good_countBypass h))) (fun _ => good_dbgDone
      (good_countBypass h))
  · exact good_dbgDone h
  · exact good_dbgDone h

theorem good_dbgTags {s : State} (h : Good o p s) {pa : Nat} {n : Nat} {write : Bool} : Good o p (s.dbgTags pa n
    write) := by
  unfold State.dbgTags
  refine good_ite (fun _ => good_dbgDone h) (fun _ => ?_)
  dsimp only
  split
  · refine good_dbgDone ?_
    refine good_foldl_fst _ h (fun _ _ _ h2 => ?_)
    split
    · exact h2
    · exact (good_apertureRead h2)
  · refine good_dbgDone ?_
    refine good_foldl_fst _ h (fun _ _ _ h2 => ?_)
    split
    · exact h2
    · exact (good_apertureRead h2)

theorem good_dbgAccess {s : State} (h : Good o p s) {pa : Nat} {n v : Nat} {write : Bool} : Good o p
    (s.dbgAccess pa n v write) := by
  unfold State.dbgAccess
  refine good_ite (fun _ => good_dbgDone h) (fun _ => ?_)
  refine good_ite (fun _ => good_ite (fun _ => good_dbgDone h) (fun _ => good_ite (fun _ => good_dbgDone
    (good_writeReg h)) (fun _ => good_dbgDone (good_readBy h)))) (fun _ => ?_)
  refine good_ite (fun _ => good_dbgDone h) (fun _ => ?_)
  split
  · exact good_dbgHbm h
  · exact good_dbgWin h
  · exact good_dbgTags h
  · exact good_dbgDone h
  · exact good_dbgDone h

theorem outgood_execDbgAccess {dr : BitVec 128} {s : State} (h : Good o p s) : OutGood o p (execDbgAccess dr s)
    := by
  unfold execDbgAccess
  refine outgood_jtagOp h (fun _ h1 => ?_)
  extract_lets +onlyGivenNames _ _ s1 _ _
  have hs1 : Good o p s1 := good_answer h1
  split
  · exact outgood_next (good_dbgAccess hs1)
  · exact outgood_next (good_dbgAccess hs1)
  · exact outgood_next (good_dbgAccess hs1)
  · exact outgood_next (good_dbgAccess hs1)
  · exact outgood_next (good_dbgDone hs1)

theorem outgood_execLtnSel {i : Fin 10} {v : BitVec 16} {s : State} (h : Good o p s) : OutGood o p (execLtnSel i
    v s) :=
  outgood_jtagOp h (fun _ h1 => outgood_next (good_modJtag h1))

theorem outgood_execManufacturingTest {code : Fin 16} {s : State} (h : Good o p s) : OutGood o p
    (execManufacturingTest code s) :=
  outgood_jtagOp h (fun _ _ => outgood_refused _)

/-! ### Machine/InstrMatrix.lean -/

theorem outgood_execMma {c : CellId} {f : SForm} {x : LForm} {u : Upset} {s : State} (h : Good o p s) : OutGood
    o p (execMma c f x u s) :=
  outgood_next (good_issue h)

theorem outgood_execMmat {c : CellId} {f : SForm} {x : LForm} {u : Upset} {s : State} (h : Good o p s) : OutGood
    o p (execMmat c f x u s) :=
  outgood_next (good_issue h)

theorem outgood_execGfill {c : CellId} {f : SForm} {x : LForm} {u : Upset} {s : State} (h : Good o p s) :
    OutGood o p (execGfill c f x u s) :=
  outgood_next (good_issue h)

theorem outgood_execMmv {c : CellId} {f : SForm} {x : LForm} {u : Upset} {s : State} (h : Good o p s) : OutGood
    o p (execMmv c f x u s) :=
  outgood_next (good_issue h)

theorem outgood_execMxld {c : CellId} {f : SForm} {x : LForm} {u : Upset} {s : State} (h : Good o p s) : OutGood
    o p (execMxld c f x u s) :=
  outgood_next (good_issue h)

theorem outgood_execMxst {c : CellId} {f : SForm} {x : LForm} {u : Upset} {s : State} (h : Good o p s) : OutGood
    o p (execMxst c f x u s) :=
  outgood_next (good_issue h)

/-! ### Machine/InstrScalar.lean -/

theorem outgood_execAlu {c : CellId} {f : SForm} {s : State} (h : Good o p s) : OutGood o p (execAlu c f s) :=
  outgood_next (good_issue h)

theorem outgood_execAlui {c : CellId} {f : SForm} {s : State} (h : Good o p s) : OutGood o p (execAlui c f s) :=
  outgood_next (good_issue h)

theorem outgood_execMul {c : CellId} {f : SForm} {s : State} (h : Good o p s) : OutGood o p (execMul c f s) :=
  outgood_next (good_issue h)

theorem outgood_execMovi {c : CellId} {f : SForm} {s : State} (h : Good o p s) : OutGood o p (execMovi c f s) :=
  outgood_next (good_issue h)

theorem outgood_execMovhi {c : CellId} {f : SForm} {s : State} (h : Good o p s) : OutGood o p (execMovhi c f s)
    :=
  outgood_next (good_issue h)

theorem outgood_execLd {c : CellId} {f : Meets SForm Upset} {s : State} (h : Good o p s) : OutGood o p (execLd c
    f s) :=
  outgood_next (good_issue h)

theorem outgood_execSt {c : CellId} {f : Meets SForm Upset} {s : State} (h : Good o p s) : OutGood o p (execSt c
    f s) :=
  outgood_next (good_issue h)

theorem outgood_execLdo {c : CellId} {f : SForm} {u : Upset} {s : State} (h : Good o p s) : OutGood o p (execLdo
    c f u s) :=
  outgood_next (good_issue h)

theorem outgood_execSto {c : CellId} {f : SForm} {u : Upset} {s : State} (h : Good o p s) : OutGood o p (execSto
    c f u s) :=
  outgood_next (good_issue h)

theorem outgood_execSpf {c : CellId} {f : SForm} {s : State} (h : Good o p s) : OutGood o p (execSpf c f s) :=
  outgood_next (good_issue h)

theorem outgood_execDld {c : CellId} {f : SForm} {x : LForm} {u : Upset} {s : State} (h : Good o p s) : OutGood
    o p (execDld c f x u s) :=
  outgood_next (good_issue h)

theorem outgood_execDldm {c : CellId} {f : SForm} {x : LForm} {u : Upset} {s : State} (h : Good o p s) : OutGood
    o p (execDldm c f x u s) :=
  outgood_next (good_issue h)

theorem outgood_execDsto {c : CellId} {f : SForm} {x : LForm} {u : Upset} {s : State} (h : Good o p s) : OutGood
    o p (execDsto c f x u s) :=
  outgood_next (good_issue h)

theorem outgood_execDsetw {c : CellId} {f : SForm} {x : LForm} {u : Upset} {s : State} (h : Good o p s) :
    OutGood o p (execDsetw c f x u s) :=
  outgood_next (good_issue h)

theorem outgood_execDgetw {c : CellId} {f : SForm} {x : LForm} {u : Upset} {s : State} (h : Good o p s) :
    OutGood o p (execDgetw c f x u s) :=
  outgood_next (good_issue h)

theorem outgood_execBr {c : CellId} {f : BForm} {s : State} (h : Good o p s) : OutGood o p (execBr c f s) :=
  outgood_next (good_issue h)

theorem outgood_execBloop {c : CellId} {f : BForm} {s : State} (h : Good o p s) : OutGood o p (execBloop c f s)
    :=
  outgood_next (good_issue h)

theorem outgood_execJal {c : CellId} {f : SForm} {s : State} (h : Good o p s) : OutGood o p (execJal c f s) :=
  outgood_next (good_issue h)

theorem outgood_execJalr {c : CellId} {f : SForm} {s : State} (h : Good o p s) : OutGood o p (execJalr c f s) :=
  outgood_next (good_issue h)

theorem outgood_execCsrr {c : CellId} {f : SForm} {s : State} (h : Good o p s) : OutGood o p (execCsrr c f s) :=
  outgood_next (good_issue h)

theorem outgood_execCsrw {c : CellId} {f : SForm} {s : State} (h : Good o p s) : OutGood o p (execCsrw c f s) :=
  outgood_next (good_issue h)

theorem outgood_execNop {c : CellId} {f : SForm} {s : State} (h : Good o p s) : OutGood o p (execNop c f s) :=
  outgood_next (good_issue h)

theorem outgood_execBrk {c : CellId} {f : SForm} {s : State} (h : Good o p s) : OutGood o p (execBrk c f s) :=
  outgood_next (good_issue h)

theorem outgood_execTret {c : CellId} {f : SForm} {s : State} (h : Good o p s) : OutGood o p (execTret c f s) :=
  outgood_next (good_issue h)

/-! ### Machine/InstrStream.lean -/

theorem outgood_execSempost {c : CellId} {f : SForm} {s : State} (h : Good o p s) : OutGood o p (execSempost c f
    s) :=
  outgood_next (good_issue h)

theorem outgood_execSemwait {c : CellId} {f : SForm} {s : State} (h : Good o p s) : OutGood o p (execSemwait c f
    s) :=
  outgood_next (good_issue h)

theorem outgood_execSempostr {c : CellId} {f : SForm} {s : State} (h : Good o p s) : OutGood o p (execSempostr c
    f s) :=
  outgood_next (good_issue h)

theorem outgood_execQpush {c : CellId} {f : SForm} {x : LForm} {u : Upset} {s : State} (h : Good o p s) :
    OutGood o p (execQpush c f x u s) :=
  outgood_next (good_issue h)

theorem outgood_execQpop {c : CellId} {f : SForm} {x : LForm} {u : Upset} {s : State} (h : Good o p s) : OutGood
    o p (execQpop c f x u s) :=
  outgood_next (good_issue h)

theorem outgood_execQcnt {c : CellId} {f : SForm} {x : LForm} {u : Upset} {s : State} (h : Good o p s) : OutGood
    o p (execQcnt c f x u s) :=
  outgood_next (good_issue h)

theorem outgood_execQmark {c : CellId} {f : SForm} {x : LForm} {u : Upset} {s : State} (h : Good o p s) :
    OutGood o p (execQmark c f x u s) :=
  outgood_next (good_issue h)

theorem outgood_execQrewind {c : CellId} {f : SForm} {x : LForm} {u : Upset} {s : State} (h : Good o p s) :
    OutGood o p (execQrewind c f x u s) :=
  outgood_next (good_issue h)

theorem outgood_execQrel {c : CellId} {f : SForm} {x : LForm} {u : Upset} {s : State} (h : Good o p s) : OutGood
    o p (execQrel c f x u s) :=
  outgood_next (good_issue h)

theorem outgood_execSxgo {c : CellId} {f : SForm} {x : LForm} {u : Upset} {s : State} (h : Good o p s) : OutGood
    o p (execSxgo c f x u s) :=
  outgood_next (good_issue h)

/-! ### Machine/InstrSystem.lean -/

theorem outgood_execHvsubDeliver {c : CellId} {f : SForm} {x : LForm} {u : Upset} {s : State} (h : Good o p s) :
    OutGood o p (execHvsubDeliver c f x u s) :=
  outgood_next (good_issue h)

theorem outgood_execHvsubQuery {c : CellId} {f : SForm} {x : LForm} {u : Upset} {s : State} (h : Good o p s) :
    OutGood o p (execHvsubQuery c f x u s) :=
  outgood_next (good_issue h)

theorem outgood_execEqnx {c : CellId} {f : SForm} {s : State} (h : Good o p s) : OutGood o p (execEqnx c f s) :=
  outgood_next (good_issue h)

theorem outgood_execBar {c : CellId} {f : SForm} {s : State} (h : Good o p s) : OutGood o p (execBar c f s) :=
  outgood_next (good_issue h)

theorem outgood_execPhase {c : CellId} {f : SForm} {s : State} (h : Good o p s) : OutGood o p (execPhase c f s)
    :=
  outgood_next (good_issue h)

theorem outgood_execPhaseAnn {c : CellId} {f : SForm} {s : State} (h : Good o p s) : OutGood o p (execPhaseAnn c
    f s) :=
  outgood_next (good_issue h)

theorem outgood_execFence {c : CellId} {f : SForm} {s : State} (h : Good o p s) : OutGood o p (execFence c f s)
    :=
  outgood_next (good_issue h)

theorem outgood_execFenceE {c : CellId} {f : SForm} {s : State} (h : Good o p s) : OutGood o p (execFenceE c f
    s) :=
  outgood_next (good_issue h)

theorem outgood_execIsync {c : CellId} {f : SForm} {s : State} (h : Good o p s) : OutGood o p (execIsync c f s)
    :=
  outgood_next (good_issue h)

theorem outgood_execYield {c : CellId} {f : SForm} {s : State} (h : Good o p s) : OutGood o p (execYield c f s)
    :=
  outgood_next (good_issue h)

/-! ### Machine/InstrVector.lean -/

theorem outgood_execVadd {c : CellId} {f : SForm} {x : LForm} {u : Upset} {s : State} (h : Good o p s) : OutGood
    o p (execVadd c f x u s) :=
  outgood_next (good_issue h)

theorem outgood_execVsub {c : CellId} {f : SForm} {x : LForm} {u : Upset} {s : State} (h : Good o p s) : OutGood
    o p (execVsub c f x u s) :=
  outgood_next (good_issue h)

theorem outgood_execVmul {c : CellId} {f : SForm} {x : LForm} {u : Upset} {s : State} (h : Good o p s) : OutGood
    o p (execVmul c f x u s) :=
  outgood_next (good_issue h)

theorem outgood_execVfma {c : CellId} {f : SForm} {x : LForm} {u : Upset} {s : State} (h : Good o p s) : OutGood
    o p (execVfma c f x u s) :=
  outgood_next (good_issue h)

theorem outgood_execVfmaw {c : CellId} {f : SForm} {x : LForm} {u : Upset} {s : State} (h : Good o p s) :
    OutGood o p (execVfmaw c f x u s) :=
  outgood_next (good_issue h)

theorem outgood_execVmin {c : CellId} {f : SForm} {x : LForm} {u : Upset} {s : State} (h : Good o p s) : OutGood
    o p (execVmin c f x u s) :=
  outgood_next (good_issue h)

theorem outgood_execVmax {c : CellId} {f : SForm} {x : LForm} {u : Upset} {s : State} (h : Good o p s) : OutGood
    o p (execVmax c f x u s) :=
  outgood_next (good_issue h)

theorem outgood_execVcmp {c : CellId} {f : SForm} {x : LForm} {u : Upset} {s : State} (h : Good o p s) : OutGood
    o p (execVcmp c f x u s) :=
  outgood_next (good_issue h)

theorem outgood_execVsel {c : CellId} {f : SForm} {x : LForm} {u : Upset} {s : State} (h : Good o p s) : OutGood
    o p (execVsel c f x u s) :=
  outgood_next (good_issue h)

theorem outgood_execVmov {c : CellId} {f : SForm} {x : LForm} {u : Upset} {s : State} (h : Good o p s) : OutGood
    o p (execVmov c f x u s) :=
  outgood_next (good_issue h)

theorem outgood_execVabs {c : CellId} {f : SForm} {x : LForm} {u : Upset} {s : State} (h : Good o p s) : OutGood
    o p (execVabs c f x u s) :=
  outgood_next (good_issue h)

theorem outgood_execVneg {c : CellId} {f : SForm} {x : LForm} {u : Upset} {s : State} (h : Good o p s) : OutGood
    o p (execVneg c f x u s) :=
  outgood_next (good_issue h)

theorem outgood_execVcvt {c : CellId} {f : SForm} {x : LForm} {u : Upset} {s : State} (h : Good o p s) : OutGood
    o p (execVcvt c f x u s) :=
  outgood_next (good_issue h)

theorem outgood_execFexp2 {c : CellId} {f : SForm} {x : LForm} {u : Upset} {s : State} (h : Good o p s) :
    OutGood o p (execFexp2 c f x u s) :=
  outgood_next (good_issue h)

theorem outgood_execFlog2 {c : CellId} {f : SForm} {x : LForm} {u : Upset} {s : State} (h : Good o p s) :
    OutGood o p (execFlog2 c f x u s) :=
  outgood_next (good_issue h)

theorem outgood_execFrcp {c : CellId} {f : SForm} {x : LForm} {u : Upset} {s : State} (h : Good o p s) : OutGood
    o p (execFrcp c f x u s) :=
  outgood_next (good_issue h)

theorem outgood_execFrsq {c : CellId} {f : SForm} {x : LForm} {u : Upset} {s : State} (h : Good o p s) : OutGood
    o p (execFrsq c f x u s) :=
  outgood_next (good_issue h)

theorem outgood_execRsum {c : CellId} {f : SForm} {x : LForm} {u : Upset} {s : State} (h : Good o p s) : OutGood
    o p (execRsum c f x u s) :=
  outgood_next (good_issue h)

theorem outgood_execRsumd {c : CellId} {f : SForm} {x : LForm} {u : Upset} {s : State} (h : Good o p s) :
    OutGood o p (execRsumd c f x u s) :=
  outgood_next (good_issue h)

theorem outgood_execRssq {c : CellId} {f : SForm} {x : LForm} {u : Upset} {s : State} (h : Good o p s) : OutGood
    o p (execRssq c f x u s) :=
  outgood_next (good_issue h)

theorem outgood_execRmax {c : CellId} {f : SForm} {x : LForm} {u : Upset} {s : State} (h : Good o p s) : OutGood
    o p (execRmax c f x u s) :=
  outgood_next (good_issue h)

theorem outgood_execRmin {c : CellId} {f : SForm} {x : LForm} {u : Upset} {s : State} (h : Good o p s) : OutGood
    o p (execRmin c f x u s) :=
  outgood_next (good_issue h)

theorem outgood_execRamax {c : CellId} {f : SForm} {x : LForm} {u : Upset} {s : State} (h : Good o p s) :
    OutGood o p (execRamax c f x u s) :=
  outgood_next (good_issue h)

theorem outgood_execRfstoreSlot {c : CellId} {f : SForm} {x : LForm} {u : Upset} {s : State} (h : Good o p s) :
    OutGood o p (execRfstoreSlot c f x u s) :=
  outgood_next (good_issue h)

theorem outgood_execRfstoreReg {c : CellId} {f : SForm} {x : LForm} {u : Upset} {s : State} (h : Good o p s) :
    OutGood o p (execRfstoreReg c f x u s) :=
  outgood_next (good_issue h)

theorem outgood_execRfclr {c : CellId} {f : SForm} {x : LForm} {u : Upset} {s : State} (h : Good o p s) :
    OutGood o p (execRfclr c f x u s) :=
  outgood_next (good_issue h)

theorem outgood_execVsmax {c : CellId} {f : SForm} {x : LForm} {u : Upset} {s : State} (h : Good o p s) :
    OutGood o p (execVsmax c f x u s) :=
  outgood_next (good_issue h)

theorem outgood_execVsmon {c : CellId} {f : SForm} {x : LForm} {u : Upset} {s : State} (h : Good o p s) :
    OutGood o p (execVsmon c f x u s) :=
  outgood_next (good_issue h)

theorem outgood_execVsmfin {c : CellId} {f : SForm} {x : LForm} {u : Upset} {s : State} (h : Good o p s) :
    OutGood o p (execVsmfin c f x u s) :=
  outgood_next (good_issue h)

/-! ### Machine/Dispatch.lean -/

theorem outgood_exec {i : Instr} {s : State} (h : Good o p s) : OutGood o p (exec i s) := by
  unfold exec
  split
  · exact outgood_execAlu h
  · exact outgood_execAlui h
  · exact outgood_execMul h
  · exact outgood_execMovi h
  · exact outgood_execMovhi h
  · exact outgood_execLd h
  · exact outgood_execSt h
  · exact outgood_execLdo h
  · exact outgood_execSto h
  · exact outgood_execSpf h
  · exact outgood_execDld h
  · exact outgood_execDldm h
  · exact outgood_execDsto h
  · exact outgood_execDsetw h
  · exact outgood_execDgetw h
  · exact outgood_execBr h
  · exact outgood_execBloop h
  · exact outgood_execJal h
  · exact outgood_execJalr h
  · exact outgood_execCsrr h
  · exact outgood_execCsrw h
  · exact outgood_execNop h
  · exact outgood_execBrk h
  · exact outgood_execTret h
  · exact outgood_execSempost h
  · exact outgood_execSemwait h
  · exact outgood_execSempostr h
  · exact outgood_execQpush h
  · exact outgood_execQpop h
  · exact outgood_execQcnt h
  · exact outgood_execQmark h
  · exact outgood_execQrewind h
  · exact outgood_execQrel h
  · exact outgood_execSxgo h
  · exact outgood_execMma h
  · exact outgood_execMmat h
  · exact outgood_execGfill h
  · exact outgood_execMmv h
  · exact outgood_execMxld h
  · exact outgood_execMxst h
  · exact outgood_execVadd h
  · exact outgood_execVsub h
  · exact outgood_execVmul h
  · exact outgood_execVfma h
  · exact outgood_execVfmaw h
  · exact outgood_execVmin h
  · exact outgood_execVmax h
  · exact outgood_execVcmp h
  · exact outgood_execVsel h
  · exact outgood_execVmov h
  · exact outgood_execVabs h
  · exact outgood_execVneg h
  · exact outgood_execVcvt h
  · exact outgood_execFexp2 h
  · exact outgood_execFlog2 h
  · exact outgood_execFrcp h
  · exact outgood_execFrsq h
  · exact outgood_execRsum h
  · exact outgood_execRsumd h
  · exact outgood_execRssq h
  · exact outgood_execRmax h
  · exact outgood_execRmin h
  · exact outgood_execRamax h
  · exact outgood_execRfstoreSlot h
  · exact outgood_execRfstoreReg h
  · exact outgood_execRfclr h
  · exact outgood_execVsmax h
  · exact outgood_execVsmon h
  · exact outgood_execVsmfin h
  · exact outgood_execHvsubDeliver h
  · exact outgood_execHvsubQuery h
  · exact outgood_execEqnx h
  · exact outgood_execBar h
  · exact outgood_execPhase h
  · exact outgood_execPhaseAnn h
  · exact outgood_execFence h
  · exact outgood_execFenceE h
  · exact outgood_execIsync h
  · exact outgood_execYield h
  · exact outgood_execYieldExpiry h
  · exact outgood_execFaultDelivery h
  · exact outgood_execLoopMispredict h
  · exact outgood_execRunAheadEntry h
  · exact outgood_execRunAheadLimit h
  · exact outgood_execSqStart h
  · exact outgood_execSqHalt h
  · exact outgood_execArrayLend h
  · exact outgood_execArrayReturn h
  · exact outgood_execBarrierComplete h
  · exact outgood_execSemwaitSatisfied h
  · exact outgood_execHeldPostDelivery h
  · exact outgood_execSemValWrite h
  · exact outgood_execRuFaccWrite h
  · exact outgood_execMxSelftest h
  · exact outgood_execSelftestDone h
  · exact outgood_execGfillLimitExpiry h
  · exact outgood_execSxAccept h
  · exact outgood_execLinkEmptyTake h
  · exact outgood_execMicroTransferDone h
  · exact outgood_execSxTransferComplete h
  · exact outgood_execSxResume h
  · exact outgood_execSxAbandon h
  · exact outgood_execSxShareWrite h
  · exact outgood_execShareWindow h
  · exact outgood_execConveyorItemWrite h
  · exact outgood_execQCfgWrite h
  · exact outgood_execCoherentRead h
  · exact outgood_execCoherentWrite h
  · exact outgood_execHomeRead h
  · exact outgood_execHomeWrite h
  · exact outgood_execReductionContribution h
  · exact outgood_execReductionApply h
  · exact outgood_execHomeEviction h
  · exact outgood_execLineFill h
  · exact outgood_execWritebackAck h
  · exact outgood_execWinCfgWrite h
  · exact outgood_execWinResizeDone h
  · exact outgood_execHrUnpin h
  · exact outgood_execVportCrcError h
  · exact outgood_execLayerRetire h
  · exact outgood_execPageWalkDone h
  · exact outgood_execPrResolve h
  · exact outgood_execPrRefuse h
  · exact outgood_execPrTimeout h
  · exact outgood_execTrInvalRange h
  · exact outgood_execTrInvalAll h
  · exact outgood_execInvalDone h
  · exact outgood_execAtsInvalidate h
  · exact outgood_execPriResponse h
  · exact outgood_execTagApertureRead h
  · exact outgood_execScrubRead h
  · exact outgood_execHbmRefresh h
  · exact outgood_execUpdateGroupDone h
  · exact outgood_execStepDecision h
  · exact outgood_execEquinoxBarrier h
  · exact outgood_execLendStarved h
  · exact outgood_execFingerprintExchange h
  · exact outgood_execBisectionRound h
  · exact outgood_execRcReleaseCommit h
  · exact outgood_execRcReleaseDiscard h
  · exact outgood_execDxSinkWrite h
  · exact outgood_execApplyRecord h
  · exact outgood_execShardExport h
  · exact outgood_execShardImport h
  · exact outgood_execCapture h
  · exact outgood_execReplay h
  · exact outgood_execJobEnd h
  · exact outgood_execAnResolved h
  · exact outgood_execAnTimeout h
  · exact outgood_execTrainingDone h
  · exact outgood_execAlignLock h
  · exact outgood_execAlignTimeout h
  · exact outgood_execAlignmentLoss h
  · exact outgood_execFecErrorRate h
  · exact outgood_execFaultRetry h
  · exact outgood_execHello h
  · exact outgood_execHelloRetry h
  · exact outgood_execHelloTimeout h
  · exact outgood_execData h
  · exact outgood_execAck h
  · exact outgood_execReady h
  · exact outgood_execAbortFrame h
  · exact outgood_execAckTimer h
  · exact outgood_execRetransmitTimeout h
  · exact outgood_execPfcFrame h
  · exact outgood_execCeArm h
  · exact outgood_execCeDisarm h
  · exact outgood_execInstanceTrigger h
  · exact outgood_execInstanceComplete h
  · exact outgood_execCeAbort h
  · exact outgood_execReceiverDetach h
  · exact outgood_execSqDoorbell h
  · exact outgood_execCqDoorbell h
  · exact outgood_execQueueCfgWrite h
  · exact outgood_execCommandFetch h
  · exact outgood_execNopCommand h
  · exact outgood_execCellStart h
  · exact outgood_execCellHalt h
  · exact outgood_execCellReset h
  · exact outgood_execBandReset h
  · exact outgood_execImLoad h
  · exact outgood_execCopy h
  · exact outgood_execFill h
  · exact outgood_execSemPost h
  · exact outgood_execCompletionWrite h
  · exact outgood_execPostTrigger h
  · exact outgood_execMailboxPublish h
  · exact outgood_execMailboxAck h
  · exact outgood_execHdmRead h
  · exact outgood_execHdmWrite h
  · exact outgood_execBisnpResponse h
  · exact outgood_execHostSnoop h
  · exact outgood_execDoeRequest h
  · exact outgood_execFunctionLevelReset h
  · exact outgood_execCxlReset h
  · exact outgood_execCxlResetMemoryClear h
  · exact outgood_execPowerInterval h
  · exact outgood_execPowerMeasurement h
  · exact outgood_execMeasurementLost h
  · exact outgood_execVoltageRampDone h
  · exact outgood_execDroopTrip h
  · exact outgood_execDroopEnd h
  · exact outgood_execDozeEntry h
  · exact outgood_execDozeWake h
  · exact outgood_execCpSleep h
  · exact outgood_execPwrWake h
  · exact outgood_execWakeAdmission h
  · exact outgood_execCellWakeDone h
  · exact outgood_execPwrHbmSr h
  · exact outgood_execHbmIdleSelfRefresh h
  · exact outgood_execHbmSrExitDone h
  · exact outgood_execPwrPhtClr h
  · exact outgood_execRailCheck h
  · exact outgood_execPllLockLoss h
  · exact outgood_execDroopRecalibrate h
  · exact outgood_execHbmRetrain h
  · exact outgood_execStbyPgRise h
  · exact outgood_execStbyPgFall h
  · exact outgood_execMainPgRise h
  · exact outgood_execMainPgFall h
  · exact outgood_execVin48Low h
  · exact outgood_execDevRstAssert h
  · exact outgood_execDevRstRelease h
  · exact outgood_execCxlPerstAssert h
  · exact outgood_execCxlPerstRelease h
  · exact outgood_execBringupStepTimeout h
  · exact outgood_execServiceFwTimeout h
  · exact outgood_execRstCell h
  · exact outgood_execRstBand h
  · exact outgood_execFatalError h
  · exact outgood_execAlmanacRingCopy h
  · exact outgood_execAlmSevClr h
  · exact outgood_execGetStatus h
  · exact outgood_execReadReg h
  · exact outgood_execSetCap h
  · exact outgood_execReset h
  · exact outgood_execFwStageBegin h
  · exact outgood_execFwStageData h
  · exact outgood_execFwStageHbm h
  · exact outgood_execFwStageEnd h
  · exact outgood_execFwActivate h
  · exact outgood_execFwConfirm h
  · exact outgood_execFwCommitSvn h
  · exact outgood_execFwPatchSelect h
  · exact outgood_execLcTransition h
  · exact outgood_execLcEndPhase1 h
  · exact outgood_execLcEndPhase2 h
  · exact outgood_execGetVersion h
  · exact outgood_execGetCapabilities h
  · exact outgood_execNegotiateAlgorithms h
  · exact outgood_execGetDigests h
  · exact outgood_execGetCertificate h
  · exact outgood_execChallenge h
  · exact outgood_execGetMeasurements h
  · exact outgood_execKeyExchange h
  · exact outgood_execFinish h
  · exact outgood_execHeartbeat h
  · exact outgood_execEndSession h
  · exact outgood_execBypass h
  · exact outgood_execIdcode h
  · exact outgood_execSamplePreload h
  · exact outgood_execExtest h
  · exact outgood_execClamp h
  · exact outgood_execHighz h
  · exact outgood_execDbgChallenge h
  · exact outgood_execDbgUnlock h
  · exact outgood_execDbgAccess h
  · exact outgood_execLtnSel h
  · exact outgood_execManufacturingTest h
  · exact outgood_execRegisterWrite h
  · exact outgood_execEngineInstructionComplete h
  · exact outgood_execAtsTranslationCompletion h

/-! ### The obligations -/

/-- A step leaves the commands behind the first, which it takes. -/
theorem outgood_step {s : State} (h : s.wf = true) (hotp : Otp.keeps o s.dev.fw.otp) :
    OutGood o s.pending.tail (step s) := by
  unfold step
  cases hp : s.pending with
  | nil => exact outgood_next ⟨h, hotp, hp⟩
  | cons i rest => exact outgood_exec ⟨(wf_iff _).mpr ((wf_iff s).mp h), hotp, rfl⟩

end Sys2Proof.Proofs
end

section
/-! The obligations about every step (O4 to O6). -/

namespace Sys2Proof.Proofs

open Sys2Proof Sys2Proof.Machine Sys2Proof.Laws

/-- Settles O4, by the rules above for every function that a step runs. -/
theorem stepKeepsCanonicalForm : Obligations.StepKeepsCanonicalForm :=
  fun s _ h e => (outgood_step h (keeps_refl s.dev.fw.otp) _ e).wf

/-- Settles O5, by the same rules: OTP is written only by a raise of a floor, a burnt block, a bit of the patch-slot
thermometer, and a move of the lifecycle state. -/
theorem otpIsOnlyBlown : Obligations.OtpIsOnlyBlown :=
  fun s _ h e => (outgood_step h (keeps_refl s.dev.fw.otp) _ e).otp

/-- Settles O6, by the same rules: nothing but the step itself writes the queue. -/
theorem commandsWaitInOrder : Obligations.CommandsWaitInOrder :=
  fun s _ h e => (outgood_step h (keeps_refl s.dev.fw.otp) _ e).queue

end Sys2Proof.Proofs
end

section
/-! The front of the queue, and the state after reset (O1 to O3). -/

namespace Sys2Proof.Proofs

open Sys2Proof Sys2Proof.Machine Sys2Proof.Laws

/-- Settles O1. -/
theorem stepRunsTheFrontCommand : Obligations.StepRunsTheFrontCommand := by
  intro s c rest
  constructor
  · intro h
    unfold step
    rw [h]
  · intro h
    unfold step
    rw [h]

/-- Every cell after reset is the one that nothing has written. -/
theorem cell_reset (c : CellId) : State.reset.cell c = {} := by
  simp [State.cell, State.reset]

/-- No register of a cell differs from its reset value after reset. -/
theorem reg_cell_reset (c : CellId) (a : Nat) : (State.reset.cell c).reg a = (cellResetVal a).toNat := by
  rw [cell_reset]; rfl

/-- No floor or management register differs from its reset value after reset. -/
theorem freg_reset (a : Nat) : State.reset.freg a = (floorResetVal a).toNat := rfl

theorem stackSr_reset : ∀ k < 20, State.reset.stackSr k = true := by decide

/-- Settles O2: no register is listed after reset, so each reads the value of its table. -/
theorem resetState : Obligations.ResetState := by
  refine ⟨fun c => ?_, stackSr_reset, rfl, rfl, rfl, rfl, rfl, rfl, rfl, rfl, ?_⟩
  · simp only [cell_reset, true_and]
    refine ⟨fun n => ?_, fun q => ?_, fun k => ?_, ?_⟩
    · simp [Cell.slot]
    · simp [Cell.conv]
      rfl
    · simp [Cell.sem]
    · decide
  · simp only [freg_reset]
    decide

/-- Settles O3. -/
theorem resetIsCanonical : Obligations.ResetIsCanonical :=
  ⟨(wf_iff _).mpr ⟨rfl, fun c => by rw [cell_reset]; rfl, rfl, rfl, rfl, rfl⟩, rfl, freg_reset, reg_cell_reset⟩

end Sys2Proof.Proofs
end

section
/-! OC loads and stores, descriptor moves, hints, phases and fences (O8, O10, O11). -/

namespace Sys2Proof.Proofs

open Sys2Proof Sys2Proof.Machine Sys2Proof.Laws

/-! ### The cell of an instruction that has met its OC errors -/

/-- The cell that carries out instruction i, once i has met its OC errors. -/
def metCell (c : CellId) (s : State) (i : Ins) : Cell :=
  { s.upsetCell c i.u with
    window := [metEntry (s.cell c) i], npc := ((s.cell c).holding i).npc, stuck := none }

section
variable {c : CellId} {s : State} {i : Ins}

theorem ocUpset_metCell (h : Ready c s) (hop : Op.plain i.op) :
    (s.carrying c i).ocUpset c i.u = s.setCell c (metCell c s i) := ocUpset_carrying h i hop

@[simp] theorem rdS_metCell (n : BitVec 5) : (metCell c s i).rdS n = (s.upsetCell c i.u).rdS n := rfl
@[simp] theorem ocBad_metCell (a n : Nat) : (metCell c s i).ocBad a n = (s.upsetCell c i.u).ocBad a n := rfl
@[simp] theorem ocRead_metCell (a n : Nat) : (metCell c s i).ocRead a n = (s.upsetCell c i.u).ocRead a n := rfl
@[simp] theorem ocSlot_metCell (k : Nat) : (metCell c s i).ocSlot k = (s.upsetCell c i.u).ocSlot k := rfl
@[simp] theorem memAddr_metCell (f : SForm) : memAddr (metCell c s i) f = memAddr (s.upsetCell c i.u) f := rfl

/-- The bytes of OC are as they were. -/
theorem oc_upsetCell (h : Ready c s) (u : Upset) : (s.upsetCell c u).oc = (s.cell c).oc ∧
    (s.upsetCell c u).ocEpoch = (s.cell c).ocEpoch := by
  rw [upsetCell_idle h.idle]; exact ⟨rfl, rfl⟩

end

theorem oc_of_retires {ks : List Nat} {x : Cell} {pc : Word} {c : CellId} {s t : State} (h : Retires ks c s x pc t) :
    (t.cell c).oc = x.oc ∧ (t.cell c).ocEpoch = x.ocEpoch := by
  rw [h.1]; exact ⟨rfl, rfl⟩

theorem ocRead_congr {x y : Cell} (hoc : x.oc = y.oc) (he : x.ocEpoch = y.ocEpoch) (a n : Nat) :
    x.ocRead a n = y.ocRead a n := by
  unfold Cell.ocRead Cell.ocDef
  rw [hoc, he]

/-- A byte of OC outside a write is as it was. -/
theorem ocRead_ocWrite_outside (x : Cell) {a b : Nat} {bs : List Byte} (h : b < a ∨ a + bs.length ≤ b) :
    (x.ocWrite a bs).ocRead b 1 = x.ocRead b 1 := by
  rw [Cell.ocRead, getRange_eq_map, Cell.ocRead, getRange_eq_map]
  simp only [List.range_one, List.map_cons, List.map_nil, Nat.add_zero]
  exact congrArg (· :: []) (smap_get_setRange_other _ _ _ _ _ h)

/-! ### LDO and STO (R191) -/

theorem sOnly_load {f : SForm} (h : f.rb = 0) :
    sOnly f { imm := true, func := true, rd := true, ra := true } = true := by simp [sOnly, h]

theorem sOnly_store {f : SForm} (h : f.rd = 0) :
    sOnly f { imm := true, func := true, ra := true, rb := true } = true := by simp [sOnly, h]

theorem length_getRange {α : Type} (d : Nat → α) (m : SMap α) (a n : Nat) : (SMap.getRange d m a n).length = n := by
  rw [getRange_eq_map, List.length_map, List.length_range]

theorem plain_ldo : Op.plain Op.ldo := by unfold Op.plain; decide
theorem plain_sto : Op.plain Op.sto := by unfold Op.plain; decide

section
variable {c : CellId} {s : State} {f : SForm} {u : Upset}

/-- The address and the size of an access of OC by LDO or STO, which are legal. -/
structure OcAccess (x : Cell) (f : SForm) : Prop where
  aligned : memAddr x f % accessSize f.func = 0
  inside : memAddr x f < 0x40000

theorem eval_ldo (h : Ready c s) (ha : OcAccess (s.upsetCell c u) f) (hrb : f.rb = 0) (hfunc : f.func.toNat < 7)
    (hgood : (s.upsetCell c u).ocBad (memAddr (s.upsetCell c u) f) (accessSize f.func) = false) :
    let i : Ins := { op := .ldo, f, u }
    evalOp c ((s.cell c).entry i) (s.carrying c i) =
      .done (s.setCell c ((metCell c s i).wrS f.rd (loadValue
        ((s.upsetCell c u).ocRead (memAddr (s.upsetCell c u) f) (accessSize f.func)) (f.func.getLsbD 2)))) := by
  intro i
  have hmet : (s.carrying c i).ocUpset c u = s.setCell c (metCell c s i) := ocUpset_metCell h plain_ldo
  show evalLdo c _ _ = _
  unfold evalLdo
  simp only [entry_ins, hmet, sOnly_load hrb, loadFuncOk, hfunc, cell_setCell_self, memAddr_metCell, ha.aligned,
    Nat.not_le.mpr ha.inside, ocBad_metCell, ocRead_metCell, i, hgood, decide_true, Bool.not_true, Bool.or_self,
    Bool.false_eq_true, ne_eq, not_true_eq_false, if_false]
  rw [doneRd, State.modCell, cell_setCell_self, setCell_setCell]

theorem eval_sto (h : Ready c s) (ha : OcAccess (s.upsetCell c u) f) (hrd : f.rd = 0) (hfunc : f.func.toNat < 4) :
    let i : Ins := { op := .sto, f, u }
    evalOp c ((s.cell c).entry i) (s.carrying c i) =
      .done (s.setCell c ((metCell c s i).ocWrite (memAddr (s.upsetCell c u) f)
        (leBytes (accessSize f.func) ((s.upsetCell c u).rdS f.rb).toNat))) := by
  intro i
  have hmet : (s.carrying c i).ocUpset c u = s.setCell c (metCell c s i) := ocUpset_metCell h plain_sto
  show evalSto c _ _ = _
  unfold evalSto
  simp only [entry_ins, hmet, sOnly_store hrd, Nat.not_le.mpr hfunc, cell_setCell_self, memAddr_metCell, ha.aligned,
    Nat.not_le.mpr ha.inside, i, rdS_metCell, setCell_setCell, decide_false, Bool.not_true, Bool.or_self,
    Bool.false_eq_true, ne_eq, not_true_eq_false, if_false]

theorem issue_ldo (h : Ready c s) (ha : OcAccess (s.upsetCell c u) f) (hrb : f.rb = 0) (hfunc : f.func.toNat < 7)
    (hgood : (s.upsetCell c u).ocBad (memAddr (s.upsetCell c u) f) (accessSize f.func) = false) :
    Retires commitCounters c s ((s.upsetCell c u).wrS f.rd (loadValue
        ((s.upsetCell c u).ocRead (memAddr (s.upsetCell c u) f) (accessSize f.func)) (f.func.getLsbD 2)))
      (nextPc (s.cell c).npc .ldo) (s.issue c { op := .ldo, f, u }) := by
  obtain ⟨t, ht, hi⟩ := issue_upset (i := { op := .ldo, f, u }) (F := fun x => x.wrS f.rd _) h (fetched_short h rfl)
    plain_ldo (eval_ldo h ha hrb hfunc hgood) (by simp only [Cell.wrS]; split <;> rfl) (by simp [Cell.reg])
    (fun hw => by simpa using hw)
  rw [hi]; exact ht

theorem issue_sto (h : Ready c s) (ha : OcAccess (s.upsetCell c u) f) (hrd : f.rd = 0) (hfunc : f.func.toNat < 4) :
    Retires commitCounters c s ((s.upsetCell c u).ocWrite (memAddr (s.upsetCell c u) f)
        (leBytes (accessSize f.func) ((s.upsetCell c u).rdS f.rb).toNat))
      (nextPc (s.cell c).npc .sto) (s.issue c { op := .sto, f, u }) := by
  obtain ⟨t, ht, hi⟩ := issue_upset (i := { op := .sto, f, u }) (F := fun x => x.ocWrite _ _) h (fetched_short h rfl)
    plain_sto (eval_sto h ha hrd hfunc) rfl rfl id
  rw [hi]; exact ht

end

/-- Settles O8: LDO and STO are evaluated on the cell that has met its OC errors (`eval_ldo`, `eval_sto`), and retire
with that (`issue_ldo`, `issue_sto`). -/
theorem ocLoadsAndStores : Obligations.OcLoadsAndStores := by
  unfold Obligations.OcLoadsAndStores
  intro c s f u h x a n haligned hinside
  have ha : OcAccess x f := ⟨haligned, hinside⟩
  refine ⟨fun hrb hfunc hgood => ⟨_, rfl, ?load⟩, fun hrd hfunc => ⟨_, rfl, ?store, fun b hb => ?kept⟩⟩
  case load =>
    have hlen : (x.ocRead a n).length = n := length_getRange _ _ _ _
    have hv : loadValue (x.ocRead a n) (f.func.getLsbD 2) =
        if f.func.getLsbD 2 then BitVec.ofInt 64 (sgn (8 * n) (leNat (x.ocRead a n)))
        else BitVec.ofNat 64 (leNat (x.ocRead a n)) := by
      rw [loadValue, hlen]; rfl
    rw [← hv]
    exact issue_ldo h ha hrb hfunc hgood
  case store => exact issue_sto h ha hrd hfunc
  case kept =>
    obtain ⟨htoc, hte⟩ := oc_of_retires (issue_sto h ha hrd hfunc)
    obtain ⟨hoc, he⟩ := oc_upsetCell h u
    exact (ocRead_congr htoc hte b 1).trans
      ((ocRead_ocWrite_outside _ (by rw [length_leBytes]; exact hb)).trans (ocRead_congr hoc he b 1))

end Sys2Proof.Proofs
end

section
/-! Fields of registers, bit by bit. -/

namespace Sys2Proof.Proofs

open Sys2Proof Sys2Proof.Machine Sys2Proof.Laws

/-- The mask of bits hi to lo. -/
def fieldMask (hi lo : Nat) : Nat := (2 ^ (hi + 1 - lo) - 1) <<< lo

theorem testBit_fieldMask (hi lo i : Nat) : (fieldMask hi lo).testBit i = decide (lo ≤ i ∧ i < hi + 1) := by
  rw [fieldMask, Nat.testBit_shiftLeft, Nat.testBit_two_pow_sub_one, ← Bool.decide_and, decide_eq_decide]
  omega

/-- Bits hi to lo of x, in their place. -/
theorem bits_mul_pow (x hi lo : Nat) : bits x hi lo * 2 ^ lo = x &&& fieldMask hi lo := by
  refine Nat.eq_of_testBit_eq fun i => ?_
  rw [← Nat.shiftLeft_eq, Nat.testBit_shiftLeft, Nat.testBit_and, testBit_fieldMask, testBit_bits]
  by_cases hi1 : lo ≤ i
  · have hsub : lo + (i - lo) = i := by omega
    have hin : i - lo < hi + 1 - lo ↔ i < hi + 1 := by omega
    simp [hi1, hsub, hin, Bool.and_comm]
  · simp [hi1]

theorem mod_mul_pow (v hi lo : Nat) : v % 2 ^ (hi + 1 - lo) * 2 ^ lo = (v <<< lo) &&& fieldMask hi lo := by
  refine Nat.eq_of_testBit_eq fun i => ?_
  rw [← Nat.shiftLeft_eq, Nat.testBit_shiftLeft, Nat.testBit_and, testBit_fieldMask, Nat.testBit_mod_two_pow,
    Nat.testBit_shiftLeft]
  by_cases hi1 : lo ≤ i
  · have hin : i - lo < hi + 1 - lo ↔ i < hi + 1 := by omega
    simp [hi1, hin, Bool.and_comm]
  · simp [hi1]

/-- A field that is put replaces its bits and leaves the others. -/
theorem testBit_putBits (x hi lo v i : Nat) :
    (putBits x hi lo v).testBit i = if lo ≤ i ∧ i < hi + 1 then v.testBit (i - lo) else x.testBit i := by
  rw [putBits, bits_mul_pow, mod_mul_pow, testBit_sub_and_add, testBit_fieldMask, Nat.testBit_shiftLeft]
  by_cases h : lo ≤ i ∧ i < hi + 1
  · simp [h]
  · simp only [h, decide_false, Bool.false_eq_true, if_false]

/-- A field reads as it was put. -/
theorem bits_putBits_self (x hi lo v : Nat) : bits (putBits x hi lo v) hi lo = v % 2 ^ (hi + 1 - lo) := by
  refine Nat.eq_of_testBit_eq fun i => ?_
  rw [testBit_bits, testBit_putBits, Nat.testBit_mod_two_pow]
  by_cases h : i < hi + 1 - lo
  · rw [if_pos (by omega), Nat.add_sub_cancel_left]
  · simp [h]

end Sys2Proof.Proofs
end

section
/-! Descriptor moves, hints, phases and fences (O10, O11). -/

namespace Sys2Proof.Proofs

open Sys2Proof Sys2Proof.Machine Sys2Proof.Laws

/-! ### Descriptor moves (R191) -/

/-- Word w of a descriptor is replaced, and no other. -/
theorem extract_putWord (d : Desc) (v : Word) {w j : Nat} (hj : j < 8) :
    (BitVec.ofNat 512 (putBits d.toNat (64 * w + 63) (64 * w) v.toNat)).extractLsb' (64 * j) 64 =
      if j = w then v else d.extractLsb' (64 * j) 64 := by
  refine BitVec.eq_of_getLsbD_eq fun i hi => ?_
  rw [BitVec.getLsbD_extractLsb', BitVec.getLsbD_ofNat, testBit_putBits]
  have hlt : 64 * j + i < 512 := by omega
  by_cases hjw : j = w
  · rw [if_pos hjw, if_pos (by omega), hjw, Nat.add_sub_cancel_left]
    subst hjw
    simp [hi, hlt, BitVec.getElem_eq_testBit_toNat]
  · rw [if_neg hjw, if_neg (by omega), BitVec.getLsbD_extractLsb']
    simp [hi, hlt, BitVec.getElem_eq_testBit_toNat]

theorem extract_word (d : Desc) (w : Nat) :
    BitVec.ofNat 64 (bits d.toNat (64 * w + 63) (64 * w)) = d.extractLsb' (64 * w) 64 := by
  refine BitVec.eq_of_getLsbD_eq fun i hi => ?_
  have hin : i < 64 * w + 63 + 1 - 64 * w := by omega
  rw [BitVec.getLsbD_ofNat, testBit_bits, BitVec.getLsbD_extractLsb', BitVec.getLsbD]
  simp [hi, hin]

theorem plain_dld : Op.plain Op.dld := by unfold Op.plain; decide
theorem plain_dsto : Op.plain Op.dsto := by unfold Op.plain; decide
theorem plain_dsetw : Op.plain Op.dsetw := by unfold Op.plain; decide
theorem plain_dgetw : Op.plain Op.dgetw := by unfold Op.plain; decide

section
variable {c : CellId} {s : State} {f : SForm} {x : LForm} {u : Upset}

theorem issue_dld (h : ReadyLong c s) (hf : sOnly f {} = true) (hx : lOnly x { a := true, dsel := true } = true)
    (hgood : (s.upsetCell c u).ocBad (64 * x.oc_a.toNat) 64 = false) :
    RetiresPosting commitCounters c s ((s.upsetCell c u).wrD x.dsel ((s.upsetCell c u).ocSlot x.oc_a.toNat))
      (nextPc (s.cell c).npc .dld) x (s.issue c { op := .dld, f, x, u }) := by
  have hmet : (s.carrying c { op := .dld, f, x, u }).ocUpset c u = s.setCell c (metCell c s { op := .dld, f, x, u }) :=
    ocUpset_metCell h.toReady plain_dld
  have hev : evalOp c ((s.cell c).entry { op := .dld, f, x, u }) (s.carrying c { op := .dld, f, x, u }) =
      .done (s.setCell c ((metCell c s { op := .dld, f, x, u }).wrD x.dsel
        ((s.upsetCell c u).ocSlot x.oc_a.toNat))) := by
    show evalDld c _ _ = _
    unfold evalDld
    simp only [entry_ins, hmet, hf, hx, cell_setCell_self, ocBad_metCell, ocSlot_metCell, hgood, setCell_setCell,
      Bool.not_true, Bool.or_self, Bool.false_eq_true, if_false]
  generalize (s.upsetCell c u).ocSlot x.oc_a.toNat = v at hev ⊢
  obtain ⟨t, ht, hi⟩ := issue_upset (i := { op := .dld, f, x, u }) (F := fun y => y.wrD x.dsel v) h.toReady
    (fetched_long h _) plain_dld hev rfl rfl id
  exact ⟨t, ht, hi⟩

/-- A long instruction that applies F to its cell, and to nothing that governs the sequencer, retires with that. -/
theorem issue_long_cell {i : Ins} {F : Cell → Cell} (h : ReadyLong c s) (hop : Op.plain i.op) (hlong : i.op.long = true)
    (hev : evalOp c ((s.cell c).entry i) (s.carrying c i) = .done ((s.carrying c i).modCell c F))
    (hF : ∀ x w (pc : Word), F { x with window := w, npc := pc, stuck := none } =
      { F x with window := w, npc := pc, stuck := none }) (hregs : ∀ x, (F x).regs = x.regs) :
    RetiresPosting commitCounters c s (F (s.cell c)) (nextPc (s.cell c).npc i.op) i.x (s.issue c i) := by
  obtain ⟨t, ht, hi⟩ := issue_cell (F := F) (post := true) h.toReady (fetched_long h _) hop
    (by rw [hev, State.modCell, cell_carrying, carrying_setCell]) (hF _ _ _)
    (by unfold Cell.reg; rw [hregs]) (by rw [hregs]; exact h.canon)
  refine ⟨t, ht, ?_⟩
  rw [hi, hlong]
  rfl

theorem issue_dsto (h : ReadyLong c s) (hf : sOnly f {} = true) (hx : lOnly x { a := true, dsel := true } = true) :
    RetiresPosting commitCounters c s
      ((s.cell c).ocWrite (64 * x.oc_a.toNat) (leBytes 64 ((s.cell c).rdD x.dsel).toNat))
      (nextPc (s.cell c).npc .dsto) x (s.issue c { op := .dsto, f, x, u }) := by
  refine issue_long_cell (i := { op := .dsto, f, x, u })
    (F := fun y => y.ocWrite (64 * x.oc_a.toNat) (leBytes 64 (y.rdD x.dsel).toNat)) h plain_dsto
    rfl ?_ (fun _ _ _ => rfl) (fun _ => rfl)
  show evalDsto c _ _ = _
  simp only [evalDsto, entry_ins, hf, hx, Bool.not_true, Bool.or_self, Bool.false_eq_true, if_false]

/-- Word ext of descriptor d[dsel] set from a register. -/
def setWord (f : SForm) (x : LForm) (y : Cell) : Desc :=
  BitVec.ofNat 512 (putBits (y.rdD x.dsel).toNat (64 * x.ext.toNat + 63) (64 * x.ext.toNat) (y.rdS f.ra).toNat)

theorem issue_dsetw (h : ReadyLong c s) (hf : sOnly f { ra := true } = true)
    (hx : lOnly x { dsel := true, ext := true } = true) (hw : x.ext.toNat < 8) :
    RetiresPosting commitCounters c s ((s.cell c).wrD x.dsel (setWord f x (s.cell c))) (nextPc (s.cell c).npc .dsetw) x
      (s.issue c { op := .dsetw, f, x, u }) := by
  refine issue_long_cell (i := { op := .dsetw, f, x, u }) (F := fun y => y.wrD x.dsel (setWord f x y)) h plain_dsetw
    rfl ?_ (fun _ _ _ => rfl)
    (fun _ => rfl)
  show evalDsetw c _ _ = _
  simp only [evalDsetw, entry_ins, hf, hx, Nat.not_le.mpr hw, decide_false, Bool.not_true, Bool.or_self,
    Bool.false_eq_true, if_false]
  rfl

theorem issue_dgetw (h : ReadyLong c s) (hf : sOnly f { rd := true } = true)
    (hx : lOnly x { dsel := true, ext := true } = true) (hw : x.ext.toNat < 8) :
    RetiresPosting commitCounters c s
      ((s.cell c).wrS f.rd (((s.cell c).rdD x.dsel).extractLsb' (64 * x.ext.toNat) 64))
      (nextPc (s.cell c).npc .dgetw) x (s.issue c { op := .dgetw, f, x, u }) := by
  obtain ⟨t, ht, hi⟩ := issue_rd (i := { op := .dgetw, f, x, u }) (rd := f.rd)
    (v := ((s.cell c).rdD x.dsel).extractLsb' (64 * x.ext.toNat) 64) h.toReady (fetched_long h _) plain_dgetw (by
      show evalDgetw c _ _ = _
      simp only [evalDgetw, entry_ins, hf, hx, Nat.not_le.mpr hw, cell_carrying, rdD_holding, extract_word,
        decide_false, Bool.not_true, Bool.or_self, Bool.false_eq_true, if_false])
  exact ⟨t, ht, hi⟩

end

/-- Settles O10. -/
theorem descriptorMoves : Obligations.DescriptorMoves := by
  unfold Obligations.DescriptorMoves
  intro c s f x u h y z w
  refine ⟨fun hf hx hgood => ⟨_, rfl, issue_dld h hf hx hgood⟩, fun hf hx => ⟨_, rfl, issue_dsto h hf hx⟩,
    fun hf hx hw => ⟨_, _, rfl, issue_dsetw h hf hx hw, fun j hj => ?_⟩,
    fun hf hx hw => ⟨_, rfl, issue_dgetw h hf hx hw⟩⟩
  exact extract_putWord _ _ hj

end Sys2Proof.Proofs
end

section
/-! What an access to memory leaves as it is: cells, streams, the Harvest and Parade engines, links, and the device's own
state. One lemma for each function of the memory path, in the order of the model. -/

namespace Sys2Proof.Proofs

open Sys2Proof Sys2Proof.Machine Sys2Proof.Laws

-- These many short proofs, elaborated side by side, would each hold a thread's stack.
set_option Elab.async false

/-- State t is s0 but for what an access to memory can write: the windows of slices, memory, registers of the floor die
other than RST_STATUS, the Almanac, the stacks' way out of self-refresh, what is sent to the host, and draws. -/
def MemOnly (s0 t : State) : Prop :=
  t = { s0 with slices := t.slices, mem := t.mem, fregs := t.fregs, alm := t.alm, pw := t.pw, hs := t.hs, free :=
    t.free } ∧ t.freg FR.RST_STATUS = s0.freg FR.RST_STATUS

variable {s0 s t : State} {α β : Type}

theorem memOnly_refl (s : State) : MemOnly s s := ⟨rfl, rfl⟩

theorem memOnly_cells (h : MemOnly s0 s) : s.cells = s0.cells := by rw [h.1]

theorem memOnly_trans (h : MemOnly s0 s) (e : MemOnly s t) : MemOnly s0 t := by
  refine ⟨?_, e.2.trans h.2⟩
  rw [e.1]
  dsimp only
  rw [h.1]

theorem memOnly_with (h : MemOnly s0 s) (e : MemOnly s t := by exact ⟨rfl, rfl⟩) : MemOnly s0 t := memOnly_trans h e

theorem memOnly_ite {c : Prop} [Decidable c] (h1 : c → MemOnly s0 s) (h2 : ¬ c → MemOnly s0 t) :
    MemOnly s0 (if c then s else t) := by
  split
  · exact h1 ‹_›
  · exact h2 ‹_›

theorem memOnly_ite_fst {c : Prop} [Decidable c] {x y : State × α} (h1 : c → MemOnly s0 x.1) (h2 : ¬ c → MemOnly s0
    y.1) :
    MemOnly s0 (if c then x else y).1 := by
  split
  · exact h1 ‹_›
  · exact h2 ‹_›

theorem memOnly_foldl {f : State → α → State} (l : List α) (h : MemOnly s0 s)
    (hf : ∀ s a, MemOnly s0 s → MemOnly s0 (f s a)) : MemOnly s0 (l.foldl f s) := foldl_keeps l h hf

theorem memOnly_foldl_fst {f : State × β → α → State × β} {b : State × β} (l : List α) (h : MemOnly s0 b.1)
    (hf : ∀ s b a, MemOnly s0 s → MemOnly s0 (f (s, b) a).1) : MemOnly s0 (l.foldl f b).1 :=
  foldl_keeps (P := fun (r : State × β) => MemOnly s0 r.1) l h (fun (r : State × β) a hr => hf r.1 r.2 a hr)

/-- The same of an optional state with more beside it. -/
def MemOpt (s0 : State) (r : Option (State × α)) : Prop := ∀ q, r = some q → MemOnly s0 q.1

theorem memOpt_some {x : State × α} (h : MemOnly s0 x.1) : MemOpt s0 (some x) := by intro q hq; cases hq; exact h
theorem memOpt_map {r : Option α} {f : α → State × β} (h : ∀ a, MemOnly s0 (f a).1) : MemOpt s0 (r.map f) := by
  intro q hq
  obtain ⟨a, -, rfl⟩ := Option.map_eq_some_iff.mp hq
  exact h a
theorem memOpt_ite {c : Prop} [Decidable c] {x y : Option (State × α)} (h1 : c → MemOpt s0 x) (h2 : ¬ c → MemOpt s0 y) :
    MemOpt s0 (if c then x else y) := by
  split
  · exact h1 ‹_›
  · exact h2 ‹_›
theorem memOnly_of_psome {r : Option (State × α)} {a : α} (q : r = some (s, a)) (h : MemOpt s0 r) : MemOnly s0 s :=
  h _ q

/-- The same of an access to physical memory. -/
def MemRes (s0 : State) (f : α → Prop) : MRes α → Prop
  | .ok v => f v
  | .wait s _ => MemOnly s0 s
  | .range => True

theorem memRes_ok {f : α → Prop} {v : α} (h : f v) : MemRes s0 f (.ok v) := h
theorem memRes_wait {f : α → Prop} (h : MemOnly s0 s) (w : Wait) : MemRes s0 f (.wait s w) := h
theorem memRes_range {f : α → Prop} : MemRes s0 f .range := trivial
theorem memRes_ite {f : α → Prop} {c : Prop} [Decidable c] {x y : MRes α} (h1 : c → MemRes s0 f x)
    (h2 : ¬ c → MemRes s0 f y) : MemRes s0 f (if c then x else y) := by
  split
  · exact h1 ‹_›
  · exact h2 ‹_›
theorem memRes_of_ok {f : α → Prop} {r : MRes α} {v : α} (q : r = .ok v) (h : MemRes s0 f r) : f v := by
  subst q; exact h
theorem memOnly_of_mok {r : MRes (State × α)} {v : α} (q : r = .ok (s, v)) (h : MemRes s0 (fun q => MemOnly s0 q.1) r) :
    MemOnly s0 s := by subst q; exact h
theorem memOnly_of_mwait {f : α → Prop} {r : MRes α} {w : Wait} (q : r = .wait s w) (h : MemRes s0 f r) : MemOnly s0
    s := by
  subst q; exact h

/-- The same of an access to the virtual space. -/
def MemAcc (s0 : State) : AccRes α → Prop
  | .ok s _ => MemOnly s0 s
  | .wait s _ => MemOnly s0 s
  | .fault s _ => MemOnly s0 s
  | .range s => MemOnly s0 s

theorem memAcc_ok (h : MemOnly s0 s) (v : α) : MemAcc s0 (.ok s v) := h
theorem memAcc_wait (h : MemOnly s0 s) (w : Wait) : MemAcc s0 (.wait s w : AccRes α) := h
theorem memAcc_fault (h : MemOnly s0 s) (r : Nat) : MemAcc s0 (.fault s r : AccRes α) := h
theorem memAcc_range (h : MemOnly s0 s) : MemAcc s0 (.range s : AccRes α) := h
theorem memOnly_of_aok {r : AccRes α} {v : α} (q : r = .ok s v) (h : MemAcc s0 r) : MemOnly s0 s := by subst q; exact h

/-! ### The functions of the memory path -/

theorem memOnly_setFreg (h : MemOnly s0 s) (a v : Nat) (ha : a ≠ FR.RST_STATUS := by decide) : MemOnly s0
    (s.setFreg a v) :=
  memOnly_with h ⟨rfl, freg_setFreg_other s v ha.symm⟩

/-- The registers of slices lie below RST_STATUS. -/
theorem sliceReg_ne (n : CellId) {b : Nat} (hb : b < 0x30002000000) : b + 4096 * n.val ≠ FR.RST_STATUS := by
  have hn := n.isLt
  show _ ≠ 0x30010090000
  omega

/-- So do the counters of the classes of error. -/
theorem errCls_ne {cls : Nat} (h : cls < 8) : FR.ERR_CLS_CNT cls ≠ FR.RST_STATUS := by
  show 0x30010070040 + 8 * cls ≠ 0x30010090000
  omega

theorem memOnly_setLine (h : MemOnly s0 s) {la : Nat} {l : Line} : MemOnly s0 (s.setLine la l) := memOnly_with h
theorem memOnly_hbmWrite (h : MemOnly s0 s) {pa : Nat} {bs : List PByte} : MemOnly s0 (s.hbmWrite pa bs) :=
    memOnly_with h
theorem memOnly_hostWrite (h : MemOnly s0 s) {ha : Nat} {bs : List PByte} : MemOnly s0 (s.hostWrite ha bs) :=
  memOnly_with h
theorem memOnly_setSlice (h : MemOnly s0 s) {n : CellId} {x : Slice} : MemOnly s0 (s.setSlice n x) := memOnly_with h

theorem memOnly_orFreg {s : State} (h : MemOnly s0 s) {a : Nat} {m : Nat} (ha : a ≠ FR.RST_STATUS := by decide) :
    MemOnly s0 (s.orFreg a m) :=
  memOnly_setFreg h _ _ ha

theorem memOnly_count {s : State} (h : MemOnly s0 s) {a : Nat} {n : Nat} (ha : a ≠ FR.RST_STATUS := by decide) :
    MemOnly s0 (s.count a n) :=
  memOnly_setFreg h _ _ ha

theorem memOnly_xlatFault {s : State} (h : MemOnly s0 s) {a : Access} {reason level : Nat} : MemOnly s0 (s.xlatFault a
    reason level) :=
  memOnly_ite (fun _ => (memOnly_ite (fun _ => memOnly_orFreg (memOnly_count h)) (fun _ => (memOnly_count h)))) (fun
    _ =>
    memOnly_setFreg (memOnly_setFreg (memOnly_ite (fun _ => memOnly_orFreg (memOnly_count h)) (fun _ =>
      (memOnly_count h))) _ _) _ _)

theorem memOnly_requestExit {s : State} (h : MemOnly s0 s) {i : Nat} : MemOnly s0 (s.requestExit i) :=
  memOnly_ite (fun _ => h) (fun _ => memOnly_ite (fun _ => memOnly_with h) (fun _ => memOnly_count (memOnly_with h)))

theorem memOnly_recall {s : State} (h : MemOnly s0 s) {la : Nat} {write : Bool} : MemOnly s0 (s.recall la write) :=
  memOnly_foldl _ h (fun _ _ h1 => memOnly_ite (fun _ => h1) (fun _ => memOnly_count (memOnly_with h1)))

theorem memOnly_sendMsi {s : State} (h : MemOnly s0 s) {v : Nat} : MemOnly s0 (s.sendMsi v) :=
  memOnly_ite (fun _ => h) (fun _ => memOnly_ite (fun _ => memOnly_with h) (fun _ => memOnly_with h))

theorem memOnly_hostEvent {s : State} (h : MemOnly s0 s) {bit : Nat} : MemOnly s0 (s.hostEvent bit) :=
  memOnly_ite (fun _ => memOnly_sendMsi (memOnly_orFreg h)) (fun _ => (memOnly_orFreg h))

theorem memOnly_modLine {s : State} (h : MemOnly s0 s) {la : Nat} {f : Line → Line} : MemOnly s0 (s.modLine la f) :=
  memOnly_setLine h

theorem memOnly_used {s : State} (h : MemOnly s0 s) {la : Nat} {l : Line} : MemOnly s0 (s.used la l) :=
  memOnly_setLine (memOnly_with h)

theorem memOnly_rawWrite {s : State} (h : MemOnly s0 s) {pa : Nat} {bs : List PByte} : MemOnly s0 (s.rawWrite pa bs)
    := by
  unfold State.rawWrite
  split
  · exact memOnly_hbmWrite h
  · exact memOnly_hostWrite h
  · exact h

theorem memOnly_dropLine {s : State} (h : MemOnly s0 s) {la : Nat} : MemOnly s0 (s.dropLine la) :=
  memOnly_setLine (memOnly_ite (fun _ => memOnly_rawWrite h) (fun _ => h))

theorem memOnly_evictHome {s : State} (h : MemOnly s0 s) {la : Nat} : MemOnly s0 (s.evictHome la) :=
  memOnly_ite (fun _ => memOnly_setLine (memOnly_recall h)) (fun _ => memOnly_dropLine (memOnly_recall h))

theorem memOnly_roomFor {n : Nat} {c : CellId} {n1 : Nat} {l : List Nat} {a : Option (Nat × Nat × Nat)} {n2 : Nat}
    {s : State} (h : MemOnly s0 s) : MemOnly s0 (State.roomFor n c n1 l a n2 s).1 := by
  induction n generalizing c n1 l a n2 s with
  | zero =>
    unfold State.roomFor
    exact h
  | succ n ih =>
    unfold State.roomFor
    dsimp only
    split
    · exact h
    · split
      · exact h
      · exact memOnly_ite_fst (fun _ => memOnly_ite_fst (fun _ => ih (memOnly_setLine (ih h))) (fun _ => ih
          (memOnly_setLine
          h))) (fun _ => ih (memOnly_evictHome h))

theorem memOnly_place {s : State} (h : MemOnly s0 s) {la : Nat} {l : Line} : MemOnly s0 (s.place la l) :=
  memOnly_used (memOnly_roomFor h)

theorem memOnly_countBypass {s : State} (h : MemOnly s0 s) {n : CellId} {layer : Nat} : MemOnly s0 (s.countBypass n
    layer) :=
  memOnly_ite (fun _ => memOnly_count h (sliceReg_ne n (by decide))) (fun _ => h)

theorem memOnly_viaPath {s : State} (h : MemOnly s0 s) {n : CellId} {w : Nat} : MemOnly s0 (s.viaPath n w) :=
  memOnly_ite (fun _ => h) (fun _ => memOnly_countBypass h)

theorem memOnly_homePath {s : State} (h : MemOnly s0 s) {la : Nat} : MemOnly s0 (s.homePath la) :=
  memOnly_viaPath h

theorem memOnly_applyContrib {s : State} (h : MemOnly s0 s) {la : Nat} {k : Contrib} : MemOnly s0 (s.applyContrib la
    k) := by
  unfold State.applyContrib
  extract_lets n l r bad s1 s2 s3 s4 s5
  have hne {b : Nat} (hb : b < 0x30002000000) := sliceReg_ne n hb
  have hs2 : MemOnly s0 s2 := memOnly_count (memOnly_place h) (hne (by decide))
  have hs4 : MemOnly s0 s4 := memOnly_count (memOnly_count hs2 (hne (by decide))) (hne (by decide))
  have hs5 : MemOnly s0 s5 := memOnly_count hs4 (hne (by decide))
  exact memOnly_ite (fun _ => hs5) (fun _ => memOnly_orFreg hs5 (hne (by decide)))

theorem memOnly_applyHeld {n n1 : Nat} {s : State} (h : MemOnly s0 s) : MemOnly s0 (State.applyHeld n n1 s) := by
  induction n generalizing n1 s with
  | zero =>
    unfold State.applyHeld
    exact h
  | succ n ih =>
    unfold State.applyHeld
    split
    · exact h
    · exact ih (memOnly_applyContrib (memOnly_modLine h))

theorem memOnly_drain {s : State} (h : MemOnly s0 s) {la : Nat} : MemOnly s0 (s.drain la) :=
  memOnly_ite (fun _ => memOnly_modLine (memOnly_applyHeld h)) (fun _ => (memOnly_applyHeld h))

theorem memOnly_putNow {s : State} (h : MemOnly s0 s) {pa : Nat} {bs : List PByte} : MemOnly s0 (s.putNow pa bs) :=
  memOnly_foldl_fst _ h (fun _ _ _ h1 => memOnly_ite (fun _ => memOnly_rawWrite h1) (fun _ => memOnly_ite (fun _ =>
    memOnly_modLine
    h1) (fun _ => memOnly_homePath (memOnly_place (memOnly_drain h1)))))

theorem memOnly_wakeFor {s : State} (h : MemOnly s0 s) {la : Nat} : MemOnly s0 (s.wakeFor la) := by
  unfold State.wakeFor
  split
  · exact memOnly_requestExit h
  · exact h

theorem memOnly_recallAll {s : State} (h : MemOnly s0 s) {ps : List (Nat × Nat × Nat)} {write : Bool} : MemOnly s0
    (s.recallAll ps write) :=
  memOnly_foldl _ h (fun _ _ h1 => memOnly_recall h1)

theorem memOnly_putLatest {s : State} (h : MemOnly s0 s) {pa : Nat} {bs : List PByte} : MemOnly s0 (s.putLatest pa
    bs) :=
  memOnly_ite (fun _ => memOnly_with (memOnly_foldl _ (memOnly_recallAll h) (fun _ _ h2 => memOnly_ite (fun _ =>
    memOnly_wakeFor
    h2) (fun _ => h2)))) (fun _ => memOnly_putNow h)

theorem memOnly_pageRequest {s : State} (h : MemOnly s0 s) {a : Access} {level : Nat} : MemOnly s0 (s.pageRequest a
    level).1 := by
  unfold State.pageRequest
  extract_lets +onlyGivenNames _
  split
  · exact h
  · refine memOnly_ite_fst (fun _ => h) (fun _ => ?_)
    extract_lets +onlyGivenNames _ _ _ s1 _ _ s3 s4 s5
    have hs1 : MemOnly s0 s1 := memOnly_putLatest h
    have hs3 : MemOnly s0 s3 := memOnly_with hs1
    have hs4 : MemOnly s0 s4 := memOnly_setFreg hs3 _ _
    have hs5 : MemOnly s0 s5 := memOnly_hostEvent (memOnly_count hs4)
    exact hs5

theorem memOnly_atsCheck {s : State} (h : MemOnly s0 s) {a : Access} {p1 : Phys} {ha level : Nat} : MemOnly s0
    (s.atsCheck a p1 ha level).1 := by
  unfold State.atsCheck
  extract_lets +onlyGivenNames _
  split
  · exact memOnly_ite_fst (fun _ => h) (fun _ => memOnly_ite_fst (fun _ => memOnly_xlatFault (memOnly_with h)) (fun _ =>
      memOnly_with h))
  · exact memOnly_ite_fst (fun _ => memOnly_xlatFault (memOnly_with h)) (fun _ => memOnly_ite_fst (fun _ => h) (fun _ =>
      memOnly_with h))

theorem memOnly_leafAccess {s : State} (h : MemOnly s0 s) {a : Access} {pte size level : Nat} : MemOnly s0
    (s.leafAccess a pte size level).1 := by
  unfold State.leafAccess
  refine memOnly_ite_fst (fun _ => memOnly_xlatFault h) (fun _ => ?_)
  extract_lets +onlyGivenNames _
  split
  · exact memOnly_ite_fst (fun _ => memOnly_atsCheck h) (fun _ => memOnly_xlatFault h)
  · exact h

theorem memOnly_translate {s : State} (h : MemOnly s0 s) {a : Access} : MemOnly s0 (s.translate a).1 := by
  unfold State.translate
  refine memOnly_ite_fst (fun _ => memOnly_xlatFault h) (fun _ => ?_)
  refine memOnly_ite_fst (fun _ => ?_) (fun _ => ?_)
  · split
    · exact memOnly_ite_fst (fun _ => h) (fun _ => memOnly_xlatFault h)
    · exact memOnly_xlatFault h
  · refine memOnly_ite_fst (fun _ => memOnly_xlatFault h) (fun _ => ?_)
    split
    · exact memOnly_leafAccess h
    · extract_lets +onlyGivenNames s1
      have hs1 : MemOnly s0 s1 := memOnly_count h
      split
      · exact memOnly_leafAccess hs1
      · exact memOnly_xlatFault hs1
      · exact memOnly_requestExit hs1
      · exact memOnly_recall hs1
      · refine memOnly_ite_fst (fun _ => ?_) (fun _ => memOnly_xlatFault hs1)
        extract_lets +onlyGivenNames r
        have hr : MemOnly s0 r.1 := memOnly_pageRequest hs1
        exact hr

theorem memOnly_draw {s : State} (h : MemOnly s0 s) : MemOnly s0 s.draw :=
  memOnly_with h

theorem memOpt_rawWait {s : State} (h : MemOnly s0 s) {pa : Nat} {n : Nat} {write : Bool} : MemOpt s0 (s.rawWait
    pa n write) :=
  memOpt_ite (fun _ => memOpt_some (memOnly_recallAll h)) (fun _ => memOpt_map (fun _ => memOnly_requestExit h))

theorem memOnly_stallF {s : State} (h : MemOnly s0 s) {a : Nat} (ha : a ≠ FR.RST_STATUS := by decide) : MemOnly s0
    (s.stallF a) :=
  memOnly_draw (memOnly_count h ha)

theorem memOpt_linesWait {s : State} (h : MemOnly s0 s) {ps : List (Nat × Nat × Nat)} {write : Bool} {c : Option
    CellId} : MemOpt s0 (s.linesWait ps write c) := by
  unfold State.linesWait
  refine memOpt_ite (fun _ => memOpt_some (memOnly_foldl _ (memOnly_recallAll h) (fun _ _ h2 => memOnly_ite (fun _ =>
    memOnly_stallF h2 (sliceReg_ne _ (by decide))) (fun _ => h2)))) (fun _ => ?_)
  split
  · exact memOpt_some (memOnly_stallF h (sliceReg_ne _ (by decide)))
  · exact memOpt_ite (fun _ => memOpt_some h) (fun _ => memOpt_map (fun _ => memOnly_requestExit h))

theorem memOnly_storeRec {s : State} (h : MemOnly s0 s) {r : AlmRec} : MemOnly s0 (s.storeRec r) :=
  memOnly_ite (fun _ => memOnly_orFreg (memOnly_count (memOnly_with h))) (fun _ => (memOnly_with h))

theorem memOnly_storeSevere {s : State} (h : MemOnly s0 s) {r : AlmRec} : MemOnly s0 (s.storeSevere r) :=
  memOnly_ite (fun _ => memOnly_ite (fun _ => memOnly_with h) (fun _ => memOnly_count h)) (fun _ => h)

theorem memOnly_logEvent {s : State} (h : MemOnly s0 s) {code : Nat} {index cls addr info0 info1 : Nat}
    (hc : cls < 8 := by decide) : MemOnly s0 (s.logEvent code index cls addr info0 info1) := by
  unfold State.logEvent
  extract_lets +onlyGivenNames _ _ s1 _ s3 _
  have hs1 : MemOnly s0 s1 := memOnly_count h (errCls_ne hc)
  have hs3 : MemOnly s0 s3 := memOnly_with hs1
  refine memOnly_ite (fun _ => memOnly_count hs3) (fun _ => ?_)
  extract_lets +onlyGivenNames _ _ s5 s6 _ _ s8
  have hs5 : MemOnly s0 s5 := memOnly_ite (fun _ => memOnly_with hs3) (fun _ => hs3)
  have hs6 : MemOnly s0 s6 := memOnly_storeSevere (memOnly_storeRec hs5)
  have hs8 : MemOnly s0 s8 := memOnly_ite (fun _ => memOnly_with hs6) (fun _ => hs6)
  exact memOnly_ite (fun _ => memOnly_hostEvent hs8) (fun _ => hs8)

theorem memOnly_checkTile {s : State} (h : MemOnly s0 s) {t : Nat} : MemOnly s0 (s.checkTile t) :=
  memOnly_ite (fun _ => memOnly_logEvent (memOnly_count h)) (fun _ => h)

theorem memOnly_countHit {s : State} (h : MemOnly s0 s) {n : CellId} {cls : Fin 8} {hit : Bool} : MemOnly s0
    (s.countHit n cls hit) := by
  have hn := n.isLt
  have hcls := cls.isLt
  refine memOnly_count h ?_
  split
  · show 0x30001100040 + 4096 * n.val + 8 * cls.val ≠ 0x30010090000
    omega
  · show 0x30001100080 + 4096 * n.val + 8 * cls.val ≠ 0x30010090000
    omega

theorem memOnly_fillOne {s : State} (h : MemOnly s0 s) {la : Nat} {cls : Fin 8} {bad : Bool} : MemOnly s0 (s.fillOne la
    cls bad) :=
  memOnly_ite (fun _ => h) (fun _ => memOnly_place h)

theorem memOnly_fill {s : State} (h : MemOnly s0 s) {la : Nat} {cls : Fin 8} {tck : Bool} : MemOnly s0 (s.fill la cls
    tck) := by
  unfold State.fill
  refine memOnly_ite (fun _ => memOnly_foldl _ (memOnly_checkTile h) (fun _ _ h2 => memOnly_ite (fun _ =>
    memOnly_fillOne h2) (fun
    _ => h2))) (fun _ => ?_)
  split
  · exact memOnly_draw (memOnly_fillOne h)
  · exact memOnly_fillOne h

theorem memOnly_bringHome {s : State} (h : MemOnly s0 s) {la : Nat} : MemOnly s0 (s.bringHome la) :=
  memOnly_ite (fun _ => memOnly_place h) (fun _ => h)

theorem memOnly_homeArrive {s : State} (h : MemOnly s0 s) {la : Nat} {cls : Fin 8} {tck whole : Bool} : MemOnly s0
    (s.homeArrive la cls tck whole) :=
  memOnly_homePath (memOnly_ite (fun _ => memOnly_ite (fun _ => memOnly_place (memOnly_countHit h)) (fun _ =>
    memOnly_fill
    (memOnly_countHit h))) (fun _ => memOnly_bringHome (memOnly_drain (memOnly_countHit h))))

theorem memOnly_homeRead {s : State} (h : MemOnly s0 s) {la : Nat} {off n : Nat} {cls : Fin 8} {tck : Bool} :
    MemOnly s0 (s.homeRead la off n cls tck).1 :=
  memOnly_used (memOnly_homeArrive h)

theorem memOnly_usedNear {s : State} (h : MemOnly s0 s) {c : CellId} {la : Nat} : MemOnly s0 (s.usedNear c la) := by
  unfold State.usedNear
  exact memOnly_modLine (memOnly_with h)

theorem memOnly_placeNear {s : State} (h : MemOnly s0 s) {c : CellId} {la : Nat} : MemOnly s0 (s.placeNear c la) :=
  memOnly_viaPath (memOnly_modLine (memOnly_with (memOnly_roomFor h)))

theorem memOnly_cohRead {s : State} (h : MemOnly s0 s) {c : CellId} {la off n : Nat} {tck : Bool} : MemOnly s0
    (s.cohRead c la off n tck).1 := by
  unfold State.cohRead
  refine memOnly_ite_fst (fun _ => memOnly_used (memOnly_homeArrive h)) (fun _ => ?_)
  split
  · exact memOnly_usedNear (memOnly_viaPath (memOnly_countHit h))
  · exact memOnly_placeNear (memOnly_used (memOnly_homeArrive h))

theorem memRes_winCheck {s : State} (h : MemOnly s0 s) {n : CellId} {off len : Nat} : MemRes s0 (fun _ => True)
    (s.winCheck n off len) := by
  unfold State.winCheck
  split
  · exact memRes_ite (fun _ => memRes_ok trivial) (fun _ => memRes_range)
  · exact memRes_ite (fun _ => memRes_ok trivial) (fun _ => memRes_ite (fun _ => memRes_wait h _) (fun _ =>
      memRes_range))

theorem memRes_physRead {s : State} (h : MemOnly s0 s) {ag : Agent} {p1 : Phys} {n : Nat} {cls : Fin 8} : MemRes s0
    (fun q => MemOnly s0 q.1) (s.physRead ag p1 n cls) := by
  unfold State.physRead
  refine memRes_ite (fun _ => ?_) (fun _ => ?_)
  · extract_lets +onlyGivenNames _
    split
    · next q => exact memRes_wait (memOnly_of_psome q (memOpt_linesWait h)) _
    · refine memRes_ok ?_
      refine memOnly_foldl_fst _ h (fun _ _ _ h2 => ?_)
      extract_lets +onlyGivenNames r'
      have hr' : MemOnly s0 r'.1 := by
        unfold r'
        dsimp -zeta only
        split
        · exact memOnly_cohRead h2
        · exact memOnly_homeRead h2
      exact hr'
  · split
    · split
      · exact memRes_ok (memOnly_countBypass h)
      · next q1 => exact memRes_wait (memOnly_of_mwait q1 (memRes_winCheck h)) _
      · exact memRes_range
    · split
      · next q1 => exact memRes_wait (memOnly_of_psome q1 (memOpt_rawWait h)) _
      · extract_lets +onlyGivenNames _
        refine memRes_ite (fun _ => ?_) (fun _ => memRes_ok h)
        extract_lets +onlyGivenNames _ _ _
        exact memRes_ok (memOnly_foldl _ h (fun _ _ h3 => memOnly_checkTile h3))
    · exact memRes_ok (memOnly_draw h)
    · exact memRes_ok h

theorem memOnly_modSlice {s : State} (h : MemOnly s0 s) {n : CellId} {f : Slice → Slice} : MemOnly s0 (s.modSlice n
    f) :=
  memOnly_setSlice h

theorem memOnly_winWrite {s : State} (h : MemOnly s0 s) {n : CellId} {off : Nat} {bs : List PByte} : MemOnly s0
    (s.winWrite n off bs) :=
  memOnly_modSlice h

theorem memOnly_homeWrite {s : State} (h : MemOnly s0 s) {a : Agent} {la off : Nat} {bs : List PByte} {cls : Fin 8}
    {tck : Bool} : MemOnly s0 (s.homeWrite a la off bs cls tck) :=
  memOnly_place (memOnly_homeArrive h)

theorem memOnly_cohWrite {s : State} (h : MemOnly s0 s) {c : CellId} {la off : Nat} {bs : List PByte} {tck : Bool} :
    MemOnly s0 (s.cohWrite c la off bs tck) := by
  unfold State.cohWrite
  refine memOnly_ite (fun _ => memOnly_place (memOnly_homeArrive h)) (fun _ => ?_)
  dsimp only
  refine memOnly_placeNear ?_
  refine memOnly_setLine ?_
  split
  · exact memOnly_viaPath (memOnly_countHit h)
  · exact memOnly_used (memOnly_homeArrive h)

theorem memRes_physWrite {s : State} (h : MemOnly s0 s) {ag : Agent} {p1 : Phys} {bs : List PByte} {cls : Fin 8} :
    MemRes s0 (MemOnly s0) (s.physWrite ag p1 bs cls) := by
  unfold State.physWrite
  refine memRes_ite (fun _ => ?_) (fun _ => ?_)
  · extract_lets +onlyGivenNames _
    split
    · next q => exact memRes_wait (memOnly_of_psome q (memOpt_linesWait h)) _
    · refine memRes_ok ?_
      refine memOnly_foldl_fst _ h (fun _ _ _ h2 => ?_)
      extract_lets +onlyGivenNames _ s'
      have hs' : MemOnly s0 s' := by
        unfold s'
        split
        · exact memOnly_cohWrite h2
        · exact memOnly_homeWrite h2
      exact hs'
  · split
    · split
      · exact memRes_ok (memOnly_winWrite (memOnly_countBypass h))
      · next q1 => exact memRes_wait (memOnly_of_mwait q1 (memRes_winCheck h)) _
      · exact memRes_range
    · split
      · next q1 => exact memRes_wait (memOnly_of_psome q1 (memOpt_rawWait h)) _
      · exact memRes_ok (memOnly_hbmWrite h)
    · exact memRes_ok (memOnly_hostWrite h)
    · exact memRes_ok h

theorem memOnly_warmLine {s : State} (h : MemOnly s0 s) {pa : Nat} {tck : Bool} : MemOnly s0 (s.warmLine pa tck) :=
  memOnly_ite (fun _ => memOnly_fill h) (fun _ => h)

theorem memOnly_winEcc {s : State} (h : MemOnly s0 s) {e : WinEcc} : MemOnly s0 (s.winEcc e) :=
  have hcorr := memOnly_count (n := b2n e.corrected) h (sliceReg_ne e.slice (b := 0x30001100130) (by decide))
  memOnly_ite (fun _ => hcorr) (fun _ => memOnly_logEvent (memOnly_count (memOnly_modSlice hcorr) (sliceReg_ne _
    (by decide))))

theorem memOnly_hbmUncorrectable {s : State} (h : MemOnly s0 s) {blk : Nat} : MemOnly s0 (s.hbmUncorrectable blk) := by
  unfold State.hbmUncorrectable
  exact memOnly_logEvent (memOnly_ite (fun _ => (memOnly_count (memOnly_with h))) (fun _ => memOnly_setFreg
    (memOnly_count
    (memOnly_with h)) _ _))

theorem memOnly_hbmEcc {s : State} (h : MemOnly s0 s) {e : HbmEcc} : MemOnly s0 (s.hbmEcc e) :=
  memOnly_foldl _ (memOnly_count h) (fun _ _ h1 => memOnly_hbmUncorrectable h1)

theorem memOnly_frameEccAt {s : State} (h : MemOnly s0 s) {n : CellId} {la : Nat} {e : FrameEcc} : MemOnly s0
    (s.frameEccAt n la e) :=
  have hcorr := memOnly_count (n := b2n e.corrected) h (sliceReg_ne n (b := 0x30001100130) (by decide))
  memOnly_ite (fun _ => hcorr) (fun _ => memOnly_logEvent (memOnly_count (memOnly_modLine hcorr) (sliceReg_ne n
    (by decide))))

theorem memOnly_frameEcc {s : State} (h : MemOnly s0 s) {la : Nat} {e : FrameEcc} : MemOnly s0 (s.frameEcc la e) :=
  memOnly_frameEccAt h

theorem memOnly_memUpset {s : State} (h : MemOnly s0 s) {e : MemUpset} : MemOnly s0 (s.memUpset e) :=
  memOnly_ite (fun _ => h) (fun _ => memOnly_foldl _ (memOnly_foldl _ (memOnly_hbmEcc h) (fun _ _ h2 =>
    memOnly_frameEcc h2)) (fun
    _ _ h2 => memOnly_winEcc h2))

theorem memAcc_vread {s : State} (h : MemOnly s0 s) {a : Access} {n : Nat} {cls : Fin 8} : MemAcc s0
    (s.vread a n cls) := by
  unfold State.vread
  extract_lets +onlyGivenNames t
  have ht : MemOnly s0 t.1 := memOnly_translate h
  split
  · exact memAcc_fault ht _
  · exact memAcc_wait ht _
  · split
    · exact memAcc_ok (memOnly_countBypass ht) _
    · next q1 => exact memAcc_wait (memOnly_of_mwait q1 (memRes_winCheck ht)) _
    · exact memAcc_range ht
  · split
    · next q1 => exact memAcc_ok (memOnly_of_mok q1 (memRes_physRead ht)) _
    · next q1 => exact memAcc_wait (memOnly_of_mwait q1 (memRes_physRead ht)) _
    · exact memAcc_range ht

theorem memAcc_vwrite {s : State} (h : MemOnly s0 s) {a : Access} {bs : List PByte} {cls : Fin 8} :
    MemAcc s0 (s.vwrite a bs cls) := by
  unfold State.vwrite
  extract_lets +onlyGivenNames t
  have ht : MemOnly s0 t.1 := memOnly_translate h
  split
  · exact memAcc_fault ht _
  · exact memAcc_wait ht _
  · split
    · exact memAcc_ok (memOnly_winWrite (memOnly_countBypass ht)) _
    · next q1 => exact memAcc_wait (memOnly_of_mwait q1 (memRes_winCheck ht)) _
    · exact memAcc_range ht
  · split
    · next q1 => exact memAcc_ok (memRes_of_ok q1 (memRes_physWrite ht)) _
    · next q1 => exact memAcc_wait (memOnly_of_mwait q1 (memRes_physWrite ht)) _
    · exact memAcc_range ht

theorem memOnly_warm {s : State} (h : MemOnly s0 s) {va : Nat} : MemOnly s0 (s.warm va) := by
  unfold State.warm
  refine memOnly_ite (fun _ => h) (fun _ => ?_)
  extract_lets +onlyGivenNames src r
  have hr : MemOnly s0 r.1 := by
    unfold r
    split
    · exact h
    · split
      · exact memOnly_count (memOnly_with h)
      · exact memOnly_count h
  clear_value r
  dsimp only
  split
  · exact hr
  · refine memOnly_ite (fun _ => hr) (fun _ => ?_)
    split
    · exact memOnly_warmLine hr
    · split
      · exact memOnly_ite (fun _ => memOnly_warmLine hr) (fun _ => hr)
      · exact hr
    · exact hr

end Sys2Proof.Proofs
end

section
/-! Hints, phases and fences (O11), and loads and stores of coherent space (O9). -/

namespace Sys2Proof.Proofs

open Sys2Proof Sys2Proof.Machine Sys2Proof.Laws

/-! ### Hints, phases and fences (R191) -/

theorem plain_nop : Op.plain Op.nop := by unfold Op.plain; decide
theorem plain_isync : Op.plain Op.isync := by unfold Op.plain; decide
theorem plain_phase : Op.plain Op.phase := by unfold Op.plain; decide
theorem plain_fence : Op.plain Op.fence := by unfold Op.plain; decide

section
variable {c : CellId} {s : State} {f : SForm}

/-- A short instruction that applies F to its cell, and to nothing that governs the sequencer, retires with that. -/
theorem issue_short_cell {i : Ins} {F : Cell → Cell} (h : Ready c s) (hop : Op.plain i.op) (hlong : i.op.long = false)
    (hev : evalOp c ((s.cell c).entry i) (s.carrying c i) = .done ((s.carrying c i).modCell c F))
    (hF : ∀ x w (pc : Word), F { x with window := w, npc := pc, stuck := none } =
      { F x with window := w, npc := pc, stuck := none })
    (hctrl : (F (s.cell c)).reg CR.SQ_CTRL = (s.cell c).reg CR.SQ_CTRL)
    (hw : SMap.wf cellResetVal (F (s.cell c)).regs = true) :
    Retires commitCounters c s (F (s.cell c)) (nextPc (s.cell c).npc i.op) (s.issue c i) := by
  obtain ⟨t, ht, hi⟩ := issue_cell (F := F) (post := true) h (fetched_short h hlong) hop
    (by rw [hev, State.modCell, cell_carrying, carrying_setCell]) (hF _ _ _) hctrl hw
  rw [hi, hlong]
  exact ht

/-- A short instruction that changes nothing retires. -/
theorem issue_short_id {i : Ins} (h : Ready c s) (hop : Op.plain i.op) (hlong : i.op.long = false)
    (hev : evalOp c ((s.cell c).entry i) (s.carrying c i) = .done (s.carrying c i)) :
    Retires commitCounters c s (s.cell c) (nextPc (s.cell c).npc i.op) (s.issue c i) := by
  refine issue_short_cell (F := id) h hop hlong ?_ (fun _ _ _ => rfl) rfl h.canon
  rw [hev]
  exact congrArg (fun t => Eval.done t) (setCell_cell _ _).symm

theorem issue_nop (h : Ready c s) (hf : sOnly f {} = true) :
    Retires commitCounters c s (s.cell c) (nextPc (s.cell c).npc .nop) (s.issue c { op := .nop, f }) := by
  refine issue_short_id h plain_nop rfl ?_
  show evalNop c _ _ = _
  simp only [evalNop, entry_ins, hf, Bool.not_true, Bool.false_eq_true, if_false]

theorem issue_isync (h : Ready c s) (hf : sOnly f {} = true) :
    Retires commitCounters c s (s.cell c) (nextPc (s.cell c).npc .isync) (s.issue c { op := .isync, f }) := by
  refine issue_short_id h plain_isync rfl ?_
  show evalIsync c _ _ = _
  simp only [evalIsync, entry_ins, hf, Bool.not_true, Bool.false_eq_true, if_false]

/-- The low bit of a phase mark's half of SQ_PHASE. -/
def phaseLow (f : SForm) : Nat := if f.func = 0 then 0 else 16

theorem issue_phase (h : Ready c s) (hf : sOnly f { imm := true, func := true } = true) (hfunc : f.func.toNat < 2)
    (himm : f.imm32.toNat < 2 ^ 16) :
    Retires commitCounters c s ((s.cell c).setReg CR.SQ_PHASE
        (putBits ((s.cell c).reg CR.SQ_PHASE) (phaseLow f + 15) (phaseLow f) f.imm32.toNat))
      (nextPc (s.cell c).npc .phase) (s.issue c { op := .phase, f }) := by
  refine issue_short_cell (i := { op := .phase, f }) (F := fun x => x.setReg CR.SQ_PHASE
    (putBits (x.reg CR.SQ_PHASE) (phaseLow f + 15) (phaseLow f) f.imm32.toNat)) h plain_phase rfl ?_
    (fun _ _ _ => rfl) (reg_setReg_other _ _ (by decide)) (wf_setReg _ _ _ h.canon)
  show evalPhase c _ _ = _
  simp only [evalPhase, entry_ins, hf, Nat.not_le.mpr hfunc, Nat.not_le.mpr himm, decide_false, Bool.not_true,
    Bool.or_self, Bool.false_eq_true, if_false]
  rfl

theorem firstFailed_none {x : Cell} (h : ∀ n, x.slot n = none) : x.firstFailed = none := by
  unfold Cell.firstFailed
  rw [List.findSome?_eq_none_iff]
  intro n _
  rw [h n]

theorem streaming_none {x : Cell} (h : ∀ n, x.slot n = none) : x.streaming = false := by
  unfold Cell.streaming
  rw [List.any_eq_false]
  intro n _
  simp [h n]

theorem issue_fence (h : Ready c s) (hf : sOnly f {} = true) (hslots : ∀ n, (s.cell c).slot n = none) :
    Retires commitCounters c s (s.cell c) (nextPc (s.cell c).npc .fence) (s.issue c { op := .fence, f }) := by
  refine issue_short_id h plain_fence rfl ?_
  have hfunc : f.func = 0 := by
    simp only [sOnly, Bool.and_eq_true, Bool.false_or, beq_iff_eq] at hf
    exact hf.1.1.1.2
  have hf' : sOnly f { func := true } = true := by
    simp only [sOnly, Bool.and_eq_true, Bool.false_or, beq_iff_eq, Bool.true_or] at hf ⊢
    exact ⟨⟨⟨⟨hf.1.1.1.1, trivial⟩, hf.1.1.2⟩, hf.1.2⟩, hf.2⟩
  have hslots' : ∀ n, ((s.cell c).holding { op := .fence, f }).slot n = none := hslots
  show evalFence c _ _ = _
  simp only [evalFence, entry_ins, cell_carrying, hf', hfunc, firstFailed_none hslots', streaming_none hslots',
    Bool.not_true, Bool.false_eq_true, if_false, if_true]
  rfl

theorem issue_fenceE (h : Ready c s) (hf : sOnly f { func := true } = true) (hfunc : f.func = 1) :
    Retires commitCounters c s (s.cell c) (nextPc (s.cell c).npc .fence) (s.issue c { op := .fence, f }) := by
  refine issue_short_id h plain_fence rfl ?_
  show evalFence c _ _ = _
  simp only [evalFence, entry_ins, hf, hfunc, Bool.not_true]
  rfl

end

/-! ### Instructions that access memory -/

section
variable {c : CellId} {s s1 : State} {i : Ins}

/-- A cell after its memory access: the one that carries out i, whose upset of memory may have been met, and which may
have counted. -/
structure Accessed (c : CellId) (s : State) (i : Ins) (x : Cell) : Prop where
  frame : x = { (s.cell c).holding i with window := x.window, regs := x.regs }
  window : ∃ e : InFlight, x.window = [e] ∧ e.pc = (s.cell c).npc ∧ e.ins.op = i.op ∧ e.ins.x = i.x ∧
    e.next = ((s.cell c).entry i).next ∧ e.waited = none
  ctrl : x.reg CR.SQ_CTRL = (s.cell c).reg CR.SQ_CTRL
  canon : SMap.wf cellResetVal x.regs = true

theorem accessed_carrying (h : Ready c s) (i : Ins) : Accessed c s i ((s.carrying c i).cell c) := by
  rw [cell_carrying]
  exact ⟨rfl, ⟨_, rfl, rfl, rfl, rfl, rfl, entry_waited h i⟩, rfl, h.canon⟩

theorem memOnly_cell {s t : State} (h : MemOnly s t) (c : CellId) : t.cell c = s.cell c := by
  unfold State.cell; rw [memOnly_cells h]

theorem accessed_readUpset (h : Ready c s) (i : Ins) (u : Upset) :
    Accessed c s i (((s.carrying c i).readUpset c u).cell c) := by
  unfold State.readUpset
  split
  · exact accessed_carrying h i
  · rw [cell_modCell_self, memOnly_cell (memOnly_memUpset (memOnly_refl _)) c, cell_carrying]
    exact ⟨rfl, ⟨_, rfl, rfl, rfl, rfl, rfl, entry_waited h i⟩, rfl, h.canon⟩

theorem accessed_of_memOnly {t : State} (h : Accessed c s i (t.cell c)) (ht : MemOnly t s1) :
    Accessed c s i (s1.cell c) := by
  rw [memOnly_cell ht c]; exact h

theorem accessed_of_counts {ks : List Nat} {t : State} (h : Accessed c s i (t.cell c)) (hk : Counts ks c t s1)
    (hctrl : CR.SQ_CTRL ∉ ks) : Accessed c s i (s1.cell c) := by
  obtain ⟨hframe, hwin, hreg, hw⟩ := h
  obtain ⟨hcell, hkept, hcanon, -, -⟩ := hk
  refine ⟨?_, ?_, (hkept _ hctrl).trans hreg, hcanon hw⟩
  · generalize (s1.cell c).regs = r at hcell
    rw [hcell, hframe]
  · rw [hcell]; exact hwin

/-- What such a cell leaves for the commit, with F applied to it. -/
theorem leaves_accessed {F : Cell → Cell} (hs : Accessed c s i (s1.cell c))
    (hwin : ∀ x, (F x).window = x.window) (hnpc : ∀ x, (F x).npc = x.npc) (hregs : ∀ x, (F x).regs = x.regs) :
    ∃ e, Leaves c (s.carrying c i) ((s.cell c).entry i) (s1.modCell c F) e ∧ e.waited = none := by
  obtain ⟨hframe, ⟨e, he, hpc, hop, hx, hnext, hwait⟩, hctrl, hcanon⟩ := hs
  refine ⟨e, ⟨?_, hpc, hop, hx, hnext, fun o k => (by rw [hwait] at k; cases k), ?_, ?_, ?_⟩, hwait⟩
  · rw [cell_modCell_self, hwin, he]
  · rw [cell_modCell_self, hnpc, cell_carrying, hframe]
  · rw [cell_modCell_self, cell_carrying, reg_holding, ← hctrl]; unfold Cell.reg; rw [hregs]
  · rw [cell_modCell_self, hregs]; exact hcanon

/-- A plain instruction that has accessed memory and then applies F to its cell retires with that. -/
theorem issue_accessed {F : Cell → Cell} (h : Ready c s) (hf : Fetched s c i.op) (hop : Op.plain i.op)
    (hs : Accessed c s i (s1.cell c)) (hwin : ∀ x, (F x).window = x.window) (hnpc : ∀ x, (F x).npc = x.npc)
    (hregs : ∀ x, (F x).regs = x.regs)
    (hev : evalOp c ((s.cell c).entry i) (s.carrying c i) = .done (s1.modCell c F)) :
    ∃ u, Retires commitCounters c s1 (F (s1.cell c)) (nextPc (s.cell c).npc i.op) u ∧
      s.issue c i = if i.op.long then u.completionPost c i.x.pen i.x.psem else u := by
  obtain ⟨e, hl, hwait⟩ := leaves_accessed hs hwin hnpc hregs
  obtain ⟨u, hu, hi⟩ := issue_done h hf hop.1 hev hl
  have hk : commitOf e none = commitCounters := by
    refine (if_pos ?_).trans (countersOf_none hwait)
    rw [hl.next, hl.pc, hl.op]
    exact entry_next _ _ hop
  rw [hk] at hu
  refine ⟨u, retires_over hu ?_ (fun d hd => cell_modCell_other _ _ hd) rfl, ?_⟩
  · rw [cell_modCell_self]
  · rw [hi]; simp

/-- The accessed cell beside the one that dispatched the instruction. -/
theorem accessed_beside {x : Cell} (h : Accessed c s i x) (hop : Op.plain i.op) (hregs : x.regs = (s.cell c).regs) :
    x = { s.cell c with window := x.window, npc := x.npc, runahead := x.runahead, stuck := x.stuck } := by
  have hframe := h.frame
  rw [holding_plain _ _ hop, hregs] at hframe
  generalize x.window = w at hframe ⊢
  rw [hframe]

/-- What counting left before the commit, in a cell to which F is then applied, is part of it. -/
theorem retires_of_counts_cell {ks ls : List Nat} {s2 u : State} {pc : Word} {F : Cell → Cell} (h : Counts ls c s1 s2)
    (hret : CR.SQ_RETIRED_CNT ∉ ls) (hF : ∀ x r, F { x with regs := r } = { F x with regs := r })
    (hregs : ∀ x, (F x).regs = x.regs) (hu : Retires ks c s2 (F (s2.cell c)) pc u) :
    Retires (ls ++ ks) c s1 (F (s1.cell c)) pc u := by
  obtain ⟨hcell, hreg, -, hothers, hframe⟩ := h
  obtain ⟨ucell, ureg, uret, uothers, uframe⟩ := hu
  have hFreg : ∀ x o, (F x).reg o = x.reg o := fun x o => by unfold Cell.reg; rw [hregs]
  refine ⟨?_, fun o ho => ?_, by rw [uret, hFreg, hFreg, hreg _ hret], fun d hd => (uothers d hd).trans (hothers d
    hd), ?_⟩
  · generalize (u.cell c).regs = R at ucell ⊢
    rw [ucell, hcell, hF]
  · rw [List.mem_append, not_or] at ho
    rw [ureg o ho.2, hFreg, hFreg, hreg o ho.1]
  · rw [uframe, hframe]

end

/-! ### SPF (R175, R191) -/

theorem plain_spf : Op.plain Op.spf := by unfold Op.plain; decide

theorem modCell_id (s : State) (c : CellId) : s.modCell c id = s := setCell_cell _ _

theorem issue_spf {c : CellId} {s : State} {f : SForm} (h : Ready c s) (hf : sOnly f { imm := true, ra := true } =
    true) :
    let w := (s.carrying c { op := .spf, f }).warm (memAddr (s.cell c) f)
    let t := s.issue c { op := .spf, f }
    Retires commitCounters c w (s.cell c) (nextPc (s.cell c).npc .spf) t ∧ ∀ d, d ≠ c → t.cell d = s.cell d := by
  intro w t
  have hmem : MemOnly (s.carrying c { op := .spf, f }) w := memOnly_warm (memOnly_refl _)
  have hacc : Accessed c s { op := .spf, f } (w.cell c) := accessed_of_memOnly (accessed_carrying h _) hmem
  obtain ⟨u, hu, hi⟩ := issue_accessed (F := id) h (fetched_short h rfl) plain_spf hacc (fun _ => rfl) (fun _ => rfl)
    (fun _ => rfl) (by
      rw [modCell_id]
      show evalSpf c _ _ = _
      simp only [evalSpf, entry_ins, hf, cell_carrying, Bool.not_true, Bool.false_eq_true, if_false]
      rfl)
  have ht : t = u := hi
  have hret := retires_over hu (accessed_beside hacc plain_spf (by rw [memOnly_cell hmem c, cell_carrying]; rfl))
    (fun _ _ => rfl) rfl
  refine ⟨ht ▸ hret, fun d hd => ?_⟩
  rw [ht, hret.2.2.2.1 d hd, memOnly_cell hmem d]
  exact cell_setCell_other _ _ hd

/-- Settles O11. -/
theorem hintsPhasesAndFences : Obligations.HintsPhasesAndFences := by
  unfold Obligations.HintsPhasesAndFences
  intro c s f h x
  refine ⟨fun hf => ⟨_, rfl, issue_nop h hf⟩, fun hf => ?spf, fun hf => ⟨_, rfl, issue_isync h hf⟩,
    fun hf himm => ⟨_, rfl, ?phase⟩, fun hf hfunc himm => ⟨_, rfl, ?ann⟩,
    fun hf hslots => ⟨_, rfl, issue_fence h hf hslots⟩, fun hf hfunc => ⟨_, rfl, issue_fenceE h hf hfunc⟩⟩
  case spf =>
    obtain ⟨hret, hothers⟩ := issue_spf h hf
    exact ⟨_, rfl, hothers, hret⟩
  case phase =>
    have hfunc : f.func = 0 := by
      simp only [sOnly, Bool.and_eq_true, Bool.false_or, beq_iff_eq] at hf
      exact hf.1.1.1.2
    have hlow : phaseLow f = 0 := if_pos hfunc
    have hset := issue_phase h (f := f) (by simp_all [sOnly]) (by rw [hfunc]; decide) himm
    rwa [hlow] at hset
  case ann =>
    have hlow : phaseLow f = 16 := if_neg (by rw [hfunc]; decide)
    have hset := issue_phase h (f := f) hf (by rw [hfunc]; decide) himm
    rwa [hlow] at hset

/-! ### LD, DLDM and ST (R191) -/

theorem plain_ld : Op.plain Op.ld := by unfold Op.plain; decide
theorem plain_st : Op.plain Op.st := by unfold Op.plain; decide
theorem plain_dldm : Op.plain Op.dldm := by unfold Op.plain; decide

/-- A load that read its bytes without poison goes on with them. -/
theorem scalarRead_ok {s s1 : State} {c : CellId} {va n : Nat} {k : State → List Byte → Eval} {d : List PByte}
    (ha : va % n = 0) (hr : s.vread { agent := .cell c, va } n = .ok s1 d) (hd : anyBad d = false) :
    scalarRead s c va n k = k s1 (plain d) := by
  simp only [scalarRead, ha, hr, hd, ne_eq, not_true_eq_false, Bool.false_eq_true, if_false]

theorem scalarWrite_ok {s s1 : State} {c : CellId} {va : Nat} {bs : List Byte} (ha : va % bs.length = 0)
    (hw : s.vwrite { agent := .cell c, va } (clean bs) = .ok s1 ()) : scalarWrite s c va bs = .done s1 := by
  simp only [scalarWrite, ha, hw, ne_eq, not_true_eq_false, if_false]

theorem counts_loadStall (s : State) (c : CellId) : Counts [CR.SX_STALL_DATA_CNT] c s (s.loadStall c) :=
  counts_stall s c _ (List.mem_singleton_self _)

section
variable {c : CellId} {s s1 : State} {d : List PByte}

/-- A load that its bytes have reached counts its stall, and writes a register by F. -/
theorem issue_load {i : Ins} {F : Cell → Cell} {va n : Nat} (h : Ready c s) (hf : Fetched s c i.op) (hop : Op.plain
    i.op)
    (hr : ((s.carrying c i).readUpset c i.u).vread { agent := .cell c, va } n = .ok s1 d)
    (hwin : ∀ x, (F x).window = x.window) (hnpc : ∀ x, (F x).npc = x.npc)
    (hF : ∀ x r, F { x with regs := r } = { F x with regs := r }) (hregs : ∀ x, (F x).regs = x.regs)
    (hev : evalOp c ((s.cell c).entry i) (s.carrying c i) = .done ((s1.loadStall c).modCell c F)) :
    ∃ u, Retires (CR.SX_STALL_DATA_CNT :: commitCounters) c s1 (F (s1.cell c)) (nextPc (s.cell c).npc i.op) u ∧
      s.issue c i = if i.op.long then u.completionPost c i.x.pen i.x.psem else u := by
  have hmem : MemOnly ((s.carrying c i).readUpset c i.u) s1 := memOnly_of_aok hr (memAcc_vread (memOnly_refl _))
  have hacc : Accessed c s i (s1.cell c) := accessed_of_memOnly (accessed_readUpset h i i.u) hmem
  have hcount := counts_loadStall s1 c
  obtain ⟨u, hu, hi⟩ := issue_accessed h hf hop (accessed_of_counts hacc hcount (by decide)) hwin hnpc hregs hev
  exact ⟨u, retires_of_counts_cell hcount (by decide) hF hregs hu, hi⟩

theorem wrS_withRegs (x : Cell) (r : SMap Word) (n : BitVec 5) (v : Word) :
    ({ x with regs := r } : Cell).wrS n v = { x.wrS n v with regs := r } := by
  unfold Cell.wrS
  split <;> rfl

end

/-- Settles O9: the translated access is carried out (`scalarRead_ok`, `scalarWrite_ok`), it leaves the cells as they
are (`memAcc_vread`, `memAcc_vwrite`), and the instruction retires from what it leaves (`issue_load`,
`issue_accessed`). -/
theorem coherentLoadsAndStores : Obligations.CoherentLoadsAndStores := by
  unfold Obligations.CoherentLoadsAndStores
  intro c s s1 f x u d h a n pc
  refine ⟨fun hrb hfunc ha hr hd => ?ld, fun hrd hfunc ha hw => ?st, fun hlong hrb hrd hfunc hx ha hr hd => ?dldm⟩
  case ld =>
    obtain ⟨t, ht, hi⟩ := issue_load (i := { op := .ld, f, u })
      (F := fun y => y.wrS f.rd (loadValue (plain d) (f.func.getLsbD 2))) h (fetched_short h rfl) plain_ld hr
      (fun _ => wrS_window _ _ _) (fun _ => wrS_npc _ _ _) (fun _ _ => wrS_withRegs _ _ _ _) (fun _ => wrS_regs _ _
        _) (by
        show evalLd c _ _ = _
        simp only [evalLd, entry_ins, cell_carrying, sOnly_load hrb, loadFuncOk, hfunc, decide_true, Bool.not_true,
          Bool.or_self, Bool.false_eq_true, if_false]
        exact scalarRead_ok ha hr hd)
    have hi : s.issue c { op := .ld, f, u } = t := hi
    exact ⟨_, rfl, hi ▸ ht⟩
  case st =>
    have hmem : MemOnly ((s.carrying c { op := .st, f, u }).readUpset c u) s1 :=
      memOnly_of_aok hw (memAcc_vwrite (memOnly_refl _))
    obtain ⟨t, ht, hi⟩ := issue_accessed (i := { op := .st, f, u }) (F := id) h (fetched_short h rfl) plain_st
      (accessed_of_memOnly (accessed_readUpset h _ u) hmem) (fun _ => rfl) (fun _ => rfl) (fun _ => rfl) (by
        rw [modCell_id]
        show evalSt c _ _ = _
        simp only [evalSt, entry_ins, cell_carrying, sOnly_store hrd, Nat.not_le.mpr hfunc, decide_false,
          Bool.not_true, Bool.or_self, Bool.false_eq_true, if_false]
        exact scalarWrite_ok (by rw [length_leBytes]; exact ha) hw)
    have hi : s.issue c { op := .st, f, u } = t := hi
    exact ⟨_, rfl, hi ▸ ht⟩
  case dldm =>
    obtain ⟨t, ht, hi⟩ := issue_load (i := { op := .dldm, f, x, u })
      (F := fun y => y.wrD x.dsel (BitVec.ofNat 512 (leNat (plain d)))) h (fetched_long hlong _) plain_dldm hr
      (fun _ => rfl) (fun _ => rfl) (fun _ _ => rfl) (fun _ => rfl) (by
        have hf : sOnly f { imm := true, ra := true } = true := by simp [sOnly, hrb, hrd, hfunc]
        show evalDldm c _ _ = _
        simp only [evalDldm, entry_ins, cell_carrying, hf, hx, Bool.not_true, Bool.or_self, Bool.false_eq_true,
          if_false]
        exact scalarRead_ok ha hr hd)
    exact ⟨_, rfl, t, ht, hi⟩

end Sys2Proof.Proofs
end

section
/-! The SPDM responder (R490 to R493): a request that the transport answers is its function of the state, with the
answer shown to the host. -/

namespace Sys2Proof.Proofs

open Sys2Proof Sys2Proof.Machine Sys2Proof.Laws

/-- Root firmware answers outside END while the Vigil domain has power. -/
theorem i3cUp_of {s : State} (hp : s.dev.stbyPg = true) (hl : s.dev.fw.otp.lc ≠ 4) : s.i3cUp = true := by
  simp [State.i3cUp, hp, hl]

/-- A transport that works hands the request to the responder. -/
theorem spdmDo_up {s : State} {p : SpdmPort} (hp : s.dev.stbyPg = true) (hl : s.dev.fw.otp.lc ≠ 4)
    (hd : p = .doe → s.dev.mainOn = true ∧ s.hs.link ≠ .down) (f : State → State × SpdmReply) :
    s.spdmDo p f = .next ((f s).1.answer (.spdm (f s).2)) := by
  unfold State.spdmDo
  rw [i3cUp_of hp hl]
  cases p with
  | i3c => rfl
  | doe =>
    obtain ⟨hm, hk⟩ := hd rfl
    simp [hm, hk]

/-- A request that changes nothing but the answer. -/
theorem spdm_up {s : State} {p : SpdmPort} (hp : s.dev.stbyPg = true) (hl : s.dev.fw.otp.lc ≠ 4)
    (hd : p = .doe → s.dev.mainOn = true ∧ s.hs.link ≠ .down) (f : State → SpdmReply) :
    s.spdm p f = .next (s.answer (.spdm (f s))) := spdmDo_up hp hl hd _

/-- The measurement blocks that a request names: those of its index, or all of them. -/
def namedBlocks (s : State) (index : Option Nat) : List MeasBlock :=
  s.measurements.filter (fun b => index.all (fun k => b.index == k))

/-- The answer with the blocks given, signed where there is a nonce and a key to sign with. -/
def measuredReply (s : State) (bs : List MeasBlock) : Option (BitVec 256) → SpdmReply
  | none => .measurements bs none
  | some n => if s.dev.fw.otp.lc = 0 then .error
    else .measurements bs (some (s.signed 2 n.toNat (bs.flatMap (·.value))))

theorem execGetMeasurements_eq (p : SpdmPort) (index : Option Nat) (nonce : Option (BitVec 256)) (s : State) :
    execGetMeasurements p index nonce s = s.spdm p (fun s =>
      if (namedBlocks s index).isEmpty then .error else measuredReply s (namedBlocks s index) nonce) := by
  have hall : ∀ u : State, namedBlocks u none = u.measurements := fun u => List.filter_eq_self.2 (fun _ _ => rfl)
  cases index with
  | none =>
    simp only [hall]
    cases nonce <;> rfl
  | some i => cases nonce <;> rfl

/-- The digests of slot 0's chain, or none. -/
theorem getDigests_up {s : State} {p : SpdmPort} (hp : s.dev.stbyPg = true) (hl : s.dev.fw.otp.lc ≠ 4)
    (hd : p = .doe → s.dev.mainOn = true ∧ s.hs.link ≠ .down) :
    (∀ ch, s.chain = some ch →
      execGetDigests p s = .next (s.answer (.spdm (.digests [0] (Config.sha384 ch))))) ∧
    (s.chain = none → execGetDigests p s = .next (s.answer (.spdm (.digests [] [])))) := by
  constructor
  · intro ch h
    rw [execGetDigests, spdm_up hp hl hd, h]
  · intro h
    rw [execGetDigests, spdm_up hp hl hd, h]

/-- GET_CERTIFICATE and CHALLENGE answer for slot 0 of a chain that there is. -/
theorem slot_up {s : State} {p : SpdmPort} (hp : s.dev.stbyPg = true) (hl : s.dev.fw.otp.lc ≠ 4)
    (hd : p = .doe → s.dev.mainOn = true ∧ s.hs.link ≠ .down) (slot : Fin 8) (nonce : BitVec 256) :
    (∀ ch, s.chain = some ch →
      execGetCertificate p slot s = .next (s.answer (.spdm (if slot = 0 then .certificate ch else .error))) ∧
      execChallenge p slot nonce s = .next (s.answer (.spdm
        (if slot = 0 then .challengeAuth (s.signed 1 nonce.toNat ch) else .error)))) ∧
    (s.chain = none → execGetCertificate p slot s = .next (s.answer (.spdm .error)) ∧
      execChallenge p slot nonce s = .next (s.answer (.spdm .error))) := by
  constructor
  · intro ch h
    rw [execGetCertificate, execChallenge, spdm_up hp hl hd, spdm_up hp hl hd, h]
    exact ⟨rfl, rfl⟩
  · intro h
    rw [execGetCertificate, execChallenge, spdm_up hp hl hd, spdm_up hp hl hd, h]
    exact ⟨rfl, rfl⟩

/-- The answers to a request for measurements, which need blocks, and a key where they are to be signed. -/
theorem getMeasurements_up {s : State} {p : SpdmPort} (hp : s.dev.stbyPg = true) (hl : s.dev.fw.otp.lc ≠ 4)
    (hd : p = .doe → s.dev.mainOn = true ∧ s.hs.link ≠ .down) (index : Option Nat) (nonce : BitVec 256) :
    let blocks := s.measurements.filter (fun b => index.all (fun k => b.index == k))
    (blocks ≠ [] → execGetMeasurements p index none s = .next (s.answer (.spdm (.measurements blocks none))) ∧
      (s.dev.fw.otp.lc ≠ 0 → execGetMeasurements p index (some nonce) s = .next (s.answer (.spdm
        (.measurements blocks (some (s.signed 2 nonce.toNat (blocks.flatMap (·.value))))))))) ∧
    (blocks = [] → execGetMeasurements p index none s = .next (s.answer (.spdm .error))) := by
  intro blocks
  have he : blocks = namedBlocks s index := rfl
  simp only [execGetMeasurements_eq, spdm_up hp hl hd, he]
  refine ⟨fun h => ⟨?_, fun h0 => ?_⟩, fun h => ?_⟩
  · rw [if_neg (by simpa using h)]
    rfl
  · rw [if_neg (by simpa using h), measuredReply, if_neg h0]
  · rw [if_pos (by simpa using h)]

/-- The state after a request that leaves its transport's session as x, with the draws that it took. -/
def sessionAfter (s : State) (p : SpdmPort) (x : Session) (draws : Nat) : State :=
  match p with
  | .doe => { s with dev := { s.dev with spdmDoe := x }, free := s.free + draws }
  | .i3c => { s with dev := { s.dev with spdmI3c := x }, free := s.free + draws }

/-- A session that stays as it is leaves the whole state as it is. -/
theorem sessionAfter_self (s : State) (p : SpdmPort) : sessionAfter s p (s.session p) 0 = s := by
  cases p <;> rfl

theorem sessionAfter_set (s : State) (p : SpdmPort) (x : Session) : sessionAfter s p x 0 = s.setSession p x := by
  cases p <;> rfl

theorem sessionAfter_draw (s : State) (p : SpdmPort) (x : Session) :
    sessionAfter s p x 1 = (s.setSession p x).draw := by
  cases p <;> rfl

section
variable {s : State} {p : SpdmPort} (hp : s.dev.stbyPg = true) (hl : s.dev.fw.otp.lc ≠ 4)
  (hd : p = .doe → s.dev.mainOn = true ∧ s.hs.link ≠ .down)
include hp hl hd

/-- KEY_EXCHANGE with a chain, slot 0 and a data object within its bound. -/
theorem keyExchange_goes {pub : List Byte} (hc : s.chain ≠ none) (hb : p = .i3c ∨ pub.length ≤ 0x40000) :
    execKeyExchange p 0 pub s = .next ((sessionAfter s p (.handshake (Config.ecdhSecret s.free pub)) 1).answer
      (.spdm (.keyExchange (Config.ecdhShare s.free)
        (s.signed 3 0 (pub ++ Config.ecdhShare s.free))))) := by
  have hs : s.chain.isSome = true := Option.isSome_iff_ne_none.2 hc
  have ht : (p == .i3c || decide (pub.length ≤ doeLargest)) = true := by
    rcases hb with rfl | hb
    · rfl
    · simp [doeLargest, hb]
  rw [execKeyExchange, spdmDo_up hp hl hd, sessionAfter_draw]
  simp only [hs, ht]
  rfl

/-- KEY_EXCHANGE out of place. -/
theorem keyExchange_error {slot : Fin 8} {pub : List Byte}
    (h : s.chain = none ∨ slot ≠ 0 ∨ (p = .doe ∧ 0x40000 < pub.length)) :
    execKeyExchange p slot pub s = .next (s.answer (.spdm .error)) := by
  have hn : (s.chain.isSome && decide (slot = 0) && (p == .i3c || decide (pub.length ≤ doeLargest))) = false := by
    rcases h with h | h | ⟨rfl, h⟩
    · simp [h]
    · simp [h]
    · simp [doeLargest, show ¬ pub.length ≤ 262144 by omega]
  rw [execKeyExchange, spdmDo_up hp hl hd]
  simp only [hn]
  rfl

/-- FINISH in a handshake opens the session or ends the handshake. -/
theorem finish_handshake {k mac : List Byte} (hk : s.session p = .handshake k) :
    execFinish ⟨p, mac⟩ s = if mac = Config.finishMac k
      then .next ((sessionAfter s p (.opened (Config.aeadKey false k, Config.aeadKey true k)) 0).answer (.spdm .finish))
      else .next ((sessionAfter s p .none 0).answer (.spdm .error)) := by
  simp only [execFinish, spdmDo_up hp hl hd, hk, sessionAfter_set]
  split <;> rfl

/-- FINISH without a handshake. -/
theorem finish_error {mac : List Byte} (hk : ∀ k, s.session p ≠ .handshake k) :
    execFinish ⟨p, mac⟩ s = .next (s.answer (.spdm .error)) := by
  simp only [execFinish, spdmDo_up hp hl hd]

/-- HEARTBEAT and END_SESSION of an open session. -/
theorem session_opened {k : List Byte × List Byte} (hk : s.session p = .opened k) :
    execHeartbeat p s = .next (s.answer (.spdm .heartbeat)) ∧
      execEndSession p s = .next ((sessionAfter s p .none 0).answer (.spdm .ended)) := by
  simp only [execHeartbeat, execEndSession, spdm_up hp hl hd, spdmDo_up hp hl hd, hk, sessionAfter_set, and_self]

/-- HEARTBEAT and END_SESSION without an open session. -/
theorem session_error (hk : ∀ k, s.session p ≠ .opened k) :
    execHeartbeat p s = .next (s.answer (.spdm .error)) ∧ execEndSession p s = .next (s.answer (.spdm .error)) := by
  simp only [execHeartbeat, execEndSession, spdm_up hp hl hd, spdmDo_up hp hl hd, and_self]

end

/-- Settles O59: each request is answered by its function of the responder, by the cases of the chain, of the blocks and of
the transport's session. -/
theorem attestationAndSessions : Obligations.AttestationAndSessions := by
  unfold Obligations.AttestationAndSessions
  constructor
  · intro s p slot nonce index told lc blocks hp hl hd
    have hm := getMeasurements_up hp hl hd index nonce
    have hg := getDigests_up hp hl hd
    have hq := slot_up hp hl hd slot nonce
    exact ⟨⟨_, spdm_up hp hl hd (fun _ => .version [0x12, 0x13]), rfl⟩,
      ⟨_, spdm_up hp hl hd (fun _ => .capabilities false false), rfl⟩,
      ⟨_, spdm_up hp hl hd (fun _ => .algorithms 384 384 384 256), rfl⟩,
      fun ch hc => ⟨⟨_, hg.1 ch hc, rfl⟩, ⟨_, (hq.1 ch hc).1, rfl⟩, ⟨_, (hq.1 ch hc).2, rfl⟩⟩,
      fun hc => ⟨⟨_, hg.2 hc, rfl⟩, ⟨_, (hq.2 hc).1, rfl⟩, ⟨_, (hq.2 hc).2, rfl⟩⟩,
      fun hb => ⟨⟨_, (hm.1 hb).1, rfl⟩, fun h0 => ⟨_, (hm.1 hb).2 h0, rfl⟩⟩, fun hb => ⟨_, hm.2 hb, rfl⟩⟩
  · intro s p slot pub mac told goes share now hp hl hd
    have hgo : ∀ {x : Session} {r : SpdmReply} {i : Instr} {n : Nat},
        exec i s = .next ((sessionAfter s p x n).answer (.spdm r)) → goes x r i n := by
      intro x r i n h
      refine ⟨_, h, ?_⟩
      cases p <;> rfl
    have hnow : now = s.session p := by cases p <;> rfl
    have hstay : ∀ {r : SpdmReply} {i : Instr}, exec i s = .next (s.answer (.spdm r)) → goes now r i 0 := by
      intro r i h
      refine hgo ?_
      rw [hnow, sessionAfter_self, h]
    rw [hnow] at hstay ⊢
    refine ⟨fun hc h0 hb => ?_, fun h => hstay (keyExchange_error hp hl hd h), fun k hk => ⟨fun he => ?_, fun he => ?_⟩,
      fun hk => hstay (finish_error hp hl hd hk),
      fun k hk => ⟨?_, hgo (session_opened hp hl hd hk).2⟩,
      fun hk => ⟨hstay (session_error hp hl hd hk).1, hstay (session_error hp hl hd hk).2⟩⟩
    · subst h0
      exact hgo (keyExchange_goes hp hl hd hc hb)
    · exact hgo ((finish_handshake hp hl hd hk).trans (if_pos he))
    · exact hgo ((finish_handshake hp hl hd hk).trans (if_neg he))
    · exact hstay (session_opened hp hl hd hk).1

end Sys2Proof.Proofs
end

section
/-! The JTAG port (R489, R511 to R514): what an enabled instruction does, which one is enabled, and what a debug access
reads. -/

namespace Sys2Proof.Proofs

open Sys2Proof Sys2Proof.Machine Sys2Proof.Laws

/-- The debug access that is under way has left its result d, or failed. -/
def dbgResult (s : State) (d : Word) (failed : Bool) : State :=
  { s with dev := { s.dev with jtag := { s.dev.jtag with dbgData := d, dbgFail := failed } } }

theorem dbgDone_ok (s : State) (data : Nat) : s.dbgDone data true = dbgResult s (BitVec.ofNat 64 data) false := rfl

theorem dbgDone_failed (s : State) (data : Nat) : s.dbgDone data false = dbgResult s 0 true := rfl

/-- The state in which instruction code has been selected. -/
def selected (s : State) (code : Nat) : State := s.modJtag (fun j => { j with ir := code })

section
variable {s : State} (hp : s.dev.stbyPg = true)
include hp

/-- An enabled instruction is selected, and runs. -/
theorem jtag_on {o : Out} {code : Nat} {ok : Bool} {f : State → Out} (hi : o = s.jtagOp code ok f)
    (h : ok = true) : o = f (selected s code) := by
  rw [hi]
  simp [State.jtagOp, hp, h, selected]

/-- An instruction that is not enabled selects BYPASS. -/
theorem jtag_off {o : Out} {code : Nat} {ok : Bool} {f : State → Out} (hi : o = s.jtagOp code ok f)
    (h : ok = false) : o = .next ((selected s 0x3F).answer (.jtag 1 0)) := by
  rw [hi]
  simp [State.jtagOp, hp, h, selected]

end

/-- A lifecycle that is neither BLANK, DEVELOP nor RETURNED enables no debug instruction. -/
theorem mayUnlock_off {s : State} (h : s.dev.fw.otp.lc = 2 ∨ s.dev.fw.otp.lc = 4) :
    s.mayUnlock = false ∧ s.mayDebug = false ∧ s.blank = false := by
  rcases h with h | h <;> simp [State.mayUnlock, State.mayDebug, State.blank, State.debugState, h]

theorem mayUnlock_on {s : State} (h : s.dev.fw.otp.lc = 0 ∨ s.dev.fw.otp.lc = 1 ∨ s.dev.fw.otp.lc = 3) :
    s.mayUnlock = true := by
  rcases h with h | h | h <;> simp [State.mayUnlock, State.blank, State.debugState, h]

theorem mayDebug_iff (s : State) : s.mayDebug = true ↔
    s.dev.fw.otp.lc = 0 ∨ ((s.dev.fw.otp.lc = 1 ∨ s.dev.fw.otp.lc = 3) ∧ bitB (s.freg FR.SYS_LC) 7 = true) := by
  simp [State.mayDebug, State.blank, State.debugState, State.unlocked]

/-! ### Debug unlock -/

/-- A signature that does not open debug uses the nonce up. -/
theorem unlock_refused {s : State} {n : Nat} {sig : List Byte} (hn : s.dev.jtag.nonce = some n)
    (h : s.dev.fw.otp.lc = 0 ∨
      Config.ecdsaOk Config.debugKey (leBytes 8 (s.freg FR.FL_CHIP_ID) ++ leBytes 32 n) sig = false) :
    s.unlock sig = s.modJtag (fun j => { j with nonce := none }) := by
  have hno : (State.debugState (s.modJtag (fun j => { j with nonce := none })) && Config.ecdsaOk Config.debugKey
      (leBytes 8 (s.freg FR.FL_CHIP_ID) ++ leBytes 32 n) sig) = false := by
    rcases h with h | h
    · simp [State.debugState, State.modJtag, h]
    · simp [h]
  simp only [State.unlock, hn]
  exact if_neg (by rw [Bool.not_eq_true]; exact hno)

/-- A signature that opens debug sets SYS_LC bit 7, which the Almanac records. -/
theorem unlock_opens {s : State} {n : Nat} {sig : List Byte} (hn : s.dev.jtag.nonce = some n)
    (hl : s.dev.fw.otp.lc = 1 ∨ s.dev.fw.otp.lc = 3)
    (h : Config.ecdsaOk Config.debugKey (leBytes 8 (s.freg FR.FL_CHIP_ID) ++ leBytes 32 n) sig = true)
    (hc : bitB (s.freg FR.SYS_LC) 7 = false) :
    s.unlock sig = ((s.modJtag (fun j => { j with nonce := none })).orFreg FR.SYS_LC 128).logEvent 0x0805 0 6 0 0 0
      := by
  have hyes : (State.debugState (s.modJtag (fun j => { j with nonce := none })) && Config.ecdsaOk Config.debugKey
      (leBytes 8 (s.freg FR.FL_CHIP_ID) ++ leBytes 32 n) sig) = true := by
    rcases hl with hl | hl <;> simp [State.debugState, State.modJtag, hl, h]
  have hu : State.unlocked (s.modJtag (fun j => { j with nonce := none })) = false := hc
  simp only [State.unlock, hn]
  refine (if_pos hyes).trans ?_
  rw [hu]
  rfl

/-- The record of an unlock leaves SYS_LC bit 7 set, cells and memory. -/
theorem unlock_record {u : State} (hw : SMap.wf floorResetVal u.fregs = true) :
    let t := (u.orFreg FR.SYS_LC 128).logEvent 0x0805 0 6 0 0 0
    bitB (t.freg FR.SYS_LC) 7 = true ∧ t.alm.seq = u.alm.seq + 1 ∧ t.dev.jtag = u.dev.jtag ∧ t.cells = u.cells ∧
      t.mem = u.mem := by
  intro t
  have hl : Logs (u.orFreg FR.SYS_LC 128) t := logs_logEvent _ _ _ _ _ _ _
  refine ⟨?_, logEvent_seq _ _ _ _ _ _ _, ?_, ?_, ?_⟩
  · rw [(floorRegs_logEvent _ _ _ _ _ _ _).freg _ (by decide)]
    exact bitB_orFreg_self (k := 7) FR.SYS_LC (by decide) hw
  all_goals
    rw [hl]
    rfl

/-! ### Debug access -/

/-- The operation that a scan asks for. -/
theorem dbg_op (dr : BitVec 128) : bits dr.toNat 63 61 = (dr.extractLsb' 61 3).toNat := by
  rw [BitVec.extractLsb'_toNat]
  rfl

/-- The state in which a debug access runs: its instruction selected, the last result shifted out. -/
def scanned (s : State) : State :=
  (selected s 0x12).answer (.jtag 128 (s.dev.jtag.dbgData.toNat * 2 ^ 64 + b2n s.dev.jtag.dbgFail * 2 ^ 60))

/-- A debug access to a register that may be read returns what it reads. -/
theorem dbgAccess_reads {s : State} {pa w : Nat} (hp : s.dev.stbyPg = true) (hd : s.mayDebug = true)
    (ha : pa % w = 0) (hr : inRegs pa = true) (hs : inSecurity pa = false) (hv : (vigilReg pa || s.dev.mainOn) = true) :
    s.dbgAccess pa w 0 false = dbgResult s (BitVec.ofNat 64 (s.readReg pa w)) false := by
  have hreach : s.reachReg .debug pa = true := by simp [State.reachReg, hp, hd, hv]
  simp [State.dbgAccess, ha, hs, hr, hreach, State.readBy, dbgDone_ok]

/-- A debug access that is unaligned or to the security block fails. -/
theorem dbgAccess_fails {pa w : Nat} (s : State) (v : Nat) (write : Bool)
    (h : pa % w ≠ 0 ∨ inSecurity pa = true) : s.dbgAccess pa w v write = dbgResult s 0 true := by
  have hc : (decide (pa % w ≠ 0) || inSecurity pa) = true := by simpa using h
  rw [State.dbgAccess, if_pos hc, dbgDone_failed]

/-- PWR_CAP_W is fenced from the host's authority. -/
theorem dbgAccess_cap (s : State) (v : Nat) : s.dbgAccess FR.PWR_CAP_W 4 v true = dbgResult s 0 true := by
  have ha : ¬ (decide (FR.PWR_CAP_W % 4 ≠ 0) || inSecurity FR.PWR_CAP_W) = true := by decide
  have hr : inRegs FR.PWR_CAP_W = true := by decide
  have hf : (parts FR.PWR_CAP_W 4 v).any (fun p => fencedHost p.1) = true := by
    have hreg : regWidth FR.PWR_CAP_W = 32 := by decide
    simp [parts, hreg]
    decide
  rw [State.dbgAccess, if_neg ha, if_pos hr, if_pos, dbgDone_failed]
  simp [hf]

/-! ### Lantern -/

/-- A select register that is set: its output follows the signal that it names, where bit 15 enables it and the signal is
not reserved. -/
theorem lantern_set {s : State} (k : Fin 10) (v : BitVec 16) (hd : s.mayDebug = true) :
    (s.modJtag (fun j => { j with ltn := j.ltn.set k v })).lantern k =
      if v.getLsbD 15 && !ltnReserved (v.toNat % 4096) then some (v.toNat % 4096, v.toNat / 4096 % 8) else none := by
  have hsel : (s.modJtag (fun j => { j with ltn := j.ltn.set k v })).dev.jtag.ltn[k] = v := Vector.getElem_set_self _
  have hdbg : (s.modJtag (fun j => { j with ltn := j.ltn.set k v })).mayDebug = true := hd
  have hen : bitB v.toNat 15 = v.getLsbD 15 := bitB_eq_testBit _ _
  have hlow : bits v.toNat 11 0 = v.toNat % 4096 := rfl
  have hhigh : bits v.toNat 14 12 = v.toNat / 4096 % 8 := by
    simp [bits, Nat.shiftRight_eq_div_pow]
  rw [State.lantern, hsel, hdbg, hen, hlow, hhigh, Bool.true_and]

/-! ### The scan of a debug access -/

section
variable {s : State} (hp : s.dev.stbyPg = true) (hd : s.mayDebug = true) (dr : BitVec 128)
include hp hd

/-- Operations 0 and 1 read 4 and 8 bytes. -/
theorem execDbgAccess_read (h : (dr.extractLsb' 61 3).toNat < 2) : execDbgAccess dr s =
    .next ((scanned s).dbgAccess (dr.toNat % 2 ^ 52) (if (dr.extractLsb' 61 3).toNat = 0 then 4 else 8) 0 false) := by
  have hop := dbg_op dr
  have hpa : bits dr.toNat 51 0 = dr.toNat % 2 ^ 52 := rfl
  rw [execDbgAccess, jtag_on hp rfl hd]
  rcases (by omega : (dr.extractLsb' 61 3).toNat = 0 ∨ (dr.extractLsb' 61 3).toNat = 1) with h' | h' <;>
    rw [h'] at hop ⊢ <;> simp only [hop, hpa] <;> rfl

/-- Operation 2 writes 4 bytes. -/
theorem execDbgAccess_write (h : (dr.extractLsb' 61 3).toNat = 2) : execDbgAccess dr s =
    .next ((scanned s).dbgAccess (dr.toNat % 2 ^ 52) 4 (bits dr.toNat 127 64 % 2 ^ 32) true) := by
  have hop := (dbg_op dr).trans h
  have hpa : bits dr.toNat 51 0 = dr.toNat % 2 ^ 52 := rfl
  rw [execDbgAccess, jtag_on hp rfl hd]
  simp only [hop, hpa]
  rfl

/-- The operations above 3 fail. -/
theorem execDbgAccess_reserved (h : 3 < (dr.extractLsb' 61 3).toNat) :
    execDbgAccess dr s = .next (dbgResult (scanned s) 0 true) := by
  have hop := dbg_op dr
  rw [execDbgAccess, jtag_on hp rfl hd]
  simp only [hop]
  split
  case h_5 => rfl
  all_goals omega

end

/-- Settles O60: the port enables an instruction by the lifecycle, and what each does is its own function. -/
theorem boundaryScanAndDebug : Obligations.BoundaryScanAndDebug := by
  unfold Obligations.BoundaryScanAndDebug
  constructor
  · intro s v hp sel shows
    have hb := jtag_on hp (o := execBypass s) rfl rfl
    have hi := jtag_on hp (o := execIdcode s) rfl rfl
    have hs := jtag_on hp (o := execSamplePreload v s) rfl rfl
    have he := jtag_on hp (o := execExtest s) rfl rfl
    have hc := jtag_on hp (o := execClamp s) rfl rfl
    have hz := jtag_on hp (o := execHighz s) rfl rfl
    exact ⟨⟨_, hb, rfl⟩, ⟨_, hi, rfl⟩, ⟨_, hs, rfl⟩, ⟨_, he, ⟨rfl, rfl⟩, rfl⟩, ⟨_, hc, ⟨rfl, rfl⟩, rfl⟩,
      ⟨_, hz, ⟨rfl, rfl⟩, rfl⟩⟩
  · intro s bs sig n dr k v code tok lc j jtag shows off free message hp
    have hoff : ∀ {i : Instr}, exec i s = .next ((selected s 0x3F).answer (.jtag 1 0)) → off i := fun hi => ⟨_, hi, rfl⟩
    have hdbg : free ↔ s.mayDebug = true := (mayDebug_iff s).symm
    have chal_off (h : s.mayUnlock = false) := jtag_off hp (o := execDbgChallenge s) rfl h
    have unl_off (p : UnlockIn) (h : s.mayUnlock = false) := jtag_off hp (o := execDbgUnlock p bs s) rfl h
    have acc_off (h : s.mayDebug = false) := jtag_off hp (o := execDbgAccess dr s) rfl h
    have sel_off (h : s.mayDebug = false) := jtag_off hp (o := execLtnSel k v s) rfl h
    have man_off (h : s.blank = false) := jtag_off hp (o := execManufacturingTest code s) rfl h
    refine ⟨fun hl => ?_, fun h0 => ?_, fun h0 => ?_, fun hf => ?_, fun hl => ?_, fun hf => ?_⟩
    · obtain ⟨hu, hd, hb⟩ := mayUnlock_off hl
      simp only [List.forall_mem_cons, List.not_mem_nil, IsEmpty.forall_iff, implies_true, and_true]
      exact ⟨hoff (chal_off hu), hoff (unl_off (.signature sig) hu), hoff (unl_off (.token tok) hu), hoff (acc_off
        hd), hoff (sel_off hd),
        hoff (man_off hb)⟩
    · exact hoff (man_off (by simpa [State.blank] using h0))
    · exact jtag_on hp (o := execManufacturingTest code s) rfl (by simpa [State.blank] using h0)
    · have hd : s.mayDebug = false := by rw [← Bool.not_eq_true, ← hdbg]; exact hf
      exact ⟨hoff (acc_off hd), hoff (sel_off hd)⟩
    · have hu := mayUnlock_on hl
      have hchal := jtag_on hp (o := execDbgChallenge s) rfl hu
      have hsig := jtag_on hp (o := execDbgUnlock (.signature sig) bs s) rfl hu
      have htok := jtag_on hp (o := execDbgUnlock (.token tok) bs s) rfl hu
      refine ⟨⟨_, Config.nonce s.free % 2 ^ 256, hchal, Nat.mod_lt _ (by decide), rfl⟩,
        fun hn => ⟨_, hsig, ?_⟩, fun hn h => ⟨_, hsig, ?_⟩, fun hn h0 hok hc hw => ⟨_, hsig, ?_⟩,
        fun ht => ⟨_, htok, ?_⟩⟩
      · have hn' : (selected s 0x11).dev.jtag.nonce = none := hn
        simp only [State.unlock, hn']
        rfl
      · exact unlock_refused (s := selected s 0x11) hn h
      · have hl' : s.dev.fw.otp.lc = 1 ∨ s.dev.fw.otp.lc = 3 := hl.resolve_left h0
        rw [unlock_opens (s := selected s 0x11) hn hl' hok hc]
        exact unlock_record hw
      · have ht' : (selected s 0x11).tokenFits tok true = false := ht
        simp only [ht', Bool.false_and]
        rfl
    · have hd := hdbg.1 hf
      have hsel := jtag_on hp (o := execLtnSel k v s) rfl hd
      have hscan : (scanned s).mayDebug = true := hd
      intro pa w old
      refine ⟨fun hop ha hr hs hv => ⟨_, execDbgAccess_read hp hd dr hop, ?_⟩, ?_,
        fun hpa hop => ⟨_, execDbgAccess_write hp hd dr hop, ?_⟩, ⟨_, hsel, ?_, rfl⟩⟩
      · exact dbgAccess_reads (s := scanned s) hp hscan ha hr hs hv
      · rintro (h | ⟨hop, h⟩)
        · exact ⟨_, execDbgAccess_reserved hp hd dr h, rfl⟩
        · exact ⟨_, execDbgAccess_read hp hd dr hop, dbgAccess_fails _ _ _ h⟩
      · rw [show dr.toNat % 2 ^ 52 = FR.PWR_CAP_W from hpa]
        exact dbgAccess_cap _ _
      · exact lantern_set (s := selected s 0x13) k v hd

end Sys2Proof.Proofs
end

section
/-! What a device reset leaves (R434, R435, R460, R504 to R506, R528): the state before its bring-up, the registers that it
keeps, and the fatal stop of a bring-up (R469). -/

namespace Sys2Proof.Proofs

open Sys2Proof Sys2Proof.Machine Sys2Proof.Laws

/-! ### Registers that a reset drops -/

/-- Entries dropped by their keys read as the default. -/
theorem smap_get_filter {α : Type} (d : Nat → α) (m : SMap α) (f : Nat → Bool) (k : Nat) :
    SMap.get d (m.filter (fun e => f e.1)) k = if f k then SMap.get d m k else d k := by
  induction m with
  | nil => simp
  | cons e m ih =>
    obtain ⟨a, v⟩ := e
    rw [List.filter_cons, smap_get_cons]
    by_cases hf : f a = true
    · rw [if_pos hf, smap_get_cons, ih]
      by_cases ha : a = k
      · subst ha
        simp [hf]
      · simp [ha]
    · rw [if_neg hf, ih]
      by_cases ha : a = k
      · subst ha
        simp [hf]
      · simp [ha]

/-- Floor registers dropped by their addresses read their reset values. -/
theorem freg_filtered {s t : State} (f : Nat → Bool) (h : t.fregs = s.fregs.filter (fun e => f e.1)) (a : Nat) :
    t.freg a = if f a then s.freg a else (floorResetVal a).toNat := by
  rw [State.freg, h, smap_get_filter]
  split <;> rfl

/-- A loss of the main domain keeps the registers of the Vigil domain. -/
theorem freg_clearMain (s : State) {a : Nat} (h : a ≠ FR.PWR_POINT) :
    s.clearMain.freg a = if vigilReg a then s.freg a else (floorResetVal a).toNat := by
  rw [State.clearMain, freg_setFreg_other _ _ h]
  exact freg_filtered vigilReg rfl a

theorem fgood_clearMain {s : State} (hw : FGood s.fregs) : FGood s.clearMain.fregs := by
  unfold State.clearMain State.setFreg
  dsimp only
  exact smap_wf_set _ _ _ _ (fgood_filter hw _)

theorem freg_mainLost (s : State) {a : Nat} (h : a ≠ FR.PWR_POINT) :
    s.mainLost.freg a = if vigilReg a then s.freg a else (floorResetVal a).toNat := freg_clearMain s h

/-! ### The fatal stop of a bring-up (R469) -/

/-- The device when its main domain has been turned off. -/
def devLost (d : DevState) : DevState :=
  { d with mainOn := false, ready := false, step := none, cxlWait := false, spdmDoe := .none, floorBring := none
           hbmLost := true }

/-- The memories of the host are all that is left of memory. -/
def memLost (m : MemState) : MemState := { host := m.host, hostPoison := m.hostPoison }

/-- A fatal stop turns the main domain off. -/
theorem bootFatal_frame (s : State) (step sub code : Nat) :
    (s.bootFatal step sub code).dev = devLost s.dev ∧ (s.bootFatal step sub code).mem = memLost s.mem ∧
      (s.bootFatal step sub code).cells = Vector.replicate 256 {} ∧
      (s.bootFatal step sub code).fl = { wire := s.fl.wire } := by
  unfold State.bootFatal
  extract_lets err s1 s2
  have h1 : s1 = { s with fregs := s1.fregs } := by
    unfold s1
    split <;> rfl
  have h2 : Logs s1 s2 := logs_logEvent _ _ _ _ _ _ _
  rw [h1] at h2
  rw [h2]
  exact ⟨rfl, rfl, rfl, rfl⟩

/-- A fatal stop writes SYS_BOOT_ERR, which it does not overwrite, and SYS_BOOT_STATUS; of the other registers it keeps
those of the Vigil domain but for what its record counts. -/
theorem bootFatal_regs {s : State} (step sub code : Nat) (hw : FGood s.fregs) :
    (s.bootFatal step sub code).freg FR.SYS_BOOT_STATUS = 0xFF ∧
    (bitB (s.freg FR.SYS_BOOT_ERR) 31 = false →
      (s.bootFatal step sub code).freg FR.SYS_BOOT_ERR = (2 ^ 31 + step * 65536 + sub * 256 + code) % 2 ^ 64) ∧
    (∀ a, vigilReg a = true → a ∉ [FR.SYS_BOOT_ERR, FR.SYS_BOOT_STATUS, FR.PWR_POINT] → a ∉ eventRegs 4 →
      (s.bootFatal step sub code).freg a = s.freg a) := by
  unfold State.bootFatal
  extract_lets err s1 s2
  have hs1 : FGood s1.fregs := by
    unfold s1
    split
    · exact hw
    · exact smap_wf_set _ _ _ _ hw
  have hlog : FloorRegs (eventRegs 4) s1 s2 := floorRegs_logEvent _ _ _ _ _ _ _
  have hlost : FGood s2.mainLost.fregs := fgood_clearMain (hlog.canon hs1)
  refine ⟨freg_setFreg_self _ _ _ hlost, fun hb => ?_, fun a hv ha he => ?_⟩
  · rw [State.atStep, freg_setFreg_other _ _ (by decide), freg_mainLost _ (by decide), if_pos (by decide),
      hlog.freg _ (by decide)]
    unfold s1
    rw [if_neg (by simp [hb])]
    exact freg_setFreg_self s _ _ hw
  · simp only [List.mem_cons, List.not_mem_nil, or_false, not_or] at ha
    obtain ⟨h1, h2, h3⟩ := ha
    rw [State.atStep, freg_setFreg_other _ _ h2, freg_mainLost _ h3, if_pos hv, hlog.freg a he]
    unfold s1
    split
    · rfl
    · exact freg_setFreg_other s _ h1

/-! ### The record of a reset -/

/-- The registers that the record of a reset of a kind writes. -/
def noteRegs (kind : Nat) : List Nat := FR.RST_STATUS :: FR.RST_KIND_CNT kind :: eventRegs 0

theorem floorRegs_noteReset (s : State) (kind mask : Nat) : FloorRegs (noteRegs kind) s (s.noteReset kind mask) :=
  (((FloorRegs.refl _ s).setFreg _ (by simp [noteRegs])).count 1 (by simp [noteRegs])).trans
    ((floorRegs_logEvent _ _ _ _ _ _ _).mono (by simp [noteRegs]))

/-- The record of a reset changes the Almanac and floor registers alone. -/
theorem noteReset_frame (s : State) (kind mask : Nat) :
    s.noteReset kind mask = { s with fregs := (s.noteReset kind mask).fregs, alm := (s.noteReset kind mask).alm } :=
  logEvent_frame ((s.putFreg FR.RST_STATUS 10 8 kind).count (FR.RST_KIND_CNT kind)) 0x0A01 kind 0 (mask % 2 ^ 64) 0
    (by decide)

theorem noteReset_seq (s : State) (kind mask : Nat) : (s.noteReset kind mask).alm.seq = s.alm.seq + 1 :=
  logEvent_seq _ _ _ _ _ _ _

/-- A reset of a kind is counted. -/
theorem noteReset_count {s : State} (kind mask : Nat) (hw : FGood s.fregs)
    (hk : FR.RST_KIND_CNT kind ≠ FR.RST_STATUS) (he : FR.RST_KIND_CNT kind ∉ eventRegs 0) :
    (s.noteReset kind mask).freg (FR.RST_KIND_CNT kind) = (s.freg (FR.RST_KIND_CNT kind) + 1) % 2 ^ 64 := by
  rw [State.noteReset, (floorRegs_logEvent _ _ _ _ _ _ _).freg _ he, State.count,
    freg_setFreg_self _ _ _ (smap_wf_set _ _ _ _ hw), State.putFreg, freg_setFreg_other _ _ hk]

/-! ### The state before bring-up -/

/-- The registers of the Vigil domain that a device reset keeps as they are. -/
def keptReg (a : Nat) : Bool :=
  vigilReg a && (!(0x30010060000 ≤ a && a < 0x30010070000) && a != FR.ALM_CTRL)

/-- The registers of the Vigil domain that a device reset writes itself. -/
def clearRegs : List Nat := [FR.FL_BOOT_EPOCH, FR.SYS_LC, FR.RST_STATUS, FR.PWR_STATUS, FR.ENERGY_UJ]

/-- A device reset drops the registers that it does not keep. -/
theorem freg_deviceClear (s : State) {a : Nat} (ha : a ∉ clearRegs) :
    s.deviceClear.freg a = if keptReg a then s.freg a else (floorResetVal a).toNat := by
  simp only [clearRegs, List.mem_cons, List.not_mem_nil, or_false, not_or] at ha
  obtain ⟨h1, h2, h3, h4, h5⟩ := ha
  unfold State.deviceClear
  extract_lets uj lost epoch s1 m dev jtag s2 s3
  have h2' : s2.freg a = if keptReg a then s.freg a else (floorResetVal a).toNat := by
    rw [freg_filtered (s := s1) (t := s2) (fun a => !(0x30010060000 ≤ a && a < 0x30010070000) && a != FR.ALM_CTRL)
      rfl a]
    unfold keptReg
    by_cases hp : a = FR.PWR_POINT
    · subst hp
      rfl
    · rw [freg_clearMain s hp]
      cases vigilReg a <;> simp
  rw [freg_setFreg_other _ _ h1, State.clrFreg, freg_setFreg_other _ _ h2, State.clrFreg, freg_setFreg_other _ _ h3,
    freg_orFreg_other _ _ h4, freg_setFreg_other _ _ h5, h2']

/-- A device reset raises FL_BOOT_EPOCH and takes the fatal condition back. -/
theorem deviceClear_marks {s : State} (hw : FGood s.fregs) :
    s.deviceClear.freg FR.FL_BOOT_EPOCH = (s.freg FR.FL_BOOT_EPOCH + 1) % 2 ^ 32 ∧
      bitB (s.deviceClear.freg FR.RST_STATUS) 3 = false ∧ FGood s.deviceClear.fregs := by
  unfold State.deviceClear
  extract_lets uj lost epoch s1 m dev jtag s2 s3
  have hs2 : FGood s2.fregs := fgood_filter (fgood_clearMain hw) _
  have hs3 : FGood s3.fregs := smap_wf_set _ _ _ _ (smap_wf_set _ _ _ _ hs2)
  refine ⟨?_, ?_, smap_wf_set _ _ _ _ (smap_wf_set _ _ _ _ (smap_wf_set _ _ _ _ hs3))⟩
  · rw [freg_setFreg_self _ _ _ (smap_wf_set _ _ _ _ (smap_wf_set _ _ _ _ hs3))]
    exact Nat.mod_eq_of_lt (Nat.lt_of_lt_of_le (Nat.mod_lt _ (by decide)) (by decide))
  · rw [freg_setFreg_other _ _ (by decide), State.clrFreg, freg_setFreg_other _ _ (by decide)]
    exact (bitB_clrFreg FR.RST_STATUS 3 3 hs3).trans (by simp)

/-- The state of a device reset before its bring-up, of a state with no flash write under way. -/
def beforeBringup (s : State) (clear : Bool) : State :=
  let s := (s.noteReset 5 0).deviceClear.modFw
    (fun w => { w with running := none, selected := false, sram := [], endNonce := none, stage := none })
  { s with dev := { s.dev with held := true, clearMem := s.dev.clearMem || clear } }

theorem beginReset_cool {s : State} (clear : Bool) (hp : s.dev.stbyPg = true) (hc : s.hotSensor = false) :
    s.beginReset clear = some (beforeBringup s.endStage clear) := by
  rw [State.beginReset, hp, hc]
  rfl

/-- A device reset that no held one joins, of a part that is not hot. -/
theorem deviceReset_cool {s : State} (bs : List BringIn) (clear : Bool) (hp : s.dev.stbyPg = true)
    (hc : s.hotSensor = false) (hh : s.dev.held = false) :
    s.deviceReset bs clear = (beforeBringup s.endStage clear).startBoot bs := by
  rw [State.deviceReset, hh, if_neg Bool.false_ne_true, beginReset_cool clear hp hc]

theorem deviceReset_held {s : State} (bs : List BringIn) (clear : Bool) (hh : s.dev.held = true) :
    s.deviceReset bs clear = { s with dev := { s.dev with clearMem := s.dev.clearMem || clear } } := if_pos hh

theorem deviceReset_hot {s : State} (bs : List BringIn) (clear : Bool) (hc : s.hotSensor = true)
    (hh : s.dev.held = false) : s.deviceReset bs clear = s := by
  rw [State.deviceReset, hh, if_neg Bool.false_ne_true, State.beginReset, hc, Bool.or_true, if_pos rfl]

/-- The device in the state before bring-up. -/
def devReset (d : DevState) (clear : Bool) : DevState :=
  { d with
    mainOn := false, ready := false, step := none, cxlWait := false, spdmDoe := .none, floorBring := none
    trip := false, spdmI3c := .none, jtag := { d.jtag with ltn := Vector.replicate 10 0, nonce := none }
    fw := { d.fw with running := none, selected := false, sram := [], endNonce := none, stage := none }
    held := true, clearMem := d.clearMem || clear }

/-- The memory that a device reset leaves: HBM, its tags and poison, and the host's. -/
def memReset (m : MemState) : MemState :=
  { host := m.host, hostPoison := m.hostPoison, hbm := m.hbm, hbmEpoch := m.hbmEpoch, hbmPoison := m.hbmPoison
    tagSyn := m.tagSyn, ilvWas := m.ilvWas }

/-- The state before bring-up, but for its floor registers and the Almanac. -/
theorem beforeBringup_frame (s : State) (clear : Bool) : beforeBringup s clear = { s with
    cells := Vector.replicate 256 {}, slices := Vector.replicate 256 {}, sync := {}, hv := {}, rx := {}
    fl := { wire := s.fl.wire }, ce := {}, hs := s.hs.sentOnly, mem := memReset s.mem
    pw := { excluded := s.pw.excluded }, dev := devReset s.dev clear
    fregs := (beforeBringup s clear).fregs, alm := (s.noteReset 5 0).alm } := by
  unfold beforeBringup State.deviceClear
  rw [noteReset_frame]
  rfl

theorem freg_beforeBringup (s : State) (clear : Bool) (a : Nat) :
    (beforeBringup s clear).freg a = (s.noteReset 5 0).deviceClear.freg a := rfl

theorem beforeBringup_seq (s : State) (clear : Bool) : (beforeBringup s clear).alm.seq = s.alm.seq + 1 := by
  rw [beforeBringup_frame]
  exact noteReset_seq s 5 0

/-- A register outside the Vigil domain has its reset value. -/
theorem freg_beforeBringup_cleared (s : State) (clear : Bool) {a : Nat} (h : vigilReg a = false) :
    (beforeBringup s clear).freg a = (floorResetVal a).toNat := by
  have hne : a ∉ clearRegs := by
    intro hm
    have hall : ∀ b ∈ clearRegs, vigilReg b = true := by decide
    rw [hall a hm] at h
    exact absurd h (by decide)
  rw [freg_beforeBringup, freg_deviceClear _ hne, if_neg]
  simp [keptReg, h]

/-- A register that a device reset keeps. -/
theorem freg_beforeBringup_kept (s : State) (clear : Bool) {a : Nat} (hk : keptReg a = true) (hc : a ∉ clearRegs)
    (hn : a ∉ noteRegs 5) : (beforeBringup s clear).freg a = s.freg a := by
  rw [freg_beforeBringup, freg_deviceClear _ hc, if_pos hk, (floorRegs_noteReset s 5 0).freg a hn]

/-- The counts of a device reset. -/
theorem beforeBringup_marks {s : State} (clear : Bool) (hw : FGood s.fregs) :
    (beforeBringup s clear).freg (FR.RST_KIND_CNT 5) = (s.freg (FR.RST_KIND_CNT 5) + 1) % 2 ^ 64 ∧
    (beforeBringup s clear).freg FR.FL_BOOT_EPOCH = (s.freg FR.FL_BOOT_EPOCH + 1) % 2 ^ 32 ∧
    bitB ((beforeBringup s clear).freg FR.RST_STATUS) 3 = false ∧ FGood (beforeBringup s clear).fregs := by
  obtain ⟨hepoch, hfatal, hgood⟩ := deviceClear_marks ((floorRegs_noteReset s 5 0).canon hw)
  refine ⟨?_, ?_, hfatal, hgood⟩
  · rw [freg_beforeBringup, freg_deviceClear _ (by decide), if_pos (by decide),
      noteReset_count 5 0 hw (by decide) (by decide)]
  · rw [freg_beforeBringup, hepoch, (floorRegs_noteReset s 5 0).freg _ (by decide)]

end Sys2Proof.Proofs
end

section
/-! The lifecycle commands (R487, R488). -/

namespace Sys2Proof.Proofs

open Sys2Proof Sys2Proof.Machine Sys2Proof.Laws

/-- A command of the endpoint runs while it is up. -/
theorem i3cCmd_up {s : State} (hp : s.dev.stbyPg = true) (hl : s.dev.fw.otp.lc ≠ 4) {r : Out} {f : State → State}
    (hr : r = s.i3cCmd f) : r = .next (f s) := by
  rw [hr, State.i3cCmd, i3cUp_of hp hl, if_pos rfl]

/-- The key of a transition over I3C: of a chip in DEVELOP to PRODUCTION, or of one in PRODUCTION to RETURNED. -/
theorem tokenKey_i3c (lc target : Nat) : tokenKey lc target false =
    if lc = 1 ∧ target = 2 then some Config.mfgKey
    else if lc = 2 ∧ target = 3 then some Config.returnKey else none := by
  unfold tokenKey
  split
  · rfl
  · rfl
  · rfl
  · next h1 h2 =>
    rw [if_neg (fun h => h1 h.1 h.2), if_neg (fun h => h2 h.1 h.2)]

section
variable {s : State} {k : TokenIn} {q : List Byte}

theorem tokenFits_false (h : k.chip.toNat ≠ s.freg FR.FL_CHIP_ID ∨ tokenKey s.dev.fw.otp.lc k.target false = none) :
    s.tokenFits k false = false := by
  rcases h with h | h
  · simp [State.tokenFits, h]
  · simp [State.tokenFits, h]

theorem tokenFits_true (hc : k.chip.toNat = s.freg FR.FL_CHIP_ID)
    (hk : tokenKey s.dev.fw.otp.lc k.target false = some q) : s.tokenFits k false = true := by
  simp [State.tokenFits, hc, hk]

theorem tokenOk_key (hk : tokenKey s.dev.fw.otp.lc k.target false = some q) : s.tokenOk k false =
    Config.ecdsaOk q (Config.tokenBytes s.dev.fw.otp.lc k.target (s.freg FR.FL_CHIP_ID)) k.signature := by
  simp only [State.tokenOk, hk]

/-- A transition that is allowed over I3C, with a Memory Clear before RETURNED alone. -/
theorem moveLc_i3c (u : State) (bs : List BringIn) (hk : tokenKey u.dev.fw.otp.lc k.target false = some q) :
    u.moveLc k.target bs = (State.modFw (if k.target = 3 then u.deviceReset bs true else u)
      (fun f => { f with otp := { f.otp with lc := k.target } })).deviceReset
        (if k.target = 3 then bs.tail else bs) false := by
  have hfirst : (u.dev.fw.otp.lc == 2 && k.target == 3) = decide (k.target = 3) := by
    rw [tokenKey_i3c] at hk
    by_cases h3 : k.target = 3
    · rw [h3] at hk ⊢
      by_cases h2 : u.dev.fw.otp.lc = 2
      · simp [h2]
      · simp [h2] at hk
    · simp [h3]
  unfold State.moveLc
  rw [hfirst]
  by_cases h3 : k.target = 3 <;> simp [h3]

end

/-- A bring-up of a device in END stops at once. -/
theorem startBoot_end {s : State} (bs : List BringIn) (hi : s.dev.inputsHold = false) (hl : s.dev.fw.otp.lc = 4) :
    s.startBoot bs = State.bootFatal { s with dev := { s.dev with held := false } } 1 0 0x0C := by
  have hl' : ({ s with dev := { s.dev with held := false } } : State).dev.fw.otp.lc = 4 := hl
  rw [State.startBoot, if_neg (by simp [hi])]
  exact if_pos hl'

/-- The end of a flash write leaves OTP, the inputs and every register as they are. -/
theorem endStage_device (s : State) : (s.endStage).dev.fw.otp = s.dev.fw.otp ∧ s.endStage.fregs = s.fregs ∧
    s.endStage.dev.rstLow = s.dev.rstLow ∧ s.endStage.dev.perstLow = s.dev.perstLow := by
  unfold State.endStage
  split
  · exact ⟨rfl, rfl, rfl, rfl⟩
  · exact ⟨rfl, rfl, rfl, rfl⟩

/-- A device reset of a device in END turns the main domain off. -/
theorem deviceReset_end {s : State} (bs : List BringIn) (hp : s.dev.stbyPg = true) (hc : s.hotSensor = false)
    (hh : s.dev.held = false) (hr : s.dev.rstLow = false) (hpe : s.dev.perstLow = false) (hl : s.dev.fw.otp.lc = 4)
    (hb : bitB (s.freg FR.SYS_BOOT_ERR) 31 = false) (hw : FGood s.fregs) :
    let t := s.deviceReset bs false
    t.dev.fw.otp = s.dev.fw.otp ∧ t.dev.mainOn = false ∧ t.dev.ready = false ∧
      t.freg FR.FL_CHIP_ID = s.freg FR.FL_CHIP_ID ∧ t.freg FR.SYS_BOOT_ERR = 2 ^ 31 + 0x1000C := by
  obtain ⟨hotp, hregs, hrst, hperst⟩ := endStage_device s
  have hfreg : ∀ a, s.endStage.freg a = s.freg a := fun a => by rw [State.freg, hregs, State.freg]
  have hdev : (beforeBringup s.endStage false).dev = devReset s.endStage.dev false := by rw [beforeBringup_frame]
  have hi : (beforeBringup s.endStage false).dev.inputsHold = false := by
    rw [hdev]
    simp [DevState.inputsHold, devReset, hrst, hr, hperst, hpe]
  have hend : (beforeBringup s.endStage false).dev.fw.otp.lc = 4 := by
    rw [hdev]
    exact (congrArg Otp.lc hotp).trans hl
  have hkept : ∀ a, keptReg a = true → a ∉ clearRegs → a ∉ noteRegs 5 →
      (beforeBringup s.endStage false).freg a = s.freg a :=
    fun a h1 h2 h3 => (freg_beforeBringup_kept _ _ h1 h2 h3).trans (hfreg a)
  have hgood : FGood (beforeBringup s.endStage false).fregs := (beforeBringup_marks false (hregs ▸ hw)).2.2.2
  intro t
  have ht : t = State.bootFatal { beforeBringup s.endStage false with
      dev := { (beforeBringup s.endStage false).dev with held := false } } 1 0 0x0C :=
    (deviceReset_cool bs false hp hc hh).trans (startBoot_end bs hi hend)
  generalize hu : ({ beforeBringup s.endStage false with
      dev := { (beforeBringup s.endStage false).dev with held := false } } : State) = u at ht
  have hufreg : ∀ a, u.freg a = (beforeBringup s.endStage false).freg a := fun a => by rw [← hu]; rfl
  have hframe := (bootFatal_frame u 1 0 0x0C).1
  obtain ⟨-, herr, hstay⟩ := bootFatal_regs (s := u) 1 0 0x0C (by rw [← hu]; exact hgood)
  rw [ht]
  refine ⟨?_, by rw [hframe]; rfl, by rw [hframe]; rfl, ?_, ?_⟩
  · rw [hframe, ← hu, hdev, ← hotp]
    rfl
  · rw [hstay _ (by decide) (by decide) (by decide), hufreg, hkept _ (by decide) (by decide) (by decide)]
  · rw [herr (by rw [hufreg, hkept _ (by decide) (by decide) (by decide), hb])]
    rfl

/-- The state that the second phase of LC_END resets: END, with the keys erased. -/
def ended (s : State) : State := (s.modFw (fun w => { w with otp := { w.otp with lc := 4, erased := true } })).i3c 0

/-- The nonce of the first phase within its time takes the device to END. -/
theorem lcEndPhase2_ends {s : State} {v : BitVec 128} {at' : Nat} (bs : List BringIn) (hp : s.dev.stbyPg = true)
    (hl : s.dev.fw.otp.lc ≠ 4) (hn : s.dev.fw.endNonce = some (v.toNat, at')) (ht : s.timeUs ≤ at' + 10000000) :
    execLcEndPhase2 v bs s = .next ((ended s).deviceReset bs false) := by
  refine (i3cCmd_up (r := execLcEndPhase2 v bs s) hp hl rfl).trans ?_
  rw [hn]
  refine congrArg Host.Outcome.next (if_pos ?_)
  simp [ht]

/-- Settles O58: the token is checked by its chip, its key and its signature; the nonce of LC_END by its value and its time. -/
theorem lifecycleTransitions : Obligations.LifecycleTransitions := by
  unfold Obligations.LifecycleTransitions
  intro s k bs n at' v w told key ok hp hl
  have hkey : tokenKey s.dev.fw.otp.lc k.target false = key := tokenKey_i3c _ _
  have hmove := i3cCmd_up (r := execLcTransition k bs s) hp hl rfl
  have hone := i3cCmd_up (r := execLcEndPhase1 s) hp hl rfl
  have htwo := i3cCmd_up (r := execLcEndPhase2 v bs s) hp hl rfl
  refine ⟨fun h => ⟨_, hmove, ?_⟩, fun q hc hk hs => ⟨_, hmove, ?_⟩, fun q hc hk hs => ?_,
    ⟨_, Config.nonce s.free % 2 ^ 128, hone, Nat.mod_lt _ (by decide), rfl⟩, fun h => ⟨_, htwo, ?_⟩,
    fun hn ht hc hh hr hpe hb hw => ?_⟩
  · rw [← hkey] at h
    simp only [tokenFits_false h]
    rfl
  · rw [← hkey] at hk
    have hok : s.tokenOk k false = false := (tokenOk_key hk).trans hs
    simp only [tokenFits_true hc hk, hok]
    rfl
  · rw [← hkey] at hk
    have hok : s.tokenOk k false = true := (tokenOk_key hk).trans hs
    have hgo : exec (.lcTransition k bs) s = .next ((told s 0).moveLc k.target bs) := by
      refine hmove.trans ?_
      simp only [tokenFits_true hc hk, hok]
      rfl
    exact ⟨_, _, hgo, moveLc_i3c (told s 0) bs hk, rfl⟩
  · split
    · next m hm =>
      have hno : (decide (m.1 = v.toNat) && decide (s.timeUs ≤ m.2 + 10000000)) = false := by
        rcases h with h | ⟨h, hbad⟩
        · exact absurd (h.symm.trans hm) (by simp)
        · obtain rfl : (n, at') = m := Option.some.inj (h.symm.trans hm)
          rcases hbad with hbad | hbad
          · simp [hbad]
          · simp [show ¬ s.timeUs ≤ at' + 10000000 by omega]
      rw [hno]
      rfl
    · rfl
  · exact ⟨_, lcEndPhase2_ends bs hp hl hn ht, deviceReset_end (s := ended s) bs hp hc hh hr hpe rfl hb hw⟩

end Sys2Proof.Proofs
end

section
/-! Device resets: the requests that lead to one, and what each leaves. -/

namespace Sys2Proof.Proofs

open Sys2Proof Sys2Proof.Machine Sys2Proof.Laws

/-- State s when a reset is requested: with the answer to the port that asks, and with the levels of the reset inputs. -/
def requested (s : State) (h : HostState) (rst perst : Bool) : State :=
  { s with hs := h, dev := { s.dev with rstLow := rst, perstLow := perst } }

section
variable {s : State} (h : HostState) (rst perst : Bool)

theorem requested_self (s : State) : requested s s.hs s.dev.rstLow s.dev.perstLow = s := rfl

theorem freg_requested (a : Nat) : (requested s h rst perst).freg a = s.freg a := rfl

/-- A request whose device reset begins. -/
theorem requested_reset (bs : List BringIn) (clear : Bool) (hp : s.dev.stbyPg = true) (hc : s.hotSensor = false)
    (hh : s.dev.held = false) (hw : s.dev.fw.writing = none) : (requested s h rst perst).deviceReset bs clear =
      (beforeBringup (requested s h rst perst) clear).startBoot bs := by
  have hend : (requested s h rst perst).endStage = requested s h rst perst := by
    have hw' : (requested s h rst perst).dev.fw.writing = none := hw
    rw [State.endStage, hw']
  rw [deviceReset_cool (s := requested s h rst perst) bs clear hp hc hh, hend]

end

section
variable {s : State} (bs : List BringIn)

/-- A reset over the link is requested while the link is up. -/
theorem cxlReset_up (h : s.hs.link ≠ .down) : exec (.cxlReset bs) s = .next (s.deviceReset bs false) ∧
    exec (.cxlResetMemoryClear bs) s = .next (s.deviceReset bs true) := by
  show execCxlReset bs s = _ ∧ execCxlResetMemoryClear bs s = _
  unfold execCxlReset execCxlResetMemoryClear
  cases hl : s.hs.link with
  | down => exact absurd hl h
  | pcie => exact ⟨rfl, rfl⟩
  | cxl => exact ⟨rfl, rfl⟩

/-- The endpoint's RESET command of kinds 0 and 1. -/
theorem reset_i3c (hp : s.dev.stbyPg = true) (hl : s.dev.fw.otp.lc ≠ 4) :
    exec (.reset 0 bs) s = .next ((s.i3c 0).deviceReset bs false) ∧
      exec (.reset 1 bs) s = .next ((s.i3c 0).deviceReset bs true) := by
  have h0 := i3cCmd_up (r := execReset 0 bs s) hp hl rfl
  have h1 := i3cCmd_up (r := execReset 1 bs s) hp hl rfl
  exact ⟨h0, h1⟩

/-- The timeout of a step of a try image resets the device. -/
theorem bringupStepTimeout_try {n : Nat} (hs : s.dev.step = some n) (h6 : 6 ≤ n) (h10 : n ≤ 10)
    (hm : s.dev.mainOn = true) (ht : s.dev.fw.asTry = true) :
    exec (.bringupStepTimeout bs) s = .next (s.deviceReset bs false) := by
  show execBringupStepTimeout bs s = _
  simp [execBringupStepTimeout, hs, h6, h10, hm, ht]

end

/-- Settles O49: each request comes to a device reset of the state with its answer or its input's level, which is joined, or
ignored while the part is hot, or begins. -/
theorem deviceResets : Obligations.DeviceResets := by
  unfold Obligations.DeviceResets
  intro s bs starts low perst
  refine ⟨fun hh hl => ?_, fun hc hh => ?_, fun hp hc hh hw hf => ?_⟩
  · obtain ⟨h1, h2⟩ := cxlReset_up bs hl
    refine ⟨⟨_, h1, ?_⟩, ⟨_, h2, ?_⟩⟩
    · rw [deviceReset_held bs false hh, Bool.or_false]
    · rw [deviceReset_held bs true hh, Bool.or_true]
  · by_cases hl : s.hs.link = .down
    · have hdown : execCxlReset bs s = .next s := by rw [execCxlReset, hl]
      exact ⟨_, hdown, rfl⟩
    · exact ⟨_, (cxlReset_up bs hl).1, deviceReset_hot bs false hc hh⟩
  · have hgo : ∀ (s0 : State) (i : Instr) (clear : Bool) (bs : List BringIn) (h : HostState),
        exec i s = .next ((requested s h s0.dev.rstLow s0.dev.perstLow).deviceReset bs clear) → starts s0 i clear bs
          := by
      intro s0 i clear bs h hi
      obtain ⟨hkind, hepoch, hfatal, -⟩ := beforeBringup_marks (s := requested s h s0.dev.rstLow s0.dev.perstLow)
        clear hf
      have hregs := fun a => freg_beforeBringup_cleared (requested s h s0.dev.rstLow s0.dev.perstLow) clear (a := a)
      have hseq := beforeBringup_seq (requested s h s0.dev.rstLow s0.dev.perstLow) clear
      rw [requested_reset h s0.dev.rstLow s0.dev.perstLow bs clear hp hc hh hw] at hi
      refine ⟨_, _, hi, rfl, ?_⟩
      generalize hu : beforeBringup (requested s h s0.dev.rstLow s0.dev.perstLow) clear = u at *
      have hframe := (beforeBringup_frame (requested s h s0.dev.rstLow s0.dev.perstLow) clear).symm.trans hu
      refine ⟨?_, ?_, ?_, ?_, ?_, ?_, ?_, ?_, ?_, ?_, ?_, ?_, ?_, ?_, hregs, hkind, hepoch, hfatal, hseq, ?_⟩
      all_goals subst hframe
      iterate 14 exact rfl
      exact ⟨rfl, rfl, rfl, rfl, rfl, rfl, rfl, rfl, rfl⟩
    refine ⟨fun hl => ?_, fun hl => ?_, fun hr => ?_, fun hr ho => ?_, fun n hs h6 h10 hm ht => ?_⟩
    · exact ⟨hgo s _ _ _ s.hs (cxlReset_up bs hl).1, hgo s _ _ _ s.hs (cxlReset_up bs hl).2⟩
    · exact ⟨hgo s _ _ _ _ (reset_i3c bs hp hl).1, hgo s _ _ _ _ (reset_i3c bs hp hl).2⟩
    · refine hgo low _ _ _ s.hs ?_
      show execDevRstAssert s = _
      rw [execDevRstAssert, if_neg (by simp [hr])]
      exact if_neg (by simp [hh])
    · refine hgo perst _ _ _ s.hs ?_
      show execCxlPerstAssert s = _
      rw [execCxlPerstAssert, if_neg (by simp [hr])]
      exact if_pos ho
    · exact hgo s _ _ _ s.hs (bringupStepTimeout_try bs hs h6 h10 hm ht)

end Sys2Proof.Proofs
end

section
/-! The steps of a bring-up (R467, R469): they keep the main domain on, and the last of them makes the device READY. -/

namespace Sys2Proof.Proofs

open Sys2Proof Sys2Proof.Machine Sys2Proof.Laws

/-! ### Lost layers leave the device as it is -/

section
variable {s0 : State}

theorem memOnly_poisonBelow {s : State} (h : MemOnly s0 s) {la : Nat} : MemOnly s0 (s.poisonBelow la) := by
  unfold State.poisonBelow
  split
  · exact memOnly_with h
  · exact memOnly_with h
  · exact h

theorem memOnly_loseCopy {s : State} (h : MemOnly s0 s) {n : CellId} {r : Resident} : MemOnly s0 (s.loseCopy n r).1
    := by
  unfold State.loseCopy
  refine memOnly_ite_fst (fun _ => ?_) (fun _ => memOnly_ite_fst (fun _ => ?_) (fun _ => memOnly_ite_fst (fun _ => h)
    (fun _ => ?_)))
  · exact memOnly_count (memOnly_poisonBelow (memOnly_setLine h)) (sliceReg_ne n (by decide))
  · exact memOnly_setLine h
  · exact memOnly_setLine h

theorem memOnly_loseCopies (n : CellId) (rs : List Resident) : ∀ (seen : List Nat) {s : State}, MemOnly s0 s →
    MemOnly s0 (State.loseCopies n rs seen s) := by
  induction rs with
  | nil => exact fun _ _ h => h
  | cons r rs ih =>
    intro seen s h
    unfold State.loseCopies
    dsimp only
    split
    · exact ih _ (memOnly_loseCopy h)
    · split
      · exact ih _ (memOnly_loseCopy h)
      · exact ih _ (memOnly_logEvent (memOnly_loseCopy h))

theorem memOnly_loseLayers {s : State} (h : MemOnly s0 s) {n : CellId} {i : Nat} : MemOnly s0 (s.loseLayers n i) := by
  unfold State.loseLayers
  extract_lets s1 lo hi s2
  have h1 : MemOnly s0 s1 := memOnly_loseCopies n _ _ h
  exact memOnly_orFreg (memOnly_ite (fun _ => memOnly_logEvent (memOnly_modSlice h1)) (fun _ => h1)) (sliceReg_ne n
    (by decide))

theorem memOnly_takePath {s : State} (h : MemOnly s0 s) {n : CellId} {i : Nat} : MemOnly s0 (s.takePath n i) := by
  unfold State.takePath
  split
  · exact memOnly_orFreg (memOnly_modSlice (memOnly_modSlice h)) (sliceReg_ne n (by decide))
  · exact memOnly_loseLayers (memOnly_modSlice h)

theorem memOnly_failPort {s : State} (h : MemOnly s0 s) {n : CellId} {i : Fin 4} : MemOnly s0 (s.failPort n i) := by
  unfold State.failPort
  extract_lets s1 sa s2
  have h1 : MemOnly s0 s1 := memOnly_modSlice h
  have h2 : MemOnly s0 s2 := by
    unfold s2
    split
    · exact memOnly_takePath (memOnly_modSlice (memOnly_modSlice h1))
    · exact h1
  split
  · exact memOnly_orFreg h2 (sliceReg_ne n (by decide))
  · exact memOnly_takePath h2

end

/-! ### The main domain stays on -/

/-- The main domain is on, and no reset is held. -/
def MainUp (s : State) : Prop := s.dev.mainOn = true ∧ s.dev.held = false

section
variable {s t : State}

theorem mainUp_of_dev (h : MainUp s) (e : t.dev = s.dev) : MainUp t := by rwa [MainUp, e]

theorem mainUp_logEvent (h : MainUp s) {a b c d e f : Nat} : MainUp (s.logEvent a b c d e f) :=
  mainUp_of_dev h (by rw [logs_logEvent s a b c d e f])

theorem mainUp_foldl {α : Type} {f : State → α → State} (l : List α) (h : MainUp s)
    (hf : ∀ s a, MainUp s → MainUp (f s a)) : MainUp (l.foldl f s) := foldl_keeps l h hf

theorem mainUp_ite {c : Prop} [Decidable c] (h : MainUp s) (g : MainUp t) : MainUp (if c then s else t) := by
  split <;> assumption

theorem mainUp_ite_fst {β : Type} {c : Prop} [Decidable c] {x y : State × β} (h : MainUp x.1) (g : MainUp y.1) :
    MainUp (if c then x else y).1 := by
  split <;> assumption

theorem mainUp_modFw (h : MainUp s) (f : FwState → FwState) : MainUp (s.modFw f) := h

theorem mainUp_atStep (h : MainUp s) (n m : Nat) : MainUp (s.atStep n m) := h

theorem mainUp_loadWeights (h : MainUp s) : MainUp s.loadWeights :=
  mainUp_foldl _ (s := { s with pw := _ }) h (fun _ _ h => h)

theorem mainUp_tryImage (h : MainUp s) (bad : List Bool) : MainUp (s.tryImage bad).1 := by
  unfold State.tryImage
  extract_lets r s1 r1
  have h1 : MainUp s1 := mainUp_modFw h _
  exact mainUp_ite_fst (mainUp_ite_fst h1 (mainUp_logEvent (mainUp_modFw h1 _)))
    (mainUp_ite_fst (mainUp_logEvent (mainUp_modFw h _)) h)

theorem mainUp_chooseImage (h : MainUp s) (bad : List Bool) : MainUp (s.chooseImage bad) := by
  have htry := mainUp_tryImage h bad
  have hsel : MainUp (s.selectImage bad).1 :=
    mainUp_ite_fst htry (mainUp_ite_fst htry (mainUp_ite_fst (mainUp_logEvent htry) htry))
  exact hsel

theorem mainUp_loadService (h : MainUp s) : MainUp s.loadService := by
  unfold State.loadService
  dsimp only
  split <;> exact h

theorem mainUp_loadStep (fuel : Nat) : ∀ {s : State} (bad : List Bool) (bs : List BringIn), MainUp s →
    MainUp (State.loadStep fuel bad bs s).1 := by
  induction fuel with
  | zero => exact fun _ _ h => h
  | succ fuel ih =>
    intro s bad bs h
    unfold State.loadStep
    extract_lets t
    have ht : MainUp t := mainUp_ite (mainUp_modFw h _) (mainUp_chooseImage h bad)
    split
    · exact ht
    · exact mainUp_ite_fst (mainUp_loadService ht) (mainUp_ite_fst ht (ih _ _ ht))

theorem mainUp_readPlatform (h : MainUp s) : MainUp s.readPlatform := by
  unfold State.readPlatform
  dsimp only
  split
  · exact h
  · exact mainUp_logEvent (s := s.modFw _) h

theorem mainUp_measure (h : MainUp s) : MainUp s.measure :=
  mainUp_foldl _ (s := s.modFw _) h (fun _ _ h => h)

theorem mainUp_calibrated (h : MainUp s) (bad : List (Fin 9)) (blocks : List Nat) : MainUp (s.calibrated bad blocks) :=
  mainUp_foldl _ h (fun _ _ h => h)

theorem mainUp_calibrateCells (h : MainUp s) (l : List (CellId × SelftestFinding)) : MainUp (s.calibrateCells l) :=
  mainUp_foldl _ h (fun _ _ h => h)

theorem mainUp_laneTest (h : MainUp s) (l : List (CellId × Fin 4 × Nat)) : MainUp (s.laneTest l) := by
  refine mainUp_foldl _ h (fun t e h => ?_)
  refine mainUp_ite (mainUp_of_dev h ?_) h
  have hf : MemOnly (t.putFreg (FR.HR_VPORT e.1) (8 * e.2.1.val + 6) (8 * e.2.1.val) (min 64 e.2.2)) _ :=
    memOnly_failPort (memOnly_refl _) (n := e.1) (i := e.2.1)
  rw [hf.1]
  rfl

theorem mainUp_setIlv (h : MainUp s) (mode : Nat) : MainUp (s.setIlv mode) := mainUp_ite h h

theorem mainUp_trainCxl (h : MainUp s) (l : LinkIn) : MainUp (s.trainCxl l) := mainUp_ite h h

theorem mainUp_platformPorts (h : MainUp s) (p : PlatformIn) : MainUp (s.platformPorts p) :=
  mainUp_ite h (mainUp_foldl _ h (fun _ _ h => h))

theorem mainUp_trainFlagen (h : MainUp s) (bad : List (Fin 18 × Fin 4 × Fin 6)) : MainUp (s.trainFlagen bad) := by
  refine mainUp_foldl _ h (fun t p h => mainUp_foldl _ h (fun u i h => mainUp_ite h ?_))
  split <;> exact h

end

/-! ### What the steps come to -/

/-- A bring-up that ends in READY ends in a state with P. -/
def ReadyWith (P : State → Prop) (r : BootRes) : Prop := ∀ w, r = .ready w → P w

section
variable {P : State → Prop} {s : State} {b : BringIn} {k : State → BootRes}

theorem readyWith_ready {w : State} (h : P w) : ReadyWith P (.ready w) := by
  rintro _ ⟨⟩
  exact h

theorem readyWith_failed (w : State) (x y z : Nat) : ReadyWith P (.failed w x y z) := by rintro _ ⟨⟩

theorem readyWith_stuckAt (n : Nat) : ReadyWith P (s.stuckAt n) := by rintro _ ⟨⟩

theorem readyWith_ite {c : Prop} [Decidable c] {x y : BootRes} (h : ReadyWith P x) (g : ReadyWith P y) :
    ReadyWith P (if c then x else y) := by
  split <;> assumption

variable (h : MainUp s) (hk : ∀ t, MainUp t → ReadyWith P (k t))
include h hk

theorem readyWith_hbmStep : ReadyWith P (s.hbmStep b k) := by
  refine readyWith_ite (readyWith_stuckAt _) ?_
  split
  · exact readyWith_failed _ _ _ _
  · exact hk _ (mainUp_calibrated (mainUp_atStep h 7 0) _ _)

theorem readyWith_cxlStep : ReadyWith P (s.cxlStep b k) :=
  readyWith_ite (readyWith_stuckAt _) (hk _ (mainUp_trainCxl (mainUp_atStep h 9 0) _))

theorem readyWith_clearStep : ReadyWith P (s.clearStep b k) :=
  readyWith_ite (hk _ h) (readyWith_ite (readyWith_stuckAt _) (hk _ h))

theorem readyWith_flagenStep {up : State → State} (hup : ∀ t, MainUp t → MainUp (up t)) :
    ReadyWith P (s.flagenStep b up k) :=
  readyWith_ite (readyWith_stuckAt _)
    (hk _ (mainUp_calibrated (mainUp_trainFlagen (hup _ (mainUp_atStep h 0x0A 0)) _) _ _))

theorem readyWith_calibrateStep (blocks : List Nat) : ReadyWith P (s.calibrateStep b blocks k) := by
  unfold State.calibrateStep
  dsimp only
  split
  · exact readyWith_failed _ _ _ _
  · exact readyWith_ite (readyWith_stuckAt _) (hk _ (mainUp_calibrated (mainUp_atStep h 6 0) _ _))

theorem readyWith_loadSteps {weigh : State → State} (hw : ∀ t, MainUp t → MainUp (weigh t)) (bs : List BringIn) :
    ReadyWith P (s.loadSteps bs weigh k) := by
  refine readyWith_ite (readyWith_failed _ _ _ _) (readyWith_ite (readyWith_failed _ _ _ _) ?_)
  have hq := mainUp_loadStep 4 [] bs (mainUp_atStep (hw _ (mainUp_atStep h 4 0)) 5 0)
  dsimp only
  split
  · exact readyWith_failed _ _ _ _
  · exact readyWith_failed _ _ _ _
  · exact hk _ hq

end

/-- A device that has come up: READY, with every stack in self-refresh. -/
def CameUp (w : State) : Prop := w.dev.ready = true ∧ w.dev.mainOn = true ∧ w.dev.step = none ∧ w.dev.held = false ∧
  w.pw.sr = 0xFFFFF ∧ w.pw.want = 100

theorem choosePoint_keeps (s : State) (want ahead : Nat) : (s.choosePoint want ahead).pw.sr = s.pw.sr ∧
    (s.choosePoint want ahead).pw.want = want ∧ (s.choosePoint want ahead).dev = s.dev := by
  unfold State.choosePoint
  dsimp only
  split <;> exact ⟨rfl, rfl, rfl⟩

theorem cameUp_becomeReady {s : State} (h : MainUp s) (us : Nat) : CameUp (s.becomeReady us) := by
  obtain ⟨hm, hh⟩ := h
  unfold State.becomeReady
  obtain ⟨hsr, hwant, hdev⟩ := choosePoint_keeps ((({ s with
    dev := { s.dev with step := none, ready := true, readyOnce := true }, timeUs := s.timeUs + us
    pw := { s.pw with sr := 0xFFFFF } } : State).atStep 0x0F 0).setFreg FR.SYS_BOOT_TIME us |>.count
      FR.SYS_BOOT_CNT) 100 0
  unfold CameUp
  dsimp only
  rw [hsr, hwant, hdev]
  exact ⟨rfl, hm, rfl, hh, rfl, rfl⟩

theorem cameUp_bootSteps (s : State) (bs : List BringIn) : ReadyWith CameUp (s.bootSteps bs) := by
  unfold State.bootSteps
  extract_lets +onlyGivenNames dev u selected
  have hu : MainUp u := ⟨rfl, rfl⟩
  refine readyWith_loadSteps hu (fun t ht => ?_) (fun t => mainUp_loadWeights) bs
  have hm := mainUp_measure (mainUp_ite (c := selected = true) ht (mainUp_readPlatform ht))
  refine readyWith_calibrateStep hm (fun t ht => ?_) _
  refine readyWith_hbmStep (mainUp_laneTest (mainUp_calibrateCells ht _) _) (fun t ht => ?_)
  refine readyWith_cxlStep (mainUp_setIlv ht _) (fun t ht => readyWith_clearStep ht (fun t ht => ?_))
  exact readyWith_flagenStep ht (fun t ht => readyWith_ready (cameUp_becomeReady ht _))
    (fun t ht => mainUp_platformPorts ht _)

end Sys2Proof.Proofs
end

section
/-! Supplies and reset inputs (R438, R439, R466 to R469, R505, R527 to R529). -/

namespace Sys2Proof.Proofs

open Sys2Proof Sys2Proof.Machine Sys2Proof.Laws

/-! ### Bring-up that starts -/

section
variable {s w : State} {bs : List BringIn}

/-- A bring-up starts at step 0x04 once no input holds it and the main power is good. -/
theorem startBoot_runs (hi : s.dev.inputsHold = false) (hl : s.dev.fw.otp.lc ≠ 4) (hm : s.dev.mainPg = true) :
    s.startBoot bs = State.runBoot 5 bs { s with dev := { s.dev with held := false } } := by
  rw [State.startBoot, if_neg (by simp [hi])]
  exact (if_neg hl).trans (if_pos hm)

theorem runBoot_ready (n : Nat) (h : s.bootSteps bs = .ready w) : State.runBoot (n + 1) bs s = w := by
  rw [State.runBoot, h]

/-- A failure that leads to no other reset turns the main domain off. -/
theorem runBoot_failed (n : Nat) {st sub code : Nat} (h : s.bootSteps bs = .failed w st sub code)
    (hc : w.dev.fw.asTry = false ∨ st < 5 ∨ code = 2) : State.runBoot (n + 1) bs s = w.bootFatal st sub code := by
  have hno : (decide (5 ≤ st) && decide (st ≤ 10) && w.dev.fw.asTry && code != 2) = false := by
    rcases hc with hc | hc | hc
    · simp [hc]
    · simp [show ¬ 5 ≤ st by omega]
    · simp [hc]
  rw [State.runBoot, h]
  exact if_neg (by simp [hno])

/-- The registers of a fatal stop whose step, substep and code are bytes. -/
theorem bootFatal_error {st sub code : Nat} (h1 : st < 2 ^ 8) (h2 : sub < 2 ^ 8) (h3 : code < 2 ^ 8)
    (hb : bitB (w.freg FR.SYS_BOOT_ERR) 31 = false) (hw : FGood w.fregs) :
    (w.bootFatal st sub code).freg FR.SYS_BOOT_ERR = 2 ^ 31 + st * 65536 + sub * 256 + code ∧
      (w.bootFatal st sub code).freg FR.SYS_BOOT_STATUS = 0xFF := by
  obtain ⟨hst, herr, -⟩ := bootFatal_regs st sub code hw
  refine ⟨(herr hb).trans (Nat.mod_eq_of_lt ?_), hst⟩
  omega

end

/-! ### Loss of a supply -/

/-- An event of a device without main domain changes nothing of the host interface. -/
theorem logEvent_hs_off {s : State} (hl : s.hs.link = .down) (hm : s.dev.mainOn = false) (a b c d e f : Nat) :
    (s.logEvent a b c d e f).hs = s.hs := by
  unfold State.logEvent
  extract_lets seq r s1 a1 s2 ev used a2 s3 s4 up host s5
  have h3 : s3.hs = s.hs := by
    unfold s3
    split <;> rfl
  have h4 : s4.hs = s.hs := by
    unfold s4
    rw [storeSevere_hs, storeRec_hs, h3]
  have hdev : s5.dev.mainOn = false := by
    have h3' : s3.dev = s.dev := by
      unfold s3
      split <;> rfl
    have h4' : s4.dev = s.dev := by
      unfold s4 State.storeSevere State.storeRec
      simp only [apply_ite State.dev, orFreg_dev, count_dev, ite_self, h3']
    unfold s5
    split
    · exact (congrArg DevState.mainOn h4').trans hm
    · exact (congrArg DevState.mainOn h4').trans hm
  have hup : up = false := by
    unfold up
    rw [h4, hl]
  have h5 : s5.hs = s.hs := by
    unfold s5
    rw [hup, Bool.and_false, if_neg Bool.false_ne_true, h4]
  rw [hdev, Bool.and_false, if_neg Bool.false_ne_true]
  split
  · rfl
  · exact h5

/-- A loss of main power, of a device that has it. -/
theorem losePower_on {s : State} (hp : s.dev.stbyPg = true) (hm : s.dev.mainPg = true) : s.losePower =
    ((State.mainLost { s with dev := { s.dev with mainPg := false, mainGone := true } }).orFreg FR.PWR_STATUS
      (2 ^ 5)).logEvent 0x0701 0 4 0 0 0 := by
  rw [State.losePower, if_neg (by simp [hp, hm])]
  rfl

/-- What a loss of main power leaves. -/
theorem losePower_leaves {s : State} (hp : s.dev.stbyPg = true) (hm : s.dev.mainPg = true) (hw : FGood s.fregs) :
    let t := s.losePower
    t.dev = devLost { s.dev with mainPg := false, mainGone := true } ∧ t.mem = memLost s.mem ∧
      t.cells = Vector.replicate 256 {} ∧ t.hs.link = .down ∧ bitB (t.freg FR.PWR_STATUS) 5 = true ∧
      t.alm.seq = s.alm.seq + 1 := by
  intro t
  have ht : t = _ := losePower_on hp hm
  generalize hu : (State.mainLost { s with dev := { s.dev with mainPg := false, mainGone := true } }).orFreg
    FR.PWR_STATUS
    (2 ^ 5) = u at ht
  have hlog : Logs u t := ht ▸ logs_logEvent u _ _ _ _ _ _
  have hlink : u.hs.link = .down := by rw [← hu]; rfl
  have hhs : t.hs = u.hs := by rw [ht]; exact logEvent_hs_off hlink (by rw [← hu]; rfl) _ _ _ _ _ _
  refine ⟨by rw [hlog, ← hu]; rfl, by rw [hlog, ← hu]; rfl, by rw [hlog, ← hu]; rfl, by rw [hhs, hlink], ?_, ?_⟩
  · rw [ht, (floorRegs_logEvent u _ _ _ _ _ _).freg _ (by decide), ← hu]
    exact bitB_orFreg_self (k := 5) FR.PWR_STATUS (by decide) (fgood_clearMain hw)
  · rw [ht, logEvent_seq, ← hu]
    rfl

/-! ### Steps 0x00 to 0x03 -/

/-- Standby power is good, and the main domain is off: what the steps 0x00 to 0x03 keep. -/
structure Cold (lc : Nat) (fl : FlState) (t : State) : Prop where
  power : t.dev.stbyPg = true
  off : t.dev.mainOn = false
  cells : t.cells = Vector.replicate 256 {}
  fl : t.fl = fl
  lc : t.dev.fw.otp.lc = lc

section
variable {lc : Nat} {fl : FlState} {s : State}

theorem Cold.modFw (h : Cold lc fl s) {f : FwState → FwState} (hf : (f s.dev.fw).otp.lc = s.dev.fw.otp.lc) :
    Cold lc fl (s.modFw f) := ⟨h.power, h.off, h.cells, h.fl, hf.trans h.lc⟩

theorem Cold.atStep (h : Cold lc fl s) (n m : Nat) : Cold lc fl (s.atStep n m) := ⟨h.power, h.off, h.cells, h.fl, h.lc⟩

theorem Cold.logEvent (h : Cold lc fl s) (a b c d e f : Nat) : Cold lc fl (s.logEvent a b c d e f) := by
  rw [logs_logEvent s a b c d e f]
  exact ⟨h.power, h.off, h.cells, h.fl, h.lc⟩

theorem Cold.ite {c : Prop} [Decidable c] {t : State} (h : Cold lc fl s) (g : Cold lc fl t) :
    Cold lc fl (if c then s else t) := by
  split <;> assumption

theorem Cold.ite_fst {β : Type} {c : Prop} [Decidable c] {x y : State × β} (h : Cold lc fl x.1) (g : Cold lc fl y.1) :
    Cold lc fl (if c then x else y).1 := by
  split <;> assumption

theorem lc_writeRecord (w : FwState) (r : BootRec) : (w.writeRecord r).otp = w.otp := by
  unfold FwState.writeRecord
  split <;> rfl

theorem Cold.chooseImage (h : Cold lc fl s) (bad : List Bool) : Cold lc fl (s.chooseImage bad) := by
  have hrec : ∀ {t : State} (r : BootRec), Cold lc fl t → Cold lc fl (t.modFw (fun w => w.writeRecord r)) :=
    fun r ht => ht.modFw (congrArg Otp.lc (lc_writeRecord _ r))
  have htry : Cold lc fl (s.tryImage bad).1 := by
    unfold State.tryImage
    extract_lets r s1 r1
    have h1 : Cold lc fl s1 := hrec _ h
    exact .ite_fst (.ite_fst h1 ((hrec _ h1).logEvent _ _ _ _ _ _)) (.ite_fst ((hrec _ h).logEvent _ _ _ _ _ _) h)
  have hsel : Cold lc fl (s.selectImage bad).1 :=
    .ite_fst htry (.ite_fst htry (.ite_fst (htry.logEvent _ _ _ _ _ _) htry))
  unfold State.chooseImage
  refine Cold.modFw hsel ?_
  rfl

theorem Cold.readPlatform (h : Cold lc fl s) : Cold lc fl s.readPlatform := by
  unfold State.readPlatform
  extract_lets w i why
  refine .ite (Cold.modFw h ?_) (Cold.logEvent (Cold.modFw h ?_) _ _ _ _ _ _)
  · rfl
  · rfl

theorem Cold.bootFatal {wire : List (Nat × List Byte)} (h : Cold lc { wire := wire } s) (x y z : Nat) :
    Cold lc { wire := wire } (s.bootFatal x y z) := by
  obtain ⟨hdev, -, hcells, hfl⟩ := bootFatal_frame s x y z
  exact ⟨by rw [hdev]; exact h.power, by rw [hdev]; rfl, hcells, by rw [hfl, h.fl], by rw [hdev]; exact h.lc⟩

/-- A patch that OTP does not require is loaded or is passed over. -/
theorem Cold.loadPatch (h : Cold lc fl s) (hf : s.dev.fw.otp.floors.1 = 0) :
    Cold lc fl s.loadPatch.1 ∧ s.loadPatch.2 = true := by
  unfold State.loadPatch
  extract_lets w b s1
  have hf1 : w.otp.floors.1 = 0 := hf
  split
  · refine ⟨Cold.modFw (f := fun w => { w with patch := some b }) h ?_, rfl⟩
    rfl
  · refine ⟨Cold.logEvent (Cold.modFw h ?_) _ _ _ _ _ _, rfl⟩
    rfl

end

/-- The steps 0x00 to 0x03 of a device that OTP does not bind to a patch leave it cold, in step 0x03 where an image of
service firmware runs. -/
theorem cold_vigilSteps {lc : Nat} {wire : List (Nat × List Byte)} {s : State} (h : Cold lc { wire := wire } s) (hl
    : lc ≠ 4)
    (hf : s.dev.fw.otp.floors.1 = 0) :
    Cold lc { wire := wire } s.vigilSteps ∧ (s.vigilSteps.dev.fw.running ≠ none → s.vigilSteps.dev.step = some 3) := by
  have hburn : s.dev.fw.burnBlock.otp.lc = s.dev.fw.otp.lc ∧ s.dev.fw.burnBlock.otp.floors = s.dev.fw.otp.floors := by
    unfold FwState.burnBlock
    split <;> exact ⟨rfl, rfl⟩
  have h1 : Cold lc { wire := wire } ((s.modFw FwState.burnBlock).atStep 1 0) := (h.modFw hburn.1).atStep 1 0
  have hf1 : ((s.modFw FwState.burnBlock).atStep 1 0).dev.fw.otp.floors.1 = 0 := (congrArg Prod.fst hburn.2).trans hf
  obtain ⟨h2, hok⟩ := h1.loadPatch hf1
  unfold State.vigilSteps
  extract_lets s1 p s2 s3 s4
  have hp : Cold lc { wire := wire } s2 := h2
  have hpatch : p.2 = true := hok
  have hnot : ¬ s2.dev.fw.otp.lc = 4 := by
    rw [hp.lc]
    exact hl
  have h3 : Cold lc { wire := wire } s3 := ((hp.atStep 2 0).readPlatform).chooseImage []
  clear_value s3
  have h4 : Cold lc { wire := wire } s4 := by
    refine Cold.modFw h3 ?_
    rfl
  clear_value s4
  rw [if_neg hnot, if_neg (by simp [hpatch])]
  split
  · next hr =>
    refine ⟨h3.bootFatal 2 0 2, fun hne => absurd ?_ hne⟩
    rw [(bootFatal_frame s3 2 0 2).1]
    exact Option.isNone_iff_eq_none.1 hr
  · exact ⟨⟨h4.power, h4.off, h4.cells, h4.fl, h4.lc⟩, fun _ => rfl⟩

/-! ### What the supplies and the inputs do -/

section
variable {s w : State} {bs : List BringIn}

/-- A rise of standby power begins a cold start. -/
theorem stbyPgRise_cold (hp : s.dev.stbyPg = false) (hl : s.dev.fw.otp.lc ≠ 4) (hf : s.dev.fw.otp.floors.1 = 0) :
    ∃ t : State, execStbyPgRise s = .next t ∧ Cold s.dev.fw.otp.lc { wire := s.fl.wire } t ∧
      (t.dev.fw.running ≠ none → t.dev.step = some 3) := by
  have hoff : Cold s.dev.fw.otp.lc { wire := s.fl.wire }
      { s.off with dev := { s.off.dev with stbyPg := true } } := ⟨rfl, rfl, rfl, rfl, rfl⟩
  have hlog := hoff.logEvent 0x0A01 0 0 0 0 0
  have hf' : (State.logEvent { s.off with dev := { s.off.dev with stbyPg := true } } 0x0A01 0 0 0 0
    0).dev.fw.otp.floors.1
      = 0 := by
    rw [logs_logEvent]
    exact hf
  refine ⟨_, ?_, cold_vigilSteps hlog hl hf'⟩
  rw [execStbyPgRise, if_neg (by simp [hp])]

/-- A rise of main power begins bring-up. -/
theorem mainPgRise_boots (hp : s.dev.stbyPg = true) (hm : s.dev.mainPg = false) (hb : s.mayBoot = true)
    (hh : s.dev.held = false) (hr : s.dev.rstLow = false) (hg : s.dev.mainGone = false) : execMainPgRise bs s =
      .next (State.runBoot 5 bs { s with
        dev := { s.dev with mainPg := true, readyOnce := false, mainGone := false, held := false } }) := by
  have hlc : s.dev.fw.otp.lc ≠ 4 := by
    have hall := hb
    simp only [State.mayBoot, Bool.and_eq_true, bne_iff_ne] at hall
    exact hall.1.1.1
  have hboot : (s.mayBoot && !s.dev.held) = true := by simp [hb, hh]
  rw [execMainPgRise, if_neg (by simp [hp, hm])]
  simp only [hg, hboot, if_true, Bool.false_eq_true, if_false]
  exact congrArg Host.Outcome.next (startBoot_runs (by simp [DevState.inputsHold, hr]) hlc rfl)

/-- The release of an input that alone holds a reset begins bring-up. -/
theorem devRstRelease_boots (hr : s.dev.rstLow = true) (hpe : s.dev.perstLow = false) (hh : s.dev.held = true)
    (hl : s.dev.fw.otp.lc ≠ 4) (hm : s.dev.mainPg = true) : execDevRstRelease bs s =
      .next (State.runBoot 5 bs { s with dev := { s.dev with rstLow := false, held := false } }) := by
  rw [execDevRstRelease, if_neg (by simp [hr])]
  refine (if_pos hh).trans ?_
  exact congrArg Host.Outcome.next (startBoot_runs (by simp [DevState.inputsHold, hpe]) hl hm)

theorem cxlPerstRelease_boots (hpe : s.dev.perstLow = true) (hr : s.dev.rstLow = false) (hh : s.dev.held = true)
    (hc : s.dev.cxlWait = false) (hl : s.dev.fw.otp.lc ≠ 4) (hm : s.dev.mainPg = true) : execCxlPerstRelease bs s =
      .next (State.runBoot 5 bs { s with dev := { s.dev with perstLow := false, held := false } }) := by
  rw [execCxlPerstRelease, if_neg (by simp [hpe])]
  simp only [hc, hh, Bool.false_eq_true, if_false, if_true]
  exact congrArg Host.Outcome.next (startBoot_runs (by simp [DevState.inputsHold, hr]) hl hm)

/-- Before READY the level of CXL_PERST_N holds the port alone. -/
theorem cxlPerstAssert_port (hpe : s.dev.perstLow = false) (hr : s.dev.readyOnce = false) : execCxlPerstAssert s =
    .next { s with dev := { s.dev with perstLow := true, cxlWait := s.dev.cxlWait || s.hs.link != .down }
                   hs := { s.hs with link := .down } } := by
  rw [execCxlPerstAssert, if_neg (by simp [hpe])]
  refine (if_neg (by simp [hr])).trans ?_
  cases hl : s.hs.link with
  | down =>
    have hhs : ({ s.hs with link := .down } : HostState) = s.hs := by rw [← hl]
    rw [hhs]
    simp
  | pcie => simp
  | cxl => simp

end

/-- Settles O51: a bring-up that starts runs its steps, whose end is READY or the fatal stop; a supply that falls leaves what
mainLost and off say. -/
theorem suppliesAndBringUp : Obligations.SuppliesAndBringUp := by
  unfold Obligations.SuppliesAndBringUp
  intro s bs w st sub code n good lost up
  have hgood : ∀ {i : Instr} {u : State}, exec i s = .next (State.runBoot 5 bs u) → good i u := by
    intro i u hi
    refine ⟨fun h => ⟨_, hi, runBoot_ready 4 h, cameUp_bootSteps u bs w h⟩, fun h hc h1 h2 h3 hb hw => ?_⟩
    rw [runBoot_failed 4 h hc] at hi
    obtain ⟨hdev, hmem, -, -⟩ := bootFatal_frame w st sub code
    exact ⟨_, hi, by rw [hdev]; rfl, by rw [hmem]; rfl, bootFatal_error h1 h2 h3 hb hw⟩
  have hlost : ∀ {i : Instr}, exec i s = .next s.losePower → lost i := by
    intro i hi hp hm hw
    obtain ⟨hdev, hmem, hcells, hlink, hst, hseq⟩ := losePower_leaves hp hm hw
    exact ⟨_, hi, by rw [hdev]; rfl, by rw [hdev]; rfl, by rw [hdev]; rfl, by rw [hdev]; rfl, by rw [hdev]; rfl,
      hmem, hcells, hlink, hst, hseq, by rw [hdev]; rfl⟩
  refine ⟨hlost rfl, hlost rfl, fun hp => ⟨s.off, ?_, rfl, rfl, rfl, rfl, fun hw => ?_, rfl, rfl, rfl⟩, fun hp hl hf
    => ?_,
    fun hp hm hb hh hr _ hg => hgood (mainPgRise_boots hp hm hb hh hr hg),
    fun hr hpe hh hl hm => hgood (devRstRelease_boots hr hpe hh hl hm),
    fun hpe hr hh hc hl hm => hgood (cxlPerstRelease_boots hpe hr hh hc hl hm),
    fun hpe hr => ⟨_, cxlPerstAssert_port hpe hr, rfl, rfl⟩, fun hpe hh hc => ⟨_, ?_, rfl⟩,
    fun hs h6 h10 hm ht hb hw => ?_⟩
  · exact if_pos hp
  · show s.dev.fw.breakOff.flash = _
    rw [FwState.breakOff, hw]
  · obtain ⟨t, ht, hcold, hstep⟩ := stbyPgRise_cold hp hl hf
    exact ⟨t, ht, hcold.power, hcold.off, hcold.cells, hcold.fl, hcold.lc, hstep⟩
  · show execCxlPerstRelease bs s = _
    rw [execCxlPerstRelease, if_neg (by simp [hpe])]
    simp only [hc, hh, if_true, Bool.false_eq_true, if_false]
  · have hgo : exec (.bringupStepTimeout bs) s =
        .next (s.bootFatal n (bits (s.freg FR.SYS_BOOT_STATUS) 15 8) 0x0B) := by
      show execBringupStepTimeout bs s = _
      simp [execBringupStepTimeout, hs, h6, h10, hm, ht]
    refine ⟨_, hgo, by rw [(bootFatal_frame _ _ _ _).1]; rfl,
      bootFatal_error (by omega) (Nat.mod_lt _ (by decide)) (by decide) hb hw⟩

end Sys2Proof.Proofs
end

section
/-! Firmware updates (R477, R478, R483 to R486): the commands of root firmware, the boot control record, and the end of a
flash write. -/

namespace Sys2Proof.Proofs

open Sys2Proof Sys2Proof.Machine Sys2Proof.Laws

/-! ### Commands -/

section
variable {s : State} (hp : s.dev.stbyPg = true) (hl : s.dev.fw.otp.lc ≠ 4)
include hp hl

/-- Root firmware that writes no image carries a command out. -/
theorem fwCmd_idle (hw : s.dev.fw.writing = none) {r : Out} {f : State → State} (hr : r = s.fwCmd f) : r = .next (f
    s) := by
  rw [i3cCmd_up (f := fun s => if s.dev.fw.writing.isSome then s.i3c 2 else f s) hp hl hr, hw]
  rfl

/-- Root firmware that writes an image is busy. -/
theorem fwCmd_busy (hw : s.dev.fw.writing ≠ none) {r : Out} {f : State → State} (hr : r = s.fwCmd f) :
    r = .next (s.i3c 2) := by
  rw [i3cCmd_up (f := fun s => if s.dev.fw.writing.isSome then s.i3c 2 else f s) hp hl hr,
    if_pos (Option.isSome_iff_ne_none.2 hw)]

end

/-- Every firmware command finds root firmware busy while an image is being written. -/
theorem fwCmds_busy {s : State} (hp : s.dev.stbyPg = true) (hl : s.dev.fw.otp.lc ≠ 4) (hw : s.dev.fw.writing ≠ none)
    (ty len off : Nat) (bytes : List Byte) : ∀ i ∈ [Instr.fwStageBegin ty len, .fwStageData off bytes,
      .fwStageHbm off len, .fwStageEnd, .fwActivate false [], .fwConfirm, .fwCommitSvn ty, .fwPatchSelect ty []],
      exec i s = .next (s.i3c 2) := by
  have h1 := fwCmd_busy hp hl hw (r := execFwStageBegin ty len s) rfl
  have h2 := fwCmd_busy hp hl hw (r := execFwStageData off bytes s) rfl
  have h3 := fwCmd_busy hp hl hw (r := execFwStageHbm off len s) rfl
  have h4 := fwCmd_busy hp hl hw (r := execFwStageEnd s) rfl
  have h5 := fwCmd_busy hp hl hw (r := execFwActivate false [] s) rfl
  have h6 := fwCmd_busy hp hl hw (r := execFwConfirm s) rfl
  have h7 := fwCmd_busy hp hl hw (r := execFwCommitSvn ty s) rfl
  have h8 := fwCmd_busy hp hl hw (r := execFwPatchSelect ty [] s) rfl
  simp only [List.forall_mem_cons, List.not_mem_nil, IsEmpty.forall_iff, implies_true, and_true]
  exact ⟨h1, h2, h3, h4, h5, h6, h7, h8⟩

/-! ### The boot control record (R478) -/

/-- An update of the record changes its copies alone. -/
theorem writeRecord_frame (w : FwState) (r : BootRec) :
    w.writeRecord r = { w with copies := (w.writeRecord r).copies } := by
  unfold FwState.writeRecord
  dsimp only
  split <;> rfl

/-- An update of the record is the record in use from then on, with the next sequence number. -/
theorem record_writeRecord (w : FwState) (r : BootRec) :
    (w.writeRecord r).record = { r with seq := w.record.seq + 1 } := by
  unfold FwState.writeRecord FwState.record FwState.secondCopy
  rcases hcopies : w.copies with ⟨_ | a, _ | b⟩
  · simp
  · simp
  · simp
  · by_cases h : a.seq < b.seq
    · simp [h, show ¬ b.seq + 1 < b.seq by omega]
    · simp [h]

/-! ### Flash -/

/-- A range that is written reads back, and the rest is as it was. -/
theorem smap_get_setRange {α : Type} [DecidableEq α] (d : Nat → α) (x : α) (vs : List α) : ∀ (m : SMap α) (k a : Nat),
    SMap.wf d m = true → SMap.get d (SMap.setRange d m k vs) a =
      if k ≤ a ∧ a < k + vs.length then vs.getD (a - k) x else SMap.get d m a := by
  induction vs with
  | nil =>
    intro m k a _
    rw [SMap.setRange, if_neg (by rw [List.length_nil]; omega)]
  | cons v vs ih =>
    intro m k a hw
    rw [SMap.setRange, ih _ _ _ (smap_wf_set _ _ _ _ hw)]
    by_cases hk : a = k
    · subst hk
      rw [if_neg (by omega), smap_get_set_self _ _ _ _ hw, if_pos (by simp)]
      simp
    · rw [smap_get_set_other _ _ _ hk]
      by_cases hin : k + 1 ≤ a ∧ a < k + 1 + vs.length
      · rw [if_pos hin, if_pos (by simp; omega), show a - k = (a - (k + 1)) + 1 by omega, List.getD_cons_succ]
      · rw [if_neg hin, if_neg (by simp; omega)]

/-- The offset at which a verified image is written. -/
theorem stageOff_eq (w : FwState) (ty : Nat) : w.stageOff ty =
    if ty = 1 then (if w.otp.patchBits % 2 = 1 then 0 else 0x20000)
    else if ty = 2 then (if (w.running.getD w.record.active) = true then 0x1000000 else 0x1800000) else 0x50000 := by
  have hp : patchOff (!w.otp.patchSlot) = if w.otp.patchBits % 2 = 1 then 0 else 0x20000 := by
    by_cases h : w.otp.patchBits % 2 = 1 <;> simp [patchOff, Otp.patchSlot, b2n, h]
  have hs : slotOff w.idleSlot = if (w.running.getD w.record.active) = true then 0x1000000 else 0x1800000 := by
    cases h : w.running.getD w.record.active <;> simp [slotOff, FwState.idleSlot, b2n, h]
  rw [FwState.stageOff, hp, hs]
  rfl

/-- The end of a flash write. -/
theorem endStage_writes {u : State} {ty : Nat} {img : List Byte} (h : u.dev.fw.writing = some (ty, img)) :
    u.endStage.dev.fw = { u.dev.fw with
      writing := none, staged := u.dev.fw.staged || ty == 2
      flash := SMap.setRange ffByte u.dev.fw.flash (u.dev.fw.stageOff ty) img } := by
  rw [State.endStage, h]
  rfl

/-- An interval of the Vigil oscillator ends a flash write, whether or not a sensor trips in it. -/
theorem powerInterval_endStage {s : State} (i : IntervalIn) (hp : s.dev.stbyPg = true)
    (hmain : s.dev.mainOn = true → s.fl.loop = [] ∧ ∀ e ∈ s.fl.ctx, e.2.waiting = false)
    (hbring : s.dev.floorBring = none) (hpoison : s.hv.poisonOwed = false) :
    ∃ u : State, exec (.powerInterval i) s = .next u.endStage ∧ u.dev.fw = s.dev.fw := by
  by_cases hcool : s.dev.trip = true ∨ (sensed (later s) i).tripCause = none
  · obtain ⟨R, hR⟩ := sensed_later s i
    have hfl : (sensed (later s) i).fl = s.fl := by rw [hR]
    have hdev : (sensed (later s) i).dev = s.dev := by rw [hR]
    have hhv : (sensed (later s) i).hv = s.hv := by rw [hR]
    have hctl := controlStep_controlled (sensed (later s) i) (if s.dev.mainOn then i.acts else [])
    generalize hu : (sensed (later s) i).controlStep (if s.dev.mainOn then i.acts else []) = u at hctl
    have hud : u.dev = s.dev := hctl.dev.trans hdev
    have huf : u.fl = s.fl := hctl.fl.trans hfl
    have huh : u.hv = s.hv := (controlled_hv hctl).trans hhv
    have htime : u.flTime = u := by
      by_cases hm : s.dev.mainOn = true
      · exact flTime_still (by rw [huf]; exact (hmain hm).1) (by rw [huf]; exact (hmain hm).2)
      · exact flTime_off (by rw [hud]; exact Bool.not_eq_true _ ▸ hm)
    obtain ⟨w, hw⟩ := endStage_frame u
    refine ⟨u, ?_, by rw [hud]⟩
    rw [exec_powerInterval hp, readSensors_cool (s := later s) hcool]
    dsimp only
    rw [hdev, hu, htime, floorBringup_none (by rw [hw]; exact (congrArg DevState.floorBring hud).trans hbring),
      payPoison_none (by rw [hw]; exact (congrArg HvState.poisonOwed huh).trans hpoison)]
  · rw [not_or] at hcool
    obtain ⟨htrip, hcause⟩ := hcool
    obtain ⟨cause, hcause⟩ := Option.ne_none_iff_exists'.1 hcause
    refine ⟨_, exec_powerInterval_trips hp (Bool.not_eq_true _ ▸ htrip) hcause, ?_⟩
    obtain ⟨R, A, H, hframe⟩ := tripNow_frame (sensed (later s) i) cause
    rw [(controlStep_controlled _ _).dev, hframe]
    show (sensed (later s) i).dev.fw = s.dev.fw
    rw [sensed_dev]

/-! ### What the commands leave -/

/-- Bytes are buffered in an open staging where they fit. -/
theorem stageBytes_open {s : State} {g : Staging} (hs : s.dev.fw.stage = some g) (off : Nat) (bs : List Byte) :
    s.stageBytes off bs =
    if g.len < off + bs.length then s.i3c 3
    else (s.modFw (fun w => { w with stage := some { g with data := SMap.setRange ffByte g.data off bs } })).i3c 0 := by
  rw [State.stageBytes, hs]

section
variable {s : State} {g : Staging} (hp : s.dev.stbyPg = true) (hl : s.dev.fw.otp.lc ≠ 4) (hw : s.dev.fw.writing = none)
include hp hl hw

/-- A staging that fits is opened, one at a time. -/
theorem fwStageBegin_idle (ty len : Nat) :
    (s.dev.fw.stage ≠ none → execFwStageBegin ty len s = .next (s.i3c 1)) ∧
    (s.dev.fw.stage = none → 1 ≤ ty → ty ≤ 3 → 4096 ≤ len → len ≤ 4096 + maxBody ty → execFwStageBegin ty len s =
      .next ((s.modFw (fun w => { w with stage := some { ty, len } })).i3c 0)) := by
  have h := fwCmd_idle hp hl hw (r := execFwStageBegin ty len s) rfl
  refine ⟨fun hs => h.trans ?_, fun hs h1 h2 h3 h4 => h.trans ?_⟩
  · exact congrArg Host.Outcome.next (if_pos (Option.isSome_iff_ne_none.2 hs))
  · have hfit : ¬ (decide (ty < 1) || decide (3 < ty) || decide (len < 4096) || decide (4096 + maxBody ty < len)) =
      true := by
      simp only [Bool.or_eq_true, decide_eq_true_eq]
      omega
    exact congrArg Host.Outcome.next ((if_neg (by simp [hs])).trans (if_neg hfit))

theorem fwStageData_idle {bytes : List Byte} (h : bytes.length ≤ 1024) (off : Nat) :
    execFwStageData off bytes s = .next (s.stageBytes off bytes) :=
  (fwCmd_idle hp hl hw (r := execFwStageData off bytes s) rfl).trans
    (congrArg Host.Outcome.next (if_neg (Nat.not_lt.2 h)))

/-- A range of HBM that can be read is buffered. -/
theorem fwStageHbm_idle {pa len : Nat} (hm : s.dev.mainOn = true) (htop : pa + len ≤ hbmTop)
    (hq : ∀ q ∈ linesOf pa len, s.hostBlocks q.1 false = [] ∧ (s.absent q.1 = true → s.rawAsleep (q.1 * 256) = none)) :
    execFwStageHbm pa len s = .next (s.stageBytes 0 (s.latestRange pa len)) := by
  refine (fwCmd_idle hp hl hw (r := execFwStageHbm pa len s) rfl).trans (congrArg Host.Outcome.next ?_)
  have hhost : ((linesOf pa len).any (fun q => s.hostBlocks q.1 false != [])) = false := by
    rw [List.any_eq_false]
    exact fun q hm => by simp [(hq q hm).1]
  have hawake : (linesOf pa len).findSome? (fun q => if s.absent q.1 then s.rawAsleep (q.1 * 256) else none) = none
    := by
    rw [List.findSome?_eq_none_iff]
    intro q hm
    split
    · exact (hq q hm).2 ‹_›
    · rfl
  refine (if_neg (by simp [hm])).trans ((if_neg (by omega)).trans ((if_neg (by simp [hhost])).trans ?_))
  rw [hawake]

/-- The end of a staging verifies its image. -/
theorem fwStageEnd_idle (hs : s.dev.fw.stage = some g) :
    let img := (List.range g.len).map (fun k => SMap.get ffByte g.data k)
    execFwStageEnd s = .next (if s.dev.fw.otp.verifies g.ty (img.take 4096) (img.drop 4096)
      then (s.modFw (fun w => { w with stage := none, writing := some (g.ty, img) })).i3c 0
      else (s.modFw (fun w => { w with stage := none })).i3c 4) := by
  intro img
  have himg : SMap.getRange ffByte g.data 0 g.len = img := by
    rw [getRange_eq_map]
    simp only [Nat.zero_add]
    rfl
  refine (fwCmd_idle hp hl hw (r := execFwStageEnd s) rfl).trans (congrArg Host.Outcome.next ?_)
  rw [hs]
  dsimp only
  rw [himg]
  rfl

/-- FW_ACTIVATE without a reset asks for three tries of the other slot. -/
theorem fwActivate_idle (bs : List BringIn) (flag : Bool) : execFwActivate flag bs s =
    .next (let u := (s.modFw (fun w => w.writeRecord { w.record with
        trySlot := w.idleSlot, tryPending := true, triesLeft := 3 })).i3c 0
      if flag then u.deviceReset bs false else u) :=
  fwCmd_idle hp hl hw (r := execFwActivate flag bs s) rfl

/-- FW_CONFIRM makes a try image that runs the active one. -/
theorem fwConfirm_idle : (∀ b, s.dev.fw.running = some b → s.dev.fw.asTry = true → execFwConfirm s =
      .next ((s.modFw (fun w => { (w.writeRecord { w.record with active := b, tryPending := false, triesLeft := 0 })
        with
        asTry := false })).i3c 0)) ∧
    (s.dev.fw.asTry = false → execFwConfirm s = .next (s.i3c 1)) := by
  have h := fwCmd_idle hp hl hw (r := execFwConfirm s) rfl
  refine ⟨fun b hb ht => h.trans (congrArg Host.Outcome.next ?_), fun ht => h.trans (congrArg Host.Outcome.next ?_)⟩
  · rw [hb]
    exact if_pos ht
  · split
    · exact if_neg (by simp [ht])
    · rfl

/-- FW_COMMIT_SVN raises the floor of a type to the version of the image that runs, as far as its thermometer goes. -/
theorem fwCommitSvn_idle {ty v : Nat} (h1 : 1 ≤ ty) (h3 : ty ≤ 3) (hv : s.dev.fw.runningSvn ty = some v) :
    execFwCommitSvn ty s = .next (if v ≤ 64 then (s.modFw (fun w => { w with otp := w.otp.raise ty v })).i3c 0
      else s.i3c 1) := by
  refine (fwCmd_idle hp hl hw (r := execFwCommitSvn ty s) rfl).trans (congrArg Host.Outcome.next ?_)
  have hty : ¬ (decide (ty < 1) || decide (3 < ty)) = true := by
    simp only [Bool.or_eq_true, decide_eq_true_eq]
    omega
  rw [if_neg hty, hv]

/-- FW_PATCH_SELECT blows the next bit of the thermometer where the patch in the other slot verifies. -/
theorem fwPatchSelect_idle (b : Bool) (bs : List BringIn) : execFwPatchSelect (b2n b) bs s = .next
    (if (s.dev.fw.otp.patchSlot == b || decide (32 ≤ s.dev.fw.otp.patchBits)) = true then s.i3c 1
    else if (!s.dev.fw.good 1 (patchOff b)) = true then s.i3c 4
    else ((s.modFw (fun w => { w with otp := { w.otp with patchBits := w.otp.patchBits + 1 } })).i3c
      0).loadPatch.1.deviceReset bs false) := by
  refine (fwCmd_idle hp hl hw (r := execFwPatchSelect (b2n b) bs s) rfl).trans (congrArg Host.Outcome.next ?_)
  cases b <;> rfl

end

/-- A raised floor is the greater of the two, and the floors of the other types stay. -/
theorem floor_raised (o : Otp) {ty k : Nat} (v : Nat) (h1 : 1 ≤ ty) (h3 : ty ≤ 3) (hk1 : 1 ≤ k) (hk3 : k ≤ 3) :
    (o.raise ty v).floor k = if k = ty then max (o.floor k) v else o.floor k := by
  have hty : ty = 1 ∨ ty = 2 ∨ ty = 3 := by omega
  have hk : k = 1 ∨ k = 2 ∨ k = 3 := by omega
  rcases hty with rfl | rfl | rfl <;> rcases hk with rfl | rfl | rfl <;> rfl

/-- The patch slot of the next bit of the thermometer is the other one. -/
theorem patchSlot_next {o : Otp} {b : Bool} (h : b ≠ (o.patchBits % 2 == 1)) :
    Otp.patchSlot { o with patchBits := o.patchBits + 1 } = b := by
  have hne : ((o.patchBits + 1) % 2 == 1) = !(o.patchBits % 2 == 1) := by
    rcases Nat.mod_two_eq_zero_or_one o.patchBits with h0 | h0 <;> simp [Nat.add_mod, h0]
  rw [Otp.patchSlot, hne]
  cases b <;> cases hb : (o.patchBits % 2 == 1) <;> simp_all

/-- A patch that verifies is loaded. -/
theorem loadPatch_good {s : State} {b : Bool} (hb : s.dev.fw.otp.patchSlot = b) (hg : s.dev.fw.good 1 (patchOff b) =
    true) :
    s.loadPatch.1 = s.modFw (fun w => { w with patch := some b }) := by
  subst hb
  rw [State.loadPatch, if_pos hg]

/-- Settles O57: each command of idle root firmware is its own function of the firmware's state. -/
theorem firmwareUpdates : Obligations.FirmwareUpdates := by
  unfold Obligations.FirmwareUpdates
  constructor
  · intro s ty len off bytes g w answers img hp hl
    refine ⟨fun hw i hi => ⟨_, fwCmds_busy hp hl hw ty len off bytes i hi, rfl⟩, fun kind x i hw hmain hbring
      hpoison hf => ?_,
      fun hw => ⟨fun hs => ⟨_, (fwStageBegin_idle hp hl hw ty len).1 hs, rfl⟩,
        fun hs h1 h3 h4 h5 => ⟨_, (fwStageBegin_idle hp hl hw ty len).2 hs h1 h3 h4 h5, rfl⟩, fun hs hb hfit => ?_,
        fun hs hb hfit => ?_, fun pa hs hm htop hq hlen => ?_, fun hs hv => ?_, fun hs hv => ?_⟩⟩
    · intro at'
      obtain ⟨u, hu, hfw⟩ := powerInterval_endStage i hp hmain hbring hpoison
      have hend := endStage_writes (u := u) (by rw [hfw]; exact hw)
      rw [hfw, stageOff_eq] at hend
      refine ⟨_, hu, by rw [hend], fun a => ?_⟩
      rw [hend]
      exact smap_get_setRange ffByte 0 x w.flash at' a hf
    · refine ⟨_, SMap.setRange ffByte g.data off bytes, fwStageData_idle hp hl hw hb off, ?_,
        fun hd k => smap_get_setRange ffByte 0 bytes g.data off k hd⟩
      rw [stageBytes_open hs, if_neg (by omega)]
      rfl
    · refine ⟨_, fwStageData_idle hp hl hw hb off, ?_⟩
      rw [stageBytes_open hs, if_pos hfit]
      rfl
    · refine ⟨_, fwStageHbm_idle hp hl hw hm htop hq, ?_⟩
      rw [stageBytes_open hs, if_neg (by omega)]
      rfl
    · exact ⟨_, fwStageEnd_idle hp hl hw hs, if_pos hv⟩
    · exact ⟨_, fwStageEnd_idle hp hl hw hs, if_neg (by rw [Bool.not_eq_true]; exact hv)⟩
  · intro s ty bs w told hp hl hw
    refine ⟨⟨_, _, fwActivate_idle hp hl hw bs false, rfl, writeRecord_frame _ _, record_writeRecord _ _⟩,
      ⟨_, _, fwActivate_idle hp hl hw bs true, rfl, fwActivate_idle hp hl hw bs false⟩,
      fun b hb ht => ⟨_, _, (fwConfirm_idle hp hl hw).1 b hb ht, rfl, ?_, record_writeRecord _ _⟩,
      fun ht => ⟨_, (fwConfirm_idle hp hl hw).2 ht, rfl⟩, fun v h1 h3 hv => ⟨_, fwCommitSvn_idle hp hl hw h1 h3 hv,
        ?_, ?_⟩,
      fun b hb => ⟨_, fwPatchSelect_idle hp hl hw b bs, ?_⟩, fun b hb h32 => ⟨fun hg => ⟨_, fwPatchSelect_idle hp hl
        hw b bs, ?_⟩,
        fun hg => ⟨_, (s.modFw (fun w => { w with
          otp := { w.otp with patchBits := w.otp.patchBits + 1 }, patch := some b })).i3c 0,
          fwPatchSelect_idle hp hl hw b bs, ?_, rfl, rfl, rfl, rfl⟩⟩⟩
    · exact congrArg (fun f : FwState => { f with asTry := false }) (writeRecord_frame w _)
    · exact fun h => if_neg (by omega)
    · intro h
      rw [if_pos h]
      exact ⟨rfl, fun k hk1 hk3 => floor_raised _ v h1 h3 hk1 hk3, rfl⟩
    · have hno : (w.otp.patchSlot == b || decide (32 ≤ w.otp.patchBits)) = true := by
        rcases hb with hb | hb
        · rw [Otp.patchSlot, Bool.beq_comm, hb, Bool.true_or]
        · simp [hb]
      exact if_pos hno
    · have hyes : ¬ (w.otp.patchSlot == b || decide (32 ≤ w.otp.patchBits)) = true := by
        simp only [Bool.or_eq_true, beq_iff_eq, decide_eq_true_eq, not_or]
        exact ⟨Ne.symm hb, by omega⟩
      exact (if_neg hyes).trans (if_pos (by simp [w, patchOff, hg]))
    · have hyes : ¬ (w.otp.patchSlot == b || decide (32 ≤ w.otp.patchBits)) = true := by
        simp only [Bool.or_eq_true, beq_iff_eq, decide_eq_true_eq, not_or]
        exact ⟨Ne.symm hb, by omega⟩
      refine (if_neg hyes).trans ((if_neg (by simp [w, patchOff, hg])).trans ?_)
      exact congrArg (fun u => State.deviceReset u bs false) (loadPatch_good
        (s := (s.modFw (fun w => { w with otp := { w.otp with patchBits := w.otp.patchBits + 1 } })).i3c 0)
        (patchSlot_next hb) hg)

end Sys2Proof.Proofs
end

section
/-! Writes to registers through a port (R10 to R12, R417, R481): what a write reaches, the bits that it takes, and those of
floor registers. -/

namespace Sys2Proof.Proofs

open Sys2Proof Sys2Proof.Machine Sys2Proof.Laws

/-! ### Bits that a write takes -/

/-- A write sets the RW bits that it reaches, clears W1C bits and sets W1S bits where it has a 1 (R12). -/
theorem testBit_maskWrite_any (r : RegInfo) (old v em i : Nat) : (maskWrite r old v em).testBit i =
    (((if r.rw.testBit i && em.testBit i then v.testBit i else old.testBit i) &&
      !(v.testBit i && (r.w1c.testBit i && em.testBit i))) || (v.testBit i && (r.w1s.testBit i && em.testBit i))) := by
  unfold maskWrite
  rw [Nat.testBit_or, sub_and_eq_ldiff, Nat.testBit_ldiff, testBit_sub_and_add]
  simp only [Nat.testBit_and]

theorem testBit_lowHalf {i : Nat} (h : i < 32) : lowHalf.testBit i = true := by
  have hall : ∀ j : Fin 32, lowHalf.testBit j.val = true := by decide
  exact hall ⟨i, h⟩

theorem bitB_mod_two_pow {x n i : Nat} (h : i < n) : bitB (x % 2 ^ n) i = bitB x i := by
  rw [bitB_eq_testBit, bitB_eq_testBit, Nat.testBit_mod_two_pow, decide_eq_true h, Bool.true_and]

/-- A write of a word through a 4-byte write: the bits of the register by their access codes. -/
theorem bitB_maskWrite_low (r : RegInfo) (old v : Nat) {i : Nat} (h : i < 32) :
    bitB (maskWrite r old (v % 2 ^ 32) lowHalf % 2 ^ 64) i =
      (((if bitB r.rw i then bitB v i else bitB old i) && !(bitB v i && bitB r.w1c i)) || (bitB v i && bitB r.w1s
        i)) := by
  rw [bitB_mod_two_pow (by omega)]
  simp only [bitB_eq_testBit, testBit_maskWrite_any, testBit_lowHalf h, Nat.testBit_mod_two_pow, decide_eq_true h,
    Bool.and_true, Bool.true_and]

/-! ### What a write reaches -/

section
variable {s : State} {o : Origin} {pa : Nat}

/-- A write that reaches no register changes nothing, unless the fence counts it. -/
theorem writeReg_nothing {width v : Nat} (hparts : parts pa width v = [])
    (hfence : ∀ k, o = .service k → inSecurity pa = false ∧ inSystem pa = false) : s.writeReg o pa width v = s := by
  unfold State.writeReg
  split
  · rfl
  · rw [hparts]
    cases o with
    | service k =>
      obtain ⟨hsec, hsys⟩ := hfence k rfl
      simp [blocked, hsec, hsys, hparts]
    | host | root | debug | ownCell => rfl

/-- An unaligned write reaches no register. -/
theorem parts_unaligned (h : pa % 4 ≠ 0) (width v : Nat) : parts pa width v = [] := by
  have h8 : pa % 8 ≠ 0 := by omega
  simp [parts, h, h8]

/-- A write of 8 bytes at two reserved offsets reaches no register. -/
theorem parts_reserved (h : pa % 8 = 0) (h0 : regWidth pa = 0) (h4 : regWidth (pa + 4) = 0) (v : Nat) :
    parts pa 8 v = [] := by
  simp [parts, h, h0, h4]

/-- Every register that a write in the system block reaches lies there. -/
theorem parts_system (h : inSystem pa = true) (width v : Nat) : ∀ p ∈ parts pa width v, inSystem p.1 = true := by
  simp only [inSystem, Bool.and_eq_true, decide_eq_true_eq] at h ⊢
  obtain ⟨hlo, hhi⟩ := h
  intro p hp
  unfold parts at hp
  split at hp
  · next h8 =>
    have hal : pa % 8 = 0 := of_decide_eq_true (Bool.and_eq_true _ _ ▸ h8).2
    split at hp
    · obtain rfl := List.mem_singleton.1 hp
      exact ⟨hlo, hhi⟩
    · rcases List.mem_append.1 hp with hp | hp
      · split at hp
        · obtain rfl := List.mem_singleton.1 hp
          exact ⟨hlo, hhi⟩
        · exact absurd hp List.not_mem_nil
      · split at hp
        · obtain rfl := List.mem_singleton.1 hp
          exact ⟨by dsimp only; omega, by dsimp only; omega⟩
        · exact absurd hp List.not_mem_nil
  · split at hp
    · split at hp
      · obtain rfl := List.mem_singleton.1 hp
        exact ⟨hlo, hhi⟩
      · split at hp
        · next h4 =>
          have hal : pa % 8 = 4 := of_decide_eq_true (Bool.and_eq_true _ _ ▸ h4).1
          obtain rfl := List.mem_singleton.1 hp
          exact ⟨by dsimp only; omega, by dsimp only; omega⟩
        · exact absurd hp List.not_mem_nil
    · exact absurd hp List.not_mem_nil

theorem fencedService_system (h : inSystem pa = true) : fencedService pa = true := by
  simp only [inSystem] at h
  simp [fencedService, h]

/-- A service core's write to the system block is one violation, and writes nothing. -/
theorem writeReg_system {k : Fin 4} (hr : s.reachReg (.service k) pa = true) (hs : inSystem pa = true) (width v : Nat) :
    s.writeReg (.service k) pa width v = s.violation k.val pa := by
  have hregs : inRegs pa = true := by
    simp only [inSystem, Bool.and_eq_true, decide_eq_true_eq] at hs
    have hin : (0x30010000000 ≤ pa && decide (pa < 0x30020000000)) = true := by
      simp only [Bool.and_eq_true, decide_eq_true_eq]
      omega
    simp only [inRegs, hin, Bool.or_true]
  have hblocked : blocked pa width v = true := by simp [blocked, hs]
  have hfold : ∀ (l : List (Nat × Nat × Nat)) (u : State), (∀ p ∈ l, inSystem p.1 = true) →
      l.foldl (fun s p => s.writeAt (.service k) p.1 p.2.1 p.2.2 none) u = u := by
    intro l
    induction l with
    | nil => exact fun _ _ => rfl
    | cons p l ih =>
      intro u hl
      have hp : u.writeAt (.service k) p.1 p.2.1 p.2.2 none = u :=
        if_pos (fencedService_system (hl p List.mem_cons_self))
      rw [List.foldl_cons, hp]
      exact ih u (fun q hq => hl q (List.mem_cons_of_mem _ hq))
  rw [State.writeReg, hr, hregs]
  simp only [Bool.not_true, Bool.or_self, Bool.false_eq_true, if_false, hblocked, if_true]
  exact hfold _ _ (parts_system hs width v)

/-- A violation is counted. -/
theorem violation_count (hw : FGood s.fregs) (core : Nat) : (s.violation core pa).freg FR.SYS_FENCE_VIOL_CNT =
    (s.freg FR.SYS_FENCE_VIOL_CNT + 1) % 2 ^ 64 := by
  unfold State.violation
  extract_lets s1 w alm
  have h1 : s1.freg FR.SYS_FENCE_VIOL_CNT = (s.freg FR.SYS_FENCE_VIOL_CNT + 1) % 2 ^ 64 := freg_count_self _ _ hw
  split
  · rw [freg_count_other _ _ (by decide), h1]
  · rw [(floorRegs_logEvent _ _ _ _ _ _ _).freg _ (by decide)]
    exact h1

/-- A write of 8 bytes to a register of 64 bits on the floor die. -/
theorem writeReg_dword (h : Reaches o s pa) (hregs : inRegs pa = true) (hcells : inCells pa = false)
    (hwidth : regWidth pa = 64) (halign : pa % 8 = 0) (v : Nat) (cap : Option CapIn) :
    s.writeReg o pa 8 v cap = s.writeFloor pa v (lowHalf * 2 ^ 32 + lowHalf) cap := by
  have hparts : parts pa 8 v = [(pa, v, lowHalf * 2 ^ 32 + lowHalf)] := by simp [parts, hwidth, halign]
  have hblocked : fencedService pa = false → blocked pa 8 v = false := by
    intro hf
    have hstart : setsStart pa v (lowHalf * 2 ^ 32 + lowHalf) = false := by simp [setsStart, hcells]
    simp only [blocked, hparts, List.any_cons, List.any_nil, hf, hstart, Bool.or_false, Bool.or_eq_false_iff]
    simp only [fencedService, Bool.or_eq_false_iff] at hf
    exact ⟨hf.1.1.1.1.1.1.1.1, hf.1.1.1.1.1.1.1.2⟩
  have hwrite := writeAt_floor h hcells
  obtain ⟨hreach, hfence⟩ := h
  cases o with
  | service k => simp [State.writeReg, hreach, hregs, hparts, hblocked hfence, hwrite]
  | host | root | debug | ownCell => simp [State.writeReg, hreach, hregs, hparts, hwrite]

/-- A write to a write-only register does what its bits ask for, and what waited goes on. -/
theorem writeFloor_action {r : RegInfo} (hf : floorReg pa = some r) (hk : r.kind = .action) (v em : Nat)
    (cap : Option CapIn) : s.writeFloor pa v em cap = (s.action pa (v &&& em) cap).goOn := by
  rw [State.writeFloor, hf]
  simp only [hk]

/-- A write to a plain floor register that has no meaning of its own: a value in its range is set. -/
theorem writeFloor_plain {r : RegInfo} (hf : floorReg pa = some r) (hk : r.kind = .plain)
    (hslice : ¬ (sliceRegBase ≤ pa ∧ pa < sliceRegBase + 0x100000 ∧ (pa - sliceRegBase) % 0x1000 = 0))
    (hqueue : ¬ (FR.HI_Q_SQ_BASE 0 ≤ pa ∧ pa < FR.HI_Q_SQ_BASE 64 ∧ (pa - FR.HI_Q_SQ_BASE 0) % 32 = 16))
    (hilv : pa ≠ FR.HBM_ILV_CFG) (hctrl : pa ≠ FR.PWR_CTRL) (v em : Nat) (cap : Option CapIn) :
    s.writeFloor pa v em cap =
      let new := s.ranged pa (s.freg pa) (maskWrite r (s.freg pa) v em)
      (s.setFreg pa new).afterWrite pa (s.freg pa) new := by
  rw [State.writeFloor, hf]
  simp only [hk, if_neg hslice, if_neg hqueue, if_neg hilv]
  rw [if_neg (by simp [hctrl])]

end

/-! ### The power caps (R447) -/

/-- A cap register holds the 12 bits that a write gives it. -/
structure IsCap (pa : Nat) : Prop where
  row : ∃ r, floorReg pa = some r ∧ r.kind = .plain ∧ r.width = 32 ∧ r.rw = 0xFFF ∧ r.w1c = 0 ∧ r.w1s = 0
  ranged : ∀ (s : State) (old new : Nat), s.ranged pa old new = if 800 ≤ new ∧ new ≤ 2500 then new else old
  after : ∀ (s : State) (old new : Nat), s.afterWrite pa old new = s

theorem isCap_host : IsCap FR.PWR_HOST_CAP_W := by
  refine ⟨⟨_, rfl, rfl, rfl, rfl, rfl, rfl⟩, fun s old new => ?_, fun s old new => ?_⟩
  · rfl
  · rfl

theorem isCap_own : IsCap FR.PWR_CAP_W := by
  refine ⟨⟨_, rfl, rfl, rfl, rfl, rfl, rfl⟩, fun s old new => ?_, fun s old new => ?_⟩
  · rfl
  · rfl

/-- The value that a write of 4 bytes gives to a cap. -/
theorem maskWrite_cap {r : RegInfo} (hrw : r.rw = 0xFFF) (hc : r.w1c = 0) (hs : r.w1s = 0) {old : Nat} (h : old < 2
    ^ 12)
    (v : Nat) : maskWrite r old (v % 2 ^ 32) lowHalf = v % 2 ^ 12 := by
  have hmask : r.rw &&& lowHalf = 2 ^ 12 - 1 := by rw [hrw]; rfl
  refine Nat.eq_of_testBit_eq fun i => ?_
  rw [testBit_maskWrite hc hs, hmask, Nat.testBit_two_pow_sub_one, Nat.testBit_mod_two_pow, Nat.testBit_mod_two_pow]
  by_cases hi : i < 12
  · simp [hi, show i < 32 by omega]
  · have hold : old.testBit i = false :=
      Nat.testBit_lt_two_pow (Nat.lt_of_lt_of_le h (Nat.pow_le_pow_right (by decide) (Nat.not_lt.1 hi)))
    simp [hi, hold]

/-- A write to a cap sets it where the value is in its range. -/
theorem writeFloor_cap {s : State} {pa : Nat} (h : IsCap pa) (hold : s.freg pa < 2 ^ 12)
    (hslice : ¬ (sliceRegBase ≤ pa ∧ pa < sliceRegBase + 0x100000 ∧ (pa - sliceRegBase) % 0x1000 = 0))
    (hqueue : ¬ (FR.HI_Q_SQ_BASE 0 ≤ pa ∧ pa < FR.HI_Q_SQ_BASE 64 ∧ (pa - FR.HI_Q_SQ_BASE 0) % 32 = 16))
    (hilv : pa ≠ FR.HBM_ILV_CFG) (hctrl : pa ≠ FR.PWR_CTRL) (v : Nat) (cap : Option CapIn) :
    s.writeFloor pa (v % 2 ^ 32) lowHalf cap = s.setFreg pa
      (if 800 ≤ v % 2 ^ 12 ∧ v % 2 ^ 12 ≤ 2500 then v % 2 ^ 12 else s.freg pa) := by
  obtain ⟨r, hrow, hk, -, hrw, hc, hs⟩ := h.row
  rw [writeFloor_plain hrow hk hslice hqueue hilv hctrl]
  dsimp only
  rw [h.after, h.ranged, maskWrite_cap hrw hc hs hold]

/-- A cap register takes a value below 2 ^ 12 as it is. -/
theorem freg_setCap {s : State} {pa n : Nat} (hw : FGood s.fregs) (hn : n < 2 ^ 12) : (s.setFreg pa n).freg pa = n :=
  (freg_setFreg_self s pa n hw).trans (Nat.mod_eq_of_lt (Nat.lt_trans hn (by decide)))

/-- SET_CAP writes PWR_CAP_W within its range. -/
theorem setCap_writes {s : State} {watts : Nat} (hp : s.dev.stbyPg = true) (hold : s.freg FR.PWR_CAP_W < 2 ^ 12)
    (h : 800 ≤ watts ∧ watts ≤ 2500) : s.writeReg .root FR.PWR_CAP_W 4 watts = s.setFreg FR.PWR_CAP_W watts := by
  have hreach : Reaches .root s FR.PWR_CAP_W := by
    have hv : vigilReg FR.PWR_CAP_W = true := by decide
    exact ⟨by simp [State.reachReg, hp, hv], trivial⟩
  have hw : watts % 2 ^ 12 = watts := Nat.mod_eq_of_lt (by omega)
  rw [writeReg_word hreach (by decide) (by decide) (by decide) (by decide),
    writeFloor_cap isCap_own hold (by decide) (by decide) (by decide) (by decide), hw, if_pos h]

/-! ### The endpoint's commands that read (R483) -/

/-- READ_REG of a good address returns what the register reads, unless it is refused. -/
theorem readReg_i3c {s : State} {pa width : Nat} (hp : s.dev.stbyPg = true) (hw : width = 4 ∨ width = 8)
    (ha : pa % width = 0) (hlo : 0x30010000000 ≤ pa) (hhi : pa < 0x30020000000) : execReadReg pa width s =
      .next (if inSecurity pa || !(vigilReg pa || s.dev.mainOn) then s.i3c 1
        else s.i3c 0 (leBytes width (s.readReg pa width))) := by
  have hgood : ¬ ((decide (width ≠ 4) && decide (width ≠ 8)) || decide (pa % width ≠ 0) || decide (pa <
    0x30010000000) ||
      decide (0x30020000000 ≤ pa)) = true := by
    simp only [Bool.or_eq_true, Bool.and_eq_true, decide_eq_true_eq]
    omega
  have hreach : s.reachReg .root pa = (vigilReg pa || s.dev.mainOn) := by simp [State.reachReg, hp]
  have hregs : inRegs pa = true := by
    have hin : (0x30010000000 ≤ pa && decide (pa < 0x30020000000)) = true := by simp [hlo, hhi]
    simp only [inRegs, hin, Bool.or_true]
  rw [execReadReg, if_neg (by simp [hp]), if_neg hgood, hreach]
  split
  · rfl
  · next h =>
    have hr : s.reachReg .root pa = true := by
      rw [hreach]
      cases hv : (vigilReg pa || s.dev.mainOn)
      · simp [hv] at h
      · rfl
    have hread : s.readBy .root pa width = (s, s.readReg pa width) := by
      rw [State.readBy, if_neg (by simp [hr, hregs])]
    rw [hread]

/-- Settles O56: a plain register takes the bits of its masks, the parts of a write are those of its address and width, and the
endpoint answers by the address and the lifecycle. -/
theorem registersAndManagementQueries : Obligations.RegistersAndManagementQueries := by
  unfold Obligations.RegistersAndManagementQueries
  constructor
  · intro s o pa v r write
    refine ⟨fun hr hregs hcells hrow hk hwid hal hslice hqueue hilv hrange hafter hctrl hw => ?_, fun ho hr hold hw
      => ?_,
      fun width hal hfence => ⟨_, rfl, writeReg_nothing (parts_unaligned hal _ _) hfence⟩,
      fun k width ho hr hs hw => ?_, fun hcells hsec hsys hal h0 h4 => ?_, fun b hl hb => ?_, fun b hl => ?_⟩
    · have hwidth : regWidth pa = 32 := by rw [regWidth, hcells, hrow]; exact hwid
      have hslice' : ¬ (sliceRegBase ≤ pa ∧ pa < sliceRegBase + 0x100000 ∧ (pa - sliceRegBase) % 0x1000 = 0) := by
        unfold sliceRegBase
        omega
      have hgo : exec (write 4) s = .next (s.setFreg pa (maskWrite r (s.freg pa) (v.toNat % 2 ^ 32) lowHalf)) := by
        refine congrArg Host.Outcome.next ?_
        rw [writeReg_word hr hregs hcells hwidth hal, writeFloor_plain hrow hk hslice' hqueue hilv hctrl]
        dsimp only
        rw [hafter, hrange]
      have hself := freg_setFreg_self s pa (maskWrite r (s.freg pa) (v.toNat % 2 ^ 32) lowHalf) hw
      refine ⟨_, hgo, fun a ha => freg_setFreg_other s _ ha, rfl, fun b hb hc h1 => ?_, fun b hb hc hrw h1 => ?_⟩
      · rw [hself, bitB_maskWrite_low r _ _ hb, hc, h1]
        simp [bitB_eq_testBit, BitVec.testBit_toNat]
      · rw [hself, bitB_maskWrite_low r _ _ hb, hc, h1, hrw]
        simp [bitB_eq_testBit, BitVec.testBit_toNat]
    · have hgo : exec (.registerWrite o (.reg FR.PWR_HOST_CAP_W) 4 v) s = .next (s.setFreg FR.PWR_HOST_CAP_W
          (if 800 ≤ v.toNat % 2 ^ 12 ∧ v.toNat % 2 ^ 12 ≤ 2500 then v.toNat % 2 ^ 12 else s.freg FR.PWR_HOST_CAP_W))
            := by
        refine congrArg Host.Outcome.next ?_
        rw [writeReg_word hr (by decide) (by decide) (by decide) (by decide),
          writeFloor_cap isCap_host hold (by decide) (by decide) (by decide) (by decide)]
      refine ⟨_, hgo, rfl, freg_setCap hw ?_, fun a ha => freg_setFreg_other s _ ha⟩
      split
      · exact Nat.mod_lt _ (by decide)
      · exact hold
    · subst ho
      exact ⟨_, congrArg Host.Outcome.next (writeReg_system hr hs width v.toNat), violation_count hw k.val, rfl⟩
    · exact ⟨_, rfl, writeReg_nothing (parts_reserved hal h0 h4 _) (fun k ho => ⟨hsec, hsys k ho⟩)⟩
    · have hgo : execRegisterWrite .host (.hdm (some b)) 8 v s = .next { s with hs := { s.hs with hdm := some b } }
        := by
        simp only [execRegisterWrite, hl, hb, if_true]
      exact ⟨_, hgo, rfl⟩
    · have hgo : execRegisterWrite .host (.hdm b) 8 v s = .next s := by
        unfold execRegisterWrite
        cases h : s.hs.link with
        | cxl => exact absurd h hl
        | down => rfl
        | pcie => rfl
      exact ⟨_, hgo, rfl⟩
  · intro s pa width watts answers hp
    refine ⟨⟨_, if_neg (by simp [hp]), rfl⟩, fun hw ha hlo hhi => ⟨_, readReg_i3c hp hw ha hlo hhi, ?_⟩, fun h =>
      ⟨_, ?_, rfl⟩,
      fun hl hold hw => ?_⟩
    · rfl
    · have hbad : ((decide (width ≠ 4) && decide (width ≠ 8)) || decide (pa % width ≠ 0) || decide (pa <
        0x30010000000) ||
          decide (0x30020000000 ≤ pa)) = true := by
        simp only [Bool.or_eq_true, Bool.and_eq_true, decide_eq_true_eq]
        tauto
      exact (if_neg (by simp [hp])).trans (if_pos hbad)
    · have hset := i3cCmd_up (r := execSetCap watts s) hp hl rfl
      refine ⟨_, hset, fun hlo hhi => ?_, fun hbad => if_neg (by omega)⟩
      rw [if_pos ⟨hlo, hhi⟩, setCap_writes hp hold ⟨hlo, hhi⟩]
      exact ⟨freg_setCap hw (by omega), rfl, fun a ha => freg_setFreg_other s _ ha, rfl⟩

end Sys2Proof.Proofs
end

section
/-! Clocks, droop, calibration and the self-refresh of stacks (R441, R446, R457, R463, R479). -/

namespace Sys2Proof.Proofs

open Sys2Proof Sys2Proof.Machine Sys2Proof.Laws

/-! ### Voltage and droop -/

/-- PWR_POINT shows the voltage and the frequency. -/
theorem showPoint_point {s : State} (hw : FGood s.fregs) :
    s.showPoint.freg FR.PWR_POINT = (Config.voltage s.pw.vFor % 65536 * 65536 + s.pw.f) % 2 ^ 64 :=
  freg_setFreg_self s _ _ hw

/-! ### Rail checks -/

/-- What one finding of a rail check notes. -/
def railNote (s : State) (r : Nat × Int) : State := s.logEvent 0x0803 r.1 1 0 (wrap 64 r.2) 0

/-- What one finding of the cross-check of the sensors notes. -/
def sensorNote (s : State) (r : Nat × Int) : State :=
  railNote { s with pw := { s.pw with excluded := s.pw.excluded.add r.1 } } r

theorem has_add (m : NSet) (k j : Nat) : NSet.has (m.add k) j = (NSet.has m j || k == j) := by
  induction m with
  | nil =>
    rw [Bool.eq_iff_iff]
    simp only [NSet.add, NSet.has, List.contains_cons, List.contains_nil, Bool.or_false, Bool.false_or, beq_iff_eq]
    exact eq_comm
  | cons a m ih =>
    simp only [NSet.has, List.contains_cons] at ih ⊢
    unfold NSet.add
    split
    · simp only [List.contains_cons]
      rw [Bool.or_comm, Bool.beq_comm (a := j) (b := k)]
    · split
      · next h =>
        subst h
        simp only [List.contains_cons]
        rw [Bool.beq_comm (a := j) (b := a)]
        cases a == j <;> simp
      · simp only [List.contains_cons, ih, Bool.or_assoc]

/-- The findings of a check are recorded, and change the excluded sensors alone besides. -/
theorem railNotes (rails : List (Nat × Int)) : ∀ s : State,
    (rails.foldl railNote s).alm.seq = s.alm.seq + rails.length ∧
      rails.foldl railNote s =
        { s with fregs := (rails.foldl railNote s).fregs, alm := (rails.foldl railNote s).alm } := by
  induction rails with
  | nil => exact fun s => ⟨rfl, rfl⟩
  | cons r rails ih =>
    intro s
    obtain ⟨hseq, hframe⟩ := ih (railNote s r)
    have hone : railNote s r = { s with fregs := (railNote s r).fregs, alm := (railNote s r).alm } :=
      logEvent_frame s _ _ _ _ _ (by decide)
    have hfirst : (railNote s r).alm.seq = s.alm.seq + 1 := logEvent_seq _ _ _ _ _ _ _
    simp only [List.foldl_cons, List.length_cons]
    refine ⟨by rw [hseq, hfirst]; omega, ?_⟩
    rw [hframe, hone]

theorem sensorNotes (sensors : List (Nat × Int)) : ∀ s : State,
    (sensors.foldl sensorNote s).alm.seq = s.alm.seq + sensors.length ∧
      (∀ k, NSet.has (sensors.foldl sensorNote s).pw.excluded k =
        (NSet.has s.pw.excluded k || sensors.any (fun q => q.1 == k))) ∧
      sensors.foldl sensorNote s = { s with
        pw := { s.pw with excluded := (sensors.foldl sensorNote s).pw.excluded }
        fregs := (sensors.foldl sensorNote s).fregs, alm := (sensors.foldl sensorNote s).alm } := by
  induction sensors with
  | nil => exact fun s => ⟨rfl, fun k => by simp, rfl⟩
  | cons r sensors ih =>
    intro s
    obtain ⟨hseq, hhas, hframe⟩ := ih (sensorNote s r)
    have hone : sensorNote s r = { s with
        pw := { s.pw with excluded := s.pw.excluded.add r.1 }
        fregs := (sensorNote s r).fregs, alm := (sensorNote s r).alm } :=
      logEvent_frame { s with pw := { s.pw with excluded := s.pw.excluded.add r.1 } } _ _ _ _ _ (by decide)
    have hfirst : (sensorNote s r).alm.seq = s.alm.seq + 1 := logEvent_seq _ _ _ _ _ _ _
    have hex : (sensorNote s r).pw.excluded = s.pw.excluded.add r.1 := by rw [hone]
    simp only [List.foldl_cons, List.length_cons, List.any_cons]
    refine ⟨by rw [hseq, hfirst]; omega, fun k => ?_, ?_⟩
    · rw [hhas, hex, has_add, Bool.or_assoc]
    · rw [hframe, hone]

/-- A check of a device whose main domain is on. -/
theorem railCheck_on {s : State} (hm : s.dev.mainOn = true) (rails sensors : List (Nat × Int)) :
    execRailCheck rails sensors s = .next (sensors.foldl sensorNote (rails.foldl railNote s)) := by
  rw [execRailCheck, if_neg (by simp [hm])]
  rfl

/-! ### PWR_CTRL.pht_clr -/

theorem putBits_self (x hi lo : Nat) : putBits x hi lo (bits x hi lo) = x := by
  have hle : bits x hi lo * 2 ^ lo ≤ x := by
    rw [bits, Nat.shiftRight_eq_div_pow]
    exact (Nat.mul_le_mul_right _ (Nat.mod_le _ _)).trans (Nat.div_mul_le_self x _)
  have hlt : bits x hi lo < 2 ^ (hi + 1 - lo) := Nat.mod_lt _ (Nat.two_pow_pos _)
  rw [putBits, Nat.mod_eq_of_lt hlt, Nat.sub_add_cancel hle]

theorem keepField_same {old new hi lo : Nat} (ok : Nat → Bool) (h : bits new hi lo = bits old hi lo) :
    keepField old new hi lo ok = new := by
  unfold keepField
  rw [← h, putBits_self, ite_self]

/-- The row of PWR_CTRL. -/
def pwrCtrlRow : RegInfo := (floorReg FR.PWR_CTRL).getD ⟨0, 0, 0, 0, .plain, 0, 0, 0, 0⟩

theorem floorReg_pwrCtrl : floorReg FR.PWR_CTRL = some pwrCtrlRow := rfl

theorem bits_congr {x y top lo : Nat} (h : ∀ i < top + 1 - lo, x.testBit (lo + i) = y.testBit (lo + i)) :
    bits x top lo = bits y top lo := by
  refine Nat.eq_of_testBit_eq fun i => ?_
  rw [testBit_bits, testBit_bits]
  by_cases hlt : i < top + 1 - lo
  · rw [h i hlt]
  · simp [hlt]

/-- The bits that software keeps when it writes pht_clr. -/
theorem testBit_phtClr (old : Nat) {i : Nat} (h : i ∈ [3, 8, 9, 10, 11, 12, 13, 14]) :
    (maskWrite pwrCtrlRow old (((old &&& 0x7F08) + 2) % 2 ^ 32) lowHalf).testBit i = old.testBit i := by
  have hlt : i < 32 := (by decide : ∀ j ∈ [3, 8, 9, 10, 11, 12, 13, 14], j < 32) i h
  have hrow : pwrCtrlRow.rw.testBit i = true ∧ pwrCtrlRow.w1c.testBit i = false ∧ pwrCtrlRow.w1s.testBit i = false :=
    (by decide : ∀ j ∈ [3, 8, 9, 10, 11, 12, 13, 14], pwrCtrlRow.rw.testBit j = true ∧
      pwrCtrlRow.w1c.testBit j = false ∧ pwrCtrlRow.w1s.testBit j = false) i h
  have hkeep : (0x7F08 : Nat).testBit i = true ∧ (2 : Nat).testBit i = false :=
    (by decide : ∀ j ∈ [3, 8, 9, 10, 11, 12, 13, 14], (0x7F08 : Nat).testBit j = true ∧ (2 : Nat).testBit j = false) i h
  have hdisj : (old &&& 0x7F08) &&& 2 = 0 := by
    rw [Nat.and_assoc]
    exact Nat.and_zero _
  rw [testBit_maskWrite_any, hrow.1, hrow.2.1, hrow.2.2, testBit_lowHalf hlt, Nat.testBit_mod_two_pow,
    decide_eq_true hlt, add_eq_or_of_and_eq_zero hdisj, Nat.testBit_or, Nat.testBit_and, hkeep.1, hkeep.2]
  simp

/-- The value that such a write leaves in PWR_CTRL. -/
theorem ranged_phtClr (s : State) (old new : Nat) (h : bits new 14 8 = bits old 14 8) :
    s.ranged FR.PWR_CTRL old new = Nat.ldiff new 2 := by
  have hr : s.ranged FR.PWR_CTRL old new =
      keepField old new 14 8 (fun v => decide (1 ≤ v) && decide (v ≤ 100)) - (new &&& 2) := rfl
  rw [hr, keepField_same _ h, sub_and_eq_ldiff]

theorem afterWrite_pwrCtrl (s : State) (old new : Nat) : s.afterWrite FR.PWR_CTRL old new = s := rfl

/-- A write to PWR_CTRL with pht_clr sets the register and empties the table. -/
theorem writeFloor_phtClr (s : State) (v : Nat) (cap : Option CapIn) (hv : bitB (v &&& lowHalf) 1 = true) :
    s.writeFloor FR.PWR_CTRL v lowHalf cap =
      { s.setFreg FR.PWR_CTRL (s.ranged FR.PWR_CTRL (s.freg FR.PWR_CTRL)
          (maskWrite pwrCtrlRow (s.freg FR.PWR_CTRL) v lowHalf)) with pw := { s.pw with pht := [] } } := by
  have hk : pwrCtrlRow.kind = .plain := by decide
  rw [State.writeFloor, floorReg_pwrCtrl]
  simp only [hk]
  rw [if_neg (by decide), if_neg (by decide), if_neg (by decide), afterWrite_pwrCtrl, if_pos (by simp [hv])]
  rfl

/-! ### Self-refresh -/

/-- Stack i is in self-refresh once it has entered it. -/
theorem stackSr_enterSr (s : State) {i k : Nat} (hk : k < 20) :
    (s.enterSr i).stackSr k = (s.stackSr k || k == i) := by
  show (s.pw.sr ||| BitVec.ofNat 20 (2 ^ i)).getLsbD k = _
  rw [BitVec.getLsbD_or, BitVec.getLsbD_ofNat, Nat.testBit_two_pow, decide_eq_true hk, Bool.true_and]
  by_cases h : i = k
  · simp [State.stackSr, h]
  · simp [State.stackSr, h, Ne.symm h]

theorem pllAt_or (s : State) : s.pllAt = s.pw.pll ∨ s.pllAt = none := by
  unfold State.pllAt
  split
  · exact .inr rfl
  · exact .inl rfl

theorem enterSr_frame (s : State) (i : Nat) : s.enterSr i = { s with pw := { s.pw with
    sr := (s.enterSr i).pw.sr, srWant := s.pw.srWant.filter (fun k => k.val != i), pll := (s.enterSr i).pw.pll } }
      := rfl

theorem pll_enterSr (s : State) (i : Nat) : (s.enterSr i).pw.pll = s.pw.pll ∨ (s.enterSr i).pw.pll = none :=
  pllAt_or { s with
    pw := { s.pw with sr := s.pw.sr ||| BitVec.ofNat 20 (2 ^ i), srWant := s.pw.srWant.filter (·.val != i) } }

/-- What the stacks below m that PWR_HBM_SR names have become. -/
structure Requested (s : State) (v m : Nat) (u : State) : Prop where
  sr : ∀ k < 20, u.stackSr k = (s.stackSr k || (decide (k < m) && bitB v k && s.stackIdle k))
  want : ∀ k < m, bitB v k = true → s.stackSr k = false → s.stackIdle k = false → stackNo k ∈ u.pw.srWant
  pll : u.pw.pll = s.pw.pll ∨ u.pw.pll = none
  frame : u = { s with pw := { s.pw with sr := u.pw.sr, srWant := u.pw.srWant, pll := u.pw.pll } }

/-- One stack of PWR_HBM_SR. -/
def requestStack (v : Nat) (s : State) (i : Nat) : State :=
  if !bitB v i || s.stackSr i then s
  else if s.stackIdle i && !s.pw.srExit.contains (stackNo i) then s.enterSr i
  else if s.pw.srWant.contains (stackNo i) then s
  else { s with pw := { s.pw with srWant := s.pw.srWant ++ [stackNo i] } }

theorem stackNo_val {k : Nat} (h : k < 20) : (stackNo k).val = k := Nat.mod_eq_of_lt h

/-- Stack m is asked for, where those below it have been. -/
theorem requested_step {s u : State} {v m : Nat} (hm : m < 20) (h : Requested s v m u)
    (hexit : bitB v m = true → s.pw.srExit.contains (stackNo m) = false) :
    Requested s v (m + 1) (requestStack v u m) := by
  have hidle : ∀ k, u.stackIdle k = s.stackIdle k := fun k => by rw [h.frame]; rfl
  have hsrm : u.stackSr m = s.stackSr m := by rw [h.sr m hm]; simp
  have hexu : u.pw.srExit = s.pw.srExit := by rw [h.frame]
  -- a stack of which nothing has to change leaves the state as it is
  have hstay : (bitB v m = true → s.stackIdle m = true → s.stackSr m = true) →
      (bitB v m = true → s.stackSr m = false → s.stackIdle m = false → stackNo m ∈ u.pw.srWant) →
      Requested s v (m + 1) u := by
    intro h1 h2
    refine ⟨fun k hk => ?_, fun k hk hb h0 hi => ?_, h.pll, h.frame⟩
    · rw [h.sr k hk]
      by_cases hkm : k = m
      · subst hkm
        cases hb : bitB v k with
        | false => simp
        | true =>
          cases hi : s.stackIdle k with
          | false => simp
          | true => simp [h1 hb hi]
      · simp [show (k < m + 1) = (k < m) by simp; omega]
    · by_cases hkm : k = m
      · subst hkm
        exact h2 hb h0 hi
      · exact h.want k (by omega) hb h0 hi
  unfold requestStack
  split
  · next hskip =>
    rw [hsrm] at hskip
    simp only [Bool.or_eq_true, Bool.not_eq_true'] at hskip
    refine hstay (fun hb _ => ?_) (fun hb h0 _ => ?_)
    · rcases hskip with hs | hs
      · simp [hb] at hs
      · exact hs
    · rcases hskip with hs | hs
      · simp [hb] at hs
      · simp [h0] at hs
  · next hgo =>
    rw [hsrm] at hgo
    simp only [Bool.or_eq_true, Bool.not_eq_true', not_or, Bool.not_eq_false, Bool.not_eq_true] at hgo
    obtain ⟨hb, h0⟩ := hgo
    have hex : u.pw.srExit.contains (stackNo m) = false := by rw [hexu]; exact hexit hb
    rw [hidle, hex, Bool.not_false, Bool.and_true]
    split
    · next hi =>
      refine ⟨fun k hk => ?_, fun k hk hb' h0' hi' => ?_, ?_, ?_⟩
      · rw [stackSr_enterSr u hk, h.sr k hk]
        by_cases hkm : k = m
        · subst hkm
          simp [hb, hi]
        · simp [hkm, show (k < m + 1) = (k < m) by simp; omega]
      · have hkm : k ≠ m := fun e => by rw [e, hi] at hi'; exact absurd hi' (by decide)
        refine List.mem_filter.2 ⟨h.want k (by omega) hb' h0' hi', ?_⟩
        rw [stackNo_val (by omega)]
        simpa using hkm
      · rcases pll_enterSr u m with hp | hp
        · rw [hp]
          exact h.pll
        · exact .inr hp
      · rw [enterSr_frame, h.frame]
    · next hi =>
      rw [Bool.not_eq_true] at hi
      have hni : bitB v m = true → s.stackIdle m = true → s.stackSr m = true := fun _ hi' => by
        rw [hi] at hi'
        exact absurd hi' (by decide)
      split
      · next hw => exact hstay hni (fun _ _ _ => List.contains_iff_mem.1 hw)
      · refine ⟨fun k hk => ?_, fun k hk hb' h0' hi' => ?_, h.pll, by rw [h.frame]⟩
        · refine (h.sr k hk).trans ?_
          by_cases hkm : k = m
          · subst hkm
            simp [hi]
          · simp [show (k < m + 1) = (k < m) by simp; omega]
        · by_cases hkm : k = m
          · subst hkm
            exact List.mem_append_right _ List.mem_cons_self
          · exact List.mem_append_left _ (h.want k (by omega) hb' h0' hi')

/-- PWR_HBM_SR asks for the stacks that it names, none of which is on its way out of self-refresh. -/
theorem requested_requestSr (s : State) (v : Nat)
    (hexit : ∀ k < 20, bitB v k = true → s.pw.srExit.contains (stackNo k) = false) :
    Requested s v 20 (s.requestSr v) := by
  have hprefix : ∀ m ≤ 20, Requested s v m ((List.range m).foldl (requestStack v) s) := by
    intro m
    induction m with
    | zero => exact fun _ => ⟨fun k _ => by simp, fun k hk => by omega, .inl rfl, rfl⟩
    | succ m ih =>
      intro hm
      rw [List.range_succ, List.foldl_append, List.foldl_cons, List.foldl_nil]
      exact requested_step (by omega) (ih (by omega)) (hexit m (by omega))
  exact hprefix 20 (Nat.le_refl _)

/-- The value that PWR_PHT_CLR writes has bit 1 set. -/
theorem bitB_phtClr (old : Nat) : bitB (((old &&& 0x7F08) + 2) % 2 ^ 32 &&& lowHalf) 1 = true := by
  have hdisj : (old &&& 0x7F08) &&& 2 = 0 := by
    rw [Nat.and_assoc]
    exact Nat.and_zero _
  have htwo : (2 : Nat).testBit 1 = true := by decide
  rw [bitB_eq_testBit, Nat.testBit_and, testBit_lowHalf (by decide), Nat.testBit_mod_two_pow,
    add_eq_or_of_and_eq_zero hdisj, Nat.testBit_or, htwo]
  simp

/-- What PWR_PHT_CLR leaves. -/
theorem pwrPhtClr_leaves {s : State} {o : Origin} (hr : Reaches o s FR.PWR_CTRL) (hw : FGood s.fregs) :
    ∃ t : State, execPwrPhtClr o s = .next t ∧ t = { s with pw := { s.pw with pht := [] }, fregs := t.fregs } ∧
      (∀ a, a ≠ FR.PWR_CTRL → t.freg a = s.freg a) ∧
      bits (t.freg FR.PWR_CTRL) 14 8 = bits (s.freg FR.PWR_CTRL) 14 8 ∧
      bitB (t.freg FR.PWR_CTRL) 3 = bitB (s.freg FR.PWR_CTRL) 3 := by
  have hkeep : ∀ i ∈ [3, 8, 9, 10, 11, 12, 13, 14], (maskWrite pwrCtrlRow (s.freg FR.PWR_CTRL)
      (((s.freg FR.PWR_CTRL &&& 0x7F08) + 2) % 2 ^ 32) lowHalf).testBit i = (s.freg FR.PWR_CTRL).testBit i :=
    fun i hi => testBit_phtClr _ hi
  have hgo : execPwrPhtClr o s = .next (s.writeFloor FR.PWR_CTRL
      (((s.freg FR.PWR_CTRL &&& 0x7F08) + 2) % 2 ^ 32) lowHalf none) :=
    congrArg Host.Outcome.next (writeReg_word hr (by decide) (by decide) (by decide) (by decide) _ _)
  rw [writeFloor_phtClr s _ _ (bitB_phtClr _)] at hgo
  generalize maskWrite pwrCtrlRow (s.freg FR.PWR_CTRL) (((s.freg FR.PWR_CTRL &&& 0x7F08) + 2) % 2 ^ 32) lowHalf = new
    at hgo hkeep
  have hfield : bits new 14 8 = bits (s.freg FR.PWR_CTRL) 14 8 :=
    bits_congr (fun i hi => hkeep _ ((by decide : ∀ j < 7, 8 + j ∈ [3, 8, 9, 10, 11, 12, 13, 14]) i hi))
  rw [ranged_phtClr s _ _ hfield] at hgo
  have hself : (s.setFreg FR.PWR_CTRL (Nat.ldiff new 2)).freg FR.PWR_CTRL = Nat.ldiff new 2 % 2 ^ 64 :=
    freg_setFreg_self s _ _ hw
  have hbit : ∀ i ∈ [3, 8, 9, 10, 11, 12, 13, 14],
      ((s.setFreg FR.PWR_CTRL (Nat.ldiff new 2)).freg FR.PWR_CTRL).testBit i = (s.freg FR.PWR_CTRL).testBit i := by
    intro i hi
    have hsmall : i < 64 ∧ (2 : Nat).testBit i = false :=
      (by decide : ∀ j ∈ [3, 8, 9, 10, 11, 12, 13, 14], j < 64 ∧ (2 : Nat).testBit j = false) i hi
    rw [hself, Nat.testBit_mod_two_pow, decide_eq_true hsmall.1, Nat.testBit_ldiff, hsmall.2, hkeep i hi]
    simp
  refine ⟨_, hgo, rfl, fun a ha => freg_setFreg_other s _ ha, ?_, ?_⟩
  · exact bits_congr (fun i hi => hbit _ ((by decide : ∀ j < 7, 8 + j ∈ [3, 8, 9, 10, 11, 12, 13, 14]) i hi))
  · rw [bitB_eq_testBit, bitB_eq_testBit]
    exact hbit 3 (by decide)

/-- The register of the stacks that software sends into self-refresh. -/
theorem exec_pwrHbmSr {s : State} {o : Origin} (hr : Reaches o s FR.PWR_HBM_SR) (v : Half) :
    execPwrHbmSr o v s = .next ((s.requestSr v.toNat).goOn) := by
  have hem : v.toNat % 2 ^ 32 &&& lowHalf = v.toNat := by
    rw [Nat.mod_eq_of_lt v.isLt]
    exact (Nat.and_two_pow_sub_one_eq_mod _ 32).trans (Nat.mod_eq_of_lt v.isLt)
  refine congrArg Host.Outcome.next ?_
  rw [writeReg_word hr (by decide) (by decide) (by decide) (by decide), writeFloor_action rfl rfl, hem]
  rfl

/-- A state that differs in its power controller and its registers alone is as still. -/
theorem still_withPw {s : State} (h : Still s) (p : PwrState) (R : SMap Word) : Still { s with pw := p, fregs := R } :=
  ⟨h.empty, h.done, h.settled⟩

theorem stackSr_exit (s : State) {i k : Nat} (hk : k < 20) :
    (s.pw.sr &&& ~~~(BitVec.ofNat 20 (2 ^ i))).getLsbD k = (s.stackSr k && k != i) := by
  rw [BitVec.getLsbD_and, BitVec.getLsbD_not, BitVec.getLsbD_ofNat, Nat.testBit_two_pow, decide_eq_true hk,
    Bool.true_and, Bool.true_and]
  by_cases h : i = k
  · simp [State.stackSr, h]
  · simp [State.stackSr, h, Ne.symm h]

/-- The state in which stack i has left self-refresh. -/
def stackExited (s : State) (i : Fin 20) : State :=
  State.count { s with pw := { s.pw with
    sr := s.pw.sr &&& ~~~(BitVec.ofNat 20 (2 ^ i.val)), srExit := s.pw.srExit.filter (· != i) } } FR.PWR_HBM_SR_EXIT_CNT

theorem hbmSrExitDone_still {s : State} {i : Fin 20} (hx : i ∈ s.pw.srExit) (hb : s.dev.floorBring = none) (hs :
    Still s) :
    execHbmSrExitDone i s = .next (stackExited s i) := by
  have hgo : execHbmSrExitDone i s = .next (stackExited s i).goOn := if_pos (by simp [hx, State.floorBusy, hb])
  exact hgo.trans (congrArg Host.Outcome.next (goOn_still (still_withPw hs _ _)))

/-- Settles O53: each event is its own function of the state; the stacks of PWR_HBM_SR by induction on their number. -/
theorem clocksDroopAndSelfRefresh : Obligations.ClocksDroopAndSelfRefresh := by
  unfold Obligations.ClocksDroopAndSelfRefresh
  constructor
  · intro s c o x hw
    refine ⟨fun v hv => ?_, fun hm hs => ⟨_, ?_, rfl⟩, fun hs => ⟨_, ?_, rfl⟩, fun rails sensors hm => ?_,
      fun hm hst ht => ⟨_, ?_, rfl⟩, fun k => ⟨_, rfl, rfl⟩, fun hr => ?_⟩
    · have hgo : execVoltageRampDone s = .next (State.showPoint { s with pw := { s.pw with
          vFor := v, ramp := none, f := if s.pw.want ≤ v then s.pw.want else s.pw.f } }) := by
        rw [execVoltageRampDone, hv]
      exact ⟨_, hgo, rfl, showPoint_point hw⟩
    · exact if_neg (by simp [hm, hs, x])
    · exact if_neg (by simp [hs, x])
    · obtain ⟨hseq, hhas, hframe⟩ := sensorNotes sensors (rails.foldl railNote s)
      obtain ⟨hrseq, hrframe⟩ := railNotes rails s
      have hex : (rails.foldl railNote s).pw = s.pw := by rw [hrframe]
      refine ⟨_, railCheck_on hm rails sensors, by rw [hseq, hrseq], fun k => by rw [hhas, hex], ?_⟩
      rw [hframe, hrframe]
    · show execDroopRecalibrate c s = _
      rcases hst with h | h
      · have h' : (s.cell c).cp.st = .doze := h
        refine if_pos ?_
        rw [h', hm]
        exact decide_eq_true ht
      · have h' : (s.cell c).cp.st = .asleep := h
        refine if_pos ?_
        rw [h', hm]
        exact decide_eq_true ht
    · exact pwrPhtClr_leaves hr hw
  · intro s o v i
    refine ⟨fun hs hr hexit => ?_, fun hm hsr hidle hask => ⟨s.enterSr i.val, ?_, fun k hk => ?_, pll_enterSr s
      i.val, ?_⟩,
      fun hx hb hs hw => ⟨_, hbmSrExitDone_still hx hb hs, fun k hk => stackSr_exit s hk, ?_, rfl⟩⟩
    · have hbit : ∀ k, bitB v.toNat k = v.getLsbD k := fun k => bitB_eq_testBit _ _
      have hreq := requested_requestSr s v.toNat (fun k hk h => hexit k hk (by rw [← hbit, h]))
      have hgo := exec_pwrHbmSr hr v
      rw [hreq.frame, goOn_still (still_withPw hs _ _), ← hreq.frame] at hgo
      refine ⟨_, hgo, fun k hk => ?_, fun k hk hv h0 hi => hreq.want k hk (by rw [hbit, hv]) h0 hi, hreq.pll,
        hreq.frame⟩
      rw [hreq.sr k hk, hbit, decide_eq_true hk, Bool.true_and]
    · refine if_pos ?_
      rcases hask with h | h <;> simp [hm, hsr, hidle, h]
    · rw [stackSr_enterSr s hk]
    · have hfilter : s.pw.srWant.filter (fun k => k.val != i.val) = s.pw.srWant.filter (fun k => k != i) :=
        List.filter_congr (fun k _ => by rw [Bool.eq_iff_iff]; simp [Fin.ext_iff])
      rw [enterSr_frame, hfilter]
    · exact freg_count_self (s := { s with pw := _ }) _ _ hw

end Sys2Proof.Proofs
end
section
/-! Writes to the registers of a cell through a port (R246, R417): one register, in full, and no violation of the fence. -/

namespace Sys2Proof.Proofs

open Sys2Proof Sys2Proof.Machine Sys2Proof.Laws

section
variable {s : State} {o : Origin} {c : CellId} {off : Nat}

theorem inCells_cellPa (c : CellId) (hoff : off < 0x10000) : inCells (cellPa c off) = true := by
  have hc := c.isLt
  rw [inCells, Bool.and_eq_true, decide_eq_true_iff, decide_eq_true_iff, cellPa, cellRegBase]
  omega

theorem cellPa_offset (c : CellId) (hoff : off < 0x10000) : (cellPa c off - cellRegBase) % 0x10000 = off := by
  simp only [cellPa, cellRegBase]
  omega

theorem cellPa_cell (c : CellId) (hoff : off < 0x10000) : cellNo ((cellPa c off - cellRegBase) / 0x10000) = c := by
  have hc := c.isLt
  apply Fin.ext
  simp only [cellPa, cellRegBase, cellNo]
  omega

theorem regWidth_cellPa (c : CellId) (hoff : off < 0x10000) : regWidth (cellPa c off) = cellWidth off := by
  rw [regWidth, if_pos (inCells_cellPa c hoff), cellPa_offset c hoff]

theorem setsStart_cellPa (c : CellId) (hoff : off < 0x10000) (v em : Nat) :
    setsStart (cellPa c off) v em = (off == CR.SQ_CTRL && bitB (v &&& em) 0) := by
  rw [setsStart, inCells_cellPa c hoff, cellPa_offset c hoff, Bool.true_and]

/-- A write that the fence lets through is one of the cell's registers, start and all where no service core asks for it. -/
theorem writeAt_cell (h : Reaches o s (cellPa c off)) (hoff : off < 0x10000) (v em : Nat) (cap : Option CapIn)
    (hstart : (∃ k, o = .service k) → setsStart (cellPa c off) v em = false) :
    s.writeAt o (cellPa c off) v em cap = (s.writeCell o c off v em).goOn := by
  obtain ⟨-, hfence⟩ := h
  cases o with
  | service k =>
    have hno := hstart ⟨k, rfl⟩
    simp only [State.writeAt, inCells_cellPa c hoff, cellPa_offset c hoff, cellPa_cell c hoff, if_true] at *
    rw [if_neg (by simp [hfence]), if_neg (by simp [hno])]
  | host | debug | root | ownCell =>
    simp_all [State.writeAt, inCells_cellPa c hoff, cellPa_offset c hoff, cellPa_cell c hoff]

/-- A cell's registers lie in neither block that the fence protects as a whole. -/
theorem blocked_cellPa (c : CellId) (hoff : off < 0x10000) {width v : Nat}
    (h : (parts (cellPa c off) width v).any (fun p => fencedService p.1 || setsStart p.1 p.2.1 p.2.2) = false) :
    blocked (cellPa c off) width v = false := by
  have hc := c.isLt
  have hsec : inSecurity (cellPa c off) = false := by
    rw [inSecurity, Bool.and_eq_false_iff, decide_eq_false_iff_not, decide_eq_false_iff_not, cellPa, cellRegBase]
    omega
  have hsys : inSystem (cellPa c off) = false := by
    rw [inSystem, Bool.and_eq_false_iff, decide_eq_false_iff_not, decide_eq_false_iff_not, cellPa, cellRegBase]
    omega
  simp only [blocked, hsec, hsys, h, Bool.or_self]

theorem writeReg_part (h : Reaches o s (cellPa c off)) (hoff : off < 0x10000) {width v v1 em : Nat}
    (hparts : parts (cellPa c off) width v = [(cellPa c off, v1, em)])
    (hstart : (∃ k, o = .service k) → setsStart (cellPa c off) v1 em = false) (cap : Option CapIn) :
    s.writeReg o (cellPa c off) width v cap = (s.writeCell o c off v1 em).goOn := by
  have hwrite := writeAt_cell h hoff v1 em cap hstart
  have hregs : inRegs (cellPa c off) = true := by simp [inRegs, inCells_cellPa c hoff]
  obtain ⟨hreach, hfence⟩ := h
  cases o with
  | service k =>
    have hblocked : blocked (cellPa c off) width v = false :=
      blocked_cellPa c hoff (by simpa [hparts, hfence] using hstart ⟨k, rfl⟩)
    simp [State.writeReg, hreach, hregs, hparts, hblocked, hwrite]
  | host | root | debug | ownCell => simp [State.writeReg, hreach, hregs, hparts, hwrite]

/-- A write of 4 bytes to a register of 32 bits of a cell. -/
theorem writeReg_cellWord (h : Reaches o s (cellPa c off)) (hoff : off < 0x10000) (hwidth : cellWidth off = 32)
    (halign : off % 4 = 0) {v : Nat} (hv : v < 2 ^ 32)
    (hstart : (∃ k, o = .service k) → off = CR.SQ_CTRL → bitB (v &&& lowHalf) 0 = false) (cap : Option CapIn) :
    s.writeReg o (cellPa c off) 4 v cap = (s.writeCell o c off v lowHalf).goOn := by
  have ha : cellPa c off % 4 = 0 := by simp only [cellPa, cellRegBase]; omega
  refine writeReg_part h hoff ?_ ?_ cap
  · simp only [parts, regWidth_cellPa c hoff, hwidth, ha, Nat.mod_eq_of_lt hv]
    rfl
  · intro hs
    rw [setsStart_cellPa c hoff]
    by_cases hq : off = CR.SQ_CTRL
    · simp [hstart hs hq]
    · simp [hq]

/-- A write of 8 bytes to a register of 64 bits of a cell. -/
theorem writeReg_cellDword (h : Reaches o s (cellPa c off)) (hoff : off < 0x10000) (hwidth : cellWidth off = 64)
    (halign : off % 8 = 0) (hctrl : off ≠ CR.SQ_CTRL) (v : Nat) (cap : Option CapIn) :
    s.writeReg o (cellPa c off) 8 v cap = (s.writeCell o c off v (lowHalf * 2 ^ 32 + lowHalf)).goOn := by
  have ha : cellPa c off % 8 = 0 := by simp only [cellPa, cellRegBase]; omega
  refine writeReg_part h hoff ?_ ?_ cap
  · simp only [parts, regWidth_cellPa c hoff, hwidth, ha]
    rfl
  · intro _
    simp [setsStart_cellPa c hoff, hctrl]

end

end Sys2Proof.Proofs
end
section
/-! Cells that doze, sleep and wake, and the compute PLL that their wakes start (R440 to R444). -/

namespace Sys2Proof.Proofs

open Sys2Proof Sys2Proof.Machine Sys2Proof.Laws

/-! ### DOZE -/

theorem execDozeWake_stays {s : State} {c : CellId} (h : (s.cell c).cp.st ≠ .doze ∨ (s.cell c).yieldPoint = true) :
    execDozeWake c s = .next s := by
  refine if_neg ?_
  rcases h with h | h <;> simp [h]

theorem execDozeWake_wakes {s : State} {c : CellId} (hst : (s.cell c).cp.st = .doze) (hmode : (s.cell c).mode =
    .running)
    (hyield : (s.cell c).yieldPoint = false) : execDozeWake c s = .next ((s.endDoze c).pump c) :=
  if_pos (by simp [hst, hmode, hyield])

/-- A cell that runs with nothing in flight has an instruction to dispatch. -/
theorem yieldPoint_empty {x : Cell} (hmode : x.mode = .running) (hw : x.window = []) : x.yieldPoint = false := by
  simp [Cell.yieldPoint, hmode, Cell.head, hw]

theorem endDoze_state {s : State} {c : CellId} (h : (s.cell c).cp.st = .doze) :
    s.endDoze c = { s.setCell c { (s.cell c).count CR.CP_DOZE_CNT (Config.stallCycles s.free) with
      cp := { (s.cell c).cp with st := .awake } } with free := s.free + 1 } := by
  rw [State.endDoze, h]
  rfl

/-! ### Sleep -/

/-- What CP_SLEEP writes to CP_CTRL: the writable bits as they are, and sleep. -/
theorem testBit_sleepWord (r i : Nat) : ((r &&& 0xFFFF0004) + 2).testBit i =
    if Nat.testBit 2 i then true else (r &&& 0xFFFF0004).testBit i := by
  have hzero : (r &&& 0xFFFF0004) &&& 2 = 0 := by rw [Nat.and_assoc]; exact Nat.and_zero _
  have h := testBit_sub_and_add (r &&& 0xFFFF0004) 2 2 i
  rw [hzero, Nat.sub_zero] at h
  rw [show (2 : Nat) = 2 &&& 2 from rfl, h]
  by_cases h2 : Nat.testBit 2 i <;> simp [h2]

theorem sleepWord_lt (r : Nat) : (r &&& 0xFFFF0004) + 2 < 2 ^ 32 := by
  have h : r &&& 0xFFFF0004 ≤ 0xFFFF0004 := Nat.and_le_right
  omega

/-- CP_CTRL as the write of CP_SLEEP leaves it. -/
def sleepCtrl (x : Cell) : Nat :=
  let new := maskWrite ⟨CR.CP_CTRL, 1, 0, 32, .plain, 0xffff0004, 0x0, 0x2, 0x400000⟩ (x.reg CR.CP_CTRL)
    ((x.reg CR.CP_CTRL &&& 0xFFFF0004) + 2) lowHalf
  new - (new &&& 2)

theorem bit_sleepCtrl (x : Cell) : bitB (sleepCtrl x) 2 = bitB (x.reg CR.CP_CTRL) 2 := by
  rw [bitB_eq_testBit, bitB_eq_testBit, sleepCtrl, sub_and_eq_ldiff, Nat.testBit_ldiff, testBit_maskWrite_any,
    testBit_lowHalf (by decide), testBit_sleepWord, Nat.testBit_and]
  simp [show Nat.testBit 4294901764 2 = true by decide, show Nat.testBit 2 2 = false by decide]

theorem sleepCell_slept {s : State} {c : CellId} (hmode : (s.cell c).mode ≠ .running) (hidle : (s.cell c).idle = true)
    (hst : (s.cell c).cp.st = .awake) : s.sleepCell c = (s.setCell c ((s.cell c).fallAsleep s.free)).draw.stopPll := by
  rw [State.sleepCell]
  simp only [hst, hidle, hmode, ne_eq, not_false_eq_true, decide_true, Bool.and_self, if_true, endDoze_awake hst]

theorem still_slept {s : State} (h : Still s) (c : CellId) {x : Cell} (hx : x.window = []) (p : PwrState) (n : Nat) :
    Still { s.setCell c x with pw := p, free := n } := by
  refine ⟨fun d => ?_, h.done, h.settled⟩
  show ((s.setCell c x).cell d).window = []
  rw [cell_setCell]
  split
  · exact hx
  · exact h.empty d

/-- The cell as CP_SLEEP leaves it. -/
def slept (s : State) (c : CellId) : Cell :=
  ((s.cell c).setReg CR.CP_CTRL (sleepCtrl (s.cell c))).fallAsleep s.free

theorem execCpSleep_sleeps {s : State} {o : Origin} {c : CellId} (hstill : Still s) (h : Reaches o s (cellPa c
    CR.CP_CTRL))
    (ho : o ≠ .ownCell) (hmode : (s.cell c).mode ≠ .running) (hidle : (s.cell c).idle = true)
    (hst : (s.cell c).cp.st = .awake) : execCpSleep o c s = .next (s.setCell c (slept s c)).draw.stopPll := by
  have hwrite : s.writeCell o c CR.CP_CTRL (((s.cell c).reg CR.CP_CTRL &&& 0xFFFF0004) + 2) lowHalf =
      (s.setCell c (slept s c)).draw.stopPll := by
    have hcell : ∀ y : Cell, (s.setCell c y).cell c = y := cell_setCell_self s c
    have hsleep := sleepCell_slept (s := s.setCell c ((s.cell c).setReg CR.CP_CTRL (sleepCtrl (s.cell c)))) (c := c)
      (by rw [hcell]; exact hmode) (by rw [hcell]; exact hidle) (by rw [hcell]; exact hst)
    rw [hcell, setCell_setCell] at hsleep
    rw [show (s.setCell c (slept s c)).draw.stopPll = _ from hsleep.symm]
    have hbit : bitB (((s.cell c).reg CR.CP_CTRL &&& 0xFFFF0004) + 2) 1 = true := by
      rw [bitB_eq_testBit, testBit_sleepWord]
      rfl
    cases o with
    | ownCell => exact absurd rfl ho
    | host | debug | root | service _ => exact if_pos hbit
  have hstill' : Still (s.setCell c (slept s c)).draw.stopPll := by
    refine still_slept hstill c ?_ _ _
    have hw := hstill.empty c
    simp only [slept, Cell.fallAsleep]
    split <;> exact hw
  rw [execCpSleep, writeReg_cellWord h (by decide) (by decide) (by decide) (sleepWord_lt _) (fun _ h => absurd h (by
    decide)),
    hwrite, goOn_still hstill']

theorem fallAsleep_keeps (x : Cell) (n : Nat) : (x.fallAsleep n).cp.st = .asleep ∧ (x.fallAsleep n).acc = [] ∧
    (x.fallAsleep n).regs = x.regs ∧ (x.fallAsleep n).sems = x.sems ∧ (x.fallAsleep n).qs = x.qs ∧
    (x.fallAsleep n).cp.retained = bitB (x.reg CR.CP_CTRL) 2 := by
  unfold Cell.fallAsleep
  dsimp only
  split <;> exact ⟨rfl, rfl, rfl, rfl, rfl, rfl⟩

theorem fallAsleep_retained {x : Cell} (h : bitB (x.reg CR.CP_CTRL) 2 = true) (n : Nat) :
    (x.fallAsleep n).oc = x.oc ∧ (x.fallAsleep n).im = x.im ∧ (x.fallAsleep n).s = x.s ∧ (x.fallAsleep n).d = x.d := by
  have hk : x.fallAsleep n = { x with
      acc := [], accEpoch := n + 1, cp := { x.cp with st := .asleep, retained := bitB (x.reg CR.CP_CTRL) 2 } } :=
        if_pos h
  rw [hk]
  exact ⟨rfl, rfl, rfl, rfl⟩

theorem fallAsleep_cleared {x : Cell} (h : bitB (x.reg CR.CP_CTRL) 2 = false) (n : Nat) :
    (∀ r, (x.fallAsleep n).rdS r = 0) ∧ ∀ r, (x.fallAsleep n).rdD r = 0 := by
  have hs : (x.fallAsleep n).s = Vector.replicate 32 0 ∧ (x.fallAsleep n).d = Vector.replicate 16 0 := by
    unfold Cell.fallAsleep
    dsimp only
    split
    next hk => exact absurd (h.symm.trans hk) (by simp)
    · exact ⟨rfl, rfl⟩
  constructor
  · intro r
    simp [Cell.rdS, hs.1]
  · intro r
    simp [Cell.rdD, hs.2]

/-! ### Wakes -/

theorem pllAt_running {s : State} {n : Nat} (h : s.pllAt = some n) : s.pw.pll = some n := by
  rcases pllAt_or s with hp | hp
  · exact hp.symm.trans h
  · rw [hp] at h
    exact absurd h (by simp)

/-- The compute PLL goes on while a cell waits for admission. -/
theorem pllAt_waiting {s : State} (h : s.pw.cellQ ≠ []) : s.pllAt = s.pw.pll := by
  refine if_neg ?_
  simp [h]

theorem pllAt_awake {s : State} {c : CellId} (h : (s.cell c).cp.st ≠ .asleep) : s.pllAt = s.pw.pll := by
  refine if_neg ?_
  have hall : allCells.all (fun c => (s.cell c).cp.st == .asleep) = false := by
    rw [List.all_eq_false]
    exact ⟨c, List.mem_finRange c, by simp [h]⟩
  simp [State.allQuiet, hall]

/-- How many wakes are admitted at once (R444). -/
def wakeRoom (s : State) : Nat := if s.pllAt = some 0 ∧ s.pw.cellQ = [] then s.cellMax - s.pw.cellN else 0

/-- Cell x, with its wake admitted, or waiting for admission. -/
def wakeAs (x : Cell) (admitted waits : Bool) : Cell :=
  { x with cp := { x.cp with
      st := if admitted then .waking else x.cp.st, admitWait := if waits then true else x.cp.admitWait } }

theorem beginWake_cell {s : State} {c : CellId} (hwait : (s.cell c).cp.admitWait = false) :
    s.beginWake c = s.setCell c (wakeAs (s.cell c) true false) := by
  rw [State.beginWake, State.modCell, wakeAs, hwait]
  rfl

/-- A wake that the limit allows begins at once. -/
theorem requestWake_admitted {s : State} {c : CellId} (hst : (s.cell c).cp.st = .asleep)
    (hwait : (s.cell c).cp.admitWait = false) (hroom : 0 < wakeRoom s) :
    s.requestWake c = { s.setCell c (wakeAs (s.cell c) true false) with pw := { s.pw with cellN := s.pw.cellN + 1 }
      } := by
  have hcond : s.pllAt = some 0 ∧ s.pw.cellQ = [] := by
    by_contra hno
    rw [wakeRoom, if_neg hno] at hroom
    exact absurd hroom (by decide)
  rw [wakeRoom, if_pos hcond] at hroom
  rw [State.requestWake]
  simp only [hst, hwait]
  rw [if_neg (by decide), if_pos (by simp only [hcond]; simp; omega), beginWake_cell hwait]

/-- Any other wake waits, and is counted. -/
theorem requestWake_queued {s : State} {c : CellId} (hst : (s.cell c).cp.st = .asleep)
    (hwait : (s.cell c).cp.admitWait = false) (hroom : wakeRoom s = 0) :
    s.requestWake c = State.count { s.startPll.setCell c (wakeAs (s.cell c) false true) with
      pw := { s.startPll.pw with cellQ := s.startPll.pw.cellQ ++ [c] } } FR.PWR_WAKE_DEFER_CNT := by
  have hcond : ¬ (s.pllAt == some 0 && s.pw.cellQ.isEmpty && decide (s.pw.cellN < s.cellMax)) = true := by
    intro h
    simp only [Bool.and_eq_true, beq_iff_eq, List.isEmpty_iff, decide_eq_true_eq] at h
    rw [wakeRoom, if_pos h.1] at hroom
    omega
  rw [State.requestWake]
  simp only [hst, hwait]
  rw [if_neg (by decide), if_neg hcond]
  simp only [wakeAs, hst]
  rfl

/-- What the wakes of the cells ds do while the compute PLL is not stopped: as many as there is room for begin, the others
wait. -/
structure Wakes (s : State) (ds : List CellId) (t : State) : Prop where
  pw : t.pw = { s.pw with
    cellN := s.pw.cellN + min (wakeRoom s) ds.length, cellQ := s.pw.cellQ ++ ds.drop (wakeRoom s) }
  defer : t.freg FR.PWR_WAKE_DEFER_CNT = (s.freg FR.PWR_WAKE_DEFER_CNT + (ds.length - wakeRoom s)) % 2 ^ 64
  cells : ∀ d, t.cell d = wakeAs (s.cell d) (decide (d ∈ ds.take (wakeRoom s))) (decide (d ∈ ds.drop (wakeRoom s)))
  frame : t = { s with cells := t.cells, pw := t.pw, fregs := t.fregs }

theorem wakeAs_not (x : Cell) : wakeAs x false false = x := rfl

theorem wakeAs_wakeAs (x : Cell) (a b p q : Bool) : wakeAs (wakeAs x a b) p q = wakeAs x (p || a) (q || b) := by
  cases p <;> cases q <;> rfl

theorem wakes_nil (s : State) : Wakes s [] s where
  pw := by simp
  defer := by rw [List.length_nil, Nat.zero_sub, Nat.add_zero, Nat.mod_eq_of_lt (freg_lt s _)]
  cells d := by simp [wakeAs_not]
  frame := rfl

/-- A wake of a cell that is asleep leaves the PLL and the other cells, and takes what room there is. -/
theorem wakes_one {s : State} {c : CellId} {n : Nat} (hpll : s.pllAt = some n) (hst : (s.cell c).cp.st = .asleep)
    (hwait : (s.cell c).cp.admitWait = false) (hw : FGood s.fregs) :
    Wakes s [c] (s.requestWake c) ∧ (s.requestWake c).pllAt = some n ∧ FGood (s.requestWake c).fregs ∧
      wakeRoom (s.requestWake c) = wakeRoom s - 1 := by
  have hrun := pllAt_running hpll
  rcases Nat.eq_zero_or_pos (wakeRoom s) with hroom | hroom
  · have hstart : s.startPll = s := by rw [State.startPll, hpll]
    have ht := requestWake_queued hst hwait hroom
    rw [hstart] at ht
    have hq : (s.requestWake c).pw.cellQ ≠ [] := by rw [ht]; exact List.append_ne_nil_of_right_ne_nil _ (by simp)
    have hp : (s.requestWake c).pllAt = some n := by
      rw [pllAt_waiting hq, ht]
      exact hrun
    refine ⟨⟨?_, ?_, fun d => ?_, ?_⟩, hp, ?_, ?_⟩
    · rw [ht, hroom]; rfl
    · rw [ht, hroom]; exact freg_count_self _ 1 hw
    · rw [ht, hroom]
      show (s.setCell c _).cell d = _
      rw [cell_setCell]
      split
      next h => simp [h]
      next h => simp [h, wakeAs_not]
    · rw [ht]; rfl
    · rw [ht]; exact smap_wf_set _ _ _ _ hw
    · rw [hroom, wakeRoom, if_neg (fun h => hq h.2)]
  · have ht := requestWake_admitted hst hwait hroom
    have hcond : s.pllAt = some 0 ∧ s.pw.cellQ = [] := by
      by_contra hno
      rw [wakeRoom, if_neg hno] at hroom
      exact absurd hroom (by decide)
    have hwaking : ((s.requestWake c).cell c).cp.st = .waking := by
      rw [ht]
      show ((s.setCell c _).cell c).cp.st = _
      rw [cell_setCell_self]
      rfl
    have hp : (s.requestWake c).pllAt = some n := by
      rw [pllAt_awake (c := c) (by rw [hwaking]; decide), ht]
      exact hrun
    have hn : n = 0 := Option.some.inj (hpll.symm.trans hcond.1)
    have hdrop : [c].drop (wakeRoom s) = [] := List.drop_eq_nil_of_le hroom
    have htake : [c].take (wakeRoom s) = [c] := List.take_of_length_le hroom
    refine ⟨⟨?_, ?_, fun d => ?_, ?_⟩, hp, ?_, ?_⟩
    · rw [ht, hdrop, List.append_nil, List.length_singleton, Nat.min_eq_right hroom]
    · rw [List.length_singleton, Nat.sub_eq_zero_of_le hroom, Nat.add_zero, Nat.mod_eq_of_lt (freg_lt s _), ht]
      rfl
    · rw [hdrop, htake, ht]
      show (s.setCell c _).cell d = _
      rw [cell_setCell]
      split
      next h => simp [h]
      next h => simp [h, wakeAs_not]
    · rw [ht]; rfl
    · rw [ht]; exact hw
    · rw [wakeRoom, wakeRoom, hp, hn, if_pos ⟨rfl, by rw [ht]; exact hcond.2⟩, if_pos hcond, ht]
      rfl

/-- One wake and then those of ds are the wakes of both. -/
theorem wakes_cons {s t1 t : State} {c : CellId} {ds : List CellId} (h1 : Wakes s [c] t1)
    (hroom : wakeRoom t1 = wakeRoom s - 1) (h2 : Wakes t1 ds t) : Wakes s (c :: ds) t := by
  have hframe : t = { s with cells := t.cells, pw := t.pw, fregs := t.fregs } := by
    rw [h2.frame, h1.frame]
  have hpw := h2.pw
  have hdefer := h2.defer
  have hcells := h2.cells
  rw [hroom] at hpw hdefer hcells
  rw [h1.pw] at hpw
  rw [h1.defer, Nat.mod_add_mod] at hdefer
  cases hr : wakeRoom s with
  | zero =>
    rw [hr] at hpw hdefer hcells
    refine ⟨?_, ?_, fun d => ?_, hframe⟩
    · rw [hpw, hr]; simp
    · rw [hdefer, hr]; simp only [List.length_cons, List.length_nil]; congr 1; omega
    · rw [hcells d, h1.cells d, wakeAs_wakeAs, hr]
      simp [Bool.or_comm]
  | succ r =>
    rw [hr, Nat.add_sub_cancel] at hpw hdefer hcells
    refine ⟨?_, ?_, fun d => ?_, hframe⟩
    · rw [hpw, hr, List.length_singleton, List.length_cons]
      simp only [List.drop_succ_cons, List.drop_nil, List.append_nil]
      rw [show s.pw.cellN + min (r + 1) 1 + min r ds.length = s.pw.cellN + min (r + 1) (ds.length + 1) by omega]
    · rw [hdefer, hr]; simp only [List.length_cons, List.length_nil]; congr 1; omega
    · rw [hcells d, h1.cells d, wakeAs_wakeAs, hr]
      simp [Bool.or_comm]

theorem wakes_all {ds : List CellId} (hnd : ds.Nodup) {s : State} {n : Nat} (hpll : s.pllAt = some n)
    (hasleep : ∀ d ∈ ds, (s.cell d).cp.st = .asleep ∧ (s.cell d).cp.admitWait = false) (hw : FGood s.fregs) :
    Wakes s ds (ds.foldl State.requestWake s) := by
  induction ds generalizing s with
  | nil => exact wakes_nil s
  | cons c ds ih =>
    obtain ⟨hc, hnd⟩ := List.nodup_cons.1 hnd
    obtain ⟨hst, hwait⟩ := hasleep c List.mem_cons_self
    obtain ⟨hone, hp, hwf, hroom⟩ := wakes_one hpll hst hwait hw
    refine wakes_cons hone hroom (ih hnd hp (fun d hd => ?_) hwf)
    have hother : (s.requestWake c).cell d = s.cell d := by
      rw [hone.cells d]
      have hne : d ≠ c := fun h => hc (h ▸ hd)
      have htake : d ∉ [c].take (wakeRoom s) := fun h => hne (List.mem_singleton.1 (List.mem_of_mem_take h))
      have hdrop : d ∉ [c].drop (wakeRoom s) := fun h => hne (List.mem_singleton.1 (List.mem_of_mem_drop h))
      simp [htake, hdrop, wakeAs_not]
    rw [hother]
    exact hasleep d (List.mem_cons_of_mem _ hd)

/-! ### The cells that PWR_WAKE names -/

/-- The cells named by word k of a mask. -/
def namedCells (k : Fin 4) (v : Word) : List CellId :=
  ((List.range 64).filter (fun n => v.getLsbD n)).map (fun n => cellNo (64 * k.val + n))

theorem foldl_filter_map {α β γ : Type} (p : α → Bool) (g : α → β) (f : γ → β → γ) (l : List α) (s : γ) :
    l.foldl (fun s a => if p a then f s (g a) else s) s = ((l.filter p).map g).foldl f s := by
  rw [List.foldl_map, List.foldl_filter]

theorem wakeMask_named (s : State) (k : Fin 4) (v : Word) :
    s.wakeMask k.val v.toNat = (namedCells k v).foldl State.requestWake s := by
  rw [State.wakeMask, namedCells, ← foldl_filter_map]
  simp only [bitB_eq_testBit]
  rfl

theorem namedCells_nodup (k : Fin 4) (v : Word) : (namedCells k v).Nodup := by
  refine List.Nodup.map_on ?_ (List.nodup_range.filter _)
  intro a ha b hb hab
  have ha := List.mem_range.1 (List.mem_of_mem_filter ha)
  have hb := List.mem_range.1 (List.mem_of_mem_filter hb)
  have hk := k.isLt
  have h : (64 * k.val + a) % 256 = (64 * k.val + b) % 256 := congrArg Fin.val hab
  omega

/-! ### PWR_WAKE -/

theorem floorReg_pwrWake (k : Fin 4) : ∃ r, floorReg (FR.PWR_WAKE k.val) = some r ∧ r.kind = .action ∧ r.width = 64
    := by
  have h : ∀ k : Fin 4, (floorReg (FR.PWR_WAKE k.val)).any (fun r => r.kind == .action && r.width == 64) = true := by
    decide
  obtain ⟨r, hr, hp⟩ := Option.any_eq_true _ _ |>.1 (h k)
  simp only [Bool.and_eq_true, beq_iff_eq] at hp
  exact ⟨r, hr, hp⟩

theorem pwrWake_place (k : Fin 4) : inRegs (FR.PWR_WAKE k.val) = true ∧ inCells (FR.PWR_WAKE k.val) = false ∧
    regWidth (FR.PWR_WAKE k.val) = 64 ∧ FR.PWR_WAKE k.val % 8 = 0 := by
  have h : ∀ k : Fin 4, inRegs (FR.PWR_WAKE k.val) = true ∧ inCells (FR.PWR_WAKE k.val) = false ∧
    regWidth (FR.PWR_WAKE k.val) = 64 ∧ FR.PWR_WAKE k.val % 8 = 0 := by decide
  exact h k

theorem action_pwrWake (s : State) (k : Fin 4) (v : Nat) (cap : Option CapIn) :
    s.action (FR.PWR_WAKE k.val) v cap = s.wakeMask k.val v := by
  revert k
  intro k
  match k with
  | 0 | 1 | 2 | 3 => rfl

theorem word_and_all (v : Word) : v.toNat &&& (lowHalf * 2 ^ 32 + lowHalf) = v.toNat := by
  rw [show lowHalf * 2 ^ 32 + lowHalf = 2 ^ 64 - 1 from rfl, Nat.and_two_pow_sub_one_eq_mod, Nat.mod_eq_of_lt v.isLt]

theorem execPwrWake_named {s : State} {o : Origin} {k : Fin 4} (h : Reaches o s (FR.PWR_WAKE k.val)) (v : Word) :
    execPwrWake o k v s = .next ((namedCells k v).foldl State.requestWake s).goOn := by
  obtain ⟨hregs, hcells, hwidth, halign⟩ := pwrWake_place k
  obtain ⟨r, hr, hk, -⟩ := floorReg_pwrWake k
  rw [execPwrWake, writeReg_dword h hregs hcells hwidth halign, writeFloor_action hr hk, word_and_all, action_pwrWake,
    wakeMask_named]

/-- Cells that wake, or wait to, have nothing in flight. -/
theorem still_wakes {s t : State} (h : Still s)
    (hcells : ∀ d, ∃ a b, t.cell d = wakeAs (s.cell d) a b)
    (hf : ∃ p R n, t = { s with cells := t.cells, pw := p, fregs := R, free := n }) : Still t := by
  obtain ⟨p, R, n, hf⟩ := hf
  refine ⟨fun d => ?_, ?_, ?_⟩
  · obtain ⟨a, b, hd⟩ := hcells d
    rw [hd]
    exact h.empty d
  · rw [hf]; exact h.done
  · rw [hf]; exact h.settled

theorem wakes_still {s t : State} {ds : List CellId} (hw : Wakes s ds t) (h : Still s) : Still t :=
  still_wakes h (fun d => ⟨_, _, hw.cells d⟩) ⟨_, _, _, hw.frame⟩

/-- Where the PLL is stopped, the first wake starts it (R440). -/
theorem requestWake_starts {s : State} {c : CellId} (hpll : s.pllAt = none) (hst : (s.cell c).cp.st = .asleep)
    (hwait : (s.cell c).cp.admitWait = false) :
    s.requestWake c = State.count { s.setCell c (wakeAs (s.cell c) false true) with
      pw := { s.pw with cellQ := s.pw.cellQ ++ [c], pll := some (1 + Config.pllLock s.free % 15) }
      free := s.free + 1 } FR.PWR_WAKE_DEFER_CNT := by
  have hroom : wakeRoom s = 0 := if_neg (fun h => absurd (hpll.symm.trans h.1) (by simp))
  have hstart : s.startPll = State.draw { s with pw := { s.pw with pll := some (1 + Config.pllLock s.free % 15) } }
    := by
    rw [State.startPll, hpll]
  rw [requestWake_queued hst hwait hroom, hstart]
  rfl

/-- With the PLL stopped all the cells wait, and it has `us` µs to lock. -/
structure Queues (s : State) (ds : List CellId) (us : Nat) (t : State) : Prop where
  pw : t.pw = { s.pw with cellQ := ds, pll := some us }
  defer : t.freg FR.PWR_WAKE_DEFER_CNT = (s.freg FR.PWR_WAKE_DEFER_CNT + ds.length) % 2 ^ 64
  cells : ∀ d, t.cell d = wakeAs (s.cell d) false (decide (d ∈ ds))
  frame : t = { s with cells := t.cells, pw := t.pw, fregs := t.fregs, free := t.free }

/-- While the PLL locks nothing is admitted. -/
theorem queues_locking {s t : State} {ds : List CellId} {us : Nat} (hq : s.pw.cellQ = []) (hp : s.pw.pll = some us)
    (hroom : wakeRoom s = 0) (h : Wakes s ds t) : Queues s ds us t := by
  obtain ⟨hpw, hdefer, hcells, hframe⟩ := h
  rw [hroom] at hpw hdefer hcells
  refine ⟨?_, hdefer, fun d => ?_, ?_⟩
  · rw [hpw, hq, ← hp]; simp
  · rw [hcells d]; simp
  · rw [hframe]

theorem queues_stopped {s : State} {c : CellId} {ds : List CellId} (hnd : (c :: ds).Nodup) (hpll : s.pllAt = none)
    (hq : s.pw.cellQ = []) (hasleep : ∀ d ∈ c :: ds, (s.cell d).cp.st = .asleep ∧ (s.cell d).cp.admitWait = false)
    (hw : FGood s.fregs) :
    Queues s (c :: ds) (1 + Config.pllLock s.free % 15) ((c :: ds).foldl State.requestWake s) := by
  obtain ⟨hc, hnd⟩ := List.nodup_cons.1 hnd
  obtain ⟨hst, hwait⟩ := hasleep c List.mem_cons_self
  have hone := requestWake_starts hpll hst hwait
  have hcell (d : CellId) : (s.requestWake c).cell d = wakeAs (s.cell d) false (decide (d = c)) := by
    rw [hone]
    show (s.setCell c _).cell d = _
    rw [cell_setCell]
    split
    next h => simp [h]
    next h => simp [h, wakeAs_not]
  have hq1 : (s.requestWake c).pw.cellQ = [c] := by rw [hone, ← List.nil_append [c]]; exact congrArg (· ++ [c]) hq
  have hp1 : (s.requestWake c).pllAt = some (1 + Config.pllLock s.free % 15) := by
    rw [pllAt_waiting (by rw [hq1]; simp), hone]
    rfl
  have hroom : wakeRoom (s.requestWake c) = 0 := if_neg (fun h => absurd (hq1.symm.trans h.2) (by simp))
  have hdefer1 : (s.requestWake c).freg FR.PWR_WAKE_DEFER_CNT = (s.freg FR.PWR_WAKE_DEFER_CNT + 1) % 2 ^ 64 := by
    rw [hone]; exact freg_count_self _ 1 hw
  have hwf : FGood (s.requestWake c).fregs := by rw [hone]; exact smap_wf_set _ _ _ _ hw
  obtain ⟨hpw, hdefer, hcells, hframe⟩ := wakes_all hnd hp1 (fun d hd => by
    rw [hcell d]
    have hne : d ≠ c := fun h => hc (h ▸ hd)
    simpa [hne, wakeAs_not] using hasleep d (List.mem_cons_of_mem _ hd)) hwf
  rw [hroom] at hpw hdefer hcells
  rw [List.foldl_cons]
  refine ⟨?_, ?_, fun d => ?_, ?_⟩
  · rw [hpw, hq1, hone]; simp [State.count, State.setFreg]
  · rw [hdefer, hdefer1, Nat.mod_add_mod, List.length_cons]; congr 1; omega
  · rw [hcells d, hcell d, wakeAs_wakeAs]; simp [Bool.or_comm]
  · rw [hframe]; simp only [hone]; rfl

/-! ### Admission -/

theorem beginWakes {ds : List CellId} (s : State) : ∃ t, ds.foldl State.beginWake s = t ∧
    (∀ d, t.cell d = if d ∈ ds then
      { s.cell d with cp := { (s.cell d).cp with st := .waking, admitWait := false } } else s.cell d) ∧
    t = { s with cells := t.cells } := by
  induction ds generalizing s with
  | nil => exact ⟨s, rfl, fun d => by simp, rfl⟩
  | cons c ds ih =>
    obtain ⟨t, ht, hcells, hframe⟩ := ih (s.beginWake c)
    refine ⟨t, ht, fun d => ?_, hframe⟩
    rw [hcells d, State.beginWake, State.modCell, cell_setCell]
    by_cases hd : d = c
    · subst hd; simp
    · simp [hd]

theorem execWakeAdmission_admits (s : State) :
    let n := bits (s.freg FR.PWR_WAKE_CFG) 5 0
    let m := bits (s.freg FR.PWR_WAKE_CFG) 15 12
    let pll := s.pllAt.map (fun us => us - 1)
    let taken := if pll = some 0 then s.pw.cellQ.take n else []
    ∃ t : State, exec .wakeAdmission s = .next t ∧
      t.pw = { s.pw with
        cellQ := s.pw.cellQ.drop taken.length, hbmQ := s.pw.hbmQ.drop m, cellN := taken.length, pll := pll
        hbmN := min m s.pw.hbmQ.length, srExit := s.pw.srExit ++ s.pw.hbmQ.take m } ∧
      (∀ d, t.cell d = if d ∈ taken then
        { s.cell d with cp := { (s.cell d).cp with st := .waking, admitWait := false } } else s.cell d) ∧
      t = { s with cells := t.cells, pw := t.pw } := by
  intro n m pll taken
  have htaken : (if s.tickPll == some 0 then s.pw.cellQ.take s.cellMax else []) = taken := by
    simp only [beq_iff_eq]
    rfl
  obtain ⟨t, ht, hcells, hframe⟩ := beginWakes (ds := taken) { s with pw := { s.pw with
    cellQ := s.pw.cellQ.drop taken.length, hbmQ := s.pw.hbmQ.drop (s.pw.hbmQ.take m).length, cellN := taken.length
    pll := pll, hbmN := (s.pw.hbmQ.take m).length, srExit := s.pw.srExit ++ s.pw.hbmQ.take m } }
  refine ⟨t, ?_, ?_, hcells, ?_⟩
  · rw [← ht, ← htaken]
    rfl
  · have hdrop : s.pw.hbmQ.drop (s.pw.hbmQ.take m).length = s.pw.hbmQ.drop m := by
      rw [List.length_take]
      rcases Nat.le_total m s.pw.hbmQ.length with h | h
      · rw [Nat.min_eq_left h]
      · rw [Nat.min_eq_right h, List.drop_length, List.drop_eq_nil_of_le h]
    rw [hframe, hdrop, List.length_take]
  · rw [hframe]

/-! ### The end of a wake -/

/-- The cell once its wake is done and no reset waits for it. -/
def wakeDone (x : Cell) : Cell :=
  { (x.count CR.CP_WAKE_CNT) with cp := { x.cp with st := .awake, admitWait := false, held := [], goal := {} } }

/-- The cell with its sequencer started (R181, R182). -/
def started (x : Cell) : Cell :=
  { (x.clrReg CR.SQ_FAULT_CAUSE (2 ^ 63)).clrReg CR.SQ_CTRL 1 with mode := .running, inHandler := false }

/-- A start of a cell that is awake. -/
theorem startCell_awake {s : State} {c : CellId} (hst : (s.cell c).cp.st = .awake) (hfatal : s.fatal = false) :
    s.startCell c = if (s.cell c).mode = .running then s else s.setCell c (started (s.cell c)) := by
  rw [State.startCell, endDoze_awake hst]
  simp only [hfatal, hst]
  cases hmode : (s.cell c).mode <;> rfl

theorem startCell_fatal {s : State} {c : CellId} (hst : (s.cell c).cp.st = .awake) (hfatal : s.fatal = true) :
    s.startCell c = s := by
  rw [State.startCell, endDoze_awake hst]
  exact if_pos hfatal

/-- What a cell that has just become AWAKE does where neither a reset nor a post waits for it. -/
theorem awoken_quiet {s : State} {c : CellId} (hheld : (s.cell c).cp.held = []) (hreset : (s.cell c).cp.goal.reset =
    false) :
    s.awoken c = if (s.cell c).cp.goal.start then (s.setCell c (wakeDone (s.cell c))).startCell c
      else s.setCell c (wakeDone (s.cell c)) := by
  rw [State.awoken]
  simp only [hreset, hheld]
  rfl

theorem still_setCell {s : State} (h : Still s) (c : CellId) {x : Cell} (hx : x.window = []) : Still (s.setCell c x) :=
  still_slept h c hx s.pw s.free

theorem execCellWakeDone_awake {s : State} {c : CellId} (hst : (s.cell c).cp.st = .waking) (hheld : (s.cell
    c).cp.held = [])
    (hreset : (s.cell c).cp.goal.reset = false) (hstill : Still s) :
    ∃ y, execCellWakeDone c s = .next (s.setCell c y) ∧
      (y = wakeDone (s.cell c) ∨ y = started (wakeDone (s.cell c))) ∧
      ((s.cell c).cp.goal.start = false → y = wakeDone (s.cell c)) ∧
      ((s.cell c).cp.goal.start = true → s.fatal = false → y.mode = .running) := by
  have hdone : ∀ y, s.awoken c = s.setCell c y → (y = wakeDone (s.cell c) ∨ y = started (wakeDone (s.cell c))) →
      execCellWakeDone c s = .next (s.setCell c y) := by
    intro y hy hor
    have hw : y.window = [] := by
      rcases hor with h | h <;> rw [h] <;> exact hstill.empty c
    rw [execCellWakeDone]
    simp only [hst, hy, goOn_still (still_setCell hstill c hw)]
  have hawoken := awoken_quiet hheld hreset
  cases hstart : (s.cell c).cp.goal.start with
  | false =>
    rw [hstart, if_neg (by decide)] at hawoken
    exact ⟨_, hdone _ hawoken (.inl rfl), .inl rfl, fun _ => rfl, fun h => absurd h (by decide)⟩
  | true =>
    rw [hstart, if_pos rfl] at hawoken
    have hst' : ((s.setCell c (wakeDone (s.cell c))).cell c).cp.st = .awake := by rw [cell_setCell_self]; rfl
    cases hfatal : s.fatal with
    | true =>
      rw [startCell_fatal hst' hfatal] at hawoken
      exact ⟨_, hdone _ hawoken (.inl rfl), .inl rfl, fun h => absurd h (by decide), fun _ h => absurd h (by decide)⟩
    | false =>
      rw [startCell_awake hst' hfatal, cell_setCell_self, setCell_setCell] at hawoken
      by_cases hmode : (wakeDone (s.cell c)).mode = .running
      · rw [if_pos hmode] at hawoken
        exact ⟨_, hdone _ hawoken (.inl rfl), .inl rfl, fun h => absurd h (by decide), fun _ _ => hmode⟩
      · rw [if_neg hmode] at hawoken
        exact ⟨_, hdone _ hawoken (.inr rfl), .inr rfl, fun h => absurd h (by decide), fun _ _ => rfl⟩

theorem reg_started {x : Cell} {p : Nat} (h1 : p ≠ CR.SQ_FAULT_CAUSE) (h2 : p ≠ CR.SQ_CTRL) :
    (started x).reg p = x.reg p :=
  (reg_setReg_other _ _ h2).trans (reg_setReg_other _ _ h1)

theorem reg_wakeDone_cnt {x : Cell} (hw : SMap.wf cellResetVal x.regs = true) :
    (wakeDone x).reg CR.CP_WAKE_CNT = (x.reg CR.CP_WAKE_CNT + 1) % 2 ^ 64 := reg_count_self x _ 1 hw

/-- Settles O54: the events of a cell's states, each by the lemma about it; PWR_WAKE by induction on the cells it names. -/
theorem cellPowerStates : Obligations.CellPowerStates := by
  intro s c o x
  refine ⟨fun hready => ⟨_, if_pos hready, rfl⟩, fun hstay => ⟨_, execDozeWake_stays hstay, rfl⟩,
    fun hst hmode hyield => ⟨_, execDozeWake_wakes hst hmode hyield, rfl⟩, fun hst hmode hw => ?_,
    fun hstill hreach ho hmode hidle hst hwf => ?_, fun k v => ?_, execWakeAdmission_admits s,
    fun hst hheld hreset hstill hwf => ?_⟩
  · have hend := endDoze_state hst
    have hcell : (s.endDoze c).cell c = { x.count CR.CP_DOZE_CNT (Config.stallCycles s.free) with
        cp := { x.cp with st := .awake } } := by
      rw [hend]
      exact cell_setCell_self _ _ _
    have hidle : (s.endDoze c).pump c = s.endDoze c := pump_idle (by rw [hcell]; exact hw)
    refine ⟨s.endDoze c, ?_, by rw [hcell], ?_, fun p hp => ?_⟩
    · exact (execDozeWake_wakes hst hmode (yieldPoint_empty hmode hw)).trans (by rw [hidle])
    · rw [hcell, hend]; rfl
    · rw [hcell]; exact reg_count_other _ _ hp
  · have hcell : ((s.setCell c (slept s c)).draw.stopPll).cell c = slept s c := cell_setCell_self s c _
    obtain ⟨hasleep, hacc, hregs, hsems, hqs, hkept⟩ :=
      fallAsleep_keeps (x.setReg CR.CP_CTRL (sleepCtrl x)) s.free
    have hbit : bitB ((x.setReg CR.CP_CTRL (sleepCtrl x)).reg CR.CP_CTRL) 2 = bitB (x.reg CR.CP_CTRL) 2 := by
      rw [reg_setReg_self x _ _ hwf, bitB_mod_two_pow (by decide), bit_sleepCtrl]
    rw [hbit] at hkept
    refine ⟨_, execCpSleep_sleeps hstill hreach ho hmode hidle hst, ?_, ?_, fun hb => ?_, fun hb => ?_, fun p hp => ?_,
      ?_, ?_, fun d hd => ?_, ?_, rfl⟩
    · rw [hcell]; exact hasleep
    · rw [hcell]; exact hacc
    · rw [hcell]; exact ⟨hkept.trans hb, fallAsleep_retained (hbit.trans hb) s.free⟩
    · rw [hcell]; exact ⟨hkept.trans hb, fallAsleep_cleared (hbit.trans hb) s.free⟩
    · rw [hcell]
      show BitVec.toNat (SMap.get cellResetVal (slept s c).regs p) = _
      rw [show (slept s c).regs = (x.setReg CR.CP_CTRL (sleepCtrl x)).regs from hregs]
      exact reg_setReg_other x _ hp
    · rw [hcell]; exact hsems
    · rw [hcell]; exact hqs
    · exact cell_setCell_other s _ hd
    · have hq : (s.setCell c (slept s c)).draw.stopPll.pw.pll = (s.setCell c (slept s c)).draw.pllAt := rfl
      rw [hq]
      exact pllAt_or _
  · intro named room hstill hreach hq hasleep hw
    have hexec : execPwrWake o k v s = .next (named.foldl State.requestWake s).goOn := execPwrWake_named hreach v
    constructor
    · intro hpll
      have hwakes : Wakes s named (named.foldl State.requestWake s) :=
        wakes_all (namedCells_nodup k v) hpll hasleep hw
      have hroom : wakeRoom s = room := if_pos ⟨hpll, hq⟩
      rw [goOn_still (wakes_still hwakes hstill)] at hexec
      obtain ⟨hpw, hdefer, hcells, hframe⟩ := hwakes
      rw [hroom] at hpw hdefer hcells
      rw [hq] at hpw
      refine ⟨_, hexec, hpw, hdefer, fun d => ?_, hframe⟩
      rw [hcells d, wakeAs]
      simp only [decide_eq_true_eq]
    · intro hpll hne
      have hqueues : ∃ us, Queues s named us (named.foldl State.requestWake s) ∧
          (s.pllAt = none → 1 ≤ us ∧ us ≤ 15) ∧ ∀ n, s.pllAt = some n → us = n := by
        cases hp : s.pllAt with
        | none =>
          obtain ⟨d, ds, hds⟩ := List.exists_cons_of_ne_nil hne
          have hnd : named.Nodup := namedCells_nodup k v
          rw [hds] at hnd hasleep ⊢
          exact ⟨_, queues_stopped hnd hp hq hasleep hw, fun _ => by omega, fun n h => absurd h (by simp)⟩
        | some us =>
          have hroom : wakeRoom s = 0 := if_neg (fun h => hpll h.1)
          exact ⟨us, queues_locking hq (pllAt_running hp) hroom (wakes_all (namedCells_nodup k v) hp hasleep hw),
            fun h => absurd h (by simp), fun n h => Option.some.inj h⟩
      obtain ⟨us, ⟨hpw, hdefer, hcells, hframe⟩, hus⟩ := hqueues
      rw [goOn_still (still_wakes hstill (fun d => ⟨_, _, hcells d⟩) ⟨_, _, _, hframe⟩)] at hexec
      refine ⟨_, us, hexec, hus.1, hus.2, hpw, hdefer, fun d => ?_, hframe⟩
      rw [hcells d, wakeAs]
      simp only [decide_eq_true_eq]
      rfl
  · obtain ⟨y, hexec, hy, hno, hyes⟩ := execCellWakeDone_awake hst hheld hreset hstill
    have hcell : (s.setCell c y).cell c = y := cell_setCell_self s c y
    refine ⟨_, hexec, ?_, fun d hd => cell_setCell_other s _ hd, ?_, fun h => ?_, fun h hf => ?_, ?_, ?_, rfl⟩
    · rw [hcell]
      rcases hy with h | h <;> rw [h] <;> rfl
    · rw [hcell, ← reg_wakeDone_cnt hwf]
      rcases hy with h | h <;> rw [h]
      exact reg_started (by decide) (by decide)
    · rw [hcell, hno h]; rfl
    · rw [hcell]
      refine ⟨hyes h hf, ?_⟩
      rcases hy with h | h <;> rw [h] <;> rfl
    · rw [hcell]
      rcases hy with h | h <;> rw [h] <;> rfl
    · rw [hcell]
      rcases hy with h | h <;> rw [h] <;> rfl

end Sys2Proof.Proofs
end
section
/-! What software and the engines do to one cell: start and halt, the accumulators of reductions, self-test, and the
instruction at the head of a cell that an engine carries out. -/

namespace Sys2Proof.Proofs

open Sys2Proof Sys2Proof.Machine Sys2Proof.Laws

/-! ### The control word of a start and of a halt -/

theorem testBit_ctrlWord (r : Nat) {m : Nat} (hlt : (r &&& 0xEC) &&& m = 0) (i : Nat) :
    ((r &&& 0xEC) + m).testBit i = if m.testBit i then true else (r &&& 0xEC).testBit i := by
  have h := testBit_sub_and_add (r &&& 0xEC) m m i
  rw [hlt, Nat.sub_zero, Nat.and_self] at h
  rw [h]
  by_cases hb : m.testBit i <;> simp [hb]

theorem ctrlWord_lt (r : Nat) {m : Nat} (hm : m < 4) : (r &&& 0xEC) + m < 2 ^ 32 := by
  have h : r &&& 0xEC ≤ 0xEC := Nat.and_le_right
  omega

theorem and_ctrlWord (r : Nat) {m : Nat} (hm : 0xEC &&& m = 0) : (r &&& 0xEC) &&& m = 0 := by
  rw [Nat.and_assoc, hm, Nat.and_zero]

theorem bit_startWord (r : Nat) : bitB ((r &&& 0xEC) + 1) 0 = true ∧ bitB ((r &&& 0xEC) + 1) 1 = false := by
  constructor <;> rw [bitB_eq_testBit, testBit_ctrlWord r (and_ctrlWord r (by decide))]
  · rfl
  · rw [Nat.testBit_and]
    simp [show Nat.testBit 0xEC 1 = false by decide, show Nat.testBit 1 1 = false by decide]

theorem bit_haltWord (r : Nat) : bitB ((r &&& 0xEC) + 2) 0 = false ∧ bitB ((r &&& 0xEC) + 2) 1 = true := by
  constructor <;> rw [bitB_eq_testBit, testBit_ctrlWord r (and_ctrlWord r (by decide))]
  · rw [Nat.testBit_and]
    simp [show Nat.testBit 0xEC 0 = false by decide, show Nat.testBit 2 0 = false by decide]
  · rfl

/-! ### Start and halt -/

/-- A change of one cell that leaves nothing in flight is all that a write does. -/
theorem goOn_setCell {s : State} (h : Still s) (c : CellId) {x : Cell} (hx : x.window = []) :
    (s.setCell c x).goOn = s.setCell c x := goOn_still (still_setCell h c hx)

/-- SQ_CTRL as a write of v leaves it (R181). -/
def ctrlAfter (x : Cell) (v : Nat) : Nat :=
  (v &&& 0xE0) + 4 * (if 2 ≤ bits v 3 2 then bits (x.reg CR.SQ_CTRL) 3 2 else bits v 3 2) + (x.reg CR.SQ_CTRL &&& 3)

theorem writeCell_start {s : State} {o : Origin} {c : CellId} {v : Nat} (h0 : bitB v 0 = true) (h1 : bitB v 1 = false)
    (em : Nat) : s.writeCell o c CR.SQ_CTRL v em =
      (s.setCell c ((s.cell c).setReg CR.SQ_CTRL (ctrlAfter (s.cell c) v))).startCell c := by
  have hr : findReg cellRegMap CR.SQ_CTRL ≠ none := by decide
  obtain ⟨r, hr⟩ := Option.ne_none_iff_exists'.1 hr
  unfold State.writeCell
  simp only [hr, h0, h1, if_true, if_false, Bool.false_eq_true]
  rfl

theorem writeCell_halt {s : State} {o : Origin} (ho : o ≠ .ownCell) {c : CellId} {v : Nat} (h0 : bitB v 0 = false)
    (h1 : bitB v 1 = true) (em : Nat) : s.writeCell o c CR.SQ_CTRL v em =
      (s.setCell c ((s.cell c).setReg CR.SQ_CTRL (ctrlAfter (s.cell c) v))).haltCell c := by
  have hr : findReg cellRegMap CR.SQ_CTRL ≠ none := by decide
  obtain ⟨r, hr⟩ := Option.ne_none_iff_exists'.1 hr
  unfold State.writeCell
  simp only [hr, h0, h1, if_true, if_false, Bool.false_eq_true]
  cases o with
  | ownCell => exact absurd rfl ho
  | host | service _ | debug | root => rfl

/-- Cell x halted with nothing in flight. -/
def halted (x : Cell) : Cell :=
  { (x.clrReg CR.SQ_CTRL 2) with mode := .halted, runahead := none, stuck := none, wantArray := false }

/-- A halt of a cell with nothing in flight drops nothing. -/
theorem haltNow_empty {s : State} {c : CellId} (hw : (s.cell c).window = []) :
    s.haltNow c = s.setCell c (halted (s.cell c)) := by
  have hhead : (s.cell c).head = none := by rw [Cell.head, hw]; rfl
  have hgranted : s.finishGranted c = s := by rw [State.finishGranted, hhead]
  have hwithdraw : s.withdrawHead c = s := by rw [State.withdrawHead, hhead]
  rw [State.haltNow, hgranted, hwithdraw, State.modCell]
  have hleave : (s.cell c).leaveLine = s.cell c := by rw [Cell.leaveLine, hw]
  have hcount : (s.cell c).countDiscard [] = s.cell c := if_pos rfl
  have hpc : (s.cell c).pc = (s.cell c).npc := by rw [Cell.pc, hw]
  simp only [hleave, hw, hcount, hpc]
  congr 1
  simp only [halted, Cell.clrReg, Cell.setReg]
  rw [← hw]

theorem execSqStart_starts {s : State} {o : Origin} {c : CellId} (hstill : Still s)
    (hreach : Reaches o s (cellPa c CR.SQ_CTRL)) (ho : ∀ k, o ≠ .service k) (hmode : (s.cell c).mode ≠ .running)
    (hst : (s.cell c).cp.st = .awake) (hfatal : s.fatal = false) :
    execSqStart o c s = .next (s.setCell c (started ((s.cell c).setReg CR.SQ_CTRL
      (ctrlAfter (s.cell c) (((s.cell c).reg CR.SQ_CTRL &&& 0xEC) + 1))))) := by
  obtain ⟨h0, h1⟩ := bit_startWord ((s.cell c).reg CR.SQ_CTRL)
  have hcell := cell_setCell_self s c ((s.cell c).setReg CR.SQ_CTRL
    (ctrlAfter (s.cell c) (((s.cell c).reg CR.SQ_CTRL &&& 0xEC) + 1)))
  rw [execSqStart, writeReg_cellWord hreach (by decide) (by decide) (by decide) (ctrlWord_lt _ (by decide))
    (fun ⟨k, hk⟩ => absurd hk (ho k)), writeCell_start h0 h1, 
    startCell_awake (s := s.setCell c _) (by rw [hcell]; exact hst) hfatal, hcell, if_neg (by exact hmode),
      setCell_setCell, goOn_setCell hstill c]
  exact hstill.empty c

theorem execSqHalt_halts {s : State} {o : Origin} {c : CellId} (hreach : Reaches o s (cellPa c CR.SQ_CTRL))
    (ho : o ≠ .ownCell) (hmode : (s.cell c).mode = .running) :
    execSqHalt o c s = .next (((s.setCell c ((s.cell c).setReg CR.SQ_CTRL
      (ctrlAfter (s.cell c) (((s.cell c).reg CR.SQ_CTRL &&& 0xEC) + 2)))).endDoze c).haltNow c).goOn := by
  obtain ⟨h0, h1⟩ := bit_haltWord ((s.cell c).reg CR.SQ_CTRL)
  have hlow : bitB ((((s.cell c).reg CR.SQ_CTRL &&& 0xEC) + 2) &&& lowHalf) 0 = false := by
    rw [bitB_eq_testBit] at h0 ⊢
    rw [Nat.testBit_and, h0, Bool.false_and]
  have hcell := cell_setCell_self s c ((s.cell c).setReg CR.SQ_CTRL
    (ctrlAfter (s.cell c) (((s.cell c).reg CR.SQ_CTRL &&& 0xEC) + 2)))
  rw [execSqHalt, writeReg_cellWord hreach (by decide) (by decide) (by decide) (ctrlWord_lt _ (by decide))
    (fun _ _ => hlow), writeCell_halt ho h0 h1, State.haltCell, hcell,
    show ((s.cell c).setReg CR.SQ_CTRL _).mode = .running from hmode]

/-- A cell that is not in DOZE stays as it is. -/
theorem endDoze_not {s : State} {c : CellId} (h : (s.cell c).cp.st ≠ .doze) : s.endDoze c = s := by
  rw [State.endDoze]
  cases hst : (s.cell c).cp.st with
  | doze => exact absurd hst h
  | awake | asleep | waking => rfl

/-- Cell x out of DOZE, in which it was for n cycles. -/
def undozed (x : Cell) (n : Nat) : Cell :=
  { x.count CR.CP_DOZE_CNT n with cp := { x.cp with st := .awake } }

theorem cell_free (s : State) (n : Nat) (c : CellId) : ({ s with free := n } : State).cell c = s.cell c := rfl

theorem setCell_free (s : State) (n : Nat) (c : CellId) (x : Cell) :
    ({ s with free := n } : State).setCell c x = { s.setCell c x with free := n } := rfl

theorem execSqHalt_awake {s : State} {o : Origin} {c : CellId} (hstill : Still s)
    (hreach : Reaches o s (cellPa c CR.SQ_CTRL)) (ho : o ≠ .ownCell) (hmode : (s.cell c).mode = .running)
    (hst : (s.cell c).cp.st ≠ .doze) :
    execSqHalt o c s = .next (s.setCell c (halted ((s.cell c).setReg CR.SQ_CTRL
      (ctrlAfter (s.cell c) (((s.cell c).reg CR.SQ_CTRL &&& 0xEC) + 2))))) := by
  have hexec := execSqHalt_halts hreach ho hmode
  generalize hy : (s.cell c).setReg CR.SQ_CTRL _ = y at hexec ⊢
  have hcell : (s.setCell c y).cell c = y := cell_setCell_self s c y
  have hcp : y.cp.st ≠ .doze := by rw [← hy]; exact hst
  have hw : y.window = [] := by rw [← hy]; exact hstill.empty c
  rw [hexec, endDoze_not (by rw [hcell]; exact hcp), haltNow_empty (by rw [hcell]; exact hw), hcell, setCell_setCell,
    goOn_setCell hstill c]
  exact hw

theorem execSqHalt_dozes {s : State} {o : Origin} {c : CellId} (hstill : Still s)
    (hreach : Reaches o s (cellPa c CR.SQ_CTRL)) (ho : o ≠ .ownCell) (hmode : (s.cell c).mode = .running)
    (hst : (s.cell c).cp.st = .doze) :
    execSqHalt o c s = .next { s.setCell c (halted (undozed ((s.cell c).setReg CR.SQ_CTRL
      (ctrlAfter (s.cell c) (((s.cell c).reg CR.SQ_CTRL &&& 0xEC) + 2))) (Config.stallCycles s.free))) with
        free := s.free + 1 } := by
  have hexec := execSqHalt_halts hreach ho hmode
  generalize hy : (s.cell c).setReg CR.SQ_CTRL _ = y at hexec ⊢
  have hcell : (s.setCell c y).cell c = y := cell_setCell_self s c y
  have hcp : y.cp.st = .doze := by rw [← hy]; exact hst
  have hw : (undozed y (Config.stallCycles s.free)).window = [] := by
    show y.window = []
    rw [← hy]
    exact hstill.empty c
  have hend : (s.setCell c y).endDoze c =
      { s.setCell c (undozed y (Config.stallCycles s.free)) with free := s.free + 1 } := by
    have h := endDoze_state (s := s.setCell c y) (c := c) (by rw [hcell]; exact hcp)
    rw [hcell, setCell_setCell] at h
    exact h
  rw [hexec, hend, haltNow_empty (by rw [cell_free, cell_setCell_self]; exact hw), cell_free, cell_setCell_self,
    setCell_free, setCell_setCell]
  have hstill' := still_slept hstill c (x := halted (undozed y (Config.stallCycles s.free))) hw s.pw (s.free + 1)
  exact congrArg _ (goOn_still hstill')

theorem reg_halted (x : Cell) {p : Nat} (h : p ≠ CR.SQ_CTRL) : (halted x).reg p = x.reg p := reg_setReg_other _ _ h

theorem reg_started_cause {x : Cell} {v : Nat} (hwf : SMap.wf cellResetVal x.regs = true) :
    (started (x.setReg CR.SQ_CTRL v)).reg CR.SQ_FAULT_CAUSE = x.reg CR.SQ_FAULT_CAUSE % 2 ^ 63 := by
  have hother : (started (x.setReg CR.SQ_CTRL v)).reg CR.SQ_FAULT_CAUSE =
      ((x.setReg CR.SQ_CTRL v).clrReg CR.SQ_FAULT_CAUSE (2 ^ 63)).reg CR.SQ_FAULT_CAUSE :=
    reg_setReg_other _ _ (by decide)
  have hlt := reg_lt x CR.SQ_FAULT_CAUSE
  rw [hother, Cell.clrReg, reg_setReg_self _ _ _ (wf_setReg _ _ _ hwf), reg_setReg_other _ _ (by decide),
    sub_and_eq_ldiff]
  refine Nat.eq_of_testBit_eq fun i => ?_
  rw [Nat.testBit_mod_two_pow, Nat.testBit_mod_two_pow, Nat.testBit_ldiff, Nat.testBit_two_pow]
  by_cases h63 : i = 63
  · subst h63; simp
  · by_cases hi : i < 63
    · simp [hi, show i < 64 by omega, Ne.symm h63]
    · simp [hi, show ¬ i < 64 by omega]

/-! ### Reduction accumulators and self-test -/

/-- A plain register of a cell whose bits are all writable. -/
theorem maskWrite_all {r : RegInfo} (hrw : r.rw = 2 ^ 64 - 1) (hc : r.w1c = 0) (hs : r.w1s = 0) {old v : Nat}
    (hold : old < 2 ^ 64) (hv : v < 2 ^ 64) : maskWrite r old v (lowHalf * 2 ^ 32 + lowHalf) = v := by
  refine Nat.eq_of_testBit_eq fun i => ?_
  rw [testBit_maskWrite_any, hrw, hc, hs, show lowHalf * 2 ^ 32 + lowHalf = 2 ^ 64 - 1 from rfl,
    Nat.testBit_two_pow_sub_one]
  by_cases hi : i < 64
  · simp [hi]
  · rw [Nat.testBit_lt_two_pow (Nat.lt_of_lt_of_le hold (Nat.pow_le_pow_right (by decide) (Nat.le_of_not_lt hi))),
      Nat.testBit_lt_two_pow (Nat.lt_of_lt_of_le hv (Nat.pow_le_pow_right (by decide) (Nat.le_of_not_lt hi)))]
    simp

theorem findReg_facc (i : Fin 4) : ∃ r, findReg cellRegMap (CR.RU_FACC i.val) = some r ∧ r.kind = .plain ∧
    r.rw = 2 ^ 64 - 1 ∧ r.w1c = 0 ∧ r.w1s = 0 := by
  have h : ∀ i : Fin 4, (findReg cellRegMap (CR.RU_FACC i.val)).any (fun r =>
      r.kind == .plain && r.rw == 2 ^ 64 - 1 && r.w1c == 0 && r.w1s == 0) = true := by decide
  obtain ⟨r, hr, hp⟩ := Option.any_eq_true _ _ |>.1 (h i)
  simp only [Bool.and_eq_true, beq_iff_eq] at hp
  obtain ⟨⟨⟨hk, hrw⟩, hc⟩, hs⟩ := hp
  exact ⟨r, hr, hk, hrw, hc, hs⟩

theorem facc_place (i : Fin 4) : CR.RU_FACC i.val < 0x10000 ∧ cellWidth (CR.RU_FACC i.val) = 64 ∧
    CR.RU_FACC i.val % 8 = 0 ∧ CR.RU_FACC i.val ≠ CR.SQ_CTRL := by
  have h : ∀ i : Fin 4, CR.RU_FACC i.val < 0x10000 ∧ cellWidth (CR.RU_FACC i.val) = 64 ∧
    CR.RU_FACC i.val % 8 = 0 ∧ CR.RU_FACC i.val ≠ CR.SQ_CTRL := by decide
  exact h i

theorem writeCell_facc (s : State) (o : Origin) (c : CellId) (i : Fin 4) (v : Word) :
    s.writeCell o c (CR.RU_FACC i.val) v.toNat (lowHalf * 2 ^ 32 + lowHalf) =
      s.setCell c ((s.cell c).setReg (CR.RU_FACC i.val) v.toNat) := by
  obtain ⟨r, hr, hk, hrw, hc, hs⟩ := findReg_facc i
  have hmask := maskWrite_all hrw hc hs (reg_lt (s.cell c) (CR.RU_FACC i.val)) v.isLt
  match i with
  | 0 | 1 | 2 | 3 =>
    unfold State.writeCell
    simp only [hr, hk]
    rw [hmask]
    rfl

theorem writeCell_selftest (s : State) (o : Origin) (c : CellId) {v : Nat} (hv : bitB v 0 = true) (em : Nat) :
    s.writeCell o c CR.MX_SELFTEST v em = s.setCell c (s.cell c).requestTest := by
  have hr : findReg cellRegMap CR.MX_SELFTEST ≠ none := by decide
  obtain ⟨r, hr⟩ := Option.ne_none_iff_exists'.1 hr
  unfold State.writeCell
  simp only [hr]
  exact if_pos hv

theorem requestTest_empty {x : Cell} (hw : x.window = []) : x.requestTest = { x with mx := { x.mx with selftest :=
    true } } := by
  unfold Cell.requestTest
  split
  next h => simp only [← h]
  next h => rw [hw, List.map_nil, ← hw]

/-- A self-test that finds nothing (R97). -/
theorem endSelftest_good {x : Cell} (hf : x.mx.failed = false) (hmv : x.mx.mvFailed = false) :
    ∃ R, x.endSelftest {} = { x with regs := R, mx := {} } := by
  have hr : (repaired (x.reg CR.MX_REPAIR) {}).2 = false := by simp only [repaired, List.foldl_nil]
  unfold Cell.endSelftest
  generalize repaired (x.reg CR.MX_REPAIR) {} = q at hr
  simp only [hr, hf, hmv, Bool.or_false, Cell.count, Cell.setReg]
  exact ⟨_, rfl⟩

/-! ### An engine's instruction -/

/-- The head of a cell, which its engine carries out to the end without a post, leaving the cell as z. -/
theorem drive_retires {c : CellId} {s : State} {e : InFlight} {z : Cell} {post : Bool} (h : Holds c s e)
    (hb : e.ins.op ≠ .bloop) (hnext : e.next = some (nextPc e.pc e.ins.op)) (hpen : e.ins.x.pen = false)
    (hev : evalOp c e s = .done (s.setCell c { z with window := [e] }) none post) (hnpc : z.npc = (s.cell c).npc)
    (hctrl : z.reg CR.SQ_CTRL = (s.cell c).reg CR.SQ_CTRL) (hcanon : SMap.wf cellResetVal z.regs = true) :
    Retires (countersOf e) c s z (nextPc e.pc e.ins.op) (s.drive c) := by
  have hcell := cell_setCell_self s c { z with window := [e] }
  obtain ⟨u, hu, hdrive⟩ := drive_done (e1 := e) h hb hev
    { window := by rw [hcell], pc := rfl, op := rfl, x := rfl, next := rfl, waited := h.waited
      npc := by rw [hcell]; exact hnpc
      ctrl := by rw [hcell]; exact hctrl
      canon := by rw [hcell]; exact hcanon }
  rw [commitOf_predicted (e := e) (jump := none) hnext, Option.getD_none] at hu
  have hpost : u.completionPost c e.ins.x.pen e.ins.x.psem = u := by rw [hpen]; rfl
  rw [hdrive, hpost, ite_self]
  exact retires_over hu (by rw [hcell]) (fun d hd => cell_setCell_other s _ hd) rfl

/-- The entry of a GFILL whose limit has run out. -/
def limitOver (e : InFlight) : InFlight := { e with gather := { e.gather with expired := true } }

/-- Settles O28: each command's arm by the lemma about it; an engine's instruction by `drive_retires`. -/
theorem cellControl : Obligations.CellControl := by
  intro c s o x at'
  refine ⟨fun ⟨hstill, hreach⟩ ho hmode hst hfatal => ?_, fun ⟨hstill, hreach⟩ ho hmode hst => ?_,
    fun ⟨hstill, hreach⟩ ho hmode hst => ?_, fun i v ⟨hstill, hreach⟩ => ?_, fun v ⟨hstill, hreach⟩ hv => ?_,
    fun hw htest hlent hf hmv => ?_, fun e he hop hef hex hnext => ?_,
    fun e e' y he hop hpen hrows hlimit hnext he' hev hnpc hctrl hwf => ?_⟩
  · have hcell := cell_setCell_self s c (started (x.setReg CR.SQ_CTRL
      (ctrlAfter x ((x.reg CR.SQ_CTRL &&& 0xEC) + 1))))
    refine ⟨_, execSqStart_starts hstill hreach ho hmode hst hfatal, ?_, ?_, fun p hp hq => ?_, fun hwf => ?_⟩
    · rw [hcell]
    · rw [hcell]; rfl
    · rw [hcell]
      exact (reg_started hq hp).trans (reg_setReg_other _ _ hp)
    · rw [hcell]
      exact reg_started_cause hwf
  · refine ⟨_, execSqHalt_awake hstill hreach ho hmode hst, ?_, ?_, fun p hp => ?_⟩
    · rw [cell_setCell_self]
    · rw [cell_setCell_self]; rfl
    · rw [cell_setCell_self]
      exact (reg_halted _ hp).trans (reg_setReg_other _ _ hp)
  · refine ⟨_, execSqHalt_dozes hstill hreach ho hmode hst, ?_, ?_⟩
    · exact congrArg (fun y => ({ s.setCell c y with free := s.free + 1 } : State)) (cell_setCell_self s c _).symm
    · rw [cell_free, cell_setCell_self]; rfl
  · obtain ⟨hoff, hwidth, halign, hctrl⟩ := facc_place i
    refine ⟨_, ?_, rfl⟩
    show execRuFaccWrite o c i v s = _
    rw [execRuFaccWrite, writeReg_cellDword hreach hoff hwidth halign hctrl, writeCell_facc,
      goOn_setCell hstill c]
    exact hstill.empty c
  · refine ⟨_, ?_, rfl⟩
    show execMxSelftest o c v s = _
    rw [execMxSelftest, writeReg_cellWord hreach (by decide) (by decide) (by decide) v.isLt
      (fun _ h => absurd h (by decide)), writeCell_selftest s o c (by rw [bitB_eq_testBit]; exact hv),
      requestTest_empty (hstill.empty c), goOn_setCell hstill c]
    exact hstill.empty c
  · obtain ⟨R, hR⟩ := endSelftest_good (x := x) hf hmv
    have hexec : execSelftestDone c {} s = .next ((s.setCell c (x.endSelftest {})).pump c) :=
      if_pos (by simp [x, hw, htest, hlent])
    rw [hR, pump_idle (by rw [cell_setCell_self]; exact hw)] at hexec
    exact ⟨_, hexec, by rw [cell_setCell_self], by rw [cell_setCell_self]⟩
  · have hhead : (s.cell c).head = some e := by rw [Cell.head, he.only]; rfl
    have hev : evalOp c e s = .done (s.setCell c { x.setReg (CR.RU_FACC 0) 0 with window := [e] }) none true := by
      rw [evalOp, hop]
      simp only [evalRfclr, hef, hex]
      rw [if_neg (by decide), State.modCell]
      simp only [← he.only]
      rfl
    have hexec : execEngineInstructionComplete c s = .next (s.drive c) := by
      rw [execEngineInstructionComplete, hhead]
      exact if_pos (by rw [hop]; rfl)
    refine ⟨_, hexec, ?_⟩
    rw [← hop] at hnext ⊢
    exact drive_retires he (by rw [hop]; decide) hnext (by rw [hex]) hev rfl
      (reg_setReg_other _ _ (by decide)) (wf_setReg _ _ _ he.canon)
  · subst he'
    have hexec : execGfillLimitExpiry c s = .next ((s.setCell c { x with window := [limitOver e] }).drive c) := by
      have hhead : (s.cell c).head = some e := by rw [Cell.head, he.only]; rfl
      have hcond : (e.ins.op = .gfill && e.fault.isNone && e.gather.rows != [] &&
          bits ((s.cell c).rdS e.ins.f.ra).toNat 15 0 != 0) = true := by
        have hb : bits (x.rdS e.ins.f.ra).toNat 15 0 = (x.rdS e.ins.f.ra).toNat % 2 ^ 16 := by
          simp [bits]
        simp only [hop, he.sound, Bool.and_eq_true, bne_iff_ne, ne_eq]
        exact ⟨⟨⟨by simp, rfl⟩, hrows⟩, by rw [hb]; exact hlimit⟩
      rw [execGfillLimitExpiry, hhead]
      dsimp only
      rw [if_pos hcond, State.modCell, Cell.modHead, he.only]
      rfl
    have hholds : Holds c (s.setCell c { x with window := [limitOver e] }) (limitOver e) := by
      have hcell := cell_setCell_self s c { x with window := [limitOver e] }
      refine ⟨?_, ?_, he.sound, he.resolved, ?_, he.waited, ?_, ?_, ?_⟩
      · rw [hcell]; exact he.runs
      · rw [hcell]
      · rw [hcell]; exact he.follows
      · rw [hcell]; exact he.noHalt
      · exact he.noSubmit
      · rw [hcell]; exact he.canon
    have hdone : evalOp c (limitOver e) (s.setCell c { x with window := [limitOver e] }) =
        .done ((s.setCell c { x with window := [limitOver e] }).setCell c { y with window := [limitOver e] }) := by
      rw [evalOp, show (limitOver e).ins.op = .gfill from hop, setCell_setCell]
      exact hev
    refine ⟨_, hexec, ?_⟩
    have hret := drive_retires hholds (by rw [show (limitOver e).ins.op = .gfill from hop]; decide)
      (by rw [show (limitOver e).ins.op = .gfill from hop]; exact hnext) hpen hdone
      (by rw [cell_setCell_self]; exact hnpc) (by rw [cell_setCell_self]; exact hctrl) hwf
    rw [show (limitOver e).ins.op = .gfill from hop] at hret
    obtain ⟨hcell, hreg, hcnt, hothers, hframe⟩ := hret
    exact ⟨hcell, hreg, hcnt, fun d hd => (hothers d hd).trans (cell_setCell_other s _ hd), hframe⟩

end Sys2Proof.Proofs
end
section
/-! CSRR and CSRW: the registers of a cell as its own instructions read and write them (R12, R191, R194). -/

namespace Sys2Proof.Proofs

open Sys2Proof Sys2Proof.Machine Sys2Proof.Laws

/-! ### The rows of the cell's register map -/

theorem findReg_mem {m : List RegInfo} {a : Nat} {r : RegInfo} (h : findReg m a = some r) :
    r ∈ m ∧ r.off ≤ a ∧ a < r.off + (if r.count ≤ 1 then 1 else r.count * r.stride) := by
  induction m with
  | nil => exact absurd h (by simp [findReg])
  | cons q m ih =>
    rw [findReg] at h
    by_cases hq : q.off ≤ a ∧ a < q.off + (if q.count ≤ 1 then 1 else q.count * q.stride) ∧
        (q.count ≤ 1 ∨ (a - q.off) % q.stride = 0)
    · rw [if_pos hq] at h
      obtain rfl := Option.some.inj h
      exact ⟨List.mem_cons_self, hq.1, hq.2.1⟩
    · rw [if_neg hq] at h
      obtain ⟨hm, hle, hlt⟩ := ih h
      exact ⟨List.mem_cons_of_mem _ hm, hle, hlt⟩

/-- A plain register lies in none of the blocks whose registers have a meaning of their own. -/
theorem plain_rows : ∀ r ∈ cellRegMap, r.kind = .plain → ∀ k ∈ [(CR.SQ_PC, 1), (CR.MX_SELFTEST, 1),
    (CR.SX_D_STATUS 0, 0x180), (CR.Q_CFG 0, 0x200), (CR.SEM_VAL 0, 0x100)],
    r.off + (if r.count ≤ 1 then 1 else r.count * r.stride) ≤ k.1 ∨ k.1 + k.2 ≤ r.off := by decide

/-- No bit of a register has two access codes. -/
theorem masks_disjoint : ∀ r ∈ cellRegMap, r.rw &&& r.w1c = 0 ∧ r.rw &&& r.w1s = 0 ∧ r.w1c &&& r.w1s = 0 := by decide

/-- The registers that CSRW writes by their access codes alone. -/
structure PlainReg (o : Nat) (r : RegInfo) : Prop where
  found : findReg cellRegMap o = some r
  kind : r.kind = .plain
  below : o < CR.CP_CTRL
  others : o ∉ [CR.SQ_CTRL, CR.SQ_YIELD_LIMIT, CR.SQ_FAULT_CAUSE, CR.SX_SHARE]

theorem writeCell_plain {o : Nat} {r : RegInfo} (h : PlainReg o r) (s : State) (g : Origin) (c : CellId) (v em : Nat) :
    s.writeCell g c o v em = s.setCell c ((s.cell c).setReg o (maskWrite r ((s.cell c).reg o) v em)) := by
  obtain ⟨hr, hk, hbelow, hothers⟩ := h
  obtain ⟨hm, hle, hlt⟩ := findReg_mem hr
  have hrows := plain_rows r hm hk
  simp only [List.mem_cons, List.not_mem_nil, or_false, forall_eq_or_imp, forall_eq] at hrows
  obtain ⟨hpc, htest, hslots, hq, hsem⟩ := hrows
  simp only [List.mem_cons, List.not_mem_nil, or_false, not_or] at hothers
  obtain ⟨hctrl, hyield, hcause, hshare⟩ := hothers
  have hne {k : Nat} (hk : r.off + (if r.count ≤ 1 then 1 else r.count * r.stride) ≤ k ∨ k + 1 ≤ r.off) : o ≠ k := by
    omega
  have hout {k n : Nat} (hk : r.off + (if r.count ≤ 1 then 1 else r.count * r.stride) ≤ k ∨ k + n ≤ r.off) :
      ¬ (k ≤ o ∧ o < k + n) := by omega
  unfold State.writeCell
  simp only [hr, hk]
  rw [if_neg hctrl, if_neg (hne hpc), if_neg hyield, if_neg hcause, if_neg (hne htest), if_neg hshare,
    if_neg (hout hslots), if_neg (hout hq), if_neg (hout hsem), if_neg (Nat.not_le_of_lt hbelow)]

/-! ### What a register takes -/

/-- Bit k of a register with the value `old` after d was written to its halves `lo` and `hi`. -/
def takenBit (r : RegInfo) (old d : Nat) (lo hi : Bool) (k : Nat) : Bool :=
  if (if k < 32 then lo else hi) = false then bitB old k
  else if bitB r.rw k then bitB d k
  else if bitB r.w1c k then bitB old k && !bitB d k
  else if bitB r.w1s k then bitB old k || bitB d k
  else bitB old k

/-- The register after that write. -/
def taken (r : RegInfo) (old d : Nat) (lo hi : Bool) : Nat := Nat.ofBits (fun k : Fin 64 => takenBit r old d lo hi
  k.val)

theorem taken_lt (r : RegInfo) (old d : Nat) (lo hi : Bool) : taken r old d lo hi < 2 ^ 64 := Nat.ofBits_lt_two_pow _

theorem bit_taken (r : RegInfo) (old d : Nat) (lo hi : Bool) {k : Nat} (hk : k < 64) :
    bitB (taken r old d lo hi) k = takenBit r old d lo hi k := by
  rw [bitB_eq_testBit, taken, Nat.testBit_ofBits_lt _ _ hk]

/-- The bits of the halves that are written. -/
def halves (lo hi : Bool) : Nat := (if lo then 0xFFFFFFFF else 0) + (if hi then 0xFFFFFFFF00000000 else 0)

theorem testBit_halves (lo hi : Bool) {k : Nat} (hk : k < 64) :
    (halves lo hi).testBit k = if k < 32 then lo else hi := by
  have h : ∀ (lo hi : Bool) (k : Fin 64), (halves lo hi).testBit k.val = if k.val < 32 then lo else hi := by decide
  exact h lo hi ⟨k, hk⟩

theorem testBit_disjoint {a b : Nat} (h : a &&& b = 0) (k : Nat) : (a.testBit k && b.testBit k) = false := by
  rw [← Nat.testBit_and, h, Nat.zero_testBit]

theorem setReg_congr (x : Cell) (o : Nat) {a b : Nat} (h : ∀ k < 64, a.testBit k = b.testBit k) :
    x.setReg o a = x.setReg o b := by
  have hab : BitVec.ofNat 64 a = BitVec.ofNat 64 b := by
    apply BitVec.eq_of_getLsbD_eq
    intro k hk
    rw [BitVec.getLsbD_ofNat, BitVec.getLsbD_ofNat, h k hk]
  rw [Cell.setReg, Cell.setReg, hab]

/-- A plain register is set by the access code of each bit. -/
theorem setReg_taken {r : RegInfo} (hr : r ∈ cellRegMap) (x : Cell) (o old d : Nat) (lo hi : Bool) :
    x.setReg o (maskWrite r old d (halves lo hi)) = x.setReg o (taken r old d lo hi) := by
  obtain ⟨hrc, hrs, hcs⟩ := masks_disjoint r hr
  refine setReg_congr x o fun k hk => ?_
  rw [← bitB_eq_testBit (taken r old d lo hi), bit_taken r old d lo hi hk, testBit_maskWrite_any, testBit_halves lo
    hi hk,
    takenBit]
  have h1 := testBit_disjoint hrc k
  have h2 := testBit_disjoint hrs k
  have h3 := testBit_disjoint hcs k
  simp only [bitB_eq_testBit]
  -- what is left is a truth table
  generalize (if k < 32 then lo else hi) = e at *
  generalize r.rw.testBit k = w at *
  generalize r.w1c.testBit k = wc at *
  generalize r.w1s.testBit k = ws at *
  generalize old.testBit k = b at *
  generalize d.testBit k = n at *
  revert h1 h2 h3
  revert e w wc ws b n
  decide

/-! ### CSRR and CSRW -/

theorem plain_csrr : Op.plain .csrr := by simp [Op.plain]

theorem plain_csrw : Op.plain .csrw := by simp [Op.plain]

section
variable {c : CellId} {s : State} {f : SForm}

theorem evalCsrw_legal {e : InFlight} {s : State} (hop : e.ins.op = .csrw)
    (hf : sOnly e.ins.f { imm := true, func := true, ra := true } = true) (hoff : e.ins.f.imm32.toNat % 8 = 0)
    (hlow : e.ins.f.imm32.toNat < 0x8000) (h1 : 1 ≤ e.ins.f.func.toNat) (h3 : e.ins.f.func.toNat ≤ 3) :
    evalOp c e s = .done (s.writeUnit .ownCell c e.ins.f.imm32.toNat ((s.cell c).rdS e.ins.f.ra).toNat
      (e.ins.f.func.getLsbD 0) (e.ins.f.func.getLsbD 1)) := by
  have hcsr : csrOk e.ins.f = true := by simp [csrOk, hoff, hlow]
  have hfunc : ¬ e.ins.f.func = 0#7 := by
    intro h
    rw [h] at h1
    exact absurd h1 (by decide)
  rw [evalOp, hop]
  have hfour : ¬ 4 ≤ e.ins.f.func.toNat := by omega
  exact if_neg (by simp [hf, hcsr, hfunc, hfour])

/-- A CSRW that sets registers of its cell other than SQ_CTRL. -/
theorem issue_csrw {F : Cell → Cell} (h : Ready c s) (hf : sOnly f { imm := true, func := true, ra := true } = true)
    (hoff : f.imm32.toNat % 8 = 0) (hlow : f.imm32.toNat < 0x8000) (h1 : 1 ≤ f.func.toNat) (h3 : f.func.toNat ≤ 3)
    (hwrite : (s.carrying c { op := .csrw, f }).writeUnit .ownCell c f.imm32.toNat ((s.cell c).rdS f.ra).toNat
      (f.func.getLsbD 0) (f.func.getLsbD 1) = (s.carrying c { op := .csrw, f }).modCell c F)
    (hF : ∀ x w (pc : Word), F { x with window := w, npc := pc, stuck := none } =
      { F x with window := w, npc := pc, stuck := none })
    (hctrl : (F (s.cell c)).reg CR.SQ_CTRL = (s.cell c).reg CR.SQ_CTRL)
    (hw : SMap.wf cellResetVal (F (s.cell c)).regs = true) :
    Retires commitCounters c s (F (s.cell c)) (nextPc (s.cell c).npc .csrw) (s.issue c { op := .csrw, f }) := by
  refine issue_short_cell h plain_csrw rfl ?_ hF hctrl hw
  refine (evalCsrw_legal rfl hf hoff hlow h1 h3).trans ?_
  have hra : ((s.carrying c { op := .csrw, f }).cell c).rdS f.ra = (s.cell c).rdS f.ra := by rw [cell_carrying]; rfl
  rw [← hwrite, ← hra]
  rfl

theorem writeCell_taken {o : Nat} {r : RegInfo} (h : PlainReg o r) (s : State) (g : Origin) (c : CellId) (v : Nat)
    (lo hi : Bool) : s.writeCell g c o v (halves lo hi) =
      s.setCell c ((s.cell c).setReg o (taken r ((s.cell c).reg o) v lo hi)) := by
  rw [writeCell_plain h, setReg_taken (findReg_mem h.found).1]

theorem cellWidth_plain {o : Nat} {r : RegInfo} (h : PlainReg o r) : cellWidth o = r.width := by
  rw [cellWidth, h.found]

/-- A unit that is one plain register of 64 bits. -/
theorem writeUnit_one {o : Nat} {r : RegInfo} (h : PlainReg o r) (hw : r.width = 64) (s : State) (g : Origin)
    (c : CellId) (v : Nat) (lo hi : Bool) : s.writeUnit g c o v lo hi =
      s.setCell c ((s.cell c).setReg o (taken r ((s.cell c).reg o) v lo hi)) := by
  rw [State.writeUnit, if_pos ((cellWidth_plain h).trans hw)]
  exact writeCell_taken h s g c v lo hi

/-- The two registers of a unit set, as far as each is enabled. -/
def setPair (x : Cell) (o v w : Nat) (lo hi : Bool) : Cell :=
  let y := if lo then x.setReg o v else x
  if hi then y.setReg (o + 4) w else y

/-- A unit of two plain registers of 32 bits. -/
theorem writeUnit_pair {o : Nat} {r q : RegInfo} {lo hi : Bool} (hno : cellWidth o ≠ 64)
    (hr : lo = true → PlainReg o r ∧ r.width = 32) (hq : hi = true → PlainReg (o + 4) q ∧ q.width = 32) (s : State)
    (g : Origin) (c : CellId) (v : Nat) : s.writeUnit g c o v lo hi =
      s.setCell c (setPair (s.cell c) o (taken r ((s.cell c).reg o) (v % 2 ^ 32) true false)
        (taken q ((s.cell c).reg (o + 4)) (v / 2 ^ 32) true false) lo hi) := by
  rw [State.writeUnit, if_neg hno]
  have hlow : ∀ s : State, lo = true → s.writeCell g c o (v % 2 ^ 32) 0xFFFFFFFF =
      s.setCell c ((s.cell c).setReg o (taken r ((s.cell c).reg o) (v % 2 ^ 32) true false)) :=
    fun s h => writeCell_taken (hr h).1 s g c _ true false
  have hhigh : ∀ s : State, hi = true → s.writeCell g c (o + 4) (v / 2 ^ 32) 0xFFFFFFFF =
      s.setCell c ((s.cell c).setReg (o + 4) (taken q ((s.cell c).reg (o + 4)) (v / 2 ^ 32) true false)) :=
    fun s h => writeCell_taken (hq h).1 s g c _ true false
  have hw1 : lo = true → cellWidth o = 32 := fun h => (cellWidth_plain (hr h).1).trans (hr h).2
  have hw2 : hi = true → cellWidth (o + 4) = 32 := fun h => (cellWidth_plain (hq h).1).trans (hq h).2
  cases lo <;> cases hi <;> simp only [setPair, Bool.false_and, Bool.true_and, if_true, if_false, Bool.false_eq_true]
  · rw [setCell_cell]
  · rw [if_pos (by simpa using hw2 rfl), hhigh _ rfl]
  · rw [if_pos (by simpa using hw1 rfl), hlow _ rfl]
  · rw [if_pos (by simpa using hw2 rfl), if_pos (by simpa using hw1 rfl), hlow _ rfl, hhigh _ rfl, cell_setCell_self,
      setCell_setCell, reg_setReg_other _ _ (by omega)]

end

theorem reg_setPair {x : Cell} {o p : Nat} (v w : Nat) {lo hi : Bool} (h1 : lo = true → p ≠ o) (h2 : hi = true → p ≠
    o + 4) : (setPair x o v w lo hi).reg p = x.reg p := by
  cases lo <;> cases hi <;> simp only [setPair, if_true, if_false, Bool.false_eq_true]
  · exact reg_setReg_other _ _ (h2 rfl)
  · exact reg_setReg_other _ _ (h1 rfl)
  · exact (reg_setReg_other _ _ (h2 rfl)).trans (reg_setReg_other _ _ (h1 rfl))

theorem wf_setPair {x : Cell} (o v w : Nat) (lo hi : Bool) (hw : SMap.wf cellResetVal x.regs = true) :
    SMap.wf cellResetVal (setPair x o v w lo hi).regs = true := by
  cases lo <;> cases hi <;> simp only [setPair, if_true, if_false, Bool.false_eq_true]
  · exact hw
  · exact wf_setReg _ _ _ hw
  · exact wf_setReg _ _ _ hw
  · exact wf_setReg _ _ _ (wf_setReg _ _ _ hw)

theorem setPair_frame (o v w : Nat) (lo hi : Bool) (x : Cell) (l : List InFlight) (pc : Word) :
    setPair { x with window := l, npc := pc, stuck := none } o v w lo hi =
      { setPair x o v w lo hi with window := l, npc := pc, stuck := none } := by
  cases lo <;> cases hi <;> rfl

/-- A CSRW enables a half of its unit. -/
theorem halves_enabled {g : BitVec 7} (h1 : 1 ≤ g.toNat) (h3 : g.toNat ≤ 3) : g.getLsbD 0 = true ∨ g.getLsbD 1 =
    true := by
  have h : ∀ n : Fin 4, 1 ≤ n.val → n.val.testBit 0 = true ∨ n.val.testBit 1 = true := by decide
  exact h ⟨g.toNat, by omega⟩ h1

/-! ### A register all of whose bits are writable -/

theorem bit_taken_all {r : RegInfo} (hrw : r.rw = 2 ^ 64 - 1) (old d : Nat) (lo hi : Bool) {k : Nat} (hk : k < 64) :
    (taken r old d lo hi).testBit k = if (if k < 32 then lo else hi) then d.testBit k else old.testBit k := by
  rw [← bitB_eq_testBit, bit_taken _ _ _ _ _ hk, takenBit, hrw]
  simp only [bitB_eq_testBit, Nat.testBit_two_pow_sub_one, hk, decide_true, if_true]
  cases (if k < 32 then lo else hi) <;> rfl

theorem taken_low {r : RegInfo} (hrw : r.rw = 2 ^ 64 - 1) {old d : Nat} (lo hi : Bool) :
    taken r old d lo hi % 2 ^ 32 = (if lo then d else old) % 2 ^ 32 := by
  refine Nat.eq_of_testBit_eq fun k => ?_
  rw [Nat.testBit_mod_two_pow, Nat.testBit_mod_two_pow]
  by_cases hk : k < 32
  · rw [bit_taken_all hrw old d lo hi (by omega), if_pos hk]
    cases lo <;> rfl
  · simp [hk]

theorem taken_high {r : RegInfo} (hrw : r.rw = 2 ^ 64 - 1) {old d : Nat} (hold : old < 2 ^ 64) (hd : d < 2 ^ 64)
    (lo hi : Bool) : taken r old d lo hi / 2 ^ 32 = (if hi then d else old) / 2 ^ 32 := by
  refine Nat.eq_of_testBit_eq fun k => ?_
  rw [Nat.testBit_div_two_pow, Nat.testBit_div_two_pow]
  by_cases hk : k + 32 < 64
  · rw [bit_taken_all hrw old d lo hi hk]
    simp only [show ¬ k + 32 < 32 by omega, if_false]
    cases hi <;> rfl
  · have hzero {n : Nat} (hn : n < 2 ^ 64) : n.testBit (k + 32) = false :=
      Nat.testBit_lt_two_pow (Nat.lt_of_lt_of_le hn (Nat.pow_le_pow_right (by decide) (by omega)))
    rw [hzero (taken_lt _ _ _ _ _), hzero (by cases hi <;> assumption)]

/-! ### A halt that CSRW requests -/

/-- A short instruction that asks for a halt halts the cell at its commit (R182). -/
theorem stepHead_halts {c : CellId} {s s1 : State} {e : InFlight} (h : Holds c s e) (hb : e.ins.op ≠ .bloop)
    (hlong : e.ins.op.long = false) (hev : evalOp c e s = .done s1) (hwin : (s1.cell c).window = [e])
    (hnpc : (s1.cell c).npc = (s.cell c).npc) (hcanon : SMap.wf cellResetVal (s1.cell c).regs = true)
    (hwait : e.waited = none) (hctrl : bitB ((s1.cell c).reg CR.SQ_CTRL) 1 = true) :
    ∃ u, Retires (commitOf e none) c s1 (s1.cell c) (nextPc e.pc e.ins.op) u ∧ s.stepHead c = (u.haltNow c, true) := by
  obtain ⟨u, hu, -, hc⟩ := commitHead_spec s1 c e none hcanon (by rw [hwait]; simp) ⟨e, hwin⟩
    (fun p hp => by rw [hnpc]; exact h.follows p hp)
  refine ⟨u, hu, ?_⟩
  have hctl : bitB ((u.cell c).reg CR.SQ_CTRL) 1 = true := by
    have hout : CR.SQ_CTRL ∉ commitOf e none := by
      simp only [commitOf, countersOf, hwait]
      split <;> decide
    rw [hu.2.1 _ hout]
    exact hctrl
  have hins : evalIns c e s = .done s1 none true := by
    unfold evalIns
    rw [h.noSubmit, Bool.and_false]
    simpa using hev
  have hhead : (s.cell c).head = some e := by rw [Cell.head, h.only]; rfl
  have hm : (s.cell c).mispredicted e = none := by rw [Cell.mispredicted, h.resolved.1]
  have hhd : (s1.cell c).head = some e := by rw [Cell.head, hwin]; rfl
  have hcommit : s1.commitHead c e none true = u := by
    rw [hc, hlong]
    rfl
  unfold State.stepHead
  rw [hhead]
  simp only [h.runs, h.sound, h.resolved.2, hm, hins, hhd, Bool.not_true, Option.isSome_none, Bool.or_self,
    Bool.false_eq_true, if_false, Option.getD_some, hcommit, hb, hctl, if_true]

/-- SQ_CTRL as a CSRW with halt set leaves it. -/
def haltAsked (x : Cell) (v : Nat) : Cell := (x.setReg CR.SQ_CTRL (ctrlAfter x v)).orReg CR.SQ_CTRL 2

theorem writeCell_asksHalt {s : State} {c : CellId} {v : Nat} (h0 : bitB v 0 = false) (h1 : bitB v 1 = true) (em :
    Nat) :
    s.writeCell .ownCell c CR.SQ_CTRL v em = s.setCell c (haltAsked (s.cell c) v) := by
  have hr : findReg cellRegMap CR.SQ_CTRL ≠ none := by decide
  obtain ⟨r, hr⟩ := Option.ne_none_iff_exists'.1 hr
  unfold State.writeCell
  simp only [hr, h0, h1, if_true, if_false, Bool.false_eq_true, State.modCell, cell_setCell_self, setCell_setCell]
  rfl

theorem writeCell_status (s : State) (g : Origin) (c : CellId) (v em : Nat) : s.writeCell g c (CR.SQ_CTRL + 4) v em
    = s := by
  rfl

theorem writeUnit_asksHalt {s : State} {c : CellId} {v : Nat} (h0 : bitB v 0 = false) (h1 : bitB v 1 = true) (hi :
    Bool) :
    s.writeUnit .ownCell c CR.SQ_CTRL v true hi = s.setCell c (haltAsked (s.cell c) (v % 2 ^ 32)) := by
  rw [State.writeUnit, if_neg (by decide)]
  simp only [writeCell_status, ite_self]
  rw [if_pos (by decide)]
  exact writeCell_asksHalt ((bitB_mod_two_pow (by decide)).trans h0) ((bitB_mod_two_pow (by decide)).trans h1) _

theorem exec_csrw_halts {c : CellId} {s : State} {f : SForm} (h : Ready c s)
    (hf : sOnly f { imm := true, func := true, ra := true } = true) (h1 : 1 ≤ f.func.toNat) (h3 : f.func.toNat ≤ 3)
    (hoff : f.imm32.toNat = CR.SQ_CTRL) (hlo : f.func.getLsbD 0 = true) (hhalt : ((s.cell c).rdS f.ra).getLsbD 1 = true)
    (hstart : ((s.cell c).rdS f.ra).getLsbD 0 = false) :
    ∃ t, s.issue c { op := .csrw, f } = t ∧ (∀ d, d ≠ c → t.cell d = s.cell d) ∧
      t.cell c = { s.cell c with
        regs := (t.cell c).regs, mode := .halted, npc := nextPc (s.cell c).npc .csrw, window := [], runahead := none
        stuck := none, wantArray := false } := by
  have hholds := carrying_holds h { op := .csrw, f } (fetched_short h rfl)
  have hcell : (s.carrying c { op := .csrw, f }).cell c = (s.cell c).holding { op := .csrw, f } := cell_carrying _ _ _
  have hra : ((s.carrying c { op := .csrw, f }).cell c).rdS f.ra = (s.cell c).rdS f.ra := by rw [hcell]; rfl
  have hev := evalCsrw_legal (c := c) (e := (s.cell c).entry { op := .csrw, f }) (s := s.carrying c { op := .csrw, f })
    rfl hf (by show f.imm32.toNat % 8 = 0; rw [hoff]; rfl) (by show f.imm32.toNat < _; rw [hoff]; decide) h1 h3
  rw [show ((s.cell c).entry { op := .csrw, f }).ins.f = f from rfl, hra, hoff, hlo,
    writeUnit_asksHalt (by rw [bitB_eq_testBit]; exact hstart) (by rw [bitB_eq_testBit]; exact hhalt)] at hev
  have hcanon := hholds.canon
  rw [hcell] at hcanon hev
  have hself := cell_setCell_self (s.carrying c { op := .csrw, f }) c
    (haltAsked ((s.cell c).holding { op := .csrw, f }) (((s.cell c).rdS f.ra).toNat % 2 ^ 32))
  obtain ⟨u, ⟨hu, -, -, hothers, -⟩, hstep⟩ := stepHead_halts hholds (show Op.csrw ≠ .bloop by decide) rfl hev
    (by rw [hself]; rfl) (by rw [hself, hcell]; rfl)
    (by rw [hself]; exact wf_setReg _ _ _ (wf_setReg _ _ _ hcanon)) (entry_waited h _)
    (by rw [hself, haltAsked, reg_orReg_self _ (by decide) (wf_setReg _ _ _ hcanon), bitB_eq_testBit, Nat.testBit_or]
        exact Bool.or_true _)
  rw [hself] at hu
  have hwin : (u.cell c).window = [] := by rw [hu]
  have hhalt := haltNow_empty hwin
  refine ⟨u.haltNow c, ?_, fun d hd => ?_, ?_⟩
  · rw [issue_ready h, State.drive, hstep]
    exact pump_idle (by rw [hhalt, cell_setCell_self]; exact hwin)
  · rw [hhalt, cell_setCell_other _ _ hd, hothers d hd, cell_setCell_other _ _ hd]
    exact cell_setCell_other _ _ hd
  · rw [hhalt, cell_setCell_self]
    generalize (u.cell c).regs = R at hu
    simp only [halted, Cell.clrReg, Cell.setReg, hu]
    rfl

/-- Settles O13: CSRR by the rule for a result in rd; CSRW by the masks of the register map, whose codes are disjoint, and
a halt that it asks for at its commit. -/
theorem csrAccess : Obligations.CsrAccess := by
  intro c s f h x a off
  refine ⟨fun hf hoff hlow => ?_, fun hf h1 h3 => ⟨fun o ho hoff => ?_, ?_, fun hoff hlo hhalt hstart => ?_⟩⟩
  · have hev : evalOp c (x.entry { op := .csrr, f }) (s.carrying c { op := .csrr, f }) =
        doneRd (s.carrying c { op := .csrr, f }) c f.rd ((x.holding { op := .csrr, f }).unit off) := by
      have hcsr : csrOk f = true := by simp [csrOk]; exact ⟨hoff, hlow⟩
      refine (if_neg ?_).trans ?_
      · simp [Cell.entry, hf, hcsr]
      · rw [cell_carrying]; rfl
    obtain ⟨u, hu, hi⟩ := issue_rd h (fetched_short h rfl) plain_csrr hev
    exact ⟨_, rfl, hi ▸ hu⟩
  · have hplain : ∃ r, PlainReg o r ∧ r.width = 64 ∧ r.rw = 2 ^ 64 - 1 ∧ o % 8 = 0 ∧ o < 0x8000 ∧ o ≠ CR.SQ_CTRL := by
      simp only [List.mem_cons, List.not_mem_nil, or_false] at ho
      rcases ho with rfl | rfl
      · exact ⟨_, ⟨rfl, rfl, by decide, by decide⟩, rfl, rfl, by decide, by decide, by decide⟩
      · exact ⟨_, ⟨rfl, rfl, by decide, by decide⟩, rfl, rfl, by decide, by decide, by decide⟩
    obtain ⟨r, hr, hw, hrw, halign, hlow, hctrl⟩ := hplain
    refine ⟨_, taken r (x.reg o) a.toNat (f.func.getLsbD 0) (f.func.getLsbD 1), rfl, ?_, taken_lt _ _ _ _ _,
      taken_low hrw _ _, taken_high hrw (reg_lt x o) a.isLt _ _⟩
    refine issue_csrw (F := fun y => y.setReg o (taken r (x.reg o) a.toNat (f.func.getLsbD 0) (f.func.getLsbD 1))) h hf
      (by rw [show f.imm32.toNat = o from hoff]; exact halign) (by rw [show f.imm32.toNat = o from hoff]; exact
        hlow) h1 h3 ?_ (fun _ _ _ => rfl) (reg_setReg_other _ _ hctrl.symm)
      (wf_setReg _ _ _ h.canon)
    rw [show f.imm32.toNat = o from hoff, writeUnit_one hr hw, State.modCell, cell_carrying]
    rfl
  · intro plain takes lo hi hoff
    have hplain {o w : Nat} {r : RegInfo} (hp : plain o w r) : PlainReg o r ∧ r.width = w := by
      obtain ⟨hr, hk, hw, hbelow, hothers⟩ := hp
      exact ⟨⟨hr, hk, hbelow, hothers⟩, hw⟩
    have htakes (r : RegInfo) (old d : Nat) (lo hi : Bool) : takes r old d lo hi (taken r old d lo hi) :=
      ⟨taken_lt _ _ _ _ _, fun k hk => bit_taken _ _ _ _ _ hk⟩
    refine ⟨fun r hr => ?_, fun r q hno hr hq => ?_⟩
    · obtain ⟨hr, hw⟩ := hplain hr
      have hctrl : CR.SQ_CTRL ≠ off := fun h => hr.others (h ▸ List.mem_cons_self)
      refine ⟨_, taken r (x.reg off) a.toNat lo hi, rfl, ?_, htakes _ _ _ _ _⟩
      refine issue_csrw (F := fun y => y.setReg off (taken r (x.reg off) a.toNat lo hi)) h hf hoff
        (Nat.lt_trans hr.below (by decide)) h1 h3 ?_ (fun _ _ _ => rfl) (reg_setReg_other _ _ hctrl)
        (wf_setReg _ _ _ h.canon)
      rw [writeUnit_one hr hw, State.modCell, cell_carrying]
      rfl
    · refine ⟨_, taken r (x.reg off) (a.toNat % 2 ^ 32) true false, taken q (x.reg (off + 4)) (a.toNat / 2 ^ 32)
        true false,
        rfl, htakes _ _ _ _ _, htakes _ _ _ _ _, ?_⟩
      have hr' : lo = true → PlainReg off r ∧ r.width = 32 := fun h => hplain (hr h)
      have hq' : hi = true → PlainReg (off + 4) q ∧ q.width = 32 := fun h => hplain (hq h)
      have hlow : off < 0x8000 := by
        rcases halves_enabled h1 h3 with h | h
        · exact Nat.lt_trans (hr' h).1.below (by decide)
        · exact Nat.lt_of_le_of_lt (Nat.le_add_right _ 4) (Nat.lt_trans (hq' h).1.below (by decide))
      have hctrl : (setPair x off (taken r (x.reg off) (a.toNat % 2 ^ 32) true false)
          (taken q (x.reg (off + 4)) (a.toNat / 2 ^ 32) true false) lo hi).reg CR.SQ_CTRL = x.reg CR.SQ_CTRL :=
        reg_setPair _ _ (fun h => fun heq => (hr' h).1.others (by rw [← heq]; exact List.mem_cons_self))
          (fun h => fun heq => (hq' h).1.others (by rw [← heq]; exact List.mem_cons_self))
      refine issue_csrw (F := fun y => setPair y off (taken r (x.reg off) (a.toNat % 2 ^ 32) true false)
        (taken q (x.reg (off + 4)) (a.toNat / 2 ^ 32) true false) lo hi) h hf hoff hlow h1 h3 ?_ (setPair_frame _ _
          _ _ _)
        hctrl (wf_setPair _ _ _ _ _ h.canon)
      rw [writeUnit_pair hno hr' hq', State.modCell, cell_carrying]
      rfl
  · obtain ⟨t, ht, hothers, hcell⟩ := exec_csrw_halts h hf h1 h3 hoff hlo hhalt hstart
    exact ⟨t, congrArg _ ht, hothers, hcell⟩

end Sys2Proof.Proofs
end
section
/-! Posts to semaphores and waits on them (R279 to R282, R319). -/

namespace Sys2Proof.Proofs

open Sys2Proof Sys2Proof.Machine Sys2Proof.Laws

theorem plain_sempost : Op.plain .sempost := by simp [Op.plain]
theorem plain_sempostr : Op.plain .sempostr := by simp [Op.plain]
theorem plain_semwait : Op.plain .semwait := by simp [Op.plain]

/-! ### Posts -/

section
variable {c d : CellId} {s : State} {f : SForm} {k : BitVec 6} {n : Nat}

theorem semFields_of (hk : f.func.toNat = k.toNat) (hn : f.imm32.toNat = n) (h1 : 1 ≤ n) (h2 : n ≤ 65535) :
    semFields f = some (k, n) := by
  have hlt := k.isLt
  rw [semFields, if_neg (by simp only [Bool.or_eq_true, decide_eq_true_eq]; omega), hk, hn]
  simp

theorem evalSempost_legal {e : InFlight} {s : State} (hop : e.ins.op = .sempost) (hf : semFields e.ins.f = some (k, n))
    (hs : sOnly e.ins.f { imm := true, func := true } = true) : evalOp c e s = .done (s.post c k n) := by
  rw [evalOp, hop]
  simp only [evalSempost, hf, hs, if_true]

theorem evalSempostr_legal {e : InFlight} {s : State} (hop : e.ins.op = .sempostr) (hf : semFields e.ins.f = some
    (k, n))
    (hs : sOnly e.ins.f { imm := true, func := true, ra := true } = true) :
    evalOp c e s = .done (s.postFrom c (cellNo ((s.cell c).rdS e.ins.f.ra).toNat) k n) := by
  rw [evalOp, hop]
  simp only [evalSempostr, hf, hs, if_true]

/-- A short instruction that leaves its own cell in flight, whatever it does elsewhere. -/
theorem issue_short_done {i : Ins} {s1 : State} (h : Ready c s) (hop : Op.plain i.op) (hlong : i.op.long = false)
    (hev : evalOp c ((s.cell c).entry i) (s.carrying c i) = .done s1)
    (hwin : (s1.cell c).window = [(s.cell c).entry i]) (hnpc : (s1.cell c).npc = ((s.cell c).holding i).npc)
    (hctrl : (s1.cell c).reg CR.SQ_CTRL = (s.cell c).reg CR.SQ_CTRL)
    (hw : SMap.wf cellResetVal (s1.cell c).regs = true) :
    Retires commitCounters c s1 (s1.cell c) (nextPc (s.cell c).npc i.op) (s.issue c i) := by
  obtain ⟨u, hu, hi⟩ := issue_done (e := (s.cell c).entry i) (jump := none) (post := true) h (fetched_short h hlong)
    hop.1 hev ⟨hwin, rfl, rfl, rfl, rfl, (fun o k => by rw [entry_waited h] at k; cases k),
      by rw [hnpc, cell_carrying], by rw [hctrl, cell_carrying]; rfl, hw⟩
  have hcommit : commitOf ((s.cell c).entry i) none = commitCounters :=
    (if_pos (entry_next _ _ hop)).trans (countersOf_none (entry_waited h i))
  rw [hcommit, Option.getD_none] at hu
  rw [hi, hlong]
  exact hu

/-- The cell once a post has saturated a semaphore on which nobody waits. -/
def overflowed (x : Cell) (k : BitVec 6) : Cell :=
  (((x.count CR.SEM_POST_CNT).setSem k { x.sem k with count := 65535, ovf := true }).count CR.SEM_OVF_CNT).meetMark k

theorem cell_of_cells {s t : State} (h : t.cells = s.cells) (c : CellId) : t.cell c = s.cell c := by
  rw [State.cell, State.cell, h]

theorem sem_overflowed (x : Cell) (k : BitVec 6) (hline : (x.sem k).line = []) :
    ((overflowed x k).sem k).count = 65535 ∧ ((overflowed x k).sem k).ovf = true := by
  have hsem : (((x.count CR.SEM_POST_CNT).setSem k { x.sem k with count := 65535, ovf := true }).count
      CR.SEM_OVF_CNT).sem k = { x.sem k with count := 65535, ovf := true } := sem_setSem_self _ _ _
  unfold overflowed Cell.meetMark
  simp only [hsem]
  split
  · rw [hsem]; exact ⟨rfl, rfl⟩
  · simp only [hline, waitsSeq, List.any_nil, Bool.false_eq_true, if_false, sem_setSem_self, and_self]

theorem overflowed_keeps (x : Cell) (k : BitVec 6) (hline : (x.sem k).line = []) :
    (overflowed x k).window = x.window ∧ (overflowed x k).npc = x.npc ∧
      (overflowed x k).reg CR.SQ_CTRL = x.reg CR.SQ_CTRL ∧
      (SMap.wf cellResetVal x.regs = true → SMap.wf cellResetVal (overflowed x k).regs = true) := by
  have hsem : (((x.count CR.SEM_POST_CNT).setSem k { x.sem k with count := 65535, ovf := true }).count
      CR.SEM_OVF_CNT).sem k = { x.sem k with count := 65535, ovf := true } := sem_setSem_self _ _ _
  have hkeep : (((x.count CR.SEM_POST_CNT).setSem k { x.sem k with count := 65535, ovf := true }).count
      CR.SEM_OVF_CNT).reg CR.SQ_CTRL = x.reg CR.SQ_CTRL :=
    (reg_count_other _ _ (by decide)).trans (reg_count_other _ _ (by decide))
  unfold overflowed Cell.meetMark
  simp only [hsem]
  split
  · exact ⟨rfl, rfl, hkeep, fun hw => wf_count _ _ _ (wf_count _ _ _ hw)⟩
  · simp only [hline, waitsSeq, List.any_nil, Bool.false_eq_true, if_false]
    exact ⟨rfl, rfl, hkeep, fun hw => wf_count _ _ _ (wf_count _ _ _ hw)⟩

/-- A post that saturates a semaphore on which nobody waits (R279): its mark is met by none. -/
theorem post_saturates (hreset : (s.cell c).cp.goal.reset = false) (hst : (s.cell c).cp.st = .awake)
    (hline : ((s.cell c).sem k).line = []) (hover : 65535 < ((s.cell c).sem k).count.toNat + n) :
    (s.post c k n).cells = (s.setCell c (overflowed (s.cell c) k)).cells := by
  have hin : (s.cell c).inReset = false := hreset
  have hadd : ((s.endDoze c).addPost c k n).cells = (s.setCell c (((((s.cell c).count CR.SEM_POST_CNT).setSem k
      { (s.cell c).sem k with count := 65535, ovf := true }).count CR.SEM_OVF_CNT))).cells := by
    have hnofit : ¬ (((s.cell c).count CR.SEM_POST_CNT).sem k).count.toNat + n ≤ 65535 := Nat.not_le_of_lt hover
    rw [endDoze_awake hst, State.addPost, if_neg hnofit, logEvent_cells]
    rfl
  have hcell := cell_of_cells hadd c
  rw [cell_setCell_self] at hcell
  have hsem : (((s.endDoze c).addPost c k n).cell c).sem k = { (s.cell c).sem k with count := 65535, ovf := true } := by
    rw [hcell]
    exact sem_setSem_self _ _ _
  rw [State.post, hst]
  simp only [hin, Bool.false_eq_true, if_false, hsem, if_true]
  rw [State.meetOvf, hsem]
  simp only [hline, haltLinks]
  show (((s.endDoze c).addPost c k n).cells.set c _) = _
  rw [hadd, hcell]
  exact congrArg State.cells (setCell_setCell s c _ _)

/-- A post to a cell in DOZE ends it (R443). -/
theorem post_doze (hreset : (s.cell d).cp.goal.reset = false) (hst : (s.cell d).cp.st = .doze)
    (hovf : ((s.cell d).sem k).ovf = false) (hroom : ((s.cell d).sem k).count.toNat + n ≤ 65535) :
    s.post d k n = { s.setCell d (posted (undozed (s.cell d) (Config.stallCycles s.free)) k n) with
      free := s.free + 1 } := by
  have hin : (s.cell d).inReset = false := hreset
  have hend : s.endDoze d = { s.setCell d (undozed (s.cell d) (Config.stallCycles s.free)) with free := s.free + 1 } :=
    endDoze_state hst
  have hcell : (s.endDoze d).cell d = undozed (s.cell d) (Config.stallCycles s.free) := by
    rw [hend, cell_free, cell_setCell_self]
  have hadd : (s.endDoze d).addPost d k n =
    { s.setCell d (posted (undozed (s.cell d) (Config.stallCycles s.free)) k n) with free := s.free + 1 } := by
    rw [addPost_fits (by rw [hcell]; exact hroom), hcell, hend, setCell_free, setCell_setCell]
  have hsem : (((s.endDoze d).addPost d k n).cell d).sem k =
      { (s.cell d).sem k with count := BitVec.ofNat 16 (((s.cell d).sem k).count.toNat + n) } := by
    rw [hadd, cell_free, cell_setCell_self]
    exact sem_setSem_self _ _ _
  rw [State.post, hst]
  simp only [hin, Bool.false_eq_true, if_false, hsem, hovf]
  exact hadd

/-- A wake requested for a cell changes no more of the cells than that it wakes or waits to. -/
theorem requestWake_cells (s : State) (d : CellId) : ∃ st w, (s.requestWake d).cells =
    (s.setCell d { s.cell d with cp := { (s.cell d).cp with st := st, admitWait := w } }).cells := by
  have hsame : s.cells = (s.setCell d { s.cell d with cp := { (s.cell d).cp with
      st := (s.cell d).cp.st, admitWait := (s.cell d).cp.admitWait } }).cells := (congrArg State.cells (setCell_cell
        s d)).symm
  cases hst : (s.cell d).cp.st with
  | awake | doze | waking =>
    rw [hst] at hsame
    exact ⟨_, _, (congrArg State.cells (by rw [State.requestWake, hst])).trans hsame⟩
  | asleep =>
    rw [State.requestWake]
    simp only [hst]
    split
    · exact ⟨_, _, hsame⟩
    · split
      · exact ⟨.waking, false, rfl⟩
      · refine ⟨.asleep, true, ?_⟩
        show (s.startPll.setCell d _).cells = _
        rw [State.setCell, startPll_cells]
        rfl

/-! ### SEMPOST and SEMPOSTR -/

theorem carrying_sem (i : Ins) : (((s.carrying c i).cell c).sem k) = (s.cell c).sem k := by rw [cell_carrying]; rfl

/-- SEMPOST to a semaphore that has room. -/
theorem issue_sempost_fits (h : Ready c s) (hf : semFields f = some (k, n))
    (hs : sOnly f { imm := true, func := true } = true) (hreset : (s.cell c).cp.goal.reset = false)
    (hst : (s.cell c).cp.st = .awake) (hovf : ((s.cell c).sem k).ovf = false)
    (hroom : ((s.cell c).sem k).count.toNat + n ≤ 65535) :
    Retires commitCounters c s (posted (s.cell c) k n) (nextPc (s.cell c).npc .sempost) 
      (s.issue c { op := .sempost, f }) := by
  refine issue_short_cell (F := fun x => posted x k n) h plain_sempost rfl ?_ (fun _ _ _ => rfl)
    (posted_reg _ _ _ (by decide)) (wf_count _ _ _ h.canon)
  refine (evalSempost_legal rfl hf hs).trans ?_
  rw [post_fits (by rw [cell_carrying]; exact hreset) (by rw [cell_carrying]; exact hst)
    (by rw [carrying_sem]; exact hovf) (by rw [carrying_sem]; exact hroom)]
  rfl

/-- SEMPOST to a semaphore that it saturates. -/
theorem issue_sempost_saturates (h : Ready c s) (hf : semFields f = some (k, n))
    (hs : sOnly f { imm := true, func := true } = true) (hreset : (s.cell c).cp.goal.reset = false)
    (hst : (s.cell c).cp.st = .awake) (hline : ((s.cell c).sem k).line = [])
    (hover : 65535 < ((s.cell c).sem k).count.toNat + n) :
    let t := s.issue c { op := .sempost, f }
    ((t.cell c).sem k).count = 65535 ∧ ((t.cell c).sem k).ovf = true ∧ (t.cell c).npc = nextPc (s.cell c).npc .sempost ∧
      ∀ d, d ≠ c → t.cell d = s.cell d := by
  have hcells := post_saturates (s := s.carrying c { op := .sempost, f }) (c := c) (k := k) (n := n)
    (by rw [cell_carrying]; exact hreset) (by rw [cell_carrying]; exact hst) (by rw [carrying_sem]; exact hline)
    (by rw [carrying_sem]; exact hover)
  have hcell := cell_of_cells hcells c
  rw [cell_setCell_self, cell_carrying] at hcell
  have hline' : (((s.cell c).holding { op := .sempost, f }).sem k).line = [] := hline
  obtain ⟨hwin, hnpc, hctrl, hwf⟩ := overflowed_keeps _ k hline'
  obtain ⟨hcount, hovf⟩ := sem_overflowed _ k hline'
  obtain ⟨hu, -, -, hothers, -⟩ := issue_short_done (i := { op := .sempost, f }) h plain_sempost rfl
    (evalSempost_legal rfl hf hs)
    (by rw [hcell]; exact hwin) (by rw [hcell]; exact hnpc) (by rw [hcell]; exact hctrl) 
    (by rw [hcell]; exact hwf h.canon)
  intro t
  have hsem : (t.cell c).sem k = (overflowed ((s.cell c).holding { op := .sempost, f }) k).sem k := by
    rw [hu, hcell]
    rfl
  refine ⟨by rw [hsem]; exact hcount, by rw [hsem]; exact hovf, by rw [hu], fun d hd => ?_⟩
  rw [hothers d hd, cell_of_cells hcells d, cell_setCell_other _ _ hd]
  exact cell_setCell_other _ _ hd

/-- What a SEMPOSTR to another cell does, from what its post does there. -/
theorem issue_sempostr {s1 : State} (h : Ready c s) (hf : semFields f = some (k, n))
    (hs : sOnly f { imm := true, func := true, ra := true } = true) (hd : d.val = ((s.cell c).rdS f.ra).toNat % 256)
    (hpost : (s.carrying c { op := .sempostr, f }).postFrom c d k n = s1)
    (hwin : (s1.cell c).window = [(s.cell c).entry { op := .sempostr, f }])
    (hnpc : (s1.cell c).npc = ((s.cell c).holding { op := .sempostr, f }).npc)
    (hctrl : (s1.cell c).reg CR.SQ_CTRL = (s.cell c).reg CR.SQ_CTRL)
    (hw : SMap.wf cellResetVal (s1.cell c).regs = true) :
    Retires commitCounters c s1 (s1.cell c) (nextPc (s.cell c).npc .sempostr) (s.issue c { op := .sempostr, f }) := by
  refine issue_short_done h plain_sempostr rfl ((evalSempostr_legal rfl hf hs).trans ?_) hwin hnpc hctrl hw
  have hto : cellNo (((s.carrying c { op := .sempostr, f }).cell c).rdS f.ra).toNat = d := by
    apply Fin.ext
    rw [cell_carrying]
    exact hd.symm
  rw [show ((s.cell c).entry { op := .sempostr, f }).ins.f = f from rfl, hto, hpost]

/-- A post to a cell that takes it at once stalls nobody. -/
theorem postFrom_up (hreset : (s.cell d).cp.goal.reset = false) (hst : (s.cell d).cp.st = .awake ∨ (s.cell d).cp.st
    = .doze) :
    s.postFrom c d k n = s.post d k n := by
  have hin : (s.cell d).inReset = false := hreset
  rw [State.postFrom]
  rcases hst with hst | hst <;> simp only [hin, hst, Bool.false_eq_true, if_false]

/-- A post to a cell that is asleep waits there, and counts against the cell that sent it (R282). -/
theorem postFrom_asleep (hreset : (s.cell d).cp.goal.reset = false) (hst : (s.cell d).cp.st = .asleep) :
    s.postFrom c d k n = (((s.setCell d { s.cell d with
      cp := { (s.cell d).cp with held := (s.cell d).cp.held ++ [⟨k, n⟩] } }).requestWake d).stall c
        CR.SX_STALL_WAKE_CNT) := by
  have hin : (s.cell d).inReset = false := hreset
  rw [State.postFrom]
  simp only [hin, hst, Bool.false_eq_true, if_false, if_true, State.post]

theorem carrying_other (i : Ins) (hd : d ≠ c) : (s.carrying c i).cell d = s.cell d := cell_setCell_other s _ hd

theorem issue_sempostr_fits (h : Ready c s) (hf : semFields f = some (k, n))
    (hs : sOnly f { imm := true, func := true, ra := true } = true) (hd : d.val = ((s.cell c).rdS f.ra).toNat % 256)
    (hdc : d ≠ c) (hreset : (s.cell d).cp.goal.reset = false) (hovf : ((s.cell d).sem k).ovf = false)
    (hroom : ((s.cell d).sem k).count.toNat + n ≤ 65535) (hst : (s.cell d).cp.st = .awake) :
    Retires commitCounters c (s.setCell d (posted (s.cell d) k n)) (s.cell c) (nextPc (s.cell c).npc .sempostr)
      (s.issue c { op := .sempostr, f }) := by
  have hother := carrying_other (s := s) { op := .sempostr, f } hdc
  have hpost := (postFrom_up (c := c) (k := k) (n := n) (by rw [hother]; exact hreset)
    (.inl (by rw [hother]; exact hst))).trans
    (post_fits (k := k) (v := n) (by rw [hother]; exact hreset) (by rw [hother]; exact hst) (by rw [hother]; exact hovf)
      (by rw [hother]; exact hroom))
  rw [hother] at hpost
  have hcell : ((s.carrying c { op := .sempostr, f }).setCell d (posted (s.cell d) k n)).cell c =
      (s.cell c).holding { op := .sempostr, f } := (cell_setCell_other _ _ hdc.symm).trans (cell_carrying _ _ _)
  have hret := issue_sempostr h hf hs hd hpost (by rw [hcell]; rfl) (by rw [hcell]) (by rw [hcell]; rfl)
    (by rw [hcell]; exact h.canon)
  refine retires_over hret ?_ (fun j hj => ?_) ?_
  · rw [hcell, holding_plain _ _ plain_sempostr]
  · rw [cell_setCell, cell_setCell, carrying_other _ hj]
  · simp only [State.carrying, State.setCell]

theorem issue_sempostr_doze (h : Ready c s) (hf : semFields f = some (k, n))
    (hs : sOnly f { imm := true, func := true, ra := true } = true) (hd : d.val = ((s.cell c).rdS f.ra).toNat % 256)
    (hdc : d ≠ c) (hreset : (s.cell d).cp.goal.reset = false) (hovf : ((s.cell d).sem k).ovf = false)
    (hroom : ((s.cell d).sem k).count.toNat + n ≤ 65535) (hst : (s.cell d).cp.st = .doze) :
    let t := s.issue c { op := .sempostr, f }
    (t.cell c).npc = nextPc (s.cell c).npc .sempostr ∧ (∀ j, j ≠ c → j ≠ d → t.cell j = s.cell j) ∧
      t.cell d = posted (undozed (s.cell d) (Config.stallCycles s.free)) k n := by
  have hother := carrying_other (s := s) { op := .sempostr, f } hdc
  have hcells := congrArg State.cells (post_doze (s := s.carrying c { op := .sempostr, f }) (d := d) (k := k) (n := n)
    (by rw [hother]; exact hreset) (by rw [hother]; exact hst) (by rw [hother]; exact hovf)
      (by rw [hother]; exact hroom))
  replace hcells : ((s.carrying c { op := .sempostr, f }).post d k n).cells = ((s.carrying c
    { op := .sempostr, f }).setCell
      d (posted (undozed ((s.carrying c { op := .sempostr, f }).cell d) (Config.stallCycles s.free)) k n)).cells :=
        hcells
  rw [hother] at hcells
  have hpost := postFrom_up (c := c) (k := k) (n := n) (s := s.carrying c { op := .sempostr, f }) (d := d)
    (by rw [hother]; exact hreset) (.inr (by rw [hother]; exact hst))
  generalize (s.carrying c { op := .sempostr, f }).post d k n = v at hcells hpost
  have hcell : v.cell c = (s.cell c).holding { op := .sempostr, f } := by
    rw [cell_of_cells hcells, cell_setCell_other _ _ hdc.symm, cell_carrying]
  obtain ⟨hu, -, -, hothers, -⟩ := issue_sempostr h hf hs hd hpost (by rw [hcell]; rfl) (by rw [hcell])
    (by rw [hcell]; rfl) (by rw [hcell]; exact h.canon)
  intro t
  refine ⟨by rw [hu], fun j hj hjd => ?_, ?_⟩
  · rw [hothers j hj]
    rw [cell_of_cells hcells, cell_setCell_other _ _ hjd, carrying_other _ hj]
  · rw [hothers d hdc, cell_of_cells hcells, cell_setCell_self]

theorem issue_sempostr_asleep (h : Ready c s) (hf : semFields f = some (k, n))
    (hs : sOnly f { imm := true, func := true, ra := true } = true) (hd : d.val = ((s.cell c).rdS f.ra).toNat % 256)
    (hdc : d ≠ c) (hreset : (s.cell d).cp.goal.reset = false) (hst : (s.cell d).cp.st = .asleep) :
    let t := s.issue c { op := .sempostr, f }
    (t.cell d).sems = (s.cell d).sems ∧ (t.cell d).cp.held = (s.cell d).cp.held ++ [⟨k, n⟩] := by
  have hother := carrying_other (s := s) { op := .sempostr, f } hdc
  have hpost := postFrom_asleep (c := c) (k := k) (n := n) (s := s.carrying c { op := .sempostr, f })
    (by rw [hother]; exact hreset) (by rw [hother]; exact hst)
  rw [hother] at hpost
  generalize hy : ({ s.cell d with cp := { (s.cell d).cp with held := (s.cell d).cp.held ++ [⟨k, n⟩] } } : Cell) = y
    at hpost
  obtain ⟨st, w, hcells⟩ := requestWake_cells ((s.carrying c { op := .sempostr, f }).setCell d y) d
  rw [cell_setCell_self, setCell_setCell] at hcells
  generalize hu : ((s.carrying c { op := .sempostr, f }).setCell d y).requestWake d = u at hpost hcells
  have huc : u.cell c = (s.cell c).holding { op := .sempostr, f } := by
    rw [cell_of_cells hcells, cell_setCell_other _ _ hdc.symm, cell_carrying]
  have hself : (u.stall c CR.SX_STALL_WAKE_CNT).cell c = ((s.cell c).holding { op := .sempostr, f }).count
      CR.SX_STALL_WAKE_CNT (Config.stallCycles u.free) := by
    rw [State.stall, cell_draw, State.countC, cell_modCell_self, huc]
  have hdcell : (u.stall c CR.SX_STALL_WAKE_CNT).cell d = { y with cp := { y.cp with st := st, admitWait := w } } := by
    rw [State.stall, cell_draw, State.countC, cell_modCell_other _ _ hdc, cell_of_cells hcells, cell_setCell_self]
  obtain ⟨-, -, -, hothers, -⟩ := issue_sempostr h hf hs hd hpost (by rw [hself]; rfl) (by rw [hself]; rfl)
    (by rw [hself]; exact reg_count_other _ _ (by decide)) (by rw [hself]; exact wf_count _ _ _ h.canon)
  intro t
  have ht : t.cell d = { y with cp := { y.cp with st := st, admitWait := w } } := (hothers d hdc).trans hdcell
  rw [ht, ← hy]
  exact ⟨rfl, rfl⟩

/-- Cell x with the posts l held for it. -/
def withHeld (x : Cell) (l : List HeldPost) : Cell := { x with cp := { x.cp with held := l } }

/-- The oldest post that a cell kept while it slept is made once it is awake. -/
theorem execHeldPostDelivery_makes {p : HeldPost} {l : List HeldPost} (hst : (s.cell d).cp.st = .awake)
    (hheld : (s.cell d).cp.held = p :: l) (hreset : (s.cell d).cp.goal.reset = false)
    (hovf : ((s.cell d).sem p.sem).ovf = false) (hroom : ((s.cell d).sem p.sem).count.toNat + p.n ≤ 65535) :
    execHeldPostDelivery d s = .next (s.setCell d (posted (withHeld (s.cell d) l) p.sem p.n)) := by
  have hexec : execHeldPostDelivery d s = .next ((s.setCell d (withHeld (s.cell d) l)).post d p.sem p.n) := by
    rw [execHeldPostDelivery]
    simp only [hst, hheld, withHeld]
  have hcell := cell_setCell_self s d (withHeld (s.cell d) l)
  rw [hexec, post_fits (by rw [hcell]; exact hreset) (by rw [hcell]; exact hst) (by rw [hcell]; exact hovf)
    (by rw [hcell]; exact hroom), hcell, setCell_setCell]

/-! ### SEMWAIT -/

theorem markFault_none {m : Sem} (hf : m.failed = false) (ho : m.ovf = false) : m.markFault k = none := by
  rw [Sem.markFault, hf, ho]
  rfl

/-- A semaphore with a mark faults whoever would wait, the failed mark before the ovf mark (R281). -/
theorem markFault_some {m : Sem} (h : m.failed = true ∨ m.ovf = true) :
    ∃ q, m.markFault k = some q ∧ q.cause = (if m.failed then 0x61 else 0x62) ∧ q.detail = k.toNat := by
  rw [Sem.markFault]
  cases hf : m.failed with
  | true => exact ⟨_, rfl, rfl, rfl⟩
  | false =>
    have ho : m.ovf = true := by
      rcases h with h | h
      · exact absurd (hf.symm.trans h) (by decide)
      · exact h
    rw [ho]
    exact ⟨_, rfl, rfl, rfl⟩

theorem evalSemwait_legal {e : InFlight} {s : State} (hop : e.ins.op = .semwait) (hf : semFields e.ins.f = some (k, n))
    (hs : sOnly e.ins.f { imm := true, func := true } = true) (hgrant : e.granted = none)
    (hline : ((s.cell c).sem k).line = []) :
    evalOp c e s = match ((s.cell c).sem k).markFault k with
      | some flt => .fault s flt
      | none =>
        if n ≤ ((s.cell c).sem k).count.toNat then
          .done (s.setCell c (((s.cell c).setSem k { (s.cell c).sem k with
            count := ((s.cell c).sem k).count - BitVec.ofNat 16 n }).count CR.SEM_WAIT_CNT))
        else .wait (s.setCell c ((s.cell c).setSem k { (s.cell c).sem k with line := [.seq n] }))
          (some CR.SX_STALL_SEM_CNT) := by
  rw [evalOp, hop]
  simp only [evalSemwait, hf, hs, hgrant, hline]
  simp [waitsSeq] <;> rfl

theorem evalSemwait_granted {e : InFlight} {s : State} (hop : e.ins.op = .semwait)
    (hf : semFields e.ins.f = some (k, n)) (hs : sOnly e.ins.f { imm := true, func := true } = true)
    (hgrant : e.granted.isSome = true) : evalOp c e s = .done s := by
  rw [evalOp, hop]
  simp only [evalSemwait, hf, hs, hgrant, Bool.not_true, Bool.false_eq_true, if_false, if_true]

/-- SEMWAIT that finds enough takes its count and goes on. -/
theorem issue_semwait_takes (h : Ready c s) (hf : semFields f = some (k, n))
    (hs : sOnly f { imm := true, func := true } = true) (hline : ((s.cell c).sem k).line = [])
    (hfailed : ((s.cell c).sem k).failed = false) (hovf : ((s.cell c).sem k).ovf = false)
    (hroom : n ≤ ((s.cell c).sem k).count.toNat) :
    Retires commitCounters c s (((s.cell c).setSem k { (s.cell c).sem k with
      count := ((s.cell c).sem k).count - BitVec.ofNat 16 n }).count CR.SEM_WAIT_CNT)
      (nextPc (s.cell c).npc .semwait) (s.issue c { op := .semwait, f }) := by
  refine issue_short_cell (F := fun x => (x.setSem k { (s.cell c).sem k with
    count := ((s.cell c).sem k).count - BitVec.ofNat 16 n }).count CR.SEM_WAIT_CNT) h plain_semwait rfl ?_
    (fun _ _ _ => rfl) (reg_count_other _ _ (by decide)) (wf_count _ _ _ h.canon)
  rw [evalSemwait_legal rfl hf hs rfl (by rw [carrying_sem]; exact hline), carrying_sem, markFault_none hfailed hovf]
  exact if_pos hroom

/-- SEMWAIT that finds too little joins the end of the line. -/
theorem issue_semwait_waits (h : Ready c s) (hf : semFields f = some (k, n))
    (hs : sOnly f { imm := true, func := true } = true) (hline : ((s.cell c).sem k).line = [])
    (hfailed : ((s.cell c).sem k).failed = false) (hovf : ((s.cell c).sem k).ovf = false)
    (hroom : ((s.cell c).sem k).count.toNat < n) :
    ∃ x e, s.issue c { op := .semwait, f } = s.setCell c x ∧ x.window = [e] ∧ e.pc = (s.cell c).npc ∧ e.fault = none ∧
      x.sem k = { (s.cell c).sem k with line := [.seq n] } := by
  have hev : evalOp c ((s.cell c).entry { op := .semwait, f }) (s.carrying c { op := .semwait, f }) =
      .wait (s.setCell c (((s.cell c).holding { op := .semwait, f }).setSem k
        { (s.cell c).sem k with line := [.seq n] }))
        (some CR.SX_STALL_SEM_CNT) := by
    rw [evalSemwait_legal rfl hf hs rfl (by rw [carrying_sem]; exact hline), carrying_sem, markFault_none hfailed hovf]
    dsimp only
    rw [if_neg (Nat.not_le_of_lt hroom), cell_carrying, carrying_setCell]
  rw [issue_wait h (fetched_short h rfl) hev, State.modCell, cell_setCell_self, setCell_setCell]
  exact ⟨_, _, rfl, rfl, rfl, fetched_short h rfl, sem_setSem_self _ _ _⟩

/-- SEMWAIT on a marked semaphore holds its fault. -/
theorem issue_semwait_faults (h : Ready c s) (hf : semFields f = some (k, n))
    (hs : sOnly f { imm := true, func := true } = true) (hline : ((s.cell c).sem k).line = [])
    (hmark : ((s.cell c).sem k).failed = true ∨ ((s.cell c).sem k).ovf = true) :
    ∃ t e q, s.issue c { op := .semwait, f } = t ∧ (t.cell c).window = [e] ∧ e.fault = some q ∧
      q.cause = (if ((s.cell c).sem k).failed then 0x61 else 0x62) ∧ q.detail = k.toNat ∧
      (t.cell c).sem k = (s.cell c).sem k := by
  obtain ⟨q, hq, hcause, hdetail⟩ := markFault_some (k := k) hmark
  have hev : evalOp c ((s.cell c).entry { op := .semwait, f }) (s.carrying c { op := .semwait, f }) =
      .fault (s.carrying c { op := .semwait, f }) q := by
    rw [evalSemwait_legal rfl hf hs rfl (by rw [carrying_sem]; exact hline), carrying_sem, hq]
  refine ⟨_, { (s.cell c).entry { op := .semwait, f } with fault := some q }, q,
    issue_fault h (fetched_short h rfl) hev, ?_, rfl, hcause, hdetail, ?_⟩
  · rw [cell_modCell_self, cell_carrying]; rfl
  · rw [cell_modCell_self, cell_carrying]; rfl

/-- The first in line that finds its count takes it and retires. -/
theorem execSemwaitSatisfied_takes {e : InFlight} {l : List Waiter} (h : Holds c s e) (hop : e.ins.op = .semwait)
    (hf : semFields e.ins.f = some (k, n)) (hs : sOnly e.ins.f { imm := true, func := true } = true)
    (hnext : e.next = some (nextPc e.pc .semwait)) (hline : ((s.cell c).sem k).line = .seq n :: l)
    (hroom : n ≤ ((s.cell c).sem k).count.toNat) :
    ∃ t, execSemwaitSatisfied c k s = .next t ∧
      Retires (countersOf e) c s (((s.cell c).setSem k { (s.cell c).sem k with
        count := ((s.cell c).sem k).count - BitVec.ofNat 16 n, line := l }).count CR.SEM_WAIT_CNT)
        (nextPc e.pc .semwait) t := by
  generalize hx : ((s.cell c).setSem k { (s.cell c).sem k with
    count := ((s.cell c).sem k).count - BitVec.ofNat 16 n, line := l }).count CR.SEM_WAIT_CNT = x
  have hserve : (s.cell c).serveSem k = some { x with window := [expired e] } := by
    rw [Cell.serveSem, hline]
    simp only [hroom, if_true, ← hx]
    have hwin : ((((s.cell c).setSem k { (s.cell c).sem k with
        count := ((s.cell c).sem k).count - BitVec.ofNat 16 n, line := l }).count CR.SEM_WAIT_CNT).window) = [e] :=
          h.only
    rw [hwin]
    rfl
  have hcell := cell_setCell_self s c { x with window := [expired e] }
  have hholds : Holds c (s.setCell c { x with window := [expired e] }) (expired e) := by
    refine ⟨?_, by rw [hcell], h.sound, h.resolved, ?_, h.waited, ?_, h.noSubmit, ?_⟩
    · rw [hcell, ← hx]; exact h.runs
    · rw [hcell, ← hx]; exact h.follows
    · have hctrl : x.reg CR.SQ_CTRL = (s.cell c).reg CR.SQ_CTRL := by
        rw [← hx]
        exact reg_count_other _ _ (by decide)
      rw [hcell]
      exact (congrArg (bitB · 1) hctrl).trans h.noHalt
    · rw [hcell, ← hx]; exact wf_count _ _ _ h.canon
  have hop' : (expired e).ins.op = .semwait := hop
  have hev : evalOp c (expired e) (s.setCell c { x with window := [expired e] }) =
      .done (s.setCell c { x with window := [expired e] }) := evalSemwait_granted hop' hf hs rfl
  obtain ⟨u, hu, hp⟩ := pump_done hholds (by rw [hop']; decide) (.inl (by rw [hop']; rfl)) hev
    { window := hholds.only, pc := rfl, op := rfl, x := rfl, next := rfl, waited := hholds.waited, npc := rfl
      ctrl := rfl, canon := hholds.canon }
  have hlead : nextPc e.pc e.ins.op = nextPc e.pc .semwait := by rw [hop]
  have hcommit : commitOf (expired e) none = countersOf e := commitOf_predicted (hnext.trans (congrArg some hlead.symm))
  have hu' : Retires (countersOf e) c _ _ (nextPc e.pc .semwait) u := hcommit ▸ hlead ▸ hu
  have hlong : (expired e).ins.op.long = false := by rw [hop']; rfl
  refine ⟨u, ?_, retires_over hu' (by rw [hcell]) (fun d hd => cell_setCell_other _ _ hd) rfl⟩
  rw [execSemwaitSatisfied, hserve]
  simp only [hp, hlong, Bool.and_false, Bool.false_eq_true, if_false]

/-! ### A write of SEM_VAL -/

theorem semVal_place (k : BitVec 6) : CR.SEM_VAL k.toNat < 0x10000 ∧ cellWidth (CR.SEM_VAL k.toNat) = 32 ∧
    CR.SEM_VAL k.toNat % 4 = 0 ∧ CR.SEM_VAL k.toNat ≠ CR.SQ_CTRL ∧
    (findReg cellRegMap (CR.SEM_VAL k.toNat)).isSome = true := by
  have h : ∀ k : Fin 64, CR.SEM_VAL k.val < 0x10000 ∧ cellWidth (CR.SEM_VAL k.val) = 32 ∧
    CR.SEM_VAL k.val % 4 = 0 ∧ CR.SEM_VAL k.val ≠ CR.SQ_CTRL ∧
    (findReg cellRegMap (CR.SEM_VAL k.val)).isSome = true := by decide
  exact h ⟨k.toNat, k.isLt⟩

theorem writeCell_sem (s : State) (o : Origin) (c : CellId) (k : BitVec 6) (v em : Nat) :
    s.writeCell o c (CR.SEM_VAL k.toNat) v em = s.setCell c ((s.cell c).writeSem k v) := by
  obtain ⟨r, hr⟩ := Option.isSome_iff_exists.1 (semVal_place k).2.2.2.2
  have hk := k.isLt
  have hsem : BitVec.ofNat 6 ((CR.SEM_VAL k.toNat - CR.SEM_VAL 0) / 4) = k := by
    apply BitVec.eq_of_toNat_eq
    rw [BitVec.toNat_ofNat]
    simp only [CR.SEM_VAL]
    omega
  unfold State.writeCell
  simp only [hr, hsem]
  simp only [CR.SEM_VAL, CR.SQ_CTRL, CR.SQ_PC, CR.SQ_YIELD_LIMIT, CR.SQ_FAULT_CAUSE, CR.MX_SELFTEST, CR.SX_SHARE,
    CR.SX_D_STATUS, CR.Q_CFG]
  repeat rw [if_neg (by omega)]
  rw [if_pos (by omega)]

/-- With nobody in line a write sets the count and clears marks. -/
theorem writeSem_empty {x : Cell} (hline : (x.sem k).line = []) (v : Half) : x.writeSem k v.toNat =
    x.setSem k { x.sem k with
      count := v.extractLsb' 0 16, ovf := (x.sem k).ovf && !v.getLsbD 16, failed := (x.sem k).failed && !v.getLsbD 17
      failedUc := (x.sem k).failedUc && !v.getLsbD 17 } := by
  have hcount : BitVec.ofNat 16 v.toNat = v.extractLsb' 0 16 := by
    apply BitVec.eq_of_toNat_eq
    simp [BitVec.extractLsb'_toNat]
  rw [Cell.writeSem, hline, hcount]
  simp only [bitB_eq_testBit, hline, List.length_nil, Cell.serveAll]
  rfl

end

/-- Settles O15: posts by `post_fits`, `post_saturates`, `post_doze` and `postFrom_asleep`; SEMWAIT by the three ways it
is evaluated. -/
theorem semaphoresPostAndWait : Obligations.SemaphoresPostAndWait := by
  refine ⟨fun c d s f k n => ?_, fun c s f k n => ?_⟩
  · intro adds fits
    refine ⟨fun h hfunc himm h1 h2 => ⟨fun hs => ⟨fun hst ⟨hreset, hovf, hroom⟩ => ?_, fun hst hreset hline hover =>
      ?_⟩,
      fun hs hd hdc => ⟨fun ⟨hreset, hovf, hroom⟩ hst => ?_, fun ⟨hreset, hovf, hroom⟩ hst => ?_, fun hreset hst =>
        ?_⟩⟩,
      fun p l hst hheld hk hn ⟨hreset, hovf, hroom⟩ => ?_⟩
    · exact ⟨_, rfl, issue_sempost_fits h (semFields_of hfunc himm h1 h2) hs hreset hst hovf hroom⟩
    · exact ⟨_, rfl, issue_sempost_saturates h (semFields_of hfunc himm h1 h2) hs hreset hst hline hover⟩
    · exact ⟨_, rfl, issue_sempostr_fits h (semFields_of hfunc himm h1 h2) hs hd hdc hreset hovf hroom hst⟩
    · obtain ⟨hnpc, hothers, hcell⟩ := issue_sempostr_doze h (semFields_of hfunc himm h1 h2) hs hd hdc hreset hovf
        hroom hst
      exact ⟨_, rfl, hnpc, hothers, by rw [hcell]; rfl⟩
    · exact ⟨_, rfl, issue_sempostr_asleep h (semFields_of hfunc himm h1 h2) hs hd hdc hreset hst⟩
    · subst hk hn
      exact ⟨_, execHeldPostDelivery_makes hst hheld hreset hovf hroom, rfl⟩
  · intro x m
    refine ⟨fun h hfunc himm h1 h2 hs => ⟨fun hline hfailed hovf hroom => ?_, fun hline hfailed hovf hroom => ?_,
      fun hline hmark => ?_⟩, fun e l h hop hf hs hnext hline hroom => ?_, fun o v hstill hreach hline => ?_⟩
    · exact ⟨_, rfl, issue_semwait_takes h (semFields_of hfunc himm h1 h2) hs hline hfailed hovf hroom⟩
    · obtain ⟨y, e, ht, hwin, hpc, hfault, hsem⟩ :=
        issue_semwait_waits h (semFields_of hfunc himm h1 h2) hs hline hfailed hovf hroom
      have hcell : (s.setCell c y).cell c = y := cell_setCell_self s c y
      exact ⟨s.setCell c y, e, congrArg Host.Outcome.next ht, by rw [hcell], by rw [hcell]; exact hwin, hpc, hfault,
        by rw [hcell]; exact hsem⟩
    · obtain ⟨t, e, q, ht, h⟩ := issue_semwait_faults h (semFields_of hfunc himm h1 h2) hs hline hmark
      exact ⟨t, e, q, congrArg Host.Outcome.next ht, h⟩
    · exact execSemwaitSatisfied_takes h hop hf hs hnext hline hroom
    · obtain ⟨hoff, hwidth, halign, hctrl, -⟩ := semVal_place k
      refine ⟨_, ?_, rfl⟩
      show execSemValWrite o c k v s = _
      rw [execSemValWrite, writeReg_cellWord hreach hoff hwidth halign v.isLt (fun _ h => absurd h hctrl),
        writeCell_sem,
        writeSem_empty hline, goOn_setCell hstill c]
      exact hstill.empty c

end Sys2Proof.Proofs
end
section
/-! Instructions that change more than their own cell, and those that meet errors in memory before they read operands
(R120, R241, R251). -/

namespace Sys2Proof.Proofs

open Sys2Proof Sys2Proof.Machine Sys2Proof.Laws

/-! ### A commit over a state that an evaluation has left -/

/-- Entry e stands in the window for instruction i of cell c, which it dispatched in state s. -/
structure StandsFor (c : CellId) (s : State) (i : Ins) (e : InFlight) : Prop where
  pc : e.pc = (s.cell c).npc
  op : e.ins.op = i.op
  x : e.ins.x = i.x
  next : e.next = ((s.cell c).entry i).next
  waited : e.waited = none

section
variable {c : CellId} {s S s1 : State} {i : Ins} {e : InFlight} {z : Cell}

theorem standsFor_entry (h : Ready c s) (i : Ins) : StandsFor c s i ((s.cell c).entry i) :=
  ⟨rfl, rfl, rfl, rfl, entry_waited h i⟩

theorem standsFor_metEntry (h : Ready c s) (i : Ins) : StandsFor c s i (metEntry (s.cell c) i) :=
  ⟨rfl, rfl, rfl, rfl, entry_waited h i⟩

/-- An instruction whose evaluation leaves state S but for its own cell retires over S. -/
theorem issue_over {post : Bool} (h : Ready c s) (hf : Fetched s c i.op) (hop : Op.plain i.op)
    (hev : evalOp c ((s.cell c).entry i) (s.carrying c i) = .done s1 none post) (he : StandsFor c s i e)
    (hz : s1.cell c = { z with
      window := [e], npc := ((s.cell c).holding i).npc, runahead := (s1.cell c).runahead, stuck := (s1.cell c).stuck })
    (ho : ∀ d, d ≠ c → s1.cell d = S.cell d) (hs : s1 = { S with cells := s1.cells, free := s1.free })
    (hctrl : z.reg CR.SQ_CTRL = (s.cell c).reg CR.SQ_CTRL) (hw : SMap.wf cellResetVal z.regs = true) :
    ∃ u, Retires commitCounters c S z (nextPc (s.cell c).npc i.op) u ∧
      s.issue c i = if post && i.op.long then u.completionPost c i.x.pen i.x.psem else u := by
  have hleaves : Leaves c (s.carrying c i) ((s.cell c).entry i) s1 e := by
    refine ⟨by rw [hz], he.pc, he.op, he.x, he.next, fun o k => ?_, by rw [hz, cell_carrying], ?_, by rw [hz]; exact hw⟩
    · rw [he.waited] at k
      cases k
    · rw [hz, cell_carrying]
      exact hctrl
  obtain ⟨u, hu, hi⟩ := issue_done h hf hop.1 hev hleaves
  have hcommit : commitOf e none = commitCounters :=
    (if_pos (by rw [he.next, he.pc, he.op]; exact entry_next _ _ hop)).trans (countersOf_none he.waited)
  rw [hcommit] at hu
  refine ⟨u, retires_over hu ?_ ho hs, hi⟩
  rw [hz]

/-- A long one posts its completion then. -/
theorem issue_over_long (h : ReadyLong c s) (hop : Op.plain i.op) (hlong : i.op.long = true)
    (hev : evalOp c ((s.cell c).entry i) (s.carrying c i) = .done s1) (he : StandsFor c s i e)
    (hz : s1.cell c = { z with
      window := [e], npc := ((s.cell c).holding i).npc, runahead := (s1.cell c).runahead, stuck := (s1.cell c).stuck })
    (ho : ∀ d, d ≠ c → s1.cell d = S.cell d) (hs : s1 = { S with cells := s1.cells, free := s1.free })
    (hctrl : z.reg CR.SQ_CTRL = (s.cell c).reg CR.SQ_CTRL) (hw : SMap.wf cellResetVal z.regs = true) :
    RetiresPosting commitCounters c S z (nextPc (s.cell c).npc i.op) i.x (s.issue c i) := by
  obtain ⟨u, hu, hi⟩ := issue_over (post := true) h.toReady (fetched_long h _) hop hev he hz ho hs hctrl hw
  refine ⟨u, hu, ?_⟩
  rw [hi, hlong]
  rfl

end

/-! ### What errors met in memory count -/

/-- The registers that the errors of R241 and R251 are counted in. -/
def upsetRegs : List Nat :=
  [FR.HBM_CORR_CNT, FR.HBM_UNCORR_CNT, FR.HBM_ERR_PA] ++ eventRegs 2 ++
    allCells.map (fun n => FR.HR_ECC_CORR_CNT n.val) ++ allCells.map (fun n => FR.HR_ECC_UNCORR_CNT n.val)

theorem corrected_mem (n : CellId) : FR.HR_ECC_CORR_CNT n.val ∈ upsetRegs :=
  List.mem_append_left _ (List.mem_append_right _ (List.mem_map.2 ⟨n, List.mem_finRange n, rfl⟩))

theorem uncorrectable_mem (n : CellId) : FR.HR_ECC_UNCORR_CNT n.val ∈ upsetRegs :=
  List.mem_append_right _ (List.mem_map.2 ⟨n, List.mem_finRange n, rfl⟩)

theorem event_upset : eventRegs 2 ⊆ upsetRegs := fun _ h =>
  List.mem_append_left _ (List.mem_append_left _ (List.mem_append_right _ h))

theorem hbm_upset {a : Nat} (h : a ∈ [FR.HBM_CORR_CNT, FR.HBM_UNCORR_CNT, FR.HBM_ERR_PA]) : a ∈ upsetRegs :=
  List.mem_append_left _ (List.mem_append_left _ (List.mem_append_left _ h))

theorem floorRegs_winEcc (s : State) (e : WinEcc) : FloorRegs upsetRegs s (s.winEcc e) := by
  unfold State.winEcc
  extract_lets n s1 f s2
  have h1 : FloorRegs upsetRegs s s1 := (FloorRegs.refl _ s).count _ (corrected_mem n)
  have h2 : FloorRegs upsetRegs s s2 := h1.trans (floorRegs_of_eq rfl)
  exact .ite h1 ((h2.count _ (uncorrectable_mem n)).trans ((floorRegs_logEvent _ _ _ _ _ _ _).mono event_upset))

theorem floorRegs_frameEcc (s : State) (la : Nat) (e : FrameEcc) : FloorRegs upsetRegs s (s.frameEcc la e) := by
  unfold State.frameEcc State.frameEccAt
  extract_lets s1 s2
  have h1 : FloorRegs upsetRegs s s1 := (FloorRegs.refl _ s).count _ (corrected_mem _)
  have h2 : FloorRegs upsetRegs s s2 := h1.trans (floorRegs_of_eq rfl)
  exact .ite h1 ((h2.count _ (uncorrectable_mem _)).trans ((floorRegs_logEvent _ _ _ _ _ _ _).mono event_upset))

theorem floorRegs_hbmUncorrectable (s : State) (blk : Nat) : FloorRegs upsetRegs s (s.hbmUncorrectable blk) := by
  unfold State.hbmUncorrectable
  extract_lets m s1 s2 s3
  have h1 : FloorRegs upsetRegs s s1 := floorRegs_of_eq rfl
  have h2 : FloorRegs upsetRegs s s2 := h1.count _ (hbm_upset (by simp))
  have h3 : FloorRegs upsetRegs s s3 := .ite h2 (h2.setFreg _ (hbm_upset (by simp)))
  exact h3.trans ((floorRegs_logEvent _ _ _ _ _ _ _).mono event_upset)

theorem floorRegs_memUpset (s : State) (m : MemUpset) : FloorRegs upsetRegs s (s.memUpset m) := by
  unfold State.memUpset
  refine .ite (.refl _ s) ?_
  refine .foldl _ (.foldl _ (.foldl _ ((FloorRegs.refl _ s).count _ (hbm_upset (by simp))) ?_) ?_) ?_
  · exact fun t b _ => floorRegs_hbmUncorrectable t b
  · exact fun t l _ => floorRegs_frameEcc t _ _
  · exact fun t w _ => floorRegs_winEcc t w

/-- The windows of slices keep their sizes. -/
theorem winCfg_notUpset (n : CellId) : FR.HR_WIN_CFG n.val ∉ upsetRegs := by
  have hn := n.isLt
  have hnamed : ∀ a ∈ [FR.HBM_CORR_CNT, FR.HBM_UNCORR_CNT, FR.HBM_ERR_PA] ++ eventRegs 2,
      a < FR.HR_WIN_CFG 0 ∨ FR.HR_WIN_CFG 256 ≤ a := by decide
  rw [upsetRegs, List.mem_append, List.mem_append, not_or, not_or]
  refine ⟨⟨fun h => ?_, fun h => ?_⟩, fun h => ?_⟩
  · have hn := n.isLt
    have hout := hnamed _ h
    simp only [FR.HR_WIN_CFG] at hout
    omega
  · obtain ⟨k, -, hk⟩ := List.mem_map.1 h
    have := k.isLt
    simp only [FR.HR_WIN_CFG, FR.HR_ECC_CORR_CNT] at hk
    omega
  · obtain ⟨k, -, hk⟩ := List.mem_map.1 h
    have := k.isLt
    simp only [FR.HR_WIN_CFG, FR.HR_ECC_UNCORR_CNT] at hk
    omega

theorem winSize_memUpset (s : State) (m : MemUpset) (n : CellId) : (s.memUpset m).winSize n = s.winSize n := by
  rw [State.winSize, (floorRegs_memUpset s m).freg _ (winCfg_notUpset n), State.winSize]

/-! ### Operands -/

section
variable {c : CellId} {s : State} {i : Ins}

/-- The entry of an instruction that has met its errors in memory. -/
def metMem (e : InFlight) : InFlight := { e with ins := { e.ins with u := { e.ins.u with mem := {} } } }

/-- The cell that carries out i once i has met its errors, in memory and in OC. -/
theorem operandUpset_cell (h : Ready c s) (hop : Op.plain i.op) (u : Upset) :
    ∃ e, StandsFor c s i e ∧ ((s.carrying c i).operandUpset c u).cell c =
      { (s.cell c).ocErrors u with window := [e], npc := ((s.cell c).holding i).npc, stuck := none } := by
  have hread : ∃ e, StandsFor c s i e ∧ ((s.carrying c i).readUpset c u).cell c =
      { s.cell c with window := [e], npc := ((s.cell c).holding i).npc, stuck := none } := by
    unfold State.readUpset
    split
    · exact ⟨_, standsFor_entry h i, by rw [cell_carrying, holding_plain _ _ hop]⟩
    · refine ⟨metMem ((s.cell c).entry i), ⟨rfl, rfl, rfl, rfl, entry_waited h i⟩, ?_⟩
      rw [cell_modCell_self, memOnly_cell (memOnly_memUpset (memOnly_refl _)) c, cell_carrying, holding_plain _ _ hop]
      rfl
  obtain ⟨e, he, hcell⟩ := hread
  refine ⟨metOc e, ⟨he.pc, he.op, he.x, he.next, he.waited⟩, ?_⟩
  rw [State.operandUpset, State.ocUpset, cell_modCell_self, hcell]
  rfl

theorem operandUpset_other (s : State) {c d : CellId} (u : Upset) (hd : d ≠ c) :
    (s.operandUpset c u).cell d = s.cell d := by
  rw [State.operandUpset, State.ocUpset, cell_modCell_other _ _ hd, State.readUpset]
  split
  · rfl
  · rw [cell_modCell_other _ _ hd, memOnly_cell (memOnly_memUpset (memOnly_refl _)) d]

theorem winSize_operandUpset (s : State) (c : CellId) (u : Upset) (n : CellId) :
    (s.operandUpset c u).winSize n = s.winSize n := by
  have hread : (s.readUpset c u).winSize n = s.winSize n := by
    rw [State.readUpset]
    split
    · rfl
    · exact winSize_memUpset s u.mem n
  exact hread

end

end Sys2Proof.Proofs
end
section
/-! Conveyors: what QPUSH writes, and the registers that configure them (O16). -/

namespace Sys2Proof.Proofs

open Sys2Proof Sys2Proof.Machine Sys2Proof.Laws

/-! ### Conveyors of a cell -/

@[simp] theorem conv_setConv_self (x : Cell) (k : BitVec 4) (v : Conveyor) : (x.setConv k v).conv k = v :=
  Vector.getElem_set_self _

theorem conv_setConv_other (x : Cell) {j k : BitVec 4} (v : Conveyor) (h : j ≠ k) :
    (x.setConv k v).conv j = x.conv j :=
  Vector.getElem_set_ne k.isLt j.isLt (fun hk => h (BitVec.eq_of_toNat_eq hk.symm))

theorem sem_setSem_other (x : Cell) {j k : BitVec 6} (m : Sem) (h : j ≠ k) : (x.setSem k m).sem j = x.sem j :=
  Vector.getElem_set_ne k.isLt j.isLt (fun hk => h (BitVec.eq_of_toNat_eq hk.symm))

/-! ### Whether a conveyor accepts an item -/

section
variable {c : CellId} {s : State} {z : Cell}

/-- Whether a producer has something to write depends on slots and on what is in flight. -/
theorem produces_setCell (k : BitVec 4) (hslots : z.slots = (s.cell c).slots)
    (hhead : (z.window.head?).any (fun e => e.ins.op == .qpush && e.ins.x.q == k && e.fault.isNone) =
      ((s.cell c).window.head?).any (fun e => e.ins.op == .qpush && e.ins.x.q == k && e.fault.isNone)) :
    (s.setCell c z).produces c k = s.produces c k := by
  funext p
  cases p with
  | push => simp only [State.produces, cell_setCell_self, hhead]
  | slot j n =>
    have hslot : ((s.setCell c z).cell j).slot n = (s.cell j).slot n := by
      by_cases hj : j = c
      · rw [hj, cell_setCell_self, Cell.slot, hslots, Cell.slot]
      · rw [cell_setCell_other _ _ hj]
    simp only [State.produces, hslot]
  | gone => rfl

/-- Whether an access to an item waits depends on the conveyors and the windows. -/
theorem convStuck_setCell (k : BitVec 4) (i : BitVec 32) (hqs : z.qs = (s.cell c).qs) :
    (s.setCell c z).convStuck c k i = s.convStuck c k i := by
  have hconv : ((s.setCell c z).cell c).conv k = (s.cell c).conv k := by
    rw [cell_setCell_self, Cell.conv, hqs, Cell.conv]
  have hslice : (s.setCell c z).slice c = s.slice c := rfl
  have hsize : (s.setCell c z).winSize c = s.winSize c := rfl
  rw [State.convStuck, State.convStuck, hconv]
  simp only [State.winCheck, hslice, hsize]
  cases (s.slice c).resize with
  | none => rfl
  | some units =>
    by_cases hlo : ((s.cell c).conv k).addr i + 64 ≤ min (s.winSize c) (units * 0x10000)
    · simp only [if_pos hlo]
    · by_cases hhi : ((s.cell c).conv k).addr i + 64 ≤ max (s.winSize c) (units * 0x10000)
      · simp only [if_neg hlo, if_pos hhi]
      · simp only [if_neg hlo, if_neg hhi]

/-- Whether one may write an item depends on the conveyors as well, and on the window's size. -/
theorem convAccepts_setCell (k : BitVec 4) (p : Producer) (hqs : z.qs = (s.cell c).qs)
    (hslots : z.slots = (s.cell c).slots)
    (hhead : (z.window.head?).any (fun e => e.ins.op == .qpush && e.ins.x.q == k && e.fault.isNone) =
      ((s.cell c).window.head?).any (fun e => e.ins.op == .qpush && e.ins.x.q == k && e.fault.isNone)) :
    (s.setCell c z).convAccepts c k p = s.convAccepts c k p := by
  have hconv : ((s.setCell c z).cell c).conv k = (s.cell c).conv k := by
    rw [cell_setCell_self, Cell.conv, hqs, Cell.conv]
  have hline : (s.setCell c z).convLine c k = s.convLine c k := by
    rw [State.convLine, State.convLine, hconv, produces_setCell k hslots hhead]
  unfold State.convAccepts
  rw [hconv, hline]
  simp only [convStuck_setCell k _ hqs]

end

/-! ### One item pushed (R308, R309, R311) -/

/-- A conveyor after producer p has written an item at W. -/
def pushedConv (v : Conveyor) (p : Producer) (eop : Bool) : Conveyor :=
  { v with
    w := v.w + 1, openBy := if eop then none else some p, waiting := v.waiting.filter (· != p)
    ends := if eop then v.ends.add v.w.toNat else v.ends.del v.w.toNat
    bad := v.bad.del v.w.toNat }

/-- Its cell, where the item lies inside the configured storage. -/
def pushedCell (x : Cell) (k : BitVec 4) (p : Producer) (d : List PByte) (eop : Bool) : Cell :=
  let v := x.conv k
  let y := (x.setConv k (pushedConv v p eop)).count CR.Q_PUSH_CNT
  if v.inWin then y
  else { (y.ocWrite (v.addr v.w) (plain d)) with ocPoison := poisonAfter y.ocPoison (v.addr v.w) d }

/-- The window of cell c after data d is written to conveyor v's place in it, where it lies there. -/
def windowPut (s : State) (c : CellId) (v : Conveyor) (d : List PByte) : State :=
  if v.inWin then (s.countBypass c (winLayer (v.addr v.w))).winWrite c (v.addr v.w) d else s

theorem windowPut_setCell (s : State) (c : CellId) (x : Cell) (v : Conveyor) (d : List PByte) :
    windowPut (s.setCell c x) c v d = (windowPut s c v d).setCell c x := by
  unfold windowPut
  split
  · unfold State.countBypass
    have hfreg : (s.setCell c x).freg = s.freg := rfl
    rw [hfreg]
    split <;> rfl
  · rfl

theorem cell_windowPut (s : State) (c : CellId) (v : Conveyor) (d : List PByte) (n : CellId) :
    (windowPut s c v d).cell n = s.cell n := by
  unfold windowPut State.countBypass
  split
  · split <;> rfl
  · rfl

/-- The notice of an item that carries an end mark (R311). -/
def notices (v : Conveyor) (eop : Bool) : Bool := eop && v.cfg.getLsbD 16

/-- The semaphore that it goes to. -/
def noticeSem (v : Conveyor) : BitVec 6 := BitVec.ofNat 6 (bits v.cfg.toNat 13 8)

section
variable {c : CellId} {s : State} {k : BitVec 4} {p : Producer} {d : List PByte} {eop : Bool}

/-- An item inside the configured storage, to a cell that is not in DOZE. -/
theorem convPush_inside (hdoze : s.endDoze c = s) (hin : ((s.cell c).conv k).inWin = true →
      ((s.cell c).conv k).addr ((s.cell c).conv k).w + 64 ≤ s.winSize c) :
    s.convPush c k p d eop =
      let t := (windowPut s c ((s.cell c).conv k) d).setCell c (pushedCell (s.cell c) k p d eop)
      if notices ((s.cell c).conv k) eop then t.post c (noticeSem ((s.cell c).conv k)) 1 else t := by
  have hout : (((s.cell c).conv k).inWin &&
      !decide (((s.cell c).conv k).addr ((s.cell c).conv k).w + 64 ≤ s.winSize c)) = false := by
    cases hw : ((s.cell c).conv k).inWin with
    | false => rfl
    | true => simp [hin hw]
  unfold State.convPush
  rw [hdoze]
  simp only [hout, Bool.not_false, Bool.and_true, Bool.false_eq_true, if_false]
  rw [← windowPut_setCell]
  rfl

end

/-- A cell that has posted the notice of an item, where there is one. -/
def noticed (v : Conveyor) (eop : Bool) (x : Cell) : Cell :=
  if notices v eop then posted x (noticeSem v) 1 else x

section
variable {c : CellId} {s : State} {k : BitVec 4} {p : Producer} {d : List PByte} {eop : Bool}

@[simp] theorem cp_pushedCell (x : Cell) : (pushedCell x k p d eop).cp = x.cp := by
  simp only [pushedCell, apply_ite Cell.cp]
  exact ite_self _

@[simp] theorem sem_pushedCell (x : Cell) (j : BitVec 6) : (pushedCell x k p d eop).sem j = x.sem j := by
  simp only [pushedCell, apply_ite (fun y : Cell => y.sem j)]
  exact ite_self _

/-- An item whose notice finds room. -/
theorem convPush_awake (hst : (s.cell c).cp.st = .awake) (hin : ((s.cell c).conv k).inWin = true →
      ((s.cell c).conv k).addr ((s.cell c).conv k).w + 64 ≤ s.winSize c)
    (hnotice : notices ((s.cell c).conv k) eop = true → (s.cell c).cp.goal.reset = false ∧
      ((s.cell c).sem (noticeSem ((s.cell c).conv k))).ovf = false ∧
      ((s.cell c).sem (noticeSem ((s.cell c).conv k))).count.toNat < 65535) :
    s.convPush c k p d eop = (windowPut s c ((s.cell c).conv k) d).setCell c
      (noticed ((s.cell c).conv k) eop (pushedCell (s.cell c) k p d eop)) := by
  rw [convPush_inside (endDoze_awake hst) hin]
  extract_lets t
  have hcell : t.cell c = pushedCell (s.cell c) k p d eop := cell_setCell_self _ _ _
  unfold noticed
  split
  · obtain ⟨hreset, hovf, hroom⟩ := hnotice ‹_›
    rw [post_fits (by rw [hcell, cp_pushedCell]; exact hreset) (by rw [hcell, cp_pushedCell]; exact hst)
      (by rw [hcell, sem_pushedCell]; exact hovf) (by rw [hcell, sem_pushedCell]; exact hroom), hcell, setCell_setCell]
  · rfl

/-- A cell that is no longer in DOZE stays so. -/
theorem endDoze_endDoze (s : State) (c : CellId) : (s.endDoze c).endDoze c = s.endDoze c := by
  by_cases h : (s.cell c).cp.st = .doze
  · apply endDoze_awake
    rw [endDoze_state h, cell_free, cell_setCell_self]
  · rw [endDoze_not h, endDoze_not h]

/-- What the end of DOZE leaves as it was. -/
theorem endDoze_cell (s : State) (c : CellId) :
    (s.endDoze c).cell c =
      { s.cell c with regs := ((s.endDoze c).cell c).regs, cp := ((s.endDoze c).cell c).cp } ∧
    (∀ o, o ≠ CR.CP_DOZE_CNT → ((s.endDoze c).cell c).reg o = (s.cell c).reg o) ∧
    (SMap.wf cellResetVal (s.cell c).regs = true → SMap.wf cellResetVal ((s.endDoze c).cell c).regs = true) := by
  by_cases h : (s.cell c).cp.st = .doze
  · rw [endDoze_state h, cell_free, cell_setCell_self]
    exact ⟨rfl, fun o ho => reg_count_other (s.cell c) _ ho, wf_count _ _ _⟩
  · rw [endDoze_not h]
    exact ⟨rfl, fun _ _ => rfl, id⟩

/-- An item that carries no end mark, to a conveyor in OC. -/
theorem convPush_open (hin : ((s.cell c).conv k).inWin = false) :
    s.convPush c k p d false = (s.endDoze c).setCell c (pushedCell ((s.endDoze c).cell c) k p d false) := by
  have hconv : (((s.endDoze c).cell c).conv k).inWin = false := by rw [(endDoze_cell s c).1]; exact hin
  have hagain : s.convPush c k p d false = (s.endDoze c).convPush c k p d false := by
    unfold State.convPush
    rw [endDoze_endDoze]
  rw [hagain, convPush_inside (endDoze_endDoze s c) (fun h => absurd h (by simp [hconv]))]
  simp only [notices, windowPut, hconv, Bool.false_and, Bool.false_eq_true, if_false]

end

end Sys2Proof.Proofs
end

section
/-! The conveyor instructions (O16). -/

namespace Sys2Proof.Proofs

open Sys2Proof Sys2Proof.Machine Sys2Proof.Laws

theorem plain_qpush : Op.plain .qpush := by simp [Op.plain]
theorem plain_qpop : Op.plain .qpop := by simp [Op.plain]
theorem plain_qcnt : Op.plain .qcnt := by simp [Op.plain]
theorem plain_qmark : Op.plain .qmark := by simp [Op.plain]
theorem plain_qrewind : Op.plain .qrewind := by simp [Op.plain]
theorem plain_qrel : Op.plain .qrel := by simp [Op.plain]

/-- The item that QPUSH reads. -/
def pushItem (y : Cell) (x : LForm) : List PByte :=
  withPoison y.ocPoison (64 * x.oc_a.toNat) (y.ocRead (64 * x.oc_a.toNat) 64)

/-- The cell after QPUSH of an item with its notice. -/
def afterPush (y : Cell) (x : LForm) : Cell :=
  noticed (y.conv x.q) (decide (x.ext = 1)) (pushedCell y x.q .push (pushItem y x) (decide (x.ext = 1)))

/-- Where the conveyor's cell y may write the item that QPUSH x pushes, in state s. -/
structure PushFits (c : CellId) (s : State) (y : Cell) (x : LForm) : Prop where
  inside : (y.conv x.q).inWin = true → (y.conv x.q).addr (y.conv x.q).w + 64 ≤ s.winSize c
  notice : notices (y.conv x.q) (decide (x.ext = 1)) = true → y.cp.goal.reset = false ∧
    (y.sem (noticeSem (y.conv x.q))).ovf = false ∧ (y.sem (noticeSem (y.conv x.q))).count.toNat < 65535

section
variable {c : CellId} {s : State} {f : SForm} {x : LForm} {u : Upset} {e : InFlight}

/-- QPUSH whose conveyor accepts the item. -/
theorem evalQpush_accepts (hop : e.ins.op = .qpush) (hf : sOnly e.ins.f {} = true)
    (hx : lOnly e.ins.x { a := true, q := true, ext := true } = true) (hext : e.ins.x.ext.toNat < 2)
    (hen : (((s.ocUpset c e.ins.u).cell c).conv e.ins.x.q).en = true)
    (hacc : (s.ocUpset c e.ins.u).convAccepts c e.ins.x.q .push = true) :
    evalOp c e s = .done ((s.ocUpset c e.ins.u).convPush c e.ins.x.q .push
      (pushItem ((s.ocUpset c e.ins.u).cell c) e.ins.x) (decide (e.ins.x.ext = 1))) := by
  rw [evalOp, hop]
  simp only [evalQpush, hf, hx, hen, hacc, Nat.not_le.2 hext, decide_false, Bool.not_true, Bool.or_self,
    Bool.false_eq_true, if_false, if_true]
  rfl

theorem regs_pushedCell (y : Cell) (k : BitVec 4) (p : Producer) (d : List PByte) (eop : Bool) :
    (pushedCell y k p d eop).regs = (y.count CR.Q_PUSH_CNT).regs := by
  simp only [pushedCell, apply_ite Cell.regs]
  exact ite_self _

theorem reg_afterPush (y : Cell) (x : LForm) {o : Nat} (h : o ∉ [CR.Q_PUSH_CNT, CR.SEM_POST_CNT]) :
    (afterPush y x).reg o = y.reg o := by
  simp only [List.mem_cons, List.not_mem_nil, or_false, not_or] at h
  have hpush : (pushedCell y x.q .push (pushItem y x) (decide (x.ext = 1))).reg o = y.reg o := by
    rw [Cell.reg, regs_pushedCell]
    exact reg_count_other _ _ h.1
  unfold afterPush noticed
  split
  · rw [posted_reg _ _ _ h.2, hpush]
  · exact hpush

theorem wf_afterPush {y : Cell} (x : LForm) (h : SMap.wf cellResetVal y.regs = true) :
    SMap.wf cellResetVal (afterPush y x).regs = true := by
  have hpush : SMap.wf cellResetVal (pushedCell y x.q .push (pushItem y x) (decide (x.ext = 1))).regs = true := by
    rw [regs_pushedCell]
    exact wf_count _ _ _ h
  unfold afterPush noticed
  split
  · exact wf_count _ _ _ hpush
  · exact hpush

/-- What a push does, it does whatever the cell carries out. -/
theorem pushedCell_work (y : Cell) (k : BitVec 4) (p : Producer) (d : List PByte) (eop : Bool) (w : List InFlight)
    (pc : Word) : pushedCell { y with window := w, npc := pc, stuck := none } k p d eop =
      { pushedCell y k p d eop with window := w, npc := pc, stuck := none } := by
  have hconv : ({ y with window := w, npc := pc, stuck := none } : Cell).conv k = y.conv k := rfl
  unfold pushedCell
  rw [hconv]
  by_cases hw : (y.conv k).inWin = true
  · simp only [hw, if_true]
    rfl
  · simp only [hw]
    rfl

theorem afterPush_work (y : Cell) (x : LForm) (w : List InFlight) (pc : Word) :
    afterPush { y with window := w, npc := pc, stuck := none } x =
      { afterPush y x with window := w, npc := pc, stuck := none } := by
  have hconv : ({ y with window := w, npc := pc, stuck := none } : Cell).conv x.q = y.conv x.q := rfl
  have hitem : pushItem { y with window := w, npc := pc, stuck := none } x = pushItem y x := rfl
  unfold afterPush noticed
  rw [hconv, hitem, pushedCell_work]
  by_cases hn : notices (y.conv x.q) (decide (x.ext = 1)) = true
  · simp only [hn, if_true]
    rfl
  · simp only [hn]
    rfl

theorem issue_qpush (h : ReadyLong c s) (hf : sOnly f {} = true)
    (hx : lOnly x { a := true, q := true, ext := true } = true) (hext : x.ext.toNat < 2)
    (hen : ((s.cell c).conv x.q).en = true)
    (hacc : (s.carrying c { op := .qpush, f, x, u }).convAccepts c x.q .push = true) (hst : (s.cell c).cp.st = .awake)
    (hfits : PushFits c s (s.upsetCell c u) x) :
    RetiresPosting commitCounters c
      (windowPut s c ((s.upsetCell c u).conv x.q) (pushItem (s.upsetCell c u) x)) (afterPush (s.upsetCell c u) x)
      (nextPc (s.cell c).npc .qpush) x (s.issue c { op := .qpush, f, x, u }) := by
  obtain ⟨i, hi⟩ : ∃ i : Ins, i = { op := .qpush, f, x, u } := ⟨_, rfl⟩
  have hop : i.op = .qpush := by rw [hi]
  have hxi : i.x = x := by rw [hi]
  have hui : i.u = u := by rw [hi]
  have hfi : i.f = f := by rw [hi]
  have hplain : Op.plain i.op := by rw [hop]; exact plain_qpush
  rw [← hi] at hacc ⊢
  have hidle := upsetCell_idle h.idle u
  have hmet : (s.carrying c i).ocUpset c i.u = s.setCell c (metCell c s i) := ocUpset_metCell h.toReady hplain
  have hwork : metCell c s i = { s.upsetCell c u with
      window := [metEntry (s.cell c) i], npc := ((s.cell c).holding i).npc, stuck := none } := by rw [metCell, hui]
  have hcell : (s.setCell c (metCell c s i)).cell c = metCell c s i := cell_setCell_self _ _ _
  have hconv : (metCell c s i).conv x.q = (s.upsetCell c u).conv x.q := by rw [hwork]; rfl
  have hacc' : (s.setCell c (metCell c s i)).convAccepts c x.q .push = true := by
    rw [← hacc, State.carrying, ← setCell_setCell s c ((s.cell c).holding i)]
    apply convAccepts_setCell
    · rw [cell_setCell_self, hwork, hidle]; rfl
    · rw [cell_setCell_self, hwork, hidle]; rfl
    · rw [cell_setCell_self, hwork]; rfl
  have hev := evalQpush_accepts (c := c) (s := s.carrying c i) (e := (s.cell c).entry i) hop
    (by rw [entry_ins, hfi]; exact hf)
    (by rw [entry_ins, hxi]; exact hx) (by rw [entry_ins, hxi]; exact hext)
  rw [entry_ins, hmet, hxi, hcell, hconv] at hev
  have hev := hev (by rw [hidle]; exact hen) hacc'
  rw [convPush_awake (by rw [hcell, hwork, hidle]; exact hst) (by rw [hcell, hconv]; exact hfits.inside)
    (by rw [hcell, hconv]; intro hn; rw [hwork]; exact hfits.notice hn), hcell, hconv, windowPut_setCell,
    setCell_setCell] at hev
  have hafter : noticed ((s.upsetCell c u).conv x.q) (decide (x.ext = 1)) (pushedCell (metCell c s i) x.q .push
      (pushItem (metCell c s i) x) (decide (x.ext = 1))) = { afterPush (s.upsetCell c u) x with
        window := [metEntry (s.cell c) i], npc := ((s.cell c).holding i).npc, stuck := none } := by
    rw [← hconv, ← afterPush_work, hwork]; rfl
  have hitem : pushItem (metCell c s i) x = pushItem (s.upsetCell c u) x := by rw [hwork]; rfl
  rw [hafter, hitem] at hev
  rw [← hxi, ← hop]
  rw [← hxi] at hev
  refine issue_over_long h hplain (by rw [hop]; rfl) hev (standsFor_metEntry h.toReady i)
    (by rw [cell_setCell_self]) (fun d hd => cell_setCell_other _ _ hd) rfl ?_ ?_
  · rw [reg_afterPush _ _ (by decide), hidle]; exact reg_ocErrors _ _ (by decide)
  · apply wf_afterPush; rw [hidle]; exact wf_ocErrors _ _ h.canon

/-! ### What QPUSH leaves, part by part -/

section
variable {y : Cell} {k : BitVec 4} {p : Producer} {d : List PByte} {eop : Bool}

theorem pushedCell_window (h : (y.conv k).inWin = true) :
    pushedCell y k p d eop = (y.setConv k (pushedConv (y.conv k) p eop)).count CR.Q_PUSH_CNT := by
  simp only [pushedCell, h, if_true]

theorem pushedCell_here (h : (y.conv k).inWin = false) : pushedCell y k p d eop =
    { (y.setConv k (pushedConv (y.conv k) p eop)).count CR.Q_PUSH_CNT with
      oc := (y.ocWrite ((y.conv k).addr (y.conv k).w) (plain d)).oc
      ocPoison := poisonAfter y.ocPoison ((y.conv k).addr (y.conv k).w) d } := by
  simp only [pushedCell, h, Bool.false_eq_true, if_false]
  rfl

theorem oc_pushedCell : (pushedCell y k p d eop).oc =
    if (y.conv k).inWin then y.oc else (y.ocWrite ((y.conv k).addr (y.conv k).w) (plain d)).oc := by
  cases h : (y.conv k).inWin with
  | true => rw [pushedCell_window h]; rfl
  | false => rw [pushedCell_here h]; rfl

theorem ocPoison_pushedCell : (pushedCell y k p d eop).ocPoison =
    if (y.conv k).inWin then y.ocPoison else poisonAfter y.ocPoison ((y.conv k).addr (y.conv k).w) d := by
  cases h : (y.conv k).inWin with
  | true => rw [pushedCell_window h]; rfl
  | false => rw [pushedCell_here h]; rfl

theorem qs_pushedCell : (pushedCell y k p d eop).qs = (y.setConv k (pushedConv (y.conv k) p eop)).qs := by
  cases h : (y.conv k).inWin with
  | true => rw [pushedCell_window h]; rfl
  | false => rw [pushedCell_here h]; rfl

theorem pushedCell_frame : pushedCell y k p d eop = { y.count CR.Q_PUSH_CNT with
    qs := (pushedCell y k p d eop).qs, oc := (pushedCell y k p d eop).oc
    ocPoison := (pushedCell y k p d eop).ocPoison } := by
  cases h : (y.conv k).inWin with
  | true => rw [pushedCell_window h]; rfl
  | false => rw [pushedCell_here h]; rfl

end

/-- A notice posts, and changes nothing else. -/
theorem noticed_frame (v : Conveyor) (eop : Bool) (y : Cell) : noticed v eop y =
    { (if notices v eop then y.count CR.SEM_POST_CNT else y) with sems := (noticed v eop y).sems } := by
  unfold noticed
  split <;> rfl

theorem noticed_keeps (v : Conveyor) (eop : Bool) (y : Cell) : (noticed v eop y).oc = y.oc ∧
    (noticed v eop y).ocPoison = y.ocPoison ∧ (noticed v eop y).qs = y.qs := by
  unfold noticed
  split <;> exact ⟨rfl, rfl, rfl⟩

theorem sem_noticed (v : Conveyor) (eop : Bool) (y : Cell) (j : BitVec 6) :
    (noticed v eop y).sem j = if notices v eop = true ∧ j = noticeSem v then
      { y.sem (noticeSem v) with count := (y.sem (noticeSem v)).count + 1 } else y.sem j := by
  unfold noticed
  by_cases hn : notices v eop = true
  · simp only [hn, if_true, true_and]
    by_cases hj : j = noticeSem v
    · have hone : BitVec.ofNat 16 ((y.sem (noticeSem v)).count.toNat + 1) = (y.sem (noticeSem v)).count + 1 := by
        apply BitVec.eq_of_toNat_eq
        simp
      rw [if_pos hj, hj, posted, sem_setSem_self, hone]
    · rw [if_neg hj, posted, sem_setSem_other _ _ hj]
      rfl
  · simp only [hn, if_false, false_and, Bool.false_eq_true]

theorem afterPush_frame (y : Cell) (x : LForm) : afterPush y x =
    { (if notices (y.conv x.q) (decide (x.ext = 1)) then (y.count CR.Q_PUSH_CNT).count CR.SEM_POST_CNT
        else y.count CR.Q_PUSH_CNT) with
      qs := (afterPush y x).qs, oc := (afterPush y x).oc, ocPoison := (afterPush y x).ocPoison
      sems := (afterPush y x).sems } := by
  unfold afterPush noticed
  by_cases hn : notices (y.conv x.q) (decide (x.ext = 1)) = true
  · simp only [hn, if_true]
    rw [pushedCell_frame]
    rfl
  · simp only [if_neg hn]
    rw [pushedCell_frame]

theorem conv_afterPush (y : Cell) (x : LForm) :
    (afterPush y x).conv x.q = pushedConv (y.conv x.q) .push (decide (x.ext = 1)) ∧
      ∀ j, j ≠ x.q → (afterPush y x).conv j = y.conv j := by
  have hqs : (afterPush y x).qs = (y.setConv x.q (pushedConv (y.conv x.q) .push (decide (x.ext = 1)))).qs :=
    (noticed_keeps _ _ _).2.2.trans qs_pushedCell
  refine ⟨?_, fun j hj => ?_⟩
  · rw [Cell.conv, hqs]
    exact conv_setConv_self y _ _
  · rw [Cell.conv, hqs]
    exact conv_setConv_other y _ hj

theorem sem_afterPush (y : Cell) (x : LForm) (j : BitVec 6) : (afterPush y x).sem j =
    if notices (y.conv x.q) (decide (x.ext = 1)) = true ∧ j = noticeSem (y.conv x.q) then
      { y.sem (noticeSem (y.conv x.q)) with count := (y.sem (noticeSem (y.conv x.q))).count + 1 } else y.sem j := by
  rw [afterPush, sem_noticed]
  simp only [sem_pushedCell]

end

section
variable {c : CellId} {s : State} {f : SForm} {x : LForm} {u : Upset}

/-! ### QPOP -/

/-- The cell after QPOP has taken item d from conveyor v. -/
def afterPop (y : Cell) (q : BitVec 4) (v : Conveyor) (a : Nat) (d : List Byte) (rd : BitVec 5) : Cell :=
  (((y.setConv q { v with rd := v.rd + 1 }).count CR.Q_POP_CNT).ocWrite a d).wrS rd
    (if v.ends.has v.rd.toNat then 1 else 0)

/-- The state in which QPOP has met its errors and read its item: one in the window may take the neighbour path (R238). -/
def itemRead (s : State) (c : CellId) (v : Conveyor) : State :=
  if v.inWin then s.countBypass c (winLayer (v.addr v.rd)) else s

theorem cell_itemRead (s : State) (c : CellId) (v : Conveyor) (n : CellId) : (itemRead s c v).cell n = s.cell n := by
  unfold itemRead State.countBypass
  split
  · split <;> rfl
  · rfl

theorem afterPop_frame (y : Cell) (q : BitVec 4) (v : Conveyor) (a : Nat) (d : List Byte) (rd : BitVec 5) :
    afterPop y q v a d rd = { y.count CR.Q_POP_CNT with
      s := (afterPop y q v a d rd).s, qs := (y.setConv q { v with rd := v.rd + 1 }).qs
      oc := (y.ocWrite a d).oc, ocPoison := (y.ocWrite a d).ocPoison } := by
  unfold afterPop Cell.wrS
  split <;> rfl

theorem afterPop_work (y : Cell) (q : BitVec 4) (v : Conveyor) (a : Nat) (d : List Byte) (rd : BitVec 5)
    (w : List InFlight) (pc : Word) : afterPop { y with window := w, npc := pc, stuck := none } q v a d rd =
      { afterPop y q v a d rd with window := w, npc := pc, stuck := none } := by
  unfold afterPop Cell.wrS
  split <;> rfl

theorem conv_holding (y : Cell) (i : Ins) (k : BitVec 4) : (y.holding i).conv k = y.conv k := rfl

theorem issue_qpop {v : Conveyor} {d : List PByte} (h : ReadyLong c s) (hf : sOnly f { rd := true } = true)
    (hx : lOnly x { a := true, q := true } = true) (hv : (s.cell c).conv x.q = v) (hen : v.en = true)
    (hempty : v.empty = false) (hstuck : s.convStuck c x.q v.rd = false)
    (hin : v.inWin = true → v.addr v.rd + 64 ≤ s.winSize c)
    (hitem : d = ((itemRead ((s.carrying c { op := .qpop, f, x, u }).operandUpset c u) c v).convItem c x.q v.rd).1)
    (hd : anyBad d = false) :
    let r := itemRead ((s.carrying c { op := .qpop, f, x, u }).operandUpset c u) c v
    RetiresPosting commitCounters c r (afterPop (r.cell c) x.q v (64 * x.oc_a.toNat) (plain d) f.rd)
      (nextPc (s.cell c).npc .qpop) x (s.issue c { op := .qpop, f, x, u }) := by
  obtain ⟨i, hi⟩ : ∃ i : Ins, i = { op := .qpop, f, x, u } := ⟨_, rfl⟩
  have hop : i.op = .qpop := by rw [hi]
  have hxi : i.x = x := by rw [hi]
  have hui : i.u = u := by rw [hi]
  have hfi : i.f = f := by rw [hi]
  have hplain : Op.plain i.op := by rw [hop]; exact plain_qpop
  rw [← hi] at hitem ⊢
  obtain ⟨e, he, hcell⟩ := operandUpset_cell h.toReady hplain u
  have hother (d : CellId) (hd : d ≠ c) : ((s.carrying c i).operandUpset c u).cell d = s.cell d :=
    (operandUpset_other _ u hd).trans (cell_setCell_other _ _ hd)
  have hsize : ((s.carrying c i).operandUpset c u).winSize c = s.winSize c := winSize_operandUpset _ c u c
  have hev : evalOp c ((s.cell c).entry i) (s.carrying c i) = .done ((itemRead ((s.carrying c i).operandUpset c u) c
    v).modCell c
      (fun y => afterPop y x.q v (64 * x.oc_a.toNat) (plain d) f.rd)) := by
    have hconv : ((s.carrying c i).cell c).conv x.q = v := by
      rw [cell_carrying, conv_holding]
      exact hv
    have hwait : (s.carrying c i).convStuck c x.q v.rd = false := by
      rw [State.carrying, convStuck_setCell (z := (s.cell c).holding i) x.q v.rd rfl]
      exact hstuck
    have hconv' : (((s.carrying c i).operandUpset c u).cell c).conv x.q = v := by
      rw [hcell, ← hv]
      rfl
    have hspoil : ((s.carrying c i).operandUpset c u).spoilItem c x.q v.rd =
        itemRead ((s.carrying c i).operandUpset c u) c v := by
      have hinside : (v.inWin && !decide (v.addr v.rd + 64 ≤ s.winSize c)) = false := by
        cases hw : v.inWin with
        | false => rfl
        | true => simp [hin hw]
      unfold State.spoilItem itemRead
      simp only [hconv', hsize, hinside, Bool.false_eq_true, if_false]
    have hconvS : ((itemRead ((s.carrying c i).operandUpset c u) c v).cell c).conv x.q = v := by
      rw [cell_itemRead]
      exact hconv'
    have hmark : ((itemRead ((s.carrying c i).operandUpset c u) c v).convItem c x.q v.rd).2 = v.ends.has v.rd.toNat
      := by
      simp only [State.convItem, hconvS]
    rw [evalOp, entry_ins, hop]
    simp only [evalQpop, entry_ins, hfi, hxi, hui, hf, hx, hconv, hen, hempty, hwait, hspoil, hconvS, ← hitem, hd,
      hmark,
      Bool.not_true, Bool.or_self, Bool.false_eq_true, if_false]
    rfl
  generalize (s.carrying c i).operandUpset c u = R at hitem hcell hother hsize hev
  have hcell' := (cell_itemRead R c v c).trans hcell
  have hother' (d : CellId) (hd : d ≠ c) := (cell_itemRead R c v d).trans (hother d hd)
  generalize itemRead R c v = S at hitem hcell' hother' hev
  intro r
  rw [← hxi, ← hop]
  rw [← hxi] at hev
  refine issue_over_long h hplain (by rw [hop]; rfl) hev he ?_ (fun d hd => cell_modCell_other _ _ hd) rfl ?_ ?_
  · rw [cell_modCell_self, hcell', afterPop_work]
  · rw [afterPop_frame, hcell']
    exact (reg_count_other ((s.cell c).ocErrors u) _ (by decide)).trans (reg_ocErrors _ _ (by decide))
  · rw [afterPop_frame, hcell']
    exact wf_count ((s.cell c).ocErrors u) _ _ (wf_ocErrors _ _ h.canon)

/-- An item without poison of its own. -/
theorem map_clean_item (d : List PByte) : d.map (fun b => (b.1, b.2 || false)) = d := by
  simp

theorem convItem_here {q : BitVec 4} {v : Conveyor} {i : BitVec 32} (hv : (s.cell c).conv q = v) (hin : v.inWin = false)
    (hbad : v.bad.has i.toNat = false) : (s.convItem c q i).1 =
      withPoison (s.cell c).ocPoison (v.addr i) ((s.cell c).ocRead (v.addr i) 64) := by
  simp only [State.convItem, hv, hin, hbad, map_clean_item, Bool.false_eq_true, if_false]

theorem convItem_window {q : BitVec 4} {v : Conveyor} {i : BitVec 32} (hv : (s.cell c).conv q = v) (hin : v.inWin =
    true)
    (hbad : v.bad.has i.toNat = false) (hfit : v.addr i + 64 ≤ s.winSize c) :
    (s.convItem c q i).1 = s.winRead c (v.addr i) 64 := by
  simp only [State.convItem, hv, hin, hbad, map_clean_item, if_true, if_pos hfit]

theorem winSize_countBypass (s : State) (n m : CellId) (l : Nat) : (s.countBypass n l).winSize m = s.winSize m := by
  have hne : FR.HR_WIN_CFG m.val ≠ FR.HR_BYPASS_CNT n.val := by
    have := m.isLt
    have := n.isLt
    simp only [FR.HR_WIN_CFG, FR.HR_BYPASS_CNT]
    omega
  unfold State.countBypass
  split
  · rw [State.winSize, freg_count_other _ _ hne, State.winSize]
  · rfl

/-! ### The instructions without an item -/

/-- A conveyor instruction without an item acts on its own conveyor, which is enabled. -/
theorem convOp_enabled {i : Ins} {rd : Bool} {k : Conveyor → Eval} (hen : ((s.cell c).conv i.x.q).en = true)
    (hf : sOnly i.f { rd := rd } = true) (hx : lOnly i.x { q := true } = true) :
    convOp c ((s.cell c).entry i) (s.carrying c i) rd k = k ((s.cell c).conv i.x.q) := by
  simp only [convOp, entry_ins, hf, hx, cell_carrying, conv_holding, hen, Bool.not_true, Bool.or_self,
    Bool.false_eq_true, if_false, if_true]

theorem issue_qcnt (h : ReadyLong c s) (hf : sOnly f { rd := true } = true) (hx : lOnly x { q := true } = true)
    (hen : ((s.cell c).conv x.q).en = true) :
    RetiresPosting commitCounters c s ((s.cell c).wrS f.rd (BitVec.ofNat 64 ((s.cell c).conv x.q).pkts))
      (nextPc (s.cell c).npc .qcnt) x (s.issue c { op := .qcnt, f, x, u }) := by
  obtain ⟨t, ht, hi⟩ := issue_rd (i := { op := .qcnt, f, x, u }) (rd := f.rd)
    (v := BitVec.ofNat 64 ((s.cell c).conv x.q).pkts) h.toReady (fetched_long h _) plain_qcnt (by
      show evalQcnt c _ _ = _
      rw [evalQcnt, convOp_enabled (i := { op := .qcnt, f, x, u }) hen hf hx]
      rfl)
  exact ⟨t, ht, hi⟩

theorem issue_setConv {i : Ins} {v : Conveyor} (h : ReadyLong c s) (hop : Op.plain i.op) (hlong : i.op.long = true)
    (hev : evalOp c ((s.cell c).entry i) (s.carrying c i) =
      .done ((s.carrying c i).modCell c (fun y => y.setConv i.x.q v))) :
    RetiresPosting commitCounters c s ((s.cell c).setConv i.x.q v) (nextPc (s.cell c).npc i.op) i.x (s.issue c i) :=
  issue_long_cell (F := fun y => y.setConv i.x.q v) h hop hlong hev (fun _ _ _ => rfl) (fun _ => rfl)

theorem issue_qmark (h : ReadyLong c s) (hf : sOnly f {} = true) (hx : lOnly x { q := true } = true)
    (hen : ((s.cell c).conv x.q).en = true) :
    RetiresPosting commitCounters c s
      ((s.cell c).setConv x.q { (s.cell c).conv x.q with mark := ((s.cell c).conv x.q).rd, markValid := true })
      (nextPc (s.cell c).npc .qmark) x (s.issue c { op := .qmark, f, x, u }) := by
  refine issue_setConv (i := { op := .qmark, f, x, u }) h plain_qmark rfl ?_
  show evalQmark c _ _ = _
  rw [evalQmark, convOp_enabled (i := { op := .qmark, f, x, u }) hen hf hx]
  rfl

theorem issue_qrel (h : ReadyLong c s) (hf : sOnly f {} = true) (hx : lOnly x { q := true } = true)
    (hen : ((s.cell c).conv x.q).en = true) :
    RetiresPosting commitCounters c s ((s.cell c).setConv x.q ((s.cell c).conv x.q).release)
      (nextPc (s.cell c).npc .qrel) x (s.issue c { op := .qrel, f, x, u }) := by
  refine issue_setConv (i := { op := .qrel, f, x, u }) h plain_qrel rfl ?_
  show evalQrel c _ _ = _
  rw [evalQrel, convOp_enabled (i := { op := .qrel, f, x, u }) hen hf hx]
  rfl

theorem issue_qrewind (h : ReadyLong c s) (hf : sOnly f {} = true) (hx : lOnly x { q := true } = true)
    (hen : ((s.cell c).conv x.q).en = true) (hmark : ((s.cell c).conv x.q).markValid = true) :
    RetiresPosting commitCounters c s
      (((s.cell c).setConv x.q { (s.cell c).conv x.q with rd := ((s.cell c).conv x.q).mark }).count CR.Q_REWIND_CNT)
      (nextPc (s.cell c).npc .qrewind) x (s.issue c { op := .qrewind, f, x, u }) := by
  obtain ⟨v, hv⟩ : ∃ v, v = (s.cell c).conv x.q := ⟨_, rfl⟩
  have hev : evalOp c ((s.cell c).entry { op := .qrewind, f, x, u }) (s.carrying c { op := .qrewind, f, x, u }) =
      .done ((s.carrying c { op := .qrewind, f, x, u }).modCell c
        (fun y => (y.setConv x.q { v with rd := v.mark }).count CR.Q_REWIND_CNT)) := by
    show evalQrewind c _ _ = _
    rw [evalQrewind, convOp_enabled (i := { op := .qrewind, f, x, u }) hen hf hx]
    simp only [hmark, if_true, hv]
    rfl
  rw [State.modCell, cell_carrying, carrying_setCell] at hev
  rw [← hv]
  obtain ⟨t, ht, hi⟩ := issue_cell (F := fun y : Cell => (y.setConv x.q { v with rd := v.mark }).count CR.Q_REWIND_CNT)
    h.toReady (fetched_long h _) plain_qrewind hev rfl (reg_count_other (s.cell c) _ (by decide)) (wf_count _ _ _
      h.canon)
  exact ⟨t, ht, hi⟩

/-- What QREL leaves of its conveyor. -/
theorem release_keeps (v : Conveyor) : v.release.f = v.rd ∧ v.release.rd = v.rd ∧ v.release.w = v.w ∧
    v.release.cfg = v.cfg ∧ v.release.markValid = v.markValid ∧ v.release.mark =
      if v.markValid = true ∧ (v.mark - v.f).toNat < (v.rd - v.f).toNat then v.rd else v.mark := by
  refine ⟨rfl, rfl, rfl, rfl, rfl, ?_⟩
  show (if v.markValid then if decide ((v.mark - v.f).toNat < (v.rd - v.f).toNat) then v.rd else v.mark else v.mark) = _
  cases v.markValid with
  | false => simp
  | true => simp

/-! ### Events -/

/-- A QPUSH that waited for room, to a conveyor in OC. -/
theorem execConveyorItemWrite_push {e : InFlight} {q : BitVec 4} (h : Holds c s e) (hop : e.ins.op = .qpush)
    (hq : e.ins.x.q = q) (hu : e.ins.u = {}) (hpen : e.ins.x.pen = false) (hf : sOnly e.ins.f {} = true)
    (hx : lOnly e.ins.x { a := true, q := true, ext := true } = true) (hext : e.ins.x.ext = 0)
    (hacc : s.convAccepts c q .push = true) (hin : ((s.cell c).conv q).inWin = false) :
    ∃ t, execConveyorItemWrite c q .push s = .next t ∧ (∀ d, d ≠ c → t.cell d = s.cell d) ∧
      (t.cell c).window = [] ∧ (t.cell c).npc = nextPc e.pc .qpush ∧
      ((t.cell c).conv q).w = ((s.cell c).conv q).w + 1 ∧
      (t.cell c).oc = ((s.cell c).ocWrite (((s.cell c).conv q).addr ((s.cell c).conv q).w)
        ((s.cell c).ocRead (64 * e.ins.x.oc_a.toNat) 64)).oc := by
  obtain ⟨y, hy⟩ : ∃ y, y = s.upsetCell c {} := ⟨_, rfl⟩
  have hidle : y = { (s.cell c).ocErrors {} with window := [metOc e] } := hy.trans (upsetCell_head h.only {})
  have hmet : s.ocUpset c e.ins.u = s.setCell c y := by
    rw [hu, hy, State.upsetCell, State.ocUpset, cell_modCell_self, State.modCell]
  have hcell : (s.setCell c y).cell c = y := cell_setCell_self _ _ _
  have hconv : y.conv q = (s.cell c).conv q := by rw [hidle]; rfl
  have hen : (y.conv q).en = true := by
    rw [hconv]
    unfold State.convAccepts at hacc
    simp only [Bool.and_eq_true] at hacc
    exact hacc.1.1.1
  have hacc' : (s.setCell c y).convAccepts c q .push = true := by
    rw [convAccepts_setCell q .push (by rw [hidle]; rfl) (by rw [hidle]; rfl) (by rw [hidle, h.only]; rfl)]
    exact hacc
  have hopen : decide (e.ins.x.ext = 1) = false := by rw [hext]; rfl
  have hev := evalQpush_accepts (c := c) (s := s) (e := e) hop hf hx (by rw [hext]; decide)
  rw [hmet, hcell, hq] at hev
  have hev := hev hen hacc'
  rw [hopen, convPush_open (by rw [hcell, hconv]; exact hin)] at hev
  obtain ⟨hz, hzreg, hzwf⟩ := endDoze_cell (s.setCell c y) c
  rw [hcell] at hz hzreg hzwf
  obtain ⟨z, hzdef⟩ : ∃ z, z = ((s.setCell c y).endDoze c).cell c := ⟨_, rfl⟩
  rw [← hzdef] at hz hzreg hzwf hev
  obtain ⟨w, hw⟩ : ∃ w, w = pushedCell z q .push (pushItem y e.ins.x) false := ⟨_, rfl⟩
  rw [← hw] at hev
  have hleaves : Leaves c s e (((s.setCell c y).endDoze c).setCell c w) (metOc e) := by
    refine ⟨?_, rfl, rfl, rfl, rfl, h.waited, ?_, ?_, ?_⟩
    · rw [cell_setCell_self, hw, pushedCell_frame, hz, hidle]
      rfl
    · rw [cell_setCell_self, hw, pushedCell_frame, hz, hidle]
      rfl
    · rw [cell_setCell_self, Cell.reg, hw, regs_pushedCell]
      refine (reg_count_other z _ (by decide)).trans ((hzreg _ (by decide)).trans ?_)
      rw [hidle]
      exact reg_ocErrors (s.cell c) {} (by decide)
    · rw [cell_setCell_self, hw, regs_pushedCell]
      apply wf_count
      apply hzwf
      rw [hidle]
      exact wf_ocErrors (s.cell c) {} h.canon
  obtain ⟨t, ⟨hcell', -, -, hother, -⟩, hpump⟩ := pump_done h (by rw [hop]; decide) (.inl (by rw [hop]; rfl)) hev
    hleaves
  rw [cell_setCell_self] at hcell'
  have hexec : execConveyorItemWrite c q .push s = .next t := by
    rw [hpen] at hpump
    have hhead : (s.cell c).head = some e := by rw [Cell.head, h.only]; rfl
    simp only [execConveyorItemWrite, hhead, hop, hq, decide_true, Bool.and_true, if_true]
    rw [hpump]
    split <;> rfl
  have hzconv : z.conv q = (s.cell c).conv q := by rw [hz, hidle]; rfl
  have hzoc (a : Nat) (bs : List Byte) : (z.ocWrite a bs).oc = ((s.cell c).ocWrite a bs).oc := by rw [hz, hidle]; rfl
  refine ⟨t, hexec, fun d hd => ?_, by rw [hcell'], by rw [hcell', hop]; rfl, ?_, ?_⟩
  · rw [hother d hd, cell_setCell_other _ _ hd, endDoze_other _ hd, cell_setCell_other _ _ hd]
  · have hqs : (t.cell c).qs = (z.setConv q (pushedConv (z.conv q) .push false)).qs := by
      rw [hcell', hw]
      exact qs_pushedCell
    have hnew : (t.cell c).conv q = pushedConv (z.conv q) .push false := by
      rw [Cell.conv, hqs]
      exact conv_setConv_self z _ _
    rw [hnew, hzconv]
    rfl
  · have hoc : (t.cell c).oc = w.oc := by rw [hcell']
    have hitem : plain (pushItem y e.ins.x) = (s.cell c).ocRead (64 * e.ins.x.oc_a.toNat) 64 := by
      rw [pushItem, plain_withPoison, hidle]
      rfl
    rw [hoc, hw, oc_pushedCell, hzconv, hin, if_neg (by simp), hitem, hzoc]

end

end Sys2Proof.Proofs
end

section
/-! Writes of Q_CFGn (O16). -/

namespace Sys2Proof.Proofs

open Sys2Proof Sys2Proof.Machine Sys2Proof.Laws

/-- The bits of Q_CFGn that software writes (R317). -/
def cfgMask : Nat := 0x1FFF9F013F00

theorem qCfg_place (q : BitVec 4) : CR.Q_CFG q.toNat < 0x10000 ∧ cellWidth (CR.Q_CFG q.toNat) = 64 ∧
    CR.Q_CFG q.toNat % 8 = 0 ∧ CR.Q_CFG q.toNat ≠ CR.SQ_CTRL ∧
    ∃ r, findReg cellRegMap (CR.Q_CFG q.toNat) = some r ∧ r.rw = cfgMask ∧ r.w1c = 0 ∧ r.w1s = 0 := by
  have h : ∀ k : Fin 16, CR.Q_CFG k.val < 0x10000 ∧ cellWidth (CR.Q_CFG k.val) = 64 ∧
      CR.Q_CFG k.val % 8 = 0 ∧ CR.Q_CFG k.val ≠ CR.SQ_CTRL ∧
      (findReg cellRegMap (CR.Q_CFG k.val)).any (fun r => r.rw == cfgMask && r.w1c == 0 && r.w1s == 0) = true := by
    decide
  obtain ⟨hoff, hwidth, halign, hctrl, hrow⟩ := h ⟨q.toNat, q.isLt⟩
  rw [Option.any_eq_true] at hrow
  obtain ⟨r, hr, hmasks⟩ := hrow
  simp only [Bool.and_eq_true, beq_iff_eq] at hmasks
  exact ⟨hoff, hwidth, halign, hctrl, r, hr, hmasks.1.1, hmasks.1.2, hmasks.2⟩

/-- What a write leaves of the bits that are not writable does not matter. -/
theorem writeCfg_masked (v : Conveyor) {r : RegInfo} (hrw : r.rw = cfgMask) (hc : r.w1c = 0) (hs : r.w1s = 0)
    (old w : Nat) : v.writeCfg (maskWrite r old w (lowHalf * 2 ^ 32 + lowHalf)) = v.writeCfg w := by
  have hmask : maskWrite r old w (lowHalf * 2 ^ 32 + lowHalf) &&& cfgMask = w &&& cfgMask := by
    refine Nat.eq_of_testBit_eq fun i => ?_
    rw [Nat.testBit_and, Nat.testBit_and, testBit_maskWrite_any, hrw, hc, hs,
      show lowHalf * 2 ^ 32 + lowHalf = 2 ^ 64 - 1 from rfl, Nat.testBit_two_pow_sub_one]
    cases hi : cfgMask.testBit i with
    | false => simp
    | true =>
      have hlt : i < 64 := by
        by_contra hge
        rw [Nat.testBit_lt_two_pow (Nat.lt_of_lt_of_le (show cfgMask < 2 ^ 64 by decide)
          (Nat.pow_le_pow_right (by decide) (Nat.le_of_not_lt hge)))] at hi
        cases hi
      simp [hlt]
  unfold Conveyor.writeCfg
  rw [show (0x1FFF9F013F00 : Nat) = cfgMask from rfl, hmask]

theorem writeCell_qCfg (s : State) (o : Origin) (c : CellId) (q : BitVec 4) (w : Nat) :
    s.writeCell o c (CR.Q_CFG q.toNat) w (lowHalf * 2 ^ 32 + lowHalf) =
      s.setCell c ((s.cell c).setConv q (((s.cell c).conv q).writeCfg w)) := by
  obtain ⟨-, -, -, -, r, hr, hrw, hc, hs⟩ := qCfg_place q
  have hq := q.isLt
  have hconv : BitVec.ofNat 4 ((CR.Q_CFG q.toNat - CR.Q_CFG 0) / 0x20) = q := by
    apply BitVec.eq_of_toNat_eq
    rw [BitVec.toNat_ofNat]
    simp only [CR.Q_CFG]
    omega
  unfold State.writeCell
  simp only [hr, hconv, writeCfg_masked _ hrw hc hs]
  simp only [CR.Q_CFG, CR.SQ_CTRL, CR.SQ_PC, CR.SQ_YIELD_LIMIT, CR.SQ_FAULT_CAUSE, CR.MX_SELFTEST, CR.SX_SHARE,
    CR.SX_D_STATUS]
  repeat rw [if_neg (by omega)]
  rw [if_pos (by omega), if_pos (by omega)]

/-- The bits that a write of Q_CFGn looks at (R317). -/
theorem bitB_and_cfgMask (w : Word) (i : Nat) (h : cfgMask.testBit i = true) : bitB (w.toNat &&& cfgMask) i =
    w.getLsbD i := by
  rw [bitB_eq_testBit, Nat.testBit_and, h, Bool.and_true]
  rfl

theorem bits_and_cfgMask (w : Word) (hi lo : Nat) (h : ∀ i < hi + 1 - lo, cfgMask.testBit (lo + i) = true) :
    bits (w.toNat &&& cfgMask) hi lo = (w.extractLsb' lo (hi + 1 - lo)).toNat := by
  rw [BitVec.extractLsb'_toNat]
  refine bits_congr fun i hlt => ?_
  rw [Nat.testBit_and, h i hlt, Bool.and_true]

/-- A write of an enabled conveyor. -/
theorem writeCfg_stays {v : Conveyor} {w : Word} (hen : v.en = true) (h31 : w.getLsbD 31 = true) : v.writeCfg
    w.toNat = v := by
  have h : bitB (w.toNat &&& cfgMask) 31 = true := (bitB_and_cfgMask w 31 (by decide)).trans h31
  unfold Conveyor.writeCfg
  rw [show (0x1FFF9F013F00 : Nat) = cfgMask from rfl]
  simp only [hen, h, if_true]

theorem writeCfg_clears {v : Conveyor} {w : Word} (hen : v.en = true) (h31 : w.getLsbD 31 = false) :
    v.writeCfg w.toNat = { cfg := v.cfg &&& ~~~(1#64 <<< 31) } := by
  have h : bitB (w.toNat &&& cfgMask) 31 = false := (bitB_and_cfgMask w 31 (by decide)).trans h31
  have hput : BitVec.ofNat 64 (putBits v.cfg.toNat 31 31 0) = v.cfg &&& ~~~(1#64 <<< 31) := by
    refine BitVec.eq_of_getLsbD_eq fun i hi => ?_
    rw [BitVec.getLsbD_ofNat, testBit_putBits, BitVec.getLsbD_and, BitVec.getLsbD_not, BitVec.getLsbD_shiftLeft]
    by_cases h31 : i = 31
    · simp [h31]
    · rw [if_neg (by omega)]
      have hzero : BitVec.getLsbD 1#64 (i - 31) = false ∨ i < 31 := by
        by_cases hlt : i < 31
        · exact .inr hlt
        · exact .inl (by simp only [BitVec.getLsbD_one]; simp; omega)
      rcases hzero with hz | hz <;> simp [hi, hz, BitVec.testBit_toNat]
  unfold Conveyor.writeCfg
  rw [show (0x1FFF9F013F00 : Nat) = cfgMask from rfl]
  simp only [hen, h, hput, if_true, Bool.false_eq_true, if_false]

/-- A write of one that is disabled, to storage in OC. -/
theorem writeCfg_disabled {v : Conveyor} {w : Word} (hen : v.en = false) (h28 : w.getLsbD 28 = false) :
    v.writeCfg w.toNat = if 64 < (w.extractLsb' 32 13).toNat + (w.extractLsb' 24 4).toNat + 1 then v
      else { v with cfg := w &&& 0x1FFF9F013F00 } := by
  have h : bitB (w.toNat &&& cfgMask) 28 = false := (bitB_and_cfgMask w 28 (by decide)).trans h28
  have hbase := bits_and_cfgMask w 44 32 (by decide)
  have hlen := bits_and_cfgMask w 27 24 (by decide)
  have hcfg : BitVec.ofNat 64 (w.toNat &&& cfgMask) = w &&& 0x1FFF9F013F00 := by
    apply BitVec.eq_of_toNat_eq
    rw [BitVec.toNat_ofNat, BitVec.toNat_and, Nat.mod_eq_of_lt (Nat.lt_of_le_of_lt Nat.and_le_left w.isLt)]
    rfl
  unfold Conveyor.writeCfg
  rw [show (0x1FFF9F013F00 : Nat) = cfgMask from rfl]
  simp only [hen, h, hbase, hlen, hcfg, Bool.not_false, Bool.true_and, Bool.false_and, Bool.or_false, decide_eq_true_eq,
    Bool.false_eq_true, if_false]

end Sys2Proof.Proofs
end

section
/-! Conveyors settled (O16). -/

namespace Sys2Proof.Proofs

open Sys2Proof Sys2Proof.Machine Sys2Proof.Laws

/-- Settles O16: QPUSH by `issue_qpush`, QPOP by `issue_qpop`, the events by `execConveyorItemWrite_push` and
`writeCell_qCfg`. -/
theorem conveyorsMoveItems : Obligations.ConveyorsMoveItems := by
  refine ⟨fun c s f x u h => ?_, fun c s q => ⟨fun e h hop hq hu hpen hf hx hext hnext hacc hin => ?_, fun o w
    hstill hreach => ?_⟩⟩
  · intro z y q v hen
    have hidle : y = z.ocErrors u := upsetCell_idle h.idle u
    have hconv : y.conv q = v := by rw [hidle]; rfl
    have hsem (j : BitVec 6) : y.sem j = z.sem j := by rw [hidle]; rfl
    have hcp : y.cp = z.cp := by rw [hidle]; rfl
    refine ⟨fun hf hx hext hacc hst => ?_, ?_, ?_, fun hf hx => ⟨_, rfl, issue_qcnt h hf hx hen⟩, fun hf hx =>
      ⟨⟨_, rfl, issue_qmark h hf hx hen⟩, fun hmark => ⟨_, rfl, issue_qrewind h hf hx hen hmark⟩, ?_⟩⟩
    · intro notice k d z1 hfits hin
      have hnotice : notices (y.conv q) (decide (x.ext = 1)) = true ↔ notice := by
        rw [hconv, notices, Bool.and_eq_true, decide_eq_true_eq]
      have hk : noticeSem (y.conv q) = k := by rw [hconv]; rfl
      have hplace : PushFits c s y x := by
        refine ⟨fun hw => ?_, fun hn => ?_⟩
        · rw [show y.conv x.q = v from hconv] at hw ⊢
          exact hin hw
        · rw [show noticeSem (y.conv x.q) = k from hk, hsem, hcp]
          exact hfits (hnotice.1 hn)
      have hput := issue_qpush h hf hx hext hen hacc hst (u := u) hplace
      rw [show s.upsetCell c u = y from rfl, show y.conv x.q = v from hconv] at hput
      obtain ⟨hoc, hpoison, -⟩ := noticed_keeps (y.conv q) (decide (x.ext = 1))
        (pushedCell y q .push (pushItem y x) (decide (x.ext = 1)))
      obtain ⟨hself, hothers⟩ := conv_afterPush y x
      have hpushed : (afterPush y x).conv q = pushedConv v .push (decide (x.ext = 1)) := by rw [← hconv]; exact hself
      refine ⟨_, afterPush y x, rfl, hput, ?_, fun j => ?_, ?_, ?_, fun j hj => ?_, ?_⟩
      · have hframe := afterPush_frame y x
        simp only [show y.conv x.q = y.conv q from rfl, hnotice] at hframe
        exact hframe
      · have hpost := sem_afterPush y x j
        simp only [show y.conv x.q = y.conv q from rfl, hnotice, hk, hsem] at hpost
        exact hpost
      · rw [← hconv]
        exact hoc.trans oc_pushedCell
      · rw [← hconv]
        exact hpoison.trans ocPoison_pushedCell
      · rw [hothers j hj, hidle]
        rfl
      · rw [hpushed]
        simp only [pushedConv, decide_eq_true_eq, and_self]
    · intro r y' hf hx hempty hin hbad hclean
      have hsame : itemRead r c v = r := if_neg (Bool.eq_false_iff.1 hin)
      have hcarry : (r.cell c).conv q = v := by
        obtain ⟨e, -, hcell⟩ := operandUpset_cell (i := { op := .qpop, f, x, u }) h.toReady plain_qpop u
        rw [show r.cell c = _ from hcell]
        rfl
      have hitem := convItem_here hcarry hin hbad
      have hstuck : s.convStuck c q v.rd = false := by
        rw [State.convStuck, show (s.cell c).conv q = v from rfl, hin]
        rfl
      have hpop := issue_qpop (u := u) h hf hx rfl hen hempty hstuck (fun hw => absurd hw (Bool.eq_false_iff.1 hin))
        (d := withPoison y'.ocPoison (v.addr v.rd) (y'.ocRead (v.addr v.rd) 64)) (by
          rw [show itemRead ((s.carrying c { op := .qpop, f, x, u }).operandUpset c u) c ((s.cell c).conv x.q) = r
            from hsame]
          exact hitem.symm) hclean
      rw [show itemRead ((s.carrying c { op := .qpop, f, x, u }).operandUpset c u) c ((s.cell c).conv x.q) = r
            from hsame, plain_withPoison] at hpop
      exact ⟨_, rfl, hpop⟩
    · intro r y' d hf hx hempty hin hstuck hbad hfit hclean
      have hread : itemRead ((s.carrying c { op := .qpop, f, x, u }).operandUpset c u) c v = r := if_pos hin
      have hcarry : (r.cell c).conv q = v := by
        obtain ⟨e, -, hcell⟩ := operandUpset_cell (i := { op := .qpop, f, x, u }) h.toReady plain_qpop u
        rw [← hread, cell_itemRead, hcell]
        rfl
      have hsize : r.winSize c = s.winSize c :=
        (winSize_countBypass _ c c _).trans (winSize_operandUpset _ c u c)
      have hitem := convItem_window hcarry hin hbad (by rw [hsize]; exact hfit)
      have hpop := issue_qpop (u := u) h hf hx rfl hen hempty hstuck (fun _ => hfit) (d := d) (by
          rw [show itemRead ((s.carrying c { op := .qpop, f, x, u }).operandUpset c u) c ((s.cell c).conv x.q) = r
            from hread]
          exact hitem.symm) hclean
      rw [show itemRead ((s.carrying c { op := .qpop, f, x, u }).operandUpset c u) c ((s.cell c).conv x.q) = r
            from hread] at hpop
      exact ⟨_, rfl, hpop⟩
    · obtain ⟨hf', hrd, hw, hcfg, hvalid, hmark⟩ := release_keeps v
      exact ⟨_, v.release, rfl, issue_qrel h hf hx hen, hf', hrd, hw, hcfg, hvalid, hmark⟩
  · exact execConveyorItemWrite_push h hop hq hu hpen hf hx hext hacc hin
  · obtain ⟨hoff, hwidth, halign, hctrl, -⟩ := qCfg_place q
    refine ⟨_, ((s.cell c).conv q).writeCfg w.toNat, ?_, rfl, writeCfg_stays, writeCfg_clears, fun hen h28 hfit => ?_,
      fun hen h28 hfit => ?_⟩
    · show execQCfgWrite o c q w s = _
      rw [execQCfgWrite, writeReg_cellDword hreach hoff hwidth halign hctrl, writeCell_qCfg, goOn_setCell hstill c]
      exact hstill.empty c
    · rw [writeCfg_disabled hen h28, if_neg (Nat.not_lt.2 hfit)]
    · rw [writeCfg_disabled hen h28, if_pos hfit]

end Sys2Proof.Proofs
end
section
/-! Micro-transfers, the semaphores of links, and what software writes to slots and shares (O18). -/

namespace Sys2Proof.Proofs

open Sys2Proof Sys2Proof.Machine Sys2Proof.Laws

theorem slot_setSlot_other (x : Cell) {j n : Fin 6} (t : Option Transfer) (h : j ≠ n) :
    (x.setSlot n t).slot j = x.slot j :=
  Vector.getElem_set_ne n.isLt j.isLt (fun hk => h (Fin.ext hk.symm))

/-! ### A granule copied from OC to OC -/

/-- A transfer that copies OC as it is: no conversion, no reduction, no pins, no post at the end of a chunk. -/
structure CopiesOc (t : Transfer) : Prop where
  src : t.f 59 57 = 0
  dst : t.f 123 121 = 0
  fmt : t.f 63 60 = t.f 127 124
  red : t.f 479 478 = 0
  pins : t.f 481 480 = 0
  full : t.fullEn = false

/-- The transfer after the granule at its position. -/
def Transfer.moved (t : Transfer) (g : Granule) : Transfer :=
  { t with
    row := (afterGranule t.desc.toNat t.row t.elt).1, elt := (afterGranule t.desc.toNat t.row t.elt).2, done :=
      t.done + 1
    read := false, ev := {}, sent := if g.last then 0 else t.sent, out := if g.last then [] else t.out
    chunkHeld := t.chunkHeld && !(g.last && t.chunkEnd t.row) }

section
variable {s : State} {c : CellId} {n : Fin 6} {t : Transfer} {g : Granule}

/-- Only the earlier contents of units are kept with the transfer. -/
theorem saveOld_keeps (s : State) (c : CellId) (t : Transfer) (a m : Nat) :
    ∃ old, s.saveOld c t a m = { t with old := old } := by
  unfold State.saveOld
  split
  · exact ⟨_, rfl⟩
  · exact ⟨t.old, rfl⟩

theorem sxConvert_same (x : Cell) (h : t.f 63 60 = t.f 127 124) (bs : List PByte) : sxConvert x t g bs = (bs, {}) := by
  unfold sxConvert
  rw [h]
  cases sxFmt (t.f 127 124) with
  | none => rfl
  | some f => simp

theorem pinSide_none (h : t.f 481 480 = 0) (dst : Bool) : s.pinSide c t g dst = (s, t) := by
  rw [State.pinSide, if_pos h]

theorem shareCnt_oc (h : t.f 123 121 = 0) : s.shareCnt c t g = CR.SX_RD_BYTES_CNT := by
  unfold State.shareCnt
  rw [h]
  rfl

theorem granuleDone_copies (h : CopiesOc t) (hev : t.ev = {}) :
    s.granuleDone c n t g = s.setCell c (((s.cell c).count CR.SX_RD_BYTES_CNT (g.n * streamSize (t.f 127
      124))).setSlot n
      (some (Transfer.moved t g))) := by
  have hne : t.f 123 121 ≠ 3 := by rw [h.dst]; decide
  have hsrc : t.f 59 57 ≠ 3 := by rw [h.src]; decide
  unfold State.granuleDone
  simp only [hev, noteNum_none, shareCnt_oc h.dst, State.releaseItems, if_pos hsrc, if_neg hne, pinSide_none h.pins,
    h.full,
    Bool.and_false, Bool.false_eq_true, if_false]
  rw [State.countC, State.modCell, State.modCell, cell_setCell_self, setCell_setCell]
  rfl

/-- The bytes that a granule moves, with the poison of their slots. -/
def granuleBytes (x : Cell) (t : Transfer) (g : Granule) : List PByte :=
  withPoison x.ocPoison g.sa (x.ocRead g.sa (g.n * streamSize (t.f 63 60)))

theorem sxGranule_copies (h : CopiesOc t) (hread : t.read = false) (hold : t.old = []) :
    ∃ old, s.sxGranule c n t = s.setCell c
      ((((s.cell c).ocPut (granuleAt t.desc.toNat t.row t.elt).da
          (granuleBytes (s.cell c) t (granuleAt t.desc.toNat t.row t.elt))).count CR.SX_RD_BYTES_CNT
        ((granuleAt t.desc.toNat t.row t.elt).n * streamSize (t.f 127 124))).setSlot n
      (some (Transfer.moved { t with old := old } (granuleAt t.desc.toNat t.row t.elt)))) := by
  generalize hg : granuleAt t.desc.toNat t.row t.elt = g
  have hcomputes : t.computes = false := by simp [Transfer.computes, h.fmt, h.red]
  have hbytes : s.sxRead c t g = .ok s (granuleBytes (s.cell c) t g) := by
    unfold State.sxRead
    rw [h.src]
    rfl
  have htrap : (s.cell c).trapped {} = 0 := Nat.zero_and _
  obtain ⟨t1, ht1⟩ : ∃ t1 : Transfer, t1 = { t with ev := {} } := ⟨_, rfl⟩
  obtain ⟨old, hsave⟩ := saveOld_keeps s c t1 g.da (granuleBytes (s.cell c) t g).length
  have hne : t1.f 123 121 ≠ 3 := by rw [ht1]; exact fun h3 => absurd (h.dst.symm.trans h3) (by decide)
  have hwrite : s.sxWrite c n t1 g (granuleBytes (s.cell c) t g) =
      .ok (s.modCell c (fun x => x.ocPut g.da (granuleBytes (s.cell c) t g))) { t1 with old := old } := by
    unfold State.sxWrite
    rw [show t1.f 123 121 = 0 by rw [ht1]; exact h.dst]
    exact congrArg _ hsave
  refine ⟨old, ?_⟩
  unfold State.sxGranule
  rw [hg, if_neg (by simp [hread]), hbytes]
  simp only [SxRes.settle, if_pos hold, hcomputes, sxConvert_same _ h.fmt, htrap, Bool.and_false, Bool.false_eq_true,
    if_false, ne_eq, not_true_eq_false]
  rw [← ht1, if_neg hne, hwrite]
  have hcopies : CopiesOc { t1 with old := old } := by
    rw [ht1]
    exact ⟨h.src, h.dst, h.fmt, h.red, h.pins, h.full⟩
  refine (granuleDone_copies hcopies (by rw [ht1])).trans ?_
  rw [cell_modCell_self, State.modCell, setCell_setCell, ht1]
  rfl

theorem memOnly_engineUpset_slot (s : State) (c : CellId) (u : Upset) :
    ((s.engineUpset c u).cell c).slots = (s.cell c).slots := by
  unfold State.engineUpset
  split
  · rfl
  · rw [cell_modCell_self, memOnly_cell (memOnly_memUpset (memOnly_refl _)) c]
    rfl

theorem microTransfer_granule (hslot : (s.cell c).slot n = some t) (hst : t.st = .running) (hfin : t.finished = false)
    (hempty : t.needsEmpty = false) (himp : t.implicit = false) (hheld : t.held = false ∨ s.floorBusy = false) :
    s.microTransfer c n = s.sxGranule c n t := by
  have hgo : (t.held && s.floorBusy) = false := by
    rcases hheld with hh | hh <;> simp [hh]
  unfold State.microTransfer
  simp only [hslot, hst, hfin, hempty, himp, hgo, ne_eq, not_true_eq_false, decide_false, Bool.or_self,
    Bool.false_eq_true,
    if_false]

/-! ### The empty semaphore of a link (R297) -/

/-- A link whose semaphore has neither a mark nor a line. -/
structure LinkWaits (x : Cell) (n : Fin 6) (t : Transfer) : Prop where
  slot : x.slot n = some t
  runs : t.st = .running
  needs : t.needsEmpty = true
  failed : (x.sem t.emptySem).failed = false
  ovf : (x.sem t.emptySem).ovf = false
  line : (x.sem t.emptySem).line = []

/-- The cell with the link in the line of its semaphore. -/
def linkJoined (x : Cell) (n : Fin 6) (t : Transfer) : Cell :=
  (x.setSem t.emptySem { x.sem t.emptySem with line := [.link n] }).setSlot n (some { t with st := .semWait })

theorem takeEmpty_joins (h : LinkWaits (s.cell c) n t) : s.takeEmpty c n =
    if 1 ≤ ((s.cell c).sem t.emptySem).count.toNat then
      (s.setCell c (linkJoined (s.cell c) n t)).modCell c (fun x => (x.serveSem t.emptySem).getD x)
    else (s.setCell c (linkJoined (s.cell c) n t)).stall c CR.SX_STALL_SEM_CNT := by
  have hmark : (((s.cell c).sem t.emptySem).failed || ((s.cell c).sem t.emptySem).ovf) = false := by
    rw [h.failed, h.ovf]
    rfl
  unfold State.takeEmpty
  simp only [h.slot, h.runs, h.needs, hmark, h.line, Bool.not_true, Bool.false_eq_true, if_false,
    List.nil_append, decide_true, Bool.true_and, decide_eq_true_eq]
  rfl

/-- With enough count the link takes 1 at once. -/
theorem serveSem_link (hcount : 1 ≤ ((s.cell c).sem t.emptySem).count.toNat)
    (hline : ((s.cell c).sem t.emptySem).line = []) :
    ((linkJoined (s.cell c) n t).serveSem t.emptySem).getD (linkJoined (s.cell c) n t) =
      (((linkJoined (s.cell c) n t).setSem t.emptySem { (s.cell c).sem t.emptySem with
        count := ((s.cell c).sem t.emptySem).count - 1 }).count CR.SEM_WAIT_CNT).setSlot n
        (some { t with st := .running, chunkHeld := true }) := by
  have hsem : (linkJoined (s.cell c) n t).sem t.emptySem = { (s.cell c).sem t.emptySem with line := [.link n] } :=
    sem_setSem_self _ _ _
  have hslot : (linkJoined (s.cell c) n t).slot n = some { t with st := .semWait } := slot_setSlot_self _ _ _
  unfold Cell.serveSem
  simp only [hsem, if_pos hcount]
  have hslot' (m : Sem) : (((linkJoined (s.cell c) n t).setSem t.emptySem m).count CR.SEM_WAIT_CNT).slot n =
      some { t with st := .semWait } := hslot
  simp only [hslot', Option.getD_some, hline]

/-! ### SX_Dn_CTRL and SX_SHARE (R299, R304) -/

theorem slotCtrl_place (n : Fin 6) : CR.SX_D_CTRL n.val < 0x10000 ∧ cellWidth (CR.SX_D_CTRL n.val) = 64 ∧
    CR.SX_D_CTRL n.val % 8 = 0 ∧ CR.SX_D_CTRL n.val ≠ CR.SQ_CTRL ∧
    (findReg cellRegMap (CR.SX_D_CTRL n.val)).isSome = true := by
  have h : ∀ n : Fin 6, CR.SX_D_CTRL n.val < 0x10000 ∧ cellWidth (CR.SX_D_CTRL n.val) = 64 ∧
      CR.SX_D_CTRL n.val % 8 = 0 ∧ CR.SX_D_CTRL n.val ≠ CR.SQ_CTRL ∧
      (findReg cellRegMap (CR.SX_D_CTRL n.val)).isSome = true := by decide
  exact h n

theorem writeCell_slotCtrl (s : State) (o : Origin) (c : CellId) (n : Fin 6) (v em : Nat) :
    s.writeCell o c (CR.SX_D_CTRL n.val) v em = s.slotCtrl c n (v &&& em) := by
  obtain ⟨r, hr⟩ := Option.isSome_iff_exists.1 (slotCtrl_place n).2.2.2.2
  have hn := n.isLt
  have hslot (h : (CR.SX_D_CTRL n.val - CR.SX_D_STATUS 0) / 0x40 % 6 < 6) :
      (⟨(CR.SX_D_CTRL n.val - CR.SX_D_STATUS 0) / 0x40 % 6, h⟩ : Fin 6) = n := by
    apply Fin.ext
    simp only [CR.SX_D_CTRL, CR.SX_D_STATUS]
    omega
  unfold State.writeCell
  simp only [hr, hslot]
  simp only [CR.SX_D_CTRL, CR.SQ_CTRL, CR.SQ_PC, CR.SQ_YIELD_LIMIT, CR.SQ_FAULT_CAUSE, CR.MX_SELFTEST, CR.SX_SHARE,
    CR.SX_D_STATUS]
  repeat rw [if_neg (by omega)]
  rw [if_pos (by omega), if_pos (by omega)]

/-- A failed transfer resumed in place. -/
def Transfer.resumed (t : Transfer) (held : Bool) : Transfer :=
  { t with st := .running, reason := 0, detail := 0, faultVa := 0, indBase := 0, indLen := 0, held }

theorem slotCtrl_resume (hslot : (s.cell c).slot n = some t) (hst : t.st = .failed) :
    s.slotCtrl c n 1 = s.setCell c ((s.cell c).setSlot n (some (Transfer.resumed t s.floorBusy))) := by
  unfold State.slotCtrl
  simp only [hslot, hst]
  rfl

theorem slotCtrl_abandon (hslot : (s.cell c).slot n = some t) (hst : t.st = .failed)
    (hdst : t.f 123 121 ≠ 3 ∨ t.implicit = true) :
    s.slotCtrl c n 2 = s.setCell c ((s.cell c).setSlot n none) := by
  have hnot : ¬ (decide (t.f 123 121 = 3) && !t.implicit) = true := by
    rcases hdst with h | h <;> simp [h]
  unfold State.slotCtrl State.orphan
  simp only [hslot, hst, if_neg hnot]
  rfl

/-- The row of SX_SHARE. -/
theorem share_row : (findReg cellRegMap CR.SX_SHARE).any (fun r => r.rw == 0xFFFFFF && r.w1c == 0 && r.w1s == 0) =
    true := by
  decide

theorem writeCell_share (s : State) (o : Origin) (c : CellId) (v : Half) :
    ∃ w, w % 2 ^ 24 = v.toNat % 2 ^ 24 ∧ s.writeCell o c CR.SX_SHARE v.toNat lowHalf =
      if v.toNat % 2 ^ 8 + v.toNat / 2 ^ 8 % 2 ^ 8 + v.toNat / 2 ^ 16 % 2 ^ 8 = 100 then
        s.setCell c ((s.cell c).setReg CR.SX_SHARE w)
      else s.setCell c ((s.cell c).setReg CR.SX_STATUS ((s.cell c).reg CR.SX_STATUS ||| 0x80)) := by
  have hrow := share_row
  rw [Option.any_eq_true] at hrow
  obtain ⟨r, hr, hmasks⟩ := hrow
  simp only [Bool.and_eq_true, beq_iff_eq] at hmasks
  obtain ⟨⟨hrw, hc⟩, hs⟩ := hmasks
  refine ⟨maskWrite r ((s.cell c).view CR.SX_SHARE) v.toNat lowHalf, ?_, ?_⟩
  · refine Nat.eq_of_testBit_eq fun i => ?_
    rw [Nat.testBit_mod_two_pow, Nat.testBit_mod_two_pow, testBit_maskWrite_any, hrw, hc, hs]
    by_cases hi : i < 24
    · have hmask : (0xFFFFFF : Nat).testBit i = true := by
        rw [show (0xFFFFFF : Nat) = 2 ^ 24 - 1 from rfl, Nat.testBit_two_pow_sub_one]
        simp [hi]
      simp [hi, hmask, testBit_lowHalf (show i < 32 by omega)]
    · simp [hi]
  · have hsum : bits v.toNat 7 0 + bits v.toNat 15 8 + bits v.toNat 23 16 =
        v.toNat % 2 ^ 8 + v.toNat / 2 ^ 8 % 2 ^ 8 + v.toNat / 2 ^ 16 % 2 ^ 8 := by
      simp only [bits, Nat.shiftRight_eq_div_pow]
      simp
    unfold State.writeCell
    simp only [hr, hsum]
    rfl

end

end Sys2Proof.Proofs
end

section
/-! Micro-transfers and slots settled (O18). -/

namespace Sys2Proof.Proofs

open Sys2Proof Sys2Proof.Machine Sys2Proof.Laws

section
variable {s : State} {c : CellId} {n : Fin 6} {t : Transfer} {o : Origin}

theorem execSxResume_failed (hstill : Still s) (hreach : Reaches o s (cellPa c (CR.SX_D_CTRL n.val)))
    (hslot : (s.cell c).slot n = some t) (hst : t.st = .failed) : execSxResume o c n s =
      .next (s.setCell c ((s.cell c).setSlot n (some (Transfer.resumed t s.floorBusy)))) := by
  obtain ⟨hoff, hwidth, halign, hctrl, -⟩ := slotCtrl_place n
  rw [execSxResume, writeReg_cellDword hreach hoff hwidth halign hctrl, writeCell_slotCtrl]
  rw [show 1 &&& (lowHalf * 2 ^ 32 + lowHalf) = 1 by decide, slotCtrl_resume hslot hst, goOn_setCell hstill c]
  exact hstill.empty c

theorem execSxAbandon_failed (hstill : Still s) (hreach : Reaches o s (cellPa c (CR.SX_D_CTRL n.val)))
    (hslot : (s.cell c).slot n = some t) (hst : t.st = .failed) (hdst : t.f 123 121 ≠ 3 ∨ t.implicit = true) :
    execSxAbandon o c n s = .next (s.setCell c ((s.cell c).setSlot n none)) := by
  obtain ⟨hoff, hwidth, halign, hctrl, -⟩ := slotCtrl_place n
  rw [execSxAbandon, writeReg_cellDword hreach hoff hwidth halign hctrl, writeCell_slotCtrl]
  rw [show 2 &&& (lowHalf * 2 ^ 32 + lowHalf) = 2 by decide, slotCtrl_abandon hslot hst hdst, goOn_setCell hstill c]
  exact hstill.empty c

theorem execSxShareWrite_sum (hstill : Still s) (hreach : Reaches o s (cellPa c CR.SX_SHARE)) (v : Half) :
    ∃ w, w % 2 ^ 24 = v.toNat % 2 ^ 24 ∧ execSxShareWrite o c v s =
      .next (if v.toNat % 2 ^ 8 + v.toNat / 2 ^ 8 % 2 ^ 8 + v.toNat / 2 ^ 16 % 2 ^ 8 = 100 then
        s.setCell c ((s.cell c).setReg CR.SX_SHARE w)
      else s.setCell c ((s.cell c).setReg CR.SX_STATUS ((s.cell c).reg CR.SX_STATUS ||| 0x80))) := by
  obtain ⟨w, hw, hwrite⟩ := writeCell_share s o c v
  refine ⟨w, hw, ?_⟩
  rw [execSxShareWrite, writeReg_cellWord hreach (by decide) (by decide) (by decide) v.isLt (fun _ h => absurd h
    (by decide)),
    hwrite]
  split
  · rw [goOn_setCell hstill c]
    exact hstill.empty c
  · rw [goOn_setCell hstill c]
    exact hstill.empty c

end

/-- Settles O18: the granule by `sxGranule_copies`, the link by `takeEmpty_joins`, the registers by what a write to each
does. -/
theorem microTransfersAndSlots : Obligations.MicroTransfersAndSlots := by
  refine ⟨fun c s0 n r u => ?_, fun c s n o v => ?_⟩
  · intro s x g k m hslot0
    have hslot : x.slot n = some r := by rw [Cell.slot, memOnly_engineUpset_slot]; exact hslot0
    refine ⟨fun hst hfin hempty himp hread hold hheld hsrc hdst hfmt hred hpins hfull => ?_,
      fun hst hneeds hfailed hovf hline => ?_⟩
    · obtain ⟨old, hgranule⟩ := sxGranule_copies (s := s) (c := c) (n := n) ⟨hsrc, hdst, hfmt, hred, hpins, hfull⟩
        hread hold
      have hmoves : s0.transfers c n = true := by
        rw [State.transfers, hslot0]
        simp [hst, hfin, hempty]
      have hexec : execMicroTransferDone c ⟨n, u⟩ s0 = .next (s.sxGranule c n r) := by
        rw [execMicroTransferDone, if_pos hmoves]
        exact congrArg Host.Outcome.next (microTransfer_granule hslot hst hfin hempty himp hheld)
      rw [hgranule] at hexec
      generalize hy : Cell.setSlot _ n (some (Transfer.moved { r with old := old } _)) = y at hexec
      have hcell : (s.setCell c y).cell c = y := cell_setCell_self s c y
      refine ⟨_, Transfer.moved { r with old := old } g, hexec, by rw [hcell], ?_, hst, rfl, rfl, ?_, ?_, fun j hj
        => ?_, ?_⟩
      · rw [hcell, ← hy]
        exact slot_setSlot_self _ _ _
      · exact (Prod.mk.eta (p := afterGranule r.desc.toNat r.row r.elt)).trans rfl
      · rw [hcell, ← hy]
        show (x.ocWrite g.da (plain (granuleBytes x r g))).oc = _
        rw [granuleBytes, plain_withPoison]
      · rw [hcell, ← hy, slot_setSlot_other _ _ hj]
        rfl
      · rw [hcell, ← hy]
        rfl
    · have hjoins := takeEmpty_joins ⟨hslot, hst, hneeds, hfailed, hovf, hline⟩
      have hother : ∀ d, d ≠ c → (s.takeEmpty c n).cell d = s.cell d := by
        intro d hd
        rw [hjoins]
        split
        · rw [cell_modCell_other _ _ hd, cell_setCell_other _ _ hd]
        · rw [State.stall, cell_draw, State.countC, cell_modCell_other _ _ hd, cell_setCell_other _ _ hd]
      refine ⟨_, rfl, hother, fun hcount => ?_, fun hcount => ?_⟩
      · rw [hjoins, if_pos hcount, cell_modCell_self, cell_setCell_self]
        rw [show linkJoined (s.cell c) n r = linkJoined x n r from rfl, serveSem_link hcount hline]
        exact ⟨sem_setSem_self (linkJoined x n r) _ _, slot_setSlot_self _ _ _⟩
      · have hnone : ¬ 1 ≤ (x.sem r.emptySem).count.toNat := by
          rw [show (x.sem r.emptySem).count = 0 from hcount]
          decide
        have hcell : ((s.takeEmpty c n).cell c) = (linkJoined x n r).count CR.SX_STALL_SEM_CNT (Config.stallCycles
          s.free) := by
          rw [hjoins, if_neg hnone]
          rw [State.stall, cell_draw, State.countC, cell_modCell_self, cell_setCell_self]
          rfl
        rw [hcell]
        exact ⟨sem_setSem_self x _ _, slot_setSlot_self _ _ _⟩
  · intro x at'
    refine ⟨fun r hslot hst ⟨hstill, hreach⟩ => ⟨⟨_, execSxResume_failed hstill hreach hslot hst, rfl⟩,
      fun hdst => ⟨_, execSxAbandon_failed hstill hreach hslot hst hdst, rfl⟩⟩,
      fun ⟨hstill, hreach⟩ => ?_, ⟨_, rfl, rfl⟩⟩
    obtain ⟨w, hw, hexec⟩ := execSxShareWrite_sum hstill hreach v
    refine ⟨fun hsum => ⟨_, w, hexec.trans (by rw [if_pos hsum]), rfl, hw⟩, fun hsum => ⟨_, hexec.trans
      (by rw [if_neg hsum]), rfl⟩⟩

end Sys2Proof.Proofs
end
section
/-! Element-wise instructions of the vector engine (O21, O22). -/

namespace Sys2Proof.Proofs

open Sys2Proof Sys2Proof.Machine Sys2Proof.Laws

/-! ### Fields -/

theorem bits_1_0 (x : Nat) : bits x 1 0 = x % 4 := rfl

theorem bits_3_2 (x : Nat) : bits x 3 2 = x / 4 % 4 := by
  unfold bits; rw [Nat.shiftRight_eq_div_pow]; rfl

theorem bits_5_4 (x : Nat) : bits x 5 4 = x / 16 % 4 := by
  unfold bits; rw [Nat.shiftRight_eq_div_pow]; rfl

theorem bits_9_8 (x : Nat) : bits x 9 8 = x / 2 ^ 8 % 4 := by
  unfold bits; rw [Nat.shiftRight_eq_div_pow]; rfl

theorem bits_11_0 (x : Nat) : bits x 11 0 = x % 2 ^ 12 := rfl

/-! ### Results and events of elements -/

/-- The result of an element-wise function for the operands p of one element. -/
def ewAt (w : Elementwise) (p : Nat × Nat × Nat) : Nat × Flags := w.fn p.1 p.2.1 p.2.2

theorem ewCompute_results (w : Elementwise) (l : List (Nat × Nat × Nat)) (j : Nat) :
    (ewCompute w l j).1 = l.map (fun p => (ewAt w p).1) := by
  induction l generalizing j with
  | nil => rfl
  | cons p l ih =>
    obtain ⟨a, b, k⟩ := p
    rw [List.map_cons, ← ih (j + 1)]
    rfl

/-- The flags of a list of elements are those that any of them raises (R67). -/
theorem foldl_flags_ewCompute (w : Elementwise) (l : List (Nat × Nat × Nat)) (j : Nat) (g : Flags) :
    l.foldl (fun g p => g.or (ewAt w p).2) g = g.or (ewCompute w l j).2.counts.flags := by
  induction l generalizing j g with
  | nil =>
    obtain ⟨a, b, c, d, e⟩ := g
    simp [ewCompute, FlagCounts.flags, Flags.or]
  | cons p l ih =>
    obtain ⟨a, b, k⟩ := p
    rw [List.foldl_cons, ih (j + 1)]
    simp only [ewCompute, flags_add]
    rw [flags_or_assoc, flags_or_comm (ewAt w (a, b, k)).2]
    rfl

theorem flags_ewCompute (w : Elementwise) (l : List (Nat × Nat × Nat)) :
    (ewCompute w l 0).2.counts.flags = l.foldl (fun g p => g.or (ewAt w p).2) Flags.none :=
  ((foldl_flags_ewCompute w l 0 Flags.none).trans (flags_none_or _)).symm

/-! ### Evaluation and commit -/

theorem vsource_atWork (s : State) (c : CellId) (i : Ins) (y : Cell) (kind slot : Nat) (acc : BitVec 3) (reg : BitVec 5)
    (f : Fmt) (rows n : Nat) :
    (atWork s c i y).vsource kind slot acc reg f rows n = y.vsource kind slot acc reg f rows n := rfl

section
variable {c : CellId} {s : State} {i : Ins} {w : Elementwise} {a b k : VSrc} {d : OcRegion}

/-- The read of an operand that an instruction may not have. -/
theorem optional_read {α : Type} {p : Bool} {m : Except FaultInfo VSrc} {v z : VSrc} (K : VSrc → Except FaultInfo α)
    (h : if p then m = .ok v else v = z) : (if p = true then m >>= K else Except.ok z >>= K) = K v := by
  cases p with
  | false => exact congrArg K (show z = v from h.symm)
  | true => exact congrArg (· >>= K) h

/-- What an element-wise instruction makes of its operands. -/
def ewDone (w : Elementwise) (n : Nat) (a b k : VSrc) (d : OcRegion) : VDone :=
  let r := ewCompute w (zipOps (a.rows.headD []) (b.rows.headD []) (k.rows.headD []) n) 0
  { writes := [(d.off, r.1.flatMap (leBytes w.fd.esize))], dests := [d], ev := r.2, counts := [(w.counter, ceilDiv n w.rate)] }

/-- The operands of an element-wise instruction as cell y reads them, and its destination (R203). -/
structure EwOperands (w : Elementwise) (f : SForm) (x : LForm) (y : Cell) (a b k : VSrc) (d : OcRegion) : Prop where
  srcA : y.vsource (x.ext.toNat % 4) x.oc_a.toNat x.acc f.ra w.fa 1 (f.imm32.toNat / 2 ^ 12 % 2 ^ 16 + 1) = .ok a
  srcB : if w.useB then y.vsource (x.ext.toNat / 4 % 4) x.oc_b.toNat 0 f.rb w.fb 1 (f.imm32.toNat / 2 ^ 12 % 2 ^ 16
    + 1) =
    .ok b else b = ⟨[], []⟩
  srcC : if w.useC then y.vsource (x.ext.toNat / 16 % 4) x.oc_c.toNat 0 f.rd w.fc 1 (f.imm32.toNat / 2 ^ 12 % 2 ^ 16
    + 1) =
    .ok k else k = ⟨[], []⟩
  dest : ocDest (f.imm32.toNat % 2 ^ 12) ((f.imm32.toNat / 2 ^ 12 % 2 ^ 16 + 1) * w.fd.esize)
    (f.imm32.toNat / 2 ^ 12 % 2 ^ 16 + 1) w.fd.esize = .ok d

theorem runEw_done (h : ReadyLong c s) (hop : Op.plain i.op) (ho : EwOperands w i.f i.x (s.upsetCell c i.u) a b k d) :
    runEw (s.carrying c i) c ((s.cell c).entry i) w =
      finishVx (s.setCell c (atWork s c i (s.upsetCell c i.u))) c ((s.cell c).entry i) (a.reg ++ b.reg ++ k.reg)
        (ewDone w (i.f.imm32.toNat / 2 ^ 12 % 2 ^ 16 + 1) a b k d) := by
  obtain ⟨ha, hb, hk, hd⟩ := ho
  have hup : (s.carrying c i).ocUpset c i.u = s.setCell c (atWork s c i (s.upsetCell c i.u)) :=
    ocUpset_carrying h.toReady i hop
  unfold runEw
  simp only [entry_ins, hup, cell_setCell_self, vsource_atWork, bits_1_0, bits_3_2, bits_5_4, bits_11_0, bits_27_12,
    ha, hd]
  show orFault _ (if w.useB = true then _ else _) _ = _
  rw [optional_read _ hb, optional_read _ hk]
  rfl

theorem flags_ewDone (w : Elementwise) (n : Nat) (a b k : VSrc) (d : OcRegion) :
    (ewDone w n a b k d).ev.counts.flags = (List.range n).foldl (fun (g : Flags) j =>
      g.or (w.fn ((a.rows.headD []).getD j 0) ((b.rows.headD []).getD j 0) ((k.rows.headD []).getD j 0)).2)
        Flags.none := by
  show (ewCompute w (zipOps _ _ _ n) 0).2.counts.flags = _
  rw [flags_ewCompute, zipOps, List.foldl_map]
  rfl

theorem writes_ewDone (w : Elementwise) (n : Nat) (a b k : VSrc) (d : OcRegion) : (ewDone w n a b k d).writes =
    [(d.off, (List.range n).flatMap (fun j => leBytes w.fd.esize
      (w.fn ((a.rows.headD []).getD j 0) ((b.rows.headD []).getD j 0) ((k.rows.headD []).getD j 0)).1))] := by
  show [(d.off, (ewCompute w (zipOps _ _ _ n) 0).1.flatMap _)] = _
  rw [ewCompute_results, zipOps, List.map_map, List.flatMap_map]
  rfl

/-- An element-wise instruction whose evaluation is that of w does what w says. -/
theorem holds_of_runEw {op : Op} {f : SForm} {x : LForm} {u : Upset} {I : Instr} (h : ReadyLong c s)
    (hexec : exec I s = .next (s.issue c { op, f, x, u })) (hop : Op.plain op) (hlong : op.long = true)
    (hcounter : w.counter ∈ [CR.VX_BUSY_CNT, CR.FU_BUSY_CNT])
    (hev : evalOp c ((s.cell c).entry { op, f, x, u }) (s.carrying c { op, f, x, u }) =
      runEw (s.carrying c { op, f, x, u }) c ((s.cell c).entry { op, f, x, u }) w) :
    w.Holds op I c s f x u := by
  unfold Elementwise.Holds
  intro y n slot kind a b k d ha hb hk hd hover r fl htrap
  have hkind0 : kind 0 = x.ext.toNat % 4 := by simp [kind]
  have hkind1 : kind 1 = x.ext.toNat / 4 % 4 := by simp [kind]
  have hkind2 : kind 2 = x.ext.toNat / 16 % 4 := by simp [kind]
  rw [hkind0] at ha
  rw [hkind1] at hb
  rw [hkind2] at hk
  rw [runEw_done (i := { op, f, x, u }) h hop ⟨ha, hb, hk, hd⟩] at hev
  have hfl : (ewDone w n a b k d).ev.counts.flags.toNat = fl := congrArg Flags.toNat (flags_ewDone w n a b k d)
  have hwrites := writes_ewDone w n a b k d
  have hregs : CR.NUM_STATUS ∉ [w.counter] ∧ CR.SQ_CTRL ∉ [w.counter] := by
    simp only [List.mem_cons, List.not_mem_nil, or_false] at hcounter
    rcases hcounter with hc | hc <;> rw [hc] <;> decide
  have hdone := issue_finishVx (d := ewDone w n a b k d) h hop hlong hev rfl hover (by rw [hfl]; exact htrap)
    (by rw [hwrites]; exact List.pairwise_singleton _ _) rfl hregs.1 hregs.2
  rw [hfl, hwrites, ocDest_ok hd] at hdone
  exact ⟨_, _, hexec, hdone, ocPuts_frame _ _, rfl⟩

end

/-! ### The instructions (R124) -/

section
variable {c : CellId} {s : State} {f : SForm} {x : LForm} {u : Upset} {fm : Fmt}

/-- An element-wise instruction in one format. -/
theorem evalEw_runs {e : InFlight} {useB useC : Bool} (fn : Fmt → Nat → Nat → Nat → Nat × Flags) (hwide : e.ins.wide
    = false)
    (hfmt : vfmt false (e.ins.x.ext.toNat / 2 ^ 8 % 4) = some fm)
    (hok : ewOk e.ins.f e.ins.x false useB useC false fm = true) :
    evalEw useB useC fn c e s = runEw s c e
      { useB, useC, fa := fm, fb := fm, fc := fm, fd := fm, fn := fn fm, rate := if fm = .fp32 then 64 else 128 } := by
  unfold evalEw
  rw [hwide, bits_9_8, hfmt]
  simp only [hok, Bool.not_true, Bool.false_eq_true, if_false]
  rfl

theorem holds_of_evalEw {op : Op} {I : Instr} {useB useC : Bool} {fn : Fmt → Nat → Nat → Nat → Nat × Flags}
    (h : ReadyLong c s) (hexec : exec I s = .next (s.issue c { op, f, x, u })) (hop : Op.plain op) (hlong : op.long
      = true)
    (hev : ∀ (e : InFlight) (t : State), e.ins.op = op → evalOp c e t = evalEw useB useC fn c e t)
    (hfmt : vfmt false (x.ext.toNat / 2 ^ 8 % 4) = some fm) (hok : ewOk f x false useB useC false fm = true) :
    Elementwise.Holds { useB, useC, fa := fm, fb := fm, fc := fm, fd := fm, fn := fn fm
                        rate := if fm = .fp32 then 64 else 128 } op I c s f x u :=
  holds_of_runEw h hexec hop hlong (by simp) ((hev _ _ rfl).trans (evalEw_runs fn rfl hfmt hok))

end

/-- Settles O21: each instruction of the table by `holds_of_evalEw`. -/
theorem elementwiseArithmetic : Obligations.ElementwiseArithmetic := by
  intro e he c s f x u fm h hfmt hok
  simp only [ewTable, List.mem_cons, List.not_mem_nil, or_false] at he
  rcases he with rfl | rfl | rfl | rfl | rfl | rfl | rfl | rfl | rfl <;>
    exact holds_of_evalEw h rfl (by simp [Op.plain]) rfl (fun e t he => by rw [evalOp, he]; rfl) hfmt hok

end Sys2Proof.Proofs
end
section
/-! VFMAW, VCVT and the functions of the function unit (O22). -/

namespace Sys2Proof.Proofs

open Sys2Proof Sys2Proof.Machine Sys2Proof.Laws

section
variable {c : CellId} {s : State} {f : SForm} {x : LForm} {u : Upset} {fm fd : Fmt}

theorem bits_6_4_func (v : BitVec 7) : bits v.toNat 6 4 = v.toNat / 16 := by
  have := v.isLt
  unfold bits
  rw [Nat.shiftRight_eq_div_pow]
  omega

theorem bits_2_0 (v : Nat) : bits v 2 0 = v % 8 := rfl

/-- No format of R203 is FP64. -/
theorem vfmt_narrow {n : Nat} (h : vfmt false n = some fm) : fm ≠ .fp64 := by
  unfold vfmt at h
  split at h <;> simp_all <;> subst h <;> decide

theorem evalVfmaw_runs {e : InFlight} (hwide : e.ins.wide = false)
    (hfmt : vfmt false (e.ins.x.ext.toNat / 2 ^ 8 % 4) = some fm) (hshort : fm ≠ .fp32)
    (hok : ewOk e.ins.f e.ins.x false true true false fm = true) : evalVfmaw c e s = runEw s c e
      { useB := true, useC := true, fa := fm, fb := fm, fc := .fp32, fd := .fp32, fn := fFmaw fm, rate := 64 } := by
  unfold evalVfmaw
  rw [hwide, bits_9_8, hfmt]
  simp only [hok, hshort, vfmt_narrow hfmt, Bool.not_true, decide_false, Bool.or_self, Bool.false_eq_true, if_false]

theorem evalFu_runs {e : InFlight} (fn : FuFn) (hwide : e.ins.wide = false)
    (hfmt : vfmt false (e.ins.x.ext.toNat / 2 ^ 8 % 4) = some fm)
    (hok : ewOk e.ins.f e.ins.x false false false false fm = true) : evalFu fn c e s = runEw s c e
      { fa := fm, fb := fm, fc := fm, fd := fm, fn := fun a _ _ => fuElem fn fm a, cause := 3, rate := 32
        counter := CR.FU_BUSY_CNT } := by
  unfold evalFu
  rw [hwide, bits_9_8, hfmt]
  simp only [hok, Bool.not_true, Bool.false_eq_true, if_false]

/-- The formats of VCVT by their codes (R205). -/
def cvtFmts : List (Nat × Fmt) := [(0, .fp32), (1, .bf16), (2, .fp16), (3, .e4m3), (4, .e5m2)]

theorem cvtFmts_lookup {k : Nat} {fmt : Fmt} (h : cvtFmts.lookup k = some fmt) :
    (k = 0 ∧ fmt = .fp32) ∨ (k = 1 ∧ fmt = .bf16) ∨ (k = 2 ∧ fmt = .fp16) ∨ (k = 3 ∧ fmt = .e4m3) ∨
      (k = 4 ∧ fmt = .e5m2) := by
  by_cases hk : k < 5
  · interval_cases k <;> simp_all [cvtFmts, List.lookup]
  · have hnone : cvtFmts.lookup k = none := by
      rw [List.lookup_eq_none_iff]
      intro p hp
      fin_cases hp <;> simp <;> omega
    rw [hnone] at h
    cases h

/-- The mode of a conversion: saturating to FP8 but where func[3] says otherwise (R52). -/
def cvtMode (fd : Fmt) (ieee : Bool) : OvfMode := if !fd.fp8 || ieee then OvfMode.ieee else .sat

theorem evalVcvt_runs {e : InFlight} (hsrc : cvtFmts.lookup (e.ins.f.func.toNat / 16) = some fm) (hdst :
    cvtFmts.lookup (e.ins.f.func.toNat % 8) = some fd)
    (hne : fm ≠ fd) (hext : e.ins.x.ext.toNat / 2 ^ 8 = 0) (hok : ewOk e.ins.f e.ins.x true false false false fm = true)
    (hmode : e.ins.f.func.getLsbD 3 = true → fd.fp8 = true) : evalVcvt c e s = runEw s c e
      { fa := fm, fb := fm, fc := fm, fd, fn := fun a _ _ => fConvert fm fd (cvtMode fd (e.ins.f.func.getLsbD 3)) a, cause := 4
        rate := if fm = .fp32 ∨ fd = .fp32 then 64 else 128 } := by
  unfold evalVcvt
  extract_lets sf sx func decFmt
  have hdec {k : Nat} {fmt : Fmt} (h : cvtFmts.lookup k = some fmt) : decFmt k = some fmt := by
    obtain hk | hk | hk | hk | hk := cvtFmts_lookup h <;> obtain ⟨rfl, rfl⟩ := hk <;> rfl
  have hbit : bitB func 3 = e.ins.f.func.getLsbD 3 := bitB_eq_testBit _ _
  have hsat : (e.ins.f.func.getLsbD 3 && !fd.fp8) = false := by
    cases hb : e.ins.f.func.getLsbD 3 with
    | false => rfl
    | true => rw [hmode hb]; rfl
  have hext' : bits e.ins.x.ext.toNat 9 8 = 0 := by rw [bits_9_8, hext]
  rw [show bits func 6 4 = e.ins.f.func.toNat / 16 from bits_6_4_func _, bits_2_0, hdec hsrc, hdec hdst]
  simp only [hsat, hext', show sf = e.ins.f from rfl, show sx = e.ins.x from rfl, hok, hne, hbit, cvtMode, ne_eq,
    not_true_eq_false, Bool.not_true, decide_false, Bool.or_self, Bool.false_eq_true, if_false, Bool.or_eq_true,
    decide_eq_true_eq]

end

end Sys2Proof.Proofs
end

section
/-! VFMAW, VCVT and the functions settled (O22). -/

namespace Sys2Proof.Proofs

open Sys2Proof Sys2Proof.Machine Sys2Proof.Laws

/-- Settles O22: each instruction runs as `holds_of_runEw` has it. -/
theorem wideAndFunctionInstructions : Obligations.WideAndFunctionInstructions := by
  intro c s f x u fm fd h
  refine ⟨fun hfmt => ⟨fun hshort hok => ?_, fun hok e he => ?_⟩,
    fun k l hk hl hsrc hdst hne hext hieee hfp8 hok => ?_, fun k l hk hl hsrc hdst hne hext hsat hok => ?_⟩
  · exact holds_of_runEw h rfl (by simp [Op.plain]) rfl (by simp) (evalVfmaw_runs rfl hfmt hshort hok)
  · simp only [List.mem_cons, List.not_mem_nil, or_false] at he
    rcases he with rfl | rfl | rfl | rfl <;>
      exact holds_of_runEw h rfl (by simp [Op.plain]) rfl (by simp) (evalFu_runs _ rfl hfmt hok)
  · subst hsrc hdst
    have hmode : fd.fp8 = true := by rcases hfp8 with rfl | rfl <;> rfl
    have hruns := holds_of_runEw (I := .vcvt c f x u) h rfl (by simp [Op.plain]) rfl (by simp)
      (evalVcvt_runs (s := s.carrying c { op := .vcvt, f, x, u }) (c := c) (e := (s.cell c).entry
        { op := .vcvt, f, x, u }) hk
        hl hne hext hok (fun _ => hmode))
    simp only [entry_ins, cvtMode, hieee, Bool.or_true, if_true] at hruns
    exact hruns
  · subst hsrc hdst
    have hruns := holds_of_runEw (I := .vcvt c f x u) h rfl (by simp [Op.plain]) rfl (by simp)
      (evalVcvt_runs (s := s.carrying c { op := .vcvt, f, x, u }) (c := c) (e := (s.cell c).entry
        { op := .vcvt, f, x, u }) hk
        hl hne hext hok (fun hb => absurd (hsat.symm.trans hb) (by decide)))
    have hmode : cvtMode fd (f.func.getLsbD 3) = if fd = .e4m3 ∨ fd = .e5m2 then .sat else .ieee := by
      rw [hsat]
      cases fd <;> rfl
    simp only [entry_ins, hmode] at hruns
    exact hruns

end Sys2Proof.Proofs
end
section
/-! VCMP and VSEL (O23). -/

namespace Sys2Proof.Proofs

open Sys2Proof Sys2Proof.Machine Sys2Proof.Laws

/-! ### Bits of a mask -/

/-- The mask whose bits below n are those of t, and whose bits from n on are those of old. -/
def maskOver (t : Nat → Bool) (old n : Nat) : Nat :=
  (List.range n).foldl (fun m j => m + b2n (t j) * 2 ^ j) (old / 2 ^ n * 2 ^ n)

/-- The number whose bits below n are those of t. -/
def lowBits (t : Nat → Bool) : Nat → Nat
  | 0 => 0
  | n + 1 => lowBits t n + b2n (t n) * 2 ^ n

theorem b2n_le (b : Bool) : b2n b ≤ 1 := by cases b <;> decide

theorem lowBits_lt (t : Nat → Bool) (n : Nat) : lowBits t n < 2 ^ n := by
  induction n with
  | zero => exact Nat.one_pos
  | succ n ih =>
    have hle : b2n (t n) * 2 ^ n ≤ 1 * 2 ^ n := Nat.mul_le_mul_right _ (b2n_le _)
    rw [lowBits, Nat.pow_succ]
    omega

theorem testBit_b2n (b : Bool) (i : Nat) : (b2n b).testBit i = (decide (i = 0) && b) := by
  cases b with
  | false => simp [b2n]
  | true => cases i <;> simp [b2n, Nat.testBit_succ]

theorem testBit_lowBits (t : Nat → Bool) (n i : Nat) : (lowBits t n).testBit i = (decide (i < n) && t i) := by
  induction n with
  | zero => simp [lowBits]
  | succ n ih =>
    rw [lowBits, Nat.add_comm, Nat.mul_comm, Nat.testBit_two_pow_mul_add _ (lowBits_lt t n), ih, testBit_b2n]
    by_cases hi : i < n
    · simp [hi, Nat.lt_succ_of_lt hi]
    · by_cases he : i = n
      · simp [he]
      · simp [hi, show ¬ i < n + 1 by omega, show i - n ≠ 0 by omega]

theorem maskOver_eq (t : Nat → Bool) (old n : Nat) : maskOver t old n = old / 2 ^ n * 2 ^ n + lowBits t n := by
  have hfold (a k : Nat) : (List.range k).foldl (fun m j => m + b2n (t j) * 2 ^ j) a = a + lowBits t k := by
    induction k with
    | zero => rfl
    | succ k ih => rw [List.range_succ, List.foldl_append, ih, lowBits, ← Nat.add_assoc]; rfl
  exact hfold _ n

theorem testBit_maskOver (t : Nat → Bool) (old n i : Nat) :
    (maskOver t old n).testBit i = if i < n then t i else old.testBit i := by
  rw [maskOver_eq, Nat.mul_comm, Nat.testBit_two_pow_mul_add _ (lowBits_lt t n), testBit_lowBits]
  by_cases hi : i < n
  · simp [hi]
  · rw [if_neg hi, if_neg hi, Nat.testBit_div_two_pow, Nat.sub_add_cancel (Nat.le_of_not_lt hi)]

/-! ### VCMP -/

theorem ceilDiv_8 (n : Nat) : ceilDiv n 8 = (n + 7) / 8 := rfl

/-- A destination that lies in OC from a slot aligned to four (R122). -/
theorem ocDest_fits {slot bytes elems es : Nat} (halign : slot % 4 = 0) (hfit : 64 * slot + bytes ≤ 0x40000) :
    ocDest slot bytes elems es = .ok ⟨64 * slot, bytes, elems, es⟩ := by
  unfold ocDest
  rw [if_neg (by simp [halign]; omega)]

/-- What VCMP and VSEL leave: one write, and no event. -/
def maskDone (off bytes n es : Nat) (bs : List Byte) (f : Fmt) : VDone :=
  { writes := [(off, bs)], dests := [⟨off, bytes, n, es⟩], counts := [(CR.VX_BUSY_CNT, ceilDiv n (vxRate f))] }

section
variable {c : CellId} {s : State} {i : Ins} {srcs : List OcRegion}

/-- An instruction whose evaluation comes to one write without an event. -/
theorem issue_maskDone {off bytes n es : Nat} {bs : List Byte} {fm : Fmt} (h : ReadyLong c s) (hop : Op.plain i.op)
    (hlong : i.op.long = true) (hwide : i.wide = false)
    (hev : evalOp c ((s.cell c).entry i) (s.carrying c i) = finishVx (s.setCell c (atWork s c i (s.upsetCell c i.u))) c
      ((s.cell c).entry i) srcs (maskDone off bytes n es bs fm))
    (hover : badOverlap [⟨off, bytes, n, es⟩] srcs = none) :
    TensorDone [CR.VX_BUSY_CNT, CR.OC_PORT_WAIT_CNT] 0 c s ((s.upsetCell c i.u).ocWrite off bs)
      (nextPc (s.cell c).npc i.op) i.x (s.issue c i) :=
  issue_finishVx h hop hlong hev hwide hover (Nat.zero_and _) (List.pairwise_singleton _ _) rfl (by simp [maskDone])
    (by simp [maskDone])

theorem evalVcmp_mask {f : SForm} {x : LForm} {u : Upset} {fm : Fmt} {a b : VSrc} (h : ReadyLong c s)
    (hfmt : vfmt false (x.ext.toNat / 2 ^ 8 % 4) = some fm) (hok : ewOk f x true true false false fm = true)
    (hfunc : f.func.toNat < 7)
    (ha : (s.upsetCell c u).vsource (x.ext.toNat % 4) x.oc_a.toNat x.acc f.ra fm 1 (f.imm32.toNat / 2 ^ 12 % 2 ^ 16
      + 1) = .ok a)
    (hb : (s.upsetCell c u).vsource (x.ext.toNat / 4 % 4) x.oc_b.toNat 0 f.rb fm 1 (f.imm32.toNat / 2 ^ 12 % 2 ^ 16
      + 1) = .ok b)
    (halign : f.imm32.toNat % 2 ^ 12 % 4 = 0)
    (hfit : 64 * (f.imm32.toNat % 2 ^ 12) + (f.imm32.toNat / 2 ^ 12 % 2 ^ 16 + 1 + 7) / 8 ≤ 0x40000) :
    let i : Ins := { op := .vcmp, f, x, u }
    let n := f.imm32.toNat / 2 ^ 12 % 2 ^ 16 + 1
    let slot := f.imm32.toNat % 2 ^ 12
    evalOp c ((s.cell c).entry i) (s.carrying c i) =
      finishVx (s.setCell c (atWork s c i (s.upsetCell c u))) c ((s.cell c).entry i) (a.reg ++ b.reg)
        (maskDone (64 * slot) ((n + 7) / 8) n 0 (leBytes ((n + 7) / 8) (maskOver (fun j =>
          fCmp fm f.func.toNat ((a.rows.headD []).getD j 0) ((b.rows.headD []).getD j 0))
          (leNat ((s.upsetCell c u).ocRead (64 * slot) ((n + 7) / 8))) n)) fm) := by
  intro i n slot
  have hup : (s.carrying c i).ocUpset c u = s.setCell c (atWork s c i (s.upsetCell c u)) :=
    ocUpset_carrying (i := i) h.toReady (by simp [Op.plain, i])
  show evalVcmp c _ _ = _
  unfold evalVcmp
  simp only [entry_ins, i, bits_9_8, hfmt, hok, Nat.not_le.2 hfunc, hup, cell_setCell_self, vsource_atWork,
    bits_1_0, bits_3_2,
    bits_27_12, bits_11_0, ha, hb, ceilDiv_8, ocDest_fits halign hfit, Bool.not_true, decide_false, Bool.or_self,
    Bool.false_eq_true, if_false]
  rfl

/-! ### VSEL -/

theorem bitMask_ok {y : Cell} {slot n : Nat} (hfit : 64 * slot + (n + 7) / 8 ≤ 0x40000)
    (hgood : y.ocBad (64 * slot) ((n + 7) / 8) = false) : y.bitMask slot n =
      .ok ((List.range n).map (bitB (leNat (y.ocRead (64 * slot) ((n + 7) / 8)))), ⟨64 * slot, (n + 7) / 8, n, 0⟩) := by
  unfold Cell.bitMask
  simp only [ceilDiv_8, if_neg (Nat.not_lt.2 hfit), hgood, Bool.false_eq_true, if_false]

theorem bitMask_atWork (s : State) (c : CellId) (i : Ins) (y : Cell) (slot n : Nat) :
    (atWork s c i y).bitMask slot n = y.bitMask slot n := rfl

theorem evalVsel_elements {f : SForm} {x : LForm} {u : Upset} {fm : Fmt} {a b : VSrc} (h : ReadyLong c s)
    (hfmt : vfmt false (x.ext.toNat / 2 ^ 8 % 4) = some fm) (hok : ewOk f x false true true true fm = true)
    (ha : (s.upsetCell c u).vsource (x.ext.toNat % 4) x.oc_a.toNat x.acc f.ra fm 1 (f.imm32.toNat / 2 ^ 12 % 2 ^ 16
      + 1) = .ok a)
    (hb : (s.upsetCell c u).vsource (x.ext.toNat / 4 % 4) x.oc_b.toNat 0 f.rb fm 1 (f.imm32.toNat / 2 ^ 12 % 2 ^ 16
      + 1) = .ok b)
    (hmask : x.oc_c.toNat % 4 = 0)
    (hread : 64 * x.oc_c.toNat + (f.imm32.toNat / 2 ^ 12 % 2 ^ 16 + 1 + 7) / 8 ≤ 0x40000)
    (hgood : (s.upsetCell c u).ocBad (64 * x.oc_c.toNat) ((f.imm32.toNat / 2 ^ 12 % 2 ^ 16 + 1 + 7) / 8) = false)
    (halign : f.imm32.toNat % 2 ^ 12 % 4 = 0)
    (hfit : 64 * (f.imm32.toNat % 2 ^ 12) + (f.imm32.toNat / 2 ^ 12 % 2 ^ 16 + 1) * fm.esize ≤ 0x40000) :
    let i : Ins := { op := .vsel, f, x, u }
    let n := f.imm32.toNat / 2 ^ 12 % 2 ^ 16 + 1
    let slot := f.imm32.toNat % 2 ^ 12
    evalOp c ((s.cell c).entry i) (s.carrying c i) =
      finishVx (s.setCell c (atWork s c i (s.upsetCell c u))) c ((s.cell c).entry i)
        (a.reg ++ b.reg ++ [⟨64 * x.oc_c.toNat, (n + 7) / 8, n, 0⟩])
        (maskDone (64 * slot) (n * fm.esize) n fm.esize ((List.range n).flatMap (fun j => leBytes fm.esize (fCopy fm
          (if bitB (leNat ((s.upsetCell c u).ocRead (64 * x.oc_c.toNat) ((n + 7) / 8))) j then (a.rows.headD
            []).getD j 0
            else (b.rows.headD []).getD j 0)))) fm) := by
  intro i n slot
  have hup : (s.carrying c i).ocUpset c u = s.setCell c (atWork s c i (s.upsetCell c u)) :=
    ocUpset_carrying (i := i) h.toReady (by simp [Op.plain, i])
  have hbits : ((List.range n).map (fun j => fCopy fm
      (if ((List.range n).map (bitB (leNat ((s.upsetCell c u).ocRead (64 * x.oc_c.toNat) ((n + 7) / 8))))).getD j false
        then (a.rows.headD []).getD j 0 else (b.rows.headD []).getD j 0))).flatMap (leBytes fm.esize) =
      (List.range n).flatMap (fun j => leBytes fm.esize (fCopy fm
        (if bitB (leNat ((s.upsetCell c u).ocRead (64 * x.oc_c.toNat) ((n + 7) / 8))) j then (a.rows.headD []).getD j 0
          else (b.rows.headD []).getD j 0))) := by
    rw [List.flatMap_map]
    refine List.flatMap_congr (fun j hj => ?_)
    have hbit : ((List.range n).map (bitB (leNat ((s.upsetCell c u).ocRead (64 * x.oc_c.toNat) ((n + 7) /
      8))))).getD j false =
        bitB (leNat ((s.upsetCell c u).ocRead (64 * x.oc_c.toNat) ((n + 7) / 8))) j := by
      simp [List.getD_eq_getElem?_getD, List.getElem?_range (List.mem_range.1 hj)]
    rw [hbit]
  show evalVsel c _ _ = _
  unfold evalVsel
  simp only [entry_ins, i, bits_9_8, hfmt, hok, hup, cell_setCell_self, vsource_atWork, bitMask_atWork, bits_1_0,
    bits_3_2,
    bits_27_12, bits_11_0, ha, hb, hmask, bitMask_ok hread hgood, ocDest_fits halign hfit, Bool.not_true,
    Bool.false_eq_true, if_false, ne_eq, not_true_eq_false]
  rw [maskDone, ← hbits]
  rfl

end

/-- Settles O23: VCMP by `evalVcmp_mask`, VSEL by `evalVsel_elements`. -/
theorem masksAndSelection : Obligations.MasksAndSelection := by
  intro c s f x u fm a b h y n nb slot ea eb hfmt ha hb
  refine ⟨fun hok hfunc halign hfit hover => ?_, fun hok hmask hread hgood halign hfit hover => ?_⟩
  · have hdone := issue_maskDone (i := { op := .vcmp, f, x, u }) h (by simp [Op.plain]) rfl rfl
      (evalVcmp_mask h hfmt hok hfunc ha hb halign hfit) hover
    refine ⟨_, _, _, rfl, hdone, rfl, rfl, fun j hj => ?_⟩
    rw [bitB_eq_testBit, testBit_maskOver, bitB_eq_testBit]
  · have hdone := issue_maskDone (i := { op := .vsel, f, x, u }) h (by simp [Op.plain]) rfl rfl
      (evalVsel_elements h hfmt hok ha hb hmask hread hgood halign hfit) hover
    exact ⟨_, _, rfl, hdone, rfl, rfl⟩

end Sys2Proof.Proofs
end
section
/-! Reductions by rows, and the accumulators of the reduction unit (O24). -/

namespace Sys2Proof.Proofs

open Sys2Proof Sys2Proof.Machine Sys2Proof.Laws

/-! ### Fields -/

theorem bits_7_2 (x : Nat) : bits x 7 2 = x / 4 % 2 ^ 6 := by
  unfold bits; rw [Nat.shiftRight_eq_div_pow]

theorem bits_15_0 (x : Nat) : bits x 15 0 = x % 2 ^ 16 := rfl

theorem bits_23_16 (x : Nat) : bits x 23 16 = x / 2 ^ 16 % 2 ^ 8 := by
  unfold bits; rw [Nat.shiftRight_eq_div_pow]

theorem bits_25_24 (x : Nat) : bits x 25 24 = x / 2 ^ 24 % 4 := by
  unfold bits; rw [Nat.shiftRight_eq_div_pow]; rfl

/-! ### The rows of a reduction -/

theorem redRows_results (fn : RedFn) (f : Fmt) (base n : Nat) (b : Bool) (rows : List (List Nat)) (r facc : Nat) :
    (redRows fn f base n b rows r facc).1 = rows.flatMap (fun row => leBytes fn.size (reduceRow fn f base row).val)
      := by
  induction rows generalizing r facc with
  | nil => rfl
  | cons row rows ih =>
    rw [List.flatMap_cons, ← ih (r + 1)]
    rfl

/-- Without an accumulator the flags are those that any row raises (R67). -/
theorem foldl_flags_redRows (fn : RedFn) (f : Fmt) (base n : Nat) (rows : List (List Nat)) (r facc : Nat) (g : Flags) :
    rows.foldl (fun g row => g.or (reduceRow fn f base row).flags) g =
      g.or (redRows fn f base n false rows r facc).2.1.counts.flags := by
  induction rows generalizing r g with
  | nil =>
    obtain ⟨a, b, c, d, e⟩ := g
    simp [redRows, FlagCounts.flags, Flags.or]
  | cons row rows ih =>
    have hnone (x : Flags) : x.or .none = x := by rw [flags_or_comm]; rfl
    rw [List.foldl_cons, ih (r + 1)]
    simp only [redRows, flags_add, Bool.false_eq_true, if_false, hnone]
    rw [flags_or_assoc, flags_or_comm (reduceRow fn f base row).flags]

theorem flags_redRows (fn : RedFn) (f : Fmt) (base n : Nat) (rows : List (List Nat)) (facc : Nat) :
    (redRows fn f base n false rows 0 facc).2.1.counts.flags =
      rows.foldl (fun g row => g.or (reduceRow fn f base row).flags) Flags.none :=
  ((foldl_flags_redRows fn f base n rows 0 facc Flags.none).trans (flags_none_or _)).symm

/-- The rows of a source by their numbers. -/
theorem rows_by_number {l : List (List Nat)} {rows : Nat} (h : l.length = rows) :
    l = (List.range rows).map (fun r => l.getD r []) := by
  apply List.ext_getElem
  · simp [h]
  · intro k hk _
    simp [List.getD_eq_getElem?_getD, List.getElem?_eq_getElem hk]

/-! ### A reduction with its accumulator -/

theorem Regs.setReg_both {ks : List Nat} {x y : Cell} (h : Regs ks x y) (o v : Nat)
    (hw : SMap.wf cellResetVal x.regs = true) : Regs ks (x.setReg o v) (y.setReg o v) := by
  refine ⟨?_, fun p hp => ?_, fun _ => wf_setReg y o v (h.canon hw)⟩
  · conv_lhs => rw [h.cell]
    rfl
  · by_cases he : p = o
    · rw [he, reg_setReg_self _ _ _ hw, reg_setReg_self _ _ _ (h.canon hw)]
    · rw [reg_setReg_other _ _ he, reg_setReg_other _ _ he, h.reg p hp]

/-- The completion of an instruction that adds to accumulator i of the reduction unit. -/
theorem finishVx_facc {s : State} {c : CellId} {e : InFlight} {srcs : List OcRegion} {d : VDone} {i v : Nat}
    (hwide : e.ins.wide = false) (hover : badOverlap d.dests srcs = none)
    (htrap : d.ev.counts.flags.toNat &&& (s.cell c).reg CR.NUM_TRAP_EN = 0) (hapart : d.writes.Pairwise Apart)
    (hfacc : d.facc = some (i, v)) (hopen : d.openCnt = []) (hst : CR.NUM_STATUS ∉ d.counts.map (·.1))
    (hw : SMap.wf cellResetVal (s.cell c).regs = true) (hi : CR.NUM_STATUS ≠ CR.RU_FACC i) :
    ∃ t, finishVx s c e srcs d = .done t ∧
      Notes (doneRegs d) c (s.modCell c (fun x => (ocPuts d.writes x).setReg (CR.RU_FACC i) v)) t ∧
      (t.cell c).reg CR.NUM_STATUS = (s.cell c).reg CR.NUM_STATUS ||| d.ev.counts.flags.toNat := by
  obtain ⟨hnote, hstatus⟩ := noteNum_spec s c (u := .vx) d.ev e.pc.toNat (by decide)
  have hstatus := hstatus hw
  unfold finishVx
  rw [hover, hwide, hfacc, hopen]
  simp only [Bool.false_eq_true, if_false, Option.none_or, numeric_untrapped e .vx _ htrap, clashBytes_apart hapart,
    List.foldl_nil]
  refine ⟨_, rfl, ?_⟩
  generalize s.noteNum c .vx d.ev e.pc.toNat = s1 at hnote hstatus ⊢
  have hputs : Regs (doneRegs d) (ocPuts d.writes (s.cell c)) (ocPuts d.writes (s1.cell c)) :=
    (hnote.regs.ocPuts d.writes).mono (List.subset_append_right _ _)
  have hcounts : Regs (doneRegs d) (ocPuts d.writes (s.cell c))
      (d.counts.foldl (fun x k => x.count k.1 k.2) (ocPuts d.writes (s1.cell c))) := by
    refine hputs.foldCount _ (fun k hk => ?_)
    simp only [doneRegs, List.mem_append, List.mem_map]
    exact .inl (.inl (.inl ⟨k, hk, rfl⟩))
  have hset := hcounts.setReg_both (CR.RU_FACC i) v (by rw [ocPuts_regs]; exact hw)
  have hput (x : Cell) : d.writes.foldl (fun x w => x.ocWrite w.1 w.2) x = ocPuts d.writes x := rfl
  simp only [hput]
  generalize hF : (fun x : Cell =>
    (d.counts.foldl (fun x k => x.count k.1 k.2) (ocPuts d.writes x)).setReg (CR.RU_FACC i) v) = F
  have hcell : ((s1.modCell c F).cell c) =
      (d.counts.foldl (fun x k => x.count k.1 k.2) (ocPuts d.writes (s1.cell c))).setReg (CR.RU_FACC i) v := by
    rw [cell_modCell_self, ← hF]
  have hstall : Notes [CR.OC_PORT_WAIT_CNT] c (s1.modCell c F) ((s1.modCell c F).stall c CR.OC_PORT_WAIT_CNT) :=
    notes_of_counts (counts_stall _ c _ (by simp))
  refine ⟨Notes.trans ?_ (hstall.mono (by simp [doneRegs])), ?_⟩
  · refine ⟨by rw [hcell, cell_modCell_self]; exact hset, fun j hj => ?_, ?_⟩
    · rw [cell_modCell_other _ _ hj, cell_modCell_other _ _ hj, hnote.others j hj]
    · generalize hg : s1.modCell c _ = t
      have ht : t = { s1 with cells := t.cells } := by rw [← hg]; rfl
      rw [ht, hnote.frame]
      rfl
  · have hplain : Regs (d.counts.map (·.1)) (ocPuts d.writes (s1.cell c))
        (d.counts.foldl (fun x k => x.count k.1 k.2) (ocPuts d.writes (s1.cell c))) :=
      (Regs.refl _ _).foldCount _ (fun k hk => List.mem_map.2 ⟨k, hk, rfl⟩)
    rw [hstall.regs.reg _ (by decide), hcell, reg_setReg_other _ _ hi, hplain.reg _ hst, ocPuts_reg, hstatus]

/-- A tensor instruction of the vector engine that adds to accumulator k of the reduction unit. -/
theorem issue_finishVx_facc {c : CellId} {s : State} {i : Ins} {srcs : List OcRegion} {d : VDone} {k v : Nat}
    (h : ReadyLong c s) (hop : Op.plain i.op) (hlong : i.op.long = true)
    (hev : evalOp c ((s.cell c).entry i) (s.carrying c i) =
      finishVx (s.setCell c (atWork s c i (s.upsetCell c i.u))) c ((s.cell c).entry i) srcs d)
    (hwide : i.wide = false) (hover : badOverlap d.dests srcs = none)
    (htrap : d.ev.counts.flags.toNat &&& (s.upsetCell c i.u).reg CR.NUM_TRAP_EN = 0)
    (hapart : d.writes.Pairwise Apart) (hfacc : d.facc = some (k, v)) (hopen : d.openCnt = [])
    (hst : CR.NUM_STATUS ∉ d.counts.map (·.1)) (hctl : CR.SQ_CTRL ∉ d.counts.map (·.1)) (hk : CR.SQ_CTRL ≠
      CR.RU_FACC k) 
    (hk' : CR.NUM_STATUS ≠ CR.RU_FACC k) :
    TensorDone (d.counts.map (·.1) ++ d.openCnt ++ [CR.OC_PORT_WAIT_CNT]) d.ev.counts.flags.toNat c s
      ((ocPuts d.writes (s.upsetCell c i.u)).setReg (CR.RU_FACC k) v) (nextPc (s.cell c).npc i.op) i.x (s.issue c i)
        := by
  have hidle := upsetCell_idle h.idle i.u
  have hcanon : SMap.wf cellResetVal (s.upsetCell c i.u).regs = true := by rw [hidle]; exact wf_ocErrors _ _ h.canon
  obtain ⟨t, hdone, hnote, hstatus⟩ := finishVx_facc (s := s.setCell c (atWork s c i (s.upsetCell c i.u))) (c := c)
    (e := (s.cell c).entry i) hwide hover (by rw [cell_setCell_self]; exact htrap) hapart hfacc hopen hst
    (by rw [cell_setCell_self]; exact hcanon) hk'
  rw [cell_setCell_self] at hstatus
  refine issue_tensor h hop hlong (hev.trans hdone) ?_ ?_ ?_ ?_ ?_
  · have hsame : (s.setCell c (atWork s c i (s.upsetCell c i.u))).modCell c
        (fun x => (ocPuts d.writes x).setReg (CR.RU_FACC k) v) =
        s.setCell c (atWork s c i ((ocPuts d.writes (s.upsetCell c i.u)).setReg (CR.RU_FACC k) v)) := by
      rw [State.modCell, cell_setCell_self, setCell_setCell, ocPuts_atWork]
      rfl
    rw [← hsame]
    exact hnote
  · rw [hstatus, reg_setReg_other _ _ hk', ocPuts_reg]
    rfl
  · rw [reg_setReg_other _ _ hk, ocPuts_reg, hidle]
    exact reg_ocErrors _ _ (by decide)
  · rw [hopen, List.append_nil, List.mem_append, not_or]
    exact ⟨hctl, by decide⟩
  · refine wf_setReg _ _ _ ?_
    rw [ocPuts_regs]
    exact hcanon

/-! ### The instructions -/

section
variable {c : CellId} {s : State} {f : SForm} {x : LForm} {u : Upset} {fm : Fmt}

/-- What a reduction leaves. -/
def redDone (fn : RedFn) (fm : Fmt) (base n rows slot : Nat) (accEn : Bool) (i facc : Nat) (a : VSrc) : VDone :=
  let r := redRows fn fm base n accEn a.rows 0 facc
  { writes := [(64 * slot, r.1)], dests := [⟨64 * slot, rows * fn.size, rows, fn.size⟩], ev := r.2.1
    counts := [(CR.RU_BUSY_CNT, rows * ceilDiv n (vxRate fm))], facc := if accEn then some (i, r.2.2) else none }

/-- The encoding of a reduction (R206). -/
structure RedOk (fn : RedFn) (fm : Fmt) (f : SForm) (x : LForm) : Prop where
  fmt : vfmt false (x.ext.toNat / 2 ^ 8 % 4) = some fm
  zero : x.ext.toNat / 4 % 2 ^ 6 = 0
  kind : x.ext.toNat % 4 < 2
  short : sOnly f { imm := true, rb := fn = .amax } = true
  long : lOnly x { a := true, c := true, acc := x.ext.toNat % 4 = 1, ext := true } = true
  acc : x.ext.toNat % 4 = 1 → fm = .fp32 ∧ x.oc_a = 0
  top : f.imm32.toNat < 2 ^ 27
  facc : fn ≠ .ssq → f.imm32.toNat < 2 ^ 24

theorem evalRed_rows {fn : RedFn} {op : Op} {a : VSrc} (h : ReadyLong c s) (hop : Op.plain op) (ho : RedOk fn fm f x)
    (ha : (s.upsetCell c u).vsource (x.ext.toNat % 4) x.oc_a.toNat x.acc 0 fm (f.imm32.toNat / 2 ^ 16 % 2 ^ 8 + 1)
      (f.imm32.toNat % 2 ^ 16 + 1) = .ok a)
    (halign : x.oc_c.toNat % 4 = 0)
    (hfit : 64 * x.oc_c.toNat + (f.imm32.toNat / 2 ^ 16 % 2 ^ 8 + 1) * fn.size ≤ 0x40000) :
    let i : Ins := { op, f, x, u }
    evalRed fn c ((s.cell c).entry i) (s.carrying c i) =
      finishVx (s.setCell c (atWork s c i (s.upsetCell c u))) c ((s.cell c).entry i) a.reg
        (redDone fn fm (((s.upsetCell c u).rdS f.rb).toNat % 2 ^ 32) (f.imm32.toNat % 2 ^ 16 + 1)
          (f.imm32.toNat / 2 ^ 16 % 2 ^ 8 + 1) x.oc_c.toNat (bitB f.imm32.toNat 26) (f.imm32.toNat / 2 ^ 24 % 4)
          ((s.upsetCell c u).reg (CR.RU_FACC (f.imm32.toNat / 2 ^ 24 % 4))) a) := by
  intro i
  have hup : (s.carrying c { op, f, x, u }).ocUpset c u = s.setCell c (atWork s c { op, f, x, u } (s.upsetCell c u)) :=
    ocUpset_carrying (i := { op, f, x, u }) h.toReady hop
  have hreg (o : Nat) : (atWork s c { op, f, x, u } (s.upsetCell c u)).reg o = (s.upsetCell c u).reg o := rfl
  obtain ⟨hfmt, hzero, hkind, hshort, hlong, hacc, htop, hfacc⟩ := ho
  have hkindOk : kindOk true (x.ext.toNat % 4) x.oc_a (decide (fm = .fp32)) = true := by
    unfold kindOk
    by_cases h0 : x.ext.toNat % 4 = 0
    · simp [h0]
    · have h1 : x.ext.toNat % 4 = 1 := by omega
      obtain ⟨h32, hslot⟩ := hacc h1
      simp [h1, h32, hslot]
  have hhigh : bits f.imm32.toNat 31 27 = 0 := by
    unfold bits
    rw [Nat.shiftRight_eq_div_pow, Nat.div_eq_of_lt htop, Nat.zero_mod]
  have hacc' : (bitB f.imm32.toNat 26 && decide (fn ≠ .ssq)) = false := by
    by_cases hfn : fn = .ssq
    · simp [hfn]
    · have hbit : bitB f.imm32.toNat 26 = false := by
        rw [bitB_eq_testBit, Nat.testBit_lt_two_pow (Nat.lt_trans (hfacc hfn) (by decide))]
      simp [hbit]
  have hidx : (decide (bits f.imm32.toNat 25 24 ≠ 0) && decide (fn ≠ .ssq)) = false := by
    by_cases hfn : fn = .ssq
    · simp [hfn]
    · have hzero : bits f.imm32.toNat 25 24 = 0 := by
        unfold bits
        rw [Nat.shiftRight_eq_div_pow, Nat.div_eq_of_lt (hfacc hfn), Nat.zero_mod]
      simp [hzero]
  have hlegal : (!sOnly f { imm := true, rb := fn = .amax } ||
      !lOnly x { a := true, c := true, acc := x.ext.toNat % 4 = 1, ext := true } || decide (bits x.ext.toNat 7 2 ≠ 0) ||
      decide (2 ≤ x.ext.toNat % 4) || !kindOk true (x.ext.toNat % 4) x.oc_a (decide (fm = .fp32)) ||
      decide (bits f.imm32.toNat 31 27 ≠ 0) || (bitB f.imm32.toNat 26 && decide (fn ≠ .ssq)) ||
      (decide (bits f.imm32.toNat 25 24 ≠ 0) && decide (fn ≠ .ssq))) = false := by
    rw [hshort, hlong, hkindOk, hacc', hidx, hhigh, bits_7_2, hzero]
    simp [hkind]
  unfold evalRed
  simp only [entry_ins, i, bits_1_0, bits_9_8]
  rw [hfmt]
  refine (if_neg (Bool.eq_false_iff.1 hlegal)).trans ?_
  simp only [hup, cell_setCell_self, vsource_atWork, rdS_atWork, hreg, bits_15_0, bits_23_16, bits_25_24, ha,
    ocDest_fits halign hfit]
  rfl

/-- A reduction without an accumulator. -/
theorem issue_reduction {fn : RedFn} {op : Op} {a : VSrc} (h : ReadyLong c s) (hop : Op.plain op) (hlong : op.long =
    true)
    (hev : ∀ (e : InFlight) (t : State), e.ins.op = op → evalOp c e t = evalRed fn c e t) (ho : RedOk fn fm f x)
    (hacc : bitB f.imm32.toNat 26 = false)
    (ha : (s.upsetCell c u).vsource (x.ext.toNat % 4) x.oc_a.toNat x.acc 0 fm (f.imm32.toNat / 2 ^ 16 % 2 ^ 8 + 1)
      (f.imm32.toNat % 2 ^ 16 + 1) = .ok a)
    (halign : x.oc_c.toNat % 4 = 0)
    (hfit : 64 * x.oc_c.toNat + (f.imm32.toNat / 2 ^ 16 % 2 ^ 8 + 1) * fn.size ≤ 0x40000)
    (hover : badOverlap [⟨64 * x.oc_c.toNat, (f.imm32.toNat / 2 ^ 16 % 2 ^ 8 + 1) * fn.size,
      f.imm32.toNat / 2 ^ 16 % 2 ^ 8 + 1, fn.size⟩] a.reg = none) :
    let rows := f.imm32.toNat / 2 ^ 16 % 2 ^ 8 + 1
    let row (r : Nat) : TreeResult :=
      reduceRow fn fm (((s.upsetCell c u).rdS f.rb).toNat % 2 ^ 32) (a.rows.getD r [])
    let fl := ((List.range rows).foldl (fun (g : Flags) r => g.or (row r).flags) Flags.none).toNat
    fl &&& (s.upsetCell c u).reg CR.NUM_TRAP_EN = 0 →
    TensorDone [CR.RU_BUSY_CNT, CR.OC_PORT_WAIT_CNT] fl c s
      ((s.upsetCell c u).ocWrite (64 * x.oc_c.toNat) ((List.range rows).flatMap (fun r => leBytes fn.size (row r).val)))
      (nextPc (s.cell c).npc op) x (s.issue c { op, f, x, u }) := by
  intro rows row fl htrap
  have hev' := (hev ((s.cell c).entry { op, f, x, u }) (s.carrying c { op, f, x, u }) rfl).trans
    (evalRed_rows h hop ho ha halign hfit)
  rw [hacc] at hev'
  have hrows := rows_by_number (vsource_shape ha).1
  generalize hd : redDone _ _ _ _ _ _ _ _ _ _ = d at hev'
  have hfl : d.ev.counts.flags.toNat = fl := by
    rw [← hd]
    show (redRows _ _ _ _ false a.rows 0 _).2.1.counts.flags.toNat = fl
    rw [flags_redRows]
    conv_lhs => rw [hrows]
    rw [List.foldl_map]
  have hwrites : d.writes = [(64 * x.oc_c.toNat, (List.range rows).flatMap (fun r => leBytes fn.size (row r).val))]
    := by
    rw [← hd]
    show [(_, (redRows _ _ _ _ false a.rows 0 _).1)] = _
    rw [redRows_results]
    conv_lhs => rw [hrows]
    rw [List.flatMap_map]
  have hdone := issue_finishVx (i := { op, f, x, u }) h hop hlong hev' rfl (by rw [← hd]; exact hover)
    (by rw [hfl]; exact htrap) (by rw [hwrites]; exact List.pairwise_singleton _ _) (by rw [← hd]; rfl)
    (by rw [← hd]; simp [redDone]) (by rw [← hd]; simp [redDone])
  rw [hfl, hwrites] at hdone
  rw [← hd] at hdone
  exact hdone

/-- RSSQ of one row with acc_en. -/
theorem issue_rssq_acc {a : VSrc} (h : ReadyLong c s) (ho : RedOk .ssq fm f x) (hrows : f.imm32.toNat / 2 ^ 16 % 2 ^
    8 + 1 = 1)
    (hacc : bitB f.imm32.toNat 26 = true)
    (ha : (s.upsetCell c u).vsource (x.ext.toNat % 4) x.oc_a.toNat x.acc 0 fm 1 (f.imm32.toNat % 2 ^ 16 + 1) = .ok a)
    (halign : x.oc_c.toNat % 4 = 0) (hover : badOverlap [⟨64 * x.oc_c.toNat, 8, 1, 8⟩] a.reg = none)
    (htrap : (s.upsetCell c u).reg CR.NUM_TRAP_EN = 0) :
    let y := s.upsetCell c u
    let k := f.imm32.toNat / 2 ^ 24 % 4
    let row := reduceRow .ssq fm ((y.rdS f.rb).toNat % 2 ^ 32) (a.rows.headD [])
    let sum := fAdd .fp64 (y.reg (CR.RU_FACC k)) row.val
    TensorDone [CR.RU_BUSY_CNT, CR.OC_PORT_WAIT_CNT] (row.flags.or sum.2).toNat c s
      ((y.ocWrite (64 * x.oc_c.toNat) (leBytes 8 row.val)).setReg (CR.RU_FACC k) sum.1)
      (nextPc (s.cell c).npc .rssq) x (s.issue c { op := .rssq, f, x, u }) := by
  intro y k row sum
  have hslot := x.oc_c.isLt
  have hev : evalOp c ((s.cell c).entry { op := .rssq, f, x, u }) (s.carrying c { op := .rssq, f, x, u }) = _ :=
    evalRed_rows h (by simp [Op.plain]) ho (by rw [hrows]; exact ha) halign
      (by rw [hrows]; simp only [RedFn.size]; omega)
  rw [hacc, hrows] at hev
  obtain ⟨r, hr⟩ : ∃ r, a.rows = [r] := List.length_eq_one_iff.1 (vsource_shape ha).1
  have hhead : a.rows.headD [] = r := by rw [hr]; rfl
  generalize hd : redDone _ _ _ _ _ _ _ _ _ _ = d at hev
  have hfl : d.ev.counts.flags = row.flags.or sum.2 := by
    rw [← hd]
    show (redRows _ _ _ _ true a.rows 0 _).2.1.counts.flags = _
    rw [hr]
    simp only [redRows, flags_add, if_true]
    rw [show ({} : NumEvent).counts.flags = Flags.none from rfl, flags_none_or, ← hhead]
  have hwrites : d.writes = [(64 * x.oc_c.toNat, leBytes 8 row.val)] := by
    rw [← hd]
    show [(_, (redRows _ _ _ _ true a.rows 0 _).1)] = _
    rw [redRows_results, hr, ← hhead]
    simp only [List.flatMap_cons, List.flatMap_nil, List.append_nil]
    rfl
  have hfacc : d.facc = some (k, sum.1) := by
    rw [← hd]
    show some (_, (redRows _ _ _ _ true a.rows 0 _).2.2) = _
    rw [hr, ← hhead]
    rfl
  have hne (o : Nat) (hlt : o < 0x3018) : o ≠ CR.RU_FACC k := by
    simp only [CR.RU_FACC]
    omega
  have hdone := issue_finishVx_facc (i := { op := .rssq, f, x, u }) h (by simp [Op.plain]) rfl hev rfl
    (by rw [← hd]; exact hover) (by rw [htrap, Nat.and_zero]) (by rw [hwrites]; exact List.pairwise_singleton _ _) hfacc
    (by rw [← hd]; rfl) (by rw [← hd]; simp [redDone]) (by rw [← hd]; simp [redDone]) (hne _ (by decide))
    (hne _ (by decide))
  rw [hfl, hwrites, ← hd] at hdone
  exact hdone

/-- imm32 of RFSTORE and RFCLR names an accumulator alone (R206). -/
theorem faccOnly_of {imm k : Nat} (h : imm = k * 2 ^ 24) (hk : k < 4) : faccOnly imm = true ∧ bits imm 25 24 = k := by
  subst h
  refine ⟨?_, ?_⟩
  · simp only [faccOnly, Bool.and_eq_true, decide_eq_true_eq]
    omega
  · rw [bits_25_24]
    omega

theorem retires_count {ks : List Nat} {o n : Nat} {z : Cell} {pc : Word} {t : State}
    (h : Retires ks c s (z.count o n) pc t) (ho : o ≠ CR.SQ_RETIRED_CNT) : Retires (o :: ks) c s z pc t := by
  obtain ⟨hcell, hreg, hret, hrest⟩ := h
  refine ⟨hcell, fun p hp => ?_, ?_, hrest⟩
  · simp only [List.mem_cons, not_or] at hp
    rw [hreg p hp.2, reg_count_other _ _ hp.1]
  · rw [hret, reg_count_other _ _ ho.symm]

theorem issue_rfstoreSlot {k : Nat} (h : ReadyLong c s) (himm : f.imm32.toNat = k * 2 ^ 24) (hk : k < 4)
    (hf : sOnly f { imm := true } = true) (hx : lOnly x { c := true } = true) :
    RetiresPosting (CR.OC_PORT_WAIT_CNT :: commitCounters) c s
      ((s.cell c).ocWrite (64 * x.oc_c.toNat) (leBytes 8 ((s.cell c).reg (CR.RU_FACC k)))) (nextPc (s.cell c).npc
        .rfstore) x
      (s.issue c { op := .rfstore, f, x, u }) := by
  obtain ⟨honly, hbits⟩ := faccOnly_of himm hk
  obtain ⟨n, hn⟩ : ∃ n, n = Config.stallCycles s.free := ⟨_, rfl⟩
  obtain ⟨F, hF⟩ : ∃ F : Cell → Cell,
    F = fun y => y.ocWrite (64 * x.oc_c.toNat) (leBytes 8 ((s.cell c).reg (CR.RU_FACC k))) := ⟨_, rfl⟩
  have hev : evalOp c ((s.cell c).entry { op := .rfstore, f, x, u }) (s.carrying c { op := .rfstore, f, x, u }) =
      .done (((s.carrying c { op := .rfstore, f, x, u }).modCell c F).stall c CR.OC_PORT_WAIT_CNT) := by
    have hfunc : f.func = 0 := by
      simp only [sOnly, Bool.false_or, Bool.and_eq_true, beq_iff_eq] at hf
      exact hf.1.1.1.2
    show evalRfstore c _ _ = _
    unfold evalRfstore
    simp only [entry_ins, honly, hbits, hfunc, hf, hx, cell_carrying, Bool.not_true, Bool.or_self, Bool.false_eq_true,
      if_false, hF]
    rfl
  have hcell : ((((s.carrying c { op := .rfstore, f, x, u }).modCell c F).stall c CR.OC_PORT_WAIT_CNT).cell c) =
      (F ((s.cell c).holding { op := .rfstore, f, x, u })).count CR.OC_PORT_WAIT_CNT n := by
    rw [State.stall, cell_draw, State.countC, cell_modCell_self, cell_modCell_self, cell_carrying, hn]
    rfl
  obtain ⟨t, ht, hi⟩ := issue_over_long (S := s) (z := (F (s.cell c)).count CR.OC_PORT_WAIT_CNT n) h
    (by simp [Op.plain]) rfl
    hev (standsFor_entry h.toReady _) (by rw [hcell, holding_plain _ _ (by simp [Op.plain]), hF]; rfl)
    (fun d hd => by
      rw [State.stall, cell_draw, State.countC, cell_modCell_other _ _ hd, cell_modCell_other _ _ hd]
      exact cell_setCell_other _ _ hd) rfl
    (by rw [hF]; exact reg_count_other (s.cell c) _ (by decide)) (by rw [hF]; exact wf_count (s.cell c) _ _ h.canon)
  have hz : (s.cell c).ocWrite (64 * x.oc_c.toNat) (leBytes 8 ((s.cell c).reg (CR.RU_FACC k))) = F (s.cell c) := by
    rw [hF]
  rw [hz]
  exact ⟨t, retires_count ht (by decide), hi⟩

theorem issue_rfstoreReg {k : Nat} (h : ReadyLong c s) (himm : f.imm32.toNat = k * 2 ^ 24) (hk : k < 4)
    (hf : sOnly f { imm := true, func := true, rd := true } = true) (hfunc : f.func = 1) (hx : lOnly x {} = true) :
    RetiresPosting commitCounters c s ((s.cell c).wrS f.rd (BitVec.ofNat 64 ((s.cell c).reg (CR.RU_FACC k))))
      (nextPc (s.cell c).npc .rfstore) x (s.issue c { op := .rfstore, f, x, u }) := by
  obtain ⟨honly, hbits⟩ := faccOnly_of himm hk
  obtain ⟨t, ht, hi⟩ := issue_rd (i := { op := .rfstore, f, x, u }) (rd := f.rd)
    (v := BitVec.ofNat 64 ((s.cell c).reg (CR.RU_FACC k))) h.toReady (fetched_long h _) (by simp [Op.plain]) (by
      show evalRfstore c _ _ = _
      unfold evalRfstore
      simp only [entry_ins, honly, hbits, hfunc, hf, hx, cell_carrying, Bool.not_true, Bool.or_self, Bool.false_eq_true,
        if_false]
      rfl)
  exact ⟨t, ht, hi⟩

theorem issue_rfclr {k : Nat} (h : ReadyLong c s) (himm : f.imm32.toNat = k * 2 ^ 24) (hk : k < 4)
    (hf : sOnly f { imm := true } = true) (hx : lOnly x {} = true) :
    RetiresPosting commitCounters c s ((s.cell c).setReg (CR.RU_FACC k) 0) (nextPc (s.cell c).npc .rfclr) x
      (s.issue c { op := .rfclr, f, x, u }) := by
  obtain ⟨honly, hbits⟩ := faccOnly_of himm hk
  have hev : evalOp c ((s.cell c).entry { op := .rfclr, f, x, u }) (s.carrying c { op := .rfclr, f, x, u }) =
      .done ((s.carrying c { op := .rfclr, f, x, u }).modCell c (fun y => y.setReg (CR.RU_FACC k) 0)) := by
    show evalRfclr c _ _ = _
    unfold evalRfclr
    simp only [entry_ins, honly, hbits, hf, hx, Bool.not_true, Bool.or_self, Bool.false_eq_true, if_false]
  rw [State.modCell, cell_carrying, carrying_setCell] at hev
  obtain ⟨t, ht, hi⟩ := issue_cell (F := fun y : Cell => y.setReg (CR.RU_FACC k) 0) h.toReady (fetched_long h _)
    (by simp [Op.plain]) hev rfl (reg_setReg_other (s.cell c) _ (by simp only [CR.RU_FACC, CR.SQ_CTRL]; omega))
      (wf_setReg _ _ _ h.canon)
  exact ⟨t, ht, hi⟩

end

end Sys2Proof.Proofs
end

section
/-! Reductions settled (O24). -/

namespace Sys2Proof.Proofs

open Sys2Proof Sys2Proof.Machine Sys2Proof.Laws

/-- Settles O24: the reductions by `issue_reduction`, RSSQ with its accumulator by `issue_rssq_acc`. -/
theorem rowReductions : Obligations.RowReductions := by
  intro c s f x u h z y imm n rows i
  have hi : i < 4 := Nat.mod_lt _ (by decide)
  refine ⟨fun e he fm a => ?_, fun fm a => ?_, fun himm => ⟨fun hf hx => ⟨_, rfl, issue_rfstoreSlot h himm hi hf hx⟩,
    fun hf hfunc hx => ⟨_, rfl, issue_rfstoreReg h himm hi hf hfunc hx⟩,
    fun hf hx => ⟨_, rfl, issue_rfclr h himm hi hf hx⟩⟩⟩
  · intro row fl hfmt hzero hkind hshort hlong hacc himm ha halign hfit hover htrap
    have hbit : bitB imm 26 = false := by
      rw [bitB_eq_testBit, Nat.testBit_lt_two_pow (Nat.lt_trans himm (by decide))]
    have hok : RedOk e.2.2.1 fm f x := ⟨hfmt, hzero, hkind, hshort, hlong, hacc, Nat.lt_trans himm (by decide), fun
      _ => himm⟩
    simp only [redTable, List.mem_cons, List.not_mem_nil, or_false] at he
    rcases he with rfl | rfl | rfl | rfl | rfl | rfl <;>
      exact ⟨_, _, rfl, issue_reduction h (by simp [Op.plain]) rfl (fun e t he => by rw [evalOp, he]; rfl) hok hbit
        ha halign
        hfit hover htrap, rfl, rfl⟩
  · intro hfmt hzero hkind hshort hlong hrows htop ha halign hover htrap
    have hkind1 : x.ext.toNat % 4 ≠ 1 := by rw [hkind]; decide
    have himm : imm < 2 ^ 27 := by omega
    have hbit : bitB imm 26 = true := by
      rw [bitB, Nat.shiftRight_eq_div_pow, htop]
      rfl
    have hok : RedOk .ssq fm f x := ⟨hfmt, hzero, by rw [hkind]; decide, hshort, by
      rw [decide_eq_false hkind1]
      exact hlong, fun h1 => absurd h1 hkind1, himm, fun hne => absurd rfl hne⟩
    have hdone := issue_rssq_acc (u := u) h hok hrows hbit (by rw [hkind]; exact ha) halign hover htrap
    have hcanon : SMap.wf cellResetVal y.regs = true := by
      rw [show y = _ from upsetCell_idle h.idle u]
      exact wf_ocErrors _ _ h.canon
    exact ⟨_, _, rfl, hdone, rfl, rfl, fun o ho => reg_setReg_other _ _ ho, reg_setReg_self _ _ _ hcanon⟩

end Sys2Proof.Proofs
end
section
/-! O19 and O20: an accumulator map that lists a key twice. Both statements assume canonical registers only
(`Ready.wf`), not canonical accumulators, and on such a map a write of 0 erases one of the two entries and uncovers the
other, so that the element written does not read back. -/

namespace Sys2Proof.Proofs
open Sys2Proof Sys2Proof.Machine Sys2Proof.Laws

/-- Activations of BF16 at slot 0 of OC, and weights of BF16 at the start of the slice window. -/
def actOperand : Desc := 1#512 <<< 192
def wtOperand : Desc := 0x200000000#512 ||| (1#512 <<< 192) ||| (1#512 <<< 198) ||| (1#512 <<< 200)

/-- A running cell with those two operands in d15 and d14, OC of zeros, and element 0 of accumulator 7 listed twice. -/
def twiceCell : Cell :=
  { mode := .running, cp := { st := .awake }, d := (Vector.replicate 16 actOperand).set 14 wtOperand
    s := Vector.replicate 32 0x10000, acc := [(7 * 4096, 1), (7 * 4096, 2)] }

/-- Cell 0 runs with its slice window of 64 KiB in a device that is up. -/
def twiceListed : State :=
  ({ State.reset with
      dev := { stbyPg := true, mainPg := true, mainOn := true, ready := true, readyOnce := true, hbmLost := false }
      pw := { sr := 0 }, hs := { link := .cxl } }.setFreg (FR.HR_WIN_CFG 0) 1).setCell 0 twiceCell

theorem readyLong_twiceListed : ReadyLong 0 twiceListed where
  runs := by decide +kernel
  idle := by decide +kernel
  normal := by decide +kernel
  owned := by decide +kernel
  noHalt := by decide +kernel
  noSubmit := by decide +kernel
  canon := by decide +kernel
  sound := by decide +kernel
  sound2 := by decide +kernel

/-- An evaluation that ends at once, leaves its entry as it is, and leaves v in element p of accumulator a. -/
def leavesElement (c : CellId) (s : State) (e : InFlight) (a p : Nat) (v : BitVec 32) : Eval → Bool
  | .done s1 none _ =>
    decide ((s1.cell c).window = [e]) && decide ((s1.cell c).npc = (s.cell c).npc) &&
      decide ((s1.cell c).reg CR.SQ_CTRL = (s.cell c).reg CR.SQ_CTRL) && SMap.wf cellResetVal (s1.cell c).regs &&
      decide ((s1.cell c).accGet a p = v)
  | _ => false

theorem jump_leavesElement {c : CellId} {s s1 : State} {e : InFlight} {a p : Nat} {v : BitVec 32} {jump : Option Word}
    {post : Bool} (h : leavesElement c s e a p v (.done s1 jump post) = true) : jump = none := by
  cases jump with
  | none => rfl
  | some w => cases h

/-- Such an instruction, without a post, retires with v in that element. -/
theorem accGet_issue {c : CellId} {s : State} {i : Ins} {a p : Nat} {v : BitVec 32} (h : ReadyLong c s)
    (hop : i.op ≠ .bloop) (hpen : i.x.pen = false)
    (hev : leavesElement c (s.carrying c i) ((s.cell c).entry i) a p v (evalOp c ((s.cell c).entry i) (s.carrying c
      i)) = true) :
    ((s.issue c i).cell c).accGet a p = v := by
  cases he : evalOp c ((s.cell c).entry i) (s.carrying c i) with
  | wait s1 k => rw [he] at hev; cases hev
  | fault s1 k => rw [he] at hev; cases hev
  | done s1 jump post =>
    rw [he] at hev
    obtain rfl : jump = none := jump_leavesElement hev
    simp only [leavesElement, Bool.and_eq_true, decide_eq_true_eq] at hev
    obtain ⟨⟨⟨⟨hwin, hnpc⟩, hctrl⟩, hcanon⟩, hv⟩ := hev
    obtain ⟨u, ⟨hcell, -⟩, hi⟩ := issue_done h.toReady (fetched_long h _) hop he
      ⟨hwin, rfl, rfl, rfl, rfl, fun o ho => absurd ((entry_waited h.toReady i).symm.trans ho) nofun, hnpc, hctrl,
        hcanon⟩
    have hid : s.issue c i = u := by
      rw [hi, State.completionPost, hpen, if_neg Bool.false_ne_true, ite_self]
    rw [hid, hcell]
    exact hv

/-- A load of 16 × 16 elements into accumulator 7 from the last KiB of OC, which holds zeros. -/
def loadZeros : LForm := { acc := 7, oc_a := 4080 }

theorem accGet_loadZeros :
    ((twiceListed.issue 0 { op := .mxld, f := {}, x := loadZeros, u := {} }).cell 0).accGet 7 0 = 2 :=
  accGet_issue readyLong_twiceListed (by decide) rfl (by decide +kernel)

/-- The smallest tile into accumulator 7, its accumulators cleared first. -/
def tileWord : SForm := { imm32 := 0x80000 }
def tileOf : LForm := { dsel := 15, acc := 7, ext := 14 }

theorem accGet_tileOf :
    ((twiceListed.issue 0 { op := .mma, f := tileWord, x := tileOf, u := {} }).cell 0).accGet 7 0 = 2 :=
  accGet_issue readyLong_twiceListed (by decide) rfl (by decide +kernel)

/-- An instruction that retires without a post leaves the accumulators that it has made. -/
theorem accGet_retiresPosting {ks : List Nat} {c : CellId} {s t : State} {p : Cell} {pc : Word} {x : LForm}
    (h : RetiresPosting ks c s p pc x t) (hpen : x.pen = false) (a j : Nat) :
    p.accGet a j = (t.cell c).accGet a j := by
  obtain ⟨u, ⟨hcell, -⟩, rfl⟩ := h
  rw [State.completionPost, hpen, if_neg Bool.false_ne_true, hcell]
  rfl

/-- Refutes O20: element 0 of accumulator 7 is listed twice, and MXLD of the zero of OC leaves the second entry. -/
theorem not_matrixVectorAndTileMoves : ¬ Obligations.MatrixVectorAndTileMoves := by
  unfold Obligations.MatrixVectorAndTileMoves
  intro h
  obtain ⟨-, hload, -⟩ := h 0 twiceListed {} loadZeros {} readyLong_twiceListed
  obtain ⟨t, p, ht, hret, -, hread, -⟩ := hload ⟨16, 16, 32, false, 0, false⟩ (by decide +kernel) (by decide +kernel)
    (by decide +kernel) (by decide +kernel) (by decide +kernel) (by decide +kernel) (by decide +kernel)
  have hzero : p.accGet 7 0 = 0 := (hread 0 (by decide)).trans (by decide +kernel)
  obtain rfl : twiceListed.issue 0 { op := .mxld, f := {}, x := loadZeros, u := {} } = t := Host.Outcome.next.inj ht
  rw [accGet_retiresPosting hret rfl, accGet_loadZeros] at hzero
  exact absurd hzero (by decide)

/-- A tensor instruction that ends without a post leaves the accumulators that it has made. -/
theorem accGet_tensorDone {ks : List Nat} {fl : Nat} {c : CellId} {s t : State} {p : Cell} {pc : Word} {x : LForm}
    (h : TensorDone ks fl c s p pc x t) (hpen : x.pen = false) (a j : Nat) : p.accGet a j = (t.cell c).accGet a j := by
  obtain ⟨u, rfl, hcell, -⟩ := h
  rw [State.completionPost, hpen, if_neg Bool.false_ne_true, hcell]
  rfl

/-- Refutes O19: element 0 of accumulator 7 is listed twice, and a tile of zeros leaves the second entry. -/
theorem not_matrixTilesAndGathers : ¬ Obligations.MatrixTilesAndGathers := by
  unfold Obligations.MatrixTilesAndGathers
  intro h
  obtain ⟨t, z, ht, hdone, -, hread, -⟩ := h.1 false 0 twiceListed tileWord tileOf {} ⟨16, 16, 32, true, 0, false⟩
    .bf16 .bf16 readyLong_twiceListed (by decide +kernel) (by decide +kernel)
    (by decide +kernel) (by decide +kernel) (by decide +kernel) (by decide +kernel) (by decide +kernel)
    (by decide +kernel) (by decide +kernel) (by decide +kernel) (by decide +kernel) (by decide +kernel)
    (by decide +kernel) (by decide +kernel) (by decide +kernel) (by decide +kernel) (by decide +kernel)
  have hzero : z.accGet 7 0 = 0 := (hread 0 0 (by decide) (by decide)).trans (by decide +kernel)
  obtain rfl : twiceListed.issue 0 { op := .mma, f := tileWord, x := tileOf, u := {} } = t := Host.Outcome.next.inj ht
  rw [accGet_tensorDone hdone rfl, accGet_tileOf] at hzero
  exact absurd hzero (by decide)

end Sys2Proof.Proofs
end
section
/-! O26: barriers. -/

namespace Sys2Proof.Proofs
open Sys2Proof Sys2Proof.Machine Sys2Proof.Laws

theorem plain_bar : Op.plain .bar := by simp [Op.plain]
theorem plain_eqnx : Op.plain .eqnx := by simp [Op.plain]

/-! ### Arrival -/

section
variable {c : CellId} {s : State}

/-- The barrier of a scope with cell c among those that have arrived. -/
def joined (b : Barrier) (c : CellId) : Barrier := { b with arrived := b.arrived ++ [c] }

theorem arrive_new {b : Barrier} (h : c ∉ b.arrived) : b.arrive c = (joined b c, b.gen) := by
  rw [Barrier.arrive, if_neg (by simpa using h)]
  rfl

/-- The entry of an instruction that has arrived at generation g. -/
def arrivedAt (e : InFlight) (g : Nat) : InFlight := { e with arrived := some g }

theorem setBarrier_sync (s : State) (k : Scope) (b : Barrier) :
    s.setBarrier k b = { s with sync := (s.setBarrier k b).sync } := by
  cases k <;> rfl

@[simp] theorem cell_setBarrier (s : State) (k : Scope) (b : Barrier) (d : CellId) :
    (s.setBarrier k b).cell d = s.cell d := by
  cases k <;> rfl

theorem barrier_carrying (s : State) (c : CellId) (i : Ins) (k : Scope) :
    (s.carrying c i).barrier k = s.barrier k := by
  cases k <;> rfl

theorem sync_setBarrier_carrying (s : State) (c : CellId) (i : Ins) (k : Scope) (b : Barrier) :
    ((s.carrying c i).setBarrier k b).sync = (s.setBarrier k b).sync := by
  cases k <;> rfl

/-- A barrier instruction of a cell that has not arrived yet arrives, and waits. -/
theorem issue_arrives {i : Ins} {k : Scope} (h : Ready c s) (hf : Fetched s c i.op) (hop : Op.plain i.op)
    (hev : evalOp c ((s.cell c).entry i) (s.carrying c i) = evalArrive c ((s.cell c).entry i) (s.carrying c i) k)
    (hnew : c ∉ (s.barrier k).arrived) :
    ∃ e, ((s.issue c i).cell c).window = [e] ∧ e.pc = (s.cell c).npc ∧ e.fault = none ∧
      e.arrived = some (s.barrier k).gen ∧ (∀ d, d ≠ c → (s.issue c i).cell d = s.cell d) ∧
      s.issue c i = { s with cells := (s.issue c i).cells, sync := (s.issue c i).sync } ∧
      (s.issue c i).sync = (s.setBarrier k (joined (s.barrier k) c)).sync := by
  rw [evalArrive, if_neg (by simp [Cell.entry]), barrier_carrying, arrive_new hnew] at hev
  rw [issue_wait h hf hev]
  refine ⟨{ arrivedAt ((s.cell c).entry i) (s.barrier k).gen with
    waited := some CR.SX_STALL_SEM_CNT, stalls := true }, ?_, rfl, hf, rfl, fun d hd => ?_, ?_, ?_⟩
  · rw [cell_modCell_self, cell_modCell_self, cell_setBarrier, cell_carrying, holding_plain _ _ hop]
    rfl
  · rw [cell_modCell_other _ _ hd, cell_modCell_other _ _ hd, cell_setBarrier]
    exact cell_setCell_other _ _ hd
  · rw [setBarrier_sync]
    rfl
  · exact sync_setBarrier_carrying s c i k _

theorem evalBar_arrives {i : Ins} (hop : i.op = .bar) (hf : sOnly i.f { func := true } = true)
    (hfunc : ¬ 2 ≤ i.f.func.toNat) :
    evalOp c ((s.cell c).entry i) (s.carrying c i) = evalArrive c ((s.cell c).entry i) (s.carrying c i)
      (if i.f.func = 0 then .band (bandOf c) else .all) := by
  rw [evalOp, entry_ins, hop]
  simp only [evalBar, entry_ins, hf, Bool.not_true, Bool.false_or]
  exact (if_neg fun h => hfunc (of_decide_eq_true h)).trans rfl

theorem evalEqnx_arrives {i : Ins} (hop : i.op = .eqnx) (hf : sOnly i.f { rd := true } = true)
    (hen : bitB (s.freg FR.HV_CTRL) 0 = true) :
    evalOp c ((s.cell c).entry i) (s.carrying c i) =
      evalArrive c ((s.cell c).entry i) (s.carrying c i) .equinox := by
  have hen' : bitB ((s.carrying c i).freg FR.HV_CTRL) 0 = true := hen
  rw [evalOp, entry_ins, hop]
  simp only [evalEqnx, entry_ins, hf, hen', Bool.not_true, Bool.and_false, Bool.false_eq_true, if_false]
  rfl

end

/-! ### One cell after the other -/

/-- A step of each cell of a list that leaves the other cells alone, whose effect on its own cell Q tells. -/
theorem foldl_cells {f : State → CellId → State} {P : CellId → State → Prop} {Q : CellId → Cell → Cell → Prop}
    (hP : ∀ d s s', P d s → s'.cell d = s.cell d → s' = { s with cells := s'.cells, free := s'.free } → P d s')
    (hf : ∀ d s, P d s → Q d (s.cell d) ((f s d).cell d) ∧ (∀ j, j ≠ d → (f s d).cell j = s.cell j) ∧
      f s d = { s with cells := (f s d).cells, free := (f s d).free }) :
    ∀ (l : List CellId) (s : State), l.Nodup → (∀ d ∈ l, P d s) →
      (∀ d ∈ l, Q d (s.cell d) ((l.foldl f s).cell d)) ∧ (∀ d, d ∉ l → (l.foldl f s).cell d = s.cell d) ∧
      l.foldl f s = { s with cells := (l.foldl f s).cells, free := (l.foldl f s).free } := by
  intro l
  induction l with
  | nil => exact fun s _ _ => ⟨nofun, fun _ _ => rfl, rfl⟩
  | cons a l ih =>
    intro s hnodup hl
    obtain ⟨ha, hnodup⟩ := List.nodup_cons.1 hnodup
    obtain ⟨hQ, hother, hframe⟩ := hf a s (hl a (by simp))
    have hne : ∀ d ∈ l, d ≠ a := fun d hd he => ha (he ▸ hd)
    obtain ⟨hQs, hout, hframes⟩ := ih (f s a) hnodup
      (fun d hd => hP d s _ (hl d (by simp [hd])) (hother d (hne d hd)) hframe)
    rw [List.foldl_cons]
    refine ⟨fun d hd => ?_, fun d hd => ?_, ?_⟩
    · rcases List.mem_cons.1 hd with rfl | hd
      · rw [hout d ha]; exact hQ
      · rw [← hother d (hne d hd)]; exact hQs d hd
    · simp only [List.mem_cons, not_or] at hd
      rw [hout d hd.2, hother d hd.1]
    · rw [hframes, hframe]

/-! ### The opening of a barrier -/

/-- An entry whose barrier has completed with value v. -/
def goesOn (e : InFlight) (v : Word) : InFlight := { e with granted := some v }

/-- Cell d waits with a plain BAR at generation g of the barrier of its band. -/
def WaitsInBand (b : Fin 16) (g : Nat) (d : CellId) (s : State) : Prop :=
  bandOf d = b ∧ ∃ e, Holds d s e ∧ e.ins.op = .bar ∧ e.ins.f = {} ∧ e.ins.x = {} ∧ e.next = none ∧ e.arrived = some g

/-- Cell d holds a plain BAR whose barrier has completed. -/
def BarDone (d : CellId) (s : State) : Prop :=
  ∃ e, Holds d s e ∧ e.ins.op = .bar ∧ e.ins.f = {} ∧ e.ins.x = {} ∧ e.granted.isSome = true

theorem holds_congr {d : CellId} {s s' : State} {e : InFlight} (h : Holds d s e) (hcell : s'.cell d = s.cell d)
    (hs : s' = { s with cells := s'.cells, free := s'.free }) : Holds d s' e := by
  obtain ⟨hruns, honly, hsound, hres, hfollows, hwaited, hhalt, hsub, hcanon⟩ := h
  rw [← hcell] at hruns honly hfollows hhalt hcanon
  refine ⟨hruns, honly, hsound, hres, hfollows, hwaited, hhalt, ?_, hcanon⟩
  rw [hs]
  exact hsub

/-- A barrier once it has completed: those that wait for the next generation have arrived. -/
def reopened (b : Barrier) : Barrier := { gen := b.gen + 1, arrived := b.next, next := [] }

/-- What the opening of barrier k does for one cell. -/
def grantOne (k : Scope) (g : Nat) (v : Word) (s : State) (c : CellId) : State :=
  match (s.cell c).head with
  | some e => if e.ins.scope c = some k then (s.endDoze c).modCell c (fun x => x.grantArrived g v) else s
  | none => s

theorem openBarrier_eq {s : State} {k : Scope} {cells : List CellId} {v : Word}
    (h : ∀ d ∈ cells, d ∈ (s.barrier k).arrived) :
    s.openBarrier k cells v = (cells.foldl (grantOne k (s.barrier k).gen v)
      (s.setBarrier k (reopened (s.barrier k)))).pumpAll cells := by
  rw [State.openBarrier, if_pos (by simpa [List.all_eq_true] using h)]
  rfl

theorem grantOne_band {b : Fin 16} {g : Nat} {v : Word} {d : CellId} {s : State} (h : WaitsInBand b g d s) :
    ∃ e, (s.cell d).window = [e] ∧
      grantOne (.band b) g v s d = s.setCell d { s.cell d with window := [goesOn e v] } := by
  obtain ⟨hb, e, h, hop, hf, -, -, harr⟩ := h
  have hscope : e.ins.scope d = some (.band b) := by rw [Ins.scope, hop, hf, ← hb]; rfl
  have hst : (s.cell d).cp.st ≠ .doze := by
    have hruns := h.runs
    intro hd
    rw [Cell.running, hd] at hruns
    simp at hruns
  refine ⟨e, h.only, ?_⟩
  rw [grantOne, Cell.head, h.only]
  simp only [List.head?_cons, hscope, if_true]
  rw [endDoze_not hst, State.modCell, Cell.grantArrived, Cell.modHead, h.only]
  show s.setCell d { s.cell d with window := [if e.arrived = some g then goesOn e v else e] } = _
  rw [if_pos harr]

theorem barDone_granted {b : Fin 16} {g : Nat} {v : Word} {d : CellId} {s s' : State} (h : WaitsInBand b g d s)
    (hcell : ∀ e, (s.cell d).window = [e] → s'.cell d = { s.cell d with window := [goesOn e v] })
    (hs : s' = { s with cells := s'.cells, free := s'.free }) : BarDone d s' := by
  obtain ⟨-, e, h, hop, hf, hx, hnext, -⟩ := h
  have hc := hcell e h.only
  refine ⟨goesOn e v, ⟨?_, by rw [hc], h.sound, h.resolved, fun p hp => ?_, h.waited, ?_, ?_, ?_⟩, hop, hf, hx, rfl⟩
  · rw [hc]; exact h.runs
  · rw [goesOn, hnext] at hp; cases hp
  · rw [hc]; exact h.noHalt
  · rw [hs]; exact h.noSubmit
  · rw [hc]; exact h.canon

/-- A BAR whose barrier has completed commits as its cell goes on. -/
theorem pump_bar {d : CellId} {s : State} (h : BarDone d s) :
    (((s.pump d).cell d).window = [] ∧
      ∀ e, (s.cell d).window = [e] → ((s.pump d).cell d).npc = nextPc e.pc .bar) ∧
    (∀ j, j ≠ d → (s.pump d).cell j = s.cell j) ∧
    s.pump d = { s with cells := (s.pump d).cells, free := (s.pump d).free } := by
  obtain ⟨e, h, hop, hf, hx, hgrant⟩ := h
  have hev : evalOp d e s = .done s := by
    rw [evalOp, hop]
    simp only [evalBar, hf, hgrant, if_true]
    rfl
  obtain ⟨u, ⟨hcell, -, -, hother, hframe⟩, hp⟩ := pump_done h (by rw [hop]; decide) (.inl (by rw [hop]; rfl)) hev
    { window := h.only, pc := rfl, op := rfl, x := rfl, next := rfl, waited := h.waited, npc := rfl
      ctrl := rfl, canon := h.canon }
  have hpump : s.pump d = u := by
    have hlong : e.ins.op.long = false := by rw [hop]; rfl
    rw [hp, hlong, Bool.and_false, if_neg Bool.false_ne_true]
  rw [hpump]
  refine ⟨⟨by rw [hcell], fun e' he' => ?_⟩, hother, hframe⟩
  obtain rfl : e = e' := by simpa [h.only] using he'
  rw [hcell, ← hop]
  rfl

theorem nodup_bandCells : ∀ b : Fin 16, (bandCells b).Nodup := by decide +kernel
theorem bandOf_bandCells : ∀ b : Fin 16, ∀ d ∈ bandCells b, bandOf d = b := by decide +kernel

/-- BARRIER_COMPLETE of a band whose cells all wait. -/
theorem openBarrier_band {b : Fin 16} {s : State} (harr : ∀ d ∈ bandCells b, d ∈ s.sync.bands[b].arrived)
    (hwait : ∀ d ∈ bandCells b, WaitsInBand b s.sync.bands[b].gen d s) :
    let t := s.openBarrier (.band b) (bandCells b) 0
    t.sync.bands[b] = { gen := s.sync.bands[b].gen + 1, arrived := s.sync.bands[b].next, next := [] } ∧
      (∀ d ∈ bandCells b, (t.cell d).window = [] ∧
        ∀ e, (s.cell d).window = [e] → (t.cell d).npc = nextPc e.pc .bar) ∧
      ∀ d, d ∉ bandCells b → t.cell d = s.cell d := by
  have hopen := openBarrier_eq (k := .band b) (v := 0) harr
  generalize hs0 : s.setBarrier (.band b) (reopened (s.barrier (.band b))) = s0 at hopen
  have hcell0 : ∀ d, s0.cell d = s.cell d := fun d => by rw [← hs0, cell_setBarrier]
  have hwait0 : ∀ d ∈ bandCells b, WaitsInBand b (s.barrier (.band b)).gen d s0 := fun d hd => by
    obtain ⟨hb, e, he, hrest⟩ := hwait d hd
    exact ⟨hb, e, ⟨by rw [hcell0]; exact he.runs, by rw [hcell0]; exact he.only, he.sound, he.resolved,
      by rw [hcell0]; exact he.follows, he.waited, by rw [hcell0]; exact he.noHalt, by rw [← hs0]; exact he.noSubmit,
      by rw [hcell0]; exact he.canon⟩, hrest⟩
  obtain ⟨hgrant, hout1, hframe1⟩ := foldl_cells
    (f := grantOne (.band b) (s.barrier (.band b)).gen 0) (P := WaitsInBand b (s.barrier (.band b)).gen)
    (Q := fun _ x y => ∃ e, x.window = [e] ∧ y = { x with window := [goesOn e 0] })
    (fun d r r' ⟨hb, e, he, hrest⟩ hc hr => ⟨hb, e, holds_congr he hc hr, hrest⟩)
    (fun d r hr => by
      obtain ⟨e, hwin, hg⟩ := grantOne_band (v := 0) hr
      rw [hg]
      exact ⟨⟨e, hwin, by rw [cell_setCell_self]⟩, fun j hj => cell_setCell_other _ _ hj, rfl⟩)
    (bandCells b) s0 (nodup_bandCells b) hwait0
  generalize (bandCells b).foldl (grantOne (.band b) (s.barrier (.band b)).gen 0) s0 = s1 at hopen hgrant hout1 hframe1
  obtain ⟨hpump, hout2, hframe2⟩ := foldl_cells (f := fun r d => r.pump d) (P := BarDone)
    (Q := fun _ x y => y.window = [] ∧ ∀ e, x.window = [e] → y.npc = nextPc e.pc .bar)
    (fun d r r' ⟨e, he, hrest⟩ hc hr => ⟨e, holds_congr he hc hr, hrest⟩) (fun d r hr => pump_bar hr)
    (bandCells b) s1 (nodup_bandCells b) (fun d hd => barDone_granted (v := 0) (hwait0 d hd) (fun e he => by
      obtain ⟨e', he', hy⟩ := hgrant d hd
      obtain rfl : e' = e := by simpa [he'] using he
      exact hy) hframe1)
  intro t
  have ht : t = (bandCells b).foldl (fun r d => r.pump d) s1 := hopen
  rw [ht]
  refine ⟨?_, fun d hd => ⟨(hpump d hd).1, fun e he => ?_⟩, fun d hd => by rw [hout2 d hd, hout1 d hd, hcell0]⟩
  · rw [hframe2, hframe1, ← hs0]
    exact Vector.getElem_set_self ..
  · obtain ⟨e', he', hy⟩ := hgrant d hd
    obtain rfl : e' = e := by rw [hcell0, he] at he'; simpa using he'.symm
    exact (hpump d hd).2 (goesOn e' 0) (by rw [hy])

/-- Settles O26: a barrier instruction arrives (`issue_arrives`), and the opening of a band's barrier lets its cells go on
one after the other (`foldl_cells`, `openBarrier_band`). -/
theorem barriers : Obligations.Barriers := by
  unfold Obligations.Barriers
  intro c s f k joins waits
  refine ⟨fun h hf => ⟨fun hfunc hnew => ?band, fun hfunc hnew => ?all⟩, fun h hf hen hnew => ?equinox,
    fun b harr hwait => ⟨_, rfl, openBarrier_band harr fun d hd => ⟨bandOf_bandCells b d hd, hwait d hd⟩⟩⟩
  case band =>
    have hev := evalBar_arrives (c := c) (s := s) (i := { op := .bar, f }) rfl hf (by simp [hfunc])
    rw [if_pos hfunc] at hev
    obtain ⟨e, hwin, hpc, hfault, hgen, hother, hframe, hsync⟩ :=
      issue_arrives h (fetched_short h rfl) plain_bar hev hnew
    exact ⟨_, e, rfl, hwin, hpc, hfault, hgen, hother, hframe, fun _ _ => hsync,
      fun _ h1 => absurd (hfunc.symm.trans h1) (by decide), nofun⟩
  case all =>
    have hev := evalBar_arrives (c := c) (s := s) (i := { op := .bar, f }) rfl hf (by simp [hfunc])
    rw [if_neg (by simp [hfunc])] at hev
    obtain ⟨e, hwin, hpc, hfault, hgen, hother, hframe, hsync⟩ :=
      issue_arrives h (fetched_short h rfl) plain_bar hev hnew
    exact ⟨_, e, rfl, hwin, hpc, hfault, hgen, hother, hframe,
      fun _ h0 => absurd (hfunc.symm.trans h0) (by decide), fun _ _ => hsync, nofun⟩
  case equinox =>
    obtain ⟨e, hwin, hpc, hfault, hgen, hother, hframe, hsync⟩ :=
      issue_arrives (k := .equinox) h (fetched_short h rfl) plain_eqnx
        (evalEqnx_arrives (i := { op := .eqnx, f }) rfl hf hen) hnew
    exact ⟨_, e, rfl, hwin, hpc, hfault, hgen, hother, hframe, nofun, nofun, fun _ => hsync⟩

end Sys2Proof.Proofs
end
section
/-! O29: reads of a present line. -/

namespace Sys2Proof.Proofs
open Sys2Proof Sys2Proof.Machine Sys2Proof.Laws

/-! ### Steps that only count -/

/-- State t is s with nothing but floor registers changed. -/
def Counted (s t : State) : Prop := t = { s with fregs := t.fregs }

theorem Counted.refl (s : State) : Counted s s := rfl
theorem Counted.trans {s t u : State} (h : Counted s t) (g : Counted t u) : Counted s u := by
  rw [Counted, g, h]
theorem counted_count (s : State) (a n : Nat) : Counted s (s.count a n) := rfl
theorem counted_countHit (s : State) (n : CellId) (cls : Fin 8) (hit : Bool) : Counted s (s.countHit n cls hit) := rfl

theorem counted_viaPath (s : State) (n : CellId) (w : Nat) : Counted s (s.viaPath n w) := by
  unfold State.viaPath State.countBypass
  split
  · rfl
  · split <;> rfl

/-- A frame read without an error counts none. -/
theorem counted_frameEccAt (s : State) (n : CellId) (la : Nat) : Counted s (s.frameEccAt n la {}) := rfl

theorem Counted.mem {s t : State} (h : Counted s t) : t.mem = s.mem := by rw [h]
theorem Counted.line {s t : State} (h : Counted s t) (la : Nat) : t.line la = s.line la := by rw [h]; rfl
theorem Counted.hostBlocks {s t : State} (h : Counted s t) (la : Nat) (w : Bool) :
    t.hostBlocks la w = s.hostBlocks la w := by rw [h]; rfl

/-! ### Steps that move lines -/

/-- State t is s with line la now as m says, lines of its set perhaps evicted, and host copies called back. -/
structure Moves (la : Nat) (m : Line → Prop) (s t : State) : Prop where
  line : m (t.line la)
  kept : ∀ lb, homeSet (lb * 256) ≠ homeSet (la * 256) → t.line lb = s.line lb
  frame : t = { s with
    mem := { s.mem with lines := t.mem.lines, lruTick := t.mem.lruTick }
    fregs := t.fregs, hs := { s.hs with snooped := t.hs.snooped } }

theorem Moves.whole {la : Nat} {m : Line → Prop} {s t : State} (h : Moves la m s t) :
    t = { s with mem := t.mem, fregs := t.fregs, hs := { s.hs with snooped := t.hs.snooped } } := by
  rw [h.frame]

theorem moves_of_stores {la : Nat} {m : Line → Prop} {s t : State} (h : Stores la m s t) : Moves la m s t :=
  ⟨h.line, h.kept, by rw [h.frame]⟩

theorem Moves.after {la : Nat} {m : Line → Prop} {s t u : State} (h : Moves la m t u) (g : Counted s t) :
    Moves la m s u := ⟨h.line, fun lb p => (h.kept lb p).trans (g.line lb), by rw [h.frame, g]⟩

theorem Moves.counted {la : Nat} {m : Line → Prop} {s t u : State} (h : Moves la m s t) (g : Counted t u) :
    Moves la m s u :=
  ⟨by rw [g.line]; exact h.line, fun lb p => (g.line lb).trans (h.kept lb p), by rw [g, h.frame]⟩

/-- What is said last of the line counts. -/
theorem Moves.trans {la : Nat} {m k : Line → Prop} {s t u : State} (h : Moves la m s t) (g : Moves la k t u) :
    Moves la k s u := ⟨g.line, fun lb p => (g.kept lb p).trans (h.kept lb p), by rw [g.frame, h.frame]⟩

theorem Moves.mono {la : Nat} {m k : Line → Prop} {s t : State} (h : Moves la m s t) (g : ∀ l, m l → k l) :
    Moves la k s t := ⟨g _ h.line, h.kept, h.frame⟩

theorem moves_counted {la : Nat} {s t : State} (h : Counted s t) : Moves la (· = s.line la) s t :=
  ⟨h.line la, fun lb _ => h.line lb, by rw [h]⟩

theorem hostBlocks_moves {la : Nat} {m : Line → Prop} {s t : State} (h : Moves la m s t) (lb : Nat) (w : Bool) :
    t.hostBlocks lb w = s.hostBlocks lb w := by rw [h.frame]; rfl

theorem ne_absent {l : Line} (h : l.st ≠ .i) : l ≠ {} := fun e => h (congrArg Line.st e)

/-- A line that is there is stored as given but for its scheme and place. -/
def StoredAs (l : Line) (m : Line) : Prop := ∃ g w k u, m = { l with scheme := g, way := w, slot := k, lru := u }

theorem moves_place (s : State) (la : Nat) (l : Line) (h : l.st ≠ .i) : Moves la (StoredAs l) s (s.place la l) :=
  moves_of_stores (stores_place s la l h)

theorem line_used (s : State) (la : Nat) (l : Line) (h : l.st ≠ .i) :
    (s.used la l).line la = { l with lru := s.mem.lruTick + 1 } :=
  line_setLine_self _ _ _ (.inl (ne_absent h))

theorem line_used_other (s : State) {la lb : Nat} (l : Line) (h : lb ≠ la) : (s.used la l).line lb = s.line lb :=
  line_setLine_other _ _ h

theorem moves_used (s : State) (la : Nat) (l : Line) (h : l.st ≠ .i) :
    Moves la (· = { l with lru := s.mem.lruTick + 1 }) s (s.used la l) :=
  ⟨line_used s la l h, fun _ hb => line_used_other s l (fun e => hb (by rw [e])), rfl⟩

/-! ### A request at the home of a present line -/

section
variable {s : State} {la : Nat} {cls : Fin 8} {tck whole : Bool}

theorem drain_still (hst : (s.line la).st ≠ .a) (hheld : (s.line la).held = []) : s.drain la = s := by
  rw [State.drain, hheld]
  show (if (s.line la).st == .a then _ else s) = s
  rw [if_neg (by simpa using hst)]

theorem bringHome_home (h : (s.line la).st ≠ .m) : s.bringHome la = s := by
  rw [State.bringHome, if_neg (by simpa using h)]

theorem homeArrive_present (hi : (s.line la).st ≠ .i) (ha : (s.line la).st ≠ .a) (hheld : (s.line la).held = []) :
    s.homeArrive la cls tck whole = ((s.countHit (homeSlice (la * 256)) cls (!s.absent la)).bringHome la).homePath
      la := by
  have habs : (s.countHit (homeSlice (la * 256)) cls (!s.absent la)).absent la = false := by
    simpa [State.absent, State.line, State.countHit] using hi
  rw [State.homeArrive]
  simp only [habs, Bool.false_eq_true, if_false]
  rw [drain_still (by exact ha) (by exact hheld)]

/-- A line that nobody holds modified is as it was when the request has arrived. -/
theorem counted_homeArrive (hi : (s.line la).st ≠ .i) (ha : (s.line la).st ≠ .a) (hm : (s.line la).st ≠ .m)
    (hheld : (s.line la).held = []) : Counted s (s.homeArrive la cls tck whole) := by
  rw [homeArrive_present hi ha hheld, bringHome_home (by exact hm)]
  exact (counted_countHit s _ _ _).trans (counted_viaPath _ _ _)

/-- A modified one has been brought home. -/
theorem moves_homeArrive (hm : (s.line la).st = .m) (hheld : (s.line la).held = []) :
    Moves la (StoredAs { s.line la with st := .s }) s (s.homeArrive la cls tck whole) := by
  rw [homeArrive_present (by rw [hm]; nofun) (by rw [hm]; nofun) hheld]
  refine Moves.counted ?_ (counted_viaPath _ _ _)
  refine Moves.after ?_ (counted_countHit s (homeSlice (la * 256)) cls (!s.absent la))
  have hm' : ((s.countHit (homeSlice (la * 256)) cls (!s.absent la)).line la).st = .m := hm
  rw [State.bringHome, if_pos (by simp [hm'])]
  exact moves_place _ la { s.line la with st := .s } nofun

/-- Either way the line is present, with its bytes, as its home has it. -/
theorem arrived_homeArrive (hi : (s.line la).st ≠ .i) (ha : (s.line la).st ≠ .a) (hheld : (s.line la).held = []) :
    Moves la (StoredAs { s.line la with st := if (s.line la).st = .m then .s else (s.line la).st }) s
      (s.homeArrive la cls tck whole) := by
  by_cases hm : (s.line la).st = .m
  · rw [if_pos hm]
    exact moves_homeArrive hm hheld
  · rw [if_neg hm]
    exact (moves_counted (counted_homeArrive hi ha hm hheld)).mono fun l hl => ⟨_, _, _, _, hl⟩

end

/-! ### The transaction -/

section
variable {s : State} {pa n : Nat} {r : MissReq} {write : Bool} {now : State → State}

/-- A request that nothing keeps waiting is served at once. -/
theorem transact_served (hi : (s.line (pa / 256)).st ≠ .i) (hbusy : s.lineBusy (pa / 256) write = false)
    (hframe : s.frameWait (pa / 256) (r.near (pa / 256)) = false) :
    ∃ s', Counted s s' ∧ s.transact (pa / 256) write {} r now = now s' := by
  refine ⟨_, counted_frameEccAt s (s.servedAt (pa / 256) r) (pa / 256), ?_⟩
  rw [State.transact, if_neg]
  simpa [hbusy, hframe, State.absent] using hi

theorem Line.read_congr {l m : Line} (hd : m.data = l.data) (hp : m.poison = l.poison) (off k : Nat) :
    m.read off k = l.read off k := by rw [Line.read, Line.read, hd, hp]

/-- A read that returns the bytes of line la and marks it as used, as m. -/
def ServedRead (s : State) (pa n : Nat) (m : Line) (t : State) : Prop :=
  (∀ lb, lb ≠ pa / 256 → t.line lb = s.line lb) ∧ t.line (pa / 256) = m ∧
    t = { s with mem := { s.mem with lines := t.mem.lines, lruTick := s.mem.lruTick + 1 }
                 fregs := t.fregs, hs := { s.hs with reply := .data ((s.line (pa / 256)).read (pa % 256) n) } }

theorem ServedRead.after {s' t : State} {m : Line} (h : ServedRead s' pa n m t) (g : Counted s s') :
    ServedRead s pa n m t := by
  obtain ⟨hother, hline, hframe⟩ := h
  refine ⟨fun lb hb => (hother lb hb).trans (g.line lb), hline, ?_⟩
  rw [hframe, g.line, g]

theorem servedRead_used {s' : State} {l : Line} (h : Counted s s') (hl : l.st ≠ .i) :
    ServedRead s pa n { l with lru := s.mem.lruTick + 1 }
      ((s'.used (pa / 256) l).answer (.data ((s.line (pa / 256)).read (pa % 256) n))) := by
  refine ⟨fun lb hb => (line_used_other s' l hb).trans (h.line lb), ?_, ?_⟩
  · exact (line_used s' (pa / 256) l hl).trans (by rw [h.mem])
  · rw [h]; rfl

/-- A read of a line whose modified copy has first been brought home, which is then as m says. -/
def MovedRead (s : State) (pa n : Nat) (m : Line → Prop) (t : State) : Prop :=
  (∀ lb, homeSet (lb * 256) ≠ homeSet (pa / 256 * 256) → t.line lb = s.line lb) ∧ m (t.line (pa / 256)) ∧
    t = { s with mem := t.mem, fregs := t.fregs, free := t.free
                 hs := { s.hs with snooped := t.hs.snooped, reply := .data ((s.line (pa / 256)).read (pa % 256) n) } }

theorem MovedRead.after {s' t : State} {m : Line → Prop} (h : MovedRead s' pa n m t) (g : Counted s s') :
    MovedRead s pa n m t := by
  obtain ⟨hother, hline, hframe⟩ := h
  refine ⟨fun lb hb => (hother lb hb).trans (g.line lb), hline, ?_⟩
  rw [hframe, g.line, g]

theorem movedRead_of_moves {t : State} {m : Line → Prop} {bs : List PByte} (h : Moves (pa / 256) m s t)
    (hbs : bs = (s.line (pa / 256)).read (pa % 256) n) : MovedRead s pa n m (t.answer (.data bs)) := by
  refine ⟨h.kept, h.line, ?_⟩
  have hfree : t.free = s.free := by rw [h.frame]
  rw [hbs, State.answer, hfree]
  conv => lhs; rw [h.whole]

/-! ### Home reads -/

theorem homeRead_served (hi : (s.line (pa / 256)).st ≠ .i) (ha : (s.line (pa / 256)).st ≠ .a)
    (hm : (s.line (pa / 256)).st ≠ .m) (hheld : (s.line (pa / 256)).held = []) (cls : Fin 8) :
    let r := s.homeRead (pa / 256) (pa % 256) n cls false
    ServedRead s pa n { s.line (pa / 256) with lru := s.mem.lruTick + 1 } (r.1.answer (.data r.2)) := by
  have h := counted_homeArrive (cls := cls) (tck := false) (whole := false) hi ha hm hheld
  simp only [State.homeRead, h.line]
  exact servedRead_used h hi

theorem homeRead_moved (hm : (s.line (pa / 256)).st = .m) (hheld : (s.line (pa / 256)).held = []) (cls : Fin 8) :
    let r := s.homeRead (pa / 256) (pa % 256) n cls false
    MovedRead s pa n (StoredAs { s.line (pa / 256) with st := .s }) (r.1.answer (.data r.2)) := by
  have h := moves_homeArrive (cls := cls) (tck := false) (whole := false) hm hheld
  obtain ⟨g, w, k, u, hl⟩ := h.line
  simp only [State.homeRead]
  refine movedRead_of_moves ((h.trans (moves_used _ _ _ (by rw [hl]; nofun))).mono fun l e => ?_)
    (Line.read_congr (by rw [hl]) (by rw [hl]) _ _)
  rw [e, hl]
  exact ⟨_, _, _, _, rfl⟩

/-! ### Coherent reads -/

variable {c : CellId}

theorem cohRead_home_served (hhome : homeSlice (pa / 256 * 256) = c) (hi : (s.line (pa / 256)).st ≠ .i)
    (ha : (s.line (pa / 256)).st ≠ .a) (hm : (s.line (pa / 256)).st ≠ .m) (hheld : (s.line (pa / 256)).held = []) :
    let r := s.cohRead c (pa / 256) (pa % 256) n false
    ServedRead s pa n { s.line (pa / 256) with st := .s, lru := s.mem.lruTick + 1 } (r.1.answer (.data r.2)) := by
  have h := counted_homeArrive (cls := 0) (tck := false) (whole := false) hi ha hm hheld
  have hst : (if (s.line (pa / 256)).st == .e then LState.s else (s.line (pa / 256)).st) = .s := by
    cases hs : (s.line (pa / 256)).st with
    | i => exact absurd hs hi
    | a => exact absurd hs ha
    | m => exact absurd hs hm
    | e | s => rfl
  simp only [State.cohRead, hhome, if_true, h.line, hst]
  exact servedRead_used h nofun

theorem cohRead_home_moved (hhome : homeSlice (pa / 256 * 256) = c) (hm : (s.line (pa / 256)).st = .m)
    (hheld : (s.line (pa / 256)).held = []) :
    let r := s.cohRead c (pa / 256) (pa % 256) n false
    MovedRead s pa n (StoredAs { s.line (pa / 256) with st := .s }) (r.1.answer (.data r.2)) := by
  have h := moves_homeArrive (cls := 0) (tck := false) (whole := false) hm hheld
  obtain ⟨g, w, k, u, hl⟩ := h.line
  simp only [State.cohRead, hhome, if_true]
  refine movedRead_of_moves ((h.trans (moves_used _ _ _ (by rw [hl]; nofun))).mono fun l e => ?_)
    (Line.read_congr (by rw [hl]) (by rw [hl]) _ _)
  rw [e, hl]
  exact ⟨_, _, _, _, rfl⟩

/-- A line read from the near copy of cell c. -/
def nearUsed (l : Line) (c : CellId) (tick : Nat) : Line :=
  { l with near := l.near.map (fun k => if k.cell = c then { k with lru := tick } else k) }

theorem cohRead_near (hfar : homeSlice (pa / 256 * 256) ≠ c) (hi : (s.line (pa / 256)).st ≠ .i)
    (hholds : (s.line (pa / 256)).holds c = true) :
    let r := s.cohRead c (pa / 256) (pa % 256) n false
    ServedRead s pa n (nearUsed (s.line (pa / 256)) c (s.mem.lruTick + 1)) (r.1.answer (.data r.2)) := by
  obtain ⟨k, hk⟩ : ∃ k, (s.line (pa / 256)).near.find? (fun k => k.cell == c) = some k := by
    rw [← Option.isSome_iff_exists, List.find?_isSome]
    simpa [Line.holds] using hholds
  simp only [State.cohRead, if_neg hfar, hk]
  have h : Counted s ((s.countHit c 0 true).viaPath c k.way) := (counted_countHit s _ _ _).trans (counted_viaPath _ _ _)
  refine ⟨fun lb hb => (line_setLine_other _ _ hb).trans (h.line lb), ?_, ?_⟩
  · refine (line_setLine_self _ _ _ (.inl (ne_absent ?_))).trans ?_
    · exact (congrArg Line.st (h.line _)).trans_ne hi
    · show nearUsed (State.line _ _) c _ = _
      rw [line_lruTick, h.line, h.mem]
  · rw [h]; rfl

/-- The state of a line that a cell without a copy has read: exclusive where it is the only holder. -/
def readState (s : State) (la : Nat) : LState :=
  if (s.line la).st = .s ∧ (s.line la).noHolder = true ∧ s.hostBlocks la true = [] then .e else .s

theorem cohRead_far (hfar : homeSlice (pa / 256 * 256) ≠ c) (hi : (s.line (pa / 256)).st ≠ .i)
    (ha : (s.line (pa / 256)).st ≠ .a) (hheld : (s.line (pa / 256)).held = [])
    (hholds : (s.line (pa / 256)).holds c = false) :
    let r := s.cohRead c (pa / 256) (pa % 256) n false
    MovedRead s pa n (fun m => ∃ k g w p u, k.cell = c ∧ m = { s.line (pa / 256) with
      st := readState s (pa / 256), holders := (s.line (pa / 256)).holders.add c
      near := (s.line (pa / 256)).near ++ [k], scheme := g, way := w, slot := p, lru := u })
      (r.1.answer (.data r.2)) := by
  have hnone : (s.line (pa / 256)).near.find? (fun k => k.cell == c) = none := by
    simpa [Line.holds] using hholds
  have hkeep : (s.line (pa / 256)).near.filter (fun k => k.cell != c) = (s.line (pa / 256)).near := by
    simpa [Line.holds, List.filter_eq_self] using hholds
  have h := arrived_homeArrive (cls := 0) (tck := false) (whole := false) hi ha hheld
  obtain ⟨g, w, k, u, hl⟩ := h.line
  have hst : (if ((s.line (pa / 256)).st == .i || (s.line (pa / 256)).st == .a ||
      (s.line (pa / 256)).st == .s && (s.line (pa / 256)).noHolder) &&
      (s.homeArrive (pa / 256) 0 false false).hostBlocks (pa / 256) true == [] then LState.e else .s) =
        readState s (pa / 256) := by
    rw [hostBlocks_moves h, readState]
    refine if_congr ?_ rfl rfl
    simp [hi, ha, and_assoc]
  simp only [State.cohRead, if_neg hfar, hnone, hst]
  have hne : readState s (pa / 256) ≠ .i := by unfold readState; split <;> nofun
  have hused := moves_used (s.homeArrive (pa / 256) 0 false false) (pa / 256)
    { (s.homeArrive (pa / 256) 0 false false).line (pa / 256) with
      st := readState s (pa / 256)
      holders := ((s.homeArrive (pa / 256) 0 false false).line (pa / 256)).holders.add c } hne
  have hnear := moves_of_stores (stores_placeNear _ c (pa / 256) ((congrArg Line.st hused.line).trans_ne hne))
  refine movedRead_of_moves (((h.trans hused).trans hnear).mono ?_) (Line.read_congr (by rw [hl]) (by rw [hl]) _ _)
  rintro l ⟨k', hk', rfl⟩
  rw [hused.line, hl]
  exact ⟨k', g, w, k, (s.homeArrive (pa / 256) 0 false false).mem.lruTick + 1, hk',
    congrArg (fun q => ({ s.line (pa / 256) with
      st := readState s (pa / 256), holders := (s.line (pa / 256)).holders.add c, near := q ++ [k'], scheme := g
      way := w, slot := k, lru := (s.homeArrive (pa / 256) 0 false false).mem.lruTick + 1 } : Line)) hkeep⟩

end

/-- Settles O29: a request that nothing keeps waiting is served at once (`transact_served`), at the home
(`homeRead_served`, `homeRead_moved`, `cohRead_home_served`, `cohRead_home_moved`), from the cell's own near copy
(`cohRead_near`), or leaving one (`cohRead_far`). -/
theorem lineReads : Obligations.LineReads := by
  unfold Obligations.LineReads
  intro s pa n cls a c la l far served moves hon hpart hi ha hbusy hheld hframe
  have hrun : (!s.mainOn || !linePart pa n) = false := by
    rw [hpart, show s.mainOn = true from hon]; rfl
  have hread : ∃ s', Counted s s' ∧ exec (.homeRead a pa n cls {}) s = .next
      (let r := s'.homeRead la (pa % 256) n cls false; r.1.answer (.data r.2)) := by
    obtain ⟨s', hs', ht⟩ := transact_served (r := .homeRead a cls (pa % 256) n) (write := false)
      (now := fun s => let r := s.homeRead (pa / 256) (pa % 256) n cls false; r.1.answer (.data r.2)) hi hbusy hframe
    exact ⟨s', hs', (if_neg (by rw [hrun]; nofun)).trans (congrArg Host.Outcome.next ht)⟩
  have hcoh : s.frameWait la ((MissReq.coherentRead c (pa % 256) n).near la) = false →
      ∃ s', Counted s s' ∧ exec (.coherentRead c pa n {}) s = .next
        (let r := s'.cohRead c la (pa % 256) n false; r.1.answer (.data r.2)) := fun hnear => by
    obtain ⟨s', hs', ht⟩ := transact_served (r := .coherentRead c (pa % 256) n) (write := false)
      (now := fun s => let r := s.cohRead c (pa / 256) (pa % 256) n false; r.1.answer (.data r.2)) hi hbusy hnear
    exact ⟨s', hs', (if_neg (by rw [hrun]; nofun)).trans (congrArg Host.Outcome.next ht)⟩
  have hnearHome : ¬ far → (MissReq.coherentRead c (pa % 256) n).near la = none := fun h => if_pos (not_not.1 h)
  have hnearFar : far → (MissReq.coherentRead c (pa % 256) n).near la = some c := fun h => if_neg h
  refine ⟨fun hm => ⟨?home, fun hfar => ?own⟩, fun hm i hi' => ?modified, fun hfar hframe' =>
    ⟨fun hholds => ?near, fun hholds => ?far⟩⟩
  case home =>
    obtain ⟨s', hs, ht⟩ := hread
    have hl := hs.line la
    have h := homeRead_served (s := s') (pa := pa) (n := n) (by rw [hl]; exact hi) (by rw [hl]; exact ha)
      (by rw [hl]; exact hm) (by rw [hl]; exact hheld) cls
    rw [hl, hs.mem] at h
    exact ⟨_, ht, h.after hs⟩
  case own =>
    obtain ⟨s', hs, ht⟩ := hcoh (by rw [hnearHome hfar]; exact hframe)
    have hl := hs.line la
    have h := cohRead_home_served (s := s') (pa := pa) (n := n) (not_not.1 hfar) (by rw [hl]; exact hi)
      (by rw [hl]; exact ha) (by rw [hl]; exact hm) (by rw [hl]; exact hheld)
    rw [hl, hs.mem] at h
    exact ⟨_, ht, h.after hs⟩
  case modified =>
    rcases hi' with rfl | ⟨hfar, rfl⟩
    · obtain ⟨s', hs, ht⟩ := hread
      have hl := hs.line la
      have h := homeRead_moved (s := s') (pa := pa) (n := n) (by rw [hl]; exact hm) (by rw [hl]; exact hheld) cls
      rw [hl] at h
      exact ⟨_, ht, h.after hs⟩
    · obtain ⟨s', hs, ht⟩ := hcoh (by rw [hnearHome hfar]; exact hframe)
      have hl := hs.line la
      have h := cohRead_home_moved (s := s') (pa := pa) (n := n) (not_not.1 hfar) (by rw [hl]; exact hm)
        (by rw [hl]; exact hheld)
      rw [hl] at h
      exact ⟨_, ht, h.after hs⟩
  case near =>
    obtain ⟨s', hs, ht⟩ := hcoh (by rw [hnearFar hfar]; exact hframe')
    have hl := hs.line la
    have h := cohRead_near (s := s') (pa := pa) (n := n) hfar (by rw [hl]; exact hi) (by rw [hl]; exact hholds)
    rw [hl, hs.mem] at h
    exact ⟨_, ht, h.after hs⟩
  case far =>
    obtain ⟨s', hs, ht⟩ := hcoh (by rw [hnearFar hfar]; exact hframe')
    have hl := hs.line la
    have h := cohRead_far (s := s') (pa := pa) (n := n) hfar (by rw [hl]; exact hi) (by rw [hl]; exact ha)
      (by rw [hl]; exact hheld) (by rw [hl]; exact hholds)
    rw [readState, hl, hs.hostBlocks] at h
    exact ⟨_, ht, h.after hs⟩

end Sys2Proof.Proofs
end
section
/-! O30: writes of a present line. -/

namespace Sys2Proof.Proofs
open Sys2Proof Sys2Proof.Machine Sys2Proof.Laws

/-! ### Bytes of a line -/

theorem leBytes_congr : ∀ {n x y : Nat}, x % 2 ^ (8 * n) = y % 2 ^ (8 * n) → leBytes n x = leBytes n y
  | 0, _, _, _ => rfl
  | n + 1, x, y, h => by
    have hsplit : 2 ^ (8 * (n + 1)) = 256 * 2 ^ (8 * n) := by rw [Nat.mul_succ, Nat.pow_add, Nat.mul_comm]
    rw [hsplit] at h
    have hlow : x % 256 = y % 256 := by
      rw [← Nat.mod_mul_right_mod x 256 (2 ^ (8 * n)), h, Nat.mod_mul_right_mod]
    have hhigh : x / 256 % 2 ^ (8 * n) = y / 256 % 2 ^ (8 * n) := by
      rw [← Nat.mod_mul_right_div_self, h, Nat.mod_mul_right_div_self]
    rw [leBytes, leBytes, leBytes_congr hhigh]
    congr 1
    exact BitVec.eq_of_toNat_eq (by simpa using hlow)

theorem leBytes_leNat : ∀ bs : List Byte, leBytes bs.length (leNat bs) = bs
  | [] => rfl
  | b :: bs => by
    have hb := b.isLt
    have hhead : BitVec.ofNat 8 (b.toNat + 256 * leNat bs) = b :=
      BitVec.eq_of_toNat_eq (by rw [BitVec.toNat_ofNat]; omega)
    have htail : (b.toNat + 256 * leNat bs) / 256 = leNat bs := by omega
    rw [List.length_cons, leBytes, leNat, hhead, htail, leBytes_leNat bs]

theorem withPoison_clean : ∀ (a : Nat) (bs : List Byte), withPoison [] a bs = clean bs
  | _, [] => rfl
  | a, b :: bs => congrArg ((b, false) :: ·) (withPoison_clean (a + 1) bs)

/-- Clean bytes leave nothing poisoned that was not. -/
theorem poisonAfter_clean (a : Nat) (bs : List Byte) : poisonAfter [] a (clean bs) = [] := by
  unfold poisonAfter
  refine List.foldl_fixed' (fun i => ?_) _
  have hgood : ∀ p q, anyBad ((List.drop p (clean bs)).take q) = false := fun p q => by
    rw [anyBad, List.any_eq_false]
    intro e he
    obtain ⟨b, -, rfl⟩ := List.mem_map.1 (List.mem_of_mem_drop (List.mem_of_mem_take he))
    exact Bool.false_ne_true
  simp only [hgood, Bool.false_eq_true, if_false]
  exact ite_self _

/-- A line whose sectors are all good reads, where bytes have been written, as written. -/
theorem read_put {l : Line} {off : Nat} {bs : List Byte} (hp : l.poison = []) (hne : bs ≠ [])
    (hin : off + bs.length ≤ 256) : (l.put off (clean bs)).read off bs.length = clean bs := by
  have hlen : 0 < bs.length := List.length_pos_of_ne_nil hne
  rw [Line.put, if_neg (by simpa [clean] using hne), Line.read]
  simp only [hp, poisonAfter_clean, withPoison_clean, plain_clean, length_clean]
  congr 1
  refine (leBytes_congr ?_).trans (leBytes_leNat bs)
  refine Nat.eq_of_testBit_eq fun i => ?_
  rw [Nat.testBit_mod_two_pow, Nat.testBit_mod_two_pow, Nat.testBit_shiftRight, BitVec.toNat_ofNat,
    Nat.testBit_mod_two_pow, testBit_putBits]
  by_cases hi : i < 8 * bs.length
  · have h1 : 8 * off + i < 2048 := by omega
    have h2 : 8 * off ≤ 8 * off + i ∧ 8 * off + i ≤ 8 * (off + bs.length) - 1 := by omega
    simp [hi, h1, h2]
  · simp [hi]

/-! ### The line that a write leaves -/

/-- Line l with bytes written by agent w, in state st and held by the cells h, in some scheme and place. -/
def WrittenAs (l : Line) (off : Nat) (bs : List PByte) (st : LState) (h : List CellId) (w : Agent) (m : Line) : Prop :=
  ∃ g y p k near, m = { l.put off bs with
    st, holders := .cells h, near, dirty := true, writer := some w, scheme := g, way := y, slot := p, lru := k } ∧
    near.map (fun (n : Near) => n.cell) = h

section
variable {s : State} {la off : Nat} {bs : List PByte} {cls : Fin 8} {a : Agent} {c : CellId}

/-- The bytes are those of line l, whatever its state and its place. -/
theorem writtenAs_of_arrived {l m : Line} {st : LState} {w : Agent} (h : ∃ st, StoredAs { l with st } m) (hst : st ≠ .i)
    (t : State) : Moves la (WrittenAs l off bs st [] w) t
      (t.place la { (m.put off bs).alone with st, dirty := true, writer := some w }) := by
  obtain ⟨st', g, y, p, k, rfl⟩ := h
  refine (moves_place t la _ hst).mono fun n hn => ?_
  obtain ⟨g', y', p', k', rfl⟩ := hn
  refine ⟨g', y', p', k', [], ?_, rfl⟩
  unfold Line.put Line.alone
  split <;> rfl

theorem arrived_line (hi : (s.line la).st ≠ .i) (ha : (s.line la).st ≠ .a) (hheld : (s.line la).held = []) (whole :
    Bool) :
    Moves la (fun m => ∃ st, StoredAs { s.line la with st } m) s (s.homeArrive la cls false whole) :=
  (arrived_homeArrive hi ha hheld).mono fun _ h => ⟨_, h⟩

theorem moves_homeWrite (hi : (s.line la).st ≠ .i) (ha : (s.line la).st ≠ .a) (hheld : (s.line la).held = []) :
    Moves la (WrittenAs (s.line la) off bs .s [] a) s (s.homeWrite a la off bs cls false) := by
  have h := arrived_line (cls := cls) hi ha hheld (off = 0 && bs.length = 256)
  exact h.trans (writtenAs_of_arrived (st := .s) h.line nofun _)

theorem moves_cohWrite_home (hhome : homeSlice (la * 256) = c) (hi : (s.line la).st ≠ .i) (ha : (s.line la).st ≠ .a)
    (hheld : (s.line la).held = []) :
    Moves la (WrittenAs (s.line la) off bs .s [] (.cell c)) s (s.cohWrite c la off bs false) := by
  have h := arrived_line (cls := 0) hi ha hheld false
  rw [State.cohWrite, if_pos hhome]
  exact h.trans (writtenAs_of_arrived (st := .s) h.line nofun _)

/-- Where a write from elsewhere finds the line: in the cell's own near copy, or at the home. -/
def farFound (s : State) (c : CellId) (la : Nat) : State :=
  match (s.line la).near.find? (fun k => k.cell == c && ((s.line la).st == .e || (s.line la).st == .m)) with
  | some k => (s.countHit c 0 true).viaPath c k.way
  | none => (s.homeArrive la 0 false false).used la ((s.homeArrive la 0 false false).line la)

theorem moves_farFound (hi : (s.line la).st ≠ .i) (ha : (s.line la).st ≠ .a) (hheld : (s.line la).held = []) :
    Moves la (fun m => m.st ≠ .i ∧ ∃ st, StoredAs { s.line la with st } m) s (farFound s c la) := by
  unfold farFound
  split
  · refine (moves_counted ((counted_countHit s c 0 true).trans (counted_viaPath _ _ _))).mono ?_
    rintro m rfl
    exact ⟨hi, (s.line la).st, _, _, _, _, rfl⟩
  · have h := arrived_homeArrive (cls := 0) (tck := false) (whole := false) hi ha hheld
    obtain ⟨g, y, p, k, hl⟩ := h.line
    have hst : ((s.homeArrive la 0 false false).line la).st ≠ .i := by
      rw [hl]
      show (if (s.line la).st = .m then LState.s else (s.line la).st) ≠ .i
      split
      · nofun
      · exact hi
    refine (h.trans (moves_used _ la _ hst)).mono ?_
    rintro m rfl
    refine ⟨hst, (if (s.line la).st = .m then LState.s else (s.line la).st), g, y, p, _, by rw [hl]⟩

theorem moves_setLine (s : State) (la : Nat) (l : Line) (h : l.st ≠ .i) : Moves la (· = l) s (s.setLine la l) :=
  ⟨line_setLine_self _ _ _ (.inl (ne_absent h)), fun _ hb => line_setLine_other _ _ (fun e => hb (by rw [e])), rfl⟩

theorem moves_cohWrite_far (hfar : homeSlice (la * 256) ≠ c) (hi : (s.line la).st ≠ .i) (ha : (s.line la).st ≠ .a)
    (hheld : (s.line la).held = []) :
    Moves la (WrittenAs (s.line la) off bs .m [c] (.cell c)) s (s.cohWrite c la off bs false) := by
  have hfound := moves_farFound (c := c) hi ha hheld
  have heq : s.cohWrite c la off bs false = ((farFound s c la).setLine la
      { ((farFound s c la).line la).put off bs with
        st := .m, holders := .cells [c], near := ((farFound s c la).line la).near.filter (fun k => k.cell == c)
        dirty := true, writer := some (.cell c) }).placeNear c la := by
    rw [State.cohWrite, if_neg hfar]
    rfl
  obtain ⟨-, st, g, y, p, k, hl⟩ := hfound.line
  rw [heq]
  generalize farFound s c la = t at hfound hl
  have hset := moves_setLine t la { (t.line la).put off bs with
    st := .m, holders := .cells [c], near := (t.line la).near.filter (fun k => k.cell == c), dirty := true
    writer := some (.cell c) } nofun
  have hnear := moves_of_stores (stores_placeNear _ c la ((congrArg Line.st hset.line).trans_ne nofun))
  refine ((hfound.trans hset).trans hnear).mono ?_
  rintro m ⟨k', hk', rfl⟩
  rw [hset.line]
  have hnone : ((t.line la).near.filter (fun k => k.cell == c)).filter (fun k => k.cell != c) = [] := by
    rw [List.filter_filter, List.filter_eq_nil_iff]
    simp
  refine ⟨g, y, p, k, [k'], ?_, by rw [← hk']; rfl⟩
  refine (congrArg (fun q => ({ (t.line la).put off bs with
    st := .m, holders := .cells [c], near := q ++ [k'], dirty := true, writer := some (.cell c) } : Line))
      hnone).trans ?_
  rw [hl]
  unfold Line.put
  split <;> rfl

end

/-! ### The write and a read after it -/

theorem hostBlocks_read {s : State} {la : Nat} (h : s.hostBlocks la true = []) : s.hostBlocks la false = [] := by
  simp only [State.hostBlocks, List.map_eq_nil_iff, List.filter_eq_nil_iff] at h ⊢
  intro b hb hc
  refine h b hb ?_
  simp only [Bool.and_eq_true, Bool.true_or] at hc ⊢
  exact ⟨hc.1, trivial⟩

/-- A write that moves nothing else keeps the line free for a read. -/
theorem lineBusy_moves {s t : State} {la off : Nat} {bs : List PByte} {st : LState} {h : List CellId} {w : Agent}
    (hm : Moves la (WrittenAs (s.line la) off bs st h w) s t) (hbusy : s.lineBusy la true = false) :
    t.lineBusy la false = false := by
  have hblocks := hostBlocks_moves hm la false
  obtain ⟨g, y, p, k, near, hl, -⟩ := hm.line
  have hq : t.queued la = s.queued la := by rw [hm.frame]; rfl
  have hmiss : t.mem.miss = s.mem.miss := by rw [hm.frame]
  have hput : ((s.line la).put off bs).leaving = (s.line la).leaving ∧
      ((s.line la).put off bs).epoch = (s.line la).epoch := by
    unfold Line.put
    split <;> exact ⟨rfl, rfl⟩
  simp only [State.lineBusy, Bool.or_eq_false_iff, bne_eq_false_iff_eq] at hbusy ⊢
  obtain ⟨⟨⟨⟨hleaving, hepoch⟩, hm'⟩, hqueue⟩, hhost⟩ := hbusy
  rw [hblocks, hq, hmiss, hl]
  exact ⟨⟨⟨⟨hput.1.trans hleaving, by rw [← hepoch, ← hput.2]⟩, hm'⟩, hqueue⟩, hostBlocks_read hhost⟩

/-- A home read of a present line that nothing keeps it from returns the bytes of the line. -/
theorem homeRead_reply {s : State} {pa n : Nat} {cls : Fin 8} {r : Agent} (hon : s.dev.mainOn = true)
    (hpart : linePart pa n = true) (hi : (s.line (pa / 256)).st ≠ .i) (ha : (s.line (pa / 256)).st ≠ .a)
    (hheld : (s.line (pa / 256)).held = []) (hbusy : s.lineBusy (pa / 256) false = false)
    (hframe : s.frameWait (pa / 256) none = false) :
    ∃ u, exec (.homeRead r pa n cls {}) s = .next u ∧ u.hs.reply = .data ((s.line (pa / 256)).read (pa % 256) n) := by
  obtain ⟨s', hs, ht⟩ := transact_served (r := .homeRead r cls (pa % 256) n) (write := false)
    (now := fun s => let q := s.homeRead (pa / 256) (pa % 256) n cls false; q.1.answer (.data q.2)) hi hbusy hframe
  have hrun : (!s.mainOn || !linePart pa n) = false := by
    rw [hpart, show s.mainOn = true from hon]; rfl
  refine ⟨_, (if_neg (by rw [hrun]; nofun)).trans (congrArg Host.Outcome.next ht), ?_⟩
  have hl := hs.line (pa / 256)
  rw [← hl] at hi ha hheld ⊢
  obtain ⟨g, y, p, k, hq⟩ := (arrived_homeArrive (cls := cls) (tck := false) (whole := false) hi ha hheld).line
  exact congrArg Reply.data (Line.read_congr (by rw [hq]) (by rw [hq]) _ _)

theorem not_mem_run {s : State} {pa n : Nat} (hon : s.dev.mainOn = true) (hpart : linePart pa n = true) :
    ¬ (!s.mainOn || !linePart pa n) = true := by
  rw [hpart, show s.mainOn = true from hon]
  nofun

/-- Settles O30: the line is as written (`moves_homeWrite`, `moves_cohWrite_home`, `moves_cohWrite_far`), and a read
of it returns the bytes (`homeRead_reply`, `read_put`). -/
theorem lineWrites : Obligations.LineWrites := by
  unfold Obligations.LineWrites
  intro s pa bytes cls a c la l bs served hon hpart hi ha hbusy hheld hframe
  have hpart' := hpart
  simp only [linePart, Bool.and_eq_true, decide_eq_true_eq] at hpart'
  obtain ⟨⟨-, hlen⟩, hin⟩ := hpart'
  have hserved : ∀ (i : Instr) (st : LState) (h : List CellId) (w : Agent) (F : State → State),
      (st = .s ∨ st = .m) →
      (∃ s', Counted s s' ∧ exec i s = .next (F s')) →
      (∀ s', (s'.line la).st ≠ .i → (s'.line la).st ≠ .a → (s'.line la).held = [] →
        Moves la (WrittenAs (s'.line la) (pa % 256) bs st h w) s' (F s')) → served i st h w := by
    rintro i st h w F hst ⟨s', hs, ht⟩ hF
    have hl := hs.line la
    have hmv := (hF s' (by rw [hl]; exact hi) (by rw [hl]; exact ha) (by rw [hl]; exact hheld)).after hs
    rw [hl] at hmv
    obtain ⟨g, y, p, k, near, hline, hnear⟩ := hmv.line
    refine ⟨_, g, y, p, k, near, ht, hline, hnear, hmv.kept, hmv.whole, fun hpoison hfw r => ?_⟩
    have hpart2 : (F s').dev.mainOn = true := by rw [hmv.frame]; exact hon
    have hputs : (l.put (pa % 256) bs).held = l.held := by unfold Line.put; split <;> rfl
    obtain ⟨u, hu, hreply⟩ := homeRead_reply (cls := cls) (r := r) hpart2 hpart
      (by rw [hline]; rcases hst with rfl | rfl <;> nofun) (by rw [hline]; rcases hst with rfl | rfl <;> nofun)
      (by rw [hline]; exact hputs.trans hheld) (lineBusy_moves hmv hbusy) hfw
    refine ⟨u, hu, hreply.trans (congrArg Reply.data ?_)⟩
    refine (Line.read_congr (l := l.put (pa % 256) bs) (by rw [hline]) (by rw [hline]) _ _).trans ?_
    exact read_put hpoison (List.ne_nil_of_length_pos hlen) hin
  have htransact : ∀ (r : MissReq) (now : State → State), s.frameWait la (r.near la) = false →
      ∃ s', Counted s s' ∧ Host.Outcome.next (s.transact la true {} r now) =
        (Host.Outcome.next (now s') : Out) := fun r now hnear => by
    obtain ⟨s', hs, ht⟩ := transact_served (r := r) (now := now) hi hbusy hnear
    exact ⟨s', hs, congrArg _ ht⟩
  refine ⟨?home, fun hhome => ?own, fun hfar hfar' => ?far⟩
  case home =>
    refine hserved _ .s [] a (fun q => q.homeWrite a la (pa % 256) bs cls false) (.inl rfl) ?_
      fun s' h1 h2 h3 => moves_homeWrite h1 h2 h3
    obtain ⟨s', hs, ht⟩ := htransact (.homeWrite a cls (pa % 256) bytes)
      (fun q => q.homeWrite a la (pa % 256) bs cls false) hframe
    have habs : s.absent la = false := by simpa [State.absent] using hi
    refine ⟨s', hs, (if_neg (not_mem_run hon hpart)).trans ((if_neg ?_).trans ht)⟩
    show ¬ (bytes.length = 256 && s.absent la && _ && _) = true
    rw [habs]
    simp
  case own =>
    refine hserved _ .s [] (.cell c) (fun q => q.cohWrite c la (pa % 256) bs false) (.inl rfl) ?_
      fun s' h1 h2 h3 => moves_cohWrite_home hhome h1 h2 h3
    obtain ⟨s', hs, ht⟩ := htransact (.coherentWrite c (pa % 256) bytes)
      (fun q => q.cohWrite c la (pa % 256) bs false) (by rw [MissReq.near, if_pos hhome]; exact hframe)
    exact ⟨s', hs, (if_neg (not_mem_run hon hpart)).trans ht⟩
  case far =>
    refine hserved _ .m [c] (.cell c) (fun q => q.cohWrite c la (pa % 256) bs false) (.inr rfl) ?_
      fun s' h1 h2 h3 => moves_cohWrite_far hfar h1 h2 h3
    obtain ⟨s', hs, ht⟩ := htransact (.coherentWrite c (pa % 256) bytes)
      (fun q => q.cohWrite c la (pa % 256) bs false) (by rw [MissReq.near, if_neg hfar]; exact hfar')
    exact ⟨s', hs, (if_neg (not_mem_run hon hpart)).trans ht⟩

end Sys2Proof.Proofs
end
section
/-! O31: reductions in the cache. -/

namespace Sys2Proof.Proofs
open Sys2Proof Sys2Proof.Machine Sys2Proof.Laws

/-! ### What the storing of a line does to the registers -/

theorem floorRegs_setLine {ks : List Nat} (s : State) (la : Nat) (l : Line) : FloorRegs ks s (s.setLine la l) :=
  floorRegs_of_eq rfl

/-- The back-invalidates that are sent count. -/
theorem floorRegs_recall (s : State) (la : Nat) (w : Bool) : FloorRegs [FR.HI_BISNP_CNT] s (s.recall la w) := by
  unfold State.recall
  generalize s.hostBlocks la w = bs
  induction bs generalizing s with
  | nil => exact .refl _ s
  | cons b bs ih =>
    refine FloorRegs.trans ?_ (ih _)
    beta_reduce
    split
    · exact .refl _ s
    · exact FloorRegs.count (s := s) (t := { s with hs := { s.hs with snooped := s.hs.snooped ++ [(b, w)] } })
        (floorRegs_of_eq rfl) 1 (List.mem_singleton_self _)

theorem floorRegs_evictHome (s : State) (la : Nat) : FloorRegs [FR.HI_BISNP_CNT] s (s.evictHome la) := by
  refine (floorRegs_recall s la true).trans ?_
  simp only [State.evictHome]
  split
  · exact floorRegs_of_eq rfl
  · rename_i hd
    have hclean : ((s.recall la true).line la).dirty = false := by
      simp only [Bool.or_eq_true, not_or, Bool.not_eq_true] at hd
      exact hd.1
    simp only [State.dropLine, hclean]
    exact floorRegs_of_eq rfl

/-- Making room changes no register but the count of back-invalidates. -/
theorem floorRegs_roomFor : ∀ (fuel : Nat) (n : CellId) (σ : Nat) (las : List Nat) (own : Option (Nat × Nat × Nat))
    (len : Nat) (s : State), FloorRegs [FR.HI_BISNP_CNT] s (State.roomFor fuel n σ las own len s).1
  | 0, _, _, _, _, _, s => .refl _ s
  | fuel + 1, n, σ, las, own, len, s => by
    simp only [State.roomFor]
    split
    · exact .refl _ s
    · split
      · exact .refl _ s
      · split
        · split
          · exact ((floorRegs_roomFor fuel _ σ _ _ _ s).trans (floorRegs_setLine _ _ _)).trans
              (floorRegs_roomFor fuel n σ las own len _)
          · exact (floorRegs_setLine s _ _).trans (floorRegs_roomFor fuel n σ las own len _)
        · exact (floorRegs_evictHome s _).trans (floorRegs_roomFor fuel n σ las own len _)

theorem floorRegs_place (s : State) (la : Nat) (l : Line) : FloorRegs [FR.HI_BISNP_CNT] s (s.place la l) :=
  (floorRegs_roomFor 512 _ _ [la] _ _ s).trans (floorRegs_of_eq rfl)

/-! ### A contribution at its home -/

section
variable {s : State} {la : Nat} {k : Contrib} {n : CellId}

/-- A line in A is stored whole. -/
theorem moves_place_raw (s : State) (la : Nat) (l : Line) (h : l.st = .a) :
    Moves la (fun m => ∃ w p u, m = { l with scheme := .raw, way := w, slot := p, lru := u }) s (s.place la l) := by
  have hraw : s.schemeFor l = .raw := by
    rw [State.schemeFor]
    simp [h]
  simp only [State.place, State.used, hraw]
  refine moves_of_stores (((evicts_roomFor 512 _ _ [la] _ _ s).stores _ (ne_absent ?_)).mono fun _ e => ⟨_, _, _, e⟩)
  show l.st ≠ .i
  rw [h]
  nofun

/-- Nothing keeps a contribution from line la. -/
structure RedFree (s : State) (la : Nat) : Prop where
  present : (s.line la).st ≠ .i
  stays : (s.line la).leaving = false
  closed : (s.line la).epoch = none
  host : s.hostBlocks la true = []
  asked : s.mem.miss.any (fun m => m.2.line == la) = false
  room : s.frameWait la none = false
  queued : s.queued la = false

theorem RedFree.redWait (h : RedFree s la) : s.redWait la = none := by
  have habs : s.absent la = false := by simpa [State.absent] using h.present
  simp only [State.redWait, h.stays, h.host, h.closed, h.asked, h.room, habs]
  rfl

/-- The modes of the sequence of contributions to a line. -/
def redMode (s : State) (l : Line) : BitVec 8 := l.det.getD (BitVec.ofNat 8 (bits (s.freg FR.HR_MODE) 31 24))

theorem contribute_arrival (h : RedFree s la) (hmode : (redMode s (s.line la)).getLsbD k.cls.val = false) :
    s.contribute la k false = .accepted ((s.redArrive la k.cls false).modLine la (fun l =>
      { l with held := l.held ++ [k], det := some (redMode s (s.line la)) })) := by
  rw [State.contribute, h.queued, State.contribNow, h.redWait]
  simp only [h.closed]
  refine (if_neg (by simp)).trans (if_neg ?_)
  rw [show (s.line la).det.getD _ = redMode s (s.line la) from rfl, hmode]
  nofun

theorem contribute_refused (h : RedFree s la) (hmode : (redMode s (s.line la)).getLsbD k.cls.val = true)
    (htag : k.n ≤ k.t) : s.contribute la k false = s.rejectRed la 3 := by
  rw [State.contribute, h.queued, State.contribNow, h.redWait]
  simp only [h.closed]
  exact (if_neg (by simp)).trans ((if_pos hmode).trans (if_pos htag))

/-- A line in A as it is when a contribution has arrived. -/
theorem redArrive_again (h : (s.line la).st = .a) (cls : Fin 8) : Counted s (s.redArrive la cls false) := by
  have habs : s.absent la = false := by rw [State.absent, h]; rfl
  have hbring : (s.countHit (homeSlice (la * 256)) cls true).bringHome la = s.countHit (homeSlice (la * 256)) cls
    true :=
    bringHome_home (by show (s.line la).st ≠ .m; rw [h]; nofun)
  have hst : ((s.countHit (homeSlice (la * 256)) cls true).line la).st == .a := by
    show (s.line la).st == .a
    rw [h]; rfl
  simp only [State.redArrive, habs, Bool.not_false, if_true, hbring, hst]
  exact (counted_countHit s _ _ _).trans (counted_viaPath _ _ _)

/-- Another line has gone to A, uncompressed and without holders. -/
theorem redArrive_first (hi : (s.line la).st ≠ .i) (ha : (s.line la).st ≠ .a) (cls : Fin 8) :
    Moves la (fun m => ∃ w p u, m =
      { (s.line la).alone with st := .a, scheme := .raw, way := w, slot := p, lru := u }) s
      (s.redArrive la cls false) := by
  have habs : s.absent la = false := by simpa [State.absent] using hi
  have hcount := counted_countHit s (homeSlice (la * 256)) cls true
  have hbring : Moves la (fun m => m.st ≠ .a ∧ ∃ st, StoredAs { s.line la with st } m) s
      ((s.countHit (homeSlice (la * 256)) cls true).bringHome la) := by
    by_cases hm : (s.line la).st = .m
    · have hm' : ((s.countHit (homeSlice (la * 256)) cls true).line la).st = .m := hm
      rw [State.bringHome, if_pos (by simp [hm'])]
      refine ((moves_place (s.countHit (homeSlice (la * 256)) cls true) la { s.line la with st := .s } nofun).after
        hcount).mono ?_
      rintro m ⟨g, w, p, u, rfl⟩
      exact ⟨nofun, .s, g, w, p, u, rfl⟩
    · rw [bringHome_home (by exact hm)]
      refine (moves_counted hcount).mono ?_
      rintro m rfl
      exact ⟨ha, (s.line la).st, _, _, _, _, rfl⟩
  obtain ⟨hna, st, g, w, p, u, hl⟩ := hbring.line
  have hst : ¬ (((s.countHit (homeSlice (la * 256)) cls true).bringHome la).line la).st == .a := by simpa using hna
  simp only [State.redArrive, habs, Bool.not_false, if_true, if_neg hst]
  have hplace := moves_place_raw ((s.countHit (homeSlice (la * 256)) cls true).bringHome la) la
    { (((s.countHit (homeSlice (la * 256)) cls true).bringHome la).line la).alone with st := .a } rfl
  refine ((hbring.trans hplace).counted (counted_viaPath _ _ _)).mono ?_
  rintro m ⟨w', p', u', rfl⟩
  exact ⟨w', p', u', by rw [hl]; rfl⟩

theorem letIn_nothing (h : s.mem.backed = []) : s.letIn = s := by
  rw [State.letIn, h]
  show { s with mem := { s.mem with backed := [] } } = s
  rw [← h]

theorem letIn_goOn_accepted (hb : s.mem.backed = []) (h : Still s) : s.letIn.goOn = s := by
  rw [letIn_nothing hb, goOn_still h]

theorem still_moves {m : Line → Prop} {t : State} (h : Still s) (hm : Moves la m s t) : Still t := by
  have hcells : t.cells = s.cells := by rw [hm.frame]
  exact ⟨fun c => by rw [State.cell, hcells]; exact h.empty c, by rw [hm.frame]; exact h.done,
    by rw [hm.frame]; exact h.settled⟩

/-- What a contribution that is accepted leaves. -/
theorem exec_accepted {m : Line → Prop} {t : State} (hon : s.dev.mainOn = true) (hc : cacheablePa (la * 256) = true)
    (hb : s.mem.backed = []) (hs : Still s) (h : s.contribute la k false = .accepted t) (hm : Moves la m s t) :
    exec (.reductionContribution la k) s = .next t := by
  show execReductionContribution la k s = _
  rw [execReductionContribution, if_neg (by simp [State.mainOn, hon]), hc, if_pos rfl, h]
  exact congrArg Host.Outcome.next (letIn_goOn_accepted (by rw [hm.frame]; exact hb) (still_moves hs hm))

theorem exec_refused {r : Nat} (hon : s.dev.mainOn = true)
    (h : (if cacheablePa (la * 256) then s.contribute la k false else s.rejectRed la 1) = s.rejectRed la r) :
    exec (.reductionContribution la k) s = .next (s.count (FR.HR_RED_REJECT_CNT (redSlice la))) := by
  show execReductionContribution la k s = _
  rw [execReductionContribution, if_neg (by simp [State.mainOn, hon]), h]
  rfl

theorem redSlice_cacheable (h : cacheablePa (la * 256) = true) : redSlice la = homeSlice (la * 256) := by
  unfold cacheablePa at h
  unfold redSlice
  cases hr : region (la * 256) with
  | hbm | host _ => rfl
  | tags | window _ _ | other => simp [hr] at h

theorem moves_modLine (s : State) (la : Nat) (f : Line → Line) (h : (f (s.line la)).st ≠ .i) :
    Moves la (· = f (s.line la)) s (s.modLine la f) := moves_setLine s la _ h

/-! ### The adder -/

/-- The registers in which the application of a contribution counts. -/
def redRegs (n : Nat) : List Nat :=
  [FR.HR_RED_NV_CNT n, FR.HR_RED_OF_CNT n, FR.HR_RED_UF_CNT n, FR.HR_STATUS n]

/-- What the adder makes of a line. -/
def reduced (l : Line) (k : Contrib) : Line :=
  { l with data := BitVec.ofNat 2048 (redWords k.op k.mask.toNat l.data.toNat k.words.toNat 64).1
           dirty := true, writer := some k.agent
           poison := if k.poison || l.poison != [] then [0, 1, 2, 3] else [] }

/-- The counts of an application after the line is stored. -/
theorem applyContrib_counts (s : State) (la : Nat) (k : Contrib) :
    ∃ u, u = (s.place la (reduced (s.line la) k)).count (FR.HR_RED_APPLY_CNT (homeSlice (la * 256)).val) ∧
      FloorRegs (redRegs (homeSlice (la * 256)).val) u (s.applyContrib la k) ∧ Counted u (s.applyContrib la k) := by
  refine ⟨_, rfl, ?_, ?_⟩
  · simp only [State.applyContrib]
    have hnv : FR.HR_RED_NV_CNT (homeSlice (la * 256)).val ∈ redRegs (homeSlice (la * 256)).val := by simp [redRegs]
    have hof : FR.HR_RED_OF_CNT (homeSlice (la * 256)).val ∈ redRegs (homeSlice (la * 256)).val := by simp [redRegs]
    have huf : FR.HR_RED_UF_CNT (homeSlice (la * 256)).val ∈ redRegs (homeSlice (la * 256)).val := by simp [redRegs]
    refine .ite ?_ (FloorRegs.orFreg ?_ _ (by simp [redRegs]))
    all_goals exact (((FloorRegs.refl _ _).count _ hnv).count _ hof).count _ huf
  · simp only [State.applyContrib]
    split <;> rfl

theorem applied {ks : List Contrib} (hheld : (s.line la).held = k :: ks) (hi : (s.line la).st ≠ .i)
    (hw : SMap.wf floorResetVal s.fregs = true) :
    let t := (s.modLine la (fun l => { l with held := ks })).applyContrib la k
    Moves la (StoredAs (reduced { s.line la with held := ks } k)) s t ∧
      t.freg (FR.HR_RED_APPLY_CNT (homeSlice (la * 256)).val) =
        (s.freg (FR.HR_RED_APPLY_CNT (homeSlice (la * 256)).val) + 1) % 2 ^ 64 := by
  have hmod := moves_modLine s la (fun l => { l with held := ks }) hi
  have hregs : FloorRegs [FR.HI_BISNP_CNT] s (s.modLine la (fun l => { l with held := ks })) := floorRegs_of_eq rfl
  generalize s.modLine la (fun l => { l with held := ks }) = s1 at hmod hregs
  obtain ⟨u, rfl, hlast, hcount⟩ := applyContrib_counts s1 la k
  have hl := hmod.line
  have hplace := moves_place s1 la (reduced (s1.line la) k) (by rw [hl]; exact hi)
  have hbefore := hregs.trans (floorRegs_place s1 la (reduced (s1.line la) k))
  refine ⟨?_, ?_⟩
  · rw [hl] at hplace hcount
    rw [← hl] at hplace ⊢
    exact ((hmod.trans hplace).counted (counted_count _ _ 1)).counted (by rw [← hl] at hcount; exact hcount)
  · rw [hlast.freg _ (by simp only [redRegs, FR.HR_RED_APPLY_CNT, FR.HR_RED_NV_CNT, FR.HR_RED_OF_CNT, FR.HR_RED_UF_CNT,
      FR.HR_STATUS, List.mem_cons, List.not_mem_nil, or_false]; omega),
      freg_count_self _ _ (hbefore.canon hw), hbefore.freg _ (by
        simp only [FR.HR_RED_APPLY_CNT, FR.HI_BISNP_CNT, List.mem_singleton]; omega)]

end

/-- Settles O31: a contribution is held in arrival order (`redArrive_first`, `redArrive_again`), refused by its tag or its
place (`exec_refused`), and the oldest one applied (`applied`). -/
theorem inCacheReductions : Obligations.InCacheReductions := by
  unfold Obligations.InCacheReductions
  intro s la k l n mode
  refine ⟨fun hon hc hs hb hi hleaving hepoch hhost hmiss hframe => ?home, fun hon hc => ?outside,
    fun ks hheld hi hw => ?apply⟩
  case home =>
    have hfree : RedFree s la := ⟨hi, hleaving, hepoch, hhost, hmiss, hframe, by
      rw [State.queued, hb, hs.settled]; rfl⟩
    refine ⟨fun hmode ha => ?first, fun hmode ha => ?again, fun hmode htag => ?refused⟩
    case first =>
      have harr := redArrive_first hi ha k.cls
      obtain ⟨w, p, u, hl⟩ := harr.line
      have hmod := moves_modLine (s.redArrive la k.cls false) la
        (fun l => { l with held := l.held ++ [k], det := some mode }) (by rw [hl]; nofun)
      have hall := harr.trans hmod
      refine ⟨_, w, p, u, exec_accepted hon hc hb hs (contribute_arrival hfree hmode) hall, ?_, hall.kept, hall.whole⟩
      exact hmod.line.trans (by rw [hl]; rfl)
    case again =>
      have harr := redArrive_again ha k.cls
      have hmod := moves_modLine (s.redArrive la k.cls false) la
        (fun l => { l with held := l.held ++ [k], det := some mode }) (by rw [harr.line]; exact hi)
      refine ⟨_, exec_accepted hon hc hb hs (contribute_arrival hfree hmode) ((moves_counted harr).trans hmod), ?_,
        fun lb hlb => ?_, ?_⟩
      · exact hmod.line.trans (by rw [harr.line])
      · exact (line_setLine_other _ _ hlb).trans (harr.line lb)
      · generalize s.redArrive la k.cls false = t at harr
        unfold Counted at harr
        rw [harr]
        rfl
    case refused =>
      refine (exec_refused (r := 3) hon ?_).trans (by rw [redSlice_cacheable hc])
      rw [hc, if_pos rfl]
      exact contribute_refused hfree hmode htag
  case outside =>
    exact exec_refused (r := 1) hon (by rw [hc]; rfl)
  case apply =>
    obtain ⟨hmoves, hcount⟩ := applied hheld hi hw
    obtain ⟨g, w, p, u, hl⟩ := hmoves.line
    refine ⟨(s.modLine la (fun l => { l with held := ks })).applyContrib la k, ?_, ?_⟩
    · show execReductionApply la s = _
      rw [execReductionApply, hheld]
    · rw [hl]
      refine ⟨rfl, rfl, rfl, rfl, rfl, ?_, hcount, hmoves.whole⟩
      show (if k.poison || l.poison != [] then [0, 1, 2, 3] else []) = [] ↔ l.poison = [] ∧ k.poison = false
      cases k.poison <;> by_cases hp : l.poison = [] <;> simp [hp]

end Sys2Proof.Proofs
end
section
/-! O32: evictions, write-backs and fills. -/

namespace Sys2Proof.Proofs
open Sys2Proof Sys2Proof.Machine Sys2Proof.Laws

/-! ### What a set holds -/

/-- What an unlisted line reads as. -/
abbrev noLine (_ : Nat) : Line := {}

theorem ne_default_of_mem {α : Type} [DecidableEq α] (d : Nat → α) {m : SMap α} {e : Nat × α}
    (hw : SMap.wf d m = true) (he : e ∈ m) : e.2 ≠ d e.1 := by
  induction m with
  | nil => cases he
  | cons p m ih =>
    simp only [SMap.wf, Bool.and_eq_true, decide_eq_true_eq] at hw
    rcases List.mem_cons.1 he with rfl | he
    · exact hw.1.2
    · exact ih hw.2 he

/-- In a canonical map every entry is what its key reads as. -/
theorem smap_get_of_mem {α : Type} [DecidableEq α] (d : Nat → α) {m : SMap α} {e : Nat × α}
    (hw : SMap.wf d m = true) (he : e ∈ m) : SMap.get d m e.1 = e.2 := by
  induction m with
  | nil => cases he
  | cons p m ih =>
    obtain ⟨a, v⟩ := p
    have hne := ne_default_of_mem d hw he
    simp only [SMap.wf, Bool.and_eq_true] at hw
    obtain ⟨⟨habove, -⟩, hw⟩ := hw
    rcases List.mem_cons.1 he with rfl | he
    · exact if_pos rfl
    · have hget := ih hw he
      have hlt : a ≠ e.1 := fun h =>
        hne (hget.symm.trans (smap_get_above d m a e.1 hw habove (by omega)))
      rw [smap_get_cons, if_neg hlt, hget]

theorem lruHeld_mem : ∀ {rs : List Resident} {v : Resident}, lruHeld rs = some v → v ∈ rs ∧ v.pinned = false
  | e :: es, v, h => by
    rw [lruHeld] at h
    split at h
    · exact (lruHeld_mem h).imp_left (List.mem_cons_of_mem _)
    · rename_i hp
      have hpin : e.pinned = false := by simpa using hp
      cases hr : lruHeld es with
      | none =>
        rw [hr] at h
        cases h
        exact ⟨List.mem_cons_self, hpin⟩
      | some b =>
        rw [hr] at h
        have hb := (lruHeld_mem hr).imp_left (List.mem_cons_of_mem e)
        simp only at h
        split at h <;> cases h
        · exact ⟨List.mem_cons_self, hpin⟩
        · exact hb

section
variable {s : State} {la : Nat} {n : CellId} {σ : Nat} {v : Resident}

/-- A resident is its line at home, or a near copy of it. -/
theorem resident_of (hw : SMap.wf noLine s.mem.lines = true) (h : v ∈ s.residents n σ) :
    (v.near = false → v.pinned = (s.line v.la).pinned) ∧ (v.near = true → (s.line v.la).holds n = true) := by
  simp only [State.residents, List.mem_flatMap] at h
  obtain ⟨e, he, hv⟩ := h
  have hget : s.line e.1 = e.2 := smap_get_of_mem noLine hw he
  split at hv
  · rw [Line.residents, List.mem_append, List.mem_map] at hv
    rcases hv with hv | ⟨k, hk, rfl⟩
    · split at hv
      · rw [List.mem_singleton] at hv
        subst hv
        exact ⟨fun _ => by rw [hget], nofun⟩
      · cases hv
    · refine ⟨nofun, fun _ => ?_⟩
      rw [show s.line _ = e.2 from hget, Line.holds, List.any_eq_true]
      exact ⟨k, (List.mem_filter.1 hk)⟩
  · cases hv

/-! ### The evictor -/

theorem holds_lose (l : Line) (n : CellId) : (l.lose n).holds n = false := by
  have hnear : (l.lose n).near = l.near.filter (fun k => k.cell != n) := by
    unfold Line.lose
    split
    · rfl
    · rfl
    · split <;> rfl
  rw [Line.holds, hnear, List.any_filter]
  simp

theorem data_lose (l : Line) (n : CellId) : (l.lose n).data = l.data := by
  unfold Line.lose
  split
  · rfl
  · rfl
  · split <;> rfl

theorem st_lose (l : Line) (n : CellId) : (l.lose n).st = if l.st = .m ∨ l.st = .e then .s else l.st := by
  unfold Line.lose
  cases hst : l.st with
  | m | e => simp
  | i | s | a => cases l.holders <;> simp

theorem holders_lose {l : Line} {n : CellId} {h : List CellId} (hh : l.holders = .cells h) (hst : l.st = .s) :
    (l.lose n).holders = .cells (h.filter (· != n)) := by
  unfold Line.lose
  simp [hst, hh]

/-- The host copies of a line that must be given back are asked for. -/
theorem recall_asks (s : State) (la : Nat) (w : Bool) : ∀ b ∈ s.hostBlocks la w, ∃ q, (b, q) ∈ (s.recall la
    w).hs.snooped := by
  unfold State.recall
  generalize s.hostBlocks la w = bs
  have hkeep : ∀ (bs : List Nat) (s : State), ∀ p ∈ s.hs.snooped, p ∈ (bs.foldl (fun s b =>
      if s.hs.snooped.any (fun n => n.1 == b) then s
      else State.count { s with hs := { s.hs with snooped := s.hs.snooped ++ [(b, w)] } } FR.HI_BISNP_CNT)
        s).hs.snooped := by
    intro bs
    induction bs with
    | nil => exact fun s p hp => hp
    | cons b bs ih =>
      intro s p hp
      rw [List.foldl_cons]
      refine ih _ p ?_
      split
      · exact hp
      · exact List.mem_append_left _ hp
  induction bs generalizing s with
  | nil => nofun
  | cons a bs ih =>
    intro b hb
    rw [List.foldl_cons]
    rcases List.mem_cons.1 hb with rfl | hb
    · by_cases hin : s.hs.snooped.any (fun n => n.1 == b) = true
      · rw [if_pos hin]
        obtain ⟨p, hp, hpb⟩ := List.any_eq_true.1 hin
        exact ⟨p.2, hkeep bs s _ (by rw [← beq_iff_eq.1 hpb]; exact hp)⟩
      · rw [if_neg hin]
        exact ⟨w, hkeep bs _ _ (List.mem_append_right _ (List.mem_singleton_self _))⟩
    · exact ih _ b hb

theorem recall_nothing (h : s.hostBlocks la true = []) : s.recall la true = s := by
  rw [State.recall, h]
  rfl

theorem line_recall (s : State) (la : Nat) (w : Bool) (lb : Nat) : (s.recall la w).line lb = s.line lb := by
  have h := (evicts_recall (σ := homeSet (lb * 256)) (las := [lb]) s la w).kept lb (.inl (List.mem_singleton_self _))
  exact h

theorem recall_frame (s : State) (la : Nat) (w : Bool) :
    s.recall la w =
      { s with fregs := (s.recall la w).fregs, hs := { s.hs with snooped := (s.recall la w).hs.snooped } } := by
  unfold State.recall
  generalize s.hostBlocks la w = bs
  induction bs generalizing s with
  | nil => rfl
  | cons b bs ih =>
    rw [List.foldl_cons, ih]
    split <;> rfl

theorem hostBlocks_recall (s : State) (la : Nat) (w : Bool) : (s.recall la w).hostBlocks la w = s.hostBlocks la w := by
  rw [recall_frame]
  rfl

/-- A line whose data or whose host copies still have to go is leaving. -/
theorem evictHome_leaving (h : (s.line la).dirty = true ∨ s.hostBlocks la true ≠ []) :
    s.evictHome la = (s.recall la true).setLine la
      { (s.line la).alone with st := if (s.line la).st = .a then .a else .s, leaving := true } := by
  simp only [State.evictHome, line_recall, hostBlocks_recall]
  rw [if_pos (by simpa using h)]
  simp

/-- Any other one is gone. -/
theorem evictHome_gone (hd : (s.line la).dirty = false) (hh : s.hostBlocks la true = []) :
    s.evictHome la = s.setLine la (s.line la).gone := by
  simp only [State.evictHome, recall_nothing hh, hd, hh, State.dropLine]
  rfl

theorem bringHome_modified (hm : (s.line la).st = .m) : s.bringHome la = s.place la { s.line la with st := .s } := by
  rw [State.bringHome]
  exact if_pos (by rw [hm]; rfl)

/-- A near copy leaves, its data home first where they are the only ones. -/
theorem nearLeaves (hw : SMap.wf noLine s.mem.lines = true) (la : Nat) (n : CellId) :
    Moves la (fun m => m.holds n = false ∧ m.data = (s.line la).data ∧
        m.st = (if (s.line la).st = .m ∨ (s.line la).st = .e then .s else (s.line la).st) ∧
        ∀ h, (s.line la).holders = .cells h → (s.line la).st = .s → m.holders = .cells (h.filter (fun d => d != n))) s
      ((s.bringHome la).modLine la (fun l => l.lose n)) := by
  by_cases hm : (s.line la).st = .m
  · rw [bringHome_modified hm]
    have hplace := moves_place s la { s.line la with st := .s } nofun
    obtain ⟨g, w, k, u, hl⟩ := hplace.line
    refine (hplace.trans (moves_modLine _ la (fun l => l.lose n) ?_)).mono ?_
    · rw [hl, st_lose]
      nofun
    · rintro m rfl
      rw [hl]
      refine ⟨holds_lose _ _, data_lose _ _, ?_, fun h _ hst => absurd (hm.symm.trans hst) nofun⟩
      rw [st_lose]
      simp [hm]
  · rw [bringHome_home hm]
    refine ⟨?_, fun lb hb => line_setLine_other _ _ (fun e => hb (by rw [e])), rfl⟩
    have hl : (s.modLine la (fun l => l.lose n)).line la = (s.line la).lose n :=
      line_setLine_self _ _ _ (.inr hw)
    rw [hl]
    exact ⟨holds_lose _ _, data_lose _ _, st_lose _ _, fun h hh hst => holders_lose hh hst⟩

end

/-! ### Bytes of memory and of a line -/

section
variable {s : State} {la : Nat}

theorem getElem_leBytes : ∀ (n x i : Nat) (h : i < (leBytes n x).length),
    (leBytes n x)[i] = BitVec.ofNat 8 (x >>> (8 * i))
  | n + 1, x, 0, _ => rfl
  | n + 1, x, i + 1, h => by
    have hn : i < (leBytes n (x / 256)).length := by simpa [leBytes] using h
    have hshift : (x / 256) >>> (8 * i) = x >>> (8 * (i + 1)) := by
      rw [show x / 256 = x >>> 8 from (Nat.shiftRight_eq_div_pow x 8).symm, ← Nat.shiftRight_add]
      congr 1
      omega
    simp only [leBytes, List.getElem_cons_succ, getElem_leBytes n _ i hn, hshift]

/-- Part of the bytes of a line. -/
theorem plain_read_part (l : Line) {off k : Nat} (h : off + k ≤ 256) :
    plain (l.read off k) = ((plain (l.read 0 256)).drop off).take k := by
  simp only [Line.read, plain_withPoison]
  refine List.ext_getElem (by simp only [length_leBytes, List.length_take, List.length_drop]; omega) fun i h1 h2 => ?_
  rw [getElem_leBytes, List.getElem_take, List.getElem_drop, getElem_leBytes, ← Nat.shiftRight_add, ←
    Nat.shiftRight_add]
  congr 2
  omega

theorem plain_hbmRead_part (s : State) {pa off k : Nat} (h : off + k ≤ 256) :
    plain (s.hbmRead (pa + off) k) = ((plain (s.hbmRead pa 256)).drop off).take k := by
  simp only [State.hbmRead, plain_withPoison, getRange_eq_map]
  refine List.ext_getElem (by simp only [List.length_map, List.length_range, List.length_take, List.length_drop]; omega)
    fun i h1 h2 => ?_
  simp only [List.getElem_take, List.getElem_drop, List.getElem_map, List.getElem_range, Nat.add_assoc]

/-- Bytes written to a line read as written, whatever their poison. -/
theorem plain_read_put {l : Line} {off : Nat} {bs : List PByte} (hne : bs ≠ []) (hin : off + bs.length ≤ 256) :
    plain ((l.put off bs).read off bs.length) = plain bs := by
  have hlen : (plain bs).length = bs.length := List.length_map ..
  have hpos : 0 < (plain bs).length := by rw [hlen]; exact List.length_pos_of_ne_nil hne
  have hread := read_put (l := { l with poison := [] }) (off := off) (bs := plain bs) rfl
    (List.ne_nil_of_length_pos hpos) (by rw [hlen]; exact hin)
  have hplain := congrArg plain hread
  rw [plain_clean] at hplain
  rw [Line.put, if_neg (by simpa [clean, plain] using hne)] at hplain
  rw [Line.put, if_neg hne]
  simpa only [Line.read, plain_withPoison, plain_clean, length_clean, hlen] using hplain

theorem region_hbm {pa : Nat} (h : pa < hbmTop) : region pa = .hbm := by rw [region, if_pos h]

theorem length_hbmRead (s : State) (pa n : Nat) : (s.hbmRead pa n).length = n := by
  have h := congrArg List.length (plain_withPoison s.mem.hbmPoison pa (SMap.getRange s.mem.hbmDef s.mem.hbm pa n))
  rw [length_getRange, plain, List.length_map] at h
  exact h

/-! ### Write-backs -/

theorem hbmDef_retag (m : MemState) (a n : Nat) : (m.retag a n).hbmDef = m.hbmDef := rfl

/-- Bytes written to HBM read as written. -/
theorem hbmRead_hbmWrite (s : State) (pa : Nat) (bs : List PByte) (hw : SMap.wf s.mem.hbmDef s.mem.hbm = true) :
    plain ((s.hbmWrite pa bs).hbmRead pa bs.length) = plain bs := by
  have h := smap_getRange_setRange s.mem.hbmDef (plain bs) s.mem.hbm pa hw
  rw [show (plain bs).length = bs.length from List.length_map ..] at h
  rw [State.hbmRead, plain_withPoison]
  exact h

theorem hbmRead_hbmWrite_other (s : State) {pa b k : Nat} (bs : List PByte) (h : b + k ≤ pa ∨ pa + bs.length ≤ b) :
    plain ((s.hbmWrite pa bs).hbmRead b k) = plain (s.hbmRead b k) := by
  simp only [State.hbmRead, plain_withPoison, getRange_eq_map]
  refine List.map_congr_left fun i hi => ?_
  have hlen : (plain bs).length = bs.length := List.length_map ..
  rw [List.mem_range] at hi
  exact smap_get_setRange_other s.mem.hbmDef (plain bs) _ _ _ (by omega)

theorem hbmRead_setLine (s : State) (la : Nat) (l : Line) (b k : Nat) : (s.setLine la l).hbmRead b k = s.hbmRead b k
    := rfl

theorem length_lineRead (l : Line) (off n : Nat) : (l.read off n).length = n := by
  have h := congrArg List.length (plain_withPoison l.poison off (leBytes n (l.data.toNat >>> (8 * off))))
  rw [length_leBytes, plain, List.length_map] at h
  exact h

/-- A dirty line of HBM that has left: memory holds its bytes. -/
theorem dropLine_dirty (hd : (s.line la).dirty = true) (hin : la * 256 < hbmTop) :
    s.dropLine la = (s.hbmWrite (la * 256) ((s.line la).read 0 256)).setLine la (s.line la).gone := by
  simp only [State.dropLine, hd, if_true, State.rawWrite, region_hbm hin]

theorem lineLeft_dirty (hl : (s.line la).leaving = true) (hh : s.hostBlocks la true = [])
    (hd : (s.line la).dirty = true) (hr : s.rawAsleep (la * 256) = none) : s.lineLeft la = (s.dropLine la).goOn := by
  simp only [State.lineLeft, hl, hh, hd, hr, if_true]
  rfl

theorem still_memory {t : State} (h : Still s) (hc : t.cells = s.cells) (hv : t.hv = s.hv)
    (hp : t.mem.posted = s.mem.posted) : Still t :=
  ⟨fun c => by rw [State.cell, hc]; exact h.empty c, by rw [hv]; exact h.done, by rw [hp]; exact h.settled⟩

/-! ### Fills -/

/-- What a fill brings in. -/
def filled (s : State) (la : Nat) (cls : Fin 8) : Line :=
  ((s.line la).fresh cls).put 0 ((s.hbmRead (la * 256) 256).map (fun b => (b.1, b.2 || false)))

theorem filled_fields (s : State) (la : Nat) (cls : Fin 8) :
    (filled s la cls).st = .s ∧ (filled s la cls).cls = ((s.line la).fresh cls).cls ∧
      (filled s la cls).noHolder = true ∧ (filled s la cls).dirty = false := by
  unfold filled Line.put
  split <;> exact ⟨rfl, rfl, rfl, rfl⟩

theorem plain_filled (s : State) (la : Nat) (cls : Fin 8) :
    plain ((filled s la cls).read 0 256) = plain (s.hbmRead (la * 256) 256) := by
  have hlen : ((s.hbmRead (la * 256) 256).map (fun b => (b.1, b.2 || false))).length = 256 := by
    rw [List.length_map, length_hbmRead]
  have h := plain_read_put (l := (s.line la).fresh cls) (off := 0)
    (bs := (s.hbmRead (la * 256) 256).map (fun b => (b.1, b.2 || false)))
    (List.ne_nil_of_length_pos (by omega)) (by omega)
  rw [hlen] at h
  refine h.trans ?_
  simp [plain]

theorem moves_fill (hi : (s.line la).st = .i) (hin : la * 256 < hbmTop) (cls : Fin 8) :
    Moves la (StoredAs (filled s la cls)) s (s.fill la cls false) := by
  have hfill : s.fill la cls false = s.place la (filled s la cls) := by
    simp only [State.fill, region_hbm hin, State.fillOne, hi, State.rawRead]
    rfl
  rw [hfill]
  exact moves_place s la _ (by rw [(filled_fields s la cls).1]; nofun)

/-- A home read of a line that memory brings in. -/
theorem homeRead_fills {off k : Nat} {cls : Fin 8} (hi : (s.line la).st = .i) (hin : la * 256 < hbmTop)
    (hk : off + k ≤ 256) :
    Moves la (StoredAs (filled s la cls)) s (s.homeRead la off k cls false).1 ∧
      plain (s.homeRead la off k cls false).2 = plain (s.hbmRead (la * 256 + off) k) := by
  have habs : (s.countHit (homeSlice (la * 256)) cls (!s.absent la)).absent la = true := by
    rw [State.absent]
    show (s.line la).st == .i
    rw [hi]
    rfl
  have hcount := counted_countHit s (homeSlice (la * 256)) cls (!s.absent la)
  have harr : Moves la (StoredAs (filled s la cls)) s (s.homeArrive la cls false false) := by
    rw [State.homeArrive]
    simp only [habs, if_true, Bool.false_eq_true, if_false]
    refine Moves.counted ?_ (counted_viaPath _ _ _)
    exact (moves_fill (s := s.countHit (homeSlice (la * 256)) cls (!s.absent la)) hi hin cls).after hcount
  obtain ⟨g, w, p, u, hl⟩ := harr.line
  obtain ⟨hst, -, -, -⟩ := filled_fields s la cls
  refine ⟨?_, ?_⟩
  · refine (harr.trans (moves_used _ la _ (by rw [hl]; exact (congrArg (· ≠ LState.i) hst).mpr nofun))).mono ?_
    rintro m rfl
    rw [hl]
    exact ⟨g, w, p, _, rfl⟩
  · have hpart : plain ((filled s la cls).read off k) = plain (s.hbmRead (la * 256 + off) k) := by
      rw [plain_read_part _ hk, plain_filled, plain_hbmRead_part s hk]
    refine Eq.trans ?_ hpart
    simp only [State.homeRead]
    exact congrArg plain (Line.read_congr (by rw [hl]) (by rw [hl]) _ _)

/-! ### The events -/

variable {n : CellId} {σ : Nat}

/-- The registers that decide where lines lie. -/
theorem frameWait_congr {t : State} (hl : t.mem.lines = s.mem.lines)
    (hf : ∀ n : CellId, t.freg (FR.HR_STATUS n) = s.freg (FR.HR_STATUS n) ∧
      t.freg (FR.HR_WIN_CFG n) = s.freg (FR.HR_WIN_CFG n)) (la : Nat) (c : Option CellId) :
    t.frameWait la c = s.frameWait la c := by
  have hways : ∀ n σ, t.cacheWays n σ = s.cacheWays n σ := fun n σ => by
    simp only [State.cacheWays, State.setFrames, State.retiredLayers, (hf n).1, (hf n).2]
  have hres : ∀ n σ, t.residents n σ = s.residents n σ := fun n σ => by simp only [State.residents, hl]
  have hline : ∀ lb, t.line lb = s.line lb := fun lb => by simp only [State.line, hl]
  have hbeside : ∀ p n lb, t.roomBeside p n lb = s.roomBeside p n lb := fun p n lb => by
    simp only [State.roomBeside, hways, hres]
  have hnear : t.nearM = s.nearM := funext fun r => by simp only [State.nearM, hline]
  have hroom : ∀ lb, t.homeRoom lb = s.homeRoom lb := fun lb => by simp only [State.homeRoom, hbeside, hnear]
  have hstays : t.stays = s.stays := funext fun r => by simp only [State.stays, hnear, hroom]
  simp only [State.frameWait, State.hasRoom, hbeside, hstays]

/-- The miss register of a line that one home read waits for. -/
structure OneMiss (s : State) (la : Nat) (a : Agent) (cls : Fin 8) (off k m : Nat) : Prop where
  miss : s.mem.miss = [(m, { line := la, waiters := [.homeRead a cls off k] })]
  backed : s.mem.backed = []
  absent : s.line la = {}
  room : s.frameWait la none = false
  host : s.hostBlocks la false = []

/-- The state without the miss register. -/
def unasked (s : State) : State := { s with mem := { s.mem with miss := [] } }

theorem serveMiss_one {a : Agent} {cls : Fin 8} {off k m : Nat} (h : OneMiss s la a cls off k m)
    (hb : ((unasked s).homeRead la off k cls false).1.mem.backed = []) :
    s.serveMiss la false = ((unasked s).homeRead la off k cls false).1.answer
      (.data ((unasked s).homeRead la off k cls false).2) := by
  have hout : { s with mem := { s.mem with miss := s.mem.miss.filter (fun k => k.2.line != la) } } = unasked s := by
    rw [h.miss]
    simp [unasked]
  have hready : (unasked s).reqReady la (.homeRead a cls off k) = true := by
    have hline : (unasked s).line la = {} := h.absent
    have hroom : (unasked s).frameWait la none = false := (frameWait_congr rfl (fun _ => ⟨rfl, rfl⟩) la none).trans
      h.room
    have hhost : (unasked s).hostBlocks la false = [] := h.host
    simp only [State.reqReady, MissReq.near, hline, hroom, hhost]
    rfl
  have hfind : s.mem.miss.find? (fun m => m.2.line == la) =
      some (m, { line := la, waiters := [.homeRead a cls off k] }) := by rw [h.miss]; simp
  have hserve : State.serveList la false [.homeRead a cls off k] (unasked s) =
      (((unasked s).homeRead la off k cls false).1.answer (.data ((unasked s).homeRead la off k cls false).2), []) := by
    simp only [State.serveList, hready, if_true, State.serveReq]
  rw [State.serveMiss, hfind]
  simp only [hout, hserve, if_true]
  exact letIn_nothing hb

/-- LINE_FILL of a line that one home read waits for. -/
theorem lineFill_one {a : Agent} {cls : Fin 8} {off k m : Nat} (h : OneMiss s la a cls off k m) (hs : Still s)
    (hin : la * 256 + 256 ≤ hbmTop) (hk : off + k ≤ 256) (hr : s.rawAsleep (la * 256) = none) :
    ∃ t d, exec (.lineFill la false {}) s = .next (t.answer (.data d)) ∧
      plain d = plain (s.hbmRead (la * 256 + off) k) ∧ t.mem.miss = [] ∧
      Moves la (StoredAs (filled s la cls)) (unasked s) t := by
  have hecc : Counted s (s.hbmEcc {}) := rfl
  have hi : (s.line la).st = .i := by rw [h.absent]
  have habs : s.absent la = true := by rw [State.absent, hi]; rfl
  have hroom : (s.hbmEcc {}).frameWait la none = s.frameWait la none := by
    refine frameWait_congr (s := s) (t := s.hbmEcc {}) rfl (fun n => ⟨?_, ?_⟩) la none
    · exact freg_count_other s _ (by simp only [FR.HR_STATUS, FR.HBM_CORR_CNT]; omega)
    · exact freg_count_other s _ (by simp only [FR.HR_WIN_CFG, FR.HBM_CORR_CNT]; omega)
  have hone : OneMiss (s.hbmEcc {}) la a cls off k m :=
    ⟨h.miss, h.backed, h.absent, hroom.trans h.room, h.host⟩
  obtain ⟨hmoves, hplain⟩ := homeRead_fills (s := unasked (s.hbmEcc {})) (off := off) (k := k) (cls := cls) hi
    (by omega) hk
  have hcount : Counted (unasked s) (unasked (s.hbmEcc {})) := rfl
  have hall := hmoves.after hcount
  have hserve := serveMiss_one hone (by rw [hmoves.frame]; exact h.backed)
  have hstill : Still ((unasked (s.hbmEcc {})).homeRead la off k cls false).1 :=
    still_moves (s := unasked s) (still_memory hs rfl rfl rfl) hall
  refine ⟨_, _, ?_, hplain, by rw [hmoves.frame]; rfl, hall⟩
  show execLineFill la false {} s = _
  have hmiss : s.mem.miss.any (fun m => m.2.line == la) = true := by rw [h.miss]; simp
  simp only [execLineFill, letIn_nothing h.backed, habs, h.absent, hmiss, h.room, if_true, hr]
  refine (congrArg (fun q : State => (Host.Outcome.next q.goOn : Out)) hserve).trans ?_
  exact congrArg Host.Outcome.next (goOn_still (still_memory hstill rfl rfl rfl))

end
/-! ### Windows (R215) -/

section
variable {s : State} {n : CellId} {o : Origin}

/-- HR_WIN_CFG as a register of its slice. -/
theorem floorReg_winCfg (n : CellId) : floorReg (FR.HR_WIN_CFG n.val) = findReg regsHRS sliceRegBase := by
  have hn := n.isLt
  have hmod : (FR.HR_WIN_CFG n.val - sliceRegBase) % 0x1000 = 0 := by
    simp only [FR.HR_WIN_CFG, sliceRegBase]
    omega
  rw [floorReg, if_pos (by simp only [FR.HR_WIN_CFG, sliceRegBase]; omega), hmod, Nat.add_zero]

/-- The row of HR_WIN_CFG takes every bit of the size. -/
theorem winCfg_row : ∃ r, findReg regsHRS sliceRegBase = some r ∧ r.kind = .plain ∧ r.w1c = 0 ∧ r.w1s = 0 ∧ r.width
    = 32 ∧
    ∀ i < 9, (r.rw &&& lowHalf).testBit (0 + i) = true := by
  refine ⟨(findReg regsHRS sliceRegBase).get (by decide), by simp, by decide, by decide, by decide, by decide, by
    decide⟩

/-- A write of HR_WIN_CFG through any port that reaches it. -/
theorem writeReg_winCfg (h : Reaches o s (FR.HR_WIN_CFG n.val)) (v : Half) :
    ∃ w, s.writeReg o (FR.HR_WIN_CFG n.val) 4 v.toNat = s.winCfgWrite n w ∧ bits w 8 0 = v.toNat % 512 := by
  have hn := n.isLt
  obtain ⟨r, hrow, hkind, hc, hs, hwidth, hmask⟩ := winCfg_row
  have hrow' := (floorReg_winCfg n).trans hrow
  have hcells : inCells (FR.HR_WIN_CFG n.val) = false := by
    rw [inCells, Bool.and_eq_false_iff, decide_eq_false_iff_not, decide_eq_false_iff_not]
    simp only [FR.HR_WIN_CFG, cellRegBase]
    omega
  have hregs : inRegs (FR.HR_WIN_CFG n.val) = true := by
    simp only [inRegs, FR.HR_WIN_CFG, Bool.or_eq_true, Bool.and_eq_true, decide_eq_true_eq]
    omega
  have hw : regWidth (FR.HR_WIN_CFG n.val) = 32 := by
    rw [regWidth, hcells, if_neg Bool.false_ne_true, hrow']
    exact hwidth
  have halign : FR.HR_WIN_CFG n.val % 4 = 0 := by simp only [FR.HR_WIN_CFG]; omega
  have hcell : cellNo ((FR.HR_WIN_CFG n.val - sliceRegBase) / 0x1000) = n := by
    have hdiv : (FR.HR_WIN_CFG n.val - sliceRegBase) / 0x1000 = n.val := by
      simp only [FR.HR_WIN_CFG, sliceRegBase]
      omega
    rw [hdiv]
    exact Fin.ext (Nat.mod_eq_of_lt hn)
  rw [writeReg_word h hregs hcells hw halign, State.writeFloor, hrow']
  simp only [hkind]
  rw [if_pos (by simp only [FR.HR_WIN_CFG, sliceRegBase]; omega), hcell]
  refine ⟨_, rfl, ?_⟩
  rw [bits_maskWrite hc hs _ _ hmask, bits, Nat.shiftRight_zero, Nat.mod_mod_of_dvd _ (by decide)]
  rfl

@[simp] theorem slice_setSlice_self (s : State) (n : CellId) (x : Slice) : (s.setSlice n x).slice n = x :=
  Vector.getElem_set_self ..

theorem slice_setSlice_other (s : State) {n m : CellId} (x : Slice) (h : m ≠ n) : (s.setSlice n x).slice m = s.slice
    m :=
  Vector.getElem_set_ne n.isLt m.isLt (fun e => h (Fin.ext e.symm))

/-- A resize done: the window of `units`, what it gives up or takes emptied. -/
def resized (x : Slice) (cur new : Nat) : Slice :=
  { x with
    resize := none, win := SMap.eraseRange x.win (min cur new) (max cur new), winUndef := min x.winUndef (min cur new)
    winPoison := x.winPoison.delRange (min cur new / 64) (max cur new / 64) }

theorem smap_get_congr {α : Type} {d d' : Nat → α} (m : SMap α) {k : Nat} (h : d k = d' k) :
    SMap.get d m k = SMap.get d' m k := by
  induction m with
  | nil => exact h
  | cons p m ih => rw [smap_get_cons, smap_get_cons, ih]

theorem plain_winRead (s : State) (n : CellId) (off : Nat) :
    plain (s.winRead n off 1) = [SMap.get (s.slice n).winDef (s.slice n).win off] := by
  rw [State.winRead, plain_withPoison]
  rfl

theorem get_resized (x : Slice) {cur new off : Nat} (h : off < new) :
    SMap.get (resized x cur new).winDef (resized x cur new).win off =
      if off < cur then SMap.get x.winDef x.win off else 0 := by
  have hget : SMap.get (resized x cur new).winDef (SMap.eraseRange x.win (min cur new) (max cur new)) off =
      if (decide (off < min cur new) || decide (max cur new ≤ off)) = true then
        SMap.get (resized x cur new).winDef x.win off else (resized x cur new).winDef off :=
    smap_get_filter _ x.win (fun k => decide (k < min cur new) || decide (max cur new ≤ k)) off
  refine hget.trans ?_
  by_cases hc : off < cur
  · have hdef : (resized x cur new).winDef off = x.winDef off := by
      simp only [Slice.winDef, resized]
      congr 1
      simp only [eq_iff_iff]
      omega
    rw [if_pos (by simp [h, hc]), if_pos hc, smap_get_congr x.win hdef]
  · rw [if_neg (by simp only [Bool.or_eq_true, decide_eq_true_eq]; omega), if_neg hc]
    exact if_neg (by simp only [resized]; omega)

theorem fitWaits_empty (h : s.mem.lines.flatMap (fun e => e.2.residents e.1 n) = []) (units gone : Nat) :
    s.fitWaits n units gone = false := by
  rw [State.fitWaits, h]
  rfl

/-- WIN_RESIZE_DONE of a slice that holds no lines. -/
theorem winResizeDone_empty {k : Nat} (hr : (s.slice n).resize = some k) (hs : Still s)
    (h : s.mem.lines.flatMap (fun e => e.2.residents e.1 n) = []) :
    exec (.winResizeDone n) s = .next ((s.setSlice n (resized (s.slice n) (s.winSize n) (k * 0x10000))).putFreg
      (FR.HR_WIN_CFG n) 8 0 k) := by
  show execWinResizeDone n s = _
  simp only [execWinResizeDone, hr, fitWaits_empty h, Bool.false_eq_true, if_false]
  have hfit : (((s.setSlice n (resized (s.slice n) (s.winSize n) (k * 0x10000))).putFreg
      (FR.HR_WIN_CFG n) 8 0 k).fitSlice n) = (s.setSlice n (resized (s.slice n) (s.winSize n) (k * 0x10000))).putFreg
      (FR.HR_WIN_CFG n) 8 0 k := by
    rw [State.fitSlice]
    exact (congrArg (List.foldl (State.fitResident n) _) h).trans rfl
  refine (congrArg (fun q : State => (Host.Outcome.next q.goOn : Out)) hfit).trans ?_
  exact congrArg Host.Outcome.next (goOn_still (still_memory hs rfl rfl rfl))

/-! ### HR_UNPIN (R232) -/

theorem mem_of_get_ne {α : Type} (d : Nat → α) {m : SMap α} {k : Nat} (h : SMap.get d m k ≠ d k) :
    ∃ e ∈ m, e.1 = k := by
  induction m with
  | nil => exact absurd rfl h
  | cons p m ih =>
    obtain ⟨a, v⟩ := p
    by_cases ha : a = k
    · exact ⟨(a, v), List.mem_cons_self, ha⟩
    · rw [smap_get_cons, if_neg ha] at h
      obtain ⟨e, he, hk⟩ := ih h
      exact ⟨e, List.mem_cons_of_mem _ he, hk⟩

/-- A line without its pin. -/
def unpinned (l : Line) : Line := { l with pinned := false }

theorem unpinLine_spec (hw : SMap.wf noLine s.mem.lines = true) (la : Nat) :
    (∀ lb, (s.unpinLine la).line lb = if lb = la then unpinned (s.line lb) else s.line lb) ∧
      SMap.wf noLine (s.unpinLine la).mem.lines = true ∧
      s.unpinLine la = { s with mem := { s.mem with lines := (s.unpinLine la).mem.lines } } := by
  simp only [State.unpinLine]
  split
  · refine ⟨fun lb => ?_, smap_wf_set _ _ _ _ hw, rfl⟩
    split
    · next h => rw [h]; exact line_setLine_self _ _ _ (.inr hw)
    · exact line_setLine_other _ _ ‹_›
  · rename_i hp
    refine ⟨fun lb => ?_, hw, rfl⟩
    split
    · next h =>
      subst h
      have hp' : (s.line lb).pinned = false := by simpa using hp
      rw [unpinned, ← hp']
    · rfl

theorem unpinList_spec : ∀ (es : List (Nat × Line)) (s : State), SMap.wf noLine s.mem.lines = true →
    (∀ lb, (es.foldl (fun s e => s.unpinLine e.1) s).line lb =
      if lb ∈ es.map (·.1) then unpinned (s.line lb) else s.line lb) ∧
      es.foldl (fun s e => s.unpinLine e.1) s =
        { s with mem := { s.mem with lines := (es.foldl (fun s e => s.unpinLine e.1) s).mem.lines } }
  | [], _, _ => ⟨fun _ => rfl, rfl⟩
  | e :: es, s, hw => by
    obtain ⟨hline, hw1, hframe1⟩ := unpinLine_spec hw e.1
    obtain ⟨hrest, hframe⟩ := unpinList_spec es (s.unpinLine e.1) hw1
    rw [List.foldl_cons]
    refine ⟨fun lb => ?_, by rw [hframe, hframe1]⟩
    rw [hrest, hline]
    by_cases h1 : lb = e.1 <;> by_cases h2 : lb ∈ es.map (·.1) <;> simp [h1, h2, unpinned]

/-- A write of HR_UNPIN takes the pins of its classes. -/
theorem line_unpinClasses (hw : SMap.wf noLine s.mem.lines = true) (v la : Nat) :
    (s.unpinClasses v).line la =
      { s.line la with pinned := (s.line la).pinned && !bitB v (s.line la).cls.val } := by
  refine ((unpinList_spec _ s hw).1 la).trans ?_
  split
  · next h =>
    obtain ⟨e, he, rfl⟩ := List.mem_map.1 h
    obtain ⟨hmem, hp⟩ := List.mem_filter.1 he
    have hget : s.line e.1 = e.2 := smap_get_of_mem noLine hw hmem
    simp only [Bool.and_eq_true] at hp
    rw [hget, unpinned, hp.1, hp.2]
    rfl
  · next h =>
    have hkeep : ((s.line la).pinned && !bitB v (s.line la).cls.val) = (s.line la).pinned := by
      cases hp : (s.line la).pinned with
      | false => rfl
      | true =>
        have hne : s.line la ≠ {} := fun e => by rw [e] at hp; cases hp
        obtain ⟨e, he, rfl⟩ := mem_of_get_ne noLine hne
        have hget : s.line e.1 = e.2 := smap_get_of_mem noLine hw he
        cases hb : bitB v (s.line e.1).cls.val with
        | false => rfl
        | true =>
          refine absurd (List.mem_map.2 ⟨e, List.mem_filter.2 ⟨he, ?_⟩, rfl⟩) h
          rw [← hget, hp, hb]
          rfl
    rw [hkeep]

end

/-! ### The obligation -/

section
variable {s : State} {n : CellId} {o : Origin}

theorem homeEviction_of {i : Fin 2048} {v : Resident} (h : lruHeld (s.residents n i.val) = some v) :
    exec (.homeEviction n i) s =
      if v.held then .next (s.stallF (FR.HR_EVICT_HOLD_CNT n))
      else if v.near then
        if s.stays v then .next s else .next ((s.bringHome v.la).modLine v.la (fun l => l.lose n))
      else .next (s.evictHome v.la) := by
  show execHomeEviction n i s = _
  rw [execHomeEviction, h]

theorem evict_home_leaving {i : Fin 2048} {v : Resident} (h : lruHeld (s.residents n i.val) = some v)
    (hheld : v.held = false) (hnear : v.near = false)
    (hgo : (s.line v.la).dirty = true ∨ s.hostBlocks v.la true ≠ []) :
    ∃ t, exec (.homeEviction n i) s = .next t ∧
      t.line v.la = { s.line v.la with
        st := if (s.line v.la).st = .a then .a else .s, holders := .cells [], near := [], leaving := true } ∧
      (∀ lb, lb ≠ v.la → t.line lb = s.line lb) ∧ (∀ b ∈ s.hostBlocks v.la true, ∃ w, (b, w) ∈ t.hs.snooped) ∧
      t = { s with mem := { s.mem with lines := t.mem.lines }, fregs := t.fregs
                   hs := { s.hs with snooped := t.hs.snooped } } := by
  refine ⟨_, by rw [homeEviction_of h, hheld, hnear, if_neg Bool.false_ne_true, if_neg Bool.false_ne_true], ?_⟩
  rw [evictHome_leaving hgo]
  refine ⟨line_setLine_self _ _ _ (.inl fun e => nomatch congrArg Line.leaving e), fun lb hb =>
    (line_setLine_other _ _ hb).trans (line_recall s v.la true lb), recall_asks s v.la true, ?_⟩
  have hframe := recall_frame s v.la true
  generalize s.recall v.la true = q at hframe
  rw [hframe]
  rfl

theorem evict_home_gone {i : Fin 2048} {v : Resident} (hw : SMap.wf noLine s.mem.lines = true)
    (h : lruHeld (s.residents n i.val) = some v) (hheld : v.held = false) (hnear : v.near = false)
    (hd : (s.line v.la).dirty = false) (hh : s.hostBlocks v.la true = []) :
    ∃ t, exec (.homeEviction n i) s = .next t ∧ t.line v.la = { epoch := (s.line v.la).epoch } ∧
      (∀ lb, lb ≠ v.la → t.line lb = s.line lb) ∧ t = { s with mem := { s.mem with lines := t.mem.lines } } := by
  obtain ⟨hmem, hpin⟩ := lruHeld_mem h
  have hline : (s.line v.la).pinned = false := ((resident_of hw hmem).1 hnear).symm.trans hpin
  refine ⟨_, by rw [homeEviction_of h, hheld, hnear, if_neg Bool.false_ne_true, if_neg Bool.false_ne_true], ?_⟩
  rw [evictHome_gone hd hh]
  refine ⟨(line_setLine_self _ _ _ (.inr hw)).trans ?_, fun lb hb => line_setLine_other _ _ hb, rfl⟩
  rw [Line.gone, hline]
  rfl

theorem writeback_done {la : Nat} (hw : Memory.wf s.mem = true) (hl : (s.line la).leaving = true)
    (hh : s.hostBlocks la true = []) (hd : (s.line la).dirty = true) (hr : s.rawAsleep (la * 256) = none)
    (hs : Still s) (hin : la * 256 + 256 ≤ hbmTop) :
    ∃ t, exec (.writebackAck la) s = .next t ∧ t.line la = (s.line la).gone ∧
      (∀ lb, lb ≠ la → t.line lb = s.line lb) ∧ plain (t.hbmRead (la * 256) 256) = plain ((s.line la).read 0 256) ∧
      (∀ b k, b + k ≤ la * 256 ∨ la * 256 + 256 ≤ b → plain (t.hbmRead b k) = plain (s.hbmRead b k)) ∧
      t = { s with mem := t.mem } := by
  simp only [Memory.wf, Bool.and_eq_true] at hw
  obtain ⟨⟨⟨hhbm, -⟩, -⟩, hlines⟩ := hw
  have hdrop := dropLine_dirty hd (s := s) (la := la) (by omega)
  have hlen := length_lineRead (s.line la) 0 256
  refine ⟨s.dropLine la, ?_, ?_⟩
  · show Host.Outcome.next (s.lineLeft la) = _
    rw [lineLeft_dirty hl hh hd hr, goOn_still]
    rw [hdrop]
    exact still_memory hs rfl rfl rfl
  · rw [hdrop]
    have hread := hbmRead_hbmWrite s (la * 256) ((s.line la).read 0 256) hhbm
    rw [hlen] at hread
    refine ⟨line_setLine_self _ _ _ (.inr hlines), fun lb hb => line_setLine_other _ _ hb, ?_, fun b k hb => ?_, rfl⟩
    · rw [hbmRead_setLine, hread]
    · rw [hbmRead_setLine, hbmRead_hbmWrite_other s _ (by rw [hlen]; exact hb)]

theorem pin_limits (s : State) (n : CellId) (units : Nat) :
    (336 < units || s.freg FR.HR_PIN_CAP < units * 256 + s.pinnedAll n ||
      !s.reserveOk n units (s.retiredLayers n) true) = true ↔
    ¬ (units ≤ 336 ∧ units * 256 + s.pinnedAll n ≤ s.freg FR.HR_PIN_CAP ∧
      s.reserveOk n units (s.retiredLayers n) true = true) := by
  generalize s.reserveOk n units (s.retiredLayers n) true = reserve
  generalize units * 256 + s.pinnedAll n = pins
  generalize s.freg FR.HR_PIN_CAP = cap
  cases reserve
  · simp
  · simp only [Bool.not_true, Bool.or_false, Bool.or_eq_true, decide_eq_true_eq, and_true, not_and_or, not_le]

theorem winCfgWrite_fits {w units : Nat} (hw : bits w 8 0 = units) (hr : (s.slice n).resize = none) :
    s.winCfgWrite n w = if units ≤ 336 ∧ units * 256 + s.pinnedAll n ≤ s.freg FR.HR_PIN_CAP ∧
        s.reserveOk n units (s.retiredLayers n) true = true
      then s.setSlice n { s.slice n with resize := some units } else s.orFreg (FR.HR_STATUS n) 4 := by
  simp only [State.winCfgWrite, hw, hr, Option.isSome_none, Bool.false_eq_true, if_false]
  by_cases h : units ≤ 336 ∧ units * 256 + s.pinnedAll n ≤ s.freg FR.HR_PIN_CAP ∧
      s.reserveOk n units (s.retiredLayers n) true = true
  · rw [if_pos h, if_neg (fun hl => (pin_limits s n units).1 hl h)]
    rfl
  · rw [if_neg h, if_pos ((pin_limits s n units).2 h)]

theorem hrUnpin_write (h : Reaches o s FR.HR_UNPIN) (v : Half) :
    s.writeReg o FR.HR_UNPIN 4 v.toNat = (s.unpinClasses ((v.toNat % 2 ^ 32 &&& lowHalf) % 256)).goOn := by
  rw [writeReg_word h (by decide +kernel) (by decide) (by decide +kernel) (by decide)]
  exact (writeFloor_action (r := (floorReg FR.HR_UNPIN).get (by decide +kernel)) (by simp) (by decide +kernel) _ _
    _).trans rfl

theorem bitB_unpin (v k : Nat) (h : k < 8) : bitB ((v % 2 ^ 32 &&& lowHalf) % 256) k = bitB v k := by
  rw [show (256 : Nat) = 2 ^ 8 from rfl, bitB_mod_two_pow h, bitB_eq_testBit, bitB_eq_testBit, Nat.testBit_and,
    testBit_lowHalf (by omega), Nat.testBit_mod_two_pow, decide_eq_true (by omega), Bool.true_and, Bool.and_true]

theorem hrUnpin_done (h : Reaches o s FR.HR_UNPIN) (hs : Still s) (hw : SMap.wf noLine s.mem.lines = true) (v : Half) :
    ∃ t, exec (.hrUnpin o v) s = .next t ∧
      (∀ la, t.line la = { s.line la with pinned := (s.line la).pinned && !bitB v.toNat (s.line la).cls.val }) ∧
      t = { s with mem := { s.mem with lines := t.mem.lines } } := by
  have hframe := (unpinList_spec (s.mem.lines.filter (fun e => e.2.pinned && bitB ((v.toNat % 2 ^ 32 &&& lowHalf) % 256)
    e.2.cls.val)) s hw).2
  refine ⟨s.unpinClasses ((v.toNat % 2 ^ 32 &&& lowHalf) % 256), ?_, fun la => ?_, hframe⟩
  · show Host.Outcome.next (s.writeReg o FR.HR_UNPIN 4 v.toNat) = _
    rw [hrUnpin_write h, goOn_still]
    rw [State.unpinClasses, hframe]
    exact still_memory hs rfl rfl rfl
  · rw [line_unpinClasses hw, bitB_unpin _ _ (s.line la).cls.isLt]

end

/-- Settles O32: what the evictor takes (`nearLeaves`, `evict_home_leaving`, `evict_home_gone`), a write-back that memory has
(`writeback_done`), a fill (`lineFill_one`), and the writes to the windows (`winCfgWrite_fits`,
  `winResizeDone_empty`) and
to HR_UNPIN (`hrUnpin_done`). -/
theorem evictionsFillsAndPins : Obligations.EvictionsFillsAndPins := by
  unfold Obligations.EvictionsFillsAndPins
  refine ⟨fun s la n i hw => ⟨fun hnone => ?empty, fun v hv => ⟨fun hheld => ?hold, fun hheld hnear hstays => ?stays,
    fun hheld hnear hstays => ?near, fun hheld hnear hgo => evict_home_leaving hv hheld hnear hgo,
    fun hheld hnear hd hh => evict_home_gone hw hv hheld hnear hd hh⟩, fun hl => ?stay, fun hl hh => ?host,
    fun k hl hh hd hr => ?asleep, fun hl hh hd hr hs hm hin => writeback_done hm hl hh hd hr hs hin,
    fun a cls off k m hmiss hb hl hs hin hk hr hh hf => ?fill⟩,
    fun s n o v => ⟨fun h hr => ?busy, fun h hr => ⟨fun hfits => ?fits, fun hfits => ?refused⟩,
      fun k hr hk hs hwf hnone => ?resize, fun h hs hw => hrUnpin_done h hs hw v⟩⟩
  case empty =>
    show execHomeEviction n i s = _
    rw [execHomeEviction, hnone]
  case hold =>
    refine ⟨_, by rw [homeEviction_of hv, if_pos hheld], rfl, fun r hr => ?_⟩
    exact freg_count_other s _ hr
  case stays => rw [homeEviction_of hv, if_neg (by simp [hheld]), if_pos hnear, if_pos hstays]
  case near =>
    have h := nearLeaves hw v.la n
    obtain ⟨hholds, hdata, hst, hholders⟩ := h.line
    exact ⟨_, by rw [homeEviction_of hv, if_neg (by simp [hheld]), if_pos hnear, if_neg (by simp [hstays])],
      hholds, hdata, hst, hholders, h.kept, h.whole⟩
  case stay =>
    show Host.Outcome.next (s.lineLeft la) = _
    rw [State.lineLeft, if_pos (by simpa using hl)]
  case host =>
    show Host.Outcome.next (s.lineLeft la) = _
    rw [State.lineLeft, if_neg (by simpa using hl), if_pos (by simpa using hh)]
  case asleep =>
    show Host.Outcome.next (s.lineLeft la) = _
    rw [State.lineLeft, if_neg (by simpa using hl), if_neg (by simpa using hh), if_pos hd, hr]
  case fill =>
    obtain ⟨t, d, ht, hd, hmissed, hmoves⟩ := lineFill_one (s := s) (la := la) ⟨hmiss, hb, hl, hf, hh⟩ hs hin hk hr
    obtain ⟨g, w, p, u, hline⟩ := hmoves.line
    obtain ⟨hst, hcls, hholder, hdirty⟩ := filled_fields s la cls
    have hclass : ((s.line la).fresh cls).cls = cls := by rw [show s.line la = {} from hl]; rfl
    have hanswer : (t.answer (.data d)).line la = t.line la := rfl
    refine ⟨_, d, ht, hd, hmissed, ?_, ?_, ?_, ?_, ?_, hmoves.kept, ?_⟩
    · rw [hanswer, hline]; exact hst
    · rw [hanswer, hline]; exact hcls.trans hclass
    · rw [hanswer, hline]; exact hholder
    · rw [hanswer, hline]; exact hdirty
    · rw [hanswer, hline]
      exact plain_filled s la cls
    · rw [State.answer]
      conv => lhs; rw [hmoves.whole]
      rfl
  case busy =>
    obtain ⟨w, hwrite, -⟩ := writeReg_winCfg h v
    show Host.Outcome.next (s.writeReg o (FR.HR_WIN_CFG n.val) 4 v.toNat) = _
    rw [hwrite, State.winCfgWrite, if_pos (Option.isSome_iff_ne_none.2 hr)]
  case fits =>
    obtain ⟨w, hwrite, hbits⟩ := writeReg_winCfg h v
    exact ⟨_, congrArg Host.Outcome.next (hwrite.trans ((winCfgWrite_fits hbits hr).trans (if_pos hfits))), rfl⟩
  case refused =>
    obtain ⟨w, hwrite, hbits⟩ := writeReg_winCfg h v
    exact ⟨_, congrArg Host.Outcome.next (hwrite.trans ((winCfgWrite_fits hbits hr).trans (if_neg hfits))), rfl⟩
  case resize =>
    refine ⟨_, winResizeDone_empty hr hs hnone, ?_, ?_, fun m hm => ?_, fun off h1 h2 => ?_, fun off h1 h2 => ?_,
      fun r hr' => ?_, rfl⟩
    · exact congrArg Slice.resize (slice_setSlice_self s n _)
    · have hreg : ((s.setSlice n (resized (s.slice n) (s.winSize n) (k * 0x10000))).putFreg (FR.HR_WIN_CFG n) 8 0
        k).freg
          (FR.HR_WIN_CFG n) = putBits (s.freg (FR.HR_WIN_CFG n)) 8 0 k % 2 ^ 64 := freg_setFreg_self _ _ _ hwf
      have hbits : bits (putBits (s.freg (FR.HR_WIN_CFG n)) 8 0 k % 2 ^ 64) 8 0 = k := by
        refine (bits_congr (y := putBits (s.freg (FR.HR_WIN_CFG n)) 8 0 k) fun i hi => ?_).trans ?_
        · rw [Nat.testBit_mod_two_pow, decide_eq_true (by omega), Bool.true_and]
        · rw [bits_putBits_self, Nat.mod_eq_of_lt (by omega)]
      rw [State.winSize, hreg, hbits]
    · exact slice_setSlice_other s _ hm
    · rw [plain_winRead, plain_winRead]
      have hslice : ((s.setSlice n (resized (s.slice n) (s.winSize n) (k * 0x10000))).putFreg (FR.HR_WIN_CFG n) 8 0
        k).slice
          n = resized (s.slice n) (s.winSize n) (k * 0x10000) := slice_setSlice_self s n _
      rw [hslice, get_resized _ h2, if_pos h1]
    · rw [plain_winRead]
      have hslice : ((s.setSlice n (resized (s.slice n) (s.winSize n) (k * 0x10000))).putFreg (FR.HR_WIN_CFG n) 8 0
        k).slice
          n = resized (s.slice n) (s.winSize n) (k * 0x10000) := slice_setSlice_self s n _
      rw [hslice, get_resized _ h2, if_neg (by omega)]
    · exact freg_setFreg_other _ _ hr'

end Sys2Proof.Proofs
end
section
/-! O33: errors of the vertical interfaces, spare lanes and retired layers. -/

namespace Sys2Proof.Proofs
open Sys2Proof Sys2Proof.Machine Sys2Proof.Laws

section
variable {s : State} {n : CellId} {i : Fin 4}

/-! ### Spare lanes (R237) -/

/-- The registers that a swapped lane changes, beside HR_VPORT. -/
def laneRegs (n : Nat) : List Nat := FR.HR_VPORT n :: FR.HR_VLANE_SPARE_CNT n :: eventRegs 1

theorem vcrc_not_lane (n : CellId) : FR.HR_VCRC_ERR_CNT n.val ∉ laneRegs n.val := by
  have hn := n.isLt
  simp only [laneRegs, eventRegs, List.mem_cons, List.not_mem_nil, or_false, FR.HR_VCRC_ERR_CNT, FR.HR_VPORT,
    FR.HR_VLANE_SPARE_CNT, FR.ERR_CLS_CNT, FR.ALM_LIMIT_CNT, FR.ALM_DROP_CNT, FR.ALM_STATUS, FR.ALM_SEV_DROP_CNT,
      FR.HI_EVT]
  omega

theorem vport_not_event (n : CellId) : FR.HR_VPORT n.val ∉ eventRegs 1 ∧ FR.HR_VPORT n.val ≠ FR.HR_VLANE_SPARE_CNT
    n.val := by
  have hn := n.isLt
  simp only [eventRegs, List.mem_cons, List.not_mem_nil, or_false, FR.HR_VPORT,
    FR.HR_VLANE_SPARE_CNT, FR.ERR_CLS_CNT, FR.ALM_LIMIT_CNT, FR.ALM_DROP_CNT, FR.ALM_STATUS, FR.ALM_SEV_DROP_CNT,
      FR.HI_EVT]
  omega

/-- How many lanes of interface i are swapped. -/
def lanesOf (s : State) (n : CellId) (i : Fin 4) : Nat :=
  bits (s.freg (FR.HR_VPORT n.val)) (8 * i.val + 6) (8 * i.val)

/-- The state after one swap. -/
def spareOne (s : State) (n : CellId) (i : Fin 4) : State :=
  let s := s.putFreg (FR.HR_VPORT n.val) (8 * i.val + 6) (8 * i.val) (lanesOf s n i + 1)
  (s.count (FR.HR_VLANE_SPARE_CNT n.val)).logEvent 0x0201 n.val 1 0 (s.freg (FR.HR_VPORT n.val)) 0

theorem spareOne_regs (s : State) (n : CellId) (i : Fin 4) : FloorRegs (laneRegs n.val) s (spareOne s n i) := by
  have hset : FloorRegs (laneRegs n.val) s
      (s.putFreg (FR.HR_VPORT n.val) (8 * i.val + 6) (8 * i.val) (lanesOf s n i + 1)) :=
    (FloorRegs.refl _ s).setFreg _ (by simp [laneRegs])
  have hcount := hset.count (a := FR.HR_VLANE_SPARE_CNT n.val) 1 (by simp [laneRegs])
  exact hcount.trans ((floorRegs_logEvent _ _ _ _ _ _ _).mono fun a ha => by simp [laneRegs, ha])

theorem spareOne_frame (s : State) (n : CellId) (i : Fin 4) :
    spareOne s n i = { s with fregs := (spareOne s n i).fregs, alm := (spareOne s n i).alm } := by
  unfold spareOne
  exact (logEvent_frame _ _ _ _ _ _ (by decide)).trans rfl

theorem spareOne_lanes (hw : SMap.wf floorResetVal s.fregs = true) (hl : lanesOf s n i < 127) :
    lanesOf (spareOne s n i) n i = lanesOf s n i + 1 := by
  have hi := i.isLt
  have hreg : (spareOne s n i).freg (FR.HR_VPORT n.val) =
      putBits (s.freg (FR.HR_VPORT n.val)) (8 * i.val + 6) (8 * i.val) (lanesOf s n i + 1) % 2 ^ 64 :=
    ((floorRegs_logEvent _ _ _ _ _ _ _).freg _ (vport_not_event n).1).trans
      ((freg_count_other _ 1 (vport_not_event n).2).trans (freg_setFreg_self s _ _ hw))
  rw [lanesOf, hreg]
  refine (bits_congr (y := putBits (s.freg (FR.HR_VPORT n.val)) (8 * i.val + 6) (8 * i.val) (lanesOf s n i + 1))
    fun j hj => ?_).trans ?_
  · rw [Nat.testBit_mod_two_pow, decide_eq_true (by omega), Bool.true_and]
  · rw [bits_putBits_self, show 8 * i.val + 6 + 1 - 8 * i.val = 7 by omega]
    exact Nat.mod_eq_of_lt (by omega)

/-- Several lanes swapped for spares. -/
theorem spareLanes_spec : ∀ (k : Nat) (s : State), SMap.wf floorResetVal s.fregs = true → lanesOf s n i + k ≤ 64 →
    FloorRegs (laneRegs n.val) s (s.spareLanes n i k) ∧ lanesOf (s.spareLanes n i k) n i = lanesOf s n i + k ∧
      s.spareLanes n i k = { s with fregs := (s.spareLanes n i k).fregs, alm := (s.spareLanes n i k).alm }
  | 0, s, _, _ => ⟨.refl _ s, rfl, rfl⟩
  | k + 1, s, hw, hk => by
    have hstep : s.spareLanes n i (k + 1) = (spareOne s n i).spareLanes n i k := rfl
    have hone := spareOne_regs s n i
    have hlanes := spareOne_lanes (n := n) (i := i) hw (by omega)
    obtain ⟨hregs, hl, hframe⟩ := spareLanes_spec k (spareOne s n i) (hone.canon hw) (by omega)
    rw [hstep]
    exact ⟨hone.trans hregs, by rw [hl, hlanes]; omega, by rw [hframe, spareOne_frame]⟩

/-! ### Retired layers (R239) -/

/-- The layers from i on whose bit b is not set yet. -/
def newLayers (i : Fin 4) (b : Nat → Bool) : List Nat := (List.range 4).filter (fun k => i.val ≤ k && !b k)

/-- The bits that retire them. -/
def layerBits (l : List Nat) : Nat := (l.map (fun k => 2 ^ (8 + k))).sum

theorem layerBits_bit : ∀ (b0 b1 b2 b3 : Bool) (i k : Fin 4),
    (layerBits (newLayers i (fun j => [b0, b1, b2, b3].getD j false))).testBit (8 + k.val) =
      (decide (i ≤ k) && !([b0, b1, b2, b3].getD k.val false)) := by decide

theorem newLayers_congr {b b' : Nat → Bool} (i : Fin 4) (h : ∀ k < 4, b k = b' k) : newLayers i b = newLayers i b' := by
  refine List.filter_congr fun k hk => ?_
  rw [h k (List.mem_range.1 hk)]

/-- After the retirement the bit of a layer says that it was retired, or is one of those now. -/
theorem bitB_retired (old : Nat) (i k : Fin 4) :
    bitB (old ||| layerBits (newLayers i (fun j => bitB old (8 + j)))) (8 + k.val) =
      (bitB old (8 + k.val) || decide (i ≤ k)) := by
  have hlist : ∀ j < 4, bitB old (8 + j) =
      [bitB old 8, bitB old 9, bitB old 10, bitB old 11].getD j false := fun j hj => by
    match j, hj with
    | 0, _ | 1, _ | 2, _ | 3, _ => rfl
  have hbit := layerBits_bit (bitB old 8) (bitB old 9) (bitB old 10) (bitB old 11) i k
  rw [← newLayers_congr i hlist, ← hlist k.val k.isLt] at hbit
  rw [bitB_eq_testBit, Nat.testBit_or, hbit, ← bitB_eq_testBit]
  cases bitB old (8 + k.val) <;> simp

/-- The registers of a retirement. -/
def retireRegs (n : Nat) : List Nat := [FR.HR_STATUS n, FR.HR_AVAIL_FRAMES n, FR.HR_CAP_LINES]

theorem retire_places (n : CellId) : FR.HR_STATUS n.val ≠ FR.HR_AVAIL_FRAMES n.val ∧ FR.HR_STATUS n.val ≠
    FR.HR_CAP_LINES ∧
    FR.HR_AVAIL_FRAMES n.val ≠ FR.HR_CAP_LINES ∧ ∀ a ∈ retireRegs n.val, a ∉ eventRegs 1 := by
  have hn := n.isLt
  simp only [retireRegs, eventRegs, List.mem_cons, List.not_mem_nil, or_false, FR.HR_STATUS, FR.HR_AVAIL_FRAMES,
    FR.HR_CAP_LINES,
    FR.ERR_CLS_CNT, FR.ALM_LIMIT_CNT, FR.ALM_DROP_CNT, FR.ALM_STATUS, FR.ALM_SEV_DROP_CNT, FR.HI_EVT]
  refine ⟨by omega, by omega, by omega, fun a ha => by omega⟩

/-- What is left available with k layers fewer. -/
def lessLayers (s : State) (n : CellId) (k : Nat) : State :=
  let s := s.setFreg (FR.HR_AVAIL_FRAMES n.val) (s.freg (FR.HR_AVAIL_FRAMES n.val) - 12288 * k)
  s.setFreg FR.HR_CAP_LINES (s.freg FR.HR_CAP_LINES - 24576 * k)

theorem lessLayers_spec {k : Nat} (hw : SMap.wf floorResetVal s.fregs = true) (hc : 24576 * k ≤ s.freg FR.HR_CAP_LINES)
    (hf : 12288 * k ≤ s.freg (FR.HR_AVAIL_FRAMES n.val)) :
    (lessLayers s n k).freg (FR.HR_AVAIL_FRAMES n.val) + 12288 * k = s.freg (FR.HR_AVAIL_FRAMES n.val) ∧
      (lessLayers s n k).freg FR.HR_CAP_LINES + 24576 * k = s.freg FR.HR_CAP_LINES ∧
      (lessLayers s n k).freg (FR.HR_STATUS n.val) = s.freg (FR.HR_STATUS n.val) := by
  obtain ⟨hsa, hsc, hac, -⟩ := retire_places n
  have hlt1 := freg_lt s (FR.HR_AVAIL_FRAMES n.val)
  have hlt2 := freg_lt s FR.HR_CAP_LINES
  have hset : FGood (s.setFreg (FR.HR_AVAIL_FRAMES n.val) (s.freg (FR.HR_AVAIL_FRAMES n.val) - 12288 * k)).fregs :=
    smap_wf_set _ _ _ _ hw
  refine ⟨?_, ?_, ?_⟩
  · rw [lessLayers, freg_setFreg_other _ _ hac, freg_setFreg_self s _ _ hw, Nat.mod_eq_of_lt (by omega)]
    omega
  · rw [lessLayers, freg_setFreg_self _ _ _ hset, freg_setFreg_other _ _ hac.symm, Nat.mod_eq_of_lt (by omega)]
    omega
  · rw [lessLayers, freg_setFreg_other _ _ hsc, freg_setFreg_other _ _ hsa]

/-- HR_STATUS with the bits m set and bit 3 cleared. -/
def statusRetired (s : State) (n : CellId) (m : Nat) : State :=
  (s.orFreg (FR.HR_STATUS n.val) m).clrFreg (FR.HR_STATUS n.val) 8

theorem statusRetired_bit (hw : SMap.wf floorResetVal s.fregs = true) (m k : Nat) (hk : k < 4) :
    bitB ((statusRetired s n m).freg (FR.HR_STATUS n.val)) (8 + k) = bitB (s.freg (FR.HR_STATUS n.val) ||| m) (8 +
      k) := by
  have hset : FGood (s.orFreg (FR.HR_STATUS n.val) m).fregs := smap_wf_set _ _ _ _ hw
  rw [statusRetired, State.clrFreg, freg_setFreg_self _ _ _ hset, State.orFreg, freg_setFreg_self s _ _ hw,
    sub_and_eq_ldiff]
  simp only [bitB_eq_testBit, Nat.testBit_mod_two_pow, Nat.testBit_ldiff, decide_eq_true (show 8 + k < 64 by omega),
    Bool.true_and]
  rw [show (8 : Nat) = 2 ^ 3 from rfl, Nat.testBit_two_pow_of_ne (by omega)]
  simp

theorem statusRetired_other (m : Nat) {a : Nat} (h : a ≠ FR.HR_STATUS n.val) : (statusRetired s n m).freg a = s.freg
    a :=
  (freg_setFreg_other _ _ h).trans (freg_setFreg_other _ _ h)

theorem statusRetired_canon (hw : SMap.wf floorResetVal s.fregs = true) (m : Nat) : FGood (statusRetired s n m).fregs :=
  smap_wf_set _ _ _ _ (smap_wf_set _ _ _ _ hw)

/-- Slice n and its registers with the layers l retired. -/
def retired (s : State) (n : CellId) (l : List Nat) : State :=
  (lessLayers (statusRetired s n (layerBits l)) n l.length).setSlice n
    { s.slice n with failedAt := [], retireDue := false }

theorem no_residents (h : ∀ e ∈ s.mem.lines, homeSlice (e.1 * 256) ≠ n ∧ e.2.holds n = false) :
    s.mem.lines.flatMap (fun e => e.2.residents e.1 n) = [] := by
  rw [List.flatMap_eq_nil_iff]
  intro e he
  obtain ⟨hhome, hholds⟩ := h e he
  have hnear : e.2.near.filter (fun k => k.cell == n) = [] := by
    rw [List.filter_eq_nil_iff]
    simpa [Line.holds] using hholds
  rw [Line.residents, if_neg (by simp [hhome]), hnear]
  rfl

theorem dropPins_none (h : ∀ e ∈ s.mem.lines, homeSlice (e.1 * 256) ≠ n) : s.dropPins n = s := by
  have hnone : s.mem.lines.filter (fun e => e.2.pinned && homeSlice (e.1 * 256) == n) = [] := by
    rw [List.filter_eq_nil_iff]
    intro e he
    simp [h e he]
  rw [State.dropPins, hnone]
  rfl

theorem fitSlice_none (h : s.mem.lines.flatMap (fun e => e.2.residents e.1 n) = []) : s.fitSlice n = s := by
  rw [State.fitSlice, h]
  rfl

/-- LAYER_RETIRE of a slice that holds no lines. -/
theorem layerRetire_empty {at' : Option Nat} (hfail : (s.slice n).failedAt = [(i, at')])
    (hnow : s.retireNow n = true)
    (hreserve : s.reserveOk n (bits (s.freg (FR.HR_WIN_CFG n.val)) 8 0)
      (s.retiredLayers n + (newLayers i (fun k => bitB (s.freg (FR.HR_STATUS n.val)) (8 + k))).length) false = true)
    (hempty : ∀ e ∈ s.mem.lines, homeSlice (e.1 * 256) ≠ n ∧ e.2.holds n = false) :
    let u := retired s n (newLayers i (fun k => bitB (s.freg (FR.HR_STATUS n.val)) (8 + k)))
    exec (.layerRetire n) s = .next (u.logEvent 0x0202 n.val 1 0 (u.freg (FR.HR_STATUS n.val))
      (u.freg (FR.HR_AVAIL_FRAMES n.val))) := by
  intro u
  have hwait := fitWaits_empty (no_residents hempty) (bits (s.freg (FR.HR_WIN_CFG n.val)) 8 0)
    (s.retiredLayers n + (newLayers i (fun k => bitB (s.freg (FR.HR_STATUS n.val)) (8 + k))).length)
  have hdrop : u.dropPins n = u := dropPins_none fun e he => (hempty e he).1
  have hfit : u.fitSlice n = u := fitSlice_none (no_residents hempty)
  show execLayerRetire n s = _
  rw [execLayerRetire, hfail]
  refine (if_neg ?_).trans ((if_neg ?_).trans ?_)
  · rw [hnow]
    exact (congrArg (· = true) hwait).mpr_not Bool.false_ne_true
  · exact fun h => by
      have h' : (!s.reserveOk n (bits (s.freg (FR.HR_WIN_CFG n.val)) 8 0)
        (s.retiredLayers n + (newLayers i (fun k => bitB (s.freg (FR.HR_STATUS n.val)) (8 + k))).length) false) =
          true := h
      rw [hreserve] at h'
      cases h'
  · have h := congrArg (fun q : State => (Host.Outcome.next ((q.fitSlice n).logEvent 0x0202 n.val 1 0
      (q.freg (FR.HR_STATUS n.val)) (q.freg (FR.HR_AVAIL_FRAMES n.val))) : Out)) hdrop
    refine Eq.trans ?_ (h.trans ?_)
    · rfl
    · simp only [hfit]

end

/-- Settles O33: errors that are corrected count; spares take the place of lanes one by one (`spareLanes_spec`); and the
layers behind a failed interface are retired where a reserve is left (`layerRetire_empty`). -/
theorem verticalInterfaces : Obligations.VerticalInterfaces := by
  unfold Obligations.VerticalInterfaces
  intro s n i w at' lane units new
  refine ⟨fun hfail height => ⟨_, ?corrected, rfl⟩, fun hfail hspare hw => ?spare, fun hfail =>
    ⟨fun hnow => ?early, fun hnow hwait => ?waits, fun hnow hwait hreserve => ?blocked,
      fun hnow hreserve hw hempty hcap havail => ?retired⟩⟩
  case corrected =>
    show execVportCrcError n i w s = _
    simp only [execVportCrcError, hfail, height, Bool.false_eq_true, if_false]
    rfl
  case spare =>
    have hcount := vcrc_not_lane n
    have hvport : FR.HR_VPORT n.val ≠ FR.HR_VCRC_ERR_CNT n.val := by
      simp only [FR.HR_VPORT, FR.HR_VCRC_ERR_CNT]
      omega
    have hlane : lanesOf (s.count (FR.HR_VCRC_ERR_CNT n.val) 5) n i = lane := by
      rw [lanesOf, freg_count_other _ _ hvport]
    have hneed : w.lanes + b2n w.eighth ≤ 64 - lane := by omega
    obtain ⟨hregs, hlanes, hframe⟩ := spareLanes_spec (n := n) (i := i) (w.lanes + b2n w.eighth)
      (s.count (FR.HR_VCRC_ERR_CNT n.val) 5) (smap_wf_set _ _ _ _ hw) (by rw [hlane]; omega)
    refine ⟨(s.count (FR.HR_VCRC_ERR_CNT n.val) 5).spareLanes n i (w.lanes + b2n w.eighth), ?_, by rw [hframe]; rfl,
      ?_, ?_,
      by rw [hframe]; rfl, by rw [hframe]; rfl⟩
    · show execVportCrcError n i w s = _
      have hfree : 64 - bits ((s.count (FR.HR_VCRC_ERR_CNT n.val) 5).freg (FR.HR_VPORT n.val)) (8 * i.val + 6) (8 *
        i.val) =
          64 - lane := congrArg (64 - ·) hlane
      simp only [execVportCrcError, hfail, if_true, hfree, Nat.min_eq_left hneed, if_neg (Nat.not_lt.2 hneed)]
    · rw [hregs.freg _ hcount, freg_count_self _ _ hw]
    · exact hlanes.trans (by rw [hlane]; omega)
  case early =>
    show execLayerRetire n s = _
    rw [execLayerRetire, hfail]
    refine if_pos ?_
    rw [hnow]
    rfl
  case waits =>
    show execLayerRetire n s = _
    rw [execLayerRetire, hfail]
    refine if_pos ?_
    rw [hnow]
    exact hwait
  case blocked =>
    refine ⟨_, ?_, rfl⟩
    show execLayerRetire n s = _
    rw [execLayerRetire, hfail]
    refine (if_neg ?_).trans ((if_pos ?_).trans ?_)
    · rw [hnow]
      intro h
      exact Bool.false_ne_true (hwait.symm.trans h)
    · exact congrArg (fun b => !b) hreserve
    · simp only [State.modSlice, hfail, List.map_cons, List.map_nil]
  case retired =>
    obtain ⟨hsa, hsc, -, hevents⟩ := retire_places n
    have hwf := statusRetired_canon (n := n) hw (layerBits new)
    have hexec := layerRetire_empty (i := i) hfail hnow hreserve hempty
    generalize hu : retired s n (newLayers i (fun k => bitB (s.freg (FR.HR_STATUS n.val)) (8 + k))) = u at hexec
    have hregs := floorRegs_logEvent u 0x0202 n.val 1 0 (u.freg (FR.HR_STATUS n.val)) (u.freg (FR.HR_AVAIL_FRAMES
      n.val))
    have hframe := logEvent_frame u 0x0202 n.val 0 (u.freg (FR.HR_STATUS n.val)) (u.freg (FR.HR_AVAIL_FRAMES n.val))
      (cls := 1) (by decide)
    obtain ⟨hframes, hlines, hstatus⟩ := lessLayers_spec (n := n) (k := new.length) hwf
      (by rw [statusRetired_other _ hsc.symm]; exact hcap) (by rw [statusRetired_other _ hsa.symm]; exact havail)
    have hfreg : ∀ a, u.freg a = (lessLayers (statusRetired s n (layerBits new)) n new.length).freg a := fun a => by
      rw [← hu]; rfl
    refine ⟨_, hexec, fun k => ?_, ?_, ?_, ?_, ?_, ?_⟩
    · rw [hregs.freg _ (hevents _ (by simp [retireRegs])), hfreg, hstatus, statusRetired_bit hw _ _ k.isLt]
      exact bitB_retired _ i k
    · rw [hregs.freg _ (hevents _ (by simp [retireRegs])), hfreg, hframes, statusRetired_other _ hsa.symm]
    · rw [hregs.freg _ (hevents _ (by simp [retireRegs])), hfreg, hlines, statusRetired_other _ hsc.symm]
    · rw [hframe, ← hu]
      exact congrArg Slice.failedAt (slice_setSlice_self _ n _)
    · rw [hframe, ← hu]; rfl
    · rw [hframe, ← hu]; rfl

end Sys2Proof.Proofs
end
section
/-! O34: a ring of page requests with more slots than its tail register can count. The statement bounds TR_PRQ_CFG and
TR_PRQ_TAIL by nothing: with TR_PRQ_CFG = 65 the ring has 2^65 slots, and the slot after 2^64 - 1 is no value of a
register. -/

namespace Sys2Proof.Proofs
open Sys2Proof Sys2Proof.Machine Sys2Proof.Laws

/-- Translation and page requests enabled, the first entry of the root table absent with pr set, and the tail of a ring of
2^65 slots at 2^64 - 1. -/
def ringBeyond : State :=
  (({ State.reset with pw := { sr := 0 }, mem := { hbm := [(0, 4)] } }.setFreg FR.TR_CTRL 5).setFreg FR.TR_PRQ_CFG
    65).setFreg FR.TR_PRQ_TAIL (2 ^ 64 - 1)

theorem still_ringBeyond : Still ringBeyond :=
  ⟨fun c => by
    show (State.reset.cell c).window = []
    simp [State.reset, State.cell], rfl, rfl⟩

/-- The slot after the last that the register can name. -/
theorem next_ringBeyond :
    (ringBeyond.freg FR.TR_PRQ_TAIL % ringBeyond.prqSize + 1) % ringBeyond.prqSize = 2 ^ 64 := by decide +kernel

/-- Refutes O34: an access to page 0 requests it, and TR_PRQ_TAIL would have to be 2^64. -/
theorem not_translationWalks : ¬ Obligations.TranslationWalks := by
  unfold Obligations.TranslationWalks
  intro h
  obtain ⟨-, -, hask, -⟩ := h ringBeyond .host 0 false false (by decide) (by decide) (by decide +kernel) rfl
    (by decide +kernel) still_ringBeyond
  obtain ⟨t, -, -, -, htail, -⟩ := hask 4 (by decide +kernel) (by decide +kernel) rfl (by decide +kernel)
  exact absurd (htail.trans next_ringBeyond) (Nat.ne_of_lt (freg_lt t _))

end Sys2Proof.Proofs
end
section
/-! The answers to page requests (R264, R277): what a resolved, a refused and an unanswered request leave of whatever
waited for it, and the settling of O35. -/

namespace Sys2Proof.Proofs
open Sys2Proof Sys2Proof.Machine Sys2Proof.Laws

/-! ### Floor registers that a fault of translation touches -/

/-- The floor registers of the errors of translation (R277). -/
def xlatRegs : List Nat := [FR.TR_WALK_ERR_CNT, FR.TR_STATUS, FR.TR_ERR_INFO, FR.TR_ERR_VA]

theorem floorRegs_xlatFault (s : State) (a : Access) (reason level : Nat) :
    FloorRegs xlatRegs s (s.xlatFault a reason level) := by
  unfold State.xlatFault
  extract_lets s1 s2 s3
  have h1 : FloorRegs xlatRegs s s1 := (FloorRegs.refl _ s).count _ (by decide)
  have h2 : FloorRegs xlatRegs s s2 := .ite (h1.orFreg _ (by decide)) h1
  exact .ite h2 ((h2.setFreg _ (by decide)).setFreg _ (by decide))

theorem frame_setFreg {s t : State} (h : t = { s with fregs := t.fregs }) (a v : Nat) :
    t.setFreg a v = { s with fregs := (t.setFreg a v).fregs } := by
  rw [h]
  rfl

theorem xlatFault_frame (s : State) (a : Access) (reason level : Nat) :
    s.xlatFault a reason level = { s with fregs := (s.xlatFault a reason level).fregs } := by
  unfold State.xlatFault
  extract_lets s1 s2 s3
  have h1 : s1 = { s with fregs := s1.fregs } := frame_setFreg rfl _ _
  have h2 : s2 = { s with fregs := s2.fregs } := by
    simp only [s2]
    split
    · exact frame_setFreg h1 _ _
    · exact h1
  split
  · exact h2
  · exact frame_setFreg (frame_setFreg h2 _ _) _ _

/-- Faults of translation, one for each of the accesses in a list. -/
theorem foldl_xlatFault {α : Type} (g : α → Access) (reason level : Nat) (l : List α) (s : State) :
    FloorRegs xlatRegs s (l.foldl (fun (s : State) w => s.xlatFault (g w) reason level) s) ∧
    l.foldl (fun (s : State) w => s.xlatFault (g w) reason level) s =
      { s with fregs := (l.foldl (fun (s : State) w => s.xlatFault (g w) reason level) s).fregs } := by
  refine ⟨FloorRegs.foldl l (.refl _ s) fun t w _ => floorRegs_xlatFault t _ _ _, ?_⟩
  induction l generalizing s with
  | nil => rfl
  | cons w l ih =>
    rw [List.foldl_cons, ih, xlatFault_frame s]

/-! ### A fold that changes one cell after the other -/

theorem foldl_setCell (g : Cell → Cell) (l : List CellId) (hl : l.Nodup) (s : State) :
    (∀ d, (l.foldl (fun s c => s.setCell c (g (s.cell c))) s).cell d = if d ∈ l then g (s.cell d) else s.cell d) ∧
    l.foldl (fun s c => s.setCell c (g (s.cell c))) s =
      { s with cells := (l.foldl (fun s c => s.setCell c (g (s.cell c))) s).cells } := by
  induction l generalizing s with
  | nil => exact ⟨fun d => by simp, rfl⟩
  | cons c l ih =>
    obtain ⟨hc, hl⟩ := List.nodup_cons.1 hl
    obtain ⟨hcell, hframe⟩ := ih hl (s.setCell c (g (s.cell c)))
    refine ⟨fun d => ?_, by rw [List.foldl_cons, hframe]; rfl⟩
    rw [List.foldl_cons, hcell]
    by_cases hd : d = c
    · subst hd
      rw [if_neg hc, if_pos List.mem_cons_self, cell_setCell_self]
    · rw [cell_setCell_other _ _ hd]
      simp only [List.mem_cons, hd, false_or]

theorem setCell_self (s : State) (c : CellId) : s.setCell c (s.cell c) = s := by
  simp only [State.setCell, State.cell]
  congr
  exact Vector.set_getElem_self ..

/-! ### Slots that wait for a request -/

/-- A transfer that waited for request k runs again (R264). -/
def resumes (k : Nat) (r : Transfer) : Transfer :=
  if r.st = .pageWait k then { r with st := .running, reason := 0, faultVa := 0 } else r

/-- The cell after the answer has reached one of its slots. -/
def resumeSlot (k : Nat) (x : Cell) (n : Fin 6) : Cell :=
  match x.slot n with
  | none => x
  | some r => if r.st = .pageWait k then x.setSlot n (some { r with st := .running, reason := 0, faultVa := 0 }) else x

/-- The cell after the answer has reached all its slots. -/
def resumed (k : Nat) (x : Cell) : Cell := (List.finRange 6).foldl (resumeSlot k) x

theorem slot_resumeSlot_self (k : Nat) (x : Cell) (n : Fin 6) : (resumeSlot k x n).slot n = (x.slot n).map (resumes
    k) := by
  rw [resumeSlot]
  split
  next h => rw [h]; rfl
  next r h =>
    rw [h, Option.map_some, resumes]
    split
    · exact slot_setSlot_self ..
    · exact h

theorem slot_resumeSlot_other (k : Nat) (x : Cell) {n m : Fin 6} (h : m ≠ n) : (resumeSlot k x n).slot m = x.slot m
    := by
  rw [resumeSlot]
  split
  · rfl
  · split
    · exact slot_setSlot_other _ _ h
    · rfl

theorem window_resumeSlot (k : Nat) (x : Cell) (n : Fin 6) : (resumeSlot k x n).window = x.window := by
  rw [resumeSlot]
  split
  · rfl
  · split <;> rfl

theorem foldl_resumeSlot (k : Nat) (l : List (Fin 6)) (hl : l.Nodup) (x : Cell) :
    (∀ n, (l.foldl (resumeSlot k) x).slot n = if n ∈ l then (x.slot n).map (resumes k) else x.slot n) ∧
    (l.foldl (resumeSlot k) x).window = x.window := by
  induction l generalizing x with
  | nil => exact ⟨fun n => by simp, rfl⟩
  | cons m l ih =>
    obtain ⟨hm, hl⟩ := List.nodup_cons.1 hl
    obtain ⟨hslot, hwin⟩ := ih hl (resumeSlot k x m)
    refine ⟨fun n => ?_, by rw [List.foldl_cons, hwin, window_resumeSlot]⟩
    rw [List.foldl_cons, hslot]
    by_cases hn : n = m
    · subst hn
      rw [if_neg hm, if_pos List.mem_cons_self, slot_resumeSlot_self]
    · rw [slot_resumeSlot_other _ _ hn]
      simp only [List.mem_cons, hn, false_or]

theorem slot_resumed (k : Nat) (x : Cell) (n : Fin 6) : (resumed k x).slot n = (x.slot n).map (resumes k) := by
  rw [resumed, (foldl_resumeSlot k _ (List.nodup_finRange 6) x).1 n, if_pos (List.mem_finRange n)]

theorem window_resumed (k : Nat) (x : Cell) : (resumed k x).window = x.window :=
  (foldl_resumeSlot k _ (List.nodup_finRange 6) x).2

theorem sxAnswer_resolved (s : State) (c : CellId) (k : Nat) : s.sxAnswer c k none = s.setCell c (resumed k (s.cell
    c)) := by
  unfold State.sxAnswer resumed
  generalize List.finRange 6 = l
  induction l generalizing s with
  | nil => exact (setCell_self s c).symm
  | cons n l ih =>
    rw [List.foldl_cons, List.foldl_cons, ih, resumeSlot]
    cases hslot : (s.cell c).slot n with
    | none => rfl
    | some r =>
      by_cases hr : r.st = .pageWait k
      · simp only [if_pos hr]
        rw [State.modCell, cell_setCell_self, State.setCell, State.setCell, State.setCell, Vector.set_set]
      · simp only [if_neg hr]

/-- A cell none of whose slots waits is as it was. -/
theorem resumed_of_none {k : Nat} {x : Cell} (h : ∀ n r, x.slot n = some r → r.st ≠ .pageWait k) : resumed k x = x := by
  have hstay : ∀ n, resumeSlot k x n = x := fun n => by
    rw [resumeSlot]
    split
    · rfl
    next r hr => rw [if_neg (h n r hr)]
  unfold resumed
  generalize List.finRange 6 = l
  induction l with
  | nil => rfl
  | cons n l ih => rw [List.foldl_cons, hstay n, ih]

theorem slotsOn_eq_nil {k : Nat} {x : Cell} : x.slotsOn k = [] ↔ ∀ n r, x.slot n = some r → r.st ≠ .pageWait k := by
  simp only [Cell.slotsOn, List.filterMap_eq_nil_iff, List.mem_finRange, true_implies]
  refine forall_congr' fun n => ?_
  cases h : x.slot n with
  | none => simp
  | some r => simp

/-- Every slot that waited for a resolved request runs again. -/
theorem answerSlots_resolved (s : State) (k level : Nat) :
    s.answerSlots k level none = allCells.foldl (fun s c => s.setCell c (resumed k (s.cell c))) s := by
  unfold State.answerSlots
  congr 1
  funext s c
  by_cases h : (s.cell c).slotsOn k = []
  · rw [if_pos h, resumed_of_none (slotsOn_eq_nil.1 h), setCell_self]
  · rw [if_neg h]
    exact sxAnswer_resolved s c k

theorem answerSlots_none {s : State} {k : Nat} (level : Nat) (reason : Option Nat)
    (h : ∀ c n r, (s.cell c).slot n = some r → r.st ≠ .pageWait k) : s.answerSlots k level reason = s := by
  unfold State.answerSlots
  generalize allCells = l
  induction l with
  | nil => rfl
  | cons c l ih =>
    rw [List.foldl_cons]
    simp only [slotsOn_eq_nil.2 (h c), if_true]
    exact ih

theorem answerFetches_none {s : State} {k : Nat} (level : Nat) (reason : Option Nat)
    (h : ∀ c, (s.cell c).fetchReq ≠ some k) : s.answerFetches k level reason = s := by
  unfold State.answerFetches
  generalize allCells = l
  induction l with
  | nil => rfl
  | cons c l ih =>
    rw [List.foldl_cons]
    simp only [if_neg (h c)]
    exact ih

theorem headsOn_empty {s : State} (h : Still s) (k : Nat) : s.headsOn k = [] := by
  simp only [State.headsOn, List.filter_eq_nil_iff]
  intro c _
  simp [Cell.head, h.empty c]

/-! ### The end of a request -/

/-- What waits for other requests than k. -/
def othersWait (k : Nat) (l : List PageWait) : List PageWait := l.filter (fun w => w.req != k)

/-- The state without request k and without the waits for it. -/
def forgets (s : State) (k : Nat) : State :=
  { s with mem := { s.mem with reqs := s.mem.reqs.filter (fun r => r.id != k) }
           hv := { s.hv with waits := othersWait k s.hv.waits }
           ce := { s.ce with waits := othersWait k s.ce.waits }
           hs := { s.hs with waits := othersWait k s.hs.waits } }

theorem find?_of_any {α : Type} {p : α → Bool} {l : List α} (h : l.any p = true) : ∃ a, l.find? p = some a := by
  obtain ⟨a, ha, hp⟩ := List.any_eq_true.1 h
  exact Option.isSome_iff_exists.1 (List.find?_isSome.2 ⟨a, ha, hp⟩)

theorem cells_foldl_resumed (k : Nat) (s : State) (d : CellId) :
    (allCells.foldl (fun s c => s.setCell c (resumed k (s.cell c))) s).cell d = resumed k (s.cell d) := by
  rw [(foldl_setCell (resumed k) allCells (List.nodup_finRange 256) s).1 d, if_pos]
  exact List.mem_finRange d

theorem fetchReq_resumed (k : Nat) (x : Cell) : (resumed k x).fetchReq = x.fetchReq := by
  unfold resumed
  generalize List.finRange 6 = l
  induction l generalizing x with
  | nil => rfl
  | cons n l ih =>
    rw [List.foldl_cons, ih, resumeSlot]
    split
    · rfl
    · split <;> rfl

/-- The state whose list of requests lacks k. -/
def unlisted (s : State) (k : Nat) : State :=
  { s with mem := { s.mem with reqs := s.mem.reqs.filter (fun r => r.id != k) } }

/-- A request that is resolved: its slots run again, and whatever else waited for it is tried again. -/
theorem endRequest_resolved {s : State} {k : Nat} (hs : Still s) (hk : s.mem.reqs.any (fun r => r.id == k) = true)
    (hf : ∀ c, (s.cell c).fetchReq ≠ some k) :
    ∃ t, s.endRequest k none = t ∧ t = { forgets s k with cells := t.cells } ∧
      ∀ d, t.cell d = resumed k (s.cell d) := by
  obtain ⟨q, hq⟩ := find?_of_any hk
  have hend : s.endRequest k none =
      (((unlisted s k).answerSlots k q.level none).answerFetches k q.level none).answerUnits k q.level none := by
    unfold State.endRequest
    rw [hq]
    simp only [headsOn_empty hs, State.pumpAll, List.foldl_nil]
    rfl
  have hcell (d : CellId) : ((unlisted s k).answerSlots k q.level none).cell d = resumed k (s.cell d) := by
    rw [answerSlots_resolved, cells_foldl_resumed]
    rfl
  have hframe : (unlisted s k).answerSlots k q.level none =
      { unlisted s k with cells := ((unlisted s k).answerSlots k q.level none).cells } := by
    rw [answerSlots_resolved]
    exact (foldl_setCell (resumed k) allCells (List.nodup_finRange 256) _).2
  rw [answerFetches_none _ _ (fun c => by rw [hcell c, fetchReq_resumed]; exact hf c)] at hend
  generalize (unlisted s k).answerSlots k q.level none = u at hend hcell hframe
  refine ⟨_, rfl, ?_, fun d => ?_⟩
  · rw [hend, hframe]
    rfl
  · rw [hend]
    exact hcell d

/-- The pages that Harvest, Parade and the host's commands waited for under request k. -/
def waitsOn (s : State) (k : Nat) : List PageWait :=
  s.hv.waits.filter (fun w => w.req == k) ++ s.ce.waits.filter (fun w => w.req == k) ++
    s.hs.waits.filter (fun w => w.req == k)

/-- The state after a refusal, but for the faults that it makes. -/
def refusedTo (s : State) (k r : Nat) : State :=
  { forgets s k with
    hv := { (forgets s k).hv with refused := s.hv.refused ++ s.hv.waits.filter (fun w => w.req == k) }
    ce := { (forgets s k).ce with refused := s.ce.refused ++ s.ce.waits.filter (fun w => w.req == k) }
    hs := { (forgets s k).hs with
      refused := s.hs.refused ++ (s.hs.waits.filter (fun w => w.req == k)).map (fun w => (w, r)) } }

/-- A request that is refused (R262): it is counted, and whatever waited for it meets a fault of translation. -/
theorem endRequest_refused {s : State} {k : Nat} (r : Nat) (hs : Still s)
    (hk : s.mem.reqs.any (fun q => q.id == k) = true) (hf : ∀ c, (s.cell c).fetchReq ≠ some k)
    (hslot : ∀ c n r, (s.cell c).slot n = some r → r.st ≠ .pageWait k) :
    ∃ t, s.endRequest k (some r) = t ∧ FloorRegs xlatRegs (s.count FR.TR_PR_REFUSE_CNT) t ∧
      t = { refusedTo s k r with fregs := t.fregs } := by
  obtain ⟨q, hq⟩ := find?_of_any hk
  let u := (unlisted s k).count FR.TR_PR_REFUSE_CNT
  have hend : s.endRequest k (some r) = ((u.answerSlots k q.level (some r)).answerFetches k q.level
      (some r)).answerUnits k q.level (some r) := by
    unfold State.endRequest
    rw [hq]
    simp only [headsOn_empty hs, List.foldl_nil]
    rfl
  obtain ⟨hregs, hframe⟩ := foldl_xlatFault (fun w : PageWait => { agent := w.agent, va := w.va, write := w.write }) r
    q.level (waitsOn s k) ((refusedTo s k r).count FR.TR_PR_REFUSE_CNT)
  rw [answerSlots_none _ _ (s := u) hslot, answerFetches_none _ _ (s := u) hf] at hend
  have hunits : u.answerUnits k q.level (some r) = (waitsOn s k).foldl
      (fun (t : State) w => t.xlatFault { agent := w.agent, va := w.va, write := w.write } r q.level)
      ((refusedTo s k r).count FR.TR_PR_REFUSE_CNT) := rfl
  exact ⟨_, hend.trans hunits, (floorRegs_of_eq (s := s.count FR.TR_PR_REFUSE_CNT) (t := (refusedTo s k r).count
    FR.TR_PR_REFUSE_CNT) rfl).trans hregs,
    hframe⟩

theorem still_congr {s t : State} (hs : Still s) (hw : ∀ c, (t.cell c).window = (s.cell c).window)
    (hr : t.hv.remake = s.hv.remake) (hm : t.mem.posted = s.mem.posted) : Still t :=
  ⟨fun c => (hw c).trans (hs.empty c), hr.trans hs.done, hm.trans hs.settled⟩

theorem writeReg_prsp {s : State} {o : Origin} (h : Reaches o s FR.TR_PRSP) {v : Nat} (hv : v < 2 ^ 64) :
    s.writeReg o FR.TR_PRSP 8 v = (s.prspWrite v).goOn := by
  have hall := word_and_all (BitVec.ofNat 64 v)
  rw [BitVec.toNat_ofNat, Nat.mod_eq_of_lt hv] at hall
  rw [writeReg_dword h (by decide +kernel) (by decide) (by decide +kernel) (by decide)]
  exact (writeFloor_action (r := (floorReg FR.TR_PRSP).get (by decide +kernel)) (by simp) (by decide +kernel) _ _
    _).trans (by rw [hall]; rfl)

theorem prspWrite_resolve (s : State) (k : BitVec 16) : s.prspWrite k.toNat = s.endRequest k.toNat none := by
  have hlt := k.isLt
  have hop : bits k.toNat 17 16 = 0 := by
    simp only [bits, Nat.shiftRight_eq_div_pow]
    omega
  have hid : bits k.toNat 15 0 = k.toNat := by
    simp only [bits, Nat.shiftRight_eq_div_pow]
    omega
  simp only [State.prspWrite, hop, hid]

theorem prspWrite_refuse (s : State) (k : BitVec 16) :
    s.prspWrite (2 ^ 16 + k.toNat) = s.endRequest k.toNat (some 7) := by
  have hlt := k.isLt
  have hop : bits (2 ^ 16 + k.toNat) 17 16 = 1 := by
    simp only [bits, Nat.shiftRight_eq_div_pow]
    omega
  have hid : bits (2 ^ 16 + k.toNat) 15 0 = k.toNat := by
    simp only [bits, Nat.shiftRight_eq_div_pow]
    omega
  simp only [State.prspWrite, hop, hid]

/-- Settles O35: a resolved request lets its slots run again (`endRequest_resolved`), a refused or unanswered one is
counted (`endRequest_refused`). -/
theorem pageRequestAnswers : Obligations.PageRequestAnswers := by
  unfold Obligations.PageRequestAnswers
  intro s o req k gone rest hs hk hf hw
  have hlt : k < 2 ^ 16 := req.isLt
  have hcount : FGood (s.count FR.TR_PR_REFUSE_CNT).fregs := ((FloorRegs.refl [_] s).count _
    List.mem_cons_self).canon hw
  refine ⟨fun ho => ?resolved, fun hslot => ⟨fun ho => ?refused, fun hlimit => ?unanswered⟩⟩
  case resolved =>
    obtain ⟨t, ht, hframe, hcell⟩ := endRequest_resolved hs hk hf
    refine ⟨t, ?_, hframe, fun c n => ?_⟩
    · show Host.Outcome.next (s.writeReg o FR.TR_PRSP 8 req.toNat) = _
      rw [writeReg_prsp ho (by omega), prspWrite_resolve, ht, goOn_still]
      exact still_congr hs (fun c => by rw [hcell c, window_resumed]) (by rw [hframe]; rfl) (by rw [hframe]; rfl)
    · rw [hcell c, slot_resumed]
      rfl
  case refused =>
    obtain ⟨t, ht, hregs, hframe⟩ := endRequest_refused 7 hs hk hf hslot
    refine ⟨t, ?_, by rw [hframe]; rfl, ?_, by rw [hframe]; rfl, by rw [hframe]; rfl, by rw [hframe]; rfl,
      by rw [hframe]; rfl⟩
    · show Host.Outcome.next (s.writeReg o FR.TR_PRSP 8 (2 ^ 16 + req.toNat)) = _
      rw [writeReg_prsp ho (by omega), prspWrite_refuse, ht, goOn_still]
      rw [hframe]
      exact still_congr hs (fun c => rfl) rfl rfl
    · rw [hregs.freg _ (by decide), freg_count_self _ _ hw]
  case unanswered =>
    obtain ⟨t, ht, hregs, hframe⟩ := endRequest_refused 8 hs hk hf hslot
    refine ⟨t.orFreg FR.TR_STATUS 4, ?_, by rw [hframe]; rfl, ?_, by rw [hframe]; rfl, ?_⟩
    · show execPrTimeout req s = _
      have hask : ¬ (decide (s.freg FR.TR_PR_TIMEOUT = 0) || !s.mem.reqs.any (fun r => r.id == req.toNat)) = true := by
        rw [hk, decide_eq_false hlimit]
        decide
      rw [execPrTimeout, if_neg hask, ht, goOn_still]
      rw [hframe]
      exact still_congr hs (fun c => rfl) rfl rfl
    · rw [freg_orFreg_other _ _ (by decide), hregs.freg _ (by decide), freg_count_self _ _ hw]
    · exact bitB_orFreg_self FR.TR_STATUS (k := 2) (by decide) (hregs.canon hcount)

end Sys2Proof.Proofs
end
section
/-! Invalidations of translations and the host's translations (R259, R261, R277), and the settling of O36. -/

namespace Sys2Proof.Proofs
open Sys2Proof Sys2Proof.Machine Sys2Proof.Laws

variable {s : State} {o : Origin}

/-! ### TR_INVAL -/

theorem writeReg_inval (h : Reaches o s FR.TR_INVAL) {v : Nat} (hv : v < 2 ^ 64) :
    s.writeReg o FR.TR_INVAL 8 v = (s.invalWrite v).goOn := by
  have hall := word_and_all (BitVec.ofNat 64 v)
  rw [BitVec.toNat_ofNat, Nat.mod_eq_of_lt hv] at hall
  rw [writeReg_dword h (by decide +kernel) (by decide) (by decide +kernel) (by decide)]
  exact (writeFloor_action (r := (floorReg FR.TR_INVAL).get (by decide +kernel)) (by simp) (by decide +kernel) _ _
    _).trans (by rw [hall]; rfl)

/-- The invalidation that a write of v begins. -/
theorem invalWrite_begins (h : s.mem.inval = none) (v : Nat) : s.invalWrite v =
    { s with mem := { s.mem with inval := some (if bitB v 63 then none else some (bits v 56 16, bits v 15 0 + 1)) } } := by
  simp only [State.invalWrite, h]

theorem invalWrite_busy (h : s.mem.inval ≠ none) (v : Nat) : s.invalWrite v = s.orFreg FR.TR_STATUS 32 := by
  obtain ⟨r, hr⟩ := Option.ne_none_iff_exists'.1 h
  simp only [State.invalWrite, hr]

theorem low_lt (v : Nat) : v % 2 ^ 63 < 2 ^ 64 := by omega

theorem high_lt (v : Nat) : 2 ^ 63 + v % 2 ^ 63 < 2 ^ 64 := by omega

theorem bitB_63_low (v : Nat) : bitB (v % 2 ^ 63) 63 = false := by
  rw [bitB_eq_testBit, Nat.testBit_mod_two_pow]
  rfl

theorem bitB_63_high (v : Nat) : bitB (2 ^ 63 + v % 2 ^ 63) 63 = true := by
  rw [bitB_eq_testBit, Nat.testBit_two_pow_add_eq, Nat.testBit_mod_two_pow]
  rfl

theorem bits_56_16 (v : Nat) : bits (v % 2 ^ 63) 56 16 = v / 2 ^ 16 % 2 ^ 41 := by
  simp only [bits, Nat.shiftRight_eq_div_pow]
  omega

theorem bits_15_0_low (v : Nat) : bits (v % 2 ^ 63) 15 0 = v % 2 ^ 16 := by
  simp only [bits, Nat.shiftRight_eq_div_pow]
  omega

theorem trInvalRange_begins (h : Reaches o s FR.TR_INVAL) (hs : Still s) (hi : s.mem.inval = none) (v : Word) :
    exec (.trInvalRange o v) s = .next { s with
      mem := { s.mem with inval := some (some (v.toNat / 2 ^ 16 % 2 ^ 41, v.toNat % 2 ^ 16 + 1)) } } := by
  show execTrInvalRange o v s = _
  rw [execTrInvalRange, writeReg_inval h (low_lt _), invalWrite_begins hi, bitB_63_low, bits_56_16, bits_15_0_low]
  exact congrArg Host.Outcome.next (goOn_still (still_congr hs (fun _ => rfl) rfl rfl))

theorem trInvalAll_begins (h : Reaches o s FR.TR_INVAL) (hs : Still s) (hi : s.mem.inval = none) (v : Word) :
    exec (.trInvalAll o v) s = .next { s with mem := { s.mem with inval := some none } } := by
  show execTrInvalAll o v s = _
  rw [execTrInvalAll, writeReg_inval h (high_lt _), invalWrite_begins hi, bitB_63_high]
  exact congrArg Host.Outcome.next (goOn_still (still_congr hs (fun _ => rfl) rfl rfl))

theorem goOn_inval_busy (hs : Still s) (hi : s.mem.inval ≠ none) (v : Nat) :
    (s.invalWrite v).goOn = s.orFreg FR.TR_STATUS 32 := by
  rw [invalWrite_busy hi]
  exact goOn_still (still_congr hs (fun _ => rfl) rfl rfl)

/-! ### INVAL_DONE -/

/-- The entries that an invalidation of n pages from lo leaves. -/
def outside (lo n : Nat) (l : List TlbEnt) : List TlbEnt :=
  l.filter (fun e => !decide (e.page < lo + n ∧ lo < e.page + e.pages))

theorem invalDone_range {lo n : Nat} (h : s.mem.inval = some (some (lo, n))) : exec .invalDone s =
    .next { s.count FR.TR_INVAL_CNT with mem := { s.mem with tlb := outside lo n s.mem.tlb, inval := none } } := by
  show execInvalDone s = _
  simp only [execInvalDone, h, outside, Bool.decide_and]
  rfl

theorem invalDone_all (h : s.mem.inval = some none) : exec .invalDone s =
    .next { s.count FR.TR_INVAL_CNT with mem := { s.mem with tlb := [], ats := [], inval := none } } := by
  show execInvalDone s = _
  simp only [execInvalDone, h]
  rfl

theorem tlbFind_mem {s : State} {va : Nat} {e : TlbEnt} (h : s.tlbFind va = some e) : e ∈ s.mem.tlb :=
  List.mem_of_find?_eq_some h

theorem mem_outside {lo n : Nat} {l : List TlbEnt} {e : TlbEnt} (h : e ∈ outside lo n l) :
    decide (e.page < lo + n ∧ lo < e.page + e.pages) = false := by
  have hout := (List.mem_filter.1 h).2
  rwa [Bool.not_eq_true'] at hout

/-! ### The host's answers -/

variable {page : Nat}

theorem atsCompletion_given (hs : Still s) (hup : s.cxlUp = true) (hw : NSet.has s.mem.atsWait page = true) (r :
    AtsIn) :
    exec (.atsTranslationCompletion page (some r)) s = .next { s with
      mem := { s.mem with atsWait := s.mem.atsWait.del page
                          ats := (⟨page, r.frame, r.r, r.w⟩ :: s.mem.ats).take 4096 } } := by
  show execAtsTranslationCompletion page (some r) s = _
  rw [execAtsTranslationCompletion, hw, hup]
  exact congrArg Host.Outcome.next (goOn_still (still_congr hs (fun _ => rfl) rfl rfl))

theorem atsCompletion_absent (hup : s.cxlUp = true) (hw : NSet.has s.mem.atsWait page = true) :
    exec (.atsTranslationCompletion page none) s = .next { s with
      mem := { s.mem with atsWait := s.mem.atsWait.del page, priWait := s.mem.priWait.add page } } := by
  show execAtsTranslationCompletion page none s = _
  rw [execAtsTranslationCompletion, hw, hup]
  rfl

theorem priResponse_given (hup : s.cxlUp = true) (hw : NSet.has s.mem.priWait page = true) :
    exec (.priResponse page true) s = .next { s with
      mem := { s.mem with priWait := s.mem.priWait.del page
                          ats := s.mem.ats.filter (fun (e : AtsEnt) => e.page != page)
                          atsWait := s.mem.atsWait.add page } } := by
  show execPriResponse page true s = _
  rw [execPriResponse, hw, hup]
  rfl

theorem priResponse_refused (hs : Still s) (hup : s.cxlUp = true) (hw : NSet.has s.mem.priWait page = true) :
    exec (.priResponse page false) s = .next { s with
      mem := { s.mem with priWait := s.mem.priWait.del page
                          ats := s.mem.ats.filter (fun (e : AtsEnt) => e.page != page)
                          priFail := s.mem.priFail.add page } } := by
  show execPriResponse page false s = _
  rw [execPriResponse, hw, hup]
  exact congrArg Host.Outcome.next (goOn_still (still_congr hs (fun _ => rfl) rfl rfl))

/-- Without CXL the host neither translates nor answers a page request (R410). -/
theorem answers_without_cxl (hdown : s.cxlUp = false) (r : AtsIn) :
    ∀ i ∈ [Instr.atsTranslationCompletion page (some r), .atsTranslationCompletion page none, .priResponse page true,
      .priResponse page false], exec i s = .next s := by
  have hats (r : Option AtsIn) : execAtsTranslationCompletion page r s = .next s := by
    rw [execAtsTranslationCompletion, hdown, Bool.not_false, Bool.or_true, if_pos rfl]
  have hpri (ok : Bool) : execPriResponse page ok s = .next s := by
    rw [execPriResponse, hdown, Bool.not_false, Bool.or_true, if_pos rfl]
  simp only [List.mem_cons, List.not_mem_nil, or_false, forall_eq_or_imp, forall_eq]
  exact ⟨hats (some r), hats none, hpri true, hpri false⟩

theorem mem_atsInvalidate (page n : Nat) (l : List AtsEnt) (e : AtsEnt) :
    e ∈ l.filter (fun e => e.page < page || page + n ≤ e.page) ↔ e ∈ l ∧ ¬ (page ≤ e.page ∧ e.page < page + n) := by
  simp only [List.mem_filter, Bool.or_eq_true, decide_eq_true_eq]
  exact and_congr_right fun _ => by omega

end Sys2Proof.Proofs
end

section
/-! The settling of O36. -/

namespace Sys2Proof.Proofs
open Sys2Proof Sys2Proof.Machine Sys2Proof.Laws

/-- Settles O36: invalidations (`trInvalRange_begins`, `invalDone_range`) and the host's answers (`atsCompletion_given`,
`priResponse_refused`). -/
theorem invalidationsAndHostTranslations : Obligations.InvalidationsAndHostTranslations := by
  unfold Obligations.InvalidationsAndHostTranslations
  refine ⟨fun s o v => ⟨fun ho hs => ⟨fun hi => ?begins, fun hi => ?busy⟩, fun hi => ?range, fun hi => ?all⟩,
    fun s page n r hs => ⟨fun hdown => answers_without_cxl hdown r, fun hup hw => ⟨?given, ?absent⟩, ?invalidate,
      fun hup hw => ⟨?again, ?refused⟩⟩⟩
  case begins => exact ⟨⟨_, trInvalRange_begins ho hs hi v, rfl⟩, ⟨_, trInvalAll_begins ho hs hi v, rfl⟩⟩
  case busy =>
    have hwrite (w : Nat) (hw : w < 2 ^ 64) : s.writeReg o FR.TR_INVAL 8 w = s.orFreg FR.TR_STATUS 32 := by
      rw [writeReg_inval ho hw, goOn_inval_busy hs hi]
    simp only [List.mem_cons, List.not_mem_nil, or_false, forall_eq_or_imp, forall_eq]
    exact ⟨⟨_, congrArg Host.Outcome.next (hwrite _ (low_lt _)), rfl⟩, _,
      congrArg Host.Outcome.next (hwrite _ (high_lt _)), rfl⟩
  case range => exact ⟨_, invalDone_range hi, rfl, fun va e he => mem_outside (tlbFind_mem he)⟩
  case all => exact ⟨_, invalDone_all hi, fun va => rfl, rfl⟩
  case given => exact ⟨_, atsCompletion_given hs hup hw r, rfl, by simp [List.take_succ_cons]⟩
  case absent => exact ⟨_, atsCompletion_absent hup hw, rfl, (by simp [has_add])⟩
  case invalidate => exact ⟨_, rfl, rfl, mem_atsInvalidate page n s.mem.ats⟩
  case again => exact ⟨_, priResponse_given hup hw, rfl, (by simp [has_add])⟩
  case refused => exact ⟨_, priResponse_refused hs hup hw, rfl, (by simp [has_add])⟩

end Sys2Proof.Proofs
end
section
/-! The tag aperture, the scrubber and refresh (R251 to R253, R268), and the settling of O37. -/

namespace Sys2Proof.Proofs
open Sys2Proof Sys2Proof.Machine Sys2Proof.Laws

variable {s : State}

/-! ### The tag aperture -/

/-- A line that is not in the cache has nothing to clean. -/
theorem cleanLine_absent {la : Nat} (h : (s.line la).st = .i) : s.cleanLine la = s := by
  rw [State.cleanLine, if_pos (by rw [State.absent, h]; rfl)]

theorem foldl_cleanLine_absent (l : List Nat) (h : ∀ la ∈ l, (s.line la).st = .i) : l.foldl State.cleanLine s = s := by
  induction l with
  | nil => rfl
  | cons la l ih =>
    rw [List.foldl_cons, cleanLine_absent (h la List.mem_cons_self)]
    exact ih fun lb hb => h lb (List.mem_cons_of_mem la hb)

/-- The tag of a tile whose lines no cache holds. -/
theorem readTag_absent {tile : Nat} (h : ∀ i < 16, (s.line (16 * tile + i)).st = .i ∧
    s.lineBusy (16 * tile + i) false = false ∧ s.frameWait (16 * tile + i) none = false) :
    s.readTag tile = some (s, s.tileTag tile) := by
  have hfree : ((List.range 16).map (16 * tile + ·)).any (fun la => s.lineBusy la false || s.frameWait la none) =
      false := by
    simp only [List.any_eq_false, List.mem_map, List.mem_range]
    rintro la ⟨i, hi, rfl⟩
    rw [(h i hi).2.1, (h i hi).2.2]
    decide
  have habsent : ∀ la ∈ (List.range 16).map (16 * tile + ·), (s.line la).st = .i := by
    simp only [List.mem_map, List.mem_range]
    rintro la ⟨i, hi, rfl⟩
    exact (h i hi).1
  simp only [State.readTag, hfree, Bool.false_eq_true, if_false, foldl_cleanLine_absent _ habsent]

/-- A read of the aperture that meets no error and has to wait. -/
theorem tagApertureRead_waits {pa tile : Nat} (hm : s.dev.mainOn = true) (ht : apertureTile pa = some tile) {u : State}
    (hr : s.apertureRead pa = (u, none)) : exec (.tagApertureRead ⟨pa, {}⟩) s = .next u := by
  have hread : ¬ ((!s.mainOn || (apertureTile pa).isNone) = true) := by
    rw [State.mainOn, hm, ht]
    exact Bool.false_ne_true
  show execTagApertureRead ⟨pa, {}⟩ s = _
  simp only [execTagApertureRead, if_neg hread, if_true, hr]

/-- A read of the aperture that meets no error and has its bytes. -/
theorem tagApertureRead_answers {pa tile : Nat} (hm : s.dev.mainOn = true) (ht : apertureTile pa = some tile)
    {u : State} {d : List PByte} (hr : s.apertureRead pa = (u, some d)) :
    exec (.tagApertureRead ⟨pa, {}⟩) s = .next (u.answer (.data d)) := by
  have hread : ¬ ((!s.mainOn || (apertureTile pa).isNone) = true) := by
    rw [State.mainOn, hm, ht]
    exact Bool.false_ne_true
  show execTagApertureRead ⟨pa, {}⟩ s = _
  simp only [execTagApertureRead, if_neg hread, if_true, hr]

theorem apertureRead_asleep {pa tile k : Nat} (ht : apertureTile pa = some tile)
    (hk : s.rawAsleep (4096 * tile) = some k) : s.apertureRead pa = (s.requestExit k, none) := by
  simp only [State.apertureRead, ht, hk]

theorem apertureRead_absent {pa tile : Nat} (ht : apertureTile pa = some tile)
    (hk : s.rawAsleep (4096 * tile) = none) (h : ∀ i < 16, (s.line (16 * tile + i)).st = .i ∧
      s.lineBusy (16 * tile + i) false = false ∧ s.frameWait (16 * tile + i) none = false) :
    s.apertureRead pa = (s, some ((leBytes 4 (s.tileTag tile)).map (fun b => (b, s.tagPoisoned tile)))) := by
  simp only [State.apertureRead, ht, hk, readTag_absent h]

theorem crc32c_lt (l : List Byte) : crc32c l < 2 ^ 32 := BitVec.isLt _

theorem tileTag_lt (tile : Nat) : s.tileTag tile < 2 ^ 32 := Nat.xor_lt_two_pow (crc32c_lt _) (BitVec.isLt _)

theorem tileTag_good {tile : Nat} (h : s.tileBad tile = false) :
    s.tileTag tile = crc32c (plain (s.hbmRead (4096 * tile) 4096)) := by
  have hsyn : s.mem.tagSyn.get s.mem.synDef tile = 0 := by simpa [State.tileBad] using h
  rw [State.tileTag, hsyn]
  exact Nat.xor_zero _

theorem tileTag_bad {tile : Nat} (h : s.tileBad tile = true) :
    s.tileTag tile ≠ crc32c (plain (s.hbmRead (4096 * tile) 4096)) := by
  have hsyn : s.mem.tagSyn.get s.mem.synDef tile ≠ 0 := by simpa [State.tileBad] using h
  intro he
  have hzero : (s.mem.tagSyn.get s.mem.synDef tile).toNat = 0 :=
    Nat.xor_right_injective (he.trans (Nat.xor_zero _).symm)
  exact hsyn (BitVec.eq_of_toNat_eq hzero)

/-! ### The address of a block -/

theorem placeCandidates_lt {mode i q g : Nat} (hi : i < 20) (hq : q < 2 ^ 24) (h : g ∈ placeCandidates mode i q) :
    g < 2 ^ 40 := by
  rw [placeCandidates] at h
  split at h
  · obtain ⟨r, hr, rfl⟩ := List.mem_map.1 h
    rw [List.mem_range] at hr
    omega
  · split at h
    · obtain ⟨r, hr, rfl⟩ := List.mem_map.1 h
      rw [List.mem_range] at hr
      omega
    · rw [List.mem_singleton] at h
      omega

theorem firstTile_lt {blk : Nat} (mode : Nat) (h : blk < hbmBlocks) : firstTile mode blk < 2 ^ 40 := by
  have hi : (blk - hbmTop / 64) / tagBlocks < 20 := by
    simp only [hbmBlocks, hbmTop, tagBlocks] at h ⊢
    omega
  have hq : (blk - hbmTop / 64) % tagBlocks * 16 < 2 ^ 24 := by
    have := Nat.mod_lt (blk - hbmTop / 64) (show 0 < tagBlocks by decide)
    simp only [tagBlocks] at this ⊢
    omega
  simp only [firstTile]
  cases hfind : (placeCandidates mode ((blk - hbmTop / 64) / tagBlocks)
      ((blk - hbmTop / 64) % tagBlocks * 16)).find? (fun g => hbmStack mode (4096 * g) ==
        (blk - hbmTop / 64) / tagBlocks) with
  | none => decide
  | some g => exact placeCandidates_lt hi hq (List.mem_of_find?_eq_some hfind)

theorem blockPa_lt {blk : Nat} (h : blk < hbmBlocks) : s.blockPa blk < 2 ^ 63 := by
  have hfirst := firstTile_lt (bits (s.freg FR.HBM_ILV_CFG) 1 0) h
  rw [State.blockPa]
  split
  next hblk =>
    simp only [hbmTop] at hblk
    omega
  next =>
    simp only [tagBase]
    omega

/-! ### Uncorrectable errors -/

theorem hbmUncorrectable_frame (s : State) (blk : Nat) : s.hbmUncorrectable blk =
    { s with mem := { s.mem with hbmPoison := s.mem.hbmPoison.add blk }
             fregs := (s.hbmUncorrectable blk).fregs, alm := (s.hbmUncorrectable blk).alm } := by
  unfold State.hbmUncorrectable
  extract_lets m s1 s2 s3
  have h2 : s2 = { s1 with fregs := s2.fregs } := frame_setFreg rfl _ _
  have h3 : s3 = { s1 with fregs := s3.fregs } := by
    simp only [s3]
    split
    · exact h2
    · exact frame_setFreg h2 _ _
  rw [logEvent_frame _ _ _ _ _ _ (by decide)]
  generalize (s3.logEvent _ _ _ _ _ _).fregs = regs
  generalize (s3.logEvent _ _ _ _ _ _).alm = alm
  rw [h3]

/-- What an uncorrectable error leaves in its registers (R251). -/
theorem hbmUncorrectable_regs (hw : FGood s.fregs) (blk : Nat) :
    (s.hbmUncorrectable blk).freg FR.HBM_UNCORR_CNT = (s.freg FR.HBM_UNCORR_CNT + 1) % 2 ^ 64 ∧
    (bitB (s.freg FR.HBM_ERR_PA) 63 = false → blk < hbmBlocks →
      (s.hbmUncorrectable blk).freg FR.HBM_ERR_PA = 2 ^ 63 + s.blockPa blk) := by
  unfold State.hbmUncorrectable
  extract_lets m s1 s2 s3
  have hcount : s2.freg FR.HBM_UNCORR_CNT = (s.freg FR.HBM_UNCORR_CNT + 1) % 2 ^ 64 := freg_count_self (s := s1) _ _ hw
  have hgood : FGood s2.fregs := ((FloorRegs.refl [_] s1).count _ List.mem_cons_self).canon hw
  have hpa : s2.freg FR.HBM_ERR_PA = s.freg FR.HBM_ERR_PA := freg_count_other s1 _ (by decide)
  have hilv : s2.freg FR.HBM_ILV_CFG = s.freg FR.HBM_ILV_CFG := freg_count_other s1 _ (by decide)
  have hblock : s2.blockPa blk = s.blockPa blk := by rw [State.blockPa, hilv, State.blockPa]
  have hlog := floorRegs_logEvent s3 0x0301 (s3.blockStack blk) 2 (s3.blockPa blk) 0 0
  rw [hlog.freg _ (by decide), hlog.freg _ (by decide)]
  refine ⟨?_, fun hfree hblk => ?_⟩
  · simp only [s3]
    split
    · exact hcount
    · rw [freg_setFreg_other _ _ (by decide)]
      exact hcount
  · have hlt := blockPa_lt (s := s) hblk
    simp only [s3]
    rw [hpa, hfree, if_neg Bool.false_ne_true, freg_setFreg_self _ _ _ hgood, hblock]
    exact Nat.mod_eq_of_lt (by omega)

/-! ### The scrubber -/

theorem scrubRead_on {blk : Nat} {corrected bad : Bool} (hm : s.dev.mainOn = true)
    (hcfg : s.freg FR.HBM_SCRUB_CFG ≠ 0) (hblk : blk < hbmBlocks) :
    exec (.scrubRead blk corrected bad) s =
      let u := if bad then (s.count FR.HBM_CORR_CNT (b2n corrected)).hbmUncorrectable blk
        else s.count FR.HBM_CORR_CNT (b2n corrected)
      if (u.mem.scrubbed.add blk).length = hbmBlocks then
        .next (State.count { u with mem := { u.mem with scrubbed := [] } } FR.HBM_SCRUB_PASS_CNT)
      else .next { u with mem := { u.mem with scrubbed := u.mem.scrubbed.add blk } } := by
  have hon : ¬ ((!s.mainOn || decide (s.freg FR.HBM_SCRUB_CFG = 0) || decide (hbmBlocks ≤ blk)) = true) := by
    rw [State.mainOn, hm, decide_eq_false hcfg, decide_eq_false (by omega)]
    decide
  show execScrubRead blk corrected bad s = _
  rw [execScrubRead, if_neg hon]

theorem scrubRead_good {blk : Nat} (corrected : Bool) (hm : s.dev.mainOn = true)
    (hcfg : s.freg FR.HBM_SCRUB_CFG ≠ 0) (hblk : blk < hbmBlocks) (hmore : (s.mem.scrubbed.add blk).length ≠
      hbmBlocks) :
    exec (.scrubRead blk corrected false) s = .next { s.count FR.HBM_CORR_CNT (b2n corrected) with
      mem := { s.mem with scrubbed := s.mem.scrubbed.add blk } } := by
  rw [scrubRead_on hm hcfg hblk]
  exact if_neg hmore

theorem scrubRead_bad {blk : Nat} (corrected : Bool) (hm : s.dev.mainOn = true)
    (hcfg : s.freg FR.HBM_SCRUB_CFG ≠ 0) (hblk : blk < hbmBlocks) (hmore : (s.mem.scrubbed.add blk).length ≠
      hbmBlocks) :
    let u := (s.count FR.HBM_CORR_CNT (b2n corrected)).hbmUncorrectable blk
    exec (.scrubRead blk corrected true) s = .next { u with
      mem := { s.mem with hbmPoison := s.mem.hbmPoison.add blk, scrubbed := s.mem.scrubbed.add blk } } := by
  intro u
  have hmem : u.mem = { s.mem with hbmPoison := s.mem.hbmPoison.add blk } :=
    congrArg State.mem (hbmUncorrectable_frame (s.count FR.HBM_CORR_CNT (b2n corrected)) blk)
  rw [scrubRead_on hm hcfg hblk]
  show (if (u.mem.scrubbed.add blk).length = hbmBlocks then _ else Host.Outcome.next { u with
    mem := { u.mem with scrubbed := u.mem.scrubbed.add blk } }) = _
  rw [hmem]
  exact if_neg hmore

theorem scrubRead_pass {blk : Nat} (hm : s.dev.mainOn = true)
    (hcfg : s.freg FR.HBM_SCRUB_CFG ≠ 0) (hblk : blk < hbmBlocks) (hlast : (s.mem.scrubbed.add blk).length =
      hbmBlocks) :
    exec (.scrubRead blk false false) s = .next (State.count { s.count FR.HBM_CORR_CNT 0 with
      mem := { s.mem with scrubbed := [] } } FR.HBM_SCRUB_PASS_CNT) := by
  rw [scrubRead_on hm hcfg hblk]
  exact if_pos hlast

/-- Settles O37: the tag of a tile (`apertureRead_absent`), and what the scrubber leaves (`scrubRead_good`,
`scrubRead_bad`, `scrubRead_pass`). -/
theorem tagsAndScrubbing : Obligations.TagsAndScrubbing := by
  unfold Obligations.TagsAndScrubbing
  intro s pa tile blk corrected j
  refine ⟨fun k hm ht hk => ?asleep, fun hm ht hk h => ?tag, fun hm hcfg hblk hw hmore => ⟨?good, ?bad⟩,
    fun hm hcfg hblk hlast => ?pass, ⟨s, rfl, rfl⟩⟩
  case asleep => exact tagApertureRead_waits hm ht (apertureRead_asleep ht hk)
  case tag =>
    exact ⟨_, s.tileTag tile, tagApertureRead_answers hm ht (apertureRead_absent ht hk h), rfl, tileTag_lt tile,
      tileTag_good, tileTag_bad⟩
  case good => exact ⟨_, scrubRead_good corrected hm hcfg hblk hmore, rfl⟩
  case bad =>
    let u := s.count FR.HBM_CORR_CNT (b2n corrected)
    have hgood : FGood u.fregs := ((FloorRegs.refl [_] s).count _ List.mem_cons_self).canon hw
    obtain ⟨hcount, hpa⟩ := hbmUncorrectable_regs hgood blk
    refine ⟨_, scrubRead_bad corrected hm hcfg hblk hmore, rfl, hcount.trans ?_, fun hfree => ?_, ?_⟩
    · exact congrArg (fun n => (n + 1) % 2 ^ 64) (freg_count_other _ _ (by decide))
    · have hsame (a : Nat) (ha : a ≠ FR.HBM_CORR_CNT) : u.freg a = s.freg a := freg_count_other _ _ ha
      refine (hpa (by rw [hsame _ (by decide)]; exact hfree) hblk).trans ?_
      rw [State.blockPa, hsame _ (by decide), State.blockPa]
      split <;> rfl
    · exact (congrArg State.cells (hbmUncorrectable_frame u blk)).trans rfl
  case pass =>
    refine ⟨_, scrubRead_pass hm hcfg hblk hlast, rfl, fun hw => ?_⟩
    have hgood : FGood (s.count FR.HBM_CORR_CNT 0).fregs :=
      ((FloorRegs.refl [_] s).count _ List.mem_cons_self).canon hw
    refine (freg_count_self (s := { s.count FR.HBM_CORR_CNT 0 with mem := { s.mem with scrubbed := [] } }) _ 1
      hgood).trans ?_
    exact congrArg (fun n => (n + 1) % 2 ^ 64) (freg_count_other s 0 (by decide))

end Sys2Proof.Proofs
end
section
/-! Cell and band resets (R506, R507): what the reset of a list of awake cells leaves, and the records of resets. -/

namespace Sys2Proof.Proofs
open Sys2Proof Sys2Proof.Machine Sys2Proof.Laws

/-! ### One cell -/

theorem arriveReset_sync (s : State) (c : CellId) : s.arriveReset c = { s with sync := (s.arriveReset c).sync } := by
  simp only [State.arriveReset, List.foldl_cons, List.foldl_nil]
  rw [setBarrier_sync, setBarrier_sync _ .all, setBarrier_sync s]

/-- A cell in reset has arrived at the barrier of all cells. -/
theorem arriveReset_arrived (s : State) (c : CellId) : c ∈ (s.arriveReset c).sync.all.arrived := by
  show c ∈ (s.sync.all.resetArrival c).arrived
  rw [Barrier.resetArrival]
  split
  next h => exact List.contains_iff_mem.1 h
  next => exact List.mem_append_right _ List.mem_cons_self

theorem arriveReset_keeps (s : State) (c : CellId) {d : CellId} (h : d ∈ s.sync.all.arrived) :
    d ∈ (s.arriveReset c).sync.all.arrived := by
  show d ∈ (s.sync.all.resetArrival c).arrived
  rw [Barrier.resetArrival]
  split
  · exact h
  · exact List.mem_append_left _ h

/-- A cell that its reset finds awake and without transfers. -/
def Resettable (x : Cell) : Prop := x.cp.st = .awake ∧ ∀ n, x.slot n = none

theorem resetCell_awake {s : State} {c : CellId} (h : Resettable (s.cell c)) : s.resetCell c =
    { s.setCell c (s.cell c).afterReset with
      sync := (s.arriveReset c).sync, hv := { s.hv with subs := s.hv.subs.filter (fun b => b.cell != c) } } := by
  obtain ⟨hst, hslot⟩ := h
  have hnow : s.resetCell c = s.resetNow c := by
    rw [State.resetCell]
    simp only [hst]
  rw [hnow]
  unfold State.resetNow
  rw [endDoze_awake hst]
  extract_lets s1 s2 s3 hv s4
  have h2 : s2 = s := by
    simp only [s2, s1]
    generalize List.finRange 6 = l
    induction l with
    | nil => rfl
    | cons n l ih =>
      rw [List.foldl_cons]
      simp only [hslot n]
      exact ih
  have h3 : s3 = { s with sync := (s.arriveReset c).sync } := by
    simp only [s3, h2]
    exact arriveReset_sync s c
  have h4 : s4 = { s with
      sync := (s.arriveReset c).sync, hv := { s.hv with subs := s.hv.subs.filter (fun b => b.cell != c) } } := by
    simp only [s4, hv]
    rw [h3]
  rw [h4]
  rfl

/-! ### A list of cells -/

/-- t is s with the cells of l reset, none of which held a transfer. -/
structure ResetOf (l : List CellId) (s t : State) : Prop where
  reset : ∀ c ∈ l, t.cell c = (s.cell c).afterReset
  others : ∀ c, c ∉ l → t.cell c = s.cell c
  arrived : ∀ c, c ∈ l ∨ c ∈ s.sync.all.arrived → c ∈ t.sync.all.arrived
  subs : ∀ b ∈ t.hv.subs, b ∈ s.hv.subs
  frame : t = { s with cells := t.cells, sync := t.sync, hv := { s.hv with subs := t.hv.subs } }

theorem ResetOf.nil (s : State) : ResetOf [] s s := ⟨nofun, fun _ _ => rfl, by simp, fun _ h => h, rfl⟩

theorem ResetOf.one {s : State} {c : CellId} (h : Resettable (s.cell c)) : ResetOf [c] s (s.resetCell c) := by
  have heq := resetCell_awake h
  refine ⟨fun d hd => ?_, fun d hd => ?_, fun d hd => ?_, fun b hb => ?_, ?_⟩
  · obtain rfl := List.mem_singleton.1 hd
    rw [heq]
    exact cell_setCell_self ..
  · rw [heq]
    exact cell_setCell_other s _ (by simpa using hd)
  · rw [heq]
    rcases hd with hd | hd
    · obtain rfl := List.mem_singleton.1 hd
      exact arriveReset_arrived s d
    · exact arriveReset_keeps s c hd
  · rw [heq] at hb
    exact (List.mem_filter.1 hb).1
  · rw [heq]
    rfl

theorem ResetOf.append {l m : List CellId} {s t u : State} (h : ResetOf l s t) (g : ResetOf m t u)
    (hd : ∀ c ∈ m, c ∉ l) : ResetOf (l ++ m) s u := by
  refine ⟨fun c hc => ?_, fun c hc => ?_, fun c hc => ?_, fun b hb => h.subs b (g.subs b hb), ?_⟩
  · by_cases hm : c ∈ m
    · rw [g.reset c hm, h.others c (hd c hm)]
    · rw [g.others c hm, h.reset c (by simpa [hm] using hc)]
  · rw [List.mem_append, not_or] at hc
    rw [g.others c hc.2, h.others c hc.1]
  · rw [List.mem_append] at hc
    refine g.arrived c ?_
    by_cases hm : c ∈ m
    · exact .inl hm
    · exact .inr (h.arrived c (by tauto))
  · rw [g.frame, h.frame]

theorem resetOf_cells {l : List CellId} (hl : l.Nodup) {s : State} (h : ∀ c ∈ l, Resettable (s.cell c)) :
    ResetOf l s (s.resetCells l) := by
  rw [State.resetCells]
  induction l generalizing s with
  | nil => exact .nil s
  | cons c l ih =>
    obtain ⟨hc, hl⟩ := List.nodup_cons.1 hl
    have hone := ResetOf.one (h c List.mem_cons_self)
    have hne (d : CellId) (hd : d ∈ l) : d ∉ [c] := fun he => hc (by rwa [List.mem_singleton.1 he] at hd)
    rw [List.foldl_cons]
    exact hone.append (ih hl fun d hd => by
      rw [hone.others d (hne d hd)]
      exact h d (List.mem_cons_of_mem c hd)) hne

theorem afterReset_cp (x : Cell) : x.afterReset.cp.st = .awake ∧ x.afterReset.inReset = false := ⟨rfl, rfl⟩

theorem slot_afterReset (x : Cell) (n : Fin 6) : x.afterReset.slot n = none :=
  Vector.getElem_replicate (a := (none : Option Transfer)) n.isLt

/-! ### Registers of a cell after its reset -/

theorem reg_afterReset_dropped (x : Cell) {r : Nat} (hr : r < CR.CP_CTRL) (hrep : r ≠ CR.MX_REPAIR)
    (hst : r ≠ CR.MX_STATUS) : x.afterReset.reg r = (cellResetVal r).toNat := by
  rw [Cell.afterReset, Cell.orReg, reg_setReg_other _ _ hst, Cell.reg,
    smap_get_filter cellResetVal x.regs (fun a => decide (CR.CP_CTRL ≤ a) || a == CR.MX_REPAIR) r]
  rw [if_neg (by simp only [Bool.or_eq_true, decide_eq_true_eq, beq_iff_eq]; omega)]

theorem reg_afterReset_kept (x : Cell) {r : Nat} (hr : CR.CP_CTRL ≤ r) : x.afterReset.reg r = x.reg r := by
  rw [Cell.afterReset, Cell.orReg, reg_setReg_other _ _ (by simp only [CR.CP_CTRL, CR.MX_STATUS] at *; omega), Cell.reg,
    smap_get_filter cellResetVal x.regs (fun a => decide (CR.CP_CTRL ≤ a) || a == CR.MX_REPAIR) r]
  rw [if_pos (by rw [decide_eq_true hr]; rfl)]
  rfl

/-! ### The records of resets -/

/-- The floor registers that an event of class 0 to 2 may change: HI_EVT is not among them. -/
def quietRegs (cls : Nat) : List Nat :=
  [FR.ERR_CLS_CNT cls, FR.ALM_LIMIT_CNT, FR.ALM_DROP_CNT, FR.ALM_STATUS, FR.ALM_SEV_DROP_CNT]

theorem floorRegs_logQuiet (s : State) (code index addr info0 info1 : Nat) {cls : Nat} (hc : cls < 3) :
    FloorRegs (quietRegs cls) s (s.logEvent code index cls addr info0 info1) := by
  unfold State.logEvent
  extract_lets seq r s1 a1 s2 e used a2 s3 s4 up host s5
  have h2 : FloorRegs (quietRegs cls) s s2 :=
    ((FloorRegs.refl _ s).count 1 (by simp [quietRegs])).trans (floorRegs_of_eq rfl)
  have h3 : FloorRegs (quietRegs cls) s s3 := .ite (h2.trans (floorRegs_of_eq rfl)) h2
  have hs4 : FloorRegs (quietRegs cls) s s4 := (h3.trans (floorRegs_storeRec _ r (by simp [quietRegs])
    (by simp [quietRegs]))).trans (floorRegs_storeSevere _ r (by simp [quietRegs]))
  have h5 : FloorRegs (quietRegs cls) s s5 := .ite (hs4.trans (floorRegs_of_eq rfl)) hs4
  have hcls : ¬ (((cls == 3 || cls == 4) && s5.dev.mainOn) = true) := by
    simp only [Bool.and_eq_true, Bool.or_eq_true, beq_iff_eq]
    omega
  rw [if_neg hcls]
  exact .ite (h2.count _ (by simp [quietRegs])) h5

/-- The floor registers that the record of a reset of a kind may change (R504). -/
def resetRegs (kind : Nat) : List Nat := FR.RST_STATUS :: FR.RST_KIND_CNT kind :: quietRegs 0

theorem floorRegs_noteQuiet (s : State) (kind mask : Nat) : FloorRegs (resetRegs kind) s (s.noteReset kind mask) :=
  (((FloorRegs.refl _ s).setFreg _ (by simp [resetRegs])).count _ (by simp [resetRegs])).trans
    ((floorRegs_logQuiet _ _ _ _ _ _ (by decide)).mono fun _ h => by simp [resetRegs, h])

/-! ### Masks -/

theorem mem_maskCells {mask : Nat} {c : CellId} : c ∈ maskCells mask ↔ bitB mask c.val = true := by
  simp only [maskCells, allCells, List.mem_filter, List.mem_finRange, true_and]

theorem nodup_maskCells (mask : Nat) : (maskCells mask).Nodup := (List.nodup_finRange 256).filter _

/-- A reset of the cells of a mask, none of which is in a reset. -/
theorem cellReset_awake {s : State} {mask : Nat} (note : Nat) (hne : maskCells mask ≠ [])
    (h : ∀ c ∈ maskCells mask, Resettable (s.cell c) ∧ (s.cell c).inReset = false) :
    ∃ u, s.cellReset mask note = u.noteReset 1 note ∧ ResetOf (maskCells mask) s u := by
  have hall : (maskCells mask).filter (fun c => !(s.cell c).inReset) = maskCells mask :=
    List.filter_eq_self.2 fun c hc => by rw [(h c hc).2]; rfl
  refine ⟨s.resetCells (maskCells mask), ?_, resetOf_cells (nodup_maskCells mask) fun c hc => (h c hc).1⟩
  rw [State.cellReset, hall]
  cases hl : maskCells mask with
  | nil => exact absurd hl hne
  | cons c l => rfl

/-! ### Bands -/

theorem mem_bandCells {c : CellId} {b : Fin 16} : c ∈ bandCells b ↔ bandOf c = b := by
  refine ⟨bandOf_bandCells b c, ?_⟩
  rintro rfl
  simp only [bandCells, bandOf, List.mem_map, List.mem_range]
  exact ⟨c.val % 16, by omega, Fin.ext (by simp only [cellNo]; omega)⟩

theorem bandFails_none {s : State} (h : s.hv.delivered = []) (k : Fin 16) : s.bandFails k = s := by
  rw [State.bandFails, h]
  split <;> rfl

theorem bandWaits_none {s : State} {k : Fin 16} (h : ∀ c ∈ bandCells k, (s.cell c).inReset = false) :
    s.bandWaits k = s := by
  rw [State.bandWaits]
  generalize bandCells k = l at h
  induction l with
  | nil => rfl
  | cons c l ih =>
    rw [List.foldl_cons, State.modCell, h c List.mem_cons_self, if_neg Bool.false_ne_true, setCell_self]
    exact ih fun d hd => h d (List.mem_cons_of_mem c hd)

/-- The bands of a list reset one after the other. -/
theorem resetOf_bands {ks : List (Fin 16)} (hk : ks.Nodup) {s : State} (hdel : s.hv.delivered = [])
    (h : ∀ c, bandOf c ∈ ks → Resettable (s.cell c)) :
    ResetOf (ks.flatMap bandCells) s
      (ks.foldl (fun (s : State) k => ((s.resetCells (bandCells k)).bandFails k).bandWaits k) s) := by
  induction ks generalizing s with
  | nil => exact .nil s
  | cons k ks ih =>
    obtain ⟨hnot, hk⟩ := List.nodup_cons.1 hk
    have hone := resetOf_cells (nodup_bandCells k) fun c hc => h c (by
      rw [mem_bandCells.1 hc]
      exact List.mem_cons_self)
    have hdel' : (s.resetCells (bandCells k)).hv.delivered = [] := by rw [hone.frame]; exact hdel
    have hwaits := bandWaits_none (s := s.resetCells (bandCells k)) (k := k) fun c hc => by
      rw [hone.reset c hc]
      exact (afterReset_cp _).2
    have hapart (c : CellId) (hc : c ∈ ks.flatMap bandCells) : c ∉ bandCells k := by
      obtain ⟨j, hj, hcj⟩ := List.mem_flatMap.1 hc
      intro hck
      exact hnot (by rwa [← mem_bandCells.1 hck, mem_bandCells.1 hcj])
    rw [List.foldl_cons, bandFails_none hdel', hwaits, List.flatMap_cons]
    refine hone.append (ih hk hdel' fun c hc => ?_) hapart
    rw [hone.others c (fun hck => hnot (by rwa [← mem_bandCells.1 hck]))]
    exact h c (List.mem_cons_of_mem k hc)

/-- A reset of the bands of a mask, none of whose cells is in a reset. -/
theorem bandReset_awake {s : State} {mask : Nat} (hdel : s.hv.delivered = [])
    (hne : ∃ k : Fin 16, bitB mask k.val = true)
    (h : ∀ c, bitB mask (bandOf c).val = true → Resettable (s.cell c) ∧ (s.cell c).inReset = false) :
    ∃ u, s.bandReset mask = u.noteReset 2 mask ∧
      ResetOf (((List.finRange 16).filter (fun k => bitB mask k.val)).flatMap bandCells) s u := by
  have hnone (k : Fin 16) (hk : bitB mask k.val = true) : s.inBandReset k = false := by
    simp only [State.inBandReset, List.any_eq_false]
    intro c hc
    rw [(h c (by rw [mem_bandCells.1 hc]; exact hk)).2]
    exact Bool.false_ne_true
  have hall : (List.finRange 16).filter (fun k => bitB mask k.val && !s.inBandReset k) =
      (List.finRange 16).filter (fun k => bitB mask k.val) := by
    refine List.filter_congr fun k _ => ?_
    cases hk : bitB mask k.val with
    | false => rfl
    | true => rw [hnone k hk]; rfl
  refine ⟨_, ?_, resetOf_bands ((List.nodup_finRange 16).filter _) hdel fun c hc =>
    (h c (List.mem_filter.1 hc).2).1⟩
  rw [State.bandReset, hall]
  cases hl : (List.finRange 16).filter (fun k => bitB mask k.val) with
  | nil =>
    obtain ⟨k, hk⟩ := hne
    have hmem : k ∈ (List.finRange 16).filter (fun k => bitB mask k.val) :=
      List.mem_filter.2 ⟨List.mem_finRange k, hk⟩
    rw [hl] at hmem
    exact absurd hmem List.not_mem_nil
  | cons k ks => rfl

theorem mem_bandsOf {mask : Nat} {c : CellId} :
    c ∈ ((List.finRange 16).filter (fun k => bitB mask k.val)).flatMap bandCells ↔
      bitB mask (bandOf c).val = true := by
  simp only [List.mem_flatMap, List.mem_filter, List.mem_finRange, true_and, mem_bandCells, exists_eq_right']

end Sys2Proof.Proofs
end
section
/-! The host's commands (R422, R423): what each leaves where the cells that it names are awake, and the settling of O46. -/

namespace Sys2Proof.Proofs
open Sys2Proof Sys2Proof.Machine Sys2Proof.Laws

variable {s : State} {k : Fin 16} {c : HostCmd}

/-! ### The outcome of a command -/

/-- t is the state in which the command of slot k has the outcome 0, and the other slots are as they were in s. -/
def Done (s : State) (k : Fin 16) (c : HostCmd) (t : State) : Prop :=
  t.cmd k = some { c with outcome := some (0, 0, 0) } ∧ ∀ j, j ≠ k → t.cmd j = s.cmd j

theorem finishCmd_zero {u : State} (h : u.cmd k = some c) :
    u.finishCmd k 0 0 0 = u.setCmd k (some { c with outcome := some (0, 0, 0) }) := by
  rw [State.finishCmd, h]

theorem done_setCmd {u : State} (h : u.hs.cmds = s.hs.cmds) :
    Done s k c (u.setCmd k (some { c with outcome := some (0, 0, 0) })) := by
  refine ⟨cmd_setCmd_self _ k _, fun j hj => ?_⟩
  rw [cmd_setCmd_other _ _ hj, State.cmd, h, State.cmd]

theorem onCmd_run {op : Nat} {f : HostCmd → State → State} (h : s.cmd k = some c) (hm : s.dev.mainOn = true)
    (hout : c.outcome = none) (hop : c.op = op) : s.onCmd k op f = f c s := by
  rw [State.onCmd, h]
  simp only [hm, hop, hout, decide_true, Bool.true_and, Option.isNone_none, if_true]

/-! ### Cells one after the other -/

/-- A fold whose steps change one cell each, as long as I holds of the state and P of the cell. -/
theorem foldl_setCell_where {f : State → CellId → State} {g : Cell → Cell} {P : Cell → Prop} {I : State → Prop}
    (hI : ∀ s c x, I s → I (s.setCell c x))
    (hf : ∀ s c, I s → P (s.cell c) → f s c = s.setCell c (g (s.cell c))) {l : List CellId} (hl : l.Nodup) {s : State}
    (hs : I s) (h : ∀ c ∈ l, P (s.cell c)) :
    l.foldl f s = l.foldl (fun s c => s.setCell c (g (s.cell c))) s := by
  induction l generalizing s with
  | nil => rfl
  | cons c l ih =>
    obtain ⟨hc, hl⟩ := List.nodup_cons.1 hl
    rw [List.foldl_cons, List.foldl_cons, hf s c hs (h c List.mem_cons_self)]
    refine ih hl (hI _ _ _ hs) fun d hd => ?_
    rw [cell_setCell_other _ _ fun he : d = c => hc (he ▸ hd)]
    exact h d (List.mem_cons_of_mem c hd)

theorem sleepers_awake {l : List CellId} (h : ∀ n ∈ l, (s.cell n).cp.st = .awake) : s.sleepers l = [] := by
  rw [State.sleepers, List.filter_eq_nil_iff]
  intro n hn
  rw [h n hn]
  exact Bool.false_ne_true

theorem awakeFirst_awake {l : List CellId} {f : State → State} (h : ∀ n ∈ l, (s.cell n).cp.st = .awake) :
    s.awakeFirst l f = f s := by
  rw [State.awakeFirst, sleepers_awake h]

theorem nodup_cells (c : HostCmd) : c.cells.Nodup := nodup_maskCells c.mask

/-! ### CELL_START and CELL_HALT -/

/-- The cell after a command has started it. -/
def startedBy (c : HostCmd) (x : Cell) : Cell :=
  started (if c.f 384 384 = 1 then { x with npc := BitVec.ofNat 64 (c.f 376 320) } else x)

theorem npc_startedBy (c : HostCmd) (x : Cell) :
    (startedBy c x).npc = if c.f 384 384 = 1 then BitVec.ofNat 64 (c.f 376 320) else x.npc := by
  rw [startedBy]
  split <;> rfl

theorem running_startedBy (c : HostCmd) {x : Cell} (h : x.cp.st = .awake) : (startedBy c x).running = true := by
  have hcp : (startedBy c x).cp.st = .awake := by
    rw [startedBy]
    split
    · exact h
    · exact h
  rw [Cell.running, hcp]
  rfl

theorem cellStart_awake (h : s.cmd k = some c) (hm : s.dev.mainOn = true) (hout : c.outcome = none) (hop : c.op = 1)
    (hfatal : s.fatal = false) (hcells : ∀ n ∈ c.cells, (s.cell n).cp.st = .awake ∧ (s.cell n).mode ≠ .running) :
    exec (.cellStart k) s = .next ((c.cells.foldl (fun s n => s.setCell n (startedBy c (s.cell n))) s).setCmd k
      (some { c with outcome := some (0, 0, 0) })) := by
  show execCellStart k s = _
  rw [execCellStart, onCmd_run h hm hout hop]
  have hran : (c.cells.filter (fun n => (s.cell n).mode = .running)).length = 0 := by
    rw [List.length_eq_zero_iff, List.filter_eq_nil_iff]
    exact fun n hn => by rw [decide_eq_false (hcells n hn).2]; exact Bool.false_ne_true
  simp only [hran]
  rw [foldl_setCell_where (g := startedBy c) (P := fun x => x.cp.st = .awake ∧ x.mode ≠ .running)
    (I := fun s => s.fatal = false) (fun _ _ _ h => h) (fun t n ht hn => ?step) (nodup_cells c) hfatal hcells]
  · refine congrArg Host.Outcome.next (finishCmd_zero ?_)
    rw [(foldl_setCell (startedBy c) _ (nodup_cells c) s).2]
    exact h
  case step =>
    obtain ⟨hst, hmode⟩ := hn
    rw [if_neg hmode, startedBy]
    split
    · rw [State.modCell, startCell_awake (s := t.setCell n _) (c := n) (by rw [cell_setCell_self]; exact hst) ht,
        cell_setCell_self, if_neg hmode, setCell_setCell]
    · rw [startCell_awake hst ht, if_neg hmode]

/-- The cell after a halt with nothing in flight. -/
def haltedBy (x : Cell) : Cell := if x.mode = .running then halted x else x

theorem cellHalt_awake (h : s.cmd k = some c) (hm : s.dev.mainOn = true) (hout : c.outcome = none) (hop : c.op = 2)
    (hcells : ∀ n ∈ c.cells, (s.cell n).cp.st = .awake ∧ (s.cell n).window = []) :
    exec (.cellHalt k) s = .next ((c.cells.foldl (fun s n => s.setCell n (haltedBy (s.cell n))) s).setCmd k
      (some { c with outcome := some (0, 0, 0) })) := by
  show execCellHalt k s = _
  rw [execCellHalt, onCmd_run h hm hout hop, awakeFirst_awake fun n hn => (hcells n hn).1,
    foldl_setCell_where (g := haltedBy) (P := fun x => x.cp.st = .awake ∧ x.window = [])
      (I := fun _ => True) (fun _ _ _ _ => trivial) (fun t n _ hn => ?step) (nodup_cells c) trivial hcells]
  · refine congrArg Host.Outcome.next (finishCmd_zero ?_)
    rw [(foldl_setCell haltedBy _ (nodup_cells c) s).2]
    exact h
  case step =>
    obtain ⟨hst, hwin⟩ := hn
    rw [State.haltCell, haltedBy]
    cases hmode : (t.cell n).mode with
    | running => rw [if_pos rfl]; simp only [endDoze_awake hst, haltNow_empty hwin]
    | halted | faultHalt | doubleHalt => rw [if_neg nofun, setCell_self]

theorem mode_haltedBy (x : Cell) : (haltedBy x).mode ≠ .running ∧ (haltedBy x).npc = x.npc ∧ (haltedBy x).s = x.s := by
  rw [haltedBy]
  split
  · exact ⟨nofun, rfl, rfl⟩
  next h => exact ⟨h, rfl, rfl⟩

/-! ### SEM_POST -/

theorem semPost_fits (h : s.cmd k = some c) (hm : s.dev.mainOn = true) (hout : c.outcome = none) (hop : c.op = 8)
    {n : CellId} {p : BitVec 6} (hn : n = cellNo (c.f 71 64)) (hp : p = BitVec.ofNat 6 (c.f 77 72))
    (hst : (s.cell n).cp.st = .awake) (hreset : (s.cell n).cp.goal.reset = false) (hovf : ((s.cell n).sem p).ovf =
      false)
    (hroom : ((s.cell n).sem p).count.toNat + c.f 95 80 ≤ 65535) :
    exec (.semPost k) s = .next ((s.setCell n (posted (s.cell n) p (c.f 95 80))).setCmd k
      (some { c with outcome := some (0, 0, 0) })) := by
  show execSemPost k s = _
  have hin : (s.cell n).inReset = false := hreset
  rw [execSemPost, onCmd_run h hm hout hop]
  simp only [← hn, ← hp, hin, Bool.false_eq_true, if_false]
  rw [awakeFirst_awake (by simpa using hst), post_fits hreset hst hovf hroom]
  exact congrArg Host.Outcome.next (finishCmd_zero h)

/-! ### Commands to memory -/

theorem translated_one {va n : Nat} {write : Bool} {f : State → State} {z : State} (hr : s.hs.refused = [])
    (hreach : State.reach write (n / 4096 + 2) va n s = .ok z ()) :
    s.translated k [(va, n, write)] f = f s := by
  have hnone : ([(va, n, write)] : List (Nat × Nat × Bool)).findSome?
      (fun r => if r.2.1 = 0 then none else s.hostRefused k.val r.1 r.2.1) = none := by
    simp [State.hostRefused, hr]
  simp only [State.translated, hnone, List.foldl_cons, List.foldl_nil, AccRes.bind, hreach]

theorem translated_two {a m b n : Nat} {v w : Bool} {f : State → State} {z : State} (hr : s.hs.refused = [])
    (hreach : (State.reach v (m / 4096 + 2) a m s).bind (fun s _ => State.reach w (n / 4096 + 2) b n s) = .ok z ()) :
    s.translated k [(a, m, v), (b, n, w)] f = f s := by
  have hnone : ([(a, m, v), (b, n, w)] : List (Nat × Nat × Bool)).findSome?
      (fun r => if r.2.1 = 0 then none else s.hostRefused k.val r.1 r.2.1) = none := by
    simp [State.hostRefused, hr]
  have hfold : [(a, m, v), (b, n, w)].foldl (fun (r : AccRes Unit) q =>
      r.bind (fun s _ => State.reach q.2.2 (q.2.1 / 4096 + 2) q.1 q.2.1 s)) (.ok s ()) = .ok z () := hreach
  simp only [State.translated, hnone, hfold]

theorem cmdWrite_ok {w : State} {va : Nat} {d : List PByte} {cls : Fin 8} (hw : s.spanWrite .host va d cls = .ok w ())
    (h : w.cmd k = some c) : s.cmdWrite k va d cls = w.setCmd k (some { c with outcome := some (0, 0, 0) }) := by
  rw [State.cmdWrite, hw]
  exact finishCmd_zero h

theorem imLoad_awake {z u : State} {d : List PByte} (h : s.cmd k = some c) (hm : s.dev.mainOn = true)
    (hout : c.outcome = none) (hr : s.hs.refused = []) (hop : c.op = 5)
    (hreach : State.reach false (c.f 415 384 / 4096 + 2) (c.f 376 320) (c.f 415 384) s = .ok z ())
    (hcells : ∀ n ∈ c.cells, (s.cell n).cp.st = .awake ∧ (s.cell n).mode ≠ .running)
    (hread : s.spanRead .host (c.f 376 320) (c.f 415 384) = .ok u d) (hgood : anyBad d = false)
    (hucells : u.cells = s.cells) (huhs : u.hs = s.hs) :
    exec (.imLoad k) s = .next ((c.cells.foldl (fun s n => s.setCell n ((s.cell n).imWrite (c.f 431 416) (plain d)))
      u).setCmd k (some { c with outcome := some (0, 0, 0) })) := by
  have hcell (n : CellId) : u.cell n = s.cell n := by rw [State.cell, hucells, State.cell]
  have hnone : c.cells.any (fun n => decide ((u.cell n).mode = .running)) = false := by
    rw [List.any_eq_false]
    intro n hn
    rw [hcell n, decide_eq_false (hcells n hn).2]
    exact Bool.false_ne_true
  show execImLoad k s = _
  rw [execImLoad, onCmd_run h hm hout hop, translated_one hr hreach, awakeFirst_awake fun n hn => (hcells n hn).1,
    hread]
  simp only [hgood, hnone, Bool.false_eq_true, if_false]
  rw [foldl_setCell_where (g := fun x => x.imWrite (c.f 431 416) (plain d)) (P := fun x => x.cp.st = .awake)
    (I := fun _ => True) (fun _ _ _ _ => trivial) (fun t n _ hn => by rw [endDoze_awake hn]; rfl) (nodup_cells c)
    trivial fun n hn => by rw [hcell n]; exact (hcells n hn).1]
  refine congrArg Host.Outcome.next (finishCmd_zero ?_)
  rw [(foldl_setCell (fun x => x.imWrite (c.f 431 416) (plain d)) _ (nodup_cells c) u).2]
  exact (congrArg (fun h : HostState => h.cmds[k]) huhs).trans h

end Sys2Proof.Proofs
end

section
/-! The settling of O46. -/

namespace Sys2Proof.Proofs
open Sys2Proof Sys2Proof.Machine Sys2Proof.Laws

/-- What CELL_RESET and BAND_RESET leave in a cell (R506). -/
theorem fresh_afterReset (x : Cell) : x.afterReset.mode = .halted ∧ x.afterReset.window = [] ∧ x.afterReset.npc = 0 ∧
    x.afterReset.s = Vector.replicate 32 0 ∧ x.afterReset.oc = [] ∧ x.afterReset.acc = [] ∧
    (∀ m, x.afterReset.slot m = none) ∧
    x.afterReset.im = (if bitB (x.reg CR.CP_CTRL) 2 then x.im else []) ∧
    (∀ r, r < CR.CP_CTRL → r ≠ CR.MX_REPAIR → r ≠ CR.MX_STATUS → x.afterReset.reg r = (cellResetVal r).toNat) ∧
    (∀ r, CR.CP_CTRL ≤ r → x.afterReset.reg r = x.reg r) :=
  ⟨rfl, rfl, rfl, rfl, rfl, rfl, slot_afterReset x, rfl, fun _ h h1 h2 => reg_afterReset_dropped x h h1 h2,
    fun _ h => reg_afterReset_kept x h⟩

/-- A reset that has been recorded leaves the commands, the semaphores' barriers and memory as the resets left them. -/
theorem note_reset_frame {l : List CellId} {s u : State} (h : ResetOf l s u) (kind mask : Nat) :
    (∀ n, (u.noteReset kind mask).cell n = u.cell n) ∧ (u.noteReset kind mask).hs = s.hs ∧
      (u.noteReset kind mask).mem = s.mem ∧ (u.noteReset kind mask).sync = u.sync := by
  have hnote := noteReset_frame u kind mask
  refine ⟨fun n => ?_, ?_, ?_, ?_⟩
  · rw [hnote]; rfl
  · rw [hnote, h.frame]
  · rw [hnote, h.frame]
  · rw [hnote]

theorem note_reset_count {l : List CellId} {s u : State} (h : ResetOf l s u) (hw : FGood s.fregs) {kind : Nat}
    (mask : Nat) (hk : FR.RST_KIND_CNT kind ≠ FR.RST_STATUS) (he : FR.RST_KIND_CNT kind ∉ eventRegs 0) :
    (u.noteReset kind mask).freg (FR.RST_KIND_CNT kind) = (s.freg (FR.RST_KIND_CNT kind) + 1) % 2 ^ 64 := by
  have hf : u.fregs = s.fregs := by rw [h.frame]
  rw [noteReset_count kind mask (by rw [hf]; exact hw) hk he, State.freg, hf, State.freg]

/-- Settles O46: each command with its own lemma above, the resets by `cellReset_awake` and `bandReset_awake`. -/
theorem hostCommands : Obligations.HostCommands := by
  unfold Obligations.HostCommands
  refine ⟨fun s k c => ?cells, fun s u w z k c d m => ?memory⟩
  case cells =>
    intro done up fresh bands h hm hout hw
    refine ⟨fun hop => ?nop, fun hop hfatal hcells => ?start, fun hop hcells => ?halt, fun hop hne hcells => ?reset,
      fun hop hne hcells hdel => ?band, fun hop => ?post⟩
    case nop =>
      refine ⟨_, ?_, done_setCmd (u := s) rfl, rfl⟩
      show Host.Outcome.next (s.onCmd k 0 _) = _
      rw [onCmd_run h hm hout hop, finishCmd_zero h]
    case start =>
      obtain ⟨hcell, hframe⟩ := foldl_setCell (startedBy c) c.cells (nodup_cells c) s
      refine ⟨_, cellStart_awake h hm hout hop hfatal fun n hn => ⟨(hcells n hn).1.1, (hcells n hn).2⟩,
        done_setCmd (by rw [hframe]), by rw [hframe]; rfl, fun n => ⟨fun hn => ?_, fun hn => ?_⟩⟩
      · have hn' := (hcell n).trans (if_pos hn)
        exact ⟨(congrArg Cell.running hn').trans (running_startedBy c (hcells n hn).1.1),
          (congrArg Cell.npc hn').trans (npc_startedBy c _)⟩
      · exact (hcell n).trans (if_neg hn)
    case halt =>
      obtain ⟨hcell, hframe⟩ := foldl_setCell haltedBy c.cells (nodup_cells c) s
      refine ⟨_, cellHalt_awake h hm hout hop fun n hn => ⟨(hcells n hn).1, (hcells n hn).2.2⟩,
        done_setCmd (by rw [hframe]), by rw [hframe]; rfl, fun n => ⟨fun hn => ?_, fun hn => ?_⟩⟩
      · have hn' := (hcell n).trans (if_pos hn)
        obtain ⟨hmode, hnpc, hs⟩ := mode_haltedBy (s.cell n)
        exact ⟨fun hrun => hmode ((congrArg Cell.mode hn').symm.trans hrun), (congrArg Cell.npc hn').trans hnpc,
          (congrArg Cell.s hn').trans hs⟩
      · exact (hcell n).trans (if_neg hn)
    case reset =>
      obtain ⟨u, hu, hreset⟩ := cellReset_awake (s := s) c.mask hne fun n hn =>
        ⟨⟨(hcells n hn).1.1, (hcells n hn).2⟩, (hcells n hn).1.2.1⟩
      obtain ⟨hcell, hhs, hmem, hsync⟩ := note_reset_frame hreset 1 c.mask
      have hfin : (u.noteReset 1 c.mask).cmd k = some c := (congrArg (fun h : HostState => h.cmds[k]) hhs).trans h
      refine ⟨_, ?_, done_setCmd (congrArg HostState.cmds hhs), fun n hn => ?_, fun n hn => ?_, fun n hn => ?_, ?_,
        hmem⟩
      · show Host.Outcome.next (s.onCmd k 3 _) = _
        rw [onCmd_run h hm hout hop, hu, finishCmd_zero hfin]
      · have hn' := (hcell n).trans (hreset.reset n hn)
        have hx := fresh_afterReset (s.cell n)
        rw [← hn'] at hx
        exact hx
      · exact (hcell n).trans (hreset.others n hn)
      · exact hsync ▸ hreset.arrived n (.inl hn)
      · exact note_reset_count hreset hw c.mask (by decide) (by decide)
    case band =>
      obtain ⟨b, hb⟩ := List.exists_mem_of_ne_nil _ hne
      have hbands (n : CellId) : bandOf n ∈ bands ↔ bitB (c.f 79 64) (bandOf n).val = true := by
        simp only [bands, List.mem_filter, List.mem_finRange, true_and]
      obtain ⟨u, hu, hreset⟩ := bandReset_awake (s := s) (mask := c.f 79 64) hdel ⟨b, (List.mem_filter.1 hb).2⟩
        fun n hn => ⟨⟨(hcells n ((hbands n).2 hn)).1.1, (hcells n ((hbands n).2 hn)).2⟩,
          (hcells n ((hbands n).2 hn)).1.2.1⟩
      obtain ⟨hcell, hhs, hmem, -⟩ := note_reset_frame hreset 2 (c.f 79 64)
      have hfin : (u.noteReset 2 (c.f 79 64)).cmd k = some c := (congrArg (fun h : HostState => h.cmds[k]) hhs).trans h
      refine ⟨_, ?_, done_setCmd (congrArg HostState.cmds hhs), fun n hn => ?_, fun n hn => ?_, ?_, hmem⟩
      · show Host.Outcome.next (s.onCmd k 4 _) = _
        rw [onCmd_run h hm hout hop, hu, finishCmd_zero hfin]
      · have hn' := (hcell n).trans (hreset.reset n (mem_bandsOf.2 ((hbands n).1 hn)))
        have hx := fresh_afterReset (s.cell n)
        rw [← hn'] at hx
        exact hx
      · exact (hcell n).trans (hreset.others n fun hin => hn ((hbands n).2 (mem_bandsOf.1 hin)))
      · exact note_reset_count hreset hw (c.f 79 64) (by decide) (by decide)
    case post =>
      intro n x p hst hreset hovf hroom
      refine ⟨_, semPost_fits h hm hout hop rfl rfl hst hreset hovf hroom, done_setCmd rfl, rfl,
        cell_setCell_self s n _, fun j hj => cell_setCell_other s _ hj⟩
  case memory =>
    intro cls reach done h hm hout hr
    refine ⟨fun hop hreach hcells hread hgood hucells huhs => ?load, fun hop hreach hread hwrite hcmds => ?copy,
      fun hop hreach hwrite hcmds => ?fill⟩
    case load =>
      obtain ⟨hcell, hframe⟩ := foldl_setCell (fun x => x.imWrite (c.f 431 416) (plain d)) c.cells (nodup_cells c) u
      refine ⟨_, imLoad_awake h hm hout hr hop hreach hcells hread hgood hucells huhs,
        done_setCmd (by rw [hframe]; exact congrArg HostState.cmds huhs), by rw [hframe]; rfl, fun n => ?_⟩
      have hn : u.cell n = s.cell n := by rw [State.cell, hucells, State.cell]
      rw [← hn]
      exact hcell n
    case copy =>
      have hwk : w.cmd k = some c := (congrArg (fun v : Vector (Option HostCmd) 16 => v[k]) hcmds).trans h
      refine ⟨_, ?_, done_setCmd hcmds, rfl⟩
      show Host.Outcome.next (s.onCmd k 6 _) = _
      rw [onCmd_run h hm hout hop, translated_two hr hreach]
      simp only
      rw [hread]
      exact congrArg Host.Outcome.next (cmdWrite_ok hwrite hwk)
    case fill =>
      have hwk : w.cmd k = some c := (congrArg (fun v : Vector (Option HostCmd) 16 => v[k]) hcmds).trans h
      refine ⟨_, ?_, done_setCmd hcmds, rfl⟩
      show Host.Outcome.next (s.onCmd k 7 _) = _
      rw [onCmd_run h hm hout hop, translated_one hr hreach]
      exact congrArg Host.Outcome.next (cmdWrite_ok hwrite hwk)

end Sys2Proof.Proofs
end
section
/-! Function-level, cell, band and floor resets (R434, R507 to R509): what each leaves of a quiet device. -/

namespace Sys2Proof.Proofs
open Sys2Proof Sys2Proof.Machine Sys2Proof.Laws

variable {s : State}

/-! ### Nothing to do -/

theorem noticeAll_none (h : ∀ k, s.inst k = none) : s.noticeAll = s := by
  unfold State.noticeAll
  generalize allSlots = l
  induction l with
  | nil => rfl
  | cons k l ih =>
    rw [List.foldl_cons]
    simp only [h k]
    exact ih

theorem refuseAll_none (h : s.mem.reqs = []) : s.refuseAll = s := by
  rw [State.refuseAll, h]
  rfl

theorem haltSlots_none {c : CellId} (h : ∀ n, (s.cell c).slot n = none) (l : List (Fin 6)) (room : Nat) :
    State.haltSlots c l room s = s := by
  induction l with
  | nil => rfl
  | cons n l ih =>
    rw [State.haltSlots]
    simp only [h n]
    exact ih

theorem haltFloor_none (h : ∀ c n, (s.cell c).slot n = none) : s.haltFloor = s := by
  unfold State.haltFloor
  generalize allCells = l
  induction l with
  | nil => rfl
  | cons c l ih =>
    rw [List.foldl_cons, haltSlots_none (h c)]
    exact ih

theorem redoWc_none (h : s.hv.remake = []) : s.redoWc = s := by
  simp only [State.redoWc, h, List.foldl_nil]
  rw [← h]

/-! ### Registers of the host interface -/

theorem freg_clearHi (s : State) (a : Nat) : s.clearHi.freg a =
    if 0x30010010000 ≤ a ∧ a < 0x30010020000 then (floorResetVal a).toNat else s.freg a := by
  rw [State.clearHi, State.freg,
    smap_get_filter floorResetVal s.fregs (fun a => !(0x30010010000 ≤ a && a < 0x30010020000)) a]
  by_cases h : 0x30010010000 ≤ a ∧ a < 0x30010020000
  · rw [if_pos h, if_neg (by simp [h.1, h.2])]
  · rw [if_neg h, if_pos (by
      simp only [Bool.not_eq_true', Bool.and_eq_false_iff, decide_eq_false_iff_not]
      tauto)]
    rfl

theorem clearHi_canon (hw : FGood s.fregs) : FGood s.clearHi.fregs := fgood_filter hw _

theorem hi_not_resetRegs {a kind : Nat} (h : 0x30010010000 ≤ a ∧ a < 0x30010020000) (hk : kind < 8) :
    a ∉ resetRegs kind := by
  simp only [resetRegs, quietRegs, List.mem_cons, List.not_mem_nil, or_false, not_or, FR.RST_STATUS, FR.RST_KIND_CNT,
    FR.ERR_CLS_CNT, FR.ALM_LIMIT_CNT, FR.ALM_DROP_CNT, FR.ALM_STATUS, FR.ALM_SEV_DROP_CNT]
  omega

/-! ### The function-level reset (R434) -/

/-- What is kept of the host interface: the link, the decoder, and what the host holds. -/
def hsKept (s : State) : State :=
  { s with hs := { s.hs.sentOnly with hdm := s.hs.hdm, link := s.hs.link, held := s.hs.held, snooped := s.hs.snooped } }

/-- The replica checks without a phase. -/
def rxIdle (s : State) : State :=
  { s with rx := { s.rx with phase := .idle, work := [], repaired := [], release := none, formed := [], dxLost := false } }

/-- The caches of translations empty. -/
def untranslated (s : State) : State :=
  { s with mem := { s.mem with tlb := [], ats := [], atsWait := [], priWait := [], priFail := [] } }

theorem dropEntries_none (h : s.mem.posted = []) : s.dropEntries = s := by
  rw [State.dropEntries, h, List.filter_nil, ← h]

theorem functionReset_stages (h : s.mem.posted = []) : s.functionReset =
    ((untranslated (((rxIdle (hsKept s).noticeAll.disarmAll.dropStep).dropJob).resetCells
      allCells).refuseAll).redoWc.clearHi).noteReset 4 0 := by
  simp only [State.functionReset, untranslated, rxIdle, hsKept, dropEntries_none h]

theorem dropStep_none (hbegun : s.hv.begun = []) (hremake : s.hv.remake = []) : s.dropStep = { s with hv := {} } := by
  simp only [State.dropStep, hbegun, hremake, List.filterMap_nil, List.append_nil]

theorem dropJob_none (h : s.rx.job = none) : s.dropJob = { s with rx := { s.rx with starting := none } } := by
  simp only [State.dropJob, h]

/-- What a function-level reset leaves of a quiet device before the cells are reset. -/
def functionCleared (s : State) : State :=
  (rxIdle { (hsKept s).disarmAll with hv := {} }).dropJob

theorem functionReset_quiet (hinst : ∀ k, s.inst k = none) (hreqs : s.mem.reqs = [])
    (hslot : ∀ c n, (s.cell c).slot n = none) (hposted : s.mem.posted = []) (hbegun : s.hv.begun = [])
    (hremake : s.hv.remake = []) (hjob : s.rx.job = none) (hawake : ∀ c, (s.cell c).cp.st = .awake) :
    ∃ u, ResetOf allCells (functionCleared s) u ∧ s.functionReset = (untranslated u).clearHi.noteReset 4 0 := by
  have hdrop : functionCleared s = { rxIdle { (hsKept s).disarmAll with hv := {} } with
      rx := { (rxIdle { (hsKept s).disarmAll with hv := {} }).rx with starting := none } } := dropJob_none hjob
  have hreset := resetOf_cells (l := allCells) (s := functionCleared s) (List.nodup_finRange 256) fun c _ => by
    rw [hdrop]
    exact ⟨hawake c, hslot c⟩
  have hstages := functionReset_stages hposted
  rw [noticeAll_none (s := hsKept s) hinst, dropStep_none (s := (hsKept s).disarmAll) hbegun hremake, ← functionCleared]
    at hstages
  generalize (functionCleared s).resetCells allCells = u at hreset hstages
  refine ⟨u, hreset, ?_⟩
  have hrefuse : u.refuseAll = u := by
    refine refuseAll_none ((congrArg (fun t : State => t.mem.reqs) hreset.frame).trans ?_)
    rw [hdrop]
    exact hreqs
  have hredo : (untranslated u).redoWc = untranslated u := by
    refine redoWc_none ((congrArg (fun t : State => t.hv.remake) hreset.frame).trans ?_)
    rw [hdrop]
    rfl
  rw [hstages, hrefuse, hredo]

/-! ### The floor reset (R508) -/

/-- The lines of host memory and of the host come back: none where there are none. -/
theorem flushHost_none (hheld : s.hs.held = []) (hlines : s.hostLines = []) (hposted : s.mem.posted = [])
    (hleaving : ∀ e ∈ s.mem.lines, e.2.leaving = false) :
    ∃ h, s.flushHost = { s with hs := h } ∧ h.hdm = s.hs.hdm := by
  have hposted' (h : HostState) : State.flushPosted { s with hs := h } = { s with hs := h } := by
    simp only [State.flushPosted, hposted, List.foldl_nil]
    rw [← hposted]
  have hnone : s.mem.lines.filter (fun e => e.2.leaving && !e.2.dirty) = [] := by
    rw [List.filter_eq_nil_iff]
    intro e he
    rw [hleaving e he]
    exact Bool.false_ne_true
  unfold State.flushHost
  split
  · dsimp only
    rw [hheld, List.foldl_nil, hlines, List.foldl_nil, hposted', hnone]
    exact ⟨_, rfl, rfl⟩
  · exact ⟨s.hs, rfl, rfl⟩

/-- The descriptors disarmed. -/
def floorDisarmed (s : State) : State :=
  { s with ce := { s.ce with armed := [], waitQ := [], held := [], mine := none } }

/-- What is left of the host interface after a floor reset. -/
def hsFloor (s : State) : State := { s with hs := { s.hs.sentOnly with hdm := s.hs.hdm } }

/-- The open step owes its layers; the caches of translations and the transport are empty. -/
def floorEmptied (s : State) : State :=
  { s with
    hv := { s.hv with poisonOwed := s.hv.poisonOwed || s.hvState == 1 }
    mem := { s.mem with tlb := [], ats := [], atsWait := [], priWait := [], priFail := [] }, fl :=
      { wire := s.fl.wire } }

/-- TR_STATUS cleared, and the epoch raised. -/
def floorMarked (s : State) : State :=
  (s.setFreg FR.TR_STATUS 0).setFreg FR.FL_BOOT_EPOCH (((s.setFreg FR.TR_STATUS 0).freg FR.FL_BOOT_EPOCH + 1) % 2 ^ 32)

/-- The status of the first n interfaces cleared. -/
def portsCleared (n : Nat) (s : State) : State := (List.range n).foldl (fun s p => s.setFreg (FR.FL_P_STATUS p) 0) s

theorem floorClear_stages (s : State) : s.floorClear = portsCleared 18 (floorMarked (floorEmptied
    (hsFloor (floorDisarmed s.flushHost.noticeAll).drainFloor.haltFloor).clearHi.refuseAll)) := by
  simp only [State.floorClear, portsCleared, floorMarked, floorEmptied, hsFloor, floorDisarmed]

theorem drainFloor_frame (s : State) : ∃ p, s.drainFloor = { s with pw := p } ∧ p.sr = 0xFFFFF := ⟨_, rfl, rfl⟩

/-- A floor reset of a quiet device, by its stages. -/
theorem floorClear_quiet (hinst : ∀ k, s.inst k = none) (hreqs : s.mem.reqs = [])
    (hslot : ∀ c n, (s.cell c).slot n = none) (hposted : s.mem.posted = []) (hheld : s.hs.held = [])
    (hlines : s.hostLines = []) (hleaving : ∀ e ∈ s.mem.lines, e.2.leaving = false) :
    ∃ h p, h.hdm = s.hs.hdm ∧ p.sr = 0xFFFFF ∧ s.floorClear = portsCleared 18 (floorMarked (floorEmptied
      (hsFloor { floorDisarmed { s with hs := h } with pw := p }).clearHi)) := by
  obtain ⟨h, hflush, hhdm⟩ := flushHost_none hheld hlines hposted hleaving
  obtain ⟨p, hdrain, hsr⟩ := drainFloor_frame (floorDisarmed { s with hs := h })
  refine ⟨h, p, hhdm, hsr, ?_⟩
  rw [floorClear_stages, hflush, noticeAll_none (s := { s with hs := h }) hinst, hdrain,
    haltFloor_none (s := { floorDisarmed { s with hs := h } with pw := p }) hslot,
    refuseAll_none (s := (hsFloor { floorDisarmed { s with hs := h } with pw := p }).clearHi) hreqs]

theorem portsCleared_frame (n : Nat) (s : State) : portsCleared n s = { s with fregs := (portsCleared n s).fregs } := by
  rw [portsCleared]
  generalize List.range n = l
  induction l generalizing s with
  | nil => rfl
  | cons p l ih =>
    rw [List.foldl_cons, ih]
    rfl

theorem floorRegs_portsCleared {ks : List Nat} (n : Nat) (h : ∀ p < n, FR.FL_P_STATUS p ∈ ks) (s : State) :
    FloorRegs ks s (portsCleared n s) :=
  FloorRegs.foldl _ (.refl ks s) fun t p hp => (FloorRegs.refl ks t).setFreg _ (h p (List.mem_range.1 hp))

theorem freg_portsCleared {n p : Nat} (hp : p < n) (hw : FGood s.fregs) : (portsCleared n s).freg (FR.FL_P_STATUS p)
    = 0 := by
  induction n with
  | zero => exact absurd hp (Nat.not_lt_zero p)
  | succ n ih =>
    have hlast : portsCleared (n + 1) s = (portsCleared n s).setFreg (FR.FL_P_STATUS n) 0 := by
      rw [portsCleared, List.range_succ, List.foldl_append]
      rfl
    have hgood : FGood (portsCleared n s).fregs :=
      (floorRegs_portsCleared (ks := (List.range n).map FR.FL_P_STATUS) n
        (fun q hq => List.mem_map_of_mem (List.mem_range.2 hq)) s).canon hw
    rw [hlast]
    by_cases he : p = n
    · rw [he, freg_setFreg_self _ _ _ hgood, Nat.zero_mod]
    · rw [freg_setFreg_other _ _ (by simp only [FR.FL_P_STATUS]; omega)]
      exact ih (by omega)

/-- The floor registers that a floor reset writes one by one. -/
def floorResetRegs : List Nat := [FR.TR_STATUS, FR.FL_BOOT_EPOCH] ++ (List.range 18).map FR.FL_P_STATUS

theorem floorRegs_floorMarked (s : State) : FloorRegs [FR.TR_STATUS, FR.FL_BOOT_EPOCH] s (floorMarked s) :=
  ((FloorRegs.refl _ s).setFreg _ (by decide)).setFreg _ (by decide)

end Sys2Proof.Proofs
end

section
/-! The settling of O50. -/

namespace Sys2Proof.Proofs
open Sys2Proof Sys2Proof.Machine Sys2Proof.Laws

variable {s : State} {o : Origin}

/-- A reset of a kind counts once and is recorded once. -/
def CountedReset (s : State) (n : Nat) (t : State) : Prop :=
  t.freg (FR.RST_KIND_CNT n) = (s.freg (FR.RST_KIND_CNT n) + 1) % 2 ^ 64 ∧ t.alm.seq = s.alm.seq + 1

/-- A device without instances, page requests, transfers or posted writes. -/
structure Quiet (s : State) : Prop where
  inst : ∀ k, s.inst k = none
  reqs : s.mem.reqs = []
  slot : ∀ c n, (s.cell c).slot n = none
  posted : s.mem.posted = []

/-! ### The function-level reset -/

theorem functionCleared_eq (hjob : s.rx.job = none) : functionCleared s =
    { s with
      hs := { s.hs.sentOnly with hdm := s.hs.hdm, link := s.hs.link, held := s.hs.held, snooped := s.hs.snooped }
      ce := { s.ce with armed := [], waitQ := [], held := [], deliver := [], mine := none }
      hv := {}, rx := (functionCleared s).rx } := by
  have hdrop : functionCleared s = { rxIdle { (hsKept s).disarmAll with hv := {} } with
      rx := { (rxIdle { (hsKept s).disarmAll with hv := {} }).rx with starting := none } } := dropJob_none hjob
  rw [hdrop]
  rfl

/-- What a function-level reset of a quiet device with awake cells leaves (R434). -/
theorem functionReset_leaves (hw : FGood s.fregs) (hq : Quiet s) (hbegun : s.hv.begun = []) (hremake : s.hv.remake = [])
    (hjob : s.rx.job = none) (hawake : ∀ c, (s.cell c).cp.st = .awake) :
    let t := s.functionReset
    (∀ c, t.cell c = (s.cell c).afterReset) ∧
      t.hs = { s.hs.sentOnly with hdm := s.hs.hdm, link := s.hs.link, held := s.hs.held, snooped := s.hs.snooped } ∧
      t.hv = {} ∧ t.ce.armed = [] ∧
      t.mem = { s.mem with tlb := [], ats := [], atsWait := [], priWait := [], priFail := [] } ∧
      (∀ a, 0x30010010000 ≤ a ∧ a < 0x30010020000 → t.freg a = (floorResetVal a).toNat) ∧ CountedReset s 4 t := by
  intro t
  obtain ⟨u, hreset, ht⟩ := functionReset_quiet hq.inst hq.reqs hq.slot hq.posted hbegun hremake hjob hawake
  have hclear := functionCleared_eq hjob
  have hframe := hreset.frame
  have hnote := noteReset_frame (untranslated u).clearHi 4 0
  have hsubs : u.hv.subs = [] := by
    refine List.eq_nil_iff_forall_not_mem.2 fun b hb => ?_
    have h := hreset.subs b hb
    rw [hclear] at h
    exact List.not_mem_nil h
  have hregs : u.fregs = s.fregs := (congrArg State.fregs hframe).trans (by rw [hclear])
  have hcanon : FGood (untranslated u).clearHi.fregs := clearHi_canon (s := untranslated u) (by
    show FGood u.fregs
    rw [hregs]
    exact hw)
  have ht' : t = (untranslated u).clearHi.noteReset 4 0 := ht
  refine ⟨fun c => ?_, ?_, ?_, ?_, ?_, fun a ha => ?_, ?_, ?_⟩
  · rw [ht', hnote]
    refine (hreset.reset c (List.mem_finRange c)).trans ?_
    rw [hclear]
    rfl
  · rw [ht', hnote]
    exact (congrArg State.hs hframe).trans (by rw [hclear])
  · rw [ht', hnote]
    refine (congrArg State.hv hframe).trans ?_
    rw [hsubs, hclear]
  · rw [ht', hnote]
    exact (congrArg (fun t : State => t.ce.armed) hframe).trans (by rw [hclear])
  · rw [ht', hnote]
    have hmem : u.mem = s.mem := (congrArg State.mem hframe).trans (by rw [hclear])
    show { u.mem with tlb := [], ats := [], atsWait := [], priWait := [], priFail := [] } = _
    rw [hmem]
  · rw [ht', (floorRegs_noteQuiet _ 4 0).freg a (hi_not_resetRegs ha (by decide)), freg_clearHi, if_pos ha]
  · rw [ht', noteReset_count 4 0 hcanon (by decide) (by decide), freg_clearHi, if_neg (by decide)]
    show (u.freg (FR.RST_KIND_CNT 4) + 1) % 2 ^ 64 = _
    rw [State.freg, hregs, State.freg]
  · rw [ht', noteReset_seq]
    exact congrArg (· + 1) ((congrArg (fun t : State => t.alm.seq) hframe).trans (by rw [hclear]))

/-! ### RST_CELL and RST_BAND -/

theorem still_reset {l : List CellId} {u : State} (hs : Still s) (h : ResetOf l s u) (kind mask : Nat) :
    Still (u.noteReset kind mask) := by
  have hnote := noteReset_frame u kind mask
  refine still_congr hs (fun c => ?_) ?_ ?_
  · rw [hnote]
    show (u.cell c).window = _
    by_cases hc : c ∈ l
    · rw [h.reset c hc]
      exact (hs.empty c).symm
    · rw [h.others c hc]
  · rw [hnote, h.frame]
  · rw [hnote, h.frame]

theorem note_reset_counted {l : List CellId} {u : State} (h : ResetOf l s u) (hw : FGood s.fregs) {kind : Nat} (mask
    : Nat)
    (hk : FR.RST_KIND_CNT kind ≠ FR.RST_STATUS) (he : FR.RST_KIND_CNT kind ∉ eventRegs 0) :
    CountedReset s kind (u.noteReset kind mask) := by
  refine ⟨note_reset_count h hw mask hk he, ?_⟩
  rw [noteReset_seq, h.frame]

theorem rstCell_place (k : Fin 4) : inRegs (FR.RST_CELL k.val) = true ∧ inCells (FR.RST_CELL k.val) = false ∧
    regWidth (FR.RST_CELL k.val) = 64 ∧ FR.RST_CELL k.val % 8 = 0 ∧
    (floorReg (FR.RST_CELL k.val)).any (fun r => r.kind == .action) = true := by
  revert k
  decide

theorem action_rstCell (s : State) (k : Fin 4) (v : Nat) (cap : Option CapIn) :
    s.action (FR.RST_CELL k.val) v cap = s.cellReset (v * 2 ^ (64 * k.val)) v := by
  have hk := k.isLt
  have hindex : (FR.RST_CELL k.val - FR.RST_CELL 0) / 8 = k.val := by
    simp only [FR.RST_CELL]
    omega
  have hother : ∀ a ∈ [FR.HR_UNPIN, FR.TR_INVAL, FR.TR_PRSP, FR.PWR_HBM_SR, FR.ALM_SEV_CLR, FR.RST_BAND],
      FR.RST_CELL k.val ≠ a := by
    intro a ha
    have hlt : ∀ a ∈ [FR.HR_UNPIN, FR.TR_INVAL, FR.TR_PRSP, FR.PWR_HBM_SR, FR.ALM_SEV_CLR, FR.RST_BAND],
        a < FR.RST_CELL 0 ∨ FR.RST_CELL 4 ≤ a := by decide
    have hout := hlt a ha
    simp only [FR.RST_CELL] at hout ⊢
    omega
  have hwake : ¬ (FR.PWR_WAKE 0 ≤ FR.RST_CELL k.val ∧ FR.RST_CELL k.val < FR.PWR_WAKE 4) := by
    simp only [FR.PWR_WAKE, FR.RST_CELL]
    omega
  have hmine : FR.RST_CELL 0 ≤ FR.RST_CELL k.val ∧ FR.RST_CELL k.val < FR.RST_CELL 4 := by
    simp only [FR.RST_CELL]
    omega
  simp only [List.forall_mem_cons] at hother
  obtain ⟨hunpin, hinval, hprsp, hsr, hsev, hband, -⟩ := hother
  rw [State.action, if_neg hunpin, if_neg hinval, if_neg hprsp, if_neg hsr, if_neg hwake, if_neg hsev, if_neg hband,
    if_pos hmine, hindex]

theorem writeReg_rstCell {k : Fin 4} (h : Reaches o s (FR.RST_CELL k.val)) (v : Word) :
    s.writeReg o (FR.RST_CELL k.val) 8 v.toNat = (s.cellReset (v.toNat * 2 ^ (64 * k.val)) v.toNat).goOn := by
  obtain ⟨hregs, hcells, hwidth, halign, hrow⟩ := rstCell_place k
  obtain ⟨r, hr, hk⟩ := Option.any_eq_true _ _ |>.1 hrow
  rw [writeReg_dword h hregs hcells hwidth halign, writeFloor_action hr (by simpa using hk), word_and_all,
    action_rstCell]

/-- The cells that a write of v to RST_CELLk names. -/
theorem bitB_rstCell (v : Word) (k : Fin 4) (c : CellId) :
    bitB (v.toNat * 2 ^ (64 * k.val)) c.val = (c.val / 64 == k.val && v.getLsbD (c.val % 64)) := by
  rw [bitB_eq_testBit, Nat.testBit_mul_two_pow, BitVec.getLsbD]
  by_cases hk : c.val / 64 = k.val
  · have hsub : c.val - 64 * k.val = c.val % 64 := by omega
    rw [hsub, decide_eq_true (by omega), hk, beq_self_eq_true]
  · rw [beq_eq_false_iff_ne.2 hk, Bool.false_and]
    by_cases hle : 64 * k.val ≤ c.val
    · rw [Nat.testBit_lt_two_pow (Nat.lt_of_lt_of_le v.isLt (Nat.pow_le_pow_right (by decide) (by omega))),
        Bool.and_false]
    · rw [decide_eq_false (by omega), Bool.false_and]

theorem writeReg_rstBand (h : Reaches o s FR.RST_BAND) (v : Half) :
    s.writeReg o FR.RST_BAND 4 v.toNat = (s.bandReset ((v.toNat % 2 ^ 32 &&& lowHalf) % 65536)).goOn := by
  rw [writeReg_word h (by decide +kernel) (by decide) (by decide +kernel) (by decide)]
  exact (writeFloor_action (r := (floorReg FR.RST_BAND).get (by decide +kernel)) (by simp) (by decide +kernel) _ _
    _).trans rfl

theorem bitB_rstBand (v : Half) {k : Nat} (h : k < 16) :
    bitB ((v.toNat % 2 ^ 32 &&& lowHalf) % 65536) k = v.getLsbD k := by
  rw [show (65536 : Nat) = 2 ^ 16 from rfl, bitB_mod_two_pow h, bitB_eq_testBit, Nat.testBit_and,
    testBit_lowHalf (by omega), Nat.testBit_mod_two_pow, decide_eq_true (by omega), Bool.true_and, Bool.and_true,
    BitVec.getLsbD]

/-! ### The floor reset -/

/-- What a floor reset leaves (R508, R509). -/
structure FloorResetOf (bs : List BringIn) (s t : State) : Prop where
  dev : t.dev = { s.dev with floorBring := some bs }
  cells : t.cells = s.cells
  link : t.hs.link = .down
  hdm : t.hs.hdm = s.hs.hdm
  qs : t.hs.qs = Vector.replicate 64 {}
  cmds : t.hs.cmds = Vector.replicate 16 none
  boxes : t.hs.boxes = []
  host : ∀ a, 0x30010010000 ≤ a ∧ a < 0x30010020000 → t.freg a = (floorResetVal a).toNat
  fl : t.fl = { wire := s.fl.wire }
  ports : ∀ p < 18, t.freg (FR.FL_P_STATUS p) = 0
  mem : t.mem = { s.mem with tlb := [], ats := [], atsWait := [], priWait := [], priFail := [] }
  armed : t.ce.armed = []
  epoch : t.freg FR.FL_BOOT_EPOCH = (s.freg FR.FL_BOOT_EPOCH + 1) % 2 ^ 32
  status : t.freg FR.TR_STATUS = 0
  hv : t.hv = { s.hv with poisonOwed := s.hv.poisonOwed || s.hvState == 1 }
  sr : t.pw.sr = 0xFFFFF
  counted : CountedReset s 3 t

theorem floorResetRegs_hi {a : Nat} (h : 0x30010010000 ≤ a ∧ a < 0x30010020000) :
    a ∉ [FR.TR_STATUS, FR.FL_BOOT_EPOCH] ∧ a ∉ (List.range 18).map FR.FL_P_STATUS := by
  simp only [List.mem_cons, List.not_mem_nil, or_false, List.mem_map, List.mem_range, not_exists, not_and, FR.TR_STATUS,
    FR.FL_BOOT_EPOCH, FR.FL_P_STATUS]
  exact ⟨by omega, fun p hp he => by omega⟩

theorem floorReset_leaves (bs : List BringIn) (hw : FGood s.fregs) (hq : Quiet s) (hready : s.dev.ready = true)
    (hon : s.dev.mainOn = true) (hbring : s.dev.floorBring = none) (hheld : s.hs.held = []) (hlines : s.hostLines = [])
    (hleaving : ∀ e ∈ s.mem.lines, e.2.leaving = false) : FloorResetOf bs s (s.floorReset bs) := by
  have hgo : ¬ ((!s.dev.ready || !s.dev.mainOn || s.floorBusy) = true) := by
    rw [State.floorBusy, hready, hon, hbring]
    exact Bool.false_ne_true
  have hnote := noteReset_frame s 3 0
  have hcount := noteReset_count 3 0 hw (by decide) (by decide)
  have hseq := noteReset_seq s 3 0
  have hepoch : (s.noteReset 3 0).freg FR.FL_BOOT_EPOCH = s.freg FR.FL_BOOT_EPOCH :=
    (floorRegs_noteQuiet s 3 0).freg _ (by decide)
  have hgood : FGood (s.noteReset 3 0).fregs := (floorRegs_noteQuiet s 3 0).canon hw
  rw [State.floorReset, if_neg hgo]
  generalize s.noteReset 3 0 = u at hnote hcount hseq hepoch hgood
  obtain ⟨h, p, hhdm, hsr, hclear⟩ := floorClear_quiet (s := u) (by rw [hnote]; exact hq.inst)
    (by rw [hnote]; exact hq.reqs)
    (by rw [hnote]; exact hq.slot) (by rw [hnote]; exact hq.posted) (by rw [hnote]; exact hheld)
    (by rw [hnote]; exact hlines) (by rw [hnote]; exact hleaving)
  let e := floorEmptied (hsFloor { floorDisarmed { u with hs := h } with pw := p }).clearHi
  have he : FGood e.fregs := clearHi_canon (s := hsFloor { floorDisarmed { u with hs := h } with pw := p }) hgood
  have hreg (a : Nat) : e.freg a =
      if 0x30010010000 ≤ a ∧ a < 0x30010020000 then (floorResetVal a).toNat else u.freg a :=
    freg_clearHi (hsFloor { floorDisarmed { u with hs := h } with pw := p }) a
  have hm := floorRegs_floorMarked e
  have hports := floorRegs_portsCleared (ks := (List.range 18).map FR.FL_P_STATUS) 18
    (fun q hq => List.mem_map_of_mem (List.mem_range.2 hq)) (floorMarked e)
  have hfregs : u.floorClear.fregs = (portsCleared 18 (floorMarked e)).fregs := congrArg State.fregs hclear
  have hframe : u.floorClear = { e with fregs := u.floorClear.fregs } := by
    rw [hfregs]
    refine hclear.trans ((portsCleared_frame 18 (floorMarked e)).trans ?_)
    generalize (portsCleared 18 (floorMarked e)).fregs = R
    rfl
  have hfreg (a : Nat) : u.floorClear.freg a = (portsCleared 18 (floorMarked e)).freg a := by
    rw [State.freg, hfregs, State.freg]
  have htr : (e.setFreg FR.TR_STATUS 0).freg FR.FL_BOOT_EPOCH = s.freg FR.FL_BOOT_EPOCH := by
    rw [freg_setFreg_other _ _ (by decide), hreg, if_neg (by decide), hepoch]
  have hgoodTr : FGood (e.setFreg FR.TR_STATUS 0).fregs := ((FloorRegs.refl [_] e).setFreg _
    List.mem_cons_self).canon he
  have hmark : (floorMarked e).freg FR.FL_BOOT_EPOCH = (s.freg FR.FL_BOOT_EPOCH + 1) % 2 ^ 32 := by
    rw [floorMarked, freg_setFreg_self _ _ _ hgoodTr, htr]
    omega
  have hstatus : (floorMarked e).freg FR.TR_STATUS = 0 := by
    rw [floorMarked, freg_setFreg_other _ _ (by decide), freg_setFreg_self _ _ _ he, Nat.zero_mod]
  have hkept (a : Nat) (ha : a ∉ [FR.TR_STATUS, FR.FL_BOOT_EPOCH]) (hp : a ∉ (List.range 18).map FR.FL_P_STATUS) :
      u.floorClear.freg a = e.freg a := by rw [hfreg, hports.freg a hp, hm.freg a ha]
  have hhost (a : Nat) (ha : 0x30010010000 ≤ a ∧ a < 0x30010020000) : u.floorClear.freg a = (floorResetVal a).toNat :=
    (hkept a (floorResetRegs_hi ha).1 (floorResetRegs_hi ha).2).trans ((hreg a).trans (if_pos ha))
  have hcnt : u.floorClear.freg (FR.RST_KIND_CNT 3) = (s.freg (FR.RST_KIND_CNT 3) + 1) % 2 ^ 64 :=
    (hkept _ (by decide) (by decide)).trans ((hreg _).trans ((if_neg (by decide)).trans hcount))
  generalize u.floorClear = w at hframe hhost hcnt hfreg ⊢
  have hhs : w.hs = { h.sentOnly with hdm := h.hdm } := congrArg State.hs hframe
  have hs : u = { s with fregs := u.fregs, alm := u.alm } := hnote
  have hues : u.dev = s.dev ∧ u.cells = s.cells ∧ u.hs = s.hs ∧ u.fl = s.fl ∧ u.mem = s.mem ∧ u.hv = s.hv := by
    rw [hs]
    exact ⟨rfl, rfl, rfl, rfl, rfl, rfl⟩
  obtain ⟨hudev, hucells, huhs, hufl, humem, huhv⟩ := hues
  exact
    { dev := congrArg (fun d : DevState => { d with floorBring := some bs }) ((congrArg State.dev hframe).trans hudev)
      cells := (congrArg State.cells hframe).trans hucells
      link := congrArg HostState.link hhs
      hdm := (congrArg HostState.hdm hhs).trans (hhdm.trans (congrArg HostState.hdm huhs))
      qs := congrArg HostState.qs hhs
      cmds := congrArg HostState.cmds hhs
      boxes := congrArg HostState.boxes hhs
      host := hhost
      fl := (congrArg State.fl hframe).trans (congrArg (fun f : FlState => ({ wire := f.wire } : FlState)) hufl)
      ports := fun p hp => (hfreg _).trans (freg_portsCleared hp (hm.canon he))
      mem := (congrArg State.mem hframe).trans (congrArg (fun m : MemState => { m with
        tlb := [], ats := [], atsWait := [], priWait := [], priFail := [] }) humem)
      armed := (congrArg (fun t : State => t.ce.armed) hframe).trans rfl
      epoch := (hfreg _).trans ((hports.freg _ (by decide)).trans hmark)
      status := (hfreg _).trans ((hports.freg _ (by decide)).trans hstatus)
      hv := (congrArg State.hv hframe).trans (by
        show { u.hv with poisonOwed := u.hv.poisonOwed || u.hvState == 1 } = _
        rw [State.hvState, huhv, State.hvState])
      sr := (congrArg (fun t : State => t.pw.sr) hframe).trans hsr
      counted := ⟨hcnt, (congrArg (fun t : State => t.alm.seq) hframe).trans hseq⟩ }

/-- A further floor reset joins the one that is under way. -/
theorem floorReset_joins {bs : List BringIn} (h : s.dev.floorBring ≠ none) : s.floorReset bs = s := by
  obtain ⟨b, hb⟩ := Option.ne_none_iff_exists'.1 h
  rw [State.floorReset, if_pos (by rw [State.floorBusy, hb, Option.isSome_some, Bool.or_true])]

/-! ### The bring-up of a floor reset -/

/-- The end of an interval of the Vigil oscillator, before the bring-up of a floor reset. -/
def intervalEnd (s : State) (acts : List Nat) : State := (s.controlStep acts).flTime.endStage

/-- With the main domain off no floor reset begins. -/
theorem intervalEnd_off {acts : List Nat} (hoff : s.dev.mainOn = false) (hbring : s.dev.floorBring = none) :
    (intervalEnd s acts).dev.floorBring = none := by
  obtain ⟨_, _, _, _, _, hctl⟩ := controlStep_controlled s acts
  have hdev : (s.controlStep acts).dev = s.dev := by rw [hctl]
  obtain ⟨w, hw⟩ := endStage_frame (s.controlStep acts)
  rw [intervalEnd, flTime_off (by rw [hdev]; exact hoff), hw]
  exact (congrArg DevState.floorBring hdev).trans hbring

/-- Where a floor reset's bring-up begins, the sensors have left the main domain on. -/
theorem mainOn_readSensors {i : IntervalIn} (hon : s.dev.mainOn = true) {bs : List BringIn} {acts : List Nat}
    (hbring : (intervalEnd ((later s).readSensors i) acts).dev.floorBring = some bs) :
    ((later s).readSensors i).dev.mainOn = true := by
  by_cases hcool : (later s).dev.trip = true ∨ (sensed (later s) i).tripCause = none
  · rw [readSensors_cool hcool, sensed_dev]
    exact hon
  · rw [not_or, Bool.not_eq_true] at hcool
    obtain ⟨c, hc⟩ := Option.ne_none_iff_exists'.1 hcool.2
    obtain ⟨R, A, H, htrip⟩ := tripNow_frame (sensed (later s) i) c
    have hr : (later s).readSensors i = (sensed (later s) i).tripNow c := readSensors_trips hcool.1 hc
    have hnone := intervalEnd_off (s := (later s).readSensors i) (acts := acts) (by rw [hr, htrip]; rfl)
      (by rw [hr, htrip]; rfl)
    rw [hnone] at hbring
    exact absurd hbring (by simp)

theorem powerInterval_floor {i : IntervalIn} {bs : List BringIn} {w : State} (hstby : s.dev.stbyPg = true)
    (hon : s.dev.mainOn = true) (hbring : (intervalEnd ((later s).readSensors i) i.acts).dev.floorBring = some bs)
    (hstep : (intervalEnd ((later s).readSensors i) i.acts).dev.step = none)
    (hw : (intervalEnd ((later s).readSensors i) i.acts).floorSteps bs = .ready w) :
    exec (.powerInterval i) s = .next w.payPoison := by
  have hmain := mainOn_readSensors hon hbring
  rw [exec_powerInterval hstby]
  show Host.Outcome.next ((intervalEnd ((later s).readSensors i)
    (if ((later s).readSensors i).dev.mainOn then i.acts else [])).floorBringup.payPoison) = _
  rw [if_pos hmain]
  simp only [State.floorBringup, hbring, hstep, hw]

/-- Settles O50: the function-level reset (`functionReset_leaves`), RST_CELL and RST_BAND (`cellReset_awake`,
`bandReset_awake`), and the floor reset with its bring-up (`floorReset_leaves`, `powerInterval_floor`). -/
theorem partialResets : Obligations.PartialResets := by
  unfold Obligations.PartialResets
  intro s o k v h bs i w fresh one quiet hi named banded hw hquiet
  have hq : Quiet s := ⟨hquiet.1, hquiet.2.1, hquiet.2.2.1, hquiet.2.2.2⟩
  refine ⟨fun hlink hbegun hremake hjob hawake => ?function, fun ho hs hcells hne => ?cell,
    fun ho hs hcells hne hdel => ?band, fun hready hon hstby hlc hbring hheld hlines hleaving => ?floor,
    fun hbring => ⟨_, rfl, floorReset_joins hbring⟩, fun hstby hon _ hbring hstep hsteps => ?interval⟩
  case function =>
    obtain ⟨hcell, hhs, hhv, hce, hmem, hregs, hone⟩ := functionReset_leaves hw hq hbegun hremake hjob hawake
    refine ⟨s.functionReset, ?_, hcell, (congrArg HostState.link hhs).trans rfl, (congrArg HostState.hdm hhs).trans rfl,
      (congrArg HostState.held hhs).trans rfl, (congrArg HostState.qs hhs).trans rfl, (congrArg HostState.cmds
        hhs).trans rfl, (congrArg HostState.boxes hhs).trans rfl,
      hhv, hce, hmem, hregs, hone⟩
    show execFunctionLevelReset s = _
    rw [execFunctionLevelReset]
    cases hl : s.hs.link with
    | down => exact absurd hl hlink
    | pcie | cxl => rfl
  case cell =>
    have hmem (c : CellId) : c ∈ maskCells (v.toNat * 2 ^ (64 * k.val)) ↔ named c = true := by
      rw [mem_maskCells, bitB_rstCell]
    obtain ⟨c, hc⟩ := hne
    obtain ⟨u, hu, hreset⟩ := cellReset_awake (s := s) v.toNat (List.ne_nil_of_mem ((hmem c).2 hc)) fun d hd =>
      ⟨⟨(hcells d ((hmem d).1 hd)).1, hq.slot d⟩, (hcells d ((hmem d).1 hd)).2⟩
    obtain ⟨hcell, -, hm, -⟩ := note_reset_frame hreset 1 v.toNat
    refine ⟨u.noteReset 1 v.toNat, ?_, fun d => ?_, hm, note_reset_counted hreset hw v.toNat (by decide) (by decide)⟩
    · show Host.Outcome.next (s.writeReg o (FR.RST_CELL k.val) 8 v.toNat) = _
      rw [writeReg_rstCell ho, hu, goOn_still (still_reset hs hreset 1 v.toNat)]
    · rw [hcell]
      by_cases hd : named d = true
      · rw [if_pos hd, hreset.reset d ((hmem d).2 hd)]
      · rw [if_neg hd, hreset.others d fun hin => hd ((hmem d).1 hin)]
  case band =>
    have hbit (c : CellId) : bitB ((h.toNat % 2 ^ 32 &&& lowHalf) % 65536) (bandOf c).val = banded c :=
      bitB_rstBand h (bandOf c).isLt
    obtain ⟨c, hc⟩ := hne
    obtain ⟨u, hu, hreset⟩ := bandReset_awake (s := s) hdel ⟨bandOf c, (hbit c).trans hc⟩ fun d hd =>
      ⟨⟨(hcells d ((hbit d).symm.trans hd)).1, hq.slot d⟩, (hcells d ((hbit d).symm.trans hd)).2⟩
    obtain ⟨hcell, -, hm, -⟩ := note_reset_frame hreset 2 ((h.toNat % 2 ^ 32 &&& lowHalf) % 65536)
    refine ⟨_, ?_, fun d => ?_, hm, note_reset_counted hreset hw _ (by decide) (by decide)⟩
    · show Host.Outcome.next (s.writeReg o FR.RST_BAND 4 h.toNat) = _
      rw [writeReg_rstBand ho, hu, goOn_still (still_reset hs hreset 2 _)]
    · rw [hcell]
      by_cases hd : banded d = true
      · rw [if_pos hd, hreset.reset d (mem_bandsOf.2 ((hbit d).trans hd))]
      · rw [if_neg hd, hreset.others d fun hin => hd ((hbit d).symm.trans (mem_bandsOf.1 hin))]
  case floor =>
    have hfinal (u t : State) (hu : FloorResetOf bs u t) (hdev : u.dev = s.dev) (hcells : u.cells = s.cells)
        (hhdm : u.hs.hdm = s.hs.hdm) (hrest : u.fl = s.fl ∧ u.mem = s.mem ∧ u.hv = s.hv ∧ u.fregs = s.fregs ∧
          u.alm = s.alm) : FloorResetOf bs s t := by
      obtain ⟨hfl, hmem, hhv, hfregs, halm⟩ := hrest
      have hreg (a : Nat) : u.freg a = s.freg a := by rw [State.freg, hfregs, State.freg]
      have hst : u.hvState = s.hvState := by rw [State.hvState, hhv, State.hvState]
      exact { hu with
        dev := by rw [hu.dev, hdev]
        cells := hu.cells.trans hcells
        hdm := hu.hdm.trans hhdm
        fl := by rw [hu.fl, hfl]
        mem := by rw [hu.mem, hmem]
        epoch := by rw [hu.epoch, hreg]
        hv := by rw [hu.hv, hhv, hst]
        counted := ⟨by rw [hu.counted.1, hreg], by rw [hu.counted.2, halm]⟩ }
    have hleaves (t : State) (ht : FloorResetOf bs s t) : t.dev = { s.dev with floorBring := some bs } ∧
        t.floorBusy = true ∧ t.isReady = false ∧ t.cells = s.cells ∧ t.hs.link = .down ∧ t.hs.hdm = s.hs.hdm ∧
        t.hs.qs = Vector.replicate 64 {} ∧ t.hs.cmds = Vector.replicate 16 none ∧ t.hs.boxes = [] ∧
        (∀ a, hi a → t.freg a = (floorResetVal a).toNat) ∧ t.fl = { wire := s.fl.wire } ∧
        (∀ p < 18, t.freg (FR.FL_P_STATUS p) = 0) ∧
        t.mem = { s.mem with tlb := [], ats := [], atsWait := [], priWait := [], priFail := [] } ∧
        t.ce.armed = [] ∧ t.freg FR.FL_BOOT_EPOCH = (s.freg FR.FL_BOOT_EPOCH + 1) % 2 ^ 32 ∧ t.freg FR.TR_STATUS = 0 ∧
        t.hv = { s.hv with poisonOwed := s.hv.poisonOwed || s.hvState == 1 } ∧ t.pw.sr = 0xFFFFF ∧ one 3 t := by
      have hbusy : t.floorBusy = true := by rw [State.floorBusy, ht.dev]; rfl
      exact ⟨ht.dev, hbusy, by rw [State.isReady, hbusy, Bool.not_true, Bool.and_false], ht.cells, ht.link, ht.hdm,
        ht.qs, ht.cmds, ht.boxes, ht.host, ht.fl, ht.ports, ht.mem, ht.armed, ht.epoch, ht.status, ht.hv, ht.sr,
        ht.counted⟩
    simp only [List.mem_cons, List.not_mem_nil, or_false, forall_eq_or_imp, forall_eq]
    refine ⟨⟨s.floorReset bs, rfl, hleaves _ (floorReset_leaves bs hw hq hready hon hbring hheld hlines hleaving)⟩,
      (s.i3c 0).floorReset bs, ?_, hleaves _ (hfinal (s.i3c 0) _ (floorReset_leaves (s := s.i3c 0) bs hw
        ⟨hq.inst, hq.reqs, hq.slot, hq.posted⟩ hready hon hbring hheld hlines hleaving) rfl rfl rfl
        ⟨rfl, rfl, rfl, rfl, rfl⟩)⟩
    show execReset 2 bs s = _
    have hup : s.i3cUp = true := by rw [State.i3cUp, hstby, Bool.true_and, bne_iff_ne]; exact hlc
    rw [execReset, State.i3cCmd, hup]
    rfl
  case interval =>
    exact ⟨_, powerInterval_floor hstby hon hbring hstep hsteps, rfl, payPoison_none⟩

end Sys2Proof.Proofs
end
section
/-! The host's accesses to the device's memory and to lines of its own (R413 to R416), and the DOE mailbox (R433). -/

namespace Sys2Proof.Proofs
open Sys2Proof Sys2Proof.Machine Sys2Proof.Laws

variable {s : State} {hpa da la blk : Nat} {e : MemUpset}

/-! ### HDM reads -/

theorem hostWaits_room (h : s.hs.held.any (fun h => h.1 == da / 64) = true ∨ s.hs.held.length < 4194304)
    (f : State → State) : s.grantRoom (da / 64) f = f s := by
  rw [State.grantRoom, if_pos]
  rwa [Bool.or_eq_true, decide_eq_true_eq]

theorem hdmRead_goes (ha : s.hdmAddr hpa = some da) (hw : s.hostWaits (da / 256) = false)
    (hroom : s.hs.held.any (fun h => h.1 == da / 64) = true ∨ s.hs.held.length < 4194304)
    (hsr : s.absent (da / 256) = true → s.rawAsleep da = none) :
    exec (.hdmRead ⟨hpa, e⟩) s = .next ((s.memUpset e).hostLoad da) := by
  have hnone : (if s.absent (da / 256) then s.rawAsleep da else none) = none := by
    split
    · exact hsr ‹_›
    · rfl
  show execHdmRead ⟨hpa, e⟩ s = _
  simp only [execHdmRead, ha, hw, Bool.false_eq_true, if_false, hnone, hostWaits_room hroom]

/-- The host holds block b of state s, besides what it held. -/
def heldWith (s : State) (b : Nat) (x : Bool) : List (Nat × Bool) := s.hs.held.filter (fun h => h.1 != b) ++ [(b, x)]

theorem hostLoad_absent (h : s.line (da / 256) = {}) : s.hostLoad da =
    { s with hs := { s.hs with held := heldWith s (da / 64) true, reply := .data (s.hbmRead (da / 64 * 64) 64) } } := by
  rw [State.hostLoad, State.absent, h]
  rfl

/-- A read of a cached line: it is at its home, shared, and the host has its bytes. -/
theorem hostLoad_present (hi : (s.line (da / 256)).st ≠ .i) (ha : (s.line (da / 256)).st ≠ .a) :
    s.hostLoad da =
      let a := s.homeArrive (da / 256) 0 false false
      ((a.used (da / 256) { a.line (da / 256) with st := .s }).grant (da / 64)
        ((s.line (da / 256)).st == .s && (s.line (da / 256)).noHolder)).answer
        (.data ((a.line (da / 256)).read (da / 64 % 4 * 64) 64)) := by
  have habs : s.absent (da / 256) = false := by rw [State.absent, beq_eq_false_iff_ne]; exact hi
  have hnota : ((s.line (da / 256)).st == .a) = false := beq_eq_false_iff_ne.2 ha
  rw [State.hostLoad, habs, hnota]
  rfl

/-! ### HDM writes -/

/-- Byte i of the data of a write. -/
def byteOf (data : Desc) (i : Nat) : Byte := BitVec.ofNat 8 (data.toNat / 2 ^ (8 * i))

/-- The enabled bytes of a block, by place. -/
def places (be : BitVec 64) : List Nat := (List.range 64).filter (fun i => be.getLsbD i)

theorem filterMap_some_if {α β : Type} (p : α → Bool) (g : α → β) (l : List α) :
    l.filterMap (fun a => if p a then some (g a) else none) = (l.filter p).map g := by
  induction l with
  | nil => rfl
  | cons a l ih =>
    by_cases h : p a = true
    · rw [List.filter_cons_of_pos h, List.map_cons, ← ih, List.filterMap_cons]
      simp only [if_pos h]
    · rw [List.filter_cons_of_neg h, ← ih, List.filterMap_cons]
      simp only [if_neg h]

theorem enabled_eq (data : Desc) (be : BitVec 64) :
    enabled data be false = (places be).map (fun i => (i, (byteOf data i, false))) :=
  filterMap_some_if _ _ _

/-- The byte of HBM at an address. -/
def hbmByte (s : State) (a : Nat) : Byte := SMap.get s.mem.hbmDef s.mem.hbm a

theorem plain_hbmRead_one (s : State) (a : Nat) : plain (s.hbmRead a 1) = [hbmByte s a] := by
  rw [State.hbmRead, plain_withPoison, getRange_eq_map]
  rfl

/-- Memory t is s with the bytes of a block at some places set to f. -/
structure BlockSet (base : Nat) (is : List Nat) (f : Nat → Byte) (s t : State) : Prop where
  byte : ∀ a, hbmByte t a = if base ≤ a ∧ a - base ∈ is then f (a - base) else hbmByte s a
  canon : SMap.wf t.mem.hbmDef t.mem.hbm = true
  frame : t = { s with mem := t.mem }
  lines : t.mem.lines = s.mem.lines
  posted : t.mem.posted = s.mem.posted

theorem hbmWrite_mem (s : State) (pa : Nat) (bs : List PByte) :
    (s.hbmWrite pa bs).mem.hbmDef = s.mem.hbmDef ∧
      (s.hbmWrite pa bs).mem.hbm = SMap.setRange s.mem.hbmDef s.mem.hbm pa (plain bs) := ⟨rfl, rfl⟩

theorem hbmByte_hbmWrite (hw : SMap.wf s.mem.hbmDef s.mem.hbm = true) (pa : Nat) (bs : List PByte) (a : Nat) :
    hbmByte (s.hbmWrite pa bs) a =
      if pa ≤ a ∧ a < pa + bs.length then (plain bs).getD (a - pa) 0 else hbmByte s a := by
  obtain ⟨hdef, hbm⟩ := hbmWrite_mem s pa bs
  rw [hbmByte, hdef, hbm, smap_get_setRange _ 0 _ _ _ _ hw, show (plain bs).length = bs.length from List.length_map ..]
  rfl

theorem blockSet_nil (base : Nat) (f : Nat → Byte) (hw : SMap.wf s.mem.hbmDef s.mem.hbm = true) :
    BlockSet base [] f s s :=
  ⟨fun a => by simp, hw, rfl, rfl, rfl⟩

theorem blockSet_one {base i : Nat} {f : Nat → Byte} (hw : SMap.wf s.mem.hbmDef s.mem.hbm = true) :
    BlockSet base [i] f s (s.hbmWrite (base + i) [(f i, false)]) := by
  obtain ⟨hdef, hbm⟩ := hbmWrite_mem s (base + i) [(f i, false)]
  refine ⟨fun a => ?_, by rw [hdef, hbm]; exact smap_wf_setRange _ _ _ _ hw, rfl, rfl, rfl⟩
  rw [hbmByte_hbmWrite hw]
  by_cases ha : a = base + i
  · subst ha
    rw [if_pos ⟨Nat.le_refl _, by simp⟩, if_pos ⟨by omega, by simp⟩, Nat.add_sub_cancel_left, Nat.sub_self]
    rfl
  · rw [if_neg (by simp only [List.length_singleton]; omega), if_neg (by rw [List.mem_singleton]; omega)]

theorem BlockSet.append {base : Nat} {is js : List Nat} {f : Nat → Byte} {t u : State} (h : BlockSet base is f s t)
    (g : BlockSet base js f t u) : BlockSet base (is ++ js) f s u := by
  refine ⟨fun a => ?_, g.canon, by rw [g.frame, h.frame], g.lines.trans h.lines, g.posted.trans h.posted⟩
  rw [g.byte, h.byte]
  by_cases hj : base ≤ a ∧ a - base ∈ js
  · rw [if_pos hj, if_pos ⟨hj.1, List.mem_append_right _ hj.2⟩]
  · rw [if_neg hj]
    by_cases hi : base ≤ a ∧ a - base ∈ is
    · rw [if_pos hi, if_pos ⟨hi.1, List.mem_append_left _ hi.2⟩]
    · rw [if_neg hi, if_neg]
      rw [List.mem_append]
      tauto

theorem blockSet_bytes (base : Nat) (f : Nat → Byte) (is : List Nat) (hw : SMap.wf s.mem.hbmDef s.mem.hbm = true) :
    BlockSet base is f s ((is.map (fun i => (i, (f i, false)))).foldl
      (fun s (b : Nat × PByte) => s.hbmWrite (base + b.1) [b.2]) s) := by
  induction is generalizing s with
  | nil => exact blockSet_nil base f hw
  | cons i is ih =>
    have hone := blockSet_one (base := base) (i := i) (f := f) hw
    exact hone.append (ih hone.canon)

/-- A whole block at once. -/
theorem blockSet_whole (base : Nat) (f : Nat → Byte) (hw : SMap.wf s.mem.hbmDef s.mem.hbm = true) :
    BlockSet base (List.range 64) f s (s.hbmWrite base ((List.range 64).map (fun i => (f i, false)))) := by
  obtain ⟨hdef, hbm⟩ := hbmWrite_mem s base ((List.range 64).map (fun i => (f i, false)))
  refine ⟨fun a => ?_, by rw [hdef, hbm]; exact smap_wf_setRange _ _ _ _ hw, rfl, rfl, rfl⟩
  rw [hbmByte_hbmWrite hw, List.length_map, List.length_range]
  by_cases ha : base ≤ a ∧ a < base + 64
  · have hlt : a - base < 64 := by omega
    rw [if_pos ha, if_pos ⟨ha.1, List.mem_range.2 hlt⟩, plain, List.map_map, List.getD_eq_getElem?_getD,
      List.getElem?_map, List.getElem?_range hlt]
    rfl
  · rw [if_neg ha, if_neg (by rw [List.mem_range]; omega)]

/-- The enabled bytes of a block stored, at once or one by one. -/
theorem blockSet_storeBlock (blk : Nat) (data : Desc) (be : BitVec 64) (hw : SMap.wf s.mem.hbmDef s.mem.hbm = true) :
    BlockSet (blk * 64) (places be) (byteOf data) s (s.storeBlock blk (enabled data be false)) := by
  rw [State.storeBlock, enabled_eq, List.length_map]
  split
  next hall =>
    have hplaces : places be = List.range 64 := List.filter_eq_self.2
      (List.length_filter_eq_length_iff.1 (hall.trans List.length_range.symm))
    rw [hplaces, List.map_map]
    exact blockSet_whole (blk * 64) (byteOf data) hw
  next => exact blockSet_bytes (blk * 64) (byteOf data) (places be) hw

theorem flushPosted_none (h : s.mem.posted = []) : s.flushPosted = s := by
  simp only [State.flushPosted, h, List.foldl_nil]
  rw [← h]

theorem hdmWrite_goes {data : Desc} {be : BitVec 64} (ha : s.hdmAddr hpa = some da)
    (hw : s.hostWaits (da / 256) = false) (hjob : (s.memUpset e).rx.job = none)
    (hl : (s.memUpset e).line (da / 256) = {}) (hsr : s.rawAsleep da = none) (hposted : (s.memUpset e).mem.posted = [])
    (hcanon : SMap.wf (s.memUpset e).mem.hbmDef (s.memUpset e).mem.hbm = true) :
    ∃ u, BlockSet (da / 64 * 64) (places be) (byteOf data) (s.memUpset e) u ∧
      exec (.hdmWrite ⟨hpa, e⟩ data be false none) s = .next { u with
        hs := { u.hs with held := u.hs.held.filter (fun h => h.1 != da / 64) } } := by
  have hset := blockSet_storeBlock (da / 64) data be hcanon
  refine ⟨_, hset, ?_⟩
  have hnone : (if s.absent (da / 256) then s.rawAsleep da else none) = none := by
    rw [hsr]
    split <;> rfl
  have habs : (s.memUpset e).absent (da / 256) = true := by rw [State.absent, hl]; rfl
  have hstore : (s.memUpset e).hostStore da data be false none =
      State.flushPosted { (s.memUpset e).storeBlock (da / 64) (enabled data be false) with
        hs := { ((s.memUpset e).storeBlock (da / 64) (enabled data be false)).hs with
          held := ((s.memUpset e).storeBlock (da / 64) (enabled data be false)).hs.held.filter
            (fun h => h.1 != da / 64) } } := by
    simp only [State.hostStore, habs, if_true]
  show execHdmWrite ⟨hpa, e⟩ data be false none s = _
  simp only [execHdmWrite, ha, hw, Bool.false_eq_true, if_false, hnone, hstore]
  generalize (s.memUpset e).storeBlock (da / 64) (enabled data be false) = u at hset
  have hjob' : u.rx.job = none := (congrArg (fun t : State => t.rx.job) hset.frame).trans hjob
  rw [flushPosted_none (s := { u with hs := { u.hs with held := u.hs.held.filter (fun h => h.1 != da / 64) } })
    (hset.posted.trans hposted), State.captureWrite,
    capture_idle (u := { u with hs := { u.hs with held := u.hs.held.filter (fun h => h.1 != da / 64) } }) hjob']

end Sys2Proof.Proofs
end

section
/-! The host's answers and snoops (R415, R416), and the settling of O48. -/

namespace Sys2Proof.Proofs
open Sys2Proof Sys2Proof.Machine Sys2Proof.Laws

variable {s : State} {la blk : Nat}

/-! ### Answers to back-invalidates -/

/-- A list whose first entry is the only one for its block. -/
theorem filter_others {l : List (Nat × Bool)} (h : l.any (fun m => m.1 == blk) = false) :
    l.filter (fun m => m.1 != blk) = l := by
  rw [List.any_eq_false] at h
  exact List.filter_eq_self.2 fun m hm => by simpa using h m hm

/-- The host's blocks once it has given one back, or kept it shared. -/
def givenBack (s : State) (blk : Nat) (inv : Bool) : List (Nat × Bool) :=
  if inv then s.hs.held.filter (fun h => h.1 != blk) else s.hs.held.map (fun h => if h.1 = blk then (h.1, false) else h)

/-- The state whose call for a block has been answered. -/
def answered (s : State) (blk : Nat) (inv : Bool) (rest : List (Nat × Bool)) : State :=
  { s with hs := { s.hs with held := givenBack s blk inv, snooped := rest } }

theorem lineLeft_stays {la : Nat} (h : (s.line la).leaving = false) : s.lineLeft la = s := by
  rw [State.lineLeft, h, Bool.not_false, if_pos rfl]

theorem bisnpResponse_clean {inv : Bool} {rest : List (Nat × Bool)} (hsn : s.hs.snooped = (blk, inv) :: rest)
    (hrest : rest.any (fun m => m.1 == blk) = false) (hs : Still s) (hl : (s.line (blk / 4)).leaving = false) :
    exec (.bisnpResponse blk none) s = .next (answered s blk inv rest) := by
  have hfind : s.hs.snooped.find? (fun n => n.1 == blk) = some (blk, inv) := by
    rw [hsn]
    exact List.find?_cons_of_pos (p := fun n : Nat × Bool => n.1 == blk) (beq_self_eq_true blk)
  have hfilter : s.hs.snooped.filter (fun m => m.1 != blk) = rest := by
    rw [hsn, List.filter_cons_of_neg (by simp), filter_others hrest]
  have hstill : Still (answered s blk inv rest) := still_memory hs rfl rfl rfl
  show execBisnpResponse blk none s = _
  simp only [execBisnpResponse, hfind, hfilter, Option.isSome_none, Bool.false_and, Bool.false_eq_true, if_false]
  show Host.Outcome.next (((answered s blk inv rest).lineLeft (blk / 4)).flushPosted.goOn) = _
  rw [lineLeft_stays (s := answered s blk inv rest) hl, flushPosted_none hstill.settled, goOn_still hstill]

/-- A piece within one line. -/
theorem linesOf_one {a n : Nat} (hn : 0 < n) (hin : a % 256 + n ≤ 256) : linesOf a n = [(a / 256, a % 256, n)] := by
  have hmin : min n (256 - a % 256) = n := Nat.min_eq_left (by omega)
  rw [linesOf, linePieces, if_neg (by omega)]
  simp only [hmin, Nat.sub_self]
  rw [linePieces, if_pos rfl]

/-- Bytes put where no cache holds the line. -/
theorem putNow_absent {pa : Nat} {bs : List PByte} (hbs : 0 < bs.length) (hin : pa % 256 + bs.length ≤ 256)
    (habs : s.absent (pa / 256) = true) : s.putNow pa bs = s.rawWrite pa bs := by
  have hpa : pa / 256 * 256 + pa % 256 = pa := by omega
  simp only [State.putNow, linesOf_one hbs hin, List.foldl_cons, List.foldl_nil, habs, if_true, List.drop_zero,
    List.take_length, hpa]

theorem bisnpResponse_dirty {inv : Bool} {rest : List (Nat × Bool)} {data : Desc} (hsn : s.hs.snooped = (blk, inv)
    :: rest)
    (hrest : rest.any (fun m => m.1 == blk) = false) (hs : Still s) (hl : (s.line (blk / 4)).leaving = false)
    (habs : s.absent (blk / 4) = true) (hin : blk * 64 + 64 ≤ hbmTop) (hsr : s.rawAsleep (blk / 4 * 256) = none)
    (hjob : s.rx.job = none) :
    exec (.bisnpResponse blk (some (data, false))) s = .next ((answered s blk inv rest).hbmWrite (blk * 64)
      ((leBytes 64 data.toNat).map (fun b => (b, false)))) := by
  have hfind : s.hs.snooped.find? (fun n => n.1 == blk) = some (blk, inv) := by
    rw [hsn]
    exact List.find?_cons_of_pos (p := fun n : Nat × Bool => n.1 == blk) (beq_self_eq_true blk)
  have hfilter : s.hs.snooped.filter (fun m => m.1 != blk) = rest := by
    rw [hsn, List.filter_cons_of_neg (by simp), filter_others hrest]
  have hres : (s.line (blk / 4)).resident = false := by
    rw [Line.resident, show (s.line (blk / 4)).st = .i by simpa [State.absent] using habs]
    rfl
  have hdiv : blk * 64 / 256 = blk / 4 := by omega
  let t := answered s blk inv rest
  have hput : t.putNow (blk * 64) ((leBytes 64 data.toNat).map (fun b => (b, false))) =
      t.hbmWrite (blk * 64) ((leBytes 64 data.toNat).map (fun b => (b, false))) := by
    rw [putNow_absent (by rw [List.length_map, length_leBytes]; decide)
      (by rw [List.length_map, length_leBytes]; omega) (by rw [hdiv]; exact habs), State.rawWrite,
      region_hbm (by simp only [hbmTop] at hin ⊢; omega)]
  have hstill : Still (t.hbmWrite (blk * 64) ((leBytes 64 data.toNat).map (fun b => (b, false)))) :=
    still_memory hs rfl rfl rfl
  show execBisnpResponse blk (some (data, false)) s = _
  simp only [execBisnpResponse, hfind, hfilter, Option.isSome_some, Bool.true_and, hres, habs, hsr, Bool.false_and,
    Bool.false_eq_true, if_false, if_true]
  show Host.Outcome.next ((((t.putNow (blk * 64) ((leBytes 64 data.toNat).map (fun b => (b, false)))).captureWrite
    blk data (BitVec.ofNat 64 (2 ^ 64 - 1))).lineLeft (blk / 4)).flushPosted.goOn) = _
  rw [hput]
  generalize hw : t.hbmWrite (blk * 64) ((leBytes 64 data.toNat).map (fun b => (b, false))) = u at hstill
  have hujob : u.rx.job = none := by rw [← hw]; exact hjob
  have huline : (u.line (blk / 4)).leaving = false := by rw [← hw]; exact hl
  rw [State.captureWrite, capture_idle hujob, lineLeft_stays huline, flushPosted_none hstill.settled, goOn_still hstill]

/-! ### Lines in canonical form -/

/-- The lines of a state are listed in canonical form. -/
def LinesGood (s : State) : Prop := SMap.wf (fun _ => ({} : Line)) s.mem.lines = true

theorem linesGood_of_eq {t : State} (h : LinesGood s) (he : t.mem.lines = s.mem.lines) : LinesGood t := by
  rw [LinesGood, he]
  exact h

theorem linesGood_setLine (h : LinesGood s) (la : Nat) (l : Line) : LinesGood (s.setLine la l) :=
  smap_wf_set _ _ _ _ h

theorem lines_rawWrite (s : State) (pa : Nat) (bs : List PByte) : (s.rawWrite pa bs).mem.lines = s.mem.lines := by
  rw [State.rawWrite]
  split <;> rfl

theorem linesGood_dropLine (h : LinesGood s) (la : Nat) : LinesGood (s.dropLine la) := by
  unfold State.dropLine
  extract_lets l s1
  refine linesGood_setLine ?_ _ _
  simp only [s1]
  split
  · exact linesGood_of_eq h (lines_rawWrite _ _ _)
  · exact h

theorem linesGood_evictHome (h : LinesGood s) (la : Nat) : LinesGood (s.evictHome la) := by
  have hr : LinesGood (s.recall la true) := linesGood_of_eq h (by rw [recall_frame])
  unfold State.evictHome
  dsimp only
  split
  · exact linesGood_setLine hr _ _
  · exact linesGood_dropLine hr _

theorem linesGood_roomFor {fuel σ len : Nat} {n : CellId} {las : List Nat} {own : Option (Nat × Nat × Nat)}
    (h : LinesGood s) : LinesGood (State.roomFor fuel n σ las own len s).1 := by
  induction fuel generalizing n σ las own len s with
  | zero => exact h
  | succ fuel ih =>
    unfold State.roomFor
    dsimp only
    split
    · exact h
    · split
      · exact h
      next v _ =>
        by_cases hn : v.near = true
        · by_cases hm : ((s.line v.la).st == .m) = true
          · rw [if_pos hn, if_pos hm]
            exact ih (linesGood_setLine (ih h) _ _)
          · rw [if_pos hn, if_neg hm]
            exact ih (linesGood_setLine h _ _)
        · rw [if_neg hn]
          exact ih (linesGood_evictHome h _)

theorem linesGood_bringHome (h : LinesGood s) (la : Nat) : LinesGood (s.bringHome la) := by
  unfold State.bringHome
  dsimp only
  split
  · exact linesGood_setLine (linesGood_of_eq (linesGood_roomFor h) rfl) _ _
  · exact h

/-! ### Snoops of host memory -/

theorem gone_congr {l m : Line} {g w k u : _} (h : m =
    { l with st := .s, scheme := g, way := w, slot := k, lru := u }) :
    m.gone = l.gone := by rw [h]; rfl

/-- The line that a snoop takes is gone. -/
theorem line_dropLine (h : LinesGood s) (la : Nat) : (s.dropLine la).line la = (s.line la).gone := by
  unfold State.dropLine
  extract_lets l s1
  refine line_setLine_self _ _ _ (.inr ?_)
  simp only [s1]
  split
  · exact linesGood_of_eq h (lines_rawWrite _ _ _)
  · exact h

theorem rawWrite_frame (s : State) (pa : Nat) (bs : List PByte) :
    s.rawWrite pa bs = { s with mem := (s.rawWrite pa bs).mem } := by
  unfold State.rawWrite
  split <;> rfl

theorem dropLine_hs (s : State) (la : Nat) : (s.dropLine la).hs = s.hs := by
  unfold State.dropLine
  extract_lets l s1
  show s1.hs = s.hs
  simp only [s1]
  split
  · rw [rawWrite_frame]
  · rfl

/-- A snoop of a line that the device holds (R416), up to what becomes of the line. -/
theorem hostSnoop_goes (hm : s.dev.mainOn = true) (hup : s.cxlUp = true)
    (hla : la = (hostBase + blk * 64) / 256) (hi : (s.line la).st ≠ .i) (ha : (s.line la).st ≠ .a)
    (hheld : (s.line la).held = []) (hw : s.hostWaits la = false) (inv : Bool) :
    exec (.hostSnoop blk inv) s =
      let a := s.bringHome la
      let b := (a.answer (.data ((a.line la).read (blk % 4 * 64) 64))).homePath la
      if inv then .next (b.dropLine la)
      else .next ((if (a.line la).dirty then b.rawWrite (la * 256) ((a.line la).read 0 256) else b).setLine la
        { a.line la with dirty := false, st := if (a.line la).st == .m then .s else (a.line la).st }) := by
  have habs : s.absent la = false := by rw [State.absent, beq_eq_false_iff_ne]; exact hi
  have hmain : s.mainOn = true := hm
  show execHostSnoop blk inv s = _
  rw [execHostSnoop, ← hla, hm, hup, habs, hw, drain_still ha hheld]
  rfl

/-- A line that no cell holds modified is at its home already. -/
theorem hostSnoop_home (hm : s.dev.mainOn = true) (hup : s.cxlUp = true)
    (hla : la = (hostBase + blk * 64) / 256) (hi : (s.line la).st ≠ .i) (ha : (s.line la).st ≠ .a)
    (hnm : (s.line la).st ≠ .m) (hheld : (s.line la).held = []) (hw : s.hostWaits la = false) (inv : Bool) :
    ∃ b, Counted (s.answer (.data ((s.line la).read (blk % 4 * 64) 64))) b ∧ exec (.hostSnoop blk inv) s = .next
      (if inv then b.dropLine la
       else (if (s.line la).dirty then b.rawWrite (la * 256) ((s.line la).read 0 256) else b).setLine la
        { s.line la with dirty := false }) := by
  let v := s.answer (.data ((s.line la).read (blk % 4 * 64) 64))
  refine ⟨v.homePath la, counted_viaPath v (homeSlice (la * 256)) (v.line la).way, ?_⟩
  have hst : ((s.line la).st == .m) = false := beq_eq_false_iff_ne.2 hnm
  rw [hostSnoop_goes hm hup hla hi ha hheld hw, bringHome_home hnm]
  simp only [hst, Bool.false_eq_true, if_false]
  cases inv <;> rfl

/-- What a snoop leaves of the line, and the bytes that it returns. -/
theorem hostSnoop_line (hl : LinesGood s) (hm : s.dev.mainOn = true) (hup : s.cxlUp = true)
    (hla : la = (hostBase + blk * 64) / 256) (hi : (s.line la).st ≠ .i) (ha : (s.line la).st ≠ .a)
    (hheld : (s.line la).held = []) (hw : s.hostWaits la = false) (inv : Bool) :
    ∃ t, exec (.hostSnoop blk inv) s = .next t ∧ t.hs.reply = .data ((s.line la).read (blk % 4 * 64) 64) ∧
      (inv = true → t.line la = (s.line la).gone) ∧
      (inv = false → (t.line la).st = (if (s.line la).st = .m then .s else (s.line la).st) ∧ (t.line la).dirty = false ∧
        (t.line la).data = (s.line la).data) := by
  let a := s.bringHome la
  let b := (a.answer (.data ((a.line la).read (blk % 4 * 64) 64))).homePath la
  have hb : Counted (a.answer (.data ((a.line la).read (blk % 4 * 64) 64))) b := counted_viaPath _ _ _
  have hstored : StoredAs { s.line la with st := if (s.line la).st = .m then .s else (s.line la).st } (a.line la) := by
    by_cases hmod : (s.line la).st = .m
    · rw [if_pos hmod]
      simp only [a, bringHome_modified hmod]
      exact (moves_place s la { s.line la with st := .s } nofun).line
    · rw [if_neg hmod]
      simp only [a, bringHome_home hmod]
      exact ⟨_, _, _, _, rfl⟩
  obtain ⟨g, w, k, u, hline⟩ := hstored
  have hread : (a.line la).read (blk % 4 * 64) 64 = (s.line la).read (blk % 4 * 64) 64 :=
    Line.read_congr (by rw [hline]) (by rw [hline]) _ _
  have hbline : b.line la = a.line la := hb.line la
  have hreply : b.hs.reply = .data ((s.line la).read (blk % 4 * 64) 64) := by
    rw [hb, ← hread]
    rfl
  have hbgood : LinesGood b := linesGood_of_eq (linesGood_bringHome hl la) (congrArg MemState.lines hb.mem)
  have hgo := hostSnoop_goes hm hup hla hi ha hheld hw inv
  refine ⟨_, hgo.trans (apply_ite Host.Outcome.next (inv = true) _ _).symm, ?_, fun hinv => ?_, fun hinv => ?_⟩
  · cases inv with
    | true =>
      refine Eq.trans ?_ hreply
      show (b.dropLine la).hs.reply = _
      rw [dropLine_hs]
    | false =>
      refine Eq.trans ?_ hreply
      show (if (a.line la).dirty = true then b.rawWrite (la * 256) ((a.line la).read 0 256) else b).hs.reply = _
      split
      · rw [rawWrite_frame]
      · rfl
  · rw [if_pos hinv]
    show (b.dropLine la).line la = _
    rw [line_dropLine hbgood, hbline, hline]
    rfl
  · rw [if_neg (by rw [hinv]; exact Bool.false_ne_true)]
    have hsa : (a.line la).st = if (s.line la).st = .m then .s else (s.line la).st := by rw [hline]
    have hsam : (a.line la).st ≠ .m ∧ (a.line la).st ≠ .i := by
      rw [hsa]
      split
      · exact ⟨nofun, nofun⟩
      next hnm => exact ⟨hnm, hi⟩
    have hkeep : (if (a.line la).st == .m then LState.s else (a.line la).st) = (a.line la).st :=
      if_neg (by rw [beq_iff_eq]; exact hsam.1)
    rw [hkeep, line_setLine_self _ _ _ (.inl (ne_absent (l := { a.line la with dirty := false }) hsam.2))]
    exact ⟨hsa, rfl, by rw [hline]⟩

end Sys2Proof.Proofs
end

section
/-! The settling of O48. -/

namespace Sys2Proof.Proofs
open Sys2Proof Sys2Proof.Machine Sys2Proof.Laws

variable {s : State} {hpa da : Nat} {e : MemUpset}

/-- A host read of a cached line (R222, R415). -/
theorem hdmRead_cached (ha : s.hdmAddr hpa = some da) (hw : s.hostWaits (da / 256) = false)
    (hroom : s.hs.held.any (fun h => h.1 == da / 64) = true ∨ s.hs.held.length < 4194304)
    (habs : s.absent (da / 256) = false) {y : State} (hy : y = s.memUpset e) (hi : (y.line (da / 256)).st ≠ .i)
    (hna : (y.line (da / 256)).st ≠ .a) (hheld : (y.line (da / 256)).held = []) :
    ∃ a, Moves (da / 256) (StoredAs { y.line (da / 256) with
        st := if (y.line (da / 256)).st = .m then .s else (y.line (da / 256)).st }) y a ∧
      ((y.line (da / 256)).st ≠ .m → Counted y a) ∧
      exec (.hdmRead ⟨hpa, e⟩) s = .next (((a.used (da / 256) { a.line (da / 256) with st := .s }).grant (da / 64)
        ((y.line (da / 256)).st == .s && (y.line (da / 256)).noHolder)).answer
          (.data ((y.line (da / 256)).read (da / 64 % 4 * 64) 64))) := by
  have hmoves := arrived_homeArrive (cls := 0) (tck := false) (whole := false) hi hna hheld
  refine ⟨_, hmoves, fun hm => counted_homeArrive hi hna hm hheld, ?_⟩
  rw [hdmRead_goes ha hw hroom (fun h => absurd (habs.symm.trans h) Bool.false_ne_true), ← hy,
    hostLoad_present hi hna]
  obtain ⟨g, w, k, u, hl⟩ := hmoves.line
  have hread : ((y.homeArrive (da / 256) 0 false false).line (da / 256)).read (da / 64 % 4 * 64) 64 =
      (y.line (da / 256)).read (da / 64 % 4 * 64) 64 := Line.read_congr (by rw [hl]) (by rw [hl]) _ _
  dsimp only
  rw [hread]

/-- A clean line that is dropped writes nothing back. -/
theorem dropLine_clean {la : Nat} (h : (s.line la).dirty = false) : s.dropLine la = s.setLine la (s.line la).gone := by
  simp only [State.dropLine, h, Bool.false_eq_true, if_false]

theorem mem_places {be : BitVec 64} {i : Nat} (h : i < 64) : i ∈ places be ↔ be.getLsbD i = true := by
  simp only [places, List.mem_filter, List.mem_range, h, true_and]

theorem lt_of_mem_places {be : BitVec 64} {i : Nat} (h : i ∈ places be) : i < 64 :=
  List.mem_range.1 (List.mem_filter.1 h).1

/-- Settles O48: HDM reads (`hostLoad_absent`, `hdmRead_cached`) and writes (`hdmWrite_goes`), the answers to
back-invalidates (`bisnpResponse_clean`, `bisnpResponse_dirty`), and snoops (`hostSnoop_line`, `hostSnoop_home`). -/
theorem hostAccesses : Obligations.HostAccesses := by
  unfold Obligations.HostAccesses
  intro s hpa da data be blk r e y la l b room held
  refine ⟨fun ha hw hroom => ⟨fun hl hsr => ?uncached, fun habs hi hna hheld _ => ?cached⟩,
    fun ha hw hjob hl hsr hposted hcanon => ?write, fun inv rest hsn hrest hs hleaving hposted => ⟨?clean, ?dirty⟩,
    fun hm hup hi hna hheld hw hlines inv => ?snoop, fun hlink => ⟨?discovery, ?cdat⟩⟩
  case uncached =>
    refine ⟨_, (hdmRead_goes ha hw hroom fun _ => hsr).trans ?_, rfl⟩
    exact congrArg Host.Outcome.next (hostLoad_absent hl)
  case cached =>
    obtain ⟨a, hmoves, hcounted, hgo⟩ := hdmRead_cached (e := e) ha hw hroom habs rfl hi hna hheld
    obtain ⟨g, w, k, u, hline⟩ := hmoves.line
    have hused := line_used a la { a.line la with st := .s } nofun
    refine ⟨_, hgo, rfl, congrArg Line.st hused, (congrArg Line.data hused).trans (by rw [hline]),
      (congrArg Line.holders hused).trans (by rw [hline]), fun hm => ?_⟩
    have hc := hcounted hm
    have hal : a.line la = l := hc.line la
    refine ⟨?_, hused.trans (by rw [hal, hc.mem]), fun x hx => (line_used_other a _ hx).trans (hc.line x), ?_⟩
    · obtain ⟨F, rfl⟩ : ∃ F, a = { y with fregs := F } := ⟨_, hc⟩
      rfl
    · obtain ⟨F, rfl⟩ : ∃ F, a = { y with fregs := F } := ⟨_, hc⟩
      rfl
  case write =>
    have hwf := hcanon
    simp only [Memory.wf, Bool.and_eq_true] at hwf
    obtain ⟨u, hset, hgo⟩ := hdmWrite_goes (data := data) (be := be) ha hw hjob hl hsr hposted hwf.1.1.1
    refine ⟨_, hgo, ?_, fun i hi => ?_, fun x hx => ?_, hset.lines⟩
    · rw [hset.frame]
    · show plain (u.hbmRead (b * 64 + i) 1) = _
      rw [plain_hbmRead_one, plain_hbmRead_one, hset.byte, Nat.add_sub_cancel_left]
      by_cases hb : be.getLsbD i = true
      · rw [if_pos ⟨Nat.le_add_right _ _, (mem_places hi).2 hb⟩, if_pos hb]
        rfl
      · rw [if_neg fun h => hb ((mem_places hi).1 h.2), if_neg hb]
    · show plain (u.hbmRead x 1) = _
      rw [plain_hbmRead_one, plain_hbmRead_one, hset.byte, if_neg]
      rintro ⟨hle, hin⟩
      have := lt_of_mem_places hin
      omega
  case clean => exact ⟨_, bisnpResponse_clean hsn hrest hs hleaving, rfl⟩
  case dirty =>
    intro habs hin hcanon hsr hjob
    simp only [Memory.wf, Bool.and_eq_true] at hcanon
    refine ⟨_, bisnpResponse_dirty hsn hrest hs hleaving habs hin hsr hjob, ?_, rfl⟩
    have hread := hbmRead_hbmWrite (answered s blk inv rest) (blk * 64)
      ((leBytes 64 data.toNat).map (fun b => (b, false))) hcanon.1.1.1
    rw [List.length_map, length_leBytes] at hread
    refine hread.trans ?_
    rw [plain, List.map_map]
    exact List.map_id _
  case snoop =>
    obtain ⟨t, hgo, hreply, hgone, hkept⟩ := hostSnoop_line hlines hm hup rfl hi hna hheld hw inv
    refine ⟨t, hgo, hreply, hgone, hkept, fun hnm hclean => ?_⟩
    obtain ⟨v, hv, hgo'⟩ := hostSnoop_home hm hup rfl hi hna hnm hheld hw inv
    have hvline (x : Nat) : v.line x = s.line x := hv.line x
    have hvgood : LinesGood v := linesGood_of_eq hlines (congrArg MemState.lines hv.mem)
    have hframe (m : Line) : v.setLine ((hostBase + blk * 64) / 256) m = { s with
        mem := { s.mem with lines := (v.setLine ((hostBase + blk * 64) / 256) m).mem.lines }
        fregs := v.fregs
        hs := { s.hs with reply := .data ((s.line ((hostBase + blk * 64) / 256)).read (blk % 4 * 64) 64) } } := by
      obtain ⟨F, rfl⟩ : ∃ F, v = { s.answer (.data ((s.line ((hostBase + blk * 64) / 256)).read (blk % 4 * 64) 64)) with
        fregs := F } := ⟨_, hv⟩
      rfl
    rw [Host.Outcome.next.inj (hgo.symm.trans hgo')]
    cases inv with
    | true =>
      rw [if_pos rfl, dropLine_clean (s := v) (by rw [hvline]; exact hclean)]
      exact ⟨hframe _, nofun, fun x hx => (line_setLine_other v _ hx).trans (hvline x)⟩
    | false =>
      rw [if_neg Bool.false_ne_true, hclean, if_neg Bool.false_ne_true]
      refine ⟨hframe _, fun _ => ?_, fun x hx => (line_setLine_other v _ hx).trans (hvline x)⟩
      rw [line_setLine_self v _ _ (.inr hvgood)]
      generalize s.line ((hostBase + blk * 64) / 256) = h at hclean
      cases h
      cases hclean
      rfl
  case discovery =>
    rintro i rfl
    refine ⟨_, ?_, rfl⟩
    show execDoeRequest (.discovery i) s = _
    rw [execDoeRequest]
    cases hl : s.hs.link with
    | down => exact absurd hl hlink
    | pcie | cxl => rfl
  case cdat =>
    rintro rfl
    refine ⟨_, ?_, rfl⟩
    show execDoeRequest .cdat s = _
    rw [execDoeRequest]
    cases hl : s.hs.link with
    | down => exact absurd hl hlink
    | pcie | cxl => rfl

end Sys2Proof.Proofs
end
section
/-! Requests of cells to the Harvest units, update groups, and the decision of a step (R208, R328, R334, R336, R337, R342). -/

namespace Sys2Proof.Proofs
open Sys2Proof Sys2Proof.Machine Sys2Proof.Laws

/-! ### The units -/

/-- With no request open there is none to complete. -/
theorem hvComplete_none {s : State} (h : s.hv.subs = []) : s.hvComplete = s := by
  unfold State.hvComplete
  rw [h]
  show { s with hv := { s.hv with subs := [] } } = s
  rw [← h]

/-- A request stays open as long as its layer's update has not ended (R342). -/
theorem hvComplete_open {s : State} {b : HvSub} {d : Delivered} (h : s.hv.subs = [b])
    (hd : s.deliveryOf b.layer = some d) (hu : s.layerSettled d = false) : s.hvComplete = s := by
  unfold State.hvComplete
  rw [h]
  simp only [List.filter_cons, List.filter_nil, hd, hu, Bool.not_false, Bool.false_eq_true, if_true, if_false,
    List.foldl_nil]
  rw [← h]

theorem open_hvState {s : State} (hd : s.hv.delivered ≠ []) (hq : s.hv.decision = none) (hc : s.hv.carried = false) :
    s.hvState = 1 := by
  have he : s.hv.delivered.isEmpty = false := by simpa using hd
  simp only [State.hvState, hc, hq, he, Bool.false_eq_true, if_false]

/-! ### Requests of cells (R342, R343) -/

section
variable {c : CellId} {s s1 : State} {f : SForm} {x : LForm} {u : Upset} {l : Nat} {w : Delivered}

/-- A Harvest submit. -/
def hvIns (f : SForm) (x : LForm) (u : Upset) : Ins := { op := .hvsub, f, x, u }

theorem hvIns_f (f : SForm) (x : LForm) (u : Upset) : (hvIns f x u).f = f := rfl
theorem hvIns_x (f : SForm) (x : LForm) (u : Upset) : (hvIns f x u).x = x := rfl

theorem plain_hvsub : Op.plain .hvsub := ⟨by decide, by decide, by decide, by decide, by decide⟩

theorem evalHvsub_disabled (hf : sOnly f {} = true) (hx : lOnly x { dsel := true } = true)
    (hen : bitB (s.freg FR.HV_CTRL) 0 = false) :
    evalOp c ((s.cell c).entry (hvIns f x u)) (s.carrying c (hvIns f x u)) =
      .fault (s.carrying c (hvIns f x u)) { cause := 0x71, detail := 0, unit := .hv } := by
  have hfreg : (s.carrying c (hvIns f x u)).freg FR.HV_CTRL = s.freg FR.HV_CTRL := rfl
  show evalHvsub c _ _ = _
  simp only [evalHvsub, entry_ins, hvIns_f, hvIns_x, hf, hx, hfreg, hen, Bool.not_true, Bool.not_false, Bool.or_self,
    Bool.false_eq_true, if_false, if_true]

theorem issue_hvsub_disabled (h : ReadyLong c s) (hf : sOnly f {} = true) (hx : lOnly x { dsel := true } = true)
    (hen : bitB (s.freg FR.HV_CTRL) 0 = false) :
    ∃ e q, ((s.issue c (hvIns f x u)).cell c).window = [e] ∧ e.fault = some q ∧ q.cause = 0x71 ∧ q.unit = .hv ∧
      ∀ k, k ≠ c → (s.issue c (hvIns f x u)).cell k = s.cell k := by
  have ht := issue_fault h.toReady (fetched_long h _) (evalHvsub_disabled (u := u) hf hx hen)
  rw [ht]
  refine ⟨{ (s.cell c).entry (hvIns f x u) with fault := some { cause := 0x71, detail := 0, unit := .hv } },
    { cause := 0x71, detail := 0, unit := .hv }, ?_, rfl, rfl, rfl, fun k hk => ?_⟩
  · rw [cell_modCell_self, cell_carrying]; rfl
  · rw [State.modCell, cell_setCell_other _ _ hk, State.carrying, cell_setCell_other _ _ hk]

/-- The descriptor of a query, of which all but the slot and the type is zero. -/
theorem query_fields {d : Nat} (hlo : d % 2 ^ 22 = 2) :
    bits d 7 0 = 2 ∧ bits d 11 8 = 0 ∧ bits d 21 12 = 0 ∧ bits d 33 22 = d / 2 ^ 22 % 2 ^ 12 := by
  unfold bits
  simp only [Nat.shiftRight_eq_div_pow, Nat.reduceAdd, Nat.reduceSub, Nat.reducePow] at *
  refine ⟨?_, ?_, ?_, trivial⟩ <;> omega

/-- The descriptor of a delivery, of which all but the layer and the type is zero. -/
theorem delivery_fields {d : Nat} (hhi : d / 2 ^ 22 = 0) (hlo : d % 2 ^ 12 = 1) :
    bits d 7 0 = 1 ∧ bits d 11 8 = 0 ∧ bits d 33 22 = 0 ∧ bits d 21 12 = d / 2 ^ 12 ∧ d / 2 ^ 34 = 0 := by
  unfold bits
  simp only [Nat.shiftRight_eq_div_pow, Nat.reduceAdd, Nat.reduceSub, Nat.reducePow] at *
  omega

/-- Type 2 writes the step record to its slot. -/
theorem issue_hvsub_query (h : ReadyLong c s) (hf : sOnly f {} = true) (hx : lOnly x { dsel := true } = true)
    (hen : bitB (s.freg FR.HV_CTRL) 0 = true) (hhi : ((s.cell c).rdD x.dsel).toNat / 2 ^ 34 = 0)
    (hlo : ((s.cell c).rdD x.dsel).toNat % 2 ^ 22 = 2) :
    RetiresPosting commitCounters c s
      ((s.cell c).ocWrite (64 * (((s.cell c).rdD x.dsel).toNat / 2 ^ 22 % 2 ^ 12)) s.stepRecord)
      (nextPc (s.cell c).npc .hvsub) x (s.issue c (hvIns f x u)) := by
  obtain ⟨htype, hres, hlayer, hslot⟩ := query_fields hlo
  refine issue_long_cell (i := hvIns f x u)
    (F := fun y => y.ocWrite (64 * (((s.cell c).rdD x.dsel).toNat / 2 ^ 22 % 2 ^ 12)) s.stepRecord) h plain_hvsub
    rfl ?_ (fun _ _ _ => rfl) (fun _ => rfl)
  have hfreg : (s.carrying c (hvIns f x u)).freg FR.HV_CTRL = s.freg FR.HV_CTRL := rfl
  have hrec : (s.carrying c (hvIns f x u)).stepRecord = s.stepRecord := rfl
  show evalHvsub c _ _ = _
  simp only [evalHvsub, entry_ins, hvIns_f, hvIns_x, hf, hx, hfreg, hrec, cell_carrying, rdD_holding, Bool.not_true,
    Bool.or_self, Bool.false_eq_true, if_false, hen, htype, hres, hlayer, hslot, hhi, ne_eq, not_true_eq_false,
    decide_false, Nat.reduceEqDiff, if_true]

/-- Type 1 delivers its layer, and its request stays open until the layer's update has ended. -/
theorem issue_hvsub_deliver (h : ReadyLong c s) (hf : sOnly f {} = true) (hx : lOnly x { dsel := true } = true)
    (hen : bitB (s.freg FR.HV_CTRL) 0 = true) (hhi : ((s.cell c).rdD x.dsel).toNat / 2 ^ 22 = 0)
    (hlo : ((s.cell c).rdD x.dsel).toNat % 2 ^ 12 = 1) (hl : ((s.cell c).rdD x.dsel).toNat / 2 ^ 12 = l)
    (hcnt : l < s.freg FR.HV_LAYER_CNT)
    (hacc : (s.carrying c (hvIns f x u)).deliverLayer l false (localStatus l) = .accepted s1)
    (hcell : s1.cell c = (s.cell c).holding (hvIns f x u)) (hsubs : s1.hv.subs = [])
    (hd : s1.deliveryOf l = some w) (hu : s1.layerSettled w = false) :
    Retires commitCounters c
      { s1 with hv := { s1.hv with subs := [{ cell := c, layer := l, pen := x.pen, psem := x.psem }] } }
      (s.cell c) (nextPc (s.cell c).npc .hvsub) (s.issue c (hvIns f x u)) := by
  obtain ⟨htype, hres, hslot, hlayer, htop⟩ := delivery_fields hhi hlo
  generalize hS :
    ({ s1 with hv := { s1.hv with subs := [{ cell := c, layer := l, pen := x.pen, psem := x.psem }] } } : State) = S
  have hev : evalOp c ((s.cell c).entry (hvIns f x u)) (s.carrying c (hvIns f x u)) = .done S none false := by
    have hfreg : ∀ a, (s.carrying c (hvIns f x u)).freg a = s.freg a := fun _ => rfl
    have hcnt' : ¬ (s.carrying c (hvIns f x u)).layerCnt ≤ l := Nat.not_le.2 hcnt
    have hopen : State.hvComplete S = S := by
      subst hS
      exact hvComplete_open (d := w) rfl hd hu
    show evalHvsub c _ _ = _
    simp only [evalHvsub, entry_ins, hvIns_f, hvIns_x, hf, hx, hfreg, cell_carrying, rdD_holding, htype, hres, hslot,
      hlayer, htop, hl, hacc, Bool.not_true, Bool.or_self, Bool.false_eq_true, if_false, hen, ne_eq, not_true_eq_false,
      decide_false, if_true, hcnt', hsubs, List.nil_append, hS, hopen]
  have hc1 : S.cell c = (s.cell c).holding (hvIns f x u) := by subst hS; exact hcell
  obtain ⟨t, ht, hi⟩ := issue_over (post := false) (S := S) (z := s.cell c) h.toReady (fetched_long h _) plain_hvsub hev
    (standsFor_entry h.toReady _) (by rw [hc1]; rfl) (fun _ _ => rfl) rfl rfl h.canon
  rw [hi]
  exact ht

end

/-! ### Update groups (R328, R336) -/

section
variable {s s1 s2 : State} {l : Fin 1024} {g : Nat} {m : MemUpset} {d : Delivered} {k : Fin 16}

/-- Group g of layer l noted as begun. -/
def begunWith (s : State) (l g : Nat) : State :=
  { s with hv := { s.hv with begun := if s.hv.begun.contains (l, g) then s.hv.begun else s.hv.begun ++ [(l, g)] } }

/-- The update of group g of layer l may start in unit k, which state s1 has found. -/
structure MayStart (s s1 : State) (l g : Nat) (d : Delivered) (k : Fin 16) : Prop where
  delivered : s.deliveryOf l = some d
  unsettled : s.layerSettled d = false
  uncarried : s.hv.carried = false
  group : g < Entry.groups d.entry
  undone : s.hv.done.contains (l, g) = false
  free : s.exportHolds l = false
  array : Entry.rule d.entry = 1 ∨ Entry.rule d.entry = 2 ∨ s1.bandLent k = true
  unit : s.groupUnit d.entry g = .ok s1 k

/-- It waits for an array only under a matrix rule. -/
theorem MayStart.hasArray (h : MayStart s s1 l g d k) :
    ([3, 4].contains (Entry.rule d.entry) && !s1.bandLent k) = false := by
  rcases h.array with hr | hr | hr <;> simp [hr]

theorem updateGroup_done (h : MayStart s s1 l g d k) (hrun : ((begunWith s1 l g).memUpset m).runGroup k d g = .ok s2 ())
    (hsubs : s2.hv.subs = []) :
    s.updateGroup l g m =
      State.count { s2 with hv := { s2.hv with done := s2.hv.done ++ [(↑l, g)] } } (FR.HV_U_GROUP_CNT k.val) := by
  rw [begunWith] at hrun
  simp only [State.updateGroup, h.delivered, h.unsettled, h.uncarried, Nat.not_le.2 h.group, h.undone, h.free, h.unit,
    h.hasArray, decide_false, Bool.or_self, Bool.false_eq_true, if_false, hrun]
  exact hvComplete_none hsubs

theorem updateGroup_fails {reason va : Nat} (h : MayStart s s1 l g d k)
    (hrun : ((begunWith s1 l g).memUpset m).runGroup k d g = .fail s2 reason va) :
    s.updateGroup l g m = s2.failLayer l reason va k := by
  rw [begunWith] at hrun
  simp only [State.updateGroup, h.delivered, h.unsettled, h.uncarried, Nat.not_le.2 h.group, h.undone, h.free, h.unit,
    h.hasArray, decide_false, Bool.or_self, Bool.false_eq_true, if_false, hrun]

/-- A layer that fails is noted with its reason and its address, and nothing of the cells and of memory changes (R336). -/
theorem failLayer_noted {s : State} {l reason va : Nat} {k : Fin 16} (hsubs : s.hv.subs = [])
    (hfirst : s.layerFailed l = false) (hw : FGood s.fregs) :
    let t := s.failLayer l reason va k
    t.hv.fails = s.hv.fails ++ [(l, reason)] ∧ bitB (t.freg FR.HV_STATUS) 15 = true ∧
      t.freg (FR.HV_U_FAULT_VA k.val) = va % 2 ^ 57 ∧ t.hv.done = s.hv.done ∧ t.cells = s.cells ∧ t.mem = s.mem := by
  intro t
  generalize hu : ({ s with hv := { s.hv with fails := s.hv.fails ++ [(l, reason)] } } : State) = u
  have huw : FGood u.fregs := by subst hu; exact hw
  generalize hv : (u.orFreg FR.HV_STATUS (2 ^ 15)).setFreg (FR.HV_U_FAULT_VA k.val) (va % 2 ^ 57) = v
  generalize hcls : (if reason = 2 ∨ reason = 5 then 3 else 5) = cls
  have hclsle : cls = 3 ∨ cls = 5 := by subst hcls; split <;> simp
  have hvh : v.hv = u.hv := by subst hv; rfl
  have hlogs := logs_logEvent v 0x0404 l cls va reason 0
  have hregs := floorRegs_logEvent v 0x0404 l cls va reason 0
  have ht : t = v.logEvent 0x0404 l cls va reason 0 := by
    have hs' : (v.logEvent 0x0404 l cls va reason 0).hv.subs = [] := by
      rw [hlogs]; simp only; rw [hvh, ← hu]; exact hsubs
    rw [← hvComplete_none hs', ← hcls, ← hv, ← hu]
    show s.failLayer l reason va k = _
    rw [State.failLayer, hfirst]
    rfl
  have hstat : FR.HV_STATUS ∉ eventRegs cls := by rcases hclsle with rfl | rfl <;> decide
  have hfar : ∀ j : Fin 16, FR.HV_U_FAULT_VA j.val ∉ eventRegs 3 ++ eventRegs 5 := by decide
  have hva : FR.HV_U_FAULT_VA k.val ∉ eventRegs cls := by
    have := hfar k
    rw [List.mem_append, not_or] at this
    rcases hclsle with rfl | rfl
    · exact this.1
    · exact this.2
  have hne : ∀ j : Fin 16, FR.HV_STATUS ≠ FR.HV_U_FAULT_VA j.val := by decide
  have hval : va % 2 ^ 57 % 2 ^ 64 = va % 2 ^ 57 :=
    Nat.mod_eq_of_lt ((Nat.mod_lt _ (by decide)).trans (by decide))
  have how : FGood (u.orFreg FR.HV_STATUS (2 ^ 15)).fregs := (keepsFloor_orFreg _ _ _).canon huw
  refine ⟨?_, ?_, ?_, ?_, ?_, ?_⟩
  · rw [ht, hlogs]; simp only; rw [hvh, ← hu]
  · rw [ht, hregs.freg _ hstat, ← hv, freg_setFreg_other _ _ (hne k)]
    exact bitB_orFreg_self _ (by decide) huw
  · rw [ht, hregs.freg _ hva, ← hv, freg_setFreg_self _ _ _ how, hval]
  · rw [ht, hlogs]; simp only; rw [hvh, ← hu]
  · rw [ht, hlogs]; simp only; rw [← hv, ← hu]; rfl
  · rw [ht, hlogs]; simp only; rw [← hv, ← hu]; rfl

end

/-! ### The decision (R337) -/

section
variable {s u : State} {ls : List Nat} {q : Decision}

/-- State u with what decision q leaves in the floor registers. -/
def decidedRegs (u : State) (q : Decision) : State :=
  let n2 := u.normSum
  let v := (u.setFreg FR.HV_LAST_NORM2 n2).setFreg FR.HV_LAST_CLIP
    (if q = .redo then (div64 (u.freg FR.HV_CLIP_THR) (sqrt64 n2).1).1 else one64)
  match q.counter with
    | some o => v.count o
    | none => v

/-- The Harvest units of state u once q has been decided. -/
def decidedHv (u : State) (q : Decision) : HvState :=
  { u.hv with
    decision := some q, clip := (div64 (u.freg FR.HV_CLIP_THR) (sqrt64 u.normSum).1).1
    fixed := q == .skipNf || q == .skipCeil, done := if q = .redo then [] else u.hv.done }

/-- State u once q has been decided. -/
def decided (u : State) (q : Decision) : State := { decidedRegs u q with hv := decidedHv u q }

theorem Counted.setFreg {s t : State} (h : Counted s t) (a v : Nat) : Counted s (t.setFreg a v) := h.trans rfl

theorem counted_decidedRegs (u : State) (q : Decision) : Counted u (decidedRegs u q) := by
  have h := ((Counted.refl u).setFreg FR.HV_LAST_NORM2 u.normSum).setFreg FR.HV_LAST_CLIP
    (if q = .redo then (div64 (u.freg FR.HV_CLIP_THR) (sqrt64 u.normSum).1).1 else one64)
  cases q with
  | commit => exact h
  | skipNf | skipCeil | redo => exact h.trans (counted_count _ _ _)

theorem stepDecision_taken (hstate : s.hvState = 1) (hv : s.validLayers = .ok u ls) (huv : u.hv = s.hv)
    (hall : ls.all (fun l => (s.deliveryOf l).isSome) = true) : s.stepDecision = u.takeDecision := by
  have hall' : ls.all (fun l => (u.deliveryOf l).isSome) = true := by
    simpa only [State.deliveryOf, huv] using hall
  simp only [State.stepDecision, hstate, ne_eq, not_true_eq_false, if_false, hv, hall', if_true]

theorem takeDecision_decided (hsubs : u.hv.subs = []) (hnf : u.hv.delivered.any (·.nfLocal) = false) :
    u.takeDecision = decided u u.decisionNow := by
  have hfind : u.hv.delivered.find? (·.nfLocal) = none := by
    rw [List.find?_eq_none]
    intro d hd
    rw [List.any_eq_false] at hnf
    exact hnf d hd
  unfold State.takeDecision
  rw [hfind]
  have hopen : (decided u u.decisionNow).hv.subs = [] := hsubs
  rw [← hvComplete_none hopen]
  generalize u.decisionNow = q
  cases q <;> rfl

/-- What the decision leaves in the floor registers (R337). -/
theorem decidedRegs_reads (hw : FGood u.fregs) (q : Decision) :
    (decidedRegs u q).freg FR.HV_LAST_NORM2 = u.normSum % 2 ^ 64 ∧
      ∀ p ∈ [(Decision.skipNf, FR.HV_SKIP_NF_CNT), (.skipCeil, FR.HV_SKIP_CEIL_CNT), (.redo, FR.HV_REDO_CNT)],
        (decidedRegs u q).freg p.2 = if q = p.1 then (u.freg p.2 + 1) % 2 ^ 64 else u.freg p.2 := by
  unfold decidedRegs
  extract_lets n2 v
  have h1 : FGood (u.setFreg FR.HV_LAST_NORM2 n2).fregs := (keepsFloor_setFreg _ _ _).canon hw
  have hvw : FGood v.fregs := (keepsFloor_setFreg _ _ _).canon h1
  have hnorm : v.freg FR.HV_LAST_NORM2 = u.normSum % 2 ^ 64 :=
    (freg_setFreg_other _ _ (by decide)).trans (freg_setFreg_self _ _ _ hw)
  have hkept : ∀ a, a ≠ FR.HV_LAST_NORM2 → a ≠ FR.HV_LAST_CLIP → v.freg a = u.freg a := fun a ha hb =>
    (freg_setFreg_other _ _ hb).trans (freg_setFreg_other _ _ ha)
  have hnf := hkept FR.HV_SKIP_NF_CNT (by decide) (by decide)
  have hceil := hkept FR.HV_SKIP_CEIL_CNT (by decide) (by decide)
  have hredo := hkept FR.HV_REDO_CNT (by decide) (by decide)
  clear_value v n2
  simp only [List.forall_mem_cons]
  rw [← hnorm, ← hnf, ← hceil, ← hredo]
  cases q <;> simp [Decision.counter, freg_count_other, freg_count_self _ _ hvw]

/-- What the decision changes, and nothing else. -/
theorem decided_leaves (hw : FGood u.fregs) (q : Decision) :
    let t := decided u q
    t.hv.decision = some q ∧ t.freg FR.HV_LAST_NORM2 = u.normSum % 2 ^ 64 ∧
      (∀ p ∈ [(Decision.skipNf, FR.HV_SKIP_NF_CNT), (.skipCeil, FR.HV_SKIP_CEIL_CNT), (.redo, FR.HV_REDO_CNT)],
        t.freg p.2 = if q = p.1 then (u.freg p.2 + 1) % 2 ^ 64 else u.freg p.2) ∧
      t.hv.done = (if q = .redo then [] else u.hv.done) ∧ t = { u with hv := t.hv, fregs := t.fregs } := by
  obtain ⟨hnorm, hcnt⟩ := decidedRegs_reads hw q
  refine ⟨rfl, hnorm, hcnt, rfl, ?_⟩
  unfold decided
  rw [counted_decidedRegs u q]

end

/-! ### A matrix rule without an array (R334) -/

theorem lendStarved_noted {s : State} {k : Fin 16} (hwork : s.matrixWork k = true) (hlent : s.bandLent k = false)
    (hfirst : bitB (s.freg (FR.HV_U_STATUS k.val)) 3 = false) (hw : FGood s.fregs) :
    let t := s.lendStarved k
    bitB (t.freg (FR.HV_U_STATUS k.val)) 3 = true ∧ t.cells = s.cells ∧ t.hv = s.hv ∧ t.mem = s.mem := by
  intro t
  have ht : t = (s.orFreg (FR.HV_U_STATUS k.val) (2 ^ 3)).logEvent 0x0403 k.val 0 0 0 0 := by
    show s.lendStarved k = _
    rw [State.lendStarved, hwork, hlent, hfirst]
    rfl
  have hfar : ∀ j : Fin 16, FR.HV_U_STATUS j.val ∉ eventRegs 0 := by decide
  have hlogs := logs_logEvent (s.orFreg (FR.HV_U_STATUS k.val) (2 ^ 3)) 0x0403 k.val 0 0 0 0
  refine ⟨?_, ?_, ?_, ?_⟩
  · rw [ht, (floorRegs_logEvent _ _ _ _ _ _ _).freg _ (hfar k)]
    exact bitB_orFreg_self _ (by decide) hw
  · rw [ht, hlogs]; rfl
  · rw [ht, hlogs]; rfl
  · rw [ht, hlogs]; rfl

/-! ### The obligation -/

/-- Settles O38. -/
theorem harvestStep : Obligations.HarvestStep := by
  unfold Obligations.HarvestStep
  refine ⟨fun c s s1 f x u w h hf hx => ⟨fun hen hhi hlo => ?_, fun hen hhi hlo hcnt hacc hcell hsubs hd hu => ?_,
    fun hen j hj => ?_⟩, fun s s1 s2 l g m d k => ⟨fun hd hu hc hg hdone hexp harr hunit => ⟨fun hrun hsubs => ?_,
      fun reason va hrun hsubs hfirst hw => ?_⟩, fun ls u hne hq hc hv huv hall hsubs hnf hw => ?_,
      fun hwork hlent hfirst hw => ?_⟩⟩
  · exact ⟨_, rfl, issue_hvsub_query h hf hx hen hhi hlo⟩
  · exact ⟨_, rfl, issue_hvsub_deliver h hf hx hen hhi hlo rfl hcnt hacc hcell hsubs hd hu⟩
  · obtain ⟨e, q, hwin, hfault, hcause, hunit, hothers⟩ := issue_hvsub_disabled (u := u) h hf hx hen
    rcases List.mem_pair.1 hj with rfl | rfl
    · exact ⟨_, e, q, rfl, hwin, hfault, hcause, hunit, hothers⟩
    · exact ⟨_, e, q, rfl, hwin, hfault, hcause, hunit, hothers⟩
  · exact ⟨_, rfl, updateGroup_done ⟨hd, hu, hc, hg, hdone, hexp, harr, hunit⟩ hrun hsubs⟩
  · refine ⟨s2.failLayer l reason va k, ?_, failLayer_noted hsubs hfirst hw⟩
    show execUpdateGroupDone l ⟨g, m⟩ s = _
    rw [execUpdateGroupDone, updateGroup_fails ⟨hd, hu, hc, hg, hdone, hexp, harr, hunit⟩ hrun]
  · have htaken : s.stepDecision = decided u u.decisionNow := by
      rw [stepDecision_taken (open_hvState hne hq hc) hv huv hall]
      exact takeDecision_decided (by rw [huv]; exact hsubs) (by rw [huv]; exact hnf)
    have hleaves := decided_leaves hw u.decisionNow
    intro n2 above bad q
    have hqq : u.decisionNow = q := by
      simp only [State.decisionNow, huv, Bool.and_eq_true, decide_eq_true_eq]
      rfl
    rw [hqq, huv] at hleaves
    rw [hqq] at htaken
    refine ⟨decided u q, ?_, hleaves⟩
    show execStepDecision s = _
    rw [execStepDecision, htaken]
  · exact ⟨_, rfl, lendStarved_noted hwork hlent hfirst hw⟩

end Sys2Proof.Proofs
end
section
/-! The Equinox barrier (R209, R239, R320, R337, R339, R340). -/

namespace Sys2Proof.Proofs
open Sys2Proof Sys2Proof.Machine Sys2Proof.Laws

/-! ### Version bits (R320) -/

section
variable {s : State} {l k : Nat}

theorem testBit_verBit (s : State) (l : Nat) : s.verBit l = ((s.freg (FR.HV_VER (l / 32))).testBit (l % 32)).toNat := by
  rw [State.verBit, bitB_eq_testBit]
  cases (s.freg (FR.HV_VER (l / 32))).testBit (l % 32) <;> rfl

theorem freg_flipBit (hw : FGood s.fregs) :
    (s.flipBit l).freg (FR.HV_VER (l / 32)) = s.freg (FR.HV_VER (l / 32)) ^^^ 2 ^ (l % 32) := by
  have hbit : 2 ^ (l % 32) < 2 ^ 64 := Nat.pow_lt_pow_right (by decide) (by omega)
  exact (freg_setFreg_self s _ _ hw).trans (Nat.mod_eq_of_lt (Nat.xor_lt_two_pow (freg_lt s _) hbit))

theorem verBit_flipBit_self (hw : FGood s.fregs) : (s.flipBit l).verBit l = 1 - s.verBit l := by
  rw [testBit_verBit, testBit_verBit, freg_flipBit hw, Nat.testBit_xor, Nat.testBit_two_pow_self]
  cases (s.freg (FR.HV_VER (l / 32))).testBit (l % 32) <;> rfl

theorem verBit_flipBit_other (hw : FGood s.fregs) (h : k ≠ l) : (s.flipBit l).verBit k = s.verBit k := by
  rw [testBit_verBit, testBit_verBit]
  by_cases hr : k / 32 = l / 32
  · have hb : ¬ l % 32 = k % 32 := by omega
    rw [hr, freg_flipBit hw, Nat.testBit_xor, Nat.testBit_two_pow, decide_eq_false hb, Bool.xor_false]
  · have ha : FR.HV_VER (k / 32) ≠ FR.HV_VER (l / 32) := by
      intro e
      simp only [FR.HV_VER] at e
      omega
    rw [State.flipBit, freg_setFreg_other _ _ ha]

theorem counted_flipLayers (ls : List Nat) : ∀ s : State, Counted s (s.flipLayers ls) := by
  induction ls with
  | nil => exact Counted.refl
  | cons l ls ih => exact fun s => ((Counted.refl s).setFreg _ _).trans (ih (s.flipBit l))

/-- The bits of the layers of a list are inverted, and no other. -/
theorem verBit_flipLayers {ls : List Nat} (hnd : ls.Nodup) : ∀ s : State, FGood s.fregs →
    ∀ k, (s.flipLayers ls).verBit k = if k ∈ ls then 1 - s.verBit k else s.verBit k := by
  induction ls with
  | nil => exact fun s _ k => rfl
  | cons l ls ih =>
    intro s hw k
    obtain ⟨hl, hnd⟩ := List.nodup_cons.1 hnd
    have hw' : FGood (s.flipBit l).fregs := (keepsFloor_setFreg _ _ _).canon hw
    show ((s.flipBit l).flipLayers ls).verBit k = _
    rw [ih hnd (s.flipBit l) hw']
    by_cases hk : k = l
    · subst hk
      rw [if_neg hl, verBit_flipBit_self hw, if_pos List.mem_cons_self]
    · rw [verBit_flipBit_other hw hk]
      simp only [List.mem_cons, hk, false_or]

/-- The version bits of the layers that there are lie in registers of their own. -/
theorem freg_flipLayers {a : Nat} (ha : ∀ k : Fin 32, a ≠ FR.HV_VER k.val) {ls : List Nat} (hl : ∀ l ∈ ls, l < 1024) :
    ∀ s : State, (s.flipLayers ls).freg a = s.freg a := by
  induction ls with
  | nil => exact fun _ => rfl
  | cons l ls ih =>
    intro s
    obtain ⟨hlt, hl⟩ := List.forall_mem_cons.1 hl
    exact (ih hl (s.flipBit l)).trans (freg_setFreg_other _ _ (ha ⟨l / 32, by omega⟩))

theorem canon_flipLayers (ls : List Nat) : ∀ s : State, FGood s.fregs → FGood (s.flipLayers ls).fregs := by
  induction ls with
  | nil => exact fun _ h => h
  | cons l ls ih => exact fun s h => ih (s.flipBit l) ((keepsFloor_setFreg _ _ _).canon h)

end

/-! ### Carrying out a decision (R340) -/

section
variable {s : State} {q : Decision} {outcome : Nat}

/-- With no exchange, no job and no difference stream under way, what a step that ends drops of them is nothing. -/
theorem withRx_none (h : s.rx = {}) : { s with rx := {} } = s := by rw [← h]

/-- Replica checks once a decision has been carried out. -/
def idleRx (r : RxState) : RxState := { r with phase := .idle, work := [], repaired := [], release := none }

theorem idleRx_none {r : RxState} (h : r = {}) : idleRx r = r := by rw [h]; rfl

theorem dropFormed_none (h : s.rx = {}) : s.dropFormed = s := by
  rw [State.dropFormed, h]
  exact withRx_none h

theorem captureResults_none (h : s.rx = {}) : s.captureResults = s := by
  have hjob : s.rx.job = none := by rw [h]
  have hsame : ∀ (p : Delivered → Nat × List Byte) (ds : List Delivered),
      ds.foldl (fun (s : State) d => s.capture (p d).1 (p d).2) s = s := by
    intro p ds
    induction ds with
    | nil => rfl
    | cons d ds ih => rw [List.foldl_cons, capture_idle hjob, ih]
  have hfp : s.hv.delivered.foldl (fun (s : State) d =>
      s.capture 5 (d.word.bytes ++ leBytes 4 (s.keptFp d true) ++ leBytes 4 (s.keptFp d false))) s = s := by
    generalize s.hv.delivered = ds
    induction ds with
    | nil => rfl
    | cons d ds ih => rw [List.foldl_cons, capture_idle hjob, ih]
  have hcrc : s.hv.delivered.foldl (fun (s : State) d =>
      s.capture 6 ((s.crcList d true ++ s.crcList d false).flatMap (leBytes 4))) s = s := by
    generalize s.hv.delivered = ds
    induction ds with
    | nil => rfl
    | cons d ds ih => rw [List.foldl_cons, capture_idle hjob, ih]
  simp only [State.captureResults, hfp, hcrc]

/-- The units once a decision has been carried out with an outcome and no failure. -/
def carriedHv (h : HvState) (outcome : Nat) : HvState :=
  { h with carried := true, outcome, lsHeld := false, failed := none, waits := [], refused := [] }

/-- A skip of a step whose groups had not begun changes nothing but the units. -/
theorem carrySkip_plain (hrx : s.rx = {}) (hsubs : s.hv.subs = []) (hbegun : s.hv.begun = []) :
    s.carrySkip 2 false none = { s with hv := carriedHv s.hv 2 } := by
  rw [State.carrySkip, hbegun, State.remakeAll]
  simp only [State.endCarry, dropFormed_none hrx, captureResults_none hrx, Option.isSome_none, Bool.false_eq_true,
    if_false]
  show State.hvComplete { s with hv := carriedHv s.hv 2, rx := idleRx s.rx } = _
  rw [idleRx_none hrx]
  exact hvComplete_none hsubs

/-- A commit of a step without replica checks inverts the version bits of the delivered layers, and counts. -/
theorem carryCommit_plain (hrx : s.rx = {}) (hsubs : s.hv.subs = []) (hrc : s.rcEn = false) :
    s.carryCommit outcome =
      { (s.flipLayers (s.hv.delivered.map (·.layer))).count FR.HV_COMMIT_CNT with hv := carriedHv s.hv outcome } := by
  generalize hv : (s.flipLayers (s.hv.delivered.map (·.layer))).count FR.HV_COMMIT_CNT = v
  have hc : Counted s v := hv ▸ (counted_flipLayers _ s).trans (counted_count _ _ _)
  have hvrx : v.rx = {} := by rw [hc]; exact hrx
  have hvhv : v.hv = s.hv := by rw [hc]
  have hrel : ∀ ls, s.releaseDx [] ls = s := by
    intro ls
    simp only [State.releaseDx, hrc, Bool.not_false, Bool.or_true, if_true, dropFormed_none hrx]
  have hnote : v.noteCommit = v := by rw [State.noteCommit, hvrx]
  simp only [State.carryCommit, hrc, Bool.false_eq_true, if_false, hrel, captureResults_none hrx, hv, hnote]
  show State.hvComplete { v with hv := carriedHv v.hv outcome, rx := idleRx v.rx } = _
  rw [idleRx_none hvrx, hvhv]
  exact hvComplete_none hsubs

/-- A step whose decision skips it is carried out as a skip. -/
theorem carryOut_skip (hq : s.hv.decision = some q) (hc : s.hv.carried = false) (hrx : s.rx = {})
    (h : q = .skipNf ∨ q = .skipCeil) : s.carryOut = s.carrySkip 2 false none := by
  have hjob : s.jobOf 4 = none := by rw [State.jobOf, hrx]
  simp only [State.carryOut, hq, hc, hjob, Bool.false_eq_true, if_false, if_pos h]

/-- One that commits, settled, with none failed and nothing to check first, is carried out as a commit. -/
theorem carryOut_commit (hq : s.hv.decision = some q) (hc : s.hv.carried = false) (hrx : s.rx = {})
    (h : q = .commit ∨ q = .redo) (hset : s.hv.delivered.all s.layerSettled = true) (hfails : s.hv.fails = [])
    (hwc : bitB (s.freg FR.HV_CTRL) 4 = false) (hex : bitB (s.freg FR.RC_CTRL) 1 = false) :
    s.carryOut = s.carryCommit (if q = .redo then 1 else 0) := by
  have hjob : s.jobOf 4 = none := by rw [State.jobOf, hrx]
  have hns : ¬ (q = .skipNf ∨ q = .skipCeil) := by rcases h with rfl | rfl <;> simp
  simp only [State.carryOut, hq, hc, hjob, Bool.false_eq_true, if_false, if_neg hns, hset, Bool.not_true, hrx, hwc,
    Bool.false_and, hex, hfails]

theorem equinoxBarrier_waits {u : State} (hne : s.hv.delivered ≠ []) (hsubs : s.hv.subs = []) (hu : s.carryOut = u)
    (harr : u.allArrived = false) : s.equinoxBarrier = u := by
  have hd : s.hv.delivered.isEmpty = false := by simpa using hne
  simp only [State.equinoxBarrier, hd, Bool.false_eq_true, if_false, hu, harr, Bool.and_false, hsubs, List.map_nil]
  rfl

theorem equinoxBarrier_closes (hq : s.hv.decision = some q) (hne : s.hv.delivered ≠ []) (hsubs : s.hv.subs = [])
    (hc : s.hv.carried = true) (harr : s.allArrived = true) : s.equinoxBarrier = s.closeStep := by
  have hd : s.hv.delivered.isEmpty = false := by simpa using hne
  have hout : s.carryOut = s := by simp only [State.carryOut, hq, hc, if_true]
  simp only [State.equinoxBarrier, hd, Bool.false_eq_true, if_false, hout, hc, harr, Bool.and_self, if_true, hsubs,
    List.map_nil]
  rfl

theorem captureEdge_none (h : s.rx = {}) (o : Nat) : s.captureEdge o = s := by
  rw [State.captureEdge, State.jobOf, h]

theorem equinoxBarrier_empty (hd : s.hv.delivered = []) (hrx : s.rx = {}) (harr : s.allArrived = true) :
    s.equinoxBarrier = s.openEquinox 0 (some { cause := 0x73, unit := .hv }) := by
  simp only [State.equinoxBarrier, hd, List.isEmpty_nil, harr, if_true, captureEdge_none hrx]

end

/-! ### The barrier opens (R209, R340) -/

section
variable {s : State} {d : CellId} {g : Nat} {v : Word}

theorem nodup_allCells : allCells.Nodup := List.nodup_finRange 256
theorem mem_allCells (d : CellId) : d ∈ allCells := List.mem_finRange d

theorem arrived_of_all (h : s.allArrived = true) (d : CellId) : d ∈ s.sync.equinox.arrived :=
  List.contains_iff_mem.1 (List.all_eq_true.1 h d (mem_allCells d))

/-- Cell d waits with an EQNX at generation g. -/
def WaitsEqnx (g : Nat) (d : CellId) (s : State) : Prop :=
  ∃ e, Holds d s e ∧ e.ins.op = .eqnx ∧ sOnly e.ins.f { rd := true } = true ∧ e.next = none ∧ e.arrived = some g

/-- Cell d holds an EQNX that is granted v. -/
def EqnxDone (v : Word) (d : CellId) (s : State) : Prop :=
  ∃ e, Holds d s e ∧ e.ins.op = .eqnx ∧ sOnly e.ins.f { rd := true } = true ∧ e.granted = some v

/-- A state that differs where no cell is concerned. -/
structure SameCells (s s' : State) : Prop where
  cell : ∀ d, s'.cell d = s.cell d
  subs : s'.hv.subs = s.hv.subs

theorem SameCells.holds {s' : State} {e : InFlight} (h : SameCells s s') (hs : Holds d s e) : Holds d s' e :=
  ⟨by rw [h.cell]; exact hs.runs, by rw [h.cell]; exact hs.only, hs.sound, hs.resolved, by rw [h.cell]; exact
    hs.follows,
    hs.waited, by rw [h.cell]; exact hs.noHalt, by rw [State.hvBusy, h.subs]; exact hs.noSubmit,
    by rw [h.cell]; exact hs.canon⟩

theorem grantOne_equinox {e : InFlight} (hst : (s.cell d).cp.st ≠ .doze) (hwin : (s.cell d).window = [e])
    (hop : e.ins.op = .eqnx) (harr : e.arrived = some g) :
    grantOne .equinox g v s d = s.setCell d { s.cell d with window := [goesOn e v] } := by
  have hscope : e.ins.scope d = some .equinox := by rw [Ins.scope, hop]
  rw [grantOne, Cell.head, hwin]
  simp only [List.head?_cons, hscope, if_true]
  rw [endDoze_not hst, State.modCell, Cell.grantArrived, Cell.modHead, hwin]
  show s.setCell d { s.cell d with window := [if e.arrived = some g then goesOn e v else e] } = _
  rw [if_pos harr]

theorem notDoze_of_holds {e : InFlight} (h : Holds d s e) : (s.cell d).cp.st ≠ .doze := by
  have hruns := h.runs
  intro hd
  rw [Cell.running, hd] at hruns
  simp at hruns

theorem eqnxDone_granted {s' : State} (h : WaitsEqnx g d s)
    (hcell : ∀ e, (s.cell d).window = [e] → s'.cell d = { s.cell d with window := [goesOn e v] })
    (hs : s' = { s with cells := s'.cells, free := s'.free }) : EqnxDone v d s' := by
  obtain ⟨e, h, hop, hf, hnext, -⟩ := h
  have hc := hcell e h.only
  refine ⟨goesOn e v, ⟨?_, by rw [hc], h.sound, h.resolved, fun p hp => ?_, h.waited, ?_, ?_, ?_⟩, hop, hf, rfl⟩
  · rw [hc]; exact h.runs
  · rw [goesOn, hnext] at hp; cases hp
  · rw [hc]; exact h.noHalt
  · rw [hs]; exact h.noSubmit
  · rw [hc]; exact h.canon

theorem wrS_s_window (x : Cell) (w : List InFlight) (n : BitVec 5) (v : Word) :
    ({ x with window := w }.wrS n v).s = (x.wrS n v).s := by
  unfold Cell.wrS
  split <;> rfl

/-- What an EQNX that is granted v leaves of its cell x. -/
def Outcome (v : Word) (x y : Cell) : Prop :=
  ∀ e, x.window = [e] → y.window = [] ∧ y.npc = nextPc e.pc .eqnx ∧ y.s = (x.wrS e.ins.f.rd v).s

/-- An EQNX whose barrier has completed writes what it is granted, and commits. -/
theorem pump_eqnx (h : EqnxDone v d s) :
    Outcome v (s.cell d) ((s.pump d).cell d) ∧ (∀ j, j ≠ d → (s.pump d).cell j = s.cell j) ∧
    s.pump d = { s with cells := (s.pump d).cells, free := (s.pump d).free } := by
  obtain ⟨e, h, hop, hf, hgrant⟩ := h
  have hev : evalOp d e s = .done (s.setCell d ((s.cell d).wrS e.ins.f.rd v)) := by
    rw [evalOp, hop]
    simp only [evalEqnx, hf, hgrant, Bool.not_true, Bool.false_eq_true, if_false]
    rfl
  obtain ⟨u, ⟨hcell, -, -, hother, hframe⟩, hp⟩ := pump_done (e1 := e) h (by rw [hop]; decide) (.inl
    (by rw [hop]; rfl)) hev
    { window := by rw [cell_setCell_self, wrS_window]; exact h.only
      pc := rfl, op := rfl, x := rfl, next := rfl, waited := h.waited
      npc := by rw [cell_setCell_self, wrS_npc]
      ctrl := by rw [cell_setCell_self, Cell.reg, wrS_regs]; rfl
      canon := by rw [cell_setCell_self, wrS_regs]; exact h.canon }
  have hpump : s.pump d = u := by
    have hlong : e.ins.op.long = false := by rw [hop]; rfl
    rw [hp, hlong, Bool.and_false, if_neg Bool.false_ne_true]
  rw [hpump]
  refine ⟨fun e' he' => ?_, fun j hj => (hother j hj).trans (cell_setCell_other _ _ hj), by rw [hframe]; rfl⟩
  obtain rfl : e = e' := by simpa [h.only] using he'
  rw [hcell, cell_setCell_self, ← hop]
  exact ⟨rfl, rfl, rfl⟩

/-- The Equinox barrier completes, and every EQNX goes on with what it is granted. -/
theorem openBarrier_equinox {cells : List CellId} (hmem : ∀ d, d ∈ cells) (hnodup : cells.Nodup)
    (harr : s.allArrived = true) (hwait : ∀ d, WaitsEqnx s.sync.equinox.gen d s) :
    let t := s.openBarrier .equinox cells v
    (∀ d, Outcome v (s.cell d) (t.cell d)) ∧
      t = { s with cells := t.cells, free := t.free, sync := { s.sync with equinox := reopened s.sync.equinox } } := by
  have hall : ∀ d ∈ cells, d ∈ (s.barrier .equinox).arrived := fun d _ => arrived_of_all harr d
  have hopen := openBarrier_eq (v := v) hall
  generalize hs0 : s.setBarrier .equinox (reopened (s.barrier .equinox)) = s0 at hopen
  have hsame : SameCells s s0 := ⟨fun d => by rw [← hs0, cell_setBarrier], by rw [← hs0]; rfl⟩
  have hwait0 : ∀ d ∈ cells, WaitsEqnx s.sync.equinox.gen d s0 := fun d _ => by
    obtain ⟨e, he, hrest⟩ := hwait d
    exact ⟨e, hsame.holds he, hrest⟩
  obtain ⟨hgrant, -, hframe1⟩ := foldl_cells
    (f := grantOne .equinox s.sync.equinox.gen v) (P := WaitsEqnx s.sync.equinox.gen)
    (Q := fun _ x y => ∃ e, x.window = [e] ∧ y = { x with window := [goesOn e v] })
    (fun d r r' ⟨e, he, hrest⟩ hc hr => ⟨e, holds_congr he hc hr, hrest⟩)
    (fun d r ⟨e, he, hop, _, _, hgen⟩ => by
      rw [grantOne_equinox (notDoze_of_holds he) he.only hop hgen]
      exact ⟨⟨e, he.only, by rw [cell_setCell_self]⟩, fun j hj => cell_setCell_other _ _ hj, rfl⟩)
    cells s0 hnodup hwait0
  have hgen : (s.barrier .equinox).gen = s.sync.equinox.gen := rfl
  rw [hgen] at hopen
  generalize cells.foldl (grantOne .equinox s.sync.equinox.gen v) s0 = s1 at hopen hgrant hframe1
  obtain ⟨hpump, -, hframe2⟩ := foldl_cells (f := fun r d => r.pump d) (P := EqnxDone v)
    (Q := fun _ => Outcome v) (fun d r r' ⟨e, he, hrest⟩ hc hr => ⟨e, holds_congr he hc hr, hrest⟩)
    (fun d r hr => pump_eqnx hr) cells s1 hnodup
    (fun d hd => eqnxDone_granted (v := v) (hwait0 d hd) (fun e he => by
      obtain ⟨e', he', hy⟩ := hgrant d hd
      obtain rfl : e' = e := by simpa [he'] using he
      exact hy) hframe1)
  intro t
  have ht : t = cells.foldl (fun r d => r.pump d) s1 := hopen
  rw [ht]
  have hframe0 : s0 = { s with sync := { s.sync with equinox := reopened s.sync.equinox } } := hs0.symm
  refine ⟨fun d e he => ?_, by rw [hframe2, hframe1, hframe0]⟩
  obtain ⟨e', he', hy⟩ := hgrant d (hmem d)
  obtain rfl : e' = e := by rw [hsame.cell, he] at he'; simpa using he'.symm
  obtain ⟨hwin, hpc, hrd⟩ := hpump d (hmem d) (goesOn e' v) (by rw [hy])
  refine ⟨hwin, hpc, hrd.trans ?_⟩
  rw [hy, hsame.cell]
  exact wrS_s_window _ _ _ _

/-- Entry e with fault f. -/
def faulted (e : InFlight) (f : FaultInfo) : InFlight := { e with fault := some f }

/-- What the opening of a barrier with a fault does first for one cell. -/
def faultOne (g : Nat) (f : FaultInfo) (s : State) (c : CellId) : State :=
  match (s.cell c).head with
  | some e => if e.ins.op = .eqnx && e.arrived = some g then s.modCell c (fun x => x.faultHead f) else s
  | none => s

theorem faultOne_waits {f : FaultInfo} {e : InFlight} (hwin : (s.cell d).window = [e]) (hop : e.ins.op = .eqnx)
    (harr : e.arrived = some g) : faultOne g f s d = s.setCell d { s.cell d with window := [faulted e f] } := by
  rw [faultOne, Cell.head, hwin]
  simp only [List.head?_cons, hop, harr, decide_true, Bool.and_self, if_true]
  rw [State.modCell, Cell.faultHead, hwin]
  rfl

/-- Cell d waits at generation g with an EQNX that holds fault f. -/
def FaultedEqnx (g : Nat) (f : FaultInfo) (d : CellId) (s : State) : Prop :=
  (s.cell d).cp.st ≠ .doze ∧ ∃ e, (s.cell d).window = [e] ∧ e.ins.op = .eqnx ∧ e.arrived = some g ∧ e.fault = some f

/-- A cell whose oldest instruction holds a fault does not carry it out. -/
theorem pump_faulted {e : InFlight} {f : FaultInfo} (hwin : (s.cell d).window = [e]) (hf : e.fault = some f) :
    s.pump d = s := by
  have hstep : s.stepHead d = (s, false) := by
    rw [State.stepHead, Cell.head, hwin]
    simp only [List.head?_cons, hf, Option.isSome_some, Bool.or_true, Bool.true_or, if_true]
  rw [State.pump, hwin]
  show (if (s.cell d).pumps then _ else s) = s
  rw [hstep]
  simp only [Bool.false_eq_true, if_false, ite_self]

/-- An EQNX that holds a fault stays, with its fault, as the barrier completes. -/
theorem openBarrier_faulted {f : FaultInfo} {cells : List CellId} (hmem : ∀ d, d ∈ cells) (hnodup : cells.Nodup)
    (harr : s.allArrived = true) (hwait : ∀ d, FaultedEqnx s.sync.equinox.gen f d s) :
    let t := s.openBarrier .equinox cells v
    t.sync.equinox.gen = s.sync.equinox.gen + 1 ∧ t.hv = s.hv ∧ ∀ d, ∃ e, (t.cell d).window = [e] ∧ e.fault = some f
      := by
  have hall : ∀ d ∈ cells, d ∈ (s.barrier .equinox).arrived := fun d _ => arrived_of_all harr d
  have hopen := openBarrier_eq (v := v) hall
  have hgen : (s.barrier .equinox).gen = s.sync.equinox.gen := rfl
  rw [hgen] at hopen
  generalize hs0 : s.setBarrier .equinox (reopened (s.barrier .equinox)) = s0 at hopen
  have hcell : ∀ d, s0.cell d = s.cell d := fun d => by rw [← hs0, cell_setBarrier]
  have hframe0 : s0 = { s with sync := { s.sync with equinox := reopened s.sync.equinox } } := hs0.symm
  obtain ⟨hgrant, -, hframe⟩ := foldl_cells (f := grantOne .equinox s.sync.equinox.gen v)
    (P := FaultedEqnx s.sync.equinox.gen f) (Q := fun _ _ y => ∃ e, y.window = [e] ∧ e.fault = some f)
    (fun d r r' ⟨hst, e, hwin, hrest⟩ hc _ => ⟨by rw [hc]; exact hst, e, by rw [hc]; exact hwin, hrest⟩)
    (fun d r ⟨hst, e, hwin, hop, hgen, hf⟩ => by
      rw [grantOne_equinox hst hwin hop hgen]
      exact ⟨⟨goesOn e v, by rw [cell_setCell_self], hf⟩, fun j hj => cell_setCell_other _ _ hj, rfl⟩)
    cells s0 hnodup (fun d _ => by rw [FaultedEqnx, hcell]; exact hwait d)
  generalize cells.foldl (grantOne .equinox s.sync.equinox.gen v) s0 = s1 at hgrant hframe hopen
  have hpump : ∀ l : List CellId, l.foldl (fun r d => r.pump d) s1 = s1 := by
    intro l
    induction l with
    | nil => rfl
    | cons a l ih =>
      obtain ⟨e, hwin, hf⟩ := hgrant a (hmem a)
      rw [List.foldl_cons, pump_faulted hwin hf, ih]
  intro t
  have ht : t = s1 := hopen.trans (hpump cells)
  rw [ht]
  refine ⟨?_, ?_, fun d => hgrant d (hmem d)⟩
  · rw [hframe, hframe0]; rfl
  · rw [hframe, hframe0]

/-- Each EQNX of a list of cells is given the fault. -/
theorem faultAll {f : FaultInfo} {cells : List CellId} (hmem : ∀ d, d ∈ cells) (hnodup : cells.Nodup)
    (hwait : ∀ d, WaitsEqnx g d s) :
    let t := cells.foldl (faultOne g f) s
    (∀ d, FaultedEqnx g f d t) ∧ t = { s with cells := t.cells, free := t.free } := by
  obtain ⟨hfault, -, hframe⟩ := foldl_cells (f := faultOne g f) (P := WaitsEqnx g)
    (Q := fun _ _ y => y.cp.st ≠ .doze ∧
      ∃ e, y.window = [e] ∧ e.ins.op = .eqnx ∧ e.arrived = some g ∧ e.fault = some f)
    (fun d r r' ⟨e, he, hrest⟩ hc hr => ⟨e, holds_congr he hc hr, hrest⟩)
    (fun d r ⟨e, he, hop, _, _, hgen⟩ => by
      rw [faultOne_waits he.only hop hgen, cell_setCell_self]
      exact ⟨⟨notDoze_of_holds he, faulted e f, rfl, hop, hgen, rfl⟩, fun j hj => cell_setCell_other _ _ hj, rfl⟩)
    cells s hnodup (fun d _ => hwait d)
  exact ⟨fun d => hfault d (hmem d), hframe⟩

/-- The barrier of a step with nothing delivered opens with a fault for every EQNX (R340). -/
theorem openEquinox_faults {f : FaultInfo} (harr : s.allArrived = true)
    (hwait : ∀ d, WaitsEqnx s.sync.equinox.gen d s) :
    let t := s.openEquinox v (some f)
    t.sync.equinox.gen = s.sync.equinox.gen + 1 ∧ t.hv = s.hv ∧
      ∀ d, ∃ e, (t.cell d).window = [e] ∧ e.fault = some f := by
  have hsame : SameCells s s.retireMoment := ⟨fun _ => rfl, rfl⟩
  obtain ⟨hfault, hframe⟩ := faultAll (f := f) mem_allCells nodup_allCells (s := s.retireMoment)
    (fun d => by obtain ⟨e, he, hrest⟩ := hwait d; exact ⟨e, hsame.holds he, hrest⟩)
  have hopen : s.openEquinox v (some f) =
      (allCells.foldl (faultOne s.sync.equinox.gen f) s.retireMoment).openBarrier .equinox allCells 0 := rfl
  generalize allCells.foldl (faultOne s.sync.equinox.gen f) s.retireMoment = u at hfault hframe hopen
  have hsync : u.sync = s.sync := by rw [hframe]; rfl
  have hhv : u.hv = s.hv := by rw [hframe]; rfl
  have hopened := openBarrier_faulted (s := u) (f := f) (v := 0) mem_allCells nodup_allCells
    (by rw [State.allArrived, hsync]; exact harr) (by rw [hsync]; exact hfault)
  rw [hsync, hhv, ← hopen] at hopened
  exact hopened

/-! ### The step ends (R339, R340) -/

/-- The registers that the end of a step writes. -/
def endedRegs (s : State) : State :=
  ((if s.hv.lsHeld then s else s.setFreg FR.HV_LS_STATE (s.nextLs s.hv.outcome)).count FR.HV_STEP).putFreg
    FR.HV_STATUS 9 8 s.hv.outcome

theorem counted_endedRegs (s : State) : Counted s (endedRegs s) := by
  unfold endedRegs
  refine Counted.setFreg ?_ _ _
  refine Counted.setFreg ?_ _ _
  split
  · exact Counted.refl s
  · exact (Counted.refl s).setFreg _ _

/-- A step that has not failed ends with every EQNX going on with its outcome. -/
theorem closeStep_opens (hrx : s.rx = {}) (hf : s.hv.failed = none) :
    s.closeStep = State.openBarrier (State.retireMoment { endedRegs s with hv := {} }) .equinox allCells
      (BitVec.ofNat 64 s.hv.outcome) := by
  generalize hu : ({ endedRegs s with hv := {} } : State) = u
  have hrxu : u.rx = {} := by rw [← hu, counted_endedRegs s]; exact hrx
  have hedge := captureEdge_none hrxu s.hv.outcome
  rw [← hu] at hedge ⊢
  unfold State.closeStep
  rw [hf]
  exact congrArg (fun r : State => r.openEquinox (BitVec.ofNat 64 s.hv.outcome) none) hedge

/-- What is read of a field of a register as it was written. -/
theorem bits_mod_word {x hi lo : Nat} (h : hi < 64) : bits (x % 2 ^ 64) hi lo = bits x hi lo :=
  bits_congr fun i hi' => by rw [Nat.testBit_mod_two_pow, decide_eq_true (by omega), Bool.true_and]

theorem endedRegs_reads (hw : FGood s.fregs) (ho : s.hv.outcome < 4) :
    (endedRegs s).freg FR.HV_STEP = (s.freg FR.HV_STEP + 1) % 2 ^ 64 ∧
      bits ((endedRegs s).freg FR.HV_STATUS) 9 8 = s.hv.outcome ∧
      (s.hv.lsHeld = true → (endedRegs s).freg FR.HV_LS_STATE = s.freg FR.HV_LS_STATE) := by
  generalize hv : (if s.hv.lsHeld then s else s.setFreg FR.HV_LS_STATE (s.nextLs s.hv.outcome)) = v
  have he : endedRegs s = (v.count FR.HV_STEP).putFreg FR.HV_STATUS 9 8 s.hv.outcome := by rw [endedRegs, hv]
  have hvw : FGood v.fregs := by
    rw [← hv]
    split
    · exact hw
    · exact (keepsFloor_setFreg _ _ _).canon hw
  have hcw : FGood (v.count FR.HV_STEP).fregs := (keepsFloor_count _ _ _).canon hvw
  have hstep : v.freg FR.HV_STEP = s.freg FR.HV_STEP := by
    rw [← hv]
    split
    · rfl
    · exact freg_setFreg_other _ _ (by decide)
  rw [he]
  refine ⟨?_, ?_, fun hheld => ?_⟩
  · rw [State.putFreg, freg_setFreg_other _ _ (by decide), freg_count_self _ _ hvw, hstep]
  · rw [State.putFreg, freg_setFreg_self _ _ _ hcw, bits_mod_word (by decide), bits_putBits_self]
    exact Nat.mod_eq_of_lt ho
  · rw [State.putFreg, freg_setFreg_other _ _ (by decide), freg_count_other _ _ (by decide), ← hv, if_pos hheld]

end

/-! ### The obligation -/

/-- Settles O39. -/
theorem equinoxBarriers : Obligations.EquinoxBarriers := by
  unfold Obligations.EquinoxBarriers
  intro s q layers at' hrx hsubs
  have hwaits : (∀ d, ∃ e, at' d e) → ∀ d, WaitsEqnx s.sync.equinox.gen d s := fun h d => by
    obtain ⟨e, he, hop, hf, -, hnext, harr⟩ := h d
    exact ⟨e, he, hop, hf, hnext, harr⟩
  refine ⟨fun hq hne hc harr => ⟨fun hskip hbegun => ?skip,
    fun hcommit hset hfails hwc hrc hnd hlt hw => ?commit⟩, fun hq hne hc hf ho harr hall hw => ?opens,
    fun hd harr hall => ?empty⟩
  case skip =>
    refine ⟨{ s with hv := carriedHv s.hv 2 }, ?_, rfl, rfl, rfl, rfl⟩
    show execEquinoxBarrier s = _
    rw [execEquinoxBarrier, equinoxBarrier_waits hne hsubs
      ((carryOut_skip hq hc hrx hskip).trans (carrySkip_plain hrx hsubs hbegun)) harr]
  case commit =>
    have hoff : ∀ k, bitB (s.freg FR.RC_CTRL) k = false := fun k => by rw [hrc, bitB_eq_testBit, Nat.zero_testBit]
    have hout := (carryOut_commit hq hc hrx hcommit hset hfails hwc (hoff 1)).trans
      (carryCommit_plain hrx hsubs (hoff 0))
    have hcounted : Counted s ((s.flipLayers layers).count FR.HV_COMMIT_CNT) :=
      (counted_flipLayers _ s).trans (counted_count _ _ _)
    have hcell : ∀ k : Fin 32, FR.HV_COMMIT_CNT ≠ FR.HV_VER k.val := by decide
    have hgood := canon_flipLayers layers s hw
    refine ⟨{ (s.flipLayers layers).count FR.HV_COMMIT_CNT with hv := carriedHv s.hv (if q = .redo then 1 else 0) },
      ?_, rfl, rfl, rfl, fun l hl => ?_, ?_, ?_⟩
    · show execEquinoxBarrier s = _
      rw [execEquinoxBarrier, equinoxBarrier_waits hne hsubs hout]
      rw [hcounted]
      exact harr
    · rw [← verBit_flipLayers hnd s hw]
      have hne' := hcell ⟨l / 32, by omega⟩
      exact congrArg (fun x => b2n (bitB x (l % 32))) (freg_count_other (s.flipLayers layers) 1 hne'.symm)
    · exact (freg_count_self _ _ hgood).trans (by rw [freg_flipLayers hcell hlt])
    · rw [hcounted]
  case opens =>
    generalize hu : State.retireMoment { endedRegs s with hv := {} } = u
    have hcounted := counted_endedRegs s
    have hsame : SameCells s u := ⟨fun d => by rw [← hu, hcounted]; rfl, by rw [← hu]; exact hsubs.symm⟩
    have hsync : u.sync = s.sync := by rw [← hu, hcounted]; rfl
    have harr' : u.allArrived = true := by rw [State.allArrived, hsync]; exact harr
    have hwait : ∀ d, WaitsEqnx u.sync.equinox.gen d u := fun d => by
      obtain ⟨e, he, hrest⟩ := hwaits hall d
      rw [hsync]
      exact ⟨e, hsame.holds he, hrest⟩
    obtain ⟨hcells, hframe⟩ := openBarrier_equinox (v := BitVec.ofNat 64 s.hv.outcome) mem_allCells nodup_allCells
      harr' hwait
    have hclose : s.equinoxBarrier = u.openBarrier .equinox allCells (BitVec.ofNat 64 s.hv.outcome) := by
      rw [equinoxBarrier_closes hq hne hsubs hc harr, closeStep_opens hrx hf, hu]
    rw [← hclose] at hcells hframe
    have hfreg : ∀ a, s.equinoxBarrier.freg a = (endedRegs s).freg a := fun a => by
      rw [hframe, ← hu]; rfl
    obtain ⟨hstep, hstat, hls⟩ := endedRegs_reads hw ho
    refine ⟨s.equinoxBarrier, rfl, ?_, ?_, ?_, fun hheld => ?_, ?_, fun n => ?_, fun d e he => ?_⟩
    · rw [hframe, ← hu]; rfl
    · rw [hfreg]; exact hstep
    · rw [hfreg]; exact hstat
    · rw [hfreg]; exact hls hheld
    · rw [hframe, hsync]; rfl
    · rw [hframe, ← hu, hcounted]
      exact congrArg Slice.retireDue (Vector.getElem_map _ _)
    · rw [← hsame.cell]
      exact hcells d e (by rw [hsame.cell]; exact he)
  case empty =>
    obtain ⟨hgen, hhv, hcells⟩ := openEquinox_faults (v := 0) (f := { cause := 0x73, unit := .hv }) harr (hwaits hall)
    refine ⟨s.equinoxBarrier, rfl, ?_⟩
    rw [equinoxBarrier_empty hd hrx harr]
    refine ⟨hgen, hhv, fun d => ?_⟩
    obtain ⟨e, hwin, hfault⟩ := hcells d
    exact ⟨e, _, hwin, hfault, rfl⟩

end Sys2Proof.Proofs
end
section
/-! What handing frames to the transport can change (R378 to R383): the ports, the power controller where a stack is asked
out of self-refresh, the blocks asked back from the host, and counters. -/

namespace Sys2Proof.Proofs
open Sys2Proof Sys2Proof.Machine Sys2Proof.Laws

/-- The registers in which the transport counts what it sends. -/
def sendRegs : List Nat :=
  [FR.FL_TX_PKT_CNT, FR.FL_CTX_MISS_CNT, FR.CE_CATCHUP_BYTES_CNT, FR.FL_RETX_CNT, FR.HI_BISNP_CNT,
    FR.PWR_WAKE_DEFER_CNT]

/-- State t is state s with what the sending of frames leaves. -/
structure Sends (s t : State) : Prop where
  frame : t =
    { s with fl := t.fl, pw := t.pw, hs := { s.hs with snooped := t.hs.snooped }, fregs := t.fregs, free := t.free }
  regs : FloorRegs sendRegs s t

section
variable {s t u : State}

theorem Sends.refl (s : State) : Sends s s := ⟨rfl, .refl _ s⟩

theorem Sends.trans (h : Sends s t) (g : Sends t u) : Sends s u :=
  ⟨by rw [g.frame, h.frame], h.regs.trans g.regs⟩

theorem Sends.ite {p : Prop} [Decidable p] (h : Sends s t) (g : Sends s u) : Sends s (if p then t else u) := by
  split
  · exact h
  · exact g

theorem Sends.foldl {α : Type} {f : State → α → State} (hf : ∀ s a, Sends s (f s a)) (l : List α) (s : State) :
    Sends s (l.foldl f s) := by
  induction l generalizing s with
  | nil => exact .refl s
  | cons a l ih => exact (hf s a).trans (ih (f s a))

theorem Sends.cells (h : Sends s t) : t.cells = s.cells := by rw [h.frame]
theorem Sends.mem (h : Sends s t) : t.mem = s.mem := by rw [h.frame]
theorem Sends.hv (h : Sends s t) : t.hv = s.hv := by rw [h.frame]
theorem Sends.rx (h : Sends s t) : t.rx = s.rx := by rw [h.frame]
theorem Sends.ce (h : Sends s t) : t.ce = s.ce := by rw [h.frame]

theorem sends_fl (s : State) (x : FlState) : Sends s { s with fl := x } := ⟨rfl, floorRegs_of_eq rfl⟩

theorem sends_count (s : State) {a : Nat} (n : Nat) (h : a ∈ sendRegs) : Sends s (s.count a n) :=
  ⟨rfl, (FloorRegs.refl _ s).count n h⟩

theorem sends_draw (s : State) : Sends s s.draw := ⟨rfl, floorRegs_of_eq rfl⟩

theorem sends_setCtx (s : State) (node : Nat) (x : Ctx) : Sends s (s.setCtx node x) := sends_fl s _

theorem sends_unfull (s : State) (node : Nat) : Sends s (s.unfull node) := sends_fl s _

/-! ### Routes and contexts -/

theorem sends_recall (s : State) (la : Nat) (w : Bool) : Sends s (s.recall la w) :=
  ⟨by rw [recall_frame], (floorRegs_recall s la w).mono (by simp [sendRegs])⟩

theorem sends_requestExit (s : State) (i : Nat) : Sends s (s.requestExit i) := by
  unfold State.requestExit
  extract_lets k
  refine .ite (.refl s) (.ite ⟨rfl, floorRegs_of_eq rfl⟩ ?_)
  exact Sends.trans (t := { s with pw := { s.pw with hbmQ := s.pw.hbmQ ++ [k] } }) ⟨rfl, floorRegs_of_eq rfl⟩
    (sends_count _ 1 (by simp [sendRegs]))

theorem sends_wakeFor (s : State) (la : Nat) : Sends s (s.wakeFor la) := by
  unfold State.wakeFor
  split
  · exact sends_requestExit s _
  · exact .refl s

theorem sends_askRoute (s : State) (node : Nat) : Sends s (s.askRoute node) := by
  unfold State.askRoute
  exact .ite (.refl s) ((sends_recall s _ false).trans (.ite (sends_wakeFor _ _) (.refl _)))

theorem sends_touchCtx (s : State) (node : Nat) : Sends s (s.touchCtx node).1 := by
  unfold State.touchCtx
  have hmiss : FR.FL_CTX_MISS_CNT ∈ sendRegs := by simp [sendRegs]
  split
  · exact sends_fl s _
  · split
    · exact (sends_fl s _).trans (sends_count _ 1 hmiss)
    · split
      · exact (sends_fl s _).trans (sends_count _ 1 hmiss)
      · exact sends_fl s _

/-! ### Frames that leave -/

theorem sends_emit (s : State) (k node psn : Nat) (f : FrameOut) (apsn : Option Nat) : Sends s (s.emit k node psn f
    apsn) := by
  unfold State.emit
  refine (sends_count s 1 (by simp [sendRegs])).trans (.ite (sends_fl _ _) ?_)
  exact (sends_fl _ _).trans (sends_draw _)

theorem sends_emitPlain (s : State) (node : Nat) (f : FrameOut) (apsn : Option Nat) : Sends s (s.emitPlain node f
    apsn) := by
  unfold State.emitPlain
  refine .ite (.refl s) ?_
  split
  · exact sends_emit s _ _ _ _ _
  · exact .refl s

theorem sends_catchup (s : State) (p : Prop) [Decidable p] (n : Nat) :
    Sends s (if p then s.count FR.CE_CATCHUP_BYTES_CNT n else s) :=
  .ite (sends_count s n (by simp [sendRegs])) (.refl s)

theorem sends_resend (s : State) (k node : Nat) (u : Sent) : Sends s (s.resend k node u) := by
  unfold State.resend
  exact ((sends_emit s _ _ _ _ _).trans (sends_count _ 1 (by simp [sendRegs]))).trans (sends_catchup _ _ _)

theorem sends_resendList (node : Nat) (us : List Sent) (s : State) : Sends s (State.resendList node us s).1 := by
  induction us generalizing s with
  | nil => exact .refl s
  | cons u us ih =>
    unfold State.resendList
    split
    · exact (sends_resend s _ node u).trans (ih _)
    · exact ih s

theorem sends_resendDue (s : State) (node : Nat) : Sends s (s.resendDue node) := by
  unfold State.resendDue
  exact .ite ((sends_resendList node _ s).trans (sends_setCtx _ _ _)) (.refl s)

theorem sends_pumpCtx (node fuel : Nat) (s : State) : Sends s (State.pumpCtx node fuel s) := by
  induction fuel generalizing s with
  | zero => exact .refl s
  | succ fuel ih =>
    unfold State.pumpCtx
    extract_lets x
    split
    · refine .ite ?_ (.refl s)
      extract_lets t
      refine .ite (sends_touchCtx s node) ?_
      exact ((((sends_touchCtx s node).trans (sends_emit _ _ _ _ _ _)).trans (sends_catchup _ _ _)).trans
        (sends_setCtx _ _ _)).trans (ih _)
    · exact .refl s

theorem sends_flushNode (s : State) (node : Nat) : Sends s (s.flushNode node) := by
  unfold State.flushNode
  extract_lets s1
  have h1 : Sends s s1 := Sends.trans (.ite (sends_askRoute s node) (.refl s)) (sends_resendDue _ node)
  exact h1.trans (sends_pumpCtx _ _ _)

theorem sends_sendHello (s : State) (node : Nat) : Sends s (s.sendHello node) := by
  unfold State.sendHello
  extract_lets t
  have ht : Sends s t.1 := (sends_askRoute s node).trans (sends_touchCtx _ node)
  exact .ite (ht.trans (sends_emitPlain _ _ _ _)) ht

theorem sends_startHello (s : State) (node : Nat) (queue : List FrameOut) : Sends s (s.startHello node queue) := by
  unfold State.startHello
  exact ((sends_setCtx s _ _).trans (sends_unfull _ _)).trans (sends_sendHello _ _)

theorem sends_sendFrame (s : State) (node : Nat) (f : FrameOut) : Sends s (s.sendFrame node f) := by
  unfold State.sendFrame
  extract_lets x
  refine .ite (.refl s) ?_
  split
  · exact sends_startHello s _ _
  · exact sends_startHello s _ _
  · exact sends_setCtx s _ _
  · exact (sends_setCtx s _ _).trans (sends_flushNode _ _)

theorem sends_sendFrames (s : State) (node : Nat) (fs : List FrameOut) : Sends s (s.sendFrames node fs) :=
  .foldl (fun s f => sends_sendFrame s node f) fs s

theorem sends_ctxUp (s : State) (node : Nat) : Sends s (s.ctxUp node) := by
  unfold State.ctxUp
  exact (sends_setCtx s _ _).trans (sends_flushNode _ _)

theorem sends_dropData (s : State) (i : Inst) : Sends s (s.dropData i) :=
  .foldl (fun s _ => sends_setCtx s _ _) _ s

theorem sends_sendAborts (s : State) (i : Inst) (status rank : Nat) : Sends s (s.sendAborts i status rank) :=
  .foldl (fun s _ => .ite (.refl s) (sends_sendFrame s _ _)) _ s

end

end Sys2Proof.Proofs
end
section
/-! The exchange of fingerprints, the rounds of bisection, and the release of a halted step (R349 to R353). -/

namespace Sys2Proof.Proofs
open Sys2Proof Sys2Proof.Machine Sys2Proof.Laws

/-! ### What stays beside an exchange -/

/-- State t is state s in its cells, in memory and in the Harvest units, and but for the registers ks in its floor
registers. -/
structure Beside (ks : List Nat) (s t : State) : Prop where
  cells : t.cells = s.cells
  mem : t.mem = s.mem
  hv : t.hv = s.hv
  regs : FloorRegs ks s t

section
variable {ks ls : List Nat} {s t u : State}

theorem Beside.refl (ks : List Nat) (s : State) : Beside ks s s := ⟨rfl, rfl, rfl, .refl ks s⟩

theorem Beside.trans (h : Beside ks s t) (g : Beside ks t u) : Beside ks s u :=
  ⟨g.cells.trans h.cells, g.mem.trans h.mem, g.hv.trans h.hv, h.regs.trans g.regs⟩

theorem Beside.mono (h : Beside ks s t) (hl : ks ⊆ ls) : Beside ls s t := ⟨h.cells, h.mem, h.hv, h.regs.mono hl⟩

theorem Sends.beside (h : Sends s t) : Beside sendRegs s t := ⟨h.cells, h.mem, h.hv, h.regs⟩

theorem beside_of_logs (h : Logs s t) (hr : FloorRegs ks s t) : Beside ks s t :=
  ⟨by rw [h], by rw [h], by rw [h], hr⟩

theorem logs_setFreg (s : State) (a v : Nat) : Logs s (s.setFreg a v) := rfl

theorem Logs.rx (h : Logs s t) : t.rx = s.rx := by rw [h]
theorem Logs.ce (h : Logs s t) : t.ce = s.ce := by rw [h]

end

/-! ### The instance of the device's own exchange (R349, R389) -/

section
variable {s t u v : State} {k : Fin 32} {i : Inst} {halt : Bool}

theorem inst_setInst_self (s : State) (k : Fin 32) (i : Option Inst) : (s.setInst k i).inst k = i :=
  Vector.getElem_set_self ..

theorem inst_setInst_other (s : State) {k j : Fin 32} (i : Option Inst) (h : j ≠ k) : (s.setInst k i).inst j =
    s.inst j :=
  Vector.getElem_set_ne k.isLt j.isLt (fun e => h (Fin.ext e.symm))

theorem inst_congr (h : t.ce = s.ce) (j : Fin 32) : t.inst j = s.inst j := by rw [State.inst, h]; rfl

theorem slotOf_congr (h : ∀ j, (t.inst j).map (·.cid) = (s.inst j).map (·.cid)) (cid : Nat) : t.slotOf cid =
    s.slotOf cid := by
  have hp : (fun k => match t.inst k with | some i => i.cid == cid | none => false) =
      fun k => match s.inst k with | some i => i.cid == cid | none => false := by
    funext j
    have hj := h j
    cases ht : t.inst j <;> cases hs : s.inst j <;> rw [ht, hs] at hj <;> simp_all
  exact congrArg (fun p => allSlots.find? p) hp

theorem ownExchange_congr (h : t.ce = s.ce) : t.ownExchange = s.ownExchange := by
  rw [State.ownExchange, slotOf_congr (s := s) (fun j => by rw [inst_congr h]), State.ownExchange]
  cases s.slotOf 4080 with
  | none => rfl
  | some k => rw [Option.bind_some, Option.bind_some, inst_congr h]

theorem own_slot (h : s.ownExchange = some (k, i)) : s.slotOf 4080 = some k ∧ s.inst k = some i := by
  rw [State.ownExchange] at h
  cases hs : s.slotOf 4080 with
  | none => rw [hs] at h; cases h
  | some j =>
    rw [hs, Option.bind_some] at h
    cases hi : s.inst j with
    | none => rw [hi] at h; cases h
    | some a =>
      rw [hi] at h
      simp only [Option.map_some, Option.some.injEq, Prod.mk.injEq] at h
      obtain ⟨rfl, rfl⟩ := h
      exact ⟨rfl, hi⟩

theorem own_isOwn (h : s.ownExchange = some (k, i)) : i.isOwn = true := by
  obtain ⟨hslot, hi⟩ := own_slot h
  have hc := List.find?_some hslot
  simp only [hi, beq_iff_eq] at hc
  rw [Inst.isOwn, hc]
  rfl

/-- The registers that the end of an instance counts in. -/
def closeRegs : List Nat := [FR.CE_DONE_CNT, FR.CE_ABORT_CNT, FR.CE_STATUS] ++ eventRegs 0 ++ eventRegs 3

theorem event0_close : eventRegs 0 ⊆ closeRegs := fun _ h => by simp [closeRegs, h]
theorem event3_close : eventRegs 3 ⊆ closeRegs := fun _ h => by simp [closeRegs, h]

/-- What is left of an instance that has ended and is closed: its slot is free. -/
structure Closed (ks : List Nat) (k : Fin 32) (s t : State) : Prop where
  beside : Beside ks s t
  slot : t.inst k = none
  others : ∀ j, j ≠ k → t.inst j = s.inst j
  mine : t.ce.mine = s.ce.mine
  waitQ : t.ce.waitQ = s.ce.waitQ
  rx : t.rx = s.rx

theorem closeInst_closed (s : State) (k : Fin 32) (status rank : Nat) (word : StatusWord) (nf : Bool)
    (hv : i.harvest = false) : Closed closeRegs k s (s.closeInst k i status rank word nf) := by
  unfold State.closeInst
  extract_lets who s1 s2 s3 s4 s5
  have h1 : Logs s s1 ∧ FloorRegs closeRegs s s1 := by
    dsimp only [s1]
    split
    · exact ⟨.refl s, .refl _ s⟩
    · exact ⟨logs_logEvent _ _ _ _ _ _ _, (floorRegs_logEvent _ _ _ _ _ _ _).mono event0_close⟩
  have h2 : Logs s s2 ∧ FloorRegs closeRegs s s2 := by
    dsimp only [s2]
    split
    · exact ⟨h1.1.count _ _, h1.2.count 1 (by simp [closeRegs])⟩
    · split
      · exact h1
      · exact ⟨((h1.1.count _ _).orFreg _ _).trans (logs_logEvent _ _ _ _ _ _ _),
          ((h1.2.count 1 (by simp [closeRegs])).orFreg 2 (by simp [closeRegs])).trans
            ((floorRegs_logEvent _ _ _ _ _ _ _).mono event3_close)⟩
  have h3 : Logs s s3 ∧ FloorRegs closeRegs s s3 := by
    dsimp only [s3]
    split
    · exact ⟨h2.1.hostEvent 2, h2.2.trans (floorRegs_hostEvent _ 2 (by simp [closeRegs, eventRegs]))⟩
    · exact h2
  obtain ⟨hlogs, hregs⟩ := h3
  clear_value s3
  have hce := hlogs.ce
  rw [hv]
  simp only [Bool.false_and, Bool.false_eq_true, if_false]
  have hb := beside_of_logs hlogs hregs
  exact
    { beside := ⟨hb.cells, hb.mem, hb.hv, hregs.trans (floorRegs_of_eq rfl)⟩
      slot := inst_setInst_self s3 k none
      others := fun j hj => (inst_setInst_other s3 none hj).trans (inst_congr hce j)
      mine := by show s3.ce.mine = s.ce.mine; rw [hce]
      waitQ := by show s3.ce.waitQ = s.ce.waitQ; rw [hce]
      rx := hlogs.rx }

/-- With nothing that waits for a slot, a freed one starts nothing. -/
theorem pumpSlots_none (hm : s.ce.mine = none) (hq : s.ce.waitQ = []) : s.pumpSlots = s := by
  have hown : s.startOwn = s := by rw [State.startOwn, hm]
  rw [State.pumpSlots, hown, hq]
  rfl

/-- The replica checks once an exchange has ended. -/
def endedRx (r : RxState) (halt : Bool) : RxState := { r with phase := if halt then .halted else .passed, work := [] }

theorem endExchange_rx (s : State) (halt : Bool) : (s.endExchange halt).rx = endedRx s.rx halt := by
  cases halt with
  | false => rfl
  | true => exact ((Logs.refl _).hostEvent 4).rx

theorem endExchange_ce (s : State) (halt : Bool) : (s.endExchange halt).ce = s.ce := by
  cases halt with
  | false => rfl
  | true => exact ((Logs.refl _).hostEvent 4).ce

theorem beside_endExchange (s : State) (halt : Bool) : Beside [FR.HI_EVT] s (s.endExchange halt) := by
  cases halt with
  | false => exact ⟨rfl, rfl, rfl, floorRegs_of_eq rfl⟩
  | true =>
    have h := beside_of_logs (ks := [FR.HI_EVT]) ((Logs.refl { s with rx := endedRx s.rx true }).hostEvent 4)
      (floorRegs_hostEvent _ 4 (by simp))
    exact ⟨h.cells, h.mem, h.hv, FloorRegs.trans (t := { s with rx := endedRx s.rx true }) (floorRegs_of_eq rfl) h.regs⟩

/-- What is left of an exchange that has ended, with its slot free. -/
structure ExchangeOver (ks : List Nat) (k : Fin 32) (halt : Bool) (s t : State) : Prop where
  beside : Beside ks s t
  slot : t.inst k = none
  others : ∀ j, j ≠ k → t.inst j = s.inst j
  rx : t.rx = endedRx s.rx halt

theorem hiEvt_close : [FR.HI_EVT] ⊆ closeRegs := by simp [closeRegs, eventRegs]

theorem passExchange_over (hown : s.ownExchange = some (k, i)) (hv : i.harvest = false) (hm : s.ce.mine = none)
    (hq : s.ce.waitQ = []) (halt : Bool) : ExchangeOver closeRegs k halt s (s.passExchange halt) := by
  rw [State.passExchange, hown]
  have hc := closeInst_closed s k 0 0xFFFFFFFF {} false hv
  dsimp only
  generalize s.closeInst k i 0 0xFFFFFFFF {} false = t at hc
  have hce := endExchange_ce t halt
  rw [pumpSlots_none (by rw [hce, hc.mine, hm]) (by rw [hce, hc.waitQ, hq])]
  exact
    { beside := hc.beside.trans ((beside_endExchange t halt).mono hiEvt_close)
      slot := (inst_congr hce k).trans hc.slot
      others := fun j hj => (inst_congr hce j).trans (hc.others j hj)
      rx := by rw [endExchange_rx, hc.rx] }

/-! ### The exchange (R349, R350) -/

section
variable {others : List ExRecord} {fps : List Nat} {rs : List ExRecord}

/-- The records of an exchange by rank, with this chip's own. -/
def exchanged (v : State) (me : Nat) (fps : List Nat) (others : List ExRecord) : List ExRecord :=
  (v.ownRecord me fps :: others.filter (fun r => r.rank != me)).foldl (fun l r => insertRank r l) []

/-- The work of a bisection. -/
def bisectWork (v : State) (rs : List ExRecord) : List Bisect :=
  (divergedLayers rs v.layerCnt).map (fun e =>
    { layer := e.1, lo := 0, n := v.layerGroups e.1, ref := e.2, ranks := rs.map (·.rank)
      crcs := rs.map (fun r => (r.rank, wordOf e.1 r)) })

theorem exec_exchange (aborted : Option Nat) :
    exec (.fingerprintExchange others aborted) s = .next (s.exchange others aborted) := rfl

theorem exchange_inStep (hphase : s.rx.phase = .exchanging) (hown : s.ownExchange = some (k, i))
    (hfps : s.pendingFps = .ok v fps) (hrs : exchanged v i.me fps others = rs) (hall : rs.all (inStep rs) = true) :
    s.exchange others none = match divergedLayers rs v.layerCnt with
      | [] => v.passExchange false
      | _ => { v with rx := { v.rx with phase := .bisecting, work := bisectWork v rs, repaired := [] } } := by
  have hgood : rs.filter (inStep rs) = rs := List.filter_eq_self.2 (List.all_eq_true.1 hall)
  have hout : rs.filter (fun r => !inStep rs r) = [] := by
    rw [List.filter_eq_nil_iff]
    intro r hr
    simp [List.all_eq_true.1 hall r hr]
  rw [exchanged] at hrs
  simp only [State.exchange, hphase, ne_eq, not_true_eq_false, if_false, hown, hfps, hrs, hgood, hout, List.isEmpty_nil,
    if_true, List.foldl_nil, bisectWork]
  cases divergedLayers rs v.layerCnt <;> rfl

theorem bisectWork_layers (v : State) (rs : List ExRecord) :
    (bisectWork v rs).map (fun w => (w.layer, w.ref)) = divergedLayers rs v.layerCnt := by
  rw [bisectWork, List.map_map]
  exact List.map_id _

theorem bisectWork_whole (v : State) (rs : List ExRecord) : ∀ w ∈ bisectWork v rs,
    w.lo = 0 ∧ w.n = v.layerGroups w.layer ∧ w.ranks = rs.map (·.rank) ∧
      w.crcs = rs.map (fun r => (r.rank, wordOf w.layer r)) := by
  intro w hw
  obtain ⟨e, -, rfl⟩ := List.mem_map.1 hw
  exact ⟨rfl, rfl, rfl, rfl⟩

end

/-! ### An exchange that is aborted (R353) -/

/-- The registers that an exchange that is aborted writes. -/
def abortRegs : List Nat := sendRegs ++ closeRegs ++ [FR.RC_STATUS]

theorem send_abort : sendRegs ⊆ abortRegs := fun _ h => by simp [abortRegs, h]
theorem close_abort : closeRegs ⊆ abortRegs := fun _ h => by simp [abortRegs, h]

theorem abortExchange_over (hphase : s.rx.phase = .exchanging) (hw : FGood s.fregs) (status : Nat) :
    let t := s.abortExchange status
    Beside (FR.RC_STATUS :: closeRegs) s t ∧ t.ce = s.ce ∧ t.rx = endedRx s.rx (s.rcPolicy == 2) ∧
      bitB (t.freg FR.RC_STATUS) 9 = true := by
  generalize hu : (s.orFreg FR.RC_STATUS (2 ^ 9)).logEvent 0x0503 0 0 0 status 0 = u
  have hlogs : Logs s u := hu ▸ ((Logs.refl s).orFreg _ _).trans (logs_logEvent _ _ _ _ _ _ _)
  have hregs : FloorRegs (FR.RC_STATUS :: closeRegs) s u := hu ▸ ((FloorRegs.refl _ s).orFreg _ (by simp)).trans
    ((floorRegs_logEvent _ _ _ _ _ _ _).mono (fun _ h => .tail _ (event0_close h)))
  have hbit : bitB (u.freg FR.RC_STATUS) 9 = true := by
    rw [← hu, (floorRegs_logEvent _ _ _ _ _ _ _).freg _ (by decide)]
    exact bitB_orFreg_self _ (by decide) hw
  have ht : s.abortExchange status = u.endExchange (s.rcPolicy == 2) := by
    rw [State.abortExchange, if_pos (.inl hphase)]
    exact congrArg (fun x : State => x.endExchange (s.rcPolicy == 2)) hu
  intro t
  have htt : t = u.endExchange (s.rcPolicy == 2) := ht
  have hend := beside_endExchange u (s.rcPolicy == 2)
  rw [htt]
  refine ⟨(beside_of_logs hlogs hregs).trans (hend.mono (by simp [closeRegs, eventRegs])), ?_, ?_, ?_⟩
  · rw [endExchange_ce, hlogs.ce]
  · rw [endExchange_rx, hlogs.rx]
  · rw [hend.regs.freg _ (by decide)]
    exact hbit

theorem exchangeAborted_over (hphase : s.rx.phase = .exchanging) (hown : s.ownExchange = some (k, i))
    (hv : i.harvest = false) (hm : s.ce.mine = none) (hq : s.ce.waitQ = []) (hend : i.ended = none) (hgot : i.got =
      false)
    (hw : FGood s.fregs) (status : Nat) :
    let t := s.exchangeAborted status
    ExchangeOver abortRegs k (s.rcPolicy == 2) s t ∧ bitB (t.freg FR.RC_STATUS) 9 = true := by
  have hisOwn := own_isOwn hown
  obtain ⟨-, hinst⟩ := own_slot hown
  generalize hj : ({ i with ended := some (status, i.me), bytes := i.bytes - s.queuedBytes i } : Inst) = j
  have hjown : j.isOwn = true := by rw [← hj]; exact hisOwn
  have hjv : j.harvest = false := by rw [← hj]; exact hv
  have hjgot : j.got = false := by rw [← hj]; exact hgot
  generalize hu : (((s.setInst k (some j)).dropData j).sendAborts j status i.me) = u
  have hsends : Sends (s.setInst k (some j)) u := hu ▸ (sends_dropData _ j).trans (sends_sendAborts _ j _ _)
  have hbeside : Beside sendRegs s u :=
    ⟨hsends.cells, hsends.mem, hsends.hv, FloorRegs.trans (t := s.setInst k (some j)) (floorRegs_of_eq rfl) hsends.regs⟩
  have hspoil : u.spoilDst j = u := by rw [State.spoilDst, hjown]; simp
  generalize hx : ({ j with ended := some (status, i.me), word := abortWord j.layer, nf := false } : Inst) = x
  have hend' : u.endInst k j status i.me (abortWord j.layer) false = u.closeInst k x status i.me (abortWord j.layer)
    false := by
    subst hx
    unfold State.endInst
    simp only [hjgot, Bool.not_false, Bool.or_true, if_true]
  have hclosed := closeInst_closed u k status i.me (abortWord j.layer) false (i := x) (by rw [← hx]; exact hjv)
  generalize hc : u.closeInst k x status i.me (abortWord j.layer) false = c at hclosed
  have hcw : FGood c.fregs := hclosed.beside.regs.canon (hbeside.regs.canon hw)
  have hcrx : c.rx = s.rx := by rw [hclosed.rx, hsends.rx]; rfl
  have hpol : c.rcPolicy = s.rcPolicy := by
    rw [State.rcPolicy, hclosed.beside.regs.freg FR.RC_CTRL (by decide), hbeside.regs.freg FR.RC_CTRL (by decide),
      State.rcPolicy]
  obtain ⟨habeside, hace, harx, habit⟩ := abortExchange_over (s := c) (by rw [hcrx]; exact hphase) hcw status
  have habort : s.abortInst k status i.me = c.abortExchange status := by
    unfold State.abortInst
    rw [hinst]
    simp only [hend, Option.isSome_none, Bool.false_eq_true, if_false]
    rw [hj, hu, hspoil, hend', hc, hjown, if_pos rfl]
  have ht : s.exchangeAborted status = c.abortExchange status := by
    rw [State.exchangeAborted, hown]
    dsimp only
    rw [habort, pumpSlots_none]
    · rw [hace, hclosed.mine, hsends.ce]; exact hm
    · rw [hace, hclosed.waitQ, hsends.ce]; exact hq
  intro t
  have htt : t = c.abortExchange status := ht
  rw [htt]
  refine ⟨⟨?_, ?_, fun l hl => ?_, ?_⟩, habit⟩
  · exact ((hbeside.mono send_abort).trans (hclosed.beside.mono close_abort)).trans
      (habeside.mono (List.cons_subset.2 ⟨by simp [abortRegs], close_abort⟩))
  · exact (inst_congr hace k).trans hclosed.slot
  · rw [inst_congr hace, hclosed.others l hl, inst_congr hsends.ce, inst_setInst_other _ _ hl]
  · rw [harx, hcrx, hpol]

/-! ### Release (R352) -/

section
variable {o : Origin}

theorem writeReg_release (h : Reaches o s FR.RC_RELEASE) {v : Nat} (hv : v < 4) :
    s.writeReg o FR.RC_RELEASE 4 v = (s.release v).goOn := by
  have hem : v % 2 ^ 32 &&& lowHalf = v := by
    have hall : ∀ w < 4, w % 2 ^ 32 &&& lowHalf = w := by decide
    exact hall v hv
  rw [writeReg_word h (by decide +kernel) (by decide) (by decide +kernel) (by decide)]
  refine (writeFloor_action (r := (floorReg FR.RC_RELEASE).get (by decide +kernel)) (by simp) (by decide +kernel) _
    _ _).trans ?_
  rw [hem]
  rfl

theorem still_rx (h : Still s) (r : RxState) : Still { s with rx := r } := ⟨h.empty, h.done, h.settled⟩

theorem still_fregs (h : Still s) (R : SMap Word) : Still { s with fregs := R } := ⟨h.empty, h.done, h.settled⟩

theorem writeReg_released (h : Reaches o s FR.RC_RELEASE) (hs : Still s) (hphase : s.rx.phase = .halted)
    (hnone : s.rx.release = none) {a : Nat} (ha : a = 1 ∨ a = 2) :
    s.writeReg o FR.RC_RELEASE 4 a = { s with rx := { s.rx with release := some (a == 1) } } := by
  have hrel : s.release a = { s with rx := { s.rx with release := some (a == 1) } } := by
    rcases ha with rfl | rfl
    · rw [State.release, hphase, hnone]; rfl
    · rw [State.release, hphase, hnone]; rfl
  rw [writeReg_release h (by omega), hrel, goOn_still (still_rx hs _)]

theorem writeReg_unreleased (h : Reaches o s FR.RC_RELEASE) (hs : Still s)
    (hno : s.rx.phase ≠ .halted ∨ s.rx.release ≠ none) {a : Nat} (ha : a < 4) :
    s.writeReg o FR.RC_RELEASE 4 a = s.orFreg FR.RC_STATUS 8 := by
  have hrel : s.release a = s.orFreg FR.RC_STATUS 8 := by
    rw [State.release]
    refine if_neg fun hc => ?_
    simp only [Bool.and_eq_true, decide_eq_true_eq, Option.isNone_iff_eq_none] at hc
    rcases hno with hno | hno
    · exact hno hc.1.1
    · exact hno hc.1.2
  rw [writeReg_release h ha, hrel]
  exact goOn_still (still_fregs hs _)

end

/-! ### Rounds of bisection (R351) -/

section
variable {w b : Bisect} {ws : List (Nat × List Nat)} {r : RoundIn} {own : List Nat}

theorem ceilDiv_parts {n p j : Nat} (hp : 0 < p) (hj : j < ceilDiv n p) : j * p < n := by
  rw [ceilDiv, Nat.lt_div_iff_mul_lt hp] at hj
  have := Nat.mul_comm p j
  omega

/-- The next range is a part of the last. -/
theorem nextRange_within (hn : 1 < w.n) (h : nextRange w ws = some b) :
    b.layer = w.layer ∧ b.ref = w.ref ∧ w.lo ≤ b.lo ∧ b.lo + b.n ≤ w.lo + w.n ∧ b.n ≤ partSize w.n ∧ 0 < b.n := by
  have hp : 0 < partSize w.n := by
    rw [partSize, ceilDiv]
    omega
  unfold nextRange at h
  extract_lets a p at h
  split at h
  case h_2 => cases h
  case h_1 j hj =>
    have hlt : j * p < w.n := ceilDiv_parts hp (List.mem_range.1 (List.mem_of_find?_eq_some hj))
    simp only [Option.some.injEq] at h
    subst h
    have hp' : 0 < p := hp
    refine ⟨rfl, rfl, Nat.le_add_right _ _, ?_, Nat.min_le_left _ _, ?_⟩
    · have := Nat.min_le_right p (w.n - j * p)
      show w.lo + j * p + min p (w.n - j * p) ≤ w.lo + w.n
      omega
    · show 0 < min p (w.n - j * p)
      omega

/-- This chip's words sent on leave its instance in its slot. -/
structure OwnSent (k : Fin 32) (i : Inst) (s t : State) : Prop where
  beside : Beside sendRegs s t
  rx : t.rx = s.rx
  mine : t.ce.mine = s.ce.mine
  waitQ : t.ce.waitQ = s.ce.waitQ
  others : ∀ j, j ≠ k → t.inst j = s.inst j
  own : ∃ x, t.ownExchange = some (k, x) ∧ x.harvest = i.harvest

theorem ownSent_sendOwn (hown : s.ownExchange = some (k, i)) (ranks : List Nat) (bs : List Byte) :
    OwnSent k i s (s.sendOwn ranks bs) := by
  obtain ⟨hslot, hinst⟩ := own_slot hown
  unfold State.sendOwn
  rw [hown]
  dsimp -zeta only
  extract_lets rs off j fs
  have hcid : j.cid = i.cid := rfl
  have hhv : j.harvest = i.harvest := rfl
  clear_value j
  have hsends : Sends (s.setInst k (some j)) (rs.foldl (fun s r => s.sendFrames (j.nodes.getD r 0) fs) (s.setInst k
    (some j))) :=
    .foldl (fun s _ => sends_sendFrames s _ fs) rs _
  generalize rs.foldl (fun s r => s.sendFrames (j.nodes.getD r 0) fs) (s.setInst k (some j)) = t at hsends ⊢
  have hslots : (s.setInst k (some j)).slotOf 4080 = some k := by
    rw [slotOf_congr (s := s) (fun l => ?_)]
    · exact hslot
    · by_cases hl : l = k
      · subst hl
        rw [inst_setInst_self, hinst, Option.map_some, Option.map_some, hcid]
      · rw [inst_setInst_other _ _ hl]
  have hownj : (s.setInst k (some j)).ownExchange = some (k, j) := by
    rw [State.ownExchange, hslots, Option.bind_some, inst_setInst_self]
    rfl
  exact
    { beside := ⟨hsends.cells, hsends.mem, hsends.hv, FloorRegs.trans (t := s.setInst k (some j)) (floorRegs_of_eq rfl) hsends.regs⟩
      rx := hsends.rx
      mine := by rw [hsends.ce]; rfl
      waitQ := by rw [hsends.ce]; rfl
      others := fun l hl => (inst_congr hsends.ce l).trans (inst_setInst_other _ _ hl)
      own := ⟨j, (ownExchange_congr hsends.ce).trans hownj, hhv⟩ }

theorem ownSent_gatherOwn (hown : s.ownExchange = some (k, i)) (me : Nat) (w : Bisect) (bs : List Byte) :
    OwnSent k i s (s.gatherOwn me w bs) := by
  unfold State.gatherOwn
  split
  · exact ownSent_sendOwn hown _ _
  · exact ⟨.refl _ s, rfl, rfl, rfl, fun _ _ => rfl, i, hown, rfl⟩

/-- A round over one layer whose range is more than one group. -/
theorem bisect_narrows {a : List Nat} {z : State} (hphase : s.rx.phase = .bisecting) (hab : r.aborted = none)
    (hown : s.ownExchange = some (k, i)) (hwork : s.rx.work = [w]) (hn : 1 < w.n) (hread : s.ownWords w = .ok z a)
    (hu : (z.count FR.RC_BISECT_CNT).ownWords w = .ok u own) (hrx : u.rx = s.rx) (hce : u.ce = s.ce)
    (hnext : nextRange w (roundWords i.me own w r) = some b) :
    s.bisect r = { (if i.me ∈ w.ranks then u.sendOwn w.ranks (own.flatMap (leBytes 4)) else u) with
      rx := { s.rx with work := [b] } } := by
  have hgather : u.gatherOwn i.me w (own.flatMap (leBytes 4)) =
      if i.me ∈ w.ranks then u.sendOwn w.ranks (own.flatMap (leBytes 4)) else u := by
    simp only [State.gatherOwn, List.contains_iff_mem]
  have hgrx := (ownSent_gatherOwn ((ownExchange_congr hce).trans hown) i.me w (own.flatMap (leBytes 4))).rx.trans hrx
  rw [hgather] at hgrx
  generalize (if i.me ∈ w.ranks then u.sendOwn w.ranks (own.flatMap (leBytes 4)) else u) = g at hgather hgrx ⊢
  have hall : State.narrowAll i.me r [w] (z.count FR.RC_BISECT_CNT) = (g, [b]) := by
    simp only [State.narrowAll, Nat.not_le.2 hn, if_false, State.narrow, hu, HRes.bind, hnext, hgather, List.append_nil]
  have hwords : State.wordsRead [w] s = .ok z () := by
    simp only [State.wordsRead, hn, if_true, hread, HRes.bind]
  have htake : List.take 16 [w] = [w] := rfl
  have hdrop : List.drop 16 [w] = [] := rfl
  simp only [State.bisect, hphase, ne_eq, not_true_eq_false, if_false, hab, hown, hwork, htake, hdrop, List.any_cons,
    List.any_nil, hn, decide_true, Bool.or_false, if_true, hwords, hall, List.append_nil, List.isEmpty_cons,
    Bool.false_eq_true, hgrx]

/-! ### A group that differs is located (R351) -/

/-- The registers in which a located group is noted. -/
def divRegs : List Nat := [FR.RC_STATUS, FR.RC_DIV_CNT, FR.RC_DIV_INFO] ++ eventRegs 2

/-- The kinds of a layer's tensors are distinct ones of four, so that a mask of them has four bits. -/
theorem kindMask_lt (e : Entry) (scope : Nat) (p : Nat → Prop) [DecidablePred p] :
    ((List.range (Entry.kinds e scope).length).map (fun i => if p i then 2 ^ (Entry.kinds e scope).getD i 0 else
      0)).sum < 16 := by
  have hle : ∀ ks : List Nat, ((List.range ks.length).map (fun i => if p i then 2 ^ ks.getD i 0 else 0)).sum ≤
      ((List.range ks.length).map (fun i => 2 ^ ks.getD i 0)).sum := fun ks =>
    List.sum_le_sum fun i _ => by split <;> simp
  refine (hle _).trans_lt ?_
  unfold Entry.kinds
  split <;> split <;> split <;> decide

/-- What RC_DIV_INFO says of a located group. -/
def divInfo (w : Bisect) (kinds : Nat) : Nat := 2 ^ 63 + kinds * 2 ^ 58 + w.layer % 1024 * 2 ^ 48 + w.lo % 2 ^ 48

theorem divInfo_fields (w : Bisect) {m : Nat} (hm : m < 16) :
    divInfo w m < 2 ^ 64 ∧ bitB (divInfo w m) 63 = true ∧ bits (divInfo w m) 57 48 = w.layer % 1024 ∧
      bits (divInfo w m) 47 0 = w.lo % 2 ^ 48 := by
  have hl := Nat.mod_lt w.layer (by decide : 0 < 1024)
  have hlo := Nat.mod_lt w.lo (by decide : 0 < 2 ^ 48)
  generalize hx : divInfo w m = x
  rw [divInfo] at hx
  generalize w.layer % 1024 = l at *
  generalize w.lo % 2 ^ 48 = q at *
  simp only [bitB, bits, Nat.shiftRight_eq_div_pow, beq_iff_eq]
  simp only [Nat.reducePow, Nat.reduceAdd, Nat.reduceSub] at *
  omega

/-- A located group counted. -/
def divCounted (s : State) : State := (s.orFreg FR.RC_STATUS (2 ^ 5)).count FR.RC_DIV_CNT

/-- A located group shown in RC_DIV_INFO, where that is free. -/
def divShown (s : State) (w : Bisect) (m : Nat) : State :=
  if bitB (s.freg FR.RC_DIV_INFO) 63 then s else s.setFreg FR.RC_DIV_INFO (divInfo w m)

theorem divCounted_reads (hw : FGood s.fregs) :
    (divCounted s).freg FR.RC_DIV_CNT = (s.freg FR.RC_DIV_CNT + 1) % 2 ^ 64 ∧
      bitB ((divCounted s).freg FR.RC_STATUS) 5 = true ∧
      (divCounted s).freg FR.RC_DIV_INFO = s.freg FR.RC_DIV_INFO := by
  have h1w : FGood (s.orFreg FR.RC_STATUS (2 ^ 5)).fregs := (keepsFloor_orFreg _ _ _).canon hw
  unfold divCounted
  refine ⟨?_, ?_, ?_⟩
  · rw [freg_count_self _ _ h1w, freg_orFreg_other _ _ (by decide)]
  · rw [freg_count_other _ _ (by decide)]
    exact bitB_orFreg_self _ (by decide) hw
  · rw [freg_count_other _ _ (by decide), freg_orFreg_other _ _ (by decide)]

theorem divShown_reads (hw : FGood s.fregs) {m : Nat} (hm : m < 16) :
    (∀ a, a ≠ FR.RC_DIV_INFO → (divShown s w m).freg a = s.freg a) ∧
      (divShown s w m).freg FR.RC_DIV_INFO =
        if bitB (s.freg FR.RC_DIV_INFO) 63 then s.freg FR.RC_DIV_INFO else divInfo w m := by
  have hlt := (divInfo_fields w hm).1
  unfold divShown
  generalize divInfo w m = x at *
  split
  · exact ⟨fun _ _ => rfl, rfl⟩
  · exact ⟨fun a ha => freg_setFreg_other _ _ ha, (freg_setFreg_self _ _ _ hw).trans (Nat.mod_eq_of_lt hlt)⟩

/-- A record for each divergent rank. -/
theorem logs_ranks (w : Bisect) (info : Nat) (ranks : List Nat) (v : State) :
    Logs v (ranks.foldl (fun s k => s.logEvent 0x0502 w.layer 2 0 info k) v) ∧
      FloorRegs (eventRegs 2) v (ranks.foldl (fun s k => s.logEvent 0x0502 w.layer 2 0 info k) v) := by
  induction ranks generalizing v with
  | nil => exact ⟨.refl v, .refl _ v⟩
  | cons a l ih =>
    obtain ⟨hl, hr⟩ := ih (v.logEvent 0x0502 w.layer 2 0 info a)
    exact ⟨(logs_logEvent _ _ _ _ _ _ _).trans hl, (floorRegs_logEvent _ _ _ _ _ _ _).trans hr⟩

theorem noteDivergence_noted (hw : FGood s.fregs) {m : Nat} (hm : m < 16) (ranks : List Nat) :
    let t := s.noteDivergence w m ranks
    Beside divRegs s t ∧ t.rx = s.rx ∧ t.ce = s.ce ∧ t.freg FR.RC_DIV_CNT = (s.freg FR.RC_DIV_CNT + 1) % 2 ^ 64 ∧
      bitB (t.freg FR.RC_STATUS) 5 = true ∧
      t.freg FR.RC_DIV_INFO = if bitB (s.freg FR.RC_DIV_INFO) 63 then s.freg FR.RC_DIV_INFO else divInfo w m := by
  have hlogs1 : Logs s (divCounted s) := ((Logs.refl s).orFreg _ _).count _ _
  have hregs1 : FloorRegs divRegs s (divCounted s) :=
    ((FloorRegs.refl _ s).orFreg _ (by simp [divRegs])).count _ (by simp [divRegs])
  obtain ⟨hcnt1, hstat1, hinfo1⟩ := divCounted_reads hw
  have ht : s.noteDivergence w m ranks =
      ranks.foldl (fun s k => s.logEvent 0x0502 w.layer 2 0 (divInfo w m) k) (divShown (divCounted s) w m) := rfl
  generalize divCounted s = u at *
  have hlogs2 : Logs u (divShown u w m) := .ite (.refl u) (logs_setFreg u _ _)
  have hregs2 : FloorRegs divRegs u (divShown u w m) :=
    .ite (.refl _ u) ((FloorRegs.refl _ u).setFreg _ (by simp [divRegs]))
  obtain ⟨hkept, hinfo2⟩ := divShown_reads (s := u) (w := w) (hregs1.canon hw) hm
  generalize divShown u w m = v at *
  obtain ⟨hlogs3, hregs3⟩ := logs_ranks w (divInfo w m) ranks v
  rw [← ht] at hlogs3 hregs3
  intro t
  have hlogs : Logs s t := (hlogs1.trans hlogs2).trans hlogs3
  refine ⟨beside_of_logs hlogs ((hregs1.trans hregs2).trans (hregs3.mono (List.subset_append_right _ _))), hlogs.rx,
    hlogs.ce,
    ?_, ?_, ?_⟩
  · rw [hregs3.freg _ (by decide), hkept _ (by decide), hcnt1]
  · rw [hregs3.freg _ (by decide), hkept _ (by decide), hstat1]
  · rw [hregs3.freg _ (by decide), hinfo2, hinfo1]

/-- The kinds in which some member's words of a round differ from the reference's. -/
def differs (e : Entry) (scope : Nat) (w : Bisect) (ws : List (Nat × List Nat)) : Nat :=
  ((List.range (Entry.kinds e scope).length).map (fun i =>
    if ws.any (fun t => t.2.getD i 0 != (refWords w ws).getD i 0) then 2 ^ (Entry.kinds e scope).getD i 0 else 0)).sum

/-- The ranks whose CRC of the group is not the reference's. -/
def divergent (w : Bisect) : List Nat :=
  let crc (k : Nat) : Nat := ((w.crcs.find? (fun c => c.1 == k)).map (·.2)).getD 0
  w.ranks.filter (fun k => crc k != crc w.ref)

theorem locate_noted {d : Delivered} (hd : s.deliveryOf w.layer = some d) (hread : s.ownWords w = .ok u own)
    (hpol : (u.gatherOwn i.me w (own.flatMap (leBytes 4))).rcPolicy ≠ 1) :
    let g := u.gatherOwn i.me w (own.flatMap (leBytes 4))
    s.locate i.me w r =
      .ok (g.noteDivergence w (differs d.entry g.rcScope w (roundWords i.me own w r)) (divergent w)) none := by
  simp only [State.locate, hd, hread, HRes.bind, ne_eq, hpol, not_false_eq_true, if_true, differs, divergent]

theorem bisect_locates (hphase : s.rx.phase = .bisecting) (hab : r.aborted = none)
    (hown : s.ownExchange = some (k, i)) (hwork : s.rx.work = [w]) (hn : w.n ≤ 1) {v : State}
    (hloc : s.locate i.me w r = .ok v none) :
    s.bisect r = State.passExchange { v with rx := { v.rx with work := [] } } (v.rcPolicy == 2) := by
  have hall : State.locateAll i.me r [w] [] s = (v, []) := by
    simp only [State.locateAll, hloc]
  have htake : List.take 16 [w] = [w] := rfl
  have hdrop : List.drop 16 [w] = [] := rfl
  simp only [State.bisect, hphase, ne_eq, not_true_eq_false, if_false, hab, hown, hwork, htake, hdrop, List.any_cons,
    List.any_nil, Nat.not_lt.2 hn, decide_false, Bool.or_false, Bool.false_eq_true, hall, List.append_nil,
    List.isEmpty_nil, if_true]
  rfl

/-- A located group is noted, and as the policy repairs nothing the step is halted or passes. -/
theorem bisect_located {d : Delivered} (hphase : s.rx.phase = .bisecting) (hab : r.aborted = none)
    (hown : s.ownExchange = some (k, i)) (hwork : s.rx.work = [w]) (hrx : u.rx = s.rx) (hce : u.ce = s.ce) (hn : w.n
      ≤ 1)
    (hread : s.ownWords w = .ok u own) (hd : s.deliveryOf w.layer = some d) (hpol : u.rcPolicy ≠ 1)
    (hv : i.harvest = false) (hm : s.ce.mine = none) (hq : s.ce.waitQ = []) (hw : FGood u.fregs) :
    let t := s.bisect r
    t.inst k = none ∧ t.rx = { s.rx with phase := if u.rcPolicy = 2 then .halted else .passed, work := [] } ∧
      t.freg FR.RC_DIV_CNT = (u.freg FR.RC_DIV_CNT + 1) % 2 ^ 64 ∧ bitB (t.freg FR.RC_STATUS) 5 = true ∧
      (∃ m < 16, t.freg FR.RC_DIV_INFO = if bitB (u.freg FR.RC_DIV_INFO) 63 then u.freg FR.RC_DIV_INFO else divInfo
        w m) ∧
      t.cells = u.cells ∧ t.mem = u.mem ∧ t.hv = u.hv := by
  have hg := ownSent_gatherOwn ((ownExchange_congr hce).trans hown) i.me w (own.flatMap (leBytes 4))
  have hloc : (u.gatherOwn i.me w (own.flatMap (leBytes 4))).rcPolicy ≠ 1 → s.locate i.me w r =
      .ok ((u.gatherOwn i.me w (own.flatMap (leBytes 4))).noteDivergence w (differs d.entry
        (u.gatherOwn i.me w (own.flatMap (leBytes 4))).rcScope w (roundWords i.me own w r)) (divergent w)) none :=
    fun hp => locate_noted hd hread hp
  generalize u.gatherOwn i.me w (own.flatMap (leBytes 4)) = g at hg hloc
  have hgfreg : ∀ a, a ∉ sendRegs → g.freg a = u.freg a := hg.beside.regs.freg
  have hgpol : g.rcPolicy = u.rcPolicy := by rw [State.rcPolicy, hgfreg _ (by decide), State.rcPolicy]
  generalize hmask : differs d.entry g.rcScope w (roundWords i.me own w r) = m at hloc
  have hm16 : m < 16 := hmask ▸ kindMask_lt _ _ _
  obtain ⟨hbes, hnrx, hnce, hcnt, hstat, hinfo⟩ :=
    noteDivergence_noted (w := w) (hg.beside.regs.canon hw) hm16 (divergent w)
  have hbis := bisect_locates hphase hab hown hwork hn (hloc (by rw [hgpol]; exact hpol))
  generalize g.noteDivergence w m (divergent w) = v at hbes hnrx hnce hcnt hstat hinfo hbis
  have hvpol : v.rcPolicy = u.rcPolicy := by
    rw [State.rcPolicy, hbes.regs.freg FR.RC_CTRL (by decide)]
    exact hgpol
  rw [hvpol] at hbis
  obtain ⟨x, hx, hxv⟩ := hg.own
  have hover := passExchange_over (s := { v with rx := { v.rx with work := [] } }) (k := k) (i := x)
    ((ownExchange_congr hnce).trans hx) (hxv.trans hv) (by show v.ce.mine = none; rw [hnce, hg.mine, hce]; exact hm)
    (by show v.ce.waitQ = []; rw [hnce, hg.waitQ, hce]; exact hq) (u.rcPolicy == 2)
  rw [← hbis] at hover
  have hfreg : ∀ a, a ∉ closeRegs → (s.bisect r).freg a = v.freg a := fun a ha => hover.beside.regs.freg a ha
  intro t
  refine ⟨hover.slot, ?_, ?_, ?_, ⟨m, hm16, ?_⟩, ?_, ?_, ?_⟩
  · rw [hover.rx, endedRx]
    simp only [beq_iff_eq]
    rw [hnrx, hg.rx, hrx]
  · rw [hfreg _ (by decide), hcnt, hgfreg _ (by decide)]
  · rw [hfreg _ (by decide), hstat]
  · rw [hfreg _ (by decide), hinfo, hgfreg _ (by decide)]
  · exact (hover.beside.cells.trans hbes.cells).trans hg.beside.cells
  · exact (hover.beside.mem.trans hbes.mem).trans hg.beside.mem
  · exact (hover.beside.hv.trans hbes.hv).trans hg.beside.hv

end
end

/-! ### The obligation -/

/-- Settles O40. -/
theorem replicaChecks : Obligations.ReplicaChecks := by
  unfold Obligations.ReplicaChecks
  refine ⟨fun s v others k i st fps o => ?_, fun s u r k i own w d => ?_⟩
  · intro rs policy quiet
    refine ⟨fun hphase hown => ⟨fun hfps hce hall => ?exchange, fun hw hquiet hend hgot => ?aborted⟩,
      fun hphase => ⟨s, ?idle, rfl⟩, fun hr hs => ⟨fun hphase hnone => ⟨?commit, ?discard⟩, fun hno i hi => ?none⟩⟩
    case exchange =>
      have hex := exchange_inStep hphase hown hfps (rs := rs) rfl hall
      have hvown : v.ownExchange = some (k, i) := (ownExchange_congr hce).trans hown
      refine ⟨fun hsame hquiet => ?_, fun hdiv => ?_⟩
      · obtain ⟨-, hv, hm, hq⟩ := hquiet
        have hover := passExchange_over hvown hv (by rw [hce]; exact hm) (by rw [hce]; exact hq) false
        rw [hsame] at hex
        refine ⟨v.passExchange false, by rw [exec_exchange, hex], hover.rx, hover.slot, fun j hj => ?_,
          hover.beside.cells,
          hover.beside.mem, hover.beside.hv⟩
        rw [hover.others j hj, inst_congr hce]
      · obtain ⟨e, es, hes⟩ := List.exists_cons_of_ne_nil hdiv
        rw [hes] at hex
        refine ⟨_, by rw [exec_exchange, hex], rfl, rfl, rfl, bisectWork_layers v rs, bisectWork_whole v rs⟩
    case aborted =>
      obtain ⟨-, hv, hm, hq⟩ := hquiet
      obtain ⟨hover, hbit⟩ := exchangeAborted_over hphase hown hv hm hq hend hgot hw st
      have hex : s.exchange others (some st) = s.exchangeAborted st := by
        simp only [State.exchange, hphase, ne_eq, not_true_eq_false, if_false]
      refine ⟨s.exchangeAborted st, by rw [exec_exchange, hex], ?_, hover.slot, hbit, hover.beside.cells,
        hover.beside.mem,
        hover.beside.hv⟩
      rw [hover.rx, endedRx]
      simp only [beq_iff_eq]
      rfl
    case idle =>
      rw [exec_exchange, State.exchange, if_pos hphase]
    case commit => exact ⟨_, rfl, writeReg_released hr hs hphase hnone (.inl rfl)⟩
    case discard => exact ⟨_, rfl, writeReg_released hr hs hphase hnone (.inr rfl)⟩
    case none =>
      rcases List.mem_pair.1 hi with rfl | rfl
      · exact ⟨_, rfl, writeReg_unreleased hr hs hno (by decide)⟩
      · exact ⟨_, rfl, writeReg_unreleased hr hs hno (by decide)⟩
  · intro policy ws crc hphase hab hown hwork hrx hce
    refine ⟨fun z a hn hread hu b hnext => ⟨⟨_, rfl, bisect_narrows hphase hab hown hwork hn hread hu hrx hce hnext⟩,
      nextRange_within hn hnext⟩, fun hn hread hd hpol _ _ hv hm hq hw => ?_⟩
    obtain ⟨hslot, hrx', hcnt, hstat, ⟨m, hm16, hinfo⟩, hcells, hmem, hhv⟩ :=
      bisect_located hphase hab hown hwork hrx hce hn hread hd hpol hv hm hq hw
    obtain ⟨-, hbit, hlayer, hlo⟩ := divInfo_fields w hm16
    refine ⟨s.bisect r, rfl, hslot, hrx', hcnt, hstat, fun hfree => ?_, fun hheld => ?_, hcells, hmem, hhv⟩
    · rw [hfree] at hinfo
      rw [hinfo]
      exact ⟨hbit, hlayer, hlo⟩
    · rw [hheld] at hinfo
      exact hinfo

end Sys2Proof.Proofs
end
section
/-! The difference stream (R357). -/

namespace Sys2Proof.Proofs
open Sys2Proof Sys2Proof.Machine Sys2Proof.Laws

/-- A record that sink 0 has and sink 1 lacks. -/
def peerRecord : Staged := { bytes := List.replicate 64 0, sent0 := true, sent1 := false }

/-- The state after reset, with sink 1 enabled for peer 0 and the record staged: every stack is in self-refresh, the
one with the route entry of the peer among them. -/
def peerLacks : State := { State.setFreg {} FR.DX_CTRL 8 with rx := { staged := [peerRecord] } }

/-- The record goes to the peer, whose route entry lies in stack 0: that stack's exit is asked for. -/
theorem sinkWrite_asksExit : (peerLacks.sinkWrite 1).pw.srExit = [0] := by decide +kernel

/-- Refutes O41: what sink 1 sends to a peer first needs the peer's route entry, and where that lies in a stack in
self-refresh the stack's exit is requested (R446), which the clause's frame leaves out. -/
theorem not_differencesAndJobs : ¬ Obligations.DifferencesAndJobs := by
  unfold Obligations.DifferencesAndJobs
  intro h
  obtain ⟨-, -, hpeer, -⟩ := h.1 peerLacks {} peerRecord [] []
  obtain ⟨t, ht, -, hframe⟩ := hpeer (by decide +kernel) rfl rfl
  have hexec : exec (.dxSinkWrite 1) peerLacks = .next (peerLacks.sinkWrite 1) := rfl
  obtain rfl : peerLacks.sinkWrite 1 = t := by
    rw [hexec] at ht
    injection ht
  have hpw : (peerLacks.sinkWrite 1).pw.srExit = peerLacks.pw.srExit := by rw [hframe]
  rw [sinkWrite_asksExit] at hpw
  exact absurd hpw (by decide)

end Sys2Proof.Proofs
end
section
/-! How an instance of the Parade engine ends (R393, R400 to R402). -/

namespace Sys2Proof.Proofs
open Sys2Proof Sys2Proof.Machine Sys2Proof.Laws

variable {s t u w : State} {k j : Fin 32} {i : Inst}

/-! ### The end of an instance -/

/-- State t is state s but for its instances and armed descriptors, the replica checks, and what is recorded. -/
def EndOnly (s t : State) : Prop :=
  t = { s with
    ce := { s.ce with slots := t.ce.slots, armed := t.ce.armed }, rx := t.rx, fregs := t.fregs, alm := t.alm, hs := t.hs
    free := t.free }

theorem EndOnly.trans (h : EndOnly s t) (g : EndOnly t u) : EndOnly s u := by
  unfold EndOnly at h g ⊢
  rw [g]
  dsimp only
  rw [h]

theorem endOnly_of_logs (h : Logs s t) : EndOnly s t := by
  unfold EndOnly
  unfold Logs at h
  rw [h]

theorem EndOnly.cells (h : EndOnly s t) : t.cells = s.cells := by rw [h]
theorem EndOnly.mem (h : EndOnly s t) : t.mem = s.mem := by rw [h]
theorem EndOnly.hv (h : EndOnly s t) : t.hv = s.hv := by rw [h]
theorem EndOnly.fl (h : EndOnly s t) : t.fl = s.fl := by rw [h]
theorem EndOnly.mine (h : EndOnly s t) : t.ce.mine = s.ce.mine := by rw [h]
theorem EndOnly.waitQ (h : EndOnly s t) : t.ce.waitQ = s.ce.waitQ := by rw [h]
theorem EndOnly.deliver (h : EndOnly s t) : t.ce.deliver = s.ce.deliver := by rw [h]

/-- The record of the members that were slowed, where there are any (R401). -/
def slowNoted (s : State) (i : Inst) : State :=
  let who := if i.slowAll.isEmpty && i.slowed then [i.me] else i.slowAll
  if who.isEmpty then s else s.logEvent 0x0603 (lowest who) 0 0 i.cid i.cseq

/-- The end of an instance counted, by its status (R393, R402). -/
def endCounted (s : State) (i : Inst) (status rank : Nat) : State :=
  if status = 0 then s.count FR.CE_DONE_CNT
  else if status = 4 then s
  else ((s.count FR.CE_ABORT_CNT).orFreg FR.CE_STATUS (2 ^ 1)).logEvent 0x0604 rank 3 0 status i.cseq

/-- The host told of the end of an instance, where it asks for that (R393). -/
def endTold (s : State) : State := if bitB (s.freg FR.CE_CTRL) 1 then s.hostEvent 2 else s

/-- What the end of an instance leaves in the registers and the Almanac. -/
def endNoted (s : State) (i : Inst) (status rank : Nat) : State := endTold (endCounted (slowNoted s i) i status rank)

/-- The slot of an instance freed, and its descriptor gone where it was to be disarmed (R388). -/
def slotFreed (s : State) (k : Fin 32) (i : Inst) : State :=
  let s := s.setInst k none
  { s with ce := { s.ce with armed := s.ce.armed.filter (fun a => !(a.cid == i.cid && a.disarm)) } }

theorem closeInst_eq (hv : i.harvest = false) (status rank : Nat) (word : StatusWord) (nf : Bool) :
    s.closeInst k i status rank word nf = slotFreed (endNoted s i status rank) k i := by
  unfold State.closeInst
  rw [hv]
  rfl

theorem logs_slowNoted (s : State) (i : Inst) : Logs s (slowNoted s i) := .ite (.refl s) (logs_logEvent _ _ _ _ _ _ _)

theorem floorRegs_slowNoted (s : State) (i : Inst) : FloorRegs (eventRegs 0) s (slowNoted s i) :=
  .ite (.refl _ s) (floorRegs_logEvent _ _ _ _ _ _ _)

theorem logs_endCounted (s : State) (i : Inst) (status rank : Nat) : Logs s (endCounted s i status rank) :=
  .ite ((Logs.refl s).count _ _) (.ite (.refl s) ((((Logs.refl s).count _ _).orFreg _ _).trans
    (logs_logEvent _ _ _ _ _ _ _)))

theorem logs_endTold (s : State) : Logs s (endTold s) := .ite ((Logs.refl s).hostEvent 2) (.refl s)

theorem floorRegs_endTold (s : State) : FloorRegs (eventRegs 0) s (endTold s) :=
  .ite (floorRegs_hostEvent s 2 (by simp [eventRegs])) (.refl _ s)

theorem logs_endNoted (s : State) (i : Inst) (status rank : Nat) : Logs s (endNoted s i status rank) :=
  ((logs_slowNoted s i).trans (logs_endCounted _ i status rank)).trans (logs_endTold _)

/-- An instance that is done counts in CE_DONE_CNT (R393). -/
theorem endNoted_done (hw : FGood s.fregs) (i : Inst) (rank : Nat) :
    (endNoted s i 0 rank).freg FR.CE_DONE_CNT = (s.freg FR.CE_DONE_CNT + 1) % 2 ^ 64 := by
  have hslow := floorRegs_slowNoted s i
  rw [endNoted, (floorRegs_endTold _).freg _ (by decide), endCounted, if_pos rfl, freg_count_self _ _ (hslow.canon hw),
    hslow.freg _ (by decide)]

/-- One that has aborted counts in CE_ABORT_CNT, and CE_STATUS shows it (R402). -/
theorem endNoted_aborted (hw : FGood s.fregs) (i : Inst) (rank : Nat) {status : Nat} (h0 : status ≠ 0) (h4 : status
    ≠ 4) :
    (endNoted s i status rank).freg FR.CE_ABORT_CNT = (s.freg FR.CE_ABORT_CNT + 1) % 2 ^ 64 ∧
      bitB ((endNoted s i status rank).freg FR.CE_STATUS) 1 = true := by
  have hslow := floorRegs_slowNoted s i
  have hgood : FGood ((slowNoted s i).count FR.CE_ABORT_CNT).fregs := smap_wf_set _ _ _ _ (hslow.canon hw)
  rw [endNoted, (floorRegs_endTold _).freg _ (by decide), (floorRegs_endTold _).freg _ (by decide), endCounted,
    if_neg h0, if_neg h4, (floorRegs_logEvent _ _ _ _ _ _ _).freg _ (by decide),
    (floorRegs_logEvent _ _ _ _ _ _ _).freg _ (by decide), freg_orFreg_other _ _ (by decide),
    freg_count_self _ _ (hslow.canon hw), hslow.freg _ (by decide)]
  exact ⟨rfl, bitB_orFreg_self _ (by decide) hgood⟩

theorem endOnly_slotFreed (h : Logs s t) (k : Fin 32) (i : Inst) : EndOnly s (slotFreed t k i) :=
  (endOnly_of_logs h).trans rfl

theorem inst_slotFreed_self (s : State) (k : Fin 32) (i : Inst) : (slotFreed s k i).inst k = none :=
  inst_setInst_self s k none

theorem inst_slotFreed_other (s : State) (i : Inst) (h : j ≠ k) : (slotFreed s k i).inst j = s.inst j :=
  inst_setInst_other s none h

/-! ### An instance that is aborted before it has read its descriptor -/

/-- What is left of an instance that has aborted. -/
structure Aborted (k : Fin 32) (s t : State) : Prop where
  only : EndOnly s t
  slot : t.inst k = none
  others : ∀ j, j ≠ k → t.inst j = s.inst j
  canon : FGood t.fregs
  count : t.freg FR.CE_ABORT_CNT = (s.freg FR.CE_ABORT_CNT + 1) % 2 ^ 64
  shown : bitB (t.freg FR.CE_STATUS) 1 = true

theorem abortExchange_beside (s : State) (status : Nat) : EndOnly s (s.abortExchange status) ∧
    (s.abortExchange status).ce = s.ce ∧
    FloorRegs (FR.RC_STATUS :: eventRegs 0) s (s.abortExchange status) := by
  unfold State.abortExchange
  split
  · generalize hu : (s.orFreg FR.RC_STATUS 0x200).logEvent 0x0503 0 0 0 status 0 = u
    have hlogs : Logs s u := hu ▸ ((Logs.refl s).orFreg _ _).trans (logs_logEvent _ _ _ _ _ _ _)
    have hregs : FloorRegs (FR.RC_STATUS :: eventRegs 0) s u := hu ▸ ((FloorRegs.refl _ s).orFreg _ (by simp)).trans
      ((floorRegs_logEvent _ _ _ _ _ _ _).mono (fun _ h => .tail _ h))
    refine ⟨(endOnly_of_logs hlogs).trans ?_, (endExchange_ce _ _).trans hlogs.ce,
      hregs.trans ((beside_endExchange u _).regs.mono (by simp [eventRegs]))⟩
    unfold State.endExchange
    split
    · have h := (Logs.refl ({ u with rx := { u.rx with phase := .halted, work := [] } } : State)).hostEvent 4
      exact EndOnly.trans (t := { u with rx := { u.rx with phase := .halted, work := [] } }) rfl (endOnly_of_logs h)
    · rfl
  · exact ⟨rfl, rfl, .refl _ s⟩

theorem f_unread (h : i.desc = 0) (hi lo : Nat) : i.f hi lo = 0 := by
  have hz : (0 : BitVec 1024).toNat = 0 := BitVec.toNat_zero
  rw [Inst.f, h, hz, bits, Nat.zero_shiftRight, Nat.zero_mod]

theorem harvest_unread (h : i.desc = 0) : i.harvest = false := by rw [Inst.harvest, f_unread h]; rfl

theorem spoilDst_unread (h : i.desc = 0) : EndOnly s (s.spoilDst i) ∧ (s.spoilDst i).ce = s.ce ∧
    (s.spoilDst i).fregs = s.fregs := by
  have hlen : i.dstLen = 0 := by
    rw [Inst.dstLen, Inst.op, f_unread h]
    rfl
  have hspoil : State.ceSpoil i.cls (i.dstLen / 4096 + 2) (i.f 255 192)
      (clean ((List.range i.dstLen).map (Config.undefByte s.free))) s.draw = s.draw := by
    rw [hlen]
    rfl
  rw [State.spoilDst, hspoil]
  split
  · exact ⟨rfl, rfl, rfl⟩
  · exact ⟨rfl, rfl, rfl⟩

theorem dropData_unfed (s : State) (h : i.fed = []) : s.dropData i = s := by rw [State.dropData, h]; rfl

theorem sendAborts_alone (s : State) (h : i.n = 0) (status rank : Nat) : s.sendAborts i status rank = s := by
  rw [State.sendAborts, h]
  rfl

theorem endInst_unread (hgot : i.got = false) (status rank : Nat) (word : StatusWord) (nf : Bool) :
    s.endInst k i status rank word nf = s.closeInst k { i with ended := some (status, rank), word, nf } status rank word
      nf := by
  unfold State.endInst
  simp only [hgot, Bool.not_false, Bool.or_true, if_true]

theorem abortInst_unread (hi : s.inst k = some i) (hend : i.ended = none) (hgot : i.got = false) (hd : i.desc = 0)
    (hn : i.n = 0) (hfed : i.fed = []) (hw : FGood s.fregs) {status : Nat} (h0 : status ≠ 0) (h4 : status ≠ 4)
    (rank : Nat) : Aborted k s (s.abortInst k status rank) := by
  generalize hx : ({ i with ended := some (status, rank), bytes := i.bytes - s.queuedBytes i } : Inst) = x
  have hxd : x.desc = 0 := by rw [← hx]; exact hd
  have hxgot : x.got = false := by rw [← hx]; exact hgot
  have hxfed : x.fed = [] := by rw [← hx]; exact hfed
  have hxn : x.n = 0 := by rw [← hx]; exact hn
  generalize hu : (s.setInst k (some x)).spoilDst x = u
  obtain ⟨huOnly, huCe, huRegs⟩ := hu ▸ spoilDst_unread (s := s.setInst k (some x)) hxd
  generalize hy : ({ x with ended := some (status, rank), word := abortWord x.layer, nf := false } : Inst) = y
  have hyv : y.harvest = false := harvest_unread (by rw [← hy]; exact hxd)
  generalize hc : slotFreed (endNoted u y status rank) k y = c
  have huw : FGood u.fregs := by rw [huRegs]; exact hw
  have hfreg (a : Nat) : u.freg a = s.freg a := by rw [State.freg, huRegs]; rfl
  have hlogs := logs_endNoted u y status rank
  obtain ⟨hcount, hbit⟩ := endNoted_aborted huw y rank h0 h4
  have hcw : FGood c.fregs := by
    rw [← hc]
    refine (floorRegs_endTold _).canon ?_
    rw [endCounted, if_neg h0, if_neg h4]
    exact (floorRegs_logEvent _ _ _ _ _ _ _).canon (smap_wf_set _ _ _ _ (smap_wf_set _ _ _ _
      ((floorRegs_slowNoted u y).canon huw)))
  have hcOnly : EndOnly s c := EndOnly.trans (t := s.setInst k (some x)) rfl
    (huOnly.trans (hc ▸ endOnly_slotFreed hlogs k y))
  have hcSlot : c.inst k = none := hc ▸ inst_slotFreed_self _ k y
  have hcOthers (j : Fin 32) (hj : j ≠ k) : c.inst j = s.inst j := by
    rw [← hc, inst_slotFreed_other _ _ hj, inst_congr hlogs.ce, inst_congr huCe, inst_setInst_other _ _ hj]
  have habort : s.abortInst k status rank = if x.isOwn then c.abortExchange status else c := by
    unfold State.abortInst
    rw [hi]
    simp only [hend, Option.isSome_none, Bool.false_eq_true, if_false]
    rw [hx, dropData_unfed _ hxfed, sendAborts_alone _ hxn, hu, endInst_unread hxgot, hy, closeInst_eq hyv, hc]
  have hcc : c.freg FR.CE_ABORT_CNT = (s.freg FR.CE_ABORT_CNT + 1) % 2 ^ 64 := by
    rw [← hc, ← hfreg]
    exact hcount
  have hcb : bitB (c.freg FR.CE_STATUS) 1 = true := by
    rw [← hc]
    exact hbit
  rw [habort]
  split
  · obtain ⟨haOnly, haCe, haRegs⟩ := abortExchange_beside c status
    exact
      { only := hcOnly.trans haOnly
        slot := (inst_congr haCe k).trans hcSlot
        others := fun j hj => (inst_congr haCe j).trans (hcOthers j hj)
        canon := haRegs.canon hcw
        count := by rw [haRegs.freg _ (by decide), hcc]
        shown := by rw [haRegs.freg _ (by decide), hcb] }
  · exact ⟨hcOnly, hcSlot, hcOthers, hcw, hcc, hcb⟩

end Sys2Proof.Proofs
end
section
/-! What arms, triggers, completes, aborts and detaches a collective (R386 to R399, R402). -/

namespace Sys2Proof.Proofs
open Sys2Proof Sys2Proof.Machine Sys2Proof.Laws

variable {s t u w : State} {k j : Fin 32} {i : Inst} {o : Origin} {n : Nat} {a : Armed}

/-! ### Arming and disarming (R388) -/

theorem ce_regs (h : pa = FR.CE_ARM ∨ pa = FR.CE_ABORT) : ∃ r, floorReg pa = some r ∧ r.kind = .action ∧ regWidth pa
    = 64 ∧
    inRegs pa = true ∧ inCells pa = false ∧ pa % 8 = 0 := by
  rcases h with rfl | rfl
  · exact ⟨(floorReg FR.CE_ARM).get (by decide +kernel), by simp, by decide +kernel, by decide +kernel, by decide,
      by decide, by decide⟩
  · exact ⟨(floorReg FR.CE_ABORT).get (by decide +kernel), by simp, by decide +kernel, by decide +kernel, by decide,
      by decide, by decide⟩

/-- A write to CE_ARM or CE_ABORT acts with the whole word written. -/
theorem writeReg_ce (hpa : pa = FR.CE_ARM ∨ pa = FR.CE_ABORT) (h : Reaches o s pa) {v : Nat} (hv : v < 2 ^ 64) :
    s.writeReg o pa 8 v = (s.action pa v none).goOn := by
  obtain ⟨r, hr, hk, hwidth, hregs, hcells, halign⟩ := ce_regs hpa
  have hall : v &&& (lowHalf * 2 ^ 32 + lowHalf) = v := word_and_all (BitVec.ofNatLT v hv)
  rw [writeReg_dword h hregs hcells hwidth halign, writeFloor_action hr hk, hall]

theorem action_abort (s : State) (v : Nat) : s.action FR.CE_ABORT v none = s.swAbort (bits v 11 0) := rfl

theorem action_arm (s : State) (v : Nat) : s.action FR.CE_ARM v none =
    if bitB v 31 then s.disarmDesc (bits v 11 0) else s.armDesc (bits v 11 0) (bits v 63 32) := rfl

/-- The word that arms a descriptor. -/
theorem armWord_fields (cid : BitVec 12) (first : BitVec 32) :
    let v := cid.toNat + first.toNat * 2 ^ 32
    v < 2 ^ 64 ∧ bitB v 31 = false ∧ bits v 11 0 = cid.toNat ∧ bits v 63 32 = first.toNat := by
  have hc := cid.isLt
  have hf := first.isLt
  simp only [bitB, bits, Nat.shiftRight_eq_div_pow, beq_eq_false_iff_ne]
  omega

/-- The word that disarms one. -/
theorem disarmWord_fields (cid : BitVec 12) :
    let v := cid.toNat + 2 ^ 31
    v < 2 ^ 64 ∧ bitB v 31 = true ∧ bits v 11 0 = cid.toNat := by
  have hc := cid.isLt
  simp only [bitB, bits, Nat.shiftRight_eq_div_pow, beq_iff_eq]
  omega

theorem still_ce (h : Still s) (c : CeState) : Still { s with ce := c } := ⟨h.empty, h.done, h.settled⟩

theorem exec_arm (h : Reaches o s FR.CE_ARM) (cid : BitVec 12) (first : BitVec 32) :
    exec (.ceArm o cid first) s = .next (s.armDesc cid.toNat first.toNat).goOn := by
  obtain ⟨hv, hbit, hcid, hfirst⟩ := armWord_fields cid first
  show execCeArm o cid first s = _
  rw [execCeArm, writeReg_ce (.inl rfl) h hv, action_arm, hbit, if_neg Bool.false_ne_true, hcid, hfirst]

theorem exec_disarm (h : Reaches o s FR.CE_ARM) (cid : BitVec 12) :
    exec (.ceDisarm o cid) s = .next (s.disarmDesc cid.toNat).goOn := by
  obtain ⟨hv, hbit, hcid⟩ := disarmWord_fields cid
  show execCeDisarm o cid s = _
  rw [execCeDisarm, writeReg_ce (.inl rfl) h hv, action_arm, hbit, if_pos rfl, hcid]

theorem armDesc_room (hn : n < 4080) (h : (s.armedOf n).isSome = true ∨ s.ce.armed.length < 256) (first : Nat) :
    s.armDesc n first = { s with ce := { s.ce with
      armed := s.ce.armed.filter (fun a => a.cid != n) ++ [{ cid := n, next := first }] } } := by
  rw [State.armDesc, if_neg (by omega), if_neg]
  simp only [Bool.and_eq_true, decide_eq_true_eq, not_and, Nat.not_le]
  intro hno
  rcases h with h | h
  · rw [Option.isNone_iff_eq_none] at hno
    rw [hno] at h
    cases h
  · exact h

theorem armDesc_full (hn : n < 4080) (hno : s.armedOf n = none) (hfull : 256 ≤ s.ce.armed.length) (first : Nat) :
    s.armDesc n first = s.orFreg FR.CE_STATUS 32 := by
  rw [State.armDesc, if_neg (by omega), if_pos (by simp [hno, hfull])]

theorem disarmDesc_idle (h : s.slotOf n = none) : s.disarmDesc n = { s with ce := { s.ce with
    armed := s.ce.armed.filter (fun a => a.cid != n), waitQ := s.ce.waitQ.filter (·.1 != n) } } := by
  rw [State.disarmDesc, h]
  rfl

theorem disarmDesc_running (h : s.slotOf n = some k) : s.disarmDesc n = { s with ce := { s.ce with
    armed := s.ce.armed.map (fun a => if a.cid = n then { a with disarm := true } else a) } } := by
  rw [State.disarmDesc, h]
  rfl

/-! ### Aborting (R402) -/

theorem exec_abort (h : Reaches o s FR.CE_ABORT) (cid : BitVec 12) :
    exec (.ceAbort o cid) s = .next (s.swAbort cid.toNat).goOn := by
  have hv := cid.isLt
  have hcid : bits cid.toNat 11 0 = cid.toNat := by
    simp only [bits, Nat.shiftRight_eq_div_pow]
    omega
  show execCeAbort o cid s = _
  rw [execCeAbort, writeReg_ce (.inr rfl) h (by omega), action_abort, hcid]

theorem swAbort_aborted (hs : s.slotOf n = some k) (hi : s.inst k = some i) (hend : i.ended = none)
    (hgot : i.got = false) (hd : i.desc = 0) (hn : i.n = 0) (hfed : i.fed = []) (hq : s.ce.waitQ = [])
    (hm : s.ce.mine = none) (hw : FGood s.fregs) : Aborted k s (s.swAbort n) := by
  have h := abortInst_unread hi hend hgot hd hn hfed hw (status := 6) (by decide) (by decide) 0xFFFFFFFF
  have heq : s.swAbort n = s.abortInst k 6 0xFFFFFFFF := by
    rw [State.swAbort, hs]
    dsimp only
    rw [hi]
    dsimp only
    rw [if_pos hn]
    exact pumpSlots_none (by rw [h.only.mine, hm]) (by rw [h.only.waitQ, hq])
  rw [heq]
  exact h

theorem Aborted.still (h : Aborted k s t) (hs : Still s) : Still t :=
  ⟨fun c => by rw [State.cell, h.only.cells]; exact hs.empty c, by rw [h.only.hv, hs.done], by rw [h.only.mem,
    hs.settled]⟩

/-! ### Triggers (R389, R391, R392) -/

/-- What the engine reads of a descriptor at a trigger: the address of its trigger word, and the word. -/
def triggerRead (s : State) (n : Nat) : HRes (List Byte) :=
  (s.ceRead n 0 (s.freg FR.CE_DESC_BASE + 128 * n) 40).bind (fun s d =>
    s.ceRead n ⟨fieldAt d 0 4 / 2 ^ 28 % 8, by omega⟩ (fieldAt d 32 8 % 2 ^ 57 / 8 * 8) 8)

/-- The armed descriptors with the next trigger of one of them one on. -/
def movedOn (l : List Armed) (n next : Nat) : List Armed := l.map (fun b => if b.cid = n then { b with next } else b)

/-- An instance that has been triggered and waits for a slot. -/
def awaiting (u : State) (n next : Nat) : State :=
  { u with ce := { u.ce with armed := movedOn u.ce.armed n (next + 1), waitQ := u.ce.waitQ ++ [(n, next)] } }

theorem trigger_read (hslot : s.slotOf n = none) (ha : s.armedOf n = some a) (hd : a.disarm = false)
    (hen : bitB (s.freg FR.CE_CTRL) 0 = true) (hq : s.ce.waitQ = []) {v : List Byte} (hr : triggerRead s n = .ok u v) :
    s.trigger n = if leNat v < a.next || 2 ^ 64 ≤ a.next + 1 then u else (awaiting u n a.next).pumpSlots := by
  rw [triggerRead] at hr
  rw [State.trigger, hslot]
  dsimp only
  rw [ha]
  dsimp only
  rw [hen, hq, hd, hr]
  rfl

theorem exec_trigger (hmain : s.dev.mainOn = true) (hf : s.fatal = false) (cid : BitVec 12) :
    exec (.instanceTrigger cid) s = .next (s.trigger cid.toNat) := by
  show execInstanceTrigger cid s = _
  rw [execInstanceTrigger, hmain, hf]
  rfl

/-- With no slot free, an instance that waits goes on waiting. -/
theorem pumpSlots_full (hm : s.ce.mine = none) (hfree : s.freeInst = none) : s.pumpSlots = s := by
  have hown : s.startOwn = s := by rw [State.startOwn, hm]
  rw [State.pumpSlots, hown]
  cases hq : s.ce.waitQ with
  | nil => rfl
  | cons e l =>
    rw [List.length_cons, State.startWaiting, hq, hfree]

/-- The one instance that waits takes the free slot. -/
theorem pumpSlots_one {q : Nat} (hm : s.ce.mine = none) (hq : s.ce.waitQ = [(n, q)]) (hfree : s.freeInst = some k)
    (hf : s.fatal = false) (ha : (s.armedOf n).isSome = true) (hslot : s.slotOf n = none) :
    s.pumpSlots = State.takeSlot { s with ce := { s.ce with waitQ := [] } } k n q := by
  have hown : s.startOwn = s := by rw [State.startOwn, hm]
  rw [State.pumpSlots, hown, hq, List.length_singleton, State.startWaiting, hq, hfree]
  dsimp only
  rw [hf, if_neg Bool.false_ne_true, State.startWaiting]
  have ha' : (State.armedOf { s with ce := { s.ce with waitQ := [] } } n).isSome = true := ha
  have hs' : State.slotOf { s with ce := { s.ce with waitQ := [] } } n = none := hslot
  rw [ha', hs']
  rfl

theorem find_movedOn (l : List Armed) (n next : Nat) (h : l.find? (fun b => b.cid == n) = some a) :
    (movedOn l n next).find? (fun b => b.cid == n) = some { a with next } := by
  induction l with
  | nil => cases h
  | cons b l ih =>
    rw [movedOn, List.map_cons, List.find?_cons]
    rw [List.find?_cons] at h
    by_cases hb : b.cid = n
    · simp only [hb, beq_self_eq_true, Option.some.injEq] at h
      subst h
      simp only [hb, if_true, beq_self_eq_true]
    · rw [beq_eq_false_iff_ne.2 hb] at h
      rw [if_neg hb, beq_eq_false_iff_ne.2 hb]
      exact ih h

/-- A new instance that has no READY held for it. -/
theorem takeSlot_fresh (hheld : s.ce.held = []) (k : Fin 32) (n q : Nat) :
    s.takeSlot k n q = (s.setInst k (some { cid := n, cseq := q })).beginInst k := by
  have hdrop : s.dropHeld n q = s := by
    rw [State.dropHeld, hheld, List.filter_nil, ← hheld]
  rw [State.takeSlot, hdrop, State.newInst, hheld]
  rfl

/-- The start of an instance whose reads succeed and that waits for nobody. -/
theorem beginInst_ok {e : Inst} (he : s.inst k = some e) (hbeg : e.begun = false) (hend : e.ended = none)
    (hset : s.setup e = .ok w i) (hpeers : i.peers = []) (hready : i.ready = []) (hi : i.ended = none)
    (hslow : bitB (w.freg FR.CE_STATUS) 4 = false) (hjob : w.rx.job = none) :
    s.beginInst k = w.draw.setInst k (some { i with draw := w.free }) := by
  generalize hx : ({ i with draw := w.free } : Inst) = x
  have hxpeers : x.peers = [] := by rw [← hx]; exact hpeers
  have hxready : x.ready = [] := by rw [← hx]; exact hready
  have hxend : x.ended = none := by rw [← hx]; exact hi
  have hcap : w.fromCapture x = x := by rw [State.fromCapture, hjob]
  generalize hv : w.draw.setInst k (some x) = v
  have hvi : v.inst k = some x := hv ▸ inst_setInst_self w.draw k (some x)
  have hvs : bitB (v.freg FR.CE_STATUS) 4 = false := by rw [← hv]; exact hslow
  have hfeed : v.feedInst k = v := by
    rw [State.feedInst, hvi]
    dsimp only
    rw [hxpeers, List.filter_nil, List.foldl_nil, ite_self]
  have hcheck : v.checkReady k = v := by
    rw [State.checkReady, hvi]
    dsimp only
    rw [hxready, List.find?_nil, hfeed, ite_self]
  rw [State.beginInst, he]
  dsimp only
  rw [hbeg, hend, hset]
  simp only [Option.isSome_none, Bool.or_self, Bool.false_eq_true, if_false]
  rw [hx, hcap, hv, State.readyInst, hvi]
  dsimp only
  rw [hvs, if_neg Bool.false_ne_true, hxpeers, List.foldl_nil, hcheck]

/-- A trigger that has been reached starts its instance in the free slot. -/
theorem trigger_starts (hslot : s.slotOf n = none) (ha : s.armedOf n = some a) (hd : a.disarm = false)
    (hen : bitB (s.freg FR.CE_CTRL) 0 = true) (hq : s.ce.waitQ = []) (hm : s.ce.mine = none) {v : List Byte}
    (hr : triggerRead s n = .ok u v) (hce : u.ce = s.ce) (hf : u.fatal = false) (hnext : a.next + 1 < 2 ^ 64)
    (hdue : a.next ≤ leNat v) (hfree : u.freeInst = some k) (hheld : s.ce.held = []) :
    s.trigger n = (State.setInst { u with ce := { u.ce with armed := movedOn u.ce.armed n (a.next + 1) } } k
      (some { cid := n, cseq := a.next })).beginInst k := by
  have hcond : (leNat v < a.next || 2 ^ 64 ≤ a.next + 1) = false := by
    simp only [Bool.or_eq_false_iff, decide_eq_false_iff_not]
    omega
  have hqu : u.ce.waitQ = [] := by rw [hce, hq]
  have hau : (awaiting u n a.next).armedOf n = some { a with next := a.next + 1 } := by
    refine find_movedOn u.ce.armed n (a.next + 1) ?_
    rw [hce]
    exact ha
  have hsu : (awaiting u n a.next).slotOf n = none := by
    rw [← hslot]
    exact slotOf_congr (fun j => by show (u.inst j).map _ = _; rw [inst_congr hce]) n
  have hcu : ({ (awaiting u n a.next).ce with waitQ := [] } : CeState) =
      { u.ce with armed := movedOn u.ce.armed n (a.next + 1) } := by
    rw [← hqu]
    rfl
  rw [trigger_read hslot ha hd hen hq hr, hcond, if_neg Bool.false_ne_true,
    pumpSlots_one (s := awaiting u n a.next) (k := k) (n := n) (q := a.next) (by show u.ce.mine = none; rw [hce, hm])
      (by show u.ce.waitQ ++ _ = _; rw [hqu]; rfl) hfree hf (by rw [hau]; rfl) hsu, hcu]
  exact takeSlot_fresh (by show u.ce.held = []; rw [hce, hheld]) k n a.next

/-! ### Completion (R393) -/

/-- An instance whose completion record is written is closed. -/
theorem endInst_written (hgot : i.got = true) (ha : i.f 383 320 % 64 = 0) (hc : i.f 383 320 < 2 ^ 57)
    (hred : i.reduces = false) {bs : List Byte} (hbs : leBytes 64 (i.record 0 0 0xFFFFFFFF) = bs)
    (hw : (u.ceWrite i.cid i.cls (i.f 383 320 + 8) (clean (bs.drop 8))).bind (fun s _ =>
      s.ceWrite i.cid i.cls (i.f 383 320) (clean (bs.take 8))) = .ok w ()) (word : StatusWord) (nf : Bool) :
    u.endInst k i 0 0xFFFFFFFF word nf = w.closeInst k { i with ended := some (0, 0xFFFFFFFF), word, nf } 0 0xFFFFFFFF
      word nf := by
  unfold State.endInst
  extract_lets x comp rec64
  have hrec : rec64 = bs := by
    rw [← hbs]
    show leBytes 64 (i.record (if i.reduces && _ then _ else 0) 0 0xFFFFFFFF) = _
    rw [hred]
    rfl
  have hcond : (comp % 64 ≠ 0 || 2 ^ 57 ≤ comp || !x.got) = false := by
    have hxgot : x.got = true := hgot
    have hcomp : comp = i.f 383 320 := rfl
    simp only [hxgot, hcomp, ha, ne_eq, not_true_eq_false, decide_false, Bool.not_true, Bool.or_false, Bool.false_or,
      decide_eq_false_iff_not]
    omega
  rw [hcond, if_neg Bool.false_ne_true, hrec]
  have hw' : (u.ceWrite x.cid x.cls (comp + 8) (clean (bs.drop 8))).bind (fun s _ =>
      s.ceWrite x.cid x.cls comp (clean (bs.take 8))) = .ok w () := hw
  rw [hw']

/-- An instance that does not reduce and has all it needs ends with its result and its record written. -/
theorem completeInst_done (hi : s.inst k = some i) (hready : s.instReady i = true) (hred : i.reduces = false)
    (hown : i.isOwn = false) (hr : s.writeResult i (i.result i.draw).2 = .ok u ()) :
    s.completeInst k = (u.endInst k i 0 0xFFFFFFFF {} false).pumpSlots := by
  have hr2 := hready
  simp only [State.instReady, Bool.and_eq_true, Option.isNone_iff_eq_none] at hr2
  obtain ⟨⟨⟨⟨hbeg, hend⟩, -⟩, -⟩, -⟩ := hr2
  rw [State.completeInst, hi]
  dsimp only
  rw [hown, if_neg Bool.false_ne_true, hend]
  dsimp only
  rw [hbeg, hready, hr, hred]
  rfl

theorem pumpDeliver_none (h : s.ce.deliver = []) : s.pumpDeliver = s := by
  rw [State.pumpDeliver, h]
  rfl

/-! ### Detachment (R398) -/

theorem le_foldl_max (l : List Nat) (b : Nat) : b ≤ l.foldl max b ∧ ∀ x ∈ l, x ≤ l.foldl max b := by
  induction l generalizing b with
  | nil => exact ⟨Nat.le_refl b, fun _ h => absurd h List.not_mem_nil⟩
  | cons y l ih =>
    obtain ⟨hb, hl⟩ := ih (max b y)
    refine ⟨Nat.le_trans (Nat.le_max_left b y) hb, fun x hx => ?_⟩
    rcases List.mem_cons.1 hx with rfl | hx
    · exact Nat.le_trans (Nat.le_max_right b x) hb
    · exact hl x hx

/-- Frames of an instance marked as catch-up (R376, R398). -/
def caughtUp (i : Inst) (f : FrameOut) : FrameOut :=
  if f.ty = 1 ∧ f.cid = i.cid ∧ f.cseq = i.cseq % 2 ^ 32 then { f with phase := 2 } else f

/-- The context of a receiver that is being detached. -/
def catchingUp (x : Ctx) (i : Inst) : Ctx :=
  { x with queue := x.queue.map (caughtUp i), unacked := x.unacked.map (fun u => { u with frame := caughtUp i u.frame }) }

/-- Whether receiver r lags behind another attached receiver by more than the limit. -/
def Lags (s : State) (i : Inst) (r : Nat) : Prop :=
  ∃ q, q < i.n ∧ q ≠ i.me ∧ q ≠ r ∧ i.detached.has q = false ∧
    s.ackedOffset i r + bits (s.freg FR.CE_LAG_CFG) 15 0 * 65536 < s.ackedOffset i q

theorem detach_lagging (hi : s.inst k = some i) (hop : i.op = 4) (halgo : i.algo = 4) (hme : i.me = i.root)
    (hend : i.ended = none) {r : Nat} (hr : r < i.n) (hrm : r ≠ i.me) (hatt : i.detached.has r = false)
    (hmine : s.ackedOffset i r < i.count) (hlag : Lags s i r) (timed : Bool) :
    s.detach k r timed = State.logEvent (State.count ((s.setCtx (i.nodes.getD r 0)
        (catchingUp (s.ctxOf (i.nodes.getD r 0)) i)).setInst k (some { i with detached := i.detached.add r }))
      FR.CE_DETACH_CNT) 0x0602 r 0 0 i.cid i.cseq := by
  rw [State.detach, hi]
  dsimp -zeta only
  extract_lets attached mine best lag node x catchUp sent s1
  refine if_pos ?_
  obtain ⟨q, hq, hqm, hqr, hqd, hlt⟩ := hlag
  have hattached : r ∈ attached := by simp [attached, hr, hrm, hatt]
  have hother : s.ackedOffset i q ≤ best := by
    refine (le_foldl_max _ 0).2 _ (List.mem_map_of_mem ?_)
    simp [attached, hq, hqm, hqr, hqd]
  have hl : lag := Nat.lt_of_lt_of_le hlt hother
  simp only [hop, halgo, ← hme, hend, decide_true, Bool.true_and, Option.isNone_none, Bool.and_eq_true, Bool.or_eq_true,
    decide_eq_true_eq, List.contains_iff_mem]
  exact ⟨⟨hattached, hmine⟩, .inl hl⟩

/-! ### The obligation -/

theorem trigger_started (hslot : s.slotOf n = none) (ha : s.armedOf n = some a) (hd : a.disarm = false)
    (hen : bitB (s.freg FR.CE_CTRL) 0 = true) (hq : s.ce.waitQ = []) (hm : s.ce.mine = none) {v : List Byte}
    (hr : triggerRead s n = .ok u v) (hce : u.ce = s.ce) (hf : u.fatal = false) (hnext : a.next + 1 < 2 ^ 64)
    (hdue : a.next ≤ leNat v) (hfree : u.freeInst = some k) (hheld : s.ce.held = []) :
    let m : State := State.setInst { u with ce := { u.ce with armed := movedOn u.ce.armed n (a.next + 1) } } k
      (some { cid := n, cseq := a.next })
    m.setup { cid := n, cseq := a.next } = .ok w i → i.peers = [] → i.ready = [] → i.ended = none →
      bitB (w.freg FR.CE_STATUS) 4 = false → w.ce = m.ce → w.rx.job = none →
      let t := s.trigger n
      t.inst k = some { i with draw := w.free } ∧ t = { w with ce := t.ce, free := t.free } ∧
        t.armedOf n = some { a with next := a.next + 1 } ∧ ∀ j, j ≠ k → t.inst j = s.inst j := by
  intro m hset hpeers hready hend hslow hwce hjob t
  have ht : t = w.draw.setInst k (some { i with draw := w.free }) := by
    show s.trigger n = _
    rw [trigger_starts hslot ha hd hen hq hm hr hce hf hnext hdue hfree hheld]
    exact beginInst_ok (inst_setInst_self _ k _) rfl rfl hset hpeers hready hend hslow hjob
  rw [ht]
  refine ⟨inst_setInst_self _ k _, rfl, ?_, fun j hj => ?_⟩
  · have harmed : w.ce.armed = movedOn u.ce.armed n (a.next + 1) := by rw [hwce]; rfl
    show w.ce.armed.find? _ = _
    rw [harmed]
    exact find_movedOn _ n _ (by rw [hce]; exact ha)
  · rw [inst_setInst_other _ _ hj]
    show w.inst j = _
    rw [inst_congr hwce]
    exact (inst_setInst_other _ _ hj).trans (inst_congr hce j)

theorem instanceComplete_done (hi : s.inst k = some i) (hready : s.instReady i = true) (hred : i.reduces = false)
    (hv : i.harvest = false) (hgot : i.got = true) (hown : i.isOwn = false) (hcomp : i.f 383 320 % 64 = 0)
    (hva : i.f 383 320 < 2 ^ 57) (hr : s.writeResult i (i.result i.draw).2 = .ok u ()) {bs : List Byte}
    (hbs : leBytes 64 (i.record 0 0 0xFFFFFFFF) = bs)
    (hrec : (u.ceWrite i.cid i.cls (i.f 383 320 + 8) (clean (bs.drop 8))).bind (fun s _ =>
      s.ceWrite i.cid i.cls (i.f 383 320) (clean (bs.take 8))) = .ok w ())
    (hq : w.ce.waitQ = []) (hm : w.ce.mine = none) (hdel : w.ce.deliver = []) (hw : FGood w.fregs) :
    let t := (s.completeInst k).pumpDeliver
    t.inst k = none ∧ (∀ m, m ≠ k → t.inst m = w.inst m) ∧
      t.freg FR.CE_DONE_CNT = (w.freg FR.CE_DONE_CNT + 1) % 2 ^ 64 ∧ t.mem = w.mem ∧ t.cells = w.cells := by
  generalize hx : ({ i with ended := some (0, 0xFFFFFFFF), word := {}, nf := false } : Inst) = x
  have hxv : x.harvest = false := by rw [← hx]; exact hv
  have hlogs := logs_endNoted w x 0 0xFFFFFFFF
  have honly := endOnly_slotFreed hlogs k x
  have ht : (s.completeInst k).pumpDeliver = slotFreed (endNoted w x 0 0xFFFFFFFF) k x := by
    rw [completeInst_done hi hready hred hown hr, endInst_written hgot hcomp hva hred hbs hrec, hx, closeInst_eq hxv,
      pumpSlots_none (by rw [honly.mine, hm]) (by rw [honly.waitQ, hq]), pumpDeliver_none (by rw [honly.deliver, hdel])]
  intro t
  have htt : t = _ := ht
  rw [htt]
  exact ⟨inst_slotFreed_self _ k x, fun m hm => (inst_slotFreed_other _ x hm).trans (inst_congr hlogs.ce m),
    endNoted_done hw x _, honly.mem, honly.cells⟩

theorem detached_lagging (s : State) (k : Fin 32) (i : Inst) (r : Nat) (hw : FGood s.fregs) :
    let t := State.logEvent (State.count ((s.setCtx (i.nodes.getD r 0)
        (catchingUp (s.ctxOf (i.nodes.getD r 0)) i)).setInst k (some { i with detached := i.detached.add r }))
      FR.CE_DETACH_CNT) 0x0602 r 0 0 i.cid i.cseq
    t.inst k = some { i with detached := i.detached.add r } ∧ (∀ m, m ≠ k → t.inst m = s.inst m) ∧
      t.freg FR.CE_DETACH_CNT = (s.freg FR.CE_DETACH_CNT + 1) % 2 ^ 64 ∧ t.mem = s.mem ∧ t.cells = s.cells := by
  generalize hv : (s.setCtx (i.nodes.getD r 0) (catchingUp (s.ctxOf (i.nodes.getD r 0)) i)).setInst k
    (some { i with detached := i.detached.add r }) = v
  have hvs : v.inst k = some { i with detached := i.detached.add r } := hv ▸ inst_setInst_self _ k _
  have hvo (m : Fin 32) (hm : m ≠ k) : v.inst m = s.inst m := by rw [← hv, inst_setInst_other _ _ hm]; rfl
  have hlogs : Logs v ((v.count FR.CE_DETACH_CNT).logEvent 0x0602 r 0 0 i.cid i.cseq) :=
    ((Logs.refl v).count _ _).trans (logs_logEvent _ _ _ _ _ _ _)
  refine ⟨(inst_congr hlogs.ce k).trans hvs, fun m hm => (inst_congr hlogs.ce m).trans (hvo m hm), ?_, ?_, ?_⟩
  · rw [(floorRegs_logEvent _ _ _ _ _ _ _).freg _ (by decide), freg_count_self _ _ (by rw [← hv]; exact hw), ← hv]
    rfl
  · rw [hlogs, ← hv]
    rfl
  · rw [hlogs, ← hv]
    rfl

/-- Settles O44. -/
theorem paradeInstances : Obligations.ParadeInstances := by
  unfold Obligations.ParadeInstances
  constructor
  · intro s u o cid first k i a v n ce others hn
    refine ⟨fun hr hst => ⟨fun hroom => ?_, fun hno hfull => ?_, fun hs => ?_, fun hs => ?_⟩,
      fun hr hst hs hi hend hgot hd hin hfed hq hm hw => ?_, ?_⟩
    · refine ⟨_, exec_arm hr cid first, ?_⟩
      rw [armDesc_room hn hroom, goOn_still (still_ce hst _)]
    · refine ⟨_, exec_arm hr cid first, ?_⟩
      rw [armDesc_full hn hno hfull]
      exact goOn_still (still_fregs hst _)
    · refine ⟨_, exec_disarm hr cid, ?_⟩
      rw [disarmDesc_idle hs, goOn_still (still_ce hst _)]
    · refine ⟨_, exec_disarm hr cid, ?_⟩
      rw [disarmDesc_running hs, goOn_still (still_ce hst _)]
    · have h := swAbort_aborted hs hi hend hgot hd hin hfed hq hm hw
      refine ⟨_, exec_abort hr cid, ?_⟩
      rw [goOn_still (h.still hst)]
      exact ⟨h.slot, h.others, h.count, h.shown, h.only.mem, h.only.cells⟩
    · intro hmain hf hslot ha hdis hen hq hm hread hce huf hnext armed
      refine ⟨fun hlt => ?_, fun hdue hfree => ?_, ?_⟩
      · refine ⟨_, exec_trigger hmain hf cid, ?_⟩
        rw [trigger_read hslot ha hdis hen hq hread, decide_eq_true hlt, Bool.true_or, if_pos rfl]
      · refine ⟨_, exec_trigger hmain hf cid, ?_⟩
        have hcond : (leNat v < a.next || 2 ^ 64 ≤ a.next + 1) = false := by
          simp only [Bool.or_eq_false_iff, decide_eq_false_iff_not]
          omega
        have hmu : (awaiting u n a.next).ce.mine = none := by
          show u.ce.mine = none
          rw [hce, hm]
        rw [trigger_read hslot ha hdis hen hq hread, hcond, if_neg Bool.false_ne_true, pumpSlots_full hmu hfree,
          awaiting,
          show u.ce.waitQ = [] by rw [hce]; exact hq]
        rfl
      · intro hdue hfree hheld m w i hset hpeers hready hend hslow hwce hfed hjob
        exact ⟨_, exec_trigger hmain hf cid, trigger_started hslot ha hdis hen hq hm hread hce huf hnext hdue hfree
          hheld
          hset hpeers hready hend hslow hwce hjob⟩
  · intro s u w k i rank timed comp bs
    constructor
    · intro hi hready hred hv hgot hown hcomp hva hres hrec hq hm hdel hw
      exact ⟨_, rfl, instanceComplete_done hi hready hred hv hgot hown hcomp hva hres rfl hrec hq hm hdel hw⟩
    · intro hi hop halgo hme hend hr hrm hatt hmine hlag hw
      refine ⟨s.detach k rank.toNat timed, rfl, ?_⟩
      rw [detach_lagging hi hop halgo hme hend hr hrm hatt hmine hlag timed]
      exact detached_lagging s k i rank.toNat hw

end Sys2Proof.Proofs
end
section
/-! What a frame that leaves or arrives changes in the transport, where the route of its peer can be read (R378 to R383). -/

namespace Sys2Proof.Proofs
open Sys2Proof Sys2Proof.Machine Sys2Proof.Laws

/-- The registers in which the transport counts frames. -/
def linkRegs : List Nat :=
  [FR.FL_TX_PKT_CNT, FR.FL_CTX_MISS_CNT, FR.CE_CATCHUP_BYTES_CNT, FR.FL_RETX_CNT, FR.FL_RX_PKT_CNT, FR.FL_TIMEOUT_CNT,
    FR.FL_CRC_DROP_CNT, FR.FL_ECN_CNT]

/-- State t is state s but for the contexts, their cache, the frames that have left, and the counters of frames. -/
structure OnLink (s t : State) : Prop where
  frame : t =
    { s with fl := { s.fl with
        ctx := t.fl.ctx, cached := t.fl.cached, full := t.fl.full, loop := t.fl.loop, wire := t.fl.wire }
             fregs := t.fregs, free := t.free }
  regs : FloorRegs linkRegs s t

section
variable {s t u : State} {node m k q : Nat} {x y : Ctx}

theorem OnLink.refl (s : State) : OnLink s s := ⟨rfl, .refl _ s⟩

theorem OnLink.trans (h : OnLink s t) (g : OnLink t u) : OnLink s u :=
  ⟨by rw [g.frame, h.frame], h.regs.trans g.regs⟩

theorem OnLink.ite {p : Prop} [Decidable p] (h : OnLink s t) (g : OnLink s u) : OnLink s (if p then t else u) := by
  split
  · exact h
  · exact g

theorem OnLink.cells (h : OnLink s t) : t.cells = s.cells := by rw [h.frame]
theorem OnLink.mem (h : OnLink s t) : t.mem = s.mem := by rw [h.frame]
theorem OnLink.ce (h : OnLink s t) : t.ce = s.ce := by rw [h.frame]
theorem OnLink.rx (h : OnLink s t) : t.rx = s.rx := by rw [h.frame]
theorem OnLink.pw (h : OnLink s t) : t.pw = s.pw := by rw [h.frame]
theorem OnLink.hs (h : OnLink s t) : t.hs = s.hs := by rw [h.frame]

theorem onLink_count (s : State) {a : Nat} (n : Nat) (h : a ∈ linkRegs) : OnLink s (s.count a n) :=
  ⟨rfl, (FloorRegs.refl _ s).count n h⟩

theorem onLink_setCtx (s : State) (node : Nat) (x : Ctx) : OnLink s (s.setCtx node x) := ⟨rfl, floorRegs_of_eq rfl⟩

theorem onLink_unfull (s : State) (node : Nat) : OnLink s (s.unfull node) := ⟨rfl, floorRegs_of_eq rfl⟩

/-! ### Contexts -/

theorem ctxOf_setCtx_self (s : State) (node : Nat) (h : x.st ≠ .idle) : (s.setCtx node x).ctxOf node = x := by
  have hx : x ≠ {} := fun e => h (by rw [e])
  show SMap.get (fun _ => {}) (SMap.set (fun _ => {}) s.fl.ctx node x) node = x
  rw [SMap.set, if_neg hx, smap_get_insert_self]

theorem ctxOf_setCtx_other (s : State) (x : Ctx) (h : m ≠ node) : (s.setCtx node x).ctxOf m = s.ctxOf m :=
  smap_get_set_other _ _ x h

theorem ctxOf_congr (h : t.fl.ctx = s.fl.ctx) (m : Nat) : t.ctxOf m = s.ctxOf m := by rw [State.ctxOf, h]; rfl

theorem onLink_touchCtx (s : State) (node : Nat) : OnLink s (s.touchCtx node).1 := by
  unfold State.touchCtx
  have hmiss : FR.FL_CTX_MISS_CNT ∈ linkRegs := by simp [linkRegs]
  have hstep (x : FlState) (h : x = { s.fl with cached := x.cached, full := x.full }) :
      OnLink s (State.count { s with fl := x } FR.FL_CTX_MISS_CNT) := by
    refine OnLink.trans (t := { s with fl := x }) ⟨?_, floorRegs_of_eq rfl⟩ (onLink_count _ 1 hmiss)
    rw [h]
  split
  · exact ⟨rfl, floorRegs_of_eq rfl⟩
  · split
    · exact hstep _ rfl
    · split
      · exact hstep _ rfl
      · exact ⟨rfl, floorRegs_of_eq rfl⟩

theorem touchCtx_ctx (s : State) (node : Nat) : (s.touchCtx node).1.fl.ctx = s.fl.ctx ∧
    (s.touchCtx node).1.fl.wire = s.fl.wire ∧ (s.touchCtx node).1.fl.loop = s.fl.loop := by
  unfold State.touchCtx
  split
  · exact ⟨rfl, rfl, rfl⟩
  · split
    · exact ⟨rfl, rfl, rfl⟩
    · split <;> exact ⟨rfl, rfl, rfl⟩

/-- A context in the cache is found there. -/
theorem touchCtx_cached (h : s.fl.cached.contains node = true) : s.touchCtx node =
    ({ s with fl := { s.fl with cached := node :: s.fl.cached.filter (· != node), full := s.fl.full.del node } },
      true) := by
  rw [State.touchCtx, if_pos h]

/-! ### Frames that leave -/

theorem onLink_emit (s : State) (k node psn : Nat) (f : FrameOut) (apsn : Option Nat) : OnLink s (s.emit k node psn f
    apsn) := by
  unfold State.emit
  exact (onLink_count s 1 (by simp [linkRegs])).trans
    (.ite ⟨rfl, floorRegs_of_eq rfl⟩ ⟨rfl, floorRegs_of_eq rfl⟩)

theorem emit_ctx (s : State) (k node psn : Nat) (f : FrameOut) (apsn : Option Nat) :
    (s.emit k node psn f apsn).fl.ctx = s.fl.ctx := by
  unfold State.emit
  extract_lets s1
  split <;> rfl

/-- A frame counts, and is one more on the wire or, in loopback, on its way to the receive path (R375, R405). -/
theorem emit_one (s : State) (k node psn : Nat) (f : FrameOut) (apsn : Option Nat) (hw : FGood s.fregs) :
    let t := s.emit k node psn f apsn
    t.freg FR.FL_TX_PKT_CNT = (s.freg FR.FL_TX_PKT_CNT + 1) % 2 ^ 64 ∧
      t.fl.loop.length + t.fl.wire.length = s.fl.loop.length + s.fl.wire.length + 1 ∧
      t = { s with fl := { s.fl with loop := t.fl.loop, wire := t.fl.wire }, fregs := t.fregs, free := t.free } := by
  have hcount := freg_count_self FR.FL_TX_PKT_CNT 1 hw
  unfold State.emit
  dsimp only
  split
  · refine ⟨hcount, ?_, rfl⟩
    show (s.fl.loop ++ [_]).length + s.fl.wire.length = _
    rw [List.length_append, List.length_singleton]
    omega
  · exact ⟨hcount, rfl, rfl⟩

theorem emitPlain_some (hen : s.flEn = true) (hq : s.clearLink node = some q) (f : FrameOut) (apsn : Option Nat) :
    s.emitPlain node f apsn = s.emit q node (Config.frameField s.free 0) f apsn := by
  rw [State.emitPlain, hen, hq]
  rfl

theorem onLink_emitPlain (s : State) (node : Nat) (f : FrameOut) (apsn : Option Nat) : OnLink s (s.emitPlain node f
    apsn) := by
  unfold State.emitPlain
  refine .ite (.refl s) ?_
  split
  · exact onLink_emit s _ _ _ _ _
  · exact .refl s

theorem emitPlain_ctx (s : State) (node : Nat) (f : FrameOut) (apsn : Option Nat) :
    (s.emitPlain node f apsn).fl.ctx = s.fl.ctx := by
  unfold State.emitPlain
  split
  · rfl
  · split
    · exact emit_ctx s _ _ _ _ _
    · rfl

theorem onLink_resend (s : State) (k node : Nat) (u : Sent) : OnLink s (s.resend k node u) := by
  unfold State.resend
  exact ((onLink_emit s _ _ _ _ _).trans (onLink_count _ 1 (by simp [linkRegs]))).trans
    (.ite (onLink_count _ _ (by simp [linkRegs])) (.refl _))

theorem resend_ctx (s : State) (k node : Nat) (u : Sent) : (s.resend k node u).fl.ctx = s.fl.ctx := by
  unfold State.resend
  extract_lets s1
  have h1 : s1.fl.ctx = s.fl.ctx := emit_ctx s _ _ _ _ _
  split <;> exact h1

/-- Frames sent again: their PSNs stay, and the contexts. -/
theorem resendList_kept (node : Nat) (us : List Sent) (s : State) : OnLink s (State.resendList node us s).1 ∧
    (State.resendList node us s).1.fl.ctx = s.fl.ctx ∧ (State.resendList node us s).2.map (·.psn) = us.map (·.psn) := by
  induction us generalizing s with
  | nil => exact ⟨.refl s, rfl, rfl⟩
  | cons u us ih =>
    unfold State.resendList
    split
    · obtain ⟨h, hc, hp⟩ := ih (s.resend _ node u)
      exact ⟨(onLink_resend s _ node u).trans h, hc.trans (resend_ctx s _ node u), congrArg (u.psn :: ·) hp⟩
    · obtain ⟨h, hc, hp⟩ := ih s
      exact ⟨h, hc, congrArg (u.psn :: ·) hp⟩

/-- What is due again of a context goes out as far as it may: the context keeps all but which frames are due. -/
theorem resendDue_kept (hst : (s.ctxOf node).st ≠ .idle) : OnLink s (s.resendDue node) ∧
    (∃ us, us.map (·.psn) = (s.ctxOf node).unacked.map (·.psn) ∧
      (s.resendDue node).ctxOf node = { s.ctxOf node with unacked := us }) ∧
    ∀ m, m ≠ node → (s.resendDue node).ctxOf m = s.ctxOf m := by
  unfold State.resendDue
  extract_lets x r
  split
  · obtain ⟨h, hc, hp⟩ := resendList_kept node x.unacked s
    exact ⟨h.trans (onLink_setCtx _ node _), ⟨r.2, hp, ctxOf_setCtx_self r.1 node hst⟩,
      fun m hm => (ctxOf_setCtx_other r.1 _ hm).trans (ctxOf_congr hc m)⟩
  · exact ⟨.refl s, ⟨x.unacked, rfl, rfl⟩, fun _ _ => rfl⟩

/-! ### Routes and links stay -/

section
variable (h : OnLink s t)
include h

theorem OnLink.freg {a : Nat} (ha : a ∉ linkRegs) : t.freg a = s.freg a := h.regs.freg a ha

theorem OnLink.line (la : Nat) : t.line la = s.line la := by rw [State.line, State.line, h.mem]

theorem OnLink.rawAsleep (pa : Nat) : t.rawAsleep pa = s.rawAsleep pa := by
  have hof : t.stackOf pa = s.stackOf pa := by rw [State.stackOf, State.stackOf, h.freg (by decide)]
  have hsr (i : Nat) : t.stackSr i = s.stackSr i := by rw [State.stackSr, State.stackSr, h.pw]
  unfold State.rawAsleep
  rw [hof, hsr]

theorem OnLink.routeThere (node : Nat) : t.routeThere node = s.routeThere node := by
  simp only [State.routeThere, State.routeLine, State.hostBlocks, State.absent, h.line, h.rawAsleep, h.hs,
    h.freg (a := FR.FL_PEER_BASE) (by decide)]

end

/-- A route that can be read is not asked for. -/
theorem askRoute_there (h : s.routeThere node = true) : s.askRoute node = s := by
  rw [State.askRoute, h, Bool.true_or, if_pos rfl]

/-- A context with nothing queued sends at most what is due again. -/
theorem flushNode_unqueued (hst : (s.ctxOf node).st ≠ .idle) (hq : (s.ctxOf node).queue = [])
    (hr : s.routeThere node = true) : s.flushNode node = s.resendDue node := by
  obtain ⟨-, ⟨us, -, hctx⟩, -⟩ := resendDue_kept (s := s) (node := node) hst
  rw [State.flushNode, askRoute_there hr, ite_self, hctx, hq]
  rfl

theorem ctx_quiet (hx : x.waiting = false) : x.queue = [] ∧ ∀ u ∈ x.unacked, u.due = false := by
  rw [Ctx.waiting, Bool.or_eq_false_iff, Bool.not_eq_false', List.isEmpty_iff, List.any_eq_false] at hx
  exact ⟨hx.1, fun u hu => Bool.eq_false_iff.2 (hx.2 u hu)⟩

/-- A context with nothing to send sends nothing. -/
theorem flushNode_quiet (h : (s.ctxOf node).waiting = false) : s.flushNode node = s := by
  obtain ⟨hq, hdue⟩ := ctx_quiet h
  have hany : (s.ctxOf node).unacked.any (·.due) = false := List.any_eq_false.2 fun u hu => by simp [hdue u hu]
  have hdue : s.resendDue node = s := by rw [State.resendDue, hany, if_neg Bool.false_ne_true]
  rw [State.flushNode, h, if_neg Bool.false_ne_true, hdue, hq]
  rfl

theorem pumpFull_none (h : s.fl.full = []) : s.pumpFull = s := by rw [State.pumpFull, h]; rfl

end

end Sys2Proof.Proofs
end
section
/-! Frames that are accepted, what they do, and their acknowledgement (R376, R382, R390, R392, R402). -/

namespace Sys2Proof.Proofs
open Sys2Proof Sys2Proof.Machine Sys2Proof.Laws

variable {s t : State} {h : FrameIn} {k j : Fin 32} {i : Inst}

/-! ### Arrival -/

/-- What lets a frame of a peer through: the transport runs, the frame is whole, and the peer's context is UP, cached, and
of the epoch that the frame names. -/
structure Hears (s : State) (h : FrameIn) : Prop where
  main : s.dev.mainOn = true
  en : s.flEn = true
  ok : frameOk h = true
  up : (s.ctxOf h.src.toNat).st = .up
  epoch : (s.ctxOf h.src.toNat).epoch % 65536 = h.epoch.toNat
  cached : s.fl.cached.contains h.src.toNat = true
  clash : s.hasClash h.src.toNat = false
  unmarked : h.ce = false

/-- The state once a frame has been counted. -/
def heard (s : State) (node : Nat) : State := (s.touchCtx node).1.count FR.FL_RX_PKT_CNT

/-- The context with one frame more accepted and owed an acknowledgement. -/
def Ctx.took (x : Ctx) : Ctx := { x with rxCum := (x.rxCum + 1) % 2 ^ 32, owed := x.owed + 1 }

/-- The state once a frame that takes a PSN has been accepted. -/
def acceptedFrame (s : State) (node : Nat) : State :=
  (((s.touchCtx node).1).setCtx node (Ctx.took (s.ctxOf node))).count FR.FL_RX_PKT_CNT

theorem not_clashed {node : Nat} (h : s.hasClash node = false) : s.clashed node = false := by
  have hn : s.fl.clash.find? (fun e => e.1 == node) = none :=
    List.find?_eq_none.2 fun e he => Bool.eq_false_iff.1 (List.any_eq_false.1 h e he |> Bool.eq_false_iff.2)
  rw [State.clashed, hn]

theorem psnDiff_self (a : BitVec 32) : psnDiff a.toNat a.toNat = 0 := by
  have := a.isLt
  rw [psnDiff]
  omega

theorem accept_next {x : Ctx} {psn : BitVec 32} (hc : x.rxCum = psn.toNat) (hm : x.rxMap = []) :
    x.accept psn.toNat = some { x with rxCum := (x.rxCum + 1) % 2 ^ 32 } := by
  have hd : psnDiff psn.toNat x.rxCum = 0 := by rw [hc, psnDiff_self]
  have hadv : advanceMap 256 [] = (1, []) := rfl
  rw [Ctx.accept, hd, hm, hadv]
  rfl

/-- A frame that is heard is taken; it acknowledges nothing itself. -/
theorem arrive_unsequenced (hs : Hears s h) (hap : h.apsn = none) (len : Nat) :
    s.arrive h false len = .taken (heard s h.src.toNat) := by
  have hce : s.countCe h = s := by rw [State.countCe, hs.unmarked]; rfl
  have htouch := touchCtx_cached hs.cached
  unfold State.arrive
  simp only [hs.en, hs.ok, hce, hs.up, not_clashed hs.clash, hs.epoch, htouch, hap, heard, Bool.not_true,
    Bool.not_false, Bool.false_eq_true, if_false, if_true, ne_eq, not_true_eq_false, decide_false, Bool.or_self]

/-- A frame with the next PSN is accepted, and an acknowledgement is owed for it. -/
theorem arrive_sequenced (hs : Hears s h) (hap : h.apsn = none) (hpsn : (s.ctxOf h.src.toNat).rxCum = h.psn.toNat)
    (hmap : (s.ctxOf h.src.toNat).rxMap = []) (howed : (s.ctxOf h.src.toNat).owed < 7) (len : Nat) :
    s.arrive h true len = .taken (acceptedFrame s h.src.toNat) := by
  have hce : s.countCe h = s := by rw [State.countCe, hs.unmarked]; rfl
  have htouch : (s.touchCtx h.src.toNat).2 = true := by rw [touchCtx_cached hs.cached]
  have hctx : (s.touchCtx h.src.toNat).1.ctxOf h.src.toNat = s.ctxOf h.src.toNat :=
    ctxOf_congr (touchCtx_ctx s _).1 _
  have hlast : ¬ 8 ≤ (s.ctxOf h.src.toNat).owed + 1 := by omega
  unfold State.arrive
  simp only [hs.en, hs.ok, hce, hs.up, not_clashed hs.clash, hs.epoch, hap, Bool.not_true, Bool.false_eq_true, if_false,
    ne_eq, not_true_eq_false, decide_false, Bool.or_self, hctx, accept_next hpsn hmap, hlast, hs.unmarked,
      Nat.add_zero, htouch]
  rw [acceptedFrame, Ctx.took, hs.up]

theorem frame_taken {seq : Bool} {len : Nat} {t : State} (hmain : s.dev.mainOn = true)
    (ha : s.arrive h seq len = .taken t) (f : State → State) : s.frame h seq len f = f t := by
  rw [State.frame, hmain, if_pos rfl, ha]
  rfl

theorem onLink_heard (s : State) (node : Nat) : OnLink s (heard s node) :=
  (onLink_touchCtx s node).trans (onLink_count _ 1 (by simp [linkRegs]))

theorem onLink_acceptedFrame (s : State) (node : Nat) : OnLink s (acceptedFrame s node) :=
  ((onLink_touchCtx s node).trans (onLink_setCtx _ node _)).trans (onLink_count _ 1 (by simp [linkRegs]))

theorem ctxOf_acceptedFrame {node : Nat} (h : (s.ctxOf node).st = .up) :
    (acceptedFrame s node).ctxOf node = Ctx.took (s.ctxOf node) :=
  ctxOf_setCtx_self (s.touchCtx node).1 node (by rw [Ctx.took]; simp [h])

theorem instFor_congr (hce : t.ce = s.ce) (h : FrameIn) : t.instFor h = s.instFor h := by
  have hi : t.inst = s.inst := funext (inst_congr hce)
  rw [State.instFor, hi]
  rfl

/-! ### What an accepted frame does -/

theorem instFor_running (hk : s.instFor h = some k) (hi : s.inst k = some i) : i.ended = none := by
  have hp := List.find?_some hk
  simp only [hi, Bool.and_eq_true, Option.isNone_iff_eq_none] at hp
  exact hp.2

theorem noteSlow_unmarked (hs : h.slow = false) (i : Inst) : i.noteSlow h = i := by
  rw [Inst.noteSlow, hs, if_neg Bool.false_ne_true]

theorem feedInst_idle (hi : s.inst k = some i)
    (hidle : i.begun = false ∨ ∀ r ∈ i.peers, i.dueSteps (i.plan r) (i.sent.get (fun _ => 0) r) = 0) :
    s.feedInst k = s := by
  rw [State.feedInst, hi]
  dsimp only
  rcases hidle with hb | hdue
  · rw [hb, Bool.false_and, if_neg Bool.false_ne_true]
  · have hrank : ∀ r ∈ i.peers, s.feedRank k r = s := by
      intro r hr
      rw [State.feedRank, hi]
      exact if_pos (hdue r hr)
    have hfold (l : List Nat) (hl : ∀ r ∈ l, r ∈ i.peers) : l.foldl (fun s r => s.feedRank k r) s = s := by
      induction l with
      | nil => rfl
      | cons r l ih =>
        rw [List.foldl_cons, hrank r (hl r List.mem_cons_self)]
        exact ih fun q hq => hl q (List.mem_cons_of_mem r hq)
    rw [hfold _ fun r hr => (List.mem_filter.1 hr).1, ite_self]

/-- The instance with one more piece of data. -/
def withPiece (i : Inst) (h : FrameIn) (bs : List PByte) : Inst :=
  { i with
    data := i.data ++ [⟨h.rank.toNat, h.phase.toNat, h.offset.toNat, bs⟩], bytes := i.bytes + bs.length }

theorem takeData_idle (hk : s.instFor h = some k) (hi : s.inst k = some i) (hs : h.slow = false) (bs : List PByte)
    (hidle : i.begun = false ∨ ∀ r ∈ (withPiece i h bs).peers, (withPiece i h bs).dueSteps ((withPiece i h bs).plan r)
      ((withPiece i h bs).sent.get (fun _ => 0) r) = 0) :
    s.takeData h bs = s.setInst k (some (withPiece i h bs)) := by
  rw [State.takeData, hk]
  dsimp only
  rw [hi]
  dsimp only
  rw [noteSlow_unmarked hs]
  exact feedInst_idle (inst_setInst_self s k _) hidle

theorem takeReady_early (hk : s.instFor h = some k) (hi : s.inst k = some i) (hs : h.slow = false)
    (hb : i.begun = false) (digest : Nat) :
    s.takeReady h digest = s.setInst k (some { i with
      ready := i.ready.filter (fun e => e.1 != h.rank.toNat) ++ [(h.rank.toNat, digest)] }) := by
  rw [State.takeReady, hk]
  dsimp only
  rw [hi]
  dsimp only
  rw [noteSlow_unmarked hs, State.checkReady, inst_setInst_self]
  dsimp only
  rw [hb, Bool.not_false, Bool.true_or, if_pos rfl]

theorem takeAbort_unread (hk : s.instFor h = some k) (hi : s.inst k = some i) (hs : h.slow = false) (hgot : i.got =
    false)
    (hd : i.desc = 0) (hn : i.n = 0) (hfed : i.fed = []) (hq : s.ce.waitQ = []) (hm : s.ce.mine = none)
    (hw : FGood s.fregs) {status : Nat} (h0 : status ≠ 0) (h4 : status ≠ 4) (rank : Nat) :
    ∃ u, Aborted k u ((s.takeAbort h status rank).pumpSlots) ∧ u = s.setInst k (u.inst k) := by
  have hend := instFor_running hk hi
  generalize hx : ({ i with abortSeen := i.abortSeen.add h.rank.toNat } : Inst) = x
  have ha : Aborted k (s.setInst k (some x)) ((s.setInst k (some x)).abortInst k status rank) :=
    abortInst_unread (inst_setInst_self s k _) (by rw [← hx]; exact hend) (by rw [← hx]; exact hgot)
      (by rw [← hx]; exact hd) (by rw [← hx]; exact hn) (by rw [← hx]; exact hfed) hw h0 h4 rank
  have heq : s.takeAbort h status rank = (s.setInst k (some x)).abortInst k status rank := by
    rw [State.takeAbort, hk]
    dsimp only
    rw [hi]
    dsimp only
    rw [noteSlow_unmarked hs, hx]
  refine ⟨s.setInst k (some x), ?_, by rw [inst_setInst_self]⟩
  rw [heq, pumpSlots_none (by rw [ha.only.mine]; exact hm) (by rw [ha.only.waitQ]; exact hq)]
  exact ha

/-! ### Acknowledgements (R382, R383) -/

/-- A context that has taken an acknowledgement, before anything is sent again. -/
def ackedCtx (s : State) (node : Nat) (x : Ctx) (a : Nat) (map : BitVec 256) (ce : Nat) : Ctx :=
  let gone := x.unacked.filter (ackedBy a map)
  let left := (x.unacked.filter (fun u => !ackedBy a map u)).map (fun u =>
    if !u.resent && 3 ≤ laterSeen a map u then { u with resent := true, due := true } else u)
  let passed := decide (0 < psnDiff a x.roundEnd) && decide (psnDiff a x.roundEnd < 2 ^ 31)
  let x : Ctx := { x with
    unacked := left, roundBytes := x.roundBytes + (gone.map (fun u => u.frame.len)).sum, roundCe := x.roundCe + ce
    timeouts := if gone.isEmpty then x.timeouts else 0 }
  let x : Ctx := { x with cwnd := s.clampWin x x.cwnd }
  if passed then s.endRound node x else x

theorem takeAck_eq (s : State) (node a : Nat) (map : BitVec 256) (ce : Nat) : s.takeAck node a map ce =
    (((s.setCtx node (ackedCtx s node (s.ctxOf node) a map ce))).flushNode node).pumpFull := rfl

/-- The fields of a context that sending and acknowledgement leave as they are. -/
structure SameStream (x y : Ctx) : Prop where
  st : y.st = x.st
  queue : y.queue = x.queue
  rxCum : y.rxCum = x.rxCum
  owed : y.owed = x.owed
  srtt : y.srtt = x.srtt
  credit : y.credit = x.credit

theorem SameStream.withUnacked {x y : Ctx} (h : SameStream x y) (us : List Sent) : SameStream x
    { y with unacked := us } :=
  ⟨h.st, h.queue, h.rxCum, h.owed, h.srtt, h.credit⟩

theorem ackedCtx_kept (s : State) (node : Nat) (x : Ctx) (a : Nat) (map : BitVec 256) (ce : Nat) :
    SameStream x (ackedCtx s node x a map ce) ∧ (ackedCtx s node x a map ce).unacked.map (·.psn) =
      (x.unacked.filter (fun u => !ackedBy a map u)).map (·.psn) := by
  unfold ackedCtx
  extract_lets gone left passed y z
  have hpsn : left.map (·.psn) = (x.unacked.filter (fun u => !ackedBy a map u)).map (·.psn) := by
    rw [List.map_map]
    refine List.map_congr_left fun u _ => ?_
    show (if _ then _ else u : Sent).psn = u.psn
    split <;> rfl
  split <;> exact ⟨⟨rfl, rfl, rfl, rfl, rfl, rfl⟩, hpsn⟩

/-- State t is state s but for contexts, the order of their cache, the frames that leave, and counters. -/
theorem OnLink.unfilled (h : OnLink s t) (hf : t.fl.full = s.fl.full) : t = { s with
    fl := { s.fl with ctx := t.fl.ctx, cached := t.fl.cached, loop := t.fl.loop, wire := t.fl.wire }
    fregs := t.fregs, free := t.free } := by
  rw [h.frame, hf]

theorem resendList_full (node : Nat) (us : List Sent) (s : State) : (State.resendList node us s).1.fl.full =
    s.fl.full := by
  have hresend (k : Nat) (u : Sent) (s : State) : (s.resend k node u).fl.full = s.fl.full := by
    have hemit (psn : Nat) (f : FrameOut) (a : Option Nat) : (s.emit k node psn f a).fl.full = s.fl.full := by
      unfold State.emit
      extract_lets s1
      split <;> rfl
    unfold State.resend
    extract_lets s1
    have h1 : s1.fl.full = s.fl.full := hemit _ _ _
    split <;> exact h1
  induction us generalizing s with
  | nil => rfl
  | cons u us ih =>
    unfold State.resendList
    split
    · exact (ih _).trans (hresend _ u s)
    · exact ih s

theorem resendDue_full (s : State) (node : Nat) : (s.resendDue node).fl.full = s.fl.full := by
  unfold State.resendDue
  extract_lets x r
  split
  · exact resendList_full node x.unacked s
  · rfl

/-- A context with nothing queued, flushed: it keeps all but which frames are due, and other contexts stay. -/
theorem flushed_kept {node : Nat} (hst : (s.ctxOf node).st = .up) (hq : (s.ctxOf node).queue = [])
    (hr : s.routeThere node = true) (hfull : s.fl.full = []) :
    OnLink s (s.flushNode node).pumpFull ∧ (s.flushNode node).pumpFull.fl.full = [] ∧
      (∃ us, us.map (·.psn) = (s.ctxOf node).unacked.map (·.psn) ∧
        (s.flushNode node).pumpFull.ctxOf node = { s.ctxOf node with unacked := us }) ∧
      ∀ m, m ≠ node → (s.flushNode node).pumpFull.ctxOf m = s.ctxOf m := by
  have hidle : (s.ctxOf node).st ≠ .idle := by rw [hst]; decide
  have hf : (s.resendDue node).fl.full = [] := (resendDue_full s node).trans hfull
  rw [flushNode_unqueued hidle hq hr, pumpFull_none hf]
  obtain ⟨hl, hus, hoth⟩ := resendDue_kept hidle
  exact ⟨hl, hf, hus, hoth⟩

/-- A context with nothing queued, set to one of the same stream and flushed. -/
theorem setFlushed_kept {node : Nat} {y : Ctx} (hsame : SameStream (s.ctxOf node) y) (hst : (s.ctxOf node).st = .up)
    (hq : (s.ctxOf node).queue = []) (hr : s.routeThere node = true) (hfull : s.fl.full = []) :
    OnLink s ((s.setCtx node y).flushNode node).pumpFull ∧ ((s.setCtx node y).flushNode node).pumpFull.fl.full = [] ∧
      SameStream (s.ctxOf node) (((s.setCtx node y).flushNode node).pumpFull.ctxOf node) ∧
      (((s.setCtx node y).flushNode node).pumpFull.ctxOf node).unacked.map (·.psn) = y.unacked.map (·.psn) ∧
      ∀ m, m ≠ node → ((s.setCtx node y).flushNode node).pumpFull.ctxOf m = s.ctxOf m := by
  have hself : (s.setCtx node y).ctxOf node = y := ctxOf_setCtx_self s node (by rw [hsame.st, hst]; decide)
  have hsu := onLink_setCtx s node y
  obtain ⟨hl, hf, ⟨us, hus, hctx⟩, hoth⟩ := flushed_kept (s := s.setCtx node y) (node := node)
    (by rw [hself, hsame.st, hst]) (by rw [hself, hsame.queue, hq]) (by rw [hsu.routeThere, hr]) hfull
  rw [hself] at hus hctx
  rw [hctx]
  exact ⟨hsu.trans hl, hf, hsame.withUnacked us, hus, fun m hm => (hoth m hm).trans (ctxOf_setCtx_other s y hm)⟩

/-- An acknowledgement takes what it acknowledges from the context, and nothing of other contexts. -/
theorem takeAck_taken {node a : Nat} (hst : (s.ctxOf node).st = .up) (hq : (s.ctxOf node).queue = [])
    (hr : s.routeThere node = true) (hfull : s.fl.full = []) (map : BitVec 256) (ce : Nat) :
    OnLink s (s.takeAck node a map ce) ∧ (s.takeAck node a map ce).fl.full = [] ∧
      SameStream (s.ctxOf node) ((s.takeAck node a map ce).ctxOf node) ∧
      ((s.takeAck node a map ce).ctxOf node).unacked.map (·.psn) =
        ((s.ctxOf node).unacked.filter (fun u => !ackedBy a map u)).map (·.psn) ∧
      ∀ m, m ≠ node → (s.takeAck node a map ce).ctxOf m = s.ctxOf m := by
  have hkept := ackedCtx_kept s node (s.ctxOf node) a map ce
  rw [takeAck_eq, ← hkept.2]
  exact setFlushed_kept hkept.1 hst hq hr hfull

theorem ackIn_taken {a : AckIn} {p : BitVec 32} (hap : h.apsn = some p) (hst : (s.ctxOf h.src.toNat).st = .up)
    (hq : (s.ctxOf h.src.toNat).queue = []) (hr : s.routeThere h.src.toNat = true) (hfull : s.fl.full = []) :
    let t := s.ackIn h a
    let x := s.ctxOf h.src.toNat
    let y := t.ctxOf h.src.toNat
    OnLink s t ∧ t.fl.full = [] ∧
      y.unacked.map (·.psn) = (x.unacked.filter (fun u => !ackedBy p.toNat a.map u)).map (·.psn) ∧
      y.srtt = a.srtt ∧ y.credit = a.credit ∧ y.rxCum = x.rxCum ∧ y.owed = x.owed ∧
      ∀ m, m ≠ h.src.toNat → t.ctxOf m = s.ctxOf m := by
  generalize hx : ({ s.ctxOf h.src.toNat with srtt := a.srtt, credit := a.credit } : Ctx) = x
  generalize hu : s.setCtx h.src.toNat x = u
  have hxst : x.st = .up := by rw [← hx]; exact hst
  have hsu : OnLink s u := hu ▸ onLink_setCtx s _ x
  have hux : u.ctxOf h.src.toNat = x := hu ▸ ctxOf_setCtx_self s _ (by rw [hxst]; decide)
  have huf : u.fl.full = [] := by rw [← hu]; exact hfull
  obtain ⟨hl, hf, hsame, hpsn, hoth⟩ := takeAck_taken (s := u) (a := p.toNat) (by rw [hux, hxst])
    (by rw [hux, ← hx]; exact hq) (by rw [hsu.routeThere, hr]) huf a.map a.ceBytes
  have ht : s.ackIn h a = u.takeAck h.src.toNat p.toNat a.map a.ceBytes := by
    unfold State.ackIn
    simp only [hap, hx, hu]
  intro t x0 y
  have hy : y = (u.takeAck h.src.toNat p.toNat a.map a.ceBytes).ctxOf h.src.toNat := congrArg (fun v : State =>
    v.ctxOf h.src.toNat) ht
  have htt : t = _ := ht
  rw [hux, ← hx] at hsame hpsn
  rw [hy, htt]
  exact ⟨hsu.trans hl, hf, hpsn, hsame.srtt, hsame.credit, hsame.rxCum, hsame.owed,
    fun m hm => (hoth m hm).trans (by rw [← hu]; exact ctxOf_setCtx_other s x hm)⟩

/-- The acknowledgement that is owed goes out once a link is free. -/
theorem sendAck_sent {node : Nat} (hst : (s.ctxOf node).st = .up) (hen : s.flEn = true) (hlink : s.clearLink node ≠
    none)
    (hfull : s.fl.full = []) (hw : FGood s.fregs) :
    let t := s.sendAck node
    t.ctxOf node = { s.ctxOf node with owed := 0, owedCe := 0 } ∧
      t.freg FR.FL_TX_PKT_CNT = (s.freg FR.FL_TX_PKT_CNT + 1) % 2 ^ 64 ∧
      t.fl.loop.length + t.fl.wire.length = s.fl.loop.length + s.fl.wire.length + 1 ∧
      t = { s with fl := { s.fl with ctx := t.fl.ctx, loop := t.fl.loop, wire := t.fl.wire }
                   fregs := t.fregs, free := t.free } := by
  generalize hx : ({ s.ctxOf node with owed := 0, owedCe := 0 } : Ctx) = x
  have hxst : x.st ≠ .idle := by
    rw [← hx]
    show (s.ctxOf node).st ≠ .idle
    rw [hst]
    decide
  obtain ⟨q, hq⟩ := Option.ne_none_iff_exists'.1 hlink
  generalize hu : s.setCtx node x = u
  have huq : u.clearLink node = some q := by rw [← hu]; exact hq
  have huen : u.flEn = true := by rw [← hu]; exact hen
  have huw : FGood u.fregs := by rw [← hu]; exact hw
  generalize hv : u.emit q node (Config.frameField u.free 0) (s.ctxOf node).ackFrame (some (s.ctxOf node).rxCum) = v
  obtain ⟨hcount, hlen, hframe⟩ := emit_one u q node (Config.frameField u.free 0) (s.ctxOf node).ackFrame
    (some (s.ctxOf node).rxCum) huw
  rw [hv] at hcount hlen hframe
  have hvf : v.fl.full = [] := by rw [hframe, ← hu]; exact hfull
  have ht : s.sendAck node = v := by
    rw [State.sendAck, hen, hq]
    simp only [Bool.not_true, Option.isNone_some, Bool.or_self, Bool.false_eq_true, if_false]
    rw [hx, hu, emitPlain_some huen huq, hv, pumpFull_none hvf]
  rw [ht]
  refine ⟨?_, ?_, ?_, ?_⟩
  · rw [ctxOf_congr (s := u) (by rw [hframe]), ← hu, ctxOf_setCtx_self s node hxst]
  · rw [hcount, ← hu]
    rfl
  · rw [hlen, ← hu]
    rfl
  · rw [hframe, ← hu]
    rfl

/-! ### The obligation -/

section
variable {payload : List Byte} {poison : BitVec 64} {n : Nat}

theorem exec_data (hlen : payload.length ≤ 4096) (hmain : s.dev.mainOn = true)
    (ha : s.arrive h true payload.length = .taken t) (hjob : t.rx.job = none) :
    exec (.data h payload poison) s = .next (t.takeData h (payloadBytes payload poison)) := by
  show execData h payload poison s = _
  rw [execData, if_neg (by omega), frame_taken hmain ha]
  dsimp only
  rw [capture_idle hjob, ite_self]

theorem exec_ready (hmain : s.dev.mainOn = true) (ha : s.arrive h true 0 = .taken t) (digest : BitVec 32) :
    exec (.ready h digest) s = .next (t.takeReady h digest.toNat) := by
  show execReady h digest s = _
  rw [execReady, frame_taken hmain ha]

theorem exec_abortFrame (hmain : s.dev.mainOn = true) (ha : s.arrive h true 0 = .taken t) (st : BitVec 8)
    (rank : BitVec 16) :
    exec (.abortFrame h st rank) s = .next (t.takeAbort h st.toNat rank.toNat).pumpSlots := by
  show execAbortFrame h st rank s = _
  rw [execAbortFrame, frame_taken hmain ha]

theorem exec_ack (hst : (s.ctxOf h.src.toNat).st = .up) (hmain : s.dev.mainOn = true)
    (ha : s.arrive { h with apsn := none } false 0 = .taken t) (a : AckIn) :
    exec (.ack h a) s = .next (t.ackIn h a) := by
  show execAck h a s = _
  rw [execAck, hst, if_neg (by decide), frame_taken hmain ha]

theorem payloadBytes_length (bs : List Byte) (map : BitVec 64) : (payloadBytes bs map).length = bs.length := by
  rw [payloadBytes, List.length_map, List.length_range]

/-- A frame of a transport that is in step, but for what it carries. -/
structure InStep (s : State) (h : FrameIn) (u : State) : Prop where
  link : OnLink s u
  ctx : u.ctxOf h.src.toNat = Ctx.took (s.ctxOf h.src.toNat)
  canon : FGood u.fregs

theorem InStep.inst (hu : InStep s h t) (j : Fin 32) : t.inst j = s.inst j := inst_congr hu.link.ce j

/-- The aborted instance is all that an ABORT changes beside the transport. -/
theorem abortFrame_aborts (hu : InStep s h t) (hk : s.instFor h = some k) (hi : s.inst k = some i)
    (hslow : h.slow = false) (hgot : i.got = false) (hd : i.desc = 0) (hn : i.n = 0) (hfed : i.fed = [])
    (hq : s.ce.waitQ = []) (hm : s.ce.mine = none) {status : Nat} (h0 : status ≠ 0) (h4 : status ≠ 4) (rank : Nat) :
    let v := (t.takeAbort h status rank).pumpSlots
    v.ctxOf h.src.toNat = Ctx.took (s.ctxOf h.src.toNat) ∧ v.inst k = none ∧
      v.freg FR.CE_ABORT_CNT = (s.freg FR.CE_ABORT_CNT + 1) % 2 ^ 64 ∧ bitB (v.freg FR.CE_STATUS) 1 = true ∧
      (∀ m, m ≠ k → v.inst m = s.inst m) ∧ v.mem = s.mem ∧ v.cells = s.cells := by
  obtain ⟨w, ha, hw⟩ := takeAbort_unread (k := k) (by rw [instFor_congr hu.link.ce, hk]) (by rw [hu.inst, hi]) hslow
    hgot hd hn hfed (by rw [hu.link.ce, hq]) (by rw [hu.link.ce, hm]) hu.canon h0 h4 rank
  refine ⟨?_, ha.slot, ?_, ha.shown, fun m hm => ?_, ?_, ?_⟩
  · rw [ctxOf_congr (s := w) (by rw [ha.only.fl]), hw, ← hu.ctx]
    rfl
  · rw [ha.count, hw, ← hu.link.freg (a := FR.CE_ABORT_CNT) (by decide)]
    rfl
  · rw [ha.others m hm, hw, inst_setInst_other _ _ hm, hu.inst]
  · rw [ha.only.mem, hw, ← hu.link.mem]
    rfl
  · rw [ha.only.cells, hw, ← hu.link.cells]
    rfl

end

/-- Settles O43. -/
theorem transportFrames : Obligations.TransportFrames := by
  unfold Obligations.TransportFrames
  intro s h payload poison a digest st rank k i n x got fr hmain hen hok hup hepoch hcached hclash hce hslow hrx hmap
    howed hjob hw
  have hs : Hears s h := ⟨hmain, hen, hok, hup, hepoch, hcached, hclash, hce⟩
  have hsf : Hears s fr := ⟨hmain, hen, hok, hup, hepoch, hcached, hclash, hce⟩
  have hin : InStep s h (acceptedFrame s n) :=
    ⟨onLink_acceptedFrame s n, ctxOf_acceptedFrame hup, (onLink_acceptedFrame s n).regs.canon hw⟩
  have harrive (len : Nat) : s.arrive fr true len = .taken (acceptedFrame s n) := arrive_sequenced hsf rfl hrx hmap
    howed len
  have hjobu : (acceptedFrame s n).rx.job = none := by rw [hin.link.rx, hjob]
  have hctx (v : State) (hv : v.fl = (acceptedFrame s n).fl) : v.ctxOf n = got := by
    rw [ctxOf_congr (s := acceptedFrame s n) (by rw [hv])]
    exact hin.ctx
  refine ⟨fun hlen => ⟨fun hnone => ?_, ?_⟩, fun hk hi hb => ?_, fun hk hi hgot hd hn hfed hq hm h0 h4 => ?_, ?_,
    ?_, ?_⟩
  · refine ⟨_, exec_data hlen hmain (harrive _) hjobu, ?_⟩
    have hu : (acceptedFrame s n).instFor fr = none := (instFor_congr hin.link.ce fr).trans hnone
    have ht : (acceptedFrame s n).takeData fr (payloadBytes payload poison) =
        (acceptedFrame s n).count FR.FL_CRC_DROP_CNT := by
      rw [State.takeData, hu]
      rfl
    rw [ht]
    refine ⟨hctx _ rfl, hin.link.ce, ?_, hin.link.mem, hin.link.cells⟩
    rw [freg_count_self _ _ hin.canon, acceptedFrame, freg_count_other _ _ (by decide), touchCtx_cached hcached]
    rfl
  · intro j hk hi hidle
    refine ⟨_, exec_data hlen hmain (harrive _) hjobu, ?_⟩
    have hj : withPiece i fr (payloadBytes payload poison) = j := by
      rw [withPiece, payloadBytes_length]
    have hu : (acceptedFrame s n).instFor fr = some k := (instFor_congr hin.link.ce fr).trans hk
    rw [takeData_idle hu (by rw [hin.inst, hi]) hslow _ (by rw [hj]; exact hidle), hj]
    exact ⟨hctx _ rfl, inst_setInst_self _ k _, fun m hm => (inst_setInst_other _ _ hm).trans (hin.inst m),
      hin.link.mem,
      hin.link.cells⟩
  · refine ⟨_, exec_ready hmain (harrive _) digest, ?_⟩
    have hu : (acceptedFrame s n).instFor fr = some k := (instFor_congr hin.link.ce fr).trans hk
    rw [takeReady_early hu (by rw [hin.inst, hi]) hslow hb]
    exact ⟨hctx _ rfl, inst_setInst_self _ k _, fun m hm => (inst_setInst_other _ _ hm).trans (hin.inst m),
      hin.link.mem,
      hin.link.cells⟩
  · exact ⟨_, exec_abortFrame hmain (harrive _) st rank, abortFrame_aborts (h := fr) ⟨hin.link, hin.ctx, hin.canon⟩
      hk hi
      hslow hgot hd hn hfed hq hm (fun e => h0 (BitVec.eq_of_toNat_eq e)) (fun e => h4 (BitVec.eq_of_toNat_eq e)) _⟩
  · intro p hap hq hfull hr
    have hl := onLink_heard s n
    have hhear : s.arrive { h with apsn := none } false 0 = .taken (heard s n) := arrive_unsequenced hsf rfl 0
    have hhc : (heard s n).ctxOf n = x := ctxOf_congr (touchCtx_ctx s n).1 n
    have hhf : (heard s n).fl.full = [] := by
      rw [heard, touchCtx_cached hcached]
      show s.fl.full.del n = []
      rw [hfull]
      rfl
    obtain ⟨hl2, hf2, hpsn, hsrtt, hcredit, hcum, how, hoth⟩ := ackIn_taken (s := heard s n) (a := a) hap
      (by rw [hhc, hup])
      (by rw [hhc, hq]) (by rw [hl.routeThere, hr]) hhf
    refine ⟨_, exec_ack hup hmain hhear a, ?_⟩
    rw [hhc] at hpsn hcum how
    exact ⟨hpsn, hsrtt, hcredit, hcum, how, fun m hm => (hoth m hm).trans (ctxOf_congr (touchCtx_ctx s n).1 m),
      (hl.trans hl2).unfilled (by rw [hf2, hfull])⟩
  · intro hne hlink
    have hack : s.sendAck n = s := by rw [State.sendAck, hlink, Option.isNone_none, Bool.or_true, if_pos rfl]
    show execAckTimer h.src s = _
    rw [execAckTimer, if_neg hne, hack]
  · intro hne hlink hfull
    refine ⟨s.sendAck n, ?_, sendAck_sent hup hen hlink hfull hw⟩
    show execAckTimer h.src s = _
    rw [execAckTimer, if_neg hne]

end Sys2Proof.Proofs
end

section
/-! What starts no cell and leaves RST_STATUS and the slots of the Parade engine as they are: posts, the failure of
transfers, and halts. One lemma for each function, in the order of the model. -/

namespace Sys2Proof.Proofs
open Sys2Proof Sys2Proof.Machine Sys2Proof.Laws

/-- From s to t no sequencer is started, RST_STATUS stays, and so do the slots of the Parade engine. -/
structure Spares (s t : State) : Prop where
  modes : ∀ c, (s.cell c).mode ≠ .running → (t.cell c).mode ≠ .running
  status : t.freg FR.RST_STATUS = s.freg FR.RST_STATUS
  slots : t.ce.slots = s.ce.slots

variable {s t u : State} {α β : Type} {c : CellId}

theorem Spares.refl (s : State) : Spares s s := ⟨fun _ h => h, rfl, rfl⟩

theorem Spares.trans (h : Spares s t) (g : Spares t u) : Spares s u :=
  ⟨fun c hc => g.modes c (h.modes c hc), g.status.trans h.status, g.slots.trans h.slots⟩

theorem Spares.ite {p : Prop} [Decidable p] (h : Spares s t) (g : Spares s u) : Spares s (if p then t else u) := by
  split
  · exact h
  · exact g

theorem Spares.foldl {f : State → α → State} (hf : ∀ s a, Spares s (f s a)) (l : List α) (s : State) :
    Spares s (l.foldl f s) := by
  induction l generalizing s with
  | nil => exact .refl s
  | cons a l ih => exact (hf s a).trans (ih (f s a))

theorem spares_of_eq (hc : t.cells = s.cells) (hr : t.fregs = s.fregs)
    (hs : t.ce.slots = s.ce.slots) : Spares s t :=
  ⟨fun c h => by rwa [State.cell, hc], by rw [State.freg, hr]; rfl, hs⟩

theorem Spares.withPw (h : Spares s t) (p : PwrState) : Spares s { t with pw := p } := h.trans (spares_of_eq rfl rfl rfl)

theorem memOnly_ce (h : MemOnly s t) : t.ce = s.ce := by rw [h.1]

theorem spares_of_memOnly (h : MemOnly s t) : Spares s t :=
  ⟨fun c hc => by rwa [State.cell, memOnly_cells h], h.2, by rw [memOnly_ce h]⟩

theorem spares_of_sends (h : Sends s t) : Spares s t :=
  ⟨fun c hc => by rwa [State.cell, h.cells], h.regs.freg _ (by decide), by rw [h.ce]⟩

theorem spares_setCell (s : State) (c : CellId) {x : Cell} (h : x.mode = (s.cell c).mode ∨ x.mode ≠ .running) :
    Spares s (s.setCell c x) := by
  refine ⟨fun d hd => ?_, rfl, rfl⟩
  by_cases hdc : d = c
  · subst hdc
    rw [cell_setCell_self]
    rcases h with h | h
    · rwa [h]
    · exact h
  · rwa [cell_setCell_other s x hdc]

theorem spares_modCell (s : State) (c : CellId) {f : Cell → Cell} (h : (f (s.cell c)).mode = (s.cell c).mode) :
    Spares s (s.modCell c f) :=
  spares_setCell s c (.inl h)

theorem spares_count (s : State) {a : Nat} (n : Nat) (ha : a ≠ FR.RST_STATUS := by decide) : Spares s (s.count a n) :=
  spares_of_memOnly (memOnly_count (memOnly_refl s) ha)

theorem spares_orFreg (s : State) {a : Nat} (m : Nat) (ha : a ≠ FR.RST_STATUS := by decide) : Spares s (s.orFreg a m) :=
  spares_of_memOnly (memOnly_orFreg (memOnly_refl s) ha)

theorem spares_setFreg (s : State) {a : Nat} (v : Nat) (ha : a ≠ FR.RST_STATUS := by decide) : Spares s (s.setFreg a v) :=
  spares_of_memOnly (memOnly_setFreg (memOnly_refl s) a v ha)

theorem spares_logEvent (s : State) (code index cls addr info0 info1 : Nat) (hc : cls < 8 := by decide) :
    Spares s (s.logEvent code index cls addr info0 info1) :=
  spares_of_memOnly (memOnly_logEvent (memOnly_refl s) hc)

theorem spares_hostEvent (s : State) (b : Nat) : Spares s (s.hostEvent b) :=
  spares_of_memOnly (memOnly_hostEvent (memOnly_refl s))

theorem spares_countC (s : State) (c : CellId) (o n : Nat) : Spares s (s.countC c o n) := spares_modCell s c rfl

theorem spares_draw (s : State) : Spares s s.draw := spares_of_eq rfl rfl rfl

theorem spares_stall (s : State) (c : CellId) (o : Nat) : Spares s (s.stall c o) :=
  (spares_countC s c o _).trans (spares_draw _)

/-! ### Posts and the failure of transfers -/

theorem spares_startPll (s : State) : Spares s s.startPll := by
  unfold State.startPll
  split
  · exact spares_of_eq rfl rfl rfl
  · exact .refl s

theorem spares_endDoze (s : State) (c : CellId) : Spares s (s.endDoze c) := by
  unfold State.endDoze
  split
  · exact (spares_modCell s c rfl).trans (spares_draw _)
  · exact .refl s

theorem startPll_cells (s : State) : s.startPll.cells = s.cells := by
  unfold State.startPll
  split <;> rfl

theorem spares_requestWake (s : State) (c : CellId) : Spares s (s.requestWake c) := by
  have hx : s.startPll.cell c = s.cell c := by
    rw [State.cell, startPll_cells]
    rfl
  unfold State.requestWake
  dsimp only
  split
  · refine .ite (.refl s) (.ite ?_ ?_)
    · exact (spares_modCell s c rfl).withPw _
    · refine Spares.trans ?_ (spares_count _ 1)
      exact ((spares_startPll s).trans (spares_setCell _ c (.inl (by rw [hx])))).withPw _
  · exact .refl s

theorem faultHead_mode (x : Cell) (f : FaultInfo) : (x.faultHead f).mode = x.mode := by
  unfold Cell.faultHead
  split <;> rfl

theorem meetMark_mode (x : Cell) (k : BitVec 6) : (x.meetMark k).mode = x.mode := by
  unfold Cell.meetMark
  extract_lets m
  split
  · rfl
  · split
    · exact faultHead_mode _ _
    · rfl

theorem markFailed_mode (x : Cell) (k : BitVec 6) (uc : Bool) : (x.markFailed k uc).mode = x.mode := meetMark_mode _ k

theorem haltSlot_mode (x : Cell) (n : Fin 6) (t : Transfer) (reason detail va : Nat) :
    (x.haltSlot n t reason detail va).mode = x.mode := by
  unfold Cell.haltSlot
  split
  · split <;> rfl
  · rfl

theorem spares_addPost (s : State) (c : CellId) (k : BitVec 6) (n : Nat) : Spares s (s.addPost c k n) := by
  unfold State.addPost
  dsimp only
  refine .ite (spares_setCell s c (.inl rfl)) (Spares.trans ?_ (spares_logEvent _ _ _ _ _ _ _))
  exact spares_setCell s c (.inl rfl)

theorem spares_haltLinks {fail : Fin 6 → Transfer → State → State} (hf : ∀ n t s, Spares s (fail n t s)) (c : CellId)
    (l : List Waiter) (s : State) : Spares s (haltLinks fail c l s) := by
  induction l generalizing s with
  | nil => exact .refl s
  | cons w l ih =>
    cases w with
    | seq i => exact ih s
    | link n =>
      refine Spares.trans ?_ (ih _)
      split
      · exact hf _ _ s
      · exact .refl s

theorem haltClass_lt (reason : Nat) : haltClass reason < 8 := by
  unfold haltClass
  split <;> decide

theorem spares_failTransfer (fuel : Nat) : ∀ (c : CellId) (n : Fin 6) (x : Transfer) (reason detail va : Nat) (s : State),
    Spares s (failTransfer fuel c n x reason detail va s) := by
  induction fuel with
  | zero => exact fun _ _ _ _ _ _ s => .refl s
  | succ fuel ih =>
    intro c n x reason detail va s
    unfold failTransfer
    extract_lets uc fc s1 l1 s2 l2 s3 s4 go
    have h1 : Spares s s1 := spares_modCell s c (haltSlot_mode _ _ _ _ _ _)
    have h2 : Spares s s2 := h1.trans (.ite (spares_modCell _ c (markFailed_mode _ _ _)) (.refl _))
    have h3 : Spares s s3 := h2.trans (.ite (spares_modCell _ fc (markFailed_mode _ _ _)) (.refl _))
    have h4 : Spares s s4 := h3.trans (spares_logEvent _ _ _ _ _ _ _ (haltClass_lt reason))
    have hgo (c : CellId) (k : BitVec 6) (n : Fin 6) (y : Transfer) (v : State) : Spares v (go c k n y v) :=
      ih c n _ 9 k.toNat 0 v
    exact h4.trans ((spares_haltLinks (hgo c _) c l1 s4).trans (spares_haltLinks (hgo fc _) fc l2 _))

theorem spares_meetOvf (s : State) (c : CellId) (k : BitVec 6) : Spares s (s.meetOvf c k) := by
  unfold State.meetOvf
  exact (spares_modCell s c (meetMark_mode _ k)).trans (spares_haltLinks (fun n t v => spares_failTransfer 1537 c n _ 9 _ 0 v)
    c _ _)

theorem spares_post (s : State) (c : CellId) (k : BitVec 6) (n : Nat) : Spares s (s.post c k n) := by
  have hasleep (l : List HeldPost) : Spares s (State.requestWake (s.setCell c { s.cell c with
      cp := { (s.cell c).cp with held := l } }) c) := by
    refine Spares.trans ?_ (spares_requestWake _ c)
    exact spares_setCell s c (.inl rfl)
  have hawake : Spares s ((s.endDoze c).addPost c k n) := (spares_endDoze s c).trans (spares_addPost _ c k n)
  unfold State.post
  refine .ite (.refl s) ?_
  split
  · exact hasleep _
  · exact hasleep _
  · exact .ite (hawake.trans (spares_meetOvf _ c k)) hawake
  · exact .ite (hawake.trans (spares_meetOvf _ c k)) hawake

theorem spares_completionPost (s : State) (c : CellId) (pen : Bool) (k : BitVec 6) : Spares s (s.completionPost c pen k) :=
  .ite (spares_post s c k 1) (.refl s)

/-! ### Halts -/

theorem spares_countCommit (s : State) (c : CellId) (e : InFlight) : Spares s (s.countCommit c e) := by
  unfold State.countCommit
  extract_lets s1 s2 s3
  have h2 : Spares s s2 := ((spares_countC s c _ 1).trans (spares_countC s1 c _ _)).trans (spares_draw _)
  have h3 : Spares s s3 := h2.trans (.ite (.refl _) ((spares_countC _ c _ _).trans (spares_draw _)))
  split
  · exact h3.trans (spares_stall _ c _)
  · exact h3

theorem countDiscard_mode (x : Cell) (w : List InFlight) : (x.countDiscard w).mode = x.mode := by
  unfold Cell.countDiscard
  split <;> rfl

theorem spares_commitHead (s : State) (c : CellId) (e : InFlight) (jump : Option Word) (post : Bool) :
    Spares s (s.commitHead c e jump post) := by
  unfold State.commitHead
  extract_lets actual s1 s2
  have h2 : Spares s s2 := by
    refine (spares_countCommit s c e).trans (spares_modCell s1 c ?_)
    dsimp only
    split
    · rfl
    · split
      · split <;> rfl
      · exact countDiscard_mode _ _
  exact .ite (h2.trans (spares_completionPost _ c _ _)) h2

theorem spares_finishGranted (s : State) (c : CellId) : Spares s (s.finishGranted c) := by
  unfold State.finishGranted
  split
  · exact .refl s
  · split
    · exact Spares.trans (.ite (spares_modCell s c (wrS_mode _ _ _)) (.refl s)) (spares_commitHead _ c _ _ _)
    · exact .refl s

theorem spares_withdrawHead (s : State) (c : CellId) : Spares s (s.withdrawHead c) := by
  have hset (k : Scope) (b : Barrier) : Spares s (s.setBarrier k b) := by
    cases k <;> exact spares_of_eq rfl rfl rfl
  unfold State.withdrawHead
  split
  · exact .refl s
  · split
    · exact hset _ _
    · exact .refl s

theorem haltNow_mode (s : State) (c : CellId) : ((s.haltNow c).cell c).mode = .halted := by
  unfold State.haltNow
  extract_lets s1
  rw [cell_modCell_self]

theorem spares_haltNow (s : State) (c : CellId) : Spares s (s.haltNow c) := by
  unfold State.haltNow
  extract_lets s1
  exact ((spares_finishGranted s c).trans (spares_withdrawHead _ c)).trans (spares_setCell s1 c (.inr (by simp)))

theorem spares_haltCell (s : State) (c : CellId) : Spares s (s.haltCell c) := by
  unfold State.haltCell
  split
  · exact (spares_endDoze s c).trans (spares_haltNow _ c)
  · exact .refl s

theorem haltCell_mode (s : State) (c : CellId) : ((s.haltCell c).cell c).mode ≠ .running := by
  unfold State.haltCell
  split
  · rw [haltNow_mode]
    decide
  · assumption

/-- After a halt of all cells of a list none of them runs. -/
theorem haltAll_modes (l : List CellId) (s : State) : ∀ c ∈ l, ((l.foldl State.haltCell s).cell c).mode ≠ .running := by
  induction l generalizing s with
  | nil => exact fun c hc => absurd hc List.not_mem_nil
  | cons a l ih =>
    intro c hc
    rcases List.mem_cons.1 hc with rfl | hc
    · exact (Spares.foldl spares_haltCell l (s.haltCell c)).modes c (haltCell_mode s c)
    · exact ih _ c hc

end Sys2Proof.Proofs
end

section
/-! What the deliveries to the Harvest units and the end of an instance of the Parade engine leave as it is: every step of
theirs starts no sequencer and keeps RST_STATUS. -/

namespace Sys2Proof.Proofs
open Sys2Proof Sys2Proof.Machine Sys2Proof.Laws

variable {s t u : State} {α β : Type} {P : State → Prop}

theorem spares_hv (s : State) (h : HvState) : Spares s { s with hv := h } := spares_of_eq rfl rfl rfl

theorem spares_ce (s : State) (x : CeState) (h : x.slots = s.ce.slots) : Spares s { s with ce := x } :=
  spares_of_eq rfl rfl h

/-! ### The Harvest units -/

theorem spares_hvComplete (s : State) : Spares s s.hvComplete := by
  unfold State.hvComplete
  extract_lets fin _ s'
  exact (spares_hv s _ : Spares s s').trans (.foldl (fun s b => spares_completionPost s _ _ _) _ s')

theorem spares_fixSkip (s : State) : Spares s s.fixSkip := .ite (spares_hv s _) (.refl s)

theorem spares_failLayer (s : State) (l reason va : Nat) (k : Fin 16) : Spares s (s.failLayer l reason va k) := by
  unfold State.failLayer
  extract_lets _ s1 s2
  have hva : FR.HV_U_FAULT_VA k.val ≠ FR.RST_STATUS := by
    show ¬ (0x30010020130 + 64 * k.val = 0x30010090000)
    omega
  refine .ite (.refl s) ?_
  have h2 : Spares s s2 := ((spares_hv s _ : Spares s s1).trans (spares_orFreg s1 _)).trans (spares_setFreg _ _ hva)
  refine (h2.trans (spares_logEvent s2 _ _ _ _ _ _ ?_)).trans (spares_hvComplete _)
  split <;> decide

theorem spares_refuseDelivery (s : State) (l : Nat) : Spares s (s.refuseDelivery l) :=
  ((spares_orFreg s _).trans (spares_count _ _)).trans (spares_logEvent _ _ _ _ _ _ _)

theorem spares_acceptLayer (s : State) (w : StatusWord) (nf : Bool) (l : Nat) (e : Option Entry) (p : Desc)
    (bad : Option (Nat × Nat)) : Spares s (s.acceptLayer w nf l e p bad) := by
  unfold State.acceptLayer
  extract_lets e' mismatch s1 d _ s2 s3
  have h1 : Spares s s1 := .ite (spares_orFreg s _) (.refl s)
  have h2 : Spares s s2 := (h1.trans (spares_hv s1 _)).trans (spares_fixSkip _)
  have h3 : Spares s s3 := by
    refine h2.trans (.ite ((spares_orFreg s2 _).trans (spares_failLayer _ _ _ _ _)) ?_)
    split
    · exact spares_failLayer s2 _ _ _ _
    · exact .refl s2
  exact h3.trans (spares_hvComplete s3)

/-- The state that an access of an engine leaves, however it ends, satisfies P. -/
def HAll (P : State → Prop) : HRes α → Prop
  | .ok s _ => P s
  | .wait s => P s
  | .fail s _ _ => P s

theorem HAll.bind {r : HRes α} {k : State → α → HRes β} (h : HAll P r) (hk : ∀ u v, P u → HAll P (k u v)) :
    HAll P (r.bind k) := by
  cases r with
  | ok u v => exact hk u v h
  | wait u => exact h
  | fail u w va => exact h

theorem hAll_hvAccess {a : Access} {k : State → AccRes α} (h : Spares s t) (hk : MemAcc t (k t)) :
    HAll (Spares s) (t.hvAccess a k) := by
  unfold State.hvAccess
  split
  · exact h.trans (spares_hv t _)
  · revert hk
    cases k t with
    | ok u v => exact fun hk => h.trans (spares_of_memOnly hk)
    | wait u why => exact fun hk => (h.trans (spares_of_memOnly hk)).trans (spares_hv u _)
    | fault u w => exact fun hk => h.trans (spares_of_memOnly hk)
    | range u => exact fun hk => h.trans (spares_of_memOnly hk)

theorem hAll_hvReadAux {k : Fin 16} {cls : Fin 8} (fuel : Nat) : ∀ {va n : Nat} {acc : List PByte} {t : State},
    Spares s t → HAll (Spares s) (State.hvReadAux k cls fuel va n acc t) := by
  induction fuel with
  | zero => exact fun h => h
  | succ fuel ih =>
    intro va n acc t h
    unfold State.hvReadAux
    split
    · exact h
    · exact (hAll_hvAccess h (memAcc_vread (memOnly_refl t))).bind (fun u v hu => ih hu)

theorem hAll_hvRead {k : Fin 16} {cls : Fin 8} {va n : Nat} (h : Spares s t) : HAll (Spares s) (t.hvRead k cls va n) :=
  (hAll_hvReadAux _ h).bind (fun u v hu => by
    split
    · exact hu
    · exact hu)

theorem hAll_readEntry {l : Nat} (h : Spares s t) : HAll (Spares s) (t.readEntry l) :=
  (hAll_hvRead h).bind (fun _ _ hu => hu)

theorem hAll_readLayer {l : Nat} (h : Spares s t) : HAll (Spares s) (t.readLayer l) :=
  (hAll_readEntry h).bind (fun u v hu => by
    split
    · exact (hAll_hvRead hu).bind (fun _ _ hu => hu)
    · exact hu)

/-- The state that a delivery leaves, however it ends, satisfies P. -/
def DelAll (P : State → Prop) : DelRes → Prop
  | .wait s => P s
  | .refused s => P s
  | .accepted s => P s

theorem delAll_deliverLayer {l : Nat} {nf : Bool} {word : State → Option Entry → HRes (StatusWord × Option (Nat × Nat))}
    (hw : ∀ u e, Spares s u → HAll (Spares s) (word u e)) (h : Spares s t) :
    DelAll (Spares s) (t.deliverLayer l nf word) := by
  unfold State.deliverLayer
  extract_lets go
  have hgo (u : State) (e : Option Entry) (p : Desc) (bad : Option (Nat × Nat)) (hu : Spares s u) :
      DelAll (Spares s) (go u e p bad) := by
    have h1 := hw u e hu
    unfold go
    revert h1
    cases word u e with
    | ok v w => exact fun h1 => h1.trans (spares_acceptLayer v _ _ _ _ _ _)
    | wait v => exact fun h1 => h1
    | fail v r va => exact fun h1 => h1.trans (spares_acceptLayer v _ _ _ _ _ _)
  split
  · exact h
  · split
    · exact h.trans (spares_refuseDelivery t l)
    · have h1 := hAll_readEntry (l := l) h
      revert h1
      cases t.readEntry l with
      | wait u => exact fun h1 => h1
      | fail u r va => exact fun h1 => hgo u _ _ _ h1
      | ok u e =>
        intro h1
        dsimp only
        split
        · exact Spares.trans h1 (spares_refuseDelivery u l)
        · have h2 := hAll_readLayer (l := l) (show Spares s u from h1)
          revert h2
          cases u.readLayer l with
          | wait v => exact fun h2 => h2
          | fail v r va => exact fun h2 => hgo v _ _ _ h2
          | ok v r => exact fun h2 => hgo v _ _ _ h2

theorem spares_ceDeliver (fuel : Nat) : ∀ s : State, Spares s (State.ceDeliver fuel s) := by
  induction fuel with
  | zero => exact fun s => .refl s
  | succ fuel ih =>
    intro s
    unfold State.ceDeliver
    split
    · exact .refl s
    · next l nf w rest q =>
      have hnext {t : State} (h : Spares s t) : Spares s (State.ceDeliver fuel { t with ce := { t.ce with deliver := rest } }) :=
        (h.trans (spares_ce t { t.ce with deliver := rest } rfl)).trans (ih _)
      dsimp only
      split
      · exact hnext (spares_refuseDelivery s l)
      · have h1 := delAll_deliverLayer (l := l) (nf := nf) (word := fun s _ => .ok s (w, none)) (fun _ _ hu => hu) (.refl s)
        revert h1
        cases s.deliverLayer l nf (fun s _ => .ok s (w, none)) with
        | wait u => exact fun h1 => h1
        | refused u => exact fun h1 => hnext h1
        | accepted u => exact fun h1 => hnext h1

/-! ### The Parade engine -/

theorem hAll_ceAccess {who : Nat} {a : Access} {k : State → AccRes α} (h : Spares s t) (hk : MemAcc t (k t)) :
    HAll (Spares s) (t.ceAccess who a k) := by
  unfold State.ceAccess
  split
  · exact h.trans (spares_ce t _ rfl)
  · revert hk
    cases k t with
    | ok u v => exact fun hk => h.trans (spares_of_memOnly hk)
    | wait u why => exact fun hk => (h.trans (spares_of_memOnly hk)).trans (spares_ce u _ rfl)
    | fault u w => exact fun hk => h.trans (spares_of_memOnly hk)
    | range u => exact fun hk => h.trans (spares_of_memOnly hk)

theorem hAll_ceWriteAux {who : Nat} {cls : Fin 8} (fuel : Nat) : ∀ {va : Nat} {bs : List PByte} {t : State},
    Spares s t → HAll (Spares s) (State.ceWriteAux who cls fuel va bs t) := by
  induction fuel with
  | zero => exact fun h => h
  | succ fuel ih =>
    intro va bs t h
    unfold State.ceWriteAux
    split
    · exact h
    · exact (hAll_ceAccess h (memAcc_vwrite (memOnly_refl t))).bind (fun u v hu => ih hu)

theorem hAll_ceWrite {who : Nat} {cls : Fin 8} {va : Nat} {bs : List PByte} (h : Spares s t) :
    HAll (Spares s) (t.ceWrite who cls va bs) :=
  hAll_ceWriteAux _ h

theorem spares_ceSpoil {cls : Fin 8} (fuel : Nat) : ∀ (va : Nat) (bs : List PByte) (s : State),
    Spares s (State.ceSpoil cls fuel va bs s) := by
  induction fuel with
  | zero => exact fun _ _ s => .refl s
  | succ fuel ih =>
    intro va bs s
    unfold State.ceSpoil
    split
    · exact .refl s
    · refine Spares.trans ?_ (ih _ _ _)
      split
      · next q => exact spares_of_memOnly (memOnly_of_aok q (memAcc_vwrite (memOnly_refl s)))
      · exact .refl s

theorem spares_spoilDst (s : State) (i : Inst) : Spares s (s.spoilDst i) := by
  unfold State.spoilDst
  split
  · exact Spares.trans (spares_draw s) (spares_ceSpoil _ _ _ _)
  · exact .refl s

theorem spares_noteFault (s : State) (va : Nat) : Spares s (s.noteFault va) :=
  (spares_setFreg s _).trans (spares_orFreg _ _)

/-- What of an instance that is aborted goes: its data that wait, the others are told, and what has reached its destination
is undefined. -/
theorem spares_withdrawn (s : State) (i : Inst) (status rank : Nat) :
    Spares s (((s.dropData i).sendAborts i status rank).spoilDst i) :=
  ((spares_of_sends (sends_dropData _ _)).trans (spares_of_sends (sends_sendAborts _ _ _ _))).trans (spares_spoilDst _ _)

theorem spares_endExchange (s : State) (halt : Bool) : Spares s (s.endExchange halt) := by
  unfold State.endExchange
  split
  · refine Spares.trans ?_ (spares_hostEvent _ 4)
    exact spares_of_eq rfl rfl rfl
  · exact spares_of_eq rfl rfl rfl

theorem spares_abortExchange (s : State) (status : Nat) : Spares s (s.abortExchange status) := by
  unfold State.abortExchange
  split
  · exact ((spares_orFreg s _).trans (spares_logEvent _ _ _ _ _ _ _)).trans (spares_endExchange _ _)
  · exact .refl s

/-- From s to t no sequencer is started, and RST_STATUS stays. -/
structure Rests (s t : State) : Prop where
  modes : ∀ c, (s.cell c).mode ≠ .running → (t.cell c).mode ≠ .running
  status : t.freg FR.RST_STATUS = s.freg FR.RST_STATUS

theorem Spares.rests (h : Spares s t) : Rests s t := ⟨h.modes, h.status⟩

theorem Rests.trans (h : Rests s t) (g : Rests t u) : Rests s u :=
  ⟨fun c hc => g.modes c (h.modes c hc), g.status.trans h.status⟩

theorem Rests.foldl {f : State → α → State} (hf : ∀ s a, Rests s (f s a)) (l : List α) (s : State) :
    Rests s (l.foldl f s) := by
  induction l generalizing s with
  | nil => exact (Spares.refl s).rests
  | cons a l ih => exact (hf s a).trans (ih (f s a))

theorem rests_ce (s : State) (x : CeState) : Rests s { s with ce := x } := ⟨fun _ h => h, rfl⟩

theorem rests_closeInst (s : State) (k : Fin 32) (i : Inst) (status rank : Nat) (word : StatusWord) (nf : Bool) :
    Rests s (s.closeInst k i status rank word nf) := by
  unfold State.closeInst
  extract_lets who s1 s2 s3 s4 _ s5 _
  have h1 : Spares s s1 := .ite (.refl s) (spares_logEvent s _ _ _ _ _ _)
  have h2 : Spares s s2 := h1.trans (.ite (spares_count s1 _) (.ite (.refl s1)
    (((spares_count s1 _).trans (spares_orFreg _ _)).trans (spares_logEvent _ _ _ _ _ _ _))))
  have h3 : Spares s s3 := h2.trans (.ite (spares_hostEvent s2 _) (.refl s2))
  have h5 : Rests s s5 := (h3.rests.trans (rests_ce s3 _)).trans (rests_ce s4 _)
  split
  · exact (h5.trans (rests_ce s5 _)).trans (spares_ceDeliver _ _).rests
  · exact h5

/-- The record of an instance: what its two writes leave. -/
theorem hAll_recordWrite {who : Nat} {cls : Fin 8} {va : Nat} {hi lo : List PByte} (s : State) :
    HAll (Spares s) ((s.ceWrite who cls (va + 8) hi).bind (fun s _ => s.ceWrite who cls va lo)) :=
  (hAll_ceWrite (.refl s)).bind (fun _ _ hu => hAll_ceWrite hu)

/-- What an instance is once its end has been decided and its record has not been written. -/
def Inst.ending (i : Inst) (status rank : Nat) (word : StatusWord) (nf : Bool) : Inst :=
  { i with ended := some (status, rank), word, nf }

/-- The end of an instance leaves a state whose slots are those of a state that it spares, and either its own slot is closed
there, or it waits there to write its record. -/
theorem endInst_ends (s : State) (k : Fin 32) (i : Inst) (status rank : Nat) (word : StatusWord) (nf : Bool) :
    ∃ (u : State) (i' : Inst), Spares s u ∧ i'.desc = i.desc ∧
      ((∃ st rk w n, s.endInst k i status rank word nf = u.closeInst k i' st rk w n) ∨
        (i'.ended = some (status, rank) ∧ s.endInst k i status rank word nf = u.setInst k (some i'))) := by
  unfold State.endInst
  extract_lets i' comp rec64
  have hd : i'.desc = i.desc := rfl
  split
  · exact ⟨s, i', .refl s, hd, .inl ⟨_, _, _, _, rfl⟩⟩
  · have hw := hAll_recordWrite (who := i'.cid) (cls := i'.cls) (va := comp) (hi := clean (rec64.drop 8))
      (lo := clean (rec64.take 8)) s
    revert hw
    cases (s.ceWrite i'.cid i'.cls (comp + 8) (clean (rec64.drop 8))).bind
      (fun s _ => s.ceWrite i'.cid i'.cls comp (clean (rec64.take 8))) with
    | ok u v => exact fun hw => ⟨u, i', hw, hd, .inl ⟨_, _, _, _, rfl⟩⟩
    | wait u => exact fun hw => ⟨u, i', hw, hd, .inr ⟨rfl, rfl⟩⟩
    | fail u r va =>
      intro hw
      have hn : Spares s (u.noteFault va) := Spares.trans hw (spares_noteFault u va)
      dsimp only
      split
      · exact ⟨u, i', hw, hd, .inl ⟨_, _, _, _, rfl⟩⟩
      · split
        · exact ⟨_, i', hn, hd, .inl ⟨_, _, _, _, rfl⟩⟩
        · exact ⟨_, i', hn.trans (spares_withdrawn _ i' 3 i'.me), hd, .inl ⟨_, _, _, _, rfl⟩⟩

theorem rests_endInst (s : State) (k : Fin 32) (i : Inst) (status rank : Nat) (word : StatusWord) (nf : Bool) :
    Rests s (s.endInst k i status rank word nf) := by
  obtain ⟨u, i', hu, -, ⟨st, rk, w, n, q⟩ | ⟨-, q⟩⟩ := endInst_ends s k i status rank word nf
  · rw [q]
    exact hu.rests.trans (rests_closeInst u _ _ _ _ _ _)
  · rw [q]
    exact hu.rests.trans (rests_ce u _)

theorem rests_abortInst (s : State) (k : Fin 32) (status rank : Nat) : Rests s (s.abortInst k status rank) := by
  unfold State.abortInst
  split
  · exact (Spares.refl s).rests
  · split
    · exact (Spares.refl s).rests
    · next i _ _ =>
      extract_lets i' s1 s2
      have h1 : Rests s s1 := (rests_ce s _).trans (spares_withdrawn _ i' _ _).rests
      have h2 : Rests s s2 := h1.trans (rests_endInst s1 _ _ _ _ _ _)
      split
      · exact h2.trans (spares_abortExchange s2 _).rests
      · exact h2

end Sys2Proof.Proofs
end

section
/-! The halt of all cells where nothing that a cell has been granted posts at its end, and what data that become undefined
leave as they were (R182, R402, R496). -/

namespace Sys2Proof.Proofs
open Sys2Proof Sys2Proof.Machine Sys2Proof.Laws

variable {s t u : State} {c d : CellId}

/-- From s to t only cell c, its barrier and the free values have changed. -/
structure OnCell (c : CellId) (s t : State) : Prop where
  frame : t = { s with cells := t.cells, sync := t.sync, free := t.free }
  others : ∀ d, d ≠ c → t.cell d = s.cell d

theorem OnCell.refl (c : CellId) (s : State) : OnCell c s s := ⟨rfl, fun _ _ => rfl⟩

theorem OnCell.trans (h : OnCell c s t) (g : OnCell c t u) : OnCell c s u :=
  ⟨by rw [g.frame, h.frame], fun d hd => (g.others d hd).trans (h.others d hd)⟩

theorem OnCell.ite {p : Prop} [Decidable p] (h : OnCell c s t) (g : OnCell c s u) : OnCell c s (if p then t else u) := by
  split
  · exact h
  · exact g

theorem onCell_modCell (s : State) (c : CellId) (f : Cell → Cell) : OnCell c s (s.modCell c f) :=
  ⟨rfl, fun _ hd => cell_modCell_other s f hd⟩

theorem onCell_draw (s : State) (c : CellId) : OnCell c s s.draw := ⟨rfl, fun _ _ => rfl⟩

theorem onCell_endDoze (s : State) (c : CellId) : OnCell c s (s.endDoze c) := by
  unfold State.endDoze
  split
  · exact (onCell_modCell s c _).trans (onCell_draw _ c)
  · exact .refl c s

theorem onCell_countCommit (s : State) (c : CellId) (e : InFlight) : OnCell c s (s.countCommit c e) := by
  have hcount (u : State) (o n : Nat) : OnCell c u (u.countC c o n) := onCell_modCell u c _
  unfold State.countCommit
  extract_lets s1 s2 s3
  have h2 : OnCell c s s2 := ((hcount s _ 1).trans (hcount s1 _ _)).trans (onCell_draw _ c)
  have h3 : OnCell c s s3 := h2.trans (.ite (.refl c _) ((hcount _ _ _).trans (onCell_draw _ c)))
  split
  · exact h3.trans ((hcount _ _ _).trans (onCell_draw _ c))
  · exact h3

theorem onCell_commitHead (s : State) (c : CellId) (e : InFlight) (jump : Option Word) (hlong : e.ins.op.long = false) :
    OnCell c s (s.commitHead c e jump true) := by
  unfold State.commitHead
  extract_lets actual s1 s2
  rw [hlong, Bool.and_false, if_neg Bool.false_ne_true]
  exact (onCell_countCommit s c e).trans (onCell_modCell s1 c _)

/-- Nothing that cell c has been granted makes a completion post. -/
def Postless (c : CellId) (s : State) : Prop :=
  ∀ e, (s.cell c).head = some e → e.granted = none ∨ e.ins.op.long = false

theorem onCell_finishGranted (h : Postless c s) : OnCell c s (s.finishGranted c) := by
  unfold State.finishGranted
  split
  · exact .refl c s
  · next e he =>
    split
    · next v hv _ =>
      have hlong : e.ins.op.long = false := by simpa [hv] using h e he
      exact (OnCell.ite (onCell_modCell s c _) (.refl c s)).trans (onCell_commitHead _ c e none hlong)
    · exact .refl c s

theorem onCell_withdrawHead (s : State) (c : CellId) : OnCell c s (s.withdrawHead c) := by
  have hset (k : Scope) (b : Barrier) : OnCell c s (s.setBarrier k b) := by
    cases k <;> exact ⟨rfl, fun _ _ => rfl⟩
  unfold State.withdrawHead
  split
  · exact .refl c s
  · split
    · exact hset _ _
    · exact .refl c s

theorem onCell_haltNow (h : Postless c s) : OnCell c s (s.haltNow c) := by
  unfold State.haltNow
  extract_lets s1
  exact ((onCell_finishGranted h).trans (onCell_withdrawHead _ c)).trans (onCell_modCell s1 c _)

theorem endDoze_head (s : State) (c : CellId) : ((s.endDoze c).cell c).head = (s.cell c).head := by
  rw [(endDoze_cell s c).1]
  rfl

theorem onCell_haltCell (h : Postless c s) : OnCell c s (s.haltCell c) := by
  unfold State.haltCell
  split
  · exact (onCell_endDoze s c).trans (onCell_haltNow fun e he => h e (by rw [← he, endDoze_head]))
  · exact .refl c s

theorem haltCell_resting (h : (s.cell c).mode ≠ .running) : s.haltCell c = s := by
  unfold State.haltCell
  split
  · next hrun => exact absurd hrun h
  · rfl

theorem haltNow_head (s : State) (c : CellId) : ((s.haltNow c).cell c).head = none := by
  unfold State.haltNow
  extract_lets s1
  rw [cell_modCell_self]
  rfl

theorem postless_haltCell (h : Postless d s) (hc : Postless c s) : Postless d (s.haltCell c) := by
  by_cases hd : d = c
  · subst hd
    unfold State.haltCell
    split
    · intro e he
      rw [haltNow_head] at he
      exact absurd he (by simp)
    · exact h
  · intro e he
    rw [(onCell_haltCell hc).others d hd] at he
    exact h e he

/-- From s to t only cells that ran, barriers and the free values have changed. -/
structure Halted (s t : State) : Prop where
  frame : t = { s with cells := t.cells, sync := t.sync, free := t.free }
  resting : ∀ d, (s.cell d).mode ≠ .running → t.cell d = s.cell d

theorem Halted.trans (h : Halted s t) (g : Halted t u) : Halted s u :=
  ⟨by rw [g.frame, h.frame],
    fun d hd => (g.resting d (by rwa [h.resting d hd])).trans (h.resting d hd)⟩

theorem halted_haltCell (h : Postless c s) : Halted s (s.haltCell c) := by
  refine ⟨(onCell_haltCell h).frame, fun d hd => ?_⟩
  by_cases hdc : d = c
  · subst hdc
    rw [haltCell_resting hd]
  · exact (onCell_haltCell h).others d hdc

/-- All cells of a list halt. -/
theorem halted_foldl (l : List CellId) : ∀ {s : State}, (∀ c, Postless c s) → Halted s (l.foldl State.haltCell s) := by
  induction l with
  | nil => exact fun _ => ⟨rfl, fun _ _ => rfl⟩
  | cons a l ih => exact fun h => (halted_haltCell (h a)).trans (ih fun c => postless_haltCell (h c) (h a))

/-! ### Data that become undefined -/

/-- Cell y is cell x but for its data. -/
def DataOf (x y : Cell) : Prop :=
  y = { x with
    s := y.s, d := y.d, oc := y.oc, ocPoison := y.ocPoison, ocEpoch := y.ocEpoch, im := y.im, imBad := y.imBad
    imEpoch := y.imEpoch, acc := y.acc, accEpoch := y.accEpoch }

/-- From s to t only the data of cells and slices have changed. -/
structure Spoilt (s t : State) : Prop where
  frame : t = { s with cells := t.cells, slices := t.slices }
  cells : ∀ c, DataOf (s.cell c) (t.cell c)

theorem dataOf_trans {x y z : Cell} (h : DataOf x y) (g : DataOf y z) : DataOf x z := by
  unfold DataOf at *
  rw [g, h]

theorem dataOf_mode {x y : Cell} (h : DataOf x y) : y.mode = x.mode := by
  rw [DataOf] at h
  rw [h]

theorem Spoilt.trans (h : Spoilt s t) (g : Spoilt t u) : Spoilt s u :=
  ⟨by rw [g.frame, h.frame], fun c => dataOf_trans (h.cells c) (g.cells c)⟩

theorem spoilt_spoilCell (e : Nat) (s : State) (c : CellId) : Spoilt s (State.spoilCell e s c) := by
  unfold State.spoilCell
  extract_lets e' s1
  refine ⟨rfl, fun d => ?_⟩
  show DataOf (s.cell d) (s1.cell d)
  by_cases hd : d = c
  · subst hd
    rw [cell_modCell_self]
    rfl
  · rw [cell_modCell_other _ _ hd]
    rfl

theorem spoilt_foldl (e : Nat) (l : List CellId) (s : State) : Spoilt s (l.foldl (State.spoilCell e) s) := by
  induction l generalizing s with
  | nil => exact ⟨rfl, fun _ => rfl⟩
  | cons a l ih => exact (spoilt_spoilCell e s a).trans (ih _)

/-- What data that become undefined leave of a state. -/
structure Undefined (s t : State) : Prop where
  frame : t = { s with cells := t.cells, slices := t.slices, free := t.free, mem := t.mem }
  cells : ∀ c, DataOf (s.cell c) (t.cell c)
  mem : t.mem =
    { s.mem with hbm := [], hbmPoison := [], tagSyn := [], hbmEpoch := t.mem.hbmEpoch, lines := t.mem.lines }
  lines : ∀ la, t.line la = { s.line la with data := (t.line la).data, poison := (t.line la).poison }

/-- What becomes of a line of the caches. -/
def undefLine (e : Nat) (q : Nat × Line) : Nat × Line :=
  if q.2.st == .i then q else (q.1, { q.2 with data := Config.undefLine e q.1, poison := [] })

theorem undefLine_at (e : Nat) (q : Nat × Line) : (undefLine e q).1 = q.1 ∧
    (undefLine e q).2 = { q.2 with data := (undefLine e q).2.data, poison := (undefLine e q).2.poison } := by
  unfold undefLine
  split
  · exact ⟨rfl, rfl⟩
  · exact ⟨rfl, rfl⟩

theorem get_map_undefLine (e la : Nat) (m : SMap Line) :
    SMap.get (fun _ => ({} : Line)) (m.map (undefLine e)) la =
      { SMap.get (fun _ => ({} : Line)) m la with
        data := (SMap.get (fun _ => ({} : Line)) (m.map (undefLine e)) la).data
        poison := (SMap.get (fun _ => ({} : Line)) (m.map (undefLine e)) la).poison } := by
  induction m with
  | nil => rfl
  | cons q m ih =>
    obtain ⟨hk, hv⟩ := undefLine_at e q
    rw [List.map_cons]
    generalize undefLine e q = q' at hk hv
    obtain ⟨k, v⟩ := q
    obtain ⟨k', v'⟩ := q'
    dsimp only at hk hv
    subst hk
    simp only [SMap.get]
    split
    · exact hv
    · exact ih

theorem undefined_of_spoilt (h : Spoilt s t) (e f : Nat) :
    Undefined s { t with
      free := f
      mem := { t.mem with
        hbm := [], hbmPoison := [], tagSyn := [], hbmEpoch := e + 1, lines := t.mem.lines.map (undefLine e) } } := by
  have hmem : t.mem = s.mem := by rw [h.frame]
  refine ⟨by rw [h.frame], h.cells, by rw [hmem], fun la => ?_⟩
  show SMap.get _ (t.mem.lines.map (undefLine e)) la = _
  rw [hmem]
  exact get_map_undefLine e la s.mem.lines

theorem undefined_spoilData (s : State) : Undefined s s.spoilData :=
  undefined_of_spoilt (spoilt_foldl s.free allCells s) s.free (s.free + 513)

theorem undefined_ce (h : Undefined s t) : t.ce = s.ce := by rw [h.frame]

theorem rests_of_undefined (h : Undefined s t) : Rests s t := by
  refine ⟨fun c hc => ?_, ?_⟩
  · have hmode : (t.cell c).mode = (s.cell c).mode := dataOf_mode (h.cells c)
    rwa [hmode]
  · rw [h.frame]
    rfl

end Sys2Proof.Proofs
end

section
/-! Fatal errors (R182, R402, R496 to R499). -/

namespace Sys2Proof.Proofs
open Sys2Proof Sys2Proof.Machine Sys2Proof.Laws

variable {s t u : State}

/-! ### The record of a fatal error -/

/-- An event of class 4 goes into the buffer and, while there is room, into the severe store (R499). -/
theorem logEvent_severe (s : State) (code index addr info0 info1 : Nat) (h : s.alm.severe.length < 64) :
    ∃ r : AlmRec, (s.logEvent code index 4 addr info0 info1).alm.severe = s.alm.severe ++ [r] ∧
      (s.alm.seq % 1024, r) ∈ (s.logEvent code index 4 addr info0 info1).alm.buf ∧
      r.seq = s.alm.seq ∧ r.code = code ∧ r.cls = 4 ∧ r.index = index % 65536 ∧ r.info0 = info0 ∧
      r.time = s.timeUs := by
  unfold State.logEvent
  extract_lets seq r s1 a1 s2 e used a2 s3 s4 up host s5
  rw [decide_eq_false (by decide : ¬ 4 ≤ 1), Bool.false_and, if_neg Bool.false_ne_true]
  have h5 : s5.alm = s4.alm := by unfold s5; split <;> rfl
  have hrec : (s3.storeRec r).alm = { s3.alm with buf := s3.alm.buf.insert (r.seq % 1024) r } := storeRec_alm s3 r
  have h4 : s4.alm = { (s3.storeRec r).alm with severe := (s3.storeRec r).alm.severe ++ [r] } := by
    have hlen : (s3.storeRec r).alm.severe.length < 64 := by rw [hrec]; exact h
    show ((s3.storeRec r).storeSevere r).alm = _
    rw [State.storeSevere, if_pos (by decide : (decide (2 ≤ 4) && decide (4 ≤ 4)) = true), if_pos hlen]
  have hlast : (if ((4 == 3) || (4 == 4)) && s5.dev.mainOn then s5.hostEvent 3 else s5).alm = s4.alm := by
    rw [apply_ite State.alm, hostEvent_alm, ite_self, h5]
  refine ⟨r, ?_, ?_, rfl, rfl, rfl, rfl, rfl, rfl⟩
  · rw [hlast, h4, hrec]
    rfl
  · rw [hlast, h4, hrec]
    exact mem_insert_self _ _ r

theorem hostEvent_aer (s : State) (b : Nat) : (s.hostEvent b).hs.aer = s.hs.aer := by rw [hostEvent_hs]

/-- An event of class 4 is reported while the link is up (R496). -/
theorem logEvent_aer (s : State) (code index addr info0 info1 : Nat) (h : s.hs.link = .cxl) :
    (s.logEvent code index 4 addr info0 info1).hs.aer = s.hs.aer + 1 := by
  unfold State.logEvent
  extract_lets seq r s1 a1 s2 e used a2 s3 s4 up host s5
  rw [decide_eq_false (by decide : ¬ 4 ≤ 1), Bool.false_and, if_neg Bool.false_ne_true]
  have h3 : s3.hs = s.hs := by unfold s3; split <;> rfl
  have h4 : s4.hs = s.hs := by
    show ((s3.storeRec r).storeSevere r).hs = _
    rw [storeSevere_hs, storeRec_hs, h3]
  have hup : up = true := by
    show (match s4.hs.link with | .down => false | _ => true) = true
    rw [h4, h]
  have h5 : s5.hs.aer = s.hs.aer + 1 := by
    show (if ((4 == 4) && up) = true then _ else _ : State).hs.aer = _
    rw [hup, if_pos (by decide), h4]
  rw [apply_ite State.hs, apply_ite HostState.aer, hostEvent_aer, ite_self, h5]

/-! ### The steps of a fatal error -/

/-- The halt of all cells. -/
def fatalHalted (s : State) : State := allCells.foldl State.haltCell (s.orFreg FR.RST_STATUS 8)

/-- The instances that wait to start are dropped. -/
def startsDropped (s : State) : State := { s with ce := { s.ce with waitQ := [], mine := none } }

/-- The instance of a slot, if any, is aborted. -/
def abortSlot (s : State) (k : Fin 32) : State :=
  match s.inst k with
  | some i => s.abortInst k 3 (if i.n = 0 then 0xFFFFFFFF else i.me)
  | none => s

/-- The instances of a state are dropped or aborted. -/
def paradeAborted (s : State) : State := allSlots.foldl abortSlot (startsDropped s)

theorem fatalError_eq (s : State) (source cause : Nat) :
    s.fatalError source cause = (paradeAborted (fatalHalted s)).spoilData.logEvent 0x0A02 source 4 0 cause 0 := by
  unfold State.fatalError paradeAborted startsDropped fatalHalted abortSlot
  rfl

theorem abortSlot_none {k : Fin 32} (h : s.inst k = none) : abortSlot s k = s := by
  rw [abortSlot, h]

theorem rests_abortSlot (s : State) (k : Fin 32) : Rests s (abortSlot s k) := by
  unfold abortSlot
  split
  · exact rests_abortInst s k 3 _
  · exact (Spares.refl s).rests

/-- What follows the halt of the cells starts none. -/
theorem rests_fatalError (s : State) (source cause : Nat) : Rests (fatalHalted s) (s.fatalError source cause) := by
  have haborted (t : State) : Rests t (paradeAborted t) := (rests_ce t _).trans (.foldl rests_abortSlot _ _)
  rw [fatalError_eq]
  exact ((haborted _).trans (rests_of_undefined (undefined_spoilData _))).trans (spares_logEvent _ _ _ _ _ _ _).rests

theorem fatalError_modes (s : State) (source cause : Nat) (c : CellId) :
    ((s.fatalError source cause).cell c).mode ≠ .running :=
  (rests_fatalError s source cause).modes c (haltAll_modes allCells _ c (mem_allCells c))

theorem fatalError_fatal (s : State) (source cause : Nat) (hw : SMap.wf floorResetVal s.fregs = true) :
    (s.fatalError source cause).fatal = true := by
  have h : Rests (s.orFreg FR.RST_STATUS (2 ^ 3)) (s.fatalError source cause) :=
    (Spares.foldl spares_haltCell allCells _).rests.trans (rests_fatalError s source cause)
  rw [State.fatal, h.status]
  exact bitB_orFreg_self FR.RST_STATUS (by decide) hw

/-! ### Where no instance runs -/

theorem abortSlots_none (l : List (Fin 32)) (h : ∀ k, s.inst k = none) : l.foldl abortSlot s = s := by
  induction l with
  | nil => rfl
  | cons k l ih => rw [List.foldl_cons, abortSlot_none (h k), ih]

theorem paradeAborted_none (h : Halted (s.orFreg FR.RST_STATUS 8) t) (hi : ∀ k, s.inst k = none) :
    paradeAborted t = startsDropped t := by
  have hce : t.ce = s.ce := by rw [h.frame]; rfl
  have hinst (k : Fin 32) : (startsDropped t).inst k = s.inst k := by
    show t.ce.slots[k] = s.ce.slots[k]
    rw [hce]
  exact abortSlots_none allSlots fun k => (hinst k).trans (hi k)

/-- What a fatal error leaves of a state in which no instance runs, before its record is written. -/
structure Struck (s u : State) : Prop where
  frame : u = { s with
    cells := u.cells, slices := u.slices, sync := u.sync, free := u.free, mem := u.mem, fregs := u.fregs
    ce := { s.ce with waitQ := [], mine := none } }
  resting : ∀ c, (s.cell c).mode ≠ .running → DataOf (s.cell c) (u.cell c)
  mem : u.mem = { s.mem with hbm := [], hbmPoison := [], tagSyn := [], hbmEpoch := u.mem.hbmEpoch, lines := u.mem.lines }
  lines : ∀ la, u.line la = { s.line la with data := (u.line la).data, poison := (u.line la).poison }

theorem struck_of_halted (h : Halted (s.orFreg FR.RST_STATUS 8) t) (hu : Undefined (startsDropped t) u) : Struck s u := by
  have hmem : (startsDropped t).mem = s.mem := by rw [startsDropped, h.frame]; rfl
  refine ⟨?_, fun c hc => ?_, ?_, fun la => ?_⟩
  · rw [hu.frame, startsDropped, h.frame]
    rfl
  · have hcell : (startsDropped t).cell c = s.cell c := h.resting c hc
    rw [← hcell]
    exact hu.cells c
  · rw [← hmem]
    exact hu.mem
  · have hline : (startsDropped t).line la = s.line la := by rw [State.line, hmem]; rfl
    rw [← hline]
    exact hu.lines la

theorem struck_spoilData (hp : ∀ c, Postless c s) (hi : ∀ k, s.inst k = none) :
    Struck s (paradeAborted (fatalHalted s)).spoilData := by
  have h : Halted (s.orFreg FR.RST_STATUS 8) (fatalHalted s) := halted_foldl allCells hp
  rw [paradeAborted_none h hi]
  exact struck_of_halted h (undefined_spoilData _)

/-! ### One instance -/

/-- The slots other than k are free, and the instance of k is gone or has aborted with LOCAL_FAULT. -/
structure Ended (k : Fin 32) (me : Nat) (s : State) : Prop where
  others : ∀ j, j ≠ k → s.inst j = none
  self : s.inst k = none ∨ ∃ i', s.inst k = some i' ∧ i'.ended = some (3, me)

theorem inst_spares (h : Spares s t) (j : Fin 32) : t.inst j = s.inst j := by
  rw [State.inst, h.slots]
  rfl

theorem harvest_congr {i i' : Inst} (h : i'.desc = i.desc) : i'.harvest = i.harvest := by
  rw [Inst.harvest, Inst.f, h]
  rfl

theorem inst_closeInst {i : Inst} (hv : i.harvest = false) (s : State) (k : Fin 32) (status rank : Nat) (word : StatusWord)
    (nf : Bool) : (s.closeInst k i status rank word nf).inst k = none ∧
      ∀ j, j ≠ k → (s.closeInst k i status rank word nf).inst j = s.inst j := by
  have hce : (endNoted s i status rank).ce = s.ce := (logs_endNoted s i status rank).ce
  rw [closeInst_eq hv]
  exact ⟨inst_slotFreed_self _ k i, fun j hj => (inst_slotFreed_other _ i hj).trans (inst_congr hce j)⟩

theorem ended_endInst {k : Fin 32} {i : Inst} (hv : i.harvest = false) (h : ∀ j, j ≠ k → s.inst j = none)
    (status rank : Nat) (word : StatusWord) (nf : Bool) (hstatus : status = 3) :
    Ended k rank (s.endInst k i status rank word nf) := by
  obtain ⟨u, i', hu, hd, ⟨st, rk, w, n, q⟩ | ⟨he, q⟩⟩ := endInst_ends s k i status rank word nf
  · obtain ⟨hself, hothers⟩ := inst_closeInst ((harvest_congr hd).trans hv) u k st rk w n
    rw [q]
    exact ⟨fun j hj => (hothers j hj).trans ((inst_spares hu j).trans (h j hj)), .inl hself⟩
  · rw [q]
    refine ⟨fun j hj => (inst_setInst_other u _ hj).trans ((inst_spares hu j).trans (h j hj)),
      .inr ⟨i', inst_setInst_self u k _, ?_⟩⟩
    rw [he, hstatus]

theorem Ended.congr {k : Fin 32} {me : Nat} (h : Ended k me s) (he : ∀ j, t.inst j = s.inst j) : Ended k me t :=
  ⟨fun j hj => (he j).trans (h.others j hj), by rw [he k]; exact h.self⟩

theorem ended_abortInst {k : Fin 32} {i : Inst} (hi : s.inst k = some i) (he : i.ended = none) (hv : i.harvest = false)
    (h : ∀ j, j ≠ k → s.inst j = none) (rank : Nat) : Ended k rank (s.abortInst k 3 rank) := by
  unfold State.abortInst
  rw [hi]
  dsimp -zeta only
  rw [he, Option.isSome_none, if_neg Bool.false_ne_true]
  extract_lets i' s1 s2
  have h1 : ∀ j, j ≠ k → s1.inst j = none := fun j hj =>
    (inst_spares (spares_withdrawn _ i' 3 rank) j).trans ((inst_setInst_other s _ hj).trans (h j hj))
  have hv' : i'.harvest = false := (harvest_congr (i := i) rfl).trans hv
  have h2 : Ended k rank s2 := ended_endInst hv' h1 3 rank _ _ rfl
  split
  · exact h2.congr (inst_spares (spares_abortExchange s2 3))
  · exact h2

theorem abortSlot_ended {k : Fin 32} {me : Nat} (h : Ended k me s) (j : Fin 32) : abortSlot s j = s := by
  by_cases hj : j = k
  · subst hj
    rcases h.self with hn | ⟨i, hi, he⟩
    · exact abortSlot_none hn
    · rw [abortSlot, hi]
      dsimp only
      rw [State.abortInst, hi]
      dsimp only
      rw [he, Option.isSome_some, if_pos rfl]
  · exact abortSlot_none (h.others j hj)

theorem abortSlots_ended {k : Fin 32} {me : Nat} (l : List (Fin 32)) (h : Ended k me s) : l.foldl abortSlot s = s := by
  induction l with
  | nil => rfl
  | cons j l ih => rw [List.foldl_cons, abortSlot_ended h, ih]

theorem ended_abortSlots {k : Fin 32} {i : Inst} (hi : s.inst k = some i) (he : i.ended = none) (hn : 0 < i.n)
    (hv : i.harvest = false) (h : ∀ j, j ≠ k → s.inst j = none) (l : List (Fin 32)) (hk : k ∈ l) :
    Ended k i.me (l.foldl abortSlot s) := by
  induction l with
  | nil => exact absurd hk List.not_mem_nil
  | cons j l ih =>
    rw [List.foldl_cons]
    by_cases hj : j = k
    · subst hj
      have hended : Ended j i.me (abortSlot s j) := by
        rw [abortSlot, hi]
        dsimp only
        rw [if_neg (by omega)]
        exact ended_abortInst hi he hv h i.me
      rw [abortSlots_ended l hended]
      exact hended
    · rw [abortSlot_none (h j hj)]
      exact ih (List.mem_of_ne_of_mem (Ne.symm hj) hk)

theorem inst_startsDropped (h : t.ce.slots = s.ce.slots) (j : Fin 32) : (startsDropped t).inst j = s.inst j := by
  show t.ce.slots[j] = s.ce.slots[j]
  rw [h]

theorem spares_fatalHalted (s : State) : Spares (s.orFreg FR.RST_STATUS 8) (fatalHalted s) := by
  unfold fatalHalted
  exact .foldl spares_haltCell allCells _

/-- An instance alone in its slot is gone after a fatal error, or has aborted with LOCAL_FAULT. -/
theorem fatalError_ended {k : Fin 32} {i : Inst} (hi : s.inst k = some i) (he : i.ended = none) (hn : 0 < i.n)
    (hv : i.harvest = false) (h : ∀ j, j ≠ k → s.inst j = none) (source cause : Nat) :
    Ended k i.me (s.fatalError source cause) := by
  have hslots : (fatalHalted s).ce.slots = s.ce.slots := (spares_fatalHalted s).slots
  have hinst := inst_startsDropped hslots
  have hended : Ended k i.me (paradeAborted (fatalHalted s)) := ended_abortSlots ((hinst k).trans hi) he hn hv
    (fun j hj => (hinst j).trans (h j hj)) allSlots (List.mem_finRange k)
  rw [fatalError_eq]
  exact hended.congr fun j =>
    (inst_congr (logs_logEvent _ _ _ _ _ _ _).ce j).trans (inst_congr (undefined_ce (undefined_spoilData _)) j)

end Sys2Proof.Proofs
end

section
/-! Records that go to the ring in memory (R498, R502), and the severe store that software empties. -/

namespace Sys2Proof.Proofs
open Sys2Proof Sys2Proof.Machine Sys2Proof.Laws

variable {s : State} {o : Origin}

/-! ### The severe store -/

theorem almSevClr_empties (h : Reaches o s FR.ALM_SEV_CLR) (hs : Still s) :
    exec (.almSevClr o) s = .next { s with alm := { s.alm with severe := [] } } := by
  have hem : 1 % 2 ^ 32 &&& lowHalf = 1 := by decide
  have hstill : Still { s with alm := { s.alm with severe := [] } } := still_memory hs rfl rfl rfl
  show Host.Outcome.next (s.writeReg o FR.ALM_SEV_CLR 4 1) = _
  rw [writeReg_word h (by decide +kernel) (by decide) (by decide +kernel) (by decide),
    writeFloor_action (r := (floorReg FR.ALM_SEV_CLR).get (by decide +kernel)) (by simp) (by decide +kernel), hem]
  show Host.Outcome.next (State.goOn { s with alm := { s.alm with severe := [] } }) = _
  rw [goOn_still hstill]

/-! ### The bytes of a record -/

theorem leBytes_add (m n x : Nat) : leBytes (m + n) x = leBytes m x ++ leBytes n (x / 256 ^ m) := by
  induction m generalizing x with
  | zero => simp [leBytes]
  | succ m ih =>
    rw [Nat.succ_add, leBytes, ih, leBytes, Nat.div_div_eq_div_mul, Nat.pow_succ, Nat.mul_comm 256]
    rfl

theorem leNat_leBytes (n x : Nat) : leNat (leBytes n x) = x % 256 ^ n := by
  induction n generalizing x with
  | zero => rw [leBytes, leNat, Nat.pow_zero, Nat.mod_one]
  | succ n ih =>
    have hpow : 256 ^ (n + 1) = 256 * 256 ^ n := by rw [Nat.pow_succ, Nat.mul_comm]
    rw [leBytes, leNat, ih, BitVec.toNat_ofNat, hpow, Nat.mod_mul]

/-- 64 bytes with a field of 4 bytes at byte 12. -/
theorem leBytes_field {lo c : Nat} (hlo : lo < 2 ^ 96) (hc : c < 2 ^ 32) (hi : Nat) :
    leBytes 64 (lo + c * 2 ^ 96 + hi * 2 ^ 128) = leBytes 12 lo ++ (leBytes 4 c ++ leBytes 48 hi) := by
  have h12 : (lo + c * 2 ^ 96 + hi * 2 ^ 128) / 256 ^ 12 = c + hi * 2 ^ 32 := by omega
  have h4 : (c + hi * 2 ^ 32) / 256 ^ 4 = hi := by omega
  rw [leBytes_add 12 52, h12, leBytes_add 4 48, h4]
  congr 1
  · exact leBytes_congr (by omega)
  · congr 1
    exact leBytes_congr (by omega)

/-- The first 12 bytes of a record, as a number. -/
def recLow (r : AlmRec) : Nat :=
  1 + r.cls % 8 * 2 ^ 16 + r.index % 65536 * 2 ^ 32 + r.code % 65536 * 2 ^ 48 + r.step % 2 ^ 32 * 2 ^ 64

/-- The bytes of a record from byte 16 on, as a number. -/
def recHigh (r : AlmRec) : Nat :=
  r.seq % 2 ^ 64 * 2 ^ 64 + r.time % 2 ^ 64 * 2 ^ 128 + r.addr % 2 ^ 64 * 2 ^ 192 + r.info0 % 2 ^ 64 * 2 ^ 256
    + r.info1 % 2 ^ 64 * 2 ^ 320

theorem recLow_lt (r : AlmRec) : recLow r < 2 ^ 96 := by
  unfold recLow
  omega

/-- A record is its low part, its CRC, and its high part; the CRC is that of the record with 0 in its place. -/
theorem bytes_almRec (r : AlmRec) :
    AlmRec.bytes r = leBytes 12 (recLow r) ++
      (leBytes 4 (crc32c (leBytes 12 (recLow r) ++ (leBytes 4 0 ++ leBytes 48 (recHigh r)))) ++ leBytes 48 (recHigh r)) := by
  have hw (c : Nat) : 1 + r.cls % 8 * 2 ^ 16 + r.index % 65536 * 2 ^ 32 + r.code % 65536 * 2 ^ 48 + r.step % 2 ^ 32 * 2 ^ 64
      + c * 2 ^ 96 + r.seq % 2 ^ 64 * 2 ^ 192 + r.time % 2 ^ 64 * 2 ^ 256 + r.addr % 2 ^ 64 * 2 ^ 320
      + r.info0 % 2 ^ 64 * 2 ^ 384 + r.info1 % 2 ^ 64 * 2 ^ 448 = recLow r + c * 2 ^ 96 + recHigh r * 2 ^ 128 := by
    unfold recLow recHigh
    simp only [Nat.add_mul, Nat.mul_assoc, ← Nat.pow_add, Nat.reduceAdd, Nat.add_assoc]
  rw [AlmRec.bytes]
  dsimp only
  rw [hw, hw, leBytes_field (recLow_lt r) (crc32c_lt _), leBytes_field (c := 0) (recLow_lt r) (by decide)]

theorem length_bytes (r : AlmRec) : (AlmRec.bytes r).length = 64 := length_leBytes 64 _

theorem crc_bytes (r : AlmRec) :
    leNat (((AlmRec.bytes r).drop 12).take 4) =
      crc32c ((AlmRec.bytes r).take 12 ++ leBytes 4 0 ++ (AlmRec.bytes r).drop 16) := by
  rw [bytes_almRec]
  generalize hc : crc32c (leBytes 12 (recLow r) ++ (leBytes 4 0 ++ leBytes 48 (recHigh r))) = c
  have hlt : c < 2 ^ 32 := by rw [← hc]; exact crc32c_lt _
  have hdrop : (leBytes 12 (recLow r) ++ (leBytes 4 c ++ leBytes 48 (recHigh r))).drop 12 =
      leBytes 4 c ++ leBytes 48 (recHigh r) := List.drop_left' (length_leBytes 12 _)
  have hhigh : (leBytes 12 (recLow r) ++ (leBytes 4 c ++ leBytes 48 (recHigh r))).drop 16 = leBytes 48 (recHigh r) := by
    rw [← List.append_assoc]
    exact List.drop_left' (by simp)
  rw [hdrop, hhigh, List.take_left' (length_leBytes 4 c), List.take_left' (length_leBytes 12 _), leNat_leBytes,
    List.append_assoc, hc]
  exact Nat.mod_eq_of_lt hlt

/-! ### The oldest record that has not been copied -/

/-- The older of two records, of those that the ring lacks. -/
def olderRec (copied : Nat) (b : Option AlmRec) (e : Nat × AlmRec) : Option AlmRec :=
  if e.2.seq < copied then b
  else match b with
    | some r => if e.2.seq < r.seq then some e.2 else b
    | none => some e.2

theorem olderRec_oldest {n : Nat} {r : AlmRec} {e : Nat × AlmRec} (hle : n ≤ e.2.seq → r.seq ≤ e.2.seq) :
    olderRec n (some r) e = some r := by
  unfold olderRec
  split
  · rfl
  · next hn => exact if_neg (by have := hle (by omega); omega)

/-- What is oldest so far is r or a record behind it. -/
def NotBefore (r : AlmRec) (b : Option AlmRec) : Prop := ∀ x, b = some x → x = r ∨ r.seq < x.seq

theorem olderRec_notBefore {n : Nat} {r : AlmRec} {b : Option AlmRec} {e : Nat × AlmRec} (h : NotBefore r b)
    (hle : n ≤ e.2.seq → r.seq ≤ e.2.seq) (heq : e.2.seq = r.seq → e.2 = r) : NotBefore r (olderRec n b e) := by
  unfold olderRec
  split
  · exact h
  · next hn =>
    have he : NotBefore r (some e.2) := fun x hx => by
      obtain rfl : e.2 = x := Option.some.inj hx
      rcases Nat.eq_or_lt_of_le (hle (by omega)) with hs | hs
      · exact .inl (heq hs.symm)
      · exact .inr hs
    cases b with
    | none => exact he
    | some x =>
      dsimp only
      split
      · exact he
      · exact h

theorem olderRec_self {n : Nat} {r : AlmRec} {b : Option AlmRec} {k : Nat} (h : NotBefore r b) (hr : n ≤ r.seq) :
    olderRec n b (k, r) = some r := by
  unfold olderRec
  rw [if_neg (by dsimp only; omega)]
  cases b with
  | none => rfl
  | some x =>
    dsimp only
    rcases h x rfl with rfl | hx
    · rw [if_neg (Nat.lt_irrefl _)]
    · rw [if_pos hx]

theorem foldl_olderRec {n : Nat} {r : AlmRec} (l : SMap AlmRec) (hle : ∀ e ∈ l, n ≤ e.2.seq → r.seq ≤ e.2.seq)
    (heq : ∀ e ∈ l, e.2.seq = r.seq → e.2 = r) (hr : n ≤ r.seq) : ∀ b : Option AlmRec, NotBefore r b →
      (b = some r ∨ ∃ k, (k, r) ∈ l) → l.foldl (olderRec n) b = some r := by
  induction l with
  | nil =>
    intro b _ hb
    exact hb.elim id (fun ⟨k, hk⟩ => absurd hk List.not_mem_nil)
  | cons e l ih =>
    intro b hbefore hb
    have hle' := hle e List.mem_cons_self
    have heq' := heq e List.mem_cons_self
    refine ih (fun x hx => hle x (List.mem_cons_of_mem _ hx)) (fun x hx => heq x (List.mem_cons_of_mem _ hx)) _
      (olderRec_notBefore hbefore hle' heq') ?_
    rcases hb with rfl | ⟨k, hk⟩
    · exact .inl (olderRec_oldest hle')
    · rcases List.mem_cons.1 hk with rfl | hk
      · exact .inl (olderRec_self hbefore hr)
      · exact .inr ⟨k, hk⟩

/-! ### The copy -/

/-- Where the next record goes. -/
def ringAddr (s : State) : Nat := s.freg FR.ALM_RING_BASE + 64 * (s.freg FR.ALM_RING_TAIL % s.ringSize)

theorem ringSlot_lt (s : State) (n : Nat) : n % s.ringSize < 2 ^ 64 := by
  have hbits : bits (s.freg FR.ALM_CTRL) 7 4 < 2 ^ 4 := Nat.mod_lt _ (by decide)
  have hpow : s.ringSize ≤ 2 ^ 64 := Nat.pow_le_pow_right (by decide) (by omega)
  exact (Nat.mod_lt n (Nat.two_pow_pos _)).trans_le hpow

/-- Record r noted as the last that has gone to the ring. -/
def ringMoved (s : State) (r : AlmRec) : State :=
  State.setFreg { s with alm := { s.alm with copied := r.seq + 1 } } FR.ALM_RING_TAIL
    ((s.freg FR.ALM_RING_TAIL + 1) % s.ringSize)

theorem ringCopy_moved {r : AlmRec} (hm : s.dev.mainOn = true) (hen : bitB (s.freg FR.ALM_CTRL) 0 = true)
    (hfull : (s.freg FR.ALM_RING_TAIL + 1) % s.ringSize ≠ s.freg FR.ALM_RING_HEAD % s.ringSize)
    (hold : s.alm.buf.foldl (olderRec s.alm.copied) none = some r) (hawake : s.rawAsleep (ringAddr s) = none) :
    exec .almanacRingCopy s = .next (ringMoved (s.putLatest (ringAddr s) (clean r.bytes)) r) := by
  have hnot : s.ringFull = false := beq_eq_false_iff_ne.2 hfull
  have hexec : execAlmanacRingCopy s =
      if !s.dev.mainOn || !bitB (s.freg FR.ALM_CTRL) 0 || s.ringFull then .next s
      else match s.alm.buf.foldl (olderRec s.alm.copied) none with
        | none => .next s
        | some r => match s.rawAsleep (ringAddr s) with
          | some i => .next (s.requestExit i)
          | none => .next (ringMoved (s.putLatest (ringAddr s) (clean r.bytes)) r) := by
    unfold execAlmanacRingCopy ringMoved ringAddr olderRec
    rfl
  show execAlmanacRingCopy s = _
  rw [hexec, hm, hen, hnot, hold]
  simp only [hawake]
  rfl

/-- Bytes within one line that no cache holds go to HBM. -/
theorem putLatest_hbm {a : Nat} {bs : List PByte} (hbs : 0 < bs.length) (hin : a % 256 + bs.length ≤ 256) (ha : a < hbmTop)
    (habs : s.absent (a / 256) = true) (hpost : s.mustPost a bs.length = false) :
    s.putLatest a bs = s.hbmWrite a bs := by
  rw [State.putLatest, hpost, if_neg Bool.false_ne_true, putNow_absent hbs hin habs, State.rawWrite, region_hbm ha]

theorem latest_hbmWrite {a : Nat} {bs : List PByte} (ha : a < hbmTop) (habs : s.absent (a / 256) = true)
    (hw : SMap.wf s.mem.hbmDef s.mem.hbm = true) : (s.hbmWrite a bs).latest a bs.length = plain bs := by
  have habs' : (s.hbmWrite a bs).absent (a / 256) = true := habs
  have h := smap_getRange_setRange s.mem.hbmDef (plain bs) s.mem.hbm a hw
  rw [show (plain bs).length = bs.length from List.length_map ..] at h
  unfold State.latest
  dsimp only
  rw [habs', if_pos rfl, State.rawRead, region_hbm ha]
  show plain (State.hbmRead _ _ _) = _
  rw [State.hbmRead, plain_withPoison]
  exact h

theorem latest_ringMoved (s : State) (r : AlmRec) (a n : Nat) : (ringMoved s r).latest a n = s.latest a n := rfl

theorem tail_ringMoved (r : AlmRec) (hw : SMap.wf floorResetVal s.fregs = true) :
    (ringMoved s r).freg FR.ALM_RING_TAIL = (s.freg FR.ALM_RING_TAIL + 1) % s.ringSize := by
  have h := freg_setFreg_self { s with alm := { s.alm with copied := r.seq + 1 } } FR.ALM_RING_TAIL
    ((s.freg FR.ALM_RING_TAIL + 1) % s.ringSize) hw
  exact h.trans (Nat.mod_eq_of_lt (ringSlot_lt s _))

theorem ringMoved_frame (s u : State) (r : AlmRec) (h : u = { s with mem := u.mem }) :
    ringMoved u r = { s with
      alm := { s.alm with copied := r.seq + 1 }, fregs := (ringMoved u r).fregs, mem := (ringMoved u r).mem } := by
  rw [h]
  rfl

end Sys2Proof.Proofs
end

section
/-! O55: fatal errors, and the records that go to the ring. -/

namespace Sys2Proof.Proofs
open Sys2Proof Sys2Proof.Machine Sys2Proof.Laws

/-- What a record of a fatal error adds to what the error leaves where no instance runs. -/
theorem struck_recorded {s u : State} (h : Struck s u) (source cause : Nat) :
    let t := u.logEvent 0x0A02 source 4 0 cause 0
    (∀ c, (s.cell c).mode ≠ .running → DataOf (s.cell c) (t.cell c)) ∧
    t.alm.seq = s.alm.seq + 1 ∧
    (s.alm.severe.length < 64 → ∃ r : AlmRec, t.alm.severe = s.alm.severe ++ [r] ∧
      (s.alm.seq % 1024, r) ∈ t.alm.buf ∧ r.seq = s.alm.seq ∧ r.code = 0x0A02 ∧
      r.cls = 4 ∧ r.index = source % 65536 ∧ r.info0 = cause ∧ r.time = s.timeUs) ∧
    (s.hs.link = .cxl → t.hs.aer = s.hs.aer + 1) ∧
    t.ce = { s.ce with waitQ := [], mine := none } ∧
    t.mem = { s.mem with
      hbm := [], hbmPoison := [], tagSyn := [], hbmEpoch := t.mem.hbmEpoch, lines := t.mem.lines } ∧
    ∀ la, t.line la = { s.line la with data := (t.line la).data, poison := (t.line la).poison } := by
  obtain ⟨hframe, hresting, hmem, hlines⟩ := h
  have halm : u.alm = s.alm := by rw [hframe]
  have htime : u.timeUs = s.timeUs := by rw [hframe]
  have hhs : u.hs = s.hs := by rw [hframe]
  have hce : u.ce = { s.ce with waitQ := [], mine := none } := by rw [hframe]
  have hlogs := logs_logEvent u 0x0A02 source 4 0 cause 0
  have hseq := logEvent_seq u 0x0A02 source 4 0 cause 0
  have hsevere := logEvent_severe u 0x0A02 source 0 cause 0
  have haer := logEvent_aer u 0x0A02 source 0 cause 0
  intro t
  change Logs u t at hlogs
  have hmem' : t.mem = u.mem := by rw [hlogs]
  have hline (la : Nat) : t.line la = u.line la := by rw [State.line, hmem']; rfl
  rw [halm, htime] at hsevere
  refine ⟨fun c hc => ?_, by rw [← halm]; exact hseq, hsevere, fun hlink => ?_, hlogs.ce.trans hce, ?_, fun la => ?_⟩
  · rw [hlogs.cell c]
    exact hresting c hc
  · rw [← hhs]
    exact haer (by rw [hhs, hlink])
  · rw [hmem']
    exact hmem
  · rw [hline la]
    exact hlines la

theorem tail_written {s : State} (r : AlmRec) (a : Nat) (bs : List PByte) (hw : SMap.wf floorResetVal s.fregs = true) :
    (ringMoved (s.hbmWrite a bs) r).freg FR.ALM_RING_TAIL = (s.freg FR.ALM_RING_TAIL + 1) % s.ringSize := by
  have htail : (s.hbmWrite a bs).freg FR.ALM_RING_TAIL = s.freg FR.ALM_RING_TAIL := rfl
  have hsize : (s.hbmWrite a bs).ringSize = s.ringSize := rfl
  rw [← htail, ← hsize]
  exact tail_ringMoved r hw

theorem get_hbmWrite_other (s : State) {a b : Nat} (bs : List PByte) (h : b < a ∨ a + bs.length ≤ b) :
    SMap.get (s.hbmWrite a bs).mem.hbmDef (s.hbmWrite a bs).mem.hbm b = SMap.get s.mem.hbmDef s.mem.hbm b := by
  have hlen : (plain bs).length = bs.length := List.length_map ..
  exact smap_get_setRange_other s.mem.hbmDef (plain bs) s.mem.hbm a b (by omega)

/-- The oldest record, copied to memory that no cache holds, reads back as it was written. -/
theorem ringCopy_written {s : State} {r : AlmRec} {a : Nat} (hring : ringAddr s = a) (hm : s.dev.mainOn = true)
    (hen : bitB (s.freg FR.ALM_CTRL) 0 = true)
    (hfull : (s.freg FR.ALM_RING_TAIL + 1) % s.ringSize ≠ s.freg FR.ALM_RING_HEAD % s.ringSize)
    (hold : s.alm.buf.foldl (olderRec s.alm.copied) none = some r) (ha : a % 64 = 0) (hin : a + 64 ≤ hbmTop)
    (hwf : Memory.wf s.mem = true) (hsr : s.stackSr (s.stackOf a) = false) (habs : s.absent (a / 256) = true)
    (hpost : s.mustPost a 64 = false) (hw : SMap.wf floorResetVal s.fregs = true) :
    ∃ u : State, exec .almanacRingCopy s = .next (ringMoved u r) ∧ u.latest a 64 = r.bytes ∧
      (ringMoved u r).freg FR.ALM_RING_TAIL = (s.freg FR.ALM_RING_TAIL + 1) % s.ringSize ∧
      (∀ b, (b < a ∨ a + 64 ≤ b) → SMap.get u.mem.hbmDef u.mem.hbm b = SMap.get s.mem.hbmDef s.mem.hbm b) ∧
      u = { s with mem := u.mem } := by
  obtain ⟨⟨⟨hhbm, -⟩, -⟩, -⟩ : ((SMap.wf s.mem.hbmDef s.mem.hbm = true ∧ _) ∧ _) ∧ _ := by
    simpa only [Memory.wf, Bool.and_eq_true] using hwf
  have hbytes : (clean r.bytes).length = 64 := by rw [length_clean, length_bytes]
  have htop : a < hbmTop := Nat.lt_of_lt_of_le (Nat.lt_add_of_pos_right (by decide)) hin
  have hawake : s.rawAsleep a = none := by rw [State.rawAsleep, hsr, Bool.and_false, if_neg Bool.false_ne_true]
  have hput : s.putLatest a (clean r.bytes) = s.hbmWrite a (clean r.bytes) :=
    putLatest_hbm (by rw [hbytes]; decide) (by rw [hbytes]; omega) htop habs (by rwa [hbytes])
  refine ⟨s.hbmWrite a (clean r.bytes), ?_, ?_, tail_written r a _ hw, fun b hb => ?_,
    rfl⟩
  · rw [← hput, ← hring]
    exact ringCopy_moved hm hen hfull hold (by rw [hring]; exact hawake)
  · have h := latest_hbmWrite (bs := clean r.bytes) htop habs hhbm
    rwa [hbytes, plain_clean] at h
  · exact get_hbmWrite_other s _ (by rw [hbytes]; exact hb)

theorem exec_fatal {s : State} {source cause : Nat} (hm : s.dev.mainOn = true) {q : Instr × Nat × Nat}
    (hq : q ∈ [(Instr.fatalError source cause, source % 65536, cause % 2 ^ 64),
      (Instr.pllLockLoss, Config.pllFatal.1, Config.pllFatal.2)]) :
    exec q.1 s = .next (s.fatalError q.2.1 q.2.2) := by
  rcases List.mem_pair.1 hq with rfl | rfl
  · show execFatalError source cause s = _
    rw [execFatalError, hm, if_pos rfl]
  · show execPllLockLoss s = _
    rw [execPllLockLoss, hm, if_pos rfl]

/-- Settles O55: the halt leaves no cell running, and nothing that follows it starts one or touches RST_STATUS; where no
instance runs it is an explicit chain of changes; a record reads back from the ring as it was written. -/
theorem fatalErrorsAndTheAlmanacRing : Obligations.FatalErrorsAndTheAlmanacRing := by
  unfold Obligations.FatalErrorsAndTheAlmanacRing
  refine ⟨fun s source cause o => ⟨fun hm hw q hq => ?_, fun hreach hs => ⟨_, almSevClr_empties hreach hs, rfl⟩⟩, ?_⟩
  · refine ⟨s.fatalError q.2.1 q.2.2, exec_fatal hm hq, fatalError_modes s _ _, fatalError_fatal s _ _ hw, fun hi hp => ?_,
      fun k i hothers hk he hn hv => (fatalError_ended hk he hn hv hothers q.2.1 q.2.2).self⟩
    rw [fatalError_eq]
    exact struck_recorded (struck_spoilData hp hi) q.2.1 q.2.2
  · intro s r k size tail a hm hen hfull hk hcop hmin huniq ha hin hwf hsr habs hpost hw
    have hold := foldl_olderRec s.alm.buf hmin huniq hcop none (fun x hx => absurd hx (by simp)) (.inr ⟨k, hk⟩)
    obtain ⟨u, hexec, hread, htail, hothers, hframe⟩ :=
      ringCopy_written (a := a) rfl hm hen hfull hold ha hin hwf hsr habs hpost hw
    exact ⟨_, hexec, (latest_ringMoved u r a 64).trans hread, rfl, htail, hothers, length_bytes r, crc_bytes r,
      ringMoved_frame s u r hframe⟩

end Sys2Proof.Proofs
end
